-- ==== Sys2Proof/Word.lean ====
section
/-!
DEFINITION. Word and container types of the Ocnath model: bytes, 32-bit and 64-bit words, and the two kinds of sparse
table in which the many units of the module are held. A table lists only what differs from its stated default.
-/
namespace Sys2Proof

/-- One byte of any memory or buffer. -/
abbrev Byte := BitVec 8

/-- A string of bytes, byte 0 first (R13: multi-byte fields are little-endian). -/
abbrev Bytes := List (BitVec 8)

abbrev W32 := BitVec 32
abbrev W64 := BitVec 64

/-- A sparse table from numbers to values, keys strictly rising. -/
abbrev Tab (α : Type) := List (Nat × α)

/-- A byte memory: (address, byte) pairs, addresses strictly rising, no entry equal to the unlisted byte 0. -/
abbrev Memory := List (Nat × BitVec 8)

end Sys2Proof
end

