-- ==== Sys2Proof/Syntax.lean ====
section
/-!
DEFINITION. The commands of the block: one constructor of `Instr` for each row of spec/opcode_table.json.
The table gives the rows no operands; those here are the ones the row's rule speaks of: the units it concerns, and what
the world outside the block (a host's memory, an analogue quantity, an elapsed time, a physical fault, a peer module)
supplies to the step. Units are named by the numbers of Table 0.2; a wedge by facet * 16 + wedge, a logical macro by
wedge * 192 + macro, a stream engine by hub * 8 + engine, an issuer by its issuer code (Table 9.1).
-/
namespace Sys2Proof

/-- What a read of host memory gives: bytes, or a failure with its detail of R378 (1 UR, 2 CA, 3 timeout, 4 poisoned). -/
inductive HostRead where
  | ok (bytes : Bytes)
  | fail (detail : Nat)
deriving DecidableEq, Repr

/-- The sources of dictionary requests (R388): a host port, the management port, the ROM firmware. -/
inductive Source where
  | port (h : Nat)
  | mgmt
  | firmware
deriving DecidableEq, Repr

/-- A dictionary request that carries its own value (the entries whose writes are steps of their own). `cmd` is the
in-flight host command that made it, if one did; `sid` the Tamjor session it travelled in, 0 for none. -/
structure OdReq where
  src : Source
  sid : Nat
  cmd : Option Nat
  sub : Nat
  value : Bytes
deriving DecidableEq, Repr

/-- A directed hop of the fabric (ch. 10): from the sender's end to the receiver's. -/
inductive Hop where
  | lattice (wedge : Nat) (dir : Nat)          -- from a wedge's router: 0 N, 1 E, 2 S, 3 W, 4 spine
  | spineDown (facet column : Nat)             -- from the spine into the router of line 0 in that column
  | facetUp (facet : Nat)                      -- facet bridge, facet to hub
  | facetDown (facet : Nat)                    -- facet bridge, hub to facet
  | switchIn (hub port : Nat)                  -- unit to switch port
  | switchOut (hub port : Nat)                 -- switch port to unit
  | bridge (src dst : Nat)                     -- hub-to-hub bridge
deriving DecidableEq, Repr

/-- A fabric frame (Table 10.3); `payload` is the dense payload, `wire` what travels under R270. -/
structure Frame where
  cls : Nat
  dense : Bool
  ctype : Nat
  plen : Nat
  dlen : Nat
  mcast : Bool
  poison : Bool
  op : Nat
  btag : Nat
  src : Nat
  dst : Nat
  wmask : BitVec 16
  addr : Nat
  payload : Bytes
  wire : Bytes
  seq : Nat := 0
deriving DecidableEq, Repr

/-- A Narsy data frame (Table 12.1) with its wire payload and the CRC it carries. `kind` and `rlen` are what a request says beyond
Table 12.1, which gives no place for it: the atomic (0 to 3 fetch-add on 32 and 64 bits, swap on 32 and 64 bits, 4 test-and-set), the
add (0 FP32, 1 INT32), the bytes that a read asks for or that a store or add carries (notes/assumptions/44.md). `fec` is the number of
codewords that the receiving end had to correct for it (R340). -/
structure LinkFrame where
  kind : Nat
  rlen : Nat
  op : Nat
  cls : Nat
  form : Nat
  plen : Nat
  dlen : Nat
  poison : Bool
  seq : Nat
  tag : Nat
  exp : Nat
  offset : Nat
  wire : Bytes
  crc : BitVec 32
  fec : Nat := 0
deriving DecidableEq, Repr

/-- A Narsy control frame (Table 12.2) with the CRC it carries. -/
structure CtlFrame where
  nak : Bool
  ackseq : Nat
  cr : List Nat
  alive : BitVec 8
  crc : BitVec 32
deriving DecidableEq, Repr

/-- A Narsy capability frame: the record of Table 12.6 with its reserved bits at their places, and the CRC it carries (R314, R316). -/
structure CapRecord where
  vmax : Nat
  vmin : Nat
  welide : Bool
  belide : Bool
  atom : Bool
  ident : BitVec 64
  link : Nat
  lanes : BitVec 4
  slots : List Nat
  seen : Bool
  tags : Nat
  resume : Bool
  rxseq : Nat
  rsv : Nat := 0
  crc : BitVec 32 := 0
deriving DecidableEq, Repr

/-- A request that enters a link from the local switch: op, class, export, offset, payload, the requester's endpoint and address, kept
with the tag (R325), and the hub and link group of its window (R327). -/
structure RemoteReq where
  op : Nat
  kind : Nat
  cls : Nat
  exp : Nat
  offset : Nat
  len : Nat
  payload : Bytes
  src : Nat
  addr : Nat
  peer : BitVec 64
  tile : Option Nat
  hub : Nat := 0
  group : Nat := 0
deriving DecidableEq, Repr

/-- An address of the management port (R395): link-local, one of SLAAC, or a static IPv6 or IPv4 address. -/
inductive NetAddr where
  | linkLocal
  | slaac (addr : BitVec 128)
  | static6 (addr : Bytes)
  | ipv4 (addr : BitVec 32)
deriving DecidableEq, Repr

/-- The ends of a datagram's way: who sent it (its source address and port, as one number), and the module's address and UDP port that it
names. -/
structure Peer where
  id : Nat
  via : NetAddr
  port : Nat
deriving DecidableEq, Repr

/-- A scale entry in flight (Table 4.1). -/
structure ScaleEntry where
  exp : BitVec 8
  tag : BitVec 4
deriving DecidableEq, Repr

/-- A data block in flight: its tag, the tile coordinates 0 and 1 of its first element, its 32 INT8 elements, and the second values of
a 2:4 operand at the positions where two indices of a group are equal, else 0 (R125); `product` is the product of its tile that it is for. -/
structure DataBlock where
  tag : BitVec 4
  c0 : Nat
  c1 : Nat
  q : List (BitVec 8)
  dup : List (BitVec 8) := []
  product : Nat := 0
deriving DecidableEq, Repr

/-- A block or scale entry of a tile as a pairing side takes it: the block along the reduction, tile coordinate 1, and the product of the
tile that it is for (0 the first, 1 the up product of a gated pair, 2 the second of a fused pair; 0 at a lane). -/
structure BlockAt where
  k : Nat
  c1 : Nat
  product : Nat := 0
deriving DecidableEq, Repr

/-- The outlier values that travel with a block (R108): row and INT16 value of each outlier row, the vector's exponent, and the tag
of the third stream. -/
structure OutlierSide where
  rows : List (Nat × BitVec 16)
  exp : BitVec 8
  tag : BitVec 4
deriving DecidableEq, Repr

/-- An input at which a pairing side joins data and scales (R93): a macro's, or a lane's for its first or (`b`) second operand. -/
inductive PairIn where
  | mac (m : Nat)
  | lane (engine lane : Nat) (b : Bool)
deriving DecidableEq, Repr

/-- A binary tree over the indices of the partials of one output: the order of an FP32 reduction, which follows
scheduling (R21, R52). -/
inductive RedTree where
  | leaf (i : Nat)
  | node (l r : RedTree)
deriving DecidableEq, Repr

/-- Operations of the accumulator buffer (Table 6.2). `softmax d` and `topk` pass through the merge unit. -/
inductive AccOp where
  | fadd | iadd | fmax | fmin | store
  | softmax (d : Nat)
  | topk
deriving DecidableEq, Repr

/-- An update of the accumulator buffer (R158). `seq` is its place in the order in which updates entered the engine's queues (R160). -/
structure AccUpd where
  tile : Nat
  lane : Nat
  off : Nat
  op : AccOp
  words : List (BitVec 32)
  seq : Nat := 0
deriving DecidableEq, Repr

/-- What a lane step adds (R146). `key` is the output the accumulator stands for (query row, key or column). -/
inductive LaneWork where
  | dot (row col : Nat)                                  -- one step of a dot product, from the lane's operand input
  | candidate (row index : Nat)                          -- TOPK_CANDIDATE: the score of (row, index) is final (R172)
  | attend (row : Nat)                                   -- one query row of the attention item (R167)
  | rowfn (order : RedTree)                              -- a row-wise function (R174 to R177) or a merge stage (R171) over the
                                                         -- operand input; `order` is that of the sum of squares
  | kvAppend (tensor : Nat)                              -- KV_APPEND_ROW (R166): tensor 0 for K, 1 for V
  | move                                                 -- LMOVE: elements pass unchanged or converted (R500)
deriving DecidableEq, Repr

/-- Where a block of a conversion lies (R109): its data and scale tensors, and the declared coordinates of its first element. -/
structure DmaPlace where
  data : Nat
  scale : Nat
  coord : List Nat
  deriving DecidableEq, Repr

/-- Where an address generator hands the element that it fetched. -/
inductive FetchDest where
  | laneA (engine lane : Nat)
  | laneB (engine lane : Nat)
  | tile
deriving DecidableEq, Repr

/-- Outcome of a self-test run on its target: what the physical test found. `lanes`, `slots` list failing parts, `words` the words that
failed a march, by memory and byte address, `spares` the free spare slots that failed, by wedge * 256 + slot. -/
structure TestOutcome where
  pass : Bool
  lanes : List Nat
  slots : List Nat
  words : List (Nat × Nat)
  spares : List Nat := []
deriving DecidableEq, Repr

/-- How the bytes of an access arrive at a slice: reads, full-line or partial writes, adds and atomics (R295, R296). -/
inductive MemOp where
  | read
  | write (bytes : Bytes)
  | addF32 (words : List (BitVec 32))
  | addI32 (words : List (BitVec 32))
  | testSet (bit : Nat)
  | fetchAdd (size : Nat) (v : BitVec 64)
  | swap (size : Nat) (v : BitVec 64)
deriving DecidableEq, Repr

/-- A request waiting at a scratchpad bank (R301): its rank, its age order, and the operation on 32-byte word bytes. -/
structure BankReq where
  rank : Nat
  addr : Nat
  len : Nat
  op : MemOp
  starved : Bool
deriving DecidableEq, Repr

/-- Steps of one domain in a metering interval that belong to one port and phase, port 0 to 3; port 4 stands for background steps and 5 for
ballast (R422, R428). -/
structure EnergyShare where
  domain : Nat
  port : Nat
  phase : Nat
  lane : Bool
  steps : Nat
deriving DecidableEq, Repr

/-- A sample of one governed domain over 10 µs (R420): phase of its steps, lane or macro, steps, energy in pJ less idle
draw. -/
structure EnergySample where
  domain : Nat
  phase : Nat
  lane : Bool
  steps : Nat
  pj : Rat
deriving DecidableEq, Repr

/-- A consumer's activity as a region governor sees it (R418): domain, phase, whether lanes, active macros or lanes. -/
structure Activity where
  domain : Nat
  phase : Nat
  lane : Bool
  active : Nat
deriving DecidableEq, Repr

/-- The faults that a read-back verify finds (R442): index of the macro in placement order, physical unit, column. -/
structure VerifyErr where
  mac : Nat
  unit : Nat
  col : Nat
deriving DecidableEq, Repr

/-- An event record of Table 16.9 before it enters the ring. -/
structure Event where
  code : BitVec 16
  hub : Nat
  hseq : BitVec 32
  unit : BitVec 32
  time : Nat
  detail : Bytes
deriving DecidableEq, Repr

/-- The commands. One constructor per row of spec/opcode_table.json, in its order. -/
inductive Instr where
  -- host queues and port (ch. 13)
  | sqDoorbell (port q : Nat) (tail : BitVec 12)
  | cqDoorbell (port q : Nat) (head : BitVec 12)
  | queueEnable (port q : Nat)
  | queueDisable (port q : Nat)
  | queueDisableDone (port q : Nat)
  | bar0RegisterWrite (port off size : Nat) (value : BitVec 64)
  | commandFetch (port : Nat) (entry : HostRead)
  | completionWrite (port q : Nat)
  | d3hotEntry (port : Nat)
  | d0Return (port : Nat)
  -- host commands (ch. 13): each runs the command in flight that it names
  | identify (cmd : Nat)
  | odRead (cmd : Nat)
  | odWrite (cmd : Nat) (value : HostRead)
  | alloc (cmd : Nat)
  | free (cmd : Nat)
  | descCreate (cmd : Nat) (image : HostRead)
  | descDestroy (cmd : Nat)
  | loadWeights (cmd : Nat) (placement outliers : HostRead)
  | loadWeightsStart (cmd : Nat)
  | loadWeightsComplete (cmd : Nat) (image : HostRead) (verify : List VerifyErr)
  | swapBank (cmd : Nat)
  | swapBankEffect (group : Nat)
  | programLoad (cmd : Nat) (image : HostRead)
  | runJob (cmd : Nat) (transfers : HostRead)
  | jobStart (job : Nat)
  | copyInComplete (job : Nat) (data : List HostRead)
  | transferCopyOut (job : Nat) (fault : Option Nat)
  | jobComplete (job : Nat)
  | fence (cmd : Nat)
  | fenceComplete (cmd : Nat)
  | abort (cmd : Nat)
  | phaseHint (cmd : Nat)
  | hintRampStart (hub phase : Nat)
  | hintHoldExpiry (hub phase : Nat)
  | calibrate (cmd : Nat)
  | selftest (cmd : Nat)
  | selftestDone (target : BitVec 32) (outcome : TestOutcome)
  | resetUnit (cmd : Nat)
  | ceConfigWrite (cmd : Nat)
  | ceReadRunning (cmd : Nat)
  | ceWriteRunning (cmd : Nat)
  -- issuers (ch. 9)
  | instructionStart (issuer : Nat)
  | counterReadyPoll (issuer : Nat)
  | counterWaitRelease (issuer : Nat) (waited : Nat)
  | workClaim (issuer : Nat)
  | tileIssue (issuer : Nat) (engine : Nat)
  | tileCommit (tile : Nat)
  | sweepClaim (issuer : Nat)
  | issuerRejoin (issuer : Nat)
  | homeSweepByC0 (job ctr : Nat)
  -- macro path (ch. 2 to 5). A block or entry is named by its block along the reduction and its tile coordinate 1; none ends the stream
  | blockPairing (at_ : PairIn) (tile : Nat) (blk : Option BlockAt)
  | scaleEntryArrival (at_ : PairIn) (tile : Nat) (entry : Option BlockAt)
  | blockAdmit (mac : Nat) (tile vec : Nat) (outlierVec : Nat)
  | macroPlaneStep (mac : Nat) (errs : List (Nat × Nat × Rat))
  | reResolutionStep (mac : Nat)
  | recalTrigger (mac : Nat)
  | outlierTerm (mac : Nat)
  | outputStagePartial (mac : Nat)
  | finalAdderReduce (tile colBlock vec : Nat) (order : RedTree)
  | auditServe (tile neuron : Nat)
  | formingIssueStart (engine : Bool) (unit tile : Nat)
  | quantiseElement (quant tile part : Nat) (vec pos : Nat)
  | formingIssueEnd (engine : Bool) (unit tile : Nat)
  | conversionDmaBlock (hub : Nat) (fmt : Nat) (toHost : Bool) (elems : List (BitVec 32)) (exp : BitVec 8) (place : DmaPlace)
  | operandFetch (tile opnd : Nat) (coord : List Int) (dest : FetchDest)
  -- stream engines (ch. 6)
  | dispatchInstruction (engine tile : Nat)
  | windowFill (engine tile : Nat)
  | itemDeal (engine : Nat)
  | itemStart (engine lane : Nat)
  | workSteal (engine lane : Nat)
  | laneStep (engine lane : Nat) (work : LaneWork)
  | contextFlush (engine lane tile : Nat)
  | accUpdate (engine : Nat) (bank : Nat) (upd : Option AccUpd)
  | softmaxMerge (engine : Nat)
  | topkMerge (engine : Nat)
  | streamTileComplete (engine tile : Nat)
  -- halo mailboxes (ch. 9)
  | haloAppend (tile dir : Nat)
  | haloRead (tile dir : Nat)
  | haloTimeout (tile waited : Nat)
  -- fabric (ch. 10)
  | frameSend (hop : Hop) (frame : Frame)
  | frameReceive (hop : Hop) (frame : Frame) (flitErrors : List Nat)
  | creditReturn (hop : Hop) (cls : Nat)
  | frameReplay (hop : Hop)
  | multicastForward (hop : Hop) (cls : Nat) (outputs : List Hop)
  | fabricHopFail (hop : Hop)
  | fabricStall (hop : Hop) (waited : Nat)
  | hopEndReset (hop : Hop) (receiver : Bool)
  | writeAccept (tile : Nat) (index : Nat)
  | readRequest (unit : Nat) (room : Nat)
  -- memory (ch. 11)
  | cacheAccess (slice : Nat) (line off len : Nat) (op : MemOp) (symbols : Nat) (tile : Option Nat)
  | lineFill (hub k : Nat) (line : Nat) (symbols : Nat)
  | patrolScrub (slice : Nat) (line : Nat) (symbols : Nat)
  | granuleRemap (stack granule : Nat)
  | bankAccess (issuer : Nat) (req : Option BankReq)
  | bankAtomic (issuer : Nat)
  | spadStarve (issuer : Nat) (index waited : Nat)
  | scratchpadWakeClear (issuer : Nat)
  | marchPreservingWord (issuer : Nat) (word : Nat) (descending : Bool) (bad : Bool) (restored : Bool)
  -- Narsy links (ch. 12)
  | linkDataFrameTx (link : Nat) (req : Option RemoteReq)
  | linkDataFrameRx (link : Nat) (frame : LinkFrame)
  | linkControlFrameTx (link : Nat) (idleUs : Nat)
  | linkControlFrameRx (link : Nat) (frame : CtlFrame)
  | linkReplayTimeout (link elapsed : Nat)
  | linkRetrain (link : Nat)
  | linkAliveTimeout (link elapsed : Nat)
  | linkResyncTimeout (link elapsed : Nat)
  | linkTrainingEnd (link : Nat) (trained : BitVec 4) (locked : Bool)
  | linkCapabilityTx (link : Nat)
  | linkCapabilityRx (link : Nat) (rec : CapRecord) (loopNs : Nat)
  | linkExchangeTimeout (link elapsed : Nat)
  | linkLaneLoss (link lane : Nat)
  | linkWiden (link : Nat) (req : OdReq)
  | linkEnableWrite (link : Nat) (req : OdReq)
  | linkDownRetry (link : Nat)
  | linkDown (link : Nat)
  | bundleRebuild (hub group : Nat) (peer : BitVec 64)
  | bundleWaitExpiry (hub group : Nat) (peer : BitVec 64) (elapsed : Nat)
  -- power (ch. 15)
  | arbiterInterval (inputW governedW : Rat) (acts : List Activity) (inputUj : Rat) (domUj : List (Nat × Rat))
      (shares : List EnergyShare)
  | regionGovernorTick (hub : Nat) (dPrev : Rat) (acts : List Activity)
  | phasePointChoice (hub : Nat) (acts : List Activity) (samples : List EnergySample)
  | supplyMoveDone (domain : Nat)
  | pwrDroop (domain : Nat) (mv : Nat)
  | droopHoldExpiry (hub : Nat)
  | supplyCollapseStop (domain : Nat) (mv : Nat)
  | supplyRecover (domain : Nat) (mv : Nat)
  | thermalSense (domain : Nat) (celsius : Rat)
  | thermThrottle (domain : Nat)
  | thermalCeilingRise (domain : Nat)
  | thermLimit (domain : Nat)
  | powerRequest (req : OdReq)
  | domainDrainDone (domain : Nat)
  | powerTransitionDone (domain : Nat)
  | wedgeWakeRestore (wedge : Nat) (images : List (Nat × HostRead)) (verify : List VerifyErr)
  | wakeOnDemand (domain issuer : Nat)
  -- reliability (ch. 16)
  | ceFrameFeed (engine : Nat) (kind index : Nat) (seq : Nat) (loc offset : Nat) (bytes : Bytes)
  | checkStep (mac : Nat) (colErrs : List (Nat × Nat × Int)) (errs : List (Nat × Nat × Rat)) (storeUe : Bool)
  | checkAgeExpiry (mac ageMs : Nat)
  | idleCheckInterval (mac elapsedUs : Nat)
  | macroReload (mac : Nat) (image : HostRead) (verify : List VerifyErr)
  | macroRetire (mac : Nat) (images : List HostRead) (verify : List VerifyErr)
  | scrubPass (mac : Nat) (flips : List (Nat × Nat))
  | calibrationRequest (mac sinceS driftC : Nat)
  | calibrationStep (mac : Nat) (measured : List (Nat × Nat × Rat))
  | calibrationComplete (mac : Nat)
  | calibrationWaitExpiry (mac waitedMs : Nat)
  | corrEcc (wedge : Nat) (copy : Bool) (index : Nat)
  | eventPost (hub : Nat)
  | eventRingRead (src : Source) (cmd : Option Nat) (room : Nat)
  | limitIntervalRollover (unit : Nat) (periodUs : Nat)
  | wallTimeWrite (req : OdReq)
  | baseBandWrite (req : OdReq)
  -- journal (ch. 14)
  | journalRecordProgram (ok : Bool)
  | journalTokenRefill
  | compactionStart
  | compactionCommit (ok : Bool)
  | regionEraseDone
  -- Tamjor (ch. 14)
  | tamjorRequest (msg : Bytes) (peer : Peer)
  | tamjorOpen (msg : Bytes) (peer : Peer)
  | tamjorConfirm (msg : Bytes) (peer : Peer)
  | confirmTimeout (sid elapsedS : Nat)
  | tamjorClose (msg : Bytes) (peer : Peer)
  | sessionIdleTimeout (sid elapsedS : Nat)
  | mailboxGo (port : Nat)
  -- security (ch. 17)
  | tokenCommit (req : OdReq)
  | attestationNonce (req : OdReq)
  | retryBoot (req : OdReq)
  | tamper (code : Nat) (filterNs : Nat)
  | tamperConditionClear (code : Nat)
  -- module (ch. 18)
  | auxPowerUp
  | standbyStart (mpen : Bool) (matched : Bool) (badWords : List Nat)
  | standbyResetAssert
  | auxBrownout (fallUs : Nat)
  | mainEnRise
  | railsSettled (clkm : List Bool)
  | powerOnSelftest (failed : List Nat) (badWords : List (Nat × Nat))
  | mainEnFall
  | inputFault (overVolt : Bool) (durationUs : Nat)
  | moduleWarmReset (lowUs : Nat)
  | moduleWarmResetRelease
  | portReset (port : Nat)
  | perstRelease (port : Nat)
  | refclkStop (hub : Nat)
  | hubControlReset (hub : Nat)
  | markedEntryRebuild (mac : Nat) (index : Nat)
  | checkStoreRecompute (mac : Nat) (bankB : Bool) (image : HostRead)
  | refclkRestart (hub : Nat)
  | msixEnableChange (port : Nat) (enable : Bool) (mask : BitVec 17)
  | resetDeferralExpiry (unit : BitVec 32) (elapsedUs : Nat)
  | managementLinkChange (up : Bool)
deriving DecidableEq, Repr

end Sys2Proof
end

