-- ==== Sys2Proof/Config.lean ====
section
/-!
DEFINITION. What the spec leaves open, as constants with no body: a claim about the model holds whatever they are.
`n` is the counter `Dev.free`, which each use advances, so that every draw is a fresh value.
-/
namespace Sys2Proof.Config

/-- The bit that a magnitude comparison inside its guard band decides (R43: "in either direction"). -/
opaque guardBit : Nat → Bool

/-- The distance in units of the last place, from the correctly rounded result, at which a row-wise function answers
(R174); it is used only inside the bound of Table 6.5. -/
opaque ulpOffset : Nat → Int

/-- The LFSR of a wedge (R135): its next value, and whether its value draws a neuron at the rate 2^-a. The spec gives
neither the feedback nor the bits that it tests. -/
opaque lfsrNext : BitVec 32 → BitVec 32
opaque lfsrDraws : (lfsr : BitVec 32) → (a : Nat) → Bool

/-- Which of the free frames of a stack the firmware takes (R290: "The firmware chooses the frames"). -/
opaque frameChoice : Nat → Nat

/-- Which place the firmware gives a small allocation among those it has (R290). -/
opaque placeChoice : Nat → Nat

/-- How many whole responses a unit's receiving buffer holds beyond one (R275 gives no size), and how many blocks of partials of one macro
the input of a final adder takes before its output stage holds them (Table 10.6 gives no size). -/
opaque moreRoom : Nat → Nat
opaque adderInput : Nat → Nat

/-- Blocks beyond one that a wedge's input staging buffer holds for each of its macros (notes/assumptions/156.md). -/
opaque stagingRoom : Nat → Nat

/-- The width and the rate that a host port's link trains to, as it and its host find (R342). -/
opaque trainWidth : Nat → Nat
opaque trainRate : Nat → Nat

/-- The energy in pJ that a scrub pass takes from its domain's credit (R419 gives no figure). -/
opaque scrubPj : Nat → Nat

/-- The set of a slice in which a line lies (R292 gives the number of sets and no mapping). -/
opaque setOf : Nat → Nat

/-- Which of several values with one index a scatter stores (R202: "which one is unspecified"). -/
opaque scatterPick : Nat → Nat

/-- Whether a timer of its own clock (hub 0 to 3, or 4 for the standby controller) stands still where the block idles: R18 gives the hubs no
common time base. -/
opaque still : Nat → (timer : Nat) → Bool

/-- A value that the spec calls undefined or does not state. -/
opaque freeWord : Nat → BitVec 64

/-- The random session ID and the random 32-byte nonce of a CHALLENGE (R399). -/
opaque randomSid : Nat → BitVec 32
opaque randomNonce : Nat → Bytes

/-- SHAKE256 with a 64-byte output under FIPS 202: an outside standard, uninterpreted here. -/
opaque shake256 : Bytes → Bytes

/-- ML-DSA-65 under FIPS 204 with the device's identity key, and verification under a public key: uninterpreted. -/
opaque identitySign : Bytes → Bytes
opaque verify : (key digest signature : Bytes) → Bool

/-- The vendor's public key in the ROM firmware (Table 17.1). -/
opaque vendorKey : Bytes

/-- The device identity public key, fixed at manufacture (OD 0x7000.01), and the digest of the ROM image (R478). -/
opaque identityPublic : Bytes
opaque romDigest : Bytes

/-- Whether the key pair that the firmware derives matches OD 0x7000.01 (R465), where no operand of a command says it. -/
opaque keyMatches : Nat → Bool

/-- Whether a record, or a region's header, that the standby controller programs reads back right, where no operand of a command says it
(R406). -/
opaque readsBack : Nat → Bool

/-- The reading of a voltage of OD 0x6002 at a time of the standby controller's timer (R494). -/
opaque voltage : (sub us : Nat) → BitVec 32

/-- Values set at manufacture: serial number, MAC address, link identity (R387, R411, R340). -/
opaque serialNumber : Bytes
opaque macAddress : BitVec 48
opaque linkIdentity : BitVec 64

end Sys2Proof.Config
end

