-- ==== Sys2Proof/Machine/Tab.lean ====
section
/-!
DEFINITION. Operations of the sparse tables and byte memories, and the little-endian packing of R13. Tables keep their
keys strictly rising; `tput` lists no entry that equals the default.
-/
namespace Sys2Proof

/-- The value listed at `k`, if any. -/
def tfind {α : Type} : Tab α → Nat → Option α
  | [], _ => none
  | (k', v) :: t, k => if k' = k then some v else tfind t k

/-- The value at `k`, or the default. -/
def tget {α : Type} (d : α) (t : Tab α) (k : Nat) : α := (tfind t k).getD d

/-- List `v` at `k`, in order of keys. -/
def tset {α : Type} : Tab α → Nat → α → Tab α
  | [], k, v => [(k, v)]
  | (k', v') :: t, k, v =>
    if k < k' then (k, v) :: (k', v') :: t
    else if k = k' then (k, v) :: t
    else (k', v') :: tset t k v

/-- Take away what is listed at `k`. -/
def tdel {α : Type} : Tab α → Nat → Tab α
  | [], _ => []
  | (k', v') :: t, k => if k' = k then tdel t k else (k', v') :: tdel t k

/-- Write `v` at `k`, keeping the table free of entries that equal the default. -/
def tput {α : Type} [DecidableEq α] (d : α) (t : Tab α) (k : Nat) (v : α) : Tab α :=
  if v = d then tdel t k else tset t k v

/-- Change the value at `k`. -/
def tmod {α : Type} [DecidableEq α] (d : α) (t : Tab α) (k : Nat) (f : α → α) : Tab α :=
  tput d t k (f (tget d t k))

/-- Take away every entry whose key satisfies `p`. -/
def tdrop {α : Type} (p : Nat → Bool) (t : Tab α) : Tab α := t.filter (fun e => !p e.1)

/-- Keys strictly rising. -/
def tabSorted {α : Type} : Tab α → Bool
  | [] => true
  | [_] => true
  | a :: b :: t => a.1 < b.1 && tabSorted (b :: t)

/-- The canonical form of a byte memory: addresses strictly rising, no listed byte 0. -/
def memWf (m : Memory) : Bool := tabSorted m && m.all (fun e => e.2 != 0)

/-- Read one byte; an unlisted byte reads 0. -/
def mget (m : Memory) (a : Nat) : Byte := tget 0 m a

/-- Write one byte, keeping the canonical form. -/
def mput (m : Memory) (a : Nat) (b : Byte) : Memory := tput 0 m a b

/-- Read `n` bytes from `a`. -/
def mread (m : Memory) (a : Nat) : Nat → Bytes
  | 0 => []
  | n + 1 => mget m a :: mread m (a + 1) n

/-- Write bytes from `a` upwards. -/
def mwrite (m : Memory) (a : Nat) : Bytes → Memory
  | [] => m
  | b :: bs => mwrite (mput m a b) (a + 1) bs

/-- Clear the bytes of `a` to `a + n - 1`. -/
def mclear (m : Memory) (a n : Nat) : Memory := tdrop (fun k => a ≤ k && k < a + n) m

/-- The number that little-endian bytes stand for. -/
def leNat : Bytes → Nat
  | [] => 0
  | b :: bs => b.toNat + 256 * leNat bs

/-- `n` bytes of a number, little-endian. -/
def toLe : Nat → Nat → Bytes
  | 0, _ => []
  | n + 1, v => BitVec.ofNat 8 v :: toLe n (v / 256)

/-- Bits hi:lo of a number (R13). -/
def bitsOf (v hi lo : Nat) : Nat := (v >>> lo) % 2 ^ (hi + 1 - lo)

/-- One bit of a number. -/
def bitOf (v i : Nat) : Bool := v.testBit i

/-- Two's complement value of the low `w` bits. -/
def sext (w v : Nat) : Int :=
  let u := v % 2 ^ w
  if u < 2 ^ (w - 1) then (u : Int) else (u : Int) - (2 ^ w : Nat)

/-- Element `i` of a list, or a default. -/
def nth {α : Type} (d : α) (l : List α) (i : Nat) : α := l.getD i d

/-- A list with element `i` replaced. -/
def setAt {α : Type} (l : List α) (i : Nat) (v : α) : List α := l.set i v

/-- Round up to a multiple. -/
def roundUp (n m : Nat) : Nat := (n + m - 1) / m * m

/-- Quotient rounded up. -/
def cdiv (n m : Nat) : Nat := (n + m - 1) / m

/-- Bytes padded with zeros to a length. -/
def padTo (n : Nat) (b : Bytes) : Bytes := b ++ List.replicate (n - b.length) 0

/-- A field of n bytes of a structure. -/
def fieldAt (b : Bytes) (off n : Nat) : Nat := leNat ((b.drop off).take n)

end Sys2Proof
end

