-- ==== Sys2Proof/Machine/Bits.lean ====
section
/-!
DEFINITION. Bit-level helpers that several chapters share: population counts and the curve of R246.
-/
namespace Sys2Proof

/-- Number of set bits among the low `w` bits. -/
def popcount (w v : Nat) : Nat := ((List.range w).filter (fun i => v.testBit i)).length

/-- Parity of the low `w` bits (R27, R291). -/
def parityOf (w v : Nat) : Nat := popcount w v % 2

/-- Smallest power of two that is at least `a`, searched up to 2^32 (R246). -/
def pow2Above (a : Nat) : Nat :=
  ((List.range 33).find? (fun k => a ≤ 2 ^ k)).getD 32

/-- One round of the curve of R246 at square side `s`: the state is (x, y, d). -/
def curveRound (p : Nat × Nat × Nat) (s : Nat) : Nat × Nat × Nat :=
  let (x, y, d) := p
  let rx := (d / 2) % 2
  let ry := (d ^^^ rx) % 2
  let (x1, y1) :=
    if ry = 0 then
      let (x0, y0) := if rx = 1 then (s - 1 - x, s - 1 - y) else (x, y)
      (y0, x0)
    else (x, y)
  (x1 + s * rx, y1 + s * ry, d / 4)

/-- Position `d` inside a square of side 2^lside (R246). -/
def curveIn (lside d : Nat) : Nat × Nat :=
  let r := ((List.range lside).map (fun k => 2 ^ k)).foldl curveRound (0, 0, d)
  (r.1, r.2.1)

/-- Curve position `q` on the long and the short axis (R246). -/
def curveAt (lside q : Nat) : Nat × Nat :=
  let (x, y) := curveIn lside (q % 4 ^ lside)
  (x + q / 4 ^ lside * 2 ^ lside, y)

end Sys2Proof
end

