-- ==== Sys2Proof/Machine/State.lean ====
section
/-!
DEFINITION. The state of the Ocnath: every register, buffer, table, mode and pin that the spec gives the block, as plain
data, the queue of commands that wait, and the state right after reset (Table 18.3 order 1: the auxiliary supply has come
up, the standby controller is held in reset and main power is off).
A `Tab` lists only the units whose record differs from the default of its structure; INVENTORY.md lists each field with
its rule and its reset value.
-/
namespace Sys2Proof.Machine

open Sys2Proof

/-- Why the block stops on a command: an address that the spec says does not exist. Each is safe: the hardware has no
such access, so no claim about it is lost. -/
inductive Fault where
  /-- Raised by CACHE_ACCESS, LINE_FILL and PATROL_SCRUB for a line that is not one of the slice's: beyond the 72,000,000,000 bytes of
  its stack or of another slice's channels (R289, R291, R292). Safe. -/
  | noSuchLine
  /-- Raised by BANK_ACCESS and MARCH_PRESERVING_WORD for an address beyond an issuer's 256 KiB (R239, R300). Safe. -/
  | noSuchWord
deriving DecidableEq, Repr

/-- Why the model gives a command no meaning. -/
inductive Refusal where
  /-- Raised by Dispatch only, for a command whose meaning is not written yet. Safe. -/
  | notModelled (mnemonic : String)
deriving DecidableEq, Repr

/-- The variants of Table 0.1. -/
inductive Variant where
  | oc40a | oc40b | oc40c
deriving DecidableEq, Repr

/-! ### Pins, straps, sequencing (ch. 18) and resets -/

/-- Where the module stands in Tables 18.3 and 18.5. -/
inductive PowerPhase where
  | off        -- main power off
  | rising     -- order 4: rails rising
  | testing    -- order 5: rails settled, self-test runs or waits for MOD_RST_N
  | up         -- MAIN_PG high
  | warm       -- module warm reset asserted (R485)
  | safe       -- rails up, every hub held in the safe state or in RETIRED (R459, R473)
deriving DecidableEq, Repr

/-- A self-test in progress (R456, R460, R306): its target, its test code of Table 13.8 and the command that started it. -/
structure TestRun where
  target : BitVec 32
  test : Nat
  cmd : Option Nat
deriving DecidableEq, Repr

structure Seq where
  stbyRstN : Bool
  mainEn : Bool
  modRstN : Bool
  perstN : List Bool
  mainPg : Bool
  faultN : Bool
  clkm : List Bool
  mpen : Bool
  refclk : List Bool
  phase : PowerPhase
  stbyUp : Bool
  auxIn : Bool
  vinIn : Bool
  inputFault : Bool
  safe : Bool
  hubHeld : List Nat
  unitHeld : List (BitVec 32)
  isolated : List (BitVec 32)
  tests : List TestRun
  deferred : List (BitVec 32)
deriving DecidableEq, Repr

/-! ### Host ports (ch. 13) -/

/-- The registers of one queue pair (Table 13.3), with the phase of the current pass and the disabling of R346. -/
structure Queue where
  sqbase : BitVec 64 := 0
  cqbase : BitVec 64 := 0
  sqsize : BitVec 12 := 0
  cqsize : BitVec 12 := 0
  en : Bool := false
  ie : Bool := false
  anext : BitVec 8 := 0
  sqtail : BitVec 12 := 0
  cqhead : BitVec 12 := 0
  sqhead : BitVec 12 := 0
  cqtail : BitVec 12 := 0
  phase : Bool := true
  disabling : Bool := false
deriving DecidableEq, Repr

/-- One host port: power state, BAR0 status, MSI-X, queue pairs (a table by q) and mailbox. -/
structure HostPort where
  d3 : Bool := false
  linkUp : Bool := false
  width : Nat := 0
  rate : Nat := 0
  ready : Bool := false
  resetting : Bool := false
  gen : Nat := 0
  rr : Nat := 0
  msixEn : Bool := false
  msixMask : BitVec 17 := BitVec.allOnes 17
  msixPend : BitVec 17 := 0
  msixTable : Memory := []
  queues : Tab Queue := []
  mailIn : Memory := []
  mailOut : Memory := []
  hlen : BitVec 13 := 0
  go : Bool := false
  done : Bool := false
  rlen : BitVec 13 := 0
deriving DecidableEq, Repr

/-- Where an accepted command stands: waiting to start, or started. -/
inductive CmdStage where
  | ready | busy
deriving DecidableEq, Repr

/-- A command in flight (R347, R349). -/
structure Cmd where
  id : Nat
  port : Nat
  q : Nat
  cid : BitVec 16
  opc : Nat
  p : List (BitVec 64)
  stage : CmdStage
  waits : List Nat
deriving DecidableEq, Repr

/-- A completion that waits to be written (R348, Table 13.6). -/
structure Comp where
  port : Nat
  q : Nat
  cid : BitVec 16
  status : BitVec 8
  detail : BitVec 8
  smiss : Bool
  result : BitVec 64
deriving DecidableEq, Repr

/-! ### Objects: allocations, descriptors, matrices, programs, jobs -/

inductive AllocKind where
  | stack | halo | window
deriving DecidableEq, Repr

/-- An arc of R290: its hub and the frame it uses in each of the hub's two stacks. -/
structure Arc where
  hub : Nat
  frame0 : Nat
  frame1 : Nat
deriving DecidableEq, Repr

structure Alloc where
  handle : Nat
  port : Nat
  kind : AllocKind
  size : Nat
  spread : Bool
  h0 : Nat
  policy : Nat
  arcs : List Arc
  pos : Nat
  export_ : Nat
  rights : BitVec 4
  issuer : Nat
  winHub : Nat
  winGroup : Nat
  peer : BitVec 64
  peerExp : Nat
  live : Bool
deriving DecidableEq, Repr

/-- A queue of free indices: the fresh ones `next` to `last` in order, then those freed (R208, R356, R366). -/
structure IdxQueue where
  next : Nat
  last : Nat
  tail : List Nat
deriving DecidableEq, Repr

/-- A descriptor (Tables 7.1 and 7.2): stride and extent of each dimension record in `dims`. -/
structure Desc where
  handle : Nat
  port : Nat
  alloc : Nat
  base : Nat
  fmt : Nat
  nd : Nat
  form : Nat
  use : Nat
  kdim : Nat
  ken : Bool
  perm : List Nat
  idim : Nat
  ien : Bool
  idx : Nat
  ocp : Bool
  dims : List (Int × Nat)
deriving DecidableEq, Repr

inductive Packing where
  | int8 | int4 | ternary
deriving DecidableEq, Repr

/-- A live matrix (R366): its shape, packing, source format, group, placement by block, outlier list and image address. -/
structure Matrix where
  id : Nat
  rows : Nat
  cols : Nat
  packing : Packing
  source : Nat
  group : Nat
  place : List Nat
  outliers : List Nat
  imgAlloc : Nat
  imgAddr : Nat
deriving DecidableEq, Repr

/-- A LOAD WEIGHTS that passed its checks: `writing` once it destroyed what its target banks held (R366). The Bool of a
target is true for bank B. -/
structure Load where
  cmd : Nat
  mat : Matrix
  writing : Bool
  targets : List (Nat × Bool)
deriving DecidableEq, Repr

/-- An accepted SWAP BANK (Table 9.8) and the command that waits for it. -/
structure Swap where
  group : Nat
  cmd : Nat
  hub : Nat
deriving DecidableEq, Repr

structure Share where
  ctr : Nat
  grain : Nat
  wait : Nat
deriving DecidableEq, Repr

structure ProgIssuer where
  issuer : Nat
  ninst : Nat
  pstart : Nat
  shares : List Share
deriving DecidableEq, Repr

/-- A counter table entry (Table 9.3). -/
structure CtrEntry where
  id : Nat
  home : Nat
  addr : Nat
  bmoff : Nat
  bmcap : Nat
deriving DecidableEq, Repr

structure Program where
  handle : Nat
  port : Nat
  issuers : List ProgIssuer
  ctrs : List CtrEntry
  calloc : Nat
  coff : Nat
  csize : Nat
  doomed : Bool
deriving DecidableEq, Repr

/-- A transfer entry (Table 13.13). -/
structure Xfer where
  haddr : BitVec 64
  doff : Nat
  alloc : Nat
  len : Nat
  out : Bool
  chk : Bool
  cen : Nat
deriving DecidableEq, Repr

inductive JobStage where
  | waiting | copyIn | running | copyOut | ended
deriving DecidableEq, Repr

/-- The first failure of a job: its status, its detail, and the issuer and instruction of it (Table 13.8). -/
structure Failure where
  status : BitVec 8
  detail : BitVec 8
  issuer : Nat
  index : Nat
deriving DecidableEq, Repr

/-- Where an issuer stands in its program (R244): before its instruction (its wait, if any, not yet over), released from its wait,
waiting for the record's ready, claiming, sweeping, past its last instruction, or stopped with its job's issue. -/
inductive IssStage where
  | start | released | waitReady | claim | sweep | finished | stopped
deriving DecidableEq, Repr

/-- An issuer of a job (0x8000 + c stands for the slot in which control core C0 sweeps counter c, R254): its instruction, its stage, the
curve positions it has claimed and not issued, whether they came from a
sweep, and whether a reset has taken it out until it rejoins (R255). The last `lead` of its positions are a run none of whose tiles
has issued; `due` says that it has issued the first tile of its run and not sent its next claim (R245); `haloTo` is the halo timeout read
at its instruction start; `since` is when it began to wait for a record's ready, by its hub's timer, and `held` says that a swap holds
its claim, which has been counted (R263). -/
structure IssState where
  issuer : Nat
  pc : Nat
  stage : IssStage
  run : List Nat
  swept : Bool
  lost : Bool
  lead : Nat := 0
  due : Bool := false
  haloTo : Nat := 10000
  since : Nat := 0
  held : Bool := false
deriving DecidableEq, Repr

/-- A parameter block (Table 8.7), decoded; the block with every field zero stands for no block. -/
structure Param where
  f0 : BitVec 32 := 0
  n0 : Nat := 0
  qpos : Int := 0
  hM : Nat := 0
  hS : Nat := 0
  hV : Nat := 0
  mat2 : Nat := 0
  omat : Nat := 0
  trk0 : Nat := 0
  trk1 : Nat := 0
  texp : Nat := 0
  qgrp : Nat := 0
  tadr : Nat := 0
  radr : Nat := 0
  sadr : Nat := 0
  wbase : Nat := 0
  wlen : Nat := 0
  causal : Bool := false
  clr : Bool := false
  cadd : Bool := false
  wfill : Nat := 0
  tform : Bool := false
  oinD : Nat := 0
  oinE : Nat := 0
  ooutD : Nat := 0
  ooutE : Nat := 0
  orgA : List Int := [0, 0, 0]
  orgB : List Int := [0, 0, 0]
  orgC : List Int := [0, 0, 0]
deriving DecidableEq, Repr

/-- A job. `dups` lists the counters whose DUPLICATE_CLAIM has been posted (R248). `params` holds the parameter blocks as the loader read
them, by issuer * 4,096 + instruction (R224), and `descs`
the descriptors that its instructions name, as accepted (R210, R211). -/
structure Job where
  id : Nat
  prog : Nat
  cmd : Option Nat
  port : Nat
  stage : JobStage
  xfers : List Xfer
  params : Tab Param
  descs : List Desc
  slotAlloc : Nat
  slotOff : Nat
  slots : List (BitVec 32)
  epoch : Nat
  fail : Option Failure
  halted : Bool
  smiss : Bool
  dups : List Nat
  iss : List IssState
deriving DecidableEq, Repr

/-! ### Tiles (ch. 8 and 9) -/

/-- A tile instruction (Table 8.1), decoded from its 32 bytes. -/
structure TInst where
  func : Nat
  gen : Nat
  mode : Nat
  shape : Nat
  phase : Nat
  strict : Bool
  trk : Nat
  cmp : Nat
  op : List Nat
  bnd : List (BitVec 32)
  pblk : Nat
  rowfn : Nat
  fuse : Nat
deriving DecidableEq, Repr

/-- A result of a tile: element `coord` of descriptor `desc`, as the element's bits. -/
structure PendWrite where
  desc : Nat
  coord : List Int
  bits : BitVec 64
deriving DecidableEq, Repr

/-- A write of a tile, resolved at its commit (R248): bytes or adds at an offset of an allocation (a handle), bits of one
byte of it, or bytes of an issuer's memory. -/
inductive RawOp where
  | mem (alloc off : Nat) (op : MemOp)
  | bits (alloc off : Nat) (mask value : BitVec 8)
  | spad (issuer addr : Nat) (bytes : Bytes)
deriving DecidableEq, Repr

/-- A tile's life: issued, its results formed, past its test-and-set with writes outstanding. A tile held at the handshake stays
in its issuer's run. -/
inductive TileStage where
  | issued | formed | writing
deriving DecidableEq, Repr

/-- A tile in flight. `parts` holds the partials that macros sent (by product * 2^72 + vector * 2^56 + column * 2^24 + row-block), `fed`
the macros and
vectors whose block has passed its output stage, `reduced` the column blocks (product * 2^32 + block) and vectors reduced, `floor` the
plane floor read at issue, `outs` the FP32
outputs formed (by part * 2^56 + vector * 2^40 + column), `results` the elements to be written, `writes` the writes resolved at
its commit, `acks` those accepted, `sent` and `sentExp` the blocks and scale entries that went to its facets (R269), `mid`, `midExp`, `midOut` and `midOutExp` the elements, exponents, outlier values and outlier exponents
of a fused pair's intermediate
that have left their forming sides (by vector * 2^32 + column, block or place), `thr` the thresholds that a predictor tile formed at its
issue, by column, `strictMiss` whether a strict forming issue met SCALE_MISS, `codes` the activity codes other than 11 (by vector * 2^32 +
column), `haloGone` the halo directions whose message another tile has consumed since this one read it, `drawn` the neurons
drawn for audit whose audits are open (by the same), `halo` the messages by direction with the number of writes in each (`haloN`), `items`
the steps that must end before its results are formed,
`ss` the subindex of the issuer that claimed it (R263), `actor` that issuer's code, C0's for a claim of its slot, and `haloTo` its halo
timeout. -/
structure Tile where
  id : Nat
  job : Nat
  issuer : Nat
  pc : Nat
  ctr : Nat
  q : Nat
  gi : Nat
  gj : Nat
  inst : TInst
  prm : Param
  b0 : Nat
  b1 : Nat
  b2 : Nat
  stage : TileStage
  wedges : List Nat
  engine : Option Nat
  guard : Nat
  band : Nat
  floor : Nat
  fail : Option (BitVec 8)
  smiss : Bool
  strictMiss : Bool := false
  parts : Tab (BitVec 32)
  sent : Tab DataBlock := []
  sentExp : Tab ScaleEntry := []
  fed : List (Nat × Nat)
  reduced : List (Nat × Nat)
  outs : Tab (BitVec 32)
  mid : Tab (BitVec 8) := []
  midExp : Tab (BitVec 8) := []
  midOut : Tab (BitVec 16) := []
  midOutExp : Tab (BitVec 8) := []
  thr : Tab (Int × Int) := []
  results : List PendWrite
  writes : List RawOp
  acks : List Nat
  codes : Tab Nat
  drawn : List Nat
  halo : Tab Memory
  haloN : Tab Nat
  haloRead : List Nat
  haloGone : List Nat := []
  haloLost : Bool
  items : Nat
  ss : Nat := 0
  actor : Nat := 0
  haloTo : Nat := 10000
deriving DecidableEq, Repr

/-- A predictor issue whose report waits for its audits (R135 to R139): its tile's number, wedge, phase, band, report address and
activity vector, the settings read at its issue (τ, audit rate, miss bound, band limit, narrowing run), the counts of its neurons, the
drawn neurons whose audits are open (by vector of the tensor * 2^32 + column), and whether the
issue has committed. `org`, `gi` and `gj` say which part of the activity vector it wrote. -/
structure PredIssue where
  id : Nat
  wedge : Nat
  phase : Nat
  band : Nat
  issuer : Nat
  radr : Nat
  alloc : Nat
  base : Nat
  org : List Int
  gi : Nat
  gj : Nat
  tau : BitVec 32
  arate : Nat
  missk : Nat
  limit : Nat
  nrun : Nat
  nact : Nat
  namb : Nat
  ninact : Nat
  naud : Nat
  nmiss : Nat
  nunsv : Nat
  drawn : List Nat
  committed : Bool
deriving DecidableEq, Repr

/-! ### Macros and wedges (ch. 2, 3, 16) -/

inductive BankState where
  | empty | loading | ready
deriving DecidableEq, Repr

/-- One bank: state, packing, matrix and block it holds, row words by unit * 32 + row, FP16 scales by logical unit, check
signatures by unit * 4 + pattern, column repair by unit (c + 1), and the number of valid logical units (R236). -/
structure Bank where
  st : BankState := .empty
  packing : Packing := .int8
  matrix : Nat := 0
  rb : Nat := 0
  cb : Nat := 0
  words : Tab (BitVec 16) := []
  scales : Tab (BitVec 16) := []
  sigs : Tab Nat := []
  repair : Tab Nat := []
  valid : Nat := 0
deriving DecidableEq, Repr

/-- A block in progress on a macro: its elements after masking, exponent, next plane, pass (0 the block, 1 to 3 the
residues l, m, h of R83), pairs flagged ambiguous in the last plane, sums per logical unit of each pass, outlier values
and terms, whether its output stage has begun to wait for them (R74), and the product of its tile. -/
structure Blk where
  tile : Nat
  vec : Nat
  rb : Nat
  cb : Nat
  q : List Int
  exp : BitVec 8
  plane : Nat
  pass : Nat
  amb : List (Nat × Nat)
  sums : List (Tab Int)
  outRows : List (Nat × Int)
  outExp : BitVec 8
  terms : Tab (BitVec 32)
  termsDone : Bool
  waited : Bool := false
  product : Nat := 0
deriving DecidableEq, Repr

/-- Calibration of a macro (R449, R450): requested, forced, steps done, the largest static error measured per current-lane column,
by unit * 16 + column, in bit-cell units, and the tolerance in force at its first step (R86). -/
structure Calib where
  req : Bool := true
  forced : Bool := false
  steps : Nat := 0
  meas : Tab Rat := []
  tol : Nat := 2
deriving DecidableEq, Repr

/-- A marked-column entry (Table 3.7). `clear` says that a calibration found its column within tolerance: the entry goes at the
macro's next tile issue (R77). -/
structure Mark where
  dataA : BitVec 32
  dataB : BitVec 32
  unit : Nat
  col : Nat
  clear : Bool := false
deriving DecidableEq, Repr

/-- What governs the reads of tiles numbered under `below`, once a calibration has changed it for later ones (R77, R78): the marks
in force at their issue, and whether mark overflow made the macro exact-only. -/
structure MarkPast where
  below : Nat
  marks : List Mark
  xoOver : Bool
deriving DecidableEq, Repr

/-- One logical macro. `spare` is the slot it was retired to, if it was; `oos` is out of service with no spare left (R447),
`past` what governs the tiles issued before its last calibrations, `xoRebuild` the entries being rebuilt and `xoKsum` a current-lane
mismatch, each with the number of the first tile that it makes exact (R79, R443), `forcedDone` after the forced step of the current tile
boundary (R450), `unread` out of service because the image of its active bank could not be read, `loaded` once a LOAD WEIGHTS has written
its shadow bank since then (R443). The check age is `ageMs` and what its hub's timer has counted since `ckAt` (R438); `scrubAt` is when the
shadow bank was last scrubbed (R448). -/
structure Macro where
  spare : Option Nat := none
  actB : Bool := false
  bankA : Bank := {}
  bankB : Bank := {}
  group : Nat := 0
  oos : Bool := false
  unread : Bool := false
  loaded : Bool := false
  xoOver : Bool := false
  xoUncal : Bool := true
  xoRebuild : List (Nat × Nat) := []
  xoKsum : Option Nat := none
  recReads : Nat := 0
  recAmb : Nat := 0
  recReq : Bool := false
  ckPos : Nat := 0
  ckSum : Tab Nat := []
  ckDue : Bool := false
  forcedDone : Bool := false
  ckRound : Nat := 0
  cal : Calib := {}
  reload : Bool := false
  retire : Bool := false
  scrubbing : Bool := false
  blk : Option Blk := none
  past : List MarkPast := []
  ageMs : Nat := 0
  ckAt : Nat := 0
  scrubAt : Option Nat := none
  calAgeS : Nat := 0
deriving DecidableEq, Repr

/-- What the control cores record of a macro before its wedge goes Off (R34). -/
structure Saved where
  actB : Bool
  stA : BankState
  stB : BankState
  pkA : Packing
  pkB : Packing
  mA : Nat
  mB : Nat
  rbA : Nat
  cbA : Nat
  rbB : Nat
  cbB : Nat
  group : Nat
deriving DecidableEq, Repr

/-- An outlier directory entry in use (Table 3.8). -/
structure OutDir where
  mac : Nat
  row : Nat
  bankB : Bool
  oidx : Nat
deriving DecidableEq, Repr

/-- One wedge: correction store (marks by slot * 8 + i, directory by copy, copies by copy * 1,024 + byte), matrices
exact-only for outliers, free spares, `uncal` until the wedge has completed calibration since its wake (R63), the read guard band of its
last tile issue (R48; none before the first since its wake), suspended check-store banks, LFSR, tiles it has accepted, halo
inboxes by direction (0 N, 1 E, 2 S, 3 W), and what was recorded at Off. -/
structure Wedge where
  marks : Tab Mark := []
  uncal : Bool := true
  guard : Option Nat := none
  dir : Tab OutDir := []
  copies : Memory := []
  xoOut : List Nat := []
  spares : List Nat := [192, 193, 194, 195]
  ksSusp : List (Nat × Bool) := []
  lfsr : BitVec 32 := 0
  tiles : List Nat := []
  inbox : Tab (List Memory) := []
  saved : Tab Saved := []
deriving DecidableEq, Repr

/-! ### Quantisers (ch. 4) -/

/-- A tracker entry (Table 4.2). -/
structure Track where
  exp : BitVec 8 := 0
  qamax : Nat := 0
  clips : Nat := 0
  under : Bool := false
  zero : Bool := false
  miss : Bool := false
  valid : Bool := false
deriving DecidableEq, Repr

/-- A forming issue in progress on a forming side (Table 4.3): all that the side forms of one tile. A position is keyed by part * 2^32 +
position, part 0 the output (K of a KV append) and 1 the intermediate of MFUSE (V of a KV append). `exps` holds the exponents of order 1,
`amax` the binary32 bits of |x|, `clips` by key * 65,536 + vector, `nonfin` the positions with an element that is not finite, `seen` the
elements that have left (part * 2^60 + vector * 2^34 + column). -/
structure Forming where
  tile : Nat
  trk : Nat
  strict : Bool
  headroom : Nat
  exps : Tab (BitVec 8)
  outs : List (List Nat)     -- the outlier lists of the two parts, read at issue (R108)
  ended : List Nat           -- parts past order 4, or without a position here (R231)
  amax : Tab (BitVec 32)
  clips : Tab Nat
  nonfin : List Nat
  seen : List Nat
deriving DecidableEq, Repr

/-- What one tile has put into the outlier values of its row: `seen` holds what has left (vector * 65,536 + place in the list). -/
structure OutPart where
  tile : Nat
  amax : BitVec 32
  clips : Nat
  nonfin : Bool
  seen : List Nat
deriving DecidableEq, Repr

/-- The outlier values of the vectors of one row of tiles on the forming side that forms block position 0 (R108): of part `part` of the
tiles of grid row `gi` of a job's counter. `entry` is the tracker entry that its exponent comes from, `list` the outlier list; `parts` has
one record for each tile that has started. -/
structure OutVec where
  quant : Nat
  job : Nat
  ctr : Nat
  gi : Nat
  part : Nat
  entry : Nat
  exp : BitVec 8
  trk : Nat
  headroom : Nat
  list : List Nat
  parts : List OutPart
deriving DecidableEq, Repr

structure Quant where
  track : Tab Track := []
  forming : List Forming := []
deriving DecidableEq, Repr

/-- The pairing side of one macro input or lane input (R93): the tile it serves, the entries and blocks that wait, the pairs
joined and not yet taken, and which stream has ended. -/
structure Pairing where
  tile : Nat := 0
  scales : List ScaleEntry := []
  waiting : List DataBlock := []
  paired : List (DataBlock × BitVec 8) := []
  scaleEnded : Bool := false
  dataEnded : Bool := false
deriving DecidableEq, Repr

/-- The predictor's band of one phase on one hub (R139 to R142): `oldBase` is the base in force while a written one waits for the hub's
next issue of the phase. -/
structure Band where
  band : Option Nat := none
  quiet : Nat := 0
  oldBase : Option Nat := none
deriving DecidableEq, Repr

/-! ### Stream engines (ch. 6) -/

structure Item where
  tile : Nat
  key : Nat
deriving DecidableEq, Repr

/-- A softmax row record (Table 6.3). -/
structure SmRec where
  m : BitVec 32 := 0xFF800000
  l : BitVec 32 := 0
  o : List (BitVec 32) := []
deriving DecidableEq, Repr

/-- A tile context of a lane: dot accumulators by row * 65,536 + column, softmax rows, top-k lists (score, index). -/
structure Ctx where
  tile : Nat
  acc : Tab (BitVec 32)
  sm : Tab SmRec
  tk : Tab (List (BitVec 32 × BitVec 32))
deriving DecidableEq, Repr

/-- An element delivered to a lane's operand input: its operand, its tile coordinates 0 and 1, its bits, the bits of the second
value at its position in a 2:4 group with equal indices (R125, else 0), and the exponent of its half (127 for plain formats). -/
structure LaneElem where
  opnd : Nat
  c0 : Nat
  c1 : Nat
  bits : BitVec 32
  dup : BitVec 32
  exp : BitVec 8
deriving DecidableEq, Repr

/-- A lane: its work queue, the item that it runs, its contexts (the least recently used first), the elements at its operand
inputs, its query store (by row * 2^20 + reduction element, of tile `qtile`), the score buffer (by row * 2^16 + key of the item),
how far each output of the current item has come (by row * 2^16 + column of the item), and the updates of flushed contexts on their
way to the accumulator buffer; `stalled` when the first of them met a full queue (R159). -/
structure Lane where
  queue : List Item := []
  run : Option Item := none
  ctxs : List Ctx := []
  inA : List LaneElem := []
  inB : List LaneElem := []
  query : Tab LaneElem := []
  qtile : Nat := 0
  scores : Tab (BitVec 32) := []
  prog : Tab Nat := []
  out : List AccUpd := []
  stalled : Bool := false
  inRing : Bool := true
deriving DecidableEq, Repr

/-- A row piece held by a coalescer (R201): the generator, the index value, the piece of its row, its elements by place in the row (value,
second value, poison), and the index positions it has served. `drop` marks no piece but an index position whose value was out of range,
noted so that it is counted once (R199). -/
structure Piece where
  gen : Nat
  index : Nat
  piece : Nat
  data : Tab (Nat × Nat × Bool) := []
  served : List Nat := []
  drop : Bool := false
deriving DecidableEq, Repr

/-- A stream engine: tiles in its dispatcher, items not dealt, the lane where dealing goes on, lanes, accumulator buffer, conflict
queues by bank, merge unit's queue, updates that have entered these queues so far, instructions whose window is filled (job, counter),
tiles that have posted ACC_RANGE. -/
structure Engine where
  disp : List Nat := []
  items : List Item := []
  dealAt : Nat := 0
  lanes : Tab Lane := []
  acc : Memory := []
  confl : Tab (List AccUpd) := []
  merge : List AccUpd := []
  arrivals : Nat := 0
  filled : List (Nat × Nat) := []
  ranged : List Nat := []
deriving DecidableEq, Repr

/-! ### Memory (ch. 11) and fabric (ch. 10) -/

/-- A valid line of a cache slice: the stack line it holds (stack-local line number), re-reference value, flags, data. -/
structure Line where
  line : Nat
  rr : Nat
  dirty : Bool
  pinned : Bool
  poison : Bool
  data : Bytes
deriving DecidableEq, Repr

/-- A granule being copied to a spare (R298): the lines copied so far. -/
structure Copying where
  stack : Nat
  granule : Nat
  spare : Nat
  done : Nat
deriving DecidableEq, Repr

/-- An access that waits for the fill of its line (R295), oldest first in `Mem.waiting`. -/
structure Waiting where
  slice : Nat
  line : Nat
  off : Nat
  len : Nat
  op : MemOp
  tile : Option Nat
deriving DecidableEq, Repr

/-- Stacks (bytes by stack * 2^37 + address), cache lines by slice * 2^20 + set * 16 + way, granule remaps by
stack * 2^25 + granule (spare + 1), when each granule's corrected errors of the last 24 h came (hub timer, µs), copies in progress, accesses that
wait for a fill, the standby scratchpad, lines (stack * 2^31 + line) whose bytes in the stack hold an uncorrectable error. -/
structure Mem where
  stack : Memory
  lines : Tab Line
  remap : Tab Nat
  corr : Tab (List Nat)
  copying : List Copying
  waiting : List Waiting
  stby : Memory
  bad : List Nat
deriving DecidableEq, Repr

/-- A scratchpad or control-memory bank (R300 to R306): requests waiting in order of arrival, whether it is being cleared, and the
next step of the march in progress. -/
structure SpadBank where
  reqs : List BankReq := []
  clearing : Bool := false
  march : Option Nat := none
deriving DecidableEq, Repr

/-- One directed hop (R272, R280 to R282): credits the sender holds by class, frames that wait for a credit, frames in the
receiver's slots, the sender's replay buffer, whether the receiver asks for a replay, how many frames of the replay buffer were
sent again, failed replays in succession of the oldest frame, failed, awaiting a credit advertisement, the classes whose oldest frame
waits in its slot for a credit of the next hop. -/
structure HopState where
  hop : Hop
  credits : List Nat
  wait : List Frame
  slots : List Frame
  replay : List Frame
  asked : Bool
  again : Nat
  succ : Nat
  failed : Bool
  awaiting : Bool
  stalled : List Nat
deriving DecidableEq, Repr

/-! ### Links (ch. 12) -/

inductive LinkPhase where
  | disabled | train | exchange | active | resync | down
deriving DecidableEq, Repr

/-- A frame in a link's replay buffer: the frame and how often it has been replayed. -/
structure Held where
  frame : LinkFrame
  replays : Nat
deriving DecidableEq, Repr

/-- A tag in use: the request and its requester (R325). -/
structure TagUse where
  tag : Nat
  req : RemoteReq
deriving DecidableEq, Repr

/-- One link: its state, a loop-back in progress, lanes in use and lanes excluded, when it entered TRAIN and when its entries that failed
were (hub timer, µs), what the peer reported, `fresh` when it holds no frame-layer state, `losing` when its frames are lost and not yet
settled (R336), the sender's state and the receiver's: each request with the allocation whose export admitted it (R324); `away` when it
left ACTIVE and its bundle's list is yet to be rebuilt (R328); `rxWaits` when the answer to its oldest request has waited for a credit;
`told` when it has reported seen, `record` the peer's record that reported it, with the measured loop (R332). -/
structure Link where
  phase : LinkPhase := .disabled
  loopback : Bool := false
  lanes : BitVec 4 := 0
  badLanes : BitVec 4 := 0
  entered : Nat := 0
  failed : List Nat := []
  losing : Bool := false
  peer : BitVec 64 := 0
  peerLink : Nat := 0
  version : Nat := 0
  welide : Bool := false
  belide : Bool := false
  fresh : Bool := true
  seen : Bool := false
  peerSeen : Bool := false
  txSeq : Nat := 0
  replay : List Held := []
  credits : List Nat := [0, 0, 0, 0]
  tags : List TagUse := []
  txAlive : BitVec 8 := 0
  rxSeq : Nat := 0
  rxUsed : List Nat := [0, 0, 0, 0]
  rxOwed : List Nat := [0, 0, 0, 0]
  rxSince : Nat := 0
  rxAlive : Option (BitVec 8) := none
  nakOwed : Bool := false
  gap : Bool := false
  rxFrames : List (LinkFrame × Option Nat) := []
  rxWaits : Bool := false
  away : Bool := false
  told : Bool := false
  record : Option (CapRecord × Nat) := none
deriving DecidableEq, Repr

/-- A read of a remote window that an address generator waits for, and its bytes once the response has come, with the status that a
poisoned one gives its job (R326). -/
structure RemoteData where
  req : RemoteReq
  data : Option (Bytes × Option (BitVec 8))
deriving DecidableEq, Repr

/-- The exponent of a span of a KV cache that appended rows have begun (R166): the rows of one tensor. `done` when it stands in the span
table. -/
structure SpanExp where
  exp : BitVec 8 := 0
  done : Bool := false
  users : List Nat := []
deriving DecidableEq, Repr

/-- A bundle (R327, R328): hub, group, peer identity, its spread list, the frames that wait, and whether a new list waits for its links'
frames to be acknowledged. -/
structure Bundle where
  hub : Nat
  group : Nat
  peer : BitVec 64
  list : List Nat
  held : List RemoteReq
  due : Bool := false
  waited : List RemoteReq := []
deriving DecidableEq, Repr

/-! ### Power (ch. 15) -/

inductive PState where
  | run | hold | retain | off
deriving DecidableEq, Repr

/-- One power domain: state, the transition in progress and the latest request behind it, operating point and the one its
supply moves to, thermal ceiling, thermal grant halvings, energy credit in pJ, the energy in pJ that its macros' steps have drawn (Tables
2.8 and 5.9; the model's own record), stopped by a supply collapse, junction. -/
structure Dom where
  st : PState := .run
  moving : Option PState := none
  drained : Bool := false
  latest : Option PState := none
  op : Nat := 4
  opNext : Option Nat := none
  ceiling : Nat := 7
  halvings : Nat := 0
  credit : Rat := 0
  grant : Rat := 0
  spent : Rat := 0
  collapsed : Bool := false
  junction : Rat := 0
deriving DecidableEq, Repr

/-- The settings that a region governor has taken at its last 10 µs interval (R434): droop margin in mV, thermal threshold and hysteresis in
°C, wake on demand. -/
structure GovSet where
  margin : Nat
  t1 : Nat
  hyst : Nat
  wake : Nat
deriving DecidableEq, Repr

/-- One hub region: budget and admitted level in W, droop hold, previous draw, the level that hints have raised it to and the ballast
beneath it, `nulls` the part of it that null steps fill (R422), `set` the settings in force, the wakes begun since its last tick (R432), the operating point of each active phase, learned energies. -/
structure Region where
  budget : Rat := 0
  admitted : Rat := 0
  droop : Bool := false
  dPrev : Rat := 0
  hintLevel : Rat := 0
  ballast : Rat := 0
  nulls : Rat := 0
  set : Option GovSet := none
  wakes : Nat := 0
  points : Tab Nat := []
  learnedM : Tab Rat := []
  learnedL : Tab Rat := []
deriving DecidableEq, Repr

/-- A hint held by a region governor (R421 to R423): target in 1/256 of F, lead in µs, port, whether it ramps, whether its
target was reached, whether a tile of its phase came. -/
structure Hint where
  hub : Nat
  phase : Nat
  target : Nat
  lead : Nat
  port : Nat
  ramping : Bool
  reached : Bool
  falling : Bool
  used : Bool
deriving DecidableEq, Repr

/-- Domains, regions and hints; the energies in µJ charged to ports, drawn at the input and charged to phases (by port * 256 + phase); and
the input powers in W of the last ten intervals, the newest first (R428, Table 15.7). -/
structure Pow where
  doms : Tab Dom
  regions : Tab Region
  hints : List Hint
  portUj : Tab Rat
  inputUj : Rat
  phaseUj : Tab Rat
  input : List Rat
deriving DecidableEq, Repr

/-! ### Check engines and the event log (ch. 16) -/

/-- Stream select and CRC parameters of a check engine (Tables 13.8 and 16.5). -/
structure CeCfg where
  kind : Nat := 0
  index : Nat := 0
  page : Nat := 0
  enable : Bool := false
  poly : BitVec 64 := 0
  init : BitVec 64 := 0
  xorout : BitVec 64 := 0
  width : Nat := 0
  refin : Bool := false
  refout : Bool := false
deriving DecidableEq, Repr

/-- One check engine: configuration, the one that waits for a frame boundary, running value, its value at the last frame
boundary, a value to set at the next one, last sequence fed and the transfer that it came from (job * 512 + place + 1), the page in
progress (its number, the allocation or export it lies in, bytes of it fed, bytes of the field seen, whether it is still whole). -/
structure CheckEngine where
  cfg : CeCfg := {}
  next : Option CeCfg := none
  run : BitVec 64 := 0
  atFrame : BitVec 64 := 0
  setNext : Option (BitVec 64) := none
  lastSeq : Option Nat := none
  xfer : Nat := 0
  page : Option Nat := none
  pageLoc : Nat := 0
  fed : Nat := 0
  field : Bytes := []
  whole : Bool := true
deriving DecidableEq, Repr

/-- The event log (R461, R462): records on their way from each hub, next hub sequence numbers, the ring (oldest first, at
most 512), sequence of the newest record (0 when there is none, so that the first record is 1: DEDUCED,
notes/assumptions/121.md), the value of OD 0x5801.01 (class V), cursor of each reader (rseq of the newest record it has passed), records accepted in the current
interval. -/
structure Log where
  way : List Event
  hseq : Tab Nat
  ring : List (BitVec 32 × Event)
  rseq : Nat
  newest : Nat
  cursors : Tab Nat
  acceptedNow : Nat
  select : Tab (BitVec 32)
deriving DecidableEq, Repr

/-! ### Journal, Tamjor, security (ch. 14 and 17) -/

/-- A record of the journal (R405): its offset, the bytes that were to be programmed there, `torn` when what stands there fails its CRC,
and how many of the bytes were programmed. -/
structure JRec where
  off : Nat
  bytes : Bytes
  torn : Bool
  done : Nat
deriving DecidableEq, Repr

/-- A journal region (Tables 14.10 and 14.11): the bytes of its header and of its commit marker, none where they are erased, records in order
of offset, fully erased or not. -/
structure JRegion where
  header : Bytes
  marker : Bytes
  recs : List JRec
  erased : Bool
deriving DecidableEq, Repr

/-- Who waits for a class P write: a host command, nobody (the firmware), the tamper sequence at its order 3 (Table 17.9), or the commit write
of a life-cycle change, with its source, the command that made it and the old and new codes. -/
inductive JWaiter where
  | cmd (id : Nat)
  | other
  | tamper
  | lifecycle (src : Nat) (id : Option Nat) (old new : Nat)
deriving DecidableEq, Repr

/-- A class P write that waits for its record. `vals` holds (index * 256 + subindex, value): one entry, or the pair that a
life-cycle change writes together (R473). `paid` says whether the checks of R393 and R407 are behind it: a write to an entry whose
record is still being programmed takes them at its turn (R394). -/
structure JWrite where
  vals : List (Nat × Bytes)
  waiter : JWaiter
  tries : Nat
  paid : Bool
deriving DecidableEq, Repr

inductive Compaction where
  | none | copying | frozen
deriving DecidableEq, Repr

structure Jour where
  reg0 : JRegion
  reg1 : JRegion
  active : Nat
  append : Nat
  nextSeq : Nat
  tokens : Nat
  ready : Bool
  waiting : List JWrite
  comp : Compaction
  copied : List Nat
deriving DecidableEq, Repr

/-- A Tamjor session (R399 to R401): its key index, nonces, last accepted sequence, last response, bad signatures, idle
timeout in force. -/
structure Session where
  sid : Nat
  key : Nat
  nm : Bytes
  nd : Bytes
  mseq : Nat
  last : Bytes
  bad : Nat
  idle : Nat
deriving DecidableEq, Repr

structure Tam where
  sessions : List Session
  pending : List Session
  opensNow : Nat
  plainNow : Nat
  linkUp : Bool
deriving DecidableEq, Repr

/-- Security: identity key present, life-cycle state and token counter, tamper cause and count, boots, ROM
digest as computed and the value of OD 0x7003.01 (class V), staged token and attestation material per source (0 to 3 the ports, 4 the management port), conditions present. -/
structure Sec where
  key : Bool
  lcs : Nat
  lcount : Nat
  cause : BitVec 8
  tcount : Nat
  boots : Nat
  romdig : Bytes
  romShown : Bytes
  body : Tab Bytes
  sigA : Tab Bytes
  sigB : Tab Bytes
  nonce : Tab Bytes
  report : Tab Bytes
  repSigA : Tab Bytes
  repSigB : Tab Bytes
  present : List Nat
  tampering : Bool
  changing : Bool
deriving DecidableEq, Repr

/-! ### Outputs and the whole -/

/-- What the block has sent to the world outside, in order: bytes written to a host's memory, MSI-X messages, Tamjor
datagrams and mailbox responses, link frames. The model's own record; no rule reads it. -/
inductive Output where
  | hostWrite (port : Nat) (addr : BitVec 64) (bytes : Bytes)
  | msix (port vector : Nat)
  | datagram (peer : Nat) (via : NetAddr) (port : Nat) (bytes : Bytes)
  | linkData (link : Nat) (frame : LinkFrame)
  | linkCtl (link : Nat) (frame : CtlFrame)
  | linkCap (link : Nat) (rec : CapRecord)
  | fabric (hop : Hop) (frame : Frame)
  | outlier (tile vec pos : Nat) (bits : BitVec 16)
  | scale (quant : Nat) (entry : ScaleEntry)
  | element (quant : Nat) (vec pos : Nat) (bits : BitVec 8)
  | dma (hub : Nat) (exp : BitVec 8) (elems : List (BitVec 32))
  | fetched (tile opnd : Nat) (bits : BitVec 64)
  | readReq (unit : Nat)
  | response (slice line : Nat) (bytes : Bytes) (poison : Bool)
  | bankData (issuer addr : Nat) (bytes : Bytes) (poison : Bool)
  | remote (req : RemoteReq)
  | remoteDone (req : RemoteReq) (bytes : Bytes) (poison : Bool)
deriving DecidableEq, Repr

/-- Everything of the block but its variant and its queue. -/
structure Dev where
  free : Nat
  out : List Output
  marks : List (Nat × Nat)   -- limits that posted in their interval: 32 * timer + limit, and the limit's own key (R496)
  hubTimer : Tab Nat
  stbyTimer : Nat
  seq : Seq
  ports : Tab HostPort
  cmds : List Cmd
  nextCmd : Nat
  comps : List Comp
  allocs : List Alloc
  allocIdx : Tab IdxQueue
  usedFrames : List (Nat × Nat)
  descs : List Desc
  descIdx : Tab IdxQueue
  mats : List Matrix
  matIdx : IdxQueue
  matReserved : Nat
  loads : List Load
  swaps : List Swap
  progs : List Program
  progIdx : Tab IdxQueue
  jobs : List Job
  nextJob : Nat
  tiles : List Tile
  nextTile : Nat
  spad : Memory
  slots : Tab (BitVec 32)
  banks : Tab SpadBank
  macros : Tab Macro
  guard0 : Nat               -- the read guard band of a wedge before its first tile since main power came up (R48)
  wedges : Tab Wedge
  quants : Tab Quant
  outVecs : List OutVec
  spans : Tab SpanExp        -- by allocation * 2^64 + byte of the span table
  pairs : Tab Pairing
  pred : Tab Band
  issues : List PredIssue
  engines : Tab Engine
  coal : List Piece
  remote : List RemoteData
  waits : Bool               -- an address generator has met a remote read whose response has not come
  gone : Option (BitVec 8)   -- the status of a read that met a slice Off or held (R283), or a peer that refused it (R324)
  mem : Mem
  hops : List HopState
  frames : Nat               -- frames that units have sent: the model's own number of the next one (R277)
  rooms : Tab (List Nat)     -- by endpoint: the bytes of each response that room is reserved for (R275)
  asks : Tab Nat             -- by endpoint: reservations whose request has not left yet
  links : Tab Link
  bundles : List Bundle
  pow : Pow
  ces : Tab CheckEngine
  log : Log
  vals : Tab Bytes
  ctr : Tab Nat
  jour : Jour
  tam : Tam
  sec : Sec
deriving DecidableEq, Repr

/-- The state: the variant (fixed at manufacture, R1), the commands that wait, first in first out, and the device. -/
structure State where
  variant : Variant
  pending : List Instr
  dev : Dev
deriving DecidableEq, Repr

/-- The state with its device changed: how every meaning writes. -/
def State.on (s : State) (d : Dev) : State := { s with dev := d }

def Seq.reset : Seq :=
  { stbyRstN := false, mainEn := false, modRstN := true, perstN := [false, false, false, false],
    mainPg := false, faultN := true, clkm := [false, false, false, false], mpen := false,
    refclk := [true, true, true, true], phase := .off, stbyUp := false, auxIn := true, vinIn := true,
    inputFault := false, safe := false, hubHeld := [0, 1, 2, 3], unitHeld := [], isolated := [], tests := [],
    deferred := [] }

/-- A queue of free indices as at power-on (R208, R356, R366). -/
def IdxQueue.fresh (last : Nat) : IdxQueue := { next := 1, last := last, tail := [] }

def JRegion.erased0 : JRegion := { header := [], marker := [], recs := [], erased := true }

def Jour.reset : Jour :=
  { reg0 := .erased0, reg1 := .erased0, active := 0, append := 0x1000, nextSeq := 1, tokens := 64, ready := false,
    waiting := [], comp := .none, copied := [] }

def Sec.reset : Sec :=
  { key := false, lcs := 0, lcount := 0, cause := 0, tcount := 0, boots := 0, romdig := [], romShown := [], body := [], sigA := [],
    sigB := [], nonce := [], report := [], repSigA := [], repSigB := [], present := [], tampering := false,
    changing := false }

def Log.reset : Log :=
  { way := [], hseq := [], ring := [], rseq := 0, newest := 0, cursors := [], acceptedNow := 0, select := [] }

def Pow.reset : Pow :=
  { doms := [], regions := [], hints := [], portUj := [], inputUj := 0, phaseUj := [], input := [] }

def Dev.reset : Dev :=
  { free := 0, out := [], marks := [], hubTimer := [], stbyTimer := 0, seq := .reset, ports := [], cmds := [],
    nextCmd := 1, comps := [], allocs := [], allocIdx := [], usedFrames := [], descs := [], descIdx := [], mats := [], matIdx := .fresh 16383, matReserved := 0, loads := [], swaps := [], progs := [],
    progIdx := [], jobs := [], nextJob := 1, tiles := [], nextTile := 1, spad := [], slots := [], banks := [],
    macros := [], guard0 := 4, wedges := [], quants := [], outVecs := [], spans := [], pairs := [], pred := [], issues := [], engines := [],
    coal := [], remote := [], waits := false, gone := none,
    mem := { stack := [], lines := [], remap := [], corr := [], copying := [], waiting := [], stby := [], bad := [] },
    hops := [], frames := 0, rooms := [], asks := [], links := [], bundles := [], pow := .reset, ces := [], log := .reset, vals := [],
    ctr := [], jour := .reset, tam := { sessions := [], pending := [], opensNow := 0, plainNow := 0, linkUp := false },
    sec := .reset }

/-- The module right after reset: Table 18.3 order 1, every register at its Reset value. -/
def State.reset : State := { variant := .oc40a, pending := [], dev := .reset }

end Sys2Proof.Machine
end

