-- ==== Sys2Proof/Machine/Units.lean ====
section
/-!
DEFINITION. Units: the populations of Tables 0.1 and 0.3, unit targets (Table 13.9), the numbering of power domains, and
which units are present and in service (R9, R11).
-/
namespace Sys2Proof.Machine

open Sys2Proof

/-! ### Presence (Table 0.3) -/

def hubMask : Variant → Nat
  | .oc40c => 0x03
  | _ => 0x0F

def facetMask : Variant → Nat
  | .oc40a => 0x0000000FFFFFFFFF
  | .oc40b => 0x00000001F8FC7E3F
  | .oc40c => 0x0000000000007E3F

def stackMask : Variant → Nat
  | .oc40c => 0x0F
  | _ => 0xFF

def linkMask : Variant → Nat
  | .oc40a => 0xFFFFFFFFFFFFFFFF
  | .oc40b => 0x00FF00FF00FF00FF
  | .oc40c => 0

def portMask : Variant → Nat
  | .oc40c => 0x03
  | _ => 0x0F

/-- The forerunner index decoder (OD 0x1010.06). -/
def hasForerunner : Variant → Bool
  | .oc40c => false
  | _ => true

/-- The part number in ASCII: the part of Table 0.1 (DEDUCED, notes/assumptions/118.md). -/
def partNumber (v : Variant) : Bytes :=
  [0x4B, 0x52, 0x59, 0x2D, 0x4F, 0x43, 0x34, 0x30, match v with | .oc40a => 0x41 | .oc40b => 0x42 | .oc40c => 0x43]

/-- The power limit in W (Table 0.1). -/
def powerLimit : Variant → Nat
  | .oc40a => 3600
  | .oc40b => 2600
  | .oc40c => 1300

/-- Full scale F in tokens (Table 15.2). -/
def fullScale : Variant → Nat
  | .oc40a => 1344
  | .oc40b => 896
  | .oc40c => 896

def hubPresent (v : Variant) (h : Nat) : Bool := h < 4 && (hubMask v).testBit h
def facetPresent (v : Variant) (f : Nat) : Bool := f < 36 && (facetMask v).testBit f
def stackPresent (v : Variant) (k : Nat) : Bool := k < 8 && (stackMask v).testBit k
def linkPresent (v : Variant) (l : Nat) : Bool := l < 64 && (linkMask v).testBit l
def portPresent (v : Variant) (h : Nat) : Bool := h < 4 && (portMask v).testBit h
/-- Link group g of hub h (R3, R4). -/
def groupPresent (v : Variant) (h g : Nat) : Bool := g < 2 && linkPresent v (16 * h + 8 * g)
def cePresent (v : Variant) (n : Nat) : Bool := n < 64 && hubPresent v (n / 16)
def hubsPresent (v : Variant) : List Nat := (List.range 4).filter (hubPresent v)
def facetsPresent (v : Variant) : List Nat := (List.range 36).filter (facetPresent v)
def facetsOfHub (v : Variant) (h : Nat) : List Nat := (facetsPresent v).filter (fun f => f / 9 = h)

/-! ### Unit targets (Table 13.9) -/

/-- The units that a target code can name. Numbers are those of Table 0.2; a stack is by hub and place. -/
inductive Target where
  | hub (h : Nat)
  | facet (f : Nat)
  | wedge (f w : Nat)
  | mac (f w m : Nat)
  | engine (h e : Nat)
  | lane (h e n : Nat)
  | slice (h k : Nat)
  | core (h c : Nat)
  | stack (h s : Nat)
  | link (l : Nat)
  | group (h g : Nat)
  | port (h : Nat)
  | ce (n : Nat)
  | mgmt
deriving DecidableEq, Repr

/-- Bits 31:24 of a code are reserved (R357): nonzero gives RESERVED_NONZERO. -/
def targetReserved (c : Nat) : Bool := bitsOf c 31 24 != 0

/-- The unit that a code names, `none` when it names no unit of Table 0.2 (R357). -/
def targetOf (c : Nat) : Option Target :=
  let cls := bitsOf c 3 0
  let hub := bitsOf c 5 4
  let idx := bitsOf c 11 6
  let wdg := bitsOf c 15 12
  let sub := bitsOf c 23 16
  let z (ok : Bool) (t : Target) : Option Target := if ok then some t else none
  if targetReserved c then none
  else match cls with
  | 1 => z (idx == 0 && wdg == 0 && sub == 0) (.hub hub)
  | 2 => z (hub == 0 && idx < 36 && wdg == 0 && sub == 0) (.facet idx)
  | 3 => z (hub == 0 && idx < 36 && sub == 0) (.wedge idx wdg)
  | 4 => z (hub == 0 && idx < 36 && sub < 192) (.mac idx wdg sub)
  | 5 => z (idx < 8 && wdg == 0 && sub == 0) (.engine hub idx)
  | 6 => z (idx < 8 && wdg == 0 && sub < 64) (.lane hub idx sub)
  | 7 => z (idx < 4 && wdg == 0 && sub == 0) (.slice hub idx)
  | 8 => z (idx < 4 && wdg == 0 && sub == 0) (.core hub idx)
  | 9 => z (idx < 2 && wdg == 0 && sub == 0) (.stack hub idx)
  | 10 => z (hub == 0 && wdg == 0 && sub == 0) (.link idx)
  | 11 => z (idx < 2 && wdg == 0 && sub == 0) (.group hub idx)
  | 12 => z (idx == 0 && wdg == 0 && sub == 0) (.port hub)
  | 13 => z (hub == 0 && wdg == 0 && sub == 0) (.ce idx)
  | 14 => z (hub == 0 && idx == 0 && wdg == 0 && sub == 0) .mgmt
  | _ => none

/-- The code of a unit (Table 13.9). -/
def codeOf : Target → BitVec 32
  | .hub h => BitVec.ofNat 32 (1 + 16 * h)
  | .facet f => BitVec.ofNat 32 (2 + 64 * f)
  | .wedge f w => BitVec.ofNat 32 (3 + 64 * f + 4096 * w)
  | .mac f w m => BitVec.ofNat 32 (4 + 64 * f + 4096 * w + 65536 * m)
  | .engine h e => BitVec.ofNat 32 (5 + 16 * h + 64 * e)
  | .lane h e n => BitVec.ofNat 32 (6 + 16 * h + 64 * e + 65536 * n)
  | .slice h k => BitVec.ofNat 32 (7 + 16 * h + 64 * k)
  | .core h c => BitVec.ofNat 32 (8 + 16 * h + 64 * c)
  | .stack h s => BitVec.ofNat 32 (9 + 16 * h + 64 * s)
  | .link l => BitVec.ofNat 32 (10 + 64 * l)
  | .group h g => BitVec.ofNat 32 (11 + 16 * h + 64 * g)
  | .port h => BitVec.ofNat 32 (12 + 16 * h)
  | .ce n => BitVec.ofNat 32 (13 + 64 * n)
  | .mgmt => 14

/-- Whether the variant has the unit (R3 to R5). -/
def targetPresent (v : Variant) : Target → Bool
  | .hub h => hubPresent v h
  | .facet f => facetPresent v f
  | .wedge f _ => facetPresent v f
  | .mac f _ _ => facetPresent v f
  | .engine h _ => hubPresent v h
  | .lane h _ _ => hubPresent v h
  | .slice h _ => hubPresent v h
  | .core h _ => hubPresent v h
  | .stack h s => stackPresent v (2 * h + s)
  | .link l => linkPresent v l
  | .group h g => groupPresent v h g
  | .port h => portPresent v h
  | .ce n => cePresent v n
  | .mgmt => true

/-- The hub that a unit belongs to (Table 0.2). -/
def targetHub : Target → Nat
  | .hub h => h
  | .facet f => f / 9
  | .wedge f _ => f / 9
  | .mac f _ _ => f / 9
  | .engine h _ => h
  | .lane h _ _ => h
  | .slice h _ => h
  | .core h _ => h
  | .stack h _ => h
  | .link l => l / 16
  | .group h _ => h
  | .port h => h
  | .ce n => n / 16
  | .mgmt => 0

/-! ### Names of the model's own tables -/

/-- A wedge is facet * 16 + wedge; a logical macro is wedge * 192 + macro; an engine is hub * 8 + engine. -/
def wedgeOfMacro (m : Nat) : Nat := m / 192
def facetOfWedge (w : Nat) : Nat := w / 16
def facetOfMacro (m : Nat) : Nat := m / 3072
def hubOfWedge (w : Nat) : Nat := w / 144
def hubOfMacro (m : Nat) : Nat := m / 27648
def macroTarget (m : Nat) : BitVec 32 := codeOf (.mac (m / 3072) (m / 192 % 16) (m % 192))
def wedgeTarget (w : Nat) : BitVec 32 := codeOf (.wedge (w / 16) (w % 16))
def engineTarget (e : Nat) : BitVec 32 := codeOf (.engine (e / 8) (e % 8))

/-- The subindex ss of R111: a facet, an engine, a hub; 0x49 is the standby scratchpad (R309). -/
def ssFacet (f : Nat) : Nat := f + 1
def ssEngine (e : Nat) : Nat := 0x25 + e
def ssHub (h : Nat) : Nat := 0x45 + h
def ssStandby : Nat := 0x49

/-- An issuer code of R240: a sequencer by its wedge, or a control core. -/
inductive Issuer where
  | seq (wedge : Nat)
  | core (h c : Nat)
deriving DecidableEq, Repr

/-- A tile sequencer's code is 0 to 575 as facet * 16 + wedge and a control core's is 0x4000 + 4 * hub + core (Table 9.1). -/
def issuerOf (code : Nat) : Option Issuer :=
  if code < 576 then some (.seq code)
  else if 0x4000 ≤ code ∧ code < 0x4010 then some (.core ((code - 0x4000) / 4) ((code - 0x4000) % 4))
  else none

/-- The issuer code that stands for the standby scratchpad at its march-test engine (R306). -/
def codeStandby : Nat := 0x4010

/-- Index of an issuer's memory among the 592 (576 scratchpads, 16 control memories). -/
def issuerIndex (code : Nat) : Nat := if code < 576 then code else 576 + (code - 0x4000)

def issuerHub (code : Nat) : Nat := if code < 576 then code / 144 else (code - 0x4000) / 4

def issuerPresent (v : Variant) (code : Nat) : Bool :=
  match issuerOf code with
  | some (.seq w) => facetPresent v (w / 16)
  | some (.core h _) => hubPresent v h
  | none => false

def issuerSs (code : Nat) : Nat := if code < 576 then ssFacet (code / 16) else ssHub (issuerHub code)

def issuerTarget (code : Nat) : BitVec 32 :=
  if code < 576 then wedgeTarget code else codeOf (.core (issuerHub code) ((code - 0x4000) % 4))

/-! ### Power domains (ch. 15) -/

/-- Domain numbers: 17 f + w for wedge w of facet f, 17 f + 16 for its spine, 612 + 17 h + i for hub h with i in the order
of OD 0x4011 (0 to 7 engines, 8 to 11 slices, 12 host port, 13 and 14 link groups, 15 control, 16 memory interface),
680 for standby. -/
def domWedge (w : Nat) : Nat := 17 * (w / 16) + w % 16
def domSpine (f : Nat) : Nat := 17 * f + 16
def domHub (h i : Nat) : Nat := 612 + 17 * h + i
def domEngine (e : Nat) : Nat := domHub (e / 8) (e % 8)
def domSlice (k : Nat) : Nat := domHub (k / 4) (8 + k % 4)
def domPort (h : Nat) : Nat := domHub h 12
def domGroup (h g : Nat) : Nat := domHub h (13 + g)
def domControl (h : Nat) : Nat := domHub h 15
def domMem (h : Nat) : Nat := domHub h 16
def domStandby : Nat := 680

def domPresent (v : Variant) (k : Nat) : Bool :=
  if k < 612 then facetPresent v (k / 17)
  else if k < 680 then
    let h := (k - 612) / 17
    let i := (k - 612) % 17
    hubPresent v h && (if i = 13 then groupPresent v h 0 else if i = 14 then groupPresent v h 1 else true)
  else k = 680

/-- The hub whose region governor serves a domain. -/
def domRegion (k : Nat) : Nat := if k < 612 then k / 17 / 9 else if k < 680 then (k - 612) / 17 else 0

/-- A governed domain: a wedge or a stream engine (R412). -/
def domGoverned (k : Nat) : Bool := if k < 612 then k % 17 < 16 else k < 680 && (k - 612) % 17 < 8

/-- Main power is up or coming up: every domain but standby is Off while it is not (Table 18.3). -/
def mainOn (d : Dev) : Bool := d.seq.phase != .off

/-- The power state of a domain as a reader sees it. -/
def domState (d : Dev) (k : Nat) : PState :=
  if k = 680 then .run else if mainOn d then (tget {} d.pow.doms k).st else .off

def domOff (d : Dev) (k : Nat) : Bool := domState d k == .off

/-- The domain that a unit lies in. -/
def domOf : Target → Nat
  | .hub h => domControl h
  | .facet f => domSpine f
  | .wedge f w => domWedge (16 * f + w)
  | .mac f w _ => domWedge (16 * f + w)
  | .engine h e => domHub h e
  | .lane h e _ => domHub h e
  | .slice h k => domHub h (8 + k)
  | .core h _ => domControl h
  | .stack h _ => domMem h
  | .link l => domGroup (l / 16) (l % 16 / 8)
  | .group h g => domGroup h g
  | .port h => domPort h
  | .ce n => domControl (n / 16)
  | .mgmt => domStandby

/-- The units that hold a unit: held in reset or isolated, they take it out of service. -/
def enclosing : Target → List Target
  | .wedge f _ => [.facet f, .hub (f / 9)]
  | .mac f w _ => [.wedge f w, .facet f, .hub (f / 9)]
  | .facet f => [.hub (f / 9)]
  | .lane h e _ => [.engine h e, .hub h]
  | .engine h _ => [.hub h]
  | .slice h _ => [.hub h]
  | .core h _ => [.hub h]
  | .stack h _ => [.hub h]
  | .link l => [.group (l / 16) (l % 16 / 8), .hub (l / 16)]
  | .group h _ => [.hub h]
  | .port h => [.hub h]
  | .ce n => [.hub (n / 16)]
  | .hub _ => []
  | .mgmt => []

/-- Out of service without being held: only a macro (R443, R447). -/
def targetOos (d : Dev) : Target → Bool
  | .mac f w m =>
    let x := tget {} d.macros (3072 * f + 192 * w + m)
    x.oos || x.unread
  | _ => false

/-- Held in reset, isolated or out of service, apart from its power state. -/
def targetHeld (d : Dev) (t : Target) : Bool :=
  (t :: enclosing t).any (fun u => codeOf u ∈ d.seq.unitHeld || codeOf u ∈ d.seq.isolated)
    || (t != .mgmt && targetHub t ∈ d.seq.hubHeld) || targetOos d t

/-- A unit is Off when its domain is, or when its facet's or hub's is. -/
def targetOff (d : Dev) (t : Target) : Bool := domOff d (domOf t)

/-- Present but not in service (R11): UNIT_OFFLINE. -/
def targetOffline (d : Dev) (t : Target) : Bool := targetOff d t || targetHeld d t

/-- The unit that a failing target holds in reset: class 8 stands for the hub's control domain, without which the hub does not run. -/
def heldTarget : Target → Target
  | .core h _ => .hub h
  | t => t

/-- The units that a self-test of a target isolates (Table 16.6): class 8 covers the hub's control domain. -/
def testedUnits : Target → List Target
  | .core h _ => (List.range 4).map (fun c => .core h c) ++ (List.range 16).map (fun i => .ce (16 * h + i))
  | t => [t]

/-- A unit that a self-test now isolates. -/
def underTest (d : Dev) (u : Target) : Bool :=
  d.seq.tests.any (fun x => x.test ≠ 2 && ((targetOf x.target.toNat).elim [] testedUnits).contains u)

/-- Out of service, and not for the time of a self-test alone. -/
def targetOut (d : Dev) (t : Target) : Bool :=
  targetOff d t || targetOos d t || targetHub t ∈ d.seq.hubHeld ||
    (t :: enclosing t).any (fun u => codeOf u ∈ d.seq.unitHeld || (codeOf u ∈ d.seq.isolated && !underTest d u))

/-- An issuer that is held or Off. -/
def issuerOffline (d : Dev) (code : Nat) : Bool :=
  match issuerOf code with
  | some (.seq w) => targetOffline d (.wedge (w / 16) (w % 16))
  | some (.core h c) => targetOffline d (.core h c)
  | none => true

/-- An issuer that is out of service, and not for the time of a self-test alone. -/
def issuerOut (d : Dev) (code : Nat) : Bool :=
  match issuerOf code with
  | some (.seq w) => targetOut d (.wedge (w / 16) (w % 16))
  | some (.core h c) => targetOut d (.core h c)
  | none => true

end Sys2Proof.Machine
end

