-- ==== Sys2Proof/Machine/Flags.lean ====
section
/-!
DEFINITION. Status codes (Table 13.14), event codes (Table 16.10), the packing of event details (Table 16.9), and the
conditions that raise flags: SCALE_MISS (R102), the current-lane comparisons' inside and overrange (R42), link and
reduction outcomes stand with their units.
-/
namespace Sys2Proof.Machine

open Sys2Proof

/-! ### Status codes (Table 13.14) -/

def stSuccess : BitVec 8 := 0x00
def stInvalidOpcode : BitVec 8 := 0x01
def stReserved : BitVec 8 := 0x02
def stRepeat : BitVec 8 := 0x03
def stAliveGap : BitVec 8 := 0x04
def stValueRange : BitVec 8 := 0x05
def stUnitAbsent : BitVec 8 := 0x06
def stUnitOffline : BitVec 8 := 0x07
def stUnitBusy : BitVec 8 := 0x08
def stAborted : BitVec 8 := 0x09
def stNoTarget : BitVec 8 := 0x0A
def stHostAccess : BitVec 8 := 0x0B
def stOdNoEntry : BitVec 8 := 0x10
def stOdAccess : BitVec 8 := 0x11
def stOdLength : BitVec 8 := 0x12
def stThrottled : BitVec 8 := 0x13
def stLifecycle : BitVec 8 := 0x14
def stAuthFailed : BitVec 8 := 0x15
def stAllocFull : BitVec 8 := 0x18
def stAllocHandle : BitVec 8 := 0x19
def stExportInUse : BitVec 8 := 0x1A
def stDescHandle : BitVec 8 := 0x20
def stDescInvalid : BitVec 8 := 0x21
def stDescFootprint : BitVec 8 := 0x22
def stDescAlias : BitVec 8 := 0x23
def stDescFull : BitVec 8 := 0x24
def stDescBusy : BitVec 8 := 0x25
def stBankNotReady : BitVec 8 := 0x28
def stMatrixBusy : BitVec 8 := 0x29
def stMatrixInactive : BitVec 8 := 0x2A
def stLoaderCheck : BitVec 8 := 0x30
def stBoundRange : BitVec 8 := 0x31
def stStreamAlign : BitVec 8 := 0x32
def stScaleMiss : BitVec 8 := 0x33
def stHaloTimeout : BitVec 8 := 0x34
def stMemUe : BitVec 8 := 0x35
def stRemoteDenied : BitVec 8 := 0x36
def stLinkDown : BitVec 8 := 0x37
def stSelftestFailed : BitVec 8 := 0x38

/-! ### Event codes (Table 16.10) -/

def evMacroAdmitSat : BitVec 16 := 0x0101
def evMarkOverflow : BitVec 16 := 0x0102
def evCorrEcc : BitVec 16 := 0x0103
def evOutlierOverflow : BitVec 16 := 0x0104
def evStreamAlign : BitVec 16 := 0x0105
def evScaleMiss : BitVec 16 := 0x0106
def evPredWiden : BitVec 16 := 0x0107
def evPredBandMax : BitVec 16 := 0x0108
def evAccRange : BitVec 16 := 0x0109
def evDuplicateClaim : BitVec 16 := 0x010A
def evHaloLost : BitVec 16 := 0x010B
def evHopFail : BitVec 16 := 0x0201
def evFabricStall : BitVec 16 := 0x0202
def evMemUe : BitVec 16 := 0x0203
def evMemSpareOut : BitVec 16 := 0x0204
def evSpadStarve : BitVec 16 := 0x0205
def evMarchFail : BitVec 16 := 0x0206
def evLinkUp : BitVec 16 := 0x0301
def evLinkDegraded : BitVec 16 := 0x0302
def evLinkSelf : BitVec 16 := 0x0303
def evLinkRepeat : BitVec 16 := 0x0304
def evLinkVersion : BitVec 16 := 0x0305
def evPwrDroop : BitVec 16 := 0x0401
def evThermThrottle : BitVec 16 := 0x0402
def evThermLimit : BitVec 16 := 0x0403
def evJournalFault : BitVec 16 := 0x0501
def evJournalFormat : BitVec 16 := 0x0502
def evKsumExact : BitVec 16 := 0x0601
def evKsumCurrent : BitVec 16 := 0x0602
def evMacroReload : BitVec 16 := 0x0603
def evColumnRepair : BitVec 16 := 0x0604
def evMacroRetire : BitVec 16 := 0x0605
def evSpareOut : BitVec 16 := 0x0606
def evReloadFail : BitVec 16 := 0x0607
def evScrubParity : BitVec 16 := 0x0608
def evCeMismatch : BitVec 16 := 0x0609
def evCeRepeat : BitVec 16 := 0x060A
def evCeGap : BitVec 16 := 0x060B
def evSelftestFail : BitVec 16 := 0x060C
def evSafeState : BitVec 16 := 0x060D
def evLogOverrun : BitVec 16 := 0x060E
def evTamper : BitVec 16 := 0x0701
def evLcChange : BitVec 16 := 0x0702
def evTokenReject : BitVec 16 := 0x0703
def evKeyFault : BitVec 16 := 0x0704

/-- An event's detail: each value at its natural width and aligned to it, in the order named (Table 16.9). A value is
(bytes, value). -/
def detailAt (acc : Bytes) (vals : List (Nat × Nat)) : Bytes :=
  vals.foldl (fun b v => padTo (roundUp b.length v.1) b ++ toLe v.1 v.2) acc

def detailOf (vals : List (Nat × Nat)) : Bytes := padTo 24 (detailAt [] vals)

/-! ### Rate limits (R496): the names of limits that post at most once per interval -/

def limAdmitSat : Nat := 1
def limScaleMiss : Nat := 2
def limBandMax : Nat := 3
def limFabricStall : Nat := 4
def limSpadStarve : Nat := 5
def limLinkRepeat : Nat := 6
def limPwrDroop : Nat := 7
def limThermThrottle : Nat := 8
def limCeMismatch : Nat := 9
def limCeRepeat : Nat := 10
def limCeGap : Nat := 11
def limTokenReject : Nat := 12
def limLogVector : Nat := 13
def limPredWiden : Nat := 14
def limStreamAlign : Nat := 15
def limMarch : Nat := 16

/-! ### Conditions -/

/-- SCALE_MISS of one block position (R102): more than 4 clipped elements in one vector, or a quantised amax of 1 to 3. -/
def scaleMissAt (clipsPerVector : List Nat) (qamax : Nat) : Bool :=
  clipsPerVector.any (fun n => n > 4) || (1 ≤ qamax && qamax ≤ 3)

/-- One comparison of the stepped reference (R42, R43): beyond the guard band the sign of the difference decides; inside it
the free bit does. Answers (result, inside the band). -/
def compareAt (x ref g : Rat) (free : Bool) : Bool × Bool :=
  let inside := decide ((if x < ref then ref - x else x - ref) ≤ g)
  (if inside then free else decide (ref < x), inside)

end Sys2Proof.Machine
end

