-- ==== Sys2Proof/Machine/Ops.lean ====
section
/-!
DEFINITION. The named operations that every family shares: reading and writing one unit's record, counters, events, rate
limits, free values, messages to the world outside, host completions.
-/
namespace Sys2Proof.Machine

open Sys2Proof

/-! ### One unit's record -/

def Dev.mac (d : Dev) (m : Nat) : Macro := tget {} d.macros m
def Dev.setMac (d : Dev) (m : Nat) (x : Macro) : Dev := { d with macros := tput {} d.macros m x }
def Dev.modMac (d : Dev) (m : Nat) (f : Macro → Macro) : Dev := d.setMac m (f (d.mac m))

def Dev.wedge (d : Dev) (w : Nat) : Wedge := tget {} d.wedges w
def Dev.setWedge (d : Dev) (w : Nat) (x : Wedge) : Dev := { d with wedges := tput {} d.wedges w x }
def Dev.modWedge (d : Dev) (w : Nat) (f : Wedge → Wedge) : Dev := d.setWedge w (f (d.wedge w))

def Dev.port (d : Dev) (p : Nat) : HostPort := tget {} d.ports p
def Dev.setPort (d : Dev) (p : Nat) (x : HostPort) : Dev := { d with ports := tput {} d.ports p x }
def Dev.modPort (d : Dev) (p : Nat) (f : HostPort → HostPort) : Dev := d.setPort p (f (d.port p))

def Dev.queue (d : Dev) (p q : Nat) : Queue := tget {} (d.port p).queues q
def Dev.setQueue (d : Dev) (p q : Nat) (x : Queue) : Dev :=
  d.modPort p (fun hp => { hp with queues := tput {} hp.queues q x })

def Dev.engine (d : Dev) (e : Nat) : Engine := tget {} d.engines e
def Dev.setEngine (d : Dev) (e : Nat) (x : Engine) : Dev := { d with engines := tput {} d.engines e x }
def Dev.modEngine (d : Dev) (e : Nat) (f : Engine → Engine) : Dev := d.setEngine e (f (d.engine e))

def Dev.lane (d : Dev) (e n : Nat) : Lane := tget {} (d.engine e).lanes n
def Dev.setLane (d : Dev) (e n : Nat) (x : Lane) : Dev :=
  d.modEngine e (fun g => { g with lanes := tput {} g.lanes n x })
def Dev.modLane (d : Dev) (e n : Nat) (f : Lane → Lane) : Dev := d.setLane e n (f (d.lane e n))

def Dev.quant (d : Dev) (q : Nat) : Quant := tget {} d.quants q
def Dev.setQuant (d : Dev) (q : Nat) (x : Quant) : Dev := { d with quants := tput {} d.quants q x }
def Dev.modQuant (d : Dev) (q : Nat) (f : Quant → Quant) : Dev := d.setQuant q (f (d.quant q))

def Dev.link (d : Dev) (l : Nat) : Link := tget {} d.links l
def Dev.setLink (d : Dev) (l : Nat) (x : Link) : Dev := { d with links := tput {} d.links l x }
def Dev.modLink (d : Dev) (l : Nat) (f : Link → Link) : Dev := d.setLink l (f (d.link l))

def Dev.dom (d : Dev) (k : Nat) : Dom := tget {} d.pow.doms k
def Dev.setDom (d : Dev) (k : Nat) (x : Dom) : Dev := { d with pow := { d.pow with doms := tput {} d.pow.doms k x } }
def Dev.modDom (d : Dev) (k : Nat) (f : Dom → Dom) : Dev := d.setDom k (f (d.dom k))

def Dev.region (d : Dev) (h : Nat) : Region := tget {} d.pow.regions h
def Dev.setRegion (d : Dev) (h : Nat) (x : Region) : Dev :=
  { d with pow := { d.pow with regions := tput {} d.pow.regions h x } }
def Dev.modRegion (d : Dev) (h : Nat) (f : Region → Region) : Dev := d.setRegion h (f (d.region h))

def Dev.ce (d : Dev) (n : Nat) : CheckEngine := tget {} d.ces n
def Dev.setCe (d : Dev) (n : Nat) (x : CheckEngine) : Dev := { d with ces := tput {} d.ces n x }

def Dev.sbank (d : Dev) (code : Nat) : SpadBank := tget {} d.banks code
def Dev.setSbank (d : Dev) (code : Nat) (x : SpadBank) : Dev := { d with banks := tput {} d.banks code x }

def Macro.bank (x : Macro) (b : Bool) : Bank := if b then x.bankB else x.bankA
def Macro.setBank (x : Macro) (b : Bool) (k : Bank) : Macro := if b then { x with bankB := k } else { x with bankA := k }
/-- The bank that computes and the shadow bank (R29). -/
def Macro.active (x : Macro) : Bank := x.bank x.actB
def Macro.shadow (x : Macro) : Bank := x.bank (!x.actB)

/-- The slot that holds logical macro m of its wedge (R7, R445). -/
def slotOf (d : Dev) (m : Nat) : Nat := ((d.mac m).spare).getD (m % 192)

/-- Exact-only for a reason of R63 that the macro has of its own. -/
def Macro.exactOnly (x : Macro) : Bool := x.xoOver || x.xoUncal || x.xoRebuild != [] || x.xoKsum.isSome

/-- A macro is exact-only: for a reason of its own, or because its wedge has not completed calibration since its wake (R63). -/
def macExactOnly (d : Dev) (m : Nat) : Bool := (d.mac m).exactOnly || (d.wedge (m / 192)).uncal

/-- Exact-only for the planes of its active matrix: a reason of R63, or the matrix's copies did not fit (R82, R84). -/
def exactOnlyNow (d : Dev) (m : Nat) : Bool :=
  macExactOnly d m || (d.wedge (m / 192)).xoOut.contains (d.mac m).active.matrix

/-- What governs a tile's reads on a macro, when a calibration has changed it since the tile's issue. -/
def Macro.pastOf (x : Macro) (tile : Nat) : Option MarkPast := x.past.find? (fun e => tile < e.below)

/-- A macro is exact-only for a tile: mark overflow, a rebuild and a current-lane mismatch count from its next tile issue on (R78,
R79, R443), a wake from Off at once (R63). -/
def exactFor (d : Dev) (m tile : Nat) : Bool :=
  let x := d.mac m
  (x.pastOf tile).elim x.xoOver (fun e => e.xoOver) || x.xoUncal || (d.wedge (m / 192)).uncal ||
    x.xoRebuild.any (fun e => decide (e.2 ≤ tile)) || x.xoKsum.any (fun n => decide (n ≤ tile))

/-- Checks of a macro's active bank are suspended (R443). -/
def ckSuspended (d : Dev) (m : Nat) : Bool := (d.wedge (m / 192)).ksSusp.contains (slotOf d m, (d.mac m).actB)

/-- A check step past its age is due and may run (R440, R443). -/
def ckOwed (d : Dev) (m : Nat) : Bool := (d.mac m).ckDue && !ckSuspended d m

/-- The check age of a macro in ms (R438). -/
def checkAge (d : Dev) (m : Nat) : Nat := (d.mac m).ageMs + (tget 0 d.hubTimer (hubOfMacro m) - (d.mac m).ckAt) / 1000

/-! ### Counters, settings and free values -/

/-- The key of a dictionary entry in the model's tables. -/
def odKey (idx sub : Nat) : Nat := idx * 256 + sub

/-- Raise the counter at index and subindex. -/
def Dev.count (d : Dev) (idx sub : Nat) (n : Nat) : Dev := { d with ctr := tmod 0 d.ctr (odKey idx sub) (· + n) }

/-- A numeric setting: the value held, or its default. -/
def Dev.num (d : Dev) (idx sub dflt : Nat) : Nat :=
  match tfind d.vals (odKey idx sub) with
  | some b => leNat b
  | none => dflt

/-- A fresh free value's name. -/
def Dev.drawn (d : Dev) : Dev := { d with free := d.free + 1 }

/-! ### Events and messages -/

/-- Record a message that the block sends. -/
def Dev.emit (d : Dev) (o : Output) : Dev := { d with out := d.out ++ [o] }

/-- Post an event (R461): the hub numbers it under R18, and it is on its way to the ring. -/
def Dev.post (d : Dev) (code : BitVec 16) (hub : Nat) (unit : BitVec 32) (vals : List (Nat × Nat)) : Dev :=
  let n := tget 0 d.log.hseq hub
  let ev : Event := { code := code, hub := hub, hseq := BitVec.ofNat 32 n, unit := unit, time := tget 0 d.hubTimer hub,
                      detail := detailOf vals }
  { d with log := { d.log with way := d.log.way ++ [ev], hseq := tput 0 d.log.hseq hub (n + 1) } }

/-- Has the limit of a unit posted in the current interval (R496)? `timer` is the hub whose timer bounds it, 4 for the standby controller's. -/
def Dev.marked (d : Dev) (timer limit unit : Nat) : Bool := d.marks.contains (32 * timer + limit, unit)
def Dev.mark (d : Dev) (timer limit unit : Nat) : Dev := { d with marks := d.marks ++ [(32 * timer + limit, unit)] }

/-- Post an event at most once per interval of its limit, by the timer of its hub (R496). -/
def Dev.postOnce (d : Dev) (limit key : Nat) (code : BitVec 16) (hub : Nat) (unit : BitVec 32)
    (vals : List (Nat × Nat)) : Dev :=
  if d.marked hub limit key then d else (d.mark hub limit key).post code hub unit vals

/-- Send MSI-X vector n of a port; a masked or disabled vector, or one of a function in D3hot, stays pending (R343). -/
def Dev.msix (d : Dev) (p n : Nat) : Dev :=
  let hp := d.port p
  if hp.msixEn && !hp.d3 && !hp.msixMask.getLsbD n then d.emit (.msix p n)
  else d.setPort p { hp with msixPend := hp.msixPend ||| BitVec.ofNat 17 (2 ^ n) }

/-- Send every pending vector that may be sent (R343). -/
def Dev.flushMsix (d : Dev) (p : Nat) : Dev :=
  (List.range 17).foldl (fun d n =>
    let hp := d.port p
    if hp.msixPend.getLsbD n && hp.msixEn && !hp.d3 && !hp.msixMask.getLsbD n then
      (d.setPort p { hp with msixPend := hp.msixPend &&& ~~~(BitVec.ofNat 17 (2 ^ n)) }).emit (.msix p n)
    else d) d

/-! ### Host commands in flight and completions (R347 to R352) -/

/-- The command in flight with this number. -/
def Dev.cmdOf (d : Dev) (id : Nat) : Option Cmd := d.cmds.find? (fun c => c.id == id)

/-- A command may start when the earlier commands of its queue have started and no earlier FENCE of its queue is in flight
(R347, R372). FENCE has opcode 0x1A. -/
def Dev.mayStart (d : Dev) (c : Cmd) : Bool :=
  c.stage == .ready &&
    d.cmds.all (fun e => !(e.port == c.port && e.q == c.q && decide (e.id < c.id) && (e.stage == .ready || e.opc == 0x1A)))

/-- The command `id`, when it has opcode `opc` and may start now. -/
def Dev.starting (d : Dev) (id opc : Nat) : Option Cmd :=
  match d.cmdOf id with
  | some c => if c.opc = opc ∧ d.mayStart c = true then some c else none
  | none => none

/-- The command has started and runs on. -/
def Dev.busy (d : Dev) (id : Nat) : Dev :=
  { d with cmds := d.cmds.map (fun c => if c.id = id then { c with stage := .busy } else c) }

/-- End a command: it leaves the commands in flight and its completion waits to be written (R348). A HOST_ACCESS status
is counted in OD 0x1207 (R378). -/
def Dev.finish (d : Dev) (id : Nat) (status detail : BitVec 8) (smiss : Bool) (result : BitVec 64) : Dev :=
  match d.cmdOf id with
  | none => d
  | some c =>
    let cp : Comp := { port := c.port, q := c.q, cid := c.cid, status := status, detail := detail, smiss := smiss,
                       result := result }
    let d1 := { d with cmds := d.cmds.filter (fun e => e.id != id), comps := d.comps ++ [cp] }
    if status = stHostAccess then d1.count 0x1207 (c.port + 1) 1 else d1

/-- End a command with a status and a detail and no result. -/
def Dev.fails (d : Dev) (id : Nat) (status : BitVec 8) (detail : Nat) : Dev :=
  d.finish id status (BitVec.ofNat 8 detail) false 0

/-- End a command with SUCCESS. -/
def Dev.succeeds (d : Dev) (id : Nat) (result : Nat) : Dev := d.finish id stSuccess 0 false (BitVec.ofNat 64 result)

/-- Parameter word j of a command. -/
def Cmd.P (c : Cmd) (j : Nat) : Nat := (nth 0 c.p j).toNat

/-- Bytes written to a host's memory. -/
def Dev.toHost (d : Dev) (p : Nat) (addr : Nat) (b : Bytes) : Dev := d.emit (.hostWrite p (BitVec.ofNat 64 addr) b)

/-! ### Issuer memories (R239, R300): byte a of issuer `code` -/

def spadAddr (code a : Nat) : Nat := issuerIndex code * 262144 + a
def Dev.sread (d : Dev) (code a n : Nat) : Bytes := mread d.spad (spadAddr code a) n
def Dev.sreadNat (d : Dev) (code a n : Nat) : Nat := leNat (d.sread code a n)
def Dev.swrite (d : Dev) (code a : Nat) (b : Bytes) : Dev := { d with spad := mwrite d.spad (spadAddr code a) b }
def Dev.swriteNat (d : Dev) (code a n v : Nat) : Dev := d.swrite code a (toLe n v)

/-! ### Time (R486) -/

/-- The interval timer of hub h runs: main power is up and its reference clock runs. -/
def timerRuns (v : Variant) (d : Dev) (h : Nat) : Bool := hubPresent v h && mainOn d && nth false d.seq.refclk h

/-- What the block does on an empty queue (DESIGN CHOICE, notes/assumptions/4.md): each timer that runs advances by a microsecond or stands
still, each on its own, for no time base is common to them (R18). -/
def Dev.tick (v : Variant) (d : Dev) : Dev :=
  let go := fun i => !Config.still d.free i
  let t := (List.range 4).foldl (fun t h => if timerRuns v d h && go h then tmod 0 t h (· + 1) else t) d.hubTimer
  { d with hubTimer := t, stbyTimer := if d.seq.stbyUp && go 4 then d.stbyTimer + 1 else d.stbyTimer, free := d.free + 1 }

/-! ### Free index queues -/

/-- The index at the head of the queue (R208, R356, R366). -/
def IdxQueue.head (q : IdxQueue) : Option Nat := if q.next ≤ q.last then some q.next else q.tail.head?
def IdxQueue.pop (q : IdxQueue) : IdxQueue :=
  if q.next ≤ q.last then { q with next := q.next + 1 } else { q with tail := q.tail.tail }
def IdxQueue.push (q : IdxQueue) (i : Nat) : IdxQueue := { q with tail := q.tail ++ [i] }
/-- How many indices are free. -/
def IdxQueue.size (q : IdxQueue) : Nat := (q.last + 1 - q.next) + q.tail.length

end Sys2Proof.Machine
end

