-- ==== Sys2Proof/Machine/Energy.lean ====
section
/-!
DEFINITION. Operating points and the energy credit of the governed domains (R413, R419, R420; Table 15.1).
-/
namespace Sys2Proof.Machine

open Sys2Proof

/-- Energy factor, macro step rate and lane step rate (in G steps per second) of an operating point (Table 15.1). -/
def opFactor (k : Nat) : Rat := mkRat ((nth 1000 [538, 640, 751, 871, 1000, 1138, 1284, 1440] k : Nat) : Int) 1000
def macroRate (k : Nat) : Rat := mkRat ((nth 80 [38, 50, 62, 71, 80, 91, 102, 112] k : Nat) : Int) 100
def laneRate (k : Nat) : Rat := mkRat ((nth 150 [71, 94, 116, 133, 150, 171, 191, 210] k : Nat) : Int) 100

/-- Learned energy of a macro step and of a lane step of a phase in a region, in pJ at OP4 (R420). -/
def macEnergy (d : Dev) (hub phase : Nat) : Rat := tget 72 (d.region hub).learnedM phase
def laneEnergy (d : Dev) (hub phase : Nat) : Rat := tget 40 (d.region hub).learnedL phase

/-- Energy of a background step at OP4: 64 pJ (Table 2.8). No phase owns it (DEDUCED, notes/assumptions/34.md). -/
def checkEnergy : Rat := 64

/-- A domain whose handshakes run: in Run, and not stopped by a supply collapse (R425). -/
def domRuns (d : Dev) (k : Nat) : Bool := domState d k == .run && !(d.dom k).collapsed

/-- What a step of energy `e` at OP4 costs the domain. -/
def stepCost (d : Dev) (k : Nat) (e : Rat) : Rat := e * opFactor (d.dom k).op

/-- `n` steps may start one after the other: the credit is positive before each (R419). -/
def mayStep (d : Dev) (k : Nat) (e : Rat) (n : Nat) : Bool :=
  domRuns d k && (n = 0 || decide (stepCost d k e * ((n - 1 : Nat) : Rat) < (d.dom k).credit))

/-- Debit `n` steps. -/
def debit (k : Nat) (e : Rat) (n : Nat) (d : Dev) : Dev :=
  if n = 0 then d else d.modDom k (fun x => { x with credit := x.credit - stepCost d k e * (n : Rat) })

/-- Steps of a macro or a lane and scrub passes draw `pj` at OP4 from the domain's supply: the physical energy, beside the learned energy that is debited. -/
def draw (k : Nat) (pj : Rat) (d : Dev) : Dev :=
  if pj = 0 then d else d.modDom k (fun x => { x with spent := x.spent + pj * opFactor x.op })

end Sys2Proof.Machine
end

