-- ==== Sys2Proof/Machine/Fp.lean ====
section
/-!
DEFINITION. Floating-point values: each format is decoded to an exact value, every operation is formed exactly, and the
result is rounded once to nearest even with gradual underflow (R52, R146, R500). NaN results are canonical (R495).
The row-wise functions answer within the bound of Table 6.5: the nearest value is computed from exact series, and a free
offset moves it inside the bound.
-/
namespace Sys2Proof

/-- A floating value: NaN, an infinity, or a finite value with its sign kept (so that -0 is not +0). -/
inductive Fp where
  | nan
  | inf (neg : Bool)
  | fin (neg : Bool) (mag : Rat)
deriving DecidableEq, Repr

/-- A binary format: exponent bits, mantissa bits, bias, whether it has infinities (E4M3 has none and saturates, R500),
and its canonical NaN (R495). -/
structure FpFmt where
  e : Nat
  m : Nat
  bias : Nat
  ieee : Bool
  qnan : Nat
deriving DecidableEq, Repr

def fmt32 : FpFmt := { e := 8, m := 23, bias := 127, ieee := true, qnan := 0x7FC00000 }
def fmtBf16 : FpFmt := { e := 8, m := 7, bias := 127, ieee := true, qnan := 0x7FC0 }
def fmt16 : FpFmt := { e := 5, m := 10, bias := 15, ieee := true, qnan := 0x7E00 }
def fmtE4m3 : FpFmt := { e := 4, m := 3, bias := 7, ieee := false, qnan := 0x7F }
def fmtE5m2 : FpFmt := { e := 5, m := 2, bias := 15, ieee := true, qnan := 0x7E }

/-- 2^k for an integer k. -/
def pow2Q (k : Int) : Rat :=
  match k with
  | .ofNat n => mkRat ((2 ^ n : Nat) : Int) 1
  | .negSucc n => mkRat 1 (2 ^ (n + 1))

/-- The value of an encoded number. -/
def Fp.decode (f : FpFmt) (b : Nat) : Fp :=
  let neg := b.testBit (f.e + f.m)
  let ex := b / 2 ^ f.m % 2 ^ f.e
  let man := b % 2 ^ f.m
  let top := 2 ^ f.e - 1
  if f.ieee && ex == top then (if man = 0 then .inf neg else .nan)
  else if !f.ieee && ex == top && man == 2 ^ f.m - 1 then .nan
  else if ex = 0 then .fin neg ((man : Rat) * pow2Q (1 - (f.bias : Int) - f.m))
  else .fin neg (((2 ^ f.m + man : Nat) : Rat) * pow2Q ((ex : Int) - f.bias - f.m))

/-- Floor of the base-2 logarithm of a positive rational. -/
def floorLog2 (q : Rat) : Int :=
  let a := (Nat.log2 q.num.natAbs : Int) - Nat.log2 q.den
  if pow2Q a ≤ q then a else a - 1

/-- Round a nonnegative rational to the nearest integer, ties to even. -/
def rneNat (q : Rat) : Nat :=
  let n := q.num.natAbs
  let fl := n / q.den
  let r := n % q.den
  if 2 * r < q.den then fl
  else if 2 * r > q.den then fl + 1
  else if fl % 2 = 0 then fl else fl + 1

/-- Round a rational to the nearest integer, ties to even. -/
def rneInt (q : Rat) : Int := if q < 0 then -(rneNat (-q) : Int) else rneNat q

/-- The sign bit of a format. -/
def signBit (f : FpFmt) (neg : Bool) : Nat := if neg then 2 ^ (f.e + f.m) else 0

/-- Encode with one rounding to nearest even, gradual underflow, and overflow as R500 says. -/
def Fp.encode (f : FpFmt) (x : Fp) : Nat :=
  let top := 2 ^ f.e - 1
  let satMag := if f.ieee then top * 2 ^ f.m else 2 ^ (f.e + f.m) - 2
  match x with
  | .nan => f.qnan
  | .inf neg => signBit f neg + satMag
  | .fin neg q =>
    if q = 0 then signBit f neg
    else
      let emin : Int := 1 - (f.bias : Int)
      let ex := max (floorLog2 q) emin
      let n := rneNat (q * pow2Q ((f.m : Int) - ex))
      let mag := if n < 2 ^ f.m then n else (ex - emin).toNat * 2 ^ f.m + n
      let limit := if f.ieee then top * 2 ^ f.m else 2 ^ (f.e + f.m) - 1
      if limit ≤ mag then signBit f neg + satMag else signBit f neg + mag

/-- A rational as a value; zero is +0. -/
def Fp.ofRat (q : Rat) : Fp := if q < 0 then .fin true (-q) else .fin false q

/-- The signed rational of a finite value. -/
def Fp.toRat : Fp → Rat
  | .fin true q => -q
  | .fin false q => q
  | _ => 0

def Fp.isNeg : Fp → Bool
  | .fin n _ => n
  | .inf n => n
  | .nan => false

def Fp.neg : Fp → Fp
  | .nan => .nan
  | .inf n => .inf (!n)
  | .fin n q => .fin (!n) q

/-- Exact product (IEEE 754: sign by exclusive or, 0 times infinity is NaN). -/
def Fp.mul (a b : Fp) : Fp :=
  match a, b with
  | .nan, _ => .nan
  | _, .nan => .nan
  | .inf n, .inf k => .inf (n ^^ k)
  | .inf n, .fin k q => if q = 0 then .nan else .inf (n ^^ k)
  | .fin k q, .inf n => if q = 0 then .nan else .inf (n ^^ k)
  | .fin n q, .fin k r => .fin (n ^^ k) (q * r)

/-- Exact sum (opposite infinities give NaN; an exact zero is +0 unless both terms are -0). -/
def Fp.add (a b : Fp) : Fp :=
  match a, b with
  | .nan, _ => .nan
  | _, .nan => .nan
  | .inf n, .inf k => if n = k then .inf n else .nan
  | .inf n, .fin _ _ => .inf n
  | .fin _ _, .inf n => .inf n
  | .fin n q, .fin k r =>
    let s := (Fp.fin n q).toRat + (Fp.fin k r).toRat
    if s = 0 then .fin (n && k) 0 else .ofRat s

/-- Exact quotient. -/
def Fp.div (a b : Fp) : Fp :=
  match a, b with
  | .nan, _ => .nan
  | _, .nan => .nan
  | .inf _, .inf _ => .nan
  | .inf n, .fin k _ => .inf (n ^^ k)
  | .fin n _, .inf k => .fin (n ^^ k) 0
  | .fin n q, .fin k r => if r = 0 then (if q = 0 then .nan else .inf (n ^^ k)) else .fin (n ^^ k) (q / r)

/-- Numeric order on values that are not NaN: `a < b`. -/
def Fp.lt (a b : Fp) : Bool :=
  match a, b with
  | .nan, _ => false
  | _, .nan => false
  | .inf true, .inf true => false
  | .inf true, _ => true
  | _, .inf true => false
  | .inf false, _ => false
  | _, .inf false => true
  | a, b => decide (a.toRat < b.toRat)

def Fp.isNan : Fp → Bool
  | .nan => true
  | _ => false

/-- binary32 bits to a value and back. -/
def f32 (b : W32) : Fp := Fp.decode fmt32 b.toNat
def toF32 (x : Fp) : W32 := BitVec.ofNat 32 (Fp.encode fmt32 x)

def f32add (a b : W32) : W32 := toF32 ((f32 a).add (f32 b))
def f32mul (a b : W32) : W32 := toF32 ((f32 a).mul (f32 b))
def f32zero : W32 := 0
def f32negInf : W32 := 0xFF800000

/-- FP32 max and min of Table 6.2: a NaN operand gives NaN; equal operands keep the old word. -/
def f32max (old new : W32) : W32 :=
  if (f32 old).isNan || (f32 new).isNan then 0x7FC00000 else if (f32 old).lt (f32 new) then new else old
def f32min (old new : W32) : W32 :=
  if (f32 old).isNan || (f32 new).isNan then 0x7FC00000 else if (f32 new).lt (f32 old) then new else old

/-- The value of an integer times a power of two. -/
def scaled (n : Int) (k : Int) : Rat := (n : Rat) * pow2Q k

/-! ### Functions with a bound (Table 6.5) -/

/-- binary32 bits on the line of representable values, and back. -/
def f32ord (b : W32) : Int :=
  let mag : Nat := b.toNat % 2 ^ 31
  if b.getLsbD 31 then -(mag : Int) else mag

def f32ofOrd (k : Int) : W32 :=
  if k < 0 then BitVec.ofNat 32 (2 ^ 31 + min k.natAbs 0x7F800000) else BitVec.ofNat 32 (min k.natAbs 0x7F800000)

/-- A value within `bound` ulp of `b`: moved by the free offset `off`, cut to the bound (R174). -/
def withinUlp (bound : Nat) (off : Int) (b : W32) : W32 :=
  if (f32 b).isNan then b else f32ofOrd (f32ord b + max (-(bound : Int)) (min (bound : Int) off))

/-- A rational cut to a multiple of 2^-k, so that a series stays small. -/
def cutQ (k : Nat) (q : Rat) : Rat := mkRat ((q * pow2Q k).floor) (2 ^ k)

/-- ln 2 and sqrt (2 pi), cut to 200 fractional bits. -/
def ln2Q : Rat := mkRat 1113844574712631719546256151097547306333272293549090750737802 (2 ^ 200)
def sqrt2piQ : Rat := mkRat 4027996337319827116642962989623696569982349042520938485862620 (2 ^ 200)

/-- The series of exp at a small argument, by Horner's rule over the terms n, n - 1, ..., 1. -/
def expSeries (x : Rat) : Nat → Rat
  | 0 => 1
  | n + 1 => (List.range (n + 1)).foldl (fun acc i => cutQ 200 (1 + x * acc / ((n + 1 - i : Nat) : Rat))) 1

/-- e^x to about 150 bits (DEDUCED: stands for the exact function that R174 measures against). -/
def expQ (x : Rat) : Rat :=
  let k := (x / ln2Q).floor
  let r := cutQ 200 (x - (k : Rat) * ln2Q)
  expSeries r 40 * pow2Q k

/-- The correctly rounded binary32 of exp. -/
def expRound (x : Fp) : W32 :=
  match x with
  | .nan => 0x7FC00000
  | .inf true => 0
  | .inf false => 0x7F800000
  | .fin n q =>
    if n then (if q > 200 then 0 else toF32 (.ofRat (expQ (-q))))
    else (if q > 100 then 0x7F800000 else toF32 (.ofRat (expQ q)))

/-- exp of Table 6.5, within 2 ulp; `n` names the free value. -/
def f32exp (n : Nat) (x : W32) : W32 := withinUlp 2 (Config.ulpOffset n) (expRound (f32 x))

/-- The series x + x^3/3 + x^5/(3*5) + ... of the normal distribution. -/
def phiSeries (x2 : Rat) (x : Rat) (n : Nat) : Rat :=
  ((List.range n).foldl (fun (p : Rat × Rat) i =>
    let t := cutQ 300 (p.2 * x2 / ((2 * i + 3 : Nat) : Rat))
    (p.1 + t, t)) (x, x)).1

/-- The standard normal distribution function. -/
def phiQ (x : Rat) : Rat :=
  let y := cutQ 300 x
  1 / 2 + expQ (-(x * x) / 2) * phiSeries (cutQ 300 (y * y)) y 400 / sqrt2piQ

/-- Square root of a nonnegative rational, cut to 160 fractional bits below its leading bit. -/
def sqrtQ (q : Rat) : Rat :=
  let k : Nat := 200
  mkRat (Nat.sqrt (q.num.natAbs * q.den * 2 ^ (2 * k))) (q.den * 2 ^ k)

/-- GELU with its exact limits (R174), within 4 ulp. -/
def f32gelu (n : Nat) (x : W32) : W32 :=
  match f32 x with
  | .nan => 0x7FC00000
  | .inf true => 0x80000000
  | .inf false => 0x7F800000
  | .fin s q =>
    if q = 0 then x
    else
      let y := if s then -q else q
      -- below -15 the product is smaller than half the smallest subnormal, and the correctly rounded result is -0
      let r := if s ∧ q > 15 then (0 : Rat) else if q > 20 then y else y * phiQ y
      withinUlp 4 (Config.ulpOffset n) (toF32 (if r = 0 then .fin s 0 else .ofRat r))

/-- SiLU with its exact limits (R174), within 4 ulp. -/
def f32silu (n : Nat) (x : W32) : W32 :=
  match f32 x with
  | .nan => 0x7FC00000
  | .inf true => 0x80000000
  | .inf false => 0x7F800000
  | .fin s q =>
    if q = 0 then x
    else
      let y := if s then -q else q
      let r := if q > 200 then (if s then (0 : Rat) else y) else y / (1 + expQ (-y))
      withinUlp 4 (Config.ulpOffset n) (toF32 (if r = 0 then .fin s 0 else .ofRat r))

/-- A NaN in the form of R495; any other value as it is. -/
def f32canon (x : W32) : W32 := if (f32 x).isNan then 0x7FC00000 else x

/-- ReLU: x when x > 0, +0 otherwise; NaN stays NaN (Table 6.5). -/
def f32relu (x : W32) : W32 :=
  match f32 x with
  | .nan => 0x7FC00000
  | v => if (Fp.fin false 0).lt v then x else 0

/-- Sign/threshold of Table 6.5: 1 when x > t; NaN gives 0. -/
def signBitOf (x t : W32) : Bool := (f32 t).lt (f32 x)

/-- y = o / l, correctly rounded; a row with l = 0 gives zero (R169). -/
def f32norm (o l : W32) : W32 :=
  match f32 l with
  | .fin _ q => if q = 0 then 0 else toF32 ((f32 o).div (f32 l))
  | v => toF32 ((f32 o).div v)

/-! ### Block scales (ch. 4) -/

/-- The smallest exponent in 0 to 254 with A * 2^h <= lim * 2^(e - 127) (R101, R109; `lim` is 127 or 32,767). -/
def fitExp (lim : Nat) (a : Rat) (h : Nat) : Nat :=
  ((List.range 255).find? (fun (f : Nat) => decide (a * ((2 ^ h : Nat) : Rat) ≤ (lim : Rat) * pow2Q ((f : Int) - 127)))).getD 254

/-- What quantising one element gives (R100): the integer, whether it clipped, whether it was not finite. -/
def quantElem (lim : Nat) (x : W32) (e : BitVec 8) : Int × Bool × Bool :=
  match f32 x with
  | .nan => (0, false, true)
  | .inf n => (if n then -(lim : Int) else lim, true, true)
  | v =>
    let q := rneInt (v.toRat * pow2Q (127 - (e.toNat : Int)))
    if q > lim then (lim, true, false) else if q < -(lim : Int) then (-(lim : Int), true, false) else (q, false, false)

/-- The quantised amax of a position: min (lim, round (A * 2^(127 - e))) (R100). -/
def qamaxOf (lim : Nat) (amax : W32) (e : BitVec 8) : Nat :=
  min lim (rneNat ((f32 amax).toRat * pow2Q (127 - (e.toNat : Int))))

/-- The next exponent of a position (R101; `under` is 16, or 4,096 for the outlier entry). -/
def nextExp (lim under : Nat) (e : BitVec 8) (amax : W32) (qamax h : Nat) : BitVec 8 :=
  let a := (f32 amax).toRat
  if a = 0 then e
  else
    let f := fitExp lim a h
    if f > e.toNat then BitVec.ofNat 8 f
    else if f < e.toNat ∧ qamax < under then e - 1 else e

/-- The format of a Table 4.4 source code (1 FP32, 2 BF16, 3 FP16, 4 E4M3, 5 E5M2). -/
def srcFmt (code : Nat) : FpFmt :=
  match code with
  | 2 => fmtBf16
  | 3 => fmt16
  | 4 => fmtE4m3
  | 5 => fmtE5m2
  | _ => fmt32

/-- The format of an element format code of Table 7.3, for the floating ones. -/
def elemFmt (code : Nat) : FpFmt :=
  match code with
  | 5 => fmtBf16
  | 6 => fmt16
  | 8 => fmtE4m3
  | 9 => fmtE5m2
  | _ => fmt32

/-- The smallest FP16 value that is at least A / d (R110). -/
def fp16AtLeast (a : Rat) : BitVec 16 :=
  if a = 0 then 0
  else
    let b := Fp.encode fmt16 (.ofRat a)
    if decide ((Fp.decode fmt16 b).toRat < a) ∧ b < 0x7C00 then BitVec.ofNat 16 (b + 1) else BitVec.ofNat 16 b

end Sys2Proof
end

