-- ==== Sys2Proof/Machine/TileBase.lean ====
section
/-!
DEFINITION. The objects of the device by their names, and the discard and the failure of a tile (R154, R155, R231, R251, R299).
-/
namespace Sys2Proof.Machine

open Sys2Proof

/-! ### Objects by name -/

def Dev.matOf (d : Dev) (id : Nat) : Option Matrix := d.mats.find? (fun m => m.id = id)
def Dev.progOf (d : Dev) (h : Nat) : Option Program := d.progs.find? (fun p => p.handle = h)
def Dev.jobOf (d : Dev) (j : Nat) : Option Job := d.jobs.find? (fun x => x.id = j)
def Dev.tileOf (d : Dev) (t : Nat) : Option Tile := d.tiles.find? (fun x => x.id = t)
def Dev.allocOf (d : Dev) (h : Nat) : Option Alloc := d.allocs.find? (fun x => x.handle = h)
def Dev.descOf (d : Dev) (h : Nat) : Option Desc := d.descs.find? (fun x => x.handle = h)
def Dev.modJob (d : Dev) (j : Nat) (f : Job → Job) : Dev :=
  { d with jobs := d.jobs.map (fun x => if x.id = j then f x else x) }
def Dev.modTile (d : Dev) (t : Nat) (f : Tile → Tile) : Dev :=
  { d with tiles := d.tiles.map (fun x => if x.id = t then f x else x) }

/-! ### Counter records (Table 9.4) -/

/-- Field hi:lo of the record at (home, addr). -/
def ctrField (d : Dev) (home addr hi lo : Nat) : Nat := bitsOf (d.sreadNat home addr 64) hi lo

def ctrNext (d : Dev) (c : CtrEntry) : Nat := ctrField d c.home c.addr 63 0
def ctrSweep (d : Dev) (c : CtrEntry) : Nat := ctrField d c.home c.addr 127 64
def ctrRaw (d : Dev) (c : CtrEntry) : Nat := ctrField d c.home c.addr 191 128
def ctrReal (d : Dev) (c : CtrEntry) : Nat := ctrField d c.home c.addr 255 192
def ctrCommitted (d : Dev) (c : CtrEntry) : Nat := ctrField d c.home c.addr 319 256
def ctrB0 (d : Dev) (c : CtrEntry) : Nat := ctrField d c.home c.addr 351 320
def ctrB1 (d : Dev) (c : CtrEntry) : Nat := ctrField d c.home c.addr 383 352
def ctrB2 (d : Dev) (c : CtrEntry) : Nat := ctrField d c.home c.addr 415 384
def ctrStarters (d : Dev) (c : CtrEntry) : Nat := ctrField d c.home c.addr 431 416
def ctrLside (d : Dev) (c : CtrEntry) : Nat := ctrField d c.home c.addr 436 432
def ctrJlong (d : Dev) (c : CtrEntry) : Bool := ctrField d c.home c.addr 437 437 = 1
def ctrReady (d : Dev) (c : CtrEntry) : Bool := ctrField d c.home c.addr 438 438 = 1
def ctrDead (d : Dev) (c : CtrEntry) : Bool := ctrField d c.home c.addr 439 439 = 1
def ctrEpoch0 (d : Dev) (c : CtrEntry) : Nat := ctrField d c.home c.addr 471 440
def ctrNshare (d : Dev) (c : CtrEntry) : Nat := ctrField d c.home c.addr 487 472

/-- A counter is complete: ready, and committed equals real (R250). -/
def ctrComplete (d : Dev) (c : CtrEntry) : Bool := ctrReady d c && ctrCommitted d c = ctrReal d c

/-- An issuer of a program, its share of an instruction, and a counter of the program. -/
def Program.issuerRec (p : Program) (code : Nat) : Option ProgIssuer := p.issuers.find? (fun i => i.issuer = code)
def Program.ctr (p : Program) (id : Nat) : Option CtrEntry := p.ctrs.find? (fun c => c.id = id)
def ProgIssuer.share (i : ProgIssuer) (k : Nat) : Share := nth { ctr := 0, grain := 0, wait := 0 } i.shares k

/-! ### The end of a job's work (R251, R255) -/

/-- Tiles of a job in flight. -/
def jobTiles (d : Dev) (j : Nat) : List Tile := d.tiles.filter (fun t => t.job = j)

/-- A lost issuer whose unit is Off, held or out of service cannot return (R255); one that a self-test isolates may. -/
def cannotReturn (d : Dev) (s : IssState) : Bool := s.lost && issuerOut d s.issuer

/-- An issuer that cannot return has not finished its program (R255). -/
def leftUnrun (d : Dev) (s : IssState) : Bool := cannotReturn d s && s.stage ≠ .finished

/-- Every issuer that takes part has passed its last instruction. -/
def issuersDone (d : Dev) (j : Job) : Bool := j.iss.all (fun s => s.stage = .finished || leftUnrun d s)

/-- Every counter of the job is complete or dead. -/
def countersDone (d : Dev) (j : Job) : Bool :=
  match d.progOf j.prog with
  | none => true
  | some p => p.ctrs.all (fun c => ctrComplete d c || ctrDead d c || !(p.issuers.any (fun i => i.shares.any (fun s => s.ctr = c.id))))

/-- Every issuer has passed its last instruction, and every counter is complete or dead: nothing more of the job can fail it (R251). -/
def workDone (d : Dev) (j : Job) : Bool := issuersDone d j && countersDone d j

/-! ### Hops (R272, R273) -/

/-- Frame slots of a receiving end by class (Table 10.5). -/
def hopSlots : Hop → List Nat
  | .lattice _ _ => [2, 2, 8, 8]
  | .spineDown _ _ => [2, 2, 8, 8]
  | .facetUp _ => [20, 20, 64, 64]
  | .facetDown _ => [20, 20, 64, 64]
  | .switchIn _ _ => [12, 12, 32, 32]
  | .switchOut _ _ => [12, 12, 32, 32]
  | .bridge _ _ => [80, 80, 160, 160]

/-- A hop with nothing in its buffers and every credit at the sender (R272). -/
def HopState.fresh (h : Hop) : HopState :=
  { hop := h, credits := hopSlots h, wait := [], slots := [], replay := [], asked := false, again := 0, succ := 0,
    failed := false, awaiting := false, stalled := [] }

/-- The record of a hop; hops not listed are fresh. -/
def Dev.hopOf (d : Dev) (h : Hop) : HopState := (d.hops.find? (fun x => x.hop == h)).getD (.fresh h)
def Dev.setHop (d : Dev) (h : Hop) (x : HopState) : Dev :=
  { d with hops := if d.hops.any (fun y => y.hop == h) then d.hops.map (fun y => if y.hop == h then x else y) else d.hops ++ [x] }
def Dev.modHop (d : Dev) (h : Hop) (f : HopState → HopState) : Dev := d.setHop h (f (d.hopOf h))

/-- A switch takes a frame of a class that comes in at one of these ports: its first hop has a credit, and none of the class waits (R273,
Table 10.6). -/
def switchTakes (d : Dev) (h : Nat) (ports : List Nat) (cls : Nat) : Bool :=
  ports.any (fun p =>
    let x := d.hopOf (.switchIn h p)
    decide (0 < nth 0 x.credits cls) && x.wait.all (fun g => g.cls != cls))

/-! ### Tiles leaving (R154, R155, R231) -/

/-- The units that hold a tile once it is issued. -/
def Tile.onWedge (t : Tile) (w : Nat) : Bool := t.wedges.contains w
def Tile.onEngine (t : Tile) (e : Nat) : Bool := t.engine == some e

/-- A lane without anything of a tile: its items leave the queue, the running item stops, its context goes unflushed. -/
def Lane.without (l : Lane) (t : Nat) : Lane :=
  let hit := (match l.run with | some i => i.tile == t | none => false)
  { l with queue := l.queue.filter (fun i => i.tile ≠ t), run := if hit then none else l.run,
           ctxs := l.ctxs.filter (fun c => c.tile ≠ t),
           inA := if hit then [] else l.inA, inB := if hit then [] else l.inB,
           query := if l.qtile = t then [] else l.query, qtile := if l.qtile = t then 0 else l.qtile,
           scores := if hit then [] else l.scores, prog := if hit then [] else l.prog,
           out := l.out.filter (fun u => u.tile ≠ t) }

/-- An engine without a tile's items and contexts. Updates in conflict queues and the merge unit stay, and are applied. -/
def Engine.without (g : Engine) (t : Nat) : Engine :=
  { g with disp := g.disp.filter (· ≠ t), items := g.items.filter (fun i => i.tile ≠ t),
           lanes := g.lanes.filterMap (fun e => let l := e.2.without t; if l = {} then none else some (e.1, l)),
           ranged := g.ranged.filter (· ≠ t) }

/-- A macro without a tile's block. -/
def Macro.without (x : Macro) (t : Nat) : Macro :=
  match x.blk with
  | some b => if b.tile = t then { x with blk := none } else x
  | none => x

/-- The exponent that rows on their way have chosen for a span (R166), without a tile: it is dropped with the last of them. -/
def withoutUser (tile : Nat) (e : Nat × SpanExp) : Option (Nat × SpanExp) :=
  if e.2.done || !e.2.users.contains tile then some e
  else
    let us := e.2.users.filter (· ≠ tile)
    if us = [] then none else some (e.1, { e.2 with users := us })

/-- Remove a tile from every unit: nothing more of it runs, forms or commits. What it put into the outlier values of its row goes too, and
the row's record with its last tile (R104, R106, R107); a tile whose writes have begun keeps what it put there. -/
def removeTile (t : Tile) (d : Dev) : Dev :=
  let d1 := { d with
    tiles := d.tiles.filter (fun x => x.id ≠ t.id),
    macros := d.macros.filterMap (fun e => let x := e.2.without t.id; if x = {} then none else some (e.1, x)),
    quants := d.quants.filterMap (fun e =>
      let q : Quant := { e.2 with forming := e.2.forming.filter (fun f => f.tile ≠ t.id) }
      if q = {} then none else some (e.1, q)),
    pairs := d.pairs.filter (fun e => e.2.tile ≠ t.id),
    issues := d.issues.filter (fun i => i.id ≠ t.id || i.committed),
    coal := d.coal.filter (fun p => p.gen / 16 ≠ t.id),
    remote := d.remote.filter (fun x => x.req.tile ≠ some t.id),
    outVecs := if t.stage = .writing then d.outVecs
      else d.outVecs.filterMap (fun o =>
        let ps := o.parts.filter (fun p => p.tile ≠ t.id)
        if ps = [] then none else some { o with parts := ps }),
    spans := if t.stage = .writing then d.spans else d.spans.filterMap (withoutUser t.id),
    mem := { d.mem with waiting := d.mem.waiting.filter (fun w => w.tile ≠ some t.id) } }
  let d2 := t.wedges.foldl (fun d w => d.modWedge w (fun g => { g with tiles := g.tiles.filter (· ≠ t.id) })) d1
  match t.engine with
  | some e => d2.modEngine e (fun g => g.without t.id)
  | none => d2

/-- Record the first failure of a job and stop its claims (R251). -/
def failJob (j : Nat) (status : BitVec 8) (detail : Nat) (issuer index : Nat) (d : Dev) : Dev :=
  d.modJob j (fun x => { x with halted := true, fail := match x.fail with
    | some f => some f
    | none => some { status := status, detail := BitVec.ofNat 8 detail, issuer := issuer, index := index } })

/-- A tile fails: it stops at once, nothing of it commits, and its job takes the status (R94, R103, R155, R251). The failure of a
duplicate whose job is complete concerns nobody. -/
def failTile (t : Tile) (status : BitVec 8) (d : Dev) : Dev :=
  if (d.jobOf t.job).elim false (workDone d) then removeTile t d
  else failJob t.job status 0 t.issuer t.pc (removeTile t d)

end Sys2Proof.Machine
end

