-- ==== Sys2Proof/Machine/Mem.lean ====
section
/-!
DEFINITION. Device memory (ch. 11): the address map of R291, the slices of the hub cache with their replacement, fills,
write-backs, adds and atomics, granule remapping, and reads and writes of an allocation's bytes.
-/
namespace Sys2Proof.Machine

open Sys2Proof

/-- Lines of a stack: 72,000,000,000 bytes in lines of 64 (R289). -/
def stackLines : Nat := 1125000000

/-- First byte of a stack's reserve: after 1,072 frames of 64 MiB (R289). -/
def reserveBase : Nat := 71940702208

/-- The pseudo-channel of a stack-local address (R291). -/
def channelOf (a : Nat) : Nat := ((a >>> 8) ^^^ (a >>> 13) ^^^ (a >>> 18)) % 32

/-- A slice is numbered 4 h + k; it serves stack (slice / 2), the channels whose low bit is its own (R291, R292). -/
def lineOnSlice (slice line : Nat) : Bool :=
  decide (slice < 16) && decide (line < stackLines) && channelOf (line * 64) % 2 == slice % 2

/-- Where byte `o` of a stack allocation lies: slice, line of the slice's stack, byte in the line (R291). -/
def allocPlace (al : Alloc) (o : Nat) : Option (Nat × Nat × Nat) :=
  let o := al.pos + o
  match al.arcs[o / 2 ^ 27]? with
  | none => none
  | some arc =>
    let g := o / 4096 % 2 ^ 15
    let b := parityOf 15 g
    let a := (if b = 0 then arc.frame0 else arc.frame1) * 2 ^ 26 + g / 2 * 4096 + o % 4096
    some (4 * arc.hub + 2 * b + channelOf a % 2, a / 64, a % 64)

/-- The allocation and offset of a stack-local address, for the detail of MEM_UE (R299). -/
def allocAt (d : Dev) (stack a : Nat) : Option (Nat × Nat) :=
  let j := a / 4096 % 2 ^ 14
  let b := stack % 2
  let g := 2 * j + (parityOf 15 j + b) % 2
  d.allocs.findSome? (fun al =>
    if al.kind = .stack then
      ((al.arcs.zipIdx).find? (fun e =>
          e.1.hub = stack / 2 && (if b = 0 then e.1.frame0 else e.1.frame1) = a / 2 ^ 26)).bind (fun e =>
        let o := e.2 * 2 ^ 27 + g * 4096 + a % 4096
        if al.pos ≤ o ∧ o < al.pos + al.size then some (al.handle, o - al.pos) else none)
    else none)

/-! ### Stacks and remapped granules (R298) -/

/-- Where the bytes of a line lie: its granule, a spare, or while a copy runs the side that the line is on. -/
def physLine (m : Mem) (stack line : Nat) : Nat :=
  let g := line / 64
  let spareAt (s : Nat) : Nat := reserveBase + s * 4096 + line % 64 * 64
  let s := tget 0 m.remap (stack * 2 ^ 25 + g)
  let old := if s = 0 then line * 64 else spareAt (s - 1)
  match m.copying.find? (fun c => c.stack = stack && c.granule = g) with
  | some c => if line % 64 < c.done then spareAt c.spare else old
  | none => old

def stackKey (stack a : Nat) : Nat := stack * 2 ^ 37 + a
def readStack (m : Mem) (stack line : Nat) : Bytes := mread m.stack (stackKey stack (physLine m stack line)) 64
def writeStack (m : Mem) (stack line : Nat) (b : Bytes) : Mem :=
  { m with stack := mwrite m.stack (stackKey stack (physLine m stack line)) b }

/-- The bytes of a line in its stack hold an uncorrectable error, or no longer do (R298, R299). -/
def badKey (stack line : Nat) : Nat := stack * 2 ^ 31 + line
def Mem.isBad (m : Mem) (stack line : Nat) : Bool := m.bad.contains (badKey stack line)
def Mem.setBad (m : Mem) (stack line : Nat) (bad : Bool) : Mem :=
  let rest := m.bad.filter (fun k => k != badKey stack line)
  { m with bad := if bad then badKey stack line :: rest else rest }

/-- A dirty line goes back to its stack; a poisoned one leaves the stack's copy bad. -/
def writeBack (m : Mem) (stack : Nat) (l : Line) : Mem := (writeStack m stack l.line l.data).setBad stack l.line l.poison


/-! ### Slices (R292 to R296) -/

/-- The set of a line: the spec gives 65,536 sets and no mapping (Config.setOf). -/
def setIndex (line : Nat) : Nat := Config.setOf line % 65536
def wayKey (slice line way : Nat) : Nat := slice * 2 ^ 20 + setIndex line * 16 + way
/-- The way that holds a line. -/
def wayOf (m : Mem) (slice line : Nat) : Option Nat :=
  (List.range 16).find? (fun w => match tfind m.lines (wayKey slice line w) with
    | some l => l.line == line
    | none => false)
def lineIn (m : Mem) (slice line : Nat) : Option Line :=
  (wayOf m slice line).bind (fun w => tfind m.lines (wayKey slice line w))

def hubOfSlice (slice : Nat) : Nat := slice / 4

/-- The valid ways of the set of a line. -/
def waysOf (m : Mem) (slice line : Nat) : List (Nat × Line) :=
  (List.range 16).filterMap (fun w => (tfind m.lines (wayKey slice line w)).map (fun l => (w, l)))

/-- The victim's way and the set as it stands when the victim is chosen: an invalid way first, else the lowest-numbered
unpinned way with value 3, after every unpinned value has risen until one is 3 (R293). -/
def chooseVictim (m : Mem) (slice line : Nat) : Option Nat × Mem :=
  let ws := waysOf m slice line
  match (List.range 16).find? (fun w => ws.all (fun e => e.1 != w)) with
  | some w => (some w, m)
  | none =>
    let free := ws.filter (fun e => !e.2.pinned)
    let rise := 3 - (free.map (fun e => e.2.rr)).foldl max 0
    let m1 := free.foldl (fun m e =>
      { m with lines := tset m.lines (wayKey slice line e.1) { e.2 with rr := e.2.rr + rise } }) m
    ((free.find? (fun e => e.2.rr + rise = 3)).map (fun e => e.1), m1)

/-- Put a line into its set, writing back a dirty victim (R295), which OD 0x3007 counts. A pinned fill into a set of 4
pinned ways is Normal and counted in OD 0x3006 (R294). -/
def installLine (slice line policy : Nat) (data : Bytes) (dirty poison : Bool) (d : Dev) : Dev :=
  let h := hubOfSlice slice
  let pins := ((waysOf d.mem slice line).filter (fun e => e.2.pinned)).length
  let full := policy = 3 && decide (pins ≥ 4)
  let d0 := if full then d.count 0x3006 (ssHub h) 1 else d
  match chooseVictim d0.mem slice line with
  | (none, _) => d0
  | (some w, m1) =>
    let m2 := match tfind m1.lines (wayKey slice line w) with
      | some v => if v.dirty then writeBack m1 (slice / 2) v else m1
      | none => m1
    let wb := match tfind m1.lines (wayKey slice line w) with
      | some v => v.dirty
      | none => false
    let l : Line := { line := line, rr := if policy = 1 then 3 else 2, dirty := dirty, pinned := policy = 3 && !full,
                      poison := poison, data := data }
    let d1 := { d0 with mem := { m2 with lines := tset m2.lines (wayKey slice line w) l } }
    if wb then d1.count 0x3007 (ssHub h) 1 else d1

/-- Replace bytes `off` onwards of a line's data. -/
def splice (data : Bytes) (off : Nat) (b : Bytes) : Bytes := data.take off ++ b ++ data.drop (off + b.length)

/-- The bytes `off` onwards of a line. -/
def slicePart (data : Bytes) (off len : Nat) : Bytes := (data.drop off).take len

/-- What an access makes of the bytes it touches (R296): the new bytes; a read changes nothing. FP32 adds round once each;
INT32 adds wrap. -/
def applyOp (op : MemOp) (old : Bytes) : Bytes :=
  match op with
  | .read => old
  | .write b => b
  | .addF32 ws =>
    ((ws.zipIdx).map (fun e =>
      toLe 4 (f32add (BitVec.ofNat 32 (leNat ((old.drop (4 * e.2)).take 4))) e.1).toNat)).flatten
  | .addI32 ws =>
    ((ws.zipIdx).map (fun e =>
      toLe 4 (BitVec.ofNat 32 (leNat ((old.drop (4 * e.2)).take 4)) + e.1).toNat)).flatten
  | .testSet bit => toLe old.length (leNat old ||| 2 ^ bit)
  | .fetchAdd size v => toLe size ((leNat old + v.toNat) % 2 ^ (8 * size))
  | .swap size v => toLe size v.toNat

/-- How many bytes an access touches. -/
def opLen (op : MemOp) (len : Nat) : Nat :=
  match op with
  | .read => len
  | .write b => b.length
  | .addF32 ws => 4 * ws.length
  | .addI32 ws => 4 * ws.length
  | .testSet _ => 1
  | .fetchAdd size _ => size
  | .swap size _ => size

def isRead : MemOp → Bool
  | .read => true
  | _ => false

def fullLine (op : MemOp) (off : Nat) : Bool :=
  match op with
  | .write b => off == 0 && b.length == 64
  | _ => false

/-- An access to a line that the slice holds: the bytes it found, whether it met poison, and the line after, with re-reference value
`rr`. A full-line write clears poison; any other write or atomic on a poisoned line is dropped (R299). -/
def accessLine (rr : Nat) (l : Line) (off len : Nat) (op : MemOp) : Bytes × Bool × Line :=
  let n := opLen op len
  let old := slicePart l.data off n
  if fullLine op off then (old, false, { l with rr := rr, dirty := true, poison := false, data := applyOp op old })
  else if l.poison then (old, true, { l with rr := rr })
  else if isRead op then (old, false, { l with rr := rr })
  else (old, false, { l with rr := rr, dirty := true, data := splice l.data off (applyOp op old) })

/-- A hit sets the value to 0; the access for which a line is filled leaves the value of the fill (R293, Table 11.1). -/
def hitLine (l : Line) (off len : Nat) (op : MemOp) : Bytes × Bool × Line := accessLine 0 l off len op
def filledLine (l : Line) (off len : Nat) (op : MemOp) : Bytes × Bool × Line := accessLine l.rr l off len op

/-- A slice that is absent, Off, in Retain or out of service drops what reaches it (R283, R297). -/
def sliceGone (v : Variant) (d : Dev) (slice : Nat) : Bool :=
  !hubPresent v (slice / 4) || targetHeld d (.slice (slice / 4) (slice % 4)) ||
    domState d (domSlice slice) == .off || domState d (domSlice slice) == .retain

/-- Access a line that the slice holds: a hit, or (`fresh`) the access that filled it. -/
def accessHit (fresh : Bool) (slice line off len : Nat) (op : MemOp) (d : Dev) : Bytes × Bool × Dev :=
  match wayOf d.mem slice line with
  | none => ([], true, d)
  | some w =>
    match tfind d.mem.lines (wayKey slice line w) with
    | none => ([], true, d)
    | some l =>
      let r := if fresh then filledLine l off len op else hitLine l off len op
      (r.1, r.2.1, { d with mem := { d.mem with lines := tset d.mem.lines (wayKey slice line w) r.2.2 } })

/-- What a slice answers with: the bytes of a read or an atomic, an acknowledge without bytes for a write or an add (R279). -/
def answerBytes (op : MemOp) (b : Bytes) : Bytes :=
  match op with
  | .write _ => []
  | .addF32 _ => []
  | .addI32 _ => []
  | _ => b

/-- The cache policy of a line: its allocation's (R293); Normal where none lies. -/
def linePolicy (d : Dev) (slice line : Nat) : Nat :=
  ((allocAt d (slice / 2) (line * 64)).bind (fun a => d.allocs.find? (fun x => x.handle = a.1))).elim 0 (fun al => al.policy)

/-- Accesses that wait for the fill of a line. -/
def waitersOf (d : Dev) (slice line : Nat) : List Waiting := d.mem.waiting.filter (fun w => w.slice = slice && w.line = line)

/-- A line comes from its stack into the slice, poisoned where its bytes there are bad: a miss in OD 0x3002. -/
def fillFrom (slice line policy : Nat) (d : Dev) : Dev :=
  installLine slice line policy (readStack d.mem (slice / 2) line) false (d.mem.isBad (slice / 2) line)
    (d.count 0x3002 (ssHub (hubOfSlice slice)) 1)

/-- The response leaves; a tile that meets poison fails (R299, R283). -/
def respond (slice line : Nat) (op : MemOp) (tile : Option Nat) (status : BitVec 8) (b : Bytes) (poison : Bool) (d : Dev) : Dev :=
  let d1 := d.emit (.response slice line (if poison then [] else answerBytes op b) poison)
  if poison then (match tile.bind d1.tileOf with
    | some t => failTile t status d1
    | none => d1) else d1

/-- One access that waited for the fill of its line; the first is the one that missed. The accesses of a tile that has failed meanwhile
are gone with it. -/
def serveWaiting (d : Dev) (w : Waiting × Nat) : Dev :=
  if w.1.tile.elim false (fun t => (d.tileOf t).isNone) then d
  else
    let a := accessHit (w.2 = 0) w.1.slice w.1.line w.1.off w.1.len w.1.op d
    respond w.1.slice w.1.line w.1.op w.1.tile stMemUe a.1 a.2.1 a.2.2

/-- An access that finds others waiting for its line comes after them (R296): the line is filled and they are applied in order of
arrival. -/
def serveFirst (slice line policy : Nat) (d : Dev) : Dev :=
  match waitersOf d slice line with
  | [] => d
  | ws =>
    let d1 := if (wayOf d.mem slice line).isSome then d else fillFrom slice line policy d
    let d2 := { d1 with mem := { d1.mem with waiting := d1.mem.waiting.filter (fun w => !(w.slice = slice && w.line = line)) } }
    (ws.zipIdx).foldl serveWaiting d2

/-- One access of a slice from start to end, with nothing waiting for its line: a hit, a full-line write that allocates, a bypassed read
miss, or a fill and then the access (R293, R295). Answers the bytes found, poison, and the device. -/
def accessAlone (slice line off len : Nat) (op : MemOp) (policy : Nat) (d : Dev) : Bytes × Bool × Dev :=
  let ss := ssHub (hubOfSlice slice)
  if (wayOf d.mem slice line).isSome then accessHit false slice line off len op (d.count 0x3001 ss 1)
  else if fullLine op off then
    let old := slicePart (readStack d.mem (slice / 2) line) off 64
    (old, false, installLine slice line policy (applyOp op old) true false (d.count 0x3001 ss 1))
  else if policy = 2 ∧ isRead op = true then
    (slicePart (readStack d.mem (slice / 2) line) off len, d.mem.isBad (slice / 2) line, d.count 0x3002 ss 1)
  else accessHit true slice line off len op (fillFrom slice line policy d)

/-- One access of a slice; one that is gone drops it (R283). -/
def accessNow (v : Variant) (slice line off len : Nat) (op : MemOp) (policy : Nat) (d : Dev) : Bytes × Bool × Dev :=
  if sliceGone v d slice then ([], true, { d.count 0x20B8 (ssHub (hubOfSlice slice)) 1 with gone := some stUnitOffline })
  else accessAlone slice line off len op policy (serveFirst slice line policy d)

/-- Cut `n` bytes from offset `o` at the 64-byte lines: (offset, length) pieces. -/
def linePieces (o : Nat) : Nat → List (Nat × Nat)
  | 0 => []
  | n + 1 =>
    let first := 64 - o % 64
    (o, min first (n + 1)) ::
      ((List.range ((n + 1 - min first (n + 1) + 63) / 64)).map (fun i =>
        (o + first + 64 * i, min 64 (n + 1 - first - 64 * i))))

/-- Read `n` bytes of an allocation from offset `o`: the bytes, whether any line was poisoned, and the device. -/
def devRead (v : Variant) (al : Alloc) (o n : Nat) (d : Dev) : Bytes × Bool × Dev :=
  (linePieces o n).foldl (fun (r : Bytes × Bool × Dev) p =>
    match allocPlace al p.1 with
    | none => (r.1 ++ List.replicate p.2 0, true, r.2.2)
    | some (s, l, off) =>
      let a := accessNow v s l off p.2 .read al.policy r.2.2
      (r.1 ++ padTo p.2 a.1, r.2.1 || a.2.1, a.2.2)) ([], false, d)

/-- Write bytes of an allocation from offset `o`; answers whether a write met poison, and the device. -/
def devWrite (v : Variant) (al : Alloc) (o : Nat) (b : Bytes) (d : Dev) : Bool × Dev :=
  (linePieces o b.length).foldl (fun (r : Bool × Dev) p =>
    match allocPlace al p.1 with
    | none => (true, r.2)
    | some (s, l, off) =>
      let a := accessNow v s l off p.2 (.write ((b.drop (p.1 - o)).take p.2)) al.policy r.2
      (r.1 || a.2.1, a.2.2)) (false, d)

/-- Write bytes of an allocation where nobody waits for the outcome: what a slice that is gone or a poisoned line drops is lost. -/
def devPut (v : Variant) (al : Alloc) (o : Nat) (b : Bytes) (d : Dev) : Dev :=
  { (devWrite v al o b d).2 with gone := d.gone }

/-- One access at a byte offset of an allocation that lies inside one line. -/
def devAccess (v : Variant) (al : Alloc) (o len : Nat) (op : MemOp) (d : Dev) : Bytes × Bool × Dev :=
  match allocPlace al o with
  | none => ([], true, d)
  | some (s, l, off) => accessNow v s l off len op al.policy d

/-- The bytes of an allocation as its slices hold them, without an access (what the loader reads). -/
def peekByte (d : Dev) (al : Alloc) (o : Nat) : Byte :=
  match allocPlace al o with
  | none => 0
  | some (s, l, off) =>
    match lineIn d.mem s l with
    | some x => nth 0 x.data off
    | none => nth 0 (readStack d.mem (s / 2) l) off

def peek (d : Dev) (al : Alloc) (o n : Nat) : Bytes := (List.range n).map (fun i => peekByte d al (o + i))

/-- Every line of an allocation as it lies in the slices becomes unpinned with value 3 (R294). -/
def unpinAlloc (al : Alloc) (d : Dev) : Dev :=
  let mine (slice line : Nat) : Bool := (allocAt d (slice / 2) (line * 64)).elim false (fun r => r.1 == al.handle)
  { d with mem := { d.mem with lines := d.mem.lines.map (fun e =>
      if e.2.pinned && mine (e.1 / 2 ^ 20) e.2.line then (e.1, { e.2 with pinned := false, rr := 3 }) else e) } }

/-- Write back every dirty line of a slice (R297), counted in OD 0x3007. -/
def writeBackSlice (slice : Nat) (d : Dev) : Dev :=
  (d.mem.lines.filter (fun e => e.1 / 2 ^ 20 = slice && e.2.dirty)).foldl (fun d e =>
    { d with mem := { writeBack d.mem (slice / 2) e.2 with
        lines := tset d.mem.lines e.1 { e.2 with dirty := false } } }.count 0x3007 (ssHub (slice / 4)) 1) d

/-- Invalidate and unpin every line of a slice. -/
def emptySlice (slice : Nat) (d : Dev) : Dev :=
  { d with mem := { d.mem with lines := tdrop (fun k => k / 2 ^ 20 = slice) d.mem.lines,
                               waiting := d.mem.waiting.filter (fun w => w.slice != slice) } }

/-- A reset of a slice: write-back, then every line invalid (R297). -/
def resetSlice (slice : Nat) (d : Dev) : Dev := emptySlice slice (writeBackSlice slice d)

end Sys2Proof.Machine
end

