-- ==== Sys2Proof/Machine/Operands.lean ====
section
/-!
DEFINITION. Operand forms: descriptor images and their checks (ch. 7), tile instructions, bounds, parameter blocks and shapes
(ch. 8), tile grids, counter records and share lists (ch. 9).
-/
namespace Sys2Proof.Machine

open Sys2Proof

/-! ### Descriptor images (R181, R182) -/

/-- Dimension record d of an image taken as one number. -/
def dimRec (n d : Nat) : Nat := bitsOf n (256 + 128 * d + 127) (256 + 128 * d)

/-- Order 1 of Table 7.6: reserved fields, unused records and unused perm entries are zero. -/
def imageReservedOk (n : Nat) : Bool :=
  let nd := bitsOf n 134 132
  bitsOf n 63 32 = 0 && !bitOf n 135 && bitsOf n 255 189 = 0 &&
    (List.range 8).all (fun d =>
      if d ≤ nd then bitsOf (dimRec n d) 127 96 = 0 else dimRec n d = 0 && bitsOf n (144 + 3 * d + 2) (144 + 3 * d) = 0)

/-- The descriptor that an image describes (Tables 7.1 and 7.2). -/
def Desc.ofImage (handle port n : Nat) : Desc :=
  let nd := bitsOf n 134 132
  { handle := handle, port := port, alloc := bitsOf n 31 0, base := bitsOf n 127 64, fmt := bitsOf n 131 128, nd := nd,
    form := bitsOf n 137 136, use := bitsOf n 139 138, kdim := bitsOf n 142 140, ken := bitOf n 143,
    perm := (List.range (nd + 1)).map (fun j => bitsOf n (144 + 3 * j + 2) (144 + 3 * j)),
    idim := bitsOf n 170 168, ien := bitOf n 171, idx := bitsOf n 187 172, ocp := bitOf n 188,
    dims := (List.range (nd + 1)).map (fun d => (sext 64 (bitsOf (dimRec n d) 63 0), bitsOf (dimRec n d) 95 64)) }

def Desc.stride (x : Desc) (d : Nat) : Int := (x.dims.getD d (0, 0)).1
def Desc.extent (x : Desc) (d : Nat) : Nat := (x.dims.getD d (0, 0)).2

/-- Bits of an element of each format (Table 7.3). -/
def fmtBits (f : Nat) : Nat := nth 0 [8, 16, 32, 32, 64, 16, 16, 32, 8, 8, 8, 4, 2, 1] f

/-- R188: entries 0 to nd of perm hold each of 0 to nd once, and a structured dimension is delivered innermost. -/
def permOk (x : Desc) : Bool :=
  (List.range (x.nd + 1)).all (fun d => x.perm.contains d) &&
    (if x.form != 0 || x.ken then nth 0 x.perm 0 = x.kdim else true)

/-- Table 7.4. -/
def formOk (x : Desc) : Bool :=
  let strides := x.dims.map Prod.fst
  match x.form with
  | 0 =>
    (x.use ≠ 2 || x.fmt = 2 || x.fmt = 7) &&
      (!x.ken || (x.fmt = 0 && x.stride x.kdim = 1) || x.fmt = 0xA)
  | 1 => x.fmt ∈ [0, 5, 6, 7, 8, 9] && x.use ≤ 1 && x.ken && strides.all (· = 0)
  | 2 => (x.fmt = 0 || x.fmt = 6) && x.use = 0 && x.ken && strides.all (· = 0)
  | _ =>
    (x.fmt = 0 || x.fmt = 5) && x.use ≤ 1 && x.ken && x.stride x.kdim = 1 && x.extent x.kdim % 32 = 0 &&
      (List.range (x.nd + 1)).all (fun d => d = x.kdim || x.stride d % 32 = 0)

/-- R184: sub-byte formats, and the alignment of the base. -/
def subByteOk (x : Desc) : Bool :=
  if fmtBits x.fmt < 8 then
    x.stride 0 = 1 && (List.range (x.nd + 1)).all (fun d => d = 0 || x.stride d % 32 = 0) && x.base % 4 = 0 &&
      (x.fmt = 0xD || x.use = 0)
  else x.base % (fmtBits x.fmt / 8) = 0

/-- R198: what an index descriptor must be. -/
def indexOk (ds : List Desc) (h : Nat) : Bool :=
  match ds.find? (fun y => y.handle = h) with
  | some y => y.form = 0 && y.nd = 0 && y.use = 0 && (y.fmt = 3 || y.fmt = 4) && !y.ien
  | none => false

/-- Order 4 of Table 7.6. -/
def descOk (ds : List Desc) (x : Desc) : Bool :=
  x.fmt < 0xE && x.use < 3 && x.nd ≤ 4 && x.dims.all (fun e => e.2 ≥ 1) && (!x.ken || x.kdim ≤ x.nd) && permOk x &&
    formOk x && subByteOk x &&
    (!x.ien || (x.idim ≤ x.nd && !(x.ken && x.idim = x.kdim) && indexOk ds x.idx))

/-- Lowest and highest element offset that coordinates inside the extents reach (R192). -/
def reachLow (x : Desc) : Int := (x.dims.map (fun e => min 0 (e.1 * ((e.2 : Int) - 1)))).sum
def reachHigh (x : Desc) : Int := (x.dims.map (fun e => max 0 (e.1 * ((e.2 : Int) - 1)))).sum

/-- Coded rows: the product of the extents of every dimension but kdim. -/
def codedRows (x : Desc) : Nat :=
  ((List.range (x.nd + 1)).map (fun d => if d = x.kdim then 1 else x.extent d)).foldl (· * ·) 1

/-- Bytes of a segment directory (R119) and of one slot of a written bitmap tensor (R130). -/
def directoryBytes (x : Desc) : Nat := if codedRows x > 1 then 8 * codedRows x else 0
def slotBytes (x : Desc) : Nat := roundUp (16 + fmtBits x.fmt / 8 * x.extent x.kdim) 16

/-- Bytes of a 2:4 block (R124). -/
def block24 (fmt : Nat) : Nat := if fmt = 5 then 36 else 20

/-- Order 5 of Table 7.6 (R192, R193). -/
def footprintOk (size : Nat) (x : Desc) : Bool :=
  match x.form with
  | 0 =>
    let b : Int := fmtBits x.fmt
    0 ≤ (x.base : Int) * 8 + reachLow x * b && ((x.base : Int) * 8 + reachHigh x * b + b - 1) / 8 < size
  | 3 =>
    let b : Int := block24 x.fmt
    0 ≤ (x.base : Int) + reachLow x / 32 * b && (x.base : Int) + reachHigh x / 32 * b + b - 1 < size
  | _ =>
    let need := if x.use = 0 then (if codedRows x > 1 then directoryBytes x else 16)
      else roundUp (directoryBytes x) 16 + codedRows x * slotBytes x
    x.base + need ≤ size

/-- Insertion by the absolute value of the stride. -/
def insertStride (e : Int × Nat) : List (Int × Nat) → List (Int × Nat)
  | [] => [e]
  | a :: l => if e.1.natAbs ≤ a.1.natAbs then e :: a :: l else a :: insertStride e l

/-- The test of R195 over dimensions in ascending order of stride. -/
def aliasFree (reach : Nat) : List (Int × Nat) → Bool
  | [] => true
  | e :: l => decide (reach < e.1.natAbs) && aliasFree (reach + e.1.natAbs * (e.2 - 1)) l

/-- Order 6 of Table 7.6 (R194, R195). -/
def aliasOk (x : Desc) : Bool :=
  x.use ≠ 1 || !(x.form = 0 || x.form = 3) ||
    aliasFree 0 ((x.dims.filter (fun e => e.2 > 1)).foldr insertStride [])

/-! ### Tile instructions (Table 8.1) -/

def TInst.ofNat (n : Nat) : TInst :=
  { func := bitsOf n 7 0, gen := bitsOf n 9 8, mode := bitsOf n 12 10, shape := bitsOf n 16 13, phase := bitsOf n 24 17,
    strict := bitOf n 25, trk := bitsOf n 27 26, cmp := bitsOf n 29 28,
    op := (List.range 6).map (fun j => bitsOf n (16 * j + 47) (16 * j + 32)),
    bnd := (List.range 3).map (fun j => BitVec.ofNat 32 (bitsOf n (32 * j + 159) (32 * j + 128))),
    pblk := bitsOf n 237 224, rowfn := bitsOf n 241 238, fuse := bitsOf n 243 242 }

/-- The reserved fields of a tile instruction. -/
def tinstReservedOk (n : Nat) : Bool := bitsOf n 31 30 = 0 && bitsOf n 255 244 = 0

/-- Instruction `i` of a program that starts at `pstart` in an issuer's memory. -/
def instAt (d : Dev) (issuer pstart i : Nat) : TInst := .ofNat (d.sreadNat issuer (pstart + 32 * i) 32)

/-- Functions of Table 8.2. -/
def fMPROJ : Nat := 0x01
def fMTHR : Nat := 0x02
def fMPRED : Nat := 0x03
def fMFUSE : Nat := 0x04
def fLDOT : Nat := 0x10
def fLSEL : Nat := 0x11
def fLATT : Nat := 0x12
def fLAPP : Nat := 0x13
def fLMRG : Nat := 0x14
def fLROW : Nat := 0x15
def fLMOVE : Nat := 0x16

def isMacroFn (f : Nat) : Bool := 1 ≤ f && f ≤ 4
def isLaneFn (f : Nat) : Bool := 0x10 ≤ f && f ≤ 0x16
def isGridFn (f : Nat) : Bool := f = fLDOT || f = fLSEL || f = fLATT
def isRowShape (f : Nat) : Bool := f = fLAPP || f = fLMRG || f = fLROW || f = fLMOVE

/-- A descriptor handle: a handle with index 0 means none, whatever its port (R208). -/
def handleOf (h : Nat) : Nat := if h % 16384 = 0 then 0 else h

/-- An operand field as the instruction holds it. -/
def TInst.field (t : TInst) (j : Nat) : Nat := nth 0 t.op j

/-- An operand of an instruction: a matrix ID, a descriptor handle, or 0 for none. -/
def TInst.opnd (t : TInst) (j : Nat) : Nat := if isMacroFn t.func && (j = 2 || j = 3) then t.field j else handleOf (t.field j)

/-- Vectors per issue of a macro shape (Table 8.4). -/
def macroR (shape : Nat) : Nat := nth 1 [1, 4, 16, 64] shape

/-- m, n and d of a lane shape (Table 8.3). -/
def laneShape (shape : Nat) : Nat × Nat × Nat :=
  match shape with
  | 4 => (1, 4096, 128)
  | 5 => (8, 1024, 128)
  | 6 => (16, 512, 128)
  | 7 => (32, 256, 128)
  | 8 => (64, 128, 128)
  | 9 => (128, 64, 128)
  | 10 => (16, 512, 256)
  | 11 => (64, 128, 256)
  | _ => (1, 1, 1)

/-! ### Bounds (Table 8.6) -/

def boundSrc (b : BitVec 32) : Nat := bitsOf b.toNat 31 30
def boundVal (b : BitVec 32) : Nat := bitsOf b.toNat 29 0

/-- The zero fields of a bound. -/
def boundReservedOk (b : BitVec 32) : Bool :=
  match boundSrc b with
  | 0 => true
  | 1 => bitsOf b.toNat 29 4 = 0
  | 2 => bitsOf b.toNat 29 18 = 0 && bitsOf b.toNat 17 0 % 4 = 0
  | _ => bitsOf b.toNat 29 16 = 0

/-! ### Parameter blocks (Table 8.7) -/

def Param.ofNat (n : Nat) : Param :=
  let org (lo : Nat) : List Int := (List.range 3).map (fun j => sext 32 (bitsOf n (lo + 32 * j + 31) (lo + 32 * j)))
  { f0 := BitVec.ofNat 32 (bitsOf n 31 0), n0 := bitsOf n 63 32, qpos := sext 32 (bitsOf n 95 64), hM := handleOf (bitsOf n 111 96),
    hS := handleOf (bitsOf n 127 112), hV := handleOf (bitsOf n 143 128), mat2 := bitsOf n 159 144, omat := bitsOf n 175 160,
    trk0 := bitsOf n 191 176, trk1 := bitsOf n 207 192, texp := bitsOf n 215 208, qgrp := bitsOf n 223 216,
    tadr := bitsOf n 239 224, radr := bitsOf n 255 240, sadr := bitsOf n 271 256, wbase := bitsOf n 287 272,
    wlen := bitsOf n 303 288, causal := bitOf n 304, clr := bitOf n 305, cadd := bitOf n 306, wfill := bitsOf n 308 307,
    tform := bitOf n 309, oinD := handleOf (bitsOf n 335 320), oinE := handleOf (bitsOf n 351 336),
    ooutD := handleOf (bitsOf n 367 352), ooutE := handleOf (bitsOf n 383 368), orgA := org 512, orgB := org 608, orgC := org 704 }

def paramReservedOk (n : Nat) : Bool :=
  bitsOf n 319 310 = 0 && bitsOf n 511 384 = 0 && bitsOf n 1023 800 = 0

/-- The block that an instruction names, as the issuer's memory holds it; 0 means a block of zeros (Table 8.1). -/
def paramNat (d : Dev) (issuer : Nat) (t : TInst) : Nat :=
  if t.pblk = 0 then 0 else d.sreadNat issuer (16 * t.pblk) 128

/-! ### Matrices and grids -/

/-- Logical units per macro (R234). -/
def unitsOf : Packing → Nat
  | .int8 => 1024
  | .int4 => 2048
  | .ternary => 7168

def Matrix.rowBlocks (m : Matrix) : Nat := cdiv m.rows 32
def Matrix.colBlocks (m : Matrix) : Nat := cdiv m.cols (unitsOf m.packing)
/-- The macro that holds row-block rb of column block cb (R363). -/
def Matrix.placed (m : Matrix) (rb cb : Nat) : Nat := nth 0 m.place (cb * m.rowBlocks + rb)

/-- Matrices that an instruction names, by ID. -/
def instMats (t : TInst) (p : Param) : List Nat :=
  if !isMacroFn t.func then []
  else if t.func = fMFUSE then [t.opnd 2] ++ (if t.fuse = 2 then [t.opnd 3] else []) ++ [p.mat2]
  else [t.opnd 2]

/-- The grid of an instruction (Table 9.6): G0 and G1. `u` is the number of units of a column block of its matrix. -/
def gridOf (t : TInst) (u b0 b1 : Nat) : Nat × Nat :=
  if isGridFn t.func then (cdiv b0 (laneShape t.shape).1, cdiv b1 (laneShape t.shape).2.1)
  else if t.func = fMFUSE then (cdiv b0 (macroR t.shape), 1)
  else if isMacroFn t.func then (cdiv b0 (macroR t.shape), cdiv b1 u)
  else (if b1 = 0 then 0 else b0, 1)

/-- Units of a column block of the instruction's matrix. -/
def instUnits (d : Dev) (t : TInst) : Nat :=
  match d.matOf (t.opnd 2) with
  | some m => unitsOf m.packing
  | none => 1024

/-- The curve of a grid (R246): lside, whether the long axis is j, raw, real. -/
def curveOf (g0 g1 : Nat) : Nat × Bool × Nat × Nat :=
  let k := pow2Above (min g0 g1)
  (k, decide (g0 ≤ g1), cdiv (max g0 g1) (2 ^ k) * 4 ^ k, g0 * g1)

/-- Curve position q as grid position (i, j), or a hole (R246). -/
def gridAt (g0 g1 lside : Nat) (jlong : Bool) (q : Nat) : Option (Nat × Nat) :=
  let (x, y) := curveAt lside q
  let (i, j) := if jlong then (y, x) else (x, y)
  if i < g0 ∧ j < g1 then some (i, j) else none

/-- Whether bounds obey R223 for an instruction (the matrices' sizes and the shape), grid size included. -/
def boundsOk (d : Dev) (t : TInst) (p : Param) (b0 b1 b2 : Nat) : Bool :=
  let m1 := d.matOf (t.opnd 2)
  let m2 := d.matOf p.mat2
  let g := gridOf t (instUnits d t) b0 b1
  g.1 * g.2 ≤ 2 ^ 32 - 1 &&
    (if t.func = fMFUSE then
      1 ≤ b2 && b2 ≤ m1.elim 0 (fun m => m.rows) && 1 ≤ b1 && b1 ≤ m2.elim 0 (fun m => m.cols)
     else if isMacroFn t.func then
      b1 ≤ m1.elim 0 (fun m => m.cols) && 1 ≤ b2 && b2 ≤ m1.elim 0 (fun m => m.rows)
     else if t.func = fLATT then b2 = (laneShape t.shape).2.2
     else if t.func = fLDOT || t.func = fLSEL then 1 ≤ b2 && b2 ≤ 16384
     else if t.func = fLROW && t.rowfn = 8 then b1 ≤ 16384
     else true)

/-! ### Counter records (Table 9.4) -/

/-- Write field hi:lo of the record. -/
def ctrSet (d : Dev) (home addr hi lo v : Nat) : Dev :=
  let n := d.sreadNat home addr 64
  d.swriteNat home addr 64 (n - bitsOf n hi lo * 2 ^ lo + v % 2 ^ (hi + 1 - lo) * 2 ^ lo)

/-- A memory that is being cleared after a wake finishes that before it serves an access (R305). -/
def settleClear (code : Nat) (d : Dev) : Dev :=
  let k := d.sbank code
  if k.clearing then ({ d with spad := mclear d.spad (spadAddr code 0) 262144 }).setSbank code { k with clearing := false } else d

/-- An atomic on field hi:lo of a record (R245, R303), at the bank that holds it. -/
def ctrAtomic (d : Dev) (c : CtrEntry) (hi lo v : Nat) : Dev :=
  (ctrSet d c.home c.addr hi lo v).count 0x3042 (issuerSs c.home) 1

/-- Positions per claim of a grain code (Table 9.2). -/
def grainOf (g : Nat) : Nat := 4 ^ g

/-! ### Share list and counter table entries (Tables 9.2 and 9.3) -/

def Share.ofNat (n : Nat) : Share := { ctr := bitsOf n 9 0, grain := bitsOf n 11 10, wait := bitsOf n 25 16 }
def shareReservedOk (n : Nat) : Bool := bitsOf n 15 12 = 0 && bitsOf n 31 26 = 0

def CtrEntry.ofNat (id n : Nat) : CtrEntry :=
  { id := id, home := bitsOf n 15 0, addr := bitsOf n 63 32, bmoff := bitsOf n 127 64, bmcap := bitsOf n 191 128 }
def ctrEntryReservedOk (n : Nat) : Bool := bitsOf n 31 16 = 0 && bitsOf n 255 192 = 0

end Sys2Proof.Machine
end

