-- ==== Sys2Proof/Machine/AddressGen.lean ====
section
/-!
DEFINITION. Address generators (ch. 5 and 7): tile coordinates to element positions (R187), index substitution, the dense,
2:4, bitmap and forerunner forms, and the writes that a tile's results become.
-/
namespace Sys2Proof.Machine

open Sys2Proof

/-! ### The operands of a tile -/

/-- Operands by number: 0 to 5 are op0 to op5; 6 hM, 7 hS, 8 hV, 9 oinD, 10 oinE, 11 ooutD, 12 ooutE. -/
def Tile.handle (t : Tile) (o : Nat) : Nat :=
  match o with
  | 6 => t.prm.hM
  | 7 => t.prm.hS
  | 8 => t.prm.hV
  | 9 => t.prm.oinD
  | 10 => t.prm.oinE
  | 11 => t.prm.ooutD
  | 12 => t.prm.ooutE
  | j => t.inst.opnd j

/-- Origins of tile dimensions 2 to 4 of an operand (R219, R499). The span table and the mask take those of K and V; the
activity vector those of the activations (DESIGN CHOICE, notes/assumptions/20.md). -/
def Tile.origins (t : Tile) (o : Nat) : List Int :=
  if o = 0 ∨ o = 1 ∨ o = 8 ∨ o = 9 ∨ o = 10 then t.prm.orgA
  else if o = 2 ∨ o = 3 ∨ o = 6 ∨ o = 7 then t.prm.orgB
  else t.prm.orgC

/-- The descriptors that a tile sees: those of its job as accepted (R211). -/
def tileDescs (d : Dev) (t : Tile) : List Desc := (d.jobOf t.job).elim [] (fun j => j.descs)

def descIn (ds : List Desc) (h : Nat) : Option Desc := ds.find? (fun x => x.handle = h)

/-- The subindex ss under which an operand is counted (R212): the engine of a lane tile; the issuer's hub for a macro tile's
reads. -/
def Tile.ssRead (t : Tile) : Nat :=
  match t.engine with
  | some e => ssEngine e
  | none => ssHub (issuerHub t.issuer)

/-- Positions of a tile that lie beyond its bounds and read as padding (R217, R218; Table 8.6a gives what c[0] and c[1] are). -/
def Tile.beyond (t : Tile) (o : Nat) (c : List Int) : Bool :=
  let c0 := c.getD 0 0
  let c1 := c.getD 1 0
  if isMacroFn t.inst.func then (o ≤ 1) && (c0 ≥ t.b2 || c1 ≥ t.b0)
  else if t.inst.func = fLDOT ∨ t.inst.func = fLSEL then
    if o ≤ 1 then c0 ≥ t.b2 || c1 ≥ t.b0 else if o ≤ 3 then c0 ≥ t.b2 || c1 ≥ t.b1 else false
  else if t.inst.func = fLATT then
    if o ≤ 1 then c1 ≥ t.b0 else if o = 2 then c1 ≥ t.b1 else if o = 3 then c0 ≥ t.b1 else false
  else (o ≤ 3) && (c0 ≥ t.b1 || c1 ≥ t.b0)

/-! ### Places (R187) -/

/-- Where a tile coordinate leads: padding, an index out of range, or declared coordinates. `raw` is the index value read. -/
inductive Place where
  | pad
  | indexOut (raw : Nat)
  | at_ (x : List Nat) (raw : Nat)
deriving DecidableEq, Repr

/-- Declared coordinates of a tile coordinate: x[perm[j]] = c[j]. -/
def declared (x : Desc) (c : List Int) : List Int :=
  (List.range (x.nd + 1)).map (fun i => c.getD (x.perm.idxOf i) 0)

/-- Who reads: the issuer whose wedge holds the halo inboxes, the tile, where one reads, and the endpoint to which responses go. -/
structure Reader where
  issuer : Nat
  tile : Option Nat
  src : Nat
deriving DecidableEq, Repr

/-- The endpoint codes of Table 10.2: of unit `k` of class `c` of a hub die, and of a wedge's scratchpad bank. -/
def hubEndpoint (h c k : Nat) : Nat := h * 2 ^ 14 + 15 * 2 ^ 10 + c * 2 ^ 6 + k
def wedgeEndpoint (w : Nat) : Nat := w / 144 * 2 ^ 14 + w / 16 % 9 * 2 ^ 10 + w % 16 * 2 ^ 6

/-- The endpoint that reads for an issuer itself: its scratchpad bank, or the control core. -/
def issuerEndpoint (code : Nat) : Nat := if code < 576 then wedgeEndpoint code else hubEndpoint (issuerHub code) 2 (code % 4)

/-- The reader of a tile: the address generators of its stream engine, or those of its issuer's hub (R120, R269). -/
def Tile.reader (t : Tile) : Reader :=
  { issuer := t.issuer, tile := some t.id,
    src := match t.engine with
      | some e => hubEndpoint (e / 8) 0 (e % 8)
      | none => hubEndpoint (issuerHub t.issuer) 6 0 }

/-! ### Room for responses (R275) -/

/-- The bytes that a unit's receiving buffer holds: at least one whole response, else it could read nothing; the rest of its size is not
stated (notes/assumptions/139.md). -/
def roomFits (unit n : Nat) : Bool := decide (n ≤ 256) || decide (n ≤ 256 * (1 + Config.moreRoom unit))

/-- A unit reserves room for a dense response of `n` bytes, where it has it. -/
def reserveRoom (unit n : Nat) (d : Dev) : Option Dev :=
  if roomFits unit ((tget [] d.rooms unit).sum + n) then some { d with rooms := tmod [] d.rooms unit (fun rs => rs ++ [n]) } else none

/-- The reservations of a unit without that of a response of `n` bytes: the oldest of its size, or of a poisoned one the oldest. -/
def freeRoom (poison : Bool) (n : Nat) (rs : List Nat) : List Nat := if poison then rs.drop 1 else rs.erase n

/-- `n` bytes from `o` in parts of at most 256 bytes, none across a multiple of 256: what one frame carries (R314). -/
def parts256 (o n : Nat) : List (Nat × Nat) :=
  if n = 0 then []
  else (List.range ((o + n - 1) / 256 - o / 256 + 1)).map (fun i =>
    let a := max o ((o / 256 + i) * 256)
    (a, min (o + n) ((o / 256 + i + 1) * 256) - a))

/-- One read of a remote window (at most 256 bytes): the bytes of its response; none where the response has yet to come. The request is sent
on the first try for which the reader has room for its response (R275, R323, R326). -/
def readRemote (al : Alloc) (rd : Reader) (o n : Nat) (d : Dev) : Bytes × Bool × Dev :=
  let req : RemoteReq := { op := 0x08, kind := 0, cls := 1, exp := al.peerExp, offset := o, len := n, payload := [],
                           src := rd.src, addr := 0, peer := al.peer, tile := rd.tile, hub := al.winHub,
                           group := al.winGroup }
  match d.remote.find? (fun x => x.req = req) with
  | none =>
    (match reserveRoom rd.src (roundUp n 16) d with
     | none => (padTo n [], false, { d with waits := true })
     | some e => (padTo n [], false, { e.emit (.remote req) with remote := e.remote ++ [{ req := req, data := none }], waits := true }))
  | some x =>
    match x.data with
    | none => (padTo n [], false, { d with waits := true })
    | some (b, none) => (padTo n b, false, d)
    | some (b, some st) => (padTo n b, true, { d with gone := some st })

/-- Bytes `o` onwards of an allocation, cut at its end (R121: nothing outside it is read). A halo allocation is the inboxes of
a wedge (R257). -/
def readBytes (v : Variant) (al : Alloc) (rd : Reader) (o n : Nat) (d : Dev) : Bytes × Bool × Dev :=
  let m := min n (al.size - o)
  match al.kind with
  | .stack =>
    let r := devRead v al o m d
    (padTo n r.1, r.2.1, r.2.2)
  | .halo =>
    let msg := (tget [] (d.wedge rd.issuer).inbox (o / 4096)).head?.getD []
    (mread msg (o % 4096) n, false, d)
  | .window =>
    let r := (parts256 o m).foldl (fun (r : Bytes × Bool × Dev) p =>
      let x := readRemote al rd p.1 p.2 r.2.2
      (r.1 ++ x.1, r.2.1 || x.2.1, x.2.2)) ([], false, d)
    (padTo n r.1, r.2.1, r.2.2)

/-- A step whose reads, on `e`, met one whose response has yet to come does nothing but send the requests. -/
def awaited (d e : Dev) : Dev := { d with remote := e.remote, rooms := e.rooms, out := e.out }

/-- The remote reads of a reader that are answered have been used. -/
def usedRemote (rd : Reader) (d : Dev) : Dev :=
  if d.remote = [] then d
  else { d with remote := d.remote.filter (fun x => !(x.data.isSome && x.req.tile = rd.tile && x.req.src = rd.src)) }

/-- A step that reads: `f` runs it on a device on which no read waits. When a read has to wait, the step waits with it. -/
def reading (rd : Reader) (d : Dev) (f : Dev → Dev) : Dev :=
  let e := f { d with waits := false, gone := none }
  if e.waits then awaited d e else usedRemote rd e

/-- `n` bits at a bit address of an allocation, as a number. -/
def readBits (v : Variant) (al : Alloc) (rd : Reader) (bit n : Nat) (d : Dev) : Nat × Bool × Dev :=
  if n < 8 then
    let r := readBytes v al rd (bit / 8) 1 d
    (leNat r.1 / 2 ^ (bit % 8) % 2 ^ n, r.2.1, r.2.2)
  else
    let r := readBytes v al rd (bit / 8) (n / 8) d
    (leNat r.1, r.2.1, r.2.2)

/-- Element `i` of a one-dimensional dense descriptor: an index value, or a bound in device memory. -/
def indexElem (v : Variant) (ds : List Desc) (h : Nat) (rd : Reader) (i : Nat) (d : Dev) : Nat × Bool × Dev :=
  match descIn ds h with
  | none => (0, false, d)
  | some y =>
    match d.allocOf y.alloc with
    | none => (0, false, d)
    | some al =>
      let b := fmtBits y.fmt
      readBits v al rd ((y.base : Int) * 8 + (i : Int) * y.stride 0 * b).toNat b d

/-- Extent of the index tensor, or of the dimension itself. An index descriptor that is gone (another port that created it has been reset)
has none: every position pads (DESIGN CHOICE, notes/assumptions/159.md). -/
def limitOf (ds : List Desc) (x : Desc) (i : Nat) : Nat :=
  if x.ien && i = x.idim then (descIn ds x.idx).elim 0 (fun y => y.extent 0) else x.extent i

/-- An index value with its top bit set, or at or beyond the extent of idim (R199). -/
def indexBad (ds : List Desc) (x : Desc) (raw : Nat) : Bool :=
  let w := (descIn ds x.idx).elim 32 (fun y => fmtBits y.fmt)
  raw.testBit (w - 1) || raw ≥ x.extent x.idim

/-- R187's PAD: a declared coordinate below zero, or at or beyond its extent. -/
def padAt (ds : List Desc) (x : Desc) (c : List Int) : Bool :=
  let y := declared x c
  (List.range (x.nd + 1)).any (fun i => y.getD i 0 < 0 || y.getD i 0 ≥ limitOf ds x i)

/-- The place of a tile coordinate; reading an index element is an access. -/
def placeOf (v : Variant) (ds : List Desc) (x : Desc) (rd : Reader) (c : List Int) (d : Dev) : Place × Bool × Dev :=
  let y := declared x c
  if padAt ds x c then (.pad, false, d)
  else
    let z := y.map Int.toNat
    if x.ien then
      let r := indexElem v ds x.idx rd (z.getD x.idim 0) d
      if indexBad ds x r.1 then (.indexOut r.1, r.2.1, r.2.2)
      else (.at_ (z.set x.idim r.1) r.1, r.2.1, r.2.2)
    else (.at_ z 0, false, d)

/-- The element offset of declared coordinates: the stride sum of R187. -/
def elemOffset (x : Desc) (y : List Nat) : Int :=
  ((List.range (x.nd + 1)).map (fun i => (y.getD i 0 : Int) * x.stride i)).sum

/-- Bit address of a dense element. -/
def denseBit (x : Desc) (y : List Nat) : Nat := ((x.base : Int) * 8 + elemOffset x y * fmtBits x.fmt).toNat

/-- The number of a coded row: the linear order of the dimensions but kdim (R119). -/
def rowIndex (x : Desc) (y : List Nat) : Nat :=
  ((List.range (x.nd + 1)).foldl (fun (p : Nat × Nat) i =>
    if i = x.kdim then p else (p.1 + y.getD i 0 * p.2, p.2 * x.extent i)) (0, 1)).1

/-! ### 2:4 blocks (R124, R185) -/

/-- Byte address of the block that holds declared coordinates, and the position in it. -/
def block24At (x : Desc) (y : List Nat) : Nat × Nat :=
  let off := elemOffset x y
  (((x.base : Int) + off / 32 * block24 x.fmt).toNat, (off % 32).toNat)

/-- The values at position `p` of a 2:4 block: the first and, when the two indices of its group are equal, the second. -/
def elem24 (fmt : Nat) (blk : Bytes) (p : Nat) : Nat × Nat :=
  let w := fmtBits fmt / 8
  let md := leNat ((blk.drop (16 * w)).take 4)
  let g := p / 4
  let val (i : Nat) : Nat := leNat ((blk.drop (i * w)).take w)
  let i0 := bitsOf md (4 * g + 1) (4 * g)
  let i1 := bitsOf md (4 * g + 3) (4 * g + 2)
  let e := p % 4
  if i0 = e then (val (2 * g), if i1 = e then val (2 * g + 1) else 0)
  else if i1 = e then (val (2 * g + 1), 0)
  else (0, 0)

/-! ### Bitmap segments (R116 to R121) -/

/-- Positions of the set bits among the low `w` bits of a number, rising. -/
def setBits (w n : Nat) : List Nat := (List.range w).filter (fun i => n.testBit i)

/-- Word `i` of little-endian 32-bit words. -/
def word32 (b : Bytes) (i : Nat) : Nat := leNat ((b.drop (4 * i)).take 4)

/-- The levels of a segment as its metadata bytes give them: set chunks, set blocks, set elements, in order. -/
def segChunks (extent : Nat) (md : Bytes) : List Nat :=
  setBits (32 * cdiv (cdiv extent 1024) 32) (leNat (md.take (4 * cdiv (cdiv extent 1024) 32)))

def segBlocks (l1 : Bytes) (chunks : List Nat) : List Nat :=
  ((chunks.zipIdx).map (fun e => (setBits 32 (word32 l1 e.2)).map (fun b => 32 * e.1 + b))).flatten

/-- What a bitmap segment gives at position k, with the metadata trusted: the offset of the value, or none for zero; and whether
the segment is consistent (the three conditions of R120). -/
def segFind (hdr md : Bytes) (k : Nat) : Option Nat × Bool :=
  let n := leNat hdr
  let ext := bitsOf n 30 0
  let n2 := bitsOf n 63 32
  let n1 := bitsOf n 95 64
  let nnz := bitsOf n 127 96
  let s2 := 4 * cdiv (cdiv ext 1024) 32
  let l1 := md.drop s2
  let l0 := l1.drop (4 * n2)
  let chunks := segChunks ext md
  let blocks := segBlocks l1 chunks
  let elems := segBlocks l0 blocks
  let ok := chunks.length = n2 && blocks.length = n1 && elems.length = nnz &&
    (List.range n2).all (fun i => word32 l1 i != 0) && (List.range n1).all (fun i => word32 l0 i != 0) &&
    chunks.all (fun c => 1024 * c < ext) && blocks.all (fun b => 32 * b < ext) && elems.all (fun e => e < ext)
  ((elems.findIdx? (· = k)).map (fun i => 16 + s2 + 4 * n2 + 4 * n1 + i), ok)

/-- What the fetch of one element gives: its bits, a second value at its position (R125), padding, an index out of range, the
raw index, poison. -/
structure Fetched where
  bits : Nat := 0
  dup : Nat := 0
  pad : Bool := false
  out : Bool := false
  raw : Nat := 0
  poison : Bool := false
deriving DecidableEq, Repr

/-- Where the segment of a coded row starts in the allocation. -/
def segStart (v : Variant) (al : Alloc) (x : Desc) (rd : Reader) (row : Nat) (d : Dev) : Nat × Bool × Dev :=
  if codedRows x > 1 then
    let r := readBytes v al rd (x.base + 8 * row) 8 d
    (x.base + leNat r.1, r.2.1, r.2.2)
  else (x.base, false, d)

/-- Element k of a bitmap segment (R117 to R121). A segment that is not consistent gives a free value. An element inside the descriptor's
extent at or beyond the extent in the segment's header is zero, and is not counted in OD 0x2084 (DESIGN CHOICE,
notes/assumptions/160.md). -/
def readBitmap (v : Variant) (al : Alloc) (x : Desc) (rd : Reader) (row k : Nat) (d : Dev) : Fetched × Dev :=
  let w := fmtBits x.fmt / 8
  let s := segStart v al x rd row d
  let h := readBytes v al rd s.1 16 s.2.2
  let n := leNat h.1
  let ext := bitsOf n 30 0
  if k ≥ ext then ({ pad := true, poison := s.2.1 || h.2.1 }, h.2.2)
  else if bitOf n 31 then
    let r := readBytes v al rd (s.1 + 16 + k * w) w h.2.2
    ({ bits := leNat r.1, poison := s.2.1 || h.2.1 || r.2.1 }, r.2.2)
  else
    let len := 4 * cdiv (cdiv ext 1024) 32 + 4 * bitsOf n 63 32 + 4 * bitsOf n 95 64
    let m := readBytes v al rd (s.1 + 16) (min len (al.size - (s.1 + 16))) h.2.2
    let f := segFind h.1 m.1 k
    let bad := s.2.1 || h.2.1 || m.2.1
    if !f.2 then
      ({ bits := (Config.freeWord d.free).toNat % 2 ^ fmtBits x.fmt, poison := bad }, m.2.2.drawn)
    else match f.1 with
      | none => ({ poison := bad }, m.2.2)
      | some o =>
        -- `o` counts the values' start and one per value before this one
        let vals := 16 + len
        let i := o - vals
        let r := readBytes v al rd (s.1 + vals + i * w) w m.2.2
        ({ bits := leNat r.1, poison := bad || r.2.1 }, r.2.2)

/-! ### Forerunner segments (R122, R123, R186) -/

/-- One pass over the entries: the value at k if an accepted entry names it, range drops, order drops (Table 5.7). -/
def scanEntries (limit k w : Nat) : Option Nat → Nat → Nat → Nat → List Nat → Nat × Nat × Nat
  | _, val, rd, od, [] => (val, rd, od)
  | last, val, rd, od, e :: es =>
    let i := bitsOf e 31 0
    if i ≥ limit then scanEntries limit k w last val (rd + 1) od es
    else if (match last with | some l => decide (i ≤ l) | none => false) then
      scanEntries limit k w last val rd (od + 1) es
    else scanEntries limit k w (some i) (if i = k then bitsOf e (31 + w) 32 else val) rd od es

/-- Element k of a forerunner segment. The checks of Table 5.7 are counted at the fetch of element 0 of the coded row, once per
segment walked (DESIGN CHOICE, notes/assumptions/22.md). -/
def readForerunner (v : Variant) (al : Alloc) (x : Desc) (rd : Reader) (hub row k : Nat) (d : Dev) : Fetched × Dev :=
  let s := segStart v al x rd row d
  let h := readBytes v al rd s.1 16 s.2.2
  let n := leNat h.1
  let fmt := bitsOf n 15 0
  let count := bitsOf n 63 32
  let own := if x.fmt = 0 then 1 else 2
  let ss := ssHub hub
  if fmt ≠ own then
    ({ poison := s.2.1 || h.2.1 }, if k = 0 then h.2.2.count 0x2055 ss 1 else h.2.2)
  else
    let room := (al.size - (s.1 + 16)) / 8
    let m := min count room
    let b := readBytes v al rd (s.1 + 16) (8 * m) h.2.2
    let es := (List.range m).map (fun i => leNat ((b.1.drop (8 * i)).take 8))
    let r := scanEntries (min (bitsOf n 95 64) (x.extent x.kdim)) k (fmtBits x.fmt) none 0 0 0 es
    let d1 := b.2.2
    let d2 := if k = 0 then
        let c1 := if count > room then d1.count 0x2054 ss 1 else d1
        (c1.count 0x2052 ss r.2.1).count 0x2053 ss r.2.2
      else d1
    ({ bits := r.1, poison := s.2.1 || h.2.1 || b.2.1 }, d2)

/-! ### Fetching (R187, R197 to R201, R205) -/

/-- The element at declared coordinates of a descriptor, in its form. `hub` is the hub of the address generator. -/
def elemAtPlace (v : Variant) (al : Alloc) (x : Desc) (rd : Reader) (hub : Nat) (y : List Nat) (d : Dev) : Fetched × Dev :=
  match x.form with
  | 0 =>
    let r := readBits v al rd (denseBit x y) (fmtBits x.fmt) d
    ({ bits := if x.fmt = 0xC ∧ r.1 = 2 then 0 else r.1, poison := r.2.1 }, r.2.2)
  | 3 =>
    let q := block24At x y
    let r := readBytes v al rd q.1 (block24 x.fmt) d
    let e := elem24 x.fmt r.1 q.2
    ({ bits := e.1, dup := e.2, poison := r.2.1 }, r.2.2)
  | 1 => readBitmap v al x rd (rowIndex x y) (y.getD x.kdim 0) d
  | _ => readForerunner v al x rd hub (rowIndex x y) (y.getD x.kdim 0) d

/-- The hub whose address generators serve a tile. -/
def Tile.genHub (t : Tile) : Nat :=
  match t.engine with
  | some e => e / 8
  | none => issuerHub t.issuer

/-! ### The coalescer (R201) -/

/-- Place of an element within the row that one index value selects: the dimensions other than idim, in order. -/
def rowPlace (x : Desc) (y : List Nat) : Nat :=
  ((List.range (x.nd + 1)).foldl (fun (p : Nat × Nat) i =>
    if i = x.idim then p else (p.1 + y.getD i 0 * p.2, p.2 * x.extent i)) (0, 1)).1

/-- Elements of a row, and declared coordinates of place `k` of a row. -/
def rowLength (x : Desc) : Nat := ((List.range (x.nd + 1)).map (fun i => if i = x.idim then 1 else x.extent i)).foldl (· * ·) 1
def rowCoords (x : Desc) (index k : Nat) : List Nat :=
  ((List.range (x.nd + 1)).foldl (fun (p : List Nat × Nat) i =>
    if i = x.idim then (p.1 ++ [index], p.2) else (p.1 ++ [p.2 % x.extent i], p.2 / x.extent i)) ([], k)).1

/-- Elements in a piece of 1 KiB, and the piece of a place. -/
def pieceLen (x : Desc) : Nat := 8192 / fmtBits x.fmt
def pieceOf (x : Desc) (y : List Nat) : Nat := rowPlace x y / pieceLen x

/-- A piece is fetched: each of its elements, in order. -/
def fetchPiece (v : Variant) (al : Alloc) (x : Desc) (rd : Reader) (hub index piece : Nat) (d : Dev) : Tab (Nat × Nat × Bool) × Dev :=
  ((List.range (min (pieceLen x) (rowLength x - piece * pieceLen x))).map (fun i => piece * pieceLen x + i)).foldl
    (fun (r : Tab (Nat × Nat × Bool) × Dev) k =>
      let e := elemAtPlace v al x rd hub (rowCoords x index k) r.2
      (r.1 ++ [(k, (e.1.bits, e.1.dup, e.1.poison))], e.2)) ([], d)

/-- An element of a gathered row comes from the coalescer's piece, which is fetched when the coalescer does not hold it; the least
recently used of 256 pieces then leaves. A piece is keyed by the generator (the tile and operand), the index value and its place in the
row. Served without a fetch it is counted, once for each index position that it serves so (DEDUCED, notes/assumptions/119.md). -/
def gathered (v : Variant) (al : Alloc) (x : Desc) (rd : Reader) (hub gen pos ss : Nat) (y : List Nat) (d : Dev) : Fetched × Dev :=
  let index := y.getD x.idim 0
  let piece := pieceOf x y
  let mine := d.coal.filter (fun q => q.gen = gen)
  let others := d.coal.filter (fun q => q.gen ≠ gen)
  let out (q : Piece) : Fetched :=
    let e := tget (0, 0, false) q.data (rowPlace x y)
    { bits := e.1, dup := e.2.1, raw := index, poison := e.2.2 }
  match mine.find? (fun q => q.index = index && q.piece = piece && !q.drop) with
  | some q =>
    let seen := q.served.contains pos
    let d1 := { d with coal := others ++ mine.filter (· ≠ q) ++ [{ q with served := if seen then q.served else q.served ++ [pos] }] }
    (out q, if seen then d1 else d1.count 0x2082 ss 1)
  | none =>
    let r := fetchPiece v al x rd hub index piece d
    let q : Piece := { gen := gen, index := index, piece := piece, data := r.1, served := [pos] }
    let held := mine.filter (fun q => !q.drop)
    let kept := if held.length ≥ 256 then mine.filter (fun p => some p ≠ held.head?) else mine
    (out q, { r.2 with coal := others ++ kept ++ [q] })

/-- An index value out of range on gather is counted, once for each index position that a generator reads (R199; DEDUCED,
notes/assumptions/119.md). -/
def gatherDrop (gen index pos ss : Nat) (d : Dev) : Dev :=
  if d.coal.any (fun q => q.gen = gen && q.drop && q.served = [pos]) then d
  else
    let note : Piece := { gen := gen, index := index, piece := 0, served := [pos], drop := true }
    Dev.count { d with coal := d.coal ++ [note] } 0x2080 ss 1

/-- A scale operand, whose coordinate along the blocked dimension counts blocks of 32 elements. -/
def Tile.scaleOperand (t : Tile) (o : Nat) : Bool :=
  (o = 1 && t.inst.func ≠ fLAPP) || (o = 3 && (t.inst.func = fLDOT || t.inst.func = fLSEL))

/-- Tile coordinates in elements: a block stands at its first element, so that a block with an element below the bound is read
(R97, R218). -/
def Tile.elemCoords (t : Tile) (o : Nat) (x : Desc) (c : List Int) : List Int :=
  if t.scaleOperand o then let j := x.perm.idxOf x.kdim; c.set j (32 * c.getD j 0) else c

/-- An outlier value of a channel at reduction position bnd2 or beyond is padding (R218). -/
def outlierBeyond (d : Dev) (t : Tile) (o : Nat) (c : List Int) : Bool :=
  o = 9 && (match d.matOf (t.inst.opnd 2) with
    | some m => decide (m.outliers.getD (c.getD 0 0).toNat 0 ≥ t.b2)
    | none => false)

/-- Fetch an element of a tile's operand: bounds first, then R187; padding and dropped indices are counted (R199, R205). A scale
entry is no element and is not counted as one (DEDUCED, notes/assumptions/119.md). The tile that meets poison fails (R299), which
`fetchOperand` reports. -/
def fetchOperand (v : Variant) (t : Tile) (o : Nat) (c01 : List Int) (d : Dev) : Fetched × Dev :=
  let ds := tileDescs d t
  match descIn ds (t.handle o) with
  | none => ({}, d)
  | some x =>
    let c := c01.take 2 ++ t.origins o
    let n := if t.scaleOperand o || o = 10 then 0 else 1
    if t.beyond o (t.elemCoords o x c) || outlierBeyond d t o c then ({ pad := true }, d.count 0x2084 t.ssRead n)
    else match d.allocOf x.alloc with
      | none => ({}, d)
      | some al =>
        let p := placeOf v ds x t.reader c d
        let pos := ((declared x c).getD x.idim 0).toNat
        let gen := t.id * 16 + o
        match p.1 with
        | .pad => ({ pad := true, poison := p.2.1 }, p.2.2.count 0x2084 t.ssRead n)
        | .indexOut raw => ({ out := true, raw := raw, poison := p.2.1 }, gatherDrop gen raw pos t.ssRead p.2.2)
        | .at_ y raw =>
          let r := if x.ien then gathered v al x t.reader t.genHub gen pos t.ssRead y p.2.2
            else elemAtPlace v al x t.reader t.genHub y p.2.2
          ({ r.1 with raw := raw, poison := p.2.1 || r.1.poison }, r.2)

/-! ### Blocks of MXINT8 operands (R92, R97, R120, R127, R200) -/

/-- The tag of the block at declared coordinates (R92), counted in blocks along kdim: those of a data tensor are elements, those of a
scale tensor blocks. In 64-bit arithmetic modulo 2^64, of which the tag is the low 4 bits. -/
def blockTag (x : Desc) (y : List Int) : BitVec 4 :=
  let data (i : Nat) : Bool := i = x.kdim && x.fmt = 0
  let blk (i : Nat) : Int := if data i then y.getD i 0 / 32 else y.getD i 0
  let ext (i : Nat) : Int := if data i then cdiv (x.extent i) 32 else x.extent i
  BitVec.ofInt 4 (((List.range (x.nd + 1)).foldl (fun (p : Int × Int) i => (p.1 + blk i * p.2, p.2 * ext i)) (0, 1)).1)

/-- The tag of a block of an operand at tile coordinates, with the index value that stands for its coordinate of idim (R200). -/
def operandTag (d : Dev) (t : Tile) (o : Nat) (c01 : List Int) (f : Fetched) : BitVec 4 :=
  match descIn (tileDescs d t) (t.handle o) with
  | none => 0
  | some x =>
    let y := declared x (c01.take 2 ++ t.origins o)
    blockTag x (if x.ien && !f.pad then y.set x.idim f.raw else y)

/-- The 32 elements of block k of an operand at tile coordinate 1, in the dense form that the address generator gives a macro or a lane
(R120, R127): the first element's fetch, the values, the second values, poison. -/
def blockElems (v : Variant) (t : Tile) (o k c1 : Nat) (d : Dev) : List Fetched × Dev :=
  (List.range 32).foldl (fun (r : List Fetched × Dev) i =>
    let f := fetchOperand v t o [((32 * k + i : Nat) : Int), (c1 : Int)] r.2
    (r.1 ++ [f.1], f.2)) ([], d)

/-- A data block of an operand as it goes to a pairing side, and poison. -/
def fetchBlock (v : Variant) (t : Tile) (o k c1 : Nat) (d : Dev) : (DataBlock × Bool) × Dev :=
  let r := blockElems v t o k c1 d
  let first := nth {} r.1 0
  let b : DataBlock :=
    { tag := operandTag d t o [((32 * k : Nat) : Int), (c1 : Int)] first, c0 := 32 * k, c1 := c1,
      q := r.1.map (fun f => BitVec.ofNat 8 f.bits), dup := r.1.map (fun f => BitVec.ofNat 8 f.dup) }
  ((b, r.1.any (fun f => f.poison)), r.2)

/-- A scale entry of an operand as it goes to a pairing side, and poison: exponent 0x00 at a padded position or an index out of range
(R97, R200). -/
def fetchScale (v : Variant) (t : Tile) (o k c1 : Nat) (d : Dev) : (ScaleEntry × Bool) × Dev :=
  let c : List Int := [(k : Int), (c1 : Int)]
  let f := fetchOperand v t o c d
  (({ exp := if f.1.pad || f.1.out then 0 else BitVec.ofNat 8 f.1.bits, tag := operandTag d t o c f.1 }, f.1.poison), f.2)

/-- The value of a fetched element of a numeric format as a signed integer (integer formats). -/
def intElem (fmt : Nat) (b : Nat) : Int :=
  match fmt with
  | 0 => sext 8 b
  | 1 => sext 16 b
  | 2 => sext 32 b
  | 0xB => sext 4 b
  | 0xC => if b = 1 then 1 else if b = 3 then -1 else 0
  | _ => b

/-- The value of a fetched element as a floating value. E8M0 is the power of two it stands for, 0xFF NaN (R87). -/
def fpElem (fmt : Nat) (b : Nat) : Fp :=
  match fmt with
  | 5 => Fp.decode fmtBf16 b
  | 6 => Fp.decode fmt16 b
  | 7 => Fp.decode fmt32 b
  | 8 => Fp.decode fmtE4m3 b
  | 9 => Fp.decode fmtE5m2 b
  | 0xA => if b = 0xFF then .nan else .fin false (pow2Q ((b : Int) - 127))
  | f => .ofRat (intElem f b)

/-! ### Writes (R202 to R206) -/

/-- The raw write of an element's bits at declared coordinates of a dense descriptor: a store, an add, or bits of a byte. -/
def denseWrite (x : Desc) (y : List Nat) (bits : Nat) : RawOp :=
  let w := fmtBits x.fmt
  let a := denseBit x y
  if w < 8 then
    .bits x.alloc (a / 8) (BitVec.ofNat 8 ((2 ^ w - 1) * 2 ^ (a % 8))) (BitVec.ofNat 8 (bits % 2 ^ w * 2 ^ (a % 8)))
  else if x.use = 2 then
    .mem x.alloc (a / 8) (if x.fmt = 7 then .addF32 [BitVec.ofNat 32 bits] else .addI32 [BitVec.ofNat 32 bits])
  else .mem x.alloc (a / 8) (.write (toLe (w / 8) bits))

/-- The bytes and metadata nibble of one group of four dense elements in the 2:4 form (R125): the nonzero elements in ascending
order, then zeros at the lowest unused positions. Answers the two values and the nibble. -/
def encode24 (isZero : Nat → Bool) (g : List Nat) : Nat × Nat × Nat :=
  let nz := (List.range 4).filter (fun i => !isZero (nth 0 g i))
  let rest := (List.range 4).filter (fun i => isZero (nth 0 g i))
  let pos := if nz.length ≥ 2 then nz.take 2 else
    let fill := rest.take (2 - nz.length)
    if nz.length = 0 then fill else
      match nz, fill with
      | [a], [b] => if a < b then [a, b] else [b, a]
      | _, _ => fill
  let p0 := nth 0 pos 0
  let p1 := nth 1 pos 1
  (nth 0 g p0, nth 0 g p1, p0 + 4 * p1)

end Sys2Proof.Machine
end

