-- ==== Sys2Proof/Machine/Dict.lean ====
section
/-!
DEFINITION. The object dictionary (ch. 14): every entry's type, length, access, class, default, range and unit, as the
tables of the chapters give them, the value that a read sees, and the values that each event of Table 14.4 takes away.
-/
namespace Sys2Proof.Machine

open Sys2Proof

/-- Access codes (Table 0.4). No entry of this manual has W1C. -/
inductive Acc where
  | ro | rw | wo | rwh | rwm
deriving DecidableEq, Repr

/-- Persistence classes (Table 14.4). -/
inductive Cls where
  | p | m | q | v
deriving DecidableEq, Repr

/-- One entry: type code of Table 14.1, length or maximum, access, class, default of a number, range of a number, and the
unit it belongs to, if any. -/
structure OdEntry where
  typ : Nat
  len : Nat
  acc : Acc
  cls : Cls
  dflt : Nat
  lo : Nat
  hi : Nat
  unit : Option Target
deriving DecidableEq, Repr

/-- The length of a type's value (Table 14.1); STR, BLOB and REC give their own. -/
def typeLen (t : Nat) : Nat :=
  match t with
  | 0 => 1 | 1 => 1 | 2 => 2 | 3 => 4 | 4 => 8 | 5 => 4 | 6 => 4
  | _ => 0

/-- A numeric entry over its whole type. -/
def odNum (t : Nat) (acc : Acc) (cls : Cls) (dflt : Nat) : OdEntry :=
  { typ := t, len := typeLen t, acc := acc, cls := cls, dflt := dflt, lo := 0,
    hi := if t = 0 then 1 else 2 ^ (8 * typeLen t) - 1, unit := none }

/-- A numeric setting of class P with a range. -/
def odSet (t dflt lo hi : Nat) : OdEntry := { odNum t .rw .p dflt with lo := lo, hi := hi }

/-- A STR, BLOB or REC entry. -/
def odBytes (t len : Nat) (acc : Acc) (cls : Cls) : OdEntry :=
  { typ := t, len := len, acc := acc, cls := cls, dflt := 0, lo := 0, hi := 0, unit := none }

/-- A U64 counter of class V. -/
def odCtr : OdEntry := odNum 4 .ro .v 0

/-- The unit of a subindex ss (R111): facets, engines, hubs, the standby scratchpad, as far as the index has them. -/
def ssUnit (fac eng hub stby : Bool) (sub : Nat) : Option Target :=
  if fac && 1 ≤ sub && sub ≤ 0x24 then some (.facet (sub - 1))
  else if eng && 0x25 ≤ sub && sub ≤ 0x44 then some (.engine ((sub - 0x25) / 8) ((sub - 0x25) % 8))
  else if hub && 0x45 ≤ sub && sub ≤ 0x48 then some (.hub (sub - 0x45))
  else if stby && sub = 0x49 then some .mgmt
  else none

/-- An entry whose subindex names a unit. -/
def odOf (u : Option Target) (e : OdEntry) : Option OdEntry := u.map (fun t => { e with unit := some t })

def facetSs (sub : Nat) : Option Target := ssUnit true false false false sub
def engineSs (sub : Nat) : Option Target := ssUnit false true false false sub
def hubSs (sub : Nat) : Option Target := ssUnit false false true false sub
def facetHubSs (sub : Nat) : Option Target := ssUnit true false true false sub
def engineHubSs (sub : Nat) : Option Target := ssUnit false true true false sub
def memSs (sub : Nat) : Option Target := ssUnit true false true true sub
def quantSs (sub : Nat) : Option Target := ssUnit true true true false sub
/-- pp as a port number plus 1, ll as a link number plus 1, ee as a check engine number plus 1. -/
def portPp (sub : Nat) : Option Target := if 1 ≤ sub && sub ≤ 4 then some (.port (sub - 1)) else none
def linkLl (sub : Nat) : Option Target := if 1 ≤ sub && sub ≤ 0x40 then some (.link (sub - 1)) else none
def ceEe (sub : Nat) : Option Target := if 1 ≤ sub && sub ≤ 0x40 then some (.ce (sub - 1)) else none

/-- Entries with one subindex each, indices 0x1000 to 0x1104. -/
def odFixedBase (idx sub : Nat) : Option OdEntry :=
  match idx, sub with
  | 0x1000, 1 => some (odBytes 7 32 .ro .p)
  | 0x1000, 2 => some (odBytes 7 32 .ro .p)
  | 0x1000, 3 => some (odNum 1 .ro .p 0)
  | 0x1010, 1 => some (odNum 1 .ro .p 0)
  | 0x1010, 2 => some (odNum 4 .ro .p 0)
  | 0x1010, 3 => some (odNum 1 .ro .p 0)
  | 0x1010, 4 => some (odNum 4 .ro .p 0)
  | 0x1010, 5 => some (odNum 1 .ro .p 0)
  | 0x1010, 6 => some (odNum 0 .ro .p 0)
  | 0x1100, 1 => some (odNum 4 .ro .p 0)
  | 0x1100, 2 => some (odNum 0 .rwh .p 1)
  | 0x1100, 3 => some (odSet 2 7006 1024 65535)
  | 0x1100, 4 => some (odNum 0 .ro .v 0)
  | 0x1101, 1 => some (odBytes 8 16 .rw .p)
  | 0x1101, 2 => some (odSet 1 64 1 128)
  | 0x1101, 3 => some (odSet 0 1 0 1)
  | 0x1102, 1 => some (odNum 3 .rw .p 0)
  | 0x1102, 2 => some (odSet 1 24 1 32)
  | 0x1102, 3 => some (odNum 3 .rw .p 0)
  | 0x1103, 1 => some (odSet 3 60 10 3600)
  | 0x1103, 2 => some (odNum 1 .ro .v 0)
  | 0x1104, 1 => some odCtr
  | 0x1104, 2 => some odCtr
  | 0x1104, 3 => some odCtr
  | 0x1104, 4 => some (odNum 1 .ro .v 0)
  | _, _ => none

/-- Entries with one subindex each, indices 0x1400 to 0x207F. -/
def odFixedMacro (idx sub : Nat) : Option OdEntry :=
  match idx, sub with
  | 0x1400, 1 => some (odNum 1 .ro .v 0)
  | 0x1400, 2 => some odCtr
  | 0x1400, 3 => some (odNum 3 .ro .v 0x1000)
  | 0x1400, 4 => some odCtr
  | 0x1400, 5 => some (odNum 3 .ro .v 0)
  | 0x1400, 6 => some odCtr
  | 0x1400, 7 => some (odNum 3 .ro .v 0)
  | 0x1400, 8 => some (odNum 1 .ro .v 64)
  | 0x1400, 9 => some (odNum 3 .ro .v 0)
  | 0x2000, 1 => some (odSet 1 4 1 7)
  | 0x2000, 2 => some (odSet 2 64 1 4096)
  | 0x2001, 1 => some (odSet 1 2 1 2)
  | 0x2040, 1 => some (odSet 1 1 0 3)
  | 0x2040, 2 => some (odSet 0 0 0 1)
  | 0x2040, 3 => some (odSet 1 0x78 0 0xFE)
  | 0x2060, 1 => some (odSet 1 6 4 10)
  | 0x2060, 2 => some (odSet 1 8 4 12)
  | 0x2060, 3 => some (odSet 1 8 1 15)
  | 0x2060, 4 => some (odSet 2 256 0 65535)
  | 0x207F, 1 => some (odSet 0 1 0 1)
  | 0x207F, 2 => some (odSet 1 2 1 2)
  | _, _ => none

/-- Entries with one subindex each, indices 0x20A0 to 0x3401. -/
def odFixedMem (idx sub : Nat) : Option OdEntry :=
  match idx, sub with
  | 0x20A0, 1 => some (odSet 3 10000 100 1000000)
  | 0x20B0, 1 => some (odSet 0 1 0 1)
  | 0x20B0, 2 => some (odSet 3 1000 10 1000000)
  | 0x3000, 1 => some (odSet 2 24 1 720)
  | 0x3040, 1 => some (odSet 3 1000 100 1000000)
  | 0x3050, 1 => some (odSet 0 1 0 1)
  | 0x3400, 1 => some (odNum 4 .ro .p 0)
  | 0x3400, 2 => some (odNum 1 .ro .p 1)
  | 0x3401, 1 => some (odSet 3 10 2 1000)
  | 0x3401, 2 => some (odSet 3 20 5 10000)
  | 0x3401, 3 => some (odSet 0 1 0 1)
  | 0x3401, 4 => some (odSet 3 1000 10 60000)
  | _, _ => none

/-- Entries with one subindex each, indices 0x4000 to 0x5030. -/
def odFixedPower (idx sub : Nat) : Option OdEntry :=
  match idx, sub with
  | 0x4000, 1 => some (odNum 3 .ro .p 0)
  | 0x4000, 2 => some (odNum 2 .ro .p 0)
  | 0x4001, 1 => some (odSet 2 16 0 128)
  | 0x4001, 2 => some (odSet 1 30 10 60)
  | 0x4002, 1 => some (odSet 1 95 70 100)
  | 0x4002, 2 => some (odSet 1 5 2 15)
  | 0x4010, 1 => some (odBytes 9 8 .wo .v)
  | 0x4012, 1 => some (odSet 0 1 0 1)
  | 0x4020, 1 => some (odNum 3 .ro .p 0)
  | 0x4020, 2 => some (odNum 1 .ro .p 0)
  | 0x5000, 1 => some (odSet 3 4000 100 60000)
  | 0x5000, 2 => some (odSet 3 10000 100 1000000)
  | 0x5001, 1 => some (odSet 3 600 10 86400)
  | 0x5001, 2 => some (odSet 1 20 5 60)
  | 0x5001, 3 => some (odSet 3 4000 100 60000)
  | 0x5002, 1 => some (odSet 3 60 1 86400)
  | 0x5003, 1 => some (odSet 0 1 0 1)
  | 0x5003, 2 => some (odSet 1 1 0 4)
  | 0x5020, 1 => some (odNum 0 .rwm .v 0)
  | 0x5030, 1 => some (odNum 3 .rw .v 0)
  | 0x5030, 2 => some (odBytes 9 32 .ro .v)
  | 0x5030, 3 => some (odBytes 8 128 .ro .v)
  | 0x5030, 4 => some (odBytes 8 1024 .ro .v)
  | _, _ => none

/-- Entries with one subindex each, indices 0x5801 to 0x7040. -/
def odFixedSec (idx sub : Nat) : Option OdEntry :=
  match idx, sub with
  | 0x5801, 1 => some (odNum 3 .ro .v 0)
  | 0x5801, 2 => some (odBytes 9 16 .rw .v)
  | 0x5803, 1 => some odCtr
  | 0x6001, 1 => some (odNum 6 .ro .v 0)
  | 0x6002, 1 => some (odNum 6 .ro .v 0)
  | 0x6002, 2 => some (odNum 6 .ro .v 0)
  | 0x7000, 1 => some (odBytes 8 1952 .ro .p)
  | 0x7000, 2 => some (odBytes 8 64 .ro .p)
  | 0x7001, 1 => some (odNum 1 .ro .p 0)
  | 0x7001, 2 => some (odNum 3 .ro .p 0)
  | 0x7002, 1 => some (odNum 1 .ro .v 0)
  | 0x7002, 2 => some (odNum 3 .ro .p 0)
  | 0x7003, 1 => some (odBytes 8 64 .ro .v)
  | 0x7003, 2 => some (odNum 3 .ro .p 0)
  | 0x7010, 1 => some (odBytes 8 1952 .rw .p)
  | 0x7010, 2 => some (odBytes 8 1952 .rw .p)
  | 0x7010, 3 => some (odBytes 8 1952 .rw .p)
  | 0x7010, 4 => some (odBytes 8 1952 .rw .p)
  | 0x7020, 1 => some (odBytes 9 128 .rw .v)
  | 0x7020, 2 => some (odBytes 8 2048 .rw .v)
  | 0x7020, 3 => some (odBytes 8 1261 .rw .v)
  | 0x7020, 4 => some (odNum 0 .wo .v 0)
  | 0x7030, 1 => some (odBytes 8 32 .rw .v)
  | 0x7030, 2 => some (odBytes 9 256 .ro .v)
  | 0x7030, 3 => some (odBytes 8 2048 .ro .v)
  | 0x7030, 4 => some (odBytes 8 1261 .ro .v)
  | 0x7040, 1 => some odCtr
  | _, _ => none

/-- Entries with one subindex each: the settings and records of Tables 0.3, 2.9, 3.9, 4.6, 5.13, 6.6, 9.9, 10.8, 11.6, 12.8,
14.15, 15.7, 16.11, 17.11 and 18.9. -/
def odFixed (idx sub : Nat) : Option OdEntry :=
  odFixedBase idx sub <|> odFixedMacro idx sub <|> odFixedMem idx sub <|> odFixedPower idx sub <|> odFixedSec idx sub

/-- Entries whose subindex names a unit or a phase, indices 0x1200 to 0x2048. -/
def odRangedBase (idx sub : Nat) : Option OdEntry :=
  match idx with
  | 0x1200 => odOf (portPp sub) (odNum 1 .ro .q 0)
  | 0x1201 => odOf (portPp sub) (odNum 4 .ro .q 0)
  | 0x1202 => odOf (portPp sub) (odNum 4 .ro .q 0)
  | 0x1203 => odOf (portPp sub) (odNum 4 .ro .q 0)
  | 0x1204 => odOf (portPp sub) (odNum 2 .ro .v 0)
  | 0x1205 => odOf (portPp sub) (odNum 4 .ro .q 0)
  | 0x1206 => odOf (portPp sub) (odNum 3 .ro .m 0)
  | 0x1207 => odOf (portPp sub) (odNum 4 .ro .q 0)
  | 0x1208 => odOf (portPp sub) (odNum 0 .ro .v 0)
  | 0x2020 => odOf (facetSs sub) odCtr
  | 0x2021 => odOf (facetSs sub) odCtr
  | 0x2022 => odOf (facetSs sub) odCtr
  | 0x2023 => odOf (facetSs sub) odCtr
  | 0x2024 => odOf (facetSs sub) odCtr
  | 0x2025 => odOf (facetSs sub) odCtr
  | 0x2026 => odOf (facetSs sub) odCtr
  | 0x2027 => odOf (facetSs sub) odCtr
  | 0x2028 => odOf (facetSs sub) odCtr
  | 0x2029 => odOf (facetSs sub) odCtr
  | 0x2030 => odOf (facetSs sub) (odNum 3 .ro .v 0)
  | 0x2031 => odOf (facetSs sub) (odNum 3 .ro .v 0)
  | 0x2032 => odOf (facetSs sub) odCtr
  | 0x2033 => odOf (facetSs sub) odCtr
  | 0x2034 => odOf (facetSs sub) odCtr
  | 0x2035 => odOf (facetSs sub) (odNum 3 .ro .v 0)
  | 0x2041 => odOf (quantSs sub) odCtr
  | 0x2042 => odOf (quantSs sub) odCtr
  | 0x2043 => odOf (quantSs sub) odCtr
  | 0x2044 => odOf (quantSs sub) odCtr
  | 0x2045 => odOf (quantSs sub) odCtr
  | 0x2046 => odOf (quantSs sub) odCtr
  | 0x2047 => odOf (quantSs sub) odCtr
  | 0x2048 => odOf (quantSs sub) odCtr
  | _ => none

/-- Entries whose subindex names a unit or a phase, indices 0x2050 to 0x207B. -/
def odRangedEngine (idx sub : Nat) : Option OdEntry :=
  match idx with
  | 0x2050 => odOf (engineSs sub) odCtr
  | 0x2051 => odOf (engineSs sub) odCtr
  | 0x2052 => odOf (hubSs sub) odCtr
  | 0x2053 => odOf (hubSs sub) odCtr
  | 0x2054 => odOf (hubSs sub) odCtr
  | 0x2055 => odOf (hubSs sub) odCtr
  | 0x2056 => odOf (engineSs sub) odCtr
  | 0x2057 => odOf (engineSs sub) odCtr
  | 0x2061 => some (odSet 1 2 0 15)
  | 0x2062 => some (odSet 1 0 0 7)
  | 0x2063 => some (odSet 6 0 0 0xFFFFFFFF)
  | 0x2064 => odOf (some (.hub 0)) (odNum 1 .ro .v 0)
  | 0x2065 => odOf (some (.hub 1)) (odNum 1 .ro .v 0)
  | 0x2066 => odOf (some (.hub 2)) (odNum 1 .ro .v 0)
  | 0x2067 => odOf (some (.hub 3)) (odNum 1 .ro .v 0)
  | 0x2068 => odOf (facetSs sub) odCtr
  | 0x2069 => odOf (facetSs sub) odCtr
  | 0x206A => odOf (facetSs sub) odCtr
  | 0x206B => odOf (facetSs sub) odCtr
  | 0x206C => odOf (facetSs sub) odCtr
  | 0x206D => odOf (hubSs sub) odCtr
  | 0x206E => odOf (hubSs sub) odCtr
  | 0x2070 => odOf (engineSs sub) odCtr
  | 0x2071 => odOf (engineSs sub) odCtr
  | 0x2072 => odOf (engineSs sub) odCtr
  | 0x2073 => odOf (engineSs sub) odCtr
  | 0x2074 => odOf (engineSs sub) odCtr
  | 0x2075 => odOf (engineSs sub) odCtr
  | 0x2076 => odOf (engineSs sub) odCtr
  | 0x2077 => odOf (engineSs sub) odCtr
  | 0x2078 => odOf (engineSs sub) odCtr
  | 0x2079 => odOf (engineSs sub) odCtr
  | 0x207A => odOf (engineSs sub) odCtr
  | 0x207B => odOf (engineSs sub) (odNum 1 .ro .v 64)
  | _ => none

/-- Entries whose subindex names a unit or a phase, indices 0x2080 to 0x20B9. -/
def odRangedTile (idx sub : Nat) : Option OdEntry :=
  match idx with
  | 0x2080 => odOf (engineHubSs sub) odCtr
  | 0x2081 => odOf (engineHubSs sub) odCtr
  | 0x2082 => odOf (engineHubSs sub) odCtr
  | 0x2083 => odOf (engineHubSs sub) odCtr
  | 0x2084 => odOf (engineHubSs sub) odCtr
  | 0x2085 => odOf (engineHubSs sub) odCtr
  | 0x2088 => odOf (portPp sub) (odNum 2 .ro .q 0)
  | 0x2090 => odOf (facetHubSs sub) odCtr
  | 0x2091 => odOf (facetHubSs sub) odCtr
  | 0x2092 => odOf (facetHubSs sub) odCtr
  | 0x2093 => odOf (facetHubSs sub) odCtr
  | 0x2094 => odOf (facetHubSs sub) odCtr
  | 0x2095 => odOf (facetHubSs sub) odCtr
  | 0x2096 => odOf (facetHubSs sub) odCtr
  | 0x2097 => odOf (facetHubSs sub) odCtr
  | 0x2098 => odOf (facetHubSs sub) odCtr
  | 0x2099 => odOf (hubSs sub) odCtr
  | 0x209A => odOf (facetHubSs sub) odCtr
  | 0x20B1 => odOf (facetHubSs sub) odCtr
  | 0x20B2 => odOf (facetHubSs sub) odCtr
  | 0x20B3 => odOf (facetHubSs sub) odCtr
  | 0x20B4 => odOf (facetHubSs sub) odCtr
  | 0x20B5 => odOf (facetHubSs sub) odCtr
  | 0x20B6 => odOf (facetHubSs sub) odCtr
  | 0x20B7 => odOf (facetHubSs sub) (odNum 1 .ro .v 0)
  | 0x20B8 => odOf (facetHubSs sub) odCtr
  | 0x20B9 => odOf (facetHubSs sub) odCtr
  | _ => none

/-- Entries whose subindex names a unit or a phase, indices 0x3001 to 0x3052. -/
def odRangedMem (idx sub : Nat) : Option OdEntry :=
  match idx with
  | 0x3001 => odOf (hubSs sub) odCtr
  | 0x3002 => odOf (hubSs sub) odCtr
  | 0x3003 => odOf (hubSs sub) odCtr
  | 0x3004 => odOf (hubSs sub) odCtr
  | 0x3005 => odOf (hubSs sub) (odNum 2 .ro .p 0)
  | 0x3006 => odOf (hubSs sub) odCtr
  | 0x3007 => odOf (hubSs sub) odCtr
  | 0x3008 => odOf (hubSs sub) (odNum 2 .ro .v 1072)
  | 0x3041 => odOf (memSs sub) odCtr
  | 0x3042 => odOf (memSs sub) odCtr
  | 0x3051 => odOf (memSs sub) odCtr
  | 0x3052 => odOf (memSs sub) odCtr
  | _ => none

/-- Entries whose subindex names a unit or a phase, indices 0x3410 to 0x3421. -/
def odRangedLink (idx sub : Nat) : Option OdEntry :=
  match idx with
  | 0x3410 => odOf (linkLl sub) (odNum 1 .ro .v 0)
  | 0x3411 => odOf (linkLl sub) (odSet 0 1 0 1)
  | 0x3412 => odOf (linkLl sub) (odNum 1 .ro .v 0)
  | 0x3413 => odOf (linkLl sub) odCtr
  | 0x3414 => odOf (linkLl sub) (odNum 1 .ro .v 0)
  | 0x3415 => odOf (linkLl sub) (odNum 1 .ro .v 0)
  | 0x3416 => odOf (linkLl sub) odCtr
  | 0x3417 => odOf (linkLl sub) odCtr
  | 0x3418 => odOf (linkLl sub) odCtr
  | 0x3419 => odOf (linkLl sub) odCtr
  | 0x341A => odOf (linkLl sub) odCtr
  | 0x341B => odOf (linkLl sub) odCtr
  | 0x341C => odOf (linkLl sub) odCtr
  | 0x341D => odOf (linkLl sub) (odNum 3 .ro .v 0)
  | 0x341E => odOf (linkLl sub) odCtr
  | 0x341F => odOf (linkLl sub) odCtr
  | 0x3420 => odOf (linkLl sub) (odNum 0 .wo .v 0)
  | 0x3421 => odOf (linkLl sub) odCtr
  | _ => none

/-- Entries whose subindex names a unit or a phase, indices 0x4011 to 0x6103. -/
def odRangedPower (idx sub : Nat) : Option OdEntry :=
  match idx with
  | 0x4011 => odOf (facetHubSs sub) odCtr
  | 0x4100 => some (odSet 1 4 0 7)
  | 0x4101 => some (odSet 1 0 0 7)
  | 0x4200 => odOf (some (.hub 0)) (odNum 6 .ro .m 0x42900000)
  | 0x4201 => odOf (some (.hub 1)) (odNum 6 .ro .m 0x42900000)
  | 0x4202 => odOf (some (.hub 2)) (odNum 6 .ro .m 0x42900000)
  | 0x4203 => odOf (some (.hub 3)) (odNum 6 .ro .m 0x42900000)
  | 0x4204 => odOf (some (.hub 0)) (odNum 6 .ro .m 0x42200000)
  | 0x4205 => odOf (some (.hub 1)) (odNum 6 .ro .m 0x42200000)
  | 0x4206 => odOf (some (.hub 2)) (odNum 6 .ro .m 0x42200000)
  | 0x4207 => odOf (some (.hub 3)) (odNum 6 .ro .m 0x42200000)
  | 0x4400 => odOf (hubSs sub) odCtr
  | 0x4401 => odOf (facetHubSs sub) odCtr
  | 0x4402 => odOf (facetHubSs sub) odCtr
  | 0x4403 => odOf (hubSs sub) odCtr
  | 0x4404 => odOf (facetHubSs sub) odCtr
  | 0x5010 => odOf (facetSs sub) odCtr
  | 0x5011 => odOf (facetSs sub) odCtr
  | 0x5012 => odOf (facetSs sub) odCtr
  | 0x5013 => odOf (facetSs sub) odCtr
  | 0x5014 => odOf (facetSs sub) odCtr
  | 0x5015 => odOf (facetSs sub) (odNum 3 .ro .p 0)
  | 0x5016 => odOf (facetSs sub) (odNum 3 .ro .p 0)
  | 0x5017 => odOf (facetSs sub) (odNum 2 .ro .v 64)
  | 0x5018 => odOf (facetSs sub) odCtr
  | 0x5019 => odOf (facetSs sub) odCtr
  | 0x5101 => odOf (ceEe sub) (odNum 2 .rw .m 0)
  | 0x5110 => odOf (ceEe sub) (odBytes 9 32 .ro .m)
  | 0x5111 => odOf (ceEe sub) (odNum 4 .ro .m 0)
  | 0x5112 => odOf (ceEe sub) (odNum 4 .ro .m 0)
  | 0x5113 => odOf (ceEe sub) (odNum 4 .ro .m 0)
  | 0x5114 => odOf (ceEe sub) (odNum 4 .ro .m 0)
  | 0x5800 => if sub = 5 then some (odBytes 8 3072 .ro .v) else odOf (portPp sub) (odBytes 8 3072 .ro .v)
  | 0x5802 => odOf (portPp sub) (odNum 0 .rwh .q 1)
  | 0x6000 =>
    if sub = 5 ∨ sub = 6 then odOf (some (.hub 0)) (odNum 4 .ro .m 0) else odOf (portPp sub) (odNum 4 .ro .m 0)
  | 0x6010 => odOf (facetHubSs sub) (odNum 6 .ro .v 0)
  | 0x6011 => odOf (facetHubSs sub) odCtr
  | 0x6100 => odOf (some (.port 0)) (odNum 4 .ro .m 0)
  | 0x6101 => odOf (some (.port 1)) (odNum 4 .ro .m 0)
  | 0x6102 => odOf (some (.port 2)) (odNum 4 .ro .m 0)
  | 0x6103 => odOf (some (.port 3)) (odNum 4 .ro .m 0)
  | _ => none

/-- Entries whose subindex names a unit or a phase. -/
def odRanged (idx sub : Nat) : Option OdEntry :=
  odRangedBase idx sub <|> odRangedEngine idx sub <|> odRangedTile idx sub <|> odRangedMem idx sub <|> odRangedLink idx sub <|> odRangedPower idx sub

/-- The entry at index and subindex, if one exists (R386). -/
def odEntry (idx sub : Nat) : Option OdEntry :=
  match odFixed idx sub with
  | some e => some e
  | none => odRanged idx sub

/-- Order 2 of Table 14.3: the entry's unit is present. The forerunner counters need the decoder (R144). -/
def odPresent (v : Variant) (idx : Nat) (e : OdEntry) : Bool :=
  (match e.unit with
   | some t => targetPresent v t
   | none => true) && (hasForerunner v || !(0x2052 ≤ idx && idx ≤ 0x2055))

/-- Public ranges (Table 14.2). -/
def odPublic (idx : Nat) : Bool := (0x1000 ≤ idx && idx ≤ 0x10FF) || (0x6000 ≤ idx && idx ≤ 0x6FFF)

/-- The hub that serves what a region governor shows of a facet or hub. -/
def governorHub : Target → Target
  | .facet f => .hub (f / 9)
  | t => t

/-- The class P counts that a unit keeps (Tables 11.7 and 16.11): they live in the unit that counts, and their records in the journal. -/
def unitCountP (idx : Nat) : Bool := idx == 0x3005 || idx == 0x5015 || idx == 0x5016

/-- The standby controller holds every setting, every class P value but a unit's counts, and its own entries; all else is held by its unit
(R386, Table 14.3 order 8), the domain states of OD 0x4011 by the region governor that moves them (R431). -/
def odByUnit (idx : Nat) (e : OdEntry) : Option Target :=
  if e.acc != .ro || (e.cls == .p && !unitCountP idx) || idx == 0x5800 then none
  else if idx = 0x6001 then some (.hub 0)
  else if idx = 0x4011 then e.unit.map governorHub
  else e.unit

/-- Order 8 of Table 14.3 for a value that a unit holds: the unit is out of service or Off. A facet's values are held at its
spine and a port's at its hub's control domain. -/
def holderOffline (d : Dev) (t : Target) : Bool :=
  match t with
  | .port h => targetOffline d (.hub h)
  | .mgmt => false
  | t => targetOffline d t

/-- The index of a source among the five that keep entries of their own (R469): ports 0 to 3, the management port 4. -/
def sourceIdx : Source → Nat
  | .port h => h
  | .mgmt => 4
  | .firmware => 5

/-! ### The value that a read sees -/

/-- Marked-column entries of a wedge in use. -/
def facetWedges (f : Nat) : List Nat := (List.range 16).map (fun w => 16 * f + w)

/-- OD 0x2030.ss (Table 3.9). -/
def marksInFacet (d : Dev) (f : Nat) : Nat := ((facetWedges f).map (fun w => (d.wedge w).marks.length)).sum

/-- OD 0x2031.ss: macros exact-only under R63, for any reason: those of the macro and that of its active matrix. A macro not
listed is uncalibrated. -/
def exactOnlyInFacet (d : Dev) (f : Nat) : Nat :=
  ((facetWedges f).map (fun w =>
    if (d.wedge w).uncal then 192
    else 192 - (d.macros.filter (fun e =>
      e.1 / 192 = w && !e.2.exactOnly && !(d.wedge w).xoOut.contains e.2.active.matrix)).length)).sum

/-- OD 0x2035.ss. -/
def copiesInFacet (d : Dev) (f : Nat) : Nat := ((facetWedges f).map (fun w => (d.wedge w).dir.length)).sum

/-- OD 0x5017.ss. -/
def sparesInFacet (d : Dev) (f : Nat) : Nat := ((facetWedges f).map (fun w => (d.wedge w).spares.length)).sum

/-- The base band of a phase in force on a hub, and the band (R139 to R142): a written base waits for the hub's next issue. -/
def baseBand (d : Dev) (hub phase : Nat) : Nat := (tget {} d.pred (hub * 256 + phase)).oldBase.getD (d.num 0x2061 phase 2)
def bandAt (d : Dev) (hub phase : Nat) : Nat := (tget {} d.pred (hub * 256 + phase)).band.getD (baseBand d hub phase)

/-- OD 0x3008.ss: arcs free on the hub, one frame of each of its two stacks. -/
def freeArcs (d : Dev) (h : Nat) : Nat := 1072 - (d.usedFrames.filter (fun x => x.1 = 2 * h)).length

def pstateCode : PState → Nat
  | .run => 0 | .hold => 1 | .retain => 2 | .off => 3

/-- OD 0x4011.ss and OD 0x6011.ss: one field for each of the 17 domains of a facet or hub; an absent domain reads `absent`. -/
def packDomains (v : Variant) (w absent : Nat) (base : Nat) (f : Nat → Nat) (use : Nat → Bool) : Nat :=
  ((List.range 17).filter use).foldr (fun i acc =>
    acc * 2 ^ w + (if domPresent v (base + i) then f (base + i) else absent)) 0

/-- The base domain of a facet or hub subindex. -/
def ssDomBase (sub : Nat) : Nat := if sub ≤ 0x24 then 17 * (sub - 1) else 612 + 17 * (sub - 0x45)

/-- The macro record of Table 16.12 for logical macro m. -/
def macroRecord (d : Dev) (m : Nat) : Bytes :=
  let x := d.mac m
  let bs (k : Bank) : Nat := match k.st with | .empty => 0 | .loading => 1 | .ready => 2
  let pk (k : Bank) : Nat := match k.packing with | .int8 => 0 | .int4 => 1 | .ternary => 2
  let nm := ((d.wedge (m / 192)).marks.filter (fun e => e.1 / 8 = slotOf d m)).length
  let w := slotOf d m + bs x.bankA * 2 ^ 8 + bs x.bankB * 2 ^ 10 + x.actB.toNat * 2 ^ 12 + pk x.bankA * 2 ^ 13
    + pk x.bankB * 2 ^ 15 + (exactOnlyNow d m).toNat * 2 ^ 17 + (x.oos || x.unread).toNat * 2 ^ 18 + nm * 2 ^ 19 + x.group * 2 ^ 23
  toLe 8 w ++ toLe 4 (checkAge d m) ++ toLe 4 x.calAgeS ++ toLe 16 0

/-- A marked-column entry as Table 3.7 lays it out: the two 32-bit copies, then unit, column and valid. -/
def markBytes (m : Option Mark) : Bytes :=
  match m with
  | none => toLe 16 0
  | some k => toLe 4 k.dataA.toNat ++ toLe 4 k.dataB.toNat ++ toLe 8 (k.unit + k.col * 2 ^ 10 + 2 ^ 14)

/-- The repair map of a macro: one byte per unit, bank A in bits 3:0 and bank B in bits 7:4 (R444). -/
def repairBytes (x : Macro) : Bytes :=
  (List.range 1024).map (fun u => BitVec.ofNat 8 (tget 0 x.bankA.repair u + 16 * tget 0 x.bankB.repair u))

/-- The macro that a source selected in OD 0x5030.01. -/
def selectedMacro (d : Dev) (src : Source) : Option Nat :=
  match targetOf (tget 0 d.log.select (sourceIdx src)).toNat with
  | some (.mac f w m) => some (3072 * f + 192 * w + m)
  | _ => none

/-- The code of a link's state (Table 12.4). -/
def linkCode : LinkPhase → Nat
  | .disabled => 0 | .train => 1 | .exchange => 2 | .active => 3 | .resync => 4 | .down => 5

/-- Bytes of a binary32 for a rational. -/
def f32Bytes (q : Rat) : Bytes := toLe 4 (toF32 (.ofRat q)).toNat

/-- The entries that show state held elsewhere; `none` for those held as values or counters. -/
def odShown (v : Variant) (d : Dev) (src : Source) (idx sub : Nat) : Option Bytes :=
  match idx with
  | 0x1000 => if sub = 1 then some (partNumber v) else if sub = 2 then some Config.serialNumber else some (toLe 1 0)
  | 0x1010 =>
    some (match sub with
      | 1 => toLe 1 (hubMask v)
      | 2 => toLe 8 (facetMask v)
      | 3 => toLe 1 (stackMask v)
      | 4 => toLe 8 (linkMask v)
      | 5 => toLe 1 (portMask v)
      | _ => toLe 1 (hasForerunner v).toNat)
  | 0x1100 =>
    if sub = 1 then some (toLe 8 Config.macAddress.toNat) else if sub = 4 then some (toLe 1 d.seq.mpen.toNat) else none
  | 0x1103 => if sub = 2 then some (toLe 1 d.tam.sessions.length) else none
  | 0x1104 => if sub = 4 then some (toLe 1 d.tam.linkUp.toNat) else none
  | 0x1200 => some (toLe 1 (d.port (sub - 1)).gen)
  | 0x1204 => some (toLe 2 ((d.port (sub - 1)).width + 256 * (d.port (sub - 1)).rate))
  | 0x1208 => some (toLe 1 (nth false d.seq.clkm (sub - 1)).toNat)
  | 0x1400 =>
    (match sub with
      | 1 => some (toLe 1 d.jour.active)
      | 2 => some (toLe 8 (fieldAt (if d.jour.active = 0 then d.jour.reg0 else d.jour.reg1).header 8 8))
      | 3 => some (toLe 4 d.jour.append)
      | 8 => some (toLe 1 d.jour.tokens)
      | _ => none)
  | 0x2030 => some (toLe 4 (marksInFacet d (sub - 1)))
  | 0x2031 => some (toLe 4 (exactOnlyInFacet d (sub - 1)))
  | 0x2035 => some (toLe 4 (copiesInFacet d (sub - 1)))
  | 0x2064 => some (toLe 1 (bandAt d 0 sub))
  | 0x2065 => some (toLe 1 (bandAt d 1 sub))
  | 0x2066 => some (toLe 1 (bandAt d 2 sub))
  | 0x2067 => some (toLe 1 (bandAt d 3 sub))
  | 0x207B => some (toLe 1 (64 - (((d.engine (sub - 0x25)).lanes.filter (fun e => !e.2.inRing)).length)))
  | 0x2088 => some (toLe 2 (d.descs.filter (fun x => x.port = sub - 1)).length)
  | 0x20B7 =>
    some (toLe 1 (d.hops.filter (fun x => x.failed && (match x.hop with
      | .lattice w _ => sub == ssFacet (w / 16)
      | .spineDown f _ => sub == ssFacet f
      | .facetUp f => sub == ssFacet f
      | .facetDown f => sub == ssHub (f / 9)
      | .switchIn h _ => sub == ssHub h
      | .switchOut h _ => sub == ssHub h
      | .bridge h _ => sub == ssHub h))).length)
  | 0x3008 => some (toLe 2 (freeArcs d (sub - 0x45)))
  | 0x3400 => if sub = 1 then some (toLe 8 Config.linkIdentity.toNat) else some (toLe 1 1)
  | 0x3410 => some (toLe 1 (linkCode (d.link (sub - 1)).phase))
  | 0x3412 => some (toLe 1 (d.link (sub - 1)).lanes.toNat)
  | 0x3413 => some (toLe 8 (d.link (sub - 1)).peer.toNat)
  | 0x3414 => some (toLe 1 (d.link (sub - 1)).peerLink)
  | 0x3415 => some (toLe 1 (d.link (sub - 1)).version)
  | 0x4000 => if sub = 1 then some (toLe 4 (powerLimit v)) else some (toLe 2 (fullScale v))
  | 0x4011 => some (toLe 8 (packDomains v 2 3 (ssDomBase sub) (fun k => pstateCode (domState d k)) (fun _ => true)))
  | 0x4200 => some (f32Bytes (tget 72 (d.region 0).learnedM sub))
  | 0x4201 => some (f32Bytes (tget 72 (d.region 1).learnedM sub))
  | 0x4202 => some (f32Bytes (tget 72 (d.region 2).learnedM sub))
  | 0x4203 => some (f32Bytes (tget 72 (d.region 3).learnedM sub))
  | 0x4204 => some (f32Bytes (tget 40 (d.region 0).learnedL sub))
  | 0x4205 => some (f32Bytes (tget 40 (d.region 1).learnedL sub))
  | 0x4206 => some (f32Bytes (tget 40 (d.region 2).learnedL sub))
  | 0x4207 => some (f32Bytes (tget 40 (d.region 3).learnedL sub))
  | 0x5017 => some (toLe 2 (sparesInFacet d (sub - 1)))
  | 0x5030 =>
    (match sub with
      | 1 => some (toLe 4 (tget 0 d.log.select (sourceIdx src)).toNat)
      | 2 => some ((selectedMacro d src).elim (toLe 32 0) (macroRecord d))
      | 3 => some ((selectedMacro d src).elim []
          (fun m => ((List.range 8).map (fun i =>
            markBytes (tfind (d.wedge (m / 192)).marks (slotOf d m * 8 + i)))).flatten))
      | _ => some ((selectedMacro d src).elim [] (fun m => repairBytes (d.mac m))))
  | 0x5801 => if sub = 1 then some (toLe 4 d.log.newest) else none
  | 0x6000 =>
    (match sub with
      | 5 => some (toLe 8 ((d.pow.inputUj.floor -
          (((List.range 4).map (fun h => (tget 0 d.pow.portUj h).floor)).sum)) % (2 ^ 64 : Int)).toNat)
      | 6 => some (toLe 8 d.pow.inputUj.floor.toNat)
      | _ => some (toLe 8 (tget 0 d.pow.portUj (sub - 1)).floor.toNat))
  | 0x6002 => some (toLe 4 (if sub = 1 && !mainOn d then 0 else (Config.voltage sub d.stbyTimer).toNat))
  | 0x6001 => some (f32Bytes (if d.pow.input = [] then 0 else d.pow.input.sum / (d.pow.input.length : Rat)))
  | 0x6100 => some (toLe 8 (tget 0 d.pow.phaseUj (0 * 256 + sub)).floor.toNat)
  | 0x6101 => some (toLe 8 (tget 0 d.pow.phaseUj (1 * 256 + sub)).floor.toNat)
  | 0x6102 => some (toLe 8 (tget 0 d.pow.phaseUj (2 * 256 + sub)).floor.toNat)
  | 0x6103 => some (toLe 8 (tget 0 d.pow.phaseUj (3 * 256 + sub)).floor.toNat)
  | 0x6010 =>
    some (f32Bytes ((((List.range 17).filter (fun i => domPresent v (ssDomBase sub + i))).map
      (fun i => (d.dom (ssDomBase sub + i)).junction)).max?.getD 0))
  | 0x6011 =>
    some (toLe 8 (packDomains v 4 0 (ssDomBase sub) (fun k => (d.dom k).op) (fun i => domGoverned (ssDomBase sub + i))))
  | 0x7000 => if sub = 1 then some Config.identityPublic else some (Config.shake256 Config.identityPublic)
  | 0x7001 => if sub = 1 then some (toLe 1 d.sec.lcs) else some (toLe 4 d.sec.lcount)
  | 0x7002 => if sub = 1 then some (toLe 1 d.sec.cause.toNat) else some (toLe 4 d.sec.tcount)
  | 0x7003 => if sub = 1 then some d.sec.romShown else some (toLe 4 d.sec.boots)
  | 0x7020 =>
    (match sub with
      | 1 => some (tget (toLe 128 0) d.sec.body (sourceIdx src))
      | 2 => some (tget [] d.sec.sigA (sourceIdx src))
      | 3 => some (tget [] d.sec.sigB (sourceIdx src))
      | _ => none)
  | 0x7030 =>
    (match sub with
      | 1 => some (tget [] d.sec.nonce (sourceIdx src))
      | 2 => some (tget (toLe 256 0) d.sec.report (sourceIdx src))
      | 3 => some (tget [] d.sec.repSigA (sourceIdx src))
      | _ => some (tget [] d.sec.repSigB (sourceIdx src)))
  | _ => none

/-- The value of an existing entry: what is shown, or the value held, or the counter, or the default. -/
def odView (v : Variant) (d : Dev) (src : Source) (idx sub : Nat) (e : OdEntry) : Bytes :=
  match odShown v d src idx sub with
  | some b => b
  | none =>
    match tfind d.vals (odKey idx sub) with
    | some b => b
    | none =>
      if e.typ = 7 ∨ e.typ = 8 then []
      else if e.typ = 9 then toLe e.len 0
      else match tfind d.ctr (odKey idx sub) with
        | some n => toLe e.len n
        | none => toLe e.len e.dflt

/-! ### Ranges (orders 6 and 7 of Table 14.3) -/

/-- Order 6: the length obeys R385; a management key has 0 or 1,952 bytes (R467), a nonce 32 (R477). -/
def odLengthOk (idx : Nat) (e : OdEntry) (n : Nat) : Bool :=
  if idx = 0x7010 then n = 0 || n = 1952
  else if idx = 0x7030 then n = 32
  else if e.typ = 7 ∨ e.typ = 8 then n ≤ e.len
  else n = e.len

/-- A binary32 NaN. -/
def isNanBits (n : Nat) : Bool := bitsOf n 30 23 = 255 && bitsOf n 22 0 != 0

/-- Order 7: the value lies in its range (R384). The rsv bits 63:34 of a power request are refused here: Table 14.3 has no check of reserved
fields (DESIGN CHOICE, notes/assumptions/142.md). -/
def odInRange (d : Dev) (idx sub : Nat) (e : OdEntry) (b : Bytes) : Bool :=
  let n := leNat b
  if idx = 0x1101 ∧ sub = 1 then b.length = 0 || b.length = 16
  else if idx = 0x2061 then n ≤ d.num 0x2060 3 8
  else if idx = 0x4101 then n ≤ d.num 0x4100 sub 4
  else if idx = 0x5030 then (match targetOf n with | some (.mac _ _ _) => true | _ => false)
  else if idx = 0x4010 then
    bitsOf n 63 34 = 0 && (match targetOf (bitsOf n 31 0) with
      | some (.mac _ _ _) => false
      | some (.lane _ _ _) => false
      | some (.link _) => false
      | some (.ce _) => false
      | some .mgmt => false
      | some _ => true
      | none => false)
  else if e.typ = 6 then !isNanBits n
  else if e.typ = 7 then b.all (fun c => 0x20 ≤ c.toNat && c.toNat ≤ 0x7E)
  else if e.typ = 8 ∨ e.typ = 9 then true
  else e.lo ≤ n && n ≤ e.hi

/-! ### Survival of values (Table 14.4) -/

/-- The entries of host port h (R497), apart from those of Log, Pow and Sec. -/
def odOfPort (h idx sub : Nat) : Bool :=
  (0x1200 ≤ idx && idx ≤ 0x13FF && sub = h + 1) ||
  ((idx = 0x2088 || idx = 0x5800 || idx = 0x5802 || idx = 0x6000) && sub = h + 1)

/-- Drop the values and counters of the entries that satisfy `lost`. -/
def odDrop (lost : Nat → Nat → Bool) (d : Dev) : Dev :=
  let f := fun k => lost (k / 256) (k % 256)
  { d with vals := tdrop f d.vals, ctr := tdrop f d.ctr }

/-- The class of an entry, V for a key that names none. -/
def clsOf (idx sub : Nat) : Cls := (odEntry idx sub).elim .v (fun e => e.cls)

/-- An entry's values are the standby controller's own (kept while it runs): it has no unit, or the unit is standby. -/
def odStandby (idx sub : Nat) : Bool :=
  match odEntry idx sub with
  | some e => odByUnit idx e == none
  | none => false

/-- The class V values and counters of one unit are lost (Table 14.4, first row). -/
def odLoseUnit (t : Target) (d : Dev) : Dev :=
  odDrop (fun i s => match odEntry i s with
    | some e => e.cls == .v && odByUnit i e == some t
    | none => false) d

end Sys2Proof.Machine
end

