-- ==== Sys2Proof/Machine/JobOps.lean ====
section
/-!
DEFINITION. Jobs and tiles as shared operations (ch. 8, 9, 13): what a job names and pins, the failure of a tile, the discard of
a tile (R154), lost tiles and the reset epoch (R252), ABORT, and what is freed when the last pin goes (R381).
-/
namespace Sys2Proof.Machine

open Sys2Proof

/-! ### What jobs name -/

/-- The issuers of a job with their programs. -/
def jobIssuers (d : Dev) (j : Job) : List ProgIssuer := (d.progOf j.prog).elim [] (fun p => p.issuers)

/-- Key of a job's parameter block: issuer * 4,096 + instruction. -/
def paramKey (issuer i : Nat) : Nat := issuer * 4096 + i

/-- The parameter block of an instruction: as the loader read it, or as memory holds it before the loader has run (R224). -/
def jobParam (d : Dev) (j : Job) (issuer i : Nat) (t : TInst) : Param :=
  match tfind j.params (paramKey issuer i) with
  | some p => p
  | none => .ofNat (paramNat d issuer t)

/-- Every instruction of a job with its issuer, index and parameter block: sequencers in facet and wedge order, then control
cores, and instructions in program order (R237). -/
def jobInsts (d : Dev) (j : Job) : List (Nat × Nat × TInst × Param) :=
  let all := jobIssuers d j
  let ord := (List.range 0x4010).filterMap (fun c => all.find? (fun i => i.issuer = c))
  (ord.map (fun i => (List.range i.ninst).map (fun k =>
    let t := instAt d i.issuer i.pstart k
    (i.issuer, k, t, jobParam d j i.issuer k t)))).flatten

/-- Descriptors that an instruction names: its operand fields but matrix IDs, its bounds, and its parameter block. -/
def instHandles (t : TInst) (p : Param) : List Nat :=
  let ops := (List.range 6).filterMap (fun o =>
    if isMacroFn t.func && (o = 2 || o = 3) then none else if t.opnd o = 0 then none else some (t.opnd o))
  let bnds := t.bnd.filterMap (fun b => if boundSrc b = 3 then some (bitsOf b.toNat 15 0) else none)
  let ps := [p.hM, p.hS, p.hV, p.oinD, p.oinE, p.ooutD, p.ooutE].filter (· ≠ 0)
  ops ++ bnds ++ ps

/-- The descriptors that a job names, and the index descriptors that those name. -/
def jobHandles (d : Dev) (j : Job) : List Nat :=
  let hs := ((jobInsts d j).map (fun e => instHandles e.2.2.1 e.2.2.2)).flatten
  let idx := hs.filterMap (fun h => (d.descOf h).bind (fun x => if x.ien then some x.idx else none))
  (hs ++ idx).eraseDups

/-- The matrices that a job names. -/
def jobMats (d : Dev) (j : Job) : List Nat :=
  ((jobInsts d j).map (fun e => (instMats e.2.2.1 e.2.2.2).filter (· ≠ 0))).flatten.eraseDups

/-- Jobs accepted and not complete. -/
def liveJobs (d : Dev) : List Job := d.jobs

/-- A matrix that an accepted, incomplete job names (R365). -/
def matNamed (d : Dev) (m : Nat) : Bool := (liveJobs d).any (fun j => (jobMats d j).contains m)

/-- A descriptor in use (R210): named by an accepted job, or as an index tensor by a live descriptor. A job that has passed the
loader has its descriptors with it. -/
def descInUse (d : Dev) (h : Nat) : Bool :=
  (liveJobs d).any (fun j => j.descs.any (fun x => x.handle = h)) || d.descs.any (fun x => x.ien && x.idx = h)

/-- A pinned allocation (R362): by a live descriptor, a job's descriptors, a live program's commit area, an accepted job's slot
vector and transfers. -/
def allocPinned (d : Dev) (h : Nat) : Bool :=
  d.descs.any (fun x => x.alloc = h) || d.progs.any (fun p => p.calloc = h) ||
    (liveJobs d).any (fun j => j.slotAlloc = h || j.xfers.any (fun x => x.alloc = h) || j.descs.any (fun x => x.alloc = h))

/-! ### Freeing (R290, R294, R356, R381) -/

/-- Free an allocation: its lines are unpinned, its frames and its index return. -/
def releaseAlloc (al : Alloc) (d : Dev) : Dev :=
  let d1 := if al.kind = .stack then unpinAlloc al d else d
  let used := al.arcs.map (fun a => [(2 * a.hub, a.frame0), (2 * a.hub + 1, a.frame1)])
  -- small allocations share an arc: its frames stay used while another allocation lies on it
  let shared (f : Nat × Nat) : Bool := d.allocs.any (fun b => b.handle ≠ al.handle && b.kind = .stack &&
    b.arcs.any (fun a => (2 * a.hub, a.frame0) = f || (2 * a.hub + 1, a.frame1) = f))
  let gone := used.flatten.filter (fun f => !shared f)
  let q := tget (IdxQueue.fresh (2 ^ 30 - 1)) d1.allocIdx al.port
  { d1 with allocs := d1.allocs.filter (fun b => b.handle ≠ al.handle),
            usedFrames := d1.usedFrames.filter (fun f => !gone.contains f),
            spans := tdrop (fun k => k / 2 ^ 64 = al.handle) d1.spans,
            allocIdx := tset d1.allocIdx al.port (q.push (al.handle % 2 ^ 30)) }

/-- Remove a program: its issuers are released and its index returns (R370, R381). -/
def releaseProg (p : Program) (d : Dev) : Dev :=
  let q := tget (IdxQueue.fresh (2 ^ 30 - 1)) d.progIdx p.port
  { d with progs := d.progs.filter (fun x => x.handle ≠ p.handle),
           progIdx := tset d.progIdx p.port (q.push (p.handle % 2 ^ 30)) }

/-- Remove a descriptor: its index returns to the tail of its port's queue (R208). -/
def releaseDesc (x : Desc) (d : Dev) : Dev :=
  let q := tget (IdxQueue.fresh 16383) d.descIdx x.port
  { d with descs := d.descs.filter (fun y => y.handle ≠ x.handle),
           descIdx := tset d.descIdx x.port (q.push (x.handle % 2 ^ 14)) }

/-- A FREE that has ended the export of allocation `h` waits for the requests of it (R362). -/
def freeWaits (d : Dev) (h : Nat) : Bool :=
  d.cmds.any (fun c => c.opc = 0x09 && c.stage == .busy && !bitOf (c.P 0) 32 && bitsOf (c.P 0) 31 0 = h)

/-- A remote request that this module's links have admitted for an allocation and not yet applied. -/
def exportBusy (d : Dev) (h : Nat) : Bool := d.links.any (fun e => e.2.rxFrames.any (fun f => f.2 = some h))

/-- What a port reset left to be freed when its last pin goes: programs whose jobs have ended, then allocations without pins whose
admitted remote requests have been applied (R362, R381). -/
def settlePins (d : Dev) : Dev :=
  let d1 := (d.progs.filter (fun p => p.doomed && !(liveJobs d).any (fun j => j.prog = p.handle))).foldl
    (fun d p => releaseProg p d) d
  (d1.allocs.filter (fun a => !a.live && !allocPinned d1 a.handle && !exportBusy d1 a.handle && !freeWaits d1 a.handle)).foldl
    (fun d a => releaseAlloc a d) d1

/-! ### Tiles leaving (R154, R155, R231) -/

/-- A tile meets poison: its job takes UNIT_OFFLINE where a slice dropped the access (R283), the status of a refused remote
read (R324), else MEM_UNCORRECTABLE (R299). -/
def failRead (t : Tile) (d : Dev) : Dev := failTile t (d.gone.getD stMemUe) { d with gone := none }

/-- A tile may still be discarded: it has not passed its test-and-set. -/
def Tile.uncommitted (t : Tile) : Bool := t.stage != .writing

/-- The issuer code of a place in a job: that of control core C0 of its home's hub for a slot that sweeps a counter (R254). -/
def actorOf (d : Dev) (j : Job) (s : IssState) : Nat :=
  if s.issuer < 0x8000 then s.issuer
  else ((d.progOf j.prog).bind (fun g => g.ctr (s.issuer - 0x8000))).elim 0x4000 (fun c => 0x4000 + 4 * issuerHub c.home)

/-- Raise the epoch of a job by one (R252). -/
def raiseEpoch (j : Nat) (d : Dev) : Dev := d.modJob j (fun x => { x with epoch := x.epoch + 1 })

/-- A unit reset loses the tiles that satisfy `hit`, and the claimed, unissued positions of the issuers that satisfy `iss`. The
epoch of each job that loses something rises once (R252). Tiles between their test-and-set and their last write are spared
here; their reset is deferred (R249). -/
def loseTiles (hit : Tile → Bool) (iss : Nat → Bool) (d : Dev) : Dev :=
  let lost := d.tiles.filter (fun t => hit t)
  let jobs := (d.jobs.filter (fun j =>
      lost.any (fun t => t.job = j.id) || j.iss.any (fun s => iss (actorOf d j s) && s.run != []))).map (fun j => j.id)
  let d1 := lost.foldl (fun d t => removeTile t d) d
  let d2 := { d1 with jobs := d1.jobs.map (fun j =>
    { j with iss := j.iss.map (fun s => if iss (actorOf d j s) then { s with run := [], lead := 0, due := false } else s) }) }
  jobs.foldl (fun d j => raiseEpoch j d) d2

/-- The issuers that satisfy `p` are out until they rejoin (R255). -/
def loseIssuers (p : Nat → Bool) (d : Dev) : Dev :=
  { d with jobs := d.jobs.map (fun j => { j with iss := j.iss.map (fun s => if p s.issuer then { s with lost := true } else s) }) }

/-- The issuers of a unit. -/
def issuersIn (t : Target) (c : Nat) : Bool :=
  match t with
  | .wedge f w => c = 16 * f + w
  | .facet f => c / 16 = f
  | .core h _ => c / 4 = 0x1000 + h
  | .hub h => issuerHub c = h
  | _ => false

/-- Issuers that satisfy `p` cannot return: the epoch of each job in which one was not finished rises, unless the loss of what they held
has raised it already (R255; DEDUCED, notes/assumptions/140.md). `b` is the device before that loss. -/
def raiseOut (p : Nat → Bool) (b d : Dev) : Dev :=
  { d with jobs := d.jobs.map (fun j =>
    if j.iss.any (fun s => p s.issuer && s.stage != .finished) ∧ (b.jobOf j.id).elim false (fun x => x.epoch = j.epoch) = true then
      { j with epoch := j.epoch + 1 } else j) }

/-- Every tile of a job is removed, as R154 and R155 say for ABORT. A tile past its test-and-set is a committed tile: its
remaining writes run to their end. -/
def dropJobTiles (j : Nat) (d : Dev) : Dev :=
  (d.tiles.filter (fun t => t.job = j && t.uncommitted)).foldl (fun d t => removeTile t d) d

/-- Abort a job (R373): its tiles are dropped, its issuers stop, its status is ABORTED. -/
def abortJob (j : Nat) (d : Dev) : Dev :=
  let d1 := failJob j stAborted 0 0 0 (dropJobTiles j d)
  d1.modJob j (fun x => { x with fail := some { status := stAborted, detail := 0, issuer := 0, index := 0 } })

/-- The group, active bank's matrix and state, and the matrices of both banks of a macro; those recorded at its wedge's Off until the
wedge is restored (R34). -/
def macGroup (d : Dev) (k : Nat) : Nat := (tfind (d.wedge (k / 192)).saved k).elim (d.mac k).group (fun s => s.group)
def activeMat (d : Dev) (k : Nat) : Nat × BankState :=
  match tfind (d.wedge (k / 192)).saved k with
  | some s => if s.actB then (s.mB, s.stB) else (s.mA, s.stA)
  | none => ((d.mac k).active.matrix, (d.mac k).active.st)

/-- A matrix is in the active bank of its macros (R262). -/
def matActive (d : Dev) (m : Matrix) : Bool := m.place.all (fun k => activeMat d k == (m.id, BankState.ready))

/-- The macros that hold a matrix in either bank. -/
def holdsMat (d : Dev) (g : Nat) (m : Nat) : Bool :=
  d.macros.any (fun e => e.2.group = g && (e.2.bankA.matrix = m || e.2.bankB.matrix = m)) ||
    d.wedges.any (fun w => w.2.saved.any (fun e => e.2.group = g && (e.2.mA = m || e.2.mB = m)))

/-- A tile names a matrix held by a group (R261). -/
def tileOnGroup (d : Dev) (g : Nat) (t : Tile) : Bool :=
  (instMats t.inst t.prm).any (fun m => m ≠ 0 && holdsMat d g m)

/-- The counter entry of a tile. -/
def tileCtr (d : Dev) (t : Tile) : Option CtrEntry :=
  ((d.jobOf t.job).bind (fun j => d.progOf j.prog)).bind (fun p => p.ctr t.ctr)

end Sys2Proof.Machine
end

