-- ==== Sys2Proof/Machine/Crc.lean ====
section
/-!
DEFINITION. Cyclic redundancy checks: the computation of R452 and the CRC-32 of Narsy frames (R316), which is R452's with the
parameters of IEEE 802.3.
-/
namespace Sys2Proof.Machine

open Sys2Proof

/-- The low `w` bits of a number in reverse order. -/
def reverseBits : Nat → Nat → Nat
  | 0, _ => 0
  | w + 1, n => (n % 2) * 2 ^ w + reverseBits w (n / 2)

/-- One bit step of R452. -/
def crcBit (w poly r : Nat) : Nat :=
  let s := (r <<< 1) % 2 ^ w
  if r.testBit (w - 1) then s ^^^ poly else s

/-- `n` bit steps. -/
def crcBits (w poly : Nat) : Nat → Nat → Nat
  | 0, r => r
  | n + 1, r => crcBits w poly n (crcBit w poly r)

/-- Feed one byte (R452). -/
def crcByte (w poly : Nat) (refin : Bool) (r : Nat) (b : Byte) : Nat :=
  let x := if refin then reverseBits 8 b.toNat else b.toNat
  crcBits w poly 8 ((r ^^^ (x <<< (w - 8))) % 2 ^ w)

def crcFeed (w poly : Nat) (refin : Bool) (r : Nat) (bs : Bytes) : Nat := bs.foldl (crcByte w poly refin) r

/-- The CRC value of a running value. -/
def crcOut (w xorout : Nat) (refout : Bool) (r : Nat) : Nat := (if refout then reverseBits w r else r) ^^^ xorout

/-- CRC-32 of IEEE 802.3 (R316). -/
def crc32 (bs : Bytes) : BitVec 32 :=
  BitVec.ofNat 32 (crcOut 32 0xFFFFFFFF true (crcFeed 32 0x04C11DB7 true 0xFFFFFFFF bs))

/-- CRC32C (R405): the Castagnoli polynomial. -/
def crc32c (bs : Bytes) : BitVec 32 :=
  BitVec.ofNat 32 (crcOut 32 0xFFFFFFFF true (crcFeed 32 0x1EDC6F41 true 0xFFFFFFFF bs))

end Sys2Proof.Machine
end

