-- ==== Sys2Proof/Machine/JournalBase.lean ====
section
/-!
DEFINITION. Class P writes on their way to the journal (R392 to R394, R404 to R407): the value that an entry will hold once the
records ahead of it are programmed, and the firmware's own writes, which draw no token.
-/
namespace Sys2Proof.Machine

open Sys2Proof

/-- The default value of an entry. -/
def defaultBytes (e : OdEntry) : Bytes :=
  if e.typ = 7 ∨ e.typ = 8 then [] else if e.typ = 9 then toLe e.len 0 else toLe e.len e.dflt

/-- The value that a class P entry holds. The security entries live in `Sec`. -/
def Dev.heldP (d : Dev) (idx sub : Nat) : Bytes :=
  if idx = 0x7001 then (if sub = 1 then toLe 1 d.sec.lcs else toLe 4 d.sec.lcount)
  else if idx = 0x7002 ∧ sub = 2 then toLe 4 d.sec.tcount
  else if idx = 0x7003 ∧ sub = 2 then toLe 4 d.sec.boots
  else match tfind d.vals (odKey idx sub) with
    | some b => b
    | none => (odEntry idx sub).elim [] defaultBytes

/-- The last value that a list of writes gives the entry `key`. -/
def lastVal (key : Nat) (ws : List JWrite) : Option Bytes :=
  ((ws.map (fun w => w.vals)).flatten.filter (fun e => e.1 = key)).getLast?.map Prod.snd

/-- The value that the entry will hold when every waiting record is programmed. -/
def Dev.latestP (d : Dev) (idx sub : Nat) : Bytes :=
  match lastVal (odKey idx sub) d.jour.waiting with
  | some b => b
  | none => d.heldP idx sub

/-- Queue a record behind those that wait (R394). -/
def Dev.queueP (d : Dev) (vals : List (Nat × Bytes)) (w : JWaiter) (paid : Bool) : Dev :=
  { d with jour := { d.jour with waiting := d.jour.waiting ++ [{ vals := vals, waiter := w, tries := 0, paid := paid }] } }

/-- The record of an entry is still to be programmed. -/
def Dev.pendingP (d : Dev) (key : Nat) : Bool := d.jour.waiting.any (fun w => w.vals.any (fun e => e.1 = key))

/-- A write of the firmware: no token (R407), no record when nothing changes (R393). -/
def Dev.fwP (d : Dev) (idx sub : Nat) (b : Bytes) : Dev :=
  if d.latestP idx sub = b then d else d.queueP [(odKey idx sub, b)] .other true

/-- The firmware moves a class P count by `delta`, at least to 0. -/
def Dev.fwCount (d : Dev) (idx sub len : Nat) (delta : Int) : Dev :=
  d.fwP idx sub (toLe len ((leNat (d.latestP idx sub) : Int) + delta).toNat)

/-- Hold a class P value: what a programmed record brings about. -/
def Dev.holdP (d : Dev) (key : Nat) (b : Bytes) : Dev := { d with vals := tset d.vals key b }

/-! ### What stands on the flash (R404, R405) -/

/-- Bytes that a record takes (R405). -/
def recordBytes (n : Nat) : Nat := roundUp (16 + roundUp n 4 + 4) 16

/-- Bytes of a region. -/
def regionBytes : Nat := 0x02000000

/-- The header of a record (Table 14.12) and its padded value, which the CRC covers. -/
def recordBody (idx sub typ : Nat) (val : Bytes) (seq : Nat) : Bytes :=
  toLe 2 idx ++ toLe 1 sub ++ toLe 1 typ ++ toLe 2 val.length ++ toLe 2 0 ++ toLe 8 seq ++ padTo (roundUp val.length 4) val

/-- A record as it is programmed (R405). -/
def recordImage (idx sub typ : Nat) (val : Bytes) (seq : Nat) : Bytes :=
  let body := recordBody idx sub typ val seq
  padTo (recordBytes val.length) (body ++ toLe 4 (crc32c body).toNat)

/-- The fields of a record. -/
def JRec.idx (r : JRec) : Nat := fieldAt r.bytes 0 2
def JRec.sub (r : JRec) : Nat := fieldAt r.bytes 2 1
def JRec.typ (r : JRec) : Nat := fieldAt r.bytes 3 1 % 16
def JRec.len (r : JRec) : Nat := fieldAt r.bytes 4 2
def JRec.seq (r : JRec) : Nat := fieldAt r.bytes 8 8
def JRec.val (r : JRec) : Bytes := (r.bytes.drop 16).take r.len
def JRec.key (r : JRec) : Nat := odKey r.idx r.sub

/-- The length fits the type (Table 14.1). -/
def lenFits (typ len : Nat) : Bool := if typ = 7 then len ≤ 256 else if typ = 8 then len ≤ 3072 else if typ = 9 then len ≤ 256 else len = typeLen typ

/-- A record that the scan applies: its CRC is right, its length fits its type, and it ends within the region (Table 14.14 order 3). -/
def JRec.good (r : JRec) : Bool :=
  let n := 16 + roundUp r.len 4
  !r.torn && decide (fieldAt r.bytes n 4 = (crc32c (r.bytes.take n)).toNat) && lenFits r.typ r.len &&
    decide (r.off + recordBytes r.len ≤ regionBytes)

/-- The header of a region (Table 14.10): 64 bytes. -/
def headerImage (gen seq0 : Nat) : Bytes :=
  let b := toLe 4 0x4E524A4B ++ toLe 1 1 ++ toLe 3 0 ++ toLe 8 gen ++ toLe 8 seq0 ++ toLe 4 regionBytes
  padTo 64 (b ++ toLe 4 (crc32c b).toNat)

/-- The commit marker of a region (Table 14.11): 16 bytes. -/
def markerImage (gen ncopy : Nat) : Bytes :=
  let b := toLe 8 gen ++ toLe 4 ncopy
  b ++ toLe 4 (crc32c b).toNat

def JRegion.gen (r : JRegion) : Nat := fieldAt r.header 8 8

/-- A region is valid: magic, version and CRC of its header are right, and its commit marker's generation and CRC match (R404). -/
def JRegion.valid (r : JRegion) : Bool :=
  decide (fieldAt r.header 0 4 = 0x4E524A4B) && decide (fieldAt r.header 4 1 = 1) &&
    decide (fieldAt r.header 28 4 = (crc32c (r.header.take 28)).toNat) &&
    decide (r.marker ≠ []) && decide (fieldAt r.marker 0 8 = r.gen) && decide (fieldAt r.marker 12 4 = (crc32c (r.marker.take 12)).toNat)

end Sys2Proof.Machine
end

