-- ==== Sys2Proof/Machine/BankImage.lean ====
section
/-!
DEFINITION. Weight images and banks (ch. 2, 3, 16): the row words of the three packings, the image of R364 with its faults, the
scales of R110, check signatures, column repair, marks and outlier copies of a written bank.
-/
namespace Sys2Proof.Machine

open Sys2Proof

/-! ### Row words (R25, R26, R64, R66) -/

/-- A signed weight in sign-magnitude columns of `k` bits: the magnitude in the positive or the negative half. -/
def signMag (k : Nat) (w : Int) : Nat := if w > 0 then w.natAbs else w.natAbs * 2 ^ k

/-- Even parity over the 14 data columns in column 15 (R27). -/
def withParity (w : Nat) : BitVec 16 := BitVec.ofNat 16 (w + parityOf 14 w * 2 ^ 15)

/-- A repaired column is copied into column 14 (R28, R444). `rep` is 0, or c + 1 for column c. -/
def withSpare (rep : Nat) (w : BitVec 16) : BitVec 16 :=
  if rep = 0 then w &&& 0xBFFF
  else if w.getLsbD (rep - 1) then w ||| 0x4000 else w &&& 0xBFFF

/-- Logical units that one physical unit holds. -/
def unitsPer : Packing → Nat
  | .int8 => 1
  | .int4 => 2
  | .ternary => 7

/-- The data columns of logical unit `i` of a physical unit, for weight w. -/
def unitBits (p : Packing) (i : Nat) (w : Int) : Nat :=
  match p with
  | .int8 => signMag 7 w
  | .int4 => signMag 3 w * 2 ^ (6 * i)
  | .ternary => if w > 0 then 2 ^ i else if w < 0 then 2 ^ (7 + i) else 0

/-- The weight of logical unit `i` that a row word holds. -/
def wordWeight (p : Packing) (i : Nat) (w : BitVec 16) : Int :=
  let n := w.toNat
  match p with
  | .int8 => (bitsOf n 6 0 : Int) - bitsOf n 13 7
  | .int4 => (bitsOf n (6 * i + 2) (6 * i) : Int) - bitsOf n (6 * i + 5) (6 * i + 3)
  | .ternary => (bitsOf n i i : Int) - bitsOf n (7 + i) (7 + i)

/-- The row word of a physical unit. -/
def Bank.word (k : Bank) (unit row : Nat) : BitVec 16 := tget 0 k.words (unit * 32 + row)

/-- The weight of logical unit j in a row of a bank. -/
def Bank.weight (k : Bank) (row j : Nat) : Int :=
  wordWeight k.packing (j % unitsPer k.packing) (k.word (j / unitsPer k.packing) row)

/-- The bits of a column over the 32 rows (Table 3.7). -/
def Bank.column (k : Bank) (unit col : Nat) : BitVec 32 :=
  BitVec.ofNat 32 (((List.range 32).map (fun r => if (k.word unit r).getLsbD col then 2 ^ r else 0)).sum)

/-! ### Check signatures (R436, R437) -/

def checkPattern (k : Nat) : BitVec 32 := nth 0xFFFFFFFF [0xFFFFFFFF, 0x55555555, 0x9A6C2D31, 0x4B35C8E2] k

/-- Rows set in both a pattern and a column. -/
def Bank.count (k : Bank) (unit col : Nat) (plane : BitVec 32) : Nat :=
  popcount 32 ((k.column unit col &&& plane).toNat)

/-- The signature of a unit and pattern as the bank's words give it. -/
def Bank.signature (k : Bank) (unit pat : Nat) : Nat :=
  ((List.range 14).map (fun c => (2 * c + 1) * k.count unit c (checkPattern pat))).sum % 251

/-- Fill the check store of a bank from its words. -/
def Bank.withSigs (k : Bank) : Bank :=
  { k with sigs := ((List.range 4096).map (fun i => (i, k.signature (i / 4) (i % 4)))).filter (fun e => e.2 ≠ 0) }

/-! ### Images (R364, R365, R110) -/

/-- Bits of one weight in an image. -/
def imgBits (p : Packing) (source : Nat) : Nat :=
  match source with
  | 0 => (match p with | .int8 => 8 | .int4 => 4 | .ternary => 2)
  | 1 => 32
  | 2 => 16
  | 3 => 16
  | _ => 8

/-- Bytes of one macro in an image. -/
def imgMacroBytes (p : Packing) (source : Nat) : Nat :=
  4 * unitsOf p * imgBits p source + (if source = 0 then 2 * unitsOf p else 0)

def imgBytes (m : Matrix) : Nat := imgMacroBytes m.packing m.source * (m.rowBlocks * m.colBlocks)

/-- The part of macro e, as one number. -/
def imgMacro (m : Matrix) (img e : Nat) : Nat :=
  let b := 8 * imgMacroBytes m.packing m.source
  img >>> (b * e) % 2 ^ b

/-- Weight (row, j) of a macro's part, as its bits. -/
def imgElem (m : Matrix) (part row j : Nat) : Nat :=
  let b := imgBits m.packing m.source
  part >>> (b * (row * unitsOf m.packing + j)) % 2 ^ b

/-- FP16 weight scale j of a native image. -/
def imgScale (m : Matrix) (part j : Nat) : BitVec 16 :=
  BitVec.ofNat 16 (part >>> (imgBits m.packing m.source * 32 * unitsOf m.packing + 16 * j))

/-- Valid logical units and rows of macro e. -/
def validUnits (m : Matrix) (e : Nat) : Nat := min (unitsOf m.packing) (m.cols - e / m.rowBlocks * unitsOf m.packing)
def validRows (m : Matrix) (e : Nat) : Nat := min 32 (m.rows - e % m.rowBlocks * 32)

/-- The value of a weight of a floating source. -/
def imgFp (m : Matrix) (bits : Nat) : Fp := Fp.decode (srcFmt m.source) bits

/-- What is wrong with one weight: nonzero padding 6, ternary code 10 7, a value that is not finite 8 (R365). -/
def elemFault (m : Matrix) (pad : Bool) (bits : Nat) : Option Nat :=
  if m.source = 0 then
    (if pad && bits != 0 then some 6 else if m.packing = .ternary ∧ bits = 2 then some 7 else none)
  else
    match imgFp m bits with
    | .fin _ q => if pad && q != 0 then some 6 else none
    | _ => some (if pad then 6 else 8)

/-- The first fault of a macro's part, in image order. -/
def macroFault (m : Matrix) (part e : Nat) : Option Nat :=
  let u := unitsOf m.packing
  let rows := (List.range (32 * u)).findSome? (fun i =>
    elemFault m (decide (i / u ≥ validRows m e) || decide (i % u ≥ validUnits m e)) (imgElem m part (i / u) (i % u)))
  match rows with
  | some f => some f
  | none =>
    if m.source = 0 ∧ (List.range u).any (fun j =>
        decide (j ≥ validUnits m e) && (imgScale m part j &&& 0x7FFF) != 0) then some 6 else none

/-- The first fault of an image. -/
def imageFault (m : Matrix) (img : Nat) : Option Nat :=
  (List.range (m.rowBlocks * m.colBlocks)).findSome? (fun e => macroFault m (imgMacro m img e) e)

/-- The FP16 scale of a unit of a floating source (R110). -/
def fpScale (m : Matrix) (part j : Nat) : BitVec 16 :=
  let a := ((List.range 32).map (fun r => match imgFp m (imgElem m part r j) with
    | .fin _ q => q
    | _ => 0)).foldl max 0
  fp16AtLeast (a / (if m.packing = .int4 then 7 else 127))

/-- The scale that the bank holds for logical unit j. -/
def scaleOf (m : Matrix) (part j : Nat) : BitVec 16 := if m.source = 0 then imgScale m part j else fpScale m part j

/-- The weight that the load engine writes, after the clamps of R26 and R65 or the conversion of R110. -/
def weightOf (m : Matrix) (part row j : Nat) : Int :=
  let b := imgElem m part row j
  if m.source = 0 then
    match m.packing with
    | .int8 => max (-127) (sext 8 b)
    | .int4 => max (-7) (sext 4 b)
    | .ternary => if b = 1 then 1 else if b = 3 then -1 else 0
  else
    match Fp.decode fmt16 (fpScale m part j).toNat with
    | .fin _ s => if s = 0 then 0 else rneInt ((imgFp m b).toRat / s)
    | _ => 0

/-- Weights of -128 (INT8) or -8 (INT4) that the load engine clamps (R26, R65). -/
def clampsOf (m : Matrix) (part : Nat) : Nat :=
  let u := unitsOf m.packing
  if m.source = 0 ∧ m.packing ≠ .ternary then
    ((List.range (32 * u)).filter (fun i =>
      imgElem m part (i / u) (i % u) = (if m.packing = .int8 then 0x80 else 8))).length
  else 0

/-- The bank that macro e of a matrix becomes. -/
def bankOf (m : Matrix) (part e : Nat) : Bank :=
  let n := unitsPer m.packing
  let words := (List.range (1024 * 32)).filterMap (fun k =>
    let w := ((List.range n).map (fun i => unitBits m.packing i (weightOf m part (k % 32) (k / 32 * n + i)))).sum
    if w = 0 then none else some (k, withParity w))
  let scales := (List.range (validUnits m e)).filterMap (fun j =>
    let s := scaleOf m part j
    if s = 0 then none else some (j, s))
  ({ st := .ready, packing := m.packing, matrix := m.id, rb := e % m.rowBlocks, cb := e / m.rowBlocks, words := words,
     scales := scales, sigs := [], repair := [], valid := validUnits m e } : Bank).withSigs

/-! ### Verify and repair (R442, R444) -/

/-- Repair one column of a unit of a bank. -/
def Bank.repaired (k : Bank) (unit col : Nat) : Bank :=
  { k with repair := tset k.repair unit (col + 1),
           words := k.words.map (fun e => if e.1 / 32 = unit then (e.1, withSpare (col + 1) e.2) else e) }

/-- Errors that a repair mends: units with exactly one column in error. -/
def mendable (errs : List (Nat × Nat)) : Bool :=
  errs.all (fun a => errs.all (fun b => a.1 != b.1 || a.2 == b.2))

/-- Repair the columns that a verify found, posting COLUMN_REPAIR for each (R444). -/
def repairBank (m : Nat) (b : Bool) (errs : List (Nat × Nat)) (d : Dev) : Dev :=
  errs.eraseDups.foldl (fun d e =>
    let d1 := d.modMac m (fun x => x.setBank b ((x.bank b).repaired e.1 e.2))
    (d1.post evColumnRepair (hubOfMacro m) (macroTarget m) []).fwCount 0x5015 (ssFacet (facetOfMacro m)) 4 1) d

/-- A write of a bank ends the repairs that it held (R444). -/
def dropRepairs (m : Nat) (b : Bool) (d : Dev) : Dev :=
  let n := ((d.mac m).bank b).repair.length
  if n = 0 then d else d.fwCount 0x5015 (ssFacet (facetOfMacro m)) 4 (-(n : Int))

/-- The repairs of every bank of the macros that satisfy `p` are gone with what the banks held (R444). -/
def dropAllRepairs (p : Nat → Bool) (d : Dev) : Dev :=
  ((d.macros.filter (fun e => p e.1)).map Prod.fst).foldl (fun (d : Dev) m => dropRepairs m true (dropRepairs m false d)) d

/-! ### Marks and outlier copies of a bank (R77, R80, R82) -/

/-- The marked-column entries of a macro's slot. -/
def slotMarks (d : Dev) (m : Nat) : Tab Mark :=
  (d.wedge (m / 192)).marks.filter (fun e => e.1 / 8 = slotOf d m)

/-- A bank has been written: the data field of that bank in every valid entry of the macro's slot follows, and the checks of its new
signatures are not suspended. -/
def refreshMarks (m : Nat) (b : Bool) (d : Dev) : Dev :=
  let k := (d.mac m).bank b
  let s := slotOf d m
  d.modWedge (m / 192) (fun w => { w with
    ksSusp := w.ksSusp.filter (fun e => e ≠ (s, b)),
    marks := w.marks.map (fun e =>
      if e.1 / 8 = s then
        (e.1, if b then { e.2 with dataB := k.column e.2.unit e.2.col } else { e.2 with dataA := k.column e.2.unit e.2.col })
      else e) })

/-- Free the copies and directory entries that belong to a bank (R82). -/
def freeCopies (m : Nat) (b : Bool) (d : Dev) : Dev :=
  d.modWedge (m / 192) (fun w =>
    let gone := (w.dir.filter (fun e => e.2.mac = m % 192 && e.2.bankB = b)).map Prod.fst
    { w with dir := w.dir.filter (fun e => !gone.contains e.1),
             copies := tdrop (fun a => gone.contains (a / 1024)) w.copies })

/-- The 1,024 bytes of an outlier copy of a bank row (R80). -/
def copyBytes (k : Bank) (row : Nat) : Bytes :=
  (List.range 1024).map (fun u =>
    match k.packing with
    | .int8 => BitVec.ofInt 8 (k.weight row u)
    | _ => BitVec.ofNat 8 ((k.weight row (2 * u) % 16).toNat + (k.weight row (2 * u + 1) % 16).toNat * 16))

/-- The copies that a matrix needs in a wedge: macro, row, position in the outlier list. -/
def copiesNeeded (mat : Matrix) (w : Nat) : List (Nat × Nat × Nat) :=
  ((mat.outliers.zipIdx).map (fun e =>
    (List.range mat.colBlocks).filterMap (fun cb =>
      let m := mat.placed (e.1 / 32) cb
      if m / 192 = w then some (m, e.1 % 32, e.2) else none))).flatten

/-- Allocate the copies of a matrix in one wedge, all or nothing (R82), the lowest free copies in the order of the outlier list (DESIGN
CHOICE, notes/assumptions/128.md). `onB m` is the bank of macro m that holds it. -/
def placeCopies (mat : Matrix) (onB : Nat → Bool) (w : Nat) (d : Dev) : Dev :=
  let need := copiesNeeded mat w
  let free := (List.range 39).filter (fun c => (tfind (d.wedge w).dir c).isNone)
  if need.isEmpty then d
  else if free.length < need.length then
    (d.modWedge w (fun g => { g with xoOut := g.xoOut ++ [mat.id] })).post evOutlierOverflow (hubOfWedge w) (wedgeTarget w) []
  else
    (free.zip need).foldl (fun d e =>
      let m := e.2.1
      d.modWedge w (fun g =>
        { g with dir := tset g.dir e.1 { mac := m % 192, row := e.2.2.1, bankB := onB m, oidx := e.2.2.2 },
                 copies := mwrite g.copies (1024 * e.1) (copyBytes ((d.mac m).bank (onB m)) e.2.2.1) })) d

/-! ### Matrices -/

/-- A matrix is destroyed (R366): its ID goes to the tail of the queue, no bank holds it any more. -/
def destroyMatrix (id : Nat) (d : Dev) : Dev :=
  if id = 0 ∨ !(d.mats.any (fun m => m.id = id)) then d
  else
    let strip (k : Bank) : Bank := if k.matrix = id then { k with matrix := 0 } else k
    { d with mats := d.mats.filter (fun m => m.id ≠ id), matIdx := d.matIdx.push id,
             macros := d.macros.map (fun e => (e.1, { e.2 with bankA := strip e.2.bankA, bankB := strip e.2.bankB })),
             wedges := d.wedges.map (fun e => (e.1, { e.2 with
               xoOut := e.2.xoOut.filter (· ≠ id),
               saved := e.2.saved.map (fun r => (r.1, { r.2 with mA := if r.2.mA = id then 0 else r.2.mA,
                                                                 mB := if r.2.mB = id then 0 else r.2.mB })) })) }

/-- The image of a matrix as a device allocation gives it: poison and a gone allocation are failures (R443). -/
def deviceImage (v : Variant) (m : Matrix) (o n : Nat) (d : Dev) : Option Bytes × Dev :=
  match d.allocOf m.imgAlloc with
  | none => (none, d)
  | some al =>
    if al.kind ≠ .stack ∨ al.size < m.imgAddr + o + n then (none, d)
    else
      let r := devRead v al (m.imgAddr + o) n d
      (if r.2.1 then none else some r.1, r.2.2)

/-- Bytes `o` to `o + n - 1` of a matrix's image: from its allocation, or what the host's memory gave. -/
def imageRead (v : Variant) (m : Matrix) (o n : Nat) (host : HostRead) (d : Dev) : Option Bytes × Dev :=
  if m.imgAlloc ≠ 0 then deviceImage v m o n d
  else match host with
    | .ok b => (some b, d)
    | .fail _ => (none, d)

/-- Weights that the load engine clamped as it wrote a bank are counted (R26, R65). -/
def countClamps (mat : Matrix) (part m : Nat) (d : Dev) : Dev :=
  let n := clampsOf mat part
  if n = 0 then d else d.count (if mat.packing = .int8 then 0x2027 else 0x2029) (ssFacet (facetOfMacro m)) n

/-- Rewrite one bank of a macro from the image part of its matrix (R34, R441, R445), keeping matrix and group: words, parity,
scales, signatures, and its outlier copies' place in the store. -/
def rewriteBank (mat : Matrix) (part m : Nat) (b : Bool) (d : Dev) : Dev :=
  let k := (d.mac m).bank b
  let e := k.cb * mat.rowBlocks + k.rb
  let d1 := countClamps mat part m (dropRepairs m b d)
  refreshMarks m b (d1.modMac m (fun x => x.setBank b (bankOf mat part e)))

end Sys2Proof.Machine
end

