-- ==== Sys2Proof/Machine/HostQueues.lean ====
section
/-!
DEFINITION. Host queues and the port (ch. 13): doorbells, enabling and disabling, BAR0 writes, fetch with the checks of
Table 13.5, completions, D3hot and D0.
-/
namespace Sys2Proof.Machine

open Sys2Proof

/-- The host reaches the port: it is present, its link is up, no port reset is in progress (R12, R381). -/
def portUp (v : Variant) (d : Dev) (p : Nat) : Bool :=
  portPresent v p && (d.port p).linkUp && !(d.port p).resetting

/-! ### Doorbells and queue enables (R345, R346) -/

/-- A write of sqtail: beyond the queue size it is ignored and counted in OD 0x1205 (R346). -/
def sqDoorbellOp (v : Variant) (p q : Nat) (tail : BitVec 12) (d : Dev) : Dev :=
  if portUp v d p && decide (q < 16) then
    let Q := d.queue p q
    if Q.sqsize < tail then d.count 0x1205 (p + 1) 1 else d.setQueue p q { Q with sqtail := tail }
  else d

/-- A write of cqhead (R346, R348). -/
def cqDoorbellOp (v : Variant) (p q : Nat) (head : BitVec 12) (d : Dev) : Dev :=
  if portUp v d p && decide (q < 16) then
    let Q := d.queue p q
    if Q.cqsize < head then d.count 0x1205 (p + 1) 1 else d.setQueue p q { Q with cqhead := head }
  else d

/-- A write of en = 1: sqhead, cqtail and anext become 0 and the first phase is 1 (R346). While en reads 1 it changes
nothing. -/
def queueEnableOp (v : Variant) (p q : Nat) (d : Dev) : Dev :=
  if portUp v d p && decide (q < 16) then
    let Q := d.queue p q
    if Q.en then d else d.setQueue p q { Q with en := true, sqhead := 0, cqtail := 0, anext := 0, phase := true }
  else d

/-- A write of en = 0: fetching stops and en reads 1 until the queue has drained (R346). -/
def queueDisableOp (v : Variant) (p q : Nat) (d : Dev) : Dev :=
  if portUp v d p && decide (q < 16) then
    let Q := d.queue p q
    if Q.en then d.setQueue p q { Q with disabling := true } else d
  else d

/-- No command fetched from the queue is in flight and no completion of it waits. -/
def queueDrained (d : Dev) (p q : Nat) : Bool :=
  d.cmds.all (fun c => !(c.port == p && c.q == q)) && d.comps.all (fun c => !(c.port == p && c.q == q))

/-- A disabled queue that has drained reads en = 0 (R346). -/
def queueDisableDoneOp (p q : Nat) (d : Dev) : Dev :=
  let Q := d.queue p q
  if Q.disabling && queueDrained d p q then d.setQueue p q { Q with en := false, disabling := false } else d

/-! ### BAR0 writes (R344, R345, R402) -/

/-- Byte i of a number replaced. -/
def patchByte (v i : Nat) (b : Byte) : Nat := v - bitsOf v (8 * i + 7) (8 * i) * 2 ^ (8 * i) + b.toNat * 2 ^ (8 * i)

/-- A byte written at offset r of a queue pair's registers (Table 13.3): bases and sizes only while en reads 0; the en bit
and the doorbells have commands of their own; RO fields do not change. -/
def queueByte (Q : Queue) (r : Nat) (b : Byte) : Queue :=
  let Q1 : Queue :=
    if Q.en then Q
    else if r < 8 then { Q with sqbase := BitVec.ofNat 64 (patchByte Q.sqbase.toNat r b) &&& ~~~0xFFF }
    else if r < 16 then { Q with cqbase := BitVec.ofNat 64 (patchByte Q.cqbase.toNat (r - 8) b) &&& ~~~0xFFF }
    else if r = 16 ∨ r = 17 then { Q with sqsize := BitVec.ofNat 12 (patchByte Q.sqsize.toNat (r - 16) b) }
    else if r = 18 then { Q with cqsize := BitVec.ofNat 12 (patchByte Q.cqsize.toNat 0 b) }
    else if r = 19 then { Q with cqsize := BitVec.ofNat 12 (patchByte Q.cqsize.toNat 1 (b &&& 0x0F)) }
    else Q
  if r = 19 then { Q1 with ie := b.getLsbD 5 } else Q1

/-- A byte written at a BAR0 offset (Table 13.2). An unlisted offset, and a read-only one, ignores it. -/
def bar0Byte (p : Nat) (d : Dev) (off : Nat) (b : Byte) : Dev :=
  if 0x100 ≤ off ∧ off < 0x500 then
    let q := (off - 0x100) / 0x40
    d.setQueue p q (queueByte (d.queue p q) ((off - 0x100) % 0x40) b)
  else if 0x1000 ≤ off ∧ off < 0x2000 then
    d.modPort p (fun hp => { hp with mailIn := mput hp.mailIn (off - 0x1000) b })
  else if off = 0x3000 ∨ off = 0x3001 then
    d.modPort p (fun hp => { hp with hlen := BitVec.ofNat 13 (patchByte hp.hlen.toNat (off - 0x3000) b) })
  else if off = 0x3002 then
    d.modPort p (fun hp => { hp with done := hp.done && !b.getLsbD 1, go := hp.go || (b.getLsbD 0 && !hp.done) })
  else if 0x8000 ≤ off ∧ off < 0x8110 then
    let n := (off - 0x8000) / 16
    d.modPort p (fun hp =>
      { hp with
        msixTable := mput hp.msixTable (off - 0x8000) b,
        msixMask := if (off - 0x8000) % 16 = 12 then
            (if b.getLsbD 0 then hp.msixMask ||| BitVec.ofNat 17 (2 ^ n) else hp.msixMask &&& ~~~(BitVec.ofNat 17 (2 ^ n)))
          else hp.msixMask })
  else d

/-- A register write of 1 to 8 bytes, byte by byte; an unmasked vector that is pending is then sent (R343). -/
def bar0WriteOp (v : Variant) (p off size : Nat) (value : BitVec 64) (d : Dev) : Dev :=
  if portUp v d p then
    let bs := toLe (min size 8) value.toNat
    let d1 := (bs.zipIdx).foldl (fun d e => bar0Byte p d (off + e.2) e.1) d
    if 0x8000 ≤ off ∧ off < 0x8110 then d1.flushMsix p else d1
  else d

/-! ### What BAR0 reads (R344, R345, R402) -/

/-- A bit at its place in a register. -/
def bitAt (b : Bool) (i : Nat) : Nat := b.toNat * 2 ^ i

/-- Port status at offset 0x0000 (Table 13.2). -/
def portStatus (p : Nat) (x : HostPort) : Nat :=
  bitAt (x.ready && !x.resetting) 0 + bitAt x.resetting 1 + x.gen % 4 * 2 ^ 2 + p % 16 * 2 ^ 4

/-- The registers of one queue pair (Table 13.3): the doorbells are write-only and read zero. -/
def queueRegs (Q : Queue) : Nat :=
  Q.sqbase.toNat + Q.cqbase.toNat * 2 ^ 64 + Q.sqsize.toNat * 2 ^ 128 + Q.cqsize.toNat * 2 ^ 144 + bitAt Q.en 156 + bitAt Q.ie 157 +
    Q.anext.toNat * 2 ^ 160 + Q.sqhead.toNat * 2 ^ 256 + Q.cqtail.toNat * 2 ^ 288

/-- Mailbox control (Table 14.9). -/
def mailControl (x : HostPort) : Nat := x.hlen.toNat + bitAt x.go 16 + bitAt x.done 17 + x.rlen.toNat * 2 ^ 32

/-- Byte i of a register. -/
def regByte (v i : Nat) : Byte := BitVec.ofNat 8 (v / 2 ^ (8 * i))

/-- A byte of the MSI-X table: bit 0 of a vector's control word is its mask. -/
def msixByte (x : HostPort) (i : Nat) : Byte :=
  let b := mget x.msixTable i
  if i % 16 = 12 then (b &&& 0xFE) ||| (if x.msixMask.getLsbD (i / 16) then 1 else 0) else b

/-- What a host's read of a byte of BAR0 gives: a register of Table 13.2, or zero at an unlisted offset. -/
def bar0Read (d : Dev) (p off : Nat) : Byte :=
  let x := d.port p
  if off < 8 then regByte (portStatus p x) off
  else if 0x100 ≤ off ∧ off < 0x500 then regByte (queueRegs (d.queue p ((off - 0x100) / 0x40))) ((off - 0x100) % 0x40)
  else if 0x1000 ≤ off ∧ off < 0x2000 then mget x.mailIn (off - 0x1000)
  else if 0x2000 ≤ off ∧ off < 0x3000 then mget x.mailOut (off - 0x2000)
  else if 0x3000 ≤ off ∧ off < 0x3010 then regByte (mailControl x) (off - 0x3000)
  else if 0x8000 ≤ off ∧ off < 0x8110 then msixByte x (off - 0x8000)
  else if 0x9000 ≤ off ∧ off < 0x9008 then regByte x.msixPend.toNat (off - 0x9000)
  else 0

/-! ### Fetch and the checks of Table 13.5 (R347, R349 to R351) -/

/-- The opcodes of Table 13.7. -/
def opcodeKnown (opc : Nat) : Bool :=
  opc ∈ [0x01, 0x02, 0x03, 0x08, 0x09, 0x0A, 0x0B, 0x10, 0x11, 0x18, 0x19, 0x1A, 0x1B, 0x20, 0x28, 0x29, 0x2A, 0x30]

/-- The bits of parameter words P0 to P6 that Table 13.8 lists; every other bit is reserved (R355), and so is the rsv field of the issuer
code that ALLOC of a halo allocation carries (Table 9.1). Bits 15:3 of P2 of a remote window count as listed, for the halo kind lists them,
and are refused by their range (DESIGN CHOICE, notes/assumptions/142.md). -/
def listedBits (opc p1 : Nat) : List Nat :=
  let w := 2 ^ 64 - 1
  let h := 2 ^ 32 - 1
  match opc with
  | 0x01 => [w, 0x3, 0, 0, 0, 0, 0]
  | 0x02 => [0xFFFFFF, w, h, 0, 0, 0, 0]
  | 0x03 => [0xFFFFFF, w, h, w, 0, 0, 0]
  | 0x08 => [w, 0xFFFFFF, if bitsOf p1 1 0 = 1 then 0xC3FF else 0xFFFF, w, 0xFFF, 0, 0]
  | 0x09 => [0x1FFFFFFFF, 0, 0, 0, 0, 0, 0]
  | 0x0A => [w, 0, 0, 0, 0, 0, 0]
  | 0x0B => [0xFFFF, 0, 0, 0, 0, 0, 0]
  | 0x10 => [w, h, w, 0x1FFFFFF, w, w, 0]
  | 0x11 => [0xFFF, 0, 0, 0, 0, 0, 0]
  | 0x18 => [w, h, 0, 0, 0, 0, 0]
  | 0x19 => [h, h, w, w, 0x1FF, 0, 0]
  | 0x1A => [0x3, 0, 0, 0, 0, 0, 0]
  | 0x1B => [0xFFFFF, 0, 0, 0, 0, 0, 0]
  | 0x20 => [0xFF0FFF, h, 0, 0, 0, 0, 0]
  | 0x28 => [0x00FFFFFF, 0, 0, 0, 0, 0, 0]
  | 0x29 => [0x00FFFFFF, 0xF, 0, 0, 0, 0, 0]
  | 0x2A => [0x00FFFFFF, 0, 0, 0, 0, 0, 0]
  | 0x30 => [0x33F, 0x11FFF, w, w, w, 0x1FF, w]
  | _ => []

/-- Order 3: every reserved bit is zero. -/
def reservedClear (opc rsv : Nat) (p : List (BitVec 64)) : Bool :=
  rsv = 0 && (List.range 7).all (fun j => (nth 0 p j).toNat &&& (2 ^ 64 - 1 - nth 0 (listedBits opc (nth 0 p 1).toNat) j) == 0)

/-- PHASE HINT's field masks: phase 7:0, hubs 11:8, target 23:16. -/
def hintHubs (p0 : Nat) : List Nat := (List.range 4).filter (fun h => p0.testBit (8 + h))

/-- The kind field of a check engine's stream select (Table 16.5): 0 to 4. -/
def ceKind (p1 : Nat) : Nat := bitsOf p1 3 0

/-- The hub on which a selected stream lies, for kinds that name a unit: a link's hub; stacks and DMA lie on the engine's. -/
def ceStreamHub (engine p1 : Nat) : Nat :=
  if ceKind p1 = 2 ∨ ceKind p1 = 3 then bitsOf p1 9 4 / 16 else engine / 16

/-- The unit whose stream a configuration selects: a link of its number, or a stack of the engine's hub (Table 16.5). -/
def ceStreamUnit (engine p1 : Nat) : Option Target :=
  let i := bitsOf p1 9 4
  if ceKind p1 = 2 ∨ ceKind p1 = 3 then some (.link i)
  else if ceKind p1 = 4 ∧ i ≤ 1 then some (.stack (engine / 16) i)
  else none

/-- A target that a command names, for order 4: absence, then service. -/
def targetStatus (v : Variant) (d : Dev) (t : Target) : BitVec 8 :=
  if !targetPresent v t then stUnitAbsent
  else if targetOffline d t then stUnitOffline
  else stSuccess

/-- One of a hub's two stacks is out of service: an allocation takes frames of both (R290). -/
def stacksOffline (d : Dev) (h : Nat) : Bool := targetOffline d (.stack h 0) || targetOffline d (.stack h 1)

/-- A target of SELFTEST: held in reset itself it stays one (R457); under test, Off, retired, or with a unit under test in it or a unit
out of service around it, it is out of service (R11, R456, R464). -/
def testTarget (d : Dev) (t : Target) : Bool :=
  let around := (enclosing t).filter (fun u => u ≠ heldTarget t)
  !targetOff d t && !d.seq.isolated.contains (codeOf t) && !targetOos d t &&
    around.all (fun u => !d.seq.unitHeld.contains (codeOf u) && !d.seq.isolated.contains (codeOf u)) &&
    (t = .mgmt || heldTarget t = .hub (targetHub t) || !d.seq.hubHeld.contains (targetHub t)) &&
    d.seq.isolated.all (fun c => (targetOf c.toNat).elim true (fun u => !(enclosing u).contains t))

/-- Order 4: the units that the entry itself names. The placement list of LOAD WEIGHTS, a program set and a job's program
are read later and checked where they are read. A unit that is held in reset itself stays a target of SELFTEST (R457). -/
def unitStatus (v : Variant) (d : Dev) (opc : Nat) (p : List (BitVec 64)) : BitVec 8 :=
  let P := fun j => (nth 0 p j).toNat
  match opc with
  | 0x08 =>
    let kind := bitsOf (P 1) 1 0
    if bitsOf (P 1) 19 8 ≠ 0 ∧ linkMask v = 0 then stUnitAbsent
    else if kind = 0 then
      (let h := bitsOf (P 1) 4 3
       if !hubPresent v h then stUnitAbsent else if stacksOffline d h then stUnitOffline else stSuccess)
    else if kind = 1 then
      (if (issuerOf (P 2)).isNone then stSuccess
       else if !issuerPresent v (P 2) then stUnitAbsent
       else if issuerOffline d (P 2) then stUnitOffline else stSuccess)
    else if kind = 2 then targetStatus v d (.group (bitsOf (P 2) 1 0) (bitsOf (P 2) 2 2))
    else stSuccess
  | 0x20 =>
    let hs := hintHubs (P 0)
    if hs.any (fun h => !hubPresent v h) then stUnitAbsent
    else if hs.any (fun h => targetOffline d (.hub h)) then stUnitOffline else stSuccess
  | 0x28 => (targetOf (P 0)).elim stSuccess (targetStatus v d)
  | 0x29 => (targetOf (P 0)).elim stSuccess (fun t =>
      if !targetPresent v t then stUnitAbsent else if testTarget d t then stSuccess else stUnitOffline)
  | 0x2A => (targetOf (P 0)).elim stSuccess (targetStatus v d)
  | 0x30 =>
    let e := bitsOf (P 0) 5 0
    let engine := targetStatus v d (.ce e)
    let stream := if bitsOf (P 0) 9 8 ≠ 0 then stSuccess else (ceStreamUnit e (P 1)).elim stSuccess (targetStatus v d)
    if engine = stUnitAbsent ∨ stream = stUnitAbsent then stUnitAbsent
    else if engine ≠ stSuccess then engine else stream
  | _ => stSuccess

/-- Order 5: the ranges of the parameter words. `none` when all hold, else the detail. LOAD WEIGHTS checks its own after its
placement list is known. Bits 15:3 of P2 of a remote window are refused here (DESIGN CHOICE, notes/assumptions/142.md). -/
def rangeDetail (opc : Nat) (p : List (BitVec 64)) : Option Nat :=
  let P := fun j => (nth 0 p j).toNat
  match opc with
  | 0x01 => if P 0 % 4096 ≠ 0 then some 0 else if bitsOf (P 1) 1 0 = 3 then some 1 else none
  | 0x08 =>
    let kind := bitsOf (P 1) 1 0
    if kind = 0 then (if P 0 = 0 then some 0 else none)
    else if kind = 1 then
      (if P 0 ≠ 16384 then some 0
       else if bitsOf (P 1) 23 8 ≠ 0 then some 1
       else match issuerOf (P 2) with
        | some (.seq _) => none
        | _ => some 2)
    else if kind = 2 then
      (if P 0 = 0 ∨ P 0 > 2 ^ 40 then some 0
       else if bitsOf (P 1) 23 8 ≠ 0 then some 1
       else if bitsOf (P 2) 15 3 ≠ 0 then some 2
       else none)
    else some 1
  | 0x0A => if P 0 % 16 ≠ 0 then some 0 else none
  | 0x11 => if bitsOf (P 0) 11 0 = 0 then some 0 else none
  | 0x19 => if P 3 % 32 ≠ 0 then some 3 else if bitsOf (P 4) 8 0 > 256 then some 4 else none
  | 0x1A => if bitsOf (P 0) 1 0 = 3 then some 0 else none
  | 0x20 => if bitsOf (P 1) 31 0 > 1000 then some 1 else none
  | 0x28 =>
    (match targetOf (P 0) with
      | some (.facet _) => none
      | some (.wedge _ _) => none
      | some (.mac _ _ _) => none
      | _ => some 0)
  | 0x29 => if (targetOf (P 0)).isNone then some 0 else if bitsOf (P 1) 3 0 > 5 then some 1 else none
  | 0x2A => if (targetOf (P 0)).isNone then some 0 else none
  | 0x30 =>
    let e := bitsOf (P 0) 5 0
    let op := bitsOf (P 0) 9 8
    if op = 3 then some 0
    else if op ≠ 0 then none
    else
      let k := ceKind (P 1)
      if k > 4 ∨ bitsOf (P 1) 12 10 > 4 then some 1
      else if ceStreamHub e (P 1) ≠ e / 16 then some 1
      else if k = 4 ∧ bitsOf (P 1) 9 4 > 1 then some 1
      else if (k = 0 ∨ k = 1) ∧ bitsOf (P 1) 9 4 ≠ 0 then some 1
      else
        let w := bitsOf (P 5) 6 0
        if w < 8 ∨ w > 64 then some 5
        else if P 2 ≥ 2 ^ w then some 2
        else if bitsOf (P 1) 12 10 ≠ 0 ∧ w % 8 ≠ 0 then some 5
        else none
  | _ => none

/-- What the checks of orders 2 to 5 give an accepted entry: a status and its detail, or acceptance (R351). -/
def entryStatus (v : Variant) (d : Dev) (opc rsv : Nat) (p : List (BitVec 64)) : BitVec 8 × Nat :=
  if !opcodeKnown opc then (stInvalidOpcode, 0)
  else if !reservedClear opc rsv p then (stReserved, 0)
  else if unitStatus v d opc p ≠ stSuccess then (unitStatus v d opc p, 0)
  else match rangeDetail opc p with
    | some j => (stValueRange, j)
    | none => (stSuccess, 0)

/-- A completion that waits with no command behind it. -/
def Dev.answer (d : Dev) (p q : Nat) (cid : BitVec 16) (status : BitVec 8) (detail : Nat) : Dev :=
  { d with comps := d.comps ++ [{ port := p, q := q, cid := cid, status := status, detail := BitVec.ofNat 8 detail,
                                  smiss := false, result := 0 }] }

/-- The 64 bytes of a submission entry (Table 13.4): opcode, alive, cid, reserved word, P0 to P6. -/
def entryOpc (b : Bytes) : Nat := leNat (b.take 1)
def entryAlive (b : Bytes) : BitVec 8 := nth 0 b 1
def entryCid (b : Bytes) : BitVec 16 := BitVec.ofNat 16 (leNat ((b.drop 2).take 2))
def entryRsv (b : Bytes) : Nat := leNat ((b.drop 4).take 4)
def entryP (b : Bytes) : List (BitVec 64) :=
  (List.range 7).map (fun j => BitVec.ofNat 64 (leNat ((b.drop (8 + 8 * j)).take 8)))

/-- An entry of queue (p, q) is taken (R350, R351). -/
def takeEntry (v : Variant) (p q : Nat) (b : Bytes) (d : Dev) : Dev :=
  let Q := d.queue p q
  if entryAlive b = Q.anext then
    let d1 := (d.setQueue p q { Q with anext := Q.anext + 1 }).count 0x1201 (p + 1) 1
    let r := entryStatus v d (entryOpc b) (entryRsv b) (entryP b)
    if r.1 = stSuccess then
      { d1 with cmds := d1.cmds ++ [{ id := d1.nextCmd, port := p, q := q, cid := entryCid b, opc := entryOpc b,
                                      p := entryP b, stage := .ready, waits := [] }], nextCmd := d1.nextCmd + 1 }
    else d1.answer p q (entryCid b) r.1 r.2
  else if entryAlive b = Q.anext - 1 then (d.count 0x1202 (p + 1) 1).answer p q (entryCid b) stRepeat 0
  else (d.count 0x1203 (p + 1) 1).answer p q (entryCid b) stAliveGap 0

/-- A queue that offers an entry. -/
def offers (Q : Queue) : Bool := Q.en && !Q.disabling && Q.sqhead != Q.sqtail

/-- The next queue in round-robin order that offers an entry (R347). -/
def nextQueue (d : Dev) (p : Nat) : Option Nat :=
  ((List.range 16).map (fun i => ((d.port p).rr + i) % 16)).find? (fun q => offers (d.queue p q))

/-- Commands of a port between fetch and completion (R347). -/
def inFlight (d : Dev) (p : Nat) : Nat :=
  (d.cmds.filter (fun c => c.port == p)).length + (d.comps.filter (fun c => c.port == p)).length

/-- The index after `i` in a queue whose size field is `size`. -/
def nextSlot (i size : BitVec 12) : BitVec 12 := if i = size then 0 else i + 1

/-- The port fetches its next submission entry (R347). A fetch that fails completes with HOST_ACCESS, cid 0 (R378; DESIGN
CHOICE, notes/assumptions/15.md). -/
def commandFetchOp (v : Variant) (p : Nat) (entry : HostRead) (d : Dev) : Dev :=
  if portUp v d p && !(d.port p).d3 && !targetOffline d (.core p 0) && decide (inFlight d p < 256) then
    match nextQueue d p with
    | none => d
    | some q =>
      let Q := d.queue p q
      let d1 := (d.setQueue p q { Q with sqhead := nextSlot Q.sqhead Q.sqsize }).modPort p
        (fun hp => { hp with rr := (q + 1) % 16 })
      match entry with
      | .ok b => takeEntry v p q (padTo 64 b) d1
      | .fail k => (d1.count 0x1207 (p + 1) 1).answer p q 0 stHostAccess k
  else d

/-! ### Completions (R348, R352) -/

/-- The 16 bytes of a completion (Table 13.6). -/
def compBytes (c : Comp) (sqhead : BitVec 12) (phase : Bool) : Bytes :=
  toLe 8 (c.cid.toNat + c.status.toNat * 2 ^ 16 + c.detail.toNat * 2 ^ 24 + sqhead.toNat * 2 ^ 32 + c.q * 2 ^ 44
    + phase.toNat * 2 ^ 48 + c.smiss.toNat * 2 ^ 49) ++ toLe 8 c.result.toNat

/-- The first waiting completion of a queue, and the list without it. -/
def takeComp (p q : Nat) : List Comp → Option (Comp × List Comp)
  | [] => none
  | c :: cs =>
    if c.port = p ∧ c.q = q then some (c, cs)
    else match takeComp p q cs with
      | some (x, r) => some (x, c :: r)
      | none => none

/-- A completion is written into a free slot with the inverted phase, and MSI-X follows when ie is set (R348). One slot of
the queue always stays free, so that cqtail = cqhead means empty (DEDUCED, notes/assumptions/16.md). -/
def completionWriteOp (v : Variant) (p q : Nat) (d : Dev) : Dev :=
  let Q := d.queue p q
  if portUp v d p && !(d.port p).d3 && Q.en && nextSlot Q.cqtail Q.cqsize != Q.cqhead then
    match takeComp p q d.comps with
    | none => d
    | some (c, rest) =>
      let d1 := { d with comps := rest }
      let d2 := d1.toHost p (Q.cqbase.toNat + 16 * Q.cqtail.toNat) (compBytes c Q.sqhead Q.phase)
      let d3 := d2.setQueue p q { Q with cqtail := nextSlot Q.cqtail Q.cqsize,
                                         phase := if Q.cqtail = Q.cqsize then !Q.phase else Q.phase }
      if Q.ie then d3.msix p q else d3
  else d

/-! ### Power states of the function (R343) -/

def d3hotOp (v : Variant) (p : Nat) (d : Dev) : Dev :=
  if portUp v d p then d.modPort p (fun hp => { hp with d3 := true }) else d

/-- The return to D0: fetching and host accesses resume, and pending MSI-X messages are sent as the enable allows. -/
def d0Op (v : Variant) (p : Nat) (d : Dev) : Dev :=
  if portUp v d p then (d.modPort p (fun hp => { hp with d3 := false })).flushMsix p else d

/-- The host writes the MSI-X enable and the vectors' mask bits; pending messages that may go are sent (R343). -/
def msixEnableOp (v : Variant) (p : Nat) (enable : Bool) (mask : BitVec 17) (d : Dev) : Dev :=
  if portUp v d p then (d.modPort p (fun hp => { hp with msixEn := enable, msixMask := mask })).flushMsix p else d

/-! ### Meanings -/

def execSqDoorbell (port q : Nat) (tail : BitVec 12) (s : State) : Host.Outcome State Fault Refusal :=
  .next (s.on (sqDoorbellOp s.variant port q tail s.dev))

def execCqDoorbell (port q : Nat) (head : BitVec 12) (s : State) : Host.Outcome State Fault Refusal :=
  .next (s.on (cqDoorbellOp s.variant port q head s.dev))

def execQueueEnable (port q : Nat) (s : State) : Host.Outcome State Fault Refusal :=
  .next (s.on (queueEnableOp s.variant port q s.dev))

def execQueueDisable (port q : Nat) (s : State) : Host.Outcome State Fault Refusal :=
  .next (s.on (queueDisableOp s.variant port q s.dev))

def execQueueDisableDone (port q : Nat) (s : State) : Host.Outcome State Fault Refusal :=
  .next (s.on (queueDisableDoneOp port q s.dev))

def execBar0RegisterWrite (port off size : Nat) (value : BitVec 64) (s : State) : Host.Outcome State Fault Refusal :=
  .next (s.on (bar0WriteOp s.variant port off size value s.dev))

def execCommandFetch (port : Nat) (entry : HostRead) (s : State) : Host.Outcome State Fault Refusal :=
  .next (s.on (commandFetchOp s.variant port entry s.dev))

def execCompletionWrite (port q : Nat) (s : State) : Host.Outcome State Fault Refusal :=
  .next (s.on (completionWriteOp s.variant port q s.dev))

def execD3hotEntry (port : Nat) (s : State) : Host.Outcome State Fault Refusal :=
  .next (s.on (d3hotOp s.variant port s.dev))

def execD0Return (port : Nat) (s : State) : Host.Outcome State Fault Refusal :=
  .next (s.on (d0Op s.variant port s.dev))

def execMsixEnableChange (port : Nat) (enable : Bool) (mask : BitVec 17) (s : State) :
    Host.Outcome State Fault Refusal :=
  .next (s.on (msixEnableOp s.variant port enable mask s.dev))

end Sys2Proof.Machine
end

