-- ==== Sys2Proof/Machine/Objects.lean ====
section
/-!
DEFINITION. IDENTIFY and the commands that make and destroy allocations and descriptors (ch. 7, 11, 13).
-/
namespace Sys2Proof.Machine

open Sys2Proof

/-- A started command waits while its function is in D3hot and it needs host memory (R343). -/
def hostOpen (d : Dev) (c : Cmd) : Bool := !(d.port c.port).d3

/-! ### IDENTIFY (R353, R358) -/

/-- The identity record of Table 13.10. -/
def identityRecord (v : Variant) (d : Dev) (p : Nat) : Bytes :=
  padTo 4096 (padTo 32 (partNumber v) ++ padTo 32 Config.serialNumber ++
    toLe 1 (hubMask v) ++ toLe 1 (stackMask v) ++ toLe 1 (portMask v) ++ toLe 1 (hasForerunner v).toNat ++
    toLe 8 (facetMask v) ++ toLe 8 (linkMask v) ++ toLe 1 (p * 16) ++ toLe 3 0 ++ toLe 2 16 ++ toLe 2 256 ++
    toLe 8 Config.linkIdentity.toNat ++ toLe 4 (powerLimit v) ++ toLe 1 d.sec.lcs)

/-- The port's generation becomes 0, the highest implemented (R353), and the record is written. -/
def identifyOp (v : Variant) (cmd : Nat) (d : Dev) : Dev :=
  match d.starting cmd 0x01 with
  | none => d
  | some c =>
    if hostOpen d c then
      let d1 := d.modPort c.port (fun hp => { hp with gen := 0 })
      (d1.toHost c.port (c.P 0) (identityRecord v d1 c.port)).succeeds cmd 0
    else d

/-! ### ALLOC (R289, R290, R360, R361) -/

/-- Frames of a stack that no allocation uses. -/
def freeFrames (d : Dev) (stack : Nat) : List Nat :=
  (List.range 1072).filter (fun f => !d.usedFrames.contains (stack, f))

/-- The firmware's choice among the free frames of a stack. -/
def pickFrame (d : Dev) (stack n : Nat) : Option Nat :=
  let l := freeFrames d stack
  l[Config.frameChoice n % max 1 l.length]?

/-- Take one arc on a hub: a frame in each of its stacks. -/
def takeArc (hub : Nat) (d : Dev) : Option (Arc × Dev) :=
  (pickFrame d (2 * hub) d.free).bind (fun f0 =>
    (pickFrame d (2 * hub + 1) (d.free + 1)).map (fun f1 =>
      ({ hub := hub, frame0 := f0, frame1 := f1 },
       { d with usedFrames := d.usedFrames ++ [(2 * hub, f0), (2 * hub + 1, f1)], free := d.free + 2 })))

/-- Take an arc on each hub of the list. -/
def takeArcs (d : Dev) : List Nat → Option (List Arc × Dev)
  | [] => some ([], d)
  | h :: hs =>
    (takeArc h d).bind (fun a => (takeArcs a.2 hs).map (fun r => (a.1 :: r.1, r.2)))

/-- The size as ALLOC rounds it (R360). -/
def allocSize (n : Nat) : Nat := if n < 2 ^ 27 then roundUp n 65536 else roundUp n (2 ^ 27)

/-- The hub of arc i: the present hubs in order from h0, or h0 (R290). -/
def arcHub (v : Variant) (spread : Bool) (h0 i : Nat) : Nat :=
  if spread then (h0 + i) % (hubsPresent v).length else h0

/-- The arcs on a hub that hold small allocations, with the places in them. -/
def smallOn (d : Dev) (hub : Nat) : List (Arc × Nat × Nat) :=
  d.allocs.filterMap (fun a =>
    if a.kind = .stack && decide (a.size < 2 ^ 27) then
      match a.arcs with
      | [r] => if r.hub = hub then some (r, a.pos, a.size) else none
      | _ => none
    else none)

/-- Places of `size` bytes, at multiples of 64 KiB, that are free in the arcs already shared by small allocations. -/
def smallPlaces (d : Dev) (hub size : Nat) : List (Arc × Nat) :=
  let used := smallOn d hub
  let arcs := (used.map (fun e => e.1)).eraseDups
  (arcs.map (fun r =>
    ((List.range 2048).filter (fun k =>
      let p := 65536 * k
      decide (p + size ≤ 2 ^ 27) &&
        used.all (fun e => e.1 ≠ r || decide (p + size ≤ e.2.1) || decide (e.2.1 + e.2.2 ≤ p)))).map
      (fun k => (r, 65536 * k)))).flatten

/-- The arcs and position of a stack allocation, or none when the free arcs cannot hold it. -/
def placeAlloc (v : Variant) (spread : Bool) (h0 size : Nat) (d : Dev) : Option (List Arc × Nat × Dev) :=
  if size < 2 ^ 27 then
    let ps := smallPlaces d h0 size
    match ps[Config.placeChoice d.free % max 1 ps.length]? with
    | some (r, p) => some ([r], p, d.drawn)
    | none => (takeArc h0 d.drawn).map (fun r => ([r.1], 0, r.2))
  else
    (takeArcs d ((List.range (size / 2 ^ 27)).map (arcHub v spread h0))).map (fun r => (r.1, 0, r.2))

/-- Zeros over a whole allocation, through its slices like every other access (R296, R360). -/
def clearAlloc (v : Variant) (a : Alloc) (d : Dev) : Dev := devPut v a 0 (List.replicate a.size 0) d

/-- Export number n is taken (R361): an allocation exports it. -/
def exportTaken (d : Dev) (n : Nat) : Bool := n ≠ 0 && d.allocs.any (fun a => a.export_ = n)

def allocOp (v : Variant) (cmd : Nat) (d : Dev) : Dev :=
  match d.starting cmd 0x08 with
  | none => d
  | some c =>
    let p1 := c.P 1
    let kind := bitsOf p1 1 0
    let spread := !bitOf p1 2
    let h0 := bitsOf p1 4 3
    let exp := bitsOf p1 19 8
    let q := tget (IdxQueue.fresh (2 ^ 30 - 1)) d.allocIdx c.port
    let size := if kind = 0 then allocSize (c.P 0) else c.P 0
    match q.head with
    | none => d.fails cmd stAllocFull 0
    | some i =>
      let handle := c.port * 2 ^ 30 + i
      let base : Alloc :=
        { handle := handle, port := c.port, kind := .stack, size := size, spread := spread, h0 := h0,
          policy := bitsOf p1 6 5, arcs := [], pos := 0, export_ := exp, rights := BitVec.ofNat 4 (bitsOf p1 23 20),
          issuer := 0, winHub := 0, winGroup := 0, peer := 0, peerExp := 0, live := true }
      let make (a : Alloc) (d : Dev) : Dev :=
        { d with allocs := d.allocs ++ [a], allocIdx := tset d.allocIdx c.port q.pop }
      if kind = 0 then
        let hubs := (List.range (max 1 (size / 2 ^ 27))).map (arcHub v spread h0)
        if hubs.any (stacksOffline d) then d.fails cmd stUnitOffline 0
        else match placeAlloc v spread h0 size d with
          | none => d.fails cmd stAllocFull 0
          | some (arcs, pos, d1) =>
            if exportTaken d exp then d.fails cmd stExportInUse 0
            else
              let a : Alloc := { base with arcs := arcs, pos := pos }
              let d2 := make a d1
              ((if bitOf p1 7 then clearAlloc v a d2 else d2)).succeeds cmd handle
      else if kind = 1 then
        (make { base with kind := .halo, issuer := c.P 2 } d).succeeds cmd handle
      else
        (make { base with kind := .window, winHub := bitsOf (c.P 2) 1 0, winGroup := bitsOf (c.P 2) 2 2,
                          peer := BitVec.ofNat 64 (c.P 3), peerExp := bitsOf (c.P 4) 11 0 } d).succeeds cmd handle

/-! ### FREE (R356, R362, R370) -/

/-- FREE: the export ends first; while admitted requests of it are still to be applied the command waits, started (R362). -/
def freeOp (cmd : Nat) (d : Dev) : Dev :=
  let c? : Option Cmd := match d.cmdOf cmd with
    | some c => if c.opc = 0x09 ∧ (d.mayStart c = true ∨ c.stage = .busy) then some c else none
    | none => none
  match c? with
  | none => d
  | some c =>
    let h := bitsOf (c.P 0) 31 0
    if bitOf (c.P 0) 32 then
      match d.progOf h with
      | none => d.fails cmd stAllocHandle 0
      | some p =>
        if p.port ≠ c.port ∨ p.doomed then d.fails cmd stAllocHandle 0
        else if (liveJobs d).any (fun j => j.prog = h) then d.fails cmd stUnitBusy 0
        else (settlePins (releaseProg p d)).succeeds cmd 0
    else
      match d.allocOf h with
      | none => d.fails cmd stAllocHandle 0
      | some a =>
        if c.stage = .busy then
          (if (c.waits).any (exportBusy d) then d else (releaseAlloc a d).succeeds cmd 0)
        else if a.port ≠ c.port ∨ !a.live then d.fails cmd stAllocHandle 0
        else if allocPinned d h then d.fails cmd stDescBusy 0
        else
          let ended := { d with allocs := d.allocs.map (fun b =>
            if b.handle = h then { b with export_ := 0, live := false } else b) }
          if exportBusy d h then
            let d1 := ended.busy cmd
            { d1 with cmds := d1.cmds.map (fun e => if e.id = cmd then { e with waits := [h] } else e) }
          else (releaseAlloc a ended).succeeds cmd 0

/-! ### Descriptors (R191, R208 to R211) -/

/-- The status of the checks of Table 7.6 on an image, with the descriptor it describes (R191). A descriptor on a halo
allocation is dense (R257); one on a remote window is not forerunner (R323). -/
def descStatus (v : Variant) (d : Dev) (port n : Nat) : BitVec 8 :=
  let x := Desc.ofImage 0 port n
  match (d.allocOf x.alloc).filter (fun a => a.live) with
  | none =>
    if !imageReservedOk n then stReserved
    else if x.form = 2 && !hasForerunner v then stUnitAbsent else stDescHandle
  | some a =>
    if !imageReservedOk n then stReserved
    else if x.form = 2 && !hasForerunner v then stUnitAbsent
    else if x.ien && (d.descOf x.idx).isNone then stDescHandle
    else if !descOk d.descs x || (a.kind = .halo && x.form ≠ 0) || (a.kind = .window && x.form = 2) then stDescInvalid
    else if !footprintOk a.size x then stDescFootprint
    else if !aliasOk x then stDescAlias
    else if ((tget (IdxQueue.fresh 16383) d.descIdx port).head).isNone then stDescFull
    else stSuccess

def descCreateOp (v : Variant) (cmd : Nat) (image : HostRead) (d : Dev) : Dev :=
  match d.starting cmd 0x0A with
  | none => d
  | some c =>
    if hostOpen d c then
      match image with
      | .fail k => d.fails cmd stHostAccess k
      | .ok b =>
        let n := leNat ((padTo 160 b).take 160)
        let st := descStatus v d c.port n
        let q := tget (IdxQueue.fresh 16383) d.descIdx c.port
        if st ≠ stSuccess then d.fails cmd st 0
        else match q.head with
          | none => d.fails cmd stDescFull 0
          | some i =>
            let handle := c.port * 2 ^ 14 + i
            ({ d with descs := d.descs ++ [Desc.ofImage handle c.port n],
                      descIdx := tset d.descIdx c.port q.pop }).succeeds cmd handle
    else d

def descDestroyOp (cmd : Nat) (d : Dev) : Dev :=
  match d.starting cmd 0x0B with
  | none => d
  | some c =>
    let h := bitsOf (c.P 0) 15 0
    match d.descOf h with
    | none => d.fails cmd stDescHandle 0
    | some x =>
      if x.port ≠ c.port then d.fails cmd stDescHandle 0
      else if descInUse d h then d.fails cmd stDescBusy 0
      else (settlePins (releaseDesc x d)).succeeds cmd 0

/-! ### Meanings -/

def execIdentify (cmd : Nat) (s : State) : Host.Outcome State Fault Refusal :=
  .next (s.on (identifyOp s.variant cmd s.dev))

def execAlloc (cmd : Nat) (s : State) : Host.Outcome State Fault Refusal :=
  .next (s.on (allocOp s.variant cmd s.dev))

def execFree (cmd : Nat) (s : State) : Host.Outcome State Fault Refusal :=
  .next (s.on (freeOp cmd s.dev))

def execDescCreate (cmd : Nat) (image : HostRead) (s : State) : Host.Outcome State Fault Refusal :=
  .next (s.on (descCreateOp s.variant cmd image s.dev))

def execDescDestroy (cmd : Nat) (s : State) : Host.Outcome State Fault Refusal :=
  .next (s.on (descDestroyOp cmd s.dev))

end Sys2Proof.Machine
end

