-- ==== Sys2Proof/Machine/Weights.lean ====
section
/-!
DEFINITION. LOAD WEIGHTS and SWAP BANK (ch. 2, 9, 13, 16): the checks of R365, the writing of the shadow banks, the verify of R442,
and the swap sequence of Table 9.8.
-/
namespace Sys2Proof.Machine

open Sys2Proof

/-- 32-bit little-endian entries of a list in memory. -/
def u32s (b : Bytes) : List Nat := (List.range (b.length / 4)).map (fun i => word32 b i)

/-! ### LOAD WEIGHTS (R363 to R366) -/

/-- The logical macro of a placement entry (Table 13.11). -/
def placeMacro (e : Nat) : Nat := bitsOf e 5 0 * 3072 + bitsOf e 9 6 * 192 + bitsOf e 17 10
/-- An entry that names a macro: facet below 36, macro below 192. -/
def placeNames (e : Nat) : Bool := bitsOf e 5 0 < 36 && bitsOf e 17 10 < 192

/-- A macro of a placement is held, Off, or out of service with no spare left. One that is out of service under R443 takes a
load, which is how it returns. -/
def macroOffline (d : Dev) (m : Nat) : Bool :=
  let t := Target.wedge (facetOfMacro m) (m / 192 % 16)
  targetOff d t || targetHeld d t || (d.mac m).oos ||
    macroTarget m ∈ d.seq.unitHeld || macroTarget m ∈ d.seq.isolated

def packingOf : Nat → Packing
  | 0 => .int8
  | 1 => .int4
  | _ => .ternary

/-- The matrix that a LOAD WEIGHTS describes; its ID comes at its completion. -/
def loadMatrix (c : Cmd) (place outs : List Nat) : Matrix :=
  { id := 0, rows := bitsOf (c.P 2) 31 0, cols := bitsOf (c.P 2) 63 32, packing := packingOf (bitsOf (c.P 3) 1 0),
    source := bitsOf (c.P 3) 5 2, group := bitsOf (c.P 3) 17 6, place := place, outliers := outs,
    imgAlloc := bitsOf (c.P 1) 31 0, imgAddr := c.P 0 }

/-- Order 5 of Table 13.5 for LOAD WEIGHTS, by word (R365). -/
def loadRange (c : Cmd) : Option Nat :=
  let p3 := c.P 3
  if bitsOf (c.P 2) 31 0 = 0 ∨ bitsOf (c.P 2) 63 32 = 0 then some 2
  else if bitsOf p3 1 0 = 3 ∨ bitsOf p3 5 2 > 5 ∨ bitsOf p3 17 6 = 0 ∨ bitsOf p3 24 18 > 64 ∨
      (bitsOf p3 1 0 = 2 ∧ bitsOf p3 5 2 ≠ 0) then some 3
  else none

/-- The shadow bank of each macro of a placement. -/
def loadTargets (d : Dev) (place : List Nat) : List (Nat × Bool) := place.map (fun m => (m, !(d.mac m).actB))

/-- A target bank is Loading, or its macro's banks are still to be restored after a wake (R34). -/
def targetLoading (d : Dev) (place : List Nat) : Bool :=
  (loadTargets d place).any (fun t => ((d.mac t.1).bank t.2).st = .loading || (tfind (d.wedge (t.1 / 192)).saved t.1).isSome)

/-- A target bank holds part of a matrix that an accepted, incomplete job names. -/
def targetNamed (d : Dev) (place : List Nat) : Bool :=
  (loadTargets d place).any (fun t =>
    let k := ((d.mac t.1).bank t.2).matrix
    k ≠ 0 && matNamed d k)

def ascending : List Nat → Bool
  | a :: b :: l => decide (a < b) && ascending (b :: l)
  | _ => true

/-- Orders 3 and 4 of LOAD WEIGHTS: the reserved bits of its placement list, and the presence and service of what that names (R9, R11). -/
def placeStatus (v : Variant) (d : Dev) (ents : List Nat) : BitVec 8 :=
  let named := (ents.filter placeNames).map placeMacro
  if ents.any (fun e => bitsOf e 31 18 ≠ 0) then stReserved
  else if named.any (fun k => !facetPresent v (facetOfMacro k)) then stUnitAbsent
  else if named.any (fun k => macroOffline d k) then stUnitOffline
  else stSuccess

/-- The checks of LOAD WEIGHTS from order 3 on, as far as they follow from its lists: status and detail. -/
def loadStatus (v : Variant) (d : Dev) (c : Cmd) (ents outs : List Nat) (entBytes : Nat) : BitVec 8 × Nat :=
  let m := loadMatrix c (ents.map placeMacro) outs
  let pres := placeStatus v d ents
  if pres ≠ stSuccess then (pres, 0)
  else match loadRange c with
    | some j => (stValueRange, j)
    | none =>
      if entBytes ≠ 4 * (m.rowBlocks * m.colBlocks) ∨ !(ents.all placeNames) ∨ m.place.eraseDups.length ≠ m.place.length then
        (stValueRange, 4)
      else if targetLoading d m.place then (stUnitBusy, 0)
      else if targetNamed d m.place then (stMatrixBusy, 0)
      else if outs.length ≠ bitsOf (c.P 3) 24 18 ∨ !(ascending outs) ∨ outs.any (fun k => k ≥ m.rows) then (stValueRange, 5)
      else if m.packing = .ternary ∧ outs ≠ [] then (stLoaderCheck, 0)
      else if m.imgAlloc ≠ 0 ∧ !(d.allocs.any (fun a => a.handle = m.imgAlloc && a.live)) then (stAllocHandle, 0)
      else if d.matIdx.size ≤ d.matReserved then (stAllocFull, 0)
      else (stSuccess, 0)

/-- The load passes its checks, reserves an ID and waits for LOAD_WEIGHTS_START; the groups that it concerns are recorded with
its command (R32). -/
def loadWeightsOp (v : Variant) (cmd : Nat) (placement outliers : HostRead) (d : Dev) : Dev :=
  match d.starting cmd 0x10 with
  | none => d
  | some c =>
    if hostOpen d c then
      match placement with
      | .fail k => d.fails cmd stHostAccess k
      | .ok b =>
        let ents := u32s b
        let outsR : HostRead := if bitsOf (c.P 3) 24 18 = 0 ∨ c.P 5 = 0 then .ok [] else outliers
        let pres := placeStatus v d ents
        if pres ≠ stSuccess then d.fails cmd pres 0
        else match outsR with
        | .fail k => d.fails cmd stHostAccess k
        | .ok ob =>
          let outs := u32s ob
          let st := loadStatus v d c ents outs b.length
          if st.1 ≠ stSuccess then d.fails cmd st.1 st.2
          else
            let m := loadMatrix c (ents.map placeMacro) outs
            let groups := (m.group :: (m.place.map (fun k => (d.mac k).group))).eraseDups
            let d1 := d.busy cmd
            { d1 with loads := d1.loads ++ [{ cmd := cmd, mat := m, writing := false, targets := [] }],
                      matReserved := d1.matReserved + 1,
                      cmds := d1.cmds.map (fun e => if e.id = cmd then { e with waits := groups } else e) }
    else d

/-- End a load without a matrix: the banks that it wrote are Empty, its reservation is released (R366, R373). -/
def abandonLoad (l : Load) (d : Dev) : Dev :=
  let d1 := l.targets.foldl (fun d t => (dropRepairs t.1 t.2 d).modMac t.1 (fun x => x.setBank t.2 {})) d
  { d1 with loads := d1.loads.filter (fun x => x.cmd ≠ l.cmd), matReserved := d1.matReserved - 1 }

/-- One target bank enters Loading: what it held is destroyed, its copies are freed, a scrub of it stops (R32, R82, R366). -/
def enterLoading (m : Nat) (b : Bool) (d : Dev) : Dev :=
  let d1 := destroyMatrix ((d.mac m).bank b).matrix d
  let d2 := dropRepairs m b (freeCopies m b d1)
  d2.modMac m (fun x => { x.setBank b { st := .loading } with scrubbing := false })

/-- The shadow banks that a load not yet writing would have taken are left Empty when it is aborted (R373); a bank that another load or a scrub
is writing, or that holds part of a matrix which an accepted job names, stays (DESIGN CHOICE, notes/assumptions/166.md). -/
def emptyTargets (place : List Nat) (d : Dev) : Dev :=
  (loadTargets d place).foldl (fun (d : Dev) t =>
    let b := (d.mac t.1).bank t.2
    if b.st = .loading ∨ (b.matrix ≠ 0 ∧ matNamed d b.matrix) then d
    else (enterLoading t.1 t.2 d).modMac t.1 (fun x => x.setBank t.2 {})) d

/-- An aborted load (R373). -/
def abortLoad (l : Load) (d : Dev) : Dev :=
  if l.writing then abandonLoad l d else emptyTargets l.mat.place (abandonLoad l d)

/-- The load begins once no swap of a group that it concerns is pending. The checks of Loading banks and of named matrices are
made again on the banks that it now finds in the shadow (DEDUCED, notes/assumptions/23.md). -/
def loadWeightsStartOp (cmd : Nat) (d : Dev) : Dev :=
  match d.loads.find? (fun l => l.cmd = cmd && !l.writing), d.cmdOf cmd with
  | some l, some c =>
    if c.waits.any (fun g => d.swaps.any (fun s => s.group = g)) then d
    else if targetLoading d l.mat.place then (abandonLoad l d).fails cmd stUnitBusy 0
    else if targetNamed d l.mat.place then (abandonLoad l d).fails cmd stMatrixBusy 0
    else
      let ts := loadTargets d l.mat.place
      let d1 := { d with loads := d.loads.map (fun x => if x.cmd = cmd then { x with writing := true, targets := ts } else x) }
      ts.foldl (fun d t => enterLoading t.1 t.2 d) d1
  | _, _ => d

/-- The image of a load, or the status and detail that end it. -/
def loadImage (v : Variant) (m : Matrix) (image : HostRead) (d : Dev) : Except (BitVec 8 × Nat) Nat × Dev :=
  if m.imgAlloc ≠ 0 then
    match d.allocOf m.imgAlloc with
    | none => (.error (stAllocHandle, 0), d)
    | some al =>
      if al.kind ≠ .stack ∨ al.size < m.imgAddr + imgBytes m then (.error (stValueRange, 0), d)
      else
        let r := devRead v al m.imgAddr (imgBytes m) d
        if r.2.1 then (.error (stMemUe, 0), r.2.2) else (.ok (leNat r.1), r.2.2)
  else match image with
    | .fail k => (.error (stHostAccess, k), d)
    | .ok b => (.ok (leNat b), d)

/-- Verify errors of one macro of a placement, as (unit, column). -/
def errsOf (verify : List VerifyErr) (e : Nat) : List (Nat × Nat) :=
  (verify.filter (fun x => x.mac = e)).map (fun x => (x.unit, x.col))

/-- The macros of a CALIBRATE target. -/
def targetMacros : Target → List Nat
  | .facet f => (List.range 3072).map (fun i => 3072 * f + i)
  | .wedge f w => (List.range 192).map (fun i => 3072 * f + 192 * w + i)
  | .mac f w m => [3072 * f + 192 * w + m]
  | _ => []

/-- Columns marked in a macro's slot: its entries, but for those that its last calibration cleared. -/
def markCount (d : Dev) (m : Nat) : Nat := ((slotMarks d m).filter (fun e => !e.2.clear)).length

/-- A macro's calibration is over for the CALIBRATE commands that wait for it; the last one ends its command, whose result counts the
marked columns of its target (R375, Table 13.8). -/
def settleCal (m : Nat) (d : Dev) : Dev :=
  (d.cmds.filter (fun c => c.opc = 0x28 && c.stage = CmdStage.busy && c.waits.contains m)).foldl (fun (d : Dev) c =>
    if c.waits.filter (· ≠ m) = [] then
      d.succeeds c.id (((targetOf (bitsOf (c.P 0) 31 0)).elim [] targetMacros).map (markCount d)).sum
    else { d with cmds := d.cmds.map (fun e => if e.id = c.id then { e with waits := e.waits.filter (· ≠ m) } else e) }) d

/-- A logical macro goes out of service for want of a spare (R447). -/
def spareOut (m : Nat) (d : Dev) : Dev :=
  settleCal m <| (d.modMac m (fun x => { x with oos := true, retire := false })).post evSpareOut (hubOfMacro m) (macroTarget m) []

/-- Free spare slots that failed a test, by wedge * 256 + slot, are spares no longer (R457). -/
def dropSpares (bad : List Nat) (d : Dev) : Dev :=
  bad.foldl (fun (d : Dev) k => d.modWedge (k / 256) (fun g => { g with spares := g.spares.filter (· ≠ k % 256) })) d

/-- Retire the slots whose errors cannot be mended, in placement order: the first in each wedge take its free spares, for the others none is
left (R442, R445, R447). -/
def retireBad (bad : List Nat) (d : Dev) : Dev :=
  (bad.zipIdx).foldl (fun (d : Dev) e =>
    if ((bad.take e.2).filter (fun m => m / 192 = e.1 / 192)).length < (d.wedge (e.1 / 192)).spares.length then
      d.modMac e.1 (fun x => { x with retire := true })
    else spareOut e.1 d) d

/-- The load engine writes macro `e` of a load: its bank, clamps counted, columns repaired (R26, R65, R442, R444). -/
def writeTarget (mat : Matrix) (img : Nat) (verify : List VerifyErr) (e : Nat) (t : Nat × Bool) (d : Dev) : Dev :=
  let part := imgMacro mat img e
  let d1 := d.modMac t.1 (fun x => { x.setBank t.2 (bankOf mat part e) with group := mat.group, loaded := true })
  refreshMarks t.1 t.2 (repairBank t.1 t.2 (errsOf verify e) (countClamps mat part t.1 d1))

/-- The load engine has written and checked the image (R365), and verified it (R442); an image in host memory waits while the function is in
D3hot (R343). A slot whose errors no column repair
mends is to be retired; the load then completes when the spare has taken its place. -/
def loadWeightsCompleteOp (v : Variant) (cmd : Nat) (image : HostRead) (verify : List VerifyErr) (d : Dev) : Dev :=
  match d.loads.find? (fun l => l.cmd = cmd && l.writing && (l.mat.imgAlloc ≠ 0 || (d.cmdOf cmd).elim true (hostOpen d))) with
  | none => d
  | some l =>
    let r := loadImage v l.mat image d
    match r.1 with
    | .error e => (abandonLoad l r.2).fails cmd e.1 e.2
    | .ok img =>
      let d0 := r.2
      match imageFault l.mat img with
      | some j => (abandonLoad l d0).fails cmd stValueRange j
      | none =>
        let bad := (l.targets.zipIdx).filter (fun t => !mendable (errsOf verify t.2))
        let wedges := (bad.map (fun t => t.1.1 / 192)).eraseDups
        let short := wedges.any (fun w =>
          decide ((d0.wedge w).spares.length < (bad.filter (fun t => t.1.1 / 192 = w)).length))
        if short then
          (abandonLoad l (retireBad (bad.map (fun t => t.1.1)) d0)).fails cmd stUnitOffline 0
        else if !bad.isEmpty then retireBad (bad.map (fun t => t.1.1)) d0
        else if l.targets.any (fun t => (d0.mac t.1).retire) then d0
        else match d0.matIdx.head with
          | none => (abandonLoad l d0).fails cmd stAllocFull 0
          | some id =>
            let mat := { l.mat with id := id }
            let d1 := { d0 with matIdx := d0.matIdx.pop, matReserved := d0.matReserved - 1, mats := d0.mats ++ [mat],
                                loads := d0.loads.filter (fun x => x.cmd ≠ cmd) }
            let d2 := (l.targets.zipIdx).foldl (fun d t => writeTarget mat img verify t.2 t.1 d) d1
            let onB (m : Nat) : Bool := (l.targets.find? (fun t => t.1 = m)).elim false Prod.snd
            let ws := (l.targets.map (fun t => t.1 / 192)).eraseDups
            (ws.foldl (fun d w => placeCopies mat onB w d) d2).succeeds cmd id

/-! ### SWAP BANK (R31, R32, R260, R261, R368) -/

/-- The macros of a group. -/
def groupMacros (d : Dev) (g : Nat) : List Nat :=
  ((d.macros.filter (fun e => e.2.group = g)).map Prod.fst ++
    (d.wedges.map (fun w => (w.2.saved.filter (fun e => e.2.group = g)).map Prod.fst)).flatten).eraseDups

def swapStatus (d : Dev) (g : Nat) : BitVec 8 :=
  let ms := groupMacros d g
  if ms.isEmpty then stValueRange
  else if ms.any (fun m => macroOffline d m || ((d.mac m).unread && !(d.mac m).loaded)) then stUnitOffline
  else if d.swaps.any (fun s => s.group = g) then stUnitBusy
  else if ms.any (fun m => (d.mac m).shadow.st ≠ .ready) then stBankNotReady
  else stSuccess

/-- Order 1 of Table 9.8: the swap is marked pending, or refused. -/
def swapBankOp (cmd : Nat) (d : Dev) : Dev :=
  match d.starting cmd 0x11 with
  | none => d
  | some c =>
    let g := bitsOf (c.P 0) 11 0
    let st := swapStatus d g
    if st ≠ stSuccess then d.fails cmd st 0
    else
      let d1 := d.busy cmd
      { d1 with swaps := d1.swaps ++ [{ group := g, cmd := cmd, hub := c.port }] }

/-- The first issuer and instruction of a program that share a counter. -/
def sharerOf (g : Program) (c : Nat) : Option (Nat × Nat) :=
  g.issuers.findSome? (fun i => (i.shares.findIdx? (fun s => s.ctr = c)).map (fun k => (i.issuer, k)))

/-- The issuer and instruction whose words and memory a place stands for. A C0 slot runs its counter's instruction with the words
and the memory of the first sharer (DEDUCED, notes/assumptions/28.md). -/
def placeOfIss (g : Program) (s : IssState) : Option (Nat × Nat) :=
  if s.issuer < 0x8000 then some (s.issuer, s.pc) else sharerOf g (s.issuer - 0x8000)

/-- The matrices that the instruction of an issuer, or of a C0 slot, names. -/
def issMats (d : Dev) (j : Job) (s : IssState) : List Nat :=
  match (d.progOf j.prog).bind (fun g => (placeOfIss g s).bind (fun k => (g.issuerRec k.1).map (fun i => (k, i.pstart)))) with
  | some (k, p) =>
    let t := instAt d k.1 p k.2
    (instMats t (jobParam d j k.1 k.2 t)).filter (· ≠ 0)
  | none => []

/-- An instruction names a matrix held by a group (R261). -/
def namesGroup (d : Dev) (g : Nat) (ms : List Nat) : Bool := ms.any (fun m => holdsMat d g m)

/-- Orders 2 and 3 of Table 9.8 are done: no claimed position of an instruction on the group waits to issue, and no tile on the
group is issued and unfinished. -/
def groupAtBoundary (d : Dev) (g : Nat) : Bool :=
  d.jobs.all (fun j => j.iss.all (fun s => s.run.isEmpty || !namesGroup d g (issMats d j s))) &&
    d.tiles.all (fun t => t.stage != .issued || !tileOnGroup d g t)

/-- Order 4: the macro's active bank switches. A check round begins again at its pattern (DEDUCED: the partial sum of a check
belongs to one bank), and a macro whose image could not be read returns with a bank that a LOAD WEIGHTS has written since (R443). -/
def Macro.swapped (x : Macro) : Macro :=
  { x with actB := !x.actB, ckPos := x.ckPos / 2 * 2, ckSum := [], scrubbing := false, unread := x.unread && !x.loaded, loaded := false }

def swapBankEffectOp (group : Nat) (d : Dev) : Dev :=
  match d.swaps.find? (fun s => s.group = group) with
  | none => d
  | some s =>
    let ms := groupMacros d group
    if groupAtBoundary d group && ms.all (fun m =>
        !(d.mac m).reload && !(d.mac m).retire && (d.mac m).shadow.st = .ready) then
      let d1 := ms.foldl (fun d m => d.modMac m Macro.swapped) d
      let d2 := { d1 with swaps := d1.swaps.filter (fun x => x.group ≠ group) }
      (d2.count 0x2099 (ssHub s.hub) 1).succeeds s.cmd 0
    else d

/-! ### Meanings -/

def execLoadWeights (cmd : Nat) (placement outliers : HostRead) (s : State) : Host.Outcome State Fault Refusal :=
  .next (s.on (loadWeightsOp s.variant cmd placement outliers s.dev))

def execLoadWeightsStart (cmd : Nat) (s : State) : Host.Outcome State Fault Refusal :=
  .next (s.on (loadWeightsStartOp cmd s.dev))

def execLoadWeightsComplete (cmd : Nat) (image : HostRead) (verify : List VerifyErr) (s : State) :
    Host.Outcome State Fault Refusal :=
  .next (s.on (loadWeightsCompleteOp s.variant cmd image verify s.dev))

def execSwapBank (cmd : Nat) (s : State) : Host.Outcome State Fault Refusal :=
  .next (s.on (swapBankOp cmd s.dev))

def execSwapBankEffect (group : Nat) (s : State) : Host.Outcome State Fault Refusal :=
  .next (s.on (swapBankEffectOp group s.dev))

end Sys2Proof.Machine
end

