-- ==== Sys2Proof/Machine/Programs.lean ====
section
/-!
DEFINITION. Program sets and the life of a job outside its tiles (ch. 9 and 13): PROGRAM LOAD, RUN JOB, copy-in and copy-out,
completion, FENCE and ABORT.
-/
namespace Sys2Proof.Machine

open Sys2Proof

/-! ### Program set images (R369, R370, R241, R242) -/

/-- `n` bytes at offset `o` of an image, as a number. -/
def imgNat (b : Bytes) (o n : Nat) : Nat := leNat ((b.drop o).take n)

/-- An issuer record of Table 13.12b as it lies in the image. -/
structure IssRec where
  issuer : Nat
  ninst : Nat
  rsv : Bool
  pstart : Nat
  nseg : Nat
  segoff : Nat
  shoff : Nat
deriving DecidableEq, Repr

def IssRec.ofNat (n : Nat) : IssRec :=
  { issuer := bitsOf n 15 0, ninst := bitsOf n 28 16, rsv := bitsOf n 31 29 ≠ 0 || bitsOf n 95 80 ≠ 0 || bitsOf n 255 224 ≠ 0,
    pstart := bitsOf n 63 32, nseg := bitsOf n 79 64, segoff := bitsOf n 159 96, shoff := bitsOf n 223 160 }

def hdrNiss (b : Bytes) : Nat := bitsOf (imgNat b 0 64) 15 0
def hdrNctr (b : Bytes) : Nat := bitsOf (imgNat b 0 64) 25 16
def hdrCalloc (b : Bytes) : Nat := bitsOf (imgNat b 0 64) 63 32
def hdrCoff (b : Bytes) : Nat := bitsOf (imgNat b 0 64) 127 64
def hdrCsize (b : Bytes) : Nat := bitsOf (imgNat b 0 64) 191 128
def hdrOk (b : Bytes) : Bool :=
  let n := imgNat b 0 64
  1 ≤ hdrNiss b && hdrNiss b ≤ 592 && 1 ≤ hdrNctr b && bitsOf n 31 26 = 0 && hdrCoff b % 64 = 0 && bitsOf n 511 192 = 0

/-- Counter table entries 0 to nctr as numbers, and issuer records. -/
def imgCtrs (b : Bytes) : List Nat := (List.range (hdrNctr b + 1)).map (fun i => imgNat b (64 + 32 * i) 32)
def imgIssuers (b : Bytes) : List IssRec :=
  (List.range (hdrNiss b)).map (fun i => .ofNat (imgNat b (64 + 32 * (hdrNctr b + 1) + 32 * i) 32))

/-- Share list and segments of a record: a segment is (memory address, length, image offset). -/
def imgShares (b : Bytes) (r : IssRec) : List Nat := (List.range r.ninst).map (fun i => imgNat b (r.shoff + 4 * i) 4)
def imgSegs (b : Bytes) (r : IssRec) : List (Nat × Nat × Nat) :=
  (List.range r.nseg).map (fun i =>
    let n := imgNat b (r.segoff + 16 * i) 16
    (bitsOf n 31 0, bitsOf n 63 32, bitsOf n 127 64))

/-- Step 1: the parts that lie inside the image. -/
def imgInside (b : Bytes) : Bool :=
  let len := b.length
  64 ≤ len && 64 + 32 * (hdrNctr b + 1) + 32 * hdrNiss b ≤ len &&
    (imgIssuers b).all (fun r => decide (r.segoff + 16 * r.nseg ≤ len) && decide (r.shoff + 4 * r.ninst ≤ len))

/-- Step 1: the fields of the header and of the issuer records. -/
def imgFieldsOk (b : Bytes) : Bool :=
  let rs := imgIssuers b
  hdrOk b && rs.all (fun r => !r.rsv && (issuerOf r.issuer).isSome && 1 ≤ r.ninst && r.ninst ≤ 4096 && r.pstart % 32 = 0 &&
    r.nseg ≤ 1024) && (rs.map (fun r => r.issuer)).eraseDups.length = rs.length

/-- Step 5: a segment lies inside its issuer's memory, and its bytes inside the image. -/
def segOk (len : Nat) (s : Nat × Nat × Nat) : Bool := s.1 + s.2.1 ≤ 262144 && s.2.2 + s.2.1 ≤ len

/-- Write the segments of an image into the issuers' memories. -/
def writeSegs (b : Bytes) (d : Dev) : Dev :=
  (imgIssuers b).foldl (fun d r =>
    (imgSegs b r).foldl (fun d s =>
      if segOk b.length s then d.swrite r.issuer s.1 ((b.drop s.2.2).take s.2.1) else d) (settleClear r.issuer d)) d

/-- The first breach of R242 among the counters: the counter's ID. -/
def ctrBreach (b : Bytes) : Option Nat :=
  let cs := imgCtrs b
  let homes := (imgIssuers b).map (fun r => r.issuer)
  let ents := (cs.drop 1).zipIdx.map (fun e => CtrEntry.ofNat (e.2 + 1) e.1)
  if nth 0 cs 0 ≠ 0 then some 0
  else (ents.find? (fun c =>
    !ctrEntryReservedOk (nth 0 cs c.id) || !homes.contains c.home || c.addr % 64 ≠ 0 || decide (c.addr + 64 > 262144) ||
      c.bmoff % 64 ≠ 0 || c.bmcap % 512 ≠ 0 || decide (c.bmoff + c.bmcap / 8 > hdrCsize b) ||
      ents.any (fun e => e.id < c.id && e.home = c.home && e.addr = c.addr))).map (fun c => c.id)

/-- What the sharers of a counter must agree in: the 32 bytes, the parameter block, grain and wait. -/
def shareKey (d : Dev) (r : IssRec) (k share : Nat) : Nat × Nat × Nat × Nat :=
  let a := r.pstart + 32 * k
  let t := instAt d r.issuer r.pstart k
  (d.sreadNat r.issuer a 32, paramNat d r.issuer t, bitsOf share 11 10, bitsOf share 25 16)

/-- The first breach of Table 9.2 or of sharing among the instructions: issuer and instruction. `d` holds the segments. -/
def shareBreach (b : Bytes) (d : Dev) : Option (Nat × Nat) :=
  let all := ((imgIssuers b).map (fun r => ((imgShares b r).zipIdx).map (fun e => (r, e.2, e.1)))).flatten
  (all.find? (fun e =>
    let s := Share.ofNat e.2.2
    !shareReservedOk e.2.2 || s.ctr = 0 || decide (s.ctr > hdrNctr b) || decide (s.wait > hdrNctr b) ||
      all.any (fun f => (Share.ofNat f.2.2).ctr = s.ctr &&
        shareKey d f.1 f.2.1 f.2.2 != shareKey d e.1 e.2.1 e.2.2))).map (fun e => (e.1.issuer, e.2.1))

/-- The commit area lies in a live stack allocation. -/
def commitOk (d : Dev) (b : Bytes) : Bool :=
  d.allocs.any (fun a => a.handle = hdrCalloc b && a.kind = .stack && decide (hdrCoff b + hdrCsize b ≤ a.size))

/-- The program that an image describes. -/
def imgProgram (b : Bytes) (handle port : Nat) : Program :=
  { handle := handle, port := port,
    issuers := (imgIssuers b).map (fun r => { issuer := r.issuer, ninst := r.ninst, pstart := r.pstart,
                                              shares := (imgShares b r).map Share.ofNat }),
    ctrs := ((imgCtrs b).drop 1).zipIdx.map (fun e => CtrEntry.ofNat (e.2 + 1) e.1),
    calloc := hdrCalloc b, coff := hdrCoff b, csize := hdrCsize b, doomed := false }

/-- The checks of R370 in order: status, detail, and the index that R242 asks for (a counter ID, or issuer + 2^16 times
instruction as in a job's completion; DESIGN CHOICE, notes/assumptions/24.md). -/
def programStatus (v : Variant) (d : Dev) (port : Nat) (b : Bytes) : BitVec 8 × Nat × Nat :=
  let issuers := (imgIssuers b).map (fun r => r.issuer)
  let homes := (((imgCtrs b).drop 1).map (fun n => bitsOf n 15 0)).filter (fun h => (issuerOf h).isSome)
  let units := issuers ++ homes
  if !imgInside b then (stLoaderCheck, 0x11, 0)
  else if !imgFieldsOk b then (stLoaderCheck, 0x10, 0)
  else if units.any (fun c => !issuerPresent v c) then (stUnitAbsent, 0, 0)
  else if units.any (fun c => issuerOffline d c) then (stUnitOffline, 0, 0)
  else if issuers.any (fun c => d.progs.any (fun p => (p.issuerRec c).isSome)) then (stUnitBusy, 0, 0)
  else if !(d.allocs.any (fun a => a.handle = hdrCalloc b && a.live)) then (stAllocHandle, 0, 0)
  else match ctrBreach b, shareBreach b (writeSegs b d) with
    | some c, _ => (stLoaderCheck, 0x10, c)
    | none, some (i, k) => (stLoaderCheck, 0x10, i + k * 2 ^ 16)
    | none, none =>
      if !commitOk d b then (stLoaderCheck, 0x10, 0)
      else if (imgIssuers b).any (fun r => (imgSegs b r).any (fun s => !segOk b.length s)) then (stLoaderCheck, 0x11, 0)
      else if ((tget (IdxQueue.fresh (2 ^ 30 - 1)) d.progIdx port).head).isNone then (stAllocFull, 0, 0)
      else (stSuccess, 0, 0)

def programLoadOp (v : Variant) (cmd : Nat) (image : HostRead) (d : Dev) : Dev :=
  match d.starting cmd 0x18 with
  | none => d
  | some c =>
    if hostOpen d c then
      match image with
      | .fail k => d.fails cmd stHostAccess k
      | .ok b0 =>
        let n := bitsOf (c.P 1) 31 0
        let b := (padTo n b0).take n
        let st := programStatus v d c.port b
        let q := tget (IdxQueue.fresh (2 ^ 30 - 1)) d.progIdx c.port
        if st.1 ≠ stSuccess then d.finish cmd st.1 (BitVec.ofNat 8 st.2.1) false (BitVec.ofNat 64 st.2.2)
        else match q.head with
          | none => d.fails cmd stAllocFull 0
          | some i =>
            let handle := c.port * 2 ^ 30 + i
            let d1 := writeSegs b d
            ({ d1 with progs := d1.progs ++ [imgProgram b handle c.port],
                       progIdx := tset d1.progIdx c.port q.pop }).succeeds cmd handle
    else d

/-! ### RUN JOB (R371) -/

/-- A transfer entry (Table 13.13). One with a nonzero reserved field is held with length 0, which makes it faulty. -/
def Xfer.ofNat (n : Nat) : Xfer :=
  { haddr := BitVec.ofNat 64 n, doff := bitsOf n 127 64, alloc := bitsOf n 159 128,
    len := if bitsOf n 255 200 = 0 then bitsOf n 191 160 else 0, out := bitOf n 192, chk := bitOf n 193, cen := bitsOf n 199 194 }

/-- A transfer entry that may run: a stack allocation, pinned since the job was accepted, 1 byte or more inside it, a check engine on the
port's hub. -/
def xferOk (d : Dev) (port : Nat) (x : Xfer) : Bool :=
  d.allocs.any (fun a => a.handle = x.alloc && a.kind = .stack && decide (x.doff + x.len ≤ a.size)) &&
    1 ≤ x.len && (!x.chk || x.cen / 16 = port)

/-- A transfer as the job takes it: one whose allocation is not live then is faulty (R381). -/
def Xfer.taken (d : Dev) (x : Xfer) : Xfer :=
  if d.allocs.any (fun a => a.handle = x.alloc && a.live) then x else { x with alloc := 0, len := 0 }

/-- A check engine that the transfers name is absent, which comes before every other check of the job (R9). -/
def xferAbsent (v : Variant) (xs : List Xfer) : Bool := xs.any (fun x => x.chk && !targetPresent v (.ce x.cen))

/-- The job is accepted and waits, or the command is refused. -/
def runJobOp (v : Variant) (cmd : Nat) (transfers : HostRead) (d : Dev) : Dev :=
  match d.starting cmd 0x19 with
  | none => d
  | some c =>
    let ph := bitsOf (c.P 0) 31 0
    let sa := bitsOf (c.P 1) 31 0
    let n := bitsOf (c.P 4) 8 0
    let waiting := (d.jobs.filter (fun j => j.prog = ph && j.stage = .waiting)).length
    let running := d.jobs.any (fun j => j.prog = ph && j.stage != .waiting)
    let list : HostRead := if n = 0 then .ok [] else transfers
    let xs : List Xfer := match list with
      | .ok b => (List.range n).map (fun i => Xfer.ofNat (imgNat b (32 * i) 32))
      | .fail _ => []
    if n ≠ 0 ∧ c.P 3 = 0 then d.fails cmd stValueRange 3
    else if n ≠ 0 ∧ !(hostOpen d c) then d
    else if xferAbsent v xs then d.fails cmd stUnitAbsent 0
    else if ph ≠ 0 ∧ !(d.progs.any (fun p => p.handle = ph && !p.doomed)) then d.fails cmd stAllocHandle 0
    else if sa ≠ 0 ∧ !(d.allocs.any (fun a => a.handle = sa && a.live)) then d.fails cmd stAllocHandle 0
    else if ph ≠ 0 ∧ waiting ≥ (if running then 16 else 17) then d.fails cmd stUnitBusy 0
    else match list with
      | .fail k => d.fails cmd stHostAccess k
      | .ok _ =>
        let d1 := d.busy cmd
        { d1 with
          jobs := d1.jobs ++ [{ id := d1.nextJob, prog := ph, cmd := some cmd, port := c.port, stage := .waiting, xfers := xs.map (Xfer.taken d),
                                params := [], descs := [], slotAlloc := sa, slotOff := c.P 2, slots := [], epoch := 0,
                                fail := none, halted := false, smiss := false, dups := [], iss := [] }],
          nextJob := d1.nextJob + 1 }

/-- The job leaves: its command completes, and what only it pinned is freed. Duplicates of its tiles that still run are discarded, as
R248 would discard them at their end (DEDUCED, notes/assumptions/145.md). -/
def endJob (j : Job) (d : Dev) : Dev :=
  let d := dropJobTiles j.id d
  let d1 := { d with jobs := d.jobs.filter (fun x => x.id ≠ j.id), outVecs := d.outVecs.filter (fun o => o.job ≠ j.id) }
  let d2 := match j.cmd with
    | none => d1
    | some c =>
      match j.fail with
      | none => d1.finish c stSuccess 0 j.smiss 0
      | some f => d1.finish c f.status f.detail j.smiss (BitVec.ofNat 64 (f.issuer + f.index * 2 ^ 16))
  settlePins d2

/-- A job ends with a failure before any tile. -/
def failEnd (j : Job) (status : BitVec 8) (detail issuer index : Nat) (d : Dev) : Dev :=
  endJob { j with fail := some { status := status, detail := BitVec.ofNat 8 detail, issuer := issuer, index := index } } d

/-- Number of instructions of a program that name a counter. -/
def nshareOf (g : Program) (c : Nat) : Nat :=
  ((g.issuers.map (fun i => i.shares.filter (fun s => s.ctr = c))).flatten).length

/-- Counter records to zero with their nshare, and the commit area cleared (R243): after the loader's checks and, where the job
copies in, after the copy-in, so that nothing but the job's tiles writes them before the first tile (DEDUCED,
notes/assumptions/120.md). -/
def startCounters (v : Variant) (g : Program) (d : Dev) : Dev :=
  let d1 := g.ctrs.foldl (fun d c => ctrSet ((settleClear c.home d).swriteNat c.home c.addr 64 0) c.home c.addr 487 472 (nshareOf g c.id)) d
  match d1.allocOf g.calloc with
  | none => d1
  | some a => devPut v a g.coff (List.replicate g.csize 0) d1

/-- The port can reach its host's memory. -/
def portOpen (d : Dev) (p : Nat) : Bool := !(d.port p).d3

/-- Step 2 of R371: every transfer with dir 0. A read that fails ends the job before its first tile; the transfers are read
before any is written (DESIGN CHOICE, notes/assumptions/25.md). The port's writes wait while its hub's switch takes none of their class (Table
10.6). -/
def copyInOp (v : Variant) (job : Nat) (data : List HostRead) (d : Dev) : Dev :=
  match d.jobOf job with
  | none => d
  | some j =>
    if j.stage = .copyIn ∧ portOpen d j.port = true ∧ switchTakes d j.port [52] 3 = true then
      let ins := j.xfers.filter (fun x => !x.out)
      let rs := (List.range ins.length).map (fun i => nth (HostRead.ok []) data i)
      match rs.findSome? (fun r => match r with | .fail k => some k | .ok _ => none) with
      | some k => failEnd j stHostAccess k 0 0 d
      | none =>
        let d1 := (ins.zip rs).foldl (fun d e =>
          match e.2, d.allocOf e.1.alloc with
          | .ok b, some al => devPut v al e.1.doff ((padTo e.1.len b).take e.1.len) d
          | _, _ => d) d
        let d2 := (d1.progOf j.prog).elim d1 (fun g => startCounters v g d1)
        d2.modJob job (fun x => { x with stage := .running })
    else d

/-! ### The end of a job (R251, R255, R371) -/

/-- The job has run to its end: it failed and no tile of it is in flight, or all its work is done. An issuer that never
returned ends it with UNIT_OFFLINE once the others have finished. -/
def jobOver (d : Dev) (j : Job) : Bool :=
  if j.halted then (jobTiles d j.id).isEmpty
  else workDone d j || (issuersDone d j && j.iss.any (leftUnrun d) && (jobTiles d j.id).isEmpty)

/-- The job's outcome with UNIT_OFFLINE for an issuer that is lost (R255). -/
def jobOutcome (d : Dev) (j : Job) : Job :=
  match j.fail with
  | some _ => j
  | none =>
    match j.iss.find? (leftUnrun d) with
    | some s => { j with fail := some { status := stUnitOffline, detail := 0, issuer := s.issuer, index := s.pc } }
    | none => j

/-- Step 4: every transfer with dir 1, once the job has succeeded. A write that fails ends it with HOST_ACCESS; a poisoned line
ends it with MEM_UNCORRECTABLE. -/
def copyOutOp (v : Variant) (job : Nat) (fault : Option Nat) (d : Dev) : Dev :=
  match d.jobOf job with
  | none => d
  | some j =>
    if j.stage = .running ∧ jobOver d j = true ∧ (jobOutcome d j).fail = none ∧ portOpen d j.port = true then
      match fault with
      | some k =>
        let f : Failure := { status := stHostAccess, detail := BitVec.ofNat 8 k, issuer := 0, index := 0 }
        d.modJob job (fun x => { x with stage := .ended, fail := some f })
      | none =>
        let r := (j.xfers.filter (fun x => x.out)).foldl (fun (r : Bool × Dev) x =>
          match r.2.allocOf x.alloc with
          | none => r
          | some al =>
            let b := devRead v al x.doff x.len r.2
            if r.1 || b.2.1 then (true, b.2.2) else (false, b.2.2.toHost j.port x.haddr.toNat b.1)) (false, d)
        let f : Failure := { status := stMemUe, detail := 0, issuer := 0, index := 0 }
        r.2.modJob job (fun x => { x with stage := .ended, fail := if r.1 then some f else x.fail })
    else d

/-- Step 5: the completion. -/
def jobCompleteOp (job : Nat) (d : Dev) : Dev :=
  match d.jobOf job with
  | none => d
  | some j =>
    let o := jobOutcome d j
    if j.stage = .ended then endJob j d
    else if j.stage = .running ∧ jobOver d j = true ∧ (o.fail.isSome = true ∨ j.xfers.all (fun x => !x.out) = true) then endJob o d
    else d

/-! ### FENCE (R372) -/

/-- The commands that a FENCE waits for: those of its scope accepted before it, and with scope 2 those
in flight on the other ports too, FENCE excepted. -/
def fenceScope (d : Dev) (c : Cmd) : List Nat :=
  let s := bitsOf (c.P 0) 1 0
  (d.cmds.filter (fun e =>
    if s = 2 then (decide (e.id < c.id) || e.port ≠ c.port) && e.opc ≠ 0x1A
    else decide (e.id < c.id) && e.port = c.port && (s = 1 || e.q = c.q))).map (fun e => e.id)

def fenceOp (cmd : Nat) (d : Dev) : Dev :=
  match d.starting cmd 0x1A with
  | none => d
  | some c =>
    let w := fenceScope d c
    let d1 := d.busy cmd
    { d1 with cmds := d1.cmds.map (fun e => if e.id = cmd then { e with waits := w } else e) }

def fenceCompleteOp (cmd : Nat) (d : Dev) : Dev :=
  match d.cmdOf cmd with
  | none => d
  | some c =>
    if c.opc = 0x1A ∧ c.stage = CmdStage.busy ∧ c.waits.all (fun w => (d.cmdOf w).isNone) = true then d.succeeds cmd 0 else d

/-! ### ABORT (R373) -/

/-- A command that ABORT acts on: RUN JOB, LOAD WEIGHTS, CALIBRATE, or a preserving SELFTEST. -/
def abortable (c : Cmd) : Bool :=
  c.opc = 0x19 || c.opc = 0x10 || c.opc = 0x28 || (c.opc = 0x29 && bitsOf (c.P 1) 3 0 = 2)

/-- End a job early: at once when none of its tiles can run, otherwise when its committed tiles have ended. -/
def abortJobNow (j : Job) (d : Dev) : Dev :=
  if j.stage = .waiting ∨ j.stage = .copyIn then failEnd j stAborted 0 0 0 d
  else if j.stage = .ended then d
  else abortJob j.id d

/-- The memory with a march-test engine that a target names (R306). -/
def marchCode : Target → Option Nat
  | .wedge f w => some (16 * f + w)
  | .core h c => some (0x4000 + 4 * h + c)
  | .mgmt => some codeStandby
  | _ => none

/-- An aborted calibration keeps what it has finished; its other macros are no longer asked for, but by another CALIBRATE, by a forced
calibration or since a wake (R373; a request by period or drift comes again with the next: DESIGN CHOICE, notes/assumptions/146.md). -/
def dropCalibration (c : Cmd) (d : Dev) : Dev :=
  let others := d.cmds.filter (fun e => e.opc = 0x28 && e.id ≠ c.id)
  c.waits.foldl (fun (d : Dev) m => d.modMac m (fun x =>
    if x.cal.forced || x.xoUncal || others.any (fun e => e.waits.contains m) then x else { x with cal := { x.cal with req := false } })) d

/-- End the command `c` with ABORTED. The march of a preserving SELFTEST stops. -/
def abortTarget (c : Cmd) (d : Dev) : Dev :=
  if c.stage = CmdStage.ready then d.fails c.id stAborted 0
  else if c.opc = 0x19 then
    match d.jobs.find? (fun j => j.cmd = some c.id) with
    | some j => abortJobNow j d
    | none => d
  else if c.opc = 0x10 then
    match d.loads.find? (fun l => l.cmd = c.id) with
    | some l => (abortLoad l d).fails c.id stAborted 0
    | none => d.fails c.id stAborted 0
  else if c.opc = 0x28 then (dropCalibration c d).fails c.id stAborted 0
  else
    let t := d.seq.tests.filter (fun t => t.cmd = some c.id)
    let d1 := { d with seq := { d.seq with tests := d.seq.tests.filter (fun t => t.cmd ≠ some c.id),
                                           isolated := d.seq.isolated.filter (fun u => !(t.any (fun x => x.target = u))) } }
    let d2 := t.foldl (fun (d : Dev) x =>
      match (targetOf x.target.toNat).bind marchCode with
      | some k => d.setSbank k { (d.sbank k) with march := none }
      | none => d) d1
    d2.fails c.id stAborted 0

def abortOp (cmd : Nat) (d : Dev) : Dev :=
  match d.starting cmd 0x1B with
  | none => d
  | some c =>
    let cid := BitVec.ofNat 16 (bitsOf (c.P 0) 15 0)
    let q := bitsOf (c.P 0) 19 16
    let done (e : Cmd) : Bool := e.opc = 0x19 && d.jobs.any (fun j => j.cmd = some e.id && j.stage = .ended)
    match d.cmds.find? (fun e => e.port = c.port && e.q = q && e.cid = cid && abortable e && !done e) with
    | none => d.fails cmd stNoTarget 0
    | some t => (abortTarget t d).succeeds cmd 0

/-! ### Meanings -/

def execProgramLoad (cmd : Nat) (image : HostRead) (s : State) : Host.Outcome State Fault Refusal :=
  .next (s.on (programLoadOp s.variant cmd image s.dev))

def execRunJob (cmd : Nat) (transfers : HostRead) (s : State) : Host.Outcome State Fault Refusal :=
  .next (s.on (runJobOp s.variant cmd transfers s.dev))

def execCopyInComplete (job : Nat) (data : List HostRead) (s : State) : Host.Outcome State Fault Refusal :=
  .next (s.on (copyInOp s.variant job data s.dev))

def execTransferCopyOut (job : Nat) (fault : Option Nat) (s : State) : Host.Outcome State Fault Refusal :=
  .next (s.on (copyOutOp s.variant job fault s.dev))

def execJobComplete (job : Nat) (s : State) : Host.Outcome State Fault Refusal :=
  .next (s.on (jobCompleteOp job s.dev))

def execFence (cmd : Nat) (s : State) : Host.Outcome State Fault Refusal :=
  .next (s.on (fenceOp cmd s.dev))

def execFenceComplete (cmd : Nat) (s : State) : Host.Outcome State Fault Refusal :=
  .next (s.on (fenceCompleteOp cmd s.dev))

def execAbort (cmd : Nat) (s : State) : Host.Outcome State Fault Refusal :=
  .next (s.on (abortOp cmd s.dev))

end Sys2Proof.Machine
end

