-- ==== Sys2Proof/Machine/Loader.lean ====
section
/-!
DEFINITION. The loader (R237, Table 8.10) and the start of a job (R221, R243, R371): the checks in their order, each over every
instruction, then the slots, and the counter records and the commit area where nothing is copied in.
-/
namespace Sys2Proof.Machine

open Sys2Proof

/-! ### What a check sees of one instruction -/

/-- An instruction under check: its issuer, index, word as a number, fields, parameter block as a number and decoded. -/
structure LInst where
  issuer : Nat
  index : Nat
  word : Nat
  t : TInst
  pn : Nat
  p : Param
deriving DecidableEq, Repr

def lInsts (d : Dev) (j : Job) : List LInst :=
  let all := jobIssuers d j
  let ord := (List.range 0x4010).filterMap (fun c => all.find? (fun i => i.issuer = c))
  (ord.map (fun i => (List.range i.ninst).map (fun k =>
    let w := d.sreadNat i.issuer (i.pstart + 32 * k) 32
    let t := TInst.ofNat w
    let pn := paramNat d i.issuer t
    { issuer := i.issuer, index := k, word := w, t := t, pn := pn, p := .ofNat pn : LInst }))).flatten

/-- What an operand field of a function holds (Table 8.2): nothing, a matrix, a descriptor, or a descriptor or 0. -/
inductive OpKind where
  | zero | mat | desc | descOr0
deriving DecidableEq, Repr

def opKinds (t : TInst) : List OpKind :=
  let z := OpKind.zero
  let m := OpKind.mat
  let r := OpKind.desc
  let o := OpKind.descOr0
  match t.func with
  | 0x01 => [r, r, m, z, r, o]
  | 0x02 => [r, z, m, z, r, z]
  | 0x03 => [r, z, m, z, r, z]
  | 0x04 => [r, r, m, if t.fuse = 2 then m else z, r, o]
  | 0x10 => [r, o, r, o, r, o]
  | 0x11 => [r, o, r, o, r, z]
  | 0x12 => [r, r, r, r, r, o]
  | 0x13 => [r, r, r, r, r, z]
  | 0x14 => [r, z, z, z, r, o]
  | 0x15 => [r, o, if 5 ≤ t.rowfn ∧ t.rowfn ≤ 7 then r else if t.rowfn = 8 ∨ t.rowfn = 9 then o else z, z, r, o]
  | 0x16 => [r, o, z, z, r, o]
  | _ => []

def opKind (t : TInst) (o : Nat) : OpKind := nth .zero (opKinds t) o
def isDescOp (t : TInst) (o : Nat) : Bool := opKind t o = .desc || opKind t o = .descOr0

/-- A live descriptor. -/
def liveDesc (d : Dev) (h : Nat) : Option Desc := if h % 16384 = 0 then none else d.descOf h

/-- The outputs among the operand fields. -/
def isOutOp (t : TInst) (o : Nat) : Bool := if t.func = fLAPP then 2 ≤ o else 4 ≤ o

/-- The instruction forms MXINT8 blocks (R214). The sign output of R176 is one of MXINT8 blocks, though its exponent is the tile's own
and no tracker entry supplies it (DEDUCED, notes/assumptions/26.md). -/
def forms (t : TInst) : Bool := t.func = fMFUSE || t.func = fLAPP || t.opnd 5 ≠ 0

/-- Bounds known before the start: immediate and slot bounds (R221). -/
def knownBound (slots : List (BitVec 32)) (b : BitVec 32) : Option Nat :=
  match boundSrc b with
  | 0 => some (boundVal b)
  | 1 => some (nth 0 slots (bitsOf b.toNat 3 0)).toNat
  | _ => none

def LInst.known (x : LInst) (slots : List (BitVec 32)) (i : Nat) : Option Nat := knownBound slots (nth 0 x.t.bnd i)

/-! ### The single checks: each answers whether the instruction breaks it -/

/-- Units named: the macros of its matrices (with the state the check asks for), the stacks and windows of its descriptors and of the
index descriptors that those name. -/
def namedMacros (d : Dev) (x : LInst) : List Nat :=
  ((instMats x.t x.p).map (fun m => (d.matOf m).elim [] (fun y => y.place))).flatten

def namedAllocs (d : Dev) (x : LInst) : List Alloc :=
  let ds := (instHandles x.t x.p).filterMap (liveDesc d)
  let idx := ds.filterMap (fun y => if y.ien then liveDesc d y.idx else none)
  (ds ++ idx).filterMap (fun y => d.allocOf y.alloc)

def breaks1 (v : Variant) (d : Dev) (x : LInst) : Bool :=
  !issuerPresent v x.issuer || (namedMacros d x).any (fun m => !facetPresent v (facetOfMacro m)) ||
    (namedAllocs d x).any (fun a => match a.kind with
      | .stack => a.arcs.any (fun r => !hubPresent v r.hub)
      | .halo => !issuerPresent v a.issuer
      | .window => !groupPresent v a.winHub a.winGroup)

def breaks2 (d : Dev) (x : LInst) : Bool :=
  issuerOffline d x.issuer || (namedMacros d x).any (fun m => macroOffline d m || (d.mac m).unread) ||
    (namedAllocs d x).any (fun a => match a.kind with
      | .stack => a.arcs.any (fun r => targetOffline d (.stack r.hub 0) || targetOffline d (.stack r.hub 1))
      | .halo => issuerOffline d a.issuer
      | .window => targetOffline d (.group a.winHub a.winGroup))

/-- Check 4: reserved bits, and the fields that Table 8.2 sets to 0. -/
def breaks4 (x : LInst) : Bool :=
  !tinstReservedOk x.word || x.t.bnd.any (fun b => !boundReservedOk b) ||
    (!(opKinds x.t).isEmpty && (List.range 6).any (fun o => opKind x.t o = .zero && x.t.field o ≠ 0))

/-- The row-wise functions of a function (Table 8.2). -/
def rowfns (t : TInst) : List Nat :=
  match t.func with
  | 0x01 => [0, 2, 3, 4, 9, 10]
  | 0x04 => if t.fuse = 1 then [2, 3, 4, 10] else [5, 6, 7]
  | 0x10 => [0, 2, 3, 4, 9]
  | 0x12 => [1]
  | 0x14 => [0, 1]
  | 0x15 => [2, 3, 4, 5, 6, 7, 8, 9, 10]
  | _ => [0]

def modeOk (t : TInst) : Bool :=
  if t.func = fMFUSE then t.mode ≤ 3
  else if isMacroFn t.func then t.mode ≤ 4
  else if t.func = fLDOT || t.func = fLSEL then t.mode ≤ 1
  else t.mode = 0

def shapeOk (t : TInst) : Bool :=
  if isMacroFn t.func then t.shape ≤ 3 else if isGridFn t.func then 4 ≤ t.shape && t.shape ≤ 11 else t.shape = 12

def fuseOk (t : TInst) : Bool :=
  if t.func = fMFUSE then t.fuse = 1 || t.fuse = 2 else if t.func = fLATT then t.fuse = 1 else t.fuse = 0

/-- Check 5. -/
def breaks5 (d : Dev) (x : LInst) : Bool :=
  let t := x.t
  (opKinds t).isEmpty || !modeOk t || !shapeOk t || t.cmp = 3 || !fuseOk t || !(rowfns t).contains t.rowfn ||
    (if forms t then t.trk = 3 else t.trk ≠ 3) ||
    (t.cmp ≠ 0 && (!(t.func = fLDOT || t.func = fLSEL) ||
      (List.range 6).any (fun o => isDescOp t o && (liveDesc d (t.opnd o)).elim false (fun y => y.form = 3))))

def breaks6 (d : Dev) (port : Nat) (x : LInst) : Bool := x.t.gen ≠ (d.port port).gen

/-- A parameter that the function does not use holds a value (R214, Table 8.7); `n` is the block as it stands, whose handle fields must
hold zero where they are unused. -/
def paramUnused (t : TInst) (p : Param) (n : Nat) : Bool :=
  let f := t.func
  let hM := bitsOf n 111 96
  let hS := bitsOf n 127 112
  let hV := bitsOf n 143 128
  let oin := bitsOf n 351 320
  let oout := bitsOf n 383 352
  let att := f = fLATT
  let mp := f = fMPROJ || f = fMFUSE
  let out := mp || f = fLDOT || f = fLROW
  let thr := f = fMTHR || f = fMPRED
  (p.f0 ≠ 0 && !(att || t.rowfn = 8 || (t.rowfn = 9 && !(f = fLROW && t.opnd 2 ≠ 0)))) ||
  (p.n0 ≠ 0 && !(att || f = fLSEL || (f = fLMRG && t.rowfn = 0))) ||
  (p.qpos ≠ 0 && !(att || f = fLAPP)) ||
  ((hM ≠ 0 || hS ≠ 0 || p.qgrp ≠ 0 || p.causal) && !att) ||
  ((hV ≠ 0 || oin ≠ 0) && !mp) ||
  ((p.mat2 ≠ 0 || p.trk1 ≠ 0) && f ≠ fMFUSE) ||
  ((p.omat ≠ 0 || oout ≠ 0) && !out) ||
  (p.trk0 ≠ 0 && t.trk = 3) ||
  (p.texp ≠ 0 && !(thr || (t.rowfn = 9 && t.opnd 5 ≠ 0))) ||
  (p.tadr ≠ 0 && !thr) || (p.radr ≠ 0 && f ≠ fMPRED) || (p.sadr ≠ 0 && t.trk ≠ 1) ||
  ((p.wbase ≠ 0 || p.wlen ≠ 0 || p.clr || p.cadd || p.wfill ≠ 0) && !isLaneFn f) ||
  (p.tform && f ≠ fMTHR)

/-- An origin that serves no tile dimension holds a value (R219). -/
def originUnused (d : Dev) (t : TInst) (o : Nat) (org : List Int) : Bool :=
  let nds := ([o, o + 1].filter (fun i => isDescOp t i && t.opnd i ≠ 0)).map (fun i =>
    (liveDesc d (t.opnd i)).elim 4 (fun y => y.nd))
  (List.range 3).any (fun k => nth 0 org k ≠ 0 && nds.all (fun n => decide (n < 2 + k)))

/-- Check 7. -/
def breaks7 (d : Dev) (x : LInst) : Bool :=
  (x.t.pblk ≠ 0 && decide (16 * x.t.pblk + 128 > 262144)) || !paramReservedOk x.pn || paramUnused x.t x.p x.pn ||
    originUnused d x.t 0 x.p.orgA || originUnused d x.t 2 x.p.orgB || originUnused d x.t 4 x.p.orgC

/-- The output is MXINT8 and names a matrix whose outliers it feeds (R499). -/
def outliersOut (t : TInst) (p : Param) : Bool := p.omat ≠ 0 && t.opnd 5 ≠ 0

/-- Check 8. -/
def breaks8 (d : Dev) (x : LInst) : Bool :=
  let t := x.t
  let p := x.p
  let dead (h : Nat) : Bool := h ≠ 0 && (liveDesc d h).isNone
  let noMat (m : Nat) : Bool := (d.matOf m).isNone
  (List.range 6).any (fun o => match opKind t o with
    | .zero => false
    | .mat => noMat (t.opnd o)
    | .desc => (liveDesc d (t.opnd o)).isNone
    | .descOr0 => dead (t.opnd o)) ||
  (t.func = fMFUSE && noMat p.mat2) || (p.omat ≠ 0 && noMat p.omat) || (t.func = fLATT && p.hS = 0) ||
  [p.hM, p.hS, p.hV, p.oinD, p.oinE, p.ooutD, p.ooutE].any dead ||
  (outliersOut t p && (p.ooutD = 0 || p.ooutE = 0)) ||
  t.bnd.any (fun b => boundSrc b = 3 && (liveDesc d (bitsOf b.toNat 15 0)).isNone)

def isFloatFmt (f : Nat) : Bool := 5 ≤ f && f ≤ 9

/-- Scale operands of a function: op1, op3 and op5, with their data operands one below. -/
def scaleOps (t : TInst) : List Nat :=
  if t.func = fLAPP then []
  else if t.func = fLATT then [1, 5]
  else if isMacroFn t.func || t.func = fLROW then [1, 5]
  else [1, 3, 5]

/-- Formats that the roles of a function need (R51, R57, R146, R162, R165, R166, R176, R183; what the rules do not say is
DEDUCED, notes/assumptions/27.md). -/
def roleBad (d : Dev) (t : TInst) (p : Param) : Bool :=
  let fmt (o : Nat) : Nat := (liveDesc d (t.opnd o)).elim 15 (fun y => y.fmt)
  let inFmt (o : Nat) : Bool := if t.mode = 1 then fmt o = 5 else fmt o = 0
  let out := fmt 4
  (isMacroFn t.func && fmt 0 ≠ 0) ||
  ((t.func = fMTHR || t.func = fMPRED) && !(out = 2 || out = 3 || out = 0xD)) ||
  ((t.func = fLDOT || t.func = fLSEL) && !(inFmt 0 && inFmt 2)) ||
  (t.func = fLATT && !(fmt 0 = 0 && fmt 2 = 0 && fmt 3 = 0)) ||
  (t.func = fLAPP && !((fmt 0 = 7 || fmt 0 = 5) && (fmt 1 = 7 || fmt 1 = 5) && fmt 2 = 0 && fmt 3 = 0 && out = 0xA)) ||
  (t.func = fLMRG && fmt 0 ≠ 7 && fmt 0 ≠ 3) ||
  (p.cadd && !((out = 2 || out = 7) && t.opnd 5 = 0)) ||
  ((t.func = fMPROJ || t.func = fMFUSE || t.func = fLDOT || t.func = fLATT || t.func = fLROW) && t.opnd 5 = 0 &&
    !(isFloatFmt out || (t.rowfn = 9 && (out = 0xD || out = 3 || out = 2)))) ||
  (t.func = fLMOVE &&
    (let k (sc o : Nat) : Nat := if t.opnd sc ≠ 0 then 100 else if isFloatFmt (fmt o) then 101 else fmt o
     let a := k 1 0
     let b := k 5 4
     a ≠ b && !((a = 100 && b = 101) || (a = 101 && b = 100))))

/-- A halo descriptor stands only where R257 lets it. -/
def haloBad (d : Dev) (x : LInst) : Bool :=
  let isHalo (h : Nat) : Bool := ((liveDesc d h).bind (fun y => d.allocOf y.alloc)).elim false (fun a => a.kind = .halo)
  let shared : Bool := d.progs.any (fun g =>
    match g.issuerRec x.issuer with
    | none => false
    | some r => decide (1 < ((g.issuers.map (fun i => i.shares.filter (fun s => s.ctr = (r.share x.index).ctr))).flatten).length))
  let here := (List.range 6).any (fun o => isDescOp x.t o && isHalo (x.t.opnd o))
  ((instHandles x.t x.p).any isHalo && !here) ||
  (here && (!isMacroFn x.t.func || decide (x.issuer ≥ 576) || shared ||
    (List.range 6).any (fun o => o ≠ 0 && o ≠ 4 && isDescOp x.t o && isHalo (x.t.opnd o)) ||
    (List.range 6).any (fun o => isDescOp x.t o && isHalo (x.t.opnd o) && (liveDesc d (x.t.opnd o)).elim false (fun y => y.form ≠ 0)) ||
    [x.p.hV, x.p.oinD, x.p.oinE, x.p.ooutD, x.p.ooutE].any (fun h => h ≠ 0 && isHalo h) ||
    x.t.bnd.any (fun b => boundSrc b = 3 && isHalo (bitsOf b.toNat 15 0))))

/-- Check 9. -/
def breaks9 (d : Dev) (x : LInst) : Bool :=
  let t := x.t
  let p := x.p
  let useBad (h : Nat) (out : Bool) : Bool := (liveDesc d h).elim false (fun y => (y.use = 0) = out)
  let fmtBad (h f : Nat) : Bool := h ≠ 0 && (liveDesc d h).elim false (fun y => y.fmt ≠ f || y.form ≠ 0)
  (List.range 6).any (fun o => isDescOp t o && t.opnd o ≠ 0 && useBad (t.opnd o) (isOutOp t o)) ||
  (scaleOps t).any (fun o => t.opnd o ≠ 0 && isDescOp t o && (match liveDesc d (t.opnd o), liveDesc d (t.opnd (o - 1)) with
    | some s, some y => s.form ≠ 0 || s.fmt ≠ 0xA || !s.ken || y.fmt ≠ 0 || !y.ken
    | _, _ => true)) ||
  [p.hM, p.hS, p.hV, p.oinD, p.oinE].any (fun h => h ≠ 0 && useBad h false) ||
  [p.ooutD, p.ooutE].any (fun h => h ≠ 0 && useBad h true) ||
  fmtBad p.hM 0xD || fmtBad p.hS 0xA || fmtBad p.oinD 1 || fmtBad p.oinE 0xA || fmtBad p.ooutD 1 || fmtBad p.ooutE 0xA ||
  (p.hV ≠ 0 && (liveDesc d p.hV).elim false (fun y => y.form ≠ 0 || !(y.fmt = 0xC || y.fmt = 0xD || y.fmt = 2 || y.fmt = 3))) ||
  t.bnd.any (fun b => boundSrc b = 3 && (liveDesc d (bitsOf b.toNat 15 0)).elim false (fun y => y.form ≠ 0 || y.fmt ≠ 3 || y.use ≠ 0)) ||
  roleBad d t p || haloBad d x

/-- Data and scale agree in shape, permutation and index tensor (R89, R95), and in the dimension that it indexes (DEDUCED,
notes/assumptions/144.md). -/
def scaleShapeOk (y s : Desc) : Bool :=
  y.nd = s.nd && y.perm = s.perm && y.kdim = s.kdim && y.ien = s.ien && (!y.ien || (y.idx = s.idx && y.idim = s.idim)) &&
    (List.range (y.nd + 1)).all (fun i => s.extent i = if i = y.kdim then cdiv (y.extent i) 32 else y.extent i)

/-- The extents of a descriptor without its blocked dimension. -/
def outerExtents (y : Desc) : List Nat :=
  ((List.range (y.nd + 1)).filter (fun i => !(y.ken && i = y.kdim))).map (fun i => y.extent i)

/-- A pair of outlier descriptors beside a data operand and the outlier list of a matrix (R499). A data tensor whose only
dimension is blocked has no other: its exponent tensor then holds one element. -/
def outlierPairBad (d : Dev) (hd he hx mat : Nat) : Bool :=
  if hd = 0 ∧ he = 0 then false
  else if hd = 0 ∨ he = 0 then true
  else match liveDesc d hd, liveDesc d he, liveDesc d hx with
    | some a, some b, some y =>
      let out := outerExtents y
      let ext (z : Desc) : List Nat := z.dims.map Prod.snd
      (d.matOf mat).elim false (fun m => a.extent 0 ≠ m.outliers.length) || (ext a).drop 1 ≠ out ||
        ext b ≠ (if out = [] then [1] else out)
    | _, _, _ => false

/-- Check 10. -/
def breaks10 (d : Dev) (x : LInst) : Bool :=
  (scaleOps x.t).any (fun o => x.t.opnd o ≠ 0 && (match liveDesc d (x.t.opnd o), liveDesc d (x.t.opnd (o - 1)) with
    | some s, some y => !scaleShapeOk y s
    | _, _ => false)) ||
  outlierPairBad d x.p.oinD x.p.oinE (x.t.opnd 0) (x.t.opnd 2) || outlierPairBad d x.p.ooutD x.p.ooutE (x.t.opnd 4) x.p.omat

/-- The packing that a computing mode needs (Table 3.1). -/
def modePacking (mode : Nat) : Packing := if mode ≤ 1 then .int8 else if mode ≤ 3 then .int4 else .ternary

/-- The wedge of the final adder of each column block (R498). -/
def adderWedges (m : Matrix) : List Nat := (List.range m.colBlocks).map (fun cb => wedgeOfMacro (m.placed 0 cb))

/-- Check 11. -/
def breaks11 (d : Dev) (x : LInst) : Bool :=
  if !isMacroFn x.t.func then false
  else
    let ms := ((instMats x.t x.p).filter (· ≠ 0)).filterMap (fun m => d.matOf m)
    let pk := modePacking x.t.mode
    ms.any (fun m => m.packing ≠ pk || m.place.any (fun k => (d.mac k).active.st = .empty || (d.mac k).active.packing ≠ pk)) ||
    ((x.t.func = fMTHR || x.t.func = fMPRED) && ms.any (fun m => (List.range m.colBlocks).any (fun cb =>
      decide (1 < (((List.range m.rowBlocks).map (fun rb => wedgeOfMacro (m.placed rb cb))).eraseDups).length)))) ||
    (x.t.func = fMFUSE && (match d.matOf (x.t.opnd 2), d.matOf x.p.mat2 with
      | some a, some b => b.rows ≠ a.cols ||
        (x.t.fuse = 2 && (match d.matOf (x.t.opnd 3) with
          | some u => u.rows ≠ a.rows || u.cols ≠ a.cols || u.packing ≠ a.packing || adderWedges u ≠ adderWedges a
          | none => true))
      | _, _ => true))

/-- Check 12: the bounds that are known obey R223. -/
def breaks12 (d : Dev) (slots : List (BitVec 32)) (x : LInst) : Bool :=
  let t := x.t
  let lim (i : Nat) (p : Nat → Bool) : Bool := (x.known slots i).elim false (fun n => !p n)
  let rows := (d.matOf (t.opnd 2)).elim 0 (fun m => m.rows)
  let cols := (d.matOf (t.opnd 2)).elim 0 (fun m => m.cols)
  let cols2 := (d.matOf x.p.mat2).elim 0 (fun m => m.cols)
  (if t.func = fMFUSE then lim 2 (fun n => 1 ≤ n && n ≤ rows) || lim 1 (fun n => 1 ≤ n && n ≤ cols2)
   else if isMacroFn t.func then lim 1 (fun n => n ≤ cols) || lim 2 (fun n => 1 ≤ n && n ≤ rows)
   else if t.func = fLATT then lim 2 (fun n => n = (laneShape t.shape).2.2)
   else if t.func = fLDOT || t.func = fLSEL then lim 2 (fun n => 1 ≤ n && n ≤ 16384)
   else if t.func = fLROW && t.rowfn = 8 then lim 1 (fun n => n ≤ 16384)
   else false) ||
  (match x.known slots 0, x.known slots 1 with
    | some b0, some b1 => let g := gridOf t (instUnits d t) b0 b1; decide (g.1 * g.2 > 2 ^ 32 - 1)
    | _, _ => false)

/-- The tracker ranges of an instruction (R98, R108, R166, R230): base and length; `b1` is unknown until the instruction starts
when it is read then. -/
def trackRanges (d : Dev) (t : TInst) (p : Param) (b1 : Option Nat) : List (Nat × Nat) :=
  if t.trk = 3 then []
  else
    let extra := if p.omat ≠ 0 then 1 else 0
    let outAt (base : Nat) : List (Nat × Nat) := b1.elim [] (fun n => [(base, cdiv n 32 + extra)])
    if t.func = fMFUSE then
      let w := (d.matOf (t.opnd 2)).elim 0 (fun m => m.cols)
      let o := if (d.matOf p.mat2).elim false (fun m => m.outliers ≠ []) then 1 else 0
      (p.trk0, cdiv w 32 + o) :: (if t.opnd 5 ≠ 0 then outAt p.trk1 else [])
    else if t.func = fLATT then [(p.trk0, (laneShape t.shape).2.2 / 32)]
    else if t.func = fLAPP then [(p.trk0, 2)]
    else outAt p.trk0

/-- Check 13: areas in the issuer's memory. -/
def breaks13 (d : Dev) (slots : List (BitVec 32)) (x : LInst) : Bool :=
  let t := x.t
  let p := x.p
  let cols := (d.matOf (t.opnd 2)).elim 0 (fun m => m.cols)
  let per := if t.func = fMPRED ∨ p.tform = true then 8 else 4
  ((t.func = fMTHR || t.func = fMPRED) && decide (16 * p.tadr + per * cols > 262144)) ||
  (t.func = fMPRED && (decide (16 * p.radr + 32 > 262144) ||
    (List.range cols).any (fun u => d.sreadNat x.issuer (16 * p.tadr + 8 * u + 6) 2 ≠ 0))) ||
  (t.trk = 1 && decide (16 * p.sadr + 4 * ((trackRanges d t p (x.known slots 1)).map Prod.snd).sum > 262144))

/-- Check 14: tracker ranges. -/
def breaks14 (d : Dev) (slots : List (BitVec 32)) (x : LInst) : Bool :=
  let rs := trackRanges d x.t x.p (x.known slots 1)
  (x.t.trk ≠ 3 && (decide (x.p.trk0 ≥ 4096) || decide (x.p.trk1 ≥ 4096))) ||
    rs.any (fun r => decide (r.1 + r.2 > 4096)) ||
    (match rs with
      | [a, b] => decide (a.1 < b.1 + b.2 ∧ b.1 < a.1 + a.2)
      | _ => false)

/-- Stride of a list region and of a softmax record (R164, R170). -/
def listStride (k : Nat) : Nat := roundUp (16 + 8 * k) 64
def recStride (dd : Nat) : Nat := if dd ≤ 128 then 576 else 1088

/-- Width of the output rows of a merge stage of softmax records: 128 or 256, by its output's extent (notes/assumptions/37.md). -/
def mergeWidth (y : Option Desc) : Nat := y.elim 128 (fun x => if x.extent (nth 0 x.perm 0) ≤ 128 then 128 else 256)

/-- Output elements of a tile of a row function (R161): the merged row or list of LMRG, both rows of LAPP, else the row. -/
def rowOutputs (d : Dev) (t : TInst) (p : Param) (b1 : Option Nat) : Option Nat :=
  if t.func = fLMRG then some (if t.rowfn = 1 then mergeWidth (liveDesc d (t.opnd 4)) else 4 + 2 * p.n0)
  else if t.func = fLAPP then b1.map (2 * ·)
  else b1

/-- Check 15: the window. -/
def breaks15 (d : Dev) (slots : List (BitVec 32)) (x : LInst) : Bool :=
  let t := x.t
  let p := x.p
  let (m, n, dd) := laneShape t.shape
  if !isLaneFn t.func then false
  else
    decide (p.wlen > 32768) || decide (p.wbase + p.wlen > 32768) ||
    ((t.func = fLSEL || (t.func = fLMRG && t.rowfn = 0)) && (p.n0 = 0 || decide (p.n0 > 1024))) ||
    (t.func = fLSEL && (decide (m * (16 + 8 * p.n0) > 69632) || decide (m * listStride p.n0 > 64 * p.wlen))) ||
    (t.func = fLATT && decide (m * recStride dd > 64 * p.wlen)) ||
    (t.func = fLDOT && decide (4 * (m * n) > 64 * p.wlen)) ||
    (isRowShape t.func && p.wlen ≠ 0 && (rowOutputs d t p (x.known slots 1)).elim false (fun n => decide (4 * n > 64 * p.wlen)))

/-- Columns of a tile's output (Tables 8.3, 8.4). A bound that is read when the instruction starts cuts nothing here, and a row that it
alone sets is not held to a limit later (DESIGN CHOICE, notes/assumptions/161.md). -/
def outCols (d : Dev) (t : TInst) (b1 : Option Nat) : Nat :=
  let cut (n : Nat) : Nat := b1.elim n (fun b => min n b)
  let (_, n, dd) := laneShape t.shape
  if t.func = fLDOT then cut n
  else if t.func = fLATT then dd
  else if t.func = fMFUSE then b1.getD 0
  else if t.func = fLMRG then mergeWidth (liveDesc d (t.opnd 4))
  else if isMacroFn t.func then cut (unitsOf (modePacking t.mode))
  else b1.getD 0

/-- Vectors or rows of a tile's output. -/
def outRows (t : TInst) : Nat := if isMacroFn t.func then macroR t.shape else if isGridFn t.func then (laneShape t.shape).1 else 1

/-- Elements of format `fmt` that hold a field of `w` bits for each of `n` columns: bits, or 32-bit words (R56, R176). -/
def fieldSpan (fmt w n : Nat) : Nat := if fmt = 0xD then w * n else cdiv (w * n) 32

/-- Positions in tile dimension 0 of the output that operand `o` names (Table 8.6a): list words, field words, scale blocks or columns. -/
def outSpan0 (d : Dev) (t : TInst) (p : Param) (fmt : Nat) (b1 : Option Nat) (o : Nat) : Nat :=
  let n := outCols d t b1
  if t.func = fLSEL ∨ (t.func = fLMRG ∧ t.rowfn = 0) then 4 + 2 * p.n0
  else if t.func = fLAPP ∧ o = 4 then 1
  else if o = 5 then cdiv n 32
  else if t.func = fMTHR then fieldSpan fmt (if p.tform then 2 else 1) n
  else if t.func = fMPRED then fieldSpan fmt 2 n
  else if t.rowfn = 9 ∧ t.opnd 5 = 0 then fieldSpan fmt 1 n
  else n

/-- The index slice that a tile gives a descriptor exceeds the sorter, where dimension 0 has `n` positions and 1 has `m` (R202). Positions
beyond the index tensor are padding and have no index value (R187). -/
def sliceBad (d : Dev) (h n m : Nat) : Bool :=
  (liveDesc d h).elim false (fun y => y.use = 1 && y.ien &&
    decide (min (match y.perm.idxOf y.idim with | 0 => n | 1 => m | _ => 1) ((liveDesc d y.idx).elim 0 (fun z => z.extent 0)) > 4096))

/-- Check 16: RMS rows and index slices. The outlier data hold one element for each outlier of a vector, the outlier exponents one for
each vector (R499). -/
def breaks16 (d : Dev) (slots : List (BitVec 32)) (x : LInst) : Bool :=
  let t := x.t
  let b1 := x.known slots 1
  (t.func = fLROW && t.rowfn = 8 && b1.elim false (fun n => decide (n > 16384))) ||
  ((List.range 6).any (fun o => isDescOp t o && isOutOp t o &&
    sliceBad d (t.opnd o) (outSpan0 d t x.p ((liveDesc d (t.opnd o)).elim 0 (fun y => y.fmt)) b1 o) (outRows t))) ||
  sliceBad d x.p.ooutD ((d.matOf x.p.omat).elim 0 (fun m => m.outliers.length)) (outRows t) || sliceBad d x.p.ooutE (outRows t) 1

/-! ### The loader (R237) -/

/-- Each check in order: its status, its detail, and whether an instruction breaks it. Check 3 concerns whole programs. -/
def loaderChecks (v : Variant) (d : Dev) (port : Nat) (slots : List (BitVec 32)) : List (BitVec 8 × Nat × (LInst → Bool)) :=
  [(stUnitAbsent, 0, breaks1 v d), (stUnitOffline, 0, breaks2 d),
   (stLoaderCheck, 0x01, fun x => d.progs.any (fun g => (g.issuerRec x.issuer).elim false (fun r =>
      decide (r.ninst > 4096) || decide (r.pstart + 32 * r.ninst > 262144)))),
   (stLoaderCheck, 0x02, breaks4), (stLoaderCheck, 0x03, breaks5 d), (stLoaderCheck, 0x04, breaks6 d port),
   (stLoaderCheck, 0x05, breaks7 d), (stLoaderCheck, 0x06, breaks8 d), (stLoaderCheck, 0x07, breaks9 d),
   (stLoaderCheck, 0x08, breaks10 d), (stLoaderCheck, 0x09, breaks11 d), (stLoaderCheck, 0x0A, breaks12 d slots),
   (stLoaderCheck, 0x0B, breaks13 d slots), (stLoaderCheck, 0x0C, breaks14 d slots), (stLoaderCheck, 0x0D, breaks15 d slots),
   (stLoaderCheck, 0x0E, breaks16 d slots)]

/-- The first failure: check by check, and within a check instruction by instruction. -/
def firstBreak (xs : List LInst) : List (BitVec 8 × Nat × (LInst → Bool)) → Option (BitVec 8 × Nat × Nat × Nat)
  | [] => none
  | c :: cs =>
    match xs.find? c.2.2 with
    | some x => some (c.1, c.2.1, x.issuer, x.index)
    | none => firstBreak xs cs

/-- The slot vector lies 64-byte aligned inside its allocation; allocation 0 means slots of zero (Table 13.8). -/
def slotVectorOk (d : Dev) (j : Job) : Bool :=
  j.slotAlloc = 0 || (j.slotOff % 64 = 0 &&
    (d.allocOf j.slotAlloc).elim false (fun a => a.kind = .stack && decide (j.slotOff + 64 ≤ a.size)))

/-- Read the slot vector (R221): the slots, poison, the device. -/
def readSlots (v : Variant) (d : Dev) (j : Job) : List (BitVec 32) × Bool × Dev :=
  match d.allocOf j.slotAlloc with
  | none => (List.replicate 16 0, false, d)
  | some a =>
    if j.slotAlloc = 0 ∨ slotVectorOk d j = false then (List.replicate 16 0, false, d)
    else
      let r := devRead v a j.slotOff 64 d
      ((List.range 16).map (fun i => BitVec.ofNat 32 (word32 r.1 i)), r.2.1, r.2.2)

/-- What the check engines that the job's transfers name give: absence comes before every other check (R9, R11). -/
def xferEngines (v : Variant) (d : Dev) (j : Job) (st : BitVec 8) : Option (BitVec 8 × Nat × Nat × Nat) :=
  if j.xfers.any (fun x => x.chk && targetStatus v d (.ce x.cen) == st) then some (st, 0, 0, 0) else none

/-- The failure that ends the job at the loader, if any: checks 1 and 2 with the check engines of its transfers, the slot vector with
check 3, the other checks. -/
def loaderFailure (v : Variant) (d : Dev) (j : Job) (slots : List (BitVec 32)) : Option (BitVec 8 × Nat × Nat × Nat) :=
  let xs := lInsts d j
  let cs := loaderChecks v d j.port slots
  firstBreak xs (cs.take 1) <|> xferEngines v d j stUnitAbsent <|> firstBreak xs ((cs.drop 1).take 1) <|> xferEngines v d j stUnitOffline <|>
    firstBreak xs ((cs.drop 2).take 1) <|> if slotVectorOk d j then firstBreak xs (cs.drop 3) else some (stLoaderCheck, 0x01, 0, 0)

/-! ### The start of a job (R221, R243, R371) -/

/-- The slots of each issuer of the job. -/
def writeSlots (g : Program) (slots : List (BitVec 32)) (d : Dev) : Dev :=
  { d with slots := g.issuers.foldl (fun t i =>
      (List.range 16).foldl (fun t k => tput 0 t (issuerIndex i.issuer * 16 + k) (nth 0 slots k)) t) d.slots }

/-- The job as it starts: its parameter blocks and descriptors are taken, its issuers stand before their first instruction. -/
def startedJob (d : Dev) (j : Job) (slots : List (BitVec 32)) (iss : List IssState) : Job :=
  { j with stage := if j.xfers.any (fun x => !x.out) then .copyIn else .running, slots := slots,
           params := (lInsts d j).foldl (fun t x => tset t (paramKey x.issuer x.index) x.p) [],
           descs := (jobHandles d j).filterMap (fun h => liveDesc d h), iss := iss }

/-- Step 1 of R371. The job starts when no other job of its program runs and none waits before it. A memory that is being cleared after a
wake is clear before the loader reads it (R305). -/
def jobStartOp (v : Variant) (job : Nat) (d : Dev) : Dev :=
  match d.jobOf job with
  | none => d
  | some j =>
    let held := j.prog ≠ 0 && d.jobs.any (fun x => x.prog = j.prog && (x.stage != .waiting || decide (x.id < j.id)) && x.id != j.id)
    if j.stage ≠ .waiting ∨ held = true then d
    else
      let d := ((jobIssuers d j).map (fun i => i.issuer)).foldl (fun (d : Dev) c => settleClear c d) d
      let r := readSlots v d j
      let d1 := r.2.2
      if r.2.1 then failEnd j stMemUe 0 0 0 d1
      else match loaderFailure v d1 j r.1 with
        | some f => failEnd j f.1 f.2.1 f.2.2.1 f.2.2.2 d1
        | none =>
          if j.xfers.any (fun x => !xferOk d1 j.port x) then failEnd j stLoaderCheck 0x12 0 0 d1
          else match d1.progOf j.prog with
            | none =>
              let j1 := startedJob d1 j r.1 []
              d1.modJob job (fun _ => j1)
            | some g =>
              let iss := g.issuers.map (fun i =>
                { issuer := i.issuer, pc := 0, stage := .start, run := [], swept := false, lost := false : IssState })
              let j1 := startedJob d1 j r.1 iss
              let d2 := writeSlots g r.1 d1
              (if j1.stage = .running then startCounters v g d2 else d2).modJob job (fun _ => j1)

def execJobStart (job : Nat) (s : State) : Host.Outcome State Fault Refusal :=
  .next (s.on (jobStartOp s.variant job s.dev))

end Sys2Proof.Machine
end

