-- ==== Sys2Proof/Machine/Issuers.lean ====
section
/-!
DEFINITION. Issuers (ch. 9): the start of an instruction, claims from the main cursor and sweeps, the wait on a counter, rejoining
after a reset, and the handshake at which a claimed tile is issued (R226, R244 to R255, R262, R285).
-/
namespace Sys2Proof.Machine

open Sys2Proof

/-! ### The job that an issuer serves -/

/-- The running job of an issuer and its place in it. -/
def issuerJob (d : Dev) (code : Nat) : Option (Job × IssState) :=
  d.jobs.findSome? (fun j =>
    if j.stage = .running then
      (j.iss.find? (fun s => s.issuer = code && (decide (code < 0x8000) || s.run != []))).map (fun s => (j, s))
    else none)

def Job.modIss (j : Job) (code : Nat) (f : IssState → IssState) : Job :=
  { j with iss := j.iss.map (fun s => if s.issuer = code then f s else s) }

def modIss (job code : Nat) (f : IssState → IssState) (d : Dev) : Dev := d.modJob job (fun j => j.modIss code f)

/-- What an issuer needs of its instruction: word, parameters, counter, grain and wait. -/
structure AtInst where
  issuer : Nat
  pc : Nat
  t : TInst
  p : Param
  c : CtrEntry
  sh : Share
deriving DecidableEq, Repr

def atInst (d : Dev) (j : Job) (s : IssState) : Option AtInst :=
  match d.progOf j.prog with
  | none => none
  | some g =>
    match placeOfIss g s with
    | none => none
    | some (i, k) =>
      match g.issuerRec i with
      | none => none
      | some r =>
        let sh := r.share k
        let t := instAt d i r.pstart k
        (g.ctr sh.ctr).map (fun c => { issuer := i, pc := k, t := t, p := jobParam d j i k t, c := c, sh := sh })

/-- Another counter of the job's program. -/
def ctrOfJob (d : Dev) (j : Job) (id : Nat) : Option CtrEntry := (d.progOf j.prog).bind (fun g => g.ctr id)

/-- The domain of an issuer. -/
def issuerDom (code : Nat) : Nat := if code < 576 then domWedge code else domControl (issuerHub code)

/-- An issuer is in service and its domain's handshakes run (R425, R429). -/
def issuerRuns (d : Dev) (code : Nat) : Bool :=
  !issuerOffline d code && domRuns d (issuerDom code) && !(d.sbank code).clearing

/-- The issuer may act: its job goes on, it takes part, and it runs. A C0 slot is its hub's control core. -/
def mayAct (d : Dev) (j : Job) (s : IssState) : Bool := !j.halted && !s.lost && issuerRuns d (actorOf d j s)

/-! ### Starting an instruction (R222, R223, R244, R246) -/

/-- A bound as the first starter latches it: its value, poison, the device. -/
def latchBound (v : Variant) (j : Job) (code : Nat) (b : BitVec 32) (d : Dev) : Nat × Bool × Dev :=
  match boundSrc b with
  | 0 => (boundVal b, false, d)
  | 1 => ((tget 0 d.slots (issuerIndex code * 16 + bitsOf b.toNat 3 0)).toNat, false, d)
  | 2 => (d.sreadNat code (bitsOf b.toNat 17 0) 4, false, d)
  | _ => indexElem v j.descs (bitsOf b.toNat 15 0) { issuer := code, tile := none, src := issuerEndpoint code } 0 d

/-- The tracker ranges that the bounds of a start give lie within 4,096 entries and do not overlap (R98, R230); the loader has seen them
only where bnd1 was known to it (DESIGN CHOICE, notes/assumptions/130.md). -/
def rangesOk (d : Dev) (t : TInst) (p : Param) (b1 : Nat) : Bool :=
  let rs := trackRanges d t p (some b1)
  rs.all (fun r => decide (r.1 + r.2 ≤ 4096)) &&
    (match rs with
      | [a, b] => !decide (a.1 < b.1 + b.2 ∧ b.1 < a.1 + a.2)
      | _ => true)

/-- The first starter's latching: bounds, limits, and the record made ready or dead. Functions of shape 12 do not read bnd2 (R223). -/
def firstStart (v : Variant) (j : Job) (a : AtInst) (d : Dev) : Dev :=
  let r0 := latchBound v j a.issuer (nth 0 a.t.bnd 0) d
  let r1 := latchBound v j a.issuer (nth 0 a.t.bnd 1) r0.2.2
  let r2 := if isRowShape a.t.func then (0, false, r1.2.2) else latchBound v j a.issuer (nth 0 a.t.bnd 2) r1.2.2
  let d1 := r2.2.2
  let set (hi lo x : Nat) (d : Dev) : Dev := ctrSet d a.c.home a.c.addr hi lo x
  let d2 := set 415 384 r2.1 (set 383 352 r1.1 (set 351 320 r0.1 d1))
  let g := gridOf a.t (instUnits d a.t) r0.1 r1.1
  let k := curveOf g.1 g.2
  if r0.2.1 || r1.2.1 || r2.2.1 then failJob j.id (d2.gone.getD stMemUe) 0 a.issuer a.pc (set 438 438 1 (set 439 439 1 d2))
  else if !boundsOk d a.t a.p r0.1 r1.1 r2.1 || !rangesOk d a.t a.p r1.1 || decide (k.2.2.1 > a.c.bmcap) then
    failJob j.id stBoundRange 0 a.issuer a.pc (set 438 438 1 (set 439 439 1 d2))
  else
    set 438 438 1 (set 471 440 j.epoch (set 437 437 (if k.2.1 then 1 else 0) (set 436 432 k.1
      (set 255 192 k.2.2.2 (set 191 128 k.2.2.1 d2)))))

/-- The stage of an issuer that has started: it stops at a dead record, claims from a ready one, and else waits. -/
def startedStage (d : Dev) (c : CtrEntry) : IssStage :=
  if !ctrReady d c then .waitReady else if ctrDead d c then .stopped else .claim

def instructionStartOp (v : Variant) (code : Nat) (d : Dev) : Dev :=
  match issuerJob d code with
  | none => d
  | some (j, s) =>
    match atInst d j s with
    | none => d
    | some a =>
      let waitDone := a.sh.wait = 0 || s.stage = .released || (ctrOfJob d j a.sh.wait).elim true (fun w => ctrComplete d w)
      if (s.stage = .start ∨ s.stage = .released) ∧ waitDone = true ∧ mayAct d j s = true then
        let start (d : Dev) : Dev :=
          let d := settleClear a.c.home d
          let d1 := ctrAtomic d a.c 431 416 (ctrStarters d a.c + 1)
          let d2 := if ctrStarters d a.c = 0 then firstStart v j a d1 else d1
          modIss j.id code (fun s => { s with stage := startedStage d2 a.c, run := [], lead := 0, due := false, swept := false,
                                              held := false, haloTo := d.num 0x20A0 1 10000,
                                              since := tget 0 d.hubTimer (issuerHub code) }) d2
        reading { issuer := code, tile := none, src := issuerEndpoint code } d start
      else d

/-- The time since an issuer began to wait, by its hub's timer. -/
def waitedFor (d : Dev) (code : Nat) (s : IssState) : Nat := tget 0 d.hubTimer (issuerHub code) - s.since

/-- The record that an issuer waits for is ready, or not yet; the time waited counts in OD 0x2095 (R244, R263). -/
def counterReadyPollOp (code : Nat) (d : Dev) : Dev :=
  match issuerJob d code with
  | none => d
  | some (j, s) =>
    match atInst d j s with
    | none => d
    | some a =>
      if s.stage = .waitReady ∧ mayAct d j s = true ∧ ctrReady d a.c = true then
        (modIss j.id code (fun s => { s with stage := startedStage d a.c }) d).count 0x2095 (issuerSs code) (waitedFor d code s)
      else d

/-- The waited counter is complete, and the issuer goes on; or it is dead, and the issuer stops with its job's issue (R244, R250).
The time waited counts in OD 0x2095. -/
def counterWaitReleaseOp (code waited : Nat) (d : Dev) : Dev :=
  match issuerJob d code with
  | none => d
  | some (j, s) =>
    match atInst d j s with
    | none => d
    | some a =>
      match ctrOfJob d j a.sh.wait with
      | none => d
      | some w =>
        if s.stage = .start ∧ a.sh.wait ≠ 0 ∧ mayAct d j s = true then
          if ctrReady d w && ctrDead d w then
            (modIss j.id code (fun s => { s with stage := .stopped })
              (d.modJob j.id (fun x => { x with halted := true }))).count 0x2095 (issuerSs code) waited
          else if ctrComplete d w then
            (modIss j.id code (fun s => { s with stage := .released }) d).count 0x2095 (issuerSs code) waited
          else d
        else d

/-! ### Claims (R245, R253, R254, R261, R262) -/

/-- The matrices of an instruction. -/
def AtInst.mats (a : AtInst) : List Nat := (instMats a.t a.p).filter (· ≠ 0)

/-- An accepted swap holds the claims of the instruction (order 2 of Table 9.8). -/
def swapHolds (d : Dev) (a : AtInst) : Bool := d.swaps.any (fun w => namesGroup d w.group a.mats)

/-- Every matrix of the instruction is in the active bank of its macros. -/
def matsActive (d : Dev) (a : AtInst) : Bool := a.mats.all (fun m => (d.matOf m).elim false (fun y => matActive d y))

/-- Positions p to p + n - 1 below `raw` that are no holes. -/
def realPositions (d : Dev) (a : AtInst) (p n : Nat) : List Nat :=
  let g := gridOf a.t (instUnits d a.t) (ctrB0 d a.c) (ctrB1 d a.c)
  let raw := ctrRaw d a.c
  ((List.range n).map (fun i => p + i)).filter (fun q =>
    decide (q < raw) && (gridAt g.1 g.2 (ctrLside d a.c) (ctrJlong d a.c) q).isSome)

/-- The count of positions below `raw` in a claim. -/
def inRaw (d : Dev) (a : AtInst) (p n : Nat) : Nat := min n (ctrRaw d a.c - p)

/-- A claim's positions join the run of an issuer. -/
def IssState.claimed (s : IssState) (qs : List Nat) : IssState :=
  { s with run := s.run ++ qs, lead := qs.length, due := false, held := false }

/-- A swap holds an issuer's claim, which OD 0x209A counts once (R263). -/
def holdClaim (job code ss : Nat) (s : IssState) (d : Dev) : Dev :=
  if s.held then d else (modIss job code (fun s => { s with held := true }) d).count 0x209A ss 1

/-- The first tile of a run is issued: the next claim is due once none of the last claim has been (R245). -/
def IssState.issuedOne (s : IssState) : IssState :=
  if s.run.length ≤ s.lead then { s with run := s.run.tail, lead := 0, due := true } else { s with run := s.run.tail }

/-- One claim from the main cursor. An issuer sends its next claim when it issues the first tile of its run (R245). -/
def workClaimOp (code : Nat) (d : Dev) : Dev :=
  match issuerJob d code with
  | none => d
  | some (j, s) =>
    match atInst d j s with
    | none => d
    | some a =>
      let n := grainOf a.sh.grain
      if s.stage = .claim ∧ (s.run = [] ∨ s.due = true) ∧ mayAct d j s = true then
        if issuerOffline d a.c.home then failJob j.id stUnitOffline 0 a.issuer a.pc d
        else if swapHolds d a then holdClaim j.id code (issuerSs code) s d
        else
          let d := settleClear a.c.home d
          let p := ctrNext d a.c
          let d1 := ctrAtomic d a.c 63 0 (p + n)
          if !matsActive d a then failJob j.id stMatrixInactive 0 a.issuer a.pc d1
          else if ctrRaw d a.c ≤ p then modIss j.id code (fun s => { s with stage := .sweep, held := false }) d1
          else
            let qs := realPositions d a p n
            (modIss j.id code (fun s => s.claimed qs) d1).count 0x2091 (issuerSs code)
              (inRaw d a p n - qs.length)
      else d

/-- Whether the bitmap bit of a position is set: a read of the commit area. -/
def bitmapTest (v : Variant) (g : Program) (c : CtrEntry) (q : Nat) (d : Dev) : Bool × Dev :=
  match d.allocOf g.calloc with
  | none => (false, d)
  | some al =>
    let r := devRead v al (g.coff + c.bmoff + q / 8) 1 d
    ((leNat r.1).testBit (q % 8), r.2.2)

/-- Grid positions of a pass rounded up to the grain, and a pass with its slack (R253). -/
def passRaw (d : Dev) (a : AtInst) : Nat := roundUp (ctrRaw d a.c) (grainOf a.sh.grain)
def passLen (d : Dev) (a : AtInst) : Nat := passRaw d a + grainOf a.sh.grain * (ctrNshare d a.c + 1)

/-- An owed pass has positions to hand out. -/
def sweepOwed (d : Dev) (j : Job) (a : AtInst) : Bool :=
  let owed := j.epoch - ctrEpoch0 d a.c
  owed ≠ 0 && decide (ctrSweep d a.c < (owed - 1) * passLen d a + passRaw d a)

/-- One claim from the sweep cursor: its positions that are no holes and the device, or a job ended by MATRIX_INACTIVE. Whether the bit of
a position is set is tested as it is about to issue. -/
def sweepTake (j : Job) (a : AtInst) (d : Dev) : List Nat × Dev :=
  let n := grainOf a.sh.grain
  let d := settleClear a.c.home d
  let x := ctrSweep d a.c
  let d1 := ctrAtomic d a.c 127 64 (x + n)
  let off := x % passLen d a
  if !matsActive d a then ([], failJob j.id stMatrixInactive 0 a.issuer a.pc d1)
  else if off ≥ passRaw d a then ([], d1)
  else (realPositions d a off n, d1)

/-- The issuer moves to its next instruction, or past its last. -/
def nextInst (d : Dev) (j : Job) (s : IssState) : IssState :=
  let n := ((d.progOf j.prog).bind (fun g => g.issuerRec s.issuer)).elim 0 (fun r => r.ninst)
  { s with pc := s.pc + 1, stage := if s.pc + 1 < n then .start else .finished, run := [], lead := 0, due := false, swept := false, held := false }

def sweepClaimOp (code : Nat) (d : Dev) : Dev :=
  match issuerJob d code with
  | none => d
  | some (j, s) =>
    match atInst d j s with
    | none => d
    | some a =>
      if s.stage = .sweep ∧ s.run = [] ∧ mayAct d j s = true then
        if !sweepOwed d j a then modIss j.id code (fun _ => nextInst d j s) d
        else if issuerOffline d a.c.home then failJob j.id stUnitOffline 0 a.issuer a.pc d
        else if swapHolds d a then holdClaim j.id code (issuerSs code) s d
        else
          let r := sweepTake j a d
          modIss j.id code (fun s => { s with run := r.1, lead := 0, due := false, swept := true, held := false }) r.2
      else d

/-- A reset issuer is back and rejoins at the instruction it held, with no claims. -/
def issuerRejoinOp (code : Nat) (d : Dev) : Dev :=
  match issuerJob d code with
  | none => d
  | some (j, s) =>
    if s.lost ∧ issuerOffline d code = false then
      modIss j.id code (fun s => { s with lost := false, run := [], lead := 0, due := false, swept := false, held := false }) d
    else d

/-- No sharer of a counter remains at or before its instruction (R254). -/
def noSharerLeft (d : Dev) (j : Job) (g : Program) (c : Nat) : Bool :=
  g.issuers.all (fun i => (List.range i.ninst).all (fun k =>
    (i.share k).ctr ≠ c || (match j.iss.find? (fun s => s.issuer = i.issuer) with
      | some s => cannotReturn d s || s.stage = .finished || decide (k < s.pc)
      | none => true)))

/-- The C0 slot of a counter, which takes the positions of a claim; `wait` is the halo timeout that it takes then. -/
def slotRun (code wait : Nat) (qs : List Nat) (j : Job) : Job :=
  let rest := j.iss.filter (fun s => s.issuer ≠ code)
  { j with iss := rest ++ [{ issuer := code, pc := 0, stage := .finished, run := qs, swept := true, lost := false, haloTo := wait }] }

/-- One claim of an owed pass by control core C0 of the home's hub. -/
def homeSweepOp (job ctr : Nat) (d : Dev) : Dev :=
  match d.jobOf job with
  | none => d
  | some j =>
    let code := 0x8000 + ctr
    let s : IssState := { issuer := code, pc := 0, stage := .finished, run := [], swept := true, lost := false }
    match d.progOf j.prog, atInst d j s with
    | some g, some a =>
      let free := (j.iss.find? (fun s => s.issuer = code)).elim true (fun s => s.run.isEmpty)
      if j.stage = .running ∧ j.halted = false ∧ free = true ∧ noSharerLeft d j g ctr = true ∧ ctrReady d a.c = true ∧
          ctrComplete d a.c = false ∧ ctrDead d a.c = false ∧ sweepOwed d j a = true ∧
          issuerRuns d (actorOf d j s) = true then
        if swapHolds d a then
          if (j.iss.find? (fun s => s.issuer = code)).elim false (fun s => s.held) then d
          else (d.modJob job (fun j => (slotRun code 10000 [] j).modIss code (fun s => { s with held := true }))).count
            0x209A (ssHub (issuerHub a.c.home)) 1
        else
          let r := sweepTake j a d
          r.2.modJob job (slotRun code (d.num 0x20A0 1 10000) r.1)
      else d
    | _, _ => d

/-! ### The handshake (R226, R285, Table 10.6) -/

/-- The macros that a tile names: those of its column block, or every macro of a fused pair's matrices. -/
def tileMacros (d : Dev) (t : TInst) (p : Param) (gj : Nat) : List Nat :=
  if !isMacroFn t.func then []
  else if t.func = fMFUSE then
    (((instMats t p).filter (· ≠ 0)).map (fun m => (d.matOf m).elim [] (fun y => y.place))).flatten
  else (d.matOf (t.opnd 2)).elim [] (fun y => (List.range y.rowBlocks).map (fun rb => y.placed rb gj))

def tileWedges (d : Dev) (t : TInst) (p : Param) (gj : Nat) : List Nat :=
  ((tileMacros d t p gj).map wedgeOfMacro).eraseDups

/-- The tile's domain accepts issued work: its handshakes run and no transition is behind it (R425, R433). -/
def domReady (d : Dev) (k : Nat) : Bool := domRuns d k && (d.dom k).moving.isNone

/-- A unit that a tile uses is Off, held or out of service (R60, R85, R180). -/
def tileUnitGone (d : Dev) (t : TInst) (ms ws : List Nat) (engine : Nat) : Bool :=
  ms.any (fun m => (d.mac m).oos || (d.mac m).unread) ||
    ws.any (fun w => targetOffline d (.wedge (w / 16) (w % 16))) ||
    (isLaneFn t.func && targetOffline d (.engine (engine / 8) (engine % 8)))

/-- Instructions that count against a dispatcher: those it holds, and those whose tiles have passed the handshake and not reached it. -/
def dispatcherLoad (d : Dev) (e : Nat) : Nat :=
  (d.engine e).disp.length + (d.tiles.filter (fun t => t.engine = some e && t.stage = .issued && !t.reduced.contains (0, 1))).length

/-- Every unit that a tile uses has room: 4 tiles a wedge, 32 instructions a dispatcher; no macro waits for a reload or a
retirement (R441, R445), or to be restored after a wake (R34). -/
def tileRoom (d : Dev) (t : TInst) (ms ws : List Nat) (engine : Nat) : Bool :=
  ms.all (fun m => !(d.mac m).reload && !(d.mac m).retire && (tfind (d.wedge (m / 192)).saved m).isNone) &&
    ws.all (fun w => domReady d (domWedge w) && decide ((d.wedge w).tiles.length < 4)) &&
    (!isLaneFn t.func || (domReady d (domEngine engine) && decide (dispatcherLoad d engine < 32)))

/-- The band that an issue of a phase uses: a written base takes hold. -/
def issueBand (d : Dev) (hub phase : Nat) : Nat :=
  if (tget {} d.pred (hub * 256 + phase)).oldBase.isSome then d.num 0x2061 phase 2 else bandAt d hub phase
def takeBand (hub phase : Nat) (d : Dev) : Dev :=
  { d with pred := tmod {} d.pred (hub * 256 + phase) (fun b =>
      if b.oldBase.isSome then { b with band := some (d.num 0x2061 phase 2), oldBase := none } else b) }

/-- Vectors of a macro tile below its bound. -/
def tileVecs (t : TInst) (gi b0 : Nat) : Nat := min (macroR t.shape) (b0 - gi * macroR t.shape)

/-! ### The forming sides of a tile (R98, R108, R228, R498). Part 0 is the output, 1 the intermediate of a fused pair. -/

/-- The tile forms MXINT8 outputs through a tracker, and the parts that forming sides quantise element by element. -/
def formsOut (t : Tile) : Bool := t.inst.opnd 5 ≠ 0 && t.inst.rowfn ≠ 9
def partForms (t : Tile) (part : Nat) : Bool :=
  if part = 1 then t.inst.func = fMFUSE
  else part = 0 && formsOut t && t.inst.func ≠ fLAPP && t.inst.func ≠ fLMOVE

/-- The matrix whose column blocks a part has. -/
def formMat (t : Tile) (part : Nat) : Nat := if t.inst.func = fMFUSE ∧ part = 0 then t.prm.mat2 else t.inst.opnd 2

/-- Columns of a column block of a matrix. -/
def blockCols (m : Matrix) (cb : Nat) : List Nat :=
  let u := unitsOf m.packing
  ((List.range u).map (fun j => cb * u + j)).filter (fun c => decide (c < m.cols))

/-- The columns of a part that quantiser `q` forms: those of the column blocks whose final adders lie in its wedge, or all of a lane
tile's. -/
def formCols (d : Dev) (t : Tile) (part q : Nat) : List Nat :=
  if partForms t part = false then []
  else if isMacroFn t.inst.func then
    match d.matOf (formMat t part) with
    | none => []
    | some m =>
      let here (cb : Nat) : Bool := (t.inst.func = fMFUSE || cb = t.gj) && wedgeOfMacro (m.placed 0 cb) = q
      (((List.range m.colBlocks).filter here).map (blockCols m)).flatten.filter (fun c => part = 1 || decide (c < t.b1))
  else if t.engine.map (fun e => 576 + e) ≠ some q then []
  else if t.inst.func = fLATT then List.range (laneShape t.inst.shape).2.2
  else if t.inst.func = fLDOT then
    let n := (laneShape t.inst.shape).2.1
    ((List.range n).map (fun i => t.gj * n + i)).filter (fun c => decide (c < t.b1))
  else List.range t.b1

/-- The quantisers that form a tile's MXINT8 values. -/
def formSides (d : Dev) (t : Tile) : List Nat :=
  let all := if isMacroFn t.inst.func then
      ([0, 1].map (fun p => (d.matOf (formMat t p)).elim [] (fun m => (List.range m.colBlocks).map (fun cb => wedgeOfMacro (m.placed 0 cb))))).flatten
    else t.engine.elim [] (fun e => [576 + e])
  all.eraseDups.filter (fun q => formCols d t 0 q != [] || formCols d t 1 q != [])

/-- The steps after which the results of a macro tile are formed: one reduction for each vector of each column block of each
product, and one forming issue for each forming side. -/
def tileItems (d : Dev) (t : Tile) : Nat :=
  let n := tileVecs t.inst t.gi t.b0
  let cbs (m : Nat) : Nat := (d.matOf m).elim 0 (fun y => y.colBlocks)
  if t.inst.func = fMFUSE then
    n * (cbs (t.inst.opnd 2) + (if t.inst.fuse = 2 then cbs (t.inst.opnd 3) else 0) + cbs t.prm.mat2) + (formSides d t).length
  else if isMacroFn t.inst.func then n + (formSides d t).length
  else 0

/-- The hubs that a tile uses. -/
def tileHubs (t : TInst) (ws : List Nat) (engine : Nat) : List Nat :=
  if isLaneFn t.func then [engine / 8] else (ws.map hubOfWedge).eraseDups

/-- The activity codes of a tile, read as it issues (R133; notes/assumptions/29.md): codes other than 11, by vector and column. -/
def readCodes (v : Variant) (t : Tile) (cols : List Nat) (vecs : Nat) (d : Dev) : Tab Nat × Bool × Dev :=
  ((List.range vecs).map (fun q => cols.map (fun c => (q, c)))).flatten.foldl
    (fun (r : Tab Nat × Bool × Dev) e =>
      let y := descIn (tileDescs d t) t.prm.hV
      let fmt := y.elim 0xC (fun x => x.fmt)
      let vec : Int := ((t.gi * macroR t.inst.shape + e.1 : Nat) : Int)
      let get (i : Nat) (d : Dev) : Fetched × Dev := fetchOperand v t 8 [(i : Int), vec] d
      let rd : Nat × Bool × Dev :=
        if fmt = 0xC then let f := get e.2 r.2.2; (f.1.bits, f.1.poison, f.2)
        else if fmt = 0xD then
          let f := get (2 * e.2) r.2.2
          let g := get (2 * e.2 + 1) f.2
          (f.1.bits + 2 * g.1.bits, f.1.poison || g.1.poison, g.2)
        else
          let f := get (e.2 / 16) r.2.2
          (f.1.bits / 4 ^ (e.2 % 16) % 4, f.1.poison, f.2)
      (tput 3 r.1 (e.1 * 2 ^ 32 + e.2) rd.1, r.2.1 || rd.2.1, rd.2.2)) ([], false, d)

/-- The columns whose activity a tile reads. -/
def codeCols (d : Dev) (t : TInst) (gj b1 : Nat) : List Nat :=
  match d.matOf (t.opnd 2) with
  | none => []
  | some m =>
    if t.func = fMFUSE then List.range m.cols
    else
      let u := unitsOf m.packing
      ((List.range u).map (fun i => gj * u + i)).filter (fun c => decide (c < min b1 m.cols))

/-- The vector of the tensor that a tile's vector is, and a neuron's key in a predictor issue. -/
def Tile.vecAt (t : Tile) (vec : Nat) : Nat := t.gi * macroR t.inst.shape + vec
def Tile.neuronKey (t : Tile) (k : Nat) : Nat := t.vecAt (k / 2 ^ 32) * 2 ^ 32 + k % 2 ^ 32

/-- The committed predictor issues that wrote the activity vector of a tile. -/
def issuesFor (d : Dev) (t : Tile) : List PredIssue :=
  match descIn (tileDescs d t) t.prm.hV with
  | none => []
  | some x => d.issues.filter (fun i => i.committed && i.alloc = x.alloc && i.base = x.base && i.org = t.prm.orgA)

/-- The neurons of a tile that those issues drew for audit and whose audits are open. -/
def drawnOf (d : Dev) (t : Tile) (vecs : Nat) : List Nat :=
  let all := ((issuesFor d t).map (fun i => i.drawn)).flatten
  let v0 := t.vecAt 0
  (all.filter (fun k => decide (v0 ≤ k / 2 ^ 32) && decide (k / 2 ^ 32 < v0 + vecs))).map (fun k =>
    (k / 2 ^ 32 - v0) * 2 ^ 32 + k % 2 ^ 32)

def clampI32 (x : Int) : Int := max (-(2 ^ 31 : Nat)) (min ((2 ^ 31 - 1 : Nat) : Int) x)

/-- Lower and upper threshold of a column under a band: T - b·Δ and T + b·Δ, each clamped (R131). -/
def bandThresholds (d : Dev) (issuer tadr band col : Nat) : Int × Int :=
  let a := 16 * tadr + 8 * col
  let lo := sext 32 (d.sreadNat issuer a 4)
  let s : Int := (band : Int) * d.sreadNat issuer (a + 4) 2
  (clampI32 (lo - s), clampI32 (lo + s))

/-- The tile of a curve position, before its steps are counted. -/
def tileAt (d : Dev) (j : Job) (a : AtInst) (s : IssState) (q gi gj : Nat) (ws : List Nat) (engine : Nat) : Tile :=
  let hub := ((ws.map hubOfWedge).head?).getD (issuerHub a.issuer)
  let band := if a.t.func = fMPRED then issueBand d hub a.t.phase else 0
  { id := d.nextTile, job := j.id, issuer := a.issuer, pc := a.pc, ctr := a.c.id, q := q, gi := gi, gj := gj, inst := a.t,
    prm := a.p, b0 := ctrB0 d a.c, b1 := ctrB1 d a.c, b2 := ctrB2 d a.c, stage := .issued, wedges := ws,
    engine := if isLaneFn a.t.func then some engine else none, guard := d.num 0x2000 1 4,
    band := band,
    thr := if a.t.func = fMPRED then (codeCols d a.t gj (ctrB1 d a.c)).map (fun c => (c, bandThresholds d a.issuer a.p.tadr band c)) else [],
    floor := if a.t.func = fMPRED then d.num 0x2062 a.t.phase 0 else 0, fail := none, smiss := false, parts := [], fed := [], reduced := [], outs := [],
    results := [], writes := [], acks := [], codes := [], drawn := [], halo := [], haloN := [], haloRead := [],
    haloLost := false, items := 0, ss := if s.issuer < 0x8000 then issuerSs s.issuer else ssHub (issuerHub a.c.home),
    actor := actorOf d j s, haloTo := s.haloTo }

/-- The tile of a curve position. -/
def newTile (d : Dev) (j : Job) (a : AtInst) (s : IssState) (q gi gj : Nat) (ws : List Nat) (engine : Nat) : Tile :=
  let t := tileAt d j a s q gi gj ws engine
  { t with items := tileItems d t }

/-- The predictor issue that an MPRED tile opens, with the settings in force at its issue (R142). -/
def openIssue (t : Tile) (d : Dev) : Dev :=
  let x := descIn (tileDescs d t) (t.inst.opnd 4)
  let i : PredIssue :=
    { id := t.id, wedge := (t.wedges.head?).getD 0, phase := t.inst.phase, band := t.band, issuer := t.issuer, radr := t.prm.radr,
      alloc := x.elim 0 (fun y => y.alloc), base := x.elim 0 (fun y => y.base),
      org := t.prm.orgC, gi := t.gi, gj := t.gj,
      tau := BitVec.ofNat 32 (d.num 0x2063 t.inst.phase 0), arate := d.num 0x2060 1 6, missk := d.num 0x2060 2 8,
      limit := d.num 0x2060 3 8, nrun := d.num 0x2060 4 256, nact := 0, namb := 0, ninact := 0, naud := 0, nmiss := 0,
      nunsv := 0, drawn := [], committed := false }
  { d with issues := d.issues ++ [i] }

/-- A tile is issued to a wedge: the wedge accepts it, takes the read guard band in force (R48), and the entries of the tile's macros
that a calibration cleared go (R77). -/
def issueAt (t : Tile) (w : Nat) (d : Dev) : Dev :=
  let g := d.wedge w
  let marks := if g.marks.any (fun e => e.2.clear) then
      (let slots := ((tileMacros d t.inst t.prm t.gj).filter (fun m => m / 192 = w)).map (slotOf d)
       g.marks.filter (fun e => !(e.2.clear && slots.contains (e.1 / 8))))
    else g.marks
  d.setWedge w { g with tiles := g.tiles ++ [t.id], guard := some t.guard, marks := marks }

/-- The tile enters its units: a macro tile the wedges' accepted tiles, a lane tile waits for its dispatcher. -/
def enterTile (t : Tile) (d : Dev) : Dev :=
  let d1 := { d with tiles := d.tiles ++ [t], nextTile := d.nextTile + 1 }
  let d2 := t.wedges.foldl (fun d w => issueAt t w d) d1
  let hubs := tileHubs t.inst t.wedges (t.engine.getD 0)
  let d3 := { d2 with pow := { d2.pow with hints := d2.pow.hints.map (fun h =>
      if h.phase = t.inst.phase ∧ h.hub ∈ hubs then { h with used := true } else h) } }
  if t.inst.func = fMPRED then openIssue t (hubs.foldl (fun d h => takeBand h t.inst.phase d) d3) else d3

/-- Take the activity codes, when the tile names a vector; poison fails the tile (R299). -/
def enterCodes (v : Variant) (t : Tile) (d : Dev) : Dev :=
  if t.prm.hV = 0 then d
  else
    let r := readCodes v t (codeCols d t.inst t.gj t.b1) (tileVecs t.inst t.gi t.b0) d
    if r.2.1 then failRead t r.2.2
    else
      r.2.2.modTile t.id (fun x => { x with codes := r.1, drawn := drawnOf d t (tileVecs t.inst t.gi t.b0) })

/-- Whether a swept position is issued: its bit is clear as it is about to issue (R253). -/
def sweptClear (v : Variant) (j : Job) (a : AtInst) (s : IssState) (q : Nat) (d : Dev) : Bool × Dev :=
  if s.swept then
    match d.progOf j.prog with
    | none => (true, d)
    | some g => let b := bitmapTest v g a.c q d; (!b.1, b.2)
  else (true, d)

/-- A tile passes the handshake. -/
def issueTile (v : Variant) (j : Job) (a : AtInst) (s : IssState) (q gi gj : Nat) (ws : List Nat) (engine : Nat) (d : Dev) : Dev :=
  let t := newTile d j a s q gi gj ws engine
  let d1 := modIss j.id s.issuer IssState.issuedOne d
  enterCodes v t (enterTile t (d1.count (if s.swept then 0x2094 else 0x2090) t.ss 1))

/-- The first claimed tile of an issuer passes the handshake, or waits; a swept position whose bit is set is passed over (R253). `engine`
is the stream engine that the issuer chooses for a lane tile, on any hub (R239): no rule fixes it (notes/assumptions/30.md). -/
def tileIssueOp (v : Variant) (code engine : Nat) (d : Dev) : Dev :=
  match issuerJob d code with
  | none => d
  | some (j, s) =>
    match atInst d j s, s.run with
    | some a, q :: _ =>
      let g := gridOf a.t (instUnits d a.t) (ctrB0 d a.c) (ctrB1 d a.c)
      match gridAt g.1 g.2 (ctrLside d a.c) (ctrJlong d a.c) q with
      | none => d
      | some (gi, gj) =>
        let ms := tileMacros d a.t a.p gj
        let ws := (ms.map wedgeOfMacro).eraseDups
        if mayAct d j s = false ∨ (isLaneFn a.t.func = true ∧ hubPresent v (engine / 8) = false) then d
        else
          let b := sweptClear v j a s q d
          if !b.1 then modIss j.id code IssState.issuedOne b.2
          else if tileUnitGone d a.t ms ws engine then failJob j.id stUnitOffline 0 a.issuer a.pc b.2
          else if !tileRoom d a.t ms ws engine then d
          else reading { issuer := a.issuer, tile := some d.nextTile, src := if isLaneFn a.t.func then hubEndpoint (engine / 8) 0 (engine % 8) else hubEndpoint (issuerHub a.issuer) 6 0 } b.2 (issueTile v j a s q gi gj ws engine)
    | _, _ => d

/-! ### Meanings -/

def execInstructionStart (issuer : Nat) (s : State) : Host.Outcome State Fault Refusal :=
  .next (s.on (instructionStartOp s.variant issuer s.dev))

def execCounterReadyPoll (issuer : Nat) (s : State) : Host.Outcome State Fault Refusal :=
  .next (s.on (counterReadyPollOp issuer s.dev))

def execCounterWaitRelease (issuer waited : Nat) (s : State) : Host.Outcome State Fault Refusal :=
  .next (s.on (counterWaitReleaseOp issuer waited s.dev))

def execWorkClaim (issuer : Nat) (s : State) : Host.Outcome State Fault Refusal :=
  .next (s.on (workClaimOp issuer s.dev))

def execTileIssue (issuer engine : Nat) (s : State) : Host.Outcome State Fault Refusal :=
  .next (s.on (tileIssueOp s.variant issuer engine s.dev))

def execSweepClaim (issuer : Nat) (s : State) : Host.Outcome State Fault Refusal :=
  .next (s.on (sweepClaimOp issuer s.dev))

def execIssuerRejoin (issuer : Nat) (s : State) : Host.Outcome State Fault Refusal :=
  .next (s.on (issuerRejoinOp issuer s.dev))

def execHomeSweepByC0 (job ctr : Nat) (s : State) : Host.Outcome State Fault Refusal :=
  .next (s.on (homeSweepOp job ctr s.dev))

end Sys2Proof.Machine
end

