-- ==== Sys2Proof/Machine/Commit.lean ====
section
/-!
DEFINITION. The commit of a tile (R248 to R251): the test-and-set of its bitmap bit, the writes that its results become (R130, R162,
R184, R185, R202 to R206), their acceptance, and the halo mailboxes (R256 to R259).
-/
namespace Sys2Proof.Machine

open Sys2Proof

/-! ### The accumulator window (R161, R164, R170) -/

/-- Query rows of a tile's window: the m of its shape, one for the row shape. -/
def windowRows (t : TInst) : Nat := (laneShape t.shape).1

/-- An empty softmax record of depth `dd`, and an empty list region of capacity `k` (R164). -/
def emptyRecord (dd : Nat) : Bytes := toLe 4 0xFF800000 ++ List.replicate (4 + 4 * dd) 0
def emptyList (k : Nat) : Bytes :=
  toLe 4 0 ++ toLe 2 k ++ toLe 10 0 ++ (List.replicate k (toLe 4 0xFF800000 ++ toLe 4 0xFFFFFFFF)).flatten

/-- The buffer with a window in the form that wfill names: zero elsewhere in the window. -/
def filledWindow (t : TInst) (p : Param) (acc : Memory) : Memory :=
  let base := 64 * p.wbase
  let len := 64 * p.wlen
  let dd := (laneShape t.shape).2.2
  let acc0 := mclear acc base len
  let rows (stride : Nat) (b : Bytes) : Memory :=
    (List.range (windowRows t)).foldl (fun m r =>
      if r * stride + b.length ≤ len then mwrite m (base + r * stride) b else m) acc0
  match p.wfill with
  | 2 => rows (recStride dd) (emptyRecord dd)
  | 3 => rows (listStride p.n0) (emptyList p.n0)
  | _ => acc0

/-- Whether the instruction's window is filled on its engine, and the first item of its first tile may run (R164). -/
def windowReady (d : Dev) (t : Tile) (e : Nat) : Bool := t.prm.wfill = 0 || (d.engine e).filled.contains (t.job, t.ctr)

/-! ### Which unit writes (R212) -/

/-- The subindex under which a tile's output writes are counted: its engine, or the hub of the output's final adder. -/
def ssWrite (d : Dev) (t : Tile) (col : Nat) : Nat :=
  match t.engine with
  | some e => ssEngine e
  | none =>
    let m := if t.inst.func = fMFUSE then t.prm.mat2 else t.inst.opnd 2
    match d.matOf m with
    | some y => ssHub (hubOfMacro (y.placed 0 (if t.inst.func = fMFUSE then col / unitsOf y.packing else t.gj)))
    | none => ssHub (issuerHub t.issuer)

/-! ### The positions of a tile beyond its bounds (R206, R217, R218) -/

/-- Rows or vectors of a tile below its bound, and the row of the tensor that one is. -/
def formVecs (t : Tile) : Nat :=
  if isMacroFn t.inst.func then tileVecs t.inst t.gi t.b0
  else if isRowShape t.inst.func then 1
  else min (windowRows t.inst) (t.b0 - t.gi * windowRows t.inst)

def Tile.rowAt (t : Tile) (vec : Nat) : Nat :=
  if isMacroFn t.inst.func then t.vecAt vec else t.gi * windowRows t.inst + vec

/-- Output elements of a tile beyond its bounds, with a column at which they are counted. -/
def padOutputs (d : Dev) (t : Tile) : List (Nat × Nat) :=
  let all (rows cols kept : Nat) : Nat := rows * cols - formVecs t * kept
  if isMacroFn t.inst.func then
    match d.matOf (if t.inst.func = fMFUSE then t.prm.mat2 else t.inst.opnd 2) with
    | none => []
    | some m => (if t.inst.func = fMFUSE then List.range m.colBlocks else [t.gj]).map (fun cb =>
        let cs := blockCols m cb
        (cb * unitsOf m.packing, all (macroR t.inst.shape) cs.length (cs.filter (fun c => decide (c < t.b1))).length))
  else
    let (m, n, dd) := laneShape t.inst.shape
    if t.inst.func = fLDOT then [(0, all m n (min n (t.b1 - t.gj * n)))]
    else if t.inst.func = fLATT then [(0, all m dd dd)]
    else if t.inst.func = fLSEL then [(0, all m (4 + 2 * t.prm.n0) (4 + 2 * t.prm.n0))]
    else []

/-- The writes of a tile beyond its bounds are discarded and counted. -/
def countPads (t : Tile) (d : Dev) : Dev :=
  (padOutputs d t).foldl (fun d p => if p.2 = 0 then d else d.count 0x2085 (ssWrite d t p.1) p.2) d

/-! ### Results to writes -/

/-- A result with its place: declared coordinates of its descriptor, and the output column whose unit writes it. -/
structure Placed where
  x : Desc
  y : List Nat
  bits : Nat
  col : Nat
deriving DecidableEq, Repr

/-- The output column of a result: a scale entry stands at its block's first, an outlier value or exponent at column block 0. -/
def resultCol (t : Tile) (w : PendWrite) : Nat :=
  let c := (w.coord.getD 0 0).toNat
  if w.desc = t.handle 5 then 32 * c else if w.desc = t.handle 11 ∨ w.desc = t.handle 12 then 0 else c

/-- Place every result; padding elements are counted, and index values out of range, once for each index position of a
descriptor (R199, R206; DEDUCED, notes/assumptions/119.md). -/
def placeResults (v : Variant) (t : Tile) (d : Dev) : List Placed × Dev :=
  let ds := tileDescs d t
  let r := t.results.foldl (fun (r : List Placed × List (Nat × Int) × Dev) w =>
    match descIn ds w.desc with
    | none => r
    | some x =>
      let p := placeOf v ds x t.reader w.coord r.2.2
      let ss := ssWrite p.2.2 t (resultCol t w)
      let pos := (w.desc, (declared x w.coord).getD x.idim 0)
      match p.1 with
      | .pad => (r.1, r.2.1, p.2.2.count 0x2085 ss 1)
      | .indexOut _ => if r.2.1.contains pos then (r.1, r.2.1, p.2.2) else (r.1, pos :: r.2.1, p.2.2.count 0x2081 ss 1)
      | .at_ y _ => (r.1 ++ [{ x := x, y := y, bits := w.bits.toNat, col := resultCol t w }], r.2.1, p.2.2)) ([], [], d)
  (r.1, r.2.2)

/-- Two results of a store through an index tensor meet in one element (R202). A commit that adds through such a descriptor is treated as
the store that its use names: one of the values is added (DESIGN CHOICE, notes/assumptions/158.md). -/
def Placed.sameElem (a b : Placed) : Bool :=
  a.x.ien && a.x.use = 1 && a.x.handle = b.x.handle && a.y = b.y

/-- Of the results that meet in one element one is stored, a free choice; each other is counted as a collision where its own column is
written (R212). -/
def resolveCollisions (t : Tile) : Nat → List Placed → Dev → List Placed × Dev
  | 0, ps, d => (ps, d)
  | _ + 1, [], d => ([], d)
  | k + 1, a :: ps, d =>
    let same := a :: ps.filter (fun b => a.sameElem b)
    let rest := ps.filter (fun b => !a.sameElem b)
    if same.length = 1 then
      let r := resolveCollisions t k rest d
      (a :: r.1, r.2)
    else
      let i := Config.scatterPick d.free % same.length
      let r := resolveCollisions t k rest ((same.eraseIdx i).foldl (fun d o => d.count 0x2083 (ssWrite d t o.col) 1) d.drawn)
      (same.getD i a :: r.1, r.2)

/-- A dense result: a store, or an add where the descriptor or the commit adds (R162, R204). -/
def denseRaw (cadd : Bool) (p : Placed) : RawOp := denseWrite { p.x with use := if cadd then 2 else p.x.use } p.y p.bits

/-- An element of the format is a zero (R114); -0 is one in every float format (DESIGN CHOICE, notes/assumptions/135.md). -/
def zeroBits (fmt b : Nat) : Bool := if 5 ≤ fmt ∧ fmt ≤ 9 then b % 2 ^ (fmtBits fmt - 1) = 0 else b = 0

/-- The writes of the 2:4 results of one group of four: its two values and its nibble of metadata (R124, R125). -/
def group24Raw (x : Desc) (blk g : Nat) (es : List Nat) : List RawOp :=
  let w := fmtBits x.fmt / 8
  let e := encode24 (zeroBits x.fmt) es
  let o := blk + 16 * w + g / 2
  let sh := 4 * (g % 2)
  [.mem x.alloc (blk + 2 * g * w) (.write (toLe w e.1)), .mem x.alloc (blk + (2 * g + 1) * w) (.write (toLe w e.2.1)),
   .bits x.alloc o (BitVec.ofNat 8 (15 * 2 ^ sh)) (BitVec.ofNat 8 (e.2.2 * 2 ^ sh))]

/-- The writes of all 2:4 results of a descriptor. -/
def all24Raw (ps : List Placed) : List RawOp :=
  let keyed := ps.map (fun p => let b := block24At p.x p.y; (b.1, b.2 / 4, b.2 % 4, p))
  let groups := (keyed.map (fun k => (k.1, k.2.1))).eraseDups
  (groups.map (fun g =>
    let mine := keyed.filter (fun k => (k.1, k.2.1) = g)
    let es := (List.range 4).map (fun i => (mine.find? (fun k => k.2.2.1 = i)).elim 0 (fun k => k.2.2.2.bits))
    match mine.head? with
    | some k => group24Raw k.2.2.2.x g.1 g.2 es
    | none => [])).flatten

/-- The words of a bitmap level: for each listed parent, the bits of its children. -/
def levelWords (parents children : List Nat) : Bytes :=
  (parents.map (fun p => toLe 4 ((children.filter (fun c => c / 32 = p)).foldl (fun n c => n + 2 ^ (c % 32)) 0))).flatten

/-- A written segment (R117, R130): the bitmap form, or the dense one when the bitmap is at least as large. Answers the bytes and
whether it is dense. Values of the row that the tile does not give are zero (notes/assumptions/31.md); the counts in the header of a
dense segment are zero (DESIGN CHOICE, notes/assumptions/136.md). -/
def segmentBytes (x : Desc) (vals : Tab Nat) : Bytes × Bool :=
  let w := fmtBits x.fmt / 8
  let ext := x.extent x.kdim
  let nz := (vals.filter (fun e => !zeroBits x.fmt e.2)).map Prod.fst
  let blocks := (nz.map (fun k => k / 32)).eraseDups
  let chunks := (blocks.map (fun k => k / 32)).eraseDups
  let l2 := List.range (cdiv (cdiv ext 1024) 32)
  let packed := (nz.map (fun k => toLe w (tget 0 vals k))).flatten
  let body := levelWords l2 chunks ++ levelWords chunks blocks ++ levelWords blocks nz ++ packed
  let hdr (dense : Bool) : Bytes :=
    toLe 4 (ext + if dense then 2 ^ 31 else 0) ++ (if dense then toLe 12 0 else toLe 4 chunks.length ++ toLe 4 blocks.length ++
      toLe 4 nz.length)
  let all := hdr true ++ ((List.range ext).map (fun k => toLe w (tget 0 vals k))).flatten
  if roundUp (16 + body.length) 16 ≥ roundUp all.length 16 then (padTo (roundUp all.length 16) all, true)
  else (padTo (roundUp (16 + body.length) 16) (hdr false ++ body), false)

/-- The writes of all bitmap results of a descriptor, row by row, with the directory entries, and how many segments are dense. -/
def bitmapRaw (ps : List Placed) : List RawOp × Nat :=
  let rows := (ps.map (fun p => (p.x.handle, rowIndex p.x p.y))).eraseDups
  rows.foldl (fun (r : List RawOp × Nat) k =>
    let mine := ps.filter (fun p => p.x.handle = k.1 && rowIndex p.x p.y = k.2)
    match mine.head? with
    | none => r
    | some p =>
      let x := p.x
      let vals : Tab Nat := mine.foldl (fun t q => tset t (q.y.getD x.kdim 0) q.bits) []
      let s := segmentBytes x vals
      let area := roundUp (directoryBytes x) 16
      let off := area + k.2 * slotBytes x
      let dir : List RawOp := if codedRows x > 1 then [.mem x.alloc (x.base + 8 * k.2) (.write (toLe 8 off))] else []
      (r.1 ++ dir ++ [.mem x.alloc (x.base + off) (.write s.1)], r.2 + if s.2 then 1 else 0)) ([], 0)

/-- A write of more than one frame carries goes in parts of at most 256 bytes (R314). -/
def splitRaw : RawOp → List RawOp
  | .mem a o (.write b) =>
    if b.length ≤ 256 then [.mem a o (.write b)]
    else (parts256 o b.length).map (fun p => .mem a p.1 (.write ((b.drop (p.1 - o)).take p.2)))
  | w => [w]

/-- Writes of bits of one byte go as one write of that byte. -/
def mergeBits (ws : List RawOp) : List RawOp :=
  ws.foldl (fun (r : List RawOp) w =>
    match w with
    | .bits a o m b =>
      let same (x : RawOp) : Bool := match x with
        | .bits a1 o1 _ _ => a1 = a && o1 = o
        | _ => false
      if r.any same then r.map (fun x => match x with
          | .bits a1 o1 m1 b1 => if a1 = a ∧ o1 = o then .bits a o (m1 ||| m) ((b1 &&& ~~~m) ||| b) else .bits a1 o1 m1 b1
          | y => y)
      else r ++ [.bits a o m b]
    | x => r ++ [x]) []

/-- Every write of a tile, resolved. -/
def tileWrites (v : Variant) (t : Tile) (d : Dev) : List RawOp × Dev :=
  let r := placeResults v t d
  let c := resolveCollisions t r.1.length r.1 r.2
  let dense := (c.1.filter (fun p => p.x.form = 0)).map (denseRaw t.prm.cadd)
  let b := bitmapRaw (c.1.filter (fun p => p.x.form = 1))
  let d1 := if b.2 = 0 then c.2 else c.2.count 0x2056 (ssWrite c.2 t 0) b.2
  (((mergeBits (dense ++ all24Raw (c.1.filter (fun p => p.x.form = 3)) ++ b.1)).map splitRaw).flatten, d1)

/-! ### Halo messages (R256 to R259) -/

/-- The neighbour of a wedge in a direction: N, E, S, W from 0. -/
def neighbour (w dir : Nat) : Option Nat :=
  let f := w / 16
  let line := w % 16 / 4
  let col := w % 4
  match dir with
  | 0 => if line = 0 then none else some (16 * f + 4 * (line - 1) + col)
  | 1 => if col = 3 then none else some (16 * f + 4 * line + col + 1)
  | 2 => if line = 3 then none else some (16 * f + 4 * (line + 1) + col)
  | 3 => if col = 0 then none else some (16 * f + 4 * line + (col - 1))
  | _ => none

def opposite (dir : Nat) : Nat := (dir + 2) % 4

/-- The allocation of a write is a halo. -/
def haloOp (d : Dev) : RawOp → Option (Nat × RawOp)
  | .mem a o op => (d.allocOf a).bind (fun al => if al.kind = .halo then some (o / 4096, .mem a o op) else none)
  | .bits a o m b => (d.allocOf a).bind (fun al => if al.kind = .halo then some (o / 4096, .bits a o m b) else none)
  | .spad _ _ _ => none

/-- A write into a halo message. -/
def intoMessage (m : Memory) : RawOp → Memory
  | .mem _ o (.write b) => mwrite m (o % 4096) b
  | .mem _ o op => mwrite m (o % 4096) (applyOp op (mread m (o % 4096) 4))
  | .bits _ o mask b => mput m (o % 4096) ((mget m (o % 4096) &&& ~~~mask) ||| b)
  | .spad _ _ _ => m

/-- The messages of a tile from its halo writes; a write toward a lattice edge is discarded and counted. -/
def haloMessages (t : Tile) (ws : List RawOp) (d : Dev) : Tab Memory × Tab Nat × Dev :=
  (ws.filterMap (haloOp d)).foldl (fun (r : Tab Memory × Tab Nat × Dev) w =>
    if (neighbour t.issuer w.1).isNone then (r.1, r.2.1, r.2.2.count 0x2097 t.ss 1)
    else (tset r.1 w.1 (intoMessage (tget [] r.1 w.1) w.2), tmod 0 r.2.1 w.1 (· + 1), r.2.2)) ([], [], d)

/-- The direction of a halo element, when an operand reads a halo. -/
def haloDirOf (v : Variant) (d : Dev) (t : Tile) (o : Nat) (c : List Int) : Option Nat :=
  match descIn (tileDescs d t) (t.handle o) with
  | none => none
  | some x =>
    match d.allocOf x.alloc with
    | none => none
    | some al =>
      if al.kind ≠ .halo then none
      else match (placeOf v (tileDescs d t) x t.reader (c.take 2 ++ t.origins o) d).1 with
        | .at_ y _ => some (denseBit x y / 32768)
        | _ => none

/-- The message of a halo element is there: read by the tile and still in the inbox, or the direction is a lattice edge, which reads as zero
(R258). -/
def haloHere (v : Variant) (d : Dev) (t : Tile) (o : Nat) (c : List Int) : Bool :=
  match haloDirOf v d t o c with
  | none => true
  | some dir => (t.haloRead.contains dir && !t.haloGone.contains dir) || (neighbour t.issuer dir).isNone

/-- A tile consumes the oldest message of a direction at the inbox of a wedge: another one that had read it has to read again. -/
def takeMessage (id w dir : Nat) (d : Dev) : Dev :=
  let d1 := d.modWedge w (fun x => { x with inbox := tmod [] x.inbox dir (fun l => l.tail) })
  { d1 with tiles := d1.tiles.map (fun t =>
      if t.id ≠ id ∧ t.issuer = w ∧ t.haloRead.contains dir = true ∧ t.haloGone.contains dir = false then { t with haloGone := t.haloGone ++ [dir] } else t) }

/-- The messages that a tile read leave its inboxes (R258). -/
def consumeHalo (t : Tile) (d : Dev) : Dev :=
  (t.haloRead.filter (fun dir => !t.haloGone.contains dir)).foldl (fun d dir => takeMessage t.id t.issuer dir d) d

/-! ### Predictor reports (R138 to R141) -/

/-- 2^-k compared with a miss rate: more misses than the bound allows. -/
def missesOver (naud nmiss k : Nat) : Bool := decide (nmiss * 2 ^ k > naud)

/-- The estimated number of lost neurons, in FP32. -/
def estLost (i : PredIssue) : BitVec 32 :=
  if i.naud = 0 then 0 else toF32 (Fp.ofRat (((i.nmiss * (i.ninact - i.naud) : Nat) : Rat) / (i.naud : Rat)))

def reportBytes (i : PredIssue) (widened : Bool) : Bytes :=
  toLe 4 i.nact ++ toLe 4 i.namb ++ toLe 4 i.ninact ++ toLe 4 i.naud ++ toLe 4 i.nmiss ++ toLe 4 i.nunsv ++ toLe 1 i.band ++
    toLe 1 i.phase ++ toLe 2 (if widened then 1 else 0) ++ toLe 4 (estLost i).toNat

/-- The band after an issue: raised by one over the issue's band (R139, R140), or lowered after a quiet run (R141). A widening that is
requested where the band is already that high posts and counts nothing (DESIGN CHOICE, notes/assumptions/162.md), and quiet issues are
counted while OD 0x2060.04 is 0 too, so that a run may be complete when it is set (DESIGN CHOICE, notes/assumptions/163.md). -/
def adaptBand (i : PredIssue) (d : Dev) : Dev :=
  let hub := hubOfWedge i.wedge
  let key := hub * 256 + i.phase
  let cur := bandAt d hub i.phase
  let k := i.missk
  let lim := i.limit
  let run := i.nrun
  let set (b : Nat) (q : Nat) (d : Dev) : Dev :=
    { d with pred := tmod {} d.pred key (fun x => { x with band := some b, quiet := q }) }
  let wide := i.naud ≠ 0 && missesOver i.naud i.nmiss k
  let quiet := i.naud ≠ 0 && !missesOver i.naud i.nmiss (k + 2)
  let d1 :=
    if wide && decide (cur < i.band + 1) then
      if i.band + 1 > lim then
        d.postOnce limBandMax key evPredBandMax hub (wedgeTarget i.wedge) [(1, i.phase)]
      else ((set (i.band + 1) 0 d).count 0x206D (ssHub hub) 1).post evPredWiden hub (wedgeTarget i.wedge)
        [(1, i.phase), (1, i.band + 1)]
    else d
  let cur1 := bandAt d1 hub i.phase
  let q := if quiet then (tget {} d1.pred key).quiet + 1 else 0
  if run ≠ 0 ∧ q ≥ run then
    if cur1 > baseBand d1 hub i.phase then (set (cur1 - 1) 0 d1).count 0x206E (ssHub hub) 1 else set cur1 0 d1
  else { d1 with pred := tmod {} d1.pred key (fun x => { x with quiet := q }) }

/-- A committed predictor issue whose audits are all served or abandoned writes its report and adapts the band
(notes/assumptions/32.md). -/
def settleIssue (id : Nat) (d : Dev) : Dev :=
  match d.issues.find? (fun i => i.id = id) with
  | none => d
  | some i =>
    if i.committed && i.drawn.isEmpty then
      let wide := i.naud ≠ 0 && missesOver i.naud i.nmiss i.missk
      let d1 := { d with issues := d.issues.filter (fun x => x.id ≠ id) }
      adaptBand i ((settleClear i.issuer d1).swrite i.issuer (16 * i.radr) (reportBytes i wide))
    else d

/-! ### The commit -/

/-- A predictor issue that commits replaces the ones that wrote the same part of the activity vector: what they drew and is not yet
served is abandoned (R137). -/
def supersede (id : Nat) (d : Dev) : Dev :=
  match d.issues.find? (fun i => i.id = id) with
  | none => d
  | some n =>
    let old := d.issues.filter (fun i => i.id ≠ id && i.committed && i.alloc = n.alloc && i.base = n.base && i.org = n.org &&
      i.gi = n.gi && i.gj = n.gj)
    old.foldl (fun (d : Dev) (o : PredIssue) =>
      let drop (i : PredIssue) : PredIssue := if i.id = o.id then { i with nunsv := i.nunsv + i.drawn.length, drawn := [] } else i
      let d1 := { d with issues := d.issues.map drop }
      settleIssue o.id (d1.count 0x206B (ssFacet (facetOfWedge o.wedge)) o.drawn.length)) d

/-- The exponents that a KV append has written into the span table stand there. One that is not 0 is read there from now on. -/
def settleSpans (t : Tile) (d : Dev) : Dev :=
  if t.inst.func ≠ fLAPP ∨ d.spans = [] then d
  else
    let keys := t.writes.filterMap (fun w => match w with
      | .mem a o _ => some (a * 2 ^ 64 + o)
      | _ => none)
    { d with spans := d.spans.filterMap (fun e =>
        if keys.contains e.1 then (if e.2.exp = 0 then some (e.1, { e.2 with done := true }) else none) else some e) }

/-- The end of a tile whose writes are all accepted: the committed count (R248), and the tile leaves. -/
def finishTile (id : Nat) (d : Dev) : Dev :=
  match d.tileOf id with
  | none => d
  | some t =>
    if t.stage = .writing ∧ t.acks.length = t.writes.length ∧ t.halo = [] then
      let d1 := match tileCtr d t with
        | some c => let d := settleClear c.home d; ctrAtomic d c 319 256 (ctrCommitted d c + 1)
        | none => d
      let d2 := d1.count 0x2092 t.ss 1
      removeTile t (settleSpans t (if t.smiss then d2.modJob t.job (fun j => { j with smiss := true }) else d2))
    else d

/-- The window of a tile that asks for it is cleared once it has been written (R162, R164). -/
def clearWindow (t : Tile) (d : Dev) : Dev :=
  match t.engine with
  | some e => if t.prm.clr then d.modEngine e (fun g => { g with acc := filledWindow t.inst t.prm g.acc }) else d
  | none => d

/-- A duplicate: every output is discarded (R248). DUPLICATE_CLAIM is posted once per instruction. -/
def discardDuplicate (t : Tile) (d : Dev) : Dev :=
  let d1 := (removeTile t d).count 0x2093 t.ss 1
  let d2 := { d1 with issues := d1.issues.filter (fun i => i.id ≠ t.id) }
  if (d2.jobOf t.job).elim false (fun j => j.dups.contains t.ctr) then d2
  else (d2.modJob t.job (fun j => { j with dups := j.dups ++ [t.ctr] })).post evDuplicateClaim (issuerHub t.issuer)
    (issuerTarget t.issuer) []

/-- The test-and-set of the tile's bit: whether it was set, poison, the device. -/
def setBit (v : Variant) (t : Tile) (d : Dev) : Bool × Bool × Dev :=
  match (d.jobOf t.job).bind (fun j => d.progOf j.prog), tileCtr d t with
  | some g, some c =>
    match d.allocOf g.calloc with
    | none => (false, true, d)
    | some al =>
      let r := devAccess v al (g.coff + c.bmoff + t.q / 8) 1 (.testSet (t.q % 8)) d
      ((leNat r.1).testBit (t.q % 8), r.2.1, r.2.2)
  | _, _ => (false, true, d)

/-- A tile passes its test-and-set: its results become writes and messages, its window is cleared, its halo reads are consumed. -/
def admitTile (v : Variant) (t : Tile) (d : Dev) : Dev :=
  let w := tileWrites v t (clearWindow t (countPads t d))
  let h := haloMessages t w.1 w.2
  let own := w.1.filter (fun x => (haloOp w.2 x).isNone)
  let d1 := consumeHalo t h.2.2
  let d2 := d1.modTile t.id (fun x => { x with stage := .writing, results := [], writes := own, acks := [], halo := h.1,
                                               haloN := h.2.1 })
  let d3 := { d2 with issues := d2.issues.map (fun i => if i.id = t.id then { i with committed := true } else i) }
  settleIssue t.id (finishTile t.id (supersede t.id d3))

/-- A pairing side by its key: a macro, or 110,592 + (engine * 64 + lane) * 2 + operand. Its subindex, hub and unit. -/
def pairSs (key : Nat) : Nat := if key < 110592 then ssFacet (facetOfMacro key) else ssEngine ((key - 110592) / 128)
def pairHub (key : Nat) : Nat := if key < 110592 then hubOfMacro key else (key - 110592) / 1024
def pairUnit (key : Nat) : BitVec 32 :=
  if key < 110592 then wedgeTarget (wedgeOfMacro key) else engineTarget ((key - 110592) / 128)

/-- An alignment fault (R93, R94): the event, the counter of the pairing side's unit, and the failure of the consuming tile. -/
def alignFault (t : Tile) (key : Nat) (dtag stag : Nat) (d : Dev) : Dev :=
  let d1 := d.count 0x2044 (pairSs key) 1
  failTile t stStreamAlign (d1.post evStreamAlign (pairHub key) (pairUnit key) [(1, t.inst.phase), (1, dtag), (1, stag)])

/-- An entry or a block that remains at the end of a tile (the third case of R93). -/
def leftOver (d : Dev) (tile : Nat) : Option (Nat × Pairing) :=
  d.pairs.find? (fun e => e.2.tile = tile && !(e.2.scales.isEmpty && e.2.waiting.isEmpty && e.2.paired.isEmpty))

/-- The tags that an alignment fault reports for what is left: those of the oldest pair, else of the block or entry that is there. A
threshold-mode block has no entry (R54). -/
def leftTags (t : Tile) (p : Pairing) : Nat × Nat :=
  match p.paired with
  | (b, _) :: _ => (b.tag.toNat, if t.inst.func = fMTHR ∨ t.inst.func = fMPRED then 0xFF else b.tag.toNat)
  | [] => ((p.waiting.head?).elim 0xFF (fun b => b.tag.toNat), (p.scales.head?).elim 0xFF (fun e => e.tag.toNat))

/-! ### Acceptance of writes (R249, R279, R299, R326) -/

/-- The request of a write or add at an offset of a remote window (Table 12.3). -/
def remoteWrite (t : Tile) (index : Nat) (al : Alloc) (o : Nat) (op : MemOp) : RemoteReq :=
  let words (ws : List (BitVec 32)) : Bytes := (ws.map (fun x => toLe 4 x.toNat)).flatten
  let (code, kind, pay) : Nat × Nat × Bytes := match op with
    | .write b => (0x18, 0, b)
    | .addF32 ws => (0x19, 0, words ws)
    | .addI32 ws => (0x19, 1, words ws)
    | _ => (0x19, 0, [])
  { op := code, kind := kind, cls := 3, exp := al.peerExp, offset := o, len := pay.length, payload := pay, src := t.reader.src,
    addr := index, peer := al.peer, tile := some t.id, hub := al.winHub, group := al.winGroup }

/-- Apply a resolved write: whether it is accepted now (a remote one is accepted when the peer acknowledges it), poison, the
device. Bits of a byte of a window are read, and the byte is written. -/
def applyRaw (v : Variant) (t : Tile) (index : Nat) (w : RawOp) (d : Dev) : Bool × Bool × Dev :=
  match w with
  | .spad code a b => (true, false, (settleClear code d).swrite code a b)
  | .mem h o op =>
    match d.allocOf h with
    | none => (true, true, d)
    | some al =>
      match al.kind with
      | .window => (false, false, d.emit (.remote (remoteWrite t index al o op)))
      | _ =>
        match op with
        | .write b => let r := devWrite v al o b d; (true, r.1, r.2)
        | _ => let r := devAccess v al o (opLen op 4) op d; (true, r.2.1, r.2.2)
  | .bits h o mask b =>
    match d.allocOf h with
    | none => (true, true, d)
    | some al =>
      match al.kind with
      | .window =>
        let r := readRemote al t.reader o 1 d
        let old := nth 0 r.1 0
        (false, r.2.1, if r.2.2.waits || r.2.1 then r.2.2 else r.2.2.emit (.remote (remoteWrite t index al o (.write [(old &&& ~~~mask) ||| b]))))
      | _ =>
        let r := devAccess v al o 1 .read d
        let old := nth 0 r.1 0
        let r2 := devAccess v al o 1 (.write [(old &&& ~~~mask) ||| b]) r.2.2
        (true, r.2.1 || r2.2.1, r2.2.2)

/-- Record the acknowledge of write `index` of a tile; the last one ends the tile. -/
def ackWrite (tile index : Nat) (d : Dev) : Dev :=
  finishTile tile (d.modTile tile (fun x => { x with acks := x.acks ++ [index] }))

def writeAcceptOp (v : Variant) (tile index : Nat) (d : Dev) : Dev :=
  match d.tileOf tile with
  | none => d
  | some t =>
    match t.writes[index]? with
    | none => d
    | some w =>
      if t.stage = .writing ∧ t.acks.contains index = false then
        reading t.reader d (fun d =>
          let r := applyRaw v t index w d
          if r.2.1 then failRead t r.2.2 else if r.1 then ackWrite tile index r.2.2 else r.2.2)
      else d

/-! ### Halo commands -/

/-- The message of a direction leaves: appended to the neighbour's inbox, discarded at a neighbour that is Off or held in reset, or
waiting while the inbox holds 4. -/
def haloAppendOp (tile dir : Nat) (d : Dev) : Dev :=
  match d.tileOf tile with
  | none => d
  | some t =>
    match tfind t.halo dir, neighbour t.issuer dir with
    | some msg, some n =>
      let gone := targetOffline d (.wedge (n / 16) (n % 16))
      let done (f : Tile → Tile) (d : Dev) : Dev := finishTile tile (d.modTile tile (fun x =>
        f { x with halo := tdel x.halo dir, haloN := tdel x.haloN dir }))
      if t.stage ≠ .writing then d
      else if gone then
        let d1 := d.count 0x2097 t.ss (tget 0 t.haloN dir)
        let d2 := if t.haloLost then d1 else d1.post evHaloLost (issuerHub t.issuer) (issuerTarget t.issuer) []
        done (fun x => { x with haloLost := true }) d2
      else if (tget [] (d.wedge n).inbox (opposite dir)).length ≥ 4 then d
      else
        let d1 := d.modWedge n (fun w => { w with inbox := tmod [] w.inbox (opposite dir) (fun l => l ++ [msg]) })
        done id (d1.count 0x2096 t.ss 1)
    | _, _ => d

/-- A tile reads a direction: it takes the oldest message of that inbox, and waits while the inbox is empty. An edge reads as zero
and needs no message. -/
def haloReadOp (tile dir : Nat) (d : Dev) : Dev :=
  match d.tileOf tile with
  | none => d
  | some t =>
    if t.stage = .issued ∧ (neighbour t.issuer dir).isSome = true ∧ (tget [] (d.wedge t.issuer).inbox dir ≠ []) ∧
        (t.haloRead.contains dir = false ∨ t.haloGone.contains dir = true) then
      d.modTile tile (fun x => { x with haloRead := x.haloRead.filter (· ≠ dir) ++ [dir], haloGone := x.haloGone.filter (· ≠ dir) })
    else d

/-- Some element of the tile's activations lies in the message of a direction. -/
def readsDir (v : Variant) (d : Dev) (t : Tile) (dir : Nat) : Bool :=
  (List.range (formVecs t)).any (fun k => (List.range t.b2).any (fun i =>
    haloDirOf v d t 0 [(i : Int), (t.rowAt k : Int)] == some dir))

/-- The halo timeout (R258): the tile that waits for a message fails. -/
def haloTimeoutOp (v : Variant) (tile waited : Nat) (d : Dev) : Dev :=
  match d.tileOf tile with
  | none => d
  | some t =>
    let waits := (List.range 4).any (fun k => (neighbour t.issuer k).isSome && (tget [] (d.wedge t.issuer).inbox k).isEmpty &&
      (!t.haloRead.contains k || t.haloGone.contains k) && readsDir v d t k)
    if t.stage = .issued ∧ waits = true ∧ waited > t.haloTo then (failTile t stHaloTimeout d).count 0x2098 t.ss 1
    else d

/-! ### Meanings -/

def execWriteAccept (tile index : Nat) (s : State) : Host.Outcome State Fault Refusal :=
  .next (s.on (writeAcceptOp s.variant tile index s.dev))

def execHaloAppend (tile dir : Nat) (s : State) : Host.Outcome State Fault Refusal :=
  .next (s.on (haloAppendOp tile dir s.dev))

def execHaloRead (tile dir : Nat) (s : State) : Host.Outcome State Fault Refusal :=
  .next (s.on (haloReadOp tile dir s.dev))

def execHaloTimeout (tile waited : Nat) (s : State) : Host.Outcome State Fault Refusal :=
  .next (s.on (haloTimeoutOp s.variant tile waited s.dev))

end Sys2Proof.Machine
end

