-- ==== Sys2Proof/Machine/MacroPath.lean ====
section
/-!
DEFINITION. The macro path (ch. 2, 3, 4, 5, 8): pairing of blocks and scales, admission of a block, planes in blend, fallback and
exact mode with their current-lane reads, re-resolution, outlier terms, partials, and the final adders with thresholds,
predictor, row-wise functions and audits.
-/
namespace Sys2Proof.Machine

open Sys2Proof

/-! ### Pairing (R92 to R94) -/

/-- The key of a pairing side. -/
def pairKey : PairIn → Nat
  | .mac m => m
  | .lane e n b => 110592 + (e * 64 + n) * 2 + (if b then 1 else 0)


/-- The lane runs an item of the tile. -/
def laneRuns (d : Dev) (e n tile : Nat) : Bool := (d.lane e n).run.elim false (fun i => i.tile = tile)

/-- The tile uses the unit at whose input the pairing side stands: a macro of its matrices, or a lane that runs an item of it and an
operand that has a scale. -/
def feeds (d : Dev) (t : Tile) : PairIn → Bool
  | .mac m => isMacroFn t.inst.func && t.wedges.contains (wedgeOfMacro m)
  | .lane e n b => t.engine == some e && laneRuns d e n t.id && (if b then t.inst.opnd 3 ≠ 0 && t.inst.func ≠ fLATT else t.inst.opnd 1 ≠ 0)

/-- A pairing side whose tile has had both its streams end and all its pairs taken is free for the next tile. -/
def Pairing.over_ (p : Pairing) : Bool :=
  p.scaleEnded && p.dataEnded && p.scales.isEmpty && p.waiting.isEmpty && p.paired.isEmpty

/-- The pairing side as a tile finds it; none while it serves another tile. -/
def pairingFor (d : Dev) (key tile : Nat) : Option Pairing :=
  let p := tget {} d.pairs key
  if p.tile = tile then some p else if p = {} ∨ p.over_ = true then some { tile := tile } else none

def setPairing (key : Nat) (p : Pairing) (d : Dev) : Dev := { d with pairs := tput {} d.pairs key p }

/-- The 32 elements of a paired block as a lane's operand input takes them; `second` is the second operand of a scan. -/
def laneElems (second : Bool) (b : DataBlock) (e : BitVec 8) : List LaneElem :=
  (b.q.zipIdx).map (fun x => { opnd := if second then 2 else 0, c0 := b.c0 + x.2, c1 := b.c1, bits := x.1.setWidth 32,
                               dup := (nth 0 b.dup x.2).setWidth 32, exp := e })

/-- Elements enter a lane: stationary rows of a grid function its query store, the others its operand inputs. -/
def enterLane (t : Tile) (second : Bool) (es : List LaneElem) (l : Lane) : Lane :=
  if second then { l with inB := l.inB ++ es }
  else if isGridFn t.inst.func then
    { l with query := es.foldl (fun q e => tset q ((e.c1 - t.gi * windowRows t.inst) * 2 ^ 20 + e.c0) e) l.query }
  else { l with inA := l.inA ++ es }

/-- A joined pair waits for the macro's input buffer, or enters the lane's operand input. -/
def joinPair (t : Tile) (at_ : PairIn) (p : Pairing) (b : DataBlock) (e : BitVec 8) (d : Dev) : Dev :=
  match at_ with
  | .mac m => setPairing m { p with paired := p.paired ++ [(b, e)] } d
  | .lane g n second =>
    (setPairing (pairKey at_) p d).modLane g n (enterLane t second (laneElems second b e))

/-- A data block arrives, or (none) the data stream ends. A threshold-mode block has the tile's exponent and no entry (R54). -/
def arriveBlock (t : Tile) (at_ : PairIn) (p : Pairing) (blk : Option DataBlock) (d : Dev) : Dev :=
  let key := pairKey at_
  match blk with
  | none =>
    match p.scales with
    | e :: _ => alignFault t key 0xFF e.tag.toNat d
    | [] => setPairing key { p with dataEnded := true } d
  | some b =>
    if t.inst.func = fMTHR ∨ t.inst.func = fMPRED then
      joinPair t at_ { p with scaleEnded := true } b (BitVec.ofNat 8 t.prm.texp) d
    else match p.scales with
      | e :: rest => if e.tag = b.tag then joinPair t at_ { p with scales := rest } b e.exp d
          else alignFault t key b.tag.toNat e.tag.toNat d
      | [] => if p.scaleEnded then alignFault t key b.tag.toNat 0xFF d
          else setPairing key { p with waiting := p.waiting ++ [b] } d

/-- A scale entry arrives, or (none) the scale stream ends. -/
def arriveScale (t : Tile) (at_ : PairIn) (p : Pairing) (entry : Option ScaleEntry) (d : Dev) : Dev :=
  let key := pairKey at_
  match entry with
  | none =>
    match p.waiting with
    | b :: _ => alignFault t key b.tag.toNat 0xFF d
    | [] => setPairing key { p with scaleEnded := true } d
  | some e =>
    match p.waiting with
    | b :: rest => if e.tag = b.tag then joinPair t at_ { p with waiting := rest } b e.exp d
        else alignFault t key b.tag.toNat e.tag.toNat d
    | [] => if p.dataEnded then alignFault t key 0xFF e.tag.toNat d
        else if p.scales.length ≥ 8 then d
        else setPairing key { p with scales := p.scales ++ [e] } d

/-! ### What the streams of a tile carry (R92, R97, R125, R127, R218, R228) -/

/-- The matrix of a product. -/
def matOfProduct (t : Tile) (p : Nat) : Nat := if p = 0 then t.inst.opnd 2 else if p = 1 then t.inst.opnd 3 else t.prm.mat2

/-- The products of a tile: 0 the first, 1 the up product of a gated pair, 2 the second of a fused pair. -/
def Tile.products (t : Tile) : List Nat := if t.inst.func = fMFUSE then (if t.inst.fuse = 2 then [0, 1, 2] else [0, 2]) else [0]

/-- A matrix serves a product of a tile. One matrix may serve several (R228, R229). -/
def serves (t : Tile) (mat product : Nat) : Bool := mat ≠ 0 && t.products.contains product && mat = matOfProduct t product

/-- The product of a macro's block, while the active bank holds its matrix. -/
def blkProduct (t : Tile) (k : Bank) (b : Blk) : Option Nat := if serves t k.matrix b.product then some b.product else none

/-- What a macro has been fed for a tile: a vector of a product. -/
def fedKey (product vec : Nat) : Nat := product * 2 ^ 32 + vec

/-- Columns of the intermediate of a fused pair. -/
def midWidth (d : Dev) (t : Tile) : Nat := (d.matOf (t.inst.opnd 2)).elim 0 (fun m => m.cols)

/-- Key of what a fused pair's intermediate holds: a vector, and a column, block or place in the outlier list. -/
def midKey (vec n : Nat) : Nat := vec * 2 ^ 32 + n

/-- The tag of a block of a fused pair's intermediate (R92): block k of a vector. -/
def midTag (d : Dev) (t : Tile) (vec k : Nat) : BitVec 4 := BitVec.ofNat 4 (k + t.vecAt vec * cdiv (midWidth d t) 32)

/-- Block k of a vector of the intermediate, once its elements have left their forming sides; beyond its width it is zero. -/
def midBlock (d : Dev) (t : Tile) (k c1 : Nat) : Option DataBlock :=
  let vec := c1 - t.vecAt 0
  let cols := (List.range 32).map (fun i => 32 * k + i)
  if cols.all (fun c => decide (midWidth d t ≤ c) || (tfind t.mid (midKey vec c)).isSome) then
    some { tag := midTag d t vec k, c0 := 32 * k, c1 := c1, q := cols.map (fun c => tget 0 t.mid (midKey vec c)), product := 2 }
  else none

def midScale (d : Dev) (t : Tile) (k c1 : Nat) : Option ScaleEntry :=
  let vec := c1 - t.vecAt 0
  (tfind t.midExp (midKey vec k)).map (fun e => { exp := e, tag := midTag d t vec k })

/-- The two values of a 2:4 group at one position make one element of the dense block that goes to a macro: their sum, or a free value
where it is no INT8 value, of which no rule speaks (DESIGN CHOICE, notes/assumptions/131.md). -/
def denseBlock (free : Nat) (b : DataBlock) : DataBlock :=
  { b with q := (b.q.zipIdx).map (fun x =>
      let y := nth 0 b.dup x.2
      if y = 0 then x.1
      else
        let s := x.1.toInt + y.toInt
        if -128 ≤ s ∧ s ≤ 127 then BitVec.ofInt 8 s else (Config.freeWord (free + x.2)).setWidth 8), dup := [] }

/-- The unit at whose input a pairing side stands is in power state Run (R180). -/
def pairRuns (d : Dev) : PairIn → Bool
  | .mac m => domRuns d (domWedge (wedgeOfMacro m))
  | .lane e _ _ => domRuns d (domEngine e)

/-- The data operand of a pairing side; its scales are the next. -/
def pairOpnd : PairIn → Nat
  | .lane _ _ true => 2
  | _ => 0

/-- A macro takes a block for a product that its matrix serves, at a block of its row-block and a vector of the tile; a lane takes those
of its tile. -/
def takesBlock (d : Dev) (t : Tile) (at_ : PairIn) (b : BlockAt) : Bool :=
  match at_ with
  | .mac m =>
    let k := (d.mac m).active
    k.rb = b.k && decide (t.vecAt 0 ≤ b.c1) && decide (b.c1 < t.vecAt 0 + tileVecs t.inst t.gi t.b0) && serves t k.matrix b.product
  | .lane _ _ _ => b.product = 0

/-- The input staging buffer of a macro is full (Table 10.6): the blocks that wait at its pairing side and those paired fill it. How many
it holds is free (notes/assumptions/156.md). -/
def stagingFull (d : Dev) (m : Nat) : Bool :=
  let p := tget {} d.pairs m
  decide (Config.stagingRoom (wedgeOfMacro m) < p.waiting.length + p.paired.length)
def inputFull (d : Dev) : PairIn → Bool
  | .mac m => stagingFull d m
  | .lane _ _ _ => false

/-- Key of what the address generators have sent to a facet: each block goes there once, to every wedge that takes it (R269). -/
def sentKey (m k c1 : Nat) : Nat := facetOfMacro m * 2 ^ 96 + k * 2 ^ 48 + c1

/-- Every element of a block is there to be read: none waits for a halo message. -/
def blockHere (v : Variant) (d : Dev) (t : Tile) (o k c1 : Nat) : Bool :=
  (List.range 32).all (fun i => haloHere v d t o [((32 * k + i : Nat) : Int), (c1 : Int)])

/-- The block of the activation operand that a facet's macros take: fetched and sent to the facet once. Answers the block, none where it
is poisoned, and the device. -/
def macroBlock (v : Variant) (t : Tile) (m : Nat) (b : BlockAt) (d : Dev) : Option DataBlock × Dev :=
  let key := sentKey m b.k b.c1
  match tfind t.sent key with
  | some x => (some { x with product := b.product }, d)
  | none =>
    let r := fetchBlock v t 0 b.k b.c1 d
    if r.1.2 then (none, r.2)
    else
      let d1 := if r.1.1.dup.all (· = 0) then r.2 else { r.2 with free := r.2.free + 32 }
      let x := denseBlock r.2.free r.1.1
      (some { x with product := b.product }, d1.modTile t.id (fun y => { y with sent := tset y.sent key x }))

def laneBlock (v : Variant) (t : Tile) (at_ : PairIn) (b : BlockAt) (d : Dev) : Option DataBlock × Dev :=
  let r := fetchBlock v t (pairOpnd at_) b.k b.c1 d
  (if r.1.2 then none else some r.1.1, r.2)

/-- A data block as the address generator brings it to a pairing side. -/
def sideBlock (v : Variant) (t : Tile) (at_ : PairIn) (b : BlockAt) (d : Dev) : Option DataBlock × Dev :=
  match at_ with
  | .mac m => macroBlock v t m b d
  | .lane _ _ _ => laneBlock v t at_ b d

/-- A scale entry as the address generator brings it to a pairing side: once to a facet. -/
def sideScale (v : Variant) (t : Tile) (at_ : PairIn) (b : BlockAt) (d : Dev) : Option ScaleEntry × Dev :=
  let fetch : Option ScaleEntry × Dev :=
    let r := fetchScale v t (pairOpnd at_ + 1) b.k b.c1 d
    (if r.1.2 then none else some r.1.1, r.2)
  match at_ with
  | .lane _ _ _ => fetch
  | .mac m =>
    let key := sentKey m b.k b.c1
    match tfind t.sentExp key, fetch with
    | some e, _ => (some e, d)
    | none, (some e, d1) => (some e, d1.modTile t.id (fun y => { y with sentExp := tset y.sentExp key e }))
    | none, r => r

/-- A data block reaches a pairing side: the one at block k along the reduction and tile coordinate 1, or (none) the stream's end. The
address generator fetches it; a fused pair's second product takes it from the forming sides of the first. It waits while the staging
buffer is full. -/
def blockPairingOp (v : Variant) (at_ : PairIn) (tile : Nat) (blk : Option BlockAt) (d : Dev) : Dev :=
  match d.tileOf tile, pairingFor d (pairKey at_) tile with
  | some t, some p =>
    if t.stage ≠ .issued ∨ feeds d t at_ = false ∨ p.dataEnded = true ∨ pairRuns d at_ = false then d
    else match blk with
      | none => arriveBlock t at_ p none d
      | some b =>
        if takesBlock d t at_ b = false ∨ inputFull d at_ = true then d
        else if b.product = 2 then (midBlock d t b.k b.c1).elim d (fun x => arriveBlock t at_ p (some x) d)
        else if !blockHere v d t (pairOpnd at_) b.k b.c1 then d
        else reading t.reader d (fun d =>
          match sideBlock v t at_ b d with
          | (some x, d1) => arriveBlock t at_ p (some x) d1
          | (none, d1) => failRead t d1)
  | _, _ => d

/-- A scale entry reaches a pairing side, or (none) the scale stream ends. -/
def scaleEntryArrivalOp (v : Variant) (at_ : PairIn) (tile : Nat) (entry : Option BlockAt) (d : Dev) : Dev :=
  match d.tileOf tile, pairingFor d (pairKey at_) tile with
  | some t, some p =>
    if t.stage ≠ .issued ∨ feeds d t at_ = false ∨ p.scaleEnded = true ∨ pairRuns d at_ = false then d
    else match entry with
      | none => arriveScale t at_ p none d
      | some b =>
        if takesBlock d t at_ b = false then d
        else if b.product = 2 then (midScale d t b.k b.c1).elim d (fun e => arriveScale t at_ p (some e) d)
        else reading t.reader d (fun d =>
          match sideScale v t at_ b d with
          | (some e, d1) => arriveScale t at_ p (some e) d1
          | (none, d1) => failRead t d1)
  | _, _ => d

/-! ### Products and masks -/

/-- A neuron that the activity vector masks: code 00 and not drawn for audit (R133). -/
def maskedAt (t : Tile) (product vec col : Nat) : Bool :=
  t.prm.hV ≠ 0 && product ≤ 1 && tget 3 t.codes (vec * 2 ^ 32 + col) = 0 && !t.drawn.contains (vec * 2 ^ 32 + col)

/-- Logical unit j of a bank computes for a vector of a tile: it is no padding (R236) and not masked. -/
def unitOn (t : Tile) (k : Bank) (product vec j : Nat) : Bool :=
  j < k.valid && !maskedAt t product vec (k.cb * unitsOf k.packing + j)

/-- Physical units of a macro that a tile masks, padding included (R134). -/
def maskedUnits (t : Tile) (k : Bank) (product vec : Nat) : Nat :=
  ((List.range 1024).filter (fun u =>
    (List.range (unitsPer k.packing)).all (fun i => !unitOn t k product vec (u * unitsPer k.packing + i)))).length

/-- Physical units that hold any weight. -/
def listedUnits (k : Bank) : List Nat := (k.words.map (fun e => e.1 / 32)).eraseDups

/-! ### Admission of a block (R36 to R38, R83, R108) -/

/-- The rows of a row-block that hold outlier channels of a matrix. -/
def outlierRows (m : Matrix) (rb : Nat) : List Nat := (m.outliers.filter (fun k => k / 32 = rb)).map (fun k => k % 32)

/-- A product streams outlier values: the tile names the input tensors (R499), or the fused pair's second matrix has a list
(R230). -/
def streamsOutliers (t : Tile) (product : Nat) (m : Matrix) : Bool :=
  m.outliers != [] && (if product = 2 then true else t.prm.oinD ≠ 0)

/-- The outlier values of a block by row. Rows from `limit` on lie at or beyond bnd2 and read as zero (R218). -/
def outlierVals (rows : List Nat) (limit : Nat) (side : OutlierSide) : List (Nat × Int) :=
  rows.map (fun r => (r, if r < limit then (side.rows.find? (fun e => e.1 = r)).elim 0 (fun e => e.2.toInt) else 0))

/-- The INT8 elements after zero masking: an outlier row is zero. -/
def maskedBlock (b : DataBlock) (rows : List Nat) : List Int :=
  (List.range 32).map (fun r => if rows.contains r then 0 else (nth 0 b.q r).toInt)

/-- The residue block of pass 1 (l), 2 (m) or 3 (h) (R83). -/
def residue (pass : Nat) (vals : List (Nat × Int)) : List Int :=
  (List.range 32).map (fun r =>
    let a := (vals.find? (fun e => e.1 = r)).elim 0 (fun e => e.2)
    match pass with
    | 1 => a % 128
    | 2 => a / 128 % 128
    | _ => a / 16384)

/-- A block in which every element is zero issues no step (R38). -/
def allZero (q : List Int) : Bool := q.all (· = 0)

/-- The next pass of a block, once a pass is done: a residue pass follows when the block has them. An all-zero pass is done at
once. `last` is the last pass of the block. -/
def nextPass (last : Nat) : Nat → Blk → Blk
  | 0, b => b
  | n + 1, b =>
    if b.plane ≥ 8 ∧ b.amb = [] ∧ b.pass < last then
      let q := residue (b.pass + 1) b.outRows
      nextPass last n { b with pass := b.pass + 1, q := q, plane := if allZero q then 8 else 0 }
    else b

/-- The matrix of the macro's active bank is exact-only for outliers in its wedge (R82, R84). -/
def xoOutliers (d : Dev) (m : Nat) : Bool := (d.wedge (wedgeOfMacro m)).xoOut.contains (d.mac m).active.matrix

/-- The last pass of a block on a macro: 3 while its outlier terms are to come from residue passes, else 0. -/
def lastPass (d : Dev) (m : Nat) (b : Blk) : Nat := if xoOutliers d m && b.outRows != [] && !b.termsDone then 3 else 0

/-- All-zero blocks among the residue blocks. -/
def zeroPasses (vals : List (Nat × Int)) : Nat := ([1, 2, 3].filter (fun p => allZero (residue p vals))).length

/-- The residue blocks of a block are counted, those that are all zero as skipped too (R83). -/
def countResidues (m : Nat) (vals : List (Nat × Int)) (d : Dev) : Dev :=
  let ss := ssFacet (facetOfMacro m)
  (d.count 0x2033 ss 3).count 0x2023 ss (zeroPasses vals)

/-- The matrix of a macro's block has become exact-only for outliers: a block whose outlier terms are still to be formed takes its
residue passes (R83, R84). -/
def startResidues (m : Nat) (d : Dev) : Dev :=
  match (d.mac m).blk with
  | none => d
  | some b =>
    if b.termsDone = true ∨ b.outRows = [] then d
    else (countResidues m b.outRows d).modMac m (fun x => { x with blk := some (nextPass 3 3 b) })

/-- A forced step is due before the first step of a tile that the macro has not begun (R440, R450). -/
def forcedFirst (d : Dev) (t : Tile) (m : Nat) : Bool :=
  let x := d.mac m
  (ckOwed d m || (x.cal.req && x.cal.forced)) && !x.forcedDone && t.fed.all (fun e => e.1 != m)

/-- The outlier side of a block of product 0 or 1: the values of its rows at vector `ovec` of the outlier tensors, and that vector's
exponent (R108, R499); poison. -/
def fetchOutliers (v : Variant) (t : Tile) (mat : Matrix) (rb ovec : Nat) (d : Dev) : (OutlierSide × Bool) × Dev :=
  let places := (mat.outliers.zipIdx).filter (fun k => k.1 / 32 = rb)
  let vals := places.foldl (fun (r : List (Nat × BitVec 16) × Bool × Dev) k =>
    let f := fetchOperand v t 9 [(k.2 : Int), (ovec : Int)] r.2.2
    (r.1 ++ [(k.1 % 32, BitVec.ofNat 16 f.1.bits)], r.2.1 || f.1.poison, f.2)) ([], false, d)
  let e := fetchOperand v t 10 [(ovec : Int)] vals.2.2
  (({ rows := vals.1, exp := BitVec.ofNat 8 e.1.bits, tag := BitVec.ofNat 4 ovec }, vals.2.1 || e.1.poison), e.2)

/-- The outlier side of a block of a fused pair's second product, once the values of its rows have left the forming side. -/
def midOutliers (t : Tile) (mat : Matrix) (rb ovec : Nat) : Option OutlierSide :=
  let vec := ovec - t.vecAt 0
  let places := (mat.outliers.zipIdx).filter (fun k => k.1 / 32 = rb)
  match tfind t.midOutExp (midKey vec 0) with
  | none => none
  | some e =>
    if places.all (fun k => (tfind t.midOut (midKey vec k.2)).isSome) then
      some { rows := places.map (fun k => (k.1 % 32, tget 0 t.midOut (midKey vec k.2))), exp := e, tag := BitVec.ofNat 4 ovec }
    else none

/-- The macro takes its oldest paired block with the outlier side that came with it. -/
def takeBlock (m : Nat) (t : Tile) (product : Nat) (mat : Matrix) (vec : Nat) (side : OutlierSide) (d : Dev) : Dev :=
  let p := tget {} d.pairs m
  match p.paired with
  | [] => d
  | (b, e) :: rest =>
    let k := (d.mac m).active
    let streams := streamsOutliers t product mat
    if streams = true ∧ side.tag ≠ BitVec.ofNat 4 (t.vecAt vec) then
      alignFault t m (t.vecAt vec % 16) side.tag.toNat d
    else
      let rows := if streams then outlierRows mat k.rb else []
      let q := maskedBlock b rows
      let off := maskedUnits t k product vec = 1024
      let d1 := setPairing m { p with paired := rest } d
      let vals := outlierVals rows (if product = 2 then 32 else t.b2 - 32 * k.rb) side
      let blk : Blk := { tile := t.id, vec := vec, rb := k.rb, cb := k.cb, q := q, exp := e,
                         plane := if allZero q || off then 8 else 0, pass := 0, amb := [], sums := [], outRows := vals,
                         outExp := side.exp, terms := [], termsDone := vals.isEmpty, product := product }
      let last := lastPass d1 m blk
      let ss := ssFacet (facetOfMacro m)
      let d2 := if allZero q then d1.count 0x2023 ss 1 else d1
      let d3 := if last = 3 then countResidues m vals d2 else d2
      d3.modMac m (fun x => { x with forcedDone := false, blk := some (if off then { blk with pass := 3 } else nextPass last 3 blk) })

/-- Blocks of a macro whose partials no final adder has reduced yet. -/
def heldPartials (d : Dev) (m : Nat) : Nat :=
  let k := (d.mac m).active
  (d.tiles.map (fun t => (t.products.map (fun p =>
    if serves t k.matrix p then
      (t.fed.filter (fun e => e.1 = m && e.2 / 2 ^ 32 = p && !t.reduced.contains (p * 2 ^ 32 + k.cb, e.2 % 2 ^ 32))).length
    else 0)).sum)).sum

/-- The output stage of a macro is full (Table 10.6): it holds the partials of two blocks beyond those in the final adder's input. -/
def stageFull (d : Dev) (m : Nat) : Bool :=
  let n := heldPartials d m
  !(decide (n < 2) || decide (n < 2 + Config.adderInput (wedgeOfMacro m)))

/-- The macro takes the oldest paired block of a tile: the block of its row-block, for vector `vec` of the tile. Where the product streams
outlier values, those of vector `ovec` of the tensor come with it. With its output stage full it starts no block (R284). -/
def blockAdmitOp (v : Variant) (m tile vec ovec : Nat) (d : Dev) : Dev :=
  let p := tget {} d.pairs m
  match d.tileOf tile, p.paired with
  | some t, (b, _) :: _ =>
    let x := d.mac m
    let k := x.active
    let product := b.product
    match d.matOf k.matrix with
    | some mat =>
      if serves t k.matrix product = false ∨ t.stage ≠ .issued ∨ p.tile ≠ tile ∨ x.blk ≠ none ∨ x.reload = true ∨ x.retire = true ∨ forcedFirst d t m = true ∨
          k.st ≠ .ready ∨ stageFull d m = true ∨ vec ≥ tileVecs t.inst t.gi t.b0 ∨ t.fed.contains (m, fedKey product vec) = true ∨
          b.c0 ≠ 32 * k.rb ∨ b.c1 ≠ t.vecAt vec ∨
          domRuns d (domWedge (wedgeOfMacro m)) = false then d
      else if streamsOutliers t product mat = false then takeBlock m t product mat vec { rows := [], exp := 0, tag := 0 } d
      else if product = 2 then (midOutliers t mat k.rb ovec).elim d (fun s => takeBlock m t product mat vec s d)
      else reading t.reader d (fun d =>
        let r := fetchOutliers v t mat k.rb ovec d
        if r.1.2 then failRead t r.2 else takeBlock m t product mat vec r.1.1 r.2)
    | none => d
  | _, _ => d

/-! ### Planes (R37 to R51) -/

/-- Bit p of each of the 32 elements. -/
def planeOf (q : List Int) (p : Nat) : BitVec 32 :=
  BitVec.ofNat 32 (((List.range 32).map (fun r => if (BitVec.ofInt 8 (nth 0 q r)).getLsbD p then 2 ^ r else 0)).sum)

/-- Rows that a plane drives. -/
def rowsOn (pl : BitVec 32) : List Nat := (List.range 32).filter (fun r => pl.getLsbD r)

/-- The exact plane value of logical unit j. -/
def planeValue (k : Bank) (rows : List Nat) (j : Nat) : Int := (rows.map (fun r => k.weight r j)).sum

/-- The weight of a plane: 2^p, and -128 for plane 7. -/
def planeWeight (p : Nat) : Int := if p = 7 then -128 else ((2 ^ p : Nat) : Int)

/-- The sense pairs of a physical unit: positive column, negative column, magnitude bit, logical unit in the physical one
(Table 2.4). -/
def sensePairs : Packing → List (Nat × Nat × Nat × Nat)
  | .int8 => [(0, 7, 0, 0), (1, 8, 1, 0), (2, 9, 2, 0)]
  | .int4 => [(0, 3, 0, 0), (6, 9, 0, 1)]
  | .ternary => []

/-- The marks that govern the reads of a tile on a macro: those in force at its issue (R77). -/
def marksFor (d : Dev) (m tile : Nat) : List Mark :=
  match (d.mac m).pastOf tile with
  | some e => e.marks
  | none => ((slotMarks d m).map Prod.snd).filter (fun k => !k.clear)

/-- The mark of a column of a unit of a macro, for a tile. -/
def markAt (d : Dev) (m tile unit col : Nat) : Option Mark := (marksFor d m tile).find? (fun k => k.unit = unit ∧ k.col = col)

/-- The count of a column in a plane as the macro forms it: from the correction store where it is marked (R76), else from the
bank. The Bool is whether it is marked. -/
def columnCount (d : Dev) (m tile unit col : Nat) (pl : BitVec 32) : Nat × Bool :=
  match markAt d m tile unit col with
  | some k => (popcount 32 ((if (d.mac m).actB then k.dataB else k.dataA) &&& pl).toNat, true)
  | none => ((d.mac m).active.count unit col pl, false)

/-- What a pair contributes when its counts are exact, and what its wires carry (R50). -/
def pairExact (d : Dev) (m tile unit : Nat) (c : Nat × Nat × Nat × Nat) (pl : BitVec 32) : Int × Int :=
  let a := columnCount d m tile unit c.1 pl
  let b := columnCount d m tile unit c.2.1 pl
  ((a.1 : Int) - b.1, (if a.2 then 0 else (a.1 : Int)) - (if b.2 then 0 else (b.1 : Int)))

/-- Absolute value. -/
def absQ (x : Rat) : Rat := if x < 0 then -x else x

/-- An analogue error within the bound of R70: at most 1.5 units (DEDUCED, notes/assumptions/124.md). -/
def readError (e : Rat) : Rat := max (mkRat (-3) 2) (min (mkRat 3 2) e)

/-- One current-lane read of the sampled value x (Table 2.5): the value, ambiguous, saturated. `n` names the free bits that
comparisons inside the guard band decide. |x| of exactly 15.5 is no overrange (DESIGN CHOICE, notes/assumptions/125.md). -/
def currentRead (x g : Rat) (n : Nat) : Int × Bool × Bool :=
  let mag := absQ x
  let neg := decide (x < 0)
  if decide (mkRat 31 2 < mag) then (if neg then -15 else 15, true, true)
  else
    let c3 := compareAt mag (mkRat 15 2) g (Config.guardBit n)
    let m3 : Nat := if c3.1 then 8 else 0
    let c2 := compareAt mag ((m3 : Rat) + mkRat 7 2) g (Config.guardBit (n + 1))
    let m2 : Nat := if c2.1 then 4 else 0
    let c1 := compareAt mag (((m3 + m2 : Nat) : Rat) + mkRat 3 2) g (Config.guardBit (n + 2))
    let m1 : Nat := if c1.1 then 2 else 0
    let c0 := compareAt mag (((m3 + m2 + m1 : Nat) : Rat) + mkRat 1 2) g (Config.guardBit (n + 3))
    let m0 : Nat := if c0.1 then 1 else 0
    let v : Int := ((m3 + m2 + m1 + m0 : Nat) : Int)
    (if neg then -v else v, c3.2 || c2.2 || c1.2 || c0.2, false)

/-- What the current lane changes in a plane against the exact value: by logical unit the difference in the plane value, the
ambiguous pairs (whose value is withheld until the re-resolution), saturated reads, free bits used. -/
structure Reads where
  delta : Tab Int
  amb : List (Nat × Nat)
  sat : Nat
  drawn : Nat
deriving DecidableEq, Repr

/-- The reads of a blend plane. `errs` lists (unit, pair, analogue error); a read without a listed error is exact. A marked column
counts by its stored copy. -/
def blendReads (d : Dev) (m : Nat) (t : Tile) (b : Blk) (product : Nat) (pl : BitVec 32) (errs : List (Nat × Nat × Rat)) :
    Reads :=
  let k := (d.mac m).active
  let per := unitsPer k.packing
  let g : Rat := mkRat (t.guard : Int) 16
  let on (u : Nat) (c : Nat × Nat × Nat × Nat) : Bool := unitOn t k product b.vec (u * per + c.2.2.2)
  let touched := (((marksFor d m t.id).map (fun x => x.unit)) ++ errs.map (fun e => e.1)).eraseDups
  touched.foldl (fun r u => (((sensePairs k.packing).zipIdx).filter (fun c => on u c.1)).foldl (fun (r : Reads) c =>
    let ex := pairExact d m t.id u c.1 pl
    let bank : Int := (k.count u c.1.1 pl : Int) - k.count u c.1.2.1 pl
    let j := u * per + c.1.2.2.2
    let scale : Int := ((2 ^ c.1.2.2.1 : Nat) : Int)
    let err := (errs.find? (fun e => e.1 = u ∧ e.2.1 = c.2)).elim 0 (fun e => readError e.2.2)
    let rd := currentRead ((ex.2 : Rat) + err) g (d.free + r.drawn)
    if rd.2.1 then
      { delta := tmod 0 r.delta j (· - bank * scale), amb := r.amb ++ [(u, c.2)], sat := r.sat + (if rd.2.2 then 1 else 0),
        drawn := r.drawn + 4 }
    else
      { r with delta := tmod 0 r.delta j (· + (rd.1 + (ex.1 - ex.2) - bank) * scale), drawn := r.drawn + 4 }) r)
    { delta := [], amb := [], sat := 0, drawn := 0 }

/-- How a plane runs (Table 2.3). -/
inductive PlaneKind where
  | skip | blend | fallback | exact
deriving DecidableEq, Repr

def planeKind (d : Dev) (m : Nat) (t : Tile) (b : Blk) (n : Nat) : PlaneKind :=
  let blendMode := (t.inst.mode = 0 ∨ t.inst.mode = 2) ∧ b.pass = 0 ∧ exactFor d m t.id = false ∧ xoOutliers d m = false
  if n = 0 ∨ (t.inst.func = fMPRED ∧ b.plane < t.floor) then .skip
  else if blendMode then (if n ≤ 15 then .blend else .fallback)
  else .exact

def PlaneKind.steps : PlaneKind → Nat
  | .skip => 0
  | .blend => 1
  | _ => 2

/-- What one step draws at OP4 in pJ, with `masked` of the 1,024 physical units masked: 16 pJ, and `prop` pJ for the unmasked
fraction (Table 5.9). -/
def stepPj (prop masked : Nat) : Rat := 16 + mkRat ((prop * (1024 - masked) : Nat) : Int) 1024

/-- What a plane draws at OP4 in pJ (Tables 2.8 and 5.9). -/
def PlaneKind.pj (kind : PlaneKind) (p : Packing) (masked : Nat) : Rat :=
  match kind with
  | .skip => 0
  | .blend => stepPj (if p = .int4 then 53 else 56) masked
  | _ => 2 * stepPj 48 masked

/-- Add a plane to the sums of the block's pass: exact values, and what the current lane changed. -/
def addPlane (t : Tile) (k : Bank) (product : Nat) (b : Blk) (rows : List Nat) (delta : Tab Int) : Tab Int :=
  let per := unitsPer k.packing
  let js := ((listedUnits k).map (fun u => (List.range per).map (fun i => u * per + i))).flatten.filter (fun j =>
    unitOn t k product b.vec j)
  let s0 := b.sums.getD b.pass []
  let s1 := js.foldl (fun s j => tmod 0 s j (· + planeWeight b.plane * planeValue k rows j)) s0
  delta.foldl (fun s e => tmod 0 s e.1 (· + planeWeight b.plane * e.2)) s1

/-- Sums with pass `p` replaced. -/
def setPass (sums : List (Tab Int)) (p : Nat) (s : Tab Int) : List (Tab Int) :=
  (List.range (max sums.length (p + 1))).map (fun i => if i = p then s else sums.getD i [])

/-- Reads of the current lane in a blend plane: every unmasked unit reads its pairs. -/
def readsIn (t : Tile) (k : Bank) (product vec : Nat) : Nat :=
  (1024 - maskedUnits t k product vec) * (sensePairs k.packing).length

/-- The places of a plane's ambiguous reads among its reads, which count in order of unit and pair (DESIGN CHOICE,
notes/assumptions/126.md). -/
def readPlaces (t : Tile) (k : Bank) (product vec : Nat) (amb : List (Nat × Nat)) : List Nat :=
  let on (u : Nat) : Bool := (List.range (unitsPer k.packing)).any (fun i => unitOn t k product vec (u * unitsPer k.packing + i))
  amb.map (fun a => ((List.range a.1).filter on).length * (sensePairs k.packing).length + a.2)

/-- The windows of 65,536 reads of a macro after the reads of a step (R49): counts, and a request when the ambiguous reads of one window
exceed the limit. `amb` holds the places of the ambiguous reads among the step's reads: those before the window's end belong to it. -/
def readWindow (limit reads : Nat) (amb : List Nat) (x : Macro) : Macro :=
  let left := 65536 - x.recReads
  let a := x.recAmb + (amb.filter (· < left)).length
  let b := (amb.filter (left ≤ ·)).length
  let req := x.recReq || decide (a > limit) || decide (b > limit)
  if left ≤ reads then { x with recReads := reads - left, recAmb := b, recReq := req }
  else { x with recReads := x.recReads + reads, recAmb := a, recReq := req }

/-- The counts and the event of a step's ambiguous and saturated reads (R44, R45). -/
def countReads (m amb sat : Nat) (d : Dev) : Dev :=
  let ss := ssFacet (facetOfMacro m)
  let d1 := (d.count 0x2024 ss amb).count 0x2026 ss sat
  if sat = 0 then d1 else d1.postOnce limAdmitSat (wedgeOfMacro m) evMacroAdmitSat (hubOfMacro m) (macroTarget m) []

/-- The next plane of the block in a macro. -/
def macroPlaneStepOp (m : Nat) (errs : List (Nat × Nat × Rat)) (d : Dev) : Dev :=
  let x := d.mac m
  match x.blk with
  | none => d
  | some b =>
    match (d.tileOf b.tile).bind (fun t => (blkProduct t x.active b).map (fun p => (t, p))) with
    | some (t, product) =>
      let w := wedgeOfMacro m
      let k := x.active
      let pl := planeOf b.q b.plane
      let rows := rowsOn pl
      let kind := planeKind d m t b rows.length
      let n := kind.steps
      let e := macEnergy d (hubOfWedge w) t.inst.phase
      if b.plane ≥ 8 ∨ b.amb ≠ [] ∨ mayStep d (domWedge w) e n = false then d
      else
        let ss := ssFacet (facetOfWedge w)
        let last := lastPass d m b
        let put (b : Blk) (d : Dev) : Dev := d.modMac m (fun x => { x with blk := some (nextPass last 3 b) })
        let masked := maskedUnits t k product b.vec
        let d1 := (draw (domWedge w) (kind.pj k.packing masked) (debit (domWedge w) e n d)).count 0x206C ss (n * masked)
        match kind with
        | .skip => put { b with plane := b.plane + 1 } (d1.count 0x2022 ss 1)
        | .blend =>
          let r := blendReads d m t b product pl errs
          let d3 := countReads m r.amb.length r.sat (d1.count 0x2020 ss 1)
          let d4 := ({ d3 with free := d3.free + r.drawn }).modMac m
            (readWindow (d.num 0x2000 2 64) (readsIn t k product b.vec) (readPlaces t k product b.vec r.amb))
          put { b with plane := b.plane + 1, amb := r.amb,
                       sums := setPass b.sums b.pass (addPlane t k product b rows r.delta) } d4
        | _ =>
          let d2 := d1.count (if kind = .fallback then 0x2021 else 0x2028) ss 1
          put { b with plane := b.plane + 1, sums := setPass b.sums b.pass (addPlane t k product b rows []) } d2
    | none => d

/-- The extra exact step after a plane with ambiguous reads (R45): the exact values stand. -/
def reResolutionStepOp (m : Nat) (d : Dev) : Dev :=
  let x := d.mac m
  match x.blk with
  | none => d
  | some b =>
    match d.tileOf b.tile with
    | none => d
    | some t =>
      let w := wedgeOfMacro m
      let k := x.active
      let e := macEnergy d (hubOfWedge w) t.inst.phase
      if b.amb = [] ∨ mayStep d (domWedge w) e 1 = false then d
      else
        let p := b.plane - 1
        let pl := planeOf b.q p
        let per := unitsPer k.packing
        let s := b.amb.foldl (fun (s : Tab Int) a =>
          match (sensePairs k.packing)[a.2]? with
          | none => s
          | some c => tmod 0 s (a.1 * per + c.2.2.2) (· + planeWeight p * ((2 ^ c.2.2.1 : Nat) : Int) * (pairExact d m t.id a.1 c pl).1))
          (b.sums.getD b.pass [])
        let ss := ssFacet (facetOfWedge w)
        let masked := (blkProduct t k b).elim 0 (fun q => maskedUnits t k q b.vec)
        let d1 := ((draw (domWedge w) (stepPj 48 masked) (debit (domWedge w) e 1 d)).count 0x2025 ss 1).count 0x206C ss masked
        d1.modMac m (fun x => { x with blk := some (nextPass (lastPass d m b) 3
          { b with amb := [], sums := setPass b.sums b.pass s }) })

/-- The wedge's request for background calibration becomes due (R49). -/
def recalTriggerOp (m : Nat) (d : Dev) : Dev :=
  if (d.mac m).recReq then
    d.modMac m (fun x => { x with recReq := false, cal := { x.cal with req := true } })
  else d

/-! ### The output stage (R52, R81, R83) -/

/-- A weight scale times an integer under an exponent, rounded once. -/
def scaleOut (s : Int) (e : BitVec 8) (ws : BitVec 16) : W32 :=
  if e = 0xFF then 0x7FC00000
  else toF32 ((Fp.ofRat (scaled s ((e.toNat : Int) - 127))).mul (Fp.decode fmt16 ws.toNat))

/-- The weight of logical unit j in outlier copy c of a wedge. -/
def copyWeight (d : Dev) (w c : Nat) (p : Packing) (j : Nat) : Int :=
  match p with
  | .int4 => sext 4 (bitsOf (mget (d.wedge w).copies (c * 1024 + j / 2)).toNat (4 * (j % 2) + 3) (4 * (j % 2)))
  | _ => sext 8 (mget (d.wedge w).copies (c * 1024 + j)).toNat

/-- The integer outlier term of logical unit j: from the copies, or from the residue passes. -/
def outlierSum (d : Dev) (m : Nat) (b : Blk) (j : Nat) : Int :=
  let x := d.mac m
  let w := wedgeOfMacro m
  if xoOutliers d m then
    tget 0 (b.sums.getD 1 []) j + 128 * tget 0 (b.sums.getD 2 []) j + 16384 * tget 0 (b.sums.getD 3 []) j
  else
    (((d.wedge w).dir.filter (fun c => c.2.mac = m % 192 && c.2.bankB = x.actB)).map (fun c =>
      (b.outRows.find? (fun r => r.1 = c.2.row)).elim 0 (fun r => r.2 * copyWeight d w c.1 x.active.packing j))).sum

/-- The outlier terms of a macro's block can be formed and are not: at once from the copies, after the passes from the residues. -/
def termsDue (d : Dev) (m : Nat) : Bool :=
  (d.mac m).blk.any (fun b => !b.termsDone && !(xoOutliers d m && (decide (b.plane < 8) || decide (b.pass < 3) || b.amb != [])))

/-- The correction path forms the outlier terms of a block whose passes are done. -/
def outlierTermOp (m : Nat) (d : Dev) : Dev :=
  let x := d.mac m
  match x.blk with
  | none => d
  | some b =>
    match d.tileOf b.tile with
    | none => d
    | some t =>
      let k := x.active
      match blkProduct t k b with
      | none => d
      | some product =>
        if termsDue d m = false ∨ domRuns d (domWedge (wedgeOfMacro m)) = false then d
        else
          let js := (List.range k.valid).filter (fun j => unitOn t k product b.vec j)
          let ts := js.foldl (fun (s : Tab W32) j =>
            tset s j (scaleOut (outlierSum d m b j) b.outExp (tget 0 k.scales j))) []
          (d.modMac m (fun x => { x with blk := some { b with terms := ts, termsDone := true } })).count 0x2032
            (ssFacet (facetOfMacro m)) js.length

/-- Key of a partial: product, vector, column of the matrix, row-block. -/
def partKey (product vec col rb : Nat) : Nat := product * 2 ^ 72 + vec * 2 ^ 56 + col * 2 ^ 24 + rb

/-- A threshold-mode tile adds unit sums (R53). -/
def isThreshold (t : Tile) : Bool := t.inst.func = fMTHR || t.inst.func = fMPRED

/-- The partial of logical unit j: an FP32 value, or the INT32 sum in threshold mode. -/
def partialOf (t : Tile) (k : Bank) (b : Blk) (j : Nat) : W32 :=
  let s := tget 0 (b.sums.getD 0 []) j
  if isThreshold t then BitVec.ofInt 32 s
  else
    let p := scaleOut s b.exp (tget 0 k.scales j)
    if b.outRows = [] ∨ b.exp = 0xFF then p else f32add p (tget 0 b.terms j)

/-- The output stage of a macro forms the partials of a finished block and sends them to the final adder. It waits for the outlier
terms, and OD 0x2034 counts one wait for each block that waits (DEDUCED, notes/assumptions/127.md; R74). -/
def outputStagePartialOp (m : Nat) (d : Dev) : Dev :=
  let x := d.mac m
  match x.blk with
  | none => d
  | some b =>
    match d.tileOf b.tile with
    | none => d
    | some t =>
      let k := x.active
      match blkProduct t k b with
      | none => d
      | some product =>
        if b.plane < 8 ∨ b.amb ≠ [] ∨ b.pass < lastPass d m b ∨ domRuns d (domWedge (wedgeOfMacro m)) = false then d
        else if !b.termsDone then
          (if b.waited then d
           else (d.count 0x2034 (ssFacet (facetOfMacro m)) 1).modMac m (fun x => { x with blk := some { b with waited := true } }))
        else
          let u := unitsOf k.packing
          let js := (List.range k.valid).filter (fun j => unitOn t k product b.vec j)
          let ps := js.foldl (fun (s : Tab W32) j => tset s (partKey product b.vec (b.cb * u + j) b.rb) (partialOf t k b j)) t.parts
          (d.modTile t.id (fun y => { y with parts := ps, fed := y.fed ++ [(m, fedKey product b.vec)] })).modMac m
            (fun x => { x with blk := none })

end Sys2Proof.Machine
end

