-- ==== Sys2Proof/Machine/Adders.lean ====
section
/-!
DEFINITION. Final adders (R52, R53, R498): reductions in FP32 or INT32, thresholds and activity codes (R55 to R57, R131, R135),
row-wise functions of the wedge output stage (R174, R176, R177, R228, R229, R233), gated pairs and audits (R133, R136, R137).
-/
namespace Sys2Proof.Machine

open Sys2Proof

/-! ### Orders of reduction -/

def leavesOf : RedTree → List Nat
  | .leaf i => [i]
  | .node l r => leavesOf l ++ leavesOf r

/-- The FP32 sum in the order of a tree. -/
def treeSum (f : Nat → W32) : RedTree → W32
  | .leaf i => f i
  | .node l r => f32add (treeSum f l) (treeSum f r)

/-- A tree takes each of n partials once. -/
def treeOver (n : Nat) (o : RedTree) : Bool :=
  (leavesOf o).length = n && (List.range n).all (fun i => (leavesOf o).contains i)

/-! ### Row-wise functions (Table 6.5) -/

/-- GELU, SiLU or ReLU by row-function code (2, 3, 4, or 5, 6, 7 of a gated pair); `n` names the free offset. -/
def actFn (rowfn n : Nat) (x : W32) : W32 :=
  if rowfn = 2 ∨ rowfn = 5 then f32gelu n x
  else if rowfn = 3 ∨ rowfn = 6 then f32silu n x
  else if rowfn = 4 ∨ rowfn = 7 then f32relu x
  else f32canon x

/-- The rank of a magnitude: a NaN above every number (R177). -/
def magRank (x : W32) : Nat := if (f32 x).isNan then 0x7F800001 else x.toNat % 2 ^ 31

/-- The positions that top-2-in-4 keeps: the two greatest magnitudes, the lower position first among equals. -/
def topTwo (g : List W32) : List Nat :=
  let r (i : Nat) : Nat := magRank (nth 0 g i)
  let best (skip : Option Nat) : Nat :=
    ((List.range 4).filter (fun i => some i ≠ skip)).foldl (fun (b : Option Nat) i =>
      match b with
      | none => some i
      | some j => if r i > r j then some i else some j) none |>.getD 0
  let a := best none
  [a, best (some a)]

/-- A group of four with zeros in the dropped places. -/
def keepTwo (g : List W32) : List W32 :=
  (List.range 4).map (fun i => if (topTwo g).contains i then f32canon (nth 0 g i) else 0)

/-- Top-2-in-4 over values by column; a column without a value counts as zero. -/
def topRows (vals : Tab W32) : Tab W32 :=
  vals.map (fun e => (e.1, nth 0 (keepTwo ((List.range 4).map (fun i => tget 0 vals (e.1 / 4 * 4 + i)))) (e.1 % 4)))

/-- Apply a row-wise function to values by column; answers the values and how many free offsets it used. -/
def rowValues (rowfn n : Nat) (vals : Tab W32) : Tab W32 :=
  if rowfn = 10 then topRows vals else (vals.zipIdx).map (fun e => (e.1.1, actFn rowfn (n + e.2) e.1.2))

/-! ### Outputs -/

/-- Key of an FP32 output: part (0 output, 1 intermediate, 2 gate, 3 up), vector, column. -/
def outKey (part vec col : Nat) : Nat := part * 2 ^ 56 + vec * 2 ^ 40 + col

def putOuts (part vec : Nat) (vals : Tab W32) (t : Tab W32) : Tab W32 :=
  vals.foldl (fun t e => tset t (outKey part vec e.1) e.2) t

/-- An FP32 value in the format of a descriptor (R500). -/
def convertOut (fmt : Nat) (x : W32) : Nat :=
  if fmt = 7 then x.toNat else if isFloatFmt fmt then Fp.encode (elemFmt fmt) (f32 x) else x.toNat

/-- A result for operand `o` of a tile at tile coordinates 0 and 1. -/
def resultRow (t : Tile) (o : Nat) (c0 : Nat) (c1 : Int) (bits : Nat) : PendWrite :=
  { desc := t.handle o, coord := [(c0 : Int), c1] ++ t.origins o, bits := BitVec.ofNat 64 bits }
def resultAt (t : Tile) (o : Nat) (c0 c1 : Nat) (bits : Nat) : PendWrite := resultRow t o c0 c1 bits

/-- 32-bit words of fields of `w` bits by column, for the columns below the bound. -/
def packWords (w : Nat) (vals : Tab Nat) : Tab Nat :=
  vals.foldl (fun t e => tmod 0 t (e.1 / (32 / w)) (· + e.2 * 2 ^ (w * (e.1 % (32 / w))))) ([] : Tab Nat)

/-- The words that a list of columns touches, in order, with the zero ones. -/
def wordsOf (w : Nat) (cols : List Nat) : List Nat := ((cols.map (fun c => c / (32 / w))).eraseDups)

/-- Fields of `w` bits by column, written as elements of a bit tensor or as 32-bit words (R57, R176). -/
def fieldResults (t : Tile) (fmt w vec : Nat) (cols : List Nat) (vals : Tab Nat) : List PendWrite :=
  let c1 := t.vecAt vec
  if fmt = 0xD then
    (cols.map (fun c => (List.range w).map (fun i => resultAt t 4 (w * c + i) c1 (tget 0 vals c / 2 ^ i % 2)))).flatten
  else
    let ws := packWords w vals
    (wordsOf w cols).map (fun k => resultAt t 4 k c1 (tget 0 ws k))

/-- INT8 elements 0 and 1 by column as MXINT8 blocks under the exponent that the tile names (R176). The outlier channels of the matrix that
the output feeds are zero in their blocks, and go to the outlier tensors under that exponent (R499; DEDUCED, notes/assumptions/157.md). -/
def signBlocks (d : Dev) (t : Tile) (c1 : Nat) (bits : Tab Nat) : List PendWrite :=
  let list := if t.prm.omat = 0 then [] else (d.matOf t.prm.omat).elim [] (fun m => m.outliers)
  let blocks := (bits.map (fun e => e.1 / 32)).eraseDups
  let outs := list.zipIdx.filterMap (fun o => (tfind bits o.1).map (fun b => resultAt t 11 o.2 c1 b))
  let exps : List PendWrite := if list ≠ [] ∧ blocks.contains 0 = true then
      [{ desc := t.handle 12, coord := (c1 : Int) :: t.origins 12, bits := BitVec.ofNat 64 t.prm.texp }] else []
  bits.map (fun e => resultAt t 4 e.1 c1 (if list.contains e.1 then 0 else e.2)) ++
    blocks.map (fun k => resultAt t 5 k c1 t.prm.texp) ++ outs ++ exps

/-- The results of a vector's outputs that are not quantised by a tracker: floats, bits, or INT8 0 and 1 under texp (R176). -/
def plainResults (d : Dev) (t : Tile) (vec : Nat) (vals : Tab W32) : List PendWrite :=
  let fmt := (descIn (tileDescs d t) (t.inst.opnd 4)).elim 7 (fun x => x.fmt)
  let c1 := t.vecAt vec
  if t.inst.rowfn = 9 then
    let bit (x : W32) : Nat := if signBitOf x t.prm.f0 then 1 else 0
    if t.inst.opnd 5 ≠ 0 then signBlocks d t c1 (vals.map (fun e => (e.1, bit e.2)))
    else fieldResults t fmt 1 vec (vals.map Prod.fst) (vals.map (fun e => (e.1, bit e.2)))
  else vals.map (fun e => resultAt t 4 e.1 c1 (convertOut fmt e.2))

/-- One step fewer before the results are formed. A tile that ran strict and met SCALE_MISS fails once its last step is done, when
every forming side has written its entries (R103). -/
def itemDone (tile : Nat) (d : Dev) : Dev :=
  match d.tileOf tile with
  | none => d
  | some t =>
    if t.items ≤ 1 ∧ t.strictMiss = true then failTile t stScaleMiss d
    else d.modTile tile (fun t => { t with items := t.items - 1, stage := if t.items ≤ 1 then .formed else t.stage })

/-- Outputs of a vector below the bound become results or wait for the forming side; what lies beyond it is discarded (R206) and counted
as the tile commits. -/
def putOutputs (t : Tile) (vec : Nat) (vals : Tab W32) (d : Dev) : Dev :=
  let kept := vals.filter (fun e => decide (e.1 < t.b1))
  if formsOut t then d.modTile t.id (fun x => { x with outs := putOuts 0 vec kept x.outs })
  else
    let rs := plainResults d t vec kept
    d.modTile t.id (fun x => { x with results := x.results ++ rs })

/-! ### Thresholds and the predictor -/

/-- Total of a column in INT32. -/
def intTotal (t : Tile) (product vec col n : Nat) : Int :=
  ((List.range n).map (fun rb => (tget 0 t.parts (partKey product vec col rb)).toInt)).sum

/-- Lower and upper threshold of a column (R55), for the pair form; those of a predictor tile were formed at its issue (R131). -/
def thresholds (d : Dev) (t : Tile) (col : Nat) : Int × Int :=
  let a := 16 * t.prm.tadr + 8 * col
  if t.inst.func = fMPRED then tget (0, 0) t.thr col
  else (sext 32 (d.sreadNat t.issuer a 4), sext 32 (d.sreadNat t.issuer (a + 4) 4))

/-- The pair-form code (R56). -/
def pairCode (x lo hi : Int) : Nat := if x ≥ hi then 3 else if x < lo then 0 else 1

def pairForm (t : Tile) : Bool := t.inst.func = fMPRED || t.prm.tform

/-- The result field of a column of a threshold tile. -/
def thresholdField (d : Dev) (t : Tile) (col : Nat) (x : Int) : Nat :=
  if pairForm t then
    let b := thresholds d t col
    pairCode x b.1 b.2
  else if x ≥ sext 32 (d.sreadNat t.issuer (16 * t.prm.tadr + 4 * col) 4) then 1 else 0

/-- The draws of a predictor issue over its inactive neurons, in column order (R135): the LFSR after them and the neurons drawn. -/
def drawAudits (lfsr : BitVec 32) (a : Nat) (cols : List Nat) : BitVec 32 × List Nat :=
  cols.foldl (fun (r : BitVec 32 × List Nat) c =>
    let n := Config.lfsrNext r.1
    (n, if Config.lfsrDraws n a then r.2 ++ [c] else r.2)) (lfsr, [])

/-- The counts of an MPRED column block and vector enter its issue, and the wedge draws its audits. -/
def predictorCounts (t : Tile) (w vec : Nat) (codes : Tab Nat) (d : Dev) : Dev :=
  let n (k : Nat) : Nat := (codes.filter (fun e => e.2 = k)).length
  let quiet := (codes.filter (fun e => e.2 = 0)).map Prod.fst
  let a := (d.issues.find? (fun i => i.id = t.id)).elim 6 (fun i => i.arate)
  let r := drawAudits (d.wedge w).lfsr a quiet
  let drawn := r.2.map (fun c => t.neuronKey (vec * 2 ^ 32 + c))
  let upd (i : PredIssue) : PredIssue :=
    if i.id = t.id then { i with nact := i.nact + n 3, namb := i.namb + n 1, ninact := i.ninact + n 0, drawn := i.drawn ++ drawn }
    else i
  let d1 := { d with issues := d.issues.map upd }
  (d1.modWedge w (fun x => { x with lfsr := r.1 })).count 0x2068 (ssFacet (facetOfWedge w)) (n 0)

/-- The results of a threshold reduction. -/
def thresholdReduce (t : Tile) (w vec product n : Nat) (cols : List Nat) (d : Dev) : Dev :=
  let kept := cols.filter (fun c => decide (c < t.b1))
  let vals : Tab Nat := kept.map (fun c => (c, thresholdField d t c (intTotal t product vec c n)))
  let fmt := (descIn (tileDescs d t) (t.inst.opnd 4)).elim 3 (fun x => x.fmt)
  let rs := fieldResults t fmt (if pairForm t then 2 else 1) vec kept vals
  let d2 := d.modTile t.id (fun x => { x with results := x.results ++ rs })
  if t.inst.func = fMPRED then predictorCounts t w vec vals d2 else d2

/-! ### Gated pairs and audits -/

/-- Code of a neuron whose audit is over with its output forced to zero: it is computed and not masked. -/
def codeQuiet : Nat := 4

/-- An issue's record of one neuron. -/
def modNeuron (t : Tile) (k : Nat) (f : PredIssue → PredIssue) (d : Dev) : Dev :=
  match (issuesFor d t).find? (fun i => i.drawn.contains (t.neuronKey k)) with
  | none => d
  | some i =>
    let upd (x : PredIssue) : PredIssue :=
      if x.id = i.id then f { x with drawn := x.drawn.filter (· ≠ t.neuronKey k) } else x
    settleIssue i.id { d with issues := d.issues.map upd }

/-- An audit is over: the neuron leaves the tile's open audits with its new code. -/
def closeAudit (t : Tile) (k code : Nat) (d : Dev) : Dev :=
  d.modTile t.id (fun x => { x with drawn := x.drawn.filter (· ≠ k), codes := tput 3 x.codes k code })

/-- The audits of a column block and vector that are still open are abandoned (R137). -/
def abandonAudits (t : Tile) (w vec : Nat) (cols : List Nat) (d : Dev) : Dev :=
  ((cols.map (fun c => vec * 2 ^ 32 + c)).filter (fun k => t.drawn.contains k)).foldl (fun d k =>
    (modNeuron t k (fun i => { i with nunsv := i.nunsv + 1 }) (closeAudit t k codeQuiet d)).count 0x206B
      (ssFacet (facetOfWedge w)) 1) d

/-- The gated pair of a column: zero for a skipped neuron, else act (g) × u rounded once. -/
def gatedPair (t : Tile) (n vec col : Nat) : W32 :=
  let code := if t.prm.hV = 0 then 3 else tget 3 t.codes (vec * 2 ^ 32 + col)
  if code = 0 ∨ code = codeQuiet then 0
  else f32mul (actFn t.inst.rowfn n (tget 0 t.outs (outKey 2 vec col))) (tget 0 t.outs (outKey 3 vec col))

/-- Both products of a gated pair have reached the output stage. -/
def formPair (tile w vec : Nat) (cols : List Nat) (d : Dev) : Dev :=
  match d.tileOf tile with
  | none => d
  | some t0 =>
    let d1 := abandonAudits t0 w vec cols d
    match d1.tileOf tile with
    | none => d1
    | some t =>
      let vals : Tab W32 := (cols.zipIdx).map (fun e => (e.1, gatedPair t (d1.free + e.2) vec e.1))
      ({ d1 with free := d1.free + cols.length }).modTile tile (fun x =>
        { x with outs := putOuts 1 vec vals (tdrop (fun k => cols.any (fun c => k = outKey 2 vec c || k = outKey 3 vec c)) x.outs) })

/-! ### FINAL_ADDER_REDUCE -/

/-- The FP32 sums of a column block; a masked column forms nothing. -/
def floatSums (t : Tile) (product vec : Nat) (cols : List Nat) (order : RedTree) : Tab W32 :=
  (cols.filter (fun c => !maskedAt t product vec c)).map (fun c =>
    (c, treeSum (fun rb => tget 0 t.parts (partKey product vec c rb)) order))

/-- What the output stage of the final adder does with the reduced values of a product. -/
def reduced (t : Tile) (w product vec : Nat) (cols : List Nat) (order : RedTree) (n : Nat) (d : Dev) : Dev :=
  if isThreshold t then thresholdReduce t w vec product n cols d
  else
    let vals := floatSums t product vec cols order
    let act := { d with free := d.free + vals.length }
    if t.inst.func = fMFUSE then
      match product, decide (t.inst.fuse = 2) with
      | 2, _ => putOutputs t vec vals d
      | 0, true => d.modTile t.id (fun x => { x with outs := putOuts 2 vec vals x.outs })
      | _, true => formPair t.id w vec cols (d.modTile t.id (fun x => { x with outs := putOuts 3 vec vals x.outs }))
      | _, false =>
        act.modTile t.id (fun x => { x with outs := putOuts 1 vec (rowValues t.inst.rowfn d.free vals) x.outs })
    else putOutputs t vec (rowValues t.inst.rowfn d.free vals) act

/-- One column block and vector of a product has every partial: the final adder reduces it. The up product of a gated pair is taken
after the gate (DESIGN CHOICE, notes/assumptions/35.md). -/
def finalAdderReduceOp (tile colBlock vec : Nat) (order : RedTree) (d : Dev) : Dev :=
  let product := colBlock / 2 ^ 32
  let cb := colBlock % 2 ^ 32
  match d.tileOf tile with
  | none => d
  | some t =>
    match d.matOf (matOfProduct t product) with
    | none => d
    | some m =>
      let n := m.rowBlocks
      let w := wedgeOfMacro (m.placed 0 cb)
      let here := if t.inst.func = fMFUSE then decide (cb < m.colBlocks) else product = 0 && cb = t.gj
      if t.stage ≠ .issued ∨ isMacroFn t.inst.func = false ∨ serves t m.id product = false ∨ here = false ∨
          t.reduced.contains (colBlock, vec) = true ∨
          (List.range n).any (fun rb => !t.fed.contains (m.placed rb cb, fedKey product vec)) = true ∨ treeOver n order = false ∨
          (product = 1 ∧ t.reduced.contains (cb, vec) = false) ∨ domRuns d (domWedge w) = false then d
      else
        let cols := blockCols m cb
        let d1 := reduced t w product vec cols order n d
        let gone (k : Nat) : Bool := k / 2 ^ 56 = product * 2 ^ 16 + vec && cols.contains (k / 2 ^ 24 % 2 ^ 32)
        itemDone tile (d1.modTile tile (fun x =>
          { x with parts := tdrop gone x.parts, reduced := x.reduced ++ [(colBlock, vec)] }))

/-- The correction path serves the audit of a drawn neuron whose gate value is formed (R136), once its wedge has no outlier terms to
form (R74). -/
def auditServeOp (tile neuron : Nat) (d : Dev) : Dev :=
  match d.tileOf tile with
  | none => d
  | some t =>
    match tfind t.outs (outKey 2 (neuron / 2 ^ 32) (neuron % 2 ^ 32)), d.matOf (t.inst.opnd 2) with
    | some g, some m =>
      let w := wedgeOfMacro (m.placed 0 (neuron % 2 ^ 32 / unitsOf m.packing))
      if t.drawn.contains neuron = false ∨ domRuns d (domWedge w) = false ∨
          d.macros.any (fun e => e.1 / 192 = w && termsDue d e.1) = true then d
      else
        let tau := ((issuesFor d t).find? (fun i => i.drawn.contains (t.neuronKey neuron))).elim
          (BitVec.ofNat 32 (d.num 0x2063 t.inst.phase 0)) (fun i => i.tau)
        let miss := !(f32 g).isNan && !(f32 tau).isNan && !(f32 g).lt (f32 tau)
        let ss := ssFacet (facetOfWedge w)
        let d1 := (closeAudit t neuron (if miss then 3 else codeQuiet) d).count 0x2069 ss 1
        let d2 := if miss then d1.count 0x206A ss 1 else d1
        modNeuron t neuron (fun i => { i with naud := i.naud + 1, nmiss := i.nmiss + if miss then 1 else 0 }) d2
    | _, _ => d

/-! ### Meanings -/

def execBlockPairing (at_ : PairIn) (tile : Nat) (blk : Option BlockAt) (s : State) : Host.Outcome State Fault Refusal :=
  .next (s.on (blockPairingOp s.variant at_ tile blk s.dev))

def execScaleEntryArrival (at_ : PairIn) (tile : Nat) (entry : Option BlockAt) (s : State) :
    Host.Outcome State Fault Refusal :=
  .next (s.on (scaleEntryArrivalOp s.variant at_ tile entry s.dev))

def execBlockAdmit (mac tile vec outlierVec : Nat) (s : State) : Host.Outcome State Fault Refusal :=
  .next (s.on (blockAdmitOp s.variant mac tile vec outlierVec s.dev))

def execMacroPlaneStep (mac : Nat) (errs : List (Nat × Nat × Rat)) (s : State) : Host.Outcome State Fault Refusal :=
  .next (s.on (macroPlaneStepOp mac errs s.dev))

def execReResolutionStep (mac : Nat) (s : State) : Host.Outcome State Fault Refusal :=
  .next (s.on (reResolutionStepOp mac s.dev))

def execRecalTrigger (mac : Nat) (s : State) : Host.Outcome State Fault Refusal :=
  .next (s.on (recalTriggerOp mac s.dev))

def execOutlierTerm (mac : Nat) (s : State) : Host.Outcome State Fault Refusal :=
  .next (s.on (outlierTermOp mac s.dev))

def execOutputStagePartial (mac : Nat) (s : State) : Host.Outcome State Fault Refusal :=
  .next (s.on (outputStagePartialOp mac s.dev))

def execFinalAdderReduce (tile colBlock vec : Nat) (order : RedTree) (s : State) : Host.Outcome State Fault Refusal :=
  .next (s.on (finalAdderReduceOp tile colBlock vec order s.dev))

def execAuditServe (tile neuron : Nat) (s : State) : Host.Outcome State Fault Refusal :=
  .next (s.on (auditServeOp tile neuron s.dev))

end Sys2Proof.Machine
end

