-- ==== Sys2Proof/Machine/CheckEngines.lean ====
section
/-!
DEFINITION. The check engines (R377, R451 to R455): configuration, the running value, and the feeding of snooped frames.
-/
namespace Sys2Proof.Machine

open Sys2Proof

/-- The configuration that CHECK ENGINE CONFIG carries (Tables 13.8 and 16.5). -/
def ceCfgOf (c : Cmd) : CeCfg :=
  { kind := bitsOf (c.P 1) 3 0, index := bitsOf (c.P 1) 9 4, page := bitsOf (c.P 1) 12 10, enable := (c.P 1).testBit 16,
    poly := BitVec.ofNat 64 (c.P 2), init := BitVec.ofNat 64 (c.P 3 % 2 ^ bitsOf (c.P 5) 6 0), xorout := BitVec.ofNat 64 (c.P 4),
    width := bitsOf (c.P 5) 6 0, refin := (c.P 5).testBit 7, refout := (c.P 5).testBit 8 }

/-- A configuration takes effect: the running value starts at its initial value when the engine is enabled (R452). -/
def CheckEngine.take (x : CheckEngine) (c : CeCfg) : CheckEngine :=
  { x with cfg := c, next := none, run := if c.enable then c.init else x.run, atFrame := if c.enable then c.init else x.atFrame,
           lastSeq := none, page := none, fed := 0, field := [], whole := false }

/-- A page is open: left now, it has been covered in part (R453). -/
def CheckEngine.openPage (x : CheckEngine) : Bool := x.cfg.page != 0 && x.page.isSome

/-- Count pages covered in part in OD 0x5114 (Table 16.6a packs them above the pages checked). -/
def countPartial (n : Nat) (some_ : Bool) (d : Dev) : Dev := if some_ then d.count 0x5114 (n + 1) (2 ^ 48) else d

/-- The engine snoops a stream. -/
def CheckEngine.snoops (x : CheckEngine) : Bool := x.cfg.enable && x.cfg.kind ≠ 0

/-- The started CHECK ENGINE CONFIG of one operation, with its engine. -/
def ceCommand (cmd op : Nat) (d : Dev) : Option (Cmd × Nat) :=
  match d.starting cmd 0x30 with
  | none => none
  | some c => if bitsOf (c.P 0) 9 8 = op then some (c, bitsOf (c.P 0) 5 0) else none

/-- CE_CONFIG_WRITE: while the engine snoops a stream, the configuration waits for that stream's next frame boundary. -/
def ceConfigOp (cmd : Nat) (d : Dev) : Dev :=
  match ceCommand cmd 0 d with
  | none => d
  | some (c, n) =>
    let x := d.ce n
    (if x.snoops then d.setCe n { x with next := some (ceCfgOf c) }
     else countPartial n x.openPage (d.setCe n (x.take (ceCfgOf c)))).succeeds cmd 0

def execCeConfigWrite (cmd : Nat) (s : State) : Host.Outcome State Fault Refusal := .next (s.on (ceConfigOp cmd s.dev))

/-- CE_READ_RUNNING. -/
def ceReadOp (cmd : Nat) (d : Dev) : Dev :=
  match ceCommand cmd 1 d with
  | none => d
  | some (_, n) => d.succeeds cmd (d.ce n).atFrame.toNat

def execCeReadRunning (cmd : Nat) (s : State) : Host.Outcome State Fault Refusal := .next (s.on (ceReadOp cmd s.dev))

/-- CE_WRITE_RUNNING: the value is set at the next frame boundary. -/
def ceWriteOp (cmd : Nat) (d : Dev) : Dev :=
  match ceCommand cmd 2 d with
  | none => d
  | some (c, n) => (d.setCe n { (d.ce n) with setNext := some (BitVec.ofNat 64 (c.P 6)) }).succeeds cmd 0

def execCeWriteRunning (cmd : Nat) (s : State) : Host.Outcome State Fault Refusal := .next (s.on (ceWriteOp cmd s.dev))

/-! ### Feeding (R452 to R454) -/

/-- A frame boundary: a waiting configuration takes effect, then a value that is to be set. -/
def CheckEngine.boundary (x : CheckEngine) : CheckEngine :=
  let y := match x.next with
    | some c => x.take c
    | none => x
  match y.setNext with
  | some r => { y with run := BitVec.ofNat 64 (r.toNat % 2 ^ y.cfg.width), atFrame := BitVec.ofNat 64 (r.toNat % 2 ^ y.cfg.width), setNext := none }
  | none => y

/-- The engine snoops the stream that a frame belongs to. Transfers name their engine themselves (R371). -/
def CheckEngine.sees (x : CheckEngine) (kind index : Nat) : Bool := x.snoops && x.cfg.kind = kind && (kind = 1 || x.cfg.index = index)

/-- The running transfer that a DMA frame belongs to, among those that name the engine (R371, Table 13.13): job * 512 + place + 1. -/
def ceTransfer (d : Dev) (n loc offset len : Nat) : Option Nat :=
  d.jobs.findSome? (fun j => ((j.xfers.zipIdx).find? (fun e =>
    e.1.chk && e.1.cen = n && e.1.alloc = loc && decide (e.1.doff ≤ offset) && decide (offset + len ≤ e.1.doff + e.1.len) &&
      (if e.1.out then j.stage = .running || j.stage = .ended else j.stage = .copyIn))).map (fun e => 512 * j.id + e.2 + 1))

/-- How a sequence follows the last one fed: in order, a repeat, or a gap. The frames of a transfer count from 0 (`fresh` at its first
frame here), and the Narsy sequence wraps at 4,096 (DEDUCED, notes/assumptions/47.md). -/
inductive SeqKind where
  | inOrder | again | gap
deriving DecidableEq, Repr

def seqKind (kind : Nat) (fresh : Bool) (last : Option Nat) (seq : Nat) : SeqKind :=
  match last with
  | none => .inOrder
  | some l =>
    if fresh then (if seq = 0 then .inOrder else .gap)
    else if seq = l then .again
    else if seq = (if kind = 2 ∨ kind = 3 then (l + 1) % 4096 else l + 1) then .inOrder
    else .gap

/-- Bytes of a page. -/
def CeCfg.pageBytes (c : CeCfg) : Nat := 2048 * 2 ^ c.page

/-- What the feeding of bytes brings about outside the engine: pages checked, pages partial, mismatches (page offset, computed, stored). -/
structure CeFound where
  checked : Nat
  partials : Nat
  bad : List (Nat × Nat × Nat)
deriving DecidableEq, Repr

/-- A new page begins; one left unfinished was covered in part. -/
def ceEnterPage (loc p : Nat) (first : Bool) (r : CheckEngine × CeFound) : CheckEngine × CeFound :=
  let f := match r.1.page with
    | some _ => { r.2 with partials := r.2.partials + 1 }
    | none => r.2
  ({ r.1 with run := r.1.cfg.init, page := some p, pageLoc := loc, fed := 0, field := [], whole := first }, f)

/-- A page whose last byte has been fed: checked, or covered in part. -/
def ceEndPage (r : CheckEngine × CeFound) : CheckEngine × CeFound :=
  let x := r.1
  let c := x.cfg
  let out := crcOut c.width c.xorout.toNat c.refout x.run.toNat
  let stored := leNat x.field
  let f := if !x.whole then { r.2 with partials := r.2.partials + 1 }
    else { r.2 with checked := r.2.checked + 1,
                    bad := if out = stored then r.2.bad else r.2.bad ++ [(x.page.getD 0 * c.pageBytes, out, stored)] }
  ({ x with page := none, fed := 0, field := [], whole := false }, f)

/-- Feed the byte at an offset of the allocation or export `loc`, in page mode. -/
def cePageByte (csOff loc : Nat) (r : CheckEngine × CeFound) (e : Nat × Byte) : CheckEngine × CeFound :=
  let size := r.1.cfg.pageBytes
  let p := e.1 / size
  let o := e.1 % size
  let r1 := if r.1.page = some p ∧ r.1.pageLoc = loc then r else ceEnterPage loc p (o = 0) r
  let x := r1.1
  let c := x.cfg
  let inField := decide (csOff ≤ o) && decide (o < csOff + c.width / 8)
  let run := crcByte c.width c.poly.toNat c.refin x.run.toNat (if inField then 0 else e.2)
  let y := { x with run := BitVec.ofNat 64 run, fed := o + 1, field := if inField then x.field ++ [e.2] else x.field,
                    whole := x.whole && o = x.fed }
  if o + 1 = size then ceEndPage (y, r1.2) else (y, r1.2)

/-- Feed one frame's payload. -/
def ceFeed (csOff loc offset : Nat) (bs : Bytes) (x : CheckEngine) : CheckEngine × CeFound :=
  let none0 : CeFound := { checked := 0, partials := 0, bad := [] }
  if x.cfg.page = 0 then
    ({ x with run := BitVec.ofNat 64 (crcFeed x.cfg.width x.cfg.poly.toNat x.cfg.refin x.run.toNat bs) }, none0)
  else (bs.zipIdx).foldl (fun (r : CheckEngine × CeFound) (e : Byte × Nat) => cePageByte csOff loc r (offset + e.2, e.1)) (x, none0)

/-- OD 0x5110.ee and CE_MISMATCH (R453). -/
def ceMismatch (n loc : Nat) (e : Nat × Nat × Nat) (d : Dev) : Dev :=
  let d1 := { d with vals := tset d.vals (odKey 0x5110 (n + 1)) (toLe 8 loc ++ toLe 8 e.1 ++ toLe 8 e.2.1 ++ toLe 8 e.2.2) }
  (d1.count 0x5111 (n + 1) 1).postOnce limCeMismatch n evCeMismatch (n / 16) (codeOf (.ce n)) []

/-- The counts and events of a fed frame. -/
def ceReport (n loc : Nat) (f : CeFound) (d : Dev) : Dev :=
  let k := f.checked + f.partials * 2 ^ 48
  let d1 := if k = 0 then d else d.count 0x5114 (n + 1) k
  f.bad.foldl (fun (d : Dev) e => ceMismatch n loc e d) d1

/-- CE_FRAME_FEED: a frame of a stream that the engine snoops; a DMA frame belongs to a running transfer that names the engine. A frame out of sequence is not fed; the engine goes on from its sequence, and the current page is left unchecked. -/
def ceFrameOp (v : Variant) (n kind index seq loc offset : Nat) (bs : Bytes) (d : Dev) : Dev :=
  let x0 := d.ce n
  let from_ := if kind = 1 then ceTransfer d n loc offset bs.length else some 0
  if !targetPresent v (.ce n) || targetOffline d (.ce n) || !x0.sees kind index || from_.isNone then d
  else
    let x := x0.boundary
    let d := countPartial n (x0.next.isSome && x0.openPage) d
    if !x.sees kind index then d.setCe n x
    else
      let x1 := { x with lastSeq := some seq, xfer := from_.getD 0 }
      match seqKind kind (kind = 1 && some x.xfer != from_) x.lastSeq seq with
      | .again => ((d.setCe n x).count 0x5112 (n + 1) 1).postOnce limCeRepeat n evCeRepeat (n / 16) (codeOf (.ce n)) []
      | .gap => ((d.setCe n { x1 with whole := false }).count 0x5113 (n + 1) 1).postOnce limCeGap n evCeGap (n / 16) (codeOf (.ce n)) []
      | .inOrder =>
        let r := ceFeed (d.num 0x5101 (n + 1) 0) loc offset bs x1
        ceReport n loc r.2 (d.setCe n { r.1 with atFrame := r.1.run })

def execCeFrameFeed (engine kind index seq loc offset : Nat) (bytes : Bytes) (s : State) : Host.Outcome State Fault Refusal :=
  .next (s.on (ceFrameOp s.variant engine kind index seq loc offset bytes s.dev))

end Sys2Proof.Machine
end

