-- ==== Sys2Proof/Machine/Governor.lean ====
section
/-!
DEFINITION. The arbiter and the region governors (R413 to R428): budgets, admission, operating points, learned energy, hints and ballast,
droop, thermal control and metering. Elapsed times, measured powers, activities and temperatures are operands.
-/
namespace Sys2Proof.Machine

open Sys2Proof

/-! ### Domains as units -/

/-- The unit that names a domain: Table 15.4 names the control domain by class 8 and the memory interface by class 9. -/
def domTarget (k : Nat) : Target :=
  if k < 612 then (if k % 17 < 16 then .wedge (k / 17) (k % 17) else .facet (k / 17))
  else
    let h := (k - 612) / 17
    let i := (k - 612) % 17
    if i < 8 then .engine h i
    else if i < 12 then .slice h (i - 8)
    else if i = 12 then .port h
    else if i < 15 then .group h (i - 13)
    else if i = 15 then .core h 0
    else .stack h 0

/-- The subindex ss under which a domain is counted (R434). -/
def domSs (k : Nat) : Nat := if k < 612 then ssFacet (k / 17) else ssHub ((k - 612) / 17)

/-- A switched domain of the variant. -/
def domSwitched (v : Variant) (k : Nat) : Bool := decide (k < 680) && domPresent v k

/-- The region governor of a hub runs: the hub is in service and its control domain in Run. -/
def governs (v : Variant) (d : Dev) (h : Nat) : Bool :=
  hubPresent v h && !targetHeld d (.hub h) && domRuns d (domControl h)

/-- A domain's point under its thermal ceiling (R414, R426). -/
def underCeiling (x : Dom) (g : Nat) : Nat := min g x.ceiling

/-- Start a supply's move to another point; none when it is there (R414). -/
def moveSupply (k g : Nat) (d : Dev) : Dev := d.modDom k (fun x => { x with opNext := if x.op = g then none else some g })

/-! ### Demand (R418) -/

/-- F of a region in W (Table 15.2). -/
def fullW (v : Variant) : Rat := (fullScale v : Rat) / 2

/-- The demand in W of a consumer at a point: G steps per second times pJ is mW. -/
def demandAt (d : Dev) (a : Activity) (g : Nat) : Rat :=
  let hub := domRegion a.domain
  (a.active : Rat) * (if a.lane then laneRate g * laneEnergy d hub a.phase else macroRate g * macEnergy d hub a.phase) * opFactor g / 1000

/-- OD 0x4100.pp and OD 0x4101.pp. -/
def prefPoint (d : Dev) (p : Nat) : Nat := d.num 0x4100 p 4
def floorPoint (d : Dev) (p : Nat) : Nat := d.num 0x4101 p 0

/-- The activities of a region's governed domains. -/
def actsOf (v : Variant) (hub : Nat) (acts : List Activity) : List Activity :=
  acts.filter (fun a => domGoverned a.domain && domPresent v a.domain && domRegion a.domain = hub)

/-- A region's demand at the points that its phases prefer (R416). -/
def demandOf (v : Variant) (d : Dev) (hub : Nat) (acts : List Activity) : Rat :=
  ((actsOf v hub acts).map (fun a => demandAt d a (prefPoint d a.phase))).sum

/-! ### The arbiter (R416) -/

/-- The governed pool. -/
def poolOf (v : Variant) (d : Dev) (inputW governedW : Rat) : Rat :=
  (powerLimit v : Rat) * (1 - (d.num 0x4001 1 16 : Rat) / 1024) - (inputW - governedW)

/-- The budgets, by region in order of `demands`: first the lesser of demand and F, scaled when the pool is short; else the remainder to
unmet demand, no region above 2 F. -/
def shareOut (F pool : Rat) (demands : List Rat) : List Rat :=
  let firsts := demands.map (fun x => min x F)
  let total : Rat := firsts.sum
  if pool < total then firsts.map (fun x => x * max 0 pool / total)
  else
    let unmet : Rat := (demands.map (fun x => x - min x F)).sum
    demands.map (fun x =>
      if unmet = 0 then min x F else min (2 * F) (min x F + (pool - total) * (x - min x F) / unmet))

/-- The part of a domain's measured energy that a share of its steps takes, in proportion to their learned energy (R428). -/
def shareUj (d : Dev) (domUj : List (Nat × Rat)) (shares : List EnergyShare) (s : EnergyShare) : Rat :=
  let w (x : EnergyShare) : Rat :=
    (x.steps : Rat) * (if x.lane then laneEnergy d (domRegion x.domain) x.phase else macEnergy d (domRegion x.domain) x.phase)
  let all : Rat := ((shares.filter (fun x => x.domain = s.domain)).map w).sum
  if all = 0 then 0 else ((domUj.filter (fun e => e.1 = s.domain)).map Prod.snd).sum * w s / all

/-- Charge a share to its port and phase. -/
def chargeShare (uj : Rat) (s : EnergyShare) (d : Dev) : Dev :=
  { d with pow := { d.pow with portUj := tmod 0 d.pow.portUj s.port (· + uj),
                               phaseUj := tmod 0 d.pow.phaseUj (s.port * 256 + s.phase) (· + uj) } }

/-- The hints whose level a region holds up, and the part of its ballast that each pays: by target (R422; DESIGN CHOICE,
notes/assumptions/151.md). -/
def ballastHints (d : Dev) (hub : Nat) : List (Rat × Hint) :=
  let hs := d.pow.hints.filter (fun x => x.hub = hub && x.ramping)
  let all : Rat := ((hs.map (fun x => x.target)).sum : Nat)
  hs.map (fun x => (if all = 0 then 0 else (x.target : Rat) / all, x))

/-- What a share of the steps is charged to: its port and phase; ballast to those of the hints above it; background to none (R428). -/
def chargeSteps (uj : Rat) (s : EnergyShare) (d : Dev) : Dev :=
  if s.port < 4 then chargeShare uj s d
  else if s.port = 5 then
    (ballastHints d (domRegion s.domain)).foldl (fun (d : Dev) e => chargeShare (uj * e.1) { s with port := e.2.port, phase := e.2.phase } d) d
  else d

/-- ENERGY_METERING (R428): the measured energy of each present governed domain is split among all the steps taken in it. -/
def meterEnergy (v : Variant) (inputUj : Rat) (domUj : List (Nat × Rat)) (shares : List EnergyShare) (d : Dev) : Dev :=
  let mine := shares.filter (fun s => decide (s.port < 6) && decide (s.phase < 256) && domGoverned s.domain && domPresent v s.domain)
  let d1 := (mine.map (fun s => (shareUj d domUj mine s, s))).foldl (fun (d : Dev) (e : Rat × EnergyShare) => chargeSteps e.1 e.2 d) d
  { d1 with pow := { d1.pow with inputUj := d1.pow.inputUj + inputUj } }

def arbiterOp (v : Variant) (inputW governedW : Rat) (acts : List Activity) (inputUj : Rat) (domUj : List (Nat × Rat))
    (shares : List EnergyShare) (d : Dev) : Dev :=
  if !governs v d 0 then d
  else
    let hubs := hubsPresent v
    let bs := shareOut (fullW v) (poolOf v d inputW governedW) (hubs.map (fun h => demandOf v d h acts))
    let d1 := (hubs.zip bs).foldl (fun (d : Dev) (e : Nat × Rat) => d.modRegion e.1 (fun r => { r with budget := e.2 })) d
    let d2 := { d1 with pow := { d1.pow with input := (inputW :: d1.pow.input).take 10 } }
    meterEnergy v inputUj domUj shares d2

def execArbiterInterval (inputW governedW : Rat) (acts : List Activity) (inputUj : Rat) (domUj : List (Nat × Rat))
    (shares : List EnergyShare) (s : State) : Host.Outcome State Fault Refusal :=
  .next (s.on (arbiterOp s.variant inputW governedW acts inputUj domUj shares s.dev))

/-! ### Admission and grants (R418, R419, R421, R422, R432) -/

/-- The slope of a region in W per µs, less 4 W for each wake begun (R432). -/
def slopeOf (v : Variant) (r : Region) : Rat := max 0 (fullW v / 64 - 4 * (r.wakes : Rat))

/-- What the region may admit: slope, then budget, then a droop hold. -/
def amaxOf (v : Variant) (r : Region) (dPrev : Rat) : Rat :=
  let a := min (dPrev + slopeOf v r) r.budget
  max 0 (if r.droop then min a dPrev else a)

/-- The point at which a region takes a phase's consumer: the one chosen, or its domain's when none is chosen yet. -/
def pointOf (d : Dev) (r : Region) (a : Activity) : Nat := tget (d.dom a.domain).op r.points a.phase

/-- The demand of one domain at the points chosen. -/
def domDemand (d : Dev) (r : Region) (acts : List Activity) (k : Nat) : Rat :=
  ((acts.filter (fun a => a.domain = k)).map (fun a => demandAt d a (pointOf d r a))).sum

/-- The grant of a domain in pJ per µs: whole tokens of 0.5 W, halved by thermal control, though not below 1/16 of its demand where its
share allows that (R415, R418, R427). -/
def grantOf (demand level total : Rat) (halvings : Nat) : Rat :=
  if total = 0 then 0
  else
    let share : Rat := (((2 * demand * level / total).floor.toNat : Nat) : Rat) * 500000
    max (share / ((2 ^ halvings : Nat) : Rat)) (min share (demand * 1000000 / 16))

/-- A microsecond of one consumer: held back if it works with no credit; then its grant, capped at two (R419). -/
def grantDomain (k : Nat) (g : Rat) (works : Bool) (d : Dev) : Dev :=
  let x := d.dom k
  let d1 := if works && decide (x.credit ≤ 0) then d.count 0x4401 (domSs k) 1 else d
  d1.setDom k { x with grant := g, credit := min (x.credit + g) (2 * g) }

/-- The draw that the hints of a region ask for, up to F and the budget (R421, R423). -/
def hintGoal (v : Variant) (d : Dev) (r : Region) (hub : Nat) : Rat :=
  let ts := (d.pow.hints.filter (fun x => x.hub = hub && x.ramping && !x.falling)).map (fun x => (x.target : Rat) * fullW v / 256)
  max 0 (min r.budget (min (fullW v) ts.sum))

/-- The hinted level one µs on: it rises from the region's draw, and falls, at the slope limit. -/
def hintStep (goal level dPrev slope : Rat) : Rat :=
  if level < goal then min goal (max level dPrev + slope) else max goal (level - slope)

/-- The draw in W of the background work that the macros of a region owe: those whose check step is due or that ask for calibration, as
every macro does until it has been calibrated. -/
def owedW (v : Variant) (d : Dev) (hub : Nat) : Rat :=
  ((facetsOfHub v hub).map (fun f => ((List.range 16).map (fun i =>
    let w := 16 * f + i
    let op := (d.dom (domWedge w)).op
    let n := 192 - (d.macros.filter (fun e => e.1 / 192 = w && !(ckOwed d e.1 || e.2.cal.req))).length
    if domRuns d (domWedge w) then (n : Rat) * (macroRate op * checkEnergy * opFactor op / 1000) else 0)).sum)).sum

/-- What null steps have to fill of a region's ballast: background work that is owed comes first (R422). -/
def nullW (v : Variant) (d : Dev) (hub : Nat) (ballast : Rat) : Rat := if ballast = 0 then 0 else max 0 (ballast - owedW v d hub)

/-- REGION_GOVERNOR_TICK. -/
def governorTickOp (v : Variant) (hub : Nat) (dPrev : Rat) (acts : List Activity) (d : Dev) : Dev :=
  if !governs v d hub then d
  else
    let r := d.region hub
    let mine := actsOf v hub acts
    let amax := amaxOf v r dPrev
    let total : Rat := (mine.map (fun a => demandAt d a (pointOf d r a))).sum
    let level := min total amax
    let known := (d.pow.doms.map Prod.fst).filter (fun k => domGoverned k && domRegion k = hub)
    let doms := (mine.map (fun a => a.domain) ++ known).eraseDups
    let grants := doms.map (fun k =>
      (k, grantOf (domDemand d r mine k) level total (d.dom k).halvings, mine.any (fun a => a.domain = k && a.active ≠ 0)))
    let goal := hintGoal v d r hub
    let lv := hintStep goal r.hintLevel dPrev (slopeOf v r)
    let d1 := grants.foldl (fun (d : Dev) (e : Nat × Rat × Bool) => grantDomain e.1 e.2.1 e.2.2 d) d
    let ballast := max 0 (min lv amax - level)
    let d2 := d1.modRegion hub (fun x =>
      { x with admitted := level, dPrev := dPrev, hintLevel := lv, ballast := ballast, nulls := nullW v d hub ballast, wakes := 0 })
    let hints := (d2.pow.hints.filter (fun x => !(x.hub = hub && x.falling && lv = goal))).map (fun x =>
      if x.hub = hub && x.ramping && decide (goal ≤ lv) then { x with reached := true } else x)
    { d2 with pow := { d2.pow with hints := hints } }

def execRegionGovernorTick (hub : Nat) (dPrev : Rat) (acts : List Activity) (s : State) : Host.Outcome State Fault Refusal :=
  .next (s.on (governorTickOp s.variant hub dPrev acts s.dev))

/-! ### Learned energy and operating points (R418, R420) -/

/-- ENERGY_SAMPLE: one sample moves the learned energy by an eighth of the difference. -/
def learn (v : Variant) (hub : Nat) (s : EnergySample) (d : Dev) : Dev :=
  if s.steps < 1000 ∨ domGoverned s.domain = false ∨ domPresent v s.domain = false ∨ domRegion s.domain ≠ hub then d
  else
    let x : Rat := s.pj / (s.steps : Rat) / opFactor (d.dom s.domain).op
    d.modRegion hub (fun r =>
      if s.lane then { r with learnedL := tmod 40 r.learnedL s.phase (fun e => e + (x - e) / 8) }
      else { r with learnedM := tmod 72 r.learnedM s.phase (fun e => e + (x - e) / 8) })

/-- The thermal ceiling of a phase on a region: the lowest of the domains that work on it (DEDUCED, notes/assumptions/46.md). -/
def phaseCeiling (d : Dev) (acts : List Activity) (p : Nat) : Nat :=
  ((acts.filter (fun a => a.phase = p)).map (fun a => (d.dom a.domain).ceiling)).foldl min 7

/-- Demand of a region with each phase at the point that `g` lists. -/
def demandAll (d : Dev) (acts : List Activity) (g : Tab Nat) : Rat := (acts.map (fun a => demandAt d a (tget 0 g a.phase))).sum

/-- The phase to lower first: the highest point, on a tie the larger learned energy. -/
def lowerFirst (d : Dev) (hub : Nat) (g : Tab Nat) : Option Nat :=
  (g.filter (fun e => decide (max (floorPoint d e.1) 0 < e.2))).foldl (fun (best : Option Nat) (e : Nat × Nat) =>
    match best with
    | none => some e.1
    | some b =>
      let gb := tget 0 g b
      if gb < e.2 ∨ (gb = e.2 ∧ macEnergy d hub b < macEnergy d hub e.1) then some e.1 else some b) none

/-- The loop of R418: lower until the demand fits or every phase is at its floor. `n` bounds the lowerings. -/
def lowerAll (d : Dev) (hub : Nat) (acts : List Activity) (amax : Rat) : Nat → Tab Nat → Tab Nat
  | 0, g => g
  | n + 1, g =>
    if demandAll d acts g ≤ amax then g
    else match lowerFirst d hub g with
      | none => g
      | some p => lowerAll d hub acts amax n (tset g p (tget 0 g p - 1))

/-- The new point of a phase: at most one from the old; up only when the demand at the raised point fits. -/
def nextPoint (d : Dev) (acts : List Activity) (amax : Rat) (goal old : Tab Nat) (p : Nat) : Nat :=
  let g := tget 0 goal p
  match tfind old p with
  | none => g
  | some c =>
    if g < c then c - 1
    else if c < g ∧ demandAll d acts (tset old p (c + 1)) ≤ amax then c + 1
    else c

/-- The settings of the power entries as they stand. -/
def govSetNow (d : Dev) : GovSet :=
  { margin := d.num 0x4001 2 30, t1 := d.num 0x4002 1 95, hyst := d.num 0x4002 2 5, wake := d.num 0x4012 1 1 }

/-- The settings in force in a region: those of its last 10 µs interval (R434). -/
def govSet (d : Dev) (hub : Nat) : GovSet := ((d.region hub).set).getD (govSetNow d)

/-- PHASE_POINT_CHOICE: each 10 µs interval, which takes the settings too. -/
def pointChoiceOp (v : Variant) (hub : Nat) (acts : List Activity) (samples : List EnergySample) (d : Dev) : Dev :=
  if !governs v d hub then d
  else
    let d := d.modRegion hub (fun r => { r with set := some (govSetNow d) })
    let d1 := samples.foldl (fun (d : Dev) (s : EnergySample) => learn v hub s d) d
    let r := d1.region hub
    let mine := actsOf v hub acts
    let phases := (mine.map (fun a => a.phase)).eraseDups
    let amax := amaxOf v r r.dPrev
    let wish : Tab Nat := phases.foldl (fun (t : Tab Nat) p => tset t p (min (prefPoint d1 p) (phaseCeiling d1 mine p))) []
    let goal := lowerAll d1 hub mine amax (8 * phases.length) wish
    let old := r.points.filter (fun e => phases.contains e.1)
    let news : Tab Nat := phases.foldl (fun (t : Tab Nat) p => tset t p (nextPoint d1 mine amax goal old p)) []
    let lowered : Nat := (phases.filter (fun p => decide (tget 0 news p < tget 0 old p))).length
    let d2 := d1.modRegion hub (fun x => { x with points := news })
    let d3 := if lowered = 0 then d2 else d2.count 0x4400 (ssHub hub) lowered
    ((mine.map (fun a => a.domain)).eraseDups).foldl (fun (d : Dev) k =>
      let top : Nat := ((mine.filter (fun a => a.domain = k)).map (fun a => tget 0 news a.phase)).foldl max 0
      moveSupply k (underCeiling (d.dom k) top) d) d3

def execPhasePointChoice (hub : Nat) (acts : List Activity) (samples : List EnergySample) (s : State) :
    Host.Outcome State Fault Refusal :=
  .next (s.on (pointChoiceOp s.variant hub acts samples s.dev))

/-- SUPPLY_MOVE_DONE: never above the ceiling (R414, R426). -/
def supplyMoveOp (k : Nat) (d : Dev) : Dev :=
  match (d.dom k).opNext with
  | some g => d.modDom k (fun x => { x with op := underCeiling x g, opNext := none })
  | none => d

def execSupplyMoveDone (domain : Nat) (s : State) : Host.Outcome State Fault Refusal := .next (s.on (supplyMoveOp domain s.dev))

/-! ### Hints (R374, R421, R423) -/

/-- A region holds a hint; one for the same phase is replaced. -/
def holdHint (h : Hint) (d : Dev) : Dev :=
  { d with pow := { d.pow with hints := d.pow.hints.filter (fun x => !(x.hub = h.hub && x.phase = h.phase)) ++ [h] } }

/-- PHASE_HINT. -/
def phaseHintOp (cmd : Nat) (d : Dev) : Dev :=
  match d.starting cmd 0x20 with
  | none => d
  | some c =>
    let d1 := (hintHubs (c.P 0)).foldl (fun (d : Dev) h =>
      holdHint { hub := h, phase := bitsOf (c.P 0) 7 0, target := bitsOf (c.P 0) 23 16, lead := bitsOf (c.P 1) 31 0, port := c.port,
                 ramping := false, reached := false, falling := false, used := false } d) d
    d1.succeeds cmd 0

def execPhaseHint (cmd : Nat) (s : State) : Host.Outcome State Fault Refusal := .next (s.on (phaseHintOp cmd s.dev))

/-- Change the hint of a hub and phase. -/
def modHint (hub phase : Nat) (f : Hint → Hint) (d : Dev) : Dev :=
  { d with pow := { d.pow with hints := d.pow.hints.map (fun x => if x.hub = hub && x.phase = phase then f x else x) } }

/-- HINT_RAMP_START: the region starts to raise its draw, as late as the slope limit allows. -/
def hintRampOp (v : Variant) (hub phase : Nat) (d : Dev) : Dev :=
  if !governs v d hub then d else modHint hub phase (fun x => { x with ramping := true }) d

def execHintRampStart (hub phase : Nat) (s : State) : Host.Outcome State Fault Refusal :=
  .next (s.on (hintRampOp s.variant hub phase s.dev))

/-- HINT_HOLD_EXPIRY: 100 µs after the target was reached, the ballast begins to fall; a hint whose phase sent no tile is counted. -/
def hintHoldOp (hub phase : Nat) (d : Dev) : Dev :=
  match d.pow.hints.find? (fun x => x.hub = hub && x.phase = phase) with
  | none => d
  | some x =>
    if x.reached && !x.falling then
      let d1 := modHint hub phase (fun y => { y with falling := true }) d
      if x.used then d1 else d1.count 0x4403 (ssHub hub) 1
    else d

def execHintHoldExpiry (hub phase : Nat) (s : State) : Host.Outcome State Fault Refusal := .next (s.on (hintHoldOp hub phase s.dev))

/-! ### Droop (R424, R425) -/

/-- The voltage of an operating point in mV (Table 15.1). -/
def pointMv (g : Nat) : Nat := 550 + 50 * g

/-- A domain with a droop detector: governed domains and hub domains. -/
def hasDetector (v : Variant) (k : Nat) : Bool := domSwitched v k && (domGoverned k || decide (612 ≤ k))

/-- A domain at its operating point: in Run or Hold. -/
def domPowered (d : Dev) (k : Nat) : Bool := domState d k == .run || domState d k == .hold

/-- PWR_DROOP. -/
def droopOp (v : Variant) (k mv : Nat) (d : Dev) : Dev :=
  if hasDetector v k && domPowered d k && decide (mv + (govSet d (domRegion k)).margin < pointMv (d.dom k).op) then
    let hub := domRegion k
    let d1 := d.modRegion hub (fun r => { r with droop := true })
    (d1.count 0x4402 (domSs k) 1).postOnce limPwrDroop hub evPwrDroop hub (codeOf (domTarget k)) []
  else d

def execPwrDroop (domain mv : Nat) (s : State) : Host.Outcome State Fault Refusal := .next (s.on (droopOp s.variant domain mv s.dev))

/-- DROOP_HOLD_EXPIRY. -/
def droopEndOp (v : Variant) (hub : Nat) (d : Dev) : Dev :=
  if governs v d hub then d.modRegion hub (fun r => { r with droop := false }) else d

def execDroopHoldExpiry (hub : Nat) (s : State) : Host.Outcome State Fault Refusal := .next (s.on (droopEndOp s.variant hub s.dev))

/-- SUPPLY_COLLAPSE_STOP: below 0.50 V. -/
def collapseOp (v : Variant) (k mv : Nat) (d : Dev) : Dev :=
  if domSwitched v k && domPowered d k && !(d.dom k).collapsed && decide (mv < 500) then
    (d.modDom k (fun x => { x with collapsed := true })).count 0x4402 (domSs k) 1
  else d

def execSupplyCollapseStop (domain mv : Nat) (s : State) : Host.Outcome State Fault Refusal :=
  .next (s.on (collapseOp s.variant domain mv s.dev))

/-- SUPPLY_RECOVER: above 0.52 V. -/
def recoverOp (k mv : Nat) (d : Dev) : Dev :=
  if (d.dom k).collapsed && decide (520 < mv) then d.modDom k (fun x => { x with collapsed := false }) else d

def execSupplyRecover (domain mv : Nat) (s : State) : Host.Outcome State Fault Refusal := .next (s.on (recoverOp domain mv s.dev))

/-! ### Thermal control (R426, R427) -/

/-- The threshold and the hysteresis in force for a domain. -/
def thermT1 (d : Dev) (k : Nat) : Rat := ((govSet d (domRegion k)).t1 : Rat)
def thermHyst (d : Dev) (k : Nat) : Rat := ((govSet d (domRegion k)).hyst : Rat)

/-- THERMAL_SENSE: a junction sensor is read. -/
def thermalSenseOp (v : Variant) (k : Nat) (celsius : Rat) (d : Dev) : Dev :=
  if domSwitched v k && mainOn d then d.modDom k (fun x => { x with junction := celsius }) else d

def execThermalSense (domain : Nat) (celsius : Rat) (s : State) : Host.Outcome State Fault Refusal :=
  .next (s.on (thermalSenseOp s.variant domain celsius s.dev))

/-- THERM_THROTTLE: the ceiling falls by one; a supply above it, or under way to a point above it, moves down. -/
def throttleOp (v : Variant) (k : Nat) (d : Dev) : Dev :=
  let x := d.dom k
  if domSwitched v k && mainOn d && decide (thermT1 d k ≤ x.junction) && x.ceiling ≠ 0 then
    let d1 := (d.setDom k { x with ceiling := x.ceiling - 1 }).count 0x4404 (domSs k) 1
    let d2 := if x.ceiling - 1 < max x.op (x.opNext.getD 0) then moveSupply k (x.ceiling - 1) d1 else d1
    d2.postOnce limThermThrottle k evThermThrottle (domRegion k) (codeOf (domTarget k)) []
  else d

def execThermThrottle (domain : Nat) (s : State) : Host.Outcome State Fault Refusal := .next (s.on (throttleOp s.variant domain s.dev))

/-- THERMAL_CEILING_RISE: the ceiling rises by one. An ungoverned domain returns to the lesser of OP4 and its ceiling. -/
def ceilingRiseOp (v : Variant) (k : Nat) (d : Dev) : Dev :=
  let x := d.dom k
  if domSwitched v k && mainOn d && decide (x.junction < thermT1 d k - thermHyst d k) && decide (x.ceiling < 7) then
    let d1 := d.setDom k { x with ceiling := x.ceiling + 1 }
    if domGoverned k then d1 else moveSupply k (min 4 (x.ceiling + 1)) d1
  else d

def execThermalCeilingRise (domain : Nat) (s : State) : Host.Outcome State Fault Refusal :=
  .next (s.on (ceilingRiseOp s.variant domain s.dev))

/-- THERM_LIMIT: at OP0 and 105 °C a governed grant is halved, to 1/16 at most; below 105 °C less the hysteresis it doubles back. An
ungoverned domain only posts. `halvings` says of both that the limit was reached. -/
def thermLimitOp (v : Variant) (k : Nat) (d : Dev) : Dev :=
  let x := d.dom k
  if !(domSwitched v k && mainOn d) then d
  else if x.op = 0 ∧ (105 : Rat) ≤ x.junction then
    let n := if domGoverned k then min 4 (x.halvings + 1) else 1
    let d1 := d.setDom k { x with halvings := n }
    if x.halvings = 0 then d1.post evThermLimit (domRegion k) (codeOf (domTarget k)) [] else d1
  else if x.junction < 105 - thermHyst d k then d.setDom k { x with halvings := x.halvings - 1 }
  else d

def execThermLimit (domain : Nat) (s : State) : Host.Outcome State Fault Refusal := .next (s.on (thermLimitOp s.variant domain s.dev))

end Sys2Proof.Machine
end

