-- ==== Sys2Proof/Machine/OdOps.lean ====
section
/-!
DEFINITION. Dictionary requests (R384 to R394): the checks of Table 14.3 in their order, reads, writes of entries with no step of
their own, and the host commands OD READ and OD WRITE (R359).
-/
namespace Sys2Proof.Machine

open Sys2Proof

/-- Is the request served? The standby controller runs and no life-cycle change is between its orders 1 and 2 (R473). -/
def odServed (d : Dev) : Bool := d.seq.stbyUp && !d.sec.changing

/-- Order 5 (Table 17.4) for a write. -/
def lcDenies (lcs : Nat) (src : Source) (idx sub : Nat) : Bool :=
  match src with
  | .firmware => false
  | .mgmt => if idx = 0x7010 then true else lcs = 3 && !(idx = 0x7030 && sub = 1)
  | .port _ => if idx = 0x7010 then lcs ≠ 1 else lcs = 3 && !(idx = 0x7030 && sub = 1)

/-- Order 4 for a write (R388). -/
def mayWrite (src : Source) (a : Acc) : Bool :=
  match src, a with
  | .firmware, _ => true
  | _, .ro => false
  | _, .rw => true
  | _, .wo => true
  | .port _, .rwh => true
  | .mgmt, .rwh => false
  | .port _, .rwm => false
  | .mgmt, .rwm => true

/-- Order 3 (R389): over the management port all but the reads of public entries travel in an open session. -/
def needsSession (d : Dev) (src : Source) (sid : Nat) (read : Bool) (idx : Nat) : Bool :=
  src == .mgmt && !(read && odPublic idx) && !(decide (sid ≠ 0) && d.tam.sessions.any (fun s => s.sid = sid))

/-- Order 8: the holder is out of service. The record of a selected macro is held by the macro's wedge. -/
def holderGone (d : Dev) (src : Source) (idx sub : Nat) (e : OdEntry) : Bool :=
  (odByUnit idx e).elim false (holderOffline d) ||
    (idx = 0x5030 && sub ≠ 1 && (selectedMacro d src).elim false (fun m => holderOffline d (.wedge (m / 3072) (m / 192 % 16))))

/-- The value that a read sees; a WO entry reads zero (R388). -/
def readValue (v : Variant) (d : Dev) (src : Source) (idx sub : Nat) (e : OdEntry) : Bytes :=
  if e.acc == .wo then toLe e.len 0 else odView v d src idx sub e

/-- A read request under Table 14.3, with `room` for the value: its status and its value. Class P values are not served before the journal is
ready (R410). -/
def odRead (v : Variant) (d : Dev) (src : Source) (sid idx sub room : Nat) : BitVec 8 × Bytes :=
  match odEntry idx sub with
  | none => (stOdNoEntry, [])
  | some e =>
    if !odPresent v idx e then (stUnitAbsent, [])
    else if needsSession d src sid true idx then (stAuthFailed, [])
    else
      let b := readValue v d src idx sub e
      if room < b.length then (stOdLength, [])
      else if holderGone d src idx sub e || (e.cls == .p && !d.jour.ready) then (stUnitOffline, [])
      else (stSuccess, b)

/-- The unit that a value names, in the entries that hold a unit target (R357). -/
def odNames (idx : Nat) (b : Bytes) : Option Target :=
  if (idx = 0x4010 ∧ b.length = 8) ∨ (idx = 0x5030 ∧ b.length = 4) then targetOf (bitsOf (leNat b) 31 0) else none

/-- Orders 1 to 6 of a write of `len` bytes whose value, where it is known, names a unit: R9 asks whether that unit is present before every
check but the entry's existence. -/
def odWriteEarly (v : Variant) (d : Dev) (src : Source) (sid idx sub len : Nat) (names : Option Target) : BitVec 8 :=
  match odEntry idx sub with
  | none => stOdNoEntry
  | some e =>
    if !odPresent v idx e || names.elim false (fun t => !targetPresent v t) then stUnitAbsent
    else if needsSession d src sid false idx then stAuthFailed
    else if !mayWrite src e.acc then stOdAccess
    else if lcDenies d.sec.lcs src idx sub then stLifecycle
    else if !odLengthOk idx e len then stOdLength
    else stSuccess

/-- Orders 1 to 8 of a write. -/
def odWriteChecks (v : Variant) (d : Dev) (src : Source) (sid idx sub : Nat) (b : Bytes) : BitVec 8 :=
  let early := odWriteEarly v d src sid idx sub b.length (odNames idx b)
  if early ≠ stSuccess then early
  else match odEntry idx sub with
    | none => stOdNoEntry
    | some e =>
      if !odInRange d idx sub e b then stValueRange
      else if holderGone d src idx sub e then stUnitOffline
      else stSuccess

/-- Entries whose write is a step of its own: the power request, the link enable and widen, the wall time, the base band, the retry of
boot, the token commit and the nonce. -/
def ownStep (idx sub : Nat) : Bool :=
  idx = 0x4010 || idx = 0x3411 || idx = 0x3420 || (idx = 0x5801 && sub = 2) || idx = 0x2061 || idx = 0x5020 ||
    (idx = 0x7020 && sub = 4) || (idx = 0x7030 && sub = 1)

/-- Hold a value of class M, Q or V; the entries that each source has of its own (R469, R463) are kept by source. -/
def storeValue (src : Source) (idx sub : Nat) (b : Bytes) (d : Dev) : Dev :=
  let k := sourceIdx src
  if idx = 0x5030 then { d with log := { d.log with select := tset d.log.select k (BitVec.ofNat 32 (leNat b)) } }
  else if idx = 0x7020 then
    (if sub = 1 then { d with sec := { d.sec with body := tset d.sec.body k b } }
     else if sub = 2 then { d with sec := { d.sec with sigA := tset d.sec.sigA k b } }
     else if sub = 3 then { d with sec := { d.sec with sigB := tset d.sec.sigB k b } }
     else d)
  else { d with vals := tset d.vals (odKey idx sub) b }

/-! ### Records on the flash (R404 to R407) -/

def Jour.region (j : Jour) (n : Nat) : JRegion := if n = 0 then j.reg0 else j.reg1
def Jour.setRegion (j : Jour) (n : Nat) (r : JRegion) : Jour := if n = 0 then { j with reg0 := r } else { j with reg1 := r }

/-- The record of a value fits below the region's end (R409). -/
def recordFits (d : Dev) (vals : List (Nat × Bytes)) : Bool :=
  decide (d.jour.append + ((vals.map (fun e => recordBytes e.2.length)).sum) ≤ regionBytes)

/-- The record of a value with a sequence number, at an offset; one that reads back wrong is torn. -/
def newRec (off key : Nat) (b : Bytes) (seq : Nat) (good : Bool) : JRec :=
  let typ := (odEntry (key / 256) (key % 256)).elim 0 (fun e => e.typ)
  { off := off, bytes := recordImage (key / 256) (key % 256) typ b seq, torn := !good, done := recordBytes b.length }

/-- A record is programmed in region n. -/
def Jour.put (j : Jour) (n : Nat) (r : JRec) : Jour :=
  let x := j.region n
  { j.setRegion n { x with recs := x.recs ++ [r], erased := false } with nextSeq := j.nextSeq + 1 }

/-- Program one record at the append point of the active region. A record that reads back wrong stays where it is, and the next goes to
the start of the next 4 KiB block (R406). -/
def programRec (key : Nat) (b : Bytes) (good : Bool) (d : Dev) : Dev :=
  let j := d.jour
  let end_ := j.append + recordBytes b.length
  let j1 := j.put j.active (newRec j.append key b j.nextSeq good)
  ({ d with jour := { j1 with append := if good then end_ else roundUp end_ 4096,
                              copied := j.copied.filter (fun k => k != key) } }).count 0x1400 4 1

/-- Take a token (R407). -/
def takeToken (d : Dev) : Dev := { d with jour := { d.jour with tokens := d.jour.tokens - 1 } }

/-- A throttled write (R407). -/
def throttle (d : Dev) : Dev := d.count 0x1400 6 1

/-! ### OD READ and OD WRITE (R359) -/

/-- The index and subindex of P0, the length in P2. -/
def Cmd.odIdx (c : Cmd) : Nat := bitsOf (c.P 0) 15 0
def Cmd.odSub (c : Cmd) : Nat := bitsOf (c.P 0) 23 16
def Cmd.odLen (c : Cmd) : Nat := bitsOf (c.P 2) 31 0

/-- OD READ: the value, or with a buffer its length (Table 13.8). Reads of an event ring have a step of their own. -/
def odReadOp (v : Variant) (cmd : Nat) (d : Dev) : Dev :=
  match d.starting cmd 0x02 with
  | none => d
  | some c =>
    if !odServed d || c.odIdx = 0x5800 || (c.P 1 ≠ 0 && !hostOpen d c) then d
    else
      let r := odRead v d (.port c.port) 0 c.odIdx c.odSub (if c.P 1 = 0 then 8 else c.odLen)
      if r.1 ≠ stSuccess then d.fails cmd r.1 0
      else if c.P 1 = 0 then d.succeeds cmd (leNat r.2)
      else (d.toHost c.port (c.P 1) r.2).succeeds cmd r.2.length

def execOdRead (cmd : Nat) (s : State) : Host.Outcome State Fault Refusal :=
  .next (s.on (odReadOp s.variant cmd s.dev))

/-- The value that an OD WRITE carries: in P3, or read from the host's memory. With no buffer, a length above 8 has no value and
gives OD_LENGTH. -/
def cmdValue (c : Cmd) (value : HostRead) : Except Nat Bytes :=
  if c.P 1 = 0 then .ok (toLe c.odLen (c.P 3))
  else match value with
    | .ok b => .ok (padTo c.odLen (b.take c.odLen))
    | .fail k => .error k

/-- Order 9 of a class P write: a value that the entry holds needs no record (R393); else a token is drawn and the record queued (R407). A
write to an entry whose record is still to be programmed waits behind it, and takes both checks then (R394). -/
def offerP (cmd idx sub : Nat) (b : Bytes) (d : Dev) : Dev :=
  if d.pendingP (odKey idx sub) then (d.busy cmd).queueP [(odKey idx sub, b)] (.cmd cmd) false
  else if d.heldP idx sub = b then d.succeeds cmd 0
  else if d.jour.tokens = 0 then (throttle d).fails cmd stThrottled 0
  else ((takeToken d).busy cmd).queueP [(odKey idx sub, b)] (.cmd cmd) true

/-- OD WRITE of an entry that has no step of its own, or whose value cannot be read. -/
def odWriteOp (v : Variant) (cmd : Nat) (value : HostRead) (d : Dev) : Dev :=
  match d.starting cmd 0x03 with
  | none => d
  | some c =>
    let idx := c.odIdx
    let sub := c.odSub
    let names := match cmdValue c value with | .ok b => odNames idx b | .error _ => none
    let early := odWriteEarly v d (.port c.port) 0 idx sub c.odLen names
    let readFailed := c.P 1 ≠ 0 && (match value with | .fail _ => true | .ok _ => false)
    if !odServed d || (c.P 1 ≠ 0 && !hostOpen d c) || (ownStep idx sub && !readFailed) then d
    else if early ≠ stSuccess then d.fails cmd early 0
    else if c.P 1 = 0 ∧ 8 < c.odLen then d.fails cmd stOdLength 0
    else match cmdValue c value with
      | .error k => d.fails cmd stHostAccess k
      | .ok b =>
        let st := odWriteChecks v d (.port c.port) 0 idx sub b
        if st ≠ stSuccess then d.fails cmd st 0
        else if (odEntry idx sub).elim false (fun e => e.cls == .p) then offerP cmd idx sub b d
        else (storeValue (.port c.port) idx sub b d).succeeds cmd 0

def execOdWrite (cmd : Nat) (value : HostRead) (s : State) : Host.Outcome State Fault Refusal :=
  .next (s.on (odWriteOp s.variant cmd value s.dev))

/-! ### Requests that are steps of their own -/

/-- The request may be taken: the dictionary is served, and when a host command made it, that command is an OD WRITE of this entry that
may start, from this port. -/
def reqReady (r : OdReq) (idx : Nat) (d : Dev) : Bool :=
  odServed d &&
    (match r.cmd with
     | none => true
     | some id => (d.starting id 0x03).elim false (fun c =>
         (c.P 1 = 0 || hostOpen d c) && c.odIdx = idx && c.odSub = r.sub && r.src == .port c.port && r.sid = 0 && c.odLen = r.value.length &&
           (c.P 1 ≠ 0 || decide (8 < c.odLen) || r.value == toLe c.odLen (c.P 3))))

/-- The command that made the request carries no value: no buffer, and longer than P3. -/
def reqShort (r : OdReq) (d : Dev) : Bool :=
  (r.cmd.bind d.cmdOf).elim false (fun c => c.P 1 = 0 && decide (8 < c.odLen))

/-- Answer a request: its command, if it has one, completes. -/
def reqDone (r : OdReq) (st : BitVec 8) (d : Dev) : Dev :=
  match r.cmd with
  | some id => if st = stSuccess then d.succeeds id 0 else d.fails id st 0
  | none => d

/-- A request of an entry with a step of its own: the checks, then its effect, which answers with a status. -/
def ownRequest (v : Variant) (r : OdReq) (idx : Nat) (eff : Dev → BitVec 8 × Dev) (d : Dev) : Dev :=
  if !reqReady r idx d then d
  else
    let early := odWriteEarly v d r.src r.sid idx r.sub r.value.length (odNames idx r.value)
    let st := odWriteChecks v d r.src r.sid idx r.sub r.value
    if early ≠ stSuccess then reqDone r early d
    else if reqShort r d then reqDone r stOdLength d
    else if st ≠ stSuccess then reqDone r st d
    else
      let x := eff d
      reqDone r x.1 x.2

end Sys2Proof.Machine
end

