-- ==== Sys2Proof/Machine/Fabric.lean ====
section
/-!
DEFINITION. The fabric (ch. 10): endpoints, routes, the elided payloads of R270, credits, replay, multicast, hop failure and
reset. What an accepted frame does in its unit is the effect of that unit's own command (notes/assumptions/33.md).
-/
namespace Sys2Proof.Machine

open Sys2Proof

/-! ### Endpoints and hops -/

/-- The unit that an endpoint code names (Table 10.2); `none` for a reserved code. -/
def endpointUnit (code : Nat) : Option Target :=
  let port := bitsOf code 5 0
  let unit := bitsOf code 9 6
  let die := bitsOf code 13 10
  let h := bitsOf code 15 14
  if code ≥ 65536 then none
  else if die < 9 then (if port < 8 then some (.wedge (9 * h + die) unit) else none)
  else if die = 15 then
    (match unit with
     | 0 => if port < 8 then some (.engine h port) else none
     | 1 => if port < 4 then some (.slice h port) else none
     | 2 => if port < 4 then some (.core h port) else none
     | 3 => if port = 0 then some (.port h) else none
     | 4 => if port < 2 then some (.group h port) else none
     | 5 => if port < 16 then some (.ce (16 * h + port)) else none
     | 6 => if port = 0 then some (.hub h) else none
     | _ => none)
  else none

/-- Switch ports of a hub, numbered by the model: 4 for each engine and slice, 1 for each control core, 1 for the host port, 2 for
each link group, 1 for each check engine and the conversion DMA (R266), then 9 facet bridges and 3 hub bridges. -/
def switchUnit (h p : Nat) : Option Target :=
  if p < 32 then some (.engine h (p / 4))
  else if p < 48 then some (.slice h ((p - 32) / 4))
  else if p < 52 then some (.core h (p - 48))
  else if p = 52 then some (.port h)
  else if p < 57 then some (.group h ((p - 53) / 2))
  else if p < 73 then some (.ce (16 * h + (p - 57)))
  else if p = 73 then some (.hub h)
  else none

/-- The other hubs, in the order of their bridge ports. -/
def otherHubs (h : Nat) : List Nat := (List.range 4).filter (fun k => k != h)

/-- A switch port leads to a unit, a facet bridge or a hub bridge that is present (R287). -/
def portThere (v : Variant) (h p : Nat) : Bool :=
  if p < 74 then (switchUnit h p).elim false (targetPresent v)
  else if p < 83 then facetPresent v (9 * h + (p - 74))
  else decide (p < 86) && hubPresent v (nth h (otherHubs h) (p - 83))

/-- The port of a unit that carries its frames to, or from, the endpoint `key`: one of its ports for each partner, so that their frames keep
their order (R277; DESIGN CHOICE, notes/assumptions/138.md). -/
def portFor (h : Nat) (t : Target) (key : Nat) : Option Nat :=
  let ps := (List.range 74).filter (fun p => switchUnit h p == some t)
  ps[key % max 1 ps.length]?

/-- Whether the hop exists in the variant (R265, R287). -/
def hopPresent (v : Variant) : Hop → Bool
  | .lattice w dir => facetPresent v (w / 16) && (if dir < 4 then (neighbour w dir).isSome else dir = 4 && w % 16 / 4 = 0)
  | .spineDown f c => facetPresent v f && decide (c < 4)
  | .facetUp f => facetPresent v f
  | .facetDown f => facetPresent v f
  | .switchIn h p => hubPresent v h && portThere v h p
  | .switchOut h p => hubPresent v h && portThere v h p
  | .bridge a b => hubPresent v a && hubPresent v b && a != b

/-- The domains of the two ends of a hop (R266). -/
def hopDoms : Hop → List Nat
  | .lattice w _ => [domSpine (w / 16)]
  | .spineDown f _ => [domSpine f]
  | .facetUp f => [domSpine f, domControl (f / 9)]
  | .facetDown f => [domSpine f, domControl (f / 9)]
  | .switchIn h _ => [domControl h]
  | .switchOut h _ => [domControl h]
  | .bridge a b => [domControl a, domControl b]

/-- The hub and subindex ss of the entries that the sender's end and the receiver's end count in (R286). -/
def senderSs : Hop → Nat
  | .lattice w _ => ssFacet (w / 16)
  | .spineDown f _ => ssFacet f
  | .facetUp f => ssFacet f
  | .facetDown f => ssHub (f / 9)
  | .switchIn h _ => ssHub h
  | .switchOut h _ => ssHub h
  | .bridge a _ => ssHub a

def receiverSs : Hop → Nat
  | .facetUp f => ssHub (f / 9)
  | .facetDown f => ssFacet f
  | .bridge _ b => ssHub b
  | h => senderSs h

def hopHub : Hop → Nat
  | .lattice w _ => w / 144
  | .spineDown f _ => f / 9
  | .facetUp f => f / 9
  | .facetDown f => f / 9
  | .switchIn h _ => h
  | .switchOut h _ => h
  | .bridge a _ => a

/-- The unit of an event about a hop: the facet or hub of its sending end. -/
def hopUnit : Hop → BitVec 32
  | .lattice w _ => codeOf (.facet (w / 16))
  | .spineDown f _ => codeOf (.facet f)
  | .facetUp f => codeOf (.facet f)
  | .facetDown f => codeOf (.hub (f / 9))
  | .switchIn h _ => codeOf (.hub h)
  | .switchOut h _ => codeOf (.hub h)
  | .bridge a _ => codeOf (.hub a)

/-- The number that stands for a hop in an event's detail and in a limit (DESIGN CHOICE, notes/assumptions/40.md). -/
def hopKey : Hop → Nat
  | .lattice w dir => 0x01000000 + w * 8 + dir
  | .spineDown f c => 0x02000000 + f * 4 + c
  | .facetUp f => 0x03000000 + f
  | .facetDown f => 0x04000000 + f
  | .switchIn h p => 0x05000000 + h * 128 + p
  | .switchOut h p => 0x06000000 + h * 128 + p
  | .bridge a b => 0x07000000 + a * 4 + b

/-- The hop in the other direction between the same ends. -/
def reverseHop : Hop → Hop
  | .lattice w dir => if dir < 4 then .lattice ((neighbour w dir).getD w) (opposite dir) else .spineDown (w / 16) (w % 4)
  | .spineDown f c => .lattice (16 * f + c) 4
  | .facetUp f => .facetDown f
  | .facetDown f => .facetUp f
  | .switchIn h p => .switchOut h p
  | .switchOut h p => .switchIn h p
  | .bridge a b => .bridge b a

/-- The handshakes of both ends run. -/
def hopRuns (v : Variant) (d : Dev) (h : Hop) : Bool := hopPresent v h && (hopDoms h).all (domRuns d)

/-! ### Frames (R269 to R271) -/

/-- The class of an operation (Table 10.4); `none` for a reserved op. -/
def opClass (op : Nat) : Option Nat :=
  if op ∈ [0x01, 0x02, 0x03, 0x04] then some 0
  else if op = 0x08 then some 1
  else if op ∈ [0x10, 0x11, 0x12, 0x13] then some 2
  else if op ∈ [0x18, 0x19, 0x1A] then some 3
  else none

/-- The header of a frame, bit by bit (Table 10.3); bits 15 and 31:26 are reserved and zero. -/
def frameHeader (f : Frame) : BitVec 128 :=
  BitVec.ofNat 48 f.addr ++ f.wmask ++ BitVec.ofNat 16 f.dst ++ BitVec.ofNat 16 f.src ++ (0 : BitVec 6) ++ BitVec.ofNat 4 f.btag ++
    BitVec.ofNat 6 f.op ++ (0 : BitVec 1) ++ BitVec.ofBool f.poison ++ BitVec.ofBool f.mcast ++ BitVec.ofNat 4 f.dlen ++
    BitVec.ofNat 4 f.plen ++ BitVec.ofNat 2 f.ctype ++ BitVec.ofBool f.dense ++ BitVec.ofNat 2 f.cls

/-- The fields that a header spells, with the payload that follows it. -/
def frameOf (b : BitVec 128) (payload wire : Bytes) : Frame :=
  let n := b.toNat
  { cls := bitsOf n 1 0, dense := bitOf n 2, ctype := bitsOf n 4 3, plen := bitsOf n 8 5, dlen := bitsOf n 12 9, mcast := bitOf n 13,
    poison := bitOf n 14, op := bitsOf n 21 16, btag := bitsOf n 25 22, src := bitsOf n 47 32, dst := bitsOf n 63 48,
    wmask := BitVec.ofNat 16 (bitsOf n 79 64), addr := bitsOf n 127 80, payload := payload, wire := wire }

/-- The units that class 2 joins (R276): address generators, forming sides and output stages push toward staging buffers, operand inputs
and final adders; a read response goes from a memory to the unit that read it (DEDUCED, notes/assumptions/139.md). -/
def classTwoOk (op src dst : Nat) : Bool :=
  let adder (c : Nat) : Bool := decide (bitsOf c 13 10 < 9) && bitsOf c 5 0 = 2
  let input (c : Nat) : Bool := decide (bitsOf c 13 10 < 9) && (bitsOf c 5 0 = 1 || bitsOf c 5 0 = 3)
  let engine (c : Nat) : Bool := bitsOf c 13 10 = 15 && bitsOf c 9 6 = 0
  let dma (c : Nat) : Bool := bitsOf c 13 10 = 15 && bitsOf c 9 6 = 6
  let cache (c : Nat) : Bool := bitsOf c 13 10 = 15 && bitsOf c 9 6 = 1
  let reader (c : Nat) : Bool := bitsOf c 13 10 = 15 && (bitsOf c 9 6 = 2 || bitsOf c 9 6 = 3 || bitsOf c 9 6 = 4)
  let bank (c : Nat) : Bool := decide (bitsOf c 13 10 < 9) && bitsOf c 5 0 = 0
  if op = 0x11 ∨ op = 0x12 then (adder src || engine src || dma src) && (input dst || engine dst)
  else if op = 0x13 then adder src && adder dst
  else (cache src || bank src || reader src) && !cache dst

/-- A frame that a sender may offer: its class is its op's, 1 to 16 whole flits of payload, multicast only for data and scale
pushes (Table 10.4), fields inside their places of the header, endpoints that exist and that its class joins. -/
def frameOk (v : Variant) (f : Frame) : Bool :=
  opClass f.op == some f.cls && f.payload.length % 16 = 0 && decide (16 ≤ f.payload.length) &&
    decide (f.payload.length ≤ 256) && (!f.mcast || f.op = 0x11 || f.op = 0x12) &&
    frameOf (frameHeader f) f.payload f.wire == { f with seq := 0 } && (f.btag = 0 || f.op = 0x11 || f.op = 0x12) && (f.mcast == (f.wmask != 0)) &&
    (!f.mcast || bitsOf f.dst 9 0 = 0 && decide (bitsOf f.dst 13 10 < 9)) &&
    (endpointUnit f.src).elim false (targetPresent v) && (endpointUnit f.dst).elim false (targetPresent v) &&
    (f.cls != 2 || classTwoOk f.op f.src (if f.mcast then f.dst + 1 else f.dst))

/-- The bytes of a payload by 32-bit words. -/
def flitWords (p : Bytes) : List Bytes := (List.range (p.length / 4)).map (fun i => (p.drop (4 * i)).take 4)
def wordZero (w : Bytes) : Bool := w.all (fun b => b == 0)
/-- The number whose bit i is set when element i satisfies `p`. -/
def maskOf {α : Type} (p : α → Bool) : List α → Nat
  | [] => 0
  | a :: t => (p a).toNat + 2 * maskOf p t
def padFlit (b : Bytes) : Bytes := padTo (roundUp b.length 16) b

/-- The two elided forms of R270. -/
def elideWords (p : Bytes) : Bytes :=
  padFlit (toLe 8 (maskOf (fun w => !wordZero w) (flitWords p)) ++ ((flitWords p).filter (fun w => !wordZero w)).flatten)
def elideBytes (p : Bytes) : Bytes :=
  padFlit (toLe 32 (maskOf (fun b => b != 0) p) ++ p.filter (fun b => b != 0))

/-- Give each set bit of a mask the next element, each clear bit `z`. -/
def spread {α : Type} (z : α) (mask : Nat) : Nat → List α → List α
  | 0, _ => []
  | n + 1, l =>
    if mask % 2 = 1 then (match l with
      | a :: t => a :: spread z (mask / 2) n t
      | [] => z :: spread z (mask / 2) n [])
    else z :: spread z (mask / 2) n l

/-- The dense payload of `n` bytes that an elided form stands for. -/
def restoreWords (n : Nat) (w : Bytes) : Bytes :=
  (spread [0, 0, 0, 0] (leNat (w.take 8)) (n / 4) (flitWords (w.drop 8))).flatten
def restoreBytes (n : Nat) (w : Bytes) : Bytes := spread 0 (leNat (w.take 32)) n (w.drop 32)

/-- Ops whose payloads are tested for compression (R271). -/
def compressible (op : Nat) : Bool := op ∈ [0x10, 0x11, 0x12, 0x13, 0x18, 0x1A]

/-- The frame as it travels (R271, R128), and whether a compression test fell back to dense. -/
def formFrame (on : Bool) (f : Frame) : Frame × Bool :=
  let dlen := f.payload.length / 16 - 1
  let dense : Frame := { f with dense := true, ctype := 0, plen := dlen, dlen := dlen, wire := f.payload }
  if !on || !compressible f.op then (dense, false)
  else
    let w := elideWords f.payload
    let b := elideBytes f.payload
    let best := if w.length ≤ b.length then w else b
    if best.length < f.payload.length then
      ({ f with dense := false, ctype := if w.length ≤ b.length then 1 else 2, plen := best.length / 16 - 1, dlen := dlen,
                wire := best }, false)
    else (dense, true)

/-- The frame with its dense payload restored by the receiver (R271). -/
def restoreFrame (f : Frame) : Frame :=
  let n := 16 * (f.dlen + 1)
  let p := if f.dense then f.wire else if f.ctype = 1 then restoreWords n f.wire else restoreBytes n f.wire
  { f with payload := p }

/-! ### Routes (R267, R281)

Inside a facet a place is a router, by its wedge, or the spine, `none`. -/

/-- The hops from router `w` along its column to line `l`. -/
def colHops (w l : Nat) : List Hop :=
  let at_ := w % 16 / 4
  if at_ ≤ l then (List.range (l - at_)).map (fun i => .lattice (w + 4 * i) 2)
  else (List.range (at_ - l)).map (fun i => .lattice (w - 4 * i) 0)

/-- The hops from router `w` along its line to column `c`. -/
def lineHops (w c : Nat) : List Hop :=
  let at_ := w % 4
  if at_ ≤ c then (List.range (c - at_)).map (fun i => .lattice (w + i) 1)
  else (List.range (at_ - c)).map (fun i => .lattice (w - i) 3)

/-- The router of a facet on line `l` in column `c`. -/
def routerAt (g l c : Nat) : Nat := 16 * g + 4 * l + c

/-- The ways of a facet between two places, the best first: line and then column, column and then line, and the ways round a failed link
through another column, which the rule does not spell out (DESIGN CHOICE, notes/assumptions/137.md). -/
def facetWays (g : Nat) (src dst : Option Nat) : List (List Hop) :=
  let round (c : Nat) : List Hop := match src, dst with
    | some a, some b => lineHops a c ++ colHops (routerAt g (a % 16 / 4) c) (b % 16 / 4) ++ lineHops (routerAt g (b % 16 / 4) c) (b % 4)
    | none, some b => .spineDown g c :: (colHops (routerAt g 0 c) (b % 16 / 4) ++ lineHops (routerAt g (b % 16 / 4) c) (b % 4))
    | some a, none => lineHops a c ++ colHops (routerAt g (a % 16 / 4) c) 0 ++ [.lattice (routerAt g 0 c) 4]
    | none, none => []
  let first : List Nat := match src, dst with
    | some a, some b => [b % 4, a % 4]
    | none, some b => [b % 4]
    | some a, none => [a % 4]
    | none, none => []
  (first ++ List.range 4).map round

/-- The way that frames take: the best one without a failed hop. -/
def facetWay (d : Dev) (g : Nat) (src dst : Option Nat) : List Hop :=
  let ws := facetWays g src dst
  (ws.find? (fun p => p.all (fun h => !(d.hopOf h).failed))).getD ((ws.head?).getD [])

/-- The place that a lattice hop leaves. -/
def leavesPlace : Hop → Option Nat
  | .lattice w _ => some w
  | _ => none

/-- The hop out of place `cur` on the way from `src` to `dst`; a frame that stands beside the way takes one from where it stands. -/
def facetHop (d : Dev) (g : Nat) (src cur dst : Option Nat) : Option Hop :=
  if cur = dst then none
  else ((facetWay d g src dst).find? (fun h => leavesPlace h == cur)).orElse (fun _ => (facetWay d g cur dst).head?)

/-- The place in facet `g` where frames of an endpoint enter or leave it: its router, or the spine. -/
def placeIn (g code : Nat) : Option Nat :=
  match endpointUnit code with
  | some (.wedge f w) => if f = g then some (16 * g + w) else none
  | _ => none

/-- A multicast frame has come to its facet (R274). -/
def inFacet (g : Nat) (f : Frame) : Bool :=
  f.mcast && (match endpointUnit f.dst with
    | some (.wedge k _) => k = g
    | _ => false)

/-- The hop that a frame at hub `h` takes toward hub `h'`: the bridge that joins them, or the first crossing through the lowest
other hub when it has failed. -/
def bridgeHop (v : Variant) (d : Dev) (h h' : Nat) : Option Hop :=
  if !(d.hopOf (.bridge h h')).failed then some (.bridge h h')
  else ((hubsPresent v).find? (fun k => k != h && k != h')).map (fun k => .bridge h k)

/-- The hop out of the spine of facet `g`; a multicast frame of this facet parts here. -/
def spineNext (d : Dev) (g : Nat) (f : Frame) : Option Hop :=
  if inFacet g f then none
  else match placeIn g f.dst with
    | some w => facetHop d g none none (some w)
    | none => some (.facetUp g)

/-- The hop out of a switch: to a port of the destination, to its facet's bridge or to a hub bridge. -/
def switchNext (v : Variant) (d : Dev) (h : Nat) (f : Frame) : Option Hop :=
  match endpointUnit f.dst with
  | none => none
  | some t =>
    if targetHub t ≠ h then
      (match bridgeHop v d h (targetHub t) with
       | some (.bridge _ b) => some (.switchOut h (83 + (otherHubs h).idxOf b))
       | _ => none)
    else match t with
      | .wedge g _ => some (.switchOut h (74 + g % 9))
      | t => (portFor h t f.src).map (fun p => .switchOut h p)

/-- The hop out of router `w`; a multicast frame of this facet parts here or has come to its last wedge. -/
def routerNext (d : Dev) (w : Nat) (f : Frame) : Option Hop :=
  if inFacet (w / 16) f then none else facetHop d (w / 16) (placeIn (w / 16) f.src) (some w) (placeIn (w / 16) f.dst)

/-- The next hop of a frame that stands at the sending end of `h`. -/
def nextFrom (v : Variant) (d : Dev) (h : Hop) (f : Frame) : Option Hop :=
  match h with
  | .lattice w _ => routerNext d w f
  | .spineDown g _ => spineNext d g f
  | .facetUp g => spineNext d g f
  | .facetDown g => some (.facetDown g)
  | .switchOut k _ => switchNext v d k f
  | .switchIn k p => some (.switchIn k p)
  | .bridge a b => if (d.hopOf (.bridge a b)).failed then switchNext v d a f else some (.bridge a b)

/-- The next hop of a frame that stands in a slot at the receiving end of `h`; `none` where it has come to its unit. -/
def nextAfter (v : Variant) (d : Dev) (h : Hop) (f : Frame) : Option Hop :=
  match h with
  | .lattice w dir => if dir < 4 then routerNext d ((neighbour w dir).getD w) f else spineNext d (w / 16) f
  | .spineDown g c => routerNext d (routerAt g 0 c) f
  | .facetUp g => some (.switchIn (g / 9) (74 + g % 9))
  | .facetDown g => spineNext d g f
  | .switchIn k _ => switchNext v d k f
  | .switchOut k p =>
    if p < 74 then none
    else if p < 83 then some (.facetDown (9 * k + (p - 74)))
    else
      let b := Hop.bridge k (nth k (otherHubs k) (p - 83))
      if (d.hopOf b).failed then switchNext v d k f else some b
  | .bridge a b => some (.switchIn b (83 + (otherHubs b).idxOf a))

/-! ### Multicast (R274) -/

/-- Wedges of a multicast frame. -/
def maskWedges (m : BitVec 16) : List Nat := (List.range 16).filter (fun i => m.getLsbD i)
def wedgeMask (ws : List Nat) : BitVec 16 := BitVec.ofNat 16 ((ws.map (fun i => 2 ^ i)).sum)

/-- The outputs of place `cur` of a multicast frame's own facet, each with the wedges it serves. -/
def copiesAt (d : Dev) (g : Nat) (cur : Option Nat) (f : Frame) : List (Hop × List Nat) :=
  let go (i : Nat) : Option Hop := facetHop d g (placeIn g f.src) cur (some (16 * g + i))
  let ws := maskWedges f.wmask
  ((ws.filterMap go).eraseDups).map (fun o => (o, ws.filter (fun i => go i == some o)))

/-- Where the copies of a multicast frame that stands at the receiving end of `h` go: each output with the wedges it serves (R267,
R274). Outside its facet it is one frame like any other. -/
def copiesOf (d : Dev) (h : Hop) (f : Frame) : List (Hop × List Nat) :=
  let at_ (g : Nat) (cur : Option Nat) : List (Hop × List Nat) := if inFacet g f then copiesAt d g cur f else []
  match h with
  | .facetDown g => at_ g none
  | .spineDown g c => at_ g (some (routerAt g 0 c))
  | .lattice w dir => if dir < 4 then (neighbour w dir).elim [] (fun x => at_ (x / 16) (some x)) else []
  | _ => []

/-- Where a frame goes that stands at the sending end of `h`. -/
def outputsFrom (v : Variant) (d : Dev) (h : Hop) (f : Frame) : List (Hop × Frame) :=
  let one : List (Hop × Frame) := (nextFrom v d h f).elim [] (fun o => [(o, f)])
  let at_ (g : Nat) (cur : Option Nat) : List (Hop × Frame) :=
    if inFacet g f then (copiesAt d g cur f).map (fun e => (e.1, { f with wmask := wedgeMask e.2 })) else one
  match h with
  | .lattice w _ => at_ (w / 16) (some w)
  | .spineDown g _ => at_ g none
  | _ => one

/-- The hops on which a unit may send a frame of its own: its router's, or its port's, toward the destination; in its own facet a
multicast frame leaves as one frame for each output. -/
def sendsOn (v : Variant) (d : Dev) (h : Hop) (f : Frame) : Bool :=
  match endpointUnit f.src, h with
  | some (.wedge g w), .lattice x dir => x = 16 * g + w && (outputsFrom v d (.lattice x dir) f == [(h, f)])
  | some (.wedge _ _), _ => false
  | some t, .switchIn k p => k = targetHub t && portFor k t f.dst == some p
  | _, _ => false

/-! ### Sending and receiving -/

/-- The unit that a hop delivers to, when the hop is the last before one. -/
def deliversTo (h : Hop) : Option Target :=
  match h with
  | .lattice w dir => if dir < 4 then (neighbour w dir).map (fun x => .wedge (x / 16) (x % 16)) else none
  | .spineDown f c => some (.wedge f c)
  | .switchOut hub p => switchUnit hub p
  | _ => none

/-- A destination that drops frames: Off or held in reset (R283), a slice in Retain (Table 11.2). -/
def dropsFrames (d : Dev) (t : Target) : Bool :=
  targetOffline d t || (match t with
    | .slice h k => domState d (domHub h (8 + k)) == .retain
    | _ => false)

/-- The far end of a hop is Off, or the bridge of a facet that is out of service: frames go no further (R281, R283). -/
def hopCut (d : Dev) (h : Hop) : Bool :=
  (hopDoms h).any (fun k => domState d k == .off) || (match h with
    | .facetUp _ => (d.hopOf h).failed
    | .facetDown _ => (d.hopOf h).failed
    | _ => false)

/-- The destination of a frame is gone; of a multicast frame, every wedge that it names. -/
def destGone (d : Dev) (f : Frame) : Bool :=
  match endpointUnit f.dst with
  | some (.wedge g w) => if f.mcast then (maskWedges f.wmask).all (fun i => dropsFrames d (.wedge g i)) else dropsFrames d (.wedge g w)
  | some t => dropsFrames d t
  | none => false

/-- A frame that the sending end of a hop drops (R283): its destination is gone, and the hop is the last before it, or leads to a domain that
is Off with it. -/
def dropped (d : Dev) (h : Hop) (f : Frame) : Bool :=
  destGone d f && ((deliversTo h).elim false (fun t => some t == endpointUnit f.dst && !f.mcast) || hopCut d h)

/-- The poisoned response to a dropped read request or atomic (R283). -/
def poisonOf (f : Frame) : Option Frame :=
  if f.op = 0x08 ∨ f.op = 0x02 then
    some { f with cls := if f.op = 0x08 then 2 else 0, op := if f.op = 0x08 then 0x10 else 0x03, poison := true,
                  src := f.dst, dst := f.src, mcast := false, wmask := 0, payload := List.replicate 16 0 }
  else none

/-- Send a frame that holds its credit: it takes one credit and a place in the replay buffer (R272, R280), and the counters of
R286 rise. -/
def sendNow (h : Hop) (f : Frame) (d : Dev) : Dev :=
  let on := d.num 0x20B0 1 1 = 1
  let r := formFrame on f
  let ss := senderSs h
  let x := d.hopOf h
  let d1 := (d.setHop h { x with credits := setAt x.credits f.cls (nth 0 x.credits f.cls - 1), replay := x.replay ++ [r.1] }).emit
    (.fabric h r.1)
  let d2 := (d1.count 0x20B1 ss 1).count 0x20B2 ss (!r.1.dense).toNat
  (d2.count 0x20B3 ss r.2.toNat).count 0x20B9 ss (f.payload.length - r.1.wire.length)

/-- Send a frame on a hop, or let it wait, counted: it goes with a credit and no earlier frame of its class waiting (R273). A frame whose
destination is gone is dropped, and counted. -/
def offerPlain (h : Hop) (f : Frame) (d : Dev) : Dev :=
  let x := d.hopOf h
  let ss := senderSs h
  if dropped d h f then d.count 0x20B8 ss 1
  else if decide (0 < nth 0 x.credits f.cls) && x.wait.all (fun g => g.cls != f.cls) then sendNow h f d
  else (d.setHop h { x with wait := x.wait ++ [f] }).count 0x20B4 ss 1

/-- A frame has come to its unit: a read response frees the room reserved for it (R275). -/
def arrive (g : Frame) (d : Dev) : Dev :=
  if g.op = 0x10 then { d with rooms := tmod [] d.rooms g.dst (freeRoom g.poison g.payload.length) } else d

/-- Offer a frame to a hop. A dropped read request or atomic is answered with poison from where it was dropped (R283), beside its sender at
once. -/
def offer (v : Variant) (h : Hop) (f : Frame) (d : Dev) : Dev :=
  let d1 := offerPlain h f d
  match (if dropped d h f then poisonOf f else none) with
  | some r => (nextFrom v d1 h r).elim (arrive r d1) (fun o => offerPlain o { r with seq := d1.frames } { d1 with frames := d1.frames + 1 })
  | none => d1

/-! ### Order (R277) -/

/-- Two frames of one class from one source have a destination in common: an endpoint, or a wedge of a multicast frame. -/
def sameFlow (f g : Frame) : Bool :=
  let wedge (u m : Frame) : Bool := u.dst / 1024 = m.dst / 1024 && m.wmask.getLsbD (bitsOf u.dst 9 6)
  f.cls = g.cls && f.src = g.src &&
    (if f.mcast && g.mcast then f.dst = g.dst && f.wmask &&& g.wmask ≠ 0
     else if f.mcast then wedge g f
     else if g.mcast then wedge f g
     else f.dst = g.dst)

/-- The hops that hold an earlier frame of a frame's flow. -/
def earlierOn (d : Dev) (f : Frame) : List Hop :=
  (d.hops.filter (fun x => (x.wait ++ x.slots ++ x.replay).any (fun g => decide (g.seq < f.seq) && sameFlow f g))).map (fun x => x.hop)

/-- Where a frame goes on from the receiving end of a hop. -/
def nextHops (v : Variant) (d : Dev) (h : Hop) (f : Frame) : List (Hop × Frame) :=
  match nextAfter v d h f with
  | some o => [(o, f)]
  | none => (copiesOf d h f).map (fun e => (e.1, { f with wmask := wedgeMask e.2 }))

/-- The hops of a frame's way from hop `h` on. -/
def wayFrom (v : Variant) (d : Dev) : Nat → Hop → Frame → List Hop
  | 0, h, _ => [h]
  | n + 1, h, f => h :: ((nextHops v d h f).map (fun e => wayFrom v d n e.1 e.2)).flatten

/-- A frame may take a hop: every earlier frame of its flow that is still in the fabric stands ahead of it on its way. Where a way has
changed, it waits until they do or have come to their unit (R277). -/
def inOrder (v : Variant) (d : Dev) (h : Hop) (f : Frame) : Bool := (earlierOn d f).all (fun o => (wayFrom v d 32 h f).contains o)

/-- FRAME_SEND (R273): a unit sends a frame of its own, on the first hop of its route. A read request leaves once room for its response is
reserved (R275). -/
def frameSendOp (v : Variant) (h : Hop) (f : Frame) (d : Dev) : Dev :=
  let g := { f with seq := d.frames }
  let d1 := { d with frames := d.frames + 1 }
  if !(hopRuns v d h && !(d.hopOf h).failed && frameOk v f && sendsOn v d h f && inOrder v d h g) then d
  else if f.op ≠ 0x08 then offer v h g d1
  else if tget 0 d.asks f.src = 0 then d
  else offer v h g { d1 with asks := tmod 0 d.asks f.src (· - 1) }

def execFrameSend (hop : Hop) (frame : Frame) (s : State) : Host.Outcome State Fault Refusal :=
  .next (s.on (frameSendOp s.variant hop frame s.dev))

/-- FRAME_RECEIVE (R280): the oldest frame of the replay buffer reaches the receiver; `errs` are the wrong bits of its flits, header first.
Single-bit errors are corrected and counted, and the frame takes a slot and is acknowledged; with two wrong bits in a flit it is discarded
and a replay asked for. While one is asked, later frames are discarded. -/
def frameReceiveOp (v : Variant) (h : Hop) (f : Frame) (errs : List Nat) (d : Dev) : Dev :=
  let x := d.hopOf h
  match x.replay with
  | [] => d
  | g :: rest =>
    if !hopRuns v d h || x.failed || x.asked || { f with seq := g.seq } != g then d
    else if errs.all (fun n => decide (n < 2)) then
      let d1 := d.setHop h { x with replay := rest, slots := x.slots ++ [restoreFrame g], again := x.again - 1, succ := 0 }
      d1.count 0x20B5 (receiverSs h) errs.sum
    else d.setHop h { x with asked := true, succ := if x.again > 0 then x.succ + 1 else 0 }

def execFrameReceive (hop : Hop) (frame : Frame) (flitErrors : List Nat) (s : State) : Host.Outcome State Fault Refusal :=
  .next (s.on (frameReceiveOp s.variant hop frame flitErrors s.dev))

/-- FRAME_REPLAY (R280): the frame and every later frame of the hop, in the original order, with the credits they hold. -/
def frameReplayOp (v : Variant) (h : Hop) (d : Dev) : Dev :=
  let x := d.hopOf h
  if hopRuns v d h && !x.failed && x.asked && decide (x.succ < 16) then
    let d1 := d.setHop h { x with asked := false, again := x.replay.length }
    (x.replay.foldl (fun (d : Dev) g => d.emit (.fabric h g)) d1).count 0x20B6 (senderSs h) x.replay.length
  else d

def execFrameReplay (hop : Hop) (s : State) : Host.Outcome State Fault Refusal :=
  .next (s.on (frameReplayOp s.variant hop s.dev))

/-- One credit of a class comes back; the oldest waiting frame of the class takes it (R272, R273). -/
def giveCredit (h : Hop) (cls : Nat) (d : Dev) : Dev :=
  let x := d.hopOf h
  let x1 := { x with credits := setAt x.credits cls (nth 0 x.credits cls + 1) }
  match x.wait.find? (fun g => g.cls == cls) with
  | none => d.setHop h x1
  | some g => sendNow h g (d.setHop h { x1 with wait := x.wait.erase g })

/-- The oldest frame of a class leaves its slot. While the sender awaits the advertisement, no credit comes back (R282). -/
def leaveSlot (h : Hop) (cls : Nat) (d : Dev) : Dev :=
  match (d.hopOf h).slots.find? (fun g => g.cls == cls) with
  | none => d
  | some g =>
    let d1 := d.modHop h (fun x => { x with slots := x.slots.erase g, stalled := x.stalled.filter (fun c => c != cls) })
    if (d.hopOf h).awaiting then d1 else giveCredit h cls d1

/-- A frame that has come to its unit leaves its slot. -/
def deliver (h : Hop) (g : Frame) (d : Dev) : Dev := leaveSlot h g.cls (arrive g d)

/-- The oldest frame of a class waits in its slot for a credit of a hop: it is counted once (R286). -/
def stall (h : Hop) (cls : Nat) (o : Hop) (d : Dev) : Dev :=
  if (d.hopOf h).stalled.contains cls then d
  else (d.modHop h (fun x => { x with stalled := x.stalled ++ [cls] })).count 0x20B4 (senderSs o) 1

/-- A hop takes a frame of a class from the slot before it. -/
def hopTakes (v : Variant) (d : Dev) (cls : Nat) (o : Hop) : Bool :=
  hopRuns v d o && !(d.hopOf o).failed && decide (0 < nth 0 (d.hopOf o).credits cls) &&
    (d.hopOf o).wait.all (fun g => g.cls != cls)

/-- A frame moves on from its slot (R267, R284): the next hop takes it in the order of its flow, or it stays and withholds its credit; a
frame whose destination is gone is dropped at the last hop. -/
def moveOn (v : Variant) (h : Hop) (g : Frame) (o : Hop) (d : Dev) : Dev :=
  if dropped d o g then offer v o g (leaveSlot h g.cls d)
  else if !hopTakes v d g.cls o then stall h g.cls o d
  else if inOrder v d o g then offer v o g (leaveSlot h g.cls d)
  else d

/-- Send the frames that wait while credits of their class last. -/
def drainWait (h : Hop) (d : Dev) : Dev :=
  let x := d.hopOf h
  x.wait.foldl (fun (d : Dev) g =>
    let y := d.hopOf h
    if decide (0 < nth 0 y.credits g.cls) then sendNow h g (d.setHop h { y with wait := y.wait.erase g }) else d) d

/-- The new credit advertisement after a reset of an end (R282): one credit for each free slot. A frame still in the sender's replay buffer
holds the credit that it took. -/
def advertise (h : Hop) (d : Dev) : Dev :=
  let x := d.hopOf h
  let free := (hopSlots h).zipIdx.map (fun e => e.1 - ((x.slots ++ x.replay).filter (fun g => g.cls == e.2)).length)
  drainWait h (d.setHop h { x with credits := free, awaiting := false })

/-- A unit in Hold takes no frame (R283). -/
def unitHolds (d : Dev) (t : Target) : Bool := domState d (domOf t) == .hold

/-- A link group whose transmit buffer holds a request of a class takes no more of that class (Table 10.6). -/
def groupFull (d : Dev) (t : Target) (cls : Nat) : Bool :=
  match t with
  | .group h g => d.bundles.any (fun b => b.hub = h && b.group = g && b.held.any (fun r => r.cls = cls))
  | _ => false

/-- The unit whose own end of a hop receives, where it is not a router, a spine or a switch. -/
def endUnit : Hop → Option Target
  | .switchOut h p => switchUnit h p
  | _ => none

/-- CREDIT_RETURN (R272): the oldest frame of the class leaves its slot, to its unit or on the next hop of its route. A multicast frame
that parts here leaves by MULTICAST_FORWARD. On a hop whose sender awaits the advertisement, the sideband message is that advertisement
(notes/assumptions/39.md). -/
def creditReturnOp (v : Variant) (h : Hop) (cls : Nat) (d : Dev) : Dev :=
  let x := d.hopOf h
  if !hopRuns v d h then d
  else if x.awaiting then (if (endUnit h).elim false (dropsFrames d) then d else advertise h d)
  else match x.slots.find? (fun g => g.cls == cls) with
    | none => d
    | some g =>
      if copiesOf d h g ≠ [] then d
      else match nextAfter v d h g with
        | some o => moveOn v h g o d
        | none => if (deliversTo h).elim false (fun t => unitHolds d t || groupFull d t cls) then d else deliver h g d

def execCreditReturn (hop : Hop) (cls : Nat) (s : State) : Host.Outcome State Fault Refusal :=
  .next (s.on (creditReturnOp s.variant hop cls s.dev))

/-- The wedges that a copy still serves: one that is gone is dropped at the hop into its router (R283). -/
def servedBy (d : Dev) (o : Hop) (ws : List Nat) : List Nat :=
  match deliversTo o with
  | some (.wedge f w) => if dropsFrames d (.wedge f w) then ws.filter (fun i => i != w) else ws
  | _ => ws

/-- One copy leaves. -/
def sendCopy (g : Frame) (d : Dev) (e : Hop × List Nat) : Dev :=
  let ws := servedBy d e.1 e.2
  let d1 := d.count 0x20B8 (senderSs e.1) (e.2.length - ws.length)
  if ws = [] then d1 else sendNow e.1 { g with wmask := wedgeMask ws } d1

/-- The wedge at the receiving end of a hop, where a multicast frame serves it, is in Hold. -/
def localHolds (d : Dev) (h : Hop) (g : Frame) : Bool :=
  match deliversTo h with
  | some (.wedge f w) => (maskWedges g.wmask).contains w && unitHolds d (.wedge f w)
  | _ => false

/-- MULTICAST_FORWARD (R274): the oldest frame of the class leaves its slot when every output that it needs holds a credit; each
output takes one and carries the wedges behind it. Until then it waits whole, counted once. -/
def multicastForwardOp (v : Variant) (h : Hop) (cls : Nat) (outs : List Hop) (d : Dev) : Dev :=
  match (d.hopOf h).slots.find? (fun g => g.cls == cls) with
  | none => d
  | some g =>
    let copies := copiesOf d h g
    if copies = [] ∨ hopRuns v d h = false ∨ copies.all (fun e => outs.contains e.1) = false ∨
        outs.length ≠ copies.length then d
    else match copies.find? (fun e => servedBy d e.1 e.2 != [] && !hopTakes v d cls e.1) with
      | some e => stall h cls e.1 d
      | none =>
        if localHolds d h g || !copies.all (fun e => inOrder v d e.1 { g with wmask := wedgeMask e.2 }) then d
        else leaveSlot h cls (copies.foldl (sendCopy g) d)

def execMulticastForward (hop : Hop) (cls : Nat) (outputs : List Hop) (s : State) : Host.Outcome State Fault Refusal :=
  .next (s.on (multicastForwardOp s.variant hop cls outputs s.dev))

/-- A frame that a failed hop still holds starts the new route, unless there is none, or it would pass earlier frames of its flow. -/
def reroute (v : Variant) (h : Hop) (d : Dev) (f : Frame) : Dev :=
  let os := outputsFrom v d h f
  if os = [] ∨ os.any (fun o => o.1 == h || !inOrder v d o.1 o.2) = true then d
  else os.foldl (fun d o => offer v o.1 o.2 d)
    (d.modHop h (fun y => { y with replay := y.replay.erase f, wait := y.wait.erase f }))

/-- A facet whose bridge has failed is out of service (R281): its sequencers cannot return (R255). -/
def isolateFacet (f : Nat) (d : Dev) : Dev :=
  let p := issuersIn (.facet f)
  let d1 := raiseOut p d (loseIssuers p d)
  { d1 with seq := { d1.seq with isolated := d1.seq.isolated ++ [codeOf (.facet f)] } }

/-- FABRIC_HOP_FAIL (R281): one frame has failed 16 replays in succession. The frames still held start the new route, before any
later frame of their flows; those of a hop that has failed already, which had to wait for that, try again. A failed facet bridge takes its
facet out of service. -/
def fabricHopFailOp (v : Variant) (h : Hop) (d : Dev) : Dev :=
  let x := d.hopOf h
  let again (d : Dev) : Dev := match h with
    | .facetUp _ => d
    | .facetDown _ => d
    | _ => (x.replay ++ x.wait).foldl (reroute v h) d
  if x.failed then again d
  else if x.succ < 16 then d
  else
    let d1 := (d.setHop h { x with failed := true }).post evHopFail (hopHub h) (hopUnit h) [(4, hopKey h)]
    match h with
    | .facetUp f => isolateFacet f d1
    | .facetDown f => isolateFacet f d1
    | _ => again d1

def execFabricHopFail (hop : Hop) (s : State) : Host.Outcome State Fault Refusal :=
  .next (s.on (fabricHopFailOp s.variant hop s.dev))

/-- A frame waits for a credit of a hop: at its sender, or in the slot before it. -/
def waitsFor (v : Variant) (d : Dev) (h : Hop) : Bool :=
  !(d.hopOf h).wait.isEmpty || d.hops.any (fun x => x.stalled.any (fun c => (x.slots.find? (fun g => g.cls == c)).elim false (fun g =>
    nextAfter v d x.hop g == some h || (copiesOf d x.hop g).any (fun e => e.1 == h))))

/-- FABRIC_STALL (R284): a frame has waited for a credit longer than OD 0x20B0.02 µs. -/
def fabricStallOp (v : Variant) (h : Hop) (waited : Nat) (d : Dev) : Dev :=
  if waitsFor v d h && decide (d.num 0x20B0 2 1000 < waited) then
    d.postOnce limFabricStall (hopKey h) evFabricStall (hopHub h) (hopUnit h) [(4, hopKey h)]
  else d

def execFabricStall (hop : Hop) (waited : Nat) (s : State) : Host.Outcome State Fault Refusal :=
  .next (s.on (fabricStallOp s.variant hop waited s.dev))

/-- A reset or wake of the unit at one end of a hop (R282): the receiver loses its slots, the sender its replay buffer and what
it had waiting; the sender's credits are zero until the next advertisement. -/
def hopEndLost (h : Hop) (receiver : Bool) (d : Dev) : Dev :=
  d.modHop h (fun x => { x with credits := [0, 0, 0, 0], replay := [], asked := false, again := 0, succ := 0, awaiting := true,
                                slots := if receiver then [] else x.slots, stalled := if receiver then [] else x.stalled,
                                wait := if receiver then x.wait else [] })

def execHopEndReset (hop : Hop) (receiver : Bool) (s : State) : Host.Outcome State Fault Refusal :=
  .next (s.on (if hopPresent s.variant hop then hopEndLost hop receiver s.dev else s.dev))

/-- The hops that a unit ends, with whether it is the receiver. -/
def hopEnds (t : Target) : List (Hop × Bool) :=
  let ends (sent got : List Hop) : List (Hop × Bool) := sent.map (fun h => (h, false)) ++ got.map (fun h => (h, true))
  match t with
  | .facet f =>
    let inside := ((List.range 16).map (fun w => ((List.range 5).filter (fun dir =>
      (neighbour (16 * f + w) dir).isSome || (dir = 4 && decide (w < 4)))).map (fun dir => Hop.lattice (16 * f + w) dir))).flatten ++
        (List.range 4).map (fun c => Hop.spineDown f c)
    ends (inside ++ [.facetUp f]) (inside ++ [.facetDown f])
  | .hub h =>
    let facets := List.range' (9 * h) 9
    let ports := List.range 86
    let inner := (List.range' 73 13)
    ends (facets.map Hop.facetDown ++ ports.map (Hop.switchOut h) ++ inner.map (Hop.switchIn h) ++ (otherHubs h).map (Hop.bridge h))
      (facets.map Hop.facetUp ++ ports.map (Hop.switchIn h) ++ inner.map (Hop.switchOut h) ++ (otherHubs h).map (fun k => Hop.bridge k h))
  | .mgmt => []
  | t =>
    let ps := (List.range 74).filter (fun p => switchUnit (targetHub t) p == some t)
    ends (ps.map (Hop.switchIn (targetHub t))) (ps.map (Hop.switchOut (targetHub t)))

/-- Reset of a unit at each hop that it ends (R282). -/
def resetHops (v : Variant) (t : Target) (d : Dev) : Dev :=
  ((hopEnds t).filter (fun e => hopPresent v e.1)).foldl (fun (d : Dev) e => hopEndLost e.1 e.2 d) d

/-- READ_REQUEST (R275): a unit reserves room for the whole dense response of `room` bytes and sends its request, which then leaves by
FRAME_SEND. Without that room it sends none. -/
def readRequestOp (v : Variant) (unit room : Nat) (d : Dev) : Dev :=
  match endpointUnit unit with
  | none => d
  | some t =>
    if targetPresent v t && !targetOffline d t && decide (16 ≤ room) && decide (room ≤ 256) && room % 16 = 0 then
      (reserveRoom unit room d).elim d (fun e => { e with asks := tmod 0 e.asks unit (· + 1) }.emit (.readReq unit))
    else d

def execReadRequest (unit room : Nat) (s : State) : Host.Outcome State Fault Refusal :=
  .next (s.on (readRequestOp s.variant unit room s.dev))

end Sys2Proof.Machine
end

