-- ==== Sys2Proof/Machine/LinkBase.lean ====
section
/-!
DEFINITION. Narsy links (ch. 12) as shared operations: frames and their headers, states, bundles, and sending.
-/
namespace Sys2Proof.Machine

open Sys2Proof

def linkHub (l : Nat) : Nat := l / 16
def linkGrp (l : Nat) : Nat := l % 16 / 8
def linkUnit (l : Nat) : BitVec 32 := codeOf (.link l)

/-- Once per second a DOWN link retries (R330). -/
def limLinkRetry : Nat := 17

/-- The link's group is in service and powered. -/
def linkServes (v : Variant) (d : Dev) (l : Nat) : Bool := linkPresent v l && !targetOffline d (.link l)
/-- Its frame layer runs: the group is in Run (R337). -/
def linkRuns (v : Variant) (d : Dev) (l : Nat) : Bool := linkServes v d l && domRuns d (domGroup (linkHub l) (linkGrp l))

/-! ### Frames (R315 to R317) -/

/-- Header bytes 0 to 11 of a data frame (Table 12.1). -/
def dataHeader (f : LinkFrame) : Bytes :=
  toLe 12 (f.op + f.cls * 2 ^ 6 + f.form * 2 ^ 8 + f.plen * 2 ^ 10 + f.dlen * 2 ^ 14 + f.poison.toNat * 2 ^ 18 + f.seq * 2 ^ 20
    + f.tag * 2 ^ 32 + f.exp * 2 ^ 44 + f.offset * 2 ^ 56)

def dataCrc (f : LinkFrame) : BitVec 32 := crc32 (dataHeader f ++ f.wire)

/-- Bytes 0 to 11 of a control frame (Table 12.2). -/
def ctlHeader (f : CtlFrame) : Bytes :=
  toLe 12 (0x3F + f.nak.toNat * 2 ^ 8 + f.ackseq * 2 ^ 9 + nth 0 f.cr 0 * 2 ^ 21 + nth 0 f.cr 1 * 2 ^ 29 + nth 0 f.cr 2 * 2 ^ 37
    + nth 0 f.cr 3 * 2 ^ 45 + f.alive.toNat * 2 ^ 53)

def ctlCrc (f : CtlFrame) : BitVec 32 := crc32 (ctlHeader f)

/-- Bytes 0 to 11 of a capability frame's header: the layout of a data frame with op 0x3E and four dense flits (R314). -/
def capHeader : Bytes := toLe 12 (0x3E + 3 * 2 ^ 10 + 3 * 2 ^ 14)

/-- The capability record (Table 12.6). -/
def capBytes (r : CapRecord) : Bytes :=
  toLe 64 ((r.vmax + r.vmin * 2 ^ 8 + r.welide.toNat * 2 ^ 24 + r.belide.toNat * 2 ^ 25 + r.atom.toNat * 2 ^ 26 + r.ident.toNat * 2 ^ 32
    + r.link * 2 ^ 96 + r.lanes.toNat * 2 ^ 104 + nth 0 r.slots 0 * 2 ^ 112 + nth 0 r.slots 1 * 2 ^ 120 + nth 0 r.slots 2 * 2 ^ 128
    + nth 0 r.slots 3 * 2 ^ 136 + r.seen.toNat * 2 ^ 144 + r.tags * 2 ^ 160 + r.resume.toNat * 2 ^ 176 + r.rxseq * 2 ^ 177) ||| r.rsv)

def capCrc (r : CapRecord) : BitVec 32 := crc32 (capHeader ++ capBytes r)

/-- The dense payload of a data frame. -/
def densePayload (f : LinkFrame) : Bytes :=
  let n := 16 * (f.dlen + 1)
  if f.form = 0 then f.wire else if f.form = 1 then restoreWords n f.wire else restoreBytes n f.wire

/-- The form, plen and wire payload of a dense payload on a link (R322): only ops 0x10 and 0x18, only forms that the peer accepts, dense
when nothing is smaller (R128). -/
def linkForm (on welide belide : Bool) (op : Nat) (p : Bytes) : Nat × Bytes :=
  if !on || !(op = 0x10 || op = 0x18) then (0, p)
  else
    let w := elideWords p
    let b := elideBytes p
    let best := if welide && (!belide || decide (w.length ≤ b.length)) then (1, w) else if belide then (2, b) else (0, p)
    if best.2.length < p.length then best else (0, p)

/-- Slots of a link's receiver (Table 12.3). -/
def linkSlots : List Nat := [32, 64, 128, 128]

def addAt (l : List Nat) (i n : Nat) : List Nat := setAt l i (nth 0 l i + n)
def subAt (l : List Nat) (i n : Nat) : List Nat := setAt l i (nth 0 l i - n)

/-! ### States (R330 to R336) -/

/-- An entry to TRAIN, counted in OD 0x341A. -/
def enterTrain (l : Nat) (d : Dev) : Dev :=
  (d.modLink l (fun x => { x with phase := .train, away := true, entered := tget 0 d.hubTimer (linkHub l), seen := false, peerSeen := false,
                                  told := false, record := none,
                                  replay := x.replay.map (fun h => { h with replays := 0 }) })).count 0x341A (l + 1) 1

/-- To RESYNC (R318, R331): control frames from alive 0. -/
def enterResync (l : Nat) (d : Dev) : Dev := d.modLink l (fun x => { x with phase := .resync, away := true, txAlive := 0, rxAlive := none })

/-- To DOWN: the link's frames are lost (R336). -/
def enterDown (l : Nat) (d : Dev) : Dev := d.modLink l (fun x => { x with phase := .down, away := true, losing := true, fresh := true })

/-- A link whose frame-layer state is gone: its group was reset or put Off (R336, R337). What the peer reported goes with it (R391). -/
def linkLost (l : Nat) (d : Dev) : Dev :=
  d.modLink l (fun x => { x with phase := .disabled, away := true, losing := x.losing || x.replay != [] || x.tags != [], fresh := true, lanes := 0,
                                 badLanes := 0, failed := [], seen := false, peerSeen := false, rxFrames := [],
                                 rxUsed := [0, 0, 0, 0], rxOwed := [0, 0, 0, 0], rxSince := 0, nakOwed := false, gap := false, rxWaits := false,
                                 told := false, record := none, peer := 0, peerLink := 0, version := 0 })

/-- A link may train: OD 0x3411 is 1 and no loop-back runs. -/
def linkEnabled (d : Dev) (l : Nat) : Bool := d.num 0x3411 (l + 1) 1 = 1 && !(d.link l).loopback

/-- A link whose group came up, or that was enabled, starts its first training (R330). -/
def startLink (v : Variant) (l : Nat) (d : Dev) : Dev :=
  if linkServes v d l && linkEnabled d l && (d.link l).phase == .disabled then enterTrain l d else d

/-- What OD 0x3411 brings about at once (R330, R340). -/
def applyEnable (v : Variant) (l : Nat) (on : Bool) (d : Dev) : Dev :=
  if on then startLink v l d else d.modLink l (fun x => { x with phase := .disabled, away := true, badLanes := 0, failed := [] })

/-- The response to a remote request comes to its requester (R326): its bytes, or the status that a poisoned one gives its job. A read
response frees the room reserved for it and stands ready for the address generator that waits for it. -/
def remoteAnswer (r : RemoteReq) (b : Bytes) (st : Option (BitVec 8)) (d : Dev) : Dev :=
  let d1 := d.emit (.remoteDone r b st.isSome)
  if r.op = 0x08 then
    { d1 with rooms := tmod [] d1.rooms r.src (freeRoom false (roundUp r.len 16)),
              remote := d1.remote.map (fun x => if x.req = r ∧ x.data = none then { x with data := some (b, st) } else x) }
  else d1

/-- A remote request that was lost, refused or waited out: a poisoned answer, and its tile fails with the status (R324, R336). -/
def failRemote (r : RemoteReq) (st : BitVec 8) (d : Dev) : Dev :=
  let d1 := remoteAnswer r [] (some st) d
  match r.tile.bind d1.tileOf with
  | some t => failTile t st d1
  | none => d1

/-- The frames of a link are lost (R336): every request whose tag is in use is answered with poison. -/
def settleLost (l : Nat) (d : Dev) : Dev :=
  let x := d.link l
  x.tags.foldl (fun (d : Dev) u => failRemote u.req stLinkDown d)
    (d.setLink l { x with replay := [], tags := [], losing := false })

/-! ### Bundles (R327 to R329) -/

def sameBundle (b : Bundle) (hub group : Nat) (peer : BitVec 64) : Bool := b.hub == hub && b.group == group && b.peer == peer
def Dev.bundle (d : Dev) (hub group : Nat) (peer : BitVec 64) : Bundle :=
  (d.bundles.find? (fun b => sameBundle b hub group peer)).getD { hub := hub, group := group, peer := peer, list := [], held := [] }
def Dev.setBundle (d : Dev) (b : Bundle) : Dev :=
  { d with bundles := if d.bundles.any (fun y => sameBundle y b.hub b.group b.peer)
      then d.bundles.map (fun y => if sameBundle y b.hub b.group b.peer then b else y) else d.bundles ++ [b] }

/-- The links of a group. -/
def groupLinks (hub group : Nat) : List Nat := (List.range 8).map (fun i => 16 * hub + 8 * group + i)

/-- Times that a link stands in a spread list: twice on 4 lanes, once on 2. -/
def laneWeight (x : Link) : Nat := if x.lanes = 0xF then 2 else 1

/-- The spread list of a bundle now: its ACTIVE members in ascending order; a link with traffic in flight joins later. -/
def spreadList (d : Dev) (b : Bundle) : List Nat :=
  ((groupLinks b.hub b.group).filter (fun l =>
    let x := d.link l
    x.phase == .active && x.peer == b.peer && (b.list.contains l || x.replay.isEmpty))).flatMap
      (fun l => List.replicate (laneWeight (d.link l)) l)

/-- A member that left ACTIVE keeps its place while it holds unacknowledged frames; it holds none once they are acknowledged, or are lost
as it goes DOWN (R328). -/
def memberSettled (x : Link) : Bool := !x.away || x.replay.isEmpty || (x.phase == .down && !x.losing)

/-- The list may be rebuilt (R328). A list that changes moves granules from link to link, so every member's frames are acknowledged first
(R329; DESIGN CHOICE, notes/assumptions/141.md). -/
def mayRebuild (d : Dev) (b : Bundle) : Bool :=
  let ms := b.list.eraseDups.map d.link
  ms.all memberSettled && (spreadList d b == b.list || ms.all (fun x => x.replay.isEmpty || (x.phase == .down && !x.losing)))

/-- A new list is due: a member has left ACTIVE and is settled, or the list of the members in ACTIVE is another. -/
def rebuildDue (d : Dev) (b : Bundle) : Bool :=
  let ms := b.list.eraseDups.map d.link
  ms.all memberSettled && (ms.any (fun x => x.away) || spreadList d b != b.list)

/-- The link on which a request of a bundle travels (R327). -/
def spreadLink (b : Bundle) (offset : Nat) : Option Nat :=
  if b.list.isEmpty then none else b.list[offset / 4096 % b.list.length]?

/-! ### Sending (R319 to R322, R325) -/

/-- Put a frame on the wire: it takes a sequence number, a credit and a place in the replay buffer. -/
def putFrame (l : Nat) (f : LinkFrame) (d : Dev) : Dev :=
  let x := d.link l
  let g : LinkFrame := { f with seq := x.txSeq }
  let g : LinkFrame := { g with crc := dataCrc g }
  ((d.setLink l { x with txSeq := (x.txSeq + 1) % 4096, credits := subAt x.credits f.cls 1,
                         replay := x.replay ++ [{ frame := g, replays := 0 }] }).emit (.linkData l g)).count 0x3416 (l + 1) 1

/-- The link can take one more frame of a class. -/
def mayPut (v : Variant) (d : Dev) (l cls : Nat) : Bool :=
  let x := d.link l
  linkRuns v d l && x.phase == .active && !x.losing && decide (x.replay.length < 512) && decide (0 < nth 0 x.credits cls)

/-- A data frame of a link with its payload formed. -/
def formLink (d : Dev) (l op cls kind rlen tag exp offset : Nat) (poison : Bool) (payload : Bytes) : LinkFrame :=
  let x := d.link l
  let p := padFlit payload
  let r := linkForm (d.num 0x3401 3 1 = 1) x.welide x.belide op p
  { kind := kind, rlen := rlen, op := op, cls := cls, form := r.1, plen := r.2.length / 16 - 1, dlen := p.length / 16 - 1,
    poison := poison, seq := 0, tag := tag, exp := exp, offset := offset, wire := r.2, crc := 0 }

/-- The lowest free tag of a link (R325: "a free tag"). -/
def freeTag (x : Link) : Option Nat := (List.range 4096).find? (fun t => x.tags.all (fun u => u.tag != t))

/-- The payload of a request: what it stores or adds, else one flit of zeros. -/
def reqPayload (r : RemoteReq) : Bytes := if r.payload.isEmpty then List.replicate 16 0 else r.payload

/-- Send a request on a link to its peer, when a credit and a tag are free. A member that has left ACTIVE takes none until the list is
rebuilt (R328), and one whose peer is another none of the old bundle (R327). -/
def sendRequest (v : Variant) (l : Nat) (r : RemoteReq) (d : Dev) : Option Dev :=
  (freeTag (d.link l)).bind (fun tag =>
    if mayPut v d l r.cls && !(d.link l).away && (d.link l).peer == r.peer then
      let f := formLink d l r.op r.cls r.kind r.len tag r.exp r.offset false (reqPayload r)
      some (putFrame l f (d.modLink l (fun x => { x with tags := x.tags ++ [{ tag := tag, req := r }] })))
    else none)

/-- A link has no credit of a class. -/
def noCredit (d : Dev) (l cls : Nat) : Bool := nth 0 (d.link l).credits cls = 0

/-- The requests that wait at a bundle for a credit of their link and were not counted before are counted in OD 0x341C (R340). -/
def countWaits (hub group : Nat) (peer : BitVec 64) (d : Dev) : Dev :=
  let b := d.bundle hub group peer
  let on (r : RemoteReq) : Option Nat := (spreadLink b r.offset).bind (fun l => if noCredit d l r.cls then some l else none)
  let new := b.held.filter (fun r => (on r).isSome && !b.waited.contains r)
  let d1 := new.foldl (fun (d : Dev) r => (on r).elim d (fun l => d.count 0x341C (l + 1) 1)) d
  if new = [] then d1 else d1.setBundle { b with waited := b.waited.filter (fun r => b.held.contains r) ++ new }

/-- Send the requests that wait at a bundle, in order; one that cannot leave holds back those of its class behind it on its link (R277,
R325). None leaves while a new list is due. -/
def drainHeld (v : Variant) (hub group : Nat) (peer : BitVec 64) (d : Dev) : Dev :=
  let b := d.bundle hub group peer
  let step (r : List RemoteReq × List (Nat × Nat) × Dev) (q : RemoteReq) : List RemoteReq × List (Nat × Nat) × Dev :=
    match spreadLink b q.offset with
    | none => (r.1 ++ [q], r.2.1, r.2.2)
    | some l =>
      if r.2.1.contains (l, q.cls) then (r.1 ++ [q], r.2.1, r.2.2)
      else match sendRequest v l q r.2.2 with
        | some d1 => (r.1, r.2.1, d1)
        | none => (r.1 ++ [q], r.2.1 ++ [(l, q.cls)], r.2.2)
  let x := b.held.foldl step ([], [], d)
  if b.held.isEmpty || b.due then d else countWaits hub group peer (x.2.2.setBundle { b with held := x.1 })

/-- Rebuild a bundle's list when R328 and R329 allow it, and let what waited leave; else a list that is due waits. -/
def rebuild (v : Variant) (hub group : Nat) (peer : BitVec 64) (d : Dev) : Dev :=
  let b := d.bundle hub group peer
  if mayRebuild d b then
    let list := spreadList d b
    let d1 := list.eraseDups.foldl (fun (d : Dev) l => d.modLink l (fun x => { x with away := false })) d
    drainHeld v hub group peer (d1.setBundle { b with list := list, due := false })
  else if rebuildDue d b then d.setBundle { b with due := true }
  else d

/-- Replay every frame of the replay buffer (R319). -/
def replayAll (l : Nat) (d : Dev) : Dev :=
  let x := d.link l
  let d1 := d.setLink l { x with replay := x.replay.map (fun h => { h with replays := h.replays + 1 }) }
  (x.replay.foldl (fun (d : Dev) h => d.emit (.linkData l h.frame)) d1).count 0x3419 (l + 1) x.replay.length

/-- Frames that an ackseq covers: those within the 2,048 values up to it. -/
def covers (ackseq seq : Nat) : Bool := decide ((ackseq + 4096 - seq) % 4096 < 2048)
def ackFrames (l ackseq : Nat) (d : Dev) : Dev :=
  d.modLink l (fun x => { x with replay := x.replay.filter (fun h => !covers ackseq h.frame.seq) })

end Sys2Proof.Machine
end

