-- ==== Sys2Proof/Machine/Links.lean ====
section
/-!
DEFINITION. The link commands of ch. 12: data, control and capability frames, timeouts, training, lanes, loss and bundles.
The writes of OD 0x3411 and OD 0x3420 are in Journal.lean.
-/
namespace Sys2Proof.Machine

open Sys2Proof

/-! ### Requests that a peer sent (R324, R326) -/

/-- The bytes that a store or add frame carries: the first `rlen` of its payload. -/
def reqBytes (f : LinkFrame) : Bytes := if f.rlen = 0 then densePayload f else (densePayload f).take f.rlen

/-- The access that a request frame asks for. -/
def frameOp (f : LinkFrame) : MemOp :=
  let p := if f.op = 0x02 then densePayload f else reqBytes f
  let words := (flitWords p).map (fun w => BitVec.ofNat 32 (leNat w))
  let v : BitVec 64 := BitVec.ofNat 64 (leNat (p.take 8))
  match f.op with
  | 0x18 => .write p
  | 0x19 => if f.kind = 1 then .addI32 words else .addF32 words
  | 0x02 =>
    (match f.kind with
     | 0 => .fetchAdd 4 v
     | 1 => .fetchAdd 8 v
     | 2 => .swap 4 v
     | 3 => .swap 8 v
     | _ => .testSet (v.toNat % 8))
  | _ => .read

/-- The bit of an export's rights that an op needs: read, store, add, atomic (R323, R362). -/
def rightOf (op : Nat) : Nat :=
  match op with
  | 0x08 => 0
  | 0x18 => 1
  | 0x19 => 2
  | _ => 3

/-- The export that admits a request frame (R324). -/
def admits (d : Dev) (f : LinkFrame) : Option Alloc :=
  let n := opLen (frameOp f) f.rlen
  d.allocs.find? (fun a => a.kind = .stack && a.live && a.export_ = f.exp && f.exp ≠ 0 && a.rights.getLsbD (rightOf f.op) &&
    decide (f.offset + n ≤ a.size))

/-- The request runs in the slice, byte range by line (R326): the bytes it found and whether it met poison. -/
def serveAccess (v : Variant) (al : Alloc) (f : LinkFrame) (d : Dev) : Bytes × Bool × Dev :=
  match frameOp f with
  | .write b => let r := devWrite v al f.offset b d; ([], r.1, r.2)
  | .read => devRead v al f.offset f.rlen d
  | .addF32 ws =>
    (ws.zipIdx).foldl (fun (r : Bytes × Bool × Dev) e =>
      let a := devAccess v al (f.offset + 4 * e.2) 4 (.addF32 [e.1]) r.2.2
      ([], r.2.1 || a.2.1, a.2.2)) ([], false, d)
  | .addI32 ws =>
    (ws.zipIdx).foldl (fun (r : Bytes × Bool × Dev) e =>
      let a := devAccess v al (f.offset + 4 * e.2) 4 (.addI32 [e.1]) r.2.2
      ([], r.2.1 || a.2.1, a.2.2)) ([], false, d)
  | op => devAccess v al f.offset (opLen op 8) op d

/-- Class of the answer to a request: a read response is class 2, an acknowledge or atomic result class 0 (Table 10.4). -/
def answerCls (op : Nat) : Nat := if op = 0x08 then 2 else 0

/-- The switch ports of a link's group. -/
def groupPorts (l : Nat) : List Nat := [53 + 2 * linkGrp l, 54 + 2 * linkGrp l]

/-- The oldest request at the receiver is applied, where an export admitted it as it arrived, or refused and counted, and its answer leaves
with the request's tag; its slot frees (R321, R324, R326). It waits, and no credit goes to the peer, while the hub's switch takes no
frame of its class (Table 10.6). An allocation that was freed waits for the last of these requests (R362). -/
def answerRequest (v : Variant) (l : Nat) (d : Dev) : Dev :=
  match (d.link l).rxFrames with
  | [] => d
  | (f, al) :: rest =>
    if !switchTakes d (linkHub l) (groupPorts l) f.cls then d
    else if !mayPut v d l (answerCls f.op) then
      (if noCredit d l (answerCls f.op) ∧ linkRuns v d l = true ∧ (d.link l).phase = .active ∧ (d.link l).rxWaits = false then
        (d.modLink l (fun x => { x with rxWaits := true })).count 0x341C (l + 1) 1
      else d)
    else
      let d1 := d.modLink l (fun x => { x with rxWaits := false, rxFrames := rest, rxUsed := subAt x.rxUsed f.cls 1, rxOwed := addAt x.rxOwed f.cls 1 })
      let op := if f.op = 0x08 then 0x10 else 0x03
      let zeros : Bytes := List.replicate 16 0
      match al.bind d.allocOf with
      | none => putFrame l (formLink d1 l op (answerCls f.op) 0 0 f.tag 0 0 true zeros) (d1.count 0x341F (l + 1) 1)
      | some al =>
        let r := serveAccess v al f d1
        let pay := if r.1.isEmpty then zeros else r.1
        settlePins (putFrame l (formLink r.2.2 l op (answerCls f.op) 0 0 f.tag 0 0 r.2.1 (if r.2.1 then zeros else pay)) r.2.2)

/-- LINK_DATA_FRAME_TX (R319, R325, R327): a request of a bundle, that of its window's group and peer, leaves on the link of its granule,
or waits in the group's transmit buffer behind those of its class and link; with no request, the oldest request of the peer is
answered. -/
def linkDataFrameTxOp (v : Variant) (l : Nat) (req : Option RemoteReq) (d : Dev) : Dev :=
  match req with
  | none => answerRequest v l d
  | some r =>
    let b := d.bundle (linkHub l) (linkGrp l) r.peer
    let hold : Dev := countWaits (linkHub l) (linkGrp l) r.peer (d.setBundle { b with held := b.held ++ [r] })
    if !linkServes v d l || r.hub ≠ linkHub l || r.group ≠ linkGrp l || !(r.op ∈ [0x02, 0x08, 0x18, 0x19]) || opClass r.op ≠ some r.cls || decide (256 < r.payload.length) then d
    else match spreadLink b r.offset with
      | none => hold
      | some k =>
        if k ≠ l then d
        else if b.due || b.held.any (fun q => q.cls = r.cls && spreadLink b q.offset == some l) then hold
        else (sendRequest v l r d).getD hold

def execLinkDataFrameTx (link : Nat) (req : Option RemoteReq) (s : State) : Host.Outcome State Fault Refusal :=
  .next (s.on (linkDataFrameTxOp s.variant link req s.dev))

/-- An answer reaches the requester: the tag frees; poison means that the peer refused the request (R324). -/
def takeAnswer (l : Nat) (f : LinkFrame) (d : Dev) : Dev :=
  match (d.link l).tags.find? (fun u => u.tag = f.tag) with
  | none => d
  | some u =>
    let d1 := d.modLink l (fun x => { x with tags := x.tags.filter (fun w => w.tag != f.tag) })
    if f.poison then failRemote u.req stRemoteDenied d1
    else
      let d2 := remoteAnswer u.req (if f.op = 0x10 then (densePayload f).take u.req.len else densePayload f) none d1
      match u.req.tile with
      | some t => if u.req.op = 0x18 ∨ u.req.op = 0x19 then ackWrite t u.req.addr d2 else d2
      | none => d2

/-- LINK_DATA_FRAME_RX (R319): the frame in order is delivered; one that fails its CRC, or comes after a missing one, is discarded and a
nak owed; a replay of one delivered is discarded silently. -/
def linkDataFrameRxOp (v : Variant) (l : Nat) (f : LinkFrame) (d0 : Dev) : Dev :=
  let d := d0.count 0x341E (l + 1) f.fec
  let x := d.link l
  if !linkRuns v d0 l || x.phase != .active || x.losing then d0
  else if f.crc ≠ dataCrc f then
    (d.setLink l { x with gap := true, nakOwed := true }).count 0x3418 (l + 1) 1
  else if f.seq = x.rxSeq then
    let req := decide (f.op ∈ [0x02, 0x08, 0x18, 0x19])
    let x1 : Link := { x with rxSeq := (x.rxSeq + 1) % 4096, gap := false, rxSince := x.rxSince + 1,
                              rxFrames := if req then x.rxFrames ++ [(f, (admits d f).map (fun a => a.handle))] else x.rxFrames,
                              rxUsed := if req then addAt x.rxUsed f.cls 1 else x.rxUsed,
                              rxOwed := if req then x.rxOwed else addAt x.rxOwed f.cls 1 }
    let d1 := (d.setLink l x1).count 0x3417 (l + 1) 1
    if req then d1 else takeAnswer l f d1
  else if (x.rxSeq + 4096 - f.seq) % 4096 ≤ 2048 then d
  else (d.setLink l { x with gap := true, nakOwed := true }).count 0x3418 (l + 1) 1

def execLinkDataFrameRx (link : Nat) (frame : LinkFrame) (s : State) : Host.Outcome State Fault Refusal :=
  .next (s.on (linkDataFrameRxOp s.variant link frame s.dev))

/-! ### Control frames (R317, R318) -/

/-- Credits that a control frame carries: those owed, in RESYNC the full count of free slots, none while the group is in Hold. -/
def ctlCredits (d : Dev) (l : Nat) : List Nat :=
  let x := d.link l
  if domState d (domGroup (linkHub l) (linkGrp l)) == .hold then [0, 0, 0, 0]
  else if x.phase == .resync then (linkSlots.zip x.rxUsed).map (fun e => e.1 - e.2)
  else x.rxOwed.map (fun n => min n 255)

/-- LINK_CONTROL_FRAME_TX (R317): after 64 data frames, after 1 µs with nothing else to send, or with a nak owed. -/
def linkControlFrameTxOp (v : Variant) (l idleUs : Nat) (d : Dev) : Dev :=
  let x := d.link l
  if !linkServes v d l || !(x.phase == .active || x.phase == .resync) then d
  else if decide (64 ≤ x.rxSince) || decide (1 ≤ idleUs) || x.nakOwed then
    let cr := ctlCredits d l
    let f : CtlFrame := { nak := x.nakOwed, ackseq := (x.rxSeq + 4095) % 4096, cr := cr, alive := x.txAlive, crc := 0 }
    let f : CtlFrame := { f with crc := ctlCrc f }
    let owed := if x.phase == .resync then [0, 0, 0, 0] else (x.rxOwed.zip cr).map (fun e => e.1 - e.2)
    (d.setLink l { x with txAlive := x.txAlive + 1, rxOwed := owed, rxSince := 0, nakOwed := false }).emit (.linkCtl l f)
  else d

def execLinkControlFrameTx (link idleUs : Nat) (s : State) : Host.Outcome State Fault Refusal :=
  .next (s.on (linkControlFrameTxOp s.variant link idleUs s.dev))

/-- The frames that wait for the link's bundle may leave now, under a new list where one is due. -/
def drainLink (v : Variant) (l : Nat) (d : Dev) : Dev :=
  let b := d.bundle (linkHub l) (linkGrp l) (d.link l).peer
  if b.due || rebuildDue d b then rebuild v (linkHub l) (linkGrp l) (d.link l).peer d
  else drainHeld v (linkHub l) (linkGrp l) (d.link l).peer d

/-- LINK_CONTROL_FRAME_RX (R318, R331). -/
def linkControlFrameRxOp (v : Variant) (l : Nat) (f : CtlFrame) (d : Dev) : Dev :=
  let x := d.link l
  let good := f.crc = ctlCrc f
  if !linkRuns v d l then d
  else if x.phase == .active then
    let want : BitVec 8 := x.rxAlive.elim 0 (· + 1)
    if !good then enterResync l d
    else if x.rxAlive = some f.alive then
      (d.count 0x341B (l + 1) 1).postOnce limLinkRepeat l evLinkRepeat (linkHub l) (linkUnit l) []
    else if f.alive ≠ want then enterResync l d
    else
      let d1 := ackFrames l f.ackseq (d.setLink l { x with rxAlive := some f.alive, credits := (x.credits.zip f.cr).map (fun e => e.1 + e.2) })
      drainLink v l (if f.nak then replayAll l d1 else d1)
  else if x.phase == .resync && good then
    let d1 := ackFrames l f.ackseq (d.setLink l { x with phase := .active, rxAlive := some f.alive, credits := f.cr })
    drainLink v l (replayAll l d1)
  else d

def execLinkControlFrameRx (link : Nat) (frame : CtlFrame) (s : State) : Host.Outcome State Fault Refusal :=
  .next (s.on (linkControlFrameRxOp s.variant link frame s.dev))

/-! ### Timeouts and retraining -/

/-- LINK_REPLAY_TIMEOUT (R319): no ackseq has covered the oldest frame for OD 0x3401.01 µs. -/
def linkReplayTimeoutOp (v : Variant) (l elapsed : Nat) (d : Dev) : Dev :=
  if linkRuns v d l && (d.link l).phase == .active && !(d.link l).replay.isEmpty && decide (d.num 0x3401 1 10 ≤ elapsed) then
    replayAll l d else d

def execLinkReplayTimeout (link elapsed : Nat) (s : State) : Host.Outcome State Fault Refusal :=
  .next (s.on (linkReplayTimeoutOp s.variant link elapsed s.dev))

/-- LINK_RETRAIN (R320): a frame has been replayed 8 times without being acknowledged. -/
def linkRetrainOp (l : Nat) (d : Dev) : Dev :=
  if (d.link l).phase == .active && (d.link l).replay.any (fun h => decide (8 ≤ h.replays)) then enterTrain l d else d

def execLinkRetrain (link : Nat) (s : State) : Host.Outcome State Fault Refusal :=
  .next (s.on (linkRetrainOp link s.dev))

/-- LINK_ALIVE_TIMEOUT (R318): a gap of more than OD 0x3401.02 µs with no valid control frame. -/
def linkAliveTimeoutOp (v : Variant) (l elapsed : Nat) (d : Dev) : Dev :=
  if linkRuns v d l && (d.link l).phase == .active && decide (d.num 0x3401 2 20 < elapsed) then enterResync l d else d

def execLinkAliveTimeout (link elapsed : Nat) (s : State) : Host.Outcome State Fault Refusal :=
  .next (s.on (linkAliveTimeoutOp s.variant link elapsed s.dev))

/-- LINK_RESYNC_TIMEOUT (R331): 100 µs in RESYNC with no valid control frame. -/
def linkResyncTimeoutOp (l elapsed : Nat) (d : Dev) : Dev :=
  if (d.link l).phase == .resync && decide (100 ≤ elapsed) then enterTrain l d else d

def execLinkResyncTimeout (link elapsed : Nat) (s : State) : Host.Outcome State Fault Refusal :=
  .next (s.on (linkResyncTimeoutOp link elapsed s.dev))

/-! ### Bring-up (R332 to R334) -/

/-- The lanes that a link uses: all 4, or the 2 lowest-numbered good ones (Table 12.5, order 2). -/
def laneMap (good : BitVec 4) : BitVec 4 :=
  if good = 0xF then 0xF
  else match (List.range 4).filter (fun i => good.getLsbD i) with
    | a :: b :: _ => BitVec.ofNat 4 (2 ^ a + 2 ^ b)
    | _ => 0

/-- LINK_TRAINING_END (R332, R335): at least 2 good lanes take the link to EXCHANGE; a lane that did not train, or was excluded, stays out.
Fewer fail the entry, and the fourth entry within 1 s to fail takes it DOWN (Table 12.4). -/
def linkTrainingEndOp (v : Variant) (l : Nat) (trained : BitVec 4) (locked : Bool) (d : Dev) : Dev :=
  let x := d.link l
  if x.phase != .train || !linkServes v d l then d
  else
    let lanes := laneMap (trained &&& ~~~x.badLanes)
    if locked && lanes != 0 then
      d.setLink l { x with phase := .exchange, lanes := lanes, badLanes := x.badLanes ||| ~~~trained }
    else
      let fails := (x.failed ++ [x.entered]).filter (fun t => decide (x.entered ≤ t + 1000000))
      let d1 := d.setLink l { x with failed := fails }
      if 4 ≤ fails.length then enterDown l (d1.modLink l (fun y => { y with failed := [] })) else enterTrain l d1

def execLinkTrainingEnd (link : Nat) (trained : BitVec 4) (locked : Bool) (s : State) : Host.Outcome State Fault Refusal :=
  .next (s.on (linkTrainingEndOp s.variant link trained locked s.dev))

/-- The event of an entry to ACTIVE (Table 12.5, order 5). -/
def postUp (l : Nat) (d : Dev) : Dev :=
  d.post (if (d.link l).lanes = 0xF then evLinkUp else evLinkDegraded) (linkHub l) (linkUnit l) []

/-- Both sides have reported seen: orders 4 and 5 of Table 12.5 (R333). The link resumes and replays from the peer's rxseq, or starts fresh
with the peer's slots as credits. It joins its bundle, and leaves that of another peer (R327). -/
def linkUp (v : Variant) (l : Nat) (rec : CapRecord) (loopNs : Nat) (d : Dev) : Dev :=
  let x := d.link l
  let resume := !x.fresh && rec.resume && rec.ident == x.peer
  let x1 : Link := { x with phase := .active, seen := true, peerSeen := true, peer := rec.ident, peerLink := rec.link,
                            version := min 1 rec.vmax, welide := rec.welide, belide := rec.belide, fresh := false,
                            txAlive := 0, rxAlive := none, record := none }
  let d0 := { d with vals := tset d.vals (odKey 0x341D (l + 1)) (toLe 4 loopNs) }
  let d1 := if resume then replayAll l (ackFrames l ((rec.rxseq + 4095) % 4096) (d0.setLink l x1))
    else d0.setLink l { x1 with txSeq := 0, rxSeq := 0, credits := rec.slots, losing := x.replay != [] || x.tags != [], rxFrames := [],
                                rxUsed := [0, 0, 0, 0], rxOwed := [0, 0, 0, 0], rxSince := 0, nakOwed := false, gap := false }
  let d2 := postUp l d1
  let d3 := if x.peer = rec.ident then d2 else rebuild v (linkHub l) (linkGrp l) x.peer d2
  rebuild v (linkHub l) (linkGrp l) rec.ident d3

/-- LINK_CAPABILITY_TX (R332, Table 12.6). With seen reported, the link is up once the peer's has come. -/
def linkCapabilityTxOp (v : Variant) (l : Nat) (d : Dev) : Dev :=
  let x := d.link l
  if x.phase == .exchange && linkRuns v d l then
    let r : CapRecord := { vmax := 1, vmin := 1, welide := true, belide := true, atom := true, ident := Config.linkIdentity, link := l,
                           lanes := x.lanes, slots := linkSlots, seen := x.seen, tags := 4096, resume := !x.fresh, rxseq := x.rxSeq }
    let d1 := (d.setLink l { x with told := x.told || x.seen }).emit (.linkCap l { r with crc := capCrc r })
    match x.seen, x.record with
    | true, some (p, loopNs) => linkUp v l p loopNs d1
    | _, _ => d1
  else d

def execLinkCapabilityTx (link : Nat) (s : State) : Host.Outcome State Fault Refusal :=
  .next (s.on (linkCapabilityTxOp s.variant link s.dev))

/-- LINK_CAPABILITY_RX (R313, R316, R332 to R334): a frame that fails its CRC is discarded; the module's own identity and a version
mismatch take the link DOWN. The record is seen; once it reports seen and so has this side, the link is up. -/
def linkCapabilityRxOp (v : Variant) (l : Nat) (rec : CapRecord) (loopNs : Nat) (d : Dev) : Dev :=
  let x := d.link l
  if x.phase != .exchange || !linkRuns v d l || rec.crc ≠ capCrc rec then d
  else if rec.ident = Config.linkIdentity then (enterDown l d).post evLinkSelf (linkHub l) (linkUnit l) []
  else if min 1 rec.vmax < max 1 rec.vmin then (enterDown l d).post evLinkVersion (linkHub l) (linkUnit l) []
  else if !rec.seen then d.setLink l { x with seen := true }
  else if x.told then linkUp v l rec loopNs d
  else d.setLink l { x with seen := true, peerSeen := true, record := some (rec, loopNs) }

def execLinkCapabilityRx (link : Nat) (rec : CapRecord) (loopNs : Nat) (s : State) : Host.Outcome State Fault Refusal :=
  .next (s.on (linkCapabilityRxOp s.variant link rec loopNs s.dev))

/-- LINK_EXCHANGE_TIMEOUT (R332): 10 ms, here in µs. -/
def linkExchangeTimeoutOp (l elapsed : Nat) (d : Dev) : Dev :=
  if (d.link l).phase == .exchange && decide (10000 ≤ elapsed) then enterTrain l d else d

def execLinkExchangeTimeout (link elapsed : Nat) (s : State) : Host.Outcome State Fault Refusal :=
  .next (s.on (linkExchangeTimeoutOp link elapsed s.dev))

/-- LINK_LANE_LOSS (R335): the link retrains without the lane. -/
def linkLaneLossOp (l lane : Nat) (d : Dev) : Dev :=
  let x := d.link l
  if x.phase == .active && decide (lane < 4) && x.lanes.getLsbD lane then
    enterTrain l (d.setLink l { x with badLanes := x.badLanes ||| BitVec.ofNat 4 (2 ^ lane) })
  else d

def execLinkLaneLoss (link lane : Nat) (s : State) : Host.Outcome State Fault Refusal :=
  .next (s.on (linkLaneLossOp link lane s.dev))

/-- LINK_DOWN_RETRY (R330): once per second a DOWN link enters TRAIN. -/
def linkDownRetryOp (v : Variant) (l : Nat) (d : Dev) : Dev :=
  let x := d.link l
  if x.phase == .down && !x.losing && linkServes v d l && linkEnabled d l && !d.marked (linkHub l) limLinkRetry l then
    enterTrain l (d.mark (linkHub l) limLinkRetry l) else d

def execLinkDownRetry (link : Nat) (s : State) : Host.Outcome State Fault Refusal :=
  .next (s.on (linkDownRetryOp s.variant link s.dev))

/-- LINK_DOWN (R336): the frames of a link that went DOWN, started fresh or was reset are lost. -/
def linkDownOp (l : Nat) (d : Dev) : Dev := if (d.link l).losing then settleLost l d else d

def execLinkDown (link : Nat) (s : State) : Host.Outcome State Fault Refusal :=
  .next (s.on (linkDownOp link s.dev))

/-! ### Bundles (R328, R329) -/

def execBundleRebuild (hub group : Nat) (peer : BitVec 64) (s : State) : Host.Outcome State Fault Refusal :=
  .next (s.on (rebuild s.variant hub group peer s.dev))

/-- BUNDLE_WAIT_EXPIRY (R329, R336): no member is ACTIVE and the frames have waited OD 0x3401.04 ms. -/
def bundleWaitExpiryOp (hub group : Nat) (peer : BitVec 64) (elapsed : Nat) (d : Dev) : Dev :=
  let b := d.bundle hub group peer
  let active := (groupLinks hub group).any (fun l => (d.link l).phase == .active && (d.link l).peer == peer)
  if !active && !b.held.isEmpty && decide (d.num 0x3401 4 1000 ≤ elapsed) then
    b.held.foldl (fun (d : Dev) r => failRemote r stLinkDown d) (d.setBundle { b with held := [] })
  else d

def execBundleWaitExpiry (hub group : Nat) (peer : BitVec 64) (elapsed : Nat) (s : State) :
    Host.Outcome State Fault Refusal :=
  .next (s.on (bundleWaitExpiryOp hub group peer elapsed s.dev))

end Sys2Proof.Machine
end

