-- ==== Sys2Proof/Machine/Resets.lean ====
section
/-!
DEFINITION. What resets and wakes clear, unit by unit (R33, R73, R107, R144, R156, R163, R259, R297, R305, R336, R381, R382, R455), the
deferral of R249, and the loss of a whole module's work (R485, Table 18.5).
-/
namespace Sys2Proof.Machine

open Sys2Proof

/-! ### Wedges -/

/-- A reset of a wedge: tiles on it and its sequencer's claims are lost, its tracker entries and inboxes cleared; banks, their states and
the correction store stay (R33, R73, R107, R252, R259). -/
def resetWedge (w : Nat) (d : Dev) : Dev :=
  let d1 := loseIssuers (fun c => c == w) (loseTiles (fun t => t.onWedge w) (fun c => c == w) d)
  let d2 := (d1.setQuant w {}).modWedge w (fun x => { x with inbox := [], tiles := [] })
  d2.setSbank w { (d2.sbank w) with reqs := [] }

/-- What a wedge's macros keep when their banks are cleared: the slot of a retired macro and its group until it is restored. -/
def Macro.afterOff (x : Macro) : Macro := { ({} : Macro) with spare := x.spare, oos := x.oos, unread := x.unread }

/-- A wake of a wedge from Off: the clears of Table 15.3. Its banks are Empty, bank A active, its macros uncalibrated; the LFSR restarts
from the event sequence (R135). Its scratchpad is cleared by SCRATCHPAD_WAKE_CLEAR. Until its next tile issue its reads take the guard band
that OD 0x2000.01 holds at the wake (DESIGN CHOICE, notes/assumptions/148.md). -/
def wakeWedge (w : Nat) (d : Dev) : Dev :=
  let d1 := dropAllRepairs (fun m => m / 192 = w) (resetWedge w d)
  let macros := d1.macros.filterMap (fun e =>
    if e.1 / 192 = w then (let x : Macro := { e.2.afterOff with group := e.2.group }; if x = {} then none else some (e.1, x)) else some e)
  let d2 := { d1 with macros := macros }
  let seed := BitVec.ofNat 32 (tget 0 d2.log.hseq (hubOfWedge w))
  let d3 := d2.modWedge w (fun x => { x with marks := [], uncal := true, guard := some (d2.num 0x2000 1 4), dir := [], copies := [], xoOut := [], ksSusp := [], lfsr := seed })
  d3.setSbank w { reqs := [], clearing := true, march := none }

/-- A reset of one macro slot: tiles that name the macro are lost. -/
def resetMacro (m : Nat) (d : Dev) : Dev :=
  loseTiles (fun t => (tileMacros d t.inst t.prm t.gj).contains m) (fun _ => false) d

/-! ### Stream engines -/

/-- A reset of an engine (R156, R107, R163): lanes that left the ring stay out (R157). -/
def resetEngine (e : Nat) (d : Dev) : Dev :=
  let d1 := loseTiles (fun t => t.onEngine e) (fun _ => false) d
  let out := (d1.engine e).lanes.filterMap (fun x => if x.2.inRing then none else some (x.1, { ({} : Lane) with inRing := false }))
  odLoseUnit (.engine (e / 8) (e % 8)) ((d1.setEngine e { ({} : Engine) with lanes := out }).setQuant (576 + e) {})

/-- A lane holds something of a tile. -/
def Lane.holds (l : Lane) (t : Nat) : Bool :=
  l.queue.any (fun i => i.tile = t) || l.run.elim false (fun i => i.tile = t) || l.ctxs.any (fun c => c.tile = t)

/-- A reset of one lane: the tiles that it holds are lost. -/
def resetLane (e n : Nat) (d : Dev) : Dev :=
  let l := d.lane e n
  let d1 := loseTiles (fun t => t.onEngine e && l.holds t.id) (fun _ => false) d
  d1.setLane e n { ({} : Lane) with inRing := l.inRing }

/-! ### Hub units -/

/-- A reset of a control core: its claims are lost (R252, R255). -/
def resetCore (h c : Nat) (d : Dev) : Dev :=
  let code := 0x4000 + 4 * h + c
  let d1 := loseIssuers (fun x => x == code) (loseTiles (fun _ => false) (fun x => x == code) d)
  d1.setSbank code { (d1.sbank code) with reqs := [] }

/-- A wake of a hub's control domain: control memories are cleared (Table 11.4), the current bands restart from base (R144). -/
def wakeControl (h : Nat) (d : Dev) : Dev :=
  let d1 := (List.range 4).foldl (fun (d : Dev) c =>
    (resetCore h c d).setSbank (0x4000 + 4 * h + c) { reqs := [], clearing := true, march := none }) d
  { d1 with pred := tdrop (fun k => k / 256 = h) d1.pred }

/-- A check engine's running value at its initial value; its configuration stays (R455). -/
def resetCe (n : Nat) (d : Dev) : Dev :=
  let x := d.ce n
  d.setCe n { x with run := x.cfg.init, atFrame := x.cfg.init, setNext := none, lastSeq := none, page := none, fed := 0, field := [], whole := false }

/-- The commands that run on a hub: those of its port that have started, jobs excepted (R382). -/
def runningOn (d : Dev) (h : Nat) : List Cmd := d.cmds.filter (fun c => c.port = h && c.stage = CmdStage.busy && c.opc ≠ 0x19)

/-- End a running command early: a load is abandoned, a test is forgotten. -/
def dropCommand (c : Cmd) (d : Dev) : Dev :=
  let d1 := match d.loads.find? (fun l => l.cmd = c.id) with
    | some l => abandonLoad l d
    | none => d
  { d1 with seq := { d1.seq with tests := d1.seq.tests.map (fun t => if t.cmd = some c.id then { t with cmd := none } else t) } }

/-- A reset of a hub's control domain (R382, R255, R455, R211, R282): its commands complete with UNIT_OFFLINE, its cores lose their claims,
its check engines their running values, its hops their frames, its phases their current bands (R391); its region governor starts anew but
for what it learned. What its cores lose raises an epoch once (R252). The queues stay, and its descriptor table is copied back from another
hub. `cores` are those whose reset is not deferred. -/
def resetControlOf (v : Variant) (cores : List Nat) (h : Nat) (d : Dev) : Dev :=
  let d1 := (runningOn d h).foldl (fun (d : Dev) c => (dropCommand c d).fails c.id stUnitOffline 0) d
  let lost (x : Nat) : Bool := cores.any (fun c => x == 0x4000 + 4 * h + c)
  let d2 := cores.foldl (fun (d : Dev) c => resetHops v (.core h c) (resetCore h c d)) (loseTiles (fun _ => false) lost d1)
  let d3 := (List.range 16).foldl (fun (d : Dev) i => resetHops v (.ce (16 * h + i)) (resetCe (16 * h + i) d)) d2
  let d4 := d3.modRegion h (fun r => { ({} : Region) with learnedM := r.learnedM, learnedL := r.learnedL })
  let d5 := { d4 with pow := { d4.pow with hints := d4.pow.hints.filter (fun x => x.hub ≠ h) },
                      pred := tdrop (fun k => k / 256 = h) d4.pred }
  odLoseUnit (.hub h) (resetHops v (.hub h) d5)

/-- A reset of a hub's control domain with all its cores. -/
def resetControl (v : Variant) (h : Nat) (d : Dev) : Dev := resetControlOf v [0, 1, 2, 3] h d

/-- A reset of a link (R336): it starts its first training again when it may. -/
def resetLink (v : Variant) (l : Nat) (d : Dev) : Dev := startLink v l (linkLost l d)

/-- A reset of a link group: its links' frames and those in its transmit buffer are lost. -/
def resetGroup (v : Variant) (h g : Nat) (d : Dev) : Dev :=
  let d1 := (d.bundles.filter (fun b => b.hub = h && b.group = g)).foldl (fun (d : Dev) b =>
    b.held.foldl (fun (d : Dev) r => failRemote r stLinkDown d) (d.setBundle { b with list := [], held := [] })) d
  (groupLinks h g).foldl (fun (d : Dev) l => odLoseUnit (.link l) (resetLink v l d)) (resetHops v (.group h g) d1)

/-! ### Host ports (R381, Table 13.15, R403, R497) -/

/-- The values of a port's entries that do not survive its reset, and its reader's cursor. The sample of CLKM holds until the next one (R484;
DEDUCED, notes/assumptions/167.md). -/
def losePortEntries (h : Nat) (d : Dev) : Dev :=
  let d1 := odDrop (fun i s => odOfPort h i s && (clsOf i s == .q || clsOf i s == .v)) d
  { d1 with
    log := { d1.log with select := tdel d1.log.select h, cursors := tset d1.log.cursors h d1.log.rseq },
    sec := { d1.sec with body := tdel d1.sec.body h, sigA := tdel d1.sec.sigA h, sigB := tdel d1.sec.sigB h,
                         nonce := tdel d1.sec.nonce h, report := tdel d1.sec.report h, repSigA := tdel d1.sec.repSigA h,
                         repSigB := tdel d1.sec.repSigB h } }

/-- A port reset. -/
def resetPort (h : Nat) (d : Dev) : Dev :=
  let mine := d.cmds.filter (fun c => c.port = h)
  -- jobs of the port are aborted, with no completion
  let d1 := (d.jobs.filter (fun j => j.port = h)).foldl (fun (d : Dev) j =>
    abortJobNow { j with cmd := none } (d.modJob j.id (fun x => { x with cmd := none }))) d
  -- other commands are abandoned; none writes a completion
  let d2 := mine.foldl (fun (d : Dev) c => dropCommand c d) d1
  let d3 := { d2 with cmds := d2.cmds.filter (fun c => c.port ≠ h), comps := d2.comps.filter (fun c => c.port ≠ h) }
  -- descriptors go, programs and allocations go with their last pin
  let d4 := (d3.descs.filter (fun x => x.port = h)).foldl (fun (d : Dev) x => releaseDesc x d) d3
  let d5 := settlePins { d4 with
    progs := d4.progs.map (fun p => if p.port = h then { p with doomed := true } else p),
    allocs := d4.allocs.map (fun a => if a.port = h then { a with live := false, export_ := 0 } else a) }
  let d6 := d5.setPort h { ({} : HostPort) with resetting := true }
  (losePortEntries h d6).count 0x1206 (h + 1) 1

/-- The port leaves its reset and trains (Table 16.7 order 6), at x16 and 64 GT/s, which is rate generation 6, or narrower or slower: what
the port and its host find is a free value (Table 13.1, R342; notes/assumptions/149.md). -/
def trainPort (h : Nat) (d : Dev) : Dev :=
  let w := nth 16 [16, 8, 4, 2, 1] (Config.trainWidth d.free % 5)
  let r := 1 + Config.trainRate d.free % 6
  (d.modPort h (fun x => { x with resetting := false, linkUp := true, ready := true, width := w, rate := r })).drawn

/-- The port may leave PCIe's fundamental reset: power-on has ended, its PERSTh_N is high and its reference clock runs (R486, R488). -/
def portFree (v : Variant) (d : Dev) (h : Nat) : Bool :=
  portPresent v h && d.seq.phase == .up && nth false d.seq.perstN h && nth false d.seq.refclk h && !targetOffline d (.port h)

/-- Train the port when it may. -/
def trainIfFree (v : Variant) (h : Nat) (d : Dev) : Dev :=
  if portFree v d h && !(d.port h).linkUp then trainPort h d else d

/-! ### One unit -/

/-- A reset of a facet, all that its wedges hold lost at once. -/
def resetFacet (v : Variant) (f : Nat) (d : Dev) : Dev :=
  let d1 := loseTiles (fun t => t.wedges.any (fun w => w / 16 = f)) (fun c => c / 16 = f) d
  odLoseUnit (.facet f) (resetHops v (.facet f) ((List.range 16).foldl (fun (d : Dev) w => resetWedge (16 * f + w) d) d1))

/-- A reset of a whole hub with its facets: what its units hold is lost at once (R252). -/
def resetHub (v : Variant) (h : Nat) (d : Dev) : Dev :=
  let d1 := loseTiles (fun t => t.wedges.any (fun w => hubOfWedge w = h) || t.engine.elim false (fun e => e / 8 = h))
    (fun c => issuerHub c = h) d
  let d2 := (facetsOfHub v h).foldl (fun (d : Dev) f => resetFacet v f d) d1
  let d3 := (List.range 8).foldl (fun (d : Dev) e => resetHops v (.engine h e) (resetEngine (8 * h + e) d)) d2
  let d4 := (List.range 4).foldl (fun (d : Dev) k => resetHops v (.slice h k) (resetSlice (4 * h + k) d)) d3
  let d5 := ((List.range 2).filter (groupPresent v h)).foldl (fun (d : Dev) g => resetGroup v h g d) d4
  resetHops v (.port h) (resetPort h (resetControl v h d5))

/-- Reset of a unit, with the clears of its chapter. A target of class 8 names the control domain of its hub, as in Table 16.6 and in
OD 0x4010 (DEDUCED, notes/assumptions/122.md). -/
def resetUnit (v : Variant) (t : Target) (d : Dev) : Dev :=
  match t with
  | .wedge f w => resetWedge (16 * f + w) d
  | .mac f w m => resetMacro (3072 * f + 192 * w + m) d
  | .facet f => resetFacet v f d
  | .engine h e => resetHops v (.engine h e) (resetEngine (8 * h + e) d)
  | .lane h e n => resetLane (8 * h + e) n d
  | .slice h k => resetHops v (.slice h k) (resetSlice (4 * h + k) d)
  | .core h _ => resetControl v h d
  | .stack _ _ => d
  | .link l => odLoseUnit (.link l) (resetLink v l d)
  | .group h g => resetGroup v h g d
  | .port h => resetHops v (.port h) (resetPort h d)
  | .ce n => resetHops v (.ce n) (resetCe n d)
  | .mgmt => d
  | .hub h => resetHub v h d

/-- A core holds a tile between its test-and-set and its last write (R249). -/
def coreWriting (d : Dev) (h c : Nat) : Bool := d.tiles.any (fun x => x.stage = .writing && x.actor = 0x4000 + 4 * h + c)

/-- The unit holds a tile between its test-and-set and its last write (R249). -/
def holdsWriting (d : Dev) (t : Target) : Bool :=
  d.tiles.any (fun x => x.stage = .writing &&
    (match t with
     | .wedge f w => x.onWedge (16 * f + w) || x.actor = 16 * f + w
     | .mac f w _ => x.onWedge (16 * f + w)
     | .facet f => x.wedges.any (fun w => w / 16 = f) || x.actor / 16 = f
     | .engine h e => x.onEngine (8 * h + e)
     | .lane h e _ => x.onEngine (8 * h + e)
     | .core h _ => (List.range 4).any (fun c => x.actor = 0x4000 + 4 * h + c)
     | .hub h => x.wedges.any (fun w => hubOfWedge w = h) || x.engine.elim false (fun e => e / 8 = h) || issuerHub x.actor = h
     | _ => false))

/-! ### The whole module -/

/-- Every job, command, tile, allocation, descriptor and program is gone; loads are abandoned and swaps cancelled (R485). The queues of
indices stand as at power-on (DESIGN CHOICE, notes/assumptions/150.md). -/
def loseWork (d : Dev) : Dev :=
  let d1 := d.loads.foldl (fun (d : Dev) l => abandonLoad l d) d
  let d2 := d1.tiles.foldl (fun (d : Dev) t => removeTile t d) d1
  { d2 with cmds := [], comps := [], jobs := [], tiles := [], allocs := [], allocIdx := [], usedFrames := [], descs := [], descIdx := [],
            progs := [], progIdx := [], loads := [], swaps := [], issues := [], coal := [], rooms := [], asks := [] }

/-- A check engine as after a reset of its control domain, its configuration kept. -/
def CheckEngine.afterReset (x : CheckEngine) : CheckEngine :=
  { x with run := x.cfg.init, atFrame := x.cfg.init, setNext := none, lastSeq := none, page := none, fed := 0, field := [], whole := false }

/-- A region governor as after a reset, with what it learned (class M). -/
def Region.afterReset (r : Region) : Region := { ({} : Region) with learnedM := r.learnedM, learnedL := r.learnedL }

/-- Every unit of the hubs is reset, with the port registers and links. -/
def resetHubs (d : Dev) : Dev :=
  let ports : Tab HostPort := d.ports.map (fun e => (e.1, { ({} : HostPort) with resetting := true }))
  let ces : Tab CheckEngine := d.ces.map (fun e => (e.1, e.2.afterReset))
  let wedges : Tab Wedge := d.wedges.map (fun e => (e.1, { e.2 with inbox := [], tiles := [] }))
  let regions : Tab Region := d.pow.regions.map (fun e => (e.1, e.2.afterReset))
  { d with ports := ports, engines := [], quants := [], pairs := [], hops := [], links := [], bundles := [], ces := ces, wedges := wedges,
           banks := [], mem := { d.mem with waiting := [] }, pow := { d.pow with hints := [], regions := regions } }

/-- Write back and empty every slice. -/
def resetSlices (d : Dev) : Dev := (List.range 16).foldl (fun (d : Dev) k => resetSlice k d) d

/-- Readers' cursors point after the newest record (R497). -/
def loseCursors (d : Dev) : Dev :=
  { d with log := { d.log with cursors := (List.range 5).map (fun k => (k, d.log.rseq)), select := [] } }

/-- Staging entries, nonces and reports of every source (class V). -/
def loseStaging (d : Dev) : Dev :=
  { d with sec := { d.sec with body := [], sigA := [], sigB := [], nonce := [], report := [], repSigA := [], repSigB := [] } }

/-- The hubs are held in reset and the work on the module is lost (R475, R485). -/
def holdModule (v : Variant) (d : Dev) : Dev :=
  let d1 := resetHubs (resetSlices (loseWork d))
  { d1 with seq := { d1.seq with hubHeld := hubsPresent v, mainPg := false, tests := [], deferred := [] } }

/-- Values of classes Q and V are lost (Table 14.4, module warm reset): the current bands, the tamper cause, the ROM digest and the newest
record's number among them. -/
def loseQV (d : Dev) : Dev :=
  let d1 := loseStaging (loseCursors (odDrop (fun i s => clsOf i s == .q || clsOf i s == .v) d))
  { d1 with pred := [], sec := { d1.sec with cause := 0, romShown := [] }, log := { d1.log with newest := 0 } }

/-- Main power off (Table 14.4): classes M and Q, and V but for the standby controller's own. -/
def loseMain (d : Dev) : Dev :=
  odDrop (fun i s => match odEntry i s with
    | some e => e.cls == .m || e.cls == .q || (e.cls == .v && (odByUnit i e).isSome)
    | none => true) d

/-- Contents of the main domains are lost (Table 18.5 order 2): banks and matrices, correction stores, scratchpads, caches, stacks, power
meters and timers. The remapping of granules and retired slots stays. -/
def loseContents (d : Dev) : Dev :=
  let d := dropAllRepairs (fun _ => true) d
  { d with mats := [], matIdx := .fresh 16383, matReserved := 0,
           macros := d.macros.filterMap (fun e => let x := e.2.afterOff; if x = {} then none else some (e.1, x)),
           wedges := d.wedges.filterMap (fun e => let x : Wedge := { ({} : Wedge) with spares := e.2.spares }; if x = {} then none else some (e.1, x)),
           spad := [], slots := [], pred := [], hubTimer := [], marks := d.marks.filter (fun e => decide (128 ≤ e.1)),
           mem := { d.mem with stack := [], lines := [], corr := [], waiting := [], copying := [], bad := [] },
           pow := .reset, ces := [] }

/-- Main power goes (Table 18.5 orders 1 and 2). -/
def mainDown (v : Variant) (d : Dev) : Dev :=
  let d1 := loseMain (loseContents (resetHubs (loseWork d)))
  { d1 with seq := { d1.seq with phase := .off, mainPg := false, hubHeld := hubsPresent v, unitHeld := [], isolated := [], tests := [],
                                 deferred := [] } }

end Sys2Proof.Machine
end

