-- ==== Sys2Proof/Machine/PowerStates.lean ====
section
/-!
DEFINITION. Power states (R34, R180, R297, R305, R337, R381, R429 to R433): requests, drains, transitions with what they lose and clear,
the restore of a wedge's banks and wakes on demand.
-/
namespace Sys2Proof.Machine

open Sys2Proof

/-! ### One domain's move -/

/-- What a domain does before it leaves Run for Off: a link group puts its links in DISABLED (R337). -/
def leaveRun (k : Nat) (d : Dev) : Dev :=
  match domTarget k with
  | .group h g => (groupLinks h g).foldl (fun (d : Dev) l => linkLost l d) d
  | _ => d

/-- A wake: from Off, or from Retain to a state with a supply at its point. -/
def isWake (old new : PState) : Bool := (old == .off && new != .off) || (old == .retain && (new == .run || new == .hold))

/-- The domains of a region that wake now, and whether another may (R432: 8 at once). -/
def wakesOf (d : Dev) (hub : Nat) : Nat :=
  (d.pow.doms.filter (fun e => domRegion e.1 = hub && e.2.moving.elim false (isWake e.2.st))).length
def wakeFull (d : Dev) (k : Nat) : Bool := decide (8 ≤ wakesOf d (domRegion k))

/-- A domain starts to move. Retain and Off begin with a drain; a wake is charged to its region's slope (R432). -/
def beginMove (k : Nat) (st : PState) (d : Dev) : Dev :=
  let x := d.dom k
  let d1 := d.setDom k { x with moving := some st, drained := !(st == .retain || st == .off), latest := none }
  let d2 := if st == .off then leaveRun k d1 else d1
  if isWake x.st st then d2.modRegion (domRegion k) (fun r => { r with wakes := r.wakes + 1 }) else d2

/-- A request reaches a domain: behind a transition in progress it waits, in place of any that waited before it (R433); so does a wake
while its region wakes 8 domains (R432). -/
def requestDom (st : PState) (k : Nat) (d : Dev) : Dev :=
  let x := d.dom k
  if x.moving.isSome then d.setDom k { x with latest := some st }
  else if x.st = st then (if x.latest.isSome then d.setDom k { x with latest := none } else d)
  else if isWake x.st st && wakeFull d k then d.setDom k { x with latest := some st }
  else beginMove k st d

/-- The next wake of a region that waits for room begins: that of the lowest-numbered domain (DESIGN CHOICE,
notes/assumptions/152.md). -/
def nextWake (hub : Nat) (d : Dev) : Dev :=
  match d.pow.doms.find? (fun e => domRegion e.1 = hub && e.2.moving.isNone && e.2.latest.elim false (isWake e.2.st)) with
  | some (k, x) => x.latest.elim d (fun st => requestDom st k d)
  | none => d

/-- The wedge domains and the spine of a facet, and the 17 domains of a hub. -/
def facetDoms (f : Nat) : List Nat := (List.range 17).map (fun i => 17 * f + i)
def hubDoms (v : Variant) (h : Nat) : List Nat := ((List.range 17).map (fun i => domHub h i)).filter (domPresent v)

/-! ### Requests (R429 to R431) -/

/-- A live allocation has part of itself on a hub's stacks. -/
def stacksUsed (d : Dev) (h : Nat) : Bool := d.allocs.any (fun a => a.live && a.arcs.any (fun x => x.hub = h))

/-- A live program reserves an issuer of a hub. -/
def issuersUsed (d : Dev) (h : Nat) : Bool := d.progs.any (fun p => p.issuers.any (fun i => issuerHub i.issuer = h))

/-- The state code of Table 15.4. -/
def pstateOf (n : Nat) : PState := match n with | 0 => .run | 1 => .hold | 2 => .retain | _ => .off

/-- Table 15.3 and R430: whether a unit accepts a state. -/
def acceptsState (d : Dev) (src : Source) (t : Target) (st : PState) : Bool :=
  match t with
  | .hub h =>
    (match st with
      | .run => true
      | .off => h != 0 && !stacksUsed d h && !issuersUsed d h && src != .port h
      | _ => false)
  | .facet _ => st != .retain
  | .wedge _ _ => true
  | .engine _ _ => true
  | .slice _ _ => true
  | .core _ _ => st == .run
  | .stack h _ =>
    (match st with
      | .run => true
      | .hold => false
      | .retain => (List.range 4).all (fun i => domState d (domHub h (8 + i)) == .retain || domState d (domHub h (8 + i)) == .off)
      | .off => !stacksUsed d h)
  | .group _ _ => st != .retain
  | .port h => st == .run || (st == .off && src != .port h)
  | _ => false

/-- The domains that a request moves, in its order: wedges before the spine, and the spine before them for Run; a hub's facets before its
own domains for Off (R430, R431). -/
def requestDoms (v : Variant) (t : Target) (st : PState) : List Nat :=
  match t with
  | .hub h => if st == .off then ((facetsOfHub v h).map facetDoms).flatten ++ hubDoms v h else hubDoms v h
  | .facet f => if st == .run then (facetDoms f).reverse else facetDoms f
  | t => [domOf t]

/-- A request's status: absence (R9), then a unit out of service or a hub that is Off (R11, R430), then what the tables refuse. -/
def requestStatus (v : Variant) (d : Dev) (src : Source) (t : Target) (st : PState) : BitVec 8 :=
  let isHub := match t with | .hub _ => true | _ => false
  if !targetPresent v t then stUnitAbsent
  else if targetHeld d t || (!isHub && domOff d (domControl (targetHub t))) then stUnitOffline
  else if !acceptsState d src t st then stValueRange
  else stSuccess

/-- What a write of OD 0x4010.01 does. -/
def powerEffect (v : Variant) (src : Source) (b : Bytes) (d : Dev) : BitVec 8 × Dev :=
  let n := leNat b
  match targetOf (bitsOf n 31 0) with
  | none => (stValueRange, d)
  | some t =>
    let st := pstateOf (bitsOf n 33 32)
    let rc := requestStatus v d src t st
    if rc ≠ stSuccess then (rc, d)
    else (stSuccess, (requestDoms v t st).foldl (fun (d : Dev) k => requestDom st k d) d)

/-- POWER_REQUEST. -/
def powerRequestOp (v : Variant) (r : OdReq) (d : Dev) : Dev := ownRequest v r 0x4010 (fun d => powerEffect v r.src r.value d) d

def execPowerRequest (req : OdReq) (s : State) : Host.Outcome State Fault Refusal := .next (s.on (powerRequestOp s.variant req s.dev))

/-! ### Drains (R34, R297, R432) -/

/-- All the facet domains of a hub are Off, when its control domain is on its way to Off (R430). -/
def facetsGone (v : Variant) (d : Dev) (k : Nat) : Bool :=
  if k < 612 then true
  else
    let h := (k - 612) / 17
    (d.dom (domControl h)).moving ≠ some .off || ((facetsOfHub v h).map facetDoms).flatten.all (fun j => (d.dom j).st == .off)

/-- Nothing that the domain accepted still runs. -/
def domDrained (v : Variant) (d : Dev) (k : Nat) : Bool :=
  facetsGone v d k &&
    (match domTarget k with
      | .wedge f w => (d.wedge (16 * f + w)).tiles.isEmpty && d.tiles.all (fun t => !t.onWedge (16 * f + w))
      | .facet f => (List.range 16).all (fun w => (d.dom (17 * f + w)).st == .off)
      | .engine h e => d.tiles.all (fun t => !t.onEngine (8 * h + e))
      | .slice h s => d.mem.waiting.all (fun w => w.slice != 4 * h + s)
      | _ => true)

/-- What the control cores record of a macro (R34). -/
def savedOf (x : Macro) : Saved :=
  { actB := x.actB, stA := x.bankA.st, stB := x.bankB.st, pkA := x.bankA.packing, pkB := x.bankB.packing, mA := x.bankA.matrix,
    mB := x.bankB.matrix, rbA := x.bankA.rb, cbA := x.bankA.cb, rbB := x.bankB.rb, cbB := x.bankB.cb, group := x.group }

/-- A load that writes a bank of a wedge ends with UNIT_OFFLINE (R34). -/
def endLoadsOn (w : Nat) (d : Dev) : Dev :=
  (d.loads.filter (fun l => l.writing && l.targets.any (fun t => t.1 / 192 = w))).foldl (fun (d : Dev) l =>
    (abandonLoad l d).fails l.cmd stUnitOffline 0) d

/-- The macros of a wedge that hold anything are recorded. -/
def recordWedge (w : Nat) (d : Dev) : Dev :=
  let ms := d.macros.filter (fun e => e.1 / 192 = w && (savedOf e.2 != savedOf {}))
  d.modWedge w (fun x => { x with saved := ms.foldl (fun (t : Tab Saved) (e : Nat × Macro) =>
    if (tfind t e.1).isSome then t else tset t e.1 (savedOf e.2)) x.saved })

/-- DOMAIN_DRAIN_DONE: the drain of a move to Retain or Off ends; a cache slice then writes back. -/
def drainDoneOp (v : Variant) (k : Nat) (d : Dev) : Dev :=
  let x := d.dom k
  if x.moving.isSome && !x.drained && domDrained v d k then
    let d1 := d.setDom k { x with drained := true }
    match domTarget k with
    | .slice h s => writeBackSlice (4 * h + s) d1
    | _ => d1
  else d

def execDomainDrainDone (domain : Nat) (s : State) : Host.Outcome State Fault Refusal := .next (s.on (drainDoneOp s.variant domain s.dev))

/-! ### Transitions (R429, R432) -/

/-- Jobs whose counters lie in memory that goes Off stop claiming and end with UNIT_OFFLINE (R264). -/
def loseHomes (p : Nat → Bool) (d : Dev) : Dev :=
  (d.jobs.filter (fun j => (d.progOf j.prog).elim false (fun g => g.ctrs.any (fun c => p c.home)))).foldl (fun (d : Dev) j =>
    failJob j.id stUnitOffline 0 0 0 d) d

/-- The issuers that satisfy `p` go Off: their claims are lost (R252, R255, R264). -/
def issuersOff (p : Nat → Bool) (d : Dev) : Dev := loseHomes p (raiseOut p d (loseIssuers p (loseTiles (fun _ => false) p d)))

/-- What a domain loses as it reaches Off (Table 15.3). -/
def reachOff (v : Variant) (k : Nat) (d : Dev) : Dev :=
  match domTarget k with
  | .wedge f w =>
    (issuersOff (fun c => c == 16 * f + w) (recordWedge (16 * f + w) (endLoadsOn (16 * f + w) d))).modWedge (16 * f + w)
      (fun x => { x with marks := [], dir := [], copies := [] })
  | .facet f => odLoseUnit (.facet f) (resetHops v (.facet f) d)
  | .engine h e => resetHops v (.engine h e) (resetEngine (8 * h + e) d)
  | .slice h s => resetHops v (.slice h s) (resetSlice (4 * h + s) d)
  | .stack h _ => { d with mem := { d.mem with stack := tdrop (fun a => a / 2 ^ 38 = h) d.mem.stack } }
  | .group h g => resetGroup v h g d
  | .port h => (resetHops v (.port h) (resetPort h d)).modPort h (fun x => { x with resetting := false })
  | .core h _ => issuersOff (fun c => decide (0x4000 + 4 * h ≤ c) && decide (c < 0x4000 + 4 * h + 4)) (resetControl v h d)
  | _ => d

/-- What a domain clears as it wakes from Off, its ends of hops among it (R282). -/
def wakeOff (v : Variant) (k : Nat) (d : Dev) : Dev :=
  match domTarget k with
  | .wedge f w => wakeWedge (16 * f + w) d
  | .facet f => resetHops v (.facet f) d
  | .engine h e => resetHops v (.engine h e) (resetEngine (8 * h + e) d)
  | .slice h s => resetHops v (.slice h s) (emptySlice (4 * h + s) d)
  | .group h g => (groupLinks h g).foldl (fun (d : Dev) l => startLink v l d) (resetHops v (.group h g) d)
  | .port h =>
    trainIfFree v h (resetHops v (.port h) d)
  | .core h _ => wakeControl h (resetHops v (.hub h) d)
  | _ => d

/-- What a domain loses in Retain: a cache slice its lines (Table 11.2). -/
def reachRetain (k : Nat) (d : Dev) : Dev :=
  match domTarget k with
  | .slice h s => resetSlice (4 * h + s) d
  | _ => d

/-- The order of a facet-wide request: the spine follows its wedges into Hold and precedes them into Run (R431). -/
def facetOrder (d : Dev) (k : Nat) (tgt : PState) : Bool :=
  if k < 612 then
    (if k % 17 = 16 then tgt != .hold || (List.range 16).all (fun w => (d.dom (k - 16 + w)).moving.isNone)
     else tgt != .run || (d.dom (k / 17 * 17 + 16)).moving ≠ some .run)
  else true

/-- The domain reaches its new state; the clears of Table 15.3 come with any state after Off. -/
def reachState (v : Variant) (k : Nat) (tgt : PState) (d : Dev) : Dev :=
  let x := d.dom k
  let old := x.st
  let y : Dom := if old == .off && tgt != .off then
      { x with st := tgt, moving := none, op := min 4 x.ceiling, opNext := none, credit := 0, grant := 0, collapsed := false }
    else { x with st := tgt, moving := none }
  let d1 := d.setDom k y
  let d2 := if old == .off && tgt != .off then wakeOff v k d1 else d1
  match tgt with
  | .off => reachOff v k d2
  | .retain => reachRetain k d2
  | .run => d2
  | .hold => d2

/-- POWER_TRANSITION_DONE: the transition completes; the latest request behind it then applies. -/
def transitionDoneOp (v : Variant) (k : Nat) (d : Dev) : Dev :=
  let x := d.dom k
  match x.moving with
  | none => d
  | some tgt =>
    if !x.drained || !facetOrder d k tgt || (tgt == .off && !domDrained v d k) then d
    else
      let d1 := reachState v k tgt d
      nextWake (domRegion k) (match x.latest with
        | some st => requestDom st k (d1.modDom k (fun y => { y with latest := none }))
        | none => d1)

def execPowerTransitionDone (domain : Nat) (s : State) : Host.Outcome State Fault Refusal :=
  .next (s.on (transitionDoneOp s.variant domain s.dev))

/-! ### Restoring a wedge (R34, R442, R443) -/

/-- The image part of macro `m`'s bank and the bank rewritten from it, or nothing when it cannot be read. `host` holds the reads of host
memory, by macro * 2 + (1 for bank B). -/
def restoreBank (v : Variant) (m : Nat) (b : Bool) (mat rb cb : Nat) (host : List (Nat × HostRead)) (d : Dev) : Bool × Dev :=
  match d.matOf mat with
  | none => (true, d)
  | some y =>
    let e := cb * y.rowBlocks + rb
    let n := imgMacroBytes y.packing y.source
    let key := 2 * m + b.toNat
    let r := imageRead v y (e * n) n (((host.find? (fun x => x.1 = key)).map Prod.snd).getD (.fail 0)) d
    match r.1 with
    | some img => (true, rewriteBank y (leNat img) m b r.2)
    | none => (false, r.2)

/-- The state of a bank as it was, before its words are rewritten. -/
def bankAsSaved (st : BankState) (pk : Packing) (mat rb cb : Nat) : Bank :=
  if st = .empty then {} else { ({} : Bank) with st := st, packing := pk, matrix := mat, rb := rb, cb := cb }

/-- The errors that the verify of one rewritten bank found. -/
def bankErrs (verify : List VerifyErr) (m : Nat) (b : Bool) : List (Nat × Nat) := errsOf verify (2 * m + b.toNat)

/-- Verify a rewritten bank: columns are repaired, anything else retires the slot (R442). -/
def verifyBank (m : Nat) (b : Bool) (errs : List (Nat × Nat)) (d : Dev) : Dev :=
  if mendable errs then refreshMarks m b (repairBank m b errs d) else d.modMac m (fun x => { x with retire := true })

/-- RELOAD_FAIL (R443): the logical macro goes out of service. -/
def reloadFail (m : Nat) (d : Dev) : Dev :=
  settleCal m <| (d.modMac m (fun x => { x with unread := true, loaded := false, reload := false, ckRound := 0 })).post evReloadFail (hubOfMacro m)
    (macroTarget m) []

/-- Restore one macro: bank states, active bank and group as recorded, and its Ready banks rewritten and verified. A bank that was Loading
wakes Empty: its load has ended. -/
def restoreMacro (v : Variant) (m : Nat) (s : Saved) (host : List (Nat × HostRead)) (verify : List VerifyErr) (d : Dev) : Dev :=
  let keep (st : BankState) : BankState := if st = .ready then .ready else .empty
  let d1 := d.modMac m (fun x =>
    { x with actB := s.actB, group := s.group, bankA := bankAsSaved (keep s.stA) s.pkA s.mA s.rbA s.cbA,
             bankB := bankAsSaved (keep s.stB) s.pkB s.mB s.rbB s.cbB })
  let one (b : Bool) (st : BankState) (mat rb cb : Nat) (d : Dev) : Bool × Dev :=
    if st ≠ .ready then (true, d)
    else
      let r := restoreBank v m b mat rb cb host d
      if r.1 then (true, verifyBank m b (bankErrs verify m b) r.2) else r
  let a := one false s.stA s.mA s.rbA s.cbA d1
  let b := one true s.stB s.mB s.rbB s.cbB a.2
  if a.1 && b.1 then b.2 else reloadFail m b.2

/-- The matrices that the macros of a wedge hold after the restore, each with the bank that holds it. -/
def wedgeMats (d : Dev) (w : Nat) : List Nat :=
  (((d.macros.filter (fun e => e.1 / 192 = w)).map (fun e => [e.2.bankA.matrix, e.2.bankB.matrix])).flatten.filter (· ≠ 0)).eraseDups

/-- The outlier copies of a matrix in one wedge are placed again. -/
def replaceCopies (w id : Nat) (d : Dev) : Dev :=
  match d.matOf id with
  | none => d
  | some y => placeCopies y (fun m => (d.mac m).bankB.matrix = id) w d

/-- WEDGE_WAKE_RESTORE: every macro recorded is restored, and the outlier copies of their matrices are placed again. -/
def wakeRestoreOp (v : Variant) (w : Nat) (host : List (Nat × HostRead)) (verify : List VerifyErr) (d : Dev) : Dev :=
  let saved := (d.wedge w).saved
  if saved = [] || !domRuns d (domWedge w) || targetHeld d (.wedge (w / 16) (w % 16)) || (d.sbank w).clearing then d
  else
    let d1 := saved.foldl (fun (d : Dev) (e : Nat × Saved) => restoreMacro v e.1 e.2 host verify d) d
    let d2 := d1.modWedge w (fun x => { x with saved := [] })
    (wedgeMats d2 w).foldl (fun (d : Dev) id => replaceCopies w id d) d2

def execWedgeWakeRestore (wedge : Nat) (images : List (Nat × HostRead)) (verify : List VerifyErr) (s : State) :
    Host.Outcome State Fault Refusal :=
  .next (s.on (wakeRestoreOp s.variant wedge images verify s.dev))

/-! ### Wake on demand (R433) -/

/-- The domains that the next tile of an issuer needs; any engine's for a lane tile, whose engine the issuer chooses. -/
def nextTileNeeds (v : Variant) (d : Dev) (code k : Nat) : Bool :=
  match issuerJob d code with
  | none => false
  | some (j, s) =>
    match atInst d j s, s.run with
    | some a, q :: _ =>
      let g := gridOf a.t (instUnits d a.t) (ctrB0 d a.c) (ctrB1 d a.c)
      (match gridAt g.1 g.2 (ctrLside d a.c) (ctrJlong d a.c) q with
        | none => false
        | some (_, gj) =>
          if isLaneFn a.t.func then (match domTarget k with | .engine h _ => hubPresent v h | _ => false)
          else (tileWedges d a.t a.p gj).any (fun w => domWedge w = k))
    | _, _ => false

/-- WAKE_ON_DEMAND: a tile waits for a domain in Retain, and OD 0x4012.01 is 1. -/
def wakeOnDemandOp (v : Variant) (k issuer : Nat) (d : Dev) : Dev :=
  if domState d k == .retain && (govSet d (domRegion k)).wake = 1 && nextTileNeeds v d issuer k then requestDom .run k d else d

def execWakeOnDemand (domain issuer : Nat) (s : State) : Host.Outcome State Fault Refusal :=
  .next (s.on (wakeOnDemandOp s.variant domain issuer s.dev))

end Sys2Proof.Machine
end

