-- ==== Sys2Proof/Machine/Checks.lean ====
section
/-!
DEFINITION. Background work of the macros (ch. 3 and 16): known-sum checks, reload, retirement, scrub, calibration and its marks,
uncorrectable errors of the correction store and of the check store (R77 to R79, R84, R375, R436 to R450).
-/
namespace Sys2Proof.Machine

open Sys2Proof

/-! ### Slots for background work (R450, Table 16.4) -/

/-- The unit of a logical macro. -/
def macUnit (m : Nat) : Target := .mac (m / 3072) (m / 192 % 16) (m % 192)

/-- The macro is present, in service, and its wedge's handshakes run. -/
def macServes (v : Variant) (d : Dev) (m : Nat) : Bool :=
  targetPresent v (macUnit m) && decide (m < 110592) && !targetOffline d (macUnit m) && domRuns d (domWedge (wedgeOfMacro m))

/-- No step of an issued tile is ready: no block in progress, none waiting. -/
def slotFree (d : Dev) (m : Nat) : Bool := (d.mac m).blk.isNone && (tget {} d.pairs m).paired.isEmpty

/-- A tile has begun on the macro and has not finished there. -/
def midTile (d : Dev) (m : Nat) : Bool :=
  d.tiles.any (fun t => t.stage == .issued && t.fed.any (fun e => e.1 == m) &&
    decide ((t.fed.filter (fun e => e.1 == m)).length <
      tileVecs t.inst t.gi t.b0 * (t.products.filter (serves t (d.mac m).active.matrix)).length))

/-- A forced step may run: at a tile boundary, one at each while blocks wait. -/
def forcedSlot (d : Dev) (m : Nat) : Bool :=
  (d.mac m).blk.isNone && !midTile d m && (!(d.mac m).forcedDone || (tget {} d.pairs m).paired.isEmpty)

/-- A step of rank 3 or 4 of Table 16.4 is due: a check step past its age, or a forced calibration step. -/
def forcedDue (d : Dev) (m : Nat) : Bool := ckOwed d m || ((d.mac m).cal.req && (d.mac m).cal.forced)

/-- A reload or a retirement holds the macro (rank 2). -/
def rank2 (x : Macro) : Bool := x.reload || x.retire || x.ckRound != 0

/-- A background step's energy is there. -/
def bgEnergy (d : Dev) (m : Nat) : Bool := mayStep d (domWedge (wedgeOfMacro m)) checkEnergy 1
def payBg (m : Nat) (d : Dev) : Dev :=
  draw (domWedge (wedgeOfMacro m)) checkEnergy (debit (domWedge (wedgeOfMacro m)) checkEnergy 1 d)

/-! ### Known-sum checks (R436 to R441) -/

/-- Group A: the columns that the exact lane counts in step 1 of a packing (Table 2.4); group B: the other data columns. -/
def groupA : Packing → List Nat
  | .int8 => [3, 4, 5, 6, 10, 11, 12, 13]
  | .int4 => [1, 2, 4, 5, 7, 8, 10, 11]
  | .ternary => [0, 1, 2, 3, 7, 8, 9, 10]
def groupB (p : Packing) : List Nat := (List.range 14).filter (fun c => !(groupA p).contains c)

/-- The weighted sum of the counts of a group of columns of a unit. `colErrs` lists faults as (unit, column, difference of the count). -/
def groupSum (k : Bank) (unit pat : Nat) (cols : List Nat) (colErrs : List (Nat × Nat × Int)) : Nat :=
  let one (c : Nat) : Int :=
    (2 * (c : Int) + 1) * ((k.count unit c (checkPattern pat) : Int) +
      ((colErrs.filter (fun e => e.1 = unit && e.2.1 = c)).map (fun e => e.2.2)).sum)
  (((cols.map one).sum) % 251).toNat

/-- The units that a check compares: those that hold weights or faults; every other unit counts nothing. -/
def checkUnits (k : Bank) (colErrs : List (Nat × Nat × Int)) : List Nat := (listedUnits k ++ colErrs.map (fun e => e.1)).eraseDups

/-- The sums of group A, kept by the wedge until group B. -/
def sumsA (k : Bank) (pat : Nat) (colErrs : List (Nat × Nat × Int)) : Tab Nat :=
  (checkUnits k colErrs).foldl (fun (t : Tab Nat) u => tput 0 t u (groupSum k u pat (groupA k.packing) colErrs)) []

/-- Some unit's signature differs from its reference. -/
def signatureBad (k : Bank) (pat : Nat) (sums : Tab Nat) (colErrs : List (Nat × Nat × Int)) : Bool :=
  (checkUnits k colErrs ++ sums.map Prod.fst).eraseDups.any (fun u =>
    (tget 0 sums u + groupSum k u pat (groupB k.packing) colErrs) % 251 != tget 0 k.sigs (u * 4 + pat))

/-- The guard band of a wedge's current-lane reads outside tiles: that of its last tile issue, before its first the one that main power
came up with (R48). -/
def wedgeGuard (d : Dev) (w : Nat) : Nat := ((d.wedge w).guard).getD d.guard0

/-- The current-lane reads of a group-B step: unflagged wrong reads; among all the reads the places of the ambiguous ones; how many of
those are saturated; free bits used. -/
structure CkReads where
  wrong : Nat
  amb : List Nat
  sat : Nat
  drawn : Nat
deriving DecidableEq, Repr

/-- The current-lane reads of a group-B step. `errs` lists (unit, pair, analogue error); a read without a listed error is exact. -/
def checkReads (d : Dev) (m pat : Nat) (errs : List (Nat × Nat × Rat)) : CkReads :=
  let g : Rat := mkRat (wedgeGuard d (wedgeOfMacro m) : Int) 16
  let pairs := sensePairs (d.mac m).active.packing
  errs.foldl (fun (r : CkReads) e =>
    match pairs[e.2.1]? with
    | none => r
    | some c =>
      let ex := pairExact d m d.nextTile e.1 c (checkPattern pat)
      let rd := currentRead ((ex.2 : Rat) + readError e.2.2) g (d.free + r.drawn)
      if rd.2.1 then
        { r with amb := r.amb ++ [e.1 * pairs.length + e.2.1], sat := r.sat + (if rd.2.2 then 1 else 0), drawn := r.drawn + 4 }
      else { r with wrong := r.wrong + (if rd.1 ≠ ex.2 then 1 else 0), drawn := r.drawn + 4 })
    { wrong := 0, amb := [], sat := 0, drawn := 0 }

/-- KSUM_EXACT and order 1 of Table 16.2: the tiles that name the macro are discarded, and a reload begins. A repeat mismatch in the forced
round after a reload retires the macro instead. -/
def ksumExact (m : Nat) (d : Dev) : Dev :=
  let d1 := (d.count 0x5012 (ssFacet (facetOfMacro m)) 1).post evKsumExact (hubOfMacro m) (macroTarget m) [(4, checkAge d m)]
  let d2 := loseTiles (fun t => (tileMacros d1 t.inst t.prm t.gj).contains m && t.uncommitted) (fun _ => false) d1
  d2.modMac m (fun x =>
    if x.ckRound != 0 then { x with retire := true, reload := false, ckRound := 0, ckPos := 0, ckSum := [] }
    else { x with reload := true, ckPos := 0, ckSum := [] })

/-- KSUM_CURRENT: each wrong read is counted and posted; the macro is exact-only and asks for calibration at the forced rank. -/
def ksumCurrent (m n : Nat) (d : Dev) : Dev :=
  if n = 0 then d
  else
    let d1 := (List.range n).foldl (fun (d : Dev) _ => d.post evKsumCurrent (hubOfMacro m) (macroTarget m) [])
      (d.count 0x5013 (ssFacet (facetOfMacro m)) n)
    d1.modMac m (fun x => { x with xoKsum := x.xoKsum.orElse (fun _ => some d1.nextTile), cal := { x.cal with req := true, forced := true } })

/-- The current-lane part of a check step of P2 or P3, group B (R439). -/
def checkCurrent (m pat : Nat) (errs : List (Nat × Nat × Rat)) (d : Dev) : Dev :=
  let pairs := (sensePairs (d.mac m).active.packing).length
  if pat < 2 ∨ pairs = 0 then d
  else
    let r := checkReads d m pat errs
    let d1 := (countReads m r.amb.length r.sat { d with free := d.free + r.drawn }).modMac m
      (readWindow (d.num 0x2000 2 64) (1024 * pairs) r.amb)
    ksumCurrent m r.wrong d1

/-- A check may run now: in the forced round of a reload, forced, or, with no calibration or rebuild to do (ranks 4 and 5 of Table 16.4),
in a free slot; its checks are not suspended. -/
def checkMay (v : Variant) (d : Dev) (m : Nat) : Bool :=
  let x := d.mac m
  macServes v d m && bgEnergy d m && x.active.st != .loading && !ckSuspended d m &&
    (if x.ckRound != 0 then x.blk.isNone
     else !rank2 x && (if x.ckDue then forcedSlot d m else slotFree d m && !x.cal.req && x.xoRebuild = []))

/-- The macro after a check step that found nothing at time `now`: the next step of the round, the age anew; the last step of a forced
round ends it. -/
def Macro.checked (x : Macro) (sums : Tab Nat) (now : Nat) : Macro :=
  { x with ckPos := (x.ckPos + 1) % 8, ckSum := sums, ckDue := false, forcedDone := x.forcedDone || x.ckDue, ageMs := 0, ckAt := now,
           ckRound := x.ckRound - 1, reload := if x.ckRound = 1 then false else x.reload }

/-- CHECK_STEP. `storeUe` says that the check store's signatures held an uncorrectable error: their checks are suspended (R443). -/
def checkStepOp (v : Variant) (m : Nat) (colErrs : List (Nat × Nat × Int)) (errs : List (Nat × Nat × Rat)) (storeUe : Bool) (d : Dev) :
    Dev :=
  if !checkMay v d m then d
  else
    let x := d.mac m
    let k := x.active
    let pat := x.ckPos / 2
    let ss := ssFacet (facetOfMacro m)
    let now := tget 0 d.hubTimer (hubOfMacro m)
    let d1 := (payBg m d).count 0x5010 ss 1
    let d2 := if x.ckDue then d1.count 0x5011 ss 1 else d1
    if x.ckPos % 2 = 0 then d2.modMac m (fun y => y.checked (sumsA k pat colErrs) now)
    else
      let d3 := checkCurrent m pat errs d2
      if storeUe then
        (d3.modWedge (wedgeOfMacro m) (fun g => { g with ksSusp := g.ksSusp ++ [(slotOf d m, x.actB)] })).modMac m
          (fun y => y.checked [] now)
      else if signatureBad k pat x.ckSum colErrs then ksumExact m (d3.modMac m (fun y => { y with ckDue := false }))
      else d3.modMac m (fun y => y.checked [] now)

def execCheckStep (mac : Nat) (colErrs : List (Nat × Nat × Int)) (errs : List (Nat × Nat × Rat)) (storeUe : Bool) (s : State) :
    Host.Outcome State Fault Refusal :=
  .next (s.on (checkStepOp s.variant mac colErrs errs storeUe s.dev))

/-- CHECK_AGE_EXPIRY: the check age exceeds its limit (R440). Suspended checks are not due (R443). -/
def checkAgeOp (v : Variant) (m ageMs : Nat) (d : Dev) : Dev :=
  if macServes v d m && decide (d.num 0x5000 1 4000 < ageMs) && !ckSuspended d m then
    d.modMac m (fun x => { x with ckDue := true, ageMs := ageMs, ckAt := tget 0 d.hubTimer (hubOfMacro m) })
  else d

def execCheckAgeExpiry (mac ageMs : Nat) (s : State) : Host.Outcome State Fault Refusal := .next (s.on (checkAgeOp s.variant mac ageMs s.dev))

/-- IDLE_CHECK_INTERVAL: a macro with no foreground step runs a check step (R440). -/
def idleCheckOp (v : Variant) (m elapsedUs : Nat) (d : Dev) : Dev :=
  if slotFree d m && decide (d.num 0x5000 2 10000 ≤ elapsedUs) then checkStepOp v m [] [] false d else d

def execIdleCheckInterval (mac elapsedUs : Nat) (s : State) : Host.Outcome State Fault Refusal :=
  .next (s.on (idleCheckOp s.variant mac elapsedUs s.dev))

/-! ### Reload and retirement (R441 to R447) -/

/-- Rewrite one bank of a macro from its matrix's image: done, or the image cannot be read. A bank that holds no live matrix is left. -/
def bankFromImage (v : Variant) (m : Nat) (b : Bool) (host : HostRead) (d : Dev) : Bool × Dev :=
  let k := (d.mac m).bank b
  restoreBank v m b k.matrix k.rb k.cb [(2 * m + b.toNat, host)] d

/-- MACRO_RELOAD: the active bank after a mismatch (R441), or the shadow bank after a scrub found a parity error (R448). -/
def macroReloadOp (v : Variant) (m : Nat) (host : HostRead) (verify : List VerifyErr) (d : Dev) : Dev :=
  let x := d.mac m
  let shadow := x.scrubbing && x.shadow.st == .loading
  if !macServes v d m || x.retire || x.ckRound != 0 || !(x.reload || shadow) then d
  else
    let b := if x.reload then x.actB else !x.actB
    let r := bankFromImage v m b host d
    if !r.1 then
      reloadFail m (r.2.modMac m (fun y => if x.reload then y else { y.setBank b { y.bank b with st := .ready } with scrubbing := false }))
    else
      let d1 := (r.2.count 0x5014 (ssFacet (facetOfMacro m)) 1).post evMacroReload (hubOfMacro m) (macroTarget m) []
      let errs := bankErrs verify m b
      let d2 := verifyBank m b errs d1
      let d3 := d2.modMac m (fun y => y.setBank b { y.bank b with st := .ready })
      if x.reload then
        d3.modMac m (fun y => if mendable errs then { y with ckRound := 8, ckPos := 0, ckSum := [] } else { y with reload := false })
      else d3.modMac m (fun y => { y with scrubbing := false })

def execMacroReload (mac : Nat) (image : HostRead) (verify : List VerifyErr) (s : State) : Host.Outcome State Fault Refusal :=
  .next (s.on (macroReloadOp s.variant mac image verify s.dev))

/-- A load that waits for the retirement of one of its slots ends with UNIT_OFFLINE when no spare is left (R447). -/
def endLoadsOf (m : Nat) (d : Dev) : Dev :=
  (d.loads.filter (fun l => l.writing && l.targets.any (fun t => t.1 = m))).foldl (fun (d : Dev) l =>
    (abandonLoad l d).fails l.cmd stUnitOffline 0) d

/-- A load is writing a bank. -/
def loadWrites (d : Dev) (m : Nat) (b : Bool) : Bool := d.loads.any (fun l => l.writing && l.targets.contains (m, b))

/-- A bank of the spare is written: a Ready bank from its image; any other is Empty, but one that a load is writing stays Loading, for the
load goes on to write it in the spare (R442; DEDUCED, notes/assumptions/147.md). -/
def spareBank (v : Variant) (m : Nat) (b : Bool) (host : HostRead) (verify : List VerifyErr) (d : Dev) : Bool × Dev :=
  match ((d.mac m).bank b).st with
  | .empty => (true, d.modMac m (fun y => y.setBank b {}))
  | .loading => (true, if loadWrites d m b then d else d.modMac m (fun y => { y.setBank b {} with scrubbing := false }))
  | .ready =>
    let r := bankFromImage v m b host d
    (r.1, if r.1 then verifyBank m b (bankErrs verify m b) r.2 else r.2)

/-- MACRO_RETIRE. Tiles wait while the forced round of Table 16.2 order 4 runs on the spare. -/
def macroRetireOp (v : Variant) (m : Nat) (images : List HostRead) (verify : List VerifyErr) (d : Dev) : Dev :=
  let x := d.mac m
  let w := wedgeOfMacro m
  if !x.retire || !macServes v d m then d
  else match (d.wedge w).spares with
    | [] => endLoadsOf m (spareOut m d)
    | s :: rest =>
      let old := slotOf d m
      let d1 := loseTiles (fun t => (tileMacros d t.inst t.prm t.gj).contains m && t.uncommitted) (fun _ => false) d
      let d2 := d1.modWedge w (fun g => { g with spares := rest, ksSusp := g.ksSusp.filter (fun e => e.1 ≠ old) })
      let d3 := d2.modMac m (fun y =>
        { y with spare := some s, retire := false, reload := false, ckRound := 0, ckPos := 0, ckSum := [], ckDue := false, xoRebuild := [],
                 past := [], cal := { ({} : Calib) with req := true, forced := true } })
      let d4 := (d3.fwCount 0x5016 (ssFacet (facetOfMacro m)) 4 1).post evMacroRetire (hubOfMacro m) (macroTarget m) [(1, old), (1, s)]
      let a := spareBank v m x.actB (nth (.fail 0) images 0) verify d4
      let b := spareBank v m (!x.actB) (nth (.fail 0) images 1) verify a.2
      if a.1 && b.1 then b.2.modMac m (fun y => { y with reload := true, ckRound := 8, ckPos := 0, ckSum := [] }) else reloadFail m b.2

def execMacroRetire (mac : Nat) (images : List HostRead) (verify : List VerifyErr) (s : State) : Host.Outcome State Fault Refusal :=
  .next (s.on (macroRetireOp s.variant mac images verify s.dev))

/-! ### Scrub (R448) -/

/-- The shadow bank has not been scrubbed within the period of OD 0x5002.01, in s. -/
def scrubDue (d : Dev) (m : Nat) : Bool :=
  (d.mac m).scrubAt.elim true (fun t => decide (t + d.num 0x5002 1 60 * 1000000 ≤ tget 0 d.hubTimer (hubOfMacro m)))

/-- A scrub pass may take its energy, and takes it, from the credit of its domain (R419). -/
def payScrub (m : Nat) (d : Dev) : Dev :=
  let e : Rat := (Config.scrubPj d.free : Nat)
  { (draw (domWedge (wedgeOfMacro m)) e (debit (domWedge (wedgeOfMacro m)) e 1 d)) with free := d.free + 1 }

/-- SCRUB_PASS: each row of a Ready shadow bank is read through its own path, once in a period. `flips` lists (unit, row) found with odd
parity: the bank is then Loading until its reload. -/
def scrubOp (v : Variant) (m : Nat) (flips : List (Nat × Nat)) (d : Dev) : Dev :=
  let x := d.mac m
  if !macServes v d m || x.shadow.st != .ready || !scrubDue d m || !bgEnergy d m then d
  else
    let d := payScrub m (d.modMac m (fun y => { y with scrubAt := some (tget 0 d.hubTimer (hubOfMacro m)) }))
    let bad := (flips.filter (fun e => decide (e.1 < 1024) && decide (e.2 < 32))).eraseDups
    if bad = [] then d
    else
      let d1 := bad.foldl (fun (d : Dev) _ =>
        (d.count 0x5018 (ssFacet (facetOfMacro m)) 1).post evScrubParity (hubOfMacro m) (macroTarget m) []) d
      d1.modMac m (fun y => { y.setBank (!y.actB) { y.shadow with st := .loading } with scrubbing := true })

def execScrubPass (mac : Nat) (flips : List (Nat × Nat)) (s : State) : Host.Outcome State Fault Refusal :=
  .next (s.on (scrubOp s.variant mac flips s.dev))

/-! ### Calibration (R77, R78, R375, R446, R449, R450) -/

/-- A macro that a CALIBRATE of its target is to calibrate: present and in service (R375). -/
def calibrates (v : Variant) (d : Dev) (m : Nat) : Bool :=
  targetPresent v (macUnit m) && decide (m < 110592) && !targetOffline d (macUnit m)

/-- CALIBRATE: every macro of the target that is in service is to be calibrated; one whose handshakes stand still waits for them. -/
def calibrateOp (v : Variant) (cmd : Nat) (d : Dev) : Dev :=
  match d.starting cmd 0x28 with
  | none => d
  | some c =>
    let ms := ((targetOf (bitsOf (c.P 0) 31 0)).elim [] targetMacros).filter (calibrates v d)
    if ms = [] then d.succeeds cmd 0
    else
      let d1 := ms.foldl (fun (d : Dev) m => d.modMac m (fun x => { x with cal := { x.cal with req := true } })) (d.busy cmd)
      { d1 with cmds := d1.cmds.map (fun e => if e.id = cmd then { e with waits := ms } else e) }

def execCalibrate (cmd : Nat) (s : State) : Host.Outcome State Fault Refusal := .next (s.on (calibrateOp s.variant cmd s.dev))

/-- CALIBRATION_REQUEST: the period or the drift is exceeded. `driftC` is how far the junction moved since the last calibration. -/
def calRequestOp (v : Variant) (m sinceS driftC : Nat) (d : Dev) : Dev :=
  if macServes v d m && (decide (d.num 0x5001 1 600 ≤ sinceS) || decide (d.num 0x5001 2 20 < driftC)) then
    d.modMac m (fun x => { x with cal := { x.cal with req := true }, calAgeS := sinceS })
  else d

def execCalibrationRequest (mac sinceS driftC : Nat) (s : State) : Host.Outcome State Fault Refusal :=
  .next (s.on (calRequestOp s.variant mac sinceS driftC s.dev))

/-- CALIBRATION_WAIT_EXPIRY. -/
def calWaitOp (m waitedMs : Nat) (d : Dev) : Dev :=
  if (d.mac m).cal.req && decide (d.num 0x5001 3 4000 < waitedMs) then
    d.modMac m (fun x => { x with cal := { x.cal with forced := true } })
  else d

def execCalibrationWaitExpiry (mac waitedMs : Nat) (s : State) : Host.Outcome State Fault Refusal :=
  .next (s.on (calWaitOp mac waitedMs s.dev))

/-- A calibration step may run now. -/
def calMay (v : Variant) (d : Dev) (m : Nat) : Bool :=
  let x := d.mac m
  macServes v d m && bgEnergy d m && x.cal.req && decide (x.cal.steps < 32) && !rank2 x && !ckOwed d m &&
    (if x.cal.forced then forcedSlot d m else slotFree d m)

/-- CALIBRATION_STEP. `measured` lists (unit, column, static error in bit-cell units) of what the step measured. -/
def calStepOp (v : Variant) (m : Nat) (measured : List (Nat × Nat × Rat)) (d : Dev) : Dev :=
  if !calMay v d m then d
  else
    let x := d.mac m
    let d1 := payBg m d
    let d2 := if x.cal.forced then d1.count 0x5011 (ssFacet (facetOfMacro m)) 1 else d1
    let tol := d.num 0x2001 1 2
    d2.modMac m (fun y =>
      let meas := measured.foldl (fun (t : Tab Rat) e =>
        let key := e.1 * 16 + e.2.1
        tput 0 t key (max (tget 0 t key) (absQ e.2.2))) y.cal.meas
      { y with forcedDone := y.forcedDone || y.cal.forced, cal := { y.cal with steps := y.cal.steps + 1, meas := meas, tol := if y.cal.steps = 0 then tol else y.cal.tol } })

def execCalibrationStep (mac : Nat) (measured : List (Nat × Nat × Rat)) (s : State) : Host.Outcome State Fault Refusal :=
  .next (s.on (calStepOp s.variant mac measured s.dev))

/-- The current-lane columns of a packing. -/
def senseColumns (p : Packing) : List Nat := ((sensePairs p).map (fun c => [c.1, c.2.1])).flatten

/-- The columns out of tolerance, as marks from both banks (R68, R77). -/
def outOfTol (d : Dev) (m : Nat) : List Mark :=
  let x := d.mac m
  let tol : Rat := mkRat (x.cal.tol : Int) 16
  (x.cal.meas.filter (fun e => decide (tol < e.2) && (senseColumns x.active.packing).contains (e.1 % 16) && decide (e.1 / 16 < 1024))).map
    (fun e => { dataA := x.bankA.column (e.1 / 16) (e.1 % 16), dataB := x.bankB.column (e.1 / 16) (e.1 % 16), unit := e.1 / 16,
                col := e.1 % 16 })

/-- The wedge's macros in service have all been calibrated since its wake. -/
def wedgeCalibrated (d : Dev) (w : Nat) : Bool :=
  (List.range 192).all (fun i => let x := d.mac (192 * w + i); !x.xoUncal || x.oos || x.unread)

/-- The entries of a slot after a calibration that found the columns `found` (R77, R78): an entry whose column was found stays, one whose
column was measured and not found is to be cleared at the macro's next tile issue, one of a column that the active bank's packing does
not read is left, unless the macro leaves mark overflow. -/
def keptMarks (x : Macro) (old : Tab Mark) (found : List Mark) : Tab Mark :=
  old.map (fun e =>
    match found.find? (fun k => k.unit = e.2.unit ∧ k.col = e.2.col) with
    | some k => (e.1, k)
    | none => (e.1, { e.2 with clear := e.2.clear || x.xoOver || (senseColumns x.active.packing).contains e.2.col }))

/-- The columns that a calibration newly marks. -/
def newMarks (old : Tab Mark) (found : List Mark) : List Mark :=
  found.filter (fun k => !(old.any (fun e => e.2.unit = k.unit && e.2.col = k.col)))

/-- The slot's table with the new entries in its free places, and then in those of entries to be cleared (DESIGN CHOICE,
notes/assumptions/129.md). -/
def putMarks (slot : Nat) (kept : Tab Mark) (new : List Mark) : Tab Mark :=
  let keys := (List.range 8).map (fun i => slot * 8 + i)
  let free := keys.filter (fun k => (tfind kept k).isNone) ++ keys.filter (fun k => (tfind kept k).any (fun e => e.clear))
  (free.zip new).foldl (fun (t : Tab Mark) e => tset t e.1 e.2) kept

/-- A calibration that would mark a ninth column: more than 8 found, or found beside entries that it leaves. -/
def markSpill (kept : Tab Mark) (new : List Mark) : Bool := decide (8 < (kept.filter (fun e => !e.2.clear)).length + new.length)

/-- What a calibration found takes effect for tiles issued from now on; those issued keep what governed them (R77, R78). -/
def applyCal (m : Nat) (d : Dev) : Dev :=
  let x := d.mac m
  let old := slotMarks d m
  let found := outOfTol d m
  let kept := keptMarks x old found
  let spill := markSpill kept (newMarks old found)
  let live := x.past.filter (fun e => d.tiles.any (fun t => decide (t.id < e.below)))
  let past := if d.tiles.isEmpty then [] else live ++ [{ below := d.nextTile, marks := marksFor d m d.nextTile, xoOver := x.xoOver }]
  let d1 := d.modMac m (fun y => { y with past := past, xoOver := spill })
  if spill then d1.post evMarkOverflow (hubOfMacro m) (macroTarget m) []
  else
    let slot := slotOf d m
    let put := putMarks slot kept (newMarks old found)
    d1.modWedge (wedgeOfMacro m) (fun g => { g with marks := put.foldl (fun (t : Tab Mark) e => tset t e.1 e.2) (tdrop (fun k => k / 8 = slot) g.marks) })

/-- CALIBRATION_COMPLETE: the marks follow; a macro made exact-only by mark overflow is retired while spares allow it (R446). -/
def calCompleteOp (v : Variant) (m : Nat) (d : Dev) : Dev :=
  let x := d.mac m
  if !macServes v d m || !x.cal.req || decide (x.cal.steps < 32) then d
  else
    let w := wedgeOfMacro m
    let d2 := (applyCal m d).modMac m (fun y =>
      { y with cal := { ({} : Calib) with req := false }, calAgeS := 0, xoUncal := false, xoKsum := none, recReads := 0, recAmb := 0,
               recReq := false,
               retire := y.retire || (y.xoOver && decide (d.num 0x5003 1 1 = 1) && decide (d.num 0x5003 2 1 < (d.wedge w).spares.length)) })
    let d3 := d2.count 0x5019 (ssFacet (facetOfMacro m)) 1
    let d4 := if wedgeCalibrated d3 w then d3.modWedge w (fun g => { g with uncal := false }) else d3
    settleCal m d4

def execCalibrationComplete (mac : Nat) (s : State) : Host.Outcome State Fault Refusal := .next (s.on (calCompleteOp s.variant mac s.dev))

/-! ### Uncorrectable errors of the stores (R79, R84, R443) -/

/-- The logical macro in a slot of a wedge. -/
def macroInSlot (d : Dev) (w slot : Nat) : Option Nat := ((List.range 192).map (fun i => 192 * w + i)).find? (fun m => slotOf d m = slot)

/-- CORR_ECC: of a marked-column entry (index slot * 8 + entry), or of an outlier copy, which is freed; one whose matrix is gone serves
nothing any more. -/
def corrEccOp (v : Variant) (w : Nat) (copy : Bool) (index : Nat) (d : Dev) : Dev :=
  if !(facetPresent v (w / 16)) || !domRuns d (domWedge w) then d
  else if copy then
    match tfind (d.wedge w).dir index with
    | none => d
    | some c =>
      let m := 192 * w + c.mac
      let id := ((d.mac m).bank c.bankB).matrix
      let d1 := d.modWedge w (fun g =>
        { g with dir := tdel g.dir index, copies := tdrop (fun a => a / 1024 = index) g.copies,
                 xoOut := if id = 0 || g.xoOut.contains id then g.xoOut else g.xoOut ++ [id] })
      let ms := (d1.macros.map Prod.fst).filter (fun k => k / 192 = w && id ≠ 0 && (d1.mac k).active.matrix = id && !(d.wedge w).xoOut.contains id)
      (ms.foldl (fun (d : Dev) k => startResidues k d) d1).post evCorrEcc (hubOfWedge w) (macroTarget m) []
  else
    match tfind (d.wedge w).marks index, macroInSlot d w (index / 8) with
    | some _, some m =>
      (d.modMac m (fun x => { x with xoRebuild := if x.xoRebuild.any (fun e => e.1 = index % 8) then x.xoRebuild
                                                else x.xoRebuild ++ [(index % 8, d.nextTile)] })).post
        evCorrEcc (hubOfWedge w) (macroTarget m) []
    | _, _ => d

def execCorrEcc (wedge : Nat) (copy : Bool) (index : Nat) (s : State) : Host.Outcome State Fault Refusal :=
  .next (s.on (corrEccOp s.variant wedge copy index s.dev))

/-- MARKED_ENTRY_REBUILD: the entry is written from both banks, in a free slot, behind the work of ranks 2 to 4 of Table 16.4. -/
def rebuildEntryOp (v : Variant) (m index : Nat) (d : Dev) : Dev :=
  let x := d.mac m
  if !macServes v d m || !x.xoRebuild.any (fun e => e.1 = index) || !slotFree d m || rank2 x || forcedDue d m then d
  else
    let key := slotOf d m * 8 + index
    let d1 := d.modWedge (wedgeOfMacro m) (fun g => { g with marks := match tfind g.marks key with
      | none => g.marks
      | some k => tset g.marks key { k with dataA := x.bankA.column k.unit k.col, dataB := x.bankB.column k.unit k.col } })
    d1.modMac m (fun y => { y with xoRebuild := y.xoRebuild.filter (fun e => e.1 ≠ index) })

def execMarkedEntryRebuild (mac index : Nat) (s : State) : Host.Outcome State Fault Refusal :=
  .next (s.on (rebuildEntryOp s.variant mac index s.dev))

/-- CHECK_STORE_RECOMPUTE: the signatures of a suspended bank are computed again from its image. -/
def recomputeOp (v : Variant) (m : Nat) (b : Bool) (host : HostRead) (d : Dev) : Dev :=
  let w := wedgeOfMacro m
  if !macServes v d m || !(d.wedge w).ksSusp.contains (slotOf d m, b) then d
  else
    let k := (d.mac m).bank b
    let resume (d : Dev) : Dev := d.modWedge w (fun g => { g with ksSusp := g.ksSusp.filter (fun e => e ≠ (slotOf d m, b)) })
    match d.matOf k.matrix with
    | none => resume (d.modMac m (fun x => x.setBank b (x.bank b).withSigs))
    | some y =>
      let e := k.cb * y.rowBlocks + k.rb
      let n := imgMacroBytes y.packing y.source
      let r := imageRead v y (e * n) n host d
      match r.1 with
      | none => reloadFail m r.2
      | some img => resume (r.2.modMac m (fun x => x.setBank b { x.bank b with sigs := (bankOf y (leNat img) e).sigs }))

def execCheckStoreRecompute (mac : Nat) (bankB : Bool) (image : HostRead) (s : State) : Host.Outcome State Fault Refusal :=
  .next (s.on (recomputeOp s.variant mac bankB image s.dev))

end Sys2Proof.Machine
end

