-- ==== Sys2Proof/Machine/EventLog.lean ====
section
/-!
DEFINITION. The event log (R461, R462), the fixed intervals of rate limits (R496) and the wall time.
-/
namespace Sys2Proof.Machine

open Sys2Proof

/-- The bytes of an event record (Table 16.9). -/
def eventBytes (rseq : BitVec 32) (e : Event) : Bytes :=
  toLe 4 rseq.toNat ++ toLe 2 e.code.toNat ++ toLe 2 e.hub ++ toLe 4 e.hseq.toNat ++ toLe 4 e.unit.toNat ++ toLe 6 e.time ++ toLe 2 0 ++
    padTo 24 (e.detail.take 24)

/-- Records that the ring no longer holds: the oldest in it has the next sequence number. -/
def Log.gone (l : Log) : Nat := l.rseq - l.ring.length

/-- Records after a reader's cursor: readers 0 to 3 are the ports, 4 is the management port. -/
def Log.behind (l : Log) (k : Nat) : Bool := decide (tget 0 l.cursors k < l.rseq)

/-- Vector 16 to a port whose cursor is behind and whose OD 0x5802 is 1, once per 100 µs of the standby timer. -/
def signalLog (p : Nat) (d : Dev) : Dev :=
  if d.num 0x5802 (p + 1) 1 = 1 ∧ d.log.behind p = true ∧ d.marked 4 limLogVector p = false then
    (d.mark 4 limLogVector p).msix p 16
  else d

def signalLogs (v : Variant) (d : Dev) : Dev :=
  ((List.range 4).filter (portPresent v)).foldl (fun (d : Dev) p => signalLog p d) d

/-- The next record of a hub on its way to the ring. -/
def takeEvent (hub : Nat) : List Event → Option (Event × List Event)
  | [] => none
  | e :: l => if e.hub = hub then some (e, l) else (takeEvent hub l).map (fun r => (r.1, e :: r.2))

/-- EVENT_POST: the oldest record of a hub arrives. At most 1,000 records are accepted in an interval of one second; the ring holds 512. -/
def eventPostOp (v : Variant) (hub : Nat) (d : Dev) : Dev :=
  if !d.seq.stbyUp then d
  else match takeEvent hub d.log.way with
    | none => d
    | some (e, rest) =>
      let d1 := { d with log := { d.log with way := rest } }
      if 1000 ≤ d1.log.acceptedNow then d1.count 0x5803 1 1
      else
        let ring := d1.log.ring ++ [(BitVec.ofNat 32 (d1.log.rseq + 1), e)]
        signalLogs v { d1 with log := { d1.log with ring := if 512 < ring.length then ring.drop 1 else ring, rseq := d1.log.rseq + 1, newest := d1.log.rseq + 1,
                                                    acceptedNow := d1.log.acceptedNow + 1 } }

def execEventPost (hub : Nat) (s : State) : Host.Outcome State Fault Refusal := .next (s.on (eventPostOp s.variant hub s.dev))

/-- The LOG_OVERRUN record made for one reader. -/
def overrunBytes (gone lost : Nat) : Bytes :=
  eventBytes (BitVec.ofNat 32 (gone + 1))
    { code := evLogOverrun, hub := 0, hseq := 0, unit := 0, time := 0, detail := detailOf [(4, lost)] }

/-- What a read of the ring with `room` bytes returns to reader k, and the cursor after it; `none` when a record waits and no room for one. -/
def ringRead (l : Log) (k room : Nat) : Option (Bytes × Nat) :=
  let cur := tget 0 l.cursors k
  if l.rseq ≤ cur then some ([], cur)
  else if room < 48 then none
  else
    let most := min 64 (room / 48)
    let lost := l.gone - cur
    let from_ := max cur l.gone
    let n := if lost = 0 then most else most - 1
    let recs := (l.ring.drop (from_ - l.gone)).take n
    some ((if lost = 0 then [] else overrunBytes l.gone lost) ++ (recs.map (fun r => eventBytes r.1 r.2)).flatten, from_ + recs.length)

/-- The read of OD 0x5800.sub: checks of Table 14.3, then the ring. -/
def ringRequest (v : Variant) (src : Source) (sid sub room : Nat) (d : Dev) : BitVec 8 × Bytes × Dev :=
  match odEntry 0x5800 sub with
  | none => (stOdNoEntry, [], d)
  | some e =>
    if !odPresent v 0x5800 e then (stUnitAbsent, [], d)
    else if needsSession d src sid true 0x5800 then (stAuthFailed, [], d)
    else match ringRead d.log (sub - 1) room with
      | none => (stOdLength, [], d)
      | some r => (stSuccess, r.1, { d with log := { d.log with cursors := tset d.log.cursors (sub - 1) r.2 } })

/-- EVENT_RING_READ: an OD READ of the ring. Reads over Tamjor and the mailbox are part of their message. -/
def eventRingReadOp (v : Variant) (src : Source) (cmd : Option Nat) (room : Nat) (d : Dev) : Dev :=
  match cmd with
  | none => if !odServed d then d else (ringRequest v src 0 (sourceIdx src + 1) room d).2.2
  | some id =>
    match d.starting id 0x02 with
    | none => d
    | some c =>
      if !odServed d || c.odIdx ≠ 0x5800 || (c.P 1 ≠ 0 && !hostOpen d c) then d
      else
        let r := ringRequest v (.port c.port) 0 c.odSub (if c.P 1 = 0 then 8 else c.odLen) d
        if r.1 ≠ stSuccess then r.2.2.fails id r.1 0
        else if c.P 1 = 0 then r.2.2.succeeds id 0
        else (r.2.2.toHost c.port (c.P 1) r.2.1).succeeds id r.2.1.length

def execEventRingRead (src : Source) (cmd : Option Nat) (room : Nat) (s : State) : Host.Outcome State Fault Refusal :=
  .next (s.on (eventRingReadOp s.variant src cmd room s.dev))

/-! ### Intervals (R496) -/

/-- The period of a limit in µs: CE_MISMATCH per millisecond, vector 16 per 100 µs, all others per second. -/
def limPeriod (limit : Nat) : Nat :=
  if limit = limCeMismatch then 1000 else if limit = limLogVector then 100 else 1000000

/-- LIMIT_INTERVAL_ROLLOVER: an interval of a timer ends, a hub's (0 to 3) or the standby controller's (4). -/
def rolloverOp (v : Variant) (timer periodUs : Nat) (d : Dev) : Dev :=
  if !(if timer = 4 then d.seq.stbyUp else timerRuns v d timer) then d
  else
    let d1 := { d with marks := d.marks.filter (fun e => !(e.1 / 32 = timer && limPeriod (e.1 % 32) = periodUs)) }
    if timer = 4 ∧ periodUs = 1000000 then
      { d1 with log := { d1.log with acceptedNow := 0 }, tam := { d1.tam with opensNow := 0, plainNow := 0 } }
    else if timer = 4 ∧ periodUs = 100 then signalLogs v d1
    else d1

def execLimitIntervalRollover (unit periodUs : Nat) (s : State) : Host.Outcome State Fault Refusal :=
  .next (s.on (rolloverOp s.variant unit periodUs s.dev))

/-! ### Wall time (R461) -/

/-- WALL_TIME_WRITE: the host's wall time, and H0's timer as the firmware adds it. -/
def wallTimeValue (d : Dev) (b : Bytes) : Bytes := padTo 8 (b.take 8) ++ toLe 8 (tget 0 d.hubTimer 0)

def wallTimeOp (v : Variant) (r : OdReq) (d : Dev) : Dev :=
  if r.sub ≠ 2 then d
  else ownRequest v r 0x5801 (fun d => (stSuccess, { d with vals := tset d.vals (odKey 0x5801 2) (wallTimeValue d r.value) })) d

def execWallTimeWrite (req : OdReq) (s : State) : Host.Outcome State Fault Refusal := .next (s.on (wallTimeOp s.variant req s.dev))

end Sys2Proof.Machine
end

