-- ==== Sys2Proof/Machine/SecBase.lean ====
section
/-!
DEFINITION. The wipe of the secure part, the identity key, the safe state and the end of a life-cycle change (R304, R401, R459, R465, R470,
R471, R473).
-/
namespace Sys2Proof.Machine

open Sys2Proof

/-- SECURE_WIPE (R304): the secure part of the standby scratchpad reads zero, and with it go the private key and session state (R466). -/
def secureWipe (d : Dev) : Dev :=
  { d with mem := { d.mem with stby := d.mem.stby.filter (fun e => decide (e.1 < 0xC000)) }, sec := { d.sec with key := false } }

/-- Every Tamjor session closes (R401). -/
def closeSessions (d : Dev) : Dev := { d with tam := { d.tam with sessions := [], pending := [] } }

/-- FAULT_N: low in the safe state, after an input fault, and in RETIRED (Table 18.2). -/
def driveFault (d : Dev) : Dev :=
  { d with seq := { d.seq with faultN := !(d.seq.safe || d.seq.inputFault || decide (d.sec.lcs = 3)) } }

/-- Hold every hub; the host ports leave PCIe and MAIN_PG is low. -/
def holdAll (v : Variant) (d : Dev) : Dev :=
  let d1 := holdModule v d
  { d1 with seq := { d1.seq with phase := if d1.seq.phase == .off then .off else .safe } }

/-- SAFE_STATE: only the standby domain and the management port run (R459). -/
def enterSafe (v : Variant) (d : Dev) : Dev :=
  let d1 := holdAll v d
  let d2 := driveFault { d1 with seq := { d1.seq with safe := true } }
  if d.seq.safe then d2 else d2.post evSafeState 0 0 []

/-- The module leaves the safe state: OD 0x7002.01 is cleared (R476). -/
def leaveSafe (d : Dev) : Dev := driveFault { d with seq := { d.seq with safe := false }, sec := { d.sec with cause := 0 } }

/-- KEY_FAULT: the key or the ROM digest does not match (R465, R478). -/
def keyFault (v : Variant) (d : Dev) : Dev :=
  enterSafe v ({ d with sec := { d.sec with key := false } }.post evKeyFault 0 0 [])

/-- The identity key is derived again (R465). Whether it matches is open where the command has no operand for it. -/
def deriveKey (v : Variant) (d : Dev) : Dev :=
  if Config.keyMatches d.free then { d.drawn with sec := { d.sec with key := true } } else keyFault v d.drawn

/-- Order 4 of Table 17.9: once the record of order 3 is verified and no condition is present, the identity key is derived again. -/
def finishTamper (v : Variant) (d : Dev) : Dev :=
  if d.sec.tampering && d.sec.present.isEmpty && !d.pendingP (odKey 0x7002 2) then
    deriveKey v { d with sec := { d.sec with tampering := false } }
  else d

/-- The key of an entry may be written from outside, and Table 17.6 returns it to its default (R471). -/
def returnsToDefault (v : Variant) (k : Nat) : Bool :=
  let idx := k / 256
  match odEntry idx (k % 256) with
  | some e => e.cls == .p && e.acc != .ro && (decide (idx / 256 = 0x11) || (decide (0x1400 ≤ idx) && decide (idx ≤ 0x7FFF))) &&
      odPresent v idx e
  | none => false

/-- The indices that hold a class P entry which an outside source can write. -/
def settingIdx : List Nat :=
  [0x1100, 0x1101, 0x1102, 0x1103, 0x2000, 0x2001, 0x2040, 0x2060, 0x2061, 0x2062, 0x2063, 0x207F, 0x20A0, 0x20B0, 0x3000] ++
  [0x3040, 0x3050, 0x3401, 0x3411, 0x4001, 0x4002, 0x4012, 0x4100, 0x4101, 0x5000, 0x5001, 0x5002, 0x5003, 0x7010]

/-- The entries that R471 returns to their defaults. -/
def settingKeys (v : Variant) : List Nat :=
  settingIdx.flatMap (fun i => ((List.range 256).map (odKey i)).filter (returnsToDefault v))

/-- The "Also done" column of Table 17.6. R471 writes a record of each default, whatever value is held. -/
def alsoDone (v : Variant) (old new : Nat) (d : Dev) : Dev :=
  if new = 1 then
    let d1 := [1, 2, 3, 4].foldl (fun (d : Dev) j => d.fwP 0x7010 j []) d
    if old = 2 then
      (settingKeys v).foldl (fun (d : Dev) k => d.queueP [(k, (odEntry (k / 256) (k % 256)).elim [] defaultBytes)] .other true) d1
    else d1
  else d

/-- LC_CHANGE: orders 3 to 5 of Table 17.7. -/
def finishChange (v : Variant) (old new : Nat) (d : Dev) : Dev :=
  let d1 := deriveKey v (alsoDone v old new (closeSessions (secureWipe d)))
  let d2 := d1.post evLcChange 0 0 [(1, old), (1, new)]
  if new = 3 then driveFault (holdAll v d2) else d2

/-- Order 2: the source's staging entries are cleared and requests are served again. -/
def clearStaging (src : Nat) (d : Dev) : Dev :=
  { d with sec := { d.sec with changing := false, body := tdel d.sec.body src, sigA := tdel d.sec.sigA src, sigB := tdel d.sec.sigB src } }

end Sys2Proof.Machine
end

