-- ==== Sys2Proof/Machine/Journal.lean ====
section
/-!
DEFINITION. The journal (R392 to R394, R404 to R410): records and their completion, tokens, compaction, recovery; and the class P entries
whose write is a step of its own, with the widening of a link.
-/
namespace Sys2Proof.Machine

open Sys2Proof

/-! ### Values that records bring -/

/-- Hold the value of a record. -/
def setP (key : Nat) (b : Bytes) (d : Dev) : Dev :=
  if key = odKey 0x7001 1 then { d with sec := { d.sec with lcs := leNat b } }
  else if key = odKey 0x7001 2 then { d with sec := { d.sec with lcount := leNat b } }
  else if key = odKey 0x7002 2 then { d with sec := { d.sec with tcount := leNat b } }
  else if key = odKey 0x7003 2 then { d with sec := { d.sec with boots := leNat b } }
  else d.holdP key b

/-- A written base band is in force at each hub's next issue of the phase; `old` is the base until then (R142). -/
def baseBandWritten (phase old : Nat) (d : Dev) : Dev :=
  { d with pred := (List.range 4).foldl (fun t h =>
      tmod {} t (h * 256 + phase) (fun b => { b with oldBase := some (b.oldBase.getD old) })) d.pred }

/-- A verified record: its value holds, and the settings that act at the write act (R142, R330). -/
def landP (v : Variant) (key : Nat) (b : Bytes) (d : Dev) : Dev :=
  let d1 := setP key b d
  if key / 256 = 0x3411 then applyEnable v (key % 256 - 1) (leNat b = 1) d1
  else if key / 256 = 0x2061 then baseBandWritten (key % 256) (d.num 0x2061 (key % 256) 2) d1
  else d1

/-! ### One record (R406) -/

/-- Answer whoever waits for a class P write. A life-cycle change goes on with its orders 2 to 5. -/
def settleWrite (v : Variant) (w : JWaiter) (st : BitVec 8) (d : Dev) : Dev :=
  match w with
  | .other => d
  | .tamper => if st = stSuccess then finishTamper v d else d
  | .cmd id => if st = stSuccess then d.succeeds id 0 else d.fails id st 0
  | .lifecycle src id old new =>
    if st = stSuccess then
      let d1 := clearStaging src d
      finishChange v old new (match id with | some c => d1.succeeds c 0 | none => d1)
    else
      let d1 := { d with sec := { d.sec with changing := false } }
      match id with | some c => d1.fails c st 0 | none => d1

/-- A token that was drawn for a write that is not made. -/
def giveToken (d : Dev) : Dev := { d with jour := { d.jour with tokens := min 64 (d.jour.tokens + 1) } }

/-- Complete with JOURNAL_THROTTLED the waiting writes of commands: the region is full (R409). -/
def throttleWaiting (v : Variant) (d : Dev) : Dev :=
  d.jour.waiting.foldl (fun (d : Dev) w =>
    match w.waiter with
    | .cmd id =>
      let d1 := { d with jour := { d.jour with waiting := d.jour.waiting.filter (fun x => x.waiter ≠ .cmd id) } }
      settleWrite v (.cmd id) stThrottled (if w.paid then giveToken d1 else d1)
    | _ => d) d

/-- Program the waiting write at the front, with read-back `ok`. -/
def recordStep (v : Variant) (ok : Bool) (d : Dev) : Dev :=
  match d.jour.waiting with
  | [] => d
  | w :: rest =>
    let d0 := { d with jour := { d.jour with waiting := rest } }
    if !w.paid && w.vals.all (fun e => d.heldP (e.1 / 256) (e.1 % 256) = e.2) then
      settleWrite v w.waiter stSuccess (w.vals.foldl (fun (d : Dev) e => landP v e.1 e.2 d) d0)
    else if !w.paid && d.jour.tokens = 0 then settleWrite v w.waiter stThrottled (throttle d0)
    else if !recordFits d w.vals then throttleWaiting v d
    else
      let d1 := if w.paid then d0 else takeToken d0
      if ok then
        let d2 := w.vals.foldl (fun (d : Dev) e => programRec e.1 e.2 true d) d1
        settleWrite v w.waiter stSuccess (w.vals.foldl (fun (d : Dev) e => landP v e.1 e.2 d) d2)
      else
        let d2 := ((w.vals.take 1).foldl (fun (d : Dev) e => programRec e.1 e.2 false d) d1).count 0x1400 9 1
        if w.tries + 1 < 3 then
          { d2 with jour := { d2.jour with waiting := { w with tries := w.tries + 1, paid := true } :: d2.jour.waiting } }
        else settleWrite v w.waiter stUnitOffline (d2.post evJournalFault 0 0 [])

/-- The standby controller programs records: the journal is ready, and no freeze holds them (Table 14.13 order 4). -/
def programs (d : Dev) : Bool := d.seq.stbyUp && d.jour.ready && d.jour.comp != .frozen

/-- JOURNAL_RECORD_PROGRAM. -/
def journalRecordProgramOp (v : Variant) (ok : Bool) (d : Dev) : Dev := if programs d then recordStep v ok d else d

def execJournalRecordProgram (ok : Bool) (s : State) : Host.Outcome State Fault Refusal :=
  .next (s.on (journalRecordProgramOp s.variant ok s.dev))

/-- JOURNAL_TOKEN_REFILL: a token a second, up to 64 (R407). -/
def journalTokenRefillOp (d : Dev) : Dev := if d.seq.stbyUp then giveToken d else d

def execJournalTokenRefill (s : State) : Host.Outcome State Fault Refusal := .next (s.on (journalTokenRefillOp s.dev))

/-! ### Writes that a message makes, in its own step -/

/-- Program every waiting record: a request that comes after them (R394). Whether each reads back right is open here. -/
def flushP (v : Variant) (d : Dev) : Dev :=
  (List.range (3 * d.jour.waiting.length)).foldl (fun (d : Dev) _ =>
    if d.jour.waiting = [] then d else recordStep v (Config.readsBack d.free) d.drawn) d

/-- Program a record in at most n attempts (R406), as far as the region has room (R409): the status of its write. -/
def programTries (k : Nat) (b : Bytes) : Nat → Dev → BitVec 8 × Dev
  | 0, d => (stUnitOffline, d.post evJournalFault 0 0 [])
  | n + 1, d =>
    if !recordFits d [(k, b)] then (stThrottled, d)
    else if Config.readsBack d.free then (stSuccess, programRec k b true d.drawn)
    else programTries k b n ((programRec k b false d.drawn).count 0x1400 9 1)

/-- A class P write of a Tamjor or mailbox message: its status, once its record is verified (R392, R393, R406, R407, R409). -/
def inStepP (v : Variant) (idx sub : Nat) (b : Bytes) (d : Dev) : BitVec 8 × Dev :=
  let k := odKey idx sub
  let d1 := flushP v d
  if d1.heldP idx sub = b then (stSuccess, landP v k b d1)
  else if d1.jour.tokens = 0 then (stThrottled, throttle d1)
  else if !recordFits d1 [(k, b)] then (stThrottled, d1)
  else
    let r := programTries k b 3 (takeToken d1)
    if r.1 = stSuccess then (stSuccess, landP v k b r.2) else r

/-- A class P entry with a step of its own: the checks of Table 14.3, then the record. -/
def ownP (v : Variant) (r : OdReq) (idx : Nat) (d : Dev) : Dev :=
  match r.cmd with
  | none =>
    if r.src == .firmware then ownRequest v r idx (fun d => (stSuccess, d.fwP idx r.sub r.value)) d
    else if !programs d then d
    else ownRequest v r idx (fun d => inStepP v idx r.sub r.value d) d
  | some id =>
    if !reqReady r idx d then d
    else
      let early := odWriteEarly v d r.src r.sid idx r.sub r.value.length (odNames idx r.value)
      let st := odWriteChecks v d r.src r.sid idx r.sub r.value
      if early ≠ stSuccess then d.fails id early 0
      else if reqShort r d then d.fails id stOdLength 0
      else if st ≠ stSuccess then d.fails id st 0
      else if !d.pendingP (odKey idx r.sub) && d.heldP idx r.sub = r.value then
        (landP v (odKey idx r.sub) r.value d).succeeds id 0
      else offerP id idx r.sub r.value d

/-- BASE_BAND_WRITE (R142). -/
def baseBandWriteOp (v : Variant) (r : OdReq) (d : Dev) : Dev := ownP v r 0x2061 d

def execBaseBandWrite (req : OdReq) (s : State) : Host.Outcome State Fault Refusal :=
  .next (s.on (baseBandWriteOp s.variant req s.dev))

/-- LINK_ENABLE_WRITE (R330). -/
def linkEnableWriteOp (v : Variant) (link : Nat) (r : OdReq) (d : Dev) : Dev :=
  if r.sub = link + 1 then ownP v r 0x3411 d else d

def execLinkEnableWrite (link : Nat) (req : OdReq) (s : State) : Host.Outcome State Fault Refusal :=
  .next (s.on (linkEnableWriteOp s.variant link req s.dev))

/-- A write of 1 to OD 0x3420: a degraded ACTIVE link tries all its lanes (R335). -/
def widenLink (l : Nat) (b : Bytes) (d : Dev) : Dev :=
  if leNat b = 1 && (d.link l).phase == .active && (d.link l).lanes != 0xF then
    enterTrain l (d.modLink l (fun x => { x with badLanes := 0 }))
  else d

/-- LINK_WIDEN. -/
def linkWidenOp (v : Variant) (link : Nat) (r : OdReq) (d : Dev) : Dev :=
  if r.sub = link + 1 then ownRequest v r 0x3420 (fun d => (stSuccess, widenLink link r.value d)) d else d

def execLinkWiden (link : Nat) (req : OdReq) (s : State) : Host.Outcome State Fault Refusal :=
  .next (s.on (linkWidenOp s.variant link req s.dev))

/-! ### Compaction (R408, R409) -/

/-- The entries that the journal may hold. -/
def pKeys (d : Dev) : List Nat :=
  (d.vals.map Prod.fst).filter (fun k => clsOf (k / 256) (k % 256) == .p) ++
    [odKey 0x7001 1, odKey 0x7001 2, odKey 0x7002 2, odKey 0x7003 2]

/-- The entry's value differs from its default. -/
def differsP (d : Dev) (k : Nat) : Bool := d.heldP (k / 256) (k % 256) ≠ (odEntry (k / 256) (k % 256)).elim [] defaultBytes

/-- Where the next record of a region goes. -/
def JRegion.endOff (r : JRegion) : Nat :=
  match r.recs.getLast? with
  | none => 0x1000
  | some x => if x.torn then roundUp (x.off + x.done) 4096 else x.off + x.bytes.length

/-- The region that is not active. -/
def Jour.other (j : Jour) : Nat := 1 - j.active

/-- Copy an entry into the other region in at most n attempts; one that never reads back right is not copied, with JOURNAL_FAULT (R406). -/
def copyTries (k : Nat) : Nat → Dev → Dev
  | 0, d => d.post evJournalFault 0 0 []
  | n + 1, d =>
    let j := d.jour
    let ok := Config.readsBack d.free
    let j1 := j.put j.other (newRec (j.region j.other).endOff k (d.heldP (k / 256) (k % 256)) j.nextSeq ok)
    let d1 := ({ d.drawn with jour := j1 }).count 0x1400 4 1
    if ok then { d1 with jour := { d1.jour with copied := d1.jour.copied ++ [k] } } else copyTries k n (d1.count 0x1400 9 1)

def copyP (d : Dev) (k : Nat) : Dev := copyTries k 3 d

/-- 75 % of a region. -/
def compactAt : Nat := 0x01800000

/-- Order 2 of Table 14.13: the header of the other region, its marker erased. A header that does not read back right leaves the region to be
erased again (DESIGN CHOICE, notes/assumptions/164.md). -/
def writeHeader (d : Dev) : Dev :=
  let j := d.jour
  let r : JRegion := { header := headerImage ((j.region j.active).gen + 1) j.nextSeq, marker := [], recs := [], erased := false }
  let ok := Config.readsBack d.free
  let comp : Compaction := if ok then .copying else .none
  { d.drawn with jour := { (j.setRegion j.other { r with header := if ok then r.header else [] }) with comp := comp, copied := [] } }

/-- COMPACTION_START: orders 1 to 3 of Table 14.13. -/
def compactionStartOp (d : Dev) : Dev :=
  let j := d.jour
  if d.seq.stbyUp && j.ready && j.comp == .none && decide (compactAt ≤ j.append) && (j.region j.other).erased then
    let d1 := writeHeader d
    if d1.jour.comp == .copying then ((pKeys d1).filter (differsP d1)).foldl copyP d1 else d1
  else d

def execCompactionStart (s : State) : Host.Outcome State Fault Refusal := .next (s.on (compactionStartOp s.dev))

/-- An entry that the freeze copies: written since its copy, or never copied and not at its default. -/
def recopy (d : Dev) (k : Nat) : Bool :=
  !d.jour.copied.contains k &&
    (differsP d k || (d.jour.region d.jour.other).recs.any (fun r => r.idx = k / 256 && r.sub = k % 256))

/-- The copies of the freeze (Table 14.13 order 4). -/
def freezeCopies (d : Dev) : Dev := ((pKeys d).filter (recopy d)).foldl copyP d

/-- COMPACTION_COMMIT: the freeze copy, then the commit marker, which names the records copied. Until every copy and the marker are verified
the freeze holds. -/
def compactionCommitOp (ok : Bool) (d : Dev) : Dev :=
  if !d.seq.stbyUp || d.jour.comp == .none then d
  else
    let d1 := freezeCopies d
    let j := d1.jour
    let r := j.region j.other
    if ok && (pKeys d1).all (fun k => !recopy d1 k) then
      { d1 with jour := { (j.setRegion j.other { r with marker := markerImage r.gen (r.recs.filter JRec.good).length }) with
                          active := j.other, append := r.endOff, comp := .none, copied := [] } }.count 0x1400 5 1
    else { d1 with jour := { j with comp := .frozen } }

def execCompactionCommit (ok : Bool) (s : State) : Host.Outcome State Fault Refusal := .next (s.on (compactionCommitOp ok s.dev))

/-- REGION_ERASE_DONE. -/
def regionEraseDoneOp (d : Dev) : Dev :=
  let j := d.jour
  if d.seq.stbyUp && j.ready && j.comp == .none then { d with jour := j.setRegion j.other .erased0 } else d

def execRegionEraseDone (s : State) : Host.Outcome State Fault Refusal := .next (s.on (regionEraseDoneOp s.dev))

/-! ### Recovery (R410) -/

/-- The scan of Table 14.14 order 3: the values so far, the last sequence applied, torn records, the position that it reads next, and
whether it has ended. -/
structure Scan where
  vals : List (Nat × Bytes)
  last : Nat
  torn : Nat
  pos : Nat
  ended : Bool
deriving DecidableEq, Repr

/-- The 4 KiB boundaries within the bytes of a torn record that were programmed: each is read as one more torn record (DEDUCED,
notes/assumptions/165.md). -/
def innerBounds (r : JRec) : Nat := (r.off + r.done - 1) / 4096 - r.off / 4096

/-- One record. A gap before it reads all ones and ends the scan. -/
def scanRec (s : Scan) (r : JRec) : Scan :=
  if s.ended || decide (r.off ≠ s.pos) then { s with ended := true }
  else if !r.good then { s with torn := s.torn + 1 + innerBounds r, pos := roundUp (r.off + r.done) 4096 }
  else
    let s1 := { s with pos := r.off + recordBytes r.len }
    if s.last < r.seq then { s1 with vals := s.vals ++ [(r.key, r.val)], last := r.seq } else s1

/-- JOURNAL_RECOVERY: a region is chosen or the flash is formatted, its records are scanned, and the journal is ready. -/
def recoverJournal (d : Dev) : Dev :=
  let j := d.jour
  let base : Dev := { d with jour := { j with tokens := 64, ready := true, waiting := [], comp := .none, copied := [] } }
  if !j.reg0.valid && !j.reg1.valid then
    let r0 : JRegion := { header := headerImage 1 1, marker := markerImage 1 0, recs := [], erased := false }
    { base with jour := { base.jour with reg0 := r0, active := 0, append := 0x1000, nextSeq := 1 } }.post evJournalFormat 0 0 []
  else
    let n := if j.reg1.valid && (!j.reg0.valid || decide (j.reg0.gen < j.reg1.gen)) then 1 else 0
    let r := j.region n
    let s := r.recs.foldl scanRec { vals := [], last := 0, torn := 0, pos := 0x1000, ended := false }
    let app := if s.torn = 0 then s.pos else roundUp (max s.pos r.endOff) 4096
    let next := (((j.reg0.recs ++ j.reg1.recs).map (fun x => x.seq + 1)).foldl max (fieldAt r.header 16 8))
    let d1 := s.vals.foldl (fun (d : Dev) e => setP e.1 e.2 d) base
    { d1 with jour := { d1.jour with active := n, append := app, nextSeq := next } }.count 0x1400 7 s.torn

/-- The standby controller stops while records wait (R392, R409): none of them takes effect; the one being programmed may be left torn, with
any number of its bytes programmed. -/
def dropWaiting (d : Dev) : Dev :=
  match d.jour.waiting with
  | [] => d
  | w :: _ =>
    let d1 := { d with jour := { d.jour with waiting := [] } }
    if programs d && recordFits d w.vals then
      match w.vals with
      | [] => d1
      | e :: _ =>
        let n := (Config.freeWord d.free).toNat % (recordBytes e.2.length + 1)
        let j := d1.jour
        let r := { newRec j.append e.1 e.2 j.nextSeq false with done := n }
        if n = 0 then d1.drawn else { d1.drawn with jour := j.put j.active r }
    else d1

end Sys2Proof.Machine
end

