-- ==== Sys2Proof/Machine/MemoryOps.lean ====
section
/-!
DEFINITION. The commands of ch. 11: cache accesses and fills, patrol scrub and granule remapping, the banks of scratchpads and
control memories, and the preserving march.
-/
namespace Sys2Proof.Machine

open Sys2Proof

/-! ### Cache (R295 to R299) -/

/-- An access that a line can take: inside its 64 bytes, adds on whole words, atomics on aligned 32-bit or 64-bit words (R296). -/
def accessOk (off len : Nat) (op : MemOp) : Bool :=
  let n := opLen op len
  decide (0 < n) && decide (off + n ≤ 64) &&
    (match op with
     | .read => true
     | .write _ => true
     | .addF32 _ => off % 4 = 0
     | .addI32 _ => off % 4 = 0
     | .testSet bit => decide (bit < 8)
     | .fetchAdd size _ => (size = 4 || size = 8) && off % size = 0
     | .swap size _ => (size = 4 || size = 8) && off % size = 0)

/-- A granule is to be remapped (R298): a copy to the next spare of the stack's reserve begins. The reserve has 8,192; when the last is
taken MEM_SPARE_OUT is posted, and with none left remapping has stopped (notes/assumptions/41.md). -/
def startRemap (stack g : Nat) (d : Dev) : Dev :=
  if d.mem.copying.any (fun c => c.stack = stack && c.granule = g) then d
  else
    let used := (d.mem.remap.filter (fun e => e.1 / 2 ^ 25 = stack)).map (fun e => e.2)
    let running := (d.mem.copying.filter (fun c => c.stack = stack)).map (fun c => c.spare + 1)
    let next : Nat := (used ++ running).foldl max 0
    if 8192 ≤ next then d
    else
      let d1 := { d with mem := { d.mem with copying := d.mem.copying ++ [{ stack := stack, granule := g, spare := next, done := 0 }] } }
      if next = 8191 then d1.post evMemSpareOut (stack / 2) (codeOf (.stack (stack / 2) (stack % 2))) [] else d1

/-- 24 h in µs. -/
def dayUs : Nat := 86400000000

/-- A corrected error of a line (R298): counted, and the sixteenth of its granule within 24 h remaps it. -/
def eccCorrected (stack line : Nat) (d : Dev) : Dev :=
  let key := stack * 2 ^ 25 + line / 64
  let now := tget 0 d.hubTimer (stack / 2)
  let times := (tget [] d.mem.corr key).filter (fun t => decide (now < t + dayUs)) ++ [now]
  let d1 := ({ d with mem := { d.mem with corr := tset d.mem.corr key times } }).count 0x3003 (ssHub (stack / 2)) 1
  if 16 ≤ times.length then startRemap stack (line / 64) d1 else d1

/-- An uncorrectable error of a line (R298, R299): counted, MEM_UE with the allocation's handle and the offset, the granule is remapped, and
the stack's copy stays bad until the line is written. -/
def eccUncorrectable (stack line : Nat) (d : Dev) : Dev :=
  let at_ := (allocAt d stack (line * 64)).getD (0, 0)
  let d1 := (d.count 0x3004 (ssHub (stack / 2)) 1).post evMemUe (stack / 2) (codeOf (.stack (stack / 2) (stack % 2)))
    [(4, at_.1), (8, at_.2)]
  startRemap stack (line / 64) { d1 with mem := d1.mem.setBad stack line true }

/-- What a read of a line from its stack finds in `symbols` wrong symbols. -/
def eccOutcome (stack line symbols : Nat) (d : Dev) : Dev :=
  if symbols = 0 then d else if symbols = 1 then eccCorrected stack line d else eccUncorrectable stack line d

/-- CACHE_ACCESS (R296): dropped by a slice that is gone, else applied on a hit, a full-line write or a bypassed read miss, which finds
`symbols` wrong symbols in the stack (R298); any other miss waits for the fill of its line, and so does an access behind one that waits. -/
def cacheAccessOp (v : Variant) (slice line off len : Nat) (op : MemOp) (symbols : Nat) (tile : Option Nat) (d : Dev) : Dev :=
  let policy := linePolicy d slice line
  if !accessOk off len op then d
  else if sliceGone v d slice then
    respond slice line op tile stUnitOffline [] true (d.count 0x20B8 (ssHub (hubOfSlice slice)) 1)
  else if !domRuns d (domSlice slice) then d
  else if (waitersOf d slice line).isEmpty &&
      ((wayOf d.mem slice line).isSome || fullLine op off || (policy = 2 && isRead op)) then
    let d1 := if (wayOf d.mem slice line).isSome || fullLine op off then d else eccOutcome (slice / 2) line symbols d
    let a := accessNow v slice line off len op policy d1
    respond slice line op tile stMemUe a.1 a.2.1 a.2.2
  else
    { d with mem := { d.mem with waiting := d.mem.waiting ++
        [{ slice := slice, line := line, off := off, len := len, op := op, tile := tile }] } }

def execCacheAccess (slice line off len : Nat) (op : MemOp) (symbols : Nat) (tile : Option Nat) (s : State) :
    Host.Outcome State Fault Refusal :=
  if lineOnSlice slice line then .next (s.on (cacheAccessOp s.variant slice line off len op symbols tile s.dev))
  else .fault .noSuchLine

/-- A line comes from its stack into the slice, unless the slice holds it: what the ECC found, a dirty victim back to the stack. -/
def fillLine (slice line symbols : Nat) (d : Dev) : Dev :=
  if (wayOf d.mem slice line).isSome then d
  else
    fillFrom slice line (linePolicy d slice line) (eccOutcome (slice / 2) line symbols d)

/-- LINE_FILL (R295, R298, R299): the line is filled, and the accesses that wait are applied in order of arrival. -/
def lineFillOp (v : Variant) (slice line symbols : Nat) (d : Dev) : Dev :=
  let mine := waitersOf d slice line
  if mine = [] || sliceGone v d slice || !domRuns d (domSlice slice) then d
  else
    let d2 := fillLine slice line symbols d
    let d3 := { d2 with mem := { d2.mem with waiting := d2.mem.waiting.filter (fun w => !(w.slice = slice && w.line = line)) } }
    (mine.zipIdx).foldl serveWaiting d3

/-- Slice `k` of hub `hub`. -/
def sliceOf (hub k : Nat) : Nat := 4 * hub + k

def execLineFill (hub k line symbols : Nat) (s : State) : Host.Outcome State Fault Refusal :=
  if lineOnSlice (sliceOf hub k) line && decide (k < 4) then .next (s.on (lineFillOp s.variant (sliceOf hub k) line symbols s.dev))
  else .fault .noSuchLine

/-- A line is poisoned in its slice, which takes it if it does not hold it (R299). -/
def poisonLine (slice line : Nat) (d : Dev) : Dev :=
  match wayOf d.mem slice line with
  | some w => { d with mem := { d.mem with lines := d.mem.lines.map (fun e =>
      if e.1 = wayKey slice line w then (e.1, { e.2 with poison := true }) else e) } }
  | none => installLine slice line (linePolicy d slice line) (readStack d.mem (slice / 2) line) false true d

/-- PATROL_SCRUB (R298): a line is read in an idle cycle; an uncorrectable error poisons it in the slice (R299). -/
def patrolScrubOp (v : Variant) (slice line symbols : Nat) (d : Dev) : Dev :=
  if sliceGone v d slice || !domRuns d (domSlice slice) then d
  else
    let d1 := eccOutcome (slice / 2) line symbols d
    if 2 ≤ symbols then poisonLine slice line d1 else d1

def execPatrolScrub (slice line symbols : Nat) (s : State) : Host.Outcome State Fault Refusal :=
  if lineOnSlice slice line then .next (s.on (patrolScrubOp s.variant slice line symbols s.dev))
  else .fault .noSuchLine

/-- The line as the slice holds it goes to its stack at the next write-back. -/
def dirtyLine (slice line : Nat) (d : Dev) : Dev :=
  match wayOf d.mem slice line with
  | some w => { d with mem := { d.mem with lines := d.mem.lines.map (fun e =>
      if e.1 = wayKey slice line w then (e.1, { e.2 with dirty := true }) else e) } }
  | none => d

/-- A copy takes a line through its slice, a read and then a write of it (R296, R298): the slice holds it, dirty. -/
def copyThrough (slice line : Nat) (d : Dev) : Dev :=
  let policy := linePolicy d slice line
  let d1 := serveFirst slice line policy d
  let d2 := if (wayOf d1.mem slice line).isSome then d1.count 0x3001 (ssHub (hubOfSlice slice)) 1 else fillFrom slice line policy d1
  dirtyLine slice line d2

/-- GRANULE_REMAP (R298): the firmware copies the next line of a granule through its slice, whose write-back then goes to the spare; with
the last one the spare takes the granule's place. OD 0x3005 counts the spares in use: one that the granule had before is not any more. -/
def granuleRemapOp (v : Variant) (stack g : Nat) (d : Dev) : Dev :=
  match d.mem.copying.find? (fun c => c.stack = stack && c.granule = g) with
  | none => d
  | some c =>
    let line := g * 64 + c.done
    let slice := 2 * stack + channelOf (line * 64) % 2
    if sliceGone v d slice || !domRuns d (domSlice slice) then d
    else
      let d1 := copyThrough slice line d
      let m := d1.mem
      if c.done + 1 < 64 then
        { d1 with mem := { m with copying := m.copying.map (fun x => if x = c then { c with done := c.done + 1 } else x) } }
      else
        let key := stack * 2 ^ 25 + g
        let d2 := { d1 with mem := { m with copying := m.copying.filter (fun x => x ≠ c), remap := tput 0 m.remap key (c.spare + 1),
                                            corr := tdel m.corr key } }
        if tget 0 m.remap key = 0 then d2.fwCount 0x3005 (ssHub (stack / 2)) 2 1 else d2

def execGranuleRemap (stack granule : Nat) (s : State) : Host.Outcome State Fault Refusal :=
  .next (s.on (granuleRemapOp s.variant stack granule s.dev))

/-! ### Banks (R300 to R305) -/

/-- Bytes of a memory with a march-test engine. -/
def bankBytes (code : Nat) : Nat := if code = codeStandby then 65536 else 262144

def isAtomic : MemOp → Bool
  | .fetchAdd _ _ => true
  | .swap _ _ => true
  | _ => false

/-- A request that a bank serves: a rank of Table 11.3, an access inside one 32-byte word, atomics on aligned words (R303). -/
def bankReqOk (r : BankReq) : Bool :=
  let n := opLen r.op r.len
  decide (1 ≤ r.rank) && decide (r.rank ≤ 3) && decide (0 < n) && decide (r.addr % 32 + n ≤ 32) && !r.starved &&
    (match r.op with
     | .read => true
     | .write _ => true
     | .fetchAdd size _ => (size = 4 || size = 8) && r.addr % size = 0
     | .swap size _ => (size = 4 || size = 8) && r.addr % size = 0
     | _ => false)

/-- The request that the next access slot serves: the highest rank, within it the oldest (R301). -/
def bankBest (k : SpadBank) : Option BankReq :=
  ([1, 2, 3].filterMap (fun n => k.reqs.find? (fun r => r.rank = n))).head?

/-- The bank serves accesses: its domain runs and it is not being cleared (R305). -/
def bankServes (d : Dev) (code : Nat) : Bool :=
  !issuerOffline d code && domRuns d (if code < 576 then domWedge code else domControl (issuerHub code)) && !(d.sbank code).clearing

/-- Apply a request and let it leave the bank. -/
def bankApply (code : Nat) (r : BankReq) (d : Dev) : Dev :=
  let n := opLen r.op r.len
  let old := d.sread code r.addr n
  let k := d.sbank code
  let d1 := d.setSbank code { k with reqs := k.reqs.erase r }
  (if isRead r.op then d1 else d1.swrite code r.addr (applyOp r.op old)).emit (.bankData code r.addr (answerBytes r.op old) false)

/-- BANK_ACCESS (R301): a request arrives, or (with none) an access slot serves the highest-ranked waiting one. A frame toward a bank
that is Off or held is dropped (R283). -/
def bankAccessOp (code : Nat) (req : Option BankReq) (d : Dev) : Dev :=
  match req with
  | some r =>
    if !bankReqOk r then d
    else if issuerOffline d code then
      (if r.rank = 1 then d
       else
        let d1 := d.count 0x20B8 (issuerSs code) 1
        if isRead r.op || isAtomic r.op then d1.emit (.bankData code r.addr [] true) else d1)
    else let k := d.sbank code; d.setSbank code { k with reqs := k.reqs ++ [r] }
  | none =>
    if !bankServes d code then d
    else match bankBest (d.sbank code) with
      | some r => if isAtomic r.op then d else bankApply code r d
      | none => d

def execBankAccess (issuer : Nat) (req : Option BankReq) (s : State) : Host.Outcome State Fault Refusal :=
  if (req.elim true (fun r => decide (r.addr < bankBytes issuer))) && issuerPresent s.variant issuer then
    .next (s.on (bankAccessOp issuer req s.dev))
  else .fault .noSuchWord

/-- BANK_ATOMIC (R303): the atomic whose turn it is takes two consecutive slots, and its old value is returned. -/
def bankAtomicOp (code : Nat) (d : Dev) : Dev :=
  if !bankServes d code then d
  else match bankBest (d.sbank code) with
    | some r => if isAtomic r.op then (bankApply code r d).count 0x3042 (issuerSs code) 1 else d
    | none => d

def execBankAtomic (issuer : Nat) (s : State) : Host.Outcome State Fault Refusal :=
  .next (s.on (bankAtomicOp issuer s.dev))

/-- SPAD_STARVE (R302): a waiting request of rank 2 or 3 has passed OD 0x3040.01 ns. -/
def spadStarveOp (code index waited : Nat) (d : Dev) : Dev :=
  let k := d.sbank code
  match k.reqs[index]? with
  | some r =>
    if decide (2 ≤ r.rank) && !r.starved && decide (d.num 0x3040 1 1000 < waited) then
      ((d.setSbank code { k with reqs := setAt k.reqs index { r with starved := true } }).count 0x3041 (issuerSs code) 1).postOnce
        limSpadStarve (issuerSs code) evSpadStarve (issuerHub code) (issuerTarget code) []
    else d
  | none => d

def execSpadStarve (issuer index waited : Nat) (s : State) : Host.Outcome State Fault Refusal :=
  .next (s.on (spadStarveOp issuer index waited s.dev))

/-- SCRATCHPAD_WAKE_CLEAR (R305, Table 11.4): every word is zero, the bank accepts accesses and its issuer starts. -/
def scratchpadWakeClearOp (code : Nat) (d : Dev) : Dev :=
  settleClear code d

def execScratchpadWakeClear (issuer : Nat) (s : State) : Host.Outcome State Fault Refusal :=
  .next (s.on (scratchpadWakeClearOp issuer s.dev))

/-! ### The preserving march (R306 to R308) -/

/-- The unit target, hub and subindex of a memory under march. -/
def marchUnit (code : Nat) : BitVec 32 := if code = codeStandby then codeOf .mgmt else issuerTarget code
def marchHub (code : Nat) : Nat := if code = codeStandby then 0 else issuerHub code
def marchSs (code : Nat) : Nat := if code = codeStandby then ssStandby else issuerSs code

/-- Word n of an ascending pass and then a descending pass over `words` words. -/
def marchWord (words n : Nat) : Nat := if n < words then n else 2 * words - 1 - n

/-- A word that could not be restored holds whatever the cells took: a free value. -/
def spoilWord (code word : Nat) (d : Dev) : Dev :=
  let b : Bytes := (List.range 4).flatMap (fun i => toLe 8 (Config.freeWord (d.free + i)).toNat)
  let d1 := { d with free := d.free + 4 }
  if code = codeStandby then { d1 with mem := { d1.mem with stby := mwrite d1.mem.stby (32 * word) b } }
  else d1.swrite code (32 * word) b

/-- A word that reads back wrong (R308). -/
def marchFault (code word : Nat) (d : Dev) : Dev :=
  (d.count 0x3051 (marchSs code) 1).post evMarchFail (marchHub code) (marchUnit code) [(4, issuerIndex code), (4, 32 * word)]

/-- MARCH_PRESERVING_WORD (R307): the five accesses on one word, in a slot that no rank claims. -/
def marchPreservingWordOp (code word : Nat) (descending bad restored : Bool) (d : Dev) : Dev :=
  let k := d.sbank code
  let words := bankBytes code / 32
  match k.march with
  | none => d
  | some n =>
    if k.reqs != [] || k.clearing || word != marchWord words n || descending != decide (words ≤ n) then d
    else
      let d1 := if bad then (if restored then marchFault code word d else spoilWord code word (marchFault code word d)) else d
      if n + 1 < 2 * words then d1.setSbank code { k with march := some (n + 1) }
      else (d1.setSbank code { k with march := none }).count 0x3052 (marchSs code) 1

def execMarchPreservingWord (issuer word : Nat) (descending bad restored : Bool) (s : State) :
    Host.Outcome State Fault Refusal :=
  if word < bankBytes issuer / 32 then .next (s.on (marchPreservingWordOp issuer word descending bad restored s.dev))
  else .fault .noSuchWord

end Sys2Proof.Machine
end

