-- ==== Sys2Proof/Machine/Security.lean ====
section
/-!
DEFINITION. Tokens and life-cycle changes (R467 to R473), tamper (R474 to R476), attestation (R477) and the retry of boot (R459, R476).
-/
namespace Sys2Proof.Machine

open Sys2Proof

/-! ### Management keys (R467) -/

/-- Management key j, 0 to 3; empty when its entry is. -/
def mgmtKey (d : Dev) (j : Nat) : Bytes := d.heldP 0x7010 (j + 1)

/-- The key digest: SHAKE256 over the length and bytes of each entry. -/
def keyDigest (d : Dev) : Bytes :=
  Config.shake256 (((List.range 4).map (fun j => toLe 2 (mgmtKey d j).length ++ mgmtKey d j)).flatten)

/-! ### TOKEN_COMMIT (R469 to R473) -/

/-- The staged body of a source. -/
def stagedBody (d : Dev) (src : Source) : Bytes := tget (toLe 128 0) d.sec.body (sourceIdx src)

/-- The staged signature of a source. -/
def stagedSig (d : Dev) (src : Source) : Bytes := tget [] d.sec.sigA (sourceIdx src) ++ tget [] d.sec.sigB (sourceIdx src)

/-- The changes of Table 17.6 with their signers; 255 is the vendor key. -/
def permittedChange (d : Dev) (old new signer : Nat) : Bool :=
  let mgmt := decide (signer < 4) && mgmtKey d signer != []
  match old, new with
  | 0, 1 => signer = 255
  | 0, 3 => signer = 255
  | 1, 2 => signer = 0
  | 1, 3 => signer = 255
  | 2, 1 => mgmt
  | 2, 3 => mgmt
  | _, _ => false

/-- The key of a signer. -/
def signerKey (d : Dev) (signer : Nat) : Bytes := if signer = 255 then Config.vendorKey else mgmtKey d signer

/-- The checks of R472 in order, on a staged body and signature. -/
def tokenStatus (d : Dev) (b sig : Bytes) : BitVec 8 :=
  let old := fieldAt b 5 1
  let new := fieldAt b 6 1
  let signer := fieldAt b 7 1
  if d.sec.lcs = 3 then stLifecycle
  else if fieldAt b 0 4 ≠ 0x4B4C4354 ∨ fieldAt b 4 1 ≠ 1 ∨ (3 < signer ∧ signer ≠ 255) ∨ fieldAt b 20 44 ≠ 0 then stValueRange
  else if fieldAt b 8 8 ≠ Config.linkIdentity.toNat ∨ old ≠ d.sec.lcs ∨ permittedChange d old new signer = false then stLifecycle
  else if fieldAt b 16 4 ≠ d.sec.lcount + 1 then stLifecycle
  else if Config.verify (signerKey d signer) (Config.shake256 b) sig = false then stAuthFailed
  else if new = 2 ∧ ((b.drop 64).take 64 ≠ keyDigest d ∨ mgmtKey d 0 = []) then stLifecycle
  else stSuccess

/-- A rejection is counted, and posted at most once per second of the standby timer. -/
def rejectToken (d : Dev) : Dev :=
  let d1 := d.count 0x7040 1 1
  if d1.marked 4 limTokenReject 0 then d1 else (d1.mark 4 limTokenReject 0).post evTokenReject 0 0 []

/-- The values that a change of state writes together: the state and the counter. -/
def changeVals (d : Dev) (new : Nat) : List (Nat × Bytes) :=
  [(odKey 0x7001 1, toLe 1 new), (odKey 0x7001 2, toLe 4 (d.sec.lcount + 1))]

/-- TOKEN_COMMIT: in RETIRED order 5 of Table 14.3 refuses every write of the entry, and one of 1 is a token that check 1 of R472 rejects
(notes/assumptions/42.md). A token that passes starts the change, and dictionary requests wait until its record is verified. -/
def tokenCommitOp (v : Variant) (r : OdReq) (d : Dev) : Dev :=
  if r.sub ≠ 4 ∨ reqReady r 0x7020 d = false then d
  else
    let early := odWriteEarly v d r.src r.sid 0x7020 4 r.value.length none
    let st := odWriteChecks v d r.src r.sid 0x7020 4 r.value
    let b := stagedBody d r.src
    let tok := tokenStatus d b (stagedSig d r.src)
    if early = stLifecycle ∧ r.value = [1] then reqDone r early (rejectToken d)
    else if early ≠ stSuccess then reqDone r early d
    else if reqShort r d then reqDone r stOdLength d
    else if st ≠ stSuccess then reqDone r st d
    else if leNat r.value = 0 then reqDone r stSuccess d
    else if tok ≠ stSuccess then reqDone r tok (rejectToken d)
    else
      let d1 := match r.cmd with | some id => d.busy id | none => d
      let new := fieldAt b 6 1
      { d1 with sec := { d1.sec with changing := true } }.queueP (changeVals d new) (.lifecycle (sourceIdx r.src) r.cmd d.sec.lcs new) true

def execTokenCommit (req : OdReq) (s : State) : Host.Outcome State Fault Refusal := .next (s.on (tokenCommitOp s.variant req s.dev))

/-! ### ATTESTATION_NONCE (R477) -/

/-- Bytes 48 to 63 of the report: the counts that order it. -/
def reportCounts (d : Dev) : Bytes :=
  toLe 4 d.sec.tcount ++ toLe 4 d.sec.lcount ++ toLe 4 d.sec.boots ++ toLe 4 d.log.rseq

/-- Bytes 64 to 95 of the report: what the module has, and its flags. -/
def reportUnits (v : Variant) (d : Dev) : Bytes :=
  toLe 8 (facetMask v) ++ toLe 8 (linkMask v) ++ toLe 1 (hubMask v) ++ toLe 1 (stackMask v) ++ toLe 1 (portMask v) ++
  toLe 1 ((hasForerunner v).toNat + 2 * d.seq.safe.toNat + 4 * (!d.sec.present.isEmpty).toNat) ++ padTo 12 []

/-- The report of Table 17.10 for a nonce. -/
def attestReport (v : Variant) (d : Dev) (nonce : Bytes) : Bytes :=
  toLe 4 0x54504B41 ++ toLe 1 1 ++ toLe 1 d.sec.lcs ++ toLe 2 0 ++ toLe 8 Config.linkIdentity.toNat ++ padTo 32 (nonce.take 32) ++
  reportCounts d ++ reportUnits v d ++ padTo 64 (d.sec.romdig.take 64) ++ padTo 64 ((keyDigest d).take 64) ++ padTo 32 []

/-- The module's ML-DSA-65 signature of 3,309 bytes over a digest (R399, R477). -/
def identitySig (digest : Bytes) : Bytes := padTo 3309 ((Config.identitySign digest).take 3309)

/-- A nonce of a source: its report and signature, or AUTH_FAILED with no identity key. -/
def attest (v : Variant) (src : Source) (nonce : Bytes) (d : Dev) : BitVec 8 × Dev :=
  if !d.sec.key then (stAuthFailed, d)
  else
    let k := sourceIdx src
    let rep := attestReport v d nonce
    let sig := identitySig (Config.shake256 rep)
    (stSuccess, { d with sec := { d.sec with nonce := tset d.sec.nonce k nonce, report := tset d.sec.report k rep,
                                             repSigA := tset d.sec.repSigA k (sig.take 2048), repSigB := tset d.sec.repSigB k (sig.drop 2048) } })

def attestationNonceOp (v : Variant) (r : OdReq) (d : Dev) : Dev :=
  if r.sub ≠ 1 then d else ownRequest v r 0x7030 (fun d => attest v r.src r.value d) d

def execAttestationNonce (req : OdReq) (s : State) : Host.Outcome State Fault Refusal :=
  .next (s.on (attestationNonceOp s.variant req s.dev))

/-! ### RETRY_BOOT (R459, R476) -/

/-- A write of OD 0x5020.01: refused while a tamper condition is present; 1 leaves the safe state, and self-test runs again. -/
def retryBoot (b : Bytes) (d : Dev) : BitVec 8 × Dev :=
  if !d.sec.present.isEmpty then (stLifecycle, d)
  else
    let d1 := storeValue .mgmt 0x5020 1 b d
    if leNat b = 1 && d1.seq.safe then
      let d2 := leaveSafe d1
      (stSuccess, { d2 with seq := { d2.seq with phase := if d2.seq.phase == .safe then .testing else d2.seq.phase } })
    else (stSuccess, d1)

def retryBootOp (v : Variant) (r : OdReq) (d : Dev) : Dev :=
  if r.sub ≠ 1 then d else ownRequest v r 0x5020 (fun d => retryBoot r.value d) d

def execRetryBoot (req : OdReq) (s : State) : Host.Outcome State Fault Refusal := .next (s.on (retryBootOp s.variant req s.dev))

/-! ### TAMPER and TAMPER_CONDITION_CLEAR (R474 to R476) -/

/-- The filter time of a condition in ns (Table 17.8). -/
def tamperFilterNs (code : Nat) : Nat :=
  if code = 1 then 100000 else if code = 2 then 10000 else if code = 3 then 1000 else if code = 4 then 100000 else 1000000

/-- The condition is sensed: the lid mesh is not in MANUFACTURE (Table 17.8). -/
def tamperSensed (d : Dev) (code : Nat) : Bool :=
  d.seq.stbyUp && decide (1 ≤ code) && decide (code ≤ 5) && !(decide (code = 1) && decide (d.sec.lcs = 0))

/-- The bit of a cause. -/
def causeBit (code : Nat) : BitVec 8 := BitVec.ofNat 8 (2 ^ (code - 1))

/-- A commit that has not reached order 2 is abandoned with UNIT_OFFLINE (Table 17.9 order 1). -/
def abandonCommit (v : Variant) (d : Dev) : Dev :=
  let isChange : JWrite → Bool := fun w => match w.waiter with | .lifecycle _ _ _ _ => true | _ => false
  (d.jour.waiting.filter isChange).foldl (fun (d : Dev) w => settleWrite v w.waiter stUnitOffline d)
    { d with jour := { d.jour with waiting := d.jour.waiting.filter (fun w => !isChange w) } }

/-- The sequence of Table 17.9, orders 1 to 3. -/
def startTamper (v : Variant) (code : Nat) (d : Dev) : Dev :=
  let d1 := abandonCommit v (closeSessions (secureWipe d))
  let d2 := enterSafe v d1
  let d3 := { d2 with sec := { d2.sec with tampering := true, cause := d2.sec.cause ||| causeBit code } }
  let n := leNat (d3.latestP 0x7002 2) + 1
  (d3.queueP [(odKey 0x7002 2, toLe 4 n)] .tamper true).post evTamper 0 0 [(1, code)]

/-- TAMPER: a condition has persisted for its filter time. -/
def tamperOp (v : Variant) (code filterNs : Nat) (d : Dev) : Dev :=
  if !tamperSensed d code || decide (filterNs < tamperFilterNs code) then d
  else
    let d1 := { d with sec := { d.sec with present := if d.sec.present.contains code then d.sec.present else d.sec.present ++ [code] } }
    if d1.sec.tampering then { d1 with sec := { d1.sec with cause := d1.sec.cause ||| causeBit code } }
    else startTamper v code d1

def execTamper (code filterNs : Nat) (s : State) : Host.Outcome State Fault Refusal :=
  .next (s.on (tamperOp s.variant code filterNs s.dev))

/-- TAMPER_CONDITION_CLEAR: once no condition is present and the record of order 3 is verified, the key is derived again (order 4). -/
def tamperConditionClearOp (v : Variant) (code : Nat) (d : Dev) : Dev :=
  if !d.sec.present.contains code then d
  else
    finishTamper v { d with sec := { d.sec with present := d.sec.present.filter (· ≠ code) } }

def execTamperConditionClear (code : Nat) (s : State) : Host.Outcome State Fault Refusal :=
  .next (s.on (tamperConditionClearOp s.variant code s.dev))

end Sys2Proof.Machine
end

