-- ==== Sys2Proof/Machine/Module.lean ====
section
/-!
DEFINITION. Supplies, sequencing, straps and resets of the module (R304, R381, R382, R457 to R459, R482 to R489).
-/
namespace Sys2Proof.Machine

open Sys2Proof

/-! ### The auxiliary supply and the standby controller -/

/-- The standby scratchpad, and the event ring in it, read zero. -/
def clearStandby (d : Dev) : Dev :=
  { d with mem := { d.mem with stby := [] }, log := { d.log with ring := [], rseq := 0, newest := 0, cursors := [], acceptedNow := 0, select := [] } }

/-- AUX_POWER_UP: hardware clears the scratchpad before the firmware starts (R304). -/
def auxPowerUpOp (d : Dev) : Dev :=
  if d.seq.stbyUp then d else clearStandby { d with seq := { d.seq with auxIn := true } }

def execAuxPowerUp (s : State) : Host.Outcome State Fault Refusal := .next (s.on (auxPowerUpOp s.dev))

/-- What the standby controller holds outside the journal, as at its start. -/
def standbyFresh (d : Dev) : Dev :=
  { d with
    sec := { Sec.reset with romdig := [] }, tam := { sessions := [], pending := [], opensNow := 0, plainNow := 0, linkUp := false },
    vals := [], ctr := [], stbyTimer := 0, marks := d.marks.filter (fun e => e.1 / 32 ≠ 4),
    jour := { d.jour with ready := false, waiting := [], comp := .none, copied := [] } }

/-- The start-up march of the standby controller's own memory (R307, R308, Table 16.7 order 1): the run and the words that read back wrong
are counted, and a failure is one of the controller (R459). -/
def standbyMarch (v : Variant) (bad : List Nat) (d : Dev) : Dev :=
  if d.num 0x3050 1 1 = 1 then
    let d1 := bad.foldl (fun (d : Dev) a => marchFault codeStandby (a / 32) d) (d.count 0x3052 ssStandby 1)
    if bad = [] then d1 else enterSafe v d1
  else d

/-- STANDBY_START: order 2 of Table 18.3. `matched` says whether the ROM's digest and the derived key match; `bad` lists the words of the
standby scratchpad that fail the march. -/
def standbyStartOp (v : Variant) (mpen matched : Bool) (bad : List Nat) (d : Dev) : Dev :=
  if d.seq.stbyUp || !d.seq.auxIn then d
  else
    let d1 := standbyFresh (clearStandby { d with seq := { d.seq with stbyRstN := true, stbyUp := true, mpen := mpen, safe := false } })
    let d2 := { d1 with sec := { d1.sec with romdig := Config.romDigest, romShown := Config.romDigest, key := matched } }
    let d3 := standbyMarch v bad (recoverJournal d2)
    let d4 := d3.fwCount 0x7003 2 4 1
    driveFault (if matched then d4 else keyFault v d4)

def execStandbyStart (mpen matched : Bool) (badWords : List Nat) (s : State) : Host.Outcome State Fault Refusal :=
  .next (s.on (standbyStartOp s.variant mpen matched badWords s.dev))

/-- Main power goes first when it is up (R488), then the controller stops: what waits for its record is lost, and its outputs float high. -/
def stopStandby (v : Variant) (d : Dev) : Dev :=
  let d1 := dropWaiting d
  let d2 := if mainOn d1 then mainDown v d1 else d1
  let d3 := standbyFresh d2
  { d3 with seq := { d3.seq with stbyUp := false, safe := false, faultN := true },
            log := { d3.log with cursors := (List.range 5).map (fun k => (k, d3.log.rseq)), select := [], acceptedNow := 0 } }

/-- STANDBY_RESET_ASSERT. -/
def standbyResetAssertOp (v : Variant) (d : Dev) : Dev :=
  let d1 := if d.seq.stbyUp then stopStandby v d else d
  { d1 with seq := { d1.seq with stbyRstN := false } }

def execStandbyResetAssert (s : State) : Host.Outcome State Fault Refusal := .next (s.on (standbyResetAssertOp s.variant s.dev))

/-- The tamper count of a slow fall is recorded before the supply is gone (R489). -/
def slowFall (v : Variant) (d : Dev) : Dev :=
  let d1 := tamperOp v 2 (tamperFilterNs 2) d
  let count := odKey 0x7002 2
  flushP v { d1 with jour := { d1.jour with waiting := d1.jour.waiting.filter (fun w => w.vals.any (fun e => e.1 = count)) } }

/-- AUX_BROWNOUT: at 2.70 V the controller is reset. A fall that took more than 10 µs is counted as tamper. -/
def auxBrownoutOp (v : Variant) (fallUs : Nat) (d : Dev) : Dev :=
  let d1 := if d.seq.stbyUp then stopStandby v (if 10 < fallUs then slowFall v d else d) else d
  { d1 with seq := { d1.seq with auxIn := false } }

def execAuxBrownout (fallUs : Nat) (s : State) : Host.Outcome State Fault Refusal := .next (s.on (auxBrownoutOp s.variant fallUs s.dev))

/-- MANAGEMENT_LINK_CHANGE (OD 0x1104.04). -/
def managementLinkChangeOp (up : Bool) (d : Dev) : Dev :=
  if d.seq.stbyUp then { d with tam := { d.tam with linkUp := up } } else d

def execManagementLinkChange (up : Bool) (s : State) : Host.Outcome State Fault Refusal := .next (s.on (managementLinkChangeOp up s.dev))

/-! ### Main power (Tables 18.3 and 18.5) -/

/-- MAIN_EN_RISE: order 3. After an input fault MAIN_EN must have been low first (R482). -/
def mainEnRiseOp (d : Dev) : Dev :=
  if d.seq.stbyUp && d.seq.vinIn && d.seq.phase == .off && !(d.seq.inputFault && d.seq.mainEn) then
    driveFault { d with seq := { d.seq with mainEn := true, phase := .rising, inputFault := false } }
  else { d with seq := { d.seq with mainEn := true } }

def execMainEnRise (s : State) : Host.Outcome State Fault Refusal := .next (s.on (mainEnRiseOp s.dev))

/-- RAILS_SETTLED: the end of order 4. CLKMh is sampled. -/
def railsSettledOp (clkm : List Bool) (d : Dev) : Dev :=
  if d.seq.phase == .rising then
    { d with seq := { d.seq with phase := .testing, clkm := (List.range 4).map (fun h => nth false clkm h) } }
  else d

def execRailsSettled (clkm : List Bool) (s : State) : Host.Outcome State Fault Refusal := .next (s.on (railsSettledOp clkm s.dev))

/-- Failing macro slots of one wedge. -/
def failedSlots (units : List Target) (w : Nat) : List Nat :=
  (units.filterMap (fun t => match t with
    | .mac f g m => if 16 * f + g = w then some (192 * w + m) else none
    | _ => none)).eraseDups

/-- Failing lanes of one engine. -/
def failedLanes (units : List Target) (e : Nat) : List Nat :=
  (units.filterMap (fun t => match t with
    | .lane h g n => if 8 * h + g = e then some n else none
    | _ => none)).eraseDups

/-- The unit that the failure of a target holds in reset: slots that can be retired and lanes of an engine with good ones hold none
(R457). -/
def heldBy (d : Dev) (units : List Target) : Target → Option Target
  | .mac f w _ => if (failedSlots units (16 * f + w)).length ≤ (d.wedge (16 * f + w)).spares.length then none else some (.wedge f w)
  | .lane h e _ => if (failedLanes units (8 * h + e)).length < 64 then none else some (.engine h e)
  | .core h _ => some (.hub h)
  | t => some t

/-- A failing part that holds no unit: its slot is to be retired, or its lane is out of the ring. -/
def sparePart (d : Dev) : Target → Dev
  | .mac f w m => d.modMac (3072 * f + 192 * w + m) (fun x => { x with retire := true })
  | .lane h e n => d.modLane (8 * h + e) n (fun x => { x with inRing := false })
  | _ => d

/-- Self-test of one unit that failed. -/
def failPowerOn (units : List Target) (d : Dev) (t : Target) : Dev :=
  match heldBy d units t with
  | none => sparePart d t
  | some u =>
    let c := codeOf u
    if d.seq.unitHeld.contains c then d
    else { d with seq := { d.seq with unitHeld := d.seq.unitHeld ++ [c] } }.post evSelftestFail (targetHub u) c []

/-- The words that the start-up march finds bad: none when it is skipped. -/
def startupBad (v : Variant) (d : Dev) (words : List (Nat × Nat)) : List (Nat × Nat) :=
  if d.num 0x3050 1 1 = 1 then words.filter (fun e => issuerPresent v e.1) else []

/-- The destroying march of every memory in service, or of which a word failed, is counted, and leaves zeros (R306, R307). -/
def startupMarch (v : Variant) (bad : List (Nat × Nat)) (d : Dev) : Dev :=
  let clear := { d with spad := [] }
  if d.num 0x3050 1 1 = 1 then
    ((List.range 576).filter (fun w => facetPresent v (w / 16)) ++ (List.range 16).filterMap (fun i =>
      if hubPresent v (i / 4) then some (0x4000 + i) else none)).foldl (fun (d : Dev) c =>
        if issuerOffline d c && bad.all (fun e => e.1 != c) then d else d.count 0x3052 (issuerSs c) 1) clear
  else clear

/-- The unit that a bad word of its memory fails: the wedge, or the hub of a control core (R308, Table 16.6). -/
def badHubs (bad : List (Nat × Nat)) : List Nat := (bad.filter (fun e => decide (576 ≤ e.1))).map (fun e => issuerHub e.1)
def badWedges (bad : List (Nat × Nat)) : List Target :=
  ((bad.filter (fun e => decide (e.1 < 576))).map (fun e => e.1)).eraseDups.map (fun w => .wedge (w / 16) (w % 16))

/-- Orders 2 to 6 of Table 16.7 with H0's control domain good. Absent units are not tested (R12). A wedge's reads take the guard band of
now until its first tile (R48). -/
def selfTestAll (v : Variant) (failedHubs : List Nat) (units : List Target) (words : List (Nat × Nat)) (d : Dev) : Dev :=
  let bad := (hubsPresent v).filter (fun h => failedHubs.contains h)
  let units := units.filter (targetPresent v)
  let d1 := { d with seq := { d.seq with hubHeld := bad, unitHeld := [], isolated := [] }, guard0 := d.num 0x2000 1 4 }
  let d2 := bad.foldl (fun (d : Dev) h => d.post evSelftestFail h (codeOf (.hub h)) []) d1
  let d3 := startupMarch v words (units.foldl (failPowerOn units) d2)
  let d4 := { d3 with seq := { d3.seq with phase := .up, mainPg := true } }
  let d5 := ((List.range 64).filter (linkPresent v)).foldl (fun (d : Dev) l => startLink v l d) d4
  driveFault ((List.range 4).foldl (fun (d : Dev) h => trainIfFree v h d) d5)

/-- The hubs and the units among the codes that fail self-test. -/
def hubCode (c : Nat) : Option Nat :=
  match targetOf c with
  | some (.hub h) => some h
  | _ => none
def failedHubs (failed : List Nat) : List Nat := failed.filterMap hubCode
def failedUnits (failed : List Nat) : List Nat := failed.filter (fun c => (hubCode c).isNone)

/-- A free spare slot that fails: class 4 with the slot's number, 192 to 195, which names no unit target; as wedge * 256 + slot. -/
def spareOf (c : Nat) : Option Nat :=
  let slot := bitsOf c 23 16
  if bitsOf c 3 0 = 4 ∧ bitsOf c 11 6 < 36 ∧ 192 ≤ slot ∧ slot < 196 then some ((16 * bitsOf c 11 6 + bitsOf c 15 12) * 256 + slot) else none

/-- POWER_ON_SELFTEST: held while MOD_RST_N is low (R488). A power cycle leaves the safe state only with no tamper condition present (R476); in
RETIRED the hubs stay held (Table 17.4). -/
def powerOnSelftestOp (v : Variant) (hubsBad unitsBad : List Nat) (words : List (Nat × Nat)) (d : Dev) : Dev :=
  if !(d.seq.stbyUp && d.seq.modRstN && d.seq.phase == .testing) then d
  else match d.seq.safe, d.sec.present with
    | true, code :: _ => startTamper v code d
    | safe, _ =>
      let d1 := if safe then leaveSafe d else d
      let bad := startupBad v d words
      let hubs := hubsBad ++ badHubs bad
      let d2 := bad.foldl (fun (d : Dev) e => marchFault e.1 (e.2 / 32) d) d1
      if hubs.contains 0 then enterSafe v d2
      else if d1.sec.lcs = 3 then driveFault (holdAll v d1)
      else selfTestAll v hubs (unitsBad.filterMap targetOf ++ badWedges bad) bad (dropSpares (unitsBad.filterMap spareOf) d2)

def execPowerOnSelftest (failed : List Nat) (badWords : List (Nat × Nat)) (s : State) : Host.Outcome State Fault Refusal :=
  .next (s.on (powerOnSelftestOp s.variant (failedHubs failed) (failedUnits failed) badWords s.dev))

/-- MAIN_EN_FALL: Table 18.5, whatever the order of power-up that had been reached (R488). -/
def mainEnFallOp (v : Variant) (d : Dev) : Dev :=
  let d1 := if mainOn d then mainDown v d else d
  { d1 with seq := { d1.seq with mainEn := false } }

def execMainEnFall (s : State) : Host.Outcome State Fault Refusal := .next (s.on (mainEnFallOp s.variant s.dev))

/-- INPUT_FAULT (R482): VIN48 out of range for more than 20 µs with MAIN_EN high. -/
def inputFaultOp (v : Variant) (overVolt : Bool) (durationUs : Nat) (d : Dev) : Dev :=
  if !(d.seq.stbyUp && d.seq.mainEn) || d.seq.inputFault || decide (durationUs ≤ 20) then d
  else
    let d1 := if mainOn d then mainDown v d else d
    let d2 := driveFault { d1 with seq := { d1.seq with inputFault := true } }
    (d2.fwCount 0x4020 1 4 1).fwP 0x4020 2 (toLe 1 (if overVolt then 2 else 1))

def execInputFault (overVolt : Bool) (durationUs : Nat) (s : State) : Host.Outcome State Fault Refusal :=
  .next (s.on (inputFaultOp s.variant overVolt durationUs s.dev))

/-! ### Resets of the module, a port and a control domain -/

/-- MODULE_WARM_RESET (R485). During power-up it only holds the sequence (R488); in the safe state the hubs are held already. -/
def moduleWarmResetOp (v : Variant) (lowUs : Nat) (d : Dev) : Dev :=
  if lowUs < 10 then d
  else
    let d1 := { d with seq := { d.seq with modRstN := false } }
    if d1.seq.phase == .up then
      let d2 := loseQV (holdModule v d1)
      { d2 with seq := { d2.seq with phase := .warm } }
    else d1

def execModuleWarmReset (lowUs : Nat) (s : State) : Host.Outcome State Fault Refusal :=
  .next (s.on (moduleWarmResetOp s.variant lowUs s.dev))

/-- MODULE_WARM_RESET_RELEASE: self-test runs again from order 2. -/
def moduleWarmResetReleaseOp (d : Dev) : Dev :=
  { d with seq := { d.seq with modRstN := true, phase := if d.seq.phase == .warm then .testing else d.seq.phase } }

def execModuleWarmResetRelease (s : State) : Host.Outcome State Fault Refusal := .next (s.on (moduleWarmResetReleaseOp s.dev))

/-- A port is reset: it leaves PCIe until it trains again. -/
def portDown (v : Variant) (h : Nat) (d : Dev) : Dev := if mainOn d && portPresent v h then resetUnit v (.port h) d else d

/-- PORT_RESET: the port's reset holds until PERST_RELEASE (DESIGN CHOICE, notes/assumptions/45.md). -/
def portResetOp (v : Variant) (h : Nat) (d : Dev) : Dev :=
  if portPresent v h then
    let d1 := portDown v h d
    { d1 with seq := { d1.seq with perstN := setAt d1.seq.perstN h false } }
  else d

def execPortReset (port : Nat) (s : State) : Host.Outcome State Fault Refusal := .next (s.on (portResetOp s.variant port s.dev))

/-- PERST_RELEASE: before MAIN_PG is high it takes effect when MAIN_PG goes high (R488). -/
def perstReleaseOp (v : Variant) (h : Nat) (d : Dev) : Dev :=
  if portPresent v h then trainIfFree v h { d with seq := { d.seq with perstN := setAt d.seq.perstN h true } } else d

def execPerstRelease (port : Nat) (s : State) : Host.Outcome State Fault Refusal := .next (s.on (perstReleaseOp s.variant port s.dev))

/-- REFCLK_STOP: the hub's timer stops, and its port link goes down as a port reset (R486). -/
def refclkStopOp (v : Variant) (h : Nat) (d : Dev) : Dev :=
  if hubPresent v h && nth false d.seq.refclk h then
    let d1 := portDown v h d
    { d1 with seq := { d1.seq with refclk := setAt d1.seq.refclk h false } }
  else d

def execRefclkStop (hub : Nat) (s : State) : Host.Outcome State Fault Refusal := .next (s.on (refclkStopOp s.variant hub s.dev))

/-- REFCLK_RESTART. -/
def refclkRestartOp (v : Variant) (h : Nat) (d : Dev) : Dev :=
  if hubPresent v h && !nth false d.seq.refclk h then
    trainIfFree v h { d with seq := { d.seq with refclk := setAt d.seq.refclk h true } }
  else d

def execRefclkRestart (hub : Nat) (s : State) : Host.Outcome State Fault Refusal := .next (s.on (refclkRestartOp s.variant hub s.dev))

/-- HUB_CONTROL_RESET (R382). The reset of a core that holds a tile between its test-and-set and its last write is deferred (R249). -/
def hubControlResetOp (v : Variant) (h : Nat) (d : Dev) : Dev :=
  if !(hubPresent v h && mainOn d) then d
  else
    let late := [0, 1, 2, 3].filter (fun c => coreWriting d h c && !d.seq.deferred.contains (codeOf (.core h c)))
    let d1 := resetControlOf v ([0, 1, 2, 3].filter (fun c => !coreWriting d h c)) h d
    { d1 with seq := { d1.seq with deferred := d1.seq.deferred ++ late.map (fun c => codeOf (.core h c)) } }

def execHubControlReset (hub : Nat) (s : State) : Host.Outcome State Fault Refusal := .next (s.on (hubControlResetOp s.variant hub s.dev))

end Sys2Proof.Machine
end

