-- ==== Sys2Proof/Machine/Quantise.lean ====
section
/-!
DEFINITION. Forming sides (ch. 4): a tile issue in the order of Table 4.3 (R99 to R108, R499), and the conversion DMA (R88, R109,
R500). Part 0 of a tile is its output (K of a KV append), part 1 the intermediate of a fused pair (V of a KV append).
-/
namespace Sys2Proof.Machine

open Sys2Proof

/-! ### What a forming issue covers -/

/-- Tracker base, number of positions and outlier matrix of a part (R98, R108, R166, R228, R230). -/
def formRange (d : Dev) (t : Tile) (part : Nat) : Nat × Nat × Nat :=
  if t.inst.func = fLAPP then (t.prm.trk0 + part, 1, 0)
  else if part = 1 then (t.prm.trk0, cdiv (midWidth d t) 32, t.prm.mat2)
  else if t.inst.func = fMFUSE then (t.prm.trk1, cdiv t.b1 32, t.prm.omat)
  else if t.inst.func = fLATT then (t.prm.trk0, (laneShape t.inst.shape).2.2 / 32, 0)
  else (t.prm.trk0, cdiv t.b1 32, t.prm.omat)

/-- The outlier list of a matrix ID; 0 names none. -/
def outlierList (d : Dev) (m : Nat) : List Nat := if m = 0 then [] else (d.matOf m).elim [] (fun x => x.outliers)

/-- Entries of the seed area before a part's range (R105). -/
def seedSkip (d : Dev) (t : Tile) (part : Nat) : Nat :=
  if t.inst.func = fLAPP then part
  else if t.inst.func = fMFUSE ∧ part = 0 then
    cdiv (midWidth d t) 32 + (if outlierList d t.prm.mat2 = [] then 0 else 1)
  else 0

/-- Subindex, hub and unit of a quantiser; its power domain. -/
def formSs (q : Nat) : Nat := if q < 576 then ssFacet (facetOfWedge q) else ssEngine (q - 576)
def quantHub (q : Nat) : Nat := if q < 576 then hubOfWedge q else (q - 576) / 8
def quantUnit (q : Nat) : BitVec 32 := if q < 576 then wedgeTarget q else engineTarget (q - 576)
def quantDom (q : Nat) : Nat := if q < 576 then domWedge q else domEngine (q - 576)

/-- The exponent of tracker entry `i` at order 1 (R99, R105). `s` is its place in the seed area. -/
def entryExp (d : Dev) (q : Nat) (t : Tile) (i s : Nat) : BitVec 8 :=
  let seed := BitVec.ofNat 8 (d.num 0x2040 3 0x78)
  if t.inst.trk = 1 then
    let e := BitVec.ofNat 8 (d.sreadNat t.issuer (16 * t.prm.sadr + 4 * s) 1)
    if e = 0xFF then seed else e
  else
    let k := tget {} (d.quant q).track i
    if k.valid then k.exp else seed

/-- Key of a position of a part; that of its outlier values. -/
def posKey (part pos : Nat) : Nat := part * 2 ^ 32 + pos
def outPos : Nat := 2 ^ 31

/-- Block positions of a part that a quantiser forms. -/
def formPositions (d : Dev) (t : Tile) (part q : Nat) : List Nat := ((formCols d t part q).map (fun c => c / 32)).eraseDups

/-- Places in an outlier list whose channels a quantiser forms. -/
def formPlaces (list : List Nat) (d : Dev) (t : Tile) (part q : Nat) : List Nat :=
  let cols := formCols d t part q
  (list.zipIdx.filter (fun c => cols.contains c.1)).map Prod.snd

/-- The outlier list of a part that a forming issue read (R108). -/
def Forming.list (f : Forming) (part : Nat) : List Nat := nth [] f.outs part

/-- The forming side of block position 0 of a part, which has its outlier entry (R108): the wedge of column block 0's final adder. Rows of
lane tiles have that of the tile of the row that forms first (DESIGN CHOICE, notes/assumptions/132.md). -/
def outQuant (d : Dev) (t : Tile) (part q : Nat) : Nat :=
  if isMacroFn t.inst.func then (d.matOf (formMat t part)).elim q (fun m => wedgeOfMacro (m.placed 0 0)) else q

/-- The outlier values of the row of tiles that a tile's part belongs to. -/
def OutVec.serves (t : Tile) (part : Nat) (o : OutVec) : Bool :=
  o.job = t.job && o.ctr = t.ctr && o.gi = t.gi && o.part = part
def outVecOf (d : Dev) (t : Tile) (part : Nat) : Option OutVec := d.outVecs.find? (OutVec.serves t part)
def modOutVec (t : Tile) (part : Nat) (f : OutVec → OutVec) (d : Dev) : Dev :=
  { d with outVecs := d.outVecs.map (fun o => if o.serves t part then f o else o) }

/-! ### Orders 1 and 2 -/

/-- A tile's record in the outlier values of its row, as it starts. -/
def OutPart.start (tile : Nat) : OutPart := { tile := tile, amax := 0, clips := 0, nonfin := false, seen := [] }

/-- Order 1 for the outlier entry of a part that has an outlier list: read once for the row of tiles, by the first tile in flight that
starts; one that starts later forms under the same exponent (notes/assumptions/132.md). -/
def openOutVec (q : Nat) (t : Tile) (part : Nat) (d : Dev) : Dev :=
  let list := outlierList d (formRange d t part).2.2
  if partForms t part = false ∨ list = [] then d
  else match outVecOf d t part with
    | some o => if o.parts.any (fun p => p.tile = t.id) then d
      else modOutVec t part (fun y => { y with parts := y.parts ++ [OutPart.start t.id] }) d
    | none =>
      let r := formRange d t part
      let oq := outQuant d t part q
      let o : OutVec :=
        { quant := oq, job := t.job, ctr := t.ctr, gi := t.gi, part := part, entry := r.1 + r.2.1,
          exp := entryExp d oq t (r.1 + r.2.1) (seedSkip d t part + r.2.1), trk := t.inst.trk, headroom := d.num 0x2040 1 1,
          list := list, parts := [OutPart.start t.id] }
      { d with outVecs := d.outVecs ++ [o] }

/-- A scale entry of a part goes out, to the scale tensor or to the second product. -/
def sendScale (q : Nat) (t : Tile) (part vec pos : Nat) (e : BitVec 8) (d : Dev) : Dev :=
  if part = 1 then
    (d.modTile t.id (fun y => { y with midExp := tset y.midExp (midKey vec pos) e })).emit
      (.scale q { exp := e, tag := midTag d t vec pos })
  else d.modTile t.id (fun y => { y with results := y.results ++ [resultAt t 5 pos (t.rowAt vec) e.toNat] })

/-- The exponent of a vector's outlier values goes out (R108, R499). -/
def sendOutExp (q : Nat) (t : Tile) (part vec : Nat) (e : BitVec 8) (d : Dev) : Dev :=
  if part = 1 then
    (d.modTile t.id (fun y => { y with midOutExp := tset y.midOutExp (midKey vec 0) e })).emit
      (.scale q { exp := e, tag := BitVec.ofNat 4 (t.rowAt vec) })
  else
    let r : PendWrite := { desc := t.handle 12, coord := (t.rowAt vec : Int) :: t.origins 12, bits := BitVec.ofNat 64 e.toNat }
    d.modTile t.id (fun y => { y with results := y.results ++ [r] })

/-- Order 2 of a part: its scale entries, and with block position 0 the exponents of the outlier values. -/
def sendScales (q : Nat) (t : Tile) (f : Forming) (part : Nat) (d : Dev) : Dev :=
  let ps := formPositions d t part q
  let d1 := (List.range (formVecs t)).foldl (fun d v => ps.foldl (fun d pos =>
    sendScale q t part v pos (tget 0 f.exps (posKey part pos)) d) d) d
  match outVecOf d1 t part with
  | none => d1
  | some o => if ps.contains 0 then (List.range (formVecs t)).foldl (fun d v => sendOutExp q t part v o.exp d) d1 else d1

/-- The record of a forming issue as order 1 leaves it: every entry that the side reads for the tile, and the settings in force (R106). -/
def startForming (q : Nat) (t : Tile) (parts : List (Nat × List Nat)) (d : Dev) : Forming :=
  let exps := parts.foldl (fun (x : Tab (BitVec 8)) p => p.2.foldl (fun x pos =>
    tset x (posKey p.1 pos) (entryExp d q t ((formRange d t p.1).1 + pos) (seedSkip d t p.1 + pos))) x) []
  { tile := t.id, trk := t.inst.trk, strict := t.inst.strict || d.num 0x2040 2 0 = 1, headroom := d.num 0x2040 1 1, exps := exps,
    outs := [0, 1].map (fun p => outlierList d (formRange d t p).2.2), ended := [0, 1].filter (fun p => formPositions d t p q = []),
    amax := [], clips := [], nonfin := [], seen := [] }

/-- The side has ended its issue of a tile. -/
def formEnded (t : Tile) (q : Nat) : Bool := t.reduced.contains (2 ^ 40 + q, 0)

/-- The record of a forming issue in progress. -/
def formingOf (d : Dev) (q tile : Nat) : Option Forming := (d.quant q).forming.find? (fun f => f.tile = tile)
def modForming (q tile : Nat) (f : Forming → Forming) (d : Dev) : Dev :=
  d.modQuant q (fun x => { x with forming := x.forming.map (fun y => if y.tile = tile then f y else y) })

/-- Orders 1 and 2 of Table 4.3 on one forming side of a tile, over both parts that it forms. -/
def formingIssueStartOp (q tile : Nat) (d : Dev) : Dev :=
  match d.tileOf tile with
  | none => d
  | some t =>
    if t.stage ≠ .issued ∨ (formSides d t).contains q = false ∨ (formingOf d q tile).isSome = true ∨ formEnded t q = true ∨
        domRuns d (quantDom q) = false then d
    else
      let f := startForming q t ([0, 1].map (fun p => (p, formPositions d t p q))) d
      let d1 := d.modQuant q (fun x => { x with forming := x.forming ++ [f] })
      let d2 := openOutVec q t 1 (openOutVec q t 0 d1)
      sendScales q t f 0 (sendScales q t f 1 d2)

/-! ### Order 3: elements (R100, R108) -/

/-- The value of an output or intermediate is formed. -/
def valueReady (t : Tile) (part vec col u : Nat) : Bool :=
  if isMacroFn t.inst.func then
    let cb := col / u
    let product := if part = 1 then (if t.inst.fuse = 2 then 1 else 0) else if t.inst.func = fMFUSE then 2 else 0
    t.reduced.contains (product * 2 ^ 32 + cb, vec)
  else t.reduced.contains (0, 0)

/-- Units of a column block of a part. -/
def partUnits (d : Dev) (t : Tile) (part : Nat) : Nat := (d.matOf (formMat t part)).elim 1 (fun m => unitsOf m.packing)

/-- The larger of two magnitudes, as binary32 bits of nonnegative values; a value that is not finite leaves the old one. -/
def amaxWith (old x : W32) (nonfinite : Bool) : W32 :=
  let m := x &&& 0x7FFFFFFF
  if nonfinite then old else if old.toNat < m.toNat then m else old

/-- What a position's record becomes by an element: `e` is its quantisation (value, clipped, not finite). -/
def Forming.add (f : Forming) (key vec seen : Nat) (x : W32) (e : Int × Bool × Bool) : Forming :=
  { f with amax := tmod 0 f.amax key (fun a => amaxWith a x e.2.2),
           clips := if e.2.1 then tmod 0 f.clips (key * 65536 + vec) (· + 1) else f.clips,
           nonfin := if e.2.2 ∧ f.nonfin.contains key = false then f.nonfin ++ [key] else f.nonfin,
           seen := f.seen ++ [seen] }

/-- Key of an element that has left. -/
def seenKey (part vec n : Nat) : Nat := part * 2 ^ 60 + vec * 2 ^ 34 + n

/-- Counts of a quantised element: `clip` is the entry for its clips. -/
def countElem (q clip : Nat) (e : Int × Bool × Bool) (d : Dev) : Dev :=
  let d1 := if e.2.1 then d.count clip (formSs q) 1 else d
  if e.2.2 then d1.count 0x2046 (formSs q) 1 else d1

/-- One element of a block leaves: to the data tensor, or to the second product with the tag of its block. An outlier channel is zero. -/
def blockElement (q : Nat) (t : Tile) (part : Nat) (f : Forming) (vec col : Nat) (d : Dev) : Dev :=
  let isOut := (f.list part).contains col
  let x : W32 := if isOut then 0 else tget 0 t.outs (outKey part vec col)
  let key := posKey part (col / 32)
  let e := quantElem 127 x (tget 0 f.exps key)
  let d1 := countElem q 0x2041 e (modForming q t.id (fun y => y.add key vec (seenKey part vec col) x e) d)
  let b := BitVec.ofInt 8 e.1
  if part = 1 then (d1.modTile t.id (fun y => { y with mid := tset y.mid (midKey vec col) b })).emit (.element q vec col b)
  else d1.modTile t.id (fun y => { y with results := y.results ++ [resultAt t 4 col (t.rowAt vec) b.toNat] })

/-- What an outlier value adds to its tile's record. -/
def OutPart.add (p : OutPart) (vec i : Nat) (x : W32) (e : Int × Bool × Bool) : OutPart :=
  { p with amax := amaxWith p.amax x e.2.2, clips := p.clips + (if e.2.1 then 1 else 0), nonfin := p.nonfin || e.2.2,
           seen := p.seen ++ [vec * 65536 + i] }

/-- One outlier value of a vector, whose channel the side forms, leaves on the third stream, quantised by the forming side that has the
outlier entry. -/
def outlierElement (q : Nat) (t : Tile) (part : Nat) (o : OutVec) (vec i col : Nat) (d : Dev) : Dev :=
  let x := tget 0 t.outs (outKey part vec col)
  let e := quantElem 32767 x o.exp
  let d1 := modOutVec t part (fun y => { y with parts := y.parts.map (fun p => if p.tile = t.id then p.add vec i x e else p) }) d
  let d2 := countElem o.quant 0x2047 e (modForming q t.id (fun y =>
    { y.add (posKey part outPos) vec (seenKey part vec (2 ^ 33 + i)) 0 e with amax := y.amax }) d1)
  let b := BitVec.ofInt 16 e.1
  if part = 1 then (d2.modTile t.id (fun y => { y with midOut := tset y.midOut (midKey vec i) b })).emit (.outlier t.id vec i b)
  else d2.modTile t.id (fun y => { y with results := y.results ++ [resultAt t 11 i (t.rowAt vec) b.toNat] })

/-- An element of the intermediate of a fused pair finds the staging buffer of a macro of the second matrix full: its forming side is held
(Table 10.6). -/
def midHeld (d : Dev) (t : Tile) (part col : Nat) : Bool :=
  part = 1 && (d.matOf t.prm.mat2).elim false (fun m =>
    (List.range m.colBlocks).any (fun cb => stagingFull d (m.placed (col / 32) cb)))

/-- Order 3: element `pos` of a vector, or outlier value pos - 2^32 of it. -/
def quantiseElementOp (q tile part vec pos : Nat) (d : Dev) : Dev :=
  match d.tileOf tile, formingOf d q tile with
  | some t, some f =>
    let u := partUnits d t part
    if vec ≥ formVecs t ∨ partForms t part = false ∨ domRuns d (quantDom q) = false then d
    else if pos < 2 ^ 32 then
      if (formCols d t part q).contains pos && !f.seen.contains (seenKey part vec pos) && valueReady t part vec pos u &&
          !midHeld d t part pos then
        blockElement q t part f vec pos d
      else d
    else
      let i := pos - 2 ^ 32
      let col := nth 0 (f.list part) i
      match outVecOf d t part with
      | none => d
      | some o =>
        if (formPlaces (f.list part) d t part q).contains i && !f.seen.contains (seenKey part vec (2 ^ 33 + i)) && valueReady t part vec col u &&
            domRuns d (quantDom o.quant) then outlierElement q t part o vec i col d
        else d
  | _, _ => d

/-! ### Order 4 (R101 to R105) -/

/-- The entry that a position leaves, whether it rises, whether it is underused, whether it meets SCALE_MISS. -/
structure Judged where
  entry : Track
  rise : Bool
  under : Bool
  miss : Bool
deriving DecidableEq, Repr

/-- A block position at the end of an issue; `clips` by vector. -/
def judgePos (e : BitVec 8) (amax : W32) (nonfin : Bool) (clips : List Nat) (h : Nat) : Judged :=
  let qa := qamaxOf 127 amax e
  let nx := nextExp 127 16 e amax qa h
  let under := 0 < qa && qa < 16
  let miss := scaleMissAt clips qa
  { entry := { exp := nx, qamax := qa, clips := min 31 clips.sum, under := under, zero := amax = 0 && !nonfin, miss := miss,
               valid := true },
    rise := decide (e.toNat < nx.toNat), under := under, miss := miss }

/-- The outlier entry over what the tiles of its row have formed. -/
def judgeOut (o : OutVec) : Judged :=
  let amax := o.parts.foldl (fun a p => amaxWith a p.amax false) 0
  let clips : Nat := (o.parts.map (fun p => p.clips)).sum
  let qa := qamaxOf 32767 amax o.exp
  let nx := nextExp 32767 4096 o.exp amax qa o.headroom
  let under := 0 < qa && qa < 4096
  let miss := decide (0 < clips)
  { entry := { exp := nx, qamax := qa / 256, clips := min 31 clips, under := under, zero := amax = 0 && !o.parts.any (fun p => p.nonfin),
               miss := miss, valid := true },
    rise := decide (o.exp.toNat < nx.toNat), under := under, miss := miss }

/-- Every block position of a part of an issue with its tracker entry's index. The next exponent starts from the exponent that the block
was quantised under (R101), which for a row of a span is the span's (DESIGN CHOICE, notes/assumptions/155.md). -/
def judgeAll (d : Dev) (t : Tile) (f : Forming) (part : Nat) : List (Nat × Judged) :=
  (f.exps.filter (fun e => e.1 / 2 ^ 32 = part)).map (fun e =>
    let clips := (List.range (formVecs t)).map (fun v => tget 0 f.clips (e.1 * 65536 + v))
    ((formRange d t part).1 + e.1 % 2 ^ 32, judgePos e.2 (tget 0 f.amax e.1) (f.nonfin.contains e.1) clips f.headroom))

/-- Every element that a side forms of a part of a tile has left. -/
def partSeen (d : Dev) (t : Tile) (part q : Nat) (f : Forming) : Bool :=
  (f.seen.filter (fun k => k / 2 ^ 60 = part)).length =
    formVecs t * ((formCols d t part q).length + (formPlaces (f.list part) d t part q).length)

/-- Every element of a part of the tile issue has left, on all its forming sides (R104; separately for the parts, R231). -/
def partLeft (d : Dev) (t : Tile) (part : Nat) : Bool :=
  (formSides d t).all (fun q => formEnded t q ||
    (formingOf d q t.id).elim false (fun f => f.ended.contains part || partSeen d t part q f))

/-- The SCALE_MISS of an issue (R102, R103): counted and posted once for the tile, at the first side that meets it (DESIGN CHOICE,
notes/assumptions/133.md); a lenient tile is flagged, and a strict one is to fail. -/
def scaleMiss (q : Nat) (t : Tile) (strict : Bool) (d : Dev) : Dev :=
  let d1 := if t.smiss || t.strictMiss then d
    else (d.count 0x2043 (formSs q) 1).post evScaleMiss (quantHub q) (quantUnit q) []
  d1.modTile t.id (fun y => if strict then { y with strictMiss := true } else { y with smiss := true })

/-- The entries of an issue are written unless the mode is frozen. -/
def writeEntries (q trk : Nat) (js : List (Nat × Judged)) (d : Dev) : Dev :=
  if trk = 2 then d
  else
    (d.modQuant q (fun x => { x with track := js.foldl (fun t j => tput {} t j.1 j.2.entry) x.track })).count 0x2045 (formSs q)
      ((js.filter (fun j => j.2.rise)).length)

/-- Every outlier value of the row of tiles has left: those of the channels that the tiles form. -/
def outVecDone (t : Tile) (o : OutVec) : Bool :=
  let places := (o.list.zipIdx.filter (fun c => o.part = 1 || decide (c.1 < t.b1))).map Prod.snd
  (List.range (formVecs t)).all (fun v => places.all (fun i => o.parts.any (fun p => p.seen.contains (v * 65536 + i))))

/-- The outlier entry of a part is written when the last value of its row of tiles has left, and with what has left where `failing`, as
a strict tile of the row meets SCALE_MISS (R103). An underused outlier entry is not counted in OD 0x2042, which counts block positions
(DESIGN CHOICE, notes/assumptions/153.md). -/
def closeOutVec (t : Tile) (part : Nat) (failing : Bool) (d : Dev) : Dev :=
  match outVecOf d t part with
  | none => d
  | some o =>
    if failing || outVecDone t o then
      writeEntries o.quant o.trk [(o.entry, judgeOut o)] { d with outVecs := d.outVecs.filter (fun x => !x.serves t part) }
    else d

/-- Order 4 of one part: SCALE_MISS is decided, underused positions are counted, the entries are written. -/
def endPart (q : Nat) (t : Tile) (f : Forming) (d : Dev) (part : Nat) : Dev :=
  let js := judgeAll d t f part
  let outClip := f.clips.any (fun e => e.1 / 65536 = posKey part outPos && decide (0 < e.2))
  let miss := js.any (fun j => j.2.miss) || outClip
  let d1 := d.count 0x2042 (formSs q) (js.filter (fun j => j.2.under)).length
  let d2 := modForming q t.id (fun y => { y with ended := y.ended ++ [part] }) (writeEntries q f.trk js d1)
  closeOutVec t part (miss && f.strict) (if miss then scaleMiss q t f.strict d2 else d2)

/-- The forming side has ended its issue of a tile: its record goes, and the tile has one step fewer before it. -/
def dropForming (q tile : Nat) (d : Dev) : Dev :=
  d.modQuant q (fun x => { x with forming := x.forming.filter (fun y => y.tile ≠ tile) })
def endForming (q tile : Nat) (d : Dev) : Dev :=
  itemDone tile ((dropForming q tile d).modTile tile (fun y => { y with reduced := y.reduced ++ [(2 ^ 40 + q, 0)] }))

/-- Order 4 on one forming side, for each part of which every element of the tile issue has left (R104, R231): SCALE_MISS, the next
exponents, the entries. -/
def formingIssueEndOp (q tile : Nat) (d : Dev) : Dev :=
  match d.tileOf tile, formingOf d q tile with
  | some t, some f =>
    let ps := [1, 0].filter (fun p => !f.ended.contains p && partLeft d t p)
    if ps = [] ∨ domRuns d (quantDom q) = false then d
    else
      let d1 := ps.foldl (fun d p => (d.tileOf tile).elim d (fun t => endPart q t f d p)) d
      if f.ended.length + ps.length = 2 then endForming q tile d1 else d1
  | _, _ => d

/-! ### The conversion DMA (R88, R109, R500) -/

/-- A block from a floating host format: exponent and elements, with clips, non-finite elements and underuse. -/
def fitBlock (xs : List W32) : BitVec 8 × List (Int × Bool × Bool) × Bool :=
  let a := xs.foldl (fun m x => amaxWith m x (match f32 x with | .fin _ _ => false | _ => true)) 0
  let e : BitVec 8 := if a = 0 then 0 else BitVec.ofNat 8 (fitExp 127 (f32 a).toRat 0)
  let qa := qamaxOf 127 a e
  (e, xs.map (fun x => quantElem 127 x e), 0 < qa && qa < 16)

/-- A block fitted by a conversion, with its counters at `ss`. -/
def countFit (ss : Nat) (b : BitVec 8 × List (Int × Bool × Bool) × Bool) (d : Dev) : Dev :=
  let c := (b.2.1.filter (fun e => e.2.1)).length
  let n := (b.2.1.filter (fun e => e.2.2)).length
  ((d.count 0x2041 ss c).count 0x2046 ss n).count 0x2042 ss (if b.2.2 then 1 else 0)

/-- The exponent of a block exported or imported under the OCP convention: none where the other side has no code. -/
def ocpExport (e : BitVec 8) : Option (BitVec 8) := if e = 0xFF then some e else if e.toNat ≥ 0xF9 then none else some (e + 6)
def ocpImport (e : BitVec 8) : Option (BitVec 8) := if e = 0xFF then some e else if e.toNat ≤ 5 then none else some (e - 6)

/-- A tensor that the conversion DMA reads or writes: a dense one without an index tensor, in device memory. -/
def dmaTensor (d : Dev) (h : Nat) : Option (Desc × Alloc) :=
  (d.descOf h).bind (fun x => if x.form = 0 ∧ x.ien = false then
      (d.allocOf x.alloc).bind (fun al => if al.kind = .stack then some (x, al) else none) else none)

/-- Declared coordinates of element i of the block at `y`. -/
def blockCoord (x : Desc) (y : List Nat) (i : Nat) : List Nat := y.set x.kdim (y.getD x.kdim 0 + i)

/-- Elements of the block at `y` that the tensor has. -/
def blockLen (x : Desc) (y : List Nat) : Nat := min 32 (x.extent x.kdim - y.getD x.kdim 0)

/-- The places of a block and of its scale lie in their tensors. -/
def inTensor (x : Desc) (y : List Nat) : Bool := y.length = x.nd + 1 && (List.range (x.nd + 1)).all (fun i => y.getD i 0 < x.extent i)

/-- The elements of a block of a tensor, and poison. -/
def dmaRead (v : Variant) (hub : Nat) (x : Desc) (al : Alloc) (y : List Nat) (n : Nat) (d : Dev) : List Nat × Bool × Dev :=
  (List.range n).foldl (fun (r : List Nat × Bool × Dev) i =>
    let f := elemAtPlace v al x { issuer := 0, tile := none, src := hubEndpoint hub 6 0 } hub (blockCoord x y i) r.2.2
    (r.1 ++ [f.1.bits], r.2.1 || f.1.poison, f.2)) ([], false, d)

/-- The elements of a block go to a tensor. -/
def dmaWrite (v : Variant) (x : Desc) (al : Alloc) (y : List Nat) (bits : List Nat) (d : Dev) : Dev :=
  (bits.zipIdx).foldl (fun d b =>
    devPut v al (denseBit x (blockCoord x y b.2) / 8) (toLe (fmtBits x.fmt / 8) b.1) d) d

/-- A block from a host format as it goes to device memory: exponent and elements, with its counts. `fmt` 0 is MXINT8, 1 to 5 the codes
of Table 4.4. -/
def importBlock (ss fmt : Nat) (ocp : Bool) (elems : List (BitVec 32)) (exp : BitVec 8) (d : Dev) :
    (BitVec 8 × List (BitVec 8)) × Dev :=
  if fmt = 0 then
    match if ocp then ocpImport exp else some exp with
    | some e => ((e, elems.map (fun x => x.setWidth 8)), d)
    | none => ((0, elems.map (fun _ => 0)), d.count 0x2048 ss 1)
  else
    let b := fitBlock (elems.map (fun x => toF32 (Fp.decode (srcFmt fmt) x.toNat)))
    ((b.1, b.2.1.map (fun e => BitVec.ofInt 8 e.1)), countFit ss b d)

/-- A block of device memory as it goes to the host. -/
def exportBlock (ss fmt : Nat) (ocp : Bool) (elems : List (BitVec 32)) (exp : BitVec 8) (d : Dev) :
    (BitVec 8 × List (BitVec 32)) × Dev :=
  if fmt = 0 then
    let low := elems.map (fun x => (x.setWidth 8).setWidth 32)
    match if ocp then ocpExport exp else some exp with
    | some e => ((e, low), d)
    | none => ((0xFF, low), d.count 0x2046 ss 1)
  else ((0, elems.map (fun x => BitVec.ofNat 32 (Fp.encode (srcFmt fmt) (f32 x)))), d)

/-- The binary32 bits, or for MXINT8 the byte, of an element that is exported. -/
def exportBits (fmt : Nat) (x : Desc) (b : Nat) : BitVec 32 :=
  if fmt = 0 ∨ x.fmt = 7 then BitVec.ofNat 32 b else toF32 (fpElem x.fmt b)

/-- Import of a block into the tensors `data` and `scale`, at declared coordinates of its first element. -/
def dmaImport (v : Variant) (hub fmt : Nat) (elems : List (BitVec 32)) (exp : BitVec 8) (x s : Desc × Alloc) (y : List Nat) (d : Dev) :
    Dev :=
  let r := importBlock (ssHub hub) fmt (x.1.ocp || s.1.ocp) (elems.take (blockLen x.1 y)) exp d
  let d1 := dmaWrite v x.1 x.2 y (r.1.2.map BitVec.toNat) r.2
  let d2 := dmaWrite v s.1 s.2 (y.set s.1.kdim (y.getD s.1.kdim 0 / 32)) [r.1.1.toNat] d1
  d2.emit (.dma hub r.1.1 (r.1.2.map (fun q => q.setWidth 32)))

/-- Export of a block of the tensor `data`, with the exponent of `scale` where the host takes MXINT8. A poisoned one is not sent. -/
def dmaExport (v : Variant) (hub fmt : Nat) (x : Desc × Alloc) (s : Option (Desc × Alloc)) (y : List Nat) (d : Dev) : Dev :=
  let r := dmaRead v hub x.1 x.2 y (blockLen x.1 y) d
  let e : List Nat × Bool × Dev := match s with
    | some q => dmaRead v hub q.1 q.2 (y.set q.1.kdim (y.getD q.1.kdim 0 / 32)) 1 r.2.2
    | none => ([0], false, r.2.2)
  if r.2.1 || e.2.1 then e.2.2
  else
    let b := exportBlock (ssHub hub) fmt (x.1.ocp || s.elim false (fun q => q.1.ocp)) (r.1.map (exportBits fmt x.1))
      (BitVec.ofNat 8 (nth 0 e.1 0)) e.2.2
    b.2.emit (.dma hub b.1.1 b.1.2)

/-- One block through the conversion DMA of a hub, between the host and the tensors `data` and `scale` at declared coordinates of its
first element. `elems` and `exp` are what the host supplies. The coordinate on the blocked dimension need not be a multiple of 32, and
the scale tensor need not have the shape of R89: the block is converted as it stands, and its exponent goes where the scale tensor has
one (DESIGN CHOICE, notes/assumptions/154.md). -/
def conversionDmaOp (v : Variant) (hub fmt : Nat) (toHost : Bool) (elems : List (BitVec 32)) (exp : BitVec 8) (data scale : Nat)
    (y : List Nat) (d : Dev) : Dev :=
  if targetOffline d (.hub hub) then d
  else match dmaTensor d data, dmaTensor d scale with
    | some x, s =>
      if !inTensor x.1 y then d
      else if toHost then
        (if fmt = 0 ∧ s.isNone = true then d else dmaExport v hub fmt x (if fmt = 0 then s else none) y d)
      else match s with
        | some q => if x.1.fmt = 0 ∧ q.1.fmt = 0xA ∧ x.1.use = 1 ∧ q.1.use = 1 then dmaImport v hub fmt elems exp x q y d else d
        | none => d
    | none, _ => d

/-! ### Meanings -/

/-- The forming side of a wedge's macro or of a stream engine's lanes, by its number. -/
def formingSide (engine : Bool) (unit : Nat) : Nat := if engine then 576 + unit else unit

def execFormingIssueStart (engine : Bool) (unit tile : Nat) (s : State) : Host.Outcome State Fault Refusal :=
  .next (s.on (formingIssueStartOp (formingSide engine unit) tile s.dev))

def execQuantiseElement (quant tile part vec pos : Nat) (s : State) : Host.Outcome State Fault Refusal :=
  .next (s.on (quantiseElementOp quant tile part vec pos s.dev))

def execFormingIssueEnd (engine : Bool) (unit tile : Nat) (s : State) : Host.Outcome State Fault Refusal :=
  .next (s.on (formingIssueEndOp (formingSide engine unit) tile s.dev))

def execConversionDmaBlock (hub fmt : Nat) (toHost : Bool) (elems : List (BitVec 32)) (exp : BitVec 8) (place : DmaPlace)
    (s : State) : Host.Outcome State Fault Refusal :=
  .next (s.on (conversionDmaOp s.variant hub fmt toHost elems exp place.data place.scale place.coord s.dev))

end Sys2Proof.Machine
end

