-- ==== Sys2Proof/Machine/SelfTest.lean ====
section
/-!
DEFINITION. Self-test, loop-backs and unit resets on command (R156, R157, R249, R306 to R308, R338, R339, R376, R456, R457, R460).
-/
namespace Sys2Proof.Machine

open Sys2Proof

/-! ### What may be tested -/

/-- Loop-back depths of an interface (Table 16.8). -/
def loopDepth : Target → Nat
  | .port _ => 2
  | .link _ => 3
  | .stack _ _ => 2
  | .mgmt => 2
  | .facet _ => 1
  | .hub _ => 1
  | _ => 0

/-- The target has the test: 0 the built-in test of Table 16.6, 1 and 2 the marches, 3 to 5 a loop-back depth. -/
def hasTest (t : Target) (test : Nat) : Bool :=
  match test with
  | 0 => (match t with | .hub _ => false | _ => true)
  | 1 => (marchCode t).isSome
  | 2 => (marchCode t).isSome
  | n => decide (n ≤ 2 + loopDepth t)

/-- The unit is the submitting port, or holds the control domain of its hub (R376). -/
def ownUnit (port : Nat) : Target → Bool
  | .port h => h = port
  | .core h _ => h = port
  | .hub h => h = port
  | _ => false

/-! ### Isolation (R338, R456, R460) -/

/-- A link leaves its bundle and reads DISABLED while a loop-back runs; the frames that it holds keep its place in the list (R328). -/
def loopLink (l : Nat) (d : Dev) : Dev := d.modLink l (fun x => { x with phase := .disabled, away := true, loopback := true })

/-- A link after its loop-back: a fresh start, at which the frames that it still held are lost (R336, R456). -/
def endLoop (v : Variant) (l : Nat) (bad : BitVec 4) (d : Dev) : Dev :=
  startLink v l ((linkLost l d).modLink l (fun x => { x with loopback := false, badLanes := bad }))

/-- The slices that a stack stands behind (R291). -/
def stackSlices (h s : Nat) : List Nat := [4 * h + 2 * s, 4 * h + 2 * s + 1]

/-- What the isolation of a unit does at once. -/
def isolateNow (t : Target) (d : Dev) : Dev :=
  match t with
  | .port h => (resetPort h d).modPort h (fun x => { x with resetting := false })
  | .link l => loopLink l d
  | .group h g => (groupLinks h g).foldl (fun (d : Dev) l => loopLink l d) d
  | .stack h s => (stackSlices h s).foldl (fun (d : Dev) k => resetSlice k d) d
  | .slice h k => writeBackSlice (4 * h + k) d
  | _ => d

/-- SELFTEST. The target must be in service when the command starts, as at its check (R11, R456). -/
def selftestOp (cmd : Nat) (d : Dev) : Dev :=
  match d.starting cmd 0x29 with
  | none => d
  | some c =>
    match targetOf (bitsOf (c.P 0) 31 0) with
    | none => d.fails cmd stValueRange 0
    | some t =>
      let test := bitsOf (c.P 1) 3 0
      if !hasTest t test || (test ≠ 2 && ownUnit c.port t) then d.fails cmd stValueRange 0
      else if !testTarget d t then d.fails cmd stUnitOffline 0
      else if d.seq.tests.any (fun x => x.target = codeOf t) then d.fails cmd stUnitBusy 0
      else
        let d1 := d.busy cmd
        let d2 := { d1 with seq := { d1.seq with tests := d1.seq.tests ++ [{ target := codeOf t, test := test, cmd := some cmd }] } }
        if test = 2 then
          match marchCode t with
          | some k => d2.setSbank k { (d2.sbank k) with march := some 0 }
          | none => d2
        else isolateNow t { d2 with seq := { d2.seq with isolated := d2.seq.isolated ++ (testedUnits t).map codeOf } }

def execSelftest (cmd : Nat) (s : State) : Host.Outcome State Fault Refusal := .next (s.on (selftestOp cmd s.dev))

/-! ### The end of a test -/

/-- The unit has drained: no tile that it accepted runs. -/
def unitDrained (d : Dev) (t : Target) : Bool :=
  match t with
  | .wedge f w => d.tiles.all (fun x => !x.onWedge (16 * f + w))
  | .mac f w m => d.tiles.all (fun x => !(tileMacros d x.inst x.prm x.gj).contains (3072 * f + 192 * w + m))
  | .facet f => d.tiles.all (fun x => x.wedges.all (fun w => w / 16 != f))
  | .engine h e => d.tiles.all (fun x => !x.onEngine (8 * h + e))
  | .lane h e n => d.tiles.all (fun x => !((d.lane (8 * h + e) n).holds x.id))
  | .slice h k => d.mem.waiting.all (fun x => x.slice != 4 * h + k)
  | .core h _ => d.tiles.all (fun x => x.actor / 4 != 0x1000 + h)
  | .hub h => d.tiles.all (fun x => x.wedges.all (fun w => hubOfWedge w != h) && x.engine.elim true (fun e => e / 8 != h))
  | _ => true

/-- The lanes of an engine after its test: those that failed are out of the ring (R157). -/
def ringLanes (bad : List Nat) : Tab Lane := bad.foldl (fun (t : Tab Lane) n => tset t n { ({} : Lane) with inRing := false }) []

/-- A macro that passed: cleared as its wedge would be on a wake, what its banks held recorded for their restore. -/
def reinitMacro (m : Nat) (d : Dev) : Dev :=
  let x := d.mac m
  let d1 := dropAllRepairs (fun k => k = m) (resetMacro m d)
  let d2 := d1.modWedge (m / 192) (fun g =>
    { g with marks := tdrop (fun k => k / 8 = slotOf d m) g.marks,
             saved := if savedOf x = savedOf {} then g.saved else tset g.saved m (savedOf x) })
  d2.setMac m { x.afterOff with group := x.group }

/-- Re-initialisation as on wake from Off. -/
def reinitUnit (v : Variant) (t : Target) (test : Nat) (o : TestOutcome) (d : Dev) : Dev :=
  match t with
  | .wedge f w => wakeWedge (16 * f + w) (recordWedge (16 * f + w) d)
  | .mac f w m => reinitMacro (3072 * f + 192 * w + m) d
  | .facet f =>
    (List.range 16).foldl (fun (d : Dev) w => wakeWedge (16 * f + w) (recordWedge (16 * f + w) d)) (resetFacet v f d)
  | .engine h e => (resetHops v (.engine h e) (resetEngine (8 * h + e) d)).modEngine (8 * h + e) (fun x => { x with lanes := ringLanes o.lanes })
  | .lane h e n => (resetLane (8 * h + e) n d).modLane (8 * h + e) n (fun x => { x with inRing := true })
  | .slice h k => resetHops v (.slice h k) (emptySlice (4 * h + k) d)
  | .core h _ => wakeControl h (resetControl v h d)
  | .stack _ _ => d
  | .link l => endLoop v l 0 d
  | .group h g => (groupLinks h g).foldl (fun (d : Dev) l => endLoop v l 0 d) d
  | .port h => trainIfFree v h d
  | .ce n => resetCe n d
  | .mgmt =>
    if test = 1 then
      loseCursors { d with mem := { d.mem with stby := [] }, log := { d.log with ring := [] } }
    else d
  | .hub h => resetUnit v (.hub h) d

/-- The hops of a unit that had failed are in service again; what one still held waits for its first credits. -/
def mendHops (t : Target) (d : Dev) : Dev :=
  let ends := (hopEnds t).map (fun e => hopKey e.1)
  { d with hops := d.hops.map (fun x => if x.failed && ends.contains (hopKey x.hop) then
      { x with failed := false, asked := false, again := 0, succ := 0, credits := [0, 0, 0, 0], awaiting := true,
               wait := x.replay ++ x.wait, replay := [] } else x) }

/-- Failing macro slots of a wedge or facet can all be retired (R457). -/
def slotsSpared (d : Dev) (slots : List Nat) : Bool :=
  ((slots.map (fun m => m / 192)).eraseDups).all (fun w =>
    decide ((slots.filter (fun m => m / 192 = w)).length ≤ (d.wedge w).spares.length))

/-- The failing parts lie in the target. -/
def slotsIn (t : Target) (slots : List Nat) : Bool :=
  match t with
  | .wedge f w => slots.all (fun m => m / 192 = 16 * f + w)
  | .facet f => slots.all (fun m => m / 3072 = f)
  | _ => false

/-- The unit passes: with no fault, with failing slots to retire or spares to leave, or with failing lanes out of the ring (R157, R457).
`d` is the device without the spares that failed. -/
def unitPasses (d : Dev) (t : Target) (o : TestOutcome) : Bool :=
  o.words.isEmpty && (o.pass ||
    (match t with
      | .engine _ _ => o.lanes != [] && decide (o.lanes.eraseDups.length < 64) && o.slots.isEmpty
      | .wedge _ _ => (o.slots != [] || o.spares != []) && slotsIn t o.slots && slotsSpared d o.slots.eraseDups && o.lanes.isEmpty
      | .facet _ => (o.slots != [] || o.spares != []) && slotsIn t o.slots && slotsSpared d o.slots.eraseDups && o.lanes.isEmpty
      | _ => false))

/-- A failure at serialiser depth that is confined to 2 lanes or fewer (R339): the built-in test runs every depth, test 3 the serialiser's.
`lanes` are the lanes that failed there, and nothing else failed. -/
def fewLanes (test : Nat) (lanes : List Nat) (o : TestOutcome) : Bool :=
  (test = 0 || test = 3) && o.slots = [] && o.words = [] && lanes != [] && decide (lanes.eraseDups.length ≤ 2) &&
    lanes.all (fun n => decide (n < 4))

/-- The links that a test's target names, each with its failing lanes: of a link group a lane is counted by link * 4 + lane. -/
def testedLinks (t : Target) (o : TestOutcome) : List (Nat × List Nat) :=
  match t with
  | .link l => [(l, o.lanes)]
  | .group h g => (groupLinks h g).zipIdx.map (fun e => (e.1, (o.lanes.filter (fun n => n / 4 = e.2)).map (fun n => n % 4)))
  | _ => []

/-- A link test that failed with every fault in lanes: each link with its failing lanes (R339). -/
def linkFaults (t : Target) (test : Nat) (o : TestOutcome) : Option (List (Nat × List Nat)) :=
  let ls := testedLinks t o
  let named := ls.map (fun e => e.2.length)
  if o.pass || o.lanes = [] || named.sum ≠ o.lanes.length || !(ls.any (fun e => fewLanes test e.2 o)) then none else some ls

/-- A mask of lanes. -/
def laneMask (lanes : List Nat) : BitVec 4 := lanes.foldl (fun m n => m ||| BitVec.ofNat 4 (2 ^ n)) 0

/-- The completion of the command that ran a test; a lane or the word in its result. -/
def endTest (r : TestRun) (ok : Bool) (o : TestOutcome) (d : Dev) : Dev :=
  let units := (targetOf r.target.toNat).elim [r.target] (fun t => (testedUnits t).map codeOf)
  let d1 := { d with seq := { d.seq with tests := d.seq.tests.filter (fun x => x.target ≠ r.target),
                                         isolated := if r.test = 2 then d.seq.isolated
                                           else d.seq.isolated.filter (fun u => !units.contains u) } }
  match r.cmd with
  | none => d1
  | some id =>
    d1.finish id (if ok then stSuccess else stSelftestFailed) 0 false
      (BitVec.ofNat 64 (match o.lanes with | n :: _ => n | [] => (o.words.head?).elim 0 Prod.snd))

/-- The memories that a test marches (R306, Table 16.6): the built-in test of a wedge, a facet or a control domain marches theirs. -/
def marchedBy (t : Target) (test : Nat) : List Nat :=
  match test, t with
  | 0, .wedge f w => [16 * f + w]
  | 0, .facet f => List.range' (16 * f) 16
  | 0, .core h _ => List.range' (0x4000 + 4 * h) 4
  | 1, t => (marchCode t).toList
  | _, _ => []

/-- The marches of a test are counted, and each word that read back wrong (R308, Table 11.6). -/
def countMarch (t : Target) (test : Nat) (o : TestOutcome) (d : Dev) : Dev :=
  let ms := marchedBy t test
  let d1 := ms.foldl (fun (d : Dev) k => d.count 0x3052 (marchSs k) 1) d
  (o.words.filter (fun e => ms.contains e.1)).foldl (fun (d : Dev) e => marchFault e.1 (e.2 / 32) d) d1

/-- A link that is held in reset leaves service, counted in OD 0x3421 (R339). -/
def holdLink (l : Nat) (d : Dev) : Dev :=
  ((linkLost l d).modLink l (fun x => { x with loopback := false })).count 0x3421 (l + 1) 1

/-- The unit fails: it is held in reset, and SELFTEST_FAIL is posted (R457). Its issuers cannot return (R255); a lane leaves the ring
(R157). What stands for its hub's control domain is held with the whole hub. -/
def failUnit (v : Variant) (t : Target) (d : Dev) : Dev :=
  let u := heldTarget t
  let d0 := raiseOut (issuersIn u) d (loseIssuers (issuersIn u) (resetUnit v u d))
  let d1 := match t with
    | .lane h e n => d0.modLane (8 * h + e) n (fun x => { x with inRing := false })
    | _ => d0
  let h := codeOf (heldTarget t)
  let d2 := { d1 with seq := { d1.seq with unitHeld := if d1.seq.unitHeld.contains h then d1.seq.unitHeld else d1.seq.unitHeld ++ [h] } }
  let d3 := match t with
    | .link l => holdLink l d2
    | .group h g => (groupLinks h g).foldl (fun (d : Dev) l => holdLink l d) d2
    | .port p => d2.modPort p (fun x => { x with linkUp := false, ready := false })
    | _ => d2
  d3.post evSelftestFail (targetHub t) (codeOf t) []

/-- A hub that was held comes back with its control domain: its links start and its port trains. -/
def freeHub (v : Variant) (t : Target) (d : Dev) : Dev :=
  match t with
  | .core h _ => trainIfFree v h ((List.range' (16 * h) 16).foldl (fun (d : Dev) l => startLink v l d)
      { d with seq := { d.seq with hubHeld := d.seq.hubHeld.filter (· ≠ h) } })
  | _ => d

/-- The unit passes: it leaves reset and isolation and is re-initialised; failing slots are retired. -/
def passUnit (v : Variant) (t : Target) (test : Nat) (o : TestOutcome) (d : Dev) : Dev :=
  let h := codeOf (heldTarget t)
  let units := (testedUnits t).map codeOf
  let d1 := { d with seq := { d.seq with unitHeld := d.seq.unitHeld.filter (fun u => u ≠ h && u ≠ codeOf t),
                                         isolated := d.seq.isolated.filter (fun u => !units.contains u) } }
  let d2 := mendHops (heldTarget t) (reinitUnit v t test o (freeHub v t d1))
  o.slots.eraseDups.foldl (fun (d : Dev) m => d.modMac m (fun x => { x with retire := true })) d2

/-- After a test whose faults all lie in lanes, a link goes on with those that are good, or is held in reset when too many failed (R339). -/
def settleLinks (v : Variant) (test : Nat) (o : TestOutcome) (ls : List (Nat × List Nat)) (d : Dev) : Dev :=
  ls.foldl (fun (d : Dev) e => if e.2 = [] || fewLanes test e.2 o then endLoop v e.1 (laneMask e.2) d else failUnit v (.link e.1) d) d

/-- SELFTEST_DONE. A preserving march ends with its last word, and leaves its unit in service. -/
def selftestDoneOp (v : Variant) (target : BitVec 32) (o : TestOutcome) (d : Dev) : Dev :=
  match d.seq.tests.find? (fun x => x.target = target), targetOf target.toNat with
  | some r, some t =>
    if r.test = 2 then
      match marchCode t with
      | some k => if (d.sbank k).march.isSome then d else endTest r o.pass o d
      | none => endTest r o.pass o d
    else if !unitDrained d t then d
    else
      let d1 := dropSpares (o.spares.filter (fun k => slotsIn t [k / 256 * 192])) (countMarch t r.test o d)
      match linkFaults t r.test o with
      | some ls => endTest r false o (settleLinks v r.test o ls
          { d1 with seq := { d1.seq with isolated := d1.seq.isolated.filter (fun u => u ≠ target) } })
      | none =>
        if unitPasses d1 t o then endTest r true o (passUnit v t r.test o d1)
        else endTest r false o (failUnit v t d1)
  | _, _ => d

def execSelftestDone (target : BitVec 32) (outcome : TestOutcome) (s : State) : Host.Outcome State Fault Refusal :=
  .next (s.on (selftestDoneOp s.variant target outcome s.dev))

/-! ### RESET UNIT and the deferral of resets (R249, R376, R382) -/

/-- A reset of a unit that is back in service at once; a port trains again. -/
def resetBack (v : Variant) (t : Target) (d : Dev) : Dev :=
  let d1 := resetUnit v t d
  match t with
  | .port h => trainIfFree v h d1
  | .hub h => trainIfFree v h d1
  | _ => d1

/-- RESET_UNIT: refused for the submitting port and for its hub's control domain. While the unit holds tiles between their test-and-set and
their last write, the reset waits. -/
def resetUnitOp (v : Variant) (cmd : Nat) (d : Dev) : Dev :=
  match d.starting cmd 0x2A with
  | none => d
  | some c =>
    match targetOf (bitsOf (c.P 0) 31 0) with
    | none => d.fails cmd stValueRange 0
    | some t =>
      if ownUnit c.port t then d.fails cmd stValueRange 0
      else if holdsWriting d t then
        let d1 := d.busy cmd
        { d1 with cmds := d1.cmds.map (fun e => if e.id = cmd then { e with waits := [(codeOf t).toNat] } else e),
                  seq := { d1.seq with deferred := d1.seq.deferred ++ [codeOf t] } }
      else (resetBack v t d).succeeds cmd 0

def execResetUnit (cmd : Nat) (s : State) : Host.Outcome State Fault Refusal := .next (s.on (resetUnitOp s.variant cmd s.dev))

/-- The RESET UNIT commands that waited for a unit complete. -/
def endResets (code : BitVec 32) (d : Dev) : Dev :=
  (d.cmds.filter (fun c => c.opc = 0x2A && c.stage = CmdStage.busy && c.waits = [code.toNat])).foldl (fun (d : Dev) c => d.succeeds c.id 0) d

/-- The one core whose reset is left over from a reset of its hub's control domain: no RESET UNIT waits for the whole domain. -/
def leftOverCore (target : BitVec 32) (t : Target) (d : Dev) : Option (Nat × Nat) :=
  match t with
  | .core h c => if d.cmds.any (fun x => x.opc = 0x2A && x.waits = [target.toNat]) then none else some (h, c)
  | _ => none

/-- RESET_DEFERRAL_EXPIRY: a deferred reset proceeds, after 8 µs or once the writes that it waited for have been accepted. -/
def deferralOp (v : Variant) (target : BitVec 32) (elapsedUs : Nat) (d : Dev) : Dev :=
  match targetOf target.toNat with
  | none => d
  | some t =>
    let held := match leftOverCore target t d with
      | some (h, c) => coreWriting d h c
      | none => holdsWriting d t
    if d.seq.deferred.contains target && (decide (8 ≤ elapsedUs) || !held) then
      let d1 := { d with seq := { d.seq with deferred := d.seq.deferred.filter (fun u => u ≠ target) } }
      match leftOverCore target t d with
      | some (h, c) => resetHops v t (resetCore h c d1)
      | none => endResets target (resetBack v t d1)
    else d

def execResetDeferralExpiry (unit : BitVec 32) (elapsedUs : Nat) (s : State) : Host.Outcome State Fault Refusal :=
  .next (s.on (deferralOp s.variant unit elapsedUs s.dev))

end Sys2Proof.Machine
end

