-- ==== Sys2Proof/Machine/Streams.lean ====
section
/-!
DEFINITION. Stream engines (ch. 6): operand fetches (ch. 7), the dispatcher, dealing and stealing, lane steps with compaction and
2:4 operands (R113 to R115, R126, R146), attention (R167, R168), selection (R172), row-wise functions, KV append (R166), LMOVE,
flushes, the accumulator buffer with its merges (R158 to R164, R170 to R173), and the end of a stream tile.
-/
namespace Sys2Proof.Machine

open Sys2Proof

/-! ### Fetching (R187, R199, R205, R257) -/

/-- The span exponent of a token of K (tensor 0) or V (tensor 1) (R165). -/
def spanExp (v : Variant) (t : Tile) (o tensor : Nat) (token : Int) (d : Dev) : BitVec 8 × Bool × Dev :=
  let r := fetchOperand v t o [token / 128, (tensor : Int)] d
  (BitVec.ofNat 8 r.1.bits, r.1.poison, r.2)

/-- Exponent of the half that an element of an operand of a lane lies in: the span's for K and V, else 127. -/
def halfExp (v : Variant) (t : Tile) (o : Nat) (c : List Int) (d : Dev) : BitVec 8 × Bool × Dev :=
  if t.inst.func = fLATT ∧ o = 2 then spanExp v t 7 0 (c.getD 1 0) d
  else if t.inst.func = fLATT ∧ o = 3 then spanExp v t 7 1 (c.getD 0 0) d
  else (127, false, d)

/-- An operand that arrives at a lane as MXINT8 blocks, through the pairing side. -/
def paired (t : Tile) (o : Nat) : Bool :=
  (o = 0 && t.inst.opnd 1 ≠ 0 && t.inst.func ≠ fLAPP) || (o = 2 && t.inst.opnd 3 ≠ 0 && t.inst.func ≠ fLATT && t.inst.func ≠ fLAPP)

/-- An element enters a lane with its exponent, 0x00 where it is padding (R97); poison fails the tile (R299). -/
def fetchToLane (v : Variant) (t : Tile) (opnd : Nat) (coord : List Int) (e n : Nat) (second : Bool) (d : Dev) : Dev :=
  let r := fetchOperand v t opnd coord d
  let h := if r.1.pad then (0, false, r.2) else halfExp v t opnd coord r.2
  if r.1.poison || h.2.1 then failRead t h.2.2
  else
    let el : LaneElem := { opnd := opnd, c0 := (coord.getD 0 0).toNat, c1 := (coord.getD 1 0).toNat,
                           bits := BitVec.ofNat 32 r.1.bits, dup := BitVec.ofNat 32 r.1.dup, exp := h.1 }
    h.2.2.modLane e n (enterLane t second [el])

/-- One element of an operand is fetched and handed to a lane's input, or sent to the tile's stream. -/
def operandFetchOp (v : Variant) (tile opnd : Nat) (coord : List Int) (dest : FetchDest) (d : Dev) : Dev :=
  match d.tileOf tile with
  | none => d
  | some t =>
    if t.stage ≠ .issued ∨ haloHere v d t opnd coord = false ∨ t.engine.elim true (fun e => domRuns d (domEngine e)) = false then d
    else match dest with
      | .tile =>
        reading t.reader d (fun d =>
          let r := fetchOperand v t opnd coord d
          if r.1.poison then failRead t r.2 else r.2.emit (.fetched tile opnd (BitVec.ofNat 64 r.1.bits)))
      | .laneA e n =>
        if laneRuns d e n tile = true ∧ t.engine = some e ∧ opnd = 0 ∧ paired t 0 = false then
          reading t.reader d (fetchToLane v t opnd coord e n false)
        else d
      | .laneB e n =>
        if laneRuns d e n tile = true ∧ t.engine = some e ∧ 1 ≤ opnd ∧ opnd ≤ 3 ∧ paired t opnd = false then
          reading t.reader d (fetchToLane v t opnd coord e n true)
        else d

/-! ### Dispatching and dealing (R145 to R151) -/

/-- Positions along the key dimension that an item covers, and the whole that is cut. -/
def itemSpan (t : Tile) : Nat := if isGridFn t.inst.func then 64 else 4096

/-- Where the items of a tile start (R147): columns of the tensor for grid functions, elements of the row for row functions; one
item for RMS scaling and merges. -/
def itemKeys (t : Tile) : List Nat :=
  if isGridFn t.inst.func then
    let n := (laneShape t.inst.shape).2.1
    ((List.range (n / 64)).map (fun i => t.gj * n + 64 * i)).filter (fun k => decide (k < t.b1))
  else if (t.inst.func = fLROW ∧ t.inst.rowfn = 8) ∨ t.inst.func = fLMRG then [0]
  else (List.range (cdiv t.b1 4096)).map (fun i => 4096 * i)

/-- The tile's instruction reaches the dispatcher of its engine, which cuts it into items. -/
def dispatchOp (e tile : Nat) (d : Dev) : Dev :=
  match d.tileOf tile with
  | none => d
  | some t =>
    let g := d.engine e
    if t.stage = .issued ∧ t.engine = some e ∧ t.reduced.contains (0, 1) = false ∧ g.disp.length < 32 ∧
        domRuns d (domEngine e) = true then
      let ks := itemKeys t
      (d.setEngine e { g with disp := g.disp ++ [tile], items := g.items ++ ks.map (fun k => { tile := tile, key := k }) }).modTile
        tile (fun x => { x with items := ks.length, reduced := x.reduced ++ [(0, 1)] })
    else d

/-- The window of an instruction is filled once on the engine (R164). -/
def windowFillOp (e tile : Nat) (d : Dev) : Dev :=
  match d.tileOf tile with
  | none => d
  | some t =>
    if t.engine = some e ∧ t.prm.wfill ≠ 0 ∧ windowReady d t e = false ∧ domRuns d (domEngine e) = true then
      d.modEngine e (fun g => { g with acc := filledWindow t.inst t.prm g.acc, filled := g.filled ++ [(t.job, t.ctr)] })
    else d

/-- Lanes in the ring from a lane on, in ring order. -/
def ringFrom (g : Engine) (n : Nat) : List Nat :=
  ((List.range 64).map (fun i => (n + i) % 64)).filter (fun k => (tget ({} : Lane) g.lanes k).inRing)

/-- The oldest item goes to the next lane with room. A tile whose items are all dealt leaves the dispatcher. -/
def itemDealOp (e : Nat) (d : Dev) : Dev :=
  let g := d.engine e
  match g.items, (ringFrom g g.dealAt).find? (fun k => decide ((d.lane e k).queue.length < 16)) with
  | i :: rest, some k =>
    if domRuns d (domEngine e) = false then d
    else
      let g1 := { g with items := rest, dealAt := (k + 1) % 64,
                         disp := if rest.any (fun x => x.tile = i.tile) then g.disp else g.disp.filter (· ≠ i.tile) }
      ((d.setEngine e g1).modLane e k (fun l => { l with queue := l.queue ++ [i] })).count 0x2071 (ssEngine e) 1
  | _, _ => d

/-- The context of a tile moves to the end, or a new one opens there. -/
def touchCtx (tile : Nat) (cs : List Ctx) : List Ctx :=
  match cs.find? (fun c => c.tile = tile) with
  | some c => cs.filter (fun c => c.tile ≠ tile) ++ [c]
  | none => cs ++ [{ tile := tile, acc := [], sm := [], tk := [] }]

/-- A lane begins its oldest item (R149, R152), unless it is stalled with updates on their way (R159). Without a context of the item's
tile it has none of the tile's stationary rows and loads them again (R151). -/
def itemStartOp (e n : Nat) (d : Dev) : Dev :=
  let l := d.lane e n
  match l.queue with
  | [] => d
  | i :: rest =>
    match d.tileOf i.tile with
    | none => d
    | some t =>
      let has := l.ctxs.any (fun c => c.tile = i.tile)
      if l.run ≠ none ∨ l.inRing = false ∨ l.out ≠ [] ∨ domRuns d (domEngine e) = false ∨ windowReady d t e = false ∨
          (has = false ∧ l.ctxs.length ≥ 2) then d
      else
        d.setLane e n { l with queue := rest, run := some i, ctxs := touchCtx i.tile l.ctxs,
                               inA := [], inB := [], scores := [], prog := [],
                               query := if has && l.qtile = i.tile then l.query else [], qtile := i.tile }

/-- The neighbours of a lane at a distance over the lanes that remain in the ring (R150, R157): above and below. -/
def ringNeighbours (g : Engine) (n dist : Nat) : Option (Nat × Nat) :=
  let up := (ringFrom g (n + 1)).filter (· ≠ n)
  match up[dist - 1]?, up.reverse[dist - 1]? with
  | some a, some b => some (a, b)
  | _, _ => none

/-- The victim of a steal at a distance: the neighbour with more items, lane n + 1 on a tie, if it holds at least 2. -/
def victimAt (d : Dev) (e n dist : Nat) : Option Nat :=
  (ringNeighbours (d.engine e) n dist).bind (fun p =>
    let qa := (d.lane e p.1).queue.length
    let qb := (d.lane e p.2).queue.length
    let k := if qb > qa then p.2 else p.1
    if max qa qb ≥ 2 then some k else none)

def workStealOp (e n : Nat) (d : Dev) : Dev :=
  let l := d.lane e n
  let v1 := victimAt d e n 1
  let v := match v1 with
    | some k => some k
    | none => if d.num 0x207F 2 2 ≥ 2 then victimAt d e n 2 else none
  match v with
  | none => d
  | some k =>
    match (d.lane e k).queue.getLast? with
    | none => d
    | some i =>
      if l.queue = [] ∧ l.run = none ∧ l.inRing = true ∧ d.num 0x207F 1 1 = 1 ∧ domRuns d (domEngine e) = true then
        ((d.modLane e k (fun x => { x with queue := x.queue.dropLast })).modLane e n (fun x => { x with queue := [i] })).count
          0x2072 (ssEngine e) 1
      else d

/-! ### Dot products (R113 to R115, R126, R146) -/

/-- Rows that a grid tile computes, columns of the current item, and the reduction length. An attention item scores all of its 64 keys
(R167), padding included. -/
def tileRows (t : Tile) : Nat := min (windowRows t.inst) (t.b0 - t.gi * windowRows t.inst)
def itemCols (t : Tile) (key : Nat) : List Nat :=
  ((List.range 64).map (fun j => key + j)).filter (fun c => t.inst.func = fLATT || decide (c < t.b1))
def redLen (t : Tile) : Nat := if t.inst.func = fLATT then (laneShape t.inst.shape).2.2 else t.b2

/-- An operand of the 2:4 form. -/
def is24 (d : Dev) (t : Tile) (o : Nat) : Bool := (descIn (tileDescs d t) (t.inst.opnd o)).elim false (fun x => x.form = 3)
def any24 (d : Dev) (t : Tile) : Bool := is24 d t 0 || is24 d t 2

/-- Element positions of a dense step and of a compaction window, by arithmetic (Table 5.1, R126). -/
def stepLen (mode : Nat) (two4 : Bool) : Nat := (if mode = 1 then 16 else 64) * (if two4 then 2 else 1)
def windowLen (mode : Nat) : Nat := if mode = 1 then 64 else 256

/-- The value of an element and of its double, as one exact number: an INT8 value under its exponent, or a BF16 value. -/
def laneVals (mode : Nat) (x : LaneElem) : List Fp :=
  if mode = 1 then Fp.decode fmtBf16 x.bits.toNat :: (if x.dup = 0 then [] else [Fp.decode fmtBf16 x.dup.toNat])
  else
    let f (b : BitVec 32) : Fp := if x.exp = 0xFF then .nan else .ofRat (scaled (sext 8 b.toNat) ((x.exp.toNat : Int) - 127))
    f x.bits :: (if x.dup = 0 then [] else [f x.dup])

/-- The exact sum of the products of a step, added to the accumulator and rounded once. -/
def stepSum (mode : Nat) (acc : W32) (ps : List (LaneElem × LaneElem)) : W32 :=
  let terms := (ps.map (fun p => ((laneVals mode p.1).map (fun a => (laneVals mode p.2).map (fun b => a.mul b))).flatten)).flatten
  let s := terms.foldl Fp.add (.fin false 0)
  toF32 ((f32 acc).add s)

/-- A zero element (R114); its double counts with it. -/
def laneZero (mode : Nat) (x : LaneElem) : Bool := if mode = 1 then x.bits.toNat % 2 ^ 15 = 0 else x.bits.toNat % 256 = 0

/-- Key of an output of the current item. -/
def progKey (row : Nat) (key col : Nat) : Nat := row * 65536 + (col - key)

/-- The elements of the second operand of a column at the lane's input, by reduction element. -/
def colElem (l : Lane) (col k : Nat) : Option LaneElem := l.inB.find? (fun x => x.opnd = 2 && x.c1 = col && x.c0 = k)
def rowElem (l : Lane) (row k : Nat) : Option LaneElem := tfind l.query (row * 2 ^ 20 + k)

/-- The pairs at reduction elements `ks`; none when one is not there yet. -/
def pairsAt (l : Lane) (row col : Nat) (ks : List Nat) : Option (List (Nat × LaneElem × LaneElem)) :=
  ks.foldr (fun k r => match r, rowElem l row k, colElem l col k with
    | some ps, some a, some b => some ((k, a, b) :: ps)
    | _, _, _ => none) (some [])

/-- What one dot step does: the pairs it adds, the new progress, whether a step was issued, whether the window was empty. -/
structure DotStep where
  pairs : List (LaneElem × LaneElem)
  next : Nat
  issued : Bool
  empty : Bool
deriving DecidableEq, Repr

/-- The next step of an output whose progress is `p`. -/
def dotStep (d : Dev) (t : Tile) (l : Lane) (row col p : Nat) : Option DotStep :=
  let m := t.inst.mode
  let len := redLen t
  if t.inst.cmp = 0 then
    let e := min len (p + stepLen m (any24 d t))
    (pairsAt l row col ((List.range (e - p)).map (fun i => p + i))).map (fun ps =>
      { pairs := ps.map Prod.snd, next := e, issued := true, empty := false })
  else
    let w := windowLen m
    let stop := min len (p / w * w + w)
    (pairsAt l row col ((List.range (stop - p)).map (fun i => p + i))).map (fun ps =>
      let nz := ps.filter (fun x => !laneZero m (if t.inst.cmp = 1 then x.2.1 else x.2.2))
      let now := nz.take (stepLen m false)
      let next := if nz.length ≤ stepLen m false then stop else ((now.getLast?).elim stop (fun x => x.1 + 1))
      { pairs := now.map Prod.snd, next := next, issued := !nz.isEmpty, empty := nz.isEmpty && p % w = 0 })

/-- Elements of a column that every row has used leave the input. -/
def dropUsed (t : Tile) (key : Nat) (l : Lane) : Lane :=
  let done (x : LaneElem) : Bool := x.opnd = 2 && (List.range (tileRows t)).all (fun r =>
    decide (x.c0 < tget 0 l.prog (progKey r key x.c1)))
  { l with inB := l.inB.filter (fun x => !done x) }

/-- Change the context of a tile. -/
def modCtx (tile : Nat) (f : Ctx → Ctx) (l : Lane) : Lane :=
  { l with ctxs := l.ctxs.map (fun c => if c.tile = tile then f c else c) }

def ctxOf (l : Lane) (tile : Nat) : Ctx := (l.ctxs.find? (fun c => c.tile = tile)).getD { tile := tile, acc := [], sm := [], tk := [] }

/-- Key of a dot accumulator in a context: row and column of the tile. -/
def accKey (t : Tile) (row col : Nat) : Nat := row * 65536 + (col - t.gj * (laneShape t.inst.shape).2.1)

/-- Put the accumulator of an output: an attention score in the score buffer, else in the context. -/
def accOf (t : Tile) (l : Lane) (row key col : Nat) : W32 :=
  if t.inst.func = fLATT then tget 0 l.scores (progKey row key col) else tget 0 (ctxOf l t.id).acc (accKey t row col)
def setAcc (t : Tile) (row key col : Nat) (x : W32) (l : Lane) : Lane :=
  if t.inst.func = fLATT then { l with scores := tset l.scores (progKey row key col) x }
  else modCtx t.id (fun c => { c with acc := tset c.acc (accKey t row col) x }) l

/-- Progress values beyond the reduction: a candidate judged, a row attended. -/
def progDone : Nat := 2 ^ 20

/-- The item of a lane is over when all its outputs are: complete dot products, judged candidates, attended rows. -/
def gridItemOver (t : Tile) (key : Nat) (l : Lane) : Bool :=
  let rows := List.range (tileRows t)
  if t.inst.func = fLATT then rows.all (fun r => tget 0 l.prog (2 ^ 40 + r) ≠ 0)
  else rows.all (fun r => (itemCols t key).all (fun c =>
    decide (tget 0 l.prog (progKey r key c) ≥ (if t.inst.func = fLSEL then progDone else redLen t))))

/-- The item ends on its lane: the operand inputs are empty again. -/
def endItem (tile : Nat) (l : Lane) (e n : Nat) (d : Dev) : Dev :=
  (d.setLane e n { l with run := none, inA := [], inB := [], scores := [], prog := [] }).modTile tile (fun t =>
    { t with items := t.items - 1 })

/-- Store a lane after a step, ending its item if it is over. -/
def putGridLane (t : Tile) (key e n : Nat) (l : Lane) (d : Dev) : Dev :=
  if gridItemOver t key l then endItem t.id l e n d else d.setLane e n l

/-- What a lane step draws at OP4 in pJ: 36 in INT8 and 40 in BF16 (R413). -/
def lanePj (mode : Nat) : Rat := if mode = 1 then 40 else 36

/-- One step of a dot product, or an empty window passed over. -/
def laneDot (t : Tile) (key e n row col : Nat) (l : Lane) (d : Dev) : Dev :=
  let k := progKey row key col
  let p := tget 0 l.prog k
  let en := laneEnergy d (e / 8) t.inst.phase
  if !isGridFn t.inst.func ∨ row ≥ tileRows t ∨ (itemCols t key).contains col = false ∨ p ≥ redLen t then d
  else match dotStep d t l row col p with
    | none => d
    | some s =>
      let cost := if s.issued then 1 else 0
      if mayStep d (domEngine e) en cost = false then d
      else
        let ss := ssEngine e
        let acc := if s.issued then stepSum t.inst.mode (accOf t l row key col) s.pairs else accOf t l row key col
        let l1 := dropUsed t key (setAcc t row key col acc { l with prog := tset l.prog k s.next })
        let d1 := (draw (domEngine e) (cost * lanePj t.inst.mode) (debit (domEngine e) en cost d)).count 0x2070 ss cost
        let d2 := if s.empty then d1.count 0x2050 ss 1 else d1
        let d3 := if t.inst.cmp ≠ 0 then d2.count 0x2051 ss cost else d2
        let d4 := if any24 d t then d3.count 0x2057 ss cost else d3
        putGridLane t key e n l1 d4

/-! ### Selection (R172, R173) -/

/-- A candidate enters a list of capacity k: before the first entry with a lower score. -/
def insertCand (c : W32 × BitVec 32) : List (W32 × BitVec 32) → List (W32 × BitVec 32)
  | [] => [c]
  | a :: l => if (f32 a.1).lt (f32 c.1) then c :: a :: l else a :: insertCand c l

def offerCand (k : Nat) (l : List (W32 × BitVec 32)) (c : W32 × BitVec 32) : List (W32 × BitVec 32) := (insertCand c l).take k

/-- The score of a candidate is final. -/
def laneCandidate (t : Tile) (key e n row col : Nat) (l : Lane) (d : Dev) : Dev :=
  let k := progKey row key col
  let p := tget 0 l.prog k
  if t.inst.func ≠ fLSEL ∨ row ≥ tileRows t ∨ (itemCols t key).contains col = false ∨ p < redLen t ∨ p = progDone ∨
      domRuns d (domEngine e) = false then d
  else
    let x := accOf t l row key col
    let drop := (f32 x).isNan
    let l1 := modCtx t.id (fun c =>
      { c with acc := tdel c.acc (accKey t row col),
               tk := if drop then c.tk else tmod [] c.tk row (fun q => offerCand t.prm.n0 q (x, BitVec.ofNat 32 col)) })
      { l with prog := tset l.prog k progDone }
    putGridLane t key e n l1 (if drop then d.count 0x2077 (ssEngine e) 1 else d)

/-! ### Attention (R167, R168) -/

/-- The address generator zero-pads a key of K: every element of it is padding (R168, R205; DEDUCED,
notes/assumptions/123.md). -/
def keyPadded (d : Dev) (t : Tile) (key : Nat) : Bool :=
  match descIn (tileDescs d t) (t.handle 2) with
  | none => false
  | some x => (List.range (laneShape t.inst.shape).2.2).all (fun k =>
      padAt (tileDescs d t) x ([(k : Int), (key : Int)] ++ t.origins 2))

/-- Whether a key is excluded from a row (R168), with the mask bit read. -/
def excludedKey (v : Variant) (t : Tile) (row key : Nat) (d : Dev) : Bool × Bool × Dev :=
  let r := t.rowAt row
  let qp : Int := t.prm.qpos + ((r / (if t.prm.qgrp = 0 then 1 else t.prm.qgrp) : Nat) : Int)
  if key ≥ t.b1 ∨ keyPadded d t key = true ∨ (t.prm.causal = true ∧ (key : Int) > qp) ∨ (t.prm.n0 ≠ 0 ∧ key ≥ t.prm.n0) then (true, false, d)
  else if t.prm.hM = 0 then (false, false, d)
  else
    let f := fetchOperand v t 6 [(key : Int), (r : Int)] d
    (f.1.bits = 0, f.1.poison, f.2)

/-- The exclusions of the 64 keys of an item, poison, the device. -/
def exclusions (v : Variant) (t : Tile) (row key : Nat) (d : Dev) : List Bool × Bool × Dev :=
  (List.range 64).foldl (fun (r : List Bool × Bool × Dev) j =>
    let x := excludedKey v t row (key + j) r.2.2
    (r.1 ++ [x.1], r.2.1 || x.2.1, x.2.2)) ([], false, d)

/-- A row whose scores hold a NaN: the record is NaN throughout (DEDUCED from R495; notes/assumptions/36.md). -/
def nanRec (dd : Nat) : SmRec := { m := 0x7FC00000, l := 0x7FC00000, o := List.replicate dd 0x7FC00000 }

/-- The quantised weights of a half (R167): their exponent and their integers. -/
def halfWeights (ps : List W32) : BitVec 8 × List Int :=
  let a := ps.foldl (fun m x => if (f32 m).lt (f32 x) then x else m) (0 : W32)
  let e : BitVec 8 := if a = 0 then 0 else BitVec.ofNat 8 (fitExp 127 (f32 a).toRat 0)
  (e, ps.map (fun x => (quantElem 127 x e).1))

/-- The new state of a row after the 64 keys of an item: `s` the scores, `ex` the exclusions, `vs k j` the element of V. Scores that are
NaN or +infinity: DEDUCED, notes/assumptions/36.md. -/
def attendRow (n dd : Nat) (a : SmRec) (s : List W32) (ex : List Bool) (vs : Nat → Nat → LaneElem) : SmRec :=
  let open_ := (List.range 64).filter (fun j => !(nth true ex j))
  let sc (j : Nat) : W32 := nth 0 s j
  if open_.any (fun j => (f32 (sc j)).isNan) || (f32 a.m).isNan then nanRec dd
  else
    let mx := open_.foldl (fun m j => f32max m (sc j)) a.m
    if mx = f32negInf then a
    else
      let sub (x : W32) : W32 := toF32 ((f32 x).add (f32 mx).neg)
      let alpha := if a.m = f32negInf then 0 else f32exp n (sub a.m)
      let p (j : Nat) : W32 := if open_.contains j then f32exp (n + 1 + j) (sub (sc j)) else 0
      let h0 := halfWeights ((List.range 32).map p)
      let h1 := halfWeights ((List.range 32).map (fun j => p (32 + j)))
      let l0 := f32mul a.l alpha
      let sum := scaled h0.2.sum ((h0.1.toNat : Int) - 127) + scaled h1.2.sum ((h1.1.toNat : Int) - 127)
      let l1 := toF32 ((f32 l0).add (.ofRat sum))
      let w (j : Nat) : LaneElem :=
        let q := if j < 32 then nth 0 h0.2 j else nth 0 h1.2 (j - 32)
        { opnd := 0, c0 := j, c1 := 0, bits := BitVec.ofInt 32 q, dup := 0, exp := if j < 32 then h0.1 else h1.1 }
      let o := (List.range dd).map (fun k => stepSum 0 (f32mul (nth 0 a.o k) alpha) ((List.range 64).map (fun j => (w j, vs k j))))
      { m := mx, l := l1, o := o }

/-- An element of V at the lane's input; beyond the bound the address generator has supplied padding (R205). -/
def valueElem (l : Lane) (k key : Nat) : Option LaneElem := l.inB.find? (fun x => x.opnd = 3 && x.c0 = key && x.c1 = k)

/-- One query row attends to the keys of the item: all of its scores and the item's V are there. -/
def laneAttend (v : Variant) (t : Tile) (key e n row : Nat) (l : Lane) (d : Dev) : Dev :=
  let dd := (laneShape t.inst.shape).2.2
  let en := laneEnergy d (e / 8) t.inst.phase
  let scored := (itemCols t key).all (fun c => decide (tget 0 l.prog (progKey row key c) ≥ redLen t))
  let vsHere := (List.range dd).all (fun k => (List.range 64).all (fun j => (valueElem l k (key + j)).isSome))
  if t.inst.func ≠ fLATT ∨ row ≥ tileRows t ∨ tget 0 l.prog (2 ^ 40 + row) ≠ 0 ∨ scored = false ∨ vsHere = false ∨
      mayStep d (domEngine e) en dd = false then d
  else reading t.reader d (fun d =>
    let x := exclusions v t row key d
    if x.2.1 then failRead t x.2.2
    else
      let c := t.prm.f0
      let s := (List.range 64).map (fun j => f32mul c (tget 0 l.scores (progKey row key (key + j))))
      let old := tget ({ o := List.replicate dd 0 } : SmRec) (ctxOf l t.id).sm row
      let vs (k j : Nat) : LaneElem := (valueElem l k (key + j)).getD { opnd := 3, c0 := 0, c1 := 0, bits := 0, dup := 0, exp := 0 }
      let new := attendRow x.2.2.free dd old s x.1 vs
      let l1 := modCtx t.id (fun c => { c with sm := tset c.sm row new }) { l with prog := tset l.prog (2 ^ 40 + row) 1 }
      let d1 := (draw (domEngine e) (dd * lanePj 0) (debit (domEngine e) en dd { x.2.2 with free := x.2.2.free + 65 })).count 0x2070 (ssEngine e) dd
      putGridLane t key e n l1 d1)

/-! ### Row-wise functions on the lane (R174 to R177) -/

/-- The format of an operand. -/
def fmtOf (d : Dev) (t : Tile) (o : Nat) : Nat := (descIn (tileDescs d t) (t.inst.opnd o)).elim 7 (fun x => x.fmt)

/-- An element of a row function as a binary32 value: MXINT8 under its exponent, or the value of its format. -/
def elemF32 (fmt : Nat) (x : LaneElem) : W32 :=
  if fmt = 7 then x.bits
  else if x.exp = 0xFF then 0x7FC00000
  else toF32 ((fpElem fmt x.bits.toNat).mul (.fin false (pow2Q ((x.exp.toNat : Int) - 127))))

/-- Elements of an item of a row function, and whether all of an input are there. -/
def rowSpan (t : Tile) (key : Nat) : List Nat :=
  if (t.inst.func = fLROW ∧ t.inst.rowfn = 8) ∨ t.inst.func = fLMRG then List.range t.b1
  else ((List.range 4096).map (fun i => key + i)).filter (fun c => decide (c < t.b1))
def elemAt (es : List LaneElem) (o c : Nat) : Option LaneElem := es.find? (fun x => x.opnd = o && x.c0 = c)
def allAt (es : List LaneElem) (o : Nat) (cs : List Nat) : Bool := cs.all (fun c => (elemAt es o c).isSome)

/-- RMS scaling (R175): x_i × γ_i / sqrt (sum of squares / n + ε), within 4 ulp; the sum in FP32 in the order given. -/
def rmsRow (n : Nat) (order : RedTree) (eps : W32) (xs gs : List W32) : List W32 :=
  let s := treeSum (fun i => f32mul (nth 0 xs i) (nth 0 xs i)) order
  (xs.zipIdx).map (fun e =>
    let num := (f32 e.1).mul (f32 (nth 0x3F800000 gs e.2))
    match f32 s, f32 eps with
    | .fin _ q, .fin ne qe =>
      let r := q / ((xs.length : Nat) : Rat) + (Fp.fin ne qe).toRat
      if r ≤ 0 then 0x7FC00000 else withinUlp 4 (Config.ulpOffset (n + e.2)) (toF32 (num.div (.fin false (sqrtQ r))))
    | .inf false, .fin _ _ => toF32 (num.div (.inf false))
    | _, .inf false => if (f32 s).isNan then 0x7FC00000 else toF32 (num.div (.inf false))
    | _, _ => 0x7FC00000)

/-- Values of LROW over an item, by element. -/
def lrowValues (n : Nat) (t : Tile) (order : RedTree) (cs : List Nat) (xs us : List W32) : Tab W32 :=
  let f := t.inst.rowfn
  let vals : Tab W32 := cs.zip xs
  if 5 ≤ f ∧ f ≤ 7 then ((cs.zip (xs.zip us)).zipIdx).map (fun e => (e.1.1, f32mul (actFn f (n + e.2) e.1.2.1) e.1.2.2))
  else if f = 8 then cs.zip (rmsRow n order t.prm.f0 xs us)
  else if f = 9 then ((cs.zip (xs.zip us))).map (fun e => (e.1, if signBitOf e.2.1 e.2.2 then 1 else 0))
  else rowValues f n vals

/-- The results of the sign function, whose values are 0 and 1 (R176). -/
def signResults (d : Dev) (t : Tile) (vals : Tab W32) : List PendWrite :=
  let fs : Tab Nat := vals.map (fun e => (e.1, e.2.toNat))
  if t.inst.opnd 5 ≠ 0 then signBlocks d t t.gi fs
  else
    let fmt := fmtOf d t 4
    if fmt = 0xD then fs.map (fun e => resultAt t 4 e.1 t.gi e.2)
    else
      let ws := packWords 1 fs
      (wordsOf 1 (fs.map Prod.fst)).map (fun k => resultAt t 4 k t.gi (tget 0 ws k))

/-- FP32 outputs of a row: kept for the forming side, or results; with a window, added to the context. -/
def putRow (t : Tile) (vals : Tab W32) (d : Dev) : Dev :=
  if formsOut t then d.modTile t.id (fun x => { x with outs := putOuts 0 0 vals x.outs })
  else
    let rs := vals.map (fun e => resultAt t 4 e.1 t.gi (convertOut (fmtOf d t 4) e.2))
    d.modTile t.id (fun x => { x with results := x.results ++ rs })

/-! ### Merging (R171, R173) -/

/-- Merge a record into a stored one; `n` names the free offsets of its two exponentials. -/
def mergeRec (n : Nat) (a b : SmRec) : SmRec :=
  if b.m = f32negInf then a
  else if a.m = f32negInf then b
  else
    let mx := f32max a.m b.m
    let sub (x : W32) : W32 := toF32 ((f32 x).add (f32 mx).neg)
    let fa := f32exp n (sub a.m)
    let fb := f32exp (n + 1) (sub b.m)
    { m := mx, l := f32add (f32mul a.l fa) (f32mul b.l fb),
      o := (a.o.zip b.o).map (fun e => f32add (f32mul e.1 fa) (f32mul e.2 fb)) }

/-- Words of a record, and a record of words. -/
def recWords (r : SmRec) : List W32 := r.m :: r.l :: r.o
def recOf (ws : List W32) : SmRec := { m := nth f32negInf ws 0, l := nth 0 ws 1, o := ws.drop 2 }

/-- Scores and indices of list words, and back. -/
def candsOf (ws : List W32) : List (W32 × BitVec 32) :=
  (List.range (ws.length / 2)).map (fun i => (nth 0 ws (2 * i), nth 0 ws (2 * i + 1)))
def candWords (cs : List (W32 × BitVec 32)) : List W32 := (cs.map (fun c => [c.1, c.2])).flatten

/-- Incoming entries merged into a list of capacity k. -/
def mergeList (k : Nat) (a b : List (W32 × BitVec 32)) : List (W32 × BitVec 32) := b.foldl (offerCand k) a

/-- Width of the output rows of a tile's merge stage. -/
def mergeDim (d : Dev) (t : Tile) : Nat := mergeWidth (descIn (tileDescs d t) (t.inst.opnd 4))

/-- The regions of a merge stage's row of words, `s` words apart. -/
def regionsOf (s : Nat) (ws : List W32) : List (List W32) := (List.range (cdiv ws.length s)).map (fun i => (ws.drop (i * s)).take s)

/-- A merge stage (R171, R173) over a row of words. -/
def mergeStage (t : Tile) (ws : List W32) (e : Nat) (d : Dev) : Dev :=
  if t.inst.rowfn = 1 then
    let dd := mergeDim d t
    let rs := (regionsOf (recStride dd / 4) ws).map (fun r => recOf (r.take (dd + 2)))
    let r := (rs.zipIdx).foldl (fun a b => mergeRec (d.free + 2 * b.2) a b.1) ({ o := List.replicate dd 0 } : SmRec)
    let d1 := { d with free := d.free + 2 * rs.length }
    let zero := match f32 r.l with
      | .fin _ q => decide (q = 0)
      | _ => false
    let vals : Tab W32 := (r.o.zipIdx).map (fun x => (x.2, f32norm x.1 r.l))
    putRow t vals (if zero then d1.count 0x2076 (ssEngine e) 1 else d1)
  else
    let k := t.prm.n0
    let ls := (regionsOf (listStride k / 4) ws).map (fun r => (candsOf (r.drop 4)).take (min k (nth 0 r 0).toNat))
    let l := ls.foldl (mergeList k) []
    let words := [BitVec.ofNat 32 l.length, BitVec.ofNat 32 k, 0, 0] ++ candWords l ++
      (List.replicate (k - l.length) [f32negInf, 0xFFFFFFFF]).flatten
    let rs := (words.zipIdx).map (fun w => resultAt t 4 w.2 t.gi w.1.toNat)
    d.modTile t.id (fun x => { x with results := x.results ++ rs })

/-- The row-function unit runs over an item's elements. -/
def laneRowfn (t : Tile) (key e n : Nat) (order : RedTree) (l : Lane) (d : Dev) : Dev :=
  let cs := rowSpan t key
  let two := t.inst.func = fLROW && t.inst.opnd 2 ≠ 0
  let x (c : Nat) : W32 := (elemAt l.inA 0 c).elim 0 (elemF32 (fmtOf d t 0))
  let dflt : W32 := if t.inst.rowfn = 8 then 0x3F800000 else t.prm.f0
  let u (c : Nat) : W32 := if two then (elemAt l.inB 2 c).elim 0 (elemF32 (fmtOf d t 2)) else dflt
  if (t.inst.func ≠ fLROW ∧ t.inst.func ≠ fLMRG) ∨ allAt l.inA 0 cs = false ∨ (two = true ∧ allAt l.inB 2 cs = false) ∨
      (t.inst.rowfn = 8 ∧ treeOver cs.length order = false) ∨ domRuns d (domEngine e) = false then d
  else if t.inst.func = fLMRG then
    endItem t.id l e n (mergeStage t (cs.map (fun c => (elemAt l.inA 0 c).elim 0 (fun y => y.bits))) e d)
  else
    let vals := lrowValues d.free t order cs (cs.map x) (cs.map u)
    let d1 := { d with free := d.free + cs.length }
    if t.prm.wlen ≠ 0 then
      endItem t.id (modCtx t.id (fun c => { c with acc := vals.foldl (fun a y => tset a y.1 y.2) c.acc }) l) e n d1
    else if t.inst.rowfn = 9 then
      let rs := signResults d1 t vals
      endItem t.id l e n (d1.modTile t.id (fun y => { y with results := y.results ++ rs }))
    else endItem t.id l e n (putRow t vals d1)

/-! ### KV append (R166) -/

/-- Where the exponent of a token's span stands in the span table, as a key of the span records. -/
def spanKey (v : Variant) (t : Tile) (tensor : Nat) (token : Int) (d : Dev) : Option Nat :=
  (descIn (tileDescs d t) (t.handle 4)).bind (fun x =>
    match (placeOf v (tileDescs d t) x t.reader ([token / 128, (tensor : Int)] ++ t.origins 4) d).1 with
    | .at_ y _ => some (x.alloc * 2 ^ 64 + denseBit x y / 8)
    | _ => none)

/-- Exponent of a row of K (tensor 0) or V (1): the span's, where one has been written or is on its way; else the row is the first of its
span and takes its tracker entry's, which goes into the span table. A span whose exponent in the table is 0 has none yet (DESIGN CHOICE,
notes/assumptions/38.md). Answers the exponent, poison, the device. -/
def rowExp (v : Variant) (t : Tile) (e tensor : Nat) (token : Int) (d : Dev) : BitVec 8 × Bool × Dev :=
  match spanKey v t tensor token d with
  | none => (entryExp d (576 + e) t (t.prm.trk0 + tensor) tensor, false, d)
  | some k =>
    match tfind d.spans k with
    | some r => (r.exp, false, if r.done then d else
        { d with spans := tset d.spans k { r with users := r.users.filter (· ≠ t.id) ++ [t.id] } })
    | none =>
      let r := spanExp v t 4 tensor token d
      if r.1 ≠ 0 ∨ r.2.1 = true then r
      else
        let x := entryExp r.2.2 (576 + e) t (t.prm.trk0 + tensor) tensor
        (x, false, { r.2.2 with spans := tset r.2.2.spans k { exp := x, users := [t.id] } })

/-- The writes that put the exponent of a row's span into the table, while it does not stand there. -/
def spanWrites (v : Variant) (t : Tile) (tensor : Nat) (token : Int) (e : BitVec 8) (d : Dev) : List PendWrite :=
  match (spanKey v t tensor token d).bind (tfind d.spans) with
  | some r => if r.done then [] else [resultAt t 4 (token / 128).toNat tensor e.toNat]
  | none => []

/-- Order 1 of a KV append on its engine's quantiser: the exponents of both rows. Answers poison and the device. -/
def startKv (v : Variant) (t : Tile) (e : Nat) (token : Int) (d : Dev) : Bool × Dev :=
  if (formingOf d (576 + e) t.id).isSome then (false, d)
  else
    let k := rowExp v t e 0 token d
    let w := rowExp v t e 1 token k.2.2
    let f := { startForming (576 + e) t [] w.2.2 with exps := tset (tset [] (posKey 0 0) k.1) (posKey 1 0) w.1, ended := [] }
    (k.2.1 || w.2.1, w.2.2.modQuant (576 + e) (fun x => { x with forming := x.forming ++ [f] }))

/-- One row of K (tensor 0) or V (1) of an item is quantised into the cache. A token below zero lies outside it: its row is discarded as
the tile commits (R206). -/
def quantiseRow (v : Variant) (t : Tile) (e tensor : Nat) (token : Int) (first : Bool) (cs : List Nat) (xs : List W32) (d : Dev) : Dev :=
  let q := 576 + e
  let key := posKey tensor 0
  let ex := (formingOf d q t.id).elim 0 (fun f => tget 0 f.exps key)
  let qs := xs.map (fun x => quantElem 127 x ex)
  let d1 := modForming q t.id (fun f => ((cs.zip xs).zip qs).foldl (fun f y => f.add key 0 (seenKey tensor 0 y.1.1) y.1.2 y.2) f) d
  let d2 := qs.foldl (fun d y => countElem q 0x2041 y d) d1
  let rs := (cs.zip qs).map (fun y => resultRow t (2 + tensor) y.1 token (BitVec.ofInt 8 y.2.1).toNat)
  let span := if first then spanWrites v t tensor token ex d2 else []
  d2.modTile t.id (fun y => { y with results := y.results ++ rs ++ span })

/-- The tile's last row is quantised: order 4 of its issue. -/
def endKv (t : Tile) (e : Nat) (d : Dev) : Dev :=
  match formingOf d (576 + e) t.id with
  | none => d
  | some f =>
    let d1 := dropForming (576 + e) t.id ([1, 0].foldl (fun d p => (d.tileOf t.id).elim d (fun t => endPart (576 + e) t f d p)) d)
    match d1.tileOf t.id with
    | some t1 => if t1.strictMiss then failTile t1 stScaleMiss d1 else d1
    | none => d1

/-- One row of an item of a KV append; after the second its item ends, and with the last item the issue. -/
def laneKv (v : Variant) (t : Tile) (key e n tensor : Nat) (l : Lane) (d : Dev) : Dev :=
  let cs := rowSpan t key
  let src := if tensor = 0 then l.inA else l.inB
  let token : Int := t.prm.qpos + (t.gi : Int)
  if t.inst.func ≠ fLAPP ∨ tensor > 1 ∨ allAt src tensor cs = false ∨ tget 0 l.prog tensor ≠ 0 ∨
      domRuns d (domEngine e) = false then d
  else reading t.reader d (fun d =>
    let s := startKv v t e token d
    if s.1 then failRead t s.2
    else
      let xs := cs.map (fun c => (elemAt src tensor c).elim 0 (elemF32 (fmtOf d t tensor)))
      let d1 := quantiseRow v t e tensor token (key = 0) cs xs s.2
      let l1 := { l with prog := tset l.prog tensor 1 }
      if tget 0 l1.prog (1 - tensor) = 0 then d1.setLane e n l1
      else
        let d2 := endItem t.id l1 e n d1
        if t.items ≤ 1 then endKv t e d2 else d2)

/-! ### LMOVE (R88, R109, R500) -/

/-- Exponent of an MXINT8 source block on its way: the OCP convention of the source or of the destination is applied (R88). -/
def moveExp (src dst : Bool) (e : BitVec 8) : BitVec 8 × Bool × Bool :=
  let a := if src then ocpImport e else some e
  match a with
  | none => (0, true, false)
  | some x =>
    match if dst then ocpExport x else some x with
    | none => (0xFF, false, true)
    | some y => (y, false, false)

/-- The blocks of 32 that a list of elements touches. -/
def blocksIn (cs : List Nat) : List Nat := (cs.map (fun c => c / 32)).eraseDups

/-- One block of a move into an MXINT8 tensor; what it fits and converts is counted at its hub's conversion DMA (R101, R109; DESIGN CHOICE,
notes/assumptions/143.md). -/
def moveBlock (t : Tile) (l : Lane) (e : Nat) (fmt : Nat) (so dO : Bool) (cs : List Nat) (b : Nat) (d : Dev) : Dev :=
  let mine := cs.filter (fun c => c / 32 = b)
  let ss := ssHub (e / 8)
  let put (ex : BitVec 8) (qs : List (BitVec 8)) (d : Dev) : Dev :=
    let rs := (mine.zip qs).map (fun y => resultAt t 4 y.1 t.gi y.2.toNat) ++ [resultAt t 5 b t.gi ex.toNat]
    d.modTile t.id (fun x => { x with results := x.results ++ rs })
  if t.inst.opnd 1 ≠ 0 then
    let els := mine.filterMap (fun c => elemAt l.inA 0 c)
    let r := moveExp so dO ((els.head?).elim 0 (fun x => x.exp))
    let d1 := if r.2.1 then d.count 0x2048 ss 1 else if r.2.2 then d.count 0x2046 ss 1 else d
    put r.1 (els.map (fun x => if r.2.1 then 0 else x.bits.setWidth 8)) d1
  else
    let f := fitBlock (mine.map (fun c => (elemAt l.inA 0 c).elim 0 (elemF32 fmt)))
    let r := moveExp false dO f.1
    let d1 := countFit ss f d
    put r.1 (f.2.1.map (fun y => BitVec.ofInt 8 y.1)) (if r.2.2 then d1.count 0x2046 ss 1 else d1)

/-- The bits of a moved element that does not enter an MXINT8 tensor. -/
def moveBits (fs fd : Nat) (x : LaneElem) : Nat :=
  if isFloatFmt fd && fs ≠ fd then convertOut fd (elemF32 fs x) else x.bits.toNat

def laneMove (t : Tile) (key e n : Nat) (l : Lane) (d : Dev) : Dev :=
  let cs := rowSpan t key
  let ds := tileDescs d t
  let ocp (o : Nat) : Bool := (descIn ds (t.inst.opnd o)).elim false (fun x => x.ocp)
  let so := ocp 0 || ocp 1
  let dO := ocp 4 || ocp 5
  if t.inst.func ≠ fLMOVE ∨ allAt l.inA 0 cs = false ∨ domRuns d (domEngine e) = false then d
  else if t.inst.opnd 5 ≠ 0 then
    endItem t.id l e n ((blocksIn cs).foldl (fun d b => moveBlock t l e (fmtOf d t 0) so dO cs b d) d)
  else
    let fs := fmtOf d t 0
    let fd := fmtOf d t 4
    let vals := cs.map (fun c => (c, (elemAt l.inA 0 c).elim 0 (moveBits fs fd)))
    if t.prm.wlen ≠ 0 then
      let l1 := modCtx t.id (fun c => { c with acc := vals.foldl (fun a y => tset a y.1 (BitVec.ofNat 32 y.2)) c.acc }) l
      endItem t.id l1 e n d
    else
      let rs := vals.map (fun y => resultAt t 4 y.1 t.gi y.2)
      endItem t.id l e n (d.modTile t.id (fun x => { x with results := x.results ++ rs }))

/-- One lane step. -/
def laneStepOp (v : Variant) (e n : Nat) (work : LaneWork) (d : Dev) : Dev :=
  let l := d.lane e n
  match l.run.bind (fun i => (d.tileOf i.tile).map (fun t => (i, t))) with
  | none => d
  | some (i, t) =>
    if l.inRing = false ∨ l.out ≠ [] ∨ t.stage ≠ .issued then d
    else match work with
      | .dot row col => laneDot t i.key e n row col l d
      | .candidate row index => laneCandidate t i.key e n row index l d
      | .attend row => laneAttend v t i.key e n row l d
      | .rowfn order => laneRowfn t i.key e n order l d
      | .kvAppend tensor => laneKv v t i.key e n tensor l d
      | .move => laneMove t i.key e n l d

/-! ### Flushes (R152, R153) -/

/-- Words at offsets as updates of at most 16 consecutive words of one granule. -/
def granules (tile lane : Nat) (op : AccOp) (ws : List (Nat × W32)) : List AccUpd :=
  ws.foldl (fun (us : List AccUpd) w =>
    match us.getLast? with
    | some u =>
      if u.off + 4 * u.words.length = w.1 ∧ u.off / 64 = w.1 / 64 then us.dropLast ++ [{ u with words := u.words ++ [w.2] }]
      else us ++ [{ tile := tile, lane := lane, off := w.1, op := op, words := [w.2] }]
    | none => [{ tile := tile, lane := lane, off := w.1, op := op, words := [w.2] }]) []

/-- The flush updates of a context. -/
def flushUpdates (d : Dev) (t : Tile) (lane : Nat) (c : Ctx) : List AccUpd :=
  let base := 64 * t.prm.wbase
  let dd := (laneShape t.inst.shape).2.2
  if t.inst.func = fLATT then
    c.sm.map (fun r => { tile := t.id, lane := lane, off := base + r.1 * recStride dd, op := .softmax dd, words := recWords r.2 })
  else if t.inst.func = fLSEL then
    c.tk.map (fun r => { tile := t.id, lane := lane, off := base + r.1 * listStride t.prm.n0, op := .topk, words := candWords r.2 })
  else
    let n := (laneShape t.inst.shape).2.1
    let at_ (k : Nat) : Nat := if isGridFn t.inst.func then 4 * (k / 65536 * n + k % 65536) else 4 * k
    let int := t.inst.func = fLMOVE && !isFloatFmt (fmtOf d t 4)
    granules t.id lane (if int then .iadd else .fadd) (c.acc.map (fun a => (base + at_ a.1, a.2)))

/-- A context leaves its lane: its tile has no more items here or in the dispatcher, or it is the least recently used of two and the
next item needs a context. -/
def contextFlushOp (e n tile : Nat) (d : Dev) : Dev :=
  let l := d.lane e n
  match l.ctxs.find? (fun c => c.tile = tile), d.tileOf tile with
  | some c, some t =>
    let running := laneRuns d e n tile
    let more := l.queue.any (fun i => i.tile = tile) || (d.engine e).items.any (fun i => i.tile = tile)
    let pushed := l.ctxs.length ≥ 2 && (l.ctxs.head?).elim false (fun x => x.tile = tile) && l.run = none &&
      (l.queue.head?).elim false (fun i => !l.ctxs.any (fun x => x.tile = i.tile))
    if running = true ∨ (more = true ∧ pushed = false) ∨ l.out ≠ [] ∨ domRuns d (domEngine e) = false then d
    else
      (d.setLane e n { l with ctxs := l.ctxs.filter (fun x => x.tile ≠ tile), out := l.out ++ flushUpdates d t n c }).count 0x207A
        (ssEngine e) 1
  | _, _ => d

/-! ### The accumulator buffer (R158 to R161) -/

/-- The bank of an offset. -/
def bankOfOff (o : Nat) : Nat := o / 64 % 32

def isMerge : AccOp → Bool
  | .softmax _ => true
  | .topk => true
  | _ => false

/-- Word `i` of a memory at a byte offset. -/
def accWord (m : Memory) (o : Nat) : W32 := BitVec.ofNat 32 (leNat (mread m o 4))
def accWords (m : Memory) (o n : Nat) : List W32 := (List.range n).map (fun i => accWord m (o + 4 * i))
def putWords (m : Memory) (o : Nat) (ws : List W32) : Memory := mwrite m o ((ws.map (fun w => toLe 4 w.toNat)).flatten)

/-- An INT32 add that wraps. -/
def wraps (a b : W32) : Bool := (a + b).toInt ≠ a.toInt + b.toInt

/-- A bank applies an update: the buffer and how many INT32 adds wrapped. -/
def applyUpd (u : AccUpd) (m : Memory) : Memory × Nat :=
  let old := accWords m u.off u.words.length
  let ps := old.zip u.words
  match u.op with
  | .fadd => (putWords m u.off (ps.map (fun p => f32add p.1 p.2)), 0)
  | .iadd => (putWords m u.off (ps.map (fun p => p.1 + p.2)), (ps.filter (fun p => wraps p.1 p.2)).length)
  | .fmax => (putWords m u.off (ps.map (fun p => f32max p.1 p.2)), 0)
  | .fmin => (putWords m u.off (ps.map (fun p => f32min p.1 p.2)), 0)
  | .store => (putWords m u.off u.words, 0)
  | _ => (m, 0)

/-- Bytes that an update may touch: a merge into a list touches the whole region. -/
def updSpan (t : Tile) (u : AccUpd) : Nat :=
  match u.op with
  | .topk => 16 + 8 * t.prm.n0
  | _ => 4 * u.words.length

/-- The update lies in its tile's window (R161). -/
def inWindow (t : Tile) (u : AccUpd) : Bool :=
  decide (64 * t.prm.wbase ≤ u.off) && decide (u.off + updSpan t u ≤ 64 * t.prm.wbase + 64 * t.prm.wlen)

/-- Take the head of a lane's updates. -/
def dropOut (e n : Nat) (d : Dev) : Dev := d.modLane e n (fun l => { l with out := l.out.tail, stalled := false })

/-- The lane stalls on a full queue: counted once for the update that it holds back (R159). -/
def stallLane (e n idx : Nat) (d : Dev) : Dev :=
  if (d.lane e n).stalled then d else (d.modLane e n (fun l => { l with stalled := true })).count idx (ssEngine e) 1

/-- An update enters a queue of the engine, with its place in the order of arrival (R160). -/
def queueUpd (e : Nat) (u : AccUpd) (put : AccUpd → Engine → Engine) (d : Dev) : Dev :=
  d.modEngine e (fun g => put { u with seq := g.arrivals } { g with arrivals := g.arrivals + 1 })

/-- An update arrives from a lane: dropped outside the window, queued, or held while the queue is full. -/
def arriveUpd (e bank : Nat) (u : AccUpd) (d : Dev) : Dev :=
  let g := d.engine e
  match d.tileOf u.tile with
  | none => d
  | some t =>
    if ((d.lane e u.lane).out.head?).elim false (fun x => x = u) = false ∨ bankOfOff u.off ≠ bank ∨
        domRuns d (domEngine e) = false then d
    else if !inWindow t u then
      let d1 := (dropOut e u.lane d).count 0x2079 (ssEngine e) 1
      if g.ranged.contains t.id then d1
      else (d1.modEngine e (fun x => { x with ranged := x.ranged ++ [t.id] })).post evAccRange (e / 8) (engineTarget e) []
    else if isMerge u.op then
      if g.merge.length ≥ 8 then stallLane e u.lane 0x2075 d
      else dropOut e u.lane (queueUpd e u (fun u x => { x with merge := x.merge ++ [u] }) d)
    else if (tget [] g.confl bank).length ≥ 8 then stallLane e u.lane 0x2073 d
    else dropOut e u.lane (queueUpd e u (fun u x => { x with confl := tmod [] x.confl bank (· ++ [u]) }) d)

/-- The banks that an update touches; a list merge touches its whole region, whose capacity stands in it. -/
def updBanks (g : Engine) (u : AccUpd) : List Nat :=
  let n := match u.op with
    | .topk => 16 + 8 * ((accWord g.acc (u.off + 4)).toNat % 65536)
    | _ => 4 * u.words.length
  ((List.range ((u.off + max n 1 - 1) / 64 - u.off / 64 + 1)).map (fun i => bankOfOff (u.off + 64 * i))).eraseDups

/-- An earlier update of the same lane to a bank that this one touches still waits: in the conflict queues, or in the merge unit's
queue (R160). -/
def earlierWaits (g : Engine) (u : AccUpd) : Bool :=
  let before (x : AccUpd) : Bool := x.lane = u.lane && decide (x.seq < u.seq) && (updBanks g x).any (fun b => (updBanks g u).contains b)
  if isMerge u.op then g.confl.any (fun q => q.2.any before) else g.merge.any before

/-- A bank is free: it applies the oldest update of its conflict queue. -/
def drainBank (e bank : Nat) (d : Dev) : Dev :=
  let g := d.engine e
  match tget [] g.confl bank with
  | [] => d
  | u :: rest =>
    if domRuns d (domEngine e) = false ∨ earlierWaits g u = true then d
    else
      let r := applyUpd u g.acc
      (d.setEngine e { g with acc := r.1, confl := tput [] g.confl bank rest }).count 0x2078 (ssEngine e) r.2

def accUpdateOp (e bank : Nat) (upd : Option AccUpd) (d : Dev) : Dev :=
  match upd with
  | some u => arriveUpd e bank u d
  | none => drainBank e bank d

/-- The merge unit merges the oldest waiting record. -/
def softmaxMergeOp (e : Nat) (d : Dev) : Dev :=
  let g := d.engine e
  match g.merge with
  | u :: rest =>
    match u.op with
    | .softmax dd =>
      if domRuns d (domEngine e) = false ∨ earlierWaits g u = true then d
      else
        let a := recOf (accWords g.acc u.off (dd + 2))
        let r := mergeRec d.free a (recOf u.words)
        (({ d with free := d.free + 2 }).setEngine e { g with acc := putWords g.acc u.off (recWords r), merge := rest }).count 0x2074
          (ssEngine e) 1
    | _ => d
  | [] => d

/-- The list of a region (Table 6.4), and the words that a list leaves there. -/
def regionList (m : Memory) (o : Nat) : Nat × List (W32 × BitVec 32) :=
  let n := (accWord m o).toNat
  let k := (accWord m (o + 4)).toNat % 65536
  (k, (candsOf (accWords m (o + 16) (2 * k))).take n)

def putRegion (m : Memory) (o k : Nat) (l : List (W32 × BitVec 32)) : Memory :=
  putWords (putWords m o [BitVec.ofNat 32 l.length]) (o + 16)
    (candWords l ++ (List.replicate (k - l.length) [f32negInf, 0xFFFFFFFF]).flatten)

/-- The merge unit merges the oldest waiting list. -/
def topkMergeOp (e : Nat) (d : Dev) : Dev :=
  let g := d.engine e
  match g.merge with
  | u :: rest =>
    if u.op ≠ .topk ∨ domRuns d (domEngine e) = false ∨ earlierWaits g u = true then d
    else
      let r := regionList g.acc u.off
      let l := mergeList r.1 r.2 (candsOf u.words)
      (d.setEngine e { g with acc := putRegion g.acc u.off r.1 l, merge := rest }).count 0x2074 (ssEngine e) 1
  | [] => d

/-! ### The end of a stream tile (R154, R162, R169) -/

/-- Something of a tile is still on its engine. -/
def tilePending (d : Dev) (e tile : Nat) : Bool :=
  let g := d.engine e
  g.items.any (fun i => i.tile = tile) || g.confl.any (fun q => q.2.any (fun u => u.tile = tile)) ||
    g.merge.any (fun u => u.tile = tile) || g.lanes.any (fun l =>
      l.2.queue.any (fun i => i.tile = tile) || l.2.run.elim false (fun i => i.tile = tile) || l.2.ctxs.any (fun c => c.tile = tile) ||
        l.2.out.any (fun u => u.tile = tile))

/-- The outputs of a dot-product tile: the words of its window after the row-wise function. -/
def dotOutputs (t : Tile) (acc : Memory) (row : Nat) : Tab W32 :=
  let n := (laneShape t.inst.shape).2.1
  let cols := ((List.range n).map (fun j => t.gj * n + j)).filter (fun c => decide (c < t.b1))
  cols.map (fun c => (c, accWord acc (64 * t.prm.wbase + 4 * (row * n + (c - t.gj * n)))))

/-- One row of results of a grid tile from its window. -/
def gridRow (t : Tile) (e row : Nat) (d : Dev) : Dev :=
  let acc := (d.engine e).acc
  let base := 64 * t.prm.wbase
  let dd := (laneShape t.inst.shape).2.2
  if t.inst.func = fLSEL then
    let ws := accWords acc (base + row * listStride t.prm.n0) (4 + 2 * t.prm.n0)
    let rs := (ws.zipIdx).map (fun w => resultAt t 4 w.2 (t.rowAt row) w.1.toNat)
    d.modTile t.id (fun x => { x with results := x.results ++ rs })
  else
    let l := accWord acc (base + row * recStride dd + 4)
    let zero := t.inst.func = fLATT && (match f32 l with | .fin _ q => decide (q = 0) | _ => false)
    let vals : Tab W32 := if t.inst.func = fLATT then
        ((accWords acc (base + row * recStride dd + 8) dd).zipIdx).map (fun x => (x.2, f32norm x.1 l))
      else if t.inst.rowfn = 9 then dotOutputs t acc row
      else rowValues t.inst.rowfn d.free (dotOutputs t acc row)
    let d0 := { d with free := d.free + vals.length }
    let d1 := if zero then d0.count 0x2076 (ssEngine e) 1 else d0
    if formsOut t then d1.modTile t.id (fun x => { x with outs := putOuts 0 row vals x.outs })
    else
      let bit (x : W32) : Nat := if signBitOf x t.prm.f0 then 1 else 0
      let c1 := t.rowAt row
      let fmt := fmtOf d t 4
      let rs := if t.inst.rowfn = 9 then
          let fs : Tab Nat := vals.map (fun y => (y.1, bit y.2))
          if t.inst.opnd 5 ≠ 0 then signBlocks d t c1 fs
          else if fmt = 0xD then fs.map (fun y => resultAt t 4 y.1 c1 y.2)
          else (wordsOf 1 (fs.map Prod.fst)).map (fun k => resultAt t 4 k c1 (tget 0 (packWords 1 fs) k))
        else vals.map (fun y => resultAt t 4 y.1 c1 (convertOut fmt y.2))
      d1.modTile t.id (fun x => { x with results := x.results ++ rs })

/-- The outputs of a row tile that used a window. -/
def windowRow (t : Tile) (e : Nat) (d : Dev) : Dev :=
  let acc := (d.engine e).acc
  let vals : Tab W32 := (List.range t.b1).map (fun c => (c, accWord acc (64 * t.prm.wbase + 4 * c)))
  if t.inst.rowfn = 9 then
    let rs := signResults d t vals
    d.modTile t.id (fun x => { x with results := x.results ++ rs })
  else if isFloatFmt (fmtOf d t 4) || t.inst.opnd 5 ≠ 0 then putRow t vals d
  else
    let rs := vals.map (fun y => resultAt t 4 y.1 t.gi y.2.toNat)
    d.modTile t.id (fun x => { x with results := x.results ++ rs })

/-- The results of a tile come from its window: every grid function, and a row function that names one. -/
def fromWindow (t : Tile) : Bool :=
  t.engine.isSome && (isGridFn t.inst.func || (t.prm.wlen ≠ 0 && t.inst.func ≠ fLAPP && t.inst.func ≠ fLMRG))

/-- The outputs of a tile are read from its window (R162). -/
def windowResults (t : Tile) (d : Dev) : Dev :=
  match t.engine with
  | none => d
  | some e =>
    if !fromWindow t then d
    else if isGridFn t.inst.func then (List.range (tileRows t)).foldl (fun d r => gridRow t e r d) d
    else windowRow t e d

/-- Every item has run, every context is flushed and every update is applied: the tile is ready to commit; or, where a forming side
quantises its outputs, these are read from the window and the forming issue begins. -/
def streamTileCompleteOp (e tile : Nat) (d : Dev) : Dev :=
  match d.tileOf tile with
  | none => d
  | some t =>
    if t.stage ≠ .issued ∨ t.engine ≠ some e ∨ t.items ≠ 0 ∨ tilePending d e tile = true ∨ (d.engine e).disp.contains tile = true ∨
        t.reduced.contains (0, 0) = true ∨ t.reduced.contains (0, 1) = false ∨ domRuns d (domEngine e) = false then d
    else
      let forming := partForms t 0
      (if forming then windowResults t d else d).modTile tile (fun x =>
        { x with reduced := x.reduced ++ [(0, 0)], items := if forming then 1 else 0, stage := if forming then .issued else .formed })

/-! ### TILE_COMMIT -/

/-- A tile that passed its test-and-set: its window is read now, unless a forming side has quantised what it held (R162; DESIGN CHOICE,
notes/assumptions/134.md). -/
def commitTile (v : Variant) (t : Tile) (d : Dev) : Dev :=
  let d1 := if partForms t 0 then d else windowResults t d
  match d1.tileOf t.id with
  | none => d1
  | some t1 => admitTile v t1 d1

/-- The handshakes of every unit that holds a tile run (R180, R425). -/
def unitsRun (d : Dev) (t : Tile) : Bool := t.engine.elim true (fun e => domRuns d (domEngine e)) && t.wedges.all (fun w => domRuns d (domWedge w))

/-- The end of a tile (R248): what is left at a pairing side is an alignment fault, else the test-and-set decides. -/
def tileCommitOp (v : Variant) (tile : Nat) (d : Dev) : Dev :=
  match d.tileOf tile with
  | none => d
  | some t =>
    if t.stage = .formed ∧ unitsRun d t = true then
     match leftOver d tile with
     | some (key, p) =>
      alignFault t key (leftTags t p).1 (leftTags t p).2 d
     | none => reading t.reader d (fun d =>
      let b := setBit v t d
      if b.2.1 then failRead t b.2.2
      else if b.1 then discardDuplicate t b.2.2
      else commitTile v t b.2.2)
    else d

/-! ### Meanings -/

def execOperandFetch (tile opnd : Nat) (coord : List Int) (dest : FetchDest) (s : State) : Host.Outcome State Fault Refusal :=
  .next (s.on (operandFetchOp s.variant tile opnd coord dest s.dev))

def execTileCommit (tile : Nat) (s : State) : Host.Outcome State Fault Refusal :=
  .next (s.on (tileCommitOp s.variant tile s.dev))

def execDispatchInstruction (engine tile : Nat) (s : State) : Host.Outcome State Fault Refusal :=
  .next (s.on (dispatchOp engine tile s.dev))

def execWindowFill (engine tile : Nat) (s : State) : Host.Outcome State Fault Refusal :=
  .next (s.on (windowFillOp engine tile s.dev))

def execItemDeal (engine : Nat) (s : State) : Host.Outcome State Fault Refusal :=
  .next (s.on (itemDealOp engine s.dev))

def execItemStart (engine lane : Nat) (s : State) : Host.Outcome State Fault Refusal :=
  .next (s.on (itemStartOp engine lane s.dev))

def execWorkSteal (engine lane : Nat) (s : State) : Host.Outcome State Fault Refusal :=
  .next (s.on (workStealOp engine lane s.dev))

def execLaneStep (engine lane : Nat) (work : LaneWork) (s : State) : Host.Outcome State Fault Refusal :=
  .next (s.on (laneStepOp s.variant engine lane work s.dev))

def execContextFlush (engine lane tile : Nat) (s : State) : Host.Outcome State Fault Refusal :=
  .next (s.on (contextFlushOp engine lane tile s.dev))

def execAccUpdate (engine bank : Nat) (upd : Option AccUpd) (s : State) : Host.Outcome State Fault Refusal :=
  .next (s.on (accUpdateOp engine bank upd s.dev))

def execSoftmaxMerge (engine : Nat) (s : State) : Host.Outcome State Fault Refusal :=
  .next (s.on (softmaxMergeOp engine s.dev))

def execTopkMerge (engine : Nat) (s : State) : Host.Outcome State Fault Refusal :=
  .next (s.on (topkMergeOp engine s.dev))

def execStreamTileComplete (engine tile : Nat) (s : State) : Host.Outcome State Fault Refusal :=
  .next (s.on (streamTileCompleteOp engine tile s.dev))

end Sys2Proof.Machine
end

