-- ==== Sys2Proof/Machine/Messages.lean ====
section
/-!
DEFINITION. Tamjor messages and the entries that they carry (R395 to R398).
-/
namespace Sys2Proof.Machine

open Sys2Proof

/-! ### Headers (Table 14.5) -/

structure MsgHeader where
  ver : Nat
  typ : Nat
  nent : Nat
  sid : Nat
  mseq : Nat
  blen : Nat
  rsv : Nat
deriving DecidableEq, Repr

def readHeader (m : Bytes) : MsgHeader :=
  { ver := fieldAt m 0 1, typ := fieldAt m 1 1, nent := fieldAt m 3 1, sid := fieldAt m 4 4, mseq := fieldAt m 8 4,
    blen := fieldAt m 12 2, rsv := fieldAt m 14 2 }

/-- The body of a message, and what follows it. -/
def msgBody (m : Bytes) : Bytes := (m.drop 16).take (readHeader m).blen
def msgTail (m : Bytes) : Bytes := m.drop (16 + (readHeader m).blen)

/-- A header that the module sends. -/
def sendHeader (typ : Nat) (status : BitVec 8) (nent sid mseq blen : Nat) : Bytes :=
  toLe 1 1 ++ toLe 1 typ ++ toLe 1 status.toNat ++ toLe 1 nent ++ toLe 4 sid ++ toLe 4 mseq ++ toLe 2 blen ++ toLe 2 0

/-- The digest that a signature covers (R399). -/
def msgDigest (nm nd headerBody : Bytes) : Bytes := Config.shake256 (nm ++ nd ++ headerBody)

/-- A message with the module's signature. -/
def signedMsg (nm nd headerBody : Bytes) : Bytes := headerBody ++ identitySig (msgDigest nm nd headerBody)

/-! ### Request entries (Table 14.6) -/

structure ReqEntry where
  op : Nat
  idx : Nat
  sub : Nat
  len : Nat
  rsv : Bool
  value : Bytes
deriving DecidableEq, Repr

/-- The entries of a body that holds exactly n of them. -/
def readEntries : Nat → Bytes → Option (List ReqEntry)
  | 0, b => if b = [] then some [] else none
  | n + 1, b =>
    let w := leNat (b.take 8)
    let op := bitsOf w 3 0
    let len := bitsOf w 47 32
    let size := if op = 2 then roundUp len 8 else 0
    if b.length < 8 + size then none
    else (readEntries n (b.drop (8 + size))).map (fun l =>
      { op := op, idx := bitsOf w 31 16, sub := bitsOf w 15 8, len := len, rsv := bitsOf w 7 4 ≠ 0 || bitsOf w 63 48 ≠ 0,
        value := if op = 2 then (b.drop 8).take len else [] } :: l)

/-- Room that the results could need (R398). -/
def roomNeeded (es : List ReqEntry) : Nat := (es.map (fun e => 8 + (if e.op = 1 then roundUp e.len 8 else 0))).sum

/-- The entries of a request, or the status of the whole message (R398). Reserved fields are checked first, as in Table 13.5. -/
def requestEntries (m : Bytes) : Except (BitVec 8) (List ReqEntry) :=
  let h := readHeader m
  if h.rsv ≠ 0 then .error stReserved
  else if 4080 < h.blen ∨ 64 < h.nent then .error stValueRange
  else match readEntries h.nent (msgBody m) with
    | none => .error stValueRange
    | some es =>
      if es.any (fun e => e.rsv) then .error stReserved
      else if 4080 < roomNeeded es then .error stValueRange
      else .ok es

/-! ### Applying an entry -/

/-- Results so far, and the life-cycle changes that have reached order 2 of Table 17.7. -/
structure Applied where
  results : Bytes
  changes : List (Nat × Nat)
  dev : Dev
deriving DecidableEq

/-- A token commit within a message: orders 1 and 2 of Table 17.7 are in this step; orders 3 to 5 follow the response. -/
def commitInMessage (v : Variant) (src : Source) (value : Bytes) (d : Dev) : BitVec 8 × List (Nat × Nat) × Dev :=
  let b := stagedBody d src
  let tok := tokenStatus d b (stagedSig d src)
  if leNat value = 0 then (stSuccess, [], d)
  else if tok ≠ stSuccess then (tok, [], rejectToken d)
  else
    let d1 := flushP v d
    let new := fieldAt b 6 1
    let vals := changeVals d1 new
    if recordFits d1 vals = false then (stThrottled, [], d1)
    else
      let r := vals.foldl (fun (a : BitVec 8 × Dev) e => if a.1 = stSuccess then programTries e.1 e.2 3 a.2 else a) (stSuccess, d1)
      if r.1 ≠ stSuccess then (r.1, [], r.2)
      else
        let d2 := vals.foldl (fun (d : Dev) e => landP v e.1 e.2 d) r.2
        (stSuccess, [(d.sec.lcs, new)], clearStaging (sourceIdx src) d2)

/-- A write of an entry whose checks have passed. -/
def writeEffect (v : Variant) (src : Source) (idx sub : Nat) (b : Bytes) (d : Dev) : BitVec 8 × List (Nat × Nat) × Dev :=
  if idx = 0x4010 then (let r := powerEffect v src b d; (r.1, [], r.2))
  else if idx = 0x3420 then (stSuccess, [], widenLink (sub - 1) b d)
  else if idx = 0x5801 then (stSuccess, [], { d with vals := tset d.vals (odKey 0x5801 2) (wallTimeValue d b) })
  else if idx = 0x5020 then (let r := retryBoot b d; (r.1, [], r.2))
  else if idx = 0x7020 ∧ sub = 4 then commitInMessage v src b d
  else if idx = 0x7030 then (let r := attest v src b d; (r.1, [], r.2))
  else if clsOf idx sub == .p then (let r := inStepP v idx sub b d; (r.1, [], r.2))
  else (stSuccess, [], storeValue src idx sub b d)

/-- A result entry (Table 14.7), its value padded to a multiple of 8. -/
def resultBytes (e : ReqEntry) (st : BitVec 8) (b : Bytes) : Bytes :=
  toLe 1 st.toNat ++ toLe 1 0 ++ toLe 2 e.idx ++ toLe 1 e.sub ++ toLe 1 0 ++ toLe 2 b.length ++ padTo (roundUp b.length 8) b

/-- One entry, checked and applied on its own (R397). -/
def applyEntry (v : Variant) (src : Source) (sid : Nat) (a : Applied) (e : ReqEntry) : Applied :=
  if e.op = 1 then
    if e.idx = 0x5800 then
      let r := ringRequest v src sid e.sub e.len a.dev
      { a with results := a.results ++ resultBytes e r.1 r.2.1, dev := r.2.2 }
    else
      let r := odRead v a.dev src sid e.idx e.sub e.len
      { a with results := a.results ++ resultBytes e r.1 r.2 }
  else if e.op = 2 then
    let st := odWriteChecks v a.dev src sid e.idx e.sub e.value
    if st ≠ stSuccess then
      let d1 := if st = stLifecycle ∧ e.idx = 0x7020 ∧ e.sub = 4 ∧ e.value = [1] then rejectToken a.dev else a.dev
      { a with results := a.results ++ resultBytes e st [], dev := d1 }
    else
      let r := writeEffect v src e.idx e.sub e.value a.dev
      { results := a.results ++ resultBytes e r.1 [], changes := a.changes ++ r.2.1, dev := r.2.2 }
  else { a with results := a.results ++ resultBytes e stValueRange [] }

/-- The entries of a message in their order. -/
def applyEntries (v : Variant) (src : Source) (sid : Nat) (es : List ReqEntry) (d : Dev) : Applied :=
  es.foldl (applyEntry v src sid) { results := [], changes := [], dev := d }

/-- Orders 3 to 5 of the changes that a message made. -/
def finishChanges (v : Variant) (cs : List (Nat × Nat)) (d : Dev) : Dev := cs.foldl (fun (d : Dev) c => finishChange v c.1 c.2 d) d

/-- A message waits: a life-cycle change is between its orders 1 and 2, or the journal is not ready, or a freeze holds the class P write or the
token commit that it carries. -/
def messageWaits (d : Dev) (m : Bytes) : Bool :=
  !odServed d || ((d.jour.comp == .frozen || !d.jour.ready) &&
    (match requestEntries m with
     | .ok es => es.any (fun e => e.op = 2 && (clsOf e.idx e.sub == .p || (e.idx = 0x7020 && e.sub = 4)))
     | .error _ => false))

end Sys2Proof.Machine
end

