-- ==== Sys2Proof/Machine/Tamjor.lean ====
section
/-!
DEFINITION. The management port's Tamjor service and its sessions (R395, R399 to R401), and the mailboxes of the host ports (R402, R403).
-/
namespace Sys2Proof.Machine

open Sys2Proof

/-- The management port runs: its MAC is on, its link is up, and no loop-back silences it (R411, R484, Table 16.8). -/
def tamjorRuns (d : Dev) : Bool :=
  d.seq.stbyUp && d.seq.mpen && decide (d.num 0x1100 2 1 = 1) && d.tam.linkUp && !d.seq.isolated.contains (codeOf .mgmt)

/-- The UDP port of Tamjor. -/
def tamjorPort (d : Dev) : Nat := d.num 0x1100 3 7006

/-- An address that the management port has (R395). -/
def hasAddr (d : Dev) : NetAddr → Bool
  | .linkLocal => true
  | .slaac _ => d.num 0x1101 3 1 = 1
  | .static6 a => a != [] && tget [] d.vals (odKey 0x1101 1) == a
  | .ipv4 a => a != 0 && d.num 0x1102 1 0 = a.toNat

/-- The address that a response leaves from: after a change of a static address the new one (R411). -/
def fromAddr (d : Dev) : NetAddr → NetAddr
  | .static6 _ => .static6 (tget [] d.vals (odKey 0x1101 1))
  | .ipv4 _ => .ipv4 (BitVec.ofNat 32 (d.num 0x1102 1 0))
  | a => a

/-- The module takes a datagram of this type: to its Tamjor port at an address of its own, of legal size and version. -/
def takes (d : Dev) (m : Bytes) (peer : Peer) (typ : Nat) : Bool :=
  tamjorRuns d && decide (peer.port = tamjorPort d) && hasAddr d peer.via && decide (16 ≤ m.length) && decide (m.length ≤ 7405) && decide ((readHeader m).ver = 1) && decide ((readHeader m).typ = typ)

/-- Datagrams accepted. -/
def countMessage (d : Dev) : Dev := d.count 0x1104 1 1

/-- Send a datagram to where its request came from, from the address and port that are now the module's. -/
def sendTo (peer : Peer) (m : Bytes) (d : Dev) : Dev := d.emit (.datagram peer.id (fromAddr d peer.via) (tamjorPort d) m)

/-! ### Sessions -/

def Tam.session (t : Tam) (sid : Nat) : Option Session := t.sessions.find? (fun s => s.sid = sid)
def Tam.opening (t : Tam) (sid : Nat) : Option Session := t.pending.find? (fun s => s.sid = sid)

def modSession (sid : Nat) (f : Session → Session) (d : Dev) : Dev :=
  { d with tam := { d.tam with sessions := d.tam.sessions.map (fun s => if s.sid = sid then f s else s) } }

def dropSession (sid : Nat) (d : Dev) : Dev :=
  { d with tam := { d.tam with sessions := d.tam.sessions.filter (fun s => s.sid ≠ sid) } }

def dropOpening (sid : Nat) (d : Dev) : Dev :=
  { d with tam := { d.tam with pending := d.tam.pending.filter (fun s => s.sid ≠ sid) } }

/-- The signature of a message has its 3,309 bytes and verifies under the session's management key. -/
def sigGood (d : Dev) (s : Session) (m : Bytes) : Bool :=
  decide ((msgTail m).length = 3309) && Config.verify (mgmtKey d s.key) (msgDigest s.nm s.nd (m.take (16 + (readHeader m).blen))) (msgTail m)

/-- A message that is discarded and counted in OD 0x1104.02. -/
def discard (d : Dev) : Dev := d.count 0x1104 2 1

/-- A message of an open session whose signature fails; the sixteenth closes the session (R400). -/
def badSignature (s : Session) (d : Dev) : Dev :=
  let d1 := discard d
  if s.bad + 1 < 16 then modSession s.sid (fun x => { x with bad := x.bad + 1 }) d1 else dropSession s.sid d1

/-- Seconds without an accepted REQUEST after which a session closes. -/
def idleLimit (d : Dev) : Nat := d.num 0x1103 1 60

/-! ### TAMJOR_REQUEST -/

/-- What a REQUEST runs: the status of the message, its result entries with their number in front, and the device. -/
def runRequest (v : Variant) (sid : Nat) (m : Bytes) (d : Dev) : BitVec 8 × Bytes × List (Nat × Nat) × Dev :=
  match requestEntries m with
  | .error st => (st, [0], [], d)
  | .ok es =>
    let a := applyEntries v .mgmt sid es d
    (stSuccess, toLe 1 es.length ++ a.results, a.changes, a.dev)

/-- A response: `res` holds the number of result entries and then the entries. -/
def responseMsg (st : BitVec 8) (sid mseq : Nat) (res : Bytes) : Bytes :=
  sendHeader 0x02 st (leNat (res.take 1)) sid mseq (res.length - 1) ++ res.drop 1

/-- A REQUEST outside a session. -/
def plainRequest (v : Variant) (m : Bytes) (peer : Peer) (d : Dev) : Dev :=
  if 1000 ≤ d.tam.plainNow then d
  else
    let h := readHeader m
    let d1 := countMessage { d with tam := { d.tam with plainNow := d.tam.plainNow + 1 } }
    if m.length ≠ 16 + h.blen then sendTo peer (responseMsg stValueRange 0 h.mseq [0]) d1
    else
      let r := runRequest v 0 m d1
      finishChanges v r.2.2.1 (sendTo peer (responseMsg r.1 0 h.mseq r.2.1) r.2.2.2)

/-- A REQUEST of an open session (R400). -/
def sessionRequest (v : Variant) (s : Session) (m : Bytes) (peer : Peer) (d : Dev) : Dev :=
  let h := readHeader m
  let answer := fun (st : BitVec 8) (res : Bytes) => signedMsg s.nm s.nd (responseMsg st s.sid h.mseq res)
  if !sigGood d s m then badSignature s d
  else
    let d1 := countMessage d
    if h.mseq = s.mseq then sendTo peer (answer stRepeat s.last) (d1.count 0x1104 3 1)
    else if h.mseq ≠ (s.mseq + 1) % 2 ^ 32 then sendTo peer (answer stAliveGap [0]) d1
    else
      let r := runRequest v s.sid m d1
      let d2 := modSession s.sid (fun x => { x with mseq := h.mseq, last := r.2.1, idle := idleLimit d1 }) r.2.2.2
      finishChanges v r.2.2.1 (sendTo peer (answer r.1 r.2.1) d2)

/-- TAMJOR_REQUEST. -/
def tamjorRequestOp (v : Variant) (m : Bytes) (peer : Peer) (d : Dev) : Dev :=
  if !takes d m peer 0x01 || messageWaits d m then d
  else if (readHeader m).sid = 0 then plainRequest v m peer d
  else match d.tam.session (readHeader m).sid with
    | some s => sessionRequest v s m peer d
    | none => discard d

def execTamjorRequest (msg : Bytes) (peer : Peer) (s : State) : Host.Outcome State Fault Refusal :=
  .next (s.on (tamjorRequestOp s.variant msg peer s.dev))

/-! ### TAMJOR_OPEN and TAMJOR_CONFIRM (Table 14.8) -/

/-- A random session ID, not 0 and not in use. -/
def freshSid (d : Dev) : Nat :=
  let r := (Config.randomSid d.free).toNat
  let used := d.tam.sessions.map (fun s => s.sid) ++ d.tam.pending.map (fun s => s.sid)
  (((List.range 9).map (fun i => (r + i) % 2 ^ 32)).find? (fun x => decide (x ≠ 0) && !used.contains x)).getD 1

/-- An OPENED that refuses: signed when there is a key to sign with. -/
def refuseOpen (st : BitVec 8) (sid : Nat) (mseq : Nat) (nm nd : Bytes) (d : Dev) : Bytes :=
  let m := sendHeader 0x13 st 0 sid mseq 0
  if d.sec.key then signedMsg nm nd m else m

/-- The body of an OPEN is as Table 14.8 order 1 says. -/
def openWell (m : Bytes) : Bool :=
  let h := readHeader m
  h.sid = 0 && h.mseq = 0 && h.nent = 0 && h.rsv = 0 && h.blen = 40 && m.length = 56 && fieldAt m 16 1 < 4 && fieldAt m 17 7 = 0

/-- The status that refuses an OPEN, if any. -/
def openStatus (d : Dev) (m : Bytes) : BitVec 8 :=
  if !openWell m then stValueRange
  else if mgmtKey d (fieldAt m 16 1) = [] ∨ d.sec.key = false then stAuthFailed
  else if d.sec.lcs < 2 then stLifecycle
  else if 4 ≤ d.tam.sessions.length + d.tam.pending.length then stUnitBusy
  else stSuccess

/-- TAMJOR_OPEN: at most 4 a second are answered. -/
def tamjorOpenOp (m : Bytes) (peer : Peer) (d : Dev) : Dev :=
  if !takes d m peer 0x10 || decide (4 ≤ d.tam.opensNow) then d
  else
    let d1 := countMessage { d with tam := { d.tam with opensNow := d.tam.opensNow + 1 } }
    let nm := (m.drop 24).take 32
    let st := openStatus d m
    if st ≠ stSuccess then sendTo peer (refuseOpen st 0 0 nm [] d1) d1
    else
      let sid := freshSid d1
      let nd := padTo 32 ((Config.randomNonce d1.free).take 32)
      let s : Session := { sid := sid, key := fieldAt m 16 1, nm := nm, nd := nd, mseq := 0, last := [0], bad := 0, idle := 0 }
      let d2 := { d1.drawn with tam := { d1.tam with pending := d1.tam.pending ++ [s] } }
      sendTo peer (signedMsg nm nd (sendHeader 0x11 stSuccess 0 sid 0 40 ++ nd ++ toLe 8 Config.linkIdentity.toNat)) d2

def execTamjorOpen (msg : Bytes) (peer : Peer) (s : State) : Host.Outcome State Fault Refusal :=
  .next (s.on (tamjorOpenOp msg peer s.dev))

/-- TAMJOR_CONFIRM: OPENED with SUCCESS opens the session, with AUTH_FAILED it ends it. -/
def tamjorConfirmOp (m : Bytes) (peer : Peer) (d : Dev) : Dev :=
  if !takes d m peer 0x12 then d
  else
    let h := readHeader m
    match d.tam.opening h.sid with
    | none => discard d
    | some s =>
      let d1 := dropOpening s.sid (countMessage d)
      if sigGood d s m && decide (h.mseq = 1) && decide (h.blen = 0) then
        let d2 := { d1 with tam := { d1.tam with sessions := d1.tam.sessions ++ [{ s with mseq := 1, idle := idleLimit d1 }] } }
        sendTo peer (signedMsg s.nm s.nd (sendHeader 0x13 stSuccess 0 s.sid 1 0)) d2
      else sendTo peer (refuseOpen stAuthFailed s.sid 1 s.nm s.nd d1) d1

def execTamjorConfirm (msg : Bytes) (peer : Peer) (s : State) : Host.Outcome State Fault Refusal :=
  .next (s.on (tamjorConfirmOp msg peer s.dev))

/-- CONFIRM_TIMEOUT: the sid is forgotten after 5 s. -/
def confirmTimeoutOp (sid elapsedS : Nat) (d : Dev) : Dev := if elapsedS < 5 then d else dropOpening sid d

def execConfirmTimeout (sid elapsedS : Nat) (s : State) : Host.Outcome State Fault Refusal := .next (s.on (confirmTimeoutOp sid elapsedS s.dev))

/-- TAMJOR_CLOSE: a signed CLOSE closes its session. -/
def tamjorCloseOp (m : Bytes) (peer : Peer) (d : Dev) : Dev :=
  if !takes d m peer 0x14 then d
  else match d.tam.session (readHeader m).sid with
    | none => discard d
    | some s => if sigGood d s m then dropSession s.sid (countMessage d) else badSignature s d

def execTamjorClose (msg : Bytes) (peer : Peer) (s : State) : Host.Outcome State Fault Refusal := .next (s.on (tamjorCloseOp msg peer s.dev))

/-- SESSION_IDLE_TIMEOUT. -/
def sessionIdleTimeoutOp (sid elapsedS : Nat) (d : Dev) : Dev :=
  match d.tam.session sid with
  | some s => if s.idle ≤ elapsedS then dropSession sid d else d
  | none => d

def execSessionIdleTimeout (sid elapsedS : Nat) (s : State) : Host.Outcome State Fault Refusal :=
  .next (s.on (sessionIdleTimeoutOp sid elapsedS s.dev))

/-! ### MAILBOX_GO (R402, R403) -/

/-- The message in a port's host-to-module mailbox. -/
def mailMessage (d : Dev) (p : Nat) : Bytes := mread (d.port p).mailIn 0 (d.port p).hlen.toNat

/-- The message status of a mailbox message that is no REQUEST to run, or whose length is wrong. -/
def mailStatus (m : Bytes) : BitVec 8 :=
  let h := readHeader m
  if m.length < 16 ∨ 4096 < m.length then stValueRange
  else if h.typ ≠ 0x01 ∨ h.sid ≠ 0 then stOdAccess
  else if m.length ≠ 16 + h.blen then stValueRange
  else stSuccess

/-- The response stands in the module-to-host mailbox. -/
def mailRespond (p : Nat) (m : Bytes) (d : Dev) : Dev :=
  d.modPort p (fun x => { x with go := false, done := true, mailOut := mwrite x.mailOut 0 m, rlen := BitVec.ofNat 13 m.length })

/-- MAILBOX_GO: the host writes go, which has no effect while done reads 1 (R402); a message that waits leaves it 1. The message is taken and runs with the rights of the host port. One of another version is discarded with no response. -/
def mailboxGoOp (v : Variant) (p : Nat) (d : Dev) : Dev :=
  let m := mailMessage d p
  let h := readHeader m
  if !portPresent v p || !portUp v d p || (!(d.port p).go && (d.port p).done) then d
  else if messageWaits d m then d.modPort p (fun x => { x with go := true })
  else if 16 ≤ m.length ∧ h.ver ≠ 1 then d.modPort p (fun x => { x with go := false })
  else if mailStatus m ≠ stSuccess then mailRespond p (responseMsg (mailStatus m) h.sid h.mseq [0]) d
  else match requestEntries m with
    | .error st => mailRespond p (responseMsg st 0 h.mseq [0]) d
    | .ok es =>
      let a := applyEntries v (.port p) 0 es d
      finishChanges v a.changes (mailRespond p (responseMsg stSuccess 0 h.mseq (toLe 1 es.length ++ a.results)) a.dev)

def execMailboxGo (port : Nat) (s : State) : Host.Outcome State Fault Refusal := .next (s.on (mailboxGoOp s.variant port s.dev))

end Sys2Proof.Machine
end

