-- ==== Sys2Proof/Machine/Dispatch.lean ====
section
/-!
DEFINITION. The dispatch: one arm for each command, each a direct call of its meaning.
-/
namespace Sys2Proof.Machine

open Sys2Proof

def exec (i : Instr) (s : State) : Host.Outcome State Fault Refusal :=
  match i with
  | .sqDoorbell port q tail => Sys2Proof.Machine.execSqDoorbell port q tail s
  | .cqDoorbell port q head => Sys2Proof.Machine.execCqDoorbell port q head s
  | .queueEnable port q => Sys2Proof.Machine.execQueueEnable port q s
  | .queueDisable port q => Sys2Proof.Machine.execQueueDisable port q s
  | .queueDisableDone port q => Sys2Proof.Machine.execQueueDisableDone port q s
  | .bar0RegisterWrite port off size value => Sys2Proof.Machine.execBar0RegisterWrite port off size value s
  | .commandFetch port entry => Sys2Proof.Machine.execCommandFetch port entry s
  | .completionWrite port q => Sys2Proof.Machine.execCompletionWrite port q s
  | .d3hotEntry port => Sys2Proof.Machine.execD3hotEntry port s
  | .d0Return port => Sys2Proof.Machine.execD0Return port s
  | .identify cmd => Sys2Proof.Machine.execIdentify cmd s
  | .odRead cmd => Sys2Proof.Machine.execOdRead cmd s
  | .odWrite cmd value => Sys2Proof.Machine.execOdWrite cmd value s
  | .alloc cmd => Sys2Proof.Machine.execAlloc cmd s
  | .free cmd => Sys2Proof.Machine.execFree cmd s
  | .descCreate cmd image => Sys2Proof.Machine.execDescCreate cmd image s
  | .descDestroy cmd => Sys2Proof.Machine.execDescDestroy cmd s
  | .loadWeights cmd placement outliers => Sys2Proof.Machine.execLoadWeights cmd placement outliers s
  | .loadWeightsStart cmd => Sys2Proof.Machine.execLoadWeightsStart cmd s
  | .loadWeightsComplete cmd image verify => Sys2Proof.Machine.execLoadWeightsComplete cmd image verify s
  | .swapBank cmd => Sys2Proof.Machine.execSwapBank cmd s
  | .swapBankEffect group => Sys2Proof.Machine.execSwapBankEffect group s
  | .programLoad cmd image => Sys2Proof.Machine.execProgramLoad cmd image s
  | .runJob cmd transfers => Sys2Proof.Machine.execRunJob cmd transfers s
  | .jobStart job => Sys2Proof.Machine.execJobStart job s
  | .copyInComplete job data => Sys2Proof.Machine.execCopyInComplete job data s
  | .transferCopyOut job fault => Sys2Proof.Machine.execTransferCopyOut job fault s
  | .jobComplete job => Sys2Proof.Machine.execJobComplete job s
  | .fence cmd => Sys2Proof.Machine.execFence cmd s
  | .fenceComplete cmd => Sys2Proof.Machine.execFenceComplete cmd s
  | .abort cmd => Sys2Proof.Machine.execAbort cmd s
  | .phaseHint cmd => Sys2Proof.Machine.execPhaseHint cmd s
  | .hintRampStart hub phase => Sys2Proof.Machine.execHintRampStart hub phase s
  | .hintHoldExpiry hub phase => Sys2Proof.Machine.execHintHoldExpiry hub phase s
  | .calibrate cmd => Sys2Proof.Machine.execCalibrate cmd s
  | .selftest cmd => Sys2Proof.Machine.execSelftest cmd s
  | .selftestDone target outcome => Sys2Proof.Machine.execSelftestDone target outcome s
  | .resetUnit cmd => Sys2Proof.Machine.execResetUnit cmd s
  | .ceConfigWrite cmd => Sys2Proof.Machine.execCeConfigWrite cmd s
  | .ceReadRunning cmd => Sys2Proof.Machine.execCeReadRunning cmd s
  | .ceWriteRunning cmd => Sys2Proof.Machine.execCeWriteRunning cmd s
  | .instructionStart issuer => Sys2Proof.Machine.execInstructionStart issuer s
  | .counterReadyPoll issuer => Sys2Proof.Machine.execCounterReadyPoll issuer s
  | .counterWaitRelease issuer waited => Sys2Proof.Machine.execCounterWaitRelease issuer waited s
  | .workClaim issuer => Sys2Proof.Machine.execWorkClaim issuer s
  | .tileIssue issuer engine => Sys2Proof.Machine.execTileIssue issuer engine s
  | .tileCommit tile => Sys2Proof.Machine.execTileCommit tile s
  | .sweepClaim issuer => Sys2Proof.Machine.execSweepClaim issuer s
  | .issuerRejoin issuer => Sys2Proof.Machine.execIssuerRejoin issuer s
  | .homeSweepByC0 job ctr => Sys2Proof.Machine.execHomeSweepByC0 job ctr s
  | .blockPairing at_ tile blk => Sys2Proof.Machine.execBlockPairing at_ tile blk s
  | .scaleEntryArrival at_ tile entry => Sys2Proof.Machine.execScaleEntryArrival at_ tile entry s
  | .blockAdmit mac tile vec outlierVec => Sys2Proof.Machine.execBlockAdmit mac tile vec outlierVec s
  | .macroPlaneStep mac errs => Sys2Proof.Machine.execMacroPlaneStep mac errs s
  | .reResolutionStep mac => Sys2Proof.Machine.execReResolutionStep mac s
  | .recalTrigger mac => Sys2Proof.Machine.execRecalTrigger mac s
  | .outlierTerm mac => Sys2Proof.Machine.execOutlierTerm mac s
  | .outputStagePartial mac => Sys2Proof.Machine.execOutputStagePartial mac s
  | .finalAdderReduce tile colBlock vec order => Sys2Proof.Machine.execFinalAdderReduce tile colBlock vec order s
  | .auditServe tile neuron => Sys2Proof.Machine.execAuditServe tile neuron s
  | .formingIssueStart engine unit tile => Sys2Proof.Machine.execFormingIssueStart engine unit tile s
  | .quantiseElement quant tile part vec pos => Sys2Proof.Machine.execQuantiseElement quant tile part vec pos s
  | .formingIssueEnd engine unit tile => Sys2Proof.Machine.execFormingIssueEnd engine unit tile s
  | .conversionDmaBlock hub fmt toHost elems exp place => Sys2Proof.Machine.execConversionDmaBlock hub fmt toHost elems exp place s
  | .operandFetch tile opnd coord dest => Sys2Proof.Machine.execOperandFetch tile opnd coord dest s
  | .dispatchInstruction engine tile => Sys2Proof.Machine.execDispatchInstruction engine tile s
  | .windowFill engine tile => Sys2Proof.Machine.execWindowFill engine tile s
  | .itemDeal engine => Sys2Proof.Machine.execItemDeal engine s
  | .itemStart engine lane => Sys2Proof.Machine.execItemStart engine lane s
  | .workSteal engine lane => Sys2Proof.Machine.execWorkSteal engine lane s
  | .laneStep engine lane work => Sys2Proof.Machine.execLaneStep engine lane work s
  | .contextFlush engine lane tile => Sys2Proof.Machine.execContextFlush engine lane tile s
  | .accUpdate engine bank upd => Sys2Proof.Machine.execAccUpdate engine bank upd s
  | .softmaxMerge engine => Sys2Proof.Machine.execSoftmaxMerge engine s
  | .topkMerge engine => Sys2Proof.Machine.execTopkMerge engine s
  | .streamTileComplete engine tile => Sys2Proof.Machine.execStreamTileComplete engine tile s
  | .haloAppend tile dir => Sys2Proof.Machine.execHaloAppend tile dir s
  | .haloRead tile dir => Sys2Proof.Machine.execHaloRead tile dir s
  | .haloTimeout tile waited => Sys2Proof.Machine.execHaloTimeout tile waited s
  | .frameSend hop frame => Sys2Proof.Machine.execFrameSend hop frame s
  | .frameReceive hop frame flitErrors => Sys2Proof.Machine.execFrameReceive hop frame flitErrors s
  | .creditReturn hop cls => Sys2Proof.Machine.execCreditReturn hop cls s
  | .frameReplay hop => Sys2Proof.Machine.execFrameReplay hop s
  | .multicastForward hop cls outputs => Sys2Proof.Machine.execMulticastForward hop cls outputs s
  | .fabricHopFail hop => Sys2Proof.Machine.execFabricHopFail hop s
  | .fabricStall hop waited => Sys2Proof.Machine.execFabricStall hop waited s
  | .hopEndReset hop receiver => Sys2Proof.Machine.execHopEndReset hop receiver s
  | .writeAccept tile index => Sys2Proof.Machine.execWriteAccept tile index s
  | .readRequest unit room => Sys2Proof.Machine.execReadRequest unit room s
  | .cacheAccess slice line off len op symbols tile => Sys2Proof.Machine.execCacheAccess slice line off len op symbols tile s
  | .lineFill hub k line symbols => Sys2Proof.Machine.execLineFill hub k line symbols s
  | .patrolScrub slice line symbols => Sys2Proof.Machine.execPatrolScrub slice line symbols s
  | .granuleRemap stack granule => Sys2Proof.Machine.execGranuleRemap stack granule s
  | .bankAccess issuer req => Sys2Proof.Machine.execBankAccess issuer req s
  | .bankAtomic issuer => Sys2Proof.Machine.execBankAtomic issuer s
  | .spadStarve issuer index waited => Sys2Proof.Machine.execSpadStarve issuer index waited s
  | .scratchpadWakeClear issuer => Sys2Proof.Machine.execScratchpadWakeClear issuer s
  | .marchPreservingWord issuer word descending bad restored => Sys2Proof.Machine.execMarchPreservingWord issuer word descending bad restored s
  | .linkDataFrameTx link req => Sys2Proof.Machine.execLinkDataFrameTx link req s
  | .linkDataFrameRx link frame => Sys2Proof.Machine.execLinkDataFrameRx link frame s
  | .linkControlFrameTx link idleUs => Sys2Proof.Machine.execLinkControlFrameTx link idleUs s
  | .linkControlFrameRx link frame => Sys2Proof.Machine.execLinkControlFrameRx link frame s
  | .linkReplayTimeout link elapsed => Sys2Proof.Machine.execLinkReplayTimeout link elapsed s
  | .linkRetrain link => Sys2Proof.Machine.execLinkRetrain link s
  | .linkAliveTimeout link elapsed => Sys2Proof.Machine.execLinkAliveTimeout link elapsed s
  | .linkResyncTimeout link elapsed => Sys2Proof.Machine.execLinkResyncTimeout link elapsed s
  | .linkTrainingEnd link trained locked => Sys2Proof.Machine.execLinkTrainingEnd link trained locked s
  | .linkCapabilityTx link => Sys2Proof.Machine.execLinkCapabilityTx link s
  | .linkCapabilityRx link rec loopNs => Sys2Proof.Machine.execLinkCapabilityRx link rec loopNs s
  | .linkExchangeTimeout link elapsed => Sys2Proof.Machine.execLinkExchangeTimeout link elapsed s
  | .linkLaneLoss link lane => Sys2Proof.Machine.execLinkLaneLoss link lane s
  | .linkWiden link req => Sys2Proof.Machine.execLinkWiden link req s
  | .linkEnableWrite link req => Sys2Proof.Machine.execLinkEnableWrite link req s
  | .linkDownRetry link => Sys2Proof.Machine.execLinkDownRetry link s
  | .linkDown link => Sys2Proof.Machine.execLinkDown link s
  | .bundleRebuild hub group peer => Sys2Proof.Machine.execBundleRebuild hub group peer s
  | .bundleWaitExpiry hub group peer elapsed => Sys2Proof.Machine.execBundleWaitExpiry hub group peer elapsed s
  | .arbiterInterval inputW governedW acts inputUj domUj shares => Sys2Proof.Machine.execArbiterInterval inputW governedW acts inputUj domUj shares s
  | .regionGovernorTick hub dPrev acts => Sys2Proof.Machine.execRegionGovernorTick hub dPrev acts s
  | .phasePointChoice hub acts samples => Sys2Proof.Machine.execPhasePointChoice hub acts samples s
  | .supplyMoveDone domain => Sys2Proof.Machine.execSupplyMoveDone domain s
  | .pwrDroop domain mv => Sys2Proof.Machine.execPwrDroop domain mv s
  | .droopHoldExpiry hub => Sys2Proof.Machine.execDroopHoldExpiry hub s
  | .supplyCollapseStop domain mv => Sys2Proof.Machine.execSupplyCollapseStop domain mv s
  | .supplyRecover domain mv => Sys2Proof.Machine.execSupplyRecover domain mv s
  | .thermalSense domain celsius => Sys2Proof.Machine.execThermalSense domain celsius s
  | .thermThrottle domain => Sys2Proof.Machine.execThermThrottle domain s
  | .thermalCeilingRise domain => Sys2Proof.Machine.execThermalCeilingRise domain s
  | .thermLimit domain => Sys2Proof.Machine.execThermLimit domain s
  | .powerRequest req => Sys2Proof.Machine.execPowerRequest req s
  | .domainDrainDone domain => Sys2Proof.Machine.execDomainDrainDone domain s
  | .powerTransitionDone domain => Sys2Proof.Machine.execPowerTransitionDone domain s
  | .wedgeWakeRestore wedge images verify => Sys2Proof.Machine.execWedgeWakeRestore wedge images verify s
  | .wakeOnDemand domain issuer => Sys2Proof.Machine.execWakeOnDemand domain issuer s
  | .ceFrameFeed engine kind index seq loc offset bytes => Sys2Proof.Machine.execCeFrameFeed engine kind index seq loc offset bytes s
  | .checkStep mac colErrs errs storeUe => Sys2Proof.Machine.execCheckStep mac colErrs errs storeUe s
  | .checkAgeExpiry mac ageMs => Sys2Proof.Machine.execCheckAgeExpiry mac ageMs s
  | .idleCheckInterval mac elapsedUs => Sys2Proof.Machine.execIdleCheckInterval mac elapsedUs s
  | .macroReload mac image verify => Sys2Proof.Machine.execMacroReload mac image verify s
  | .macroRetire mac images verify => Sys2Proof.Machine.execMacroRetire mac images verify s
  | .scrubPass mac flips => Sys2Proof.Machine.execScrubPass mac flips s
  | .calibrationRequest mac sinceS driftC => Sys2Proof.Machine.execCalibrationRequest mac sinceS driftC s
  | .calibrationStep mac measured => Sys2Proof.Machine.execCalibrationStep mac measured s
  | .calibrationComplete mac => Sys2Proof.Machine.execCalibrationComplete mac s
  | .calibrationWaitExpiry mac waitedMs => Sys2Proof.Machine.execCalibrationWaitExpiry mac waitedMs s
  | .corrEcc wedge copy index => Sys2Proof.Machine.execCorrEcc wedge copy index s
  | .eventPost hub => Sys2Proof.Machine.execEventPost hub s
  | .eventRingRead src cmd room => Sys2Proof.Machine.execEventRingRead src cmd room s
  | .limitIntervalRollover unit periodUs => Sys2Proof.Machine.execLimitIntervalRollover unit periodUs s
  | .wallTimeWrite req => Sys2Proof.Machine.execWallTimeWrite req s
  | .baseBandWrite req => Sys2Proof.Machine.execBaseBandWrite req s
  | .journalRecordProgram ok => Sys2Proof.Machine.execJournalRecordProgram ok s
  | .journalTokenRefill => Sys2Proof.Machine.execJournalTokenRefill s
  | .compactionStart => Sys2Proof.Machine.execCompactionStart s
  | .compactionCommit ok => Sys2Proof.Machine.execCompactionCommit ok s
  | .regionEraseDone => Sys2Proof.Machine.execRegionEraseDone s
  | .tamjorRequest msg peer => Sys2Proof.Machine.execTamjorRequest msg peer s
  | .tamjorOpen msg peer => Sys2Proof.Machine.execTamjorOpen msg peer s
  | .tamjorConfirm msg peer => Sys2Proof.Machine.execTamjorConfirm msg peer s
  | .confirmTimeout sid elapsedS => Sys2Proof.Machine.execConfirmTimeout sid elapsedS s
  | .tamjorClose msg peer => Sys2Proof.Machine.execTamjorClose msg peer s
  | .sessionIdleTimeout sid elapsedS => Sys2Proof.Machine.execSessionIdleTimeout sid elapsedS s
  | .mailboxGo port => Sys2Proof.Machine.execMailboxGo port s
  | .tokenCommit req => Sys2Proof.Machine.execTokenCommit req s
  | .attestationNonce req => Sys2Proof.Machine.execAttestationNonce req s
  | .retryBoot req => Sys2Proof.Machine.execRetryBoot req s
  | .tamper code filterNs => Sys2Proof.Machine.execTamper code filterNs s
  | .tamperConditionClear code => Sys2Proof.Machine.execTamperConditionClear code s
  | .auxPowerUp => Sys2Proof.Machine.execAuxPowerUp s
  | .standbyStart mpen matched badWords => Sys2Proof.Machine.execStandbyStart mpen matched badWords s
  | .standbyResetAssert => Sys2Proof.Machine.execStandbyResetAssert s
  | .auxBrownout fallUs => Sys2Proof.Machine.execAuxBrownout fallUs s
  | .mainEnRise => Sys2Proof.Machine.execMainEnRise s
  | .railsSettled clkm => Sys2Proof.Machine.execRailsSettled clkm s
  | .powerOnSelftest failed badWords => Sys2Proof.Machine.execPowerOnSelftest failed badWords s
  | .mainEnFall => Sys2Proof.Machine.execMainEnFall s
  | .inputFault overVolt durationUs => Sys2Proof.Machine.execInputFault overVolt durationUs s
  | .moduleWarmReset lowUs => Sys2Proof.Machine.execModuleWarmReset lowUs s
  | .moduleWarmResetRelease => Sys2Proof.Machine.execModuleWarmResetRelease s
  | .portReset port => Sys2Proof.Machine.execPortReset port s
  | .perstRelease port => Sys2Proof.Machine.execPerstRelease port s
  | .refclkStop hub => Sys2Proof.Machine.execRefclkStop hub s
  | .hubControlReset hub => Sys2Proof.Machine.execHubControlReset hub s
  | .markedEntryRebuild mac index => Sys2Proof.Machine.execMarkedEntryRebuild mac index s
  | .checkStoreRecompute mac bankB image => Sys2Proof.Machine.execCheckStoreRecompute mac bankB image s
  | .refclkRestart hub => Sys2Proof.Machine.execRefclkRestart hub s
  | .msixEnableChange port enable mask => Sys2Proof.Machine.execMsixEnableChange port enable mask s
  | .resetDeferralExpiry unit elapsedUs => Sys2Proof.Machine.execResetDeferralExpiry unit elapsedUs s
  | .managementLinkChange up => Sys2Proof.Machine.execManagementLinkChange up s

end Sys2Proof.Machine
end

