-- ==== Sys2Proof/Safety.lean ====
section
/-!
DEFINITION. What claims are stated in: a step that answers a next state, the states that steps reach, and the terms in which
a claim says what one command has changed: a counter, an event, a completion, one queue.
-/
namespace Sys2Proof

open Sys2Proof.Machine

/-- What a command accesses exists: a line of its slice, a word of an issuer's memory (R239, R291, R300). -/
def addressOk (v : Variant) : Instr → Bool
  | .cacheAccess slice line _ _ _ _ _ => lineOnSlice slice line
  | .lineFill hub k line _ => lineOnSlice (sliceOf hub k) line && decide (k < 4)
  | .patrolScrub slice line _ => lineOnSlice slice line
  | .bankAccess issuer req => issuerPresent v issuer && req.elim true (fun r => decide (r.addr < bankBytes issuer))
  | .marchPreservingWord issuer word _ _ _ => decide (word < bankBytes issuer / 32)
  | _ => true

/-- `t` is the next state of `s`. -/
def Steps (s t : State) : Prop := step s = .next t

/-- The states that some number of steps reaches from `s`. -/
inductive Reaches : State → State → Prop where
  | refl (s : State) : Reaches s s
  | tail {s t u : State} (h : Reaches s t) (k : Steps t u) : Reaches s u

/-- The step stops on neither a fault nor a refusal. -/
def RunsOn (s : State) : Prop := ∃ t, Steps s t

/-- What a counter of the dictionary holds. -/
def counterOf (d : Dev) (idx sub : Nat) : Nat := tget 0 d.ctr (odKey idx sub)

/-- From `d` to `e` one counter of the dictionary has grown by `n`, and every other counter holds. -/
def Counted (d e : Dev) (idx sub n : Nat) : Prop :=
  ∀ k, tget 0 e.ctr k = tget 0 d.ctr k + if k = odKey idx sub then n else 0

/-- From `d` to `e` no queue pair but (p, q) has changed, and nothing else of any port. -/
def OnlyQueue (d e : Dev) (p q : Nat) : Prop :=
  (∀ p', e.port p' = { d.port p' with queues := (e.port p').queues }) ∧
    ∀ p' q', ¬(p' = p ∧ q' = q) → e.queue p' q' = d.queue p' q'

/-- From `d` to `e` no port but `p` has changed. -/
def OnlyPort (d e : Dev) (p : Nat) : Prop := ∀ p', p' ≠ p → e.port p' = d.port p'

/-- The completion of a command. -/
def compFor (c : Cmd) (status : BitVec 8) (detail : Nat) (result : Nat) : Comp :=
  { port := c.port, q := c.q, cid := c.cid, status := status, detail := BitVec.ofNat 8 detail, smiss := false,
    result := BitVec.ofNat 64 result }

/-- From `d` to `e` the command `c` has ended with this status, detail and result: it has left the commands in flight, and
its completion waits behind those that waited. -/
def Ended (d e : Dev) (c : Cmd) (status : BitVec 8) (detail result : Nat) : Prop :=
  e.cmds = d.cmds.filter (fun x => x.id != c.id) ∧ e.comps = d.comps ++ [compFor c status detail result]

/-- From `d` to `e` one event has been posted: its hub has numbered it, and it is on its way to the ring. -/
def Posted (d e : Dev) (code : BitVec 16) (hub : Nat) (unit : BitVec 32) (vals : List (Nat × Nat)) : Prop :=
  e.log = { d.log with
    way := d.log.way ++ [{ code := code, hub := hub, hseq := BitVec.ofNat 32 (tget 0 d.log.hseq hub), unit := unit,
                           time := tget 0 d.hubTimer hub, detail := detailOf vals }],
    hseq := tput 0 d.log.hseq hub (tget 0 d.log.hseq hub + 1) }

/-- From `d` to `e` the tile `x` has failed: it is gone, what the units held of it is gone, and its job, unless all its work is done, makes no
further claim and holds its first failure. -/
def TileFailed (d e : Dev) (x : Tile) (status : BitVec 8) : Prop :=
  e = { d with tiles := e.tiles, jobs := e.jobs, macros := e.macros, wedges := e.wedges, engines := e.engines, quants := e.quants,
               pairs := e.pairs, issues := e.issues, coal := e.coal, remote := e.remote, outVecs := e.outVecs, spans := e.spans,
               mem := { d.mem with waiting := e.mem.waiting },
               ctr := e.ctr, log := e.log } ∧
  e.tiles = d.tiles.filter (fun y => decide (y.id ≠ x.id)) ∧
  e.jobs = (if (d.jobOf x.job).elim false (workDone d) then d.jobs
    else d.jobs.map (fun j => if j.id = x.job then { j with halted := true, fail := some (j.fail.getD
      { status := status, detail := 0, issuer := x.issuer, index := x.pc }) } else j)) ∧
  ∀ m b, (e.mac m).blk = some b → b.tile ≠ x.id

/-- From `d` to `e` a pairing side has found tags that do not match, FFH for a stream that has ended, and its tile has failed. -/
def Misaligned (d e : Dev) (key : Nat) (x : Tile) (dtag stag : Nat) : Prop :=
  TileFailed d e x stStreamAlign ∧ Counted d e 0x2044 (pairSs key) 1 ∧
    Posted d e evStreamAlign (pairHub key) (pairUnit key) [(1, x.inst.phase), (1, dtag), (1, stag)]

/-- From `d` to `e` a pairing side alone has changed, and holds `p`. -/
def Paired (d e : Dev) (key : Nat) (p : Pairing) : Prop :=
  tget {} e.pairs key = p ∧ ∀ k, k ≠ key → tget {} e.pairs k = tget {} d.pairs k

/-- From `d` to `e` a block and its exponent have been joined at a pairing side left as `p`: they wait for the macro's input buffer,
or their elements have entered the lane. -/
def Joined (d e : Dev) (at_ : PairIn) (x : Tile) (p : Pairing) (b : DataBlock) (exp : BitVec 8) : Prop :=
  match at_ with
  | .mac m => e = { d with pairs := e.pairs, remote := e.remote } ∧ Paired d e m { p with paired := p.paired ++ [(b, exp)] }
  | .lane g n second => e = { d with pairs := e.pairs, engines := e.engines, remote := e.remote } ∧ Paired d e (pairKey at_) p ∧
      e.lane g n = enterLane x second (laneElems second b exp) (d.lane g n) ∧
      ∀ g' n', ¬(g' = g ∧ n' = n) → e.lane g' n' = d.lane g' n'

/-- No access that waits for the fill of its line is a tile's, so that serving those accesses fails no tile. -/
def NoTileWaits (d : Dev) : Prop := ∀ w ∈ d.mem.waiting, w.tile = none

/-- From `d` to `e` a job is to end with this status, or with the failure that it held before; it makes no further claim. -/
def JobFails (d e : Dev) (job : Nat) (status : BitVec 8) : Prop :=
  ∀ y ∈ e.jobs, y.id = job → y.halted = true ∧ ∃ f, y.fail = some f ∧ (f.status = status ∨ ∃ z ∈ d.jobs, z.id = job ∧ z.fail = some f)

/-- No allocation is a remote window, so that no read of a tile waits for another device. -/
def NoWindow (d : Dev) : Prop := ∀ al ∈ d.allocs, al.kind ≠ .window

/-- From `d` to `e` a step waits for the response of a remote window: its requests alone have been sent. -/
def Waits (d e : Dev) : Prop := ¬ NoWindow d ∧ e = { d with remote := e.remote, rooms := e.rooms, out := e.out }

/-- The slot of control core C0 that sweeps counter `ctr` of a job, with no position. -/
def homeSlot (ctr : Nat) : IssState :=
  { issuer := 0x8000 + ctr, pc := 0, stage := .finished, run := [], swept := true, lost := false }

/-- A device on which no read waits, as a step that reads begins. -/
def fresh (d : Dev) : Dev := { d with waits := false, gone := none }

/-- The block that `b` names comes to a pairing side for a tile as `blk`, and the fetch leaves `d1`: from the forming sides of a fused pair's
first product, or by the address generator, to a facet's macros once. -/
def BlockComes (v : Variant) (d : Dev) (at_ : PairIn) (x : Tile) (b : BlockAt) (blk : DataBlock) (d1 : Dev) : Prop :=
  takesBlock d x at_ b = true ∧ inputFull d at_ = false ∧
  ((b.product = 2 ∧ midBlock d x b.k b.c1 = some blk ∧ d1 = d) ∨
   (b.product ≠ 2 ∧ blockHere v d x (pairOpnd at_) b.k b.c1 = true ∧
     sideBlock v x at_ b (fresh d) = (some blk, d1) ∧ d1.waits = false))

/-- The scale entry of the block that `b` names comes to a pairing side for a tile as `e`. -/
def ScaleComes (v : Variant) (d : Dev) (at_ : PairIn) (x : Tile) (b : BlockAt) (e : ScaleEntry) (d1 : Dev) : Prop :=
  takesBlock d x at_ b = true ∧
  ((b.product = 2 ∧ midScale d x b.k b.c1 = some e ∧ d1 = d) ∨
   (b.product ≠ 2 ∧ sideScale v x at_ b (fresh d) = (some e, d1) ∧ d1.waits = false))

/-- The outlier side of a block of a product comes with it: none, of a fused pair's second product from its first, or of vector `ovec` of the
outlier tensors, whose fetch leaves `d1` and the tile in flight. -/
def SideComes (v : Variant) (d : Dev) (x : Tile) (product : Nat) (mat : Matrix) (rb ovec : Nat) (side : OutlierSide) (d1 : Dev) : Prop :=
  (streamsOutliers x product mat = false ∧ side = { rows := [], exp := 0, tag := 0 } ∧ d1 = d) ∨
  (streamsOutliers x product mat = true ∧ product = 2 ∧ midOutliers x mat rb ovec = some side ∧ d1 = d) ∨
  (streamsOutliers x product mat = true ∧ product ≠ 2 ∧
    (let r := fetchOutliers v x mat rb ovec (fresh d)
     r.1.2 = false ∧ r.2.waits = false ∧ r.2.tileOf x.id = some x ∧ side = r.1.1 ∧ d1 = r.2))

/-- In `e` a tile has met poison: it is gone, and its job is to fail, unless all its work is done. -/
def Poisoned (e : Dev) (x : Tile) : Prop :=
  (∀ y ∈ e.tiles, y.id ≠ x.id) ∧ ∀ j, e.jobOf x.job = some j → workDone e j = true ∨ j.halted = true ∧ j.fail.isSome = true

/-- From `d` to `e` a lane holds back an update from a full queue: it is stalled, which is counted once for that update. -/
def Stalled (d e : Dev) (g n idx : Nat) : Prop :=
  if (d.lane g n).stalled then e = d
  else Counted d e idx (ssEngine g) 1 ∧ e.lane g n = { d.lane g n with stalled := true } ∧ ∀ k, k ≠ n → e.lane g k = d.lane g k

/-- From `d` to `e` no macro but `m` has changed. -/
def OnlyMacro (d e : Dev) (m : Nat) : Prop := ∀ m', m' ≠ m → e.mac m' = d.mac m'

/-- From `d` to `e` a domain has paid for `n` steps of an energy at OP4, its macros' steps have drawn `pj` at OP4 from its supply (Tables 2.8
and 5.9), and no other domain has changed. -/
def Paid (d e : Dev) (k : Nat) (energy : Rat) (n : Nat) (pj : Rat) : Prop :=
  e.dom k = { d.dom k with credit := (d.dom k).credit - stepCost d k energy * (n : Rat),
                           spent := (d.dom k).spent + pj * opFactor (d.dom k).op } ∧
    (∀ k', k' ≠ k → e.dom k' = d.dom k') ∧ e.pow = { d.pow with doms := e.pow.doms }

/-- A write of an entry whose write is a step of its own passes its checks and may take effect. -/
def ReqTaken (v : Variant) (d : Dev) (r : OdReq) (idx : Nat) : Prop :=
  reqReady r idx d = true ∧ odWriteEarly v d r.src r.sid idx r.sub r.value.length (odNames idx r.value) = stSuccess ∧ reqShort r d = false ∧
    odWriteChecks v d r.src r.sid idx r.sub r.value = stSuccess

/-- From `d` to `e` the host command that made a request has ended with this status; a request without one ends nothing. -/
def ReqEnded (d e : Dev) (r : OdReq) (status : BitVec 8) : Prop :=
  match r.cmd with
  | none => e.cmds = d.cmds ∧ e.comps = d.comps
  | some id => ∀ c, d.cmdOf id = some c → Ended d e c status 0 0

/-- From `d` to `e` a class P write of a host command has been taken: it has ended at once when the entry holds the value, is throttled
without a token, and else waits for its record, which has drawn a token. -/
def OfferedP (d e : Dev) (id : Nat) (c : Cmd) (idx sub : Nat) (b : Bytes) : Prop :=
  (d.heldP idx sub = b → Ended d e c stSuccess 0 0 ∧ e.jour = d.jour) ∧
  (d.heldP idx sub ≠ b → d.jour.tokens = 0 → Ended d e c stThrottled 0 0 ∧ Counted d e 0x1400 6 1 ∧ e.jour = d.jour) ∧
  (d.heldP idx sub ≠ b → d.jour.tokens ≠ 0 → e.comps = d.comps ∧ e.vals = d.vals ∧ e.jour = { d.jour with
    tokens := d.jour.tokens - 1,
    waiting := d.jour.waiting ++ [{ vals := [(odKey idx sub, b)], waiter := .cmd id, tries := 0, paid := true }] })

/-- What every step keeps: each byte memory stands in its canonical form; a command in flight has an id of its own, below the next
one to be given; a port has at most 256 commands between fetch and completion (R347); the event ring holds at most 512 records
(R461); the class P writes have at most 64 tokens (R407). -/
structure Machine.Dev.Sound (d : Machine.Dev) : Prop where
  stack : memWf d.mem.stack = true
  stby : memWf d.mem.stby = true
  spad : memWf d.spad = true
  msix : ∀ p, memWf (d.port p).msixTable = true
  mailIn : ∀ p, memWf (d.port p).mailIn = true
  mailOut : ∀ p, memWf (d.port p).mailOut = true
  ids : (d.cmds.map Cmd.id).Nodup
  fresh : ∀ c ∈ d.cmds, c.id < d.nextCmd
  flight : ∀ p, inFlight d p ≤ 256
  ring : d.log.ring.length ≤ 512
  tokens : d.jour.tokens ≤ 64

end Sys2Proof
end

