-- ==== Sys2Proof/Certificates/Slice0/Obligations.lean ====
section
/-!
DEFINITION. The statements for the provers: what each command of the block does when it runs, what it leaves unchanged, and
what every step keeps.
-/

open Sys2Proof Sys2Proof.Machine

/-! ### Steps and the host interface (ch. 13) -/

/-- A step takes the command at the front of the queue and runs it on the state with the queue's rest. On an empty queue the block idles, and only the
interval timers move: each hub's that runs and the standby controller's while it runs, by a microsecond or not at all, each on its own (R18; the
model's choice, notes/assumptions/4.md). -/
def Obligations.StepRunsFrontCommand : Prop :=
  (∀ (s : State) (c : Instr) (rest : List Instr), s.pending = c :: rest → step s = exec c { s with pending := rest }) ∧
  (∀ s : State, s.pending = [] → ∃ t, step s = .next t ∧ t.pending = [] ∧ t.variant = s.variant ∧
    t.dev = { s.dev with hubTimer := t.dev.hubTimer, stbyTimer := t.dev.stbyTimer, free := s.dev.free + 1 } ∧
    t.dev.stbyTimer = s.dev.stbyTimer + (if s.dev.seq.stbyUp ∧ Config.still s.dev.free 4 = false then 1 else 0) ∧
    ∀ h, tget 0 t.dev.hubTimer h = tget 0 s.dev.hubTimer h +
      (if timerRuns s.variant s.dev h ∧ h < 4 ∧ Config.still s.dev.free h = false then 1 else 0))

/-- No command is refused: each of the 189 answers a next state, with the queue and the variant as they were, in every state; one that accesses an
address that the spec says does not exist (a line that is not one of its slice's, a word beyond an issuer's memory) stops by that name. -/
def Obligations.EveryCommandAnswers : Prop :=
  ∀ (s : State) (c : Instr),
    (addressOk s.variant c = true → ∃ t, exec c s = .next t ∧ t.pending = s.pending ∧ t.variant = s.variant) ∧
    (addressOk s.variant c = false → exec c s = .fault (match c with
      | .bankAccess _ _ => .noSuchWord
      | .marchPreservingWord _ _ _ _ _ => .noSuchWord
      | _ => .noSuchLine))

/-- R346: base and size registers hold while en reads 1; enabling starts a queue afresh with phase 1; disabling leaves en at 1 until the queue has
drained; a doorbell within the queue is held, and one beyond it is ignored and counted in OD 0x1205. No other queue and nothing else of any port
changes.
Completes: sqDoorbell, cqDoorbell, queueEnable, queueDisable, queueDisableDone. -/
def Obligations.QueueRegistersObeyEnable : Prop :=
  ∀ (s : State) (p q : Nat), portUp s.variant s.dev p = true → q < 16 →
    (∀ tail : BitVec 12, ∃ t, exec (.sqDoorbell p q tail) s = .next t ∧
      t = s.on { s.dev with ports := t.dev.ports, ctr := t.dev.ctr } ∧ OnlyQueue s.dev t.dev p q ∧
      (if (s.dev.queue p q).sqsize < tail
        then t.dev.queue p q = s.dev.queue p q ∧ Counted s.dev t.dev 0x1205 (p + 1) 1
        else t.dev.queue p q = { s.dev.queue p q with sqtail := tail } ∧ t.dev.ctr = s.dev.ctr)) ∧
    (∀ head : BitVec 12, ∃ t, exec (.cqDoorbell p q head) s = .next t ∧
      t = s.on { s.dev with ports := t.dev.ports, ctr := t.dev.ctr } ∧ OnlyQueue s.dev t.dev p q ∧
      (if (s.dev.queue p q).cqsize < head
        then t.dev.queue p q = s.dev.queue p q ∧ Counted s.dev t.dev 0x1205 (p + 1) 1
        else t.dev.queue p q = { s.dev.queue p q with cqhead := head } ∧ t.dev.ctr = s.dev.ctr)) ∧
    (∃ t, exec (.queueEnable p q) s = .next t ∧ t = s.on { s.dev with ports := t.dev.ports } ∧ OnlyQueue s.dev t.dev p q ∧
      t.dev.queue p q = if (s.dev.queue p q).en then s.dev.queue p q
        else { s.dev.queue p q with en := true, sqhead := 0, cqtail := 0, anext := 0, phase := true }) ∧
    (∃ t, exec (.queueDisable p q) s = .next t ∧ t = s.on { s.dev with ports := t.dev.ports } ∧ OnlyQueue s.dev t.dev p q ∧
      (t.dev.queue p q).en = (s.dev.queue p q).en ∧ offers (t.dev.queue p q) = false) ∧
    (∃ t, exec (.queueDisableDone p q) s = .next t ∧ t = s.on { s.dev with ports := t.dev.ports } ∧ OnlyQueue s.dev t.dev p q ∧
      (t.dev.queue p q).en = ((s.dev.queue p q).en && !((s.dev.queue p q).disabling && queueDrained s.dev p q))) ∧
    (∀ (off size : Nat) (value : BitVec 64), (s.dev.queue p q).en = true →
      ∃ t, exec (.bar0RegisterWrite p off size value) s = .next t ∧
        (t.dev.queue p q).sqbase = (s.dev.queue p q).sqbase ∧ (t.dev.queue p q).cqbase = (s.dev.queue p q).cqbase ∧
        (t.dev.queue p q).sqsize = (s.dev.queue p q).sqsize ∧ (t.dev.queue p q).cqsize = (s.dev.queue p q).cqsize)

/-- Two BAR0 writes of Table 13.2: a byte of the inbound mailbox window reads back as written, and the two low bytes of a disabled queue's size
register set sqsize.
R343: D3HOT_ENTRY puts the port in D3hot, where it fetches nothing; D0_RETURN takes it out and changes of the port nothing but that and the
pending bits of the messages that the enable and the masks let go, which it sends; MSIX_ENABLE_CHANGE sets the enable and the masks, and outside
D3hot sends the pending messages that they let go.
Completes: bar0RegisterWrite, d3hotEntry, d0Return, msixEnableChange. -/
def Obligations.PortRegistersAct : Prop :=
  (∀ (s : State) (p : Nat), portUp s.variant s.dev p = true →
     (∀ (a : Nat) (value : BitVec 64), a < 0x1000 → ∃ t, exec (.bar0RegisterWrite p (0x1000 + a) 1 value) s = .next t ∧
       t = s.on { s.dev with ports := t.dev.ports } ∧ OnlyPort s.dev t.dev p ∧
       t.dev.port p = { s.dev.port p with mailIn := (t.dev.port p).mailIn } ∧
       mget (t.dev.port p).mailIn a = value.setWidth 8 ∧ bar0Read t.dev p (0x1000 + a) = value.setWidth 8 ∧
       ∀ b, b ≠ a → mget (t.dev.port p).mailIn b = mget (s.dev.port p).mailIn b) ∧
     (∀ (q : Nat) (value : BitVec 64), q < 16 → (s.dev.queue p q).en = false →
       ∃ t, exec (.bar0RegisterWrite p (0x100 + 0x40 * q + 16) 2 value) s = .next t ∧
         t = s.on { s.dev with ports := t.dev.ports } ∧ OnlyQueue s.dev t.dev p q ∧
         t.dev.queue p q = { s.dev.queue p q with sqsize := value.setWidth 12 })) ∧
  (∀ (s : State) (p : Nat), portUp s.variant s.dev p = true →
     (∃ t, exec (.d3hotEntry p) s = .next t ∧ t = s.on { s.dev with ports := t.dev.ports } ∧ OnlyPort s.dev t.dev p ∧
       t.dev.port p = { s.dev.port p with d3 := true } ∧ ∀ e, exec (.commandFetch p e) t = .next t) ∧
     (∃ t, exec (.d0Return p) s = .next t ∧ t = s.on { s.dev with ports := t.dev.ports, out := t.dev.out } ∧ OnlyPort s.dev t.dev p ∧
       t.dev.port p = { s.dev.port p with d3 := false, msixPend :=
         if (s.dev.port p).msixEn then (s.dev.port p).msixPend &&& (s.dev.port p).msixMask else (s.dev.port p).msixPend } ∧
       t.dev.out = s.dev.out ++ ((List.range 17).filter (fun n => (s.dev.port p).msixEn && (s.dev.port p).msixPend.getLsbD n &&
         !(s.dev.port p).msixMask.getLsbD n)).map (Output.msix p)) ∧
     (∀ (enable : Bool) (mask : BitVec 17), ∃ t, exec (.msixEnableChange p enable mask) s = .next t ∧
       t = s.on { s.dev with ports := t.dev.ports, out := t.dev.out } ∧ OnlyPort s.dev t.dev p ∧
       t.dev.port p = { s.dev.port p with msixEn := enable, msixMask := mask, msixPend :=
         if enable ∧ (s.dev.port p).d3 = false then (s.dev.port p).msixPend &&& mask else (s.dev.port p).msixPend } ∧
       t.dev.out = s.dev.out ++ ((List.range 17).filter (fun n => enable && !(s.dev.port p).d3 && (s.dev.port p).msixPend.getLsbD n &&
         !mask.getLsbD n)).map (Output.msix p)))

/-- R350: a fetched entry is accepted exactly when its alive field is the queue's anext, and acceptance raises anext by one, whatever comes of the
command; the value before is a repeat, any other a gap, and either completes with its status, is counted and changes neither anext nor the commands
in flight.
Completes: commandFetch. -/
def Obligations.FetchObeysAlive : Prop :=
  ∀ (s : State) (p q : Nat) (b : Bytes), portUp s.variant s.dev p = true → (s.dev.port p).d3 = false →
    targetOffline s.dev (.core p 0) = false → inFlight s.dev p < 256 → nextQueue s.dev p = some q →
    ∃ t, exec (.commandFetch p (.ok b)) s = .next t ∧
      t = s.on { s.dev with ports := t.dev.ports, ctr := t.dev.ctr, cmds := t.dev.cmds, nextCmd := t.dev.nextCmd,
                            comps := t.dev.comps } ∧
      (t.dev.queue p q).sqhead = nextSlot (s.dev.queue p q).sqhead (s.dev.queue p q).sqsize ∧
      (let e := padTo 64 b
       let r := entryStatus s.variant s.dev (entryOpc e) (entryRsv e) (entryP e)
       if entryAlive e = (s.dev.queue p q).anext then
         (t.dev.queue p q).anext = (s.dev.queue p q).anext + 1 ∧ Counted s.dev t.dev 0x1201 (p + 1) 1 ∧
         (if r.1 = stSuccess then t.dev.comps = s.dev.comps ∧ t.dev.nextCmd = s.dev.nextCmd + 1 ∧
            t.dev.cmds = s.dev.cmds ++ [{ id := s.dev.nextCmd, port := p, q := q, cid := entryCid e, opc := entryOpc e,
                                          p := entryP e, stage := .ready, waits := [] }]
          else t.dev.cmds = s.dev.cmds ∧ t.dev.nextCmd = s.dev.nextCmd ∧
            t.dev.comps = s.dev.comps ++ [{ port := p, q := q, cid := entryCid e, status := r.1, detail := BitVec.ofNat 8 r.2,
                                            smiss := false, result := 0 }])
       else
         (t.dev.queue p q).anext = (s.dev.queue p q).anext ∧ t.dev.cmds = s.dev.cmds ∧ t.dev.nextCmd = s.dev.nextCmd ∧
         (let rep := entryAlive e = (s.dev.queue p q).anext - 1
          Counted s.dev t.dev (if rep then 0x1202 else 0x1203) (p + 1) 1 ∧
          t.dev.comps = s.dev.comps ++ [{ port := p, q := q, cid := entryCid e, status := if rep then stRepeat else stAliveGap,
                                          detail := 0, smiss := false, result := 0 }]))

/-- R348: with a free completion slot, the first waiting completion of an enabled queue is written to the slot at cqtail, carrying the phase of this
pass; cqtail moves on, the phase inverts when it wraps, and the MSI-X message follows the write. With no free slot nothing is written and the
completion waits.
Completes: completionWrite. -/
def Obligations.CompletionWaitsForSlot : Prop :=
  ∀ (s : State) (p q : Nat),
    (∀ (c : Comp) (rest : List Comp), portUp s.variant s.dev p = true → (s.dev.port p).d3 = false → (s.dev.queue p q).en = true →
      nextSlot (s.dev.queue p q).cqtail (s.dev.queue p q).cqsize ≠ (s.dev.queue p q).cqhead →
      takeComp p q s.dev.comps = some (c, rest) →
      ∃ t, exec (.completionWrite p q) s = .next t ∧
        t = s.on { s.dev with comps := rest, out := t.dev.out, ports := t.dev.ports } ∧
        c ∈ s.dev.comps ∧ c.port = p ∧ c.q = q ∧ rest.length + 1 = s.dev.comps.length ∧
        (let Q := s.dev.queue p q
         let w := s.dev.out ++ [.hostWrite p (BitVec.ofNat 64 (Q.cqbase.toNat + 16 * Q.cqtail.toNat)) (compBytes c Q.sqhead Q.phase)]
         let goes := (s.dev.port p).msixEn && !(s.dev.port p).msixMask.getLsbD q
         t.dev.out = (if Q.ie && goes then w ++ [.msix p q] else w) ∧
         (t.dev.port p).msixPend = (if Q.ie && !goes then (s.dev.port p).msixPend ||| BitVec.ofNat 17 (2 ^ q)
           else (s.dev.port p).msixPend) ∧
         t.dev.queue p q = { Q with cqtail := nextSlot Q.cqtail Q.cqsize, phase := if Q.cqtail = Q.cqsize then !Q.phase else Q.phase })) ∧
    (nextSlot (s.dev.queue p q).cqtail (s.dev.queue p q).cqsize = (s.dev.queue p q).cqhead → exec (.completionWrite p q) s = .next s)

/-! ### Host commands: identity, dictionary, objects (ch. 7, 11, 13, 14) -/

/-- R353, R358: IDENTIFY writes the identity record to the buffer at P0, sets the port's generation to 0 and answers 0.
R359, R392, R393, R407: OD READ answers the value that the entry's holder gives, in the result or in the buffer with its length. OD WRITE of a class
P entry that already holds the value succeeds, writes no record and takes no token; with another value it waits for its record with one token fewer,
and with no token it is throttled and counted; an entry of class M, Q or V holds the value at once.
Completes: identify, odRead, odWrite. -/
def Obligations.IdentifyAndDictionaryServed : Prop :=
  (∀ (s : State) (cmd : Nat) (c : Cmd), s.dev.starting cmd 0x01 = some c → (s.dev.port c.port).d3 = false →
     ∃ t, exec (.identify cmd) s = .next t ∧
       t = s.on { s.dev with ports := t.dev.ports, out := t.dev.out, cmds := t.dev.cmds, comps := t.dev.comps } ∧
       Ended s.dev t.dev c stSuccess 0 0 ∧
       OnlyPort s.dev t.dev c.port ∧ t.dev.port c.port = { s.dev.port c.port with gen := 0 } ∧
       t.dev.out = s.dev.out ++ [.hostWrite c.port (BitVec.ofNat 64 (c.P 0)) (identityRecord s.variant s.dev c.port)]) ∧
  (∀ (s : State) (cmd : Nat) (c : Cmd), odServed s.dev = true →
     (∀ value : Bytes, s.dev.starting cmd 0x02 = some c → c.odIdx ≠ 0x5800 → (c.P 1 = 0 ∨ (s.dev.port c.port).d3 = false) →
       odRead s.variant s.dev (.port c.port) 0 c.odIdx c.odSub (if c.P 1 = 0 then 8 else c.odLen) = (stSuccess, value) →
       ∃ t, exec (.odRead cmd) s = .next t ∧ t = s.on { s.dev with cmds := t.dev.cmds, comps := t.dev.comps, out := t.dev.out } ∧
         Ended s.dev t.dev c stSuccess 0 (if c.P 1 = 0 then leNat value else value.length) ∧
         t.dev.out = if c.P 1 = 0 then s.dev.out
           else s.dev.out ++ [.hostWrite c.port (BitVec.ofNat 64 (c.P 1)) value]) ∧
     (∀ (value : HostRead) (b : Bytes) (e : OdEntry), s.dev.starting cmd 0x03 = some c → ownStep c.odIdx c.odSub = false →
       odEntry c.odIdx c.odSub = some e → (c.P 1 = 0 ∧ c.odLen ≤ 8 ∨ c.P 1 ≠ 0 ∧ (s.dev.port c.port).d3 = false) → cmdValue c value = .ok b →
       odWriteEarly s.variant s.dev (.port c.port) 0 c.odIdx c.odSub c.odLen (odNames c.odIdx b) = stSuccess →
       odWriteChecks s.variant s.dev (.port c.port) 0 c.odIdx c.odSub b = stSuccess →
       s.dev.pendingP (odKey c.odIdx c.odSub) = false →
       ∃ t, exec (.odWrite cmd value) s = .next t ∧
         (e.cls = .p ∧ s.dev.heldP c.odIdx c.odSub = b →
           Ended s.dev t.dev c stSuccess 0 0 ∧ t = s.on { s.dev with cmds := t.dev.cmds, comps := t.dev.comps }) ∧
         (e.cls = .p ∧ s.dev.heldP c.odIdx c.odSub ≠ b ∧ s.dev.jour.tokens ≠ 0 →
           t.dev.jour.waiting = s.dev.jour.waiting ++
             [{ vals := [(odKey c.odIdx c.odSub, b)], waiter := .cmd cmd, tries := 0, paid := true }] ∧
           t.dev.jour.tokens + 1 = s.dev.jour.tokens ∧ t.dev.comps = s.dev.comps ∧
           t = s.on { s.dev with cmds := t.dev.cmds, jour := t.dev.jour }) ∧
         (e.cls = .p ∧ s.dev.heldP c.odIdx c.odSub ≠ b ∧ s.dev.jour.tokens = 0 →
           Ended s.dev t.dev c stThrottled 0 0 ∧ Counted s.dev t.dev 0x1400 6 1 ∧
           t = s.on { s.dev with cmds := t.dev.cmds, comps := t.dev.comps, ctr := t.dev.ctr }) ∧
         (e.cls ≠ .p → Ended s.dev t.dev c stSuccess 0 0 ∧ t.dev.jour = s.dev.jour ∧ t.dev.ctr = s.dev.ctr ∧
           (c.odIdx ≠ 0x5030 → c.odIdx ≠ 0x7020 → tfind t.dev.vals (odKey c.odIdx c.odSub) = some b))))

/-- R290, R355, R356, R360, R361: ALLOC gives the handle of the index at the head of the port's queue and takes it from the queue; a halo
allocation and a remote window take no frame; an allocation of whole arcs takes, on each hub of its arcs, a frame of each of the hub's two stacks
that no allocation used; a smaller one lies at a multiple of 64 KiB within one arc of the hub that it names, apart from the small allocations
there; with its clear bit, zeros are written over the whole of it.
R356, R362, R370: FREE of a live allocation of the port's own that nothing pins takes it away and puts its index at the tail of the port's queue;
while admitted requests of its export are unapplied the command waits and the export has ended; FREE of a program that no incomplete job names
takes the program away and puts its index at the tail of its queue.
Completes: alloc, free. -/
def Obligations.AllocationsTakenAndFreed : Prop :=
  (∀ (s : State) (cmd : Nat) (c : Cmd) (i : Nat), s.dev.starting cmd 0x08 = some c →
     (tget (IdxQueue.fresh (2 ^ 30 - 1)) s.dev.allocIdx c.port).head = some i →
     (bitsOf (c.P 1) 1 0 ≠ 0 →
       ∃ t, exec (.alloc cmd) s = .next t ∧
         t = s.on { s.dev with allocs := t.dev.allocs, allocIdx := t.dev.allocIdx, cmds := t.dev.cmds, comps := t.dev.comps } ∧
         Ended s.dev t.dev c stSuccess 0 (c.port * 2 ^ 30 + i) ∧
         tget (IdxQueue.fresh (2 ^ 30 - 1)) t.dev.allocIdx c.port =
           (tget (IdxQueue.fresh (2 ^ 30 - 1)) s.dev.allocIdx c.port).pop ∧
         ∃ a, t.dev.allocs = s.dev.allocs ++ [a] ∧ a.handle = c.port * 2 ^ 30 + i ∧ a.port = c.port ∧ a.size = c.P 0 ∧
           a.export_ = bitsOf (c.P 1) 19 8 ∧ a.arcs = [] ∧ a.live = true ∧
           (bitsOf (c.P 1) 1 0 = 1 → a.kind = .halo ∧ a.issuer = c.P 2) ∧
           (bitsOf (c.P 1) 1 0 ≠ 1 → a.kind = .window ∧ a.winHub = bitsOf (c.P 2) 1 0 ∧ a.winGroup = bitsOf (c.P 2) 2 2 ∧
             a.peer = BitVec.ofNat 64 (c.P 3) ∧ a.peerExp = bitsOf (c.P 4) 11 0)) ∧
     (∀ (arcs : List Arc) (pos : Nat) (d1 : Dev), bitsOf (c.P 1) 1 0 = 0 →
       ((List.range (max 1 (allocSize (c.P 0) / 2 ^ 27))).map (arcHub s.variant (!bitOf (c.P 1) 2) (bitsOf (c.P 1) 4 3))).any
         (stacksOffline s.dev) = false →
       placeAlloc s.variant (!bitOf (c.P 1) 2) (bitsOf (c.P 1) 4 3) (allocSize (c.P 0)) s.dev = some (arcs, pos, d1) →
       exportTaken s.dev (bitsOf (c.P 1) 19 8) = false →
       (∃ (a : Alloc) (d2 : Dev),
         d2 = { s.dev with allocs := s.dev.allocs ++ [a], allocIdx := d2.allocIdx, usedFrames := d1.usedFrames, free := d1.free } ∧
         tget (IdxQueue.fresh (2 ^ 30 - 1)) d2.allocIdx c.port =
           (tget (IdxQueue.fresh (2 ^ 30 - 1)) s.dev.allocIdx c.port).pop ∧
         a.handle = c.port * 2 ^ 30 + i ∧ a.port = c.port ∧ a.kind = .stack ∧ a.arcs = arcs ∧ a.pos = pos ∧ a.size = allocSize (c.P 0) ∧
         a.policy = bitsOf (c.P 1) 6 5 ∧ a.export_ = bitsOf (c.P 1) 19 8 ∧ a.live = true ∧
         exec (.alloc cmd) s = .next (s.on ((if bitOf (c.P 1) 7 then devPut s.variant a 0 (List.replicate a.size 0) d2 else d2).succeeds cmd
           (c.port * 2 ^ 30 + i)))) ∧
       (2 ^ 27 ≤ allocSize (c.P 0) → arcs.length = allocSize (c.P 0) / 2 ^ 27 ∧ pos = 0 ∧
         ∀ r ∈ arcs, r.frame0 < 1072 ∧ r.frame1 < 1072 ∧
           (2 * r.hub, r.frame0) ∉ s.dev.usedFrames ∧ (2 * r.hub + 1, r.frame1) ∉ s.dev.usedFrames ∧
           (2 * r.hub, r.frame0) ∈ d1.usedFrames ∧ (2 * r.hub + 1, r.frame1) ∈ d1.usedFrames) ∧
       (allocSize (c.P 0) < 2 ^ 27 → ∃ r, arcs = [r] ∧ r.hub = bitsOf (c.P 1) 4 3 ∧ pos % 65536 = 0 ∧ pos + allocSize (c.P 0) ≤ 2 ^ 27 ∧
         ∀ b ∈ s.dev.allocs, b.kind = .stack → b.size < 2 ^ 27 → b.arcs = [r] → (2 * r.hub, r.frame0) ∈ s.dev.usedFrames →
           b.pos + b.size ≤ pos ∨ pos + allocSize (c.P 0) ≤ b.pos))) ∧
  (∀ (s : State) (cmd : Nat) (c : Cmd), s.dev.starting cmd 0x09 = some c →
     (∀ a : Alloc, bitOf (c.P 0) 32 = false → s.dev.allocOf (bitsOf (c.P 0) 31 0) = some a → a.port = c.port → a.live = true →
       allocPinned s.dev (bitsOf (c.P 0) 31 0) = false →
       ∃ t, exec (.free cmd) s = .next t ∧
         (exportBusy s.dev a.handle = false →
           Ended s.dev t.dev c stSuccess 0 0 ∧
           (∀ b ∈ t.dev.allocs, b.handle ≠ a.handle) ∧
           tget (IdxQueue.fresh (2 ^ 30 - 1)) t.dev.allocIdx c.port =
             (tget (IdxQueue.fresh (2 ^ 30 - 1)) s.dev.allocIdx c.port).push (a.handle % 2 ^ 30) ∧
           t = s.on { s.dev with allocs := t.dev.allocs, allocIdx := t.dev.allocIdx, cmds := t.dev.cmds, comps := t.dev.comps,
                                 usedFrames := t.dev.usedFrames, mem := t.dev.mem, spans := t.dev.spans }) ∧
         (exportBusy s.dev a.handle = true →
           t.dev.comps = s.dev.comps ∧
           exportTaken t.dev a.export_ =
             (decide (a.export_ ≠ 0) && s.dev.allocs.any (fun b => b.handle ≠ a.handle && b.export_ = a.export_)) ∧
           t = s.on { s.dev with allocs := t.dev.allocs, cmds := t.dev.cmds })) ∧
     (∀ p : Program, bitOf (c.P 0) 32 = true → s.dev.progOf (bitsOf (c.P 0) 31 0) = some p → p.port = c.port → p.doomed = false →
       s.dev.jobs.any (fun j => j.prog = bitsOf (c.P 0) 31 0) = false →
       ∃ t, exec (.free cmd) s = .next t ∧ Ended s.dev t.dev c stSuccess 0 0 ∧ (∀ x ∈ t.dev.progs, x.handle ≠ p.handle) ∧
         (∃ l, (tget (IdxQueue.fresh (2 ^ 30 - 1)) t.dev.progIdx c.port).tail =
           (tget (IdxQueue.fresh (2 ^ 30 - 1)) s.dev.progIdx c.port).tail ++ p.handle % 2 ^ 30 :: l) ∧
         t = s.on { s.dev with progs := t.dev.progs, progIdx := t.dev.progIdx, allocs := t.dev.allocs, allocIdx := t.dev.allocIdx,
                               usedFrames := t.dev.usedFrames, mem := t.dev.mem, spans := t.dev.spans, cmds := t.dev.cmds,
                               comps := t.dev.comps }))

/-- R191, R208, R209: DESC CREATE of an image that passes the checks of Table 7.6 holds its descriptor under the index at the head of the
port's queue;
an image that fails one changes nothing but the completion. DESC DESTROY by the creating port of a descriptor not in use takes it away.
Completes: descCreate, descDestroy. -/
def Obligations.DescriptorsCreatedAndDestroyed : Prop :=
  ∀ (s : State) (cmd : Nat) (c : Cmd),
    (∀ (b : Bytes) (i : Nat), s.dev.starting cmd 0x0A = some c → (s.dev.port c.port).d3 = false →
      (tget (IdxQueue.fresh 16383) s.dev.descIdx c.port).head = some i →
      (let n := leNat ((padTo 160 b).take 160)
       let st := descStatus s.variant s.dev c.port n
       ∃ t, exec (.descCreate cmd (.ok b)) s = .next t ∧
        t = s.on { s.dev with descs := t.dev.descs, descIdx := t.dev.descIdx, cmds := t.dev.cmds, comps := t.dev.comps } ∧
        (if st = stSuccess then
          Ended s.dev t.dev c stSuccess 0 (c.port * 2 ^ 14 + i) ∧
          t.dev.descs = s.dev.descs ++ [Desc.ofImage (c.port * 2 ^ 14 + i) c.port n] ∧
          tget (IdxQueue.fresh 16383) t.dev.descIdx c.port = (tget (IdxQueue.fresh 16383) s.dev.descIdx c.port).pop
         else Ended s.dev t.dev c st 0 0 ∧ t.dev.descs = s.dev.descs ∧ t.dev.descIdx = s.dev.descIdx))) ∧
    (∀ x : Desc, s.dev.starting cmd 0x0B = some c → s.dev.descOf (bitsOf (c.P 0) 15 0) = some x →
      (x.port ≠ c.port → ∃ t, exec (.descDestroy cmd) s = .next t ∧ Ended s.dev t.dev c stDescHandle 0 0 ∧
        t = s.on { s.dev with cmds := t.dev.cmds, comps := t.dev.comps }) ∧
      (x.port = c.port → descInUse s.dev (bitsOf (c.P 0) 15 0) = false →
        ∃ t, exec (.descDestroy cmd) s = .next t ∧ Ended s.dev t.dev c stSuccess 0 0 ∧
          t.dev.descs = s.dev.descs.filter (fun y => y.handle ≠ x.handle) ∧
          tget (IdxQueue.fresh 16383) t.dev.descIdx c.port =
            (tget (IdxQueue.fresh 16383) s.dev.descIdx c.port).push (x.handle % 2 ^ 14)))

/-! ### Weights and banks (ch. 2, 9, 13, 16) -/

/-- R32, R365, R366: a LOAD WEIGHTS that passes its checks reserves a matrix ID and waits; its start puts the shadow bank of every macro of its
placement in state Loading; at its completion, every slot verified, the matrix is live under the ID at the head of the queue.
R31, R260, R368: SWAP BANK of a group that no macro holds completes with VALUE_RANGE, detail 0, and a second swap of a pending group
with UNIT_BUSY; an accepted one stays pending. At the group's tile boundary, with every shadow bank Ready, the active bank of every macro of the
group switches, of no other macro, and SWAP BANK succeeds.
Completes: loadWeights, loadWeightsStart, loadWeightsComplete, swapBank, swapBankEffect. -/
def Obligations.WeightsLoadAndSwap : Prop :=
  ((∀ (s : State) (cmd : Nat) (c : Cmd) (b ob : Bytes), s.dev.starting cmd 0x10 = some c → (s.dev.port c.port).d3 = false →
     (loadStatus s.variant s.dev c (u32s b) (if bitsOf (c.P 3) 24 18 = 0 ∨ c.P 5 = 0 then [] else u32s ob) b.length).1 = stSuccess →
     ∃ t, exec (.loadWeights cmd (.ok b) (.ok ob)) s = .next t ∧
       t = s.on { s.dev with loads := t.dev.loads, matReserved := s.dev.matReserved + 1, cmds := t.dev.cmds } ∧
       (∃ l, t.dev.loads = s.dev.loads ++ [l] ∧ l.cmd = cmd ∧ l.writing = false ∧
         l.mat.place = (u32s b).map placeMacro ∧ l.mat.outliers = (if bitsOf (c.P 3) 24 18 = 0 ∨ c.P 5 = 0 then [] else u32s ob) ∧
         l.mat.rows = bitsOf (c.P 2) 31 0 ∧ l.mat.cols = bitsOf (c.P 2) 63 32 ∧ l.mat.group = bitsOf (c.P 3) 17 6) ∧
       ∀ e ∈ t.dev.cmds, e.id = cmd → e.stage = .busy) ∧
   (∀ (s : State) (cmd : Nat) (l : Load) (c : Cmd), s.dev.loads.find? (fun x => x.cmd = cmd && !x.writing) = some l →
     s.dev.cmdOf cmd = some c → c.waits.any (fun g => s.dev.swaps.any (fun x => x.group = g)) = false →
     targetLoading s.dev l.mat.place = false → targetNamed s.dev l.mat.place = false →
     ∃ t, exec (.loadWeightsStart cmd) s = .next t ∧
       t = s.on { s.dev with loads := t.dev.loads, mats := t.dev.mats, matIdx := t.dev.matIdx, macros := t.dev.macros,
                             wedges := t.dev.wedges, jour := t.dev.jour } ∧
       (∀ m ∈ l.mat.place, ((t.dev.mac m).bank (!(s.dev.mac m).actB)).st = .loading ∧ (t.dev.mac m).actB = (s.dev.mac m).actB) ∧
       ∀ m, m ∉ l.mat.place → (t.dev.mac m).bankA.st = (s.dev.mac m).bankA.st ∧ (t.dev.mac m).bankB.st = (s.dev.mac m).bankB.st) ∧
   (∀ (s : State) (cmd : Nat) (l : Load) (c : Cmd) (image : HostRead) (img : Nat) (d0 : Dev) (verify : List VerifyErr) (id : Nat),
     s.dev.loads.find? (fun x => x.cmd = cmd && x.writing) = some l → s.dev.cmdOf cmd = some c →
     (l.mat.imgAlloc ≠ 0 ∨ (s.dev.port c.port).d3 = false) → loadImage s.variant l.mat image s.dev = (.ok img, d0) →
     imageFault l.mat img = none →
     (l.targets.zipIdx).all (fun t => mendable (errsOf verify t.2)) = true →
     l.targets.any (fun t => (s.dev.mac t.1).retire) = false → s.dev.matIdx.head = some id →
     ∃ t, exec (.loadWeightsComplete cmd image verify) s = .next t ∧
       t.dev.mats = s.dev.mats ++ [{ l.mat with id := id }] ∧ t.dev.matIdx = s.dev.matIdx.pop ∧
       t.dev.loads = s.dev.loads.filter (fun x => x.cmd ≠ cmd) ∧ Ended s.dev t.dev c stSuccess 0 id)) ∧
  ((∀ (s : State) (cmd : Nat) (c : Cmd), s.dev.starting cmd 0x11 = some c →
     (groupMacros s.dev (bitsOf (c.P 0) 11 0) = [] →
       ∃ t, exec (.swapBank cmd) s = .next t ∧ Ended s.dev t.dev c stValueRange 0 0 ∧
         t = s.on { s.dev with cmds := t.dev.cmds, comps := t.dev.comps }) ∧
     (groupMacros s.dev (bitsOf (c.P 0) 11 0) ≠ [] →
       (groupMacros s.dev (bitsOf (c.P 0) 11 0)).any (fun m =>
         macroOffline s.dev m || ((s.dev.mac m).unread && !(s.dev.mac m).loaded)) = false →
       s.dev.swaps.any (fun x => x.group = bitsOf (c.P 0) 11 0) = true →
       ∃ t, exec (.swapBank cmd) s = .next t ∧ Ended s.dev t.dev c stUnitBusy 0 0 ∧
         t = s.on { s.dev with cmds := t.dev.cmds, comps := t.dev.comps }) ∧
     (swapStatus s.dev (bitsOf (c.P 0) 11 0) = stSuccess →
       ∃ t, exec (.swapBank cmd) s = .next t ∧
         t.dev.swaps = s.dev.swaps ++ [{ group := bitsOf (c.P 0) 11 0, cmd := cmd, hub := c.port }] ∧
         t = s.on { s.dev with cmds := t.dev.cmds, swaps := t.dev.swaps })) ∧
   (∀ (s : State) (g : Nat) (w : Swap) (c : Cmd), s.dev.swaps.find? (fun x => x.group = g) = some w → s.dev.cmdOf w.cmd = some c →
     groupAtBoundary s.dev g = true →
     (groupMacros s.dev g).all (fun m => !(s.dev.mac m).reload && !(s.dev.mac m).retire && (s.dev.mac m).shadow.st = .ready) = true →
     ∃ t, exec (.swapBankEffect g) s = .next t ∧ Ended s.dev t.dev c stSuccess 0 0 ∧
       t = s.on { s.dev with macros := t.dev.macros, swaps := t.dev.swaps, ctr := t.dev.ctr, cmds := t.dev.cmds, comps := t.dev.comps } ∧
       (∀ m, (t.dev.mac m).actB = if m ∈ groupMacros s.dev g then !(s.dev.mac m).actB else (s.dev.mac m).actB) ∧
       (∀ m, (t.dev.mac m).bankA = (s.dev.mac m).bankA ∧ (t.dev.mac m).bankB = (s.dev.mac m).bankB) ∧
       Counted s.dev t.dev 0x2099 (ssHub w.hub) 1))

/-! ### Programs and jobs (ch. 8, 9, 13) -/

/-- R370, R371, R356: PROGRAM LOAD of an image that passes its checks holds the program under the index at the head of the port's queue; RUN JOB of a
live program queues the job, waiting, and its command runs on.
Completes: programLoad, runJob. -/
def Obligations.ProgramsLoadedJobsQueued : Prop :=
  ∀ (s : State) (cmd : Nat) (c : Cmd),
    (∀ (b0 : Bytes) (i : Nat), s.dev.starting cmd 0x18 = some c → (s.dev.port c.port).d3 = false →
      (programStatus s.variant s.dev c.port ((padTo (bitsOf (c.P 1) 31 0) b0).take (bitsOf (c.P 1) 31 0))).1 = stSuccess →
      (tget (IdxQueue.fresh (2 ^ 30 - 1)) s.dev.progIdx c.port).head = some i →
      ∃ t, exec (.programLoad cmd (.ok b0)) s = .next t ∧ Ended s.dev t.dev c stSuccess 0 (c.port * 2 ^ 30 + i) ∧
        t = s.on { s.dev with progs := t.dev.progs, progIdx := t.dev.progIdx, spad := t.dev.spad, banks := t.dev.banks, cmds := t.dev.cmds,
                              comps := t.dev.comps } ∧
        (∃ g, t.dev.progs = s.dev.progs ++ [g] ∧ g.handle = c.port * 2 ^ 30 + i ∧ g.port = c.port ∧ g.doomed = false) ∧
        tget (IdxQueue.fresh (2 ^ 30 - 1)) t.dev.progIdx c.port =
          (tget (IdxQueue.fresh (2 ^ 30 - 1)) s.dev.progIdx c.port).pop) ∧
    (∀ (transfers : HostRead) (b : Bytes), s.dev.starting cmd 0x19 = some c →
      (bitsOf (c.P 4) 8 0 = 0 ∨ c.P 3 ≠ 0 ∧ (s.dev.port c.port).d3 = false ∧ transfers = .ok b) →
      (let xs := (List.range (bitsOf (c.P 4) 8 0)).map (fun i => Xfer.ofNat (imgNat b (32 * i) 32))
       xferAbsent s.variant xs = false →
      (bitsOf (c.P 0) 31 0 = 0 ∨
        s.dev.progs.any (fun p => p.handle = bitsOf (c.P 0) 31 0 && !p.doomed) = true ∧
          (s.dev.jobs.filter (fun j => j.prog = bitsOf (c.P 0) 31 0 && j.stage = .waiting)).length <
            (if s.dev.jobs.any (fun j => j.prog = bitsOf (c.P 0) 31 0 && j.stage != .waiting) then 16 else 17)) →
      (bitsOf (c.P 1) 31 0 = 0 ∨ s.dev.allocs.any (fun a => a.handle = bitsOf (c.P 1) 31 0 && a.live) = true) →
      ∃ t, exec (.runJob cmd transfers) s = .next t ∧
        t = s.on { s.dev with jobs := t.dev.jobs, nextJob := s.dev.nextJob + 1, cmds := t.dev.cmds } ∧
        (∀ e ∈ t.dev.cmds, e.id = cmd → e.stage = .busy) ∧
        ∃ j, t.dev.jobs = s.dev.jobs ++ [j] ∧ j.id = s.dev.nextJob ∧ j.prog = bitsOf (c.P 0) 31 0 ∧ j.cmd = some cmd ∧
          j.port = c.port ∧ j.stage = .waiting ∧ j.fail = none ∧ j.slotAlloc = bitsOf (c.P 1) 31 0 ∧ j.xfers = xs.map (Xfer.taken s.dev)))

/-- R210, R237, R371: a waiting job whose program no other job runs starts when its slot vector is read without poison, the loader finds no
failure and its transfers lie in their allocations; it copies in first when it has transfers in. A loader failure ends it with that status
before anything runs. When every transfer in has been read, its tiles may run; a read that fails ends it with HOST_ACCESS.
R251, R371, R378: when a job is over that did not fail, TRANSFER_COPY_OUT sends the bytes of its transfers out to the host, in their order,
unless one of them fails, and the job has ended; a copy-out that the host refuses ends it with HOST_ACCESS. JOB_COMPLETE of a job that has ended,
or is over with no transfer out or a failure, completes its command with its first failure or SUCCESS.
Completes: jobStart, copyInComplete, transferCopyOut, jobComplete. -/
def Obligations.JobsRunThroughTheLoader : Prop :=
  (∀ (s : State) (job : Nat) (j : Job), s.dev.jobOf job = some j →
     (∀ (slots : List (BitVec 32)) (d1 : Dev), j.stage = .waiting →
       (j.prog = 0 ∨ s.dev.jobs.any (fun x => x.prog = j.prog && (x.stage != .waiting || decide (x.id < j.id)) && x.id != j.id) = false) →
       readSlots s.variant ((jobIssuers s.dev j).foldl (fun d i => settleClear i.issuer d) s.dev) j = (slots, false, d1) →
       (loaderFailure s.variant d1 j slots = none → j.xfers.all (fun x => xferOk d1 j.port x) = true →
         ∃ t j', exec (.jobStart job) s = .next t ∧ t.dev.jobOf job = some j' ∧
           j'.stage = (if j.xfers.any (fun x => !x.out) then .copyIn else .running) ∧ j'.slots = slots ∧
           j'.epoch = j.epoch ∧ j'.fail = j.fail ∧ t.dev.comps = s.dev.comps ∧ t.dev.cmds = s.dev.cmds ∧
           (∀ x ∈ j'.iss, x.pc = 0 ∧ x.stage = .start ∧ x.run = [])) ∧
       (∀ (f : BitVec 8 × Nat × Nat × Nat) (id : Nat) (c : Cmd), loaderFailure s.variant d1 j slots = some f → j.cmd = some id →
         s.dev.cmdOf id = some c → (∀ y ∈ s.dev.tiles, y.job ≠ job) →
         ∃ t, exec (.jobStart job) s = .next t ∧ t.dev.jobOf job = none ∧ t.dev.macros = d1.macros ∧ t.dev.tiles = d1.tiles ∧
           t.dev.spad = d1.spad ∧
           ∃ cp, t.dev.comps = s.dev.comps ++ [cp] ∧ cp.status = f.1 ∧ cp.detail = BitVec.ofNat 8 f.2.1 ∧ cp.cid = c.cid ∧ cp.q = c.q ∧
             cp.port = c.port)) ∧
     (∀ (data : List HostRead), j.stage = .copyIn → portOpen s.dev j.port = true → switchTakes s.dev j.port [52] 3 = true →
       (let reads := (List.range (j.xfers.filter (fun x => !x.out)).length).map (fun i => nth (HostRead.ok []) data i)
        (reads.all (fun r => match r with | .ok _ => true | .fail _ => false) = true →
          ∃ t j', exec (.copyInComplete job data) s = .next t ∧ t.dev.jobOf job = some j' ∧
            j' = { j with stage := .running, halted := j'.halted, fail := j'.fail } ∧
            t.dev.comps = s.dev.comps ∧ t.dev.cmds = s.dev.cmds) ∧
        (∀ (k id : Nat) (c : Cmd), reads.findSome? (fun r => match r with | .fail k => some k | .ok _ => none) = some k →
          j.cmd = some id → s.dev.cmdOf id = some c →
          ∃ t cp, exec (.copyInComplete job data) s = .next t ∧ t.dev.jobOf job = none ∧ t.dev.comps = s.dev.comps ++ [cp] ∧
            cp.status = stHostAccess ∧ cp.detail = BitVec.ofNat 8 k ∧ cp.cid = c.cid ∧ cp.q = c.q ∧ cp.port = c.port)))) ∧
  (∀ (s : State) (job : Nat) (j : Job), s.dev.jobOf job = some j →
     (j.stage = .running → jobOver s.dev j = true → (jobOutcome s.dev j).fail = none → portOpen s.dev j.port = true →
       (∃ t j', exec (.transferCopyOut job none) s = .next t ∧ t.dev.jobOf job = some j' ∧ j'.stage = .ended ∧
         t.dev.jobs.length = s.dev.jobs.length ∧ t.dev.cmds = s.dev.cmds ∧ t.dev.comps = s.dev.comps ∧
         (j'.fail = none → (t.dev.out.drop s.dev.out.length).filterMap (fun o => match o with
             | .hostWrite p a b => some (p, a, b.length)
             | _ => none) =
           (j.xfers.filter (fun x => x.out && (s.dev.allocOf x.alloc).isSome)).map (fun x => (j.port, x.haddr, x.len)))) ∧
       (∀ k : Nat, ∃ t j', exec (.transferCopyOut job (some k)) s = .next t ∧ t.dev.jobOf job = some j' ∧ j'.stage = .ended ∧
         (∃ f, j'.fail = some f ∧ f.status = stHostAccess ∧ f.detail = BitVec.ofNat 8 k) ∧
         t = s.on { s.dev with jobs := t.dev.jobs })) ∧
     (∀ (id : Nat) (c : Cmd) (o : Job), (j.stage = .ended ∧ o = j ∨ j.stage = .running ∧ jobOver s.dev j = true ∧ o = jobOutcome s.dev j ∧
         (o.fail.isSome = true ∨ j.xfers.all (fun x => !x.out) = true)) →
       j.cmd = some id → s.dev.cmdOf id = some c →
       ∃ t, exec (.jobComplete job) s = .next t ∧ t.dev.jobOf job = none ∧
         ∃ cp, t.dev.comps = s.dev.comps ++ [cp] ∧ cp.port = c.port ∧ cp.q = c.q ∧ cp.cid = c.cid ∧ cp.smiss = j.smiss ∧
           cp.status = (match o.fail with | some f => f.status | none => stSuccess)))

/-- R372: FENCE records the commands in flight of its scope and completes once every one of them has completed.
R373: ABORT of a command that its port and queue do not have in flight answers NO_TARGET and changes nothing else; of one that they have, ABORT
succeeds, and a target that had not started leaves the commands in flight with ABORTED.
Completes: fence, fenceComplete, abort. -/
def Obligations.FencesAndAbortsEnd : Prop :=
  (∀ (s : State) (cmd : Nat) (c : Cmd),
     (s.dev.starting cmd 0x1A = some c → ∃ t, exec (.fence cmd) s = .next t ∧ t = s.on { s.dev with cmds := t.dev.cmds } ∧
       ∃ c', t.dev.cmdOf cmd = some c' ∧ c'.stage = .busy ∧ c'.waits = fenceScope s.dev c) ∧
     (s.dev.cmdOf cmd = some c → c.opc = 0x1A → c.stage = .busy →
       ((∀ w ∈ c.waits, s.dev.cmdOf w = none) → ∃ t, exec (.fenceComplete cmd) s = .next t ∧ Ended s.dev t.dev c stSuccess 0 0 ∧
         t = s.on { s.dev with cmds := t.dev.cmds, comps := t.dev.comps }) ∧
       ((∃ w ∈ c.waits, s.dev.cmdOf w ≠ none) → exec (.fenceComplete cmd) s = .next s))) ∧
  (∀ (s : State) (cmd : Nat) (c : Cmd), s.dev.starting cmd 0x1B = some c →
     (s.dev.cmds.all (fun e => !(e.port == c.port && e.q == bitsOf (c.P 0) 19 16 &&
         e.cid == BitVec.ofNat 16 (bitsOf (c.P 0) 15 0))) = true →
       ∃ t, exec (.abort cmd) s = .next t ∧ Ended s.dev t.dev c stNoTarget 0 0 ∧
         t = s.on { s.dev with cmds := t.dev.cmds, comps := t.dev.comps }) ∧
     (∀ e : Cmd, s.dev.cmds.find? (fun e => e.port = c.port && e.q = bitsOf (c.P 0) 19 16 &&
         e.cid = BitVec.ofNat 16 (bitsOf (c.P 0) 15 0) && abortable e &&
         !(e.opc = 0x19 && s.dev.jobs.any (fun j => j.cmd = some e.id && j.stage = .ended))) = some e → e.id ≠ cmd →
       s.dev.cmdOf e.id = some e →
       ∃ t, exec (.abort cmd) s = .next t ∧ compFor c stSuccess 0 0 ∈ t.dev.comps ∧ (∀ x ∈ t.dev.cmds, x.id ≠ cmd) ∧
         (e.stage = .ready → t.dev.comps = s.dev.comps ++ [compFor e stAborted 0 0, compFor c stSuccess 0 0] ∧
           t.dev.cmds = (s.dev.cmds.filter (fun x => x.id != e.id)).filter (fun x => x.id != cmd))))

/-! ### Hints, maintenance and check engines by command (ch. 13, 15, 16) -/

/-- R374, R421 to R423: PHASE HINT succeeds once every hub of its mask holds the hint, not yet ramping, and no other hint of that hub and phase; the
ramp starts it rising, and the end of its hold lets a reached hint fall, counting one whose phase sent no tile.
Completes: phaseHint, hintRampStart, hintHoldExpiry. -/
def Obligations.PhaseHintsHeldAndReleased : Prop :=
  (∀ (s : State) (cmd : Nat) (c : Cmd), s.dev.starting cmd 0x20 = some c →
    ∃ t, exec (.phaseHint cmd) s = .next t ∧ Ended s.dev t.dev c stSuccess 0 0 ∧
      t = s.on { s.dev with pow := { s.dev.pow with hints := t.dev.pow.hints }, cmds := t.dev.cmds, comps := t.dev.comps } ∧
      (∀ h ∈ hintHubs (c.P 0), ∃ x, t.dev.pow.hints.filter (fun y => y.hub = h && y.phase = bitsOf (c.P 0) 7 0) = [x] ∧
        x.target = bitsOf (c.P 0) 23 16 ∧ x.lead = bitsOf (c.P 1) 31 0 ∧ x.port = c.port ∧ x.ramping = false ∧ x.reached = false) ∧
      t.dev.pow.hints.filter (fun y => !((hintHubs (c.P 0)).contains y.hub && y.phase = bitsOf (c.P 0) 7 0)) =
        s.dev.pow.hints.filter (fun y => !((hintHubs (c.P 0)).contains y.hub && y.phase = bitsOf (c.P 0) 7 0))) ∧
  (∀ (s : State) (hub phase : Nat), governs s.variant s.dev hub = true →
    ∃ t, exec (.hintRampStart hub phase) s = .next t ∧
      t = s.on { s.dev with pow := { s.dev.pow with hints := t.dev.pow.hints } } ∧
      t.dev.pow.hints.length = s.dev.pow.hints.length ∧
      ∀ x ∈ t.dev.pow.hints, x.hub = hub → x.phase = phase → x.ramping = true) ∧
  (∀ (s : State) (hub phase : Nat) (x : Hint), s.dev.pow.hints.find? (fun y => y.hub = hub && y.phase = phase) = some x →
    x.reached = true → x.falling = false →
    ∃ t, exec (.hintHoldExpiry hub phase) s = .next t ∧
      t = s.on { s.dev with pow := { s.dev.pow with hints := t.dev.pow.hints }, ctr := t.dev.ctr } ∧
      (∀ y ∈ t.dev.pow.hints, y.hub = hub → y.phase = phase → y.falling = true) ∧
      (if x.used then t.dev.ctr = s.dev.ctr else Counted s.dev t.dev 0x4403 (ssHub hub) 1))

/-- R375, R376, R456, R457: CALIBRATE requests background calibration of every macro of its target in service and waits for them; with none
it succeeds at once. SELFTEST of a unit out of service ends with UNIT_OFFLINE, and of one in service with a test running, with UNIT_BUSY; of any
other it takes the unit out of service by isolation, or starts a preserving march with the unit in service. When the isolated unit has drained, a
test that it passes returns it to service and ends the command with SUCCESS, one that it fails ends it with SELFTEST_FAILED, and holds the unit
unless its faults lie in lanes; a preserving march ends with its last word, the isolated units as they were.
R376, R249: RESET UNIT of the port's own unit ends with VALUE_RANGE; of a unit that holds no tile between its test-and-set and its last write it
succeeds, and a wedge has no tile on it then; of one that does it waits. A deferred reset takes place when its writes have ended or 8 µs have
passed, and ends the commands that wait for it.
Completes: calibrate, selftest, selftestDone, resetUnit, resetDeferralExpiry. -/
def Obligations.MaintenanceCommandsRun : Prop :=
  ((∀ (s : State) (cmd : Nat) (c : Cmd), s.dev.starting cmd 0x28 = some c →
     (let ms := ((targetOf (bitsOf (c.P 0) 31 0)).elim [] targetMacros).filter (calibrates s.variant s.dev)
      (ms = [] → ∃ t, exec (.calibrate cmd) s = .next t ∧ Ended s.dev t.dev c stSuccess 0 0 ∧
         t = s.on { s.dev with cmds := t.dev.cmds, comps := t.dev.comps }) ∧
      (ms ≠ [] → ∃ t, exec (.calibrate cmd) s = .next t ∧ t = s.on { s.dev with cmds := t.dev.cmds, macros := t.dev.macros } ∧
         (∀ m ∈ ms, (t.dev.mac m).cal.req = true) ∧ (∀ m, m ∉ ms → t.dev.mac m = s.dev.mac m) ∧
         ∃ c', t.dev.cmdOf cmd = some c' ∧ c'.stage = .busy ∧ c'.waits = ms))) ∧
   (∀ (s : State) (cmd : Nat) (c : Cmd) (u : Target), s.dev.starting cmd 0x29 = some c →
     targetOf (bitsOf (c.P 0) 31 0) = some u → hasTest u (bitsOf (c.P 1) 3 0) = true →
     (bitsOf (c.P 1) 3 0 = 2 ∨ ownUnit c.port u = false) →
     (testTarget s.dev u = false →
       ∃ t, exec (.selftest cmd) s = .next t ∧ Ended s.dev t.dev c stUnitOffline 0 0 ∧
         t = s.on { s.dev with cmds := t.dev.cmds, comps := t.dev.comps }) ∧
     (testTarget s.dev u = true → s.dev.seq.tests.any (fun x => x.target = codeOf u) = true →
       ∃ t, exec (.selftest cmd) s = .next t ∧ Ended s.dev t.dev c stUnitBusy 0 0 ∧
         t = s.on { s.dev with cmds := t.dev.cmds, comps := t.dev.comps }) ∧
     (testTarget s.dev u = true → s.dev.seq.tests.any (fun x => x.target = codeOf u) = false →
       ∃ t, exec (.selftest cmd) s = .next t ∧
         (∃ r ∈ t.dev.seq.tests, r.target = codeOf u ∧ r.test = bitsOf (c.P 1) 3 0) ∧
         (bitsOf (c.P 1) 3 0 ≠ 2 → targetHeld t.dev u = true) ∧
         (∀ k, bitsOf (c.P 1) 3 0 = 2 → marchCode u = some k → t.dev.seq.isolated = s.dev.seq.isolated ∧
           (t.dev.sbank k).march = some 0))) ∧
   (∀ (s : State) (target : BitVec 32) (o : TestOutcome) (r : TestRun) (u : Target) (id : Nat) (c : Cmd), s.dev.Sound →
     s.dev.seq.tests.find? (fun x => x.target = target) = some r → targetOf target.toNat = some u → codeOf u = target → r.cmd = some id →
     s.dev.cmdOf id = some c →
     (r.test ≠ 2 → unitDrained s.dev u = true → ownUnit c.port u = false →
       ∃ t cp, exec (.selftestDone target o) s = .next t ∧ cp ∈ t.dev.comps ∧ cp.cid = c.cid ∧ cp.port = c.port ∧ cp.q = c.q ∧
         (∀ x ∈ t.dev.seq.tests, x.target ≠ target) ∧ target ∉ t.dev.seq.isolated ∧
         (let d1 := dropSpares (o.spares.filter (fun k => slotsIn u [k / 256 * 192])) (countMarch u r.test o s.dev)
          cp.status = (if linkFaults u r.test o = none ∧ unitPasses d1 u o = true then stSuccess else stSelftestFailed) ∧
          (linkFaults u r.test o = none → unitPasses d1 u o = true →
            codeOf (heldTarget u) ∉ t.dev.seq.unitHeld ∧ target ∉ t.dev.seq.unitHeld) ∧
          (linkFaults u r.test o = none → unitPasses d1 u o = false → codeOf (heldTarget u) ∈ t.dev.seq.unitHeld))) ∧
     (r.test = 2 → (marchCode u).elim true (fun k => (s.dev.sbank k).march.isNone) = true →
       ∃ t cp, exec (.selftestDone target o) s = .next t ∧ t.dev.comps = s.dev.comps ++ [cp] ∧ cp.cid = c.cid ∧ cp.port = c.port ∧
         cp.q = c.q ∧ cp.status = (if o.pass then stSuccess else stSelftestFailed) ∧
         (∀ x ∈ t.dev.seq.tests, x.target ≠ target) ∧ t.dev.seq.isolated = s.dev.seq.isolated)) ∧
   (∀ (s : State) (cmd : Nat) (c : Cmd) (u : Target), s.dev.starting cmd 0x2A = some c →
     targetOf (bitsOf (c.P 0) 31 0) = some u →
     (ownUnit c.port u = true → ∃ t, exec (.resetUnit cmd) s = .next t ∧ Ended s.dev t.dev c stValueRange 0 0) ∧
     (ownUnit c.port u = false → holdsWriting s.dev u = false → s.dev.Sound →
       ∃ t, exec (.resetUnit cmd) s = .next t ∧ (∃ cp ∈ t.dev.comps, cp.cid = c.cid ∧ cp.port = c.port ∧ cp.q = c.q ∧ cp.status = stSuccess) ∧
         ∀ x ∈ t.dev.cmds, x.id ≠ cmd) ∧
     (ownUnit c.port u = false → holdsWriting s.dev u = true →
       ∃ t, exec (.resetUnit cmd) s = .next t ∧ t.dev.seq.deferred = s.dev.seq.deferred ++ [codeOf u] ∧
         t = s.on { s.dev with cmds := t.dev.cmds, seq := { s.dev.seq with deferred := t.dev.seq.deferred } }))) ∧
  ((∀ (s : State) (cmd : Nat) (c : Cmd) (f w : Nat), s.dev.starting cmd 0x2A = some c →
     targetOf (bitsOf (c.P 0) 31 0) = some (.wedge f w) → holdsWriting s.dev (.wedge f w) = false →
     ∃ t, exec (.resetUnit cmd) s = .next t ∧
       (∃ cp ∈ t.dev.comps, cp.cid = c.cid ∧ cp.status = stSuccess) ∧ (t.dev.wedge (16 * f + w)).tiles = [] ∧
       (∀ x ∈ t.dev.tiles, x.onWedge (16 * f + w) = false)) ∧
   (∀ (s : State) (target : BitVec 32) (us : Nat) (u : Target), targetOf target.toNat = some u → target ∈ s.dev.seq.deferred →
     (8 ≤ us ∨ holdsWriting s.dev u = false) →
     ∃ t, exec (.resetDeferralExpiry target us) s = .next t ∧ target ∉ t.dev.seq.deferred ∧
       ∀ c ∈ t.dev.cmds, ¬(c.opc = 0x2A ∧ c.stage = .busy ∧ c.waits = [target.toNat])))

/-- R377, R452: CHECK ENGINE CONFIG succeeds. A configuration takes effect at once on an engine that snoops no stream, its running value at
the initial
value when it is enabled, and waits for a frame boundary on one that snoops; a read answers the running value at the last frame boundary; a write of
the running value waits for the next one.
R452 to R454: a frame in sequence of the stream that an engine snoops is fed, in stream mode into the running value, which that frame's end answers;
a repeat is counted in OD 0x5112 and a gap in OD 0x5113, and neither is fed. A frame of the DMA belongs to a transfer that names the engine.
Completes: ceConfigWrite, ceReadRunning, ceWriteRunning, ceFrameFeed. -/
def Obligations.CheckEnginesConfiguredAndFed : Prop :=
  (∀ (s : State) (cmd : Nat) (c : Cmd), s.dev.starting cmd 0x30 = some c →
     (let n := bitsOf (c.P 0) 5 0
      (bitsOf (c.P 0) 9 8 = 0 → ∃ t, exec (.ceConfigWrite cmd) s = .next t ∧ Ended s.dev t.dev c stSuccess 0 0 ∧
         t = s.on { s.dev with ces := t.dev.ces, ctr := t.dev.ctr, cmds := t.dev.cmds, comps := t.dev.comps } ∧
         (∀ k, k ≠ n → t.dev.ce k = s.dev.ce k) ∧
         (if (s.dev.ce n).snoops = false ∧ (s.dev.ce n).openPage = true then Counted s.dev t.dev 0x5114 (n + 1) (2 ^ 48)
          else t.dev.ctr = s.dev.ctr) ∧
         (if (s.dev.ce n).snoops then t.dev.ce n = { s.dev.ce n with next := some (ceCfgOf c) }
          else (t.dev.ce n).cfg = ceCfgOf c ∧ (t.dev.ce n).next = none ∧
            ((c.P 1).testBit 16 = true → (t.dev.ce n).run = BitVec.ofNat 64 (c.P 3 % 2 ^ bitsOf (c.P 5) 6 0)))) ∧
      (bitsOf (c.P 0) 9 8 = 1 → ∃ t, exec (.ceReadRunning cmd) s = .next t ∧
         Ended s.dev t.dev c stSuccess 0 (s.dev.ce n).atFrame.toNat ∧
         t = s.on { s.dev with cmds := t.dev.cmds, comps := t.dev.comps }) ∧
      (bitsOf (c.P 0) 9 8 = 2 → ∃ t, exec (.ceWriteRunning cmd) s = .next t ∧ Ended s.dev t.dev c stSuccess 0 0 ∧
         t = s.on { s.dev with ces := t.dev.ces, cmds := t.dev.cmds, comps := t.dev.comps } ∧ (∀ k, k ≠ n → t.dev.ce k = s.dev.ce k) ∧
         t.dev.ce n = { s.dev.ce n with setNext := some (BitVec.ofNat 64 (c.P 6)) }))) ∧
  (∀ (s : State) (n kind index seq loc off : Nat) (bs : Bytes), targetPresent s.variant (.ce n) = true →
     targetOffline s.dev (.ce n) = false → (s.dev.ce n).sees kind index = true → (s.dev.ce n).next = none →
     (s.dev.ce n).setNext = none →
     (let fr := if kind = 1 then ceTransfer s.dev n loc off bs.length else some 0
      let kn := seqKind kind (kind = 1 && some (s.dev.ce n).xfer != fr) (s.dev.ce n).lastSeq seq
      fr.isSome = true →
     ∃ t, exec (.ceFrameFeed n kind index seq loc off bs) s = .next t ∧
       (∀ k, k ≠ n → t.dev.ce k = s.dev.ce k) ∧ (t.dev.ce n).cfg = (s.dev.ce n).cfg ∧
       t = s.on { s.dev with ces := t.dev.ces, ctr := t.dev.ctr, log := t.dev.log, marks := t.dev.marks, vals := t.dev.vals } ∧
       (kn = .again → t.dev.ce n = s.dev.ce n ∧ Counted s.dev t.dev 0x5112 (n + 1) 1) ∧
       (kn = .gap → Counted s.dev t.dev 0x5113 (n + 1) 1 ∧
         t.dev.ce n = { s.dev.ce n with lastSeq := some seq, xfer := fr.getD 0, whole := false }) ∧
       (kn = .inOrder → (t.dev.ce n).lastSeq = some seq ∧ (t.dev.ce n).xfer = fr.getD 0 ∧
         (t.dev.ce n).atFrame = (t.dev.ce n).run ∧
         ((s.dev.ce n).cfg.page = 0 → t.dev.ctr = s.dev.ctr ∧ t.dev.log = s.dev.log ∧
           (t.dev.ce n).run = BitVec.ofNat 64 (Machine.crcFeed (s.dev.ce n).cfg.width (s.dev.ce n).cfg.poly.toNat (s.dev.ce n).cfg.refin
             (s.dev.ce n).run.toNat bs)))))

/-! ### Issuers and tiles (ch. 9) -/

/-- R244, R246: an issuer whose wait is over starts its instruction: it is counted among the starters of the counter, and stops at a dead record,
claims from a ready one and waits for one not ready; where a bound lies in a remote window the start waits for it (R326).
R244, R250, R263: a waiting issuer looks again: it goes on once the record is ready, and the time that it waited is counted in OD 0x2095. A dead
counter that it waits for stops it and its job's claims, a complete one releases it, either with the time waited in OD 0x2095, and else it waits on.
Besides the issuer's memories, the job, device memory and the dictionary's counters, only what a read touches may change.
Completes: instructionStart, counterReadyPoll, counterWaitRelease. -/
def Obligations.IssuersStartInstructions : Prop :=
  ∀ (s : State) (code : Nat) (j : Job) (i : IssState) (a : AtInst), issuerJob s.dev code = some (j, i) →
    atInst s.dev j i = some a → mayAct s.dev j i = true →
    (NoTileWaits s.dev → i.stage = .start ∨ i.stage = .released →
      (a.sh.wait = 0 ∨ i.stage = .released ∨ ∃ w, ctrOfJob s.dev j a.sh.wait = some w ∧ ctrComplete s.dev w = true) →
      (let d0 := settleClear a.c.home s.dev
       ctrStarters d0 a.c + 1 < 2 ^ 16 →
       ∃ t, exec (.instructionStart code) s = .next t ∧ t = s.on t.dev ∧
        (Waits s.dev t.dev ∨
         ctrStarters t.dev a.c = ctrStarters d0 a.c + 1 ∧
         t.dev = { s.dev with spad := t.dev.spad, banks := t.dev.banks, jobs := t.dev.jobs, mem := t.dev.mem, ctr := t.dev.ctr,
                              out := t.dev.out, free := t.dev.free, waits := t.dev.waits, gone := t.dev.gone,
                              remote := t.dev.remote, rooms := t.dev.rooms } ∧
         ∀ y ∈ t.dev.jobs, y.id = j.id → ∀ x ∈ y.iss, x.issuer = code →
           x.stage = startedStage t.dev a.c ∧ x.run = [] ∧ x.haloTo = s.dev.num 0x20A0 1 10000))) ∧
    (i.stage = .waitReady →
      (ctrReady s.dev a.c = false → exec (.counterReadyPoll code) s = .next s) ∧
      (ctrReady s.dev a.c = true →
        ∃ t, exec (.counterReadyPoll code) s = .next t ∧ t = s.on { s.dev with jobs := t.dev.jobs, ctr := t.dev.ctr } ∧
          Counted s.dev t.dev 0x2095 (issuerSs code) (waitedFor s.dev code i) ∧
          ∀ y ∈ t.dev.jobs, y.id = j.id → ∀ x ∈ y.iss, x.issuer = code → x.stage = startedStage s.dev a.c)) ∧
    (∀ (w : CtrEntry) (waited : Nat), i.stage = .start → a.sh.wait ≠ 0 → ctrOfJob s.dev j a.sh.wait = some w →
      (let dead := ctrReady s.dev w && ctrDead s.dev w
       (dead = false → ctrComplete s.dev w = false → exec (.counterWaitRelease code waited) s = .next s) ∧
       (dead = true ∨ ctrComplete s.dev w = true →
        ∃ t, exec (.counterWaitRelease code waited) s = .next t ∧ t = s.on { s.dev with jobs := t.dev.jobs, ctr := t.dev.ctr } ∧
         Counted s.dev t.dev 0x2095 (issuerSs code) waited ∧
         (dead = true → ∀ y ∈ t.dev.jobs, y.id = j.id → y.halted = true ∧ ∀ x ∈ y.iss, x.issuer = code → x.stage = .stopped) ∧
         (dead = false → ∀ y ∈ t.dev.jobs, y.id = j.id → ∀ x ∈ y.iss, x.issuer = code → x.stage = .released))))

/-- R245, R248, R253, R262: an issuer claims when its run is empty or the first tile of its run has issued. A claim raises the counter's next by
the grain, an atomic at its home, and adds to the issuer's run exactly the positions below the raw count that are no holes, the holes counted in OD
0x2091; beyond the raw count the issuer turns to sweeping; with a matrix not active the job fails with MATRIX_INACTIVE. A sweep claim with no pass
owed moves the issuer to its next instruction, and one of an owed pass raises the sweep cursor by the grain and holds the positions of its pass that
are no holes.
R254: control core C0 of the home's hub makes such sweep claims when no sharer is left.
R255: a lost issuer that is back in service rejoins with no claims.
Completes: workClaim, sweepClaim, issuerRejoin, homeSweepByC0. -/
def Obligations.ClaimsAdvanceTheCursors : Prop :=
  (∀ (s : State) (code : Nat) (j : Job) (i : IssState) (a : AtInst), issuerJob s.dev code = some (j, i) → code < 0x8000 →
    atInst s.dev j i = some a → mayAct s.dev j i = true → issuerOffline s.dev a.c.home = false → swapHolds s.dev a = false →
    (let d0 := settleClear a.c.home s.dev
     let p := ctrNext d0 a.c
     let n := grainOf a.sh.grain
     let off := ctrSweep d0 a.c % passLen d0 a
     (i.stage = .claim → (i.run = [] ∨ i.due = true) → p + n < 2 ^ 64 →
      ∃ t, exec (.workClaim code) s = .next t ∧
        t = s.on { s.dev with spad := t.dev.spad, banks := t.dev.banks, jobs := t.dev.jobs, ctr := t.dev.ctr } ∧
        ctrNext t.dev a.c = p + n ∧
        counterOf t.dev 0x3042 (issuerSs a.c.home) = counterOf s.dev 0x3042 (issuerSs a.c.home) + 1 ∧
        (matsActive s.dev a = false → JobFails s.dev t.dev j.id stMatrixInactive) ∧
        (matsActive s.dev a = true → ctrRaw d0 a.c ≤ p →
          ∀ y ∈ t.dev.jobs, y.id = j.id → ∀ x ∈ y.iss, x.issuer = code → x.stage = .sweep) ∧
        (matsActive s.dev a = true → p < ctrRaw d0 a.c →
          (let qs := realPositions d0 a p n
           (∀ q ∈ qs, p ≤ q ∧ q < p + n ∧ q < ctrRaw d0 a.c) ∧
           (∃ y ∈ t.dev.jobs, ∃ x ∈ y.iss, y.id = j.id ∧ x = i.claimed qs) ∧
           counterOf t.dev 0x2091 (issuerSs code) =
             counterOf s.dev 0x2091 (issuerSs code) + (inRaw d0 a p n - qs.length)))) ∧
     (i.stage = .sweep → i.run = [] → sweepOwed s.dev j a = false →
      ∃ t, exec (.sweepClaim code) s = .next t ∧ t = s.on { s.dev with jobs := t.dev.jobs } ∧
        ∃ y ∈ t.dev.jobs, ∃ x ∈ y.iss, y.id = j.id ∧ x.issuer = i.issuer ∧ x.pc = i.pc + 1 ∧ x.run = [] ∧
          (x.stage = .start ∨ x.stage = .finished)) ∧
     (i.stage = .sweep → i.run = [] → sweepOwed s.dev j a = true → ctrSweep d0 a.c + n < 2 ^ 64 →
      ∃ t, exec (.sweepClaim code) s = .next t ∧ ctrSweep t.dev a.c = ctrSweep d0 a.c + n ∧
        t = s.on { s.dev with spad := t.dev.spad, banks := t.dev.banks, jobs := t.dev.jobs, ctr := t.dev.ctr } ∧
        ∀ y ∈ t.dev.jobs, y.id = j.id → ∀ x ∈ y.iss, x.issuer = code → x.swept = true ∧
          x.run = (if matsActive s.dev a = false ∨ passRaw d0 a ≤ off then [] else realPositions d0 a off n)))) ∧
  (∀ (s : State) (code : Nat) (j : Job) (i : IssState), issuerJob s.dev code = some (j, i) → i.lost = true →
    issuerOffline s.dev code = false →
    ∃ t, exec (.issuerRejoin code) s = .next t ∧ t = s.on { s.dev with jobs := t.dev.jobs } ∧
      ∀ y ∈ t.dev.jobs, y.id = j.id → ∀ x ∈ y.iss, x.issuer = code → x.lost = false ∧ x.run = []) ∧
  (∀ (s : State) (job ctr : Nat) (j : Job) (g : Program) (a : AtInst), s.dev.jobOf job = some j → s.dev.progOf j.prog = some g →
    atInst s.dev j (homeSlot ctr) = some a → j.stage = .running → j.halted = false →
    (j.iss.find? (fun x => x.issuer = 0x8000 + ctr)).elim true (fun x => x.run.isEmpty) = true → noSharerLeft s.dev j g ctr = true →
    ctrReady s.dev a.c = true → ctrComplete s.dev a.c = false → ctrDead s.dev a.c = false → sweepOwed s.dev j a = true →
    issuerRuns s.dev (actorOf s.dev j (homeSlot ctr)) = true → swapHolds s.dev a = false →
    (let d0 := settleClear a.c.home s.dev
     let n := grainOf a.sh.grain
     let off := ctrSweep d0 a.c % passLen d0 a
     ctrSweep d0 a.c + n < 2 ^ 64 →
     ∃ t, exec (.homeSweepByC0 job ctr) s = .next t ∧ ctrSweep t.dev a.c = ctrSweep d0 a.c + n ∧
       t = s.on { s.dev with spad := t.dev.spad, banks := t.dev.banks, jobs := t.dev.jobs, ctr := t.dev.ctr } ∧
       ∃ y ∈ t.dev.jobs, y.id = j.id ∧ ∃ x ∈ y.iss, x.issuer = 0x8000 + ctr ∧ x.swept = true ∧
         x.run = (if matsActive s.dev a = false ∨ passRaw d0 a ≤ off then [] else realPositions d0 a off n)))

/-- R226, R85, R239, R253: the first claimed tile of an issuer is issued when every unit that it uses is in service and has room, a lane tile to any
stream engine: it takes the next number, leaves the issuer's run and enters its wedges, which take the guard band; a swept position whose bit is
set leaves the run and is not issued. A unit that is gone fails the job with UNIT_OFFLINE, and without room nothing changes; where its activity
vector lies in a remote window the issue waits for it.
R94, R248, R249: a formed tile with something left at a pairing side fails with STREAM_ALIGN. Else it commits by the test-and-set of its bit. Found
set, the tile is a duplicate: it leaves, its writes are discarded and OD 0x2093 counts it. Found clear, it is past its test-and-set, with no write
accepted yet; where an index tensor lies in a remote window the commit waits for it. A write of it to an issuer's memory or to device memory
is accepted once it is there; with the acceptance of its last one, and no message left, it leaves and the counter's committed count rises by one.
Completes: tileIssue, tileCommit, writeAccept. -/
def Obligations.TilesIssueAndCommitOnce : Prop :=
  (∀ (s : State) (code engine : Nat) (j : Job) (i : IssState) (a : AtInst) (q gi gj : Nat) (rest : List Nat),
     issuerJob s.dev code = some (j, i) → atInst s.dev j i = some a → i.run = q :: rest → mayAct s.dev j i = true →
     (isLaneFn a.t.func = true → hubPresent s.variant (engine / 8) = true) →
     gridAt (gridOf a.t (instUnits s.dev a.t) (ctrB0 s.dev a.c) (ctrB1 s.dev a.c)).1
       (gridOf a.t (instUnits s.dev a.t) (ctrB0 s.dev a.c) (ctrB1 s.dev a.c)).2 (ctrLside s.dev a.c) (ctrJlong s.dev a.c) q
       = some (gi, gj) →
     (let ms := tileMacros s.dev a.t a.p gj
      let ws := (ms.map wedgeOfMacro).eraseDups
      let b := sweptClear s.variant j a i q s.dev
      let x := newTile b.2 j a i q gi gj ws engine
      let left (t : State) : Prop := ∃ y ∈ t.dev.jobs, y.id = j.id ∧ ∃ z ∈ y.iss, z.issuer = code ∧ z.run = rest
      (i.swept = false → b = (true, s.dev)) ∧
      (b.1 = false → ∃ t, exec (.tileIssue code engine) s = .next t ∧ t = s.on { b.2 with jobs := t.dev.jobs } ∧ left t) ∧
      (b.1 = true → tileUnitGone s.dev a.t ms ws engine = true → ∃ t, exec (.tileIssue code engine) s = .next t ∧
         t = s.on { b.2 with jobs := t.dev.jobs } ∧ JobFails b.2 t.dev j.id stUnitOffline) ∧
      (b.1 = true → tileUnitGone s.dev a.t ms ws engine = false → tileRoom s.dev a.t ms ws engine = false →
         exec (.tileIssue code engine) s = .next s) ∧
      (b.1 = true → tileUnitGone s.dev a.t ms ws engine = false → tileRoom s.dev a.t ms ws engine = true →
         ∃ t, exec (.tileIssue code engine) s = .next t ∧
           (a.p.hV ≠ 0 ∧ Waits b.2 t.dev ∨
            t.dev.nextTile = b.2.nextTile + 1 ∧ left t ∧
            (a.p.hV = 0 →
              t.dev.tiles = b.2.tiles ++ [x] ∧ x.id = b.2.nextTile ∧ x.stage = .issued ∧
              Counted b.2 t.dev (if i.swept then 0x2094 else 0x2090) x.ss 1 ∧
              (∀ w ∈ ws, (t.dev.wedge w).tiles = (b.2.wedge w).tiles ++ [b.2.nextTile] ∧ (t.dev.wedge w).guard = some x.guard ∧
                (t.dev.wedge w).marks.filter (fun e => !e.2.clear) = (b.2.wedge w).marks.filter (fun e => !e.2.clear) ∧
                ∀ e ∈ (t.dev.wedge w).marks, e.2.clear = true → ∀ m ∈ ms, m / 192 = w → slotOf b.2 m ≠ e.1 / 8) ∧
              (∀ w, w ∉ ws → t.dev.wedge w = b.2.wedge w) ∧
              t.dev.macros = b.2.macros ∧ t.dev.engines = b.2.engines ∧ t.dev.mem = b.2.mem ∧ t.dev.spad = b.2.spad))))) ∧
  ((∀ (s : State) (tile : Nat) (x : Tile), s.dev.tileOf tile = some x → x.stage = .formed → unitsRun s.dev x = true →
     (∀ (key : Nat) (p : Pairing), leftOver s.dev tile = some (key, p) → ∃ t, exec (.tileCommit tile) s = .next t ∧ t = s.on t.dev ∧
       Misaligned s.dev t.dev key x (leftTags x p).1 (leftTags x p).2) ∧
     (∀ d1 : Dev, leftOver s.dev tile = none → setBit s.variant x (fresh s.dev) = (true, false, d1) →
       ∃ t, exec (.tileCommit tile) s = .next t ∧ (∀ y ∈ t.dev.tiles, y.id ≠ tile) ∧ t.dev.spad = d1.spad ∧ t.dev.mem.stack = d1.mem.stack ∧
         t.dev.mem.lines = d1.mem.lines ∧ Counted d1 t.dev 0x2093 x.ss 1) ∧
     (∀ d1 : Dev, leftOver s.dev tile = none → setBit s.variant x (fresh s.dev) = (false, false, d1) →
       ∃ t, exec (.tileCommit tile) s = .next t ∧
         (Waits s.dev t.dev ∨ ∀ y ∈ t.dev.tiles, y.id = tile → y.stage = .writing ∧ y.results = [] ∧ y.acks = []))) ∧
   (∀ (s : State) (tile index : Nat) (x : Tile), s.dev.tileOf tile = some x → x.stage = .writing → index ∉ x.acks →
     (∀ (h o : Nat) (b : Bytes) (al : Alloc) (d1 : Dev), x.writes[index]? = some (.mem h o (.write b)) → s.dev.allocOf h = some al →
       al.kind = .stack → NoTileWaits s.dev → devWrite s.variant al o b (fresh s.dev) = (false, d1) →
       (x.acks.length + 1 ≠ x.writes.length ∨ x.halo ≠ []) → ∃ t, exec (.writeAccept tile index) s = .next t ∧
         t = s.on { d1 with tiles := t.dev.tiles, remote := t.dev.remote } ∧
         t.dev.tileOf tile = some { x with acks := x.acks ++ [index] }) ∧
     (∀ (code addr : Nat) (b : Bytes), x.writes[index]? = some (.spad code addr b) →
      (let d0 := settleClear code s.dev
       ∃ t, exec (.writeAccept tile index) s = .next t ∧
        (x.acks.length + 1 ≠ x.writes.length ∨ x.halo ≠ [] →
          t = s.on { d0 with spad := mwrite d0.spad (spadAddr code addr) b, tiles := t.dev.tiles, waits := false, gone := none,
                             remote := t.dev.remote } ∧
          t.dev.tileOf tile = some { x with acks := x.acks ++ [index] }) ∧
        (x.acks.length + 1 = x.writes.length → x.halo = [] → (∀ y ∈ t.dev.tiles, y.id ≠ tile) ∧
          (x.ss < 256 → counterOf t.dev 0x2092 x.ss = counterOf s.dev 0x2092 x.ss + 1) ∧
          ∀ c, tileCtr s.dev x = some c →
            (let d2 := settleClear c.home { d0 with spad := mwrite d0.spad (spadAddr code addr) b }
             ctrCommitted d2 c + 1 < 2 ^ 64 → ctrCommitted t.dev c = ctrCommitted d2 c + 1))))))

/-- R256 to R259: a message goes to the neighbour's inbox of the facing direction while it holds fewer than 4, and stays while it holds 4; toward a
neighbour out of service its writes are discarded and counted. A tile reads a direction whose inbox holds a message, and again one whose message
another tile has consumed; one that waits for longer than the halo timeout of its issuer's instruction start (R263) for a direction that it reads
fails with HALO_TIMEOUT.
Completes: haloAppend, haloRead, haloTimeout. -/
def Obligations.HaloMessagesExchanged : Prop :=
  (∀ (s : State) (tile dir n : Nat) (x : Tile) (msg : Memory), s.dev.tileOf tile = some x → x.stage = .writing →
    tfind x.halo dir = some msg → neighbour x.issuer dir = some n → x.ss < 256 →
    (targetOffline s.dev (.wedge (n / 16) (n % 16)) = false →
      (tget [] (s.dev.wedge n).inbox (opposite dir)).length < 4 →
      ∃ t, exec (.haloAppend tile dir) s = .next t ∧
        tget [] (t.dev.wedge n).inbox (opposite dir) = tget [] (s.dev.wedge n).inbox (opposite dir) ++ [msg] ∧
        counterOf t.dev 0x2096 x.ss = counterOf s.dev 0x2096 x.ss + 1 ∧
        ∀ y ∈ t.dev.tiles, y.id = tile → tfind y.halo dir = none) ∧
    (targetOffline s.dev (.wedge (n / 16) (n % 16)) = false →
      4 ≤ (tget [] (s.dev.wedge n).inbox (opposite dir)).length → exec (.haloAppend tile dir) s = .next s) ∧
    (targetOffline s.dev (.wedge (n / 16) (n % 16)) = true →
      ∃ t, exec (.haloAppend tile dir) s = .next t ∧ (t.dev.wedge n).inbox = (s.dev.wedge n).inbox ∧
        counterOf t.dev 0x2097 x.ss = counterOf s.dev 0x2097 x.ss + tget 0 x.haloN dir)) ∧
  (∀ (s : State) (tile dir : Nat) (x : Tile), s.dev.tileOf tile = some x → x.stage = .issued →
    (neighbour x.issuer dir).isSome = true → tget [] (s.dev.wedge x.issuer).inbox dir ≠ [] → dir ∉ x.haloRead ∨ dir ∈ x.haloGone →
    ∃ t, exec (.haloRead tile dir) s = .next t ∧ t = s.on { s.dev with tiles := t.dev.tiles } ∧
      t.dev.tileOf tile = some { x with haloRead := x.haloRead.filter (· ≠ dir) ++ [dir], haloGone := x.haloGone.filter (· ≠ dir) }) ∧
  (∀ (s : State) (tile waited dir : Nat) (x : Tile), s.dev.tileOf tile = some x → x.stage = .issued →
    readsDir s.variant s.dev x dir = true →
    dir < 4 → (neighbour x.issuer dir).isSome = true → tget [] (s.dev.wedge x.issuer).inbox dir = [] →
    dir ∉ x.haloRead ∨ dir ∈ x.haloGone → x.haloTo < waited →
    ∃ t, exec (.haloTimeout tile waited) s = .next t ∧ t = s.on t.dev ∧ TileFailed s.dev t.dev x stHaloTimeout ∧
      Counted s.dev t.dev 0x2098 x.ss 1)

/-! ### Pairing, macros and final adders (ch. 2 to 5) -/

/-- R92 to R94: at a pairing side a block and the oldest entry join when their tags match, whichever arrives first; a block without an entry and an
entry without a block wait; a tag that does not match, or a stream that ends with one left over, fails the tile with STREAM_ALIGN. R54: a
threshold-mode block has the tile's exponent and no entry. R284: a block waits while the staging buffer is full, whose size is free
(notes/assumptions/156.md). R299, R326: what is fetched for a side fails the tile when it is poisoned, and is waited for where it lies in a remote
window. Two equal indices of a 2:4 group at a macro: the model's choice (notes/assumptions/131.md).
Completes: blockPairing, scaleEntryArrival. -/
def Obligations.PairingFollowsTags : Prop :=
  ∀ (s : State) (at_ : PairIn) (tile : Nat) (x : Tile) (p : Pairing), s.dev.tileOf tile = some x → x.stage = .issued →
    feeds s.dev x at_ = true → pairRuns s.dev at_ = true → pairingFor s.dev (pairKey at_) tile = some p →
    (∀ (n : BlockAt) (b : DataBlock) (d : Dev), p.dataEnded = false → BlockComes s.variant s.dev at_ x n b d →
      (x.inst.func ≠ fMTHR → x.inst.func ≠ fMPRED → ∀ (e : ScaleEntry) (rest : List ScaleEntry), p.scales = e :: rest →
        ∃ t, exec (.blockPairing at_ tile (some n)) s = .next t ∧ t = s.on t.dev ∧
          if e.tag = b.tag then Joined d t.dev at_ x { p with scales := rest } b e.exp
          else Misaligned d t.dev (pairKey at_) x b.tag.toNat e.tag.toNat) ∧
      (x.inst.func ≠ fMTHR → x.inst.func ≠ fMPRED → p.scales = [] →
        ∃ t, exec (.blockPairing at_ tile (some n)) s = .next t ∧ t = s.on t.dev ∧
        if p.scaleEnded then Misaligned d t.dev (pairKey at_) x b.tag.toNat 0xFF
        else t.dev = { d with pairs := t.dev.pairs, remote := t.dev.remote } ∧
          Paired d t.dev (pairKey at_) { p with waiting := p.waiting ++ [b] }) ∧
      (x.inst.func = fMTHR ∨ x.inst.func = fMPRED → ∃ t, exec (.blockPairing at_ tile (some n)) s = .next t ∧ t = s.on t.dev ∧
        Joined d t.dev at_ x { p with scaleEnded := true } b (BitVec.ofNat 8 x.prm.texp))) ∧
    (∀ n : BlockAt, inputFull s.dev at_ = true → exec (.blockPairing at_ tile (some n)) s = .next s) ∧
    (∀ n : BlockAt, p.dataEnded = false → takesBlock s.dev x at_ n = true → inputFull s.dev at_ = false → n.product ≠ 2 →
      blockHere s.variant s.dev x (pairOpnd at_) n.k n.c1 = true →
      (let r := sideBlock s.variant x at_ n (fresh s.dev)
       ∃ t, exec (.blockPairing at_ tile (some n)) s = .next t ∧
         (r.2.waits = true → Waits s.dev t.dev) ∧ (r.2.waits = false → r.1 = none → Poisoned t.dev x))) ∧
    (p.dataEnded = false → ∃ t, exec (.blockPairing at_ tile none) s = .next t ∧ t = s.on t.dev ∧
      match p.scales with
      | e :: _ => Misaligned s.dev t.dev (pairKey at_) x 0xFF e.tag.toNat
      | [] => t.dev = { s.dev with pairs := t.dev.pairs } ∧ Paired s.dev t.dev (pairKey at_) { p with dataEnded := true }) ∧
    (∀ (n : BlockAt) (e : ScaleEntry) (d : Dev), p.scaleEnded = false → ScaleComes s.variant s.dev at_ x n e d →
      (∀ (b : DataBlock) (rest : List DataBlock), p.waiting = b :: rest →
        ∃ t, exec (.scaleEntryArrival at_ tile (some n)) s = .next t ∧ t = s.on t.dev ∧
          if e.tag = b.tag then Joined d t.dev at_ x { p with waiting := rest } b e.exp
          else Misaligned d t.dev (pairKey at_) x b.tag.toNat e.tag.toNat) ∧
      (p.waiting = [] → p.scales.length < 8 → ∃ t, exec (.scaleEntryArrival at_ tile (some n)) s = .next t ∧ t = s.on t.dev ∧
        if p.dataEnded then Misaligned d t.dev (pairKey at_) x 0xFF e.tag.toNat
        else t.dev = { d with pairs := t.dev.pairs, remote := t.dev.remote } ∧
          Paired d t.dev (pairKey at_) { p with scales := p.scales ++ [e] })) ∧
    (∀ n : BlockAt, p.scaleEnded = false → takesBlock s.dev x at_ n = true → n.product ≠ 2 →
      (let r := sideScale s.variant x at_ n (fresh s.dev)
       ∃ t, exec (.scaleEntryArrival at_ tile (some n)) s = .next t ∧
         (r.2.waits = true → Waits s.dev t.dev) ∧ (r.2.waits = false → r.1 = none → Poisoned t.dev x))) ∧
    (p.scaleEnded = false → ∃ t, exec (.scaleEntryArrival at_ tile none) s = .next t ∧ t = s.on t.dev ∧
      match p.waiting with
      | b :: _ => Misaligned s.dev t.dev (pairKey at_) x b.tag.toNat 0xFF
      | [] => t.dev = { s.dev with pairs := t.dev.pairs } ∧ Paired s.dev t.dev (pairKey at_) { p with scaleEnded := true })

/-- R36 to R38, R83, R108: a macro with an empty input takes the oldest paired block of its tile, its outlier rows masked to zero, with the outlier
values of its vector; an all-zero block issues no step and is counted in OD 0x2023, and residue passes are counted in OD 0x2033; an outlier tag that
does not match fails the tile. R284: with its output stage full it takes none. R299, R326: poisoned outlier values fail the tile, and those of a
remote window are waited for. How much the final adder takes beyond it is free (notes/assumptions/79.md).
Completes: blockAdmit. -/
def Obligations.BlocksAdmittedInOrder : Prop :=
  ∀ (s : State) (m tile vec ovec : Nat) (x : Tile) (b : DataBlock) (e : BitVec 8)
    (rest : List (DataBlock × BitVec 8)) (mat : Matrix),
    s.dev.tileOf tile = some x → x.stage = .issued → (tget {} s.dev.pairs m).tile = tile →
    (tget {} s.dev.pairs m).paired = (b, e) :: rest →
    serves x (s.dev.mac m).active.matrix b.product = true → s.dev.matOf (s.dev.mac m).active.matrix = some mat →
    (s.dev.mac m).blk = none → (s.dev.mac m).reload = false → (s.dev.mac m).retire = false →
    forcedFirst s.dev x m = false → (s.dev.mac m).active.st = .ready → vec < tileVecs x.inst x.gi x.b0 →
    (m, fedKey b.product vec) ∉ x.fed → b.c0 = 32 * (s.dev.mac m).active.rb → b.c1 = x.vecAt vec → domRuns s.dev (domWedge (wedgeOfMacro m)) = true →
    (let k := (s.dev.mac m).active
     let product := b.product
     let str := streamsOutliers x product mat
     let rows := if str then outlierRows mat k.rb else []
     let q := maskedBlock b rows
     let ss := ssFacet (facetOfMacro m)
     let off := maskedUnits x k product vec = 1024
     (stageFull s.dev m = true → exec (.blockAdmit m tile vec ovec) s = .next s) ∧
     (stageFull s.dev m = false → str = true → product ≠ 2 →
       (let r := fetchOutliers s.variant x mat k.rb ovec (fresh s.dev)
        ∃ t, exec (.blockAdmit m tile vec ovec) s = .next t ∧ (r.2.waits = true → Waits s.dev t.dev) ∧
          (r.2.waits = false → r.1.2 = true → Poisoned t.dev x))) ∧
     ∀ (side : OutlierSide) (d : Dev), stageFull s.dev m = false → SideComes s.variant s.dev x product mat k.rb ovec side d →
     (str = true → side.tag.toNat ≠ x.vecAt vec % 16 → ∃ t, exec (.blockAdmit m tile vec ovec) s = .next t ∧ t = s.on t.dev ∧
        Misaligned d t.dev m x (x.vecAt vec % 16) side.tag.toNat) ∧
     ((str = false ∨ side.tag.toNat = x.vecAt vec % 16) → ∃ t blk, exec (.blockAdmit m tile vec ovec) s = .next t ∧
        t = s.on { d with pairs := t.dev.pairs, macros := t.dev.macros, ctr := t.dev.ctr, remote := t.dev.remote } ∧
        Paired d t.dev m { tget {} s.dev.pairs m with paired := rest } ∧ OnlyMacro d t.dev m ∧
        (t.dev.mac m).blk = some blk ∧ (t.dev.mac m).active = k ∧
        blk.tile = tile ∧ blk.product = product ∧ blk.vec = vec ∧ blk.rb = k.rb ∧ blk.cb = k.cb ∧ blk.exp = e ∧ blk.amb = [] ∧ blk.sums = [] ∧
        blk.outRows = outlierVals rows (if product = 2 then 32 else x.b2 - 32 * k.rb) side ∧ blk.outExp = side.exp ∧
        blk.termsDone = rows.isEmpty ∧
        (xoOutliers s.dev m = false ∨ rows = [] → blk.q = q ∧ blk.pass = (if off then 3 else 0) ∧
          blk.plane = (if allZero q = true ∨ off then 8 else 0) ∧
          if allZero q then Counted d t.dev 0x2023 ss 1 else t.dev.ctr = d.ctr) ∧
        (xoOutliers s.dev m = true → rows ≠ [] → counterOf t.dev 0x2033 ss = counterOf d 0x2033 ss + 3)))

/-- R37 to R51, R58, R134, R419: a plane runs when its domain's credit lets its steps start, which it pays for, drawing the energy of Tables 2.8 and
5.9. A plane with no row driven takes no step; one in blend mode takes one, whose reads without an error are exact; a fallback or exact plane takes
two and adds its exact value. A plane with ambiguous reads waits for its re-resolution, one exact step after which the ambiguous pairs stand at
their exact values.
Completes: macroPlaneStep, reResolutionStep. -/
def Obligations.PlanesAddTheirValues : Prop :=
  ∀ (s : State) (m : Nat) (b : Blk) (x : Tile) (product : Nat), (s.dev.mac m).blk = some b → s.dev.tileOf b.tile = some x →
    blkProduct x (s.dev.mac m).active b = some product →
    (let k := (s.dev.mac m).active
     let w := wedgeOfMacro m
     let pl := planeOf b.q b.plane
     let rows := rowsOn pl
     let kind := planeKind s.dev m x b rows.length
     let e := macEnergy s.dev (hubOfWedge w) x.inst.phase
     let masked := maskedUnits x k product b.vec
     let ss := ssFacet (facetOfWedge w)
     (∀ errs : List (Nat × Nat × Rat), b.plane < 8 → b.amb = [] → mayStep s.dev (domWedge w) e kind.steps = true →
        ∃ t, exec (.macroPlaneStep m errs) s = .next t ∧
          t = s.on { s.dev with macros := t.dev.macros, pow := t.dev.pow, ctr := t.dev.ctr, log := t.dev.log, marks := t.dev.marks,
                                free := t.dev.free } ∧
          OnlyMacro s.dev t.dev m ∧ (t.dev.mac m).active = k ∧
          (if kind.steps = 0 then t.dev.pow = s.dev.pow
           else Paid s.dev t.dev (domWedge w) e kind.steps (kind.pj k.packing masked)) ∧
          counterOf t.dev 0x206C ss = counterOf s.dev 0x206C ss + kind.steps * masked ∧
          (let put (sums : List (Tab Int)) := nextPass (lastPass s.dev m b) 3 { b with plane := b.plane + 1, sums := sums }
           (kind = .skip → (t.dev.mac m).blk = some (put b.sums) ∧ counterOf t.dev 0x2022 ss = counterOf s.dev 0x2022 ss + 1) ∧
           (kind = .fallback ∨ kind = .exact →
             (t.dev.mac m).blk = some (put (setPass b.sums b.pass (addPlane x k product b rows []))) ∧
             (let c := if kind = .fallback then 0x2021 else 0x2028; counterOf t.dev c ss = counterOf s.dev c ss + 1)) ∧
           (kind = .blend → counterOf t.dev 0x2020 ss = counterOf s.dev 0x2020 ss + 1 ∧
             (errs = [] → marksFor s.dev m x.id = [] →
               (t.dev.mac m).blk = some (put (setPass b.sums b.pass (addPlane x k product b rows []))) ∧
               t.dev.log = s.dev.log)))) ∧
     (b.amb ≠ [] → mayStep s.dev (domWedge w) e 1 = true →
        ∃ t b', exec (.reResolutionStep m) s = .next t ∧
          t = s.on { s.dev with macros := t.dev.macros, pow := t.dev.pow, ctr := t.dev.ctr } ∧ OnlyMacro s.dev t.dev m ∧
          Paid s.dev t.dev (domWedge w) e 1 (stepPj 48 masked) ∧ counterOf t.dev 0x2025 ss = counterOf s.dev 0x2025 ss + 1 ∧
          (t.dev.mac m).blk = some b' ∧ b'.amb = [] ∧ b'.tile = b.tile ∧ b'.vec = b.vec ∧
          ∀ (u i : Nat) (c : Nat × Nat × Nat × Nat), b.amb = [(u, i)] → (sensePairs k.packing)[i]? = some c →
            (let j := u * unitsPer k.packing + c.2.2.2
             let v := planeWeight (b.plane - 1) * ((2 ^ c.2.2.1 : Nat) : Int) *
               (pairExact s.dev m x.id u c (planeOf b.q (b.plane - 1))).1
             ∀ j', tget 0 (b'.sums.getD b.pass []) j' = tget 0 (b.sums.getD b.pass []) j' + if j' = j then v else 0)))

/-- R49, R52, R74, R81: a recalibration request becomes a calibration request. The outlier terms of a finished block are formed from its outlier rows,
and its output stage waits for them, a wait counted once in OD 0x2034; it then forms the partial of every unmasked unit and frees the macro's input.
That a block's wait counts once is the model's reading (notes/assumptions/127.md).
Completes: recalTrigger, outlierTerm, outputStagePartial. -/
def Obligations.BlocksBecomePartials : Prop :=
  (∀ (s : State) (m : Nat), (s.dev.mac m).recReq = true →
    ∃ t, exec (.recalTrigger m) s = .next t ∧ t = s.on { s.dev with macros := t.dev.macros } ∧ OnlyMacro s.dev t.dev m ∧
      t.dev.mac m = { s.dev.mac m with recReq := false, cal := { (s.dev.mac m).cal with req := true } }) ∧
  (∀ (s : State) (m : Nat) (b : Blk) (x : Tile) (product : Nat), (s.dev.mac m).blk = some b → s.dev.tileOf b.tile = some x →
    blkProduct x (s.dev.mac m).active b = some product → domRuns s.dev (domWedge (wedgeOfMacro m)) = true →
    (let k := (s.dev.mac m).active
     let ss := ssFacet (facetOfMacro m)
     let on (j : Nat) : Prop := j < k.valid ∧ unitOn x k product b.vec j = true
     (b.termsDone = false → (xoOutliers s.dev m = false ∨ 8 ≤ b.plane ∧ 3 ≤ b.pass ∧ b.amb = []) →
        ∃ t ts, exec (.outlierTerm m) s = .next t ∧ t = s.on { s.dev with macros := t.dev.macros, ctr := t.dev.ctr } ∧
          OnlyMacro s.dev t.dev m ∧ t.dev.mac m = { s.dev.mac m with blk := some { b with terms := ts, termsDone := true } } ∧
          (∀ j, on j → tget 0 ts j = scaleOut (outlierSum s.dev m b j) b.outExp (tget 0 k.scales j)) ∧
          (∀ j, ¬ on j → tget 0 ts j = 0) ∧
          Counted s.dev t.dev 0x2032 ss (((List.range k.valid).filter (fun j => unitOn x k product b.vec j)).length)) ∧
     (8 ≤ b.plane → b.amb = [] → lastPass s.dev m b ≤ b.pass →
        (b.termsDone = false → b.waited = false → ∃ t, exec (.outputStagePartial m) s = .next t ∧
          t = s.on { s.dev with macros := t.dev.macros, ctr := t.dev.ctr } ∧ OnlyMacro s.dev t.dev m ∧
          t.dev.mac m = { s.dev.mac m with blk := some { b with waited := true } } ∧ Counted s.dev t.dev 0x2034 ss 1) ∧
        (b.termsDone = false → b.waited = true → exec (.outputStagePartial m) s = .next s) ∧
        (b.termsDone = true → ∃ t y, exec (.outputStagePartial m) s = .next t ∧
          t = s.on { s.dev with macros := t.dev.macros, tiles := t.dev.tiles } ∧ OnlyMacro s.dev t.dev m ∧
          t.dev.mac m = { s.dev.mac m with blk := none } ∧ t.dev.tileOf b.tile = some y ∧
          y = { x with parts := y.parts, fed := x.fed ++ [(m, fedKey product b.vec)] } ∧
          (∀ j, on j → tget 0 y.parts (partKey product b.vec (b.cb * unitsOf k.packing + j) b.rb) = partialOf x k b j)))))

/-- R52, R53, R498: when every partial of a column block and vector is there, the final adder reduces it, once: the sum of a column is the FP32 sum of
its partials in the order of the tree, or in threshold mode the INT32 sum, whose code is the result; the tile has one item less to form.
R74, R136, R137: the correction path, with no outlier term of its wedge to form, serves the audit of a drawn neuron whose gate value is formed: the
neuron leaves the open audits, counted in OD 0x2069, and a gate value not below the threshold is a miss, counted in OD 0x206A, whose neuron is
computed.
Completes: finalAdderReduce, auditServe. -/
def Obligations.FinalAddersReduceAndAudit : Prop :=
  (∀ (s : State) (tile colBlock vec : Nat) (order : RedTree) (x : Tile) (m : Matrix), s.dev.tileOf tile = some x → x.stage = .issued →
     isMacroFn x.inst.func = true → x.inst.func ≠ fMFUSE → colBlock < 2 ^ 32 → colBlock = x.gj →
     s.dev.matOf (matOfProduct x 0) = some m → serves x m.id 0 = true → (colBlock, vec) ∉ x.reduced →
     (∀ rb, rb < m.rowBlocks → (m.placed rb colBlock, fedKey 0 vec) ∈ x.fed) → treeOver m.rowBlocks order = true →
     domRuns s.dev (domWedge (wedgeOfMacro (m.placed 0 colBlock))) = true → (x.items ≤ 1 → x.strictMiss = false) →
     (let cols := blockCols m colBlock
      let ok := cols.filter (fun c => decide (c < x.b1))
      ∃ t y, exec (.finalAdderReduce tile colBlock vec order) s = .next t ∧
       t = s.on { s.dev with tiles := t.dev.tiles, ctr := t.dev.ctr, free := t.dev.free, issues := t.dev.issues,
                             wedges := t.dev.wedges } ∧
       t.dev.tileOf tile = some y ∧ y.reduced = x.reduced ++ [(colBlock, vec)] ∧ y.items = x.items - 1 ∧
       y.stage = (if x.items ≤ 1 then .formed else .issued) ∧
       (isThreshold x = false → x.inst.rowfn = 0 → x.prm.hV = 0 → formsOut x = true →
         ∀ c ∈ ok, tget 0 y.outs (outKey 0 vec c) =
           f32canon (treeSum (fun rb => tget 0 x.parts (partKey 0 vec c rb)) order)) ∧
       (isThreshold x = true → y.results = x.results ++
         fieldResults x ((descIn (tileDescs s.dev x) (x.inst.opnd 4)).elim 3 (fun d => d.fmt)) (if pairForm x then 2 else 1) vec ok
           (ok.map (fun c => (c, thresholdField s.dev x c (intTotal x 0 vec c m.rowBlocks))))))) ∧
  (∀ (s : State) (tile neuron : Nat) (x : Tile) (g : W32) (m : Matrix), s.dev.tileOf tile = some x → neuron ∈ x.drawn →
     tfind x.outs (outKey 2 (neuron / 2 ^ 32) (neuron % 2 ^ 32)) = some g → s.dev.matOf (x.inst.opnd 2) = some m →
     (let w := wedgeOfMacro (m.placed 0 (neuron % 2 ^ 32 / unitsOf m.packing))
      let ss := ssFacet (facetOfWedge w)
      let tau := ((issuesFor s.dev x).find? (fun i => i.drawn.contains (x.neuronKey neuron))).elim
        (BitVec.ofNat 32 (s.dev.num 0x2063 x.inst.phase 0)) (fun i => i.tau)
      let miss : Bool := !(f32 g).isNan && !(f32 tau).isNan && !(f32 g).lt (f32 tau)
      domRuns s.dev (domWedge w) = true → (∀ n, n / 192 = w → termsDue s.dev n = false) →
      ∃ t y, exec (.auditServe tile neuron) s = .next t ∧ t.dev.tileOf tile = some y ∧
        y.drawn = x.drawn.filter (fun k => decide (k ≠ neuron)) ∧ tget 3 y.codes neuron = (if miss then 3 else codeQuiet) ∧
        counterOf t.dev 0x2069 ss = counterOf s.dev 0x2069 ss + 1 ∧
        counterOf t.dev 0x206A ss = counterOf s.dev 0x206A ss + if miss then 1 else 0))

/-! ### Forming sides (ch. 4) -/

/-- R99 to R101, R103, R104, R106, R108, R231: a forming side of a tile reads the exponents of every position that it forms, and the settings, at
its start and sends its scales; each element then leaves once, quantised under its block's exponent, a clip counted in OD 0x2041 and a non-finite
value in OD 0x2046, an outlier value under the exponent of its row of tiles, its clip counted in OD 0x2047; an element of a fused pair's
intermediate waits while a staging buffer that takes it is full. When every element of a part has left, the tracker takes the part's new entries
unless it is frozen, and with the last part the side's issue ends; a miss flags a lenient tile and fails a strict one once its last side has written
its entries. A tile's miss counts at the first side that meets it, and a row of tiles has one outlier exponent: the model's choices
(notes/assumptions/132.md, notes/assumptions/133.md).
Completes: formingIssueStart, quantiseElement, formingIssueEnd. -/
def Obligations.FormingIssuesQuantise : Prop :=
  ∀ (s : State) (engine : Bool) (unit tile : Nat) (x : Tile), let q := formingSide engine unit
    s.dev.tileOf tile = some x → domRuns s.dev (quantDom q) = true → formSs q < 256 →
    (x.stage = .issued → q ∈ formSides s.dev x → formingOf s.dev q tile = none → formEnded x q = false →
      (∀ p, p < 2 → ∀ i ∈ formPositions s.dev x p q, i < 2 ^ 32) →
      ∃ t f y, exec (.formingIssueStart engine unit tile) s = .next t ∧
        t = s.on { s.dev with quants := t.dev.quants, outVecs := t.dev.outVecs, out := t.dev.out, tiles := t.dev.tiles } ∧
        (∀ q', q' ≠ q → t.dev.quant q' = s.dev.quant q') ∧
        t.dev.quant q = { s.dev.quant q with forming := (s.dev.quant q).forming ++ [f] } ∧
        f.tile = tile ∧ f.seen = [] ∧ f.amax = [] ∧ f.clips = [] ∧ f.nonfin = [] ∧ f.headroom = s.dev.num 0x2040 1 1 ∧
        f.strict = (x.inst.strict || decide (s.dev.num 0x2040 2 0 = 1)) ∧
        t.dev.tileOf tile = some y ∧ y = { x with results := y.results, midExp := y.midExp, midOutExp := y.midOutExp } ∧
        ∀ p i, p < 2 → i ∈ formPositions s.dev x p q →
          (let e := entryExp s.dev q x ((formRange s.dev x p).1 + i) (seedSkip s.dev x p + i)
           tget 0 f.exps (posKey p i) = e ∧ ∀ vec, vec < formVecs x →
             if p = 1 then tget 0 y.midExp (midKey vec i) = e else resultAt x 5 i (x.rowAt vec) e.toNat ∈ y.results)) ∧
    (∀ (f : Forming) (part vec pos : Nat), formingOf s.dev q tile = some f → vec < formVecs x → partForms x part = true →
      (pos < 2 ^ 32 → midHeld s.dev x part pos = true → exec (.quantiseElement q tile part vec pos) s = .next s) ∧
      (pos < 2 ^ 32 → pos ∈ formCols s.dev x part q → seenKey part vec pos ∉ f.seen → midHeld s.dev x part pos = false →
        valueReady x part vec pos (partUnits s.dev x part) = true → pos ∉ f.list part →
        (let v := tget 0 x.outs (outKey part vec pos)
         let e := quantElem 127 v (tget 0 f.exps (posKey part (pos / 32)))
         let b := BitVec.ofInt 8 e.1
         ∃ t, exec (.quantiseElement q tile part vec pos) s = .next t ∧
          t = s.on { s.dev with quants := t.dev.quants, out := t.dev.out, tiles := t.dev.tiles, ctr := t.dev.ctr } ∧
          (∀ q', q' ≠ q → t.dev.quant q' = s.dev.quant q') ∧ (t.dev.quant q).track = (s.dev.quant q).track ∧
          formingOf t.dev q tile = some (f.add (posKey part (pos / 32)) vec (seenKey part vec pos) v e) ∧
          (if part = 1 then t.dev.out = s.dev.out ++ [.element q vec pos b] ∧
             t.dev.tileOf tile = some { x with mid := tset x.mid (midKey vec pos) b }
           else t.dev.out = s.dev.out ∧
             t.dev.tileOf tile = some { x with results := x.results ++ [resultAt x 4 pos (x.rowAt vec) b.toNat] }) ∧
          counterOf t.dev 0x2041 (formSs q) = counterOf s.dev 0x2041 (formSs q) + (if e.2.1 then 1 else 0) ∧
          counterOf t.dev 0x2046 (formSs q) = counterOf s.dev 0x2046 (formSs q) + (if e.2.2 then 1 else 0))) ∧
      (∀ (i : Nat) (o : OutVec), pos = 2 ^ 32 + i → outVecOf s.dev x part = some o → i ∈ formPlaces (f.list part) s.dev x part q →
        seenKey part vec (2 ^ 33 + i) ∉ f.seen → domRuns s.dev (quantDom o.quant) = true →
        (let col := nth 0 (f.list part) i
         let v := tget 0 x.outs (outKey part vec col)
         let e := quantElem 32767 v o.exp
         let b := BitVec.ofInt 16 e.1
         valueReady x part vec col (partUnits s.dev x part) = true →
         ∃ t, exec (.quantiseElement q tile part vec pos) s = .next t ∧
          t = s.on { s.dev with quants := t.dev.quants, outVecs := t.dev.outVecs, out := t.dev.out, tiles := t.dev.tiles,
                                ctr := t.dev.ctr } ∧
          outVecOf t.dev x part = some { o with parts := o.parts.map (fun p => if p.tile = x.id then p.add vec i v e else p) } ∧
          (part = 1 → t.dev.tileOf tile = some { x with midOut := tset x.midOut (midKey vec i) b }) ∧
          (part ≠ 1 → t.dev.tileOf tile = some { x with results := x.results ++ [resultAt x 11 i (x.rowAt vec) b.toNat] }) ∧
          (let ss := formSs o.quant
           counterOf t.dev 0x2047 ss = counterOf s.dev 0x2047 ss + (if e.2.1 then 1 else 0))))) ∧
    (∀ f : Forming, formingOf s.dev q tile = some f →
      (let ps := [1, 0].filter (fun p => !f.ended.contains p && partLeft s.dev x p)
       let js := (ps.map (judgeAll s.dev x f)).flatten
       let missed := js.any (fun j => j.2.miss) ||
         ps.any (fun p => f.clips.any (fun e => e.1 / 65536 = posKey p outPos && decide (0 < e.2)))
       let ends : Bool := f.ended.length + ps.length = 2
       (ps = [] → exec (.formingIssueEnd engine unit tile) s = .next s) ∧
       (ps ≠ [] → ∃ t, exec (.formingIssueEnd engine unit tile) s = .next t ∧
        (if ends then ∀ g ∈ (t.dev.quant q).forming, g.tile ≠ tile
         else formingOf t.dev q tile = some { f with ended := f.ended ++ ps }) ∧
        (outVecOf s.dev x 0 = none → outVecOf s.dev x 1 = none →
          (t.dev.quant q).track = if f.trk = 2 then (s.dev.quant q).track
            else js.foldl (fun r j => tput {} r j.1 j.2.entry) (s.dev.quant q).track) ∧
        (missed = true → x.smiss = false → x.strictMiss = false →
          counterOf t.dev 0x2043 (formSs q) = counterOf s.dev 0x2043 (formSs q) + 1) ∧
        (missed = true → f.strict = true → ends = true → x.items ≤ 1 → Poisoned t.dev x) ∧
        (missed = true → f.strict = true → (ends = false ∨ 1 < x.items) →
          ∃ y, t.dev.tileOf tile = some y ∧ y.strictMiss = true ∧ y.items = if ends then x.items - 1 else x.items) ∧
        (missed = false ∨ f.strict = false → x.strictMiss = false →
          t = s.on { s.dev with quants := t.dev.quants, outVecs := t.dev.outVecs, tiles := t.dev.tiles, ctr := t.dev.ctr,
                                log := t.dev.log } ∧
          t.dev.tileOf tile = some (if ends then
              { x with reduced := x.reduced ++ [(2 ^ 40 + q, 0)], items := x.items - 1,
                       stage := if x.items ≤ 1 then .formed else x.stage, smiss := x.smiss || missed }
            else { x with smiss := x.smiss || missed })))))

/-- R88, R109, R500: the conversion DMA of a hub moves one block between the host and a pair of tensors in device memory: MXINT8 goes
through as it is,
or under the OCP convention with its exponent moved by 6, a block with no code on the other side leaving as NaN or as zero and counted; a float
format goes out encoded, and comes in fitted to a block. What comes in is written, the elements to the data tensor and the exponent to the scale
tensor. Where the block's place is no multiple of 32, or the scale tensor has another shape, that is the model's choice (notes/assumptions/154.md).
Completes: conversionDmaBlock. -/
def Obligations.ConversionsMoveBlocks : Prop :=
  ∀ (s : State) (hub fmt data scale : Nat) (elems : List (BitVec 32)) (exp : BitVec 8) (y : List Nat) (x : Desc × Alloc),
    NoTileWaits s.dev → targetOffline s.dev (.hub hub) = false → dmaTensor s.dev data = some x → inTensor x.1 y = true →
    (∀ q : Desc × Alloc, dmaTensor s.dev scale = some q → x.1.fmt = 0 → q.1.fmt = 0xA → x.1.use = 1 → q.1.use = 1 →
      (let ocp := x.1.ocp || q.1.ocp
       let es := elems.take (blockLen x.1 y)
       let ss := ssHub hub
       ∃ (t : State) (d : Dev) (e : BitVec 8) (bs : List (BitVec 8)),
        exec (.conversionDmaBlock hub fmt false elems exp ⟨data, scale, y⟩) s = .next t ∧
        t = s.on { s.dev with mem := t.dev.mem, ctr := t.dev.ctr, out := t.dev.out, gone := t.dev.gone } ∧
        d = { s.dev with ctr := d.ctr } ∧
        t.dev.mem = (dmaWrite s.variant q.1 q.2 (y.set q.1.kdim (y.getD q.1.kdim 0 / 32)) [e.toNat]
          (dmaWrite s.variant x.1 x.2 y (bs.map BitVec.toNat) d)).mem ∧
        t.dev.out.getLast? = some (.dma hub e (bs.map (fun b => b.setWidth 32))) ∧
        (fmt = 0 → ocp = false ∨ exp = 0xFF → e = exp ∧ bs = es.map (fun w => w.setWidth 8) ∧ d.ctr = s.dev.ctr) ∧
        (fmt = 0 → ocp = true → exp.toNat ≤ 5 → e = 0 ∧ bs = es.map (fun _ => 0) ∧ Counted s.dev d 0x2048 ss 1) ∧
        (fmt = 0 → ocp = true → 5 < exp.toNat → exp ≠ 0xFF → e = exp - 6 ∧ bs = es.map (fun w => w.setWidth 8) ∧ d.ctr = s.dev.ctr) ∧
        (fmt ≠ 0 →
          (let b := fitBlock (es.map (fun w => toF32 (Fp.decode (srcFmt fmt) w.toNat)))
           e = b.1 ∧ bs = b.2.1.map (fun r => BitVec.ofInt 8 r.1) ∧
           counterOf d 0x2041 ss = counterOf s.dev 0x2041 ss + (b.2.1.filter (fun r => r.2.1)).length ∧
           counterOf d 0x2046 ss = counterOf s.dev 0x2046 ss + (b.2.1.filter (fun r => r.2.2)).length)))) ∧
    (let r := dmaRead s.variant hub x.1 x.2 y (blockLen x.1 y) s.dev
     let es := r.1.map (exportBits fmt x.1)
     (fmt ≠ 0 → r.2.1 = false →
       ∃ t, exec (.conversionDmaBlock hub fmt true elems exp ⟨data, scale, y⟩) s = .next t ∧
        t = s.on { s.dev with mem := t.dev.mem, ctr := t.dev.ctr, out := t.dev.out, gone := t.dev.gone, free := t.dev.free } ∧
        t.dev.out.getLast? = some (.dma hub 0 (es.map (fun w => BitVec.ofNat 32 (Fp.encode (srcFmt fmt) (f32 w)))))) ∧
     (∀ q : Desc × Alloc, fmt = 0 → dmaTensor s.dev scale = some q →
       (let ocp := x.1.ocp || q.1.ocp
        let r2 := dmaRead s.variant hub q.1 q.2 (y.set q.1.kdim (y.getD q.1.kdim 0 / 32)) 1 r.2.2
        let e := BitVec.ofNat 8 (nth 0 r2.1 0)
        let low := es.map (fun w => (w.setWidth 8).setWidth 32)
        r.2.1 = false → r2.2.1 = false →
        ∃ t, exec (.conversionDmaBlock hub fmt true elems exp ⟨data, scale, y⟩) s = .next t ∧
         t = s.on { s.dev with mem := t.dev.mem, ctr := t.dev.ctr, out := t.dev.out, gone := t.dev.gone, free := t.dev.free } ∧
         (ocp = false ∨ e = 0xFF → t.dev.out.getLast? = some (.dma hub e low) ∧ t.dev.ctr = r2.2.2.ctr) ∧
         (ocp = true → 0xF9 ≤ e.toNat → e ≠ 0xFF → t.dev.out.getLast? = some (.dma hub 0xFF low) ∧
           Counted r2.2.2 t.dev 0x2046 (ssHub hub) 1) ∧
         (ocp = true → e.toNat < 0xF9 → t.dev.out.getLast? = some (.dma hub (e + 6) low) ∧ t.dev.ctr = r2.2.2.ctr))))

/-! ### Stream engines (ch. 6, 7) -/

/-- R187, R205, R299: an operand element of an issued tile that is not poisoned goes to the tile's stream, or into an operand input of the lane that runs an
item of the tile; poison fails the tile, and an element of a remote window is waited for (R326). Besides, only what a read touches may change.
R145 to R151, R164: an issued tile's instruction enters its engine's dispatcher with its items; its window is filled once; the oldest item goes to
the next lane of the ring with room; a free lane begins its oldest item, without a context of the tile with none of its stationary rows, and an idle one steals the youngest item of the
neighbour that holds more.
Completes: operandFetch, dispatchInstruction, windowFill, itemDeal, itemStart, workSteal. -/
def Obligations.OperandsAndItemsReachLanes : Prop :=
  (∀ (s : State) (tile opnd : Nat) (coord : List Int) (x : Tile), s.dev.tileOf tile = some x → x.stage = .issued →
     haloHere s.variant s.dev x opnd coord = true → (∀ e, x.engine = some e → domRuns s.dev (domEngine e) = true) → NoTileWaits s.dev →
     (let r := fetchOperand s.variant x opnd coord (fresh s.dev)
      (r.2.waits = true → ∃ t, exec (.operandFetch tile opnd coord .tile) s = .next t ∧ Waits s.dev t.dev) ∧
      (r.2.waits = false → r.1.poison = false → ∃ t, exec (.operandFetch tile opnd coord .tile) s = .next t ∧
         t = s.on { s.dev with mem := t.dev.mem, ctr := t.dev.ctr, coal := t.dev.coal, out := t.dev.out, free := t.dev.free,
                               waits := false, gone := t.dev.gone, remote := t.dev.remote, rooms := t.dev.rooms } ∧
         t.dev.out.getLast? = some (.fetched tile opnd (BitVec.ofNat 64 r.1.bits))) ∧
      (r.2.waits = false → r.1.poison = true → ∃ t, exec (.operandFetch tile opnd coord .tile) s = .next t ∧ Poisoned t.dev x) ∧
      (∀ e n : Nat, laneRuns s.dev e n tile = true → x.engine = some e → opnd = 0 → paired x 0 = false → x.inst.func ≠ fLATT →
         isGridFn x.inst.func = false → r.2.waits = false → r.1.poison = false →
         ∃ t, exec (.operandFetch tile opnd coord (.laneA e n)) s = .next t ∧
           t = s.on { s.dev with mem := t.dev.mem, ctr := t.dev.ctr, coal := t.dev.coal, out := t.dev.out, free := t.dev.free,
                                 waits := false, gone := t.dev.gone, remote := t.dev.remote, rooms := t.dev.rooms,
                                 engines := t.dev.engines } ∧
           t.dev.lane e n = { s.dev.lane e n with inA := (s.dev.lane e n).inA ++
             [{ opnd := opnd, c0 := (coord.getD 0 0).toNat, c1 := (coord.getD 1 0).toNat, bits := BitVec.ofNat 32 r.1.bits,
                dup := BitVec.ofNat 32 r.1.dup, exp := if r.1.pad then 0 else 127 }] }) ∧
      (∀ e n : Nat, laneRuns s.dev e n tile = true → x.engine = some e → 1 ≤ opnd → opnd ≤ 3 → paired x opnd = false → x.inst.func ≠ fLATT →
         r.2.waits = false → r.1.poison = false →
         ∃ t, exec (.operandFetch tile opnd coord (.laneB e n)) s = .next t ∧
           t = s.on { s.dev with mem := t.dev.mem, ctr := t.dev.ctr, coal := t.dev.coal, out := t.dev.out, free := t.dev.free,
                                 waits := false, gone := t.dev.gone, remote := t.dev.remote, rooms := t.dev.rooms,
                                 engines := t.dev.engines } ∧
           t.dev.lane e n = { s.dev.lane e n with inB := (s.dev.lane e n).inB ++
             [{ opnd := opnd, c0 := (coord.getD 0 0).toNat, c1 := (coord.getD 1 0).toNat, bits := BitVec.ofNat 32 r.1.bits,
                dup := BitVec.ofNat 32 r.1.dup, exp := if r.1.pad then 0 else 127 }] }))) ∧
  (∀ (s : State) (e : Nat), domRuns s.dev (domEngine e) = true →
     (∀ (tile : Nat) (x : Tile), s.dev.tileOf tile = some x → x.engine = some e →
       (x.stage = .issued → (0, 1) ∉ x.reduced → (s.dev.engine e).disp.length < 32 →
         ∃ t, exec (.dispatchInstruction e tile) s = .next t ∧
           t = s.on { s.dev with engines := t.dev.engines, tiles := t.dev.tiles } ∧ (∀ e', e' ≠ e → t.dev.engine e' = s.dev.engine e') ∧
           t.dev.engine e = { s.dev.engine e with
             disp := (s.dev.engine e).disp ++ [tile],
             items := (s.dev.engine e).items ++ (itemKeys x).map (fun k => { tile := tile, key := k }) } ∧
           t.dev.tileOf tile = some { x with items := (itemKeys x).length, reduced := x.reduced ++ [(0, 1)] }) ∧
       (x.prm.wfill ≠ 0 → windowReady s.dev x e = false →
         ∃ t, exec (.windowFill e tile) s = .next t ∧ t = s.on { s.dev with engines := t.dev.engines } ∧
           t.dev.engine e = { s.dev.engine e with acc := filledWindow x.inst x.prm (s.dev.engine e).acc,
                                                  filled := (s.dev.engine e).filled ++ [(x.job, x.ctr)] } ∧
           windowReady t.dev x e = true ∧ exec (.windowFill e tile) t = .next t)) ∧
     (∀ (i : Item) (rest : List Item) (k : Nat), (s.dev.engine e).items = i :: rest →
       (ringFrom (s.dev.engine e) (s.dev.engine e).dealAt).find? (fun k => decide ((s.dev.lane e k).queue.length < 16)) = some k →
       ∃ t, exec (.itemDeal e) s = .next t ∧ t = s.on { s.dev with engines := t.dev.engines, ctr := t.dev.ctr } ∧
         (t.dev.engine e).items = rest ∧ (t.dev.engine e).dealAt = (k + 1) % 64 ∧
         t.dev.lane e k = { s.dev.lane e k with queue := (s.dev.lane e k).queue ++ [i] } ∧
         (∀ k', k' ≠ k → t.dev.lane e k' = s.dev.lane e k') ∧ Counted s.dev t.dev 0x2071 (ssEngine e) 1) ∧
     (∀ (n : Nat) (i : Item) (rest : List Item) (x : Tile), (s.dev.lane e n).queue = i :: rest → s.dev.tileOf i.tile = some x →
       (s.dev.lane e n).run = none → (s.dev.lane e n).inRing = true → (s.dev.lane e n).out = [] → windowReady s.dev x e = true →
       ((∃ c ∈ (s.dev.lane e n).ctxs, c.tile = i.tile) ∨ (s.dev.lane e n).ctxs.length < 2) →
       ∃ t, exec (.itemStart e n) s = .next t ∧ t = s.on { s.dev with engines := t.dev.engines } ∧
         (t.dev.lane e n).queue = rest ∧ (t.dev.lane e n).run = some i ∧ (t.dev.lane e n).prog = [] ∧
         (∃ c ∈ (t.dev.lane e n).ctxs, c.tile = i.tile) ∧
         ((∀ c ∈ (s.dev.lane e n).ctxs, c.tile ≠ i.tile) → (t.dev.lane e n).query = []) ∧
         (∀ k', k' ≠ n → t.dev.lane e k' = s.dev.lane e k')) ∧
     (∀ (n k : Nat) (i : Item), victimAt s.dev e n 1 = some k → (s.dev.lane e k).queue.getLast? = some i →
       (s.dev.lane e n).queue = [] → (s.dev.lane e n).run = none → (s.dev.lane e n).inRing = true → s.dev.num 0x207F 1 1 = 1 →
       ∃ t, exec (.workSteal e n) s = .next t ∧ t = s.on { s.dev with engines := t.dev.engines, ctr := t.dev.ctr } ∧ k ≠ n ∧
         (t.dev.lane e n).queue = [i] ∧ (t.dev.lane e k).queue = (s.dev.lane e k).queue.dropLast ∧
         Counted s.dev t.dev 0x2072 (ssEngine e) 1))

/-- R113 to R115, R126, R146, R419: a dot step adds the exact sum of its products to the output's accumulator, rounded once, pays one step and
draws its energy (R413) when it issues one, and an empty compaction window passes with none; the item ends on its lane when every output of it is complete.
R160, R170 to R173, R154, R162, R169: the merge unit merges the oldest waiting record or list into its region, once no earlier update of its lane
waits for one of its banks; a tile with nothing left on its engine is ready to commit, or begins its forming side.
Completes: laneStep, softmaxMerge, topkMerge, streamTileComplete. -/
def Obligations.DotsAccumulateAndEnginesMerge : Prop :=
  (∀ (s : State) (e n row col : Nat) (i : Item) (x : Tile) (st : DotStep), (s.dev.lane e n).run = some i →
     s.dev.tileOf i.tile = some x → (s.dev.lane e n).inRing = true → (s.dev.lane e n).out = [] → x.stage = .issued →
     isGridFn x.inst.func = true → row < tileRows x → col ∈ itemCols x i.key → tget 0 (s.dev.lane e n).prog (progKey row i.key col) < redLen x →
     dotStep s.dev x (s.dev.lane e n) row col (tget 0 (s.dev.lane e n).prog (progKey row i.key col)) = some st →
     (x.inst.func = fLATT ∨ ∃ c ∈ (s.dev.lane e n).ctxs, c.tile = x.id) →
     mayStep s.dev (domEngine e) (laneEnergy s.dev (e / 8) x.inst.phase) (if st.issued then 1 else 0) = true →
     (let l := s.dev.lane e n
      let key := progKey row i.key col
      let acc := if st.issued then stepSum x.inst.mode (accOf x l row i.key col) st.pairs else accOf x l row i.key col
      let l1 := setAcc x row i.key col acc { l with prog := tset l.prog key st.next }
      ∃ t, exec (.laneStep e n (.dot row col)) s = .next t ∧
       t = s.on { s.dev with engines := t.dev.engines, tiles := t.dev.tiles, pow := t.dev.pow, ctr := t.dev.ctr } ∧
       (∀ k', k' ≠ n → t.dev.lane e k' = s.dev.lane e k') ∧
       (if st.issued then Paid s.dev t.dev (domEngine e) (laneEnergy s.dev (e / 8) x.inst.phase) 1 (lanePj x.inst.mode) else t.dev.pow = s.dev.pow) ∧
       counterOf t.dev 0x2070 (ssEngine e) = counterOf s.dev 0x2070 (ssEngine e) + (if st.issued then 1 else 0) ∧
       counterOf t.dev 0x2050 (ssEngine e) = counterOf s.dev 0x2050 (ssEngine e) + (if st.empty then 1 else 0) ∧
       (if gridItemOver x i.key l1 then (t.dev.lane e n).run = none ∧
           t.dev.tileOf i.tile = some { x with items := x.items - 1 }
        else (t.dev.lane e n).run = some i ∧ t.dev.tiles = s.dev.tiles ∧
           tget 0 (t.dev.lane e n).prog key = st.next ∧ accOf x (t.dev.lane e n) row i.key col = acc))) ∧
  (∀ (s : State) (e : Nat), domRuns s.dev (domEngine e) = true →
     (∀ (u : AccUpd) (rest : List AccUpd) (dd : Nat), (s.dev.engine e).merge = u :: rest → u.op = .softmax dd →
       earlierWaits (s.dev.engine e) u = false →
       (let a := recOf (accWords (s.dev.engine e).acc u.off (dd + 2))
        ∃ t, exec (.softmaxMerge e) s = .next t ∧
         t = s.on { s.dev with engines := t.dev.engines, ctr := t.dev.ctr, free := s.dev.free + 2 } ∧
         (t.dev.engine e).merge = rest ∧ Counted s.dev t.dev 0x2074 (ssEngine e) 1 ∧
         (t.dev.engine e).acc = putWords (s.dev.engine e).acc u.off (recWords (mergeRec s.dev.free a (recOf u.words))) ∧
         ((recOf u.words).m = f32negInf → ∀ b, mget (t.dev.engine e).acc b = mget (s.dev.engine e).acc b))) ∧
     (∀ (u : AccUpd) (rest : List AccUpd), (s.dev.engine e).merge = u :: rest → u.op = .topk →
       earlierWaits (s.dev.engine e) u = false →
       (let r := regionList (s.dev.engine e).acc u.off
        ∃ t, exec (.topkMerge e) s = .next t ∧ t = s.on { s.dev with engines := t.dev.engines, ctr := t.dev.ctr } ∧
         (t.dev.engine e).merge = rest ∧ Counted s.dev t.dev 0x2074 (ssEngine e) 1 ∧
         (t.dev.engine e).acc = putRegion (s.dev.engine e).acc u.off r.1 (mergeList r.1 r.2 (candsOf u.words)) ∧
         (mergeList r.1 r.2 (candsOf u.words)).length ≤ max r.1 r.2.length)) ∧
     (∀ (tile : Nat) (x : Tile), s.dev.tileOf tile = some x → x.stage = .issued → x.engine = some e → x.items = 0 →
       tilePending s.dev e tile = false → tile ∉ (s.dev.engine e).disp → (0, 0) ∉ x.reduced → (0, 1) ∈ x.reduced →
       ∃ t y, exec (.streamTileComplete e tile) s = .next t ∧
         t = s.on { s.dev with tiles := t.dev.tiles, ctr := t.dev.ctr, free := t.dev.free } ∧ t.dev.tileOf tile = some y ∧
         y.reduced = x.reduced ++ [(0, 0)] ∧
         (y.stage = (if partForms x 0 then .issued else .formed) ∧ y.items = if partForms x 0 then 1 else 0) ∧
         (partForms x 0 = false ∨ fromWindow x = false → y.results = x.results ∧ y.outs = x.outs)))

/-- R167, R168, R172 to R177, R166, R500: the other lane steps. A final score enters its row's candidates, a NaN being dropped and counted
in OD 0x2077;
a query row attends to its item's keys once, for a step per column of its value, each paid for at 36 pJ and OP4; a row-wise function and a move give a result for each element of
the item; a row of K or V is quantised once, under the exponent of its span where one is held. A key of K is padded when all of it is (the model's
reading, notes/assumptions/123.md). How a span's first row is told is the model's choice (notes/assumptions/38.md).
Completes: laneStep. -/
def Obligations.LaneItemsRun : Prop :=
  ∀ (s : State) (e n : Nat) (i : Item) (x : Tile), (s.dev.lane e n).run = some i → s.dev.tileOf i.tile = some x →
    (s.dev.lane e n).inRing = true → (s.dev.lane e n).out = [] → x.stage = .issued → domRuns s.dev (domEngine e) = true →
    (let l := s.dev.lane e n
     let cs := rowSpan x i.key
     (∀ row col : Nat, x.inst.func = fLSEL → row < tileRows x → col ∈ itemCols x i.key →
        redLen x ≤ tget 0 l.prog (progKey row i.key col) → tget 0 l.prog (progKey row i.key col) ≠ progDone →
        (∃ c ∈ l.ctxs, c.tile = x.id) →
        (let score := accOf x l row i.key col
         ∃ t, exec (.laneStep e n (.candidate row col)) s = .next t ∧
          t = s.on { s.dev with engines := t.dev.engines, tiles := t.dev.tiles, ctr := t.dev.ctr } ∧
          tget [] (ctxOf (t.dev.lane e n) x.id).tk row =
            (if (f32 score).isNan then tget [] (ctxOf l x.id).tk row
             else offerCand x.prm.n0 (tget [] (ctxOf l x.id).tk row) (score, BitVec.ofNat 32 col)) ∧
          (if (f32 score).isNan then Counted s.dev t.dev 0x2077 (ssEngine e) 1 else t.dev.ctr = s.dev.ctr))) ∧
     (∀ row : Nat, x.inst.func = fLATT → row < tileRows x → tget 0 l.prog (2 ^ 40 + row) = 0 → x.prm.hM = 0 →
        (∀ c ∈ itemCols x i.key, redLen x ≤ tget 0 l.prog (progKey row i.key c)) →
        (∀ k j, k < (laneShape x.inst.shape).2.2 → j < 64 → (valueElem l k (i.key + j)).isSome = true) →
        mayStep s.dev (domEngine e) (laneEnergy s.dev (e / 8) x.inst.phase) (laneShape x.inst.shape).2.2 = true →
        (∃ c ∈ l.ctxs, c.tile = x.id) →
        (let dd := (laneShape x.inst.shape).2.2
         ∃ t, exec (.laneStep e n (.attend row)) s = .next t ∧
          t = s.on { s.dev with engines := t.dev.engines, tiles := t.dev.tiles, pow := t.dev.pow, ctr := t.dev.ctr,
                                free := s.dev.free + 65, waits := false, gone := none, remote := t.dev.remote } ∧
          Counted s.dev t.dev 0x2070 (ssEngine e) dd ∧
          Paid s.dev t.dev (domEngine e) (laneEnergy s.dev (e / 8) x.inst.phase) dd ((dd : Rat) * lanePj 0) ∧
          tget { o := List.replicate dd 0 } (ctxOf (t.dev.lane e n) x.id).sm row =
            attendRow s.dev.free dd (tget { o := List.replicate dd 0 } (ctxOf l x.id).sm row)
              ((List.range 64).map (fun j => f32mul x.prm.f0 (tget 0 l.scores (progKey row i.key (i.key + j)))))
              ((List.range 64).map (fun j => (excludedKey s.variant x row (i.key + j) s.dev).1))
              (fun k j => (valueElem l k (i.key + j)).getD { opnd := 3, c0 := 0, c1 := 0, bits := 0, dup := 0, exp := 0 }))) ∧
     (∀ order : RedTree, x.inst.func = fLROW → x.inst.rowfn ≤ 4 → x.inst.opnd 2 = 0 → x.prm.wlen = 0 → formsOut x = false →
        allAt l.inA 0 cs = true →
        (let vals := rowValues x.inst.rowfn s.dev.free (cs.map (fun c => (c, (elemAt l.inA 0 c).elim 0 (elemF32 (fmtOf s.dev x 0)))))
         ∃ t, exec (.laneStep e n (.rowfn order)) s = .next t ∧
          t = s.on { s.dev with engines := t.dev.engines, tiles := t.dev.tiles, free := t.dev.free } ∧
          (t.dev.lane e n).run = none ∧ (t.dev.lane e n).inA = [] ∧
          t.dev.tileOf i.tile = some { x with
            items := x.items - 1,
            results := x.results ++ vals.map (fun y => resultAt x 4 y.1 x.gi (convertOut (fmtOf s.dev x 4) y.2)) })) ∧
     (∀ (tensor : Nat) (ex : Nat → BitVec 8), x.inst.func = fLAPP → tensor ≤ 1 →
        allAt (if tensor = 0 then l.inA else l.inB) tensor cs = true → tget 0 l.prog tensor = 0 →
        (let token : Int := x.prm.qpos + (x.gi : Int)
         ((∃ f, formingOf s.dev (576 + e) x.id = some f ∧ ∀ k, k ≤ 1 → tget 0 f.exps (posKey k 0) = ex k) ∨
          (formingOf s.dev (576 + e) x.id = none ∧ ∀ k, k ≤ 1 → ∃ key r, spanKey s.variant x k token (fresh s.dev) = some key ∧
            tfind s.dev.spans key = some r ∧ r.exp = ex k)) →
         (let src := if tensor = 0 then l.inA else l.inB
          let qs := cs.map (fun c => quantElem 127 ((elemAt src tensor c).elim 0 (elemF32 (fmtOf s.dev x tensor))) (ex tensor))
          ∃ t span, exec (.laneStep e n (.kvAppend tensor)) s = .next t ∧
           (i.key ≠ 0 → span = []) ∧ (∀ w ∈ span, w = resultAt x 4 (token / 128).toNat tensor (ex tensor).toNat) ∧
           (tget 0 l.prog (1 - tensor) = 0 ∨ 1 < x.items → ∃ y, t.dev.tileOf i.tile = some y ∧ y.results = x.results ++
             (cs.zip qs).map (fun z => resultRow x (2 + tensor) z.1 token (BitVec.ofInt 8 z.2.1).toNat) ++ span) ∧
           (tget 0 l.prog (1 - tensor) = 0 → tget 0 (t.dev.lane e n).prog tensor = 1 ∧
             ∃ f, formingOf t.dev (576 + e) x.id = some f ∧ ∀ k, k ≤ 1 → tget 0 f.exps (posKey k 0) = ex k) ∧
           (tget 0 l.prog (1 - tensor) ≠ 0 → (t.dev.lane e n).run = none ∧
             (x.items ≤ 1 → ∀ g ∈ (t.dev.quant (576 + e)).forming, g.tile ≠ x.id))))) ∧
     (x.inst.func = fLMOVE → allAt l.inA 0 cs = true → x.inst.opnd 5 = 0 → x.prm.wlen = 0 →
        ∃ t, exec (.laneStep e n .move) s = .next t ∧ t = s.on { s.dev with engines := t.dev.engines, tiles := t.dev.tiles } ∧
          (t.dev.lane e n).run = none ∧
          t.dev.tileOf i.tile = some { x with
            items := x.items - 1,
            results := x.results ++
              cs.map (fun c => resultAt x 4 c x.gi ((elemAt l.inA 0 c).elim 0 (moveBits (fmtOf s.dev x 0) (fmtOf s.dev x 4)))) }))

/-- R152, R153, R158 to R161: a context that its lane has no more items for is flushed as updates of its window; an update outside the
window is dropped
and counted, one that finds its queue full is held, its lane stalled and counted once, and a bank that is free applies its oldest, in the order in
which its lane sent them.
Completes: contextFlush, accUpdate. -/
def Obligations.AccumulatorsTakeUpdates : Prop :=
  ∀ (s : State) (e : Nat), domRuns s.dev (domEngine e) = true →
    (∀ (n tile : Nat) (c : Ctx) (x : Tile), (s.dev.lane e n).ctxs.find? (fun c => decide (c.tile = tile)) = some c →
      s.dev.tileOf tile = some x → laneRuns s.dev e n tile = false → (∀ i ∈ (s.dev.lane e n).queue, i.tile ≠ tile) →
      (∀ i ∈ (s.dev.engine e).items, i.tile ≠ tile) → (s.dev.lane e n).out = [] →
      ∃ t, exec (.contextFlush e n tile) s = .next t ∧ t = s.on { s.dev with engines := t.dev.engines, ctr := t.dev.ctr } ∧
        Counted s.dev t.dev 0x207A (ssEngine e) 1 ∧ (∀ c ∈ (t.dev.lane e n).ctxs, c.tile ≠ tile) ∧
        (t.dev.lane e n).out = flushUpdates s.dev x n c ∧
        ∀ k, k ≠ n → t.dev.lane e k = s.dev.lane e k) ∧
    (∀ (bank : Nat) (u : AccUpd) (x : Tile), s.dev.tileOf u.tile = some x → (s.dev.lane e u.lane).out.head? = some u →
      bankOfOff u.off = bank →
      ∃ t, exec (.accUpdate e bank (some u)) s = .next t ∧
        t = s.on { s.dev with engines := t.dev.engines, ctr := t.dev.ctr, log := t.dev.log } ∧
        (t.dev.engine e).acc = (s.dev.engine e).acc ∧
        (if inWindow x u = false then Counted s.dev t.dev 0x2079 (ssEngine e) 1 ∧
            (t.dev.lane e u.lane).out = (s.dev.lane e u.lane).out.tail ∧ (t.dev.engine e).merge = (s.dev.engine e).merge ∧
            (t.dev.engine e).confl = (s.dev.engine e).confl
         else if isMerge u.op then
           (if (s.dev.engine e).merge.length < 8 then t.dev.ctr = s.dev.ctr ∧
              (t.dev.engine e).merge = (s.dev.engine e).merge ++ [{ u with seq := (s.dev.engine e).arrivals }] ∧
              (t.dev.lane e u.lane).out = (s.dev.lane e u.lane).out.tail
            else Stalled s.dev t.dev e u.lane 0x2075)
         else
           (if (tget [] (s.dev.engine e).confl bank).length < 8 then t.dev.ctr = s.dev.ctr ∧
              tget [] (t.dev.engine e).confl bank = tget [] (s.dev.engine e).confl bank ++ [{ u with seq := (s.dev.engine e).arrivals }] ∧
              (t.dev.lane e u.lane).out = (s.dev.lane e u.lane).out.tail
            else Stalled s.dev t.dev e u.lane 0x2073))) ∧
    (∀ (bank : Nat) (u : AccUpd) (rest : List AccUpd), tget [] (s.dev.engine e).confl bank = u :: rest →
      earlierWaits (s.dev.engine e) u = false →
      ∃ t, exec (.accUpdate e bank none) s = .next t ∧ t = s.on { s.dev with engines := t.dev.engines, ctr := t.dev.ctr } ∧
        tget [] (t.dev.engine e).confl bank = rest ∧ (t.dev.engine e).merge = (s.dev.engine e).merge ∧
        (t.dev.engine e).lanes = (s.dev.engine e).lanes ∧
        (∀ w, u.words = [w] →
          (u.op = .store → accWord (t.dev.engine e).acc u.off = w) ∧
          (u.op = .iadd → accWord (t.dev.engine e).acc u.off = accWord (s.dev.engine e).acc u.off + w) ∧
          (u.op = .fadd → accWord (t.dev.engine e).acc u.off = f32add (accWord (s.dev.engine e).acc u.off) w)) ∧
        (∀ a, a < u.off ∨ u.off + 4 * u.words.length ≤ a → mget (t.dev.engine e).acc a = mget (s.dev.engine e).acc a))

/-! ### The fabric (ch. 10) -/

/-- R270, R271: whatever the compression setting, the receiver restores the payload that was offered, of 1 to 16 flits, from the frame that travels,
which is never longer and is made of whole flits.
R270, R322: the dense payload of a data frame is what was to be sent, in whole flits, whatever forms the peer accepts; a frame that left carries the
CRC of what it carries. -/
def Obligations.PayloadsRestored : Prop :=
  (∀ (on : Bool) (f : Frame), f.payload.length % 16 = 0 → 16 ≤ f.payload.length → f.payload.length ≤ 256 →
     (let g := (formFrame on f).1
      (restoreFrame g).payload = f.payload ∧ g.wire.length ≤ f.payload.length ∧ g.wire.length % 16 = 0 ∧
       g.wire.length = 16 * (g.plen + 1) ∧ g.cls = f.cls ∧ g.op = f.op ∧ g.src = f.src ∧ g.dst = f.dst)) ∧
  (∀ (d : Dev) (l op cls kind rlen tag exp offset : Nat) (poison : Bool) (p : Bytes), 0 < p.length → p.length ≤ 256 →
     (let f := formLink d l op cls kind rlen tag exp offset poison p
      densePayload f = padFlit p ∧ f.wire.length = 16 * (f.plen + 1) ∧ f.wire.length ≤ (padFlit p).length ∧
       dataCrc { f with crc := dataCrc f } = dataCrc f))

/-- R272, R273, R275, R277, R280, R283: a unit's frame on the first hop of its route, with every earlier frame of its flow ahead of it, a read request once room is reserved for its response, with
a credit and
none of its class before it is sent, takes a credit and a place in the replay buffer; without, it waits and is counted in OD 0x20B4; a frame whose destination is gone is dropped and counted in OD 0x20B8. The oldest
frame arrives in a slot when at most one bit of each of its flits is wrong, counted in OD 0x20B5; else a replay is asked for, later frames are
discarded, and a replay sends every frame held again. Which of its ports a unit sends on is the model's choice (notes/assumptions/138.md).
Completes: frameSend, frameReceive, frameReplay. -/
def Obligations.FramesCrossHops : Prop :=
  ∀ (s : State) (h : Hop), hopRuns s.variant s.dev h = true → (s.dev.hopOf h).failed = false →
    (let x := s.dev.hopOf h
     let ss := senderSs h
     (∀ f : Frame, frameOk s.variant f = true → sendsOn s.variant s.dev h f = true → (f.op = 0x08 → 0 < tget 0 s.dev.asks f.src) →
        inOrder s.variant s.dev h { f with seq := s.dev.frames } = true →
        (let f1 : Frame := { f with seq := s.dev.frames }
         let asked (t : State) : Prop := ∀ k, tget 0 t.dev.asks k = tget 0 s.dev.asks k - if f.op = 0x08 ∧ k = f.src then 1 else 0
        (dropped s.dev h f = false → 0 < nth 0 x.credits f.cls → (∀ g ∈ x.wait, g.cls ≠ f.cls) →
          (let g := (formFrame (decide (s.dev.num 0x20B0 1 1 = 1)) f1).1
           ∃ t, exec (.frameSend h f) s = .next t ∧ asked t ∧
            t = s.on { s.dev with frames := s.dev.frames + 1, hops := t.dev.hops, out := t.dev.out, ctr := t.dev.ctr, asks := t.dev.asks } ∧
            t.dev.out = s.dev.out ++ [.fabric h g] ∧ (∀ k, k ≠ h → t.dev.hopOf k = s.dev.hopOf k) ∧
            t.dev.hopOf h = { x with credits := setAt x.credits f.cls (nth 0 x.credits f.cls - 1), replay := x.replay ++ [g] } ∧
            counterOf t.dev 0x20B1 ss = counterOf s.dev 0x20B1 ss + 1)) ∧
        (dropped s.dev h f = false → nth 0 x.credits f.cls = 0 ∨ (∃ g ∈ x.wait, g.cls = f.cls) →
          ∃ t, exec (.frameSend h f) s = .next t ∧ asked t ∧
            t = s.on { s.dev with frames := s.dev.frames + 1, hops := t.dev.hops, ctr := t.dev.ctr, asks := t.dev.asks } ∧
            t.dev.hopOf h = { x with wait := x.wait ++ [f1] } ∧ (∀ k, k ≠ h → t.dev.hopOf k = s.dev.hopOf k) ∧
            Counted s.dev t.dev 0x20B4 ss 1) ∧
        (dropped s.dev h f = true → f.op ≠ 0x08 → f.op ≠ 0x02 → ∃ t, exec (.frameSend h f) s = .next t ∧
          t = s.on { s.dev with frames := s.dev.frames + 1, ctr := t.dev.ctr } ∧ Counted s.dev t.dev 0x20B8 ss 1))) ∧
     (∀ (f : Frame) (rest : List Frame) (errs : List Nat), x.replay = f :: rest → x.asked = false →
        ∃ t, exec (.frameReceive h f errs) s = .next t ∧ t = s.on { s.dev with hops := t.dev.hops, ctr := t.dev.ctr } ∧
          (∀ k, k ≠ h → t.dev.hopOf k = s.dev.hopOf k) ∧
          (if errs.all (fun n => decide (n < 2)) then t.dev.hopOf h = { x with replay := rest, slots := x.slots ++ [restoreFrame f], again := x.again - 1, succ := 0 } ∧
              Counted s.dev t.dev 0x20B5 (receiverSs h) errs.sum
           else t.dev.ctr = s.dev.ctr ∧ (t.dev.hopOf h).asked = true ∧ (t.dev.hopOf h).slots = x.slots ∧
              (t.dev.hopOf h).replay = x.replay ∧ (t.dev.hopOf h).succ = (if 0 < x.again then x.succ + 1 else 0) ∧
              ∀ n : List Nat, exec (.frameReceive h f n) t = .next t)) ∧
     (x.asked = true → x.succ < 16 → ∃ t, exec (.frameReplay h) s = .next t ∧
        t = s.on { s.dev with hops := t.dev.hops, out := t.dev.out, ctr := t.dev.ctr } ∧
        t.dev.out = s.dev.out ++ x.replay.map (fun g => .fabric h g) ∧
        t.dev.hopOf h = { x with asked := false, again := x.replay.length } ∧ Counted s.dev t.dev 0x20B6 ss x.replay.length))

/-- R267, R272, R273, R275, R277, R282, R284, R286: a frame that has come to its unit leaves its slot, one that has not moves on to the next hop
of its route
when that has a credit and every earlier frame of its flow is ahead, stays, counted once, where it has no credit, and withholds its own. A slot that empties gives its class a credit, which the oldest waiting
frame of the class takes at once; after a reset of an end the advertisement gives a credit for each slot that
neither a frame there nor one in the replay buffer takes. A read request reserves room for its
whole dense response, where the unit has it, which the response that reaches the unit frees. A buffer's size beyond one response is free
(notes/assumptions/139.md).
R274, R255, R281, R282, R284: a multicast frame leaves its slot when every output that it needs holds a credit, each taking one; a hop whose frame has
failed 16 replays in succession has failed, and a failed facet bridge isolates its facet, whose sequencers cannot return; a stall is posted once an interval; a reset of an end
leaves the hop without credits, and the receiver without frames. The way round two failed links and the code of a hop in an event are the model's
choices (notes/assumptions/137.md, notes/assumptions/40.md).
Completes: creditReturn, readRequest, multicastForward, fabricHopFail, fabricStall, hopEndReset. -/
def Obligations.CreditsReturnAndHopsFail : Prop :=
  ((∀ (s : State) (h : Hop), hopRuns s.variant s.dev h = true →
     (let x := s.dev.hopOf h
      (∀ (cls : Nat) (g : Frame), x.awaiting = false → x.slots.find? (fun y => y.cls == cls) = some g → copiesOf s.dev h g = [] →
         cls < x.credits.length →
         (nextAfter s.variant s.dev h g = none → (∀ u, deliversTo h = some u → unitHolds s.dev u = false ∧ groupFull s.dev u cls = false) →
          ∃ t, exec (.creditReturn h cls) s = .next t ∧
           t = s.on { s.dev with hops := t.dev.hops, rooms := t.dev.rooms, out := t.dev.out, ctr := t.dev.ctr } ∧
           (∀ k, k ≠ h → t.dev.hopOf k = s.dev.hopOf k) ∧ (t.dev.hopOf h).slots = x.slots.erase g ∧
           (∀ k, tget [] t.dev.rooms k =
             if g.op = 0x10 ∧ k = g.dst then freeRoom g.poison g.payload.length (tget [] s.dev.rooms k) else tget [] s.dev.rooms k) ∧
           match x.wait.find? (fun y => y.cls == cls) with
           | none => t.dev.out = s.dev.out ∧ nth 0 (t.dev.hopOf h).credits cls = nth 0 x.credits cls + 1
           | some w => (t.dev.hopOf h).wait = x.wait.erase w ∧ nth 0 (t.dev.hopOf h).credits cls = nth 0 x.credits cls ∧
               t.dev.out = s.dev.out ++ [.fabric h (formFrame (decide (s.dev.num 0x20B0 1 1 = 1)) w).1]) ∧
         (∀ o : Hop, nextAfter s.variant s.dev h g = some o → dropped s.dev o g = false → o ≠ h →
           (hopTakes s.variant s.dev g.cls o = true → inOrder s.variant s.dev o g = false → exec (.creditReturn h cls) s = .next s) ∧
           (hopTakes s.variant s.dev g.cls o = true → inOrder s.variant s.dev o g = true →
            ∃ t, exec (.creditReturn h cls) s = .next t ∧
              t = s.on { s.dev with hops := t.dev.hops, out := t.dev.out, ctr := t.dev.ctr } ∧
              (t.dev.hopOf h).slots = x.slots.erase g ∧ nth 0 (t.dev.hopOf o).credits g.cls + 1 = nth 0 (s.dev.hopOf o).credits g.cls ∧
              t.dev.out.getLast? = some (.fabric o (formFrame (decide (s.dev.num 0x20B0 1 1 = 1)) g).1)) ∧
           (hopTakes s.variant s.dev g.cls o = false → cls ∉ x.stalled →
            ∃ t, exec (.creditReturn h cls) s = .next t ∧ t = s.on { s.dev with hops := t.dev.hops, ctr := t.dev.ctr } ∧
              t.dev.hopOf h = { x with stalled := x.stalled ++ [cls] } ∧ Counted s.dev t.dev 0x20B4 (senderSs o) 1 ∧
              exec (.creditReturn h cls) t = .next t))) ∧
      (∀ cls : Nat, x.awaiting = true → (∀ u, endUnit h = some u → dropsFrames s.dev u = false) → x.wait = [] →
         ∃ t, exec (.creditReturn h cls) s = .next t ∧ t = s.on { s.dev with hops := t.dev.hops } ∧ (t.dev.hopOf h).awaiting = false ∧
           (t.dev.hopOf h).slots = x.slots ∧
           ∀ c, c < 4 → nth 0 (t.dev.hopOf h).credits c = nth 0 (hopSlots h) c - ((x.slots ++ x.replay).filter (fun g => g.cls == c)).length))) ∧
   (∀ (s : State) (unit room : Nat) (u : Target), endpointUnit unit = some u → targetPresent s.variant u = true →
     targetOffline s.dev u = false → 16 ≤ room → room ≤ 256 → room % 16 = 0 →
     (roomFits unit ((tget [] s.dev.rooms unit).sum + room) = true →
      ∃ t, exec (.readRequest unit room) s = .next t ∧
       t = s.on { s.dev with rooms := t.dev.rooms, asks := t.dev.asks, out := t.dev.out } ∧ t.dev.out = s.dev.out ++ [.readReq unit] ∧
       (∀ k, tget [] t.dev.rooms k = tget [] s.dev.rooms k ++ if k = unit then [room] else []) ∧
       ∀ k, tget 0 t.dev.asks k = tget 0 s.dev.asks k + if k = unit then 1 else 0) ∧
     (roomFits unit ((tget [] s.dev.rooms unit).sum + room) = false → exec (.readRequest unit room) s = .next s))) ∧
  ((∀ (s : State) (h : Hop) (cls : Nat) (g : Frame), hopRuns s.variant s.dev h = true →
     (s.dev.hopOf h).slots.find? (fun y => y.cls == cls) = some g → copiesOf s.dev h g ≠ [] →
     (∀ e ∈ copiesOf s.dev h g, e.1 ≠ h ∧ servedBy s.dev e.1 e.2 = e.2 ∧ hopTakes s.variant s.dev cls e.1 = true) →
     localHolds s.dev h g = false →
     (∀ e ∈ copiesOf s.dev h g, inOrder s.variant s.dev e.1 { g with wmask := wedgeMask e.2 } = true) →
     ∃ t, exec (.multicastForward h cls ((copiesOf s.dev h g).map Prod.fst)) s = .next t ∧
       t = s.on { s.dev with hops := t.dev.hops, out := t.dev.out, ctr := t.dev.ctr } ∧
       (t.dev.hopOf h).slots = (s.dev.hopOf h).slots.erase g ∧
       ∀ e ∈ copiesOf s.dev h g, nth 0 (t.dev.hopOf e.1).credits cls + 1 = nth 0 (s.dev.hopOf e.1).credits cls ∧
         ∃ f, .fabric e.1 f ∈ t.dev.out ∧ f.wmask = wedgeMask e.2 ∧ f.op = g.op) ∧
   (∀ (s : State) (h : Hop), (s.dev.hopOf h).failed = false → 16 ≤ (s.dev.hopOf h).succ →
     ∃ t, exec (.fabricHopFail h) s = .next t ∧ (t.dev.hopOf h).failed = true ∧
       t = s.on { s.dev with hops := t.dev.hops, log := t.dev.log, seq := t.dev.seq, out := t.dev.out, ctr := t.dev.ctr, jobs := t.dev.jobs,
                             rooms := t.dev.rooms, frames := t.dev.frames } ∧
       Posted s.dev t.dev evHopFail (hopHub h) (hopUnit h) [(4, hopKey h)] ∧
       (∀ f, h = .facetUp f ∨ h = .facetDown f → t.dev.seq.isolated = s.dev.seq.isolated ++ [codeOf (.facet f)] ∧
         t.dev.hops = (s.dev.setHop h { s.dev.hopOf h with failed := true }).hops ∧
         ∀ y ∈ t.dev.jobs, ∀ i ∈ y.iss, i.issuer / 16 = f → i.lost = true) ∧
       ((∀ f, h ≠ .facetUp f ∧ h ≠ .facetDown f) → t.dev.seq = s.dev.seq ∧ t.dev.jobs = s.dev.jobs)) ∧
   (∀ (s : State) (h : Hop) (waited : Nat), waitsFor s.variant s.dev h = true → s.dev.num 0x20B0 2 1000 < waited →
     ∃ t, exec (.fabricStall h waited) s = .next t ∧ t = s.on { s.dev with log := t.dev.log, marks := t.dev.marks } ∧
       t.dev.marked (hopHub h) limFabricStall (hopKey h) = true ∧
       (if s.dev.marked (hopHub h) limFabricStall (hopKey h) then t = s
        else Posted s.dev t.dev evFabricStall (hopHub h) (hopUnit h) [(4, hopKey h)])) ∧
   (∀ (s : State) (h : Hop) (receiver : Bool), hopPresent s.variant h = true →
     ∃ t, exec (.hopEndReset h receiver) s = .next t ∧ t = s.on { s.dev with hops := t.dev.hops } ∧
       (∀ k, k ≠ h → t.dev.hopOf k = s.dev.hopOf k) ∧ (t.dev.hopOf h).credits = [0, 0, 0, 0] ∧ (t.dev.hopOf h).replay = [] ∧
       (t.dev.hopOf h).awaiting = true ∧ (receiver = true → (t.dev.hopOf h).slots = []) ∧
       (receiver = false → (t.dev.hopOf h).wait = [] ∧ (t.dev.hopOf h).slots = (s.dev.hopOf h).slots)))

/-! ### Memory (ch. 11) -/

/-- R293, R295, R296, R299: an access to a line that its slice holds is applied at once and answered, so that a read after a write of the same bytes
gives them back. A bypassed read miss answers the stack's bytes, or poison where two symbols or more are wrong. Any other access that
misses, or comes behind one that waits, waits for its line; a slice that is gone drops it, counted in OD 0x20B8.
Completes: cacheAccess. -/
def Obligations.SlicesServeAccesses : Prop :=
  ∀ (s : State) (slice line off len symbols : Nat) (op : MemOp) (tile : Option Nat), lineOnSlice slice line = true →
    accessOk off len op = true →
    (sliceGone s.variant s.dev slice = true → tile = none →
      ∃ t, exec (.cacheAccess slice line off len op symbols tile) s = .next t ∧
        t = s.on { s.dev with out := s.dev.out ++ [.response slice line [] true], ctr := t.dev.ctr } ∧
        Counted s.dev t.dev 0x20B8 (ssHub (slice / 4)) 1) ∧
    (sliceGone s.variant s.dev slice = false → domRuns s.dev (domSlice slice) = true →
      (∀ (w : Nat) (l : Line), waitersOf s.dev slice line = [] → wayOf s.dev.mem slice line = some w →
        tfind s.dev.mem.lines (wayKey slice line w) = some l → l.poison = false →
        (let r := hitLine l off len op
         ∃ t, exec (.cacheAccess slice line off len op symbols tile) s = .next t ∧
          t = s.on { s.dev with mem := { s.dev.mem with lines := t.dev.mem.lines }, ctr := t.dev.ctr, out := t.dev.out } ∧
          t.dev.out = s.dev.out ++ [.response slice line (answerBytes op r.1) false] ∧ Counted s.dev t.dev 0x3001 (ssHub (slice / 4)) 1 ∧
          tfind t.dev.mem.lines (wayKey slice line w) = some r.2.2 ∧ wayOf t.dev.mem slice line = some w ∧
          (∀ k, k ≠ wayKey slice line w → tfind t.dev.mem.lines k = tfind s.dev.mem.lines k) ∧
          (∀ b, op = .write b → l.data.length = 64 →
            ∃ u, exec (.cacheAccess slice line off b.length .read symbols tile) t = .next u ∧
              u.dev.out = t.dev.out ++ [.response slice line b false]))) ∧
      (waitersOf s.dev slice line ≠ [] ∨
          wayOf s.dev.mem slice line = none ∧ fullLine op off = false ∧ (linePolicy s.dev slice line ≠ 2 ∨ isRead op = false) →
        ∃ t, exec (.cacheAccess slice line off len op symbols tile) s = .next t ∧
          t = s.on { s.dev with mem := { s.dev.mem with waiting := s.dev.mem.waiting ++
            [{ slice := slice, line := line, off := off, len := len, op := op, tile := tile }] } }) ∧
      (waitersOf s.dev slice line = [] → wayOf s.dev.mem slice line = none → op = .read → linePolicy s.dev slice line = 2 → tile = none →
        (let bad := s.dev.mem.isBad (slice / 2) line || decide (2 ≤ symbols)
         ∃ t, exec (.cacheAccess slice line off len op symbols tile) s = .next t ∧ t.dev.mem.lines = s.dev.mem.lines ∧
          t.dev.mem.stack = s.dev.mem.stack ∧ t.dev.out.getLast? = some
            (.response slice line (if bad then [] else slicePart (readStack s.dev.mem (slice / 2) line) off len) bad))))

/-- R295, R298, R299: a fill brings the line of a waiting read from the stack, counted in OD 0x3002, and answers it; a scrub
changes nothing of
a sound line, counts one wrong symbol in OD 0x3003, and counts more in OD 0x3004 and poisons the line; a remapping takes a line of a granule through
its slice, which holds it as it was and is to write it back to the spare.
Completes: lineFill, patrolScrub, granuleRemap. -/
def Obligations.StacksFillScrubRemap : Prop :=
  (∀ (s : State) (hub k line : Nat) (w : Waiting), let slice := sliceOf hub k
    k < 4 → lineOnSlice slice line = true → waitersOf s.dev slice line = [w] → w.op = .read →
    (∀ n, w.tile = some n → (s.dev.tileOf n).isSome = true) → s.dev.mem.isBad (slice / 2) line = false →
    sliceGone s.variant s.dev slice = false → domRuns s.dev (domSlice slice) = true → (waysOf s.dev.mem slice line).length < 16 →
    wayOf s.dev.mem slice line = none →
    ∃ t, exec (.lineFill hub k line 0) s = .next t ∧
      t = s.on { s.dev with mem := { s.dev.mem with lines := t.dev.mem.lines, waiting := t.dev.mem.waiting }, ctr := t.dev.ctr,
                            out := t.dev.out } ∧
      t.dev.out = s.dev.out ++ [.response slice line (slicePart (readStack s.dev.mem (slice / 2) line) w.off w.len) false] ∧
      (∀ y ∈ t.dev.mem.waiting, ¬(y.slice = slice ∧ y.line = line)) ∧ (wayOf t.dev.mem slice line).isSome = true ∧
      counterOf t.dev 0x3002 (ssHub (slice / 4)) = counterOf s.dev 0x3002 (ssHub (slice / 4)) + 1) ∧
  (∀ (s : State) (slice line symbols : Nat), lineOnSlice slice line = true → sliceGone s.variant s.dev slice = false →
    domRuns s.dev (domSlice slice) = true →
    ∃ t, exec (.patrolScrub slice line symbols) s = .next t ∧ t = s.on { s.dev with mem := t.dev.mem, ctr := t.dev.ctr, log := t.dev.log } ∧
      (symbols = 0 → t = s) ∧
      (symbols = 1 → Counted s.dev t.dev 0x3003 (ssHub (slice / 2 / 2)) 1 ∧ t.dev.mem.lines = s.dev.mem.lines) ∧
      (2 ≤ symbols → (∀ w, wayOf s.dev.mem slice line = some w →
          ∃ l, tfind t.dev.mem.lines (wayKey slice line w) = some l ∧ l.poison = true) ∧ counterOf t.dev 0x3004 (ssHub (slice / 2 / 2)) = counterOf s.dev 0x3004 (ssHub (slice / 2 / 2)) + 1 ∧
        ∃ e ∈ t.dev.log.way, e.code = evMemUe)) ∧
  (∀ (s : State) (stack g : Nat) (c : Copying),
    s.dev.mem.copying.find? (fun y => decide (y.stack = stack) && decide (y.granule = g)) = some c →
    (let line := g * 64 + c.done
     let slice := 2 * stack + channelOf (line * 64) % 2
     sliceGone s.variant s.dev slice = false → domRuns s.dev (domSlice slice) = true → waitersOf s.dev slice line = [] →
     ∃ t, exec (.granuleRemap stack g) s = .next t ∧
      t = s.on { s.dev with mem := t.dev.mem, ctr := t.dev.ctr, jour := if c.done + 1 < 64 then s.dev.jour else t.dev.jour } ∧
      (∀ w l, wayOf s.dev.mem slice line = some w → tfind s.dev.mem.lines (wayKey slice line w) = some l →
        tfind t.dev.mem.lines (wayKey slice line w) = some { l with dirty := true }) ∧
      (wayOf s.dev.mem slice line = none → (waysOf s.dev.mem slice line).length < 16 →
        ∃ w l, tfind t.dev.mem.lines (wayKey slice line w) = some l ∧ l.line = line ∧ l.dirty = true ∧
          l.data = readStack s.dev.mem stack line) ∧
      (c.done + 1 < 64 →
        t.dev.mem.copying.find? (fun y => decide (y.stack = stack) && decide (y.granule = g)) = some { c with done := c.done + 1 }) ∧
      (c.done = 63 → tget 0 t.dev.mem.remap (stack * 2 ^ 25 + g) = c.spare + 1 ∧ c ∉ t.dev.mem.copying)))

/-- R300 to R305: a bank takes a request and serves the highest rank first, its oldest first: a read answers the bytes, a write leaves
exactly its bytes
changed, and an atomic answers the old value, counted in OD 0x3042. A wake clears every word of the bank.
R302, R306 to R308: a request of rank 2 or 3 that has waited too long is starved, counted in OD 0x3041; a march with no request waiting tests its
next word, leaving it as it was, and counts a finished march in OD 0x3052; a word that reads back wrong is counted in OD 0x3051 and posted.
Completes: bankAccess, bankAtomic, scratchpadWakeClear, spadStarve, marchPreservingWord. -/
def Obligations.BanksServeStarveAndMarch : Prop :=
  (∀ (s : State) (code : Nat),
     (∀ r : BankReq, issuerPresent s.variant code = true → r.addr < bankBytes code → bankReqOk r = true → issuerOffline s.dev code = false →
       ∃ t, exec (.bankAccess code (some r)) s = .next t ∧ t = s.on { s.dev with banks := t.dev.banks } ∧
         t.dev.sbank code = { s.dev.sbank code with reqs := (s.dev.sbank code).reqs ++ [r] } ∧
         ∀ k, k ≠ code → t.dev.sbank k = s.dev.sbank k) ∧
     (∀ r : BankReq, issuerPresent s.variant code = true → bankServes s.dev code = true → bankBest (s.dev.sbank code) = some r →
       (let n := opLen r.op r.len
        let old := s.dev.sread code r.addr n
        (isAtomic r.op = false → ∃ t, exec (.bankAccess code none) s = .next t ∧
           t = s.on { s.dev with banks := t.dev.banks, spad := t.dev.spad, out := t.dev.out } ∧
           t.dev.sbank code = { s.dev.sbank code with reqs := (s.dev.sbank code).reqs.erase r } ∧
           t.dev.out = s.dev.out ++ [.bankData code r.addr (answerBytes r.op old) false] ∧
           (r.op = .read → t.dev.spad = s.dev.spad) ∧ (∀ b, r.op = .write b → t.dev.sread code r.addr b.length = b) ∧
           (∀ a, a < spadAddr code r.addr ∨ spadAddr code r.addr + (applyOp r.op old).length ≤ a →
             mget t.dev.spad a = mget s.dev.spad a)) ∧
        (isAtomic r.op = true → ∃ t, exec (.bankAtomic code) s = .next t ∧
           t = s.on { s.dev with banks := t.dev.banks, spad := t.dev.spad, out := t.dev.out, ctr := t.dev.ctr } ∧
           Counted s.dev t.dev 0x3042 (issuerSs code) 1 ∧ t.dev.out = s.dev.out ++ [.bankData code r.addr old false] ∧
           (∀ v : BitVec 64, r.op = .fetchAdd 4 v → t.dev.sreadNat code r.addr 4 = (leNat old + v.toNat) % 2 ^ 32) ∧
           (∀ v : BitVec 64, r.op = .swap 4 v → t.dev.sreadNat code r.addr 4 = v.toNat % 2 ^ 32)))) ∧
     ((s.dev.sbank code).clearing = true → ∃ t, exec (.scratchpadWakeClear code) s = .next t ∧
       t = s.on { s.dev with banks := t.dev.banks, spad := t.dev.spad } ∧ (t.dev.sbank code).clearing = false ∧
       ∀ a, mget t.dev.spad a = if spadAddr code 0 ≤ a ∧ a < spadAddr code 0 + 262144 then 0 else mget s.dev.spad a)) ∧
  ((∀ (s : State) (code index waited : Nat) (r : BankReq), (s.dev.sbank code).reqs[index]? = some r → 2 ≤ r.rank → r.starved = false →
     s.dev.num 0x3040 1 1000 < waited →
     ∃ t, exec (.spadStarve code index waited) s = .next t ∧
       t = s.on { s.dev with banks := t.dev.banks, ctr := t.dev.ctr, log := t.dev.log, marks := t.dev.marks } ∧
       (t.dev.sbank code).reqs[index]? = some { r with starved := true } ∧ Counted s.dev t.dev 0x3041 (issuerSs code) 1) ∧
   (∀ (s : State) (code word n : Nat) (bad restored : Bool), word < bankBytes code / 32 → (s.dev.sbank code).march = some n →
     (s.dev.sbank code).reqs = [] → (s.dev.sbank code).clearing = false → word = marchWord (bankBytes code / 32) n →
     (let words := bankBytes code / 32
      ∃ t, exec (.marchPreservingWord code word (decide (words ≤ n)) bad restored) s = .next t ∧
       (t.dev.sbank code).march = (if n + 1 < 2 * words then some (n + 1) else none) ∧
       (bad = false → t = s.on { s.dev with banks := t.dev.banks, ctr := t.dev.ctr } ∧
         (if n + 1 < 2 * words then t.dev.ctr = s.dev.ctr else Counted s.dev t.dev 0x3052 (marchSs code) 1)) ∧
       (bad = true → counterOf t.dev 0x3051 (marchSs code) = counterOf s.dev 0x3051 (marchSs code) + 1 ∧
         Posted s.dev t.dev evMarchFail (marchHub code) (marchUnit code) [(4, issuerIndex code), (4, 32 * word)] ∧
         (restored = true → t.dev.spad = s.dev.spad ∧ t.dev.mem = s.dev.mem) ∧
         (code ≠ codeStandby → ∀ a, a < spadAddr code (32 * word) ∨ spadAddr code (32 * word) + 32 ≤ a →
           mget t.dev.spad a = mget s.dev.spad a)))))

/-! ### Narsy links (ch. 12) -/

/-- R319, R321, R325, R327: a request of a window's hub, group and peer that the link of its granule may take leaves with the next sequence number, a
credit, a free tag and its CRC, and is held for a replay; with no member in the list, with a new list due (notes/assumptions/141.md), behind a
request of its class on its link, or where its link takes none, it waits, and each request that waits at the bundle for want of a credit of its
link is counted once in OD 0x341C.
R321, R324, R326: the oldest request of the peer waits while the hub's switch takes none of its class, or its answer cannot leave, counted once in
OD 0x341C where its link has no credit; else one that no export admitted is answered with poison under its tag and counted in OD 0x341F, and one that
was admitted is served by the slice and answered under its tag; its slot frees, and with it what a port reset left to be freed.
Completes: linkDataFrameTx. -/
def Obligations.LinkRequestsSent : Prop :=
  ∀ (s : State) (l : Nat),
    (∀ r : RemoteReq, linkServes s.variant s.dev l = true → r.hub = linkHub l → r.group = linkGrp l → r.op ∈ [0x02, 0x08, 0x18, 0x19] →
      opClass r.op = some r.cls → r.payload.length ≤ 256 →
      (let b := s.dev.bundle (linkHub l) (linkGrp l) r.peer
       let x := s.dev.link l
       let before : Prop := ∃ q ∈ b.held, q.cls = r.cls ∧ spreadLink b q.offset = some l
       (∀ tag : Nat, spreadLink b r.offset = some l → b.due = false → ¬before → x.away = false → x.peer = r.peer →
          freeTag x = some tag → mayPut s.variant s.dev l r.cls = true →
          ∃ t f, exec (.linkDataFrameTx l (some r)) s = .next t ∧
            t = s.on { s.dev with links := t.dev.links, out := s.dev.out ++ [.linkData l f], ctr := t.dev.ctr } ∧
            Counted s.dev t.dev 0x3416 (l + 1) 1 ∧ (∀ k, k ≠ l → t.dev.link k = s.dev.link k) ∧
            f.seq = x.txSeq ∧ f.tag = tag ∧ f.op = r.op ∧ f.cls = r.cls ∧ f.kind = r.kind ∧ f.rlen = r.len ∧ f.exp = r.exp ∧
            f.offset = r.offset ∧ f.poison = false ∧ f.crc = dataCrc f ∧
            (f.form, f.wire) = linkForm (s.dev.num 0x3401 3 1 = 1) x.welide x.belide r.op (padFlit (reqPayload r)) ∧
            t.dev.link l = { x with
              txSeq := (x.txSeq + 1) % 4096,
              credits := subAt x.credits r.cls 1,
              tags := x.tags ++ [{ tag := tag, req := r }],
              replay := x.replay ++ [{ frame := f, replays := 0 }] }) ∧
       (spreadLink b r.offset = none ∨
          (spreadLink b r.offset = some l ∧ (b.due = true ∨ before ∨ x.away = true ∨ x.peer ≠ r.peer ∨ freeTag x = none ∨
            mayPut s.variant s.dev l r.cls = false)) →
          ∃ t, exec (.linkDataFrameTx l (some r)) s = .next t ∧
          t = s.on { s.dev with bundles := t.dev.bundles, ctr := t.dev.ctr } ∧
          (let e := t.dev.bundle (linkHub l) (linkGrp l) r.peer
           e.held = b.held ++ [r] ∧ e.list = b.list ∧ e.due = b.due) ∧
          (∀ k : Nat, counterOf t.dev 0x341C (k + 1) = counterOf s.dev 0x341C (k + 1) + ((b.held ++ [r]).filter (fun q =>
            spreadLink b q.offset == some k && noCredit s.dev k q.cls && !b.waited.contains q)).length) ∧
          ∀ k : Nat, (∀ j, k ≠ odKey 0x341C (j + 1)) → tget 0 t.dev.ctr k = tget 0 s.dev.ctr k))) ∧
    (∀ (f : LinkFrame) (al : Option Nat) (rest : List (LinkFrame × Option Nat)), (s.dev.link l).rxFrames = (f, al) :: rest →
      (let x := s.dev.link l
       let takes := switchTakes s.dev (linkHub l) (groupPorts l) f.cls
       let sends := mayPut s.variant s.dev l (answerCls f.op)
       let d1 := s.dev.modLink l (fun x => { x with
         rxWaits := false, rxFrames := rest, rxUsed := subAt x.rxUsed f.cls 1, rxOwed := addAt x.rxOwed f.cls 1 })
       (takes = false → exec (.linkDataFrameTx l none) s = .next s) ∧
       (takes = true → sends = false → ∃ t, exec (.linkDataFrameTx l none) s = .next t ∧
         if noCredit s.dev l (answerCls f.op) = true ∧ linkRuns s.variant s.dev l = true ∧ x.phase = .active ∧ x.rxWaits = false then
           t = s.on { s.dev with links := t.dev.links, ctr := t.dev.ctr } ∧ t.dev.link l = { x with rxWaits := true } ∧
           Counted s.dev t.dev 0x341C (l + 1) 1
         else t = s) ∧
       (takes = true → sends = true → al.bind s.dev.allocOf = none → ∃ t g, exec (.linkDataFrameTx l none) s = .next t ∧
         t = s.on { d1 with links := t.dev.links, out := s.dev.out ++ [.linkData l g], ctr := t.dev.ctr } ∧
         g.tag = f.tag ∧ g.poison = true ∧ g.op = (if f.op = 0x08 then 0x10 else 0x03) ∧ (t.dev.link l).rxFrames = rest ∧
         (t.dev.link l).rxUsed = subAt x.rxUsed f.cls 1 ∧
         counterOf t.dev 0x341F (l + 1) = counterOf s.dev 0x341F (l + 1) + 1) ∧
       (∀ a : Alloc, takes = true → sends = true → al.bind s.dev.allocOf = some a →
         (let served := serveAccess s.variant a f d1
          ∃ e g, exec (.linkDataFrameTx l none) s = .next (s.on (settlePins e)) ∧
          e = { served.2.2 with links := e.links, out := served.2.2.out ++ [.linkData l g], ctr := e.ctr } ∧
          Counted served.2.2 e 0x3416 (l + 1) 1 ∧ g.tag = f.tag ∧ g.poison = served.2.1 ∧
          g.op = (if f.op = 0x08 then 0x10 else 0x03) ∧ (e.link l).rxFrames = rest ∧ (e.link l).rxUsed = subAt x.rxUsed f.cls 1))))

/-- R319, R324: the frame in order is delivered and counted in OD 0x3417: a request waits for its slice with the export that admitted it, an answer
frees its tag and reaches its requester; a frame that fails its CRC, or comes after a missing one, is discarded, counted in OD 0x3418, and owes a
nak; one delivered before is discarded. What its forward error correction mended is counted in OD 0x341E.
Completes: linkDataFrameRx. -/
def Obligations.LinkFramesDelivered : Prop :=
  ∀ (s : State) (l : Nat) (f : LinkFrame), linkRuns s.variant s.dev l = true → (s.dev.link l).phase = .active →
    (s.dev.link l).losing = false →
    (let x := s.dev.link l
     let counted (t : State) (idx n : Nat) : Prop := ∀ k, tget 0 t.dev.ctr k = tget 0 s.dev.ctr k +
       (if k = odKey 0x341E (l + 1) then f.fec else 0) + (if k = odKey idx (l + 1) then n else 0)
     (f.crc ≠ dataCrc f → ∃ t, exec (.linkDataFrameRx l f) s = .next t ∧ t = s.on { s.dev with links := t.dev.links, ctr := t.dev.ctr } ∧
        (∀ k, k ≠ l → t.dev.link k = s.dev.link k) ∧ t.dev.link l = { x with gap := true, nakOwed := true } ∧ counted t 0x3418 1) ∧
     (f.crc = dataCrc f → f.seq = x.rxSeq → f.op ∈ [0x02, 0x08, 0x18, 0x19] →
        ∃ t, exec (.linkDataFrameRx l f) s = .next t ∧ t = s.on { s.dev with links := t.dev.links, ctr := t.dev.ctr } ∧
          (∀ k, k ≠ l → t.dev.link k = s.dev.link k) ∧ counted t 0x3417 1 ∧
          t.dev.link l = { x with rxSeq := (x.rxSeq + 1) % 4096, gap := false, rxSince := x.rxSince + 1,
                                  rxFrames := x.rxFrames ++ [(f, (admits s.dev f).map (fun a => a.handle))],
                                  rxUsed := addAt x.rxUsed f.cls 1 }) ∧
     (∀ u : TagUse, f.crc = dataCrc f → f.seq = x.rxSeq → f.op ∉ [0x02, 0x08, 0x18, 0x19] →
        x.tags.find? (fun w => decide (w.tag = f.tag)) = some u → u.req.tile = none →
        ∃ t, exec (.linkDataFrameRx l f) s = .next t ∧ t = s.on { s.dev with links := t.dev.links, ctr := t.dev.ctr, out := t.dev.out, rooms := t.dev.rooms, remote := t.dev.remote } ∧
          (u.req.op ≠ 0x08 → t.dev.rooms = s.dev.rooms ∧ t.dev.remote = s.dev.remote) ∧ counted t 0x3417 1 ∧
          t.dev.link l = { x with rxSeq := (x.rxSeq + 1) % 4096, gap := false, rxSince := x.rxSince + 1,
                                  rxOwed := addAt x.rxOwed f.cls 1, tags := x.tags.filter (fun w => w.tag != f.tag) } ∧
          t.dev.out = s.dev.out ++ [.remoteDone u.req (if f.poison then []
            else if f.op = 0x10 then (densePayload f).take u.req.len else densePayload f) f.poison]) ∧
     (f.crc = dataCrc f → f.seq ≠ x.rxSeq →
        ∃ t, exec (.linkDataFrameRx l f) s = .next t ∧ t = s.on { s.dev with links := t.dev.links, ctr := t.dev.ctr } ∧
          (∀ k, k ≠ l → t.dev.link k = s.dev.link k) ∧
          if (x.rxSeq + 4096 - f.seq) % 4096 ≤ 2048 then t.dev.link l = x ∧ counted t 0x3418 0
          else t.dev.link l = { x with gap := true, nakOwed := true } ∧ counted t 0x3418 1))

/-- R317 to R319, R331: a control frame goes out after 64 data frames, an idle microsecond or with a nak owed, with its CRC and the credits
owed. A good
one whose alive is next adds its credits, frees what its ackseq covers and, with a nak, has all that is held replayed; a repeat is counted in
OD 0x341B; a bad one, a gap in alive, or too long without a valid one takes the link to RESYNC, which a good one leaves with a replay of everything
held; a frame unacknowledged for too long has everything held replayed.
Completes: linkControlFrameTx, linkControlFrameRx, linkReplayTimeout, linkAliveTimeout. -/
def Obligations.LinkControlKeepsLinksAlive : Prop :=
  ∀ (s : State) (l : Nat), linkRuns s.variant s.dev l = true →
    (let x := s.dev.link l
     let held := (s.dev.bundle (linkHub l) (linkGrp l) x.peer).held
     (∀ idle : Nat, x.phase = .active ∨ x.phase = .resync → 64 ≤ x.rxSince ∨ 1 ≤ idle ∨ x.nakOwed = true →
        ∃ t f, exec (.linkControlFrameTx l idle) s = .next t ∧
          t = s.on { s.dev with links := t.dev.links, out := s.dev.out ++ [.linkCtl l f] } ∧ f.nak = x.nakOwed ∧
          f.ackseq = (x.rxSeq + 4095) % 4096 ∧ f.cr = ctlCredits s.dev l ∧ f.alive = x.txAlive ∧ f.crc = ctlCrc f ∧
          (t.dev.link l).txAlive = x.txAlive + 1 ∧ (t.dev.link l).nakOwed = false ∧ (t.dev.link l).rxSince = 0 ∧
          (t.dev.link l).replay = x.replay ∧ (t.dev.link l).phase = x.phase) ∧
     (∀ f : CtlFrame, x.phase = .active → held = [] →
        (f.crc ≠ ctlCrc f → ∃ t, exec (.linkControlFrameRx l f) s = .next t ∧ t = s.on { s.dev with links := t.dev.links } ∧
          t.dev.link l = { x with phase := .resync, away := true, txAlive := 0, rxAlive := none }) ∧
        (f.crc = ctlCrc f → x.rxAlive = some f.alive → ∃ t, exec (.linkControlFrameRx l f) s = .next t ∧
          t = s.on { s.dev with ctr := t.dev.ctr, log := t.dev.log, marks := t.dev.marks } ∧ Counted s.dev t.dev 0x341B (l + 1) 1) ∧
        (f.crc = ctlCrc f → x.rxAlive ≠ some f.alive → f.alive ≠ x.rxAlive.elim 0 (fun a => a + 1) →
          ∃ t, exec (.linkControlFrameRx l f) s = .next t ∧ t.dev.link l = { x with phase := .resync, away := true, txAlive := 0, rxAlive := none }) ∧
        (f.crc = ctlCrc f → x.rxAlive ≠ some f.alive → f.alive = x.rxAlive.elim 0 (fun a => a + 1) →
          (let left := x.replay.filter (fun h => !covers f.ackseq h.frame.seq)
           ∃ t, exec (.linkControlFrameRx l f) s = .next t ∧
            t = s.on { s.dev with links := t.dev.links, bundles := t.dev.bundles, out := t.dev.out, ctr := t.dev.ctr } ∧
            t.dev.out = s.dev.out ++ (if f.nak then left.map (fun h => .linkData l h.frame) else []) ∧
            Counted s.dev t.dev 0x3419 (l + 1) (if f.nak then left.length else 0) ∧
            t.dev.link l = { x with
              away := (t.dev.link l).away,
              rxAlive := some f.alive,
              credits := (x.credits.zip f.cr).map (fun e => e.1 + e.2),
              replay := if f.nak then left.map (fun h => { h with replays := h.replays + 1 }) else left }))) ∧
     (∀ f : CtlFrame, x.phase = .resync → held = [] → f.crc = ctlCrc f →
        ∃ t, exec (.linkControlFrameRx l f) s = .next t ∧
          t = s.on { s.dev with links := t.dev.links, bundles := t.dev.bundles, out := t.dev.out, ctr := t.dev.ctr } ∧
          (t.dev.link l).phase = .active ∧ (t.dev.link l).credits = f.cr ∧ (t.dev.link l).rxAlive = some f.alive ∧
          t.dev.out = s.dev.out ++ (x.replay.filter (fun h => !covers f.ackseq h.frame.seq)).map (fun h => .linkData l h.frame)) ∧
     (∀ elapsed : Nat, x.phase = .active → x.replay ≠ [] → s.dev.num 0x3401 1 10 ≤ elapsed →
        ∃ t, exec (.linkReplayTimeout l elapsed) s = .next t ∧
          t = s.on { s.dev with links := t.dev.links, out := t.dev.out, ctr := t.dev.ctr } ∧
          t.dev.out = s.dev.out ++ x.replay.map (fun h => .linkData l h.frame) ∧
          t.dev.link l = { x with replay := x.replay.map (fun h => { h with replays := h.replays + 1 }) } ∧
          Counted s.dev t.dev 0x3419 (l + 1) x.replay.length) ∧
     (∀ elapsed : Nat, x.phase = .active → s.dev.num 0x3401 2 20 < elapsed →
        ∃ t, exec (.linkAliveTimeout l elapsed) s = .next t ∧ t = s.on { s.dev with links := t.dev.links } ∧
          t.dev.link l = { x with phase := .resync, away := true, txAlive := 0, rxAlive := none }))

/-- R320, R330 to R332, R335, R336: a frame replayed 8 times, 100 µs in RESYNC, 10 ms in EXCHANGE, a lost lane and a retry of a DOWN link each enter
TRAIN, counted in OD 0x341A. Training that ends locked with at least 2 good lanes goes on to EXCHANGE on all 4 or on 2 of them, and
a lane that did not train stays out; one that fails is tried again, and the fourth
within a second takes the link DOWN, whose requests are then answered with poison.
Completes: linkRetrain, linkResyncTimeout, linkExchangeTimeout, linkLaneLoss, linkDownRetry, linkTrainingEnd, linkDown. -/
def Obligations.LinksTrainAndFall : Prop :=
  ∀ (s : State) (l : Nat),
    (let x := s.dev.link l
     let trains (c : Instr) (bad : BitVec 4) : Prop := ∃ t, exec c s = .next t ∧
        t = s.on { s.dev with links := t.dev.links, ctr := t.dev.ctr, marks := t.dev.marks } ∧ Counted s.dev t.dev 0x341A (l + 1) 1 ∧
        (∀ k, k ≠ l → t.dev.link k = s.dev.link k) ∧ (t.dev.link l).phase = .train ∧ (t.dev.link l).badLanes = bad ∧
        (t.dev.link l).tags = x.tags ∧ (t.dev.link l).replay.map Held.frame = x.replay.map Held.frame
     (x.phase = .active → (∃ h ∈ x.replay, 8 ≤ h.replays) → trains (.linkRetrain l) x.badLanes) ∧
     (∀ elapsed : Nat, x.phase = .resync → 100 ≤ elapsed → trains (.linkResyncTimeout l elapsed) x.badLanes) ∧
     (∀ elapsed : Nat, x.phase = .exchange → 10000 ≤ elapsed → trains (.linkExchangeTimeout l elapsed) x.badLanes) ∧
     (∀ lane : Nat, x.phase = .active → lane < 4 → x.lanes.getLsbD lane = true →
        trains (.linkLaneLoss l lane) (x.badLanes ||| BitVec.ofNat 4 (2 ^ lane))) ∧
     (x.phase = .down → x.losing = false → linkServes s.variant s.dev l = true → linkEnabled s.dev l = true →
        s.dev.marked (linkHub l) limLinkRetry l = false → trains (.linkDownRetry l) x.badLanes) ∧
     (∀ (good : BitVec 4) (locked : Bool), x.phase = .train → linkServes s.variant s.dev l = true →
        (let lanes := laneMap (good &&& ~~~x.badLanes)
         (locked = true → lanes ≠ 0 → ∃ t, exec (.linkTrainingEnd l good locked) s = .next t ∧ t = s.on { s.dev with links := t.dev.links } ∧
            t.dev.link l = { x with phase := .exchange, lanes := lanes, badLanes := x.badLanes ||| ~~~good }) ∧
         (locked = false ∨ lanes = 0 → ∃ t, exec (.linkTrainingEnd l good locked) s = .next t ∧
            t = s.on { s.dev with links := t.dev.links, ctr := t.dev.ctr } ∧
            (t.dev.link l).phase =
              if 4 ≤ ((x.failed ++ [x.entered]).filter (fun u => decide (x.entered ≤ u + 1000000))).length then .down else .train))) ∧
     (x.losing = true → (∀ u ∈ x.tags, u.req.tile = none) → ∃ t, exec (.linkDown l) s = .next t ∧
        t = s.on { s.dev with links := t.dev.links, out := t.dev.out, rooms := t.dev.rooms, remote := t.dev.remote } ∧
        t.dev.link l = { x with replay := [], tags := [], losing := false } ∧
        t.dev.out = s.dev.out ++ x.tags.map (fun u => .remoteDone u.req [] true)))

/-- R313, R332 to R334: a link in EXCHANGE sends its capability record with its CRC; a record that fails its CRC is discarded; the module's own
identity, or no common version, takes it DOWN with an event; once each side has reported that it has seen the other's, a link that both sides hold
state for resumes and replays, and any other starts afresh with the peer's slots as its credits; the loop time is held in OD 0x341D.
R327 to R329, R336: a bundle's list is rebuilt from its ACTIVE members when no member that changes holds unacknowledged frames, and is due until
then (notes/assumptions/141.md); what has waited too long with no member ACTIVE is answered with poison.
Completes: linkCapabilityTx, linkCapabilityRx, bundleRebuild, bundleWaitExpiry. -/
def Obligations.LinksExchangeAndBundle : Prop :=
  (∀ (s : State) (l : Nat), linkRuns s.variant s.dev l = true → (s.dev.link l).phase = .exchange →
     (let x := s.dev.link l
      let sent (rec : CapRecord) : Prop := rec.ident = Config.linkIdentity ∧ rec.link = l ∧ rec.lanes = x.lanes ∧ rec.seen = x.seen ∧
        rec.rxseq = x.rxSeq ∧ rec.resume = !x.fresh ∧ rec.vmin = 1 ∧ rec.vmax = 1 ∧ rec.slots = linkSlots ∧ rec.tags = 4096 ∧ rec.crc = capCrc rec
      let idle (peer : BitVec 64) : Prop := (s.dev.bundle (linkHub l) (linkGrp l) peer).held = []
      let up (t : State) (rec : CapRecord) (ns : Nat) (first : List Output) : Prop :=
        (t.dev.link l).phase = .active ∧ (t.dev.link l).peer = rec.ident ∧ (t.dev.link l).fresh = false ∧
        t.dev.vals = tset s.dev.vals (odKey 0x341D (l + 1)) (toLe 4 ns) ∧
        Posted s.dev t.dev (if x.lanes = 0xF then evLinkUp else evLinkDegraded) (linkHub l) (linkUnit l) [] ∧
        (idle rec.ident → idle x.peer →
          (x.fresh = false ∧ rec.resume = true ∧ rec.ident = x.peer →
            (t.dev.link l).txSeq = x.txSeq ∧ (t.dev.link l).rxSeq = x.rxSeq ∧ (t.dev.link l).credits = x.credits ∧
            t.dev.out = s.dev.out ++ first ++ (x.replay.filter (fun h => !covers ((rec.rxseq + 4095) % 4096) h.frame.seq)).map
              (fun h => .linkData l h.frame)) ∧
          (x.fresh = true ∨ rec.resume = false ∨ rec.ident ≠ x.peer →
            (t.dev.link l).txSeq = 0 ∧ (t.dev.link l).rxSeq = 0 ∧ (t.dev.link l).credits = rec.slots ∧ t.dev.out = s.dev.out ++ first))
      (x.seen = false ∨ x.record = none → ∃ t rec, exec (.linkCapabilityTx l) s = .next t ∧ sent rec ∧
         t = s.on { s.dev with links := t.dev.links, out := s.dev.out ++ [.linkCap l rec] } ∧
         (∀ k, k ≠ l → t.dev.link k = s.dev.link k) ∧ t.dev.link l = { x with told := x.told || x.seen }) ∧
      (∀ (p : CapRecord) (ns : Nat), x.seen = true → x.record = some (p, ns) →
         ∃ t rec, exec (.linkCapabilityTx l) s = .next t ∧ sent rec ∧ up t p ns [.linkCap l rec]) ∧
      (∀ (rec : CapRecord) (ns : Nat), rec.crc ≠ capCrc rec → exec (.linkCapabilityRx l rec ns) s = .next s) ∧
      (∀ (rec : CapRecord) (ns : Nat), rec.crc = capCrc rec →
         (rec.ident = Config.linkIdentity → ∃ t, exec (.linkCapabilityRx l rec ns) s = .next t ∧
           t = s.on { s.dev with links := t.dev.links, log := t.dev.log } ∧ (t.dev.link l).phase = .down ∧
           Posted s.dev t.dev evLinkSelf (linkHub l) (linkUnit l) []) ∧
         (rec.ident ≠ Config.linkIdentity → min 1 rec.vmax < max 1 rec.vmin → ∃ t, exec (.linkCapabilityRx l rec ns) s = .next t ∧
           t = s.on { s.dev with links := t.dev.links, log := t.dev.log } ∧ (t.dev.link l).phase = .down ∧
           Posted s.dev t.dev evLinkVersion (linkHub l) (linkUnit l) []) ∧
         (rec.ident ≠ Config.linkIdentity → ¬(min 1 rec.vmax < max 1 rec.vmin) →
           (rec.seen = false ∨ x.told = false → ∃ t, exec (.linkCapabilityRx l rec ns) s = .next t ∧
             t = s.on { s.dev with links := t.dev.links } ∧ (∀ k, k ≠ l → t.dev.link k = s.dev.link k) ∧
             t.dev.link l = if rec.seen then { x with seen := true, peerSeen := true, record := some (rec, ns) } else { x with seen := true }) ∧
           (rec.seen = true → x.told = true → ∃ t, exec (.linkCapabilityRx l rec ns) s = .next t ∧ up t rec ns []))))) ∧
  (∀ (s : State) (hub group : Nat) (peer : BitVec 64),
     (let b := s.dev.bundle hub group peer
      (mayRebuild s.dev b = true → b.held = [] → ∃ t, exec (.bundleRebuild hub group peer) s = .next t ∧
         t = s.on { s.dev with bundles := t.dev.bundles, links := t.dev.links } ∧
         t.dev.bundle hub group peer = { b with list := spreadList s.dev b, due := false } ∧
         (∀ l, t.dev.link l = { s.dev.link l with away := (t.dev.link l).away }) ∧
         (∀ l ∈ (t.dev.bundle hub group peer).list, (t.dev.link l).phase = .active ∧ (t.dev.link l).peer = peer ∧ (t.dev.link l).away = false)) ∧
      (mayRebuild s.dev b = false → ∃ t, exec (.bundleRebuild hub group peer) s = .next t ∧ t = s.on { s.dev with bundles := t.dev.bundles } ∧
         t.dev.bundle hub group peer = { b with due := b.due || rebuildDue s.dev b }) ∧
      (∀ elapsed : Nat, (∀ l ∈ groupLinks hub group, ¬((s.dev.link l).phase = .active ∧ (s.dev.link l).peer = peer)) → b.held ≠ [] →
         s.dev.num 0x3401 4 1000 ≤ elapsed → (∀ r ∈ b.held, r.tile = none) →
         ∃ t, exec (.bundleWaitExpiry hub group peer elapsed) s = .next t ∧
           t = s.on { s.dev with bundles := t.dev.bundles, out := t.dev.out, rooms := t.dev.rooms, remote := t.dev.remote } ∧
           t.dev.bundle hub group peer = { b with held := [] } ∧
           t.dev.out = s.dev.out ++ b.held.map (fun r => .remoteDone r [] true))))

/-! ### Power and heat (ch. 15) -/

/-- R416: whatever the demands, the arbiter's budgets sum to no more than the pool, and no region's is above twice F; with room in the pool
every region
has at least the lesser of its demand and F.
R416, R428: an interval of the arbiter gives each region of the variant its budget, meters the input power over the last ten intervals, and adds the
energy of the input; nothing but the power state changes.
Completes: arbiterInterval. -/
def Obligations.BudgetsAndInputShared : Prop :=
  (∀ (F pool : Rat) (demands : List Rat), 0 ≤ F → (∀ x ∈ demands, 0 ≤ x) →
     (let bs := shareOut F pool demands
      bs.length = demands.length ∧ bs.sum ≤ max 0 pool ∧ (∀ b ∈ bs, 0 ≤ b ∧ b ≤ 2 * F) ∧
       ((demands.map (fun x => min x F)).sum ≤ pool → ∀ (i : Nat) (x b : Rat), demands[i]? = some x → bs[i]? = some b → min x F ≤ b))) ∧
  (∀ (s : State) (inputW governedW inputUj : Rat) (acts : List Activity) (domUj : List (Nat × Rat)) (shares : List EnergyShare),
     governs s.variant s.dev 0 = true →
     ∃ t, exec (.arbiterInterval inputW governedW acts inputUj domUj shares) s = .next t ∧ t = s.on { s.dev with pow := t.dev.pow } ∧
       (let bs := shareOut (fullW s.variant) (poolOf s.variant s.dev inputW governedW)
          ((hubsPresent s.variant).map (fun h => demandOf s.variant s.dev h acts))
        ∀ (i h : Nat) (b : Rat), (hubsPresent s.variant)[i]? = some h → bs[i]? = some b →
         t.dev.region h = { s.dev.region h with budget := b }) ∧
       t.dev.pow.input = (inputW :: s.dev.pow.input).take 10 ∧ t.dev.pow.inputUj = s.dev.pow.inputUj + inputUj ∧
       t.dev.pow.doms = s.dev.pow.doms ∧ t.dev.pow.hints = s.dev.pow.hints ∧
       (shares = [] → t.dev.pow.portUj = s.dev.pow.portUj ∧ t.dev.pow.phaseUj = s.dev.pow.phaseUj))

/-- R415, R418, R419, R421, R422, R432: a tick admits no more than the region's budget and its last draw plus its slope allow, gives each
of its domains
a grant, adds it to the domain's credit up to two grants, and counts a domain that works without credit in OD 0x4401.
R426, R427: a sensor's reading is its domain's junction temperature. At T1 the ceiling falls by one, counted in OD 0x4404, and a supply above it
or under way to a point above it moves down to it; below T1 less the hysteresis it rises by one. At OP0 and 105 °C a governed grant is halved, to 1/16 at most, and cooling doubles it
back.
Completes: regionGovernorTick, thermalSense, thermThrottle, thermalCeilingRise, thermLimit. -/
def Obligations.GovernorAndThermalControl : Prop :=
  (∀ (s : State) (hub : Nat) (dPrev : Rat) (acts : List Activity), governs s.variant s.dev hub = true →
     (let mine := actsOf s.variant hub acts
      let r := s.dev.region hub
      ∃ t, exec (.regionGovernorTick hub dPrev acts) s = .next t ∧ t = s.on { s.dev with pow := t.dev.pow, ctr := t.dev.ctr } ∧
       (∀ h, h ≠ hub → t.dev.region h = s.dev.region h) ∧ (t.dev.region hub).budget = r.budget ∧ (t.dev.region hub).dPrev = dPrev ∧
       (t.dev.region hub).wakes = 0 ∧ (t.dev.region hub).admitted ≤ max 0 (min r.budget (dPrev + slopeOf s.variant r)) ∧
       0 ≤ (t.dev.region hub).ballast ∧
       (∀ k, ((∃ a ∈ mine, a.domain = k) ∨ (∃ e ∈ s.dev.pow.doms, e.1 = k ∧ domGoverned k = true ∧ domRegion k = hub)) →
         (t.dev.dom k).credit = min ((s.dev.dom k).credit + (t.dev.dom k).grant) (2 * (t.dev.dom k).grant) ∧
         (t.dev.dom k).op = (s.dev.dom k).op ∧ (t.dev.dom k).ceiling = (s.dev.dom k).ceiling) ∧
       (∀ k, (∀ a ∈ mine, a.domain ≠ k) → (∀ e ∈ s.dev.pow.doms, e.1 = k → ¬(domGoverned k = true ∧ domRegion k = hub)) →
         t.dev.dom k = s.dev.dom k) ∧
       ((∀ a ∈ mine, a.active ≠ 0 → 0 < (s.dev.dom a.domain).credit) → t.dev.ctr = s.dev.ctr))) ∧
  (∀ (s : State) (k : Nat), domSwitched s.variant k = true → mainOn s.dev = true →
     (let x := s.dev.dom k
      let only (e : Dev) : Prop := (∀ k', k' ≠ k → e.dom k' = s.dev.dom k') ∧ e.pow = { s.dev.pow with doms := e.pow.doms }
      (∀ c : Rat, ∃ t, exec (.thermalSense k c) s = .next t ∧ t = s.on { s.dev with pow := t.dev.pow } ∧ only t.dev ∧
         t.dev.dom k = { x with junction := c }) ∧
      (thermT1 s.dev k ≤ x.junction → x.ceiling ≠ 0 → ∃ t, exec (.thermThrottle k) s = .next t ∧
         t = s.on { s.dev with pow := t.dev.pow, ctr := t.dev.ctr, log := t.dev.log, marks := t.dev.marks } ∧ only t.dev ∧
         Counted s.dev t.dev 0x4404 (domSs k) 1 ∧
         t.dev.dom k = { x with ceiling := x.ceiling - 1, opNext :=
           if x.ceiling - 1 < max x.op (x.opNext.getD 0) then (if x.op = x.ceiling - 1 then none else some (x.ceiling - 1)) else x.opNext }) ∧
      (x.junction < thermT1 s.dev k - thermHyst s.dev k → x.ceiling < 7 → ∃ t, exec (.thermalCeilingRise k) s = .next t ∧
         t = s.on { s.dev with pow := t.dev.pow } ∧ only t.dev ∧
         (t.dev.dom k).ceiling = x.ceiling + 1 ∧ (t.dev.dom k).op = x.op) ∧
      (x.op = 0 → 105 ≤ x.junction → ∃ t, exec (.thermLimit k) s = .next t ∧ t = s.on { s.dev with pow := t.dev.pow, log := t.dev.log } ∧
         only t.dev ∧ t.dev.dom k = { x with halvings := if domGoverned k then min 4 (x.halvings + 1) else 1 } ∧
         (if x.halvings = 0 then Posted s.dev t.dev evThermLimit (domRegion k) (codeOf (domTarget k)) [] else t.dev.log = s.dev.log)) ∧
      (x.junction < 105 - thermHyst s.dev k → x.junction < 105 → ∃ t, exec (.thermLimit k) s = .next t ∧
         t = s.on { s.dev with pow := t.dev.pow } ∧ only t.dev ∧ t.dev.dom k = { x with halvings := x.halvings - 1 })))

/-- R414, R418, R420: a choice moves a phase's point by one step at most, counts the phases that went down in OD 0x4400, and starts the
supplies' moves; the settings of the power entries hold from then on; a move that is done leaves the domain at its new point, not above its ceiling.
R424, R425: a droop holds its region's admission and is counted in OD 0x4402 until its hold ends; below 0.50 V a domain in Run or Hold stops, and above 0.52
V its handshakes run again.
Completes: phasePointChoice, supplyMoveDone, pwrDroop, droopHoldExpiry, supplyCollapseStop, supplyRecover. -/
def Obligations.PointsMoveAndDroopsHold : Prop :=
  ((∀ (s : State) (hub : Nat) (acts : List Activity) (samples : List EnergySample), governs s.variant s.dev hub = true →
     ∃ t, exec (.phasePointChoice hub acts samples) s = .next t ∧ t = s.on { s.dev with pow := t.dev.pow, ctr := t.dev.ctr } ∧
       (t.dev.region hub).set = some (govSetNow s.dev) ∧
       (∀ p c : Nat, (∃ a ∈ actsOf s.variant hub acts, a.phase = p) → tfind (s.dev.region hub).points p = some c →
         ∃ g, tfind (t.dev.region hub).points p = some g ∧ c ≤ g + 1 ∧ g ≤ c + 1) ∧
       (∀ k, (∀ a ∈ actsOf s.variant hub acts, a.domain ≠ k) → t.dev.dom k = s.dev.dom k) ∧
       (∀ k, (t.dev.dom k).op = (s.dev.dom k).op) ∧ (actsOf s.variant hub acts = [] → t.dev.ctr = s.dev.ctr)) ∧
   (∀ (s : State) (k g : Nat), (s.dev.dom k).opNext = some g → ∃ t, exec (.supplyMoveDone k) s = .next t ∧
     t = s.on { s.dev with pow := { s.dev.pow with doms := t.dev.pow.doms } } ∧
     t.dev.dom k = { s.dev.dom k with op := underCeiling (s.dev.dom k) g, opNext := none } ∧ ∀ k', k' ≠ k → t.dev.dom k' = s.dev.dom k')) ∧
  ((∀ (s : State) (k mv : Nat), hasDetector s.variant k = true → domState s.dev k = .run ∨ domState s.dev k = .hold →
     mv + (govSet s.dev (domRegion k)).margin < pointMv (s.dev.dom k).op →
     ∃ t, exec (.pwrDroop k mv) s = .next t ∧
       t = s.on { s.dev with pow := t.dev.pow, ctr := t.dev.ctr, log := t.dev.log, marks := t.dev.marks } ∧
       t.dev.region (domRegion k) = { s.dev.region (domRegion k) with droop := true } ∧ Counted s.dev t.dev 0x4402 (domSs k) 1 ∧
       t.dev.pow.doms = s.dev.pow.doms) ∧
   (∀ (s : State) (hub : Nat), governs s.variant s.dev hub = true → ∃ t, exec (.droopHoldExpiry hub) s = .next t ∧
     t = s.on { s.dev with pow := { s.dev.pow with regions := t.dev.pow.regions } } ∧
     t.dev.region hub = { s.dev.region hub with droop := false }) ∧
   (∀ (s : State) (k mv : Nat), domSwitched s.variant k = true → domState s.dev k = .run ∨ domState s.dev k = .hold → (s.dev.dom k).collapsed = false → mv < 500 →
     ∃ t, exec (.supplyCollapseStop k mv) s = .next t ∧
       t = s.on { s.dev with pow := { s.dev.pow with doms := t.dev.pow.doms }, ctr := t.dev.ctr } ∧
       t.dev.dom k = { s.dev.dom k with collapsed := true } ∧ domRuns t.dev k = false ∧ Counted s.dev t.dev 0x4402 (domSs k) 1 ∧
       ∀ k', k' ≠ k → t.dev.dom k' = s.dev.dom k') ∧
   (∀ (s : State) (k mv : Nat), (s.dev.dom k).collapsed = true → 520 < mv → ∃ t, exec (.supplyRecover k mv) s = .next t ∧
     t = s.on { s.dev with pow := { s.dev.pow with doms := t.dev.pow.doms } } ∧
     t.dev.dom k = { s.dev.dom k with collapsed := false } ∧ ∀ k', k' ≠ k → t.dev.dom k' = s.dev.dom k'))

/-! ### Power states and own writes (ch. 14, 15) -/

/-- R429 to R433: a power request of one unit that its tables accept starts its domain's move, or waits behind the move in progress, or while its region
wakes 8 domains, in place of any that waited before it; one that they refuse completes with its status. A drain that is done lets the move end; a
move that ends leaves the domain in its new state, at OP4 or its ceiling and with no credit when it wakes from Off, the request behind it then
applies, and so does the next wake that waits in the region.
R34, R442, R433: a woken wedge whose records name a macro restores its active bank and its group, its banks not Ready waking Empty, and keeps no
record; a tile that waits for a domain in Retain wakes it when the OD 0x4012.01 in force is 1.
Completes: powerRequest, domainDrainDone, powerTransitionDone, wedgeWakeRestore, wakeOnDemand. -/
def Obligations.PowerStatesMoveAndRestore : Prop :=
  ((∀ (s : State) (r : OdReq) (u : Target), ReqTaken s.variant s.dev r 0x4010 → targetOf (bitsOf (leNat r.value) 31 0) = some u →
     (let st := pstateOf (bitsOf (leNat r.value) 33 32)
      let k := domOf u
      let x := s.dev.dom k
      (requestStatus s.variant s.dev r.src u st ≠ stSuccess → ∃ t, exec (.powerRequest r) s = .next t ∧
         t = s.on { s.dev with cmds := t.dev.cmds, comps := t.dev.comps } ∧
         ReqEnded s.dev t.dev r (requestStatus s.variant s.dev r.src u st)) ∧
      (requestStatus s.variant s.dev r.src u st = stSuccess → (∀ h, u ≠ .hub h) → (∀ f, u ≠ .facet f) →
         ∃ t, exec (.powerRequest r) s = .next t ∧
           t = s.on { s.dev with pow := t.dev.pow, links := t.dev.links, cmds := t.dev.cmds, comps := t.dev.comps } ∧
           ReqEnded s.dev t.dev r stSuccess ∧ (∀ k', k' ≠ k → t.dev.dom k' = s.dev.dom k') ∧
           t.dev.dom k = (if x.moving.isSome then { x with latest := some st } else if x.st = st then { x with latest := none }
             else if isWake x.st st && wakeFull s.dev k then { x with latest := some st } else { x with moving := some st, drained := !(st == .retain || st == .off), latest := none })))) ∧
   (∀ (s : State) (k : Nat), (s.dev.dom k).moving.isSome = true → (s.dev.dom k).drained = false → domDrained s.variant s.dev k = true →
     ∃ t, exec (.domainDrainDone k) s = .next t ∧
       t = s.on { s.dev with pow := t.dev.pow, mem := t.dev.mem, ctr := t.dev.ctr } ∧ t.dev.dom k = { s.dev.dom k with drained := true } ∧
       ((∀ h i, domTarget k ≠ .slice h i) → t.dev.mem = s.dev.mem ∧ t.dev.ctr = s.dev.ctr)) ∧
   (∀ (s : State) (k : Nat) (st : PState), (s.dev.dom k).moving = some st → (s.dev.dom k).drained = true →
     facetOrder s.dev k st = true → st = .hold ∨ st = .run → (s.dev.dom k).st ≠ .off →
     ((s.dev.dom k).latest = none → ∃ e, exec (.powerTransitionDone k) s = .next (s.on (nextWake (domRegion k) e)) ∧
       e = { s.dev with pow := { s.dev.pow with doms := e.pow.doms } } ∧
       e.dom k = { s.dev.dom k with st := st, moving := none } ∧ ∀ k', k' ≠ k → e.dom k' = s.dev.dom k') ∧
     (∀ n : PState, (s.dev.dom k).latest = some n → n ≠ st → ∃ e, exec (.powerTransitionDone k) s = .next (s.on (nextWake (domRegion k) e)) ∧
       (e.dom k).st = st ∧ (e.dom k).moving = some n ∧ (e.dom k).latest = none ∧ ∀ k', k' ≠ k → e.dom k' = s.dev.dom k')) ∧
   (∀ (d : Dev) (hub k : Nat), (∀ n, (d.dom k).latest = some n → isWake (d.dom k).st n = false) → (d.pow.doms.map Prod.fst).Nodup →
     (nextWake hub d).dom k = d.dom k) ∧
   (∀ (s : State) (h e : Nat), (s.dev.dom (domEngine (8 * h + e))).moving = some .run → (s.dev.dom (domEngine (8 * h + e))).drained = true →
     (s.dev.dom (domEngine (8 * h + e))).st = .off → (s.dev.dom (domEngine (8 * h + e))).latest = none → h < 4 → e < 8 →
     ∃ w, exec (.powerTransitionDone (domEngine (8 * h + e))) s = .next (s.on (nextWake (domRegion (domEngine (8 * h + e))) w)) ∧
       w.dom (domEngine (8 * h + e)) = { s.dev.dom (domEngine (8 * h + e)) with
         st := .run, moving := none, op := min 4 (s.dev.dom (domEngine (8 * h + e))).ceiling, opNext := none, credit := 0, grant := 0,
         collapsed := false })) ∧
  ((∀ (s : State) (w m : Nat) (sv : Saved) (host : List (Nat × HostRead)) (verify : List VerifyErr), (s.dev.wedge w).saved = [(m, sv)] →
     domRuns s.dev (domWedge w) = true → targetHeld s.dev (.wedge (w / 16) (w % 16)) = false → (s.dev.sbank w).clearing = false →
     sv.stA ≠ .ready → sv.stB ≠ .ready →
     ∃ t, exec (.wedgeWakeRestore w host verify) s = .next t ∧
       t = s.on { s.dev with macros := t.dev.macros, wedges := t.dev.wedges, log := t.dev.log } ∧
       t.dev.mac m = { s.dev.mac m with actB := sv.actB, group := sv.group, bankA := {}, bankB := {} } ∧ (t.dev.wedge w).saved = [] ∧
       ∀ m', m' ≠ m → t.dev.mac m' = s.dev.mac m') ∧
   (∀ (s : State) (k issuer : Nat), domState s.dev k = .retain → (govSet s.dev (domRegion k)).wake = 1 → nextTileNeeds s.variant s.dev issuer k = true →
     (s.dev.dom k).moving = none → (s.dev.dom k).st = .retain →
     ∃ t, exec (.wakeOnDemand k issuer) s = .next t ∧ t = s.on { s.dev with pow := t.dev.pow } ∧
       if wakeFull s.dev k then t.dev.dom k = { s.dev.dom k with latest := some .run }
       else t.dev.dom k = { s.dev.dom k with moving := some .run, drained := true, latest := none } ∧
         (t.dev.region (domRegion k)).wakes = (s.dev.region (domRegion k)).wakes + 1))

/-- R142, R330, R335, R461: a write of 1 to OD 0x3420 sends a degraded link to train all its lanes; a write of the wall time holds it with
H0's timer; a
write of a base band or of a link's enable by a host command is a class P write, and takes effect with its record.
Completes: linkWiden, wallTimeWrite, baseBandWrite, linkEnableWrite. -/
def Obligations.OwnWritesTakeEffect : Prop :=
  (∀ (s : State) (l : Nat) (r : OdReq), ReqTaken s.variant s.dev r 0x3420 → r.sub = l + 1 → leNat r.value = 1 →
    (s.dev.link l).phase = .active → (s.dev.link l).lanes ≠ 0xF →
    ∃ t, exec (.linkWiden l r) s = .next t ∧
      t = s.on { s.dev with links := t.dev.links, ctr := t.dev.ctr, cmds := t.dev.cmds, comps := t.dev.comps } ∧
      ReqEnded s.dev t.dev r stSuccess ∧ (t.dev.link l).phase = .train ∧ (t.dev.link l).badLanes = 0 ∧
      Counted s.dev t.dev 0x341A (l + 1) 1) ∧
  (∀ (s : State) (r : OdReq), ReqTaken s.variant s.dev r 0x5801 → r.sub = 2 →
    ∃ t, exec (.wallTimeWrite r) s = .next t ∧
      t = s.on { s.dev with vals := t.dev.vals, cmds := t.dev.cmds, comps := t.dev.comps } ∧ ReqEnded s.dev t.dev r stSuccess ∧
      tfind t.dev.vals (odKey 0x5801 2) = some (padTo 8 (r.value.take 8) ++ toLe 8 (tget 0 s.dev.hubTimer 0))) ∧
  (∀ (s : State) (r : OdReq) (id : Nat) (c : Cmd), r.cmd = some id → s.dev.cmdOf id = some c →
    (ReqTaken s.variant s.dev r 0x2061 → s.dev.pendingP (odKey 0x2061 r.sub) = false →
      ∃ t, exec (.baseBandWrite r) s = .next t ∧ OfferedP s.dev t.dev id c 0x2061 r.sub r.value ∧
        t = s.on { s.dev with cmds := t.dev.cmds, comps := t.dev.comps, jour := t.dev.jour, ctr := t.dev.ctr, vals := t.dev.vals,
                              pred := t.dev.pred }) ∧
    (∀ l : Nat, r.sub = l + 1 → ReqTaken s.variant s.dev r 0x3411 → s.dev.pendingP (odKey 0x3411 r.sub) = false → r.sub < 256 →
      ∃ t, exec (.linkEnableWrite l r) s = .next t ∧ OfferedP s.dev t.dev id c 0x3411 r.sub r.value ∧
        t = s.on { s.dev with cmds := t.dev.cmds, comps := t.dev.comps, jour := t.dev.jour, ctr := t.dev.ctr, vals := t.dev.vals,
                              links := t.dev.links }))

/-! ### Checks, repair and calibration (ch. 16) -/

/-- R436 to R441: a check step of group A keeps its sums and goes on to group B; one of group B that agrees goes on to the next pattern; one that
disagrees posts KSUM_EXACT, counts in OD 0x5012, discards the tiles of its macro that have not committed, and asks for a reload, or for retirement
after one. A check age past its limit makes a step due, unless the checks are suspended; an idle macro runs one.
Completes: checkStep, checkAgeExpiry, idleCheckInterval. -/
def Obligations.ChecksRunOrCatchFaults : Prop :=
  (∀ (s : State) (m : Nat) (colErrs : List (Nat × Nat × Int)) (errs : List (Nat × Nat × Rat)) (ue : Bool),
    checkMay s.variant s.dev m = true → (s.dev.mac m).ckPos % 2 = 0 →
    ∃ t, exec (.checkStep m colErrs errs ue) s = .next t ∧
      t = s.on { s.dev with macros := t.dev.macros, pow := t.dev.pow, ctr := t.dev.ctr } ∧ OnlyMacro s.dev t.dev m ∧
      t.dev.mac m = (s.dev.mac m).checked (sumsA (s.dev.mac m).active ((s.dev.mac m).ckPos / 2) colErrs) (tget 0 s.dev.hubTimer (hubOfMacro m)) ∧
      (t.dev.mac m).ckPos = ((s.dev.mac m).ckPos + 1) % 8 ∧ (t.dev.mac m).ageMs = 0 ∧ (t.dev.mac m).ckDue = false ∧
      counterOf t.dev 0x5010 (ssFacet (facetOfMacro m)) = counterOf s.dev 0x5010 (ssFacet (facetOfMacro m)) + 1 ∧
      Paid s.dev t.dev (domWedge (wedgeOfMacro m)) checkEnergy 1 checkEnergy) ∧
  (∀ (s : State) (m : Nat) (colErrs : List (Nat × Nat × Int)), checkMay s.variant s.dev m = true → (s.dev.mac m).ckPos % 2 = 1 →
    (signatureBad (s.dev.mac m).active ((s.dev.mac m).ckPos / 2) (s.dev.mac m).ckSum colErrs = false →
      ∃ t, exec (.checkStep m colErrs [] false) s = .next t ∧
        t = s.on { s.dev with macros := t.dev.macros, pow := t.dev.pow, ctr := t.dev.ctr } ∧ OnlyMacro s.dev t.dev m ∧
        (t.dev.mac m).ckPos = ((s.dev.mac m).ckPos + 1) % 8 ∧ (t.dev.mac m).ckSum = [] ∧ (t.dev.mac m).ageMs = 0 ∧
        (t.dev.mac m).bankA = (s.dev.mac m).bankA ∧ (t.dev.mac m).bankB = (s.dev.mac m).bankB ∧
        (t.dev.mac m).reload = (if (s.dev.mac m).ckRound = 1 then false else (s.dev.mac m).reload)) ∧
    (signatureBad (s.dev.mac m).active ((s.dev.mac m).ckPos / 2) (s.dev.mac m).ckSum colErrs = true →
      ∃ t, exec (.checkStep m colErrs [] false) s = .next t ∧
        t = s.on { s.dev with macros := t.dev.macros, wedges := t.dev.wedges, engines := t.dev.engines, quants := t.dev.quants,
                              pairs := t.dev.pairs, issues := t.dev.issues, coal := t.dev.coal, tiles := t.dev.tiles,
                              remote := t.dev.remote, outVecs := t.dev.outVecs, spans := t.dev.spans, jobs := t.dev.jobs,
                              mem := { s.dev.mem with waiting := t.dev.mem.waiting }, ctr := t.dev.ctr, log := t.dev.log, pow := t.dev.pow } ∧
        counterOf t.dev 0x5012 (ssFacet (facetOfMacro m)) = counterOf s.dev 0x5012 (ssFacet (facetOfMacro m)) + 1 ∧
        (∃ e ∈ t.dev.log.way, e.code = evKsumExact ∧ e.unit = macroTarget m ∧ e.hub = hubOfMacro m) ∧
        (∀ x ∈ t.dev.tiles, x ∈ s.dev.tiles ∧ ((tileMacros s.dev x.inst x.prm x.gj).contains m = true → x.stage = .writing)) ∧
        (if (s.dev.mac m).ckRound = 0 then (t.dev.mac m).reload = true
         else (t.dev.mac m).retire = true ∧ (t.dev.mac m).reload = false))) ∧
  (∀ (s : State) (m ms : Nat), macServes s.variant s.dev m = true → s.dev.num 0x5000 1 4000 < ms →
    (ckSuspended s.dev m = true → exec (.checkAgeExpiry m ms) s = .next s) ∧
    (ckSuspended s.dev m = false → ∃ t, exec (.checkAgeExpiry m ms) s = .next t ∧ t = s.on { s.dev with macros := t.dev.macros } ∧ OnlyMacro s.dev t.dev m ∧
      t.dev.mac m = { s.dev.mac m with ckDue := true, ageMs := ms, ckAt := tget 0 s.dev.hubTimer (hubOfMacro m) })) ∧
  (∀ (s : State) (m us : Nat), slotFree s.dev m = true → s.dev.num 0x5000 2 10000 ≤ us → checkMay s.variant s.dev m = true →
    ∃ t, exec (.idleCheckInterval m us) s = .next t ∧ exec (.checkStep m [] [] false) s = .next t ∧
      ((s.dev.mac m).ckPos % 2 = 0 → (t.dev.mac m).ckPos = ((s.dev.mac m).ckPos + 1) % 8))

/-- R441, R443, R445 to R448: a reload rewrites the active bank from the image of its matrix and begins a forced round of checks; one whose
image cannot
be read takes the macro out of service. A retirement moves the macro to the first spare of its wedge, to be calibrated by force and checked by a forced round, or takes it out of
service when none is left. A scrub that its period asks for takes its energy (a free value, notes/assumptions/34.md) and changes no sound bank; a
row of odd parity sets the bank Loading, counted and posted.
Completes: macroReload, macroRetire, scrubPass. -/
def Obligations.ReloadsAndRetirementsRepair : Prop :=
  (∀ (s : State) (m : Nat) (y : Matrix) (img : Bytes), macServes s.variant s.dev m = true → (s.dev.mac m).reload = true →
    (s.dev.mac m).retire = false → (s.dev.mac m).ckRound = 0 → s.dev.matOf (s.dev.mac m).active.matrix = some y → y.imgAlloc = 0 →
    ∃ t, exec (.macroReload m (.ok img) []) s = .next t ∧
      t = s.on { s.dev with macros := t.dev.macros, wedges := t.dev.wedges, ctr := t.dev.ctr, log := t.dev.log, jour := t.dev.jour } ∧
      OnlyMacro s.dev t.dev m ∧ (t.dev.mac m).shadow = (s.dev.mac m).shadow ∧
      (t.dev.mac m).active =
        { bankOf y (leNat img) ((s.dev.mac m).active.cb * y.rowBlocks + (s.dev.mac m).active.rb) with st := .ready } ∧
      (t.dev.mac m).ckRound = 8 ∧ (t.dev.mac m).ckPos = 0 ∧
      counterOf t.dev 0x5014 (ssFacet (facetOfMacro m)) = counterOf s.dev 0x5014 (ssFacet (facetOfMacro m)) + 1 ∧
      (clampsOf y (leNat img) = 0 → Counted s.dev t.dev 0x5014 (ssFacet (facetOfMacro m)) 1) ∧
      Posted s.dev t.dev evMacroReload (hubOfMacro m) (macroTarget m) []) ∧
  (∀ (s : State) (m k : Nat) (y : Matrix), macServes s.variant s.dev m = true → (s.dev.mac m).reload = true →
    (s.dev.mac m).retire = false → (s.dev.mac m).ckRound = 0 → s.dev.matOf (s.dev.mac m).active.matrix = some y → y.imgAlloc = 0 →
    ∃ t, exec (.macroReload m (.fail k) []) s = .next t ∧
      t = s.on { s.dev with macros := t.dev.macros, log := t.dev.log, cmds := t.dev.cmds, comps := t.dev.comps } ∧
      OnlyMacro s.dev t.dev m ∧ (t.dev.mac m).unread = true ∧ (t.dev.mac m).reload = false ∧
      Posted s.dev t.dev evReloadFail (hubOfMacro m) (macroTarget m) []) ∧
  (∀ (s : State) (m : Nat) (images : List HostRead) (verify : List VerifyErr), macServes s.variant s.dev m = true →
    (s.dev.mac m).retire = true →
    (∀ (x : Nat) (rest : List Nat), (s.dev.wedge (m / 192)).spares = x :: rest →
      ∃ t, exec (.macroRetire m images verify) s = .next t ∧ (t.dev.mac m).spare = some x ∧ (t.dev.wedge (m / 192)).spares = rest ∧
        (t.dev.mac m).cal.req = true ∧ (t.dev.mac m).cal.forced = true ∧
        ((t.dev.mac m).ckRound = 8 ∧ (t.dev.mac m).reload = true ∧ (t.dev.mac m).ckPos = 0 ∨ (t.dev.mac m).unread = true ∧ (t.dev.mac m).ckRound = 0) ∧
        t.dev.ports = s.dev.ports ∧ t.dev.vals = s.dev.vals ∧ t.dev.pow = s.dev.pow ∧ t.dev.spad = s.dev.spad ∧
        ∃ e ∈ t.dev.log.way, e.code = evMacroRetire ∧ e.unit = macroTarget m) ∧
    ((s.dev.wedge (m / 192)).spares = [] →
      ∃ t, exec (.macroRetire m images verify) s = .next t ∧ (t.dev.mac m).oos = true ∧ (t.dev.mac m).retire = false ∧
        ∃ e ∈ t.dev.log.way, e.code = evSpareOut ∧ e.unit = macroTarget m)) ∧
  (∀ (s : State) (m u r : Nat), macServes s.variant s.dev m = true → (s.dev.mac m).shadow.st = .ready → u < 1024 → r < 32 →
    bgEnergy s.dev m = true →
    (scrubDue s.dev m = false → ∀ flips, exec (.scrubPass m flips) s = .next s) ∧
    (scrubDue s.dev m = true →
     (∃ t, exec (.scrubPass m []) s = .next t ∧
       t = s.on { s.dev with macros := t.dev.macros, pow := t.dev.pow, free := s.dev.free + 1 } ∧ OnlyMacro s.dev t.dev m ∧
       t.dev.mac m = { s.dev.mac m with scrubAt := some (tget 0 s.dev.hubTimer (hubOfMacro m)) } ∧
       Paid s.dev t.dev (domWedge (wedgeOfMacro m)) (Config.scrubPj s.dev.free : Nat) 1 (Config.scrubPj s.dev.free : Nat)) ∧
     ∃ t, exec (.scrubPass m [(u, r)]) s = .next t ∧
      t = s.on { s.dev with macros := t.dev.macros, pow := t.dev.pow, free := s.dev.free + 1, ctr := t.dev.ctr, log := t.dev.log } ∧
      OnlyMacro s.dev t.dev m ∧ (t.dev.mac m).shadow = { (s.dev.mac m).shadow with st := .loading } ∧
      (t.dev.mac m).active = (s.dev.mac m).active ∧ (t.dev.mac m).scrubbing = true ∧
      Counted s.dev t.dev 0x5018 (ssFacet (facetOfMacro m)) 1 ∧ Posted s.dev t.dev evScrubParity (hubOfMacro m) (macroTarget m) []))

/-- R79, R84, R443: an uncorrectable error of a marked-column entry makes its macro exact-only until the entry is rebuilt from both banks; one of an
outlier copy frees the copy, and a matrix that it served is exact-only in the wedge; both post CORR_ECC. Suspended checks of a bank resume once its signatures are
computed again.
Completes: corrEcc, markedEntryRebuild, checkStoreRecompute. -/
def Obligations.StoreErrorsMended : Prop :=
  (∀ (s : State) (w index m : Nat) (k : Mark), facetPresent s.variant (w / 16) = true → domRuns s.dev (domWedge w) = true →
    tfind (s.dev.wedge w).marks index = some k → macroInSlot s.dev w (index / 8) = some m →
    ∃ t, exec (.corrEcc w false index) s = .next t ∧ t = s.on { s.dev with macros := t.dev.macros, log := t.dev.log } ∧
      OnlyMacro s.dev t.dev m ∧ t.dev.mac m = { s.dev.mac m with xoRebuild := (t.dev.mac m).xoRebuild } ∧
      (∃ e ∈ (t.dev.mac m).xoRebuild, e.1 = index % 8) ∧ macExactOnly t.dev m = true ∧
      Posted s.dev t.dev evCorrEcc (hubOfWedge w) (macroTarget m) []) ∧
  (∀ (s : State) (w index : Nat) (c : OutDir), facetPresent s.variant (w / 16) = true → domRuns s.dev (domWedge w) = true →
    tfind (s.dev.wedge w).dir index = some c →
    ∃ t, exec (.corrEcc w true index) s = .next t ∧ t = s.on { s.dev with macros := t.dev.macros, wedges := t.dev.wedges, log := t.dev.log, ctr := t.dev.ctr } ∧
      tfind (t.dev.wedge w).dir index = none ∧
      (let id := ((s.dev.mac (192 * w + c.mac)).bank c.bankB).matrix
       if id = 0 then (t.dev.wedge w).xoOut = (s.dev.wedge w).xoOut else id ∈ (t.dev.wedge w).xoOut) ∧
      Posted s.dev t.dev evCorrEcc (hubOfWedge w) (macroTarget (192 * w + c.mac)) []) ∧
  (∀ (s : State) (m index : Nat) (k : Mark), macServes s.variant s.dev m = true →
    (∃ e ∈ (s.dev.mac m).xoRebuild, e.1 = index) → slotFree s.dev m = true → rank2 (s.dev.mac m) = false → forcedDue s.dev m = false →
    tfind (s.dev.wedge (wedgeOfMacro m)).marks (slotOf s.dev m * 8 + index) = some k →
    ∃ t, exec (.markedEntryRebuild m index) s = .next t ∧ t = s.on { s.dev with macros := t.dev.macros, wedges := t.dev.wedges } ∧
      OnlyMacro s.dev t.dev m ∧ (∀ e ∈ (t.dev.mac m).xoRebuild, e.1 ≠ index) ∧
      tfind (t.dev.wedge (wedgeOfMacro m)).marks (slotOf s.dev m * 8 + index) = some { k with
        dataA := (s.dev.mac m).bankA.column k.unit k.col, dataB := (s.dev.mac m).bankB.column k.unit k.col }) ∧
  (∀ (s : State) (m : Nat) (b : Bool) (img : Bytes), macServes s.variant s.dev m = true →
    (slotOf s.dev m, b) ∈ (s.dev.wedge (wedgeOfMacro m)).ksSusp →
    (∀ y, s.dev.matOf ((s.dev.mac m).bank b).matrix = some y → y.imgAlloc = 0) →
    ∃ t, exec (.checkStoreRecompute m b (.ok img)) s = .next t ∧ t = s.on { s.dev with macros := t.dev.macros, wedges := t.dev.wedges } ∧
      OnlyMacro s.dev t.dev m ∧ (slotOf s.dev m, b) ∉ (t.dev.wedge (wedgeOfMacro m)).ksSusp ∧
      (t.dev.mac m).bank b = { (s.dev.mac m).bank b with sigs := ((t.dev.mac m).bank b).sigs } ∧
      (s.dev.matOf ((s.dev.mac m).bank b).matrix = none → (t.dev.mac m).bank b = ((s.dev.mac m).bank b).withSigs))

/-- R77, R78, R446, R449: a calibration is asked for when its period has passed or the junction has moved beyond its limit, and is forced when it has
waited too long; each of its 32 steps keeps the largest error of each column; the end marks at most 8 columns out of tolerance from the next tile
on, else posts MARK_OVERFLOW, and ends what made the macro exact-only until then. Where new entries go is the model's choice
(notes/assumptions/129.md).
Completes: calibrationRequest, calibrationWaitExpiry, calibrationStep, calibrationComplete. -/
def Obligations.CalibrationMarksColumns : Prop :=
  ∀ (s : State) (m : Nat),
    (∀ since drift : Nat, macServes s.variant s.dev m = true → (s.dev.num 0x5001 1 600 ≤ since ∨ s.dev.num 0x5001 2 20 < drift) →
      ∃ t, exec (.calibrationRequest m since drift) s = .next t ∧ t = s.on { s.dev with macros := t.dev.macros } ∧
        OnlyMacro s.dev t.dev m ∧
        t.dev.mac m = { s.dev.mac m with cal := { (s.dev.mac m).cal with req := true }, calAgeS := since }) ∧
    (∀ waited : Nat, (s.dev.mac m).cal.req = true → s.dev.num 0x5001 3 4000 < waited →
      ∃ t, exec (.calibrationWaitExpiry m waited) s = .next t ∧ t = s.on { s.dev with macros := t.dev.macros } ∧
        OnlyMacro s.dev t.dev m ∧ t.dev.mac m = { s.dev.mac m with cal := { (s.dev.mac m).cal with forced := true } }) ∧
    (∀ (u c : Nat) (x : Rat), calMay s.variant s.dev m = true →
      ∃ t, exec (.calibrationStep m [(u, c, x)]) s = .next t ∧
        t = s.on { s.dev with macros := t.dev.macros, pow := t.dev.pow, ctr := t.dev.ctr } ∧ OnlyMacro s.dev t.dev m ∧
        (t.dev.mac m).cal.steps = (s.dev.mac m).cal.steps + 1 ∧
        (t.dev.mac m).cal.tol = (if (s.dev.mac m).cal.steps = 0 then s.dev.num 0x2001 1 2 else (s.dev.mac m).cal.tol) ∧
        tget 0 (t.dev.mac m).cal.meas (u * 16 + c) = max (tget 0 (s.dev.mac m).cal.meas (u * 16 + c)) (absQ x) ∧
        Paid s.dev t.dev (domWedge (wedgeOfMacro m)) checkEnergy 1 checkEnergy ∧
        (if (s.dev.mac m).cal.forced then Counted s.dev t.dev 0x5011 (ssFacet (facetOfMacro m)) 1 else t.dev.ctr = s.dev.ctr)) ∧
    (macServes s.variant s.dev m = true → (s.dev.mac m).cal.req = true → 32 ≤ (s.dev.mac m).cal.steps →
      ∃ t, exec (.calibrationComplete m) s = .next t ∧
        t = s.on { s.dev with macros := t.dev.macros, wedges := t.dev.wedges, log := t.dev.log, ctr := t.dev.ctr, cmds := t.dev.cmds,
                              comps := t.dev.comps } ∧
        OnlyMacro s.dev t.dev m ∧ (t.dev.mac m).cal.req = false ∧ (t.dev.mac m).cal.steps = 0 ∧ (t.dev.mac m).xoUncal = false ∧
        (t.dev.mac m).xoKsum = none ∧
        (let x := s.dev.mac m
         let w := wedgeOfMacro m
         let slot := slotOf s.dev m
         let found := outOfTol s.dev m
         let kept := keptMarks x (slotMarks s.dev m) found
         let new := newMarks (slotMarks s.dev m) found
         let spill := markSpill kept new
         (t.dev.mac m).xoOver = spill ∧
         (t.dev.mac m).retire =
           (x.retire || (spill && decide (s.dev.num 0x5003 1 1 = 1) && decide (s.dev.num 0x5003 2 1 < (s.dev.wedge w).spares.length))) ∧
         (∀ w', w' ≠ w → t.dev.wedge w' = s.dev.wedge w') ∧
         t.dev.wedge w = { s.dev.wedge w with marks := (t.dev.wedge w).marks, uncal := (t.dev.wedge w).uncal } ∧
         (∀ key, key / 8 ≠ slot → tfind (t.dev.wedge w).marks key = tfind (s.dev.wedge w).marks key) ∧
         (if spill then (t.dev.wedge w).marks = (s.dev.wedge w).marks ∧
            Posted s.dev t.dev evMarkOverflow (hubOfMacro m) (macroTarget m) []
          else t.dev.log = s.dev.log ∧ (t.dev.wedge w).marks =
            (putMarks slot kept new).foldl (fun (t : Tab Mark) e => tset t e.1 e.2) (tdrop (fun k => k / 8 = slot) (s.dev.wedge w).marks)) ∧
         (∀ tile ∈ s.dev.tiles, tile.id < s.dev.nextTile → marksFor t.dev m tile.id = marksFor s.dev m tile.id)) ∧
        counterOf t.dev 0x5019 (ssFacet (facetOfMacro m)) = counterOf s.dev 0x5019 (ssFacet (facetOfMacro m)) + 1)

/-! ### The event log (ch. 16) -/

/-- R461, R462, R496: the oldest record of a hub on its way reaches the ring, which holds the newest 512, and takes the next number; beyond 1,000 in a
second it is dropped and counted in OD 0x5803. A read answers whole records from the reader's cursor on, at most 64, with LOG_OVERRUN in front when
some were lost, and moves the cursor past them. The end of an interval lets its limits post again. That the first record has number 1 is the model's
reading (notes/assumptions/121.md).
Completes: eventPost, eventRingRead, limitIntervalRollover. -/
def Obligations.EventsReachTheRing : Prop :=
  (∀ (s : State) (hub : Nat) (e : Event) (rest : List Event), s.dev.seq.stbyUp = true → takeEvent hub s.dev.log.way = some (e, rest) →
    e.hub = hub ∧ e ∈ s.dev.log.way ∧ rest.length + 1 = s.dev.log.way.length ∧
    (1000 ≤ s.dev.log.acceptedNow → ∃ t, exec (.eventPost hub) s = .next t ∧
      t = s.on { s.dev with log := { s.dev.log with way := rest }, ctr := t.dev.ctr } ∧ Counted s.dev t.dev 0x5803 1 1) ∧
    (s.dev.log.acceptedNow < 1000 → ∃ t, exec (.eventPost hub) s = .next t ∧
      t = s.on { s.dev with log := t.dev.log, out := t.dev.out, ports := t.dev.ports, marks := t.dev.marks } ∧
      (let ring := s.dev.log.ring ++ [(BitVec.ofNat 32 (s.dev.log.rseq + 1), e)]
       t.dev.log = { s.dev.log with way := rest, ring := if 512 < ring.length then ring.drop 1 else ring,
                                    rseq := s.dev.log.rseq + 1, newest := s.dev.log.rseq + 1, acceptedNow := s.dev.log.acceptedNow + 1 }))) ∧
  (∀ (s : State) (id room : Nat) (src : Source) (c : Cmd) (e : OdEntry), s.dev.starting id 0x02 = some c → odServed s.dev = true →
    c.odIdx = 0x5800 → odEntry 0x5800 c.odSub = some e → odPresent s.variant 0x5800 e = true → c.P 1 ≠ 0 → hostOpen s.dev c = true →
    48 ≤ c.odLen →
    (let k := c.odSub - 1
     let l := s.dev.log
     let cur := tget 0 l.cursors k
     let most := min 64 (c.odLen / 48)
     (l.rseq ≤ cur → ∃ t, exec (.eventRingRead src (some id) room) s = .next t ∧ Ended s.dev t.dev c stSuccess 0 0 ∧
        t = s.on { s.dev with log := { l with cursors := t.dev.log.cursors }, out := t.dev.out, cmds := t.dev.cmds,
                              comps := t.dev.comps } ∧
        tget 0 t.dev.log.cursors k = cur) ∧
     (cur < l.rseq → l.gone ≤ cur →
        ∃ t, exec (.eventRingRead src (some id) room) s = .next t ∧
          t = s.on { s.dev with log := t.dev.log, out := t.dev.out, cmds := t.dev.cmds, comps := t.dev.comps } ∧
          (let recs := (l.ring.drop (cur - l.gone)).take most
           let b := (recs.map (fun r => eventBytes r.1 r.2)).flatten
           t.dev.out = s.dev.out ++ [.hostWrite c.port (BitVec.ofNat 64 (c.P 1)) b] ∧ Ended s.dev t.dev c stSuccess 0 b.length ∧
           t.dev.log = { l with cursors := t.dev.log.cursors } ∧ tget 0 t.dev.log.cursors k = cur + recs.length ∧
           ∀ j, j ≠ k → tget 0 t.dev.log.cursors j = tget 0 l.cursors j)) ∧
     (cur < l.gone → cur < l.rseq →
        ∃ t, exec (.eventRingRead src (some id) room) s = .next t ∧
          t = s.on { s.dev with log := { l with cursors := t.dev.log.cursors }, out := t.dev.out, cmds := t.dev.cmds,
                                comps := t.dev.comps } ∧
          (let recs := l.ring.take (most - 1)
           let b := overrunBytes l.gone (l.gone - cur) ++ (recs.map (fun r => eventBytes r.1 r.2)).flatten
           t.dev.out = s.dev.out ++ [.hostWrite c.port (BitVec.ofNat 64 (c.P 1)) b] ∧ Ended s.dev t.dev c stSuccess 0 b.length ∧
           tget 0 t.dev.log.cursors k = l.gone + recs.length)))) ∧
  (∀ (s : State) (timer period : Nat), (if timer = 4 then s.dev.seq.stbyUp else timerRuns s.variant s.dev timer) = true →
    ∃ t, exec (.limitIntervalRollover timer period) s = .next t ∧
      t = s.on { s.dev with marks := t.dev.marks, log := t.dev.log, tam := t.dev.tam, out := t.dev.out,
                            ports := t.dev.ports } ∧
      (∀ limit unit, limPeriod limit = period → limit < 32 → limit ≠ limLogVector → t.dev.marked timer limit unit = false) ∧
      (timer = 4 → period = 1000000 → t.dev.log = { s.dev.log with acceptedNow := 0 } ∧ t.dev.tam = { s.dev.tam with opensNow := 0, plainNow := 0 }) ∧
      (timer < 4 → t.dev.log = s.dev.log ∧ t.dev.tam = s.dev.tam))

/-! ### The journal (ch. 14) -/

/-- R393, R394, R406, R407, R409: the class P write at the front, its record programmed and read back, holds its value and ends its command; a record
that reads back wrong is counted in OD 0x1400.09 and tried again in the next 4 KiB block, and at the third failure its command ends with
UNIT_OFFLINE; in a full region the waiting writes of commands end with JOURNAL_THROTTLED. A token is added each second, up to 64.
R408, R409: once the append point is at 75 % of the active region and the other is erased, compaction gives the other region the next generation and
a copy of every entry that is not at its default, in as far as the flash reads back what was programmed (a free value, notes/assumptions/66.md); with
every copy of the freeze in place its commit marker makes that region active, and a marker that does not read back holds every further record. A
region that is not active is erased in the background. None of this but the first changes a value of class P.
Completes: journalRecordProgram, journalTokenRefill, compactionStart, compactionCommit, regionEraseDone. -/
def Obligations.JournalProgramsAndCompacts : Prop :=
  ((∀ (s : State) (k : Nat) (b : Bytes) (tries id : Nat) (rest : List JWrite) (c : Cmd), programs s.dev = true →
     s.dev.jour.waiting = { vals := [(k, b)], waiter := .cmd id, tries := tries, paid := true } :: rest → s.dev.cmdOf id = some c →
     (recordFits s.dev [(k, b)] = true →
       (k / 256 ∉ [0x7001, 0x7002, 0x7003, 0x3411, 0x2061] →
         ∃ t, exec (.journalRecordProgram true) s = .next t ∧ Ended s.dev t.dev c stSuccess 0 0 ∧
           t = s.on { s.dev with vals := t.dev.vals, jour := t.dev.jour, ctr := t.dev.ctr, cmds := t.dev.cmds, comps := t.dev.comps } ∧
           tfind t.dev.vals k = some b ∧ (∀ j, j ≠ k → tfind t.dev.vals j = tfind s.dev.vals j) ∧
           t.dev.jour.waiting = rest ∧ t.dev.jour.append = s.dev.jour.append + recordBytes b.length ∧
           t.dev.jour.nextSeq = s.dev.jour.nextSeq + 1 ∧ Counted s.dev t.dev 0x1400 4 1 ∧
           ∃ r, (t.dev.jour.region s.dev.jour.active).recs = (s.dev.jour.region s.dev.jour.active).recs ++ [r] ∧
             r.off = s.dev.jour.append ∧ r.torn = false ∧
             r.bytes = recordImage (k / 256) (k % 256) ((odEntry (k / 256) (k % 256)).elim 0 (fun e => e.typ)) b s.dev.jour.nextSeq) ∧
       ∃ t, exec (.journalRecordProgram false) s = .next t ∧
         t = s.on { s.dev with jour := t.dev.jour, ctr := t.dev.ctr, log := t.dev.log, cmds := t.dev.cmds, comps := t.dev.comps } ∧
         t.dev.jour.append = roundUp (s.dev.jour.append + recordBytes b.length) 4096 ∧
         counterOf t.dev 0x1400 9 = counterOf s.dev 0x1400 9 + 1 ∧
         (tries < 2 → t.dev.cmds = s.dev.cmds ∧ t.dev.comps = s.dev.comps ∧
           t.dev.jour.waiting = { vals := [(k, b)], waiter := .cmd id, tries := tries + 1, paid := true } :: rest) ∧
         (2 ≤ tries → Ended s.dev t.dev c stUnitOffline 0 0 ∧ t.dev.jour.waiting = rest ∧ Posted s.dev t.dev evJournalFault 0 0 [])) ∧
     (∀ ok : Bool, recordFits s.dev [(k, b)] = false →
       ∃ t, exec (.journalRecordProgram ok) s = .next t ∧
         t = s.on { s.dev with jour := t.dev.jour, cmds := t.dev.cmds, comps := t.dev.comps } ∧ compFor c stThrottled 0 0 ∈ t.dev.comps ∧
         t.dev.jour.reg0 = s.dev.jour.reg0 ∧ t.dev.jour.reg1 = s.dev.jour.reg1 ∧ ∀ w ∈ t.dev.jour.waiting, ∀ i, w.waiter ≠ .cmd i)) ∧
   (∀ (s : State), s.dev.seq.stbyUp = true → ∃ t, exec .journalTokenRefill s = .next t ∧
     t = s.on { s.dev with jour := { s.dev.jour with tokens := min 64 (s.dev.jour.tokens + 1) } })) ∧
  ((∀ (s : State), s.dev.seq.stbyUp = true → s.dev.jour.ready = true → s.dev.jour.comp = .none → compactAt ≤ s.dev.jour.append →
     (s.dev.jour.region s.dev.jour.other).erased = true →
     (let j := s.dev.jour
      ∃ t, exec .compactionStart s = .next t ∧
       t = s.on { s.dev with jour := t.dev.jour, ctr := t.dev.ctr, log := t.dev.log, free := t.dev.free } ∧
       t.dev.jour.active = j.active ∧ t.dev.jour.region j.active = j.region j.active ∧ (t.dev.jour.region j.other).marker = [] ∧
       if Config.readsBack s.dev.free then
         t.dev.jour.comp = .copying ∧ (t.dev.jour.region j.other).header = headerImage ((j.region j.active).gen + 1) j.nextSeq ∧
         ∀ k ∈ pKeys s.dev, differsP s.dev k = true →
           (∃ r ∈ (t.dev.jour.region j.other).recs, r.torn = false ∧ ∃ seq, r.bytes = recordImage (k / 256) (k % 256)
             ((odEntry (k / 256) (k % 256)).elim 0 (fun e => e.typ)) (s.dev.heldP (k / 256) (k % 256)) seq) ∨
           ∃ e ∈ t.dev.log.way, e.code = evJournalFault
       else t.dev.jour.comp = .none ∧ (t.dev.jour.region j.other).header = [])) ∧
   (∀ (s : State), s.dev.seq.stbyUp = true → s.dev.jour.comp ≠ .none →
     (let e := freezeCopies s.dev
      e = { s.dev with jour := e.jour, ctr := e.ctr, log := e.log, free := e.free } ∧ e.jour.active = s.dev.jour.active ∧
      e.jour.region s.dev.jour.active = s.dev.jour.region s.dev.jour.active ∧
      ((∀ k ∈ pKeys e, recopy e k = false) → ∃ t, exec (.compactionCommit true) s = .next t ∧
        t = s.on { e with jour := t.dev.jour, ctr := t.dev.ctr } ∧ t.dev.jour.comp = .none ∧ t.dev.jour.active = s.dev.jour.other ∧
        (let r := e.jour.region s.dev.jour.other
         t.dev.jour.region s.dev.jour.other = { r with marker := markerImage r.gen (r.recs.filter JRec.good).length } ∧
         t.dev.jour.append = r.endOff) ∧
        Counted e t.dev 0x1400 5 1) ∧
      ∀ ok : Bool, (ok = false ∨ ∃ k ∈ pKeys e, recopy e k = true) → ∃ t, exec (.compactionCommit ok) s = .next t ∧
        t = s.on { e with jour := { e.jour with comp := .frozen } } ∧ ∀ ok, exec (.journalRecordProgram ok) t = .next t)) ∧
   (∀ (s : State), s.dev.seq.stbyUp = true → s.dev.jour.ready = true → s.dev.jour.comp = .none →
     ∃ t, exec .regionEraseDone s = .next t ∧ t = s.on { s.dev with jour := t.dev.jour } ∧
       t.dev.jour.region s.dev.jour.other = .erased0 ∧ (s.dev.jour.active < 2 → t.dev.jour.region s.dev.jour.active = s.dev.jour.region s.dev.jour.active)))

/-! ### Tamjor, mailboxes and security (ch. 14, 17) -/

/-- R395 to R400: a REQUEST outside a session is counted in OD 0x1104.01 and answered to its sender, from the module's address and port, at most 1,000
a second: with the status of the message, or, where its one entry reads, with that result; in a session too, whose count goes on. In a session one
whose signature fails is counted in OD 0x1104.02, the sixteenth closing the session; a repeat is answered with the last results, and a gap changes
nothing.
R402, R403: a mailbox message, whose go has no effect while done reads 1, is answered in its mailbox, waits while the dictionary is not served, and is
discarded when it is of another version.
Completes: tamjorRequest, mailboxGo. -/
def Obligations.RequestsAnswered : Prop :=
  (∀ (s : State) (m : Bytes) (peer : Peer), takes s.dev m peer 0x01 = true → messageWaits s.dev m = false → (readHeader m).sid = 0 →
    (let d1 := countMessage { s.dev with tam := { s.dev.tam with plainNow := s.dev.tam.plainNow + 1 } }
     let mseq := (readHeader m).mseq
     let answered (b : Bytes) : List Output := s.dev.out ++ [.datagram peer.id (fromAddr s.dev peer.via) (tamjorPort s.dev) b]
     (1000 ≤ s.dev.tam.plainNow → exec (.tamjorRequest m peer) s = .next s) ∧
     (s.dev.tam.plainNow < 1000 → m.length = 16 + (readHeader m).blen →
       (∀ st, requestEntries m = .error st → exec (.tamjorRequest m peer) s =
          .next (s.on { d1 with out := answered (responseMsg st 0 mseq [0]) })) ∧
       (∀ e : ReqEntry, requestEntries m = .ok [e] → e.op = 1 → e.idx ≠ 0x5800 →
          (let r := odRead s.variant d1 .mgmt 0 e.idx e.sub e.len
           exec (.tamjorRequest m peer) s =
             .next (s.on { d1 with out := answered (responseMsg stSuccess 0 mseq (1 :: resultBytes e r.1 r.2)) })))))) ∧
  (∀ (s : State) (m : Bytes) (peer : Peer) (x : Session), takes s.dev m peer 0x01 = true → messageWaits s.dev m = false →
    (readHeader m).sid ≠ 0 → s.dev.tam.session (readHeader m).sid = some x →
    (let mseq := (readHeader m).mseq
     let answered (b : Bytes) : List Output :=
       s.dev.out ++ [.datagram peer.id (fromAddr s.dev peer.via) (tamjorPort s.dev) (signedMsg x.nm x.nd b)]
     (sigGood s.dev x m = false → ∃ t, exec (.tamjorRequest m peer) s = .next t ∧
       t = s.on { s.dev with tam := t.dev.tam, ctr := t.dev.ctr } ∧ Counted s.dev t.dev 0x1104 2 1 ∧
       (x.bad + 1 < 16 → t.dev.tam.session x.sid = some { x with bad := x.bad + 1 }) ∧
       (16 ≤ x.bad + 1 → t.dev.tam.session x.sid = none)) ∧
     (sigGood s.dev x m = true → mseq = x.mseq → ∃ t, exec (.tamjorRequest m peer) s = .next t ∧
       t = s.on { s.dev with ctr := t.dev.ctr, out := answered (responseMsg stRepeat x.sid x.mseq x.last) }) ∧
     (sigGood s.dev x m = true → mseq ≠ x.mseq → mseq ≠ (x.mseq + 1) % 2 ^ 32 →
       ∃ t, exec (.tamjorRequest m peer) s = .next t ∧
         t = s.on { s.dev with ctr := t.dev.ctr, out := answered (responseMsg stAliveGap x.sid mseq [0]) }) ∧
     (∀ e : ReqEntry, sigGood s.dev x m = true → mseq ≠ x.mseq → mseq = (x.mseq + 1) % 2 ^ 32 → requestEntries m = .ok [e] → e.op = 1 →
       e.idx ≠ 0x5800 →
       (let r := odRead s.variant (countMessage s.dev) .mgmt x.sid e.idx e.sub e.len
        ∃ t, exec (.tamjorRequest m peer) s = .next t ∧
         t = s.on { s.dev with tam := { s.dev.tam with sessions := t.dev.tam.sessions }, ctr := t.dev.ctr,
                               out := answered (responseMsg stSuccess x.sid mseq (1 :: resultBytes e r.1 r.2)) } ∧
         Counted s.dev t.dev 0x1104 1 1 ∧
         t.dev.tam.session x.sid = some { x with mseq := mseq, last := 1 :: resultBytes e r.1 r.2, idle := idleLimit s.dev })))) ∧
  (∀ (s : State) (p : Nat), portPresent s.variant p = true → portUp s.variant s.dev p = true →
    (let m := mailMessage s.dev p
     let x := s.dev.port p
     (x.go = false → x.done = true → exec (.mailboxGo p) s = .next s) ∧
     (x.go = true ∨ x.done = false →
       (messageWaits s.dev m = true → ∃ t, exec (.mailboxGo p) s = .next t ∧ t = s.on { s.dev with ports := t.dev.ports } ∧
          OnlyPort s.dev t.dev p ∧ t.dev.port p = { x with go := true }) ∧
       (messageWaits s.dev m = false → 16 ≤ m.length → (readHeader m).ver ≠ 1 →
          ∃ t, exec (.mailboxGo p) s = .next t ∧ t = s.on { s.dev with ports := t.dev.ports } ∧ OnlyPort s.dev t.dev p ∧
            t.dev.port p = { x with go := false }) ∧
       (messageWaits s.dev m = false → ¬(16 ≤ m.length ∧ (readHeader m).ver ≠ 1) → mailStatus m ≠ stSuccess →
          ∃ t, exec (.mailboxGo p) s = .next t ∧ t = s.on { s.dev with ports := t.dev.ports } ∧ OnlyPort s.dev t.dev p ∧
            (let b := responseMsg (mailStatus m) (readHeader m).sid (readHeader m).mseq [0]
             t.dev.port p = { x with go := false, done := true, mailOut := (t.dev.port p).mailOut, rlen := BitVec.ofNat 13 b.length } ∧
             mread (t.dev.port p).mailOut 0 b.length = b)) ∧
       (∀ e : ReqEntry, messageWaits s.dev m = false → mailStatus m = stSuccess → (readHeader m).ver = 1 → requestEntries m = .ok [e] →
          e.op = 1 → e.idx ≠ 0x5800 →
          ∃ t, exec (.mailboxGo p) s = .next t ∧ t = s.on { s.dev with ports := t.dev.ports } ∧ OnlyPort s.dev t.dev p ∧
            (let r := odRead s.variant s.dev (.port p) 0 e.idx e.sub e.len
             let b := responseMsg stSuccess 0 (readHeader m).mseq (1 :: resultBytes e r.1 r.2)
             t.dev.port p = { x with go := false, done := true, mailOut := (t.dev.port p).mailOut, rlen := BitVec.ofNat 13 b.length } ∧
             mread (t.dev.port p).mailOut 0 b.length = b)))))

/-- R399 to R401: an OPEN that passes its checks, with a key for its session, is answered OPENED with a nonce and waits for its CONFIRM under a sid of
its own; a signed CONFIRM opens the session, any other ends it, and 5 s forget it; a signed CLOSE or its idle time closes it.
Completes: tamjorOpen, tamjorConfirm, confirmTimeout, tamjorClose, sessionIdleTimeout. -/
def Obligations.SessionsOpenAndClose : Prop :=
  (∀ (s : State) (m : Bytes) (peer : Peer), takes s.dev m peer 0x10 = true → s.dev.tam.opensNow < 4 →
    ∃ t, exec (.tamjorOpen m peer) s = .next t ∧
      t = s.on { s.dev with tam := t.dev.tam, ctr := t.dev.ctr, out := t.dev.out, free := t.dev.free } ∧ Counted s.dev t.dev 0x1104 1 1 ∧
      t.dev.tam.sessions = s.dev.tam.sessions ∧ t.dev.tam.opensNow = s.dev.tam.opensNow + 1 ∧
      (openStatus s.dev m ≠ stSuccess → t.dev.tam.pending = s.dev.tam.pending) ∧
      (openStatus s.dev m = stSuccess → ∃ x : Session, t.dev.tam.pending = s.dev.tam.pending ++ [x] ∧ x.sid ≠ 0 ∧
        (∀ y ∈ s.dev.tam.sessions ++ s.dev.tam.pending, y.sid ≠ x.sid) ∧ x.nm = (m.drop 24).take 32 ∧ x.key = fieldAt m 16 1 ∧
        x.nd.length = 32 ∧ ∃ b, t.dev.out = s.dev.out ++ [.datagram peer.id (fromAddr s.dev peer.via) (tamjorPort s.dev) (signedMsg x.nm x.nd b)] ∧ (readHeader b).sid = x.sid % 2 ^ 32)) ∧
  (∀ (s : State) (m : Bytes) (peer : Peer) (x : Session), takes s.dev m peer 0x12 = true →
    s.dev.tam.opening (readHeader m).sid = some x →
    ∃ t, exec (.tamjorConfirm m peer) s = .next t ∧ t = s.on { s.dev with tam := t.dev.tam, ctr := t.dev.ctr, out := t.dev.out } ∧
      t.dev.tam.opening x.sid = none ∧ Counted s.dev t.dev 0x1104 1 1 ∧
      (if sigGood s.dev x m = true ∧ (readHeader m).mseq = 1 ∧ (readHeader m).blen = 0 then
         ∃ y : Session, t.dev.tam.sessions = s.dev.tam.sessions ++ [y] ∧ y.sid = x.sid ∧ y.key = x.key ∧ y.nm = x.nm ∧ y.nd = x.nd ∧ y.mseq = 1
       else t.dev.tam.sessions = s.dev.tam.sessions)) ∧
  (∀ (s : State) (sid elapsed : Nat),
    (5 ≤ elapsed → ∃ t, exec (.confirmTimeout sid elapsed) s = .next t ∧ t = s.on { s.dev with tam := t.dev.tam } ∧
      t.dev.tam.opening sid = none ∧ t.dev.tam.sessions = s.dev.tam.sessions) ∧
    (elapsed < 5 → exec (.confirmTimeout sid elapsed) s = .next s) ∧
    (∀ x : Session, s.dev.tam.session sid = some x → x.idle ≤ elapsed → ∃ t, exec (.sessionIdleTimeout sid elapsed) s = .next t ∧
      t = s.on { s.dev with tam := t.dev.tam } ∧ t.dev.tam.session sid = none ∧ t.dev.tam.pending = s.dev.tam.pending)) ∧
  (∀ (s : State) (m : Bytes) (peer : Peer) (x : Session), takes s.dev m peer 0x14 = true → s.dev.tam.session (readHeader m).sid = some x →
    sigGood s.dev x m = true → ∃ t, exec (.tamjorClose m peer) s = .next t ∧
      t = s.on { s.dev with tam := t.dev.tam, ctr := t.dev.ctr } ∧ t.dev.tam.session x.sid = none ∧ Counted s.dev t.dev 0x1104 1 1)

/-- R469 to R473, R476, R477: a write of 1 to the commit entry with a token that fails a check answers that check's status, counts it and changes no
state; one that passes holds dictionary requests until the record of the new state is programmed, and then the state has changed and no session is
open. A nonce gives its source a report, or AUTH_FAILED without an identity key. A retry of boot is refused while a tamper condition is present.
R474 to R476: a tamper condition that has lasted its filter time wipes the secure part and the identity key, closes every session, and takes the
module to the safe state, its hubs held and its work gone, the cause set and TAMPER posted; a further condition adds its cause. When the last condition has gone and the record of the count is programmed, the
key is derived again; whether it matches is open.
Completes: tokenCommit, attestationNonce, retryBoot, tamper, tamperConditionClear. -/
def Obligations.LifeCycleAndTamper : Prop :=
  ((∀ (s : State) (r : OdReq), ReqTaken s.variant s.dev r 0x7020 → r.sub = 4 →
     (let b := stagedBody s.dev r.src
      let st := tokenStatus s.dev b (stagedSig s.dev r.src)
      (leNat r.value = 0 → ∃ t, exec (.tokenCommit r) s = .next t ∧ t = s.on { s.dev with cmds := t.dev.cmds, comps := t.dev.comps } ∧
         ReqEnded s.dev t.dev r stSuccess) ∧
      (leNat r.value ≠ 0 → st ≠ stSuccess → ∃ t, exec (.tokenCommit r) s = .next t ∧ ReqEnded s.dev t.dev r st ∧
         t = s.on { s.dev with ctr := t.dev.ctr, log := t.dev.log, marks := t.dev.marks, cmds := t.dev.cmds, comps := t.dev.comps } ∧
         Counted s.dev t.dev 0x7040 1 1) ∧
      (leNat r.value ≠ 0 → st = stSuccess → ∃ t, exec (.tokenCommit r) s = .next t ∧
         t = s.on { s.dev with sec := { s.dev.sec with changing := true }, jour := t.dev.jour, cmds := t.dev.cmds } ∧ odServed t.dev = false ∧
         (let w : JWaiter := .lifecycle (sourceIdx r.src) r.cmd s.dev.sec.lcs (fieldAt b 6 1)
          t.dev.jour.waiting = s.dev.jour.waiting ++ [{ vals := changeVals s.dev (fieldAt b 6 1), waiter := w, tries := 0, paid := true }]) ∧
         (s.dev.jour.waiting = [] → programs s.dev = true → recordFits s.dev (changeVals s.dev (fieldAt b 6 1)) = true →
           ∃ u, exec (.journalRecordProgram true) t = .next u ∧ u.dev.sec.lcs = fieldAt b 6 1 ∧ u.dev.sec.changing = false ∧
             u.dev.sec.lcount = (s.dev.sec.lcount + 1) % 2 ^ 32 ∧ u.dev.tam.sessions = [])))) ∧
   (∀ (s : State) (r : OdReq), ReqTaken s.variant s.dev r 0x7030 → r.sub = 1 →
     ∃ t, exec (.attestationNonce r) s = .next t ∧
       t = s.on { s.dev with sec := t.dev.sec, cmds := t.dev.cmds, comps := t.dev.comps } ∧
       (s.dev.sec.key = false → t.dev.sec = s.dev.sec ∧ ReqEnded s.dev t.dev r stAuthFailed) ∧
       (s.dev.sec.key = true → ReqEnded s.dev t.dev r stSuccess ∧
         tfind t.dev.sec.report (sourceIdx r.src) = some (attestReport s.variant s.dev r.value) ∧
         (∃ a b, tfind t.dev.sec.repSigA (sourceIdx r.src) = some a ∧ tfind t.dev.sec.repSigB (sourceIdx r.src) = some b ∧
           a ++ b = identitySig (Config.shake256 (attestReport s.variant s.dev r.value))))) ∧
   (∀ (s : State) (r : OdReq), ReqTaken s.variant s.dev r 0x5020 → r.sub = 1 →
     (s.dev.sec.present ≠ [] → ∃ t, exec (.retryBoot r) s = .next t ∧ t = s.on { s.dev with cmds := t.dev.cmds, comps := t.dev.comps } ∧
       ReqEnded s.dev t.dev r stLifecycle) ∧
     (s.dev.sec.present = [] → leNat r.value = 1 → s.dev.seq.safe = true → ∃ t, exec (.retryBoot r) s = .next t ∧
       t = s.on { s.dev with vals := t.dev.vals, sec := t.dev.sec, seq := t.dev.seq, cmds := t.dev.cmds, comps := t.dev.comps } ∧
       ReqEnded s.dev t.dev r stSuccess ∧ t.dev.seq.safe = false ∧ t.dev.sec.cause = 0 ∧
       t.dev.seq.phase = if s.dev.seq.phase = .safe then .testing else s.dev.seq.phase))) ∧
  ((∀ (s : State) (code ns : Nat), tamperSensed s.dev code = true → tamperFilterNs code ≤ ns →
     (s.dev.sec.tampering = false → ∃ t, exec (.tamper code ns) s = .next t ∧ code ∈ t.dev.sec.present ∧ t.dev.sec.tampering = true ∧
       t.dev.sec.key = false ∧ t.dev.sec.cause = s.dev.sec.cause ||| BitVec.ofNat 8 (2 ^ (code - 1)) ∧
       (∀ a, 0xC000 ≤ a → a < 0x10000 → mget t.dev.mem.stby a = 0) ∧ t.dev.tam.sessions = [] ∧ t.dev.tam.pending = [] ∧
       t.dev.seq.safe = true ∧ t.dev.seq.faultN = false ∧ t.dev.seq.mainPg = false ∧ t.dev.seq.hubHeld = hubsPresent s.variant ∧
       t.dev.cmds = [] ∧ t.dev.jobs = [] ∧ t.dev.tiles = [] ∧ ∃ e ∈ t.dev.log.way, e.code = evTamper) ∧
     (s.dev.sec.tampering = true → ∃ t, exec (.tamper code ns) s = .next t ∧ code ∈ t.dev.sec.present ∧
       t = s.on { s.dev with sec := { s.dev.sec with present := t.dev.sec.present, cause := t.dev.sec.cause } } ∧
       t.dev.sec.cause = s.dev.sec.cause ||| BitVec.ofNat 8 (2 ^ (code - 1)))) ∧
   (∀ (s : State) (code : Nat), s.dev.sec.present = [code] → s.dev.sec.tampering = true →
     ∃ t, exec (.tamperConditionClear code) s = .next t ∧ t.dev.sec.present = [] ∧
       if s.dev.pendingP (odKey 0x7002 2) then t = s.on { s.dev with sec := { s.dev.sec with present := [] } }
       else t.dev.sec.tampering = false ∧ t.dev.sec.key = Config.keyMatches s.dev.free) ∧
   (∀ (s : State) (b : Bytes) (tries : Nat), programs s.dev = true → recordFits s.dev [(odKey 0x7002 2, b)] = true →
     s.dev.jour.waiting = [{ vals := [(odKey 0x7002 2, b)], waiter := .tamper, tries := tries, paid := true }] →
     s.dev.sec.tampering = true → s.dev.sec.present = [] →
     ∃ t, exec (.journalRecordProgram true) s = .next t ∧ t.dev.sec.tampering = false ∧ t.dev.sec.key = Config.keyMatches s.dev.free) ∧
   (∀ (s : State) (code c2 : Nat), s.dev.sec.present = [code, c2] → code ≠ c2 → ∃ t, exec (.tamperConditionClear code) s = .next t ∧
     t = s.on { s.dev with sec := { s.dev.sec with present := [c2] } }))

/-! ### Supplies and resets of the module (ch. 18) -/

/-- R304, R410, R465, R488, R489: the standby scratchpad reads zero after the auxiliary supply comes; the controller starts with its
journal recovered,
64 tokens and no session, and without a matching key, or with a bad word in its scratchpad, it stays in the safe state; a reset of the controller
takes main power down first and loses what waits for a record, and the loss of the supply does too. The management link only tells whether it is up.
R457, R459, R482, R488: MAIN_EN high starts power-up, once it has been low after an input fault; the rails settle, and self-test without a failure
ends it with MAIN_PG high and no unit held, a failing hub held alone, a bad word of a wedge's scratchpad counted and posted, a failing H0 in the
safe state, and RETIRED with every hub held. MAIN_EN low, or an input fault of more than 20 µs, takes main power down, and the work of the module is
gone.
Completes: auxPowerUp, standbyStart, standbyResetAssert, auxBrownout, managementLinkChange, mainEnRise, railsSettled, powerOnSelftest, mainEnFall,
inputFault. -/
def Obligations.SuppliesSequence : Prop :=
  ((∀ s : State, s.dev.seq.stbyUp = false → ∃ t, exec .auxPowerUp s = .next t ∧
     t = s.on { s.dev with mem := { s.dev.mem with stby := [] }, log := t.dev.log, seq := { s.dev.seq with auxIn := true } } ∧
     t.dev.log.ring = [] ∧ t.dev.log.rseq = 0) ∧
   (∀ (s : State) (mpen matched : Bool) (bad : List Nat), s.dev.seq.stbyUp = false → s.dev.seq.auxIn = true →
     ∃ t, exec (.standbyStart mpen matched bad) s = .next t ∧ t.dev.seq.stbyUp = true ∧ t.dev.seq.mpen = mpen ∧
       t.dev.jour.ready = true ∧ t.dev.jour.tokens = 64 ∧ t.dev.tam.sessions = [] ∧ t.dev.mem.stby = [] ∧ t.dev.log.ring = [] ∧
       t.dev.sec.key = matched ∧ (matched = false → t.dev.seq.safe = true) ∧
       (bad = [] → t.dev.seq.safe = !matched) ∧ (bad ≠ [] → t.dev.num 0x3050 1 1 = 1 → t.dev.seq.safe = true) ∧ t.dev.sec.romdig = Config.romDigest) ∧
   (∀ s : State, s.dev.seq.stbyUp = true → ∃ t, exec .standbyResetAssert s = .next t ∧ t.dev.seq.stbyUp = false ∧
     t.dev.seq.stbyRstN = false ∧ t.dev.seq.phase = .off ∧ t.dev.tam.sessions = [] ∧ t.dev.jour.waiting = [] ∧ t.dev.seq.faultN = true) ∧
   (∀ (s : State) (us : Nat), s.dev.seq.stbyUp = true → ∃ t, exec (.auxBrownout us) s = .next t ∧ t.dev.seq.stbyUp = false ∧
     t.dev.seq.auxIn = false ∧ t.dev.seq.phase = .off ∧ t.dev.tam.sessions = [] ∧ t.dev.jour.waiting = []) ∧
   (∀ (s : State) (up : Bool), s.dev.seq.stbyUp = true → ∃ t, exec (.managementLinkChange up) s = .next t ∧
     t = s.on { s.dev with tam := { s.dev.tam with linkUp := up } })) ∧
  (∀ s : State, s.dev.seq.stbyUp = true →
     (s.dev.seq.vinIn = true → s.dev.seq.phase = .off → (s.dev.seq.inputFault = false ∨ s.dev.seq.mainEn = false) →
       ∃ t, exec .mainEnRise s = .next t ∧
         t = s.on { s.dev with seq := { s.dev.seq with mainEn := true, phase := .rising, inputFault := false, faultN := t.dev.seq.faultN } } ∧
         t.dev.seq.faultN = !(s.dev.seq.safe || decide (s.dev.sec.lcs = 3))) ∧
     (∀ clkm : List Bool, s.dev.seq.phase = .rising → ∃ t, exec (.railsSettled clkm) s = .next t ∧
       t = s.on { s.dev with seq := { s.dev.seq with phase := .testing, clkm := t.dev.seq.clkm } } ∧
       ∀ h, h < 4 → nth false t.dev.seq.clkm h = nth false clkm h) ∧
     (s.dev.seq.modRstN = true → s.dev.seq.phase = .testing → s.dev.seq.safe = false →
       (s.dev.sec.lcs ≠ 3 → ∃ t, exec (.powerOnSelftest [] []) s = .next t ∧ t.dev.seq.phase = .up ∧ t.dev.seq.mainPg = true ∧
         t.dev.seq.hubHeld = [] ∧ t.dev.seq.unitHeld = [] ∧ t.dev.spad = [] ∧ t.dev.log = s.dev.log) ∧
       (∀ h, s.dev.sec.lcs ≠ 3 → h ≠ 0 → hubPresent s.variant h = true → ∃ t, exec (.powerOnSelftest [(codeOf (.hub h)).toNat] []) s = .next t ∧
         t.dev.seq.phase = .up ∧ t.dev.seq.hubHeld = [h] ∧ Posted s.dev t.dev evSelftestFail h (codeOf (.hub h)) []) ∧
       (∃ t, exec (.powerOnSelftest [(codeOf (.hub 0)).toNat] []) s = .next t ∧ t.dev.seq.safe = true ∧ t.dev.seq.hubHeld = hubsPresent s.variant ∧
         Posted s.dev t.dev evSafeState 0 0 []) ∧
       (∀ w a : Nat, s.dev.sec.lcs ≠ 3 → w < 576 → facetPresent s.variant (w / 16) = true → s.dev.num 0x3050 1 1 = 1 →
         ∃ t, exec (.powerOnSelftest [] [(w, a)]) s = .next t ∧ t.dev.seq.phase = .up ∧
           counterOf t.dev 0x3051 (marchSs w) = counterOf s.dev 0x3051 (marchSs w) + 1 ∧
           ∃ e ∈ t.dev.log.way, e.code = evMarchFail ∧ e.unit = marchUnit w) ∧
       (s.dev.sec.lcs = 3 → ∃ t, exec (.powerOnSelftest [] []) s = .next t ∧ t.dev.seq.hubHeld = hubsPresent s.variant ∧
         t.dev.seq.mainPg = false ∧ t.dev.seq.faultN = false)) ∧
     (∃ t, exec .mainEnFall s = .next t ∧ t.dev.seq.mainEn = false ∧ t.dev.seq.phase = .off ∧
       (s.dev.seq.phase ≠ .off → t.dev.seq.mainPg = false ∧ t.dev.cmds = [] ∧ t.dev.jobs = [] ∧ t.dev.allocs = [] ∧ t.dev.mats = [] ∧
         t.dev.spad = [] ∧ t.dev.mem.stack = [] ∧ t.dev.mem.remap = s.dev.mem.remap)) ∧
     (∀ (ov : Bool) (us : Nat), s.dev.seq.mainEn = true → s.dev.seq.inputFault = false →
       (us ≤ 20 → exec (.inputFault ov us) s = .next s) ∧
       (20 < us → ∃ t, exec (.inputFault ov us) s = .next t ∧ t.dev.seq.inputFault = true ∧ t.dev.seq.faultN = false ∧
         t.dev.seq.phase = .off ∧ t.dev.latestP 0x4020 2 = toLe 1 (if ov then 2 else 1))))

/-- R381, R382, R485, R486: a warm reset of 10 µs holds the hubs, loses the module's work and keeps the journal's values; its release runs self-test
again. A port reset, or a stop of its reference clock, takes the port out of PCIe with its commands and queue registers; its release, or the clock,
trains it again, at a width and a rate that are free values (notes/assumptions/149.md). A reset of a hub's control domain ends the commands running there, and keeps the queues and the check engines' configurations.
Completes: moduleWarmReset, moduleWarmResetRelease, portReset, perstRelease, refclkStop, refclkRestart, hubControlReset. -/
def Obligations.ModuleResetsHold : Prop :=
  (∀ (s : State) (us : Nat), 10 ≤ us → s.dev.seq.phase = .up → ∃ t, exec (.moduleWarmReset us) s = .next t ∧
    t.dev.seq.phase = .warm ∧ t.dev.seq.modRstN = false ∧ t.dev.seq.mainPg = false ∧ t.dev.seq.hubHeld = hubsPresent s.variant ∧
    t.dev.cmds = [] ∧ t.dev.comps = [] ∧ t.dev.jobs = [] ∧ t.dev.tiles = [] ∧ t.dev.jour = { s.dev.jour with waiting := t.dev.jour.waiting } ∧
    (∃ u, exec .moduleWarmResetRelease t = .next u ∧
      u = t.on { t.dev with seq := { t.dev.seq with modRstN := true, phase := .testing } })) ∧
  (∀ (s : State) (us : Nat), us < 10 → exec (.moduleWarmReset us) s = .next s) ∧
  (∀ (s : State) (p : Nat), portPresent s.variant p = true → s.dev.seq.phase ≠ .off → p < s.dev.seq.perstN.length →
    ∃ t, exec (.portReset p) s = .next t ∧ nth false t.dev.seq.perstN p = false ∧ (t.dev.port p).linkUp = false ∧
      (t.dev.port p).queues = [] ∧ (∀ c ∈ t.dev.cmds, c.port ≠ p) ∧ (∀ c ∈ t.dev.comps, c.port ≠ p)) ∧
  (∀ (s : State) (p : Nat), portFree s.variant { s.dev with seq := { s.dev.seq with perstN := setAt s.dev.seq.perstN p true } } p = true →
    (s.dev.port p).linkUp = false → ∃ t, exec (.perstRelease p) s = .next t ∧
      t = s.on { s.dev with seq := { s.dev.seq with perstN := t.dev.seq.perstN }, ports := t.dev.ports, free := s.dev.free + 1 } ∧ OnlyPort s.dev t.dev p ∧
      (t.dev.port p).linkUp = true ∧ (t.dev.port p).ready = true ∧ (t.dev.port p).queues = (s.dev.port p).queues ∧
      (t.dev.port p).width ∈ [16, 8, 4, 2, 1] ∧ 1 ≤ (t.dev.port p).rate ∧ (t.dev.port p).rate ≤ 6) ∧
  (∀ (s : State) (h : Nat), portPresent s.variant h = true → s.dev.seq.phase ≠ .off → nth false s.dev.seq.refclk h = true →
    ∃ t, exec (.refclkStop h) s = .next t ∧ timerRuns t.variant t.dev h = false ∧ (t.dev.port h).linkUp = false) ∧
  (∀ (s : State) (h : Nat), hubPresent s.variant h = true → nth false s.dev.seq.refclk h = false → h < s.dev.seq.refclk.length →
    s.dev.seq.phase ≠ .off → ∃ t, exec (.refclkRestart h) s = .next t ∧
      t = s.on { s.dev with seq := { s.dev.seq with refclk := t.dev.seq.refclk }, ports := t.dev.ports, free := t.dev.free } ∧
      timerRuns t.variant t.dev h = true ∧ (∀ k, k ≠ h → nth false t.dev.seq.refclk k = nth false s.dev.seq.refclk k)) ∧
  (∀ (s : State) (h : Nat), hubPresent s.variant h = true → s.dev.seq.phase ≠ .off → ∃ t, exec (.hubControlReset h) s = .next t ∧
    (∀ c ∈ t.dev.cmds, c.port = h → c.stage = .busy → c.opc = 0x19) ∧ t.dev.ports = s.dev.ports ∧
    ∀ i, i < 16 → (t.dev.ce (16 * h + i)).cfg = (s.dev.ce (16 * h + i)).cfg ∧
      (t.dev.ce (16 * h + i)).run = (s.dev.ce (16 * h + i)).cfg.init)

/-- Table 18.3 order 1: at reset nothing waits, every hub is held, MAIN_PG is low and FAULT_N high, no port is up, no command, allocation,
matrix or job
exists, every counter and dictionary entry is at its default; and what every step keeps holds there. Reset values of pins and straps that the spec
leaves open are the model's choice (notes/assumptions/5.md). -/
def Obligations.ResetState : Prop :=
  State.reset.pending = [] ∧ State.reset.dev.seq.hubHeld = [0, 1, 2, 3] ∧ State.reset.dev.seq.mainPg = false ∧
    State.reset.dev.seq.faultN = true ∧ State.reset.dev.seq.phase = .off ∧ State.reset.dev.seq.stbyUp = false ∧
    (∀ p, State.reset.dev.port p = {} ∧ ∀ q, (State.reset.dev.queue p q).en = false) ∧ State.reset.dev.cmds = [] ∧
    State.reset.dev.allocs = [] ∧ State.reset.dev.mats = [] ∧ State.reset.dev.jobs = [] ∧ State.reset.dev.vals = [] ∧
    (∀ idx sub, counterOf State.reset.dev idx sub = 0) ∧ (∀ m, State.reset.dev.mac m = {}) ∧ State.reset.dev.Sound

/-- What every step keeps: each byte memory in its canonical form, the commands in flight with ids of their own below the next, at most 256
of them on a
port (R347), at most 512 records in the event ring (R461), at most 64 tokens (R407). -/
def Obligations.EveryStepKeepsSound : Prop :=
  ∀ s t : State, s.dev.Sound → step s = .next t → t.dev.Sound
end

