-- ==== Sys2Proof/Laws/Tab.lean ====
section
/-!
SUPPORT. What the operations of the sparse tables and byte memories do: a read after a write, a read elsewhere, and the
canonical form, which every memory operation keeps.
-/
namespace Sys2Proof

/-! ### Reads after writes -/

theorem tfind_tset_same {α : Type} (t : Tab α) (k : Nat) (v : α) : tfind (tset t k v) k = some v := by
  induction t with
  | nil => simp [tset, tfind]
  | cons e t ih =>
    obtain ⟨k', v'⟩ := e
    simp only [tset]
    split
    · simp [tfind]
    · split
      · simp [tfind]
      · rename_i h
        simp [tfind, Ne.symm h, ih]

theorem tfind_tset_other {α : Type} (t : Tab α) {k j : Nat} (v : α) (h : j ≠ k) :
    tfind (tset t k v) j = tfind t j := by
  induction t with
  | nil => simp [tset, tfind, Ne.symm h]
  | cons e t ih =>
    obtain ⟨k', v'⟩ := e
    simp only [tset]
    split
    · simp [tfind, Ne.symm h]
    · split
      · rename_i hk
        subst hk
        simp [tfind, Ne.symm h]
      · simp [tfind, ih]

theorem tfind_tdel_same {α : Type} (t : Tab α) (k : Nat) : tfind (tdel t k) k = none := by
  induction t with
  | nil => rfl
  | cons e t ih =>
    obtain ⟨k', v'⟩ := e
    by_cases hk : k' = k <;> simp [tdel, tfind, hk, ih]

theorem tfind_tdel_other {α : Type} (t : Tab α) {k j : Nat} (h : j ≠ k) : tfind (tdel t k) j = tfind t j := by
  induction t with
  | nil => rfl
  | cons e t ih =>
    obtain ⟨k', v'⟩ := e
    by_cases hk : k' = k
    · subst hk
      simp [tdel, tfind, Ne.symm h, ih]
    · simp [tdel, tfind, hk, ih]

/-- A read of the key just written gives the value written. -/
@[simp] theorem tget_tput_same {α : Type} [DecidableEq α] (d : α) (t : Tab α) (k : Nat) (v : α) :
    tget d (tput d t k v) k = v := by
  simp only [tget, tput]
  split
  · rename_i h
    simp [tfind_tdel_same, h]
  · simp [tfind_tset_same]

/-- A write leaves every other key alone. -/
theorem tget_tput_other {α : Type} [DecidableEq α] (d : α) (t : Tab α) {k j : Nat} (v : α) (h : j ≠ k) :
    tget d (tput d t k v) j = tget d t j := by
  simp only [tget, tput]
  split
  · rw [tfind_tdel_other t h]
  · rw [tfind_tset_other t v h]

/-- Both at once. -/
theorem tget_tput {α : Type} [DecidableEq α] (d : α) (t : Tab α) (k j : Nat) (v : α) :
    tget d (tput d t k v) j = if j = k then v else tget d t j := by
  split
  · rename_i h
    rw [h, tget_tput_same]
  · rename_i h
    exact tget_tput_other d t v h

@[simp] theorem tget_tmod_same {α : Type} [DecidableEq α] (d : α) (t : Tab α) (k : Nat) (f : α → α) :
    tget d (tmod d t k f) k = f (tget d t k) := by
  simp [tmod]

theorem tget_tmod_other {α : Type} [DecidableEq α] (d : α) (t : Tab α) {k j : Nat} (f : α → α) (h : j ≠ k) :
    tget d (tmod d t k f) j = tget d t j := by
  simp [tmod, tget_tput_other d t _ h]

@[simp] theorem tget_nil {α : Type} (d : α) (k : Nat) : tget d [] k = d := rfl

theorem tfind_filter {α : Type} (p : Nat → Bool) (t : Tab α) (j : Nat) :
    tfind (tdrop p t) j = if p j then none else tfind t j := by
  induction t with
  | nil => simp [tdrop, tfind]
  | cons e t ih =>
    obtain ⟨k', v'⟩ := e
    simp only [tdrop] at ih ⊢
    by_cases hp : p k'
    · by_cases hk : k' = j
      · subst hk
        simp [List.filter, hp, ih]
      · simp [List.filter, hp, ih, tfind, hk]
    · by_cases hk : k' = j
      · subst hk
        simp [List.filter, hp, tfind]
      · simp [List.filter, hp, ih, tfind, hk]

/-- A key that `tdrop` takes away reads as the default, every other key as before. -/
theorem tget_tdrop {α : Type} (d : α) (p : Nat → Bool) (t : Tab α) (j : Nat) :
    tget d (tdrop p t) j = if p j then d else tget d t j := by
  simp only [tget, tfind_filter]
  split <;> simp

/-! ### Bytes -/

@[simp] theorem mget_mput_same (m : Memory) (a : Nat) (b : Byte) : mget (mput m a b) a = b := by
  simp [mget, mput]

theorem mget_mput_other (m : Memory) {a j : Nat} (b : Byte) (h : j ≠ a) : mget (mput m a b) j = mget m j := by
  exact tget_tput_other 0 m b h

/-- A write of bytes reaches no address outside them. -/
theorem mget_mwrite_other (bs : Bytes) :
    ∀ (m : Memory) (a j : Nat), (j < a ∨ a + bs.length ≤ j) → mget (mwrite m a bs) j = mget m j := by
  induction bs with
  | nil => intro m a j _; rfl
  | cons b bs ih =>
    intro m a j h
    simp only [List.length_cons] at h
    rw [mwrite, ih (mput m a b) (a + 1) j (by omega), mget_mput_other m b (by omega)]

/-- A write of bytes gives each address of them its byte. -/
theorem mget_mwrite_at (bs : Bytes) :
    ∀ (m : Memory) (a i : Nat) (h : i < bs.length), mget (mwrite m a bs) (a + i) = bs[i] := by
  induction bs with
  | nil => intro m a i h; simp at h
  | cons b bs ih =>
    intro m a i h
    cases i with
    | zero =>
      rw [mwrite, mget_mwrite_other bs (mput m a b) (a + 1) (a + 0) (by omega)]
      simp
    | succ i =>
      have := ih (mput m a b) (a + 1) i (by simpa using h)
      rw [mwrite, show a + (i + 1) = a + 1 + i by omega, this]
      simp

theorem mread_length (m : Memory) : ∀ (n a : Nat), (mread m a n).length = n := by
  intro n
  induction n with
  | zero => intro a; rfl
  | succ n ih => intro a; simp [mread, ih]

/-- Reading the bytes just written gives them back. -/
@[simp] theorem mread_mwrite (bs : Bytes) : ∀ (m : Memory) (a : Nat), mread (mwrite m a bs) a bs.length = bs := by
  induction bs with
  | nil => intro m a; rfl
  | cons b bs ih =>
    intro m a
    simp only [List.length_cons, mread, mwrite, ih]
    rw [mget_mwrite_other bs (mput m a b) (a + 1) a (by omega)]
    simp

/-- Clearing a range reads 0 in it and leaves every other byte. -/
theorem mget_mclear (m : Memory) (a n j : Nat) :
    mget (mclear m a n) j = if a ≤ j ∧ j < a + n then 0 else mget m j := by
  simp only [mget, mclear, tget_tdrop]
  by_cases h : a ≤ j ∧ j < a + n <;> simp [h]

/-! ### The canonical form -/

/-- `tabSorted` says that keys rise strictly from one entry to each later one. -/
theorem tabSorted_cons {α : Type} (e : Nat × α) (t : Tab α) :
    tabSorted (e :: t) = true ↔ (∀ x ∈ t, e.1 < x.1) ∧ tabSorted t = true := by
  induction t generalizing e with
  | nil => simp [tabSorted]
  | cons b t ih =>
    simp only [tabSorted, Bool.and_eq_true, decide_eq_true_eq, List.mem_cons, forall_eq_or_imp]
    constructor
    · rintro ⟨hab, hs⟩
      exact ⟨⟨hab, fun x hx => Nat.lt_trans hab (((ih b).mp hs).1 x hx)⟩, hs⟩
    · rintro ⟨⟨hab, _⟩, hs⟩
      exact ⟨hab, hs⟩

theorem mem_tdel {α : Type} {t : Tab α} {k : Nat} {x : Nat × α} (h : x ∈ tdel t k) : x ∈ t := by
  induction t with
  | nil => exact absurd h (by simp [tdel])
  | cons e t ih =>
    obtain ⟨k', v'⟩ := e
    simp only [tdel] at h
    split at h
    · exact List.mem_cons_of_mem _ (ih h)
    · rcases List.mem_cons.mp h with h | h
      · exact h ▸ List.mem_cons_self
      · exact List.mem_cons_of_mem _ (ih h)

theorem mem_tset {α : Type} {t : Tab α} {k : Nat} {v : α} {x : Nat × α} (h : x ∈ tset t k v) :
    x = (k, v) ∨ x ∈ t := by
  induction t with
  | nil => simpa [tset] using h
  | cons e t ih =>
    obtain ⟨k', v'⟩ := e
    simp only [tset] at h
    split at h
    · simpa using h
    · split at h
      · rcases List.mem_cons.mp h with h | h
        · exact .inl h
        · exact .inr (List.mem_cons_of_mem _ h)
      · rcases List.mem_cons.mp h with h | h
        · exact .inr (h ▸ List.mem_cons_self)
        · exact (ih h).imp id (List.mem_cons_of_mem _)

theorem tabSorted_tdel {α : Type} (t : Tab α) (k : Nat) (h : tabSorted t = true) : tabSorted (tdel t k) = true := by
  induction t with
  | nil => rfl
  | cons e t ih =>
    obtain ⟨k', v'⟩ := e
    obtain ⟨h1, h2⟩ := (tabSorted_cons _ _).mp h
    simp only [tdel]
    split
    · exact ih h2
    · exact (tabSorted_cons _ _).mpr ⟨fun x hx => h1 x (mem_tdel hx), ih h2⟩

theorem tabSorted_tset {α : Type} (t : Tab α) (k : Nat) (v : α) (h : tabSorted t = true) :
    tabSorted (tset t k v) = true := by
  induction t with
  | nil => rfl
  | cons e t ih =>
    obtain ⟨k', v'⟩ := e
    obtain ⟨h1, h2⟩ := (tabSorted_cons _ _).mp h
    simp only [tset]
    split
    · rename_i hk
      refine (tabSorted_cons _ _).mpr ⟨?_, h⟩
      intro x hx
      rcases List.mem_cons.mp hx with hx | hx
      · subst hx; exact hk
      · exact Nat.lt_trans hk (h1 x hx)
    · split
      · rename_i hk
        subst hk
        exact (tabSorted_cons _ _).mpr ⟨h1, h2⟩
      · rename_i hn hk
        refine (tabSorted_cons _ _).mpr ⟨?_, ih h2⟩
        intro x hx
        rcases mem_tset hx with hx | hx
        · subst hx; show k' < k; omega
        · exact h1 x hx

theorem tabSorted_tput {α : Type} [DecidableEq α] (d : α) (t : Tab α) (k : Nat) (v : α) (h : tabSorted t = true) :
    tabSorted (tput d t k v) = true := by
  simp only [tput]
  split
  · exact tabSorted_tdel t k h
  · exact tabSorted_tset t k v h

theorem tabSorted_filter {α : Type} (p : Nat × α → Bool) (t : Tab α) (h : tabSorted t = true) :
    tabSorted (t.filter p) = true := by
  induction t with
  | nil => rfl
  | cons e t ih =>
    obtain ⟨h1, h2⟩ := (tabSorted_cons _ _).mp h
    simp only [List.filter]
    split
    · exact (tabSorted_cons _ _).mpr ⟨fun x hx => h1 x (List.mem_filter.mp hx).1, ih h2⟩
    · exact ih h2

/-- Writing one byte keeps the canonical form. -/
theorem memWf_mput (m : Memory) (a : Nat) (b : Byte) (h : memWf m = true) : memWf (mput m a b) = true := by
  simp only [memWf, Bool.and_eq_true, List.all_eq_true] at h ⊢
  refine ⟨tabSorted_tput 0 m a b h.1, ?_⟩
  intro x hx
  simp only [mput, tput] at hx
  split at hx
  · exact h.2 x (mem_tdel hx)
  · rename_i hb
    rcases mem_tset hx with hx | hx
    · subst hx; simpa using hb
    · exact h.2 x hx

/-- Writing bytes keeps the canonical form. -/
theorem memWf_mwrite (bs : Bytes) : ∀ (m : Memory) (a : Nat), memWf m = true → memWf (mwrite m a bs) = true := by
  induction bs with
  | nil => intro m a h; exact h
  | cons b bs ih => intro m a h; exact ih _ _ (memWf_mput m a b h)

/-- Dropping addresses keeps the canonical form. -/
theorem memWf_tdrop (p : Nat → Bool) (m : Memory) (h : memWf m = true) : memWf (tdrop p m) = true := by
  simp only [memWf, Bool.and_eq_true, List.all_eq_true] at h ⊢
  exact ⟨tabSorted_filter _ m h.1, fun x hx => h.2 x (List.mem_filter.mp hx).1⟩

/-- Clearing a range keeps the canonical form. -/
theorem memWf_mclear (m : Memory) (a n : Nat) (h : memWf m = true) : memWf (mclear m a n) = true :=
  memWf_tdrop _ m h

theorem memWf_cons {e : Nat × Byte} {m : Memory} (h : memWf (e :: m) = true) :
    (∀ x ∈ m, e.1 < x.1) ∧ e.2 ≠ 0 ∧ memWf m = true := by
  simp only [memWf, Bool.and_eq_true, List.all_cons] at h ⊢
  obtain ⟨h1, h2, h3⟩ := h
  obtain ⟨h4, h5⟩ := (tabSorted_cons _ _).mp h1
  exact ⟨h4, by simpa using h2, h5, h3⟩

theorem mget_below {m : Memory} {a : Nat} (h : ∀ x ∈ m, a < x.1) : mget m a = 0 := by
  induction m with
  | nil => rfl
  | cons e m ih =>
    obtain ⟨k, b⟩ := e
    have hk : a < k := h _ List.mem_cons_self
    have := ih (fun x hx => h x (List.mem_cons_of_mem _ hx))
    simp only [mget, tget, tfind] at this ⊢
    rwa [if_neg (by omega)]

theorem mget_cons_other {k j : Nat} {b : Byte} {m : Memory} (h : k ≠ j) : mget ((k, b) :: m) j = mget m j := by
  simp [mget, tget, tfind, h]

theorem mget_cons_same {k : Nat} {b : Byte} {m : Memory} : mget ((k, b) :: m) k = b := by
  simp [mget, tget, tfind]

/-- Two canonical memories that read alike everywhere are equal data. -/
theorem memory_ext : ∀ (m n : Memory), memWf m = true → memWf n = true → (∀ a, mget m a = mget n a) → m = n := by
  intro m
  induction m with
  | nil =>
    intro n _ hn h
    cases n with
    | nil => rfl
    | cons e n =>
      obtain ⟨k, b⟩ := e
      have hb : b ≠ 0 := (memWf_cons hn).2.1
      have := h k
      rw [mget_cons_same] at this
      exact absurd this.symm hb
  | cons e m ih =>
    obtain ⟨k, b⟩ := e
    intro n hm hn h
    obtain ⟨hlt, hb, hm'⟩ := memWf_cons hm
    cases n with
    | nil =>
      have := h k
      rw [mget_cons_same] at this
      exact absurd this hb
    | cons e' n =>
      obtain ⟨k', b'⟩ := e'
      obtain ⟨hlt', hb', hn'⟩ := memWf_cons hn
      have hk : k = k' := by
        rcases Nat.lt_trichotomy k k' with hl | he | hl
        · have h1 := h k
          rw [mget_cons_same, mget_cons_other (by omega),
            mget_below (fun x hx => Nat.lt_trans hl (hlt' x hx))] at h1
          exact absurd h1 hb
        · exact he
        · have h1 := h k'
          rw [mget_cons_same, mget_cons_other (by omega),
            mget_below (fun x hx => Nat.lt_trans hl (hlt x hx))] at h1
          exact absurd h1.symm hb'
      subst hk
      have hbb : b = b' := by simpa [mget_cons_same] using h k
      subst hbb
      congr 1
      refine ih n hm' hn' (fun a => ?_)
      by_cases ha : a = k
      · subst ha
        rw [mget_below hlt, mget_below hlt']
      · have := h a
        rwa [mget_cons_other (Ne.symm ha), mget_cons_other (Ne.symm ha)] at this

end Sys2Proof
end

