-- ==== Sys2Proof/Laws/State.lean ====
section
/-!
SUPPORT. What each shared update of the state leaves in each field: one lemma for a field and an update, so that no proof
unfolds a record update.
-/
namespace Sys2Proof.Machine

open Sys2Proof

/-! ### The state with its device changed -/

@[simp] theorem State.on_dev (s : State) (d : Dev) : (s.on d).dev = d := rfl
@[simp] theorem State.on_variant (s : State) (d : Dev) : (s.on d).variant = s.variant := rfl
@[simp] theorem State.on_pending (s : State) (d : Dev) : (s.on d).pending = s.pending := rfl
@[simp] theorem State.on_on (s : State) (d e : Dev) : (s.on d).on e = s.on e := rfl
@[simp] theorem State.on_self (s : State) : s.on s.dev = s := rfl

/-! ### setMac -/

@[simp] theorem Dev.setMac_free (d : Dev) (m : Nat) (x : Macro) : (d.setMac m x).free = d.free := rfl
@[simp] theorem Dev.setMac_out (d : Dev) (m : Nat) (x : Macro) : (d.setMac m x).out = d.out := rfl
@[simp] theorem Dev.setMac_marks (d : Dev) (m : Nat) (x : Macro) : (d.setMac m x).marks = d.marks := rfl
@[simp] theorem Dev.setMac_hubTimer (d : Dev) (m : Nat) (x : Macro) : (d.setMac m x).hubTimer = d.hubTimer := rfl
@[simp] theorem Dev.setMac_stbyTimer (d : Dev) (m : Nat) (x : Macro) : (d.setMac m x).stbyTimer = d.stbyTimer := rfl
@[simp] theorem Dev.setMac_seq (d : Dev) (m : Nat) (x : Macro) : (d.setMac m x).seq = d.seq := rfl
@[simp] theorem Dev.setMac_ports (d : Dev) (m : Nat) (x : Macro) : (d.setMac m x).ports = d.ports := rfl
@[simp] theorem Dev.setMac_cmds (d : Dev) (m : Nat) (x : Macro) : (d.setMac m x).cmds = d.cmds := rfl
@[simp] theorem Dev.setMac_nextCmd (d : Dev) (m : Nat) (x : Macro) : (d.setMac m x).nextCmd = d.nextCmd := rfl
@[simp] theorem Dev.setMac_comps (d : Dev) (m : Nat) (x : Macro) : (d.setMac m x).comps = d.comps := rfl
@[simp] theorem Dev.setMac_allocs (d : Dev) (m : Nat) (x : Macro) : (d.setMac m x).allocs = d.allocs := rfl
@[simp] theorem Dev.setMac_allocIdx (d : Dev) (m : Nat) (x : Macro) : (d.setMac m x).allocIdx = d.allocIdx := rfl
@[simp] theorem Dev.setMac_usedFrames (d : Dev) (m : Nat) (x : Macro) : (d.setMac m x).usedFrames = d.usedFrames := rfl
@[simp] theorem Dev.setMac_descs (d : Dev) (m : Nat) (x : Macro) : (d.setMac m x).descs = d.descs := rfl
@[simp] theorem Dev.setMac_descIdx (d : Dev) (m : Nat) (x : Macro) : (d.setMac m x).descIdx = d.descIdx := rfl
@[simp] theorem Dev.setMac_mats (d : Dev) (m : Nat) (x : Macro) : (d.setMac m x).mats = d.mats := rfl
@[simp] theorem Dev.setMac_matIdx (d : Dev) (m : Nat) (x : Macro) : (d.setMac m x).matIdx = d.matIdx := rfl
@[simp] theorem Dev.setMac_matReserved (d : Dev) (m : Nat) (x : Macro) : (d.setMac m x).matReserved = d.matReserved := rfl
@[simp] theorem Dev.setMac_loads (d : Dev) (m : Nat) (x : Macro) : (d.setMac m x).loads = d.loads := rfl
@[simp] theorem Dev.setMac_swaps (d : Dev) (m : Nat) (x : Macro) : (d.setMac m x).swaps = d.swaps := rfl
@[simp] theorem Dev.setMac_progs (d : Dev) (m : Nat) (x : Macro) : (d.setMac m x).progs = d.progs := rfl
@[simp] theorem Dev.setMac_progIdx (d : Dev) (m : Nat) (x : Macro) : (d.setMac m x).progIdx = d.progIdx := rfl
@[simp] theorem Dev.setMac_jobs (d : Dev) (m : Nat) (x : Macro) : (d.setMac m x).jobs = d.jobs := rfl
@[simp] theorem Dev.setMac_nextJob (d : Dev) (m : Nat) (x : Macro) : (d.setMac m x).nextJob = d.nextJob := rfl
@[simp] theorem Dev.setMac_tiles (d : Dev) (m : Nat) (x : Macro) : (d.setMac m x).tiles = d.tiles := rfl
@[simp] theorem Dev.setMac_nextTile (d : Dev) (m : Nat) (x : Macro) : (d.setMac m x).nextTile = d.nextTile := rfl
@[simp] theorem Dev.setMac_spad (d : Dev) (m : Nat) (x : Macro) : (d.setMac m x).spad = d.spad := rfl
@[simp] theorem Dev.setMac_slots (d : Dev) (m : Nat) (x : Macro) : (d.setMac m x).slots = d.slots := rfl
@[simp] theorem Dev.setMac_banks (d : Dev) (m : Nat) (x : Macro) : (d.setMac m x).banks = d.banks := rfl
@[simp] theorem Dev.setMac_guard0 (d : Dev) (m : Nat) (x : Macro) : (d.setMac m x).guard0 = d.guard0 := rfl
@[simp] theorem Dev.setMac_wedges (d : Dev) (m : Nat) (x : Macro) : (d.setMac m x).wedges = d.wedges := rfl
@[simp] theorem Dev.setMac_quants (d : Dev) (m : Nat) (x : Macro) : (d.setMac m x).quants = d.quants := rfl
@[simp] theorem Dev.setMac_outVecs (d : Dev) (m : Nat) (x : Macro) : (d.setMac m x).outVecs = d.outVecs := rfl
@[simp] theorem Dev.setMac_spans (d : Dev) (m : Nat) (x : Macro) : (d.setMac m x).spans = d.spans := rfl
@[simp] theorem Dev.setMac_pairs (d : Dev) (m : Nat) (x : Macro) : (d.setMac m x).pairs = d.pairs := rfl
@[simp] theorem Dev.setMac_pred (d : Dev) (m : Nat) (x : Macro) : (d.setMac m x).pred = d.pred := rfl
@[simp] theorem Dev.setMac_issues (d : Dev) (m : Nat) (x : Macro) : (d.setMac m x).issues = d.issues := rfl
@[simp] theorem Dev.setMac_engines (d : Dev) (m : Nat) (x : Macro) : (d.setMac m x).engines = d.engines := rfl
@[simp] theorem Dev.setMac_coal (d : Dev) (m : Nat) (x : Macro) : (d.setMac m x).coal = d.coal := rfl
@[simp] theorem Dev.setMac_remote (d : Dev) (m : Nat) (x : Macro) : (d.setMac m x).remote = d.remote := rfl
@[simp] theorem Dev.setMac_waits (d : Dev) (m : Nat) (x : Macro) : (d.setMac m x).waits = d.waits := rfl
@[simp] theorem Dev.setMac_gone (d : Dev) (m : Nat) (x : Macro) : (d.setMac m x).gone = d.gone := rfl
@[simp] theorem Dev.setMac_mem (d : Dev) (m : Nat) (x : Macro) : (d.setMac m x).mem = d.mem := rfl
@[simp] theorem Dev.setMac_hops (d : Dev) (m : Nat) (x : Macro) : (d.setMac m x).hops = d.hops := rfl
@[simp] theorem Dev.setMac_frames (d : Dev) (m : Nat) (x : Macro) : (d.setMac m x).frames = d.frames := rfl
@[simp] theorem Dev.setMac_rooms (d : Dev) (m : Nat) (x : Macro) : (d.setMac m x).rooms = d.rooms := rfl
@[simp] theorem Dev.setMac_asks (d : Dev) (m : Nat) (x : Macro) : (d.setMac m x).asks = d.asks := rfl
@[simp] theorem Dev.setMac_links (d : Dev) (m : Nat) (x : Macro) : (d.setMac m x).links = d.links := rfl
@[simp] theorem Dev.setMac_bundles (d : Dev) (m : Nat) (x : Macro) : (d.setMac m x).bundles = d.bundles := rfl
@[simp] theorem Dev.setMac_pow (d : Dev) (m : Nat) (x : Macro) : (d.setMac m x).pow = d.pow := rfl
@[simp] theorem Dev.setMac_ces (d : Dev) (m : Nat) (x : Macro) : (d.setMac m x).ces = d.ces := rfl
@[simp] theorem Dev.setMac_log (d : Dev) (m : Nat) (x : Macro) : (d.setMac m x).log = d.log := rfl
@[simp] theorem Dev.setMac_vals (d : Dev) (m : Nat) (x : Macro) : (d.setMac m x).vals = d.vals := rfl
@[simp] theorem Dev.setMac_ctr (d : Dev) (m : Nat) (x : Macro) : (d.setMac m x).ctr = d.ctr := rfl
@[simp] theorem Dev.setMac_jour (d : Dev) (m : Nat) (x : Macro) : (d.setMac m x).jour = d.jour := rfl
@[simp] theorem Dev.setMac_tam (d : Dev) (m : Nat) (x : Macro) : (d.setMac m x).tam = d.tam := rfl
@[simp] theorem Dev.setMac_sec (d : Dev) (m : Nat) (x : Macro) : (d.setMac m x).sec = d.sec := rfl

/-! ### setWedge -/

@[simp] theorem Dev.setWedge_free (d : Dev) (w : Nat) (x : Wedge) : (d.setWedge w x).free = d.free := rfl
@[simp] theorem Dev.setWedge_out (d : Dev) (w : Nat) (x : Wedge) : (d.setWedge w x).out = d.out := rfl
@[simp] theorem Dev.setWedge_marks (d : Dev) (w : Nat) (x : Wedge) : (d.setWedge w x).marks = d.marks := rfl
@[simp] theorem Dev.setWedge_hubTimer (d : Dev) (w : Nat) (x : Wedge) : (d.setWedge w x).hubTimer = d.hubTimer := rfl
@[simp] theorem Dev.setWedge_stbyTimer (d : Dev) (w : Nat) (x : Wedge) : (d.setWedge w x).stbyTimer = d.stbyTimer := rfl
@[simp] theorem Dev.setWedge_seq (d : Dev) (w : Nat) (x : Wedge) : (d.setWedge w x).seq = d.seq := rfl
@[simp] theorem Dev.setWedge_ports (d : Dev) (w : Nat) (x : Wedge) : (d.setWedge w x).ports = d.ports := rfl
@[simp] theorem Dev.setWedge_cmds (d : Dev) (w : Nat) (x : Wedge) : (d.setWedge w x).cmds = d.cmds := rfl
@[simp] theorem Dev.setWedge_nextCmd (d : Dev) (w : Nat) (x : Wedge) : (d.setWedge w x).nextCmd = d.nextCmd := rfl
@[simp] theorem Dev.setWedge_comps (d : Dev) (w : Nat) (x : Wedge) : (d.setWedge w x).comps = d.comps := rfl
@[simp] theorem Dev.setWedge_allocs (d : Dev) (w : Nat) (x : Wedge) : (d.setWedge w x).allocs = d.allocs := rfl
@[simp] theorem Dev.setWedge_allocIdx (d : Dev) (w : Nat) (x : Wedge) : (d.setWedge w x).allocIdx = d.allocIdx := rfl
@[simp] theorem Dev.setWedge_usedFrames (d : Dev) (w : Nat) (x : Wedge) : (d.setWedge w x).usedFrames = d.usedFrames := rfl
@[simp] theorem Dev.setWedge_descs (d : Dev) (w : Nat) (x : Wedge) : (d.setWedge w x).descs = d.descs := rfl
@[simp] theorem Dev.setWedge_descIdx (d : Dev) (w : Nat) (x : Wedge) : (d.setWedge w x).descIdx = d.descIdx := rfl
@[simp] theorem Dev.setWedge_mats (d : Dev) (w : Nat) (x : Wedge) : (d.setWedge w x).mats = d.mats := rfl
@[simp] theorem Dev.setWedge_matIdx (d : Dev) (w : Nat) (x : Wedge) : (d.setWedge w x).matIdx = d.matIdx := rfl
@[simp] theorem Dev.setWedge_matReserved (d : Dev) (w : Nat) (x : Wedge) : (d.setWedge w x).matReserved = d.matReserved := rfl
@[simp] theorem Dev.setWedge_loads (d : Dev) (w : Nat) (x : Wedge) : (d.setWedge w x).loads = d.loads := rfl
@[simp] theorem Dev.setWedge_swaps (d : Dev) (w : Nat) (x : Wedge) : (d.setWedge w x).swaps = d.swaps := rfl
@[simp] theorem Dev.setWedge_progs (d : Dev) (w : Nat) (x : Wedge) : (d.setWedge w x).progs = d.progs := rfl
@[simp] theorem Dev.setWedge_progIdx (d : Dev) (w : Nat) (x : Wedge) : (d.setWedge w x).progIdx = d.progIdx := rfl
@[simp] theorem Dev.setWedge_jobs (d : Dev) (w : Nat) (x : Wedge) : (d.setWedge w x).jobs = d.jobs := rfl
@[simp] theorem Dev.setWedge_nextJob (d : Dev) (w : Nat) (x : Wedge) : (d.setWedge w x).nextJob = d.nextJob := rfl
@[simp] theorem Dev.setWedge_tiles (d : Dev) (w : Nat) (x : Wedge) : (d.setWedge w x).tiles = d.tiles := rfl
@[simp] theorem Dev.setWedge_nextTile (d : Dev) (w : Nat) (x : Wedge) : (d.setWedge w x).nextTile = d.nextTile := rfl
@[simp] theorem Dev.setWedge_spad (d : Dev) (w : Nat) (x : Wedge) : (d.setWedge w x).spad = d.spad := rfl
@[simp] theorem Dev.setWedge_slots (d : Dev) (w : Nat) (x : Wedge) : (d.setWedge w x).slots = d.slots := rfl
@[simp] theorem Dev.setWedge_banks (d : Dev) (w : Nat) (x : Wedge) : (d.setWedge w x).banks = d.banks := rfl
@[simp] theorem Dev.setWedge_macros (d : Dev) (w : Nat) (x : Wedge) : (d.setWedge w x).macros = d.macros := rfl
@[simp] theorem Dev.setWedge_guard0 (d : Dev) (w : Nat) (x : Wedge) : (d.setWedge w x).guard0 = d.guard0 := rfl
@[simp] theorem Dev.setWedge_quants (d : Dev) (w : Nat) (x : Wedge) : (d.setWedge w x).quants = d.quants := rfl
@[simp] theorem Dev.setWedge_outVecs (d : Dev) (w : Nat) (x : Wedge) : (d.setWedge w x).outVecs = d.outVecs := rfl
@[simp] theorem Dev.setWedge_spans (d : Dev) (w : Nat) (x : Wedge) : (d.setWedge w x).spans = d.spans := rfl
@[simp] theorem Dev.setWedge_pairs (d : Dev) (w : Nat) (x : Wedge) : (d.setWedge w x).pairs = d.pairs := rfl
@[simp] theorem Dev.setWedge_pred (d : Dev) (w : Nat) (x : Wedge) : (d.setWedge w x).pred = d.pred := rfl
@[simp] theorem Dev.setWedge_issues (d : Dev) (w : Nat) (x : Wedge) : (d.setWedge w x).issues = d.issues := rfl
@[simp] theorem Dev.setWedge_engines (d : Dev) (w : Nat) (x : Wedge) : (d.setWedge w x).engines = d.engines := rfl
@[simp] theorem Dev.setWedge_coal (d : Dev) (w : Nat) (x : Wedge) : (d.setWedge w x).coal = d.coal := rfl
@[simp] theorem Dev.setWedge_remote (d : Dev) (w : Nat) (x : Wedge) : (d.setWedge w x).remote = d.remote := rfl
@[simp] theorem Dev.setWedge_waits (d : Dev) (w : Nat) (x : Wedge) : (d.setWedge w x).waits = d.waits := rfl
@[simp] theorem Dev.setWedge_gone (d : Dev) (w : Nat) (x : Wedge) : (d.setWedge w x).gone = d.gone := rfl
@[simp] theorem Dev.setWedge_mem (d : Dev) (w : Nat) (x : Wedge) : (d.setWedge w x).mem = d.mem := rfl
@[simp] theorem Dev.setWedge_hops (d : Dev) (w : Nat) (x : Wedge) : (d.setWedge w x).hops = d.hops := rfl
@[simp] theorem Dev.setWedge_frames (d : Dev) (w : Nat) (x : Wedge) : (d.setWedge w x).frames = d.frames := rfl
@[simp] theorem Dev.setWedge_rooms (d : Dev) (w : Nat) (x : Wedge) : (d.setWedge w x).rooms = d.rooms := rfl
@[simp] theorem Dev.setWedge_asks (d : Dev) (w : Nat) (x : Wedge) : (d.setWedge w x).asks = d.asks := rfl
@[simp] theorem Dev.setWedge_links (d : Dev) (w : Nat) (x : Wedge) : (d.setWedge w x).links = d.links := rfl
@[simp] theorem Dev.setWedge_bundles (d : Dev) (w : Nat) (x : Wedge) : (d.setWedge w x).bundles = d.bundles := rfl
@[simp] theorem Dev.setWedge_pow (d : Dev) (w : Nat) (x : Wedge) : (d.setWedge w x).pow = d.pow := rfl
@[simp] theorem Dev.setWedge_ces (d : Dev) (w : Nat) (x : Wedge) : (d.setWedge w x).ces = d.ces := rfl
@[simp] theorem Dev.setWedge_log (d : Dev) (w : Nat) (x : Wedge) : (d.setWedge w x).log = d.log := rfl
@[simp] theorem Dev.setWedge_vals (d : Dev) (w : Nat) (x : Wedge) : (d.setWedge w x).vals = d.vals := rfl
@[simp] theorem Dev.setWedge_ctr (d : Dev) (w : Nat) (x : Wedge) : (d.setWedge w x).ctr = d.ctr := rfl
@[simp] theorem Dev.setWedge_jour (d : Dev) (w : Nat) (x : Wedge) : (d.setWedge w x).jour = d.jour := rfl
@[simp] theorem Dev.setWedge_tam (d : Dev) (w : Nat) (x : Wedge) : (d.setWedge w x).tam = d.tam := rfl
@[simp] theorem Dev.setWedge_sec (d : Dev) (w : Nat) (x : Wedge) : (d.setWedge w x).sec = d.sec := rfl

/-! ### setPort -/

@[simp] theorem Dev.setPort_free (d : Dev) (p : Nat) (x : HostPort) : (d.setPort p x).free = d.free := rfl
@[simp] theorem Dev.setPort_out (d : Dev) (p : Nat) (x : HostPort) : (d.setPort p x).out = d.out := rfl
@[simp] theorem Dev.setPort_marks (d : Dev) (p : Nat) (x : HostPort) : (d.setPort p x).marks = d.marks := rfl
@[simp] theorem Dev.setPort_hubTimer (d : Dev) (p : Nat) (x : HostPort) : (d.setPort p x).hubTimer = d.hubTimer := rfl
@[simp] theorem Dev.setPort_stbyTimer (d : Dev) (p : Nat) (x : HostPort) : (d.setPort p x).stbyTimer = d.stbyTimer := rfl
@[simp] theorem Dev.setPort_seq (d : Dev) (p : Nat) (x : HostPort) : (d.setPort p x).seq = d.seq := rfl
@[simp] theorem Dev.setPort_cmds (d : Dev) (p : Nat) (x : HostPort) : (d.setPort p x).cmds = d.cmds := rfl
@[simp] theorem Dev.setPort_nextCmd (d : Dev) (p : Nat) (x : HostPort) : (d.setPort p x).nextCmd = d.nextCmd := rfl
@[simp] theorem Dev.setPort_comps (d : Dev) (p : Nat) (x : HostPort) : (d.setPort p x).comps = d.comps := rfl
@[simp] theorem Dev.setPort_allocs (d : Dev) (p : Nat) (x : HostPort) : (d.setPort p x).allocs = d.allocs := rfl
@[simp] theorem Dev.setPort_allocIdx (d : Dev) (p : Nat) (x : HostPort) : (d.setPort p x).allocIdx = d.allocIdx := rfl
@[simp] theorem Dev.setPort_usedFrames (d : Dev) (p : Nat) (x : HostPort) : (d.setPort p x).usedFrames = d.usedFrames := rfl
@[simp] theorem Dev.setPort_descs (d : Dev) (p : Nat) (x : HostPort) : (d.setPort p x).descs = d.descs := rfl
@[simp] theorem Dev.setPort_descIdx (d : Dev) (p : Nat) (x : HostPort) : (d.setPort p x).descIdx = d.descIdx := rfl
@[simp] theorem Dev.setPort_mats (d : Dev) (p : Nat) (x : HostPort) : (d.setPort p x).mats = d.mats := rfl
@[simp] theorem Dev.setPort_matIdx (d : Dev) (p : Nat) (x : HostPort) : (d.setPort p x).matIdx = d.matIdx := rfl
@[simp] theorem Dev.setPort_matReserved (d : Dev) (p : Nat) (x : HostPort) : (d.setPort p x).matReserved = d.matReserved := rfl
@[simp] theorem Dev.setPort_loads (d : Dev) (p : Nat) (x : HostPort) : (d.setPort p x).loads = d.loads := rfl
@[simp] theorem Dev.setPort_swaps (d : Dev) (p : Nat) (x : HostPort) : (d.setPort p x).swaps = d.swaps := rfl
@[simp] theorem Dev.setPort_progs (d : Dev) (p : Nat) (x : HostPort) : (d.setPort p x).progs = d.progs := rfl
@[simp] theorem Dev.setPort_progIdx (d : Dev) (p : Nat) (x : HostPort) : (d.setPort p x).progIdx = d.progIdx := rfl
@[simp] theorem Dev.setPort_jobs (d : Dev) (p : Nat) (x : HostPort) : (d.setPort p x).jobs = d.jobs := rfl
@[simp] theorem Dev.setPort_nextJob (d : Dev) (p : Nat) (x : HostPort) : (d.setPort p x).nextJob = d.nextJob := rfl
@[simp] theorem Dev.setPort_tiles (d : Dev) (p : Nat) (x : HostPort) : (d.setPort p x).tiles = d.tiles := rfl
@[simp] theorem Dev.setPort_nextTile (d : Dev) (p : Nat) (x : HostPort) : (d.setPort p x).nextTile = d.nextTile := rfl
@[simp] theorem Dev.setPort_spad (d : Dev) (p : Nat) (x : HostPort) : (d.setPort p x).spad = d.spad := rfl
@[simp] theorem Dev.setPort_slots (d : Dev) (p : Nat) (x : HostPort) : (d.setPort p x).slots = d.slots := rfl
@[simp] theorem Dev.setPort_banks (d : Dev) (p : Nat) (x : HostPort) : (d.setPort p x).banks = d.banks := rfl
@[simp] theorem Dev.setPort_macros (d : Dev) (p : Nat) (x : HostPort) : (d.setPort p x).macros = d.macros := rfl
@[simp] theorem Dev.setPort_guard0 (d : Dev) (p : Nat) (x : HostPort) : (d.setPort p x).guard0 = d.guard0 := rfl
@[simp] theorem Dev.setPort_wedges (d : Dev) (p : Nat) (x : HostPort) : (d.setPort p x).wedges = d.wedges := rfl
@[simp] theorem Dev.setPort_quants (d : Dev) (p : Nat) (x : HostPort) : (d.setPort p x).quants = d.quants := rfl
@[simp] theorem Dev.setPort_outVecs (d : Dev) (p : Nat) (x : HostPort) : (d.setPort p x).outVecs = d.outVecs := rfl
@[simp] theorem Dev.setPort_spans (d : Dev) (p : Nat) (x : HostPort) : (d.setPort p x).spans = d.spans := rfl
@[simp] theorem Dev.setPort_pairs (d : Dev) (p : Nat) (x : HostPort) : (d.setPort p x).pairs = d.pairs := rfl
@[simp] theorem Dev.setPort_pred (d : Dev) (p : Nat) (x : HostPort) : (d.setPort p x).pred = d.pred := rfl
@[simp] theorem Dev.setPort_issues (d : Dev) (p : Nat) (x : HostPort) : (d.setPort p x).issues = d.issues := rfl
@[simp] theorem Dev.setPort_engines (d : Dev) (p : Nat) (x : HostPort) : (d.setPort p x).engines = d.engines := rfl
@[simp] theorem Dev.setPort_coal (d : Dev) (p : Nat) (x : HostPort) : (d.setPort p x).coal = d.coal := rfl
@[simp] theorem Dev.setPort_remote (d : Dev) (p : Nat) (x : HostPort) : (d.setPort p x).remote = d.remote := rfl
@[simp] theorem Dev.setPort_waits (d : Dev) (p : Nat) (x : HostPort) : (d.setPort p x).waits = d.waits := rfl
@[simp] theorem Dev.setPort_gone (d : Dev) (p : Nat) (x : HostPort) : (d.setPort p x).gone = d.gone := rfl
@[simp] theorem Dev.setPort_mem (d : Dev) (p : Nat) (x : HostPort) : (d.setPort p x).mem = d.mem := rfl
@[simp] theorem Dev.setPort_hops (d : Dev) (p : Nat) (x : HostPort) : (d.setPort p x).hops = d.hops := rfl
@[simp] theorem Dev.setPort_frames (d : Dev) (p : Nat) (x : HostPort) : (d.setPort p x).frames = d.frames := rfl
@[simp] theorem Dev.setPort_rooms (d : Dev) (p : Nat) (x : HostPort) : (d.setPort p x).rooms = d.rooms := rfl
@[simp] theorem Dev.setPort_asks (d : Dev) (p : Nat) (x : HostPort) : (d.setPort p x).asks = d.asks := rfl
@[simp] theorem Dev.setPort_links (d : Dev) (p : Nat) (x : HostPort) : (d.setPort p x).links = d.links := rfl
@[simp] theorem Dev.setPort_bundles (d : Dev) (p : Nat) (x : HostPort) : (d.setPort p x).bundles = d.bundles := rfl
@[simp] theorem Dev.setPort_pow (d : Dev) (p : Nat) (x : HostPort) : (d.setPort p x).pow = d.pow := rfl
@[simp] theorem Dev.setPort_ces (d : Dev) (p : Nat) (x : HostPort) : (d.setPort p x).ces = d.ces := rfl
@[simp] theorem Dev.setPort_log (d : Dev) (p : Nat) (x : HostPort) : (d.setPort p x).log = d.log := rfl
@[simp] theorem Dev.setPort_vals (d : Dev) (p : Nat) (x : HostPort) : (d.setPort p x).vals = d.vals := rfl
@[simp] theorem Dev.setPort_ctr (d : Dev) (p : Nat) (x : HostPort) : (d.setPort p x).ctr = d.ctr := rfl
@[simp] theorem Dev.setPort_jour (d : Dev) (p : Nat) (x : HostPort) : (d.setPort p x).jour = d.jour := rfl
@[simp] theorem Dev.setPort_tam (d : Dev) (p : Nat) (x : HostPort) : (d.setPort p x).tam = d.tam := rfl
@[simp] theorem Dev.setPort_sec (d : Dev) (p : Nat) (x : HostPort) : (d.setPort p x).sec = d.sec := rfl

/-! ### setQueue -/

@[simp] theorem Dev.setQueue_free (d : Dev) (p q : Nat) (x : Queue) : (d.setQueue p q x).free = d.free := rfl
@[simp] theorem Dev.setQueue_out (d : Dev) (p q : Nat) (x : Queue) : (d.setQueue p q x).out = d.out := rfl
@[simp] theorem Dev.setQueue_marks (d : Dev) (p q : Nat) (x : Queue) : (d.setQueue p q x).marks = d.marks := rfl
@[simp] theorem Dev.setQueue_hubTimer (d : Dev) (p q : Nat) (x : Queue) : (d.setQueue p q x).hubTimer = d.hubTimer := rfl
@[simp] theorem Dev.setQueue_stbyTimer (d : Dev) (p q : Nat) (x : Queue) : (d.setQueue p q x).stbyTimer = d.stbyTimer := rfl
@[simp] theorem Dev.setQueue_seq (d : Dev) (p q : Nat) (x : Queue) : (d.setQueue p q x).seq = d.seq := rfl
@[simp] theorem Dev.setQueue_cmds (d : Dev) (p q : Nat) (x : Queue) : (d.setQueue p q x).cmds = d.cmds := rfl
@[simp] theorem Dev.setQueue_nextCmd (d : Dev) (p q : Nat) (x : Queue) : (d.setQueue p q x).nextCmd = d.nextCmd := rfl
@[simp] theorem Dev.setQueue_comps (d : Dev) (p q : Nat) (x : Queue) : (d.setQueue p q x).comps = d.comps := rfl
@[simp] theorem Dev.setQueue_allocs (d : Dev) (p q : Nat) (x : Queue) : (d.setQueue p q x).allocs = d.allocs := rfl
@[simp] theorem Dev.setQueue_allocIdx (d : Dev) (p q : Nat) (x : Queue) : (d.setQueue p q x).allocIdx = d.allocIdx := rfl
@[simp] theorem Dev.setQueue_usedFrames (d : Dev) (p q : Nat) (x : Queue) : (d.setQueue p q x).usedFrames = d.usedFrames := rfl
@[simp] theorem Dev.setQueue_descs (d : Dev) (p q : Nat) (x : Queue) : (d.setQueue p q x).descs = d.descs := rfl
@[simp] theorem Dev.setQueue_descIdx (d : Dev) (p q : Nat) (x : Queue) : (d.setQueue p q x).descIdx = d.descIdx := rfl
@[simp] theorem Dev.setQueue_mats (d : Dev) (p q : Nat) (x : Queue) : (d.setQueue p q x).mats = d.mats := rfl
@[simp] theorem Dev.setQueue_matIdx (d : Dev) (p q : Nat) (x : Queue) : (d.setQueue p q x).matIdx = d.matIdx := rfl
@[simp] theorem Dev.setQueue_matReserved (d : Dev) (p q : Nat) (x : Queue) : (d.setQueue p q x).matReserved = d.matReserved := rfl
@[simp] theorem Dev.setQueue_loads (d : Dev) (p q : Nat) (x : Queue) : (d.setQueue p q x).loads = d.loads := rfl
@[simp] theorem Dev.setQueue_swaps (d : Dev) (p q : Nat) (x : Queue) : (d.setQueue p q x).swaps = d.swaps := rfl
@[simp] theorem Dev.setQueue_progs (d : Dev) (p q : Nat) (x : Queue) : (d.setQueue p q x).progs = d.progs := rfl
@[simp] theorem Dev.setQueue_progIdx (d : Dev) (p q : Nat) (x : Queue) : (d.setQueue p q x).progIdx = d.progIdx := rfl
@[simp] theorem Dev.setQueue_jobs (d : Dev) (p q : Nat) (x : Queue) : (d.setQueue p q x).jobs = d.jobs := rfl
@[simp] theorem Dev.setQueue_nextJob (d : Dev) (p q : Nat) (x : Queue) : (d.setQueue p q x).nextJob = d.nextJob := rfl
@[simp] theorem Dev.setQueue_tiles (d : Dev) (p q : Nat) (x : Queue) : (d.setQueue p q x).tiles = d.tiles := rfl
@[simp] theorem Dev.setQueue_nextTile (d : Dev) (p q : Nat) (x : Queue) : (d.setQueue p q x).nextTile = d.nextTile := rfl
@[simp] theorem Dev.setQueue_spad (d : Dev) (p q : Nat) (x : Queue) : (d.setQueue p q x).spad = d.spad := rfl
@[simp] theorem Dev.setQueue_slots (d : Dev) (p q : Nat) (x : Queue) : (d.setQueue p q x).slots = d.slots := rfl
@[simp] theorem Dev.setQueue_banks (d : Dev) (p q : Nat) (x : Queue) : (d.setQueue p q x).banks = d.banks := rfl
@[simp] theorem Dev.setQueue_macros (d : Dev) (p q : Nat) (x : Queue) : (d.setQueue p q x).macros = d.macros := rfl
@[simp] theorem Dev.setQueue_guard0 (d : Dev) (p q : Nat) (x : Queue) : (d.setQueue p q x).guard0 = d.guard0 := rfl
@[simp] theorem Dev.setQueue_wedges (d : Dev) (p q : Nat) (x : Queue) : (d.setQueue p q x).wedges = d.wedges := rfl
@[simp] theorem Dev.setQueue_quants (d : Dev) (p q : Nat) (x : Queue) : (d.setQueue p q x).quants = d.quants := rfl
@[simp] theorem Dev.setQueue_outVecs (d : Dev) (p q : Nat) (x : Queue) : (d.setQueue p q x).outVecs = d.outVecs := rfl
@[simp] theorem Dev.setQueue_spans (d : Dev) (p q : Nat) (x : Queue) : (d.setQueue p q x).spans = d.spans := rfl
@[simp] theorem Dev.setQueue_pairs (d : Dev) (p q : Nat) (x : Queue) : (d.setQueue p q x).pairs = d.pairs := rfl
@[simp] theorem Dev.setQueue_pred (d : Dev) (p q : Nat) (x : Queue) : (d.setQueue p q x).pred = d.pred := rfl
@[simp] theorem Dev.setQueue_issues (d : Dev) (p q : Nat) (x : Queue) : (d.setQueue p q x).issues = d.issues := rfl
@[simp] theorem Dev.setQueue_engines (d : Dev) (p q : Nat) (x : Queue) : (d.setQueue p q x).engines = d.engines := rfl
@[simp] theorem Dev.setQueue_coal (d : Dev) (p q : Nat) (x : Queue) : (d.setQueue p q x).coal = d.coal := rfl
@[simp] theorem Dev.setQueue_remote (d : Dev) (p q : Nat) (x : Queue) : (d.setQueue p q x).remote = d.remote := rfl
@[simp] theorem Dev.setQueue_waits (d : Dev) (p q : Nat) (x : Queue) : (d.setQueue p q x).waits = d.waits := rfl
@[simp] theorem Dev.setQueue_gone (d : Dev) (p q : Nat) (x : Queue) : (d.setQueue p q x).gone = d.gone := rfl
@[simp] theorem Dev.setQueue_mem (d : Dev) (p q : Nat) (x : Queue) : (d.setQueue p q x).mem = d.mem := rfl
@[simp] theorem Dev.setQueue_hops (d : Dev) (p q : Nat) (x : Queue) : (d.setQueue p q x).hops = d.hops := rfl
@[simp] theorem Dev.setQueue_frames (d : Dev) (p q : Nat) (x : Queue) : (d.setQueue p q x).frames = d.frames := rfl
@[simp] theorem Dev.setQueue_rooms (d : Dev) (p q : Nat) (x : Queue) : (d.setQueue p q x).rooms = d.rooms := rfl
@[simp] theorem Dev.setQueue_asks (d : Dev) (p q : Nat) (x : Queue) : (d.setQueue p q x).asks = d.asks := rfl
@[simp] theorem Dev.setQueue_links (d : Dev) (p q : Nat) (x : Queue) : (d.setQueue p q x).links = d.links := rfl
@[simp] theorem Dev.setQueue_bundles (d : Dev) (p q : Nat) (x : Queue) : (d.setQueue p q x).bundles = d.bundles := rfl
@[simp] theorem Dev.setQueue_pow (d : Dev) (p q : Nat) (x : Queue) : (d.setQueue p q x).pow = d.pow := rfl
@[simp] theorem Dev.setQueue_ces (d : Dev) (p q : Nat) (x : Queue) : (d.setQueue p q x).ces = d.ces := rfl
@[simp] theorem Dev.setQueue_log (d : Dev) (p q : Nat) (x : Queue) : (d.setQueue p q x).log = d.log := rfl
@[simp] theorem Dev.setQueue_vals (d : Dev) (p q : Nat) (x : Queue) : (d.setQueue p q x).vals = d.vals := rfl
@[simp] theorem Dev.setQueue_ctr (d : Dev) (p q : Nat) (x : Queue) : (d.setQueue p q x).ctr = d.ctr := rfl
@[simp] theorem Dev.setQueue_jour (d : Dev) (p q : Nat) (x : Queue) : (d.setQueue p q x).jour = d.jour := rfl
@[simp] theorem Dev.setQueue_tam (d : Dev) (p q : Nat) (x : Queue) : (d.setQueue p q x).tam = d.tam := rfl
@[simp] theorem Dev.setQueue_sec (d : Dev) (p q : Nat) (x : Queue) : (d.setQueue p q x).sec = d.sec := rfl

/-! ### setEngine -/

@[simp] theorem Dev.setEngine_free (d : Dev) (e : Nat) (x : Engine) : (d.setEngine e x).free = d.free := rfl
@[simp] theorem Dev.setEngine_out (d : Dev) (e : Nat) (x : Engine) : (d.setEngine e x).out = d.out := rfl
@[simp] theorem Dev.setEngine_marks (d : Dev) (e : Nat) (x : Engine) : (d.setEngine e x).marks = d.marks := rfl
@[simp] theorem Dev.setEngine_hubTimer (d : Dev) (e : Nat) (x : Engine) : (d.setEngine e x).hubTimer = d.hubTimer := rfl
@[simp] theorem Dev.setEngine_stbyTimer (d : Dev) (e : Nat) (x : Engine) : (d.setEngine e x).stbyTimer = d.stbyTimer := rfl
@[simp] theorem Dev.setEngine_seq (d : Dev) (e : Nat) (x : Engine) : (d.setEngine e x).seq = d.seq := rfl
@[simp] theorem Dev.setEngine_ports (d : Dev) (e : Nat) (x : Engine) : (d.setEngine e x).ports = d.ports := rfl
@[simp] theorem Dev.setEngine_cmds (d : Dev) (e : Nat) (x : Engine) : (d.setEngine e x).cmds = d.cmds := rfl
@[simp] theorem Dev.setEngine_nextCmd (d : Dev) (e : Nat) (x : Engine) : (d.setEngine e x).nextCmd = d.nextCmd := rfl
@[simp] theorem Dev.setEngine_comps (d : Dev) (e : Nat) (x : Engine) : (d.setEngine e x).comps = d.comps := rfl
@[simp] theorem Dev.setEngine_allocs (d : Dev) (e : Nat) (x : Engine) : (d.setEngine e x).allocs = d.allocs := rfl
@[simp] theorem Dev.setEngine_allocIdx (d : Dev) (e : Nat) (x : Engine) : (d.setEngine e x).allocIdx = d.allocIdx := rfl
@[simp] theorem Dev.setEngine_usedFrames (d : Dev) (e : Nat) (x : Engine) : (d.setEngine e x).usedFrames = d.usedFrames := rfl
@[simp] theorem Dev.setEngine_descs (d : Dev) (e : Nat) (x : Engine) : (d.setEngine e x).descs = d.descs := rfl
@[simp] theorem Dev.setEngine_descIdx (d : Dev) (e : Nat) (x : Engine) : (d.setEngine e x).descIdx = d.descIdx := rfl
@[simp] theorem Dev.setEngine_mats (d : Dev) (e : Nat) (x : Engine) : (d.setEngine e x).mats = d.mats := rfl
@[simp] theorem Dev.setEngine_matIdx (d : Dev) (e : Nat) (x : Engine) : (d.setEngine e x).matIdx = d.matIdx := rfl
@[simp] theorem Dev.setEngine_matReserved (d : Dev) (e : Nat) (x : Engine) : (d.setEngine e x).matReserved = d.matReserved := rfl
@[simp] theorem Dev.setEngine_loads (d : Dev) (e : Nat) (x : Engine) : (d.setEngine e x).loads = d.loads := rfl
@[simp] theorem Dev.setEngine_swaps (d : Dev) (e : Nat) (x : Engine) : (d.setEngine e x).swaps = d.swaps := rfl
@[simp] theorem Dev.setEngine_progs (d : Dev) (e : Nat) (x : Engine) : (d.setEngine e x).progs = d.progs := rfl
@[simp] theorem Dev.setEngine_progIdx (d : Dev) (e : Nat) (x : Engine) : (d.setEngine e x).progIdx = d.progIdx := rfl
@[simp] theorem Dev.setEngine_jobs (d : Dev) (e : Nat) (x : Engine) : (d.setEngine e x).jobs = d.jobs := rfl
@[simp] theorem Dev.setEngine_nextJob (d : Dev) (e : Nat) (x : Engine) : (d.setEngine e x).nextJob = d.nextJob := rfl
@[simp] theorem Dev.setEngine_tiles (d : Dev) (e : Nat) (x : Engine) : (d.setEngine e x).tiles = d.tiles := rfl
@[simp] theorem Dev.setEngine_nextTile (d : Dev) (e : Nat) (x : Engine) : (d.setEngine e x).nextTile = d.nextTile := rfl
@[simp] theorem Dev.setEngine_spad (d : Dev) (e : Nat) (x : Engine) : (d.setEngine e x).spad = d.spad := rfl
@[simp] theorem Dev.setEngine_slots (d : Dev) (e : Nat) (x : Engine) : (d.setEngine e x).slots = d.slots := rfl
@[simp] theorem Dev.setEngine_banks (d : Dev) (e : Nat) (x : Engine) : (d.setEngine e x).banks = d.banks := rfl
@[simp] theorem Dev.setEngine_macros (d : Dev) (e : Nat) (x : Engine) : (d.setEngine e x).macros = d.macros := rfl
@[simp] theorem Dev.setEngine_guard0 (d : Dev) (e : Nat) (x : Engine) : (d.setEngine e x).guard0 = d.guard0 := rfl
@[simp] theorem Dev.setEngine_wedges (d : Dev) (e : Nat) (x : Engine) : (d.setEngine e x).wedges = d.wedges := rfl
@[simp] theorem Dev.setEngine_quants (d : Dev) (e : Nat) (x : Engine) : (d.setEngine e x).quants = d.quants := rfl
@[simp] theorem Dev.setEngine_outVecs (d : Dev) (e : Nat) (x : Engine) : (d.setEngine e x).outVecs = d.outVecs := rfl
@[simp] theorem Dev.setEngine_spans (d : Dev) (e : Nat) (x : Engine) : (d.setEngine e x).spans = d.spans := rfl
@[simp] theorem Dev.setEngine_pairs (d : Dev) (e : Nat) (x : Engine) : (d.setEngine e x).pairs = d.pairs := rfl
@[simp] theorem Dev.setEngine_pred (d : Dev) (e : Nat) (x : Engine) : (d.setEngine e x).pred = d.pred := rfl
@[simp] theorem Dev.setEngine_issues (d : Dev) (e : Nat) (x : Engine) : (d.setEngine e x).issues = d.issues := rfl
@[simp] theorem Dev.setEngine_coal (d : Dev) (e : Nat) (x : Engine) : (d.setEngine e x).coal = d.coal := rfl
@[simp] theorem Dev.setEngine_remote (d : Dev) (e : Nat) (x : Engine) : (d.setEngine e x).remote = d.remote := rfl
@[simp] theorem Dev.setEngine_waits (d : Dev) (e : Nat) (x : Engine) : (d.setEngine e x).waits = d.waits := rfl
@[simp] theorem Dev.setEngine_gone (d : Dev) (e : Nat) (x : Engine) : (d.setEngine e x).gone = d.gone := rfl
@[simp] theorem Dev.setEngine_mem (d : Dev) (e : Nat) (x : Engine) : (d.setEngine e x).mem = d.mem := rfl
@[simp] theorem Dev.setEngine_hops (d : Dev) (e : Nat) (x : Engine) : (d.setEngine e x).hops = d.hops := rfl
@[simp] theorem Dev.setEngine_frames (d : Dev) (e : Nat) (x : Engine) : (d.setEngine e x).frames = d.frames := rfl
@[simp] theorem Dev.setEngine_rooms (d : Dev) (e : Nat) (x : Engine) : (d.setEngine e x).rooms = d.rooms := rfl
@[simp] theorem Dev.setEngine_asks (d : Dev) (e : Nat) (x : Engine) : (d.setEngine e x).asks = d.asks := rfl
@[simp] theorem Dev.setEngine_links (d : Dev) (e : Nat) (x : Engine) : (d.setEngine e x).links = d.links := rfl
@[simp] theorem Dev.setEngine_bundles (d : Dev) (e : Nat) (x : Engine) : (d.setEngine e x).bundles = d.bundles := rfl
@[simp] theorem Dev.setEngine_pow (d : Dev) (e : Nat) (x : Engine) : (d.setEngine e x).pow = d.pow := rfl
@[simp] theorem Dev.setEngine_ces (d : Dev) (e : Nat) (x : Engine) : (d.setEngine e x).ces = d.ces := rfl
@[simp] theorem Dev.setEngine_log (d : Dev) (e : Nat) (x : Engine) : (d.setEngine e x).log = d.log := rfl
@[simp] theorem Dev.setEngine_vals (d : Dev) (e : Nat) (x : Engine) : (d.setEngine e x).vals = d.vals := rfl
@[simp] theorem Dev.setEngine_ctr (d : Dev) (e : Nat) (x : Engine) : (d.setEngine e x).ctr = d.ctr := rfl
@[simp] theorem Dev.setEngine_jour (d : Dev) (e : Nat) (x : Engine) : (d.setEngine e x).jour = d.jour := rfl
@[simp] theorem Dev.setEngine_tam (d : Dev) (e : Nat) (x : Engine) : (d.setEngine e x).tam = d.tam := rfl
@[simp] theorem Dev.setEngine_sec (d : Dev) (e : Nat) (x : Engine) : (d.setEngine e x).sec = d.sec := rfl

/-! ### setLane -/

@[simp] theorem Dev.setLane_free (d : Dev) (e n : Nat) (x : Lane) : (d.setLane e n x).free = d.free := rfl
@[simp] theorem Dev.setLane_out (d : Dev) (e n : Nat) (x : Lane) : (d.setLane e n x).out = d.out := rfl
@[simp] theorem Dev.setLane_marks (d : Dev) (e n : Nat) (x : Lane) : (d.setLane e n x).marks = d.marks := rfl
@[simp] theorem Dev.setLane_hubTimer (d : Dev) (e n : Nat) (x : Lane) : (d.setLane e n x).hubTimer = d.hubTimer := rfl
@[simp] theorem Dev.setLane_stbyTimer (d : Dev) (e n : Nat) (x : Lane) : (d.setLane e n x).stbyTimer = d.stbyTimer := rfl
@[simp] theorem Dev.setLane_seq (d : Dev) (e n : Nat) (x : Lane) : (d.setLane e n x).seq = d.seq := rfl
@[simp] theorem Dev.setLane_ports (d : Dev) (e n : Nat) (x : Lane) : (d.setLane e n x).ports = d.ports := rfl
@[simp] theorem Dev.setLane_cmds (d : Dev) (e n : Nat) (x : Lane) : (d.setLane e n x).cmds = d.cmds := rfl
@[simp] theorem Dev.setLane_nextCmd (d : Dev) (e n : Nat) (x : Lane) : (d.setLane e n x).nextCmd = d.nextCmd := rfl
@[simp] theorem Dev.setLane_comps (d : Dev) (e n : Nat) (x : Lane) : (d.setLane e n x).comps = d.comps := rfl
@[simp] theorem Dev.setLane_allocs (d : Dev) (e n : Nat) (x : Lane) : (d.setLane e n x).allocs = d.allocs := rfl
@[simp] theorem Dev.setLane_allocIdx (d : Dev) (e n : Nat) (x : Lane) : (d.setLane e n x).allocIdx = d.allocIdx := rfl
@[simp] theorem Dev.setLane_usedFrames (d : Dev) (e n : Nat) (x : Lane) : (d.setLane e n x).usedFrames = d.usedFrames := rfl
@[simp] theorem Dev.setLane_descs (d : Dev) (e n : Nat) (x : Lane) : (d.setLane e n x).descs = d.descs := rfl
@[simp] theorem Dev.setLane_descIdx (d : Dev) (e n : Nat) (x : Lane) : (d.setLane e n x).descIdx = d.descIdx := rfl
@[simp] theorem Dev.setLane_mats (d : Dev) (e n : Nat) (x : Lane) : (d.setLane e n x).mats = d.mats := rfl
@[simp] theorem Dev.setLane_matIdx (d : Dev) (e n : Nat) (x : Lane) : (d.setLane e n x).matIdx = d.matIdx := rfl
@[simp] theorem Dev.setLane_matReserved (d : Dev) (e n : Nat) (x : Lane) : (d.setLane e n x).matReserved = d.matReserved := rfl
@[simp] theorem Dev.setLane_loads (d : Dev) (e n : Nat) (x : Lane) : (d.setLane e n x).loads = d.loads := rfl
@[simp] theorem Dev.setLane_swaps (d : Dev) (e n : Nat) (x : Lane) : (d.setLane e n x).swaps = d.swaps := rfl
@[simp] theorem Dev.setLane_progs (d : Dev) (e n : Nat) (x : Lane) : (d.setLane e n x).progs = d.progs := rfl
@[simp] theorem Dev.setLane_progIdx (d : Dev) (e n : Nat) (x : Lane) : (d.setLane e n x).progIdx = d.progIdx := rfl
@[simp] theorem Dev.setLane_jobs (d : Dev) (e n : Nat) (x : Lane) : (d.setLane e n x).jobs = d.jobs := rfl
@[simp] theorem Dev.setLane_nextJob (d : Dev) (e n : Nat) (x : Lane) : (d.setLane e n x).nextJob = d.nextJob := rfl
@[simp] theorem Dev.setLane_tiles (d : Dev) (e n : Nat) (x : Lane) : (d.setLane e n x).tiles = d.tiles := rfl
@[simp] theorem Dev.setLane_nextTile (d : Dev) (e n : Nat) (x : Lane) : (d.setLane e n x).nextTile = d.nextTile := rfl
@[simp] theorem Dev.setLane_spad (d : Dev) (e n : Nat) (x : Lane) : (d.setLane e n x).spad = d.spad := rfl
@[simp] theorem Dev.setLane_slots (d : Dev) (e n : Nat) (x : Lane) : (d.setLane e n x).slots = d.slots := rfl
@[simp] theorem Dev.setLane_banks (d : Dev) (e n : Nat) (x : Lane) : (d.setLane e n x).banks = d.banks := rfl
@[simp] theorem Dev.setLane_macros (d : Dev) (e n : Nat) (x : Lane) : (d.setLane e n x).macros = d.macros := rfl
@[simp] theorem Dev.setLane_guard0 (d : Dev) (e n : Nat) (x : Lane) : (d.setLane e n x).guard0 = d.guard0 := rfl
@[simp] theorem Dev.setLane_wedges (d : Dev) (e n : Nat) (x : Lane) : (d.setLane e n x).wedges = d.wedges := rfl
@[simp] theorem Dev.setLane_quants (d : Dev) (e n : Nat) (x : Lane) : (d.setLane e n x).quants = d.quants := rfl
@[simp] theorem Dev.setLane_outVecs (d : Dev) (e n : Nat) (x : Lane) : (d.setLane e n x).outVecs = d.outVecs := rfl
@[simp] theorem Dev.setLane_spans (d : Dev) (e n : Nat) (x : Lane) : (d.setLane e n x).spans = d.spans := rfl
@[simp] theorem Dev.setLane_pairs (d : Dev) (e n : Nat) (x : Lane) : (d.setLane e n x).pairs = d.pairs := rfl
@[simp] theorem Dev.setLane_pred (d : Dev) (e n : Nat) (x : Lane) : (d.setLane e n x).pred = d.pred := rfl
@[simp] theorem Dev.setLane_issues (d : Dev) (e n : Nat) (x : Lane) : (d.setLane e n x).issues = d.issues := rfl
@[simp] theorem Dev.setLane_coal (d : Dev) (e n : Nat) (x : Lane) : (d.setLane e n x).coal = d.coal := rfl
@[simp] theorem Dev.setLane_remote (d : Dev) (e n : Nat) (x : Lane) : (d.setLane e n x).remote = d.remote := rfl
@[simp] theorem Dev.setLane_waits (d : Dev) (e n : Nat) (x : Lane) : (d.setLane e n x).waits = d.waits := rfl
@[simp] theorem Dev.setLane_gone (d : Dev) (e n : Nat) (x : Lane) : (d.setLane e n x).gone = d.gone := rfl
@[simp] theorem Dev.setLane_mem (d : Dev) (e n : Nat) (x : Lane) : (d.setLane e n x).mem = d.mem := rfl
@[simp] theorem Dev.setLane_hops (d : Dev) (e n : Nat) (x : Lane) : (d.setLane e n x).hops = d.hops := rfl
@[simp] theorem Dev.setLane_frames (d : Dev) (e n : Nat) (x : Lane) : (d.setLane e n x).frames = d.frames := rfl
@[simp] theorem Dev.setLane_rooms (d : Dev) (e n : Nat) (x : Lane) : (d.setLane e n x).rooms = d.rooms := rfl
@[simp] theorem Dev.setLane_asks (d : Dev) (e n : Nat) (x : Lane) : (d.setLane e n x).asks = d.asks := rfl
@[simp] theorem Dev.setLane_links (d : Dev) (e n : Nat) (x : Lane) : (d.setLane e n x).links = d.links := rfl
@[simp] theorem Dev.setLane_bundles (d : Dev) (e n : Nat) (x : Lane) : (d.setLane e n x).bundles = d.bundles := rfl
@[simp] theorem Dev.setLane_pow (d : Dev) (e n : Nat) (x : Lane) : (d.setLane e n x).pow = d.pow := rfl
@[simp] theorem Dev.setLane_ces (d : Dev) (e n : Nat) (x : Lane) : (d.setLane e n x).ces = d.ces := rfl
@[simp] theorem Dev.setLane_log (d : Dev) (e n : Nat) (x : Lane) : (d.setLane e n x).log = d.log := rfl
@[simp] theorem Dev.setLane_vals (d : Dev) (e n : Nat) (x : Lane) : (d.setLane e n x).vals = d.vals := rfl
@[simp] theorem Dev.setLane_ctr (d : Dev) (e n : Nat) (x : Lane) : (d.setLane e n x).ctr = d.ctr := rfl
@[simp] theorem Dev.setLane_jour (d : Dev) (e n : Nat) (x : Lane) : (d.setLane e n x).jour = d.jour := rfl
@[simp] theorem Dev.setLane_tam (d : Dev) (e n : Nat) (x : Lane) : (d.setLane e n x).tam = d.tam := rfl
@[simp] theorem Dev.setLane_sec (d : Dev) (e n : Nat) (x : Lane) : (d.setLane e n x).sec = d.sec := rfl

/-! ### setQuant -/

@[simp] theorem Dev.setQuant_free (d : Dev) (q : Nat) (x : Quant) : (d.setQuant q x).free = d.free := rfl
@[simp] theorem Dev.setQuant_out (d : Dev) (q : Nat) (x : Quant) : (d.setQuant q x).out = d.out := rfl
@[simp] theorem Dev.setQuant_marks (d : Dev) (q : Nat) (x : Quant) : (d.setQuant q x).marks = d.marks := rfl
@[simp] theorem Dev.setQuant_hubTimer (d : Dev) (q : Nat) (x : Quant) : (d.setQuant q x).hubTimer = d.hubTimer := rfl
@[simp] theorem Dev.setQuant_stbyTimer (d : Dev) (q : Nat) (x : Quant) : (d.setQuant q x).stbyTimer = d.stbyTimer := rfl
@[simp] theorem Dev.setQuant_seq (d : Dev) (q : Nat) (x : Quant) : (d.setQuant q x).seq = d.seq := rfl
@[simp] theorem Dev.setQuant_ports (d : Dev) (q : Nat) (x : Quant) : (d.setQuant q x).ports = d.ports := rfl
@[simp] theorem Dev.setQuant_cmds (d : Dev) (q : Nat) (x : Quant) : (d.setQuant q x).cmds = d.cmds := rfl
@[simp] theorem Dev.setQuant_nextCmd (d : Dev) (q : Nat) (x : Quant) : (d.setQuant q x).nextCmd = d.nextCmd := rfl
@[simp] theorem Dev.setQuant_comps (d : Dev) (q : Nat) (x : Quant) : (d.setQuant q x).comps = d.comps := rfl
@[simp] theorem Dev.setQuant_allocs (d : Dev) (q : Nat) (x : Quant) : (d.setQuant q x).allocs = d.allocs := rfl
@[simp] theorem Dev.setQuant_allocIdx (d : Dev) (q : Nat) (x : Quant) : (d.setQuant q x).allocIdx = d.allocIdx := rfl
@[simp] theorem Dev.setQuant_usedFrames (d : Dev) (q : Nat) (x : Quant) : (d.setQuant q x).usedFrames = d.usedFrames := rfl
@[simp] theorem Dev.setQuant_descs (d : Dev) (q : Nat) (x : Quant) : (d.setQuant q x).descs = d.descs := rfl
@[simp] theorem Dev.setQuant_descIdx (d : Dev) (q : Nat) (x : Quant) : (d.setQuant q x).descIdx = d.descIdx := rfl
@[simp] theorem Dev.setQuant_mats (d : Dev) (q : Nat) (x : Quant) : (d.setQuant q x).mats = d.mats := rfl
@[simp] theorem Dev.setQuant_matIdx (d : Dev) (q : Nat) (x : Quant) : (d.setQuant q x).matIdx = d.matIdx := rfl
@[simp] theorem Dev.setQuant_matReserved (d : Dev) (q : Nat) (x : Quant) : (d.setQuant q x).matReserved = d.matReserved := rfl
@[simp] theorem Dev.setQuant_loads (d : Dev) (q : Nat) (x : Quant) : (d.setQuant q x).loads = d.loads := rfl
@[simp] theorem Dev.setQuant_swaps (d : Dev) (q : Nat) (x : Quant) : (d.setQuant q x).swaps = d.swaps := rfl
@[simp] theorem Dev.setQuant_progs (d : Dev) (q : Nat) (x : Quant) : (d.setQuant q x).progs = d.progs := rfl
@[simp] theorem Dev.setQuant_progIdx (d : Dev) (q : Nat) (x : Quant) : (d.setQuant q x).progIdx = d.progIdx := rfl
@[simp] theorem Dev.setQuant_jobs (d : Dev) (q : Nat) (x : Quant) : (d.setQuant q x).jobs = d.jobs := rfl
@[simp] theorem Dev.setQuant_nextJob (d : Dev) (q : Nat) (x : Quant) : (d.setQuant q x).nextJob = d.nextJob := rfl
@[simp] theorem Dev.setQuant_tiles (d : Dev) (q : Nat) (x : Quant) : (d.setQuant q x).tiles = d.tiles := rfl
@[simp] theorem Dev.setQuant_nextTile (d : Dev) (q : Nat) (x : Quant) : (d.setQuant q x).nextTile = d.nextTile := rfl
@[simp] theorem Dev.setQuant_spad (d : Dev) (q : Nat) (x : Quant) : (d.setQuant q x).spad = d.spad := rfl
@[simp] theorem Dev.setQuant_slots (d : Dev) (q : Nat) (x : Quant) : (d.setQuant q x).slots = d.slots := rfl
@[simp] theorem Dev.setQuant_banks (d : Dev) (q : Nat) (x : Quant) : (d.setQuant q x).banks = d.banks := rfl
@[simp] theorem Dev.setQuant_macros (d : Dev) (q : Nat) (x : Quant) : (d.setQuant q x).macros = d.macros := rfl
@[simp] theorem Dev.setQuant_guard0 (d : Dev) (q : Nat) (x : Quant) : (d.setQuant q x).guard0 = d.guard0 := rfl
@[simp] theorem Dev.setQuant_wedges (d : Dev) (q : Nat) (x : Quant) : (d.setQuant q x).wedges = d.wedges := rfl
@[simp] theorem Dev.setQuant_outVecs (d : Dev) (q : Nat) (x : Quant) : (d.setQuant q x).outVecs = d.outVecs := rfl
@[simp] theorem Dev.setQuant_spans (d : Dev) (q : Nat) (x : Quant) : (d.setQuant q x).spans = d.spans := rfl
@[simp] theorem Dev.setQuant_pairs (d : Dev) (q : Nat) (x : Quant) : (d.setQuant q x).pairs = d.pairs := rfl
@[simp] theorem Dev.setQuant_pred (d : Dev) (q : Nat) (x : Quant) : (d.setQuant q x).pred = d.pred := rfl
@[simp] theorem Dev.setQuant_issues (d : Dev) (q : Nat) (x : Quant) : (d.setQuant q x).issues = d.issues := rfl
@[simp] theorem Dev.setQuant_engines (d : Dev) (q : Nat) (x : Quant) : (d.setQuant q x).engines = d.engines := rfl
@[simp] theorem Dev.setQuant_coal (d : Dev) (q : Nat) (x : Quant) : (d.setQuant q x).coal = d.coal := rfl
@[simp] theorem Dev.setQuant_remote (d : Dev) (q : Nat) (x : Quant) : (d.setQuant q x).remote = d.remote := rfl
@[simp] theorem Dev.setQuant_waits (d : Dev) (q : Nat) (x : Quant) : (d.setQuant q x).waits = d.waits := rfl
@[simp] theorem Dev.setQuant_gone (d : Dev) (q : Nat) (x : Quant) : (d.setQuant q x).gone = d.gone := rfl
@[simp] theorem Dev.setQuant_mem (d : Dev) (q : Nat) (x : Quant) : (d.setQuant q x).mem = d.mem := rfl
@[simp] theorem Dev.setQuant_hops (d : Dev) (q : Nat) (x : Quant) : (d.setQuant q x).hops = d.hops := rfl
@[simp] theorem Dev.setQuant_frames (d : Dev) (q : Nat) (x : Quant) : (d.setQuant q x).frames = d.frames := rfl
@[simp] theorem Dev.setQuant_rooms (d : Dev) (q : Nat) (x : Quant) : (d.setQuant q x).rooms = d.rooms := rfl
@[simp] theorem Dev.setQuant_asks (d : Dev) (q : Nat) (x : Quant) : (d.setQuant q x).asks = d.asks := rfl
@[simp] theorem Dev.setQuant_links (d : Dev) (q : Nat) (x : Quant) : (d.setQuant q x).links = d.links := rfl
@[simp] theorem Dev.setQuant_bundles (d : Dev) (q : Nat) (x : Quant) : (d.setQuant q x).bundles = d.bundles := rfl
@[simp] theorem Dev.setQuant_pow (d : Dev) (q : Nat) (x : Quant) : (d.setQuant q x).pow = d.pow := rfl
@[simp] theorem Dev.setQuant_ces (d : Dev) (q : Nat) (x : Quant) : (d.setQuant q x).ces = d.ces := rfl
@[simp] theorem Dev.setQuant_log (d : Dev) (q : Nat) (x : Quant) : (d.setQuant q x).log = d.log := rfl
@[simp] theorem Dev.setQuant_vals (d : Dev) (q : Nat) (x : Quant) : (d.setQuant q x).vals = d.vals := rfl
@[simp] theorem Dev.setQuant_ctr (d : Dev) (q : Nat) (x : Quant) : (d.setQuant q x).ctr = d.ctr := rfl
@[simp] theorem Dev.setQuant_jour (d : Dev) (q : Nat) (x : Quant) : (d.setQuant q x).jour = d.jour := rfl
@[simp] theorem Dev.setQuant_tam (d : Dev) (q : Nat) (x : Quant) : (d.setQuant q x).tam = d.tam := rfl
@[simp] theorem Dev.setQuant_sec (d : Dev) (q : Nat) (x : Quant) : (d.setQuant q x).sec = d.sec := rfl

/-! ### setLink -/

@[simp] theorem Dev.setLink_free (d : Dev) (l : Nat) (x : Link) : (d.setLink l x).free = d.free := rfl
@[simp] theorem Dev.setLink_out (d : Dev) (l : Nat) (x : Link) : (d.setLink l x).out = d.out := rfl
@[simp] theorem Dev.setLink_marks (d : Dev) (l : Nat) (x : Link) : (d.setLink l x).marks = d.marks := rfl
@[simp] theorem Dev.setLink_hubTimer (d : Dev) (l : Nat) (x : Link) : (d.setLink l x).hubTimer = d.hubTimer := rfl
@[simp] theorem Dev.setLink_stbyTimer (d : Dev) (l : Nat) (x : Link) : (d.setLink l x).stbyTimer = d.stbyTimer := rfl
@[simp] theorem Dev.setLink_seq (d : Dev) (l : Nat) (x : Link) : (d.setLink l x).seq = d.seq := rfl
@[simp] theorem Dev.setLink_ports (d : Dev) (l : Nat) (x : Link) : (d.setLink l x).ports = d.ports := rfl
@[simp] theorem Dev.setLink_cmds (d : Dev) (l : Nat) (x : Link) : (d.setLink l x).cmds = d.cmds := rfl
@[simp] theorem Dev.setLink_nextCmd (d : Dev) (l : Nat) (x : Link) : (d.setLink l x).nextCmd = d.nextCmd := rfl
@[simp] theorem Dev.setLink_comps (d : Dev) (l : Nat) (x : Link) : (d.setLink l x).comps = d.comps := rfl
@[simp] theorem Dev.setLink_allocs (d : Dev) (l : Nat) (x : Link) : (d.setLink l x).allocs = d.allocs := rfl
@[simp] theorem Dev.setLink_allocIdx (d : Dev) (l : Nat) (x : Link) : (d.setLink l x).allocIdx = d.allocIdx := rfl
@[simp] theorem Dev.setLink_usedFrames (d : Dev) (l : Nat) (x : Link) : (d.setLink l x).usedFrames = d.usedFrames := rfl
@[simp] theorem Dev.setLink_descs (d : Dev) (l : Nat) (x : Link) : (d.setLink l x).descs = d.descs := rfl
@[simp] theorem Dev.setLink_descIdx (d : Dev) (l : Nat) (x : Link) : (d.setLink l x).descIdx = d.descIdx := rfl
@[simp] theorem Dev.setLink_mats (d : Dev) (l : Nat) (x : Link) : (d.setLink l x).mats = d.mats := rfl
@[simp] theorem Dev.setLink_matIdx (d : Dev) (l : Nat) (x : Link) : (d.setLink l x).matIdx = d.matIdx := rfl
@[simp] theorem Dev.setLink_matReserved (d : Dev) (l : Nat) (x : Link) : (d.setLink l x).matReserved = d.matReserved := rfl
@[simp] theorem Dev.setLink_loads (d : Dev) (l : Nat) (x : Link) : (d.setLink l x).loads = d.loads := rfl
@[simp] theorem Dev.setLink_swaps (d : Dev) (l : Nat) (x : Link) : (d.setLink l x).swaps = d.swaps := rfl
@[simp] theorem Dev.setLink_progs (d : Dev) (l : Nat) (x : Link) : (d.setLink l x).progs = d.progs := rfl
@[simp] theorem Dev.setLink_progIdx (d : Dev) (l : Nat) (x : Link) : (d.setLink l x).progIdx = d.progIdx := rfl
@[simp] theorem Dev.setLink_jobs (d : Dev) (l : Nat) (x : Link) : (d.setLink l x).jobs = d.jobs := rfl
@[simp] theorem Dev.setLink_nextJob (d : Dev) (l : Nat) (x : Link) : (d.setLink l x).nextJob = d.nextJob := rfl
@[simp] theorem Dev.setLink_tiles (d : Dev) (l : Nat) (x : Link) : (d.setLink l x).tiles = d.tiles := rfl
@[simp] theorem Dev.setLink_nextTile (d : Dev) (l : Nat) (x : Link) : (d.setLink l x).nextTile = d.nextTile := rfl
@[simp] theorem Dev.setLink_spad (d : Dev) (l : Nat) (x : Link) : (d.setLink l x).spad = d.spad := rfl
@[simp] theorem Dev.setLink_slots (d : Dev) (l : Nat) (x : Link) : (d.setLink l x).slots = d.slots := rfl
@[simp] theorem Dev.setLink_banks (d : Dev) (l : Nat) (x : Link) : (d.setLink l x).banks = d.banks := rfl
@[simp] theorem Dev.setLink_macros (d : Dev) (l : Nat) (x : Link) : (d.setLink l x).macros = d.macros := rfl
@[simp] theorem Dev.setLink_guard0 (d : Dev) (l : Nat) (x : Link) : (d.setLink l x).guard0 = d.guard0 := rfl
@[simp] theorem Dev.setLink_wedges (d : Dev) (l : Nat) (x : Link) : (d.setLink l x).wedges = d.wedges := rfl
@[simp] theorem Dev.setLink_quants (d : Dev) (l : Nat) (x : Link) : (d.setLink l x).quants = d.quants := rfl
@[simp] theorem Dev.setLink_outVecs (d : Dev) (l : Nat) (x : Link) : (d.setLink l x).outVecs = d.outVecs := rfl
@[simp] theorem Dev.setLink_spans (d : Dev) (l : Nat) (x : Link) : (d.setLink l x).spans = d.spans := rfl
@[simp] theorem Dev.setLink_pairs (d : Dev) (l : Nat) (x : Link) : (d.setLink l x).pairs = d.pairs := rfl
@[simp] theorem Dev.setLink_pred (d : Dev) (l : Nat) (x : Link) : (d.setLink l x).pred = d.pred := rfl
@[simp] theorem Dev.setLink_issues (d : Dev) (l : Nat) (x : Link) : (d.setLink l x).issues = d.issues := rfl
@[simp] theorem Dev.setLink_engines (d : Dev) (l : Nat) (x : Link) : (d.setLink l x).engines = d.engines := rfl
@[simp] theorem Dev.setLink_coal (d : Dev) (l : Nat) (x : Link) : (d.setLink l x).coal = d.coal := rfl
@[simp] theorem Dev.setLink_remote (d : Dev) (l : Nat) (x : Link) : (d.setLink l x).remote = d.remote := rfl
@[simp] theorem Dev.setLink_waits (d : Dev) (l : Nat) (x : Link) : (d.setLink l x).waits = d.waits := rfl
@[simp] theorem Dev.setLink_gone (d : Dev) (l : Nat) (x : Link) : (d.setLink l x).gone = d.gone := rfl
@[simp] theorem Dev.setLink_mem (d : Dev) (l : Nat) (x : Link) : (d.setLink l x).mem = d.mem := rfl
@[simp] theorem Dev.setLink_hops (d : Dev) (l : Nat) (x : Link) : (d.setLink l x).hops = d.hops := rfl
@[simp] theorem Dev.setLink_frames (d : Dev) (l : Nat) (x : Link) : (d.setLink l x).frames = d.frames := rfl
@[simp] theorem Dev.setLink_rooms (d : Dev) (l : Nat) (x : Link) : (d.setLink l x).rooms = d.rooms := rfl
@[simp] theorem Dev.setLink_asks (d : Dev) (l : Nat) (x : Link) : (d.setLink l x).asks = d.asks := rfl
@[simp] theorem Dev.setLink_bundles (d : Dev) (l : Nat) (x : Link) : (d.setLink l x).bundles = d.bundles := rfl
@[simp] theorem Dev.setLink_pow (d : Dev) (l : Nat) (x : Link) : (d.setLink l x).pow = d.pow := rfl
@[simp] theorem Dev.setLink_ces (d : Dev) (l : Nat) (x : Link) : (d.setLink l x).ces = d.ces := rfl
@[simp] theorem Dev.setLink_log (d : Dev) (l : Nat) (x : Link) : (d.setLink l x).log = d.log := rfl
@[simp] theorem Dev.setLink_vals (d : Dev) (l : Nat) (x : Link) : (d.setLink l x).vals = d.vals := rfl
@[simp] theorem Dev.setLink_ctr (d : Dev) (l : Nat) (x : Link) : (d.setLink l x).ctr = d.ctr := rfl
@[simp] theorem Dev.setLink_jour (d : Dev) (l : Nat) (x : Link) : (d.setLink l x).jour = d.jour := rfl
@[simp] theorem Dev.setLink_tam (d : Dev) (l : Nat) (x : Link) : (d.setLink l x).tam = d.tam := rfl
@[simp] theorem Dev.setLink_sec (d : Dev) (l : Nat) (x : Link) : (d.setLink l x).sec = d.sec := rfl

/-! ### setDom -/

@[simp] theorem Dev.setDom_free (d : Dev) (k : Nat) (x : Dom) : (d.setDom k x).free = d.free := rfl
@[simp] theorem Dev.setDom_out (d : Dev) (k : Nat) (x : Dom) : (d.setDom k x).out = d.out := rfl
@[simp] theorem Dev.setDom_marks (d : Dev) (k : Nat) (x : Dom) : (d.setDom k x).marks = d.marks := rfl
@[simp] theorem Dev.setDom_hubTimer (d : Dev) (k : Nat) (x : Dom) : (d.setDom k x).hubTimer = d.hubTimer := rfl
@[simp] theorem Dev.setDom_stbyTimer (d : Dev) (k : Nat) (x : Dom) : (d.setDom k x).stbyTimer = d.stbyTimer := rfl
@[simp] theorem Dev.setDom_seq (d : Dev) (k : Nat) (x : Dom) : (d.setDom k x).seq = d.seq := rfl
@[simp] theorem Dev.setDom_ports (d : Dev) (k : Nat) (x : Dom) : (d.setDom k x).ports = d.ports := rfl
@[simp] theorem Dev.setDom_cmds (d : Dev) (k : Nat) (x : Dom) : (d.setDom k x).cmds = d.cmds := rfl
@[simp] theorem Dev.setDom_nextCmd (d : Dev) (k : Nat) (x : Dom) : (d.setDom k x).nextCmd = d.nextCmd := rfl
@[simp] theorem Dev.setDom_comps (d : Dev) (k : Nat) (x : Dom) : (d.setDom k x).comps = d.comps := rfl
@[simp] theorem Dev.setDom_allocs (d : Dev) (k : Nat) (x : Dom) : (d.setDom k x).allocs = d.allocs := rfl
@[simp] theorem Dev.setDom_allocIdx (d : Dev) (k : Nat) (x : Dom) : (d.setDom k x).allocIdx = d.allocIdx := rfl
@[simp] theorem Dev.setDom_usedFrames (d : Dev) (k : Nat) (x : Dom) : (d.setDom k x).usedFrames = d.usedFrames := rfl
@[simp] theorem Dev.setDom_descs (d : Dev) (k : Nat) (x : Dom) : (d.setDom k x).descs = d.descs := rfl
@[simp] theorem Dev.setDom_descIdx (d : Dev) (k : Nat) (x : Dom) : (d.setDom k x).descIdx = d.descIdx := rfl
@[simp] theorem Dev.setDom_mats (d : Dev) (k : Nat) (x : Dom) : (d.setDom k x).mats = d.mats := rfl
@[simp] theorem Dev.setDom_matIdx (d : Dev) (k : Nat) (x : Dom) : (d.setDom k x).matIdx = d.matIdx := rfl
@[simp] theorem Dev.setDom_matReserved (d : Dev) (k : Nat) (x : Dom) : (d.setDom k x).matReserved = d.matReserved := rfl
@[simp] theorem Dev.setDom_loads (d : Dev) (k : Nat) (x : Dom) : (d.setDom k x).loads = d.loads := rfl
@[simp] theorem Dev.setDom_swaps (d : Dev) (k : Nat) (x : Dom) : (d.setDom k x).swaps = d.swaps := rfl
@[simp] theorem Dev.setDom_progs (d : Dev) (k : Nat) (x : Dom) : (d.setDom k x).progs = d.progs := rfl
@[simp] theorem Dev.setDom_progIdx (d : Dev) (k : Nat) (x : Dom) : (d.setDom k x).progIdx = d.progIdx := rfl
@[simp] theorem Dev.setDom_jobs (d : Dev) (k : Nat) (x : Dom) : (d.setDom k x).jobs = d.jobs := rfl
@[simp] theorem Dev.setDom_nextJob (d : Dev) (k : Nat) (x : Dom) : (d.setDom k x).nextJob = d.nextJob := rfl
@[simp] theorem Dev.setDom_tiles (d : Dev) (k : Nat) (x : Dom) : (d.setDom k x).tiles = d.tiles := rfl
@[simp] theorem Dev.setDom_nextTile (d : Dev) (k : Nat) (x : Dom) : (d.setDom k x).nextTile = d.nextTile := rfl
@[simp] theorem Dev.setDom_spad (d : Dev) (k : Nat) (x : Dom) : (d.setDom k x).spad = d.spad := rfl
@[simp] theorem Dev.setDom_slots (d : Dev) (k : Nat) (x : Dom) : (d.setDom k x).slots = d.slots := rfl
@[simp] theorem Dev.setDom_banks (d : Dev) (k : Nat) (x : Dom) : (d.setDom k x).banks = d.banks := rfl
@[simp] theorem Dev.setDom_macros (d : Dev) (k : Nat) (x : Dom) : (d.setDom k x).macros = d.macros := rfl
@[simp] theorem Dev.setDom_guard0 (d : Dev) (k : Nat) (x : Dom) : (d.setDom k x).guard0 = d.guard0 := rfl
@[simp] theorem Dev.setDom_wedges (d : Dev) (k : Nat) (x : Dom) : (d.setDom k x).wedges = d.wedges := rfl
@[simp] theorem Dev.setDom_quants (d : Dev) (k : Nat) (x : Dom) : (d.setDom k x).quants = d.quants := rfl
@[simp] theorem Dev.setDom_outVecs (d : Dev) (k : Nat) (x : Dom) : (d.setDom k x).outVecs = d.outVecs := rfl
@[simp] theorem Dev.setDom_spans (d : Dev) (k : Nat) (x : Dom) : (d.setDom k x).spans = d.spans := rfl
@[simp] theorem Dev.setDom_pairs (d : Dev) (k : Nat) (x : Dom) : (d.setDom k x).pairs = d.pairs := rfl
@[simp] theorem Dev.setDom_pred (d : Dev) (k : Nat) (x : Dom) : (d.setDom k x).pred = d.pred := rfl
@[simp] theorem Dev.setDom_issues (d : Dev) (k : Nat) (x : Dom) : (d.setDom k x).issues = d.issues := rfl
@[simp] theorem Dev.setDom_engines (d : Dev) (k : Nat) (x : Dom) : (d.setDom k x).engines = d.engines := rfl
@[simp] theorem Dev.setDom_coal (d : Dev) (k : Nat) (x : Dom) : (d.setDom k x).coal = d.coal := rfl
@[simp] theorem Dev.setDom_remote (d : Dev) (k : Nat) (x : Dom) : (d.setDom k x).remote = d.remote := rfl
@[simp] theorem Dev.setDom_waits (d : Dev) (k : Nat) (x : Dom) : (d.setDom k x).waits = d.waits := rfl
@[simp] theorem Dev.setDom_gone (d : Dev) (k : Nat) (x : Dom) : (d.setDom k x).gone = d.gone := rfl
@[simp] theorem Dev.setDom_mem (d : Dev) (k : Nat) (x : Dom) : (d.setDom k x).mem = d.mem := rfl
@[simp] theorem Dev.setDom_hops (d : Dev) (k : Nat) (x : Dom) : (d.setDom k x).hops = d.hops := rfl
@[simp] theorem Dev.setDom_frames (d : Dev) (k : Nat) (x : Dom) : (d.setDom k x).frames = d.frames := rfl
@[simp] theorem Dev.setDom_rooms (d : Dev) (k : Nat) (x : Dom) : (d.setDom k x).rooms = d.rooms := rfl
@[simp] theorem Dev.setDom_asks (d : Dev) (k : Nat) (x : Dom) : (d.setDom k x).asks = d.asks := rfl
@[simp] theorem Dev.setDom_links (d : Dev) (k : Nat) (x : Dom) : (d.setDom k x).links = d.links := rfl
@[simp] theorem Dev.setDom_bundles (d : Dev) (k : Nat) (x : Dom) : (d.setDom k x).bundles = d.bundles := rfl
@[simp] theorem Dev.setDom_ces (d : Dev) (k : Nat) (x : Dom) : (d.setDom k x).ces = d.ces := rfl
@[simp] theorem Dev.setDom_log (d : Dev) (k : Nat) (x : Dom) : (d.setDom k x).log = d.log := rfl
@[simp] theorem Dev.setDom_vals (d : Dev) (k : Nat) (x : Dom) : (d.setDom k x).vals = d.vals := rfl
@[simp] theorem Dev.setDom_ctr (d : Dev) (k : Nat) (x : Dom) : (d.setDom k x).ctr = d.ctr := rfl
@[simp] theorem Dev.setDom_jour (d : Dev) (k : Nat) (x : Dom) : (d.setDom k x).jour = d.jour := rfl
@[simp] theorem Dev.setDom_tam (d : Dev) (k : Nat) (x : Dom) : (d.setDom k x).tam = d.tam := rfl
@[simp] theorem Dev.setDom_sec (d : Dev) (k : Nat) (x : Dom) : (d.setDom k x).sec = d.sec := rfl

/-! ### setRegion -/

@[simp] theorem Dev.setRegion_free (d : Dev) (h : Nat) (x : Region) : (d.setRegion h x).free = d.free := rfl
@[simp] theorem Dev.setRegion_out (d : Dev) (h : Nat) (x : Region) : (d.setRegion h x).out = d.out := rfl
@[simp] theorem Dev.setRegion_marks (d : Dev) (h : Nat) (x : Region) : (d.setRegion h x).marks = d.marks := rfl
@[simp] theorem Dev.setRegion_hubTimer (d : Dev) (h : Nat) (x : Region) : (d.setRegion h x).hubTimer = d.hubTimer := rfl
@[simp] theorem Dev.setRegion_stbyTimer (d : Dev) (h : Nat) (x : Region) : (d.setRegion h x).stbyTimer = d.stbyTimer := rfl
@[simp] theorem Dev.setRegion_seq (d : Dev) (h : Nat) (x : Region) : (d.setRegion h x).seq = d.seq := rfl
@[simp] theorem Dev.setRegion_ports (d : Dev) (h : Nat) (x : Region) : (d.setRegion h x).ports = d.ports := rfl
@[simp] theorem Dev.setRegion_cmds (d : Dev) (h : Nat) (x : Region) : (d.setRegion h x).cmds = d.cmds := rfl
@[simp] theorem Dev.setRegion_nextCmd (d : Dev) (h : Nat) (x : Region) : (d.setRegion h x).nextCmd = d.nextCmd := rfl
@[simp] theorem Dev.setRegion_comps (d : Dev) (h : Nat) (x : Region) : (d.setRegion h x).comps = d.comps := rfl
@[simp] theorem Dev.setRegion_allocs (d : Dev) (h : Nat) (x : Region) : (d.setRegion h x).allocs = d.allocs := rfl
@[simp] theorem Dev.setRegion_allocIdx (d : Dev) (h : Nat) (x : Region) : (d.setRegion h x).allocIdx = d.allocIdx := rfl
@[simp] theorem Dev.setRegion_usedFrames (d : Dev) (h : Nat) (x : Region) : (d.setRegion h x).usedFrames = d.usedFrames := rfl
@[simp] theorem Dev.setRegion_descs (d : Dev) (h : Nat) (x : Region) : (d.setRegion h x).descs = d.descs := rfl
@[simp] theorem Dev.setRegion_descIdx (d : Dev) (h : Nat) (x : Region) : (d.setRegion h x).descIdx = d.descIdx := rfl
@[simp] theorem Dev.setRegion_mats (d : Dev) (h : Nat) (x : Region) : (d.setRegion h x).mats = d.mats := rfl
@[simp] theorem Dev.setRegion_matIdx (d : Dev) (h : Nat) (x : Region) : (d.setRegion h x).matIdx = d.matIdx := rfl
@[simp] theorem Dev.setRegion_matReserved (d : Dev) (h : Nat) (x : Region) : (d.setRegion h x).matReserved = d.matReserved := rfl
@[simp] theorem Dev.setRegion_loads (d : Dev) (h : Nat) (x : Region) : (d.setRegion h x).loads = d.loads := rfl
@[simp] theorem Dev.setRegion_swaps (d : Dev) (h : Nat) (x : Region) : (d.setRegion h x).swaps = d.swaps := rfl
@[simp] theorem Dev.setRegion_progs (d : Dev) (h : Nat) (x : Region) : (d.setRegion h x).progs = d.progs := rfl
@[simp] theorem Dev.setRegion_progIdx (d : Dev) (h : Nat) (x : Region) : (d.setRegion h x).progIdx = d.progIdx := rfl
@[simp] theorem Dev.setRegion_jobs (d : Dev) (h : Nat) (x : Region) : (d.setRegion h x).jobs = d.jobs := rfl
@[simp] theorem Dev.setRegion_nextJob (d : Dev) (h : Nat) (x : Region) : (d.setRegion h x).nextJob = d.nextJob := rfl
@[simp] theorem Dev.setRegion_tiles (d : Dev) (h : Nat) (x : Region) : (d.setRegion h x).tiles = d.tiles := rfl
@[simp] theorem Dev.setRegion_nextTile (d : Dev) (h : Nat) (x : Region) : (d.setRegion h x).nextTile = d.nextTile := rfl
@[simp] theorem Dev.setRegion_spad (d : Dev) (h : Nat) (x : Region) : (d.setRegion h x).spad = d.spad := rfl
@[simp] theorem Dev.setRegion_slots (d : Dev) (h : Nat) (x : Region) : (d.setRegion h x).slots = d.slots := rfl
@[simp] theorem Dev.setRegion_banks (d : Dev) (h : Nat) (x : Region) : (d.setRegion h x).banks = d.banks := rfl
@[simp] theorem Dev.setRegion_macros (d : Dev) (h : Nat) (x : Region) : (d.setRegion h x).macros = d.macros := rfl
@[simp] theorem Dev.setRegion_guard0 (d : Dev) (h : Nat) (x : Region) : (d.setRegion h x).guard0 = d.guard0 := rfl
@[simp] theorem Dev.setRegion_wedges (d : Dev) (h : Nat) (x : Region) : (d.setRegion h x).wedges = d.wedges := rfl
@[simp] theorem Dev.setRegion_quants (d : Dev) (h : Nat) (x : Region) : (d.setRegion h x).quants = d.quants := rfl
@[simp] theorem Dev.setRegion_outVecs (d : Dev) (h : Nat) (x : Region) : (d.setRegion h x).outVecs = d.outVecs := rfl
@[simp] theorem Dev.setRegion_spans (d : Dev) (h : Nat) (x : Region) : (d.setRegion h x).spans = d.spans := rfl
@[simp] theorem Dev.setRegion_pairs (d : Dev) (h : Nat) (x : Region) : (d.setRegion h x).pairs = d.pairs := rfl
@[simp] theorem Dev.setRegion_pred (d : Dev) (h : Nat) (x : Region) : (d.setRegion h x).pred = d.pred := rfl
@[simp] theorem Dev.setRegion_issues (d : Dev) (h : Nat) (x : Region) : (d.setRegion h x).issues = d.issues := rfl
@[simp] theorem Dev.setRegion_engines (d : Dev) (h : Nat) (x : Region) : (d.setRegion h x).engines = d.engines := rfl
@[simp] theorem Dev.setRegion_coal (d : Dev) (h : Nat) (x : Region) : (d.setRegion h x).coal = d.coal := rfl
@[simp] theorem Dev.setRegion_remote (d : Dev) (h : Nat) (x : Region) : (d.setRegion h x).remote = d.remote := rfl
@[simp] theorem Dev.setRegion_waits (d : Dev) (h : Nat) (x : Region) : (d.setRegion h x).waits = d.waits := rfl
@[simp] theorem Dev.setRegion_gone (d : Dev) (h : Nat) (x : Region) : (d.setRegion h x).gone = d.gone := rfl
@[simp] theorem Dev.setRegion_mem (d : Dev) (h : Nat) (x : Region) : (d.setRegion h x).mem = d.mem := rfl
@[simp] theorem Dev.setRegion_hops (d : Dev) (h : Nat) (x : Region) : (d.setRegion h x).hops = d.hops := rfl
@[simp] theorem Dev.setRegion_frames (d : Dev) (h : Nat) (x : Region) : (d.setRegion h x).frames = d.frames := rfl
@[simp] theorem Dev.setRegion_rooms (d : Dev) (h : Nat) (x : Region) : (d.setRegion h x).rooms = d.rooms := rfl
@[simp] theorem Dev.setRegion_asks (d : Dev) (h : Nat) (x : Region) : (d.setRegion h x).asks = d.asks := rfl
@[simp] theorem Dev.setRegion_links (d : Dev) (h : Nat) (x : Region) : (d.setRegion h x).links = d.links := rfl
@[simp] theorem Dev.setRegion_bundles (d : Dev) (h : Nat) (x : Region) : (d.setRegion h x).bundles = d.bundles := rfl
@[simp] theorem Dev.setRegion_ces (d : Dev) (h : Nat) (x : Region) : (d.setRegion h x).ces = d.ces := rfl
@[simp] theorem Dev.setRegion_log (d : Dev) (h : Nat) (x : Region) : (d.setRegion h x).log = d.log := rfl
@[simp] theorem Dev.setRegion_vals (d : Dev) (h : Nat) (x : Region) : (d.setRegion h x).vals = d.vals := rfl
@[simp] theorem Dev.setRegion_ctr (d : Dev) (h : Nat) (x : Region) : (d.setRegion h x).ctr = d.ctr := rfl
@[simp] theorem Dev.setRegion_jour (d : Dev) (h : Nat) (x : Region) : (d.setRegion h x).jour = d.jour := rfl
@[simp] theorem Dev.setRegion_tam (d : Dev) (h : Nat) (x : Region) : (d.setRegion h x).tam = d.tam := rfl
@[simp] theorem Dev.setRegion_sec (d : Dev) (h : Nat) (x : Region) : (d.setRegion h x).sec = d.sec := rfl

/-! ### setCe -/

@[simp] theorem Dev.setCe_free (d : Dev) (n : Nat) (x : CheckEngine) : (d.setCe n x).free = d.free := rfl
@[simp] theorem Dev.setCe_out (d : Dev) (n : Nat) (x : CheckEngine) : (d.setCe n x).out = d.out := rfl
@[simp] theorem Dev.setCe_marks (d : Dev) (n : Nat) (x : CheckEngine) : (d.setCe n x).marks = d.marks := rfl
@[simp] theorem Dev.setCe_hubTimer (d : Dev) (n : Nat) (x : CheckEngine) : (d.setCe n x).hubTimer = d.hubTimer := rfl
@[simp] theorem Dev.setCe_stbyTimer (d : Dev) (n : Nat) (x : CheckEngine) : (d.setCe n x).stbyTimer = d.stbyTimer := rfl
@[simp] theorem Dev.setCe_seq (d : Dev) (n : Nat) (x : CheckEngine) : (d.setCe n x).seq = d.seq := rfl
@[simp] theorem Dev.setCe_ports (d : Dev) (n : Nat) (x : CheckEngine) : (d.setCe n x).ports = d.ports := rfl
@[simp] theorem Dev.setCe_cmds (d : Dev) (n : Nat) (x : CheckEngine) : (d.setCe n x).cmds = d.cmds := rfl
@[simp] theorem Dev.setCe_nextCmd (d : Dev) (n : Nat) (x : CheckEngine) : (d.setCe n x).nextCmd = d.nextCmd := rfl
@[simp] theorem Dev.setCe_comps (d : Dev) (n : Nat) (x : CheckEngine) : (d.setCe n x).comps = d.comps := rfl
@[simp] theorem Dev.setCe_allocs (d : Dev) (n : Nat) (x : CheckEngine) : (d.setCe n x).allocs = d.allocs := rfl
@[simp] theorem Dev.setCe_allocIdx (d : Dev) (n : Nat) (x : CheckEngine) : (d.setCe n x).allocIdx = d.allocIdx := rfl
@[simp] theorem Dev.setCe_usedFrames (d : Dev) (n : Nat) (x : CheckEngine) : (d.setCe n x).usedFrames = d.usedFrames := rfl
@[simp] theorem Dev.setCe_descs (d : Dev) (n : Nat) (x : CheckEngine) : (d.setCe n x).descs = d.descs := rfl
@[simp] theorem Dev.setCe_descIdx (d : Dev) (n : Nat) (x : CheckEngine) : (d.setCe n x).descIdx = d.descIdx := rfl
@[simp] theorem Dev.setCe_mats (d : Dev) (n : Nat) (x : CheckEngine) : (d.setCe n x).mats = d.mats := rfl
@[simp] theorem Dev.setCe_matIdx (d : Dev) (n : Nat) (x : CheckEngine) : (d.setCe n x).matIdx = d.matIdx := rfl
@[simp] theorem Dev.setCe_matReserved (d : Dev) (n : Nat) (x : CheckEngine) : (d.setCe n x).matReserved = d.matReserved := rfl
@[simp] theorem Dev.setCe_loads (d : Dev) (n : Nat) (x : CheckEngine) : (d.setCe n x).loads = d.loads := rfl
@[simp] theorem Dev.setCe_swaps (d : Dev) (n : Nat) (x : CheckEngine) : (d.setCe n x).swaps = d.swaps := rfl
@[simp] theorem Dev.setCe_progs (d : Dev) (n : Nat) (x : CheckEngine) : (d.setCe n x).progs = d.progs := rfl
@[simp] theorem Dev.setCe_progIdx (d : Dev) (n : Nat) (x : CheckEngine) : (d.setCe n x).progIdx = d.progIdx := rfl
@[simp] theorem Dev.setCe_jobs (d : Dev) (n : Nat) (x : CheckEngine) : (d.setCe n x).jobs = d.jobs := rfl
@[simp] theorem Dev.setCe_nextJob (d : Dev) (n : Nat) (x : CheckEngine) : (d.setCe n x).nextJob = d.nextJob := rfl
@[simp] theorem Dev.setCe_tiles (d : Dev) (n : Nat) (x : CheckEngine) : (d.setCe n x).tiles = d.tiles := rfl
@[simp] theorem Dev.setCe_nextTile (d : Dev) (n : Nat) (x : CheckEngine) : (d.setCe n x).nextTile = d.nextTile := rfl
@[simp] theorem Dev.setCe_spad (d : Dev) (n : Nat) (x : CheckEngine) : (d.setCe n x).spad = d.spad := rfl
@[simp] theorem Dev.setCe_slots (d : Dev) (n : Nat) (x : CheckEngine) : (d.setCe n x).slots = d.slots := rfl
@[simp] theorem Dev.setCe_banks (d : Dev) (n : Nat) (x : CheckEngine) : (d.setCe n x).banks = d.banks := rfl
@[simp] theorem Dev.setCe_macros (d : Dev) (n : Nat) (x : CheckEngine) : (d.setCe n x).macros = d.macros := rfl
@[simp] theorem Dev.setCe_guard0 (d : Dev) (n : Nat) (x : CheckEngine) : (d.setCe n x).guard0 = d.guard0 := rfl
@[simp] theorem Dev.setCe_wedges (d : Dev) (n : Nat) (x : CheckEngine) : (d.setCe n x).wedges = d.wedges := rfl
@[simp] theorem Dev.setCe_quants (d : Dev) (n : Nat) (x : CheckEngine) : (d.setCe n x).quants = d.quants := rfl
@[simp] theorem Dev.setCe_outVecs (d : Dev) (n : Nat) (x : CheckEngine) : (d.setCe n x).outVecs = d.outVecs := rfl
@[simp] theorem Dev.setCe_spans (d : Dev) (n : Nat) (x : CheckEngine) : (d.setCe n x).spans = d.spans := rfl
@[simp] theorem Dev.setCe_pairs (d : Dev) (n : Nat) (x : CheckEngine) : (d.setCe n x).pairs = d.pairs := rfl
@[simp] theorem Dev.setCe_pred (d : Dev) (n : Nat) (x : CheckEngine) : (d.setCe n x).pred = d.pred := rfl
@[simp] theorem Dev.setCe_issues (d : Dev) (n : Nat) (x : CheckEngine) : (d.setCe n x).issues = d.issues := rfl
@[simp] theorem Dev.setCe_engines (d : Dev) (n : Nat) (x : CheckEngine) : (d.setCe n x).engines = d.engines := rfl
@[simp] theorem Dev.setCe_coal (d : Dev) (n : Nat) (x : CheckEngine) : (d.setCe n x).coal = d.coal := rfl
@[simp] theorem Dev.setCe_remote (d : Dev) (n : Nat) (x : CheckEngine) : (d.setCe n x).remote = d.remote := rfl
@[simp] theorem Dev.setCe_waits (d : Dev) (n : Nat) (x : CheckEngine) : (d.setCe n x).waits = d.waits := rfl
@[simp] theorem Dev.setCe_gone (d : Dev) (n : Nat) (x : CheckEngine) : (d.setCe n x).gone = d.gone := rfl
@[simp] theorem Dev.setCe_mem (d : Dev) (n : Nat) (x : CheckEngine) : (d.setCe n x).mem = d.mem := rfl
@[simp] theorem Dev.setCe_hops (d : Dev) (n : Nat) (x : CheckEngine) : (d.setCe n x).hops = d.hops := rfl
@[simp] theorem Dev.setCe_frames (d : Dev) (n : Nat) (x : CheckEngine) : (d.setCe n x).frames = d.frames := rfl
@[simp] theorem Dev.setCe_rooms (d : Dev) (n : Nat) (x : CheckEngine) : (d.setCe n x).rooms = d.rooms := rfl
@[simp] theorem Dev.setCe_asks (d : Dev) (n : Nat) (x : CheckEngine) : (d.setCe n x).asks = d.asks := rfl
@[simp] theorem Dev.setCe_links (d : Dev) (n : Nat) (x : CheckEngine) : (d.setCe n x).links = d.links := rfl
@[simp] theorem Dev.setCe_bundles (d : Dev) (n : Nat) (x : CheckEngine) : (d.setCe n x).bundles = d.bundles := rfl
@[simp] theorem Dev.setCe_pow (d : Dev) (n : Nat) (x : CheckEngine) : (d.setCe n x).pow = d.pow := rfl
@[simp] theorem Dev.setCe_log (d : Dev) (n : Nat) (x : CheckEngine) : (d.setCe n x).log = d.log := rfl
@[simp] theorem Dev.setCe_vals (d : Dev) (n : Nat) (x : CheckEngine) : (d.setCe n x).vals = d.vals := rfl
@[simp] theorem Dev.setCe_ctr (d : Dev) (n : Nat) (x : CheckEngine) : (d.setCe n x).ctr = d.ctr := rfl
@[simp] theorem Dev.setCe_jour (d : Dev) (n : Nat) (x : CheckEngine) : (d.setCe n x).jour = d.jour := rfl
@[simp] theorem Dev.setCe_tam (d : Dev) (n : Nat) (x : CheckEngine) : (d.setCe n x).tam = d.tam := rfl
@[simp] theorem Dev.setCe_sec (d : Dev) (n : Nat) (x : CheckEngine) : (d.setCe n x).sec = d.sec := rfl

/-! ### setSbank -/

@[simp] theorem Dev.setSbank_free (d : Dev) (n : Nat) (x : SpadBank) : (d.setSbank n x).free = d.free := rfl
@[simp] theorem Dev.setSbank_out (d : Dev) (n : Nat) (x : SpadBank) : (d.setSbank n x).out = d.out := rfl
@[simp] theorem Dev.setSbank_marks (d : Dev) (n : Nat) (x : SpadBank) : (d.setSbank n x).marks = d.marks := rfl
@[simp] theorem Dev.setSbank_hubTimer (d : Dev) (n : Nat) (x : SpadBank) : (d.setSbank n x).hubTimer = d.hubTimer := rfl
@[simp] theorem Dev.setSbank_stbyTimer (d : Dev) (n : Nat) (x : SpadBank) : (d.setSbank n x).stbyTimer = d.stbyTimer := rfl
@[simp] theorem Dev.setSbank_seq (d : Dev) (n : Nat) (x : SpadBank) : (d.setSbank n x).seq = d.seq := rfl
@[simp] theorem Dev.setSbank_ports (d : Dev) (n : Nat) (x : SpadBank) : (d.setSbank n x).ports = d.ports := rfl
@[simp] theorem Dev.setSbank_cmds (d : Dev) (n : Nat) (x : SpadBank) : (d.setSbank n x).cmds = d.cmds := rfl
@[simp] theorem Dev.setSbank_nextCmd (d : Dev) (n : Nat) (x : SpadBank) : (d.setSbank n x).nextCmd = d.nextCmd := rfl
@[simp] theorem Dev.setSbank_comps (d : Dev) (n : Nat) (x : SpadBank) : (d.setSbank n x).comps = d.comps := rfl
@[simp] theorem Dev.setSbank_allocs (d : Dev) (n : Nat) (x : SpadBank) : (d.setSbank n x).allocs = d.allocs := rfl
@[simp] theorem Dev.setSbank_allocIdx (d : Dev) (n : Nat) (x : SpadBank) : (d.setSbank n x).allocIdx = d.allocIdx := rfl
@[simp] theorem Dev.setSbank_usedFrames (d : Dev) (n : Nat) (x : SpadBank) : (d.setSbank n x).usedFrames = d.usedFrames := rfl
@[simp] theorem Dev.setSbank_descs (d : Dev) (n : Nat) (x : SpadBank) : (d.setSbank n x).descs = d.descs := rfl
@[simp] theorem Dev.setSbank_descIdx (d : Dev) (n : Nat) (x : SpadBank) : (d.setSbank n x).descIdx = d.descIdx := rfl
@[simp] theorem Dev.setSbank_mats (d : Dev) (n : Nat) (x : SpadBank) : (d.setSbank n x).mats = d.mats := rfl
@[simp] theorem Dev.setSbank_matIdx (d : Dev) (n : Nat) (x : SpadBank) : (d.setSbank n x).matIdx = d.matIdx := rfl
@[simp] theorem Dev.setSbank_matReserved (d : Dev) (n : Nat) (x : SpadBank) : (d.setSbank n x).matReserved = d.matReserved := rfl
@[simp] theorem Dev.setSbank_loads (d : Dev) (n : Nat) (x : SpadBank) : (d.setSbank n x).loads = d.loads := rfl
@[simp] theorem Dev.setSbank_swaps (d : Dev) (n : Nat) (x : SpadBank) : (d.setSbank n x).swaps = d.swaps := rfl
@[simp] theorem Dev.setSbank_progs (d : Dev) (n : Nat) (x : SpadBank) : (d.setSbank n x).progs = d.progs := rfl
@[simp] theorem Dev.setSbank_progIdx (d : Dev) (n : Nat) (x : SpadBank) : (d.setSbank n x).progIdx = d.progIdx := rfl
@[simp] theorem Dev.setSbank_jobs (d : Dev) (n : Nat) (x : SpadBank) : (d.setSbank n x).jobs = d.jobs := rfl
@[simp] theorem Dev.setSbank_nextJob (d : Dev) (n : Nat) (x : SpadBank) : (d.setSbank n x).nextJob = d.nextJob := rfl
@[simp] theorem Dev.setSbank_tiles (d : Dev) (n : Nat) (x : SpadBank) : (d.setSbank n x).tiles = d.tiles := rfl
@[simp] theorem Dev.setSbank_nextTile (d : Dev) (n : Nat) (x : SpadBank) : (d.setSbank n x).nextTile = d.nextTile := rfl
@[simp] theorem Dev.setSbank_spad (d : Dev) (n : Nat) (x : SpadBank) : (d.setSbank n x).spad = d.spad := rfl
@[simp] theorem Dev.setSbank_slots (d : Dev) (n : Nat) (x : SpadBank) : (d.setSbank n x).slots = d.slots := rfl
@[simp] theorem Dev.setSbank_macros (d : Dev) (n : Nat) (x : SpadBank) : (d.setSbank n x).macros = d.macros := rfl
@[simp] theorem Dev.setSbank_guard0 (d : Dev) (n : Nat) (x : SpadBank) : (d.setSbank n x).guard0 = d.guard0 := rfl
@[simp] theorem Dev.setSbank_wedges (d : Dev) (n : Nat) (x : SpadBank) : (d.setSbank n x).wedges = d.wedges := rfl
@[simp] theorem Dev.setSbank_quants (d : Dev) (n : Nat) (x : SpadBank) : (d.setSbank n x).quants = d.quants := rfl
@[simp] theorem Dev.setSbank_outVecs (d : Dev) (n : Nat) (x : SpadBank) : (d.setSbank n x).outVecs = d.outVecs := rfl
@[simp] theorem Dev.setSbank_spans (d : Dev) (n : Nat) (x : SpadBank) : (d.setSbank n x).spans = d.spans := rfl
@[simp] theorem Dev.setSbank_pairs (d : Dev) (n : Nat) (x : SpadBank) : (d.setSbank n x).pairs = d.pairs := rfl
@[simp] theorem Dev.setSbank_pred (d : Dev) (n : Nat) (x : SpadBank) : (d.setSbank n x).pred = d.pred := rfl
@[simp] theorem Dev.setSbank_issues (d : Dev) (n : Nat) (x : SpadBank) : (d.setSbank n x).issues = d.issues := rfl
@[simp] theorem Dev.setSbank_engines (d : Dev) (n : Nat) (x : SpadBank) : (d.setSbank n x).engines = d.engines := rfl
@[simp] theorem Dev.setSbank_coal (d : Dev) (n : Nat) (x : SpadBank) : (d.setSbank n x).coal = d.coal := rfl
@[simp] theorem Dev.setSbank_remote (d : Dev) (n : Nat) (x : SpadBank) : (d.setSbank n x).remote = d.remote := rfl
@[simp] theorem Dev.setSbank_waits (d : Dev) (n : Nat) (x : SpadBank) : (d.setSbank n x).waits = d.waits := rfl
@[simp] theorem Dev.setSbank_gone (d : Dev) (n : Nat) (x : SpadBank) : (d.setSbank n x).gone = d.gone := rfl
@[simp] theorem Dev.setSbank_mem (d : Dev) (n : Nat) (x : SpadBank) : (d.setSbank n x).mem = d.mem := rfl
@[simp] theorem Dev.setSbank_hops (d : Dev) (n : Nat) (x : SpadBank) : (d.setSbank n x).hops = d.hops := rfl
@[simp] theorem Dev.setSbank_frames (d : Dev) (n : Nat) (x : SpadBank) : (d.setSbank n x).frames = d.frames := rfl
@[simp] theorem Dev.setSbank_rooms (d : Dev) (n : Nat) (x : SpadBank) : (d.setSbank n x).rooms = d.rooms := rfl
@[simp] theorem Dev.setSbank_asks (d : Dev) (n : Nat) (x : SpadBank) : (d.setSbank n x).asks = d.asks := rfl
@[simp] theorem Dev.setSbank_links (d : Dev) (n : Nat) (x : SpadBank) : (d.setSbank n x).links = d.links := rfl
@[simp] theorem Dev.setSbank_bundles (d : Dev) (n : Nat) (x : SpadBank) : (d.setSbank n x).bundles = d.bundles := rfl
@[simp] theorem Dev.setSbank_pow (d : Dev) (n : Nat) (x : SpadBank) : (d.setSbank n x).pow = d.pow := rfl
@[simp] theorem Dev.setSbank_ces (d : Dev) (n : Nat) (x : SpadBank) : (d.setSbank n x).ces = d.ces := rfl
@[simp] theorem Dev.setSbank_log (d : Dev) (n : Nat) (x : SpadBank) : (d.setSbank n x).log = d.log := rfl
@[simp] theorem Dev.setSbank_vals (d : Dev) (n : Nat) (x : SpadBank) : (d.setSbank n x).vals = d.vals := rfl
@[simp] theorem Dev.setSbank_ctr (d : Dev) (n : Nat) (x : SpadBank) : (d.setSbank n x).ctr = d.ctr := rfl
@[simp] theorem Dev.setSbank_jour (d : Dev) (n : Nat) (x : SpadBank) : (d.setSbank n x).jour = d.jour := rfl
@[simp] theorem Dev.setSbank_tam (d : Dev) (n : Nat) (x : SpadBank) : (d.setSbank n x).tam = d.tam := rfl
@[simp] theorem Dev.setSbank_sec (d : Dev) (n : Nat) (x : SpadBank) : (d.setSbank n x).sec = d.sec := rfl

/-! ### count -/

@[simp] theorem Dev.count_free (d : Dev) (i j n : Nat) : (d.count i j n).free = d.free := rfl
@[simp] theorem Dev.count_out (d : Dev) (i j n : Nat) : (d.count i j n).out = d.out := rfl
@[simp] theorem Dev.count_marks (d : Dev) (i j n : Nat) : (d.count i j n).marks = d.marks := rfl
@[simp] theorem Dev.count_hubTimer (d : Dev) (i j n : Nat) : (d.count i j n).hubTimer = d.hubTimer := rfl
@[simp] theorem Dev.count_stbyTimer (d : Dev) (i j n : Nat) : (d.count i j n).stbyTimer = d.stbyTimer := rfl
@[simp] theorem Dev.count_seq (d : Dev) (i j n : Nat) : (d.count i j n).seq = d.seq := rfl
@[simp] theorem Dev.count_ports (d : Dev) (i j n : Nat) : (d.count i j n).ports = d.ports := rfl
@[simp] theorem Dev.count_cmds (d : Dev) (i j n : Nat) : (d.count i j n).cmds = d.cmds := rfl
@[simp] theorem Dev.count_nextCmd (d : Dev) (i j n : Nat) : (d.count i j n).nextCmd = d.nextCmd := rfl
@[simp] theorem Dev.count_comps (d : Dev) (i j n : Nat) : (d.count i j n).comps = d.comps := rfl
@[simp] theorem Dev.count_allocs (d : Dev) (i j n : Nat) : (d.count i j n).allocs = d.allocs := rfl
@[simp] theorem Dev.count_allocIdx (d : Dev) (i j n : Nat) : (d.count i j n).allocIdx = d.allocIdx := rfl
@[simp] theorem Dev.count_usedFrames (d : Dev) (i j n : Nat) : (d.count i j n).usedFrames = d.usedFrames := rfl
@[simp] theorem Dev.count_descs (d : Dev) (i j n : Nat) : (d.count i j n).descs = d.descs := rfl
@[simp] theorem Dev.count_descIdx (d : Dev) (i j n : Nat) : (d.count i j n).descIdx = d.descIdx := rfl
@[simp] theorem Dev.count_mats (d : Dev) (i j n : Nat) : (d.count i j n).mats = d.mats := rfl
@[simp] theorem Dev.count_matIdx (d : Dev) (i j n : Nat) : (d.count i j n).matIdx = d.matIdx := rfl
@[simp] theorem Dev.count_matReserved (d : Dev) (i j n : Nat) : (d.count i j n).matReserved = d.matReserved := rfl
@[simp] theorem Dev.count_loads (d : Dev) (i j n : Nat) : (d.count i j n).loads = d.loads := rfl
@[simp] theorem Dev.count_swaps (d : Dev) (i j n : Nat) : (d.count i j n).swaps = d.swaps := rfl
@[simp] theorem Dev.count_progs (d : Dev) (i j n : Nat) : (d.count i j n).progs = d.progs := rfl
@[simp] theorem Dev.count_progIdx (d : Dev) (i j n : Nat) : (d.count i j n).progIdx = d.progIdx := rfl
@[simp] theorem Dev.count_jobs (d : Dev) (i j n : Nat) : (d.count i j n).jobs = d.jobs := rfl
@[simp] theorem Dev.count_nextJob (d : Dev) (i j n : Nat) : (d.count i j n).nextJob = d.nextJob := rfl
@[simp] theorem Dev.count_tiles (d : Dev) (i j n : Nat) : (d.count i j n).tiles = d.tiles := rfl
@[simp] theorem Dev.count_nextTile (d : Dev) (i j n : Nat) : (d.count i j n).nextTile = d.nextTile := rfl
@[simp] theorem Dev.count_spad (d : Dev) (i j n : Nat) : (d.count i j n).spad = d.spad := rfl
@[simp] theorem Dev.count_slots (d : Dev) (i j n : Nat) : (d.count i j n).slots = d.slots := rfl
@[simp] theorem Dev.count_banks (d : Dev) (i j n : Nat) : (d.count i j n).banks = d.banks := rfl
@[simp] theorem Dev.count_macros (d : Dev) (i j n : Nat) : (d.count i j n).macros = d.macros := rfl
@[simp] theorem Dev.count_guard0 (d : Dev) (i j n : Nat) : (d.count i j n).guard0 = d.guard0 := rfl
@[simp] theorem Dev.count_wedges (d : Dev) (i j n : Nat) : (d.count i j n).wedges = d.wedges := rfl
@[simp] theorem Dev.count_quants (d : Dev) (i j n : Nat) : (d.count i j n).quants = d.quants := rfl
@[simp] theorem Dev.count_outVecs (d : Dev) (i j n : Nat) : (d.count i j n).outVecs = d.outVecs := rfl
@[simp] theorem Dev.count_spans (d : Dev) (i j n : Nat) : (d.count i j n).spans = d.spans := rfl
@[simp] theorem Dev.count_pairs (d : Dev) (i j n : Nat) : (d.count i j n).pairs = d.pairs := rfl
@[simp] theorem Dev.count_pred (d : Dev) (i j n : Nat) : (d.count i j n).pred = d.pred := rfl
@[simp] theorem Dev.count_issues (d : Dev) (i j n : Nat) : (d.count i j n).issues = d.issues := rfl
@[simp] theorem Dev.count_engines (d : Dev) (i j n : Nat) : (d.count i j n).engines = d.engines := rfl
@[simp] theorem Dev.count_coal (d : Dev) (i j n : Nat) : (d.count i j n).coal = d.coal := rfl
@[simp] theorem Dev.count_remote (d : Dev) (i j n : Nat) : (d.count i j n).remote = d.remote := rfl
@[simp] theorem Dev.count_waits (d : Dev) (i j n : Nat) : (d.count i j n).waits = d.waits := rfl
@[simp] theorem Dev.count_gone (d : Dev) (i j n : Nat) : (d.count i j n).gone = d.gone := rfl
@[simp] theorem Dev.count_mem (d : Dev) (i j n : Nat) : (d.count i j n).mem = d.mem := rfl
@[simp] theorem Dev.count_hops (d : Dev) (i j n : Nat) : (d.count i j n).hops = d.hops := rfl
@[simp] theorem Dev.count_frames (d : Dev) (i j n : Nat) : (d.count i j n).frames = d.frames := rfl
@[simp] theorem Dev.count_rooms (d : Dev) (i j n : Nat) : (d.count i j n).rooms = d.rooms := rfl
@[simp] theorem Dev.count_asks (d : Dev) (i j n : Nat) : (d.count i j n).asks = d.asks := rfl
@[simp] theorem Dev.count_links (d : Dev) (i j n : Nat) : (d.count i j n).links = d.links := rfl
@[simp] theorem Dev.count_bundles (d : Dev) (i j n : Nat) : (d.count i j n).bundles = d.bundles := rfl
@[simp] theorem Dev.count_pow (d : Dev) (i j n : Nat) : (d.count i j n).pow = d.pow := rfl
@[simp] theorem Dev.count_ces (d : Dev) (i j n : Nat) : (d.count i j n).ces = d.ces := rfl
@[simp] theorem Dev.count_log (d : Dev) (i j n : Nat) : (d.count i j n).log = d.log := rfl
@[simp] theorem Dev.count_vals (d : Dev) (i j n : Nat) : (d.count i j n).vals = d.vals := rfl
@[simp] theorem Dev.count_jour (d : Dev) (i j n : Nat) : (d.count i j n).jour = d.jour := rfl
@[simp] theorem Dev.count_tam (d : Dev) (i j n : Nat) : (d.count i j n).tam = d.tam := rfl
@[simp] theorem Dev.count_sec (d : Dev) (i j n : Nat) : (d.count i j n).sec = d.sec := rfl

/-! ### drawn -/

@[simp] theorem Dev.drawn_out (d : Dev) : (d.drawn).out = d.out := rfl
@[simp] theorem Dev.drawn_marks (d : Dev) : (d.drawn).marks = d.marks := rfl
@[simp] theorem Dev.drawn_hubTimer (d : Dev) : (d.drawn).hubTimer = d.hubTimer := rfl
@[simp] theorem Dev.drawn_stbyTimer (d : Dev) : (d.drawn).stbyTimer = d.stbyTimer := rfl
@[simp] theorem Dev.drawn_seq (d : Dev) : (d.drawn).seq = d.seq := rfl
@[simp] theorem Dev.drawn_ports (d : Dev) : (d.drawn).ports = d.ports := rfl
@[simp] theorem Dev.drawn_cmds (d : Dev) : (d.drawn).cmds = d.cmds := rfl
@[simp] theorem Dev.drawn_nextCmd (d : Dev) : (d.drawn).nextCmd = d.nextCmd := rfl
@[simp] theorem Dev.drawn_comps (d : Dev) : (d.drawn).comps = d.comps := rfl
@[simp] theorem Dev.drawn_allocs (d : Dev) : (d.drawn).allocs = d.allocs := rfl
@[simp] theorem Dev.drawn_allocIdx (d : Dev) : (d.drawn).allocIdx = d.allocIdx := rfl
@[simp] theorem Dev.drawn_usedFrames (d : Dev) : (d.drawn).usedFrames = d.usedFrames := rfl
@[simp] theorem Dev.drawn_descs (d : Dev) : (d.drawn).descs = d.descs := rfl
@[simp] theorem Dev.drawn_descIdx (d : Dev) : (d.drawn).descIdx = d.descIdx := rfl
@[simp] theorem Dev.drawn_mats (d : Dev) : (d.drawn).mats = d.mats := rfl
@[simp] theorem Dev.drawn_matIdx (d : Dev) : (d.drawn).matIdx = d.matIdx := rfl
@[simp] theorem Dev.drawn_matReserved (d : Dev) : (d.drawn).matReserved = d.matReserved := rfl
@[simp] theorem Dev.drawn_loads (d : Dev) : (d.drawn).loads = d.loads := rfl
@[simp] theorem Dev.drawn_swaps (d : Dev) : (d.drawn).swaps = d.swaps := rfl
@[simp] theorem Dev.drawn_progs (d : Dev) : (d.drawn).progs = d.progs := rfl
@[simp] theorem Dev.drawn_progIdx (d : Dev) : (d.drawn).progIdx = d.progIdx := rfl
@[simp] theorem Dev.drawn_jobs (d : Dev) : (d.drawn).jobs = d.jobs := rfl
@[simp] theorem Dev.drawn_nextJob (d : Dev) : (d.drawn).nextJob = d.nextJob := rfl
@[simp] theorem Dev.drawn_tiles (d : Dev) : (d.drawn).tiles = d.tiles := rfl
@[simp] theorem Dev.drawn_nextTile (d : Dev) : (d.drawn).nextTile = d.nextTile := rfl
@[simp] theorem Dev.drawn_spad (d : Dev) : (d.drawn).spad = d.spad := rfl
@[simp] theorem Dev.drawn_slots (d : Dev) : (d.drawn).slots = d.slots := rfl
@[simp] theorem Dev.drawn_banks (d : Dev) : (d.drawn).banks = d.banks := rfl
@[simp] theorem Dev.drawn_macros (d : Dev) : (d.drawn).macros = d.macros := rfl
@[simp] theorem Dev.drawn_guard0 (d : Dev) : (d.drawn).guard0 = d.guard0 := rfl
@[simp] theorem Dev.drawn_wedges (d : Dev) : (d.drawn).wedges = d.wedges := rfl
@[simp] theorem Dev.drawn_quants (d : Dev) : (d.drawn).quants = d.quants := rfl
@[simp] theorem Dev.drawn_outVecs (d : Dev) : (d.drawn).outVecs = d.outVecs := rfl
@[simp] theorem Dev.drawn_spans (d : Dev) : (d.drawn).spans = d.spans := rfl
@[simp] theorem Dev.drawn_pairs (d : Dev) : (d.drawn).pairs = d.pairs := rfl
@[simp] theorem Dev.drawn_pred (d : Dev) : (d.drawn).pred = d.pred := rfl
@[simp] theorem Dev.drawn_issues (d : Dev) : (d.drawn).issues = d.issues := rfl
@[simp] theorem Dev.drawn_engines (d : Dev) : (d.drawn).engines = d.engines := rfl
@[simp] theorem Dev.drawn_coal (d : Dev) : (d.drawn).coal = d.coal := rfl
@[simp] theorem Dev.drawn_remote (d : Dev) : (d.drawn).remote = d.remote := rfl
@[simp] theorem Dev.drawn_waits (d : Dev) : (d.drawn).waits = d.waits := rfl
@[simp] theorem Dev.drawn_gone (d : Dev) : (d.drawn).gone = d.gone := rfl
@[simp] theorem Dev.drawn_mem (d : Dev) : (d.drawn).mem = d.mem := rfl
@[simp] theorem Dev.drawn_hops (d : Dev) : (d.drawn).hops = d.hops := rfl
@[simp] theorem Dev.drawn_frames (d : Dev) : (d.drawn).frames = d.frames := rfl
@[simp] theorem Dev.drawn_rooms (d : Dev) : (d.drawn).rooms = d.rooms := rfl
@[simp] theorem Dev.drawn_asks (d : Dev) : (d.drawn).asks = d.asks := rfl
@[simp] theorem Dev.drawn_links (d : Dev) : (d.drawn).links = d.links := rfl
@[simp] theorem Dev.drawn_bundles (d : Dev) : (d.drawn).bundles = d.bundles := rfl
@[simp] theorem Dev.drawn_pow (d : Dev) : (d.drawn).pow = d.pow := rfl
@[simp] theorem Dev.drawn_ces (d : Dev) : (d.drawn).ces = d.ces := rfl
@[simp] theorem Dev.drawn_log (d : Dev) : (d.drawn).log = d.log := rfl
@[simp] theorem Dev.drawn_vals (d : Dev) : (d.drawn).vals = d.vals := rfl
@[simp] theorem Dev.drawn_ctr (d : Dev) : (d.drawn).ctr = d.ctr := rfl
@[simp] theorem Dev.drawn_jour (d : Dev) : (d.drawn).jour = d.jour := rfl
@[simp] theorem Dev.drawn_tam (d : Dev) : (d.drawn).tam = d.tam := rfl
@[simp] theorem Dev.drawn_sec (d : Dev) : (d.drawn).sec = d.sec := rfl

/-! ### emit -/

@[simp] theorem Dev.emit_free (d : Dev) (o : Output) : (d.emit o).free = d.free := rfl
@[simp] theorem Dev.emit_marks (d : Dev) (o : Output) : (d.emit o).marks = d.marks := rfl
@[simp] theorem Dev.emit_hubTimer (d : Dev) (o : Output) : (d.emit o).hubTimer = d.hubTimer := rfl
@[simp] theorem Dev.emit_stbyTimer (d : Dev) (o : Output) : (d.emit o).stbyTimer = d.stbyTimer := rfl
@[simp] theorem Dev.emit_seq (d : Dev) (o : Output) : (d.emit o).seq = d.seq := rfl
@[simp] theorem Dev.emit_ports (d : Dev) (o : Output) : (d.emit o).ports = d.ports := rfl
@[simp] theorem Dev.emit_cmds (d : Dev) (o : Output) : (d.emit o).cmds = d.cmds := rfl
@[simp] theorem Dev.emit_nextCmd (d : Dev) (o : Output) : (d.emit o).nextCmd = d.nextCmd := rfl
@[simp] theorem Dev.emit_comps (d : Dev) (o : Output) : (d.emit o).comps = d.comps := rfl
@[simp] theorem Dev.emit_allocs (d : Dev) (o : Output) : (d.emit o).allocs = d.allocs := rfl
@[simp] theorem Dev.emit_allocIdx (d : Dev) (o : Output) : (d.emit o).allocIdx = d.allocIdx := rfl
@[simp] theorem Dev.emit_usedFrames (d : Dev) (o : Output) : (d.emit o).usedFrames = d.usedFrames := rfl
@[simp] theorem Dev.emit_descs (d : Dev) (o : Output) : (d.emit o).descs = d.descs := rfl
@[simp] theorem Dev.emit_descIdx (d : Dev) (o : Output) : (d.emit o).descIdx = d.descIdx := rfl
@[simp] theorem Dev.emit_mats (d : Dev) (o : Output) : (d.emit o).mats = d.mats := rfl
@[simp] theorem Dev.emit_matIdx (d : Dev) (o : Output) : (d.emit o).matIdx = d.matIdx := rfl
@[simp] theorem Dev.emit_matReserved (d : Dev) (o : Output) : (d.emit o).matReserved = d.matReserved := rfl
@[simp] theorem Dev.emit_loads (d : Dev) (o : Output) : (d.emit o).loads = d.loads := rfl
@[simp] theorem Dev.emit_swaps (d : Dev) (o : Output) : (d.emit o).swaps = d.swaps := rfl
@[simp] theorem Dev.emit_progs (d : Dev) (o : Output) : (d.emit o).progs = d.progs := rfl
@[simp] theorem Dev.emit_progIdx (d : Dev) (o : Output) : (d.emit o).progIdx = d.progIdx := rfl
@[simp] theorem Dev.emit_jobs (d : Dev) (o : Output) : (d.emit o).jobs = d.jobs := rfl
@[simp] theorem Dev.emit_nextJob (d : Dev) (o : Output) : (d.emit o).nextJob = d.nextJob := rfl
@[simp] theorem Dev.emit_tiles (d : Dev) (o : Output) : (d.emit o).tiles = d.tiles := rfl
@[simp] theorem Dev.emit_nextTile (d : Dev) (o : Output) : (d.emit o).nextTile = d.nextTile := rfl
@[simp] theorem Dev.emit_spad (d : Dev) (o : Output) : (d.emit o).spad = d.spad := rfl
@[simp] theorem Dev.emit_slots (d : Dev) (o : Output) : (d.emit o).slots = d.slots := rfl
@[simp] theorem Dev.emit_banks (d : Dev) (o : Output) : (d.emit o).banks = d.banks := rfl
@[simp] theorem Dev.emit_macros (d : Dev) (o : Output) : (d.emit o).macros = d.macros := rfl
@[simp] theorem Dev.emit_guard0 (d : Dev) (o : Output) : (d.emit o).guard0 = d.guard0 := rfl
@[simp] theorem Dev.emit_wedges (d : Dev) (o : Output) : (d.emit o).wedges = d.wedges := rfl
@[simp] theorem Dev.emit_quants (d : Dev) (o : Output) : (d.emit o).quants = d.quants := rfl
@[simp] theorem Dev.emit_outVecs (d : Dev) (o : Output) : (d.emit o).outVecs = d.outVecs := rfl
@[simp] theorem Dev.emit_spans (d : Dev) (o : Output) : (d.emit o).spans = d.spans := rfl
@[simp] theorem Dev.emit_pairs (d : Dev) (o : Output) : (d.emit o).pairs = d.pairs := rfl
@[simp] theorem Dev.emit_pred (d : Dev) (o : Output) : (d.emit o).pred = d.pred := rfl
@[simp] theorem Dev.emit_issues (d : Dev) (o : Output) : (d.emit o).issues = d.issues := rfl
@[simp] theorem Dev.emit_engines (d : Dev) (o : Output) : (d.emit o).engines = d.engines := rfl
@[simp] theorem Dev.emit_coal (d : Dev) (o : Output) : (d.emit o).coal = d.coal := rfl
@[simp] theorem Dev.emit_remote (d : Dev) (o : Output) : (d.emit o).remote = d.remote := rfl
@[simp] theorem Dev.emit_waits (d : Dev) (o : Output) : (d.emit o).waits = d.waits := rfl
@[simp] theorem Dev.emit_gone (d : Dev) (o : Output) : (d.emit o).gone = d.gone := rfl
@[simp] theorem Dev.emit_mem (d : Dev) (o : Output) : (d.emit o).mem = d.mem := rfl
@[simp] theorem Dev.emit_hops (d : Dev) (o : Output) : (d.emit o).hops = d.hops := rfl
@[simp] theorem Dev.emit_frames (d : Dev) (o : Output) : (d.emit o).frames = d.frames := rfl
@[simp] theorem Dev.emit_rooms (d : Dev) (o : Output) : (d.emit o).rooms = d.rooms := rfl
@[simp] theorem Dev.emit_asks (d : Dev) (o : Output) : (d.emit o).asks = d.asks := rfl
@[simp] theorem Dev.emit_links (d : Dev) (o : Output) : (d.emit o).links = d.links := rfl
@[simp] theorem Dev.emit_bundles (d : Dev) (o : Output) : (d.emit o).bundles = d.bundles := rfl
@[simp] theorem Dev.emit_pow (d : Dev) (o : Output) : (d.emit o).pow = d.pow := rfl
@[simp] theorem Dev.emit_ces (d : Dev) (o : Output) : (d.emit o).ces = d.ces := rfl
@[simp] theorem Dev.emit_log (d : Dev) (o : Output) : (d.emit o).log = d.log := rfl
@[simp] theorem Dev.emit_vals (d : Dev) (o : Output) : (d.emit o).vals = d.vals := rfl
@[simp] theorem Dev.emit_ctr (d : Dev) (o : Output) : (d.emit o).ctr = d.ctr := rfl
@[simp] theorem Dev.emit_jour (d : Dev) (o : Output) : (d.emit o).jour = d.jour := rfl
@[simp] theorem Dev.emit_tam (d : Dev) (o : Output) : (d.emit o).tam = d.tam := rfl
@[simp] theorem Dev.emit_sec (d : Dev) (o : Output) : (d.emit o).sec = d.sec := rfl

/-! ### post -/

@[simp] theorem Dev.post_free (d : Dev) (c : BitVec 16) (h : Nat) (u : BitVec 32) (l : List (Nat × Nat)) : (d.post c h u l).free = d.free := rfl
@[simp] theorem Dev.post_out (d : Dev) (c : BitVec 16) (h : Nat) (u : BitVec 32) (l : List (Nat × Nat)) : (d.post c h u l).out = d.out := rfl
@[simp] theorem Dev.post_marks (d : Dev) (c : BitVec 16) (h : Nat) (u : BitVec 32) (l : List (Nat × Nat)) : (d.post c h u l).marks = d.marks := rfl
@[simp] theorem Dev.post_hubTimer (d : Dev) (c : BitVec 16) (h : Nat) (u : BitVec 32) (l : List (Nat × Nat)) : (d.post c h u l).hubTimer = d.hubTimer := rfl
@[simp] theorem Dev.post_stbyTimer (d : Dev) (c : BitVec 16) (h : Nat) (u : BitVec 32) (l : List (Nat × Nat)) : (d.post c h u l).stbyTimer = d.stbyTimer := rfl
@[simp] theorem Dev.post_seq (d : Dev) (c : BitVec 16) (h : Nat) (u : BitVec 32) (l : List (Nat × Nat)) : (d.post c h u l).seq = d.seq := rfl
@[simp] theorem Dev.post_ports (d : Dev) (c : BitVec 16) (h : Nat) (u : BitVec 32) (l : List (Nat × Nat)) : (d.post c h u l).ports = d.ports := rfl
@[simp] theorem Dev.post_cmds (d : Dev) (c : BitVec 16) (h : Nat) (u : BitVec 32) (l : List (Nat × Nat)) : (d.post c h u l).cmds = d.cmds := rfl
@[simp] theorem Dev.post_nextCmd (d : Dev) (c : BitVec 16) (h : Nat) (u : BitVec 32) (l : List (Nat × Nat)) : (d.post c h u l).nextCmd = d.nextCmd := rfl
@[simp] theorem Dev.post_comps (d : Dev) (c : BitVec 16) (h : Nat) (u : BitVec 32) (l : List (Nat × Nat)) : (d.post c h u l).comps = d.comps := rfl
@[simp] theorem Dev.post_allocs (d : Dev) (c : BitVec 16) (h : Nat) (u : BitVec 32) (l : List (Nat × Nat)) : (d.post c h u l).allocs = d.allocs := rfl
@[simp] theorem Dev.post_allocIdx (d : Dev) (c : BitVec 16) (h : Nat) (u : BitVec 32) (l : List (Nat × Nat)) : (d.post c h u l).allocIdx = d.allocIdx := rfl
@[simp] theorem Dev.post_usedFrames (d : Dev) (c : BitVec 16) (h : Nat) (u : BitVec 32) (l : List (Nat × Nat)) : (d.post c h u l).usedFrames = d.usedFrames := rfl
@[simp] theorem Dev.post_descs (d : Dev) (c : BitVec 16) (h : Nat) (u : BitVec 32) (l : List (Nat × Nat)) : (d.post c h u l).descs = d.descs := rfl
@[simp] theorem Dev.post_descIdx (d : Dev) (c : BitVec 16) (h : Nat) (u : BitVec 32) (l : List (Nat × Nat)) : (d.post c h u l).descIdx = d.descIdx := rfl
@[simp] theorem Dev.post_mats (d : Dev) (c : BitVec 16) (h : Nat) (u : BitVec 32) (l : List (Nat × Nat)) : (d.post c h u l).mats = d.mats := rfl
@[simp] theorem Dev.post_matIdx (d : Dev) (c : BitVec 16) (h : Nat) (u : BitVec 32) (l : List (Nat × Nat)) : (d.post c h u l).matIdx = d.matIdx := rfl
@[simp] theorem Dev.post_matReserved (d : Dev) (c : BitVec 16) (h : Nat) (u : BitVec 32) (l : List (Nat × Nat)) : (d.post c h u l).matReserved = d.matReserved := rfl
@[simp] theorem Dev.post_loads (d : Dev) (c : BitVec 16) (h : Nat) (u : BitVec 32) (l : List (Nat × Nat)) : (d.post c h u l).loads = d.loads := rfl
@[simp] theorem Dev.post_swaps (d : Dev) (c : BitVec 16) (h : Nat) (u : BitVec 32) (l : List (Nat × Nat)) : (d.post c h u l).swaps = d.swaps := rfl
@[simp] theorem Dev.post_progs (d : Dev) (c : BitVec 16) (h : Nat) (u : BitVec 32) (l : List (Nat × Nat)) : (d.post c h u l).progs = d.progs := rfl
@[simp] theorem Dev.post_progIdx (d : Dev) (c : BitVec 16) (h : Nat) (u : BitVec 32) (l : List (Nat × Nat)) : (d.post c h u l).progIdx = d.progIdx := rfl
@[simp] theorem Dev.post_jobs (d : Dev) (c : BitVec 16) (h : Nat) (u : BitVec 32) (l : List (Nat × Nat)) : (d.post c h u l).jobs = d.jobs := rfl
@[simp] theorem Dev.post_nextJob (d : Dev) (c : BitVec 16) (h : Nat) (u : BitVec 32) (l : List (Nat × Nat)) : (d.post c h u l).nextJob = d.nextJob := rfl
@[simp] theorem Dev.post_tiles (d : Dev) (c : BitVec 16) (h : Nat) (u : BitVec 32) (l : List (Nat × Nat)) : (d.post c h u l).tiles = d.tiles := rfl
@[simp] theorem Dev.post_nextTile (d : Dev) (c : BitVec 16) (h : Nat) (u : BitVec 32) (l : List (Nat × Nat)) : (d.post c h u l).nextTile = d.nextTile := rfl
@[simp] theorem Dev.post_spad (d : Dev) (c : BitVec 16) (h : Nat) (u : BitVec 32) (l : List (Nat × Nat)) : (d.post c h u l).spad = d.spad := rfl
@[simp] theorem Dev.post_slots (d : Dev) (c : BitVec 16) (h : Nat) (u : BitVec 32) (l : List (Nat × Nat)) : (d.post c h u l).slots = d.slots := rfl
@[simp] theorem Dev.post_banks (d : Dev) (c : BitVec 16) (h : Nat) (u : BitVec 32) (l : List (Nat × Nat)) : (d.post c h u l).banks = d.banks := rfl
@[simp] theorem Dev.post_macros (d : Dev) (c : BitVec 16) (h : Nat) (u : BitVec 32) (l : List (Nat × Nat)) : (d.post c h u l).macros = d.macros := rfl
@[simp] theorem Dev.post_guard0 (d : Dev) (c : BitVec 16) (h : Nat) (u : BitVec 32) (l : List (Nat × Nat)) : (d.post c h u l).guard0 = d.guard0 := rfl
@[simp] theorem Dev.post_wedges (d : Dev) (c : BitVec 16) (h : Nat) (u : BitVec 32) (l : List (Nat × Nat)) : (d.post c h u l).wedges = d.wedges := rfl
@[simp] theorem Dev.post_quants (d : Dev) (c : BitVec 16) (h : Nat) (u : BitVec 32) (l : List (Nat × Nat)) : (d.post c h u l).quants = d.quants := rfl
@[simp] theorem Dev.post_outVecs (d : Dev) (c : BitVec 16) (h : Nat) (u : BitVec 32) (l : List (Nat × Nat)) : (d.post c h u l).outVecs = d.outVecs := rfl
@[simp] theorem Dev.post_spans (d : Dev) (c : BitVec 16) (h : Nat) (u : BitVec 32) (l : List (Nat × Nat)) : (d.post c h u l).spans = d.spans := rfl
@[simp] theorem Dev.post_pairs (d : Dev) (c : BitVec 16) (h : Nat) (u : BitVec 32) (l : List (Nat × Nat)) : (d.post c h u l).pairs = d.pairs := rfl
@[simp] theorem Dev.post_pred (d : Dev) (c : BitVec 16) (h : Nat) (u : BitVec 32) (l : List (Nat × Nat)) : (d.post c h u l).pred = d.pred := rfl
@[simp] theorem Dev.post_issues (d : Dev) (c : BitVec 16) (h : Nat) (u : BitVec 32) (l : List (Nat × Nat)) : (d.post c h u l).issues = d.issues := rfl
@[simp] theorem Dev.post_engines (d : Dev) (c : BitVec 16) (h : Nat) (u : BitVec 32) (l : List (Nat × Nat)) : (d.post c h u l).engines = d.engines := rfl
@[simp] theorem Dev.post_coal (d : Dev) (c : BitVec 16) (h : Nat) (u : BitVec 32) (l : List (Nat × Nat)) : (d.post c h u l).coal = d.coal := rfl
@[simp] theorem Dev.post_remote (d : Dev) (c : BitVec 16) (h : Nat) (u : BitVec 32) (l : List (Nat × Nat)) : (d.post c h u l).remote = d.remote := rfl
@[simp] theorem Dev.post_waits (d : Dev) (c : BitVec 16) (h : Nat) (u : BitVec 32) (l : List (Nat × Nat)) : (d.post c h u l).waits = d.waits := rfl
@[simp] theorem Dev.post_gone (d : Dev) (c : BitVec 16) (h : Nat) (u : BitVec 32) (l : List (Nat × Nat)) : (d.post c h u l).gone = d.gone := rfl
@[simp] theorem Dev.post_mem (d : Dev) (c : BitVec 16) (h : Nat) (u : BitVec 32) (l : List (Nat × Nat)) : (d.post c h u l).mem = d.mem := rfl
@[simp] theorem Dev.post_hops (d : Dev) (c : BitVec 16) (h : Nat) (u : BitVec 32) (l : List (Nat × Nat)) : (d.post c h u l).hops = d.hops := rfl
@[simp] theorem Dev.post_frames (d : Dev) (c : BitVec 16) (h : Nat) (u : BitVec 32) (l : List (Nat × Nat)) : (d.post c h u l).frames = d.frames := rfl
@[simp] theorem Dev.post_rooms (d : Dev) (c : BitVec 16) (h : Nat) (u : BitVec 32) (l : List (Nat × Nat)) : (d.post c h u l).rooms = d.rooms := rfl
@[simp] theorem Dev.post_asks (d : Dev) (c : BitVec 16) (h : Nat) (u : BitVec 32) (l : List (Nat × Nat)) : (d.post c h u l).asks = d.asks := rfl
@[simp] theorem Dev.post_links (d : Dev) (c : BitVec 16) (h : Nat) (u : BitVec 32) (l : List (Nat × Nat)) : (d.post c h u l).links = d.links := rfl
@[simp] theorem Dev.post_bundles (d : Dev) (c : BitVec 16) (h : Nat) (u : BitVec 32) (l : List (Nat × Nat)) : (d.post c h u l).bundles = d.bundles := rfl
@[simp] theorem Dev.post_pow (d : Dev) (c : BitVec 16) (h : Nat) (u : BitVec 32) (l : List (Nat × Nat)) : (d.post c h u l).pow = d.pow := rfl
@[simp] theorem Dev.post_ces (d : Dev) (c : BitVec 16) (h : Nat) (u : BitVec 32) (l : List (Nat × Nat)) : (d.post c h u l).ces = d.ces := rfl
@[simp] theorem Dev.post_vals (d : Dev) (c : BitVec 16) (h : Nat) (u : BitVec 32) (l : List (Nat × Nat)) : (d.post c h u l).vals = d.vals := rfl
@[simp] theorem Dev.post_ctr (d : Dev) (c : BitVec 16) (h : Nat) (u : BitVec 32) (l : List (Nat × Nat)) : (d.post c h u l).ctr = d.ctr := rfl
@[simp] theorem Dev.post_jour (d : Dev) (c : BitVec 16) (h : Nat) (u : BitVec 32) (l : List (Nat × Nat)) : (d.post c h u l).jour = d.jour := rfl
@[simp] theorem Dev.post_tam (d : Dev) (c : BitVec 16) (h : Nat) (u : BitVec 32) (l : List (Nat × Nat)) : (d.post c h u l).tam = d.tam := rfl
@[simp] theorem Dev.post_sec (d : Dev) (c : BitVec 16) (h : Nat) (u : BitVec 32) (l : List (Nat × Nat)) : (d.post c h u l).sec = d.sec := rfl

/-! ### mark -/

@[simp] theorem Dev.mark_free (d : Dev) (a b c : Nat) : (d.mark a b c).free = d.free := rfl
@[simp] theorem Dev.mark_out (d : Dev) (a b c : Nat) : (d.mark a b c).out = d.out := rfl
@[simp] theorem Dev.mark_hubTimer (d : Dev) (a b c : Nat) : (d.mark a b c).hubTimer = d.hubTimer := rfl
@[simp] theorem Dev.mark_stbyTimer (d : Dev) (a b c : Nat) : (d.mark a b c).stbyTimer = d.stbyTimer := rfl
@[simp] theorem Dev.mark_seq (d : Dev) (a b c : Nat) : (d.mark a b c).seq = d.seq := rfl
@[simp] theorem Dev.mark_ports (d : Dev) (a b c : Nat) : (d.mark a b c).ports = d.ports := rfl
@[simp] theorem Dev.mark_cmds (d : Dev) (a b c : Nat) : (d.mark a b c).cmds = d.cmds := rfl
@[simp] theorem Dev.mark_nextCmd (d : Dev) (a b c : Nat) : (d.mark a b c).nextCmd = d.nextCmd := rfl
@[simp] theorem Dev.mark_comps (d : Dev) (a b c : Nat) : (d.mark a b c).comps = d.comps := rfl
@[simp] theorem Dev.mark_allocs (d : Dev) (a b c : Nat) : (d.mark a b c).allocs = d.allocs := rfl
@[simp] theorem Dev.mark_allocIdx (d : Dev) (a b c : Nat) : (d.mark a b c).allocIdx = d.allocIdx := rfl
@[simp] theorem Dev.mark_usedFrames (d : Dev) (a b c : Nat) : (d.mark a b c).usedFrames = d.usedFrames := rfl
@[simp] theorem Dev.mark_descs (d : Dev) (a b c : Nat) : (d.mark a b c).descs = d.descs := rfl
@[simp] theorem Dev.mark_descIdx (d : Dev) (a b c : Nat) : (d.mark a b c).descIdx = d.descIdx := rfl
@[simp] theorem Dev.mark_mats (d : Dev) (a b c : Nat) : (d.mark a b c).mats = d.mats := rfl
@[simp] theorem Dev.mark_matIdx (d : Dev) (a b c : Nat) : (d.mark a b c).matIdx = d.matIdx := rfl
@[simp] theorem Dev.mark_matReserved (d : Dev) (a b c : Nat) : (d.mark a b c).matReserved = d.matReserved := rfl
@[simp] theorem Dev.mark_loads (d : Dev) (a b c : Nat) : (d.mark a b c).loads = d.loads := rfl
@[simp] theorem Dev.mark_swaps (d : Dev) (a b c : Nat) : (d.mark a b c).swaps = d.swaps := rfl
@[simp] theorem Dev.mark_progs (d : Dev) (a b c : Nat) : (d.mark a b c).progs = d.progs := rfl
@[simp] theorem Dev.mark_progIdx (d : Dev) (a b c : Nat) : (d.mark a b c).progIdx = d.progIdx := rfl
@[simp] theorem Dev.mark_jobs (d : Dev) (a b c : Nat) : (d.mark a b c).jobs = d.jobs := rfl
@[simp] theorem Dev.mark_nextJob (d : Dev) (a b c : Nat) : (d.mark a b c).nextJob = d.nextJob := rfl
@[simp] theorem Dev.mark_tiles (d : Dev) (a b c : Nat) : (d.mark a b c).tiles = d.tiles := rfl
@[simp] theorem Dev.mark_nextTile (d : Dev) (a b c : Nat) : (d.mark a b c).nextTile = d.nextTile := rfl
@[simp] theorem Dev.mark_spad (d : Dev) (a b c : Nat) : (d.mark a b c).spad = d.spad := rfl
@[simp] theorem Dev.mark_slots (d : Dev) (a b c : Nat) : (d.mark a b c).slots = d.slots := rfl
@[simp] theorem Dev.mark_banks (d : Dev) (a b c : Nat) : (d.mark a b c).banks = d.banks := rfl
@[simp] theorem Dev.mark_macros (d : Dev) (a b c : Nat) : (d.mark a b c).macros = d.macros := rfl
@[simp] theorem Dev.mark_guard0 (d : Dev) (a b c : Nat) : (d.mark a b c).guard0 = d.guard0 := rfl
@[simp] theorem Dev.mark_wedges (d : Dev) (a b c : Nat) : (d.mark a b c).wedges = d.wedges := rfl
@[simp] theorem Dev.mark_quants (d : Dev) (a b c : Nat) : (d.mark a b c).quants = d.quants := rfl
@[simp] theorem Dev.mark_outVecs (d : Dev) (a b c : Nat) : (d.mark a b c).outVecs = d.outVecs := rfl
@[simp] theorem Dev.mark_spans (d : Dev) (a b c : Nat) : (d.mark a b c).spans = d.spans := rfl
@[simp] theorem Dev.mark_pairs (d : Dev) (a b c : Nat) : (d.mark a b c).pairs = d.pairs := rfl
@[simp] theorem Dev.mark_pred (d : Dev) (a b c : Nat) : (d.mark a b c).pred = d.pred := rfl
@[simp] theorem Dev.mark_issues (d : Dev) (a b c : Nat) : (d.mark a b c).issues = d.issues := rfl
@[simp] theorem Dev.mark_engines (d : Dev) (a b c : Nat) : (d.mark a b c).engines = d.engines := rfl
@[simp] theorem Dev.mark_coal (d : Dev) (a b c : Nat) : (d.mark a b c).coal = d.coal := rfl
@[simp] theorem Dev.mark_remote (d : Dev) (a b c : Nat) : (d.mark a b c).remote = d.remote := rfl
@[simp] theorem Dev.mark_waits (d : Dev) (a b c : Nat) : (d.mark a b c).waits = d.waits := rfl
@[simp] theorem Dev.mark_gone (d : Dev) (a b c : Nat) : (d.mark a b c).gone = d.gone := rfl
@[simp] theorem Dev.mark_mem (d : Dev) (a b c : Nat) : (d.mark a b c).mem = d.mem := rfl
@[simp] theorem Dev.mark_hops (d : Dev) (a b c : Nat) : (d.mark a b c).hops = d.hops := rfl
@[simp] theorem Dev.mark_frames (d : Dev) (a b c : Nat) : (d.mark a b c).frames = d.frames := rfl
@[simp] theorem Dev.mark_rooms (d : Dev) (a b c : Nat) : (d.mark a b c).rooms = d.rooms := rfl
@[simp] theorem Dev.mark_asks (d : Dev) (a b c : Nat) : (d.mark a b c).asks = d.asks := rfl
@[simp] theorem Dev.mark_links (d : Dev) (a b c : Nat) : (d.mark a b c).links = d.links := rfl
@[simp] theorem Dev.mark_bundles (d : Dev) (a b c : Nat) : (d.mark a b c).bundles = d.bundles := rfl
@[simp] theorem Dev.mark_pow (d : Dev) (a b c : Nat) : (d.mark a b c).pow = d.pow := rfl
@[simp] theorem Dev.mark_ces (d : Dev) (a b c : Nat) : (d.mark a b c).ces = d.ces := rfl
@[simp] theorem Dev.mark_log (d : Dev) (a b c : Nat) : (d.mark a b c).log = d.log := rfl
@[simp] theorem Dev.mark_vals (d : Dev) (a b c : Nat) : (d.mark a b c).vals = d.vals := rfl
@[simp] theorem Dev.mark_ctr (d : Dev) (a b c : Nat) : (d.mark a b c).ctr = d.ctr := rfl
@[simp] theorem Dev.mark_jour (d : Dev) (a b c : Nat) : (d.mark a b c).jour = d.jour := rfl
@[simp] theorem Dev.mark_tam (d : Dev) (a b c : Nat) : (d.mark a b c).tam = d.tam := rfl
@[simp] theorem Dev.mark_sec (d : Dev) (a b c : Nat) : (d.mark a b c).sec = d.sec := rfl

/-! ### busy -/

@[simp] theorem Dev.busy_free (d : Dev) (i : Nat) : (d.busy i).free = d.free := rfl
@[simp] theorem Dev.busy_out (d : Dev) (i : Nat) : (d.busy i).out = d.out := rfl
@[simp] theorem Dev.busy_marks (d : Dev) (i : Nat) : (d.busy i).marks = d.marks := rfl
@[simp] theorem Dev.busy_hubTimer (d : Dev) (i : Nat) : (d.busy i).hubTimer = d.hubTimer := rfl
@[simp] theorem Dev.busy_stbyTimer (d : Dev) (i : Nat) : (d.busy i).stbyTimer = d.stbyTimer := rfl
@[simp] theorem Dev.busy_seq (d : Dev) (i : Nat) : (d.busy i).seq = d.seq := rfl
@[simp] theorem Dev.busy_ports (d : Dev) (i : Nat) : (d.busy i).ports = d.ports := rfl
@[simp] theorem Dev.busy_nextCmd (d : Dev) (i : Nat) : (d.busy i).nextCmd = d.nextCmd := rfl
@[simp] theorem Dev.busy_comps (d : Dev) (i : Nat) : (d.busy i).comps = d.comps := rfl
@[simp] theorem Dev.busy_allocs (d : Dev) (i : Nat) : (d.busy i).allocs = d.allocs := rfl
@[simp] theorem Dev.busy_allocIdx (d : Dev) (i : Nat) : (d.busy i).allocIdx = d.allocIdx := rfl
@[simp] theorem Dev.busy_usedFrames (d : Dev) (i : Nat) : (d.busy i).usedFrames = d.usedFrames := rfl
@[simp] theorem Dev.busy_descs (d : Dev) (i : Nat) : (d.busy i).descs = d.descs := rfl
@[simp] theorem Dev.busy_descIdx (d : Dev) (i : Nat) : (d.busy i).descIdx = d.descIdx := rfl
@[simp] theorem Dev.busy_mats (d : Dev) (i : Nat) : (d.busy i).mats = d.mats := rfl
@[simp] theorem Dev.busy_matIdx (d : Dev) (i : Nat) : (d.busy i).matIdx = d.matIdx := rfl
@[simp] theorem Dev.busy_matReserved (d : Dev) (i : Nat) : (d.busy i).matReserved = d.matReserved := rfl
@[simp] theorem Dev.busy_loads (d : Dev) (i : Nat) : (d.busy i).loads = d.loads := rfl
@[simp] theorem Dev.busy_swaps (d : Dev) (i : Nat) : (d.busy i).swaps = d.swaps := rfl
@[simp] theorem Dev.busy_progs (d : Dev) (i : Nat) : (d.busy i).progs = d.progs := rfl
@[simp] theorem Dev.busy_progIdx (d : Dev) (i : Nat) : (d.busy i).progIdx = d.progIdx := rfl
@[simp] theorem Dev.busy_jobs (d : Dev) (i : Nat) : (d.busy i).jobs = d.jobs := rfl
@[simp] theorem Dev.busy_nextJob (d : Dev) (i : Nat) : (d.busy i).nextJob = d.nextJob := rfl
@[simp] theorem Dev.busy_tiles (d : Dev) (i : Nat) : (d.busy i).tiles = d.tiles := rfl
@[simp] theorem Dev.busy_nextTile (d : Dev) (i : Nat) : (d.busy i).nextTile = d.nextTile := rfl
@[simp] theorem Dev.busy_spad (d : Dev) (i : Nat) : (d.busy i).spad = d.spad := rfl
@[simp] theorem Dev.busy_slots (d : Dev) (i : Nat) : (d.busy i).slots = d.slots := rfl
@[simp] theorem Dev.busy_banks (d : Dev) (i : Nat) : (d.busy i).banks = d.banks := rfl
@[simp] theorem Dev.busy_macros (d : Dev) (i : Nat) : (d.busy i).macros = d.macros := rfl
@[simp] theorem Dev.busy_guard0 (d : Dev) (i : Nat) : (d.busy i).guard0 = d.guard0 := rfl
@[simp] theorem Dev.busy_wedges (d : Dev) (i : Nat) : (d.busy i).wedges = d.wedges := rfl
@[simp] theorem Dev.busy_quants (d : Dev) (i : Nat) : (d.busy i).quants = d.quants := rfl
@[simp] theorem Dev.busy_outVecs (d : Dev) (i : Nat) : (d.busy i).outVecs = d.outVecs := rfl
@[simp] theorem Dev.busy_spans (d : Dev) (i : Nat) : (d.busy i).spans = d.spans := rfl
@[simp] theorem Dev.busy_pairs (d : Dev) (i : Nat) : (d.busy i).pairs = d.pairs := rfl
@[simp] theorem Dev.busy_pred (d : Dev) (i : Nat) : (d.busy i).pred = d.pred := rfl
@[simp] theorem Dev.busy_issues (d : Dev) (i : Nat) : (d.busy i).issues = d.issues := rfl
@[simp] theorem Dev.busy_engines (d : Dev) (i : Nat) : (d.busy i).engines = d.engines := rfl
@[simp] theorem Dev.busy_coal (d : Dev) (i : Nat) : (d.busy i).coal = d.coal := rfl
@[simp] theorem Dev.busy_remote (d : Dev) (i : Nat) : (d.busy i).remote = d.remote := rfl
@[simp] theorem Dev.busy_waits (d : Dev) (i : Nat) : (d.busy i).waits = d.waits := rfl
@[simp] theorem Dev.busy_gone (d : Dev) (i : Nat) : (d.busy i).gone = d.gone := rfl
@[simp] theorem Dev.busy_mem (d : Dev) (i : Nat) : (d.busy i).mem = d.mem := rfl
@[simp] theorem Dev.busy_hops (d : Dev) (i : Nat) : (d.busy i).hops = d.hops := rfl
@[simp] theorem Dev.busy_frames (d : Dev) (i : Nat) : (d.busy i).frames = d.frames := rfl
@[simp] theorem Dev.busy_rooms (d : Dev) (i : Nat) : (d.busy i).rooms = d.rooms := rfl
@[simp] theorem Dev.busy_asks (d : Dev) (i : Nat) : (d.busy i).asks = d.asks := rfl
@[simp] theorem Dev.busy_links (d : Dev) (i : Nat) : (d.busy i).links = d.links := rfl
@[simp] theorem Dev.busy_bundles (d : Dev) (i : Nat) : (d.busy i).bundles = d.bundles := rfl
@[simp] theorem Dev.busy_pow (d : Dev) (i : Nat) : (d.busy i).pow = d.pow := rfl
@[simp] theorem Dev.busy_ces (d : Dev) (i : Nat) : (d.busy i).ces = d.ces := rfl
@[simp] theorem Dev.busy_log (d : Dev) (i : Nat) : (d.busy i).log = d.log := rfl
@[simp] theorem Dev.busy_vals (d : Dev) (i : Nat) : (d.busy i).vals = d.vals := rfl
@[simp] theorem Dev.busy_ctr (d : Dev) (i : Nat) : (d.busy i).ctr = d.ctr := rfl
@[simp] theorem Dev.busy_jour (d : Dev) (i : Nat) : (d.busy i).jour = d.jour := rfl
@[simp] theorem Dev.busy_tam (d : Dev) (i : Nat) : (d.busy i).tam = d.tam := rfl
@[simp] theorem Dev.busy_sec (d : Dev) (i : Nat) : (d.busy i).sec = d.sec := rfl

/-! ### swrite -/

@[simp] theorem Dev.swrite_free (d : Dev) (c a : Nat) (b : Bytes) : (d.swrite c a b).free = d.free := rfl
@[simp] theorem Dev.swrite_out (d : Dev) (c a : Nat) (b : Bytes) : (d.swrite c a b).out = d.out := rfl
@[simp] theorem Dev.swrite_marks (d : Dev) (c a : Nat) (b : Bytes) : (d.swrite c a b).marks = d.marks := rfl
@[simp] theorem Dev.swrite_hubTimer (d : Dev) (c a : Nat) (b : Bytes) : (d.swrite c a b).hubTimer = d.hubTimer := rfl
@[simp] theorem Dev.swrite_stbyTimer (d : Dev) (c a : Nat) (b : Bytes) : (d.swrite c a b).stbyTimer = d.stbyTimer := rfl
@[simp] theorem Dev.swrite_seq (d : Dev) (c a : Nat) (b : Bytes) : (d.swrite c a b).seq = d.seq := rfl
@[simp] theorem Dev.swrite_ports (d : Dev) (c a : Nat) (b : Bytes) : (d.swrite c a b).ports = d.ports := rfl
@[simp] theorem Dev.swrite_cmds (d : Dev) (c a : Nat) (b : Bytes) : (d.swrite c a b).cmds = d.cmds := rfl
@[simp] theorem Dev.swrite_nextCmd (d : Dev) (c a : Nat) (b : Bytes) : (d.swrite c a b).nextCmd = d.nextCmd := rfl
@[simp] theorem Dev.swrite_comps (d : Dev) (c a : Nat) (b : Bytes) : (d.swrite c a b).comps = d.comps := rfl
@[simp] theorem Dev.swrite_allocs (d : Dev) (c a : Nat) (b : Bytes) : (d.swrite c a b).allocs = d.allocs := rfl
@[simp] theorem Dev.swrite_allocIdx (d : Dev) (c a : Nat) (b : Bytes) : (d.swrite c a b).allocIdx = d.allocIdx := rfl
@[simp] theorem Dev.swrite_usedFrames (d : Dev) (c a : Nat) (b : Bytes) : (d.swrite c a b).usedFrames = d.usedFrames := rfl
@[simp] theorem Dev.swrite_descs (d : Dev) (c a : Nat) (b : Bytes) : (d.swrite c a b).descs = d.descs := rfl
@[simp] theorem Dev.swrite_descIdx (d : Dev) (c a : Nat) (b : Bytes) : (d.swrite c a b).descIdx = d.descIdx := rfl
@[simp] theorem Dev.swrite_mats (d : Dev) (c a : Nat) (b : Bytes) : (d.swrite c a b).mats = d.mats := rfl
@[simp] theorem Dev.swrite_matIdx (d : Dev) (c a : Nat) (b : Bytes) : (d.swrite c a b).matIdx = d.matIdx := rfl
@[simp] theorem Dev.swrite_matReserved (d : Dev) (c a : Nat) (b : Bytes) : (d.swrite c a b).matReserved = d.matReserved := rfl
@[simp] theorem Dev.swrite_loads (d : Dev) (c a : Nat) (b : Bytes) : (d.swrite c a b).loads = d.loads := rfl
@[simp] theorem Dev.swrite_swaps (d : Dev) (c a : Nat) (b : Bytes) : (d.swrite c a b).swaps = d.swaps := rfl
@[simp] theorem Dev.swrite_progs (d : Dev) (c a : Nat) (b : Bytes) : (d.swrite c a b).progs = d.progs := rfl
@[simp] theorem Dev.swrite_progIdx (d : Dev) (c a : Nat) (b : Bytes) : (d.swrite c a b).progIdx = d.progIdx := rfl
@[simp] theorem Dev.swrite_jobs (d : Dev) (c a : Nat) (b : Bytes) : (d.swrite c a b).jobs = d.jobs := rfl
@[simp] theorem Dev.swrite_nextJob (d : Dev) (c a : Nat) (b : Bytes) : (d.swrite c a b).nextJob = d.nextJob := rfl
@[simp] theorem Dev.swrite_tiles (d : Dev) (c a : Nat) (b : Bytes) : (d.swrite c a b).tiles = d.tiles := rfl
@[simp] theorem Dev.swrite_nextTile (d : Dev) (c a : Nat) (b : Bytes) : (d.swrite c a b).nextTile = d.nextTile := rfl
@[simp] theorem Dev.swrite_slots (d : Dev) (c a : Nat) (b : Bytes) : (d.swrite c a b).slots = d.slots := rfl
@[simp] theorem Dev.swrite_banks (d : Dev) (c a : Nat) (b : Bytes) : (d.swrite c a b).banks = d.banks := rfl
@[simp] theorem Dev.swrite_macros (d : Dev) (c a : Nat) (b : Bytes) : (d.swrite c a b).macros = d.macros := rfl
@[simp] theorem Dev.swrite_guard0 (d : Dev) (c a : Nat) (b : Bytes) : (d.swrite c a b).guard0 = d.guard0 := rfl
@[simp] theorem Dev.swrite_wedges (d : Dev) (c a : Nat) (b : Bytes) : (d.swrite c a b).wedges = d.wedges := rfl
@[simp] theorem Dev.swrite_quants (d : Dev) (c a : Nat) (b : Bytes) : (d.swrite c a b).quants = d.quants := rfl
@[simp] theorem Dev.swrite_outVecs (d : Dev) (c a : Nat) (b : Bytes) : (d.swrite c a b).outVecs = d.outVecs := rfl
@[simp] theorem Dev.swrite_spans (d : Dev) (c a : Nat) (b : Bytes) : (d.swrite c a b).spans = d.spans := rfl
@[simp] theorem Dev.swrite_pairs (d : Dev) (c a : Nat) (b : Bytes) : (d.swrite c a b).pairs = d.pairs := rfl
@[simp] theorem Dev.swrite_pred (d : Dev) (c a : Nat) (b : Bytes) : (d.swrite c a b).pred = d.pred := rfl
@[simp] theorem Dev.swrite_issues (d : Dev) (c a : Nat) (b : Bytes) : (d.swrite c a b).issues = d.issues := rfl
@[simp] theorem Dev.swrite_engines (d : Dev) (c a : Nat) (b : Bytes) : (d.swrite c a b).engines = d.engines := rfl
@[simp] theorem Dev.swrite_coal (d : Dev) (c a : Nat) (b : Bytes) : (d.swrite c a b).coal = d.coal := rfl
@[simp] theorem Dev.swrite_remote (d : Dev) (c a : Nat) (b : Bytes) : (d.swrite c a b).remote = d.remote := rfl
@[simp] theorem Dev.swrite_waits (d : Dev) (c a : Nat) (b : Bytes) : (d.swrite c a b).waits = d.waits := rfl
@[simp] theorem Dev.swrite_gone (d : Dev) (c a : Nat) (b : Bytes) : (d.swrite c a b).gone = d.gone := rfl
@[simp] theorem Dev.swrite_mem (d : Dev) (c a : Nat) (b : Bytes) : (d.swrite c a b).mem = d.mem := rfl
@[simp] theorem Dev.swrite_hops (d : Dev) (c a : Nat) (b : Bytes) : (d.swrite c a b).hops = d.hops := rfl
@[simp] theorem Dev.swrite_frames (d : Dev) (c a : Nat) (b : Bytes) : (d.swrite c a b).frames = d.frames := rfl
@[simp] theorem Dev.swrite_rooms (d : Dev) (c a : Nat) (b : Bytes) : (d.swrite c a b).rooms = d.rooms := rfl
@[simp] theorem Dev.swrite_asks (d : Dev) (c a : Nat) (b : Bytes) : (d.swrite c a b).asks = d.asks := rfl
@[simp] theorem Dev.swrite_links (d : Dev) (c a : Nat) (b : Bytes) : (d.swrite c a b).links = d.links := rfl
@[simp] theorem Dev.swrite_bundles (d : Dev) (c a : Nat) (b : Bytes) : (d.swrite c a b).bundles = d.bundles := rfl
@[simp] theorem Dev.swrite_pow (d : Dev) (c a : Nat) (b : Bytes) : (d.swrite c a b).pow = d.pow := rfl
@[simp] theorem Dev.swrite_ces (d : Dev) (c a : Nat) (b : Bytes) : (d.swrite c a b).ces = d.ces := rfl
@[simp] theorem Dev.swrite_log (d : Dev) (c a : Nat) (b : Bytes) : (d.swrite c a b).log = d.log := rfl
@[simp] theorem Dev.swrite_vals (d : Dev) (c a : Nat) (b : Bytes) : (d.swrite c a b).vals = d.vals := rfl
@[simp] theorem Dev.swrite_ctr (d : Dev) (c a : Nat) (b : Bytes) : (d.swrite c a b).ctr = d.ctr := rfl
@[simp] theorem Dev.swrite_jour (d : Dev) (c a : Nat) (b : Bytes) : (d.swrite c a b).jour = d.jour := rfl
@[simp] theorem Dev.swrite_tam (d : Dev) (c a : Nat) (b : Bytes) : (d.swrite c a b).tam = d.tam := rfl
@[simp] theorem Dev.swrite_sec (d : Dev) (c a : Nat) (b : Bytes) : (d.swrite c a b).sec = d.sec := rfl

/-! ### postOnce -/

@[simp] theorem Dev.postOnce_free (d : Dev) (a k : Nat) (c : BitVec 16) (h : Nat) (u : BitVec 32) (l : List (Nat × Nat)) : (d.postOnce a k c h u l).free = d.free := by unfold Dev.postOnce; split <;> rfl
@[simp] theorem Dev.postOnce_out (d : Dev) (a k : Nat) (c : BitVec 16) (h : Nat) (u : BitVec 32) (l : List (Nat × Nat)) : (d.postOnce a k c h u l).out = d.out := by unfold Dev.postOnce; split <;> rfl
@[simp] theorem Dev.postOnce_hubTimer (d : Dev) (a k : Nat) (c : BitVec 16) (h : Nat) (u : BitVec 32) (l : List (Nat × Nat)) : (d.postOnce a k c h u l).hubTimer = d.hubTimer := by unfold Dev.postOnce; split <;> rfl
@[simp] theorem Dev.postOnce_stbyTimer (d : Dev) (a k : Nat) (c : BitVec 16) (h : Nat) (u : BitVec 32) (l : List (Nat × Nat)) : (d.postOnce a k c h u l).stbyTimer = d.stbyTimer := by unfold Dev.postOnce; split <;> rfl
@[simp] theorem Dev.postOnce_seq (d : Dev) (a k : Nat) (c : BitVec 16) (h : Nat) (u : BitVec 32) (l : List (Nat × Nat)) : (d.postOnce a k c h u l).seq = d.seq := by unfold Dev.postOnce; split <;> rfl
@[simp] theorem Dev.postOnce_ports (d : Dev) (a k : Nat) (c : BitVec 16) (h : Nat) (u : BitVec 32) (l : List (Nat × Nat)) : (d.postOnce a k c h u l).ports = d.ports := by unfold Dev.postOnce; split <;> rfl
@[simp] theorem Dev.postOnce_cmds (d : Dev) (a k : Nat) (c : BitVec 16) (h : Nat) (u : BitVec 32) (l : List (Nat × Nat)) : (d.postOnce a k c h u l).cmds = d.cmds := by unfold Dev.postOnce; split <;> rfl
@[simp] theorem Dev.postOnce_nextCmd (d : Dev) (a k : Nat) (c : BitVec 16) (h : Nat) (u : BitVec 32) (l : List (Nat × Nat)) : (d.postOnce a k c h u l).nextCmd = d.nextCmd := by unfold Dev.postOnce; split <;> rfl
@[simp] theorem Dev.postOnce_comps (d : Dev) (a k : Nat) (c : BitVec 16) (h : Nat) (u : BitVec 32) (l : List (Nat × Nat)) : (d.postOnce a k c h u l).comps = d.comps := by unfold Dev.postOnce; split <;> rfl
@[simp] theorem Dev.postOnce_allocs (d : Dev) (a k : Nat) (c : BitVec 16) (h : Nat) (u : BitVec 32) (l : List (Nat × Nat)) : (d.postOnce a k c h u l).allocs = d.allocs := by unfold Dev.postOnce; split <;> rfl
@[simp] theorem Dev.postOnce_allocIdx (d : Dev) (a k : Nat) (c : BitVec 16) (h : Nat) (u : BitVec 32) (l : List (Nat × Nat)) : (d.postOnce a k c h u l).allocIdx = d.allocIdx := by unfold Dev.postOnce; split <;> rfl
@[simp] theorem Dev.postOnce_usedFrames (d : Dev) (a k : Nat) (c : BitVec 16) (h : Nat) (u : BitVec 32) (l : List (Nat × Nat)) : (d.postOnce a k c h u l).usedFrames = d.usedFrames := by unfold Dev.postOnce; split <;> rfl
@[simp] theorem Dev.postOnce_descs (d : Dev) (a k : Nat) (c : BitVec 16) (h : Nat) (u : BitVec 32) (l : List (Nat × Nat)) : (d.postOnce a k c h u l).descs = d.descs := by unfold Dev.postOnce; split <;> rfl
@[simp] theorem Dev.postOnce_descIdx (d : Dev) (a k : Nat) (c : BitVec 16) (h : Nat) (u : BitVec 32) (l : List (Nat × Nat)) : (d.postOnce a k c h u l).descIdx = d.descIdx := by unfold Dev.postOnce; split <;> rfl
@[simp] theorem Dev.postOnce_mats (d : Dev) (a k : Nat) (c : BitVec 16) (h : Nat) (u : BitVec 32) (l : List (Nat × Nat)) : (d.postOnce a k c h u l).mats = d.mats := by unfold Dev.postOnce; split <;> rfl
@[simp] theorem Dev.postOnce_matIdx (d : Dev) (a k : Nat) (c : BitVec 16) (h : Nat) (u : BitVec 32) (l : List (Nat × Nat)) : (d.postOnce a k c h u l).matIdx = d.matIdx := by unfold Dev.postOnce; split <;> rfl
@[simp] theorem Dev.postOnce_matReserved (d : Dev) (a k : Nat) (c : BitVec 16) (h : Nat) (u : BitVec 32) (l : List (Nat × Nat)) : (d.postOnce a k c h u l).matReserved = d.matReserved := by unfold Dev.postOnce; split <;> rfl
@[simp] theorem Dev.postOnce_loads (d : Dev) (a k : Nat) (c : BitVec 16) (h : Nat) (u : BitVec 32) (l : List (Nat × Nat)) : (d.postOnce a k c h u l).loads = d.loads := by unfold Dev.postOnce; split <;> rfl
@[simp] theorem Dev.postOnce_swaps (d : Dev) (a k : Nat) (c : BitVec 16) (h : Nat) (u : BitVec 32) (l : List (Nat × Nat)) : (d.postOnce a k c h u l).swaps = d.swaps := by unfold Dev.postOnce; split <;> rfl
@[simp] theorem Dev.postOnce_progs (d : Dev) (a k : Nat) (c : BitVec 16) (h : Nat) (u : BitVec 32) (l : List (Nat × Nat)) : (d.postOnce a k c h u l).progs = d.progs := by unfold Dev.postOnce; split <;> rfl
@[simp] theorem Dev.postOnce_progIdx (d : Dev) (a k : Nat) (c : BitVec 16) (h : Nat) (u : BitVec 32) (l : List (Nat × Nat)) : (d.postOnce a k c h u l).progIdx = d.progIdx := by unfold Dev.postOnce; split <;> rfl
@[simp] theorem Dev.postOnce_jobs (d : Dev) (a k : Nat) (c : BitVec 16) (h : Nat) (u : BitVec 32) (l : List (Nat × Nat)) : (d.postOnce a k c h u l).jobs = d.jobs := by unfold Dev.postOnce; split <;> rfl
@[simp] theorem Dev.postOnce_nextJob (d : Dev) (a k : Nat) (c : BitVec 16) (h : Nat) (u : BitVec 32) (l : List (Nat × Nat)) : (d.postOnce a k c h u l).nextJob = d.nextJob := by unfold Dev.postOnce; split <;> rfl
@[simp] theorem Dev.postOnce_tiles (d : Dev) (a k : Nat) (c : BitVec 16) (h : Nat) (u : BitVec 32) (l : List (Nat × Nat)) : (d.postOnce a k c h u l).tiles = d.tiles := by unfold Dev.postOnce; split <;> rfl
@[simp] theorem Dev.postOnce_nextTile (d : Dev) (a k : Nat) (c : BitVec 16) (h : Nat) (u : BitVec 32) (l : List (Nat × Nat)) : (d.postOnce a k c h u l).nextTile = d.nextTile := by unfold Dev.postOnce; split <;> rfl
@[simp] theorem Dev.postOnce_spad (d : Dev) (a k : Nat) (c : BitVec 16) (h : Nat) (u : BitVec 32) (l : List (Nat × Nat)) : (d.postOnce a k c h u l).spad = d.spad := by unfold Dev.postOnce; split <;> rfl
@[simp] theorem Dev.postOnce_slots (d : Dev) (a k : Nat) (c : BitVec 16) (h : Nat) (u : BitVec 32) (l : List (Nat × Nat)) : (d.postOnce a k c h u l).slots = d.slots := by unfold Dev.postOnce; split <;> rfl
@[simp] theorem Dev.postOnce_banks (d : Dev) (a k : Nat) (c : BitVec 16) (h : Nat) (u : BitVec 32) (l : List (Nat × Nat)) : (d.postOnce a k c h u l).banks = d.banks := by unfold Dev.postOnce; split <;> rfl
@[simp] theorem Dev.postOnce_macros (d : Dev) (a k : Nat) (c : BitVec 16) (h : Nat) (u : BitVec 32) (l : List (Nat × Nat)) : (d.postOnce a k c h u l).macros = d.macros := by unfold Dev.postOnce; split <;> rfl
@[simp] theorem Dev.postOnce_guard0 (d : Dev) (a k : Nat) (c : BitVec 16) (h : Nat) (u : BitVec 32) (l : List (Nat × Nat)) : (d.postOnce a k c h u l).guard0 = d.guard0 := by unfold Dev.postOnce; split <;> rfl
@[simp] theorem Dev.postOnce_wedges (d : Dev) (a k : Nat) (c : BitVec 16) (h : Nat) (u : BitVec 32) (l : List (Nat × Nat)) : (d.postOnce a k c h u l).wedges = d.wedges := by unfold Dev.postOnce; split <;> rfl
@[simp] theorem Dev.postOnce_quants (d : Dev) (a k : Nat) (c : BitVec 16) (h : Nat) (u : BitVec 32) (l : List (Nat × Nat)) : (d.postOnce a k c h u l).quants = d.quants := by unfold Dev.postOnce; split <;> rfl
@[simp] theorem Dev.postOnce_outVecs (d : Dev) (a k : Nat) (c : BitVec 16) (h : Nat) (u : BitVec 32) (l : List (Nat × Nat)) : (d.postOnce a k c h u l).outVecs = d.outVecs := by unfold Dev.postOnce; split <;> rfl
@[simp] theorem Dev.postOnce_spans (d : Dev) (a k : Nat) (c : BitVec 16) (h : Nat) (u : BitVec 32) (l : List (Nat × Nat)) : (d.postOnce a k c h u l).spans = d.spans := by unfold Dev.postOnce; split <;> rfl
@[simp] theorem Dev.postOnce_pairs (d : Dev) (a k : Nat) (c : BitVec 16) (h : Nat) (u : BitVec 32) (l : List (Nat × Nat)) : (d.postOnce a k c h u l).pairs = d.pairs := by unfold Dev.postOnce; split <;> rfl
@[simp] theorem Dev.postOnce_pred (d : Dev) (a k : Nat) (c : BitVec 16) (h : Nat) (u : BitVec 32) (l : List (Nat × Nat)) : (d.postOnce a k c h u l).pred = d.pred := by unfold Dev.postOnce; split <;> rfl
@[simp] theorem Dev.postOnce_issues (d : Dev) (a k : Nat) (c : BitVec 16) (h : Nat) (u : BitVec 32) (l : List (Nat × Nat)) : (d.postOnce a k c h u l).issues = d.issues := by unfold Dev.postOnce; split <;> rfl
@[simp] theorem Dev.postOnce_engines (d : Dev) (a k : Nat) (c : BitVec 16) (h : Nat) (u : BitVec 32) (l : List (Nat × Nat)) : (d.postOnce a k c h u l).engines = d.engines := by unfold Dev.postOnce; split <;> rfl
@[simp] theorem Dev.postOnce_coal (d : Dev) (a k : Nat) (c : BitVec 16) (h : Nat) (u : BitVec 32) (l : List (Nat × Nat)) : (d.postOnce a k c h u l).coal = d.coal := by unfold Dev.postOnce; split <;> rfl
@[simp] theorem Dev.postOnce_remote (d : Dev) (a k : Nat) (c : BitVec 16) (h : Nat) (u : BitVec 32) (l : List (Nat × Nat)) : (d.postOnce a k c h u l).remote = d.remote := by unfold Dev.postOnce; split <;> rfl
@[simp] theorem Dev.postOnce_waits (d : Dev) (a k : Nat) (c : BitVec 16) (h : Nat) (u : BitVec 32) (l : List (Nat × Nat)) : (d.postOnce a k c h u l).waits = d.waits := by unfold Dev.postOnce; split <;> rfl
@[simp] theorem Dev.postOnce_gone (d : Dev) (a k : Nat) (c : BitVec 16) (h : Nat) (u : BitVec 32) (l : List (Nat × Nat)) : (d.postOnce a k c h u l).gone = d.gone := by unfold Dev.postOnce; split <;> rfl
@[simp] theorem Dev.postOnce_mem (d : Dev) (a k : Nat) (c : BitVec 16) (h : Nat) (u : BitVec 32) (l : List (Nat × Nat)) : (d.postOnce a k c h u l).mem = d.mem := by unfold Dev.postOnce; split <;> rfl
@[simp] theorem Dev.postOnce_hops (d : Dev) (a k : Nat) (c : BitVec 16) (h : Nat) (u : BitVec 32) (l : List (Nat × Nat)) : (d.postOnce a k c h u l).hops = d.hops := by unfold Dev.postOnce; split <;> rfl
@[simp] theorem Dev.postOnce_frames (d : Dev) (a k : Nat) (c : BitVec 16) (h : Nat) (u : BitVec 32) (l : List (Nat × Nat)) : (d.postOnce a k c h u l).frames = d.frames := by unfold Dev.postOnce; split <;> rfl
@[simp] theorem Dev.postOnce_rooms (d : Dev) (a k : Nat) (c : BitVec 16) (h : Nat) (u : BitVec 32) (l : List (Nat × Nat)) : (d.postOnce a k c h u l).rooms = d.rooms := by unfold Dev.postOnce; split <;> rfl
@[simp] theorem Dev.postOnce_asks (d : Dev) (a k : Nat) (c : BitVec 16) (h : Nat) (u : BitVec 32) (l : List (Nat × Nat)) : (d.postOnce a k c h u l).asks = d.asks := by unfold Dev.postOnce; split <;> rfl
@[simp] theorem Dev.postOnce_links (d : Dev) (a k : Nat) (c : BitVec 16) (h : Nat) (u : BitVec 32) (l : List (Nat × Nat)) : (d.postOnce a k c h u l).links = d.links := by unfold Dev.postOnce; split <;> rfl
@[simp] theorem Dev.postOnce_bundles (d : Dev) (a k : Nat) (c : BitVec 16) (h : Nat) (u : BitVec 32) (l : List (Nat × Nat)) : (d.postOnce a k c h u l).bundles = d.bundles := by unfold Dev.postOnce; split <;> rfl
@[simp] theorem Dev.postOnce_pow (d : Dev) (a k : Nat) (c : BitVec 16) (h : Nat) (u : BitVec 32) (l : List (Nat × Nat)) : (d.postOnce a k c h u l).pow = d.pow := by unfold Dev.postOnce; split <;> rfl
@[simp] theorem Dev.postOnce_ces (d : Dev) (a k : Nat) (c : BitVec 16) (h : Nat) (u : BitVec 32) (l : List (Nat × Nat)) : (d.postOnce a k c h u l).ces = d.ces := by unfold Dev.postOnce; split <;> rfl
@[simp] theorem Dev.postOnce_vals (d : Dev) (a k : Nat) (c : BitVec 16) (h : Nat) (u : BitVec 32) (l : List (Nat × Nat)) : (d.postOnce a k c h u l).vals = d.vals := by unfold Dev.postOnce; split <;> rfl
@[simp] theorem Dev.postOnce_ctr (d : Dev) (a k : Nat) (c : BitVec 16) (h : Nat) (u : BitVec 32) (l : List (Nat × Nat)) : (d.postOnce a k c h u l).ctr = d.ctr := by unfold Dev.postOnce; split <;> rfl
@[simp] theorem Dev.postOnce_jour (d : Dev) (a k : Nat) (c : BitVec 16) (h : Nat) (u : BitVec 32) (l : List (Nat × Nat)) : (d.postOnce a k c h u l).jour = d.jour := by unfold Dev.postOnce; split <;> rfl
@[simp] theorem Dev.postOnce_tam (d : Dev) (a k : Nat) (c : BitVec 16) (h : Nat) (u : BitVec 32) (l : List (Nat × Nat)) : (d.postOnce a k c h u l).tam = d.tam := by unfold Dev.postOnce; split <;> rfl
@[simp] theorem Dev.postOnce_sec (d : Dev) (a k : Nat) (c : BitVec 16) (h : Nat) (u : BitVec 32) (l : List (Nat × Nat)) : (d.postOnce a k c h u l).sec = d.sec := by unfold Dev.postOnce; split <;> rfl

/-! ### msix -/

@[simp] theorem Dev.msix_free (d : Dev) (p n : Nat) : (d.msix p n).free = d.free := by simp only [Dev.msix]; split <;> rfl
@[simp] theorem Dev.msix_marks (d : Dev) (p n : Nat) : (d.msix p n).marks = d.marks := by simp only [Dev.msix]; split <;> rfl
@[simp] theorem Dev.msix_hubTimer (d : Dev) (p n : Nat) : (d.msix p n).hubTimer = d.hubTimer := by simp only [Dev.msix]; split <;> rfl
@[simp] theorem Dev.msix_stbyTimer (d : Dev) (p n : Nat) : (d.msix p n).stbyTimer = d.stbyTimer := by simp only [Dev.msix]; split <;> rfl
@[simp] theorem Dev.msix_seq (d : Dev) (p n : Nat) : (d.msix p n).seq = d.seq := by simp only [Dev.msix]; split <;> rfl
@[simp] theorem Dev.msix_cmds (d : Dev) (p n : Nat) : (d.msix p n).cmds = d.cmds := by simp only [Dev.msix]; split <;> rfl
@[simp] theorem Dev.msix_nextCmd (d : Dev) (p n : Nat) : (d.msix p n).nextCmd = d.nextCmd := by simp only [Dev.msix]; split <;> rfl
@[simp] theorem Dev.msix_comps (d : Dev) (p n : Nat) : (d.msix p n).comps = d.comps := by simp only [Dev.msix]; split <;> rfl
@[simp] theorem Dev.msix_allocs (d : Dev) (p n : Nat) : (d.msix p n).allocs = d.allocs := by simp only [Dev.msix]; split <;> rfl
@[simp] theorem Dev.msix_allocIdx (d : Dev) (p n : Nat) : (d.msix p n).allocIdx = d.allocIdx := by simp only [Dev.msix]; split <;> rfl
@[simp] theorem Dev.msix_usedFrames (d : Dev) (p n : Nat) : (d.msix p n).usedFrames = d.usedFrames := by simp only [Dev.msix]; split <;> rfl
@[simp] theorem Dev.msix_descs (d : Dev) (p n : Nat) : (d.msix p n).descs = d.descs := by simp only [Dev.msix]; split <;> rfl
@[simp] theorem Dev.msix_descIdx (d : Dev) (p n : Nat) : (d.msix p n).descIdx = d.descIdx := by simp only [Dev.msix]; split <;> rfl
@[simp] theorem Dev.msix_mats (d : Dev) (p n : Nat) : (d.msix p n).mats = d.mats := by simp only [Dev.msix]; split <;> rfl
@[simp] theorem Dev.msix_matIdx (d : Dev) (p n : Nat) : (d.msix p n).matIdx = d.matIdx := by simp only [Dev.msix]; split <;> rfl
@[simp] theorem Dev.msix_matReserved (d : Dev) (p n : Nat) : (d.msix p n).matReserved = d.matReserved := by simp only [Dev.msix]; split <;> rfl
@[simp] theorem Dev.msix_loads (d : Dev) (p n : Nat) : (d.msix p n).loads = d.loads := by simp only [Dev.msix]; split <;> rfl
@[simp] theorem Dev.msix_swaps (d : Dev) (p n : Nat) : (d.msix p n).swaps = d.swaps := by simp only [Dev.msix]; split <;> rfl
@[simp] theorem Dev.msix_progs (d : Dev) (p n : Nat) : (d.msix p n).progs = d.progs := by simp only [Dev.msix]; split <;> rfl
@[simp] theorem Dev.msix_progIdx (d : Dev) (p n : Nat) : (d.msix p n).progIdx = d.progIdx := by simp only [Dev.msix]; split <;> rfl
@[simp] theorem Dev.msix_jobs (d : Dev) (p n : Nat) : (d.msix p n).jobs = d.jobs := by simp only [Dev.msix]; split <;> rfl
@[simp] theorem Dev.msix_nextJob (d : Dev) (p n : Nat) : (d.msix p n).nextJob = d.nextJob := by simp only [Dev.msix]; split <;> rfl
@[simp] theorem Dev.msix_tiles (d : Dev) (p n : Nat) : (d.msix p n).tiles = d.tiles := by simp only [Dev.msix]; split <;> rfl
@[simp] theorem Dev.msix_nextTile (d : Dev) (p n : Nat) : (d.msix p n).nextTile = d.nextTile := by simp only [Dev.msix]; split <;> rfl
@[simp] theorem Dev.msix_spad (d : Dev) (p n : Nat) : (d.msix p n).spad = d.spad := by simp only [Dev.msix]; split <;> rfl
@[simp] theorem Dev.msix_slots (d : Dev) (p n : Nat) : (d.msix p n).slots = d.slots := by simp only [Dev.msix]; split <;> rfl
@[simp] theorem Dev.msix_banks (d : Dev) (p n : Nat) : (d.msix p n).banks = d.banks := by simp only [Dev.msix]; split <;> rfl
@[simp] theorem Dev.msix_macros (d : Dev) (p n : Nat) : (d.msix p n).macros = d.macros := by simp only [Dev.msix]; split <;> rfl
@[simp] theorem Dev.msix_guard0 (d : Dev) (p n : Nat) : (d.msix p n).guard0 = d.guard0 := by simp only [Dev.msix]; split <;> rfl
@[simp] theorem Dev.msix_wedges (d : Dev) (p n : Nat) : (d.msix p n).wedges = d.wedges := by simp only [Dev.msix]; split <;> rfl
@[simp] theorem Dev.msix_quants (d : Dev) (p n : Nat) : (d.msix p n).quants = d.quants := by simp only [Dev.msix]; split <;> rfl
@[simp] theorem Dev.msix_outVecs (d : Dev) (p n : Nat) : (d.msix p n).outVecs = d.outVecs := by simp only [Dev.msix]; split <;> rfl
@[simp] theorem Dev.msix_spans (d : Dev) (p n : Nat) : (d.msix p n).spans = d.spans := by simp only [Dev.msix]; split <;> rfl
@[simp] theorem Dev.msix_pairs (d : Dev) (p n : Nat) : (d.msix p n).pairs = d.pairs := by simp only [Dev.msix]; split <;> rfl
@[simp] theorem Dev.msix_pred (d : Dev) (p n : Nat) : (d.msix p n).pred = d.pred := by simp only [Dev.msix]; split <;> rfl
@[simp] theorem Dev.msix_issues (d : Dev) (p n : Nat) : (d.msix p n).issues = d.issues := by simp only [Dev.msix]; split <;> rfl
@[simp] theorem Dev.msix_engines (d : Dev) (p n : Nat) : (d.msix p n).engines = d.engines := by simp only [Dev.msix]; split <;> rfl
@[simp] theorem Dev.msix_coal (d : Dev) (p n : Nat) : (d.msix p n).coal = d.coal := by simp only [Dev.msix]; split <;> rfl
@[simp] theorem Dev.msix_remote (d : Dev) (p n : Nat) : (d.msix p n).remote = d.remote := by simp only [Dev.msix]; split <;> rfl
@[simp] theorem Dev.msix_waits (d : Dev) (p n : Nat) : (d.msix p n).waits = d.waits := by simp only [Dev.msix]; split <;> rfl
@[simp] theorem Dev.msix_gone (d : Dev) (p n : Nat) : (d.msix p n).gone = d.gone := by simp only [Dev.msix]; split <;> rfl
@[simp] theorem Dev.msix_mem (d : Dev) (p n : Nat) : (d.msix p n).mem = d.mem := by simp only [Dev.msix]; split <;> rfl
@[simp] theorem Dev.msix_hops (d : Dev) (p n : Nat) : (d.msix p n).hops = d.hops := by simp only [Dev.msix]; split <;> rfl
@[simp] theorem Dev.msix_frames (d : Dev) (p n : Nat) : (d.msix p n).frames = d.frames := by simp only [Dev.msix]; split <;> rfl
@[simp] theorem Dev.msix_rooms (d : Dev) (p n : Nat) : (d.msix p n).rooms = d.rooms := by simp only [Dev.msix]; split <;> rfl
@[simp] theorem Dev.msix_asks (d : Dev) (p n : Nat) : (d.msix p n).asks = d.asks := by simp only [Dev.msix]; split <;> rfl
@[simp] theorem Dev.msix_links (d : Dev) (p n : Nat) : (d.msix p n).links = d.links := by simp only [Dev.msix]; split <;> rfl
@[simp] theorem Dev.msix_bundles (d : Dev) (p n : Nat) : (d.msix p n).bundles = d.bundles := by simp only [Dev.msix]; split <;> rfl
@[simp] theorem Dev.msix_pow (d : Dev) (p n : Nat) : (d.msix p n).pow = d.pow := by simp only [Dev.msix]; split <;> rfl
@[simp] theorem Dev.msix_ces (d : Dev) (p n : Nat) : (d.msix p n).ces = d.ces := by simp only [Dev.msix]; split <;> rfl
@[simp] theorem Dev.msix_log (d : Dev) (p n : Nat) : (d.msix p n).log = d.log := by simp only [Dev.msix]; split <;> rfl
@[simp] theorem Dev.msix_vals (d : Dev) (p n : Nat) : (d.msix p n).vals = d.vals := by simp only [Dev.msix]; split <;> rfl
@[simp] theorem Dev.msix_ctr (d : Dev) (p n : Nat) : (d.msix p n).ctr = d.ctr := by simp only [Dev.msix]; split <;> rfl
@[simp] theorem Dev.msix_jour (d : Dev) (p n : Nat) : (d.msix p n).jour = d.jour := by simp only [Dev.msix]; split <;> rfl
@[simp] theorem Dev.msix_tam (d : Dev) (p n : Nat) : (d.msix p n).tam = d.tam := by simp only [Dev.msix]; split <;> rfl
@[simp] theorem Dev.msix_sec (d : Dev) (p n : Nat) : (d.msix p n).sec = d.sec := by simp only [Dev.msix]; split <;> rfl

/-! ### finish -/

@[simp] theorem Dev.finish_free (d : Dev) (i : Nat) (a b : BitVec 8) (c : Bool) (r : BitVec 64) : (d.finish i a b c r).free = d.free := by
  simp only [Dev.finish]; (repeat' split) <;> rfl
@[simp] theorem Dev.finish_out (d : Dev) (i : Nat) (a b : BitVec 8) (c : Bool) (r : BitVec 64) : (d.finish i a b c r).out = d.out := by
  simp only [Dev.finish]; (repeat' split) <;> rfl
@[simp] theorem Dev.finish_marks (d : Dev) (i : Nat) (a b : BitVec 8) (c : Bool) (r : BitVec 64) : (d.finish i a b c r).marks = d.marks := by
  simp only [Dev.finish]; (repeat' split) <;> rfl
@[simp] theorem Dev.finish_hubTimer (d : Dev) (i : Nat) (a b : BitVec 8) (c : Bool) (r : BitVec 64) : (d.finish i a b c r).hubTimer = d.hubTimer := by
  simp only [Dev.finish]; (repeat' split) <;> rfl
@[simp] theorem Dev.finish_stbyTimer (d : Dev) (i : Nat) (a b : BitVec 8) (c : Bool) (r : BitVec 64) : (d.finish i a b c r).stbyTimer = d.stbyTimer := by
  simp only [Dev.finish]; (repeat' split) <;> rfl
@[simp] theorem Dev.finish_seq (d : Dev) (i : Nat) (a b : BitVec 8) (c : Bool) (r : BitVec 64) : (d.finish i a b c r).seq = d.seq := by
  simp only [Dev.finish]; (repeat' split) <;> rfl
@[simp] theorem Dev.finish_ports (d : Dev) (i : Nat) (a b : BitVec 8) (c : Bool) (r : BitVec 64) : (d.finish i a b c r).ports = d.ports := by
  simp only [Dev.finish]; (repeat' split) <;> rfl
@[simp] theorem Dev.finish_nextCmd (d : Dev) (i : Nat) (a b : BitVec 8) (c : Bool) (r : BitVec 64) : (d.finish i a b c r).nextCmd = d.nextCmd := by
  simp only [Dev.finish]; (repeat' split) <;> rfl
@[simp] theorem Dev.finish_allocs (d : Dev) (i : Nat) (a b : BitVec 8) (c : Bool) (r : BitVec 64) : (d.finish i a b c r).allocs = d.allocs := by
  simp only [Dev.finish]; (repeat' split) <;> rfl
@[simp] theorem Dev.finish_allocIdx (d : Dev) (i : Nat) (a b : BitVec 8) (c : Bool) (r : BitVec 64) : (d.finish i a b c r).allocIdx = d.allocIdx := by
  simp only [Dev.finish]; (repeat' split) <;> rfl
@[simp] theorem Dev.finish_usedFrames (d : Dev) (i : Nat) (a b : BitVec 8) (c : Bool) (r : BitVec 64) : (d.finish i a b c r).usedFrames = d.usedFrames := by
  simp only [Dev.finish]; (repeat' split) <;> rfl
@[simp] theorem Dev.finish_descs (d : Dev) (i : Nat) (a b : BitVec 8) (c : Bool) (r : BitVec 64) : (d.finish i a b c r).descs = d.descs := by
  simp only [Dev.finish]; (repeat' split) <;> rfl
@[simp] theorem Dev.finish_descIdx (d : Dev) (i : Nat) (a b : BitVec 8) (c : Bool) (r : BitVec 64) : (d.finish i a b c r).descIdx = d.descIdx := by
  simp only [Dev.finish]; (repeat' split) <;> rfl
@[simp] theorem Dev.finish_mats (d : Dev) (i : Nat) (a b : BitVec 8) (c : Bool) (r : BitVec 64) : (d.finish i a b c r).mats = d.mats := by
  simp only [Dev.finish]; (repeat' split) <;> rfl
@[simp] theorem Dev.finish_matIdx (d : Dev) (i : Nat) (a b : BitVec 8) (c : Bool) (r : BitVec 64) : (d.finish i a b c r).matIdx = d.matIdx := by
  simp only [Dev.finish]; (repeat' split) <;> rfl
@[simp] theorem Dev.finish_matReserved (d : Dev) (i : Nat) (a b : BitVec 8) (c : Bool) (r : BitVec 64) : (d.finish i a b c r).matReserved = d.matReserved := by
  simp only [Dev.finish]; (repeat' split) <;> rfl
@[simp] theorem Dev.finish_loads (d : Dev) (i : Nat) (a b : BitVec 8) (c : Bool) (r : BitVec 64) : (d.finish i a b c r).loads = d.loads := by
  simp only [Dev.finish]; (repeat' split) <;> rfl
@[simp] theorem Dev.finish_swaps (d : Dev) (i : Nat) (a b : BitVec 8) (c : Bool) (r : BitVec 64) : (d.finish i a b c r).swaps = d.swaps := by
  simp only [Dev.finish]; (repeat' split) <;> rfl
@[simp] theorem Dev.finish_progs (d : Dev) (i : Nat) (a b : BitVec 8) (c : Bool) (r : BitVec 64) : (d.finish i a b c r).progs = d.progs := by
  simp only [Dev.finish]; (repeat' split) <;> rfl
@[simp] theorem Dev.finish_progIdx (d : Dev) (i : Nat) (a b : BitVec 8) (c : Bool) (r : BitVec 64) : (d.finish i a b c r).progIdx = d.progIdx := by
  simp only [Dev.finish]; (repeat' split) <;> rfl
@[simp] theorem Dev.finish_jobs (d : Dev) (i : Nat) (a b : BitVec 8) (c : Bool) (r : BitVec 64) : (d.finish i a b c r).jobs = d.jobs := by
  simp only [Dev.finish]; (repeat' split) <;> rfl
@[simp] theorem Dev.finish_nextJob (d : Dev) (i : Nat) (a b : BitVec 8) (c : Bool) (r : BitVec 64) : (d.finish i a b c r).nextJob = d.nextJob := by
  simp only [Dev.finish]; (repeat' split) <;> rfl
@[simp] theorem Dev.finish_tiles (d : Dev) (i : Nat) (a b : BitVec 8) (c : Bool) (r : BitVec 64) : (d.finish i a b c r).tiles = d.tiles := by
  simp only [Dev.finish]; (repeat' split) <;> rfl
@[simp] theorem Dev.finish_nextTile (d : Dev) (i : Nat) (a b : BitVec 8) (c : Bool) (r : BitVec 64) : (d.finish i a b c r).nextTile = d.nextTile := by
  simp only [Dev.finish]; (repeat' split) <;> rfl
@[simp] theorem Dev.finish_spad (d : Dev) (i : Nat) (a b : BitVec 8) (c : Bool) (r : BitVec 64) : (d.finish i a b c r).spad = d.spad := by
  simp only [Dev.finish]; (repeat' split) <;> rfl
@[simp] theorem Dev.finish_slots (d : Dev) (i : Nat) (a b : BitVec 8) (c : Bool) (r : BitVec 64) : (d.finish i a b c r).slots = d.slots := by
  simp only [Dev.finish]; (repeat' split) <;> rfl
@[simp] theorem Dev.finish_banks (d : Dev) (i : Nat) (a b : BitVec 8) (c : Bool) (r : BitVec 64) : (d.finish i a b c r).banks = d.banks := by
  simp only [Dev.finish]; (repeat' split) <;> rfl
@[simp] theorem Dev.finish_macros (d : Dev) (i : Nat) (a b : BitVec 8) (c : Bool) (r : BitVec 64) : (d.finish i a b c r).macros = d.macros := by
  simp only [Dev.finish]; (repeat' split) <;> rfl
@[simp] theorem Dev.finish_guard0 (d : Dev) (i : Nat) (a b : BitVec 8) (c : Bool) (r : BitVec 64) : (d.finish i a b c r).guard0 = d.guard0 := by
  simp only [Dev.finish]; (repeat' split) <;> rfl
@[simp] theorem Dev.finish_wedges (d : Dev) (i : Nat) (a b : BitVec 8) (c : Bool) (r : BitVec 64) : (d.finish i a b c r).wedges = d.wedges := by
  simp only [Dev.finish]; (repeat' split) <;> rfl
@[simp] theorem Dev.finish_quants (d : Dev) (i : Nat) (a b : BitVec 8) (c : Bool) (r : BitVec 64) : (d.finish i a b c r).quants = d.quants := by
  simp only [Dev.finish]; (repeat' split) <;> rfl
@[simp] theorem Dev.finish_outVecs (d : Dev) (i : Nat) (a b : BitVec 8) (c : Bool) (r : BitVec 64) : (d.finish i a b c r).outVecs = d.outVecs := by
  simp only [Dev.finish]; (repeat' split) <;> rfl
@[simp] theorem Dev.finish_spans (d : Dev) (i : Nat) (a b : BitVec 8) (c : Bool) (r : BitVec 64) : (d.finish i a b c r).spans = d.spans := by
  simp only [Dev.finish]; (repeat' split) <;> rfl
@[simp] theorem Dev.finish_pairs (d : Dev) (i : Nat) (a b : BitVec 8) (c : Bool) (r : BitVec 64) : (d.finish i a b c r).pairs = d.pairs := by
  simp only [Dev.finish]; (repeat' split) <;> rfl
@[simp] theorem Dev.finish_pred (d : Dev) (i : Nat) (a b : BitVec 8) (c : Bool) (r : BitVec 64) : (d.finish i a b c r).pred = d.pred := by
  simp only [Dev.finish]; (repeat' split) <;> rfl
@[simp] theorem Dev.finish_issues (d : Dev) (i : Nat) (a b : BitVec 8) (c : Bool) (r : BitVec 64) : (d.finish i a b c r).issues = d.issues := by
  simp only [Dev.finish]; (repeat' split) <;> rfl
@[simp] theorem Dev.finish_engines (d : Dev) (i : Nat) (a b : BitVec 8) (c : Bool) (r : BitVec 64) : (d.finish i a b c r).engines = d.engines := by
  simp only [Dev.finish]; (repeat' split) <;> rfl
@[simp] theorem Dev.finish_coal (d : Dev) (i : Nat) (a b : BitVec 8) (c : Bool) (r : BitVec 64) : (d.finish i a b c r).coal = d.coal := by
  simp only [Dev.finish]; (repeat' split) <;> rfl
@[simp] theorem Dev.finish_remote (d : Dev) (i : Nat) (a b : BitVec 8) (c : Bool) (r : BitVec 64) : (d.finish i a b c r).remote = d.remote := by
  simp only [Dev.finish]; (repeat' split) <;> rfl
@[simp] theorem Dev.finish_waits (d : Dev) (i : Nat) (a b : BitVec 8) (c : Bool) (r : BitVec 64) : (d.finish i a b c r).waits = d.waits := by
  simp only [Dev.finish]; (repeat' split) <;> rfl
@[simp] theorem Dev.finish_gone (d : Dev) (i : Nat) (a b : BitVec 8) (c : Bool) (r : BitVec 64) : (d.finish i a b c r).gone = d.gone := by
  simp only [Dev.finish]; (repeat' split) <;> rfl
@[simp] theorem Dev.finish_mem (d : Dev) (i : Nat) (a b : BitVec 8) (c : Bool) (r : BitVec 64) : (d.finish i a b c r).mem = d.mem := by
  simp only [Dev.finish]; (repeat' split) <;> rfl
@[simp] theorem Dev.finish_hops (d : Dev) (i : Nat) (a b : BitVec 8) (c : Bool) (r : BitVec 64) : (d.finish i a b c r).hops = d.hops := by
  simp only [Dev.finish]; (repeat' split) <;> rfl
@[simp] theorem Dev.finish_frames (d : Dev) (i : Nat) (a b : BitVec 8) (c : Bool) (r : BitVec 64) : (d.finish i a b c r).frames = d.frames := by
  simp only [Dev.finish]; (repeat' split) <;> rfl
@[simp] theorem Dev.finish_rooms (d : Dev) (i : Nat) (a b : BitVec 8) (c : Bool) (r : BitVec 64) : (d.finish i a b c r).rooms = d.rooms := by
  simp only [Dev.finish]; (repeat' split) <;> rfl
@[simp] theorem Dev.finish_asks (d : Dev) (i : Nat) (a b : BitVec 8) (c : Bool) (r : BitVec 64) : (d.finish i a b c r).asks = d.asks := by
  simp only [Dev.finish]; (repeat' split) <;> rfl
@[simp] theorem Dev.finish_links (d : Dev) (i : Nat) (a b : BitVec 8) (c : Bool) (r : BitVec 64) : (d.finish i a b c r).links = d.links := by
  simp only [Dev.finish]; (repeat' split) <;> rfl
@[simp] theorem Dev.finish_bundles (d : Dev) (i : Nat) (a b : BitVec 8) (c : Bool) (r : BitVec 64) : (d.finish i a b c r).bundles = d.bundles := by
  simp only [Dev.finish]; (repeat' split) <;> rfl
@[simp] theorem Dev.finish_pow (d : Dev) (i : Nat) (a b : BitVec 8) (c : Bool) (r : BitVec 64) : (d.finish i a b c r).pow = d.pow := by
  simp only [Dev.finish]; (repeat' split) <;> rfl
@[simp] theorem Dev.finish_ces (d : Dev) (i : Nat) (a b : BitVec 8) (c : Bool) (r : BitVec 64) : (d.finish i a b c r).ces = d.ces := by
  simp only [Dev.finish]; (repeat' split) <;> rfl
@[simp] theorem Dev.finish_log (d : Dev) (i : Nat) (a b : BitVec 8) (c : Bool) (r : BitVec 64) : (d.finish i a b c r).log = d.log := by
  simp only [Dev.finish]; (repeat' split) <;> rfl
@[simp] theorem Dev.finish_vals (d : Dev) (i : Nat) (a b : BitVec 8) (c : Bool) (r : BitVec 64) : (d.finish i a b c r).vals = d.vals := by
  simp only [Dev.finish]; (repeat' split) <;> rfl
@[simp] theorem Dev.finish_jour (d : Dev) (i : Nat) (a b : BitVec 8) (c : Bool) (r : BitVec 64) : (d.finish i a b c r).jour = d.jour := by
  simp only [Dev.finish]; (repeat' split) <;> rfl
@[simp] theorem Dev.finish_tam (d : Dev) (i : Nat) (a b : BitVec 8) (c : Bool) (r : BitVec 64) : (d.finish i a b c r).tam = d.tam := by
  simp only [Dev.finish]; (repeat' split) <;> rfl
@[simp] theorem Dev.finish_sec (d : Dev) (i : Nat) (a b : BitVec 8) (c : Bool) (r : BitVec 64) : (d.finish i a b c r).sec = d.sec := by
  simp only [Dev.finish]; (repeat' split) <;> rfl

end Sys2Proof.Machine
end

