-- ==== Sys2Proof/Laws/Ops.lean ====
section
/-!
SUPPORT. What each shared operation does, said once: a unit's record after a write of it, and every other unit's; a counter
after it has been raised; a command after it has ended.
-/
namespace Sys2Proof.Machine

open Sys2Proof

/-! ### One unit's record -/

@[simp] theorem Dev.mac_setMac_same (d : Dev) (m : Nat) (x : Macro) : (d.setMac m x).mac m = x := by simp [Dev.mac, Dev.setMac]
theorem Dev.mac_setMac_other (d : Dev) {m j : Nat} (x : Macro) (h_ne : j ≠ m) : (d.setMac m x).mac j = d.mac j := by
  simp [Dev.mac, Dev.setMac, tget_tput_other _ _ _ h_ne]
@[simp] theorem Dev.mac_modMac_same (d : Dev) (m : Nat) (f : Macro → Macro) : (d.modMac m f).mac m = f (d.mac m) := by simp [Dev.modMac]
theorem Dev.mac_modMac_other (d : Dev) {m j : Nat} (f : Macro → Macro) (h_ne : j ≠ m) : (d.modMac m f).mac j = d.mac j := by
  simp [Dev.modMac, Dev.mac_setMac_other d _ h_ne]
@[simp] theorem Dev.wedge_setWedge_same (d : Dev) (w : Nat) (x : Wedge) : (d.setWedge w x).wedge w = x := by simp [Dev.wedge, Dev.setWedge]
theorem Dev.wedge_setWedge_other (d : Dev) {w j : Nat} (x : Wedge) (h_ne : j ≠ w) : (d.setWedge w x).wedge j = d.wedge j := by
  simp [Dev.wedge, Dev.setWedge, tget_tput_other _ _ _ h_ne]
@[simp] theorem Dev.wedge_modWedge_same (d : Dev) (w : Nat) (f : Wedge → Wedge) : (d.modWedge w f).wedge w = f (d.wedge w) := by simp [Dev.modWedge]
theorem Dev.wedge_modWedge_other (d : Dev) {w j : Nat} (f : Wedge → Wedge) (h_ne : j ≠ w) : (d.modWedge w f).wedge j = d.wedge j := by
  simp [Dev.modWedge, Dev.wedge_setWedge_other d _ h_ne]
@[simp] theorem Dev.port_setPort_same (d : Dev) (p : Nat) (x : HostPort) : (d.setPort p x).port p = x := by simp [Dev.port, Dev.setPort]
theorem Dev.port_setPort_other (d : Dev) {p j : Nat} (x : HostPort) (h_ne : j ≠ p) : (d.setPort p x).port j = d.port j := by
  simp [Dev.port, Dev.setPort, tget_tput_other _ _ _ h_ne]
@[simp] theorem Dev.port_modPort_same (d : Dev) (p : Nat) (f : HostPort → HostPort) : (d.modPort p f).port p = f (d.port p) := by simp [Dev.modPort]
theorem Dev.port_modPort_other (d : Dev) {p j : Nat} (f : HostPort → HostPort) (h_ne : j ≠ p) : (d.modPort p f).port j = d.port j := by
  simp [Dev.modPort, Dev.port_setPort_other d _ h_ne]
@[simp] theorem Dev.engine_setEngine_same (d : Dev) (e : Nat) (x : Engine) : (d.setEngine e x).engine e = x := by simp [Dev.engine, Dev.setEngine]
theorem Dev.engine_setEngine_other (d : Dev) {e j : Nat} (x : Engine) (h_ne : j ≠ e) : (d.setEngine e x).engine j = d.engine j := by
  simp [Dev.engine, Dev.setEngine, tget_tput_other _ _ _ h_ne]
@[simp] theorem Dev.engine_modEngine_same (d : Dev) (e : Nat) (f : Engine → Engine) : (d.modEngine e f).engine e = f (d.engine e) := by simp [Dev.modEngine]
theorem Dev.engine_modEngine_other (d : Dev) {e j : Nat} (f : Engine → Engine) (h_ne : j ≠ e) : (d.modEngine e f).engine j = d.engine j := by
  simp [Dev.modEngine, Dev.engine_setEngine_other d _ h_ne]
@[simp] theorem Dev.quant_setQuant_same (d : Dev) (q : Nat) (x : Quant) : (d.setQuant q x).quant q = x := by simp [Dev.quant, Dev.setQuant]
theorem Dev.quant_setQuant_other (d : Dev) {q j : Nat} (x : Quant) (h_ne : j ≠ q) : (d.setQuant q x).quant j = d.quant j := by
  simp [Dev.quant, Dev.setQuant, tget_tput_other _ _ _ h_ne]
@[simp] theorem Dev.quant_modQuant_same (d : Dev) (q : Nat) (f : Quant → Quant) : (d.modQuant q f).quant q = f (d.quant q) := by simp [Dev.modQuant]
theorem Dev.quant_modQuant_other (d : Dev) {q j : Nat} (f : Quant → Quant) (h_ne : j ≠ q) : (d.modQuant q f).quant j = d.quant j := by
  simp [Dev.modQuant, Dev.quant_setQuant_other d _ h_ne]
@[simp] theorem Dev.link_setLink_same (d : Dev) (l : Nat) (x : Link) : (d.setLink l x).link l = x := by simp [Dev.link, Dev.setLink]
theorem Dev.link_setLink_other (d : Dev) {l j : Nat} (x : Link) (h_ne : j ≠ l) : (d.setLink l x).link j = d.link j := by
  simp [Dev.link, Dev.setLink, tget_tput_other _ _ _ h_ne]
@[simp] theorem Dev.link_modLink_same (d : Dev) (l : Nat) (f : Link → Link) : (d.modLink l f).link l = f (d.link l) := by simp [Dev.modLink]
theorem Dev.link_modLink_other (d : Dev) {l j : Nat} (f : Link → Link) (h_ne : j ≠ l) : (d.modLink l f).link j = d.link j := by
  simp [Dev.modLink, Dev.link_setLink_other d _ h_ne]
@[simp] theorem Dev.dom_setDom_same (d : Dev) (k : Nat) (x : Dom) : (d.setDom k x).dom k = x := by simp [Dev.dom, Dev.setDom]
theorem Dev.dom_setDom_other (d : Dev) {k j : Nat} (x : Dom) (h_ne : j ≠ k) : (d.setDom k x).dom j = d.dom j := by
  simp [Dev.dom, Dev.setDom, tget_tput_other _ _ _ h_ne]
@[simp] theorem Dev.dom_modDom_same (d : Dev) (k : Nat) (f : Dom → Dom) : (d.modDom k f).dom k = f (d.dom k) := by simp [Dev.modDom]
theorem Dev.dom_modDom_other (d : Dev) {k j : Nat} (f : Dom → Dom) (h_ne : j ≠ k) : (d.modDom k f).dom j = d.dom j := by
  simp [Dev.modDom, Dev.dom_setDom_other d _ h_ne]
@[simp] theorem Dev.region_setRegion_same (d : Dev) (h : Nat) (x : Region) : (d.setRegion h x).region h = x := by simp [Dev.region, Dev.setRegion]
theorem Dev.region_setRegion_other (d : Dev) {h j : Nat} (x : Region) (h_ne : j ≠ h) : (d.setRegion h x).region j = d.region j := by
  simp [Dev.region, Dev.setRegion, tget_tput_other _ _ _ h_ne]
@[simp] theorem Dev.region_modRegion_same (d : Dev) (h : Nat) (f : Region → Region) : (d.modRegion h f).region h = f (d.region h) := by simp [Dev.modRegion]
theorem Dev.region_modRegion_other (d : Dev) {h j : Nat} (f : Region → Region) (h_ne : j ≠ h) : (d.modRegion h f).region j = d.region j := by
  simp [Dev.modRegion, Dev.region_setRegion_other d _ h_ne]
@[simp] theorem Dev.ce_setCe_same (d : Dev) (n : Nat) (x : CheckEngine) : (d.setCe n x).ce n = x := by simp [Dev.ce, Dev.setCe]
theorem Dev.ce_setCe_other (d : Dev) {n j : Nat} (x : CheckEngine) (h_ne : j ≠ n) : (d.setCe n x).ce j = d.ce j := by
  simp [Dev.ce, Dev.setCe, tget_tput_other _ _ _ h_ne]
@[simp] theorem Dev.sbank_setSbank_same (d : Dev) (c : Nat) (x : SpadBank) : (d.setSbank c x).sbank c = x := by simp [Dev.sbank, Dev.setSbank]
theorem Dev.sbank_setSbank_other (d : Dev) {c j : Nat} (x : SpadBank) (h_ne : j ≠ c) : (d.setSbank c x).sbank j = d.sbank j := by
  simp [Dev.sbank, Dev.setSbank, tget_tput_other _ _ _ h_ne]

/-! ### Queues and lanes -/

@[simp] theorem Dev.queue_setQueue_same (d : Dev) (p q : Nat) (x : Queue) : (d.setQueue p q x).queue p q = x := by
  simp [Dev.queue, Dev.setQueue]

theorem Dev.queue_setQueue_other (d : Dev) {p q p' q' : Nat} (x : Queue) (h_ne : ¬(p' = p ∧ q' = q)) :
    (d.setQueue p q x).queue p' q' = d.queue p' q' := by
  by_cases hp : p' = p
  · subst hp
    have hq : q' ≠ q := fun h => h_ne ⟨rfl, h⟩
    simp [Dev.queue, Dev.setQueue, tget_tput_other _ _ _ hq]
  · simp [Dev.queue, Dev.setQueue, Dev.port_modPort_other d _ hp]

/-- A write of a queue pair changes nothing else of any port. -/
theorem Dev.onlyQueue_setQueue (d : Dev) (p q : Nat) (x : Queue) : OnlyQueue d (d.setQueue p q x) p q := by
  refine ⟨fun p' => ?_, fun p' q' h => d.queue_setQueue_other x h⟩
  by_cases hp : p' = p
  · subst hp
    simp [Dev.setQueue]
  · simp [Dev.setQueue, Dev.port_modPort_other d _ hp]

@[simp] theorem Dev.lane_setLane_same (d : Dev) (e n : Nat) (x : Lane) : (d.setLane e n x).lane e n = x := by
  simp [Dev.lane, Dev.setLane]

theorem Dev.lane_setLane_other (d : Dev) {e n e' n' : Nat} (x : Lane) (h_ne : ¬(e' = e ∧ n' = n)) :
    (d.setLane e n x).lane e' n' = d.lane e' n' := by
  by_cases he : e' = e
  · subst he
    have hn : n' ≠ n := fun h => h_ne ⟨rfl, h⟩
    simp [Dev.lane, Dev.setLane, tget_tput_other _ _ _ hn]
  · simp [Dev.lane, Dev.setLane, Dev.engine_modEngine_other d _ he]

/-! ### Counters, events and free values -/

/-- Raising a counter raises that counter alone. -/
theorem Dev.counted_count (d : Dev) (idx sub n : Nat) : Counted d (d.count idx sub n) idx sub n := by
  intro k
  by_cases hk : k = odKey idx sub
  · subst hk
    simp [Dev.count]
  · simp [Dev.count, tget_tmod_other 0 d.ctr _ hk, hk]

/-- Posting an event appends it to those on their way and numbers it. -/
theorem Dev.posted_post (d : Dev) (code : BitVec 16) (hub : Nat) (unit : BitVec 32) (vals : List (Nat × Nat)) :
    Posted d (d.post code hub unit vals) code hub unit vals := rfl

/-! ### Commands -/

/-- A command that may start is in flight, has the opcode, and waits for nothing ahead of it. -/
theorem Dev.starting_cases {d : Dev} {id opc : Nat} {c : Cmd} (h : d.starting id opc = some c) :
    d.cmdOf id = some c ∧ c.opc = opc ∧ d.mayStart c = true := by
  unfold Dev.starting at h
  split at h
  · rename_i x hx
    split at h
    · rename_i hc
      cases h
      exact ⟨hx, hc.1, hc.2⟩
    · cases h
  · cases h

/-- The command that a number names has that number. -/
theorem Dev.cmdOf_id {d : Dev} {id : Nat} {c : Cmd} (h : d.cmdOf id = some c) : c.id = id ∧ c ∈ d.cmds := by
  have h1 := List.find?_some h
  exact ⟨by simpa using h1, List.mem_of_find?_eq_some h⟩

/-- A command that ends with a status other than HOST_ACCESS leaves the commands in flight, and its completion waits; nothing else changes. -/
theorem Dev.finish_of_cmdOf {d : Dev} {id : Nat} {c : Cmd} (h : d.cmdOf id = some c) {st : BitVec 8} (hs : st ≠ stHostAccess)
    (detail : BitVec 8) (smiss : Bool) (result : BitVec 64) :
    d.finish id st detail smiss result =
      { d with cmds := d.cmds.filter (fun e => e.id != id),
               comps := d.comps ++ [{ port := c.port, q := c.q, cid := c.cid, status := st, detail := detail, smiss := smiss,
                                      result := result }] } := by
  simp [Dev.finish, h, hs]

/-- A command that succeeds has ended with SUCCESS. -/
theorem Dev.ended_succeeds {d : Dev} {id : Nat} {c : Cmd} (h : d.cmdOf id = some c) (result : Nat) :
    Ended d (d.succeeds id result) c stSuccess 0 result := by
  have hid := (Dev.cmdOf_id h).1
  subst hid
  rw [Dev.succeeds, Dev.finish_of_cmdOf h (by decide)]
  exact ⟨rfl, rfl⟩

/-- A command that fails with a status other than HOST_ACCESS has ended with it. -/
theorem Dev.ended_fails {d : Dev} {id : Nat} {c : Cmd} (h : d.cmdOf id = some c) {st : BitVec 8} (hs : st ≠ stHostAccess)
    (detail : Nat) : Ended d (d.fails id st detail) c st detail 0 := by
  have hid := (Dev.cmdOf_id h).1
  subst hid
  rw [Dev.fails, Dev.finish_of_cmdOf h hs]
  exact ⟨rfl, rfl⟩

end Sys2Proof.Machine
end

