-- ==== Sys2Proof/Machine/Balls.lean ====
section
/-!
DEFINITION. The ball map (R490 to R493, Tables 18.6 and 18.7): what each ball of the package carries in each variant. No command touches it;
it says where the pins and lanes of the other files come out.
-/
namespace Sys2Proof.Machine

open Sys2Proof

/-- The H0-only signals of Table 18.7 at local rows 35 to 44, in order. -/
inductive Control where
  | mdc | mdio | phyRstN | phyIntN | modRstN | stbyRstN | mainEn | mainPg | faultN | mpen
deriving DecidableEq, Repr

/-- What a ball carries. Of a pair, `neg` tells N from P; a link lane is named by link and lane, a PCIe lane by port and lane. -/
inductive Ball where
  | gnd
  | vin48
  | v3p3Aux
  | vt
  | linkTx (link lane : Nat) (neg : Bool)
  | linkRx (link lane : Nat) (neg : Bool)
  | pcieTx (port lane : Nat) (neg : Bool)
  | pcieRx (port lane : Nat) (neg : Bool)
  | perstN (port : Nat)
  | clkm (port : Nat)
  | hpRefclk (port : Nat) (neg : Bool)
  | linkRefclk (hub group : Nat) (neg : Bool)
  | sgmiiTx (neg : Bool)
  | sgmiiRx (neg : Bool)
  | control (c : Control)
  | noConnect
deriving DecidableEq, Repr

/-- The hub and local coordinates of a ball (Table 18.6). -/
def quadrant (row col : Nat) : Nat × Nat × Nat :=
  if row ≤ 48 then (if col ≤ 48 then (0, row, col) else (1, row, 97 - col))
  else (if col ≤ 48 then (3, 97 - row, col) else (2, 97 - row, 97 - col))

/-- The lanes of a hub's links: link n, lane l at local rows 3l + 2 and 3l + 3. -/
def linkBall (h r c : Nat) : Option Ball :=
  let n := (c - 1) / 3
  let l := (r - 2) / 3
  let neg := (c - 1) % 3 = 1
  if r < 2 ∨ 13 < r ∨ 47 < c ∨ (c - 1) % 3 = 2 ∨ (r - 2) % 3 = 2 then none
  else if (r - 2) % 3 = 0 then some (.linkTx (16 * h + n) l neg) else some (.linkRx (16 * h + n) l neg)

/-- The PCIe lanes of a hub's port: lane k = 2j or 2j + 1 at local rows 15 + 4j and 16 + 4j. -/
def pcieBall (h r c : Nat) : Option Ball :=
  let j := (r - 15) / 4
  let neg := (r - 15) % 4 = 1
  if r < 15 ∨ 44 < r ∨ 1 < (r - 15) % 4 then none
  else match c with
    | 2 => some (.pcieTx h (2 * j) neg)
    | 8 => some (.pcieTx h (2 * j + 1) neg)
    | 5 => some (.pcieRx h (2 * j) neg)
    | 11 => some (.pcieRx h (2 * j + 1) neg)
    | _ => none

/-- Local rows 45 to 48: the port's signals and clocks, and VIN48. -/
def edgeBall (h r c : Nat) : Option Ball :=
  if r = 45 then
    match c with
    | 1 => some (.perstN h)
    | 2 => some (.clkm h)
    | 4 => some (.hpRefclk h false)
    | 5 => some (.hpRefclk h true)
    | 7 => some (.linkRefclk h 0 false)
    | 8 => some (.linkRefclk h 0 true)
    | 10 => some (.linkRefclk h 1 false)
    | 11 => some (.linkRefclk h 1 true)
    | _ => none
  else if (r = 46 ∧ c ≤ 12) ∨ ((r = 47 ∨ r = 48) ∧ c ≤ 14) then some .vin48
  else none

def controls : List Control := [.mdc, .mdio, .phyRstN, .phyIntN, .modRstN, .stbyRstN, .mainEn, .mainPg, .faultN, .mpen]

/-- Local column 14 of H0's quadrant. -/
def h0Ball (r : Nat) : Option Ball :=
  if r < 15 then none
  else if r ≤ 30 then some .v3p3Aux
  else if r ≤ 32 then some (.sgmiiTx (r = 32))
  else if r ≤ 34 then some (.sgmiiRx (r = 34))
  else (controls[r - 35]?).map Ball.control

/-- The ball carries a signal of a unit that the variant does not have (R493). -/
def unconnected (v : Variant) : Ball → Bool
  | .linkTx l _ _ => !linkPresent v l
  | .linkRx l _ _ => !linkPresent v l
  | .linkRefclk h g _ => !linkPresent v (16 * h + 8 * g)
  | .pcieTx h _ _ => !portPresent v h
  | .pcieRx h _ _ => !portPresent v h
  | .perstN h => !portPresent v h
  | .clkm h => !portPresent v h
  | .hpRefclk h _ => !portPresent v h
  | _ => false

/-- Whether a position is populated: the ring of 14 balls, or the core block (R490). -/
def populated (row col : Nat) : Bool :=
  let edge (n : Nat) : Bool := n ≤ 14 || 83 ≤ n
  1 ≤ row && row ≤ 96 && 1 ≤ col && col ≤ 96 && (edge row || edge col || (47 ≤ row && row ≤ 50 && 47 ≤ col && col ≤ 50))

/-- What ball row-col carries on a variant; none where no ball is. Rows and columns count from 1 at ball A1's corner. -/
def ballAt (v : Variant) (row col : Nat) : Option Ball :=
  if !populated row col then none
  else
    let q := quadrant row col
    let h := q.1
    let r := q.2.1
    let c := q.2.2
    if 14 < r ∧ 14 < c then some .vt
    else
      let b := ((linkBall h r c).orElse (fun _ => (pcieBall h r c).orElse (fun _ => (edgeBall h r c).orElse (fun _ =>
        if h = 0 ∧ c = 14 then h0Ball r else none)))).getD .gnd
      some (if unconnected v b then .noConnect else b)

/-- The balls of a variant. -/
def balls (v : Variant) : List Ball :=
  ((List.range 96).map (fun r => (List.range 96).filterMap (fun c => ballAt v (r + 1) (c + 1)))).flatten

end Sys2Proof.Machine
end

