-- ==== Sys2Proof/WellFormed.lean ====
section
/-!
DEFINITION. Well-formed commands: every unit number that a command carries lies in the range of Table 0.2 (and a check
engine, bank, class, direction or tamper code in its own), whatever the variant populates. Handles, identifiers and what the
outside world supplies are free: the block meets them as it finds them.
-/
namespace Sys2Proof

/-- The unit numbers of a command lie in their ranges. -/
def Instr.wf (i : Instr) : Bool :=
  match i with
  | .sqDoorbell port q _ => decide (port < 4) && decide (q < 16)
  | .cqDoorbell port q _ => decide (port < 4) && decide (q < 16)
  | .queueEnable port q => decide (port < 4) && decide (q < 16)
  | .queueDisable port q => decide (port < 4) && decide (q < 16)
  | .queueDisableDone port q => decide (port < 4) && decide (q < 16)
  | .bar0RegisterWrite port _ _ _ => decide (port < 4)
  | .commandFetch port _ => decide (port < 4)
  | .completionWrite port q => decide (port < 4) && decide (q < 16)
  | .d3hotEntry port => decide (port < 4)
  | .d0Return port => decide (port < 4)
  | .identify _ => true
  | .odRead _ => true
  | .odWrite _ _ => true
  | .alloc _ => true
  | .free _ => true
  | .descCreate _ _ => true
  | .descDestroy _ => true
  | .loadWeights _ _ _ => true
  | .loadWeightsStart _ => true
  | .loadWeightsComplete _ _ _ => true
  | .swapBank _ => true
  | .swapBankEffect group => decide (group < 4096)
  | .programLoad _ _ => true
  | .runJob _ _ => true
  | .jobStart _ => true
  | .copyInComplete _ _ => true
  | .transferCopyOut _ _ => true
  | .jobComplete _ => true
  | .fence _ => true
  | .fenceComplete _ => true
  | .abort _ => true
  | .phaseHint _ => true
  | .hintRampStart hub phase => decide (hub < 4) && decide (phase < 256)
  | .hintHoldExpiry hub phase => decide (hub < 4) && decide (phase < 256)
  | .calibrate _ => true
  | .selftest _ => true
  | .selftestDone _ _ => true
  | .resetUnit _ => true
  | .ceConfigWrite _ => true
  | .ceReadRunning _ => true
  | .ceWriteRunning _ => true
  | .instructionStart issuer => (Sys2Proof.Machine.issuerOf issuer).isSome
  | .counterReadyPoll issuer => (Sys2Proof.Machine.issuerOf issuer).isSome
  | .counterWaitRelease issuer _ => (Sys2Proof.Machine.issuerOf issuer).isSome
  | .workClaim issuer => (Sys2Proof.Machine.issuerOf issuer).isSome
  | .tileIssue issuer engine => ((Sys2Proof.Machine.issuerOf issuer).isSome || (decide (0x8000 < issuer) && decide (issuer < 0x8400))) && decide (engine < 32)
  | .tileCommit _ => true
  | .sweepClaim issuer => (Sys2Proof.Machine.issuerOf issuer).isSome
  | .issuerRejoin issuer => (Sys2Proof.Machine.issuerOf issuer).isSome
  | .homeSweepByC0 _ _ => true
  | .blockPairing _ _ _ => true
  | .scaleEntryArrival _ _ _ => true
  | .blockAdmit mac _ _ _ => decide (mac < 110592)
  | .macroPlaneStep mac _ => decide (mac < 110592)
  | .reResolutionStep mac => decide (mac < 110592)
  | .recalTrigger mac => decide (mac < 110592)
  | .outlierTerm mac => decide (mac < 110592)
  | .outputStagePartial mac => decide (mac < 110592)
  | .finalAdderReduce _ _ _ _ => true
  | .auditServe _ _ => true
  | .formingIssueStart engine unit _ => decide (unit < if engine then 32 else 576)
  | .quantiseElement quant _ _ _ _ => decide (quant < 608)
  | .formingIssueEnd engine unit _ => decide (unit < if engine then 32 else 576)
  | .conversionDmaBlock hub _ _ _ _ _ => decide (hub < 4)
  | .operandFetch _ _ _ _ => true
  | .dispatchInstruction engine _ => decide (engine < 32)
  | .windowFill engine _ => decide (engine < 32)
  | .itemDeal engine => decide (engine < 32)
  | .itemStart engine lane => decide (engine < 32) && decide (lane < 64)
  | .workSteal engine lane => decide (engine < 32) && decide (lane < 64)
  | .laneStep engine lane _ => decide (engine < 32) && decide (lane < 64)
  | .contextFlush engine lane _ => decide (engine < 32) && decide (lane < 64)
  | .accUpdate engine bank _ => decide (engine < 32) && decide (bank < 32)
  | .softmaxMerge engine => decide (engine < 32)
  | .topkMerge engine => decide (engine < 32)
  | .streamTileComplete engine _ => decide (engine < 32)
  | .haloAppend _ dir => decide (dir < 4)
  | .haloRead _ dir => decide (dir < 4)
  | .haloTimeout _ _ => true
  | .frameSend _ _ => true
  | .frameReceive _ _ _ => true
  | .creditReturn _ cls => decide (cls < 4)
  | .frameReplay _ => true
  | .multicastForward _ cls _ => decide (cls < 4)
  | .fabricHopFail _ => true
  | .fabricStall _ _ => true
  | .hopEndReset _ _ => true
  | .writeAccept _ _ => true
  | .readRequest _ _ => true
  | .cacheAccess slice line _ _ _ _ _ => decide (slice < 16) && decide (line < 1125000000)
  | .lineFill hub k line _ => decide (hub < 4) && decide (k < 4) && decide (line < 1125000000)
  | .patrolScrub slice line _ => decide (slice < 16) && decide (line < 1125000000)
  | .granuleRemap stack granule => decide (stack < 8) && decide (granule < 17578125)
  | .bankAccess issuer _ => (Sys2Proof.Machine.issuerOf issuer).isSome
  | .bankAtomic issuer => (Sys2Proof.Machine.issuerOf issuer).isSome
  | .spadStarve issuer _ _ => (Sys2Proof.Machine.issuerOf issuer).isSome
  | .scratchpadWakeClear issuer => (Sys2Proof.Machine.issuerOf issuer).isSome
  | .marchPreservingWord issuer word _ _ _ => (Sys2Proof.Machine.issuerOf issuer).isSome && decide (word < 8192)
  | .linkDataFrameTx link _ => decide (link < 64)
  | .linkDataFrameRx link _ => decide (link < 64)
  | .linkControlFrameTx link _ => decide (link < 64)
  | .linkControlFrameRx link _ => decide (link < 64)
  | .linkReplayTimeout link _ => decide (link < 64)
  | .linkRetrain link => decide (link < 64)
  | .linkAliveTimeout link _ => decide (link < 64)
  | .linkResyncTimeout link _ => decide (link < 64)
  | .linkTrainingEnd link _ _ => decide (link < 64)
  | .linkCapabilityTx link => decide (link < 64)
  | .linkCapabilityRx link _ _ => decide (link < 64)
  | .linkExchangeTimeout link _ => decide (link < 64)
  | .linkLaneLoss link lane => decide (link < 64) && decide (lane < 4)
  | .linkWiden link _ => decide (link < 64)
  | .linkEnableWrite link _ => decide (link < 64)
  | .linkDownRetry link => decide (link < 64)
  | .linkDown link => decide (link < 64)
  | .bundleRebuild hub group _ => decide (hub < 4) && decide (group < 2)
  | .bundleWaitExpiry hub group _ _ => decide (hub < 4) && decide (group < 2)
  | .arbiterInterval _ _ _ _ _ _ => true
  | .regionGovernorTick hub _ _ => decide (hub < 4)
  | .phasePointChoice hub _ _ => decide (hub < 4)
  | .supplyMoveDone domain => decide (domain < 681)
  | .pwrDroop domain _ => decide (domain < 681)
  | .droopHoldExpiry hub => decide (hub < 4)
  | .supplyCollapseStop domain _ => decide (domain < 681)
  | .supplyRecover domain _ => decide (domain < 681)
  | .thermalSense domain _ => decide (domain < 681)
  | .thermThrottle domain => decide (domain < 681)
  | .thermalCeilingRise domain => decide (domain < 681)
  | .thermLimit domain => decide (domain < 681)
  | .powerRequest _ => true
  | .domainDrainDone domain => decide (domain < 681)
  | .powerTransitionDone domain => decide (domain < 681)
  | .wedgeWakeRestore wedge _ _ => decide (wedge < 576)
  | .wakeOnDemand domain issuer => decide (domain < 681) && (Sys2Proof.Machine.issuerOf issuer).isSome
  | .ceFrameFeed engine _ _ _ _ _ _ => decide (engine < 64)
  | .checkStep mac _ _ _ => decide (mac < 110592)
  | .checkAgeExpiry mac _ => decide (mac < 110592)
  | .idleCheckInterval mac _ => decide (mac < 110592)
  | .macroReload mac _ _ => decide (mac < 110592)
  | .macroRetire mac _ _ => decide (mac < 110592)
  | .scrubPass mac _ => decide (mac < 110592)
  | .calibrationRequest mac _ _ => decide (mac < 110592)
  | .calibrationStep mac _ => decide (mac < 110592)
  | .calibrationComplete mac => decide (mac < 110592)
  | .calibrationWaitExpiry mac _ => decide (mac < 110592)
  | .corrEcc wedge _ _ => decide (wedge < 576)
  | .eventPost hub => decide (hub < 4)
  | .eventRingRead _ _ _ => true
  | .limitIntervalRollover _ _ => true
  | .wallTimeWrite _ => true
  | .baseBandWrite _ => true
  | .journalRecordProgram _ => true
  | .journalTokenRefill => true
  | .compactionStart => true
  | .compactionCommit _ => true
  | .regionEraseDone => true
  | .tamjorRequest _ _ => true
  | .tamjorOpen _ _ => true
  | .tamjorConfirm _ _ => true
  | .confirmTimeout _ _ => true
  | .tamjorClose _ _ => true
  | .sessionIdleTimeout _ _ => true
  | .mailboxGo port => decide (port < 4)
  | .tokenCommit _ => true
  | .attestationNonce _ => true
  | .retryBoot _ => true
  | .tamper code _ => decide (1 ≤ code && code ≤ 5)
  | .tamperConditionClear code => decide (1 ≤ code && code ≤ 5)
  | .auxPowerUp => true
  | .standbyStart _ _ _ => true
  | .standbyResetAssert => true
  | .auxBrownout _ => true
  | .mainEnRise => true
  | .railsSettled _ => true
  | .powerOnSelftest _ _ => true
  | .mainEnFall => true
  | .inputFault _ _ => true
  | .moduleWarmReset _ => true
  | .moduleWarmResetRelease => true
  | .portReset port => decide (port < 4)
  | .perstRelease port => decide (port < 4)
  | .refclkStop hub => decide (hub < 4)
  | .hubControlReset hub => decide (hub < 4)
  | .markedEntryRebuild mac _ => decide (mac < 110592)
  | .checkStoreRecompute mac _ _ => decide (mac < 110592)
  | .refclkRestart hub => decide (hub < 4)
  | .msixEnableChange port _ _ => decide (port < 4)
  | .resetDeferralExpiry _ _ => true
  | .managementLinkChange _ => true

end Sys2Proof
end

