-- ==== Sys2Proof/Tests/Slice0.lean ====
section
/-!
SUPPORT. Tests: ill-formed commands that the checks refuse, and for each statement of Obligations.lean a state and operands that meet
the hypotheses of each of its clauses.
-/
namespace Sys2Proof.Tests

open Sys2Proof Sys2Proof.Machine

set_option Elab.async false

/-! ### Well-formed commands -/

def req0 : OdReq := { src := .mgmt, sid := 0, cmd := none, sub := 1, value := [] }
def lf0 : LinkFrame :=
  { kind := 0, rlen := 0, op := 0, cls := 0, form := 0, plen := 0, dlen := 0, poison := false, seq := 0, tag := 0, exp := 0, offset := 0,
    wire := [], crc := 0 }
def cf0 : CtlFrame := { nak := false, ackseq := 0, cr := [0, 0, 0, 0], alive := 0, crc := 0 }
def cap0 : CapRecord :=
  { vmax := 1, vmin := 1, welide := false, belide := false, atom := false, ident := 0, link := 0, lanes := 0xF, slots := [0, 0, 0, 0],
    seen := false, tags := 0, resume := false, rxseq := 0 }
def rr0 : RemoteReq :=
  { op := 0, kind := 0, cls := 0, exp := 0, offset := 0, len := 0, payload := [], src := 0, addr := 0, peer := 0, tile := none }
def fr0 : Frame :=
  { cls := 0, dense := false, ctype := 0, plen := 0, dlen := 0, mcast := false, poison := false, op := 0, btag := 0, src := 0, dst := 0,
    wmask := 0, addr := 0, payload := [], wire := [] }
def upd0 : AccUpd := { tile := 0, lane := 0, off := 0, op := .fadd, words := [] }

/-- Ill-formed commands, one for each check (part 1): each is refused. -/
theorem test_wf_refuses_1 : ([
    .sqDoorbell 4 0 0,
    .sqDoorbell 0 16 0,
    .cqDoorbell 4 0 0,
    .cqDoorbell 0 16 0,
    .queueEnable 4 0,
    .queueEnable 0 16,
    .queueDisable 4 0,
    .queueDisable 0 16,
    .queueDisableDone 4 0,
    .queueDisableDone 0 16,
    .bar0RegisterWrite 4 0 0 0,
    .commandFetch 4 (.fail 1),
    .completionWrite 4 0,
    .completionWrite 0 16,
    .d3hotEntry 4,
    .d0Return 4,
    .swapBankEffect 4096,
    .hintRampStart 4 0,
    .hintRampStart 0 256,
    .hintHoldExpiry 4 0,
    .hintHoldExpiry 0 256,
    .instructionStart 0x8400,
    .counterReadyPoll 0x8400,
    .counterWaitRelease 0x8400 0,
    .workClaim 0x8400] : List Instr).all (fun i => !i.wf) = true := by decide +kernel

/-- Ill-formed commands, one for each check (part 2): each is refused. -/
theorem test_wf_refuses_2 : ([
    .tileIssue 0x8400 0,
    .tileIssue 0 32,
    .sweepClaim 0x8400,
    .issuerRejoin 0x8400,
    .blockAdmit 110592 0 0 0,
    .macroPlaneStep 110592 [],
    .reResolutionStep 110592,
    .recalTrigger 110592,
    .outlierTerm 110592,
    .outputStagePartial 110592,
    .formingIssueStart false 576 0,
    .formingIssueStart true 32 0,
    .quantiseElement 608 0 0 0 0,
    .formingIssueEnd false 576 0,
    .formingIssueEnd true 32 0,
    .conversionDmaBlock 4 0 false [] 0 ⟨0, 0, []⟩,
    .dispatchInstruction 32 0,
    .windowFill 32 0,
    .itemDeal 32,
    .itemStart 32 0,
    .itemStart 0 64,
    .workSteal 32 0,
    .workSteal 0 64,
    .laneStep 32 0 .move,
    .laneStep 0 64 .move,
    .contextFlush 32 0 0,
    .contextFlush 0 64 0] : List Instr).all (fun i => !i.wf) = true := by decide +kernel

/-- Ill-formed commands, one for each check (part 3): each is refused. -/
theorem test_wf_refuses_3 : ([
    .accUpdate 32 0 none,
    .accUpdate 0 32 none,
    .softmaxMerge 32,
    .topkMerge 32,
    .streamTileComplete 32 0,
    .haloAppend 0 4,
    .haloRead 0 4,
    .creditReturn (.facetUp 0) 4,
    .multicastForward (.facetUp 0) 4 [],
    .cacheAccess 16 0 0 0 .read 0 none,
    .cacheAccess 0 1125000000 0 0 .read 0 none,
    .lineFill 4 0 0 0,
    .lineFill 0 4 0 0,
    .lineFill 0 0 1125000000 0,
    .patrolScrub 16 0 0,
    .patrolScrub 0 1125000000 0,
    .granuleRemap 8 0,
    .granuleRemap 0 17578125,
    .bankAccess 0x8400 none,
    .bankAtomic 0x8400,
    .spadStarve 0x8400 0 0,
    .scratchpadWakeClear 0x8400,
    .marchPreservingWord 0x8400 0 false false false,
    .marchPreservingWord 0 8192 false false false,
    .linkDataFrameTx 64 none,
    .linkDataFrameRx 64 lf0] : List Instr).all (fun i => !i.wf) = true := by decide +kernel

/-- Ill-formed commands, one for each check (part 4): each is refused. -/
theorem test_wf_refuses_4 : ([
    .linkControlFrameTx 64 0,
    .linkControlFrameRx 64 cf0,
    .linkReplayTimeout 64 0,
    .linkRetrain 64,
    .linkAliveTimeout 64 0,
    .linkResyncTimeout 64 0,
    .linkTrainingEnd 64 0 false,
    .linkCapabilityTx 64,
    .linkCapabilityRx 64 cap0 0,
    .linkExchangeTimeout 64 0,
    .linkLaneLoss 64 0,
    .linkLaneLoss 0 4,
    .linkWiden 64 req0,
    .linkEnableWrite 64 req0,
    .linkDownRetry 64,
    .linkDown 64,
    .bundleRebuild 4 0 0,
    .bundleRebuild 0 2 0,
    .bundleWaitExpiry 4 0 0 0,
    .bundleWaitExpiry 0 2 0 0,
    .regionGovernorTick 4 0 [],
    .phasePointChoice 4 [] [],
    .supplyMoveDone 681,
    .pwrDroop 681 0,
    .droopHoldExpiry 4] : List Instr).all (fun i => !i.wf) = true := by decide +kernel

/-- Ill-formed commands, one for each check (part 5): each is refused. -/
theorem test_wf_refuses_5 : ([
    .supplyCollapseStop 681 0,
    .supplyRecover 681 0,
    .thermalSense 681 0,
    .thermThrottle 681,
    .thermalCeilingRise 681,
    .thermLimit 681,
    .domainDrainDone 681,
    .powerTransitionDone 681,
    .wedgeWakeRestore 576 [] [],
    .wakeOnDemand 681 0,
    .wakeOnDemand 0 0x8400,
    .ceFrameFeed 64 0 0 0 0 0 [],
    .checkStep 110592 [] [] false,
    .checkAgeExpiry 110592 0,
    .idleCheckInterval 110592 0,
    .macroReload 110592 (.fail 1) [],
    .macroRetire 110592 [] [],
    .scrubPass 110592 [],
    .calibrationRequest 110592 0 0,
    .calibrationStep 110592 [],
    .calibrationComplete 110592,
    .calibrationWaitExpiry 110592 0,
    .corrEcc 576 false 0,
    .eventPost 4,
    .mailboxGo 4] : List Instr).all (fun i => !i.wf) = true := by decide +kernel

/-- Ill-formed commands, one for each check (part 6): each is refused. -/
theorem test_wf_refuses_6 : ([
    .tamper 0 0,
    .tamper 6 0,
    .tamperConditionClear 0,
    .tamperConditionClear 6,
    .portReset 4,
    .perstRelease 4,
    .refclkStop 4,
    .hubControlReset 4,
    .markedEntryRebuild 110592 0,
    .checkStoreRecompute 110592 false (.fail 1),
    .refclkRestart 4,
    .msixEnableChange 4 false 0] : List Instr).all (fun i => !i.wf) = true := by decide +kernel

/-- The same commands with every unit in range (part 1) are well-formed. -/
theorem test_wf_accepts_1 : ([
    .sqDoorbell 0 0 0,
    .cqDoorbell 0 0 0,
    .queueEnable 0 0,
    .queueDisable 0 0,
    .queueDisableDone 0 0,
    .bar0RegisterWrite 0 0 0 0,
    .commandFetch 0 (.fail 1),
    .completionWrite 0 0,
    .d3hotEntry 0,
    .d0Return 0,
    .swapBankEffect 0,
    .hintRampStart 0 0,
    .hintHoldExpiry 0 0,
    .instructionStart 0,
    .counterReadyPoll 0,
    .counterWaitRelease 0 0,
    .workClaim 0,
    .tileIssue 0 0,
    .sweepClaim 0,
    .issuerRejoin 0,
    .blockAdmit 0 0 0 0,
    .macroPlaneStep 0 [],
    .reResolutionStep 0,
    .recalTrigger 0,
    .outlierTerm 0,
    .outputStagePartial 0,
    .formingIssueStart false 0 0,
    .quantiseElement 0 0 0 0 0,
    .formingIssueEnd false 0 0,
    .conversionDmaBlock 0 0 false [] 0 ⟨0, 0, []⟩] : List Instr).all (fun i => i.wf) = true := by decide +kernel

/-- The same commands with every unit in range (part 2) are well-formed. -/
theorem test_wf_accepts_2 : ([
    .dispatchInstruction 0 0,
    .windowFill 0 0,
    .itemDeal 0,
    .itemStart 0 0,
    .workSteal 0 0,
    .laneStep 0 0 .move,
    .contextFlush 0 0 0,
    .accUpdate 0 0 none,
    .softmaxMerge 0,
    .topkMerge 0,
    .streamTileComplete 0 0,
    .haloAppend 0 0,
    .haloRead 0 0,
    .creditReturn (.facetUp 0) 0,
    .multicastForward (.facetUp 0) 0 [],
    .cacheAccess 0 0 0 0 .read 0 none,
    .lineFill 0 0 0 0,
    .patrolScrub 0 0 0,
    .granuleRemap 0 0,
    .bankAccess 0 none,
    .bankAtomic 0,
    .spadStarve 0 0 0,
    .scratchpadWakeClear 0,
    .marchPreservingWord 0 0 false false false,
    .linkDataFrameTx 0 none,
    .linkDataFrameRx 0 lf0,
    .linkControlFrameTx 0 0,
    .linkControlFrameRx 0 cf0,
    .linkReplayTimeout 0 0,
    .linkRetrain 0] : List Instr).all (fun i => i.wf) = true := by decide +kernel

/-- The same commands with every unit in range (part 3) are well-formed. -/
theorem test_wf_accepts_3 : ([
    .linkAliveTimeout 0 0,
    .linkResyncTimeout 0 0,
    .linkTrainingEnd 0 0 false,
    .linkCapabilityTx 0,
    .linkCapabilityRx 0 cap0 0,
    .linkExchangeTimeout 0 0,
    .linkLaneLoss 0 0,
    .linkWiden 0 req0,
    .linkEnableWrite 0 req0,
    .linkDownRetry 0,
    .linkDown 0,
    .bundleRebuild 0 0 0,
    .bundleWaitExpiry 0 0 0 0,
    .regionGovernorTick 0 0 [],
    .phasePointChoice 0 [] [],
    .supplyMoveDone 0,
    .pwrDroop 0 0,
    .droopHoldExpiry 0,
    .supplyCollapseStop 0 0,
    .supplyRecover 0 0,
    .thermalSense 0 0,
    .thermThrottle 0,
    .thermalCeilingRise 0,
    .thermLimit 0,
    .domainDrainDone 0,
    .powerTransitionDone 0,
    .wedgeWakeRestore 0 [] [],
    .wakeOnDemand 0 0,
    .ceFrameFeed 0 0 0 0 0 0 [],
    .checkStep 0 [] [] false] : List Instr).all (fun i => i.wf) = true := by decide +kernel

/-- The same commands with every unit in range (part 4) are well-formed. -/
theorem test_wf_accepts_4 : ([
    .checkAgeExpiry 0 0,
    .idleCheckInterval 0 0,
    .macroReload 0 (.fail 1) [],
    .macroRetire 0 [] [],
    .scrubPass 0 [],
    .calibrationRequest 0 0 0,
    .calibrationStep 0 [],
    .calibrationComplete 0,
    .calibrationWaitExpiry 0 0,
    .corrEcc 0 false 0,
    .eventPost 0,
    .mailboxGo 0,
    .tamper 1 0,
    .tamperConditionClear 1,
    .portReset 0,
    .perstRelease 0,
    .refclkStop 0,
    .hubControlReset 0,
    .markedEntryRebuild 0 0,
    .checkStoreRecompute 0 false (.fail 1),
    .refclkRestart 0,
    .msixEnableChange 0 false 0] : List Instr).all (fun i => i.wf) = true := by decide +kernel

/-! ### States that meet the hypotheses of the statements -/

/-- A port that has trained, its vectors unmasked. -/
def port0 : HostPort := { linkUp := true, ready := true, msixEn := true, msixMask := 0 }

/-- A module that has powered up: every hub runs, every port is up, the journal is ready, the key is there. -/
def dev0 : Dev :=
  { Dev.reset with
    seq := { Seq.reset with stbyRstN := true, stbyUp := true, mainEn := true, phase := .up, mainPg := true, hubHeld := [], mpen := true,
                            perstN := [true, true, true, true], clkm := [true, true, true, true] },
    ports := [(0, port0), (1, port0), (2, port0), (3, port0)],
    jour := { Jour.reset with ready := true },
    sec := { Sec.reset with key := true, lcs := 2 },
    tam := { sessions := [], pending := [], opensNow := 0, plainNow := 0, linkUp := true } }

def st (d : Dev) : State := { variant := .oc40a, pending := [], dev := d }

/-- A command of port 0, queue 1 in flight. -/
def cmd0 (opc : Nat) (p : List (BitVec 64)) : Cmd :=
  { id := 1, port := 0, q := 1, cid := 7, opc := opc, p := p, stage := .ready, waits := [] }

/-- The module with that command waiting to start. -/
def Ready (opc : Nat) (p : List (BitVec 64)) (d : Dev) : Dev := { d with cmds := [cmd0 opc p], nextCmd := 2 }

/-- The module with that command started. -/
def Busy (opc : Nat) (p : List (BitVec 64)) (waits : List Nat) (d : Dev) : Dev :=
  { d with cmds := [{ cmd0 opc p with stage := .busy, waits := waits }], nextCmd := 2 }

/-! ### Queues, fetch, completion -/

theorem witness_step_front : ({ st dev0 with pending := [.journalTokenRefill] } : State).pending = .journalTokenRefill :: [] := by decide
theorem witness_step_idle : (st dev0).pending = [] := rfl

def queue1 : Queue := { sqsize := 15, cqsize := 15, en := true, ie := true, sqtail := 3 }
def devQ : Dev := dev0.setQueue 0 1 queue1

theorem witness_queue_registers : portUp .oc40a devQ 0 = true ∧ 1 < 16 ∧ (devQ.queue 0 1).en = true ∧
    (devQ.queue 0 1).sqsize = 15 ∧ ¬((devQ.queue 0 1).sqsize < (15 : BitVec 12)) ∧ (devQ.queue 0 1).sqsize < (16 : BitVec 12) := by
  decide +kernel
theorem witness_queue_registers_last : portUp .oc40a dev0 3 = true ∧ 15 < 16 ∧ (dev0.queue 3 15).en = false := by decide +kernel
theorem witness_port_registers : portUp .oc40a dev0 0 = true ∧ 0xFFF < 0x1000 ∧ 15 < 16 ∧ (dev0.queue 0 15).en = false := by
  decide +kernel

/-- An entry of the queue: FENCE with an alive field. -/
def entry0 (alive : Byte) : Bytes := [0x1A, alive, 9, 0, 0, 0, 0, 0]

theorem witness_fetch : portUp .oc40a devQ 0 = true ∧ (devQ.port 0).d3 = false ∧ targetOffline devQ (.core 0 0) = false ∧
    inFlight devQ 0 < 256 ∧ nextQueue devQ 0 = some 1 ∧ entryAlive (padTo 64 (entry0 0)) = (devQ.queue 0 1).anext ∧
    entryAlive (padTo 64 (entry0 255)) = (devQ.queue 0 1).anext - 1 ∧ entryAlive (padTo 64 (entry0 5)) ≠ (devQ.queue 0 1).anext ∧
    (let e := padTo 64 (entry0 0)
     (entryStatus .oc40a devQ (entryOpc e) (entryRsv e) (entryP e)).1 = stSuccess) ∧
    (let e := padTo 64 ((0xFF : Byte) :: (entry0 0).tail)
     (entryStatus .oc40a devQ (entryOpc e) (entryRsv e) (entryP e)).1 ≠ stSuccess) := by
  decide +kernel

def comp0 : Comp := { port := 0, q := 1, cid := 7, status := 0, detail := 0, smiss := false, result := 0 }
def devComp : Dev := { devQ with comps := [{ comp0 with q := 2 }, comp0] }

theorem witness_completion : portUp .oc40a devComp 0 = true ∧ (devComp.port 0).d3 = false ∧ (devComp.queue 0 1).en = true ∧
    nextSlot (devComp.queue 0 1).cqtail (devComp.queue 0 1).cqsize ≠ (devComp.queue 0 1).cqhead ∧
    takeComp 0 1 devComp.comps = some (comp0, [{ comp0 with q := 2 }]) := by decide +kernel
/-- The pass wraps: cqtail at the end of the queue. -/
theorem witness_completion_wraps : (let d := devComp.setQueue 0 1 { queue1 with cqtail := 15, cqhead := 7 }
    nextSlot (d.queue 0 1).cqtail (d.queue 0 1).cqsize ≠ (d.queue 0 1).cqhead ∧
    takeComp 0 1 d.comps = some (comp0, [{ comp0 with q := 2 }])) := by decide +kernel
theorem witness_completion_waits : (let d := devComp.setQueue 0 1 { queue1 with cqtail := 15, cqhead := 0 }
    nextSlot (d.queue 0 1).cqtail (d.queue 0 1).cqsize = (d.queue 0 1).cqhead) := by decide +kernel

/-! ### Identity, dictionary, objects -/

theorem witness_identify : (Ready 0x01 [0x1000] dev0).starting 1 0x01 = some (cmd0 0x01 [0x1000]) ∧ (dev0.port 0).d3 = false := by
  decide +kernel
theorem witness_od_read : (let d := Ready 0x02 [0x011010] dev0
    odServed d = true ∧ d.starting 1 0x02 = some (cmd0 0x02 [0x011010]) ∧ (cmd0 0x02 [0x011010]).odIdx ≠ 0x5800 ∧
    (cmd0 0x02 [0x011010]).P 1 = 0 ∧ (odRead .oc40a d (.port 0) 0 0x1010 1 8).1 = stSuccess) := by decide +kernel
/-- The same entry read into a buffer of the host. -/
theorem witness_od_read_buffer : (let c := cmd0 0x02 [0x011010, 0x2000, 4]
    let d := Ready 0x02 [0x011010, 0x2000, 4] dev0
    odServed d = true ∧ d.starting 1 0x02 = some c ∧ c.odIdx ≠ 0x5800 ∧ c.P 1 ≠ 0 ∧ (d.port c.port).d3 = false ∧
    (odRead .oc40a d (.port 0) 0 c.odIdx c.odSub c.odLen).1 = stSuccess) := by decide +kernel

/-- OD WRITE of entry idx.sub with `len` bytes in P3. -/
def writeP (idx sub len v : Nat) : List (BitVec 64) :=
  [BitVec.ofNat 64 (idx + sub * 65536), 0, BitVec.ofNat 64 len, BitVec.ofNat 64 v]

/-- The hypotheses of an OD WRITE. -/
abbrev WriteMeets (d : Dev) (idx sub len v : Nat) (cls : Cls) : Prop :=
  (let c := cmd0 0x03 (writeP idx sub len v)
   let e := Ready 0x03 (writeP idx sub len v) d
   odServed e = true ∧ e.starting 1 0x03 = some c ∧ ownStep c.odIdx c.odSub = false ∧
   (odEntry c.odIdx c.odSub).map (fun x => x.cls) = some cls ∧ c.odLen ≤ 8 ∧ c.P 1 = 0 ∧
   (match cmdValue c (.fail 0) with | .ok b => decide (b = toLe len v) | .error _ => false) = true ∧
   odWriteEarly .oc40a e (.port 0) 0 c.odIdx c.odSub c.odLen (odNames c.odIdx (toLe len v)) = stSuccess ∧
   odWriteChecks .oc40a e (.port 0) 0 c.odIdx c.odSub (toLe len v) = stSuccess ∧ e.pendingP (odKey c.odIdx c.odSub) = false)

theorem witness_write_same : WriteMeets dev0 0x5000 1 4 4000 .p ∧ dev0.heldP 0x5000 1 = toLe 4 4000 := by decide +kernel
theorem witness_write_other : WriteMeets dev0 0x5000 1 4 5000 .p ∧ dev0.heldP 0x5000 1 ≠ toLe 4 5000 ∧ dev0.jour.tokens ≠ 0 := by
  decide +kernel
theorem witness_write_throttled : (let d := { dev0 with jour := { dev0.jour with tokens := 0 } }
    WriteMeets d 0x5000 1 4 5000 .p ∧ d.heldP 0x5000 1 ≠ toLe 4 5000 ∧ d.jour.tokens = 0) := by decide +kernel
theorem witness_write_volatile : WriteMeets dev0 0x5802 1 1 1 .q := by decide +kernel

theorem witness_alloc_halo : (let d := Ready 0x08 [4096, 1, 5] dev0
    d.starting 1 0x08 = some (cmd0 0x08 [4096, 1, 5]) ∧ (tget (IdxQueue.fresh (2 ^ 30 - 1)) d.allocIdx 0).head = some 1 ∧
    bitsOf ((cmd0 0x08 [4096, 1, 5]).P 1) 1 0 = 1) := by decide +kernel
theorem witness_alloc_window : (let d := Ready 0x08 [4096, 2, 5, 9, 3] dev0
    d.starting 1 0x08 = some (cmd0 0x08 [4096, 2, 5, 9, 3]) ∧ bitsOf ((cmd0 0x08 [4096, 2, 5, 9, 3]).P 1) 1 0 = 2) := by
  decide +kernel
theorem witness_alloc_stack : (let c := cmd0 0x08 [0x8000000, 0]
    let d := Ready 0x08 [0x8000000, 0] dev0
    d.starting 1 0x08 = some c ∧ bitsOf (c.P 1) 1 0 = 0 ∧ 2 ^ 27 ≤ allocSize (c.P 0) ∧
    ((List.range (max 1 (allocSize (c.P 0) / 2 ^ 27))).map (arcHub .oc40a (!bitOf (c.P 1) 2) (bitsOf (c.P 1) 4 3))).any
      (stacksOffline d) = false ∧ exportTaken d (bitsOf (c.P 1) 19 8) = false) := by decide +kernel
/-- A small allocation, cleared. -/
theorem witness_alloc_small : (let c := cmd0 0x08 [0x10000, 0x80]
    let d := Ready 0x08 [0x10000, 0x80] dev0
    d.starting 1 0x08 = some c ∧ bitsOf (c.P 1) 1 0 = 0 ∧ allocSize (c.P 0) < 2 ^ 27 ∧ bitOf (c.P 1) 7 = true ∧
    ((List.range (max 1 (allocSize (c.P 0) / 2 ^ 27))).map (arcHub .oc40a (!bitOf (c.P 1) 2) (bitsOf (c.P 1) 4 3))).any
      (stacksOffline d) = false ∧ exportTaken d (bitsOf (c.P 1) 19 8) = false) := by decide +kernel
/-- Some frame is free, whichever the free choice is: with none in use every choice of frame is. -/
theorem witness_alloc_frames : ((List.range 1072).filter (fun f => !dev0.usedFrames.contains (0, f))).length = 1072 := by decide +kernel

/-- A stack allocation of one arc on hub 0. -/
def alloc3 : Alloc :=
  { handle := 3, port := 0, kind := .stack, size := 0x8000000, spread := true, h0 := 0, policy := 0,
    arcs := [{ hub := 0, frame0 := 0, frame1 := 0 }], pos := 0, export_ := 0, rights := 0, issuer := 0, winHub := 0, winGroup := 0,
    peer := 0, peerExp := 0, live := true }
def devA : Dev := { dev0 with allocs := [alloc3], usedFrames := [(0, 0), (1, 0)] }

theorem witness_free : (let d := Ready 0x09 [3] devA
    d.starting 1 0x09 = some (cmd0 0x09 [3]) ∧ bitOf ((cmd0 0x09 [3]).P 0) 32 = false ∧ d.allocOf 3 = some alloc3 ∧
    alloc3.port = 0 ∧ alloc3.live = true ∧ allocPinned d 3 = false ∧ exportBusy d 3 = false) := by decide +kernel
theorem witness_free_waits : (let a := { alloc3 with export_ := 7 }
    let d := { Ready 0x09 [3] devA with allocs := [a], links := [(0, { rxFrames := [({ lf0 with exp := 7 }, some 3)] })] }
    d.starting 1 0x09 = some (cmd0 0x09 [3]) ∧ d.allocOf 3 = some a ∧ allocPinned d 3 = false ∧ exportBusy d 3 = true) := by
  decide +kernel

def prog5 : Program :=
  { handle := 5, port := 0, issuers := [{ issuer := 0, ninst := 1, pstart := 0, shares := [{ ctr := 1, grain := 0, wait := 0 }] }],
    ctrs := [{ id := 1, home := 0, addr := 0x1000, bmoff := 0, bmcap := 1024 }], calloc := 3, coff := 0, csize := 4096, doomed := false }
def devP : Dev := { devA with progs := [prog5] }

theorem witness_free_program : (let d := Ready 0x09 [0x100000005] devP
    d.starting 1 0x09 = some (cmd0 0x09 [0x100000005]) ∧ bitOf ((cmd0 0x09 [0x100000005]).P 0) 32 = true ∧ d.progOf 5 = some prog5 ∧
    d.jobs.any (fun j => j.prog = 5) = false) := by decide +kernel

theorem witness_desc_create : (let d := Ready 0x0A [0x1000] devA
    d.starting 1 0x0A = some (cmd0 0x0A [0x1000]) ∧ (d.port 0).d3 = false ∧
    (tget (IdxQueue.fresh 16383) d.descIdx 0).head = some 1 ∧ descStatus .oc40a d 0 (leNat ((padTo 160 []).take 160)) ≠ stSuccess) := by
  decide +kernel
def desc2 : Desc :=
  { handle := 2, port := 0, alloc := 3, base := 0, fmt := 0, nd := 0, form := 0, use := 0, kdim := 0, ken := false, perm := [0],
    idim := 0, ien := false, idx := 0, ocp := false, dims := [(1, 16)] }
theorem witness_desc_destroy : (let d := { Ready 0x0B [2] devA with descs := [desc2] }
    d.starting 1 0x0B = some (cmd0 0x0B [2]) ∧ d.descOf (bitsOf ((cmd0 0x0B [2]).P 0) 15 0) = some desc2 ∧ descInUse d 2 = false) := by
  decide +kernel

/-- A stack with a free frame gives one, whichever the free choice is. -/
theorem pick_some (d : Dev) (stack n : Nat) (h : freeFrames d stack ≠ []) : ∃ f, pickFrame d stack n = some f := by
  have hpos : 0 < (freeFrames d stack).length := List.length_pos_iff.mpr h
  have hlt : Config.frameChoice n % max 1 (freeFrames d stack).length < (freeFrames d stack).length := by
    have := Nat.mod_lt (Config.frameChoice n) (show 0 < max 1 (freeFrames d stack).length by omega)
    omega
  exact ⟨_, List.getElem?_eq_getElem hlt⟩

theorem takeArc_some (d : Dev) (h : Nat) (h0 : freeFrames d (2 * h) ≠ []) (h1 : freeFrames d (2 * h + 1) ≠ []) :
    ∃ r, takeArc h d = some r := by
  obtain ⟨f0, e0⟩ := pick_some d (2 * h) d.free h0
  obtain ⟨f1, e1⟩ := pick_some d (2 * h + 1) (d.free + 1) h1
  exact ⟨_, by unfold takeArc; rw [e0, e1]; rfl⟩

theorem frames_free (s : Nat) (h : s = 0 ∨ s = 1) : freeFrames (Ready 0x08 [0x8000000, 0] dev0) s ≠ [] := by
  intro e
  have l : (freeFrames (Ready 0x08 [0x8000000, 0] dev0) s).length = 1072 := by rcases h with rfl | rfl <;> decide +kernel
  rw [e] at l
  cases l

theorem frames_free' (s : Nat) (h : s = 0 ∨ s = 1) : freeFrames (Ready 0x08 [0x10000, 0x80] dev0).drawn s ≠ [] := by
  intro e
  have l : (freeFrames (Ready 0x08 [0x10000, 0x80] dev0).drawn s).length = 1072 := by rcases h with rfl | rfl <;> decide +kernel
  rw [e] at l
  cases l

theorem witness_alloc_placed : ∃ arcs pos d1,
    placeAlloc .oc40a true 0 (allocSize 0x8000000) (Ready 0x08 [0x8000000, 0] dev0) = some (arcs, pos, d1) := by
  obtain ⟨r, hr⟩ := takeArc_some (Ready 0x08 [0x8000000, 0] dev0) 0 (frames_free _ (.inl rfl)) (frames_free _ (.inr rfl))
  have hs : allocSize 0x8000000 / 2 ^ 27 = 1 := by decide +kernel
  have hl : (List.range (allocSize 0x8000000 / 2 ^ 27)).map (arcHub .oc40a true 0) = [0] := by rw [hs]; decide +kernel
  refine ⟨[r.1], 0, r.2, ?_⟩
  unfold placeAlloc
  rw [if_neg (by decide +kernel), hl]
  simp only [takeArcs, hr, Option.map, Option.bind]

theorem witness_alloc_small_placed : ∃ arcs pos d1,
    placeAlloc .oc40a true 0 (allocSize 0x10000) (Ready 0x08 [0x10000, 0x80] dev0) = some (arcs, pos, d1) := by
  obtain ⟨r, hr⟩ := takeArc_some (Ready 0x08 [0x10000, 0x80] dev0).drawn 0 (frames_free' _ (.inl rfl)) (frames_free' _ (.inr rfl))
  refine ⟨[r.1], 0, r.2, ?_⟩
  unfold placeAlloc
  rw [if_pos (by decide +kernel)]
  have h : smallPlaces (Ready 0x08 [0x10000, 0x80] dev0) 0 (allocSize 0x10000) = [] := by decide +kernel
  simp only [h, hr, List.getElem?_nil, Option.map]

/-! ### Weights, programs, jobs -/

def mat1 : Matrix :=
  { id := 1, rows := 32, cols := 100, packing := .int8, source := 0, group := 1, place := [0], outliers := [], imgAlloc := 0,
    imgAddr := 0x100000 }
def bank1 : Bank := { st := .ready, matrix := 1, words := [(0, 5)], valid := 100 }
def mac0 : Macro := { bankA := bank1, group := 1, xoUncal := false, cal := { req := false } }
/-- A module whose macro 0 holds matrix 1 in its active bank. -/
def devM : Dev := { devP with mats := [mat1], matIdx := { next := 2, last := 16383, tail := [] }, macros := [(0, mac0)], wedges := [(0, { uncal := false })] }

/-- LOAD WEIGHTS of a 32 x 100 matrix to macro 0, one outlier row. -/
def loadP : List (BitVec 64) := [0x1000, 0, 0x6400000020, 0x40040, 0x2000, 0x3000]
theorem witness_load : (let d := Ready 0x10 loadP dev0
    let c := cmd0 0x10 loadP
    d.starting 1 0x10 = some c ∧ (d.port 0).d3 = false ∧ ¬(bitsOf (c.P 3) 24 18 = 0 ∨ c.P 5 = 0) ∧
    (loadStatus .oc40a d c (u32s [0, 0, 0, 0]) (u32s [3, 0, 0, 0]) 4).1 = stSuccess) := by decide +kernel
/-- The same matrix without outlier rows. -/
def loadP0 : List (BitVec 64) := [0x1000, 0, 0x6400000020, 0x40, 0x2000, 0]
theorem witness_load_plain : (let d := Ready 0x10 loadP0 dev0
    let c := cmd0 0x10 loadP0
    d.starting 1 0x10 = some c ∧ (d.port 0).d3 = false ∧ (bitsOf (c.P 3) 24 18 = 0 ∨ c.P 5 = 0) ∧
    (loadStatus .oc40a d c (u32s [0, 0, 0, 0]) [] 4).1 = stSuccess) := by decide +kernel

def load1 (writing : Bool) : Load := { cmd := 1, mat := { mat1 with id := 0 }, writing := writing, targets := [(0, false)] }
theorem witness_load_start : (let d := { Busy 0x10 loadP [0, 1] dev0 with loads := [load1 false] }
    d.loads.find? (fun x => x.cmd = 1 && !x.writing) = some (load1 false) ∧
    d.cmdOf 1 = some { cmd0 0x10 loadP with stage := .busy, waits := [0, 1] } ∧
    [0, 1].any (fun g => d.swaps.any (fun x => x.group = g)) = false ∧ targetLoading d [0] = false ∧ targetNamed d [0] = false) := by
  decide +kernel
theorem witness_load_complete : (let d := { Busy 0x10 loadP [] dev0 with loads := [load1 true] }
    d.loads.find? (fun x => x.cmd = 1 && x.writing) = some (load1 true) ∧ (d.cmdOf 1).isSome = true ∧ (d.port 0).d3 = false ∧
    (match (loadImage .oc40a (load1 true).mat (.ok []) d).1 with | .ok n => decide (n = 0) | .error _ => false) = true ∧
    imageFault (load1 true).mat 0 = none ∧ (((load1 true).targets.zipIdx).all (fun t => mendable (errsOf [] t.2))) = true ∧
    (load1 true).targets.any (fun t => (d.mac t.1).retire) = false ∧ d.matIdx.head = some 1) := by decide +kernel

def swapP (g : Nat) : List (BitVec 64) := [BitVec.ofNat 64 g]
theorem witness_swap_none : (let d := Ready 0x11 (swapP 0) dev0
    d.starting 1 0x11 = some (cmd0 0x11 (swapP 0)) ∧ groupMacros d (bitsOf ((cmd0 0x11 (swapP 0)).P 0) 11 0) = []) := by decide +kernel
/-- Macro 0 with both banks Ready. -/
def macBoth : Macro := { mac0 with bankB := { bank1 with matrix := 2 } }
theorem witness_swap : (let d := { Ready 0x11 (swapP 1) devM with macros := [(0, macBoth)] }
    d.starting 1 0x11 = some (cmd0 0x11 (swapP 1)) ∧ swapStatus d (bitsOf ((cmd0 0x11 (swapP 1)).P 0) 11 0) = stSuccess) := by
  decide +kernel
def swap1 : Swap := { group := 1, cmd := 1, hub := 0 }
theorem witness_swap_pending : (let d := { Ready 0x11 (swapP 1) devM with macros := [(0, macBoth)], swaps := [swap1] }
    groupMacros d 1 = [0] ∧ (groupMacros d 1).any (fun m => macroOffline d m || ((d.mac m).unread && !(d.mac m).loaded)) = false ∧ d.swaps.any (fun x => x.group = 1) = true) := by decide +kernel
theorem witness_swap_effect : (let d := { Busy 0x11 (swapP 1) [] devM with macros := [(0, macBoth)], swaps := [swap1] }
    d.swaps.find? (fun x => x.group = 1) = some swap1 ∧ (d.cmdOf 1).isSome = true ∧ groupAtBoundary d 1 = true ∧
    (groupMacros d 1).all (fun m => !(d.mac m).reload && !(d.mac m).retire && (d.mac m).shadow.st = .ready) = true) := by
  decide +kernel

theorem witness_run_job : (let p : List (BitVec 64) := [5, 0, 0, 0, 0]
    let d := Ready 0x19 p devM
    d.starting 1 0x19 = some (cmd0 0x19 p) ∧ bitsOf ((cmd0 0x19 p).P 4) 8 0 = 0 ∧ xferAbsent .oc40a [] = false ∧
    d.progs.any (fun x => x.handle = bitsOf ((cmd0 0x19 p).P 0) 31 0 && !x.doomed) = true ∧
    (d.jobs.filter (fun j => j.prog = bitsOf ((cmd0 0x19 p).P 0) 31 0 && j.stage = .waiting)).length <
      (if d.jobs.any (fun j => j.prog = bitsOf ((cmd0 0x19 p).P 0) 31 0 && j.stage != .waiting) then 16 else 17) ∧
    bitsOf ((cmd0 0x19 p).P 1) 31 0 = 0) := by decide +kernel
/-- One transfer in, of 64 bytes to allocation 3, whose bytes check engine 3 follows; the slots in that allocation, and no program. -/
def xferImg : Bytes := toLe 8 0x4000 ++ toLe 8 0 ++ toLe 4 3 ++ toLe 4 64 ++ toLe 8 14
theorem witness_run_job_transfer : (let p : List (BitVec 64) := [0, 3, 64, 0x1000, 1]
    let d := Ready 0x19 p devA
    let c := cmd0 0x19 p
    d.starting 1 0x19 = some c ∧ bitsOf (c.P 4) 8 0 = 1 ∧ c.P 3 ≠ 0 ∧ (d.port 0).d3 = false ∧
    xferAbsent .oc40a ((List.range 1).map (fun i => Xfer.ofNat (imgNat xferImg (32 * i) 32))) = false ∧ bitsOf (c.P 0) 31 0 = 0 ∧
    d.allocs.any (fun a => a.handle = bitsOf (c.P 1) 31 0 && a.live) = true) := by decide +kernel

/-- A tile instruction: MPROJ of matrix 1, shape 1 x 1,024, bounds 4, 100, 32. -/
def instW : Nat := 1 + 2 ^ 64 + 4 * 2 ^ 128 + 100 * 2 ^ 160 + 32 * 2 ^ 192
def inst1 : TInst := .ofNat instW
/-- A counter record that its first starter has made ready: raw and real 4, the bounds, one starter, one sharer. -/
def recReady : Nat :=
  4 * 2 ^ 128 + 4 * 2 ^ 192 + 4 * 2 ^ 320 + 100 * 2 ^ 352 + 32 * 2 ^ 384 + 2 ^ 416 + 2 ^ 438 + 2 ^ 472
def iss0 (stage : IssStage) (run : List Nat) : IssState := { issuer := 0, pc := 0, stage := stage, run := run, swept := false, lost := false }
def job1 (iss : IssState) : Job :=
  { id := 1, prog := 5, cmd := some 1, port := 0, stage := .running, xfers := [], params := [], descs := [], slotAlloc := 0, slotOff := 0,
    slots := [], epoch := 0, fail := none, halted := false, smiss := false, dups := [], iss := [iss] }
/-- The module with that job running, its issuer in a stage, and a counter record. -/
def devJ (iss : IssState) (record : Nat) : Dev :=
  (({ Busy 0x19 [5] [] devM with jobs := [job1 iss], nextJob := 2 }).swriteNat 0 0 32 instW).swriteNat 0 0x1000 64 record

def devWait (stage : JobStage) : Dev := { devJ (iss0 .start []) 0 with jobs := [{ job1 (iss0 .start []) with stage := stage }] }
def xferIn : Xfer := { haddr := 0x4000, doff := 0, alloc := 3, len := 64, out := false, chk := false, cen := 0 }
/-- A job with no instruction finds no failure at the loader. -/
def devNone (stage : JobStage) : Dev :=
  { devWait stage with progs := [{ prog5 with issuers := [], ctrs := [] }] }
theorem witness_job_start : (let d := devNone .waiting
    d.jobOf 1 = some { job1 (iss0 .start []) with stage := .waiting } ∧
    d.jobs.any (fun x => x.prog = 5 && (x.stage != .waiting || decide (x.id < 1)) && x.id != 1) = false ∧
    (let r := readSlots .oc40a ((jobIssuers d (job1 (iss0 .start []))).foldl (fun d i => settleClear i.issuer d) d)
        { job1 (iss0 .start []) with stage := .waiting }
     r.1 = List.replicate 16 0 ∧ r.2.1 = false) ∧
    loaderFailure .oc40a d { job1 (iss0 .start []) with stage := .waiting } (List.replicate 16 0) = none ∧
    ([] : List Xfer).all (fun x => xferOk d 0 x) = true) := by decide +kernel
theorem witness_job_refused : (let d := { devWait .waiting with mats := [] }
    (loaderFailure .oc40a d { job1 (iss0 .start []) with stage := .waiting } (List.replicate 16 0)).any (fun f => f.1 != stHostAccess) = true ∧
    (d.cmdOf 1).isSome = true ∧ d.tiles.all (fun y => y.job != 1) = true) := by decide +kernel
theorem witness_copy_in : (let d := devWait .copyIn
    d.jobOf 1 = some { job1 (iss0 .start []) with stage := .copyIn } ∧ portOpen d 0 = true ∧ switchTakes d 0 [52] 3 = true ∧
    [HostRead.ok [1]].all (fun r => match r with | .ok _ => true | .fail _ => false) = true) := by decide +kernel
theorem witness_copy_in_fails : (let d := { devWait .copyIn with jobs := [{ job1 (iss0 .start []) with stage := .copyIn, xfers := [xferIn] }] }
    let reads := (List.range ([xferIn].filter (fun x => !x.out)).length).map (fun i => nth (HostRead.ok []) [.fail 2] i)
    d.jobOf 1 = some { job1 (iss0 .start []) with stage := .copyIn, xfers := [xferIn] } ∧ portOpen d 0 = true ∧ switchTakes d 0 [52] 3 = true ∧
    reads.findSome? (fun r => match r with | .fail k => some k | .ok _ => none) = some 2 ∧ (d.cmdOf 1).isSome = true) := by decide +kernel
theorem witness_copy_out : (let d := { devNone .running with jobs := [{ job1 (iss0 .finished []) with stage := .running }] }
    let j := { job1 (iss0 .finished []) with stage := .running }
    d.jobOf 1 = some j ∧ jobOver d j = true ∧ (jobOutcome d j).fail = none ∧ portOpen d 0 = true) := by decide +kernel
theorem witness_job_complete : (let d := devWait .ended
    d.jobOf 1 = some { job1 (iss0 .start []) with stage := .ended } ∧ (d.cmdOf 1).isSome = true) := by decide +kernel

/-- A job that is over, with no transfer out, ends at JOB_COMPLETE. -/
theorem witness_job_complete_over : (let d := { devNone .running with jobs := [{ job1 (iss0 .finished []) with stage := .running }] }
    let j := { job1 (iss0 .finished []) with stage := .running }
    d.jobOf 1 = some j ∧ jobOver d j = true ∧ j.xfers.all (fun x => !x.out) = true ∧ (d.cmdOf 1).isSome = true) := by decide +kernel

theorem witness_fence : (Ready 0x1A [1] dev0).starting 1 0x1A = some (cmd0 0x1A [1]) := by decide +kernel
theorem witness_fence_complete : (let d := Busy 0x1A [1] [9] dev0
    (d.cmdOf 1).isSome = true ∧ ([9] : List Nat).all (fun w => (d.cmdOf w).isNone) = true) := by decide +kernel
theorem witness_fence_waits : (let d := Busy 0x1A [1] [1] dev0
    ([1] : List Nat).any (fun w => (d.cmdOf w).isSome) = true) := by decide +kernel
def abortP : List (BitVec 64) := [0x10009]
theorem witness_abort_none : (let d := Ready 0x1B abortP dev0
    d.starting 1 0x1B = some (cmd0 0x1B abortP) ∧ d.cmds.all (fun e => !(e.port == 0 && e.q == bitsOf ((cmd0 0x1B abortP).P 0) 19 16 &&
      e.cid == BitVec.ofNat 16 (bitsOf ((cmd0 0x1B abortP).P 0) 15 0))) = true) := by decide +kernel
def target9 : Cmd := { id := 9, port := 0, q := 1, cid := 9, opc := 0x28, p := [], stage := .ready, waits := [] }
theorem witness_abort : (let d := { Ready 0x1B abortP dev0 with cmds := [cmd0 0x1B abortP, target9] }
    d.starting 1 0x1B = some (cmd0 0x1B abortP) ∧
    d.cmds.find? (fun e => e.port = 0 && e.q = bitsOf ((cmd0 0x1B abortP).P 0) 19 16 &&
      e.cid = BitVec.ofNat 16 (bitsOf ((cmd0 0x1B abortP).P 0) 15 0) && abortable e &&
      !(e.opc = 0x19 && d.jobs.any (fun j => j.cmd = some e.id && j.stage = .ended))) = some target9 ∧ target9.id ≠ 1 ∧ d.cmdOf target9.id = some target9) := by decide +kernel

/-! ### Hints, maintenance, check engines -/

theorem witness_hint : (Ready 0x20 [0x400100, 10] dev0).starting 1 0x20 = some (cmd0 0x20 [0x400100, 10]) := by decide +kernel
theorem witness_hint_ramp : governs .oc40a dev0 3 = true := by decide +kernel
def hint0 (used : Bool) : Hint :=
  { hub := 0, phase := 0, target := 64, lead := 10, port := 0, ramping := true, reached := true, falling := false, used := used }
theorem witness_hint_expiry : (let d := { dev0 with pow := { dev0.pow with hints := [hint0 false] } }
    d.pow.hints.find? (fun y => y.hub = 0 && y.phase = 0) = some (hint0 false) ∧ (hint0 false).reached = true) := by decide +kernel

/-- Codes of Table 13.9: macro 0, wedge 5 of facet 3, port 0. -/
def macCode : Nat := (codeOf (.mac 0 0 0)).toNat
def wedgeCode : Nat := (codeOf (.wedge 3 5)).toNat
theorem witness_calibrate : (let p : List (BitVec 64) := [BitVec.ofNat 64 macCode]
    let d := Ready 0x28 p devM
    d.starting 1 0x28 = some (cmd0 0x28 p) ∧
    ((targetOf (bitsOf ((cmd0 0x28 p).P 0) 31 0)).elim [] targetMacros).filter (calibrates .oc40a d) = [0]) := by decide +kernel
theorem witness_calibrate_none : (let p : List (BitVec 64) := [BitVec.ofNat 64 macCode]
    let d := { Ready 0x28 p devM with macros := [(0, { mac0 with oos := true })] }
    ((targetOf (bitsOf ((cmd0 0x28 p).P 0) 31 0)).elim [] targetMacros).filter (calibrates .oc40a d) = []) := by decide +kernel
def testP (test : Nat) : List (BitVec 64) := [BitVec.ofNat 64 wedgeCode, BitVec.ofNat 64 test]
theorem witness_selftest : (let d := Ready 0x29 (testP 0) dev0
    d.starting 1 0x29 = some (cmd0 0x29 (testP 0)) ∧ targetOf (bitsOf ((cmd0 0x29 (testP 0)).P 0) 31 0) = some (.wedge 3 5) ∧
    hasTest (.wedge 3 5) 0 = true ∧ ownUnit 0 (.wedge 3 5) = false ∧ testTarget d (.wedge 3 5) = true ∧ d.seq.tests.any (fun x => x.target = codeOf (.wedge 3 5)) = false) := by
  decide +kernel
theorem witness_selftest_march : hasTest (.wedge 3 5) 2 = true ∧ marchCode (.wedge 3 5) = some 53 := by decide
def run5 : TestRun := { target := codeOf (.wedge 3 5), test := 0, cmd := some 1 }
def devTest : Dev := { Busy 0x29 (testP 0) [] dev0 with seq := { dev0.seq with tests := [run5], isolated := [codeOf (.wedge 3 5)] } }
/-- A unit isolated for its test is out of service; one with a march running is busy. -/
theorem witness_selftest_offline : testTarget devTest (.wedge 3 5) = false := by decide +kernel
theorem witness_selftest_busy : (let d := { devTest with seq := { devTest.seq with tests := [{ run5 with test := 2 }], isolated := [] } }
    testTarget d (.wedge 3 5) = true ∧ d.seq.tests.any (fun x => x.target = codeOf (.wedge 3 5)) = true) := by decide +kernel
theorem witness_selftest_done :
    devTest.seq.tests.find? (fun x => x.target = codeOf (.wedge 3 5)) = some run5 ∧
    targetOf (codeOf (.wedge 3 5)).toNat = some (.wedge 3 5) ∧ unitDrained devTest (.wedge 3 5) = true ∧
    linkFaults (.wedge 3 5) 0 ⟨true, [], [], [], []⟩ = none ∧ unitPasses devTest (.wedge 3 5) ⟨true, [], [], [], []⟩ = true ∧
    unitPasses devTest (.wedge 3 5) ⟨false, [], [], [], []⟩ = false ∧ (devTest.cmdOf 1).isSome = true ∧ ownUnit 0 (.wedge 3 5) = false := by
  decide +kernel
theorem witness_selftest_march_done : (let d := { devTest with seq := { devTest.seq with tests := [{ run5 with test := 2 }], isolated := [] } }
    d.seq.tests.find? (fun x => x.target = codeOf (.wedge 3 5)) = some { run5 with test := 2 } ∧ (d.cmdOf 1).isSome = true ∧
    (marchCode (.wedge 3 5)).elim true (fun k => (d.sbank k).march.isNone) = true) := by decide +kernel
theorem sound_devTest : devTest.Sound :=
  ⟨by decide, by decide, by decide, fun p => by
      simp only [Dev.port]
      rcases p with _ | _ | _ | _ | p <;> first | decide | rfl,
    fun p => by rcases p with _ | _ | _ | _ | p <;> first | decide | rfl,
    fun p => by rcases p with _ | _ | _ | _ | p <;> first | decide | rfl,
    by decide, by decide, fun p => Nat.le_trans (show inFlight devTest p ≤ 1 from by
      simp only [inFlight, devTest, Busy, dev0, Dev.reset, List.filter_nil, List.length_nil, Nat.add_zero]
      exact List.length_filter_le _ _) (by decide), by decide, by decide⟩
def resetP : List (BitVec 64) := [BitVec.ofNat 64 wedgeCode]
theorem witness_reset_unit : (let d := Ready 0x2A resetP dev0
    d.starting 1 0x2A = some (cmd0 0x2A resetP) ∧ targetOf (bitsOf ((cmd0 0x2A resetP).P 0) 31 0) = some (.wedge 3 5) ∧
    holdsWriting d (.wedge 3 5) = false ∧ ownUnit 0 (.wedge 3 5) = false) := by decide +kernel
theorem witness_reset_own : (let p : List (BitVec 64) := [BitVec.ofNat 64 (codeOf (.port 0)).toNat]
    let d := Ready 0x2A p dev0
    d.starting 1 0x2A = some (cmd0 0x2A p) ∧ targetOf (bitsOf ((cmd0 0x2A p).P 0) 31 0) = some (.port 0) ∧ ownUnit 0 (.port 0) = true) := by
  decide +kernel
def devDefer : Dev := { dev0 with seq := { dev0.seq with deferred := [codeOf (.wedge 3 5)] } }
theorem witness_reset_deferral : targetOf (codeOf (.wedge 3 5)).toNat = some (.wedge 3 5) ∧ codeOf (.wedge 3 5) ∈ devDefer.seq.deferred ∧
    holdsWriting devDefer (.wedge 3 5) = false := by decide +kernel

def ceP (op : Nat) : List (BitVec 64) := [BitVec.ofNat 64 (op * 256 + 3), 0x10001, 0x04C11DB7, 0xFFFFFFFF, 0xFFFFFFFF, 32, 5]
theorem witness_ce : (Ready 0x30 (ceP 0) dev0).starting 1 0x30 = some (cmd0 0x30 (ceP 0)) ∧
    bitsOf ((cmd0 0x30 (ceP 0)).P 0) 9 8 = 0 ∧ bitsOf ((cmd0 0x30 (ceP 1)).P 0) 9 8 = 1 ∧ bitsOf ((cmd0 0x30 (ceP 2)).P 0) 9 8 = 2 := by
  decide +kernel
/-- An engine that follows the frames of Narsy link 0, and one that follows a transfer into allocation 3. -/
def ce3 (kind page : Nat) (last : Option Nat) : CheckEngine :=
  { cfg := { kind := kind, enable := true, width := 32, poly := 0x04C11DB7, page := page }, lastSeq := last, xfer := if kind = 1 then 513 else 0 }
def devCe (kind : Nat) (last : Option Nat) : Dev :=
  { devWait .copyIn with ces := [(3, ce3 kind 0 last)],
                         jobs := [{ job1 (iss0 .start []) with stage := .copyIn, xfers := [{ xferIn with chk := true, cen := 3 }] }] }
theorem witness_ce_frame : targetPresent .oc40a (.ce 3) = true ∧ targetOffline (devCe 2 (some 4)) (.ce 3) = false ∧
    ((devCe 2 (some 4)).ce 3).sees 2 0 = true ∧ ((devCe 2 (some 4)).ce 3).next = none ∧ ((devCe 2 (some 4)).ce 3).setNext = none ∧
    seqKind 2 false (some 4) 4 = .again ∧ seqKind 2 false (some 4) 5 = .inOrder ∧ seqKind 2 false (some 4) 6 = .gap ∧
    seqKind 2 false (some 4095) 0 = .inOrder ∧ ((devCe 2 (some 4)).ce 3).cfg.page = 0 := by decide +kernel
theorem witness_ce_transfer : ((devCe 1 (some 4)).ce 3).sees 1 0 = true ∧ ceTransfer (devCe 1 (some 4)) 3 3 0 64 = some 513 ∧
    (1 = 1 && some ((devCe 1 (some 4)).ce 3).xfer != some 513) = false ∧ seqKind 1 false (some 4) 5 = .inOrder ∧
    seqKind 1 true (some 0) 0 = .inOrder ∧ seqKind 1 true (some 0) 1 = .gap := by decide +kernel

/-! ### Issuers and tiles -/

def ctr1 : CtrEntry := { id := 1, home := 0, addr := 0x1000, bmoff := 0, bmcap := 1024 }
def at1 (wait : Nat) : AtInst := { issuer := 0, pc := 0, t := inst1, p := {}, c := ctr1, sh := { ctr := 1, grain := 0, wait := wait } }

/-- The issuer of the running job stands at its instruction and may act. -/
abbrev Stands (d : Dev) (i : IssState) (a : AtInst) : Prop :=
  issuerJob d 0 = some (job1 i, i) ∧ atInst d (job1 i) i = some a ∧ mayAct d (job1 i) i = true

/-- No access waits for a fill: none is a tile's. -/
theorem no_tile_waits (d : Dev) (h : d.mem.waiting = []) : NoTileWaits d := by intro w hw; rw [h] at hw; cases hw
theorem witness_no_tile_waits : NoTileWaits (devJ (iss0 .start []) 0) := no_tile_waits _ (by decide +kernel)
theorem witness_instruction_start : (let i := iss0 .start []
    Stands (devJ i 0) i (at1 0) ∧ (at1 0).sh.wait = 0 ∧ ctrStarters (settleClear ctr1.home (devJ i 0)) ctr1 + 1 < 2 ^ 16) := by decide +kernel
theorem witness_instruction_released : (let i := iss0 .released []
    Stands (devJ i 0) i (at1 0) ∧ ctrStarters (devJ i 0) ctr1 + 1 < 2 ^ 16) := by decide +kernel
theorem witness_ready_poll : (let i := iss0 .waitReady []
    Stands (devJ i recReady) i (at1 0) ∧ ctrReady (devJ i recReady) ctr1 = true ∧ Stands (devJ i 0) i (at1 0) ∧
    ctrReady (devJ i 0) ctr1 = false) := by decide +kernel
/-- The instruction waits on counter 2, which is complete, or dead. -/
def ctr2 : CtrEntry := { id := 2, home := 0, addr := 0x1040, bmoff := 0, bmcap := 1024 }
def devWaits (record : Nat) : Dev :=
  { (devJ (iss0 .start []) 0).swriteNat 0 0x1040 64 record with
    progs := [{ prog5 with
      issuers := [{ issuer := 0, ninst := 1, pstart := 0, shares := [{ ctr := 1, grain := 0, wait := 2 }] }],
      ctrs := [ctr1, ctr2] }] }
theorem witness_wait_release : (let i := iss0 .start []
    Stands (devWaits (recReady + 4 * 2 ^ 256)) i (at1 2) ∧ ctrOfJob (devWaits (recReady + 4 * 2 ^ 256)) (job1 i) 2 = some ctr2 ∧
    ctrComplete (devWaits (recReady + 4 * 2 ^ 256)) ctr2 = true ∧ ctrDead (devWaits (recReady + 4 * 2 ^ 256)) ctr2 = false ∧
    ctrDead (devWaits (recReady + 2 ^ 439)) ctr2 = true ∧ ctrReady (devWaits (recReady + 2 ^ 439)) ctr2 = true ∧
    Stands (devWaits recReady) i (at1 2) ∧ ctrComplete (devWaits recReady) ctr2 = false ∧ ctrDead (devWaits recReady) ctr2 = false ∧
    ctrStarters (settleClear ctr1.home (devWaits (recReady + 4 * 2 ^ 256))) ctr1 + 1 < 2 ^ 16) := by
  decide +kernel

theorem witness_work_claim : (let i := iss0 .claim []
    let d := devJ i recReady
    Stands d i (at1 0) ∧ issuerOffline d 0 = false ∧ swapHolds d (at1 0) = false ∧ i.run = [] ∧ settleClear 0 d = d ∧
    ctrNext d ctr1 + grainOf 0 < 2 ^ 64 ∧ matsActive d (at1 0) = true ∧ ctrNext d ctr1 < ctrRaw d ctr1) := by decide +kernel
/-- The next claim is due once the first tile of the run has issued. -/
theorem witness_claim_due : (let i := { iss0 .claim [1] with due := true }
    Stands (devJ i recReady) i (at1 0) ∧ i.due = true ∧ i.run ≠ []) := by decide +kernel
theorem witness_claim_beyond : (let i := iss0 .claim []
    let d := devJ i (recReady + 4)
    Stands d i (at1 0) ∧ matsActive d (at1 0) = true ∧ ctrRaw d ctr1 ≤ ctrNext d ctr1 ∧
    matsActive { d with mats := [] } (at1 0) = false ∧ Stands { d with mats := [] } i (at1 0)) := by decide +kernel
theorem witness_sweep_none : (let i := iss0 .sweep []
    let d := devJ i (recReady + 4)
    Stands d i (at1 0) ∧ issuerOffline d 0 = false ∧ swapHolds d (at1 0) = false ∧ sweepOwed d (job1 i) (at1 0) = false) := by
  decide +kernel
theorem witness_sweep_owed : (let i := iss0 .sweep []
    let j := { job1 i with epoch := 1 }
    let d := { devJ i (recReady + 4) with jobs := [j] }
    issuerJob d 0 = some (j, i) ∧ atInst d j i = some (at1 0) ∧ mayAct d j i = true ∧ sweepOwed d j (at1 0) = true ∧
    settleClear 0 d = d ∧ ctrSweep d ctr1 + grainOf 0 < 2 ^ 64 ∧ passRaw d (at1 0) ≠ 0) := by decide +kernel
theorem witness_rejoin : (let i := { iss0 .claim [] with lost := true }
    issuerJob (devJ i recReady) 0 = some (job1 i, i) ∧ i.lost = true ∧ issuerOffline (devJ i recReady) 0 = false) := by decide +kernel
theorem witness_home_sweep : (let i := { iss0 .claim [] with lost := true }
    let j := { job1 i with epoch := 1 }
    let d0 := { devJ i (recReady + 4) with jobs := [j] }
    let d := { d0 with seq := { d0.seq with unitHeld := [codeOf (.wedge 0 0)] } }
    d.jobOf 1 = some j ∧ d.progOf j.prog = some prog5 ∧
    atInst d j (homeSlot 1) = some (at1 0) ∧ j.stage = .running ∧ j.halted = false ∧
    (j.iss.find? (fun x => x.issuer = 0x8000 + 1)).elim true (fun x => x.run.isEmpty) = true ∧ noSharerLeft d j prog5 1 = true ∧
    ctrReady d ctr1 = true ∧ ctrComplete d ctr1 = false ∧ ctrDead d ctr1 = false ∧ sweepOwed d j (at1 0) = true ∧
    issuerRuns d (actorOf d j (homeSlot 1)) = true ∧ swapHolds d (at1 0) = false ∧
    ctrSweep d ctr1 + grainOf 0 < 2 ^ 64) := by decide +kernel

def devIss (engine : Bool) : Dev := if engine then { devJ (iss0 .claim [0, 1]) recReady with macros := [] } else devJ (iss0 .claim [0, 1]) recReady
abbrev IssueMeets (d : Dev) (gi gj : Nat) (gone room : Bool) : Prop :=
  (let i := iss0 .claim [0, 1]
   let a := at1 0
   Stands d i a ∧ i.run = 0 :: [1] ∧
   gridAt (gridOf a.t (instUnits d a.t) (ctrB0 d a.c) (ctrB1 d a.c)).1
      (gridOf a.t (instUnits d a.t) (ctrB0 d a.c) (ctrB1 d a.c)).2 (ctrLside d a.c) (ctrJlong d a.c) 0 = some (gi, gj) ∧
   (let ms := tileMacros d a.t a.p gj
    let ws := (ms.map wedgeOfMacro).eraseDups
    ws = [0] ∧ tileUnitGone d a.t ms ws 0 = gone ∧ tileRoom d a.t ms ws 0 = room ∧ a.p.hV = 0))
theorem witness_tile_issue : IssueMeets (devIss false) 0 0 false true := by decide +kernel
theorem witness_tile_no_room : IssueMeets ((devIss false).modWedge 0 (fun x => { x with tiles := [7, 8, 9, 10] })) 0 0 false false := by
  decide +kernel
theorem witness_tile_gone : IssueMeets { devIss false with macros := [(0, { mac0 with oos := true })] } 0 0 true true := by decide +kernel

/-- The tile that issuer 0 issues at position 0, and the module with it. -/
def tile1 : Tile := newTile (devIss false) (job1 (iss0 .claim [0, 1])) (at1 0) (iss0 .claim [0, 1]) 0 0 0 [0] 0
def devT (x : Tile) : Dev := { (devIss false).modWedge 0 (fun w => { w with tiles := [x.id] }) with tiles := [x], nextTile := x.id + 1 }

/-- A set whose first way holds the line, whichever set that is. -/
theorem wayOf_first (m : Mem) (slice line : Nat) (l : Line) (hm : m.lines = [(wayKey slice line 0, l)]) (e : l.line = line) :
    wayOf m slice line = some 0 ∧ tfind m.lines (wayKey slice line 0) = some l := by
  have hf : tfind m.lines (wayKey slice line 0) = some l := by rw [hm]; simp [tfind]
  refine ⟨?_, hf⟩
  have hr : List.range 16 = 0 :: (List.range 15).map (fun x => x + 1) := by decide
  unfold wayOf
  rw [hr, List.find?_cons_of_pos]
  rw [hf]
  simp [e]

theorem access_first (v : Variant) (d : Dev) (slice line off len : Nat) (op : MemOp) (policy : Nat) (l : Line)
    (hg : sliceGone v d slice = false) (hm : d.mem.lines = [(wayKey slice line 0, l)]) (e : l.line = line) (hq : d.mem.waiting = []) :
    (accessNow v slice line off len op policy d).1 = (hitLine l off len op).1 ∧
      (accessNow v slice line off len op policy d).2.1 = (hitLine l off len op).2.1 := by
  obtain ⟨hw, hf⟩ := wayOf_first d.mem slice line l hm e
  have hs : serveFirst slice line policy d = d := by simp [serveFirst, waitersOf, hq]
  simp [accessNow, accessAlone, accessHit, hg, hs, hw, hf]

/-- The tile formed, and the line of its counter's bitmap in its slice. -/
def tileF : Tile := { tile1 with stage := .formed, items := 0 }
def lineB (b : Byte) : Line := { line := 0, rr := 0, dirty := false, pinned := false, poison := false, data := b :: List.replicate 63 0 }
def devF (b : Byte) : Dev := { devT tileF with mem := { (devT tileF).mem with lines := [(wayKey 0 0 0, lineB b)] } }
theorem witness_commit_ready : (devT tileF).tileOf tileF.id = some tileF ∧ tileF.stage = .formed ∧ unitsRun (devT tileF) tileF = true ∧
    leftOver (devT tileF) tileF.id = none := by decide +kernel
theorem witness_commit_left : (let p : Pairing := { tile := tileF.id, scales := [{ exp := 5, tag := 3 }] }
    leftOver { devT tileF with pairs := [(0, p)] } tileF.id = some (0, p)) := by decide +kernel
/-- What does not read the memory. -/
theorem put_mem (d : Dev) (m : Mem) (v : Variant) (k : Nat) (x : Tile) :
    Dev.jobOf (fresh { d with mem := m }) k = d.jobOf k ∧
    Dev.progOf (fresh { d with mem := m }) k = d.progOf k ∧ Dev.allocOf (fresh { d with mem := m }) k = d.allocOf k ∧
    tileCtr (fresh { d with mem := m }) x = tileCtr d x ∧ sliceGone v (fresh { d with mem := m }) k = sliceGone v d k :=
  ⟨rfl, rfl, rfl, rfl, rfl⟩

theorem set_bit_at (d : Dev) (b : Byte) (hs : sliceGone .oc40a d 0 = false) (hj : d.jobOf tileF.job = some (job1 (iss0 .claim [0, 1])))
    (hg : d.progOf (job1 (iss0 .claim [0, 1])).prog = some prog5) (hc : tileCtr d tileF = some ctr1)
    (ha : d.allocOf prog5.calloc = some alloc3) (hm : d.mem.lines = [(wayKey 0 0 0, lineB b)]) (hw : d.mem.waiting = []) :
    ∃ d1, setBit .oc40a tileF d = ((leNat [b]).testBit 0, false, d1) := by
  have h := access_first .oc40a d 0 0 0 1 (.testSet 0) 0 (lineB b) hs hm rfl hw
  have hp : allocPlace alloc3 (prog5.coff + ctr1.bmoff + tileF.q / 8) = some (0, 0, 0) := by decide +kernel
  have hq : tileF.q % 8 = 0 := by decide +kernel
  simp only [setBit, hj, Option.bind_some, hg, hc, ha, devAccess, hp, hq, show alloc3.policy = 0 from rfl, h.1, h.2]
  exact ⟨_, rfl⟩

theorem set_bit (b : Byte) : ∃ d1, setBit .oc40a tileF (fresh (devF b)) = ((leNat [b]).testBit 0, false, d1) :=
  set_bit_at (fresh (devF b)) b ((put_mem (devT tileF) _ .oc40a 0 tileF).2.2.2.2.trans (by decide +kernel))
    ((put_mem (devT tileF) _ .oc40a _ tileF).1.trans (by decide +kernel))
    ((put_mem (devT tileF) _ .oc40a _ tileF).2.1.trans (by decide +kernel))
    ((put_mem (devT tileF) _ .oc40a 0 tileF).2.2.2.1.trans (by decide +kernel))
    ((put_mem (devT tileF) _ .oc40a _ tileF).2.2.1.trans (by decide +kernel)) rfl (show (devT tileF).mem.waiting = [] by decide +kernel)
theorem witness_commit : (∃ d1, setBit .oc40a tileF (fresh (devF 0)) = (false, false, d1)) ∧ ∃ d1, setBit .oc40a tileF (fresh (devF 1)) = (true, false, d1) :=
  ⟨set_bit 0, set_bit 1⟩
def tileW (acks : List Nat) : Tile :=
  { tile1 with stage := .writing, writes := [.spad 0 0x800 [1, 2, 3, 4], .spad 0 0x804 [5]], acks := acks }
theorem witness_write_accept : (devT (tileW [])).tileOf tile1.id = some (tileW []) ∧ (tileW []).writes[0]? = some (.spad 0 0x800 [1, 2, 3, 4]) ∧
    (tileW []).writes[1]? = some (.spad 0 0x804 [5]) ∧ (tileW []).acks.length + 1 ≠ (tileW []).writes.length ∧
    (tileW [0]).acks.length + 1 = (tileW [0]).writes.length ∧ (tileW [0]).halo = [] ∧ 1 ∉ (tileW [0]).acks ∧ tile1.ss < 256 ∧
    (devT (tileW [0])).tileOf tile1.id = some (tileW [0]) := by decide +kernel

/-- A tile with a write to device memory, whose line its slice holds. -/
def tileD : Tile := { tile1 with stage := .writing, writes := [.mem 3 0 (.write [7]), .mem 3 1 (.write [8])], acks := [] }
def devD : Dev := { devT tileD with mem := { (devT tileD).mem with lines := [(wayKey 0 0 0, lineB 0)] } }
theorem dev_write_at (d : Dev) (hs : sliceGone .oc40a d 0 = false) (hm : d.mem.lines = [(wayKey 0 0 0, lineB 0)]) (hw : d.mem.waiting = []) :
    ∃ d1, devWrite .oc40a alloc3 0 [7] d = (false, d1) := by
  have h := access_first .oc40a d 0 0 0 1 (.write [7]) 0 (lineB 0) hs hm rfl hw
  have hp : allocPlace alloc3 0 = some (0, 0, 0) := by decide +kernel
  have hl : linePieces 0 1 = [(0, 1)] := by decide +kernel
  simp only [devWrite, List.length_singleton, hl, List.foldl_cons, List.foldl_nil, hp, Nat.sub_self, List.drop_zero,
    show ([7] : Bytes).take 1 = [7] from rfl, show alloc3.policy = 0 from rfl, h.2]
  exact ⟨_, rfl⟩
theorem witness_write_memory : (devT tileD).tileOf tile1.id = some tileD ∧ tileD.writes[0]? = some (.mem 3 0 (.write [7])) ∧
    (devT tileD).allocOf 3 = some alloc3 ∧ alloc3.kind = .stack ∧ tileD.acks.length + 1 ≠ tileD.writes.length := by decide +kernel
theorem witness_write_accepted : NoTileWaits devD ∧ ∃ d1, devWrite .oc40a alloc3 0 [7] (fresh devD) = (false, d1) :=
  ⟨no_tile_waits _ (show (devT tileD).mem.waiting = [] by decide +kernel),
    dev_write_at _ ((put_mem (devT tileD) _ .oc40a 0 tileD).2.2.2.2.trans (by decide +kernel)) rfl
      (show (devT tileD).mem.waiting = [] by decide +kernel)⟩

/-- A tile past its test-and-set with a message for its neighbour to the east, wedge 1. -/
def tileH : Tile := { tileW [] with halo := [(1, [(0, 1)])], haloN := [(1, 1)] }
theorem witness_halo_append : (devT tileH).tileOf tile1.id = some tileH ∧ tfind tileH.halo 1 = some [(0, 1)] ∧
    neighbour tileH.issuer 1 = some 1 ∧ targetOffline (devT tileH) (.wedge (1 / 16) (1 % 16)) = false ∧
    (tget [] ((devT tileH).wedge 1).inbox (opposite 1)).length < 4 := by decide +kernel
theorem witness_halo_full : (let d := (devT tileH).modWedge 1 (fun w => { w with inbox := [(3, [[], [], [], []])] })
    4 ≤ (tget [] (d.wedge 1).inbox (opposite 1)).length ∧ targetOffline d (.wedge (1 / 16) (1 % 16)) = false) := by decide +kernel
theorem witness_halo_gone : (let d := devT tileH
    let e := { d with seq := { d.seq with unitHeld := [codeOf (.wedge 0 1)] } }
    targetOffline e (.wedge (1 / 16) (1 % 16)) = true) := by decide +kernel
def devIn : Dev := (devT tile1).modWedge 0 (fun w => { w with inbox := [(1, [[(0, 9)]])] })
theorem witness_halo_read : devIn.tileOf tile1.id = some tile1 ∧ tile1.stage = .issued ∧ (neighbour tile1.issuer 1).isSome = true ∧
    tget [] (devIn.wedge tile1.issuer).inbox 1 ≠ [] ∧ 1 ∉ tile1.haloRead := by decide +kernel
/-- A direction whose message another tile has consumed is read again. -/
theorem witness_halo_again : (let x := { tile1 with haloRead := [1], haloGone := [1] }
    let d := (devT x).modWedge 0 (fun w => { w with inbox := [(1, [[(0, 9)]])] })
    d.tileOf tile1.id = some x ∧ 1 ∈ x.haloGone ∧ tget [] (d.wedge x.issuer).inbox 1 ≠ []) := by decide +kernel
/-- A tile whose operand 0 lies in a halo allocation. -/
def allocHalo : Alloc := { alloc3 with handle := 9, kind := .halo, size := 16384, arcs := [], issuer := 0 }
def descHalo : Desc := { desc2 with handle := 2, alloc := 9, base := 8192 }
def tileHr : Tile := { tile1 with inst := { inst1 with op := [2] } }
def devHr : Dev := { devT tileHr with allocs := [alloc3, allocHalo], jobs := [{ job1 (iss0 .claim [0, 1]) with descs := [descHalo] }] }
theorem witness_halo_timeout : devHr.tileOf tile1.id = some tileHr ∧ readsDir .oc40a devHr tileHr 2 = true ∧ (neighbour tileHr.issuer 2).isSome = true ∧
    tget [] (devHr.wedge tileHr.issuer).inbox 2 = [] ∧ 2 ∉ tileHr.haloRead ∧ tileHr.haloTo < 10001 := by decide +kernel
/-- A swept position whose bit is set, or clear, in a bitmap whose reads pass the slices by. -/
def issS : IssState := { iss0 .sweep [0, 1] with swept := true }
def devSw (b : Byte) : Dev :=
  { devJ issS recReady with allocs := [{ alloc3 with policy := 2 }], mem := { dev0.mem with stack := if b = 0 then [] else [(0, b)] } }
theorem witness_lane_hub : isLaneFn 0x10 = true ∧ hubPresent .oc40a (31 / 8) = true := by decide +kernel
theorem witness_tile_swept : [((1 : Byte), false), (0, true)].all (fun c =>
    let d := devSw c.1
    let a := at1 0
    let ms := tileMacros d a.t a.p 0
    issuerJob d 0 == some (job1 issS, issS) && atInst d (job1 issS) issS == some a && mayAct d (job1 issS) issS &&
    !tileUnitGone d a.t ms [0] 0 && tileRoom d a.t ms [0] 0 && (sweptClear .oc40a (job1 issS) a issS 0 d).1 == c.2) = true := by
  decide +kernel

/-! ### Pairing, macros, final adders -/

def block0 (tag : BitVec 4) : DataBlock := { tag := tag, c0 := 0, c1 := 0, q := List.replicate 32 3 }
def entry5 (tag : BitVec 4) : ScaleEntry := { exp := 130, tag := tag }
def devPair (p : Pairing) : Dev := { devT tile1 with pairs := [(0, { p with tile := tile1.id })] }
theorem witness_pairing : (devPair {}).tileOf tile1.id = some tile1 ∧ feeds (devPair {}) tile1 (.mac 0) = true ∧
    pairRuns (devPair {}) (.mac 0) = true ∧ pairingFor (devPair {}) (pairKey (.mac 0)) tile1.id = some { tile := tile1.id } ∧
    tile1.inst.func ≠ fMTHR ∧ tile1.inst.func ≠ fMPRED := by decide +kernel
/-- A block comes from the address generator, with a property of it. -/
theorem block_comes (d : Dev) (x : Tile) (m : Nat) (n : BlockAt) (P : DataBlock → Bool) (h1 : takesBlock d x (.mac m) n = true)
    (h2 : inputFull d (.mac m) = false) (h3 : n.product ≠ 2) (h4 : blockHere .oc40a d x 0 n.k n.c1 = true)
    (h5 : (let r := sideBlock .oc40a x (.mac m) n (fresh d)
           r.1.elim false P && !r.2.waits) = true) : ∃ b d1, BlockComes .oc40a d (.mac m) x n b d1 ∧ P b = true := by
  rcases hr : sideBlock .oc40a x (.mac m) n (fresh d) with ⟨_ | b, d1⟩
  · rw [hr] at h5; cases h5
  · rw [hr] at h5
    simp only [Option.elim, Bool.and_eq_true, Bool.not_eq_true'] at h5
    exact ⟨b, d1, ⟨h1, h2, .inr ⟨h3, h4, hr, h5.2⟩⟩, h5.1⟩
theorem scale_comes (d : Dev) (x : Tile) (m : Nat) (n : BlockAt) (P : ScaleEntry → Bool) (h1 : takesBlock d x (.mac m) n = true)
    (h3 : n.product ≠ 2) (h5 : (let r := sideScale .oc40a x (.mac m) n (fresh d)
           r.1.elim false P && !r.2.waits) = true) : ∃ e d1, ScaleComes .oc40a d (.mac m) x n e d1 ∧ P e = true := by
  rcases hr : sideScale .oc40a x (.mac m) n (fresh d) with ⟨_ | b, d1⟩
  · rw [hr] at h5; cases h5
  · rw [hr] at h5
    simp only [Option.elim, Bool.and_eq_true, Bool.not_eq_true'] at h5
    exact ⟨b, d1, ⟨h1, .inr ⟨h3, hr, h5.2⟩⟩, h5.1⟩
/-- A block and its scale entry come: of an operand without a tensor, all zero and of tag 0; whatever waits at the pairing side. -/
theorem witness_block_comes : [({} : Pairing), { scales := [entry5 0] }, { scales := [entry5 1] }, { scaleEnded := true }].all (fun p =>
    let d := devPair p
    takesBlock d tile1 (.mac 0) ⟨0, 0, 0⟩ && !inputFull d (.mac 0) && blockHere .oc40a d tile1 0 0 0 &&
    (let r := sideBlock .oc40a tile1 (.mac 0) ⟨0, 0, 0⟩ (fresh d)
     r.1.elim false (fun b => b.tag == 0) && !r.2.waits)) = true := by decide +kernel
theorem witness_block_comes_one : ∃ b d, BlockComes .oc40a (devPair { scales := [entry5 0] }) (.mac 0) tile1 ⟨0, 0, 0⟩ b d ∧
    (b.tag == (entry5 0).tag) = true :=
  block_comes _ _ _ _ (fun b => b.tag == (entry5 0).tag) (by decide +kernel) (by decide +kernel) (by decide) (by decide +kernel)
    (by decide +kernel)
theorem witness_scale_comes : [({} : Pairing), { waiting := [block0 0] }, { waiting := [block0 1] }, { dataEnded := true }].all (fun p =>
    let d := devPair p
    takesBlock d tile1 (.mac 0) ⟨0, 0, 0⟩ &&
    (let r := sideScale .oc40a tile1 (.mac 0) ⟨0, 0, 0⟩ (fresh d)
     r.1.elim false (fun e => e.tag == 0) && !r.2.waits)) = true := by decide +kernel
theorem witness_scale_comes_one : ∃ e d, ScaleComes .oc40a (devPair { waiting := [block0 0] }) (.mac 0) tile1 ⟨0, 0, 0⟩ e d ∧
    (e.tag == (block0 0).tag) = true :=
  scale_comes _ _ _ _ (fun e => e.tag == (block0 0).tag) (by decide +kernel) (by decide) (by decide +kernel)
/-- A staging buffer filled, whatever it holds. -/
theorem witness_staging_full :
    inputFull (devPair { waiting := List.replicate (Config.stagingRoom 0 + 1) (block0 0) }) (.mac 0) = true := by
  show decide (Config.stagingRoom 0 < (List.replicate (Config.stagingRoom 0 + 1) (block0 0)).length + 0) = true
  rw [List.length_replicate]
  simp
/-- A threshold tile, whose block has no entry. -/
def tileTh : Tile := { tile1 with inst := { inst1 with func := fMTHR } }
theorem witness_pairing_threshold : tileTh.inst.func = fMTHR ∧ feeds (devT tileTh) tileTh (.mac 0) = true ∧
    ∃ b d, BlockComes .oc40a (devT tileTh) (.mac 0) tileTh ⟨0, 0, 0⟩ b d ∧ (b.tag == 0) = true :=
  ⟨rfl, by decide +kernel, block_comes _ _ _ _ (fun b => b.tag == 0) (by decide +kernel) (by decide +kernel) (by decide) (by decide +kernel)
    (by decide +kernel)⟩
/-- A tile whose operand 0 is a tensor of an allocation: of one without an arc, which reads as poison, or of a window, whose read waits. -/
def descIn0 : Desc := { desc2 with handle := 4, fmt := 0 }
def tileIn0 : Tile := { tile1 with inst := { inst1 with op := [4, 4, 1, 0, 0, 0] } }
def devIn0 (al : Alloc) : Dev :=
  { devT tileIn0 with allocs := [al], jobs := [{ job1 (iss0 .claim [0, 1]) with descs := [descIn0] }] }
theorem witness_block_poison : (let d := devIn0 { alloc3 with arcs := [] }
    feeds d tileIn0 (.mac 0) = true ∧ takesBlock d tileIn0 (.mac 0) ⟨0, 0, 0⟩ = true ∧ inputFull d (.mac 0) = false ∧
    blockHere .oc40a d tileIn0 0 0 0 = true ∧
    (let r := sideBlock .oc40a tileIn0 (.mac 0) ⟨0, 0, 0⟩ (fresh d)
     r.2.waits = false ∧ r.1.isNone = true) ∧
    (let r := sideScale .oc40a tileIn0 (.mac 0) ⟨0, 0, 0⟩ (fresh d)
     r.2.waits = false ∧ r.1.isNone = true)) := by decide +kernel
theorem witness_block_waits : (let d := devIn0 { alloc3 with kind := .window, arcs := [] }
    feeds d tileIn0 (.mac 0) = true ∧ takesBlock d tileIn0 (.mac 0) ⟨0, 0, 0⟩ = true ∧ inputFull d (.mac 0) = false ∧
    blockHere .oc40a d tileIn0 0 0 0 = true ∧ (sideBlock .oc40a tileIn0 (.mac 0) ⟨0, 0, 0⟩ (fresh d)).2.waits = true ∧
    (sideScale .oc40a tileIn0 (.mac 0) ⟨0, 0, 0⟩ (fresh d)).2.waits = true) := by decide +kernel
theorem witness_pairing_held : (let p : Pairing := { tile := tile1.id, scales := [entry5 0] }
    let q : Pairing := { tile := tile1.id, waiting := [block0 0] }
    let r : Pairing := { tile := tile1.id, scaleEnded := true }
    let t : Pairing := { tile := tile1.id, dataEnded := true }
    pairingFor (devPair p) 0 tile1.id = some p ∧ (entry5 0).tag = (block0 0).tag ∧ (entry5 1).tag ≠ (block0 0).tag ∧
    pairingFor (devPair q) 0 tile1.id = some q ∧ pairingFor (devPair r) 0 tile1.id = some r ∧
    pairingFor (devPair t) 0 tile1.id = some t) := by decide +kernel

def devAdmit (x : Tile) : Dev := { devT x with pairs := [(0, { tile := x.id, paired := [(block0 0, 130)] })] }
abbrev AdmitMeets (d : Dev) (x : Tile) (mat : Matrix) : Prop :=
  d.tileOf x.id = some x ∧ x.stage = .issued ∧ (tget {} d.pairs 0).tile = x.id ∧ (tget {} d.pairs 0).paired = [(block0 0, 130)] ∧
  serves x (d.mac 0).active.matrix (block0 0).product = true ∧ d.matOf (d.mac 0).active.matrix = some mat ∧ (d.mac 0).blk = none ∧
  (d.mac 0).reload = false ∧ (d.mac 0).retire = false ∧ forcedFirst d x 0 = false ∧ (d.mac 0).active.st = .ready ∧
  0 < tileVecs x.inst x.gi x.b0 ∧ (0, fedKey 0 0) ∉ x.fed ∧ (block0 0).c0 = 32 * (d.mac 0).active.rb ∧ (block0 0).c1 = x.vecAt 0 ∧
  domRuns d (domWedge (wedgeOfMacro 0)) = true ∧ stageFull d 0 = false
theorem witness_admit : AdmitMeets (devAdmit tile1) tile1 mat1 ∧ streamsOutliers tile1 0 mat1 = false ∧
    xoOutliers (devAdmit tile1) 0 = false := by decide +kernel
theorem witness_side_none : SideComes .oc40a (devAdmit tile1) tile1 0 mat1 0 0 { rows := [], exp := 0, tag := 0 } (devAdmit tile1) :=
  .inl ⟨by decide +kernel, rfl, rfl⟩
/-- The output stage is full: as many blocks as it and the final adder's input hold are not reduced, whatever that input holds. -/
def tileFull : Tile := { tile1 with fed := List.replicate (2 + Config.adderInput 0) (0, fedKey 0 1) }
theorem witness_stage_full : (devAdmit tileFull).tileOf tile1.id = some tileFull ∧ (0, fedKey 0 0) ∉ tileFull.fed ∧
    stageFull (devAdmit tileFull) 0 = true := by
  refine ⟨rfl, fun h => ?_, ?_⟩
  · have := List.eq_of_mem_replicate h
    simp [fedKey] at this
  · have hs : serves tileFull ((devAdmit tileFull).mac 0).active.matrix 0 = true := by
      show serves tile1 1 0 = true
      decide +kernel
    have hp : tileFull.products = [0] := by
      show tile1.products = [0]
      decide +kernel
    have hn : heldPartials (devAdmit tileFull) 0 = 2 + Config.adderInput 0 := by
      show (([tileFull] : List Tile).map _).sum = _
      simp only [List.map, hp, hs, if_true, List.sum_cons, List.sum_nil, Nat.add_zero]
      show ((List.replicate (2 + Config.adderInput 0) (0, fedKey 0 1)).filter _).length = _
      rw [List.filter_replicate_of_pos (by decide +kernel), List.length_replicate]
    unfold stageFull
    rw [hn]
    simp [wedgeOfMacro]
    omega
/-- A matrix with an outlier row, and a tile that streams it. -/
def matOut : Matrix := { mat1 with outliers := [3] }
def tileOut : Tile := { tile1 with prm := { tile1.prm with oinD := 1 } }
theorem witness_admit_outliers : AdmitMeets { devAdmit tileOut with mats := [matOut] } tileOut matOut ∧ streamsOutliers tileOut 0 matOut = true ∧
    outlierRows matOut 0 ≠ [] ∧
    xoOutliers { (devAdmit tileOut).modWedge 0 (fun w => { w with xoOut := [1] }) with mats := [matOut] } 0 = true := by decide +kernel
/-- The side of vector 0 or 1 of an outlier operand without a tensor: its tag is the vector's. -/
theorem witness_side : [0, 1].all (fun ovec =>
    let d := { devAdmit tileOut with mats := [matOut] }
    let r := fetchOutliers .oc40a tileOut matOut 0 ovec (fresh d)
    streamsOutliers tileOut 0 matOut && !r.1.2 && !r.2.waits && r.2.tileOf tileOut.id == some tileOut &&
    r.1.1.tag == BitVec.ofNat 4 ovec) = true := by decide +kernel
theorem witness_side_tags : (BitVec.ofNat 4 1).toNat ≠ tileOut.vecAt 0 % 16 ∧ (BitVec.ofNat 4 0).toNat = tileOut.vecAt 0 % 16 := by
  decide +kernel

/-- A block on macro 0: `n` rows hold 1 in plane 0, and `amb` says what its re-resolution owes. -/
def blk0 (n plane : Nat) (amb : List (Nat × Nat)) : Blk :=
  { tile := tile1.id, vec := 0, rb := 0, cb := 0, q := List.replicate n 1 ++ List.replicate (32 - n) 0, exp := 130, plane := plane, pass := 0,
    amb := amb, sums := [], outRows := [], outExp := 0, terms := [], termsDone := true }
def devBlk (b : Blk) (x : Tile) : Dev :=
  { devT x with macros := [(0, { mac0 with blk := some b })], pow := { (devT x).pow with doms := [(domWedge 0, { credit := 100000 })] } }
abbrev PlaneMeets (d : Dev) (b : Blk) (x : Tile) (kind : PlaneKind) : Prop :=
  (d.mac 0).blk = some b ∧ d.tileOf b.tile = some x ∧ blkProduct x (d.mac 0).active b = some 0 ∧ b.plane < 8 ∧ b.amb = [] ∧
  planeKind d 0 x b (rowsOn (planeOf b.q b.plane)).length = kind ∧
  mayStep d (domWedge (wedgeOfMacro 0)) (macEnergy d (hubOfWedge 0) x.inst.phase) kind.steps = true
theorem witness_plane_blend : PlaneMeets (devBlk (blk0 15 0 []) tile1) (blk0 15 0 []) tile1 .blend := by decide +kernel
theorem witness_plane_fallback : PlaneMeets (devBlk (blk0 16 0 []) tile1) (blk0 16 0 []) tile1 .fallback := by decide +kernel
theorem witness_plane_skip : PlaneMeets (devBlk (blk0 16 7 []) tile1) (blk0 16 7 []) tile1 .skip := by decide +kernel
theorem witness_plane_exact : (let x := { tile1 with inst := { inst1 with mode := 1 } }
    PlaneMeets (devBlk (blk0 4 0 []) x) (blk0 4 0 []) x .exact) := by decide +kernel
theorem witness_plane_unmarked : ∀ i, i < 8 → tfind ((devBlk (blk0 4 0 []) tile1).wedge 0).marks (slotOf (devBlk (blk0 4 0 []) tile1) 0 * 8 + i) = none := by
  decide +kernel
theorem witness_reresolution : (let d := devBlk (blk0 4 1 [(2, 1)]) tile1
    (d.mac 0).blk = some (blk0 4 1 [(2, 1)]) ∧ (blk0 4 1 [(2, 1)]).amb ≠ [] ∧
    mayStep d (domWedge (wedgeOfMacro 0)) (macEnergy d (hubOfWedge 0) tile1.inst.phase) 1 = true ∧
    (sensePairs (d.mac 0).active.packing)[1]?.isSome = true) := by decide +kernel

theorem witness_recal : (({ devM with macros := [(0, { mac0 with recReq := true })] } : Dev).mac 0).recReq = true := by decide +kernel
theorem witness_outlier_term : (let b := { blk0 4 3 [] with termsDone := false, outRows := [(3, 500)], outExp := 120 }
    let d := devBlk b tile1
    (d.mac 0).blk = some b ∧ d.tileOf b.tile = some tile1 ∧ domRuns d (domWedge (wedgeOfMacro 0)) = true ∧ b.termsDone = false ∧
    xoOutliers d 0 = false) := by decide +kernel
theorem witness_output_stage : (let b := blk0 4 8 []
    let d := devBlk b tile1
    (d.mac 0).blk = some b ∧ 8 ≤ b.plane ∧ b.amb = [] ∧ lastPass d 0 b ≤ b.pass ∧ b.termsDone = true) := by decide +kernel

theorem witness_reduce : (let x := { tile1 with inst := { inst1 with op := [0, 0, 1, 0, 4, 4] }, fed := [(0, 0)], items := 4 }
    (devT x).tileOf x.id = some x ∧ isMacroFn x.inst.func = true ∧ x.inst.func ≠ fMFUSE ∧ x.gj = 0 ∧
    (devT x).matOf (matOfProduct x 0) = some mat1 ∧ serves x mat1.id 0 = true ∧ (0, 0) ∉ x.reduced ∧ mat1.rowBlocks = 1 ∧
    (mat1.placed 0 0, fedKey 0 0) ∈ x.fed ∧ (1 < x.items) ∧ treeOver mat1.rowBlocks (.leaf 0) = true ∧ isThreshold x = false ∧ x.inst.rowfn = 0 ∧
    x.prm.hV = 0 ∧ formsOut x = true ∧ domRuns (devT x) (domWedge (wedgeOfMacro (mat1.placed 0 0))) = true) := by decide +kernel
theorem witness_reduce_threshold : (let x := { tile1 with inst := { inst1 with func := fMTHR }, fed := [(0, 0)], items := 1 }
    (devT x).tileOf x.id = some x ∧ isMacroFn x.inst.func = true ∧ isThreshold x = true ∧ (devT x).matOf (matOfProduct x 0) = some mat1 ∧
    serves x mat1.id 0 = true ∧ x.items ≤ 1 ∧ x.strictMiss = false) := by decide +kernel
/-- A tile that audits neuron 5 of vector 0, whose gate value is formed. -/
def tileA : Tile := { tile1 with drawn := [5], outs := [(outKey 2 0 5, 0x3F800000)] }
theorem witness_audit : (devT tileA).tileOf tileA.id = some tileA ∧ 5 ∈ tileA.drawn ∧
    tfind tileA.outs (outKey 2 (5 / 2 ^ 32) (5 % 2 ^ 32)) = some 0x3F800000 ∧ (devT tileA).matOf (tileA.inst.opnd 2) = some mat1 ∧
    domRuns (devT tileA) (domWedge (wedgeOfMacro (mat1.placed 0 (5 % 2 ^ 32 / unitsOf mat1.packing)))) = true := by decide +kernel

theorem witness_audit_terms : ∀ n, termsDue (devT tileA) n = false := fun n => by rcases n with _ | n <;> rfl

/-! ### Forming sides, conversions -/

/-- A tile whose output of column block 0 is formed by quantiser 0, with every value there. -/
def descOut : Desc := { desc2 with handle := 4, fmt := 0 }
def tileQ : Tile :=
  { tile1 with inst := { inst1 with op := [0, 0, 1, 0, 4, 4] }, reduced := [(0, 0)],
               outs := [(outKey 0 0 0, 0x3F800000)], items := 1 }
def devQz (fs : List Forming) : Dev := { devT tileQ with
  jobs := [{ job1 (iss0 .claim [0, 1]) with descs := [descOut] }], quants := [(0, { forming := fs })] }
/-- Its forming issue, with what has left. -/
def forming0 (seen : List Nat) (trk : Nat) (strict : Bool) : Forming :=
  { tile := tileQ.id, exps := [(0, 127), (1, 127), (2, 127), (3, 127)], trk := trk, strict := strict, headroom := 1, outs := [[], []],
    ended := [1], amax := [], clips := [], nonfin := [], seen := seen }
theorem witness_forming_start : (devQz []).tileOf tileQ.id = some tileQ ∧ domRuns (devQz []) (quantDom 0) = true ∧ formSs 0 < 256 ∧
    tileQ.stage = .issued ∧ 0 ∈ formSides (devQz []) tileQ ∧ formingOf (devQz []) 0 tileQ.id = none ∧ formEnded tileQ 0 = false ∧
    formPositions (devQz []) tileQ 0 0 = [0, 1, 2, 3] ∧ formPositions (devQz []) tileQ 1 0 = [] := by decide +kernel
theorem witness_quantise : (let f := forming0 [] 0 false
    formingOf (devQz [f]) 0 tileQ.id = some f ∧ 0 < formVecs tileQ ∧ partForms tileQ 0 = true ∧ 0 ∈ formCols (devQz [f]) tileQ 0 0 ∧
    seenKey 0 0 0 ∉ f.seen ∧ midHeld (devQz [f]) tileQ 0 0 = false ∧
    valueReady tileQ 0 0 0 (partUnits (devQz [f]) tileQ 0) = true ∧ 0 ∉ f.list 0) := by decide +kernel
/-- A fused pair whose second matrix's macro has its staging buffer full, whatever that holds. -/
def tileFu : Tile := { tileQ with inst := { tileQ.inst with func := fMFUSE }, prm := { tileQ.prm with mat2 := 1 } }
def devFu : Dev := { devQz [forming0 [] 0 false] with
  tiles := [tileFu], pairs := [(0, { waiting := List.replicate (Config.stagingRoom 0 + 1) (block0 0) })] }
theorem witness_quantise_held : formingOf devFu 0 tileFu.id = some (forming0 [] 0 false) ∧ 0 < formVecs tileFu ∧ partForms tileFu 1 = true ∧
    midHeld devFu tileFu 1 0 = true := by
  refine ⟨by decide +kernel, by decide +kernel, by decide +kernel, ?_⟩
  have hm : devFu.matOf tileFu.prm.mat2 = some mat1 := by decide +kernel
  have hf : stagingFull devFu 0 = true := by
    show decide (Config.stagingRoom 0 < (List.replicate (Config.stagingRoom 0 + 1) (block0 0)).length + 0) = true
    rw [List.length_replicate]
    simp
  have hp : mat1.placed (0 / 32) 0 = 0 := by decide +kernel
  simp only [midHeld, hm, Option.elim, Bool.and_eq_true, List.any_eq_true]
  exact ⟨by decide, 0, by decide +kernel, by rw [hp]; exact hf⟩
/-- A tile whose output has an outlier channel, column 3, and the row of tiles that has its outlier values. -/
def tileQo : Tile := { tileQ with prm := { tileQ.prm with omat := 1 } }
def outVec0 : OutVec :=
  { quant := 0, job := tileQ.job, ctr := tileQ.ctr, gi := 0, part := 0, entry := 4, exp := 127, trk := 0, headroom := 1, list := [3],
    parts := [OutPart.start tileQ.id] }
theorem witness_quantise_outlier : (let f := { forming0 [] 0 false with outs := [[3], []] }
    let d := { devQz [f] with mats := [{ mat1 with outliers := [3] }], tiles := [tileQo], outVecs := [outVec0] }
    d.tileOf tileQo.id = some tileQo ∧ formingOf d 0 tileQo.id = some f ∧ outVecOf d tileQo 0 = some outVec0 ∧
    0 ∈ formPlaces (f.list 0) d tileQo 0 0 ∧ seenKey 0 0 (2 ^ 33 + 0) ∉ f.seen ∧ domRuns d (quantDom outVec0.quant) = true ∧
    nth 0 (f.list 0) 0 = 3 ∧ valueReady tileQo 0 0 3 (partUnits d tileQo 0) = true) := by decide +kernel
def allGone : List Nat := List.range 100
/-- What ends with a forming issue: the parts that have left, and whether a position missed. -/
def endParts (d : Dev) (x : Tile) (f : Forming) : List Nat := [1, 0].filter (fun p => !f.ended.contains p && partLeft d x p)
def endMissed (d : Dev) (x : Tile) (f : Forming) : Bool :=
  ((endParts d x f).map (judgeAll d x f)).flatten.any (fun j => j.2.miss) ||
    (endParts d x f).any (fun p => f.clips.any (fun e => e.1 / 65536 = posKey p outPos && decide (0 < e.2)))
theorem witness_forming_end : (let f := forming0 allGone 0 false
    let g := { forming0 allGone 0 true with clips := [(0, 100)] }
    let x := { tileQ with items := 2 }
    formingOf (devQz [f]) 0 tileQ.id = some f ∧ endParts (devQz [f]) tileQ f = [0] ∧ outVecOf (devQz [f]) tileQ 0 = none ∧
    outVecOf (devQz [f]) tileQ 1 = none ∧ endMissed (devQz [f]) tileQ f = false ∧ f.ended.length + 1 = 2 ∧
    endParts (devQz [forming0 [] 0 false]) tileQ (forming0 [] 0 false) = [] ∧
    formingOf (devQz [g]) 0 tileQ.id = some g ∧ endParts (devQz [g]) tileQ g = [0] ∧ endMissed (devQz [g]) tileQ g = true ∧
    tileQ.smiss = false ∧ tileQ.strictMiss = false ∧ tileQ.items ≤ 1 ∧ 1 < x.items ∧
    endMissed { devQz [g] with tiles := [x] } x g = true ∧ ({ devQz [g] with tiles := [x] } : Dev).tileOf tileQ.id = some x) := by
  decide +kernel
/-- Of a fused pair the intermediate ends first, while the output goes on. -/
theorem witness_forming_end_first : (let f := { forming0 [] 0 false with exps := [(posKey 1 0, 127)], ended := [] }
    let x := { tileFu with prm := { tileFu.prm with mat2 := 1 }, inst := { tileFu.inst with op := [0, 0, 1, 0, 4, 4] } }
    let d := { devQz [{ f with seen := (List.range 100).map (fun c => seenKey 1 0 c) }] with tiles := [x] }
    endParts d x { f with seen := (List.range 100).map (fun c => seenKey 1 0 c) } = [1]) := by decide +kernel

/-- A data tensor and its scale tensor in an allocation whose reads pass the slices by, and a scale of 0xF9. -/
def descDat (ocp : Bool) : Desc := { desc2 with handle := 2, fmt := 0, use := 1, ocp := ocp }
def descScl : Desc := { desc2 with handle := 6, fmt := 0xA, use := 1, base := 64, dims := [(1, 1)] }
def devDma (ocp : Bool) (e : Byte) : Dev :=
  { dev0 with allocs := [{ alloc3 with policy := 2 }], descs := [descDat ocp, descScl], mem := { dev0.mem with stack := [(64, e)] } }
theorem witness_conversion : NoTileWaits (devDma true 0xF9) ∧ (let d := devDma true 0xF9
    targetOffline d (.hub 0) = false ∧ dmaTensor d 2 = some (descDat true, { alloc3 with policy := 2 }) ∧ inTensor (descDat true) [0] = true ∧
    dmaTensor d 6 = some (descScl, { alloc3 with policy := 2 }) ∧ (descDat true).fmt = 0 ∧ descScl.fmt = 0xA ∧ (descDat true).use = 1 ∧
    descScl.use = 1) := ⟨no_tile_waits _ (by decide +kernel), by decide +kernel⟩
theorem witness_conversion_out : [((false, 0xF9), 0xF9), ((true, 0xF9), 0xF9), ((true, 0xFF), 0xFF), ((true, 3), 3)].all
    (fun (c : (Bool × Byte) × Nat) =>
      let d := devDma c.1.1 c.1.2
      let al := { alloc3 with policy := 2 }
      let r := dmaRead .oc40a 0 (descDat c.1.1) al [0] 16 d
      let r2 := dmaRead .oc40a 0 descScl al [0] 1 r.2.2
      !r.2.1 && !r2.2.1 && nth 0 r2.1 0 == c.2) = true := by decide +kernel

/-! ### Stream engines -/

/-- A lane tile on engine 0. -/
def tileL (func shape rowfn : Nat) (ops : List Nat) (b1 b2 : Nat) : Tile :=
  { tile1 with
    inst := { inst1 with func := func, shape := shape, rowfn := rowfn, op := ops },
    engine := some 0, wedges := [], b0 := 8, b1 := b1, b2 := b2, items := 1 }
/-- Descriptors 2 (hub 0, FP32), 3 (a table of an absent hub) and 4. -/
def allocFar : Alloc := { alloc3 with handle := 8, arcs := [{ hub := 9, frame0 := 0, frame1 := 0 }] }
def descsL : List Desc :=
  [{ desc2 with handle := 2, fmt := 3, nd := 1, perm := [0, 1], dims := [(64, 32), (64, 2048)] },
   { desc2 with handle := 3, alloc := 8, fmt := 3, nd := 1, perm := [0, 1], dims := [(64, 32), (64, 2048)] }, descOut]
def devL (x : Tile) (e : Engine) : Dev :=
  { devT x with
    allocs := [alloc3, allocFar], jobs := [{ job1 (iss0 .claim [0, 1]) with descs := descsL }], engines := [(0, e)],
    pow := { (devT x).pow with doms := [(domEngine 0, { credit := 100000 })] } }
def tileDot : Tile := tileL fLDOT 5 0 [2, 0, 2, 0, 2, 0] 64 1
def dev6 : Dev := devL tileDot {}

theorem witness_fetch_no_waits : NoTileWaits dev6 := no_tile_waits _ (by decide +kernel)
theorem witness_fetch_good : dev6.tileOf tileDot.id = some tileDot ∧ tileDot.stage = .issued ∧ haloHere .oc40a dev6 tileDot 0 [70, 0] = true ∧
    (fetchOperand .oc40a tileDot 0 [70, 0] (fresh dev6)).1.poison = false ∧
    (fetchOperand .oc40a tileDot 0 [70, 0] (fresh dev6)).2.waits = false ∧ tileDot.engine = some 0 ∧ domRuns dev6 (domEngine 0) = true := by decide +kernel
theorem witness_fetch_poison : (let x := tileL fLROW 0 0 [3, 0, 0, 0, 2, 0] 64 0
    (devL x {}).tileOf x.id = some x ∧ haloHere .oc40a (devL x {}) x 0 [0, 0] = true ∧
    (fetchOperand .oc40a x 0 [0, 0] (fresh (devL x {}))).2.waits = false ∧ x.engine = some 0 ∧ domRuns (devL x {}) (domEngine 0) = true ∧
    (fetchOperand .oc40a x 0 [0, 0] (fresh (devL x {}))).1.poison = true) := by decide +kernel
/-- An element of a remote window waits for the other device. -/
theorem witness_fetch_waits : (let x := tileL fLROW 0 0 [3, 0, 0, 0, 2, 0] 64 0
    let d := { devL x {} with allocs := [alloc3, { alloc3 with handle := 8, kind := .window, arcs := [] }] }
    d.tileOf x.id = some x ∧ haloHere .oc40a d x 0 [0, 0] = true ∧ x.engine = some 0 ∧ domRuns d (domEngine 0) = true ∧
    (fetchOperand .oc40a x 0 [0, 0] (fresh d)).2.waits = true) := by decide +kernel
/-- A row-wise tile whose item lane 3 runs. -/
def tileRow (b1 : Nat) : Tile := tileL fLROW 0 0 [2, 0, 0, 0, 2, 0] b1 0
def laneItem (x : Tile) (key : Nat) (l : Lane) : Engine := { lanes := [(3, { l with run := some { tile := x.id, key := key } })] }
theorem witness_fetch_lane : (let x := tileRow 64
    let d := devL x (laneItem x 0 {})
    laneRuns d 0 3 x.id = true ∧ x.engine = some 0 ∧ paired x 0 = false ∧ x.inst.func ≠ fLATT ∧ isGridFn x.inst.func = false ∧
    (fetchOperand .oc40a x 0 [64, 0] (fresh d)).2.waits = false ∧ (fetchOperand .oc40a x 0 [64, 0] (fresh d)).1.poison = false) := by decide +kernel
/-- An element for the other input of the lane, of a dot item. -/
theorem witness_fetch_lane_b : (let d := devL tileDot (laneItem tileDot 0 {})
    laneRuns d 0 3 tileDot.id = true ∧ tileDot.engine = some 0 ∧ paired tileDot 2 = false ∧ tileDot.inst.func ≠ fLATT ∧
    haloHere .oc40a d tileDot 2 [70, 0] = true ∧ (fetchOperand .oc40a tileDot 2 [70, 0] (fresh d)).2.waits = false ∧
    (fetchOperand .oc40a tileDot 2 [70, 0] (fresh d)).1.poison = false) := by decide +kernel
theorem witness_dispatch : dev6.tileOf tileDot.id = some tileDot ∧ tileDot.engine = some 0 ∧ (0, 1) ∉ tileDot.reduced ∧
    (dev6.engine 0).disp.length < 32 ∧ domRuns dev6 (domEngine 0) = true := by decide +kernel
theorem witness_window_fill : (let x := { tileDot with prm := { tileDot.prm with wfill := 2, wlen := 512 } }
    (devL x {}).tileOf x.id = some x ∧ x.prm.wfill ≠ 0 ∧ windowReady (devL x {}) x 0 = false) := by decide +kernel
def item1 (key : Nat) : Item := { tile := tileDot.id, key := key }
def eng6 (lanes : Tab Lane) : Engine := { items := [item1 0, item1 64], lanes := lanes, dealAt := 63 }
theorem witness_deal : (let d := devL tileDot (eng6 [(63, { inRing := false }), (0, { queue := List.replicate 16 (item1 0) })])
    (d.engine 0).items = [item1 0, item1 64] ∧
    (ringFrom (d.engine 0) (d.engine 0).dealAt).find? (fun k => decide ((d.lane 0 k).queue.length < 16)) = some 1) := by decide +kernel
theorem witness_item_start : (let d := devL tileDot (eng6 [(3, { queue := [item1 0] })])
    (d.lane 0 3).queue = [item1 0] ∧ (d.lane 0 3).run = none ∧ (d.lane 0 3).inRing = true ∧ windowReady d tileDot 0 = true ∧
    (d.lane 0 3).out = [] ∧ d.tileOf tileDot.id = some tileDot ∧ (d.lane 0 3).ctxs.length < 2) := by decide +kernel
theorem witness_steal : (let d := devL tileDot (eng6 [(4, { queue := [item1 0, item1 64] })])
    victimAt d 0 3 1 = some 4 ∧ (d.lane 0 4).queue.getLast? = some (item1 64) ∧ (d.lane 0 3).queue = [] ∧
    (d.lane 0 3).run = none ∧ (d.lane 0 3).inRing = true ∧ d.num 0x207F 1 1 = 1) := by decide +kernel

def elem1 (opnd c0 c1 : Nat) (bits : BitVec 32) : LaneElem := { opnd := opnd, c0 := c0, c1 := c1, bits := bits, dup := 0, exp := 127 }
def ctx1 : Ctx := { tile := tileDot.id, acc := [], sm := [], tk := [] }
/-- Lane 3 with the elements of output (0, 0) there. -/
def laneDot (prog : Tab Nat) : Lane :=
  { ctxs := [ctx1], inB := [elem1 2 0 0 2], query := [(0, elem1 0 0 0 3)], qtile := tileDot.id, prog := prog }
abbrev DotMeets (d : Dev) (x : Tile) (st : DotStep) : Prop :=
  (d.lane 0 3).run = some { tile := x.id, key := 0 } ∧ d.tileOf x.id = some x ∧ (d.lane 0 3).inRing = true ∧
  (d.lane 0 3).out = [] ∧ x.stage = .issued ∧ isGridFn x.inst.func = true ∧ 0 < tileRows x ∧ 0 ∈ itemCols x 0 ∧ tget 0 (d.lane 0 3).prog (progKey 0 0 0) < redLen x ∧
  dotStep d x (d.lane 0 3) 0 0 (tget 0 (d.lane 0 3).prog (progKey 0 0 0)) = some st ∧ (∃ c ∈ (d.lane 0 3).ctxs, c.tile = x.id) ∧
  mayStep d (domEngine 0) (laneEnergy d (0 / 8) x.inst.phase) (if st.issued then 1 else 0) = true
theorem witness_dot : DotMeets (devL tileDot (laneItem tileDot 0 (laneDot []))) tileDot
    { pairs := [(elem1 0 0 0 3, elem1 2 0 0 2)], next := 1, issued := true, empty := false } := by decide +kernel
theorem witness_dot_empty : (let x := { tileDot with inst := { tileDot.inst with cmp := 1 } }
    DotMeets (devL x (laneItem x 0 { laneDot [] with query := [(0, elem1 0 0 0 0)] })) x
      { pairs := [], next := 1, issued := false, empty := true }) := by decide +kernel
/-- The item whose only output is complete with this step is over. -/
theorem witness_dot_over : (let x := { tileDot with b0 := 1, b1 := 1 }
    DotMeets (devL x (laneItem x 0 (laneDot []))) x
      { pairs := [(elem1 0 0 0 3, elem1 2 0 0 2)], next := 1, issued := true, empty := false } ∧
    gridItemOver x 0 { laneDot [] with prog := [(0, 1)] } = true) := by decide +kernel

def updSm : AccUpd := { tile := tileDot.id, lane := 3, off := 0, op := .softmax 128, words := List.replicate 130 0 }
theorem witness_merge : ((devL tileDot { merge := [updSm] }).engine 0).merge = updSm :: [] ∧ updSm.op = .softmax 128 ∧
    earlierWaits ((devL tileDot { merge := [updSm] }).engine 0) updSm = false ∧
    (recOf { updSm with words := [f32negInf, 0] }.words).m = f32negInf := by decide +kernel
theorem witness_topk : (let u : AccUpd := { updSm with op := .topk, words := [0x3F800000, 7] }
    ((devL tileDot { merge := [u] }).engine 0).merge = u :: [] ∧ u.op = .topk ∧
    earlierWaits ((devL tileDot { merge := [u] }).engine 0) u = false) := by decide +kernel
theorem witness_stream_complete : (let x := { tileDot with items := 0, reduced := [(0, 1)] }
    (devL x {}).tileOf x.id = some x ∧ x.stage = .issued ∧ x.engine = some 0 ∧ tilePending (devL x {}) 0 x.id = false ∧
    x.id ∉ ((devL x {}).engine 0).disp ∧ (0, 0) ∉ x.reduced ∧ (0, 1) ∈ x.reduced ∧ partForms x 0 = false ∧
    domRuns (devL x {}) (domEngine 0) = true) := by decide +kernel
theorem witness_stream_forming : (let x := { tileDot with items := 0, reduced := [(0, 1)], inst := { tileDot.inst with op := [2, 0, 2, 0, 4, 4] } }
    (devL x {}).tileOf x.id = some x ∧ tilePending (devL x {}) 0 x.id = false ∧ partForms x 0 = true) := by decide +kernel

/-! ### Lane items and accumulators -/

abbrev LaneMeets (d : Dev) (x : Tile) (key : Nat) : Prop :=
  (d.lane 0 3).run = some { tile := x.id, key := key } ∧ d.tileOf x.id = some x ∧ (d.lane 0 3).inRing = true ∧
  (d.lane 0 3).out = [] ∧ x.stage = .issued ∧ domRuns d (domEngine 0) = true
theorem witness_candidate : (let x := tileL fLSEL 5 0 [2, 0, 2, 0, 2, 0] 64 1
    let l (score : BitVec 32) : Lane := { ctxs := [{ ctx1 with acc := [(0, score)] }], prog := [(0, 1)] }
    let d := devL x (laneItem x 0 (l 0x3F800000))
    LaneMeets d x 0 ∧ x.inst.func = fLSEL ∧ 0 < tileRows x ∧ 0 ∈ itemCols x 0 ∧
    redLen x ≤ tget 0 (d.lane 0 3).prog (progKey 0 0 0) ∧ tget 0 (d.lane 0 3).prog (progKey 0 0 0) ≠ progDone ∧
    (∃ c ∈ (d.lane 0 3).ctxs, c.tile = x.id) ∧ (f32 (accOf x (l 0x3F800000) 0 0 0)).isNan = false ∧
    (f32 (accOf x (l 0x7FC00000) 0 0 0)).isNan = true) := by decide +kernel
/-- An attention item with one key whose scores are there, and the values of its 64 keys. -/
def tileAtt : Tile := tileL fLATT 5 0 [2, 0, 2, 2, 2, 0] 1 128
/-- The values of n / 128 keys at an operand input. -/
def valsB (n : Nat) : List LaneElem := (List.range n).map (fun i => elem1 3 (i / 128) (i % 128) 1)
def laneAtt : Lane := { ctxs := [ctx1], prog := (List.range 64).map (fun c => (progKey 0 0 c, 128)), inB := valsB 8192 }
theorem valsB_has (n k j : Nat) (l : Lane) (h : l.inB = valsB n) (hk : k < 128) (hn : 128 * j + k < n) :
    (valueElem l k (0 + j)).isSome = true := by
  have hm : elem1 3 j k 1 ∈ l.inB := by
    have e : (128 * j + k) / 128 = j ∧ (128 * j + k) % 128 = k := by omega
    have := List.mem_map_of_mem (f := fun i => elem1 3 (i / 128) (i % 128) 1) (List.mem_range.mpr hn)
    rw [e.1, e.2] at this
    rw [h]
    exact this
  unfold valueElem
  rw [List.find?_isSome]
  exact ⟨_, hm, by rw [Nat.zero_add]; simp only [elem1, decide_true, Bool.and_self]⟩
theorem witness_values : ∀ k j, k < (laneShape tileAtt.inst.shape).2.2 → j < 64 → (valueElem laneAtt k (0 + j)).isSome = true :=
  fun k j hk hj => by
    have hk : k < 128 := hk
    exact valsB_has 8192 k j laneAtt (by simp only [laneAtt]) hk (by omega)
theorem witness_attend : (let x := tileAtt
    let d := devL x (laneItem x 0 laneAtt)
    LaneMeets d x 0 ∧ x.inst.func = fLATT ∧ 0 < tileRows x ∧ tget 0 (d.lane 0 3).prog (2 ^ 40 + 0) = 0 ∧ x.prm.hM = 0 ∧
    ((itemCols x 0).all (fun c => decide (redLen x ≤ tget 0 (d.lane 0 3).prog (progKey 0 0 c)))) = true ∧
    mayStep d (domEngine 0) (laneEnergy d (0 / 8) x.inst.phase) (laneShape x.inst.shape).2.2 = true ∧
    (∃ c ∈ (d.lane 0 3).ctxs, c.tile = x.id)) := by decide +kernel
theorem witness_rowfn : (let x := tileRow 2
    let d := devL x (laneItem x 0 { inA := [elem1 0 0 0 0x3F800000, elem1 0 1 0 0x40000000] })
    LaneMeets d x 0 ∧ x.inst.func = fLROW ∧ x.inst.rowfn ≤ 4 ∧ x.inst.opnd 2 = 0 ∧ x.prm.wlen = 0 ∧ formsOut x = false ∧
    allAt (d.lane 0 3).inA 0 (rowSpan x 0) = true) := by decide +kernel
/-- The first tensor of a token takes the exponents of its span; the second takes them from the first. -/
def tileKv : Tile := { tileL fLAPP 0 0 [2, 2, 4, 4, 4, 0] 2 0 with engine := some 0 }
def devKv (l : Lane) (fs : List Forming) : Dev :=
  { devL tileKv (laneItem tileKv 0 l) with
    quants := [(576, { forming := fs })],
    spans := [0, 1].filterMap (fun k => (spanKey .oc40a tileKv k (tileKv.prm.qpos + (tileKv.gi : Int)) (fresh dev6)).map
      (fun key => (key, { exp := 127 }))) }
abbrev KvMeets (d : Dev) (tensor : Nat) : Prop :=
  LaneMeets d tileKv 0 ∧ tileKv.inst.func = fLAPP ∧ tget 0 (d.lane 0 3).prog tensor = 0 ∧
  allAt (if tensor = 0 then (d.lane 0 3).inA else (d.lane 0 3).inB) tensor (rowSpan tileKv 0) = true
theorem witness_kv_first : (let d := devKv { inA := [elem1 0 0 0 0, elem1 0 1 0 0] } []
    KvMeets d 0 ∧ formingOf d 576 tileKv.id = none ∧ tget 0 (d.lane 0 3).prog 1 = 0 ∧
    [0, 1].all (fun k => (spanKey .oc40a tileKv k (tileKv.prm.qpos + (tileKv.gi : Int)) (fresh d)).elim false
      (fun key => tfind d.spans key == some { exp := 127 })) = true) := by decide +kernel
theorem witness_kv_second : (let f : Forming := { forming0 [] 0 false with tile := tileKv.id, exps := [(posKey 0 0, 127), (posKey 1 0, 127)] }
    let d := devKv { inB := [elem1 1 0 0 0, elem1 1 1 0 0], prog := [(0, 1)] } [f]
    KvMeets d 1 ∧ formingOf d 576 tileKv.id = some f ∧ tget 0 (d.lane 0 3).prog 0 = 1 ∧ tileKv.items ≤ 1) := by decide +kernel
theorem witness_move : (let x := tileL fLMOVE 0 0 [2, 0, 0, 0, 2, 0] 2 0
    let d := devL x (laneItem x 0 { inA := [elem1 0 0 0 7, elem1 0 1 0 8] })
    LaneMeets d x 0 ∧ x.inst.func = fLMOVE ∧ allAt (d.lane 0 3).inA 0 (rowSpan x 0) = true ∧ x.inst.opnd 5 = 0 ∧ x.prm.wlen = 0) := by
  decide +kernel

theorem witness_flush : (let d := devL tileDot { lanes := [(3, { ctxs := [ctx1] })] }
    (d.lane 0 3).ctxs.find? (fun c => decide (c.tile = tileDot.id)) = some ctx1 ∧ laneRuns d 0 3 tileDot.id = false ∧
    d.tileOf tileDot.id = some tileDot ∧ (d.lane 0 3).queue = [] ∧ (d.engine 0).items = [] ∧ (d.lane 0 3).out = []) := by decide +kernel
def upd6 (op : AccOp) (off : Nat) : AccUpd := { tile := tileDot.id, lane := 3, off := off, op := op, words := [0x3F800000] }
def tileWin : Tile := { tileDot with prm := { tileDot.prm with wlen := 64 } }
def devUpd (u : AccUpd) (confl merge : List AccUpd) : Dev :=
  devL tileWin { lanes := [(3, { out := [u] })], confl := [(1, confl)], merge := merge }
theorem witness_acc_arrival : (let u := upd6 .fadd 64
    (devUpd u [] []).tileOf u.tile = some tileWin ∧ ((devUpd u [] []).lane 0 u.lane).out.head? = some u ∧ bankOfOff u.off = 1 ∧
    inWindow tileWin u = true ∧ inWindow tileWin (upd6 .fadd 4096) = false ∧ bankOfOff (upd6 .fadd (4096 + 64)).off = 1 ∧
    (tget [] ((devUpd u (List.replicate 8 u) []).engine 0).confl 1).length = 8) := by decide +kernel
theorem witness_acc_merge : isMerge (upd6 .topk 64).op = true ∧ ((devUpd (upd6 .topk 64) [] (List.replicate 8 (upd6 .topk 64))).engine 0).merge.length = 8 := by
  decide +kernel
theorem witness_acc_apply : tget [] ((devUpd (upd6 .iadd 64) [upd6 .iadd 64] []).engine 0).confl 1 = upd6 .iadd 64 :: [] ∧
    earlierWaits ((devUpd (upd6 .iadd 64) [upd6 .iadd 64] []).engine 0) (upd6 .iadd 64) = false := by decide +kernel

/-! ### Fabric -/

def hop1 : Hop := .lattice 1 3
def fr7 (cls op : Nat) : Frame := { fr0 with op := op, cls := cls, payload := List.replicate 16 1, src := 64, dst := 0 }
def devHop (f : HopState → HopState) : Dev := dev0.modHop hop1 f
abbrev HopMeets (d : Dev) (h : Hop) : Prop := hopRuns .oc40a d h = true ∧ (d.hopOf h).failed = false
/-- Every earlier frame of its flow is ahead of it. -/
abbrev Ordered (d : Dev) (f : Frame) : Prop := inOrder .oc40a d hop1 { f with seq := d.frames } = true
theorem witness_payload : (fr7 0 2).payload.length % 16 = 0 ∧ 16 ≤ (fr7 0 2).payload.length ∧ (fr7 0 2).payload.length ≤ 256 ∧
    (List.replicate 256 (0 : Byte)).length ≤ 256 ∧ 0 < ([7] : Bytes).length := by decide +kernel
theorem witness_frame_send : HopMeets dev0 hop1 ∧ frameOk .oc40a (fr7 0 2) = true ∧ Ordered dev0 (fr7 0 2) ∧ sendsOn .oc40a dev0 hop1 (fr7 0 2) = true ∧
    dropped dev0 hop1 (fr7 0 2) = false ∧ deliversTo hop1 = some (.wedge 0 0) ∧
    endpointUnit (fr7 0 2).dst = some (.wedge 0 0) ∧ dropsFrames dev0 (.wedge 0 0) = false ∧
    0 < nth 0 (dev0.hopOf hop1).credits (fr7 0 2).cls ∧ (dev0.hopOf hop1).wait = [] := by decide +kernel
/-- A read request goes once its unit has reserved room for the response. -/
theorem witness_read_sent : (let d := { dev0 with asks := [(64, 1)] }
    HopMeets d hop1 ∧ frameOk .oc40a (fr7 1 8) = true ∧ Ordered d (fr7 1 8) ∧ sendsOn .oc40a d hop1 (fr7 1 8) = true ∧ 0 < tget 0 d.asks (fr7 1 8).src ∧
    dropped d hop1 (fr7 1 8) = false ∧ 0 < nth 0 (d.hopOf hop1).credits 1) := by decide +kernel
theorem witness_frame_waits : (let d := devHop (fun x => { x with credits := [0, 4, 4, 4] })
    HopMeets d hop1 ∧ Ordered d (fr7 0 2) ∧ sendsOn .oc40a d hop1 (fr7 0 2) = true ∧ dropped d hop1 (fr7 0 2) = false ∧ nth 0 (d.hopOf hop1).credits 0 = 0) := by
  decide +kernel
theorem witness_frame_behind : (let d := { devHop (fun x => { x with wait := [fr7 0 2] }) with frames := 1 }
    HopMeets d hop1 ∧ Ordered d (fr7 0 2) ∧ sendsOn .oc40a d hop1 (fr7 0 2) = true ∧ dropped d hop1 (fr7 0 2) = false ∧
    ∃ g ∈ (d.hopOf hop1).wait, g.cls = (fr7 0 2).cls) := by decide +kernel
theorem witness_frame_dropped : (let d := { dev0 with seq := { dev0.seq with isolated := [codeOf (.wedge 0 0)] } }
    let f := fr7 2 0x10
    HopMeets d hop1 ∧ frameOk .oc40a f = true ∧ Ordered d f ∧ sendsOn .oc40a d hop1 f = true ∧ f.op ≠ 0x08 ∧ f.op ≠ 0x02 ∧ dropped d hop1 f = true) := by
  decide +kernel
theorem witness_frame_receive : (let d := devHop (fun x => { x with replay := [fr7 0 2] })
    HopMeets d hop1 ∧ (d.hopOf hop1).replay = fr7 0 2 :: [] ∧ (d.hopOf hop1).asked = false ∧ [0, 1].all (fun n => decide (n < 2)) = true ∧
    [0, 2].all (fun n => decide (n < 2)) = false) := by decide +kernel
theorem witness_replay : (let d := devHop (fun x => { x with replay := [fr7 0 2], asked := true, succ := 15 })
    HopMeets d hop1 ∧ (d.hopOf hop1).asked = true ∧ (d.hopOf hop1).succ < 16) := by decide +kernel

theorem witness_credit : (let d := devHop (fun x => { x with slots := [fr7 0 2] })
    hopRuns .oc40a d hop1 = true ∧ (d.hopOf hop1).awaiting = false ∧
    (d.hopOf hop1).slots.find? (fun y => y.cls == 0) = some (fr7 0 2) ∧ copiesOf d hop1 (fr7 0 2) = [] ∧
    nextAfter .oc40a d hop1 (fr7 0 2) = none ∧ deliversTo hop1 = some (.wedge 0 0) ∧ unitHolds d (.wedge 0 0) = false ∧
    groupFull d (.wedge 0 0) 0 = false ∧ 0 < (d.hopOf hop1).credits.length ∧ (d.hopOf hop1).wait = []) := by decide +kernel
theorem witness_credit_to_waiting : (let d := devHop (fun x => { x with slots := [fr7 2 0x10], wait := [fr7 2 0x10], credits := [4, 4, 0, 4] })
    (d.hopOf hop1).slots.find? (fun y => y.cls == 2) = some (fr7 2 0x10) ∧ (d.hopOf hop1).wait.find? (fun y => y.cls == 2) = some (fr7 2 0x10) ∧
    (fr7 2 0x10).op = 0x10 ∧ (deliversTo hop1).isSome = true ∧ deliversTo hop1 = endpointUnit (fr7 2 0x10).dst) := by decide +kernel
/-- A frame that leaves its facet goes on into the switch, where it may find no credit. -/
def devUp (cs : List Nat) : Dev :=
  (dev0.modHop (.facetUp 0) (fun x => { x with slots := [{ fr7 0 2 with dst := 15 * 1024 + 64 }] })).modHop (.switchIn 0 74)
    (fun x => { x with credits := cs })
theorem witness_passes_on : (let d := devUp
    let g := { fr7 0 2 with dst := 15 * 1024 + 64 }
    hopRuns .oc40a (d [4]) (.facetUp 0) = true ∧ ((d [4]).hopOf (.facetUp 0)).slots.find? (fun y => y.cls == 0) = some g ∧
    copiesOf (d [4]) (.facetUp 0) g = [] ∧ nextAfter .oc40a (d [4]) (.facetUp 0) g = some (.switchIn 0 74) ∧
    dropped (d [4]) (.switchIn 0 74) g = false ∧ hopTakes .oc40a (d [4]) 0 (.switchIn 0 74) = true ∧
    inOrder .oc40a (d [4]) (.switchIn 0 74) g = true ∧
    (let e := (d [4]).modHop (.switchIn 0 75) (fun x => { x with wait := [g] })
     let g1 := { g with seq := 1 }
     inOrder .oc40a (e.modHop (.facetUp 0) (fun x => { x with slots := [g1] })) (.switchIn 0 74) g1 = false) ∧
    hopTakes .oc40a (d [0]) 0 (.switchIn 0 74) = false ∧ 0 ∉ ((d [0]).hopOf (.facetUp 0)).stalled ∧
    ((d [0]).hopOf (.facetUp 0)).awaiting = false) := by decide +kernel
theorem witness_advertisement : (let d := devHop (fun x => { x with awaiting := true, credits := [0, 0, 0, 0] })
    (d.hopOf hop1).awaiting = true ∧ endUnit hop1 = none ∧ (d.hopOf hop1).wait = [] ∧
    endUnit (.switchOut 0 32) = some (.slice 0 0) ∧ dropsFrames d (.slice 0 0) = false) := by decide +kernel
theorem witness_read_request : endpointUnit 0 = some (.wedge 0 0) ∧ targetPresent .oc40a (.wedge 0 0) = true ∧
    targetOffline dev0 (.wedge 0 0) = false ∧ 256 % 16 = 0 ∧ roomFits 0 ((tget [] dev0.rooms 0).sum + 256) = true := by decide +kernel
/-- A unit whose receiving buffer holds reservations to its size. -/
theorem witness_read_request_full :
    roomFits 0 ((tget [] ({ dev0 with rooms := [(0, [256 * (1 + Config.moreRoom 0)])] } : Dev).rooms 0).sum + 16) = false := by
  have h : (tget [] ({ dev0 with rooms := [(0, [256 * (1 + Config.moreRoom 0)])] } : Dev).rooms 0).sum = 256 * (1 + Config.moreRoom 0) := rfl
  rw [h]
  simp only [roomFits, Bool.or_eq_false_iff, decide_eq_false_iff_not]
  omega
/-- A multicast frame for wedges 1 and 5 at the facet bridge of facet 0. -/
def fr8 : Frame := { fr7 2 0x11 with mcast := true, wmask := 0x0022 }
def devMc : Dev := dev0.modHop (.facetDown 0) (fun x => { x with slots := [fr8] })
theorem witness_multicast : hopRuns .oc40a devMc (.facetDown 0) = true ∧
    (devMc.hopOf (.facetDown 0)).slots.find? (fun y => y.cls == 2) = some fr8 ∧
    copiesOf devMc (.facetDown 0) fr8 = [(.spineDown 0 1, [1, 5])] ∧ servedBy devMc (.spineDown 0 1) [1, 5] = [1, 5] ∧
    hopTakes .oc40a devMc 2 (.spineDown 0 1) = true ∧
    inOrder .oc40a devMc (.spineDown 0 1) { fr8 with wmask := wedgeMask [1, 5] } = true ∧ localHolds devMc (.facetDown 0) fr8 = false := by decide +kernel
theorem witness_hop_fail : (let d := dev0.modHop (.facetUp 0) (fun x => { x with succ := 16 })
    hopPresent .oc40a (.facetUp 0) = true ∧ (d.hopOf (.facetUp 0)).failed = false ∧ 16 ≤ (d.hopOf (.facetUp 0)).succ ∧
    ((devHop (fun x => { x with succ := 16 })).hopOf hop1).succ = 16) := by decide +kernel
theorem witness_stall : (let d := devHop (fun x => { x with wait := [fr7 0 2] })
    waitsFor .oc40a d hop1 = true ∧ d.num 0x20B0 2 1000 < 1001 ∧ d.marked (hopHub hop1) limFabricStall (hopKey hop1) = false) := by
  decide +kernel
theorem witness_end_reset : hopPresent .oc40a hop1 = true := by decide +kernel

/-! ### Memory -/

theorem witness_access_gone : lineOnSlice 0 0 = true ∧ accessOk 60 4 .read = true ∧ accessOk 0 64 (.write (List.replicate 64 1)) = true ∧
    accessOk 60 0 (.fetchAdd 4 1) = true ∧ accessOk 56 0 (.swap 8 1) = true ∧
    sliceGone .oc40a { dev0 with pow := { dev0.pow with doms := [(domSlice 0, { st := .retain })] } } 0 = true ∧
    sliceGone .oc40a dev0 0 = false ∧ domRuns dev0 (domSlice 0) = true := by decide +kernel
theorem witness_access_hit : wayOf (devF 1).mem 0 0 = some 0 ∧ tfind (devF 1).mem.lines (wayKey 0 0 0) = some (lineB 1) ∧
    waitersOf (devF 1) 0 0 = [] ∧ (lineB 1).poison = false ∧ (lineB 1).data.length = 64 :=
  ⟨(wayOf_first _ 0 0 (lineB 1) rfl rfl).1, (wayOf_first _ 0 0 (lineB 1) rfl rfl).2, rfl, rfl, by decide +kernel⟩
/-- In an empty slice no way holds a line. -/
theorem no_way (slice line : Nat) : wayOf dev0.mem slice line = none ∧ waysOf dev0.mem slice line = [] := by
  have h : ∀ k, tfind dev0.mem.lines k = none := fun _ => rfl
  exact ⟨by unfold wayOf; rw [List.find?_eq_none]; intro x _; rw [h]; simp, by unfold waysOf; simp only [h, Option.map]; decide⟩
theorem witness_access_miss : wayOf dev0.mem 0 0 = none ∧ fullLine (.write [1]) 0 = false ∧ isRead (.write [1]) = false ∧ fullLine .read 0 = false ∧
    linePolicy dev0 0 0 ≠ 2 :=
  ⟨(no_way 0 0).1, rfl, rfl, rfl, by decide +kernel⟩
/-- A bypassed allocation over line 0 of slice 0. -/
def devBy : Dev := { dev0 with allocs := [{ alloc3 with policy := 2 }] }
theorem witness_access_bypass : linePolicy devBy 0 0 = 2 ∧ wayOf devBy.mem 0 0 = none ∧ waitersOf devBy 0 0 = [] ∧
    sliceGone .oc40a devBy 0 = false ∧ domRuns devBy (domSlice 0) = true :=
  ⟨by decide +kernel, (no_way 0 0).1, rfl, by decide +kernel, by decide +kernel⟩
def wait0 : Waiting := { slice := 0, line := 0, off := 0, len := 4, op := .read, tile := none }
def devWt : Dev := { dev0 with mem := { dev0.mem with waiting := [wait0] } }
theorem witness_line_fill : waitersOf devWt 0 0 = [wait0] ∧ wait0.op = .read ∧ wait0.tile = none ∧ devWt.mem.isBad (0 / 2) 0 = false ∧
    sliceGone .oc40a devWt 0 = false ∧ domRuns devWt (domSlice 0) = true ∧ (waysOf devWt.mem 0 0).length < 16 ∧ wayOf devWt.mem 0 0 = none := by
  refine ⟨by decide +kernel, rfl, rfl, by decide +kernel, by decide +kernel, by decide +kernel, ?_, (no_way 0 0).1⟩
  rw [show waysOf devWt.mem 0 0 = waysOf dev0.mem 0 0 from rfl, (no_way 0 0).2]
  decide
def copy0 (done : Nat) : Copying := { stack := 0, granule := 5, spare := 2, done := done }
theorem witness_remap : (let d (n : Nat) : Dev := { dev0 with mem := { dev0.mem with copying := [copy0 n] } }
    (d 0).mem.copying.find? (fun y => decide (y.stack = 0) && decide (y.granule = 5)) = some (copy0 0) ∧ (copy0 62).done + 1 < 64 ∧
    (copy0 63).done = 63 ∧ (d 63).mem.copying.find? (fun y => decide (y.stack = 0) && decide (y.granule = 5)) = some (copy0 63)) ∧
    2 * 0 + channelOf (5 * 64 * 64) % 2 < 2 ∧ (∀ k, k < 2 → sliceGone .oc40a dev0 k = false ∧ domRuns dev0 (domSlice k) = true ∧ waitersOf dev0 k 320 = []) := by
  decide +kernel

def bread : BankReq := { rank := 2, addr := 28, len := 4, op := .read, starved := false }
def devBk (rs : List BankReq) : Dev := { dev0 with banks := [(0, { reqs := rs })] }
theorem witness_bank_request : issuerPresent .oc40a 0 = true ∧ bread.addr < bankBytes 0 ∧ bankReqOk bread = true ∧ issuerOffline dev0 0 = false := by
  decide +kernel
theorem witness_bank_serves : (let w : BankReq := { bread with rank := 1, op := .write [1, 2] }
    let a : BankReq := { bread with op := .fetchAdd 4 7 }
    bankServes (devBk [bread, w]) 0 = true ∧ bankBest ((devBk [bread, w]).sbank 0) = some w ∧ isAtomic w.op = false ∧
    bankBest ((devBk [bread]).sbank 0) = some bread ∧ bankServes (devBk [a]) 0 = true ∧ bankBest ((devBk [a]).sbank 0) = some a ∧
    isAtomic a.op = true ∧ isAtomic (.swap 4 1) = true) := by decide +kernel
theorem witness_wake_clear : (({ dev0 with banks := [(0, { clearing := true })] } : Dev).sbank 0).clearing = true := by decide +kernel
theorem witness_starve : ((devBk [bread]).sbank 0).reqs[0]? = some bread ∧ 2 ≤ bread.rank ∧ bread.starved = false ∧ (devBk [bread]).num 0x3040 1 1000 < 1001 := by
  decide +kernel
theorem witness_march : (let d (n : Nat) : Dev := { dev0 with banks := [(0, { march := some n })] }
    0 < bankBytes 0 / 32 ∧ ((d 0).sbank 0).march = some 0 ∧ ((d 0).sbank 0).reqs = [] ∧ ((d 0).sbank 0).clearing = false ∧
    0 = marchWord (bankBytes 0 / 32) 0 ∧ 0 = marchWord (bankBytes 0 / 32) (2 * (bankBytes 0 / 32) - 1) ∧
    ((d (2 * (bankBytes 0 / 32) - 1)).sbank 0).march = some (2 * (bankBytes 0 / 32) - 1)) := by decide +kernel

/-! ### Links -/

/-- Link 0 ACTIVE with a peer, alone in its bundle. -/
def link0 : Link := { phase := .active, lanes := 0xF, peer := 5, fresh := false, credits := [64, 64, 64, 64], rxAlive := some 3 }
def bundle0 (held : List RemoteReq) : Bundle := { hub := 0, group := 0, peer := 5, list := [0], held := held }
def devLk (x : Link) (held : List RemoteReq) : Dev := { devA with links := [(0, x)], bundles := [bundle0 held] }
def rreq (op cls : Nat) : RemoteReq := { rr0 with op := op, cls := cls, peer := 5, len := 16, payload := List.replicate 16 1 }
/-- Its granule's link can take it at once: no list is due, nothing waits, the link is back and has a tag and a credit. -/
theorem witness_link_request : linkServes .oc40a (devLk link0 []) 0 = true ∧ (rreq 2 0).hub = linkHub 0 ∧ (rreq 2 0).group = linkGrp 0 ∧
    (rreq 2 0).op ∈ [0x02, 0x08, 0x18, 0x19] ∧ opClass (rreq 2 0).op = some (rreq 2 0).cls ∧ (rreq 2 0).payload.length ≤ 256 ∧
    (let b := (devLk link0 []).bundle (linkHub 0) (linkGrp 0) 5
     spreadLink b (rreq 2 0).offset = some 0 ∧ b.due = false ∧ b.held = [] ∧ ((devLk link0 []).link 0).peer = (rreq 2 0).peer ∧ ((devLk link0 []).link 0).away = false ∧
     freeTag ((devLk link0 []).link 0) = some 0 ∧ mayPut .oc40a (devLk link0 []) 0 0 = true) := by decide +kernel
/-- It waits with no member in the list, with a new list due, behind a request of its class, on a link that is away, or with no credit. -/
theorem witness_link_waits : (let b (d : Dev) : Bundle := d.bundle (linkHub 0) (linkGrp 0) 5
    let on (y : Bundle) : Dev := { devLk link0 [] with bundles := [y] }
    spreadLink (b (on { bundle0 [] with list := [] })) 0 = none ∧ (b (on { bundle0 [] with due := true })).due = true ∧
    spreadLink (b (on { bundle0 [] with due := true })) 0 = some 0 ∧
    ((b (devLk link0 [rreq 2 0])).held.any (fun q => q.cls = 0 && spreadLink (b (devLk link0 [rreq 2 0])) q.offset == some 0)) = true ∧
    ((devLk { link0 with peer := 6 } []).link 0).peer ≠ (rreq 2 0).peer ∧
    ((devLk { link0 with away := true } []).link 0).away = true ∧ mayPut .oc40a (devLk { link0 with credits := [0, 0, 0, 0] } []) 0 0 = false) := by decide +kernel
def lread (exp : Nat) : LinkFrame := { lf0 with op := 0x08, cls := 1, rlen := 16, exp := exp, tag := 9 }
def devRx (exp : Nat) (al : Option Nat) : Dev :=
  { devLk { link0 with rxFrames := [(lread exp, al)] } [] with allocs := [{ alloc3 with export_ := 7, rights := 0xF }] }
theorem witness_link_answer : ((devRx 6 none).link 0).rxFrames = (lread 6, none) :: [] ∧
    switchTakes (devRx 6 none) (linkHub 0) (groupPorts 0) (lread 6).cls = true ∧
    mayPut .oc40a (devRx 6 none) 0 (answerCls (lread 6).op) = true ∧ (none : Option Nat).bind (devRx 6 none).allocOf = none ∧
    ((devRx 7 (some 3)).link 0).rxFrames = (lread 7, some 3) :: [] ∧ ((some 3).bind (devRx 7 (some 3)).allocOf).isSome = true ∧
    (admits (devRx 7 none) (lread 7)).map (fun a => a.handle) = some 3 ∧ admits (devRx 7 none) (lread 6) = none := by decide +kernel
/-- The switch has no credit of its class, or the link none for the answer. -/
theorem witness_link_answer_waits : (let full (d : Dev) : Dev := (groupPorts 0).foldl (fun (e : Dev) p =>
      e.modHop (.switchIn 0 p) (fun x => { x with credits := [0, 0, 0, 0] })) d
    let d := devLk { link0 with credits := [0, 0, 0, 0], rxFrames := [(lread 6, none)] } []
    switchTakes (full (devRx 6 none)) (linkHub 0) (groupPorts 0) (lread 6).cls = false ∧
    switchTakes d (linkHub 0) (groupPorts 0) (lread 6).cls = true ∧ mayPut .oc40a d 0 (answerCls (lread 6).op) = false ∧
    noCredit d 0 (answerCls (lread 6).op) = true ∧ linkRuns .oc40a d 0 = true ∧ (d.link 0).phase = .active ∧
    (d.link 0).rxWaits = false) := by decide +kernel

def good (f : LinkFrame) : LinkFrame := { f with crc := dataCrc f }
theorem witness_link_rx : linkRuns .oc40a (devLk link0 []) 0 = true ∧ ((devLk link0 []).link 0).phase = .active ∧
    ((devLk link0 []).link 0).losing = false ∧ (good (lread 6)).crc = dataCrc (good (lread 6)) ∧
    (good (lread 6)).crc + 1 ≠ dataCrc { good (lread 6) with crc := (good (lread 6)).crc + 1 } ∧
    (good (lread 6)).seq = ((devLk link0 []).link 0).rxSeq ∧ (lread 6).op ∈ [0x02, 0x08, 0x18, 0x19] ∧
    (good { lread 6 with seq := 1 }).seq ≠ ((devLk link0 []).link 0).rxSeq ∧
    2048 < (link0.rxSeq + 4096 - (good { lread 6 with seq := 1 }).seq) % 4096 ∧
    (link0.rxSeq + 4096 - (good { lread 6 with seq := 4095 }).seq) % 4096 ≤ 2048 := by decide +kernel
def use9 : TagUse := { tag := 9, req := rreq 8 1 }
theorem witness_link_rx_answer : (let x := { link0 with tags := [use9] }
    let f := good { lread 0 with op := 0x10, cls := 2, wire := List.replicate 16 1 }
    f.crc = dataCrc f ∧ f.seq = x.rxSeq ∧ f.op ∉ [0x02, 0x08, 0x18, 0x19] ∧ x.tags.find? (fun w => decide (w.tag = f.tag)) = some use9 ∧
    use9.req.tile = none) := by decide +kernel

def goodC (f : CtlFrame) : CtlFrame := { f with crc := ctlCrc f }
theorem witness_ctl_tx : linkRuns .oc40a (devLk { link0 with rxSince := 64 } []) 0 = true ∧ 64 ≤ { link0 with rxSince := 64 }.rxSince ∧
    { link0 with nakOwed := true }.nakOwed = true := by decide +kernel
theorem witness_ctl_rx : link0.phase = .active ∧ ((devLk link0 []).bundle (linkHub 0) (linkGrp 0) 5).held = [] ∧
    (goodC cf0).crc = ctlCrc (goodC cf0) ∧ (goodC cf0).crc + 1 ≠ ctlCrc { goodC cf0 with crc := (goodC cf0).crc + 1 } ∧
    link0.rxAlive = some (goodC { cf0 with alive := 3 }).alive ∧ link0.rxAlive ≠ some (goodC { cf0 with alive := 4 }).alive ∧
    (goodC { cf0 with alive := 4 }).alive = link0.rxAlive.elim 0 (fun a => a + 1) ∧
    (goodC { cf0 with alive := 6 }).alive ≠ link0.rxAlive.elim 0 (fun a => a + 1) ∧ (goodC { cf0 with alive := 4 }).nak = false ∧
    (goodC { cf0 with alive := 4, nak := true }).nak = true ∧ (goodC { cf0 with alive := 4, nak := true }).crc = ctlCrc (goodC { cf0 with alive := 4, nak := true }) ∧
    { link0 with phase := .resync }.phase = .resync := by decide +kernel
def held0 : Held := { frame := lread 6, replays := 8 }
theorem witness_replay_timeout : { link0 with replay := [held0] }.replay ≠ [] ∧ (devLk link0 []).num 0x3401 1 10 ≤ 10 ∧
    (devLk link0 []).num 0x3401 2 20 < 21 := by decide +kernel

theorem witness_trains : (∃ h ∈ { link0 with replay := [held0] }.replay, 8 ≤ h.replays) ∧ link0.lanes.getLsbD 3 = true ∧
    (let x := { link0 with phase := .down }
     x.losing = false ∧ linkServes .oc40a (devLk x []) 0 = true ∧ linkEnabled (devLk x []) 0 = true ∧
     (devLk x []).marked (linkHub 0) limLinkRetry 0 = false) := by decide +kernel
theorem witness_training_end : (let x := { link0 with phase := .train, entered := 900000, failed := [0, 1, 2] }
    linkServes .oc40a (devLk x []) 0 = true ∧ laneMap ((0xF : BitVec 4) &&& ~~~x.badLanes) ≠ 0 ∧
    laneMap ((0x1 : BitVec 4) &&& ~~~x.badLanes) = 0 ∧
    4 ≤ ((x.failed ++ [x.entered]).filter (fun u => decide (x.entered ≤ u + 1000000))).length) := by decide +kernel
theorem witness_link_down : { link0 with losing := true, tags := [use9] }.losing = true ∧ use9.req.tile = none := by decide

theorem witness_capability : (let x := { link0 with phase := .exchange }
    linkRuns .oc40a (devLk x []) 0 = true ∧ ((devLk x []).link 0).phase = .exchange ∧
    min 1 ({ cap0 with vmin := 2, vmax := 2 } : CapRecord).vmax < max 1 ({ cap0 with vmin := 2, vmax := 2 } : CapRecord).vmin ∧
    ¬(min 1 cap0.vmax < max 1 cap0.vmin) ∧ cap0.seen = false ∧ x.seen = false ∧ x.record = none ∧ x.told = false ∧
    { x with told := true }.told = true ∧ { x with seen := true, record := some (cap0, 7) }.record = some (cap0, 7) ∧
    ((devLk x []).bundle (linkHub 0) (linkGrp 0) x.peer).held = [] ∧ ((devLk x []).bundle (linkHub 0) (linkGrp 0) cap0.ident).held = []) := by decide +kernel
/-- Some identity is the module's own, and some is another's. -/
theorem witness_capability_ident : (∃ r : CapRecord, r.ident = Config.linkIdentity) ∧
    ∃ r : CapRecord, r.ident ≠ Config.linkIdentity ∧ r.seen = true ∧ r.resume = true :=
  ⟨⟨{ cap0 with ident := Config.linkIdentity }, rfl⟩, { cap0 with ident := Config.linkIdentity + 1, seen := true, resume := true },
    by intro h; simp at h, rfl, rfl⟩
theorem witness_bundle : mayRebuild (devLk link0 []) ((devLk link0 []).bundle 0 0 5) = true ∧ ((devLk link0 []).bundle 0 0 5).held = [] := by
  decide +kernel
theorem witness_bundle_wait : (let d := devLk { link0 with phase := .down } [rreq 2 0]
    (∀ l ∈ groupLinks 0 0, ¬((d.link l).phase = .active ∧ (d.link l).peer = 5)) ∧ (d.bundle 0 0 5).held ≠ [] ∧
    d.num 0x3401 4 1000 ≤ 1000 ∧ ∀ r ∈ (d.bundle 0 0 5).held, r.tile = none) := by decide +kernel
theorem witness_capability_crc (r : CapRecord) (c : BitVec 32) : capCrc { r with crc := c } = capCrc r ∧ capCrc r + 1 ≠ capCrc r := by
  refine ⟨?_, by simp⟩
  simp only [capCrc, capBytes]
/-- A member that left ACTIVE with a frame not acknowledged holds back the new list. -/
theorem witness_bundle_due : (let d := devLk { link0 with phase := .resync, replay := [held0] } []
    mayRebuild d (d.bundle 0 0 5) = false) := by decide +kernel

/-! ### Power and heat -/

theorem witness_shares : (0 : Rat) ≤ 100 ∧ (∀ x ∈ [(50 : Rat), 150], 0 ≤ x) ∧ (([(50 : Rat), 150].map (fun x => min x 100)).sum ≤ 200) := by
  decide +kernel
def act0 (active : Nat) : Activity := { domain := domWedge 0, phase := 4, lane := false, active := active }
theorem witness_governs : governs .oc40a dev0 0 = true ∧ governs .oc40a dev0 3 = true ∧ actsOf .oc40a 0 [act0 3] = [act0 3] := by
  decide +kernel
def devDom (k : Nat) (x : Dom) : Dev := { dev0 with pow := { dev0.pow with doms := [(k, x)] } }
theorem witness_credit_left : 0 < ((devDom (domWedge 0) { credit := 1 }).dom (act0 3).domain).credit := by decide +kernel
theorem witness_thermal : domSwitched .oc40a (domWedge 0) = true ∧ mainOn dev0 = true ∧ thermT1 dev0 (domWedge 0) ≤ ({ junction := 95 } : Dom).junction ∧
    ({} : Dom).ceiling ≠ 0 ∧ ({} : Dom).ceiling - 1 < max ({} : Dom).op ((some 7).getD 0) ∧ ({ op := 6 } : Dom).op = ({} : Dom).ceiling - 1 ∧ ({ junction := 89 } : Dom).junction < thermT1 dev0 (domWedge 0) - thermHyst dev0 (domWedge 0) ∧ ({ ceiling := 6 } : Dom).ceiling < 7 ∧
    105 ≤ ({ op := 0, junction := 105, halvings := 3 } : Dom).junction ∧ ({ junction := 99 } : Dom).junction < 105 - thermHyst dev0 (domWedge 0) := by
  decide +kernel
theorem witness_points : (let d := { dev0 with pow := { dev0.pow with regions := [(0, { points := [(4, 7)] })] } }
    (∃ a ∈ actsOf .oc40a 0 [act0 3], a.phase = 4) ∧ tfind (d.region 0).points 4 = some 7) := by decide +kernel
theorem witness_supply_move : ((devDom (domWedge 0) { opNext := some 7 }).dom (domWedge 0)).opNext = some 7 := by decide +kernel
theorem witness_droop : hasDetector .oc40a (domWedge 0) = true ∧ domState dev0 (domWedge 0) = .run ∧
    domState (devDom (domWedge 0) { st := .hold }) (domWedge 0) = .hold ∧
    400 + (govSet dev0 (domRegion (domWedge 0))).margin < pointMv (dev0.dom (domWedge 0)).op := by decide +kernel
theorem witness_collapse : domSwitched .oc40a (domWedge 0) = true ∧ domState dev0 (domWedge 0) = .run ∧
    (dev0.dom (domWedge 0)).collapsed = false ∧ ((devDom (domWedge 0) { collapsed := true }).dom (domWedge 0)).collapsed = true := by
  decide +kernel

/-! ### Power states and own writes -/

/-- A request of port 0's OD WRITE, and the module with that command waiting to start; a value beyond 8 bytes lies in a buffer. -/
def hreq (sub : Nat) (value : Bytes) : OdReq := { src := .port 0, sid := 0, cmd := some 1, sub := sub, value := value }
def devOw (idx sub : Nat) (value : Bytes) (d : Dev) : Dev :=
  Ready 0x03 (if value.length ≤ 8 then writeP idx sub value.length (leNat value)
    else [BitVec.ofNat 64 (idx + sub * 65536), 0x1000, BitVec.ofNat 64 value.length, 0]) d
/-- The value of a power request: a unit's code and a state (0 Run, 1 Hold, 2 Retain, 3 Off). -/
def powV (t : Target) (st : Nat) : Bytes := toLe 8 ((codeOf t).toNat + st * 2 ^ 32)
theorem taken_power : ReqTaken .oc40a (devOw 0x4010 1 (powV (.wedge 0 0) 2) dev0) (hreq 1 (powV (.wedge 0 0) 2)) 0x4010 :=
  ⟨by decide +kernel, by decide +kernel, by decide +kernel, by decide +kernel⟩
theorem witness_power_request : targetOf (bitsOf (leNat (powV (.wedge 0 0) 2)) 31 0) = some (.wedge 0 0) ∧
    requestStatus .oc40a dev0 (.port 0) (.wedge 0 0) .retain = stSuccess ∧
    requestStatus .oc40a dev0 (.port 0) (.core 0 1) .off ≠ stSuccess ∧
    pstateOf (bitsOf (leNat (powV (.wedge 0 0) 2)) 33 32) = .retain := by decide +kernel
theorem taken_power_bad : ReqTaken .oc40a (devOw 0x4010 1 (powV (.core 0 1) 3) dev0) (hreq 1 (powV (.core 0 1) 3)) 0x4010 :=
  ⟨by decide +kernel, by decide +kernel, by decide +kernel, by decide +kernel⟩
theorem witness_drain : (let d := devDom (domWedge 0) { moving := some .off }
    (d.dom (domWedge 0)).moving.isSome = true ∧ (d.dom (domWedge 0)).drained = false ∧ domDrained .oc40a d (domWedge 0) = true) := by
  decide +kernel
/-- A region that wakes 8 domains lets no further wake start. -/
theorem witness_wake_full : wakeFull dev0 (domWedge 0) = false ∧
    wakeFull { dev0 with pow := { dev0.pow with doms := [(domWedge 0, { st := .off, latest := some .run })] ++ (List.range 8).map (fun i =>
      (domWedge (i + 1), ({ st := .off, moving := some .run, drained := true } : Dom))) } } (domWedge 0) = true ∧
    isWake .off .run = true ∧ isWake .run .off = false := by decide +kernel
theorem witness_no_wake_waits : (∀ n, (dev0.dom (domWedge 0)).latest = some n → isWake (dev0.dom (domWedge 0)).st n = false) ∧
    (dev0.pow.doms.map Prod.fst).Nodup := by
  refine ⟨?_, by decide +kernel⟩
  intro n h
  have e : (dev0.dom (domWedge 0)).latest = none := rfl
  rw [e] at h
  cases h
theorem witness_move_done : (let d (latest : Option PState) := devDom (domWedge 0) { st := .hold, moving := some .run, drained := true, latest := latest }
    ((d none).dom (domWedge 0)).moving = some .run ∧ facetOrder (d none) (domWedge 0) .run = true ∧
    ((d none).dom (domWedge 0)).latest = none ∧ ((d (some .off)).dom (domWedge 0)).latest = some .off ∧
    facetOrder (d (some .off)) (domWedge 0) .run = true ∧ ((d none).dom (domWedge 0)).st ≠ .off ∧ PState.off ≠ .run) := by decide +kernel
theorem witness_engine_wake : (let x := (devDom (domEngine (8 * 0 + 1)) { st := .off, moving := some .run, drained := true }).dom (domEngine (8 * 0 + 1))
    x.moving = some .run ∧ x.drained = true ∧ x.st = .off ∧ x.latest = none) := by decide +kernel
def saved0 : Saved :=
  { actB := true, stA := .loading, stB := .empty, pkA := .int8, pkB := .int8, mA := 1, mB := 0, rbA := 0, cbA := 0, rbB := 0, cbB := 0, group := 6 }
theorem witness_wake_restore : (let d := { dev0 with wedges := [(0, { saved := [(5, saved0)] })] }
    (d.wedge 0).saved = [(5, saved0)] ∧ domRuns d (domWedge 0) = true ∧ targetHeld d (.wedge (0 / 16) (0 % 16)) = false ∧
    (d.sbank 0).clearing = false ∧ saved0.stA ≠ .ready ∧ saved0.stB ≠ .ready) := by decide +kernel
theorem witness_wake_on_demand : (let d := { devIss false with pow := { (devIss false).pow with doms := [(domWedge 0, { st := .retain })] } }
    domState d (domWedge 0) = .retain ∧ (govSet d (domRegion (domWedge 0))).wake = 1 ∧ nextTileNeeds .oc40a d 0 (domWedge 0) = true ∧
    (d.dom (domWedge 0)).moving = none ∧ (d.dom (domWedge 0)).st = .retain) := by decide +kernel

def devLw : Dev := devLk { link0 with lanes := 0x3 } []
theorem witness_widen : ReqTaken .oc40a (devOw 0x3420 1 [1] devLw) (hreq 1 [1]) 0x3420 ∧ (devLw.link 0).lanes ≠ 0xF ∧
    (devLw.link 0).phase = .active :=
  ⟨⟨by decide +kernel, by decide +kernel, by decide +kernel, by decide +kernel⟩, by decide +kernel, by decide +kernel⟩
theorem witness_wall_time : ReqTaken .oc40a (devOw 0x5801 2 (toLe 16 77) dev0) (hreq 2 (toLe 16 77)) 0x5801 :=
  ⟨by decide +kernel, by decide +kernel, by decide +kernel, by decide +kernel⟩
theorem witness_base_band : ReqTaken .oc40a (devOw 0x2061 4 [5] dev0) (hreq 4 [5]) 0x2061 ∧
    (devOw 0x2061 4 [5] dev0).pendingP (odKey 0x2061 4) = false :=
  ⟨⟨by decide +kernel, by decide +kernel, by decide +kernel, by decide +kernel⟩, by decide +kernel⟩
theorem witness_link_enable : ReqTaken .oc40a (devOw 0x3411 1 [0] dev0) (hreq (0 + 1) [0]) 0x3411 ∧
    (devOw 0x3411 1 [0] dev0).pendingP (odKey 0x3411 1) = false :=
  ⟨⟨by decide +kernel, by decide +kernel, by decide +kernel, by decide +kernel⟩, by decide +kernel⟩

/-! ### Checks, repair, calibration -/

def devCk (f : Macro → Macro) : Dev :=
  { devM with macros := [(0, f mac0)], pow := { devM.pow with doms := [(domWedge 0, { credit := 100000 })] } }
theorem witness_check_step : checkMay .oc40a (devCk id) 0 = true ∧ ((devCk id).mac 0).ckPos % 2 = 0 ∧
    checkMay .oc40a (devCk (fun x => { x with ckPos := 1 })) 0 = true := by decide +kernel
theorem witness_check_signature : signatureBad bank1.withSigs 0 (sumsA bank1.withSigs 0 []) [] = false ∧
    signatureBad bank1.withSigs 0 (sumsA bank1.withSigs 0 []) [(0, 1, 1)] = true := by decide +kernel
theorem witness_check_age : macServes .oc40a (devCk id) 0 = true ∧ (devCk id).num 0x5000 1 4000 < 4001 ∧ slotFree (devCk id) 0 = true ∧
    ckSuspended (devCk id) 0 = false ∧ ckSuspended ((devCk id).modWedge 0 (fun w => { w with ksSusp := [(0, false)] })) 0 = true ∧
    (devCk id).num 0x5000 2 10000 ≤ 10000 := by decide +kernel
theorem witness_reload : (let d := devCk (fun x => { x with reload := true })
    macServes .oc40a d 0 = true ∧ (d.mac 0).reload = true ∧ (d.mac 0).retire = false ∧ (d.mac 0).ckRound = 0 ∧
    d.matOf (d.mac 0).active.matrix = some mat1 ∧ mat1.imgAlloc = 0) := by decide +kernel
theorem witness_retire : (let d := devCk (fun x => { x with retire := true })
    macServes .oc40a d 0 = true ∧ (d.mac 0).retire = true ∧ (d.wedge (0 / 192)).spares = 192 :: [193, 194, 195] ∧
    ((d.modWedge 0 (fun w => { w with spares := [] })).wedge (0 / 192)).spares = [] ∧
    macServes .oc40a (d.modWedge 0 (fun w => { w with spares := [] })) 0 = true) := by decide +kernel
theorem witness_scrub : (let d := devCk (fun x => { x with bankB := bank1 })
    macServes .oc40a d 0 = true ∧ (d.mac 0).shadow.st = .ready ∧ bgEnergy d 0 = true ∧ scrubDue d 0 = true ∧
    scrubDue (devCk (fun x => { x with bankB := bank1, scrubAt := some 0 })) 0 = false) := by decide +kernel

def mark0 : Mark := { dataA := 0, dataB := 0, unit := 3, col := 2 }
def devMk : Dev := (devCk (fun x => { x with xoRebuild := [(1, 0)] })).modWedge 0 (fun w =>
  { w with marks := [(1, mark0)], dir := [(4, { mac := 0, row := 3, bankB := false, oidx := 0 })], ksSusp := [(0, false)] })
theorem witness_corr_ecc : facetPresent .oc40a (0 / 16) = true ∧ domRuns devMk (domWedge 0) = true ∧
    tfind (devMk.wedge 0).marks 1 = some mark0 ∧ macroInSlot devMk 0 (1 / 8) = some 0 ∧ (tfind (devMk.wedge 0).dir 4).isSome = true ∧
    ((devMk.mac (192 * 0 + 0)).bank false).matrix ≠ 0 ∧ ((({ devMk with macros := [] } : Dev).mac (192 * 0 + 0)).bank false).matrix = 0 := by
  decide +kernel
theorem witness_rebuild : macServes .oc40a devMk 0 = true ∧ (1, 0) ∈ (devMk.mac 0).xoRebuild ∧ slotFree devMk 0 = true ∧
    rank2 (devMk.mac 0) = false ∧ forcedDue devMk 0 = false ∧ tfind (devMk.wedge (wedgeOfMacro 0)).marks (slotOf devMk 0 * 8 + 1) = some mark0 := by decide +kernel
theorem witness_recompute : (slotOf devMk 0, false) ∈ (devMk.wedge (wedgeOfMacro 0)).ksSusp ∧
    (devMk.matOf ((devMk.mac 0).bank false).matrix).all (fun y => decide (y.imgAlloc = 0)) = true ∧
    ({ devMk with mats := [] } : Dev).matOf ((devMk.mac 0).bank false).matrix = none := by decide +kernel
theorem witness_calibration_request : macServes .oc40a (devCk id) 0 = true ∧ (devCk id).num 0x5001 1 600 ≤ 600 ∧
    (devCk id).num 0x5001 2 20 < 21 ∧ (devCk id).num 0x5001 3 4000 < 4001 := by decide +kernel
theorem witness_calibration_step : calMay .oc40a (devCk (fun x => { x with cal := { req := true } })) 0 = true ∧
    ((devCk (fun x => { x with cal := { req := true } })).mac 0).cal.req = true := by decide +kernel
theorem witness_calibration_end : (let few := devCk (fun x => { x with cal := { req := true, steps := 32, meas := [(2, 3)] } })
    let many := devCk (fun x => { x with cal := { req := true, steps := 32, meas := (List.range 12).map (fun i => (16 * i + 2, (3 : Rat))) } })
    macServes .oc40a few 0 = true ∧ (few.mac 0).cal.req = true ∧ 32 ≤ (few.mac 0).cal.steps ∧ (outOfTol few 0).length ≤ 8 ∧
    macServes .oc40a many 0 = true ∧ (outOfTol many 0).length = 12 ∧
    markSpill (keptMarks (few.mac 0) (slotMarks few 0) (outOfTol few 0)) (newMarks (slotMarks few 0) (outOfTol few 0)) = false ∧
    markSpill (keptMarks (many.mac 0) (slotMarks many 0) (outOfTol many 0)) (newMarks (slotMarks many 0) (outOfTol many 0)) = true) := by decide +kernel

/-! ### Events and the journal -/

def event0 : Event := { code := evMemUe, hub := 0, hseq := 1, unit := 0, time := 0, detail := [] }
theorem witness_event_post : dev0.seq.stbyUp = true ∧ takeEvent 0 [{ event0 with hub := 2 }, event0] = some (event0, [{ event0 with hub := 2 }]) ∧
    dev0.log.acceptedNow < 1000 := by decide +kernel
/-- A read of the event ring through port 0's reader, with a ring of two records, numbers 6 and 7. -/
def ringP : List (BitVec 64) := [BitVec.ofNat 64 (0x5800 + 1 * 65536), 0x1000, 48, 0]
def devRing (cursor : Nat) : Dev :=
  { Ready 0x02 ringP dev0 with log := { dev0.log with ring := [(6, event0), (7, event0)], rseq := 7, cursors := [(0, cursor)] } }
theorem witness_ring_read : (let d := devRing 6
    let c := cmd0 0x02 ringP
    d.starting 1 0x02 = some c ∧ odServed d = true ∧ c.odIdx = 0x5800 ∧
    (odEntry 0x5800 c.odSub).elim false (fun e => odPresent .oc40a 0x5800 e) = true ∧ c.P 1 ≠ 0 ∧ hostOpen d c = true ∧ 48 ≤ c.odLen ∧
    d.log.rseq ≤ tget 0 (devRing 7).log.cursors (c.odSub - 1) ∧ d.log.gone ≤ tget 0 d.log.cursors (c.odSub - 1) ∧
    tget 0 (devRing 2).log.cursors (c.odSub - 1) < (devRing 2).log.gone) := by decide +kernel
theorem witness_rollover : dev0.seq.stbyUp = true ∧ timerRuns .oc40a dev0 0 = true ∧ limPeriod limFabricStall = 1000000 ∧
    limFabricStall < 32 ∧ limFabricStall ≠ limLogVector := by decide +kernel

def jwrite (k : Nat) (b : Bytes) (tries : Nat) : JWrite := { vals := [(k, b)], waiter := .cmd 1, tries := tries, paid := true }
def devJw (f : Jour → Jour) : Dev := { Busy 0x03 (writeP 0x5000 1 4 5000) [] dev0 with jour := f { dev0.jour with waiting := [jwrite (odKey 0x5000 1) (toLe 4 5000) 0] } }
theorem witness_record : programs (devJw id) = true ∧ (devJw id).jour.waiting = jwrite (odKey 0x5000 1) (toLe 4 5000) 0 :: [] ∧
    ((devJw id).cmdOf 1).isSome = true ∧ recordFits (devJw id) [(odKey 0x5000 1, toLe 4 5000)] = true ∧
    odKey 0x5000 1 / 256 ∉ [0x7001, 0x7002, 0x7003, 0x3411, 0x2061] ∧ (jwrite 0 [] 2).tries = 2 ∧
    recordFits (devJw (fun j => { j with append := regionBytes })) [(odKey 0x5000 1, toLe 4 5000)] = false ∧
    programs (devJw (fun j => { j with append := regionBytes })) = true := by decide +kernel
theorem witness_compaction : (let d := devJw (fun j => { j with append := compactAt })
    d.seq.stbyUp = true ∧ d.jour.ready = true ∧ d.jour.comp = .none ∧ compactAt ≤ d.jour.append ∧
    (d.jour.region d.jour.other).erased = true ∧ (devJw (fun j => { j with comp := .copying })).jour.comp ≠ .none ∧
    d.jour.active < 2) := by decide +kernel
/-- A freeze whose entries have all been copied, and a marker that reads back or not. -/
theorem witness_compaction_commit : (let d := devJw (fun j => { j with comp := .copying, copied := pKeys dev0 })
    d.seq.stbyUp = true ∧ d.jour.comp ≠ .none ∧ freezeCopies d = d ∧ (∀ k ∈ pKeys (freezeCopies d), recopy (freezeCopies d) k = false)) := by
  decide +kernel
theorem witness_region_erase : dev0.seq.stbyUp = true ∧ dev0.jour.ready = true ∧ dev0.jour.comp = .none ∧ dev0.jour.active < 2 := by
  decide +kernel
/-- The record that the tamper sequence waits for, at the front. -/
theorem witness_tamper_record : (let w : JWrite := { vals := [(odKey 0x7002 2, toLe 4 1)], waiter := .tamper, tries := 0, paid := true }
    let d := { dev0 with jour := { dev0.jour with waiting := [w] }, sec := { dev0.sec with present := [], tampering := true } }
    programs d = true ∧ recordFits d [(odKey 0x7002 2, toLe 4 1)] = true ∧ d.jour.waiting = [w] ∧ d.sec.tampering = true ∧
    d.sec.present = [] ∧ d.pendingP (odKey 0x7002 2) = true) := by decide +kernel

/-! ### Tamjor and security -/

/-- A REQUEST for one read of an entry. -/
def msgRead (sid mseq idx sub len : Nat) : Bytes :=
  toLe 1 1 ++ toLe 1 1 ++ toLe 1 0 ++ toLe 1 1 ++ toLe 4 sid ++ toLe 4 mseq ++ toLe 2 8 ++ toLe 2 0 ++
    toLe 8 (1 + sub * 2 ^ 8 + idx * 2 ^ 16 + len * 2 ^ 32)
/-- A sender that names the link-local address and the Tamjor port. -/
def peer0 : Peer := { id := 3, via := .linkLocal, port := 7006 }
def msgHead (typ sid mseq blen rsv : Nat) : Bytes := toLe 1 1 ++ toLe 1 typ ++ toLe 2 0 ++ toLe 4 sid ++ toLe 4 mseq ++ toLe 2 blen ++ toLe 2 rsv
def entryRead : ReqEntry := { op := 1, idx := 0x1000, sub := 3, len := 4, rsv := false, value := [] }
def readsOne (m : Bytes) (e : ReqEntry) : Bool := match requestEntries m with
  | .ok es => decide (es = [e])
  | .error _ => false
theorem witness_request : (let m := msgRead 0 9 0x1000 3 4
    takes dev0 m peer0 0x01 = true ∧ messageWaits dev0 m = false ∧ (readHeader m).sid = 0 ∧ dev0.tam.plainNow < 1000 ∧
    m.length = 16 + (readHeader m).blen ∧ readsOne m entryRead = true ∧ entryRead.idx ≠ 0x5800) := by decide +kernel
theorem witness_request_bad : (let m := msgHead 1 0 9 0 1
    takes dev0 m peer0 0x01 = true ∧ messageWaits dev0 m = false ∧ m.length = 16 + (readHeader m).blen ∧
    (match requestEntries m with | .ok _ => none | .error st => some st) = some stReserved) := by decide +kernel
def session0 : Session := { sid := 77, key := 1, nm := [], nd := [], mseq := 4, last := [0], bad := 15, idle := 60 }
def devS : Dev := { dev0 with tam := { dev0.tam with sessions := [session0], pending := [{ session0 with sid := 78 }] } }
/-- Whether a signature is good is the key's word (Config.verify): either way a clause of the statement holds its hypotheses. -/
theorem witness_session_request : (let m := msgRead 77 4 0x1000 3 4
    takes devS m peer0 0x01 = true ∧ messageWaits devS m = false ∧ (readHeader m).sid ≠ 0 ∧
    devS.tam.session (readHeader m).sid = some session0 ∧ (readHeader m).mseq = session0.mseq ∧
    (readHeader (msgRead 77 5 0x1000 3 4)).mseq = (session0.mseq + 1) % 2 ^ 32 ∧ readsOne (msgRead 77 5 0x1000 3 4) entryRead = true ∧
    (readHeader (msgRead 77 9 0x1000 3 4)).mseq ≠ session0.mseq ∧
    (readHeader (msgRead 77 9 0x1000 3 4)).mseq ≠ (session0.mseq + 1) % 2 ^ 32) := by decide +kernel
theorem witness_signature (m : Bytes) : sigGood devS session0 m = true ∨ sigGood devS session0 m = false := by
  cases sigGood devS session0 m <;> simp
def devMail (m : Bytes) : Dev :=
  { dev0 with ports := [(0, { port0 with go := true, mailIn := mwrite [] 0 m, hlen := BitVec.ofNat 13 m.length })] }
theorem witness_mailbox : (let m := msgRead 0 9 0x1000 3 4
    portPresent .oc40a 0 = true ∧ portUp .oc40a (devMail m) 0 = true ∧ ((devMail m).port 0).go = true ∧ (dev0.port 0).go = false ∧
    (dev0.port 0).done = false ∧ ({ port0 with done := true } : HostPort).done = true ∧
    messageWaits { devMail m with jour := { dev0.jour with ready := false }, sec := { dev0.sec with changing := true } } m = true ∧
    ¬(16 ≤ m.length ∧ (readHeader m).ver ≠ 1) ∧ (let v := toLe 1 2 ++ m.drop 1
      16 ≤ v.length ∧ (readHeader v).ver ≠ 1 ∧ messageWaits (devMail v) v = false) ∧ mailMessage (devMail m) 0 = m ∧ messageWaits (devMail m) m = false ∧
    mailStatus m = stSuccess ∧ (readHeader m).ver = 1 ∧ readsOne m entryRead = true ∧
    mailMessage (devMail (msgHead 0x10 0 9 0 0)) 0 = msgHead 0x10 0 9 0 0 ∧ mailStatus (msgHead 0x10 0 9 0 0) ≠ stSuccess ∧
    (readHeader (msgHead 0x10 0 9 0 0)).ver = 1) := by decide +kernel
/-- An OPEN for key 0, which an entry of OD 0x7010 holds. -/
def msgOpen : Bytes := msgHead 0x10 0 0 40 0 ++ toLe 8 0 ++ List.replicate 32 5
theorem witness_open : (let d := { dev0 with vals := [(odKey 0x7010 1, List.replicate 1952 3)] }
    takes d msgOpen peer0 0x10 = true ∧ d.tam.opensNow < 4 ∧ openStatus d msgOpen = stSuccess ∧ takes dev0 msgOpen peer0 0x10 = true ∧
    openStatus dev0 msgOpen ≠ stSuccess) := by decide +kernel
theorem witness_confirm : (let m := msgHead 0x12 78 1 0 0
    takes devS m peer0 0x12 = true ∧ devS.tam.opening (readHeader m).sid = some { session0 with sid := 78 } ∧ (readHeader m).mseq = 1 ∧
    (readHeader m).blen = 0 ∧ devS.tam.session 77 = some session0 ∧ session0.idle ≤ 60 ∧
    takes devS (msgHead 0x14 77 5 0 0) peer0 0x14 = true ∧ (readHeader (msgHead 0x14 77 5 0 0)).sid = 77) := by decide +kernel

/-- A token from PROVISIONED to RETIRED that every field but its signature and identity allows. -/
theorem witness_token_refused : ReqTaken .oc40a (devOw 0x7020 4 [1] dev0) (hreq 4 [1]) 0x7020 ∧ leNat [1] ≠ 0 ∧
    tokenStatus (devOw 0x7020 4 [1] dev0) (stagedBody (devOw 0x7020 4 [1] dev0) (.port 0)) (stagedSig (devOw 0x7020 4 [1] dev0) (.port 0)) ≠
      stSuccess :=
  ⟨⟨by decide +kernel, by decide +kernel, by decide +kernel, by decide +kernel⟩, by decide +kernel, by decide +kernel⟩
theorem witness_token_zero : ReqTaken .oc40a (devOw 0x7020 4 [0] dev0) (hreq 4 [0]) 0x7020 ∧ leNat [0] = 0 :=
  ⟨⟨by decide +kernel, by decide +kernel, by decide +kernel, by decide +kernel⟩, by decide +kernel⟩
/-- A token of the vendor from MANUFACTURE, counter 0, to RETIRED: only its signature is left to the key. -/
def token0 : Bytes :=
  toLe 4 0x4B4C4354 ++ toLe 1 1 ++ toLe 1 0 ++ toLe 1 3 ++ toLe 1 255 ++ toLe 8 Config.linkIdentity.toNat ++ toLe 4 1 ++ toLe 44 0 ++ toLe 64 0
def devTok : Dev :=
  devOw 0x7020 4 [1] { dev0 with sec := { dev0.sec with lcs := 0, lcount := 0, body := [(0, token0)] } }
theorem witness_token_checks : devTok.jour.waiting = [] ∧ programs devTok = true ∧ recordFits devTok (changeVals devTok 3) = true ∧
    permittedChange devTok 0 3 255 = true ∧ ReqTaken .oc40a devTok (hreq 4 [1]) 0x7020 :=
  ⟨by decide +kernel, by decide +kernel, by decide +kernel, by decide +kernel,
    by decide +kernel, by decide +kernel, by decide +kernel, by decide +kernel⟩
theorem witness_nonce : ReqTaken .oc40a (devOw 0x7030 1 (List.replicate 32 7) dev0) (hreq 1 (List.replicate 32 7)) 0x7030 ∧
    dev0.sec.key = true ∧ ({ dev0.sec with key := false } : Sec).key = false :=
  ⟨⟨by decide +kernel, by decide +kernel, by decide +kernel, by decide +kernel⟩, by decide +kernel, by decide +kernel⟩
def devSafe (present : List Nat) : Dev :=
  { devS with seq := { dev0.seq with safe := true, phase := .safe }, sec := { dev0.sec with present := present, tampering := !present.isEmpty } }
/-- A request in a session of the management port. -/
def sreq (sub : Nat) (value : Bytes) : OdReq := { src := .mgmt, sid := 77, cmd := none, sub := sub, value := value }
theorem witness_retry_boot : ReqTaken .oc40a (devSafe []) (sreq 1 [1]) 0x5020 ∧ ReqTaken .oc40a (devSafe [2]) (sreq 1 [1]) 0x5020 ∧ (devSafe []).seq.safe = true ∧ (devSafe [2]).sec.present ≠ [] :=
  ⟨⟨by decide +kernel, by decide +kernel, by decide +kernel, by decide +kernel⟩,
    ⟨by decide +kernel, by decide +kernel, by decide +kernel, by decide +kernel⟩, by decide +kernel, by decide +kernel⟩
theorem witness_tamper : tamperSensed dev0 5 = true ∧ tamperFilterNs 5 ≤ 1000000 ∧ dev0.sec.tampering = false ∧
    tamperSensed (devSafe [2]) 3 = true ∧ (devSafe [2]).sec.tampering = true ∧ tamperSensed dev0 1 = true ∧
    (devSafe [2]).sec.present = [2] ∧ (devSafe [2]).pendingP (odKey 0x7002 2) = false ∧ (devSafe [2, 4]).sec.present = [2, 4] := by decide +kernel

/-! ### Supplies and resets -/

def devSeq (f : Seq → Seq) : Dev := { dev0 with seq := f dev0.seq }
theorem witness_aux : Dev.reset.seq.stbyUp = false ∧ ({ Dev.reset.seq with auxIn := true } : Seq).auxIn = true ∧ dev0.seq.stbyUp = true := by
  decide +kernel
theorem witness_main_en : (let d := devSeq (fun q => { q with phase := .off, mainEn := false, vinIn := true })
    d.seq.stbyUp = true ∧ d.seq.vinIn = true ∧ d.seq.phase = .off ∧ d.seq.mainEn = false ∧
    (devSeq (fun q => { q with phase := .rising })).seq.phase = .rising) := by decide +kernel
theorem witness_selftest_power : (let d := devSeq (fun q => { q with phase := .testing, modRstN := true })
    d.seq.modRstN = true ∧ d.seq.phase = .testing ∧ d.seq.safe = false ∧ d.sec.lcs ≠ 3 ∧ hubPresent .oc40a 1 = true ∧
    ({ d.sec with lcs := 3 } : Sec).lcs = 3) := by decide +kernel
theorem witness_bad_words : dev0.num 0x3050 1 1 = 1 ∧ facetPresent .oc40a (0 / 16) = true ∧ dev0.sec.lcs ≠ 3 ∧
    ([7] : List Nat) ≠ [] := by decide +kernel
theorem witness_input_fault : dev0.seq.mainEn = true ∧ dev0.seq.inputFault = false ∧ dev0.seq.phase ≠ .off := by decide +kernel
theorem witness_warm_reset : dev0.seq.phase = .up ∧ portPresent .oc40a 0 = true ∧ 0 < dev0.seq.perstN.length ∧
    nth false dev0.seq.refclk 0 = true ∧ hubPresent .oc40a 0 = true := by decide +kernel
theorem witness_perst_release : (let d := { devSeq (fun q => { q with perstN := [false, true, true, true] }) with ports := [] }
    portFree .oc40a { d with seq := { d.seq with perstN := setAt d.seq.perstN 0 true } } 0 = true ∧ (d.port 0).linkUp = false) := by
  decide +kernel
theorem witness_refclk : (let d := devSeq (fun q => { q with refclk := [false, true, true, true] })
    hubPresent .oc40a 0 = true ∧ nth false d.seq.refclk 0 = false ∧ 0 < d.seq.refclk.length ∧ d.seq.phase ≠ .off) := by decide +kernel

/-! ### What every step keeps -/

/-- The idle module at reset answers a next state, and keeps what every step keeps. -/
theorem witness_sound : State.reset.dev.Sound ∧ ∃ t, step State.reset = .next t :=
  ⟨⟨by decide, by decide, by decide, fun _ => rfl, fun _ => rfl, fun _ => rfl, by decide, by decide, fun _ => Nat.zero_le _, by decide, by decide⟩,
    _, rfl⟩

theorem test_failed_codes : failedHubs [(codeOf (.hub 2)).toNat, (codeOf (.wedge 3 5)).toNat] = [2] ∧
    failedUnits [(codeOf (.hub 2)).toNat, (codeOf (.wedge 3 5)).toNat] = [(codeOf (.wedge 3 5)).toNat] := by decide +kernel

/-! ### The spec's worked examples -/

/-- Chapter 0: on an OC40B facet F07 is absent and F05 present. -/
theorem test_facet_mask_oc40b : facetPresent .oc40b 7 = false ∧ facetPresent .oc40b 5 = true ∧ facetMask .oc40b = 0x1F8FC7E3F := by
  decide +kernel

/-- A row word with these columns set. -/
def cols (l : List Nat) : BitVec 16 := BitVec.ofNat 16 ((l.map (fun c => 2 ^ c)).sum)
def actsIn (l : List (Nat × Int)) : List Int := (List.range 32).map (fun r => tget 0 l r)
/-- The sum of a block over its eight planes. -/
def planesSum (k : Bank) (q : List Int) (j : Nat) : Int :=
  ((List.range 8).map (fun p => planeWeight p * planeValue k (rowsOn (planeOf q p)) j)).sum

/-- Tables 2.10 and 2.11: unit 413 in INT8. -/
def bank413 : Bank :=
  { st := .ready, scales := [(413, 0x1E00)], valid := 1024,
    words := [(413 * 32 + 2, cols [0, 2, 3, 5]), (413 * 32 + 9, cols [7, 8, 11]), (413 * 32 + 17, cols [0, 2, 5, 6]),
      (413 * 32 + 24, cols [8, 10, 11, 12]), (413 * 32 + 30, cols [0, 1, 2])] }
def acts413 : List Int := actsIn [(2, 13), (9, -6), (17, 70), (24, 3), (30, -1)]
theorem test_table_2_11 : (List.range 8).map (fun p => planeValue bank413 (rowsOn (planeOf acts413 p)) 413) = [-6, 31, 153, 33, -12, -12, 89, -12] ∧
    (List.range 8).map (fun p => (rowsOn (planeOf acts413 p)).length) = [3, 4, 3, 3, 2, 2, 3, 2] ∧ planesSum bank413 acts413 413 = 7588 ∧
    scaleOut 7588 0x7A 0x1E00 = 0x3FB1D800 := by decide +kernel
/-- The pair (0, 7) in plane 2 counts 3. -/
theorem test_pair_plane_2 : bank413.count 413 0 (planeOf acts413 2) = 3 ∧ bank413.count 413 7 (planeOf acts413 2) = 0 := by decide +kernel

/-- Tables 3.10 and 3.11: unit 700, column 8 marked, and the outlier term. -/
def bank700 : Bank :=
  { st := .ready, valid := 1024,
    words := [(700 * 32 + 4, cols [8, 9, 12]), (700 * 32 + 12, cols [0, 1, 4, 6]), (700 * 32 + 27, cols [7, 8, 10])] }
def acts700 : List Int := actsIn [(4, 22), (12, -9), (27, 5)]
theorem test_table_3_11 : (List.range 8).map (fun p => planeValue bank700 (rowsOn (planeOf acts700 p)) 700) = [72, 45, 34, 0, 45, 83, 83, 83] ∧
    planesSum bank700 acts700 700 = -1638 ∧ bank700.column 700 8 = 0x08000010 ∧
    popcount 32 ((planeOf acts700 2 &&& 0x08000010).toNat) = 2 ∧ scaleOut (64 * 3000) 0x75 0x2400 = 0x403B8000 ∧
    f32add (scaleOut (-1638) 0x78 0x2400) (scaleOut (64 * 3000) 0x75 0x2400) = 0x402EB400 := by decide +kernel

/-- Tables 3.12 and 3.13: logical units 666 and 667 in INT4. -/
def bank666 : Bank :=
  { st := .ready, packing := .int4, valid := 2048,
    words := [(333 * 32 + 3, cols [0, 2, 11]), (333 * 32 + 10, cols [3, 4, 6, 7, 8]), (333 * 32 + 19, cols [1, 2, 6]),
      (333 * 32 + 31, cols [3, 4, 5, 7])] }
def acts666 : List Int := actsIn [(3, 7), (10, -2), (19, 12), (31, 1)]
theorem test_table_3_13 : (List.range 8).map (fun p => planeValue bank666 (rowsOn (planeOf acts666 p)) 666) = [-2, 2, 8, 3, -3, -3, -3, -3] ∧
    (List.range 8).map (fun p => planeValue bank666 (rowsOn (planeOf acts666 p)) 667) = [-2, 3, 4, 8, 7, 7, 7, 7] ∧
    planesSum bank666 acts666 666 = 106 ∧ planesSum bank666 acts666 667 = -28 ∧ scaleOut 106 0x79 0x2C00 = 0x3DD40000 ∧
    scaleOut (-28) 0x79 0x2E00 = 0xBD280000 := by decide +kernel

/-- Chapter 4: the fit of a host block, and its exponent under the OCP convention. -/
theorem test_fit_block : (let b := fitBlock [0x40B80000, 0x3E9A0000, 0xBF840000, 0x3D000000]
    b.1 = 123 ∧ b.2.1.map (fun e => e.1) = [92, 5, -16, 0] ∧ b.2.2 = false ∧ (123 : BitVec 8) + 6 = 0x81) := by decide +kernel

/-- Table 4.5: an amax and clips give the next exponent and SCALE_MISS. The clips of issue 2 are 6 of one vector. -/
def issue45 (e : BitVec 8) (amax : BitVec 32) (clips : Nat) : BitVec 8 × Nat × Bool :=
  (let j := judgePos e amax false [clips] 1
   (j.entry.exp, j.entry.qamax, j.miss))
theorem test_table_4_5 : issue45 0x78 0x3F1EB852 0 = (0x79, 79, false) ∧ issue45 0x79 0x40466666 6 = (0x7B, 127, true) ∧
    issue45 0x7B 0x3F333333 0 = (0x7A, 11, false) ∧ issue45 0x7A 0x3F28F5C3 0 = (0x7A, 21, false) ∧
    issue45 0x7A 0x3DB851EC 0 = (0x79, 3, true) := by decide +kernel

/-- Chapter 5: the coded row of 2,500 elements. -/
def descRow : Desc := { desc2 with fmt := 0, nd := 0, form := 1, dims := [(1, 2500)] }
def rowVals : Tab Nat := [(37, 5), (60, 0xFE), (2085, 9), (2499, 0xFF)]
theorem test_coded_row : (let b := (segmentBytes descRow rowVals).1
    (segmentBytes descRow rowVals).2 = false ∧ b.length = 48 ∧
    (List.range 10).map (word32 b) = [0x9C4, 2, 3, 4, 5, 2, 0x4002, 0x10000020, 0x20, 8] ∧ (b.drop 0x28).take 4 = [5, 0xFE, 9, 0xFF] ∧
    segFind (b.take 16) (b.drop 16) 2085 = (some (0x28 + 2), true) ∧ segFind (b.take 16) (b.drop 16) 38 = (none, true)) := by
  decide +kernel
/-- Chapter 5: the 2:4 groups [0, -7, 0, 12], [0, 0, 5, 0] and [0, 0, 0, 0]. -/
theorem test_two_of_four : encode24 (fun n => n = 0) [0, 0xF9, 0, 12] = (0xF9, 12, 0xD) ∧ encode24 (fun n => n = 0) [0, 0, 5, 0] = (0, 5, 0x8) ∧
    encode24 (fun n => n = 0) [0, 0, 0, 0] = (0, 0, 0x4) := by decide +kernel

/-- Table 7.7: the header words of the V tensor's descriptor. -/
def imageV : Nat := 0x31 + 0x15 * 2 ^ 96 + 0x06810030 * 2 ^ 128
theorem test_descriptor_header : (let x := Desc.ofImage 1 0 imageV
    x.alloc = 0x31 ∧ x.base = 0x1500000000 ∧ x.fmt = 0 ∧ x.nd = 3 ∧ x.perm = [1, 0, 2, 3] ∧ x.form = 0) := by decide +kernel

/-- Table 8.11: the words of layer 12's MFUSE instruction. -/
def mfuseW : Nat := leNat (((([0x00980804, 0x00420041, 0x01630162, 0x00440043, 0x40000003, 0x1200, 0x1200, 0x0009BA40] : List Nat).map (toLe 4)).flatten))
theorem test_table_8_11 : (let t := TInst.ofNat mfuseW
    t.func = fMFUSE ∧ t.gen = 0 ∧ t.mode = 2 ∧ t.shape = 0 ∧ t.phase = 0x4C ∧ t.trk = 0 ∧ t.cmp = 0 ∧
    t.op = [0x41, 0x42, 0x162, 0x163, 0x43, 0x44] ∧ t.bnd = [0x40000003, 4608, 4608] ∧ t.pblk = 0x3A40 ∧ t.rowfn = 6 ∧ t.fuse = 2 ∧
    tinstReservedOk mfuseW = true) := by decide +kernel

/-- Table 9.7: square 0 of the curve, holes where i is beyond the grid of 3 by 8. -/
theorem test_table_9_7 : (List.range 16).map (gridAt 3 8 2 true) =
    [some (0, 0), some (0, 1), some (1, 1), some (1, 0), some (2, 0), none, none, some (2, 1), some (2, 2), none, none, some (2, 3),
     some (1, 3), some (1, 2), some (0, 2), some (0, 3)] := by decide +kernel

/-- Chapter 10: 256 bytes of which 54 are not zero, in 41 of the 64 words. -/
def push54 : Bytes := (List.range 64).flatMap (fun w => if w < 13 then [1, 2, 0, 0] else if w < 41 then [7, 0, 0, 0] else [0, 0, 0, 0])
theorem test_frame_elided : (let g := (formFrame true { fr0 with op := 0x11, cls := 2, payload := push54 }).1
    (elideWords push54).length = 16 * 11 ∧ g.wire.length = 96 ∧ g.ctype = 2 ∧ g.plen = 5 ∧ g.dlen = 15 ∧ g.dense = false) := by
  decide +kernel
theorem test_endpoint : endpointUnit 0x1142 = some (.wedge 4 5) ∧ endpointUnit 0x4881 = some (.wedge 11 2) := by decide +kernel

/-- Chapter 11: token 3,000,000 of K for layer 3, head 4. -/
def allocKv : Alloc := { alloc3 with arcs := (List.range 1344).map (fun i => { hub := i % 4, frame0 := 0, frame1 := 0 }) }
theorem test_address_map : allocPlace allocKv 12195160064 = some (4 * 2 + 2 + 1, 57782272 / 64, 0) := by decide +kernel

/-- Chapter 12: the header words of the dense store to 0x1E24_0000, and the list entry that its granule selects. -/
theorem test_link_header : dataHeader { lf0 with
      op := 0x18, cls := 3, plen := 15, dlen := 15, seq := 0x7F3, tag := 0xA1, exp := 5, offset := 0x1E240000 } =
    toLe 4 0x7F33FCD8 ++ toLe 4 0x000050A1 ++ toLe 4 0x001E2400 := by decide +kernel
theorem test_bundle_entry : 0x1E240000 / 4096 = 123456 ∧ 123456 % 16 = 0 ∧ 123456 % 15 = 6 := by decide

/-- Chapter 13: the completion of a job that fails check 11, and of the repeated entry. -/
theorem test_completion : (let b := compBytes { port := 1, q := 3, cid := 0x107, status := 0x30, detail := 0x09, smiss := false, result := 0xC0053 } 58 true
    (List.range 4).map (word32 b) = [0x09300107, 0x0001303A, 0x000C0053, 0] ∧ stLoaderCheck = 0x30 ∧ stRepeat = 0x03) := by decide +kernel

/-- Chapter 14: the sizes of two records, and where the scan goes on after the torn one. -/
theorem test_record_sizes : recordBytes 1 = 0x20 ∧ recordBytes 16 = 48 ∧ roundUp 0x01583F60 4096 = 0x01584000 := by decide +kernel

/-- Chapter 15: the pool, H1's demand at its preferred point, and the budgets. -/
theorem test_pool : poolOf .oc40a dev0 930 0 = (261375 : Rat) / 100 ∧
    shareOut 672 (261375 / 100) [150, 2499, 150, 150] = [150, 1344, 150, 150] := by decide +kernel

/-- Chapter 16: the words of CHECK ENGINE CONFIG for CRC32C. -/
theorem test_ce_words : (let c := cmd0 0x30 [0x25, 0x00010801, 0x1EDC6F41, 0xFFFFFFFF, 0xFFFFFFFF, 0x1A0]
    bitsOf (c.P 0) 5 0 = 37 ∧ bitsOf (c.P 5) 6 0 = 32) := by decide +kernel
/-- The check values of the CRC catalogues for CRC-32 and CRC32C over the text 123456789. -/
theorem test_crc_check_values : (let t : Bytes := [0x31, 0x32, 0x33, 0x34, 0x35, 0x36, 0x37, 0x38, 0x39]
    crc32 t = 0xCBF43926 ∧ crcOut 32 0xFFFFFFFF true (crcFeed 32 0x1EDC6F41 true 0xFFFFFFFF t) = 0xE3069283) := by decide +kernel

/-- Chapter 18: the balls of link L37, lane 2, and of lane 7 of HP1, and the GND balls of Table 18.8. -/
theorem test_balls : ballAt .oc40a 89 81 = some (.linkTx 37 2 false) ∧ ballAt .oc40b 89 80 = some (.linkTx 37 2 true) ∧
    ballAt .oc40c 89 81 = some .noConnect ∧ ballAt .oc40a 28 86 = some (.pcieRx 1 7 true) ∧
    ((balls .oc40a).filter (fun b => b == .gnd)).length = 3090 := by decide +kernel

/-- Table 15.6: phase 0x21 on region H1, to within a watt. -/
theorem test_table_15_6 : (let d := { dev0 with pow := { dev0.pow with regions := [(1, { learnedM := [(0x21, 69)] })] } }
    (([390, 611, 888, 1180, 1526, 1975, 2499] : List Rat).zipIdx).all (fun e => decide (
      absQ (demandAt d { domain := domWedge 144, phase := 0x21, lane := false, active := 27648 } e.2 - e.1) < 1))) = true := by
  decide +kernel

end Sys2Proof.Tests
end

/-!
SUPPORT and PROOFS for ch. 13. The queue registers under the enable (R346) and the alive field of a fetched entry (R350): what an update of a
port leaves of its queues, one equation for each queue operation of a port that is up, and the two statements assembled from them.
-/
namespace Sys2Proof.Machine

open Sys2Proof

/-! ### Queues under updates of a port and of the counters -/

/-- A port written with the queues that it had changes no queue. -/
theorem Dev.queue_setPort (d : Dev) {p : Nat} {x : HostPort} (hx : x.queues = (d.port p).queues) (p' q' : Nat) :
    (d.setPort p x).queue p' q' = d.queue p' q' := by
  by_cases hp : p' = p
  · subst hp
    simp [Dev.queue, hx]
  · simp [Dev.queue, Dev.port_setPort_other d _ hp]

/-- What a port changes of itself beside its queues changes no queue. -/
theorem Dev.queue_modPort (d : Dev) (p : Nat) {f : HostPort → HostPort} (hf : ∀ x, (f x).queues = x.queues) (p' q' : Nat) :
    (d.modPort p f).queue p' q' = d.queue p' q' :=
  d.queue_setPort (hf _) p' q'

/-- Sending pending MSI-X messages changes no queue. -/
@[simp] theorem Dev.queue_flushMsix (d : Dev) (n p q : Nat) : (d.flushMsix n).queue p q = d.queue p q := by
  refine List.foldlRecOn (motive := fun e : Dev => e.queue p q = d.queue p q) _ _ rfl (fun e he i _ => ?_)
  dsimp only
  split
  · exact (e.queue_setPort (p := n) (by rfl) p q).trans he
  · exact he

/-- A counter raised changes no queue. -/
@[simp] theorem Dev.queue_count (d : Dev) (idx sub n p q : Nat) : (d.count idx sub n).queue p q = d.queue p q := rfl

theorem Dev.onlyQueue_refl (d : Dev) (p q : Nat) : OnlyQueue d d p q := ⟨fun _ => rfl, fun _ _ _ => rfl⟩

theorem Dev.onlyQueue_count (d : Dev) (idx sub n p q : Nat) : OnlyQueue d (d.count idx sub n) p q :=
  ⟨fun _ => rfl, fun _ _ _ => rfl⟩

/-! ### The queue operations of a port that is up (R346) -/

/-- What a doorbell does, whichever register it writes: one beyond the queue is counted alone, another writes the queue alone. -/
theorem Dev.doorbell_obeys (d : Dev) (p q : Nat) {beyond : Prop} [Decidable beyond] {x : Queue} {e : Dev}
    (he : e = if beyond then d.count 0x1205 (p + 1) 1 else d.setQueue p q x) :
    e = { d with ports := e.ports, ctr := e.ctr } ∧ OnlyQueue d e p q ∧
      (if beyond then e.queue p q = d.queue p q ∧ Counted d e 0x1205 (p + 1) 1 else e.queue p q = x ∧ e.ctr = d.ctr) := by
  by_cases hb : beyond
  · simp only [hb, if_true] at he ⊢
    subst he
    exact ⟨rfl, d.onlyQueue_count _ _ _ p q, rfl, d.counted_count _ _ _⟩
  · simp only [hb, if_false] at he ⊢
    subst he
    exact ⟨rfl, d.onlyQueue_setQueue p q x, d.queue_setQueue_same p q x, rfl⟩

/-- What a write of the enable does: where its condition holds it writes the queue alone, else nothing. -/
theorem Dev.setQueue_if_obeys (d : Dev) (p q : Nat) {may : Prop} [Decidable may] {x : Queue} {e : Dev}
    (he : e = if may then d.setQueue p q x else d) :
    e = { d with ports := e.ports } ∧ OnlyQueue d e p q ∧ e.queue p q = if may then x else d.queue p q := by
  by_cases hm : may
  · simp only [hm, if_true] at he ⊢
    subst he
    exact ⟨rfl, d.onlyQueue_setQueue p q x, d.queue_setQueue_same p q x⟩
  · simp only [hm, if_false] at he ⊢
    subst he
    exact ⟨rfl, e.onlyQueue_refl p q, rfl⟩

section
variable {v : Variant} {d : Dev} {p q : Nat} (hup : portUp v d p = true) (hq : q < 16)
include hup hq

theorem sqDoorbellOp_eq (tail : BitVec 12) : sqDoorbellOp v p q tail d =
    if (d.queue p q).sqsize < tail then d.count 0x1205 (p + 1) 1 else d.setQueue p q { d.queue p q with sqtail := tail } := by
  simp [sqDoorbellOp, hup, hq]

theorem cqDoorbellOp_eq (head : BitVec 12) : cqDoorbellOp v p q head d =
    if (d.queue p q).cqsize < head then d.count 0x1205 (p + 1) 1 else d.setQueue p q { d.queue p q with cqhead := head } := by
  simp [cqDoorbellOp, hup, hq]

theorem queueEnableOp_eq : queueEnableOp v p q d =
    if (d.queue p q).en = false
    then d.setQueue p q { d.queue p q with en := true, sqhead := 0, cqtail := 0, anext := 0, phase := true } else d := by
  cases hen : (d.queue p q).en <;> simp [queueEnableOp, hup, hq, hen]

theorem queueDisableOp_eq : queueDisableOp v p q d =
    if (d.queue p q).en = true then d.setQueue p q { d.queue p q with disabling := true } else d := by
  simp [queueDisableOp, hup, hq]

end

/-! ### Byte writes to BAR0 while the queue is enabled (R346) -/

/-- `Q'` holds what `Q` holds, but perhaps for the interrupt enable. -/
def Queue.SameButIe (Q Q' : Queue) : Prop := Q' = { Q with ie := Q'.ie }

theorem Queue.SameButIe.refl (Q : Queue) : Q.SameButIe Q := rfl

theorem Queue.SameButIe.trans {Q Q' Q'' : Queue} (h : Q.SameButIe Q') (h' : Q'.SameButIe Q'') : Q.SameButIe Q'' := by
  unfold Queue.SameButIe at *
  rw [h', h]

/-- While en reads 1 a byte written to a queue's registers changes none of them but the interrupt enable. -/
theorem queueByte_sameButIe {Q : Queue} (hen : Q.en = true) (r : Nat) (b : Byte) : Q.SameButIe (queueByte Q r b) := by
  rw [queueByte, if_pos hen]
  split <;> rfl

/-- A byte written outside the queue registers of Table 13.3 changes no queue. -/
theorem queue_bar0Byte_outside (d : Dev) (p : Nat) {off : Nat} (h : ¬(0x100 ≤ off ∧ off < 0x500)) (b : Byte) (p' q' : Nat) :
    (bar0Byte p d off b).queue p' q' = d.queue p' q' := by
  unfold bar0Byte
  rw [if_neg h]
  split_ifs <;> simp [Dev.queue_modPort]

/-- A byte written anywhere in BAR0 changes of an enabled queue at most the interrupt enable. -/
theorem bar0Byte_sameButIe {d : Dev} {p q : Nat} (hen : (d.queue p q).en = true) (off : Nat) (b : Byte) :
    (d.queue p q).SameButIe ((bar0Byte p d off b).queue p q) := by
  by_cases hreg : 0x100 ≤ off ∧ off < 0x500
  · have hbyte : bar0Byte p d off b = d.setQueue p ((off - 0x100) / 0x40) _ := if_pos hreg
    rw [hbyte]
    by_cases hq : q = (off - 0x100) / 0x40
    · subst hq
      rw [Dev.queue_setQueue_same]
      exact queueByte_sameButIe hen _ b
    · rw [d.queue_setQueue_other _ fun h => hq h.2]
      exact .refl _
  · rw [queue_bar0Byte_outside d p hreg]
    exact .refl _

/-- A register write of any width changes of an enabled queue at most the interrupt enable. -/
theorem bar0WriteOp_sameButIe (v : Variant) {d : Dev} {p q : Nat} (hen : (d.queue p q).en = true) (off size : Nat)
    (value : BitVec 64) :
    (d.queue p q).SameButIe ((bar0WriteOp v p off size value d).queue p q) := by
  have hbytes (bs : List (Byte × Nat)) :
      (d.queue p q).SameButIe ((bs.foldl (fun d e => bar0Byte p d (off + e.2) e.1) d).queue p q) := by
    refine List.foldlRecOn (motive := fun e : Dev => (d.queue p q).SameButIe (e.queue p q)) _ _ (Queue.SameButIe.refl _)
      (fun e he x _ => ?_)
    have hen' : (e.queue p q).en = true := by rw [he, hen]
    exact he.trans (bar0Byte_sameButIe hen' _ _)
  unfold bar0WriteOp
  split
  · dsimp only
    split
    · rw [Dev.queue_flushMsix]
      exact hbytes _
    · exact hbytes _
  · exact .refl _

/-- Settles O3: each queue operation of a port that is up is one write of the queue or one count, and no byte written to BAR0 changes the bases
and sizes of an enabled queue. -/
theorem queueRegistersObeyEnable : Obligations.QueueRegistersObeyEnable := by
  intro s p q hup hq
  refine ⟨fun tail => ?_, fun head => ?_, ?_, ?_, ?_, fun off size value hen => ?_⟩
  · obtain ⟨hframe, hrest⟩ := s.dev.doorbell_obeys p q (sqDoorbellOp_eq hup hq tail)
    exact ⟨_, rfl, congrArg s.on hframe, hrest⟩
  · obtain ⟨hframe, hrest⟩ := s.dev.doorbell_obeys p q (cqDoorbellOp_eq hup hq head)
    exact ⟨_, rfl, congrArg s.on hframe, hrest⟩
  · obtain ⟨hframe, honly, hqueue⟩ := s.dev.setQueue_if_obeys p q (queueEnableOp_eq hup hq)
    refine ⟨_, rfl, congrArg s.on hframe, honly, hqueue.trans ?_⟩
    cases (s.dev.queue p q).en <;> rfl
  · obtain ⟨hframe, honly, hqueue⟩ := s.dev.setQueue_if_obeys p q (queueDisableOp_eq hup hq)
    refine ⟨_, rfl, congrArg s.on hframe, honly, ?_⟩
    rw [State.on_dev, hqueue]
    cases hen : (s.dev.queue p q).en <;> simp [offers, hen]
  · obtain ⟨hframe, honly, hqueue⟩ := s.dev.setQueue_if_obeys p q (e := queueDisableDoneOp p q s.dev) rfl
    refine ⟨_, rfl, congrArg s.on hframe, honly, ?_⟩
    rw [State.on_dev, hqueue]
    cases h : (s.dev.queue p q).disabling && queueDrained s.dev p q <;> simp
  · have hkeep := bar0WriteOp_sameButIe s.variant hen off size value
    refine ⟨_, rfl, ?_⟩
    rw [State.on_dev, hkeep]
    exact ⟨rfl, rfl, rfl, rfl⟩

/-! ### Fetch (R347, R350) -/

/-- The port has fetched the entry at the head of queue q: sqhead is past it, and the next fetch begins with the queue after q. -/
def Dev.pastEntry (d : Dev) (p q : Nat) : Dev :=
  (d.setQueue p q { d.queue p q with sqhead := nextSlot (d.queue p q).sqhead (d.queue p q).sqsize }).modPort p
    (fun hp => { hp with rr := (q + 1) % 16 })

theorem Dev.queue_pastEntry (d : Dev) (p q : Nat) : (d.pastEntry p q).queue p q =
    { d.queue p q with sqhead := nextSlot (d.queue p q).sqhead (d.queue p q).sqsize } := by
  rw [Dev.pastEntry, Dev.queue_modPort, Dev.queue_setQueue_same]
  exact fun _ => rfl

@[simp] theorem Dev.pastEntry_cmds (d : Dev) (p q : Nat) : (d.pastEntry p q).cmds = d.cmds := rfl
@[simp] theorem Dev.pastEntry_nextCmd (d : Dev) (p q : Nat) : (d.pastEntry p q).nextCmd = d.nextCmd := rfl
@[simp] theorem Dev.pastEntry_comps (d : Dev) (p q : Nat) : (d.pastEntry p q).comps = d.comps := rfl

/-! ### The checks of Table 13.5 read no port (R351) -/

theorem targetOffline_pastEntry (d : Dev) (p q : Nat) : targetOffline (d.pastEntry p q) = targetOffline d := rfl

theorem testTarget_pastEntry (d : Dev) (p q : Nat) : testTarget (d.pastEntry p q) = testTarget d := rfl

/-- Whether a named unit serves is told by its domain, its holds and its macro (R11), which a fetch does not touch. -/
theorem unitStatus_pastEntry (v : Variant) (d : Dev) (p q : Nat) : unitStatus v (d.pastEntry p q) = unitStatus v d := by
  unfold unitStatus stacksOffline issuerOffline targetStatus
  rw [targetOffline_pastEntry, testTarget_pastEntry]

theorem entryStatus_pastEntry (v : Variant) (d : Dev) (p q : Nat) : entryStatus v (d.pastEntry p q) = entryStatus v d := by
  unfold entryStatus
  rw [unitStatus_pastEntry]

/-! ### What taking an entry writes (R350) -/

/-- Queue q has accepted an entry: anext is raised by one, and the entry is counted. -/
def Dev.raiseAnext (d : Dev) (p q : Nat) : Dev :=
  (d.setQueue p q { d.queue p q with anext := (d.queue p q).anext + 1 }).count 0x1201 (p + 1) 1

theorem Dev.queue_raiseAnext (d : Dev) (p q : Nat) :
    (d.raiseAnext p q).queue p q = { d.queue p q with anext := (d.queue p q).anext + 1 } :=
  d.queue_setQueue_same p q _

theorem Dev.counted_raiseAnext (d : Dev) (p q : Nat) : Counted d (d.raiseAnext p q) 0x1201 (p + 1) 1 :=
  (d.setQueue p q _).counted_count _ _ _

@[simp] theorem Dev.raiseAnext_cmds (d : Dev) (p q : Nat) : (d.raiseAnext p q).cmds = d.cmds := rfl
@[simp] theorem Dev.raiseAnext_nextCmd (d : Dev) (p q : Nat) : (d.raiseAnext p q).nextCmd = d.nextCmd := rfl
@[simp] theorem Dev.raiseAnext_comps (d : Dev) (p q : Nat) : (d.raiseAnext p q).comps = d.comps := rfl

/-- An entry becomes the newest command in flight. -/
def Dev.launch (d : Dev) (p q : Nat) (b : Bytes) : Dev :=
  { d with cmds := d.cmds ++ [{ id := d.nextCmd, port := p, q := q, cid := entryCid b, opc := entryOpc b, p := entryP b,
                                stage := .ready, waits := [] }],
           nextCmd := d.nextCmd + 1 }

@[simp] theorem Dev.queue_launch (d : Dev) (p q : Nat) (b : Bytes) (p' q' : Nat) :
    (d.launch p q b).queue p' q' = d.queue p' q' := rfl
@[simp] theorem Dev.launch_comps (d : Dev) (p q : Nat) (b : Bytes) : (d.launch p q b).comps = d.comps := rfl
@[simp] theorem Dev.launch_nextCmd (d : Dev) (p q : Nat) (b : Bytes) : (d.launch p q b).nextCmd = d.nextCmd + 1 := rfl
@[simp] theorem Dev.launch_cmds (d : Dev) (p q : Nat) (b : Bytes) : (d.launch p q b).cmds =
    d.cmds ++ [{ id := d.nextCmd, port := p, q := q, cid := entryCid b, opc := entryOpc b, p := entryP b, stage := .ready,
                 waits := [] }] := rfl

section
variable (d : Dev) (p q : Nat) (cid : BitVec 16) (status : BitVec 8) (detail : Nat)

@[simp] theorem Dev.queue_answer (p' q' : Nat) : (d.answer p q cid status detail).queue p' q' = d.queue p' q' := rfl
@[simp] theorem Dev.answer_cmds : (d.answer p q cid status detail).cmds = d.cmds := rfl
@[simp] theorem Dev.answer_nextCmd : (d.answer p q cid status detail).nextCmd = d.nextCmd := rfl
@[simp] theorem Dev.answer_comps : (d.answer p q cid status detail).comps =
    d.comps ++ [{ port := p, q := q, cid := cid, status := status, detail := BitVec.ofNat 8 detail, smiss := false,
                  result := 0 }] := rfl

end

/-- Neither an accepted command nor an answer moves a counter. -/
theorem counted_launch {d e : Dev} {idx sub n : Nat} (h : Counted d e idx sub n) (p q : Nat) (b : Bytes) :
    Counted d (e.launch p q b) idx sub n := h

theorem counted_answer {d e : Dev} {idx sub n : Nat} (h : Counted d e idx sub n) (p q : Nat) (cid : BitVec 16) (status : BitVec 8)
    (detail : Nat) : Counted d (e.answer p q cid status detail) idx sub n := h

/-! ### What a fetch may change -/

/-- From `d` to `e` nothing has changed but the ports, the counters, the commands in flight and the waiting completions. -/
def OnlyFetch (d e : Dev) : Prop :=
  e = { d with ports := e.ports, ctr := e.ctr, cmds := e.cmds, nextCmd := e.nextCmd, comps := e.comps }

theorem OnlyFetch.trans {d e f : Dev} (h : OnlyFetch d e) (h' : OnlyFetch e f) : OnlyFetch d f := by
  unfold OnlyFetch at *
  rw [h', h]

theorem onlyFetch_pastEntry (d : Dev) (p q : Nat) : OnlyFetch d (d.pastEntry p q) := rfl
theorem onlyFetch_raiseAnext (d : Dev) (p q : Nat) : OnlyFetch d (d.raiseAnext p q) := rfl
theorem onlyFetch_count (d : Dev) (idx sub n : Nat) : OnlyFetch d (d.count idx sub n) := rfl
theorem onlyFetch_launch (d : Dev) (p q : Nat) (b : Bytes) : OnlyFetch d (d.launch p q b) := rfl
theorem onlyFetch_answer (d : Dev) (p q : Nat) (cid : BitVec 16) (status : BitVec 8) (detail : Nat) :
    OnlyFetch d (d.answer p q cid status detail) := rfl

/-! ### An entry is taken (R350) -/

section
variable (v : Variant) {p q : Nat} {b : Bytes} {d : Dev}

/-- An entry whose alive is anext and that passes its checks becomes a command in flight. -/
theorem takeEntry_of_success (h : entryAlive b = (d.queue p q).anext)
    (hr : (entryStatus v d (entryOpc b) (entryRsv b) (entryP b)).1 = stSuccess) :
    takeEntry v p q b d = (d.raiseAnext p q).launch p q b :=
  (if_pos h).trans (if_pos hr)

/-- An entry whose alive is anext and that fails a check is answered with the check's status, and is accepted all the same. -/
theorem takeEntry_of_failed_check (h : entryAlive b = (d.queue p q).anext)
    (hr : (entryStatus v d (entryOpc b) (entryRsv b) (entryP b)).1 ≠ stSuccess) :
    takeEntry v p q b d =
      (d.raiseAnext p q).answer p q (entryCid b) (entryStatus v d (entryOpc b) (entryRsv b) (entryP b)).1
        (entryStatus v d (entryOpc b) (entryRsv b) (entryP b)).2 :=
  (if_pos h).trans (if_neg hr)

/-- Acceptance raises anext and is counted, whatever comes of the command. -/
theorem takeEntry_of_alive (h : entryAlive b = (d.queue p q).anext) :
    (takeEntry v p q b d).queue p q = { d.queue p q with anext := (d.queue p q).anext + 1 } ∧
      Counted d (takeEntry v p q b d) 0x1201 (p + 1) 1 := by
  have hqueue := d.queue_raiseAnext p q
  have hcount := d.counted_raiseAnext p q
  by_cases hr : (entryStatus v d (entryOpc b) (entryRsv b) (entryP b)).1 = stSuccess
  · rw [takeEntry_of_success v h hr]
    exact ⟨hqueue, counted_launch hcount p q b⟩
  · rw [takeEntry_of_failed_check v h hr]
    exact ⟨hqueue, counted_answer hcount p q _ _ _⟩

/-- An entry with another alive is counted and answered as a repeat or as a gap. -/
theorem takeEntry_of_not_alive (h : entryAlive b ≠ (d.queue p q).anext) :
    takeEntry v p q b d =
      (d.count (if entryAlive b = (d.queue p q).anext - 1 then 0x1202 else 0x1203) (p + 1) 1).answer p q (entryCid b)
        (if entryAlive b = (d.queue p q).anext - 1 then stRepeat else stAliveGap) 0 := by
  refine (if_neg h).trans ?_
  split <;> rfl

variable (p q b d) in
theorem onlyFetch_takeEntry : OnlyFetch d (takeEntry v p q b d) := by
  by_cases h : entryAlive b = (d.queue p q).anext
  · have hraise := onlyFetch_raiseAnext d p q
    by_cases hr : (entryStatus v d (entryOpc b) (entryRsv b) (entryP b)).1 = stSuccess
    · rw [takeEntry_of_success v h hr]
      exact hraise.trans (onlyFetch_launch _ p q b)
    · rw [takeEntry_of_failed_check v h hr]
      exact hraise.trans (onlyFetch_answer _ p q _ _ _)
  · rw [takeEntry_of_not_alive v h]
    exact (onlyFetch_count d _ _ _).trans (onlyFetch_answer _ p q _ _ _)

end

theorem exec_commandFetch (s : State) (p : Nat) (e : HostRead) :
    exec (.commandFetch p e) s = .next (s.on (commandFetchOp s.variant p e s.dev)) := rfl

/-- A port that may fetch takes the entry that it has read, in round-robin order. -/
theorem commandFetchOp_ok {v : Variant} {d : Dev} {p q : Nat} (hup : portUp v d p = true) (hd0 : (d.port p).d3 = false)
    (hserves : targetOffline d (.core p 0) = false) (hroom : inFlight d p < 256) (hnext : nextQueue d p = some q) (b : Bytes) :
    commandFetchOp v p (.ok b) d = takeEntry v p q (padTo 64 b) (d.pastEntry p q) := by
  simp [commandFetchOp, hup, hd0, hserves, hroom, hnext, Dev.pastEntry]

/-- Settles O5: the port takes the entry past sqhead, and its alive decides between acceptance, repeat and gap. -/
theorem fetchObeysAlive : Obligations.FetchObeysAlive := by
  intro s p q b hup hd0 hserves hroom hnext
  rw [exec_commandFetch, commandFetchOp_ok hup hd0 hserves hroom hnext]
  generalize padTo 64 b = e
  have hqueue := s.dev.queue_pastEntry p q
  have hanext : ((s.dev.pastEntry p q).queue p q).anext = (s.dev.queue p q).anext := by rw [hqueue]
  have hframe := (onlyFetch_pastEntry s.dev p q).trans (onlyFetch_takeEntry s.variant p q e _)
  refine ⟨_, rfl, congrArg s.on hframe, ?_⟩
  dsimp only [State.on_dev]
  by_cases halive : entryAlive e = (s.dev.queue p q).anext
  · have halive' := halive.trans hanext.symm
    obtain ⟨hraised, hcount⟩ := takeEntry_of_alive s.variant halive'
    rw [if_pos halive, hraised, hqueue]
    refine ⟨rfl, rfl, hcount, ?_⟩
    rw [← entryStatus_pastEntry s.variant s.dev p q]
    split
    next hr => simp [takeEntry_of_success s.variant halive' hr]
    next hr => simp [takeEntry_of_failed_check s.variant halive' hr]
  · rw [if_neg halive, takeEntry_of_not_alive s.variant (hanext ▸ halive), hanext]
    simp only [Dev.queue_answer, Dev.queue_count, hqueue, true_and]
    refine ⟨by simp, by simp, ?_, by simp⟩
    exact counted_answer ((s.dev.pastEntry p q).counted_count _ _ _) p q _ _ _

end Sys2Proof.Machine

/-!
PROOFS for the step as a whole: the front command and the idle step (R18), that every command answers, and the state at reset.
-/
namespace Sys2Proof.Machine

open Sys2Proof

/-! ### The idle step -/

/-- The timer of a hub after the listed hubs have taken their microsecond or stood still. -/
theorem tget_foldl_tick (go : Nat → Bool) (h : Nat) (hs : List Nat) (hnd : hs.Nodup) (t : Tab Nat) :
    tget 0 (hs.foldl (fun t h => if go h then tmod 0 t h (· + 1) else t) t) h = tget 0 t h + if h ∈ hs ∧ go h then 1 else 0 := by
  induction hs generalizing t with
  | nil => simp
  | cons k hs ih =>
    obtain ⟨hk, hnd⟩ := List.nodup_cons.mp hnd
    rw [List.foldl_cons, ih hnd]
    by_cases hkh : h = k
    · subst hkh
      by_cases hg : go h <;> simp [hg, hk]
    · by_cases hg : go k <;> simp [hg, hkh, tget_tmod_other 0 t _ hkh]

theorem Dev.tick_stbyTimer (v : Variant) (d : Dev) :
    (d.tick v).stbyTimer = d.stbyTimer + if d.seq.stbyUp ∧ Config.still d.free 4 = false then 1 else 0 := by
  cases hs : d.seq.stbyUp <;> cases hf : Config.still d.free 4 <;> simp [Dev.tick, hs, hf]

theorem Dev.tick_hubTimer (v : Variant) (d : Dev) (h : Nat) :
    tget 0 (d.tick v).hubTimer h =
      tget 0 d.hubTimer h + if timerRuns v d h ∧ h < 4 ∧ Config.still d.free h = false then 1 else 0 := by
  have key := tget_foldl_tick (fun h => timerRuns v d h && !Config.still d.free h) h (List.range 4) List.nodup_range d.hubTimer
  refine key.trans ?_
  simp only [List.mem_range, Bool.and_eq_true, Bool.not_eq_true']
  congr 1
  exact if_congr (by tauto) rfl rfl

/-- Settles O1: the front command is what `step` runs, and an idle step is `Dev.tick`. -/
theorem stepRunsFrontCommand : Obligations.StepRunsFrontCommand := by
  constructor
  · intro s c rest h
    simp only [step, h]
  · intro s h
    have hstep : step s = .next (s.on (s.dev.tick s.variant)) := by simp only [step, h]
    exact ⟨_, hstep, h, rfl, rfl, s.dev.tick_stbyTimer _, s.dev.tick_hubTimer _⟩

/-! ### Every command answers -/

/-- A command that runs on the device alone answers a next state with the queue and the variant as they were. -/
theorem answers_on (s : State) (d : Dev) :
    ∃ t, (Host.Outcome.next (s.on d) : Host.Outcome State Fault Refusal) = .next t ∧ t.pending = s.pending ∧ t.variant = s.variant :=
  ⟨_, rfl, rfl, rfl⟩

/-- A command that runs where its address exists, and else stops by the name `f`. -/
theorem answers_or_stops {ok : Bool} {P : Prop} [Decidable P] (hP : P ↔ ok = true) (s : State) (d : Dev) (f : Fault) :
    (ok = true → ∃ t, (if P then .next (s.on d) else .fault f : Host.Outcome State Fault Refusal) = .next t ∧
      t.pending = s.pending ∧ t.variant = s.variant) ∧
    (ok = false → (if P then .next (s.on d) else .fault f : Host.Outcome State Fault Refusal) = .fault f) := by
  constructor
  · intro h
    rw [if_pos (hP.mpr h)]
    exact answers_on s d
  · intro h
    exact if_neg fun hp => by simp [hP.mp hp] at h

/-- Settles O2: five commands check the address that they access, every other runs on the device whatever it holds. -/
theorem everyCommandAnswers : Obligations.EveryCommandAnswers := by
  intro s c
  cases c with
  | cacheAccess slice line off len op symbols tile => exact answers_or_stops Iff.rfl s _ _
  | lineFill hub k line symbols => exact answers_or_stops Iff.rfl s _ _
  | patrolScrub slice line symbols => exact answers_or_stops Iff.rfl s _ _
  | bankAccess issuer req => exact answers_or_stops (by rw [Bool.and_comm]; rfl) s _ _
  | marchPreservingWord issuer word descending bad restored =>
    exact answers_or_stops (by rw [addressOk, decide_eq_true_iff]) s _ _
  | _ => exact ⟨fun _ => answers_on s _, fun h => Bool.noConfusion h⟩

/-! ### Reset -/

/-- Settles O59: each field stands at its reset value, and the empty tables read as their defaults. -/
theorem resetState : Obligations.ResetState where
  left := rfl
  right := by
    refine ⟨rfl, rfl, rfl, rfl, rfl, fun p => ⟨rfl, fun q => rfl⟩, rfl, rfl, rfl, rfl, rfl, fun _ _ => rfl, fun _ => rfl, ?_⟩
    exact {
      stack := rfl, stby := rfl, spad := rfl, msix := fun _ => rfl, mailIn := fun _ => rfl, mailOut := fun _ => rfl,
      ids := List.nodup_nil, fresh := fun c hc => absurd hc List.not_mem_nil, flight := fun p => Nat.zero_le _,
      ring := Nat.zero_le _, tokens := Nat.le_refl _ }

end Sys2Proof.Machine

/-!
PROOFS for the payload forms of R270 and R322: a mask and the elements that it selects stand for the dense payload, so that a receiver
restores what was offered.
-/
namespace Sys2Proof

/-! ### Little-endian numbers and padding -/

@[simp] theorem length_toLe (n v : Nat) : (toLe n v).length = n := by
  induction n generalizing v with
  | zero => rfl
  | succ n ih => simp [toLe, ih]

/-- `n` bytes spell a number below 256^n. -/
theorem leNat_toLe (n v : Nat) (h : v < 256 ^ n) : leNat (toLe n v) = v := by
  induction n generalizing v with
  | zero => simpa [toLe, leNat, eq_comm] using h
  | succ n ih =>
    have hdiv : v / 256 < 256 ^ n := Nat.div_lt_of_lt_mul (by rwa [Nat.pow_succ, Nat.mul_comm] at h)
    rw [toLe, leNat, ih _ hdiv, BitVec.toNat_ofNat]
    exact Nat.mod_add_div v 256

theorem roundUp_mod (n m : Nat) : roundUp n m % m = 0 := Nat.mul_mod_left _ _

theorem le_roundUp_flit (n : Nat) : n ≤ roundUp n 16 := by
  unfold roundUp
  omega

theorem roundUp_flit_of_mod {n : Nat} (h : n % 16 = 0) : roundUp n 16 = n := by
  unfold roundUp
  omega

theorem length_padTo {n : Nat} {b : Bytes} (h : b.length ≤ n) : (padTo n b).length = n := by
  rw [padTo, List.length_append, List.length_replicate]
  omega

namespace Machine

@[simp] theorem length_padFlit (b : Bytes) : (padFlit b).length = roundUp b.length 16 := length_padTo (le_roundUp_flit _)

theorem length_padFlit_mod (b : Bytes) : (padFlit b).length % 16 = 0 := by rw [length_padFlit, roundUp_mod]

/-! ### Masks -/

theorem maskOf_lt {α : Type} (p : α → Bool) (l : List α) : maskOf p l < 2 ^ l.length := by
  induction l with
  | nil => simp [maskOf]
  | cons a l ih =>
    have hbit : (p a).toNat ≤ 1 := Bool.toNat_le (p a)
    rw [maskOf, List.length_cons, Nat.pow_succ]
    omega

/-- A mask and the elements that it selects give back the list, where every other element is `z`; what follows the elements is left. -/
theorem spread_maskOf {α : Type} (z : α) (p : α → Bool) (l rest : List α) (hz : ∀ a ∈ l, p a = false → a = z) :
    spread z (maskOf p l) l.length (l.filter p ++ rest) = l := by
  induction l with
  | nil => rfl
  | cons a l ih =>
    have ih := ih fun b hb => hz b (List.mem_cons_of_mem a hb)
    cases hp : p a with
    | true =>
      have hodd : maskOf p (a :: l) % 2 = 1 := by simp [maskOf, hp, Nat.add_mul_mod_self_left]
      have hhalf : maskOf p (a :: l) / 2 = maskOf p l := by simp [maskOf, hp]; omega
      simp [spread, hodd, hhalf, hp, ih]
    | false =>
      obtain rfl := hz a List.mem_cons_self hp
      have heven : maskOf p (a :: l) % 2 ≠ 1 := by simp [maskOf, hp]
      have hhalf : maskOf p (a :: l) / 2 = maskOf p l := by simp [maskOf, hp]
      simp [spread, heven, hhalf, hp, ih]

/-! ### Payloads by words -/

theorem length_flitWords (p : Bytes) : (flitWords p).length = p.length / 4 := by simp [flitWords]

/-- The first four bytes are the first word. -/
theorem flitWords_append {w : Bytes} (hw : w.length = 4) (rest : Bytes) : flitWords (w ++ rest) = w :: flitWords rest := by
  have hlen : (w ++ rest).length / 4 = rest.length / 4 + 1 := by rw [List.length_append, hw]; omega
  have hdrop (i : Nat) : (w ++ rest).drop (4 * (i + 1)) = rest.drop (4 * i) := by
    rw [show 4 * (i + 1) = w.length + 4 * i by omega, List.drop_append]
    simp
  unfold flitWords
  rw [hlen, List.range_succ_eq_map, List.map_cons, List.map_map]
  congr 1
  · rw [Nat.mul_zero, List.drop_zero, List.take_left' hw]
  · exact List.map_congr_left fun i _ => by rw [Function.comp, hdrop]

/-- Words in a row come back as they are, whatever follows. -/
theorem flitWords_flatten (ws : List Bytes) (hws : ∀ w ∈ ws, w.length = 4) (rest : Bytes) :
    flitWords (ws.flatten ++ rest) = ws ++ flitWords rest := by
  induction ws with
  | nil => rfl
  | cons w ws ih =>
    rw [List.flatten_cons, List.append_assoc, flitWords_append (hws w List.mem_cons_self),
      ih fun x hx => hws x (List.mem_cons_of_mem w hx), List.cons_append]

/-- A payload of whole words is its words in a row. -/
theorem flatten_flitWords : ∀ (n : Nat) (p : Bytes), p.length = 4 * n → (flitWords p).flatten = p := by
  intro n
  induction n with
  | zero =>
    intro p hp
    rw [List.eq_nil_of_length_eq_zero hp]
    rfl
  | succ n ih =>
    intro p hp
    have htake : (p.take 4).length = 4 := by rw [List.length_take]; omega
    have hsplit := flitWords_append htake (p.drop 4)
    rw [List.take_append_drop] at hsplit
    rw [hsplit, List.flatten_cons, ih _ (by rw [List.length_drop]; omega), List.take_append_drop]

theorem length_of_mem_flitWords {p w : Bytes} (h : w ∈ flitWords p) : w.length = 4 := by
  obtain ⟨i, hi, rfl⟩ := List.mem_map.mp h
  have := List.mem_range.mp hi
  rw [List.length_take, List.length_drop]
  omega

/-- A word of zeros is the zero word. -/
theorem eq_zero_of_wordZero {w : Bytes} (hlen : w.length = 4) (h : wordZero w = true) : w = [0, 0, 0, 0] := by
  have hall : ∀ b ∈ w, b = 0 := by simpa [wordZero] using h
  exact (List.eq_replicate_iff (n := 4)).mpr ⟨hlen, hall⟩

/-! ### The elided forms restore the payload (R270) -/

/-- A padded form of a mask and what it selects: the mask is read from its first `n` bytes, and the elements follow it. -/
theorem padFlit_parts {n m : Nat} (hm : m < 256 ^ n) (b : Bytes) :
    leNat ((padFlit (toLe n m ++ b)).take n) = m ∧ ∃ z, (padFlit (toLe n m ++ b)).drop n = b ++ z := by
  have hlen := length_toLe n m
  constructor
  · rw [padFlit, padTo, List.append_assoc, List.take_left' hlen, leNat_toLe n m hm]
  · exact ⟨_, by rw [padFlit, padTo, List.append_assoc, List.drop_left' hlen]⟩

theorem restoreBytes_elideBytes {p : Bytes} (h : p.length ≤ 256) : restoreBytes p.length (elideBytes p) = p := by
  have hmask : maskOf (fun b => b != 0) p < 256 ^ 32 :=
    (maskOf_lt _ p).trans_le ((Nat.pow_le_pow_right (by decide) h).trans (by norm_num))
  obtain ⟨hread, z, hrest⟩ := padFlit_parts hmask (p.filter fun b => b != 0)
  rw [restoreBytes, elideBytes, hread, hrest]
  exact spread_maskOf 0 _ p z fun b _ hb => by simpa using hb

theorem restoreWords_elideWords {p : Bytes} (hw : p.length % 4 = 0) (h : p.length ≤ 256) :
    restoreWords p.length (elideWords p) = p := by
  have hwords : (flitWords p).length ≤ 64 := by rw [length_flitWords]; omega
  have hmask : maskOf (fun w => !wordZero w) (flitWords p) < 256 ^ 8 :=
    (maskOf_lt _ _).trans_le ((Nat.pow_le_pow_right (by decide) hwords).trans (by norm_num))
  obtain ⟨hread, z, hrest⟩ := padFlit_parts hmask ((flitWords p).filter fun w => !wordZero w).flatten
  have hlen4 : ∀ w ∈ (flitWords p).filter (fun w => !wordZero w), w.length = 4 :=
    fun w hw => length_of_mem_flitWords (List.mem_filter.mp hw).1
  rw [restoreWords, elideWords, hread, hrest, flitWords_flatten _ hlen4, ← length_flitWords,
    spread_maskOf [0, 0, 0, 0] _ _ _ fun w hw hz => eq_zero_of_wordZero (length_of_mem_flitWords hw) (by simpa using hz)]
  exact flatten_flitWords (p.length / 4) p (by omega)

/-- Both elided forms are whole flits, and at least one. -/
theorem length_elideWords (p : Bytes) : (elideWords p).length % 16 = 0 ∧ 16 ≤ (elideWords p).length := by
  refine ⟨length_padFlit_mod _, ?_⟩
  rw [elideWords, length_padFlit, List.length_append, length_toLe]
  unfold roundUp
  omega

theorem length_elideBytes (p : Bytes) : (elideBytes p).length % 16 = 0 ∧ 16 ≤ (elideBytes p).length := by
  refine ⟨length_padFlit_mod _, ?_⟩
  rw [elideBytes, length_padFlit, List.length_append, length_toLe]
  unfold roundUp
  omega

/-! ### Frames of the fabric -/

/-- What a receiver restores, by the form that travelled. -/
theorem payload_restoreFrame_dense {f : Frame} (h : f.dense = true) : (restoreFrame f).payload = f.wire := by
  simp [restoreFrame, h]

theorem payload_restoreFrame_words {f : Frame} (h : f.dense = false) (hc : f.ctype = 1) :
    (restoreFrame f).payload = restoreWords (16 * (f.dlen + 1)) f.wire := by
  simp [restoreFrame, h, hc]

theorem payload_restoreFrame_bytes {f : Frame} (h : f.dense = false) (hc : f.ctype = 2) :
    (restoreFrame f).payload = restoreBytes (16 * (f.dlen + 1)) f.wire := by
  simp [restoreFrame, h, hc]

/-- `g` carries the payload of `f`: a receiver restores it, from no more than it, in the whole flits that `plen` counts. -/
def CarriesPayload (f g : Frame) : Prop :=
  (restoreFrame g).payload = f.payload ∧ g.wire.length ≤ f.payload.length ∧ g.wire.length % 16 = 0 ∧
    g.wire.length = 16 * (g.plen + 1) ∧ g.cls = f.cls ∧ g.op = f.op ∧ g.src = f.src ∧ g.dst = f.dst

section
variable {f : Frame} (hflits : f.payload.length % 16 = 0) (hone : 16 ≤ f.payload.length)
include hflits hone

theorem flits_of_length : 16 * (f.payload.length / 16 - 1 + 1) = f.payload.length := by omega

theorem carriesPayload_dense (dlen : Nat) (hd : dlen = f.payload.length / 16 - 1) :
    CarriesPayload f { f with dense := true, ctype := 0, plen := dlen, dlen := dlen, wire := f.payload } := by
  refine ⟨payload_restoreFrame_dense rfl, Nat.le_refl _, hflits, ?_, rfl, rfl, rfl, rfl⟩
  subst hd
  exact (flits_of_length hflits hone).symm

/-- An elided form that is smaller than the payload and stands for it. -/
theorem carriesPayload_elided {ctype : Nat} {w : Bytes} (hshort : w.length < f.payload.length)
    (hw : w.length % 16 = 0 ∧ 16 ≤ w.length)
    (hrestore : ctype = 1 ∧ restoreWords f.payload.length w = f.payload ∨ ctype = 2 ∧ restoreBytes f.payload.length w = f.payload) :
    CarriesPayload f { f with dense := false, ctype := ctype, plen := w.length / 16 - 1, dlen := f.payload.length / 16 - 1,
                              wire := w } := by
  obtain ⟨hwhole, hwone⟩ := hw
  refine ⟨?_, hshort.le, hwhole, by dsimp only; omega, rfl, rfl, rfl, rfl⟩
  have hdense := flits_of_length hflits hone
  rcases hrestore with ⟨hc, hr⟩ | ⟨hc, hr⟩
  · rw [payload_restoreFrame_words rfl hc, hdense, hr]
  · rw [payload_restoreFrame_bytes rfl hc, hdense, hr]

theorem carriesPayload_formFrame (on : Bool) (hmax : f.payload.length ≤ 256) : CarriesPayload f (formFrame on f).1 := by
  have hdense := carriesPayload_dense hflits hone _ rfl
  unfold formFrame
  dsimp only
  split
  · exact hdense
  · by_cases hwb : (elideWords f.payload).length ≤ (elideBytes f.payload).length
    · simp only [if_pos hwb]
      split
      next hshort =>
        exact carriesPayload_elided hflits hone hshort (length_elideWords _)
          (.inl ⟨rfl, restoreWords_elideWords (by omega) hmax⟩)
      · exact hdense
    · simp only [if_neg hwb]
      split
      next hshort =>
        exact carriesPayload_elided hflits hone hshort (length_elideBytes _) (.inr ⟨rfl, restoreBytes_elideBytes hmax⟩)
      · exact hdense

end

/-! ### Data frames of the links (R322) -/

/-- A form and what travels in it stand for the dense payload `p`. -/
def StandsFor (p : Bytes) (r : Nat × Bytes) : Prop :=
  (r.1 = 0 ∧ r.2 = p ∨ r.1 = 1 ∧ restoreWords p.length r.2 = p ∨ r.1 = 2 ∧ restoreBytes p.length r.2 = p) ∧
    r.2.length % 16 = 0 ∧ 16 ≤ r.2.length ∧ r.2.length ≤ p.length

section
variable {p : Bytes} (hflits : p.length % 16 = 0) (hone : 16 ≤ p.length) (hmax : p.length ≤ 256)
include hflits hone

theorem standsFor_dense : StandsFor p (0, p) := ⟨.inl ⟨rfl, rfl⟩, hflits, hone, Nat.le_refl _⟩

include hmax

theorem standsFor_linkForm (on welide belide : Bool) (op : Nat) : StandsFor p (linkForm on welide belide op p) := by
  have hdense := standsFor_dense hflits hone
  have hwords (h : (elideWords p).length < p.length) : StandsFor p (1, elideWords p) :=
    ⟨.inr (.inl ⟨rfl, restoreWords_elideWords (by omega) hmax⟩), (length_elideWords p).1, (length_elideWords p).2, h.le⟩
  have hbytes (h : (elideBytes p).length < p.length) : StandsFor p (2, elideBytes p) :=
    ⟨.inr (.inr ⟨rfl, restoreBytes_elideBytes hmax⟩), (length_elideBytes p).1, (length_elideBytes p).2, h.le⟩
  have hshorter (r : Nat × Bytes) (hr : r.2.length < p.length → StandsFor p r) :
      StandsFor p (if r.2.length < p.length then r else (0, p)) := by
    split
    next hshort => exact hr hshort
    next => exact hdense
  unfold linkForm
  dsimp only
  split
  · exact hdense
  · apply hshorter
    split
    · exact hwords
    · split
      · exact hbytes
      · exact fun _ => hdense

end

theorem densePayload_of_standsFor {p : Bytes} (hflits : p.length % 16 = 0) (hone : 16 ≤ p.length) {f : LinkFrame}
    (hd : f.dlen = p.length / 16 - 1) (h : StandsFor p (f.form, f.wire)) : densePayload f = p := by
  have hn : 16 * (f.dlen + 1) = p.length := by omega
  obtain ⟨⟨hform, hr⟩ | ⟨hform, hr⟩ | ⟨hform, hr⟩, -⟩ := h <;> dsimp only at hform hr <;> simp [densePayload, hform, hn, hr]

/-- The CRC that a frame carries is no part of what it covers. -/
theorem dataCrc_setCrc (f : LinkFrame) (c : BitVec 32) : dataCrc { f with crc := c } = dataCrc f := rfl

/-- Settles O32: a mask and the elements that it selects restore the payload, and the dense form stands where neither is smaller. -/
theorem payloadsRestored : Obligations.PayloadsRestored := by
  constructor
  · intro on f hflits hone hmax
    exact carriesPayload_formFrame hflits hone on hmax
  · intro d l op cls kind rlen tag exp offset poison p hpos hmax
    have hflits := length_padFlit_mod p
    have hone : 16 ≤ (padFlit p).length := by rw [length_padFlit]; unfold roundUp; omega
    have hmax' : (padFlit p).length ≤ 256 := by rw [length_padFlit]; unfold roundUp; omega
    have hform := standsFor_linkForm hflits hone hmax' (d.num 0x3401 3 1 = 1) (d.link l).welide (d.link l).belide op
    refine ⟨densePayload_of_standsFor hflits hone rfl hform, ?_, ?_, dataCrc_setCrc _ _⟩
    · obtain ⟨-, hwhole, hwone, -⟩ := hform
      dsimp only [formLink]
      omega
    · obtain ⟨-, -, -, hle⟩ := hform
      exact hle

end Machine
end Sys2Proof

/-!
PROOFS for the invariant of every step (O60): the byte memories stay canonical, and the commands in flight, the event ring and the tokens stay
within their bounds. One lemma `sound_f` says that the function `f` of the device keeps it; most functions change none of the fields
concerned.
-/
namespace Sys2Proof.Machine

open Sys2Proof

/-! ### What the invariant speaks of -/

/-- The three byte memories of a port are canonical. -/
def HostPort.Wf (x : HostPort) : Prop := memWf x.msixTable = true ∧ memWf x.mailIn = true ∧ memWf x.mailOut = true

variable {d : Dev}

theorem Dev.Sound.port (h : d.Sound) (p : Nat) : (d.port p).Wf := ⟨h.msix p, h.mailIn p, h.mailOut p⟩

/-- A device whose byte memories, commands, completions, event ring and tokens are those of a sound one is sound. -/
theorem Dev.Sound.congr {e : Dev} (h : d.Sound) (hstack : e.mem.stack = d.mem.stack := by rfl) (hstby : e.mem.stby = d.mem.stby := by rfl)
    (hspad : e.spad = d.spad := by rfl) (hports : e.ports = d.ports := by rfl) (hcmds : e.cmds = d.cmds := by rfl)
    (hcomps : e.comps = d.comps := by rfl) (hnext : e.nextCmd = d.nextCmd := by rfl) (hring : e.log.ring = d.log.ring := by rfl)
    (htokens : e.jour.tokens = d.jour.tokens := by rfl) : e.Sound := by
  have hport (p : Nat) : e.port p = d.port p := by rw [Dev.port, hports, Dev.port]
  have hflight (p : Nat) : inFlight e p = inFlight d p := by rw [inFlight, hcmds, hcomps, inFlight]
  exact {
    stack := hstack ▸ h.stack
    stby := hstby ▸ h.stby
    spad := hspad ▸ h.spad
    msix := fun p => hport p ▸ h.msix p
    mailIn := fun p => hport p ▸ h.mailIn p
    mailOut := fun p => hport p ▸ h.mailOut p
    ids := hcmds ▸ h.ids
    fresh := by rw [hcmds, hnext]; exact h.fresh
    flight := fun p => hflight p ▸ h.flight p
    ring := hring ▸ h.ring
    tokens := htokens ▸ h.tokens }

/-- The other fields of a device do not matter. -/
theorem sound_other (h : d.Sound) (free out marks hubTimer stbyTimer seq allocs allocIdx usedFrames descs descIdx mats matIdx matReserved loads
    swaps progs progIdx jobs nextJob tiles nextTile slots banks macros guard0 wedges quants outVecs spans pairs pred issues engines coal remote
    waits gone hops frames rooms asks links bundles pow ces vals ctr tam sec linesM remapM corrM copyingM waitingM badM wayL hseqL rseqL newestL
    cursorsL acceptedNowL selectL reg0J reg1J activeJ appendJ nextSeqJ readyJ waitingJ compJ copiedJ) :
    Dev.Sound
      { d with
        free := free, out := out, marks := marks, hubTimer := hubTimer, stbyTimer := stbyTimer, seq := seq, allocs := allocs, allocIdx :=
        allocIdx, usedFrames := usedFrames, descs := descs, descIdx := descIdx, mats := mats, matIdx := matIdx, matReserved := matReserved, loads
        := loads, swaps := swaps, progs := progs, progIdx := progIdx, jobs := jobs, nextJob := nextJob, tiles := tiles, nextTile := nextTile,
        slots := slots, banks := banks, macros := macros, guard0 := guard0, wedges := wedges, quants := quants, outVecs := outVecs, spans :=
        spans, pairs := pairs, pred := pred, issues := issues, engines := engines, coal := coal, remote := remote, waits := waits, gone := gone,
        hops := hops, frames := frames, rooms := rooms, asks := asks, links := links, bundles := bundles, pow := pow, ces := ces, vals := vals,
        ctr := ctr, tam := tam, sec := sec,
        mem := { d.mem with lines := linesM, remap := remapM, corr := corrM, copying := copyingM, waiting := waitingM, bad := badM },
        log := { d.log with way := wayL, hseq := hseqL, rseq := rseqL, newest := newestL, cursors := cursorsL, acceptedNow := acceptedNowL, select
                            := selectL },
        jour := { d.jour with reg0 := reg0J, reg1 := reg1J, active := activeJ, append := appendJ, nextSeq := nextSeqJ, ready := readyJ, waiting :=
                              waitingJ, comp := compJ, copied := copiedJ } } :=
  h.congr

/-! ### Loops and choices -/

theorem sound_foldl {α : Type} (h : d.Sound) (f : Dev → α → Dev) (l : List α) (hf : ∀ e a, e.Sound → (f e a).Sound) : (l.foldl f d).Sound :=
  List.foldlRecOn l f h fun e he a _ => hf e a he

/-- A loop that carries a result beside the device. -/
theorem sound_foldl_snd {α β : Type} {init : β × Dev} (h : init.2.Sound) (f : β × Dev → α → β × Dev) (l : List α)
    (hf : ∀ r a, r.2.Sound → (f r a).2.Sound) : (l.foldl f init).2.Sound :=
  List.foldlRecOn (motive := fun r => r.2.Sound) l f h fun r hr a _ => hf r a hr

/-- A loop that carries two results beside the device. -/
theorem sound_foldl_snd_snd {α β γ : Type} {init : β × γ × Dev} (h : init.2.2.Sound) (f : β × γ × Dev → α → β × γ × Dev) (l : List α)
    (hf : ∀ r a, r.2.2.Sound → (f r a).2.2.Sound) : (l.foldl f init).2.2.Sound :=
  List.foldlRecOn (motive := fun r => r.2.2.Sound) l f h fun r hr a _ => hf r a hr

theorem sound_elim {α : Type} {o : Option α} {e : Dev} {f : α → Dev} (h : e.Sound) (hf : ∀ a, (f a).Sound) : (o.elim e f).Sound := by
  cases o with
  | none => exact h
  | some a => exact hf a

theorem sound_ite {c : Prop} {_ : Decidable c} {e f : Dev} (he : e.Sound) (hf : f.Sound) : (if c then e else f).Sound := by
  split
  · exact he
  · exact hf

theorem sound_setSeq (h : d.Sound) (s : Seq) : Dev.Sound { d with seq := s } := h.congr

theorem sound_setFree (h : d.Sound) (n : Nat) : Dev.Sound { d with free := n } := h.congr

/-! ### Byte memories -/

theorem sound_setStack (h : d.Sound) {m : Memory} (hm : memWf m = true) : Dev.Sound { d with mem := { d.mem with stack := m } } :=
  { h with stack := hm }

theorem sound_setStby (h : d.Sound) {m : Memory} (hm : memWf m = true) : Dev.Sound { d with mem := { d.mem with stby := m } } :=
  { h with stby := hm }

theorem sound_setSpad (h : d.Sound) {m : Memory} (hm : memWf m = true) : Dev.Sound { d with spad := m } :=
  { h with spad := hm }

theorem sound_setLog (h : d.Sound) {l : Log} (hl : l.ring.length ≤ 512) : Dev.Sound { d with log := l } :=
  { h with ring := hl }

theorem sound_clearRing (h : d.Sound) : Dev.Sound { d with log := { d.log with ring := [] } } :=
  { h with ring := Nat.zero_le _ }

theorem sound_setTokens (h : d.Sound) {n : Nat} (hn : n ≤ 64) : Dev.Sound { d with jour := { d.jour with tokens := n } } :=
  { h with tokens := hn }

/-! ### Commands and completions -/

/-- Commands and completions that leave keep the bound of a port, and the ids of those that stay. -/
theorem sound_sublist (h : d.Sound) {cs : List Cmd} {ks : List Comp} (hc : cs.Sublist d.cmds) (hk : ks.Sublist d.comps) :
    Dev.Sound { d with cmds := cs, comps := ks } :=
  { h with
    ids := (hc.map _).nodup h.ids
    fresh := fun c hm => h.fresh c (hc.subset hm)
    flight := fun p => (Nat.add_le_add (hc.filter _).length_le (hk.filter _).length_le).trans (h.flight p) }

/-- A change of the commands in flight that keeps their ids and ports. -/
theorem sound_mapCmds (h : d.Sound) (g : Cmd → Cmd) (hg : ∀ c, (g c).id = c.id ∧ (g c).port = c.port) :
    Dev.Sound { d with cmds := d.cmds.map g } := by
  have hids : (d.cmds.map g).map Cmd.id = d.cmds.map Cmd.id := by
    rw [List.map_map]
    exact List.map_congr_left fun c _ => (hg c).1
  have hlen (p : Nat) : ((d.cmds.map g).filter fun c => c.port == p).length = (d.cmds.filter fun c => c.port == p).length := by
    simp [List.filter_map, Function.comp_def, hg]
  exact { h with
    ids := hids ▸ h.ids
    fresh := fun c hm => by
      obtain ⟨b, hb, rfl⟩ := List.mem_map.mp hm
      exact (hg b).1 ▸ h.fresh b hb
    flight := fun p => by
      rw [inFlight, hlen]
      exact h.flight p }

/-- One command waits for something else. -/
theorem sound_waitCmd (h : d.Sound) (id : Nat) (w : Cmd → List Nat) :
    Dev.Sound { d with cmds := d.cmds.map fun c => if c.id = id then { c with waits := w c } else c } :=
  sound_mapCmds h _ fun c => by split <;> exact ⟨rfl, rfl⟩

/-- A completion comes where its port has room. -/
theorem sound_addComp (h : d.Sound) {k : Comp} (hroom : inFlight d k.port < 256) : Dev.Sound { d with comps := d.comps ++ [k] } :=
  { h with
    flight := fun p => by
      have hp := h.flight p
      by_cases hkp : k.port = p
      · subst hkp
        simp only [inFlight, List.filter_append, List.length_append] at hroom ⊢
        simp
        omega
      · simpa [inFlight, List.filter_append, hkp] using hp }

/-- A command whose id is the next one comes where its port has room. -/
theorem sound_addCmd (h : d.Sound) {c : Cmd} (hid : c.id = d.nextCmd) (hroom : inFlight d c.port < 256) :
    Dev.Sound { d with cmds := d.cmds ++ [c], nextCmd := d.nextCmd + 1 } :=
  { h with
    ids := by
      rw [List.map_append, List.map_singleton, hid]
      refine h.ids.append (List.nodup_singleton _) ?_
      rw [List.disjoint_singleton]
      intro hmem
      obtain ⟨b, hb, hbid⟩ := List.mem_map.mp hmem
      exact absurd (h.fresh b hb) (by omega)
    fresh := fun b hb => by
      rcases List.mem_append.mp hb with hb | hb
      · exact (h.fresh b hb).trans (Nat.lt_succ_self _)
      · rw [List.mem_singleton.mp hb, hid]
        exact Nat.lt_succ_self _
    flight := fun p => by
      have hp := h.flight p
      by_cases hkp : c.port = p
      · subst hkp
        simp only [inFlight, List.filter_append, List.length_append] at hroom ⊢
        simp
        omega
      · simpa [inFlight, List.filter_append, hkp] using hp }

/-! ### Shared operations -/

theorem sound_setMac (h : d.Sound) (m : Nat) (x : Macro) : (Dev.setMac d m x).Sound := sound_other h ..

theorem sound_modMac (h : d.Sound) (m : Nat) (f : Macro → Macro) : (Dev.modMac d m f).Sound := sound_setMac h ..

theorem sound_setWedge (h : d.Sound) (w : Nat) (x : Wedge) : (Dev.setWedge d w x).Sound := sound_other h ..

theorem sound_modWedge (h : d.Sound) (w : Nat) (f : Wedge → Wedge) : (Dev.modWedge d w f).Sound := sound_setWedge h ..

theorem sound_setPort (h : d.Sound) (p : Nat) {x : HostPort} (hx : x.Wf) : (d.setPort p x).Sound := by
  have hport (q : Nat) : ((d.setPort p x).port q).Wf := by
    by_cases hq : q = p
    · subst hq
      rwa [Dev.port_setPort_same]
    · rw [Dev.port_setPort_other d x hq]
      exact h.port q
  exact { h with
    msix := fun q => (hport q).1
    mailIn := fun q => (hport q).2.1
    mailOut := fun q => (hport q).2.2 }

theorem sound_modPort (h : d.Sound) (p : Nat) {f : HostPort → HostPort} (hf : ∀ x : HostPort, x.Wf → (f x).Wf := by exact fun _ hx => hx) :
    (d.modPort p f).Sound :=
  sound_setPort h p (hf _ (h.port p))

theorem sound_setQueue (h : d.Sound) (p q : Nat) (x : Queue) : (d.setQueue p q x).Sound := sound_modPort h p

theorem sound_setEngine (h : d.Sound) (e : Nat) (x : Engine) : (Dev.setEngine d e x).Sound := sound_other h ..

theorem sound_modEngine (h : d.Sound) (e : Nat) (f : Engine → Engine) : (Dev.modEngine d e f).Sound := sound_setEngine h ..

theorem sound_setLane (h : d.Sound) (e n : Nat) (x : Lane) : (Dev.setLane d e n x).Sound := sound_modEngine h ..

theorem sound_modLane (h : d.Sound) (e n : Nat) (f : Lane → Lane) : (Dev.modLane d e n f).Sound := sound_setLane h ..

theorem sound_setQuant (h : d.Sound) (q : Nat) (x : Quant) : (Dev.setQuant d q x).Sound := sound_other h ..

theorem sound_modQuant (h : d.Sound) (q : Nat) (f : Quant → Quant) : (Dev.modQuant d q f).Sound := sound_setQuant h ..

theorem sound_setLink (h : d.Sound) (l : Nat) (x : Link) : (Dev.setLink d l x).Sound := sound_other h ..

theorem sound_modLink (h : d.Sound) (l : Nat) (f : Link → Link) : (Dev.modLink d l f).Sound := sound_setLink h ..

theorem sound_setDom (h : d.Sound) (k : Nat) (x : Dom) : (Dev.setDom d k x).Sound := sound_other h ..

theorem sound_modDom (h : d.Sound) (k : Nat) (f : Dom → Dom) : (Dev.modDom d k f).Sound := sound_setDom h ..

theorem sound_setRegion (h : d.Sound) (h1 : Nat) (x : Region) : (Dev.setRegion d h1 x).Sound := sound_other h ..

theorem sound_modRegion (h : d.Sound) (h1 : Nat) (f : Region → Region) : (Dev.modRegion d h1 f).Sound := sound_setRegion h ..

theorem sound_setCe (h : d.Sound) (n : Nat) (x : CheckEngine) : (Dev.setCe d n x).Sound := sound_other h ..

theorem sound_setSbank (h : d.Sound) (code : Nat) (x : SpadBank) : (Dev.setSbank d code x).Sound := sound_other h ..

theorem sound_count (h : d.Sound) (i ss n : Nat) : (d.count i ss n).Sound := sound_other h ..

theorem sound_countIf {c : Prop} {_ : Decidable c} (h : d.Sound) (i ss n : Nat) : (if c then d.count i ss n else d).Sound :=
  sound_ite (sound_count h ..) h

theorem sound_drawn (h : d.Sound) : (Dev.drawn d).Sound := sound_other h ..

theorem sound_emit (h : d.Sound) (o : Output) : (Dev.emit d o).Sound := sound_other h ..

theorem sound_post (h : d.Sound) (code : BitVec 16) (hub : Nat) (unit : BitVec 32) (vals : List (Nat × Nat)) :
    (Dev.post d code hub unit vals).Sound := sound_other h ..

theorem sound_mark (h : d.Sound) (timer limit unit : Nat) : (Dev.mark d timer limit unit).Sound := sound_other h ..

theorem sound_postOnce (h : d.Sound) (limit key : Nat) (code : BitVec 16) (hub : Nat) (unit : BitVec 32) (vals : List (Nat × Nat)) :
    (Dev.postOnce d limit key code hub unit vals).Sound := by
  unfold Dev.postOnce
  split
  · exact h
  · exact sound_post (sound_mark h ..) ..

theorem sound_msix (h : d.Sound) (p n : Nat) : (d.msix p n).Sound := by
  unfold Dev.msix
  dsimp only
  split
  · exact sound_emit h ..
  · exact sound_setPort h p (by exact h.port p)

theorem sound_flushMsix (h : d.Sound) (p : Nat) : (d.flushMsix p).Sound := by
  unfold Dev.flushMsix
  refine sound_foldl h _ _ fun e n he => ?_
  dsimp only
  split
  · exact sound_emit (sound_setPort he p (by exact he.port p)) ..
  · exact he

theorem sound_busy (h : d.Sound) (id : Nat) : (d.busy id).Sound :=
  sound_mapCmds h _ fun c => by split <;> exact ⟨rfl, rfl⟩

/-- The command that ends leaves its place to its completion. -/
theorem sound_finish (h : d.Sound) (id : Nat) (status detail : BitVec 8) (smiss : Bool) (result : BitVec 64) :
    (d.finish id status detail smiss result).Sound := by
  unfold Dev.finish
  split
  · exact h
  next c hc =>
    obtain ⟨hid, hmem⟩ := Dev.cmdOf_id hc
    have hleave := sound_sublist h (List.filter_sublist (p := fun e : Cmd => e.id != id)) (List.Sublist.refl d.comps)
    have hroom : inFlight { d with cmds := d.cmds.filter fun e => e.id != id } c.port < 256 := by
      refine lt_of_lt_of_le (Nat.add_lt_add_right ?_ _) (h.flight c.port)
      rw [List.filter_comm]
      exact List.length_filter_lt_length_iff_exists.mpr ⟨c, List.mem_filter.mpr ⟨hmem, by simp⟩, by simp [hid]⟩
    have hend := sound_addComp hleave (k := { port := c.port, q := c.q, cid := c.cid, status := status, detail := detail, smiss := smiss,
                                              result := result }) hroom
    dsimp only
    split
    · exact sound_count hend ..
    · exact hend

theorem sound_fails (h : d.Sound) (id : Nat) (status : BitVec 8) (detail : Nat) : (Dev.fails d id status detail).Sound := sound_finish h ..

theorem sound_succeeds (h : d.Sound) (id result : Nat) : (Dev.succeeds d id result).Sound := sound_finish h ..

theorem sound_toHost (h : d.Sound) (p addr : Nat) (b : Bytes) : (Dev.toHost d p addr b).Sound := sound_emit h ..

theorem sound_swrite (h : d.Sound) (code a : Nat) (b : Bytes) : (d.swrite code a b).Sound :=
  sound_setSpad h (memWf_mwrite b _ _ h.spad)

theorem sound_swriteNat (h : d.Sound) (code a : Nat) (n v : Nat) : (Dev.swriteNat d code a n v).Sound := sound_swrite h ..

theorem sound_tick (h : d.Sound) (v : Variant) : (Dev.tick v d).Sound := sound_other h ..

/-! ### Energy -/

theorem sound_debit (h : d.Sound) (k : Nat) (e : ℚ) (n : Nat) : (debit k e n d).Sound := by
  unfold debit
  split
  · exact h
  · exact sound_modDom h ..

theorem sound_draw (h : d.Sound) (k : Nat) (pj : ℚ) : (draw k pj d).Sound := by
  unfold draw
  split
  · exact h
  · exact sound_modDom h ..

/-! ### Tiles -/

theorem sound_modJob (h : d.Sound) (j : Nat) (f : Job → Job) : (Dev.modJob d j f).Sound := sound_other h ..

theorem sound_modTile (h : d.Sound) (t : Nat) (f : Tile → Tile) : (Dev.modTile d t f).Sound := sound_other h ..

theorem sound_setHop (h : d.Sound) (h1 : Hop) (x : HopState) : (Dev.setHop d h1 x).Sound := sound_other h ..

theorem sound_modHop (h : d.Sound) (h1 : Hop) (f : HopState → HopState) : (Dev.modHop d h1 f).Sound := sound_setHop h ..

theorem sound_removeTile (h : d.Sound) (t : Tile) : (removeTile t d).Sound := by
  unfold removeTile
  dsimp only
  split
  · exact sound_modEngine (sound_foldl (sound_other h ..) _ _ fun _ _ he => sound_modWedge he ..) ..
  · exact sound_foldl (sound_other h ..) _ _ fun _ _ he => sound_modWedge he ..

theorem sound_failJob (h : d.Sound) (j : Nat) (status : BitVec 8) (detail issuer index : Nat) :
    (failJob j status detail issuer index d).Sound := sound_modJob h ..

theorem sound_failTile (h : d.Sound) (t : Tile) (status : BitVec 8) : (failTile t status d).Sound := by
  unfold failTile
  split
  · exact sound_removeTile h ..
  · exact sound_failJob (sound_removeTile h ..) ..

/-! ### Slices, stacks and scratchpads -/

/-- What an eviction writes back stays canonical. -/
theorem memWf_writeBack {m : Mem} (h : memWf m.stack = true) (stack : Nat) (l : Line) : memWf (writeBack m stack l).stack = true := by
  unfold writeBack writeStack Mem.setBad
  dsimp only
  exact memWf_mwrite _ _ _ h

theorem stby_writeBack (m : Mem) (stack : Nat) (l : Line) : (writeBack m stack l).stby = m.stby := rfl

/-- The choice of a victim ages the lines of its set alone. -/
theorem chooseVictim_stack (m : Mem) (slice line : Nat) :
    (chooseVictim m slice line).2.stack = m.stack ∧ (chooseVictim m slice line).2.stby = m.stby := by
  unfold chooseVictim
  dsimp only
  split
  · exact ⟨rfl, rfl⟩
  · exact List.foldlRecOn (motive := fun e : Mem => e.stack = m.stack ∧ e.stby = m.stby) _ _ ⟨rfl, rfl⟩ fun e he a _ => he

/-- Lines, and a stack that stays canonical. -/
theorem sound_setMem (h : d.Sound) {m : Mem} (hstack : memWf m.stack = true) (hstby : m.stby = d.mem.stby) : Dev.Sound { d with mem := m } :=
  { h with stack := hstack, stby := hstby ▸ h.stby }

theorem sound_installLine (h : d.Sound) (slice line policy : Nat) (data : Bytes) (dirty poison : Bool) :
    (installLine slice line policy data dirty poison d).Sound := by
  unfold installLine
  extract_lets hub pins full d0
  have h0 : d0.Sound := sound_ite (sound_count h ..) h
  obtain ⟨hstack, hstby⟩ := chooseVictim_stack d0.mem slice line
  split
  · exact h0
  next w m1 hv =>
    rw [hv] at hstack hstby
    have hm1 : memWf m1.stack = true := by rw [hstack]; exact h0.stack
    cases tfind m1.lines (wayKey slice line w) with
    | none => exact sound_setMem h0 (by exact hm1) (by exact hstby)
    | some v =>
      by_cases hd : v.dirty = true
      · simp only [hd, if_true]
        exact sound_count (sound_setMem h0 (by exact memWf_writeBack hm1 ..) (by exact hstby)) ..
      · simp only [hd]
        exact sound_setMem h0 (by exact hm1) (by exact hstby)

theorem sound_accessHit (h : d.Sound) (fresh : Bool) (slice line : Nat) (off len : Nat) (op : MemOp) :
    (accessHit fresh slice line off len op d).2.2.Sound := by
  unfold accessHit
  split
  · exact h
  split
  · exact h
  · exact sound_other h ..

theorem sound_fillFrom (h : d.Sound) (slice line policy : Nat) : (fillFrom slice line policy d).Sound :=
  sound_installLine (sound_count h ..) ..

theorem sound_respond (h : d.Sound) (slice line : Nat) (op : MemOp) (tile : Option Nat) (status : BitVec 8) (b : Bytes) (poison : Bool) :
    (respond slice line op tile status b poison d).Sound := by
  unfold respond
  dsimp only
  split
  · split
    · exact sound_failTile (sound_emit h ..) ..
    · exact sound_emit h ..
  · exact sound_emit h ..

theorem sound_serveWaiting (h : d.Sound) (w : Waiting × Nat) : (serveWaiting d w).Sound := by
  unfold serveWaiting
  split
  · exact h
  · exact sound_respond (sound_accessHit h ..) ..

theorem sound_serveFirst (h : d.Sound) (slice line policy : Nat) : (serveFirst slice line policy d).Sound := by
  unfold serveFirst
  split
  · exact h
  · exact sound_foldl (sound_other (sound_ite h (sound_fillFrom h ..)) ..) _ _ fun _ _ he => sound_serveWaiting he ..

theorem sound_accessAlone (h : d.Sound) (slice line : Nat) (off len : Nat) (op : MemOp) (policy : Nat) :
    (accessAlone slice line off len op policy d).2.2.Sound := by
  unfold accessAlone
  dsimp only
  split
  · exact sound_accessHit (sound_count h ..) ..
  split
  · exact sound_installLine (sound_count h ..) ..
  split
  · exact sound_count h ..
  · exact sound_accessHit (sound_fillFrom h ..) ..

theorem sound_accessNow (h : d.Sound) (v : Variant) (slice line : Nat) (off len : Nat) (op : MemOp) (policy : Nat) :
    (accessNow v slice line off len op policy d).2.2.Sound := by
  unfold accessNow
  split
  · exact sound_other (sound_count h ..) ..
  · exact sound_accessAlone (sound_serveFirst h ..) ..

theorem sound_devRead (h : d.Sound) (v : Variant) (al : Alloc) (o n : Nat) : (devRead v al o n d).2.2.Sound := by
  unfold devRead
  refine sound_foldl_snd_snd h _ _ fun _ _ he => ?_
  split
  · exact he
  · exact sound_accessNow he ..

theorem sound_devWrite (h : d.Sound) (v : Variant) (al : Alloc) (o : Nat) (b : Bytes) : (devWrite v al o b d).2.Sound := by
  unfold devWrite
  refine sound_foldl_snd h _ _ fun _ _ he => ?_
  split
  · exact he
  · exact sound_accessNow he ..

theorem sound_devPut (h : d.Sound) (v : Variant) (al : Alloc) (o : Nat) (b : Bytes) : (devPut v al o b d).Sound :=
  sound_other (sound_devWrite h ..) ..

theorem sound_devAccess (h : d.Sound) (v : Variant) (al : Alloc) (o len : Nat) (op : MemOp) : (devAccess v al o len op d).2.2.Sound := by
  unfold devAccess
  split
  · exact h
  · exact sound_accessNow h ..

theorem sound_unpinAlloc (h : d.Sound) (al : Alloc) : (unpinAlloc al d).Sound := sound_other h ..

theorem sound_writeBackSlice (h : d.Sound) (slice : Nat) : (writeBackSlice slice d).Sound := by
  unfold writeBackSlice
  refine sound_foldl h _ _ fun e a he => ?_
  refine sound_count ?_ ..
  exact sound_setMem he (memWf_writeBack he.stack (slice / 2) a.2) rfl

theorem sound_emptySlice (h : d.Sound) (slice : Nat) : (emptySlice slice d).Sound := sound_other h ..

theorem sound_resetSlice (h : d.Sound) (slice : Nat) : (resetSlice slice d).Sound := sound_emptySlice (sound_writeBackSlice h ..) ..

/-! ### Operands -/

theorem sound_ctrSet (h : d.Sound) (home addr : Nat) (hi lo v : Nat) : (ctrSet d home addr hi lo v).Sound :=
  sound_swriteNat h ..

theorem sound_settleClear (h : d.Sound) (code : Nat) : (settleClear code d).Sound := by
  unfold settleClear
  dsimp only
  split
  · exact sound_setSbank (sound_setSpad h (memWf_mclear _ _ _ h.spad)) ..
  · exact h

theorem sound_ctrAtomic (h : d.Sound) (c : CtrEntry) (hi lo v : Nat) : (ctrAtomic d c hi lo v).Sound :=
  sound_count (sound_ctrSet h ..) ..

/-! ### Address generation -/

theorem sound_reserveRoom (h : d.Sound) (unit n : Nat) : ∀ e ∈ reserveRoom unit n d, e.Sound := by
  unfold reserveRoom
  split
  · rintro e he
    cases he
    exact sound_other h ..
  · exact fun e he => nomatch he

theorem sound_readRemote (h : d.Sound) (al : Alloc) (rd : Reader) (o n : Nat) : (readRemote al rd o n d).2.2.Sound := by
  unfold readRemote
  dsimp only
  split
  · split
    · exact sound_other h ..
    next e he => exact sound_other (sound_emit (sound_reserveRoom h _ _ e he) ..) ..
  · split
    · exact sound_other h ..
    · exact h
    · exact sound_other h ..

theorem sound_readBytes (h : d.Sound) (v : Variant) (al : Alloc) (rd : Reader) (o n : Nat) : (readBytes v al rd o n d).2.2.Sound := by
  unfold readBytes
  dsimp only
  split
  · exact sound_devRead h ..
  · exact h
  · exact sound_foldl_snd_snd h _ _ fun _ _ he => sound_readRemote he ..

theorem sound_awaited (h : d.Sound) (e : Dev) : (awaited d e).Sound := sound_other h ..

theorem sound_usedRemote (h : d.Sound) (rd : Reader) : (usedRemote rd d).Sound := by
  unfold usedRemote
  split
  · exact h
  · exact sound_other h ..

theorem sound_reading {rd : Reader} (h : d.Sound) (f : Dev → Dev) (hf : ∀ e : Dev, e.Sound → (f e).Sound) : (reading rd d f).Sound := by
  unfold reading
  dsimp only
  split
  · exact sound_awaited h _
  · exact sound_usedRemote (hf _ (sound_other h ..)) ..

theorem sound_readBits (h : d.Sound) (v : Variant) (al : Alloc) (rd : Reader) (bit n : Nat) : (readBits v al rd bit n d).2.2.Sound := by
  unfold readBits
  split <;> exact sound_readBytes h ..

theorem sound_indexElem (h : d.Sound) (v : Variant) (ds : List Desc) (h2 : Nat) (rd : Reader) (i : Nat) : (indexElem v ds h2 rd i d).2.2.Sound := by
  unfold indexElem
  split
  · exact h
  split
  · exact h
  · exact sound_readBits h ..

theorem sound_placeOf (h : d.Sound) (v : Variant) (ds : List Desc) (x : Desc) (rd : Reader) (c : List ℤ) : (placeOf v ds x rd c d).2.2.Sound := by
  unfold placeOf
  dsimp only
  split
  · exact h
  split
  · split <;> exact sound_indexElem h ..
  · exact h

theorem sound_segStart (h : d.Sound) (v : Variant) (al : Alloc) (x : Desc) (rd : Reader) (row : Nat) : (segStart v al x rd row d).2.2.Sound := by
  unfold segStart
  split
  · exact sound_readBytes h ..
  · exact h

theorem sound_readBitmap (h : d.Sound) (v : Variant) (al : Alloc) (x : Desc) (rd : Reader) (row k : Nat) :
    (readBitmap v al x rd row k d).2.Sound := by
  unfold readBitmap
  dsimp only
  split
  · exact sound_readBytes (sound_segStart h ..) ..
  split
  · exact sound_readBytes (sound_readBytes (sound_segStart h ..) ..) ..
  split
  · exact sound_drawn (sound_readBytes (sound_readBytes (sound_segStart h ..) ..) ..) ..
  split
  · exact sound_readBytes (sound_readBytes (sound_segStart h ..) ..) ..
  · exact sound_readBytes (sound_readBytes (sound_readBytes (sound_segStart h ..) ..) ..) ..

theorem sound_readForerunner (h : d.Sound) (v : Variant) (al : Alloc) (x : Desc) (rd : Reader) (hub row k : Nat) :
    (readForerunner v al x rd hub row k d).2.Sound := by
  unfold readForerunner
  dsimp only
  split
  · split
    · exact sound_countIf (sound_readBytes (sound_segStart h ..) ..) ..
    dsimp only
    split
    · exact sound_count (sound_count (sound_countIf (sound_readBytes (sound_readBytes (sound_segStart h ..) ..) ..) ..) ..) ..
    · exact sound_readBytes (sound_readBytes (sound_segStart h ..) ..) ..
  split
  · exact sound_countIf (sound_readBytes (sound_segStart h ..) ..) ..
  dsimp only
  split
  · exact sound_count (sound_count (sound_countIf (sound_readBytes (sound_readBytes (sound_segStart h ..) ..) ..) ..) ..) ..
  · exact sound_readBytes (sound_readBytes (sound_segStart h ..) ..) ..

theorem sound_elemAtPlace (h : d.Sound) (v : Variant) (al : Alloc) (x : Desc) (rd : Reader) (hub : Nat) (y : List Nat) :
    (elemAtPlace v al x rd hub y d).2.Sound := by
  unfold elemAtPlace
  split
  · exact sound_readBits h ..
  · exact sound_readBytes h ..
  · exact sound_readBitmap h ..
  · exact sound_readForerunner h ..

theorem sound_fetchPiece (h : d.Sound) (v : Variant) (al : Alloc) (x : Desc) (rd : Reader) (hub index piece : Nat) :
    (fetchPiece v al x rd hub index piece d).2.Sound := sound_foldl_snd h _ _ fun _ _ he => sound_elemAtPlace he ..

theorem sound_gathered (h : d.Sound) (v : Variant) (al : Alloc) (x : Desc) (rd : Reader) (hub gen : Nat) (pos ss : Nat) (y : List
    Nat) :
    (gathered v al x rd hub gen pos ss y d).2.Sound := by
  unfold gathered
  dsimp only
  split
  · dsimp only
    split
    · exact sound_other h ..
    · exact sound_count (sound_other h ..) ..
  · exact sound_other (sound_fetchPiece h ..) ..

theorem sound_gatherDrop (h : d.Sound) (gen index : Nat) (pos ss : Nat) : (gatherDrop gen index pos ss d).Sound := by
  unfold gatherDrop
  split
  · exact h
  · exact sound_count (sound_other h ..) ..

theorem sound_fetchOperand (h : d.Sound) (v : Variant) (t : Tile) (o : Nat) (c01 : List ℤ) : (fetchOperand v t o c01 d).2.Sound := by
  unfold fetchOperand
  dsimp only
  split
  · exact h
  split
  · exact sound_count h ..
  split
  · exact h
  split
  · exact sound_count (sound_placeOf h ..) ..
  · exact sound_gatherDrop (sound_placeOf h ..) ..
  dsimp only
  split
  · exact sound_gathered (sound_placeOf h ..) ..
  · exact sound_elemAtPlace (sound_placeOf h ..) ..

theorem sound_blockElems (h : d.Sound) (v : Variant) (t : Tile) (o k c1 : Nat) : (blockElems v t o k c1 d).2.Sound :=
  sound_foldl_snd h _ _ fun _ _ he => sound_fetchOperand he ..

theorem sound_fetchBlock (h : d.Sound) (v : Variant) (t : Tile) (o k c1 : Nat) : (fetchBlock v t o k c1 d).2.Sound := by
  unfold fetchBlock
  dsimp only
  exact sound_blockElems h v t o k c1

theorem sound_fetchScale (h : d.Sound) (v : Variant) (t : Tile) (o k c1 : Nat) : (fetchScale v t o k c1 d).2.Sound :=
  sound_fetchOperand h ..

/-! ### The dictionary -/

theorem sound_odDrop (h : d.Sound) (lost : Nat → Nat → Bool) : (odDrop lost d).Sound := sound_other h ..

theorem sound_odLoseUnit (h : d.Sound) (t : Target) : (odLoseUnit t d).Sound := sound_odDrop h ..

/-! ### Jobs -/

theorem sound_releaseAlloc (h : d.Sound) (al : Alloc) : (releaseAlloc al d).Sound := sound_other (sound_ite (sound_unpinAlloc h ..) h) ..

theorem sound_releaseProg (h : d.Sound) (p : Program) : (releaseProg p d).Sound := sound_other h ..

theorem sound_releaseDesc (h : d.Sound) (x : Desc) : (releaseDesc x d).Sound := sound_other h ..

theorem sound_settlePins (h : d.Sound) : (settlePins d).Sound :=
  sound_foldl (sound_foldl h _ _ fun _ _ he => sound_releaseProg he ..) _ _ fun _ _ he => sound_releaseAlloc he ..

theorem sound_failRead (h : d.Sound) (t : Tile) : (failRead t d).Sound := sound_failTile (sound_other h ..) ..

theorem sound_raiseEpoch (h : d.Sound) (j : Nat) : (raiseEpoch j d).Sound := sound_modJob h ..

theorem sound_loseTiles (h : d.Sound) (hit : Tile → Bool) (iss : Nat → Bool) : (loseTiles hit iss d).Sound :=
  sound_foldl (sound_other (sound_foldl h _ _ fun _ _ he => sound_removeTile he ..) ..) _ _ fun _ _ he => sound_raiseEpoch he ..

theorem sound_loseIssuers (h : d.Sound) (p : Nat → Bool) : (loseIssuers p d).Sound := sound_other h ..

theorem sound_raiseOut (h : d.Sound) (p : Nat → Bool) (b : Dev) : (raiseOut p b d).Sound := sound_other h ..

theorem sound_dropJobTiles (h : d.Sound) (j : Nat) : (dropJobTiles j d).Sound := sound_foldl h _ _ fun _ _ he => sound_removeTile he ..

theorem sound_abortJob (h : d.Sound) (j : Nat) : (abortJob j d).Sound := sound_modJob (sound_failJob (sound_dropJobTiles h ..) ..) ..

/-! ### The journal -/

theorem sound_queueP (h : d.Sound) (vals : List (Nat × Bytes)) (w : JWaiter) (paid : Bool) : (Dev.queueP d vals w paid).Sound := sound_other h ..

theorem sound_fwP (h : d.Sound) (idx sub : Nat) (b : Bytes) : (Dev.fwP d idx sub b).Sound := by
  unfold Dev.fwP
  split
  · exact h
  · exact sound_queueP h ..

theorem sound_fwCount (h : d.Sound) (idx sub len : Nat) (delta : ℤ) : (Dev.fwCount d idx sub len delta).Sound := sound_fwP h ..

theorem sound_holdP (h : d.Sound) (key : Nat) (b : Bytes) : (Dev.holdP d key b).Sound := sound_other h ..

/-! ### Bank images -/

theorem sound_repairBank (h : d.Sound) (m : Nat) (b : Bool) (errs : List (Nat × Nat)) : (repairBank m b errs d).Sound :=
  sound_foldl h _ _ fun _ _ he => sound_fwCount (sound_post (sound_modMac he ..) ..) ..

theorem sound_dropRepairs (h : d.Sound) (m : Nat) (b : Bool) : (dropRepairs m b d).Sound := by
  unfold dropRepairs
  dsimp only
  split
  · exact h
  · exact sound_fwCount h ..

theorem sound_dropAllRepairs (h : d.Sound) (p : Nat → Bool) : (dropAllRepairs p d).Sound :=
  sound_foldl h _ _ fun _ _ he => sound_dropRepairs (sound_dropRepairs he ..) ..

theorem sound_refreshMarks (h : d.Sound) (m : Nat) (b : Bool) : (refreshMarks m b d).Sound := by
  unfold refreshMarks
  exact sound_modWedge h ..

theorem sound_freeCopies (h : d.Sound) (m : Nat) (b : Bool) : (freeCopies m b d).Sound := sound_modWedge h ..

theorem sound_placeCopies (h : d.Sound) (mat : Matrix) (onB : Nat → Bool) (w : Nat) : (placeCopies mat onB w d).Sound := by
  unfold placeCopies
  dsimp only
  split
  · exact h
  split
  · exact sound_post (sound_modWedge h ..) ..
  · exact sound_foldl h _ _ fun _ _ he => sound_modWedge he ..

theorem sound_destroyMatrix (h : d.Sound) (id : Nat) : (destroyMatrix id d).Sound := by
  unfold destroyMatrix
  split
  · exact h
  · exact sound_other h ..

theorem sound_deviceImage (h : d.Sound) (v : Variant) (m : Matrix) (o n : Nat) : (deviceImage v m o n d).2.Sound := by
  unfold deviceImage
  split
  · exact h
  split
  · exact h
  · exact sound_devRead h ..

theorem sound_imageRead (h : d.Sound) (v : Variant) (m : Matrix) (o n : Nat) (host : HostRead) : (imageRead v m o n host d).2.Sound := by
  unfold imageRead
  split
  · exact sound_deviceImage h ..
  · split <;> exact h

theorem sound_countClamps (h : d.Sound) (mat : Matrix) (part m : Nat) : (countClamps mat part m d).Sound := by
  unfold countClamps
  dsimp only
  split
  · exact h
  · exact sound_count h ..

theorem sound_rewriteBank (h : d.Sound) (mat : Matrix) (part m : Nat) (b : Bool) : (rewriteBank mat part m b d).Sound :=
  sound_refreshMarks (sound_modMac (sound_countClamps (sound_dropRepairs h ..) ..) ..) ..

/-! ### Host queues (chapter 13) -/

theorem sound_sqDoorbellOp (h : d.Sound) (v : Variant) (p q : Nat) (tail : BitVec 12) : (sqDoorbellOp v p q tail d).Sound := by
  unfold sqDoorbellOp
  split
  · dsimp only
    split
    · exact sound_count h ..
    · exact sound_setQueue h ..
  · exact h

theorem sound_cqDoorbellOp (h : d.Sound) (v : Variant) (p q : Nat) (head : BitVec 12) : (cqDoorbellOp v p q head d).Sound := by
  unfold cqDoorbellOp
  split
  · dsimp only
    split
    · exact sound_count h ..
    · exact sound_setQueue h ..
  · exact h

theorem sound_queueEnableOp (h : d.Sound) (v : Variant) (p q : Nat) : (queueEnableOp v p q d).Sound := by
  unfold queueEnableOp
  split
  · dsimp only
    split
    · exact h
    · exact sound_setQueue h ..
  · exact h

theorem sound_queueDisableOp (h : d.Sound) (v : Variant) (p q : Nat) : (queueDisableOp v p q d).Sound := by
  unfold queueDisableOp
  split
  · dsimp only
    split
    · exact sound_setQueue h ..
    · exact h
  · exact h

theorem sound_queueDisableDoneOp (h : d.Sound) (p q : Nat) : (queueDisableDoneOp p q d).Sound := by
  unfold queueDisableDoneOp
  dsimp only
  split
  · exact sound_setQueue h ..
  · exact h

theorem sound_bar0Byte (h : d.Sound) (p off : Nat) (b : Byte) : (bar0Byte p d off b).Sound := by
  unfold bar0Byte
  dsimp only
  split
  · exact sound_setQueue h ..
  split
  · exact sound_modPort h _ fun x ⟨hmsix, hin, hout⟩ => ⟨hmsix, memWf_mput _ _ _ hin, hout⟩
  split
  · exact sound_modPort h _ fun _ ⟨hmsix, hin, hout⟩ => ⟨hmsix, hin, hout⟩
  split
  · exact sound_modPort h _
  split
  · exact sound_modPort h _ fun x ⟨hmsix, hin, hout⟩ => ⟨memWf_mput _ _ _ hmsix, hin, hout⟩
  · exact h

theorem sound_bar0WriteOp (h : d.Sound) (v : Variant) (p off size : Nat) (value : BitVec 64) :
    (bar0WriteOp v p off size value d).Sound := by
  unfold bar0WriteOp
  split
  · dsimp only
    split
    · exact sound_flushMsix (sound_foldl h _ _ fun _ _ he => sound_bar0Byte he ..) ..
    · exact sound_foldl h _ _ fun _ _ he => sound_bar0Byte he ..
  · exact h

theorem sound_answer (h : d.Sound) {p : Nat} (hroom : inFlight d p < 256) (q : Nat) (cid : BitVec 16) (status : BitVec 8) (detail : Nat) :
    (d.answer p q cid status detail).Sound :=
  sound_addComp h hroom

theorem sound_takeEntry (h : d.Sound) (v : Variant) {p : Nat} (hroom : inFlight d p < 256) (q : Nat) (b : Bytes) :
    (takeEntry v p q b d).Sound := by
  unfold takeEntry
  dsimp only
  split
  · split
    · exact sound_addCmd (sound_count (sound_setQueue h ..) ..) rfl hroom
    · exact sound_answer (sound_count (sound_setQueue h ..) ..) hroom ..
  · split
    · exact sound_answer (sound_count h ..) hroom ..
    · exact sound_answer (sound_count h ..) hroom ..

theorem sound_commandFetchOp (h : d.Sound) (v : Variant) (p : Nat) (entry : HostRead) : (commandFetchOp v p entry d).Sound := by
  unfold commandFetchOp
  split
  next hmay =>
    have hroom : inFlight d p < 256 := by simp only [Bool.and_eq_true, decide_eq_true_eq] at hmay; exact hmay.2
    split
    · exact h
    next q _ =>
      have hmove := sound_modPort (f := fun hp => { hp with rr := (q + 1) % 16 })
        (sound_setQueue h p q { d.queue p q with sqhead := nextSlot (d.queue p q).sqhead (d.queue p q).sqsize }) p
      dsimp only
      split
      · exact sound_takeEntry hmove v hroom ..
      · exact sound_answer (sound_count hmove ..) hroom ..
  · exact h

/-- The completion that a slot takes leaves the others as they were. -/
theorem takeComp_sublist {p q : Nat} {ks rest : List Comp} {c : Comp} (h : takeComp p q ks = some (c, rest)) : rest.Sublist ks := by
  induction ks generalizing rest with
  | nil => exact nomatch h
  | cons k ks ih =>
    unfold takeComp at h
    split at h
    · cases h
      exact List.sublist_cons_self _ _
    · split at h
      next x r hr =>
        cases h
        exact (ih hr).cons_cons _
      · exact nomatch h

theorem sound_completionWriteOp (h : d.Sound) (v : Variant) (p q : Nat) : (completionWriteOp v p q d).Sound := by
  unfold completionWriteOp
  dsimp only
  split
  · split
    · exact h
    next c rest hc =>
      have htaken : Dev.Sound { d with comps := rest } := sound_sublist h (List.Sublist.refl d.cmds) (takeComp_sublist hc)
      exact sound_ite (sound_msix (sound_setQueue (sound_toHost htaken ..) ..) ..) (sound_setQueue (sound_toHost htaken ..) ..)
  · exact h

theorem sound_d3hotOp (h : d.Sound) (v : Variant) (p : Nat) : (d3hotOp v p d).Sound := by
  unfold d3hotOp
  split
  · exact sound_modPort h _
  · exact h

theorem sound_d0Op (h : d.Sound) (v : Variant) (p : Nat) : (d0Op v p d).Sound := by
  unfold d0Op
  split
  · exact sound_flushMsix (sound_modPort h _) _
  · exact h

theorem sound_msixEnableOp (h : d.Sound) (v : Variant) (p : Nat) (enable : Bool) (mask : BitVec 17) :
    (msixEnableOp v p enable mask d).Sound := by
  unfold msixEnableOp
  split
  · exact sound_flushMsix (sound_modPort h _) _
  · exact h

/-! ### Allocations and descriptors -/

theorem sound_identifyOp (h : d.Sound) (v : Variant) (cmd : Nat) : (identifyOp v cmd d).Sound := by
  unfold identifyOp
  split
  · exact h
  · split
    · exact sound_succeeds (sound_toHost (sound_modPort h _) ..) ..
    · exact h

theorem sound_takeArc (h : d.Sound) (hub : Nat) : ∀ r ∈ takeArc hub d, r.2.Sound := by
  intro r hr
  simp only [takeArc, Option.mem_def, Option.bind_eq_some_iff, Option.map_eq_some_iff] at hr
  obtain ⟨f0, -, f1, -, rfl⟩ := hr
  exact sound_other h ..

theorem sound_takeArcs (h : d.Sound) (hubs : List Nat) : ∀ r ∈ takeArcs d hubs, r.2.Sound := by
  induction hubs generalizing d with
  | nil =>
    rintro r ⟨⟩
    exact h
  | cons hub hubs ih =>
    intro r hr
    simp only [takeArcs, Option.mem_def, Option.bind_eq_some_iff, Option.map_eq_some_iff] at hr
    obtain ⟨a, ha, b, hb, rfl⟩ := hr
    exact ih (sound_takeArc h hub a ha) b hb

theorem sound_placeAlloc (h : d.Sound) (v : Variant) (spread : Bool) (h0 size : Nat) : ∀ r ∈ placeAlloc v spread h0 size d, r.2.2.Sound := by
  unfold placeAlloc
  intro r hr
  split at hr
  · dsimp only at hr
    split at hr
    · cases hr
      exact sound_drawn h
    · obtain ⟨a, ha, rfl⟩ := Option.map_eq_some_iff.mp hr
      exact sound_takeArc (sound_drawn h) h0 a ha
  · obtain ⟨a, ha, rfl⟩ := Option.map_eq_some_iff.mp hr
    exact sound_takeArcs h _ a ha

theorem sound_clearAlloc (h : d.Sound) (v : Variant) (a : Alloc) : (clearAlloc v a d).Sound := sound_devPut h ..

theorem sound_allocOp (h : d.Sound) (v : Variant) (cmd : Nat) : (allocOp v cmd d).Sound := by
  unfold allocOp
  split
  · exact h
  dsimp only
  split
  · exact sound_fails h ..
  split
  · split
    · exact sound_fails h ..
    split
    · exact sound_fails h ..
    next d1 hplace =>
      split
      · exact sound_fails h ..
      · have h1 := sound_other (sound_placeAlloc h _ _ _ _ _ hplace)
        refine sound_succeeds (sound_ite (sound_clearAlloc (h1 ..) ..) (h1 ..)) ..
  split
  · exact sound_succeeds (sound_other h ..) ..
  · exact sound_succeeds (sound_other h ..) ..

theorem sound_freeOp (h : d.Sound) (cmd : Nat) : (freeOp cmd d).Sound := by
  unfold freeOp
  dsimp only
  split
  · exact h
  split
  · split
    · exact sound_fails h ..
    split
    · exact sound_fails h ..
    split
    · exact sound_fails h ..
    · exact sound_succeeds (sound_settlePins (sound_releaseProg h ..)) ..
  split
  · exact sound_fails h ..
  split
  · exact sound_ite h (sound_succeeds (sound_releaseAlloc h ..) ..)
  split
  · exact sound_fails h ..
  split
  · exact sound_fails h ..
  split
  · exact sound_waitCmd (sound_busy (sound_other h ..) _) _ _
  · exact sound_succeeds (sound_releaseAlloc (sound_other h ..) ..) ..

theorem sound_descCreateOp (h : d.Sound) (v : Variant) (cmd : Nat) (image : HostRead) : (descCreateOp v cmd image d).Sound := by
  unfold descCreateOp
  split
  · exact h
  split
  · split
    · exact sound_fails h ..
    dsimp only
    split
    · exact sound_fails h ..
    split
    · exact sound_fails h ..
    · exact sound_succeeds (sound_other h ..) ..
  · exact h

theorem sound_descDestroyOp (h : d.Sound) (cmd : Nat) : (descDestroyOp cmd d).Sound := by
  unfold descDestroyOp
  split
  · exact h
  dsimp only
  split
  · exact sound_fails h ..
  split
  · exact sound_fails h ..
  split
  · exact sound_fails h ..
  · exact sound_succeeds (sound_settlePins (sound_releaseDesc h ..) ..) ..

/-! ### Weights -/

theorem sound_loadWeightsOp (h : d.Sound) (v : Variant) (cmd : Nat) (placement outliers : HostRead) :
    (loadWeightsOp v cmd placement outliers d).Sound := by
  unfold loadWeightsOp
  split
  · exact h
  split
  · split
    · exact sound_fails h ..
    dsimp only
    split
    · exact sound_fails h ..
    split
    · exact sound_fails h ..
    split
    · exact sound_fails h ..
    · exact (sound_waitCmd (sound_busy h cmd) cmd fun _ => _).congr
  · exact h

theorem sound_abandonLoad (h : d.Sound) (l : Load) : (abandonLoad l d).Sound :=
  sound_other (sound_foldl h _ _ fun _ _ he => sound_modMac (sound_dropRepairs he ..) ..) ..

theorem sound_enterLoading (h : d.Sound) (m : Nat) (b : Bool) : (enterLoading m b d).Sound := by
  unfold enterLoading
  exact sound_modMac (sound_dropRepairs (sound_freeCopies (sound_destroyMatrix h ..) ..) ..) ..

theorem sound_emptyTargets (h : d.Sound) (place : List Nat) : (emptyTargets place d).Sound :=
  sound_foldl h _ _ fun _ _ he => sound_ite he (sound_modMac (sound_enterLoading he ..) ..)

theorem sound_abortLoad (h : d.Sound) (l : Load) : (abortLoad l d).Sound := by
  unfold abortLoad
  split
  · exact sound_abandonLoad h ..
  · exact sound_emptyTargets (sound_abandonLoad h ..) ..

theorem sound_loadWeightsStartOp (h : d.Sound) (cmd : Nat) : (loadWeightsStartOp cmd d).Sound := by
  unfold loadWeightsStartOp
  split
  · split
    · exact h
    split
    · exact sound_fails (sound_abandonLoad h ..) ..
    split
    · exact sound_fails (sound_abandonLoad h ..) ..
    · exact sound_foldl (sound_other h ..) _ _ fun _ _ he => sound_enterLoading he ..
  · exact h

theorem sound_loadImage (h : d.Sound) (v : Variant) (m : Matrix) (image : HostRead) : (loadImage v m image d).2.Sound := by
  unfold loadImage
  split
  · split
    · exact h
    split
    · exact h
    dsimp only
    split <;> exact sound_devRead h ..
  · split <;> exact h

theorem sound_settleCal (h : d.Sound) (m : Nat) : (settleCal m d).Sound :=
  sound_foldl h _ _ fun _ _ he => sound_ite (sound_succeeds he ..) (sound_waitCmd he ..)

theorem sound_spareOut (h : d.Sound) (m : Nat) : (spareOut m d).Sound := sound_settleCal (sound_post (sound_modMac h ..) ..) ..

theorem sound_dropSpares (h : d.Sound) (bad : List Nat) : (dropSpares bad d).Sound := sound_foldl h _ _ fun _ _ he => sound_modWedge he ..

theorem sound_retireBad (h : d.Sound) (bad : List Nat) : (retireBad bad d).Sound :=
  sound_foldl h _ _ fun _ _ he => sound_ite (sound_modMac he ..) (sound_spareOut he ..)

theorem sound_writeTarget (h : d.Sound) (mat : Matrix) (img : Nat) (verify : List VerifyErr) (e : Nat) (t : Nat × Bool) :
    (writeTarget mat img verify e t d).Sound := sound_refreshMarks (sound_repairBank (sound_countClamps (sound_modMac h ..) ..) ..) ..

theorem sound_loadWeightsCompleteOp (h : d.Sound) (v : Variant) (cmd : Nat) (image : HostRead) (verify : List VerifyErr) :
    (loadWeightsCompleteOp v cmd image verify d).Sound := by
  unfold loadWeightsCompleteOp
  split
  · exact h
  dsimp only
  split
  · exact sound_fails (sound_abandonLoad (sound_loadImage h ..) ..) ..
  split
  · exact sound_fails (sound_abandonLoad (sound_loadImage h ..) ..) ..
  split
  · exact sound_fails (sound_abandonLoad (sound_retireBad (sound_loadImage h ..) ..) ..) ..
  split
  · exact sound_retireBad (sound_loadImage h ..) ..
  split
  · exact sound_loadImage h ..
  split
  · exact sound_fails (sound_abandonLoad (sound_loadImage h ..) ..) ..
  · exact sound_succeeds (sound_foldl (sound_foldl (sound_other (sound_loadImage h ..) ..) _ _ fun _ _ he => sound_writeTarget he ..) _ _ fun _ _ he
      => sound_placeCopies he ..) ..

theorem sound_swapBankOp (h : d.Sound) (cmd : Nat) : (swapBankOp cmd d).Sound := by
  unfold swapBankOp
  split
  · exact h
  dsimp only
  split
  · exact sound_fails h ..
  · exact sound_other (sound_busy h ..) ..

theorem sound_swapBankEffectOp (h : d.Sound) (group : Nat) : (swapBankEffectOp group d).Sound := by
  unfold swapBankEffectOp
  split
  · exact h
  dsimp only
  split
  · exact sound_succeeds (sound_count (sound_other (sound_foldl h _ _ fun _ _ he => sound_modMac he ..) ..) ..) ..
  · exact h

/-! ### Programs and jobs -/

theorem sound_writeSegs (h : d.Sound) (b : Bytes) : (writeSegs b d).Sound :=
  sound_foldl h _ _ fun _ _ he => sound_foldl (sound_settleClear he ..) _ _ fun _ _ he' => sound_ite (sound_swrite (he') ..) (he')

theorem sound_programLoadOp (h : d.Sound) (v : Variant) (cmd : Nat) (image : HostRead) : (programLoadOp v cmd image d).Sound := by
  unfold programLoadOp
  split
  · exact h
  split
  · split
    · exact sound_fails h ..
    dsimp only
    split
    · exact sound_finish h ..
    split
    · exact sound_fails h ..
    · exact sound_succeeds (sound_other (sound_writeSegs h ..) ..) ..
  · exact h

theorem sound_runJobOp (h : d.Sound) (v : Variant) (cmd : Nat) (transfers : HostRead) : (runJobOp v cmd transfers d).Sound := by
  unfold runJobOp
  split
  · exact h
  next c _ =>
    extract_lets ph sa n waiting running list xs d1
    generalize (if running = true then 16 else 17) = most
    split
    · exact sound_fails h ..
    split
    · exact h
    split
    · exact sound_fails h ..
    split
    · exact sound_fails h ..
    split
    · exact sound_fails h ..
    split
    · exact sound_fails h ..
    clear_value xs list
    cases list with
    | fail k => exact sound_fails h ..
    | ok b => exact (sound_busy h cmd).congr

theorem sound_endJob (h : d.Sound) (j : Job) : (endJob j d).Sound := by
  unfold endJob
  refine sound_settlePins ?_ ..
  split
  · exact sound_other (sound_dropJobTiles h ..) ..
  · split <;> exact sound_finish (sound_other (sound_dropJobTiles h ..) ..) ..

theorem sound_failEnd (h : d.Sound) (j : Job) (status : BitVec 8) (detail issuer index : Nat) :
    (failEnd j status detail issuer index d).Sound := sound_endJob h ..

theorem sound_startCounters (h : d.Sound) (v : Variant) (g : Program) : (startCounters v g d).Sound := by
  unfold startCounters
  dsimp only
  split
  · exact sound_foldl h _ _ fun _ _ he => sound_ctrSet (sound_swriteNat (sound_settleClear he ..) ..) ..
  · exact sound_devPut (sound_foldl h _ _ fun _ _ he => sound_ctrSet (sound_swriteNat (sound_settleClear he ..) ..) ..) ..

theorem sound_copyInOp (h : d.Sound) (v : Variant) (job : Nat) (data : List HostRead) : (copyInOp v job data d).Sound := by
  unfold copyInOp
  split
  · exact h
  next j _ =>
  split
  · dsimp only
    split
    · exact sound_failEnd h ..
    · have hstart (e : Dev) (he : e.Sound) : ((e.progOf j.prog).elim e fun g => startCounters v g e).Sound :=
        sound_elim he fun g => sound_startCounters he ..
      refine sound_modJob (hstart _ (sound_foldl h _ _ fun e a he => ?_)) ..
      split
      · exact sound_devPut he ..
      · exact he
  · exact h

theorem sound_copyOutOp (h : d.Sound) (v : Variant) (job : Nat) (fault : Option Nat) : (copyOutOp v job fault d).Sound := by
  unfold copyOutOp
  split
  · exact h
  split
  · split
    · dsimp only
      exact sound_modJob h ..
    dsimp only
    refine sound_modJob (sound_foldl_snd h _ _ fun _ _ he => ?_) ..
    split
    · exact he
    split
    · dsimp only
      exact sound_devRead he ..
    dsimp only
    exact sound_toHost (sound_devRead he ..) ..
  · exact h

theorem sound_jobCompleteOp (h : d.Sound) (job : Nat) : (jobCompleteOp job d).Sound := by
  unfold jobCompleteOp
  split
  · exact h
  dsimp only
  split
  · exact sound_endJob h ..
  split
  · exact sound_endJob h ..
  · exact h

theorem sound_fenceOp (h : d.Sound) (cmd : Nat) : (fenceOp cmd d).Sound := by
  unfold fenceOp
  split
  · exact h
  · exact sound_waitCmd (sound_busy h cmd) _ _

theorem sound_fenceCompleteOp (h : d.Sound) (cmd : Nat) : (fenceCompleteOp cmd d).Sound := by
  unfold fenceCompleteOp
  split
  · exact h
  split
  · exact sound_succeeds h ..
  · exact h

theorem sound_abortJobNow (h : d.Sound) (j : Job) : (abortJobNow j d).Sound := by
  unfold abortJobNow
  split
  · exact sound_failEnd h ..
  split
  · exact h
  · exact sound_abortJob h ..

theorem sound_dropCalibration (h : d.Sound) (c : Cmd) : (dropCalibration c d).Sound := sound_foldl h _ _ fun _ _ he => sound_modMac he ..

theorem sound_abortTarget (h : d.Sound) (c : Cmd) : (abortTarget c d).Sound := by
  unfold abortTarget
  split
  · exact sound_fails h ..
  split
  · split
    · exact sound_abortJobNow h ..
    · exact h
  split
  · split
    · exact sound_fails (sound_abortLoad h ..) ..
    · exact sound_fails h ..
  split
  · exact sound_fails (sound_dropCalibration h ..) ..
  · refine sound_fails (sound_foldl (sound_other h ..) _ _ fun _ _ he => ?_) ..
    split
    · exact sound_setSbank he ..
    · exact he

theorem sound_abortOp (h : d.Sound) (cmd : Nat) : (abortOp cmd d).Sound := by
  unfold abortOp
  split
  · exact h
  dsimp only
  split
  · exact sound_fails h ..
  · exact sound_succeeds (sound_abortTarget h ..) ..

/-! ### The loader -/

theorem sound_readSlots (h : d.Sound) (v : Variant) (j : Job) : (readSlots v d j).2.2.Sound := by
  unfold readSlots
  split
  · exact h
  split
  · exact h
  · exact sound_devRead h ..

theorem sound_writeSlots (h : d.Sound) (g : Program) (slots : List (BitVec 32)) : (writeSlots g slots d).Sound := sound_other h ..

theorem sound_jobStartOp (h : d.Sound) (v : Variant) (job : Nat) : (jobStartOp v job d).Sound := by
  unfold jobStartOp
  split
  · exact h
  dsimp only
  split
  · exact h
  split
  · exact sound_failEnd (sound_readSlots (sound_foldl h _ _ fun _ _ he => sound_settleClear he ..) ..) ..
  split
  · exact sound_failEnd (sound_readSlots (sound_foldl h _ _ fun _ _ he => sound_settleClear he ..) ..) ..
  split
  · exact sound_failEnd (sound_readSlots (sound_foldl h _ _ fun _ _ he => sound_settleClear he ..) ..) ..
  split
  · exact sound_modJob (sound_readSlots (sound_foldl h _ _ fun _ _ he => sound_settleClear he ..) ..) ..
  · exact sound_modJob (sound_ite (sound_startCounters (sound_writeSlots (sound_readSlots (sound_foldl h _ _ fun _ _ he => sound_settleClear he ..)
      ..) ..) ..) (sound_writeSlots (sound_readSlots (sound_foldl h _ _ fun _ _ he => sound_settleClear he ..) ..) ..)) ..

/-! ### Issuers (chapter 9) -/

theorem sound_modIss (h : d.Sound) (job code : Nat) (f : IssState → IssState) : (modIss job code f d).Sound := sound_modJob h ..

theorem sound_latchBound (h : d.Sound) (v : Variant) (j : Job) (code : Nat) (b : BitVec 32) : (latchBound v j code b d).2.2.Sound := by
  unfold latchBound
  split
  · exact h
  · exact h
  · exact h
  · exact sound_indexElem h ..

theorem sound_firstStart (h : d.Sound) (v : Variant) (j : Job) (a : AtInst) : (firstStart v j a d).Sound := by
  unfold firstStart
  dsimp only
  split
  · split
    · exact sound_failJob (sound_ctrSet (sound_ctrSet (sound_ctrSet (sound_ctrSet (sound_ctrSet (sound_latchBound (sound_latchBound h ..) ..) ..)
        ..) ..) ..) ..) ..
    split
    · exact sound_failJob (sound_ctrSet (sound_ctrSet (sound_ctrSet (sound_ctrSet (sound_ctrSet (sound_latchBound (sound_latchBound h ..) ..) ..)
        ..) ..) ..) ..) ..
    · exact sound_ctrSet (sound_ctrSet (sound_ctrSet (sound_ctrSet (sound_ctrSet (sound_ctrSet (sound_ctrSet (sound_ctrSet (sound_ctrSet
        (sound_latchBound (sound_latchBound h ..) ..) ..) ..) ..) ..) ..) ..) ..) ..) ..
  split
  · exact sound_failJob (sound_ctrSet (sound_ctrSet (sound_ctrSet (sound_ctrSet (sound_ctrSet (sound_latchBound (sound_latchBound (sound_latchBound
      h ..) ..) ..) ..) ..) ..) ..) ..) ..
  split
  · exact sound_failJob (sound_ctrSet (sound_ctrSet (sound_ctrSet (sound_ctrSet (sound_ctrSet (sound_latchBound (sound_latchBound (sound_latchBound
      h ..) ..) ..) ..) ..) ..) ..) ..) ..
  · exact sound_ctrSet (sound_ctrSet (sound_ctrSet (sound_ctrSet (sound_ctrSet (sound_ctrSet (sound_ctrSet (sound_ctrSet (sound_ctrSet
      (sound_latchBound (sound_latchBound (sound_latchBound h ..) ..) ..) ..) ..) ..) ..) ..) ..) ..) ..) ..

theorem sound_instructionStartOp (h : d.Sound) (v : Variant) (code : Nat) : (instructionStartOp v code d).Sound := by
  unfold instructionStartOp
  split
  · exact h
  split
  · exact h
  dsimp only
  split
  · exact sound_reading h _ fun _ he => sound_modIss (sound_ite (sound_firstStart (sound_ctrAtomic (sound_settleClear he ..) ..) ..)
      (sound_ctrAtomic (sound_settleClear he ..) ..)) ..
  · exact h

theorem sound_counterReadyPollOp (h : d.Sound) (code : Nat) : (counterReadyPollOp code d).Sound := by
  unfold counterReadyPollOp
  split
  · exact h
  split
  · exact h
  split
  · exact sound_count (sound_modIss h ..) ..
  · exact h

theorem sound_counterWaitReleaseOp (h : d.Sound) (code waited : Nat) : (counterWaitReleaseOp code waited d).Sound := by
  unfold counterWaitReleaseOp
  split
  · exact h
  split
  · exact h
  split
  · exact h
  split
  · split
    · exact sound_count (sound_modIss (sound_modJob h ..) ..) ..
    split
    · exact sound_count (sound_modIss h ..) ..
    · exact h
  · exact h

theorem sound_holdClaim (h : d.Sound) (job code ss : Nat) (s : IssState) : (holdClaim job code ss s d).Sound := by
  unfold holdClaim
  split
  · exact h
  · exact sound_count (sound_modIss h ..) ..

theorem sound_workClaimOp (h : d.Sound) (code : Nat) : (workClaimOp code d).Sound := by
  unfold workClaimOp
  split
  · exact h
  split
  · exact h
  dsimp only
  split
  · split
    · exact sound_failJob h ..
    split
    · exact sound_holdClaim h ..
    split
    · exact sound_failJob (sound_ctrAtomic (sound_settleClear h ..) ..) ..
    split
    · exact sound_modIss (sound_ctrAtomic (sound_settleClear h ..) ..) ..
    · exact sound_count (sound_modIss (sound_ctrAtomic (sound_settleClear h ..) ..) ..) ..
  · exact h

theorem sound_bitmapTest (h : d.Sound) (v : Variant) (g : Program) (c : CtrEntry) (q : Nat) : (bitmapTest v g c q d).2.Sound := by
  unfold bitmapTest
  split
  · exact h
  · exact sound_devRead h ..

theorem sound_sweepTake (h : d.Sound) (j : Job) (a : AtInst) : (sweepTake j a d).2.Sound := by
  unfold sweepTake
  dsimp only
  split
  · exact sound_failJob (sound_ctrAtomic (sound_settleClear h ..) ..) ..
  · split <;> exact sound_ctrAtomic (sound_settleClear h ..) ..

theorem sound_sweepClaimOp (h : d.Sound) (code : Nat) : (sweepClaimOp code d).Sound := by
  unfold sweepClaimOp
  split
  · exact h
  split
  · exact h
  split
  · split
    · exact sound_modIss h ..
    split
    · exact sound_failJob h ..
    split
    · exact sound_holdClaim h ..
    · exact sound_modIss (sound_sweepTake h ..) ..
  · exact h

theorem sound_issuerRejoinOp (h : d.Sound) (code : Nat) : (issuerRejoinOp code d).Sound := by
  unfold issuerRejoinOp
  split
  · exact h
  split
  · exact sound_modIss h ..
  · exact h

theorem sound_homeSweepOp (h : d.Sound) (job ctr : Nat) : (homeSweepOp job ctr d).Sound := by
  unfold homeSweepOp
  split
  · exact h
  dsimp only
  split
  · split
    · split
      · split
        · exact h
        · exact sound_count (sound_modJob h ..) ..
      · exact sound_modJob (sound_sweepTake h ..) ..
    · exact h
  · exact h

theorem sound_takeBand (h : d.Sound) (hub phase : Nat) : (takeBand hub phase d).Sound := sound_other h ..

theorem sound_readCodes (h : d.Sound) (v : Variant) (t : Tile) (cols : List Nat) (vecs : Nat) : (readCodes v t cols vecs d).2.2.Sound := by
  unfold readCodes
  refine sound_foldl_snd_snd h _ _ fun _ _ he => ?_
  dsimp only
  split
  · exact sound_fetchOperand he ..
  split
  · exact sound_fetchOperand (sound_fetchOperand he ..) ..
  · exact sound_fetchOperand he ..

theorem sound_openIssue (h : d.Sound) (t : Tile) : (openIssue t d).Sound := sound_other h ..

theorem sound_issueAt (h : d.Sound) (t : Tile) (w : Nat) : (issueAt t w d).Sound := sound_setWedge h ..

theorem sound_enterTile (h : d.Sound) (t : Tile) : (enterTile t d).Sound := by
  unfold enterTile
  dsimp only
  split
  · exact sound_openIssue (sound_foldl (sound_other (sound_foldl (sound_other h ..) _ _ fun _ _ he => sound_issueAt he ..) ..) _ _ fun _ _ he =>
      sound_takeBand he ..) ..
  · exact sound_other (sound_foldl (sound_other h ..) _ _ fun _ _ he => sound_issueAt he ..) ..

theorem sound_enterCodes (h : d.Sound) (v : Variant) (t : Tile) : (enterCodes v t d).Sound := by
  unfold enterCodes
  split
  · exact h
  dsimp only
  split
  · exact sound_failRead (sound_readCodes h ..) ..
  · exact sound_modTile (sound_readCodes h ..) ..

theorem sound_sweptClear (h : d.Sound) (v : Variant) (j : Job) (a : AtInst) (s : IssState) (q : Nat) : (sweptClear v j a s q d).2.Sound := by
  unfold sweptClear
  split
  · split
    · exact h
    · exact sound_bitmapTest h ..
  · exact h

theorem sound_issueTile (h : d.Sound) (v : Variant) (j : Job) (a : AtInst) (s : IssState) (q gi gj : Nat) (ws : List Nat) (engine :
    Nat) :
    (issueTile v j a s q gi gj ws engine d).Sound := sound_enterCodes (sound_enterTile (sound_count (sound_modIss h ..) ..) ..) ..

theorem sound_tileIssueOp (h : d.Sound) (v : Variant) (code engine : Nat) : (tileIssueOp v code engine d).Sound := by
  unfold tileIssueOp
  split
  · exact h
  split
  · dsimp only
    split
    · exact h
    split
    · exact h
    split
    · exact sound_modIss (sound_sweptClear h ..) ..
    split
    · exact sound_failJob (sound_sweptClear h ..) ..
    split
    · exact h
    · exact sound_reading (sound_sweptClear h ..) _ fun _ he => sound_issueTile he ..
  · exact h

/-! ### Tiles, their issue and commit -/

theorem sound_countPads (h : d.Sound) (t : Tile) : (countPads t d).Sound := sound_foldl h _ _ fun _ _ he => sound_ite he (sound_count he ..)

theorem sound_placeResults (h : d.Sound) (v : Variant) (t : Tile) : (placeResults v t d).2.Sound := by
  unfold placeResults
  dsimp only
  refine sound_foldl_snd_snd h _ _ fun _ _ he => ?_
  split
  · exact he
  split
  · dsimp only
    exact sound_count (sound_placeOf he ..) ..
  · split
    · dsimp only
      exact sound_placeOf he ..
    dsimp only
    exact sound_count (sound_placeOf he ..) ..
  dsimp only
  exact sound_placeOf he ..

theorem sound_resolveCollisions (h : d.Sound) (t : Tile) (n : Nat) (ps : List Placed) : (resolveCollisions t n ps d).2.Sound := by
  induction n generalizing d ps with
  | zero => exact h
  | succ k ih =>
    cases ps with
    | nil => exact h
    | cons a ps =>
      unfold resolveCollisions
      dsimp only
      split
      · exact ih h _
      · exact ih (sound_foldl (sound_drawn h) _ _ fun _ _ he => sound_count he ..) _

theorem sound_tileWrites (h : d.Sound) (v : Variant) (t : Tile) : (tileWrites v t d).2.Sound := by
  unfold tileWrites
  dsimp only
  split
  · exact sound_resolveCollisions (sound_placeResults h ..) ..
  · exact sound_count (sound_resolveCollisions (sound_placeResults h ..) ..) ..

theorem sound_haloMessages (h : d.Sound) (t : Tile) (ws : List RawOp) : (haloMessages t ws d).2.2.Sound := by
  unfold haloMessages
  refine sound_foldl_snd_snd h _ _ fun _ _ he => ?_
  split
  · exact sound_count he ..
  · exact he

theorem sound_takeMessage (h : d.Sound) (id w dir : Nat) : (takeMessage id w dir d).Sound := sound_other (sound_modWedge h ..) ..

theorem sound_consumeHalo (h : d.Sound) (t : Tile) : (consumeHalo t d).Sound := sound_foldl h _ _ fun _ _ he => sound_takeMessage he ..

theorem sound_adaptBand (h : d.Sound) (i : PredIssue) : (adaptBand i d).Sound := by
  have hset (e : Dev) (he : e.Sound) (t : Tab Band) : Dev.Sound { e with pred := t } := he.congr
  unfold adaptBand
  extract_lets hub key cur k lim run set wide quiet d1 cur1 q
  have h1 : d1.Sound :=
    sound_ite (sound_ite (sound_postOnce h ..) (sound_post (sound_count (hset _ h _) ..) ..)) h
  split
  · split
    · exact sound_count (hset _ h1 _) ..
    · exact hset _ h1 _
  · exact hset _ h1 _

theorem sound_settleIssue (h : d.Sound) (id : Nat) : (settleIssue id d).Sound := by
  unfold settleIssue
  split
  · exact h
  split
  · exact sound_adaptBand (sound_swrite (sound_settleClear (sound_other h ..) ..) ..) ..
  · exact h

theorem sound_supersede (h : d.Sound) (id : Nat) : (supersede id d).Sound := by
  unfold supersede
  split
  · exact h
  · exact sound_foldl h _ _ fun _ _ he => sound_settleIssue (sound_count (sound_other he ..) ..) ..

theorem sound_settleSpans (h : d.Sound) (t : Tile) : (settleSpans t d).Sound := by
  unfold settleSpans
  split
  · exact h
  · exact sound_other h ..

theorem sound_finishTile (h : d.Sound) (id : Nat) : (finishTile id d).Sound := by
  unfold finishTile
  split
  · exact h
  next t _ =>
    split
    · have hleave (e : Dev) (he : e.Sound) : (removeTile t (settleSpans t (if t.smiss then (e.count 0x2092 t.ss 1).modJob t.job
          (fun j => { j with smiss := true }) else e.count 0x2092 t.ss 1))).Sound := by
        refine sound_removeTile (sound_settleSpans ?_ _) _
        exact sound_ite (sound_modJob (sound_count he ..) ..) (sound_count he ..)
      refine hleave _ ?_
      split
      · exact sound_ctrAtomic (sound_settleClear h _) ..
      · exact h
    · exact h

theorem sound_clearWindow (h : d.Sound) (t : Tile) : (clearWindow t d).Sound := by
  unfold clearWindow
  split
  · split
    · exact sound_modEngine h ..
    · exact h
  · exact h

theorem sound_discardDuplicate (h : d.Sound) (t : Tile) : (discardDuplicate t d).Sound := by
  have h2 := sound_other (sound_count (sound_removeTile h t) 0x2093 t.ss 1)
  exact sound_ite (h2 ..) (sound_post (sound_modJob (h2 ..) ..) ..)

theorem sound_setBit (h : d.Sound) (v : Variant) (t : Tile) : (setBit v t d).2.2.Sound := by
  unfold setBit
  split
  · split
    · exact h
    · exact sound_devAccess h ..
  · exact h

theorem sound_admitTile (h : d.Sound) (v : Variant) (t : Tile) : (admitTile v t d).Sound :=
  sound_settleIssue (sound_finishTile (sound_supersede (sound_other (sound_modTile (sound_consumeHalo (sound_haloMessages (sound_tileWrites
      (sound_clearWindow (sound_countPads h ..) ..) ..) ..) ..) ..) ..) ..) ..) ..

theorem sound_alignFault (h : d.Sound) (t : Tile) (key dtag stag : Nat) : (alignFault t key dtag stag d).Sound :=
  sound_failTile (sound_post (sound_count h ..) ..) ..

theorem sound_applyRaw (h : d.Sound) (v : Variant) (t : Tile) (index : Nat) (w : RawOp) : (applyRaw v t index w d).2.2.Sound := by
  unfold applyRaw
  split
  · exact sound_swrite (sound_settleClear h ..) ..
  · split
    · exact h
    split
    · exact sound_emit h ..
    split
    · exact sound_devWrite h ..
    · exact sound_devAccess h ..
  split
  · exact h
  split
  · dsimp only
    split
    · exact sound_readRemote h ..
    · exact sound_emit (sound_readRemote h ..) ..
  · exact sound_devAccess (sound_devAccess h ..) ..

theorem sound_ackWrite (h : d.Sound) (tile index : Nat) : (ackWrite tile index d).Sound := sound_finishTile (sound_modTile h ..) ..

theorem sound_writeAcceptOp (h : d.Sound) (v : Variant) (tile index : Nat) : (writeAcceptOp v tile index d).Sound := by
  unfold writeAcceptOp
  split
  · exact h
  split
  · exact h
  split
  · exact sound_reading h _ fun _ he => sound_ite (sound_failRead (sound_applyRaw he ..) ..) (sound_ite (sound_ackWrite (sound_applyRaw he ..) ..)
      (sound_applyRaw he ..))
  · exact h

theorem sound_haloAppendOp (h : d.Sound) (tile dir : Nat) : (haloAppendOp tile dir d).Sound := by
  unfold haloAppendOp
  split
  · exact h
  split
  · dsimp only
    split
    · exact h
    split
    · exact sound_finishTile (sound_modTile (sound_ite (sound_count h ..) (sound_post (sound_count h ..) ..)) ..) ..
    split
    · exact h
    · exact sound_finishTile (sound_modTile (sound_count (sound_modWedge h ..) ..) ..) ..
  · exact h

theorem sound_haloReadOp (h : d.Sound) (tile dir : Nat) : (haloReadOp tile dir d).Sound := by
  unfold haloReadOp
  split
  · exact h
  split
  · exact sound_modTile h ..
  · exact h

theorem sound_haloTimeoutOp (h : d.Sound) (v : Variant) (tile waited : Nat) : (haloTimeoutOp v tile waited d).Sound := by
  unfold haloTimeoutOp
  split
  · exact h
  dsimp only
  split
  · exact sound_count (sound_failTile h ..) ..
  · exact h

/-! ### The macro path (chapters 2 to 5) -/

theorem sound_setPairing (h : d.Sound) (key : Nat) (p : Pairing) : (setPairing key p d).Sound := sound_other h ..

theorem sound_joinPair (h : d.Sound) (t : Tile) (at1 : PairIn) (p : Pairing) (b : DataBlock) (e : BitVec 8) : (joinPair t at1 p b e d).Sound := by
  unfold joinPair
  split
  · exact sound_setPairing h ..
  · exact sound_modLane (sound_setPairing h ..) ..

theorem sound_arriveBlock (h : d.Sound) (t : Tile) (at1 : PairIn) (p : Pairing) (blk : Option DataBlock) : (arriveBlock t at1 p blk d).Sound := by
  unfold arriveBlock
  dsimp only
  split
  · split
    · exact sound_alignFault h ..
    · exact sound_setPairing h ..
  split
  · exact sound_joinPair h ..
  split
  · split
    · exact sound_joinPair h ..
    · exact sound_alignFault h ..
  split
  · exact sound_alignFault h ..
  · exact sound_setPairing h ..

theorem sound_arriveScale (h : d.Sound) (t : Tile) (at1 : PairIn) (p : Pairing) (entry : Option ScaleEntry) :
    (arriveScale t at1 p entry d).Sound := by
  unfold arriveScale
  dsimp only
  split
  · split
    · exact sound_alignFault h ..
    · exact sound_setPairing h ..
  split
  · split
    · exact sound_joinPair h ..
    · exact sound_alignFault h ..
  split
  · exact sound_alignFault h ..
  split
  · exact h
  · exact sound_setPairing h ..

theorem sound_macroBlock (h : d.Sound) (v : Variant) (t : Tile) (m : Nat) (b : BlockAt) : (macroBlock v t m b d).2.Sound := by
  have hfetch := sound_fetchBlock h v t 0 b.k b.c1
  unfold macroBlock
  generalize fetchBlock v t 0 b.k b.c1 d = r at hfetch ⊢
  dsimp only
  split
  · exact h
  · split
    · exact hfetch
    · refine sound_modTile ?_ ..
      split
      · exact hfetch
      · exact sound_setFree hfetch _

theorem sound_laneBlock (h : d.Sound) (v : Variant) (t : Tile) (at_ : PairIn) (b : BlockAt) : (laneBlock v t at_ b d).2.Sound := by
  unfold laneBlock
  dsimp only
  exact sound_fetchBlock h ..

theorem sound_sideBlock (h : d.Sound) (v : Variant) (t : Tile) (at2 : PairIn) (b : BlockAt) : (sideBlock v t at2 b d).2.Sound := by
  unfold sideBlock
  split
  · exact sound_macroBlock h ..
  · exact sound_laneBlock h ..

theorem sound_sideScale (h : d.Sound) (v : Variant) (t : Tile) (at_ : PairIn) (b : BlockAt) : (sideScale v t at_ b d).2.Sound := by
  have hfetch := sound_fetchScale h v t (pairOpnd at_ + 1) b.k b.c1
  unfold sideScale
  dsimp only
  split
  · exact hfetch
  · split
    · exact h
    next e d1 _ heq =>
      rw [← (Prod.mk.inj heq).2]
      exact sound_modTile hfetch ..
    · exact hfetch

theorem sound_blockPairingOp (h : d.Sound) (v : Variant) (at_ : PairIn) (tile : Nat) (blk : Option BlockAt) :
    (blockPairingOp v at_ tile blk d).Sound := by
  unfold blockPairingOp
  split
  next t p _ _ =>
    split
    · exact h
    cases blk with
    | none => exact sound_arriveBlock h ..
    | some b =>
      dsimp only
      split
      · exact h
      split
      · exact sound_elim h fun _ => sound_arriveBlock h ..
      split
      · exact h
      refine sound_reading h _ fun e he => ?_
      have hside := sound_sideBlock he v t at_ b
      split
      next heq => exact sound_arriveBlock (by rwa [heq] at hside) ..
      next heq => exact sound_failRead (by rwa [heq] at hside) ..
  · exact h

theorem sound_scaleEntryArrivalOp (h : d.Sound) (v : Variant) (at_ : PairIn) (tile : Nat) (entry : Option BlockAt) :
    (scaleEntryArrivalOp v at_ tile entry d).Sound := by
  unfold scaleEntryArrivalOp
  split
  next t p _ _ =>
    split
    · exact h
    cases entry with
    | none => exact sound_arriveScale h ..
    | some b =>
      dsimp only
      split
      · exact h
      split
      · exact sound_elim h fun _ => sound_arriveScale h ..
      refine sound_reading h _ fun e he => ?_
      have hside := sound_sideScale he v t at_ b
      split
      next heq => exact sound_arriveScale (by rwa [heq] at hside) ..
      next heq => exact sound_failRead (by rwa [heq] at hside) ..
  · exact h

theorem sound_countResidues (h : d.Sound) (m : Nat) (vals : List (Nat × ℤ)) : (countResidues m vals d).Sound := sound_count (sound_count h ..) ..

theorem sound_startResidues (h : d.Sound) (m : Nat) : (startResidues m d).Sound := by
  unfold startResidues
  split
  · exact h
  split
  · exact h
  · exact sound_modMac (sound_countResidues h ..) ..

theorem sound_fetchOutliers (h : d.Sound) (v : Variant) (t : Tile) (mat : Matrix) (rb ovec : Nat) :
    (fetchOutliers v t mat rb ovec d).2.Sound := sound_fetchOperand (sound_foldl_snd_snd h _ _ fun _ _ he => sound_fetchOperand he ..) ..

theorem sound_takeBlock (h : d.Sound) (m : Nat) (t : Tile) (product : Nat) (mat : Matrix) (vec : Nat) (side : OutlierSide) :
    (takeBlock m t product mat vec side d).Sound := by
  unfold takeBlock
  extract_lets p k streams rows off vals ss
  split
  · exact h
  extract_lets q d1 blk last d2 d3
  split
  · exact sound_alignFault h ..
  have h2 : d2.Sound := sound_countIf (sound_setPairing h ..) ..
  exact sound_modMac (sound_ite (sound_countResidues h2 ..) h2) ..

theorem sound_blockAdmitOp (h : d.Sound) (v : Variant) (m tile : Nat) (vec ovec : Nat) :
    (blockAdmitOp v m tile vec ovec d).Sound := by
  unfold blockAdmitOp
  dsimp only
  split
  · split
    · split
      · exact h
      split
      · exact sound_takeBlock h ..
      split
      · exact sound_elim h fun _ => sound_takeBlock h ..
      · exact sound_reading h _ fun _ he => sound_ite (sound_failRead (sound_fetchOutliers he ..) ..) (sound_takeBlock (sound_fetchOutliers he ..)
          ..)
    · exact h
  · exact h

theorem sound_countReads (h : d.Sound) (m amb sat : Nat) : (countReads m amb sat d).Sound := by
  unfold countReads
  dsimp only
  split
  · exact sound_count (sound_count h ..) ..
  · exact sound_postOnce (sound_count (sound_count h ..) ..) ..

theorem sound_macroPlaneStepOp (h : d.Sound) (m : Nat) (errs : List (Nat × Nat × ℚ)) : (macroPlaneStepOp m errs d).Sound := by
  unfold macroPlaneStepOp
  dsimp only
  split
  · exact h
  split
  · split
    · exact h
    split
    · exact sound_modMac (sound_count (sound_count (sound_draw (sound_debit h ..) ..) ..) ..) ..
    · exact sound_modMac (sound_modMac (sound_other (sound_countReads (sound_count (sound_count (sound_draw (sound_debit h ..) ..) ..) ..) ..) ..)
        ..) ..
    · exact sound_modMac (sound_count (sound_count (sound_draw (sound_debit h ..) ..) ..) ..) ..
  · exact h

theorem sound_reResolutionStepOp (h : d.Sound) (m : Nat) : (reResolutionStepOp m d).Sound := by
  unfold reResolutionStepOp
  dsimp only
  split
  · exact h
  split
  · exact h
  split
  · exact h
  · exact sound_modMac (sound_count (sound_count (sound_draw (sound_debit h ..) ..) ..) ..) ..

theorem sound_recalTriggerOp (h : d.Sound) (m : Nat) : (recalTriggerOp m d).Sound := by
  unfold recalTriggerOp
  split
  · exact sound_modMac h ..
  · exact h

theorem sound_outlierTermOp (h : d.Sound) (m : Nat) : (outlierTermOp m d).Sound := by
  unfold outlierTermOp
  dsimp only
  split
  · exact h
  split
  · exact h
  split
  · exact h
  split
  · exact h
  · exact sound_count (sound_modMac h ..) ..

theorem sound_outputStagePartialOp (h : d.Sound) (m : Nat) : (outputStagePartialOp m d).Sound := by
  unfold outputStagePartialOp
  dsimp only
  split
  · exact h
  split
  · exact h
  split
  · exact h
  split
  · exact h
  split
  · split
    · exact h
    · exact sound_modMac (sound_count h ..) ..
  · exact sound_modMac (sound_modTile h ..) ..

/-! ### Final adders and audits -/

theorem sound_itemDone (h : d.Sound) (tile : Nat) : (itemDone tile d).Sound := by
  unfold itemDone
  split
  · exact h
  split
  · exact sound_failTile h ..
  · exact sound_modTile h ..

theorem sound_putOutputs (h : d.Sound) (t : Tile) (vec : Nat) (vals : Tab W32) : (putOutputs t vec vals d).Sound := by
  unfold putOutputs
  dsimp only
  split <;> exact sound_modTile h ..

theorem sound_predictorCounts (h : d.Sound) (t : Tile) (w vec : Nat) (codes : Tab Nat) : (predictorCounts t w vec codes d).Sound :=
  sound_count (sound_modWedge (sound_other h ..) ..) ..

theorem sound_thresholdReduce (h : d.Sound) (t : Tile) (w vec : Nat) (product n : Nat) (cols : List Nat) :
    (thresholdReduce t w vec product n cols d).Sound := by
  unfold thresholdReduce
  dsimp only
  split
  · exact sound_predictorCounts (sound_modTile h ..) ..
  · exact sound_modTile h ..

theorem sound_modNeuron (h : d.Sound) (t : Tile) (k : Nat) (f : PredIssue → PredIssue) : (modNeuron t k f d).Sound := by
  unfold modNeuron
  split
  · exact h
  · exact sound_settleIssue (sound_other h ..) ..

theorem sound_closeAudit (h : d.Sound) (t : Tile) (k code : Nat) : (closeAudit t k code d).Sound := sound_modTile h ..

theorem sound_abandonAudits (h : d.Sound) (t : Tile) (w vec : Nat) (cols : List Nat) : (abandonAudits t w vec cols d).Sound :=
  sound_foldl h _ _ fun _ _ he => sound_count (sound_modNeuron (sound_closeAudit he ..) ..) ..

theorem sound_formPair (h : d.Sound) (tile w vec : Nat) (cols : List Nat) : (formPair tile w vec cols d).Sound := by
  unfold formPair
  split
  · exact h
  dsimp only
  split
  · exact sound_abandonAudits h ..
  · exact sound_modTile (sound_other (sound_abandonAudits h ..) ..) ..

theorem sound_reduced (h : d.Sound) (t : Tile) (w product vec : Nat) (cols : List Nat) (order : RedTree) (n : Nat) :
    (reduced t w product vec cols order n d).Sound := by
  unfold reduced
  split
  · exact sound_thresholdReduce h ..
  dsimp only
  split
  · split
    · exact sound_putOutputs h ..
    · exact sound_modTile h ..
    · exact sound_formPair (sound_modTile h ..) ..
    · exact sound_modTile (sound_other h ..) ..
  · exact sound_putOutputs (sound_other h ..) ..

theorem sound_finalAdderReduceOp (h : d.Sound) (tile colBlock vec : Nat) (order : RedTree) :
    (finalAdderReduceOp tile colBlock vec order d).Sound := by
  unfold finalAdderReduceOp
  dsimp only
  split
  · exact h
  split
  · exact h
  split
  · split
    · exact h
    · exact sound_itemDone (sound_modTile (sound_reduced h ..) ..) ..
  split
  · exact h
  · exact sound_itemDone (sound_modTile (sound_reduced h ..) ..) ..

theorem sound_auditServeOp (h : d.Sound) (tile neuron : Nat) : (auditServeOp tile neuron d).Sound := by
  unfold auditServeOp
  split
  · exact h
  split
  · dsimp only
    split
    · exact h
    · exact sound_modNeuron (sound_countIf (sound_count (sound_closeAudit h ..) ..) ..) ..
  · exact h

/-! ### Check engines -/

theorem sound_countPartial (h : d.Sound) (n : Nat) (some : Bool) : (countPartial n some d).Sound := sound_countIf h ..

theorem sound_ceConfigOp (h : d.Sound) (cmd : Nat) : (ceConfigOp cmd d).Sound := by
  unfold ceConfigOp
  split
  · exact h
  · exact sound_succeeds (sound_ite (sound_setCe h ..) (sound_countPartial (sound_setCe h ..) ..)) ..

theorem sound_ceReadOp (h : d.Sound) (cmd : Nat) : (ceReadOp cmd d).Sound := by
  unfold ceReadOp
  split
  · exact h
  · exact sound_succeeds h ..

theorem sound_ceWriteOp (h : d.Sound) (cmd : Nat) : (ceWriteOp cmd d).Sound := by
  unfold ceWriteOp
  split
  · exact h
  · exact sound_succeeds (sound_setCe h ..) ..

theorem sound_ceMismatch (h : d.Sound) (n loc : Nat) (e : Nat × Nat × Nat) : (ceMismatch n loc e d).Sound :=
  sound_postOnce (sound_count (sound_other h ..) ..) ..

theorem sound_ceReport (h : d.Sound) (n loc : Nat) (f : CeFound) : (ceReport n loc f d).Sound :=
  sound_foldl (sound_ite h (sound_count h ..)) _ _ fun _ _ he => sound_ceMismatch he ..

theorem sound_ceFrameOp (h : d.Sound) (v : Variant) (n kind : Nat) (index seq : Nat) (loc offset : Nat) (bs : Bytes) :
    (ceFrameOp v n kind index seq loc offset bs d).Sound := by
  unfold ceFrameOp
  dsimp only
  split
  · split
    · exact h
    split
    · exact sound_setCe (sound_countPartial h ..) ..
    split
    · exact sound_postOnce (sound_count (sound_setCe (sound_countPartial h ..) ..) ..) ..
    · exact sound_postOnce (sound_count (sound_setCe (sound_countPartial h ..) ..) ..) ..
    · exact sound_ceReport (sound_setCe (sound_countPartial h ..) ..) ..
  split
  · exact h
  split
  · exact sound_setCe (sound_countPartial h ..) ..
  split
  · exact sound_postOnce (sound_count (sound_setCe (sound_countPartial h ..) ..) ..) ..
  · exact sound_postOnce (sound_count (sound_setCe (sound_countPartial h ..) ..) ..) ..
  · exact sound_ceReport (sound_setCe (sound_countPartial h ..) ..) ..

/-! ### The governor (chapter 15) -/

theorem sound_moveSupply (h : d.Sound) (k g : Nat) : (moveSupply k g d).Sound := sound_modDom h ..

theorem sound_chargeShare (h : d.Sound) (uj : ℚ) (s : EnergyShare) : (chargeShare uj s d).Sound := sound_other h ..

theorem sound_chargeSteps (h : d.Sound) (uj : ℚ) (s : EnergyShare) : (chargeSteps uj s d).Sound := by
  unfold chargeSteps
  split
  · exact sound_chargeShare h ..
  split
  · exact sound_foldl h _ _ fun _ _ he => sound_chargeShare he ..
  · exact h

theorem sound_meterEnergy (h : d.Sound) (v : Variant) (inputUj : ℚ) (domUj : List (Nat × ℚ)) (shares : List EnergyShare) :
    (meterEnergy v inputUj domUj shares d).Sound := sound_other (sound_foldl h _ _ fun _ _ he => sound_chargeSteps he ..) ..

theorem sound_arbiterOp (h : d.Sound) (v : Variant) (inputW governedW : ℚ) (acts : List Activity) (inputUj : ℚ) (domUj : List (Nat × ℚ))
    (shares : List EnergyShare) :
    (arbiterOp v inputW governedW acts inputUj domUj shares d).Sound := by
  unfold arbiterOp
  split
  · exact h
  · exact sound_meterEnergy (sound_other (sound_foldl h _ _ fun _ _ he => sound_modRegion he ..) ..) ..

theorem sound_grantDomain (h : d.Sound) (k : Nat) (g : ℚ) (works : Bool) : (grantDomain k g works d).Sound := sound_setDom (sound_countIf h ..) ..

theorem sound_governorTickOp (h : d.Sound) (v : Variant) (hub : Nat) (dPrev : ℚ) (acts : List Activity) :
    (governorTickOp v hub dPrev acts d).Sound := by
  unfold governorTickOp
  split
  · exact h
  · exact sound_other (sound_modRegion (sound_foldl h _ _ fun _ _ he => sound_grantDomain he ..) ..) ..

theorem sound_learn (h : d.Sound) (v : Variant) (hub : Nat) (s : EnergySample) : (learn v hub s d).Sound := by
  unfold learn
  split
  · exact h
  · exact sound_modRegion h ..

theorem sound_pointChoiceOp (h : d.Sound) (v : Variant) (hub : Nat) (acts : List Activity) (samples : List EnergySample) :
    (pointChoiceOp v hub acts samples d).Sound := by
  unfold pointChoiceOp
  split
  · exact h
  · exact sound_foldl (sound_ite (sound_modRegion (sound_foldl (sound_modRegion h ..) _ _ fun _ _ he => sound_learn he ..) ..) (sound_count
      (sound_modRegion (sound_foldl (sound_modRegion h ..) _ _ fun _ _ he => sound_learn he ..) ..) ..)) _ _ fun _ _ he => sound_moveSupply he ..

theorem sound_supplyMoveOp (h : d.Sound) (k : Nat) : (supplyMoveOp k d).Sound := by
  unfold supplyMoveOp
  split
  · exact sound_modDom h ..
  · exact h

theorem sound_holdHint (h : d.Sound) (h0 : Hint) : (holdHint h0 d).Sound := sound_other h ..

theorem sound_phaseHintOp (h : d.Sound) (cmd : Nat) : (phaseHintOp cmd d).Sound := by
  unfold phaseHintOp
  split
  · exact h
  · exact sound_succeeds (sound_foldl h _ _ fun _ _ he => sound_holdHint he ..) ..

theorem sound_modHint (h : d.Sound) (hub phase : Nat) (f : Hint → Hint) : (modHint hub phase f d).Sound := sound_other h ..

theorem sound_hintRampOp (h : d.Sound) (v : Variant) (hub phase : Nat) : (hintRampOp v hub phase d).Sound := by
  unfold hintRampOp
  split
  · exact h
  · exact sound_modHint h ..

theorem sound_hintHoldOp (h : d.Sound) (hub phase : Nat) : (hintHoldOp hub phase d).Sound := by
  unfold hintHoldOp
  split
  · exact h
  split
  · dsimp only
    split
    · exact sound_modHint h ..
    · exact sound_count (sound_modHint h ..) ..
  · exact h

theorem sound_droopOp (h : d.Sound) (v : Variant) (k mv : Nat) : (droopOp v k mv d).Sound := by
  unfold droopOp
  split
  · exact sound_postOnce (sound_count (sound_modRegion h ..) ..) ..
  · exact h

theorem sound_droopEndOp (h : d.Sound) (v : Variant) (hub : Nat) : (droopEndOp v hub d).Sound := by
  unfold droopEndOp
  split
  · exact sound_modRegion h ..
  · exact h

theorem sound_collapseOp (h : d.Sound) (v : Variant) (k mv : Nat) : (collapseOp v k mv d).Sound := by
  unfold collapseOp
  split
  · exact sound_count (sound_modDom h ..) ..
  · exact h

theorem sound_recoverOp (h : d.Sound) (k mv : Nat) : (recoverOp k mv d).Sound := by
  unfold recoverOp
  split
  · exact sound_modDom h ..
  · exact h

theorem sound_thermalSenseOp (h : d.Sound) (v : Variant) (k : Nat) (celsius : ℚ) : (thermalSenseOp v k celsius d).Sound := by
  unfold thermalSenseOp
  split
  · exact sound_modDom h ..
  · exact h

theorem sound_throttleOp (h : d.Sound) (v : Variant) (k : Nat) : (throttleOp v k d).Sound := by
  unfold throttleOp
  dsimp only
  split
  · exact sound_postOnce (sound_ite (sound_moveSupply (sound_count (sound_setDom h ..) ..) ..) (sound_count (sound_setDom h ..) ..)) ..
  · exact h

theorem sound_ceilingRiseOp (h : d.Sound) (v : Variant) (k : Nat) : (ceilingRiseOp v k d).Sound := by
  unfold ceilingRiseOp
  dsimp only
  split
  · split
    · exact sound_setDom h ..
    · exact sound_moveSupply (sound_setDom h ..) ..
  · exact h

theorem sound_thermLimitOp (h : d.Sound) (v : Variant) (k : Nat) : (thermLimitOp v k d).Sound := by
  unfold thermLimitOp
  dsimp only
  split
  · exact h
  split
  · split
    · exact sound_post (sound_setDom h ..) ..
    · exact sound_setDom h ..
  split
  · exact sound_setDom h ..
  · exact h

/-! ### Dictionary writes -/

theorem sound_storeValue (h : d.Sound) (src : Source) (idx sub : Nat) (b : Bytes) : (storeValue src idx sub b d).Sound := by
  unfold storeValue
  dsimp only
  split
  · exact sound_other h ..
  split
  · split
    · exact sound_other h ..
    split
    · exact sound_other h ..
    split
    · exact sound_other h ..
    · exact h
  · exact sound_other h ..

theorem tokens_setRegion (j : Jour) (n : Nat) (r : JRegion) : (j.setRegion n r).tokens = j.tokens := by
  unfold Jour.setRegion
  split <;> rfl

theorem tokens_put (j : Jour) (n : Nat) (r : JRec) : (j.put n r).tokens = j.tokens := tokens_setRegion j n _

/-- A journal with the tokens that it had. -/
theorem sound_setJour (h : d.Sound) {j : Jour} (hj : j.tokens = d.jour.tokens) : Dev.Sound { d with jour := j } :=
  h.congr (htokens := hj)

theorem sound_programRec (h : d.Sound) (key : Nat) (b : Bytes) (good : Bool) : (programRec key b good d).Sound :=
  sound_count (sound_setJour h (by exact tokens_put ..)) ..

theorem sound_takeToken (h : d.Sound) : (takeToken d).Sound := sound_setTokens h ((Nat.sub_le _ _).trans h.tokens)

theorem sound_throttle (h : d.Sound) : (throttle d).Sound := sound_count h ..

theorem sound_odReadOp (h : d.Sound) (v : Variant) (cmd : Nat) : (odReadOp v cmd d).Sound := by
  unfold odReadOp
  split
  · exact h
  split
  · exact h
  dsimp only
  split
  · split
    · exact sound_fails h ..
    · exact sound_succeeds h ..
  split
  · exact sound_fails h ..
  · exact sound_succeeds (sound_toHost h ..) ..

theorem sound_offerP (h : d.Sound) (cmd idx sub : Nat) (b : Bytes) : (offerP cmd idx sub b d).Sound := by
  unfold offerP
  split
  · exact sound_queueP (sound_busy h ..) ..
  split
  · exact sound_succeeds h ..
  split
  · exact sound_fails (sound_throttle h ..) ..
  · exact sound_queueP (sound_busy (sound_takeToken h ..) ..) ..

theorem sound_odWriteOp (h : d.Sound) (v : Variant) (cmd : Nat) (value : HostRead) : (odWriteOp v cmd value d).Sound := by
  unfold odWriteOp
  split
  · exact h
  next c _ =>
    extract_lets idx sub names early readFailed
    split
    · exact h
    split
    · exact sound_fails h ..
    split
    · exact sound_fails h ..
    split
    · exact sound_fails h ..
    extract_lets st
    split
    · exact sound_fails h ..
    split
    · exact sound_offerP h ..
    · exact sound_succeeds (sound_storeValue h ..) ..

theorem sound_reqDone (h : d.Sound) (r : OdReq) (st : BitVec 8) : (reqDone r st d).Sound := by
  unfold reqDone
  split
  · split
    · exact sound_succeeds h ..
    · exact sound_fails h ..
  · exact h

theorem sound_ownRequest {eff : Dev → BitVec 8 × Dev} (h : d.Sound) (v : Variant) (r : OdReq) (idx : Nat) (heff : (eff d).2.Sound) :
    (ownRequest v r idx eff d).Sound := by
  unfold ownRequest
  dsimp only
  split
  · exact h
  split
  · exact sound_reqDone h ..
  split
  · exact sound_reqDone h ..
  split
  · exact sound_reqDone h ..
  · exact sound_reqDone heff ..

/-! ### The fabric (chapter 10) -/

theorem sound_sendNow (h : d.Sound) (h0 : Hop) (f : Frame) : (sendNow h0 f d).Sound :=
  sound_count (sound_count (sound_count (sound_count (sound_emit (sound_setHop h ..) ..) ..) ..) ..) ..

theorem sound_offerPlain (h : d.Sound) (h0 : Hop) (f : Frame) : (offerPlain h0 f d).Sound := by
  unfold offerPlain
  dsimp only
  split
  · exact sound_count h ..
  split
  · exact sound_sendNow h ..
  · exact sound_count (sound_setHop h ..) ..

theorem sound_arrive (h : d.Sound) (g : Frame) : (arrive g d).Sound := by
  unfold arrive
  split
  · exact sound_other h ..
  · exact h

theorem sound_offer (h : d.Sound) (v : Variant) (h1 : Hop) (f : Frame) : (offer v h1 f d).Sound := by
  unfold offer
  dsimp only
  split
  · exact sound_elim (sound_arrive (sound_offerPlain h ..) ..) fun _ => sound_offerPlain (sound_other (sound_offerPlain h ..) ..) ..
  · exact sound_offerPlain h ..

theorem sound_frameSendOp (h : d.Sound) (v : Variant) (h1 : Hop) (f : Frame) : (frameSendOp v h1 f d).Sound := by
  unfold frameSendOp
  dsimp only
  split
  · exact h
  split
  · exact sound_offer (sound_other h ..) ..
  split
  · exact h
  · exact sound_offer (sound_other h ..) ..

theorem sound_frameReceiveOp (h : d.Sound) (v : Variant) (h1 : Hop) (f : Frame) (errs : List Nat) : (frameReceiveOp v h1 f errs d).Sound := by
  unfold frameReceiveOp
  dsimp only
  split
  · exact h
  split
  · exact h
  split
  · exact sound_count (sound_setHop h ..) ..
  · exact sound_setHop h ..

theorem sound_frameReplayOp (h : d.Sound) (v : Variant) (h1 : Hop) : (frameReplayOp v h1 d).Sound := by
  unfold frameReplayOp
  dsimp only
  split
  · exact sound_count (sound_foldl (sound_setHop h ..) _ _ fun _ _ he => sound_emit he ..) ..
  · exact h

theorem sound_giveCredit (h : d.Sound) (h0 : Hop) (cls : Nat) : (giveCredit h0 cls d).Sound := by
  unfold giveCredit
  dsimp only
  split
  · exact sound_setHop h ..
  · exact sound_sendNow (sound_setHop h ..) ..

theorem sound_leaveSlot (h : d.Sound) (h0 : Hop) (cls : Nat) : (leaveSlot h0 cls d).Sound := by
  unfold leaveSlot
  split
  · exact h
  dsimp only
  split
  · exact sound_modHop h ..
  · exact sound_giveCredit (sound_modHop h ..) ..

theorem sound_deliver (h : d.Sound) (h0 : Hop) (g : Frame) : (deliver h0 g d).Sound := sound_leaveSlot (sound_arrive h ..) ..

theorem sound_stall (h : d.Sound) (h0 : Hop) (cls : Nat) (o : Hop) : (stall h0 cls o d).Sound := by
  unfold stall
  split
  · exact h
  · exact sound_count (sound_modHop h ..) ..

theorem sound_moveOn (h : d.Sound) (v : Variant) (h1 : Hop) (g : Frame) (o : Hop) : (moveOn v h1 g o d).Sound := by
  unfold moveOn
  split
  · exact sound_offer (sound_leaveSlot h ..) ..
  split
  · exact sound_stall h ..
  split
  · exact sound_offer (sound_leaveSlot h ..) ..
  · exact h

theorem sound_drainWait (h : d.Sound) (h0 : Hop) : (drainWait h0 d).Sound :=
  sound_foldl h _ _ fun _ _ he => sound_ite (sound_sendNow (sound_setHop he ..) ..) he

theorem sound_advertise (h : d.Sound) (h0 : Hop) : (advertise h0 d).Sound := sound_drainWait (sound_setHop h ..) ..

theorem sound_creditReturnOp (h : d.Sound) (v : Variant) (h1 : Hop) (cls : Nat) : (creditReturnOp v h1 cls d).Sound := by
  unfold creditReturnOp
  dsimp only
  split
  · exact h
  split
  · split
    · exact h
    · exact sound_advertise h ..
  split
  · exact h
  split
  · exact h
  split
  · exact sound_moveOn h ..
  split
  · exact h
  · exact sound_deliver h ..

theorem sound_sendCopy (h : d.Sound) (g : Frame) (e : Hop × List Nat) : (sendCopy g d e).Sound := by
  unfold sendCopy
  dsimp only
  split
  · exact sound_count h ..
  · exact sound_sendNow (sound_count h ..) ..

theorem sound_multicastForwardOp (h : d.Sound) (v : Variant) (h1 : Hop) (cls : Nat) (outs : List Hop) :
    (multicastForwardOp v h1 cls outs d).Sound := by
  unfold multicastForwardOp
  split
  · exact h
  dsimp only
  split
  · exact h
  split
  · exact sound_stall h ..
  split
  · exact h
  · exact sound_leaveSlot (sound_foldl h _ _ fun _ _ he => sound_sendCopy he ..) ..

theorem sound_reroute (h : d.Sound) (v : Variant) (h1 : Hop) (f : Frame) : (reroute v h1 d f).Sound := by
  unfold reroute
  dsimp only
  split
  · exact h
  · exact sound_foldl (sound_modHop h ..) _ _ fun _ _ he => sound_offer he ..

theorem sound_isolateFacet (h : d.Sound) (f : Nat) : (isolateFacet f d).Sound :=
  sound_other (sound_raiseOut (sound_loseIssuers h _) ..) ..

theorem sound_fabricHopFailOp (h : d.Sound) (v : Variant) (h1 : Hop) : (fabricHopFailOp v h1 d).Sound := by
  unfold fabricHopFailOp
  dsimp only
  split
  · split
    · exact h
    · exact h
    · exact sound_foldl h _ _ fun _ _ he => sound_reroute he ..
  split
  · exact h
  split
  · exact sound_isolateFacet (sound_post (sound_setHop h ..) ..) ..
  · exact sound_isolateFacet (sound_post (sound_setHop h ..) ..) ..
  split
  · exact sound_post (sound_setHop h ..) ..
  · exact sound_post (sound_setHop h ..) ..
  · exact sound_foldl (sound_post (sound_setHop h ..) ..) _ _ fun _ _ he => sound_reroute he ..

theorem sound_fabricStallOp (h : d.Sound) (v : Variant) (h1 : Hop) (waited : Nat) : (fabricStallOp v h1 waited d).Sound := by
  unfold fabricStallOp
  split
  · exact sound_postOnce h ..
  · exact h

theorem sound_hopEndLost (h : d.Sound) (h0 : Hop) (receiver : Bool) : (hopEndLost h0 receiver d).Sound := sound_modHop h ..

theorem sound_resetHops (h : d.Sound) (v : Variant) (t : Target) : (resetHops v t d).Sound := sound_foldl h _ _ fun _ _ he => sound_hopEndLost he ..

theorem sound_readRequestOp (h : d.Sound) (v : Variant) (unit room : Nat) : (readRequestOp v unit room d).Sound := by
  unfold readRequestOp
  split
  · exact h
  · refine sound_ite ?_ h
    cases hr : reserveRoom unit room d with
    | none => exact h
    | some e => exact sound_emit (sound_other (sound_reserveRoom h unit room e hr) ..) ..

/-! ### Link frames -/

theorem sound_enterTrain (h : d.Sound) (l : Nat) : (enterTrain l d).Sound := sound_count (sound_modLink h ..) ..

theorem sound_enterResync (h : d.Sound) (l : Nat) : (enterResync l d).Sound := sound_modLink h ..

theorem sound_enterDown (h : d.Sound) (l : Nat) : (enterDown l d).Sound := sound_modLink h ..

theorem sound_linkLost (h : d.Sound) (l : Nat) : (linkLost l d).Sound := sound_modLink h ..

theorem sound_startLink (h : d.Sound) (v : Variant) (l : Nat) : (startLink v l d).Sound := by
  unfold startLink
  split
  · exact sound_enterTrain h ..
  · exact h

theorem sound_applyEnable (h : d.Sound) (v : Variant) (l : Nat) (on : Bool) : (applyEnable v l on d).Sound := by
  unfold applyEnable
  split
  · exact sound_startLink h ..
  · exact sound_modLink h ..

theorem sound_remoteAnswer (h : d.Sound) (r : RemoteReq) (b : Bytes) (st : Option (BitVec 8)) : (remoteAnswer r b st d).Sound := by
  unfold remoteAnswer
  dsimp only
  split
  · exact sound_other (sound_emit h ..) ..
  · exact sound_emit h ..

theorem sound_failRemote (h : d.Sound) (r : RemoteReq) (st : BitVec 8) : (failRemote r st d).Sound := by
  unfold failRemote
  dsimp only
  split
  · exact sound_failTile (sound_remoteAnswer h ..) ..
  · exact sound_remoteAnswer h ..

theorem sound_settleLost (h : d.Sound) (l : Nat) : (settleLost l d).Sound := sound_foldl (sound_setLink h ..) _ _ fun _ _ he => sound_failRemote he ..

theorem sound_setBundle (h : d.Sound) (b : Bundle) : (Dev.setBundle d b).Sound := sound_other h ..

theorem sound_putFrame (h : d.Sound) (l : Nat) (f : LinkFrame) : (putFrame l f d).Sound := sound_count (sound_emit (sound_setLink h ..) ..) ..

theorem sound_sendRequest (h : d.Sound) (v : Variant) (l : Nat) (r : RemoteReq) : ∀ e ∈ sendRequest v l r d, e.Sound := by
  intro e he
  obtain ⟨tag, -, ht⟩ := Option.bind_eq_some_iff.mp he
  split at ht
  · cases ht
    exact sound_putFrame (sound_modLink h ..) ..
  · exact nomatch ht

theorem sound_countWaits (h : d.Sound) (hub group : Nat) (peer : BitVec 64) : (countWaits hub group peer d).Sound := by
  unfold countWaits
  dsimp only
  split
  · exact sound_foldl h _ _ fun _ _ he => sound_elim he fun _ => sound_count he ..
  · exact sound_setBundle (sound_foldl h _ _ fun _ _ he => sound_elim he fun _ => sound_count he ..) ..

theorem sound_drainHeld (h : d.Sound) (v : Variant) (hub group : Nat) (peer : BitVec 64) : (drainHeld v hub group peer d).Sound := by
  unfold drainHeld
  dsimp only
  split
  · exact h
  refine sound_countWaits (sound_setBundle (sound_foldl_snd_snd (by exact h) _ _ fun r q hr => ?_) _) ..
  split
  · exact hr
  split
  · exact hr
  split
  next d1 h1 => exact sound_sendRequest hr _ _ _ d1 h1
  · exact hr

theorem sound_rebuild (h : d.Sound) (v : Variant) (hub group : Nat) (peer : BitVec 64) : (rebuild v hub group peer d).Sound := by
  unfold rebuild
  dsimp only
  split
  · exact sound_drainHeld (sound_setBundle (sound_foldl h _ _ fun _ _ he => sound_modLink he ..) ..) ..
  split
  · exact sound_setBundle h ..
  · exact h

theorem sound_replayAll (h : d.Sound) (l : Nat) : (replayAll l d).Sound :=
  sound_count (sound_foldl (sound_setLink h ..) _ _ fun _ _ he => sound_emit he ..) ..

theorem sound_ackFrames (h : d.Sound) (l ackseq : Nat) : (ackFrames l ackseq d).Sound := sound_modLink h ..

/-! ### Links (chapter 12) -/

theorem sound_serveAccess (h : d.Sound) (v : Variant) (al : Alloc) (f : LinkFrame) : (serveAccess v al f d).2.2.Sound := by
  unfold serveAccess
  split
  · exact sound_devWrite h ..
  · exact sound_devRead h ..
  · exact sound_foldl_snd_snd h _ _ fun _ _ he => sound_devAccess he ..
  · exact sound_foldl_snd_snd h _ _ fun _ _ he => sound_devAccess he ..
  · exact sound_devAccess h ..

theorem sound_answerRequest (h : d.Sound) (v : Variant) (l : Nat) : (answerRequest v l d).Sound := by
  unfold answerRequest
  split
  · exact h
  split
  · exact h
  split
  · split
    · exact sound_count (sound_modLink h ..) ..
    · exact h
  dsimp only
  split
  · exact sound_putFrame (sound_count (sound_modLink h ..) ..) ..
  · exact sound_settlePins (sound_putFrame (sound_serveAccess (sound_modLink h ..) ..) ..) ..

theorem sound_linkDataFrameTxOp (h : d.Sound) (v : Variant) (l : Nat) (req : Option RemoteReq) : (linkDataFrameTxOp v l req d).Sound := by
  unfold linkDataFrameTxOp
  split
  · exact sound_answerRequest h ..
  next r =>
    have hhold := sound_countWaits (sound_setBundle h
      { d.bundle (linkHub l) (linkGrp l) r.peer with held := (d.bundle (linkHub l) (linkGrp l) r.peer).held ++ [r] })
      (linkHub l) (linkGrp l) r.peer
    dsimp only
    split
    · exact h
    split
    · exact hhold
    split
    · exact h
    split
    · exact hhold
    · cases hs : sendRequest v l r d with
      | none => exact hhold
      | some e => exact sound_sendRequest h v l r e hs

theorem sound_takeAnswer (h : d.Sound) (l : Nat) (f : LinkFrame) : (takeAnswer l f d).Sound := by
  unfold takeAnswer
  split
  · exact h
  dsimp only
  split
  · exact sound_failRemote (sound_modLink h ..) ..
  split
  · split
    · exact sound_ackWrite (sound_remoteAnswer (sound_modLink h ..) ..) ..
    · exact sound_remoteAnswer (sound_modLink h ..) ..
  · exact sound_remoteAnswer (sound_modLink h ..) ..

theorem sound_linkDataFrameRxOp (h : d.Sound) (v : Variant) (l : Nat) (f : LinkFrame) : (linkDataFrameRxOp v l f d).Sound := by
  unfold linkDataFrameRxOp
  dsimp only
  split
  · exact h
  split
  · exact sound_count (sound_setLink (sound_count h ..) ..) ..
  split
  · split
    · exact sound_count (sound_setLink (sound_count h ..) ..) ..
    · exact sound_takeAnswer (sound_count (sound_setLink (sound_count h ..) ..) ..) ..
  split
  · exact sound_count h ..
  · exact sound_count (sound_setLink (sound_count h ..) ..) ..

theorem sound_linkControlFrameTxOp (h : d.Sound) (v : Variant) (l idleUs : Nat) : (linkControlFrameTxOp v l idleUs d).Sound := by
  unfold linkControlFrameTxOp
  dsimp only
  split
  · exact h
  split
  · exact sound_emit (sound_setLink h ..) ..
  · exact h

theorem sound_drainLink (h : d.Sound) (v : Variant) (l : Nat) : (drainLink v l d).Sound := by
  unfold drainLink
  dsimp only
  split
  · exact sound_rebuild h ..
  · exact sound_drainHeld h ..

theorem sound_linkControlFrameRxOp (h : d.Sound) (v : Variant) (l : Nat) (f : CtlFrame) : (linkControlFrameRxOp v l f d).Sound := by
  unfold linkControlFrameRxOp
  dsimp only
  split
  · exact h
  split
  · split
    · exact sound_enterResync h ..
    split
    · exact sound_postOnce (sound_count h ..) ..
    split
    · exact sound_enterResync h ..
    · exact sound_drainLink (sound_ite (sound_replayAll (sound_ackFrames (sound_setLink h ..) ..) ..) (sound_ackFrames (sound_setLink h ..) ..)) ..
  split
  · exact sound_drainLink (sound_replayAll (sound_ackFrames (sound_setLink h ..) ..) ..) ..
  · exact h

theorem sound_linkReplayTimeoutOp (h : d.Sound) (v : Variant) (l elapsed : Nat) : (linkReplayTimeoutOp v l elapsed d).Sound := by
  unfold linkReplayTimeoutOp
  split
  · exact sound_replayAll h ..
  · exact h

theorem sound_linkRetrainOp (h : d.Sound) (l : Nat) : (linkRetrainOp l d).Sound := by
  unfold linkRetrainOp
  split
  · exact sound_enterTrain h ..
  · exact h

theorem sound_linkAliveTimeoutOp (h : d.Sound) (v : Variant) (l elapsed : Nat) : (linkAliveTimeoutOp v l elapsed d).Sound := by
  unfold linkAliveTimeoutOp
  split
  · exact sound_enterResync h ..
  · exact h

theorem sound_linkResyncTimeoutOp (h : d.Sound) (l elapsed : Nat) : (linkResyncTimeoutOp l elapsed d).Sound := by
  unfold linkResyncTimeoutOp
  split
  · exact sound_enterTrain h ..
  · exact h

theorem sound_linkTrainingEndOp (h : d.Sound) (v : Variant) (l : Nat) (trained : BitVec 4) (locked : Bool) :
    (linkTrainingEndOp v l trained locked d).Sound := by
  unfold linkTrainingEndOp
  dsimp only
  split
  · exact h
  split
  · exact sound_setLink h ..
  split
  · exact sound_enterDown (sound_modLink (sound_setLink h ..) ..) ..
  · exact sound_enterTrain (sound_setLink h ..) ..

theorem sound_postUp (h : d.Sound) (l : Nat) : (postUp l d).Sound := sound_post h ..

theorem sound_linkUp (h : d.Sound) (v : Variant) (l : Nat) (rec : CapRecord) (loopNs : Nat) : (linkUp v l rec loopNs d).Sound :=
  sound_rebuild (sound_ite (sound_postUp (sound_ite (sound_replayAll (sound_ackFrames (sound_setLink (sound_other h ..) ..) ..) ..) (sound_setLink
      (sound_other h ..) ..)) ..) (sound_rebuild (sound_postUp (sound_ite (sound_replayAll (sound_ackFrames (sound_setLink (sound_other h ..) ..)
      ..) ..) (sound_setLink (sound_other h ..) ..)) ..) ..)) ..

theorem sound_linkCapabilityTxOp (h : d.Sound) (v : Variant) (l : Nat) : (linkCapabilityTxOp v l d).Sound := by
  unfold linkCapabilityTxOp
  dsimp only
  split
  · split
    · exact sound_linkUp (sound_emit (sound_setLink h ..) ..) ..
    · exact sound_emit (sound_setLink h ..) ..
  · exact h

theorem sound_linkCapabilityRxOp (h : d.Sound) (v : Variant) (l : Nat) (rec : CapRecord) (loopNs : Nat) :
    (linkCapabilityRxOp v l rec loopNs d).Sound := by
  unfold linkCapabilityRxOp
  dsimp only
  split
  · exact h
  split
  · exact sound_post (sound_enterDown h ..) ..
  split
  · exact sound_post (sound_enterDown h ..) ..
  split
  · exact sound_setLink h ..
  split
  · exact sound_linkUp h ..
  · exact sound_setLink h ..

theorem sound_linkExchangeTimeoutOp (h : d.Sound) (l elapsed : Nat) : (linkExchangeTimeoutOp l elapsed d).Sound := by
  unfold linkExchangeTimeoutOp
  split
  · exact sound_enterTrain h ..
  · exact h

theorem sound_linkLaneLossOp (h : d.Sound) (l lane : Nat) : (linkLaneLossOp l lane d).Sound := by
  unfold linkLaneLossOp
  dsimp only
  split
  · exact sound_enterTrain (sound_setLink h ..) ..
  · exact h

theorem sound_linkDownRetryOp (h : d.Sound) (v : Variant) (l : Nat) : (linkDownRetryOp v l d).Sound := by
  unfold linkDownRetryOp
  dsimp only
  split
  · exact sound_enterTrain (sound_mark h ..) ..
  · exact h

theorem sound_linkDownOp (h : d.Sound) (l : Nat) : (linkDownOp l d).Sound := by
  unfold linkDownOp
  split
  · exact sound_settleLost h ..
  · exact h

theorem sound_bundleWaitExpiryOp (h : d.Sound) (hub group : Nat) (peer : BitVec 64) (elapsed : Nat) :
    (bundleWaitExpiryOp hub group peer elapsed d).Sound := by
  unfold bundleWaitExpiryOp
  dsimp only
  split
  · exact sound_foldl (sound_setBundle h ..) _ _ fun _ _ he => sound_failRemote he ..
  · exact h

/-! ### Resets -/

theorem sound_resetWedge (h : d.Sound) (w : Nat) : (resetWedge w d).Sound :=
  sound_setSbank (sound_modWedge (sound_setQuant (sound_loseIssuers (sound_loseTiles h ..) ..) ..) ..) ..

theorem sound_wakeWedge (h : d.Sound) (w : Nat) : (wakeWedge w d).Sound :=
  sound_setSbank (sound_modWedge (sound_other (sound_dropAllRepairs (sound_resetWedge h ..) ..) ..) ..) ..

theorem sound_resetMacro (h : d.Sound) (m : Nat) : (resetMacro m d).Sound := sound_loseTiles h ..

theorem sound_resetEngine (h : d.Sound) (e : Nat) : (resetEngine e d).Sound :=
  sound_odLoseUnit (sound_setQuant (sound_setEngine (sound_loseTiles h ..) ..) ..) ..

theorem sound_resetLane (h : d.Sound) (e n : Nat) : (resetLane e n d).Sound := sound_setLane (sound_loseTiles h ..) ..

theorem sound_resetCore (h : d.Sound) (h0 c : Nat) : (resetCore h0 c d).Sound :=
  sound_setSbank (sound_loseIssuers (sound_loseTiles h ..) ..) ..

theorem sound_wakeControl (h : d.Sound) (hub : Nat) : (wakeControl hub d).Sound := by
  have hforget (e : Dev) (he : e.Sound) (t : Tab Band) : Dev.Sound { e with pred := t } := he.congr
  exact hforget _ (sound_foldl h _ _ fun _ _ he => sound_setSbank (sound_resetCore he ..) ..) _

theorem sound_resetCe (h : d.Sound) (n : Nat) : (resetCe n d).Sound := sound_setCe h ..

theorem sound_dropCommand (h : d.Sound) (c : Cmd) : (dropCommand c d).Sound := by
  unfold dropCommand
  split
  · exact sound_other (sound_abandonLoad h _) ..
  · exact sound_other h ..

theorem sound_resetControlOf (h : d.Sound) (v : Variant) (cores : List Nat) (hub : Nat) : (resetControlOf v cores hub d).Sound := by
  have hkept (e : Dev) (he : e.Sound) (l : List Hint) (t : Tab Band) : Dev.Sound { e with pow := { e.pow with hints := l }, pred := t } :=
    he.congr
  refine sound_odLoseUnit (sound_resetHops (hkept _ (sound_modRegion ?_ ..) ..) ..) _
  refine sound_foldl ?_ _ _ fun _ _ he => sound_resetHops (sound_resetCe he _) ..
  refine sound_foldl ?_ _ _ fun _ _ he => sound_resetHops (sound_resetCore he ..) ..
  exact sound_loseTiles (sound_foldl h _ _ fun _ _ he => sound_fails (sound_dropCommand he _) ..) ..

theorem sound_resetControl (h : d.Sound) (v : Variant) (h1 : Nat) : (resetControl v h1 d).Sound := sound_resetControlOf h ..

theorem sound_resetLink (h : d.Sound) (v : Variant) (l : Nat) : (resetLink v l d).Sound := sound_startLink (sound_linkLost h ..) ..

theorem sound_resetGroup (h : d.Sound) (v : Variant) (h1 g : Nat) : (resetGroup v h1 g d).Sound :=
  sound_foldl (sound_resetHops (sound_foldl h _ _ fun _ _ he => sound_foldl (sound_setBundle he ..) _ _ fun _ _ he' => sound_failRemote (he') ..)
      ..) _ _ fun _ _ he => sound_odLoseUnit (sound_resetLink he ..) ..

theorem sound_losePortEntries (h : d.Sound) (h0 : Nat) : (losePortEntries h0 d).Sound := sound_other (sound_odDrop h ..) ..

theorem sound_resetPort (h : d.Sound) (p : Nat) : (resetPort p d).Sound := by
  unfold resetPort
  dsimp only
  refine sound_count (sound_losePortEntries (sound_setPort (sound_settlePins (sound_other ?_ ..)) p (by exact ⟨rfl, rfl, rfl⟩)) _) ..
  refine sound_foldl ?_ _ _ fun _ _ he => sound_releaseDesc he _
  refine sound_sublist ?_ List.filter_sublist List.filter_sublist
  refine sound_foldl ?_ _ _ fun _ _ he => sound_dropCommand he _
  exact sound_foldl h _ _ fun _ _ he => sound_abortJobNow (sound_modJob he ..) _

theorem sound_trainPort (h : d.Sound) (p : Nat) : (trainPort p d).Sound := sound_drawn (sound_modPort h _)

theorem sound_trainIfFree (h : d.Sound) (v : Variant) (h1 : Nat) : (trainIfFree v h1 d).Sound := by
  unfold trainIfFree
  split
  · exact sound_trainPort h ..
  · exact h

theorem sound_resetFacet (h : d.Sound) (v : Variant) (f : Nat) : (resetFacet v f d).Sound :=
  sound_odLoseUnit (sound_resetHops (sound_foldl (sound_loseTiles h ..) _ _ fun _ _ he => sound_resetWedge he ..) ..) ..

theorem sound_resetHub (h : d.Sound) (v : Variant) (h1 : Nat) : (resetHub v h1 d).Sound :=
  sound_resetHops (sound_resetPort (sound_resetControl (sound_foldl (sound_foldl (sound_foldl (sound_foldl (sound_loseTiles h ..) _ _ fun _ _ he =>
      sound_resetFacet he ..) _ _ fun _ _ he => sound_resetHops (sound_resetEngine he ..) ..) _ _ fun _ _ he => sound_resetHops (sound_resetSlice he
      ..) ..) _ _ fun _ _ he => sound_resetGroup he ..) ..) ..) ..

theorem sound_resetUnit (h : d.Sound) (v : Variant) (t : Target) : (resetUnit v t d).Sound := by
  unfold resetUnit
  split
  · exact sound_resetWedge h ..
  · exact sound_resetMacro h ..
  · exact sound_resetFacet h ..
  · exact sound_resetHops (sound_resetEngine h ..) ..
  · exact sound_resetLane h ..
  · exact sound_resetHops (sound_resetSlice h ..) ..
  · exact sound_resetControl h ..
  · exact h
  · exact sound_odLoseUnit (sound_resetLink h ..) ..
  · exact sound_resetGroup h ..
  · exact sound_resetHops (sound_resetPort h ..) ..
  · exact sound_resetHops (sound_resetCe h ..) ..
  · exact h
  · exact sound_resetHub h ..

theorem sound_loseWork (h : d.Sound) : (loseWork d).Sound := by
  unfold loseWork
  dsimp only
  refine Dev.Sound.congr (sound_sublist (sound_foldl ?_ _ _ fun _ _ he => sound_removeTile he _) (List.nil_sublist _) (List.nil_sublist _))
  exact sound_foldl h _ _ fun _ _ he => sound_abandonLoad he _

theorem tget_map_of_default {α : Type} {z : α} {g : α → α} {P : α → Prop} (hz : P z) (hg : ∀ a, P (g a)) (t : Tab α) (k : Nat) :
    P (tget z (t.map fun e => (e.1, g e.2)) k) := by
  unfold tget
  induction t with
  | nil => exact hz
  | cons e t ih =>
    rw [List.map_cons, tfind]
    split
    · exact hg _
    · exact ih

theorem sound_resetHubs (h : d.Sound) : (resetHubs d).Sound := by
  have hport (p : Nat) : ((resetHubs d).port p).Wf :=
    tget_map_of_default (z := ({} : HostPort)) (g := fun _ => ({ resetting := true } : HostPort)) (P := HostPort.Wf) ⟨rfl, rfl, rfl⟩ (fun _ =>
        ⟨rfl, rfl, rfl⟩) d.ports p
  exact { stack := h.stack, stby := h.stby, spad := h.spad, msix := fun p => (hport p).1, mailIn := fun p => (hport p).2.1,
          mailOut := fun p => (hport p).2.2, ids := h.ids, fresh := h.fresh, flight := h.flight, ring := h.ring, tokens := h.tokens }

theorem sound_resetSlices (h : d.Sound) : (resetSlices d).Sound := sound_foldl h _ _ fun _ _ he => sound_resetSlice he ..

theorem sound_loseCursors (h : d.Sound) : (loseCursors d).Sound := sound_other h ..

theorem sound_loseStaging (h : d.Sound) : (loseStaging d).Sound := sound_other h ..

theorem sound_holdModule (h : d.Sound) (v : Variant) : (holdModule v d).Sound :=
  sound_setSeq (sound_resetHubs (sound_resetSlices (sound_loseWork h))) _

theorem sound_loseQV (h : d.Sound) : (loseQV d).Sound := sound_other (sound_loseStaging (sound_loseCursors (sound_odDrop h ..) ..) ..) ..

theorem sound_loseMain (h : d.Sound) : (loseMain d).Sound := sound_odDrop h ..

theorem sound_loseContents (h : d.Sound) : (loseContents d).Sound := by
  have h1 := sound_setSpad (sound_setStack (sound_dropAllRepairs h fun _ => true) (m := []) rfl) (m := []) rfl
  exact h1.congr

theorem sound_mainDown (h : d.Sound) (v : Variant) : (mainDown v d).Sound :=
  sound_other (sound_loseMain (sound_loseContents (sound_resetHubs (sound_loseWork h ..) ..) ..) ..) ..

/-! ### Power states -/

theorem sound_leaveRun (h : d.Sound) (k : Nat) : (leaveRun k d).Sound := by
  unfold leaveRun
  split
  · exact sound_foldl h _ _ fun _ _ he => sound_linkLost he ..
  · exact h

theorem sound_beginMove (h : d.Sound) (k : Nat) (st : PState) : (beginMove k st d).Sound := by
  unfold beginMove
  dsimp only
  split
  · exact sound_modRegion (sound_ite (sound_leaveRun (sound_setDom h ..) ..) (sound_setDom h ..)) ..
  split
  · exact sound_leaveRun (sound_setDom h ..) ..
  · exact sound_setDom h ..

theorem sound_requestDom (h : d.Sound) (st : PState) (k : Nat) : (requestDom st k d).Sound := by
  unfold requestDom
  dsimp only
  split
  · exact sound_setDom h ..
  split
  · split
    · exact sound_setDom h ..
    · exact h
  split
  · exact sound_setDom h ..
  · exact sound_beginMove h ..

theorem sound_nextWake (h : d.Sound) (hub : Nat) : (nextWake hub d).Sound := by
  unfold nextWake
  split
  · exact sound_elim h fun _ => sound_requestDom h ..
  · exact h

theorem sound_powerEffect (h : d.Sound) (v : Variant) (src : Source) (b : Bytes) : (powerEffect v src b d).2.Sound := by
  unfold powerEffect
  dsimp only
  split
  · exact h
  split
  · exact h
  · exact sound_foldl h _ _ fun _ _ he => sound_requestDom he ..

theorem sound_powerRequestOp (h : d.Sound) (v : Variant) (r : OdReq) : (powerRequestOp v r d).Sound :=
  sound_ownRequest h _ _ _ (sound_powerEffect h ..)

theorem sound_endLoadsOn (h : d.Sound) (w : Nat) : (endLoadsOn w d).Sound := sound_foldl h _ _ fun _ _ he => sound_fails (sound_abandonLoad he ..) ..

theorem sound_recordWedge (h : d.Sound) (w : Nat) : (recordWedge w d).Sound := by
  unfold recordWedge
  exact sound_modWedge h ..

theorem sound_drainDoneOp (h : d.Sound) (v : Variant) (k : Nat) : (drainDoneOp v k d).Sound := by
  unfold drainDoneOp
  dsimp only
  split
  · split
    · exact sound_writeBackSlice (sound_setDom h ..) ..
    · exact sound_setDom h ..
  · exact h

theorem sound_loseHomes (h : d.Sound) (p : Nat → Bool) : (loseHomes p d).Sound := sound_foldl h _ _ fun _ _ he => sound_failJob he ..

theorem sound_issuersOff (h : d.Sound) (p : Nat → Bool) : (issuersOff p d).Sound :=
  sound_loseHomes (sound_raiseOut (sound_loseIssuers (sound_loseTiles h ..) _) ..) _

theorem sound_reachOff (h : d.Sound) (v : Variant) (k : Nat) : (reachOff v k d).Sound := by
  unfold reachOff
  split
  · exact sound_modWedge (sound_issuersOff (sound_recordWedge (sound_endLoadsOn h _) _) _) ..
  · exact sound_odLoseUnit (sound_resetHops h ..) _
  · exact sound_resetHops (sound_resetEngine h _) ..
  · exact sound_resetHops (sound_resetSlice h _) ..
  · exact sound_setStack h (memWf_tdrop _ _ h.stack)
  · exact sound_resetGroup h ..
  · exact sound_modPort (sound_resetHops (sound_resetPort h _) ..) _
  · exact sound_issuersOff (sound_resetControl h ..) _
  · exact h

theorem sound_wakeOff (h : d.Sound) (v : Variant) (k : Nat) : (wakeOff v k d).Sound := by
  unfold wakeOff
  split
  · exact sound_wakeWedge h ..
  · exact sound_resetHops h ..
  · exact sound_resetHops (sound_resetEngine h ..) ..
  · exact sound_resetHops (sound_emptySlice h ..) ..
  · exact sound_foldl (sound_resetHops h ..) _ _ fun _ _ he => sound_startLink he ..
  · exact sound_trainIfFree (sound_resetHops h ..) ..
  · exact sound_wakeControl (sound_resetHops h ..) ..
  · exact h

theorem sound_reachRetain (h : d.Sound) (k : Nat) : (reachRetain k d).Sound := by
  unfold reachRetain
  split
  · exact sound_resetSlice h ..
  · exact h

theorem sound_reachState (h : d.Sound) (v : Variant) (k : Nat) (tgt : PState) : (reachState v k tgt d).Sound := by
  unfold reachState
  dsimp only
  split
  · exact sound_reachOff (sound_ite (sound_wakeOff (sound_setDom h ..) ..) (sound_setDom h ..)) ..
  · exact sound_reachRetain (sound_ite (sound_wakeOff (sound_setDom h ..) ..) (sound_setDom h ..)) ..
  · split
    · exact sound_wakeOff (sound_setDom h ..) ..
    · exact sound_setDom h ..
  split
  · exact sound_wakeOff (sound_setDom h ..) ..
  · exact sound_setDom h ..

theorem sound_transitionDoneOp (h : d.Sound) (v : Variant) (k : Nat) : (transitionDoneOp v k d).Sound := by
  unfold transitionDoneOp
  dsimp only
  split
  · exact h
  split
  · exact h
  · refine sound_nextWake ?_ ..
    split
    · exact sound_requestDom (sound_modDom (sound_reachState h ..) ..) ..
    · exact sound_reachState h ..

theorem sound_restoreBank (h : d.Sound) (v : Variant) (m : Nat) (b : Bool) (mat rb cb : Nat) (host : List (Nat × HostRead)) :
    (restoreBank v m b mat rb cb host d).2.Sound := by
  unfold restoreBank
  split
  · exact h
  dsimp only
  split
  · exact sound_rewriteBank (sound_imageRead h ..) ..
  · exact sound_imageRead h ..

theorem sound_verifyBank (h : d.Sound) (m : Nat) (b : Bool) (errs : List (Nat × Nat)) : (verifyBank m b errs d).Sound := by
  unfold verifyBank
  split
  · exact sound_refreshMarks (sound_repairBank h ..) ..
  · exact sound_modMac h ..

theorem sound_reloadFail (h : d.Sound) (m : Nat) : (reloadFail m d).Sound := sound_settleCal (sound_post (sound_modMac h ..) ..) ..

theorem sound_restoreMacro (h : d.Sound) (v : Variant) (m : Nat) (s : Saved) (host : List (Nat × HostRead)) (verify : List VerifyErr) :
    (restoreMacro v m s host verify d).Sound := by
  unfold restoreMacro
  extract_lets keep d1 one a b
  have hone (e : Dev) (he : e.Sound) (k : Bool) (st : BankState) (mat rb cb : Nat) : (one k st mat rb cb e).2.Sound := by
    unfold one
    split
    · exact he
    dsimp only
    split
    · exact sound_verifyBank (sound_restoreBank he ..) ..
    · exact sound_restoreBank he ..
  have hb : b.2.Sound := hone _ (hone _ (sound_modMac h ..) ..) ..
  split
  · exact hb
  · exact sound_reloadFail hb _

theorem sound_replaceCopies (h : d.Sound) (w id : Nat) : (replaceCopies w id d).Sound := by
  unfold replaceCopies
  split
  · exact h
  · exact sound_placeCopies h ..

theorem sound_wakeRestoreOp (h : d.Sound) (v : Variant) (w : Nat) (host : List (Nat × HostRead)) (verify : List VerifyErr) :
    (wakeRestoreOp v w host verify d).Sound := by
  unfold wakeRestoreOp
  dsimp only
  split
  · exact h
  · exact sound_foldl (sound_modWedge (sound_foldl h _ _ fun _ _ he => sound_restoreMacro he ..) ..) _ _ fun _ _ he => sound_replaceCopies he ..

theorem sound_wakeOnDemandOp (h : d.Sound) (v : Variant) (k issuer : Nat) : (wakeOnDemandOp v k issuer d).Sound := by
  unfold wakeOnDemandOp
  split
  · exact sound_requestDom h ..
  · exact h

/-! ### Checks and calibration (chapter 16) -/

theorem sound_payBg (h : d.Sound) (m : Nat) : (payBg m d).Sound := sound_draw (sound_debit h ..) ..

theorem sound_ksumExact (h : d.Sound) (m : Nat) : (ksumExact m d).Sound := by
  unfold ksumExact
  exact sound_modMac (sound_loseTiles (sound_post (sound_count h ..) ..) ..) ..

theorem sound_ksumCurrent (h : d.Sound) (m n : Nat) : (ksumCurrent m n d).Sound := by
  unfold ksumCurrent
  split
  · exact h
  · exact sound_modMac (sound_foldl (sound_count h ..) _ _ fun _ _ he => sound_post he ..) ..

theorem sound_checkCurrent (h : d.Sound) (m pat : Nat) (errs : List (Nat × Nat × ℚ)) : (checkCurrent m pat errs d).Sound := by
  unfold checkCurrent
  dsimp only
  split
  · exact h
  · exact sound_ksumCurrent (sound_modMac (sound_countReads (sound_other h ..) ..) ..) ..

theorem sound_checkStepOp (h : d.Sound) (v : Variant) (m : Nat) (colErrs : List (Nat × Nat × ℤ)) (errs : List (Nat × Nat × ℚ)) (storeUe : Bool) :
    (checkStepOp v m colErrs errs storeUe d).Sound := by
  unfold checkStepOp
  split
  · exact h
  dsimp only
  split
  · exact sound_modMac (sound_countIf (sound_count (sound_payBg h ..) ..) ..) ..
  split
  · exact sound_modMac (sound_modWedge (sound_checkCurrent (sound_countIf (sound_count (sound_payBg h ..) ..) ..) ..) ..) ..
  split
  · exact sound_ksumExact (sound_modMac (sound_checkCurrent (sound_countIf (sound_count (sound_payBg h ..) ..) ..) ..) ..) ..
  · exact sound_modMac (sound_checkCurrent (sound_countIf (sound_count (sound_payBg h ..) ..) ..) ..) ..

theorem sound_checkAgeOp (h : d.Sound) (v : Variant) (m ageMs : Nat) : (checkAgeOp v m ageMs d).Sound := by
  unfold checkAgeOp
  split
  · exact sound_modMac h ..
  · exact h

theorem sound_idleCheckOp (h : d.Sound) (v : Variant) (m elapsedUs : Nat) : (idleCheckOp v m elapsedUs d).Sound := by
  unfold idleCheckOp
  split
  · exact sound_checkStepOp h ..
  · exact h

theorem sound_bankFromImage (h : d.Sound) (v : Variant) (m : Nat) (b : Bool) (host : HostRead) : (bankFromImage v m b host d).2.Sound :=
  sound_restoreBank h ..

theorem sound_macroReloadOp (h : d.Sound) (v : Variant) (m : Nat) (host : HostRead) (verify : List VerifyErr) :
    (macroReloadOp v m host verify d).Sound := by
  unfold macroReloadOp
  dsimp only
  split
  · exact h
  split
  · split
    · exact sound_reloadFail (sound_modMac (sound_bankFromImage h ..) ..) ..
    · exact sound_modMac (sound_modMac (sound_verifyBank (sound_post (sound_count (sound_bankFromImage h ..) ..) ..) ..) ..) ..
  split
  · exact sound_reloadFail (sound_modMac (sound_bankFromImage h ..) ..) ..
  · exact sound_modMac (sound_modMac (sound_verifyBank (sound_post (sound_count (sound_bankFromImage h ..) ..) ..) ..) ..) ..

theorem sound_endLoadsOf (h : d.Sound) (m : Nat) : (endLoadsOf m d).Sound := sound_foldl h _ _ fun _ _ he => sound_fails (sound_abandonLoad he ..) ..

theorem sound_spareBank (h : d.Sound) (v : Variant) (m : Nat) (b : Bool) (host : HostRead) (verify : List VerifyErr) :
    (spareBank v m b host verify d).2.Sound := by
  unfold spareBank
  split
  · dsimp only
    exact sound_modMac h ..
  · dsimp only
    split
    · exact h
    · exact sound_modMac h ..
  dsimp only
  split
  · exact sound_verifyBank (sound_bankFromImage h ..) ..
  · exact sound_bankFromImage h ..

theorem sound_macroRetireOp (h : d.Sound) (v : Variant) (m : Nat) (images : List HostRead) (verify : List VerifyErr) :
    (macroRetireOp v m images verify d).Sound := by
  unfold macroRetireOp
  dsimp only
  split
  · exact h
  split
  · exact sound_endLoadsOf (sound_spareOut h ..) ..
  split
  · exact sound_modMac (sound_spareBank (sound_spareBank (sound_post (sound_fwCount (sound_modMac (sound_modWedge (sound_loseTiles h ..) ..) ..) ..)
      ..) ..) ..) ..
  · exact sound_reloadFail (sound_spareBank (sound_spareBank (sound_post (sound_fwCount (sound_modMac (sound_modWedge (sound_loseTiles h ..) ..) ..)
      ..) ..) ..) ..) ..

theorem sound_payScrub (h : d.Sound) (m : Nat) : (payScrub m d).Sound := sound_other (sound_draw (sound_debit h ..) ..) ..

theorem sound_scrubOp (h : d.Sound) (v : Variant) (m : Nat) (flips : List (Nat × Nat)) : (scrubOp v m flips d).Sound := by
  unfold scrubOp
  dsimp only
  split
  · exact h
  split
  · exact sound_payScrub (sound_modMac h ..) ..
  · exact sound_modMac (sound_foldl (sound_payScrub (sound_modMac h ..) ..) _ _ fun _ _ he => sound_post (sound_count he ..) ..) ..

theorem sound_calibrateOp (h : d.Sound) (v : Variant) (cmd : Nat) : (calibrateOp v cmd d).Sound := by
  unfold calibrateOp
  split
  · exact h
  dsimp only
  split
  · exact sound_succeeds h ..
  · exact sound_waitCmd (sound_foldl (sound_busy h cmd) _ _ fun _ _ he => sound_modMac he ..) _ _

theorem sound_calRequestOp (h : d.Sound) (v : Variant) (m sinceS driftC : Nat) : (calRequestOp v m sinceS driftC d).Sound := by
  unfold calRequestOp
  split
  · exact sound_modMac h ..
  · exact h

theorem sound_calWaitOp (h : d.Sound) (m waitedMs : Nat) : (calWaitOp m waitedMs d).Sound := by
  unfold calWaitOp
  split
  · exact sound_modMac h ..
  · exact h

theorem sound_calStepOp (h : d.Sound) (v : Variant) (m : Nat) (measured : List (Nat × Nat × ℚ)) : (calStepOp v m measured d).Sound := by
  unfold calStepOp
  split
  · exact h
  · exact sound_modMac (sound_countIf (sound_payBg h ..) ..) ..

theorem sound_applyCal (h : d.Sound) (m : Nat) : (applyCal m d).Sound := by
  unfold applyCal
  dsimp only
  split
  · exact sound_post (sound_modMac h ..) ..
  · exact sound_modWedge (sound_modMac h ..) ..

theorem sound_calCompleteOp (h : d.Sound) (v : Variant) (m : Nat) : (calCompleteOp v m d).Sound := by
  unfold calCompleteOp
  dsimp only
  split
  · exact h
  · exact sound_settleCal (sound_ite (sound_modWedge (sound_count (sound_modMac (sound_applyCal h ..) ..) ..) ..) (sound_count (sound_modMac
      (sound_applyCal h ..) ..) ..)) ..

theorem sound_corrEccOp (h : d.Sound) (v : Variant) (w : Nat) (copy : Bool) (index : Nat) : (corrEccOp v w copy index d).Sound := by
  unfold corrEccOp
  split
  · exact h
  split
  · split
    · exact h
    · exact sound_post (sound_foldl (sound_modWedge h ..) _ _ fun _ _ he => sound_startResidues he ..) ..
  split
  · exact sound_post (sound_modMac h ..) ..
  · exact h

theorem sound_rebuildEntryOp (h : d.Sound) (v : Variant) (m index : Nat) : (rebuildEntryOp v m index d).Sound := by
  unfold rebuildEntryOp
  dsimp only
  split
  · exact h
  · exact sound_modMac (sound_modWedge h ..) ..

theorem sound_recomputeOp (h : d.Sound) (v : Variant) (m : Nat) (b : Bool) (host : HostRead) : (recomputeOp v m b host d).Sound := by
  unfold recomputeOp
  dsimp only
  split
  · exact h
  split
  · exact sound_modWedge (sound_modMac h ..) ..
  split
  · exact sound_reloadFail (sound_imageRead h ..) ..
  · exact sound_modWedge (sound_modMac (sound_imageRead h ..) ..) ..

/-! ### The event log -/

theorem sound_signalLog (h : d.Sound) (p : Nat) : (signalLog p d).Sound := by
  unfold signalLog
  split
  · exact sound_msix (sound_mark h ..) ..
  · exact h

theorem sound_signalLogs (h : d.Sound) (v : Variant) : (signalLogs v d).Sound := sound_foldl h _ _ fun _ _ he => sound_signalLog he ..

theorem sound_eventPostOp (h : d.Sound) (v : Variant) (hub : Nat) : (eventPostOp v hub d).Sound := by
  unfold eventPostOp
  split
  · exact h
  split
  · exact h
  dsimp only
  split
  · exact sound_count (sound_other h ..) ..
  · refine sound_signalLogs (sound_setLog h ?_) v
    have hring := h.ring
    dsimp only
    split
    · rw [List.length_drop, List.length_append, List.length_singleton]
      omega
    · omega

theorem sound_ringRequest (h : d.Sound) (v : Variant) (src : Source) (sid sub room : Nat) :
    (ringRequest v src sid sub room d).2.2.Sound := by
  unfold ringRequest
  split
  · exact h
  split
  · exact h
  split
  · exact h
  split
  · exact h
  · exact sound_other h ..

theorem sound_eventRingReadOp (h : d.Sound) (v : Variant) (src : Source) (cmd : Option Nat) (room : Nat) :
    (eventRingReadOp v src cmd room d).Sound := by
  unfold eventRingReadOp
  split
  · split
    · exact h
    · exact sound_ringRequest h ..
  split
  · exact h
  split
  · exact h
  dsimp only
  split
  · split
    · exact sound_fails (sound_ringRequest h ..) ..
    · exact sound_succeeds (sound_ringRequest h ..) ..
  split
  · exact sound_fails (sound_ringRequest h ..) ..
  · exact sound_succeeds (sound_toHost (sound_ringRequest h ..) ..) ..

theorem sound_rolloverOp (h : d.Sound) (v : Variant) (timer periodUs : Nat) : (rolloverOp v timer periodUs d).Sound := by
  unfold rolloverOp
  split
  · split
    · exact h
    dsimp only
    split
    · exact sound_other h ..
    split
    · exact sound_signalLogs (sound_other h ..) ..
    · exact sound_other h ..
  split
  · exact h
  dsimp only
  split
  · exact sound_other h ..
  split
  · exact sound_signalLogs (sound_other h ..) ..
  · exact sound_other h ..

theorem sound_wallTimeOp (h : d.Sound) (v : Variant) (r : OdReq) : (wallTimeOp v r d).Sound := by
  unfold wallTimeOp
  split
  · exact h
  · exact sound_ownRequest h _ _ _ (sound_other h ..)

/-! ### Sessions and keys -/

theorem sound_secureWipe (h : d.Sound) : (secureWipe d).Sound := by
  have hdrop : d.mem.stby.filter (fun e => decide (e.1 < 0xC000)) = tdrop (fun k => !decide (k < 0xC000)) d.mem.stby := by simp [tdrop]
  exact (sound_setStby h (memWf_tdrop (fun k => !decide (k < 0xC000)) _ h.stby)).congr (hstby := hdrop)

theorem sound_closeSessions (h : d.Sound) : (closeSessions d).Sound := sound_other h ..

theorem sound_driveFault (h : d.Sound) : (driveFault d).Sound := sound_other h ..

theorem sound_holdAll (h : d.Sound) (v : Variant) : (holdAll v d).Sound := sound_setSeq (sound_holdModule h v) _

theorem sound_enterSafe (h : d.Sound) (v : Variant) : (enterSafe v d).Sound := by
  unfold enterSafe
  dsimp only
  split
  · exact sound_driveFault (sound_setSeq (sound_holdAll h v) _)
  · exact sound_post (sound_driveFault (sound_setSeq (sound_holdAll h v) _)) ..

theorem sound_leaveSafe (h : d.Sound) : (leaveSafe d).Sound := sound_driveFault (sound_other h ..) ..

theorem sound_keyFault (h : d.Sound) (v : Variant) : (keyFault v d).Sound := sound_enterSafe (sound_post (sound_other h ..) ..) ..

theorem sound_deriveKey (h : d.Sound) (v : Variant) : (deriveKey v d).Sound := by
  unfold deriveKey
  split
  · exact sound_other (sound_drawn h ..) ..
  · exact sound_keyFault (sound_drawn h ..) ..

theorem sound_finishTamper (h : d.Sound) (v : Variant) : (finishTamper v d).Sound := by
  unfold finishTamper
  split
  · exact sound_deriveKey (sound_other h ..) ..
  · exact h

theorem sound_alsoDone (h : d.Sound) (v : Variant) (old new : Nat) : (alsoDone v old new d).Sound := by
  unfold alsoDone
  split
  · dsimp only
    split
    · exact sound_foldl (sound_foldl h _ _ fun _ _ he => sound_fwP he ..) _ _ fun _ _ he => sound_queueP he ..
    · exact sound_foldl h _ _ fun _ _ he => sound_fwP he ..
  · exact h

theorem sound_finishChange (h : d.Sound) (v : Variant) (old new : Nat) : (finishChange v old new d).Sound := by
  unfold finishChange
  dsimp only
  split
  · exact sound_driveFault (sound_holdAll (sound_post (sound_deriveKey (sound_alsoDone (sound_closeSessions (sound_secureWipe h ..) ..) ..) ..) ..)
      ..) ..
  · exact sound_post (sound_deriveKey (sound_alsoDone (sound_closeSessions (sound_secureWipe h ..) ..) ..) ..) ..

theorem sound_clearStaging (h : d.Sound) (src : Nat) : (clearStaging src d).Sound := sound_other h ..

/-! ### The journal (chapter 14) -/

theorem sound_setP (h : d.Sound) (key : Nat) (b : Bytes) : (setP key b d).Sound := by
  unfold setP
  split
  · exact sound_other h ..
  split
  · exact sound_other h ..
  split
  · exact sound_other h ..
  split
  · exact sound_other h ..
  · exact sound_holdP h ..

theorem sound_baseBandWritten (h : d.Sound) (phase old : Nat) : (baseBandWritten phase old d).Sound := sound_other h ..

theorem sound_landP (h : d.Sound) (v : Variant) (key : Nat) (b : Bytes) : (landP v key b d).Sound := by
  unfold landP
  dsimp only
  split
  · exact sound_applyEnable (sound_setP h ..) ..
  split
  · exact sound_baseBandWritten (sound_setP h ..) ..
  · exact sound_setP h ..

theorem sound_settleWrite (h : d.Sound) (v : Variant) (w : JWaiter) (st : BitVec 8) : (settleWrite v w st d).Sound := by
  unfold settleWrite
  split
  · exact h
  · split
    · exact sound_finishTamper h ..
    · exact h
  · split
    · exact sound_succeeds h ..
    · exact sound_fails h ..
  split
  · refine sound_finishChange ?_ ..
    split
    · exact sound_succeeds (sound_clearStaging h ..) ..
    · exact sound_clearStaging h ..
  dsimp only
  split
  · exact sound_fails (sound_other h ..) ..
  · exact sound_other h ..

theorem sound_giveToken (h : d.Sound) : (giveToken d).Sound := sound_setTokens h (Nat.min_le_left _ _)

theorem sound_throttleWaiting (h : d.Sound) (v : Variant) : (throttleWaiting v d).Sound := by
  unfold throttleWaiting
  refine sound_foldl h _ _ fun _ _ he => ?_
  split
  · exact sound_settleWrite (sound_ite (sound_giveToken (sound_other he ..) ..) (sound_other he ..)) ..
  · exact he

theorem sound_recordStep (h : d.Sound) (v : Variant) (ok : Bool) : (recordStep v ok d).Sound := by
  unfold recordStep
  split
  · exact h
  dsimp only
  split
  · exact sound_settleWrite (sound_foldl (sound_other h ..) _ _ fun _ _ he => sound_landP he ..) ..
  split
  · exact sound_settleWrite (sound_throttle (sound_other h ..) ..) ..
  split
  · exact sound_throttleWaiting h ..
  split
  · exact sound_settleWrite (sound_foldl (sound_foldl (sound_ite (sound_other h ..) (sound_takeToken (sound_other h ..) ..)) _ _ fun _ _ he =>
      sound_programRec he ..) _ _ fun _ _ he => sound_landP he ..) ..
  split
  · exact sound_other (sound_count (sound_foldl (sound_ite (sound_other h ..) (sound_takeToken (sound_other h ..) ..)) _ _ fun _ _ he =>
      sound_programRec he ..) ..) ..
  · exact sound_settleWrite (sound_post (sound_count (sound_foldl (sound_ite (sound_other h ..) (sound_takeToken (sound_other h ..) ..)) _ _ fun _ _
      he => sound_programRec he ..) ..) ..) ..

theorem sound_journalRecordProgramOp (h : d.Sound) (v : Variant) (ok : Bool) : (journalRecordProgramOp v ok d).Sound := by
  unfold journalRecordProgramOp
  split
  · exact sound_recordStep h ..
  · exact h

theorem sound_journalTokenRefillOp (h : d.Sound) : (journalTokenRefillOp d).Sound := by
  unfold journalTokenRefillOp
  split
  · exact sound_giveToken h ..
  · exact h

theorem sound_flushP (h : d.Sound) (v : Variant) : (flushP v d).Sound :=
  sound_foldl h _ _ fun _ _ he => sound_ite he (sound_recordStep (sound_drawn he ..) ..)

theorem sound_programTries (h : d.Sound) (k : Nat) (b : Bytes) (n : Nat) : (programTries k b n d).2.Sound := by
  induction n generalizing d with
  | zero => exact sound_post h ..
  | succ n ih =>
    unfold programTries
    split
    · exact h
    split
    · exact sound_programRec (sound_drawn h) ..
    · exact ih (sound_count (sound_programRec (sound_drawn h) ..) ..)

theorem sound_inStepP (h : d.Sound) (v : Variant) (idx sub : Nat) (b : Bytes) : (inStepP v idx sub b d).2.Sound := by
  unfold inStepP
  dsimp only
  split
  · exact sound_landP (sound_flushP h ..) ..
  split
  · exact sound_throttle (sound_flushP h ..) ..
  split
  · exact sound_flushP h ..
  split
  · exact sound_landP (sound_programTries (sound_takeToken (sound_flushP h ..) ..) ..) ..
  · exact sound_programTries (sound_takeToken (sound_flushP h ..) ..) ..

theorem sound_ownP (h : d.Sound) (v : Variant) (r : OdReq) (idx : Nat) : (ownP v r idx d).Sound := by
  unfold ownP
  split
  · split
    · exact sound_ownRequest h _ _ _ (sound_fwP h ..)
    split
    · exact h
    · exact sound_ownRequest h _ _ _ (sound_inStepP h ..)
  split
  · exact h
  dsimp only
  split
  · exact sound_fails h ..
  split
  · exact sound_fails h ..
  split
  · exact sound_fails h ..
  split
  · exact sound_succeeds (sound_landP h ..) ..
  · exact sound_offerP h ..

theorem sound_baseBandWriteOp (h : d.Sound) (v : Variant) (r : OdReq) : (baseBandWriteOp v r d).Sound := sound_ownP h ..

theorem sound_linkEnableWriteOp (h : d.Sound) (v : Variant) (link : Nat) (r : OdReq) : (linkEnableWriteOp v link r d).Sound := by
  unfold linkEnableWriteOp
  split
  · exact sound_ownP h ..
  · exact h

theorem sound_widenLink (h : d.Sound) (l : Nat) (b : Bytes) : (widenLink l b d).Sound := by
  unfold widenLink
  split
  · exact sound_enterTrain (sound_modLink h ..) ..
  · exact h

theorem sound_linkWidenOp (h : d.Sound) (v : Variant) (link : Nat) (r : OdReq) : (linkWidenOp v link r d).Sound := by
  unfold linkWidenOp
  split
  · exact sound_ownRequest h _ _ _ (sound_widenLink h ..)
  · exact h

theorem sound_copyTries (h : d.Sound) (k n : Nat) : (copyTries k n d).Sound := by
  induction n generalizing d with
  | zero => exact sound_post h ..
  | succ n ih =>
    have h1 (r : JRec) := sound_count (sound_setJour (sound_drawn h) (tokens_put d.jour d.jour.other r)) 0x1400 4 1
    unfold copyTries
    dsimp only
    split
    · exact sound_other (h1 _) ..
    · exact ih (sound_count (h1 _) ..)

theorem sound_copyP (h : d.Sound) (k : Nat) : (copyP d k).Sound := sound_copyTries h ..

theorem sound_writeHeader (h : d.Sound) : (writeHeader d).Sound :=
  sound_setJour (sound_drawn h) (by exact tokens_setRegion ..)

theorem sound_compactionStartOp (h : d.Sound) : (compactionStartOp d).Sound := by
  unfold compactionStartOp
  dsimp only
  split
  · split
    · exact sound_foldl (sound_writeHeader h ..) _ _ fun _ _ he => sound_copyP he ..
    · exact sound_writeHeader h ..
  · exact h

theorem sound_freezeCopies (h : d.Sound) : (freezeCopies d).Sound := sound_foldl h _ _ fun _ _ he => sound_copyP he ..

theorem sound_compactionCommitOp (h : d.Sound) (ok : Bool) : (compactionCommitOp ok d).Sound := by
  unfold compactionCommitOp
  split
  · exact h
  dsimp only
  split
  · exact sound_count (sound_setJour (sound_freezeCopies h) (by exact tokens_setRegion ..)) ..
  · exact sound_other (sound_freezeCopies h) ..

theorem sound_regionEraseDoneOp (h : d.Sound) : (regionEraseDoneOp d).Sound :=
  sound_ite (sound_setJour h (by exact tokens_setRegion ..)) h

theorem sound_recoverJournal (h : d.Sound) : (recoverJournal d).Sound := by
  have hfull := sound_setTokens h (Nat.le_refl 64)
  unfold recoverJournal
  dsimp only
  split
  · exact sound_post (sound_other hfull ..) ..
  · exact sound_count (sound_other (sound_foldl (sound_other hfull ..) _ _ fun _ _ he => sound_setP he ..) ..) ..

theorem sound_dropWaiting (h : d.Sound) : (dropWaiting d).Sound := by
  unfold dropWaiting
  split
  · exact h
  dsimp only
  split
  · split
    · exact sound_other h ..
    split
    · exact sound_drawn (sound_other h ..)
    · exact sound_setJour (sound_drawn (sound_other h ..)) (by exact tokens_put ..)
  · exact sound_other h ..

/-! ### Memory (chapter 11) -/

theorem sound_startRemap (h : d.Sound) (stack g : Nat) : (startRemap stack g d).Sound := by
  unfold startRemap
  split
  · exact h
  dsimp only
  split
  · exact h
  split
  · exact sound_post (sound_other h ..) ..
  · exact sound_other h ..

theorem sound_eccCorrected (h : d.Sound) (stack line : Nat) : (eccCorrected stack line d).Sound := by
  unfold eccCorrected
  dsimp only
  split
  · exact sound_startRemap (sound_count (sound_other h ..) ..) ..
  · exact sound_count (sound_other h ..) ..

theorem sound_eccUncorrectable (h : d.Sound) (stack line : Nat) : (eccUncorrectable stack line d).Sound :=
  sound_startRemap (sound_other (sound_post (sound_count h ..) ..) ..) ..

theorem sound_eccOutcome (h : d.Sound) (stack line symbols : Nat) : (eccOutcome stack line symbols d).Sound := by
  unfold eccOutcome
  split
  · exact h
  split
  · exact sound_eccCorrected h ..
  · exact sound_eccUncorrectable h ..

theorem sound_cacheAccessOp (h : d.Sound) (v : Variant) (slice line : Nat) (off len : Nat) (op : MemOp) (symbols : Nat) (tile :
    Option Nat) :
    (cacheAccessOp v slice line off len op symbols tile d).Sound := by
  unfold cacheAccessOp
  dsimp only
  split
  · exact h
  split
  · exact sound_respond (sound_count h ..) ..
  split
  · exact h
  split
  · exact sound_respond (sound_accessNow (sound_ite h (sound_eccOutcome h ..)) ..) ..
  · exact sound_other h ..

theorem sound_fillLine (h : d.Sound) (slice line symbols : Nat) : (fillLine slice line symbols d).Sound := by
  unfold fillLine
  split
  · exact h
  · exact sound_fillFrom (sound_eccOutcome h ..) ..

theorem sound_lineFillOp (h : d.Sound) (v : Variant) (slice line symbols : Nat) : (lineFillOp v slice line symbols d).Sound := by
  unfold lineFillOp
  dsimp only
  split
  · exact h
  · exact sound_foldl (sound_other (sound_fillLine h ..) ..) _ _ fun _ _ he => sound_serveWaiting he ..

theorem sound_poisonLine (h : d.Sound) (slice line : Nat) : (poisonLine slice line d).Sound := by
  unfold poisonLine
  split
  · exact sound_other h ..
  · exact sound_installLine h ..

theorem sound_patrolScrubOp (h : d.Sound) (v : Variant) (slice line symbols : Nat) :
    (patrolScrubOp v slice line symbols d).Sound := by
  unfold patrolScrubOp
  split
  · exact h
  dsimp only
  split
  · exact sound_poisonLine (sound_eccOutcome h ..) ..
  · exact sound_eccOutcome h ..

theorem sound_dirtyLine (h : d.Sound) (slice line : Nat) : (dirtyLine slice line d).Sound := by
  unfold dirtyLine
  split
  · exact sound_other h ..
  · exact h

theorem sound_copyThrough (h : d.Sound) (slice line : Nat) : (copyThrough slice line d).Sound :=
  sound_dirtyLine (sound_ite (sound_count (sound_serveFirst h ..) ..) (sound_fillFrom (sound_serveFirst h ..) ..)) ..

theorem sound_granuleRemapOp (h : d.Sound) (v : Variant) (stack g : Nat) : (granuleRemapOp v stack g d).Sound := by
  unfold granuleRemapOp
  split
  · exact h
  dsimp only
  split
  · exact h
  split
  · exact sound_other (sound_copyThrough h ..) ..
  split
  · exact sound_fwCount (sound_other (sound_copyThrough h ..) ..) ..
  · exact sound_other (sound_copyThrough h ..) ..

theorem sound_bankApply (h : d.Sound) (code : Nat) (r : BankReq) : (bankApply code r d).Sound :=
  sound_emit (sound_ite (sound_setSbank h ..) (sound_swrite (sound_setSbank h ..) ..)) ..

theorem sound_bankAccessOp (h : d.Sound) (code : Nat) (req : Option BankReq) : (bankAccessOp code req d).Sound := by
  unfold bankAccessOp
  split
  · split
    · exact h
    split
    · split
      · exact h
      dsimp only
      split
      · exact sound_emit (sound_count h ..) ..
      · exact sound_count h ..
    · exact sound_setSbank h ..
  split
  · exact h
  split
  · split
    · exact h
    · exact sound_bankApply h ..
  · exact h

theorem sound_bankAtomicOp (h : d.Sound) (code : Nat) : (bankAtomicOp code d).Sound := by
  unfold bankAtomicOp
  split
  · exact h
  split
  · split
    · exact sound_count (sound_bankApply h ..) ..
    · exact h
  · exact h

theorem sound_spadStarveOp (h : d.Sound) (code index waited : Nat) : (spadStarveOp code index waited d).Sound := by
  unfold spadStarveOp
  dsimp only
  split
  · split
    · exact sound_postOnce (sound_count (sound_setSbank h ..) ..) ..
    · exact h
  · exact h

theorem sound_scratchpadWakeClearOp (h : d.Sound) (code : Nat) : (scratchpadWakeClearOp code d).Sound := sound_settleClear h ..

theorem sound_spoilWord (h : d.Sound) (code word : Nat) : (spoilWord code word d).Sound :=
  sound_ite (sound_setStby (sound_other h ..) (memWf_mwrite _ _ _ h.stby)) (sound_swrite (sound_other h ..) ..)

theorem sound_marchFault (h : d.Sound) (code word : Nat) : (marchFault code word d).Sound := sound_post (sound_count h ..) ..

theorem sound_marchPreservingWordOp (h : d.Sound) (code word : Nat) (descending bad restored : Bool) :
    (marchPreservingWordOp code word descending bad restored d).Sound := by
  unfold marchPreservingWordOp
  dsimp only
  split
  · exact h
  split
  · exact h
  split
  · exact sound_setSbank (sound_ite (sound_ite (sound_marchFault h ..) (sound_spoilWord (sound_marchFault h ..) ..)) h) ..
  · exact sound_count (sound_setSbank (sound_ite (sound_ite (sound_marchFault h ..) (sound_spoilWord (sound_marchFault h ..) ..)) h) ..) ..

/-! ### Security (chapter 17) -/

theorem sound_rejectToken (h : d.Sound) : (rejectToken d).Sound := by
  unfold rejectToken
  dsimp only
  split
  · exact sound_count h ..
  · exact sound_post (sound_mark (sound_count h ..) ..) ..

theorem sound_tokenCommitOp (h : d.Sound) (v : Variant) (r : OdReq) : (tokenCommitOp v r d).Sound := by
  unfold tokenCommitOp
  split
  · exact h
  dsimp only
  split
  · exact sound_reqDone (sound_rejectToken h ..) ..
  split
  · exact sound_reqDone h ..
  split
  · exact sound_reqDone h ..
  split
  · exact sound_reqDone h ..
  split
  · exact sound_reqDone h ..
  split
  · exact sound_reqDone (sound_rejectToken h ..) ..
  · refine sound_queueP (sound_other ?_ ..) ..
    split
    · exact sound_busy h ..
    · exact h

theorem sound_attest (h : d.Sound) (v : Variant) (src : Source) (nonce : Bytes) : (attest v src nonce d).2.Sound := by
  unfold attest
  split
  · exact h
  · exact sound_other h ..

theorem sound_attestationNonceOp (h : d.Sound) (v : Variant) (r : OdReq) : (attestationNonceOp v r d).Sound := by
  unfold attestationNonceOp
  split
  · exact h
  · exact sound_ownRequest h _ _ _ (sound_attest h ..)

theorem sound_retryBoot (h : d.Sound) (b : Bytes) : (retryBoot b d).2.Sound := by
  unfold retryBoot
  split
  · dsimp only
    exact h
  dsimp only
  split
  · dsimp only
    exact sound_other (sound_leaveSafe (sound_storeValue h ..) ..) ..
  dsimp only
  exact sound_storeValue h ..

theorem sound_retryBootOp (h : d.Sound) (v : Variant) (r : OdReq) : (retryBootOp v r d).Sound := by
  unfold retryBootOp
  split
  · exact h
  · exact sound_ownRequest h _ _ _ (sound_retryBoot h ..)

theorem sound_abandonCommit (h : d.Sound) (v : Variant) : (abandonCommit v d).Sound :=
  sound_foldl (sound_other h ..) _ _ fun _ _ he => sound_settleWrite he ..

theorem sound_startTamper (h : d.Sound) (v : Variant) (code : Nat) : (startTamper v code d).Sound :=
  sound_post (sound_queueP (sound_other (sound_enterSafe (sound_abandonCommit (sound_closeSessions (sound_secureWipe h ..) ..) ..) ..) ..) ..) ..

theorem sound_tamperOp (h : d.Sound) (v : Variant) (code filterNs : Nat) : (tamperOp v code filterNs d).Sound :=
  sound_ite h (sound_ite (sound_other (sound_other h ..) ..) (sound_startTamper (sound_other h ..) ..))

theorem sound_tamperConditionClearOp (h : d.Sound) (v : Variant) (code : Nat) : (tamperConditionClearOp v code d).Sound := by
  unfold tamperConditionClearOp
  split
  · exact h
  · exact sound_finishTamper (sound_other h ..) ..

/-! ### Module sequences (chapter 18) -/

theorem sound_clearStandby (h : d.Sound) : (clearStandby d).Sound :=
  (sound_clearRing (sound_setStby h (m := []) rfl)).congr

theorem sound_auxPowerUpOp (h : d.Sound) : (auxPowerUpOp d).Sound := by
  unfold auxPowerUpOp
  split
  · exact h
  · exact sound_clearStandby (sound_other h ..) ..

theorem sound_standbyFresh (h : d.Sound) : (standbyFresh d).Sound := sound_other h ..

theorem sound_standbyMarch (h : d.Sound) (v : Variant) (bad : List Nat) : (standbyMarch v bad d).Sound := by
  unfold standbyMarch
  split
  · dsimp only
    split
    · exact sound_foldl (sound_count h ..) _ _ fun _ _ he => sound_marchFault he ..
    · exact sound_enterSafe (sound_foldl (sound_count h ..) _ _ fun _ _ he => sound_marchFault he ..) ..
  · exact h

theorem sound_standbyStartOp (h : d.Sound) (v : Variant) (mpen matched : Bool) (bad : List Nat) :
    (standbyStartOp v mpen matched bad d).Sound := by
  unfold standbyStartOp
  split
  · exact h
  · exact sound_driveFault (sound_ite (sound_fwCount (sound_standbyMarch (sound_recoverJournal (sound_other (sound_standbyFresh (sound_clearStandby
      (sound_other h ..) ..) ..) ..) ..) ..) ..) (sound_keyFault (sound_fwCount (sound_standbyMarch (sound_recoverJournal (sound_other
      (sound_standbyFresh (sound_clearStandby (sound_other h ..) ..) ..) ..) ..) ..) ..) ..)) ..

theorem sound_stopStandby (h : d.Sound) (v : Variant) : (stopStandby v d).Sound :=
  sound_other (sound_standbyFresh (sound_ite (sound_mainDown (sound_dropWaiting h ..) ..) (sound_dropWaiting h ..)) ..) ..

theorem sound_standbyResetAssertOp (h : d.Sound) (v : Variant) : (standbyResetAssertOp v d).Sound :=
  sound_other (sound_ite (sound_stopStandby h ..) h) ..

theorem sound_slowFall (h : d.Sound) (v : Variant) : (slowFall v d).Sound := sound_flushP (sound_other (sound_tamperOp h ..) ..) ..

theorem sound_auxBrownoutOp (h : d.Sound) (v : Variant) (fallUs : Nat) : (auxBrownoutOp v fallUs d).Sound :=
  sound_other (sound_ite (sound_stopStandby (sound_ite (sound_slowFall h ..) h) ..) h) ..

theorem sound_managementLinkChangeOp (h : d.Sound) (up : Bool) : (managementLinkChangeOp up d).Sound := by
  unfold managementLinkChangeOp
  split
  · exact sound_other h ..
  · exact h

theorem sound_mainEnRiseOp (h : d.Sound) : (mainEnRiseOp d).Sound := by
  unfold mainEnRiseOp
  split
  · exact sound_driveFault (sound_other h ..) ..
  · exact sound_other h ..

theorem sound_railsSettledOp (h : d.Sound) (clkm : List Bool) : (railsSettledOp clkm d).Sound := by
  unfold railsSettledOp
  split
  · exact sound_other h ..
  · exact h

theorem sound_sparePart (h : d.Sound) (a : Target) : (sparePart d a).Sound := by
  unfold sparePart
  split
  · exact sound_modMac h ..
  · exact sound_modLane h ..
  · exact h

theorem sound_failPowerOn (h : d.Sound) (units : List Target) (t : Target) : (failPowerOn units d t).Sound := by
  unfold failPowerOn
  split
  · exact sound_sparePart h ..
  dsimp only
  split
  · exact h
  · exact sound_post (sound_other h ..) ..

theorem sound_startupMarch (h : d.Sound) (v : Variant) (bad : List (Nat × Nat)) : (startupMarch v bad d).Sound := by
  have hclear := sound_setSpad h (m := []) rfl
  exact sound_ite (sound_foldl hclear _ _ fun _ _ he => sound_ite he (sound_count he ..)) hclear

theorem sound_selfTestAll (h : d.Sound) (v : Variant) (failedHubs : List Nat) (units : List Target) (words : List (Nat × Nat)) :
    (selfTestAll v failedHubs units words d).Sound :=
  sound_driveFault (sound_foldl (sound_foldl (sound_other (sound_startupMarch (sound_foldl (sound_foldl (sound_other h ..) _ _ fun _ _ he =>
      sound_post he ..) _ _ fun _ _ he => sound_failPowerOn he ..) ..) ..) _ _ fun _ _ he => sound_startLink he ..) _ _ fun _ _ he =>
      sound_trainIfFree he ..) ..

theorem sound_powerOnSelftestOp (h : d.Sound) (v : Variant) (hubsBad : List Nat) (unitsBad : List Nat) (words : List (Nat × Nat)) :
    (powerOnSelftestOp v hubsBad unitsBad words d).Sound := by
  unfold powerOnSelftestOp
  split
  · exact h
  split
  · exact sound_startTamper h ..
  dsimp only
  split
  · exact sound_enterSafe (sound_foldl (sound_ite (sound_leaveSafe h ..) h) _ _ fun _ _ he => sound_marchFault he ..) ..
  split
  · split
    · exact sound_driveFault (sound_holdAll (sound_leaveSafe h ..) ..) ..
    · exact sound_selfTestAll (sound_dropSpares (sound_foldl (sound_leaveSafe h ..) _ _ fun _ _ he => sound_marchFault he ..) ..) ..
  split
  · exact sound_driveFault (sound_holdAll h ..) ..
  · exact sound_selfTestAll (sound_dropSpares (sound_foldl h _ _ fun _ _ he => sound_marchFault he ..) ..) ..

theorem sound_mainEnFallOp (h : d.Sound) (v : Variant) : (mainEnFallOp v d).Sound := sound_other (sound_ite (sound_mainDown h ..) h) ..

theorem sound_inputFaultOp (h : d.Sound) (v : Variant) (overVolt : Bool) (durationUs : Nat) : (inputFaultOp v overVolt durationUs d).Sound := by
  unfold inputFaultOp
  split
  · exact h
  · exact sound_fwP (sound_fwCount (sound_driveFault (sound_other (sound_ite (sound_mainDown h ..) h) ..) ..) ..) ..

theorem sound_moduleWarmResetOp (h : d.Sound) (v : Variant) (lowUs : Nat) : (moduleWarmResetOp v lowUs d).Sound := by
  unfold moduleWarmResetOp
  split
  · exact h
  · dsimp only
    have h1 : Dev.Sound { d with seq := { d.seq with modRstN := false } } := sound_other h ..
    split
    · exact sound_setSeq (sound_loseQV (sound_holdModule h1 v)) _
    · exact h1

theorem sound_moduleWarmResetReleaseOp (h : d.Sound) : (moduleWarmResetReleaseOp d).Sound := sound_other h ..

theorem sound_portDown (h : d.Sound) (v : Variant) (h1 : Nat) : (portDown v h1 d).Sound := by
  unfold portDown
  split
  · exact sound_resetUnit h ..
  · exact h

theorem sound_portResetOp (h : d.Sound) (v : Variant) (h1 : Nat) : (portResetOp v h1 d).Sound := by
  unfold portResetOp
  split
  · exact sound_other (sound_portDown h ..) ..
  · exact h

theorem sound_perstReleaseOp (h : d.Sound) (v : Variant) (h1 : Nat) : (perstReleaseOp v h1 d).Sound := by
  unfold perstReleaseOp
  split
  · exact sound_trainIfFree (sound_other h ..) ..
  · exact h

theorem sound_refclkStopOp (h : d.Sound) (v : Variant) (h1 : Nat) : (refclkStopOp v h1 d).Sound := by
  unfold refclkStopOp
  split
  · exact sound_other (sound_portDown h ..) ..
  · exact h

theorem sound_refclkRestartOp (h : d.Sound) (v : Variant) (h1 : Nat) : (refclkRestartOp v h1 d).Sound := by
  unfold refclkRestartOp
  split
  · exact sound_trainIfFree (sound_other h ..) ..
  · exact h

theorem sound_hubControlResetOp (h : d.Sound) (v : Variant) (h1 : Nat) : (hubControlResetOp v h1 d).Sound := by
  unfold hubControlResetOp
  split
  · exact h
  · exact sound_other (sound_resetControlOf h ..) ..

/-! ### Forming -/

theorem sound_modOutVec (h : d.Sound) (t : Tile) (part : Nat) (f : OutVec → OutVec) : (modOutVec t part f d).Sound := sound_other h ..

theorem sound_openOutVec (h : d.Sound) (q : Nat) (t : Tile) (part : Nat) : (openOutVec q t part d).Sound := by
  unfold openOutVec
  dsimp only
  split
  · exact h
  split
  · split
    · exact h
    · exact sound_modOutVec h ..
  · exact sound_other h ..

theorem sound_sendScale (h : d.Sound) (q : Nat) (t : Tile) (part vec pos : Nat) (e : BitVec 8) :
    (sendScale q t part vec pos e d).Sound := by
  unfold sendScale
  split
  · exact sound_emit (sound_modTile h ..) ..
  · exact sound_modTile h ..

theorem sound_sendOutExp (h : d.Sound) (q : Nat) (t : Tile) (part vec : Nat) (e : BitVec 8) : (sendOutExp q t part vec e d).Sound := by
  unfold sendOutExp
  split
  · exact sound_emit (sound_modTile h ..) ..
  · exact sound_modTile h ..

theorem sound_sendScales (h : d.Sound) (q : Nat) (t : Tile) (f : Forming) (part : Nat) : (sendScales q t f part d).Sound := by
  unfold sendScales
  dsimp only
  split
  · exact sound_foldl h _ _ fun _ _ he => sound_foldl he _ _ fun _ _ he' => sound_sendScale (he') ..
  split
  · exact sound_foldl (sound_foldl h _ _ fun _ _ he => sound_foldl he _ _ fun _ _ he' => sound_sendScale (he') ..) _ _ fun _ _ he =>
      sound_sendOutExp he ..
  · exact sound_foldl h _ _ fun _ _ he => sound_foldl he _ _ fun _ _ he' => sound_sendScale (he') ..

theorem sound_modForming (h : d.Sound) (q tile : Nat) (f : Forming → Forming) : (modForming q tile f d).Sound := sound_modQuant h ..

theorem sound_formingIssueStartOp (h : d.Sound) (q tile : Nat) : (formingIssueStartOp q tile d).Sound := by
  unfold formingIssueStartOp
  split
  · exact h
  split
  · exact h
  · exact sound_sendScales (sound_sendScales (sound_openOutVec (sound_openOutVec (sound_modQuant h ..) ..) ..) ..) ..

theorem sound_countElem (h : d.Sound) (q clip : Nat) (e : ℤ × Bool × Bool) : (countElem q clip e d).Sound :=
  sound_countIf (sound_countIf h ..) ..

theorem sound_blockElement (h : d.Sound) (q : Nat) (t : Tile) (part : Nat) (f : Forming) (vec col : Nat) :
    (blockElement q t part f vec col d).Sound := by
  unfold blockElement
  dsimp only
  split
  · exact sound_emit (sound_modTile (sound_countElem (sound_modForming h ..) ..) ..) ..
  · exact sound_modTile (sound_countElem (sound_modForming h ..) ..) ..

theorem sound_outlierElement (h : d.Sound) (q : Nat) (t : Tile) (part : Nat) (o : OutVec) (vec i col : Nat) :
    (outlierElement q t part o vec i col d).Sound := by
  unfold outlierElement
  dsimp only
  split
  · exact sound_emit (sound_modTile (sound_countElem (sound_modForming (sound_modOutVec h ..) ..) ..) ..) ..
  · exact sound_modTile (sound_countElem (sound_modForming (sound_modOutVec h ..) ..) ..) ..

theorem sound_quantiseElementOp (h : d.Sound) (q tile : Nat) (part vec pos : Nat) :
    (quantiseElementOp q tile part vec pos d).Sound := by
  unfold quantiseElementOp
  split
  · dsimp only
    split
    · exact h
    split
    · split
      · exact sound_blockElement h ..
      · exact h
    split
    · exact h
    split
    · exact sound_outlierElement h ..
    · exact h
  · exact h

theorem sound_scaleMiss (h : d.Sound) (q : Nat) (t : Tile) (strict : Bool) : (scaleMiss q t strict d).Sound :=
  sound_modTile (sound_ite h (sound_post (sound_count h ..) ..)) ..

theorem sound_writeEntries (h : d.Sound) (q trk : Nat) (js : List (Nat × Judged)) : (writeEntries q trk js d).Sound := by
  unfold writeEntries
  split
  · exact h
  · exact sound_count (sound_modQuant h ..) ..

theorem sound_closeOutVec (h : d.Sound) (t : Tile) (part : Nat) (failing : Bool) : (closeOutVec t part failing d).Sound := by
  unfold closeOutVec
  split
  · exact h
  split
  · exact sound_writeEntries (sound_other h ..) ..
  · exact h

theorem sound_endPart (h : d.Sound) (q : Nat) (t : Tile) (f : Forming) (part : Nat) : (endPart q t f d part).Sound :=
  sound_closeOutVec (sound_ite (sound_scaleMiss (sound_modForming (sound_writeEntries (sound_count h ..) ..) ..) ..) (sound_modForming
      (sound_writeEntries (sound_count h ..) ..) ..)) ..

theorem sound_dropForming (h : d.Sound) (q tile : Nat) : (dropForming q tile d).Sound := sound_modQuant h ..

theorem sound_endForming (h : d.Sound) (q tile : Nat) : (endForming q tile d).Sound :=
  sound_itemDone (sound_modTile (sound_dropForming h ..) ..) ..

theorem sound_formingIssueEndOp (h : d.Sound) (q tile : Nat) : (formingIssueEndOp q tile d).Sound := by
  unfold formingIssueEndOp
  split
  · dsimp only
    split
    · exact h
    split
    · exact sound_endForming (sound_foldl h _ _ fun _ _ he => sound_elim he fun _ => sound_endPart he ..) ..
    · exact sound_foldl h _ _ fun _ _ he => sound_elim he fun _ => sound_endPart he ..
  · exact h

theorem sound_countFit (h : d.Sound) (ss : Nat) (b : BitVec 8 × List (ℤ × Bool × Bool) × Bool) : (countFit ss b d).Sound :=
  sound_count (sound_count (sound_count h ..) ..) ..

theorem sound_dmaRead (h : d.Sound) (v : Variant) (hub : Nat) (x : Desc) (al : Alloc) (y : List Nat) (n : Nat) :
    (dmaRead v hub x al y n d).2.2.Sound := sound_foldl_snd_snd h _ _ fun _ _ he => sound_elemAtPlace he ..

theorem sound_dmaWrite (h : d.Sound) (v : Variant) (x : Desc) (al : Alloc) (y : List Nat) (bits : List Nat) : (dmaWrite v x al y bits d).Sound :=
  sound_foldl h _ _ fun _ _ he => sound_devPut he ..

theorem sound_importBlock (h : d.Sound) (ss fmt : Nat) (ocp : Bool) (elems : List (BitVec 32)) (exp : BitVec 8) :
    (importBlock ss fmt ocp elems exp d).2.Sound := by
  unfold importBlock
  split
  · split
    · exact h
    · exact sound_count h ..
  · exact sound_countFit h ..

theorem sound_exportBlock (h : d.Sound) (ss fmt : Nat) (ocp : Bool) (elems : List (BitVec 32)) (exp : BitVec 8) :
    (exportBlock ss fmt ocp elems exp d).2.Sound := by
  unfold exportBlock
  split
  · dsimp only
    split
    · exact h
    · exact sound_count h ..
  · exact h

theorem sound_dmaImport (h : d.Sound) (v : Variant) (hub fmt : Nat) (elems : List (BitVec 32)) (exp : BitVec 8) (x : Desc × Alloc) (s : Desc
    × Alloc) (y : List Nat) :
    (dmaImport v hub fmt elems exp x s y d).Sound := sound_emit (sound_dmaWrite (sound_dmaWrite (sound_importBlock h ..) ..) ..) ..

theorem sound_dmaExport (h : d.Sound) (v : Variant) (hub fmt : Nat) (x : Desc × Alloc) (s : Option (Desc × Alloc)) (y : List Nat) :
    (dmaExport v hub fmt x s y d).Sound := by
  unfold dmaExport
  dsimp only
  split
  · split
    · exact sound_dmaRead (sound_dmaRead h ..) ..
    · exact sound_emit (sound_exportBlock (sound_dmaRead (sound_dmaRead h ..) ..) ..) ..
  split
  · exact sound_dmaRead h ..
  · exact sound_emit (sound_exportBlock (sound_dmaRead h ..) ..) ..

theorem sound_conversionDmaOp (h : d.Sound) (v : Variant) (hub fmt : Nat) (toHost : Bool) (elems : List (BitVec 32)) (exp : BitVec 8) (data
    : Nat) (scale : Nat) (y : List Nat) :
    (conversionDmaOp v hub fmt toHost elems exp data scale y d).Sound := by
  unfold conversionDmaOp
  split
  · exact h
  split
  · split
    · exact h
    split
    · split
      · exact h
      · exact sound_dmaExport h ..
    split
    · split
      · exact sound_dmaImport h ..
      · exact h
    · exact h
  · exact h

/-! ### Self-test -/

theorem sound_loopLink (h : d.Sound) (l : Nat) : (loopLink l d).Sound := sound_modLink h ..

theorem sound_endLoop (h : d.Sound) (v : Variant) (l : Nat) (bad : BitVec 4) : (endLoop v l bad d).Sound :=
  sound_startLink (sound_modLink (sound_linkLost h ..) ..) ..

theorem sound_isolateNow (h : d.Sound) (t : Target) : (isolateNow t d).Sound := by
  unfold isolateNow
  split
  · exact sound_modPort (sound_resetPort h _) _
  · exact sound_loopLink h _
  · exact sound_foldl h _ _ fun _ _ he => sound_loopLink he _
  · exact sound_foldl h _ _ fun _ _ he => sound_resetSlice he _
  · exact sound_writeBackSlice h _
  · exact h

theorem sound_selftestOp (h : d.Sound) (cmd : Nat) : (selftestOp cmd d).Sound := by
  unfold selftestOp
  split
  · exact h
  split
  · exact sound_fails h ..
  dsimp only
  split
  · exact sound_fails h ..
  split
  · exact sound_fails h ..
  split
  · exact sound_fails h ..
  split
  · split
    · exact sound_setSbank (sound_other (sound_busy h ..) ..) ..
    · exact sound_other (sound_busy h ..) ..
  · exact sound_isolateNow (sound_other (sound_busy h ..) ..) ..

theorem sound_reinitMacro (h : d.Sound) (m : Nat) : (reinitMacro m d).Sound :=
  sound_setMac (sound_modWedge (sound_dropAllRepairs (sound_resetMacro h ..) ..) ..) ..

theorem sound_reinitUnit (h : d.Sound) (v : Variant) (t : Target) (test : Nat) (o : TestOutcome) : (reinitUnit v t test o d).Sound := by
  unfold reinitUnit
  split
  · exact sound_wakeWedge (sound_recordWedge h _) _
  · exact sound_reinitMacro h _
  · exact sound_foldl (sound_resetFacet h ..) _ _ fun _ _ he => sound_wakeWedge (sound_recordWedge he _) _
  · exact sound_modEngine (sound_resetHops (sound_resetEngine h _) ..) ..
  · exact sound_modLane (sound_resetLane h ..) ..
  · exact sound_resetHops (sound_emptySlice h _) ..
  · exact sound_wakeControl (sound_resetControl h ..) _
  · exact h
  · exact sound_endLoop h ..
  · exact sound_foldl h _ _ fun _ _ he => sound_endLoop he ..
  · exact sound_trainIfFree h ..
  · exact sound_resetCe h _
  · exact sound_ite (sound_loseCursors (sound_clearRing (sound_setStby h (m := []) rfl))) h
  · exact sound_resetUnit h ..

theorem sound_mendHops (h : d.Sound) (t : Target) : (mendHops t d).Sound := sound_other h ..

theorem sound_endTest (h : d.Sound) (r : TestRun) (ok : Bool) (o : TestOutcome) : (endTest r ok o d).Sound := by
  unfold endTest
  dsimp only
  split
  · exact sound_other h ..
  · exact sound_finish (sound_other h ..) ..

theorem sound_countMarch (h : d.Sound) (t : Target) (test : Nat) (o : TestOutcome) : (countMarch t test o d).Sound :=
  sound_foldl (sound_foldl h _ _ fun _ _ he => sound_count he ..) _ _ fun _ _ he => sound_marchFault he ..

theorem sound_holdLink (h : d.Sound) (l : Nat) : (holdLink l d).Sound := sound_count (sound_modLink (sound_linkLost h ..) ..) ..

theorem sound_failUnit (h : d.Sound) (v : Variant) (t : Target) : (failUnit v t d).Sound := by
  have h0 := sound_raiseOut (sound_loseIssuers (sound_resetUnit h v (heldTarget t)) (issuersIn (heldTarget t))) (issuersIn (heldTarget t)) d
  unfold failUnit
  refine sound_post ?_ ..
  split
  · exact sound_holdLink (sound_setSeq h0 _) _
  · exact sound_foldl (sound_setSeq h0 _) _ _ fun _ _ he => sound_holdLink he _
  · exact sound_modPort (sound_setSeq h0 _) _
  · refine sound_setSeq ?_ _
    split
    · exact sound_modLane h0 ..
    · exact h0

theorem sound_freeHub (h : d.Sound) (v : Variant) (t : Target) : (freeHub v t d).Sound := by
  unfold freeHub
  split
  · exact sound_trainIfFree (sound_foldl (sound_other h ..) _ _ fun _ _ he => sound_startLink he ..) ..
  · exact h

theorem sound_passUnit (h : d.Sound) (v : Variant) (t : Target) (test : Nat) (o : TestOutcome) : (passUnit v t test o d).Sound :=
  sound_foldl (sound_mendHops (sound_reinitUnit (sound_freeHub (sound_other h ..) ..) ..) ..) _ _ fun _ _ he => sound_modMac he ..

theorem sound_settleLinks (h : d.Sound) (v : Variant) (test : Nat) (o : TestOutcome) (ls : List (Nat × List Nat)) :
    (settleLinks v test o ls d).Sound := sound_foldl h _ _ fun _ _ he => sound_ite (sound_endLoop he ..) (sound_failUnit he ..)

theorem sound_selftestDoneOp (h : d.Sound) (v : Variant) (target : BitVec 32) (o : TestOutcome) : (selftestDoneOp v target o d).Sound := by
  unfold selftestDoneOp
  split
  · split
    · split
      · split
        · exact h
        · exact sound_endTest h ..
      · exact sound_endTest h ..
    split
    · exact h
    dsimp only
    split
    · exact sound_endTest (sound_settleLinks (sound_other (sound_dropSpares (sound_countMarch h ..) ..) ..) ..) ..
    split
    · exact sound_endTest (sound_passUnit (sound_dropSpares (sound_countMarch h ..) ..) ..) ..
    · exact sound_endTest (sound_failUnit (sound_dropSpares (sound_countMarch h ..) ..) ..) ..
  · exact h

theorem sound_resetBack (h : d.Sound) (v : Variant) (t : Target) : (resetBack v t d).Sound := by
  unfold resetBack
  dsimp only
  split
  · exact sound_trainIfFree (sound_resetUnit h ..) ..
  · exact sound_trainIfFree (sound_resetUnit h ..) ..
  · exact sound_resetUnit h ..

theorem sound_resetUnitOp (h : d.Sound) (v : Variant) (cmd : Nat) : (resetUnitOp v cmd d).Sound := by
  unfold resetUnitOp
  split
  · exact h
  split
  · exact sound_fails h ..
  split
  · exact sound_fails h ..
  split
  · exact sound_other (sound_waitCmd (sound_busy h cmd) cmd fun _ => [(codeOf _).toNat]) ..
  · exact sound_succeeds (sound_resetBack h ..) ..

theorem sound_endResets (h : d.Sound) (code : BitVec 32) : (endResets code d).Sound := sound_foldl h _ _ fun _ _ he => sound_succeeds he ..

theorem sound_deferralOp (h : d.Sound) (v : Variant) (target : BitVec 32) (elapsedUs : Nat) : (deferralOp v target elapsedUs d).Sound := by
  unfold deferralOp
  split
  · exact h
  dsimp only
  split
  · split
    · exact sound_resetHops (sound_resetCore (sound_other h ..) ..) ..
    · exact h
  split
  · exact sound_endResets (sound_resetBack (sound_other h ..) ..) ..
  · exact h

/-! ### Stream lanes (chapter 6) -/

theorem sound_spanExp (h : d.Sound) (v : Variant) (t : Tile) (o tensor : Nat) (token : ℤ) : (spanExp v t o tensor token d).2.2.Sound :=
  sound_fetchOperand h ..

theorem sound_halfExp (h : d.Sound) (v : Variant) (t : Tile) (o : Nat) (c : List ℤ) : (halfExp v t o c d).2.2.Sound := by
  unfold halfExp
  split
  · exact sound_spanExp h ..
  split
  · exact sound_spanExp h ..
  · exact h

theorem sound_fetchToLane (h : d.Sound) (v : Variant) (t : Tile) (opnd : Nat) (coord : List ℤ) (e n : Nat) (second : Bool) :
    (fetchToLane v t opnd coord e n second d).Sound := by
  unfold fetchToLane
  dsimp only
  split
  · split
    · exact sound_failRead (sound_fetchOperand h ..) ..
    · exact sound_modLane (sound_fetchOperand h ..) ..
  split
  · exact sound_failRead (sound_halfExp (sound_fetchOperand h ..) ..) ..
  · exact sound_modLane (sound_halfExp (sound_fetchOperand h ..) ..) ..

theorem sound_operandFetchOp (h : d.Sound) (v : Variant) (tile opnd : Nat) (coord : List ℤ) (dest : FetchDest) :
    (operandFetchOp v tile opnd coord dest d).Sound := by
  unfold operandFetchOp
  split
  · exact h
  split
  · exact h
  split
  · exact sound_reading h _ fun _ he => sound_ite (sound_failRead (sound_fetchOperand he ..) ..) (sound_emit (sound_fetchOperand he ..) ..)
  · split
    · exact sound_reading h _ fun _ he => sound_fetchToLane he ..
    · exact h
  split
  · exact sound_reading h _ fun _ he => sound_fetchToLane he ..
  · exact h

theorem sound_dispatchOp (h : d.Sound) (e tile : Nat) : (dispatchOp e tile d).Sound := by
  unfold dispatchOp
  split
  · exact h
  dsimp only
  split
  · exact sound_modTile (sound_setEngine h ..) ..
  · exact h

theorem sound_windowFillOp (h : d.Sound) (e tile : Nat) : (windowFillOp e tile d).Sound := by
  unfold windowFillOp
  split
  · exact h
  split
  · exact sound_modEngine h ..
  · exact h

theorem sound_itemDealOp (h : d.Sound) (e : Nat) : (itemDealOp e d).Sound := by
  unfold itemDealOp
  dsimp only
  split
  · split
    · exact h
    · exact sound_count (sound_modLane (sound_setEngine h ..) ..) ..
  · exact h

theorem sound_itemStartOp (h : d.Sound) (e n : Nat) : (itemStartOp e n d).Sound := by
  unfold itemStartOp
  dsimp only
  split
  · exact h
  split
  · exact h
  split
  · exact h
  · exact sound_setLane h ..

theorem sound_workStealOp (h : d.Sound) (e n : Nat) : (workStealOp e n d).Sound := by
  unfold workStealOp
  dsimp only
  split
  · exact h
  split
  · exact h
  split
  · exact sound_count (sound_modLane (sound_modLane h ..) ..) ..
  · exact h

theorem sound_endItem (h : d.Sound) (tile : Nat) (l : Lane) (e n : Nat) : (endItem tile l e n d).Sound :=
  sound_modTile (sound_setLane h ..) ..

theorem sound_putGridLane (h : d.Sound) (t : Tile) (key e n : Nat) (l : Lane) : (putGridLane t key e n l d).Sound := by
  unfold putGridLane
  split
  · exact sound_endItem h ..
  · exact sound_setLane h ..

theorem sound_laneDot (h : d.Sound) (t : Tile) (key e : Nat) (n row col : Nat) (l : Lane) :
    (laneDot t key e n row col l d).Sound := by
  unfold laneDot
  dsimp only
  split
  · exact h
  split
  · exact h
  split
  · split
    · exact h
    · exact sound_putGridLane (sound_countIf (sound_countIf (sound_countIf (sound_count (sound_draw (sound_debit h ..) ..) ..) ..) ..) ..) ..
  split
  · exact h
  · exact sound_putGridLane (sound_countIf (sound_countIf (sound_countIf (sound_count (sound_draw (sound_debit h ..) ..) ..) ..) ..) ..) ..

theorem sound_laneCandidate (h : d.Sound) (t : Tile) (key e : Nat) (n row col : Nat) (l : Lane) :
    (laneCandidate t key e n row col l d).Sound := by
  unfold laneCandidate
  dsimp only
  split
  · exact h
  · exact sound_putGridLane (sound_countIf h ..) ..

theorem sound_excludedKey (h : d.Sound) (v : Variant) (t : Tile) (row key : Nat) : (excludedKey v t row key d).2.2.Sound := by
  unfold excludedKey
  dsimp only
  split
  · split
    · exact h
    split
    · exact h
    · exact sound_fetchOperand h ..
  split
  · exact h
  split
  · exact h
  · exact sound_fetchOperand h ..

theorem sound_exclusions (h : d.Sound) (v : Variant) (t : Tile) (row key : Nat) : (exclusions v t row key d).2.2.Sound :=
  sound_foldl_snd_snd h _ _ fun _ _ he => sound_excludedKey he ..

theorem sound_laneAttend (h : d.Sound) (v : Variant) (t : Tile) (key e : Nat) (n row : Nat) (l : Lane) :
    (laneAttend v t key e n row l d).Sound := by
  unfold laneAttend
  dsimp only
  split
  · exact h
  · exact sound_reading h _ fun _ he => sound_ite (sound_failRead (sound_exclusions he ..) ..) (sound_putGridLane (sound_count (sound_draw
      (sound_debit (sound_other (sound_exclusions he ..) ..) ..) ..) ..) ..)

theorem sound_putRow (h : d.Sound) (t : Tile) (vals : Tab W32) : (putRow t vals d).Sound := by
  unfold putRow
  split <;> exact sound_modTile h ..

theorem sound_mergeStage (h : d.Sound) (t : Tile) (ws : List W32) (e : Nat) : (mergeStage t ws e d).Sound := by
  unfold mergeStage
  split
  · exact sound_putRow (sound_ite (sound_count (sound_other h ..) ..) (sound_other h ..)) ..
  · exact sound_modTile h ..

theorem sound_laneRowfn (h : d.Sound) (t : Tile) (key e n : Nat) (order : RedTree) (l : Lane) :
    (laneRowfn t key e n order l d).Sound := by
  unfold laneRowfn
  dsimp only
  split
  · exact h
  split
  · exact sound_endItem (sound_mergeStage h ..) ..
  split
  · exact sound_endItem (sound_other h ..) ..
  split
  · exact sound_endItem (sound_modTile (sound_other h ..) ..) ..
  · exact sound_endItem (sound_putRow (sound_other h ..) ..) ..

theorem sound_rowExp (h : d.Sound) (v : Variant) (t : Tile) (e tensor : Nat) (token : ℤ) : (rowExp v t e tensor token d).2.2.Sound := by
  unfold rowExp
  split
  · exact h
  split
  · dsimp only
    split
    · exact h
    · exact sound_other h ..
  dsimp only
  split
  · exact sound_spanExp h ..
  · exact sound_other (sound_spanExp h ..) ..

theorem sound_startKv (h : d.Sound) (v : Variant) (t : Tile) (e : Nat) (token : ℤ) : (startKv v t e token d).2.Sound := by
  unfold startKv
  split
  · dsimp only
    exact h
  dsimp only
  exact sound_modQuant (sound_rowExp (sound_rowExp h ..) ..) ..

theorem sound_quantiseRow (h : d.Sound) (v : Variant) (t : Tile) (e tensor : Nat) (token : ℤ) (first : Bool) (cs : List Nat) (xs : List W32)
    :
    (quantiseRow v t e tensor token first cs xs d).Sound :=
  sound_modTile (sound_foldl (sound_modForming h ..) _ _ fun _ _ he => sound_countElem he ..) ..

theorem sound_endKv (h : d.Sound) (t : Tile) (e : Nat) : (endKv t e d).Sound := by
  unfold endKv
  split
  · exact h
  dsimp only
  split
  · split
    · exact sound_failTile (sound_dropForming (sound_foldl h _ _ fun _ _ he => sound_elim he fun _ => sound_endPart he ..) ..) ..
    · exact sound_dropForming (sound_foldl h _ _ fun _ _ he => sound_elim he fun _ => sound_endPart he ..) ..
  · exact sound_dropForming (sound_foldl h _ _ fun _ _ he => sound_elim he fun _ => sound_endPart he ..) ..

theorem sound_laneKv (h : d.Sound) (v : Variant) (t : Tile) (key e : Nat) (n tensor : Nat) (l : Lane) :
    (laneKv v t key e n tensor l d).Sound := by
  unfold laneKv
  dsimp only
  split
  · split
    · exact h
    · exact sound_reading h _ fun _ he => sound_ite (sound_failRead (sound_startKv he ..) ..) (sound_ite (sound_setLane (sound_quantiseRow
        (sound_startKv he ..) ..) ..) (sound_ite (sound_endKv (sound_endItem (sound_quantiseRow (sound_startKv he ..) ..) ..) ..) (sound_endItem
        (sound_quantiseRow (sound_startKv he ..) ..) ..)))
  split
  · exact h
  · exact sound_reading h _ fun _ he => sound_ite (sound_failRead (sound_startKv he ..) ..) (sound_ite (sound_setLane (sound_quantiseRow
      (sound_startKv he ..) ..) ..) (sound_ite (sound_endKv (sound_endItem (sound_quantiseRow (sound_startKv he ..) ..) ..) ..) (sound_endItem
      (sound_quantiseRow (sound_startKv he ..) ..) ..)))

theorem sound_moveBlock (h : d.Sound) (t : Tile) (l : Lane) (e fmt : Nat) (so dO : Bool) (cs : List Nat) (b : Nat) :
    (moveBlock t l e fmt so dO cs b d).Sound := by
  unfold moveBlock
  dsimp only
  split
  · exact sound_modTile (sound_ite (sound_count h ..) (sound_countIf h ..)) ..
  · exact sound_modTile (sound_countIf (sound_countFit h ..) ..) ..

theorem sound_laneMove (h : d.Sound) (t : Tile) (key e n : Nat) (l : Lane) : (laneMove t key e n l d).Sound := by
  unfold laneMove
  dsimp only
  split
  · exact h
  split
  · exact sound_endItem (sound_foldl h _ _ fun _ _ he => sound_moveBlock he ..) ..
  split
  · exact sound_endItem h ..
  · exact sound_endItem (sound_modTile h ..) ..

theorem sound_laneStepOp (h : d.Sound) (v : Variant) (e n : Nat) (work : LaneWork) : (laneStepOp v e n work d).Sound := by
  unfold laneStepOp
  dsimp only
  split
  · exact h
  split
  · exact h
  split
  · exact sound_laneDot h ..
  · exact sound_laneCandidate h ..
  · exact sound_laneAttend h ..
  · exact sound_laneRowfn h ..
  · exact sound_laneKv h ..
  · exact sound_laneMove h ..

theorem sound_contextFlushOp (h : d.Sound) (e n tile : Nat) : (contextFlushOp e n tile d).Sound := by
  unfold contextFlushOp
  dsimp only
  split
  · split
    · exact h
    · exact sound_count (sound_setLane h ..) ..
  · exact h

theorem sound_dropOut (h : d.Sound) (e n : Nat) : (dropOut e n d).Sound := sound_modLane h ..

theorem sound_stallLane (h : d.Sound) (e n idx : Nat) : (stallLane e n idx d).Sound := by
  unfold stallLane
  split
  · exact h
  · exact sound_count (sound_modLane h ..) ..

theorem sound_queueUpd (h : d.Sound) (e : Nat) (u : AccUpd) (put : AccUpd → Engine → Engine) : (queueUpd e u put d).Sound := sound_modEngine h ..

theorem sound_arriveUpd (h : d.Sound) (e bank : Nat) (u : AccUpd) : (arriveUpd e bank u d).Sound := by
  unfold arriveUpd
  dsimp only
  split
  · exact h
  split
  · exact h
  split
  · split
    · exact sound_count (sound_dropOut h ..) ..
    · exact sound_post (sound_modEngine (sound_count (sound_dropOut h ..) ..) ..) ..
  split
  · split
    · exact sound_stallLane h ..
    · exact sound_dropOut (sound_queueUpd h ..) ..
  split
  · exact sound_stallLane h ..
  · exact sound_dropOut (sound_queueUpd h ..) ..

theorem sound_drainBank (h : d.Sound) (e bank : Nat) : (drainBank e bank d).Sound := by
  unfold drainBank
  dsimp only
  split
  · exact h
  split
  · exact h
  · exact sound_count (sound_setEngine h ..) ..

theorem sound_accUpdateOp (h : d.Sound) (e bank : Nat) (upd : Option AccUpd) : (accUpdateOp e bank upd d).Sound := by
  unfold accUpdateOp
  split
  · exact sound_arriveUpd h ..
  · exact sound_drainBank h ..

theorem sound_softmaxMergeOp (h : d.Sound) (e : Nat) : (softmaxMergeOp e d).Sound := by
  unfold softmaxMergeOp
  dsimp only
  split
  · split
    · split
      · exact h
      · exact sound_count (sound_setEngine (sound_other h ..) ..) ..
    · exact h
  · exact h

theorem sound_topkMergeOp (h : d.Sound) (e : Nat) : (topkMergeOp e d).Sound := by
  unfold topkMergeOp
  dsimp only
  split
  · split
    · exact h
    · exact sound_count (sound_setEngine h ..) ..
  · exact h

theorem sound_gridRow (h : d.Sound) (t : Tile) (e row : Nat) : (gridRow t e row d).Sound := by
  unfold gridRow
  dsimp only
  split
  · exact sound_modTile h ..
  · split <;> exact sound_modTile (sound_countIf (sound_other h ..) ..) ..

theorem sound_windowRow (h : d.Sound) (t : Tile) (e : Nat) : (windowRow t e d).Sound := by
  unfold windowRow
  dsimp only
  split
  · exact sound_modTile h ..
  split
  · exact sound_putRow h ..
  · exact sound_modTile h ..

theorem sound_windowResults (h : d.Sound) (t : Tile) : (windowResults t d).Sound := by
  unfold windowResults
  split
  · exact h
  split
  · exact h
  split
  · exact sound_foldl h _ _ fun _ _ he => sound_gridRow he ..
  · exact sound_windowRow h ..

theorem sound_streamTileCompleteOp (h : d.Sound) (e tile : Nat) : (streamTileCompleteOp e tile d).Sound := by
  unfold streamTileCompleteOp
  split
  · exact h
  split
  · exact h
  · exact sound_modTile (sound_ite (sound_windowResults h ..) h) ..

theorem sound_commitTile (h : d.Sound) (v : Variant) (t : Tile) : (commitTile v t d).Sound := by
  unfold commitTile
  dsimp only
  split
  · split
    · exact h
    · exact sound_windowResults h ..
  · exact sound_admitTile (sound_ite h (sound_windowResults h ..)) ..

theorem sound_tileCommitOp (h : d.Sound) (v : Variant) (tile : Nat) : (tileCommitOp v tile d).Sound := by
  unfold tileCommitOp
  split
  · exact h
  split
  · split
    · exact sound_alignFault h ..
    · exact sound_reading h _ fun _ he => sound_ite (sound_failRead (sound_setBit he ..) ..) (sound_ite (sound_discardDuplicate (sound_setBit he ..)
        ..) (sound_commitTile (sound_setBit he ..) ..))
  · exact h

/-! ### Messages -/

theorem sound_commitInMessage (h : d.Sound) (v : Variant) (src : Source) (value : Bytes) : (commitInMessage v src value d).2.2.Sound := by
  unfold commitInMessage
  dsimp only
  split
  · exact h
  split
  · exact sound_rejectToken h ..
  split
  · exact sound_flushP h ..
  split
  · refine sound_foldl_snd (sound_flushP h ..) _ _ fun _ _ he => ?_
    split
    · exact sound_programTries he ..
    · exact he
  · refine sound_clearStaging (sound_foldl (sound_foldl_snd (sound_flushP h ..) _ _ fun _ _ he => ?_) _ _ fun _ _ he => sound_landP he ..) ..
    split
    · exact sound_programTries he ..
    · exact he

theorem sound_writeEffect (h : d.Sound) (v : Variant) (src : Source) (idx sub : Nat) (b : Bytes) :
    (writeEffect v src idx sub b d).2.2.Sound := by
  unfold writeEffect
  split
  · exact sound_powerEffect h ..
  split
  · exact sound_widenLink h ..
  split
  · exact sound_other h ..
  split
  · exact sound_retryBoot h ..
  split
  · exact sound_commitInMessage h ..
  split
  · exact sound_attest h ..
  split
  · exact sound_inStepP h ..
  · exact sound_storeValue h ..

theorem sound_finishChanges (h : d.Sound) (v : Variant) (cs : List (Nat × Nat)) : (finishChanges v cs d).Sound :=
  sound_foldl h _ _ fun _ _ he => sound_finishChange he ..

/-! ### Tamjor -/

theorem sound_countMessage (h : d.Sound) : (countMessage d).Sound := sound_count h ..

theorem sound_sendTo (h : d.Sound) (peer : Peer) (m : Bytes) : (sendTo peer m d).Sound := sound_emit h ..

theorem sound_modSession (h : d.Sound) (sid : Nat) (f : Session → Session) : (modSession sid f d).Sound := sound_other h ..

theorem sound_dropSession (h : d.Sound) (sid : Nat) : (dropSession sid d).Sound := sound_other h ..

theorem sound_dropOpening (h : d.Sound) (sid : Nat) : (dropOpening sid d).Sound := sound_other h ..

theorem sound_discard (h : d.Sound) : (discard d).Sound := sound_count h ..

theorem sound_badSignature (h : d.Sound) (s : Session) : (badSignature s d).Sound := by
  unfold badSignature
  dsimp only
  split
  · exact sound_modSession (sound_discard h ..) ..
  · exact sound_dropSession (sound_discard h ..) ..

theorem sound_applyEntry {a : Applied} (h : a.dev.Sound) (v : Variant) (src : Source) (sid : Nat) (e : ReqEntry) :
    (applyEntry v src sid a e).dev.Sound := by
  unfold applyEntry
  split
  · split
    · exact sound_ringRequest h ..
    · exact h
  split
  · dsimp only
    split
    · exact sound_ite (sound_rejectToken h) h
    · exact sound_writeEffect h ..
  · exact h

theorem sound_applyEntries (h : d.Sound) (v : Variant) (src : Source) (sid : Nat) (es : List ReqEntry) :
    (applyEntries v src sid es d).dev.Sound :=
  List.foldlRecOn (motive := fun a : Applied => a.dev.Sound) es _ h fun _ ha e _ => sound_applyEntry ha v src sid e

theorem sound_runRequest (h : d.Sound) (v : Variant) (sid : Nat) (m : Bytes) : (runRequest v sid m d).2.2.2.Sound := by
  unfold runRequest
  split
  · exact h
  · exact sound_applyEntries h ..

theorem sound_plainRequest (h : d.Sound) (v : Variant) (m : Bytes) (peer : Peer) : (plainRequest v m peer d).Sound := by
  unfold plainRequest
  split
  · exact h
  dsimp only
  split
  · exact sound_sendTo (sound_countMessage (sound_other h ..) ..) ..
  · exact sound_finishChanges (sound_sendTo (sound_runRequest (sound_countMessage (sound_other h ..) ..) ..) ..) ..

theorem sound_sessionRequest (h : d.Sound) (v : Variant) (s : Session) (m : Bytes) (peer : Peer) : (sessionRequest v s m peer d).Sound := by
  unfold sessionRequest
  dsimp only
  split
  · exact sound_badSignature h ..
  split
  · exact sound_sendTo (sound_count (sound_countMessage h ..) ..) ..
  split
  · exact sound_sendTo (sound_countMessage h ..) ..
  · exact sound_finishChanges (sound_sendTo (sound_modSession (sound_runRequest (sound_countMessage h ..) ..) ..) ..) ..

theorem sound_tamjorRequestOp (h : d.Sound) (v : Variant) (m : Bytes) (peer : Peer) : (tamjorRequestOp v m peer d).Sound := by
  unfold tamjorRequestOp
  split
  · exact h
  split
  · exact sound_plainRequest h ..
  split
  · exact sound_sessionRequest h ..
  · exact sound_discard h ..

theorem sound_tamjorOpenOp (h : d.Sound) (m : Bytes) (peer : Peer) : (tamjorOpenOp m peer d).Sound := by
  unfold tamjorOpenOp
  split
  · exact h
  dsimp only
  split
  · exact sound_sendTo (sound_countMessage (sound_other h ..) ..) ..
  · exact sound_sendTo (sound_other (sound_drawn (sound_countMessage (sound_other h ..) ..) ..) ..) ..

theorem sound_tamjorConfirmOp (h : d.Sound) (m : Bytes) (peer : Peer) : (tamjorConfirmOp m peer d).Sound := by
  unfold tamjorConfirmOp
  split
  · exact h
  dsimp only
  split
  · exact sound_discard h ..
  split
  · exact sound_sendTo (sound_other (sound_dropOpening (sound_countMessage h ..) ..) ..) ..
  · exact sound_sendTo (sound_dropOpening (sound_countMessage h ..) ..) ..

theorem sound_confirmTimeoutOp (h : d.Sound) (sid elapsedS : Nat) : (confirmTimeoutOp sid elapsedS d).Sound := by
  unfold confirmTimeoutOp
  split
  · exact h
  · exact sound_dropOpening h ..

theorem sound_tamjorCloseOp (h : d.Sound) (m : Bytes) (peer : Peer) : (tamjorCloseOp m peer d).Sound := by
  unfold tamjorCloseOp
  split
  · exact h
  split
  · exact sound_discard h ..
  split
  · exact sound_dropSession (sound_countMessage h ..) ..
  · exact sound_badSignature h ..

theorem sound_sessionIdleTimeoutOp (h : d.Sound) (sid elapsedS : Nat) : (sessionIdleTimeoutOp sid elapsedS d).Sound := by
  unfold sessionIdleTimeoutOp
  split
  · split
    · exact sound_dropSession h ..
    · exact h
  · exact h

theorem sound_mailRespond (h : d.Sound) (p : Nat) (m : Bytes) : (mailRespond p m d).Sound :=
  sound_modPort h p fun _ ⟨hmsix, hin, hout⟩ => ⟨hmsix, hin, memWf_mwrite _ _ _ hout⟩

theorem sound_mailboxGoOp (h : d.Sound) (v : Variant) (p : Nat) : (mailboxGoOp v p d).Sound := by
  unfold mailboxGoOp
  dsimp only
  split
  · exact h
  split
  · exact sound_modPort h _
  split
  · exact sound_modPort h _
  split
  · exact sound_mailRespond h ..
  split
  · exact sound_mailRespond h ..
  · exact sound_finishChanges (sound_mailRespond (sound_applyEntries h ..) ..) ..

/-! ### Every step -/

/-- The state that a command answers with holds the device that it left. -/
theorem sound_next {s t : State} {e : Dev} (h : e.Sound) (hx : (Host.Outcome.next (s.on e) : Host.Outcome State Fault Refusal) = .next t) :
    t.dev.Sound := by
  cases hx
  exact h

/-- A command that may stop at an address. -/
theorem sound_nextIf {s t : State} {e : Dev} {P : Prop} {_ : Decidable P} {x : Fault} (h : e.Sound)
    (hx : (if P then .next (s.on e) else .fault x : Host.Outcome State Fault Refusal) = .next t) : t.dev.Sound := by
  split at hx
  · exact sound_next h hx
  · cases hx

theorem exec_sound {s t : State} (c : Instr) (h : s.dev.Sound) (hx : exec c s = .next t) : t.dev.Sound := by
  cases c with
  | sqDoorbell => exact sound_next (sound_sqDoorbellOp h ..) hx
  | cqDoorbell => exact sound_next (sound_cqDoorbellOp h ..) hx
  | queueEnable => exact sound_next (sound_queueEnableOp h ..) hx
  | queueDisable => exact sound_next (sound_queueDisableOp h ..) hx
  | queueDisableDone => exact sound_next (sound_queueDisableDoneOp h ..) hx
  | bar0RegisterWrite => exact sound_next (sound_bar0WriteOp h ..) hx
  | commandFetch => exact sound_next (sound_commandFetchOp h ..) hx
  | completionWrite => exact sound_next (sound_completionWriteOp h ..) hx
  | d3hotEntry => exact sound_next (sound_d3hotOp h ..) hx
  | d0Return => exact sound_next (sound_d0Op h ..) hx
  | identify => exact sound_next (sound_identifyOp h ..) hx
  | odRead => exact sound_next (sound_odReadOp h ..) hx
  | odWrite => exact sound_next (sound_odWriteOp h ..) hx
  | alloc => exact sound_next (sound_allocOp h ..) hx
  | free => exact sound_next (sound_freeOp h ..) hx
  | descCreate => exact sound_next (sound_descCreateOp h ..) hx
  | descDestroy => exact sound_next (sound_descDestroyOp h ..) hx
  | loadWeights => exact sound_next (sound_loadWeightsOp h ..) hx
  | loadWeightsStart => exact sound_next (sound_loadWeightsStartOp h ..) hx
  | loadWeightsComplete => exact sound_next (sound_loadWeightsCompleteOp h ..) hx
  | swapBank => exact sound_next (sound_swapBankOp h ..) hx
  | swapBankEffect => exact sound_next (sound_swapBankEffectOp h ..) hx
  | programLoad => exact sound_next (sound_programLoadOp h ..) hx
  | runJob => exact sound_next (sound_runJobOp h ..) hx
  | jobStart => exact sound_next (sound_jobStartOp h ..) hx
  | copyInComplete => exact sound_next (sound_copyInOp h ..) hx
  | transferCopyOut => exact sound_next (sound_copyOutOp h ..) hx
  | jobComplete => exact sound_next (sound_jobCompleteOp h ..) hx
  | fence => exact sound_next (sound_fenceOp h ..) hx
  | fenceComplete => exact sound_next (sound_fenceCompleteOp h ..) hx
  | abort => exact sound_next (sound_abortOp h ..) hx
  | phaseHint => exact sound_next (sound_phaseHintOp h ..) hx
  | hintRampStart => exact sound_next (sound_hintRampOp h ..) hx
  | hintHoldExpiry => exact sound_next (sound_hintHoldOp h ..) hx
  | calibrate => exact sound_next (sound_calibrateOp h ..) hx
  | selftest => exact sound_next (sound_selftestOp h ..) hx
  | selftestDone => exact sound_next (sound_selftestDoneOp h ..) hx
  | resetUnit => exact sound_next (sound_resetUnitOp h ..) hx
  | ceConfigWrite => exact sound_next (sound_ceConfigOp h ..) hx
  | ceReadRunning => exact sound_next (sound_ceReadOp h ..) hx
  | ceWriteRunning => exact sound_next (sound_ceWriteOp h ..) hx
  | instructionStart => exact sound_next (sound_instructionStartOp h ..) hx
  | counterReadyPoll => exact sound_next (sound_counterReadyPollOp h ..) hx
  | counterWaitRelease => exact sound_next (sound_counterWaitReleaseOp h ..) hx
  | workClaim => exact sound_next (sound_workClaimOp h ..) hx
  | tileIssue => exact sound_next (sound_tileIssueOp h ..) hx
  | tileCommit => exact sound_next (sound_tileCommitOp h ..) hx
  | sweepClaim => exact sound_next (sound_sweepClaimOp h ..) hx
  | issuerRejoin => exact sound_next (sound_issuerRejoinOp h ..) hx
  | homeSweepByC0 => exact sound_next (sound_homeSweepOp h ..) hx
  | blockPairing => exact sound_next (sound_blockPairingOp h ..) hx
  | scaleEntryArrival => exact sound_next (sound_scaleEntryArrivalOp h ..) hx
  | blockAdmit => exact sound_next (sound_blockAdmitOp h ..) hx
  | macroPlaneStep => exact sound_next (sound_macroPlaneStepOp h ..) hx
  | reResolutionStep => exact sound_next (sound_reResolutionStepOp h ..) hx
  | recalTrigger => exact sound_next (sound_recalTriggerOp h ..) hx
  | outlierTerm => exact sound_next (sound_outlierTermOp h ..) hx
  | outputStagePartial => exact sound_next (sound_outputStagePartialOp h ..) hx
  | finalAdderReduce => exact sound_next (sound_finalAdderReduceOp h ..) hx
  | auditServe => exact sound_next (sound_auditServeOp h ..) hx
  | formingIssueStart => exact sound_next (sound_formingIssueStartOp h ..) hx
  | quantiseElement => exact sound_next (sound_quantiseElementOp h ..) hx
  | formingIssueEnd => exact sound_next (sound_formingIssueEndOp h ..) hx
  | conversionDmaBlock => exact sound_next (sound_conversionDmaOp h ..) hx
  | operandFetch => exact sound_next (sound_operandFetchOp h ..) hx
  | dispatchInstruction => exact sound_next (sound_dispatchOp h ..) hx
  | windowFill => exact sound_next (sound_windowFillOp h ..) hx
  | itemDeal => exact sound_next (sound_itemDealOp h ..) hx
  | itemStart => exact sound_next (sound_itemStartOp h ..) hx
  | workSteal => exact sound_next (sound_workStealOp h ..) hx
  | laneStep => exact sound_next (sound_laneStepOp h ..) hx
  | contextFlush => exact sound_next (sound_contextFlushOp h ..) hx
  | accUpdate => exact sound_next (sound_accUpdateOp h ..) hx
  | softmaxMerge => exact sound_next (sound_softmaxMergeOp h ..) hx
  | topkMerge => exact sound_next (sound_topkMergeOp h ..) hx
  | streamTileComplete => exact sound_next (sound_streamTileCompleteOp h ..) hx
  | haloAppend => exact sound_next (sound_haloAppendOp h ..) hx
  | haloRead => exact sound_next (sound_haloReadOp h ..) hx
  | haloTimeout => exact sound_next (sound_haloTimeoutOp h ..) hx
  | frameSend => exact sound_next (sound_frameSendOp h ..) hx
  | frameReceive => exact sound_next (sound_frameReceiveOp h ..) hx
  | creditReturn => exact sound_next (sound_creditReturnOp h ..) hx
  | frameReplay => exact sound_next (sound_frameReplayOp h ..) hx
  | multicastForward => exact sound_next (sound_multicastForwardOp h ..) hx
  | fabricHopFail => exact sound_next (sound_fabricHopFailOp h ..) hx
  | fabricStall => exact sound_next (sound_fabricStallOp h ..) hx
  | hopEndReset => exact sound_next (sound_ite (sound_hopEndLost h ..) h) hx
  | writeAccept => exact sound_next (sound_writeAcceptOp h ..) hx
  | readRequest => exact sound_next (sound_readRequestOp h ..) hx
  | cacheAccess => exact sound_nextIf (sound_cacheAccessOp h ..) hx
  | lineFill => exact sound_nextIf (sound_lineFillOp h ..) hx
  | patrolScrub => exact sound_nextIf (sound_patrolScrubOp h ..) hx
  | granuleRemap => exact sound_next (sound_granuleRemapOp h ..) hx
  | bankAccess => exact sound_nextIf (sound_bankAccessOp h ..) hx
  | bankAtomic => exact sound_next (sound_bankAtomicOp h ..) hx
  | spadStarve => exact sound_next (sound_spadStarveOp h ..) hx
  | scratchpadWakeClear => exact sound_next (sound_scratchpadWakeClearOp h ..) hx
  | marchPreservingWord => exact sound_nextIf (sound_marchPreservingWordOp h ..) hx
  | linkDataFrameTx => exact sound_next (sound_linkDataFrameTxOp h ..) hx
  | linkDataFrameRx => exact sound_next (sound_linkDataFrameRxOp h ..) hx
  | linkControlFrameTx => exact sound_next (sound_linkControlFrameTxOp h ..) hx
  | linkControlFrameRx => exact sound_next (sound_linkControlFrameRxOp h ..) hx
  | linkReplayTimeout => exact sound_next (sound_linkReplayTimeoutOp h ..) hx
  | linkRetrain => exact sound_next (sound_linkRetrainOp h ..) hx
  | linkAliveTimeout => exact sound_next (sound_linkAliveTimeoutOp h ..) hx
  | linkResyncTimeout => exact sound_next (sound_linkResyncTimeoutOp h ..) hx
  | linkTrainingEnd => exact sound_next (sound_linkTrainingEndOp h ..) hx
  | linkCapabilityTx => exact sound_next (sound_linkCapabilityTxOp h ..) hx
  | linkCapabilityRx => exact sound_next (sound_linkCapabilityRxOp h ..) hx
  | linkExchangeTimeout => exact sound_next (sound_linkExchangeTimeoutOp h ..) hx
  | linkLaneLoss => exact sound_next (sound_linkLaneLossOp h ..) hx
  | linkWiden => exact sound_next (sound_linkWidenOp h ..) hx
  | linkEnableWrite => exact sound_next (sound_linkEnableWriteOp h ..) hx
  | linkDownRetry => exact sound_next (sound_linkDownRetryOp h ..) hx
  | linkDown => exact sound_next (sound_linkDownOp h ..) hx
  | bundleRebuild => exact sound_next (sound_rebuild h ..) hx
  | bundleWaitExpiry => exact sound_next (sound_bundleWaitExpiryOp h ..) hx
  | arbiterInterval => exact sound_next (sound_arbiterOp h ..) hx
  | regionGovernorTick => exact sound_next (sound_governorTickOp h ..) hx
  | phasePointChoice => exact sound_next (sound_pointChoiceOp h ..) hx
  | supplyMoveDone => exact sound_next (sound_supplyMoveOp h ..) hx
  | pwrDroop => exact sound_next (sound_droopOp h ..) hx
  | droopHoldExpiry => exact sound_next (sound_droopEndOp h ..) hx
  | supplyCollapseStop => exact sound_next (sound_collapseOp h ..) hx
  | supplyRecover => exact sound_next (sound_recoverOp h ..) hx
  | thermalSense => exact sound_next (sound_thermalSenseOp h ..) hx
  | thermThrottle => exact sound_next (sound_throttleOp h ..) hx
  | thermalCeilingRise => exact sound_next (sound_ceilingRiseOp h ..) hx
  | thermLimit => exact sound_next (sound_thermLimitOp h ..) hx
  | powerRequest => exact sound_next (sound_powerRequestOp h ..) hx
  | domainDrainDone => exact sound_next (sound_drainDoneOp h ..) hx
  | powerTransitionDone => exact sound_next (sound_transitionDoneOp h ..) hx
  | wedgeWakeRestore => exact sound_next (sound_wakeRestoreOp h ..) hx
  | wakeOnDemand => exact sound_next (sound_wakeOnDemandOp h ..) hx
  | ceFrameFeed => exact sound_next (sound_ceFrameOp h ..) hx
  | checkStep => exact sound_next (sound_checkStepOp h ..) hx
  | checkAgeExpiry => exact sound_next (sound_checkAgeOp h ..) hx
  | idleCheckInterval => exact sound_next (sound_idleCheckOp h ..) hx
  | macroReload => exact sound_next (sound_macroReloadOp h ..) hx
  | macroRetire => exact sound_next (sound_macroRetireOp h ..) hx
  | scrubPass => exact sound_next (sound_scrubOp h ..) hx
  | calibrationRequest => exact sound_next (sound_calRequestOp h ..) hx
  | calibrationStep => exact sound_next (sound_calStepOp h ..) hx
  | calibrationComplete => exact sound_next (sound_calCompleteOp h ..) hx
  | calibrationWaitExpiry => exact sound_next (sound_calWaitOp h ..) hx
  | corrEcc => exact sound_next (sound_corrEccOp h ..) hx
  | eventPost => exact sound_next (sound_eventPostOp h ..) hx
  | eventRingRead => exact sound_next (sound_eventRingReadOp h ..) hx
  | limitIntervalRollover => exact sound_next (sound_rolloverOp h ..) hx
  | wallTimeWrite => exact sound_next (sound_wallTimeOp h ..) hx
  | baseBandWrite => exact sound_next (sound_baseBandWriteOp h ..) hx
  | journalRecordProgram => exact sound_next (sound_journalRecordProgramOp h ..) hx
  | journalTokenRefill => exact sound_next (sound_journalTokenRefillOp h ..) hx
  | compactionStart => exact sound_next (sound_compactionStartOp h ..) hx
  | compactionCommit => exact sound_next (sound_compactionCommitOp h ..) hx
  | regionEraseDone => exact sound_next (sound_regionEraseDoneOp h ..) hx
  | tamjorRequest => exact sound_next (sound_tamjorRequestOp h ..) hx
  | tamjorOpen => exact sound_next (sound_tamjorOpenOp h ..) hx
  | tamjorConfirm => exact sound_next (sound_tamjorConfirmOp h ..) hx
  | confirmTimeout => exact sound_next (sound_confirmTimeoutOp h ..) hx
  | tamjorClose => exact sound_next (sound_tamjorCloseOp h ..) hx
  | sessionIdleTimeout => exact sound_next (sound_sessionIdleTimeoutOp h ..) hx
  | mailboxGo => exact sound_next (sound_mailboxGoOp h ..) hx
  | tokenCommit => exact sound_next (sound_tokenCommitOp h ..) hx
  | attestationNonce => exact sound_next (sound_attestationNonceOp h ..) hx
  | retryBoot => exact sound_next (sound_retryBootOp h ..) hx
  | tamper => exact sound_next (sound_tamperOp h ..) hx
  | tamperConditionClear => exact sound_next (sound_tamperConditionClearOp h ..) hx
  | auxPowerUp => exact sound_next (sound_auxPowerUpOp h ..) hx
  | standbyStart => exact sound_next (sound_standbyStartOp h ..) hx
  | standbyResetAssert => exact sound_next (sound_standbyResetAssertOp h ..) hx
  | auxBrownout => exact sound_next (sound_auxBrownoutOp h ..) hx
  | mainEnRise => exact sound_next (sound_mainEnRiseOp h ..) hx
  | railsSettled => exact sound_next (sound_railsSettledOp h ..) hx
  | powerOnSelftest => exact sound_next (sound_powerOnSelftestOp h ..) hx
  | mainEnFall => exact sound_next (sound_mainEnFallOp h ..) hx
  | inputFault => exact sound_next (sound_inputFaultOp h ..) hx
  | moduleWarmReset => exact sound_next (sound_moduleWarmResetOp h ..) hx
  | moduleWarmResetRelease => exact sound_next (sound_moduleWarmResetReleaseOp h ..) hx
  | portReset => exact sound_next (sound_portResetOp h ..) hx
  | perstRelease => exact sound_next (sound_perstReleaseOp h ..) hx
  | refclkStop => exact sound_next (sound_refclkStopOp h ..) hx
  | hubControlReset => exact sound_next (sound_hubControlResetOp h ..) hx
  | markedEntryRebuild => exact sound_next (sound_rebuildEntryOp h ..) hx
  | checkStoreRecompute => exact sound_next (sound_recomputeOp h ..) hx
  | refclkRestart => exact sound_next (sound_refclkRestartOp h ..) hx
  | msixEnableChange => exact sound_next (sound_msixEnableOp h ..) hx
  | resetDeferralExpiry => exact sound_next (sound_deferralOp h ..) hx
  | managementLinkChange => exact sound_next (sound_managementLinkChangeOp h ..) hx

/-- Settles O60: a step runs the timers or one command, and each function of the device keeps what `Dev.Sound` says. -/
theorem everyStepKeepsSound : Obligations.EveryStepKeepsSound := by
  intro s t h hstep
  cases hs : s.pending with
  | nil =>
    simp only [step, hs] at hstep
    exact sound_next (sound_tick h _) hstep
  | cons c rest =>
    simp only [step, hs] at hstep
    exact exec_sound (s := { s with pending := rest }) c h hstep

end Sys2Proof.Machine

/-!
PROOFS for ch. 13, the port: BAR0 writes, D3hot and MSI-X (R343), and the slot that a completion waits for (R348).
-/
namespace Sys2Proof.Machine

open Sys2Proof

/-! ### MSI-X messages that the enable and the masks let go (R343) -/

/-- A pending message that a port may send. -/
def HostPort.sends (x : HostPort) (n : Nat) : Bool := x.msixEn && !x.d3 && x.msixPend.getLsbD n && !x.msixMask.getLsbD n

/-- The port with the pending bit of message n cleared. -/
def HostPort.sent (x : HostPort) (n : Nat) : HostPort := { x with msixPend := x.msixPend &&& ~~~(BitVec.ofNat 17 (2 ^ n)) }

theorem HostPort.pend_sent (x : HostPort) (n i : Nat) : (x.sent n).msixPend.getLsbD i = (x.msixPend.getLsbD i && decide (i ≠ n)) := by
  have hbit : (2 ^ n).testBit i = decide (i = n) := by rw [Nat.testBit_two_pow, decide_eq_decide, eq_comm]
  by_cases hi : i < 17
  · simp only [HostPort.sent, BitVec.getLsbD_and, BitVec.getLsbD_not, BitVec.getLsbD_ofNat, hbit, hi]
    simp
  · simp [BitVec.getLsbD_of_ge _ _ (Nat.le_of_not_lt hi)]

theorem HostPort.sends_sent (x : HostPort) {n i : Nat} (h : i ≠ n) : (x.sent n).sends i = x.sends i := by
  rw [HostPort.sends, x.pend_sent, decide_eq_true h, Bool.and_true]
  rfl

/-- One pending message goes, or stays. -/
def Dev.flushOne (p : Nat) (d : Dev) (n : Nat) : Dev :=
  if (d.port p).sends n then (d.setPort p ((d.port p).sent n)).emit (.msix p n) else d

theorem Dev.flushMsix_eq (d : Dev) (p : Nat) : d.flushMsix p = (List.range 17).foldl (Dev.flushOne p) d := by
  unfold Dev.flushMsix
  congr 1
  funext e n
  have h : (e.port p).sends n = ((e.port p).msixPend.getLsbD n && (e.port p).msixEn && !(e.port p).d3 && !(e.port p).msixMask.getLsbD n) := by
    unfold HostPort.sends
    cases (e.port p).msixPend.getLsbD n <;> simp
  rw [Dev.flushOne, h]
  rfl

/-- What sending the listed messages of port p leaves. -/
structure Flushed (p : Nat) (l : List Nat) (d e : Dev) : Prop where
  frame : e = { d with ports := e.ports, out := e.out }
  others : OnlyPort d e p
  port : e.port p = { d.port p with msixPend := (e.port p).msixPend }
  pend : ∀ i, (e.port p).msixPend.getLsbD i = ((d.port p).msixPend.getLsbD i && !(decide (i ∈ l) && (d.port p).sends i))
  out : e.out = d.out ++ (l.filter (d.port p).sends).map (Output.msix p)

theorem flushed_foldl (p : Nat) (l : List Nat) (hl : l.Nodup) (d : Dev) : Flushed p l d (l.foldl (Dev.flushOne p) d) := by
  induction l generalizing d with
  | nil => exact ⟨rfl, fun _ _ => rfl, rfl, fun i => by simp, by simp⟩
  | cons n l ih =>
    obtain ⟨hn, hl⟩ := List.nodup_cons.mp hl
    rw [List.foldl_cons]
    generalize hd : Dev.flushOne p d n = d1
    have h := ih hl d1
    unfold Dev.flushOne at hd
    by_cases hs : (d.port p).sends n = true
    · rw [if_pos hs] at hd
      have hport : d1.port p = (d.port p).sent n := by
        rw [← hd]
        exact Dev.port_setPort_same ..
      have hother {q : Nat} (hq : q ≠ p) : d1.port q = d.port q := by
        rw [← hd]
        exact Dev.port_setPort_other d _ hq
      have hsends : l.filter (d1.port p).sends = l.filter (d.port p).sends := by
        refine List.filter_congr fun i hi => ?_
        rw [hport, HostPort.sends_sent]
        rintro rfl
        exact hn hi
      refine ⟨?_, fun q hq => (h.others q hq).trans (hother hq), ?_, fun i => ?_, ?_⟩
      · rw [h.frame, ← hd]
        rfl
      · rw [h.port, hport]
        rfl
      · rw [h.pend, hport, HostPort.pend_sent]
        by_cases hin : i = n
        · subst hin
          simp [hs]
        · rw [HostPort.sends_sent _ hin]
          simp [hin]
      · have hout : d1.out = d.out ++ [.msix p n] := by
          rw [← hd]
          rfl
        rw [h.out, hsends, List.filter_cons_of_pos hs, hout, List.map_cons, List.append_assoc, List.singleton_append]
    · rw [if_neg hs] at hd
      subst hd
      refine ⟨h.frame, h.others, h.port, fun i => ?_, ?_⟩
      · rw [h.pend]
        by_cases hin : i = n
        · subst hin
          simp [hs, hn]
        · simp [hin]
      · rw [h.out, List.filter_cons_of_neg hs]

theorem flushed_flushMsix (p : Nat) (d : Dev) : Flushed p (List.range 17) d (d.flushMsix p) :=
  d.flushMsix_eq p ▸ flushed_foldl p _ List.nodup_range d

/-- A port that may send keeps of its pending messages those that the masks hold back. -/
theorem Flushed.pend_eq {p : Nat} {d e : Dev} (h : Flushed p (List.range 17) d e) : (e.port p).msixPend =
    if (d.port p).msixEn && !(d.port p).d3 then (d.port p).msixPend &&& (d.port p).msixMask else (d.port p).msixPend := by
  refine BitVec.eq_of_getLsbD_eq fun i hi => ?_
  rw [h.pend, HostPort.sends, decide_eq_true (List.mem_range.mpr hi)]
  cases (d.port p).msixEn <;> cases (d.port p).d3 <;> cases hp : (d.port p).msixPend.getLsbD i <;> simp [hp]


/-- A change of the port and the messages that it lets go. -/
theorem Dev.modPort_flushMsix (d : Dev) (p : Nat) (f : HostPort → HostPort) :
    let x := f (d.port p)
    let e := (d.modPort p f).flushMsix p
    e = { d with ports := e.ports, out := e.out } ∧ OnlyPort d e p ∧
      e.port p = { x with msixPend := if x.msixEn && !x.d3 then x.msixPend &&& x.msixMask else x.msixPend } ∧
      e.out = d.out ++ ((List.range 17).filter x.sends).map (Output.msix p) := by
  intro x e
  have h := flushed_flushMsix p (d.modPort p f)
  have hx : (d.modPort p f).port p = x := d.port_modPort_same p f
  refine ⟨h.frame, fun q hq => (h.others q hq).trans (d.port_modPort_other f hq), ?_, ?_⟩
  · rw [h.port, h.pend_eq, hx]
  · rw [h.out, hx]
    rfl

/-! ### BAR0 writes of one and of two bytes (Table 13.2) -/

theorem bar0WriteOp_of_up {v : Variant} {d : Dev} {p off : Nat} (hup : portUp v d p = true) (hoff : ¬(0x8000 ≤ off ∧ off < 0x8110)) (size : Nat)
    (value : BitVec 64) : bar0WriteOp v p off size value d =
      (toLe (min size 8) value.toNat).zipIdx.foldl (fun d e => bar0Byte p d (off + e.2) e.1) d := by
  simp only [bar0WriteOp, hup, hoff, if_true, if_false]

theorem bar0Byte_mailIn (d : Dev) (p : Nat) {a : Nat} (ha : a < 0x1000) (b : Byte) :
    bar0Byte p d (0x1000 + a) b = d.modPort p fun x => { x with mailIn := mput x.mailIn a b } := by
  unfold bar0Byte
  rw [if_neg (by omega), if_pos (by omega), Nat.add_sub_cancel_left]

theorem bar0Read_mailIn (d : Dev) (p : Nat) {a : Nat} (ha : a < 0x1000) : bar0Read d p (0x1000 + a) = mget (d.port p).mailIn a := by
  unfold bar0Read
  dsimp only
  rw [if_neg (by omega), if_neg (by omega), if_pos (by omega), Nat.add_sub_cancel_left]

theorem bar0Byte_queue (d : Dev) (p : Nat) {q r : Nat} (hq : q < 16) (hr : r < 0x40) (b : Byte) :
    bar0Byte p d (0x100 + 0x40 * q + r) b = d.setQueue p q (queueByte (d.queue p q) r b) := by
  unfold bar0Byte
  rw [if_pos (by omega)]
  dsimp only
  rw [show (0x100 + 0x40 * q + r - 0x100) / 0x40 = q by omega, show (0x100 + 0x40 * q + r - 0x100) % 0x40 = r by omega]

/-- The two low bytes of a disabled queue's size register are sqsize. -/
theorem queueByte_sqsize {Q : Queue} (hen : Q.en = false) (n : Nat) :
    queueByte (queueByte Q 16 (BitVec.ofNat 8 n)) 17 (BitVec.ofNat 8 (n / 256)) = { Q with sqsize := BitVec.ofNat 12 n } := by
  have hlow := Q.sqsize.isLt
  simp only [queueByte, hen]
  simp
  refine BitVec.eq_of_toNat_eq ?_
  simp only [patchByte, bitsOf, BitVec.toNat_ofNat, Nat.shiftRight_eq_div_pow]
  omega


theorem onlyQueue_trans {d e f : Dev} {p q : Nat} (h : OnlyQueue d e p q) (h' : OnlyQueue e f p q) : OnlyQueue d f p q := by
  obtain ⟨hports, hqueues⟩ := h
  obtain ⟨hports', hqueues'⟩ := h'
  refine ⟨fun p' => ?_, fun p' q' hne => (hqueues' p' q' hne).trans (hqueues p' q' hne)⟩
  rw [hports', hports]

/-- The write of the two bytes is two updates of the queue. -/
theorem bar0Bytes_sqsize (d : Dev) (p : Nat) {q : Nat} (hq : q < 16) (hen : (d.queue p q).en = false) (n : Nat) :
    let e := (toLe 2 n).zipIdx.foldl (fun d e => bar0Byte p d (0x100 + 0x40 * q + 16 + e.2) e.1) d
    e = { d with ports := e.ports } ∧ OnlyQueue d e p q ∧ e.queue p q = { d.queue p q with sqsize := BitVec.ofNat 12 n } := by
  intro e
  have he : e = (d.setQueue p q (queueByte (d.queue p q) 16 (BitVec.ofNat 8 n))).setQueue p q
      (queueByte (queueByte (d.queue p q) 16 (BitVec.ofNat 8 n)) 17 (BitVec.ofNat 8 (n / 256))) := by
    have h16 (e : Dev) (b : Byte) := bar0Byte_queue e p hq (r := 16) (by omega) b
    have h17 (e : Dev) (b : Byte) := bar0Byte_queue e p hq (r := 17) (by omega) b
    simp only [e, toLe, List.zipIdx_cons, List.zipIdx_nil, List.foldl_cons, List.foldl_nil]
    rw [show 0x100 + 0x40 * q + 16 + 0 = 0x100 + 0x40 * q + 16 from rfl, show 0x100 + 0x40 * q + 16 + (0 + 1) = 0x100 + 0x40 * q + 17 from rfl,
      h16, h17, Dev.queue_setQueue_same]
  rw [he, queueByte_sqsize hen]
  exact ⟨rfl, onlyQueue_trans (Dev.onlyQueue_setQueue ..) (Dev.onlyQueue_setQueue ..), Dev.queue_setQueue_same ..⟩

theorem exec_bar0RegisterWrite (s : State) (p off size : Nat) (value : BitVec 64) :
    exec (.bar0RegisterWrite p off size value) s = .next (s.on (bar0WriteOp s.variant p off size value s.dev)) := rfl

theorem Dev.onlyPort_modPort (d : Dev) (p : Nat) (f : HostPort → HostPort) : OnlyPort d (d.modPort p f) p :=
  fun _ hp => d.port_modPort_other f hp

/-- Settles O4: the bytes of a write go to the mailbox or to the queue's size, and each of the three steps of the port is one update of it, with the
messages that it lets go. -/
theorem portRegistersAct : Obligations.PortRegistersAct := by
  refine ⟨fun s p hup => ⟨fun a value ha => ?_, fun q value hq hen => ?_⟩, fun s p hup => ⟨?_, ?_, fun enable mask => ?_⟩⟩
  · have hwrite : bar0WriteOp s.variant p (0x1000 + a) 1 value s.dev =
        s.dev.modPort p fun x => { x with mailIn := mput x.mailIn a (BitVec.ofNat 8 value.toNat) } := by
      rw [bar0WriteOp_of_up hup (by omega)]
      exact bar0Byte_mailIn s.dev p ha _
    have hbyte : BitVec.ofNat 8 value.toNat = value.setWidth 8 := rfl
    rw [exec_bar0RegisterWrite, hwrite, hbyte]
    refine ⟨_, rfl, rfl, s.dev.onlyPort_modPort p _, ?_, ?_, ?_, fun b hb => ?_⟩
    · simp
    · simp
    · rw [bar0Read_mailIn _ p ha]
      simp
    · simp [mget_mput_other _ _ hb]
  · obtain ⟨hframe, honly, hqueue⟩ := bar0Bytes_sqsize s.dev p hq hen value.toNat
    rw [exec_bar0RegisterWrite, bar0WriteOp_of_up hup (by omega)]
    exact ⟨_, rfl, congrArg s.on hframe, honly, hqueue⟩
  · have hop : d3hotOp s.variant p s.dev = s.dev.modPort p fun x => { x with d3 := true } := if_pos hup
    refine ⟨_, rfl, ?_⟩
    rw [hop]
    refine ⟨rfl, s.dev.onlyPort_modPort p _, s.dev.port_modPort_same p _, fun e => ?_⟩
    simp [exec_commandFetch, commandFetchOp]
  · have hop : d0Op s.variant p s.dev = (s.dev.modPort p fun x => { x with d3 := false }).flushMsix p := if_pos hup
    obtain ⟨hframe, honly, hport, hout⟩ := s.dev.modPort_flushMsix p fun x => { x with d3 := false }
    refine ⟨_, rfl, ?_⟩
    rw [hop, State.on_dev]
    refine ⟨congrArg s.on hframe, honly, hport.trans ?_, hout.trans ?_⟩
    · simp
    · congr 2
      exact List.filter_congr fun n _ => by simp [HostPort.sends]
  · have hop : msixEnableOp s.variant p enable mask s.dev =
        (s.dev.modPort p fun x => { x with msixEn := enable, msixMask := mask }).flushMsix p := if_pos hup
    obtain ⟨hframe, honly, hport, hout⟩ := s.dev.modPort_flushMsix p fun x => { x with msixEn := enable, msixMask := mask }
    refine ⟨_, rfl, ?_⟩
    rw [hop, State.on_dev]
    refine ⟨congrArg s.on hframe, honly, hport.trans ?_, hout⟩
    simp

/-! ### A completion and its slot (R348) -/

/-- The completion that a queue's slot takes is the first of that queue. -/
theorem takeComp_some {p q : Nat} {cs rest : List Comp} {c : Comp} (h : takeComp p q cs = some (c, rest)) :
    c ∈ cs ∧ c.port = p ∧ c.q = q ∧ rest.length + 1 = cs.length := by
  induction cs generalizing rest with
  | nil => exact nomatch h
  | cons k cs ih =>
    unfold takeComp at h
    split at h
    next hk =>
      cases h
      exact ⟨List.mem_cons_self, hk.1, hk.2, rfl⟩
    · split at h
      next x r hr =>
        cases h
        obtain ⟨hmem, hp, hq, hlen⟩ := ih hr
        exact ⟨List.mem_cons_of_mem k hmem, hp, hq, congrArg (· + 1) hlen⟩
      · exact nomatch h

/-- A write of a queue changes nothing else of its port. -/
theorem Dev.port_setQueue_same (d : Dev) (p q : Nat) (x : Queue) :
    (d.setQueue p q x).port p = { d.port p with queues := ((d.setQueue p q x).port p).queues } :=
  (d.onlyQueue_setQueue p q x).1 p

/-- The message of a port in D0 goes, or stands pending. -/
theorem Dev.msix_of_d0 {d : Dev} {p : Nat} (hd0 : (d.port p).d3 = false) (n : Nat) :
    let goes := (d.port p).msixEn && !(d.port p).msixMask.getLsbD n
    let e := d.msix p n
    e = { d with ports := e.ports, out := e.out } ∧ e.out = (if goes then d.out ++ [.msix p n] else d.out) ∧
      (e.port p).msixPend = (if !goes then (d.port p).msixPend ||| BitVec.ofNat 17 (2 ^ n) else (d.port p).msixPend) ∧
      ∀ p' q', e.queue p' q' = d.queue p' q' := by
  intro goes e
  have he : e = if goes then d.emit (.msix p n)
      else d.setPort p { d.port p with msixPend := (d.port p).msixPend ||| BitVec.ofNat 17 (2 ^ n) } := by
    simp only [e, goes, Dev.msix, hd0, Bool.not_false, Bool.and_true]
  cases hgo : goes
  · simp only [hgo] at he
    rw [he]
    refine ⟨rfl, rfl, congrArg HostPort.msixPend (d.port_setPort_same p _), d.queue_setPort rfl⟩
  · simp only [hgo, if_true] at he
    rw [he]
    exact ⟨rfl, rfl, rfl, fun _ _ => rfl⟩

theorem exec_completionWrite (s : State) (p q : Nat) :
    exec (.completionWrite p q) s = .next (s.on (completionWriteOp s.variant p q s.dev)) := rfl

/-- What a completion write does with the completion that it takes. -/
def Dev.writeComp (d : Dev) (p q : Nat) (c : Comp) (rest : List Comp) : Dev :=
  ({ d with comps := rest }.toHost p ((d.queue p q).cqbase.toNat + 16 * (d.queue p q).cqtail.toNat)
    (compBytes c (d.queue p q).sqhead (d.queue p q).phase)).setQueue p q
      { d.queue p q with cqtail := nextSlot (d.queue p q).cqtail (d.queue p q).cqsize,
                         phase := if (d.queue p q).cqtail = (d.queue p q).cqsize then !(d.queue p q).phase else (d.queue p q).phase }

/-- The write of a completion leaves of its port all but the queue. -/
theorem Dev.port_writeComp (d : Dev) (p q : Nat) (c : Comp) (rest : List Comp) :
    (d.writeComp p q c rest).port p = { d.port p with queues := ((d.writeComp p q c rest).port p).queues } :=
  Dev.port_setQueue_same ..

theorem completionWriteOp_of_free {v : Variant} {d : Dev} {p q : Nat} {c : Comp} {rest : List Comp} (hup : portUp v d p = true)
    (hd0 : (d.port p).d3 = false) (hen : (d.queue p q).en = true)
    (hfree : nextSlot (d.queue p q).cqtail (d.queue p q).cqsize ≠ (d.queue p q).cqhead) (hc : takeComp p q d.comps = some (c, rest)) :
    completionWriteOp v p q d =
      if (d.queue p q).ie then (d.writeComp p q c rest).msix p q else d.writeComp p q c rest := by
  have hmay : (portUp v d p && !(d.port p).d3 && (d.queue p q).en &&
      nextSlot (d.queue p q).cqtail (d.queue p q).cqsize != (d.queue p q).cqhead) = true := by simp [hup, hd0, hen, hfree]
  unfold completionWriteOp
  dsimp only
  rw [if_pos hmay, hc]
  rfl

/-- Settles O6: the slot takes the first completion of its queue, and the message follows the write. -/
theorem completionWaitsForSlot : Obligations.CompletionWaitsForSlot := by
  intro s p q
  refine ⟨fun c rest hup hd0 hen hfree hc => ?_, fun hfull => ?_⟩
  · rw [exec_completionWrite, completionWriteOp_of_free hup hd0 hen hfree hc]
    obtain ⟨hmem, hp, hq, hlen⟩ := takeComp_some hc
    have hport := s.dev.port_writeComp p q c rest
    have hqueue : (s.dev.writeComp p q c rest).queue p q = _ := Dev.queue_setQueue_same ..
    by_cases hie : (s.dev.queue p q).ie = true
    · obtain ⟨hframe, hout, hpend, hkeep⟩ := Dev.msix_of_d0 (d := s.dev.writeComp p q c rest) (p := p) (by rw [hport]; exact hd0) q
      rw [hport] at hout hpend
      rw [if_pos hie]
      refine ⟨_, rfl, congrArg s.on hframe, hmem, hp, hq, hlen, ?_, ?_, (hkeep p q).trans hqueue⟩
      · simp only [hie, Bool.true_and]
        exact hout
      · simp only [hie, Bool.true_and]
        exact hpend
    · rw [if_neg hie]
      refine ⟨_, rfl, rfl, hmem, hp, hq, hlen, ?_, ?_, hqueue⟩
      · simp only [hie, Bool.false_and]
        rfl
      · have hpend := congrArg HostPort.msixPend hport
        simp only [hie, Bool.false_and]
        exact hpend
  · simp [exec_completionWrite, completionWriteOp, hfull]

end Sys2Proof.Machine

/-!
PROOFS for the host commands of identity and of the dictionary (ch. 13, 14): how a command that ends changes the device, and what IDENTIFY, OD READ
and OD WRITE leave (R353, R358, R359, R392, R393, R407).
-/
namespace Sys2Proof.Machine

open Sys2Proof

/-! ### The end of a command -/

/-- A command that succeeds leaves the commands in flight, and its completion waits. -/
theorem Dev.succeeds_eq {d : Dev} {id : Nat} {c : Cmd} (h : d.cmdOf id = some c) (result : Nat) : d.succeeds id result =
    { d with cmds := d.cmds.filter (fun x => x.id != c.id), comps := d.comps ++ [compFor c stSuccess 0 result] } := by
  rw [Dev.succeeds, Dev.finish_of_cmdOf h (by decide), ← (Dev.cmdOf_id h).1]
  rfl

/-- A command that fails, but for a host access, leaves the commands in flight, and its completion waits. -/
theorem Dev.fails_eq {d : Dev} {id : Nat} {c : Cmd} (h : d.cmdOf id = some c) {st : BitVec 8} (hs : st ≠ stHostAccess) (detail : Nat) :
    d.fails id st detail =
      { d with cmds := d.cmds.filter (fun x => x.id != c.id), comps := d.comps ++ [compFor c st detail 0] } := by
  rw [Dev.fails, Dev.finish_of_cmdOf h hs, ← (Dev.cmdOf_id h).1]
  rfl

/-! ### IDENTIFY (R353, R358) -/

theorem exec_identify (s : State) (cmd : Nat) : exec (.identify cmd) s = .next (s.on (identifyOp s.variant cmd s.dev)) := rfl

theorem identifyOp_of_open {v : Variant} {d : Dev} {cmd : Nat} {c : Cmd} (hc : d.starting cmd 0x01 = some c)
    (hd0 : (d.port c.port).d3 = false) : identifyOp v cmd d =
      ((d.modPort c.port fun x => { x with gen := 0 }).toHost c.port (c.P 0) (identityRecord v d c.port)).succeeds cmd 0 := by
  simp only [identifyOp, hc, hostOpen, hd0, Bool.not_false, if_true]
  rfl

/-! ### OD READ (R359, R392) -/

theorem exec_odRead (s : State) (cmd : Nat) : exec (.odRead cmd) s = .next (s.on (odReadOp s.variant cmd s.dev)) := rfl

theorem odReadOp_of_value {v : Variant} {d : Dev} {cmd : Nat} {c : Cmd} {value : Bytes} (hserved : odServed d = true)
    (hc : d.starting cmd 0x02 = some c) (hring : c.odIdx ≠ 0x5800) (hopen : c.P 1 = 0 ∨ (d.port c.port).d3 = false)
    (hread : odRead v d (.port c.port) 0 c.odIdx c.odSub (if c.P 1 = 0 then 8 else c.odLen) = (stSuccess, value)) :
    odReadOp v cmd d = if c.P 1 = 0 then d.succeeds cmd (leNat value) else (d.toHost c.port (c.P 1) value).succeeds cmd value.length := by
  have hgo : ¬(!odServed d || c.odIdx = 0x5800 || (c.P 1 ≠ 0 && !hostOpen d c)) = true := by
    rcases hopen with h | h <;> simp [hserved, hring, hostOpen, h]
  simp only [odReadOp, hc]
  rw [if_neg hgo, hread]
  simp

/-! ### OD WRITE (R359, R393, R407) -/

theorem exec_odWrite (s : State) (cmd : Nat) (value : HostRead) :
    exec (.odWrite cmd value) s = .next (s.on (odWriteOp s.variant cmd value s.dev)) := rfl

/-- A write that passes its checks is offered as a class P write, or holds its value at once. -/
theorem odWriteOp_of_passed {v : Variant} {d : Dev} {cmd : Nat} {value : HostRead} {c : Cmd} {b : Bytes} {e : OdEntry}
    (hserved : odServed d = true) (hc : d.starting cmd 0x03 = some c) (hown : ownStep c.odIdx c.odSub = false)
    (he : odEntry c.odIdx c.odSub = some e) (hopen : c.P 1 = 0 ∧ c.odLen ≤ 8 ∨ c.P 1 ≠ 0 ∧ (d.port c.port).d3 = false)
    (hvalue : cmdValue c value = .ok b)
    (hearly : odWriteEarly v d (.port c.port) 0 c.odIdx c.odSub c.odLen (odNames c.odIdx b) = stSuccess)
    (hchecks : odWriteChecks v d (.port c.port) 0 c.odIdx c.odSub b = stSuccess) :
    odWriteOp v cmd value d = if e.cls = .p then offerP cmd c.odIdx c.odSub b d
      else (storeValue (.port c.port) c.odIdx c.odSub b d).succeeds cmd 0 := by
  have hlen : ¬(c.P 1 = 0 ∧ 8 < c.odLen) := by
    rcases hopen with ⟨-, h⟩ | ⟨h, -⟩
    · omega
    · exact fun hz => h hz.1
  unfold odWriteOp
  simp only [hc, hvalue]
  rw [if_neg (by rcases hopen with ⟨h, -⟩ | ⟨-, h⟩ <;> simp [hserved, hostOpen, h, hown]), if_neg (by simp [hearly]), if_neg hlen, if_neg (by simp [hchecks]), he]
  simp

/-- A value that is held at once: a number of another kind of entry, or a part of the log's or of the life cycle's stores. -/
theorem storeValue_frame (src : Source) (idx sub : Nat) (b : Bytes) (d : Dev) :
    storeValue src idx sub b d = { d with log := (storeValue src idx sub b d).log, sec := (storeValue src idx sub b d).sec,
                                          vals := (storeValue src idx sub b d).vals } := by
  unfold storeValue
  dsimp only
  split_ifs <;> rfl

theorem tfind_storeValue {idx : Nat} (h : idx ≠ 0x5030) (h' : idx ≠ 0x7020) (src : Source) (sub : Nat) (b : Bytes) (d : Dev) :
    tfind (storeValue src idx sub b d).vals (odKey idx sub) = some b := by
  unfold storeValue
  dsimp only
  rw [if_neg h, if_neg h']
  exact tfind_tset_same ..

section
variable {d : Dev} {cmd idx sub : Nat} {b : Bytes} (hnew : d.pendingP (odKey idx sub) = false)
include hnew

theorem offerP_of_held (hheld : d.heldP idx sub = b) : offerP cmd idx sub b d = d.succeeds cmd 0 := by
  simp [offerP, hnew, hheld]

theorem offerP_of_token (hheld : d.heldP idx sub ≠ b) (htok : d.jour.tokens ≠ 0) :
    offerP cmd idx sub b d = ((takeToken d).busy cmd).queueP [(odKey idx sub, b)] (.cmd cmd) true := by
  simp [offerP, hnew, hheld, htok]

theorem offerP_of_throttled (hheld : d.heldP idx sub ≠ b) (htok : d.jour.tokens = 0) :
    offerP cmd idx sub b d = (throttle d).fails cmd stThrottled 0 := by
  simp [offerP, hnew, hheld, htok]

end

/-- Settles O7: each command's conditions lead to one update of the device and one completion. -/
theorem identifyAndDictionaryServed : Obligations.IdentifyAndDictionaryServed := by
  refine ⟨fun s cmd c hc hd0 => ?_, fun s cmd c hserved => ⟨fun value hc hring hopen hread => ?_,
    fun value b e hc hown he hopen hvalue hearly hchecks hnew => ?_⟩⟩
  · obtain ⟨hcmd, -, -⟩ := Dev.starting_cases hc
    rw [exec_identify, identifyOp_of_open hc hd0, Dev.succeeds_eq (c := c) (by exact hcmd)]
    exact ⟨_, rfl, rfl, ⟨rfl, rfl⟩, s.dev.onlyPort_modPort c.port fun x => { x with gen := 0 },
      s.dev.port_modPort_same c.port fun x => { x with gen := 0 }, rfl⟩
  · obtain ⟨hcmd, -, -⟩ := Dev.starting_cases hc
    rw [exec_odRead, odReadOp_of_value hserved hc hring hopen hread, Dev.succeeds_eq hcmd, Dev.succeeds_eq (c := c) (by exact hcmd)]
    by_cases hbuf : c.P 1 = 0
    · simp only [hbuf, if_true]
      exact ⟨_, rfl, rfl, ⟨rfl, rfl⟩, rfl⟩
    · simp only [hbuf, if_false]
      exact ⟨_, rfl, rfl, ⟨rfl, rfl⟩, rfl⟩
  · obtain ⟨hcmd, -, -⟩ := Dev.starting_cases hc
    rw [exec_odWrite, odWriteOp_of_passed hserved hc hown he hopen hvalue hearly hchecks]
    by_cases hp : e.cls = .p
    · rw [if_pos hp]
      refine ⟨_, rfl, ?_, ?_, ?_, fun h => absurd hp h⟩
      · rintro ⟨-, hheld⟩
        rw [offerP_of_held hnew hheld, Dev.succeeds_eq hcmd]
        exact ⟨⟨rfl, rfl⟩, rfl⟩
      · rintro ⟨-, hheld, htok⟩
        rw [offerP_of_token hnew hheld htok]
        exact ⟨rfl, Nat.sub_add_cancel (Nat.pos_of_ne_zero htok), rfl, rfl⟩
      · rintro ⟨-, hheld, htok⟩
        rw [offerP_of_throttled hnew hheld htok, Dev.fails_eq (c := c) (by exact hcmd) (by decide)]
        exact ⟨⟨rfl, rfl⟩, s.dev.counted_count 0x1400 6 1, rfl⟩
    · rw [if_neg hp, storeValue_frame, Dev.succeeds_eq (c := c) (by exact hcmd)]
      refine ⟨_, rfl, fun h => absurd h.1 hp, fun h => absurd h.1 hp, fun h => absurd h.1 hp, fun _ => ⟨⟨rfl, rfl⟩, rfl, rfl, fun h h' => ?_⟩⟩
      exact tfind_storeValue h h' ..

end Sys2Proof.Machine

/-!
PROOFS for the objects of a port (ch. 7, 11, 13): where ALLOC places an allocation and what FREE releases (R290, R360 to R362, R370), and the
descriptors that DESC CREATE and DESC DESTROY make and take away (R191, R208, R209).
-/
namespace Sys2Proof

theorem tget_tset_same {α : Type} (z : α) (t : Tab α) (k : Nat) (x : α) : tget z (tset t k x) k = x := by
  rw [tget, tfind_tset_same, Option.getD_some]

end Sys2Proof

namespace Sys2Proof.Machine

open Sys2Proof

/-! ### Frames and arcs (R289, R290) -/

/-- The firmware chooses a frame that no allocation uses. -/
theorem pickFrame_some {d : Dev} {stack n f : Nat} (h : pickFrame d stack n = some f) : f < 1072 ∧ (stack, f) ∉ d.usedFrames := by
  have hmem := List.mem_of_getElem? h
  simpa [freeFrames] using hmem

/-- An arc of a hub takes a free frame of each of its two stacks. -/
structure ArcTaken (d e : Dev) (hub : Nat) (r : Arc) : Prop where
  onHub : r.hub = hub
  low : r.frame0 < 1072
  high : r.frame1 < 1072
  free0 : (2 * hub, r.frame0) ∉ d.usedFrames
  free1 : (2 * hub + 1, r.frame1) ∉ d.usedFrames
  dev : e = { d with usedFrames := d.usedFrames ++ [(2 * hub, r.frame0), (2 * hub + 1, r.frame1)], free := e.free }

theorem takeArc_some {hub : Nat} {d e : Dev} {r : Arc} (h : takeArc hub d = some (r, e)) : ArcTaken d e hub r := by
  simp only [takeArc, Option.bind_eq_some_iff, Option.map_eq_some_iff, Prod.mk.injEq] at h
  obtain ⟨f0, hf0, f1, hf1, rfl, rfl⟩ := h
  obtain ⟨hlow, hfree0⟩ := pickFrame_some hf0
  obtain ⟨hhigh, hfree1⟩ := pickFrame_some hf1
  exact ⟨rfl, hlow, hhigh, hfree0, hfree1, rfl⟩

/-- The arcs of the listed hubs, each with frames that were free before, are in use afterwards. -/
theorem takeArcs_some {hubs : List Nat} {d e : Dev} {rs : List Arc} (h : takeArcs d hubs = some (rs, e)) :
    rs.length = hubs.length ∧ e = { d with usedFrames := e.usedFrames, free := e.free } ∧ (∀ f ∈ d.usedFrames, f ∈ e.usedFrames) ∧
      ∀ r ∈ rs, r.frame0 < 1072 ∧ r.frame1 < 1072 ∧ (2 * r.hub, r.frame0) ∉ d.usedFrames ∧ (2 * r.hub + 1, r.frame1) ∉ d.usedFrames ∧
        (2 * r.hub, r.frame0) ∈ e.usedFrames ∧ (2 * r.hub + 1, r.frame1) ∈ e.usedFrames := by
  induction hubs generalizing d rs with
  | nil =>
    cases h
    exact ⟨rfl, rfl, fun _ hf => hf, fun r hr => nomatch hr⟩
  | cons hub hubs ih =>
    simp only [takeArcs, Option.bind_eq_some_iff, Option.map_eq_some_iff, Prod.mk.injEq] at h
    obtain ⟨⟨r, d1⟩, hr, ⟨rs', e'⟩, hrs, rfl, rfl⟩ := h
    obtain ⟨rfl, hlow, hhigh, hfree0, hfree1, hdev⟩ := takeArc_some hr
    obtain ⟨hlen, hframe, hkeep, harcs⟩ := ih hrs
    have hsub : ∀ f ∈ d.usedFrames ++ [(2 * r.hub, r.frame0), (2 * r.hub + 1, r.frame1)], f ∈ e'.usedFrames := by
      intro f hf
      refine hkeep f ?_
      rw [hdev]
      exact hf
    refine ⟨congrArg (· + 1) hlen, ?_, fun f hf => hsub f (List.mem_append_left _ hf), fun x hx => ?_⟩
    · rw [hframe, hdev]
    · rcases List.mem_cons.mp hx with rfl | hx
      · exact ⟨hlow, hhigh, hfree0, hfree1, hsub _ (by simp), hsub _ (by simp)⟩
      · obtain ⟨h0, h1, hn0, hn1, hu0, hu1⟩ := harcs x hx
        rw [hdev] at hn0 hn1
        exact ⟨h0, h1, fun hm => hn0 (List.mem_append_left _ hm), fun hm => hn1 (List.mem_append_left _ hm), hu0, hu1⟩

/-! ### Small allocations in a shared arc (R290, R360) -/

theorem mem_smallOn {d : Dev} {hub : Nat} {r : Arc} {pos size : Nat} :
    (r, pos, size) ∈ smallOn d hub ↔ r.hub = hub ∧ ∃ a ∈ d.allocs, a.kind = .stack ∧ a.size < 2 ^ 27 ∧ a.arcs = [r] ∧ a.pos = pos ∧ a.size = size := by
  unfold smallOn
  rw [List.mem_filterMap]
  constructor
  · rintro ⟨a, ha, h⟩
    split at h
    next hs =>
      simp only [Bool.and_eq_true, decide_eq_true_eq] at hs
      split at h
      next x hx =>
        split at h
        next hub' =>
          cases h
          exact ⟨hub', a, ha, hs.1, hs.2, hx, rfl, rfl⟩
        · cases h
      · cases h
    · cases h
  · rintro ⟨rfl, a, ha, hk, hsize, harcs, rfl, rfl⟩
    exact ⟨a, ha, by simpa [hk, harcs] using hsize⟩

/-- A place among the small allocations of a hub: at a multiple of 64 KiB in an arc that they share, apart from each of them. -/
theorem mem_smallPlaces {d : Dev} {hub size p : Nat} {r : Arc} (h : (r, p) ∈ smallPlaces d hub size) :
    r.hub = hub ∧ p % 65536 = 0 ∧ p + size ≤ 2 ^ 27 ∧
      ∀ b ∈ d.allocs, b.kind = .stack → b.size < 2 ^ 27 → b.arcs = [r] → b.pos + b.size ≤ p ∨ p + size ≤ b.pos := by
  simp only [smallPlaces, List.mem_flatten, List.mem_map, List.mem_eraseDups] at h
  obtain ⟨_, ⟨x, ⟨⟨y, pos, sz⟩, hy, rfl⟩, rfl⟩, hin⟩ := h
  simp only [List.mem_map, List.mem_filter, Prod.mk.injEq, Bool.and_eq_true, decide_eq_true_eq] at hin
  obtain ⟨k, ⟨-, hfit, hapart⟩, rfl, rfl⟩ := hin
  obtain ⟨hhub, -⟩ := mem_smallOn.mp hy
  refine ⟨hhub, Nat.mul_mod_right .., hfit, fun b hb hk hsize harcs => ?_⟩
  have h := List.all_eq_true.mp hapart (y, b.pos, b.size) (mem_smallOn.mpr ⟨hhub, b, hb, hk, hsize, harcs, rfl, rfl⟩)
  simp only [ne_eq, not_true_eq_false, decide_false, Bool.false_or, Bool.or_eq_true, decide_eq_true_eq] at h
  exact h.symm

/-! ### ALLOC (R290, R355, R356, R360, R361) -/

theorem placeAlloc_small {v : Variant} {spread : Bool} {hub size pos : Nat} {d e : Dev} {arcs : List Arc} (hsize : size < 2 ^ 27)
    (h : placeAlloc v spread hub size d = some (arcs, pos, e)) :
    e = { d with usedFrames := e.usedFrames, free := e.free } ∧
      ∃ r, arcs = [r] ∧ r.hub = hub ∧ pos % 65536 = 0 ∧ pos + size ≤ 2 ^ 27 ∧
        ∀ b ∈ d.allocs, b.kind = .stack → b.size < 2 ^ 27 → b.arcs = [r] → (2 * r.hub, r.frame0) ∈ d.usedFrames →
          b.pos + b.size ≤ pos ∨ pos + size ≤ b.pos := by
  unfold placeAlloc at h
  rw [if_pos hsize] at h
  dsimp only at h
  split at h
  next r p hp =>
    cases h
    obtain ⟨hhub, hmod, hfit, hapart⟩ := mem_smallPlaces (List.mem_of_getElem? hp)
    exact ⟨rfl, r, rfl, hhub, hmod, hfit, fun b hb hk hs ha _ => hapart b hb hk hs ha⟩
  · obtain ⟨⟨r, d1⟩, hr, heq⟩ := Option.map_eq_some_iff.mp h
    cases heq
    obtain ⟨rfl, -, -, hfree, -, hdev⟩ := takeArc_some hr
    refine ⟨?_, r, rfl, rfl, rfl, by omega, fun b _ _ _ _ hused => absurd hused hfree⟩
    rw [hdev]
    rfl

theorem placeAlloc_arcs {v : Variant} {spread : Bool} {hub size pos : Nat} {d e : Dev} {arcs : List Arc} (hsize : 2 ^ 27 ≤ size)
    (h : placeAlloc v spread hub size d = some (arcs, pos, e)) :
    e = { d with usedFrames := e.usedFrames, free := e.free } ∧ arcs.length = size / 2 ^ 27 ∧ pos = 0 ∧
      ∀ r ∈ arcs, r.frame0 < 1072 ∧ r.frame1 < 1072 ∧ (2 * r.hub, r.frame0) ∉ d.usedFrames ∧ (2 * r.hub + 1, r.frame1) ∉ d.usedFrames ∧
        (2 * r.hub, r.frame0) ∈ e.usedFrames ∧ (2 * r.hub + 1, r.frame1) ∈ e.usedFrames := by
  unfold placeAlloc at h
  rw [if_neg (Nat.not_lt.mpr hsize)] at h
  obtain ⟨⟨rs, d1⟩, hr, heq⟩ := Option.map_eq_some_iff.mp h
  cases heq
  obtain ⟨hlen, hframe, -, harcs⟩ := takeArcs_some hr
  exact ⟨hframe, by rw [hlen, List.length_map, List.length_range], rfl, harcs⟩

theorem exec_alloc (s : State) (cmd : Nat) : exec (.alloc cmd) s = .next (s.on (allocOp s.variant cmd s.dev)) := rfl

/-- The allocation that a command asks for, under index i of its port. -/
def Cmd.alloc (c : Cmd) (i : Nat) (kind : AllocKind) (size : Nat) : Alloc :=
  { handle := c.port * 2 ^ 30 + i, port := c.port, kind := kind, size := size, spread := !bitOf (c.P 1) 2, h0 := bitsOf (c.P 1) 4 3,
    policy := bitsOf (c.P 1) 6 5, arcs := [], pos := 0, export_ := bitsOf (c.P 1) 19 8, rights := BitVec.ofNat 4 (bitsOf (c.P 1) 23 20),
    issuer := 0, winHub := 0, winGroup := 0, peer := 0, peerExp := 0, live := true }

/-- The allocation holds the index at the head of its port's queue. -/
def Dev.addAlloc (d : Dev) (a : Alloc) : Dev :=
  { d with allocs := d.allocs ++ [a],
           allocIdx := tset d.allocIdx a.port (tget (IdxQueue.fresh (2 ^ 30 - 1)) d.allocIdx a.port).pop }

section
variable {v : Variant} {d : Dev} {cmd i : Nat} {c : Cmd} (hc : d.starting cmd 0x08 = some c)
  (hi : (tget (IdxQueue.fresh (2 ^ 30 - 1)) d.allocIdx c.port).head = some i)
include hc hi

theorem allocOp_halo (hkind : bitsOf (c.P 1) 1 0 = 1) :
    allocOp v cmd d = (d.addAlloc { c.alloc i .halo (c.P 0) with issuer := c.P 2 }).succeeds cmd (c.port * 2 ^ 30 + i) := by
  simp only [allocOp, hc, hi, hkind]
  rfl

theorem allocOp_window (h0 : bitsOf (c.P 1) 1 0 ≠ 0) (h1 : bitsOf (c.P 1) 1 0 ≠ 1) :
    allocOp v cmd d = (d.addAlloc { c.alloc i .window (c.P 0) with
      winHub := bitsOf (c.P 2) 1 0, winGroup := bitsOf (c.P 2) 2 2, peer := BitVec.ofNat 64 (c.P 3),
      peerExp := bitsOf (c.P 4) 11 0 }).succeeds cmd (c.port * 2 ^ 30 + i) := by
  simp only [allocOp, hc, hi, h0, h1, if_false]
  rfl

theorem allocOp_stack {arcs : List Arc} {pos : Nat} {d1 : Dev} (h0 : bitsOf (c.P 1) 1 0 = 0)
    (hon : ((List.range (max 1 (allocSize (c.P 0) / 2 ^ 27))).map (arcHub v (!bitOf (c.P 1) 2) (bitsOf (c.P 1) 4 3))).any (stacksOffline d) = false)
    (hplace : placeAlloc v (!bitOf (c.P 1) 2) (bitsOf (c.P 1) 4 3) (allocSize (c.P 0)) d = some (arcs, pos, d1))
    (hexp : exportTaken d (bitsOf (c.P 1) 19 8) = false) :
    let a : Alloc := { c.alloc i .stack (allocSize (c.P 0)) with arcs := arcs, pos := pos }
    let d2 : Dev := { d1 with allocs := d1.allocs ++ [a], allocIdx := tset d1.allocIdx c.port (tget (IdxQueue.fresh (2 ^ 30 - 1)) d.allocIdx c.port).pop }
    allocOp v cmd d = (if bitOf (c.P 1) 7 then devPut v a 0 (List.replicate a.size 0) d2 else d2).succeeds cmd (c.port * 2 ^ 30 + i) := by
  simp only [allocOp, hc, hi, h0, if_true, hon, hplace, hexp, Bool.false_eq_true, if_false]
  rfl

end

/-! ### FREE (R356, R362, R370) -/

theorem exec_free (s : State) (cmd : Nat) : exec (.free cmd) s = .next (s.on (freeOp cmd s.dev)) := rfl

/-- The allocation's export has ended, and it is no longer live. -/
def Dev.endAlloc (d : Dev) (h : Nat) : Dev :=
  { d with allocs := d.allocs.map fun b => if b.handle = h then { b with export_ := 0, live := false } else b }

/-- A command under way waits for the admitted requests of an export. -/
def Dev.busyOn (d : Dev) (cmd h : Nat) : Dev :=
  { d.busy cmd with cmds := (d.busy cmd).cmds.map fun e => if e.id = cmd then { e with waits := [h] } else e }

section
variable {d : Dev} {cmd : Nat} {c : Cmd} (hc : d.starting cmd 0x09 = some c)
include hc

theorem freeOp_alloc {a : Alloc} (hkind : bitOf (c.P 0) 32 = false) (ha : d.allocOf (bitsOf (c.P 0) 31 0) = some a) (hport : a.port = c.port)
    (hlive : a.live = true) (hpin : allocPinned d (bitsOf (c.P 0) 31 0) = false) :
    freeOp cmd d = if exportBusy d (bitsOf (c.P 0) 31 0) then (d.endAlloc (bitsOf (c.P 0) 31 0)).busyOn cmd (bitsOf (c.P 0) 31 0)
      else (releaseAlloc a (d.endAlloc (bitsOf (c.P 0) 31 0))).succeeds cmd 0 := by
  obtain ⟨hcmd, hopc, hmay⟩ := Dev.starting_cases hc
  have hready : c.stage ≠ .busy := by
    intro hb
    simp [Dev.mayStart, hb] at hmay
  simp only [freeOp, hcmd, hopc, hmay, true_or, and_self, if_true, hkind, ha, hready, hport, hlive, hpin, if_false, ne_eq, not_true_eq_false,
    Bool.not_true, Bool.false_eq_true, or_self]
  rfl

theorem freeOp_prog {p : Program} (hkind : bitOf (c.P 0) 32 = true) (hp : d.progOf (bitsOf (c.P 0) 31 0) = some p) (hport : p.port = c.port)
    (hdoomed : p.doomed = false) (hidle : d.jobs.any (fun j => j.prog = bitsOf (c.P 0) 31 0) = false) :
    freeOp cmd d = (settlePins (releaseProg p d)).succeeds cmd 0 := by
  obtain ⟨hcmd, hopc, hmay⟩ := Dev.starting_cases hc
  simp only [freeOp, hcmd, hopc, hmay, true_or, and_self, if_true, hkind, hp, hport, hdoomed, liveJobs, hidle, if_false, ne_eq, not_true_eq_false,
    Bool.false_eq_true, or_self]

end

/-! ### What a release leaves -/

/-- The release of an allocation takes it away and puts its index at the tail of its port's queue. -/
theorem releaseAlloc_frame (a : Alloc) (d : Dev) :
    let e := releaseAlloc a d
    e = { d with allocs := d.allocs.filter (fun b => b.handle ≠ a.handle), usedFrames := e.usedFrames, mem := e.mem, spans := e.spans,
                 allocIdx := tset d.allocIdx a.port ((tget (IdxQueue.fresh (2 ^ 30 - 1)) d.allocIdx a.port).push (a.handle % 2 ^ 30)) } := by
  unfold releaseAlloc
  dsimp only
  split <;> rfl

/-- The release of programs and allocations whose last pin has gone: the programs released leave their queues with further indices at the tail. -/
structure Settled (d e : Dev) : Prop where
  frame : e = { d with progs := e.progs, progIdx := e.progIdx, allocs := e.allocs, allocIdx := e.allocIdx, usedFrames := e.usedFrames,
                       mem := e.mem, spans := e.spans }
  progs : ∀ x ∈ e.progs, x ∈ d.progs
  tail : ∀ p, ∃ l, (tget (IdxQueue.fresh (2 ^ 30 - 1)) e.progIdx p).tail = (tget (IdxQueue.fresh (2 ^ 30 - 1)) d.progIdx p).tail ++ l

theorem Settled.refl (d : Dev) : Settled d d := ⟨rfl, fun _ hx => hx, fun p => ⟨[], by simp⟩⟩

theorem Settled.trans {d e f : Dev} (h : Settled d e) (h' : Settled e f) : Settled d f where
  frame := by rw [h'.frame, h.frame]
  progs := fun x hx => h.progs x (h'.progs x hx)
  tail := fun p => by
    obtain ⟨l, hl⟩ := h.tail p
    obtain ⟨l', hl'⟩ := h'.tail p
    exact ⟨l ++ l', by rw [hl', hl, List.append_assoc]⟩

theorem tget_tset_other {α : Type} (z : α) (t : Tab α) {k j : Nat} (x : α) (h : j ≠ k) : tget z (tset t k x) j = tget z t j := by
  rw [tget, tfind_tset_other t x h, tget]

theorem settled_releaseProg (p : Program) (d : Dev) : Settled d (releaseProg p d) where
  frame := rfl
  progs := fun x hx => List.mem_of_mem_filter hx
  tail := fun q => by
    by_cases hq : q = p.port
    · subst hq
      exact ⟨[p.handle % 2 ^ 30], by rw [releaseProg, tget_tset_same]; rfl⟩
    · exact ⟨[], by rw [releaseProg, tget_tset_other _ _ _ hq, List.append_nil]⟩

theorem settled_releaseAlloc (a : Alloc) (d : Dev) : Settled d (releaseAlloc a d) := by
  rw [releaseAlloc_frame]
  exact ⟨rfl, fun _ hx => hx, fun p => ⟨[], by simp⟩⟩

theorem settled_settlePins (d : Dev) : Settled d (settlePins d) := by
  unfold settlePins
  refine Settled.trans ?_ (List.foldlRecOn (motive := Settled _) _ _ (Settled.refl _) fun e he a _ => he.trans (settled_releaseAlloc a e))
  exact List.foldlRecOn (motive := Settled d) _ _ (Settled.refl d) fun e he p _ => he.trans (settled_releaseProg p e)

theorem Dev.allocOf_handle {d : Dev} {h : Nat} {a : Alloc} (ha : d.allocOf h = some a) : a.handle = h := by
  simpa using List.find?_some ha

theorem Dev.progOf_handle {d : Dev} {h : Nat} {p : Program} (hp : d.progOf h = some p) : p.handle = h := by
  simpa using List.find?_some hp

/-- An export that has ended is taken only where another allocation exports the same number. -/
theorem exportTaken_endAlloc (d : Dev) (h n : Nat) :
    exportTaken (d.endAlloc h) n = (decide (n ≠ 0) && d.allocs.any (fun b => b.handle ≠ h && b.export_ = n)) := by
  unfold exportTaken Dev.endAlloc
  by_cases hn : n = 0
  · simp [hn]
  · simp only [List.any_map]
    congr 2
    funext b
    by_cases hb : b.handle = h
    · simp [hb, Ne.symm hn]
    · simp [hb]

/-- Settles O8: the placement of ALLOC comes from the free frames and places, and FREE releases one object, after whatever still pins it. -/
theorem allocationsTakenAndFreed : Obligations.AllocationsTakenAndFreed := by
  refine ⟨fun s cmd c i hc hi => ⟨fun hkind => ?_, fun arcs pos d1 hkind hon hplace hexp => ⟨?_, fun hsize => ?_, fun hsize => ?_⟩⟩,
    fun s cmd c hc => ⟨fun a hkind ha hport hlive hpin => ?_, fun p hkind hp hport hdoomed hidle => ?_⟩⟩
  · obtain ⟨hcmd, -, -⟩ := Dev.starting_cases hc
    by_cases h1 : bitsOf (c.P 1) 1 0 = 1
    · rw [exec_alloc, allocOp_halo hc hi h1, Dev.succeeds_eq (c := c) (by exact hcmd)]
      exact ⟨_, rfl, rfl, ⟨rfl, rfl⟩, tget_tset_same .., _, rfl, rfl, rfl, rfl, rfl, rfl, rfl, fun _ => ⟨rfl, rfl⟩, fun h => absurd h1 h⟩
    · rw [exec_alloc, allocOp_window hc hi hkind h1, Dev.succeeds_eq (c := c) (by exact hcmd)]
      exact ⟨_, rfl, rfl, ⟨rfl, rfl⟩, tget_tset_same .., _, rfl, rfl, rfl, rfl, rfl, rfl, rfl, fun h => absurd h h1,
        fun _ => ⟨rfl, rfl, rfl, rfl, rfl⟩⟩
  · have hframe : d1 = { s.dev with usedFrames := d1.usedFrames, free := d1.free } := by
      rcases Nat.lt_or_ge (allocSize (c.P 0)) (2 ^ 27) with hsize | hsize
      · exact (placeAlloc_small hsize hplace).1
      · exact (placeAlloc_arcs hsize hplace).1
    rw [exec_alloc, allocOp_stack hc hi hkind hon hplace hexp]
    refine ⟨_, _, ?_, ?_, rfl, rfl, rfl, rfl, rfl, rfl, rfl, rfl, rfl, rfl⟩
    · rw [hframe]
    · exact tget_tset_same ..
  · obtain ⟨-, hlen, hpos, harcs⟩ := placeAlloc_arcs hsize hplace
    exact ⟨hlen, hpos, harcs⟩
  · exact (placeAlloc_small hsize hplace).2
  · obtain ⟨hcmd, -, -⟩ := Dev.starting_cases hc
    have hh := Dev.allocOf_handle ha
    rw [exec_free, freeOp_alloc hc hkind ha hport hlive hpin, ← hh]
    refine ⟨_, rfl, fun hb => ?_, fun hb => ?_⟩
    · simp only [hb, Bool.false_eq_true, if_false]
      rw [releaseAlloc_frame, Dev.succeeds_eq (c := c) (by exact hcmd)]
      refine ⟨⟨rfl, rfl⟩, fun b hb => ?_, ?_, rfl⟩
      · simpa using (List.mem_filter.mp hb).2
      · rw [← hport]
        exact tget_tset_same ..
    · simp only [hb, if_true]
      exact ⟨rfl, exportTaken_endAlloc s.dev a.handle a.export_, rfl⟩
  · obtain ⟨hcmd, -, -⟩ := Dev.starting_cases hc
    rw [exec_free, freeOp_prog hc hkind hp hport hdoomed hidle]
    have h := settled_settlePins (releaseProg p s.dev)
    obtain ⟨l, hl⟩ := h.tail c.port
    generalize settlePins (releaseProg p s.dev) = e at h hl
    have hcmd' : e.cmdOf cmd = some c := by
      rw [h.frame]
      exact hcmd
    rw [Dev.succeeds_eq hcmd']
    refine ⟨_, rfl, ?_, fun x hx => ?_, ⟨l, ?_⟩, ?_⟩
    · rw [h.frame]
      exact ⟨rfl, rfl⟩
    · simpa using (List.mem_filter.mp (h.progs x hx)).2
    · rw [State.on_dev, hl, ← hport, releaseProg, tget_tset_same]
      simp [IdxQueue.push]
    · rw [h.frame]
      rfl

/-! ### Descriptors (R191, R208, R209) -/

theorem exec_descCreate (s : State) (cmd : Nat) (image : HostRead) :
    exec (.descCreate cmd image) s = .next (s.on (descCreateOp s.variant cmd image s.dev)) := rfl

theorem exec_descDestroy (s : State) (cmd : Nat) : exec (.descDestroy cmd) s = .next (s.on (descDestroyOp cmd s.dev)) := rfl

/-- No check of an image reads host memory. -/
theorem descStatus_ne_hostAccess (v : Variant) (d : Dev) (p n : Nat) : descStatus v d p n ≠ stHostAccess := by
  unfold descStatus
  dsimp only
  cases (d.allocOf (Desc.ofImage 0 p n).alloc).filter fun a => a.live with
  | none => dsimp only; split_ifs <;> decide
  | some a => dsimp only; split_ifs <;> decide

theorem descCreateOp_of_open {v : Variant} {d : Dev} {cmd i : Nat} {c : Cmd} (hc : d.starting cmd 0x0A = some c)
    (hd0 : (d.port c.port).d3 = false) (hi : (tget (IdxQueue.fresh 16383) d.descIdx c.port).head = some i) (b : Bytes) :
    let n := leNat ((padTo 160 b).take 160)
    descCreateOp v cmd (.ok b) d = if descStatus v d c.port n = stSuccess then
        ({ d with descs := d.descs ++ [Desc.ofImage (c.port * 2 ^ 14 + i) c.port n],
                  descIdx := tset d.descIdx c.port (tget (IdxQueue.fresh 16383) d.descIdx c.port).pop }).succeeds cmd (c.port * 2 ^ 14 + i)
      else d.fails cmd (descStatus v d c.port n) 0 := by
  intro n
  have hopen : hostOpen d c = true := by simp [hostOpen, hd0]
  simp only [descCreateOp, hc, hopen, if_true, hi, ne_eq, ite_not]
  rfl

/-- Settles O9: the checks decide whether the image becomes a descriptor, and its creator takes it away again. -/
theorem descriptorsCreatedAndDestroyed : Obligations.DescriptorsCreatedAndDestroyed := by
  intro s cmd c
  refine ⟨fun b i hc hd0 hi => ?_, fun x hc hx => ⟨fun hport => ?_, fun hport huse => ?_⟩⟩
  · obtain ⟨hcmd, -, -⟩ := Dev.starting_cases hc
    dsimp only
    rw [exec_descCreate, descCreateOp_of_open hc hd0 hi]
    split
    next hst =>
      rw [Dev.succeeds_eq (c := c) (by exact hcmd)]
      exact ⟨_, rfl, rfl, ⟨rfl, rfl⟩, rfl, tget_tset_same ..⟩
    next hst =>
      rw [Dev.fails_eq hcmd (descStatus_ne_hostAccess _ _ _ _)]
      exact ⟨_, rfl, rfl, ⟨rfl, rfl⟩, rfl, rfl⟩
  · obtain ⟨hcmd, -, -⟩ := Dev.starting_cases hc
    have hop : descDestroyOp cmd s.dev = s.dev.fails cmd stDescHandle 0 := by simp [descDestroyOp, hc, hx, hport]
    rw [exec_descDestroy, hop, Dev.fails_eq hcmd (by decide)]
    exact ⟨_, rfl, ⟨rfl, rfl⟩, rfl⟩
  · obtain ⟨hcmd, -, -⟩ := Dev.starting_cases hc
    have hop : descDestroyOp cmd s.dev = (settlePins (releaseDesc x s.dev)).succeeds cmd 0 := by simp [descDestroyOp, hc, hx, hport, huse]
    rw [exec_descDestroy, hop]
    have h := (settled_settlePins (releaseDesc x s.dev)).frame
    generalize settlePins (releaseDesc x s.dev) = e at h
    have hcmd' : e.cmdOf cmd = some c := by
      rw [h]
      exact hcmd
    rw [Dev.succeeds_eq hcmd', h, ← hport]
    exact ⟨_, rfl, ⟨rfl, rfl⟩, rfl, tget_tset_same ..⟩

end Sys2Proof.Machine

/-!
SUPPORT for every command that reads or writes device memory: what an access may change (R283, R293 to R299). An access moves lines, counts and
answers, and where it meets poison it fails the tile that it serves; it changes no command, no object and no unit but for the work that they
hold of that tile.
-/
namespace Sys2Proof.Machine

open Sys2Proof

/-- What a job may turn into when tiles of it fail: it makes no further claim and holds a failure. -/
def FailsOnly (g : Job → Job) : Prop := ∀ j, g j = { j with halted := (g j).halted, fail := (g j).fail }

/-- A macro as it was, or with the block that it worked on gone. A macro that is at its reset values but for its block may be gone whole. -/
def MacsKept (d e : Dev) : Prop :=
  ∀ m, { d.mac m with blk := none } ≠ ({} : Macro) → e.mac m = d.mac m ∨ e.mac m = { d.mac m with blk := none }

/-- From `d` to `e` tiles have left, and with them what the units held of them. -/
structure TilesLeft (d e : Dev) : Prop where
  frame : e = { d with tiles := e.tiles, macros := e.macros, wedges := e.wedges, engines := e.engines, quants := e.quants, pairs := e.pairs,
                       issues := e.issues, coal := e.coal, remote := e.remote, outVecs := e.outVecs, spans := e.spans,
                       mem := { d.mem with waiting := e.mem.waiting } }
  wedge : ∀ w, e.wedge w = { d.wedge w with tiles := (e.wedge w).tiles }
  mac : MacsKept d e
  fewer : e.tiles.Sublist d.tiles

/-- From `d` to `e` accesses of device memory have taken place: the lines and stacks, the tiles and what the units hold of them, the failures of
jobs, counters, events and answers are all that may have changed. -/
structure AfterAccess (d e : Dev) : Prop where
  frame : e = { d with out := e.out, tiles := e.tiles, jobs := e.jobs, macros := e.macros, wedges := e.wedges, engines := e.engines,
                       quants := e.quants, pairs := e.pairs, issues := e.issues, coal := e.coal, remote := e.remote, gone := e.gone, mem := e.mem,
                       ctr := e.ctr, outVecs := e.outVecs, spans := e.spans }
  wedge : ∀ w, e.wedge w = { d.wedge w with tiles := (e.wedge w).tiles }
  mac : MacsKept d e
  fewer : e.tiles.Sublist d.tiles
  fails : ∃ g, FailsOnly g ∧ e.jobs = d.jobs.map g
  answers : ∃ l, e.out = d.out ++ l ∧ ∀ o ∈ l, ∃ s n b p, o = .response s n b p

variable {d e : Dev}

theorem failsOnly_id : FailsOnly id := fun _ => rfl

theorem FailsOnly.comp {f g : Job → Job} (hf : FailsOnly f) (hg : FailsOnly g) : FailsOnly (g ∘ f) := fun j => by
  rw [Function.comp_apply, hg, hf]

theorem MacsKept.refl (d : Dev) : MacsKept d d := fun _ _ => .inl rfl

theorem MacsKept.trans {f : Dev} (h : MacsKept d e) (h' : MacsKept e f) : MacsKept d f := fun m hm => by
  have hb : { e.mac m with blk := none } = ({ d.mac m with blk := none } : Macro) := by rcases h m hm with h1 | h1 <;> rw [h1]
  have h2 := h' m (hb ▸ hm)
  rw [hb] at h2
  rcases h2 with h2 | h2
  · rcases h m hm with h1 | h1
    · exact .inl (h2.trans h1)
    · exact .inr (h2.trans h1)
  · exact .inr h2

theorem TilesLeft.refl (d : Dev) : TilesLeft d d := ⟨rfl, fun _ => rfl, MacsKept.refl d, List.Sublist.refl _⟩

theorem TilesLeft.trans {f : Dev} (h : TilesLeft d e) (h' : TilesLeft e f) : TilesLeft d f where
  frame := by rw [h'.frame, h.frame]
  wedge := fun w => by rw [h'.wedge, h.wedge]
  mac := h.mac.trans h'.mac
  fewer := h'.fewer.trans h.fewer

theorem AfterAccess.refl (d : Dev) : AfterAccess d d :=
  ⟨rfl, fun _ => rfl, MacsKept.refl d, List.Sublist.refl _, ⟨id, failsOnly_id, (List.map_id _).symm⟩, ⟨[], by simp, by simp⟩⟩

theorem AfterAccess.trans {f : Dev} (h : AfterAccess d e) (h' : AfterAccess e f) : AfterAccess d f where
  frame := by rw [h'.frame, h.frame]
  wedge := fun w => by rw [h'.wedge, h.wedge]
  mac := h.mac.trans h'.mac
  fewer := h'.fewer.trans h.fewer
  fails := by
    obtain ⟨g, hg, hj⟩ := h.fails
    obtain ⟨g', hg', hj'⟩ := h'.fails
    exact ⟨g' ∘ g, hg.comp hg', by rw [hj', hj, List.map_map]⟩
  answers := by
    obtain ⟨l, hl, hr⟩ := h.answers
    obtain ⟨l', hl', hr'⟩ := h'.answers
    refine ⟨l ++ l', by rw [hl', hl, List.append_assoc], fun o ho => ?_⟩
    exact (List.mem_append.1 ho).elim (hr o) (hr' o)

theorem TilesLeft.afterAccess (h : TilesLeft d e) : AfterAccess d e where
  frame := by rw [h.frame]
  wedge := h.wedge
  mac := h.mac
  fewer := h.fewer
  fails := ⟨id, failsOnly_id, by rw [h.frame, List.map_id]⟩
  answers := ⟨[], by rw [h.frame, List.append_nil], by simp⟩

theorem afterAccess_other (h : AfterAccess d e) (engines quants pairs issues coal remote gone mem ctr outVecs spans) :
    AfterAccess d { e with engines := engines, quants := quants, pairs := pairs, issues := issues, coal := coal,
                           remote := remote, gone := gone, mem := mem, ctr := ctr, outVecs := outVecs, spans := spans } where
  frame := by rw [h.frame]
  wedge := h.wedge
  mac := h.mac
  fewer := h.fewer
  fails := h.fails
  answers := h.answers

theorem afterAccess_count (h : AfterAccess d e) (i ss n : Nat) : AfterAccess d (e.count i ss n) := afterAccess_other h ..

theorem afterAccess_response (h : AfterAccess d e) (s n : Nat) (b : Bytes) (p : Bool) : AfterAccess d (e.emit (.response s n b p)) :=
  h.trans { (AfterAccess.refl e) with frame := rfl, answers := ⟨[.response s n b p], rfl, fun _ ho => ⟨s, n, b, p, List.mem_singleton.1 ho⟩⟩ }

theorem afterAccess_foldl {α : Type} (h : AfterAccess d e) (f : Dev → α → Dev) (l : List α)
    (hf : ∀ e a, AfterAccess d e → AfterAccess d (f e a)) : AfterAccess d (l.foldl f e) :=
  List.foldlRecOn l f h fun e he a _ => hf e a he

theorem afterAccess_foldl_snd {α β : Type} {init : β × Dev} (h : AfterAccess d init.2) (f : β × Dev → α → β × Dev) (l : List α)
    (hf : ∀ r a, AfterAccess d r.2 → AfterAccess d (f r a).2) : AfterAccess d (l.foldl f init).2 :=
  List.foldlRecOn (motive := fun r => AfterAccess d r.2) l f h fun r hr a _ => hf r a hr

theorem afterAccess_foldl_snd_snd {α β γ : Type} {init : β × γ × Dev} (h : AfterAccess d init.2.2) (f : β × γ × Dev → α → β × γ × Dev)
    (l : List α) (hf : ∀ r a, AfterAccess d r.2.2 → AfterAccess d (f r a).2.2) : AfterAccess d (l.foldl f init).2.2 :=
  List.foldlRecOn (motive := fun r => AfterAccess d r.2.2) l f h fun r hr a _ => hf r a hr

theorem afterAccess_ite {c : Prop} {_ : Decidable c} {x y : Dev} (hx : AfterAccess d x) (hy : AfterAccess d y) :
    AfterAccess d (if c then x else y) := by
  split
  · exact hx
  · exact hy

/-! ### A tile leaves -/

theorem Dev.wedge_modWedge (d : Dev) (w k : Nat) (f : Wedge → Wedge) :
    (d.modWedge w f).wedge k = if k = w then f (d.wedge k) else d.wedge k := by
  unfold Dev.modWedge Dev.setWedge Dev.wedge
  rw [tget_tput]
  split
  · next h => rw [h]
  · rfl

theorem tilesLeft_leaveWedge (d : Dev) (w t : Nat) : TilesLeft d (d.modWedge w fun g => { g with tiles := g.tiles.filter (· ≠ t) }) :=
  { TilesLeft.refl d with
    frame := rfl
    wedge := fun k => by rw [Dev.wedge_modWedge]; split <;> rfl }

theorem Macro.without_cases (x : Macro) (t : Nat) : x.without t = x ∨ x.without t = { x with blk := none } := by
  unfold Macro.without
  split
  · split
    · exact .inr rfl
    · exact .inl rfl
  · exact .inl rfl

/-- What a key of a table holds after each value has been changed, those that became the default being left out. -/
theorem tfind_filterMap {α : Type} [DecidableEq α] (z : α) (g : α → α) {t : Tab α} {k : Nat} {x : α} (ht : tfind t k = some x) (hx : g x ≠ z) :
    tfind (t.filterMap fun e => if g e.2 = z then none else some (e.1, g e.2)) k = some (g x) := by
  induction t with
  | nil => cases ht
  | cons e t ih =>
    obtain ⟨k', x'⟩ := e
    rw [List.filterMap_cons]
    by_cases hk : k' = k
    · simp only [tfind, hk, if_true, Option.some.injEq] at ht
      subst ht
      simp [hx, hk, tfind]
    · simp only [tfind, hk, if_false] at ht
      by_cases hz : g x' = z
      · simp only [hz, if_true]
        exact ih ht
      · simp only [hz, if_false, tfind, hk]
        exact ih ht

/-- Taking a tile's block from each macro keeps every macro that holds more than that. -/
theorem macsKept_without (d : Dev) (t : Nat) :
    MacsKept d { d with macros := d.macros.filterMap fun e => if e.2.without t = {} then none else some (e.1, e.2.without t) } := by
  intro m hm
  have hne : (d.mac m).without t ≠ {} := fun h => by
    rcases (d.mac m).without_cases t with hw | hw
    · exact hm (by rw [← hw, h])
    · exact hm (by rw [← hw, h])
  have hfind : tfind d.macros m = some (d.mac m) := by
    cases hf : tfind d.macros m with
    | none =>
      refine absurd ?_ hm
      rw [Dev.mac, tget, hf]
      rfl
    | some x =>
      rw [Dev.mac, tget, hf]
      rfl
  have hmac : Dev.mac { d with macros := d.macros.filterMap fun e => if e.2.without t = {} then none else some (e.1, e.2.without t) } m =
      (d.mac m).without t := by
    show tget ({} : Macro) _ m = _
    rw [tget, tfind_filterMap ({} : Macro) (fun x : Macro => x.without t) hfind hne]
    rfl
  rw [hmac]
  exact (d.mac m).without_cases t

theorem tilesLeft_removeTile (t : Tile) (d : Dev) : TilesLeft d (removeTile t d) := by
  have hmac := macsKept_without d t.id
  unfold removeTile
  extract_lets mem d1 d2
  have h1 : TilesLeft d d1 := ⟨rfl, fun _ => rfl, hmac, List.filter_sublist⟩
  have h2 : TilesLeft d d2 :=
    List.foldlRecOn (motive := TilesLeft d) _ _ h1 fun e he w _ => he.trans (tilesLeft_leaveWedge e w t.id)
  split
  · exact h2.trans ⟨rfl, fun _ => rfl, MacsKept.refl _, List.Sublist.refl _⟩
  · exact h2

theorem afterAccess_removeTile (h : AfterAccess d e) (t : Tile) : AfterAccess d (removeTile t e) := h.trans (tilesLeft_removeTile t e).afterAccess

theorem afterAccess_failJob (h : AfterAccess d e) (j : Nat) (status : BitVec 8) (detail issuer index : Nat) :
    AfterAccess d (failJob j status detail issuer index e) :=
  h.trans { (AfterAccess.refl e) with
    frame := rfl
    fails := ⟨_, fun x => by dsimp only; split <;> rfl, rfl⟩ }

theorem afterAccess_failTile (h : AfterAccess d e) (t : Tile) (status : BitVec 8) : AfterAccess d (failTile t status e) := by
  unfold failTile
  split
  · exact afterAccess_removeTile h ..
  · exact afterAccess_failJob (afterAccess_removeTile h ..) ..

/-! ### Lines and accesses -/

theorem afterAccess_installLine (h : AfterAccess d e) (slice line policy : Nat) (data : Bytes) (dirty poison : Bool) :
    AfterAccess d (installLine slice line policy data dirty poison e) := by
  unfold installLine
  extract_lets hub pins full d0
  have h0 : AfterAccess d d0 := afterAccess_ite (afterAccess_count h ..) h
  split
  · exact h0
  · exact afterAccess_ite (afterAccess_count (afterAccess_other h0 ..) ..) (afterAccess_other h0 ..)

theorem afterAccess_fillFrom (h : AfterAccess d e) (slice line policy : Nat) : AfterAccess d (fillFrom slice line policy e) :=
  afterAccess_installLine (afterAccess_count h ..) ..

theorem afterAccess_accessHit (h : AfterAccess d e) (fresh : Bool) (slice line : Nat) (off len : Nat) (op : MemOp) :
    AfterAccess d (accessHit fresh slice line off len op e).2.2 := by
  unfold accessHit
  split
  · exact h
  split
  · exact h
  · exact afterAccess_other h ..

theorem afterAccess_respond (h : AfterAccess d e) (slice line : Nat) (op : MemOp) (tile : Option Nat) (status : BitVec 8) (b : Bytes) (poison : Bool) :
    AfterAccess d (respond slice line op tile status b poison e) := by
  unfold respond
  dsimp only
  split
  · split
    · exact afterAccess_failTile (afterAccess_response h ..) ..
    · exact afterAccess_response h ..
  · exact afterAccess_response h ..

theorem afterAccess_serveWaiting (h : AfterAccess d e) (w : Waiting × Nat) : AfterAccess d (serveWaiting e w) := by
  unfold serveWaiting
  split
  · exact h
  · exact afterAccess_respond (afterAccess_accessHit h ..) ..

theorem afterAccess_serveFirst (h : AfterAccess d e) (slice line policy : Nat) : AfterAccess d (serveFirst slice line policy e) := by
  unfold serveFirst
  split
  · exact h
  · exact afterAccess_foldl (afterAccess_other (afterAccess_ite h (afterAccess_fillFrom h ..)) ..) _ _ fun _ _ he => afterAccess_serveWaiting he ..

theorem afterAccess_accessAlone (h : AfterAccess d e) (slice line : Nat) (off len : Nat) (op : MemOp) (policy : Nat) :
    AfterAccess d (accessAlone slice line off len op policy e).2.2 := by
  unfold accessAlone
  dsimp only
  split
  · exact afterAccess_accessHit (afterAccess_count h ..) ..
  split
  · exact afterAccess_installLine (afterAccess_count h ..) ..
  split
  · exact afterAccess_count h ..
  · exact afterAccess_accessHit (afterAccess_fillFrom h ..) ..

theorem afterAccess_accessNow (h : AfterAccess d e) (v : Variant) (slice line : Nat) (off len : Nat) (op : MemOp) (policy : Nat) :
    AfterAccess d (accessNow v slice line off len op policy e).2.2 := by
  unfold accessNow
  split
  · exact afterAccess_other (afterAccess_count h ..) ..
  · exact afterAccess_accessAlone (afterAccess_serveFirst h ..) ..

theorem afterAccess_devRead (h : AfterAccess d e) (v : Variant) (al : Alloc) (o n : Nat) : AfterAccess d (devRead v al o n e).2.2 := by
  unfold devRead
  refine afterAccess_foldl_snd_snd h _ _ fun _ _ he => ?_
  split
  · exact he
  · exact afterAccess_accessNow he ..

theorem afterAccess_devWrite (h : AfterAccess d e) (v : Variant) (al : Alloc) (o : Nat) (b : Bytes) : AfterAccess d (devWrite v al o b e).2 := by
  unfold devWrite
  refine afterAccess_foldl_snd h _ _ fun _ _ he => ?_
  split
  · exact he
  · exact afterAccess_accessNow he ..

theorem afterAccess_devPut (h : AfterAccess d e) (v : Variant) (al : Alloc) (o : Nat) (b : Bytes) : AfterAccess d (devPut v al o b e) :=
  afterAccess_other (afterAccess_devWrite h ..) ..

theorem afterAccess_devAccess (h : AfterAccess d e) (v : Variant) (al : Alloc) (o len : Nat) (op : MemOp) :
    AfterAccess d (devAccess v al o len op e).2.2 := by
  unfold devAccess
  split
  · exact h
  · exact afterAccess_accessNow h ..

/-! ### How much a read gives -/

theorem sum_linePieces (o n : Nat) : ((linePieces o n).map Prod.snd).sum = n := by
  cases n with
  | zero => rfl
  | succ n =>
    have key : ∀ m : Nat, ((List.range ((m + 63) / 64)).map fun i => min 64 (m - 64 * i)).sum = m := by
      intro m
      induction m using Nat.strong_induction_on with
      | _ m ih =>
        by_cases hm : m = 0
        · simp [hm]
        · have h1 : (m + 63) / 64 = (m - 64 + 63) / 64 + 1 := by omega
          rw [h1, List.range_succ_eq_map]
          have h2 := ih (m - 64) (by omega)
          simp only [List.map_cons, List.map_map, List.sum_cons]
          have h3 : ((fun i => min 64 (m - 64 * i)) ∘ Nat.succ) = fun i => min 64 (m - 64 - 64 * i) := by
            funext i
            simp only [Function.comp_apply]
            congr 1
            omega
          rw [h3, h2]
          omega
    have h := key (n + 1 - min (64 - o % 64) (n + 1))
    simp only [linePieces, List.map_cons, List.map_map, List.sum_cons]
    have h3 : (Prod.snd ∘ fun i => (o + (64 - o % 64) + 64 * i, min 64 (n + 1 - (64 - o % 64) - 64 * i))) =
        fun i => min 64 (n + 1 - min (64 - o % 64) (n + 1) - 64 * i) := by
      funext i
      simp only [Function.comp_apply]
      congr 1
      omega
    rw [h3, h]
    omega

theorem length_accessHit_read (fresh : Bool) (s l off len : Nat) (d : Dev) : (accessHit fresh s l off len .read d).1.length ≤ len := by
  unfold accessHit
  split
  · exact Nat.zero_le _
  split
  · exact Nat.zero_le _
  · have (rr : Nat) (x : Line) : (accessLine rr x off len .read).1.length ≤ len := by
      simp [accessLine, slicePart, fullLine, opLen, isRead]
      split <;> simp
    dsimp only
    split
    · exact this ..
    · exact this ..

theorem length_accessNow_read (v : Variant) (s l off len policy : Nat) (d : Dev) : (accessNow v s l off len .read policy d).1.length ≤ len := by
  unfold accessNow
  split
  · exact Nat.zero_le _
  unfold accessAlone
  dsimp only
  split
  · exact length_accessHit_read ..
  rw [if_neg (by simp [fullLine])]
  split
  · simp [slicePart]
  · exact length_accessHit_read ..

theorem length_padTo {n : Nat} {b : Bytes} (h : b.length ≤ n) : (padTo n b).length = n := by
  simp [padTo]
  omega

/-- One line's part of a read of an allocation. -/
def readPiece (v : Variant) (al : Alloc) (r : Bytes × Bool × Dev) (p : Nat × Nat) : Bytes × Bool × Dev :=
  match allocPlace al p.1 with
  | none => (r.1 ++ List.replicate p.2 0, true, r.2.2)
  | some (s, l, off) =>
    let a := accessNow v s l off p.2 .read al.policy r.2.2
    (r.1 ++ padTo p.2 a.1, r.2.1 || a.2.1, a.2.2)

theorem devRead_eq_foldl (v : Variant) (al : Alloc) (o n : Nat) (d : Dev) :
    devRead v al o n d = (linePieces o n).foldl (readPiece v al) ([], false, d) := rfl

theorem length_readPiece (v : Variant) (al : Alloc) (r : Bytes × Bool × Dev) (p : Nat × Nat) :
    (readPiece v al r p).1.length = r.1.length + p.2 := by
  unfold readPiece
  split
  · simp
  · simp [length_padTo (length_accessNow_read ..)]

/-- A read gives as many bytes as it was asked for. -/
theorem length_devRead (v : Variant) (al : Alloc) (o n : Nat) (d : Dev) : (devRead v al o n d).1.length = n := by
  have key : ∀ (l : List (Nat × Nat)) (r : Bytes × Bool × Dev),
      (l.foldl (readPiece v al) r).1.length = r.1.length + (l.map Prod.snd).sum := by
    intro l
    induction l with
    | nil => intro r; rfl
    | cons p l ih =>
      intro r
      rw [List.foldl_cons, ih, length_readPiece, List.map_cons, List.sum_cons, Nat.add_assoc]
  rw [devRead_eq_foldl, key, sum_linePieces]
  exact Nat.zero_add n

end Sys2Proof.Machine

/-!
PROOFS for programs and jobs (ch. 8, 9, 13): PROGRAM LOAD and RUN JOB (R356, R370, R371).
-/
namespace Sys2Proof.Machine

open Sys2Proof

/-! ### PROGRAM LOAD (R356, R370) -/

theorem exec_programLoad (s : State) (cmd : Nat) (image : HostRead) :
    exec (.programLoad cmd image) s = .next (s.on (programLoadOp s.variant cmd image s.dev)) := rfl

theorem exec_runJob (s : State) (cmd : Nat) (transfers : HostRead) :
    exec (.runJob cmd transfers) s = .next (s.on (runJobOp s.variant cmd transfers s.dev)) := rfl

/-- From `d` to `e` the issuers' memories alone have changed. -/
def SpadOnly (d e : Dev) : Prop := e = { d with spad := e.spad, banks := e.banks }

theorem SpadOnly.trans {d e f : Dev} (h : SpadOnly d e) (h' : SpadOnly e f) : SpadOnly d f := by
  unfold SpadOnly at *
  rw [h', h]

theorem spadOnly_settleClear (code : Nat) (d : Dev) : SpadOnly d (settleClear code d) := by
  unfold settleClear
  dsimp only
  split <;> rfl

/-- The segments of a program go into the issuers' memories, whose pending clears come first. -/
theorem spadOnly_writeSegs (b : Bytes) (d : Dev) : SpadOnly d (writeSegs b d) := by
  refine List.foldlRecOn (motive := SpadOnly d) _ _ rfl fun e he r _ => ?_
  refine List.foldlRecOn (motive := SpadOnly d) _ _ (he.trans (spadOnly_settleClear r.issuer e)) fun f hf s _ => ?_
  split
  · exact hf.trans rfl
  · exact hf

theorem programLoadOp_of_passed {v : Variant} {d : Dev} {cmd i : Nat} {c : Cmd} {b0 : Bytes} (hc : d.starting cmd 0x18 = some c)
    (hd0 : (d.port c.port).d3 = false) (hst : (programStatus v d c.port ((padTo (bitsOf (c.P 1) 31 0) b0).take (bitsOf (c.P 1) 31 0))).1 = stSuccess)
    (hi : (tget (IdxQueue.fresh (2 ^ 30 - 1)) d.progIdx c.port).head = some i) :
    let b := (padTo (bitsOf (c.P 1) 31 0) b0).take (bitsOf (c.P 1) 31 0)
    let d1 := writeSegs b d
    programLoadOp v cmd (.ok b0) d =
      ({ d1 with progs := d1.progs ++ [imgProgram b (c.port * 2 ^ 30 + i) c.port],
                 progIdx := tset d1.progIdx c.port (tget (IdxQueue.fresh (2 ^ 30 - 1)) d.progIdx c.port).pop }).succeeds cmd
        (c.port * 2 ^ 30 + i) := by
  have hopen : hostOpen d c = true := by simp [hostOpen, hd0]
  simp only [programLoadOp, hc, hopen, if_true, hi, hst, ne_eq, not_true_eq_false, if_false]

/-! ### RUN JOB (R371) -/

/-- A job that waits for its program. -/
def Cmd.newJob (c : Cmd) (d : Dev) (cmd : Nat) (xs : List Xfer) : Job :=
  { id := d.nextJob, prog := bitsOf (c.P 0) 31 0, cmd := some cmd, port := c.port, stage := .waiting, xfers := xs.map (Xfer.taken d),
    params := [], descs := [], slotAlloc := bitsOf (c.P 1) 31 0, slotOff := c.P 2, slots := [], epoch := 0, fail := none, halted := false,
    smiss := false, dups := [], iss := [] }

theorem runJobOp_of_passed {v : Variant} {d : Dev} {cmd : Nat} {c : Cmd} {transfers : HostRead} {b : Bytes} (hc : d.starting cmd 0x19 = some c)
    (hlist : bitsOf (c.P 4) 8 0 = 0 ∨ c.P 3 ≠ 0 ∧ (d.port c.port).d3 = false ∧ transfers = .ok b)
    (habsent : xferAbsent v ((List.range (bitsOf (c.P 4) 8 0)).map fun i => Xfer.ofNat (imgNat b (32 * i) 32)) = false)
    (hprog : bitsOf (c.P 0) 31 0 = 0 ∨ d.progs.any (fun p => p.handle = bitsOf (c.P 0) 31 0 && !p.doomed) = true ∧
      (d.jobs.filter (fun j => j.prog = bitsOf (c.P 0) 31 0 && j.stage = .waiting)).length <
        (if d.jobs.any (fun j => j.prog = bitsOf (c.P 0) 31 0 && j.stage != .waiting) then 16 else 17))
    (hslots : bitsOf (c.P 1) 31 0 = 0 ∨ d.allocs.any (fun a => a.handle = bitsOf (c.P 1) 31 0 && a.live) = true) :
    runJobOp v cmd transfers d = { d.busy cmd with
      jobs := d.jobs ++ [c.newJob d cmd ((List.range (bitsOf (c.P 4) 8 0)).map fun i => Xfer.ofNat (imgNat b (32 * i) 32))],
      nextJob := d.nextJob + 1 } := by
  have h3 : ¬(bitsOf (c.P 4) 8 0 ≠ 0 ∧ c.P 3 = 0) := by
    rcases hlist with h | ⟨h, -, -⟩ <;> simp [h]
  have hopen : ¬(bitsOf (c.P 4) 8 0 ≠ 0 ∧ (!hostOpen d c) = true) := by
    rcases hlist with h | ⟨-, h, -⟩ <;> simp [h, hostOpen]
  have hph : ¬(bitsOf (c.P 0) 31 0 ≠ 0 ∧ (!d.progs.any (fun p => p.handle = bitsOf (c.P 0) 31 0 && !p.doomed)) = true) := by
    rcases hprog with h | ⟨h, -⟩
    · exact fun hn => hn.1 h
    · rw [h]
      simp
  have hroom : ¬(bitsOf (c.P 0) 31 0 ≠ 0 ∧ (d.jobs.filter (fun j => j.prog = bitsOf (c.P 0) 31 0 && j.stage = .waiting)).length ≥
      (if d.jobs.any (fun j => j.prog = bitsOf (c.P 0) 31 0 && j.stage != .waiting) then 16 else 17)) := by
    rcases hprog with h | ⟨-, h⟩
    · exact fun hn => hn.1 h
    · exact fun hn => absurd h (Nat.not_lt.mpr hn.2)
  have hsa : ¬(bitsOf (c.P 1) 31 0 ≠ 0 ∧ (!d.allocs.any (fun a => a.handle = bitsOf (c.P 1) 31 0 && a.live)) = true) := by
    rcases hslots with h | h
    · exact fun hn => hn.1 h
    · rw [h]
      simp
  unfold runJobOp
  rw [hc]
  dsimp only
  by_cases hn : bitsOf (c.P 4) 8 0 = 0
  · have hnone (b' : Bytes) : (List.range (bitsOf (c.P 4) 8 0)).map (fun i => Xfer.ofNat (imgNat b' (32 * i) 32)) = [] := by
      rw [hn]
      rfl
    rw [hnone] at habsent ⊢
    rw [if_pos hn, if_neg h3, if_neg hopen]
    dsimp only
    have habsent' : ¬xferAbsent v ((List.range (bitsOf (c.P 4) 8 0)).map fun i => Xfer.ofNat (imgNat [] (32 * i) 32)) = true := by
      rw [hnone, habsent]
      exact Bool.false_ne_true
    rw [if_neg habsent', if_neg hph, if_neg hsa, if_neg hroom, hnone]
    rfl
  · obtain ⟨-, -, rfl⟩ := hlist.resolve_left hn
    rw [if_neg hn, if_neg h3, if_neg hopen]
    dsimp only
    rw [habsent, if_neg Bool.false_ne_true, if_neg hph, if_neg hsa, if_neg hroom]
    rfl

theorem Dev.busy_stage (d : Dev) (id : Nat) : ∀ e ∈ (d.busy id).cmds, e.id = id → e.stage = .busy := by
  intro e he hid
  obtain ⟨x, -, rfl⟩ := List.mem_map.mp he
  by_cases hx : x.id = id
  · rw [if_pos hx]
  · rw [if_neg hx] at hid
    exact absurd hid hx

/-- Settles O11: the checks passed, a command makes one program or one job. -/
theorem programsLoadedJobsQueued : Obligations.ProgramsLoadedJobsQueued := by
  intro s cmd c
  refine ⟨fun b0 i hc hd0 hst hi => ?_, fun transfers b hc hlist habsent hprog hslots => ?_⟩
  · obtain ⟨hcmd, -, -⟩ := Dev.starting_cases hc
    rw [exec_programLoad, programLoadOp_of_passed hc hd0 hst hi, spadOnly_writeSegs, Dev.succeeds_eq (c := c) (by exact hcmd)]
    exact ⟨_, rfl, ⟨rfl, rfl⟩, rfl, ⟨_, rfl, rfl, rfl, rfl⟩, tget_tset_same ..⟩
  · rw [exec_runJob, runJobOp_of_passed hc hlist habsent hprog hslots]
    exact ⟨_, rfl, rfl, s.dev.busy_stage cmd, _, rfl, rfl, rfl, rfl, rfl, rfl, rfl, rfl, rfl⟩

end Sys2Proof.Machine

/-!
PROOFS for a job from its start to its completion (R210, R237, R251, R371, R378). A step of a job changes device memory, the issuers' memories and
the job itself; the commands stand until the job ends, when its own completes.
-/
namespace Sys2Proof.Machine

open Sys2Proof

theorem exec_jobStart (s : State) (job : Nat) : exec (.jobStart job) s = .next (s.on (jobStartOp s.variant job s.dev)) := rfl

theorem exec_copyInComplete (s : State) (job : Nat) (data : List HostRead) :
    exec (.copyInComplete job data) s = .next (s.on (copyInOp s.variant job data s.dev)) := rfl

theorem exec_transferCopyOut (s : State) (job : Nat) (fault : Option Nat) :
    exec (.transferCopyOut job fault) s = .next (s.on (copyOutOp s.variant job fault s.dev)) := rfl

theorem exec_jobComplete (s : State) (job : Nat) : exec (.jobComplete job) s = .next (s.on (jobCompleteOp job s.dev)) := rfl

/-! ### Jobs of a device -/

theorem Dev.jobOf_id {d : Dev} {job : Nat} {j : Job} (h : d.jobOf job = some j) : j.id = job := by
  simpa using List.find?_some h

/-- A change of the jobs that keeps their ids changes the job that an id names. -/
theorem find_map_job {l : List Job} {g : Job → Job} (hg : ∀ j, (g j).id = j.id) (job : Nat) :
    (l.map g).find? (fun x => x.id = job) = (l.find? fun x => x.id = job).map g := by
  rw [List.find?_map]
  congr 2
  funext j
  simp [hg]

theorem Dev.jobOf_modJob {d : Dev} {job : Nat} {j : Job} (f : Job → Job) (h : d.jobOf job = some j) (hf : (f j).id = j.id) :
    (d.modJob job f).jobOf job = some (f j) := by
  induction hl : d.jobs generalizing d with
  | nil => simp [Dev.jobOf, hl] at h
  | cons x l ih =>
    unfold Dev.jobOf Dev.modJob at *
    rw [hl] at h ⊢
    by_cases hx : x.id = job
    · rw [List.find?_cons_of_pos (by simpa using hx)] at h
      cases h
      simp [hx, hf.trans hx]
    · rw [List.find?_cons_of_neg (by simpa using hx)] at h
      simpa [hx] using ih (d := { d with jobs := l }) h rfl

theorem FailsOnly.id_eq {g : Job → Job} (hg : FailsOnly g) (j : Job) : (g j).id = j.id := by rw [hg]

theorem AfterAccess.jobOf {d e : Dev} (h : AfterAccess d e) {job : Nat} {j : Job} (hj : d.jobOf job = some j) :
    ∃ j', e.jobOf job = some j' ∧ j' = { j with halted := j'.halted, fail := j'.fail } := by
  obtain ⟨g, hg, he⟩ := h.fails
  refine ⟨g j, ?_, hg j⟩
  unfold Dev.jobOf at *
  rw [he, find_map_job hg.id_eq, hj, Option.map_some]

theorem AfterAccess.noTile {d e : Dev} (h : AfterAccess d e) {job : Nat} (hd : ∀ y ∈ d.tiles, y.job ≠ job) : ∀ y ∈ e.tiles, y.job ≠ job :=
  fun y hy => hd y (h.fewer.subset hy)

/-- From `d` to `e` accesses have taken place, and the issuers' memories and slots may have changed besides. -/
def AfterStart (d e : Dev) : Prop := AfterAccess { d with spad := e.spad, banks := e.banks, slots := e.slots } e

theorem AfterAccess.afterStart {d e : Dev} (h : AfterAccess d e) : AfterStart d e := by
  obtain ⟨hf, hw, hm, ht, hj, ho⟩ := h
  have hspad : e.spad = d.spad := by rw [hf]
  have hbanks : e.banks = d.banks := by rw [hf]
  have hslots : e.slots = d.slots := by rw [hf]
  unfold AfterStart
  rw [hspad, hbanks, hslots]
  exact ⟨hf, hw, hm, ht, hj, ho⟩

theorem SpadOnly.afterStart {d e : Dev} (h : SpadOnly d e) : AfterStart d e := by
  unfold SpadOnly at h
  rw [h]
  exact AfterAccess.refl _

theorem AfterStart.trans {d e f : Dev} (h : AfterStart d e) (h' : AfterStart e f) : AfterStart d f where
  frame := by rw [h'.frame, h.frame]
  wedge := fun w => by
    have h1 := h'.wedge w
    have h2 := h.wedge w
    unfold Dev.wedge at h1 h2 ⊢
    rw [h1]
    dsimp only
    rw [h2]
  mac := h.mac.trans h'.mac
  fewer := h'.fewer.trans h.fewer
  fails := by
    obtain ⟨g, hg, hj⟩ := h.fails
    obtain ⟨g', hg', hj'⟩ := h'.fails
    exact ⟨g' ∘ g, hg.comp hg', by rw [hj', hj, List.map_map]⟩
  answers := by
    obtain ⟨l, hl, hr⟩ := h.answers
    obtain ⟨l', hl', hr'⟩ := h'.answers
    refine ⟨l ++ l', by rw [hl', hl, List.append_assoc], fun o ho => ?_⟩
    exact (List.mem_append.1 ho).elim (hr o) (hr' o)

theorem AfterStart.cmds {d e : Dev} (h : AfterStart d e) : e.cmds = d.cmds := by rw [h.frame]

theorem AfterStart.comps {d e : Dev} (h : AfterStart d e) : e.comps = d.comps := by rw [h.frame]

theorem AfterStart.jobOf {d e : Dev} (h : AfterStart d e) {job : Nat} {j : Job} (hj : d.jobOf job = some j) :
    ∃ j', e.jobOf job = some j' ∧ j' = { j with halted := j'.halted, fail := j'.fail } := AfterAccess.jobOf h (by exact hj)

theorem afterAccess_readSlots (v : Variant) (d : Dev) (j : Job) : AfterAccess d (readSlots v d j).2.2 := by
  unfold readSlots
  split
  · exact AfterAccess.refl d
  split
  · exact AfterAccess.refl d
  · exact afterAccess_devRead (AfterAccess.refl d) ..

theorem spadOnly_swriteNat (code a n v : Nat) (d : Dev) : SpadOnly d (d.swriteNat code a n v) := rfl

theorem spadOnly_ctrSet (home addr hi lo v : Nat) (d : Dev) : SpadOnly d (ctrSet d home addr hi lo v) := spadOnly_swriteNat ..

theorem afterStart_startCounters (v : Variant) (g : Program) (d : Dev) : AfterStart d (startCounters v g d) := by
  have h1 : SpadOnly d
      (g.ctrs.foldl (fun d c => ctrSet ((settleClear c.home d).swriteNat c.home c.addr 64 0) c.home c.addr 487 472 (nshareOf g c.id)) d) :=
    List.foldlRecOn (motive := SpadOnly d) _ _ rfl fun e he c _ =>
      he.trans (((spadOnly_settleClear c.home e).trans (spadOnly_swriteNat ..)).trans (spadOnly_ctrSet ..))
  unfold startCounters
  dsimp only
  split
  · exact h1.afterStart
  · exact h1.afterStart.trans (afterAccess_devPut (AfterAccess.refl _) ..).afterStart

theorem spadOnly_settleClears (l : List ProgIssuer) (d : Dev) : SpadOnly d (l.foldl (fun d i => settleClear i.issuer d) d) :=
  List.foldlRecOn (motive := SpadOnly d) _ _ rfl fun e he i _ => he.trans (spadOnly_settleClear i.issuer e)

/-! ### The end of a job -/

theorem afterAccess_dropJobTiles (j : Nat) (d : Dev) : AfterAccess d (dropJobTiles j d) :=
  afterAccess_foldl (AfterAccess.refl d) _ _ fun _ _ he => afterAccess_removeTile he ..

theorem dropJobTiles_of_none {j : Nat} {d : Dev} (h : ∀ y ∈ d.tiles, y.job ≠ j) : dropJobTiles j d = d := by
  unfold dropJobTiles
  rw [List.filter_eq_nil_iff.mpr fun y hy => by simp [h y hy]]
  rfl

/-- The status with which a job that holds this failure ends. -/
def endStatus : Option Failure → BitVec 8
  | none => stSuccess
  | some f => f.status

/-- The detail with which a job that holds this failure ends. -/
def endDetail : Option Failure → BitVec 8
  | none => 0
  | some f => f.detail

/-- What the end of a job does besides dropping its tiles: it is gone, and its command has completed with its outcome. -/
theorem endJob_ends {j : Job} {d : Dev} {id : Nat} {c : Cmd} (hcmd : j.cmd = some id) (hc : d.cmdOf id = some c) :
    (endJob j d).jobOf j.id = none ∧ (endJob j d).macros = (dropJobTiles j.id d).macros ∧ (endJob j d).tiles = (dropJobTiles j.id d).tiles ∧
      (endJob j d).spad = d.spad ∧
      ∃ cp, (endJob j d).comps = d.comps ++ [cp] ∧ cp.status = endStatus j.fail ∧ cp.detail = endDetail j.fail ∧ cp.smiss = j.smiss ∧
        cp.cid = c.cid ∧ cp.q = c.q ∧ cp.port = c.port := by
  have hdrop := (afterAccess_dropJobTiles j.id d).frame
  unfold endJob
  dsimp only
  generalize dropJobTiles j.id d = x at hdrop ⊢
  have hcx : x.cmdOf id = some c := by rw [hdrop]; exact hc
  have hcomps : x.comps = d.comps := by rw [hdrop]
  have hspad : x.spad = d.spad := by rw [hdrop]
  generalize hy : ({ x with jobs := x.jobs.filter fun y => decide (y.id ≠ j.id),
                            outVecs := x.outVecs.filter fun o => decide (o.job ≠ j.id) } : Dev) = y
  have hcy : y.cmdOf id = some c := by rw [← hy]; exact hcx
  rw [(settled_settlePins _).frame, hcmd, ← hcomps, ← hspad]
  have hjobs : y.jobOf j.id = none := by
    rw [← hy]
    simp [Dev.jobOf, List.find?_eq_none]
  cases hf : j.fail with
  | none =>
    dsimp only
    rw [Dev.finish_of_cmdOf hcy (by decide)]
    subst hy
    exact ⟨hjobs, rfl, rfl, rfl, _, rfl, rfl, rfl, rfl, rfl, rfl, rfl⟩
  | some f =>
    dsimp only
    unfold Dev.finish
    rw [hcy]
    dsimp only
    subst hy
    split <;> exact ⟨hjobs, rfl, rfl, rfl, _, rfl, rfl, rfl, rfl, rfl, rfl, rfl⟩

/-! ### The start of a job -/

theorem jobStart_runs {s : State} {job : Nat} {j : Job} {slots : List (BitVec 32)} {d1 : Dev} (hj : s.dev.jobOf job = some j)
    (hw : j.stage = .waiting)
    (hheld : j.prog = 0 ∨ s.dev.jobs.any (fun x => x.prog = j.prog && (x.stage != .waiting || decide (x.id < j.id)) && x.id != j.id) = false)
    (hr : readSlots s.variant ((jobIssuers s.dev j).foldl (fun d i => settleClear i.issuer d) s.dev) j = (slots, false, d1)) :
    AfterStart s.dev d1 ∧ jobStartOp s.variant job s.dev =
      match loaderFailure s.variant d1 j slots with
        | some f => failEnd j f.1 f.2.1 f.2.2.1 f.2.2.2 d1
        | none =>
          if j.xfers.any (fun x => !xferOk d1 j.port x) then failEnd j stLoaderCheck 0x12 0 0 d1
          else match d1.progOf j.prog with
            | none => d1.modJob job (fun _ => startedJob d1 j slots [])
            | some g =>
              let j1 := startedJob d1 j slots (g.issuers.map (fun i =>
                { issuer := i.issuer, pc := 0, stage := .start, run := [], swept := false, lost := false : IssState }))
              let d2 := writeSlots g slots d1
              (if j1.stage = .running then startCounters s.variant g d2 else d2).modJob job (fun _ => j1) := by
  constructor
  · have h := afterAccess_readSlots s.variant ((jobIssuers s.dev j).foldl (fun d i => settleClear i.issuer d) s.dev) j
    rw [hr] at h
    exact (spadOnly_settleClears _ s.dev).afterStart.trans h.afterStart
  · have hn : ¬(j.stage ≠ .waiting ∨ (j.prog ≠ 0 && s.dev.jobs.any fun x =>
        x.prog = j.prog && (x.stage != .waiting || decide (x.id < j.id)) && x.id != j.id) = true) := by
      rintro (h | h)
      · exact h hw
      · rcases hheld with h0 | h0 <;> simp [h0] at h
    unfold jobStartOp
    rw [hj]
    dsimp only
    rw [if_neg hn, List.foldl_map, hr]
    dsimp only
    refine (if_neg Bool.false_ne_true).trans ?_
    cases loaderFailure s.variant d1 j slots with
    | some f => rfl
    | none =>
      by_cases hx : (j.xfers.any fun x => !xferOk d1 j.port x) = true
      · exact (if_pos hx).trans (if_pos hx).symm
      · refine (if_neg hx).trans (Eq.trans ?_ (if_neg hx).symm)
        cases d1.progOf j.prog with
        | none => rfl
        | some g => rfl

theorem startedJob_id (d : Dev) (j : Job) (slots : List (BitVec 32)) (iss : List IssState) : (startedJob d j slots iss).id = j.id := rfl

/-- A job that the loader lets start: its own record alone is new, and its memories are written. -/
theorem jobStart_passed {s : State} {job : Nat} {j : Job} {slots : List (BitVec 32)} {d1 : Dev} (hj : s.dev.jobOf job = some j)
    (hw : j.stage = .waiting)
    (hheld : j.prog = 0 ∨ s.dev.jobs.any (fun x => x.prog = j.prog && (x.stage != .waiting || decide (x.id < j.id)) && x.id != j.id) = false)
    (hr : readSlots s.variant ((jobIssuers s.dev j).foldl (fun d i => settleClear i.issuer d) s.dev) j = (slots, false, d1))
    (hok : loaderFailure s.variant d1 j slots = none) (hx : j.xfers.all (fun x => xferOk d1 j.port x) = true) :
    ∃ (iss : List IssState) (e : Dev), jobStartOp s.variant job s.dev = e.modJob job (fun _ => startedJob d1 j slots iss) ∧ AfterStart s.dev e ∧
      ∀ x ∈ iss, x.pc = 0 ∧ x.stage = .start ∧ x.run = [] := by
  obtain ⟨h1, heq⟩ := jobStart_runs hj hw hheld hr
  have hx' : ¬(j.xfers.any fun x => !xferOk d1 j.port x) = true := by
    rw [Bool.not_eq_true, List.any_eq_false]
    simpa using hx
  rw [heq, hok]
  dsimp only
  rw [if_neg hx']
  cases hg : d1.progOf j.prog with
  | none => exact ⟨[], d1, rfl, h1, by simp⟩
  | some g =>
    have h2 : AfterStart s.dev (writeSlots g slots d1) := h1.trans (AfterAccess.refl _)
    refine ⟨_, _, rfl, ?_, ?_⟩
    · split
      · exact h2.trans (afterStart_startCounters ..)
      · exact h2
    · intro x hx
      obtain ⟨i, -, rfl⟩ := List.mem_map.mp hx
      exact ⟨rfl, rfl, rfl⟩

theorem jobStart_clause {s : State} {job : Nat} {j : Job} {slots : List (BitVec 32)} {d1 : Dev} (hj : s.dev.jobOf job = some j)
    (hw : j.stage = .waiting)
    (hheld : j.prog = 0 ∨ s.dev.jobs.any (fun x => x.prog = j.prog && (x.stage != .waiting || decide (x.id < j.id)) && x.id != j.id) = false)
    (hr : readSlots s.variant ((jobIssuers s.dev j).foldl (fun d i => settleClear i.issuer d) s.dev) j = (slots, false, d1))
    (hok : loaderFailure s.variant d1 j slots = none) (hx : j.xfers.all (fun x => xferOk d1 j.port x) = true) :
    ∃ t j', exec (.jobStart job) s = .next t ∧ t.dev.jobOf job = some j' ∧
      j'.stage = (if j.xfers.any (fun x => !x.out) then .copyIn else .running) ∧ j'.slots = slots ∧
      j'.epoch = j.epoch ∧ j'.fail = j.fail ∧ t.dev.comps = s.dev.comps ∧ t.dev.cmds = s.dev.cmds ∧
      (∀ x ∈ j'.iss, x.pc = 0 ∧ x.stage = .start ∧ x.run = []) := by
  obtain ⟨iss, e, heq, he, hiss⟩ := jobStart_passed hj hw hheld hr hok hx
  obtain ⟨j0, hj0, -⟩ := he.jobOf hj
  rw [exec_jobStart, heq]
  exact ⟨_, _, rfl, Dev.jobOf_modJob (fun _ => startedJob d1 j slots iss) hj0
    ((startedJob_id ..).trans ((Dev.jobOf_id hj).trans (Dev.jobOf_id hj0).symm)), rfl, rfl, rfl, rfl, he.comps, he.cmds, hiss⟩

theorem jobStart_loaderFails {s : State} {job : Nat} {j : Job} {slots : List (BitVec 32)} {d1 : Dev} (hj : s.dev.jobOf job = some j)
    (hw : j.stage = .waiting)
    (hheld : j.prog = 0 ∨ s.dev.jobs.any (fun x => x.prog = j.prog && (x.stage != .waiting || decide (x.id < j.id)) && x.id != j.id) = false)
    (hr : readSlots s.variant ((jobIssuers s.dev j).foldl (fun d i => settleClear i.issuer d) s.dev) j = (slots, false, d1))
    (f : BitVec 8 × Nat × Nat × Nat) (id : Nat) (c : Cmd) (hf : loaderFailure s.variant d1 j slots = some f) (hcmd : j.cmd = some id)
    (hc : s.dev.cmdOf id = some c) (hno : ∀ y ∈ s.dev.tiles, y.job ≠ job) :
    ∃ t, exec (.jobStart job) s = .next t ∧ t.dev.jobOf job = none ∧ t.dev.macros = d1.macros ∧ t.dev.tiles = d1.tiles ∧
      t.dev.spad = d1.spad ∧
      ∃ cp, t.dev.comps = s.dev.comps ++ [cp] ∧ cp.status = f.1 ∧ cp.detail = BitVec.ofNat 8 f.2.1 ∧ cp.cid = c.cid ∧ cp.q = c.q ∧
        cp.port = c.port := by
  obtain ⟨h1, heq⟩ := jobStart_runs hj hw hheld hr
  have hc1 : d1.cmdOf id = some c := by
    rw [Dev.cmdOf, h1.cmds]
    exact hc
  obtain ⟨hgone, hmac, htiles, hspad, cp, hcomps, hst, hdet, -, hcid, hq, hport⟩ :=
    endJob_ends (j := { j with fail := some ⟨f.1, BitVec.ofNat 8 f.2.1, f.2.2.1, f.2.2.2⟩ }) hcmd hc1
  have hid : j.id = job := Dev.jobOf_id hj
  rw [dropJobTiles_of_none (by rw [hid]; exact AfterAccess.noTile h1 hno)] at hmac htiles
  rw [exec_jobStart, heq, hf]
  exact ⟨_, rfl, hid ▸ hgone, hmac, htiles, hspad, cp, by rw [← h1.comps]; exact hcomps, hst, hdet, hcid, hq, hport⟩

/-! ### Copy-in -/

/-- The failure of a read of the host. -/
def readFault : HostRead → Option Nat
  | .fail k => some k
  | .ok _ => none

theorem copyInOp_of_open {v : Variant} {d : Dev} {job : Nat} {j : Job} {data : List HostRead} (hj : d.jobOf job = some j)
    (hst : j.stage = .copyIn) (hopen : portOpen d j.port = true) (hsw : switchTakes d j.port [52] 3 = true) :
    let rs := (List.range (j.xfers.filter (fun x => !x.out)).length).map (fun i => nth (HostRead.ok []) data i)
    copyInOp v job data d =
      match rs.findSome? readFault with
      | some k => failEnd j stHostAccess k 0 0 d
      | none =>
        let d1 := ((j.xfers.filter (fun x => !x.out)).zip rs).foldl (fun d e =>
          match e.2, d.allocOf e.1.alloc with
          | .ok b, some al => devPut v al e.1.doff ((padTo e.1.len b).take e.1.len) d
          | _, _ => d) d
        ((d1.progOf j.prog).elim d1 (fun g => startCounters v g d1)).modJob job (fun x => { x with stage := .running }) := by
  unfold copyInOp
  rw [hj]
  dsimp only
  rw [if_pos ⟨hst, hopen, hsw⟩]
  rfl

theorem copyIn_read {s : State} {job : Nat} {j : Job} {data : List HostRead} (hj : s.dev.jobOf job = some j) (hst : j.stage = .copyIn)
    (hopen : portOpen s.dev j.port = true) (hsw : switchTakes s.dev j.port [52] 3 = true)
    (hall : ((List.range (j.xfers.filter (fun x => !x.out)).length).map (fun i => nth (HostRead.ok []) data i)).all
      (fun r => match r with | .ok _ => true | .fail _ => false) = true) :
    ∃ t j', exec (.copyInComplete job data) s = .next t ∧ t.dev.jobOf job = some j' ∧
      j' = { j with stage := .running, halted := j'.halted, fail := j'.fail } ∧ t.dev.comps = s.dev.comps ∧ t.dev.cmds = s.dev.cmds := by
  have hnone : ((List.range (j.xfers.filter (fun x => !x.out)).length).map (fun i => nth (HostRead.ok []) data i)).findSome? readFault = none := by
    rw [List.findSome?_eq_none_iff]
    intro r hr
    have := List.all_eq_true.mp hall r hr
    cases r with
    | ok b => rfl
    | fail k => cases this
  rw [exec_copyInComplete, copyInOp_of_open hj hst hopen hsw, hnone]
  dsimp only
  generalize hd1 : List.foldl _ s.dev _ = d1
  have h1 : AfterAccess s.dev d1 := by
    rw [← hd1]
    refine afterAccess_foldl (AfterAccess.refl _) _ _ fun e a he => ?_
    split
    · exact afterAccess_devPut he ..
    · exact he
  have h2 : AfterStart s.dev ((d1.progOf j.prog).elim d1 fun g => startCounters s.variant g d1) := by
    cases d1.progOf j.prog with
    | none => exact h1.afterStart
    | some g => exact h1.afterStart.trans (afterStart_startCounters ..)
  obtain ⟨j0, hj0, hj0'⟩ := h2.jobOf hj
  refine ⟨_, _, rfl, Dev.jobOf_modJob (fun x => { x with stage := .running }) hj0 rfl, ?_, h2.comps, h2.cmds⟩
  rw [hj0']

theorem copyIn_fails {s : State} {job : Nat} {j : Job} {data : List HostRead} (hj : s.dev.jobOf job = some j) (hst : j.stage = .copyIn)
    (hopen : portOpen s.dev j.port = true) (hsw : switchTakes s.dev j.port [52] 3 = true) {k id : Nat} {c : Cmd}
    (hk : ((List.range (j.xfers.filter (fun x => !x.out)).length).map (fun i => nth (HostRead.ok []) data i)).findSome? readFault = some k) (hcmd : j.cmd = some id) (hc : s.dev.cmdOf id = some c) :
    ∃ t cp, exec (.copyInComplete job data) s = .next t ∧ t.dev.jobOf job = none ∧ t.dev.comps = s.dev.comps ++ [cp] ∧
      cp.status = stHostAccess ∧ cp.detail = BitVec.ofNat 8 k ∧ cp.cid = c.cid ∧ cp.q = c.q ∧ cp.port = c.port := by
  obtain ⟨hgone, -, -, -, cp, hcomps, hcst, hdet, -, hcid, hq, hport⟩ :=
    endJob_ends (j := { j with fail := some ⟨stHostAccess, BitVec.ofNat 8 k, 0, 0⟩ }) hcmd hc
  rw [exec_copyInComplete, copyInOp_of_open hj hst hopen hsw, hk]
  exact ⟨_, cp, rfl, Dev.jobOf_id hj ▸ hgone, hcomps, hcst, hdet, hcid, hq, hport⟩

/-! ### Copy-out and the completion -/

/-- A write to the host, as port, address and length. -/
def hostWriteOf : Output → Option (Nat × BitVec 64 × Nat)
  | .hostWrite p a b => some (p, a, b.length)
  | _ => none

/-- From `d` to `e` accesses have taken place and `w` has been sent to the host, as port, address and length. -/
def AfterSends (d e : Dev) (w : List (Nat × BitVec 64 × Nat)) : Prop :=
  AfterAccess { d with out := e.out } e ∧ ∃ l, e.out = d.out ++ l ∧
    l.filterMap hostWriteOf = w

/-- One transfer of a copy-out. -/
def sendOut (v : Variant) (port : Nat) (r : Bool × Dev) (x : Xfer) : Bool × Dev :=
  match r.2.allocOf x.alloc with
  | none => r
  | some al =>
    let b := devRead v al x.doff x.len r.2
    if r.1 || b.2.1 then (true, b.2.2) else (false, b.2.2.toHost port x.haddr.toNat b.1)

theorem AfterSends.read {d e f : Dev} {w : List (Nat × BitVec 64 × Nat)} (h : AfterSends d e w) (h' : AfterAccess e f) : AfterSends d f w := by
  obtain ⟨⟨hf, hw, hmac, ht, hj, ho⟩, l, hl, hm⟩ := h
  obtain ⟨r, hr, hresp⟩ := h'.answers
  refine ⟨⟨by rw [h'.frame, hf], fun k => ?_, hmac.trans h'.mac, h'.fewer.trans ht, ?_, ⟨[], by simp, by simp⟩⟩, l ++ r, by rw [hr, hl, List.append_assoc], ?_⟩
  · rw [h'.wedge k, hw k]
    rfl
  · obtain ⟨g, hg, he⟩ := hj
    obtain ⟨g', hg', he'⟩ := h'.fails
    exact ⟨g' ∘ g, hg.comp hg', by rw [he', he, List.map_map]⟩
  · have hnil : r.filterMap hostWriteOf = [] := by
      rw [List.filterMap_eq_nil_iff]
      intro o ho'
      obtain ⟨s, n, b, p, rfl⟩ := hresp o ho'
      rfl
    rw [List.filterMap_append, hm, hnil, List.append_nil]

theorem AfterSends.toHost {d e : Dev} {w : List (Nat × BitVec 64 × Nat)} (h : AfterSends d e w) (p : Nat) (a : BitVec 64) (b : Bytes) :
    AfterSends d (e.toHost p a.toNat b) (w ++ [(p, a, b.length)]) := by
  obtain ⟨hacc, l, hl, hm⟩ := h
  obtain ⟨hf, hw, hmac, ht, hj, -⟩ := hacc
  refine ⟨⟨by rw [hf]; rfl, hw, hmac, ht, hj, ⟨[], by simp, by simp⟩⟩, l ++ [.hostWrite p a b], ?_, ?_⟩
  · show e.out ++ [.hostWrite p (BitVec.ofNat 64 a.toNat) b] = _
    rw [hl, BitVec.ofNat_toNat, BitVec.setWidth_eq, List.append_assoc]
  · rw [List.filterMap_append, hm]
    rfl

theorem AfterSends.allocs {d e : Dev} {w : List (Nat × BitVec 64 × Nat)} (h : AfterSends d e w) : e.allocs = d.allocs := by rw [h.1.frame]

/-- The transfers go out in their order until one fails. -/
theorem sendOut_foldl (v : Variant) (port : Nat) (d : Dev) (l : List Xfer) (r : Bool × Dev) {w : List (Nat × BitVec 64 × Nat)}
    (h : AfterSends d r.2 w) : ∃ w', AfterSends d (l.foldl (sendOut v port) r).2 w' ∧ ((l.foldl (sendOut v port) r).1 = false → r.1 = false ∧
      w' = w ++ (l.filter fun x => (d.allocOf x.alloc).isSome).map fun x => (port, x.haddr, x.len)) := by
  induction l generalizing r w with
  | nil => exact ⟨w, h, fun hr => ⟨hr, by simp⟩⟩
  | cons x l ih =>
    rw [List.foldl_cons]
    have hal : r.2.allocOf x.alloc = d.allocOf x.alloc := by rw [Dev.allocOf, h.allocs]; rfl
    cases ha : d.allocOf x.alloc with
    | none =>
      have hstep : sendOut v port r x = r := by simp [sendOut, hal, ha]
      rw [hstep, List.filter_cons_of_neg (by simp [ha])]
      exact ih r h
    | some al =>
      have hread := h.read (afterAccess_devRead (AfterAccess.refl r.2) v al x.doff x.len)
      by_cases hb : (r.1 || (devRead v al x.doff x.len r.2).2.1) = true
      · have hstep : sendOut v port r x = (true, (devRead v al x.doff x.len r.2).2.2) := by
          simp only [sendOut, hal, ha, hb, if_true]
        rw [hstep]
        obtain ⟨w', hw', hfalse⟩ := ih (true, (devRead v al x.doff x.len r.2).2.2) hread
        exact ⟨w', hw', fun hr => absurd (hfalse hr).1 (by simp)⟩
      · have hstep : sendOut v port r x =
            (false, (devRead v al x.doff x.len r.2).2.2.toHost port x.haddr.toNat (devRead v al x.doff x.len r.2).1) := by
          simp only [sendOut, hal, ha, hb]
          rfl
        rw [hstep, List.filter_cons_of_pos (by simp [ha])]
        obtain ⟨w', hw', hfalse⟩ := ih (false, _) (hread.toHost port x.haddr (devRead v al x.doff x.len r.2).1)
        have hr1 : r.1 = false := (Bool.or_eq_false_iff.mp (Bool.eq_false_iff.mpr hb)).1
        refine ⟨w', hw', fun hr => ⟨hr1, ?_⟩⟩
        rw [(hfalse hr).2, length_devRead, List.append_assoc]
        rfl

/-- The failure of a job after its copy-out, which met poison or not. -/
def copyFailure (bad : Bool) (f : Option Failure) : Option Failure :=
  if bad then some { status := stMemUe, detail := 0, issuer := 0, index := 0 } else f

theorem copyOut_sends {s : State} {job : Nat} {j : Job} (hj : s.dev.jobOf job = some j) (hst : j.stage = .running)
    (hover : jobOver s.dev j = true) (hfail : (jobOutcome s.dev j).fail = none) (hopen : portOpen s.dev j.port = true) :
    ∃ t j', exec (.transferCopyOut job none) s = .next t ∧ t.dev.jobOf job = some j' ∧ j'.stage = .ended ∧
      t.dev.jobs.length = s.dev.jobs.length ∧ t.dev.cmds = s.dev.cmds ∧ t.dev.comps = s.dev.comps ∧
      (j'.fail = none → (t.dev.out.drop s.dev.out.length).filterMap hostWriteOf =
        (j.xfers.filter (fun x => x.out && (s.dev.allocOf x.alloc).isSome)).map (fun x => (j.port, x.haddr, x.len))) := by
  have hstart : AfterSends s.dev s.dev [] := ⟨AfterAccess.refl _, [], by simp, rfl⟩
  obtain ⟨w, ⟨hacc, l, hout, hw⟩, hsent⟩ := sendOut_foldl s.variant j.port s.dev (j.xfers.filter fun x => x.out) (false, s.dev) hstart
  have hop : copyOutOp s.variant job none s.dev =
      ((j.xfers.filter fun x => x.out).foldl (sendOut s.variant j.port) (false, s.dev)).2.modJob job (fun x => { x with
        stage := .ended
        fail := copyFailure ((j.xfers.filter fun x => x.out).foldl (sendOut s.variant j.port) (false, s.dev)).1 x.fail }) := by
    unfold copyOutOp
    rw [hj]
    dsimp only
    rw [if_pos ⟨hst, hover, hfail, hopen⟩]
    rfl
  rw [exec_transferCopyOut, hop]
  generalize (j.xfers.filter fun x => x.out).foldl (sendOut s.variant j.port) (false, s.dev) = r at hacc hout hsent ⊢
  obtain ⟨j0, hj0, -⟩ := hacc.jobOf (by exact hj)
  refine ⟨_, _, rfl, Dev.jobOf_modJob (fun x => { x with stage := .ended, fail := copyFailure r.1 x.fail }) hj0 rfl, rfl, ?_, ?_, ?_, ?_⟩
  · obtain ⟨g, -, hg⟩ := hacc.fails
    show List.length (r.2.jobs.map _) = _
    rw [hg, List.length_map, List.length_map]
  · show r.2.cmds = s.dev.cmds
    rw [hacc.frame]
  · show r.2.comps = s.dev.comps
    rw [hacc.frame]
  · intro hnone
    have hr : r.1 = false := by
      cases hr : r.1 with
      | false => rfl
      | true => simp [hr, copyFailure] at hnone
    show (r.2.out.drop s.dev.out.length).filterMap _ = _
    rw [hout, List.drop_left, hw, (hsent hr).2, List.nil_append, List.filter_filter]
    congr 2
    funext x
    rw [Bool.and_comm]

theorem copyOut_refused {s : State} {job : Nat} {j : Job} (hj : s.dev.jobOf job = some j) (hst : j.stage = .running)
    (hover : jobOver s.dev j = true) (hfail : (jobOutcome s.dev j).fail = none) (hopen : portOpen s.dev j.port = true) (k : Nat) :
    ∃ t j', exec (.transferCopyOut job (some k)) s = .next t ∧ t.dev.jobOf job = some j' ∧ j'.stage = .ended ∧
      (∃ f, j'.fail = some f ∧ f.status = stHostAccess ∧ f.detail = BitVec.ofNat 8 k) ∧ t = s.on { s.dev with jobs := t.dev.jobs } := by
  rw [exec_transferCopyOut]
  unfold copyOutOp
  rw [hj]
  dsimp only
  rw [if_pos ⟨hst, hover, hfail, hopen⟩]
  exact ⟨_, _, rfl, Dev.jobOf_modJob (fun x => { x with stage := .ended, fail := some ⟨stHostAccess, BitVec.ofNat 8 k, 0, 0⟩ }) hj rfl,
    rfl, ⟨_, rfl, rfl, rfl⟩, rfl⟩

theorem jobOutcome_same (d : Dev) (j : Job) : jobOutcome d j = { j with fail := (jobOutcome d j).fail } := by
  unfold jobOutcome
  split
  · rfl
  · split <;> rfl

theorem jobComplete_clause {s : State} {job : Nat} {j : Job} (hj : s.dev.jobOf job = some j) {id : Nat} {c : Cmd} {o : Job}
    (ho : j.stage = .ended ∧ o = j ∨ j.stage = .running ∧ jobOver s.dev j = true ∧ o = jobOutcome s.dev j ∧
      (o.fail.isSome = true ∨ j.xfers.all (fun x => !x.out) = true)) (hcmd : j.cmd = some id) (hc : s.dev.cmdOf id = some c) :
    ∃ t, exec (.jobComplete job) s = .next t ∧ t.dev.jobOf job = none ∧
      ∃ cp, t.dev.comps = s.dev.comps ++ [cp] ∧ cp.port = c.port ∧ cp.q = c.q ∧ cp.cid = c.cid ∧ cp.smiss = j.smiss ∧
        cp.status = (match o.fail with | some f => f.status | none => stSuccess) := by
  have hop : jobCompleteOp job s.dev = endJob o s.dev := by
    unfold jobCompleteOp
    rw [hj]
    dsimp only
    rcases ho with ⟨h, rfl⟩ | ⟨h, hov, rfl, hf⟩
    · rw [if_pos h]
    · rw [if_neg (by simp [h]), if_pos ⟨h, hov, hf⟩]
  have hsame : o = { j with fail := o.fail } := by
    rcases ho with ⟨-, rfl⟩ | ⟨-, -, rfl, -⟩
    · rfl
    · exact jobOutcome_same s.dev j
  have hid : o.id = job := by
    rw [hsame]
    exact (Dev.jobOf_id hj :)
  obtain ⟨hgone, -, -, -, cp, hcomps, hst, -, hsm, hcid, hq, hport⟩ := endJob_ends (j := o) (by rw [hsame]; exact hcmd) hc
  rw [exec_jobComplete, hop]
  refine ⟨_, rfl, hid ▸ hgone, cp, hcomps, hport, hq, hcid, by rw [hsm, hsame], ?_⟩
  rw [hst]
  cases o.fail <;> rfl

/-- Settles O12: a job's own record and memory change until it ends, and its command completes with its outcome. -/
theorem jobsRunThroughTheLoader : Obligations.JobsRunThroughTheLoader := by
  refine ⟨fun s job j hj => ⟨fun slots d1 hw hheld hr => ⟨fun hok hx => jobStart_clause hj hw hheld hr hok hx,
      fun f id c hf hcmd hc hno => jobStart_loaderFails hj hw hheld hr f id c hf hcmd hc hno⟩, fun data hst hopen hsw =>
      ⟨fun hall => copyIn_read hj hst hopen hsw hall, fun k id c hk hcmd hc => copyIn_fails hj hst hopen hsw hk hcmd hc⟩⟩,
    fun s job j hj => ⟨fun hst hover hfail hopen => ⟨copyOut_sends hj hst hover hfail hopen, copyOut_refused hj hst hover hfail hopen⟩,
      fun id c o ho hcmd hc => jobComplete_clause hj ho hcmd hc⟩⟩

end Sys2Proof.Machine

/-!
PROOFS for FENCE and ABORT (R372, R373). What a step may change without touching the commands in flight and their completions is stated once, as
a relation that the operations of loads, banks and wedges keep.
-/
namespace Sys2Proof.Machine

open Sys2Proof

/-! ### The commands in flight stand -/

/-- From `d` to `e` the commands in flight and the completions that wait stand. -/
def SameFlight (d e : Dev) : Prop := e.cmds = d.cmds ∧ e.comps = d.comps

variable {d e : Dev}

theorem SameFlight.refl (d : Dev) : SameFlight d d := ⟨rfl, rfl⟩

theorem SameFlight.trans {f : Dev} (h : SameFlight d e) (h' : SameFlight e f) : SameFlight d f := ⟨h'.1.trans h.1, h'.2.trans h.2⟩

theorem SameFlight.cmdOf (h : SameFlight d e) (id : Nat) : e.cmdOf id = d.cmdOf id := by rw [Dev.cmdOf, h.1, Dev.cmdOf]

theorem AfterAccess.sameFlight (h : AfterAccess d e) : SameFlight d e := by
  rw [h.frame]
  exact SameFlight.refl d

theorem sameFlight_foldl {α : Type} (h : SameFlight d e) (f : Dev → α → Dev) (l : List α)
    (hf : ∀ e a, SameFlight d e → SameFlight d (f e a)) : SameFlight d (l.foldl f e) :=
  List.foldlRecOn l f h fun e he a _ => hf e a he

theorem sameFlight_ite {c : Prop} {_ : Decidable c} {x y : Dev} (hx : SameFlight d x) (hy : SameFlight d y) :
    SameFlight d (if c then x else y) := by
  split
  · exact hx
  · exact hy

theorem sameFlight_modMac (h : SameFlight d e) (m : Nat) (f : Macro → Macro) : SameFlight d (e.modMac m f) := h

theorem sameFlight_setSbank (h : SameFlight d e) (code : Nat) (x : SpadBank) : SameFlight d (e.setSbank code x) := h

theorem sameFlight_fwCount (h : SameFlight d e) (idx sub len : Nat) (delta : Int) : SameFlight d (e.fwCount idx sub len delta) := by
  unfold Dev.fwCount Dev.fwP
  split
  · exact h
  · exact h

theorem sameFlight_freeCopies (h : SameFlight d e) (m : Nat) (b : Bool) : SameFlight d (freeCopies m b e) := h

theorem sameFlight_destroyMatrix (h : SameFlight d e) (id : Nat) : SameFlight d (destroyMatrix id e) := by
  unfold destroyMatrix
  split
  · exact h
  · exact h

theorem sameFlight_dropRepairs (h : SameFlight d e) (m : Nat) (b : Bool) : SameFlight d (dropRepairs m b e) := by
  unfold dropRepairs
  dsimp only
  split
  · exact h
  · exact sameFlight_fwCount h ..

theorem sameFlight_enterLoading (h : SameFlight d e) (m : Nat) (b : Bool) : SameFlight d (enterLoading m b e) := by
  unfold enterLoading
  exact sameFlight_modMac (sameFlight_dropRepairs (sameFlight_freeCopies (sameFlight_destroyMatrix h ..) ..) ..) ..

theorem sameFlight_emptyTargets (h : SameFlight d e) (place : List Nat) : SameFlight d (emptyTargets place e) :=
  sameFlight_foldl h _ _ fun _ _ he => sameFlight_ite he (sameFlight_modMac (sameFlight_enterLoading he ..) ..)

theorem sameFlight_abandonLoad (h : SameFlight d e) (l : Load) : SameFlight d (abandonLoad l e) :=
  sameFlight_foldl h _ _ fun _ _ he => sameFlight_modMac (sameFlight_dropRepairs he ..) ..

theorem sameFlight_abortLoad (h : SameFlight d e) (l : Load) : SameFlight d (abortLoad l e) := by
  unfold abortLoad
  split
  · exact sameFlight_abandonLoad h ..
  · exact sameFlight_emptyTargets (sameFlight_abandonLoad h ..) ..

theorem sameFlight_dropCalibration (h : SameFlight d e) (c : Cmd) : SameFlight d (dropCalibration c e) :=
  sameFlight_foldl h _ _ fun _ _ he => sameFlight_modMac he ..

theorem sameFlight_dropMarches (h : SameFlight d e) (l : List TestRun) : SameFlight d (l.foldl (fun (d : Dev) x =>
    match (targetOf x.target.toNat).bind marchCode with
    | some k => d.setSbank k { (d.sbank k) with march := none }
    | none => d) e) := by
  refine sameFlight_foldl h _ _ fun x a hx => ?_
  split
  · exact hx
  · exact hx

theorem sameFlight_abortJob (h : SameFlight d e) (j : Nat) : SameFlight d (abortJob j e) :=
  h.trans (afterAccess_dropJobTiles j e).sameFlight

/-! ### FENCE (R372) -/

theorem exec_fence (s : State) (cmd : Nat) : exec (.fence cmd) s = .next (s.on (fenceOp cmd s.dev)) := rfl

theorem exec_fenceComplete (s : State) (cmd : Nat) : exec (.fenceComplete cmd) s = .next (s.on (fenceCompleteOp cmd s.dev)) := rfl

theorem exec_abort (s : State) (cmd : Nat) : exec (.abort cmd) s = .next (s.on (abortOp cmd s.dev)) := rfl

/-- A change of the commands that keeps their ids changes the command that an id names. -/
theorem cmdOf_map {l : List Cmd} {g : Cmd → Cmd} (hg : ∀ c, (g c).id = c.id) (id : Nat) :
    (l.map g).find? (fun c => c.id == id) = (l.find? fun c => c.id == id).map g := by
  rw [List.find?_map]
  congr 2
  funext c
  simp [hg]

theorem fence_starts {s : State} {cmd : Nat} {c : Cmd} (hc : s.dev.starting cmd 0x1A = some c) :
    ∃ t, exec (.fence cmd) s = .next t ∧ t = s.on { s.dev with cmds := t.dev.cmds } ∧
      ∃ c', t.dev.cmdOf cmd = some c' ∧ c'.stage = .busy ∧ c'.waits = fenceScope s.dev c := by
  obtain ⟨hcmd, -, -⟩ := Dev.starting_cases hc
  have hid := (Dev.cmdOf_id hcmd).1
  have hop : fenceOp cmd s.dev = { s.dev with cmds := (s.dev.busy cmd).cmds.map fun e =>
      if e.id = cmd then { e with waits := fenceScope s.dev c } else e } := by
    simp only [fenceOp, hc]
    rfl
  rw [exec_fence, hop]
  refine ⟨_, rfl, rfl, { c with stage := .busy, waits := fenceScope s.dev c }, ?_, rfl, rfl⟩
  show List.find? _ (List.map _ (List.map _ s.dev.cmds)) = _
  rw [cmdOf_map (fun x => by split <;> rfl), cmdOf_map (fun x => by split <;> rfl)]
  rw [Dev.cmdOf] at hcmd
  simp [hcmd, hid]

theorem fenceCompleteOp_of_busy {d : Dev} {cmd : Nat} {c : Cmd} (hc : d.cmdOf cmd = some c) (hopc : c.opc = 0x1A) (hst : c.stage = .busy) :
    fenceCompleteOp cmd d = if c.waits.all (fun w => (d.cmdOf w).isNone) = true then d.succeeds cmd 0 else d := by
  simp [fenceCompleteOp, hc, hopc, hst]

theorem fence_completes {s : State} {cmd : Nat} {c : Cmd} (hc : s.dev.cmdOf cmd = some c) (hopc : c.opc = 0x1A) (hst : c.stage = .busy)
    (hw : ∀ w ∈ c.waits, s.dev.cmdOf w = none) : ∃ t, exec (.fenceComplete cmd) s = .next t ∧ Ended s.dev t.dev c stSuccess 0 0 ∧
      t = s.on { s.dev with cmds := t.dev.cmds, comps := t.dev.comps } := by
  have hall : c.waits.all (fun w => (s.dev.cmdOf w).isNone) = true := by
    rw [List.all_eq_true]
    intro w h
    rw [hw w h]
    rfl
  rw [exec_fenceComplete, fenceCompleteOp_of_busy hc hopc hst, if_pos hall, Dev.succeeds_eq hc]
  exact ⟨_, rfl, ⟨rfl, rfl⟩, rfl⟩

theorem fence_waits {s : State} {cmd : Nat} {c : Cmd} (hc : s.dev.cmdOf cmd = some c) (hopc : c.opc = 0x1A) (hst : c.stage = .busy)
    (hw : ∃ w ∈ c.waits, s.dev.cmdOf w ≠ none) : exec (.fenceComplete cmd) s = .next s := by
  obtain ⟨w, hmem, hne⟩ := hw
  have hall : ¬c.waits.all (fun w => (s.dev.cmdOf w).isNone) = true := fun h =>
    hne (Option.isNone_iff_eq_none.mp (List.all_eq_true.mp h w hmem))
  rw [exec_fenceComplete, fenceCompleteOp_of_busy hc hopc hst, if_neg hall]
  rfl

/-! ### ABORT (R373) -/

theorem abort_noTarget {s : State} {cmd : Nat} {c : Cmd} (hc : s.dev.starting cmd 0x1B = some c)
    (hno : s.dev.cmds.all (fun e => !(e.port == c.port && e.q == bitsOf (c.P 0) 19 16 &&
      e.cid == BitVec.ofNat 16 (bitsOf (c.P 0) 15 0))) = true) :
    ∃ t, exec (.abort cmd) s = .next t ∧ Ended s.dev t.dev c stNoTarget 0 0 ∧
      t = s.on { s.dev with cmds := t.dev.cmds, comps := t.dev.comps } := by
  obtain ⟨hcmd, -, -⟩ := Dev.starting_cases hc
  have hop : abortOp cmd s.dev = s.dev.fails cmd stNoTarget 0 := by
    simp only [abortOp, hc]
    rw [List.find?_eq_none.mpr fun e he => ?_]
    have := List.all_eq_true.mp hno e he
    simp only [Bool.not_eq_true', Bool.and_eq_false_iff, beq_eq_false_iff_ne] at this
    rcases this with (h | h) | h <;> simp [h]
  rw [exec_abort, hop, Dev.fails_eq hcmd (by decide)]
  exact ⟨_, rfl, ⟨rfl, rfl⟩, rfl⟩

/-- Of the commands in flight an ABORT ends its target, at once or later, and no other. -/
theorem abortTarget_cmds (e : Cmd) (d : Dev) : (abortTarget e d).cmds = d.cmds ∨ (abortTarget e d).cmds = d.cmds.filter (fun x => x.id != e.id) := by
  have hfinish (x : Dev) (hx : SameFlight d x) (st det : BitVec 8) (sm : Bool) (r : BitVec 64) : (x.finish e.id st det sm r).cmds = d.cmds ∨
      (x.finish e.id st det sm r).cmds = d.cmds.filter (fun y => y.id != e.id) := by
    unfold Dev.finish
    split
    · exact .inl hx.1
    · right
      dsimp only
      split
      · exact congrArg (List.filter _) hx.1
      · exact congrArg (List.filter _) hx.1
  unfold abortTarget
  split
  · exact hfinish d (SameFlight.refl d) ..
  split
  · split
    · next j hj =>
      have hjc : j.cmd = some e.id := by simpa using List.find?_some hj
      unfold abortJobNow
      split
      · unfold failEnd endJob
        dsimp only
        rw [(settled_settlePins _).frame, hjc]
        dsimp only
        refine hfinish _ ?_ ..
        exact (afterAccess_dropJobTiles j.id d).sameFlight
      split
      · exact .inl rfl
      · exact .inl (sameFlight_abortJob (SameFlight.refl d) j.id).1
    · exact .inl rfl
  split
  · split
    · exact hfinish _ (sameFlight_abortLoad (SameFlight.refl d) _) ..
    · exact hfinish d (SameFlight.refl d) ..
  split
  · exact hfinish _ (sameFlight_dropCalibration (SameFlight.refl d) _) ..
  · refine hfinish _ (sameFlight_dropMarches ?_ _) ..
    exact SameFlight.refl d

theorem Dev.cmdOf_filter_other {d : Dev} {id other : Nat} (h : other ≠ id) :
    (d.cmds.filter fun x => x.id != other).find? (fun c => c.id == id) = d.cmdOf id := by
  rw [List.find?_filter, Dev.cmdOf]
  congr 1
  funext c
  by_cases hc : c.id = id
  · simp [hc, Ne.symm h]
  · simp [hc]

theorem abort_ends {s : State} {cmd : Nat} {c : Cmd} (hc : s.dev.starting cmd 0x1B = some c) {e : Cmd}
    (hfind : s.dev.cmds.find? (fun e => e.port = c.port && e.q = bitsOf (c.P 0) 19 16 &&
      e.cid = BitVec.ofNat 16 (bitsOf (c.P 0) 15 0) && abortable e &&
      !(e.opc = 0x19 && s.dev.jobs.any (fun j => j.cmd = some e.id && j.stage = .ended))) = some e) (hne : e.id ≠ cmd)
    (he : s.dev.cmdOf e.id = some e) :
    ∃ t, exec (.abort cmd) s = .next t ∧ compFor c stSuccess 0 0 ∈ t.dev.comps ∧ (∀ x ∈ t.dev.cmds, x.id ≠ cmd) ∧
      (e.stage = .ready → t.dev.comps = s.dev.comps ++ [compFor e stAborted 0 0, compFor c stSuccess 0 0] ∧
        t.dev.cmds = (s.dev.cmds.filter (fun x => x.id != e.id)).filter (fun x => x.id != cmd)) := by
  obtain ⟨hcmd, -, -⟩ := Dev.starting_cases hc
  have hid := (Dev.cmdOf_id hcmd).1
  have hop : abortOp cmd s.dev = (abortTarget e s.dev).succeeds cmd 0 := by
    simp only [abortOp, hc]
    rw [hfind]
  have hcmd' : (abortTarget e s.dev).cmdOf cmd = some c := by
    rw [Dev.cmdOf]
    rcases abortTarget_cmds e s.dev with h | h <;> rw [h]
    · exact hcmd
    · exact (Dev.cmdOf_filter_other hne).trans hcmd
  rw [exec_abort, hop, Dev.succeeds_eq hcmd']
  refine ⟨_, rfl, List.mem_append_right _ (List.mem_singleton_self _), fun x hx => ?_, fun hready => ?_⟩
  · simpa [hid] using (List.mem_filter.mp hx).2
  · have ht : abortTarget e s.dev = s.dev.fails e.id stAborted 0 := by rw [abortTarget, if_pos hready]
    rw [ht, Dev.fails_eq he (by decide)]
    exact ⟨List.append_assoc .., by rw [← hid]; rfl⟩

/-- Settles O13: FENCE by the commands in flight that it records, ABORT by what it does to its target. -/
theorem fencesAndAbortsEnd : Obligations.FencesAndAbortsEnd :=
  ⟨fun _ _ _ => ⟨fence_starts, fun hc hopc hst => ⟨fence_completes hc hopc hst, fence_waits hc hopc hst⟩⟩,
    fun _ _ _ hc => ⟨abort_noTarget hc, fun _ hfind hne he => abort_ends hc hfind hne he⟩⟩

end Sys2Proof.Machine

/-!
PROOFS for PHASE HINT and for the hints that a region holds (R374, R421 to R423).
-/
namespace Sys2Proof.Machine

open Sys2Proof

theorem exec_phaseHint (s : State) (cmd : Nat) : exec (.phaseHint cmd) s = .next (s.on (phaseHintOp cmd s.dev)) := rfl

theorem exec_hintRampStart (s : State) (hub phase : Nat) :
    exec (.hintRampStart hub phase) s = .next (s.on (hintRampOp s.variant hub phase s.dev)) := rfl

theorem exec_hintHoldExpiry (s : State) (hub phase : Nat) : exec (.hintHoldExpiry hub phase) s = .next (s.on (hintHoldOp hub phase s.dev)) := rfl

/-- The hint that a PHASE HINT brings to a hub. -/
def Cmd.hintFor (c : Cmd) (h : Nat) : Hint :=
  { hub := h, phase := bitsOf (c.P 0) 7 0, target := bitsOf (c.P 0) 23 16, lead := bitsOf (c.P 1) 31 0, port := c.port,
    ramping := false, reached := false, falling := false, used := false }

@[simp] theorem Cmd.hintFor_hub (c : Cmd) (h : Nat) : (c.hintFor h).hub = h := rfl

@[simp] theorem Cmd.hintFor_phase (c : Cmd) (h : Nat) : (c.hintFor h).phase = bitsOf (c.P 0) 7 0 := rfl

/-- The hints after a hub takes one in place of any that it held for the phase. -/
def heldHints (l : List Hint) (h : Hint) : List Hint := l.filter (fun x => !(x.hub = h.hub && x.phase = h.phase)) ++ [h]

/-- Hubs that take hints change those of no other hub or phase. -/
theorem heldHints_others (hubs : List Nat) (c : Cmd) (p : Hint → Bool) (hp : ∀ h ∈ hubs, ∀ x, p x = true →
      (x.hub = h && x.phase = bitsOf (c.P 0) 7 0) = false) (hp' : ∀ h ∈ hubs, p (c.hintFor h) = false) (l : List Hint) :
    (hubs.foldl (fun l h => heldHints l (c.hintFor h)) l).filter p = l.filter p := by
  induction hubs generalizing l with
  | nil => rfl
  | cons h hubs ih =>
    rw [List.foldl_cons, ih (fun k hk => hp k (List.mem_cons_of_mem _ hk)) (fun k hk => hp' k (List.mem_cons_of_mem _ hk)), heldHints,
      List.filter_append, List.filter_filter, List.filter_singleton, hp' h List.mem_cons_self]
    rw [List.filter_congr (q := p) fun x _ => ?_]
    · simp
    · cases hx : p x with
      | false => simp
      | true =>
        have := hp h List.mem_cons_self x hx
        rw [Cmd.hintFor_hub, Cmd.hintFor_phase, this]
        rfl

/-- Each hub that takes a hint then holds it alone for the phase. -/
theorem heldHints_filter (hubs : List Nat) (hnd : hubs.Nodup) (c : Cmd) {h : Nat} (hh : h ∈ hubs) (l : List Hint) :
    (hubs.foldl (fun l h => heldHints l (c.hintFor h)) l).filter (fun y => y.hub = h && y.phase = bitsOf (c.P 0) 7 0) = [c.hintFor h] := by
  induction hubs generalizing l with
  | nil => cases hh
  | cons k hubs ih =>
    obtain ⟨hk, hnd⟩ := List.nodup_cons.mp hnd
    rw [List.foldl_cons]
    by_cases hmem : h ∈ hubs
    · exact ih hnd hmem _
    · obtain rfl : h = k := (List.mem_cons.mp hh).resolve_right hmem
      rw [heldHints_others hubs c _ (fun j hj x hx => ?_) (fun j hj => ?_), heldHints, List.filter_append, List.filter_filter]
      · have hnone : (l.filter fun x => (decide (x.hub = h) && decide (x.phase = bitsOf (c.P 0) 7 0)) &&
            !(decide (x.hub = (c.hintFor h).hub) && decide (x.phase = (c.hintFor h).phase))) = [] := by
          rw [List.filter_eq_nil_iff]
          intro x _
          rw [Cmd.hintFor_hub, Cmd.hintFor_phase, Bool.and_not_self]
          exact Bool.false_ne_true
        rw [hnone]
        simp
      · have hxh : x.hub = h := of_decide_eq_true (Bool.and_elim_left hx)
        have : x.hub ≠ j := fun he => hk (hxh ▸ he ▸ hj)
        simp [this]
      · have : j ≠ h := fun he => hk (he ▸ hj)
        simp [this]

theorem phaseHintOp_of_starting {d : Dev} {cmd : Nat} {c : Cmd} (hc : d.starting cmd 0x20 = some c) :
    phaseHintOp cmd d =
      ({ d with pow := { d.pow with hints := (hintHubs (c.P 0)).foldl (fun l h => heldHints l (c.hintFor h)) d.pow.hints } }).succeeds cmd 0 := by
  have hfold (hubs : List Nat) (x : Dev) : hubs.foldl (fun (d : Dev) h => holdHint (c.hintFor h) d) x =
      { x with pow := { x.pow with hints := hubs.foldl (fun l h => heldHints l (c.hintFor h)) x.pow.hints } } := by
    induction hubs generalizing x with
    | nil => rfl
    | cons h hubs ih =>
      rw [List.foldl_cons, ih]
      rfl
  simp only [phaseHintOp, hc]
  exact congrArg (fun e : Dev => e.succeeds cmd 0) (hfold (hintHubs (c.P 0)) d)

theorem nodup_hintHubs (p : Nat) : (hintHubs p).Nodup := List.Nodup.filter _ List.nodup_range

theorem phaseHint_held {s : State} {cmd : Nat} {c : Cmd} (hc : s.dev.starting cmd 0x20 = some c) :
    ∃ t, exec (.phaseHint cmd) s = .next t ∧ Ended s.dev t.dev c stSuccess 0 0 ∧
      t = s.on { s.dev with pow := { s.dev.pow with hints := t.dev.pow.hints }, cmds := t.dev.cmds, comps := t.dev.comps } ∧
      (∀ h ∈ hintHubs (c.P 0), ∃ x, t.dev.pow.hints.filter (fun y => y.hub = h && y.phase = bitsOf (c.P 0) 7 0) = [x] ∧
        x.target = bitsOf (c.P 0) 23 16 ∧ x.lead = bitsOf (c.P 1) 31 0 ∧ x.port = c.port ∧ x.ramping = false ∧ x.reached = false) ∧
      t.dev.pow.hints.filter (fun y => !((hintHubs (c.P 0)).contains y.hub && y.phase = bitsOf (c.P 0) 7 0)) =
        s.dev.pow.hints.filter (fun y => !((hintHubs (c.P 0)).contains y.hub && y.phase = bitsOf (c.P 0) 7 0)) := by
  obtain ⟨hcmd, -, -⟩ := Dev.starting_cases hc
  rw [exec_phaseHint, phaseHintOp_of_starting hc, Dev.succeeds_eq (c := c) (by exact hcmd)]
  refine ⟨_, rfl, ⟨rfl, rfl⟩, rfl, fun h hh => ⟨c.hintFor h, heldHints_filter _ (nodup_hintHubs _) c hh _, rfl, rfl, rfl, rfl, rfl⟩, ?_⟩
  refine heldHints_others _ c _ (fun h hh x hx => ?_) (fun h hh => ?_) _
  · by_cases hxh : x.hub = h
    · subst hxh
      simpa [hh] using hx
    · simp [hxh]
  · simp [hh]

/-- A change of the hints of a hub and phase reaches each of them. -/
theorem modHint_reaches {hub phase : Nat} {f : Hint → Hint} {d : Dev} {y : Hint}
    (hy : y ∈ (modHint hub phase f d).pow.hints) (hyh : y.hub = hub) (hyp : y.phase = phase) : ∃ z, y = f z := by
  obtain ⟨z, -, rfl⟩ := List.mem_map.mp hy
  by_cases hz : (z.hub = hub && z.phase = phase) = true
  · exact ⟨z, if_pos hz⟩
  · rw [if_neg hz] at hyh hyp
    exact absurd (by simp [hyh, hyp]) hz

theorem hintRamp_rises {s : State} {hub : Nat} (hg : governs s.variant s.dev hub = true) (phase : Nat) :
    ∃ t, exec (.hintRampStart hub phase) s = .next t ∧ t = s.on { s.dev with pow := { s.dev.pow with hints := t.dev.pow.hints } } ∧
      t.dev.pow.hints.length = s.dev.pow.hints.length ∧ ∀ x ∈ t.dev.pow.hints, x.hub = hub → x.phase = phase → x.ramping = true := by
  have hop : hintRampOp s.variant hub phase s.dev = modHint hub phase (fun x => { x with ramping := true }) s.dev := by simp [hintRampOp, hg]
  rw [exec_hintRampStart, hop]
  refine ⟨_, rfl, rfl, List.length_map _, fun x hx hxh hxp => ?_⟩
  obtain ⟨z, rfl⟩ := modHint_reaches (f := fun x => { x with ramping := true }) hx hxh hxp
  rfl

theorem hintHold_expires {s : State} {hub phase : Nat} {x : Hint}
    (hx : s.dev.pow.hints.find? (fun y => y.hub = hub && y.phase = phase) = some x) (hr : x.reached = true) (hf : x.falling = false) :
    ∃ t, exec (.hintHoldExpiry hub phase) s = .next t ∧
      t = s.on { s.dev with pow := { s.dev.pow with hints := t.dev.pow.hints }, ctr := t.dev.ctr } ∧
      (∀ y ∈ t.dev.pow.hints, y.hub = hub → y.phase = phase → y.falling = true) ∧
      (if x.used then t.dev.ctr = s.dev.ctr else Counted s.dev t.dev 0x4403 (ssHub hub) 1) := by
  have hop : hintHoldOp hub phase s.dev = (let d1 := modHint hub phase (fun y => { y with falling := true }) s.dev
      if x.used then d1 else d1.count 0x4403 (ssHub hub) 1) := by
    simp only [hintHoldOp, hx, hr, hf]
    rfl
  have hall : ∀ y ∈ (modHint hub phase (fun y => { y with falling := true }) s.dev).pow.hints, y.hub = hub → y.phase = phase → y.falling = true := by
    intro y hy hyh hyp
    obtain ⟨z, rfl⟩ := modHint_reaches (f := fun y => { y with falling := true }) hy hyh hyp
    rfl
  rw [exec_hintHoldExpiry, hop]
  dsimp only
  split
  · exact ⟨_, rfl, rfl, hall, rfl⟩
  · exact ⟨_, rfl, rfl, hall, s.dev.counted_count 0x4403 (ssHub hub) 1⟩

/-- Settles O14: a hint replaces those of its hub and phase alone, and its ramp and its fall set one flag of it. -/
theorem phaseHintsHeldAndReleased : Obligations.PhaseHintsHeldAndReleased :=
  ⟨fun _ _ _ => phaseHint_held, fun _ _ phase hg => hintRamp_rises hg phase, fun _ _ _ _ => hintHold_expires⟩

end Sys2Proof.Machine

/-!
PROOFS for the check engines (R377, R452 to R454).
-/
namespace Sys2Proof.Machine

open Sys2Proof

theorem exec_ceConfigWrite (s : State) (cmd : Nat) : exec (.ceConfigWrite cmd) s = .next (s.on (ceConfigOp cmd s.dev)) := rfl

theorem exec_ceReadRunning (s : State) (cmd : Nat) : exec (.ceReadRunning cmd) s = .next (s.on (ceReadOp cmd s.dev)) := rfl

theorem exec_ceWriteRunning (s : State) (cmd : Nat) : exec (.ceWriteRunning cmd) s = .next (s.on (ceWriteOp cmd s.dev)) := rfl

theorem exec_ceFrameFeed (s : State) (n kind index seq loc off : Nat) (bs : Bytes) :
    exec (.ceFrameFeed n kind index seq loc off bs) s = .next (s.on (ceFrameOp s.variant n kind index seq loc off bs s.dev)) := rfl

theorem ceCommand_of_starting {d : Dev} {cmd op : Nat} {c : Cmd} (hc : d.starting cmd 0x30 = some c) (hop : bitsOf (c.P 0) 9 8 = op) :
    ceCommand cmd op d = some (c, bitsOf (c.P 0) 5 0) := by
  simp [ceCommand, hc, hop]

/-! ### The three operations of CHECK ENGINE CONFIG (R377, R452) -/

theorem ceConfig_held {s : State} {cmd : Nat} {c : Cmd} (hc : s.dev.starting cmd 0x30 = some c) (hop : bitsOf (c.P 0) 9 8 = 0) :
    let n := bitsOf (c.P 0) 5 0
    ∃ t, exec (.ceConfigWrite cmd) s = .next t ∧ Ended s.dev t.dev c stSuccess 0 0 ∧
      t = s.on { s.dev with ces := t.dev.ces, ctr := t.dev.ctr, cmds := t.dev.cmds, comps := t.dev.comps } ∧
      (∀ k, k ≠ n → t.dev.ce k = s.dev.ce k) ∧
      (if (s.dev.ce n).snoops = false ∧ (s.dev.ce n).openPage = true then Counted s.dev t.dev 0x5114 (n + 1) (2 ^ 48)
       else t.dev.ctr = s.dev.ctr) ∧
      (if (s.dev.ce n).snoops then t.dev.ce n = { s.dev.ce n with next := some (ceCfgOf c) }
       else (t.dev.ce n).cfg = ceCfgOf c ∧ (t.dev.ce n).next = none ∧
         ((c.P 1).testBit 16 = true → (t.dev.ce n).run = BitVec.ofNat 64 (c.P 3 % 2 ^ bitsOf (c.P 5) 6 0))) := by
  obtain ⟨hcmd, -, -⟩ := Dev.starting_cases hc
  dsimp only
  generalize hn : bitsOf (c.P 0) 5 0 = n
  rw [exec_ceConfigWrite, ceConfigOp, ceCommand_of_starting hc hop, hn]
  dsimp only
  cases hsn : (s.dev.ce n).snoops with
  | true =>
    rw [if_pos rfl, Dev.succeeds_eq (c := c) (by exact hcmd)]
    exact ⟨_, rfl, ⟨rfl, rfl⟩, rfl, fun k hk => s.dev.ce_setCe_other _ hk, by simp, by rw [if_pos rfl]; exact s.dev.ce_setCe_same n _⟩
  | false =>
    rw [if_neg Bool.false_ne_true]
    have hce := s.dev.ce_setCe_same n ((s.dev.ce n).take (ceCfgOf c))
    have hlast : ((s.dev.setCe n ((s.dev.ce n).take (ceCfgOf c))).ce n).cfg = ceCfgOf c ∧
        ((s.dev.setCe n ((s.dev.ce n).take (ceCfgOf c))).ce n).next = none ∧ ((c.P 1).testBit 16 = true →
          ((s.dev.setCe n ((s.dev.ce n).take (ceCfgOf c))).ce n).run = BitVec.ofNat 64 (c.P 3 % 2 ^ bitsOf (c.P 5) 6 0)) := by
      rw [hce]
      exact ⟨rfl, rfl, fun h => if_pos h⟩
    cases hop : (s.dev.ce n).openPage with
    | true =>
      rw [countPartial, if_pos rfl, Dev.succeeds_eq (c := c) (by exact hcmd)]
      exact ⟨_, rfl, ⟨rfl, rfl⟩, rfl, fun k hk => s.dev.ce_setCe_other _ hk,
        by simp only [and_self, if_true]; exact s.dev.counted_count 0x5114 (n + 1) (2 ^ 48), by rw [if_neg Bool.false_ne_true]; exact hlast⟩
    | false =>
      rw [countPartial, if_neg Bool.false_ne_true, Dev.succeeds_eq (c := c) (by exact hcmd)]
      exact ⟨_, rfl, ⟨rfl, rfl⟩, rfl, fun k hk => s.dev.ce_setCe_other _ hk, by simp, by rw [if_neg Bool.false_ne_true]; exact hlast⟩

theorem ceRead_answers {s : State} {cmd : Nat} {c : Cmd} (hc : s.dev.starting cmd 0x30 = some c) (hop : bitsOf (c.P 0) 9 8 = 1) :
    ∃ t, exec (.ceReadRunning cmd) s = .next t ∧ Ended s.dev t.dev c stSuccess 0 (s.dev.ce (bitsOf (c.P 0) 5 0)).atFrame.toNat ∧
      t = s.on { s.dev with cmds := t.dev.cmds, comps := t.dev.comps } := by
  obtain ⟨hcmd, -, -⟩ := Dev.starting_cases hc
  rw [exec_ceReadRunning, ceReadOp, ceCommand_of_starting hc hop]
  dsimp only
  rw [Dev.succeeds_eq hcmd]
  exact ⟨_, rfl, ⟨rfl, rfl⟩, rfl⟩

theorem ceWrite_waits {s : State} {cmd : Nat} {c : Cmd} (hc : s.dev.starting cmd 0x30 = some c) (hop : bitsOf (c.P 0) 9 8 = 2) :
    let n := bitsOf (c.P 0) 5 0
    ∃ t, exec (.ceWriteRunning cmd) s = .next t ∧ Ended s.dev t.dev c stSuccess 0 0 ∧
      t = s.on { s.dev with ces := t.dev.ces, cmds := t.dev.cmds, comps := t.dev.comps } ∧ (∀ k, k ≠ n → t.dev.ce k = s.dev.ce k) ∧
      t.dev.ce n = { s.dev.ce n with setNext := some (BitVec.ofNat 64 (c.P 6)) } := by
  obtain ⟨hcmd, -, -⟩ := Dev.starting_cases hc
  rw [exec_ceWriteRunning, ceWriteOp, ceCommand_of_starting hc hop]
  dsimp only
  rw [Dev.succeeds_eq (c := c) (by exact hcmd)]
  exact ⟨_, rfl, ⟨rfl, rfl⟩, rfl, fun k hk => s.dev.ce_setCe_other _ hk, s.dev.ce_setCe_same _ _⟩

/-! ### Feeding (R452 to R454) -/

/-- Feeding changes the running value and the page of an engine alone. -/
structure FedFrom (x y : CheckEngine) : Prop where
  cfg : y.cfg = x.cfg
  lastSeq : y.lastSeq = x.lastSeq
  xfer : y.xfer = x.xfer

theorem fedFrom_ceEnterPage {x : CheckEngine} {r : CheckEngine × CeFound} (h : FedFrom x r.1) (loc p : Nat) (first : Bool) :
    FedFrom x (ceEnterPage loc p first r).1 := ⟨h.cfg, h.lastSeq, h.xfer⟩

theorem fedFrom_ceEndPage {x : CheckEngine} {r : CheckEngine × CeFound} (h : FedFrom x r.1) : FedFrom x (ceEndPage r).1 :=
  ⟨h.cfg, h.lastSeq, h.xfer⟩

theorem fedFrom_cePageByte {x : CheckEngine} (csOff loc : Nat) {r : CheckEngine × CeFound} (h : FedFrom x r.1) (e : Nat × Byte) :
    FedFrom x (cePageByte csOff loc r e).1 := by
  unfold cePageByte
  extract_lets size p o r1 y c inField run z
  have h1 : FedFrom x r1.1 := by
    unfold r1
    split
    · exact h
    · exact fedFrom_ceEnterPage h ..
  have hz : FedFrom x z := ⟨h1.cfg, h1.lastSeq, h1.xfer⟩
  split
  · exact fedFrom_ceEndPage (r := (z, r1.2)) hz
  · exact hz

theorem fedFrom_ceFeed (csOff loc offset : Nat) (bs : Bytes) (x : CheckEngine) : FedFrom x (ceFeed csOff loc offset bs x).1 := by
  unfold ceFeed
  dsimp only
  split
  · exact ⟨rfl, rfl, rfl⟩
  · exact List.foldlRecOn (motive := fun r : CheckEngine × CeFound => FedFrom x r.1) _ _ ⟨rfl, rfl, rfl⟩ fun r hr e _ => fedFrom_cePageByte csOff loc hr _

theorem ceFeed_stream {x : CheckEngine} (hp : x.cfg.page = 0) (csOff loc offset : Nat) (bs : Bytes) :
    ceFeed csOff loc offset bs x =
      ({ x with run := BitVec.ofNat 64 (crcFeed x.cfg.width x.cfg.poly.toNat x.cfg.refin x.run.toNat bs) }, ⟨0, 0, []⟩) := by
  unfold ceFeed
  dsimp only
  rw [if_pos hp]

/-- From `d` to `e` counters, values, events and the limits that posted have changed at most. -/
def Reported (d e : Dev) : Prop := e = { d with ctr := e.ctr, log := e.log, marks := e.marks, vals := e.vals }

theorem Reported.refl (d : Dev) : Reported d d := rfl

theorem Reported.trans {d e f : Dev} (h : Reported d e) (h' : Reported e f) : Reported d f := by
  unfold Reported at *
  rw [h', h]

theorem reported_count {d e : Dev} (h : Reported d e) (idx sub n : Nat) : Reported d (e.count idx sub n) :=
  h.trans (f := e.count idx sub n) rfl

theorem reported_postOnce {d e : Dev} (h : Reported d e) (limit key : Nat) (code : BitVec 16) (hub : Nat) (unit : BitVec 32)
    (vals : List (Nat × Nat)) : Reported d (e.postOnce limit key code hub unit vals) := by
  unfold Dev.postOnce
  split
  · exact h
  · exact h.trans rfl

theorem reported_ceMismatch {d e : Dev} (h : Reported d e) (n loc : Nat) (x : Nat × Nat × Nat) : Reported d (ceMismatch n loc x e) := by
  unfold ceMismatch
  dsimp only
  refine reported_postOnce (reported_count ?_ ..) ..
  exact h.trans (f := { e with vals := _ }) rfl

theorem reported_ceReport {d e : Dev} (h : Reported d e) (n loc : Nat) (f : CeFound) : Reported d (ceReport n loc f e) := by
  unfold ceReport
  extract_lets k d1
  have h1 : Reported d d1 := by
    unfold d1
    split
    · exact h
    · exact reported_count h ..
  exact List.foldlRecOn (motive := Reported d) _ _ h1 fun e he x _ => reported_ceMismatch he n loc x

theorem ceReport_nothing (n loc : Nat) (d : Dev) : ceReport n loc ⟨0, 0, []⟩ d = d := by simp [ceReport]

theorem CheckEngine.boundary_of_none {x : CheckEngine} (hn : x.next = none) (hs : x.setNext = none) : x.boundary = x := by
  simp [CheckEngine.boundary, hn, hs]

/-- The engine with the number and the transfer of the last frame that it took. -/
def CheckEngine.numbered (x : CheckEngine) (seq xfer : Nat) : CheckEngine := { x with lastSeq := some seq, xfer := xfer }

/-- The engine after a gap: its page is no longer whole. -/
def CheckEngine.gapped (x : CheckEngine) (seq xfer : Nat) : CheckEngine := { x with lastSeq := some seq, xfer := xfer, whole := false }

/-- What becomes of a frame that an engine sees, no configuration or value waiting for its boundary. -/
theorem ceFrameOp_of_seen {v : Variant} {d : Dev} {n kind index : Nat} (hp : targetPresent v (.ce n) = true)
    (hoff : targetOffline d (.ce n) = false) (hsee : (d.ce n).sees kind index = true) (hn : (d.ce n).next = none)
    (hs : (d.ce n).setNext = none) (seq loc off : Nat) (bs : Bytes) (fr : Option Nat)
    (hfr : (if kind = 1 then ceTransfer d n loc off bs.length else some 0) = fr) (hsome : fr.isSome = true) :
    ceFrameOp v n kind index seq loc off bs d =
      match seqKind kind (kind = 1 && some (d.ce n).xfer != fr) (d.ce n).lastSeq seq with
      | .again => ((d.setCe n (d.ce n)).count 0x5112 (n + 1) 1).postOnce limCeRepeat n evCeRepeat (n / 16) (codeOf (.ce n)) []
      | .gap => ((d.setCe n ((d.ce n).gapped seq (fr.getD 0))).count 0x5113 (n + 1) 1).postOnce
          limCeGap n evCeGap (n / 16) (codeOf (.ce n)) []
      | .inOrder =>
        let r := ceFeed (d.num 0x5101 (n + 1) 0) loc off bs ((d.ce n).numbered seq (fr.getD 0))
        ceReport n loc r.2 (d.setCe n { r.1 with atFrame := r.1.run }) := by
  have hnone : fr.isNone = false := by
    cases fr with
    | none => cases hsome
    | some x => rfl
  have hpart : countPartial n ((d.ce n).next.isSome && (d.ce n).openPage) d = d := by
    rw [hn]
    rfl
  unfold ceFrameOp
  dsimp only
  rw [hfr, hp, hoff, hsee, hnone, CheckEngine.boundary_of_none hn hs, hsee, hpart, if_neg (by decide), if_neg (by decide)]
  cases seqKind kind (kind = 1 && some (d.ce n).xfer != fr) (d.ce n).lastSeq seq <;> rfl

theorem Dev.ce_setCe_self (d : Dev) (n k : Nat) : (d.setCe n (d.ce n)).ce k = d.ce k := by
  by_cases h : k = n
  · rw [h, Dev.ce_setCe_same]
  · exact Dev.ce_setCe_other d _ h

theorem Reported.ce {d e : Dev} (h : Reported d e) (n : Nat) : e.ce n = d.ce n := by
  unfold Reported at h
  rw [h]
  rfl

theorem Reported.frame {d e : Dev} {ces : Tab CheckEngine} (h : Reported { d with ces := ces } e) :
    e = { d with ces := e.ces, ctr := e.ctr, log := e.log, marks := e.marks, vals := e.vals } := by
  unfold Reported at h
  rw [h]

theorem counted_postOnce {d e : Dev} {idx sub n : Nat} (h : Counted d e idx sub n) (limit key : Nat) (code : BitVec 16) (hub : Nat)
    (unit : BitVec 32) (vals : List (Nat × Nat)) : Counted d (e.postOnce limit key code hub unit vals) idx sub n := by
  unfold Counted at *
  rwa [Dev.postOnce_ctr]

theorem Dev.counted_setCe (d : Dev) (k : Nat) (x : CheckEngine) (idx sub n : Nat) : Counted d ((d.setCe k x).count idx sub n) idx sub n :=
  d.counted_count idx sub n

theorem ceFrame_fed {s : State} {n kind index : Nat} (hp : targetPresent s.variant (.ce n) = true)
    (hoff : targetOffline s.dev (.ce n) = false) (hsee : (s.dev.ce n).sees kind index = true) (hn : (s.dev.ce n).next = none)
    (hs : (s.dev.ce n).setNext = none) (seq loc off : Nat) (bs : Bytes) (fr : Option Nat)
    (hfr : (if kind = 1 then ceTransfer s.dev n loc off bs.length else some 0) = fr) (hsome : fr.isSome = true) :
    let kn := seqKind kind (kind = 1 && some (s.dev.ce n).xfer != fr) (s.dev.ce n).lastSeq seq
    ∃ t, exec (.ceFrameFeed n kind index seq loc off bs) s = .next t ∧
      (∀ k, k ≠ n → t.dev.ce k = s.dev.ce k) ∧ (t.dev.ce n).cfg = (s.dev.ce n).cfg ∧
      t = s.on { s.dev with ces := t.dev.ces, ctr := t.dev.ctr, log := t.dev.log, marks := t.dev.marks, vals := t.dev.vals } ∧
      (kn = .again → t.dev.ce n = s.dev.ce n ∧ Counted s.dev t.dev 0x5112 (n + 1) 1) ∧
      (kn = .gap → Counted s.dev t.dev 0x5113 (n + 1) 1 ∧
        t.dev.ce n = { s.dev.ce n with lastSeq := some seq, xfer := fr.getD 0, whole := false }) ∧
      (kn = .inOrder → (t.dev.ce n).lastSeq = some seq ∧ (t.dev.ce n).xfer = fr.getD 0 ∧
        (t.dev.ce n).atFrame = (t.dev.ce n).run ∧
        ((s.dev.ce n).cfg.page = 0 → t.dev.ctr = s.dev.ctr ∧ t.dev.log = s.dev.log ∧
          (t.dev.ce n).run = BitVec.ofNat 64 (Machine.crcFeed (s.dev.ce n).cfg.width (s.dev.ce n).cfg.poly.toNat (s.dev.ce n).cfg.refin
            (s.dev.ce n).run.toNat bs))) := by
  dsimp only
  rw [exec_ceFrameFeed, ceFrameOp_of_seen hp hoff hsee hn hs seq loc off bs fr hfr hsome]
  cases hk : seqKind kind (kind = 1 && some (s.dev.ce n).xfer != fr) (s.dev.ce n).lastSeq seq with
  | again =>
    dsimp only
    have hr : Reported (s.dev.setCe n (s.dev.ce n)) (((s.dev.setCe n (s.dev.ce n)).count 0x5112 (n + 1) 1).postOnce limCeRepeat n evCeRepeat
        (n / 16) (codeOf (.ce n)) []) := reported_postOnce (reported_count (Reported.refl _) ..) ..
    have hce (k : Nat) := (hr.ce k).trans (s.dev.ce_setCe_self n k)
    refine ⟨_, rfl, fun k _ => hce k, congrArg CheckEngine.cfg (hce n), congrArg s.on hr.frame, fun _ => ⟨hce n, ?_⟩, nofun, nofun⟩
    exact counted_postOnce (s.dev.counted_setCe n _ 0x5112 (n + 1) 1) _ _ _ _ _ _
  | gap =>
    dsimp only
    have hr : Reported (s.dev.setCe n ((s.dev.ce n).gapped seq (fr.getD 0)))
        (((s.dev.setCe n ((s.dev.ce n).gapped seq (fr.getD 0))).count 0x5113 (n + 1) 1).postOnce
          limCeGap n evCeGap (n / 16) (codeOf (.ce n)) []) := reported_postOnce (reported_count (Reported.refl _) ..) ..
    have hce := (hr.ce n).trans (s.dev.ce_setCe_same n _)
    refine ⟨_, rfl, fun k hk => (hr.ce k).trans (s.dev.ce_setCe_other _ hk), (congrArg CheckEngine.cfg hce).trans rfl,
      congrArg s.on hr.frame, nofun,
      fun _ => ⟨?_, hce⟩, nofun⟩
    exact counted_postOnce (s.dev.counted_setCe n _ 0x5113 (n + 1) 1) _ _ _ _ _ _
  | inOrder =>
    dsimp only
    have hfed := fedFrom_ceFeed (s.dev.num 0x5101 (n + 1) 0) loc off bs ((s.dev.ce n).numbered seq (fr.getD 0))
    have hstream (hpage : (s.dev.ce n).cfg.page = 0) :=
      ceFeed_stream (x := ((s.dev.ce n).numbered seq (fr.getD 0))) hpage (s.dev.num 0x5101 (n + 1) 0) loc off bs
    generalize ceFeed (s.dev.num 0x5101 (n + 1) 0) loc off bs ((s.dev.ce n).numbered seq (fr.getD 0)) = r at hfed hstream ⊢
    have hr : Reported (s.dev.setCe n { r.1 with atFrame := r.1.run }) (ceReport n loc r.2 (s.dev.setCe n { r.1 with atFrame := r.1.run })) :=
      reported_ceReport (Reported.refl _) ..
    have hce := (hr.ce n).trans (s.dev.ce_setCe_same n { r.1 with atFrame := r.1.run })
    refine ⟨_, rfl, fun k hk => (hr.ce k).trans (s.dev.ce_setCe_other _ hk), (congrArg CheckEngine.cfg hce).trans hfed.cfg,
      congrArg s.on hr.frame, nofun, nofun, fun _ => ⟨(congrArg CheckEngine.lastSeq hce).trans hfed.lastSeq,
        (congrArg CheckEngine.xfer hce).trans hfed.xfer,
        (congrArg CheckEngine.atFrame hce).trans (congrArg CheckEngine.run hce).symm, fun hpage => ⟨?_, ?_, ?_⟩⟩⟩
    · rw [hstream hpage, ceReport_nothing]
      rfl
    · rw [hstream hpage, ceReport_nothing]
      rfl
    · refine (congrArg CheckEngine.run hce).trans ?_
      rw [hstream hpage]
      rfl

/-- Settles O16: configurations and values act on one engine, and a frame that it sees is fed, repeated or past a gap. -/
theorem checkEnginesConfiguredAndFed : Obligations.CheckEnginesConfiguredAndFed :=
  ⟨fun _ _ _ hc => ⟨ceConfig_held hc, ceRead_answers hc, ceWrite_waits hc⟩,
    fun _ _ _ _ seq loc off bs hp hoff hsee hn hs => ceFrame_fed hp hoff hsee hn hs seq loc off bs _ rfl⟩

end Sys2Proof.Machine

/-!
PROOFS for the arbiter (R416, R428).
-/
namespace Sys2Proof.Machine

open Sys2Proof

/-! ### The shares of the pool (R416) -/

section
variable {F pool : Rat} {demands : List Rat}

/-- The part of the pool that a region gets first, when there is enough. -/
def firstShare (F : Rat) (demands : List Rat) : Rat := (demands.map (fun x => min x F)).sum

/-- The demand that the first shares leave unmet. -/
def unmetDemand (F : Rat) (demands : List Rat) : Rat := (demands.map (fun x => x - min x F)).sum

theorem shareOut_short (h : pool < firstShare F demands) :
    shareOut F pool demands = demands.map fun x => min x F * max 0 pool / firstShare F demands := by
  unfold shareOut
  dsimp only
  rw [if_pos (show pool < (demands.map fun x => min x F).sum from h), List.map_map]
  rfl

theorem shareOut_enough (h : ¬pool < firstShare F demands) : shareOut F pool demands = demands.map fun x =>
    if unmetDemand F demands = 0 then min x F
    else min (2 * F) (min x F + (pool - firstShare F demands) * (x - min x F) / unmetDemand F demands) := by
  unfold shareOut
  dsimp only
  rw [if_neg (show ¬pool < (demands.map fun x => min x F).sum from h)]
  rfl

theorem sum_map_mul_div (l : List Rat) (f : Rat → Rat) (a b : Rat) : (l.map fun x => f x * a / b).sum = (l.map f).sum * a / b := by
  rw [mul_div_assoc, ← List.sum_map_mul_right]
  simp only [mul_div_assoc]

theorem firstShare_nonneg (hF : 0 ≤ F) (hd : ∀ x ∈ demands, 0 ≤ x) : 0 ≤ firstShare F demands :=
  List.sum_nonneg fun y hy => by
    obtain ⟨x, hx, rfl⟩ := List.mem_map.mp hy
    exact le_min (hd x hx) hF

theorem unmetDemand_nonneg : 0 ≤ unmetDemand F demands :=
  List.sum_nonneg fun y hy => by
    obtain ⟨x, -, rfl⟩ := List.mem_map.mp hy
    exact sub_nonneg.mpr (min_le_left x F)

theorem shareOut_sum_le : (shareOut F pool demands).sum ≤ max 0 pool := by
  by_cases h : pool < firstShare F demands
  · rw [shareOut_short h, sum_map_mul_div]
    change firstShare F demands * max 0 pool / firstShare F demands ≤ _
    by_cases h0 : firstShare F demands = 0
    · rw [h0, div_zero]
      exact le_max_left 0 pool
    · rw [mul_div_cancel_left₀ _ h0]
  · rw [shareOut_enough h]
    refine le_trans ?_ (le_max_right 0 pool)
    by_cases h0 : unmetDemand F demands = 0
    · simp only [h0, if_true]
      exact not_lt.mp h
    · simp only [h0, if_false]
      calc (demands.map fun x => min (2 * F) (min x F + (pool - firstShare F demands) * (x - min x F) / unmetDemand F demands)).sum
          ≤ (demands.map fun x => min x F + (x - min x F) * (pool - firstShare F demands) / unmetDemand F demands).sum :=
            List.sum_le_sum fun x _ => (min_le_right _ _).trans (by rw [mul_comm (pool - firstShare F demands)])
        _ = firstShare F demands + unmetDemand F demands * (pool - firstShare F demands) / unmetDemand F demands := by
            rw [List.sum_map_add, sum_map_mul_div demands (fun x => x - min x F)]
            rfl
        _ = pool := by rw [mul_div_cancel_left₀ _ h0, add_sub_cancel]

theorem shareOut_bounds (hF : 0 ≤ F) (hd : ∀ x ∈ demands, 0 ≤ x) : ∀ b ∈ shareOut F pool demands, 0 ≤ b ∧ b ≤ 2 * F := by
  have h2 (x : Rat) : min x F ≤ 2 * F := (min_le_right x F).trans (by linarith)
  intro b hb
  by_cases h : pool < firstShare F demands
  · rw [shareOut_short h] at hb
    obtain ⟨x, hx, rfl⟩ := List.mem_map.mp hb
    have hx0 : 0 ≤ min x F := le_min (hd x hx) hF
    have ht : 0 ≤ firstShare F demands := firstShare_nonneg hF hd
    refine ⟨div_nonneg (mul_nonneg hx0 (le_max_left 0 pool)) ht, ?_⟩
    rw [mul_div_assoc]
    refine (mul_le_of_le_one_right hx0 ?_).trans (h2 x)
    exact div_le_one_of_le₀ (max_le ht h.le) ht
  · rw [shareOut_enough h] at hb
    obtain ⟨x, hx, rfl⟩ := List.mem_map.mp hb
    have hx0 : 0 ≤ min x F := le_min (hd x hx) hF
    split
    · exact ⟨hx0, h2 x⟩
    · refine ⟨le_min (by linarith) (add_nonneg hx0 ?_), min_le_left _ _⟩
      exact div_nonneg (mul_nonneg (sub_nonneg.mpr (not_lt.mp h)) (sub_nonneg.mpr (min_le_left x F))) unmetDemand_nonneg

theorem shareOut_atLeast (hF : 0 ≤ F) (henough : firstShare F demands ≤ pool) {i : Nat} {x b : Rat}
    (hx : demands[i]? = some x) (hb : (shareOut F pool demands)[i]? = some b) : min x F ≤ b := by
  have h : ¬pool < firstShare F demands := not_lt.mpr henough
  rw [shareOut_enough h, List.getElem?_map, hx] at hb
  obtain rfl := Option.some.inj hb
  split
  · exact le_rfl
  · refine le_min ((min_le_right x F).trans (by linarith)) (le_add_of_nonneg_right ?_)
    exact div_nonneg (mul_nonneg (sub_nonneg.mpr henough) (sub_nonneg.mpr (min_le_left x F))) unmetDemand_nonneg

theorem length_shareOut : (shareOut F pool demands).length = demands.length := by
  by_cases h : pool < firstShare F demands
  · rw [shareOut_short h, List.length_map]
  · rw [shareOut_enough h, List.length_map]

end

/-! ### An interval of the arbiter (R416, R428) -/

theorem exec_arbiterInterval (s : State) (inputW governedW : Rat) (acts : List Activity) (inputUj : Rat) (domUj : List (Nat × Rat))
    (shares : List EnergyShare) : exec (.arbiterInterval inputW governedW acts inputUj domUj shares) s =
      .next (s.on (arbiterOp s.variant inputW governedW acts inputUj domUj shares s.dev)) := rfl

/-- The regions take their budgets. -/
def budgeted (l : List (Nat × Rat)) (d : Dev) : Dev := l.foldl (fun d e => d.modRegion e.1 (fun r => { r with budget := e.2 })) d

theorem budgeted_frame (l : List (Nat × Rat)) (d : Dev) :
    budgeted l d = { d with pow := { d.pow with regions := (budgeted l d).pow.regions } } :=
  List.foldlRecOn (motive := fun e : Dev => e = { d with pow := { d.pow with regions := e.pow.regions } }) _ _ rfl fun e he x _ => by
    rw [he]
    rfl

theorem budgeted_region_other {l : List (Nat × Rat)} {h : Nat} (hl : ∀ e ∈ l, e.1 ≠ h) (d : Dev) : (budgeted l d).region h = d.region h := by
  refine List.foldlRecOn (motive := fun e : Dev => e.region h = d.region h) _ _ rfl fun e he x hx => ?_
  rw [Dev.region_modRegion_other _ _ (hl x hx).symm, he]

theorem budgeted_region_same {l : List (Nat × Rat)} (hl : (l.map Prod.fst).Nodup) {h : Nat} {b : Rat} (hm : (h, b) ∈ l) (d : Dev) :
    (budgeted l d).region h = { d.region h with budget := b } := by
  induction l generalizing d with
  | nil => cases hm
  | cons e l ih =>
    obtain ⟨he, hl⟩ := List.nodup_cons.mp hl
    have hstep : budgeted (e :: l) d = budgeted l (d.modRegion e.1 fun r => { r with budget := e.2 }) := rfl
    rw [hstep]
    rcases List.mem_cons.mp hm with rfl | hm
    · rw [budgeted_region_other (fun x hx hxe => he (List.mem_map.mpr ⟨x, hx, hxe⟩)), Dev.region_modRegion_same]
    · have hne : h ≠ e.1 := fun hh => he (hh ▸ List.mem_map_of_mem hm)
      rw [ih hl hm, Dev.region_modRegion_other _ _ hne]

/-- From `d` to `e` energy has been charged to ports and phases alone. -/
def Charged (d e : Dev) : Prop := e = { d with pow := { d.pow with portUj := e.pow.portUj, phaseUj := e.pow.phaseUj } }

theorem Charged.trans {d e f : Dev} (h : Charged d e) (h' : Charged e f) : Charged d f := by
  unfold Charged at *
  rw [h', h]

theorem charged_chargeSteps (uj : Rat) (s : EnergyShare) (d : Dev) : Charged d (chargeSteps uj s d) := by
  unfold chargeSteps
  split
  · rfl
  split
  · exact List.foldlRecOn (motive := Charged d) _ _ rfl fun e he x _ => he.trans rfl
  · rfl

theorem meterEnergy_frame (v : Variant) (inputUj : Rat) (domUj : List (Nat × Rat)) (shares : List EnergyShare) (d : Dev) :
    ∃ d1, Charged d d1 ∧ meterEnergy v inputUj domUj shares d = { d1 with pow := { d1.pow with inputUj := d1.pow.inputUj + inputUj } } ∧
      (shares = [] → d1 = d) := by
  refine ⟨_, ?_, rfl, fun h => by rw [h]; rfl⟩
  exact List.foldlRecOn (motive := Charged d) _ _ rfl fun e he x _ => he.trans (charged_chargeSteps x.1 x.2 e)

theorem nodup_hubsPresent (v : Variant) : (hubsPresent v).Nodup := List.Nodup.filter _ List.nodup_range

theorem arbiter_shares (s : State) (inputW governedW inputUj : Rat) (acts : List Activity) (domUj : List (Nat × Rat))
    (shares : List EnergyShare) (hg : governs s.variant s.dev 0 = true) :
    ∃ t, exec (.arbiterInterval inputW governedW acts inputUj domUj shares) s = .next t ∧ t = s.on { s.dev with pow := t.dev.pow } ∧
      (let bs := shareOut (fullW s.variant) (poolOf s.variant s.dev inputW governedW)
         ((hubsPresent s.variant).map (fun h => demandOf s.variant s.dev h acts))
       ∀ (i h : Nat) (b : Rat), (hubsPresent s.variant)[i]? = some h → bs[i]? = some b →
        t.dev.region h = { s.dev.region h with budget := b }) ∧
      t.dev.pow.input = (inputW :: s.dev.pow.input).take 10 ∧ t.dev.pow.inputUj = s.dev.pow.inputUj + inputUj ∧
      t.dev.pow.doms = s.dev.pow.doms ∧ t.dev.pow.hints = s.dev.pow.hints ∧
      (shares = [] → t.dev.pow.portUj = s.dev.pow.portUj ∧ t.dev.pow.phaseUj = s.dev.pow.phaseUj) := by
  dsimp only
  generalize hbs : shareOut (fullW s.variant) (poolOf s.variant s.dev inputW governedW)
    ((hubsPresent s.variant).map fun h => demandOf s.variant s.dev h acts) = bs
  have hop : arbiterOp s.variant inputW governedW acts inputUj domUj shares s.dev =
      (let d1 := budgeted ((hubsPresent s.variant).zip bs) s.dev
       meterEnergy s.variant inputUj domUj shares { d1 with pow := { d1.pow with input := (inputW :: d1.pow.input).take 10 } }) := by
    rw [← hbs, arbiterOp, hg]
    rfl
  have hframe := budgeted_frame ((hubsPresent s.variant).zip bs) s.dev
  have hregion (i h : Nat) (b : Rat) (hi : (hubsPresent s.variant)[i]? = some h) (hb : bs[i]? = some b) :
      (budgeted ((hubsPresent s.variant).zip bs) s.dev).region h = { s.dev.region h with budget := b } := by
    refine budgeted_region_same ?_ (List.mem_of_getElem? (i := i) (by rw [List.getElem?_zip_eq_some]; exact ⟨hi, hb⟩)) s.dev
    rw [List.map_fst_zip (by rw [← hbs, length_shareOut, List.length_map])]
    exact nodup_hubsPresent s.variant
  rw [exec_arbiterInterval, hop]
  dsimp only
  generalize budgeted ((hubsPresent s.variant).zip bs) s.dev = d1 at hframe hregion ⊢
  obtain ⟨d2, hch, hm, hnil⟩ := meterEnergy_frame s.variant inputUj domUj shares
    { d1 with pow := { d1.pow with input := (inputW :: d1.pow.input).take 10 } }
  rw [hm]
  refine ⟨_, rfl, ?_, fun i h b hi hb => ?_, ?_, ?_, ?_, ?_, fun h => ?_⟩
  · refine congrArg s.on ?_
    rw [hch, hframe]
    rfl
  · refine Eq.trans ?_ (hregion i h b hi hb)
    show tget {} d2.pow.regions h = _
    rw [hch]
    rfl
  · show d2.pow.input = _
    rw [hch, hframe]
  · show d2.pow.inputUj + inputUj = _
    rw [hch, hframe]
  · show d2.pow.doms = _
    rw [hch, hframe]
  · show d2.pow.hints = _
    rw [hch, hframe]
  · show d2.pow.portUj = _ ∧ d2.pow.phaseUj = _
    rw [hnil h, hframe]
    exact ⟨rfl, rfl⟩

/-- Settles O43: the shares by arithmetic over the demands, an interval by what it writes of the power state. -/
theorem budgetsAndInputShared : Obligations.BudgetsAndInputShared :=
  ⟨fun _ _ _ hF hd => ⟨length_shareOut, shareOut_sum_le, shareOut_bounds hF hd, fun henough _ _ _ hx hb => shareOut_atLeast hF henough hx hb⟩,
    arbiter_shares⟩

end Sys2Proof.Machine

/-!
PROOFS for the governor, for thermal control and for the operating points (R414 to R427, R432): a step acts on one domain or one region, whose
other fields stand.
-/
namespace Sys2Proof

theorem nodup_eraseDups (l : List Nat) : l.eraseDups.Nodup := by
  induction hn : l.length using Nat.strong_induction_on generalizing l with
  | _ n ih =>
    cases l with
    | nil => exact List.nodup_nil
    | cons a l =>
      rw [List.eraseDups_cons, List.nodup_cons]
      refine ⟨fun h => ?_, ih _ ?_ _ rfl⟩
      · simpa using List.mem_eraseDups.mp h
      · rw [← hn]
        exact Nat.lt_succ_of_le (List.length_filter_le ..)

end Sys2Proof

namespace Sys2Proof.Machine

open Sys2Proof

/-! ### A tick of the governor (R415, R418, R419, R421, R422) -/

theorem exec_regionGovernorTick (s : State) (hub : Nat) (dPrev : Rat) (acts : List Activity) :
    exec (.regionGovernorTick hub dPrev acts) s = .next (s.on (governorTickOp s.variant hub dPrev acts s.dev)) := rfl

/-- Grants to some domains. -/
def granted (l : List (Nat × Rat × Bool)) (d : Dev) : Dev := l.foldl (fun d e => grantDomain e.1 e.2.1 e.2.2 d) d

theorem grantDomain_dom_same (k : Nat) (g : Rat) (works : Bool) (d : Dev) :
    (grantDomain k g works d).dom k = { d.dom k with grant := g, credit := min ((d.dom k).credit + g) (2 * g) } := Dev.dom_setDom_same ..

theorem grantDomain_dom_other {k j : Nat} (h : j ≠ k) (g : Rat) (works : Bool) (d : Dev) : (grantDomain k g works d).dom j = d.dom j := by
  unfold grantDomain
  dsimp only
  rw [Dev.dom_setDom_other _ _ h]
  split <;> rfl

theorem grantDomain_frame (k : Nat) (g : Rat) (works : Bool) (d : Dev) :
    grantDomain k g works d = { d with pow := { d.pow with doms := (grantDomain k g works d).pow.doms }, ctr := (grantDomain k g works d).ctr } := by
  unfold grantDomain
  dsimp only
  split <;> rfl

theorem granted_frame (l : List (Nat × Rat × Bool)) (d : Dev) :
    granted l d = { d with pow := { d.pow with doms := (granted l d).pow.doms }, ctr := (granted l d).ctr } :=
  List.foldlRecOn (motive := fun e : Dev => e = { d with pow := { d.pow with doms := e.pow.doms }, ctr := e.ctr }) _ _ rfl fun e he x _ => by
    rw [grantDomain_frame, he]

theorem granted_dom_other {l : List (Nat × Rat × Bool)} {k : Nat} (hl : ∀ e ∈ l, e.1 ≠ k) (d : Dev) : (granted l d).dom k = d.dom k := by
  refine List.foldlRecOn (motive := fun e : Dev => e.dom k = d.dom k) _ _ rfl fun e he x hx => ?_
  rw [grantDomain_dom_other (hl x hx).symm, he]

theorem granted_dom_same {l : List (Nat × Rat × Bool)} (hl : (l.map Prod.fst).Nodup) {k : Nat} {g : Rat} {w : Bool} (hm : (k, g, w) ∈ l)
    (d : Dev) : (granted l d).dom k = { d.dom k with grant := g, credit := min ((d.dom k).credit + g) (2 * g) } := by
  induction l generalizing d with
  | nil => cases hm
  | cons e l ih =>
    obtain ⟨he, hl⟩ := List.nodup_cons.mp hl
    have hstep : granted (e :: l) d = granted l (grantDomain e.1 e.2.1 e.2.2 d) := rfl
    rw [hstep]
    rcases List.mem_cons.mp hm with rfl | hm
    · rw [granted_dom_other (fun x hx hxe => he (List.mem_map.mpr ⟨x, hx, hxe⟩)), grantDomain_dom_same]
    · have hne : k ≠ e.1 := fun hh => he (hh ▸ List.mem_map_of_mem hm)
      rw [ih hl hm, grantDomain_dom_other hne]

/-- No domain that works is out of credit, so that none is counted. -/
theorem granted_ctr {l : List (Nat × Rat × Bool)} (hl : (l.map Prod.fst).Nodup) {d : Dev}
    (hc : ∀ e ∈ l, e.2.2 = true → 0 < (d.dom e.1).credit) : (granted l d).ctr = d.ctr := by
  induction l generalizing d with
  | nil => rfl
  | cons e l ih =>
    obtain ⟨he, hl⟩ := List.nodup_cons.mp hl
    have hone : (grantDomain e.1 e.2.1 e.2.2 d).ctr = d.ctr := by
      unfold grantDomain
      dsimp only
      rw [if_neg fun h => ?_]
      · rfl
      · rw [Bool.and_eq_true, decide_eq_true_iff] at h
        exact absurd (hc e List.mem_cons_self h.1) (not_lt.mpr h.2)
    refine (ih hl fun x hx hw => ?_).trans hone
    have hne : x.1 ≠ e.1 := fun hh => he (hh ▸ List.mem_map_of_mem hx)
    rw [grantDomain_dom_other hne]
    exact hc x (List.mem_cons_of_mem _ hx) hw

/-- The domains that a tick grants to: those with work in the region, and those it governs. -/
def tickDoms (d : Dev) (hub : Nat) (mine : List Activity) : List Nat :=
  (mine.map (fun a => a.domain) ++ (d.pow.doms.map Prod.fst).filter (fun k => domGoverned k && domRegion k = hub)).eraseDups

/-- What a tick grants. -/
def tickGrants (v : Variant) (d : Dev) (hub : Nat) (dPrev : Rat) (mine : List Activity) : List (Nat × Rat × Bool) :=
  let r := d.region hub
  let total : Rat := (mine.map (fun a => demandAt d a (pointOf d r a))).sum
  (tickDoms d hub mine).map (fun k =>
    (k, grantOf (domDemand d r mine k) (min total (amaxOf v r dPrev)) total (d.dom k).halvings, mine.any (fun a => a.domain = k && a.active ≠ 0)))

theorem tickGrants_fst (v : Variant) (d : Dev) (hub : Nat) (dPrev : Rat) (mine : List Activity) :
    (tickGrants v d hub dPrev mine).map Prod.fst = tickDoms d hub mine := by
  simp [tickGrants, Function.comp_def]

theorem nodup_tickGrants (v : Variant) (d : Dev) (hub : Nat) (dPrev : Rat) (mine : List Activity) :
    ((tickGrants v d hub dPrev mine).map Prod.fst).Nodup := by
  rw [tickGrants_fst]
  exact nodup_eraseDups _

theorem mem_tickDoms {d : Dev} {hub : Nat} {mine : List Activity} {k : Nat} : k ∈ tickDoms d hub mine ↔
    (∃ a ∈ mine, a.domain = k) ∨ (∃ e ∈ d.pow.doms, e.1 = k ∧ domGoverned k = true ∧ domRegion k = hub) := by
  rw [tickDoms, List.mem_eraseDups, List.mem_append, List.mem_filter, List.mem_map, List.mem_map, Bool.and_eq_true, decide_eq_true_iff]
  constructor
  · rintro (h | ⟨⟨e, he, hk⟩, hg⟩)
    · exact .inl h
    · exact .inr ⟨e, he, hk, hg⟩
  · rintro (h | ⟨e, he, hk, hg⟩)
    · exact .inl h
    · exact .inr ⟨⟨e, he, hk⟩, hg⟩

theorem governorTickOp_eq {v : Variant} {d : Dev} {hub : Nat} (hg : governs v d hub = true) (dPrev : Rat) (acts : List Activity) :
    ∃ (r : Region) (hints : List Hint), governorTickOp v hub dPrev acts d =
        (let d1 := granted (tickGrants v d hub dPrev (actsOf v hub acts)) d
         let d2 := d1.modRegion hub fun _ => r
         { d2 with pow := { d2.pow with hints := hints } }) ∧
      r.budget = (d.region hub).budget ∧ r.dPrev = dPrev ∧ r.wakes = 0 ∧ r.admitted ≤ amaxOf v (d.region hub) dPrev ∧ 0 ≤ r.ballast := by
  have hreg : (granted (tickGrants v d hub dPrev (actsOf v hub acts)) d).region hub = d.region hub := by
    rw [granted_frame]
    rfl
  unfold governorTickOp
  rw [hg]
  refine ⟨_, _, rfl, ?_, rfl, rfl, min_le_right _ _, le_max_left _ _⟩
  show Region.budget (Dev.region (granted (tickGrants v d hub dPrev (actsOf v hub acts)) d) hub) = _
  rw [hreg]

theorem amaxOf_le (v : Variant) (r : Region) (dPrev : Rat) : amaxOf v r dPrev ≤ max 0 (min r.budget (dPrev + slopeOf v r)) := by
  unfold amaxOf
  dsimp only
  rw [min_comm r.budget]
  refine max_le_max le_rfl ?_
  split
  · exact min_le_left _ _
  · exact le_rfl

theorem governorTick_grants {s : State} {hub : Nat} (hg : governs s.variant s.dev hub = true) (dPrev : Rat) (acts : List Activity) :
    let mine := actsOf s.variant hub acts
    let r := s.dev.region hub
    ∃ t, exec (.regionGovernorTick hub dPrev acts) s = .next t ∧ t = s.on { s.dev with pow := t.dev.pow, ctr := t.dev.ctr } ∧
      (∀ h, h ≠ hub → t.dev.region h = s.dev.region h) ∧ (t.dev.region hub).budget = r.budget ∧ (t.dev.region hub).dPrev = dPrev ∧
      (t.dev.region hub).wakes = 0 ∧ (t.dev.region hub).admitted ≤ max 0 (min r.budget (dPrev + slopeOf s.variant r)) ∧
      0 ≤ (t.dev.region hub).ballast ∧
      (∀ k, ((∃ a ∈ mine, a.domain = k) ∨ (∃ e ∈ s.dev.pow.doms, e.1 = k ∧ domGoverned k = true ∧ domRegion k = hub)) →
        (t.dev.dom k).credit = min ((s.dev.dom k).credit + (t.dev.dom k).grant) (2 * (t.dev.dom k).grant) ∧
        (t.dev.dom k).op = (s.dev.dom k).op ∧ (t.dev.dom k).ceiling = (s.dev.dom k).ceiling) ∧
      (∀ k, (∀ a ∈ mine, a.domain ≠ k) → (∀ e ∈ s.dev.pow.doms, e.1 = k → ¬(domGoverned k = true ∧ domRegion k = hub)) →
        t.dev.dom k = s.dev.dom k) ∧
      ((∀ a ∈ mine, a.active ≠ 0 → 0 < (s.dev.dom a.domain).credit) → t.dev.ctr = s.dev.ctr) := by
  dsimp only
  obtain ⟨r, hints, hop, hbudget, hprev, hwakes, hadm, hballast⟩ := governorTickOp_eq hg dPrev acts
  have hl := nodup_tickGrants s.variant s.dev hub dPrev (actsOf s.variant hub acts)
  have hfst := tickGrants_fst s.variant s.dev hub dPrev (actsOf s.variant hub acts)
  have hworks : ∀ e ∈ tickGrants s.variant s.dev hub dPrev (actsOf s.variant hub acts), e.2.2 = true →
      ∃ a ∈ actsOf s.variant hub acts, a.domain = e.1 ∧ a.active ≠ 0 := by
    intro e he hw
    obtain ⟨k, -, rfl⟩ := List.mem_map.mp he
    simpa using hw
  generalize tickGrants s.variant s.dev hub dPrev (actsOf s.variant hub acts) = l at hop hl hfst hworks
  have hframe := granted_frame l s.dev
  have hsame := (granted l s.dev).region_modRegion_same hub fun _ => r
  rw [exec_regionGovernorTick, hop]
  dsimp only
  refine ⟨_, rfl, ?_, fun h hne => ?_, (congrArg Region.budget hsame).trans hbudget, (congrArg Region.dPrev hsame).trans hprev,
    (congrArg Region.wakes hsame).trans hwakes, ?_, ?_, fun k hk => ?_, fun k hk hk' => ?_, fun hcr => ?_⟩
  · refine congrArg s.on ?_
    rw [hframe]
    rfl
  · refine ((granted l s.dev).region_modRegion_other (fun _ => r) hne).trans ?_
    rw [hframe]
    rfl
  · refine le_trans (le_of_eq (congrArg Region.admitted hsame)) (hadm.trans (amaxOf_le ..))
  · exact hballast.trans (le_of_eq (congrArg Region.ballast hsame).symm)
  · rw [← mem_tickDoms, ← hfst, List.mem_map] at hk
    obtain ⟨⟨k', g, w⟩, hm, rfl⟩ := hk
    have hdom := granted_dom_same hl hm s.dev
    refine ⟨?_, (congrArg Dom.op hdom).trans rfl, (congrArg Dom.ceiling hdom).trans rfl⟩
    have hgr : ((granted l s.dev).dom k').grant = g := congrArg Dom.grant hdom
    show ((granted l s.dev).dom k').credit = min (_ + ((granted l s.dev).dom k').grant) (2 * ((granted l s.dev).dom k').grant)
    rw [hgr]
    exact (congrArg Dom.credit hdom).trans rfl
  · refine granted_dom_other (fun e he hek => ?_) s.dev
    have hmem : k ∈ tickDoms s.dev hub (actsOf s.variant hub acts) := hfst ▸ List.mem_map.mpr ⟨e, he, hek⟩
    rcases mem_tickDoms.mp hmem with ⟨a, ha, hak⟩ | ⟨x, hx, hxk, hgov⟩
    · exact hk a ha hak
    · exact hk' x hx hxk hgov
  · refine granted_ctr hl fun e he hw => ?_
    obtain ⟨a, ha, hak, hact⟩ := hworks e he hw
    exact hak ▸ hcr a ha hact

/-! ### Thermal control (R426, R427) -/

theorem Dev.postOnce_eq (d : Dev) (limit key : Nat) (code : BitVec 16) (hub : Nat) (unit : BitVec 32) (vals : List (Nat × Nat)) :
    d.postOnce limit key code hub unit vals = { d with log := (d.postOnce limit key code hub unit vals).log,
                                                       marks := (d.postOnce limit key code hub unit vals).marks } := by
  unfold Dev.postOnce
  split <;> rfl

/-- What an event that posts once in its interval adds to what has changed. -/
theorem frame_postOnce {d e : Dev} (h : e = { d with pow := e.pow, ctr := e.ctr }) (limit key : Nat) (code : BitVec 16) (hub : Nat)
    (unit : BitVec 32) (vals : List (Nat × Nat)) :
    e.postOnce limit key code hub unit vals = { d with
      pow := (e.postOnce limit key code hub unit vals).pow, ctr := (e.postOnce limit key code hub unit vals).ctr,
      log := (e.postOnce limit key code hub unit vals).log, marks := (e.postOnce limit key code hub unit vals).marks } := by
  refine (Dev.postOnce_eq ..).trans ?_
  rw [Dev.postOnce_pow, Dev.postOnce_ctr, h]

theorem exec_thermalSense (s : State) (k : Nat) (c : Rat) :
    exec (.thermalSense k c) s = .next (s.on (thermalSenseOp s.variant k c s.dev)) := rfl

theorem exec_thermThrottle (s : State) (k : Nat) : exec (.thermThrottle k) s = .next (s.on (throttleOp s.variant k s.dev)) := rfl

theorem exec_thermalCeilingRise (s : State) (k : Nat) :
    exec (.thermalCeilingRise k) s = .next (s.on (ceilingRiseOp s.variant k s.dev)) := rfl

theorem exec_thermLimit (s : State) (k : Nat) : exec (.thermLimit k) s = .next (s.on (thermLimitOp s.variant k s.dev)) := rfl

/-- From `d` to `e` no domain but `k` has changed, and nothing else of the power state. -/
def OnlyDom (d e : Dev) (k : Nat) : Prop := (∀ k', k' ≠ k → e.dom k' = d.dom k') ∧ e.pow = { d.pow with doms := e.pow.doms }

theorem onlyDom_setDom (d : Dev) (k : Nat) (x : Dom) : OnlyDom d (d.setDom k x) k := ⟨fun _ h => d.dom_setDom_other x h, rfl⟩

theorem onlyDom_moveSupply {d e : Dev} {k : Nat} (h : OnlyDom d e k) (g : Nat) : OnlyDom d (moveSupply k g e) k := by
  refine ⟨fun k' hk => (e.dom_modDom_other _ hk).trans (h.1 k' hk), ?_⟩
  show ({ e.pow with doms := _ } : Pow) = _
  rw [h.2]
  rfl

theorem moveSupply_dom (k g : Nat) (d : Dev) :
    (moveSupply k g d).dom k = { d.dom k with opNext := if (d.dom k).op = g then none else some g } := d.dom_modDom_same k _

theorem Reported.onlyDom {d e f : Dev} {k : Nat} (h : OnlyDom d e k) (hr : Reported e f) : OnlyDom d f k := by
  unfold Reported at hr
  rw [hr]
  exact h

section
variable {s : State} {k : Nat} (hsw : domSwitched s.variant k = true) (hon : mainOn s.dev = true)

include hsw hon

theorem thermalSense_reads (c : Rat) : ∃ t, exec (.thermalSense k c) s = .next t ∧ t = s.on { s.dev with pow := t.dev.pow } ∧
    OnlyDom s.dev t.dev k ∧ t.dev.dom k = { s.dev.dom k with junction := c } := by
  have hop : thermalSenseOp s.variant k c s.dev = s.dev.setDom k { s.dev.dom k with junction := c } := by
    simp only [thermalSenseOp, hsw, hon, Bool.and_self, if_true]
    rfl
  rw [exec_thermalSense, hop]
  exact ⟨_, rfl, rfl, onlyDom_setDom .., s.dev.dom_setDom_same ..⟩

theorem thermThrottle_falls (hj : thermT1 s.dev k ≤ (s.dev.dom k).junction) (hc : (s.dev.dom k).ceiling ≠ 0) :
    ∃ t, exec (.thermThrottle k) s = .next t ∧
      t = s.on { s.dev with pow := t.dev.pow, ctr := t.dev.ctr, log := t.dev.log, marks := t.dev.marks } ∧ OnlyDom s.dev t.dev k ∧
      Counted s.dev t.dev 0x4404 (domSs k) 1 ∧
      t.dev.dom k = { s.dev.dom k with ceiling := (s.dev.dom k).ceiling - 1, opNext :=
        if (s.dev.dom k).ceiling - 1 < max (s.dev.dom k).op ((s.dev.dom k).opNext.getD 0) then
          (if (s.dev.dom k).op = (s.dev.dom k).ceiling - 1 then none else some ((s.dev.dom k).ceiling - 1))
        else (s.dev.dom k).opNext } := by
  generalize hx : s.dev.dom k = x at *
  have hop : throttleOp s.variant k s.dev =
      (let d1 := (s.dev.setDom k { x with ceiling := x.ceiling - 1 }).count 0x4404 (domSs k) 1
       (if x.ceiling - 1 < max x.op (x.opNext.getD 0) then moveSupply k (x.ceiling - 1) d1 else d1).postOnce
         limThermThrottle k evThermThrottle (domRegion k) (codeOf (domTarget k)) []) := by
    simp [throttleOp, hx, hsw, hon, hj, hc]
  have hd1 : ((s.dev.setDom k { x with ceiling := x.ceiling - 1 }).count 0x4404 (domSs k) 1).dom k = { x with ceiling := x.ceiling - 1 } :=
    s.dev.dom_setDom_same k _
  have honly : OnlyDom s.dev ((s.dev.setDom k { x with ceiling := x.ceiling - 1 }).count 0x4404 (domSs k) 1) k := onlyDom_setDom ..
  have hcnt : Counted s.dev ((s.dev.setDom k { x with ceiling := x.ceiling - 1 }).count 0x4404 (domSs k) 1) 0x4404 (domSs k) 1 :=
    s.dev.counted_count 0x4404 (domSs k) 1
  have hfr : (s.dev.setDom k { x with ceiling := x.ceiling - 1 }).count 0x4404 (domSs k) 1 =
      { s.dev with pow := ((s.dev.setDom k { x with ceiling := x.ceiling - 1 }).count 0x4404 (domSs k) 1).pow,
                   ctr := ((s.dev.setDom k { x with ceiling := x.ceiling - 1 }).count 0x4404 (domSs k) 1).ctr } := rfl
  rw [exec_thermThrottle, hop]
  generalize (s.dev.setDom k { x with ceiling := x.ceiling - 1 }).count 0x4404 (domSs k) 1 = d1 at hd1 honly hcnt hfr
  dsimp only
  have hpost (e : Dev) := reported_postOnce (Reported.refl e) limThermThrottle k evThermThrottle (domRegion k) (codeOf (domTarget k)) []
  have hdom (e : Dev) : (e.postOnce limThermThrottle k evThermThrottle (domRegion k) (codeOf (domTarget k)) []).dom k = e.dom k := by
    simp [Dev.dom]
  by_cases hm : x.ceiling - 1 < max x.op (x.opNext.getD 0)
  · simp only [hm, if_true]
    refine ⟨_, rfl, ?_, (hpost _).onlyDom (onlyDom_moveSupply honly _), ?_, ?_⟩
    · refine congrArg s.on (frame_postOnce ?_ ..)
      rw [hfr]
      rfl
    · exact counted_postOnce (show Counted s.dev (moveSupply k _ d1) _ _ _ from hcnt) _ _ _ _ _ _
    · refine (hdom _).trans ?_
      rw [moveSupply_dom, hd1]
  · simp only [hm, if_false]
    refine ⟨_, rfl, ?_, (hpost _).onlyDom honly, counted_postOnce hcnt _ _ _ _ _ _, (hdom _).trans hd1⟩
    exact congrArg s.on (frame_postOnce hfr ..)

theorem thermalCeiling_rises (hj : (s.dev.dom k).junction < thermT1 s.dev k - thermHyst s.dev k) (hc : (s.dev.dom k).ceiling < 7) :
    ∃ t, exec (.thermalCeilingRise k) s = .next t ∧ t = s.on { s.dev with pow := t.dev.pow } ∧ OnlyDom s.dev t.dev k ∧
      (t.dev.dom k).ceiling = (s.dev.dom k).ceiling + 1 ∧ (t.dev.dom k).op = (s.dev.dom k).op := by
  have hop : ceilingRiseOp s.variant k s.dev =
      (let d1 := s.dev.setDom k { s.dev.dom k with ceiling := (s.dev.dom k).ceiling + 1 }
       if domGoverned k then d1 else moveSupply k (min 4 ((s.dev.dom k).ceiling + 1)) d1) := by
    simp [ceilingRiseOp, hsw, hon, hj, hc]
  have hd := s.dev.dom_setDom_same k { s.dev.dom k with ceiling := (s.dev.dom k).ceiling + 1 }
  rw [exec_thermalCeilingRise, hop]
  dsimp only
  split
  · exact ⟨_, rfl, rfl, onlyDom_setDom .., (congrArg Dom.ceiling hd).trans rfl, (congrArg Dom.op hd).trans rfl⟩
  · have hm := moveSupply_dom k (min 4 ((s.dev.dom k).ceiling + 1)) (s.dev.setDom k { s.dev.dom k with ceiling := (s.dev.dom k).ceiling + 1 })
    rw [hd] at hm
    exact ⟨_, rfl, rfl, onlyDom_moveSupply (onlyDom_setDom ..) _, (congrArg Dom.ceiling hm).trans rfl, (congrArg Dom.op hm).trans rfl⟩

theorem thermLimit_halves (hop0 : (s.dev.dom k).op = 0) (hj : (105 : Rat) ≤ (s.dev.dom k).junction) :
    ∃ t, exec (.thermLimit k) s = .next t ∧ t = s.on { s.dev with pow := t.dev.pow, log := t.dev.log } ∧ OnlyDom s.dev t.dev k ∧
      t.dev.dom k = { s.dev.dom k with halvings := if domGoverned k then min 4 ((s.dev.dom k).halvings + 1) else 1 } ∧
      (if (s.dev.dom k).halvings = 0 then Posted s.dev t.dev evThermLimit (domRegion k) (codeOf (domTarget k)) []
       else t.dev.log = s.dev.log) := by
  have hop : thermLimitOp s.variant k s.dev =
      (let d1 := s.dev.setDom k { s.dev.dom k with halvings := if domGoverned k then min 4 ((s.dev.dom k).halvings + 1) else 1 }
       if (s.dev.dom k).halvings = 0 then d1.post evThermLimit (domRegion k) (codeOf (domTarget k)) [] else d1) := by
    simp only [thermLimitOp, hsw, hon, hop0, hj, Bool.and_self, Bool.not_true, Bool.false_eq_true, if_false, and_self, if_true]
  rw [exec_thermLimit, hop]
  dsimp only
  split
  · exact ⟨_, rfl, rfl, onlyDom_setDom .., s.dev.dom_setDom_same .., rfl⟩
  · exact ⟨_, rfl, rfl, onlyDom_setDom .., s.dev.dom_setDom_same .., rfl⟩

theorem thermLimit_doubles (hj : (s.dev.dom k).junction < 105 - thermHyst s.dev k) (hj' : (s.dev.dom k).junction < 105) :
    ∃ t, exec (.thermLimit k) s = .next t ∧ t = s.on { s.dev with pow := t.dev.pow } ∧ OnlyDom s.dev t.dev k ∧
      t.dev.dom k = { s.dev.dom k with halvings := (s.dev.dom k).halvings - 1 } := by
  have hop : thermLimitOp s.variant k s.dev = s.dev.setDom k { s.dev.dom k with halvings := (s.dev.dom k).halvings - 1 } := by
    simp only [thermLimitOp, hsw, hon, not_le.mpr hj', hj, Bool.and_self, Bool.not_true, Bool.false_eq_true, if_false, and_false, if_true]
  rw [exec_thermLimit, hop]
  exact ⟨_, rfl, rfl, onlyDom_setDom .., s.dev.dom_setDom_same ..⟩

end

/-- Settles O44: a tick by the grants that it folds over its domains, thermal control by the one domain that each step writes. -/
theorem governorAndThermalControl : Obligations.GovernorAndThermalControl :=
  ⟨fun _ _ dPrev acts hg => governorTick_grants hg dPrev acts, fun _ _ hsw hon => ⟨thermalSense_reads hsw hon, thermThrottle_falls hsw hon,
    thermalCeiling_rises hsw hon, thermLimit_halves hsw hon, thermLimit_doubles hsw hon⟩⟩

end Sys2Proof.Machine

/-!
PROOFS for operating points, droops and collapses (R414, R418, R420, R424, R425).
-/
namespace Sys2Proof.Machine

open Sys2Proof

theorem exec_phasePointChoice (s : State) (hub : Nat) (acts : List Activity) (samples : List EnergySample) :
    exec (.phasePointChoice hub acts samples) s = .next (s.on (pointChoiceOp s.variant hub acts samples s.dev)) := rfl

theorem exec_supplyMoveDone (s : State) (k : Nat) : exec (.supplyMoveDone k) s = .next (s.on (supplyMoveOp k s.dev)) := rfl

theorem exec_pwrDroop (s : State) (k mv : Nat) : exec (.pwrDroop k mv) s = .next (s.on (droopOp s.variant k mv s.dev)) := rfl

theorem exec_droopHoldExpiry (s : State) (hub : Nat) : exec (.droopHoldExpiry hub) s = .next (s.on (droopEndOp s.variant hub s.dev)) := rfl

theorem exec_supplyCollapseStop (s : State) (k mv : Nat) :
    exec (.supplyCollapseStop k mv) s = .next (s.on (collapseOp s.variant k mv s.dev)) := rfl

theorem exec_supplyRecover (s : State) (k mv : Nat) : exec (.supplyRecover k mv) s = .next (s.on (recoverOp k mv s.dev)) := rfl

/-! ### The choice of a point (R418, R420) -/

/-- A change of the supplies keeps every domain's point, and touches none but those of `l`. -/
structure SuppliesMoved (d e : Dev) (l : List Nat) : Prop where
  frame : e = { d with pow := { d.pow with doms := e.pow.doms } }
  other : ∀ k, k ∉ l → e.dom k = d.dom k
  op : ∀ k, (e.dom k).op = (d.dom k).op

theorem suppliesMoved_foldl (d : Dev) (l : List Nat) (g : Dev → Nat → Nat) :
    SuppliesMoved d (l.foldl (fun d k => moveSupply k (g d k) d) d) l := by
  refine List.foldlRecOn (motive := fun e => SuppliesMoved d e l) _ _ ⟨rfl, fun _ _ => rfl, fun _ => rfl⟩ fun e he k hk => ⟨?_, fun j hj => ?_, fun j => ?_⟩
  · rw [moveSupply, Dev.modDom, Dev.setDom, he.frame]
  · have hne : j ≠ k := fun h => hj (h ▸ hk)
    exact (e.dom_modDom_other _ hne).trans (he.other j hj)
  · by_cases hjk : j = k
    · rw [hjk, moveSupply_dom]
      exact he.op k
    · exact (congrArg Dom.op (e.dom_modDom_other _ hjk)).trans (he.op j)

/-- From `d` to `e` the learned energies of a region alone have changed. -/
structure Learned (hub : Nat) (d e : Dev) : Prop where
  frame : e = { d with pow := { d.pow with regions := e.pow.regions } }
  region : e.region hub = { d.region hub with learnedM := (e.region hub).learnedM, learnedL := (e.region hub).learnedL }

theorem learned_foldl (v : Variant) (hub : Nat) (samples : List EnergySample) (d : Dev) :
    Learned hub d (samples.foldl (fun d s => learn v hub s d) d) := by
  refine List.foldlRecOn (motive := Learned hub d) _ _ ⟨rfl, rfl⟩ fun e he s _ => ?_
  unfold learn
  split
  · exact he
  · refine ⟨?_, ?_⟩
    · rw [he.frame]
      rfl
    · rw [Dev.region_modRegion_same]
      dsimp only
      split
      · rw [he.region]
      · rw [he.region]

/-- The points that a choice gives the phases. -/
def newPoints (d : Dev) (mine : List Activity) (amax : Rat) (goal old : Tab Nat) (phases : List Nat) : Tab Nat :=
  phases.foldl (fun t p => tset t p (nextPoint d mine amax goal old p)) []

theorem tfind_tsets {f : Nat → Nat} {l : List Nat} {p : Nat} (hp : p ∈ l) (t : Tab Nat) :
    tfind (l.foldl (fun t p => tset t p (f p)) t) p = some (f p) := by
  induction l using List.reverseRecOn with
  | nil => cases hp
  | append_singleton l q ih =>
    rw [List.foldl_append, List.foldl_cons, List.foldl_nil]
    by_cases h : p = q
    · rw [h, tfind_tset_same]
    · rw [tfind_tset_other _ _ h]
      exact ih (by simpa [h] using hp)

theorem tfind_filter_mem {t : Tab Nat} {l : List Nat} {p : Nat} (hp : p ∈ l) : tfind (t.filter fun e => l.contains e.1) p = tfind t p := by
  have h := tfind_filter (fun k => !l.contains k) t p
  simp only [tdrop, Bool.not_not] at h
  rw [h, if_neg (by simp [hp])]

theorem nextPoint_near {d : Dev} {acts : List Activity} {amax : Rat} {goal old : Tab Nat} {p c : Nat} (h : tfind old p = some c) :
    c ≤ nextPoint d acts amax goal old p + 1 ∧ nextPoint d acts amax goal old p ≤ c + 1 := by
  unfold nextPoint
  rw [h]
  dsimp only
  split
  · omega
  split
  · omega
  · omega

theorem pointChoiceOp_eq {v : Variant} {d : Dev} {hub : Nat} (hg : governs v d hub = true) (acts : List Activity) (samples : List EnergySample) :
    ∃ (d1 : Dev) (amax : Rat) (goal : Tab Nat) (lowered : Nat) (g : Dev → Nat → Nat),
      (let mine := actsOf v hub acts
       let phases := (mine.map (fun a => a.phase)).eraseDups
       let old := (d1.region hub).points.filter (fun e => phases.contains e.1)
       let d2 := d1.modRegion hub (fun x => { x with points := newPoints d1 mine amax goal old phases })
       pointChoiceOp v hub acts samples d =
        ((mine.map (fun a => a.domain)).eraseDups).foldl (fun d k => moveSupply k (g d k) d)
          (if lowered = 0 then d2 else d2.count 0x4400 (ssHub hub) lowered)) ∧
      Learned hub (d.modRegion hub fun r => { r with set := some (govSetNow d) }) d1 ∧ (actsOf v hub acts = [] → lowered = 0) := by
  unfold pointChoiceOp
  rw [hg]
  refine ⟨_, _, _, _, _, rfl, learned_foldl v hub samples _, fun h => ?_⟩
  rw [h]
  rfl

theorem pointChoice_moves {s : State} {hub : Nat} (hg : governs s.variant s.dev hub = true) (acts : List Activity) (samples : List EnergySample) :
    ∃ t, exec (.phasePointChoice hub acts samples) s = .next t ∧ t = s.on { s.dev with pow := t.dev.pow, ctr := t.dev.ctr } ∧
      (t.dev.region hub).set = some (govSetNow s.dev) ∧
      (∀ p c : Nat, (∃ a ∈ actsOf s.variant hub acts, a.phase = p) → tfind (s.dev.region hub).points p = some c →
        ∃ g, tfind (t.dev.region hub).points p = some g ∧ c ≤ g + 1 ∧ g ≤ c + 1) ∧
      (∀ k, (∀ a ∈ actsOf s.variant hub acts, a.domain ≠ k) → t.dev.dom k = s.dev.dom k) ∧
      (∀ k, (t.dev.dom k).op = (s.dev.dom k).op) ∧ (actsOf s.variant hub acts = [] → t.dev.ctr = s.dev.ctr) := by
  obtain ⟨d1, amax, goal, lowered, g, hop, hlearn, hlow⟩ := pointChoiceOp_eq hg acts samples
  dsimp only at hop
  generalize hmine : actsOf s.variant hub acts = mine at hop hlow ⊢
  generalize hph : (mine.map fun a => a.phase).eraseDups = phases at hop
  generalize hold : (d1.region hub).points.filter (fun e => phases.contains e.1) = old at hop
  have hreg0 : d1.region hub = { s.dev.region hub with
      set := some (govSetNow s.dev), learnedM := (d1.region hub).learnedM, learnedL := (d1.region hub).learnedL } := by
    rw [hlearn.region, Dev.region_modRegion_same]
  have hd1 : d1 = { s.dev with pow := { s.dev.pow with regions := d1.pow.regions } } := hlearn.frame
  have hreg2 := d1.region_modRegion_same hub fun x => { x with points := newPoints d1 mine amax goal old phases }
  generalize hd3 : (if lowered = 0 then d1.modRegion hub fun x => { x with points := newPoints d1 mine amax goal old phases } else
    (d1.modRegion hub fun x => { x with points := newPoints d1 mine amax goal old phases }).count 0x4400 (ssHub hub) lowered) = d3 at hop
  have hd3f : d3 = { s.dev with pow := { s.dev.pow with regions := d3.pow.regions }, ctr := d3.ctr } := by
    rw [← hd3, hd1]
    split <;> rfl
  have hreg3 : d3.region hub = { d1.region hub with points := newPoints d1 mine amax goal old phases } := by
    rw [← hreg2, ← hd3]
    split <;> rfl
  have hmv := suppliesMoved_foldl d3 (mine.map fun a => a.domain).eraseDups g
  rw [exec_phasePointChoice, hop]
  generalize List.foldl _ d3 _ = e at hmv
  have hregE : e.region hub = { d1.region hub with points := newPoints d1 mine amax goal old phases } := by
    rw [← hreg3, hmv.frame]
    rfl
  have hdom (k : Nat) : d3.dom k = s.dev.dom k := by
    rw [hd3f]
    rfl
  refine ⟨_, rfl, ?_, ?_, fun p c hp hc => ?_, fun k hk => ?_, fun k => ?_, fun h => ?_⟩
  · refine congrArg s.on ?_
    show e = { s.dev with pow := e.pow, ctr := e.ctr }
    rw [hmv.frame, hd3f]
  · refine (congrArg Region.set hregE).trans ?_
    show (d1.region hub).set = _
    rw [hreg0]
  · have hmem : p ∈ phases := by
      rw [← hph, List.mem_eraseDups]
      obtain ⟨a, ha, rfl⟩ := hp
      exact List.mem_map_of_mem ha
    have hpts : tfind (e.region hub).points p = some (nextPoint d1 mine amax goal old p) := by
      rw [hregE]
      exact tfind_tsets hmem []
    have hc' : tfind old p = some c := by
      rw [← hold, tfind_filter_mem hmem, hreg0]
      exact hc
    exact ⟨_, hpts, nextPoint_near hc'⟩
  · refine (hmv.other k fun h => ?_).trans (hdom k)
    obtain ⟨a, ha, hak⟩ := List.mem_map.mp (List.mem_eraseDups.mp h)
    exact hk a ha hak
  · exact (hmv.op k).trans (congrArg Dom.op (hdom k))
  · show e.ctr = _
    rw [hmv.frame, ← hd3, if_pos (hlow h), hd1]
    rfl

/-! ### Moves, droops and collapses (R414, R424, R425) -/

theorem supplyMove_done {s : State} {k g : Nat} (hn : (s.dev.dom k).opNext = some g) : ∃ t, exec (.supplyMoveDone k) s = .next t ∧
    t = s.on { s.dev with pow := { s.dev.pow with doms := t.dev.pow.doms } } ∧
    t.dev.dom k = { s.dev.dom k with op := underCeiling (s.dev.dom k) g, opNext := none } ∧ ∀ k', k' ≠ k → t.dev.dom k' = s.dev.dom k' := by
  have hop : supplyMoveOp k s.dev = s.dev.modDom k fun x => { x with op := underCeiling x g, opNext := none } := by simp only [supplyMoveOp, hn]
  rw [exec_supplyMoveDone, hop]
  exact ⟨_, rfl, rfl, s.dev.dom_modDom_same .., fun _ h => s.dev.dom_modDom_other _ h⟩

theorem domPowered_iff {d : Dev} {k : Nat} : domPowered d k = true ↔ domState d k = .run ∨ domState d k = .hold := by
  simp [domPowered]

theorem droop_holds {s : State} {k mv : Nat} (hd : hasDetector s.variant k = true) (hst : domState s.dev k = .run ∨ domState s.dev k = .hold)
    (hmv : mv + (govSet s.dev (domRegion k)).margin < pointMv (s.dev.dom k).op) :
    ∃ t, exec (.pwrDroop k mv) s = .next t ∧
      t = s.on { s.dev with pow := t.dev.pow, ctr := t.dev.ctr, log := t.dev.log, marks := t.dev.marks } ∧
      t.dev.region (domRegion k) = { s.dev.region (domRegion k) with droop := true } ∧ Counted s.dev t.dev 0x4402 (domSs k) 1 ∧
      t.dev.pow.doms = s.dev.pow.doms := by
  have hop : droopOp s.variant k mv s.dev = ((s.dev.modRegion (domRegion k) fun r => { r with droop := true }).count 0x4402 (domSs k) 1).postOnce
      limPwrDroop (domRegion k) evPwrDroop (domRegion k) (codeOf (domTarget k)) [] := by
    simp [droopOp, hd, domPowered_iff.mpr hst, hmv]
  rw [exec_pwrDroop, hop]
  refine ⟨_, rfl, congrArg s.on (frame_postOnce rfl ..), ?_, ?_, ?_⟩
  · refine Eq.trans ?_ (s.dev.region_modRegion_same (domRegion k) fun r => { r with droop := true })
    exact congrArg (fun p : Pow => tget {} p.regions (domRegion k)) (Dev.postOnce_pow ..)
  · refine counted_postOnce ?_ _ _ _ _ _ _
    exact s.dev.counted_count 0x4402 (domSs k) 1
  · show (Dev.pow (Dev.postOnce ..)).doms = _
    rw [Dev.postOnce_pow]
    rfl

theorem droopHold_ends {s : State} {hub : Nat} (hg : governs s.variant s.dev hub = true) : ∃ t, exec (.droopHoldExpiry hub) s = .next t ∧
    t = s.on { s.dev with pow := { s.dev.pow with regions := t.dev.pow.regions } } ∧
    t.dev.region hub = { s.dev.region hub with droop := false } := by
  have hop : droopEndOp s.variant hub s.dev = s.dev.modRegion hub fun r => { r with droop := false } := by simp only [droopEndOp, hg, if_true]
  rw [exec_droopHoldExpiry, hop]
  exact ⟨_, rfl, rfl, s.dev.region_modRegion_same ..⟩

theorem collapse_stops {s : State} {k mv : Nat} (hsw : domSwitched s.variant k = true)
    (hst : domState s.dev k = .run ∨ domState s.dev k = .hold) (hc : (s.dev.dom k).collapsed = false) (hmv : mv < 500) :
    ∃ t, exec (.supplyCollapseStop k mv) s = .next t ∧
      t = s.on { s.dev with pow := { s.dev.pow with doms := t.dev.pow.doms }, ctr := t.dev.ctr } ∧
      t.dev.dom k = { s.dev.dom k with collapsed := true } ∧ domRuns t.dev k = false ∧ Counted s.dev t.dev 0x4402 (domSs k) 1 ∧
      ∀ k', k' ≠ k → t.dev.dom k' = s.dev.dom k' := by
  have hop : collapseOp s.variant k mv s.dev = (s.dev.modDom k fun x => { x with collapsed := true }).count 0x4402 (domSs k) 1 := by
    simp [collapseOp, hsw, domPowered_iff.mpr hst, hc, hmv]
  have hdom : ((s.dev.modDom k fun x => { x with collapsed := true }).count 0x4402 (domSs k) 1).dom k = { s.dev.dom k with collapsed := true } :=
    s.dev.dom_modDom_same k fun x => { x with collapsed := true }
  rw [exec_supplyCollapseStop, hop]
  refine ⟨_, rfl, rfl, hdom, ?_, s.dev.counted_count 0x4402 (domSs k) 1,
    fun _ h => s.dev.dom_modDom_other (fun x => { x with collapsed := true }) h⟩
  show domRuns ((s.dev.modDom k fun x => { x with collapsed := true }).count 0x4402 (domSs k) 1) k = false
  rw [domRuns, hdom]
  exact Bool.and_false _

theorem supply_recovers {s : State} {k mv : Nat} (hc : (s.dev.dom k).collapsed = true) (hmv : 520 < mv) :
    ∃ t, exec (.supplyRecover k mv) s = .next t ∧ t = s.on { s.dev with pow := { s.dev.pow with doms := t.dev.pow.doms } } ∧
      t.dev.dom k = { s.dev.dom k with collapsed := false } ∧ ∀ k', k' ≠ k → t.dev.dom k' = s.dev.dom k' := by
  have hop : recoverOp k mv s.dev = s.dev.modDom k fun x => { x with collapsed := false } := by simp [recoverOp, hc, hmv]
  rw [exec_supplyRecover, hop]
  exact ⟨_, rfl, rfl, s.dev.dom_modDom_same .., fun _ h => s.dev.dom_modDom_other _ h⟩

/-- Settles O45: a choice moves each point by one, and the other steps write one domain or one region. -/
theorem pointsMoveAndDroopsHold : Obligations.PointsMoveAndDroopsHold :=
  ⟨⟨fun _ _ acts samples hg => pointChoice_moves hg acts samples, fun _ _ _ => supplyMove_done⟩,
    fun _ _ _ => droop_holds, fun _ _ => droopHold_ends, fun _ _ _ => collapse_stops, fun _ _ _ => supply_recovers⟩

end Sys2Proof.Machine

/-!
PROOFS for power requests, transitions and wakes (R429 to R433, R34, R442). A request or a transition acts on one domain; what it does besides to the
unit of that domain leaves the power state alone.
-/
namespace Sys2Proof.Machine

open Sys2Proof

theorem exec_powerRequest (s : State) (r : OdReq) : exec (.powerRequest r) s = .next (s.on (powerRequestOp s.variant r s.dev)) := rfl

theorem exec_domainDrainDone (s : State) (k : Nat) : exec (.domainDrainDone k) s = .next (s.on (drainDoneOp s.variant k s.dev)) := rfl

theorem exec_powerTransitionDone (s : State) (k : Nat) :
    exec (.powerTransitionDone k) s = .next (s.on (transitionDoneOp s.variant k s.dev)) := rfl

theorem exec_wedgeWakeRestore (s : State) (w : Nat) (host : List (Nat × HostRead)) (verify : List VerifyErr) :
    exec (.wedgeWakeRestore w host verify) s = .next (s.on (wakeRestoreOp s.variant w host verify s.dev)) := rfl

theorem exec_wakeOnDemand (s : State) (k issuer : Nat) :
    exec (.wakeOnDemand k issuer) s = .next (s.on (wakeOnDemandOp s.variant k issuer s.dev)) := rfl

/-! ### Requests with a step of their own (R385, R390) -/

theorem ownRequest_of_taken {v : Variant} {r : OdReq} {idx : Nat} {d : Dev} (h : ReqTaken v d r idx) (eff : Dev → BitVec 8 × Dev) :
    ownRequest v r idx eff d = reqDone r (eff d).1 (eff d).2 := by
  obtain ⟨hready, hearly, hshort, hchecks⟩ := h
  simp [ownRequest, hready, hearly, hshort, hchecks]

/-- The host command of a request that is done has ended, or nothing has. -/
theorem reqEnded_reqDone {d e : Dev} (h : SameFlight d e) (r : OdReq) {st : BitVec 8} (hs : st ≠ stHostAccess) :
    ReqEnded d (reqDone r st e) r st := by
  unfold ReqEnded reqDone
  cases r.cmd with
  | none => exact h
  | some id =>
    intro c hc
    have hce : e.cmdOf id = some c := (h.cmdOf id).trans hc
    dsimp only
    by_cases hst : st = stSuccess
    · rw [if_pos hst, hst, Dev.succeeds_eq hce]
      exact ⟨congrArg (List.filter _) h.1, congrArg (· ++ _) h.2⟩
    · rw [if_neg hst, Dev.fails_eq hce hs]
      exact ⟨congrArg (List.filter _) h.1, congrArg (· ++ _) h.2⟩

theorem reqDone_frame (r : OdReq) {st : BitVec 8} (hs : st ≠ stHostAccess) (e : Dev) :
    reqDone r st e = { e with cmds := (reqDone r st e).cmds, comps := (reqDone r st e).comps } := by
  have hfinish (id : Nat) (st : BitVec 8) (hs : st ≠ stHostAccess) (det : BitVec 8) (res : BitVec 64) :
      e.finish id st det false res = { e with cmds := (e.finish id st det false res).cmds, comps := (e.finish id st det false res).comps } := by
    unfold Dev.finish
    split
    · rfl
    · dsimp only
      rw [if_neg hs]
  unfold reqDone
  split
  · split
    · exact hfinish _ _ (by decide) _ _
    · exact hfinish _ _ hs _ _
  · rfl

theorem requestStatus_ne (v : Variant) (d : Dev) (src : Source) (t : Target) (st : PState) : requestStatus v d src t st ≠ stHostAccess := by
  unfold requestStatus
  extract_lets isHub
  split
  · decide
  split
  · decide
  split <;> decide

/-! ### One domain's move (R429, R432, R433) -/

theorem leaveRun_frame (k : Nat) (d : Dev) : leaveRun k d = { d with links := (leaveRun k d).links } := by
  unfold leaveRun
  split
  · refine List.foldlRecOn (motive := fun e : Dev => e = { d with links := e.links }) _ _ rfl fun e he l _ => ?_
    rw [linkLost, Dev.modLink, Dev.setLink, he]
  · rfl

/-- The domain that begins to move. -/
def Dom.movingTo (x : Dom) (st : PState) : Dom := { x with moving := some st, drained := !(st == .retain || st == .off), latest := none }

theorem beginMove_frame (k : Nat) (st : PState) (d : Dev) :
    beginMove k st d = { d with pow := { (d.setDom k ((d.dom k).movingTo st)).pow with regions := (beginMove k st d).pow.regions },
                                links := (beginMove k st d).links } := by
  unfold beginMove
  dsimp only
  have hd2 : ∃ l, (if (st == .off) = true then leaveRun k (d.setDom k ((d.dom k).movingTo st)) else d.setDom k ((d.dom k).movingTo st)) =
      { d.setDom k ((d.dom k).movingTo st) with links := l } := by
    split
    · exact ⟨_, leaveRun_frame ..⟩
    · exact ⟨_, rfl⟩
  obtain ⟨l, hl⟩ := hd2
  simp only [Dom.movingTo] at hl
  rw [hl]
  split <;> rfl

theorem beginMove_dom_same (k : Nat) (st : PState) (d : Dev) : (beginMove k st d).dom k = (d.dom k).movingTo st := by
  rw [beginMove_frame]
  exact d.dom_setDom_same k _

theorem beginMove_dom_other {k j : Nat} (h : j ≠ k) (st : PState) (d : Dev) : (beginMove k st d).dom j = d.dom j := by
  rw [beginMove_frame]
  exact d.dom_setDom_other _ h

theorem beginMove_wakes {k : Nat} {st : PState} {d : Dev} (hw : isWake (d.dom k).st st = true) :
    ((beginMove k st d).region (domRegion k)).wakes = (d.region (domRegion k)).wakes + 1 := by
  unfold beginMove
  dsimp only
  rw [if_pos hw, Dev.region_modRegion_same]
  dsimp only
  split
  · rw [leaveRun_frame]
    rfl
  · rfl

/-- What a request makes of its domain. -/
def Dom.requested (x : Dom) (st : PState) (full : Bool) : Dom :=
  if x.moving.isSome then { x with latest := some st } else if x.st = st then { x with latest := none }
  else if isWake x.st st && full then { x with latest := some st }
  else { x with moving := some st, drained := !(st == .retain || st == .off), latest := none }

theorem requestDom_dom_same (st : PState) (k : Nat) (d : Dev) : (requestDom st k d).dom k = (d.dom k).requested st (wakeFull d k) := by
  unfold requestDom Dom.requested
  dsimp only
  split
  · exact d.dom_setDom_same k _
  split
  · split
    · exact d.dom_setDom_same k _
    · next h =>
      rw [Option.not_isSome_iff_eq_none] at h
      rw [← h]
  split
  · exact d.dom_setDom_same k _
  · exact beginMove_dom_same k st d

theorem requestDom_dom_other {k j : Nat} (h : j ≠ k) (st : PState) (d : Dev) : (requestDom st k d).dom j = d.dom j := by
  unfold requestDom
  dsimp only
  split
  · exact d.dom_setDom_other _ h
  split
  · split
    · exact d.dom_setDom_other _ h
    · rfl
  split
  · exact d.dom_setDom_other _ h
  · exact beginMove_dom_other h st d

theorem requestDom_frame (st : PState) (k : Nat) (d : Dev) :
    requestDom st k d = { d with pow := (requestDom st k d).pow, links := (requestDom st k d).links } := by
  unfold requestDom
  dsimp only
  split
  · rfl
  split
  · split <;> rfl
  split
  · rfl
  · rw [beginMove_frame]

theorem sameFlight_requestDom (st : PState) (k : Nat) (d : Dev) : SameFlight d (requestDom st k d) := by
  rw [requestDom_frame]
  exact SameFlight.refl d

/-! ### Power requests (R429 to R431) -/

theorem powerRequest_refused {s : State} {r : OdReq} {u : Target} (ht : ReqTaken s.variant s.dev r 0x4010)
    (hu : targetOf (bitsOf (leNat r.value) 31 0) = some u)
    (hst : requestStatus s.variant s.dev r.src u (pstateOf (bitsOf (leNat r.value) 33 32)) ≠ stSuccess) :
    ∃ t, exec (.powerRequest r) s = .next t ∧ t = s.on { s.dev with cmds := t.dev.cmds, comps := t.dev.comps } ∧
      ReqEnded s.dev t.dev r (requestStatus s.variant s.dev r.src u (pstateOf (bitsOf (leNat r.value) 33 32))) := by
  have heff : powerEffect s.variant r.src r.value s.dev =
      (requestStatus s.variant s.dev r.src u (pstateOf (bitsOf (leNat r.value) 33 32)), s.dev) := by
    simp [powerEffect, hu, hst]
  rw [exec_powerRequest, powerRequestOp, ownRequest_of_taken ht, heff]
  have hne := requestStatus_ne s.variant s.dev r.src u (pstateOf (bitsOf (leNat r.value) 33 32))
  exact ⟨_, rfl, congrArg s.on (reqDone_frame r hne s.dev), reqEnded_reqDone (SameFlight.refl s.dev) r hne⟩

theorem powerRequest_taken {s : State} {r : OdReq} {u : Target} (ht : ReqTaken s.variant s.dev r 0x4010)
    (hu : targetOf (bitsOf (leNat r.value) 31 0) = some u)
    (hst : requestStatus s.variant s.dev r.src u (pstateOf (bitsOf (leNat r.value) 33 32)) = stSuccess)
    (hhub : ∀ h, u ≠ .hub h) (hfacet : ∀ f, u ≠ .facet f) :
    ∃ t, exec (.powerRequest r) s = .next t ∧
      t = s.on { s.dev with pow := t.dev.pow, links := t.dev.links, cmds := t.dev.cmds, comps := t.dev.comps } ∧
      ReqEnded s.dev t.dev r stSuccess ∧ (∀ k', k' ≠ domOf u → t.dev.dom k' = s.dev.dom k') ∧
      t.dev.dom (domOf u) =
        (s.dev.dom (domOf u)).requested (pstateOf (bitsOf (leNat r.value) 33 32)) (wakeFull s.dev (domOf u)) := by
  have hdoms (st : PState) : requestDoms s.variant u st = [domOf u] := by
    cases u with
    | hub h => exact absurd rfl (hhub h)
    | facet f => exact absurd rfl (hfacet f)
    | _ => rfl
  have heff : powerEffect s.variant r.src r.value s.dev =
      (stSuccess, requestDom (pstateOf (bitsOf (leNat r.value) 33 32)) (domOf u) s.dev) := by
    simp [powerEffect, hu, hst, hdoms]
  generalize pstateOf (bitsOf (leNat r.value) 33 32) = st at heff ⊢
  have hfr := reqDone_frame r (st := stSuccess) (by decide) (requestDom st (domOf u) s.dev)
  have hdom (k : Nat) : (reqDone r stSuccess (requestDom st (domOf u) s.dev)).dom k = (requestDom st (domOf u) s.dev).dom k := by
    rw [hfr]
    rfl
  rw [exec_powerRequest, powerRequestOp, ownRequest_of_taken ht, heff]
  refine ⟨_, rfl, congrArg s.on ?_, reqEnded_reqDone (sameFlight_requestDom ..) r (st := stSuccess) (by decide),
    fun k hk => (hdom k).trans (requestDom_dom_other hk ..), (hdom _).trans (requestDom_dom_same ..)⟩
  dsimp only
  generalize reqDone r stSuccess (requestDom st (domOf u) s.dev) = f at hfr ⊢
  rw [hfr, requestDom_frame]
  rfl

/-! ### Drains and transitions (R297, R429, R432) -/

theorem writeBackSlice_frame (slice : Nat) (d : Dev) :
    writeBackSlice slice d = { d with mem := (writeBackSlice slice d).mem, ctr := (writeBackSlice slice d).ctr } :=
  List.foldlRecOn (motive := fun e : Dev => e = { d with mem := e.mem, ctr := e.ctr }) _ _ rfl fun e he x _ => by
    rw [Dev.count, he]

theorem drain_done {s : State} {k : Nat} (hm : (s.dev.dom k).moving.isSome = true) (hd : (s.dev.dom k).drained = false)
    (hdr : domDrained s.variant s.dev k = true) :
    ∃ t, exec (.domainDrainDone k) s = .next t ∧
      t = s.on { s.dev with pow := t.dev.pow, mem := t.dev.mem, ctr := t.dev.ctr } ∧ t.dev.dom k = { s.dev.dom k with drained := true } ∧
      ((∀ h i, domTarget k ≠ .slice h i) → t.dev.mem = s.dev.mem ∧ t.dev.ctr = s.dev.ctr) := by
  have hop : drainDoneOp s.variant k s.dev = (match domTarget k with
      | .slice h i => writeBackSlice (4 * h + i) (s.dev.setDom k { s.dev.dom k with drained := true })
      | _ => s.dev.setDom k { s.dev.dom k with drained := true }) := by
    unfold drainDoneOp
    dsimp only
    rw [hm, hd, hdr]
    rfl
  have hdom := s.dev.dom_setDom_same k { s.dev.dom k with drained := true }
  rw [exec_domainDrainDone, hop]
  split
  · next h i hs =>
    refine ⟨_, rfl, congrArg s.on ?_, ?_, fun hn => absurd hs (hn h i)⟩
    · have hfr := writeBackSlice_frame (4 * h + i) (s.dev.setDom k { s.dev.dom k with drained := true })
      generalize writeBackSlice (4 * h + i) (s.dev.setDom k { s.dev.dom k with drained := true }) = f at hfr ⊢
      rw [hfr]
      rfl
    · refine Eq.trans ?_ hdom
      show (writeBackSlice ..).dom k = _
      rw [writeBackSlice_frame]
      rfl
  · exact ⟨_, rfl, rfl, hdom, fun _ => ⟨rfl, rfl⟩⟩

section
variable {s : State} {k : Nat} {st : PState} (hm : (s.dev.dom k).moving = some st) (hd : (s.dev.dom k).drained = true)

/-- The request behind a move that has ended applies. -/
def afterMove (latest : Option PState) (k : Nat) (d : Dev) : Dev :=
  match latest with
  | some st => requestDom st k (d.modDom k (fun y => { y with latest := none }))
  | none => d

include hm hd

theorem transitionDoneOp_eq (hf : facetOrder s.dev k st = true) (hst : st = .hold ∨ st = .run) :
    transitionDoneOp s.variant k s.dev =
      nextWake (domRegion k) (afterMove (s.dev.dom k).latest k (reachState s.variant k st s.dev)) := by
  have hoff : (st == .off) = false := by rcases hst with rfl | rfl <;> rfl
  unfold transitionDoneOp
  dsimp only
  rw [hm]
  dsimp only
  rw [hd, hf, hoff]
  rfl

omit hm hd in
theorem reachState_powered (hst : st = .hold ∨ st = .run) (hold : (s.dev.dom k).st ≠ .off) :
    reachState s.variant k st s.dev = s.dev.setDom k { s.dev.dom k with st := st, moving := none } := by
  have hb : ((s.dev.dom k).st == .off) = false := by simpa using hold
  unfold reachState
  dsimp only
  rw [hb]
  rcases hst with rfl | rfl <;> rfl

theorem transition_ends (hf : facetOrder s.dev k st = true) (hst : st = .hold ∨ st = .run) (hold : (s.dev.dom k).st ≠ .off)
    (hl : (s.dev.dom k).latest = none) : ∃ e, exec (.powerTransitionDone k) s = .next (s.on (nextWake (domRegion k) e)) ∧
      e = { s.dev with pow := { s.dev.pow with doms := e.pow.doms } } ∧
      e.dom k = { s.dev.dom k with st := st, moving := none } ∧ ∀ k', k' ≠ k → e.dom k' = s.dev.dom k' := by
  rw [exec_powerTransitionDone, transitionDoneOp_eq hm hd hf hst, hl, reachState_powered hst hold]
  exact ⟨_, rfl, rfl, s.dev.dom_setDom_same k _, fun _ h => s.dev.dom_setDom_other _ h⟩

theorem transition_goesOn (hf : facetOrder s.dev k st = true) (hst : st = .hold ∨ st = .run) (hold : (s.dev.dom k).st ≠ .off)
    {n : PState} (hl : (s.dev.dom k).latest = some n) (hne : n ≠ st) :
    ∃ e, exec (.powerTransitionDone k) s = .next (s.on (nextWake (domRegion k) e)) ∧
      (e.dom k).st = st ∧ (e.dom k).moving = some n ∧ (e.dom k).latest = none ∧ ∀ k', k' ≠ k → e.dom k' = s.dev.dom k' := by
  have hreq (x : Dom) (full : Bool) (h1 : x.moving = none) (h2 : x.st = st) : x.requested n full = x.movingTo n := by
    have hwake : isWake x.st n = false := by
      rw [h2]
      rcases hst with rfl | rfl <;> rfl
    unfold Dom.requested
    rw [h1, hwake, if_neg (by simp), if_neg (by rw [h2]; exact hne.symm), if_neg (by simp)]
    rfl
  rw [exec_powerTransitionDone, transitionDoneOp_eq hm hd hf hst, hl, reachState_powered hst hold]
  have hdom : ((s.dev.setDom k { s.dev.dom k with st := st, moving := none }).modDom k fun y => { y with latest := none }).dom k =
      { s.dev.dom k with st := st, moving := none, latest := none } := by
    rw [Dev.dom_modDom_same, Dev.dom_setDom_same]
  have hsame := requestDom_dom_same n k ((s.dev.setDom k { s.dev.dom k with st := st, moving := none }).modDom k fun y => { y with latest := none })
  rw [hdom, hreq _ _ rfl rfl] at hsame
  refine ⟨_, rfl, congrArg Dom.st hsame, congrArg Dom.moving hsame, congrArg Dom.latest hsame, fun j hj => ?_⟩
  exact (requestDom_dom_other hj ..).trans ((Dev.dom_modDom_other _ _ hj).trans (Dev.dom_setDom_other _ _ hj))

end

/-- In a table with distinct keys each entry is what its key holds. -/
theorem tfind_of_mem {α : Type} {t : Tab α} (hnd : (t.map Prod.fst).Nodup) {k : Nat} {x : α} (hm : (k, x) ∈ t) : tfind t k = some x := by
  induction t with
  | nil => cases hm
  | cons e t ih =>
    obtain ⟨k', x'⟩ := e
    obtain ⟨he, hnd⟩ := List.nodup_cons.mp hnd
    rcases List.mem_cons.mp hm with h | hm
    · cases h
      simp [tfind]
    · have hne : k' ≠ k := fun h => he (List.mem_map.mpr ⟨(k, x), hm, h.symm⟩)
      simp only [tfind]
      rw [if_neg hne]
      exact ih hnd hm

theorem nextWake_dom {d : Dev} (hub : Nat) {k : Nat} (hk : ∀ n, (d.dom k).latest = some n → isWake (d.dom k).st n = false)
    (hnd : (d.pow.doms.map Prod.fst).Nodup) : (nextWake hub d).dom k = d.dom k := by
  unfold nextWake
  split
  · next k' x hx =>
    cases hl : x.latest with
    | none => rfl
    | some n =>
      refine requestDom_dom_other ?_ n d
      rintro rfl
      have hmem := List.mem_of_find?_eq_some hx
      have hp := List.find?_some hx
      have hdom : d.dom k = x := by
        rw [Dev.dom, tget, tfind_of_mem hnd hmem]
        rfl
      have := hk n (by rw [hdom, hl])
      simp only [Bool.and_eq_true] at hp
      rw [hdom] at this
      have hw := hp.2
      rw [hl] at hw
      exact Bool.false_ne_true (this.symm.trans hw)
  · rfl

/-! ### An engine wakes from Off -/

/-- From `d` to `e` the power state stands. -/
def SamePow (d e : Dev) : Prop := e.pow = d.pow

theorem samePow_foldl {α : Type} {d e : Dev} (h : SamePow d e) (f : Dev → α → Dev) (l : List α)
    (hf : ∀ e a, SamePow d e → SamePow d (f e a)) : SamePow d (l.foldl f e) :=
  List.foldlRecOn l f h fun e he a _ => hf e a he

theorem samePow_removeTile {d e : Dev} (h : SamePow d e) (t : Tile) : SamePow d (removeTile t e) := by
  have hf := (afterAccess_removeTile (AfterAccess.refl e) t).frame
  unfold SamePow at *
  rw [hf]
  exact h

theorem samePow_loseTiles {d e : Dev} (h : SamePow d e) (hit : Tile → Bool) (iss : Nat → Bool) : SamePow d (loseTiles hit iss e) := by
  unfold loseTiles
  refine samePow_foldl ?_ _ _ fun _ _ he => he
  exact samePow_foldl h _ _ fun _ _ he => samePow_removeTile he ..

theorem samePow_resetEngine {d e : Dev} (h : SamePow d e) (n : Nat) : SamePow d (resetEngine n e) := by
  unfold resetEngine
  exact samePow_loseTiles h ..

theorem samePow_resetHops {d e : Dev} (h : SamePow d e) (v : Variant) (t : Target) : SamePow d (resetHops v t e) :=
  samePow_foldl h _ _ fun _ _ he => he

theorem domTarget_domEngine {h e : Nat} (he : e < 8) : domTarget (domEngine (8 * h + e)) = .engine h e := by
  have h1 : (8 * h + e) / 8 = h := by omega
  have h2 : (8 * h + e) % 8 = e := by omega
  have h3 : (612 + 17 * h + e - 612) / 17 = h := by omega
  have h4 : (612 + 17 * h + e - 612) % 17 = e := by omega
  unfold domTarget domEngine domHub
  rw [h1, h2, if_neg (by omega), h3, h4]
  dsimp only
  rw [if_pos he]

/-- A domain that has woken from Off. -/
def Dom.woken (x : Dom) (st : PState) : Dom :=
  { x with st := st, moving := none, op := min 4 x.ceiling, opNext := none, credit := 0, grant := 0, collapsed := false }

theorem reachState_engine {v : Variant} {h e : Nat} (he : e < 8) {d : Dev} (hoff : (d.dom (domEngine (8 * h + e))).st = .off) :
    SamePow (d.setDom (domEngine (8 * h + e)) ((d.dom (domEngine (8 * h + e))).woken .run)) (reachState v (domEngine (8 * h + e)) .run d) := by
  unfold reachState wakeOff
  dsimp only
  rw [hoff, domTarget_domEngine he]
  exact samePow_resetHops (samePow_resetEngine rfl _) ..

theorem engine_wakes {s : State} {h e : Nat} (hm : (s.dev.dom (domEngine (8 * h + e))).moving = some .run)
    (hd : (s.dev.dom (domEngine (8 * h + e))).drained = true) (hoff : (s.dev.dom (domEngine (8 * h + e))).st = .off)
    (hl : (s.dev.dom (domEngine (8 * h + e))).latest = none) (he : e < 8) :
    ∃ w, exec (.powerTransitionDone (domEngine (8 * h + e))) s = .next (s.on (nextWake (domRegion (domEngine (8 * h + e))) w)) ∧
      w.dom (domEngine (8 * h + e)) = (s.dev.dom (domEngine (8 * h + e))).woken .run := by
  have hfo : facetOrder s.dev (domEngine (8 * h + e)) .run = true := by
    have : ¬domEngine (8 * h + e) < 612 := by
      unfold domEngine domHub
      omega
    rw [facetOrder, if_neg this]
  have hp := reachState_engine (v := s.variant) he hoff
  rw [exec_powerTransitionDone, transitionDoneOp_eq hm hd hfo (.inr rfl), hl]
  refine ⟨_, rfl, ?_⟩
  show tget {} (reachState s.variant (domEngine (8 * h + e)) .run s.dev).pow.doms _ = _
  rw [hp]
  exact s.dev.dom_setDom_same _ _

/-! ### Restoring a wedge, and a wake on demand (R34, R442, R433) -/

/-- From `d` to `e` outlier copies have been placed in the wedge `w`, whose records stand. -/
structure CopiesPlaced (w : Nat) (d e : Dev) : Prop where
  frame : e = { d with wedges := e.wedges, log := e.log }
  saved : (e.wedge w).saved = (d.wedge w).saved

theorem CopiesPlaced.trans {w : Nat} {d e f : Dev} (h : CopiesPlaced w d e) (h' : CopiesPlaced w e f) : CopiesPlaced w d f :=
  ⟨by rw [h'.frame, h.frame], h'.saved.trans h.saved⟩

theorem copiesPlaced_modWedge (w : Nat) (d : Dev) {f : Wedge → Wedge} (hf : ∀ x, (f x).saved = x.saved) : CopiesPlaced w d (d.modWedge w f) := by
  refine ⟨rfl, ?_⟩
  rw [Dev.wedge_modWedge, if_pos rfl, hf]

theorem copiesPlaced_replaceCopies (w id : Nat) (d : Dev) : CopiesPlaced w d (replaceCopies w id d) := by
  unfold replaceCopies
  split
  · exact ⟨rfl, rfl⟩
  unfold placeCopies
  dsimp only
  split
  · exact ⟨rfl, rfl⟩
  split
  · obtain ⟨-, hs⟩ := copiesPlaced_modWedge w d (f := fun g => { g with xoOut := g.xoOut ++ [Matrix.id _] }) fun _ => rfl
    exact ⟨rfl, hs⟩
  · exact List.foldlRecOn (motive := CopiesPlaced w d) _ _ ⟨rfl, rfl⟩ fun e he x _ => he.trans (copiesPlaced_modWedge w e fun _ => rfl)

theorem restoreMacro_empty {v : Variant} {m : Nat} {sv : Saved} (hA : sv.stA ≠ .ready) (hB : sv.stB ≠ .ready)
    (host : List (Nat × HostRead)) (verify : List VerifyErr) (d : Dev) : restoreMacro v m sv host verify d =
      d.modMac m fun x => { x with actB := sv.actB, group := sv.group, bankA := {}, bankB := {} } := by
  simp [restoreMacro, hA, hB, bankAsSaved]

theorem wedge_restored {s : State} {w m : Nat} {sv : Saved} (hs : (s.dev.wedge w).saved = [(m, sv)])
    (hrun : domRuns s.dev (domWedge w) = true) (hheld : targetHeld s.dev (.wedge (w / 16) (w % 16)) = false)
    (hclr : (s.dev.sbank w).clearing = false) (hA : sv.stA ≠ .ready) (hB : sv.stB ≠ .ready) (host : List (Nat × HostRead))
    (verify : List VerifyErr) :
    ∃ t, exec (.wedgeWakeRestore w host verify) s = .next t ∧
      t = s.on { s.dev with macros := t.dev.macros, wedges := t.dev.wedges, log := t.dev.log } ∧
      t.dev.mac m = { s.dev.mac m with actB := sv.actB, group := sv.group, bankA := {}, bankB := {} } ∧ (t.dev.wedge w).saved = [] ∧
      ∀ m', m' ≠ m → t.dev.mac m' = s.dev.mac m' := by
  have hop : wakeRestoreOp s.variant w host verify s.dev =
      (let d2 := (s.dev.modMac m fun x => { x with actB := sv.actB, group := sv.group, bankA := {}, bankB := {} }).modWedge w
         (fun x => { x with saved := [] })
       (wedgeMats d2 w).foldl (fun d id => replaceCopies w id d) d2) := by
    simp only [wakeRestoreOp, hs, hrun, hheld, hclr, List.foldl_cons, List.foldl_nil, restoreMacro_empty hA hB]
    rfl
  have hmac := s.dev.mac_modMac_same m fun x => { x with actB := sv.actB, group := sv.group, bankA := {}, bankB := {} }
  have hoth (m' : Nat) (h : m' ≠ m) :=
    s.dev.mac_modMac_other (fun x => { x with actB := sv.actB, group := sv.group, bankA := {}, bankB := {} }) h
  rw [exec_wedgeWakeRestore, hop]
  dsimp only
  generalize hd2 : Dev.modWedge _ w _ = d2
  have hfr : d2 = { s.dev with macros := (s.dev.modMac m fun x => { x with actB := sv.actB, group := sv.group, bankA := {}, bankB := {} }).macros,
                               wedges := d2.wedges } := by
    rw [← hd2]
    rfl
  have hsv : (d2.wedge w).saved = [] := by
    rw [← hd2, Dev.wedge_modWedge, if_pos rfl]
  have hcp : CopiesPlaced w d2 ((wedgeMats d2 w).foldl (fun d id => replaceCopies w id d) d2) :=
    List.foldlRecOn (motive := CopiesPlaced w d2) _ _ ⟨rfl, rfl⟩ fun e he id _ => he.trans (copiesPlaced_replaceCopies w id e)
  generalize (wedgeMats d2 w).foldl (fun d id => replaceCopies w id d) d2 = e at hcp
  have hmacs (k : Nat) : e.mac k = (s.dev.modMac m fun x => { x with actB := sv.actB, group := sv.group, bankA := {}, bankB := {} }).mac k := by
    rw [hcp.frame, hfr]
    rfl
  refine ⟨_, rfl, congrArg s.on ?_, (hmacs m).trans hmac, hcp.saved.trans hsv, fun k hk => (hmacs k).trans (hoth k hk)⟩
  rw [hcp.frame, hfr]
  rfl

theorem wake_onDemand {s : State} {k issuer : Nat} (hst : domState s.dev k = .retain) (hw : (govSet s.dev (domRegion k)).wake = 1)
    (hn : nextTileNeeds s.variant s.dev issuer k = true) (hm : (s.dev.dom k).moving = none) (hr : (s.dev.dom k).st = .retain) :
    ∃ t, exec (.wakeOnDemand k issuer) s = .next t ∧ t = s.on { s.dev with pow := t.dev.pow } ∧
      if wakeFull s.dev k then t.dev.dom k = { s.dev.dom k with latest := some .run }
      else t.dev.dom k = { s.dev.dom k with moving := some .run, drained := true, latest := none } ∧
        (t.dev.region (domRegion k)).wakes = (s.dev.region (domRegion k)).wakes + 1 := by
  have hop : wakeOnDemandOp s.variant k issuer s.dev = requestDom .run k s.dev := by simp [wakeOnDemandOp, hst, hw, hn]
  have hreq : requestDom .run k s.dev = if wakeFull s.dev k = true then s.dev.setDom k { s.dev.dom k with latest := some .run }
      else beginMove k .run s.dev := by
    unfold requestDom
    dsimp only
    rw [hm, hr, if_neg (by simp), if_neg (by simp)]
    have : isWake .retain .run = true := rfl
    rw [this, Bool.true_and]
  rw [exec_wakeOnDemand, hop, hreq]
  by_cases hfull : wakeFull s.dev k = true
  · rw [if_pos hfull]
    refine ⟨_, rfl, rfl, ?_⟩
    rw [if_pos hfull]
    exact s.dev.dom_setDom_same k _
  · rw [if_neg hfull]
    have hlinks : (beginMove k .run s.dev).links = s.dev.links := by
      unfold beginMove
      dsimp only
      split <;> rfl
    refine ⟨_, rfl, congrArg s.on ?_, ?_⟩
    · refine (beginMove_frame ..).trans ?_
      rw [hlinks]
      show _ = ({ s.dev with pow := (beginMove k .run s.dev).pow } : Dev)
      rw [congrArg Dev.pow (beginMove_frame k .run s.dev)]
    · rw [if_neg hfull]
      refine ⟨beginMove_dom_same k .run s.dev, beginMove_wakes ?_⟩
      rw [hr]
      rfl

/-- Settles O46: each step is a request to one domain, or the end of one domain's move. -/
theorem powerStatesMoveAndRestore : Obligations.PowerStatesMoveAndRestore :=
  ⟨⟨fun _ _ _ ht hu => ⟨powerRequest_refused ht hu, powerRequest_taken ht hu⟩, fun _ _ => drain_done,
      fun _ _ _ hm hd hf hst hold => ⟨transition_ends hm hd hf hst hold, fun _ hl hne => transition_goesOn hm hd hf hst hold hl hne⟩,
      fun _ hub _ hk hnd => nextWake_dom hub hk hnd, fun _ _ _ hm hd hoff hl _ he => engine_wakes hm hd hoff hl he⟩,
    fun _ _ _ _ host verify hs hrun hheld hclr hA hB => wedge_restored hs hrun hheld hclr hA hB host verify, fun _ _ _ => wake_onDemand⟩

end Sys2Proof.Machine

/-!
PROOFS for the writes with a step of their own that set a link, the wall time or a base band (R142, R330, R335, R461).
-/
namespace Sys2Proof.Machine

open Sys2Proof

theorem exec_linkWiden (s : State) (l : Nat) (r : OdReq) : exec (.linkWiden l r) s = .next (s.on (linkWidenOp s.variant l r s.dev)) := rfl

theorem exec_wallTimeWrite (s : State) (r : OdReq) : exec (.wallTimeWrite r) s = .next (s.on (wallTimeOp s.variant r s.dev)) := rfl

theorem exec_baseBandWrite (s : State) (r : OdReq) : exec (.baseBandWrite r) s = .next (s.on (baseBandWriteOp s.variant r s.dev)) := rfl

theorem exec_linkEnableWrite (s : State) (l : Nat) (r : OdReq) :
    exec (.linkEnableWrite l r) s = .next (s.on (linkEnableWriteOp s.variant l r s.dev)) := rfl

/-- A request that is done changes the commands and the completions at most. -/
theorem reqDone_eq (r : OdReq) {st : BitVec 8} (hs : st ≠ stHostAccess) (e : Dev) : ∃ c p, reqDone r st e = { e with cmds := c, comps := p } :=
  ⟨_, _, reqDone_frame r hs e⟩

/-- A link that tries all its lanes. -/
def widened (l : Nat) (d : Dev) : Dev := enterTrain l (d.modLink l fun x => { x with badLanes := 0 })

theorem enterTrain_frame (l : Nat) (d : Dev) : enterTrain l d = { d with links := (enterTrain l d).links, ctr := (enterTrain l d).ctr } := rfl

theorem counted_enterTrain (l : Nat) (d : Dev) : Counted d (enterTrain l d) 0x341A (l + 1) 1 := d.counted_count 0x341A (l + 1) 1

theorem widened_frame (l : Nat) (d : Dev) : widened l d = { d with links := (widened l d).links, ctr := (widened l d).ctr } :=
  enterTrain_frame l (d.modLink l fun x => { x with badLanes := 0 })

theorem counted_widened (l : Nat) (d : Dev) : Counted d (widened l d) 0x341A (l + 1) 1 :=
  counted_enterTrain l (d.modLink l fun x => { x with badLanes := 0 })

theorem Dev.link_count (d : Dev) (idx sub n l : Nat) : (d.count idx sub n).link l = d.link l := rfl

theorem widened_link (l : Nat) (d : Dev) : ((widened l d).link l).phase = .train ∧ ((widened l d).link l).badLanes = 0 := by
  unfold widened enterTrain
  rw [Dev.link_count, Dev.link_modLink_same, Dev.link_modLink_same]
  exact ⟨rfl, rfl⟩

theorem linkWiden_trains {s : State} {l : Nat} {r : OdReq} (ht : ReqTaken s.variant s.dev r 0x3420) (hsub : r.sub = l + 1)
    (hval : leNat r.value = 1) (hph : (s.dev.link l).phase = .active) (hlanes : (s.dev.link l).lanes ≠ 0xF) :
    ∃ t, exec (.linkWiden l r) s = .next t ∧
      t = s.on { s.dev with links := t.dev.links, ctr := t.dev.ctr, cmds := t.dev.cmds, comps := t.dev.comps } ∧
      ReqEnded s.dev t.dev r stSuccess ∧ (t.dev.link l).phase = .train ∧ (t.dev.link l).badLanes = 0 ∧
      Counted s.dev t.dev 0x341A (l + 1) 1 := by
  have hcond : (leNat r.value = 1 && (s.dev.link l).phase == .active && (s.dev.link l).lanes != 0xF) = true := by
    rw [hval, hph, bne_iff_ne.mpr hlanes]
    rfl
  have heff : widenLink l r.value s.dev = widened l s.dev := if_pos hcond
  have hend : ReqEnded s.dev (reqDone r stSuccess (widened l s.dev)) r stSuccess :=
    reqEnded_reqDone (by rw [widened_frame]; exact ⟨rfl, rfl⟩) r (by decide)
  obtain ⟨c, p, hreq⟩ := reqDone_eq r (st := stSuccess) (by decide) (widened l s.dev)
  obtain ⟨hphase, hbad⟩ := widened_link l s.dev
  rw [exec_linkWiden, linkWidenOp, if_pos hsub, ownRequest_of_taken ht, heff]
  rw [hreq] at hend ⊢
  refine ⟨_, rfl, congrArg s.on ?_, hend, hphase, hbad, counted_widened l s.dev⟩
  have hfr := widened_frame l s.dev
  generalize widened l s.dev = w at hfr ⊢
  rw [hfr]
  rfl

theorem wallTime_held {s : State} {r : OdReq} (ht : ReqTaken s.variant s.dev r 0x5801) (hsub : r.sub = 2) :
    ∃ t, exec (.wallTimeWrite r) s = .next t ∧ t = s.on { s.dev with vals := t.dev.vals, cmds := t.dev.cmds, comps := t.dev.comps } ∧
      ReqEnded s.dev t.dev r stSuccess ∧
      tfind t.dev.vals (odKey 0x5801 2) = some (padTo 8 (r.value.take 8) ++ toLe 8 (tget 0 s.dev.hubTimer 0)) := by
  generalize he : ({ s.dev with vals := tset s.dev.vals (odKey 0x5801 2) (wallTimeValue s.dev r.value) } : Dev) = e
  have hend : ReqEnded s.dev (reqDone r stSuccess e) r stSuccess := reqEnded_reqDone (by rw [← he]; exact ⟨rfl, rfl⟩) r (by decide)
  obtain ⟨c, p, hreq⟩ := reqDone_eq r (st := stSuccess) (by decide) e
  rw [exec_wallTimeWrite, wallTimeOp, if_neg (by simp [hsub]), ownRequest_of_taken ht, he]
  rw [hreq, ← he] at hend ⊢
  exact ⟨_, rfl, rfl, hend, tfind_tset_same ..⟩

/-! ### Class P writes of host commands (R392, R393, R407) -/

theorem reqReady_cmd {r : OdReq} {idx id : Nat} {d : Dev} (h : reqReady r idx d = true) (hid : r.cmd = some id) : r.sub < 256 := by
  unfold reqReady at h
  rw [hid] at h
  simp only [Bool.and_eq_true] at h
  cases hs : d.starting id 0x03 with
  | none =>
    rw [hs] at h
    simp at h
  | some c =>
    rw [hs] at h
    simp only [Option.elim, Bool.and_eq_true, decide_eq_true_iff] at h
    obtain ⟨-, ⟨⟨⟨⟨⟨-, -⟩, hsub⟩, -⟩, -⟩, -⟩, -⟩ := h
    rw [← hsub, Cmd.odSub, bitsOf]
    exact Nat.mod_lt _ (by decide)

theorem ownP_of_taken {v : Variant} {r : OdReq} {idx id : Nat} {d : Dev} (h : ReqTaken v d r idx) (hid : r.cmd = some id)
    (hnew : d.pendingP (odKey idx r.sub) = false) : ownP v r idx d =
      if d.heldP idx r.sub = r.value then (landP v (odKey idx r.sub) r.value d).succeeds id 0 else offerP id idx r.sub r.value d := by
  obtain ⟨hready, hearly, hshort, hchecks⟩ := h
  simp [ownP, hid, hready, hearly, hshort, hchecks, hnew]

/-- A class P write of a host command that is taken: what the landing of a value that is held already may change is `F`. -/
theorem ownP_offered {v : Variant} {r : OdReq} {idx id : Nat} {c : Cmd} {d : Dev} (h : ReqTaken v d r idx) (hid : r.cmd = some id)
    (hc : d.cmdOf id = some c) (hnew : d.pendingP (odKey idx r.sub) = false)
    (hland : SameFlight d (landP v (odKey idx r.sub) r.value d) ∧ (landP v (odKey idx r.sub) r.value d).jour = d.jour) :
    OfferedP d (ownP v r idx d) id c idx r.sub r.value := by
  rw [ownP_of_taken h hid hnew]
  obtain ⟨hsf, hj⟩ := hland
  refine ⟨fun hh => ?_, fun hh htok => ?_, fun hh htok => ?_⟩
  · rw [if_pos hh, Dev.succeeds_eq ((hsf.cmdOf id).trans hc)]
    exact ⟨⟨congrArg (List.filter _) hsf.1, congrArg (· ++ _) hsf.2⟩, hj⟩
  · rw [if_neg hh, offerP_of_throttled hnew hh htok, Dev.fails_eq (c := c) (by exact hc) (by decide)]
    exact ⟨⟨rfl, rfl⟩, d.counted_count 0x1400 6 1, rfl⟩
  · rw [if_neg hh, offerP_of_token hnew hh htok]
    exact ⟨rfl, rfl, rfl⟩

/-- What a class P write of a host command may change, besides what the landing of a value does. -/
theorem ownP_frame {v : Variant} {r : OdReq} {idx id : Nat} {c : Cmd} {d : Dev} (h : ReqTaken v d r idx) (hid : r.cmd = some id)
    (hc : d.cmdOf id = some c) (hnew : d.pendingP (odKey idx r.sub) = false)
    (hland : SameFlight d (landP v (odKey idx r.sub) r.value d)) :
    (∃ cs ps, ownP v r idx d = { landP v (odKey idx r.sub) r.value d with cmds := cs, comps := ps }) ∨
      ∃ cs ps j ct, ownP v r idx d = { d with cmds := cs, comps := ps, jour := j, ctr := ct } := by
  rw [ownP_of_taken h hid hnew]
  by_cases hh : d.heldP idx r.sub = r.value
  · rw [if_pos hh, Dev.succeeds_eq ((hland.cmdOf id).trans hc)]
    exact .inl ⟨_, _, rfl⟩
  · right
    rw [if_neg hh]
    by_cases htok : d.jour.tokens = 0
    · rw [offerP_of_throttled hnew hh htok, Dev.fails_eq (c := c) (by exact hc) (by decide)]
      exact ⟨_, _, _, _, rfl⟩
    · rw [offerP_of_token hnew hh htok]
      exact ⟨_, _, _, _, rfl⟩

theorem odKey_div {idx sub : Nat} (h : sub < 256) : odKey idx sub / 256 = idx := by
  unfold odKey
  omega

theorem setP_plain {idx sub : Nat} (h : sub < 256) (hi : idx ≠ 0x7001) (hi' : idx ≠ 0x7002) (hi'' : idx ≠ 0x7003) (b : Bytes) (d : Dev) :
    setP (odKey idx sub) b d = d.holdP (odKey idx sub) b := by
  have hne (i k : Nat) (hk : k < 256) (hii : idx ≠ i) : odKey idx sub ≠ odKey i k := by
    unfold odKey
    omega
  unfold setP
  rw [if_neg (hne _ _ (by decide) hi), if_neg (hne _ _ (by decide) hi), if_neg (hne _ _ (by decide) hi'), if_neg (hne _ _ (by decide) hi'')]

theorem landP_baseBand {v : Variant} {sub : Nat} (h : sub < 256) (b : Bytes) (d : Dev) :
    landP v (odKey 0x2061 sub) b d = { d with vals := (landP v (odKey 0x2061 sub) b d).vals, pred := (landP v (odKey 0x2061 sub) b d).pred } := by
  unfold landP
  rw [setP_plain h (by decide) (by decide) (by decide), odKey_div h]
  rfl

theorem applyEnable_frame (v : Variant) (l : Nat) (on : Bool) (d : Dev) :
    applyEnable v l on d = { d with links := (applyEnable v l on d).links, ctr := (applyEnable v l on d).ctr } := by
  unfold applyEnable startLink
  split
  · split
    · exact enterTrain_frame l d
    · rfl
  · rfl

theorem landP_linkEnable {v : Variant} {sub : Nat} (h : sub < 256) (b : Bytes) (d : Dev) :
    landP v (odKey 0x3411 sub) b d = { d with vals := (landP v (odKey 0x3411 sub) b d).vals, links := (landP v (odKey 0x3411 sub) b d).links,
                                              ctr := (landP v (odKey 0x3411 sub) b d).ctr } := by
  unfold landP
  rw [setP_plain h (by decide) (by decide) (by decide), odKey_div h]
  simp only [if_true]
  rw [applyEnable_frame]
  rfl

theorem baseBand_offered {s : State} {r : OdReq} {id : Nat} {c : Cmd} (hid : r.cmd = some id) (hc : s.dev.cmdOf id = some c)
    (ht : ReqTaken s.variant s.dev r 0x2061) (hnew : s.dev.pendingP (odKey 0x2061 r.sub) = false) :
    ∃ t, exec (.baseBandWrite r) s = .next t ∧ OfferedP s.dev t.dev id c 0x2061 r.sub r.value ∧
      t = s.on { s.dev with cmds := t.dev.cmds, comps := t.dev.comps, jour := t.dev.jour, ctr := t.dev.ctr, vals := t.dev.vals,
                            pred := t.dev.pred } := by
  have hland := landP_baseBand (v := s.variant) (reqReady_cmd ht.1 hid) r.value s.dev
  have hsf : SameFlight s.dev (landP s.variant (odKey 0x2061 r.sub) r.value s.dev) := by
    rw [hland]
    exact ⟨rfl, rfl⟩
  have hoff := ownP_offered ht hid hc hnew ⟨hsf, by rw [hland]⟩
  refine ⟨_, exec_baseBandWrite s r, hoff, congrArg s.on ?_⟩
  rcases ownP_frame ht hid hc hnew hsf with ⟨cs, ps, h⟩ | ⟨cs, ps, j, ct, h⟩
  · rw [baseBandWriteOp, h, hland]
    rfl
  · rw [baseBandWriteOp, h]
    rfl

theorem linkEnable_offered {s : State} {r : OdReq} {id l : Nat} {c : Cmd} (hid : r.cmd = some id) (hc : s.dev.cmdOf id = some c)
    (hsub : r.sub = l + 1) (ht : ReqTaken s.variant s.dev r 0x3411) (hnew : s.dev.pendingP (odKey 0x3411 r.sub) = false) (h256 : r.sub < 256) :
    ∃ t, exec (.linkEnableWrite l r) s = .next t ∧ OfferedP s.dev t.dev id c 0x3411 r.sub r.value ∧
      t = s.on { s.dev with cmds := t.dev.cmds, comps := t.dev.comps, jour := t.dev.jour, ctr := t.dev.ctr, vals := t.dev.vals,
                            links := t.dev.links } := by
  have hland := landP_linkEnable (v := s.variant) h256 r.value s.dev
  have hsf : SameFlight s.dev (landP s.variant (odKey 0x3411 r.sub) r.value s.dev) := by
    rw [hland]
    exact ⟨rfl, rfl⟩
  have hoff := ownP_offered ht hid hc hnew ⟨hsf, by rw [hland]⟩
  rw [exec_linkEnableWrite, linkEnableWriteOp, if_pos hsub]
  refine ⟨_, rfl, hoff, congrArg s.on ?_⟩
  rcases ownP_frame ht hid hc hnew hsf with ⟨cs, ps, h⟩ | ⟨cs, ps, j, ct, h⟩
  · rw [h, hland]
    rfl
  · rw [h]
    rfl

/-- Settles O47: a write that its checks let pass takes effect once, and what asked for it has ended or waits for a record. -/
theorem ownWritesTakeEffect : Obligations.OwnWritesTakeEffect :=
  ⟨fun _ _ _ => linkWiden_trains, fun _ _ => wallTime_held, fun _ _ _ _ hid hc => ⟨baseBand_offered hid hc, fun _ => linkEnable_offered hid hc⟩⟩

end Sys2Proof.Machine

/-!
PROOFS for the known-sum checks (R436 to R441): what a background step pays, what becomes of the tiles that a fault discards, and the check step's
three ends.
-/
namespace Sys2Proof.Machine

open Sys2Proof

/-! ### What a step pays (R413, R419) -/

theorem stepCost_setDom (d : Dev) (k : Nat) (e : Rat) (x : Dom) (hx : x.op = (d.dom k).op) : stepCost (d.setDom k x) k e = stepCost d k e := by
  rw [stepCost, stepCost, Dev.dom_setDom_same, hx]

/-- Steps that are paid for and drawn. -/
theorem paid_draw_debit (d : Dev) (k : Nat) (energy : Rat) {n : Nat} (hn : n ≠ 0) (pj : Rat) :
    Paid d (draw k pj (debit k energy n d)) k energy n pj := by
  have hdebit : debit k energy n d = d.modDom k fun x => { x with credit := x.credit - stepCost d k energy * (n : Rat) } := by
    rw [debit, if_neg hn]
  rw [hdebit, draw]
  split
  · next h0 =>
    refine ⟨?_, fun _ h => d.dom_modDom_other _ h, rfl⟩
    rw [Dev.dom_modDom_same, h0, zero_mul, add_zero]
  · refine ⟨?_, fun _ h => ?_, rfl⟩
    · rw [Dev.dom_modDom_same, Dev.dom_modDom_same]
    · rw [Dev.dom_modDom_other _ _ h, Dev.dom_modDom_other _ _ h]

theorem draw_debit_frame (d : Dev) (k : Nat) (energy : Rat) (n : Nat) (pj : Rat) :
    draw k pj (debit k energy n d) = { d with pow := (draw k pj (debit k energy n d)).pow } := by
  unfold draw debit
  split <;> split <;> rfl

theorem paid_payBg (m : Nat) (d : Dev) : Paid d (payBg m d) (domWedge (wedgeOfMacro m)) checkEnergy 1 checkEnergy :=
  paid_draw_debit d _ checkEnergy Nat.one_ne_zero checkEnergy

theorem payBg_frame (m : Nat) (d : Dev) : payBg m d = { d with pow := (payBg m d).pow } := draw_debit_frame ..

/-! ### Tiles that are discarded (R249) -/

/-- From `d` to `e` the tiles that `hit` names are gone, and their jobs' epochs may have risen. -/
structure TilesLost (hit : Tile → Bool) (d e : Dev) : Prop where
  frame : e = { d with tiles := e.tiles, jobs := e.jobs, macros := e.macros, wedges := e.wedges, engines := e.engines, quants := e.quants,
                       pairs := e.pairs, issues := e.issues, coal := e.coal, remote := e.remote, outVecs := e.outVecs, spans := e.spans,
                       mem := { d.mem with waiting := e.mem.waiting } }
  wedge : ∀ w, e.wedge w = { d.wedge w with tiles := (e.wedge w).tiles }
  mac : MacsKept d e
  left : ∀ x ∈ e.tiles, x ∈ d.tiles ∧ hit x = false

theorem removeTile_tiles (t : Tile) (d : Dev) : (removeTile t d).tiles = d.tiles.filter fun x => decide (x.id ≠ t.id) := by
  have hw (l : List Nat) (e : Dev) : (l.foldl (fun d w => d.modWedge w fun g => { g with tiles := g.tiles.filter (· ≠ t.id) }) e).tiles = e.tiles :=
    List.foldlRecOn (motive := fun x : Dev => x.tiles = e.tiles) _ _ rfl fun _ he _ _ => he
  unfold removeTile
  dsimp only
  split
  · exact hw ..
  · exact hw ..

/-- Removing tiles one after the other leaves none of their ids. -/
theorem removeTiles_left (l : List Tile) (d : Dev) : TilesLeft d (l.foldl (fun d t => removeTile t d) d) ∧
    ∀ x ∈ (l.foldl (fun d t => removeTile t d) d).tiles, x ∈ d.tiles ∧ ∀ t ∈ l, x.id ≠ t.id := by
  induction l generalizing d with
  | nil => exact ⟨TilesLeft.refl d, fun x hx => ⟨hx, by simp⟩⟩
  | cons t l ih =>
    obtain ⟨hleft, hids⟩ := ih (removeTile t d)
    refine ⟨(tilesLeft_removeTile t d).trans hleft, fun x hx => ?_⟩
    obtain ⟨hx1, hx2⟩ := hids x hx
    rw [removeTile_tiles, List.mem_filter, decide_eq_true_iff] at hx1
    refine ⟨hx1.1, fun y hy => ?_⟩
    rcases List.mem_cons.mp hy with rfl | hy
    · exact hx1.2
    · exact hx2 y hy

theorem tilesLost_loseTiles (hit : Tile → Bool) (iss : Nat → Bool) (d : Dev) : TilesLost hit d (loseTiles hit iss d) := by
  obtain ⟨hleft, hids⟩ := removeTiles_left (d.tiles.filter fun t => hit t) d
  have hepoch (l : List Nat) (e : Dev) : l.foldl (fun d j => raiseEpoch j d) e = { e with jobs := (l.foldl (fun d j => raiseEpoch j d) e).jobs } :=
    List.foldlRecOn (motive := fun x : Dev => x = { e with jobs := x.jobs }) _ _ rfl fun x hx j _ => by
      rw [raiseEpoch, Dev.modJob, hx]
  rw [loseTiles]
  rw [hepoch]
  generalize (d.tiles.filter fun t => hit t).foldl (fun d t => removeTile t d) d = f at hleft hids ⊢
  refine ⟨by rw [hleft.frame], hleft.wedge, hleft.mac, fun x hx => ?_⟩
  obtain ⟨hmem, hne⟩ := hids x hx
  refine ⟨hmem, Bool.eq_false_iff.mpr fun hh => ?_⟩
  exact hne x (List.mem_filter.mpr ⟨hmem, hh⟩) rfl

/-! ### The check step -/

theorem exec_checkStep (s : State) (m : Nat) (colErrs : List (Nat × Nat × Int)) (errs : List (Nat × Nat × Rat)) (ue : Bool) :
    exec (.checkStep m colErrs errs ue) s = .next (s.on (checkStepOp s.variant m colErrs errs ue s.dev)) := rfl

theorem exec_checkAgeExpiry (s : State) (m ms : Nat) : exec (.checkAgeExpiry m ms) s = .next (s.on (checkAgeOp s.variant m ms s.dev)) := rfl

theorem exec_idleCheckInterval (s : State) (m us : Nat) :
    exec (.idleCheckInterval m us) s = .next (s.on (idleCheckOp s.variant m us s.dev)) := rfl

/-- A check step that is paid for and counted. -/
def checkPaid (m : Nat) (d : Dev) : Dev :=
  if (d.mac m).ckDue then ((payBg m d).count 0x5010 (ssFacet (facetOfMacro m)) 1).count 0x5011 (ssFacet (facetOfMacro m)) 1
  else (payBg m d).count 0x5010 (ssFacet (facetOfMacro m)) 1

theorem checkPaid_frame (m : Nat) (d : Dev) : checkPaid m d = { d with pow := (checkPaid m d).pow, ctr := (checkPaid m d).ctr } := by
  rw [checkPaid, payBg_frame]
  split <;> rfl

theorem checkPaid_pow (m : Nat) (d : Dev) : (checkPaid m d).pow = (payBg m d).pow := by
  rw [checkPaid]
  split <;> rfl

theorem checkPaid_mac (m : Nat) (d : Dev) (m' : Nat) : (checkPaid m d).mac m' = d.mac m' := by rw [checkPaid_frame]; rfl

/-- A forced step is counted once more, in an entry of its own. -/
theorem checkPaid_counted (m : Nat) (d : Dev) {idx sub : Nat} (h : odKey idx sub ≠ odKey 0x5011 (ssFacet (facetOfMacro m))) :
    counterOf (checkPaid m d) idx sub = counterOf ((payBg m d).count 0x5010 (ssFacet (facetOfMacro m)) 1) idx sub := by
  rw [checkPaid]
  split
  · rw [counterOf, Dev.counted_count, if_neg h]
    rfl
  · rfl

theorem Dev.tget_count_zero (d : Dev) (idx sub k : Nat) : tget 0 (d.count idx sub 0).ctr k = tget 0 d.ctr k :=
  (d.counted_count idx sub 0 k).trans (by rw [ite_self, add_zero])

/-- What a check step without errors listed may change before its signatures are compared: the counters of the reads and the macro's window. -/
structure ReadsQuiet (m : Nat) (d e : Dev) : Prop where
  frame : e = { d with macros := e.macros, ctr := e.ctr }
  counters : ∀ k, tget 0 e.ctr k = tget 0 d.ctr k
  other : OnlyMacro d e m
  mac : e.mac m = { d.mac m with recReads := (e.mac m).recReads, recAmb := (e.mac m).recAmb, recReq := (e.mac m).recReq }

theorem readWindow_eq (limit reads : Nat) (amb : List Nat) (x : Macro) : ∃ r a q, readWindow limit reads amb x = { x with recReads := r, recAmb := a, recReq := q } := by
  unfold readWindow
  extract_lets
  split
  · exact ⟨_, _, _, rfl⟩
  · exact ⟨_, _, _, rfl⟩

theorem readsQuiet_checkCurrent (m pat : Nat) (d : Dev) : ReadsQuiet m d (checkCurrent m pat [] d) := by
  have hr : checkReads d m pat [] = ⟨0, [], 0, 0⟩ := rfl
  unfold checkCurrent
  dsimp only
  split
  · exact ⟨rfl, fun _ => rfl, fun _ _ => rfl, rfl⟩
  · rw [hr]
    obtain ⟨r, a, q, hw⟩ := readWindow_eq (d.num 0x2000 2 64) (1024 * (sensePairs (d.mac m).active.packing).length) [] (d.mac m)
    generalize hcr : countReads m 0 0 { d with free := d.free + 0 } = c
    have hc : c = { d with ctr := c.ctr } := by rw [← hcr]; rfl
    have hctr : ∀ k, tget 0 c.ctr k = tget 0 d.ctr k := fun k => by
      rw [← hcr]
      exact (Dev.tget_count_zero _ 0x2026 _ k).trans (Dev.tget_count_zero _ 0x2024 _ k)
    have hmac : ∀ m', c.mac m' = d.mac m' := fun m' => by rw [hc]; rfl
    refine ⟨?_, hctr, fun m' h => (c.mac_modMac_other _ h).trans (hmac m'), ?_⟩
    · show c.modMac m _ = _
      rw [hc]
      rfl
    · have hsame := (c.mac_modMac_same m (readWindow (d.num 0x2000 2 64) (1024 * (sensePairs (d.mac m).active.packing).length) [])).trans
        ((congrArg _ (hmac m)).trans hw)
      show (c.modMac m (readWindow (d.num 0x2000 2 64) (1024 * (sensePairs (d.mac m).active.packing).length) [])).mac m = _
      exact hsame.trans (by rw [show (ksumCurrent m 0 (c.modMac m _)).mac m = _ from hsame])

/-- A check step that may run: what its group and its signatures make of it. -/
theorem checkStepOp_groupA {v : Variant} {d : Dev} {m : Nat} (h : checkMay v d m = true) (hp : (d.mac m).ckPos % 2 = 0)
    (colErrs : List (Nat × Nat × Int)) (errs : List (Nat × Nat × Rat)) (ue : Bool) :
    checkStepOp v m colErrs errs ue d = (checkPaid m d).modMac m fun y =>
      y.checked (sumsA (d.mac m).active ((d.mac m).ckPos / 2) colErrs) (tget 0 d.hubTimer (hubOfMacro m)) := by
  unfold checkStepOp
  rw [h, Bool.not_true, if_neg Bool.false_ne_true]
  exact if_pos hp

theorem checkStepOp_agrees {v : Variant} {d : Dev} {m : Nat} (h : checkMay v d m = true) (hp : (d.mac m).ckPos % 2 = 1)
    {colErrs : List (Nat × Nat × Int)} (hs : signatureBad (d.mac m).active ((d.mac m).ckPos / 2) (d.mac m).ckSum colErrs = false) :
    checkStepOp v m colErrs [] false d = (checkCurrent m ((d.mac m).ckPos / 2) [] (checkPaid m d)).modMac m fun y =>
      y.checked [] (tget 0 d.hubTimer (hubOfMacro m)) := by
  unfold checkStepOp
  rw [h, Bool.not_true, if_neg Bool.false_ne_true]
  exact (if_neg (by omega)).trans ((if_neg Bool.false_ne_true).trans (if_neg (by rw [hs]; exact Bool.false_ne_true)))

theorem checkStepOp_differs {v : Variant} {d : Dev} {m : Nat} (h : checkMay v d m = true) (hp : (d.mac m).ckPos % 2 = 1)
    {colErrs : List (Nat × Nat × Int)} (hs : signatureBad (d.mac m).active ((d.mac m).ckPos / 2) (d.mac m).ckSum colErrs = true) :
    checkStepOp v m colErrs [] false d =
      ksumExact m ((checkCurrent m ((d.mac m).ckPos / 2) [] (checkPaid m d)).modMac m fun y => { y with ckDue := false }) := by
  unfold checkStepOp
  rw [h, Bool.not_true, if_neg Bool.false_ne_true]
  exact (if_neg (by omega)).trans ((if_neg Bool.false_ne_true).trans (if_pos hs))

/-- R437: a step of group A keeps its sums and goes on to group B. -/
theorem checkStep_groupA {s : State} {m : Nat} (h : checkMay s.variant s.dev m = true) (hp : (s.dev.mac m).ckPos % 2 = 0)
    (colErrs : List (Nat × Nat × Int)) (errs : List (Nat × Nat × Rat)) (ue : Bool) :
    ∃ t, exec (.checkStep m colErrs errs ue) s = .next t ∧
      t = s.on { s.dev with macros := t.dev.macros, pow := t.dev.pow, ctr := t.dev.ctr } ∧ OnlyMacro s.dev t.dev m ∧
      t.dev.mac m = (s.dev.mac m).checked (sumsA (s.dev.mac m).active ((s.dev.mac m).ckPos / 2) colErrs) (tget 0 s.dev.hubTimer (hubOfMacro m)) ∧
      (t.dev.mac m).ckPos = ((s.dev.mac m).ckPos + 1) % 8 ∧ (t.dev.mac m).ageMs = 0 ∧ (t.dev.mac m).ckDue = false ∧
      counterOf t.dev 0x5010 (ssFacet (facetOfMacro m)) = counterOf s.dev 0x5010 (ssFacet (facetOfMacro m)) + 1 ∧
      Paid s.dev t.dev (domWedge (wedgeOfMacro m)) checkEnergy 1 checkEnergy := by
  refine ⟨_, exec_checkStep .., ?_⟩
  simp only [State.on_dev]
  rw [checkStepOp_groupA h hp]
  have hfr := checkPaid_frame m s.dev
  have hmac := checkPaid_mac m s.dev
  have hctr := checkPaid_counted m s.dev (idx := 0x5010) (sub := ssFacet (facetOfMacro m)) (by unfold odKey; omega)
  have hpaid : Paid s.dev (checkPaid m s.dev) (domWedge (wedgeOfMacro m)) checkEnergy 1 checkEnergy := by
    obtain ⟨h1, h2, h3⟩ := paid_payBg m s.dev
    have hdom : (checkPaid m s.dev).dom = (payBg m s.dev).dom := by
      funext k
      rw [Dev.dom, Dev.dom, checkPaid_pow]
    exact ⟨by rw [hdom]; exact h1, fun k hk => by rw [hdom]; exact h2 k hk, by rw [checkPaid_pow]; exact h3⟩
  generalize checkPaid m s.dev = f at hfr hmac hctr hpaid ⊢
  rw [Dev.mac_modMac_same, hmac]
  refine ⟨by rw [hfr]; rfl, fun m' hm => (f.mac_modMac_other _ hm).trans (hmac m'), rfl, rfl, rfl, rfl, ?_, hpaid⟩
  refine hctr.trans ?_
  rw [counterOf, Dev.counted_count, if_pos rfl]
  rfl

section
variable {s : State} {m : Nat} {colErrs : List (Nat × Nat × Int)}

/-- The block after the reads of group B, before its signatures are compared: paid for and counted, the macro's window moved on. -/
structure ReadsDone (m : Nat) (d e : Dev) : Prop where
  frame : e = { d with macros := e.macros, pow := e.pow, ctr := e.ctr }
  counter : counterOf e 0x5012 (ssFacet (facetOfMacro m)) = counterOf d 0x5012 (ssFacet (facetOfMacro m))
  other : OnlyMacro d e m
  mac : e.mac m = { d.mac m with recReads := (e.mac m).recReads, recAmb := (e.mac m).recAmb, recReq := (e.mac m).recReq }

theorem readsDone_checkCurrent (m pat : Nat) (d : Dev) : ReadsDone m d (checkCurrent m pat [] (checkPaid m d)) := by
  have hfr := checkPaid_frame m d
  have hmac := checkPaid_mac m d
  have hctr : counterOf (checkPaid m d) 0x5012 (ssFacet (facetOfMacro m)) = counterOf d 0x5012 (ssFacet (facetOfMacro m)) := by
    rw [checkPaid_counted m d (by unfold odKey; omega), counterOf, Dev.counted_count, if_neg (by unfold odKey; omega)]
    rfl
  generalize checkPaid m d = f at hfr hmac hctr ⊢
  obtain ⟨hf, hc, ho, hm⟩ := readsQuiet_checkCurrent m pat f
  refine ⟨by rw [hf, hfr], (hc _).trans hctr, fun m' h => (ho m' h).trans (hmac m'), by rw [hmac m] at hm; exact hm⟩

/-- R438: signatures that agree let the checks go on to the next pattern. -/
theorem checkStep_agrees (h : checkMay s.variant s.dev m = true) (hp : (s.dev.mac m).ckPos % 2 = 1)
    (hs : signatureBad (s.dev.mac m).active ((s.dev.mac m).ckPos / 2) (s.dev.mac m).ckSum colErrs = false) :
    ∃ t, exec (.checkStep m colErrs [] false) s = .next t ∧
      t = s.on { s.dev with macros := t.dev.macros, pow := t.dev.pow, ctr := t.dev.ctr } ∧ OnlyMacro s.dev t.dev m ∧
      (t.dev.mac m).ckPos = ((s.dev.mac m).ckPos + 1) % 8 ∧ (t.dev.mac m).ckSum = [] ∧ (t.dev.mac m).ageMs = 0 ∧
      (t.dev.mac m).bankA = (s.dev.mac m).bankA ∧ (t.dev.mac m).bankB = (s.dev.mac m).bankB ∧
      (t.dev.mac m).reload = (if (s.dev.mac m).ckRound = 1 then false else (s.dev.mac m).reload) := by
  refine ⟨_, exec_checkStep .., ?_⟩
  simp only [State.on_dev]
  rw [checkStepOp_agrees h hp hs]
  obtain ⟨hfr, -, ho, hm⟩ := readsDone_checkCurrent m ((s.dev.mac m).ckPos / 2) s.dev
  generalize checkCurrent m ((s.dev.mac m).ckPos / 2) [] (checkPaid m s.dev) = f at hfr ho hm ⊢
  rw [Dev.mac_modMac_same, hm]
  exact ⟨by rw [hfr]; rfl, fun m' hm' => (f.mac_modMac_other _ hm').trans (ho m' hm'), rfl, rfl, rfl, rfl, rfl, rfl⟩

/-- What KSUM_EXACT leaves of the macro (order 1 of Table 16.2). -/
def Macro.faulted (x : Macro) : Macro :=
  if x.ckRound != 0 then { x with retire := true, reload := false, ckRound := 0, ckPos := 0, ckSum := [] }
  else { x with reload := true, ckPos := 0, ckSum := [] }

/-- A mismatch counted and posted. -/
def faultTold (m : Nat) (d : Dev) : Dev :=
  (d.count 0x5012 (ssFacet (facetOfMacro m)) 1).post evKsumExact (hubOfMacro m) (macroTarget m) [(4, checkAge d m)]

/-- The tiles that a mismatch discards. -/
def faultTile (m : Nat) (d : Dev) (t : Tile) : Bool := (tileMacros d t.inst t.prm t.gj).contains m && t.uncommitted

theorem ksumExact_eq (m : Nat) (d : Dev) :
    ksumExact m d = (loseTiles (faultTile m (faultTold m d)) (fun _ => false) (faultTold m d)).modMac m Macro.faulted := rfl

theorem faultTold_frame (m : Nat) (d : Dev) : faultTold m d = { d with ctr := (faultTold m d).ctr, log := (faultTold m d).log } := rfl

theorem faultTold_event (m : Nat) (d : Dev) :
    ∃ e ∈ (faultTold m d).log.way, e.code = evKsumExact ∧ e.unit = macroTarget m ∧ e.hub = hubOfMacro m :=
  ⟨_, List.mem_append_right _ (List.mem_singleton.mpr rfl), rfl, rfl, rfl⟩

theorem faultTold_counted (m : Nat) (d : Dev) :
    counterOf (faultTold m d) 0x5012 (ssFacet (facetOfMacro m)) = counterOf d 0x5012 (ssFacet (facetOfMacro m)) + 1 :=
  (d.counted_count 0x5012 (ssFacet (facetOfMacro m)) 1 _).trans (by rw [if_pos rfl]; rfl)

theorem tileMacros_congr {d e : Dev} (h : e.mats = d.mats) (t : TInst) (p : Param) (gj : Nat) : tileMacros e t p gj = tileMacros d t p gj := by
  unfold tileMacros Dev.matOf
  rw [h]

/-- R439, R441: signatures that differ are a fault. -/
theorem checkStep_differs (h : checkMay s.variant s.dev m = true) (hp : (s.dev.mac m).ckPos % 2 = 1)
    (hs : signatureBad (s.dev.mac m).active ((s.dev.mac m).ckPos / 2) (s.dev.mac m).ckSum colErrs = true) :
    ∃ t, exec (.checkStep m colErrs [] false) s = .next t ∧
      t = s.on { s.dev with macros := t.dev.macros, wedges := t.dev.wedges, engines := t.dev.engines, quants := t.dev.quants,
                            pairs := t.dev.pairs, issues := t.dev.issues, coal := t.dev.coal, tiles := t.dev.tiles,
                            remote := t.dev.remote, outVecs := t.dev.outVecs, spans := t.dev.spans, jobs := t.dev.jobs,
                            mem := { s.dev.mem with waiting := t.dev.mem.waiting }, ctr := t.dev.ctr, log := t.dev.log, pow := t.dev.pow } ∧
      counterOf t.dev 0x5012 (ssFacet (facetOfMacro m)) = counterOf s.dev 0x5012 (ssFacet (facetOfMacro m)) + 1 ∧
      (∃ e ∈ t.dev.log.way, e.code = evKsumExact ∧ e.unit = macroTarget m ∧ e.hub = hubOfMacro m) ∧
      (∀ x ∈ t.dev.tiles, x ∈ s.dev.tiles ∧ ((tileMacros s.dev x.inst x.prm x.gj).contains m = true → x.stage = .writing)) ∧
      (if (s.dev.mac m).ckRound = 0 then (t.dev.mac m).reload = true
       else (t.dev.mac m).retire = true ∧ (t.dev.mac m).reload = false) := by
  refine ⟨_, exec_checkStep .., ?_⟩
  simp only [State.on_dev]
  rw [checkStepOp_differs h hp hs]
  obtain ⟨hfr, hctr, -, hm⟩ := readsDone_checkCurrent m ((s.dev.mac m).ckPos / 2) s.dev
  generalize checkCurrent m ((s.dev.mac m).ckPos / 2) [] (checkPaid m s.dev) = f at hfr hctr hm ⊢
  have hg : ∃ g, g = f.modMac m fun y => { y with ckDue := false } := ⟨_, rfl⟩
  obtain ⟨g, hg⟩ := hg
  have hgfr : g = { s.dev with macros := g.macros, pow := g.pow, ctr := g.ctr } := by rw [hg, hfr]; rfl
  have hgm : g.mac m = { f.mac m with ckDue := false } := by rw [hg, Dev.mac_modMac_same]
  have hgctr : counterOf g 0x5012 (ssFacet (facetOfMacro m)) = counterOf s.dev 0x5012 (ssFacet (facetOfMacro m)) := by rw [← hctr, hg]; rfl
  rw [hm] at hgm
  have hlost := tilesLost_loseTiles (faultTile m (faultTold m g)) (fun _ => false) (faultTold m g)
  have htold := faultTold_frame m g
  have hev := faultTold_event m g
  have hcnt := (faultTold_counted m g).trans (congrArg (· + 1) hgctr)
  rw [← hg, ksumExact_eq]
  generalize htd : faultTold m g = u at hlost htold hev hcnt ⊢
  have hum : u.mac m = g.mac m := by rw [htold]; rfl
  have hmats : u.mats = s.dev.mats := by rw [htold, hgfr]
  generalize loseTiles (faultTile m u) (fun _ => false) u = w at hlost ⊢
  have hwm : w.mac m = u.mac m ∨ w.mac m = { u.mac m with blk := none } := hlost.mac m fun h0 => by
    have h1 : (u.mac m).ckPos = 0 := congrArg Macro.ckPos h0
    rw [hum, hgm] at h1
    have h2 : (s.dev.mac m).ckPos = 0 := h1
    omega
  have hwr : (w.mac m).ckRound = (s.dev.mac m).ckRound := by
    rcases hwm with h1 | h1
    · rw [h1, hum, hgm]
    · rw [h1, hum, hgm]
  refine ⟨?_, ?_, ?_, fun x hx => ?_, ?_⟩
  · rw [hlost.frame, htold, hgfr]
    rfl
  · rw [← hcnt, hlost.frame]
    rfl
  · rw [hlost.frame]
    exact hev
  · obtain ⟨hmem, hhit⟩ := hlost.left x hx
    refine ⟨by rw [htold, hgfr] at hmem; exact hmem, fun hc => ?_⟩
    have hin : (tileMacros u x.inst x.prm x.gj).contains m = true := (congrArg (·.contains m) (tileMacros_congr hmats ..)).trans hc
    rw [faultTile, hin, Bool.true_and, Tile.uncommitted, bne_eq_false_iff_eq] at hhit
    exact hhit
  · rw [Dev.mac_modMac_same, Macro.faulted, hwr]
    split
    · next h0 => rw [if_neg (by simp [h0])]
    · next h0 => rw [if_pos (by simp [h0])]; exact ⟨rfl, rfl⟩

end

theorem checkAge_passed {s : State} {m ms : Nat} (hm : macServes s.variant s.dev m = true) (h : s.dev.num 0x5000 1 4000 < ms) :
    (ckSuspended s.dev m = true → exec (.checkAgeExpiry m ms) s = .next s) ∧
    (ckSuspended s.dev m = false → ∃ t, exec (.checkAgeExpiry m ms) s = .next t ∧ t = s.on { s.dev with macros := t.dev.macros } ∧ OnlyMacro s.dev t.dev m ∧
      t.dev.mac m = { s.dev.mac m with ckDue := true, ageMs := ms, ckAt := tget 0 s.dev.hubTimer (hubOfMacro m) }) := by
  refine ⟨fun hs => ?_, fun hs => ⟨_, exec_checkAgeExpiry .., ?_⟩⟩
  · rw [exec_checkAgeExpiry, checkAgeOp, hs, Bool.not_true, Bool.and_false, if_neg Bool.false_ne_true]
    rfl
  · simp only [State.on_dev]
    rw [checkAgeOp, hm, hs, decide_eq_true h, show (true && true && !false) = true from rfl, if_pos rfl]
    exact ⟨rfl, fun m' h' => s.dev.mac_modMac_other _ h', s.dev.mac_modMac_same ..⟩

/-- R440: an idle macro runs a check step. -/
theorem idleCheck_runs {s : State} {m us : Nat} (hf : slotFree s.dev m = true) (h : s.dev.num 0x5000 2 10000 ≤ us)
    (hmay : checkMay s.variant s.dev m = true) :
    ∃ t, exec (.idleCheckInterval m us) s = .next t ∧ exec (.checkStep m [] [] false) s = .next t ∧
      ((s.dev.mac m).ckPos % 2 = 0 → (t.dev.mac m).ckPos = ((s.dev.mac m).ckPos + 1) % 8) := by
  refine ⟨_, ?_, exec_checkStep .., fun hp => ?_⟩
  · rw [exec_idleCheckInterval, idleCheckOp, hf, decide_eq_true h]
    rfl
  · obtain ⟨t, ht, -, -, -, hpos, -⟩ := checkStep_groupA hmay hp [] [] false
    rw [exec_checkStep] at ht
    cases ht
    exact hpos

/-- Settles O48: each end of a check step is what the paid step, its reads and its signatures make of the macro; a fault discards the tiles that name
the macro and have not committed. -/
theorem checksRunOrCatchFaults : Obligations.ChecksRunOrCatchFaults :=
  ⟨fun _ _ colErrs errs ue h hp => checkStep_groupA h hp colErrs errs ue,
   fun _ _ _ h hp => ⟨checkStep_agrees h hp, checkStep_differs h hp⟩,
   fun _ _ _ hm h => checkAge_passed hm h,
   fun _ _ _ hf h hmay => idleCheck_runs hf h hmay⟩

end Sys2Proof.Machine

/-!
PROOFS for calibration (R77, R78, R446, R449): its request, its steps and what its end marks.
-/
namespace Sys2Proof.Machine

open Sys2Proof

theorem exec_calibrationRequest (s : State) (m since drift : Nat) :
    exec (.calibrationRequest m since drift) s = .next (s.on (calRequestOp s.variant m since drift s.dev)) := rfl

theorem exec_calibrationWaitExpiry (s : State) (m waited : Nat) :
    exec (.calibrationWaitExpiry m waited) s = .next (s.on (calWaitOp m waited s.dev)) := rfl

theorem exec_calibrationStep (s : State) (m : Nat) (measured : List (Nat × Nat × Rat)) :
    exec (.calibrationStep m measured) s = .next (s.on (calStepOp s.variant m measured s.dev)) := rfl

theorem exec_calibrationComplete (s : State) (m : Nat) :
    exec (.calibrationComplete m) s = .next (s.on (calCompleteOp s.variant m s.dev)) := rfl

section
variable {s : State} {m : Nat}

theorem calibration_requested {since drift : Nat} (hm : macServes s.variant s.dev m = true)
    (h : s.dev.num 0x5001 1 600 ≤ since ∨ s.dev.num 0x5001 2 20 < drift) :
    ∃ t, exec (.calibrationRequest m since drift) s = .next t ∧ t = s.on { s.dev with macros := t.dev.macros } ∧
      OnlyMacro s.dev t.dev m ∧
      t.dev.mac m = { s.dev.mac m with cal := { (s.dev.mac m).cal with req := true }, calAgeS := since } := by
  have hop : calRequestOp s.variant m since drift s.dev =
      s.dev.modMac m fun x => { x with cal := { x.cal with req := true }, calAgeS := since } :=
    if_pos (by rw [hm, Bool.true_and, Bool.or_eq_true, decide_eq_true_iff, decide_eq_true_iff]; exact h)
  refine ⟨_, exec_calibrationRequest .., ?_⟩
  simp only [State.on_dev]
  rw [hop]
  exact ⟨rfl, fun _ h' => s.dev.mac_modMac_other _ h', s.dev.mac_modMac_same ..⟩

theorem calibration_forced {waited : Nat} (hr : (s.dev.mac m).cal.req = true) (h : s.dev.num 0x5001 3 4000 < waited) :
    ∃ t, exec (.calibrationWaitExpiry m waited) s = .next t ∧ t = s.on { s.dev with macros := t.dev.macros } ∧
      OnlyMacro s.dev t.dev m ∧ t.dev.mac m = { s.dev.mac m with cal := { (s.dev.mac m).cal with forced := true } } := by
  have hop : calWaitOp m waited s.dev = s.dev.modMac m fun x => { x with cal := { x.cal with forced := true } } :=
    if_pos (by rw [hr, decide_eq_true h]; rfl)
  refine ⟨_, exec_calibrationWaitExpiry .., ?_⟩
  simp only [State.on_dev]
  rw [hop]
  exact ⟨rfl, fun _ h' => s.dev.mac_modMac_other _ h', s.dev.mac_modMac_same ..⟩

/-! ### A step -/

/-- What a step makes of its macro. -/
def Macro.measured (tol : Nat) (l : List (Nat × Nat × Rat)) (y : Macro) : Macro :=
  { y with
    forcedDone := y.forcedDone || y.cal.forced
    cal := { y.cal with
      steps := y.cal.steps + 1
      meas := l.foldl (fun (t : Tab Rat) e => tput 0 t (e.1 * 16 + e.2.1) (max (tget 0 t (e.1 * 16 + e.2.1)) (absQ e.2.2))) y.cal.meas
      tol := if y.cal.steps = 0 then tol else y.cal.tol } }

/-- A step paid for, and counted when it was forced. -/
def calPaid (m : Nat) (d : Dev) : Dev :=
  if (d.mac m).cal.forced then (payBg m d).count 0x5011 (ssFacet (facetOfMacro m)) 1 else payBg m d

theorem calStepOp_of_may {v : Variant} {d : Dev} (h : calMay v d m = true) (l : List (Nat × Nat × Rat)) :
    calStepOp v m l d = (calPaid m d).modMac m fun y => y.measured (d.num 0x2001 1 2) l := by
  unfold calStepOp
  rw [h, Bool.not_true, if_neg Bool.false_ne_true]
  rfl

theorem calPaid_frame (m : Nat) (d : Dev) : calPaid m d = { d with pow := (calPaid m d).pow, ctr := (calPaid m d).ctr } := by
  rw [calPaid, payBg_frame]
  split <;> rfl

theorem calPaid_pow (m : Nat) (d : Dev) : (calPaid m d).pow = (payBg m d).pow := by
  rw [calPaid]
  split <;> rfl

theorem calPaid_counts (m : Nat) (d : Dev) :
    if (d.mac m).cal.forced then Counted d (calPaid m d) 0x5011 (ssFacet (facetOfMacro m)) 1 else (calPaid m d).ctr = d.ctr := by
  rw [calPaid, payBg_frame]
  split
  · exact Dev.counted_count { d with pow := (payBg m d).pow } 0x5011 (ssFacet (facetOfMacro m)) 1
  · rfl

/-- R77: a step keeps the largest error of each column. -/
theorem calibration_steps (u c : Nat) (x : Rat) (h : calMay s.variant s.dev m = true) :
    ∃ t, exec (.calibrationStep m [(u, c, x)]) s = .next t ∧
      t = s.on { s.dev with macros := t.dev.macros, pow := t.dev.pow, ctr := t.dev.ctr } ∧ OnlyMacro s.dev t.dev m ∧
      (t.dev.mac m).cal.steps = (s.dev.mac m).cal.steps + 1 ∧
      (t.dev.mac m).cal.tol = (if (s.dev.mac m).cal.steps = 0 then s.dev.num 0x2001 1 2 else (s.dev.mac m).cal.tol) ∧
      tget 0 (t.dev.mac m).cal.meas (u * 16 + c) = max (tget 0 (s.dev.mac m).cal.meas (u * 16 + c)) (absQ x) ∧
      Paid s.dev t.dev (domWedge (wedgeOfMacro m)) checkEnergy 1 checkEnergy ∧
      (if (s.dev.mac m).cal.forced then Counted s.dev t.dev 0x5011 (ssFacet (facetOfMacro m)) 1 else t.dev.ctr = s.dev.ctr) := by
  refine ⟨_, exec_calibrationStep .., ?_⟩
  simp only [State.on_dev]
  rw [calStepOp_of_may h]
  have hfr := calPaid_frame m s.dev
  have hpow := calPaid_pow m s.dev
  have hcounts := calPaid_counts m s.dev
  generalize calPaid m s.dev = f at hfr hpow hcounts ⊢
  have hmac : ∀ m', f.mac m' = s.dev.mac m' := fun m' => by rw [hfr]; rfl
  have hpaid : Paid s.dev f (domWedge (wedgeOfMacro m)) checkEnergy 1 checkEnergy := by
    obtain ⟨h1, h2, h3⟩ := paid_payBg m s.dev
    have hdom : f.dom = (payBg m s.dev).dom := funext fun k => by rw [Dev.dom, Dev.dom, hpow]
    exact ⟨by rw [hdom]; exact h1, fun k hk => by rw [hdom]; exact h2 k hk, by rw [hpow]; exact h3⟩
  rw [Dev.mac_modMac_same, hmac]
  exact ⟨by rw [hfr]; rfl, fun m' hm => (f.mac_modMac_other _ hm).trans (hmac m'), rfl, rfl, tget_tput_same .., hpaid, hcounts⟩

/-! ### Its end -/

theorem succeeds_frame (d : Dev) (id result : Nat) : d.succeeds id result = { d with cmds := (d.succeeds id result).cmds, comps := (d.succeeds id result).comps } := by
  cases hc : d.cmdOf id with
  | none =>
    have h : d.succeeds id result = d := by rw [Dev.succeeds, Dev.finish, hc]
    rw [h]
  | some c => rw [Dev.succeeds_eq hc]

/-- The CALIBRATE commands that waited for the macro end or wait for fewer. -/
theorem settleCal_frame (m : Nat) (d : Dev) : settleCal m d = { d with cmds := (settleCal m d).cmds, comps := (settleCal m d).comps } := by
  rw [settleCal]
  refine List.foldlRecOn (motive := fun x : Dev => x = { d with cmds := x.cmds, comps := x.comps }) _ _ rfl fun x hx c _ => ?_
  split
  · rw [succeeds_frame, hx]
  · rw [hx]

theorem tfind_tsets_other {α : Type} {l : Tab α} {k : Nat} (hk : ∀ e ∈ l, k ≠ e.1) (t : Tab α) :
    tfind (l.foldl (fun (t : Tab α) e => tset t e.1 e.2) t) k = tfind t k :=
  List.foldlRecOn (motive := fun x : Tab α => tfind x k = tfind t k) _ _ rfl fun x hx e he => (tfind_tset_other x e.2 (hk e he)).trans hx

theorem mem_tset {α : Type} {t : Tab α} {k : Nat} {x : α} {e : Nat × α} (h : e ∈ tset t k x) : e = (k, x) ∨ e ∈ t := by
  induction t with
  | nil => exact .inl (List.mem_singleton.mp h)
  | cons a t ih =>
    obtain ⟨k', x'⟩ := a
    rw [tset] at h
    split at h
    · exact List.mem_cons.mp h
    · split at h
      · exact (List.mem_cons.mp h).imp_right (List.mem_cons_of_mem _)
      · rcases List.mem_cons.mp h with h | h
        · exact .inr (by rw [h]; exact List.mem_cons_self)
        · exact (ih h).imp_right (List.mem_cons_of_mem _)

theorem keptMarks_fst (x : Macro) (old : Tab Mark) (found : List Mark) : (keptMarks x old found).map Prod.fst = old.map Prod.fst := by
  rw [keptMarks, List.map_map]
  refine List.map_congr_left fun e _ => ?_
  rw [Function.comp_apply]
  split <;> rfl

/-- The entries of a slot stand at the slot's places. -/
theorem putMarks_places {slot : Nat} {kept : Tab Mark} (hk : ∀ e ∈ kept, e.1 / 8 = slot) (new : List Mark) : ∀ e ∈ putMarks slot kept new, e.1 / 8 = slot := by
  rw [putMarks]
  refine List.foldlRecOn (motive := fun t : Tab Mark => ∀ e ∈ t, e.1 / 8 = slot) _ _ hk fun t ht a ha e he => ?_
  rcases mem_tset he with h | h
  · rw [h]
    have hkey := (List.of_mem_zip ha).1
    simp only [List.mem_append, List.mem_filter, List.mem_map, List.mem_range] at hkey
    rcases hkey with ⟨⟨i, hi, hki⟩, -⟩ | ⟨⟨i, hi, hki⟩, -⟩
    · omega
    · omega
  · exact ht e h

theorem keptMarks_places (d : Dev) (m : Nat) (x : Macro) (found : List Mark) : ∀ e ∈ keptMarks x (slotMarks d m) found, e.1 / 8 = slotOf d m := by
  intro e he
  have h1 : e.1 ∈ (slotMarks d m).map Prod.fst := keptMarks_fst x (slotMarks d m) found ▸ List.mem_map_of_mem he
  obtain ⟨e', he', hk⟩ := List.mem_map.mp h1
  rw [← hk]
  exact of_decide_eq_true (List.mem_filter.mp he').2

/-- The marks that governed the tiles issued before a calibration takes effect. -/
def pastAfter (m : Nat) (d : Dev) : List MarkPast :=
  if d.tiles.isEmpty then []
  else (d.mac m).past.filter (fun e => d.tiles.any fun t => decide (t.id < e.below)) ++
    [{ below := d.nextTile, marks := marksFor d m d.nextTile, xoOver := (d.mac m).xoOver }]

/-- A tile that was issued keeps the marks that governed it (R77). -/
theorem pastAfter_governs (m : Nat) {d : Dev} {tile : Tile} (ht : tile ∈ d.tiles) (hid : tile.id < d.nextTile) :
    ∃ e, (pastAfter m d).find? (fun e => tile.id < e.below) = some e ∧ e.marks = marksFor d m tile.id := by
  have hne : d.tiles.isEmpty = false := by
    rw [List.isEmpty_eq_false_iff]
    exact List.ne_nil_of_mem ht
  have hlive : ((d.mac m).past.filter fun e => d.tiles.any fun t => decide (t.id < e.below)).find? (fun e => tile.id < e.below) =
      (d.mac m).pastOf tile.id := by
    rw [List.find?_filter, Macro.pastOf]
    congr 1
    funext e
    by_cases he : tile.id < e.below
    · have hany : d.tiles.any (fun t => decide (t.id < e.below)) = true := List.any_eq_true.mpr ⟨tile, ht, decide_eq_true he⟩
      simp [he, hany]
    · simp [he]
  rw [pastAfter, hne, if_neg Bool.false_ne_true, List.find?_append, hlive]
  cases hp : (d.mac m).pastOf tile.id with
  | some e => exact ⟨e, rfl, by rw [marksFor, hp]⟩
  | none =>
    have hlater : (d.mac m).pastOf d.nextTile = none := by
      rw [Macro.pastOf, List.find?_eq_none] at hp ⊢
      intro e he
      have := hp e he
      simp only [decide_eq_true_eq, not_lt] at this ⊢
      omega
    exact ⟨{ below := d.nextTile, marks := marksFor d m d.nextTile, xoOver := (d.mac m).xoOver },
      by simp [hid], by rw [marksFor, marksFor, hp, hlater]⟩

/-- The entries of a macro's slot after its calibration, those before it left out. -/
def calKept (m : Nat) (d : Dev) : Tab Mark := keptMarks (d.mac m) (slotMarks d m) (outOfTol d m)

def calNew (m : Nat) (d : Dev) : List Mark := newMarks (slotMarks d m) (outOfTol d m)

def calMarks (m : Nat) (d : Dev) : Tab Mark :=
  if markSpill (calKept m d) (calNew m d) then (d.wedge (wedgeOfMacro m)).marks
  else (putMarks (slotOf d m) (calKept m d) (calNew m d)).foldl (fun (t : Tab Mark) e => tset t e.1 e.2)
    (tdrop (fun k => k / 8 = slotOf d m) (d.wedge (wedgeOfMacro m)).marks)

/-- What a calibration found, in effect. -/
structure CalApplied (m : Nat) (d e : Dev) : Prop where
  frame : e = { d with macros := e.macros, wedges := e.wedges, log := e.log }
  other : OnlyMacro d e m
  mac : e.mac m = { d.mac m with past := pastAfter m d, xoOver := markSpill (calKept m d) (calNew m d) }
  wedges : ∀ w, w ≠ wedgeOfMacro m → e.wedge w = d.wedge w
  wedge : e.wedge (wedgeOfMacro m) = { d.wedge (wedgeOfMacro m) with marks := calMarks m d }
  told : if markSpill (calKept m d) (calNew m d) then Posted d e evMarkOverflow (hubOfMacro m) (macroTarget m) [] else e.log = d.log

/-- What the end of a calibration leaves of its macro's marks. -/
def Macro.marked (past : List MarkPast) (spill : Bool) (y : Macro) : Macro := { y with past := past, xoOver := spill }

theorem applyCal_eq (m : Nat) (d : Dev) : applyCal m d =
    if markSpill (calKept m d) (calNew m d) then
      (d.modMac m (Macro.marked (pastAfter m d) (markSpill (calKept m d) (calNew m d)))).post evMarkOverflow (hubOfMacro m) (macroTarget m) []
    else
      (d.modMac m (Macro.marked (pastAfter m d) (markSpill (calKept m d) (calNew m d)))).modWedge (wedgeOfMacro m) fun g =>
        { g with marks := (putMarks (slotOf d m) (calKept m d) (calNew m d)).foldl (fun (t : Tab Mark) e => tset t e.1 e.2)
                            (tdrop (fun k => k / 8 = slotOf d m) g.marks) } := rfl

theorem calApplied_applyCal (m : Nat) (d : Dev) : CalApplied m d (applyCal m d) := by
  have hfr : d.modMac m (Macro.marked (pastAfter m d) (markSpill (calKept m d) (calNew m d))) = { d with macros := _ } := rfl
  have hother : OnlyMacro d (d.modMac m (Macro.marked (pastAfter m d) (markSpill (calKept m d) (calNew m d)))) m := fun _ h => d.mac_modMac_other _ h
  have hmac := d.mac_modMac_same m (Macro.marked (pastAfter m d) (markSpill (calKept m d) (calNew m d)))
  rw [applyCal_eq]
  generalize d.modMac m (Macro.marked (pastAfter m d) (markSpill (calKept m d) (calNew m d))) = f at hfr hother hmac ⊢
  split
  · next hs =>
    exact ⟨by rw [hfr]; rfl, hother, hmac, fun w _ => by rw [hfr]; rfl, by rw [calMarks, if_pos hs, hfr]; rfl, by rw [if_pos hs, hfr]; rfl⟩
  · next hs =>
    exact ⟨by rw [hfr]; rfl, hother, hmac, fun w hw => by rw [Dev.wedge_modWedge, if_neg hw, hfr]; rfl,
      by rw [Dev.wedge_modWedge, if_pos rfl, calMarks, if_neg hs, hfr]; rfl, by rw [if_neg hs, hfr]; rfl⟩

theorem calMarks_other (m : Nat) (d : Dev) {key : Nat} (hk : key / 8 ≠ slotOf d m) :
    tfind (calMarks m d) key = tfind (d.wedge (wedgeOfMacro m)).marks key := by
  rw [calMarks]
  split
  · rfl
  · rw [tfind_tsets_other fun e he h => hk (by rw [h]; exact putMarks_places (keptMarks_places d m _ _) _ e he), tfind_filter, if_neg (by simpa using hk)]

/-- What the end of a calibration leaves of its macro besides its marks; `may` and `spares` allow its retirement (R446). -/
def Macro.calibrated (may spares : Bool) (y : Macro) : Macro :=
  { y with cal := { ({} : Calib) with req := false }, calAgeS := 0, xoUncal := false, xoKsum := none, recReads := 0, recAmb := 0, recReq := false,
           retire := y.retire || (y.xoOver && may && spares) }

def wedgeTold (w : Nat) (d : Dev) : Dev := if wedgeCalibrated d w then d.modWedge w fun g => { g with uncal := false } else d

theorem calCompleteOp_of_done {v : Variant} {d : Dev} (hm : macServes v d m = true) (hr : (d.mac m).cal.req = true) (h : 32 ≤ (d.mac m).cal.steps) :
    calCompleteOp v m d = settleCal m (wedgeTold (wedgeOfMacro m) (((applyCal m d).modMac m
      (Macro.calibrated (decide (d.num 0x5003 1 1 = 1)) (decide (d.num 0x5003 2 1 < (d.wedge (wedgeOfMacro m)).spares.length)))).count
        0x5019 (ssFacet (facetOfMacro m)) 1)) :=
  if_neg (by rw [hm, hr, decide_eq_false (by omega)]; exact Bool.false_ne_true)

theorem wedgeTold_frame (w : Nat) (d : Dev) : wedgeTold w d = { d with wedges := (wedgeTold w d).wedges } := by
  rw [wedgeTold]
  split <;> rfl

theorem wedgeTold_wedge (w : Nat) (d : Dev) :
    (∀ w', w' ≠ w → (wedgeTold w d).wedge w' = d.wedge w') ∧ (wedgeTold w d).wedge w = { d.wedge w with uncal := ((wedgeTold w d).wedge w).uncal } := by
  rw [wedgeTold]
  split
  · exact ⟨fun w' h => by rw [Dev.wedge_modWedge, if_neg h], by rw [Dev.wedge_modWedge, if_pos rfl]⟩
  · exact ⟨fun _ _ => rfl, rfl⟩

/-- R77, R78, R446, R449: the end of a calibration. -/
theorem calibration_completes (hm : macServes s.variant s.dev m = true) (hr : (s.dev.mac m).cal.req = true) (h : 32 ≤ (s.dev.mac m).cal.steps) :
    ∃ t, exec (.calibrationComplete m) s = .next t ∧
      t = s.on { s.dev with macros := t.dev.macros, wedges := t.dev.wedges, log := t.dev.log, ctr := t.dev.ctr, cmds := t.dev.cmds,
                            comps := t.dev.comps } ∧
      OnlyMacro s.dev t.dev m ∧ (t.dev.mac m).cal.req = false ∧ (t.dev.mac m).cal.steps = 0 ∧ (t.dev.mac m).xoUncal = false ∧
      (t.dev.mac m).xoKsum = none ∧
      (let x := s.dev.mac m
       let w := wedgeOfMacro m
       let slot := slotOf s.dev m
       let found := outOfTol s.dev m
       let kept := keptMarks x (slotMarks s.dev m) found
       let new := newMarks (slotMarks s.dev m) found
       let spill := markSpill kept new
       (t.dev.mac m).xoOver = spill ∧
       (t.dev.mac m).retire =
         (x.retire || (spill && decide (s.dev.num 0x5003 1 1 = 1) && decide (s.dev.num 0x5003 2 1 < (s.dev.wedge w).spares.length))) ∧
       (∀ w', w' ≠ w → t.dev.wedge w' = s.dev.wedge w') ∧
       t.dev.wedge w = { s.dev.wedge w with marks := (t.dev.wedge w).marks, uncal := (t.dev.wedge w).uncal } ∧
       (∀ key, key / 8 ≠ slot → tfind (t.dev.wedge w).marks key = tfind (s.dev.wedge w).marks key) ∧
       (if spill then (t.dev.wedge w).marks = (s.dev.wedge w).marks ∧
          Posted s.dev t.dev evMarkOverflow (hubOfMacro m) (macroTarget m) []
        else t.dev.log = s.dev.log ∧ (t.dev.wedge w).marks =
          (putMarks slot kept new).foldl (fun (t : Tab Mark) e => tset t e.1 e.2) (tdrop (fun k => k / 8 = slot) (s.dev.wedge w).marks)) ∧
       (∀ tile ∈ s.dev.tiles, tile.id < s.dev.nextTile → marksFor t.dev m tile.id = marksFor s.dev m tile.id)) ∧
      counterOf t.dev 0x5019 (ssFacet (facetOfMacro m)) = counterOf s.dev 0x5019 (ssFacet (facetOfMacro m)) + 1 := by
  refine ⟨_, exec_calibrationComplete .., ?_⟩
  simp only [State.on_dev]
  rw [calCompleteOp_of_done hm hr h]
  obtain ⟨hafr, haother, hamac, hawedges, hawedge, hatold⟩ := calApplied_applyCal m s.dev
  have hmarks := fun key hk => calMarks_other m s.dev (key := key) hk
  generalize applyCal m s.dev = a at hafr haother hamac hawedges hawedge hatold ⊢
  generalize hc : (a.modMac m (Macro.calibrated (decide (s.dev.num 0x5003 1 1 = 1))
    (decide (s.dev.num 0x5003 2 1 < (s.dev.wedge (wedgeOfMacro m)).spares.length)))).count 0x5019 (ssFacet (facetOfMacro m)) 1 = c
  have hcfr : c = { a with macros := c.macros, ctr := c.ctr } := by rw [← hc]; rfl
  have hcmac : c.mac m = Macro.calibrated (decide (s.dev.num 0x5003 1 1 = 1))
      (decide (s.dev.num 0x5003 2 1 < (s.dev.wedge (wedgeOfMacro m)).spares.length)) (a.mac m) := by
    rw [← hc]
    exact a.mac_modMac_same ..
  have hcother : OnlyMacro a c m := fun m' hm' => by
    rw [← hc]
    exact a.mac_modMac_other _ hm'
  have hcctr : counterOf c 0x5019 (ssFacet (facetOfMacro m)) = counterOf a 0x5019 (ssFacet (facetOfMacro m)) + 1 := by
    rw [← hc]
    exact (Dev.counted_count _ 0x5019 _ 1 _).trans (by rw [if_pos rfl]; rfl)
  have htfr := wedgeTold_frame (wedgeOfMacro m) c
  obtain ⟨htother, htwedge⟩ := wedgeTold_wedge (wedgeOfMacro m) c
  generalize wedgeTold (wedgeOfMacro m) c = u at htfr htother htwedge ⊢
  have hsfr := settleCal_frame m u
  generalize settleCal m u = z at hsfr ⊢
  have hzmac : ∀ m', z.mac m' = c.mac m' := fun m' => by rw [hsfr, htfr]; rfl
  have hzw : ∀ w, z.wedge w = u.wedge w := fun w => by rw [hsfr]; rfl
  have hcw : ∀ w, c.wedge w = a.wedge w := fun w => by rw [hcfr]; rfl
  have hzmarks : (z.wedge (wedgeOfMacro m)).marks = calMarks m s.dev := by rw [hzw, htwedge, hcw, hawedge]
  have hzlog : z.log = a.log := by rw [hsfr, htfr, hcfr]
  refine ⟨by rw [hsfr, htfr, hcfr, hafr], fun m' hm' => (hzmac m').trans ((hcother m' hm').trans (haother m' hm')), by rw [hzmac, hcmac]; rfl,
    by rw [hzmac, hcmac]; rfl, by rw [hzmac, hcmac]; rfl, by rw [hzmac, hcmac]; rfl, ⟨?_, ?_, ?_, ?_, ?_, ?_, ?_⟩, ?_⟩
  · rw [hzmac, hcmac, hamac]
    rfl
  · rw [hzmac, hcmac, hamac]
    rfl
  · intro w' hw'
    rw [hzw, htother w' hw', hcw, hawedges w' hw']
  · rw [hzw, htwedge, hcw, hawedge]
  · intro key hk
    rw [hzmarks]
    exact hmarks key hk
  · by_cases hs : markSpill (calKept m s.dev) (calNew m s.dev) = true
    · rw [if_pos hs] at hatold
      exact (if_pos hs).mpr ⟨hzmarks.trans (if_pos hs), hzlog.trans hatold⟩
    · rw [if_neg hs] at hatold
      exact (if_neg hs).mpr ⟨hzlog.trans hatold, hzmarks.trans (if_neg hs)⟩
  · intro tile ht hid
    obtain ⟨e, he, hem⟩ := pastAfter_governs m ht hid
    have hpast : (z.mac m).pastOf tile.id = some e := by
      rw [hzmac, hcmac, hamac]
      exact he
    rw [← hem, marksFor, hpast]
  · rw [← show counterOf a 0x5019 (ssFacet (facetOfMacro m)) = counterOf s.dev 0x5019 (ssFacet (facetOfMacro m)) by rw [hafr]; rfl, ← hcctr, hsfr, htfr]
    rfl

end

/-- Settles O51: the end of a calibration goes through what it makes of the macro's marks, of the macro, of its wedge and of the commands that wait. -/
theorem calibrationMarksColumns : Obligations.CalibrationMarksColumns :=
  fun _ _ => ⟨fun _ _ hm h => calibration_requested hm h, fun _ hr h => calibration_forced hr h, fun u c x h => calibration_steps u c x h,
    fun hm hr h => calibration_completes hm hr h⟩

end Sys2Proof.Machine

/-!
PROOFS for the errors of the stores (R79, R84, R443): a marked-column entry, an outlier copy, and the suspended checks.
-/
namespace Sys2Proof.Machine

open Sys2Proof

theorem exec_corrEcc (s : State) (w : Nat) (copy : Bool) (index : Nat) :
    exec (.corrEcc w copy index) s = .next (s.on (corrEccOp s.variant w copy index s.dev)) := rfl

theorem exec_markedEntryRebuild (s : State) (m index : Nat) :
    exec (.markedEntryRebuild m index) s = .next (s.on (rebuildEntryOp s.variant m index s.dev)) := rfl

theorem exec_checkStoreRecompute (s : State) (m : Nat) (b : Bool) (img : HostRead) :
    exec (.checkStoreRecompute m b img) s = .next (s.on (recomputeOp s.variant m b img s.dev)) := rfl

/-- A macro with an entry to rebuild. -/
def Macro.spoiled (entry tile : Nat) (x : Macro) : Macro :=
  { x with xoRebuild := if x.xoRebuild.any (fun e => e.1 = entry) then x.xoRebuild else x.xoRebuild ++ [(entry, tile)] }

theorem Macro.spoiled_mem (entry tile : Nat) (x : Macro) : ∃ e ∈ (x.spoiled entry tile).xoRebuild, e.1 = entry := by
  unfold Macro.spoiled
  dsimp only
  split
  · next h =>
    obtain ⟨e, he, hk⟩ := List.any_eq_true.mp h
    exact ⟨e, he, of_decide_eq_true hk⟩
  · exact ⟨_, List.mem_append_right _ (List.mem_singleton.mpr rfl), rfl⟩

theorem corrEccOp_entry {v : Variant} {d : Dev} {w index m : Nat} {k : Mark} (hp : facetPresent v (w / 16) = true) (hr : domRuns d (domWedge w) = true)
    (hk : tfind (d.wedge w).marks index = some k) (hm : macroInSlot d w (index / 8) = some m) :
    corrEccOp v w false index d =
      (d.modMac m (Macro.spoiled (index % 8) d.nextTile)).post evCorrEcc (hubOfWedge w) (macroTarget m) [] := by
  unfold corrEccOp
  rw [hp, hr, hk, hm]
  rfl

/-- R79: an uncorrectable error of a marked-column entry. -/
theorem corrEcc_entry {s : State} {w index m : Nat} {k : Mark} (hp : facetPresent s.variant (w / 16) = true)
    (hr : domRuns s.dev (domWedge w) = true) (hk : tfind (s.dev.wedge w).marks index = some k) (hm : macroInSlot s.dev w (index / 8) = some m) :
    ∃ t, exec (.corrEcc w false index) s = .next t ∧ t = s.on { s.dev with macros := t.dev.macros, log := t.dev.log } ∧
      OnlyMacro s.dev t.dev m ∧ t.dev.mac m = { s.dev.mac m with xoRebuild := (t.dev.mac m).xoRebuild } ∧
      (∃ e ∈ (t.dev.mac m).xoRebuild, e.1 = index % 8) ∧ macExactOnly t.dev m = true ∧
      Posted s.dev t.dev evCorrEcc (hubOfWedge w) (macroTarget m) [] := by
  refine ⟨_, exec_corrEcc .., ?_⟩
  simp only [State.on_dev]
  rw [corrEccOp_entry hp hr hk hm]
  have hmac := s.dev.mac_modMac_same m (Macro.spoiled (index % 8) s.dev.nextTile)
  have hother : OnlyMacro s.dev (s.dev.modMac m (Macro.spoiled (index % 8) s.dev.nextTile)) m := fun _ h => s.dev.mac_modMac_other _ h
  have hfr : s.dev.modMac m (Macro.spoiled (index % 8) s.dev.nextTile) =
      { s.dev with macros := (s.dev.modMac m (Macro.spoiled (index % 8) s.dev.nextTile)).macros } := rfl
  generalize s.dev.modMac m (Macro.spoiled (index % 8) s.dev.nextTile) = f at hmac hother hfr ⊢
  have hpm : ∀ m', (f.post evCorrEcc (hubOfWedge w) (macroTarget m) []).mac m' = f.mac m' := fun _ => rfl
  obtain ⟨e, he, hkey⟩ := (s.dev.mac m).spoiled_mem (index % 8) s.dev.nextTile
  rw [← hmac] at he
  refine ⟨by rw [hfr]; rfl, hother, by rw [hpm, hmac]; rfl, ⟨e, he, hkey⟩, ?_, by rw [hfr]; rfl⟩
  have hxo : (f.mac m).exactOnly = true := by
    rw [Macro.exactOnly]
    simp [List.ne_nil_of_mem he]
  rw [macExactOnly, hpm, hxo, Bool.true_or]

/-! ### An outlier copy -/

theorem startResidues_frame (m : Nat) (d : Dev) : startResidues m d = { d with macros := (startResidues m d).macros, ctr := (startResidues m d).ctr } := by
  unfold startResidues
  split
  · rfl
  · split <;> rfl

/-- The copy at `index` of a wedge freed, and its matrix, if one stands behind it, exact-only there. -/
def Wedge.freed (index id : Nat) (g : Wedge) : Wedge :=
  { g with dir := tdel g.dir index, copies := tdrop (fun a => a / 1024 = index) g.copies,
           xoOut := if id = 0 || g.xoOut.contains id then g.xoOut else g.xoOut ++ [id] }

theorem Wedge.freed_exactOnly (index id : Nat) (g : Wedge) : if id = 0 then (g.freed index id).xoOut = g.xoOut else id ∈ (g.freed index id).xoOut := by
  unfold Wedge.freed
  dsimp only
  split
  · next h => rw [if_pos (by simp [h])]
  · next h =>
    split
    · next h' => simpa [h] using h'
    · exact List.mem_append_right _ (List.mem_singleton.mpr rfl)

/-- The macros of a wedge that work on a matrix that has become exact-only there. -/
def freedMacros (w id : Nat) (d e : Dev) : List Nat :=
  (e.macros.map Prod.fst).filter fun k => k / 192 = w && id ≠ 0 && (e.mac k).active.matrix = id && !(d.wedge w).xoOut.contains id

theorem corrEccOp_copy {v : Variant} {d : Dev} {w index : Nat} {c : OutDir} (hp : facetPresent v (w / 16) = true) (hr : domRuns d (domWedge w) = true)
    (hc : tfind (d.wedge w).dir index = some c) : corrEccOp v w true index d =
      ((freedMacros w ((d.mac (192 * w + c.mac)).bank c.bankB).matrix d
          (d.modWedge w (Wedge.freed index ((d.mac (192 * w + c.mac)).bank c.bankB).matrix))).foldl (fun d k => startResidues k d)
        (d.modWedge w (Wedge.freed index ((d.mac (192 * w + c.mac)).bank c.bankB).matrix))).post evCorrEcc (hubOfWedge w)
          (macroTarget (192 * w + c.mac)) [] := by
  unfold corrEccOp
  rw [hp, hr, hc]
  rfl

/-- R84: an uncorrectable error of an outlier copy. -/
theorem corrEcc_copy {s : State} {w index : Nat} {c : OutDir} (hp : facetPresent s.variant (w / 16) = true)
    (hr : domRuns s.dev (domWedge w) = true) (hc : tfind (s.dev.wedge w).dir index = some c) :
    ∃ t, exec (.corrEcc w true index) s = .next t ∧ t = s.on { s.dev with macros := t.dev.macros, wedges := t.dev.wedges, log := t.dev.log, ctr := t.dev.ctr } ∧
      tfind (t.dev.wedge w).dir index = none ∧
      (let id := ((s.dev.mac (192 * w + c.mac)).bank c.bankB).matrix
       if id = 0 then (t.dev.wedge w).xoOut = (s.dev.wedge w).xoOut else id ∈ (t.dev.wedge w).xoOut) ∧
      Posted s.dev t.dev evCorrEcc (hubOfWedge w) (macroTarget (192 * w + c.mac)) [] := by
  refine ⟨_, exec_corrEcc .., ?_⟩
  simp only [State.on_dev]
  rw [corrEccOp_copy hp hr hc]
  generalize ((s.dev.mac (192 * w + c.mac)).bank c.bankB).matrix = id
  have hfr : s.dev.modWedge w (Wedge.freed index id) = { s.dev with wedges := (s.dev.modWedge w (Wedge.freed index id)).wedges } := rfl
  have hw : (s.dev.modWedge w (Wedge.freed index id)).wedge w = (s.dev.wedge w).freed index id := by rw [Dev.wedge_modWedge, if_pos rfl]
  generalize s.dev.modWedge w (Wedge.freed index id) = f at hfr hw ⊢
  have hres : ∀ l : List Nat, l.foldl (fun d k => startResidues k d) f =
      { f with macros := (l.foldl (fun d k => startResidues k d) f).macros, ctr := (l.foldl (fun d k => startResidues k d) f).ctr } := fun l =>
    List.foldlRecOn (motive := fun x : Dev => x = { f with macros := x.macros, ctr := x.ctr }) _ _ rfl fun x hx k _ => by
      rw [startResidues_frame, hx]
  have hres := hres (freedMacros w id s.dev f)
  generalize (freedMacros w id s.dev f).foldl (fun d k => startResidues k d) f = g at hres ⊢
  have hgw : (g.post evCorrEcc (hubOfWedge w) (macroTarget (192 * w + c.mac)) []).wedge w = (s.dev.wedge w).freed index id := by
    rw [← hw, hres]
    rfl
  rw [hgw]
  exact ⟨by rw [hres, hfr]; rfl, tfind_tdel_same .., (s.dev.wedge w).freed_exactOnly index id, by rw [hres, hfr]; rfl⟩

/-! ### What mends them -/

/-- The entry at `key` written from both banks. -/
def Wedge.rebuilt (key : Nat) (x : Macro) (g : Wedge) : Wedge :=
  { g with marks := match tfind g.marks key with
    | none => g.marks
    | some k => tset g.marks key { k with dataA := x.bankA.column k.unit k.col, dataB := x.bankB.column k.unit k.col } }

theorem Wedge.rebuilt_entry {key : Nat} {g : Wedge} {k : Mark} (hk : tfind g.marks key = some k) (x : Macro) :
    tfind (g.rebuilt key x).marks key = some { k with dataA := x.bankA.column k.unit k.col, dataB := x.bankB.column k.unit k.col } := by
  unfold Wedge.rebuilt
  rw [hk]
  exact tfind_tset_same ..

theorem rebuildEntryOp_of_slot {v : Variant} {d : Dev} {m index : Nat} (hm : macServes v d m = true)
    (hx : ∃ e ∈ (d.mac m).xoRebuild, e.1 = index) (hf : slotFree d m = true) (h2 : rank2 (d.mac m) = false) (h3 : forcedDue d m = false) :
    rebuildEntryOp v m index d = (d.modWedge (wedgeOfMacro m) (Wedge.rebuilt (slotOf d m * 8 + index) (d.mac m))).modMac m fun y =>
      { y with xoRebuild := y.xoRebuild.filter (fun e => e.1 ≠ index) } := by
  have hany : (d.mac m).xoRebuild.any (fun e => e.1 = index) = true := by
    obtain ⟨e, he, hk⟩ := hx
    exact List.any_eq_true.mpr ⟨e, he, decide_eq_true hk⟩
  exact if_neg (by rw [hm, hany, hf, h2, h3]; exact Bool.false_ne_true)

/-- R79: an entry is rebuilt from both banks. -/
theorem entry_rebuilt {s : State} {m index : Nat} {k : Mark} (hm : macServes s.variant s.dev m = true)
    (hx : ∃ e ∈ (s.dev.mac m).xoRebuild, e.1 = index) (hf : slotFree s.dev m = true) (h2 : rank2 (s.dev.mac m) = false)
    (h3 : forcedDue s.dev m = false) (hk : tfind (s.dev.wedge (wedgeOfMacro m)).marks (slotOf s.dev m * 8 + index) = some k) :
    ∃ t, exec (.markedEntryRebuild m index) s = .next t ∧ t = s.on { s.dev with macros := t.dev.macros, wedges := t.dev.wedges } ∧
      OnlyMacro s.dev t.dev m ∧ (∀ e ∈ (t.dev.mac m).xoRebuild, e.1 ≠ index) ∧
      tfind (t.dev.wedge (wedgeOfMacro m)).marks (slotOf s.dev m * 8 + index) = some { k with
        dataA := (s.dev.mac m).bankA.column k.unit k.col, dataB := (s.dev.mac m).bankB.column k.unit k.col } := by
  refine ⟨_, exec_markedEntryRebuild .., ?_⟩
  simp only [State.on_dev]
  rw [rebuildEntryOp_of_slot hm hx hf h2 h3]
  have hfr : s.dev.modWedge (wedgeOfMacro m) (Wedge.rebuilt (slotOf s.dev m * 8 + index) (s.dev.mac m)) = { s.dev with
      wedges := (s.dev.modWedge (wedgeOfMacro m) (Wedge.rebuilt (slotOf s.dev m * 8 + index) (s.dev.mac m))).wedges } := rfl
  have hw : (s.dev.modWedge (wedgeOfMacro m) (Wedge.rebuilt (slotOf s.dev m * 8 + index) (s.dev.mac m))).wedge (wedgeOfMacro m) =
      (s.dev.wedge (wedgeOfMacro m)).rebuilt (slotOf s.dev m * 8 + index) (s.dev.mac m) := by
    rw [Dev.wedge_modWedge, if_pos rfl]
  generalize s.dev.modWedge (wedgeOfMacro m) (Wedge.rebuilt (slotOf s.dev m * 8 + index) (s.dev.mac m)) = f at hfr hw ⊢
  refine ⟨by rw [hfr]; rfl, fun m' h => (f.mac_modMac_other _ h).trans (by rw [hfr]; rfl), ?_, ?_⟩
  · rw [Dev.mac_modMac_same]
    exact fun e he => of_decide_eq_true (List.mem_filter.mp he).2
  · show tfind (f.wedge (wedgeOfMacro m)).marks _ = _
    rw [hw]
    exact Wedge.rebuilt_entry hk _

theorem Bank.withSigs_eq (k : Bank) : k.withSigs = { k with sigs := k.withSigs.sigs } := by
  rw [Bank.withSigs]

theorem Macro.bank_setBank (x : Macro) (b : Bool) (k : Bank) : (x.setBank b k).bank b = k := by cases b <;> rfl

theorem Macro.spare_setBank (x : Macro) (b : Bool) (k : Bank) : (x.setBank b k).spare = x.spare := by cases b <;> rfl

/-- The checks of one bank of a macro no longer suspended. -/
def resume (m : Nat) (b : Bool) (d : Dev) : Dev :=
  d.modWedge (wedgeOfMacro m) fun g => { g with ksSusp := g.ksSusp.filter (fun e => e ≠ (slotOf d m, b)) }

/-- The signatures of one bank of a macro computed again, and its checks no longer suspended. -/
def resumed (m : Nat) (b : Bool) (sigs : Tab Nat) (d : Dev) : Dev :=
  resume m b (d.modMac m fun x => x.setBank b { x.bank b with sigs := sigs })

theorem recomputeOp_resumes {v : Variant} {d : Dev} {m : Nat} {b : Bool} (hm : macServes v d m = true)
    (hs : (slotOf d m, b) ∈ (d.wedge (wedgeOfMacro m)).ksSusp) (hi : ∀ y, d.matOf ((d.mac m).bank b).matrix = some y → y.imgAlloc = 0) (img : Bytes) :
    ∃ sigs, recomputeOp v m b (.ok img) d = resumed m b sigs d ∧
      (d.matOf ((d.mac m).bank b).matrix = none → sigs = ((d.mac m).bank b).withSigs.sigs) := by
  have hcon : (d.wedge (wedgeOfMacro m)).ksSusp.contains (slotOf d m, b) = true := List.contains_iff_mem.mpr hs
  unfold recomputeOp
  dsimp only
  rw [hm, hcon]
  cases hy : d.matOf ((d.mac m).bank b).matrix with
  | none =>
    refine ⟨((d.mac m).bank b).withSigs.sigs, ?_, fun _ => rfl⟩
    rw [resumed, Dev.modMac, Dev.modMac, ← Bank.withSigs_eq]
    exact (if_neg Bool.false_ne_true).trans rfl
  | some y =>
    refine ⟨(bankOf y (leNat img) (((d.mac m).bank b).cb * y.rowBlocks + ((d.mac m).bank b).rb)).sigs, ?_, fun h => by cases h⟩
    have hread (o n : Nat) : imageRead v y o n (.ok img) d = (some img, d) := if_neg (by rw [hi y hy]; exact not_not_intro rfl)
    simp only [hread]
    rfl

theorem checkStore_recomputed {s : State} {m : Nat} {b : Bool} {img : Bytes} (hm : macServes s.variant s.dev m = true)
    (hs : (slotOf s.dev m, b) ∈ (s.dev.wedge (wedgeOfMacro m)).ksSusp)
    (hi : ∀ y, s.dev.matOf ((s.dev.mac m).bank b).matrix = some y → y.imgAlloc = 0) :
    ∃ t, exec (.checkStoreRecompute m b (.ok img)) s = .next t ∧ t = s.on { s.dev with macros := t.dev.macros, wedges := t.dev.wedges } ∧
      OnlyMacro s.dev t.dev m ∧ (slotOf s.dev m, b) ∉ (t.dev.wedge (wedgeOfMacro m)).ksSusp ∧
      (t.dev.mac m).bank b = { (s.dev.mac m).bank b with sigs := ((t.dev.mac m).bank b).sigs } ∧
      (s.dev.matOf ((s.dev.mac m).bank b).matrix = none → (t.dev.mac m).bank b = ((s.dev.mac m).bank b).withSigs) := by
  obtain ⟨sigs, hop, hnone⟩ := recomputeOp_resumes hm hs hi img
  refine ⟨_, exec_checkStoreRecompute .., ?_⟩
  simp only [State.on_dev]
  rw [hop, resumed, resume]
  generalize hf : (s.dev.modMac m fun x => x.setBank b { x.bank b with sigs := sigs }) = f
  have hfr : f = { s.dev with macros := f.macros } := by rw [← hf]; rfl
  have hmac : f.mac m = (s.dev.mac m).setBank b { (s.dev.mac m).bank b with sigs := sigs } := by rw [← hf, Dev.mac_modMac_same]
  have hslot : slotOf f m = slotOf s.dev m := by rw [slotOf, hmac, Macro.spare_setBank, ← slotOf]
  have hother : OnlyMacro s.dev f m := fun m' h => by rw [← hf, Dev.mac_modMac_other _ _ h]
  have hw : ∀ g : Wedge → Wedge, ∀ m', (f.modWedge (wedgeOfMacro m) g).mac m' = f.mac m' := fun _ _ => rfl
  rw [hw, hmac, Macro.bank_setBank, hslot]
  refine ⟨by rw [hfr]; rfl, fun m' h => hother m' h, ?_, rfl, fun h => by rw [hnone h, ← Bank.withSigs_eq]⟩
  rw [Dev.wedge_modWedge, if_pos rfl]
  exact fun hmem => (of_decide_eq_true (List.mem_filter.mp hmem).2) rfl

/-- Settles O50: each error is one change of the macro or of its wedge, and what mends it another. -/
theorem storeErrorsMended : Obligations.StoreErrorsMended :=
  ⟨fun _ _ _ _ _ hp hr hk hm => corrEcc_entry hp hr hk hm, fun _ _ _ _ hp hr hc => corrEcc_copy hp hr hc,
   fun _ _ _ _ hm hx hf h2 h3 hk => entry_rebuilt hm hx hf h2 h3 hk, fun _ _ _ _ hm hs hi => checkStore_recomputed hm hs hi⟩

end Sys2Proof.Machine

/-!
PROOFS for reloads, retirements and scrubs (R441 to R448): what rewriting a bank changes, what a repair keeps, and the three commands.
-/
namespace Sys2Proof.Machine

open Sys2Proof

theorem exec_macroReload (s : State) (m : Nat) (img : HostRead) (verify : List VerifyErr) :
    exec (.macroReload m img verify) s = .next (s.on (macroReloadOp s.variant m img verify s.dev)) := rfl

theorem exec_macroRetire (s : State) (m : Nat) (images : List HostRead) (verify : List VerifyErr) :
    exec (.macroRetire m images verify) s = .next (s.on (macroRetireOp s.variant m images verify s.dev)) := rfl

theorem exec_scrubPass (s : State) (m : Nat) (flips : List (Nat × Nat)) :
    exec (.scrubPass m flips) s = .next (s.on (scrubOp s.variant m flips s.dev)) := rfl

/-! ### One bank written from its image -/

theorem fwCount_frame (d : Dev) (idx sub len : Nat) (delta : Int) : d.fwCount idx sub len delta = { d with jour := (d.fwCount idx sub len delta).jour } := by
  rw [Dev.fwCount, Dev.fwP]
  split <;> rfl

theorem dropRepairs_frame (m : Nat) (b : Bool) (d : Dev) : dropRepairs m b d = { d with jour := (dropRepairs m b d).jour } := by
  unfold dropRepairs
  dsimp only
  split
  · rfl
  · rw [fwCount_frame]

theorem refreshMarks_frame (m : Nat) (b : Bool) (d : Dev) : refreshMarks m b d = { d with wedges := (refreshMarks m b d).wedges } := rfl

theorem refreshMarks_spares (m : Nat) (b : Bool) (d : Dev) (w : Nat) : ((refreshMarks m b d).wedge w).spares = (d.wedge w).spares := by
  rw [refreshMarks, Dev.wedge_modWedge]
  split <;> rfl

theorem countClamps_frame (y : Matrix) (part m : Nat) (d : Dev) : countClamps y part m d = { d with ctr := (countClamps y part m d).ctr } := by
  unfold countClamps
  dsimp only
  split <;> rfl

theorem countClamps_none {y : Matrix} {part : Nat} (h : clampsOf y part = 0) (m : Nat) (d : Dev) : countClamps y part m d = d := if_pos h

theorem countClamps_other (y : Matrix) (part m : Nat) (d : Dev) {idx : Nat} (h : idx ≠ 0x2027) (h' : idx ≠ 0x2029) :
    counterOf (countClamps y part m d) idx (ssFacet (facetOfMacro m)) = counterOf d idx (ssFacet (facetOfMacro m)) := by
  unfold countClamps
  dsimp only
  split
  · rfl
  · refine (Dev.counted_count _ _ _ _ _).trans (if_neg ?_ ▸ rfl)
    split
    · unfold odKey; omega
    · unfold odKey; omega

/-- A bank rewritten from the image of its matrix. -/
structure Rewritten (y : Matrix) (part m : Nat) (b : Bool) (d e : Dev) : Prop where
  frame : e = { d with macros := e.macros, wedges := e.wedges, ctr := e.ctr, jour := e.jour }
  other : OnlyMacro d e m
  mac : e.mac m = (d.mac m).setBank b (bankOf y part (((d.mac m).bank b).cb * y.rowBlocks + ((d.mac m).bank b).rb))
  spares : ∀ w, (e.wedge w).spares = (d.wedge w).spares
  counter : ∀ idx, idx ≠ 0x2027 → idx ≠ 0x2029 → counterOf e idx (ssFacet (facetOfMacro m)) = counterOf d idx (ssFacet (facetOfMacro m))
  clampless : clampsOf y part = 0 → e.ctr = d.ctr

theorem rewritten_rewriteBank (y : Matrix) (part m : Nat) (b : Bool) (d : Dev) : Rewritten y part m b d (rewriteBank y part m b d) := by
  unfold rewriteBank
  dsimp only
  generalize hk : bankOf y part (((d.mac m).bank b).cb * y.rowBlocks + ((d.mac m).bank b).rb) = k
  have hdr := dropRepairs_frame m b d
  generalize dropRepairs m b d = f at hdr ⊢
  have hcc := countClamps_frame y part m f
  have hcn := countClamps_none (y := y) (part := part) (m := m) (d := f)
  have hco := fun idx => countClamps_other y part m f (idx := idx)
  generalize countClamps y part m f = g at hcc hcn hco ⊢
  have hmac : ∀ m', g.mac m' = d.mac m' := fun m' => by rw [hcc, hdr]; rfl
  have hr : ∀ m', (refreshMarks m b (g.modMac m fun x => x.setBank b k)).mac m' = (g.modMac m fun x => x.setBank b k).mac m' := fun _ => rfl
  refine ⟨by rw [hcc, hdr]; rfl, fun m' h => (hr m').trans ((g.mac_modMac_other _ h).trans (hmac m')), ?_, fun w => ?_, fun idx h h' => ?_, fun h => ?_⟩
  · rw [hr, Dev.mac_modMac_same, hmac, hk]
  · rw [refreshMarks_spares, hcc, hdr]
    rfl
  · have := hco idx h h'
    rw [hdr] at this
    exact this
  · have := hcn h
    show g.ctr = d.ctr
    rw [this, hdr]

theorem bankFromImage_host {v : Variant} {d : Dev} {m : Nat} {b : Bool} {y : Matrix} (hy : d.matOf ((d.mac m).bank b).matrix = some y) (hi : y.imgAlloc = 0)
    (img : HostRead) : bankFromImage v m b img d = match img with
      | .ok bytes => (true, rewriteBank y (leNat bytes) m b d)
      | .fail _ => (false, d) := by
  have hread (o n : Nat) : imageRead v y o n img d = match img with
      | .ok bytes => (some bytes, d)
      | .fail _ => (none, d) := by
    refine (if_neg (by rw [hi]; exact not_not_intro rfl)).trans ?_
    cases img <;> rfl
  have hkey : (([(2 * m + b.toNat, img)].find? fun x => x.1 = 2 * m + b.toNat).map Prod.snd).getD (.fail 0) = img := by simp
  unfold bankFromImage restoreBank
  simp only [hy, hkey, hread]
  cases img <;> rfl

section
variable {s : State} {m : Nat} {y : Matrix}

/-- The forced round of checks that a reload of the active bank begins. -/
def Macro.reloaded (b : Bool) (x : Macro) : Macro := { x.setBank b { x.bank b with st := .ready } with ckRound := 8, ckPos := 0, ckSum := [] }

theorem macroReloadOp_ok {v : Variant} {d : Dev} (hm : macServes v d m = true) (hr : (d.mac m).reload = true) (ht : (d.mac m).retire = false)
    (hc : (d.mac m).ckRound = 0) (hy : d.matOf (d.mac m).active.matrix = some y) (hi : y.imgAlloc = 0) (img : Bytes) :
    macroReloadOp v m (.ok img) [] d =
      ((refreshMarks m (d.mac m).actB (((rewriteBank y (leNat img) m (d.mac m).actB d).count 0x5014 (ssFacet (facetOfMacro m)) 1).post evMacroReload
        (hubOfMacro m) (macroTarget m) [])).modMac m fun x => x.setBank (d.mac m).actB { x.bank (d.mac m).actB with st := .ready }).modMac m fun x =>
          { x with ckRound := 8, ckPos := 0, ckSum := [] } := by
  have hb := bankFromImage_host (v := v) (b := (d.mac m).actB) hy hi (.ok img)
  unfold macroReloadOp
  dsimp only
  rw [hm, hr, ht, hc, if_neg (by simp), if_pos rfl, hb]
  rfl

theorem macroReloadOp_fails {v : Variant} {d : Dev} (hm : macServes v d m = true) (hr : (d.mac m).reload = true) (ht : (d.mac m).retire = false)
    (hc : (d.mac m).ckRound = 0) (hy : d.matOf (d.mac m).active.matrix = some y) (hi : y.imgAlloc = 0) (k : Nat) :
    macroReloadOp v m (.fail k) [] d = reloadFail m (d.modMac m fun x => x) := by
  have hb := bankFromImage_host (v := v) (b := (d.mac m).actB) hy hi (.fail k)
  unfold macroReloadOp
  dsimp only
  rw [hm, hr, ht, hc, if_neg (by simp), if_pos rfl, hb]
  rfl

/-- R441: a reload rewrites the active bank and begins a forced round of checks. -/
theorem macro_reloaded (img : Bytes) (hm : macServes s.variant s.dev m = true) (hr : (s.dev.mac m).reload = true)
    (ht : (s.dev.mac m).retire = false) (hc : (s.dev.mac m).ckRound = 0) (hy : s.dev.matOf (s.dev.mac m).active.matrix = some y) (hi : y.imgAlloc = 0) :
    ∃ t, exec (.macroReload m (.ok img) []) s = .next t ∧
      t = s.on { s.dev with macros := t.dev.macros, wedges := t.dev.wedges, ctr := t.dev.ctr, log := t.dev.log, jour := t.dev.jour } ∧
      OnlyMacro s.dev t.dev m ∧ (t.dev.mac m).shadow = (s.dev.mac m).shadow ∧
      (t.dev.mac m).active =
        { bankOf y (leNat img) ((s.dev.mac m).active.cb * y.rowBlocks + (s.dev.mac m).active.rb) with st := .ready } ∧
      (t.dev.mac m).ckRound = 8 ∧ (t.dev.mac m).ckPos = 0 ∧
      counterOf t.dev 0x5014 (ssFacet (facetOfMacro m)) = counterOf s.dev 0x5014 (ssFacet (facetOfMacro m)) + 1 ∧
      (clampsOf y (leNat img) = 0 → Counted s.dev t.dev 0x5014 (ssFacet (facetOfMacro m)) 1) ∧
      Posted s.dev t.dev evMacroReload (hubOfMacro m) (macroTarget m) [] := by
  refine ⟨_, exec_macroReload .., ?_⟩
  simp only [State.on_dev]
  rw [macroReloadOp_ok hm hr ht hc hy hi]
  obtain ⟨hfr, hother, hmac, -, hctr, hcl⟩ := rewritten_rewriteBank y (leNat img) m (s.dev.mac m).actB s.dev
  rw [show (s.dev.mac m).active = (s.dev.mac m).bank (s.dev.mac m).actB from rfl]
  generalize rewriteBank y (leNat img) m (s.dev.mac m).actB s.dev = f at hfr hother hmac hctr hcl ⊢
  generalize bankOf y (leNat img) (((s.dev.mac m).bank (s.dev.mac m).actB).cb * y.rowBlocks + ((s.dev.mac m).bank (s.dev.mac m).actB).rb) = k at hmac ⊢
  generalize hg : refreshMarks m (s.dev.mac m).actB ((f.count 0x5014 (ssFacet (facetOfMacro m)) 1).post evMacroReload (hubOfMacro m) (macroTarget m) []) = g
  have hgfr : g = { f with wedges := g.wedges, ctr := (f.count 0x5014 (ssFacet (facetOfMacro m)) 1).ctr,
                           log := ((f.count 0x5014 (ssFacet (facetOfMacro m)) 1).post evMacroReload (hubOfMacro m) (macroTarget m) []).log } := by
    rw [← hg]
    rfl
  have hgm : ∀ m', g.mac m' = f.mac m' := fun m' => by rw [hgfr]; rfl
  have hcnt : ∀ a b : Macro → Macro, Counted f ((g.modMac m a).modMac m b) 0x5014 (ssFacet (facetOfMacro m)) 1 := fun a b j => by
    rw [show ((g.modMac m a).modMac m b).ctr = (f.count 0x5014 (ssFacet (facetOfMacro m)) 1).ctr by rw [hgfr]; rfl]
    exact f.counted_count 0x5014 (ssFacet (facetOfMacro m)) 1 j
  rw [Dev.mac_modMac_same, Dev.mac_modMac_same, hgm, hmac, Macro.bank_setBank]
  refine ⟨by rw [hgfr, hfr]; rfl, fun m' h => ?_, ?_, ?_, rfl, rfl, ?_, fun h j => ?_, ?_⟩
  · exact (Dev.mac_modMac_other _ _ h).trans ((Dev.mac_modMac_other _ _ h).trans ((hgm m').trans (hother m' h)))
  · cases hb : (s.dev.mac m).actB <;> simp [Macro.shadow, Macro.setBank, Macro.bank, hb]
  · cases hb : (s.dev.mac m).actB <;> simp [Macro.active, Macro.setBank, Macro.bank, hb]
  · refine (hcnt _ _ _).trans ?_
    rw [if_pos rfl]
    exact congrArg (· + 1) (hctr 0x5014 (by omega) (by omega))
  · rw [hcnt, hcl h]
  · rw [Posted, show ∀ a b : Macro → Macro, ((g.modMac m a).modMac m b).log = g.log from fun _ _ => rfl, hgfr, hfr]
    rfl

theorem macro_unreadable (k : Nat) (hm : macServes s.variant s.dev m = true) (hr : (s.dev.mac m).reload = true)
    (ht : (s.dev.mac m).retire = false) (hc : (s.dev.mac m).ckRound = 0) (hy : s.dev.matOf (s.dev.mac m).active.matrix = some y) (hi : y.imgAlloc = 0) :
    ∃ t, exec (.macroReload m (.fail k) []) s = .next t ∧
      t = s.on { s.dev with macros := t.dev.macros, log := t.dev.log, cmds := t.dev.cmds, comps := t.dev.comps } ∧
      OnlyMacro s.dev t.dev m ∧ (t.dev.mac m).unread = true ∧ (t.dev.mac m).reload = false ∧
      Posted s.dev t.dev evReloadFail (hubOfMacro m) (macroTarget m) [] := by
  refine ⟨_, exec_macroReload .., ?_⟩
  simp only [State.on_dev]
  rw [macroReloadOp_fails hm hr ht hc hy hi, reloadFail]
  generalize hg : ((s.dev.modMac m fun x => x).modMac m fun x => { x with unread := true, loaded := false, reload := false, ckRound := 0 }) = g
  have hgfr : g = { s.dev with macros := g.macros } := by rw [← hg]; rfl
  have hgm : g.mac m = { s.dev.mac m with unread := true, loaded := false, reload := false, ckRound := 0 } := by
    rw [← hg, Dev.mac_modMac_same, Dev.mac_modMac_same]
  have hgo : OnlyMacro s.dev g m := fun m' h => by rw [← hg, Dev.mac_modMac_other _ _ h, Dev.mac_modMac_other _ _ h]
  have hsc := settleCal_frame m (g.post evReloadFail (hubOfMacro m) (macroTarget m) [])
  generalize settleCal m (g.post evReloadFail (hubOfMacro m) (macroTarget m) []) = f at hsc ⊢
  have hfm : ∀ m', f.mac m' = g.mac m' := fun m' => by rw [hsc]; rfl
  rw [hfm, hgm]
  exact ⟨by rw [hsc, hgfr]; rfl, fun m' h => (hfm m').trans (hgo m' h), rfl, rfl, by rw [Posted, hsc, hgfr]; rfl⟩

end

/-! ### What a repair keeps -/

/-- From `d` to `e` banks of a macro in a spare have been read and written: its spare, its calibration and the spares left are as they were, and every
event posted stands. -/
structure Mending (m : Nat) (d e : Dev) : Prop where
  frame : e = { d with out := e.out, tiles := e.tiles, jobs := e.jobs, macros := e.macros, wedges := e.wedges, engines := e.engines,
                       quants := e.quants, pairs := e.pairs, issues := e.issues, coal := e.coal, remote := e.remote, gone := e.gone, mem := e.mem,
                       ctr := e.ctr, outVecs := e.outVecs, spans := e.spans, jour := e.jour, log := e.log, cmds := e.cmds, comps := e.comps }
  spare : (e.mac m).spare = (d.mac m).spare
  cal : (e.mac m).cal = (d.mac m).cal
  spares : ∀ w, (e.wedge w).spares = (d.wedge w).spares
  way : ∀ x ∈ d.log.way, x ∈ e.log.way

section
variable {m : Nat} {d e : Dev}

theorem Mending.refl (d : Dev) : Mending m d d := ⟨rfl, rfl, rfl, fun _ => rfl, fun _ h => h⟩

theorem Mending.trans {f : Dev} (h : Mending m d e) (h' : Mending m e f) : Mending m d f :=
  ⟨by rw [h'.frame, h.frame], h'.spare.trans h.spare, h'.cal.trans h.cal, fun w => (h'.spares w).trans (h.spares w), fun x hx => h'.way x (h.way x hx)⟩

theorem mending_modMac (d : Dev) {f : Macro → Macro} (hs : ∀ x, (f x).spare = x.spare) (hc : ∀ x, (f x).cal = x.cal) : Mending m d (d.modMac m f) :=
  ⟨rfl, by rw [Dev.mac_modMac_same, hs], by rw [Dev.mac_modMac_same, hc], fun _ => rfl, fun _ h => h⟩

theorem Macro.cal_setBank (x : Macro) (b : Bool) (k : Bank) : (x.setBank b k).cal = x.cal := by cases b <;> rfl

theorem mending_setBank (d : Dev) (b : Bool) (k : Macro → Bank) : Mending m d (d.modMac m fun x => x.setBank b (k x)) :=
  mending_modMac d (fun x => x.spare_setBank b (k x)) fun x => x.cal_setBank b (k x)

theorem mending_post (d : Dev) (code : BitVec 16) (hub : Nat) (unit : BitVec 32) (vals : List (Nat × Nat)) : Mending m d (d.post code hub unit vals) :=
  ⟨rfl, rfl, rfl, fun _ => rfl, fun _ h => List.mem_append_left _ h⟩

theorem mending_fwCount (d : Dev) (idx sub len : Nat) (delta : Int) : Mending m d (d.fwCount idx sub len delta) := by
  rw [fwCount_frame]
  exact ⟨rfl, rfl, rfl, fun _ => rfl, fun _ h => h⟩

theorem mending_refreshMarks (b : Bool) (d : Dev) : Mending m d (refreshMarks m b d) :=
  ⟨rfl, rfl, rfl, refreshMarks_spares m b d, fun _ h => h⟩

/-- A macro in a spare is not at its reset values, so the accesses keep it. -/
theorem mending_access (hs : (d.mac m).spare ≠ none) (h : AfterAccess d e) : Mending m d e := by
  have hm : e.mac m = d.mac m ∨ e.mac m = { d.mac m with blk := none } := h.mac m fun h0 => hs (congrArg Macro.spare h0)
  have hspare : (e.mac m).spare = (d.mac m).spare := by rcases hm with h1 | h1 <;> rw [h1]
  have hcal : (e.mac m).cal = (d.mac m).cal := by rcases hm with h1 | h1 <;> rw [h1]
  exact ⟨by rw [h.frame], hspare, hcal, fun w => by rw [h.wedge w], fun x hx => by rw [h.frame]; exact hx⟩

theorem mending_rewriteBank (y : Matrix) (part : Nat) (b : Bool) (d : Dev) : Mending m d (rewriteBank y part m b d) := by
  obtain ⟨hfr, -, hmac, hsp, -, -⟩ := rewritten_rewriteBank y part m b d
  exact ⟨by rw [hfr], by rw [hmac, Macro.spare_setBank], by rw [hmac, Macro.cal_setBank], hsp, fun x hx => by rw [hfr]; exact hx⟩

theorem mending_imageRead (hs : (d.mac m).spare ≠ none) (v : Variant) (y : Matrix) (o n : Nat) (host : HostRead) :
    Mending m d (imageRead v y o n host d).2 := by
  unfold imageRead
  split
  · unfold deviceImage
    split
    · exact Mending.refl d
    · dsimp only
      split
      · exact Mending.refl d
      · exact mending_access hs (afterAccess_devRead (AfterAccess.refl d) ..)
  · split
    · exact Mending.refl d
    · exact Mending.refl d

theorem mending_bankFromImage (hs : (d.mac m).spare ≠ none) (v : Variant) (b : Bool) (host : HostRead) : Mending m d (bankFromImage v m b host d).2 := by
  unfold bankFromImage restoreBank
  dsimp only
  split
  · exact Mending.refl d
  · split
    · exact (mending_imageRead hs ..).trans (mending_rewriteBank ..)
    · exact mending_imageRead hs ..

theorem mending_repairBank (b : Bool) (errs : List (Nat × Nat)) (d : Dev) : Mending m d (repairBank m b errs d) :=
  List.foldlRecOn (motive := Mending m d) _ _ (Mending.refl d) fun _ he _ _ =>
    he.trans ((mending_setBank _ b _).trans ((mending_post ..).trans (mending_fwCount ..)))

theorem mending_verifyBank (b : Bool) (errs : List (Nat × Nat)) (d : Dev) : Mending m d (verifyBank m b errs d) := by
  unfold verifyBank
  split
  · exact (mending_repairBank ..).trans (mending_refreshMarks ..)
  · exact mending_modMac d (fun _ => rfl) fun _ => rfl

theorem mending_spareBank (hs : (d.mac m).spare ≠ none) (v : Variant) (b : Bool) (host : HostRead) (verify : List VerifyErr) :
    Mending m d (spareBank v m b host verify d).2 := by
  unfold spareBank
  split
  · exact mending_setBank d b fun _ => {}
  · dsimp only
    split
    · exact Mending.refl d
    · exact mending_modMac d (fun x => x.spare_setBank b {}) fun x => x.cal_setBank b {}
  · dsimp only
    split
    · exact (mending_bankFromImage hs ..).trans (mending_verifyBank ..)
    · exact mending_bankFromImage hs ..

theorem mending_settleCal (d : Dev) : Mending m d (settleCal m d) := by
  rw [settleCal_frame]
  exact ⟨rfl, rfl, rfl, fun _ => rfl, fun _ h => h⟩

end

/-! ### Retirement (R442, R445, R447) -/

/-- A macro that has just moved to a spare. -/
def Macro.moved (spare : Nat) (y : Macro) : Macro :=
  { y with spare := some spare, retire := false, reload := false, ckRound := 0, ckPos := 0, ckSum := [], ckDue := false, xoRebuild := [],
           past := [], cal := { ({} : Calib) with req := true, forced := true } }

/-- A wedge that has given away its first spare, whose slot `old` has no checks any more. -/
def Wedge.respared (rest : List Nat) (old : Nat) (g : Wedge) : Wedge := { g with spares := rest, ksSusp := g.ksSusp.filter (fun e => e.1 ≠ old) }

/-- The macro in its spare, before its banks are written there. -/
def retiredTo (m spare : Nat) (rest : List Nat) (d : Dev) : Dev :=
  ((((loseTiles (fun t => (tileMacros d t.inst t.prm t.gj).contains m && t.uncommitted) (fun _ => false) d).modWedge (wedgeOfMacro m)
    (Wedge.respared rest (slotOf d m))).modMac m (Macro.moved spare)).fwCount 0x5016
      (ssFacet (facetOfMacro m)) 4 1).post evMacroRetire (hubOfMacro m) (macroTarget m) [(1, slotOf d m), (1, spare)]

structure RetiredTo (m spare : Nat) (rest : List Nat) (d e : Dev) : Prop where
  frame : e.ports = d.ports ∧ e.vals = d.vals ∧ e.pow = d.pow ∧ e.spad = d.spad
  spare : (e.mac m).spare = some spare
  cal : (e.mac m).cal.req = true ∧ (e.mac m).cal.forced = true
  spares : (e.wedge (m / 192)).spares = rest
  told : ∃ x ∈ e.log.way, x.code = evMacroRetire ∧ x.unit = macroTarget m

theorem Mending.retiredTo {m spare : Nat} {rest : List Nat} {d e f : Dev} (h' : Mending m e f) (h : RetiredTo m spare rest d e) :
    RetiredTo m spare rest d f := by
  obtain ⟨⟨hp, hv, hpw, hsp⟩, hs, hc, hrest, x, hx, hxe⟩ := h
  exact ⟨by rw [h'.frame]; exact ⟨hp, hv, hpw, hsp⟩, h'.spare.trans hs, by rw [h'.cal]; exact hc, (h'.spares _).trans hrest, x, h'.way x hx, hxe⟩

theorem retiredTo_retiredTo (m spare : Nat) (rest : List Nat) (d : Dev) : RetiredTo m spare rest d (retiredTo m spare rest d) := by
  have hlost := (tilesLost_loseTiles (fun t => (tileMacros d t.inst t.prm t.gj).contains m && t.uncommitted) (fun _ => false) d).frame
  unfold retiredTo
  generalize loseTiles (fun t => (tileMacros d t.inst t.prm t.gj).contains m && t.uncommitted) (fun _ => false) d = f at hlost ⊢
  rw [fwCount_frame]
  generalize hg : ((f.modWedge (wedgeOfMacro m) (Wedge.respared rest (slotOf d m))).modMac m (Macro.moved spare)) = g
  have hgfr : g = { f with macros := g.macros, wedges := g.wedges } := by rw [← hg]; rfl
  have hgm : g.mac m = Macro.moved spare (f.mac m) := by rw [← hg, Dev.mac_modMac_same]; rfl
  have hgw : (g.wedge (m / 192)).spares = rest := by
    rw [← hg]
    refine (congrArg Wedge.spares (f.wedge_modWedge (wedgeOfMacro m) (m / 192) (Wedge.respared rest (slotOf d m)))).trans ?_
    rw [if_pos (show m / 192 = wedgeOfMacro m from rfl)]
    rfl
  refine ⟨?_, (congrArg Macro.spare hgm : _), ⟨congrArg (fun x : Macro => x.cal.req) hgm, congrArg (fun x : Macro => x.cal.forced) hgm⟩, hgw,
    ⟨_, List.mem_append_right _ (List.mem_singleton.mpr rfl), rfl, rfl⟩⟩
  rw [hgfr, hlost]
  exact ⟨rfl, rfl, rfl, rfl⟩

/-- A macro whose checks are forced, as after a reload (Table 16.2). -/
def Macro.forcedRound (y : Macro) : Macro := { y with reload := true, ckRound := 8, ckPos := 0, ckSum := [] }

/-- A macro whose image could not be read (R443). -/
def Macro.unreadable (y : Macro) : Macro := { y with unread := true, loaded := false, reload := false, ckRound := 0 }

/-- The end of a retirement: its forced round begins, or its image could not be read. -/
def retireEnd (m : Nat) (ok : Bool) (d : Dev) : Dev := if ok then d.modMac m Macro.forcedRound else reloadFail m d

theorem macroRetireOp_spare {v : Variant} {d : Dev} {m x : Nat} {rest : List Nat} (hm : macServes v d m = true) (hr : (d.mac m).retire = true)
    (hs : (d.wedge (m / 192)).spares = x :: rest) (images : List HostRead) (verify : List VerifyErr) :
    macroRetireOp v m images verify d =
      let a := spareBank v m (d.mac m).actB (nth (.fail 0) images 0) verify (retiredTo m x rest d)
      let b := spareBank v m (!(d.mac m).actB) (nth (.fail 0) images 1) verify a.2
      retireEnd m (a.1 && b.1) b.2 := by
  have hs' : (d.wedge (wedgeOfMacro m)).spares = x :: rest := hs
  unfold macroRetireOp
  dsimp only
  rw [hm, hr, hs']
  rfl

theorem retired_ends {m x : Nat} {rest : List Nat} {d e : Dev} (h : RetiredTo m x rest d e) (ok : Bool) : RetiredTo m x rest d (retireEnd m ok e) := by
  cases ok with
  | true => exact (mending_modMac (f := Macro.forcedRound) e (fun _ => rfl) fun _ => rfl).retiredTo h
  | false =>
    have h1 := (mending_modMac (m := m) (f := Macro.unreadable) e (fun _ => rfl) fun _ => rfl).retiredTo h
    exact (mending_settleCal _).retiredTo ((mending_post (e.modMac m Macro.unreadable) evReloadFail (hubOfMacro m) (macroTarget m) []).retiredTo h1)

theorem retired_round (m : Nat) (e : Dev) (ok : Bool) :
    ((retireEnd m ok e).mac m).ckRound = 8 ∧ ((retireEnd m ok e).mac m).reload = true ∧ ((retireEnd m ok e).mac m).ckPos = 0 ∨
      ((retireEnd m ok e).mac m).unread = true ∧ ((retireEnd m ok e).mac m).ckRound = 0 := by
  cases ok with
  | true =>
    have hmac : (retireEnd m true e).mac m = Macro.forcedRound (e.mac m) := e.mac_modMac_same m Macro.forcedRound
    rw [hmac]
    exact .inl ⟨rfl, rfl, rfl⟩
  | false =>
    have hmac : (retireEnd m false e).mac m = Macro.unreadable (e.mac m) := by
      have hsc := settleCal_frame m ((e.modMac m Macro.unreadable).post evReloadFail (hubOfMacro m) (macroTarget m) [])
      have hend : retireEnd m false e = settleCal m ((e.modMac m Macro.unreadable).post evReloadFail (hubOfMacro m) (macroTarget m) []) := rfl
      rw [hend, hsc]
      exact e.mac_modMac_same m Macro.unreadable
    rw [hmac]
    exact .inr ⟨rfl, rfl⟩

/-- R445: a retirement moves the macro to the first spare of its wedge. -/
theorem macro_retired {s : State} {m x : Nat} {rest : List Nat} (images : List HostRead) (verify : List VerifyErr) (hm : macServes s.variant s.dev m = true)
    (hr : (s.dev.mac m).retire = true) (hs : (s.dev.wedge (m / 192)).spares = x :: rest) :
    ∃ t, exec (.macroRetire m images verify) s = .next t ∧ (t.dev.mac m).spare = some x ∧ (t.dev.wedge (m / 192)).spares = rest ∧
      (t.dev.mac m).cal.req = true ∧ (t.dev.mac m).cal.forced = true ∧
      ((t.dev.mac m).ckRound = 8 ∧ (t.dev.mac m).reload = true ∧ (t.dev.mac m).ckPos = 0 ∨ (t.dev.mac m).unread = true ∧ (t.dev.mac m).ckRound = 0) ∧
      t.dev.ports = s.dev.ports ∧ t.dev.vals = s.dev.vals ∧ t.dev.pow = s.dev.pow ∧ t.dev.spad = s.dev.spad ∧
      ∃ e ∈ t.dev.log.way, e.code = evMacroRetire ∧ e.unit = macroTarget m := by
  refine ⟨_, exec_macroRetire .., ?_⟩
  simp only [State.on_dev]
  rw [macroRetireOp_spare hm hr hs]
  dsimp only
  have hA := retiredTo_retiredTo m x rest s.dev
  have hB := (mending_spareBank (by rw [hA.spare]; exact Option.some_ne_none x) s.variant (s.dev.mac m).actB (nth (.fail 0) images 0) verify).retiredTo hA
  have hC := (mending_spareBank (by rw [hB.spare]; exact Option.some_ne_none x) s.variant (!(s.dev.mac m).actB) (nth (.fail 0) images 1) verify).retiredTo hB
  obtain ⟨⟨hp, hv, hpw, hsp⟩, hspare, ⟨hreq, hforced⟩, hrest, htold⟩ := retired_ends hC
    ((spareBank s.variant m (s.dev.mac m).actB (nth (.fail 0) images 0) verify (retiredTo m x rest s.dev)).1 &&
     (spareBank s.variant m (!(s.dev.mac m).actB) (nth (.fail 0) images 1) verify
       (spareBank s.variant m (s.dev.mac m).actB (nth (.fail 0) images 0) verify (retiredTo m x rest s.dev)).2).1)
  exact ⟨hspare, hrest, hreq, hforced, retired_round .., hp, hv, hpw, hsp, htold⟩

/-- A macro that no spare replaces, and the event that tells it. -/
structure SpareOut (m : Nat) (d : Dev) : Prop where
  oos : (d.mac m).oos = true
  retire : (d.mac m).retire = false
  told : ∃ x ∈ d.log.way, x.code = evSpareOut ∧ x.unit = macroTarget m

theorem spareOut_setBank {m : Nat} {d : Dev} (h : SpareOut m d) (m' : Nat) (b : Bool) (k : Bank) : SpareOut m (d.modMac m' fun x => x.setBank b k) := by
  have hmac : ((d.modMac m' fun x => x.setBank b k).mac m).oos = (d.mac m).oos ∧ ((d.modMac m' fun x => x.setBank b k).mac m).retire = (d.mac m).retire := by
    by_cases hm : m = m'
    · rw [hm, Dev.mac_modMac_same]
      cases b <;> exact ⟨rfl, rfl⟩
    · rw [Dev.mac_modMac_other _ _ hm]
      exact ⟨rfl, rfl⟩
  exact ⟨hmac.1.trans h.oos, hmac.2.trans h.retire, h.told⟩

theorem spareOut_fails {m : Nat} {d : Dev} (h : SpareOut m d) (id : Nat) : SpareOut m (d.fails id stUnitOffline 0) := by
  cases hc : d.cmdOf id with
  | none =>
    have hd : d.fails id stUnitOffline 0 = d := by rw [Dev.fails, Dev.finish, hc]
    rw [hd]
    exact h
  | some c =>
    rw [Dev.fails_eq hc (by decide)]
    exact ⟨h.oos, h.retire, h.told⟩

theorem spareOut_abandonLoad {m : Nat} {d : Dev} (h : SpareOut m d) (l : Load) : SpareOut m (abandonLoad l d) := by
  have hall : SpareOut m (l.targets.foldl (fun d t => (dropRepairs t.1 t.2 d).modMac t.1 fun x => x.setBank t.2 {}) d) :=
    List.foldlRecOn (motive := SpareOut m) _ _ h fun e he t _ => by
      refine spareOut_setBank ?_ ..
      rw [dropRepairs_frame]
      exact ⟨he.oos, he.retire, he.told⟩
  exact ⟨hall.oos, hall.retire, hall.told⟩

/-- R445, R447: with no spare left the macro goes out of service. -/
theorem macro_spareless {s : State} {m : Nat} (images : List HostRead) (verify : List VerifyErr) (hm : macServes s.variant s.dev m = true)
    (hr : (s.dev.mac m).retire = true) (hs : (s.dev.wedge (m / 192)).spares = []) :
    ∃ t, exec (.macroRetire m images verify) s = .next t ∧ (t.dev.mac m).oos = true ∧ (t.dev.mac m).retire = false ∧
      ∃ e ∈ t.dev.log.way, e.code = evSpareOut ∧ e.unit = macroTarget m := by
  have hop : macroRetireOp s.variant m images verify s.dev = endLoadsOf m (spareOut m s.dev) := by
    have hs' : (s.dev.wedge (wedgeOfMacro m)).spares = [] := hs
    unfold macroRetireOp
    dsimp only
    rw [hm, hr, hs']
    rfl
  have hout : SpareOut m (spareOut m s.dev) := by
    rw [spareOut, settleCal_frame]
    have hmac := s.dev.mac_modMac_same m fun x => { x with oos := true, retire := false }
    exact ⟨(congrArg Macro.oos hmac : _), (congrArg Macro.retire hmac : _), ⟨_, List.mem_append_right _ (List.mem_singleton.mpr rfl), rfl, rfl⟩⟩
  have hend : SpareOut m (endLoadsOf m (spareOut m s.dev)) :=
    List.foldlRecOn (motive := SpareOut m) _ _ hout fun e he l _ => spareOut_fails (spareOut_abandonLoad he l) l.cmd
  refine ⟨_, exec_macroRetire .., ?_⟩
  simp only [State.on_dev]
  rw [hop]
  exact ⟨hend.oos, hend.retire, hend.told⟩

/-! ### Scrub (R448) -/

/-- A macro whose shadow bank is scrubbed at `now`. -/
def Macro.scrubbedAt (now : Nat) (y : Macro) : Macro := { y with scrubAt := some now }

/-- A macro whose shadow bank was found with a row of odd parity. -/
def Macro.parityBad (y : Macro) : Macro := { y.setBank (!y.actB) { y.shadow with st := .loading } with scrubbing := true }

/-- A scrub begun and paid for. -/
def scrubPaid (m : Nat) (d : Dev) : Dev := payScrub m (d.modMac m (Macro.scrubbedAt (tget 0 d.hubTimer (hubOfMacro m))))

structure ScrubPaid (m : Nat) (d e : Dev) : Prop where
  frame : e = { d with macros := e.macros, pow := e.pow, free := d.free + 1 }
  other : OnlyMacro d e m
  mac : e.mac m = (d.mac m).scrubbedAt (tget 0 d.hubTimer (hubOfMacro m))
  paid : Paid d e (domWedge (wedgeOfMacro m)) (Config.scrubPj d.free : Nat) 1 (Config.scrubPj d.free : Nat)

theorem scrubPaid_paid (m : Nat) (d : Dev) : ScrubPaid m d (scrubPaid m d) := by
  unfold scrubPaid payScrub
  generalize hg : d.modMac m (Macro.scrubbedAt (tget 0 d.hubTimer (hubOfMacro m))) = g
  have hgfr : g = { d with macros := g.macros } := by rw [← hg]; rfl
  have hgm : g.mac m = (d.mac m).scrubbedAt (tget 0 d.hubTimer (hubOfMacro m)) := by rw [← hg, Dev.mac_modMac_same]
  have hgo : OnlyMacro d g m := fun m' h => by rw [← hg, Dev.mac_modMac_other _ _ h]
  have hfree : g.free = d.free := by rw [hgfr]
  rw [hfree]
  have hpaid := paid_draw_debit g (domWedge (wedgeOfMacro m)) (Config.scrubPj d.free : Nat) Nat.one_ne_zero (Config.scrubPj d.free : Nat)
  have hfr := draw_debit_frame g (domWedge (wedgeOfMacro m)) (Config.scrubPj d.free : Nat) 1 (Config.scrubPj d.free : Nat)
  dsimp only
  generalize draw (domWedge (wedgeOfMacro m)) (Config.scrubPj d.free : Nat) (debit (domWedge (wedgeOfMacro m)) (Config.scrubPj d.free : Nat) 1 g) = f
    at hpaid hfr ⊢
  have hdom : g.dom = d.dom := by rw [hgfr]; rfl
  obtain ⟨h1, h2, h3⟩ := hpaid
  refine ⟨by rw [hfr, hgfr], fun m' h => ?_, ?_, ?_, fun k hk => ?_, ?_⟩
  · exact Eq.trans (by rw [hfr]; rfl) (hgo m' h)
  · exact Eq.trans (by rw [hfr]; rfl) hgm
  · rw [stepCost, hdom] at h1
    exact h1
  · exact (h2 k hk).trans (congrFun hdom k)
  · exact h3.trans (by rw [hgfr])

theorem scrubOp_of_due {v : Variant} {d : Dev} {m : Nat} (hm : macServes v d m = true) (hr : (d.mac m).shadow.st = .ready)
    (hb : bgEnergy d m = true) (hd : scrubDue d m = true) (flips : List (Nat × Nat)) :
    scrubOp v m flips d =
      let bad := (flips.filter (fun e => decide (e.1 < 1024) && decide (e.2 < 32))).eraseDups
      if bad = [] then scrubPaid m d
      else (bad.foldl (fun (d : Dev) _ => (d.count 0x5018 (ssFacet (facetOfMacro m)) 1).post evScrubParity (hubOfMacro m) (macroTarget m) [])
        (scrubPaid m d)).modMac m Macro.parityBad :=
  if_neg (by rw [hm, hr, hb, hd]; decide)

theorem scrub_early {s : State} {m : Nat} (hd : scrubDue s.dev m = false) (flips : List (Nat × Nat)) : exec (.scrubPass m flips) s = .next s := by
  have hop : scrubOp s.variant m flips s.dev = s.dev := if_pos (by rw [hd, Bool.not_false, Bool.or_true, Bool.true_or])
  rw [exec_scrubPass, hop]
  rfl

section
variable {s : State} {m : Nat}

theorem scrub_sound (hm : macServes s.variant s.dev m = true) (hr : (s.dev.mac m).shadow.st = .ready) (hb : bgEnergy s.dev m = true)
    (hd : scrubDue s.dev m = true) : ∃ t, exec (.scrubPass m []) s = .next t ∧
      t = s.on { s.dev with macros := t.dev.macros, pow := t.dev.pow, free := s.dev.free + 1 } ∧ OnlyMacro s.dev t.dev m ∧
      t.dev.mac m = { s.dev.mac m with scrubAt := some (tget 0 s.dev.hubTimer (hubOfMacro m)) } ∧
      Paid s.dev t.dev (domWedge (wedgeOfMacro m)) (Config.scrubPj s.dev.free : Nat) 1 (Config.scrubPj s.dev.free : Nat) := by
  refine ⟨_, exec_scrubPass .., ?_⟩
  simp only [State.on_dev]
  rw [scrubOp_of_due hm hr hb hd]
  obtain ⟨hfr, ho, hmac, hp⟩ := scrubPaid_paid m s.dev
  exact ⟨congrArg s.on hfr, ho, hmac, hp⟩

theorem scrub_odd {u r : Nat} (hm : macServes s.variant s.dev m = true) (hr : (s.dev.mac m).shadow.st = .ready) (hu : u < 1024) (hrow : r < 32)
    (hb : bgEnergy s.dev m = true) (hd : scrubDue s.dev m = true) : ∃ t, exec (.scrubPass m [(u, r)]) s = .next t ∧
      t = s.on { s.dev with macros := t.dev.macros, pow := t.dev.pow, free := s.dev.free + 1, ctr := t.dev.ctr, log := t.dev.log } ∧
      OnlyMacro s.dev t.dev m ∧ (t.dev.mac m).shadow = { (s.dev.mac m).shadow with st := .loading } ∧
      (t.dev.mac m).active = (s.dev.mac m).active ∧ (t.dev.mac m).scrubbing = true ∧
      Counted s.dev t.dev 0x5018 (ssFacet (facetOfMacro m)) 1 ∧ Posted s.dev t.dev evScrubParity (hubOfMacro m) (macroTarget m) [] := by
  have hbad : ([(u, r)].filter (fun e => decide (e.1 < 1024) && decide (e.2 < 32))).eraseDups = [(u, r)] := by simp [hu, hrow, List.eraseDups_cons]
  refine ⟨_, exec_scrubPass .., ?_⟩
  simp only [State.on_dev]
  rw [scrubOp_of_due hm hr hb hd]
  dsimp only
  rw [hbad, if_neg (List.cons_ne_nil _ _)]
  obtain ⟨hfr, ho, hmac, -⟩ := scrubPaid_paid m s.dev
  generalize scrubPaid m s.dev = f at hfr ho hmac ⊢
  rw [List.foldl_cons, List.foldl_nil]
  generalize hg : (f.count 0x5018 (ssFacet (facetOfMacro m)) 1).post evScrubParity (hubOfMacro m) (macroTarget m) [] = g
  have hgfr : g = { f with ctr := (f.count 0x5018 (ssFacet (facetOfMacro m)) 1).ctr, log := (f.post evScrubParity (hubOfMacro m) (macroTarget m) []).log } := by
    rw [← hg]
    rfl
  have hgm : ∀ m', g.mac m' = f.mac m' := fun m' => by rw [hgfr]; rfl
  rw [Dev.mac_modMac_same, hgm, hmac]
  refine ⟨by rw [hgfr, hfr]; rfl, fun m' h => (g.mac_modMac_other _ h).trans ((hgm m').trans (ho m' h)), ?_, ?_, rfl, fun j => ?_, ?_⟩
  · cases h : (s.dev.mac m).actB <;> simp [Macro.parityBad, Macro.scrubbedAt, Macro.shadow, Macro.setBank, Macro.bank, h]
  · cases h : (s.dev.mac m).actB <;> simp [Macro.parityBad, Macro.scrubbedAt, Macro.active, Macro.setBank, Macro.bank, h]
  · show tget 0 g.ctr j = _
    rw [hgfr]
    exact (f.counted_count 0x5018 (ssFacet (facetOfMacro m)) 1 j).trans (by rw [hfr])
  · show g.log = _
    rw [hgfr, hfr]
    rfl

end

/-- Settles O49: a reload and a retirement rewrite their banks through the same lemma; what a repair keeps of the macro says that it stays in its spare;
the scrub is one paid pass. -/
theorem reloadsAndRetirementsRepair : Obligations.ReloadsAndRetirementsRepair :=
  ⟨fun _ _ _ img hm hr ht hc hy hi => macro_reloaded img hm hr ht hc hy hi, fun _ _ k _ hm hr ht hc hy hi => macro_unreadable k hm hr ht hc hy hi,
   fun _ _ images verify hm hr => ⟨fun _ _ hs => macro_retired images verify hm hr hs, macro_spareless images verify hm hr⟩,
   fun _ _ _ _ hm hr hu hrow hb => ⟨scrub_early, fun hd => ⟨scrub_sound hm hr hb hd, scrub_odd hm hr hu hrow hb hd⟩⟩⟩

end Sys2Proof.Machine

/-!
PROOFS for the event log (R461, R462, R496): the ring, its readers and the intervals of the limits.
-/
namespace Sys2Proof.Machine

open Sys2Proof

theorem exec_eventPost (s : State) (hub : Nat) : exec (.eventPost hub) s = .next (s.on (eventPostOp s.variant hub s.dev)) := rfl

theorem exec_eventRingRead (s : State) (src : Source) (cmd : Option Nat) (room : Nat) :
    exec (.eventRingRead src cmd room) s = .next (s.on (eventRingReadOp s.variant src cmd room s.dev)) := rfl

theorem exec_limitIntervalRollover (s : State) (timer period : Nat) :
    exec (.limitIntervalRollover timer period) s = .next (s.on (rolloverOp s.variant timer period s.dev)) := rfl

/-! ### Arrival -/

theorem takeEvent_some {hub : Nat} {way rest : List Event} {e : Event} (h : takeEvent hub way = some (e, rest)) :
    e.hub = hub ∧ e ∈ way ∧ rest.length + 1 = way.length := by
  induction way generalizing rest with
  | nil => cases h
  | cons a way ih =>
    rw [takeEvent] at h
    split at h
    · next ha =>
      cases h
      exact ⟨ha, List.mem_cons_self, rfl⟩
    · obtain ⟨r, hr, hre⟩ := Option.map_eq_some_iff.mp h
      obtain ⟨e', rest'⟩ := r
      cases hre
      obtain ⟨h1, h2, h3⟩ := ih hr
      exact ⟨h1, List.mem_cons_of_mem _ h2, by rw [List.length_cons, h3, List.length_cons]⟩

/-- The readers are told: from `d` to `e` messages were sent or wait, once in their interval. -/
structure Signalled (d e : Dev) : Prop where
  frame : e = { d with out := e.out, ports := e.ports, marks := e.marks }
  marks : ∀ m ∈ e.marks, m ∈ d.marks ∨ m.1 = 32 * 4 + limLogVector

theorem Signalled.refl (d : Dev) : Signalled d d := ⟨rfl, fun _ h => .inl h⟩

theorem msix_frame (d : Dev) (p n : Nat) : d.msix p n = { d with out := (d.msix p n).out, ports := (d.msix p n).ports } := by
  unfold Dev.msix
  dsimp only
  split <;> rfl

theorem signalled_signalLog {d e : Dev} (h : Signalled d e) (p : Nat) : Signalled d (signalLog p e) := by
  unfold signalLog
  split
  · rw [msix_frame]
    refine ⟨by rw [h.frame]; rfl, fun m hm => ?_⟩
    rcases List.mem_append.mp hm with hm | hm
    · exact h.marks m hm
    · rw [List.mem_singleton.mp hm]
      exact .inr rfl
  · exact h

theorem signalled_signalLogs (v : Variant) (d : Dev) : Signalled d (signalLogs v d) :=
  List.foldlRecOn (motive := Signalled d) _ _ (Signalled.refl d) fun _ he p _ => signalled_signalLog he p

/-- The log when a record has reached the ring. -/
def Log.arrived (l : Log) (e : Event) (rest : List Event) : Log :=
  { l with
    way := rest
    ring := if 512 < (l.ring ++ [(BitVec.ofNat 32 (l.rseq + 1), e)]).length then (l.ring ++ [(BitVec.ofNat 32 (l.rseq + 1), e)]).drop 1
            else l.ring ++ [(BitVec.ofNat 32 (l.rseq + 1), e)]
    rseq := l.rseq + 1
    newest := l.rseq + 1
    acceptedNow := l.acceptedNow + 1 }

theorem eventPostOp_eq {v : Variant} {d : Dev} {hub : Nat} {e : Event} {rest : List Event} (hs : d.seq.stbyUp = true)
    (he : takeEvent hub d.log.way = some (e, rest)) : eventPostOp v hub d =
      if 1000 ≤ d.log.acceptedNow then { d with log := { d.log with way := rest } }.count 0x5803 1 1
      else signalLogs v { d with log := d.log.arrived e rest } := by
  unfold eventPostOp
  rw [hs, he]
  rfl

theorem event_dropped {s : State} {hub : Nat} {e : Event} {rest : List Event} (hs : s.dev.seq.stbyUp = true)
    (he : takeEvent hub s.dev.log.way = some (e, rest)) (h : 1000 ≤ s.dev.log.acceptedNow) : ∃ t, exec (.eventPost hub) s = .next t ∧
      t = s.on { s.dev with log := { s.dev.log with way := rest }, ctr := t.dev.ctr } ∧ Counted s.dev t.dev 0x5803 1 1 := by
  refine ⟨_, exec_eventPost .., ?_⟩
  simp only [State.on_dev]
  rw [eventPostOp_eq hs he, if_pos h]
  exact ⟨rfl, Dev.counted_count { s.dev with log := { s.dev.log with way := rest } } 0x5803 1 1⟩

theorem event_arrives {s : State} {hub : Nat} {e : Event} {rest : List Event} (hs : s.dev.seq.stbyUp = true)
    (he : takeEvent hub s.dev.log.way = some (e, rest)) (h : s.dev.log.acceptedNow < 1000) : ∃ t, exec (.eventPost hub) s = .next t ∧
      t = s.on { s.dev with log := t.dev.log, out := t.dev.out, ports := t.dev.ports, marks := t.dev.marks } ∧
      (let ring := s.dev.log.ring ++ [(BitVec.ofNat 32 (s.dev.log.rseq + 1), e)]
       t.dev.log = { s.dev.log with way := rest, ring := if 512 < ring.length then ring.drop 1 else ring,
                                    rseq := s.dev.log.rseq + 1, newest := s.dev.log.rseq + 1, acceptedNow := s.dev.log.acceptedNow + 1 }) := by
  refine ⟨_, exec_eventPost .., ?_⟩
  simp only [State.on_dev]
  rw [eventPostOp_eq hs he, if_neg (by omega)]
  have hfr := (signalled_signalLogs s.variant { s.dev with log := s.dev.log.arrived e rest }).frame
  generalize signalLogs s.variant { s.dev with log := s.dev.log.arrived e rest } = f at hfr ⊢
  exact ⟨by rw [hfr], congrArg Dev.log hfr⟩

/-! ### A read -/

/-- A read by a host command of what the ring gives. -/
theorem eventRingReadOp_host {v : Variant} {d : Dev} {id room : Nat} {src : Source} {c : Cmd} {e : OdEntry} (hc : d.starting id 0x02 = some c)
    (hsv : odServed d = true) (hi : c.odIdx = 0x5800) (he : odEntry 0x5800 c.odSub = some e) (hp : odPresent v 0x5800 e = true) (hP : c.P 1 ≠ 0)
    (ho : hostOpen d c = true) {r : Bytes × Nat} (hr : ringRead d.log (c.odSub - 1) c.odLen = some r) :
    eventRingReadOp v src (some id) room d =
      ({ d with log := { d.log with cursors := tset d.log.cursors (c.odSub - 1) r.2 } }.toHost c.port (c.P 1) r.1).succeeds id r.1.length := by
  have hreq : ringRequest v (.port c.port) 0 c.odSub c.odLen d =
      (stSuccess, r.1, { d with log := { d.log with cursors := tset d.log.cursors (c.odSub - 1) r.2 } }) := by
    unfold ringRequest
    rw [he, hr]
    simp only [hp]
    rfl
  have hgo : ¬ ((!odServed d || decide (c.odIdx ≠ 0x5800) || (decide (c.P 1 ≠ 0) && !hostOpen d c)) = true) := by
    simp [hsv, hi, ho]
  unfold eventRingReadOp
  simp only [hc]
  refine (if_neg hgo).trans ?_
  rw [if_neg hP, hreq]
  exact (if_neg (not_not_intro rfl)).trans (if_neg hP)

section
variable {s : State} {id : Nat} {c : Cmd} {e : OdEntry}

/-- A read that the ring answers ends its command and moves the cursor that its subindex names (R462). -/
theorem ring_read (room : Nat) (src : Source) (hc : s.dev.starting id 0x02 = some c) (hsv : odServed s.dev = true) (hi : c.odIdx = 0x5800)
    (he : odEntry 0x5800 c.odSub = some e) (hp : odPresent s.variant 0x5800 e = true) (hP : c.P 1 ≠ 0) (ho : hostOpen s.dev c = true)
    {r : Bytes × Nat} (hr : ringRead s.dev.log (c.odSub - 1) c.odLen = some r) :
    ∃ t, exec (.eventRingRead src (some id) room) s = .next t ∧ Ended s.dev t.dev c stSuccess 0 r.1.length ∧
      t = s.on { s.dev with log := { s.dev.log with cursors := t.dev.log.cursors }, out := t.dev.out, cmds := t.dev.cmds, comps := t.dev.comps } ∧
      t.dev.out = s.dev.out ++ [.hostWrite c.port (BitVec.ofNat 64 (c.P 1)) r.1] ∧
      t.dev.log = { s.dev.log with cursors := tset s.dev.log.cursors (c.odSub - 1) r.2 } := by
  have hid := (Dev.starting_cases hc).1
  refine ⟨_, exec_eventRingRead .., ?_⟩
  simp only [State.on_dev]
  rw [eventRingReadOp_host hc hsv hi he hp hP ho hr]
  have hcmd : ({ s.dev with log := { s.dev.log with cursors := tset s.dev.log.cursors (c.odSub - 1) r.2 } }.toHost c.port (c.P 1) r.1).cmdOf id = some c := hid
  rw [Dev.succeeds_eq hcmd]
  exact ⟨⟨rfl, rfl⟩, rfl, rfl, rfl⟩

theorem ringRead_nothing {l : Log} {k room : Nat} (h : l.rseq ≤ tget 0 l.cursors k) : ringRead l k room = some ([], tget 0 l.cursors k) := if_pos h

theorem ringRead_whole {l : Log} {k room : Nat} (h : tget 0 l.cursors k < l.rseq) (hg : l.gone ≤ tget 0 l.cursors k) (hr : 48 ≤ room) :
    ringRead l k room = some ((((l.ring.drop (tget 0 l.cursors k - l.gone)).take (min 64 (room / 48))).map fun r => eventBytes r.1 r.2).flatten,
      tget 0 l.cursors k + ((l.ring.drop (tget 0 l.cursors k - l.gone)).take (min 64 (room / 48))).length) := by
  have h0 : l.gone - tget 0 l.cursors k = 0 := by omega
  have hm : max (tget 0 l.cursors k) l.gone = tget 0 l.cursors k := max_eq_left hg
  unfold ringRead
  dsimp only
  rw [if_neg (by omega), if_neg (by omega), h0, hm]
  rfl

theorem ringRead_overrun {l : Log} {k room : Nat} (h : tget 0 l.cursors k < l.rseq) (hg : tget 0 l.cursors k < l.gone) (hr : 48 ≤ room) :
    ringRead l k room = some (overrunBytes l.gone (l.gone - tget 0 l.cursors k) ++
      ((l.ring.take (min 64 (room / 48) - 1)).map fun r => eventBytes r.1 r.2).flatten, l.gone + (l.ring.take (min 64 (room / 48) - 1)).length) := by
  have h0 : l.gone - tget 0 l.cursors k ≠ 0 := by omega
  have hm : max (tget 0 l.cursors k) l.gone = l.gone := max_eq_right (by omega)
  unfold ringRead
  dsimp only
  rw [if_neg (by omega), if_neg (by omega), hm, if_neg h0, if_neg h0, Nat.sub_self, List.drop_zero]

end

/-! ### Intervals -/

/-- The marks of a timer's limits of a period are gone. -/
def unmarked (timer period : Nat) (d : Dev) : Dev :=
  { d with marks := d.marks.filter fun e => !(e.1 / 32 = timer && limPeriod (e.1 % 32) = period) }

theorem unmarked_marked {timer period limit unit : Nat} {d e : Dev} (hl : limPeriod limit = period) (h32 : limit < 32) (hv : limit ≠ limLogVector)
    (hm : ∀ m ∈ e.marks, m ∈ (unmarked timer period d).marks ∨ m.1 = 32 * 4 + limLogVector) : e.marked timer limit unit = false := by
  rw [Dev.marked, ← Bool.not_eq_true, List.contains_iff_mem]
  intro hin
  rcases hm _ hin with h | h
  · have := (List.mem_filter.mp h).2
    have hd : (32 * timer + limit) / 32 = timer := by omega
    have hmod : (32 * timer + limit) % 32 = limit := by omega
    simp [hd, hmod, hl] at this
  · have hlv : limLogVector = 13 := rfl
    dsimp only at h
    omega

theorem interval_ends {s : State} {timer period : Nat} (ht : (if timer = 4 then s.dev.seq.stbyUp else timerRuns s.variant s.dev timer) = true) :
    ∃ t, exec (.limitIntervalRollover timer period) s = .next t ∧
      t = s.on { s.dev with marks := t.dev.marks, log := t.dev.log, tam := t.dev.tam, out := t.dev.out, ports := t.dev.ports } ∧
      (∀ limit unit, limPeriod limit = period → limit < 32 → limit ≠ limLogVector → t.dev.marked timer limit unit = false) ∧
      (timer = 4 → period = 1000000 → t.dev.log = { s.dev.log with acceptedNow := 0 } ∧ t.dev.tam = { s.dev.tam with opensNow := 0, plainNow := 0 }) ∧
      (timer < 4 → t.dev.log = s.dev.log ∧ t.dev.tam = s.dev.tam) := by
  have hop : rolloverOp s.variant timer period s.dev =
      if timer = 4 ∧ period = 1000000 then
        { unmarked timer period s.dev with log := { s.dev.log with acceptedNow := 0 }, tam := { s.dev.tam with opensNow := 0, plainNow := 0 } }
      else if timer = 4 ∧ period = 100 then signalLogs s.variant (unmarked timer period s.dev) else unmarked timer period s.dev :=
    if_neg (by rw [ht]; exact Bool.false_ne_true)
  refine ⟨_, exec_limitIntervalRollover .., ?_⟩
  simp only [State.on_dev]
  rw [hop]
  split
  · exact ⟨rfl, fun limit unit hl h32 hv => unmarked_marked (d := s.dev) hl h32 hv fun m hm => .inl hm, fun _ _ => ⟨rfl, rfl⟩, fun h => by omega⟩
  · next hno =>
    split
    · obtain ⟨hfr, hm⟩ := signalled_signalLogs s.variant (unmarked timer period s.dev)
      exact ⟨by rw [hfr]; rfl, fun limit unit hl h32 hv => unmarked_marked hl h32 hv hm, fun h h' => (hno ⟨h, h'⟩).elim, fun h => by omega⟩
    · exact ⟨rfl, fun limit unit hl h32 hv => unmarked_marked hl h32 hv fun m hm => .inl hm, fun h h' => (hno ⟨h, h'⟩).elim, fun _ => ⟨rfl, rfl⟩⟩

/-- Settles O52: an arrival by its step, a read by what the ring gives for its cursor. -/
theorem eventsReachTheRing : Obligations.EventsReachTheRing := by
  refine ⟨fun s hub e rest hs he => ?_, fun s id room src c e hc hsv hi he hp hP ho hlen => ⟨fun h => ?_, fun h hg => ?_, fun hg h => ?_⟩,
    fun _ _ _ ht => interval_ends ht⟩
  · obtain ⟨h1, h2, h3⟩ := takeEvent_some he
    exact ⟨h1, h2, h3, event_dropped hs he, event_arrives hs he⟩
  · obtain ⟨t, hx, hend, hfr, -, hlog⟩ := ring_read room src hc hsv hi he hp hP ho (ringRead_nothing h)
    exact ⟨t, hx, hend, hfr, by rw [hlog]; exact tget_tset_same ..⟩
  · obtain ⟨t, hx, hend, hfr, hout, hlog⟩ := ring_read room src hc hsv hi he hp hP ho (ringRead_whole h hg hlen)
    refine ⟨t, hx, ?_, hout, hend, ?_, by rw [hlog]; exact tget_tset_same .., fun j hj => by rw [hlog]; exact tget_tset_other _ _ _ hj⟩
    · rw [hfr]; rfl
    · rw [hlog]
  · obtain ⟨t, hx, hend, hfr, hout, hlog⟩ := ring_read room src hc hsv hi he hp hP ho (ringRead_overrun h hg hlen)
    exact ⟨t, hx, hfr, hout, hend, by rw [hlog]; exact tget_tset_same ..⟩

end Sys2Proof.Machine

/-!
PROOFS for the journal (R393, R394, R406 to R409): a record and its completion, the copies of a compaction, the commit and the erasure.
-/
namespace Sys2Proof.Machine

open Sys2Proof

theorem exec_journalRecordProgram (s : State) (ok : Bool) :
    exec (.journalRecordProgram ok) s = .next (s.on (journalRecordProgramOp s.variant ok s.dev)) := rfl

theorem exec_journalTokenRefill (s : State) : exec .journalTokenRefill s = .next (s.on (journalTokenRefillOp s.dev)) := rfl

theorem exec_compactionStart (s : State) : exec .compactionStart s = .next (s.on (compactionStartOp s.dev)) := rfl

theorem exec_compactionCommit (s : State) (ok : Bool) : exec (.compactionCommit ok) s = .next (s.on (compactionCommitOp ok s.dev)) := rfl

theorem exec_regionEraseDone (s : State) : exec .regionEraseDone s = .next (s.on (regionEraseDoneOp s.dev)) := rfl

/-! ### Regions -/

theorem Jour.region_setRegion_same (j : Jour) (n : Nat) (r : JRegion) : (j.setRegion n r).region n = r := by
  unfold Jour.setRegion Jour.region
  split
  · rfl
  · rfl

/-- A region is not the other one, whatever the number of the active region. -/
theorem Jour.region_setRegion_other (j : Jour) (r : JRegion) : (j.setRegion j.other r).region j.active = j.region j.active := by
  unfold Jour.setRegion Jour.region Jour.other
  by_cases h : j.active = 0
  · simp [h]
  · by_cases h1 : j.active = 1
    · simp [h1]
    · simp [h, show 1 - j.active = 0 by omega]

theorem Jour.region_put (j : Jour) (n : Nat) (r : JRec) : (j.put n r).region n = { j.region n with recs := (j.region n).recs ++ [r], erased := false } :=
  j.region_setRegion_same n { j.region n with recs := (j.region n).recs ++ [r], erased := false }

theorem Jour.setRegion_frame (j : Jour) (n : Nat) (r : JRegion) :
    j.setRegion n r = { j with reg0 := (j.setRegion n r).reg0, reg1 := (j.setRegion n r).reg1 } := by
  unfold Jour.setRegion
  split <;> rfl

/-! ### One record (R406) -/

theorem setP_held {k : Nat} (h : k / 256 ∉ [0x7001, 0x7002, 0x7003, 0x3411, 0x2061]) (b : Bytes) (d : Dev) : setP k b d = d.holdP k b := by
  have hne : ∀ idx sub : Nat, sub < 256 → idx ∈ [0x7001, 0x7002, 0x7003, 0x3411, 0x2061] → k ≠ odKey idx sub := fun idx sub hs hi hk => by
    rw [hk, odKey_div hs] at h
    exact h hi
  unfold setP
  rw [if_neg (hne 0x7001 1 (by omega) (by simp)), if_neg (hne 0x7001 2 (by omega) (by simp)), if_neg (hne 0x7002 2 (by omega) (by simp)),
    if_neg (hne 0x7003 2 (by omega) (by simp))]

theorem landP_held {k : Nat} (h : k / 256 ∉ [0x7001, 0x7002, 0x7003, 0x3411, 0x2061]) (v : Variant) (b : Bytes) (d : Dev) :
    landP v k b d = d.holdP k b := by
  have h1 : k / 256 ≠ 0x3411 := fun hk => h (by simp [hk])
  have h2 : k / 256 ≠ 0x2061 := fun hk => h (by simp [hk])
  unfold landP
  dsimp only
  rw [if_neg h1, if_neg h2, setP_held h]

/-- A record of the active region after its attempt. -/
structure Programmed (k : Nat) (b : Bytes) (good : Bool) (d e : Dev) : Prop where
  frame : e = { d with jour := e.jour, ctr := e.ctr }
  waiting : e.jour.waiting = d.jour.waiting
  append : e.jour.append = if good then d.jour.append + recordBytes b.length else roundUp (d.jour.append + recordBytes b.length) 4096
  nextSeq : e.jour.nextSeq = d.jour.nextSeq + 1
  record : (e.jour.region d.jour.active).recs = (d.jour.region d.jour.active).recs ++ [newRec d.jour.append k b d.jour.nextSeq good]
  counted : Counted d e 0x1400 4 1

theorem programmed_programRec (k : Nat) (b : Bytes) (good : Bool) (d : Dev) : Programmed k b good d (programRec k b good d) := by
  have hj := d.jour.setRegion_frame d.jour.active
    { d.jour.region d.jour.active with recs := (d.jour.region d.jour.active).recs ++ [newRec d.jour.append k b d.jour.nextSeq good], erased := false }
  have hr := congrArg JRegion.recs (d.jour.region_put d.jour.active (newRec d.jour.append k b d.jour.nextSeq good))
  refine ⟨rfl, ?_, rfl, rfl, hr, d.counted_count 0x1400 4 1⟩
  show (d.jour.setRegion d.jour.active _).waiting = _
  rw [hj]

section
variable {s : State} {k id tries : Nat} {b : Bytes} {rest : List JWrite} {c : Cmd}

/-- The block with the write at the front taken from the journal's queue. -/
def jourTaken (rest : List JWrite) (d : Dev) : Dev := { d with jour := { d.jour with waiting := rest } }

theorem recordStep_ok {v : Variant} {d : Dev} (hw : d.jour.waiting = { vals := [(k, b)], waiter := .cmd id, tries := tries, paid := true } :: rest)
    (hf : recordFits d [(k, b)] = true) : recordStep v true d = (landP v k b (programRec k b true (jourTaken rest d))).succeeds id 0 := by
  unfold recordStep
  rw [hw]
  simp only [hf]
  rfl

theorem recordStep_bad {v : Variant} {d : Dev} (hw : d.jour.waiting = { vals := [(k, b)], waiter := .cmd id, tries := tries, paid := true } :: rest)
    (hf : recordFits d [(k, b)] = true) : recordStep v false d =
      let d2 := (programRec k b false (jourTaken rest d)).count 0x1400 9 1
      if tries + 1 < 3 then
        { d2 with jour := { d2.jour with waiting := { vals := [(k, b)], waiter := .cmd id, tries := tries + 1, paid := true } :: d2.jour.waiting } }
      else (d2.post evJournalFault 0 0 []).fails id stUnitOffline 0 := by
  unfold recordStep
  rw [hw]
  simp only [hf]
  rfl

theorem recordStep_full {v : Variant} {d : Dev} (hw : d.jour.waiting = { vals := [(k, b)], waiter := .cmd id, tries := tries, paid := true } :: rest)
    (hf : recordFits d [(k, b)] = false) (ok : Bool) : recordStep v ok d = throttleWaiting v d := by
  unfold recordStep
  rw [hw]
  simp only [hf]
  rfl

theorem journalRecordProgramOp_of_programs {v : Variant} {d : Dev} (h : programs d = true) (ok : Bool) : journalRecordProgramOp v ok d = recordStep v ok d :=
  if_pos h

/-- R393, R406: a record that reads back right holds its value and ends its command. -/
theorem record_programmed (hp : programs s.dev = true)
    (hw : s.dev.jour.waiting = { vals := [(k, b)], waiter := .cmd id, tries := tries, paid := true } :: rest) (hc : s.dev.cmdOf id = some c)
    (hf : recordFits s.dev [(k, b)] = true) (hk : k / 256 ∉ [0x7001, 0x7002, 0x7003, 0x3411, 0x2061]) :
    ∃ t, exec (.journalRecordProgram true) s = .next t ∧ Ended s.dev t.dev c stSuccess 0 0 ∧
      t = s.on { s.dev with vals := t.dev.vals, jour := t.dev.jour, ctr := t.dev.ctr, cmds := t.dev.cmds, comps := t.dev.comps } ∧
      tfind t.dev.vals k = some b ∧ (∀ j, j ≠ k → tfind t.dev.vals j = tfind s.dev.vals j) ∧
      t.dev.jour.waiting = rest ∧ t.dev.jour.append = s.dev.jour.append + recordBytes b.length ∧
      t.dev.jour.nextSeq = s.dev.jour.nextSeq + 1 ∧ Counted s.dev t.dev 0x1400 4 1 ∧
      ∃ r, (t.dev.jour.region s.dev.jour.active).recs = (s.dev.jour.region s.dev.jour.active).recs ++ [r] ∧
        r.off = s.dev.jour.append ∧ r.torn = false ∧
        r.bytes = recordImage (k / 256) (k % 256) ((odEntry (k / 256) (k % 256)).elim 0 (fun e => e.typ)) b s.dev.jour.nextSeq := by
  refine ⟨_, exec_journalRecordProgram .., ?_⟩
  simp only [State.on_dev]
  rw [journalRecordProgramOp_of_programs hp, recordStep_ok hw hf, landP_held hk]
  obtain ⟨hfr, hwait, happ, hseq, hrec, hctr⟩ := programmed_programRec k b true (jourTaken rest s.dev)
  generalize programRec k b true (jourTaken rest s.dev) = f at hfr hwait happ hseq hrec hctr ⊢
  have hcmd : (f.holdP k b).cmdOf id = some c := by
    rw [hfr]
    exact hc
  rw [Dev.succeeds_eq hcmd]
  have hfv : f.vals = s.dev.vals := by rw [hfr]; rfl
  refine ⟨by rw [hfr]; exact ⟨rfl, rfl⟩, by rw [hfr]; rfl, tfind_tset_same .., fun j hj => (tfind_tset_other _ _ hj).trans (by rw [hfv]), hwait, happ, hseq, hctr,
    _, hrec, rfl, rfl, rfl⟩

/-- R406: a record that reads back wrong is counted and tried again, three times at most. -/
theorem record_fails (hp : programs s.dev = true)
    (hw : s.dev.jour.waiting = { vals := [(k, b)], waiter := .cmd id, tries := tries, paid := true } :: rest) (hc : s.dev.cmdOf id = some c)
    (hf : recordFits s.dev [(k, b)] = true) : ∃ t, exec (.journalRecordProgram false) s = .next t ∧
      t = s.on { s.dev with jour := t.dev.jour, ctr := t.dev.ctr, log := t.dev.log, cmds := t.dev.cmds, comps := t.dev.comps } ∧
      t.dev.jour.append = roundUp (s.dev.jour.append + recordBytes b.length) 4096 ∧
      counterOf t.dev 0x1400 9 = counterOf s.dev 0x1400 9 + 1 ∧
      (tries < 2 → t.dev.cmds = s.dev.cmds ∧ t.dev.comps = s.dev.comps ∧
        t.dev.jour.waiting = { vals := [(k, b)], waiter := .cmd id, tries := tries + 1, paid := true } :: rest) ∧
      (2 ≤ tries → Ended s.dev t.dev c stUnitOffline 0 0 ∧ t.dev.jour.waiting = rest ∧ Posted s.dev t.dev evJournalFault 0 0 []) := by
  refine ⟨_, exec_journalRecordProgram .., ?_⟩
  simp only [State.on_dev]
  rw [journalRecordProgramOp_of_programs hp, recordStep_bad hw hf]
  obtain ⟨hfr, hwait, happ, -, -, hctr⟩ := programmed_programRec k b false (jourTaken rest s.dev)
  generalize programRec k b false (jourTaken rest s.dev) = f at hfr hwait happ hctr ⊢
  have hcnt : counterOf (f.count 0x1400 9 1) 0x1400 9 = counterOf s.dev 0x1400 9 + 1 := by
    rw [counterOf, Dev.counted_count, if_pos rfl, hctr, if_neg (by decide)]
    rfl
  generalize hg : f.count 0x1400 9 1 = g at hcnt ⊢
  have hgfr : g = { s.dev with jour := f.jour, ctr := g.ctr } := by rw [← hg, hfr]; rfl
  dsimp only
  have hgj : g.jour = f.jour := by rw [hgfr]
  have hgc : g.cmds = s.dev.cmds := by rw [hgfr]
  have hgcp : g.comps = s.dev.comps := by rw [hgfr]
  by_cases ht : tries < 2
  · rw [if_pos (by omega)]
    refine ⟨by rw [hgfr], by rw [hgj]; exact happ, hcnt, fun _ => ⟨hgc, hgcp, ?_⟩, fun h => by omega⟩
    rw [hgj, hwait]
    rfl
  · rw [if_neg (by omega)]
    have hcmd : (g.post evJournalFault 0 0 []).cmdOf id = some c := by
      rw [hgfr]
      exact hc
    rw [Dev.fails_eq hcmd (by decide)]
    refine ⟨by rw [hgfr]; rfl, by rw [← hgj] at happ; exact happ, hcnt, fun h => by omega, fun _ => ⟨by rw [hgfr]; exact ⟨rfl, rfl⟩, ?_, by rw [hgfr]; rfl⟩⟩
    show g.jour.waiting = rest
    rw [hgj, hwait]
    rfl

/-- One waiting write answered, where a command waits for it: the region is full. -/
def throttleOne (v : Variant) (d : Dev) (w : JWrite) : Dev :=
  match w.waiter with
  | .cmd id =>
    let d1 := { d with jour := { d.jour with waiting := d.jour.waiting.filter (fun x => x.waiter ≠ .cmd id) } }
    settleWrite v (.cmd id) stThrottled (if w.paid then giveToken d1 else d1)
  | _ => d

theorem throttleWaiting_eq (v : Variant) (d : Dev) : throttleWaiting v d = d.jour.waiting.foldl (throttleOne v) d := rfl

/-- The writes of commands in `l` are answered. -/
structure Throttled (l : List JWrite) (d e : Dev) : Prop where
  frame : e = { d with jour := e.jour, cmds := e.cmds, comps := e.comps }
  reg0 : e.jour.reg0 = d.jour.reg0
  reg1 : e.jour.reg1 = d.jour.reg1
  waiting : ∀ w ∈ e.jour.waiting, w ∈ d.jour.waiting ∧ ∀ x ∈ l, ∀ i, x.waiter = .cmd i → w.waiter ≠ .cmd i
  comps : ∀ x ∈ d.comps, x ∈ e.comps

theorem fails_frame (d : Dev) (id : Nat) {st : BitVec 8} (hs : st ≠ stHostAccess) :
    d.fails id st 0 = { d with cmds := (d.fails id st 0).cmds, comps := (d.fails id st 0).comps } ∧ ∀ x ∈ d.comps, x ∈ (d.fails id st 0).comps := by
  cases hc : d.cmdOf id with
  | none =>
    have hd : d.fails id st 0 = d := by rw [Dev.fails, Dev.finish, hc]
    rw [hd]
    exact ⟨rfl, fun _ h => h⟩
  | some c =>
    rw [Dev.fails_eq hc hs]
    exact ⟨rfl, fun _ h => List.mem_append_left _ h⟩

theorem throttled_throttleOne (v : Variant) (d : Dev) (w : JWrite) : Throttled [w] d (throttleOne v d w) := by
  unfold throttleOne
  split
  · next id hid =>
    dsimp only [settleWrite]
    rw [if_neg (by decide)]
    generalize hj : (if w.paid then giveToken { d with jour := { d.jour with waiting := d.jour.waiting.filter (fun x => x.waiter ≠ .cmd id) } }
      else { d with jour := { d.jour with waiting := d.jour.waiting.filter (fun x => x.waiter ≠ .cmd id) } }) = g
    have hg : g = { d with jour := { d.jour with waiting := d.jour.waiting.filter (fun x => x.waiter ≠ .cmd id), tokens := g.jour.tokens } } := by
      rw [← hj]
      split <;> rfl
    obtain ⟨hfr, hcomps⟩ := fails_frame g id (st := stThrottled) (by decide)
    generalize g.fails id stThrottled 0 = f at hfr hcomps ⊢
    have hfj : f.jour = { d.jour with waiting := d.jour.waiting.filter (fun x => x.waiter ≠ .cmd id), tokens := g.jour.tokens } := by rw [hfr]; exact congrArg Dev.jour hg
    refine ⟨by rw [hfr, hg], by rw [hfj], by rw [hfj], fun x hx => ?_, fun x hx => hcomps x (by rw [hg]; exact hx)⟩
    rw [hfj] at hx
    obtain ⟨hmem, hne⟩ := List.mem_filter.mp hx
    refine ⟨hmem, fun y hy i hi => ?_⟩
    rw [List.mem_singleton.mp hy, hid] at hi
    cases hi
    exact of_decide_eq_true hne
  · next hno => exact ⟨rfl, rfl, rfl, fun x hx => ⟨hx, fun y hy i hi => (hno i (List.mem_singleton.mp hy ▸ hi)).elim⟩, fun _ h => h⟩

theorem throttled_foldl (v : Variant) (l : List JWrite) (d : Dev) : Throttled l d (l.foldl (throttleOne v) d) := by
  induction l generalizing d with
  | nil => exact ⟨rfl, rfl, rfl, fun w hw => ⟨hw, fun _ hx => by cases hx⟩, fun _ h => h⟩
  | cons w l ih =>
    have h := throttled_throttleOne v d w
    have h' := ih (throttleOne v d w)
    refine ⟨by rw [List.foldl_cons, h'.frame, h.frame], h'.reg0.trans h.reg0, h'.reg1.trans h.reg1, fun x hx => ?_, fun x hx => h'.comps x (h.comps x hx)⟩
    obtain ⟨hx1, hx2⟩ := h'.waiting x hx
    obtain ⟨hx3, hx4⟩ := h.waiting x hx1
    refine ⟨hx3, fun y hy => ?_⟩
    rcases List.mem_cons.mp hy with rfl | hy
    · exact hx4 y (List.mem_singleton.mpr rfl)
    · exact hx2 y hy

/-- R409: in a full region the waiting writes of commands end. -/
theorem record_throttled (hp : programs s.dev = true)
    (hw : s.dev.jour.waiting = { vals := [(k, b)], waiter := .cmd id, tries := tries, paid := true } :: rest) (hc : s.dev.cmdOf id = some c)
    (ok : Bool) (hf : recordFits s.dev [(k, b)] = false) : ∃ t, exec (.journalRecordProgram ok) s = .next t ∧
      t = s.on { s.dev with jour := t.dev.jour, cmds := t.dev.cmds, comps := t.dev.comps } ∧ compFor c stThrottled 0 0 ∈ t.dev.comps ∧
      t.dev.jour.reg0 = s.dev.jour.reg0 ∧ t.dev.jour.reg1 = s.dev.jour.reg1 ∧ ∀ w ∈ t.dev.jour.waiting, ∀ i, w.waiter ≠ .cmd i := by
  refine ⟨_, exec_journalRecordProgram .., ?_⟩
  simp only [State.on_dev]
  rw [journalRecordProgramOp_of_programs hp, recordStep_full hw hf, throttleWaiting_eq]
  have hall := throttled_foldl s.variant s.dev.jour.waiting s.dev
  have hcomp : compFor c stThrottled 0 0 ∈ (s.dev.jour.waiting.foldl (throttleOne s.variant) s.dev).comps := by
    rw [hw, List.foldl_cons]
    refine (throttled_foldl s.variant rest _).comps _ ?_
    have hcmd : (giveToken { s.dev with jour := { s.dev.jour with waiting := s.dev.jour.waiting.filter (fun x => x.waiter ≠ .cmd id) } }).cmdOf id = some c := hc
    show compFor c stThrottled 0 0 ∈ (Dev.fails (giveToken _) id stThrottled 0).comps
    rw [Dev.fails_eq hcmd (by decide)]
    exact List.mem_append_right _ (List.mem_singleton.mpr rfl)
  generalize s.dev.jour.waiting.foldl (throttleOne s.variant) s.dev = f at hall hcomp ⊢
  exact ⟨congrArg s.on hall.frame, hcomp, hall.reg0, hall.reg1, fun w hw i hi =>
    (hall.waiting w hw).2 w (hall.waiting w hw).1 i hi hi⟩

end

/-! ### Compaction (R408, R409) -/

/-- From `d` to `e` entries were copied into the region that is not active, in as far as the flash read back what was programmed. -/
structure CopiesMade (d e : Dev) : Prop where
  frame : e = { d with jour := e.jour, ctr := e.ctr, log := e.log, free := e.free }
  active : e.jour.active = d.jour.active
  source : e.jour.region d.jour.active = d.jour.region d.jour.active
  comp : e.jour.comp = d.jour.comp
  header : (e.jour.region d.jour.other).header = (d.jour.region d.jour.other).header
  marker : (e.jour.region d.jour.other).marker = (d.jour.region d.jour.other).marker
  recs : ∀ r ∈ (d.jour.region d.jour.other).recs, r ∈ (e.jour.region d.jour.other).recs
  way : ∀ x ∈ d.log.way, x ∈ e.log.way

theorem CopiesMade.refl (d : Dev) : CopiesMade d d := ⟨rfl, rfl, rfl, rfl, rfl, rfl, fun _ h => h, fun _ h => h⟩

theorem CopiesMade.other {d e : Dev} (h : CopiesMade d e) : e.jour.other = d.jour.other := by rw [Jour.other, h.active, Jour.other]

theorem CopiesMade.heldP {d e : Dev} (h : CopiesMade d e) (idx sub : Nat) : e.heldP idx sub = d.heldP idx sub := by
  rw [h.frame]
  rfl

theorem CopiesMade.trans {d e f : Dev} (h : CopiesMade d e) (h' : CopiesMade e f) : CopiesMade d f where
  frame := by rw [h'.frame, h.frame]
  active := h'.active.trans h.active
  source := by have := h'.source; rw [h.active] at this; exact this.trans h.source
  comp := h'.comp.trans h.comp
  header := by have := h'.header; rw [h.other] at this; exact this.trans h.header
  marker := by have := h'.marker; rw [h.other] at this; exact this.trans h.marker
  recs := fun r hr => by have := h'.recs; rw [h.other] at this; exact this r (h.recs r hr)
  way := fun x hx => h'.way x (h.way x hx)

/-- The entry `k` of `d` is in the other region of `e`, or its copy was given up. -/
def CopiedTo (d e : Dev) (k : Nat) : Prop :=
  (∃ r ∈ (e.jour.region d.jour.other).recs, r.torn = false ∧ ∃ seq, r.bytes = recordImage (k / 256) (k % 256)
    ((odEntry (k / 256) (k % 256)).elim 0 (fun e => e.typ)) (d.heldP (k / 256) (k % 256)) seq) ∨ ∃ x ∈ e.log.way, x.code = evJournalFault

theorem CopiedTo.later {d e f : Dev} {k : Nat} (h : CopiedTo d e k) (ho : e.jour.other = d.jour.other) (h' : CopiesMade e f) : CopiedTo d f k := by
  rcases h with ⟨r, hr, h1, h2⟩ | ⟨x, hx, h1⟩
  · exact Or.inl ⟨r, ho ▸ h'.recs r (ho.symm ▸ hr), h1, h2⟩
  · exact Or.inr ⟨x, h'.way x hx, h1⟩

/-- One attempt at a copy. -/
def copyOnce (k : Nat) (ok : Bool) (d : Dev) : Dev :=
  { d.drawn with jour := d.jour.put d.jour.other (newRec (d.jour.region d.jour.other).endOff k (d.heldP (k / 256) (k % 256)) d.jour.nextSeq ok) }.count 0x1400 4 1

theorem Jour.put_frame (j : Jour) (n : Nat) (r : JRec) :
    j.put n r = { j with reg0 := (j.put n r).reg0, reg1 := (j.put n r).reg1, nextSeq := j.nextSeq + 1 } := by
  unfold Jour.put Jour.setRegion
  dsimp only
  split <;> rfl

theorem Jour.region_put_active (j : Jour) (r : JRec) : (j.put j.other r).region j.active = j.region j.active :=
  j.region_setRegion_other { j.region j.other with recs := (j.region j.other).recs ++ [r], erased := false }

theorem copiesMade_copyOnce (k : Nat) (ok : Bool) (d : Dev) : CopiesMade d (copyOnce k ok d) := by
  have hput := d.jour.region_put d.jour.other (newRec (d.jour.region d.jour.other).endOff k (d.heldP (k / 256) (k % 256)) d.jour.nextSeq ok)
  have hfr := d.jour.put_frame d.jour.other (newRec (d.jour.region d.jour.other).endOff k (d.heldP (k / 256) (k % 256)) d.jour.nextSeq ok)
  have hact := d.jour.region_put_active (newRec (d.jour.region d.jour.other).endOff k (d.heldP (k / 256) (k % 256)) d.jour.nextSeq ok)
  have hj : (copyOnce k ok d).jour = d.jour.put d.jour.other (newRec (d.jour.region d.jour.other).endOff k (d.heldP (k / 256) (k % 256)) d.jour.nextSeq ok) := rfl
  have hd : copyOnce k ok d = { d with jour := (copyOnce k ok d).jour, ctr := (copyOnce k ok d).ctr, log := (copyOnce k ok d).log, free := (copyOnce k ok d).free } := rfl
  have hlog : (copyOnce k ok d).log = d.log := rfl
  generalize copyOnce k ok d = e at hj hd hlog ⊢
  rw [← hj] at hput hfr hact
  exact ⟨hd, by rw [hfr], hact, by rw [hfr], by rw [hput], by rw [hput], fun r hr => by rw [hput]; exact List.mem_append_left _ hr,
    fun x hx => by rw [hlog]; exact hx⟩

theorem copyOnce_copies (k : Nat) (d : Dev) : CopiedTo d (copyOnce k true d) k := by
  have hput := d.jour.region_put d.jour.other (newRec (d.jour.region d.jour.other).endOff k (d.heldP (k / 256) (k % 256)) d.jour.nextSeq true)
  refine Or.inl ⟨newRec (d.jour.region d.jour.other).endOff k (d.heldP (k / 256) (k % 256)) d.jour.nextSeq true, ?_, rfl, d.jour.nextSeq, rfl⟩
  show _ ∈ ((d.jour.put d.jour.other _).region d.jour.other).recs
  rw [hput]
  exact List.mem_append_right _ (List.mem_singleton.mpr rfl)

theorem copyTries_succ (k n : Nat) (d : Dev) : copyTries k (n + 1) d =
    if Config.readsBack d.free then
      { copyOnce k true d with jour := { (copyOnce k true d).jour with copied := (copyOnce k true d).jour.copied ++ [k] } }
    else copyTries k n ((copyOnce k false d).count 0x1400 9 1) := by
  rw [copyTries]
  cases hr : Config.readsBack d.free with
  | true => rfl
  | false => rfl

theorem copiesMade_copied {d e : Dev} (h : CopiesMade d e) (l : List Nat) : CopiesMade d { e with jour := { e.jour with copied := l } } :=
  ⟨by rw [h.frame], h.active, h.source, h.comp, h.header, h.marker, h.recs, h.way⟩

theorem copiesMade_count {d e : Dev} (h : CopiesMade d e) (idx sub n : Nat) : CopiesMade d (e.count idx sub n) :=
  ⟨by rw [h.frame]; rfl, h.active, h.source, h.comp, h.header, h.marker, h.recs, h.way⟩

theorem copyTries_copies (k n : Nat) (d : Dev) : CopiesMade d (copyTries k n d) ∧ CopiedTo d (copyTries k n d) k := by
  induction n generalizing d with
  | zero =>
    refine ⟨⟨rfl, rfl, rfl, rfl, rfl, rfl, fun _ h => h, fun _ h => List.mem_append_left _ h⟩, Or.inr ⟨_, List.mem_append_right _ (List.mem_singleton.mpr rfl), rfl⟩⟩
  | succ n ih =>
    rw [copyTries_succ]
    split
    · exact ⟨copiesMade_copied (copiesMade_copyOnce k true d) _, copyOnce_copies k d⟩
    · have h1 := copiesMade_count (copiesMade_copyOnce k false d) 0x1400 9 1
      obtain ⟨h2, h3⟩ := ih ((copyOnce k false d).count 0x1400 9 1)
      refine ⟨h1.trans h2, ?_⟩
      have hheld := h1.heldP (k / 256) (k % 256)
      rw [CopiedTo, hheld, h1.other] at h3
      exact h3

/-- Every entry of the list is copied, or its copy given up. -/
theorem copies_copied (l : List Nat) (d : Dev) : CopiesMade d (l.foldl copyP d) ∧ ∀ k ∈ l, CopiedTo d (l.foldl copyP d) k := by
  induction l generalizing d with
  | nil => exact ⟨CopiesMade.refl d, fun _ h => by cases h⟩
  | cons k l ih =>
    obtain ⟨h1, h2⟩ := copyTries_copies k 3 d
    obtain ⟨h3, h4⟩ := ih (copyP d k)
    have h1 : CopiesMade d (copyP d k) := h1
    refine ⟨h1.trans h3, fun j hj => ?_⟩
    rcases List.mem_cons.mp hj with rfl | hj
    · exact CopiedTo.later h2 h1.other h3
    · have := h4 j hj
      rw [CopiedTo, h1.heldP, h1.other] at this
      exact this

/-- The other region headed for the next generation, before any copy. -/
structure Headed (d e : Dev) : Prop where
  frame : e = { d with jour := e.jour, free := e.free }
  active : e.jour.active = d.jour.active
  source : e.jour.region d.jour.active = d.jour.region d.jour.active
  marker : (e.jour.region d.jour.other).marker = []
  comp : e.jour.comp = if Config.readsBack d.free then .copying else .none
  header : (e.jour.region d.jour.other).header =
    if Config.readsBack d.free then headerImage ((d.jour.region d.jour.active).gen + 1) d.jour.nextSeq else []

theorem headed_writeHeader (d : Dev) : Headed d (writeHeader d) := by
  have hset := fun r => d.jour.region_setRegion_same d.jour.other r
  have hact := fun r => d.jour.region_setRegion_other r
  have hfr := fun r => d.jour.setRegion_frame d.jour.other r
  have hactive : (writeHeader d).jour.active = d.jour.active := (congrArg Jour.active (hfr _) :)
  exact ⟨rfl, hactive, hact _, (congrArg JRegion.marker (hset _) :), rfl, (congrArg JRegion.header (hset _) :)⟩

theorem compactionStartOp_eq {d : Dev} (hup : d.seq.stbyUp = true) (hr : d.jour.ready = true) (hc : d.jour.comp = .none) (ha : compactAt ≤ d.jour.append)
    (he : (d.jour.region d.jour.other).erased = true) : compactionStartOp d =
      if (writeHeader d).jour.comp == .copying then ((pKeys (writeHeader d)).filter (differsP (writeHeader d))).foldl copyP (writeHeader d)
      else writeHeader d :=
  if_pos (by rw [hup, hr, hc, decide_eq_true ha, he]; rfl)

theorem compaction_starts {s : State} (hup : s.dev.seq.stbyUp = true) (hr : s.dev.jour.ready = true) (hc : s.dev.jour.comp = .none)
    (ha : compactAt ≤ s.dev.jour.append) (he : (s.dev.jour.region s.dev.jour.other).erased = true) :
    let j := s.dev.jour
    ∃ t, exec .compactionStart s = .next t ∧
     t = s.on { s.dev with jour := t.dev.jour, ctr := t.dev.ctr, log := t.dev.log, free := t.dev.free } ∧
     t.dev.jour.active = j.active ∧ t.dev.jour.region j.active = j.region j.active ∧ (t.dev.jour.region j.other).marker = [] ∧
     if Config.readsBack s.dev.free then
       t.dev.jour.comp = .copying ∧ (t.dev.jour.region j.other).header = headerImage ((j.region j.active).gen + 1) j.nextSeq ∧
       ∀ k ∈ pKeys s.dev, differsP s.dev k = true →
         (∃ r ∈ (t.dev.jour.region j.other).recs, r.torn = false ∧ ∃ seq, r.bytes = recordImage (k / 256) (k % 256)
           ((odEntry (k / 256) (k % 256)).elim 0 (fun e => e.typ)) (s.dev.heldP (k / 256) (k % 256)) seq) ∨
         ∃ e ∈ t.dev.log.way, e.code = evJournalFault
     else t.dev.jour.comp = .none ∧ (t.dev.jour.region j.other).header = [] := by
  refine ⟨_, exec_compactionStart .., ?_⟩
  simp only [State.on_dev]
  rw [compactionStartOp_eq hup hr hc ha he]
  obtain ⟨hfr, hact, hsrc, hmark, hcomp, hhead⟩ := headed_writeHeader s.dev
  generalize writeHeader s.dev = f at hfr hact hsrc hmark hcomp hhead ⊢
  have hother : f.jour.other = s.dev.jour.other := by rw [Jour.other, hact, Jour.other]
  cases hrb : Config.readsBack s.dev.free with
  | false =>
    rw [hrb, if_neg Bool.false_ne_true] at hcomp hhead
    rw [hcomp, if_neg (by decide)]
    exact ⟨by rw [hfr], hact, hsrc, hmark, by rw [if_neg Bool.false_ne_true]; exact ⟨hcomp, hhead⟩⟩
  | true =>
    rw [hrb, if_pos rfl] at hcomp hhead
    rw [hcomp, if_pos (by decide)]
    have hkeys : (pKeys f).filter (differsP f) = (pKeys s.dev).filter (differsP s.dev) := by
      rw [hfr]
      rfl
    rw [hkeys]
    obtain ⟨hm, hcop⟩ := copies_copied ((pKeys s.dev).filter (differsP s.dev)) f
    generalize ((pKeys s.dev).filter (differsP s.dev)).foldl copyP f = g at hm hcop ⊢
    have hsource := hm.source
    have hmarker := hm.marker
    have hheader := hm.header
    rw [hact] at hsource
    rw [hother] at hmarker hheader
    refine ⟨congrArg s.on ?_, hm.active.trans hact, hsource.trans hsrc, hmarker.trans hmark, ?_⟩
    · rw [hm.frame, hfr]
    · rw [if_pos rfl]
      refine ⟨hm.comp.trans hcomp, hheader.trans hhead, fun k hk hd => ?_⟩
      have h := hcop k (List.mem_filter.mpr ⟨hk, hd⟩)
      rw [CopiedTo, hother, show f.heldP (k / 256) (k % 256) = s.dev.heldP (k / 256) (k % 256) by rw [hfr]; rfl] at h
      exact h

/-- A commit with every copy of the freeze in place. -/
theorem compactionCommitOp_all {d : Dev} (hup : d.seq.stbyUp = true) (hc : d.jour.comp ≠ .none) (h : ∀ k ∈ pKeys (freezeCopies d), recopy (freezeCopies d) k = false) :
    compactionCommitOp true d =
      let e := freezeCopies d
      let r := e.jour.region e.jour.other
      { e with jour := { (e.jour.setRegion e.jour.other { r with marker := markerImage r.gen (r.recs.filter JRec.good).length }) with
                         active := e.jour.other, append := r.endOff, comp := .none, copied := [] } }.count 0x1400 5 1 := by
  have hall : (pKeys (freezeCopies d)).all (fun k => !recopy (freezeCopies d) k) = true := List.all_eq_true.mpr fun k hk => by rw [h k hk]; rfl
  refine (if_neg ?_).trans (if_pos ?_)
  · rw [hup, Bool.not_true, Bool.false_or, beq_iff_eq]
    exact hc
  · rw [hall]
    rfl

theorem compactionCommitOp_frozen {d : Dev} (hup : d.seq.stbyUp = true) (hc : d.jour.comp ≠ .none) {ok : Bool}
    (h : ok = false ∨ ∃ k ∈ pKeys (freezeCopies d), recopy (freezeCopies d) k = true) :
    compactionCommitOp ok d = { freezeCopies d with jour := { (freezeCopies d).jour with comp := .frozen } } := by
  refine (if_neg ?_).trans (if_neg ?_)
  · rw [hup, Bool.not_true, Bool.false_or, beq_iff_eq]
    exact hc
  · rw [Bool.and_eq_true, List.all_eq_true]
    rintro ⟨hok, hall⟩
    rcases h with h | ⟨k, hk, hr⟩
    · rw [h] at hok
      exact Bool.false_ne_true hok
    · have := hall k hk
      rw [hr] at this
      exact Bool.false_ne_true this

theorem freezeCopies_made (d : Dev) : CopiesMade d (freezeCopies d) := (copies_copied ..).1

theorem compaction_commits {s : State} (hup : s.dev.seq.stbyUp = true) (hc : s.dev.jour.comp ≠ .none)
    (h : ∀ k ∈ pKeys (freezeCopies s.dev), recopy (freezeCopies s.dev) k = false) : ∃ t, exec (.compactionCommit true) s = .next t ∧
      t = s.on { freezeCopies s.dev with jour := t.dev.jour, ctr := t.dev.ctr } ∧ t.dev.jour.comp = .none ∧ t.dev.jour.active = s.dev.jour.other ∧
      (let r := (freezeCopies s.dev).jour.region s.dev.jour.other
       t.dev.jour.region s.dev.jour.other = { r with marker := markerImage r.gen (r.recs.filter JRec.good).length } ∧
       t.dev.jour.append = r.endOff) ∧
      Counted (freezeCopies s.dev) t.dev 0x1400 5 1 := by
  refine ⟨_, exec_compactionCommit .., ?_⟩
  simp only [State.on_dev]
  rw [compactionCommitOp_all hup hc h]
  have hother := (freezeCopies_made s.dev).other
  generalize freezeCopies s.dev = e at hother ⊢
  rw [← hother]
  exact ⟨rfl, rfl, rfl, ⟨e.jour.region_setRegion_same e.jour.other _, rfl⟩, e.counted_count 0x1400 5 1⟩

theorem compaction_freezes {s : State} (hup : s.dev.seq.stbyUp = true) (hc : s.dev.jour.comp ≠ .none) {ok : Bool}
    (h : ok = false ∨ ∃ k ∈ pKeys (freezeCopies s.dev), recopy (freezeCopies s.dev) k = true) : ∃ t, exec (.compactionCommit ok) s = .next t ∧
      t = s.on { freezeCopies s.dev with jour := { (freezeCopies s.dev).jour with comp := .frozen } } ∧
      ∀ ok, exec (.journalRecordProgram ok) t = .next t := by
  refine ⟨_, exec_compactionCommit .., by rw [compactionCommitOp_frozen hup hc h], fun ok' => ?_⟩
  rw [compactionCommitOp_frozen hup hc h, exec_journalRecordProgram]
  have hno : ∀ e : Dev, e.jour.comp = .frozen → programs e = false := fun e he => by rw [programs, he]; exact Bool.and_false _
  rw [journalRecordProgramOp, if_neg (by rw [hno _ rfl]; exact Bool.false_ne_true)]
  rfl

theorem region_erased {s : State} (hup : s.dev.seq.stbyUp = true) (hr : s.dev.jour.ready = true) (hc : s.dev.jour.comp = .none) :
    ∃ t, exec .regionEraseDone s = .next t ∧ t = s.on { s.dev with jour := t.dev.jour } ∧
      t.dev.jour.region s.dev.jour.other = .erased0 ∧ (s.dev.jour.active < 2 → t.dev.jour.region s.dev.jour.active = s.dev.jour.region s.dev.jour.active) := by
  have hop : regionEraseDoneOp s.dev = { s.dev with jour := s.dev.jour.setRegion s.dev.jour.other .erased0 } := if_pos (by rw [hup, hr, hc]; rfl)
  refine ⟨_, exec_regionEraseDone s, ?_⟩
  simp only [State.on_dev]
  rw [hop]
  exact ⟨rfl, s.dev.jour.region_setRegion_same s.dev.jour.other .erased0, fun _ => s.dev.jour.region_setRegion_other .erased0⟩

/-- Settles O53: a record by its attempt, a compaction by what its copies keep, the commit by whether every copy is in place. -/
theorem journalProgramsAndCompacts : Obligations.JournalProgramsAndCompacts := by
  refine ⟨⟨fun s k b tries id rest c hp hw hc => ⟨fun hf => ⟨fun hk => record_programmed hp hw hc hf hk, record_fails hp hw hc hf⟩,
    fun ok hf => record_throttled hp hw hc ok hf⟩, fun s hup => ⟨_, exec_journalTokenRefill s, ?_⟩⟩,
    fun s hup hr hc ha he => compaction_starts hup hr hc ha he, fun s hup hc => ?_, fun s hup hr hc => region_erased hup hr hc⟩
  · rw [journalTokenRefillOp, if_pos hup]
    rfl
  · have hm := freezeCopies_made s.dev
    exact ⟨hm.frame, hm.active, hm.source, fun h => compaction_commits hup hc h, fun ok h => compaction_freezes hup hc h⟩

end Sys2Proof.Machine

/-!
PROOFS for Tamjor sessions (R399 to R401): OPEN, CONFIRM, the two timeouts and CLOSE.
-/
namespace Sys2Proof.Machine

open Sys2Proof

theorem exec_tamjorOpen (s : State) (m : Bytes) (peer : Peer) : exec (.tamjorOpen m peer) s = .next (s.on (tamjorOpenOp m peer s.dev)) := rfl

theorem exec_tamjorConfirm (s : State) (m : Bytes) (peer : Peer) : exec (.tamjorConfirm m peer) s = .next (s.on (tamjorConfirmOp m peer s.dev)) := rfl

theorem exec_confirmTimeout (s : State) (sid elapsed : Nat) : exec (.confirmTimeout sid elapsed) s = .next (s.on (confirmTimeoutOp sid elapsed s.dev)) := rfl

theorem exec_tamjorClose (s : State) (m : Bytes) (peer : Peer) : exec (.tamjorClose m peer) s = .next (s.on (tamjorCloseOp m peer s.dev)) := rfl

theorem exec_sessionIdleTimeout (s : State) (sid elapsed : Nat) :
    exec (.sessionIdleTimeout sid elapsed) s = .next (s.on (sessionIdleTimeoutOp sid elapsed s.dev)) := rfl

theorem find_filter_sid (l : List Session) (sid : Nat) : (l.filter fun s => s.sid ≠ sid).find? (fun s => s.sid = sid) = none := by
  rw [List.find?_eq_none]
  intro x hx
  have := (List.mem_filter.mp hx).2
  simpa using this

theorem Tam.session_sid {t : Tam} {sid : Nat} {x : Session} (h : t.session sid = some x) : x.sid = sid := by
  have := List.find?_some h
  simpa using this

theorem Tam.opening_sid {t : Tam} {sid : Nat} {x : Session} (h : t.opening sid = some x) : x.sid = sid := by
  have := List.find?_some h
  simpa using this

/-! ### A fresh session ID -/

/-- Fewer values than candidates leave a candidate free. -/
theorem exists_not_mem_of_length_lt {l used : List Nat} (hl : l.Nodup) (h : used.length < l.length) : ∃ x ∈ l, x ∉ used := by
  by_contra hno
  have hsub : l ⊆ used := fun x hx => by
    by_contra hx'
    exact hno ⟨x, hx, hx'⟩
  exact absurd (hl.subperm hsub).length_le (by omega)

theorem nodup_candidates (r : Nat) : ((List.range 9).map fun i => (r + i) % 2 ^ 32).Nodup := by
  refine List.Nodup.map_on (fun i hi j hj h => ?_) List.nodup_range
  rw [List.mem_range] at hi hj
  omega

theorem freshSid_fresh {d : Dev} (h : d.tam.sessions.length + d.tam.pending.length < 4) :
    freshSid d ≠ 0 ∧ ∀ y ∈ d.tam.sessions ++ d.tam.pending, y.sid ≠ freshSid d := by
  have hused : (0 :: (d.tam.sessions.map (fun s => s.sid) ++ d.tam.pending.map (fun s => s.sid))).length <
      ((List.range 9).map fun i => ((Config.randomSid d.free).toNat + i) % 2 ^ 32).length := by
    simp
    omega
  obtain ⟨x, hx, hfree⟩ := exists_not_mem_of_length_lt (nodup_candidates (Config.randomSid d.free).toNat) hused
  have hfound : ∃ y, ((List.range 9).map fun i => ((Config.randomSid d.free).toNat + i) % 2 ^ 32).find? (fun x => decide (x ≠ 0) &&
      !(d.tam.sessions.map (fun s => s.sid) ++ d.tam.pending.map (fun s => s.sid)).contains x) = some y := by
    rw [← Option.isSome_iff_exists, List.find?_isSome]
    refine ⟨x, hx, ?_⟩
    rw [List.mem_cons, not_or] at hfree
    simpa using hfree
  obtain ⟨y, hy⟩ := hfound
  have hval : freshSid d = y := by
    unfold freshSid
    dsimp only
    rw [hy]
    rfl
  have hgood := List.find?_some hy
  rw [Bool.and_eq_true, decide_eq_true_iff, Bool.not_eq_true', ← Bool.not_eq_true, List.contains_iff_mem] at hgood
  rw [hval]
  refine ⟨hgood.1, fun z hz hzs => hgood.2 ?_⟩
  rw [← hzs, ← List.map_append]
  exact List.mem_map_of_mem hz

/-! ### OPEN (R399) -/

theorem leNat_toLe_mod (n v : Nat) : leNat (toLe n v) = v % 256 ^ n := by
  induction n generalizing v with
  | zero => rw [pow_zero, Nat.mod_one]; rfl
  | succ n ih => rw [toLe, leNat, ih, BitVec.toNat_ofNat, pow_succ' 256 n, Nat.mod_mul (x := v) (a := 256) (b := 256 ^ n)]

/-- What CHALLENGE carries. -/
def challenge (sid : Nat) (nd : Bytes) : Bytes := sendHeader 0x11 stSuccess 0 sid 0 40 ++ nd ++ toLe 8 Config.linkIdentity.toNat

theorem readHeader_challenge (sid : Nat) (nd : Bytes) : (readHeader (challenge sid nd)).sid = sid % 2 ^ 32 :=
  (show (readHeader (challenge sid nd)).sid = leNat (toLe 4 sid) from rfl).trans (leNat_toLe_mod 4 sid)

theorem length_nonce (b : Bytes) : (padTo 32 (b.take 32)).length = 32 := by
  rw [padTo, List.length_append, List.length_replicate, List.length_take]
  omega

/-- The block that has accepted an OPEN. -/
def openCounted (d : Dev) : Dev := countMessage { d with tam := { d.tam with opensNow := d.tam.opensNow + 1 } }

theorem openCounted_frame (d : Dev) : openCounted d = { d with tam := { d.tam with opensNow := d.tam.opensNow + 1 }, ctr := (openCounted d).ctr } := rfl

theorem counted_openCounted (d : Dev) : Counted d (openCounted d) 0x1104 1 1 :=
  Dev.counted_count { d with tam := { d.tam with opensNow := d.tam.opensNow + 1 } } 0x1104 1 1

/-- The session that an OPEN leaves waiting for its CONFIRM. -/
def openedSession (d : Dev) (m : Bytes) : Session :=
  { sid := freshSid (openCounted d), key := fieldAt m 16 1, nm := (m.drop 24).take 32, nd := padTo 32 ((Config.randomNonce d.free).take 32),
    mseq := 0, last := [0], bad := 0, idle := 0 }

theorem tamjorOpenOp_eq {d : Dev} {m : Bytes} {peer : Peer} (ht : takes d m peer 0x10 = true) (h : d.tam.opensNow < 4) :
    tamjorOpenOp m peer d =
      if openStatus d m ≠ stSuccess then
        sendTo peer (refuseOpen (openStatus d m) 0 0 ((m.drop 24).take 32) [] (openCounted d)) (openCounted d)
      else
        sendTo peer (signedMsg ((m.drop 24).take 32) (openedSession d m).nd (challenge (openedSession d m).sid (openedSession d m).nd))
          { (openCounted d).drawn with tam := { (openCounted d).tam with pending := (openCounted d).tam.pending ++ [openedSession d m] } } :=
  if_neg (by rw [ht, decide_eq_false (by omega)]; decide)

theorem openStatus_room {d : Dev} {m : Bytes} (h : openStatus d m = stSuccess) : d.tam.sessions.length + d.tam.pending.length < 4 := by
  by_contra hno
  unfold openStatus at h
  split at h
  · exact absurd h (by decide)
  · split at h
    · exact absurd h (by decide)
    · split at h
      · exact absurd h (by decide)
      · rw [if_pos (by omega)] at h
        exact absurd h (by decide)

theorem session_offered {s : State} {m : Bytes} {peer : Peer} (ht : takes s.dev m peer 0x10 = true) (h : s.dev.tam.opensNow < 4) :
    ∃ t, exec (.tamjorOpen m peer) s = .next t ∧
      t = s.on { s.dev with tam := t.dev.tam, ctr := t.dev.ctr, out := t.dev.out, free := t.dev.free } ∧ Counted s.dev t.dev 0x1104 1 1 ∧
      t.dev.tam.sessions = s.dev.tam.sessions ∧ t.dev.tam.opensNow = s.dev.tam.opensNow + 1 ∧
      (openStatus s.dev m ≠ stSuccess → t.dev.tam.pending = s.dev.tam.pending) ∧
      (openStatus s.dev m = stSuccess → ∃ x : Session, t.dev.tam.pending = s.dev.tam.pending ++ [x] ∧ x.sid ≠ 0 ∧
        (∀ y ∈ s.dev.tam.sessions ++ s.dev.tam.pending, y.sid ≠ x.sid) ∧ x.nm = (m.drop 24).take 32 ∧ x.key = fieldAt m 16 1 ∧
        x.nd.length = 32 ∧ ∃ b, t.dev.out = s.dev.out ++ [.datagram peer.id (fromAddr s.dev peer.via) (tamjorPort s.dev) (signedMsg x.nm x.nd b)] ∧ (readHeader b).sid = x.sid % 2 ^ 32) := by
  refine ⟨_, exec_tamjorOpen .., ?_⟩
  simp only [State.on_dev]
  rw [tamjorOpenOp_eq ht h]
  have hctr := counted_openCounted s.dev
  split
  · next hst => exact ⟨rfl, hctr, rfl, rfl, fun _ => rfl, fun h => (hst h).elim⟩
  · next hst =>
    have hst : openStatus s.dev m = stSuccess := not_not.mp hst
    obtain ⟨h0, hfresh⟩ := freshSid_fresh (d := openCounted s.dev) (openStatus_room hst)
    exact ⟨rfl, hctr, rfl, rfl, fun h => (h hst).elim, fun _ => ⟨openedSession s.dev m, rfl, h0, hfresh, rfl, rfl, length_nonce _, _, rfl,
      readHeader_challenge ..⟩⟩

/-! ### CONFIRM, CLOSE and the timeouts (R399 to R401) -/

theorem session_confirmed {s : State} {m : Bytes} {peer : Peer} {x : Session} (ht : takes s.dev m peer 0x12 = true)
    (hx : s.dev.tam.opening (readHeader m).sid = some x) : ∃ t, exec (.tamjorConfirm m peer) s = .next t ∧
      t = s.on { s.dev with tam := t.dev.tam, ctr := t.dev.ctr, out := t.dev.out } ∧
      t.dev.tam.opening x.sid = none ∧ Counted s.dev t.dev 0x1104 1 1 ∧
      (if sigGood s.dev x m = true ∧ (readHeader m).mseq = 1 ∧ (readHeader m).blen = 0 then
         ∃ y : Session, t.dev.tam.sessions = s.dev.tam.sessions ++ [y] ∧ y.sid = x.sid ∧ y.key = x.key ∧ y.nm = x.nm ∧ y.nd = x.nd ∧ y.mseq = 1
       else t.dev.tam.sessions = s.dev.tam.sessions) := by
  have hctr : Counted s.dev (countMessage s.dev) 0x1104 1 1 := s.dev.counted_count 0x1104 1 1
  have hgone := find_filter_sid s.dev.tam.pending x.sid
  refine ⟨_, exec_tamjorConfirm .., ?_⟩
  simp only [State.on_dev]
  unfold tamjorConfirmOp
  rw [ht, Bool.not_true, if_neg Bool.false_ne_true]
  dsimp only
  rw [hx]
  dsimp only
  by_cases hg : sigGood s.dev x m = true ∧ (readHeader m).mseq = 1 ∧ (readHeader m).blen = 0
  · rw [if_pos hg, if_pos (by simp [hg])]
    exact ⟨rfl, hgone, hctr, _, rfl, rfl, rfl, rfl, rfl, rfl⟩
  · rw [if_neg hg, if_neg (by simpa [and_assoc] using hg)]
    exact ⟨rfl, hgone, hctr, rfl⟩

theorem opening_forgotten (s : State) (sid : Nat) {elapsed : Nat} (h : 5 ≤ elapsed) : ∃ t, exec (.confirmTimeout sid elapsed) s = .next t ∧
    t = s.on { s.dev with tam := t.dev.tam } ∧ t.dev.tam.opening sid = none ∧ t.dev.tam.sessions = s.dev.tam.sessions := by
  refine ⟨_, exec_confirmTimeout .., ?_⟩
  rw [confirmTimeoutOp, if_neg (by omega)]
  exact ⟨rfl, find_filter_sid .., rfl⟩

theorem opening_kept (s : State) (sid : Nat) {elapsed : Nat} (h : elapsed < 5) : exec (.confirmTimeout sid elapsed) s = .next s := by
  rw [exec_confirmTimeout, confirmTimeoutOp, if_pos h]
  rfl

theorem session_idles {s : State} {sid elapsed : Nat} {x : Session} (hx : s.dev.tam.session sid = some x) (h : x.idle ≤ elapsed) :
    ∃ t, exec (.sessionIdleTimeout sid elapsed) s = .next t ∧
      t = s.on { s.dev with tam := t.dev.tam } ∧ t.dev.tam.session sid = none ∧ t.dev.tam.pending = s.dev.tam.pending := by
  refine ⟨_, exec_sessionIdleTimeout .., ?_⟩
  have hop : sessionIdleTimeoutOp sid elapsed s.dev = dropSession sid s.dev := by
    unfold sessionIdleTimeoutOp
    rw [hx]
    exact if_pos h
  rw [hop]
  exact ⟨rfl, find_filter_sid .., rfl⟩

theorem session_closed {s : State} {m : Bytes} {peer : Peer} {x : Session} (ht : takes s.dev m peer 0x14 = true)
    (hx : s.dev.tam.session (readHeader m).sid = some x) (hg : sigGood s.dev x m = true) : ∃ t, exec (.tamjorClose m peer) s = .next t ∧
      t = s.on { s.dev with tam := t.dev.tam, ctr := t.dev.ctr } ∧ t.dev.tam.session x.sid = none ∧ Counted s.dev t.dev 0x1104 1 1 := by
  refine ⟨_, exec_tamjorClose .., ?_⟩
  have hop : tamjorCloseOp m peer s.dev = dropSession x.sid (countMessage s.dev) := by
    unfold tamjorCloseOp
    rw [ht, hx]
    exact if_pos hg
  rw [hop]
  exact ⟨rfl, find_filter_sid .., s.dev.counted_count 0x1104 1 1⟩

/-- Settles O55: an OPEN finds a free sid among nine candidates, at most four of which are taken; the rest is one step each. -/
theorem sessionsOpenAndClose : Obligations.SessionsOpenAndClose :=
  ⟨fun _ _ _ ht h => session_offered ht h, fun _ _ _ _ ht hx => session_confirmed ht hx,
   fun s sid _ => ⟨opening_forgotten s sid, opening_kept s sid, fun _ hx h => session_idles hx h⟩, fun _ _ _ _ ht hx hg => session_closed ht hx hg⟩

end Sys2Proof.Machine

/-!
PROOFS for the requests of Tamjor and of the mailboxes (R395 to R403).
-/
namespace Sys2Proof.Machine

open Sys2Proof

theorem exec_tamjorRequest (s : State) (m : Bytes) (peer : Peer) :
    exec (.tamjorRequest m peer) s = .next (s.on (tamjorRequestOp s.variant m peer s.dev)) := rfl

theorem exec_mailboxGo (s : State) (p : Nat) : exec (.mailboxGo p) s = .next (s.on (mailboxGoOp s.variant p s.dev)) := rfl

/-- A message whose one entry reads, not the ring, changes nothing. -/
theorem applyEntries_read {e : ReqEntry} (ho : e.op = 1) (hi : e.idx ≠ 0x5800) (v : Variant) (src : Source) (sid : Nat) (d : Dev) :
    applyEntries v src sid [e] d =
      ⟨resultBytes e (odRead v d src sid e.idx e.sub e.len).1 (odRead v d src sid e.idx e.sub e.len).2, [], d⟩ := by
  rw [applyEntries, List.foldl_cons, List.foldl_nil, applyEntry, if_pos ho, if_neg hi]
  rfl

theorem runRequest_read {m : Bytes} {e : ReqEntry} (hm : requestEntries m = .ok [e]) (ho : e.op = 1) (hi : e.idx ≠ 0x5800) (v : Variant) (sid : Nat) (d : Dev) :
    runRequest v sid m d =
      (stSuccess, 1 :: resultBytes e (odRead v d .mgmt sid e.idx e.sub e.len).1 (odRead v d .mgmt sid e.idx e.sub e.len).2, [], d) := by
  unfold runRequest
  rw [hm]
  dsimp only
  rw [applyEntries_read ho hi]
  rfl

theorem runRequest_error {m : Bytes} {st : BitVec 8} (hm : requestEntries m = .error st) (v : Variant) (sid : Nat) (d : Dev) :
    runRequest v sid m d = (st, [0], [], d) := by
  unfold runRequest
  rw [hm]

/-! ### Outside a session (R399) -/

section
variable {s : State} {m : Bytes} {peer : Peer}

theorem tamjorRequestOp_plain {v : Variant} {d : Dev} (ht : takes d m peer 0x01 = true) (hw : messageWaits d m = false) (h0 : (readHeader m).sid = 0) :
    tamjorRequestOp v m peer d = plainRequest v m peer d := by
  unfold tamjorRequestOp
  rw [ht, hw]
  exact (if_neg (by decide)).trans (if_pos h0)

/-- The block that has accepted a REQUEST outside a session. -/
def plainCounted (d : Dev) : Dev := countMessage { d with tam := { d.tam with plainNow := d.tam.plainNow + 1 } }

theorem plainRequest_runs {v : Variant} {d : Dev} (h : d.tam.plainNow < 1000) (hl : m.length = 16 + (readHeader m).blen) :
    plainRequest v m peer d = finishChanges v (runRequest v 0 m (plainCounted d)).2.2.1
      (sendTo peer (responseMsg (runRequest v 0 m (plainCounted d)).1 0 (readHeader m).mseq (runRequest v 0 m (plainCounted d)).2.1)
        (runRequest v 0 m (plainCounted d)).2.2.2) :=
  (if_neg (by omega)).trans (if_neg (not_not_intro hl))

theorem plainRequest_dropped {v : Variant} {d : Dev} (h : 1000 ≤ d.tam.plainNow) : plainRequest v m peer d = d := if_pos h

/-! ### Of a session (R400) -/

theorem tamjorRequestOp_session {v : Variant} {d : Dev} {x : Session} (ht : takes d m peer 0x01 = true) (hw : messageWaits d m = false)
    (h0 : (readHeader m).sid ≠ 0) (hx : d.tam.session (readHeader m).sid = some x) : tamjorRequestOp v m peer d = sessionRequest v x m peer d := by
  unfold tamjorRequestOp
  rw [ht, hw, hx]
  exact (if_neg (by decide)).trans (if_neg h0)

theorem find_modSession {l : List Session} {x : Session} {sid : Nat} (hx : l.find? (fun s => s.sid = sid) = some x) {f : Session → Session}
    (hf : ∀ y, (f y).sid = y.sid) : (l.map fun s => if s.sid = sid then f s else s).find? (fun s => s.sid = sid) = some (f x) := by
  induction l with
  | nil => cases hx
  | cons y l ih =>
    rw [List.find?_cons] at hx
    rw [List.map_cons, List.find?_cons]
    by_cases hy : y.sid = sid
    · rw [decide_eq_true hy] at hx
      cases hx
      rw [if_pos hy, hf, decide_eq_true hy]
    · rw [decide_eq_false hy] at hx
      rw [if_neg hy, decide_eq_false hy]
      exact ih hx

theorem session_modSession {d : Dev} {x : Session} {sid : Nat} (hx : d.tam.session sid = some x) {f : Session → Session} (hf : ∀ y, (f y).sid = y.sid) :
    (modSession x.sid f d).tam.session x.sid = some (f x) := by
  have hsid := Tam.session_sid hx
  rw [hsid]
  exact find_modSession hx hf

/-- R400: a message whose signature fails is counted, and the sixteenth closes the session. -/
theorem request_unsigned {x : Session} (ht : takes s.dev m peer 0x01 = true) (hw : messageWaits s.dev m = false) (h0 : (readHeader m).sid ≠ 0)
    (hx : s.dev.tam.session (readHeader m).sid = some x) (hg : sigGood s.dev x m = false) : ∃ t, exec (.tamjorRequest m peer) s = .next t ∧
      t = s.on { s.dev with tam := t.dev.tam, ctr := t.dev.ctr } ∧ Counted s.dev t.dev 0x1104 2 1 ∧
      (x.bad + 1 < 16 → t.dev.tam.session x.sid = some { x with bad := x.bad + 1 }) ∧
      (16 ≤ x.bad + 1 → t.dev.tam.session x.sid = none) := by
  have hctr : Counted s.dev (discard s.dev) 0x1104 2 1 := s.dev.counted_count 0x1104 2 1
  refine ⟨_, exec_tamjorRequest .., ?_⟩
  simp only [State.on_dev]
  have hop : sessionRequest s.variant x m peer s.dev = badSignature x s.dev := if_pos (by rw [hg]; rfl)
  rw [tamjorRequestOp_session ht hw h0 hx, hop, badSignature]
  split
  · next hb =>
    have hd : (discard s.dev).tam.session (readHeader m).sid = some x := hx
    exact ⟨rfl, hctr, fun _ => session_modSession (f := fun x => { x with bad := x.bad + 1 }) hd fun _ => rfl, fun h => by omega⟩
  · exact ⟨rfl, hctr, fun h => by omega, fun _ => find_filter_sid ..⟩

theorem sessionRequest_signed {v : Variant} {d : Dev} {x : Session} (hg : sigGood d x m = true) : sessionRequest v x m peer d =
    if (readHeader m).mseq = x.mseq then
      sendTo peer (signedMsg x.nm x.nd (responseMsg stRepeat x.sid (readHeader m).mseq x.last)) ((countMessage d).count 0x1104 3 1)
    else if (readHeader m).mseq ≠ (x.mseq + 1) % 2 ^ 32 then
      sendTo peer (signedMsg x.nm x.nd (responseMsg stAliveGap x.sid (readHeader m).mseq [0])) (countMessage d)
    else
      let r := runRequest v x.sid m (countMessage d)
      finishChanges v r.2.2.1 (sendTo peer (signedMsg x.nm x.nd (responseMsg r.1 x.sid (readHeader m).mseq r.2.1))
        (modSession x.sid (fun y => { y with mseq := (readHeader m).mseq, last := r.2.1, idle := idleLimit (countMessage d) }) r.2.2.2)) :=
  if_neg (by rw [hg]; decide)

end

/-! ### The mailboxes (R402, R403) -/

section
variable {s : State} {p : Nat}

/-- A mailbox message that is a REQUEST to run. -/
def mailRun (v : Variant) (p : Nat) (m : Bytes) (d : Dev) : Dev :=
  match requestEntries m with
  | .error st => mailRespond p (responseMsg st 0 (readHeader m).mseq [0]) d
  | .ok es =>
    let a := applyEntries v (.port p) 0 es d
    finishChanges v a.changes (mailRespond p (responseMsg stSuccess 0 (readHeader m).mseq (toLe 1 es.length ++ a.results)) a.dev)

theorem mailRun_read {m : Bytes} {e : ReqEntry} (hm : requestEntries m = .ok [e]) (ho : e.op = 1) (hi : e.idx ≠ 0x5800) (v : Variant) (p : Nat) (d : Dev) :
    mailRun v p m d = mailRespond p (responseMsg stSuccess 0 (readHeader m).mseq
      (1 :: resultBytes e (odRead v d (.port p) 0 e.idx e.sub e.len).1 (odRead v d (.port p) 0 e.idx e.sub e.len).2)) d := by
  unfold mailRun
  rw [hm]
  dsimp only
  rw [applyEntries_read ho hi]
  rfl

/-- A mailbox whose go has an effect. -/
theorem mailboxGoOp_goes {v : Variant} {d : Dev} (hp : portPresent v p = true) (hu : portUp v d p = true)
    (hgo : (d.port p).go = true ∨ (d.port p).done = false) : mailboxGoOp v p d =
      if messageWaits d (mailMessage d p) then d.modPort p (fun x => { x with go := true })
      else if 16 ≤ (mailMessage d p).length ∧ (readHeader (mailMessage d p)).ver ≠ 1 then d.modPort p (fun x => { x with go := false })
      else if mailStatus (mailMessage d p) ≠ stSuccess then
        mailRespond p (responseMsg (mailStatus (mailMessage d p)) (readHeader (mailMessage d p)).sid (readHeader (mailMessage d p)).mseq [0]) d
      else mailRun v p (mailMessage d p) d := by
  refine (if_neg ?_).trans rfl
  rw [hp, hu]
  rcases hgo with h | h <;> simp [h]

theorem mailboxGoOp_idle {v : Variant} {d : Dev} (hg : (d.port p).go = false) (hd : (d.port p).done = true) : mailboxGoOp v p d = d :=
  if_pos (by rw [hg, hd]; simp)

/-- The response of a mailbox message. -/
theorem mail_answered (p : Nat) (b : Bytes) (s : State) :
    s.on (mailRespond p b s.dev) = s.on { s.dev with ports := (mailRespond p b s.dev).ports } ∧ OnlyPort s.dev (mailRespond p b s.dev) p ∧
      (mailRespond p b s.dev).port p =
        { s.dev.port p with go := false, done := true, mailOut := ((mailRespond p b s.dev).port p).mailOut, rlen := BitVec.ofNat 13 b.length } ∧
      mread ((mailRespond p b s.dev).port p).mailOut 0 b.length = b := by
  have hport := s.dev.port_modPort_same p fun x => { x with go := false, done := true, mailOut := mwrite x.mailOut 0 b, rlen := BitVec.ofNat 13 b.length }
  rw [show mailRespond p b s.dev = s.dev.modPort p _ from rfl, hport]
  exact ⟨rfl, fun _ hq => s.dev.port_modPort_other _ hq, rfl, mread_mwrite b _ 0⟩

theorem mail_flag (p : Nat) (g : Bool) (s : State) :
    s.on (s.dev.modPort p fun x => { x with go := g }) = s.on { s.dev with ports := (s.dev.modPort p fun x => { x with go := g }).ports } ∧
      OnlyPort s.dev (s.dev.modPort p fun x => { x with go := g }) p ∧ (s.dev.modPort p fun x => { x with go := g }).port p = { s.dev.port p with go := g } :=
  ⟨rfl, fun _ hq => s.dev.port_modPort_other _ hq, s.dev.port_modPort_same ..⟩

end

/-- Settles O54: a request outside and in a session by its branches, a mailbox message by whether it waits, is of this version and runs. -/
theorem requestsAnswered : Obligations.RequestsAnswered := by
  refine ⟨fun s m peer ht hw h0 => ⟨fun h => ?_, fun h hl => ⟨fun st hm => ?_, fun e hm ho hi => ?_⟩⟩,
    fun s m peer x ht hw h0 hx => ⟨request_unsigned ht hw h0 hx, fun hg hq => ?_, fun hg hq hq' => ?_, fun e hg hq hq' hm ho hi => ?_⟩,
    fun s p hp hu => ⟨fun hg hd => ?_, fun hgo => ⟨fun hw => ?_, fun hw hl hv => ?_, fun hw hv hst => ?_, fun e hw hst hv hm ho hi => ?_⟩⟩⟩
  · rw [exec_tamjorRequest, tamjorRequestOp_plain ht hw h0, plainRequest_dropped h]
    rfl
  · rw [exec_tamjorRequest, tamjorRequestOp_plain ht hw h0, plainRequest_runs h hl, runRequest_error hm]
    rfl
  · rw [exec_tamjorRequest, tamjorRequestOp_plain ht hw h0, plainRequest_runs h hl, runRequest_read hm ho hi]
    rfl
  · refine ⟨_, exec_tamjorRequest .., ?_⟩
    simp only [State.on_dev]
    rw [tamjorRequestOp_session ht hw h0 hx, sessionRequest_signed hg, if_pos hq, hq]
    rfl
  · refine ⟨_, exec_tamjorRequest .., ?_⟩
    simp only [State.on_dev]
    rw [tamjorRequestOp_session ht hw h0 hx, sessionRequest_signed hg, if_neg hq, if_pos hq']
    rfl
  · refine ⟨_, exec_tamjorRequest .., ?_⟩
    simp only [State.on_dev]
    rw [tamjorRequestOp_session ht hw h0 hx, sessionRequest_signed hg, if_neg hq, if_neg (not_not_intro hq'), runRequest_read hm ho hi]
    have hd : (countMessage s.dev).tam.session (readHeader m).sid = some x := hx
    exact ⟨rfl, s.dev.counted_count 0x1104 1 1, session_modSession hd fun _ => rfl⟩
  · rw [exec_mailboxGo, mailboxGoOp_idle hg hd]
    rfl
  · refine ⟨_, exec_mailboxGo .., ?_⟩
    simp only [State.on_dev]
    rw [mailboxGoOp_goes hp hu hgo, if_pos hw]
    exact mail_flag p true s
  · refine ⟨_, exec_mailboxGo .., ?_⟩
    simp only [State.on_dev]
    rw [mailboxGoOp_goes hp hu hgo, hw, if_neg Bool.false_ne_true, if_pos ⟨hl, hv⟩]
    exact mail_flag p false s
  · refine ⟨_, exec_mailboxGo .., ?_⟩
    simp only [State.on_dev]
    rw [mailboxGoOp_goes hp hu hgo, hw, if_neg Bool.false_ne_true, if_neg hv, if_pos hst]
    exact mail_answered p _ s
  · refine ⟨_, exec_mailboxGo .., ?_⟩
    simp only [State.on_dev]
    rw [mailboxGoOp_goes hp hu hgo, hw, if_neg Bool.false_ne_true, if_neg (fun h => h.2 hv), if_neg (not_not_intro hst), mailRun_read hm ho hi]
    exact mail_answered p _ s

end Sys2Proof.Machine

/-!
PROOFS for the life cycle and tamper (R469 to R477): what a hold of the hubs leaves, the token, the attestation, and the tamper sequence.
-/
namespace Sys2Proof.Machine

open Sys2Proof

/-! ### What a hold of the hubs leaves -/

/-- From `d` to `e` the hubs' work and contents may be gone; what the standby controller holds, the sequence, the event log, the free values and the
remapping of the stacks are as they were, and records of the firmware may wait. -/
structure StandbyKept (d e : Dev) : Prop where
  sec : e.sec = d.sec
  tam : e.tam = d.tam
  stby : e.mem.stby = d.mem.stby
  remap : e.mem.remap = d.mem.remap
  log : e.log = d.log
  vals : e.vals = d.vals
  seq : e.seq = d.seq
  free : e.free = d.free
  timers : e.hubTimer = d.hubTimer
  jour : e.jour = { d.jour with waiting := e.jour.waiting }

section
variable {d e : Dev}

theorem StandbyKept.refl (d : Dev) : StandbyKept d d := ⟨rfl, rfl, rfl, rfl, rfl, rfl, rfl, rfl, rfl, rfl⟩

theorem StandbyKept.trans {f : Dev} (h : StandbyKept d e) (h' : StandbyKept e f) : StandbyKept d f :=
  ⟨h'.sec.trans h.sec, h'.tam.trans h.tam, h'.stby.trans h.stby, h'.remap.trans h.remap, h'.log.trans h.log, h'.vals.trans h.vals,
   h'.seq.trans h.seq, h'.free.trans h.free, h'.timers.trans h.timers, by rw [h'.jour, h.jour]⟩

theorem standbyKept_foldl {α : Type} (f : Dev → α → Dev) (l : List α) (hf : ∀ e a, StandbyKept e (f e a)) (d : Dev) : StandbyKept d (l.foldl f d) :=
  List.foldlRecOn (motive := StandbyKept d) l f (StandbyKept.refl d) fun e he a _ => he.trans (hf e a)

theorem standbyKept_dropRepairs (m : Nat) (b : Bool) (d : Dev) : StandbyKept d (dropRepairs m b d) := by
  have hjour : (dropRepairs m b d).jour = { d.jour with waiting := (dropRepairs m b d).jour.waiting } := by
    unfold dropRepairs
    dsimp only
    split
    · rfl
    · rw [Dev.fwCount, Dev.fwP]
      split <;> rfl
  rw [dropRepairs_frame] at hjour ⊢
  exact ⟨rfl, rfl, rfl, rfl, rfl, rfl, rfl, rfl, rfl, hjour⟩

theorem standbyKept_abandonLoad (l : Load) (d : Dev) : StandbyKept d (abandonLoad l d) :=
  (standbyKept_foldl (fun d t => (dropRepairs t.1 t.2 d).modMac t.1 fun x => x.setBank t.2 {}) l.targets
    (fun e t => (standbyKept_dropRepairs t.1 t.2 e).trans ⟨rfl, rfl, rfl, rfl, rfl, rfl, rfl, rfl, rfl, rfl⟩) d).trans
    ⟨rfl, rfl, rfl, rfl, rfl, rfl, rfl, rfl, rfl, rfl⟩

theorem standbyKept_removeTile (t : Tile) (d : Dev) : StandbyKept d (removeTile t d) := by
  rw [(tilesLeft_removeTile t d).frame]
  exact ⟨rfl, rfl, rfl, rfl, rfl, rfl, rfl, rfl, rfl, rfl⟩

/-- The hubs lose the module's work (R485). -/
structure WorkLost (d e : Dev) : Prop where
  kept : StandbyKept d e
  cmds : e.cmds = []
  comps : e.comps = []
  jobs : e.jobs = []
  tiles : e.tiles = []
  allocs : e.allocs = []

theorem workLost_loseWork (d : Dev) : WorkLost d (loseWork d) := by
  have h1 := standbyKept_foldl (fun d l => abandonLoad l d) d.loads (fun e l => standbyKept_abandonLoad l e) d
  generalize hf : d.loads.foldl (fun d l => abandonLoad l d) d = f at h1
  have h2 := h1.trans (standbyKept_foldl (fun d t => removeTile t d) f.tiles (fun e t => standbyKept_removeTile t e) f)
  unfold loseWork
  rw [hf]
  refine ⟨h2.trans ⟨rfl, rfl, rfl, rfl, rfl, rfl, rfl, rfl, rfl, rfl⟩, rfl, rfl, rfl, rfl, rfl⟩

theorem WorkLost.later {f : Dev} (h : WorkLost d e) (hk : StandbyKept e f)
    (hw : f.cmds = e.cmds ∧ f.comps = e.comps ∧ f.jobs = e.jobs ∧ f.tiles = e.tiles ∧ f.allocs = e.allocs) : WorkLost d f :=
  ⟨h.kept.trans hk, hw.1.trans h.cmds, hw.2.1.trans h.comps, hw.2.2.1.trans h.jobs, hw.2.2.2.1.trans h.tiles, hw.2.2.2.2.trans h.allocs⟩

/-- A slice written back and emptied: its lines, the stack and what waits at it. -/
structure SliceReset (d e : Dev) : Prop where
  frame : e = { d with mem := e.mem, ctr := e.ctr }
  stby : e.mem.stby = d.mem.stby
  remap : e.mem.remap = d.mem.remap

theorem sliceReset_resetSlice (k : Nat) (d : Dev) : SliceReset d (resetSlice k d) := by
  have hwb : SliceReset d (writeBackSlice k d) :=
    List.foldlRecOn (motive := SliceReset d) _ _ ⟨rfl, rfl, rfl⟩ fun e he x _ => ⟨by rw [Dev.count, he.frame], he.stby, he.remap⟩
  exact ⟨by rw [resetSlice, emptySlice, hwb.frame], hwb.stby, hwb.remap⟩

theorem sliceReset_resetSlices (d : Dev) : SliceReset d (resetSlices d) :=
  List.foldlRecOn (motive := SliceReset d) _ _ ⟨rfl, rfl, rfl⟩ fun e he k _ => by
    have h := sliceReset_resetSlice k e
    exact ⟨by rw [h.frame, he.frame], h.stby.trans he.stby, h.remap.trans he.remap⟩

theorem SliceReset.kept (h : SliceReset d e) : StandbyKept d e := by
  have hf := h.frame
  exact ⟨by rw [hf], by rw [hf], h.stby, h.remap, by rw [hf], by rw [hf], by rw [hf], by rw [hf], by rw [hf], by rw [hf]⟩

theorem standbyKept_resetHubs (d : Dev) : StandbyKept d (resetHubs d) := ⟨rfl, rfl, rfl, rfl, rfl, rfl, rfl, rfl, rfl, rfl⟩

theorem workLost_hubs (d : Dev) : WorkLost d (resetHubs (resetSlices (loseWork d))) := by
  have h := sliceReset_resetSlices (loseWork d)
  have hw : WorkLost d (resetSlices (loseWork d)) :=
    (workLost_loseWork d).later h.kept (by rw [h.frame]; exact ⟨rfl, rfl, rfl, rfl, rfl⟩)
  generalize resetSlices (loseWork d) = f at hw ⊢
  exact hw.later (standbyKept_resetHubs f) ⟨rfl, rfl, rfl, rfl, rfl⟩

/-- The sequence when the module is held. -/
def Seq.held (v : Variant) (q : Seq) : Seq := { q with hubHeld := hubsPresent v, mainPg := false, tests := [], deferred := [] }

/-- The block with the sequence and the event log of another. -/
def Dev.toldAs (e d : Dev) : Dev := { e with seq := d.seq, log := d.log }

theorem holdModule_held (v : Variant) (d : Dev) :
    WorkLost d ((holdModule v d).toldAs d) ∧ (holdModule v d).seq = d.seq.held v ∧ (holdModule v d).log = d.log := by
  have hw := workLost_hubs d
  unfold holdModule
  generalize resetHubs (resetSlices (loseWork d)) = f at hw ⊢
  obtain ⟨⟨h1, h2, h3, h4, h5, h6, h7, h8, h9, h10⟩, h11, h12, h13, h14, h15⟩ := hw
  refine ⟨⟨⟨h1, h2, h3, h4, rfl, h6, rfl, h8, h9, h10⟩, h11, h12, h13, h14, h15⟩, ?_, h5⟩
  show Seq.held v f.seq = _
  rw [h7]

/-- The sequence in the safe state (R459). -/
def Seq.heldSafe (v : Variant) (q : Seq) : Seq :=
  { q.held v with phase := if q.phase == .off then .off else .safe, safe := true, faultN := false }

structure SafeEntered (v : Variant) (d e : Dev) : Prop where
  lost : WorkLost d (e.toldAs d)
  seq : e.seq = d.seq.heldSafe v
  log : e.log = if d.seq.safe then d.log else (d.post evSafeState 0 0 []).log

theorem holdAll_held (v : Variant) (d : Dev) : WorkLost d ((holdAll v d).toldAs d) ∧
    (holdAll v d).seq = { d.seq.held v with phase := if d.seq.phase == .off then .off else .safe } ∧ (holdAll v d).log = d.log := by
  obtain ⟨h1, h2, h3⟩ := holdModule_held v d
  unfold holdAll
  generalize holdModule v d = f at h1 h2 h3 ⊢
  refine ⟨h1, ?_, h3⟩
  show ({ f.seq with phase := if f.seq.phase == .off then .off else .safe } : Seq) = _
  rw [h2]
  rfl

theorem enterSafe_safe (v : Variant) (d : Dev) : SafeEntered v d (enterSafe v d) := by
  obtain ⟨h1, h2, h3⟩ := holdAll_held v d
  unfold enterSafe
  generalize holdAll v d = f at h1 h2 h3 ⊢
  dsimp only
  generalize hg : driveFault { f with seq := { f.seq with safe := true } } = g
  have hgf : g = { f with seq := { f.seq with safe := true, faultN := false } } := by rw [← hg]; rfl
  have hseq : g.seq = d.seq.heldSafe v := by rw [hgf, h2]; rfl
  have hlog : g.log = d.log := by rw [hgf, h3]
  have htimer : g.hubTimer = d.hubTimer := by rw [hgf]; exact h1.kept.timers
  have hlost : WorkLost d (g.toldAs d) := by rw [hgf]; exact h1
  split
  · next hs => exact ⟨hlost, hseq, by rw [if_pos hs]; exact hlog⟩
  · next hs =>
    refine ⟨hlost, hseq, ?_⟩
    rw [if_neg hs, Dev.post, Dev.post, hlog, htimer]

/-! ### The identity key and a change of the life-cycle state -/

theorem keyFault_sec (v : Variant) (d : Dev) : (keyFault v d).sec = { d.sec with key := false } ∧ (keyFault v d).tam = d.tam := by
  have hs : ({ d with sec := { d.sec with key := false } }.post evKeyFault 0 0 []).sec = { d.sec with key := false } := rfl
  have ht : ({ d with sec := { d.sec with key := false } }.post evKeyFault 0 0 []).tam = d.tam := rfl
  rw [keyFault]
  generalize { d with sec := { d.sec with key := false } }.post evKeyFault 0 0 [] = f at hs ht ⊢
  obtain ⟨⟨hk, -, -, -, -, -⟩, -, -⟩ := enterSafe_safe v f
  have h1 : (enterSafe v f).sec = f.sec := hk.sec
  have h2 : (enterSafe v f).tam = f.tam := hk.tam
  exact ⟨h1.trans hs, h2.trans ht⟩

theorem deriveKey_sec (v : Variant) (d : Dev) :
    (deriveKey v d).sec = { d.sec with key := Config.keyMatches d.free } ∧ (deriveKey v d).tam = d.tam := by
  unfold deriveKey
  split
  · next h => rw [h]; exact ⟨rfl, rfl⟩
  · next h =>
    rw [Bool.eq_false_iff.mpr h]
    exact keyFault_sec v d.drawn

theorem fwP_frame (d : Dev) (idx sub : Nat) (b : Bytes) : d.fwP idx sub b = { d with jour := (d.fwP idx sub b).jour } := by
  rw [Dev.fwP]
  split <;> rfl

theorem alsoDone_frame (v : Variant) (old new : Nat) (d : Dev) : alsoDone v old new d = { d with jour := (alsoDone v old new d).jour } := by
  have hfw (l : List Nat) (e : Dev) : l.foldl (fun d j => d.fwP 0x7010 j []) e = { e with jour := (l.foldl (fun d j => d.fwP 0x7010 j []) e).jour } :=
    List.foldlRecOn (motive := fun x : Dev => x = { e with jour := x.jour }) _ _ rfl fun x hx j _ => by rw [fwP_frame, hx]
  have hq (l : List Nat) (e : Dev) :
      l.foldl (fun (d : Dev) k => d.queueP [(k, (odEntry (k / 256) (k % 256)).elim [] defaultBytes)] .other true) e =
        { e with jour := (l.foldl (fun (d : Dev) k => d.queueP [(k, (odEntry (k / 256) (k % 256)).elim [] defaultBytes)] .other true) e).jour } :=
    List.foldlRecOn (motive := fun x : Dev => x = { e with jour := x.jour }) _ _ rfl fun x hx j _ => by rw [Dev.queueP, hx]
  unfold alsoDone
  dsimp only
  split
  · split
    · rw [hq, hfw]
    · rw [hfw]
  · rfl

theorem finishChange_sec (v : Variant) (old new : Nat) (d : Dev) :
    ∃ k, (finishChange v old new d).sec = { d.sec with key := k } ∧ (finishChange v old new d).tam.sessions = [] := by
  have hal := alsoDone_frame v old new (closeSessions (secureWipe d))
  obtain ⟨hs, ht⟩ := deriveKey_sec v (alsoDone v old new (closeSessions (secureWipe d)))
  unfold finishChange
  generalize alsoDone v old new (closeSessions (secureWipe d)) = a at hal hs ht ⊢
  generalize deriveKey v a = f at hs ht ⊢
  have hfs : f.sec = { d.sec with key := Config.keyMatches a.free } := by rw [hs, hal]; rfl
  have hft : f.tam.sessions = [] := by rw [ht, hal]; rfl
  dsimp only
  split
  · have hk := (holdAll_held v (f.post evLcChange 0 0 [(1, old), (1, new)])).1.kept
    exact ⟨_, hk.sec.trans hfs, (congrArg Tam.sessions hk.tam).trans hft⟩
  · exact ⟨_, hfs, hft⟩

end

/-! ### The token (R469 to R473) -/

theorem exec_tokenCommit (s : State) (r : OdReq) : exec (.tokenCommit r) s = .next (s.on (tokenCommitOp s.variant r s.dev)) := rfl

theorem exec_attestationNonce (s : State) (r : OdReq) : exec (.attestationNonce r) s = .next (s.on (attestationNonceOp s.variant r s.dev)) := rfl

theorem exec_retryBoot (s : State) (r : OdReq) : exec (.retryBoot r) s = .next (s.on (retryBootOp s.variant r s.dev)) := rfl

theorem exec_tamper (s : State) (code ns : Nat) : exec (.tamper code ns) s = .next (s.on (tamperOp s.variant code ns s.dev)) := rfl

theorem exec_tamperConditionClear (s : State) (code : Nat) :
    exec (.tamperConditionClear code) s = .next (s.on (tamperConditionClearOp s.variant code s.dev)) := rfl

/-- A token that passes: dictionary requests are held, and the record of the change waits. -/
def changeBegun (r : OdReq) (new : Nat) (d : Dev) : Dev :=
  { (match r.cmd with | some id => d.busy id | none => d) with
    sec := { d.sec with changing := true }
    jour := { d.jour with waiting := d.jour.waiting ++
      [{ vals := changeVals d new, waiter := .lifecycle (sourceIdx r.src) r.cmd d.sec.lcs new, tries := 0, paid := true }] } }

theorem tokenCommitOp_of_taken {v : Variant} {d : Dev} {r : OdReq} (h : ReqTaken v d r 0x7020) (hs : r.sub = 4) : tokenCommitOp v r d =
    if leNat r.value = 0 then reqDone r stSuccess d
    else if tokenStatus d (stagedBody d r.src) (stagedSig d r.src) ≠ stSuccess then
      reqDone r (tokenStatus d (stagedBody d r.src) (stagedSig d r.src)) (rejectToken d)
    else changeBegun r (fieldAt (stagedBody d r.src) 6 1) d := by
  obtain ⟨hready, hearly, hshort, hchecks⟩ := h
  have hn : odNames 0x7020 r.value = none := if_neg (by rintro (h | h) <;> exact absurd h.1 (by decide))
  rw [hn, hs] at hearly
  rw [hs] at hchecks
  unfold tokenCommitOp
  rw [if_neg (by simp [hs, hready])]
  dsimp only
  rw [hearly, hshort, hchecks, if_neg (fun h => absurd h.1 (by decide)), if_neg (not_not_intro rfl), if_neg Bool.false_ne_true, if_neg (not_not_intro rfl)]
  split
  · rfl
  · split
    · rfl
    · rw [changeBegun]
      cases r.cmd <;> rfl

theorem tokenStatus_ne (d : Dev) (b sig : Bytes) : tokenStatus d b sig ≠ stHostAccess := by
  unfold tokenStatus
  extract_lets
  split
  · decide
  split
  · decide
  split
  · decide
  split
  · decide
  split
  · decide
  split <;> decide

theorem token_nothing {s : State} {r : OdReq} (h : ReqTaken s.variant s.dev r 0x7020) (hs : r.sub = 4) (hv : leNat r.value = 0) :
    ∃ t, exec (.tokenCommit r) s = .next t ∧ t = s.on { s.dev with cmds := t.dev.cmds, comps := t.dev.comps } ∧ ReqEnded s.dev t.dev r stSuccess := by
  have hend : ReqEnded s.dev (reqDone r stSuccess s.dev) r stSuccess := reqEnded_reqDone ⟨rfl, rfl⟩ r (by decide)
  refine ⟨_, exec_tokenCommit .., ?_⟩
  simp only [State.on_dev]
  rw [tokenCommitOp_of_taken h hs, if_pos hv]
  exact ⟨congrArg s.on (reqDone_frame r (by decide) s.dev), hend⟩

theorem reported_rejectToken (d : Dev) : rejectToken d = { d with ctr := (rejectToken d).ctr, log := (rejectToken d).log, marks := (rejectToken d).marks } := by
  unfold rejectToken
  dsimp only
  split <;> rfl

theorem counted_rejectToken (d : Dev) : Counted d (rejectToken d) 0x7040 1 1 := by
  unfold rejectToken
  dsimp only
  split <;> exact d.counted_count 0x7040 1 1

theorem token_rejected {s : State} {r : OdReq} (h : ReqTaken s.variant s.dev r 0x7020) (hs : r.sub = 4) (hv : leNat r.value ≠ 0)
    (ht : tokenStatus s.dev (stagedBody s.dev r.src) (stagedSig s.dev r.src) ≠ stSuccess) : ∃ t, exec (.tokenCommit r) s = .next t ∧
      ReqEnded s.dev t.dev r (tokenStatus s.dev (stagedBody s.dev r.src) (stagedSig s.dev r.src)) ∧
      t = s.on { s.dev with ctr := t.dev.ctr, log := t.dev.log, marks := t.dev.marks, cmds := t.dev.cmds, comps := t.dev.comps } ∧
      Counted s.dev t.dev 0x7040 1 1 := by
  have hne := tokenStatus_ne s.dev (stagedBody s.dev r.src) (stagedSig s.dev r.src)
  refine ⟨_, exec_tokenCommit .., ?_⟩
  simp only [State.on_dev]
  rw [tokenCommitOp_of_taken h hs, if_neg hv, if_pos ht]
  generalize tokenStatus s.dev (stagedBody s.dev r.src) (stagedSig s.dev r.src) = st at hne ⊢
  have hrep := reported_rejectToken s.dev
  have hcnt := counted_rejectToken s.dev
  generalize rejectToken s.dev = f at hrep hcnt ⊢
  have hend : ReqEnded s.dev (reqDone r st f) r st := reqEnded_reqDone (by rw [hrep]; exact ⟨rfl, rfl⟩) r hne
  have hfr := reqDone_frame r hne f
  generalize reqDone r st f = g at hend hfr ⊢
  exact ⟨hend, by rw [hfr, hrep], by rw [hfr]; exact hcnt⟩

/-- What the records of a change bring: the state and the counter. -/
def changeLanded (new : Nat) (d : Dev) : Dev := { d with sec := { d.sec with lcs := new % 256, lcount := (d.sec.lcount + 1) % 2 ^ 32 } }

theorem landP_change (v : Variant) (new n : Nat) (d : Dev) :
    landP v (odKey 0x7001 2) (toLe 4 n) (landP v (odKey 0x7001 1) (toLe 1 new) d) =
      { d with sec := { d.sec with lcs := new % 256, lcount := n % 2 ^ 32 } } := by
  have h1 : ∀ b e, landP v (odKey 0x7001 1) b e = { e with sec := { e.sec with lcs := leNat b } } := fun _ _ => rfl
  have h2 : ∀ b e, landP v (odKey 0x7001 2) b e = { e with sec := { e.sec with lcount := leNat b } } := fun _ _ => rfl
  rw [h1, h2, leNat_toLe_mod, leNat_toLe_mod]
  rfl

theorem programRecs_frame (l : List (Nat × Bytes)) (d : Dev) : l.foldl (fun d e => programRec e.1 e.2 true d) d =
    { d with jour := (l.foldl (fun d e => programRec e.1 e.2 true d) d).jour, ctr := (l.foldl (fun d e => programRec e.1 e.2 true d) d).ctr } :=
  List.foldlRecOn (motive := fun x : Dev => x = { d with jour := x.jour, ctr := x.ctr }) _ _ rfl fun x hx e _ => by
    rw [(programmed_programRec e.1 e.2 true x).frame, hx]

theorem leNat_lt (b : Bytes) : leNat b < 256 ^ b.length := by
  induction b with
  | nil => exact Nat.one_pos
  | cons x b ih =>
    have hx : x.toNat < 256 := x.isLt
    rw [leNat, List.length_cons, pow_succ]
    omega

theorem fieldAt_byte (b : Bytes) (off : Nat) : fieldAt b off 1 < 256 := by
  have h := leNat_lt ((b.drop off).take 1)
  have hl : ((b.drop off).take 1).length ≤ 1 := by
    rw [List.length_take]
    exact min_le_left _ _
  have := Nat.pow_le_pow_right (n := 256) (by omega) hl
  rw [fieldAt]
  omega

/-- The record at the front, paid for and programmed, brings its values and answers whoever waits. -/
theorem recordStep_lands {v : Variant} {d : Dev} {w : JWrite} {rest : List JWrite} (hw : d.jour.waiting = w :: rest) (hp : w.paid = true)
    (hf : recordFits d w.vals = true) : recordStep v true d = settleWrite v w.waiter stSuccess
      (w.vals.foldl (fun d e => landP v e.1 e.2 d) (w.vals.foldl (fun d e => programRec e.1 e.2 true d) (jourTaken rest d))) := by
  unfold recordStep
  rw [hw]
  simp only [hf, hp]
  rfl

/-- The block before a change's last orders, its record verified: whoever waits is answered. -/
def changeAnswered (src : Nat) (id : Option Nat) (d : Dev) : Dev :=
  match id with
  | some c => (clearStaging src d).succeeds c 0
  | none => clearStaging src d

theorem changeAnswered_sec (src : Nat) (id : Option Nat) (d : Dev) :
    (changeAnswered src id d).sec.lcs = d.sec.lcs ∧ (changeAnswered src id d).sec.lcount = d.sec.lcount ∧ (changeAnswered src id d).sec.changing = false := by
  unfold changeAnswered
  split
  · rw [succeeds_frame]
    exact ⟨rfl, rfl, rfl⟩
  · exact ⟨rfl, rfl, rfl⟩

theorem settleWrite_change (v : Variant) (src old new : Nat) (id : Option Nat) (d : Dev) :
    settleWrite v (.lifecycle src id old new) stSuccess d = finishChange v old new (changeAnswered src id d) := by
  cases id with
  | none =>
    unfold settleWrite
    exact if_pos rfl
  | some c =>
    unfold settleWrite
    exact if_pos rfl

/-- The record of a change, programmed and read back: the state has changed and no session is open. -/
theorem change_programmed {v : Variant} {d : Dev} {src old new : Nat} {id : Option Nat} {n : Nat} {w : JWrite}
    (hw : d.jour.waiting = [w]) (hp : w.paid = true) (hv : w.vals = [(odKey 0x7001 1, toLe 1 new), (odKey 0x7001 2, toLe 4 n)])
    (hwt : w.waiter = .lifecycle src id old new) (hf : recordFits d w.vals = true) :
    (recordStep v true d).sec.lcs = new % 256 ∧ (recordStep v true d).sec.changing = false ∧ (recordStep v true d).sec.lcount = n % 2 ^ 32 ∧
      (recordStep v true d).tam.sessions = [] := by
  rw [recordStep_lands hw hp hf, hwt, settleWrite_change]
  generalize w.vals.foldl (fun d e => programRec e.1 e.2 true d) (jourTaken [] d) = g
  have hland : w.vals.foldl (fun d e => landP v e.1 e.2 d) g = { g with sec := { g.sec with lcs := new % 256, lcount := n % 2 ^ 32 } } := by
    rw [hv, List.foldl_cons, List.foldl_cons, List.foldl_nil]
    exact landP_change v new n g
  rw [hland]
  obtain ⟨h1, h2, h3⟩ := changeAnswered_sec src id { g with sec := { g.sec with lcs := new % 256, lcount := n % 2 ^ 32 } }
  generalize changeAnswered src id { g with sec := { g.sec with lcs := new % 256, lcount := n % 2 ^ 32 } } = m at h1 h2 h3 ⊢
  obtain ⟨k, hk, ht⟩ := finishChange_sec v old new m
  rw [hk]
  exact ⟨h1, h3, h2, ht⟩

theorem token_passes {s : State} {r : OdReq} (h : ReqTaken s.variant s.dev r 0x7020) (hs : r.sub = 4) (hv : leNat r.value ≠ 0)
    (ht : tokenStatus s.dev (stagedBody s.dev r.src) (stagedSig s.dev r.src) = stSuccess) :
    let b := stagedBody s.dev r.src
    ∃ t, exec (.tokenCommit r) s = .next t ∧
      t = s.on { s.dev with sec := { s.dev.sec with changing := true }, jour := t.dev.jour, cmds := t.dev.cmds } ∧ odServed t.dev = false ∧
      (let w : JWaiter := .lifecycle (sourceIdx r.src) r.cmd s.dev.sec.lcs (fieldAt b 6 1)
       t.dev.jour.waiting = s.dev.jour.waiting ++ [{ vals := changeVals s.dev (fieldAt b 6 1), waiter := w, tries := 0, paid := true }]) ∧
      (s.dev.jour.waiting = [] → programs s.dev = true → recordFits s.dev (changeVals s.dev (fieldAt b 6 1)) = true →
        ∃ u, exec (.journalRecordProgram true) t = .next u ∧ u.dev.sec.lcs = fieldAt b 6 1 ∧ u.dev.sec.changing = false ∧
          u.dev.sec.lcount = (s.dev.sec.lcount + 1) % 2 ^ 32 ∧ u.dev.tam.sessions = []) := by
  intro b
  have hnew : fieldAt b 6 1 < 256 := fieldAt_byte b 6
  have hop : tokenCommitOp s.variant r s.dev = changeBegun r (fieldAt b 6 1) s.dev := by
    rw [tokenCommitOp_of_taken h hs, if_neg hv, if_neg (not_not_intro ht)]
  have hfr : changeBegun r (fieldAt b 6 1) s.dev = { s.dev with
      sec := { s.dev.sec with changing := true }, jour := (changeBegun r (fieldAt b 6 1) s.dev).jour, cmds := (changeBegun r (fieldAt b 6 1) s.dev).cmds } := by
    rw [changeBegun]
    cases r.cmd <;> rfl
  have hj : (changeBegun r (fieldAt b 6 1) s.dev).jour = { s.dev.jour with waiting := s.dev.jour.waiting ++
      [{ vals := changeVals s.dev (fieldAt b 6 1), waiter := .lifecycle (sourceIdx r.src) r.cmd s.dev.sec.lcs (fieldAt b 6 1), tries := 0, paid := true }] } := rfl
  refine ⟨_, exec_tokenCommit .., ?_⟩
  simp only [State.on_dev]
  rw [hop]
  generalize changeBegun r (fieldAt b 6 1) s.dev = f at hfr hj ⊢
  refine ⟨congrArg s.on hfr, ?_, congrArg Jour.waiting hj, fun hw hp hf => ⟨_, exec_journalRecordProgram .., ?_⟩⟩
  · rw [odServed, hfr]
    exact Bool.and_false _
  · have hprog : programs f = true := by
      rw [programs, hj, hfr]
      exact hp
    simp only [State.on_dev]
    rw [show (s.on f).variant = s.variant from rfl, journalRecordProgramOp_of_programs hprog]
    have hwait := (congrArg Jour.waiting hj).trans (congrArg (· ++ _) hw)
    have hfits : recordFits f (changeVals s.dev (fieldAt b 6 1)) = true := by
      rw [recordFits, hj]
      exact hf
    obtain ⟨h1, h2, h3, h4⟩ := change_programmed (v := s.variant) (d := f) hwait rfl rfl rfl hfits
    exact ⟨by rw [h1, Nat.mod_eq_of_lt hnew], h2, h3, h4⟩

/-! ### Attestation and the retry of boot (R476, R477) -/

theorem nonce_attested {s : State} {r : OdReq} (h : ReqTaken s.variant s.dev r 0x7030) (hs : r.sub = 1) :
    ∃ t, exec (.attestationNonce r) s = .next t ∧
      t = s.on { s.dev with sec := t.dev.sec, cmds := t.dev.cmds, comps := t.dev.comps } ∧
      (s.dev.sec.key = false → t.dev.sec = s.dev.sec ∧ ReqEnded s.dev t.dev r stAuthFailed) ∧
      (s.dev.sec.key = true → ReqEnded s.dev t.dev r stSuccess ∧
        tfind t.dev.sec.report (sourceIdx r.src) = some (attestReport s.variant s.dev r.value) ∧
        (∃ a b, tfind t.dev.sec.repSigA (sourceIdx r.src) = some a ∧ tfind t.dev.sec.repSigB (sourceIdx r.src) = some b ∧
          a ++ b = identitySig (Config.shake256 (attestReport s.variant s.dev r.value)))) := by
  refine ⟨_, exec_attestationNonce .., ?_⟩
  simp only [State.on_dev]
  rw [attestationNonceOp, if_neg (not_not_intro hs), ownRequest_of_taken h]
  cases hk : s.dev.sec.key with
  | false =>
    have hatt : attest s.variant r.src r.value s.dev = (stAuthFailed, s.dev) := if_pos (by rw [hk]; rfl)
    have hend : ReqEnded s.dev (reqDone r stAuthFailed s.dev) r stAuthFailed := reqEnded_reqDone ⟨rfl, rfl⟩ r (by decide)
    have hfr := reqDone_frame r (st := stAuthFailed) (by decide) s.dev
    rw [hatt]
    dsimp only
    generalize reqDone r stAuthFailed s.dev = f at hend hfr ⊢
    exact ⟨by rw [hfr], fun _ => ⟨by rw [hfr], hend⟩, fun h => (Bool.false_ne_true h).elim⟩
  | true =>
    obtain ⟨sec, hatt, hr, ha, hb⟩ : ∃ sec, attest s.variant r.src r.value s.dev = (stSuccess, { s.dev with sec := sec }) ∧
        tfind sec.report (sourceIdx r.src) = some (attestReport s.variant s.dev r.value) ∧
        tfind sec.repSigA (sourceIdx r.src) = some ((identitySig (Config.shake256 (attestReport s.variant s.dev r.value))).take 2048) ∧
        tfind sec.repSigB (sourceIdx r.src) = some ((identitySig (Config.shake256 (attestReport s.variant s.dev r.value))).drop 2048) :=
      ⟨_, if_neg (by rw [hk]; decide), tfind_tset_same .., tfind_tset_same .., tfind_tset_same ..⟩
    have hend : ReqEnded s.dev (reqDone r stSuccess { s.dev with sec := sec }) r stSuccess := reqEnded_reqDone ⟨rfl, rfl⟩ r (by decide)
    have hfr := reqDone_frame r (st := stSuccess) (by decide) { s.dev with sec := sec }
    rw [hatt]
    dsimp only
    generalize reqDone r stSuccess { s.dev with sec := sec } = f at hend hfr ⊢
    have hsec : f.sec = sec := by rw [hfr]
    rw [hsec]
    exact ⟨by rw [hfr], fun h => (Bool.false_ne_true h.symm).elim, fun _ => ⟨hend, hr, _, _, ha, hb, List.take_append_drop ..⟩⟩

/-- The module when a write of 1 retries its boot. -/
def bootRetried (d : Dev) : Dev :=
  { leaveSafe d with seq := { (leaveSafe d).seq with phase := if (leaveSafe d).seq.phase == .safe then .testing else (leaveSafe d).seq.phase } }

theorem boot_refused {s : State} {r : OdReq} (h : ReqTaken s.variant s.dev r 0x5020) (hs : r.sub = 1) (hp : s.dev.sec.present ≠ []) :
    ∃ t, exec (.retryBoot r) s = .next t ∧ t = s.on { s.dev with cmds := t.dev.cmds, comps := t.dev.comps } ∧ ReqEnded s.dev t.dev r stLifecycle := by
  have hret : retryBoot r.value s.dev = (stLifecycle, s.dev) := if_pos (by simpa using hp)
  have hend : ReqEnded s.dev (reqDone r stLifecycle s.dev) r stLifecycle := reqEnded_reqDone ⟨rfl, rfl⟩ r (by decide)
  refine ⟨_, exec_retryBoot .., ?_⟩
  simp only [State.on_dev]
  rw [retryBootOp, if_neg (not_not_intro hs), ownRequest_of_taken h, hret]
  exact ⟨congrArg s.on (reqDone_frame r (st := stLifecycle) (by decide) s.dev), hend⟩

theorem boot_retried {s : State} {r : OdReq} (h : ReqTaken s.variant s.dev r 0x5020) (hs : r.sub = 1) (hp : s.dev.sec.present = [])
    (hv : leNat r.value = 1) (hsafe : s.dev.seq.safe = true) : ∃ t, exec (.retryBoot r) s = .next t ∧
      t = s.on { s.dev with vals := t.dev.vals, sec := t.dev.sec, seq := t.dev.seq, cmds := t.dev.cmds, comps := t.dev.comps } ∧
      ReqEnded s.dev t.dev r stSuccess ∧ t.dev.seq.safe = false ∧ t.dev.sec.cause = 0 ∧
      t.dev.seq.phase = if s.dev.seq.phase = .safe then .testing else s.dev.seq.phase := by
  have hret : retryBoot r.value s.dev = (stSuccess, bootRetried { s.dev with vals := tset s.dev.vals (odKey 0x5020 1) r.value }) := by
    refine (if_neg (by rw [hp]; decide)).trans (if_pos ?_)
    rw [hv]
    exact hsafe
  generalize hg : bootRetried { s.dev with vals := tset s.dev.vals (odKey 0x5020 1) r.value } = g at hret
  have hgfr : g = { s.dev with vals := g.vals, sec := g.sec, seq := g.seq } := by rw [← hg]; rfl
  have hphase : g.seq.phase = if s.dev.seq.phase = .safe then .testing else s.dev.seq.phase := by
    rw [← hg]
    cases hph : s.dev.seq.phase <;> simp [bootRetried, leaveSafe, driveFault, hph]
  have hgs : g.seq.safe = false ∧ g.sec.cause = 0 := by rw [← hg]; exact ⟨rfl, rfl⟩
  have hend : ReqEnded s.dev (reqDone r stSuccess g) r stSuccess := reqEnded_reqDone (by rw [hgfr]; exact ⟨rfl, rfl⟩) r (by decide)
  have hfr := reqDone_frame r (st := stSuccess) (by decide) g
  refine ⟨_, exec_retryBoot .., ?_⟩
  simp only [State.on_dev]
  rw [retryBootOp, if_neg (not_not_intro hs), ownRequest_of_taken h, hret]
  dsimp only
  generalize reqDone r stSuccess g = f at hend hfr ⊢
  exact ⟨by rw [hfr, hgfr], hend, by rw [hfr]; exact hgs.1, by rw [hfr]; exact hgs.2, by rw [hfr]; exact hphase⟩

/-! ### Tamper (R474 to R476) -/

/-- From `d` to `e` commits that had not gone on were abandoned. -/
structure CommitsLeft (d e : Dev) : Prop where
  frame : e = { d with sec := { d.sec with changing := e.sec.changing }, jour := e.jour, cmds := e.cmds, comps := e.comps }

theorem commitsLeft_settleWrite (v : Variant) (w : JWaiter) (d : Dev) : CommitsLeft d (settleWrite v w stUnitOffline d) := by
  unfold settleWrite
  split
  · exact ⟨rfl⟩
  · exact ⟨rfl⟩
  · rw [if_neg (by decide), (fails_frame d _ (by decide)).1]
    exact ⟨rfl⟩
  · rw [if_neg (by decide)]
    split
    · rw [(fails_frame _ _ (by decide)).1]
      exact ⟨rfl⟩
    · exact ⟨rfl⟩

theorem commitsLeft_abandonCommit (v : Variant) (d : Dev) : CommitsLeft d (abandonCommit v d) :=
  List.foldlRecOn (motive := CommitsLeft d) _ _ ⟨rfl⟩ fun e he w _ => ⟨by rw [(commitsLeft_settleWrite v w.waiter e).frame, he.frame]⟩

/-- The sequence of Table 17.9 begun by a condition. -/
structure TamperBegun (v : Variant) (code : Nat) (d e : Dev) : Prop where
  sec : e.sec.present = d.sec.present ∧ e.sec.tampering = true ∧ e.sec.key = false ∧ e.sec.cause = d.sec.cause ||| causeBit code
  stby : e.mem.stby = d.mem.stby.filter fun x => decide (x.1 < 0xC000)
  tam : e.tam.sessions = [] ∧ e.tam.pending = []
  seq : e.seq = d.seq.heldSafe v
  gone : e.cmds = [] ∧ e.jobs = [] ∧ e.tiles = []
  told : ∃ x ∈ e.log.way, x.code = evTamper

theorem tamperBegun_startTamper (v : Variant) (code : Nat) (d : Dev) : TamperBegun v code d (startTamper v code d) := by
  have hleft := (commitsLeft_abandonCommit v (closeSessions (secureWipe d))).frame
  unfold startTamper
  generalize abandonCommit v (closeSessions (secureWipe d)) = f at hleft ⊢
  dsimp only
  obtain ⟨⟨hk, hcmds, -, hjobs, htiles, -⟩, hseq, -⟩ := enterSafe_safe v f
  generalize enterSafe v f = g at hk hcmds hjobs htiles hseq ⊢
  have hs : g.sec = f.sec := hk.sec
  have ht : g.tam = f.tam := hk.tam
  have hst : g.mem.stby = f.mem.stby := hk.stby
  refine ⟨⟨?_, rfl, ?_, ?_⟩, ?_, ⟨?_, ?_⟩, ?_, ⟨hcmds, hjobs, htiles⟩, ⟨_, List.mem_append_right _ (List.mem_singleton.mpr rfl), rfl⟩⟩
  · show g.sec.present = _
    rw [hs, hleft]
    rfl
  · show g.sec.key = _
    rw [hs, hleft]
    rfl
  · show g.sec.cause ||| _ = _
    rw [hs, hleft]
    rfl
  · show g.mem.stby = _
    rw [hst, hleft]
    rfl
  · show g.tam.sessions = _
    rw [ht, hleft]
    rfl
  · show g.tam.pending = _
    rw [ht, hleft]
    rfl
  · show g.seq = _
    rw [hseq, hleft]
    rfl

theorem mget_filter_lt (m : Memory) {n a : Nat} (h : n ≤ a) : mget (m.filter fun e => decide (e.1 < n)) a = 0 := by
  have hf := tfind_filter (fun k => !decide (k < n)) m a
  simp only [tdrop, Bool.not_not] at hf
  rw [mget, tget, hf, if_pos (by simp; omega)]
  rfl

/-- A condition that is present. -/
def conditionPresent (code : Nat) (d : Dev) : Dev :=
  { d with sec := { d.sec with present := if d.sec.present.contains code then d.sec.present else d.sec.present ++ [code] } }

theorem conditionPresent_frame (code : Nat) (d : Dev) :
    conditionPresent code d = { d with sec := { d.sec with present := (conditionPresent code d).sec.present } } := rfl

theorem conditionPresent_mem (code : Nat) (d : Dev) : code ∈ (conditionPresent code d).sec.present := by
  show code ∈ (if d.sec.present.contains code then d.sec.present else d.sec.present ++ [code])
  split
  · next h => exact List.contains_iff_mem.mp h
  · exact List.mem_append_right _ (List.mem_singleton.mpr rfl)

theorem tamperOp_of_lasting {v : Variant} {d : Dev} {code ns : Nat} (hs : tamperSensed d code = true) (hn : tamperFilterNs code ≤ ns) :
    tamperOp v code ns d = if d.sec.tampering then
        { conditionPresent code d with sec := { (conditionPresent code d).sec with cause := d.sec.cause ||| causeBit code } }
      else startTamper v code (conditionPresent code d) :=
  if_neg (by rw [hs, decide_eq_false (by omega)]; decide)

section
variable {s : State} {code ns : Nat}

theorem tamper_begins (hs : tamperSensed s.dev code = true) (hn : tamperFilterNs code ≤ ns) (ht : s.dev.sec.tampering = false) :
    ∃ t, exec (.tamper code ns) s = .next t ∧ code ∈ t.dev.sec.present ∧ t.dev.sec.tampering = true ∧
      t.dev.sec.key = false ∧ t.dev.sec.cause = s.dev.sec.cause ||| BitVec.ofNat 8 (2 ^ (code - 1)) ∧
      (∀ a, 0xC000 ≤ a → a < 0x10000 → mget t.dev.mem.stby a = 0) ∧ t.dev.tam.sessions = [] ∧ t.dev.tam.pending = [] ∧
      t.dev.seq.safe = true ∧ t.dev.seq.faultN = false ∧ t.dev.seq.mainPg = false ∧ t.dev.seq.hubHeld = hubsPresent s.variant ∧
      t.dev.cmds = [] ∧ t.dev.jobs = [] ∧ t.dev.tiles = [] ∧ ∃ e ∈ t.dev.log.way, e.code = evTamper := by
  obtain ⟨⟨h1, h2, h3, h4⟩, h5, ⟨h6, h7⟩, h8, ⟨h9, h10, h11⟩, h12⟩ := tamperBegun_startTamper s.variant code (conditionPresent code s.dev)
  have hmem := conditionPresent_mem code s.dev
  refine ⟨_, exec_tamper .., ?_⟩
  simp only [State.on_dev]
  rw [tamperOp_of_lasting hs hn, ht, if_neg Bool.false_ne_true]
  generalize startTamper s.variant code (conditionPresent code s.dev) = f at h1 h2 h3 h4 h5 h6 h7 h8 h9 h10 h11 h12 ⊢
  rw [h8]
  exact ⟨h1 ▸ hmem, h2, h3, h4, fun a ha _ => by rw [h5]; exact mget_filter_lt _ ha, h6, h7, rfl, rfl, rfl, rfl, h9, h10, h11, h12⟩

theorem tamper_adds (hs : tamperSensed s.dev code = true) (hn : tamperFilterNs code ≤ ns) (ht : s.dev.sec.tampering = true) :
    ∃ t, exec (.tamper code ns) s = .next t ∧ code ∈ t.dev.sec.present ∧
      t = s.on { s.dev with sec := { s.dev.sec with present := t.dev.sec.present, cause := t.dev.sec.cause } } ∧
      t.dev.sec.cause = s.dev.sec.cause ||| BitVec.ofNat 8 (2 ^ (code - 1)) := by
  refine ⟨_, exec_tamper .., ?_⟩
  simp only [State.on_dev]
  rw [tamperOp_of_lasting hs hn, if_pos ht]
  have hfr := conditionPresent_frame code s.dev
  have hmem := conditionPresent_mem code s.dev
  generalize conditionPresent code s.dev = f at hfr hmem ⊢
  generalize f.sec.present = l at hfr hmem
  subst hfr
  exact ⟨hmem, rfl, rfl⟩

theorem deriveKey_ends (v : Variant) (d : Dev) : (deriveKey v { d with sec := { d.sec with tampering := false } }).sec.tampering = false ∧
    (deriveKey v { d with sec := { d.sec with tampering := false } }).sec.present = d.sec.present ∧
    (deriveKey v { d with sec := { d.sec with tampering := false } }).sec.key = Config.keyMatches d.free := by
  have h := (deriveKey_sec v { d with sec := { d.sec with tampering := false } }).1
  generalize deriveKey v { d with sec := { d.sec with tampering := false } } = f at h ⊢
  rw [h]
  exact ⟨rfl, rfl, rfl⟩

theorem tamper_clears (hp : s.dev.sec.present = [code]) (ht : s.dev.sec.tampering = true) :
    ∃ t, exec (.tamperConditionClear code) s = .next t ∧ t.dev.sec.present = [] ∧
      if s.dev.pendingP (odKey 0x7002 2) then t = s.on { s.dev with sec := { s.dev.sec with present := [] } }
      else t.dev.sec.tampering = false ∧ t.dev.sec.key = Config.keyMatches s.dev.free := by
  have hfil : s.dev.sec.present.filter (· ≠ code) = [] := by rw [hp]; simp
  have hop : tamperConditionClearOp s.variant code s.dev = finishTamper s.variant { s.dev with sec := { s.dev.sec with present := [] } } := by
    rw [← hfil]
    exact if_neg (by rw [hp]; simp)
  refine ⟨_, exec_tamperConditionClear .., ?_⟩
  simp only [State.on_dev]
  rw [hop]
  cases hpend : s.dev.pendingP (odKey 0x7002 2) with
  | true =>
    have hfin : finishTamper s.variant { s.dev with sec := { s.dev.sec with present := [] } } = { s.dev with sec := { s.dev.sec with present := [] } } :=
      if_neg (by
        have : Dev.pendingP { s.dev with sec := { s.dev.sec with present := [] } } (odKey 0x7002 2) = true := hpend
        rw [this]
        simp)
    rw [hfin, if_pos rfl]
    exact ⟨rfl, rfl⟩
  | false =>
    have hfin : finishTamper s.variant { s.dev with sec := { s.dev.sec with present := [] } } =
        deriveKey s.variant { s.dev with sec := { s.dev.sec with present := [], tampering := false } } :=
      if_pos (by
        have : Dev.pendingP { s.dev with sec := { s.dev.sec with present := [] } } (odKey 0x7002 2) = false := hpend
        rw [this]
        simp [ht])
    obtain ⟨h1, h2, h3⟩ := deriveKey_ends s.variant { s.dev with sec := { s.dev.sec with present := [] } }
    rw [hfin, if_neg Bool.false_ne_true]
    generalize deriveKey s.variant { s.dev with sec := { s.dev.sec with present := [], tampering := false } } = f at h1 h2 h3 ⊢
    exact ⟨h2, h1, h3⟩

/-- The record of the count, programmed and read back, lets the key be derived again. -/
theorem tamper_recorded {b : Bytes} {tries : Nat} (hp : programs s.dev = true) (hf : recordFits s.dev [(odKey 0x7002 2, b)] = true)
    (hw : s.dev.jour.waiting = [{ vals := [(odKey 0x7002 2, b)], waiter := .tamper, tries := tries, paid := true }])
    (ht : s.dev.sec.tampering = true) (hpr : s.dev.sec.present = []) :
    ∃ t, exec (.journalRecordProgram true) s = .next t ∧ t.dev.sec.tampering = false ∧ t.dev.sec.key = Config.keyMatches s.dev.free := by
  refine ⟨_, exec_journalRecordProgram .., ?_⟩
  simp only [State.on_dev]
  rw [journalRecordProgramOp_of_programs hp, recordStep_lands hw rfl hf]
  obtain ⟨hfr, hwait, -, -, -, -⟩ := programmed_programRec (odKey 0x7002 2) b true (jourTaken [] s.dev)
  generalize hg : landP s.variant (odKey 0x7002 2) b (programRec (odKey 0x7002 2) b true (jourTaken [] s.dev)) = g
  have hgfr : g = { s.dev with sec := { s.dev.sec with tcount := leNat b }, jour := g.jour, ctr := g.ctr } := by
    rw [← hg]
    show ({ programRec (odKey 0x7002 2) b true (jourTaken [] s.dev) with sec := _ } : Dev) = _
    rw [hfr]
    rfl
  have hgw : g.jour.waiting = [] := by
    rw [← hg]
    exact hwait
  have hfin : settleWrite s.variant .tamper stSuccess g = deriveKey s.variant { g with sec := { g.sec with tampering := false } } := by
    have hno : Dev.pendingP g (odKey 0x7002 2) = false := by rw [Dev.pendingP, hgw]; rfl
    have h1 : g.sec.tampering = true := by rw [hgfr]; exact ht
    have h2 : g.sec.present = [] := by rw [hgfr]; exact hpr
    unfold settleWrite
    refine (if_pos rfl).trans (if_pos ?_)
    rw [h1, h2, hno]
    rfl
  obtain ⟨h1, -, h3⟩ := deriveKey_ends s.variant g
  simp only [List.foldl_cons, List.foldl_nil]
  rw [hg, hfin]
  refine ⟨h1, h3.trans ?_⟩
  rw [hgfr]

theorem tamper_remains {c2 : Nat} (hp : s.dev.sec.present = [code, c2]) (hne : code ≠ c2) : ∃ t, exec (.tamperConditionClear code) s = .next t ∧
    t = s.on { s.dev with sec := { s.dev.sec with present := [c2] } } := by
  have hfil : s.dev.sec.present.filter (· ≠ code) = [c2] := by rw [hp]; simp [hne.symm]
  have hop : tamperConditionClearOp s.variant code s.dev = { s.dev with sec := { s.dev.sec with present := [c2] } } := by
    rw [← hfil]
    refine (if_neg (by rw [hp]; simp)).trans (if_neg ?_)
    show ¬ ((s.dev.sec.tampering && (s.dev.sec.present.filter (· ≠ code)).isEmpty && _) = true)
    rw [hfil]
    simp
  exact ⟨_, exec_tamperConditionClear .., by rw [hop]⟩

end

/-- Settles O56: a token by its checks and the record of its change, a nonce and a retry by their branch, tamper by the sequence of Table 17.9 and what a
hold of the hubs keeps. -/
theorem lifeCycleAndTamper : Obligations.LifeCycleAndTamper :=
  ⟨⟨fun _ _ h hs => ⟨token_nothing h hs, token_rejected h hs, token_passes h hs⟩, fun _ _ h hs => nonce_attested h hs,
    fun _ _ h hs => ⟨boot_refused h hs, boot_retried h hs⟩⟩,
   fun _ _ _ hs hn => ⟨tamper_begins hs hn, tamper_adds hs hn⟩, fun _ _ hp ht => tamper_clears hp ht,
   fun _ _ _ hp hf hw ht hpr => tamper_recorded hp hf hw ht hpr, fun _ _ _ hp hne => tamper_remains hp hne⟩

end Sys2Proof.Machine

/-!
PROOFS for the supplies (R304, R457, R459, R482, R488, R489): the standby controller's start and stop, power-up with its self-test, and the ways
down of main power.
-/
namespace Sys2Proof.Machine

open Sys2Proof

/-! ### The standby controller's start and stop -/

/-- What its memory march, a fault of its key and its counts leave of the controller that has started; the safe state is not left. -/
structure ControllerKept (d e : Dev) : Prop where
  sec : e.sec = d.sec
  tam : e.tam = d.tam
  stby : e.mem.stby = d.mem.stby
  ring : e.log.ring = d.log.ring
  vals : e.vals = d.vals
  tokens : e.jour.tokens = d.jour.tokens
  ready : e.jour.ready = d.jour.ready
  stbyUp : e.seq.stbyUp = d.seq.stbyUp
  mpen : e.seq.mpen = d.seq.mpen
  safe : d.seq.safe = true → e.seq.safe = true

section
variable {d e : Dev}

theorem ControllerKept.refl (d : Dev) : ControllerKept d d := ⟨rfl, rfl, rfl, rfl, rfl, rfl, rfl, rfl, rfl, id⟩

theorem ControllerKept.trans {f : Dev} (h : ControllerKept d e) (h' : ControllerKept e f) : ControllerKept d f :=
  ⟨h'.sec.trans h.sec, h'.tam.trans h.tam, h'.stby.trans h.stby, h'.ring.trans h.ring, h'.vals.trans h.vals, h'.tokens.trans h.tokens,
   h'.ready.trans h.ready, h'.stbyUp.trans h.stbyUp, h'.mpen.trans h.mpen, fun hs => h'.safe (h.safe hs)⟩

theorem fwP_jour (d : Dev) (idx sub : Nat) (b : Bytes) : (d.fwP idx sub b).jour = { d.jour with waiting := (d.fwP idx sub b).jour.waiting } := by
  rw [Dev.fwP]
  split <;> rfl

theorem controllerKept_fwCount (d : Dev) (idx sub len : Nat) (n : Int) : ControllerKept d (d.fwCount idx sub len n) := by
  rw [Dev.fwCount]
  generalize toLe len ((leNat (d.latestP idx sub) : Int) + n).toNat = b
  have hj := fwP_jour d idx sub b
  rw [fwP_frame]
  exact ⟨rfl, rfl, rfl, rfl, rfl, (congrArg Jour.tokens hj :), (congrArg Jour.ready hj :), rfl, rfl, id⟩

theorem controllerKept_driveFault (d : Dev) : ControllerKept d (driveFault d) := ⟨rfl, rfl, rfl, rfl, rfl, rfl, rfl, rfl, rfl, id⟩

theorem controllerKept_enterSafe (v : Variant) (d : Dev) : ControllerKept d (enterSafe v d) ∧ (enterSafe v d).seq.safe = true := by
  obtain ⟨⟨hk, -⟩, hq, hl⟩ := enterSafe_safe v d
  obtain ⟨h1, h2, h3, -, -, h5, -, -, -, h6⟩ := hk
  generalize enterSafe v d = f at h1 h2 h3 h5 h6 hq hl ⊢
  have hring : f.log.ring = d.log.ring := by
    rw [hl]
    split <;> rfl
  exact ⟨⟨h1, h2, h3, hring, h5, (congrArg Jour.tokens h6 :), (congrArg Jour.ready h6 :), by rw [hq]; rfl, by rw [hq]; rfl,
    fun _ => by rw [hq]; rfl⟩, by rw [hq]; rfl⟩

theorem controllerKept_marchFault (code word : Nat) (d : Dev) : ControllerKept d (marchFault code word d) :=
  ⟨rfl, rfl, rfl, rfl, rfl, rfl, rfl, rfl, rfl, id⟩

/-- The march keeps the controller; with a bad word, where the march runs, it ends in the safe state, and without one nothing of the sequence moves. -/
theorem controllerKept_standbyMarch (v : Variant) (bad : List Nat) (d : Dev) :
    ControllerKept d (standbyMarch v bad d) ∧ (bad = [] → (standbyMarch v bad d).seq = d.seq) ∧
      (bad ≠ [] → d.num 0x3050 1 1 = 1 → (standbyMarch v bad d).seq.safe = true) := by
  have hf : ControllerKept d (bad.foldl (fun (d : Dev) a => marchFault codeStandby (a / 32) d) (d.count 0x3052 ssStandby 1)) :=
    List.foldlRecOn (motive := ControllerKept d) _ _ ⟨rfl, rfl, rfl, rfl, rfl, rfl, rfl, rfl, rfl, id⟩ fun x hx a _ =>
      hx.trans (controllerKept_marchFault ..)
  unfold standbyMarch
  dsimp only
  by_cases hn : d.num 0x3050 1 1 = 1
  · rw [if_pos hn]
    by_cases hb : bad = []
    · subst hb
      exact ⟨hf, fun _ => rfl, fun h => absurd rfl h⟩
    · rw [if_neg hb]
      obtain ⟨h1, h2⟩ := controllerKept_enterSafe v (bad.foldl (fun (d : Dev) a => marchFault codeStandby (a / 32) d) (d.count 0x3052 ssStandby 1))
      exact ⟨hf.trans h1, fun h => absurd h hb, fun _ _ => h2⟩
  · rw [if_neg hn]
    exact ⟨ControllerKept.refl d, fun _ => rfl, fun _ h => absurd h hn⟩

/-- What recovering the journal leaves of the rest, and how the journal stands then (R406, R409). -/
structure JournalRecovered (d e : Dev) : Prop where
  key : e.sec.key = d.sec.key
  romdig : e.sec.romdig = d.sec.romdig
  tam : e.tam = d.tam
  mem : e.mem = d.mem
  ring : e.log.ring = d.log.ring
  seq : e.seq = d.seq
  tokens : e.jour.tokens = 64
  ready : e.jour.ready = true

theorem JournalRecovered.setP (h : JournalRecovered d e) (k : Nat) (b : Bytes) : JournalRecovered d (setP k b e) := by
  obtain ⟨h1, h2, h3, h4, h5, h6, h7, h8⟩ := h
  unfold Machine.setP
  split
  · exact ⟨h1, h2, h3, h4, h5, h6, h7, h8⟩
  split
  · exact ⟨h1, h2, h3, h4, h5, h6, h7, h8⟩
  split
  · exact ⟨h1, h2, h3, h4, h5, h6, h7, h8⟩
  split
  · exact ⟨h1, h2, h3, h4, h5, h6, h7, h8⟩
  · exact ⟨h1, h2, h3, h4, h5, h6, h7, h8⟩

theorem journalRecovered_recoverJournal (d : Dev) : JournalRecovered d (recoverJournal d) := by
  have hfold (l : List (Nat × Bytes)) : JournalRecovered d (l.foldl (fun d e => Machine.setP e.1 e.2 d)
      { d with jour := { d.jour with tokens := 64, ready := true, waiting := [], comp := .none, copied := [] } }) :=
    List.foldlRecOn (motive := JournalRecovered d) _ _ ⟨rfl, rfl, rfl, rfl, rfl, rfl, rfl, rfl⟩ fun x hx a _ => hx.setP a.1 a.2
  unfold recoverJournal
  dsimp only
  split
  · exact ⟨rfl, rfl, rfl, rfl, rfl, rfl, rfl, rfl⟩
  · generalize (List.foldl scanRec _ _).vals = l
    have h := hfold l
    generalize List.foldl (fun (d : Dev) e => Machine.setP e.1 e.2 d) _ l = f at h ⊢
    obtain ⟨h1, h2, h3, h4, h5, h6, h7, h8⟩ := h
    exact ⟨h1, h2, h3, h4, h5, h6, h7, h8⟩

/-- The last step of the controller's start: a key that does not match holds the safe state. -/
def keyChecked (v : Variant) (matched : Bool) (d : Dev) : Dev := driveFault (if matched then d else keyFault v d)

theorem keyChecked_safe (v : Variant) (matched : Bool) (d : Dev) :
    ControllerKept { d with sec := { d.sec with key := matched && d.sec.key } } (keyChecked v matched d) ∧
      (keyChecked v matched d).seq.safe = (d.seq.safe || !matched) := by
  cases matched with
  | true =>
    rw [Bool.true_and]
    exact ⟨controllerKept_driveFault d, (Bool.or_false _).symm⟩
  | false =>
    have h0 : ControllerKept { d with sec := { d.sec with key := false } } ({ d with sec := { d.sec with key := false } }.post evKeyFault 0 0 []) :=
      ⟨rfl, rfl, rfl, rfl, rfl, rfl, rfl, rfl, rfl, id⟩
    have hop : keyChecked v false d = driveFault (enterSafe v ({ d with sec := { d.sec with key := false } }.post evKeyFault 0 0 [])) := by
      rw [keyChecked, if_neg Bool.false_ne_true, keyFault]
    rw [hop, Bool.false_and, Bool.not_false, Bool.or_true]
    generalize { d with sec := { d.sec with key := false } }.post evKeyFault 0 0 [] = p at h0 ⊢
    obtain ⟨h1, h2⟩ := controllerKept_enterSafe v p
    generalize enterSafe v p = f at h1 h2 ⊢
    exact ⟨(h0.trans h1).trans (controllerKept_driveFault f), h2⟩

end

theorem exec_auxPowerUp (s : State) : exec .auxPowerUp s = .next (s.on (auxPowerUpOp s.dev)) := rfl

theorem exec_standbyStart (s : State) (mpen matched : Bool) (bad : List Nat) :
    exec (.standbyStart mpen matched bad) s = .next (s.on (standbyStartOp s.variant mpen matched bad s.dev)) := rfl

theorem exec_standbyResetAssert (s : State) : exec .standbyResetAssert s = .next (s.on (standbyResetAssertOp s.variant s.dev)) := rfl

theorem exec_auxBrownout (s : State) (us : Nat) : exec (.auxBrownout us) s = .next (s.on (auxBrownoutOp s.variant us s.dev)) := rfl

theorem exec_managementLinkChange (s : State) (up : Bool) : exec (.managementLinkChange up) s = .next (s.on (managementLinkChangeOp up s.dev)) := rfl

theorem aux_powers_up {s : State} (h : s.dev.seq.stbyUp = false) : ∃ t, exec .auxPowerUp s = .next t ∧
    t = s.on { s.dev with mem := { s.dev.mem with stby := [] }, log := t.dev.log, seq := { s.dev.seq with auxIn := true } } ∧
    t.dev.log.ring = [] ∧ t.dev.log.rseq = 0 := by
  have hop : auxPowerUpOp s.dev = clearStandby { s.dev with seq := { s.dev.seq with auxIn := true } } := if_neg (by rw [h]; decide)
  refine ⟨_, exec_auxPowerUp s, ?_⟩
  rw [hop]
  exact ⟨rfl, rfl, rfl⟩

/-- The controller as it starts: the scratchpad and the ring read zero, the journal is still to be recovered. -/
def controllerFresh (mpen matched : Bool) (d : Dev) : Dev :=
  let d1 := standbyFresh (clearStandby { d with seq := { d.seq with stbyRstN := true, stbyUp := true, mpen := mpen, safe := false } })
  { d1 with sec := { d1.sec with romdig := Config.romDigest, romShown := Config.romDigest, key := matched } }

theorem standbyStartOp_of_supplied {v : Variant} {d : Dev} (h : d.seq.stbyUp = false) (ha : d.seq.auxIn = true) (mpen matched : Bool)
    (bad : List Nat) : standbyStartOp v mpen matched bad d =
      keyChecked v matched ((standbyMarch v bad (recoverJournal (controllerFresh mpen matched d))).fwCount 0x7003 2 4 1) :=
  if_neg (by rw [h, ha]; decide)

theorem controller_starts {s : State} (mpen matched : Bool) (bad : List Nat) (h : s.dev.seq.stbyUp = false) (ha : s.dev.seq.auxIn = true) :
    ∃ t, exec (.standbyStart mpen matched bad) s = .next t ∧ t.dev.seq.stbyUp = true ∧ t.dev.seq.mpen = mpen ∧
      t.dev.jour.ready = true ∧ t.dev.jour.tokens = 64 ∧ t.dev.tam.sessions = [] ∧ t.dev.mem.stby = [] ∧ t.dev.log.ring = [] ∧
      t.dev.sec.key = matched ∧ (matched = false → t.dev.seq.safe = true) ∧
      (bad = [] → t.dev.seq.safe = !matched) ∧ (bad ≠ [] → t.dev.num 0x3050 1 1 = 1 → t.dev.seq.safe = true) ∧
      t.dev.sec.romdig = Config.romDigest := by
  refine ⟨_, exec_standbyStart .., ?_⟩
  simp only [State.on_dev]
  rw [standbyStartOp_of_supplied h ha]
  have hr := journalRecovered_recoverJournal (controllerFresh mpen matched s.dev)
  generalize recoverJournal (controllerFresh mpen matched s.dev) = r at hr ⊢
  obtain ⟨hm, hgood, hbad⟩ := controllerKept_standbyMarch s.variant bad r
  generalize standbyMarch s.variant bad r = m at hm hgood hbad ⊢
  have hf := controllerKept_fwCount m 0x7003 2 4 1
  have hq : (m.fwCount 0x7003 2 4 1).seq = m.seq := by rw [fwCount_frame]
  generalize m.fwCount 0x7003 2 4 1 = f at hf hq ⊢
  obtain ⟨hk, hsafe⟩ := keyChecked_safe s.variant matched f
  generalize keyChecked s.variant matched f = t at hk hsafe ⊢
  have hmf := hm.trans hf
  have hkey : f.sec.key = matched := (congrArg Sec.key hmf.sec).trans hr.key
  refine ⟨hk.stbyUp.trans (hmf.stbyUp.trans (congrArg Seq.stbyUp hr.seq)), hk.mpen.trans (hmf.mpen.trans (congrArg Seq.mpen hr.seq)),
    hk.ready.trans (hmf.ready.trans hr.ready), hk.tokens.trans (hmf.tokens.trans hr.tokens),
    (congrArg Tam.sessions (hk.tam.trans (hmf.tam.trans hr.tam)) :), hk.stby.trans (hmf.stby.trans (congrArg Mem.stby hr.mem)),
    hk.ring.trans (hmf.ring.trans hr.ring), ?_, ?_, ?_, ?_, ?_⟩
  · rw [hk.sec]
    show (matched && f.sec.key) = matched
    rw [hkey, Bool.and_self]
  · rintro rfl
    rw [hsafe]
    exact Bool.or_true _
  · intro hb
    have hs0 : r.seq.safe = false := congrArg Seq.safe hr.seq
    rw [hsafe, hq, hgood hb, hs0, Bool.false_or]
  · intro hb hn
    have hv : t.num 0x3050 1 1 = r.num 0x3050 1 1 := by rw [Dev.num, Dev.num, hk.vals, ← hmf.vals]
    rw [hsafe, hq, hbad hb (hv.symm.trans hn), Bool.true_or]
  · rw [hk.sec]
    exact (congrArg Sec.romdig hmf.sec).trans hr.romdig

theorem stopStandby_stopped (v : Variant) (d : Dev) : (stopStandby v d).seq.stbyUp = false ∧ (stopStandby v d).seq.phase = .off ∧
    (stopStandby v d).tam.sessions = [] ∧ (stopStandby v d).jour.waiting = [] ∧ (stopStandby v d).seq.faultN = true := by
  have hoff : (if mainOn (dropWaiting d) then mainDown v (dropWaiting d) else dropWaiting d).seq.phase = .off := by
    split
    · rfl
    · next h => simpa [mainOn] using h
  unfold stopStandby
  dsimp only
  generalize (if mainOn (dropWaiting d) then mainDown v (dropWaiting d) else dropWaiting d) = f at hoff ⊢
  exact ⟨rfl, hoff, rfl, rfl, rfl⟩

theorem controller_reset {s : State} (h : s.dev.seq.stbyUp = true) : ∃ t, exec .standbyResetAssert s = .next t ∧ t.dev.seq.stbyUp = false ∧
    t.dev.seq.stbyRstN = false ∧ t.dev.seq.phase = .off ∧ t.dev.tam.sessions = [] ∧ t.dev.jour.waiting = [] ∧ t.dev.seq.faultN = true := by
  obtain ⟨h1, h2, h3, h4, h5⟩ := stopStandby_stopped s.variant s.dev
  have hop : standbyResetAssertOp s.variant s.dev =
      { stopStandby s.variant s.dev with seq := { (stopStandby s.variant s.dev).seq with stbyRstN := false } } := by
    rw [standbyResetAssertOp, if_pos h]
  refine ⟨_, exec_standbyResetAssert s, ?_⟩
  rw [hop]
  generalize stopStandby s.variant s.dev = f at h1 h2 h3 h4 h5 ⊢
  exact ⟨h1, rfl, h2, h3, h4, h5⟩

theorem aux_browns_out {s : State} (us : Nat) (h : s.dev.seq.stbyUp = true) : ∃ t, exec (.auxBrownout us) s = .next t ∧
    t.dev.seq.stbyUp = false ∧ t.dev.seq.auxIn = false ∧ t.dev.seq.phase = .off ∧ t.dev.tam.sessions = [] ∧ t.dev.jour.waiting = [] := by
  obtain ⟨h1, h2, h3, h4, -⟩ := stopStandby_stopped s.variant (if 10 < us then slowFall s.variant s.dev else s.dev)
  refine ⟨_, exec_auxBrownout s us, ?_⟩
  rw [auxBrownoutOp, if_pos h]
  generalize stopStandby s.variant (if 10 < us then slowFall s.variant s.dev else s.dev) = f at h1 h2 h3 h4 ⊢
  exact ⟨h1, rfl, h2, h3, h4⟩

theorem management_link_told {s : State} (up : Bool) (h : s.dev.seq.stbyUp = true) : ∃ t, exec (.managementLinkChange up) s = .next t ∧
    t = s.on { s.dev with tam := { s.dev.tam with linkUp := up } } :=
  ⟨_, exec_managementLinkChange s up, congrArg s.on (if_pos h)⟩

/-! ### Power-up and its self-test -/

theorem exec_mainEnRise (s : State) : exec .mainEnRise s = .next (s.on (mainEnRiseOp s.dev)) := rfl

theorem exec_railsSettled (s : State) (clkm : List Bool) : exec (.railsSettled clkm) s = .next (s.on (railsSettledOp clkm s.dev)) := rfl

theorem exec_powerOnSelftest (s : State) (failed : List Nat) (words : List (Nat × Nat)) : exec (.powerOnSelftest failed words) s =
    .next (s.on (powerOnSelftestOp s.variant (failedHubs failed) (failedUnits failed) words s.dev)) := rfl

theorem exec_mainEnFall (s : State) : exec .mainEnFall s = .next (s.on (mainEnFallOp s.variant s.dev)) := rfl

theorem exec_inputFault (s : State) (ov : Bool) (us : Nat) : exec (.inputFault ov us) s = .next (s.on (inputFaultOp s.variant ov us s.dev)) := rfl

theorem main_power_rises {s : State} (hup : s.dev.seq.stbyUp = true) (hv : s.dev.seq.vinIn = true) (hp : s.dev.seq.phase = .off)
    (hf : s.dev.seq.inputFault = false ∨ s.dev.seq.mainEn = false) : ∃ t, exec .mainEnRise s = .next t ∧
      t = s.on { s.dev with seq := { s.dev.seq with mainEn := true, phase := .rising, inputFault := false, faultN := t.dev.seq.faultN } } ∧
      t.dev.seq.faultN = !(s.dev.seq.safe || decide (s.dev.sec.lcs = 3)) := by
  have hfault : (s.dev.seq.inputFault && s.dev.seq.mainEn) = false := by
    rcases hf with h | h
    · rw [h, Bool.false_and]
    · rw [h, Bool.and_false]
  have hcond : (s.dev.seq.stbyUp && s.dev.seq.vinIn && s.dev.seq.phase == .off && !(s.dev.seq.inputFault && s.dev.seq.mainEn)) = true := by
    rw [hfault, hup, hv, hp]
    rfl
  have hop : mainEnRiseOp s.dev = driveFault { s.dev with seq := { s.dev.seq with mainEn := true, phase := .rising, inputFault := false } } :=
    if_pos hcond
  refine ⟨_, exec_mainEnRise s, ?_⟩
  rw [hop]
  exact ⟨rfl, by rw [driveFault]; simp⟩

theorem rails_settle {s : State} (clkm : List Bool) (hp : s.dev.seq.phase = .rising) : ∃ t, exec (.railsSettled clkm) s = .next t ∧
    t = s.on { s.dev with seq := { s.dev.seq with phase := .testing, clkm := t.dev.seq.clkm } } ∧
    ∀ h, h < 4 → nth false t.dev.seq.clkm h = nth false clkm h := by
  have hop : railsSettledOp clkm s.dev =
      { s.dev with seq := { s.dev.seq with phase := .testing, clkm := (List.range 4).map fun h => nth false clkm h } } :=
    if_pos (by rw [hp]; rfl)
  refine ⟨_, exec_railsSettled s clkm, ?_⟩
  rw [hop]
  refine ⟨rfl, fun h hh => ?_⟩
  simp [nth, hh]

/-- The counters of the bad words of a march: of OD 0x3051, of a subindex that exists. -/
def KeepsFaults (d e : Dev) : Prop := ∀ k, k < 256 → counterOf e 0x3051 k = counterOf d 0x3051 k

theorem keepsFaults_of_counted {d e : Dev} {idx sub n : Nat} (h : Counted d e idx sub n) (hi : idx ≠ 0x3051) (hs : sub < 256) : KeepsFaults d e :=
  fun k hk => by
    have hne : odKey 0x3051 k ≠ odKey idx sub := fun heq => hi <|
      (odKey_div hs).symm.trans ((congrArg (· / 256) heq.symm).trans (odKey_div hk))
    rw [counterOf, h, if_neg hne, Nat.add_zero, counterOf]

/-- What self-test of the units that failed changes that self-test's end tells: which units are held, and records of it on their way. -/
structure UnitsFailed (d e : Dev) : Prop where
  seq : e.seq = { d.seq with unitHeld := e.seq.unitHeld }
  way : ∀ ev ∈ d.log.way, ev ∈ e.log.way
  ctr : e.ctr = d.ctr

theorem unitsFailed_failPowerOn {d e : Dev} (h : UnitsFailed d e) (units : List Target) (t : Target) : UnitsFailed d (failPowerOn units e t) := by
  obtain ⟨h1, h2, h3⟩ := h
  unfold failPowerOn
  split
  · unfold sparePart
    split
    · exact ⟨h1, h2, h3⟩
    · exact ⟨h1, h2, h3⟩
    · exact ⟨h1, h2, h3⟩
  · dsimp only
    split
    · exact ⟨h1, h2, h3⟩
    · exact ⟨by rw [Dev.post, h1], fun ev hev => List.mem_append_left _ (h2 ev hev), h3⟩

theorem unitsFailed_foldl (units l : List Target) (d : Dev) : UnitsFailed d (l.foldl (failPowerOn units) d) :=
  List.foldlRecOn (motive := UnitsFailed d) _ _ ⟨rfl, fun _ h => h, rfl⟩ fun _ hx t _ => unitsFailed_failPowerOn hx units t

theorem issuerSs_lt {c : Nat} (h : c < 576 ∨ c < 0x4010) : issuerSs c < 256 := by
  unfold issuerSs ssFacet ssHub issuerHub
  split <;> omega

/-- The start-up march leaves the scratchpads zero. -/
structure MemoriesMarched (d e : Dev) : Prop where
  frame : e = { d with spad := [], ctr := e.ctr }
  faults : KeepsFaults d e

theorem memoriesMarched_startupMarch (v : Variant) (bad : List (Nat × Nat)) (d : Dev) : MemoriesMarched d (startupMarch v bad d) := by
  unfold startupMarch
  dsimp only
  split
  · refine List.foldlRecOn (motive := MemoriesMarched d) _ _ ⟨rfl, fun _ _ => rfl⟩ fun x hx c hc => ?_
    split
    · exact hx
    · have hss : issuerSs c < 256 := by
        refine issuerSs_lt ?_
        rcases List.mem_append.mp hc with h | h
        · exact Or.inl (List.mem_range.mp (List.mem_filter.mp h).1)
        · obtain ⟨i, hi, heq⟩ := List.mem_filterMap.mp h
          have hi16 := List.mem_range.mp hi
          split at heq
          · injection heq with heq
            omega
          · cases heq
      exact ⟨by rw [Dev.count, hx.frame], fun k hk =>
        (keepsFaults_of_counted (x.counted_count 0x3052 (issuerSs c) 1) (by decide) hss k hk).trans (hx.faults k hk)⟩
  · exact ⟨rfl, fun _ _ => rfl⟩

/-- The links and the ports that start once main power is good. -/
structure LinksStarted (d e : Dev) : Prop where
  frame : e = { d with links := e.links, ports := e.ports, free := e.free, ctr := e.ctr }
  faults : KeepsFaults d e

theorem LinksStarted.refl (d : Dev) : LinksStarted d d := ⟨rfl, fun _ _ => rfl⟩

theorem linksStarted_startLink {d e : Dev} (h : LinksStarted d e) (v : Variant) {l : Nat} (hl : l < 64) : LinksStarted d (startLink v l e) := by
  unfold startLink
  split
  · exact ⟨by rw [enterTrain_frame, h.frame], fun k hk =>
      (keepsFaults_of_counted (counted_enterTrain l e) (by decide) (by omega) k hk).trans (h.faults k hk)⟩
  · exact h

theorem trainIfFree_frame (v : Variant) (p : Nat) (d : Dev) :
    trainIfFree v p d = { d with ports := (trainIfFree v p d).ports, free := (trainIfFree v p d).free } := by
  unfold trainIfFree
  split <;> rfl

theorem linksStarted_trainIfFree {d e : Dev} (h : LinksStarted d e) (v : Variant) (p : Nat) : LinksStarted d (trainIfFree v p e) := by
  have hfr := trainIfFree_frame v p e
  generalize trainIfFree v p e = f at hfr ⊢
  have hctr : f.ctr = e.ctr := by rw [hfr]
  exact ⟨by rw [hfr, h.frame], fun k hk => (congrArg (fun c => tget 0 c (odKey 0x3051 k)) hctr).trans (h.faults k hk)⟩

/-- The hubs that a self-test holds, each with its record (R457, R459). -/
def hubsFailed (v : Variant) (hubs : List Nat) (d : Dev) : Dev :=
  ((hubsPresent v).filter fun h => hubs.contains h).foldl (fun (d : Dev) h => d.post evSelftestFail h (codeOf (.hub h)) [])
    { d with seq := { d.seq with hubHeld := (hubsPresent v).filter fun h => hubs.contains h, unitHeld := [], isolated := [] }
             guard0 := d.num 0x2000 1 4 }

/-- Main power is good (order 6 of Table 18.3). -/
def mainGood (d : Dev) : Dev := { d with seq := { d.seq with phase := .up, mainPg := true } }

/-- How a self-test with H0 good ends: main power good, the failing hubs held, the scratchpads zero. -/
structure SelfTested (v : Variant) (hubs : List Nat) (units : List Target) (d e : Dev) : Prop where
  up : e.seq.phase = .up ∧ e.seq.mainPg = true ∧ e.seq.hubHeld = (hubsPresent v).filter fun h => hubs.contains h
  spad : e.spad = []
  way : ∀ ev ∈ d.log.way, ev ∈ e.log.way
  sound : units = [] → e.seq.unitHeld = [] ∧ e.log = (hubsFailed v hubs d).log
  faults : KeepsFaults d e

theorem selfTested_selfTestAll (v : Variant) (hubs : List Nat) (units : List Target) (words : List (Nat × Nat)) (d : Dev) :
    SelfTested v hubs units d (selfTestAll v hubs units words d) := by
  have hpost : (hubsFailed v hubs d).seq =
        { d.seq with hubHeld := (hubsPresent v).filter fun h => hubs.contains h, unitHeld := [], isolated := [] } ∧
      (∀ ev ∈ d.log.way, ev ∈ (hubsFailed v hubs d).log.way) ∧ (hubsFailed v hubs d).ctr = d.ctr :=
    List.foldlRecOn (motive := fun x : Dev => x.seq =
        { d.seq with hubHeld := (hubsPresent v).filter fun h => hubs.contains h, unitHeld := [], isolated := [] } ∧
      (∀ ev ∈ d.log.way, ev ∈ x.log.way) ∧ x.ctr = d.ctr) _ _ ⟨rfl, fun _ h => h, rfl⟩ fun x hx h _ =>
        ⟨hx.1, fun ev hev => List.mem_append_left _ (hx.2.1 ev hev), hx.2.2⟩
  have hop : selfTestAll v hubs units words d =
      driveFault ((List.range 4).foldl (fun (d : Dev) h => trainIfFree v h d)
        (((List.range 64).filter (linkPresent v)).foldl (fun (d : Dev) l => startLink v l d)
          (mainGood (startupMarch v words ((units.filter (targetPresent v)).foldl (failPowerOn (units.filter (targetPresent v))) (hubsFailed v hubs d)))))) := rfl
  rw [hop]
  obtain ⟨p1, p2, p3⟩ := hpost
  have hempty : units = [] → (units.filter (targetPresent v)).foldl (failPowerOn (units.filter (targetPresent v))) (hubsFailed v hubs d) =
      hubsFailed v hubs d := by
    rintro rfl
    rfl
  obtain ⟨u1, u2, u3⟩ := unitsFailed_foldl (units.filter (targetPresent v)) (units.filter (targetPresent v)) (hubsFailed v hubs d)
  generalize (units.filter (targetPresent v)).foldl (failPowerOn (units.filter (targetPresent v))) (hubsFailed v hubs d) = u at hempty u1 u2 u3 ⊢
  obtain ⟨m1, m2⟩ := memoriesMarched_startupMarch v words u
  generalize startupMarch v words u = m at m1 m2 ⊢
  have hl : LinksStarted (mainGood m) (((List.range 64).filter (linkPresent v)).foldl (fun (d : Dev) l => startLink v l d) (mainGood m)) :=
    List.foldlRecOn (motive := LinksStarted (mainGood m)) _ _ (LinksStarted.refl _) fun x hx l hmem =>
      linksStarted_startLink hx v (List.mem_range.mp (List.mem_filter.mp hmem).1)
  generalize ((List.range 64).filter (linkPresent v)).foldl (fun (d : Dev) l => startLink v l d) (mainGood m) = x at hl ⊢
  have ht : LinksStarted (mainGood m) ((List.range 4).foldl (fun (d : Dev) h => trainIfFree v h d) x) :=
    List.foldlRecOn (motive := LinksStarted (mainGood m)) _ _ hl fun _ hy h _ => linksStarted_trainIfFree hy v h
  generalize (List.range 4).foldl (fun (d : Dev) h => trainIfFree v h d) x = y at ht ⊢
  have hseq : y.seq = { u.seq with phase := .up, mainPg := true } := by rw [ht.frame, mainGood, m1]
  have hlog : y.log = u.log := by rw [ht.frame, mainGood, m1]
  have hspad : y.spad = [] := by rw [ht.frame, mainGood, m1]
  have hheld : u.seq.hubHeld = (hubsPresent v).filter fun h => hubs.contains h := by rw [u1, p1]
  refine ⟨⟨congrArg Seq.phase hseq, congrArg Seq.mainPg hseq, (congrArg Seq.hubHeld hseq).trans hheld⟩, hspad, fun ev hev => ?_, fun h0 => ?_,
    fun k hk => ?_⟩
  · show ev ∈ y.log.way
    rw [hlog]
    exact u2 ev (p2 ev hev)
  · have hu := hempty h0
    refine ⟨(congrArg Seq.unitHeld hseq).trans ?_, hlog.trans (congrArg Dev.log hu)⟩
    rw [hu, p1]
  · have h1 : counterOf y 0x3051 k = counterOf m 0x3051 k := ht.faults k hk
    have h2 : counterOf u 0x3051 k = counterOf d 0x3051 k := by rw [counterOf, counterOf, u3, p3]
    exact h1.trans ((m2 k hk).trans h2)

/-- With the module out of the safe state, a self-test that runs: what it does by what it finds. -/
theorem powerOnSelftestOp_of_runs {v : Variant} {d : Dev} (hup : d.seq.stbyUp = true) (hm : d.seq.modRstN = true) (hp : d.seq.phase = .testing)
    (hs : d.seq.safe = false) (hubsBad unitsBad : List Nat) (words : List (Nat × Nat)) : powerOnSelftestOp v hubsBad unitsBad words d =
      if (hubsBad ++ badHubs (startupBad v d words)).contains 0 then
        enterSafe v ((startupBad v d words).foldl (fun (d : Dev) e => marchFault e.1 (e.2 / 32) d) d)
      else if d.sec.lcs = 3 then driveFault (holdAll v d)
      else selfTestAll v (hubsBad ++ badHubs (startupBad v d words)) (unitsBad.filterMap targetOf ++ badWedges (startupBad v d words))
        (startupBad v d words) (dropSpares (unitsBad.filterMap spareOf)
          ((startupBad v d words).foldl (fun (d : Dev) e => marchFault e.1 (e.2 / 32) d) d)) := by
  unfold powerOnSelftestOp
  rw [if_neg (by rw [hup, hm, hp]; decide), hs]
  rfl

theorem startupBad_nil (v : Variant) (d : Dev) : startupBad v d [] = [] := by
  unfold startupBad
  split <;> rfl

/-- A self-test that is told no bad word: what it does by the hubs that fail and the life cycle. -/
theorem powerOnSelftestOp_of_noWord {v : Variant} {d : Dev} (hup : d.seq.stbyUp = true) (hm : d.seq.modRstN = true) (hp : d.seq.phase = .testing)
    (hs : d.seq.safe = false) (hubsBad : List Nat) : powerOnSelftestOp v hubsBad [] [] d =
      if hubsBad.contains 0 then enterSafe v d
      else if d.sec.lcs = 3 then driveFault (holdAll v d) else selfTestAll v hubsBad [] [] d := by
  rw [powerOnSelftestOp_of_runs hup hm hp hs, startupBad_nil, show hubsBad ++ badHubs [] = hubsBad from List.append_nil _]
  rfl

theorem hubCode_hub {h : Nat} (hh : h < 4) : hubCode (codeOf (.hub h)).toNat = some h := by
  have hall : ∀ k : Fin 4, hubCode (codeOf (.hub k.1)).toNat = some k.1 := by decide
  exact hall ⟨h, hh⟩

theorem failedHubs_hub {h : Nat} (hh : h < 4) : failedHubs [(codeOf (.hub h)).toNat] = [h] := by
  rw [failedHubs, List.filterMap_cons_some (hubCode_hub hh), List.filterMap_nil]

theorem failedUnits_hub {h : Nat} (hh : h < 4) : failedUnits [(codeOf (.hub h)).toNat] = [] := by
  rw [failedUnits, List.filter_cons_of_neg (by rw [hubCode_hub hh]; exact Bool.false_ne_true), List.filter_nil]

section
variable {s : State} (hup : s.dev.seq.stbyUp = true) (hm : s.dev.seq.modRstN = true) (hp : s.dev.seq.phase = .testing)
  (hs : s.dev.seq.safe = false)
include hup hm hp hs

theorem selftest_passes (hl : s.dev.sec.lcs ≠ 3) : ∃ t, exec (.powerOnSelftest [] []) s = .next t ∧ t.dev.seq.phase = .up ∧
    t.dev.seq.mainPg = true ∧ t.dev.seq.hubHeld = [] ∧ t.dev.seq.unitHeld = [] ∧ t.dev.spad = [] ∧ t.dev.log = s.dev.log := by
  have hop : powerOnSelftestOp s.variant (failedHubs []) (failedUnits []) [] s.dev = selfTestAll s.variant [] [] [] s.dev :=
    (powerOnSelftestOp_of_noWord hup hm hp hs []).trans (if_neg hl)
  have hnone : (hubsPresent s.variant).filter (fun h => ([] : List Nat).contains h) = [] := List.filter_eq_nil_iff.mpr fun _ _ => by simp
  obtain ⟨⟨h1, h2, h3⟩, h4, -, h5, -⟩ := selfTested_selfTestAll s.variant [] [] [] s.dev
  obtain ⟨h6, h7⟩ := h5 rfl
  refine ⟨_, exec_powerOnSelftest .., ?_⟩
  simp only [State.on_dev]
  rw [hop]
  generalize selfTestAll s.variant [] [] [] s.dev = e at h1 h2 h3 h4 h6 h7 ⊢
  rw [hubsFailed, hnone] at h7
  exact ⟨h1, h2, h3.trans hnone, h6, h4, h7⟩

theorem selftest_holds_hub {h : Nat} (hl : s.dev.sec.lcs ≠ 3) (h0 : h ≠ 0) (hpr : hubPresent s.variant h = true) :
    ∃ t, exec (.powerOnSelftest [(codeOf (.hub h)).toNat] []) s = .next t ∧ t.dev.seq.phase = .up ∧ t.dev.seq.hubHeld = [h] ∧
      Posted s.dev t.dev evSelftestFail h (codeOf (.hub h)) [] := by
  have hh : h < 4 := by
    unfold hubPresent at hpr
    exact of_decide_eq_true (Bool.and_eq_true_iff.mp hpr).1
  have hmem : h ∈ hubsPresent s.variant := List.mem_filter.mpr ⟨List.mem_range.mpr hh, hpr⟩
  have hone : (hubsPresent s.variant).filter (fun k => [h].contains k) = [h] := by
    have heq : (fun k => [h].contains k) = (fun k => k == h) := by
      funext k
      rw [List.contains_cons, List.contains_nil, Bool.or_false]
    rw [heq, List.filter_beq, List.count_eq_one_of_mem (nodup_hubsPresent s.variant) hmem]
    rfl
  have hop : powerOnSelftestOp s.variant (failedHubs [(codeOf (.hub h)).toNat]) (failedUnits [(codeOf (.hub h)).toNat]) [] s.dev =
      selfTestAll s.variant [h] [] [] s.dev := by
    rw [failedHubs_hub hh, failedUnits_hub hh, powerOnSelftestOp_of_noWord hup hm hp hs, if_neg (by simpa using h0.symm), if_neg hl]
  obtain ⟨⟨h1, -, h3⟩, -, -, h5, -⟩ := selfTested_selfTestAll s.variant [h] [] [] s.dev
  obtain ⟨-, h7⟩ := h5 rfl
  refine ⟨_, exec_powerOnSelftest .., ?_⟩
  simp only [State.on_dev]
  rw [hop]
  generalize selfTestAll s.variant [h] [] [] s.dev = e at h1 h3 h7 ⊢
  rw [hubsFailed, hone] at h7
  exact ⟨h1, h3.trans hone, h7⟩

theorem selftest_fails_h0 : ∃ t, exec (.powerOnSelftest [(codeOf (.hub 0)).toNat] []) s = .next t ∧ t.dev.seq.safe = true ∧
    t.dev.seq.hubHeld = hubsPresent s.variant ∧ Posted s.dev t.dev evSafeState 0 0 [] := by
  have hop : powerOnSelftestOp s.variant (failedHubs [(codeOf (.hub 0)).toNat]) (failedUnits [(codeOf (.hub 0)).toNat]) [] s.dev =
      enterSafe s.variant s.dev := by
    rw [failedHubs_hub (by decide), failedUnits_hub (by decide), powerOnSelftestOp_of_noWord hup hm hp hs, if_pos (by decide)]
  obtain ⟨-, hq, hlog⟩ := enterSafe_safe s.variant s.dev
  refine ⟨_, exec_powerOnSelftest .., ?_⟩
  simp only [State.on_dev]
  rw [hop]
  generalize enterSafe s.variant s.dev = e at hq hlog ⊢
  rw [hs, if_neg Bool.false_ne_true] at hlog
  exact ⟨by rw [hq]; rfl, by rw [hq]; rfl, hlog⟩

theorem selftest_counts_word {w : Nat} (a : Nat) (hl : s.dev.sec.lcs ≠ 3) (hw : w < 576) (hf : facetPresent s.variant (w / 16) = true)
    (hn : s.dev.num 0x3050 1 1 = 1) : ∃ t, exec (.powerOnSelftest [] [(w, a)]) s = .next t ∧ t.dev.seq.phase = .up ∧
      counterOf t.dev 0x3051 (marchSs w) = counterOf s.dev 0x3051 (marchSs w) + 1 ∧
      ∃ e ∈ t.dev.log.way, e.code = evMarchFail ∧ e.unit = marchUnit w := by
  have hbad : startupBad s.variant s.dev [(w, a)] = [(w, a)] := by
    have hpres : issuerPresent s.variant w = true := by
      rw [issuerPresent, issuerOf, if_pos hw]
      exact hf
    exact (if_pos hn).trans (List.filter_cons_of_pos hpres)
  have hhubs : badHubs [(w, a)] = [] := by
    rw [badHubs, List.filter_cons_of_neg (by simpa using hw)]
    rfl
  have hop : powerOnSelftestOp s.variant (failedHubs []) (failedUnits []) [(w, a)] s.dev =
      selfTestAll s.variant [] (badWedges [(w, a)]) [(w, a)] (marchFault w (a / 32) s.dev) := by
    rw [powerOnSelftestOp_of_runs hup hm hp hs, hbad, hhubs]
    exact if_neg hl
  have hss : marchSs w < 256 := by
    unfold marchSs
    split
    · decide
    · exact issuerSs_lt (Or.inl hw)
  obtain ⟨⟨h1, -, -⟩, -, h2, -, h3⟩ := selfTested_selfTestAll s.variant [] (badWedges [(w, a)]) [(w, a)] (marchFault w (a / 32) s.dev)
  have hc : counterOf (marchFault w (a / 32) s.dev) 0x3051 (marchSs w) = counterOf s.dev 0x3051 (marchSs w) + 1 := by
    have h := s.dev.counted_count 0x3051 (marchSs w) 1 (odKey 0x3051 (marchSs w))
    rw [if_pos rfl] at h
    exact h
  refine ⟨_, exec_powerOnSelftest .., ?_⟩
  simp only [State.on_dev]
  rw [hop]
  generalize selfTestAll s.variant [] (badWedges [(w, a)]) [(w, a)] (marchFault w (a / 32) s.dev) = e at h1 h2 h3 ⊢
  exact ⟨h1, (h3 _ hss).trans hc, _, h2 _ (List.mem_append_right _ (List.mem_singleton.mpr rfl)), rfl, rfl⟩

theorem selftest_holds_retired (hl : s.dev.sec.lcs = 3) : ∃ t, exec (.powerOnSelftest [] []) s = .next t ∧
    t.dev.seq.hubHeld = hubsPresent s.variant ∧ t.dev.seq.mainPg = false ∧ t.dev.seq.faultN = false := by
  have hop : powerOnSelftestOp s.variant (failedHubs []) (failedUnits []) [] s.dev = driveFault (holdAll s.variant s.dev) :=
    (powerOnSelftestOp_of_noWord hup hm hp hs []).trans (if_pos hl)
  obtain ⟨hk, hq, -⟩ := holdAll_held s.variant s.dev
  have hsec := hk.kept.sec
  refine ⟨_, exec_powerOnSelftest .., ?_⟩
  simp only [State.on_dev]
  rw [hop]
  generalize holdAll s.variant s.dev = e at hsec hq ⊢
  have hlcs : e.sec.lcs = 3 := (congrArg Sec.lcs hsec).trans hl
  refine ⟨(congrArg Seq.hubHeld hq).trans rfl, (congrArg Seq.mainPg hq).trans rfl, ?_⟩
  rw [driveFault]
  simp [hlcs]

end

/-! ### Main power goes down -/

theorem dropAllRepairs_frame (p : Nat → Bool) (d : Dev) : dropAllRepairs p d = { d with jour := (dropAllRepairs p d).jour } :=
  List.foldlRecOn (motive := fun x : Dev => x = { d with jour := x.jour }) _ _ rfl fun x hx m _ => by
    rw [dropRepairs_frame, dropRepairs_frame m false x, hx]

/-- The sequence with main power off. -/
def poweredOff (v : Variant) (d : Dev) : Dev :=
  { d with seq := { d.seq with phase := .off, mainPg := false, hubHeld := hubsPresent v, unitHeld := [], isolated := [], tests := [],
                               deferred := [] } }

/-- What the hubs lose with main power; the stacks' remapping is kept (R488). -/
structure MainDown (d e : Dev) : Prop where
  seq : e.seq.phase = .off ∧ e.seq.mainPg = false ∧ e.seq.inputFault = d.seq.inputFault
  work : e.cmds = [] ∧ e.jobs = [] ∧ e.allocs = [] ∧ e.mats = []
  mem : e.spad = [] ∧ e.mem.stack = [] ∧ e.mem.remap = d.mem.remap

theorem mainDown_mainDown (v : Variant) (d : Dev) : MainDown d (mainDown v d) := by
  obtain ⟨hk, hcmds, -, hjobs, -, hallocs⟩ := workLost_loseWork d
  have hremap := hk.remap
  have hseq := hk.seq
  have hop : mainDown v d = poweredOff v (loseMain (loseContents (resetHubs (loseWork d)))) := rfl
  rw [hop]
  generalize loseWork d = w at hcmds hjobs hallocs hremap hseq ⊢
  unfold loseContents
  dsimp only
  have hfr := dropAllRepairs_frame (fun _ => true) (resetHubs w)
  generalize dropAllRepairs (fun _ => true) (resetHubs w) = x at hfr ⊢
  have h1 : x.cmds = w.cmds ∧ x.jobs = w.jobs ∧ x.allocs = w.allocs ∧ x.mem.remap = w.mem.remap ∧ x.seq = w.seq := by
    rw [hfr]
    exact ⟨rfl, rfl, rfl, rfl, rfl⟩
  obtain ⟨c1, c2, c3, c4, c5⟩ := h1
  exact ⟨⟨rfl, rfl, (congrArg Seq.inputFault (c5.trans hseq) :)⟩, ⟨c1.trans hcmds, c2.trans hjobs, c3.trans hallocs, rfl⟩, rfl, rfl, c4.trans hremap⟩

theorem main_power_falls (s : State) : ∃ t, exec .mainEnFall s = .next t ∧ t.dev.seq.mainEn = false ∧ t.dev.seq.phase = .off ∧
    (s.dev.seq.phase ≠ .off → t.dev.seq.mainPg = false ∧ t.dev.cmds = [] ∧ t.dev.jobs = [] ∧ t.dev.allocs = [] ∧ t.dev.mats = [] ∧
      t.dev.spad = [] ∧ t.dev.mem.stack = [] ∧ t.dev.mem.remap = s.dev.mem.remap) := by
  refine ⟨_, exec_mainEnFall s, ?_⟩
  simp only [State.on_dev]
  rw [mainEnFallOp]
  by_cases hp : s.dev.seq.phase = .off
  · rw [if_neg (by rw [mainOn, hp]; decide)]
    exact ⟨rfl, hp, fun h => absurd hp h⟩
  · rw [if_pos (by simpa [mainOn] using hp)]
    obtain ⟨⟨h1, h2, -⟩, ⟨h3, h4, h5, h6⟩, h7, h8, h9⟩ := mainDown_mainDown s.variant s.dev
    generalize mainDown s.variant s.dev = e at h1 h2 h3 h4 h5 h6 h7 h8 h9 ⊢
    exact ⟨rfl, h1, fun _ => ⟨h2, h3, h4, h5, h6, h7, h8, h9⟩⟩

theorem lastVal_append_single (k : Nat) (ws : List JWrite) (b : Bytes) (w : JWaiter) (n : Nat) (paid : Bool) :
    lastVal k (ws ++ [{ vals := [(k, b)], waiter := w, tries := n, paid := paid }]) = some b := by
  rw [lastVal]
  simp

theorem latestP_fwP (d : Dev) (idx sub : Nat) (b : Bytes) : (d.fwP idx sub b).latestP idx sub = b := by
  rw [Dev.fwP]
  split
  · next h => exact h
  · rw [Dev.latestP]
    have hl : lastVal (odKey idx sub) (d.queueP [(odKey idx sub, b)] .other true).jour.waiting = some b := lastVal_append_single ..
    rw [hl]

theorem inputFault_short (s : State) (ov : Bool) {us : Nat} (h : us ≤ 20) : exec (.inputFault ov us) s = .next s := by
  rw [exec_inputFault, inputFaultOp, if_pos (by rw [decide_eq_true h, Bool.or_true]), State.on_self]

theorem input_faults {s : State} (ov : Bool) {us : Nat} (hup : s.dev.seq.stbyUp = true) (hen : s.dev.seq.mainEn = true)
    (hf : s.dev.seq.inputFault = false) (h : 20 < us) : ∃ t, exec (.inputFault ov us) s = .next t ∧ t.dev.seq.inputFault = true ∧
      t.dev.seq.faultN = false ∧ t.dev.seq.phase = .off ∧ t.dev.latestP 0x4020 2 = toLe 1 (if ov then 2 else 1) := by
  have hoff : (if mainOn s.dev then mainDown s.variant s.dev else s.dev).seq.phase = .off := by
    split
    · exact (mainDown_mainDown s.variant s.dev).seq.1
    · next h => simpa [mainOn] using h
  refine ⟨_, exec_inputFault .., ?_⟩
  simp only [State.on_dev]
  rw [inputFaultOp, if_neg (by rw [hup, hen, hf, decide_eq_false (by omega)]; decide)]
  dsimp only
  generalize (if mainOn s.dev then mainDown s.variant s.dev else s.dev) = e at hoff ⊢
  have hq : ∀ x : Dev, (((driveFault x).fwCount 0x4020 1 4 1).fwP 0x4020 2 (toLe 1 (if ov then 2 else 1))).seq = (driveFault x).seq := fun x => by
    rw [fwP_frame, fwCount_frame]
  refine ⟨?_, ?_, ?_, latestP_fwP ..⟩
  · rw [hq]
    rfl
  · rw [hq, driveFault]
    simp
  · rw [hq]
    exact hoff

/-! ### The obligation -/

/-- Settles O57: the controller's start and stop, power-up with its self-test, and main power's ways down, each by its operation. -/
theorem suppliesSequence : Obligations.SuppliesSequence :=
  ⟨⟨fun _ h => aux_powers_up h, fun _ mpen matched bad h ha => controller_starts mpen matched bad h ha, fun _ h => controller_reset h,
    fun _ us h => aux_browns_out us h, fun _ up h => management_link_told up h⟩,
   fun s hup => ⟨fun hv hp hf => main_power_rises hup hv hp hf, fun clkm hp => rails_settle clkm hp,
    fun hm hp hs => ⟨fun hl => selftest_passes hup hm hp hs hl, fun _ hl h0 hpr => selftest_holds_hub hup hm hp hs hl h0 hpr,
      selftest_fails_h0 hup hm hp hs, fun _ a hl hw hf hn => selftest_counts_word hup hm hp hs a hl hw hf hn,
      fun hl => selftest_holds_retired hup hm hp hs hl⟩,
    main_power_falls s, fun ov _ hen hf => ⟨fun h => inputFault_short s ov h, fun h => input_faults ov hup hen hf h⟩⟩⟩

end Sys2Proof.Machine

/-!
PROOFS for the resets (R381, R382, R485, R486): of the module, of a port and its reference clock, and of a hub's control domain.
-/
namespace Sys2Proof.Machine

open Sys2Proof

theorem exec_moduleWarmReset (s : State) (us : Nat) : exec (.moduleWarmReset us) s = .next (s.on (moduleWarmResetOp s.variant us s.dev)) := rfl

theorem exec_moduleWarmResetRelease (s : State) : exec .moduleWarmResetRelease s = .next (s.on (moduleWarmResetReleaseOp s.dev)) := rfl

theorem exec_portReset (s : State) (p : Nat) : exec (.portReset p) s = .next (s.on (portResetOp s.variant p s.dev)) := rfl

theorem exec_perstRelease (s : State) (p : Nat) : exec (.perstRelease p) s = .next (s.on (perstReleaseOp s.variant p s.dev)) := rfl

theorem exec_refclkStop (s : State) (h : Nat) : exec (.refclkStop h) s = .next (s.on (refclkStopOp s.variant h s.dev)) := rfl

theorem exec_refclkRestart (s : State) (h : Nat) : exec (.refclkRestart h) s = .next (s.on (refclkRestartOp s.variant h s.dev)) := rfl

theorem exec_hubControlReset (s : State) (h : Nat) : exec (.hubControlReset h) s = .next (s.on (hubControlResetOp s.variant h s.dev)) := rfl

/-! ### A warm reset of the module (R485) -/

theorem loseQV_kept (d : Dev) : (loseQV d).seq = d.seq ∧ (loseQV d).cmds = d.cmds ∧ (loseQV d).comps = d.comps ∧ (loseQV d).jobs = d.jobs ∧
    (loseQV d).tiles = d.tiles ∧ (loseQV d).jour = d.jour := by
  unfold loseQV
  generalize (fun i s => clsOf i s == .q || clsOf i s == .v) = lost
  exact ⟨rfl, rfl, rfl, rfl, rfl, rfl⟩

/-- What a warm reset leaves: the hubs held, the module's work gone, the journal's values kept. -/
structure WarmHeld (v : Variant) (d e : Dev) : Prop where
  seq : e.seq = { d.seq.held v with modRstN := false, phase := .warm }
  work : e.cmds = [] ∧ e.comps = [] ∧ e.jobs = [] ∧ e.tiles = []
  jour : e.jour = { d.jour with waiting := e.jour.waiting }

theorem warmHeld_moduleWarmResetOp {v : Variant} {d : Dev} {us : Nat} (hus : 10 ≤ us) (hp : d.seq.phase = .up) :
    WarmHeld v d (moduleWarmResetOp v us d) := by
  obtain ⟨⟨hk, h1, h2, h3, h4, -⟩, hq, -⟩ := holdModule_held v { d with seq := { d.seq with modRstN := false } }
  have hj := hk.jour
  unfold moduleWarmResetOp
  dsimp only
  rw [if_neg (by omega), if_pos (by rw [hp]; rfl)]
  generalize holdModule v { d with seq := { d.seq with modRstN := false } } = m at h1 h2 h3 h4 hq hj ⊢
  obtain ⟨e1, e2, e3, e4, e5, e6⟩ := loseQV_kept m
  generalize loseQV m = e at e1 e2 e3 e4 e5 e6 ⊢
  refine ⟨?_, ⟨e2.trans h1, e3.trans h2, e4.trans h3, e5.trans h4⟩, ?_⟩
  · show { e.seq with phase := .warm } = _
    rw [e1, hq]
    rfl
  · show e.jour = { d.jour with waiting := e.jour.waiting }
    rw [e6]
    exact hj

theorem warm_reset_holds {s : State} {us : Nat} (hus : 10 ≤ us) (hp : s.dev.seq.phase = .up) : ∃ t, exec (.moduleWarmReset us) s = .next t ∧
    t.dev.seq.phase = .warm ∧ t.dev.seq.modRstN = false ∧ t.dev.seq.mainPg = false ∧ t.dev.seq.hubHeld = hubsPresent s.variant ∧
    t.dev.cmds = [] ∧ t.dev.comps = [] ∧ t.dev.jobs = [] ∧ t.dev.tiles = [] ∧ t.dev.jour = { s.dev.jour with waiting := t.dev.jour.waiting } ∧
    (∃ u, exec .moduleWarmResetRelease t = .next u ∧
      u = t.on { t.dev with seq := { t.dev.seq with modRstN := true, phase := .testing } }) := by
  obtain ⟨hq, ⟨h1, h2, h3, h4⟩, hj⟩ := warmHeld_moduleWarmResetOp (v := s.variant) hus hp
  refine ⟨_, exec_moduleWarmReset s us, ?_⟩
  simp only [State.on_dev]
  generalize moduleWarmResetOp s.variant us s.dev = e at hq h1 h2 h3 h4 hj ⊢
  refine ⟨congrArg Seq.phase hq, congrArg Seq.modRstN hq, congrArg Seq.mainPg hq, congrArg Seq.hubHeld hq, h1, h2, h3, h4, hj, _,
    exec_moduleWarmResetRelease _, ?_⟩
  have hphase : e.seq.phase = .warm := congrArg Seq.phase hq
  simp only [State.on_dev, State.on_on]
  rw [moduleWarmResetReleaseOp, hphase]
  rfl

theorem warm_reset_short (s : State) {us : Nat} (h : us < 10) : exec (.moduleWarmReset us) s = .next s := by
  rw [exec_moduleWarmReset, moduleWarmResetOp, if_pos h, State.on_self]

/-! ### A reset of a port, and its reference clock (R381, R486) -/

/-- A port that is reset is out of PCIe, without queues, and none of its commands is left. -/
structure PortLeft (p : Nat) (e : Dev) : Prop where
  port : e.port p = { resetting := true }
  cmds : ∀ c ∈ e.cmds, c.port ≠ p
  comps : ∀ c ∈ e.comps, c.port ≠ p

theorem resetHops_frame (v : Variant) (t : Target) (d : Dev) : resetHops v t d = { d with hops := (resetHops v t d).hops } :=
  List.foldlRecOn (motive := fun x : Dev => x = { d with hops := x.hops }) _ _ rfl fun x hx e _ => by rw [hopEndLost, Dev.modHop, Dev.setHop, hx]

theorem releaseDescs_frame (l : List Desc) (d : Dev) : l.foldl (fun (d : Dev) x => releaseDesc x d) d =
    { d with descs := (l.foldl (fun (d : Dev) x => releaseDesc x d) d).descs, descIdx := (l.foldl (fun (d : Dev) x => releaseDesc x d) d).descIdx } :=
  List.foldlRecOn (motive := fun x : Dev => x = { d with descs := x.descs, descIdx := x.descIdx }) _ _ rfl fun x hx e _ => by rw [releaseDesc, hx]

/-- The commands and the completions of every other port. -/
def withoutPort (p : Nat) (d : Dev) : Dev := { d with cmds := d.cmds.filter (fun c => c.port ≠ p), comps := d.comps.filter (fun c => c.port ≠ p) }

/-- The programs and the allocations of a port go with their last pin. -/
def unowned (p : Nat) (d : Dev) : Dev :=
  { d with progs := d.progs.map (fun x => if x.port = p then { x with doomed := true } else x),
           allocs := d.allocs.map (fun a => if a.port = p then { a with live := false, export_ := 0 } else a) }

theorem portLeft_resetPort (p : Nat) (d : Dev) : PortLeft p (resetPort p d) := by
  unfold resetPort
  dsimp only
  generalize List.foldl (fun (d : Dev) c => dropCommand c d) _ (d.cmds.filter fun c => c.port = p) = a
  have hcmds : ∀ c ∈ (withoutPort p a).cmds, c.port ≠ p := fun c hc => of_decide_eq_true (List.mem_filter.mp hc).2
  have hcomps : ∀ c ∈ (withoutPort p a).comps, c.port ≠ p := fun c hc => of_decide_eq_true (List.mem_filter.mp hc).2
  change PortLeft p ((losePortEntries p ((settlePins (unowned p (((withoutPort p a).descs.filter fun x => x.port = p).foldl
    (fun (d : Dev) x => releaseDesc x d) (withoutPort p a)))).setPort p { resetting := true })).count 0x1206 (p + 1) 1)
  generalize withoutPort p a = b at hcmds hcomps ⊢
  have hd := releaseDescs_frame (b.descs.filter fun x => x.port = p) b
  generalize (b.descs.filter fun x => x.port = p).foldl (fun (d : Dev) x => releaseDesc x d) b = c at hd ⊢
  have hs := (settled_settlePins (unowned p c)).frame
  have hcs : (settlePins (unowned p c)).cmds = b.cmds ∧ (settlePins (unowned p c)).comps = b.comps := by
    rw [hs, unowned, hd]
    exact ⟨rfl, rfl⟩
  generalize settlePins (unowned p c) = f at hcs ⊢
  have hport : (f.setPort p { resetting := true }).port p = { resetting := true } := f.port_setPort_same p _
  exact ⟨hport, hcs.1 ▸ hcmds, hcs.2 ▸ hcomps⟩

theorem portDown_of_powered {v : Variant} {d : Dev} {p : Nat} (hm : d.seq.phase ≠ .off) (hp : portPresent v p = true) : PortLeft p (portDown v p d) := by
  obtain ⟨h1, h2, h3⟩ := portLeft_resetPort p d
  have hop : portDown v p d = resetHops v (.port p) (resetPort p d) := by
    rw [portDown, if_pos (by rw [hp, Bool.and_true]; simpa [mainOn] using hm)]
    rfl
  rw [hop]
  generalize resetPort p d = e at h1 h2 h3 ⊢
  rw [resetHops_frame]
  exact ⟨h1, h2, h3⟩

theorem nth_setAt_false (l : List Bool) (i : Nat) : nth false (setAt l i false) i = false := by
  rw [nth, setAt, List.getD_eq_getElem?_getD, List.getElem?_set_self']
  cases l[i]? <;> rfl

theorem nth_setAt_same {α : Type} (x : α) {l : List α} {i : Nat} (h : i < l.length) (y : α) : nth x (setAt l i y) i = y := by
  rw [nth, setAt, List.getD_eq_getElem?_getD, List.getElem?_set_self h]
  rfl

theorem nth_setAt_other {α : Type} (x : α) (l : List α) {i j : Nat} (h : j ≠ i) (y : α) : nth x (setAt l i y) j = nth x l j := by
  rw [nth, setAt, List.getD_eq_getElem?_getD, List.getElem?_set_ne h.symm, nth, List.getD_eq_getElem?_getD]

theorem port_resets {s : State} {p : Nat} (hp : portPresent s.variant p = true) (hm : s.dev.seq.phase ≠ .off) :
    ∃ t, exec (.portReset p) s = .next t ∧ nth false t.dev.seq.perstN p = false ∧ (t.dev.port p).linkUp = false ∧
      (t.dev.port p).queues = [] ∧ (∀ c ∈ t.dev.cmds, c.port ≠ p) ∧ (∀ c ∈ t.dev.comps, c.port ≠ p) := by
  obtain ⟨h1, h2, h3⟩ := portDown_of_powered hm hp
  refine ⟨_, exec_portReset s p, ?_⟩
  simp only [State.on_dev]
  rw [portResetOp, if_pos hp]
  dsimp only
  generalize portDown s.variant p s.dev = e at h1 h2 h3 ⊢
  exact ⟨nth_setAt_false .., (congrArg HostPort.linkUp h1 :), (congrArg HostPort.queues h1 :), h2, h3⟩

/-- The port trains when nothing holds it. -/
structure PortTrained (p : Nat) (d e : Dev) : Prop where
  frame : e = { d with ports := e.ports, free := d.free + 1 }
  only : OnlyPort d e p
  up : (e.port p).linkUp = true ∧ (e.port p).ready = true ∧ (e.port p).queues = (d.port p).queues
  width : (e.port p).width ∈ [16, 8, 4, 2, 1]
  rate : 1 ≤ (e.port p).rate ∧ (e.port p).rate ≤ 6

theorem nth_width_mem (k : Nat) : nth 16 [16, 8, 4, 2, 1] (k % 5) ∈ [16, 8, 4, 2, 1] := by
  have h := Nat.mod_lt k (show 0 < 5 by decide)
  generalize k % 5 = i at h ⊢
  have hall : ∀ i : Fin 5, nth 16 [16, 8, 4, 2, 1] i.1 ∈ [16, 8, 4, 2, 1] := by decide
  exact hall ⟨i, h⟩

theorem portTrained_trainPort (p : Nat) (d : Dev) : PortTrained p d (trainPort p d) := by
  unfold trainPort
  dsimp only
  have hw := nth_width_mem (Config.trainWidth d.free)
  generalize nth 16 [16, 8, 4, 2, 1] (Config.trainWidth d.free % 5) = w at hw ⊢
  have hr : 1 ≤ 1 + Config.trainRate d.free % 6 ∧ 1 + Config.trainRate d.free % 6 ≤ 6 := by omega
  generalize 1 + Config.trainRate d.free % 6 = r at hr ⊢
  have hport := d.port_modPort_same p fun x => { x with resetting := false, linkUp := true, ready := true, width := w, rate := r }
  have honly := d.onlyPort_modPort p fun x => { x with resetting := false, linkUp := true, ready := true, width := w, rate := r }
  exact ⟨rfl, honly, ⟨(congrArg HostPort.linkUp hport :), (congrArg HostPort.ready hport :), (congrArg HostPort.queues hport :)⟩,
    (congrArg HostPort.width hport : _ = w) ▸ hw, (congrArg HostPort.rate hport : _ = r) ▸ hr⟩

theorem perst_released {s : State} {p : Nat}
    (hf : portFree s.variant { s.dev with seq := { s.dev.seq with perstN := setAt s.dev.seq.perstN p true } } p = true)
    (hd : (s.dev.port p).linkUp = false) : ∃ t, exec (.perstRelease p) s = .next t ∧
      t = s.on { s.dev with seq := { s.dev.seq with perstN := t.dev.seq.perstN }, ports := t.dev.ports, free := s.dev.free + 1 } ∧
      OnlyPort s.dev t.dev p ∧ (t.dev.port p).linkUp = true ∧ (t.dev.port p).ready = true ∧ (t.dev.port p).queues = (s.dev.port p).queues ∧
      (t.dev.port p).width ∈ [16, 8, 4, 2, 1] ∧ 1 ≤ (t.dev.port p).rate ∧ (t.dev.port p).rate ≤ 6 := by
  have hp : portPresent s.variant p = true := by
    rw [portFree] at hf
    simp only [Bool.and_eq_true] at hf
    exact hf.1.1.1.1
  have hop : perstReleaseOp s.variant p s.dev = trainPort p { s.dev with seq := { s.dev.seq with perstN := setAt s.dev.seq.perstN p true } } := by
    have hdown : (Dev.port { s.dev with seq := { s.dev.seq with perstN := setAt s.dev.seq.perstN p true } } p).linkUp = false := hd
    rw [perstReleaseOp, if_pos hp, trainIfFree, if_pos (by rw [hf, hdown]; rfl)]
  obtain ⟨h1, h2, ⟨h3, h4, h5⟩, h6, h7, h8⟩ := portTrained_trainPort p { s.dev with seq := { s.dev.seq with perstN := setAt s.dev.seq.perstN p true } }
  refine ⟨_, exec_perstRelease s p, ?_⟩
  simp only [State.on_dev]
  rw [hop]
  generalize trainPort p { s.dev with seq := { s.dev.seq with perstN := setAt s.dev.seq.perstN p true } } = e at h1 h2 h3 h4 h5 h6 h7 h8 ⊢
  have hperst : e.seq.perstN = setAt s.dev.seq.perstN p true := by rw [h1]
  refine ⟨?_, h2, h3, h4, h5, h6, h7, h8⟩
  rw [hperst]
  exact congrArg s.on h1

theorem hubPresent_of_port {v : Variant} {p : Nat} (h : portPresent v p = true) : hubPresent v p = true := by
  cases v <;> exact h

theorem refclk_stops {s : State} {h : Nat} (hp : portPresent s.variant h = true) (hm : s.dev.seq.phase ≠ .off)
    (hr : nth false s.dev.seq.refclk h = true) : ∃ t, exec (.refclkStop h) s = .next t ∧ timerRuns t.variant t.dev h = false ∧
      (t.dev.port h).linkUp = false := by
  obtain ⟨h1, -, -⟩ := portDown_of_powered hm hp
  refine ⟨_, exec_refclkStop s h, ?_⟩
  simp only [State.on_dev]
  rw [refclkStopOp, if_pos (by rw [hubPresent_of_port hp, hr]; rfl)]
  dsimp only
  generalize portDown s.variant h s.dev = e at h1 ⊢
  refine ⟨?_, (congrArg HostPort.linkUp h1 :)⟩
  rw [timerRuns]
  exact (congrArg _ (nth_setAt_false e.seq.refclk h)).trans (Bool.and_false _)

theorem refclk_restarts {s : State} {h : Nat} (hp : hubPresent s.variant h = true) (hr : nth false s.dev.seq.refclk h = false)
    (hl : h < s.dev.seq.refclk.length) (hm : s.dev.seq.phase ≠ .off) : ∃ t, exec (.refclkRestart h) s = .next t ∧
      t = s.on { s.dev with seq := { s.dev.seq with refclk := t.dev.seq.refclk }, ports := t.dev.ports, free := t.dev.free } ∧
      timerRuns t.variant t.dev h = true ∧ (∀ k, k ≠ h → nth false t.dev.seq.refclk k = nth false s.dev.seq.refclk k) := by
  have hfr := trainIfFree_frame s.variant h { s.dev with seq := { s.dev.seq with refclk := setAt s.dev.seq.refclk h true } }
  refine ⟨_, exec_refclkRestart s h, ?_⟩
  simp only [State.on_dev, State.on_variant]
  rw [refclkRestartOp, if_pos (by rw [hp, hr]; rfl)]
  generalize trainIfFree s.variant h { s.dev with seq := { s.dev.seq with refclk := setAt s.dev.seq.refclk h true } } = e at hfr ⊢
  have hseq : e.seq = { s.dev.seq with refclk := setAt s.dev.seq.refclk h true } := by rw [hfr]
  have hclk : e.seq.refclk = setAt s.dev.seq.refclk h true := congrArg Seq.refclk hseq
  refine ⟨?_, ?_, fun k hk => ?_⟩
  · rw [hclk]
    exact congrArg s.on hfr
  · have hon : mainOn e = true := by
      rw [mainOn, congrArg Seq.phase hseq]
      simpa using hm
    rw [timerRuns, hp, hon, hclk, nth_setAt_same _ hl]
    rfl
  · rw [hclk]
    exact nth_setAt_other _ _ hk _

/-! ### A reset of a hub's control domain (R382) -/

/-- From `d` to `e` commands in flight may have ended; the ports and the check engines are as they were. -/
structure CommandsEnded (d e : Dev) : Prop where
  cmds : e.cmds.Sublist d.cmds
  ports : e.ports = d.ports
  ces : e.ces = d.ces

section
variable {d e : Dev}

theorem CommandsEnded.refl (d : Dev) : CommandsEnded d d := ⟨List.Sublist.refl _, rfl, rfl⟩

theorem CommandsEnded.trans {f : Dev} (h : CommandsEnded d e) (h' : CommandsEnded e f) : CommandsEnded d f :=
  ⟨h'.cmds.trans h.cmds, h'.ports.trans h.ports, h'.ces.trans h.ces⟩

theorem CommandsEnded.of_frame (h1 : e.cmds = d.cmds) (h2 : e.ports = d.ports) (h3 : e.ces = d.ces) : CommandsEnded d e :=
  ⟨h1 ▸ List.Sublist.refl _, h2, h3⟩

/-- A command that ends leaves the commands in flight, and no other. -/
theorem commandsEnded_finish (d : Dev) (id : Nat) (st dt : BitVec 8) (b : Bool) (r : BitVec 64) :
    CommandsEnded d (d.finish id st dt b r) ∧ ∀ c ∈ (d.finish id st dt b r).cmds, c.id ≠ id := by
  unfold Dev.finish
  split
  · next h =>
    refine ⟨CommandsEnded.refl d, fun c hc heq => ?_⟩
    have hno := List.find?_eq_none.mp h c hc
    exact hno (by simpa using heq)
  · dsimp only
    have hne : ∀ c ∈ d.cmds.filter (fun e => e.id != id), c.id ≠ id := fun c hc => by simpa using (List.mem_filter.mp hc).2
    split
    · exact ⟨⟨List.filter_sublist, rfl, rfl⟩, hne⟩
    · exact ⟨⟨List.filter_sublist, rfl, rfl⟩, hne⟩

theorem commandsEnded_abandonLoad (l : Load) (d : Dev) : CommandsEnded d (abandonLoad l d) := by
  have hf : CommandsEnded d (l.targets.foldl (fun d t => (dropRepairs t.1 t.2 d).modMac t.1 fun x => x.setBank t.2 {}) d) :=
    List.foldlRecOn (motive := CommandsEnded d) _ _ (CommandsEnded.refl d) fun x hx t _ => by
      rw [dropRepairs_frame]
      exact ⟨hx.cmds, hx.ports, hx.ces⟩
  exact ⟨hf.cmds, hf.ports, hf.ces⟩

theorem commandsEnded_dropCommand (c : Cmd) (d : Dev) : CommandsEnded d (dropCommand c d) := by
  unfold dropCommand
  split
  · next l _ =>
    obtain ⟨h1, h2, h3⟩ := commandsEnded_abandonLoad l d
    exact ⟨h1, h2, h3⟩
  · exact CommandsEnded.of_frame rfl rfl rfl

theorem commandsEnded_loseTiles (hit : Tile → Bool) (iss : Nat → Bool) (d : Dev) : CommandsEnded d (loseTiles hit iss d) := by
  rw [(tilesLost_loseTiles hit iss d).frame]
  exact CommandsEnded.of_frame rfl rfl rfl

theorem commandsEnded_resetHops (v : Variant) (t : Target) (d : Dev) : CommandsEnded d (resetHops v t d) := by
  rw [resetHops_frame]
  exact CommandsEnded.of_frame rfl rfl rfl

theorem commandsEnded_resetCore (h c : Nat) (d : Dev) : CommandsEnded d (resetCore h c d) := by
  obtain ⟨h1, h2, h3⟩ := commandsEnded_loseTiles (fun _ => false) (fun x => x == 0x4000 + 4 * h + c) d
  exact ⟨h1, h2, h3⟩

/-- The commands that run on a hub, ended with UNIT_OFFLINE (R382). -/
def endRunning (l : List Cmd) (d : Dev) : Dev := l.foldl (fun (d : Dev) c => (dropCommand c d).fails c.id stUnitOffline 0) d

theorem commandsEnded_endRunning (l : List Cmd) (d : Dev) :
    CommandsEnded d (endRunning l d) ∧ ∀ c ∈ (endRunning l d).cmds, ∀ r ∈ l, c.id ≠ r.id := by
  induction l generalizing d with
  | nil => exact ⟨CommandsEnded.refl d, fun _ _ _ h => absurd h List.not_mem_nil⟩
  | cons r l ih =>
    obtain ⟨h1, h2⟩ := commandsEnded_finish (dropCommand r d) r.id stUnitOffline (BitVec.ofNat 8 0) false 0
    have h3 := (commandsEnded_dropCommand r d).trans h1
    obtain ⟨h4, h5⟩ := ih ((dropCommand r d).fails r.id stUnitOffline 0)
    refine ⟨h3.trans h4, fun c hc x hx => ?_⟩
    rcases List.mem_cons.mp hx with rfl | hx
    · exact h2 c (h4.cmds.subset hc)
    · exact h5 c hc x hx

/-- The check engines of a hub, each with its hops reset (R382). -/
def resetCes (v : Variant) (h : Nat) (l : List Nat) (d : Dev) : Dev :=
  l.foldl (fun (d : Dev) i => resetHops v (.ce (16 * h + i)) (resetCe (16 * h + i) d)) d

theorem ce_resetCe (v : Variant) (t : Target) (n k : Nat) (d : Dev) :
    (resetHops v t (resetCe n d)).ce k = if k = n then (d.ce n).afterReset else d.ce k := by
  rw [resetHops_frame, resetCe]
  split
  · next h =>
    subst h
    exact d.ce_setCe_same k _
  · next h => exact d.ce_setCe_other _ h

theorem ce_resetCes (v : Variant) (h : Nat) (l : List Nat) (d : Dev) (k : Nat) : ((resetCes v h l d).ce k).cfg = (d.ce k).cfg ∧
    ((d.ce k).run = (d.ce k).cfg.init ∨ k ∈ l.map (16 * h + ·) → ((resetCes v h l d).ce k).run = (d.ce k).cfg.init) := by
  induction l generalizing d with
  | nil => exact ⟨rfl, fun hk => hk.resolve_right List.not_mem_nil⟩
  | cons i l ih =>
    have hx := ce_resetCe v (.ce (16 * h + i)) (16 * h + i) k d
    rw [show resetCes v h (i :: l) d = resetCes v h l (resetHops v (.ce (16 * h + i)) (resetCe (16 * h + i) d)) from List.foldl_cons ..]
    generalize resetHops v (.ce (16 * h + i)) (resetCe (16 * h + i) d) = x at hx ⊢
    obtain ⟨h1, h2⟩ := ih x
    by_cases hk : k = 16 * h + i
    · rw [if_pos hk, ← hk] at hx
      have hcfg : (x.ce k).cfg = (d.ce k).cfg := by rw [hx]; rfl
      have hrun : (x.ce k).run = (d.ce k).cfg.init := by rw [hx]; rfl
      exact ⟨h1.trans hcfg, fun _ => (h2 (Or.inl (by rw [hrun, hcfg]))).trans (by rw [hcfg])⟩
    · rw [if_neg hk] at hx
      rw [hx] at h1 h2
      refine ⟨h1, fun hor => h2 (hor.imp_right fun hm => ?_)⟩
      rw [List.map_cons] at hm
      exact (List.mem_cons.mp hm).resolve_left hk

theorem resetCes_rest (v : Variant) (h : Nat) (l : List Nat) (d : Dev) : (resetCes v h l d).cmds = d.cmds ∧ (resetCes v h l d).ports = d.ports :=
  List.foldlRecOn (motive := fun x : Dev => x.cmds = d.cmds ∧ x.ports = d.ports) _ _ ⟨rfl, rfl⟩ fun x hx i _ => by
    rw [resetHops_frame]
    exact hx

/-- How a reset of a hub's control domain leaves its commands, the ports and its check engines. -/
structure ControlReset (h : Nat) (d e : Dev) : Prop where
  cmds : ∀ c ∈ e.cmds, c.port = h → c.stage = .busy → c.opc = 0x19
  ports : e.ports = d.ports
  ces : ∀ i, i < 16 → (e.ce (16 * h + i)).cfg = (d.ce (16 * h + i)).cfg ∧ (e.ce (16 * h + i)).run = (d.ce (16 * h + i)).cfg.init

theorem controlReset_resetControlOf (v : Variant) (cores : List Nat) (h : Nat) (d : Dev) : ControlReset h d (resetControlOf v cores h d) := by
  obtain ⟨h1, h2⟩ := commandsEnded_endRunning (runningOn d h) d
  unfold resetControlOf
  dsimp only
  rw [show List.foldl (fun (d : Dev) c => (dropCommand c d).fails c.id stUnitOffline 0) d (runningOn d h) = endRunning (runningOn d h) d from rfl]
  generalize endRunning (runningOn d h) d = a at h1 h2 ⊢
  generalize (fun x => cores.any fun c => x == 0x4000 + 4 * h + c) = lost
  have hcores : CommandsEnded a (cores.foldl (fun d c => resetHops v (.core h c) (resetCore h c d)) (loseTiles (fun _ => false) lost a)) :=
    List.foldlRecOn (motive := CommandsEnded a) _ _ (commandsEnded_loseTiles ..) fun x hx c _ =>
      (hx.trans (commandsEnded_resetCore h c x)).trans (commandsEnded_resetHops ..)
  generalize cores.foldl (fun d c => resetHops v (.core h c) (resetCore h c d)) (loseTiles (fun _ => false) lost a) = b at hcores ⊢
  have hdb := h1.trans hcores
  have hces := ce_resetCes v h (List.range 16) b
  obtain ⟨r1, r2⟩ := resetCes_rest v h (List.range 16) b
  rw [show List.foldl (fun (d : Dev) i => resetHops v (.ce (16 * h + i)) (resetCe (16 * h + i) d)) b (List.range 16) = resetCes v h (List.range 16) b from rfl]
  generalize resetCes v h (List.range 16) b = c at hces r1 r2 ⊢
  rw [resetHops_frame]
  refine ⟨fun x hx hport hbusy => ?_, r2.trans hdb.ports, fun i hi => ?_⟩
  · have hxa : x ∈ a.cmds := hcores.cmds.subset (r1 ▸ hx)
    have hxd : x ∈ d.cmds := h1.cmds.subset hxa
    by_contra hopc
    have hrun : x ∈ runningOn d h := List.mem_filter.mpr ⟨hxd, by simp [hport, hbusy, hopc]⟩
    exact h2 x hxa x hrun rfl
  · have hcb : b.ce (16 * h + i) = d.ce (16 * h + i) := by rw [Dev.ce, Dev.ce, hdb.ces]
    obtain ⟨c1, c2⟩ := hces (16 * h + i)
    rw [hcb] at c1 c2
    exact ⟨c1, c2 (Or.inr (List.mem_map.mpr ⟨i, List.mem_range.mpr hi, rfl⟩))⟩

end

theorem control_resets {s : State} {h : Nat} (hp : hubPresent s.variant h = true) (hm : s.dev.seq.phase ≠ .off) :
    ∃ t, exec (.hubControlReset h) s = .next t ∧ (∀ c ∈ t.dev.cmds, c.port = h → c.stage = .busy → c.opc = 0x19) ∧ t.dev.ports = s.dev.ports ∧
      ∀ i, i < 16 → (t.dev.ce (16 * h + i)).cfg = (s.dev.ce (16 * h + i)).cfg ∧ (t.dev.ce (16 * h + i)).run = (s.dev.ce (16 * h + i)).cfg.init := by
  obtain ⟨h1, h2, h3⟩ := controlReset_resetControlOf s.variant ([0, 1, 2, 3].filter fun c => !coreWriting s.dev h c) h s.dev
  refine ⟨_, exec_hubControlReset s h, ?_⟩
  simp only [State.on_dev]
  rw [hubControlResetOp, if_neg (by rw [hp]; simpa [mainOn] using hm)]
  dsimp only
  generalize resetControlOf s.variant ([0, 1, 2, 3].filter fun c => !coreWriting s.dev h c) h s.dev = e at h1 h2 h3 ⊢
  exact ⟨h1, h2, h3⟩

/-- Settles O58: the reset of the module, of a port, of its reference clock and of a hub's control domain, each by its operation. -/
theorem moduleResetsHold : Obligations.ModuleResetsHold :=
  ⟨fun _ _ hus hp => warm_reset_holds hus hp, fun s _ h => warm_reset_short s h, fun _ _ hp hm _ => port_resets hp hm,
   fun _ _ hf hd => perst_released hf hd, fun _ _ hp hm hr => refclk_stops hp hm hr, fun _ _ hp hr hl hm => refclk_restarts hp hr hl hm,
   fun _ _ hp hm => control_resets hp hm⟩

end Sys2Proof.Machine

/-!
PROOFS for the scratchpad banks (R300 to R308): requests by rank, atomics, the clear at a wake, starving requests and the preserving march.
-/
namespace Sys2Proof.Machine

open Sys2Proof

theorem exec_bankAccess (s : State) (code : Nat) (req : Option BankReq) : exec (.bankAccess code req) s = execBankAccess code req s := rfl

theorem exec_bankAtomic (s : State) (code : Nat) : exec (.bankAtomic code) s = .next (s.on (bankAtomicOp code s.dev)) := rfl

theorem exec_scratchpadWakeClear (s : State) (code : Nat) : exec (.scratchpadWakeClear code) s = .next (s.on (scratchpadWakeClearOp code s.dev)) := rfl

theorem exec_spadStarve (s : State) (code index waited : Nat) :
    exec (.spadStarve code index waited) s = .next (s.on (spadStarveOp code index waited s.dev)) := rfl

theorem exec_marchPreservingWord (s : State) (code word : Nat) (descending bad restored : Bool) :
    exec (.marchPreservingWord code word descending bad restored) s = execMarchPreservingWord code word descending bad restored s := rfl

/-! ### Requests and the highest rank (R300, R301, R303) -/

theorem bank_takes {s : State} {code : Nat} {r : BankReq} (hp : issuerPresent s.variant code = true) (ha : r.addr < bankBytes code)
    (hok : bankReqOk r = true) (hon : issuerOffline s.dev code = false) : ∃ t, exec (.bankAccess code (some r)) s = .next t ∧
      t = s.on { s.dev with banks := t.dev.banks } ∧ t.dev.sbank code = { s.dev.sbank code with reqs := (s.dev.sbank code).reqs ++ [r] } ∧
      ∀ k, k ≠ code → t.dev.sbank k = s.dev.sbank k := by
  have hop : bankAccessOp code (some r) s.dev = s.dev.setSbank code { s.dev.sbank code with reqs := (s.dev.sbank code).reqs ++ [r] } := by
    rw [bankAccessOp, hok, hon, if_neg (by decide), if_neg (by decide)]
  have hex : exec (.bankAccess code (some r)) s = .next (s.on (bankAccessOp code (some r) s.dev)) := by
    rw [exec_bankAccess, execBankAccess]
    exact if_pos (by simp [ha, hp])
  refine ⟨_, hex, ?_⟩
  rw [hop]
  exact ⟨rfl, s.dev.sbank_setSbank_same code _, fun k hk => s.dev.sbank_setSbank_other _ hk⟩

/-- A request served: its effect on the bank's bytes, and its answer. -/
structure Served (code : Nat) (r : BankReq) (d e : Dev) : Prop where
  frame : e = { d with banks := e.banks, spad := e.spad, out := e.out }
  bank : e.sbank code = { d.sbank code with reqs := (d.sbank code).reqs.erase r }
  out : e.out = d.out ++ [.bankData code r.addr (answerBytes r.op (d.sread code r.addr (opLen r.op r.len))) false]
  read : r.op = .read → e.spad = d.spad
  write : r.op ≠ .read → e.spad = mwrite d.spad (spadAddr code r.addr) (applyOp r.op (d.sread code r.addr (opLen r.op r.len)))

theorem served_bankApply (code : Nat) (r : BankReq) (d : Dev) : Served code r d (bankApply code r d) := by
  have hread : isRead r.op = true ↔ r.op = .read := by cases r.op <;> simp [isRead]
  have hbank := d.sbank_setSbank_same code { d.sbank code with reqs := (d.sbank code).reqs.erase r }
  unfold bankApply
  dsimp only
  by_cases h : r.op = .read
  · rw [if_pos (hread.mpr h)]
    exact ⟨rfl, hbank, rfl, fun _ => rfl, fun hne => absurd h hne⟩
  · rw [if_neg (fun hr => h (hread.mp hr))]
    exact ⟨rfl, hbank, rfl, fun hr => absurd hr h, fun _ => rfl⟩

theorem answerBytes_atomic {op : MemOp} (h : isAtomic op = true) (b : Bytes) : answerBytes op b = b := by
  cases op with
  | fetchAdd => rfl
  | swap => rfl
  | read => cases h
  | write => cases h
  | addF32 => cases h
  | addI32 => cases h
  | testSet => cases h

section
variable {s : State} {code : Nat} {r : BankReq} (hs : bankServes s.dev code = true) (hb : bankBest (s.dev.sbank code) = some r)
include hs hb

theorem bank_serves (hp : issuerPresent s.variant code = true) (hna : isAtomic r.op = false) : ∃ t, exec (.bankAccess code none) s = .next t ∧
    t = s.on { s.dev with banks := t.dev.banks, spad := t.dev.spad, out := t.dev.out } ∧
    t.dev.sbank code = { s.dev.sbank code with reqs := (s.dev.sbank code).reqs.erase r } ∧
    t.dev.out = s.dev.out ++ [.bankData code r.addr (answerBytes r.op (s.dev.sread code r.addr (opLen r.op r.len))) false] ∧
    (r.op = .read → t.dev.spad = s.dev.spad) ∧ (∀ b, r.op = .write b → t.dev.sread code r.addr b.length = b) ∧
    (∀ a, a < spadAddr code r.addr ∨ spadAddr code r.addr + (applyOp r.op (s.dev.sread code r.addr (opLen r.op r.len))).length ≤ a →
      mget t.dev.spad a = mget s.dev.spad a) := by
  have hop : bankAccessOp code none s.dev = bankApply code r s.dev := by
    rw [bankAccessOp, if_neg (by rw [hs]; decide), hb]
    exact if_neg (by rw [hna]; decide)
  have hex : exec (.bankAccess code none) s = .next (s.on (bankAccessOp code none s.dev)) := by
    rw [exec_bankAccess, execBankAccess]
    exact if_pos (by rw [hp]; rfl)
  obtain ⟨h1, h2, h3, h4, h5⟩ := served_bankApply code r s.dev
  refine ⟨_, hex, ?_⟩
  rw [hop]
  generalize bankApply code r s.dev = e at h1 h2 h3 h4 h5 ⊢
  refine ⟨congrArg s.on h1, h2, h3, h4, fun b hw => ?_, fun a ha => ?_⟩
  · have hne : r.op ≠ .read := by rw [hw]; exact fun h => MemOp.noConfusion h
    have hspad := h5 hne
    have hbytes : applyOp r.op (s.dev.sread code r.addr (opLen r.op r.len)) = b := by rw [hw, applyOp]
    rw [State.on_dev, Dev.sread, hspad, hbytes, mread_mwrite]
  · rw [State.on_dev]
    by_cases hr : r.op = .read
    · rw [h4 hr]
    · rw [h5 hr, mget_mwrite_other _ _ _ _ ha]

theorem bank_atomic (ha : isAtomic r.op = true) : ∃ t, exec (.bankAtomic code) s = .next t ∧
    t = s.on { s.dev with banks := t.dev.banks, spad := t.dev.spad, out := t.dev.out, ctr := t.dev.ctr } ∧
    Counted s.dev t.dev 0x3042 (issuerSs code) 1 ∧
    t.dev.out = s.dev.out ++ [.bankData code r.addr (s.dev.sread code r.addr (opLen r.op r.len)) false] ∧
    (∀ v : BitVec 64, r.op = .fetchAdd 4 v →
      t.dev.sreadNat code r.addr 4 = (leNat (s.dev.sread code r.addr (opLen r.op r.len)) + v.toNat) % 2 ^ 32) ∧
    (∀ v : BitVec 64, r.op = .swap 4 v → t.dev.sreadNat code r.addr 4 = v.toNat % 2 ^ 32) := by
  have hop : bankAtomicOp code s.dev = (bankApply code r s.dev).count 0x3042 (issuerSs code) 1 := by
    rw [bankAtomicOp, if_neg (by rw [hs]; decide), hb]
    exact if_pos ha
  obtain ⟨h1, -, h3, -, h5⟩ := served_bankApply code r s.dev
  refine ⟨_, exec_bankAtomic s code, ?_⟩
  rw [hop]
  generalize bankApply code r s.dev = e at h1 h3 h5 ⊢
  have hctr : e.ctr = s.dev.ctr := by rw [h1]
  rw [answerBytes_atomic ha] at h3
  have hne : r.op ≠ .read := by
    intro hr
    rw [hr] at ha
    cases ha
  have hspad := h5 hne
  -- four bytes just written read back as the number they were made of
  have hback (n : Nat) (hn : applyOp r.op (s.dev.sread code r.addr (opLen r.op r.len)) = toLe 4 n) :
      (e.count 0x3042 (issuerSs code) 1).sreadNat code r.addr 4 = n % 2 ^ 32 := by
    have hread : mread (mwrite s.dev.spad (spadAddr code r.addr) (toLe 4 n)) (spadAddr code r.addr) 4 = toLe 4 n := by
      have h := mread_mwrite (toLe 4 n) s.dev.spad (spadAddr code r.addr)
      rwa [length_toLe] at h
    have hbytes : (e.count 0x3042 (issuerSs code) 1).sread code r.addr 4 = toLe 4 n := by
      rw [Dev.sread]
      show mread e.spad _ 4 = _
      rw [hspad, hn, hread]
    rw [Dev.sreadNat, hbytes, leNat_toLe_mod]
    norm_num
  refine ⟨congrArg s.on (by rw [Dev.count]; exact congrArg (fun x : Dev => { x with ctr := tmod 0 e.ctr (odKey 0x3042 (issuerSs code)) (· + 1) }) h1), fun k => ?_, h3, fun v hv => ?_, fun v hv => ?_⟩
  · rw [← hctr]
    exact e.counted_count 0x3042 (issuerSs code) 1 k
  · refine (hback ((leNat (s.dev.sread code r.addr (opLen r.op r.len)) + v.toNat) % 2 ^ (8 * 4)) ?_).trans (Nat.mod_mod _ _)
    rw [hv, applyOp]
  · exact hback v.toNat (by rw [hv, applyOp])

end

theorem bank_clears {s : State} {code : Nat} (h : (s.dev.sbank code).clearing = true) : ∃ t, exec (.scratchpadWakeClear code) s = .next t ∧
    t = s.on { s.dev with banks := t.dev.banks, spad := t.dev.spad } ∧ (t.dev.sbank code).clearing = false ∧
    ∀ a, mget t.dev.spad a = if spadAddr code 0 ≤ a ∧ a < spadAddr code 0 + 262144 then 0 else mget s.dev.spad a := by
  have hop : scratchpadWakeClearOp code s.dev = ({ s.dev with spad := mclear s.dev.spad (spadAddr code 0) 262144 }).setSbank code
      { s.dev.sbank code with clearing := false } := by
    rw [scratchpadWakeClearOp, settleClear, if_pos h]
  refine ⟨_, exec_scratchpadWakeClear s code, ?_⟩
  rw [hop]
  refine ⟨rfl, congrArg SpadBank.clearing (Dev.sbank_setSbank_same _ code { s.dev.sbank code with clearing := false }), fun a => ?_⟩
  exact mget_mclear s.dev.spad (spadAddr code 0) 262144 a

/-! ### Starving requests and the preserving march (R302, R306 to R308) -/

theorem getElem?_setAt_same {α : Type} {l : List α} {i : Nat} {x : α} (h : l[i]? = some x) (y : α) : (setAt l i y)[i]? = some y := by
  obtain ⟨hi, -⟩ := List.getElem?_eq_some_iff.mp h
  rw [setAt, List.getElem?_set_self hi]

theorem request_starves {s : State} {code index waited : Nat} {r : BankReq} (hr : (s.dev.sbank code).reqs[index]? = some r) (hk : 2 ≤ r.rank)
    (hs : r.starved = false) (hw : s.dev.num 0x3040 1 1000 < waited) : ∃ t, exec (.spadStarve code index waited) s = .next t ∧
      t = s.on { s.dev with banks := t.dev.banks, ctr := t.dev.ctr, log := t.dev.log, marks := t.dev.marks } ∧
      (t.dev.sbank code).reqs[index]? = some { r with starved := true } ∧ Counted s.dev t.dev 0x3041 (issuerSs code) 1 := by
  have hop : spadStarveOp code index waited s.dev = ((s.dev.setSbank code { s.dev.sbank code with
      reqs := setAt (s.dev.sbank code).reqs index { r with starved := true } }).count 0x3041 (issuerSs code) 1).postOnce
        limSpadStarve (issuerSs code) evSpadStarve (issuerHub code) (issuerTarget code) [] := by
    rw [spadStarveOp, hr]
    exact if_pos (by rw [hs, decide_eq_true hk, decide_eq_true hw]; rfl)
  have hbank := s.dev.sbank_setSbank_same code { s.dev.sbank code with reqs := setAt (s.dev.sbank code).reqs index { r with starved := true } }
  have hcnt := (s.dev.setSbank code { s.dev.sbank code with reqs := setAt (s.dev.sbank code).reqs index { r with starved := true } }).counted_count
    0x3041 (issuerSs code) 1
  refine ⟨_, exec_spadStarve .., ?_⟩
  rw [hop, Dev.postOnce_eq]
  refine ⟨rfl, ?_, hcnt⟩
  exact (congrArg (fun b : SpadBank => b.reqs[index]?) hbank).trans (getElem?_setAt_same hr _)

/-- What the march finds of its word (R308): a word that reads back wrong is counted and posted, and is lost where it cannot be restored. -/
def wordTested (code word : Nat) (bad restored : Bool) (d : Dev) : Dev :=
  if bad then (if restored then marchFault code word d else spoilWord code word (marchFault code word d)) else d

/-- The march of a bank after a word. -/
def marchOn (code n : Nat) (k : SpadBank) (d : Dev) : Dev :=
  if n + 1 < 2 * (bankBytes code / 32) then d.setSbank code { k with march := some (n + 1) }
  else (d.setSbank code { k with march := none }).count 0x3052 (marchSs code) 1

theorem marchOn_frame (code n : Nat) (k : SpadBank) (d : Dev) :
    marchOn code n k d = { d with banks := (marchOn code n k d).banks, ctr := (marchOn code n k d).ctr } ∧
      ((marchOn code n k d).sbank code).march = (if n + 1 < 2 * (bankBytes code / 32) then some (n + 1) else none) ∧
      (if n + 1 < 2 * (bankBytes code / 32) then (marchOn code n k d).ctr = d.ctr else Counted d (marchOn code n k d) 0x3052 (marchSs code) 1) := by
  unfold marchOn
  split
  · exact ⟨rfl, congrArg SpadBank.march (d.sbank_setSbank_same code _), rfl⟩
  · exact ⟨rfl, congrArg SpadBank.march (d.sbank_setSbank_same code _), d.counted_count 0x3052 (marchSs code) 1⟩

theorem marchFault_frame (code word : Nat) (d : Dev) :
    marchFault code word d = { d with ctr := (marchFault code word d).ctr, log := (marchFault code word d).log } ∧
      counterOf (marchFault code word d) 0x3051 (marchSs code) = counterOf d 0x3051 (marchSs code) + 1 ∧
      Posted d (marchFault code word d) evMarchFail (marchHub code) (marchUnit code) [(4, issuerIndex code), (4, 32 * word)] := by
  have hc := d.counted_count 0x3051 (marchSs code) 1 (odKey 0x3051 (marchSs code))
  rw [if_pos rfl] at hc
  exact ⟨rfl, hc, rfl⟩

theorem length_spoiled (n : Nat) : ((List.range 4).flatMap fun i => toLe 8 (Config.freeWord (n + i)).toNat).length = 32 := by
  simp [List.range_succ]

/-- A word that cannot be restored: of the memories only that word may change, and neither the counters nor the events do. -/
theorem spoilWord_frame (code word : Nat) (d : Dev) :
    (spoilWord code word d).ctr = d.ctr ∧ (spoilWord code word d).log = d.log ∧
      (code ≠ codeStandby → ∀ a, a < spadAddr code (32 * word) ∨ spadAddr code (32 * word) + 32 ≤ a →
        mget (spoilWord code word d).spad a = mget d.spad a) := by
  unfold spoilWord
  dsimp only
  have hlen := length_spoiled d.free
  generalize (List.range 4).flatMap (fun i => toLe 8 (Config.freeWord (d.free + i)).toNat) = b at hlen ⊢
  split
  · next h => exact ⟨rfl, rfl, fun hne => absurd h hne⟩
  · exact ⟨rfl, rfl, fun _ a ha => mget_mwrite_other b _ _ a (by rw [hlen]; exact ha)⟩

theorem march_goes_on {s : State} {code word n : Nat} (bad restored : Bool) (hword : word < bankBytes code / 32)
    (hm : (s.dev.sbank code).march = some n) (hr : (s.dev.sbank code).reqs = []) (hc : (s.dev.sbank code).clearing = false)
    (hw : word = marchWord (bankBytes code / 32) n) :
    let words := bankBytes code / 32
    ∃ t, exec (.marchPreservingWord code word (decide (words ≤ n)) bad restored) s = .next t ∧
      (t.dev.sbank code).march = (if n + 1 < 2 * words then some (n + 1) else none) ∧
      (bad = false → t = s.on { s.dev with banks := t.dev.banks, ctr := t.dev.ctr } ∧
        (if n + 1 < 2 * words then t.dev.ctr = s.dev.ctr else Counted s.dev t.dev 0x3052 (marchSs code) 1)) ∧
      (bad = true → counterOf t.dev 0x3051 (marchSs code) = counterOf s.dev 0x3051 (marchSs code) + 1 ∧
        Posted s.dev t.dev evMarchFail (marchHub code) (marchUnit code) [(4, issuerIndex code), (4, 32 * word)] ∧
        (restored = true → t.dev.spad = s.dev.spad ∧ t.dev.mem = s.dev.mem) ∧
        (code ≠ codeStandby → ∀ a, a < spadAddr code (32 * word) ∨ spadAddr code (32 * word) + 32 ≤ a →
          mget t.dev.spad a = mget s.dev.spad a)) := by
  dsimp only
  have hex : exec (.marchPreservingWord code word (decide (bankBytes code / 32 ≤ n)) bad restored) s =
      .next (s.on (marchPreservingWordOp code word (decide (bankBytes code / 32 ≤ n)) bad restored s.dev)) := if_pos hword
  have hop : marchPreservingWordOp code word (decide (bankBytes code / 32 ≤ n)) bad restored s.dev =
      marchOn code n (s.dev.sbank code) (wordTested code word bad restored s.dev) := by
    rw [marchPreservingWordOp, hm]
    exact if_neg (by rw [hr, hc, ← hw]; simp)
  obtain ⟨h1, h2, h3⟩ := marchOn_frame code n (s.dev.sbank code) (wordTested code word bad restored s.dev)
  refine ⟨_, hex, ?_⟩
  rw [hop]
  have hkeep : counterOf (marchOn code n (s.dev.sbank code) (wordTested code word bad restored s.dev)) 0x3051 (marchSs code) =
      counterOf (wordTested code word bad restored s.dev) 0x3051 (marchSs code) := by
    split at h3
    · rw [counterOf, h3, counterOf]
    · have hne : odKey 0x3051 (marchSs code) ≠ odKey 0x3052 (marchSs code) := by
        unfold odKey
        omega
      rw [counterOf, h3, if_neg hne]
      rfl
  generalize marchOn code n (s.dev.sbank code) (wordTested code word bad restored s.dev) = e at h1 h2 h3 hkeep ⊢
  have hlog : e.log = (wordTested code word bad restored s.dev).log := by rw [h1]
  have hspad : e.spad = (wordTested code word bad restored s.dev).spad := by rw [h1]
  have hmem : e.mem = (wordTested code word bad restored s.dev).mem := by rw [h1]
  refine ⟨h2, fun hb => ?_, fun hb => ?_⟩
  · subst hb
    exact ⟨congrArg s.on h1, h3⟩
  · subst hb
    obtain ⟨f1, f2, f3⟩ := marchFault_frame code word s.dev
    obtain ⟨p1, p2, p3⟩ := spoilWord_frame code word (marchFault code word s.dev)
    have fspad : (marchFault code word s.dev).spad = s.dev.spad := by rw [f1]
    have fmem : (marchFault code word s.dev).mem = s.dev.mem := by rw [f1]
    cases restored with
    | true =>
      have hwt : wordTested code word true true s.dev = marchFault code word s.dev := rfl
      rw [hwt] at hkeep hlog hspad hmem
      exact ⟨hkeep.trans f2, hlog.trans f3, fun _ => ⟨hspad.trans fspad, hmem.trans fmem⟩, fun _ a _ => by rw [State.on_dev, hspad, fspad]⟩
    | false =>
      have hwt : wordTested code word true false s.dev = spoilWord code word (marchFault code word s.dev) := rfl
      rw [hwt] at hkeep hlog hspad
      refine ⟨hkeep.trans ?_, hlog.trans (p2.trans f3), fun h => absurd h Bool.false_ne_true, fun hne a ha => ?_⟩
      · rw [counterOf, p1]
        exact f2
      · rw [State.on_dev, hspad, p3 hne a ha, fspad]

/-- Settles O37: each command of a bank by its operation; an atomic's bytes read back as the number it makes. -/
theorem banksServeStarveAndMarch : Obligations.BanksServeStarveAndMarch :=
  ⟨fun _ _ => ⟨fun _ hp ha hok hon => bank_takes hp ha hok hon,
    fun _ hp hs hb => ⟨fun hna => bank_serves hs hb hp hna, fun ha => bank_atomic hs hb ha⟩, fun h => bank_clears h⟩,
   fun _ _ _ _ _ hr hk hs hw => request_starves hr hk hs hw,
   fun _ _ _ _ bad restored hword hm hr hc hw => march_goes_on bad restored hword hm hr hc hw⟩

end Sys2Proof.Machine

/-!
PROOFS for the cache slices and the stacks behind them (R293 to R299): hits, waits and bypasses, fills, scrubs and remappings.
-/
namespace Sys2Proof.Machine

open Sys2Proof

theorem exec_cacheAccess (s : State) (slice line off len : Nat) (op : MemOp) (symbols : Nat) (tile : Option Nat) :
    exec (.cacheAccess slice line off len op symbols tile) s = execCacheAccess slice line off len op symbols tile s := rfl

theorem exec_lineFill (s : State) (hub k line symbols : Nat) : exec (.lineFill hub k line symbols) s = execLineFill hub k line symbols s := rfl

theorem exec_patrolScrub (s : State) (slice line symbols : Nat) : exec (.patrolScrub slice line symbols) s = execPatrolScrub slice line symbols s := rfl

theorem exec_granuleRemap (s : State) (stack g : Nat) : exec (.granuleRemap stack g) s = .next (s.on (granuleRemapOp s.variant stack g s.dev)) := rfl

/-! ### The ways of a line -/

theorem wayKey_inj {slice line w x : Nat} (h : wayKey slice line w = wayKey slice line x) : w = x := by
  unfold wayKey at h
  omega

/-- Whether a way holds a line. -/
def holdsLine (m : Mem) (slice line w : Nat) : Bool := (tfind m.lines (wayKey slice line w)).any fun l => l.line == line

theorem holdsLine_of_find {m : Mem} {slice line w : Nat} {l : Line} (h : tfind m.lines (wayKey slice line w) = some l) :
    holdsLine m slice line w = (l.line == line) := by rw [holdsLine, h, Option.any_some]

theorem wayOf_eq_find (m : Mem) (slice line : Nat) : wayOf m slice line = (List.range 16).find? (holdsLine m slice line) := by
  unfold wayOf
  congr 1
  funext w
  unfold holdsLine
  cases tfind m.lines (wayKey slice line w) <;> rfl

theorem wayOf_some_iff {m : Mem} {slice line w : Nat} : wayOf m slice line = some w ↔
    w < 16 ∧ holdsLine m slice line w = true ∧ ∀ x < w, holdsLine m slice line x = false := by
  rw [wayOf_eq_find, List.find?_range_eq_some, List.mem_range]
  simp only [Bool.not_eq_true']
  exact ⟨fun ⟨h1, h2, h3⟩ => ⟨h2, h1, h3⟩, fun ⟨h1, h2, h3⟩ => ⟨h2, h1, h3⟩⟩

theorem wayOf_none_iff {m : Mem} {slice line : Nat} : wayOf m slice line = none ↔ ∀ w < 16, holdsLine m slice line w = false := by
  rw [wayOf_eq_find, List.find?_eq_none]
  simp [List.mem_range]

/-- A way found holds the line. -/
theorem wayOf_line {m : Mem} {slice line w : Nat} {l : Line} (hw : wayOf m slice line = some w)
    (hl : tfind m.lines (wayKey slice line w) = some l) : l.line = line := by
  obtain ⟨-, h, -⟩ := wayOf_some_iff.mp hw
  rw [holdsLine_of_find hl] at h
  exact eq_of_beq h

theorem wayOf_held {m : Mem} {slice line w : Nat} (hw : wayOf m slice line = some w) : ∃ l, tfind m.lines (wayKey slice line w) = some l := by
  obtain ⟨-, h, -⟩ := wayOf_some_iff.mp hw
  unfold holdsLine at h
  cases hl : tfind m.lines (wayKey slice line w) with
  | none => rw [hl] at h; cases h
  | some l => exact ⟨l, rfl⟩

/-- Only the lines and their keys tell the way. -/
theorem wayOf_congr {m m' : Mem} {slice line : Nat} (h : ∀ w, holdsLine m' slice line w = holdsLine m slice line w) :
    wayOf m' slice line = wayOf m slice line := by
  rw [wayOf_eq_find, wayOf_eq_find, funext h]

theorem wayOf_of_lines {m m' : Mem} (h : m'.lines = m.lines) (slice line : Nat) : wayOf m' slice line = wayOf m slice line :=
  wayOf_congr fun w => by rw [holdsLine, h, holdsLine]

/-- A way rewritten with the line that it holds is still the one found. -/
theorem wayOf_rewrite {m m' : Mem} {slice line w : Nat} {l : Line} (hw : wayOf m slice line = some w)
    (hm : m'.lines = tset m.lines (wayKey slice line w) l) (hl : l.line = line) : wayOf m' slice line = some w := by
  rw [← hw]
  refine wayOf_congr fun x => ?_
  by_cases hx : x = w
  · have hf : tfind m'.lines (wayKey slice line x) = some l := by rw [hm, hx, tfind_tset_same]
    rw [hx, (wayOf_some_iff.mp hw).2.1, ← hx, holdsLine_of_find hf, hl, beq_self_eq_true]
  · rw [holdsLine, hm, tfind_tset_other _ _ (fun h => hx (wayKey_inj h)), holdsLine]

/-- A line put into a free way is found. -/
theorem wayOf_install {m m' : Mem} {slice line w : Nat} {l : Line} (hno : wayOf m slice line = none) (hw : w < 16)
    (hm : m'.lines = tset m.lines (wayKey slice line w) l) (hl : l.line = line) : wayOf m' slice line = some w := by
  have hnone := wayOf_none_iff.mp hno
  have hf : tfind m'.lines (wayKey slice line w) = some l := by rw [hm, tfind_tset_same]
  refine wayOf_some_iff.mpr ⟨hw, ?_, fun x hx => ?_⟩
  · rw [holdsLine_of_find hf, hl, beq_self_eq_true]
  · have hne : wayKey slice line x ≠ wayKey slice line w := fun h => by
      have := wayKey_inj h
      omega
    have h := hnone x (by omega)
    rw [holdsLine] at h
    rw [holdsLine, hm, tfind_tset_other _ _ hne, h]

/-- With fewer than 16 ways of its set taken, a free way is chosen, and nothing changes for it. -/
theorem chooseVictim_free {m : Mem} {slice line : Nat} (h : (waysOf m slice line).length < 16) :
    ∃ w, chooseVictim m slice line = (some w, m) ∧ w < 16 ∧ tfind m.lines (wayKey slice line w) = none := by
  have hfree : ∃ w, w < 16 ∧ tfind m.lines (wayKey slice line w) = none := by
    by_contra hall
    have hfull : waysOf m slice line =
        (List.range 16).filterMap fun w => (tfind m.lines (wayKey slice line w)).map fun l => (w, l) := rfl
    have hlen : (waysOf m slice line).length = 16 := by
      rw [hfull, List.length_filterMap_eq_countP, List.countP_eq_length.mpr, List.length_range]
      intro w hw
      cases hf : tfind m.lines (wayKey slice line w) with
      | none => exact absurd ⟨w, List.mem_range.mp hw, hf⟩ hall
      | some l => rfl
    omega
  have hiff (w : Nat) : (waysOf m slice line).all (fun e => e.1 != w) = true → w < 16 → tfind m.lines (wayKey slice line w) = none := by
    intro ha hw
    by_contra hne
    obtain ⟨l, hl⟩ := Option.ne_none_iff_exists'.mp hne
    have hmem : (w, l) ∈ waysOf m slice line := List.mem_filterMap.mpr ⟨w, List.mem_range.mpr hw, by rw [hl]; rfl⟩
    simpa using List.all_eq_true.mp ha _ hmem
  unfold chooseVictim
  dsimp only
  split
  · next w hw =>
    have hw16 := List.mem_range.mp (List.mem_of_find?_eq_some hw)
    have hall : (waysOf m slice line).all (fun e => e.1 != w) = true := by simpa using List.find?_some hw
    exact ⟨w, rfl, hw16, hiff w hall hw16⟩
  · next hno =>
    obtain ⟨w, hw, hf⟩ := hfree
    have hnot := List.find?_eq_none.mp hno w (List.mem_range.mpr hw)
    refine absurd (List.all_eq_true.mpr fun e he => ?_) hnot
    obtain ⟨x, -, hx⟩ := List.mem_filterMap.mp he
    obtain ⟨l, hl, rfl⟩ := Option.map_eq_some_iff.mp hx
    refine bne_iff_ne.mpr fun (heq : x = w) => ?_
    rw [heq, hf] at hl
    cases hl

/-! ### A hit, and what waits -/

/-- What an access does of a line that its slice holds (R295, R299). -/
theorem accessHit_held {d : Dev} {slice line w : Nat} {l : Line} (hw : wayOf d.mem slice line = some w)
    (hl : tfind d.mem.lines (wayKey slice line w) = some l) (fresh : Bool) (off len : Nat) (op : MemOp) :
    accessHit fresh slice line off len op d =
      ((accessLine (if fresh then l.rr else 0) l off len op).1, (accessLine (if fresh then l.rr else 0) l off len op).2.1,
        { d with mem := { d.mem with lines := tset d.mem.lines (wayKey slice line w) (accessLine (if fresh then l.rr else 0) l off len op).2.2 } }) := by
  unfold accessHit
  rw [hw]
  dsimp only
  rw [hl]
  cases fresh <;> rfl

theorem accessLine_line (rr : Nat) (l : Line) (off len : Nat) (op : MemOp) : (accessLine rr l off len op).2.2.line = l.line := by
  unfold accessLine
  dsimp only
  split
  · rfl
  split
  · rfl
  split <;> rfl

theorem accessLine_sound {l : Line} (h : l.poison = false) (rr off len : Nat) (op : MemOp) :
    (accessLine rr l off len op).2.1 = false ∧ (accessLine rr l off len op).2.2.poison = false := by
  unfold accessLine
  dsimp only
  split
  · exact ⟨rfl, rfl⟩
  split
  · next hp => rw [h] at hp; cases hp
  split
  · exact ⟨rfl, h⟩
  · exact ⟨rfl, h⟩

/-- A read of a line that is not poisoned gives its bytes and leaves them. -/
theorem accessLine_read {l : Line} (h : l.poison = false) (rr off len : Nat) :
    (accessLine rr l off len .read).1 = slicePart l.data off len ∧ (accessLine rr l off len .read).2.1 = false := by
  refine ⟨?_, (accessLine_sound h rr off len .read).1⟩
  unfold accessLine
  dsimp only
  rw [if_neg (show ¬fullLine .read off = true from Bool.false_ne_true), if_neg (by rw [h]; decide)]
  rfl

theorem slicePart_splice {data : Bytes} {off : Nat} {b : Bytes} (h : off + b.length ≤ data.length) : slicePart (splice data off b) off b.length = b := by
  have hlen : (data.take off).length = off := by rw [List.length_take]; omega
  have hsp : splice data off b = data.take off ++ (b ++ data.drop (off + b.length)) := by rw [splice, List.append_assoc]
  rw [slicePart, hsp, List.drop_append_of_le_length (by rw [hlen]), List.drop_eq_nil_of_le (by rw [hlen]), List.nil_append, List.take_left]

/-- The bytes written are those that the line holds there (R293). -/
theorem slicePart_written {l : Line} (h : l.poison = false) {b : Bytes} {off : Nat} (hdata : l.data.length = 64) (hb : off + b.length ≤ 64) (rr len : Nat) :
    slicePart (accessLine rr l off len (.write b)).2.2.data off b.length = b := by
  unfold accessLine
  dsimp only
  split
  · next hf =>
    have hoff : off = 0 := by
      unfold fullLine at hf
      exact eq_of_beq (Bool.and_eq_true_iff.mp hf).1
    subst hoff
    show (b.drop 0).take b.length = b
    rw [List.drop_zero, List.take_length]
  split
  · next hp => rw [h] at hp; cases hp
  · exact slicePart_splice (by rw [hdata]; exact hb)

/-- An answer without poison. -/
theorem respond_sound (slice line : Nat) (op : MemOp) (tile : Option Nat) (st : BitVec 8) (b : Bytes) (d : Dev) :
    respond slice line op tile st b false d = d.emit (.response slice line (answerBytes op b) false) := rfl

/-- An answer with poison that no tile waits for. -/
theorem respond_alone (slice line : Nat) (op : MemOp) (st : BitVec 8) (b : Bytes) (poison : Bool) (d : Dev) :
    respond slice line op none st b poison d = d.emit (.response slice line (if poison then [] else answerBytes op b) poison) := by
  cases poison <;> rfl

theorem serveFirst_none {d : Dev} {slice line : Nat} (h : waitersOf d slice line = []) (policy : Nat) : serveFirst slice line policy d = d := by
  unfold serveFirst
  rw [h]

/-- The block after a hit: counted, its line rewritten, answered. -/
def afterHit (slice line w : Nat) (r : Bytes × Bool × Line) (op : MemOp) (d : Dev) : Dev :=
  ({ d.count 0x3001 (ssHub (slice / 4)) 1 with mem := { d.mem with lines := tset d.mem.lines (wayKey slice line w) r.2.2 } }).emit
    (.response slice line (answerBytes op r.1) false)

theorem cacheAccessOp_of_hit {v : Variant} {d : Dev} {slice line off len w : Nat} {l : Line} {op : MemOp} (hok : accessOk off len op = true)
    (hg : sliceGone v d slice = false) (hr : domRuns d (domSlice slice) = true) (hq : waitersOf d slice line = [])
    (hw : wayOf d.mem slice line = some w) (hl : tfind d.mem.lines (wayKey slice line w) = some l) (hp : l.poison = false)
    (symbols : Nat) (tile : Option Nat) :
    cacheAccessOp v slice line off len op symbols tile d = afterHit slice line w (hitLine l off len op) op d := by
  have hhit : (wayOf d.mem slice line).isSome = true := by rw [hw]; rfl
  unfold cacheAccessOp
  dsimp only
  rw [if_neg (by rw [hok]; decide), if_neg (by rw [hg]; decide), if_neg (by rw [hr]; decide), if_pos (by rw [hq, hhit]; rfl),
    if_pos (by rw [hhit]; rfl), accessNow, if_neg (by rw [hg]; decide), serveFirst_none hq, accessAlone, if_pos hhit,
    accessHit_held (d := d.count 0x3001 (ssHub (hubOfSlice slice)) 1) hw hl]
  dsimp only
  rw [if_neg Bool.false_ne_true, (accessLine_sound hp 0 off len op).1, respond_sound]
  rfl

theorem afterHit_frame (slice line w : Nat) (r : Bytes × Bool × Line) (op : MemOp) (d : Dev) : afterHit slice line w r op d =
    { d with mem := { d.mem with lines := tset d.mem.lines (wayKey slice line w) r.2.2 }, ctr := (afterHit slice line w r op d).ctr,
             out := d.out ++ [.response slice line (answerBytes op r.1) false] } ∧
      Counted d (afterHit slice line w r op d) 0x3001 (ssHub (slice / 4)) 1 :=
  ⟨rfl, d.counted_count 0x3001 (ssHub (slice / 4)) 1⟩

section
variable {s : State} {slice line off len : Nat} {op : MemOp} (hon : lineOnSlice slice line = true)
include hon

theorem exec_cacheAccess_on (symbols : Nat) (tile : Option Nat) : exec (.cacheAccess slice line off len op symbols tile) s =
    .next (s.on (cacheAccessOp s.variant slice line off len op symbols tile s.dev)) := by
  rw [exec_cacheAccess, execCacheAccess]
  exact if_pos hon

variable (hok : accessOk off len op = true)
include hok

theorem access_gone (symbols : Nat) (hg : sliceGone s.variant s.dev slice = true) : ∃ t, exec (.cacheAccess slice line off len op symbols none) s = .next t ∧
    t = s.on { s.dev with out := s.dev.out ++ [.response slice line [] true], ctr := t.dev.ctr } ∧
    Counted s.dev t.dev 0x20B8 (ssHub (slice / 4)) 1 := by
  have hop : cacheAccessOp s.variant slice line off len op symbols none s.dev =
      (s.dev.count 0x20B8 (ssHub (hubOfSlice slice)) 1).emit (.response slice line [] true) := by
    unfold cacheAccessOp
    dsimp only
    rw [if_neg (by rw [hok]; decide), if_pos hg, respond_alone, if_pos rfl]
  refine ⟨_, exec_cacheAccess_on hon symbols none, ?_⟩
  rw [hop]
  exact ⟨rfl, s.dev.counted_count 0x20B8 (ssHub (slice / 4)) 1⟩

variable (hg : sliceGone s.variant s.dev slice = false) (hr : domRuns s.dev (domSlice slice) = true)
include hg hr

theorem access_hits {w : Nat} {l : Line} (symbols : Nat) (tile : Option Nat) (hq : waitersOf s.dev slice line = [])
    (hw : wayOf s.dev.mem slice line = some w) (hl : tfind s.dev.mem.lines (wayKey slice line w) = some l) (hp : l.poison = false) :
    let r := hitLine l off len op
    ∃ t, exec (.cacheAccess slice line off len op symbols tile) s = .next t ∧
      t = s.on { s.dev with mem := { s.dev.mem with lines := t.dev.mem.lines }, ctr := t.dev.ctr, out := t.dev.out } ∧
      t.dev.out = s.dev.out ++ [.response slice line (answerBytes op r.1) false] ∧ Counted s.dev t.dev 0x3001 (ssHub (slice / 4)) 1 ∧
      tfind t.dev.mem.lines (wayKey slice line w) = some r.2.2 ∧ wayOf t.dev.mem slice line = some w ∧
      (∀ k, k ≠ wayKey slice line w → tfind t.dev.mem.lines k = tfind s.dev.mem.lines k) ∧
      (∀ b, op = .write b → l.data.length = 64 →
        ∃ u, exec (.cacheAccess slice line off b.length .read symbols tile) t = .next u ∧
          u.dev.out = t.dev.out ++ [.response slice line b false]) := by
  intro r
  obtain ⟨h1, h2⟩ := afterHit_frame slice line w r op s.dev
  refine ⟨_, exec_cacheAccess_on hon symbols tile, ?_⟩
  rw [cacheAccessOp_of_hit hok hg hr hq hw hl hp]
  simp only [State.on_dev]
  change _ = _ at h1
  rw [show afterHit slice line w (hitLine l off len op) op s.dev = afterHit slice line w r op s.dev from rfl]
  generalize afterHit slice line w r op s.dev = e at h1 h2 ⊢
  have hmem : e.mem = { s.dev.mem with lines := tset s.dev.mem.lines (wayKey slice line w) r.2.2 } := by rw [h1]
  have hlines : e.mem.lines = tset s.dev.mem.lines (wayKey slice line w) r.2.2 := by rw [hmem]
  have hout : e.out = s.dev.out ++ [.response slice line (answerBytes op r.1) false] := by rw [h1]
  have hfind : tfind e.mem.lines (wayKey slice line w) = some r.2.2 := by rw [hlines, tfind_tset_same]
  have hway : wayOf e.mem slice line = some w :=
    wayOf_rewrite hw hlines ((accessLine_line 0 l off len op).trans (wayOf_line hw hl))
  refine ⟨?_, hout, h2, hfind, hway, fun k hk => by rw [hlines, tfind_tset_other _ _ hk], fun b hb hdata => ?_⟩
  · rw [hlines, hout]
    exact congrArg s.on h1
  · subst hb
    have hbound : off + b.length ≤ 64 := by
      unfold accessOk at hok
      simp only [Bool.and_eq_true, decide_eq_true_eq] at hok
      exact hok.1.2
    have hok' : accessOk off b.length .read = true := hok
    have hg' : sliceGone s.variant e slice = false := by
      rw [h1]
      exact hg
    have hr' : domRuns e (domSlice slice) = true := by
      rw [h1]
      exact hr
    have hq' : waitersOf e slice line = [] := by
      rw [waitersOf, hmem]
      exact hq
    have hsound := accessLine_sound hp 0 off len (.write b)
    have hread := accessLine_read hsound.2 0 off b.length
    have hwrote := slicePart_written hp hdata hbound 0 len
    refine ⟨_, exec_cacheAccess_on (s := s.on e) hon symbols tile, ?_⟩
    simp only [State.on_dev, State.on_variant]
    rw [cacheAccessOp_of_hit hok' hg' hr' hq' hway hfind hsound.2]
    refine (congrArg Dev.out (afterHit_frame ..).1 : _ = e.out ++ _).trans ?_
    have hans : answerBytes .read (hitLine r.2.2 off b.length .read).1 = b := hread.1.trans hwrote
    rw [hans]

theorem access_waits (symbols : Nat) (tile : Option Nat) (h : waitersOf s.dev slice line ≠ [] ∨
      wayOf s.dev.mem slice line = none ∧ fullLine op off = false ∧ (linePolicy s.dev slice line ≠ 2 ∨ isRead op = false)) :
    ∃ t, exec (.cacheAccess slice line off len op symbols tile) s = .next t ∧
      t = s.on { s.dev with mem := { s.dev.mem with waiting := s.dev.mem.waiting ++
        [{ slice := slice, line := line, off := off, len := len, op := op, tile := tile }] } } := by
  have hcond : ¬((waitersOf s.dev slice line).isEmpty &&
      ((wayOf s.dev.mem slice line).isSome || fullLine op off || (linePolicy s.dev slice line = 2 && isRead op))) = true := by
    rcases h with h | ⟨h1, h2, h3⟩
    · simp [h]
    · rw [h1, h2]
      rcases h3 with h3 | h3
      · simp [h3]
      · simp [h3]
  refine ⟨_, exec_cacheAccess_on hon symbols tile, ?_⟩
  refine congrArg s.on ?_
  unfold cacheAccessOp
  dsimp only
  rw [if_neg (by rw [hok]; decide), if_neg (by rw [hg]; decide), if_neg (by rw [hr]; decide)]
  exact if_neg hcond

end

/-! ### Errors of a stack (R298) -/

/-- What an error of a granule that is to be remapped changes: a copying begun, at its first line, and an event. -/
structure RemapAsked (stack g : Nat) (d e : Dev) : Prop where
  frame : e = { d with mem := { d.mem with copying := e.mem.copying }, log := e.log }
  way : ∀ ev ∈ d.log.way, ev ∈ e.log.way
  copying : e.mem.copying = d.mem.copying ∨ (d.mem.copying.find? (fun c => decide (c.stack = stack) && decide (c.granule = g)) = none ∧
    ∃ n, e.mem.copying = d.mem.copying ++ [{ stack := stack, granule := g, spare := n, done := 0 }])

theorem remapAsked_startRemap (stack g : Nat) (d : Dev) : RemapAsked stack g d (startRemap stack g d) := by
  unfold startRemap
  split
  · exact ⟨rfl, fun _ h => h, Or.inl rfl⟩
  · next hno =>
    have hnone : d.mem.copying.find? (fun c => decide (c.stack = stack) && decide (c.granule = g)) = none := by
      refine List.find?_eq_none.mpr fun c hc hh => hno ?_
      exact List.any_eq_true.mpr ⟨c, hc, hh⟩
    dsimp only
    split
    · exact ⟨rfl, fun _ h => h, Or.inl rfl⟩
    · split
      · exact ⟨rfl, fun _ h => List.mem_append_left _ h, Or.inr ⟨hnone, _, rfl⟩⟩
      · exact ⟨rfl, fun _ h => h, Or.inr ⟨hnone, _, rfl⟩⟩

/-- A copying that has moved no line yet leaves every line where it was. -/
theorem physLine_of_remapAsked {stack g : Nat} {d e : Dev} (h : RemapAsked stack g d e) (st line : Nat) : physLine e.mem st line = physLine d.mem st line := by
  have hremap : e.mem.remap = d.mem.remap := by rw [h.frame]
  unfold physLine
  dsimp only
  rw [hremap]
  rcases h.copying with hc | ⟨hno, n, hc⟩
  · rw [hc]
  · rw [hc, List.find?_append]
    cases hf : d.mem.copying.find? (fun c => decide (c.stack = st) && decide (c.granule = line / 64)) with
    | some c => rfl
    | none =>
      rw [Option.none_or, List.find?_singleton]
      by_cases hx : (decide (stack = st) && decide (g = line / 64)) = true
      · rw [if_pos hx]
        exact if_neg (Nat.not_lt_zero _)
      · rw [if_neg hx]

/-- What an error of a line that the stack's code corrects or finds changes. -/
structure LineErred (stack line symbols : Nat) (d e : Dev) : Prop where
  frame : e = { d with mem := { d.mem with copying := e.mem.copying, corr := e.mem.corr, bad := e.mem.bad }, ctr := e.ctr, log := e.log }
  way : ∀ ev ∈ d.log.way, ev ∈ e.log.way
  phys : ∀ st l, physLine e.mem st l = physLine d.mem st l
  one : symbols = 1 → Counted d e 0x3003 (ssHub (stack / 2)) 1 ∧ e.mem.bad = d.mem.bad
  more : 2 ≤ symbols → Counted d e 0x3004 (ssHub (stack / 2)) 1 ∧ e.mem.isBad stack line = true ∧ ∃ ev ∈ e.log.way, ev.code = evMemUe

theorem physLine_congr {m m' : Mem} (h : m'.remap = m.remap) (h' : m'.copying = m.copying) (st line : Nat) : physLine m' st line = physLine m st line := by
  unfold physLine
  dsimp only
  rw [h, h']

theorem lineErred_eccOutcome (stack line symbols : Nat) (d : Dev) : LineErred stack line symbols d (eccOutcome stack line symbols d) := by
  unfold eccOutcome
  by_cases h0 : symbols = 0
  · rw [if_pos h0]
    exact ⟨rfl, fun _ h => h, fun _ _ => rfl, fun h => by omega, fun h => by omega⟩
  rw [if_neg h0]
  by_cases h1 : symbols = 1
  · rw [if_pos h1]
    unfold eccCorrected
    dsimp only
    generalize hc : ({ d with mem := { d.mem with corr := _ } } : Dev).count 0x3003 (ssHub (stack / 2)) 1 = c
    have hfr : c = { d with mem := { d.mem with corr := c.mem.corr }, ctr := c.ctr } := by rw [← hc]; rfl
    have hcnt : Counted d c 0x3003 (ssHub (stack / 2)) 1 := by rw [← hc]; exact d.counted_count 0x3003 (ssHub (stack / 2)) 1
    have hbad : c.mem.bad = d.mem.bad := by rw [hfr]
    have hphys : ∀ st l, physLine c.mem st l = physLine d.mem st l := physLine_congr (by rw [hfr]) (by rw [hfr])
    have hway : c.log = d.log := by rw [hfr]
    split
    · have hs := remapAsked_startRemap stack (line / 64) c
      generalize startRemap stack (line / 64) c = e at hs ⊢
      have hf := hs.frame
      refine ⟨by rw [hf, hfr], fun ev hev => hs.way ev (hway ▸ hev), fun st l => (physLine_of_remapAsked hs st l).trans (hphys st l), fun _ => ⟨?_, ?_⟩,
        fun h => by omega⟩
      · intro k
        rw [hf]
        exact hcnt k
      · rw [hf]
        exact hbad
    · exact ⟨by rw [hfr], fun ev hev => hway ▸ hev, hphys, fun _ => ⟨hcnt, hbad⟩, fun h => by omega⟩
  · rw [if_neg h1]
    unfold eccUncorrectable
    dsimp only
    generalize hc : ((d.count 0x3004 (ssHub (stack / 2)) 1).post evMemUe (stack / 2) (codeOf (.stack (stack / 2) (stack % 2))) _) = c
    have hfr : c = { d with ctr := c.ctr, log := c.log } := by rw [← hc]; rfl
    have hcnt : Counted d c 0x3004 (ssHub (stack / 2)) 1 := by rw [← hc]; exact d.counted_count 0x3004 (ssHub (stack / 2)) 1
    have hmem : c.mem = d.mem := by rw [hfr]
    have hway : (∀ ev ∈ d.log.way, ev ∈ c.log.way) ∧ ∃ ev ∈ c.log.way, ev.code = evMemUe := by
      rw [← hc]
      exact ⟨fun ev hev => List.mem_append_left _ hev, _, List.mem_append_right _ (List.mem_singleton.mpr rfl), rfl⟩
    have hbad : (c.mem.setBad stack line true).isBad stack line = true := by
      simp [Mem.setBad, Mem.isBad]
    have hs := remapAsked_startRemap stack (line / 64) { c with mem := c.mem.setBad stack line true }
    generalize startRemap stack (line / 64) { c with mem := c.mem.setBad stack line true } = e at hs ⊢
    have hf := hs.frame
    have hctr : e.ctr = c.ctr := by rw [hf]
    obtain ⟨ev, hev, hcode⟩ := hway.2
    refine ⟨?_, fun ev hev => hs.way ev (hway.1 ev hev), fun st l => ?_, fun h => absurd h h1, fun _ => ⟨fun k => ?_, ?_, ev, hs.way ev hev, hcode⟩⟩
    · rw [hf, hfr]
      rfl
    · exact (physLine_of_remapAsked hs st l).trans (physLine_congr (congrArg Mem.remap hmem) (congrArg Mem.copying hmem) st l)
    · rw [hctr]
      exact hcnt k
    · rw [hf]
      exact hbad

theorem LineErred.lines {stack line symbols : Nat} {d e : Dev} (h : LineErred stack line symbols d e) : e.mem.lines = d.mem.lines := by rw [h.frame]

theorem LineErred.stack {stack line symbols : Nat} {d e : Dev} (h : LineErred stack line symbols d e) (st l : Nat) :
    readStack e.mem st l = readStack d.mem st l := by
  have hm : e.mem.stack = d.mem.stack := by rw [h.frame]
  rw [readStack, readStack, h.phys, hm]

theorem isBad_eccOutcome (stack line symbols : Nat) (d : Dev) :
    (eccOutcome stack line symbols d).mem.isBad stack line = (d.mem.isBad stack line || decide (2 ≤ symbols)) := by
  have h := lineErred_eccOutcome stack line symbols d
  by_cases h2 : 2 ≤ symbols
  · rw [(h.more h2).2.1, decide_eq_true h2, Bool.or_true]
  · rw [decide_eq_false h2, Bool.or_false, Mem.isBad, Mem.isBad]
    by_cases h1 : symbols = 1
    · rw [(h.one h1).2]
    · rw [eccOutcome, if_pos (by omega)]

theorem access_bypasses {s : State} {slice line off len symbols : Nat} (hon : lineOnSlice slice line = true) (hok : accessOk off len .read = true)
    (hg : sliceGone s.variant s.dev slice = false) (hr : domRuns s.dev (domSlice slice) = true) (hq : waitersOf s.dev slice line = [])
    (hw : wayOf s.dev.mem slice line = none) (hpol : linePolicy s.dev slice line = 2) :
    let bad := s.dev.mem.isBad (slice / 2) line || decide (2 ≤ symbols)
    ∃ t, exec (.cacheAccess slice line off len .read symbols none) s = .next t ∧ t.dev.mem.lines = s.dev.mem.lines ∧
      t.dev.mem.stack = s.dev.mem.stack ∧ t.dev.out.getLast? = some
        (.response slice line (if bad then [] else slicePart (readStack s.dev.mem (slice / 2) line) off len) bad) := by
  intro bad
  have he := lineErred_eccOutcome (slice / 2) line symbols s.dev
  have hbad : (eccOutcome (slice / 2) line symbols s.dev).mem.isBad (slice / 2) line = bad := isBad_eccOutcome ..
  have hop : cacheAccessOp s.variant slice line off len .read symbols none s.dev =
      respond slice line .read none stMemUe (accessNow s.variant slice line off len .read 2 (eccOutcome (slice / 2) line symbols s.dev)).1
        (accessNow s.variant slice line off len .read 2 (eccOutcome (slice / 2) line symbols s.dev)).2.1
        (accessNow s.variant slice line off len .read 2 (eccOutcome (slice / 2) line symbols s.dev)).2.2 := by
    unfold cacheAccessOp
    dsimp only
    rw [hpol, if_neg (by rw [hok]; decide), if_neg (by rw [hg]; decide), if_neg (by rw [hr]; decide), if_pos (by rw [hq]; simp [isRead]),
      if_neg (by rw [hw]; exact Bool.false_ne_true)]
  refine ⟨_, exec_cacheAccess_on hon symbols none, ?_⟩
  simp only [State.on_dev]
  rw [hop]
  generalize eccOutcome (slice / 2) line symbols s.dev = e at he hbad ⊢
  have hg' : sliceGone s.variant e slice = false := by
    rw [he.frame]
    exact hg
  have hq' : waitersOf e slice line = [] := by
    rw [he.frame]
    exact hq
  have hw' : wayOf e.mem slice line = none := (wayOf_of_lines he.lines slice line).trans hw
  have hnow : accessNow s.variant slice line off len .read 2 e =
      (slicePart (readStack e.mem (slice / 2) line) off len, e.mem.isBad (slice / 2) line, e.count 0x3002 (ssHub (hubOfSlice slice)) 1) := by
    rw [accessNow, if_neg (by rw [hg']; decide), serveFirst_none hq', accessAlone, hw']
    rfl
  rw [hnow, respond_alone, hbad, he.stack]
  refine ⟨he.lines, by rw [he.frame]; rfl, ?_⟩
  show (_ ++ [_]).getLast? = _
  rw [List.getLast?_concat]
  rfl

/-- Settles O35: an access by the branch that it takes; a write's bytes are read back through the line that it leaves. -/
theorem slicesServeAccesses : Obligations.SlicesServeAccesses :=
  fun s slice line off len symbols op tile hon hok =>
    ⟨fun hg ht => by
       subst ht
       exact access_gone hon hok symbols hg,
     fun hg hr => ⟨fun _ _ hq hw hl hp => access_hits hon hok hg hr symbols tile hq hw hl hp, fun h => access_waits hon hok hg hr symbols tile h,
       fun hq hw hop hpol ht => by
         subst hop
         subst ht
         exact access_bypasses hon hok hg hr hq hw hpol⟩⟩

end Sys2Proof.Machine

/-!
PROOFS for the fills, scrubs and remappings of the stacks' lines (R295, R298, R299).
-/
namespace Sys2Proof.Machine

open Sys2Proof

/-! ### A line installed in a free way -/

/-- A line brought into a free way of its set (R294). -/
structure Installed (slice line : Nat) (data : Bytes) (dirty poison : Bool) (d e : Dev) : Prop where
  frame : e = { d with mem := { d.mem with lines := e.mem.lines }, ctr := e.ctr }
  held : ∃ w l, wayOf e.mem slice line = some w ∧ tfind e.mem.lines (wayKey slice line w) = some l ∧
    l.line = line ∧ l.dirty = dirty ∧ l.poison = poison ∧ l.data = data
  ctr : ∀ idx sub, idx ≠ 0x3006 → idx ≠ 0x3007 → sub < 256 → slice < 16 → counterOf e idx sub = counterOf d idx sub

theorem installed_installLine {d : Dev} {slice line : Nat} (hno : wayOf d.mem slice line = none) (hfree : (waysOf d.mem slice line).length < 16)
    (policy : Nat) (data : Bytes) (dirty poison : Bool) : Installed slice line data dirty poison d (installLine slice line policy data dirty poison d) := by
  unfold installLine
  dsimp only
  generalize hfull : (decide (policy = 3) && decide (((waysOf d.mem slice line).filter fun e => e.2.pinned).length ≥ 4)) = full
  generalize hd0 : (if full = true then d.count 0x3006 (ssHub (hubOfSlice slice)) 1 else d) = d0
  have hfr : d0 = { d with ctr := d0.ctr } := by
    rw [← hd0]
    split <;> rfl
  have hmem : d0.mem = d.mem := by rw [hfr]
  have hctr : ∀ idx sub, idx ≠ 0x3006 → idx ≠ 0x3007 → sub < 256 → slice < 16 → counterOf d0 idx sub = counterOf d idx sub := by
    intro idx sub hi _ hs hsl
    rw [← hd0]
    split
    · have hss : ssHub (hubOfSlice slice) < 256 := by
        unfold ssHub hubOfSlice
        omega
      have hne : odKey idx sub ≠ odKey 0x3006 (ssHub (hubOfSlice slice)) := fun h =>
        hi ((odKey_div hs).symm.trans ((congrArg (· / 256) h).trans (odKey_div hss)))
      rw [counterOf, d.counted_count 0x3006, if_neg hne]
      rfl
    · rfl
  obtain ⟨w, hch, hw, hnone⟩ := chooseVictim_free hfree
  rw [hmem, hch]
  dsimp only
  rw [hnone]
  dsimp only
  rw [if_neg Bool.false_ne_true]
  exact ⟨by rw [hfr], ⟨w, _, wayOf_install hno hw rfl rfl, tfind_tset_same _ _ _, rfl, rfl, rfl, rfl⟩, hctr⟩

/-- A line filled from its stack: it holds the stack's bytes, and the fill is counted. -/
theorem installed_fillFrom {d : Dev} {slice line : Nat} (hno : wayOf d.mem slice line = none) (hfree : (waysOf d.mem slice line).length < 16)
    (policy : Nat) : Installed slice line (readStack d.mem (slice / 2) line) false (d.mem.isBad (slice / 2) line)
      (d.count 0x3002 (ssHub (hubOfSlice slice)) 1) (fillFrom slice line policy d) :=
  installed_installLine (d := d.count 0x3002 (ssHub (hubOfSlice slice)) 1) hno hfree policy _ false _

/-! ### A fill -/

/-- Nothing waits at a line any longer. -/
def unwaited (slice line : Nat) (d : Dev) : Dev :=
  { d with mem := { d.mem with waiting := d.mem.waiting.filter (fun w => !(w.slice = slice && w.line = line)) } }

/-- An access of a line served: the line rewritten, the answer given. -/
def lineServed (slice line w : Nat) (l : Line) (o : Output) (d : Dev) : Dev :=
  { d with mem := { d.mem with lines := tset d.mem.lines (wayKey slice line w) l }, out := d.out ++ [o] }

theorem lineOnSlice_lt {slice line : Nat} (h : lineOnSlice slice line = true) : slice < 16 := by
  unfold lineOnSlice at h
  simp only [Bool.and_eq_true, decide_eq_true_eq] at h
  exact h.1.1

theorem line_fills {s : State} {hub k line : Nat} {w : Waiting} (hk : k < 4) (hon : lineOnSlice (sliceOf hub k) line = true)
    (hq : waitersOf s.dev (sliceOf hub k) line = [w]) (hop : w.op = .read) (ht : ∀ n, w.tile = some n → (s.dev.tileOf n).isSome = true)
    (hbad : s.dev.mem.isBad (sliceOf hub k / 2) line = false) (hg : sliceGone s.variant s.dev (sliceOf hub k) = false)
    (hr : domRuns s.dev (domSlice (sliceOf hub k)) = true) (hfree : (waysOf s.dev.mem (sliceOf hub k) line).length < 16)
    (hno : wayOf s.dev.mem (sliceOf hub k) line = none) :
    ∃ t, exec (.lineFill hub k line 0) s = .next t ∧
      t = s.on { s.dev with mem := { s.dev.mem with lines := t.dev.mem.lines, waiting := t.dev.mem.waiting }, ctr := t.dev.ctr,
                            out := t.dev.out } ∧
      t.dev.out = s.dev.out ++ [.response (sliceOf hub k) line (slicePart (readStack s.dev.mem (sliceOf hub k / 2) line) w.off w.len) false] ∧
      (∀ y ∈ t.dev.mem.waiting, ¬(y.slice = sliceOf hub k ∧ y.line = line)) ∧ (wayOf t.dev.mem (sliceOf hub k) line).isSome = true ∧
      counterOf t.dev 0x3002 (ssHub (sliceOf hub k / 4)) = counterOf s.dev 0x3002 (ssHub (sliceOf hub k / 4)) + 1 := by
  have hex : exec (.lineFill hub k line 0) s = .next (s.on (lineFillOp s.variant (sliceOf hub k) line 0 s.dev)) := by
    rw [exec_lineFill, execLineFill]
    exact if_pos (by rw [hon, decide_eq_true hk]; rfl)
  refine ⟨_, hex, ?_⟩
  generalize sliceOf hub k = slice at hon hq hbad hg hr hfree hno ⊢
  simp only [State.on_dev]
  have hmine : w.slice = slice ∧ w.line = line := by
    have hw : w ∈ waitersOf s.dev slice line := by rw [hq]; exact List.mem_singleton.mpr rfl
    unfold waitersOf at hw
    simpa using (List.mem_filter.mp hw).2
  have hf := installed_fillFrom hno hfree (linePolicy s.dev slice line)
  rw [hbad] at hf
  have hop' : lineFillOp s.variant slice line 0 s.dev = serveWaiting (unwaited slice line (fillFrom slice line (linePolicy s.dev slice line) s.dev)) (w, 0) := by
    unfold lineFillOp
    dsimp only
    rw [hq, if_neg (by rw [hg, hr]; simp), fillLine, hno, if_neg (by exact Bool.false_ne_true), eccOutcome, if_pos rfl]
    rfl
  rw [hop']
  generalize fillFrom slice line (linePolicy s.dev slice line) s.dev = f at hf ⊢
  obtain ⟨x, l, hway, hl, hline, -, hpoison, hdata⟩ := hf.held
  have hfr := hf.frame
  have htiles : f.tiles = s.dev.tiles := by rw [hfr]; rfl
  have htile : ¬w.tile.elim false (fun t => ((unwaited slice line f).tileOf t).isNone) = true := by
    cases hwt : w.tile with
    | none => exact Bool.false_ne_true
    | some n =>
      have h := ht n hwt
      have hsame : (unwaited slice line f).tileOf n = s.dev.tileOf n := congrArg (fun l : List Tile => l.find? fun x : Tile => decide (x.id = n)) htiles
      rw [Option.elim_some, hsame, Option.isNone_iff_eq_none]
      intro hnone
      rw [hnone] at h
      cases h
  have hserve : serveWaiting (unwaited slice line f) (w, 0) =
      lineServed slice line x (accessLine l.rr l w.off w.len .read).2.2
        (.response slice line (slicePart (readStack s.dev.mem (slice / 2) line) w.off w.len) false) (unwaited slice line f) := by
    have hread := accessLine_read hpoison l.rr w.off w.len
    unfold serveWaiting
    rw [if_neg htile]
    dsimp only
    rw [hmine.1, hmine.2, hop, decide_eq_true (rfl : 0 = 0), accessHit_held (d := unwaited slice line f) hway hl]
    dsimp only
    rw [if_pos rfl, hread.1, hread.2, respond_sound, hdata]
    rfl
  rw [hserve]
  have hss : ssHub (slice / 4) < 256 := by
    have := lineOnSlice_lt hon
    unfold ssHub
    omega
  refine ⟨?_, ?_, fun y hy => ?_, ?_, ?_⟩
  · refine congrArg s.on ?_
    rw [hfr]
    rfl
  · show f.out ++ _ = _
    rw [hfr]
    rfl
  · have h := (List.mem_filter.mp hy).2
    simp only [Bool.not_eq_true', Bool.and_eq_false_iff, decide_eq_false_iff_not] at h
    exact fun hyy => h.elim (fun h => h hyy.1) (fun h => h hyy.2)
  · rw [wayOf_rewrite (m' := (lineServed slice line x _ _ (unwaited slice line f)).mem) hway rfl ((accessLine_line l.rr l w.off w.len .read).trans hline)]
    rfl
  · refine (hf.ctr 0x3002 (ssHub (slice / 4)) (by decide) (by decide) hss (lineOnSlice_lt hon)).trans ?_
    have h := s.dev.counted_count 0x3002 (ssHub (slice / 4)) 1 (odKey 0x3002 (ssHub (slice / 4)))
    rw [if_pos rfl] at h
    exact h

/-! ### A scrub -/

theorem tfind_mapAt {α : Type} (t : Tab α) (k j : Nat) (f : α → α) :
    tfind (t.map fun e => if e.1 = k then (e.1, f e.2) else e) j = if j = k then (tfind t j).map f else tfind t j := by
  induction t with
  | nil => simp [tfind]
  | cons e t ih =>
    rw [List.map_cons]
    by_cases he : e.1 = k
    · rw [if_pos he]
      by_cases hj : e.1 = j
      · rw [tfind, if_pos hj, tfind, if_pos hj, if_pos (by omega)]
        rfl
      · rw [tfind, if_neg hj, ih, tfind, if_neg hj]
    · rw [if_neg he]
      by_cases hj : e.1 = j
      · rw [tfind, if_pos hj, if_neg (by omega), tfind, if_pos hj]
      · rw [tfind, if_neg hj, ih, tfind, if_neg hj]

/-- A line's errors poison it where its slice holds it, or it comes in poisoned. -/
structure LinePoisoned (slice line : Nat) (d e : Dev) : Prop where
  frame : e = { d with mem := e.mem, ctr := e.ctr }
  held : ∀ w, wayOf d.mem slice line = some w → ∃ l, tfind e.mem.lines (wayKey slice line w) = some l ∧ l.poison = true
  ctr : ∀ sub, sub < 256 → slice < 16 → counterOf e 0x3004 sub = counterOf d 0x3004 sub

theorem installLine_frame (slice line policy : Nat) (data : Bytes) (dirty poison : Bool) (d : Dev) :
    installLine slice line policy data dirty poison d = { d with mem := (installLine slice line policy data dirty poison d).mem,
                                                                 ctr := (installLine slice line policy data dirty poison d).ctr } ∧
      ∀ idx sub, idx ≠ 0x3006 → idx ≠ 0x3007 → sub < 256 → slice < 16 →
        counterOf (installLine slice line policy data dirty poison d) idx sub = counterOf d idx sub := by
  have hcount (e : Dev) (idx sub i : Nat) (hi : i ≠ idx) (hs : sub < 256) (hsl : slice < 16) :
      counterOf (e.count idx (ssHub (hubOfSlice slice)) 1) i sub = counterOf e i sub := by
    have hss : ssHub (hubOfSlice slice) < 256 := by
      unfold ssHub hubOfSlice
      omega
    have hne : odKey i sub ≠ odKey idx (ssHub (hubOfSlice slice)) := fun h =>
      hi ((odKey_div hs).symm.trans ((congrArg (· / 256) h).trans (odKey_div hss)))
    rw [counterOf, e.counted_count idx, if_neg hne]
    rfl
  unfold installLine
  dsimp only
  generalize (decide (policy = 3) && decide (((waysOf d.mem slice line).filter fun e => e.2.pinned).length ≥ 4)) = full
  generalize hd0 : (if full = true then d.count 0x3006 (ssHub (hubOfSlice slice)) 1 else d) = d0
  have hfr : d0 = { d with ctr := d0.ctr } := by
    rw [← hd0]
    split <;> rfl
  have hctr : ∀ idx sub, idx ≠ 0x3006 → sub < 256 → slice < 16 → counterOf d0 idx sub = counterOf d idx sub := by
    intro idx sub hi hs hsl
    rw [← hd0]
    split
    · exact hcount d 0x3006 sub idx hi hs hsl
    · rfl
  split
  · exact ⟨by rw [hfr], fun idx sub h1 _ h3 h4 => hctr idx sub h1 h3 h4⟩
  · next w m1 _ =>
    generalize tfind m1.lines (wayKey slice line w) = v
    cases v with
    | none => exact ⟨by rw [if_neg Bool.false_ne_true, hfr], fun idx sub h1 _ h3 h4 => hctr idx sub h1 h3 h4⟩
    | some v =>
      dsimp only
      split
      · exact ⟨by rw [Dev.count, hfr], fun idx sub h1 h2 h3 h4 => (hcount _ 0x3007 sub idx h2 h3 h4).trans (hctr idx sub h1 h3 h4)⟩
      · exact ⟨by rw [hfr], fun idx sub h1 _ h3 h4 => hctr idx sub h1 h3 h4⟩

theorem linePoisoned_poisonLine (slice line : Nat) (d : Dev) : LinePoisoned slice line d (poisonLine slice line d) := by
  unfold poisonLine
  cases hw : wayOf d.mem slice line with
  | some w =>
    obtain ⟨l, hl⟩ := wayOf_held hw
    refine ⟨rfl, fun x hx => ?_, fun _ _ _ => rfl⟩
    obtain rfl : w = x := Option.some.inj (hw.symm.trans hx)
    refine ⟨{ l with poison := true }, ?_, rfl⟩
    refine (tfind_mapAt d.mem.lines (wayKey slice line w) (wayKey slice line w) fun l => { l with poison := true }).trans ?_
    rw [if_pos rfl, hl]
    rfl
  | none =>
    obtain ⟨h1, h2⟩ := installLine_frame slice line (linePolicy d slice line) (readStack d.mem (slice / 2) line) false true d
    exact ⟨h1, fun _ h => absurd (hw.symm.trans h) (by simp), fun sub hs hsl => h2 0x3004 sub (by decide) (by decide) hs hsl⟩

theorem line_scrubbed {s : State} {slice line symbols : Nat} (hon : lineOnSlice slice line = true)
    (hg : sliceGone s.variant s.dev slice = false) (hr : domRuns s.dev (domSlice slice) = true) :
    ∃ t, exec (.patrolScrub slice line symbols) s = .next t ∧ t = s.on { s.dev with mem := t.dev.mem, ctr := t.dev.ctr, log := t.dev.log } ∧
      (symbols = 0 → t = s) ∧
      (symbols = 1 → Counted s.dev t.dev 0x3003 (ssHub (slice / 2 / 2)) 1 ∧ t.dev.mem.lines = s.dev.mem.lines) ∧
      (2 ≤ symbols → (∀ w, wayOf s.dev.mem slice line = some w →
          ∃ l, tfind t.dev.mem.lines (wayKey slice line w) = some l ∧ l.poison = true) ∧
        counterOf t.dev 0x3004 (ssHub (slice / 2 / 2)) = counterOf s.dev 0x3004 (ssHub (slice / 2 / 2)) + 1 ∧
        ∃ e ∈ t.dev.log.way, e.code = evMemUe) := by
  have hex : exec (.patrolScrub slice line symbols) s = .next (s.on (patrolScrubOp s.variant slice line symbols s.dev)) := by
    rw [exec_patrolScrub, execPatrolScrub, if_pos hon]
  have hop : patrolScrubOp s.variant slice line symbols s.dev =
      if 2 ≤ symbols then poisonLine slice line (eccOutcome (slice / 2) line symbols s.dev) else eccOutcome (slice / 2) line symbols s.dev :=
    if_neg (by rw [hg, hr]; decide)
  have he := lineErred_eccOutcome (slice / 2) line symbols s.dev
  refine ⟨_, hex, ?_⟩
  simp only [State.on_dev]
  by_cases h0 : symbols = 0
  · have hsame : patrolScrubOp s.variant slice line symbols s.dev = s.dev := by rw [hop, if_neg (by omega), eccOutcome, if_pos h0]
    rw [hsame]
    exact ⟨rfl, fun _ => rfl, fun h => by omega, fun h => by omega⟩
  rw [hop]
  generalize eccOutcome (slice / 2) line symbols s.dev = e at he ⊢
  have hfr := he.frame
  by_cases h1 : symbols = 1
  · rw [if_neg (by omega)]
    exact ⟨congrArg s.on (by rw [hfr]), fun h => absurd h h0, fun _ => ⟨(he.one h1).1, he.lines⟩, fun h => by omega⟩
  · have h2 : 2 ≤ symbols := by omega
    rw [if_pos h2]
    have hp := linePoisoned_poisonLine slice line e
    generalize poisonLine slice line e = p at hp ⊢
    have hpf := hp.frame
    obtain ⟨hcnt, -, ev, hev, hcode⟩ := he.more h2
    have hlog : p.log = e.log := by rw [hpf]
    refine ⟨congrArg s.on (by rw [hpf, hfr]), fun h => absurd h h0, fun h => absurd h h1, fun _ => ⟨fun w hw => ?_, ?_, ev, ?_, hcode⟩⟩
    · exact hp.held w ((wayOf_of_lines he.lines slice line).trans hw)
    · have hsl := lineOnSlice_lt hon
      have hss : ssHub (slice / 2 / 2) < 256 := by
        unfold ssHub
        omega
      have hc := hcnt (odKey 0x3004 (ssHub (slice / 2 / 2)))
      rw [if_pos rfl] at hc
      exact (hp.ctr _ hss hsl).trans hc
    · rw [hlog]
      exact hev

/-! ### A remapping -/

/-- A line taken through its slice: held as it was, to be written back. -/
structure CopiedThrough (slice line : Nat) (d e : Dev) : Prop where
  frame : e = { d with mem := e.mem, ctr := e.ctr }
  copying : e.mem.copying = d.mem.copying
  held : ∀ w l, wayOf d.mem slice line = some w → tfind d.mem.lines (wayKey slice line w) = some l →
    tfind e.mem.lines (wayKey slice line w) = some { l with dirty := true }
  filled : wayOf d.mem slice line = none → (waysOf d.mem slice line).length < 16 → ∃ w l,
    tfind e.mem.lines (wayKey slice line w) = some l ∧ l.line = line ∧ l.dirty = true ∧ l.data = readStack d.mem (slice / 2) line

theorem dirtyLine_held {d : Dev} {slice line w : Nat} {l : Line} (hw : wayOf d.mem slice line = some w)
    (hl : tfind d.mem.lines (wayKey slice line w) = some l) :
    tfind (dirtyLine slice line d).mem.lines (wayKey slice line w) = some { l with dirty := true } := by
  unfold dirtyLine
  rw [hw]
  refine (tfind_mapAt d.mem.lines (wayKey slice line w) (wayKey slice line w) fun l => { l with dirty := true }).trans ?_
  rw [if_pos rfl, hl]
  rfl

theorem dirtyLine_frame (slice line : Nat) (d : Dev) :
    dirtyLine slice line d = { d with mem := { d.mem with lines := (dirtyLine slice line d).mem.lines } } := by
  unfold dirtyLine
  split <;> rfl

theorem chooseVictim_copying (m : Mem) (slice line : Nat) : (chooseVictim m slice line).2.copying = m.copying := by
  unfold chooseVictim
  dsimp only
  split
  · rfl
  · exact List.foldlRecOn (motive := fun x : Mem => x.copying = m.copying) _ _ rfl fun x hx e _ => hx

theorem installLine_copying (slice line policy : Nat) (data : Bytes) (dirty poison : Bool) (d : Dev) :
    (installLine slice line policy data dirty poison d).mem.copying = d.mem.copying := by
  unfold installLine
  dsimp only
  generalize (decide (policy = 3) && decide (((waysOf d.mem slice line).filter fun e => e.2.pinned).length ≥ 4)) = full
  generalize hd0 : (if full = true then d.count 0x3006 (ssHub (hubOfSlice slice)) 1 else d) = d0
  have hmem : d0.mem = d.mem := by
    rw [← hd0]
    split <;> rfl
  have hc := chooseVictim_copying d0.mem slice line
  rw [hmem] at hc ⊢
  split
  · rw [hmem]
  · next w m1 hch =>
    rw [hch] at hc
    generalize tfind m1.lines (wayKey slice line w) = v
    cases v with
    | none => exact hc
    | some v =>
      dsimp only
      split
      · exact hc
      · exact hc

theorem copiedThrough_copyThrough {d : Dev} {slice line : Nat} (hq : waitersOf d slice line = []) : CopiedThrough slice line d (copyThrough slice line d) := by
  unfold copyThrough
  dsimp only
  rw [serveFirst_none hq]
  cases hw : wayOf d.mem slice line with
  | some w =>
    rw [if_pos Option.isSome_some]
    have hfr := dirtyLine_frame slice line (d.count 0x3001 (ssHub (hubOfSlice slice)) 1)
    refine ⟨by rw [hfr]; rfl, by rw [hfr]; rfl, fun x l hx hl => ?_, fun h => absurd (hw.symm.trans h) (by simp)⟩
    exact dirtyLine_held (d := d.count 0x3001 (ssHub (hubOfSlice slice)) 1) hx hl
  | none =>
    rw [if_neg (by simp)]
    have hfr := dirtyLine_frame slice line (fillFrom slice line (linePolicy d slice line) d)
    have hin := (installLine_frame slice line (linePolicy d slice line) (readStack d.mem (slice / 2) line) false (d.mem.isBad (slice / 2) line)
      (d.count 0x3002 (ssHub (hubOfSlice slice)) 1)).1
    have hcp := installLine_copying slice line (linePolicy d slice line) (readStack d.mem (slice / 2) line) false (d.mem.isBad (slice / 2) line)
      (d.count 0x3002 (ssHub (hubOfSlice slice)) 1)
    have hfill := fun hno hfree => installed_fillFrom (d := d) (slice := slice) (line := line) hno hfree (linePolicy d slice line)
    rw [← fillFrom] at hin hcp
    generalize fillFrom slice line (linePolicy d slice line) d = f at hfr hin hcp hfill ⊢
    refine ⟨by rw [hfr, hin]; rfl, by rw [hfr]; exact hcp, fun x l hx => absurd (hw.symm.trans hx) (by simp), fun hno hfree => ?_⟩
    obtain ⟨w, l, hway, hl, hline, -, -, hdata⟩ := (hfill hno hfree).held
    exact ⟨w, _, dirtyLine_held hway hl, hline, rfl, hdata⟩

/-- A copying with one line more moved. -/
def Copying.next (c : Copying) : Copying := { c with done := c.done + 1 }

/-- A granule's remapping goes on by one line, or is done. -/
def remapOn (stack g : Nat) (c : Copying) (d : Dev) : Dev :=
  if c.done + 1 < 64 then
    { d with mem := { d.mem with copying := d.mem.copying.map (fun x => if x = c then c.next else x) } }
  else
    let d2 := { d with mem := { d.mem with copying := d.mem.copying.filter (fun x => x ≠ c),
                                           remap := tput 0 d.mem.remap (stack * 2 ^ 25 + g) (c.spare + 1),
                                           corr := tdel d.mem.corr (stack * 2 ^ 25 + g) } }
    if tget 0 d.mem.remap (stack * 2 ^ 25 + g) = 0 then d2.fwCount 0x3005 (ssHub (stack / 2)) 2 1 else d2

theorem remapOn_frame (stack g : Nat) (c : Copying) (d : Dev) :
    remapOn stack g c d = { d with mem := (remapOn stack g c d).mem, jour := if c.done + 1 < 64 then d.jour else (remapOn stack g c d).jour } ∧
      (remapOn stack g c d).mem.lines = d.mem.lines := by
  unfold remapOn
  by_cases h : c.done + 1 < 64
  · rw [if_pos h, if_pos h]
    exact ⟨rfl, rfl⟩
  · rw [if_neg h, if_neg h]
    dsimp only
    split
    · rw [fwCount_frame]
      exact ⟨rfl, rfl⟩
    · exact ⟨rfl, rfl⟩

theorem remapOn_done {c : Copying} (h : c.done = 63) (stack g : Nat) (d : Dev) :
    tget 0 (remapOn stack g c d).mem.remap (stack * 2 ^ 25 + g) = c.spare + 1 ∧ c ∉ (remapOn stack g c d).mem.copying := by
  have hput : tget 0 (tput 0 d.mem.remap (stack * 2 ^ 25 + g) (c.spare + 1)) (stack * 2 ^ 25 + g) = c.spare + 1 := tget_tput_same ..
  have hout : c ∉ d.mem.copying.filter (fun x => x ≠ c) := by simp
  unfold remapOn
  rw [if_neg (by omega)]
  dsimp only
  split
  · rw [fwCount_frame]
    exact ⟨hput, hout⟩
  · exact ⟨hput, hout⟩

/-- The first that meets a test is still the first when it alone is changed and still meets it. -/
theorem find?_map_replaced {α : Type} [DecidableEq α] {p : α → Bool} {l : List α} {c c' : α} (h : l.find? p = some c) (hp : p c' = true) :
    (l.map fun x => if x = c then c' else x).find? p = some c' := by
  induction l with
  | nil => cases h
  | cons x l ih =>
    rw [List.map_cons]
    by_cases hx : x = c
    · rw [if_pos hx, List.find?_cons_of_pos hp]
    · rw [if_neg hx]
      cases hpx : p x with
      | true =>
        rw [List.find?_cons_of_pos hpx] at h
        exact absurd (Option.some.inj h) hx
      | false =>
        rw [List.find?_cons_of_neg (by rw [hpx]; exact Bool.false_ne_true)] at h ⊢
        exact ih h

theorem remapOn_next {stack g : Nat} {c : Copying} {d : Dev}
    (hc : d.mem.copying.find? (fun y => decide (y.stack = stack) && decide (y.granule = g)) = some c) (h : c.done + 1 < 64) :
    (remapOn stack g c d).mem.copying.find? (fun y => decide (y.stack = stack) && decide (y.granule = g)) = some { c with done := c.done + 1 } := by
  have hp : (decide (c.stack = stack) && decide (c.granule = g)) = true :=
    List.find?_some (p := fun y : Copying => decide (y.stack = stack) && decide (y.granule = g)) hc
  unfold remapOn
  rw [if_pos h]
  exact find?_map_replaced (c' := c.next) hc hp

theorem granule_remaps {s : State} {stack g : Nat} {c : Copying}
    (hc : s.dev.mem.copying.find? (fun y => decide (y.stack = stack) && decide (y.granule = g)) = some c) :
    let line := g * 64 + c.done
    let slice := 2 * stack + channelOf (line * 64) % 2
    sliceGone s.variant s.dev slice = false → domRuns s.dev (domSlice slice) = true → waitersOf s.dev slice line = [] →
    ∃ t, exec (.granuleRemap stack g) s = .next t ∧
      t = s.on { s.dev with mem := t.dev.mem, ctr := t.dev.ctr, jour := if c.done + 1 < 64 then s.dev.jour else t.dev.jour } ∧
      (∀ w l, wayOf s.dev.mem slice line = some w → tfind s.dev.mem.lines (wayKey slice line w) = some l →
        tfind t.dev.mem.lines (wayKey slice line w) = some { l with dirty := true }) ∧
      (wayOf s.dev.mem slice line = none → (waysOf s.dev.mem slice line).length < 16 →
        ∃ w l, tfind t.dev.mem.lines (wayKey slice line w) = some l ∧ l.line = line ∧ l.dirty = true ∧
          l.data = readStack s.dev.mem stack line) ∧
      (c.done + 1 < 64 →
        t.dev.mem.copying.find? (fun y => decide (y.stack = stack) && decide (y.granule = g)) = some { c with done := c.done + 1 }) ∧
      (c.done = 63 → tget 0 t.dev.mem.remap (stack * 2 ^ 25 + g) = c.spare + 1 ∧ c ∉ t.dev.mem.copying) := by
  intro line slice hg hr hq
  have hcopy := copiedThrough_copyThrough hq
  have hhalf : slice / 2 = stack := by omega
  have hop : granuleRemapOp s.variant stack g s.dev = remapOn stack g c (copyThrough slice line s.dev) := by
    unfold granuleRemapOp
    rw [hc]
    exact if_neg (by rw [hg, hr]; decide)
  refine ⟨_, exec_granuleRemap s stack g, ?_⟩
  simp only [State.on_dev]
  rw [hop]
  generalize copyThrough slice line s.dev = e at hcopy ⊢
  obtain ⟨hfr, hcp, hheld, hfill⟩ := hcopy
  rw [hhalf] at hfill
  obtain ⟨h1, h2⟩ := remapOn_frame stack g c e
  have hdone := fun h : c.done = 63 => remapOn_done h stack g e
  have hnext := fun h => remapOn_next (d := e) (hcp ▸ hc) h
  have hjour : e.jour = s.dev.jour := by rw [hfr]
  generalize remapOn stack g c e = f at h1 h2 hdone hnext ⊢
  refine ⟨?_, fun w l hw hl => ?_, fun hno hfree => ?_, hnext, hdone⟩
  · refine congrArg s.on ?_
    rw [h1, hjour, hfr]
    split <;> rfl
  · rw [h2]
    exact hheld w l hw hl
  · rw [h2]
    exact hfill hno hfree

/-- Settles O36: a fill, a scrub and a remapping by what each leaves of the line in its slice. -/
theorem stacksFillScrubRemap : Obligations.StacksFillScrubRemap :=
  ⟨fun _ _ _ _ _ hk hon hq hop ht hbad hg hr hfree hno => line_fills hk hon hq hop ht hbad hg hr hfree hno,
   fun _ _ _ _ hon hg hr => line_scrubbed hon hg hr, fun _ _ _ _ hc => granule_remaps hc⟩

end Sys2Proof.Machine

/-!
PROOFS for the accumulator banks (R152, R153, R158 to R161): flushed contexts, arriving updates and the banks that apply them.
-/
namespace Sys2Proof.Machine

open Sys2Proof

theorem exec_contextFlush (s : State) (e n tile : Nat) : exec (.contextFlush e n tile) s = .next (s.on (contextFlushOp e n tile s.dev)) := rfl

theorem exec_accUpdate (s : State) (e bank : Nat) (u : Option AccUpd) : exec (.accUpdate e bank u) s = .next (s.on (accUpdateOp e bank u s.dev)) := rfl

/-! ### A flush (R152, R153) -/

/-- A lane whose context of a tile leaves as updates. -/
def Lane.flushed (l : Lane) (tile : Nat) (us : List AccUpd) : Lane :=
  { l with ctxs := l.ctxs.filter (fun x => x.tile ≠ tile), out := l.out ++ us }

theorem context_flushes {s : State} {e n tile : Nat} {c : Ctx} {x : Tile} (hd : domRuns s.dev (domEngine e) = true)
    (hc : (s.dev.lane e n).ctxs.find? (fun c => decide (c.tile = tile)) = some c) (hx : s.dev.tileOf tile = some x)
    (hr : laneRuns s.dev e n tile = false) (hq : ∀ i ∈ (s.dev.lane e n).queue, i.tile ≠ tile) (hi : ∀ i ∈ (s.dev.engine e).items, i.tile ≠ tile)
    (ho : (s.dev.lane e n).out = []) :
    ∃ t, exec (.contextFlush e n tile) s = .next t ∧ t = s.on { s.dev with engines := t.dev.engines, ctr := t.dev.ctr } ∧
      Counted s.dev t.dev 0x207A (ssEngine e) 1 ∧ (∀ c ∈ (t.dev.lane e n).ctxs, c.tile ≠ tile) ∧
      (t.dev.lane e n).out = flushUpdates s.dev x n c ∧ ∀ k, k ≠ n → t.dev.lane e k = s.dev.lane e k := by
  have hmore : ((s.dev.lane e n).queue.any (fun i => i.tile = tile) || (s.dev.engine e).items.any (fun i => i.tile = tile)) = false := by
    rw [Bool.or_eq_false_iff]
    exact ⟨List.any_eq_false.mpr fun i h => by simpa using hq i h, List.any_eq_false.mpr fun i h => by simpa using hi i h⟩
  have hop : contextFlushOp e n tile s.dev =
      (s.dev.setLane e n ((s.dev.lane e n).flushed tile (flushUpdates s.dev x n c))).count 0x207A (ssEngine e) 1 := by
    unfold contextFlushOp
    dsimp only
    rw [hc, hx]
    exact if_neg (by rw [hr, hmore, hd, ho]; simp)
  have hlane := s.dev.lane_setLane_same e n ((s.dev.lane e n).flushed tile (flushUpdates s.dev x n c))
  have hother (k : Nat) (hk : k ≠ n) := s.dev.lane_setLane_other (e := e) (n := n) (e' := e) (n' := k)
    ((s.dev.lane e n).flushed tile (flushUpdates s.dev x n c)) fun h => hk h.2
  refine ⟨_, exec_contextFlush .., ?_⟩
  rw [hop]
  refine ⟨rfl, Dev.counted_count _ 0x207A (ssEngine e) 1, fun y hy => ?_, ?_, hother⟩
  · have hy' : y ∈ ((s.dev.lane e n).flushed tile (flushUpdates s.dev x n c)).ctxs := (congrArg Lane.ctxs hlane) ▸ hy
    exact of_decide_eq_true (List.mem_filter.mp hy').2
  · refine (congrArg Lane.out hlane :).trans ?_
    rw [Lane.flushed, ho, List.nil_append]

/-! ### An update arrives (R158 to R160) -/

/-- An update leaves its lane, which is no longer stalled. -/
def Lane.sent (l : Lane) : Lane := { l with out := l.out.tail, stalled := false }

/-- The first update of a lane has left it; what the engine's queues hold is told apart. -/
structure LeftLane (e n : Nat) (g : Engine) (d f : Dev) : Prop where
  frame : f = { d with engines := f.engines }
  lane : f.lane e n = (d.lane e n).sent
  acc : (f.engine e).acc = g.acc
  merge : (f.engine e).merge = g.merge
  confl : (f.engine e).confl = g.confl

theorem Dev.engine_setLane_same (d : Dev) (e n : Nat) (x : Lane) :
    (d.setLane e n x).engine e = { d.engine e with lanes := tput {} (d.engine e).lanes n x } :=
  d.engine_modEngine_same e _

theorem leftLane_dropOut (e n : Nat) (d : Dev) : LeftLane e n (d.engine e) d (dropOut e n d) := by
  have he : (dropOut e n d).engine e = { d.engine e with lanes := tput {} (d.engine e).lanes n (d.lane e n).sent } :=
    d.engine_setLane_same e n _
  exact ⟨rfl, d.lane_setLane_same e n _, by rw [he], by rw [he], by rw [he]⟩

/-- An update put in a queue of its engine, numbered by its arrival. -/
def Engine.queued (g : Engine) (put : Engine → Engine) : Engine := put { g with arrivals := g.arrivals + 1 }

theorem leftLane_queueUpd (e n : Nat) (u : AccUpd) (put : AccUpd → Engine → Engine) (d : Dev)
    (hl : ∀ u g, (put u g).lanes = g.lanes) :
    LeftLane e n (put { u with seq := (d.engine e).arrivals } { d.engine e with arrivals := (d.engine e).arrivals + 1 }) d
      (dropOut e n (queueUpd e u put d)) := by
  have hq : (queueUpd e u put d).engine e = put { u with seq := (d.engine e).arrivals } { d.engine e with arrivals := (d.engine e).arrivals + 1 } :=
    d.engine_modEngine_same e _
  have hlane : (queueUpd e u put d).lane e n = d.lane e n := by rw [Dev.lane, hq, hl, Dev.lane]
  have hfr : queueUpd e u put d = { d with engines := (queueUpd e u put d).engines } := rfl
  obtain ⟨h1, h2, h3, h4, h5⟩ := leftLane_dropOut e n (queueUpd e u put d)
  generalize queueUpd e u put d = f at hq hlane hfr h1 h2 h3 h4 h5 ⊢
  exact ⟨by rw [h1, hfr], by rw [h2, hlane], by rw [h3, hq], by rw [h4, hq], by rw [h5, hq]⟩

theorem stalled_stallLane (e n idx : Nat) (d : Dev) : Stalled d (stallLane e n idx d) e n idx ∧
    stallLane e n idx d = { d with engines := (stallLane e n idx d).engines, ctr := (stallLane e n idx d).ctr } ∧
    ((stallLane e n idx d).engine e).acc = (d.engine e).acc := by
  unfold Stalled stallLane
  cases h : (d.lane e n).stalled with
  | true =>
    rw [if_pos rfl, if_pos rfl]
    exact ⟨rfl, rfl, rfl⟩
  | false =>
    rw [if_neg Bool.false_ne_true, if_neg Bool.false_ne_true]
    refine ⟨⟨Dev.counted_count _ idx (ssEngine e) 1, d.lane_setLane_same e n _, fun k hk => d.lane_setLane_other _ fun h => hk h.2⟩, rfl, ?_⟩
    exact (congrArg Engine.acc (d.engine_setLane_same e n { d.lane e n with stalled := true }) :)

section
variable {s : State} {e bank : Nat} {u : AccUpd} {x : Tile} (hd : domRuns s.dev (domEngine e) = true) (hx : s.dev.tileOf u.tile = some x)
  (hu : (s.dev.lane e u.lane).out.head? = some u) (hb : bankOfOff u.off = bank)
include hd hx hu hb

/-- An update that arrives: what it does by its window and the room of its queue. -/
theorem accUpdateOp_arrives : accUpdateOp e bank (some u) s.dev =
    if !inWindow x u then
      (if (s.dev.engine e).ranged.contains x.id then (dropOut e u.lane s.dev).count 0x2079 (ssEngine e) 1
       else (((dropOut e u.lane s.dev).count 0x2079 (ssEngine e) 1).modEngine e (fun g => { g with ranged := g.ranged ++ [x.id] })).post evAccRange
         (e / 8) (engineTarget e) [])
    else if isMerge u.op then
      if (s.dev.engine e).merge.length ≥ 8 then stallLane e u.lane 0x2075 s.dev
      else dropOut e u.lane (queueUpd e u (fun u x => { x with merge := x.merge ++ [u] }) s.dev)
    else if (tget [] (s.dev.engine e).confl bank).length ≥ 8 then stallLane e u.lane 0x2073 s.dev
    else dropOut e u.lane (queueUpd e u (fun u x => { x with confl := tmod [] x.confl bank (· ++ [u]) }) s.dev) := by
  unfold accUpdateOp arriveUpd
  dsimp only
  rw [hx]
  exact if_neg (by rw [hu, hd]; simp [hb])

theorem update_arrives : ∃ t, exec (.accUpdate e bank (some u)) s = .next t ∧
    t = s.on { s.dev with engines := t.dev.engines, ctr := t.dev.ctr, log := t.dev.log } ∧
    (t.dev.engine e).acc = (s.dev.engine e).acc ∧
    (if inWindow x u = false then Counted s.dev t.dev 0x2079 (ssEngine e) 1 ∧
        (t.dev.lane e u.lane).out = (s.dev.lane e u.lane).out.tail ∧ (t.dev.engine e).merge = (s.dev.engine e).merge ∧
        (t.dev.engine e).confl = (s.dev.engine e).confl
     else if isMerge u.op then
       (if (s.dev.engine e).merge.length < 8 then t.dev.ctr = s.dev.ctr ∧
          (t.dev.engine e).merge = (s.dev.engine e).merge ++ [{ u with seq := (s.dev.engine e).arrivals }] ∧
          (t.dev.lane e u.lane).out = (s.dev.lane e u.lane).out.tail
        else Stalled s.dev t.dev e u.lane 0x2075)
     else
       (if (tget [] (s.dev.engine e).confl bank).length < 8 then t.dev.ctr = s.dev.ctr ∧
          tget [] (t.dev.engine e).confl bank = tget [] (s.dev.engine e).confl bank ++ [{ u with seq := (s.dev.engine e).arrivals }] ∧
          (t.dev.lane e u.lane).out = (s.dev.lane e u.lane).out.tail
        else Stalled s.dev t.dev e u.lane 0x2073)) := by
  refine ⟨_, exec_accUpdate .., ?_⟩
  rw [accUpdateOp_arrives hd hx hu hb]
  simp only [State.on_dev]
  cases hw : inWindow x u with
  | false =>
    obtain ⟨h1, h2, h3, h4, h5⟩ := leftLane_dropOut e u.lane s.dev
    rw [if_pos (by rfl), if_pos rfl]
    generalize dropOut e u.lane s.dev = f at h1 h2 h3 h4 h5 ⊢
    have hctr : f.ctr = s.dev.ctr := by rw [h1]
    have hcnt : Counted s.dev (f.count 0x2079 (ssEngine e) 1) 0x2079 (ssEngine e) 1 := fun k => by
      rw [← hctr]
      exact f.counted_count 0x2079 (ssEngine e) 1 k
    split
    · exact ⟨congrArg s.on (by rw [Dev.count, h1]), h3, hcnt, (congrArg Lane.out h2 :), h4, h5⟩
    · have hm : ((f.count 0x2079 (ssEngine e) 1).modEngine e (fun g => { g with ranged := g.ranged ++ [x.id] })).engine e =
          { f.engine e with ranged := (f.engine e).ranged ++ [x.id] } := Dev.engine_modEngine_same _ e _
      refine ⟨congrArg s.on (by rw [Dev.post, Dev.modEngine, Dev.setEngine, Dev.count, h1]), (congrArg Engine.acc hm :).trans h3, hcnt, ?_,
        (congrArg Engine.merge hm :).trans h4, (congrArg Engine.confl hm :).trans h5⟩
      exact (congrArg (fun g : Engine => (tget {} g.lanes u.lane).out) hm :).trans (congrArg Lane.out h2 :)
  | true =>
    rw [if_neg (by rw [Bool.not_true]; exact Bool.false_ne_true), if_neg (by decide : ¬true = false)]
    cases isMerge u.op with
    | true =>
      rw [if_pos rfl, if_pos rfl]
      by_cases hroom : (s.dev.engine e).merge.length < 8
      · rw [if_neg (by omega), if_pos hroom]
        obtain ⟨h1, h2, h3, h4, -⟩ := leftLane_queueUpd e u.lane u (fun u x => { x with merge := x.merge ++ [u] }) s.dev fun _ _ => rfl
        generalize dropOut e u.lane (queueUpd e u (fun u x => { x with merge := x.merge ++ [u] }) s.dev) = f at h1 h2 h3 h4 ⊢
        exact ⟨congrArg s.on (by rw [h1]), h3, by rw [h1], h4, (congrArg Lane.out h2 :)⟩
      · rw [if_pos (by omega), if_neg hroom]
        obtain ⟨h1, h2, h3⟩ := stalled_stallLane e u.lane 0x2075 s.dev
        generalize stallLane e u.lane 0x2075 s.dev = f at h1 h2 h3 ⊢
        exact ⟨congrArg s.on (by rw [h2]), h3, h1⟩
    | false =>
      rw [if_neg Bool.false_ne_true, if_neg Bool.false_ne_true]
      by_cases hroom : (tget [] (s.dev.engine e).confl bank).length < 8
      · rw [if_neg (by omega), if_pos hroom]
        obtain ⟨h1, h2, h3, -, h5⟩ := leftLane_queueUpd e u.lane u (fun u x => { x with confl := tmod [] x.confl bank (· ++ [u]) }) s.dev
          fun _ _ => rfl
        generalize dropOut e u.lane (queueUpd e u (fun u x => { x with confl := tmod [] x.confl bank (· ++ [u]) }) s.dev) = f at h1 h2 h3 h5 ⊢
        refine ⟨congrArg s.on (by rw [h1]), h3, by rw [h1], ?_, (congrArg Lane.out h2 :)⟩
        rw [h5]
        exact tget_tmod_same [] (s.dev.engine e).confl bank (· ++ [{ u with seq := (s.dev.engine e).arrivals }])
      · rw [if_pos (by omega), if_neg hroom]
        obtain ⟨h1, h2, h3⟩ := stalled_stallLane e u.lane 0x2073 s.dev
        generalize stallLane e u.lane 0x2073 s.dev = f at h1 h2 h3 ⊢
        exact ⟨congrArg s.on (by rw [h2]), h3, h1⟩

end

/-! ### A bank applies its oldest update (R161) -/

theorem length_wordBytes (ws : List W32) : ((ws.map (fun w => toLe 4 w.toNat)).flatten).length = 4 * ws.length := by
  induction ws with
  | nil => rfl
  | cons w ws ih =>
    rw [List.map_cons, List.flatten_cons, List.length_append, length_toLe, ih, List.length_cons]
    omega

theorem mget_putWords_other (m : Memory) (o : Nat) (ws : List W32) {n : Nat} (hn : ws.length ≤ n) {a : Nat} (h : a < o ∨ o + 4 * n ≤ a) :
    mget (putWords m o ws) a = mget m a := by
  refine mget_mwrite_other _ m o a ?_
  rw [length_wordBytes]
  omega

theorem accWord_putWords_one (m : Memory) (o : Nat) (w : W32) : accWord (putWords m o [w]) o = w := by
  have hread : mread (mwrite m o (toLe 4 w.toNat)) o 4 = toLe 4 w.toNat := by
    have h := mread_mwrite (toLe 4 w.toNat) m o
    rwa [length_toLe] at h
  have hput : putWords m o [w] = mwrite m o (toLe 4 w.toNat) := by
    rw [putWords, List.map_singleton, List.flatten_singleton]
  rw [accWord, hput, hread, leNat_toLe 4 w.toNat (by have := w.isLt; omega), BitVec.ofNat_toNat, BitVec.setWidth_eq]

/-- What an update makes of one word. -/
theorem applyUpd_word {u : AccUpd} {w : W32} (hw : u.words = [w]) (m : Memory) :
    (u.op = .store → accWord (applyUpd u m).1 u.off = w) ∧
    (u.op = .iadd → accWord (applyUpd u m).1 u.off = accWord m u.off + w) ∧
    (u.op = .fadd → accWord (applyUpd u m).1 u.off = f32add (accWord m u.off) w) := by
  have hold : accWords m u.off u.words.length = [accWord m u.off] := by
    rw [hw]
    rfl
  refine ⟨fun h => ?_, fun h => ?_, fun h => ?_⟩
  · unfold applyUpd
    rw [h, hw]
    exact accWord_putWords_one ..
  · unfold applyUpd
    rw [h, hold, hw]
    exact accWord_putWords_one ..
  · unfold applyUpd
    rw [h, hold, hw]
    exact accWord_putWords_one ..

/-- No byte beyond its words is changed by an update. -/
theorem applyUpd_other (u : AccUpd) (m : Memory) {a : Nat} (h : a < u.off ∨ u.off + 4 * u.words.length ≤ a) :
    mget (applyUpd u m).1 a = mget m a := by
  have hz (f : W32 × W32 → W32) : (((accWords m u.off u.words.length).zip u.words).map f).length ≤ u.words.length := by
    rw [List.length_map, List.length_zip]
    exact min_le_right _ _
  unfold applyUpd
  dsimp only
  split
  · exact mget_putWords_other m u.off _ (hz _) h
  · exact mget_putWords_other m u.off _ (hz _) h
  · exact mget_putWords_other m u.off _ (hz _) h
  · exact mget_putWords_other m u.off _ (hz _) h
  · exact mget_putWords_other m u.off _ le_rfl h
  · rfl

/-- An engine whose bank has applied its oldest update. -/
def Engine.applied (g : Engine) (bank : Nat) (u : AccUpd) (rest : List AccUpd) : Engine :=
  { g with acc := (applyUpd u g.acc).1, confl := tput [] g.confl bank rest }

theorem bank_applies {s : State} {e bank : Nat} {u : AccUpd} {rest : List AccUpd} (hd : domRuns s.dev (domEngine e) = true)
    (hq : tget [] (s.dev.engine e).confl bank = u :: rest) (he : earlierWaits (s.dev.engine e) u = false) :
    ∃ t, exec (.accUpdate e bank none) s = .next t ∧ t = s.on { s.dev with engines := t.dev.engines, ctr := t.dev.ctr } ∧
      tget [] (t.dev.engine e).confl bank = rest ∧ (t.dev.engine e).merge = (s.dev.engine e).merge ∧
      (t.dev.engine e).lanes = (s.dev.engine e).lanes ∧
      (∀ w, u.words = [w] →
        (u.op = .store → accWord (t.dev.engine e).acc u.off = w) ∧
        (u.op = .iadd → accWord (t.dev.engine e).acc u.off = accWord (s.dev.engine e).acc u.off + w) ∧
        (u.op = .fadd → accWord (t.dev.engine e).acc u.off = f32add (accWord (s.dev.engine e).acc u.off) w)) ∧
      (∀ a, a < u.off ∨ u.off + 4 * u.words.length ≤ a → mget (t.dev.engine e).acc a = mget (s.dev.engine e).acc a) := by
  have hop : accUpdateOp e bank none s.dev =
      (s.dev.setEngine e ((s.dev.engine e).applied bank u rest)).count 0x2078 (ssEngine e) (applyUpd u (s.dev.engine e).acc).2 := by
    unfold accUpdateOp drainBank
    dsimp only
    rw [hq]
    exact if_neg (by rw [hd, he]; simp)
  have hg := s.dev.engine_setEngine_same e ((s.dev.engine e).applied bank u rest)
  have hacc : ((accUpdateOp e bank none s.dev).engine e).acc = (applyUpd u (s.dev.engine e).acc).1 := by
    rw [hop]
    exact (congrArg Engine.acc hg :)
  refine ⟨_, exec_accUpdate .., ?_⟩
  simp only [State.on_dev]
  refine ⟨?_, ?_, ?_, ?_, fun w hw => ?_, fun a ha => ?_⟩
  · rw [hop]
    rfl
  · rw [hop]
    exact (congrArg (fun g : Engine => tget [] g.confl bank) hg :).trans (tget_tput_same ..)
  · rw [hop]
    exact (congrArg Engine.merge hg :)
  · rw [hop]
    exact (congrArg Engine.lanes hg :)
  · rw [hacc]
    exact applyUpd_word hw _
  · rw [hacc]
    exact applyUpd_other u _ ha

/-- Settles O31: a flush, an arriving update by its window and its queue's room, and a bank's oldest update by its words. -/
theorem accumulatorsTakeUpdates : Obligations.AccumulatorsTakeUpdates :=
  fun _ _ hd => ⟨fun _ _ _ _ hc hx hr hq hi ho => context_flushes hd hc hx hr hq hi ho, fun _ _ _ hx hu hb => update_arrives hd hx hu hb,
    fun _ _ _ hq he => bank_applies hd hq he⟩

end Sys2Proof.Machine

/-!
PROOFS for the end of a block at its macro (R49, R52, R74, R81): the recalibration request, the outlier terms and the partials.
-/
namespace Sys2Proof.Machine

open Sys2Proof

/-! ### A tile by its number -/

theorem tileOf_id {d : Dev} {i : Nat} {x : Tile} (hx : d.tileOf i = some x) : x.id = i :=
  of_decide_eq_true (List.find?_some (p := fun y : Tile => decide (y.id = i)) hx)

/-- A tile that changes under its number is still found there. -/
theorem tileOf_modTile_same {d : Dev} {i : Nat} {x : Tile} (hx : d.tileOf i = some x) {f : Tile → Tile} (hf : ∀ y, (f y).id = y.id) :
    (d.modTile i f).tileOf i = some (f x) := by
  have hcomp : (fun y : Tile => decide (y.id = i)) ∘ (fun y : Tile => if y.id = i then f y else y) = fun y : Tile => decide (y.id = i) := by
    funext y
    show decide ((if y.id = i then f y else y).id = i) = _
    split
    · rw [hf]
    · rfl
  have h : (d.modTile i f).tileOf i = (d.tileOf i).map fun y => if y.id = i then f y else y := by
    unfold Dev.tileOf Dev.modTile
    rw [List.find?_map, hcomp]
  rw [h, hx, Option.map_some, if_pos (tileOf_id hx)]

/-! ### The end of a block -/

theorem exec_recalTrigger (s : State) (m : Nat) : exec (.recalTrigger m) s = .next (s.on (recalTriggerOp m s.dev)) := rfl

theorem exec_outlierTerm (s : State) (m : Nat) : exec (.outlierTerm m) s = .next (s.on (outlierTermOp m s.dev)) := rfl

theorem exec_outputStagePartial (s : State) (m : Nat) : exec (.outputStagePartial m) s = .next (s.on (outputStagePartialOp m s.dev)) := rfl

theorem recal_requested {s : State} {m : Nat} (h : (s.dev.mac m).recReq = true) :
    ∃ t, exec (.recalTrigger m) s = .next t ∧ t = s.on { s.dev with macros := t.dev.macros } ∧ OnlyMacro s.dev t.dev m ∧
      t.dev.mac m = { s.dev.mac m with recReq := false, cal := { (s.dev.mac m).cal with req := true } } := by
  have hop : recalTriggerOp m s.dev = s.dev.modMac m (fun x => { x with recReq := false, cal := { x.cal with req := true } }) := if_pos h
  refine ⟨_, exec_recalTrigger s m, ?_⟩
  rw [hop]
  exact ⟨rfl, fun k hk => s.dev.mac_modMac_other _ hk, s.dev.mac_modMac_same m _⟩

/-- Entries written in turn under keys of their own: each reads back, and the others are as they were. -/
theorem tget_foldl_tset {α : Type} (z : α) {key : Nat → Nat} (hk : Function.Injective key) (val : Nat → α) (js : List Nat) (t : Tab α) (j : Nat) :
    tget z (js.foldl (fun s i => tset s (key i) (val i)) t) (key j) = if j ∈ js then val j else tget z t (key j) := by
  induction js generalizing t with
  | nil => rfl
  | cons i js ih =>
    rw [List.foldl_cons, ih]
    by_cases hj : j ∈ js
    · rw [if_pos hj, if_pos (List.mem_cons_of_mem i hj)]
    · rw [if_neg hj]
      by_cases hi : j = i
      · subst hi
        rw [if_pos List.mem_cons_self, tget_tset_same]
      · rw [if_neg (by simp [hi, hj]), tget_tset_other z t _ fun h => hi (hk h)]

theorem partKey_injective (product vec base rb : Nat) : Function.Injective fun j => partKey product vec (base + j) rb := by
  intro i j h
  dsimp only [partKey] at h
  omega

/-- The unmasked units of a block. -/
theorem mem_unitsOn {n : Nat} {p : Nat → Bool} {j : Nat} : j ∈ (List.range n).filter p ↔ j < n ∧ p j = true := by
  rw [List.mem_filter, List.mem_range]

/-- The outlier terms of a block's unmasked units (R74). -/
def termsOn (d : Dev) (m : Nat) (b : Blk) (js : List Nat) : Tab W32 :=
  js.foldl (fun t j => tset t j (scaleOut (outlierSum d m b j) b.outExp (tget 0 (d.mac m).active.scales j))) []

/-- A tile with the partials of a block's unmasked units (R52). -/
def Tile.withPartials (x : Tile) (k : Bank) (b : Blk) (m product : Nat) (js : List Nat) (y : Tile) : Tile :=
  { y with
    parts := js.foldl (fun t j => tset t (partKey product b.vec (b.cb * unitsOf k.packing + j) b.rb) (partialOf x k b j)) x.parts
    fed := y.fed ++ [(m, fedKey product b.vec)] }

/-- A block whose outlier terms are formed. -/
def Blk.withTerms (b : Blk) (ts : Tab W32) : Blk := { b with terms := ts, termsDone := true }

/-- A macro's block replaced. -/
def Macro.withBlk (x : Macro) (b : Option Blk) : Macro := { x with blk := b }

section
variable {s : State} {m : Nat} {b : Blk} {x : Tile} {product : Nat} (hb : (s.dev.mac m).blk = some b) (hx : s.dev.tileOf b.tile = some x)
  (hp : blkProduct x (s.dev.mac m).active b = some product) (hd : domRuns s.dev (domWedge (wedgeOfMacro m)) = true)
include hb hx hp hd

theorem outlier_terms_formed (ht : b.termsDone = false) (ho : xoOutliers s.dev m = false ∨ 8 ≤ b.plane ∧ 3 ≤ b.pass ∧ b.amb = []) :
    let k := (s.dev.mac m).active
    let ss := ssFacet (facetOfMacro m)
    let on (j : Nat) : Prop := j < k.valid ∧ unitOn x k product b.vec j = true
    ∃ t ts, exec (.outlierTerm m) s = .next t ∧ t = s.on { s.dev with macros := t.dev.macros, ctr := t.dev.ctr } ∧
      OnlyMacro s.dev t.dev m ∧ t.dev.mac m = { s.dev.mac m with blk := some { b with terms := ts, termsDone := true } } ∧
      (∀ j, on j → tget 0 ts j = scaleOut (outlierSum s.dev m b j) b.outExp (tget 0 k.scales j)) ∧
      (∀ j, ¬ on j → tget 0 ts j = 0) ∧
      Counted s.dev t.dev 0x2032 ss (((List.range k.valid).filter (fun j => unitOn x k product b.vec j)).length) := by
  intro k ss on
  have hdue : termsDue s.dev m = true := by
    unfold termsDue
    rw [hb, Option.any_some, ht]
    rcases ho with h | ⟨h1, h2, h3⟩
    · rw [h]
      rfl
    · rw [h3, decide_eq_false (by omega), decide_eq_false (by omega)]
      simp
  have hts := tget_foldl_tset (0 : W32) (key := fun j => j) (fun _ _ h => h)
    (fun j => scaleOut (outlierSum s.dev m b j) b.outExp (tget 0 k.scales j)) ((List.range k.valid).filter (fun j => unitOn x k product b.vec j)) []
  have hop : outlierTermOp m s.dev = (s.dev.modMac m (fun y => y.withBlk (some (b.withTerms
      (termsOn s.dev m b ((List.range k.valid).filter (fun j => unitOn x k product b.vec j))))))).count 0x2032 ss
        (((List.range k.valid).filter (fun j => unitOn x k product b.vec j)).length) := by
    unfold outlierTermOp
    dsimp only
    rw [hb]
    dsimp only
    rw [hx]
    dsimp only
    rw [hp]
    exact if_neg (by rw [hdue, hd]; simp)
  refine ⟨_, termsOn s.dev m b ((List.range k.valid).filter (fun j => unitOn x k product b.vec j)), exec_outlierTerm s m, ?_⟩
  rw [hop]
  have hsame := s.dev.mac_modMac_same m fun y => y.withBlk (some (b.withTerms
    (termsOn s.dev m b ((List.range k.valid).filter (fun j => unitOn x k product b.vec j)))))
  have honly (i : Nat) (hi : i ≠ m) := s.dev.mac_modMac_other (fun y => y.withBlk (some (b.withTerms
    (termsOn s.dev m b ((List.range k.valid).filter (fun j => unitOn x k product b.vec j)))))) hi
  refine ⟨rfl, honly, hsame, fun j hj => ?_, fun j hj => ?_, Dev.counted_count _ 0x2032 ss _⟩
  · exact (hts j).trans (if_pos (mem_unitsOn.mpr hj))
  · exact (hts j).trans (if_neg fun h => hj (mem_unitsOn.mp h))

variable (hpl : 8 ≤ b.plane) (ha : b.amb = []) (hl : lastPass s.dev m b ≤ b.pass)
include hpl ha hl

/-- A finished block at the output stage: it waits for its outlier terms, or leaves as partials. -/
theorem outputStagePartialOp_of_finished : outputStagePartialOp m s.dev =
    if !b.termsDone then
      (if b.waited then s.dev
       else (s.dev.count 0x2034 (ssFacet (facetOfMacro m)) 1).modMac m (fun y => y.withBlk (some { b with waited := true })))
    else
      (s.dev.modTile x.id (x.withPartials (s.dev.mac m).active b m product
        ((List.range (s.dev.mac m).active.valid).filter (fun j => unitOn x (s.dev.mac m).active product b.vec j)))).modMac m
          (fun y => y.withBlk none) := by
  unfold outputStagePartialOp
  dsimp only
  rw [hb]
  dsimp only
  rw [hx]
  dsimp only
  rw [hp]
  exact if_neg (by rw [hd, ha]; simp; omega)

theorem block_waits_for_terms (ht : b.termsDone = false) (hw : b.waited = false) : ∃ t, exec (.outputStagePartial m) s = .next t ∧
    t = s.on { s.dev with macros := t.dev.macros, ctr := t.dev.ctr } ∧ OnlyMacro s.dev t.dev m ∧
    t.dev.mac m = { s.dev.mac m with blk := some { b with waited := true } } ∧ Counted s.dev t.dev 0x2034 (ssFacet (facetOfMacro m)) 1 := by
  refine ⟨_, exec_outputStagePartial s m, ?_⟩
  rw [outputStagePartialOp_of_finished hb hx hp hd hpl ha hl, ht, hw, if_pos (by rfl), if_neg Bool.false_ne_true]
  exact ⟨rfl, fun i hi => Dev.mac_modMac_other _ _ hi, Dev.mac_modMac_same _ m _, s.dev.counted_count 0x2034 (ssFacet (facetOfMacro m)) 1⟩

theorem block_still_waits (ht : b.termsDone = false) (hw : b.waited = true) : exec (.outputStagePartial m) s = .next s := by
  rw [exec_outputStagePartial, outputStagePartialOp_of_finished hb hx hp hd hpl ha hl, ht, hw, if_pos (by rfl), if_pos rfl, State.on_self]

theorem block_becomes_partials (ht : b.termsDone = true) :
    let k := (s.dev.mac m).active
    let on (j : Nat) : Prop := j < k.valid ∧ unitOn x k product b.vec j = true
    ∃ t y, exec (.outputStagePartial m) s = .next t ∧
      t = s.on { s.dev with macros := t.dev.macros, tiles := t.dev.tiles } ∧ OnlyMacro s.dev t.dev m ∧
      t.dev.mac m = { s.dev.mac m with blk := none } ∧ t.dev.tileOf b.tile = some y ∧
      y = { x with parts := y.parts, fed := x.fed ++ [(m, fedKey product b.vec)] } ∧
      (∀ j, on j → tget 0 y.parts (partKey product b.vec (b.cb * unitsOf k.packing + j) b.rb) = partialOf x k b j) := by
  intro k on
  have hid := tileOf_id hx
  have hop : outputStagePartialOp m s.dev = (s.dev.modTile b.tile (x.withPartials k b m product
      ((List.range k.valid).filter (fun j => unitOn x k product b.vec j)))).modMac m (fun y => y.withBlk none) := by
    rw [outputStagePartialOp_of_finished hb hx hp hd hpl ha hl, ht, if_neg (by rw [Bool.not_true]; exact Bool.false_ne_true), hid]
  have hparts := tget_foldl_tset (0 : W32) (partKey_injective product b.vec (b.cb * unitsOf k.packing) b.rb) (partialOf x k b)
    ((List.range k.valid).filter (fun j => unitOn x k product b.vec j)) x.parts
  refine ⟨_, x.withPartials k b m product ((List.range k.valid).filter (fun j => unitOn x k product b.vec j)) x, exec_outputStagePartial s m, ?_⟩
  rw [hop]
  refine ⟨rfl, fun i hi => Dev.mac_modMac_other _ _ hi, Dev.mac_modMac_same _ m _, ?_, rfl, fun j hj => ?_⟩
  · exact tileOf_modTile_same hx fun _ => rfl
  · exact (hparts j).trans (if_pos (mem_unitsOn.mpr hj))

end

/-- Settles O24: the request, the outlier terms and the partials of a block, each by its operation; the units' entries have keys of their own. -/
theorem blocksBecomePartials : Obligations.BlocksBecomePartials :=
  ⟨fun _ _ h => recal_requested h,
   fun _ _ _ _ _ hb hx hp hd => ⟨fun ht ho => outlier_terms_formed hb hx hp hd ht ho,
    fun hpl ha hl => ⟨fun ht hw => block_waits_for_terms hb hx hp hd hpl ha hl ht hw, fun ht hw => block_still_waits hb hx hp hd hpl ha hl ht hw,
      fun ht => block_becomes_partials hb hx hp hd hpl ha hl ht⟩⟩⟩

end Sys2Proof.Machine

/-!
PROOFS for how a tile leaves: failed (R242), committed (R248), and for the halo messages between wedges (R256 to R259).
-/
namespace Sys2Proof.Machine

open Sys2Proof

/-! ### A tile that fails -/

section
variable {d e : Dev}

theorem tfind_mem {α : Type} {t : Tab α} {k : Nat} {x : α} (h : tfind t k = some x) : (k, x) ∈ t := by
  induction t with
  | nil => cases h
  | cons e t ih =>
    obtain ⟨k', y⟩ := e
    rw [tfind] at h
    split at h
    · next hk =>
      cases h
      subst hk
      exact List.mem_cons_self
    · exact List.mem_cons_of_mem _ (ih h)

theorem without_blk {x : Macro} {i : Nat} {b : Blk} (h : (x.without i).blk = some b) : b.tile ≠ i := by
  unfold Macro.without at h
  split at h
  · next c hc =>
    split at h
    · cases h
    · next hne =>
      rw [hc] at h
      cases h
      exact hne
  · next hc =>
    rw [hc] at h
    cases h

theorem removeTile_macros (t : Tile) (d : Dev) : (removeTile t d).macros =
    d.macros.filterMap fun e => let x := e.2.without t.id; if x = {} then none else some (e.1, x) := by
  have hw (l : List Nat) (e : Dev) : (l.foldl (fun d w => d.modWedge w fun g => { g with tiles := g.tiles.filter (· ≠ t.id) }) e).macros = e.macros :=
    List.foldlRecOn (motive := fun x : Dev => x.macros = e.macros) _ _ rfl fun _ he _ _ => he
  unfold removeTile
  dsimp only
  split
  · exact hw ..
  · exact hw ..

/-- No macro works on a block of a tile that has left. -/
theorem removeTile_blk (t : Tile) (d : Dev) (m : Nat) (b : Blk) (h : ((removeTile t d).mac m).blk = some b) : b.tile ≠ t.id := by
  have hmac : (removeTile t d).mac m = tget {} (removeTile t d).macros m := rfl
  rw [hmac, removeTile_macros, tget] at h
  cases hf : tfind (d.macros.filterMap fun e => let x := e.2.without t.id; if x = {} then none else some (e.1, x)) m with
  | none =>
    rw [hf] at h
    cases h
  | some y =>
    rw [hf] at h
    obtain ⟨a, -, ha⟩ := List.mem_filterMap.mp (tfind_mem hf)
    dsimp only at ha
    split at ha
    · cases ha
    · cases ha
      exact without_blk h

theorem failJob_jobs (j : Nat) (status : BitVec 8) (issuer index : Nat) (d : Dev) : failJob j status 0 issuer index d =
    { d with jobs := d.jobs.map (fun x => if x.id = j then { x with halted := true, fail := some (x.fail.getD
      { status := status, detail := 0, issuer := issuer, index := index }) } else x) } := by
  unfold failJob Dev.modJob
  congr 1
  refine List.map_congr_left fun x _ => ?_
  dsimp only
  cases x.fail <;> rfl

theorem tileFailed_failTile (t : Tile) (status : BitVec 8) (d : Dev) : TileFailed d (failTile t status d) t status := by
  have hleft := (tilesLeft_removeTile t d).frame
  have htiles := removeTile_tiles t d
  have hblk := removeTile_blk t d
  have hjobs : (removeTile t d).jobs = d.jobs := by rw [hleft]
  unfold failTile
  generalize removeTile t d = f at hleft htiles hblk hjobs ⊢
  by_cases hdone : (d.jobOf t.job).elim false (workDone d) = true
  · rw [if_pos hdone]
    exact ⟨by rw [hleft], htiles, hjobs.trans (if_pos hdone).symm, hblk⟩
  · rw [if_neg hdone, failJob_jobs]
    refine ⟨by rw [hleft], htiles, Eq.trans ?_ (if_neg hdone).symm, hblk⟩
    dsimp only
    rw [hjobs]

/-- A failure with counters and events told before or after. -/
theorem TileFailed.told {f : Dev} {x : Tile} {status : BitVec 8} (h : TileFailed d e x status)
    (hf : f = { e with ctr := f.ctr, log := f.log }) : TileFailed d f x status := by
  obtain ⟨h1, h2, h3, h4⟩ := h
  rw [hf]
  exact ⟨by rw [h1], h2, h3, h4⟩

theorem TileFailed.after {f : Dev} {x : Tile} {status : BitVec 8} (h : TileFailed e f x status)
    (he : e = { d with ctr := e.ctr, log := e.log }) : TileFailed d f x status := by
  obtain ⟨h1, h2, h3, h4⟩ := h
  have htiles : e.tiles = d.tiles := by rw [he]
  have hjobs : e.jobs = d.jobs := by rw [he]
  have hjob : (e.jobOf x.job).elim false (workDone e) = (d.jobOf x.job).elim false (workDone d) := by
    rw [he]
    rfl
  refine ⟨by rw [h1, he], htiles ▸ h2, ?_, h4⟩
  rw [h3, hjob, hjobs]

theorem failTile_ctr (t : Tile) (status : BitVec 8) (d : Dev) : (failTile t status d).ctr = d.ctr := by
  have hleft := (tilesLeft_removeTile t d).frame
  unfold failTile
  generalize removeTile t d = f at hleft ⊢
  split
  · rw [hleft]
  · rw [failJob_jobs, hleft]

/-! ### A tile that has written everything (R248, R249) -/

/-- From `d` to `e` tiles may have left with what is theirs in the units, counters have risen, and their counter's memory may be written; no inbox has
changed, and the tiles left are tiles that were there. -/
structure TileEnded (d e : Dev) : Prop where
  tiles : e.tiles.Sublist d.tiles
  inbox : ∀ w, (e.wedge w).inbox = (d.wedge w).inbox
  ctr : ∀ idx sub, idx < 0x3042 → idx ≠ 0x2092 → sub < 256 → counterOf e idx sub = counterOf d idx sub

theorem TileEnded.refl (d : Dev) : TileEnded d d := ⟨List.Sublist.refl _, fun _ => rfl, fun _ _ _ _ _ => rfl⟩

theorem TileEnded.trans {f : Dev} (h : TileEnded d e) (h' : TileEnded e f) : TileEnded d f :=
  ⟨h'.tiles.trans h.tiles, fun w => (h'.inbox w).trans (h.inbox w), fun i s h1 h2 h3 => (h'.ctr i s h1 h2 h3).trans (h.ctr i s h1 h2 h3)⟩

theorem TileEnded.of_same (ht : e.tiles = d.tiles) (hw : e.wedges = d.wedges) (hc : e.ctr = d.ctr) : TileEnded d e :=
  ⟨ht ▸ List.Sublist.refl _, fun w => by rw [Dev.wedge, hw, Dev.wedge], fun i s _ _ _ => by rw [counterOf, hc, counterOf]⟩

theorem counterOf_count_other (d : Dev) {idx i : Nat} (sub n k : Nat) (hk : k < 256) (h : i < idx ∨ (i ≠ idx ∧ sub < 256)) :
    counterOf (d.count idx sub n) i k = counterOf d i k := by
  have hne : odKey i k ≠ odKey idx sub := by
    unfold odKey
    rcases h with h | ⟨h, hs⟩ <;> omega
  rw [counterOf, d.counted_count idx sub n, if_neg hne]
  rfl

theorem tileEnded_removeTile (t : Tile) (d : Dev) : TileEnded d (removeTile t d) := by
  have h := tilesLeft_removeTile t d
  exact ⟨h.fewer, fun w => by rw [h.wedge], fun i s _ _ _ => by rw [h.frame]; rfl⟩

theorem tileEnded_settleClear (code : Nat) (d : Dev) : TileEnded d (settleClear code d) := by
  unfold settleClear
  dsimp only
  split
  · exact .of_same rfl rfl rfl
  · exact .refl d

theorem tileEnded_ctrAtomic (d : Dev) (c : CtrEntry) (hi lo v : Nat) : TileEnded d (ctrAtomic d c hi lo v) :=
  ⟨List.Sublist.refl _, fun _ => rfl, fun _ s h1 _ h3 => counterOf_count_other _ _ _ s h3 (Or.inl h1)⟩

theorem tileEnded_settleSpans (t : Tile) (d : Dev) : TileEnded d (settleSpans t d) := by
  unfold settleSpans
  split
  · exact .refl d
  · exact .of_same rfl rfl rfl

/-- The end of a tile once its counter is raised. -/
theorem tileEnded_leaves {f : Dev} {t : Tile} (h : TileEnded d f) (hss : t.ss < 256) : TileEnded d (removeTile t (settleSpans t
    (if t.smiss then (f.count 0x2092 t.ss 1).modJob t.job (fun j => { j with smiss := true }) else f.count 0x2092 t.ss 1))) := by
  have hcnt : TileEnded f (f.count 0x2092 t.ss 1) :=
    ⟨List.Sublist.refl _, fun _ => rfl, fun _ s _ h2 h3 => counterOf_count_other _ _ _ s h3 (Or.inr ⟨h2, hss⟩)⟩
  have hmiss : TileEnded f (if t.smiss then (f.count 0x2092 t.ss 1).modJob t.job (fun j => { j with smiss := true }) else f.count 0x2092 t.ss 1) := by
    split
    · exact hcnt.trans (.of_same rfl rfl rfl)
    · exact hcnt
  exact h.trans (hmiss.trans ((tileEnded_settleSpans t _).trans (tileEnded_removeTile t _)))

theorem tileEnded_finishTile (id : Nat) (d : Dev) (hss : ∀ x, d.tileOf id = some x → x.ss < 256) : TileEnded d (finishTile id d) := by
  unfold finishTile
  split
  · exact .refl d
  · next t ht =>
    split
    · cases tileCtr d t with
      | none => exact tileEnded_leaves (.refl d) (hss t ht)
      | some c => exact tileEnded_leaves ((tileEnded_settleClear c.home d).trans (tileEnded_ctrAtomic ..)) (hss t ht)
    · exact .refl d

end

/-! ### Halo messages -/

theorem exec_haloAppend (s : State) (tile dir : Nat) : exec (.haloAppend tile dir) s = .next (s.on (haloAppendOp tile dir s.dev)) := rfl

theorem exec_haloRead (s : State) (tile dir : Nat) : exec (.haloRead tile dir) s = .next (s.on (haloReadOp tile dir s.dev)) := rfl

theorem exec_haloTimeout (s : State) (tile waited : Nat) :
    exec (.haloTimeout tile waited) s = .next (s.on (haloTimeoutOp s.variant tile waited s.dev)) := rfl

/-- A tile whose message of a direction has gone. -/
def Tile.sentTo (x : Tile) (dir : Nat) : Tile := { x with halo := tdel x.halo dir, haloN := tdel x.haloN dir }

/-- A message that has gone: its tile is over when it was the last of what it had to write. -/
def messageGone (tile dir : Nat) (f : Tile → Tile) (d : Dev) : Dev := finishTile tile (d.modTile tile fun x => f (x.sentTo dir))

/-- What a message that has gone leaves: the block as told, but for the tile, which no longer holds it. -/
theorem messageGone_left {tile dir : Nat} {x : Tile} (f : Tile → Tile) (hf : ∀ y : Tile, (f y).id = y.id ∧ (f y).ss = y.ss ∧ (f y).halo = y.halo) {d : Dev}
    (hx' : d.tileOf tile = some x) (hss : x.ss < 256) :
    (∀ w, ((messageGone tile dir f d).wedge w).inbox = (d.wedge w).inbox) ∧
    (∀ idx sub, idx < 0x3042 → idx ≠ 0x2092 → sub < 256 → counterOf (messageGone tile dir f d) idx sub = counterOf d idx sub) ∧
    ∀ y ∈ (messageGone tile dir f d).tiles, y.id = tile → tfind y.halo dir = none := by
  have hof := tileOf_modTile_same hx' (f := fun y => f (y.sentTo dir)) fun y => (hf _).1
  have hend := tileEnded_finishTile tile (d.modTile tile fun y => f (y.sentTo dir)) fun y hy => by
    rw [hof] at hy
    cases hy
    rw [(hf _).2.1]
    exact hss
  refine ⟨hend.inbox, hend.ctr, fun y hy hid => ?_⟩
  obtain ⟨z, -, hz⟩ := List.mem_map.mp (hend.tiles.subset hy)
  split at hz
  · rw [← hz, (hf _).2.2]
    exact tfind_tdel_same z.halo dir
  · next hne =>
    rw [hz] at hne
    exact absurd hid hne

section
variable {s : State} {tile dir n : Nat} {x : Tile} {msg : Memory} (hx : s.dev.tileOf tile = some x) (hst : x.stage = .writing)
  (hm : tfind x.halo dir = some msg) (hn : neighbour x.issuer dir = some n)
include hx hst hm hn

/-- A message of a direction: what happens to it by its neighbour and the room there. -/
theorem haloAppendOp_of_message : haloAppendOp tile dir s.dev =
    if targetOffline s.dev (.wedge (n / 16) (n % 16)) then
      messageGone tile dir (fun x => { x with haloLost := true })
        (if x.haloLost then s.dev.count 0x2097 x.ss (tget 0 x.haloN dir)
         else (s.dev.count 0x2097 x.ss (tget 0 x.haloN dir)).post evHaloLost (issuerHub x.issuer) (issuerTarget x.issuer) [])
    else if (tget [] (s.dev.wedge n).inbox (opposite dir)).length ≥ 4 then s.dev
    else messageGone tile dir id
      ((s.dev.modWedge n fun w => { w with inbox := tmod [] w.inbox (opposite dir) (fun l => l ++ [msg]) }).count 0x2096 x.ss 1) := by
  unfold haloAppendOp
  rw [hx]
  dsimp only
  rw [hm, hn]
  exact if_neg (fun h => h hst)

variable (hss : x.ss < 256)
include hss

theorem message_goes (hon : targetOffline s.dev (.wedge (n / 16) (n % 16)) = false) (hroom : (tget [] (s.dev.wedge n).inbox (opposite dir)).length < 4) :
    ∃ t, exec (.haloAppend tile dir) s = .next t ∧
      tget [] (t.dev.wedge n).inbox (opposite dir) = tget [] (s.dev.wedge n).inbox (opposite dir) ++ [msg] ∧
      counterOf t.dev 0x2096 x.ss = counterOf s.dev 0x2096 x.ss + 1 ∧ ∀ y ∈ t.dev.tiles, y.id = tile → tfind y.halo dir = none := by
  have hx' : ((s.dev.modWedge n fun w => { w with inbox := tmod [] w.inbox (opposite dir) (fun l => l ++ [msg]) }).count 0x2096 x.ss 1).tileOf tile =
    some x := hx
  obtain ⟨h1, h2, h3⟩ := messageGone_left (dir := dir) id (fun _ => ⟨rfl, rfl, rfl⟩) hx' hss
  have hw := s.dev.wedge_modWedge_same n fun w => { w with inbox := tmod [] w.inbox (opposite dir) (fun l => l ++ [msg]) }
  have hc := (s.dev.modWedge n fun w => { w with inbox := tmod [] w.inbox (opposite dir) (fun l => l ++ [msg]) }).counted_count 0x2096 x.ss 1
    (odKey 0x2096 x.ss)
  refine ⟨_, exec_haloAppend .., ?_⟩
  simp only [State.on_dev]
  rw [haloAppendOp_of_message hx hst hm hn, if_neg (by rw [hon]; decide), if_neg (by omega)]
  refine ⟨?_, ?_, h3⟩
  · rw [h1]
    exact (congrArg (fun w : Wedge => tget [] w.inbox (opposite dir)) hw :).trans (tget_tmod_same [] (s.dev.wedge n).inbox (opposite dir) (fun l => l ++ [msg]))
  · rw [if_pos rfl] at hc
    exact (h2 0x2096 x.ss (by decide) (by decide) hss).trans hc

omit hss in
theorem message_stays (hon : targetOffline s.dev (.wedge (n / 16) (n % 16)) = false) (hfull : 4 ≤ (tget [] (s.dev.wedge n).inbox (opposite dir)).length) :
    exec (.haloAppend tile dir) s = .next s := by
  rw [exec_haloAppend, haloAppendOp_of_message hx hst hm hn, if_neg (by rw [hon]; decide), if_pos hfull, State.on_self]

theorem message_discarded (hoff : targetOffline s.dev (.wedge (n / 16) (n % 16)) = true) : ∃ t, exec (.haloAppend tile dir) s = .next t ∧
    (t.dev.wedge n).inbox = (s.dev.wedge n).inbox ∧ counterOf t.dev 0x2097 x.ss = counterOf s.dev 0x2097 x.ss + tget 0 x.haloN dir := by
  have hc := s.dev.counted_count 0x2097 x.ss (tget 0 x.haloN dir) (odKey 0x2097 x.ss)
  rw [if_pos rfl] at hc
  refine ⟨_, exec_haloAppend .., ?_⟩
  simp only [State.on_dev]
  rw [haloAppendOp_of_message hx hst hm hn, if_pos hoff]
  generalize hd : (if x.haloLost then s.dev.count 0x2097 x.ss (tget 0 x.haloN dir)
    else (s.dev.count 0x2097 x.ss (tget 0 x.haloN dir)).post evHaloLost (issuerHub x.issuer) (issuerTarget x.issuer) []) = d
  have hsame : d.tiles = s.dev.tiles ∧ (d.wedge n).inbox = (s.dev.wedge n).inbox ∧
      counterOf d 0x2097 x.ss = counterOf s.dev 0x2097 x.ss + tget 0 x.haloN dir := by
    rw [← hd]
    split
    · exact ⟨rfl, rfl, hc⟩
    · exact ⟨rfl, rfl, hc⟩
  have hx' : d.tileOf tile = some x := by rw [Dev.tileOf, hsame.1]; exact hx
  obtain ⟨h1, h2, -⟩ := messageGone_left (dir := dir) (fun x => { x with haloLost := true }) (fun _ => ⟨rfl, rfl, rfl⟩) hx' hss
  exact ⟨(h1 n).trans hsame.2.1, (h2 0x2097 x.ss (by decide) (by decide) hss).trans hsame.2.2⟩

end

/-- A tile that has read the inbox of a direction. -/
def Tile.haloSeen (x : Tile) (dir : Nat) : Tile :=
  { x with haloRead := x.haloRead.filter (· ≠ dir) ++ [dir], haloGone := x.haloGone.filter (· ≠ dir) }

theorem message_read {s : State} {tile dir : Nat} {x : Tile} (hx : s.dev.tileOf tile = some x) (hst : x.stage = .issued)
    (hn : (neighbour x.issuer dir).isSome = true) (hi : tget [] (s.dev.wedge x.issuer).inbox dir ≠ []) (hr : dir ∉ x.haloRead ∨ dir ∈ x.haloGone) :
    ∃ t, exec (.haloRead tile dir) s = .next t ∧ t = s.on { s.dev with tiles := t.dev.tiles } ∧
      t.dev.tileOf tile = some { x with haloRead := x.haloRead.filter (· ≠ dir) ++ [dir], haloGone := x.haloGone.filter (· ≠ dir) } := by
  have hop : haloReadOp tile dir s.dev = s.dev.modTile tile fun x => x.haloSeen dir := by
    unfold haloReadOp
    rw [hx]
    refine if_pos ⟨hst, hn, hi, hr.imp (fun h => ?_) fun h => ?_⟩
    · simpa using h
    · simpa using h
  refine ⟨_, exec_haloRead .., ?_⟩
  rw [hop]
  exact ⟨rfl, tileOf_modTile_same hx fun _ => rfl⟩

theorem message_timed_out {s : State} {tile waited dir : Nat} {x : Tile} (hx : s.dev.tileOf tile = some x) (hst : x.stage = .issued)
    (hd : readsDir s.variant s.dev x dir = true) (hdir : dir < 4) (hn : (neighbour x.issuer dir).isSome = true)
    (hi : tget [] (s.dev.wedge x.issuer).inbox dir = []) (hr : dir ∉ x.haloRead ∨ dir ∈ x.haloGone) (hw : x.haloTo < waited) :
    ∃ t, exec (.haloTimeout tile waited) s = .next t ∧ t = s.on t.dev ∧ TileFailed s.dev t.dev x stHaloTimeout ∧ Counted s.dev t.dev 0x2098 x.ss 1 := by
  have hop : haloTimeoutOp s.variant tile waited s.dev = (failTile x stHaloTimeout s.dev).count 0x2098 x.ss 1 := by
    unfold haloTimeoutOp
    rw [hx]
    refine if_pos ⟨hst, List.any_eq_true.mpr ⟨dir, List.mem_range.mpr hdir, ?_⟩, hw⟩
    rw [hn, hi, hd]
    simpa using hr
  have hf := tileFailed_failTile x stHaloTimeout s.dev
  have hc := failTile_ctr x stHaloTimeout s.dev
  refine ⟨_, exec_haloTimeout .., ?_⟩
  rw [hop]
  simp only [State.on_dev]
  generalize failTile x stHaloTimeout s.dev = f at hf hc ⊢
  refine ⟨trivial, TileFailed.told hf rfl, fun k => ?_⟩
  rw [← hc]
  exact f.counted_count 0x2098 x.ss 1 k

/-- Settles O20: a message by its neighbour and the room there, a read and a timeout each by its operation. -/
theorem haloMessagesExchanged : Obligations.HaloMessagesExchanged :=
  ⟨fun _ _ _ _ _ _ hx hst hm hn hss => ⟨fun hon hroom => message_goes hx hst hm hn hss hon hroom, fun hon hfull => message_stays hx hst hm hn hon hfull,
     fun hoff => message_discarded hx hst hm hn hss hoff⟩,
   fun _ _ _ _ hx hst hn hi hr => message_read hx hst hn hi hr,
   fun _ _ _ _ _ hx hst hd hdir hn hi hr hw => message_timed_out hx hst hd hdir hn hi hr hw⟩

end Sys2Proof.Machine

/-!
PROOFS for counter records and claims (R245, R248, R253 to R255, R262): the atomics of a record, the claims and sweep claims of an issuer.
-/
namespace Sys2Proof.Machine

open Sys2Proof

/-! ### Fields of a record -/

/-- A number with the bits from `lo` to `hi` replaced. -/
def withBits (n hi lo v : Nat) : Nat := n - bitsOf n hi lo * 2 ^ lo + v % 2 ^ (hi + 1 - lo) * 2 ^ lo

theorem withBits_eq {n hi lo : Nat} (h : lo ≤ hi + 1) (v : Nat) : withBits n hi lo v =
    n / 2 ^ (hi + 1) * 2 ^ (hi + 1) + (v % 2 ^ (hi + 1 - lo) * 2 ^ lo + n % 2 ^ lo) := by
  have hpow : 2 ^ (hi + 1) = 2 ^ (hi + 1 - lo) * 2 ^ lo := by rw [← pow_add, Nat.sub_add_cancel h]
  have hdiv : n / 2 ^ (hi + 1) = n / 2 ^ lo / 2 ^ (hi + 1 - lo) := by rw [Nat.div_div_eq_div_mul, hpow, Nat.mul_comm]
  have h1 : n = n / 2 ^ lo * 2 ^ lo + n % 2 ^ lo := by rw [Nat.mul_comm]; exact (Nat.div_add_mod n _).symm
  have h2 : n / 2 ^ lo = n / 2 ^ (hi + 1) * 2 ^ (hi + 1 - lo) + n / 2 ^ lo % 2 ^ (hi + 1 - lo) := by
    rw [hdiv, Nat.mul_comm]
    exact (Nat.div_add_mod (n / 2 ^ lo) _).symm
  have hb : bitsOf n hi lo = n / 2 ^ lo % 2 ^ (hi + 1 - lo) := by rw [bitsOf, Nat.shiftRight_eq_div_pow]
  rw [withBits, hb]
  generalize hA : n / 2 ^ (hi + 1) = A at h2 ⊢
  generalize n / 2 ^ lo % 2 ^ (hi + 1 - lo) = B at h2 ⊢
  generalize n % 2 ^ lo = C at h1 ⊢
  generalize v % 2 ^ (hi + 1 - lo) = V
  rw [h2] at h1
  rw [hpow]
  generalize 2 ^ lo = L at h1 ⊢
  generalize 2 ^ (hi + 1 - lo) = M at h1 ⊢
  have h3 : n = A * (M * L) + B * L + C := by rw [h1]; ring
  rw [h3, Nat.add_right_comm, Nat.add_sub_cancel]
  ring

theorem withBits_lt {n hi lo k : Nat} (h : lo ≤ hi + 1) (hk : hi < k) (hn : n < 2 ^ k) (v : Nat) : withBits n hi lo v < 2 ^ k := by
  have hpow : 2 ^ (hi + 1) = 2 ^ (hi + 1 - lo) * 2 ^ lo := by rw [← pow_add, Nat.sub_add_cancel h]
  have hlow : v % 2 ^ (hi + 1 - lo) * 2 ^ lo + n % 2 ^ lo < 2 ^ (hi + 1) := by
    have h1 := Nat.mod_lt v (Nat.two_pow_pos (hi + 1 - lo))
    have h2 := Nat.mod_lt n (Nat.two_pow_pos lo)
    rw [hpow]
    calc v % 2 ^ (hi + 1 - lo) * 2 ^ lo + n % 2 ^ lo < v % 2 ^ (hi + 1 - lo) * 2 ^ lo + 2 ^ lo := by omega
      _ = (v % 2 ^ (hi + 1 - lo) + 1) * 2 ^ lo := by ring
      _ ≤ 2 ^ (hi + 1 - lo) * 2 ^ lo := Nat.mul_le_mul_right _ h1
  have hk' : 2 ^ k = 2 ^ (k - (hi + 1)) * 2 ^ (hi + 1) := by rw [← pow_add, Nat.sub_add_cancel hk]
  have hhigh : n / 2 ^ (hi + 1) < 2 ^ (k - (hi + 1)) := by
    rw [Nat.div_lt_iff_lt_mul (Nat.two_pow_pos _), ← hk']
    exact hn
  rw [withBits_eq h, hk']
  calc n / 2 ^ (hi + 1) * 2 ^ (hi + 1) + (v % 2 ^ (hi + 1 - lo) * 2 ^ lo + n % 2 ^ lo)
      < n / 2 ^ (hi + 1) * 2 ^ (hi + 1) + 2 ^ (hi + 1) := by omega
    _ = (n / 2 ^ (hi + 1) + 1) * 2 ^ (hi + 1) := by ring
    _ ≤ 2 ^ (k - (hi + 1)) * 2 ^ (hi + 1) := Nat.mul_le_mul_right _ hhigh

/-- The bits written read back. -/
theorem bitsOf_withBits {n hi lo : Nat} (h : lo ≤ hi + 1) (v : Nat) : bitsOf (withBits n hi lo v) hi lo = v % 2 ^ (hi + 1 - lo) := by
  have hpow : 2 ^ (hi + 1) = 2 ^ (hi + 1 - lo) * 2 ^ lo := by rw [← pow_add, Nat.sub_add_cancel h]
  have hsum : withBits n hi lo v = (n / 2 ^ (hi + 1) * 2 ^ (hi + 1 - lo) + v % 2 ^ (hi + 1 - lo)) * 2 ^ lo + n % 2 ^ lo := by
    rw [withBits_eq h, hpow]
    ring
  rw [bitsOf, Nat.shiftRight_eq_div_pow, hsum, Nat.add_comm, Nat.add_mul_div_right _ _ (Nat.two_pow_pos lo),
    Nat.div_eq_of_lt (Nat.mod_lt n (Nat.two_pow_pos lo)), Nat.zero_add, Nat.add_comm, Nat.add_mul_mod_self_right, Nat.mod_mod]

theorem sreadNat_lt (d : Dev) (code a n : Nat) : d.sreadNat code a n < 2 ^ (8 * n) := by
  have h := leNat_lt (d.sread code a n)
  rw [Dev.sread, mread_length] at h
  rw [Dev.sreadNat, Dev.sread, pow_mul]
  exact h

theorem sreadNat_swriteNat (d : Dev) (code a n v : Nat) (h : v < 256 ^ n) : (d.swriteNat code a n v).sreadNat code a n = v := by
  have hread : (d.swriteNat code a n v).sread code a n = toLe n v := by
    have h := mread_mwrite (toLe n v) d.spad (spadAddr code a)
    rwa [length_toLe] at h
  rw [Dev.sreadNat, hread, leNat_toLe n v h]

/-- An atomic of a field of a record: what it leaves. -/
theorem ctrField_ctrAtomic (d : Dev) (c : CtrEntry) {hi lo : Nat} (h : lo ≤ hi + 1) (hk : hi < 512) (v : Nat) :
    ctrField (ctrAtomic d c hi lo v) c.home c.addr hi lo = v % 2 ^ (hi + 1 - lo) := by
  have hn := sreadNat_lt d c.home c.addr 64
  have hlt : withBits (d.sreadNat c.home c.addr 64) hi lo v < 256 ^ 64 := by
    have hb := withBits_lt (k := 8 * 64) h hk hn v
    rwa [pow_mul] at hb
  have hread : (ctrAtomic d c hi lo v).sreadNat c.home c.addr 64 = withBits (d.sreadNat c.home c.addr 64) hi lo v :=
    sreadNat_swriteNat d c.home c.addr 64 (withBits (d.sreadNat c.home c.addr 64) hi lo v) hlt
  rw [ctrField, hread, bitsOf_withBits h]

theorem ctrAtomic_frame (d : Dev) (c : CtrEntry) (hi lo v : Nat) :
    ctrAtomic d c hi lo v = { d with spad := (ctrAtomic d c hi lo v).spad, ctr := (ctrAtomic d c hi lo v).ctr } := rfl

theorem counted_ctrAtomic (d : Dev) (c : CtrEntry) (hi lo v : Nat) : Counted d (ctrAtomic d c hi lo v) 0x3042 (issuerSs c.home) 1 :=
  Dev.counted_count (ctrSet d c.home c.addr hi lo v) 0x3042 (issuerSs c.home) 1

theorem settleClear_frame (code : Nat) (d : Dev) :
    settleClear code d = { d with spad := (settleClear code d).spad, banks := (settleClear code d).banks } := by
  unfold settleClear
  dsimp only
  split <;> rfl

/-! ### An issuer's state in its job -/

theorem issuerJob_mem {d : Dev} {code : Nat} {j : Job} {i : IssState} (h : issuerJob d code = some (j, i)) :
    j ∈ d.jobs ∧ i ∈ j.iss ∧ i.issuer = code := by
  obtain ⟨j', hj', hsome⟩ := List.exists_of_findSome?_eq_some h
  split at hsome
  · obtain ⟨i', hi', heq⟩ := Option.map_eq_some_iff.mp hsome
    cases heq
    have hp := List.find?_some (p := fun s : IssState => s.issuer = code && (decide (code < 0x8000) || s.run != [])) hi'
    exact ⟨hj', List.mem_of_find?_eq_some hi', of_decide_eq_true (Bool.and_eq_true_iff.mp hp).1⟩
  · cases hsome

/-- An issuer's states changed in its job: every state of it there is a changed one. -/
theorem modIss_mem {d : Dev} {job code : Nat} {f : IssState → IssState} {y : Job}
    (hy : y ∈ (modIss job code f d).jobs) (hid : y.id = job) {x : IssState} (hx : x ∈ y.iss) (hc : x.issuer = code) :
    ∃ z ∈ d.jobs, z.id = job ∧ ∃ i ∈ z.iss, i.issuer = code ∧ x = f i := by
  obtain ⟨z, hz, rfl⟩ := List.mem_map.mp hy
  by_cases hzj : z.id = job
  · rw [if_pos hzj] at hx
    obtain ⟨i, hi, rfl⟩ := List.mem_map.mp hx
    by_cases hic : i.issuer = code
    · exact ⟨z, hz, hzj, i, hi, hic, if_pos hic⟩
    · rw [if_neg hic] at hc
      exact absurd hc hic
  · rw [if_neg hzj] at hid
    exact absurd hid hzj

theorem modIss_exists {d : Dev} {code : Nat} {j : Job} {i : IssState} (hj : j ∈ d.jobs) (hi : i ∈ j.iss) (hc : i.issuer = code)
    (f : IssState → IssState) : ∃ y ∈ (modIss j.id code f d).jobs, ∃ x ∈ y.iss, y.id = j.id ∧ x = f i := by
  refine ⟨j.modIss code f, List.mem_map.mpr ⟨j, hj, if_pos rfl⟩, f i, List.mem_map.mpr ⟨i, hi, if_pos hc⟩, rfl, rfl⟩

theorem failJob_frame (j : Nat) (status : BitVec 8) (detail issuer index : Nat) (d : Dev) :
    failJob j status detail issuer index d = { d with jobs := (failJob j status detail issuer index d).jobs } := rfl

/-- A job that fails keeps its first failure (R242). -/
theorem jobFails_failJob {d e : Dev} (hd : e.jobs = d.jobs) (j : Nat) (status : BitVec 8) (issuer index : Nat) :
    JobFails d (failJob j status 0 issuer index e) j status := by
  intro y hy hid
  rw [failJob_jobs] at hy
  obtain ⟨z, hz, rfl⟩ := List.mem_map.mp hy
  by_cases hzj : z.id = j
  · rw [if_pos hzj]
    refine ⟨rfl, _, rfl, ?_⟩
    cases hf : z.fail with
    | none => exact Or.inl rfl
    | some f => exact Or.inr ⟨z, hd ▸ hz, hzj, hf⟩
  · rw [if_neg hzj] at hid
    exact absurd hid hzj

/-! ### Claims (R245, R248, R262) -/

theorem exec_workClaim (s : State) (code : Nat) : exec (.workClaim code) s = .next (s.on (workClaimOp code s.dev)) := rfl

theorem exec_sweepClaim (s : State) (code : Nat) : exec (.sweepClaim code) s = .next (s.on (sweepClaimOp code s.dev)) := rfl

theorem exec_issuerRejoin (s : State) (code : Nat) : exec (.issuerRejoin code) s = .next (s.on (issuerRejoinOp code s.dev)) := rfl

theorem exec_homeSweepByC0 (s : State) (job ctr : Nat) : exec (.homeSweepByC0 job ctr) s = .next (s.on (homeSweepOp job ctr s.dev)) := rfl

/-- The positions of a claim lie in its grain, below the raw count. -/
theorem realPositions_bounds {d : Dev} {a : AtInst} {p n q : Nat} (h : q ∈ realPositions d a p n) : p ≤ q ∧ q < p + n ∧ q < ctrRaw d a.c := by
  obtain ⟨hmem, hp⟩ := List.mem_filter.mp h
  obtain ⟨i, hi, rfl⟩ := List.mem_map.mp hmem
  have hi := List.mem_range.mp hi
  have hraw := of_decide_eq_true (Bool.and_eq_true_iff.mp hp).1
  exact ⟨by omega, by omega, hraw⟩

/-- A field's atomic at a record's home, after the clear that a wake owes the home's scratchpad. -/
structure Claimed (hi lo v : Nat) (c : CtrEntry) (d e : Dev) : Prop where
  frame : e = { d with spad := e.spad, banks := e.banks, ctr := e.ctr }
  field : ctrField e c.home c.addr hi lo = v % 2 ^ (hi + 1 - lo)
  ctr : Counted d e 0x3042 (issuerSs c.home) 1

theorem claimed_ctrAtomic (d : Dev) (c : CtrEntry) {hi lo : Nat} (h : lo ≤ hi + 1) (hk : hi < 512) (v : Nat) :
    Claimed hi lo v c d (ctrAtomic (settleClear c.home d) c hi lo v) := by
  have hs := settleClear_frame c.home d
  generalize settleClear c.home d = f at hs ⊢
  have hctr : f.ctr = d.ctr := by rw [hs]
  exact ⟨by rw [ctrAtomic_frame, hs], ctrField_ctrAtomic f c h hk v, fun k => by rw [← hctr]; exact counted_ctrAtomic f c hi lo v k⟩

/-- An issuer past the raw count, to sweep. -/
def IssState.toSweep (i : IssState) : IssState := { i with stage := .sweep, held := false }

/-- An issuer that has claimed positions of a pass. -/
def IssState.passTaken (i : IssState) (qs : List Nat) : IssState := { i with run := qs, lead := 0, due := false, swept := true, held := false }

/-- An issuer back in service. -/
def IssState.rejoined (i : IssState) : IssState := { i with lost := false, run := [], lead := 0, due := false, swept := false, held := false }

section
variable {s : State} {code : Nat} {j : Job} {i : IssState} {a : AtInst} (hj : issuerJob s.dev code = some (j, i))
  (ha : atInst s.dev j i = some a) (hm : mayAct s.dev j i = true)
include hj ha hm

/-- A claim of an issuer whose home runs and whose group is not held: what it does by the matrices and the raw count. -/
theorem workClaimOp_of_claims (hon : issuerOffline s.dev a.c.home = false) (hsw : swapHolds s.dev a = false) (hst : i.stage = .claim)
    (hrun : i.run = [] ∨ i.due = true) : workClaimOp code s.dev =
    if !matsActive s.dev a then failJob j.id stMatrixInactive 0 a.issuer a.pc
      (ctrAtomic (settleClear a.c.home s.dev) a.c 63 0 (ctrNext (settleClear a.c.home s.dev) a.c + grainOf a.sh.grain))
    else if ctrRaw (settleClear a.c.home s.dev) a.c ≤ ctrNext (settleClear a.c.home s.dev) a.c then
      modIss j.id code IssState.toSweep
        (ctrAtomic (settleClear a.c.home s.dev) a.c 63 0 (ctrNext (settleClear a.c.home s.dev) a.c + grainOf a.sh.grain))
    else (modIss j.id code (fun s' => s'.claimed
        (realPositions (settleClear a.c.home s.dev) a (ctrNext (settleClear a.c.home s.dev) a.c) (grainOf a.sh.grain)))
      (ctrAtomic (settleClear a.c.home s.dev) a.c 63 0 (ctrNext (settleClear a.c.home s.dev) a.c + grainOf a.sh.grain))).count 0x2091
        (issuerSs code) (inRaw (settleClear a.c.home s.dev) a (ctrNext (settleClear a.c.home s.dev) a.c) (grainOf a.sh.grain) -
          (realPositions (settleClear a.c.home s.dev) a (ctrNext (settleClear a.c.home s.dev) a.c) (grainOf a.sh.grain)).length) := by
  have hmats : matsActive (settleClear a.c.home s.dev) a = matsActive s.dev a := by
    rw [settleClear_frame]
    rfl
  unfold workClaimOp
  rw [hj]
  dsimp only
  rw [ha]
  dsimp only
  rw [if_pos ⟨hst, hrun, hm⟩, if_neg (by rw [hon]; decide), if_neg (by rw [hsw]; decide), hmats]
  rfl

theorem work_claimed (hcode : code < 0x8000) (hon : issuerOffline s.dev a.c.home = false) (hsw : swapHolds s.dev a = false) :
    let d0 := settleClear a.c.home s.dev
    let p := ctrNext d0 a.c
    let n := grainOf a.sh.grain
    i.stage = .claim → (i.run = [] ∨ i.due = true) → p + n < 2 ^ 64 →
      ∃ t, exec (.workClaim code) s = .next t ∧
        t = s.on { s.dev with spad := t.dev.spad, banks := t.dev.banks, jobs := t.dev.jobs, ctr := t.dev.ctr } ∧
        ctrNext t.dev a.c = p + n ∧
        counterOf t.dev 0x3042 (issuerSs a.c.home) = counterOf s.dev 0x3042 (issuerSs a.c.home) + 1 ∧
        (matsActive s.dev a = false → JobFails s.dev t.dev j.id stMatrixInactive) ∧
        (matsActive s.dev a = true → ctrRaw d0 a.c ≤ p →
          ∀ y ∈ t.dev.jobs, y.id = j.id → ∀ x ∈ y.iss, x.issuer = code → x.stage = .sweep) ∧
        (matsActive s.dev a = true → p < ctrRaw d0 a.c →
          (let qs := realPositions d0 a p n
           (∀ q ∈ qs, p ≤ q ∧ q < p + n ∧ q < ctrRaw d0 a.c) ∧
           (∃ y ∈ t.dev.jobs, ∃ x ∈ y.iss, y.id = j.id ∧ x = i.claimed qs) ∧
           counterOf t.dev 0x2091 (issuerSs code) =
             counterOf s.dev 0x2091 (issuerSs code) + (inRaw d0 a p n - qs.length))) := by
  intro d0 p n hst hrun hpn
  obtain ⟨hjm, him, hic⟩ := issuerJob_mem hj
  have hcl := claimed_ctrAtomic s.dev a.c (hi := 63) (lo := 0) (by decide) (by decide) (p + n)
  have hop := workClaimOp_of_claims hj ha hm hon hsw hst hrun
  change workClaimOp code s.dev = if !matsActive s.dev a then failJob j.id stMatrixInactive 0 a.issuer a.pc (ctrAtomic d0 a.c 63 0 (p + n))
    else if ctrRaw d0 a.c ≤ p then modIss j.id code IssState.toSweep (ctrAtomic d0 a.c 63 0 (p + n))
    else (modIss j.id code (fun s' => s'.claimed (realPositions d0 a p n)) (ctrAtomic d0 a.c 63 0 (p + n))).count 0x2091 (issuerSs code)
      (inRaw d0 a p n - (realPositions d0 a p n).length) at hop
  refine ⟨_, exec_workClaim s code, ?_⟩
  simp only [State.on_dev]
  rw [hop]
  generalize ctrAtomic d0 a.c 63 0 (p + n) = e at hcl ⊢
  obtain ⟨hfr, hfield, hcnt⟩ := hcl
  have hjobs : e.jobs = s.dev.jobs := by rw [hfr]
  rw [Nat.mod_eq_of_lt hpn] at hfield
  have hhome := hcnt (odKey 0x3042 (issuerSs a.c.home))
  rw [if_pos rfl] at hhome
  have hfar : odKey 0x2091 (issuerSs code) < odKey 0x3042 (issuerSs a.c.home) := by
    unfold odKey issuerSs ssHub ssFacet issuerHub
    split <;> omega
  cases hma : matsActive s.dev a with
  | false =>
    rw [if_pos (by rfl)]
    refine ⟨congrArg s.on ?_, hfield, hhome, fun _ => jobFails_failJob hjobs j.id stMatrixInactive a.issuer a.pc, fun h => absurd h Bool.false_ne_true,
      fun h => absurd h Bool.false_ne_true⟩
    rw [failJob_frame, hfr]
  | true =>
    rw [if_neg (by rw [Bool.not_true]; exact Bool.false_ne_true)]
    by_cases hraw : ctrRaw d0 a.c ≤ p
    · rw [if_pos hraw]
      refine ⟨congrArg s.on ?_, hfield, hhome, fun h => absurd h (by decide), fun _ _ y hy hid x hx hc => ?_, fun _ h => by omega⟩
      · rw [modIss, Dev.modJob, hfr]
      · obtain ⟨-, -, -, i', -, -, rfl⟩ := modIss_mem hy hid hx hc
        rfl
    · rw [if_neg hraw]
      refine ⟨congrArg s.on ?_, hfield, ?_, fun h => absurd h (by decide), fun _ h => absurd h hraw, fun _ _ => ⟨fun q hq => realPositions_bounds hq, ?_, ?_⟩⟩
      · rw [Dev.count, modIss, Dev.modJob, hfr]
      · rw [counterOf, Dev.counted_count _ 0x2091, if_neg (by omega)]
        exact hhome
      · exact modIss_exists (d := e) (hjobs ▸ hjm) him hic _
      · rw [counterOf, Dev.counted_count _ 0x2091, if_pos rfl]
        have h := hcnt (odKey 0x2091 (issuerSs code))
        rw [if_neg (by omega), Nat.add_zero] at h
        exact congrArg (· + _) h

theorem sweep_moves_on (hst : i.stage = .sweep) (hrun : i.run = []) (how : sweepOwed s.dev j a = false) :
    ∃ t, exec (.sweepClaim code) s = .next t ∧ t = s.on { s.dev with jobs := t.dev.jobs } ∧
      ∃ y ∈ t.dev.jobs, ∃ x ∈ y.iss, y.id = j.id ∧ x.issuer = i.issuer ∧ x.pc = i.pc + 1 ∧ x.run = [] ∧
        (x.stage = .start ∨ x.stage = .finished) := by
  obtain ⟨hjm, him, hic⟩ := issuerJob_mem hj
  have hop : sweepClaimOp code s.dev = modIss j.id code (fun _ => nextInst s.dev j i) s.dev := by
    unfold sweepClaimOp
    rw [hj]
    dsimp only
    rw [ha]
    dsimp only
    rw [if_pos ⟨hst, hrun, hm⟩, if_pos (by rw [how]; rfl)]
  refine ⟨_, exec_sweepClaim s code, ?_⟩
  rw [hop]
  obtain ⟨y, hy, x, hx, hid, rfl⟩ := modIss_exists hjm him hic fun _ => nextInst s.dev j i
  refine ⟨rfl, y, hy, _, hx, hid, rfl, rfl, rfl, ?_⟩
  unfold nextInst
  dsimp only
  split
  · exact Or.inl rfl
  · exact Or.inr rfl

end

/-- The positions that a sweep claim takes (R253). -/
def passPositions (a : AtInst) (d0 d : Dev) : List Nat :=
  if matsActive d a = false ∨ passRaw d0 a ≤ ctrSweep d0 a.c % passLen d0 a then []
  else realPositions d0 a (ctrSweep d0 a.c % passLen d0 a) (grainOf a.sh.grain)

theorem matsActive_settleClear (home : Nat) (d : Dev) (a : AtInst) : matsActive (settleClear home d) a = matsActive d a := by
  rw [settleClear_frame]
  rfl

/-- The record's sweep cursor raised by a grain (R253). -/
def cursorRaised (a : AtInst) (d : Dev) : Dev :=
  ctrAtomic (settleClear a.c.home d) a.c 127 64 (ctrSweep (settleClear a.c.home d) a.c + grainOf a.sh.grain)

theorem sweepTake_of_inactive {j : Job} {a : AtInst} {d : Dev} (h : matsActive d a = false) :
    sweepTake j a d = ([], failJob j.id stMatrixInactive 0 a.issuer a.pc (cursorRaised a d)) := by
  have hm := matsActive_settleClear a.c.home d a
  rw [h] at hm
  exact if_pos (by rw [hm]; rfl)

theorem sweepTake_of_active {j : Job} {a : AtInst} {d : Dev} (h : matsActive d a = true) :
    sweepTake j a d = (passPositions a (settleClear a.c.home d) d, cursorRaised a d) := by
  have hm := matsActive_settleClear a.c.home d a
  rw [h] at hm
  refine (if_neg (by rw [hm]; decide)).trans ?_
  by_cases hoff : passRaw (settleClear a.c.home d) a ≤ ctrSweep (settleClear a.c.home d) a.c % passLen (settleClear a.c.home d) a
  · have hp : passPositions a (settleClear a.c.home d) d = [] := if_pos (Or.inr hoff)
    rw [hp]
    exact if_pos hoff
  · have hp : passPositions a (settleClear a.c.home d) d = realPositions (settleClear a.c.home d) a
        (ctrSweep (settleClear a.c.home d) a.c % passLen (settleClear a.c.home d) a) (grainOf a.sh.grain) :=
      if_neg fun hh => Or.elim hh (fun hf => by rw [h] at hf; cases hf) hoff
    rw [hp]
    exact if_neg hoff

theorem claimed_cursorRaised (a : AtInst) (d : Dev) :
    Claimed 127 64 (ctrSweep (settleClear a.c.home d) a.c + grainOf a.sh.grain) a.c d (cursorRaised a d) :=
  claimed_ctrAtomic d a.c (by decide) (by decide) _

theorem ctrSweep_cursorRaised {a : AtInst} {d : Dev} (h : ctrSweep (settleClear a.c.home d) a.c + grainOf a.sh.grain < 2 ^ 64) :
    ctrSweep (cursorRaised a d) a.c = ctrSweep (settleClear a.c.home d) a.c + grainOf a.sh.grain := by
  have hfield := (claimed_cursorRaised a d).field
  have hpow : 2 ^ (127 + 1 - 64) = 2 ^ 64 := rfl
  rw [hpow, Nat.mod_eq_of_lt h] at hfield
  exact hfield

/-- What a sweep claim leaves of the block: the record, the home's clear, the job and the counters. -/
structure CursorMoved (a : AtInst) (d e : Dev) : Prop where
  frame : e = { d with spad := e.spad, banks := e.banks, jobs := e.jobs, ctr := e.ctr }
  cursor : ctrSweep e a.c = ctrSweep (settleClear a.c.home d) a.c + grainOf a.sh.grain
  jobs : ∀ z ∈ d.jobs, ∃ y ∈ e.jobs, y.id = z.id

theorem cursorMoved_cursorRaised {a : AtInst} {d : Dev} (h : ctrSweep (settleClear a.c.home d) a.c + grainOf a.sh.grain < 2 ^ 64) :
    CursorMoved a d (cursorRaised a d) := by
  have hsweep := ctrSweep_cursorRaised h
  have hfr := (claimed_cursorRaised a d).frame
  generalize cursorRaised a d = e at hsweep hfr ⊢
  have hjobs : e.jobs = d.jobs := by rw [hfr]
  exact ⟨by rw [hfr], hsweep, fun z hz => ⟨z, hjobs ▸ hz, rfl⟩⟩

theorem CursorMoved.failJob {a : AtInst} {d e : Dev} (h : CursorMoved a d e) (j : Nat) (status : BitVec 8) (issuer index : Nat) :
    CursorMoved a d (failJob j status 0 issuer index e) := by
  obtain ⟨h1, h2, h3⟩ := h
  refine ⟨by rw [failJob_frame, h1], h2, fun z hz => ?_⟩
  obtain ⟨y, hy, hid⟩ := h3 z hz
  rw [failJob_jobs]
  refine ⟨_, List.mem_map.mpr ⟨y, hy, rfl⟩, ?_⟩
  split
  · exact hid
  · exact hid

/-- A sweep claim: the cursor raised, the positions taken, the job perhaps failed. -/
theorem sweepTake_taken (j : Job) (a : AtInst) (d : Dev) (hlt : ctrSweep (settleClear a.c.home d) a.c + grainOf a.sh.grain < 2 ^ 64) :
    ∃ e, sweepTake j a d = (passPositions a (settleClear a.c.home d) d, e) ∧ CursorMoved a d e := by
  have hmoved := cursorMoved_cursorRaised hlt
  cases hma : matsActive d a with
  | false =>
    have hp : passPositions a (settleClear a.c.home d) d = [] := if_pos (Or.inl hma)
    exact ⟨_, (sweepTake_of_inactive hma).trans (by rw [hp]), hmoved.failJob ..⟩
  | true => exact ⟨_, sweepTake_of_active hma, hmoved⟩

theorem sweep_claimed {s : State} {code : Nat} {j : Job} {i : IssState} {a : AtInst} (hj : issuerJob s.dev code = some (j, i))
    (ha : atInst s.dev j i = some a) (hm : mayAct s.dev j i = true) (hon : issuerOffline s.dev a.c.home = false) (hsw : swapHolds s.dev a = false)
    (hst : i.stage = .sweep) (hrun : i.run = []) (how : sweepOwed s.dev j a = true)
    (hlt : ctrSweep (settleClear a.c.home s.dev) a.c + grainOf a.sh.grain < 2 ^ 64) :
    ∃ t, exec (.sweepClaim code) s = .next t ∧ ctrSweep t.dev a.c = ctrSweep (settleClear a.c.home s.dev) a.c + grainOf a.sh.grain ∧
      t = s.on { s.dev with spad := t.dev.spad, banks := t.dev.banks, jobs := t.dev.jobs, ctr := t.dev.ctr } ∧
      ∀ y ∈ t.dev.jobs, y.id = j.id → ∀ x ∈ y.iss, x.issuer = code → x.swept = true ∧ x.run = passPositions a (settleClear a.c.home s.dev) s.dev := by
  have hop : sweepClaimOp code s.dev = modIss j.id code (fun s' => s'.passTaken (sweepTake j a s.dev).1) (sweepTake j a s.dev).2 := by
    unfold sweepClaimOp
    rw [hj]
    dsimp only
    rw [ha]
    dsimp only
    rw [if_pos ⟨hst, hrun, hm⟩, if_neg (by rw [how]; decide), if_neg (by rw [hon]; decide), if_neg (by rw [hsw]; decide)]
    rfl
  obtain ⟨e, h1, h2, h3, -⟩ := sweepTake_taken j a s.dev hlt
  refine ⟨_, exec_sweepClaim s code, ?_⟩
  simp only [State.on_dev]
  rw [hop, h1]
  dsimp only
  refine ⟨h3, congrArg s.on (by rw [modIss, Dev.modJob, h2]), fun y hy hid x hx hc => ?_⟩
  obtain ⟨-, -, -, i', -, -, rfl⟩ := modIss_mem hy hid hx hc
  exact ⟨rfl, rfl⟩

theorem issuer_rejoins {s : State} {code : Nat} {j : Job} {i : IssState} (hj : issuerJob s.dev code = some (j, i)) (hl : i.lost = true)
    (hon : issuerOffline s.dev code = false) : ∃ t, exec (.issuerRejoin code) s = .next t ∧ t = s.on { s.dev with jobs := t.dev.jobs } ∧
      ∀ y ∈ t.dev.jobs, y.id = j.id → ∀ x ∈ y.iss, x.issuer = code → x.lost = false ∧ x.run = [] := by
  have hop : issuerRejoinOp code s.dev = modIss j.id code IssState.rejoined s.dev := by
    unfold issuerRejoinOp
    rw [hj]
    exact if_pos ⟨hl, hon⟩
  refine ⟨_, exec_issuerRejoin s code, ?_⟩
  rw [hop]
  refine ⟨rfl, fun y hy hid x hx hc => ?_⟩
  obtain ⟨-, -, -, i', -, -, rfl⟩ := modIss_mem hy hid hx hc
  exact ⟨rfl, rfl⟩

theorem home_sweeps {s : State} {job ctr : Nat} {j : Job} {g : Program} {a : AtInst} (hj : s.dev.jobOf job = some j)
    (hg : s.dev.progOf j.prog = some g) (ha : atInst s.dev j (homeSlot ctr) = some a) (hrun : j.stage = .running) (hh : j.halted = false)
    (hfree : (j.iss.find? (fun x => x.issuer = 0x8000 + ctr)).elim true (fun x => x.run.isEmpty) = true)
    (hno : noSharerLeft s.dev j g ctr = true) (hrd : ctrReady s.dev a.c = true) (hc : ctrComplete s.dev a.c = false)
    (hd : ctrDead s.dev a.c = false) (how : sweepOwed s.dev j a = true) (hir : issuerRuns s.dev (actorOf s.dev j (homeSlot ctr)) = true)
    (hsw : swapHolds s.dev a = false) (hlt : ctrSweep (settleClear a.c.home s.dev) a.c + grainOf a.sh.grain < 2 ^ 64) :
    ∃ t, exec (.homeSweepByC0 job ctr) s = .next t ∧ ctrSweep t.dev a.c = ctrSweep (settleClear a.c.home s.dev) a.c + grainOf a.sh.grain ∧
      t = s.on { s.dev with spad := t.dev.spad, banks := t.dev.banks, jobs := t.dev.jobs, ctr := t.dev.ctr } ∧
      ∃ y ∈ t.dev.jobs, y.id = j.id ∧ ∃ x ∈ y.iss, x.issuer = 0x8000 + ctr ∧ x.swept = true ∧
        x.run = passPositions a (settleClear a.c.home s.dev) s.dev := by
  have hop : homeSweepOp job ctr s.dev =
      (sweepTake j a s.dev).2.modJob job (slotRun (0x8000 + ctr) (s.dev.num 0x20A0 1 10000) (sweepTake j a s.dev).1) := by
    unfold homeSweepOp
    rw [hj]
    dsimp only
    rw [show ({ issuer := 0x8000 + ctr, pc := 0, stage := .finished, run := [], swept := true, lost := false } : IssState) = homeSlot ctr from rfl,
      hg, ha]
    dsimp only
    rw [if_pos ⟨hrun, hh, hfree, hno, hrd, hc, hd, how, hir⟩, if_neg (by rw [hsw]; decide)]
  have hjm : j ∈ s.dev.jobs := List.mem_of_find?_eq_some hj
  have hid : j.id = job := of_decide_eq_true (List.find?_some (p := fun x : Job => decide (x.id = job)) hj)
  obtain ⟨e, h1, h2, h3, h4⟩ := sweepTake_taken j a s.dev hlt
  refine ⟨_, exec_homeSweepByC0 s job ctr, ?_⟩
  simp only [State.on_dev]
  rw [hop, h1]
  dsimp only
  obtain ⟨y, hy, hyid⟩ := h4 j hjm
  refine ⟨h3, congrArg s.on (by rw [Dev.modJob, h2]), slotRun (0x8000 + ctr) (s.dev.num 0x20A0 1 10000) (passPositions a (settleClear a.c.home s.dev) s.dev) y,
    List.mem_map.mpr ⟨y, hy, if_pos (hyid.trans hid)⟩, hyid, _, List.mem_append_right _ (List.mem_singleton.mpr rfl), rfl, rfl, rfl⟩

/-- Settles O18: a claim and a sweep claim through the atomic of the record's field, the rejoin and the home's sweep each by its operation. -/
theorem claimsAdvanceTheCursors : Obligations.ClaimsAdvanceTheCursors :=
  ⟨fun _ _ _ _ _ hj hcode ha hm hon hsw => ⟨work_claimed hj ha hm hcode hon hsw, fun hst hrun how => sweep_moves_on hj ha hm hst hrun how,
     fun hst hrun how hlt => sweep_claimed hj ha hm hon hsw hst hrun how hlt⟩,
   fun _ _ _ _ hj hl hon => issuer_rejoins hj hl hon,
   fun _ _ _ _ _ _ hj hg ha hrun hh hfree hno hrd hc hd how hir hsw hlt => home_sweeps hj hg ha hrun hh hfree hno hrd hc hd how hir hsw hlt⟩

end Sys2Proof.Machine

/-!
PROOFS for the training and the loss of links (R320, R330 to R332, R335, R336).
-/
namespace Sys2Proof.Machine

open Sys2Proof

theorem exec_linkRetrain (s : State) (l : Nat) : exec (.linkRetrain l) s = .next (s.on (linkRetrainOp l s.dev)) := rfl

theorem exec_linkResyncTimeout (s : State) (l n : Nat) : exec (.linkResyncTimeout l n) s = .next (s.on (linkResyncTimeoutOp l n s.dev)) := rfl

theorem exec_linkExchangeTimeout (s : State) (l n : Nat) :
    exec (.linkExchangeTimeout l n) s = .next (s.on (linkExchangeTimeoutOp l n s.dev)) := rfl

theorem exec_linkLaneLoss (s : State) (l n : Nat) : exec (.linkLaneLoss l n) s = .next (s.on (linkLaneLossOp l n s.dev)) := rfl

theorem exec_linkDownRetry (s : State) (l : Nat) : exec (.linkDownRetry l) s = .next (s.on (linkDownRetryOp s.variant l s.dev)) := rfl

theorem exec_linkTrainingEnd (s : State) (l : Nat) (good : BitVec 4) (locked : Bool) :
    exec (.linkTrainingEnd l good locked) s = .next (s.on (linkTrainingEndOp s.variant l good locked s.dev)) := rfl

theorem exec_linkDown (s : State) (l : Nat) : exec (.linkDown l) s = .next (s.on (linkDownOp l s.dev)) := rfl

/-! ### Entries to TRAIN -/

/-- What an entry of link `l` to TRAIN leaves: its phase, its excluded lanes and what it holds for a replay. -/
structure InTrain (d e : Dev) (l : Nat) (bad : BitVec 4) : Prop where
  frame : e = { d with links := e.links, ctr := e.ctr, marks := e.marks }
  counted : Counted d e 0x341A (l + 1) 1
  others : ∀ k, k ≠ l → e.link k = d.link k
  phase : (e.link l).phase = .train
  badLanes : (e.link l).badLanes = bad
  tags : (e.link l).tags = (d.link l).tags
  replay : (e.link l).replay.map Held.frame = (d.link l).replay.map Held.frame

theorem inTrain_enterTrain (l : Nat) (d : Dev) : InTrain d (enterTrain l d) l (d.link l).badLanes := by
  refine ⟨rfl, counted_enterTrain l d, fun k hk => ?_, ?_, ?_, ?_, ?_⟩ <;> unfold enterTrain <;> rw [Dev.link_count]
  · exact Dev.link_modLink_other d _ hk
  all_goals rw [Dev.link_modLink_same]
  simp only [List.map_map, Function.comp_def]

theorem InTrain.of_setLink {d e : Dev} {l : Nat} {x : Link} {bad : BitVec 4} (h : InTrain (d.setLink l x) e l bad)
    (ht : x.tags = (d.link l).tags) (hr : x.replay = (d.link l).replay) : InTrain d e l bad where
  frame := h.frame
  counted := h.counted
  others k hk := (h.others k hk).trans (Dev.link_setLink_other d x hk)
  phase := h.phase
  badLanes := h.badLanes
  tags := h.tags.trans ((congrArg Link.tags (Dev.link_setLink_same d l x)).trans ht)
  replay := h.replay.trans (congrArg (List.map Held.frame) ((congrArg Link.replay (Dev.link_setLink_same d l x)).trans hr))

theorem inTrain_enterTrain_setLink (l : Nat) (d : Dev) (bad : BitVec 4) :
    InTrain d (enterTrain l (d.setLink l { d.link l with badLanes := bad })) l bad := by
  have h := inTrain_enterTrain l (d.setLink l { d.link l with badLanes := bad })
  rw [show ((d.setLink l { d.link l with badLanes := bad }).link l).badLanes = bad from congrArg Link.badLanes (Dev.link_setLink_same d l _)] at h
  exact h.of_setLink rfl rfl

theorem trains_of_inTrain {s : State} {l : Nat} {c : Instr} {bad : BitVec 4} {e : Dev} (h : exec c s = .next (s.on e))
    (ht : InTrain s.dev e l bad) :
    ∃ t, exec c s = .next t ∧
      t = s.on { s.dev with links := t.dev.links, ctr := t.dev.ctr, marks := t.dev.marks } ∧ Counted s.dev t.dev 0x341A (l + 1) 1 ∧
      (∀ k, k ≠ l → t.dev.link k = s.dev.link k) ∧ (t.dev.link l).phase = .train ∧ (t.dev.link l).badLanes = bad ∧
      (t.dev.link l).tags = (s.dev.link l).tags ∧ (t.dev.link l).replay.map Held.frame = (s.dev.link l).replay.map Held.frame :=
  ⟨_, h, congrArg s.on ht.frame, ht.counted, ht.others, ht.phase, ht.badLanes, ht.tags, ht.replay⟩

theorem linkRetrainOp_eq {d : Dev} {l : Nat} (hp : (d.link l).phase = .active) (hr : ∃ h ∈ (d.link l).replay, 8 ≤ h.replays) :
    linkRetrainOp l d = enterTrain l d := by
  obtain ⟨h, hm, h8⟩ := hr
  have hany : (d.link l).replay.any (fun h => decide (8 ≤ h.replays)) = true := List.any_eq_true.mpr ⟨h, hm, decide_eq_true h8⟩
  rw [linkRetrainOp, hp, hany]
  rfl

theorem linkResyncTimeoutOp_eq {d : Dev} {l n : Nat} (hp : (d.link l).phase = .resync) (hn : 100 ≤ n) :
    linkResyncTimeoutOp l n d = enterTrain l d := by
  rw [linkResyncTimeoutOp, hp, decide_eq_true hn]
  rfl

theorem linkExchangeTimeoutOp_eq {d : Dev} {l n : Nat} (hp : (d.link l).phase = .exchange) (hn : 10000 ≤ n) :
    linkExchangeTimeoutOp l n d = enterTrain l d := by
  rw [linkExchangeTimeoutOp, hp, decide_eq_true hn]
  rfl

theorem linkLaneLossOp_eq {d : Dev} {l lane : Nat} (hp : (d.link l).phase = .active) (h4 : lane < 4)
    (hl : (d.link l).lanes.getLsbD lane = true) : linkLaneLossOp l lane d =
      enterTrain l (d.setLink l { d.link l with badLanes := (d.link l).badLanes ||| BitVec.ofNat 4 (2 ^ lane) }) := by
  unfold linkLaneLossOp
  dsimp only
  rw [hl, hp, decide_eq_true h4]
  rfl

theorem linkDownRetryOp_eq {v : Variant} {d : Dev} {l : Nat} (hp : (d.link l).phase = .down) (hlose : (d.link l).losing = false)
    (hs : linkServes v d l = true) (he : linkEnabled d l = true) (hm : d.marked (linkHub l) limLinkRetry l = false) :
    linkDownRetryOp v l d = enterTrain l (d.mark (linkHub l) limLinkRetry l) := by
  unfold linkDownRetryOp
  dsimp only
  rw [hs, he, hm, hlose, hp]
  rfl

/-! ### The end of training -/

theorem linkTrainingEndOp_locked {v : Variant} {d : Dev} {l : Nat} {good : BitVec 4} (hp : (d.link l).phase = .train)
    (hs : linkServes v d l = true) (hl : laneMap (good &&& ~~~(d.link l).badLanes) ≠ 0) : linkTrainingEndOp v l good true d =
      d.setLink l { d.link l with phase := .exchange, lanes := laneMap (good &&& ~~~(d.link l).badLanes), badLanes := (d.link l).badLanes ||| ~~~good } := by
  unfold linkTrainingEndOp
  dsimp only
  rw [hs, bne_iff_ne.mpr hl, hp]
  rfl

/-- The entries to TRAIN of a link within the last second that have failed, the present one last (Table 12.4). -/
def failedEntries (x : Link) : List Nat := (x.failed ++ [x.entered]).filter (fun u => decide (x.entered ≤ u + 1000000))

theorem linkTrainingEndOp_failed {v : Variant} {d : Dev} {l : Nat} {good : BitVec 4} {locked : Bool} (hp : (d.link l).phase = .train)
    (hs : linkServes v d l = true) (hl : locked = false ∨ laneMap (good &&& ~~~(d.link l).badLanes) = 0) :
    linkTrainingEndOp v l good locked d =
      (if 4 ≤ (failedEntries (d.link l)).length
       then enterDown l ((d.setLink l { d.link l with failed := failedEntries (d.link l) }).modLink l (fun y => { y with failed := [] }))
       else enterTrain l (d.setLink l { d.link l with failed := failedEntries (d.link l) })) := by
  have hno : (locked && laneMap (good &&& ~~~(d.link l).badLanes) != 0) = false := by
    rcases hl with h | h
    · rw [h]; rfl
    · rw [h, bne_self_eq_false, Bool.and_false]
  unfold linkTrainingEndOp
  dsimp only
  rw [hno, hs, hp]
  rfl

theorem enterDown_phase (l : Nat) (d : Dev) : ((enterDown l d).link l).phase = .down := by
  rw [enterDown, Dev.link_modLink_same]

/-- Only the links and the counters are other than before. -/
def OnlyLinks (d e : Dev) : Prop := ∃ ls c, e = { d with links := ls, ctr := c }

theorem OnlyLinks.frame {d e : Dev} (h : OnlyLinks d e) : e = { d with links := e.links, ctr := e.ctr } := by
  obtain ⟨ls, c, rfl⟩ := h
  rfl

theorem OnlyLinks.trans {d e f : Dev} (h : OnlyLinks d e) (h' : OnlyLinks e f) : OnlyLinks d f := by
  obtain ⟨ls, c, rfl⟩ := h
  obtain ⟨ls, c, rfl⟩ := h'
  exact ⟨ls, c, rfl⟩

theorem onlyLinks_setLink (d : Dev) (l : Nat) (x : Link) : OnlyLinks d (d.setLink l x) := ⟨_, _, rfl⟩

theorem onlyLinks_modLink (d : Dev) (l : Nat) (f : Link → Link) : OnlyLinks d (d.modLink l f) := onlyLinks_setLink d l _

theorem onlyLinks_enterDown (l : Nat) (d : Dev) : OnlyLinks d (enterDown l d) := onlyLinks_modLink d l _

theorem onlyLinks_enterTrain (l : Nat) (d : Dev) : OnlyLinks d (enterTrain l d) := ⟨_, _, rfl⟩

theorem linkTrainingEndOp_fails {v : Variant} {d : Dev} {l : Nat} {good : BitVec 4} {locked : Bool} (hp : (d.link l).phase = .train)
    (hs : linkServes v d l = true) (hl : locked = false ∨ laneMap (good &&& ~~~(d.link l).badLanes) = 0) :
    linkTrainingEndOp v l good locked d = { d with
      links := (linkTrainingEndOp v l good locked d).links, ctr := (linkTrainingEndOp v l good locked d).ctr } ∧
    ((linkTrainingEndOp v l good locked d).link l).phase = if 4 ≤ (failedEntries (d.link l)).length then .down else .train := by
  rw [linkTrainingEndOp_failed hp hs hl]
  generalize failedEntries (d.link l) = fails
  by_cases h4 : 4 ≤ fails.length
  · rw [if_pos h4, if_pos h4]
    have h := ((onlyLinks_setLink d l { d.link l with failed := fails }).trans (onlyLinks_modLink _ l (fun y => { y with failed := [] }))).trans
      (onlyLinks_enterDown l _)
    exact ⟨h.frame, enterDown_phase l _⟩
  · rw [if_neg h4, if_neg h4]
    have h := (onlyLinks_setLink d l { d.link l with failed := fails }).trans (onlyLinks_enterTrain l _)
    exact ⟨h.frame, (inTrain_enterTrain l _).phase⟩

theorem linkTrainingEnd_fails {s : State} {l : Nat} {good : BitVec 4} {locked : Bool} (hp : (s.dev.link l).phase = .train)
    (hs : linkServes s.variant s.dev l = true) (hl : locked = false ∨ laneMap (good &&& ~~~(s.dev.link l).badLanes) = 0) :
    ∃ t, exec (.linkTrainingEnd l good locked) s = .next t ∧ t = s.on { s.dev with links := t.dev.links, ctr := t.dev.ctr } ∧
      (t.dev.link l).phase = if 4 ≤ (failedEntries (s.dev.link l)).length then .down else .train := by
  obtain ⟨hf, hph⟩ := linkTrainingEndOp_fails hp hs hl
  exact ⟨_, exec_linkTrainingEnd .., congrArg s.on hf, hph⟩

/-! ### A link that is lost -/

theorem failRemote_untiled {r : RemoteReq} (h : r.tile = none) (st : BitVec 8) (d : Dev) :
    failRemote r st d = remoteAnswer r [] (some st) d := by
  rw [failRemote, h]
  rfl

theorem remoteAnswer_frame (r : RemoteReq) (b : Bytes) (st : Option (BitVec 8)) (d : Dev) : remoteAnswer r b st d =
    { d with out := d.out ++ [.remoteDone r b st.isSome], rooms := (remoteAnswer r b st d).rooms, remote := (remoteAnswer r b st d).remote } := by
  unfold remoteAnswer
  split <;> rfl

theorem failRemotes_untiled (us : List TagUse) (st : BitVec 8) (h : ∀ u ∈ us, u.req.tile = none) (d : Dev) :
    ∃ rooms remote, us.foldl (fun (d : Dev) u => failRemote u.req st d) d =
      { d with out := d.out ++ us.map (fun u => .remoteDone u.req [] true), rooms := rooms, remote := remote } := by
  induction us generalizing d with
  | nil => exact ⟨d.rooms, d.remote, by rw [List.map_nil, List.append_nil]; rfl⟩
  | cons u us ih =>
    obtain ⟨rooms, remote, hrest⟩ := ih (fun w hw => h w (List.mem_cons_of_mem u hw)) (failRemote u.req st d)
    refine ⟨rooms, remote, ?_⟩
    rw [List.foldl_cons, hrest, failRemote_untiled (h u List.mem_cons_self), remoteAnswer_frame]
    simp only [List.map_cons, List.append_assoc, List.singleton_append, Option.isSome_some]

theorem linkDown_loses {s : State} {l : Nat} (hl : (s.dev.link l).losing = true) (ht : ∀ u ∈ (s.dev.link l).tags, u.req.tile = none) :
    ∃ t, exec (.linkDown l) s = .next t ∧
      t = s.on { s.dev with links := t.dev.links, out := t.dev.out, rooms := t.dev.rooms, remote := t.dev.remote } ∧
      t.dev.link l = { s.dev.link l with replay := [], tags := [], losing := false } ∧
      t.dev.out = s.dev.out ++ (s.dev.link l).tags.map (fun u => .remoteDone u.req [] true) := by
  refine ⟨_, exec_linkDown .., ?_⟩
  obtain ⟨rooms, remote, h⟩ := failRemotes_untiled (s.dev.link l).tags stLinkDown ht
    (s.dev.setLink l { s.dev.link l with replay := [], tags := [], losing := false })
  rw [linkDownOp, if_pos hl, settleLost, h]
  exact ⟨rfl, Dev.link_setLink_same s.dev l _, rfl⟩

/-- Settles O41: every entry to TRAIN is `enterTrain` after at most a lane excluded or a mark set; the fourth failed entry goes DOWN, and a
lost link folds a poisoned answer over its tags. -/
theorem linksTrainAndFall : Obligations.LinksTrainAndFall := by
  unfold Obligations.LinksTrainAndFall
  intro s l
  refine ⟨fun hp hr => ?_, fun n hp hn => ?_, fun n hp hn => ?_, fun lane hp h4 hl => ?_, fun hp hlose hs he hm => ?_,
    fun good locked hp hs => ⟨fun hk hl => ?_, fun hl => linkTrainingEnd_fails hp hs hl⟩, fun hl ht => linkDown_loses hl ht⟩
  · exact trains_of_inTrain (exec_linkRetrain s l) (linkRetrainOp_eq hp hr ▸ inTrain_enterTrain l s.dev)
  · exact trains_of_inTrain (exec_linkResyncTimeout s l n) (linkResyncTimeoutOp_eq hp hn ▸ inTrain_enterTrain l s.dev)
  · exact trains_of_inTrain (exec_linkExchangeTimeout s l n) (linkExchangeTimeoutOp_eq hp hn ▸ inTrain_enterTrain l s.dev)
  · exact trains_of_inTrain (exec_linkLaneLoss s l lane) (linkLaneLossOp_eq hp h4 hl ▸ inTrain_enterTrain_setLink l s.dev _)
  · have h := inTrain_enterTrain l (s.dev.mark (linkHub l) limLinkRetry l)
    refine trains_of_inTrain (exec_linkDownRetry s l) ?_
    rw [linkDownRetryOp_eq hp hlose hs he hm]
    exact ⟨rfl, h.counted, h.others, h.phase, h.badLanes, h.tags, h.replay⟩
  · subst hk
    refine ⟨_, exec_linkTrainingEnd .., ?_⟩
    rw [linkTrainingEndOp_locked hp hs hl]
    exact ⟨rfl, Dev.link_setLink_same s.dev l _⟩

end Sys2Proof.Machine

/-!
PROOFS for bundles and for the control frames of links (R317 to R319, R327 to R329, R331).
-/
namespace Sys2Proof.Machine

open Sys2Proof

/-! ### Bundles -/

theorem sameBundle_iff (b : Bundle) (hub group : Nat) (peer : BitVec 64) :
    sameBundle b hub group peer = true ↔ b.hub = hub ∧ b.group = group ∧ b.peer = peer := by
  simp only [sameBundle, Bool.and_eq_true, beq_iff_eq, and_assoc]

theorem Dev.bundle_key (d : Dev) (hub group : Nat) (peer : BitVec 64) :
    (d.bundle hub group peer).hub = hub ∧ (d.bundle hub group peer).group = group ∧ (d.bundle hub group peer).peer = peer := by
  unfold Dev.bundle
  cases h : d.bundles.find? (fun b => sameBundle b hub group peer) with
  | none => exact ⟨rfl, rfl, rfl⟩
  | some b => exact (sameBundle_iff ..).mp (List.find?_some (p := fun b => sameBundle b hub group peer) h)

/-- Where the old bundle of the same key stood, stands the new one. -/
theorem find?_bundle_replaced (bs : List Bundle) (b : Bundle) (hub group : Nat) (peer : BitVec 64) :
    (bs.map (fun y => if sameBundle y b.hub b.group b.peer then b else y)).find? (fun y => sameBundle y hub group peer) =
      if sameBundle b hub group peer then (bs.find? (fun y => sameBundle y hub group peer)).map (fun _ => b)
      else bs.find? (fun y => sameBundle y hub group peer) := by
  induction bs with
  | nil => simp
  | cons y bs ih =>
    rw [List.map_cons, List.find?_cons, ih, List.find?_cons]
    by_cases hb : sameBundle b hub group peer = true
    · obtain ⟨rfl, rfl, rfl⟩ := (sameBundle_iff ..).mp hb
      by_cases hy : sameBundle y b.hub b.group b.peer = true
      · simp [hb, hy]
      · simp [hb, hy]
    · by_cases hy : sameBundle y b.hub b.group b.peer = true
      · have hyk : sameBundle y hub group peer = false := by
          obtain ⟨h1, h2, h3⟩ := (sameBundle_iff ..).mp hy
          rw [← Bool.not_eq_true, sameBundle_iff, h1, h2, h3]
          rwa [sameBundle_iff] at hb
        simp [hb, hy, hyk]
      · simp [hb, hy]

theorem Dev.bundle_setBundle_same (d : Dev) (b : Bundle) : (d.setBundle b).bundle b.hub b.group b.peer = b := by
  have hb : sameBundle b b.hub b.group b.peer = true := (sameBundle_iff ..).mpr ⟨rfl, rfl, rfl⟩
  simp only [Dev.bundle, Dev.setBundle]
  by_cases h : d.bundles.any (fun y => sameBundle y b.hub b.group b.peer) = true
  · obtain ⟨c, hc⟩ := Option.isSome_iff_exists.mp ((List.find?_isSome).mpr (List.any_eq_true.mp h))
    rw [if_pos h, find?_bundle_replaced, if_pos hb, hc]
    rfl
  · have hnone : d.bundles.find? (fun y => sameBundle y b.hub b.group b.peer) = none :=
      List.find?_eq_none.mpr fun y hy hs => h (List.any_eq_true.mpr ⟨y, hy, hs⟩)
    rw [if_neg h, List.find?_append, hnone, Option.none_or, List.find?_singleton, if_pos hb]
    rfl

theorem Dev.bundle_setBundle_other (d : Dev) {b : Bundle} {hub group : Nat} {peer : BitVec 64}
    (h : ¬sameBundle b hub group peer = true) : (d.setBundle b).bundle hub group peer = d.bundle hub group peer := by
  simp only [Dev.bundle, Dev.setBundle]
  by_cases hany : d.bundles.any (fun y => sameBundle y b.hub b.group b.peer) = true
  · rw [if_pos hany, find?_bundle_replaced, if_neg h]
  · rw [if_neg hany, List.find?_append, List.find?_singleton, if_neg h, Option.or_none]

/-- A bundle set under its own key: what a read of that key gives. -/
theorem Dev.bundle_setBundle_of (d : Dev) {b : Bundle} {hub group : Nat} {peer : BitVec 64} (h : b.hub = hub ∧ b.group = group ∧ b.peer = peer) :
    (d.setBundle b).bundle hub group peer = b := by
  obtain ⟨rfl, rfl, rfl⟩ := h
  exact d.bundle_setBundle_same b

/-! ### A new list -/

/-- What a rebuild with nothing held leaves: links, but for whether they are away, and bundles, but for their lists. -/
structure Relisted (d e : Dev) : Prop where
  frame : e = { d with links := e.links, bundles := e.bundles }
  links : ∀ k, e.link k = { d.link k with away := (e.link k).away }
  held : ∀ hub group peer, (e.bundle hub group peer).held = (d.bundle hub group peer).held

theorem relisted_refl (d : Dev) : Relisted d d := ⟨rfl, fun _ => rfl, fun _ _ _ => rfl⟩

theorem Relisted.trans {d e f : Dev} (h : Relisted d e) (h' : Relisted e f) : Relisted d f where
  frame := by rw [h'.frame, h.frame]
  links k := by rw [h'.links k, h.links k]
  held hub group peer := (h'.held hub group peer).trans (h.held hub group peer)

theorem relisted_setBundle (d : Dev) {b : Bundle} (h : b.held = (d.bundle b.hub b.group b.peer).held) : Relisted d (d.setBundle b) where
  frame := rfl
  links _ := rfl
  held hub group peer := by
    by_cases hb : sameBundle b hub group peer = true
    · obtain ⟨rfl, rfl, rfl⟩ := (sameBundle_iff ..).mp hb
      rw [Dev.bundle_setBundle_same, h]
    · rw [Dev.bundle_setBundle_other d hb]

/-- The members of a new list are in it, no longer away. -/
def joinAll (ls : List Nat) (d : Dev) : Dev := ls.foldl (fun (d : Dev) l => d.modLink l (fun x => { x with away := false })) d

theorem joinAll_eq (ls : List Nat) (d : Dev) : ∃ t, joinAll ls d = { d with links := t } := by
  induction ls generalizing d with
  | nil => exact ⟨d.links, rfl⟩
  | cons l ls ih => exact (ih (d.modLink l fun x => { x with away := false })).imp fun t ht => ht

theorem joinAll_link (ls : List Nat) (d : Dev) (k : Nat) :
    (joinAll ls d).link k = { d.link k with away := if k ∈ ls then false else (d.link k).away } := by
  induction ls generalizing d with
  | nil => rfl
  | cons l ls ih =>
    refine (ih (d.modLink l fun x => { x with away := false })).trans ?_
    by_cases hk : k = l
    · subst hk
      rw [Dev.link_modLink_same, if_pos List.mem_cons_self]
      simp only [ite_self]
    · rw [Dev.link_modLink_other d _ hk]
      simp only [List.mem_cons, hk, false_or]

theorem relisted_joinAll (ls : List Nat) (d : Dev) : Relisted d (joinAll ls d) := by
  obtain ⟨t, ht⟩ := joinAll_eq ls d
  refine ⟨by rw [ht], fun k => ?_, fun _ _ _ => by rw [ht]; rfl⟩
  rw [joinAll_link]

theorem drainHeld_idle {hub group : Nat} {peer : BitVec 64} {d : Dev} (v : Variant) (h : (d.bundle hub group peer).held = []) :
    drainHeld v hub group peer d = d := by
  unfold drainHeld
  dsimp only
  rw [if_pos (by rw [h]; rfl)]

/-- The bundle of a rebuilt list with nothing held, and its members. -/
theorem rebuild_idle {hub group : Nat} {peer : BitVec 64} {d : Dev} (v : Variant) (hm : mayRebuild d (d.bundle hub group peer) = true)
    (h : (d.bundle hub group peer).held = []) : rebuild v hub group peer d =
      (joinAll (spreadList d (d.bundle hub group peer)).eraseDups d).setBundle
        { d.bundle hub group peer with list := spreadList d (d.bundle hub group peer), due := false } := by
  unfold rebuild
  dsimp only
  rw [if_pos hm, drainHeld_idle]
  · rfl
  · exact (congrArg Bundle.held (Dev.bundle_setBundle_of _
      (b := { d.bundle hub group peer with list := spreadList d (d.bundle hub group peer), due := false }) (d.bundle_key hub group peer))).trans h

theorem rebuild_refused {hub group : Nat} {peer : BitVec 64} {d : Dev} (v : Variant) (hm : mayRebuild d (d.bundle hub group peer) = false) :
    rebuild v hub group peer d = if rebuildDue d (d.bundle hub group peer) then d.setBundle { d.bundle hub group peer with due := true } else d := by
  unfold rebuild
  dsimp only
  rw [if_neg (by rw [hm]; exact Bool.false_ne_true)]

theorem Dev.bundle_held_key (d : Dev) (hub group : Nat) (peer : BitVec 64) : (d.bundle hub group peer).held =
    (d.bundle (d.bundle hub group peer).hub (d.bundle hub group peer).group (d.bundle hub group peer).peer).held := by
  obtain ⟨h1, h2, h3⟩ := d.bundle_key hub group peer
  rw [h1, h2, h3]

theorem relisted_rebuild {hub group : Nat} {peer : BitVec 64} {d : Dev} (v : Variant) (h : (d.bundle hub group peer).held = []) :
    Relisted d (rebuild v hub group peer d) := by
  have hkey := d.bundle_held_key hub group peer
  cases hm : mayRebuild d (d.bundle hub group peer) with
  | true =>
    rw [rebuild_idle v hm h]
    have hj := relisted_joinAll (spreadList d (d.bundle hub group peer)).eraseDups d
    exact hj.trans (relisted_setBundle _ (hkey.trans (hj.held ..).symm))
  | false =>
    rw [rebuild_refused v hm]
    split
    · exact relisted_setBundle d hkey
    · exact relisted_refl d

theorem relisted_drainLink {l : Nat} {d : Dev} (v : Variant) (h : (d.bundle (linkHub l) (linkGrp l) (d.link l).peer).held = []) :
    Relisted d (drainLink v l d) := by
  unfold drainLink
  dsimp only
  split
  · exact relisted_rebuild v h
  · rw [drainHeld_idle v h]
    exact relisted_refl d

/-! ### Replays -/

theorem exec_linkControlFrameTx (s : State) (l n : Nat) :
    exec (.linkControlFrameTx l n) s = .next (s.on (linkControlFrameTxOp s.variant l n s.dev)) := rfl

theorem exec_linkControlFrameRx (s : State) (l : Nat) (f : CtlFrame) :
    exec (.linkControlFrameRx l f) s = .next (s.on (linkControlFrameRxOp s.variant l f s.dev)) := rfl

theorem exec_linkReplayTimeout (s : State) (l n : Nat) :
    exec (.linkReplayTimeout l n) s = .next (s.on (linkReplayTimeoutOp s.variant l n s.dev)) := rfl

theorem exec_linkAliveTimeout (s : State) (l n : Nat) :
    exec (.linkAliveTimeout l n) s = .next (s.on (linkAliveTimeoutOp s.variant l n s.dev)) := rfl

/-- The frames held, each replayed once more. -/
def onceMore (hs : List Held) : List Held := hs.map (fun h => { h with replays := h.replays + 1 })

/-- The frames of a replay as they leave. -/
def heldOut (l : Nat) (hs : List Held) : List Output := hs.map (fun h => .linkData l h.frame)

theorem emit_each (l : Nat) (hs : List Held) (d : Dev) :
    hs.foldl (fun (d : Dev) h => d.emit (.linkData l h.frame)) d = { d with out := d.out ++ heldOut l hs } := by
  induction hs generalizing d with
  | nil => rw [heldOut, List.map_nil, List.append_nil]; rfl
  | cons h hs ih =>
    rw [List.foldl_cons, ih]
    simp only [heldOut, Dev.emit, List.map_cons, List.append_assoc, List.singleton_append]

theorem replayAll_eq (l : Nat) (d : Dev) : replayAll l d =
    ({ d.setLink l { d.link l with replay := onceMore (d.link l).replay } with out := d.out ++ heldOut l (d.link l).replay } : Dev).count
      0x3419 (l + 1) (d.link l).replay.length := by
  unfold replayAll
  dsimp only
  rw [emit_each]
  rfl

/-- What a step of a link's frame layer may change. -/
def LinkStep (d e : Dev) : Prop := e = { d with links := e.links, out := e.out, ctr := e.ctr }

theorem linkStep_replayAll (l : Nat) (d : Dev) : LinkStep d (replayAll l d) := by
  unfold LinkStep
  rw [replayAll_eq]
  rfl

theorem replayAll_out (l : Nat) (d : Dev) : (replayAll l d).out = d.out ++ heldOut l (d.link l).replay := by
  rw [replayAll_eq]
  rfl

theorem counted_count_of {d e : Dev} (h : e.ctr = d.ctr) (idx sub n : Nat) : Counted d (e.count idx sub n) idx sub n := by
  intro k
  rw [← h]
  exact e.counted_count idx sub n k

theorem counted_replayAll (l : Nat) (d : Dev) : Counted d (replayAll l d) 0x3419 (l + 1) (d.link l).replay.length := by
  rw [replayAll_eq]
  exact counted_count_of rfl _ _ _

theorem replayAll_link (l : Nat) (d : Dev) : (replayAll l d).link l = { d.link l with replay := onceMore (d.link l).replay } := by
  rw [replayAll_eq]
  exact d.link_setLink_same l _

/-- The frames of a link that an ackseq does not cover. -/
def unacked (ackseq : Nat) (hs : List Held) : List Held := hs.filter (fun h => !covers ackseq h.frame.seq)

theorem ackFrames_setLink (l ackseq : Nat) (d : Dev) (x : Link) :
    (ackFrames l ackseq (d.setLink l x)).link l = { x with replay := unacked ackseq x.replay } := by
  rw [ackFrames, Dev.link_modLink_same, Dev.link_setLink_same]
  rfl

theorem ackFrames_setLink_eq (l ackseq : Nat) (d : Dev) (x : Link) :
    ∃ ls, ackFrames l ackseq (d.setLink l x) = { d with links := ls } := ⟨_, rfl⟩

/-! ### Control frames -/

/-- The control frame that a link sends, but for its CRC. -/
def ctlFrameOf (d : Dev) (l : Nat) : CtlFrame :=
  { nak := (d.link l).nakOwed, ackseq := ((d.link l).rxSeq + 4095) % 4096, cr := ctlCredits d l, alive := (d.link l).txAlive, crc := 0 }

/-- The credits that a link still owes after a control frame. -/
def stillOwed (d : Dev) (l : Nat) : List Nat :=
  if (d.link l).phase == .resync then [0, 0, 0, 0] else ((d.link l).rxOwed.zip (ctlCredits d l)).map (fun e => e.1 - e.2)

/-- A link whose control frame has gone out. -/
def ctlSent (d : Dev) (l : Nat) : Link :=
  { d.link l with txAlive := (d.link l).txAlive + 1, rxOwed := stillOwed d l, rxSince := 0, nakOwed := false }

theorem linkControlFrameTxOp_sends {v : Variant} {d : Dev} {l idle : Nat} (hr : linkRuns v d l = true)
    (hp : (d.link l).phase = .active ∨ (d.link l).phase = .resync) (hs : 64 ≤ (d.link l).rxSince ∨ 1 ≤ idle ∨ (d.link l).nakOwed = true) :
    linkControlFrameTxOp v l idle d =
      (d.setLink l (ctlSent d l)).emit (.linkCtl l { ctlFrameOf d l with crc := ctlCrc (ctlFrameOf d l) }) := by
  have hserve : linkServes v d l = true := (Bool.and_eq_true _ _ ▸ hr).1
  have hphase : ((d.link l).phase == .active || (d.link l).phase == .resync) = true := by
    rw [Bool.or_eq_true, beq_iff_eq, beq_iff_eq]
    exact hp
  have hsend : (decide (64 ≤ (d.link l).rxSince) || decide (1 ≤ idle) || (d.link l).nakOwed) = true := by
    rw [Bool.or_eq_true, Bool.or_eq_true, decide_eq_true_iff, decide_eq_true_iff, or_assoc]
    exact hs
  unfold linkControlFrameTxOp
  dsimp only
  rw [hserve, hphase, if_neg (by decide), if_pos hsend]
  rfl

/-- The CRC of a control frame is of its other fields. -/
theorem ctlCrc_crc (f : CtlFrame) (c : BitVec 32) : ctlCrc { f with crc := c } = ctlCrc f := rfl

theorem linkControlFrameTx_sends {s : State} {l idle : Nat} (hr : linkRuns s.variant s.dev l = true)
    (hp : (s.dev.link l).phase = .active ∨ (s.dev.link l).phase = .resync)
    (hs : 64 ≤ (s.dev.link l).rxSince ∨ 1 ≤ idle ∨ (s.dev.link l).nakOwed = true) :
    ∃ t f, exec (.linkControlFrameTx l idle) s = .next t ∧
      t = s.on { s.dev with links := t.dev.links, out := s.dev.out ++ [.linkCtl l f] } ∧ f.nak = (s.dev.link l).nakOwed ∧
      f.ackseq = ((s.dev.link l).rxSeq + 4095) % 4096 ∧ f.cr = ctlCredits s.dev l ∧ f.alive = (s.dev.link l).txAlive ∧ f.crc = ctlCrc f ∧
      (t.dev.link l).txAlive = (s.dev.link l).txAlive + 1 ∧ (t.dev.link l).nakOwed = false ∧ (t.dev.link l).rxSince = 0 ∧
      (t.dev.link l).replay = (s.dev.link l).replay ∧ (t.dev.link l).phase = (s.dev.link l).phase := by
  have hl := s.dev.link_setLink_same l (ctlSent s.dev l)
  refine ⟨_, { ctlFrameOf s.dev l with crc := ctlCrc (ctlFrameOf s.dev l) }, exec_linkControlFrameTx .., ?_⟩
  simp only [State.on_dev]
  rw [linkControlFrameTxOp_sends hr hp hs]
  exact ⟨rfl, rfl, rfl, rfl, rfl, (ctlCrc_crc (ctlFrameOf s.dev l) _).symm, (congrArg Link.txAlive hl :), (congrArg Link.nakOwed hl :), (congrArg Link.rxSince hl :),
    (congrArg Link.replay hl :), (congrArg Link.phase hl :)⟩

/-- A link in RESYNC after a frame that it could not use. -/
def resynced (x : Link) : Link := { x with phase := .resync, away := true, txAlive := 0, rxAlive := none }

theorem enterResync_link (l : Nat) (d : Dev) : (enterResync l d).link l = resynced (d.link l) := d.link_modLink_same l _

theorem enterResync_frame (l : Nat) (d : Dev) : enterResync l d = { d with links := (enterResync l d).links } := rfl

section Received
variable {v : Variant} {d : Dev} {l : Nat} {f : CtlFrame}

theorem controlRx_bad (hr : linkRuns v d l = true) (hp : (d.link l).phase = .active) (hc : f.crc ≠ ctlCrc f) :
    linkControlFrameRxOp v l f d = enterResync l d := by
  unfold linkControlFrameRxOp
  dsimp only
  rw [hr, hp, if_neg (by decide), if_pos (by decide), if_pos (by rw [decide_eq_false hc]; rfl)]

theorem controlRx_repeat (hr : linkRuns v d l = true) (hp : (d.link l).phase = .active) (hc : f.crc = ctlCrc f)
    (ha : (d.link l).rxAlive = some f.alive) : linkControlFrameRxOp v l f d =
      (d.count 0x341B (l + 1) 1).postOnce limLinkRepeat l evLinkRepeat (linkHub l) (linkUnit l) [] := by
  unfold linkControlFrameRxOp
  dsimp only
  rw [hr, hp, if_neg (by decide), if_pos (by decide), if_neg (by rw [decide_eq_true hc]; exact Bool.false_ne_true), if_pos ha]

theorem controlRx_gap (hr : linkRuns v d l = true) (hp : (d.link l).phase = .active) (hc : f.crc = ctlCrc f)
    (ha : (d.link l).rxAlive ≠ some f.alive) (hw : f.alive ≠ (d.link l).rxAlive.elim 0 (fun a => a + 1)) :
    linkControlFrameRxOp v l f d = enterResync l d := by
  unfold linkControlFrameRxOp
  dsimp only
  rw [hr, hp, if_neg (by decide), if_pos (by decide), if_neg (by rw [decide_eq_true hc]; exact Bool.false_ne_true), if_neg ha, if_pos hw]

/-- A link's frames after an acknowledgement, replayed where the frame asks for it. -/
def ackedThen (l ackseq : Nat) (nak : Bool) (x : Link) (d : Dev) : Dev :=
  if nak then replayAll l (ackFrames l ackseq (d.setLink l x)) else ackFrames l ackseq (d.setLink l x)

theorem controlRx_next (hr : linkRuns v d l = true) (hp : (d.link l).phase = .active) (hc : f.crc = ctlCrc f)
    (ha : (d.link l).rxAlive ≠ some f.alive) (hw : f.alive = (d.link l).rxAlive.elim 0 (fun a => a + 1)) :
    linkControlFrameRxOp v l f d = drainLink v l (ackedThen l f.ackseq f.nak { d.link l with
      rxAlive := some f.alive, credits := ((d.link l).credits.zip f.cr).map (fun e => e.1 + e.2) } d) := by
  unfold linkControlFrameRxOp
  dsimp only
  rw [hr, if_neg (by decide), if_pos (by rw [hp]; rfl), if_neg (by rw [decide_eq_true hc]; exact Bool.false_ne_true), if_neg ha,
    if_neg (not_not.mpr hw)]
  rfl

theorem controlRx_resync (hr : linkRuns v d l = true) (hp : (d.link l).phase = .resync) (hc : f.crc = ctlCrc f) :
    linkControlFrameRxOp v l f d =
      drainLink v l (ackedThen l f.ackseq true { d.link l with phase := .active, rxAlive := some f.alive, credits := f.cr } d) := by
  unfold linkControlFrameRxOp
  dsimp only
  rw [hr, if_neg (by decide), if_neg (by rw [hp]; decide), if_pos (by rw [hp, decide_eq_true hc]; rfl)]
  rfl

end Received

/-- What an acknowledgement with or without a replay leaves of its link, sends and counts. -/
structure Acked (l ackseq : Nat) (nak : Bool) (x : Link) (d e : Dev) : Prop where
  frame : e = { d with links := e.links, bundles := e.bundles, out := e.out, ctr := e.ctr }
  out : e.out = d.out ++ if nak then heldOut l (unacked ackseq x.replay) else []
  counted : Counted d e 0x3419 (l + 1) (if nak then (unacked ackseq x.replay).length else 0)
  link : e.link l = { x with
    away := (e.link l).away, replay := if nak then onceMore (unacked ackseq x.replay) else unacked ackseq x.replay }

theorem acked_ackedThen (l ackseq : Nat) (nak : Bool) (x : Link) (d : Dev) :
    Acked l ackseq nak x d (ackedThen l ackseq nak x d) ∧ (ackedThen l ackseq nak x d).bundles = d.bundles := by
  have hl := ackFrames_setLink l ackseq d x
  obtain ⟨ls, he⟩ := ackFrames_setLink_eq l ackseq d x
  unfold ackedThen
  cases nak with
  | false =>
    rw [if_neg Bool.false_ne_true]
    refine ⟨⟨?_, ?_, fun k => ?_, ?_⟩, ?_⟩
    · rw [he]
    · rw [he, if_neg Bool.false_ne_true, List.append_nil]
    · rw [he, if_neg Bool.false_ne_true, ite_self, Nat.add_zero]
    · rw [hl, if_neg Bool.false_ne_true]
    · rw [he]
  | true =>
    rw [if_pos rfl]
    generalize ackFrames l ackseq (d.setLink l x) = e at hl he ⊢
    have hf := linkStep_replayAll l e
    have hout := replayAll_out l e
    have hc := counted_replayAll l e
    have hk := replayAll_link l e
    rw [hl] at hout hc hk
    have hb : (replayAll l e).bundles = e.bundles := (congrArg Dev.bundles hf :)
    subst he
    refine ⟨⟨?_, ?_, ?_, ?_⟩, hb⟩
    · rw [hb]; exact hf
    · rw [if_pos rfl]; exact hout
    · rw [if_pos rfl]; exact hc
    · rw [if_pos rfl, hk]

theorem Acked.relisted {l ackseq : Nat} {nak : Bool} {x : Link} {d e e' : Dev} (h : Acked l ackseq nak x d e) (hr : Relisted e e') :
    Acked l ackseq nak x d e' := by
  have hout : e'.out = e.out := (congrArg Dev.out hr.frame :)
  have hctr : e'.ctr = e.ctr := (congrArg Dev.ctr hr.frame :)
  refine ⟨?_, hout.trans h.out, fun k => (congrArg (fun t => tget 0 t k) hctr).trans (h.counted k), ?_⟩
  · rw [hr.frame, h.frame]
  · rw [hr.links l, h.link]

theorem acked_drainLink {l : Nat} {x : Link} {d : Dev} (v : Variant) (ackseq : Nat) (nak : Bool) (hx : x.peer = (d.link l).peer)
    (h : (d.bundle (linkHub l) (linkGrp l) (d.link l).peer).held = []) :
    Acked l ackseq nak x d (drainLink v l (ackedThen l ackseq nak x d)) := by
  obtain ⟨ha, hb⟩ := acked_ackedThen l ackseq nak x d
  refine ha.relisted (relisted_drainLink v ?_)
  rw [show ((ackedThen l ackseq nak x d).link l).peer = (d.link l).peer from (congrArg Link.peer ha.link).trans hx]
  exact (congrArg (fun bs => ((bs.find? (fun b => sameBundle b (linkHub l) (linkGrp l) (d.link l).peer)).getD
    { hub := linkHub l, group := linkGrp l, peer := (d.link l).peer, list := [], held := [] }).held) hb).trans h

theorem linkReplayTimeoutOp_eq {v : Variant} {d : Dev} {l n : Nat} (hr : linkRuns v d l = true) (hp : (d.link l).phase = .active)
    (hh : (d.link l).replay ≠ []) (hn : d.num 0x3401 1 10 ≤ n) : linkReplayTimeoutOp v l n d = replayAll l d := by
  unfold linkReplayTimeoutOp
  rw [if_pos (by rw [hr, hp, decide_eq_true hn, List.isEmpty_eq_false_iff.mpr hh]; rfl)]

theorem linkAliveTimeoutOp_eq {v : Variant} {d : Dev} {l n : Nat} (hr : linkRuns v d l = true) (hp : (d.link l).phase = .active)
    (hn : d.num 0x3401 2 20 < n) : linkAliveTimeoutOp v l n d = enterResync l d := by
  unfold linkAliveTimeoutOp
  rw [if_pos (by rw [hr, hp, decide_eq_true hn]; rfl)]

/-- Settles O40: a control frame leaves from the link's own counts; one that comes is bad, a repeat, a gap or the next, and the next one is
an acknowledgement with a replay where it asks for one, after which nothing held by the bundle leaves. -/
theorem linkControlKeepsLinksAlive : Obligations.LinkControlKeepsLinksAlive := by
  unfold Obligations.LinkControlKeepsLinksAlive
  intro s l hr
  refine ⟨fun idle hp hs => linkControlFrameTx_sends hr hp hs, fun f hp hh => ⟨fun hc => ?_, fun hc ha => ?_, fun hc ha hw => ?_,
    fun hc ha hw => ?_⟩, fun f hp hh hc => ?_, fun n hp hh hn => ?_, fun n hp hn => ?_⟩
  · exact ⟨_, exec_linkControlFrameRx .., by rw [controlRx_bad hr hp hc]; rfl, by rw [controlRx_bad hr hp hc]; exact enterResync_link l s.dev⟩
  · refine ⟨_, exec_linkControlFrameRx .., ?_⟩
    rw [controlRx_repeat hr hp hc ha, Dev.postOnce_eq]
    exact ⟨rfl, s.dev.counted_count 0x341B (l + 1) 1⟩
  · exact ⟨_, exec_linkControlFrameRx .., by rw [controlRx_gap hr hp hc ha hw]; exact enterResync_link l s.dev⟩
  · have h := acked_drainLink (d := s.dev) s.variant f.ackseq f.nak (x := { s.dev.link l with
      rxAlive := some f.alive, credits := ((s.dev.link l).credits.zip f.cr).map (fun e => e.1 + e.2) }) rfl hh
    rw [← controlRx_next hr hp hc ha hw] at h
    exact ⟨_, exec_linkControlFrameRx .., congrArg s.on h.frame, h.out, h.counted, h.link⟩
  · have h := acked_drainLink (d := s.dev) s.variant f.ackseq true (x := { s.dev.link l with
      phase := .active, rxAlive := some f.alive, credits := f.cr }) rfl hh
    rw [← controlRx_resync hr hp hc] at h
    exact ⟨_, exec_linkControlFrameRx .., congrArg s.on h.frame, (congrArg Link.phase h.link :), (congrArg Link.credits h.link :),
      (congrArg Link.rxAlive h.link :), h.out⟩
  · refine ⟨_, exec_linkReplayTimeout .., ?_⟩
    rw [linkReplayTimeoutOp_eq hr hp hh hn]
    exact ⟨congrArg s.on (linkStep_replayAll l s.dev), replayAll_out l s.dev, replayAll_link l s.dev, counted_replayAll l s.dev⟩
  · refine ⟨_, exec_linkAliveTimeout .., ?_⟩
    rw [linkAliveTimeoutOp_eq hr hp hn]
    exact ⟨congrArg s.on (enterResync_frame l s.dev), enterResync_link l s.dev⟩

end Sys2Proof.Machine

/-!
PROOFS for the bring-up of links and the lists of bundles (R313, R327 to R329, R332 to R334, R336).
-/
namespace Sys2Proof.Machine

open Sys2Proof

theorem exec_linkCapabilityTx (s : State) (l : Nat) : exec (.linkCapabilityTx l) s = .next (s.on (linkCapabilityTxOp s.variant l s.dev)) := rfl

theorem exec_linkCapabilityRx (s : State) (l : Nat) (p : CapRecord) (ns : Nat) :
    exec (.linkCapabilityRx l p ns) s = .next (s.on (linkCapabilityRxOp s.variant l p ns s.dev)) := rfl

theorem exec_bundleRebuild (s : State) (hub group : Nat) (peer : BitVec 64) :
    exec (.bundleRebuild hub group peer) s = .next (s.on (rebuild s.variant hub group peer s.dev)) := rfl

theorem exec_bundleWaitExpiry (s : State) (hub group : Nat) (peer : BitVec 64) (n : Nat) :
    exec (.bundleWaitExpiry hub group peer n) s = .next (s.on (bundleWaitExpiryOp hub group peer n s.dev)) := rfl

/-! ### What the requests of a bundle leave as it is when they leave -/

/-- The events, the values and the state that each link is in stand as they were. -/
structure KeepsUp (d e : Dev) : Prop where
  log : e.log = d.log
  vals : e.vals = d.vals
  phase : ∀ k, (e.link k).phase = (d.link k).phase
  peer : ∀ k, (e.link k).peer = (d.link k).peer
  fresh : ∀ k, (e.link k).fresh = (d.link k).fresh

theorem keepsUp_refl (d : Dev) : KeepsUp d d := ⟨rfl, rfl, fun _ => rfl, fun _ => rfl, fun _ => rfl⟩

theorem KeepsUp.trans {d e f : Dev} (h : KeepsUp d e) (h' : KeepsUp e f) : KeepsUp d f :=
  ⟨h'.log.trans h.log, h'.vals.trans h.vals, fun k => (h'.phase k).trans (h.phase k), fun k => (h'.peer k).trans (h.peer k),
    fun k => (h'.fresh k).trans (h.fresh k)⟩

theorem keepsUp_setLink {d : Dev} {l : Nat} {x : Link} (hp : x.phase = (d.link l).phase) (hr : x.peer = (d.link l).peer)
    (hf : x.fresh = (d.link l).fresh) : KeepsUp d (d.setLink l x) := by
  have h (k : Nat) : (d.setLink l x).link k = if k = l then x else d.link k := by
    by_cases hk : k = l
    · rw [if_pos hk, hk, Dev.link_setLink_same]
    · rw [if_neg hk, Dev.link_setLink_other d x hk]
  refine ⟨rfl, rfl, fun k => ?_, fun k => ?_, fun k => ?_⟩ <;> rw [h k] <;> split <;> simp_all

theorem keepsUp_modLink (d : Dev) (l : Nat) (f : Link → Link)
    (h : ∀ x, (f x).phase = x.phase ∧ (f x).peer = x.peer ∧ (f x).fresh = x.fresh) : KeepsUp d (d.modLink l f) :=
  keepsUp_setLink (h _).1 (h _).2.1 (h _).2.2

theorem keepsUp_setBundle (d : Dev) (b : Bundle) : KeepsUp d (d.setBundle b) := ⟨rfl, rfl, fun _ => rfl, fun _ => rfl, fun _ => rfl⟩

theorem keepsUp_count (d : Dev) (idx sub n : Nat) : KeepsUp d (d.count idx sub n) := ⟨rfl, rfl, fun _ => rfl, fun _ => rfl, fun _ => rfl⟩

theorem keepsUp_emit (d : Dev) (o : Output) : KeepsUp d (d.emit o) := ⟨rfl, rfl, fun _ => rfl, fun _ => rfl, fun _ => rfl⟩

theorem keepsUp_putFrame (l : Nat) (f : LinkFrame) (d : Dev) : KeepsUp d (putFrame l f d) := by
  unfold putFrame
  dsimp only
  refine KeepsUp.trans ?_ (keepsUp_count ..)
  refine KeepsUp.trans ?_ (keepsUp_emit ..)
  apply keepsUp_setLink <;> rfl

theorem keepsUp_sendRequest {v : Variant} {l : Nat} {r : RemoteReq} {d e : Dev} (h : sendRequest v l r d = some e) : KeepsUp d e := by
  obtain ⟨tag, -, ht⟩ := Option.bind_eq_some_iff.mp h
  split at ht
  · dsimp only at ht
    rw [← Option.some.inj ht]
    refine KeepsUp.trans ?_ (keepsUp_putFrame l _ _)
    refine keepsUp_modLink _ _ _ ?_
    exact fun x => ⟨rfl, rfl, rfl⟩
  · exact nomatch ht

theorem keepsUp_foldl {α : Type} {f : Dev → α → Dev} (l : List α) (d : Dev) (h : ∀ e a, KeepsUp e (f e a)) : KeepsUp d (l.foldl f d) :=
  List.foldlRecOn (motive := fun e => KeepsUp d e) l f (keepsUp_refl d) fun e he a _ => he.trans (h e a)

theorem keepsUp_countWaits (hub group : Nat) (peer : BitVec 64) (d : Dev) : KeepsUp d (countWaits hub group peer d) := by
  have hcount (e : Dev) (o : Option Nat) : KeepsUp e (o.elim e fun l => e.count 0x341C (l + 1) 1) := by
    cases o with
    | none => exact keepsUp_refl e
    | some l => exact keepsUp_count ..
  unfold countWaits
  dsimp only
  split
  · exact keepsUp_foldl _ _ fun e a => hcount e _
  · exact (keepsUp_foldl _ _ fun e a => hcount e _).trans (keepsUp_setBundle ..)

theorem keepsUp_drainHeld (v : Variant) (hub group : Nat) (peer : BitVec 64) (d : Dev) : KeepsUp d (drainHeld v hub group peer d) := by
  unfold drainHeld
  dsimp only
  split
  · exact keepsUp_refl d
  refine KeepsUp.trans ?_ ((keepsUp_setBundle ..).trans (keepsUp_countWaits ..))
  refine List.foldlRecOn (motive := fun (r : List RemoteReq × List (Nat × Nat) × Dev) => KeepsUp d r.2.2) _ _ (keepsUp_refl d) fun r hr q _ => ?_
  split
  · exact hr
  split
  · exact hr
  split
  next d1 h1 => exact hr.trans (keepsUp_sendRequest h1)
  · exact hr

theorem keepsUp_rebuild (v : Variant) (hub group : Nat) (peer : BitVec 64) (d : Dev) : KeepsUp d (rebuild v hub group peer d) := by
  unfold rebuild
  dsimp only
  split
  · refine KeepsUp.trans ?_ (keepsUp_drainHeld ..)
    refine KeepsUp.trans ?_ (keepsUp_setBundle ..)
    refine keepsUp_foldl _ _ fun e a => keepsUp_modLink _ _ _ ?_
    exact fun x => ⟨rfl, rfl, rfl⟩
  split
  · exact keepsUp_setBundle ..
  · exact keepsUp_refl d

/-! ### A link comes up -/

/-- The loop time of a link is held in OD 0x341D. -/
def holdLoop (l ns : Nat) (d : Dev) : Dev := { d with vals := tset d.vals (odKey 0x341D (l + 1)) (toLe 4 ns) }

/-- A link that is up with the peer of a record. -/
def upLink (p : CapRecord) (x : Link) : Link :=
  { x with phase := .active, seen := true, peerSeen := true, peer := p.ident, peerLink := p.link, version := min 1 p.vmax, welide := p.welide,
           belide := p.belide, fresh := false, txAlive := 0, rxAlive := none, record := none }

/-- A link that starts afresh with the peer of a record. -/
def freshLink (p : CapRecord) (x : Link) : Link :=
  { upLink p x with txSeq := 0, rxSeq := 0, credits := p.slots, losing := x.replay != [] || x.tags != [], rxFrames := [],
                    rxUsed := [0, 0, 0, 0], rxOwed := [0, 0, 0, 0], rxSince := 0, nakOwed := false, gap := false }

/-- Both sides hold state for the link. -/
def resumes (p : CapRecord) (x : Link) : Bool := !x.fresh && p.resume && p.ident == x.peer

/-- The link of a record resumed, with what it holds replayed, or started afresh. -/
def upBase (l : Nat) (p : CapRecord) (ns : Nat) (d : Dev) : Dev :=
  if resumes p (d.link l) then ackedThen l ((p.rxseq + 4095) % 4096) true (upLink p (d.link l)) (holdLoop l ns d)
  else (holdLoop l ns d).setLink l (freshLink p (d.link l))

theorem linkUp_eq (v : Variant) (l : Nat) (p : CapRecord) (ns : Nat) (d : Dev) : linkUp v l p ns d =
    rebuild v (linkHub l) (linkGrp l) p.ident (if (d.link l).peer = p.ident then postUp l (upBase l p ns d)
      else rebuild v (linkHub l) (linkGrp l) (d.link l).peer (postUp l (upBase l p ns d))) := rfl

/-- What the link and the device are like once the link is up, before its bundle's list is rebuilt. -/
structure UpBase (l : Nat) (p : CapRecord) (ns : Nat) (d e : Dev) : Prop where
  log : e.log = d.log
  timer : e.hubTimer = d.hubTimer
  bundles : e.bundles = d.bundles
  vals : e.vals = tset d.vals (odKey 0x341D (l + 1)) (toLe 4 ns)
  phase : (e.link l).phase = .active
  peer : (e.link l).peer = p.ident
  fresh : (e.link l).fresh = false
  lanes : (e.link l).lanes = (d.link l).lanes
  resumed : resumes p (d.link l) = true → (e.link l).txSeq = (d.link l).txSeq ∧ (e.link l).rxSeq = (d.link l).rxSeq ∧
    (e.link l).credits = (d.link l).credits ∧ e.out = d.out ++ heldOut l (unacked ((p.rxseq + 4095) % 4096) (d.link l).replay)
  afresh : resumes p (d.link l) = false → (e.link l).txSeq = 0 ∧ (e.link l).rxSeq = 0 ∧ (e.link l).credits = p.slots ∧ e.out = d.out

theorem upBase_up (l : Nat) (p : CapRecord) (ns : Nat) (d : Dev) : UpBase l p ns d (upBase l p ns d) := by
  unfold upBase
  cases hr : resumes p (d.link l) with
  | true =>
    rw [if_pos rfl]
    obtain ⟨⟨hf, hout, -, hl⟩, hb⟩ := acked_ackedThen l ((p.rxseq + 4095) % 4096) true (upLink p (d.link l)) (holdLoop l ns d)
    generalize ackedThen l ((p.rxseq + 4095) % 4096) true (upLink p (d.link l)) (holdLoop l ns d) = e at hf hout hl hb
    exact ⟨(congrArg Dev.log hf :), (congrArg Dev.hubTimer hf :), hb, (congrArg Dev.vals hf :), (congrArg Link.phase hl :),
      (congrArg Link.peer hl :), (congrArg Link.fresh hl :), (congrArg Link.lanes hl :),
      fun _ => ⟨(congrArg Link.txSeq hl :), (congrArg Link.rxSeq hl :), (congrArg Link.credits hl :), hout⟩,
      fun h => absurd (hr.symm.trans h) (by decide)⟩
  | false =>
    rw [if_neg Bool.false_ne_true]
    have hl := (holdLoop l ns d).link_setLink_same l (freshLink p (d.link l))
    exact ⟨rfl, rfl, rfl, rfl, (congrArg Link.phase hl :), (congrArg Link.peer hl :), (congrArg Link.fresh hl :), (congrArg Link.lanes hl :),
      fun h => absurd (hr.symm.trans h) (by decide), fun _ => ⟨(congrArg Link.txSeq hl :), (congrArg Link.rxSeq hl :),
      (congrArg Link.credits hl :), rfl⟩⟩

/-- A link that came up: what is posted, held and sent, by the link `x` as it was. -/
structure CameUp (l : Nat) (p : CapRecord) (ns : Nat) (x : Link) (d e : Dev) : Prop where
  phase : (e.link l).phase = .active
  peer : (e.link l).peer = p.ident
  fresh : (e.link l).fresh = false
  vals : e.vals = tset d.vals (odKey 0x341D (l + 1)) (toLe 4 ns)
  posted : Posted d e (if x.lanes = 0xF then evLinkUp else evLinkDegraded) (linkHub l) (linkUnit l) []
  idle : (d.bundle (linkHub l) (linkGrp l) p.ident).held = [] → (d.bundle (linkHub l) (linkGrp l) x.peer).held = [] →
    (resumes p x = true → (e.link l).txSeq = x.txSeq ∧ (e.link l).rxSeq = x.rxSeq ∧ (e.link l).credits = x.credits ∧
      e.out = d.out ++ heldOut l (unacked ((p.rxseq + 4095) % 4096) x.replay)) ∧
    (resumes p x = false → (e.link l).txSeq = 0 ∧ (e.link l).rxSeq = 0 ∧ (e.link l).credits = p.slots ∧ e.out = d.out)

theorem Dev.bundle_of_bundles {d e : Dev} (h : e.bundles = d.bundles) (hub group : Nat) (peer : BitVec 64) :
    e.bundle hub group peer = d.bundle hub group peer := by
  unfold Dev.bundle
  rw [h]

/-- The lists that a link which came up joins and leaves are rebuilt. -/
def relistUp (v : Variant) (l : Nat) (own peer : BitVec 64) (d : Dev) : Dev :=
  rebuild v (linkHub l) (linkGrp l) peer (if own = peer then d else rebuild v (linkHub l) (linkGrp l) own d)

theorem keepsUp_relistUp (v : Variant) (l : Nat) (own peer : BitVec 64) (d : Dev) : KeepsUp d (relistUp v l own peer d) := by
  unfold relistUp
  split
  · exact keepsUp_rebuild ..
  · exact (keepsUp_rebuild ..).trans (keepsUp_rebuild ..)

theorem relisted_relistUp (v : Variant) {l : Nat} {own peer : BitVec 64} {d : Dev} (hp : (d.bundle (linkHub l) (linkGrp l) peer).held = [])
    (ho : (d.bundle (linkHub l) (linkGrp l) own).held = []) : Relisted d (relistUp v l own peer d) := by
  unfold relistUp
  split
  · exact relisted_rebuild v hp
  · have h := relisted_rebuild v ho
    exact h.trans (relisted_rebuild v ((h.held ..).trans hp))

theorem linkUp_up (v : Variant) (l : Nat) (p : CapRecord) (ns : Nat) (d : Dev) : CameUp l p ns (d.link l) d (linkUp v l p ns d) := by
  have hup := upBase_up l p ns d
  have heq : linkUp v l p ns d = relistUp v l (d.link l).peer p.ident (postUp l (upBase l p ns d)) := linkUp_eq ..
  have hk := keepsUp_relistUp v l (d.link l).peer p.ident (postUp l (upBase l p ns d))
  have hr := @relisted_relistUp v l (d.link l).peer p.ident (postUp l (upBase l p ns d))
  rw [← heq] at hk hr
  generalize linkUp v l p ns d = e at hk hr ⊢
  generalize upBase l p ns d = u at hup hk hr
  refine ⟨(hk.phase l).trans hup.phase, (hk.peer l).trans hup.peer, (hk.fresh l).trans hup.fresh, hk.vals.trans hup.vals, ?_, fun hi hx => ?_⟩
  · have hpost := u.posted_post (if (u.link l).lanes = 0xF then evLinkUp else evLinkDegraded) (linkHub l) (linkUnit l) []
    have hlog : e.log = (postUp l u).log := hk.log
    unfold Posted at hpost ⊢
    rw [hlog, ← hup.log, ← hup.timer, ← hup.lanes]
    exact hpost
  · have hb (peer : BitVec 64) : (postUp l u).bundle (linkHub l) (linkGrp l) peer = d.bundle (linkHub l) (linkGrp l) peer :=
      Dev.bundle_of_bundles hup.bundles ..
    have hrel := hr ((congrArg Bundle.held (hb _)).trans hi) ((congrArg Bundle.held (hb _)).trans hx)
    have hout : e.out = u.out := (congrArg Dev.out hrel.frame :)
    have hl : e.link l = { u.link l with away := (e.link l).away } := hrel.links l
    have htx : (e.link l).txSeq = (u.link l).txSeq := (congrArg Link.txSeq hl :)
    have hrx : (e.link l).rxSeq = (u.link l).rxSeq := (congrArg Link.rxSeq hl :)
    have hcr : (e.link l).credits = (u.link l).credits := (congrArg Link.credits hl :)
    rw [htx, hrx, hcr, hout]
    exact ⟨hup.resumed, hup.afresh⟩

theorem resumes_iff (p : CapRecord) (x : Link) : resumes p x = true ↔ x.fresh = false ∧ p.resume = true ∧ p.ident = x.peer := by
  simp only [resumes, Bool.and_eq_true, Bool.not_eq_true', beq_iff_eq, and_assoc]

theorem not_resumes_iff (p : CapRecord) (x : Link) : resumes p x = false ↔ x.fresh = true ∨ p.resume = false ∨ p.ident ≠ x.peer := by
  rw [← Bool.not_eq_true, resumes_iff, not_and_or, not_and_or, Bool.not_eq_false, Bool.not_eq_true]

/-- A link that came up, in the words of R333: `first` is what left before. -/
theorem up_of_cameUp {l : Nat} {p : CapRecord} {ns : Nat} {x : Link} {d d' e : Dev} {first : List Output} (h : CameUp l p ns x d' e)
    (hlog : d'.log = d.log) (htimer : d'.hubTimer = d.hubTimer) (hvals : d'.vals = d.vals) (hb : d'.bundles = d.bundles)
    (hout : d'.out = d.out ++ first) :
    (e.link l).phase = .active ∧ (e.link l).peer = p.ident ∧ (e.link l).fresh = false ∧
    e.vals = tset d.vals (odKey 0x341D (l + 1)) (toLe 4 ns) ∧
    Posted d e (if x.lanes = 0xF then evLinkUp else evLinkDegraded) (linkHub l) (linkUnit l) [] ∧
    ((d.bundle (linkHub l) (linkGrp l) p.ident).held = [] → (d.bundle (linkHub l) (linkGrp l) x.peer).held = [] →
      (x.fresh = false ∧ p.resume = true ∧ p.ident = x.peer →
        (e.link l).txSeq = x.txSeq ∧ (e.link l).rxSeq = x.rxSeq ∧ (e.link l).credits = x.credits ∧
        e.out = d.out ++ first ++ heldOut l (unacked ((p.rxseq + 4095) % 4096) x.replay)) ∧
      (x.fresh = true ∨ p.resume = false ∨ p.ident ≠ x.peer →
        (e.link l).txSeq = 0 ∧ (e.link l).rxSeq = 0 ∧ (e.link l).credits = p.slots ∧ e.out = d.out ++ first)) := by
  refine ⟨h.phase, h.peer, h.fresh, hvals ▸ h.vals, ?_, fun hi hx => ?_⟩
  · have hp := h.posted
    unfold Posted at hp ⊢
    rw [hp, hlog, htimer]
  · obtain ⟨hres, hnew⟩ := h.idle ((congrArg Bundle.held (Dev.bundle_of_bundles hb ..)).trans hi)
      ((congrArg Bundle.held (Dev.bundle_of_bundles hb ..)).trans hx)
    rw [resumes_iff, hout] at hres
    rw [not_resumes_iff, hout] at hnew
    exact ⟨hres, hnew⟩

/-! ### Capability records -/

/-- The capability record that a link sends, but for its CRC (Table 12.6). -/
def capRecordOf (l : Nat) (x : Link) : CapRecord :=
  { vmax := 1, vmin := 1, welide := true, belide := true, atom := true, ident := Config.linkIdentity, link := l, lanes := x.lanes,
    slots := linkSlots, seen := x.seen, tags := 4096, resume := !x.fresh, rxseq := x.rxSeq }

/-- The record that a link sends. -/
def capSent (l : Nat) (x : Link) : CapRecord := { capRecordOf l x with crc := capCrc (capRecordOf l x) }

theorem capCrc_crc (r : CapRecord) (c : BitVec 32) : capCrc { r with crc := c } = capCrc r := rfl

theorem capSent_sent (l : Nat) (x : Link) :
    (capSent l x).ident = Config.linkIdentity ∧ (capSent l x).link = l ∧ (capSent l x).lanes = x.lanes ∧ (capSent l x).seen = x.seen ∧
    (capSent l x).rxseq = x.rxSeq ∧ (capSent l x).resume = !x.fresh ∧ (capSent l x).vmin = 1 ∧ (capSent l x).vmax = 1 ∧
    (capSent l x).slots = linkSlots ∧ (capSent l x).tags = 4096 ∧ (capSent l x).crc = capCrc (capSent l x) :=
  ⟨rfl, rfl, rfl, rfl, rfl, rfl, rfl, rfl, rfl, rfl, (capCrc_crc (capRecordOf l x) _).symm⟩

/-- The record of a link has left. -/
def capTold (l : Nat) (d : Dev) : Dev :=
  (d.setLink l { d.link l with told := (d.link l).told || (d.link l).seen }).emit (.linkCap l (capSent l (d.link l)))

theorem capTold_link (l : Nat) (d : Dev) : (capTold l d).link l = { d.link l with told := (d.link l).told || (d.link l).seen } :=
  d.link_setLink_same l _

theorem capTold_frame (l : Nat) (d : Dev) :
    capTold l d = { d with links := (capTold l d).links, out := d.out ++ [.linkCap l (capSent l (d.link l))] } := rfl

theorem CameUp.of_told {l : Nat} {p : CapRecord} {ns : Nat} {x : Link} {b : Bool} {d e : Dev} (h : CameUp l p ns { x with told := b } d e) :
    CameUp l p ns x d e :=
  ⟨h.phase, h.peer, h.fresh, h.vals, h.posted, h.idle⟩

theorem linkCapabilityTxOp_eq {v : Variant} {d : Dev} {l : Nat} (hr : linkRuns v d l = true) (hp : (d.link l).phase = .exchange) :
    linkCapabilityTxOp v l d =
      if (d.link l).seen then (d.link l).record.elim (capTold l d) (fun p => linkUp v l p.1 p.2 (capTold l d)) else capTold l d := by
  have hcases (sn : Bool) (rc : Option (CapRecord × Nat)) (e : Dev) :
      (match sn, rc with | true, some (p, loopNs) => linkUp v l p loopNs e | _, _ => e) =
        if sn then rc.elim e (fun p => linkUp v l p.1 p.2 e) else e := by
    cases sn <;> cases rc <;> rfl
  unfold linkCapabilityTxOp
  exact (if_pos (by rw [hr, hp]; rfl)).trans (hcases (d.link l).seen (d.link l).record (capTold l d))

theorem linkCapabilityTxOp_waits {v : Variant} {d : Dev} {l : Nat} (hr : linkRuns v d l = true) (hp : (d.link l).phase = .exchange)
    (h : (d.link l).seen = false ∨ (d.link l).record = none) : linkCapabilityTxOp v l d = capTold l d := by
  rw [linkCapabilityTxOp_eq hr hp]
  rcases h with h | h
  · rw [h, if_neg Bool.false_ne_true]
  · rw [h]
    exact ite_self _

theorem linkCapabilityTxOp_up {v : Variant} {d : Dev} {l : Nat} {p : CapRecord} {ns : Nat} (hr : linkRuns v d l = true)
    (hp : (d.link l).phase = .exchange) (hs : (d.link l).seen = true) (hrec : (d.link l).record = some (p, ns)) :
    linkCapabilityTxOp v l d = linkUp v l p ns (capTold l d) := by
  rw [linkCapabilityTxOp_eq hr hp, if_pos hs, hrec]
  rfl

section Records
variable {v : Variant} {d : Dev} {l : Nat} {p : CapRecord}

theorem linkCapabilityRxOp_bad (ns : Nat) (hc : p.crc ≠ capCrc p) : linkCapabilityRxOp v l p ns d = d := by
  unfold linkCapabilityRxOp
  exact if_pos (by rw [decide_eq_true hc, Bool.or_true])

variable (hr : linkRuns v d l = true) (hp : (d.link l).phase = .exchange) (hc : p.crc = capCrc p)
include hr hp hc

theorem linkCapabilityRxOp_good (ns : Nat) : linkCapabilityRxOp v l p ns d =
    if p.ident = Config.linkIdentity then (enterDown l d).post evLinkSelf (linkHub l) (linkUnit l) []
    else if min 1 p.vmax < max 1 p.vmin then (enterDown l d).post evLinkVersion (linkHub l) (linkUnit l) []
    else if !p.seen then d.setLink l { d.link l with seen := true }
    else if (d.link l).told then linkUp v l p ns d
    else d.setLink l { d.link l with seen := true, peerSeen := true, record := some (p, ns) } := by
  unfold linkCapabilityRxOp
  exact if_neg (by rw [hr, hp, decide_eq_false (not_not.mpr hc)]; decide)

end Records

/-- A link that went DOWN with an event. -/
theorem enterDown_post {d : Dev} {l : Nat} (code : BitVec 16) :
    (enterDown l d).post code (linkHub l) (linkUnit l) [] = { d with
      links := ((enterDown l d).post code (linkHub l) (linkUnit l) []).links,
      log := ((enterDown l d).post code (linkHub l) (linkUnit l) []).log } ∧
    (((enterDown l d).post code (linkHub l) (linkUnit l) []).link l).phase = .down ∧
    Posted d ((enterDown l d).post code (linkHub l) (linkUnit l) []) code (linkHub l) (linkUnit l) [] :=
  ⟨rfl, enterDown_phase l d, (enterDown l d).posted_post code (linkHub l) (linkUnit l) []⟩

/-- A link of which this side has seen the record, and what it holds of it. -/
def seenLink (p : CapRecord) (ns : Nat) (x : Link) : Link :=
  if p.seen then { x with seen := true, peerSeen := true, record := some (p, ns) } else { x with seen := true }

theorem linkCapabilityRxOp_seen {v : Variant} {d : Dev} {l : Nat} {p : CapRecord} (ns : Nat) (hr : linkRuns v d l = true)
    (hp : (d.link l).phase = .exchange) (hc : p.crc = capCrc p) (hi : p.ident ≠ Config.linkIdentity) (hv : ¬(min 1 p.vmax < max 1 p.vmin))
    (h : p.seen = false ∨ (d.link l).told = false) : linkCapabilityRxOp v l p ns d = d.setLink l (seenLink p ns (d.link l)) := by
  rw [linkCapabilityRxOp_good hr hp hc, if_neg hi, if_neg hv, seenLink]
  cases hs : p.seen with
  | false => rfl
  | true =>
    rw [if_neg (by decide), if_neg (by rw [h.resolve_left (by rw [hs]; decide)]; decide)]
    rfl

theorem linkCapabilityRxOp_up {v : Variant} {d : Dev} {l : Nat} {p : CapRecord} (ns : Nat) (hr : linkRuns v d l = true)
    (hp : (d.link l).phase = .exchange) (hc : p.crc = capCrc p) (hi : p.ident ≠ Config.linkIdentity) (hv : ¬(min 1 p.vmax < max 1 p.vmin))
    (hs : p.seen = true) (ht : (d.link l).told = true) : linkCapabilityRxOp v l p ns d = linkUp v l p ns d := by
  rw [linkCapabilityRxOp_good hr hp hc, if_neg hi, if_neg hv, hs, if_neg (by decide), if_pos ht]

/-! ### Bundles that wait -/

theorem mem_spreadList {d : Dev} {b : Bundle} {l : Nat} (h : l ∈ spreadList d b) : (d.link l).phase = .active ∧ (d.link l).peer = b.peer := by
  obtain ⟨k, hk, hl⟩ := List.mem_flatMap.mp h
  obtain ⟨-, rfl⟩ := List.mem_replicate.mp hl
  have hcond := (List.mem_filter.mp hk).2
  rw [Bool.and_eq_true, Bool.and_eq_true, beq_iff_eq, beq_iff_eq] at hcond
  exact ⟨hcond.1.1, hcond.1.2⟩

theorem bundleRebuild_rebuilds {s : State} {hub group : Nat} {peer : BitVec 64}
    (hm : mayRebuild s.dev (s.dev.bundle hub group peer) = true) (hh : (s.dev.bundle hub group peer).held = []) :
    ∃ t, exec (.bundleRebuild hub group peer) s = .next t ∧ t = s.on { s.dev with bundles := t.dev.bundles, links := t.dev.links } ∧
      t.dev.bundle hub group peer =
        { s.dev.bundle hub group peer with list := spreadList s.dev (s.dev.bundle hub group peer), due := false } ∧
      (∀ l, t.dev.link l = { s.dev.link l with away := (t.dev.link l).away }) ∧
      (∀ l ∈ (t.dev.bundle hub group peer).list, (t.dev.link l).phase = .active ∧ (t.dev.link l).peer = peer ∧
        (t.dev.link l).away = false) := by
  have hrel := relisted_rebuild s.variant hh
  have heq := rebuild_idle s.variant hm hh
  have hb : (rebuild s.variant hub group peer s.dev).bundle hub group peer =
      { s.dev.bundle hub group peer with list := spreadList s.dev (s.dev.bundle hub group peer), due := false } := by
    rw [heq]
    exact Dev.bundle_setBundle_of _ (s.dev.bundle_key hub group peer)
  refine ⟨_, exec_bundleRebuild .., congrArg s.on hrel.frame, hb, hrel.links, fun l hl => ?_⟩
  have hlist : ((rebuild s.variant hub group peer s.dev).bundle hub group peer).list = spreadList s.dev (s.dev.bundle hub group peer) :=
    (congrArg Bundle.list hb :)
  have hmem : l ∈ spreadList s.dev (s.dev.bundle hub group peer) := hlist ▸ hl
  have hlink : (rebuild s.variant hub group peer s.dev).link l =
      { s.dev.link l with away := if l ∈ (spreadList s.dev (s.dev.bundle hub group peer)).eraseDups then false else (s.dev.link l).away } := by
    rw [heq]
    exact joinAll_link ..
  obtain ⟨hphase, hpeer⟩ := mem_spreadList hmem
  refine ⟨(congrArg Link.phase hlink).trans hphase, (congrArg Link.peer hlink).trans (hpeer.trans (s.dev.bundle_key hub group peer).2.2),
    (congrArg Link.away hlink).trans (if_pos (List.mem_eraseDups.mpr hmem))⟩

theorem bundleRebuild_due {s : State} {hub group : Nat} {peer : BitVec 64}
    (hm : mayRebuild s.dev (s.dev.bundle hub group peer) = false) :
    ∃ t, exec (.bundleRebuild hub group peer) s = .next t ∧ t = s.on { s.dev with bundles := t.dev.bundles } ∧
      t.dev.bundle hub group peer = { s.dev.bundle hub group peer with
        due := (s.dev.bundle hub group peer).due || rebuildDue s.dev (s.dev.bundle hub group peer) } := by
  refine ⟨_, exec_bundleRebuild .., ?_⟩
  rw [rebuild_refused _ hm]
  cases rebuildDue s.dev (s.dev.bundle hub group peer) with
  | false => exact ⟨rfl, by rw [Bool.or_false]; rfl⟩
  | true => exact ⟨rfl, by rw [Bool.or_true]; exact Dev.bundle_setBundle_of _ (s.dev.bundle_key hub group peer)⟩

theorem bundleWaitExpiryOp_eq {d : Dev} {hub group n : Nat} {peer : BitVec 64}
    (ha : ∀ l ∈ groupLinks hub group, ¬((d.link l).phase = .active ∧ (d.link l).peer = peer)) (hh : (d.bundle hub group peer).held ≠ [])
    (hn : d.num 0x3401 4 1000 ≤ n) : bundleWaitExpiryOp hub group peer n d =
      (d.bundle hub group peer).held.foldl (fun (d : Dev) r => failRemote r stLinkDown d)
        (d.setBundle { d.bundle hub group peer with held := [] }) := by
  have hno : (groupLinks hub group).any (fun l => (d.link l).phase == .active && (d.link l).peer == peer) = false := by
    refine List.any_eq_false.mpr fun l hl => ?_
    rw [Bool.and_eq_true, beq_iff_eq, beq_iff_eq]
    exact ha l hl
  unfold bundleWaitExpiryOp
  dsimp only
  rw [if_pos (by rw [hno, decide_eq_true hn, List.isEmpty_eq_false_iff.mpr hh]; rfl)]

theorem failRemotes_requests (rs : List RemoteReq) (st : BitVec 8) (h : ∀ r ∈ rs, r.tile = none) (d : Dev) :
    ∃ rooms remote, rs.foldl (fun (d : Dev) r => failRemote r st d) d =
      { d with out := d.out ++ rs.map (fun r => .remoteDone r [] true), rooms := rooms, remote := remote } := by
  obtain ⟨rooms, remote, hall⟩ := failRemotes_untiled (rs.map fun r => { tag := 0, req := r }) st
    (fun u hu => by obtain ⟨r, hr, rfl⟩ := List.mem_map.mp hu; exact h r hr) d
  rw [List.foldl_map, List.map_map] at hall
  exact ⟨rooms, remote, hall⟩

theorem bundleWaitExpiry_poisons {s : State} {hub group n : Nat} {peer : BitVec 64}
    (ha : ∀ l ∈ groupLinks hub group, ¬((s.dev.link l).phase = .active ∧ (s.dev.link l).peer = peer))
    (hh : (s.dev.bundle hub group peer).held ≠ []) (hn : s.dev.num 0x3401 4 1000 ≤ n)
    (ht : ∀ r ∈ (s.dev.bundle hub group peer).held, r.tile = none) :
    ∃ t, exec (.bundleWaitExpiry hub group peer n) s = .next t ∧
      t = s.on { s.dev with bundles := t.dev.bundles, out := t.dev.out, rooms := t.dev.rooms, remote := t.dev.remote } ∧
      t.dev.bundle hub group peer = { s.dev.bundle hub group peer with held := [] } ∧
      t.dev.out = s.dev.out ++ (s.dev.bundle hub group peer).held.map (fun r => .remoteDone r [] true) := by
  refine ⟨_, exec_bundleWaitExpiry .., ?_⟩
  obtain ⟨rooms, remote, h⟩ := failRemotes_requests (s.dev.bundle hub group peer).held stLinkDown ht
    (s.dev.setBundle { s.dev.bundle hub group peer with held := [] })
  rw [bundleWaitExpiryOp_eq ha hh hn, h]
  exact ⟨rfl, Dev.bundle_setBundle_of s.dev (s.dev.bundle_key hub group peer), rfl⟩

/-- Settles O42: a record leaves and comes under its CRC, a link that both sides have seen comes up resumed or afresh, and a list is rebuilt
or due. -/
theorem linksExchangeAndBundle : Obligations.LinksExchangeAndBundle := by
  unfold Obligations.LinksExchangeAndBundle
  refine ⟨fun s l hr hp => ⟨fun h => ?_, fun p ns hs hrec => ?_, fun p ns hc => ?_, fun p ns hc => ⟨fun hi => ?_, fun hi hv => ?_,
    fun hi hv => ⟨fun h => ?_, fun hs ht => ?_⟩⟩⟩, fun s hub group peer => ⟨fun hm hh => bundleRebuild_rebuilds hm hh,
    fun hm => bundleRebuild_due hm, fun n ha hh hn ht => bundleWaitExpiry_poisons ha hh hn ht⟩⟩
  · refine ⟨_, capSent l (s.dev.link l), exec_linkCapabilityTx .., capSent_sent .., ?_⟩
    rw [linkCapabilityTxOp_waits hr hp h]
    exact ⟨rfl, fun k hk => Dev.link_setLink_other s.dev _ hk, capTold_link l s.dev⟩
  · refine ⟨_, capSent l (s.dev.link l), exec_linkCapabilityTx .., capSent_sent .., ?_⟩
    rw [linkCapabilityTxOp_up hr hp hs hrec]
    have hup := linkUp_up s.variant l p ns (capTold l s.dev)
    rw [capTold_link] at hup
    have hframe := capTold_frame l s.dev
    exact up_of_cameUp hup.of_told (congrArg Dev.log hframe :) (congrArg Dev.hubTimer hframe :) (congrArg Dev.vals hframe :)
      (congrArg Dev.bundles hframe :) (congrArg Dev.out hframe :)
  · rw [exec_linkCapabilityRx, linkCapabilityRxOp_bad ns hc, State.on_self]
  · refine ⟨_, exec_linkCapabilityRx .., ?_⟩
    rw [linkCapabilityRxOp_good hr hp hc, if_pos hi]
    obtain ⟨hf, hd, hpost⟩ := enterDown_post (d := s.dev) (l := l) evLinkSelf
    exact ⟨congrArg s.on hf, hd, hpost⟩
  · refine ⟨_, exec_linkCapabilityRx .., ?_⟩
    rw [linkCapabilityRxOp_good hr hp hc, if_neg hi, if_pos hv]
    obtain ⟨hf, hd, hpost⟩ := enterDown_post (d := s.dev) (l := l) evLinkVersion
    exact ⟨congrArg s.on hf, hd, hpost⟩
  · refine ⟨_, exec_linkCapabilityRx .., ?_⟩
    rw [linkCapabilityRxOp_seen ns hr hp hc hi hv h]
    exact ⟨rfl, fun k hk => Dev.link_setLink_other s.dev _ hk, s.dev.link_setLink_same l _⟩
  · refine ⟨_, exec_linkCapabilityRx .., ?_⟩
    rw [linkCapabilityRxOp_up ns hr hp hc hi hv hs ht]
    exact up_of_cameUp (linkUp_up s.variant l p ns s.dev) rfl rfl rfl rfl (List.append_nil _).symm

end Sys2Proof.Machine

/-!
PROOFS for the data frames of links (R319, R321, R322, R324 to R327): requests and their answers leave, frames are delivered.
-/
namespace Sys2Proof.Machine

open Sys2Proof

theorem exec_linkDataFrameRx (s : State) (l : Nat) (f : LinkFrame) :
    exec (.linkDataFrameRx l f) s = .next (s.on (linkDataFrameRxOp s.variant l f s.dev)) := rfl

theorem exec_linkDataFrameTx (s : State) (l : Nat) (r : Option RemoteReq) :
    exec (.linkDataFrameTx l r) s = .next (s.on (linkDataFrameTxOp s.variant l r s.dev)) := rfl

/-! ### Frames that come -/

/-- What forward error correction mended in a frame is counted. -/
def fecCounted (l : Nat) (f : LinkFrame) (d : Dev) : Dev := d.count 0x341E (l + 1) f.fec

/-- A link that owes a nak. -/
def owesNak (x : Link) : Link := { x with gap := true, nakOwed := true }

/-- A link to which a request frame in order was delivered. -/
def tookRequest (f : LinkFrame) (al : Option Nat) (x : Link) : Link :=
  { x with rxSeq := (x.rxSeq + 1) % 4096, gap := false, rxSince := x.rxSince + 1, rxFrames := x.rxFrames ++ [(f, al)],
           rxUsed := addAt x.rxUsed f.cls 1 }

/-- A link to which an answer frame in order was delivered. -/
def tookAnswer (f : LinkFrame) (x : Link) : Link :=
  { x with rxSeq := (x.rxSeq + 1) % 4096, gap := false, rxSince := x.rxSince + 1, rxOwed := addAt x.rxOwed f.cls 1 }

/-- Two counters that a step counts one after the other. -/
def Counted2 (d e : Dev) (l idx1 n1 idx2 n2 : Nat) : Prop := ∀ k, tget 0 e.ctr k = tget 0 d.ctr k +
  (if k = odKey idx1 (l + 1) then n1 else 0) + (if k = odKey idx2 (l + 1) then n2 else 0)

theorem counted2_of {d d1 e : Dev} {l idx1 n1 idx2 n2 : Nat} (h1 : Counted d d1 idx1 (l + 1) n1) (h2 : Counted d1 e idx2 (l + 1) n2) :
    Counted2 d e l idx1 n1 idx2 n2 := fun k => by rw [h2 k, h1 k]

/-- A link set, its mended bits and one more counter counted. -/
def received (l : Nat) (f : LinkFrame) (x : Link) (idx : Nat) (d : Dev) : Dev := ((fecCounted l f d).setLink l x).count idx (l + 1) 1

section Receives
variable {v : Variant} {d : Dev} {l : Nat} {f : LinkFrame}
variable (hr : linkRuns v d l = true) (hp : (d.link l).phase = .active) (hlose : (d.link l).losing = false)
include hr hp hlose

theorem linkDataFrameRxOp_eq : linkDataFrameRxOp v l f d =
    if f.crc ≠ dataCrc f then received l f (owesNak (d.link l)) 0x3418 d
    else if f.seq = (d.link l).rxSeq then
      if decide (f.op ∈ [0x02, 0x08, 0x18, 0x19]) then
        received l f (tookRequest f ((admits d f).map (fun a => a.handle)) (d.link l)) 0x3417 d
      else takeAnswer l f (received l f (tookAnswer f (d.link l)) 0x3417 d)
    else if ((d.link l).rxSeq + 4096 - f.seq) % 4096 ≤ 2048 then fecCounted l f d
    else received l f (owesNak (d.link l)) 0x3418 d := by
  unfold linkDataFrameRxOp
  dsimp only
  rw [if_neg (by rw [Dev.link_count, hr, hp, hlose]; decide)]
  cases decide (f.op ∈ [0x02, 0x08, 0x18, 0x19]) <;> rfl

end Receives

theorem received_frame (l : Nat) (f : LinkFrame) (x : Link) (idx : Nat) (d : Dev) : received l f x idx d =
    { d with links := (received l f x idx d).links, ctr := (received l f x idx d).ctr } := rfl

theorem received_link (l : Nat) (f : LinkFrame) (x : Link) (idx : Nat) (d : Dev) : (received l f x idx d).link l = x :=
  d.link_setLink_same l x

theorem received_other {l k : Nat} (f : LinkFrame) (x : Link) (idx : Nat) (d : Dev) (h : k ≠ l) : (received l f x idx d).link k = d.link k :=
  d.link_setLink_other x h

theorem received_counted (l : Nat) (f : LinkFrame) (x : Link) (idx : Nat) (d : Dev) :
    Counted2 d (received l f x idx d) l 0x341E f.fec idx 1 :=
  counted2_of (d.counted_count 0x341E (l + 1) f.fec) (((fecCounted l f d).setLink l x).counted_count idx (l + 1) 1)

/-- An answer without a tile reaches its requester. -/
theorem takeAnswer_untiled {l : Nat} {f : LinkFrame} {d : Dev} {u : TagUse}
    (hu : (d.link l).tags.find? (fun w => decide (w.tag = f.tag)) = some u) (ht : u.req.tile = none) :
    takeAnswer l f d = remoteAnswer u.req (if f.poison then [] else if f.op = 0x10 then (densePayload f).take u.req.len else densePayload f)
      (if f.poison then some stRemoteDenied else none) (d.modLink l fun x => { x with tags := x.tags.filter (fun w => w.tag != f.tag) }) := by
  unfold takeAnswer
  rw [hu]
  cases f.poison with
  | true =>
    dsimp only
    rw [if_pos rfl, if_pos rfl, if_pos rfl, failRemote_untiled ht]
  | false =>
    dsimp only
    rw [if_neg Bool.false_ne_true, if_neg Bool.false_ne_true, if_neg Bool.false_ne_true]
    generalize u.req.tile = t at ht
    subst ht
    rfl

theorem remoteAnswer_other {r : RemoteReq} (h : r.op ≠ 0x08) (b : Bytes) (st : Option (BitVec 8)) (d : Dev) :
    (remoteAnswer r b st d).rooms = d.rooms ∧ (remoteAnswer r b st d).remote = d.remote := by
  unfold remoteAnswer
  dsimp only
  rw [if_neg h]
  exact ⟨rfl, rfl⟩

theorem linkDataFrameRx_answer {s : State} {l : Nat} {f : LinkFrame} {u : TagUse} (hr : linkRuns s.variant s.dev l = true)
    (hp : (s.dev.link l).phase = .active) (hlose : (s.dev.link l).losing = false) (hc : f.crc = dataCrc f) (hs : f.seq = (s.dev.link l).rxSeq)
    (hop : f.op ∉ [0x02, 0x08, 0x18, 0x19]) (hu : (s.dev.link l).tags.find? (fun w => decide (w.tag = f.tag)) = some u)
    (ht : u.req.tile = none) :
    ∃ t, exec (.linkDataFrameRx l f) s = .next t ∧
      t = s.on { s.dev with links := t.dev.links, ctr := t.dev.ctr, out := t.dev.out, rooms := t.dev.rooms, remote := t.dev.remote } ∧
      (u.req.op ≠ 0x08 → t.dev.rooms = s.dev.rooms ∧ t.dev.remote = s.dev.remote) ∧ Counted2 s.dev t.dev l 0x341E f.fec 0x3417 1 ∧
      t.dev.link l = { s.dev.link l with
        rxSeq := ((s.dev.link l).rxSeq + 1) % 4096, gap := false, rxSince := (s.dev.link l).rxSince + 1,
        rxOwed := addAt (s.dev.link l).rxOwed f.cls 1, tags := (s.dev.link l).tags.filter (fun w => w.tag != f.tag) } ∧
      t.dev.out = s.dev.out ++ [.remoteDone u.req (if f.poison then []
        else if f.op = 0x10 then (densePayload f).take u.req.len else densePayload f) f.poison] := by
  refine ⟨_, exec_linkDataFrameRx .., ?_⟩
  simp only [State.on_dev]
  rw [linkDataFrameRxOp_eq hr hp hlose, if_neg (not_not.mpr hc), if_pos hs, decide_eq_false hop, if_neg Bool.false_ne_true]
  have hf := received_frame l f (tookAnswer f (s.dev.link l)) 0x3417 s.dev
  have hl := received_link l f (tookAnswer f (s.dev.link l)) 0x3417 s.dev
  have hcnt := received_counted l f (tookAnswer f (s.dev.link l)) 0x3417 s.dev
  generalize received l f (tookAnswer f (s.dev.link l)) 0x3417 s.dev = e at hf hl hcnt ⊢
  rw [takeAnswer_untiled (u := u) (by rw [hl]; exact hu) ht]
  have hmod := e.link_modLink_same l (fun x => { x with tags := x.tags.filter (fun w => w.tag != f.tag) })
  rw [hl] at hmod
  have hef : e.modLink l (fun x => { x with tags := x.tags.filter (fun w => w.tag != f.tag) }) = { s.dev with
      links := (e.modLink l (fun x => { x with tags := x.tags.filter (fun w => w.tag != f.tag) })).links, ctr := e.ctr } := by
    rw [hf]
    rfl
  generalize e.modLink l (fun x => { x with tags := x.tags.filter (fun w => w.tag != f.tag) }) = e' at hef hmod ⊢
  have hno := remoteAnswer_other (r := u.req) (b := if f.poison then []
    else if f.op = 0x10 then (densePayload f).take u.req.len else densePayload f) (st := if f.poison then some stRemoteDenied else none) (d := e')
  have ha := remoteAnswer_frame u.req (if f.poison then []
    else if f.op = 0x10 then (densePayload f).take u.req.len else densePayload f) (if f.poison then some stRemoteDenied else none) e'
  rw [show (if f.poison then some stRemoteDenied else none).isSome = f.poison by cases f.poison <;> rfl] at ha
  generalize remoteAnswer u.req (if f.poison then [] else if f.op = 0x10 then (densePayload f).take u.req.len else densePayload f)
    (if f.poison then some stRemoteDenied else none) e' = a at hno ha ⊢
  have hout : e'.out = s.dev.out := (congrArg Dev.out hef :)
  have hctr : e'.ctr = e.ctr := (congrArg Dev.ctr hef :)
  have hrooms : e'.rooms = s.dev.rooms := (congrArg Dev.rooms hef :)
  have hremote : e'.remote = s.dev.remote := (congrArg Dev.remote hef :)
  have halinks : a.links = e'.links := (congrArg Dev.links ha :)
  have hactr : a.ctr = e'.ctr := (congrArg Dev.ctr ha :)
  have haout : a.out = e'.out ++ _ := (congrArg Dev.out ha :)
  refine ⟨congrArg s.on ?_, fun h8 => ?_, fun k => ?_, ?_, ?_⟩
  · rw [ha, hef]
  · rw [(hno h8).1, (hno h8).2, hrooms, hremote]
    exact ⟨rfl, rfl⟩
  · rw [hactr, hctr]
    exact hcnt k
  · rw [show a.link l = e'.link l from congrArg (fun t => tget ({} : Link) t l) halinks, hmod]
    rfl
  · rw [haout, hout]

/-- Settles O39: a frame is bad, in order, delivered before or after a missing one, and each of these sets the link and counts. -/
theorem linkFramesDelivered : Obligations.LinkFramesDelivered := by
  unfold Obligations.LinkFramesDelivered
  intro s l f hr hp hlose
  refine ⟨fun hc => ⟨_, exec_linkDataFrameRx .., ?_⟩, fun hc hs hop => ⟨_, exec_linkDataFrameRx .., ?_⟩,
    fun u hc hs hop hu ht => linkDataFrameRx_answer hr hp hlose hc hs hop hu ht, fun hc hs => ⟨_, exec_linkDataFrameRx .., ?_⟩⟩
  · simp only [State.on_dev]
    rw [linkDataFrameRxOp_eq hr hp hlose, if_pos hc]
    exact ⟨congrArg s.on (received_frame l f _ 0x3418 s.dev), fun k hk => received_other f _ 0x3418 s.dev hk,
      received_link l f _ 0x3418 s.dev, received_counted l f _ 0x3418 s.dev⟩
  · simp only [State.on_dev]
    rw [linkDataFrameRxOp_eq hr hp hlose, if_neg (not_not.mpr hc), if_pos hs, if_pos (decide_eq_true hop)]
    exact ⟨congrArg s.on (received_frame l f _ 0x3417 s.dev), fun k hk => received_other f _ 0x3417 s.dev hk,
      received_counted l f _ 0x3417 s.dev, received_link l f _ 0x3417 s.dev⟩
  · simp only [State.on_dev]
    rw [linkDataFrameRxOp_eq hr hp hlose, if_neg (not_not.mpr hc), if_neg hs]
    by_cases hw : ((s.dev.link l).rxSeq + 4096 - f.seq) % 4096 ≤ 2048
    · rw [if_pos hw, if_pos hw]
      refine ⟨rfl, fun _ _ => rfl, rfl, fun k => ?_⟩
      rw [ite_self, Nat.add_zero]
      exact s.dev.counted_count 0x341E (l + 1) f.fec k
    · rw [if_neg hw, if_neg hw]
      exact ⟨congrArg s.on (received_frame l f _ 0x3418 s.dev), fun k hk => received_other f _ 0x3418 s.dev hk,
        received_link l f _ 0x3418 s.dev, received_counted l f _ 0x3418 s.dev⟩

end Sys2Proof.Machine

/-!
PROOFS for the requests of links and their answers (R319, R321, R322, R324 to R327).
-/
namespace Sys2Proof.Machine

open Sys2Proof

/-! ### Frames that leave -/

/-- A frame with its sequence number and its CRC. -/
def sealed (f : LinkFrame) (seq : Nat) : LinkFrame := { f with seq := seq, crc := dataCrc { f with seq := seq } }

theorem dataCrc_crc (f : LinkFrame) (c : BitVec 32) : dataCrc { f with crc := c } = dataCrc f := by
  simp only [dataCrc, dataHeader]

theorem dataCrc_sealed (f : LinkFrame) (seq : Nat) : (sealed f seq).crc = dataCrc (sealed f seq) :=
  (dataCrc_crc { f with seq := seq } _).symm

/-- A link from which a frame has left. -/
def putLink (f : LinkFrame) (x : Link) : Link :=
  { x with txSeq := (x.txSeq + 1) % 4096, credits := subAt x.credits f.cls 1, replay := x.replay ++ [{ frame := sealed f x.txSeq, replays := 0 }] }

theorem putFrame_eq (l : Nat) (f : LinkFrame) (d : Dev) : putFrame l f d =
    ((d.setLink l (putLink f (d.link l))).emit (.linkData l (sealed f (d.link l).txSeq))).count 0x3416 (l + 1) 1 := rfl

theorem putFrame_frame (l : Nat) (f : LinkFrame) (d : Dev) : putFrame l f d = { d with
    links := (putFrame l f d).links, out := d.out ++ [.linkData l (sealed f (d.link l).txSeq)], ctr := (putFrame l f d).ctr } := rfl

theorem putFrame_link (l : Nat) (f : LinkFrame) (d : Dev) : (putFrame l f d).link l = putLink f (d.link l) := d.link_setLink_same l _

theorem putFrame_link_other {l k : Nat} (f : LinkFrame) (d : Dev) (h : k ≠ l) : (putFrame l f d).link k = d.link k :=
  d.link_setLink_other _ h

theorem counted_putFrame (l : Nat) (f : LinkFrame) (d : Dev) : Counted d (putFrame l f d) 0x3416 (l + 1) 1 := by
  rw [putFrame_eq]
  exact counted_count_of rfl _ _ _

/-- A link that holds one more tag. -/
def takeTag (tag : Nat) (r : RemoteReq) (x : Link) : Link := { x with tags := x.tags ++ [{ tag := tag, req := r }] }

/-- The frame of a request under a tag. -/
def requestFrame (l : Nat) (r : RemoteReq) (tag : Nat) (d : Dev) : LinkFrame :=
  formLink d l r.op r.cls r.kind r.len tag r.exp r.offset false (reqPayload r)

section Requests
variable {v : Variant} {d : Dev} {l : Nat} {r : RemoteReq}

theorem sendRequest_some {tag : Nat} (ht : freeTag (d.link l) = some tag) (hput : mayPut v d l r.cls = true) (ha : (d.link l).away = false)
    (hp : (d.link l).peer = r.peer) : sendRequest v l r d = some (putFrame l (requestFrame l r tag d) (d.modLink l (takeTag tag r))) := by
  unfold sendRequest
  rw [ht, Option.bind_some, if_pos (by rw [hput, ha, hp, beq_self_eq_true]; rfl)]
  rfl

theorem sendRequest_none (h : (d.link l).away = true ∨ (d.link l).peer ≠ r.peer ∨ freeTag (d.link l) = none ∨ mayPut v d l r.cls = false) :
    sendRequest v l r d = none := by
  unfold sendRequest
  rcases ht : freeTag (d.link l) with _ | tag
  · rfl
  · refine if_neg ?_
    rw [Bool.and_eq_true, Bool.and_eq_true, beq_iff_eq, Bool.not_eq_true']
    rintro ⟨⟨hm, ha⟩, hp⟩
    rcases h with h | h | h | h
    · exact absurd (ha.symm.trans h) (by decide)
    · exact h hp
    · exact absurd (ht.symm.trans h) (by simp)
    · exact absurd (hm.symm.trans h) (by decide)

end Requests

/-! ### Requests that wait for a credit -/

/-- Requests counted in OD 0x341C under the links that they wait for. -/
def countOn (on : RemoteReq → Option Nat) (rs : List RemoteReq) (d : Dev) : Dev :=
  rs.foldl (fun (d : Dev) r => (on r).elim d (fun l => d.count 0x341C (l + 1) 1)) d

theorem countOn_frame (on : RemoteReq → Option Nat) (rs : List RemoteReq) (d : Dev) : ∃ c, countOn on rs d = { d with ctr := c } := by
  induction rs generalizing d with
  | nil => exact ⟨d.ctr, rfl⟩
  | cons r rs ih =>
    rw [countOn, List.foldl_cons]
    cases on r with
    | none => exact ih d
    | some l => exact (ih (d.count 0x341C (l + 1) 1)).imp fun c hc => hc

/-- The request waits for the link whose counter has the key. -/
def countsAt (on : RemoteReq → Option Nat) (k : Nat) (r : RemoteReq) : Bool := (on r).any (fun l => k == odKey 0x341C (l + 1))

theorem countOn_ctr (on : RemoteReq → Option Nat) (rs : List RemoteReq) (d : Dev) (k : Nat) :
    tget 0 (countOn on rs d).ctr k = tget 0 d.ctr k + rs.countP (countsAt on k) := by
  induction rs generalizing d with
  | nil => rfl
  | cons r rs ih =>
    rw [countOn, List.foldl_cons, List.countP_cons]
    cases hr : on r with
    | none =>
      rw [show countsAt on k r = false by rw [countsAt, hr]; rfl]
      exact ih d
    | some l =>
      rw [show countsAt on k r = (k == odKey 0x341C (l + 1)) by rw [countsAt, hr]; rfl]
      refine (ih (d.count 0x341C (l + 1) 1)).trans ?_
      rw [d.counted_count 0x341C (l + 1) 1 k]
      by_cases hk : k = odKey 0x341C (l + 1)
      · rw [if_pos hk, if_pos (by rw [hk, beq_self_eq_true]), Nat.add_assoc, Nat.add_comm 1]
      · rw [if_neg hk, if_neg (by rwa [beq_iff_eq]), Nat.add_zero, Nat.add_zero]

/-- The link on which a request of a bundle waits for a credit. -/
def waitsOn (d : Dev) (b : Bundle) (r : RemoteReq) : Option Nat :=
  (spreadLink b r.offset).bind (fun l => if noCredit d l r.cls then some l else none)

/-- The requests of a bundle that wait for a credit and were not counted before. -/
def newWaits (d : Dev) (b : Bundle) : List RemoteReq := b.held.filter (fun r => (waitsOn d b r).isSome && !b.waited.contains r)

theorem countWaits_eq (hub group : Nat) (peer : BitVec 64) (d : Dev) : countWaits hub group peer d =
    if newWaits d (d.bundle hub group peer) = [] then countOn (waitsOn d (d.bundle hub group peer)) (newWaits d (d.bundle hub group peer)) d
    else (countOn (waitsOn d (d.bundle hub group peer)) (newWaits d (d.bundle hub group peer)) d).setBundle { d.bundle hub group peer with
      waited := (d.bundle hub group peer).waited.filter (fun r => (d.bundle hub group peer).held.contains r) ++
        newWaits d (d.bundle hub group peer) } := rfl

/-- What a count of waits leaves: counters, and of its bundle the requests that were counted. -/
structure WaitsCounted (hub group : Nat) (peer : BitVec 64) (d e : Dev) : Prop where
  frame : e = { d with bundles := e.bundles, ctr := e.ctr }
  held : (e.bundle hub group peer).held = (d.bundle hub group peer).held
  list : (e.bundle hub group peer).list = (d.bundle hub group peer).list
  due : (e.bundle hub group peer).due = (d.bundle hub group peer).due
  ctr : ∀ k, tget 0 e.ctr k = tget 0 d.ctr k +
    (newWaits d (d.bundle hub group peer)).countP (countsAt (waitsOn d (d.bundle hub group peer)) k)

theorem waitsCounted_countWaits (hub group : Nat) (peer : BitVec 64) (d : Dev) :
    WaitsCounted hub group peer d (countWaits hub group peer d) := by
  have hkey := d.bundle_key hub group peer
  have hctr := countOn_ctr (waitsOn d (d.bundle hub group peer)) (newWaits d (d.bundle hub group peer)) d
  obtain ⟨c, hc⟩ := countOn_frame (waitsOn d (d.bundle hub group peer)) (newWaits d (d.bundle hub group peer)) d
  rw [countWaits_eq]
  rw [hc] at hctr ⊢
  split
  · exact ⟨rfl, rfl, rfl, rfl, hctr⟩
  · have hb := Dev.bundle_setBundle_of { d with ctr := c } (b := { d.bundle hub group peer with
      waited := (d.bundle hub group peer).waited.filter (fun r => (d.bundle hub group peer).held.contains r) ++
        newWaits d (d.bundle hub group peer) }) hkey
    exact ⟨rfl, (congrArg Bundle.held hb :), (congrArg Bundle.list hb :), (congrArg Bundle.due hb :), hctr⟩

/-- The bundle of a request at a link. -/
def bundleAt (l : Nat) (r : RemoteReq) (d : Dev) : Bundle := d.bundle (linkHub l) (linkGrp l) r.peer

/-- A request that waits at its bundle. -/
def holdRequest (l : Nat) (r : RemoteReq) (d : Dev) : Dev :=
  countWaits (linkHub l) (linkGrp l) r.peer (d.setBundle { bundleAt l r d with held := (bundleAt l r d).held ++ [r] })

/-- A request of the link's class waits before it. -/
def waitsBefore (l : Nat) (r : RemoteReq) (b : Bundle) : Bool := b.held.any (fun q => q.cls = r.cls && spreadLink b q.offset == some l)

/-- The request is one of the link's hub and group, of a class and a length that travel. -/
structure Travels (v : Variant) (d : Dev) (l : Nat) (r : RemoteReq) : Prop where
  serves : linkServes v d l = true
  hub : r.hub = linkHub l
  group : r.group = linkGrp l
  op : r.op ∈ [0x02, 0x08, 0x18, 0x19]
  cls : opClass r.op = some r.cls
  size : r.payload.length ≤ 256

section Requests
variable {v : Variant} {d : Dev} {l : Nat} {r : RemoteReq}

theorem linkDataFrameTxOp_request (h : Travels v d l r) : linkDataFrameTxOp v l (some r) d =
    (spreadLink (bundleAt l r d) r.offset).elim (holdRequest l r d) (fun k =>
      if k ≠ l then d
      else if (bundleAt l r d).due || waitsBefore l r (bundleAt l r d) then holdRequest l r d
      else (sendRequest v l r d).getD (holdRequest l r d)) := by
  have hno : ¬(!linkServes v d l || r.hub ≠ linkHub l || r.group ≠ linkGrp l || !(r.op ∈ [0x02, 0x08, 0x18, 0x19]) ||
      opClass r.op ≠ some r.cls || decide (256 < r.payload.length)) = true := by
    simp [h.serves, h.hub, h.group, -List.mem_cons, h.op, h.cls, h.size]
  have hcases (o : Option Nat) (e : Dev) (f : Nat → Dev) : (match o with | none => e | some k => f k) = o.elim e f := by cases o <;> rfl
  unfold linkDataFrameTxOp
  exact (if_neg hno).trans (hcases ..)

theorem linkDataFrameTxOp_holds (h : Travels v d l r) (hw : spreadLink (bundleAt l r d) r.offset = none ∨
    (spreadLink (bundleAt l r d) r.offset = some l ∧ ((bundleAt l r d).due = true ∨ waitsBefore l r (bundleAt l r d) = true ∨
      sendRequest v l r d = none))) : linkDataFrameTxOp v l (some r) d = holdRequest l r d := by
  rw [linkDataFrameTxOp_request h]
  rcases hw with hw | ⟨hl, hw⟩
  · rw [hw]
    rfl
  · rw [hl, Option.elim_some, if_neg (not_not.mpr rfl)]
    rcases hw with hw | hw | hw
    · rw [hw, Bool.true_or, if_pos rfl]
    · rw [hw, Bool.or_true, if_pos rfl]
    · rw [hw, Option.getD_none, ite_self]

theorem linkDataFrameTxOp_sends (h : Travels v d l r) {e : Dev} (hl : spreadLink (bundleAt l r d) r.offset = some l)
    (hd : (bundleAt l r d).due = false) (hb : waitsBefore l r (bundleAt l r d) = false) (hs : sendRequest v l r d = some e) :
    linkDataFrameTxOp v l (some r) d = e := by
  rw [linkDataFrameTxOp_request h, hl, Option.elim_some, if_neg (not_not.mpr rfl), hd, hb, hs]
  rfl

theorem waitsBefore_iff (b : Bundle) : waitsBefore l r b = true ↔ ∃ q ∈ b.held, q.cls = r.cls ∧ spreadLink b q.offset = some l := by
  simp only [waitsBefore, List.any_eq_true, Bool.and_eq_true, decide_eq_true_eq, beq_iff_eq]

end Requests

theorem linkDataFrameTx_sends {s : State} {l tag : Nat} {r : RemoteReq} (h : Travels s.variant s.dev l r)
    (hl : spreadLink (bundleAt l r s.dev) r.offset = some l) (hd : (bundleAt l r s.dev).due = false)
    (hb : ¬∃ q ∈ (bundleAt l r s.dev).held, q.cls = r.cls ∧ spreadLink (bundleAt l r s.dev) q.offset = some l)
    (ha : (s.dev.link l).away = false) (hp : (s.dev.link l).peer = r.peer) (ht : freeTag (s.dev.link l) = some tag)
    (hput : mayPut s.variant s.dev l r.cls = true) :
    ∃ t f, exec (.linkDataFrameTx l (some r)) s = .next t ∧
      t = s.on { s.dev with links := t.dev.links, out := s.dev.out ++ [.linkData l f], ctr := t.dev.ctr } ∧
      Counted s.dev t.dev 0x3416 (l + 1) 1 ∧ (∀ k, k ≠ l → t.dev.link k = s.dev.link k) ∧
      f = sealed (requestFrame l r tag s.dev) (s.dev.link l).txSeq ∧
      t.dev.link l = { s.dev.link l with
        txSeq := ((s.dev.link l).txSeq + 1) % 4096,
        credits := subAt (s.dev.link l).credits r.cls 1,
        tags := (s.dev.link l).tags ++ [{ tag := tag, req := r }],
        replay := (s.dev.link l).replay ++ [{ frame := f, replays := 0 }] } := by
  have hbf : waitsBefore l r (bundleAt l r s.dev) = false := by rwa [← Bool.not_eq_true, waitsBefore_iff]
  have hmod := s.dev.link_modLink_same l (takeTag tag r)
  have hlink := putFrame_link l (requestFrame l r tag s.dev) (s.dev.modLink l (takeTag tag r))
  have hf := putFrame_frame l (requestFrame l r tag s.dev) (s.dev.modLink l (takeTag tag r))
  have hcnt := counted_putFrame l (requestFrame l r tag s.dev) (s.dev.modLink l (takeTag tag r))
  have hother (k : Nat) (hk : k ≠ l) := (putFrame_link_other (requestFrame l r tag s.dev) (s.dev.modLink l (takeTag tag r)) hk).trans
    (s.dev.link_modLink_other (takeTag tag r) hk)
  rw [hmod] at hlink hf
  refine ⟨_, sealed (requestFrame l r tag s.dev) (s.dev.link l).txSeq, exec_linkDataFrameTx .., ?_⟩
  simp only [State.on_dev]
  rw [linkDataFrameTxOp_sends h hl hd hbf (sendRequest_some ht hput ha hp)]
  exact ⟨congrArg s.on hf, hcnt, hother, trivial, hlink⟩

theorem odKey_inj {idx a b : Nat} : odKey idx a = odKey idx b ↔ a = b := Nat.add_left_cancel_iff

/-- The requests that are counted as they begin to wait, by the link that has no credit for them. -/
theorem countP_newWaits (d : Dev) (b : Bundle) (k : Nat) : (newWaits d b).countP (countsAt (waitsOn d b) (odKey 0x341C (k + 1))) =
    (b.held.filter (fun q => spreadLink b q.offset == some k && noCredit d k q.cls && !b.waited.contains q)).length := by
  rw [newWaits, List.countP_filter, List.countP_eq_length_filter]
  refine congrArg List.length (List.filter_congr fun q _ => ?_)
  unfold countsAt waitsOn
  cases hs : spreadLink b q.offset with
  | none => rfl
  | some l =>
    rw [Option.bind_some]
    by_cases hkl : k = l
    · subst hkl
      cases noCredit d k q.cls <;> simp
    · have h1 : (odKey 0x341C (k + 1) == odKey 0x341C (l + 1)) = false := beq_eq_false_iff_ne.mpr fun h => hkl (Nat.succ_injective (odKey_inj.mp h))
      have h2 : (some l == some k) = false := beq_eq_false_iff_ne.mpr fun h => hkl (Option.some.inj h).symm
      rw [h2]
      cases noCredit d l q.cls <;> simp [h1]

theorem countsAt_other {on : RemoteReq → Option Nat} {k : Nat} (h : ∀ j, k ≠ odKey 0x341C (j + 1)) (r : RemoteReq) : countsAt on k r = false := by
  unfold countsAt
  cases on r with
  | none => rfl
  | some l => exact beq_eq_false_iff_ne.mpr (h l)

theorem linkDataFrameTx_holds {s : State} {l : Nat} {r : RemoteReq} (hop : linkDataFrameTxOp s.variant l (some r) s.dev = holdRequest l r s.dev) :
    ∃ t, exec (.linkDataFrameTx l (some r)) s = .next t ∧ t = s.on { s.dev with bundles := t.dev.bundles, ctr := t.dev.ctr } ∧
      ((t.dev.bundle (linkHub l) (linkGrp l) r.peer).held = (bundleAt l r s.dev).held ++ [r] ∧
        (t.dev.bundle (linkHub l) (linkGrp l) r.peer).list = (bundleAt l r s.dev).list ∧
        (t.dev.bundle (linkHub l) (linkGrp l) r.peer).due = (bundleAt l r s.dev).due) ∧
      (∀ k : Nat, counterOf t.dev 0x341C (k + 1) = counterOf s.dev 0x341C (k + 1) + (((bundleAt l r s.dev).held ++ [r]).filter (fun q =>
        spreadLink (bundleAt l r s.dev) q.offset == some k && noCredit s.dev k q.cls && !(bundleAt l r s.dev).waited.contains q)).length) ∧
      ∀ k : Nat, (∀ j, k ≠ odKey 0x341C (j + 1)) → tget 0 t.dev.ctr k = tget 0 s.dev.ctr k := by
  have hw := waitsCounted_countWaits (linkHub l) (linkGrp l) r.peer
    (s.dev.setBundle { bundleAt l r s.dev with held := (bundleAt l r s.dev).held ++ [r] })
  have hb := Dev.bundle_setBundle_of s.dev (b := { bundleAt l r s.dev with held := (bundleAt l r s.dev).held ++ [r] })
    (s.dev.bundle_key (linkHub l) (linkGrp l) r.peer)
  obtain ⟨hf, hheld, hlist, hdue, hctr⟩ := hw
  rw [hb] at hheld hlist hdue hctr
  refine ⟨_, exec_linkDataFrameTx .., ?_⟩
  simp only [State.on_dev]
  rw [hop]
  refine ⟨congrArg s.on hf, ⟨hheld, hlist, hdue⟩, fun k => ?_, fun k hk => ?_⟩
  · exact (hctr _).trans (congrArg (tget 0 s.dev.ctr (odKey 0x341C (k + 1)) + ·) (countP_newWaits ..))
  · refine (hctr k).trans ?_
    rw [List.countP_eq_zero.mpr fun q _ => by rw [countsAt_other hk]; exact Bool.false_ne_true]
    rfl

/-! ### Answers to the peer's requests -/

/-- A link whose oldest request is being answered. -/
def answering (f : LinkFrame) (rest : List (LinkFrame × Option Nat)) (x : Link) : Link :=
  { x with rxWaits := false, rxFrames := rest, rxUsed := subAt x.rxUsed f.cls 1, rxOwed := addAt x.rxOwed f.cls 1 }

/-- The op of the answer to a request. -/
def answerOp (f : LinkFrame) : Nat := if f.op = 0x08 then 0x10 else 0x03

/-- An answer with poison: its frame. -/
def refusal (l : Nat) (f : LinkFrame) (d : Dev) : LinkFrame :=
  formLink d l (answerOp f) (answerCls f.op) 0 0 f.tag 0 0 true (List.replicate 16 0)

/-- The answer of the slice: its frame. -/
def reply (l : Nat) (f : LinkFrame) (r : Bytes × Bool × Dev) : LinkFrame :=
  formLink r.2.2 l (answerOp f) (answerCls f.op) 0 0 f.tag 0 0 r.2.1
    (if r.2.1 then List.replicate 16 0 else if r.1.isEmpty then List.replicate 16 0 else r.1)

section Answers
variable {v : Variant} {d : Dev} {l : Nat} {f : LinkFrame} {al : Option Nat} {rest : List (LinkFrame × Option Nat)}

theorem answerRequest_eq (h : (d.link l).rxFrames = (f, al) :: rest) : answerRequest v l d =
    if !switchTakes d (linkHub l) (groupPorts l) f.cls then d
    else if !mayPut v d l (answerCls f.op) then
      (if noCredit d l (answerCls f.op) ∧ linkRuns v d l = true ∧ (d.link l).phase = .active ∧ (d.link l).rxWaits = false then
        (d.modLink l (fun x => { x with rxWaits := true })).count 0x341C (l + 1) 1 else d)
    else (al.bind d.allocOf).elim
      (putFrame l (refusal l f (d.modLink l (answering f rest))) ((d.modLink l (answering f rest)).count 0x341F (l + 1) 1))
      (fun a => settlePins (putFrame l (reply l f (serveAccess v a f (d.modLink l (answering f rest))))
        (serveAccess v a f (d.modLink l (answering f rest))).2.2)) := by
  have hcases (o : Option Alloc) (e : Dev) (g : Alloc → Dev) : (match o with | none => e | some a => g a) = o.elim e g := by cases o <;> rfl
  unfold answerRequest
  rw [h]
  dsimp only
  rw [← hcases]
  rfl

theorem answerRequest_blocked (h : (d.link l).rxFrames = (f, al) :: rest)
    (ht : switchTakes d (linkHub l) (groupPorts l) f.cls = false) : answerRequest v l d = d := by
  rw [answerRequest_eq h, ht]
  rfl

theorem answerRequest_waits (h : (d.link l).rxFrames = (f, al) :: rest)
    (ht : switchTakes d (linkHub l) (groupPorts l) f.cls = true) (hs : mayPut v d l (answerCls f.op) = false) : answerRequest v l d =
      if noCredit d l (answerCls f.op) ∧ linkRuns v d l = true ∧ (d.link l).phase = .active ∧ (d.link l).rxWaits = false then
        (d.modLink l (fun x => { x with rxWaits := true })).count 0x341C (l + 1) 1 else d := by
  rw [answerRequest_eq h, ht, hs, if_neg (by decide), if_pos (by decide)]

theorem answerRequest_refuses (h : (d.link l).rxFrames = (f, al) :: rest)
    (ht : switchTakes d (linkHub l) (groupPorts l) f.cls = true) (hs : mayPut v d l (answerCls f.op) = true) (ha : al.bind d.allocOf = none) :
    answerRequest v l d =
      putFrame l (refusal l f (d.modLink l (answering f rest))) ((d.modLink l (answering f rest)).count 0x341F (l + 1) 1) := by
  rw [answerRequest_eq h, ht, hs, if_neg (by decide), if_neg (by decide), ha]
  rfl

theorem answerRequest_serves {a : Alloc} (h : (d.link l).rxFrames = (f, al) :: rest)
    (ht : switchTakes d (linkHub l) (groupPorts l) f.cls = true) (hs : mayPut v d l (answerCls f.op) = true) (ha : al.bind d.allocOf = some a) :
    answerRequest v l d = settlePins (putFrame l (reply l f (serveAccess v a f (d.modLink l (answering f rest))))
      (serveAccess v a f (d.modLink l (answering f rest))).2.2) := by
  rw [answerRequest_eq h, ht, hs, if_neg (by decide), if_neg (by decide), ha]
  rfl

/-- An access of a peer's request leaves the links as they are. -/
theorem afterAccess_serveAccess {e : Dev} (h : AfterAccess d e) (a : Alloc) : AfterAccess d (serveAccess v a f e).2.2 := by
  unfold serveAccess
  split
  · exact afterAccess_devWrite h ..
  · exact afterAccess_devRead h ..
  · exact afterAccess_foldl_snd_snd h _ _ fun _ _ he => afterAccess_devAccess he ..
  · exact afterAccess_foldl_snd_snd h _ _ fun _ _ he => afterAccess_devAccess he ..
  · exact afterAccess_devAccess h ..

theorem serveAccess_link (a : Alloc) (k : Nat) : (serveAccess v a f d).2.2.link k = d.link k := by
  have h : (serveAccess v a f d).2.2.links = d.links := (congrArg Dev.links (afterAccess_serveAccess (v := v) (f := f) (AfterAccess.refl d) a).frame :)
  unfold Dev.link
  rw [h]

end Answers

theorem linkDataFrameTx_none (s : State) (l : Nat) : exec (.linkDataFrameTx l none) s = .next (s.on (answerRequest s.variant l s.dev)) := rfl

theorem answers_waits {s : State} {l : Nat} {f : LinkFrame} {al : Option Nat} {rest : List (LinkFrame × Option Nat)}
    (h : (s.dev.link l).rxFrames = (f, al) :: rest) (ht : switchTakes s.dev (linkHub l) (groupPorts l) f.cls = true)
    (hs : mayPut s.variant s.dev l (answerCls f.op) = false) :
    ∃ t, exec (.linkDataFrameTx l none) s = .next t ∧
      if noCredit s.dev l (answerCls f.op) = true ∧ linkRuns s.variant s.dev l = true ∧ (s.dev.link l).phase = .active ∧
        (s.dev.link l).rxWaits = false then
        t = s.on { s.dev with links := t.dev.links, ctr := t.dev.ctr } ∧ t.dev.link l = { s.dev.link l with rxWaits := true } ∧
        Counted s.dev t.dev 0x341C (l + 1) 1
      else t = s := by
  refine ⟨_, linkDataFrameTx_none s l, ?_⟩
  rw [answerRequest_waits h ht hs]
  split
  · exact ⟨rfl, s.dev.link_modLink_same l (fun x => { x with rxWaits := true }),
      (s.dev.modLink l fun x => { x with rxWaits := true }).counted_count 0x341C (l + 1) 1⟩
  · rfl

theorem counterOf_counted {d e : Dev} {idx sub n : Nat} (h : Counted d e idx sub n) : counterOf e idx sub = counterOf d idx sub + n := by
  have hk := h (odKey idx sub)
  rw [if_pos rfl] at hk
  exact hk

theorem putFrame_answering {l : Nat} {f : LinkFrame} {rest : List (LinkFrame × Option Nat)} {x : Link} {e : Dev} (g : LinkFrame)
    (h : e.link l = answering f rest x) : ((putFrame l g e).link l).rxFrames = rest ∧
      ((putFrame l g e).link l).rxUsed = subAt x.rxUsed f.cls 1 := by
  rw [putFrame_link, h]
  exact ⟨rfl, rfl⟩

theorem sealed_answer (g : LinkFrame) (seq : Nat) : (sealed g seq).tag = g.tag ∧ (sealed g seq).poison = g.poison ∧ (sealed g seq).op = g.op :=
  ⟨rfl, rfl, rfl⟩

theorem refusal_of (l : Nat) (f : LinkFrame) (d : Dev) :
    (refusal l f d).tag = f.tag ∧ (refusal l f d).poison = true ∧ (refusal l f d).op = answerOp f := ⟨rfl, rfl, rfl⟩

theorem reply_of (l : Nat) (f : LinkFrame) (r : Bytes × Bool × Dev) :
    (reply l f r).tag = f.tag ∧ (reply l f r).poison = r.2.1 ∧ (reply l f r).op = answerOp f := ⟨rfl, rfl, rfl⟩

/-- A frame that left does not count as a refusal. -/
theorem refusals_putFrame (l : Nat) (g : LinkFrame) (e : Dev) : counterOf (putFrame l g e) 0x341F (l + 1) = counterOf e 0x341F (l + 1) := by
  rw [counterOf, counted_putFrame l g e, if_neg (by unfold odKey; omega), Nat.add_zero]
  rfl

theorem answers_refused {s : State} {l : Nat} {f : LinkFrame} {al : Option Nat} {rest : List (LinkFrame × Option Nat)}
    (h : (s.dev.link l).rxFrames = (f, al) :: rest) (ht : switchTakes s.dev (linkHub l) (groupPorts l) f.cls = true)
    (hs : mayPut s.variant s.dev l (answerCls f.op) = true) (ha : al.bind s.dev.allocOf = none) :
    ∃ t g, exec (.linkDataFrameTx l none) s = .next t ∧
      t = s.on { s.dev.modLink l (answering f rest) with links := t.dev.links, out := s.dev.out ++ [.linkData l g], ctr := t.dev.ctr } ∧
      g.tag = f.tag ∧ g.poison = true ∧ g.op = answerOp f ∧ (t.dev.link l).rxFrames = rest ∧
      (t.dev.link l).rxUsed = subAt (s.dev.link l).rxUsed f.cls 1 ∧
      counterOf t.dev 0x341F (l + 1) = counterOf s.dev 0x341F (l + 1) + 1 := by
  obtain ⟨htag, hpoison, hop⟩ := refusal_of l f (s.dev.modLink l (answering f rest))
  generalize hg : refusal l f (s.dev.modLink l (answering f rest)) = g at htag hpoison hop
  have hone := counterOf_counted ((s.dev.modLink l (answering f rest)).counted_count 0x341F (l + 1) 1)
  have hl : ((s.dev.modLink l (answering f rest)).count 0x341F (l + 1) 1).link l = answering f rest (s.dev.link l) :=
    s.dev.link_modLink_same l (answering f rest)
  have hf := putFrame_frame l g ((s.dev.modLink l (answering f rest)).count 0x341F (l + 1) 1)
  obtain ⟨hrest, hused⟩ := putFrame_answering g hl
  refine ⟨_, sealed g (((s.dev.modLink l (answering f rest)).count 0x341F (l + 1) 1).link l).txSeq, linkDataFrameTx_none s l, ?_⟩
  simp only [State.on_dev]
  rw [answerRequest_refuses h ht hs ha, hg]
  exact ⟨congrArg s.on hf, htag, hpoison, hop, hrest, hused, (refusals_putFrame ..).trans hone⟩

theorem answers_served {s : State} {l : Nat} {f : LinkFrame} {al : Option Nat} {rest : List (LinkFrame × Option Nat)} {a : Alloc}
    (h : (s.dev.link l).rxFrames = (f, al) :: rest) (ht : switchTakes s.dev (linkHub l) (groupPorts l) f.cls = true)
    (hs : mayPut s.variant s.dev l (answerCls f.op) = true) (ha : al.bind s.dev.allocOf = some a) :
    (let served := serveAccess s.variant a f (s.dev.modLink l (answering f rest))
     ∃ e g, exec (.linkDataFrameTx l none) s = .next (s.on (settlePins e)) ∧
      e = { served.2.2 with links := e.links, out := served.2.2.out ++ [.linkData l g], ctr := e.ctr } ∧
      Counted served.2.2 e 0x3416 (l + 1) 1 ∧ g.tag = f.tag ∧ g.poison = served.2.1 ∧
      g.op = answerOp f ∧ (e.link l).rxFrames = rest ∧ (e.link l).rxUsed = subAt (s.dev.link l).rxUsed f.cls 1) := by
  dsimp only
  have hex := linkDataFrameTx_none s l
  rw [answerRequest_serves h ht hs ha] at hex
  have hl := (serveAccess_link (v := s.variant) (f := f) (d := s.dev.modLink l (answering f rest)) a l).trans
    (s.dev.link_modLink_same l (answering f rest))
  generalize serveAccess s.variant a f (s.dev.modLink l (answering f rest)) = r at hex hl ⊢
  obtain ⟨htag, hpoison, hop⟩ := reply_of l f r
  obtain ⟨hrest, hused⟩ := putFrame_answering (reply l f r) hl
  exact ⟨_, sealed (reply l f r) (r.2.2.link l).txSeq, hex, putFrame_frame l _ _, counted_putFrame l _ _, htag, hpoison, hop, hrest, hused⟩

/-- Settles O38: a request of the link leaves under the lowest free tag or is held by its bundle, and the peer's oldest request is answered,
waits, or is refused. -/
theorem linkRequestsSent : Obligations.LinkRequestsSent := by
  unfold Obligations.LinkRequestsSent
  intro s l
  refine ⟨fun r h1 h2 h3 h4 h5 h6 => ⟨fun tag hl hd hb ha hp ht hput => ?_, fun hw => ?_⟩, fun f al rest h => ⟨fun ht => ?_,
    fun ht hs => answers_waits h ht hs, fun ht hs ha => answers_refused h ht hs ha, fun a ht hs ha => answers_served h ht hs ha⟩⟩
  · obtain ⟨t, f, hex, hf, hcnt, hother, hframe, hlink⟩ := linkDataFrameTx_sends ⟨h1, h2, h3, h4, h5, h6⟩ hl hd hb ha hp ht hput
    subst hframe
    exact ⟨t, _, hex, hf, hcnt, hother, rfl, rfl, rfl, rfl, rfl, rfl, rfl, rfl, rfl, dataCrc_sealed .., rfl, hlink⟩
  · refine linkDataFrameTx_holds (linkDataFrameTxOp_holds ⟨h1, h2, h3, h4, h5, h6⟩ ?_)
    rcases hw with hw | ⟨hl, hd | hb | hrest⟩
    · exact .inl hw
    · exact .inr ⟨hl, .inl hd⟩
    · exact .inr ⟨hl, .inr (.inl ((waitsBefore_iff _).mpr hb))⟩
    · exact .inr ⟨hl, .inr (.inr (sendRequest_none hrest))⟩
  · rw [linkDataFrameTx_none, answerRequest_blocked h ht, State.on_self]

end Sys2Proof.Machine

/-!
PROOFS for the hops of the fabric (R272, R273, R275, R277, R280, R283): a frame is sent, received and replayed.
-/
namespace Sys2Proof.Machine

open Sys2Proof

theorem exec_frameSend (s : State) (h : Hop) (f : Frame) : exec (.frameSend h f) s = .next (s.on (frameSendOp s.variant h f s.dev)) := rfl

theorem exec_frameReceive (s : State) (h : Hop) (f : Frame) (errs : List Nat) :
    exec (.frameReceive h f errs) s = .next (s.on (frameReceiveOp s.variant h f errs s.dev)) := rfl

theorem exec_frameReplay (s : State) (h : Hop) : exec (.frameReplay h) s = .next (s.on (frameReplayOp s.variant h s.dev)) := rfl

/-! ### The state of a hop -/

theorem Dev.hopOf_hop (d : Dev) (h : Hop) : (d.hopOf h).hop = h := by
  unfold Dev.hopOf
  cases hf : d.hops.find? (fun x => x.hop == h) with
  | none => rfl
  | some x => exact eq_of_beq (List.find?_some (p := fun x : HopState => x.hop == h) hf)

/-- Where a hop's state stood, stands the new one. -/
theorem find?_hop_replaced (xs : List HopState) {x : HopState} {h : Hop} (hx : x.hop = h) (k : Hop) :
    (xs.map (fun y => if y.hop == h then x else y)).find? (fun y => y.hop == k) =
      if k = h then (xs.find? (fun y => y.hop == h)).map (fun _ => x) else xs.find? (fun y => y.hop == k) := by
  induction xs with
  | nil => simp
  | cons y xs ih =>
    rw [List.map_cons, List.find?_cons, ih, List.find?_cons, List.find?_cons]
    by_cases hy : y.hop = h
    · by_cases hk : k = h
      · simp [hy, hk, hx]
      · have hkn : (h == k) = false := beq_eq_false_iff_ne.mpr (Ne.symm hk)
        simp [hy, hk, hx, hkn]
    · have hyn : (y.hop == h) = false := beq_eq_false_iff_ne.mpr hy
      by_cases hk : k = h
      · simp [hyn, hk]
      · simp [hyn, hk]

theorem Dev.hopOf_setHop (d : Dev) {h : Hop} {x : HopState} (hx : x.hop = h) (k : Hop) :
    (d.setHop h x).hopOf k = if k = h then x else d.hopOf k := by
  simp only [Dev.hopOf, Dev.setHop]
  by_cases hany : d.hops.any (fun y => y.hop == h) = true
  · obtain ⟨c, hc⟩ := Option.isSome_iff_exists.mp ((List.find?_isSome).mpr (List.any_eq_true.mp hany))
    rw [if_pos hany, find?_hop_replaced d.hops hx k]
    by_cases hk : k = h
    · rw [if_pos hk, if_pos hk, hc]
      rfl
    · rw [if_neg hk, if_neg hk]
  · have hnone : d.hops.find? (fun y => y.hop == h) = none :=
      List.find?_eq_none.mpr fun y hy hs => hany (List.any_eq_true.mpr ⟨y, hy, hs⟩)
    rw [if_neg hany, List.find?_append, List.find?_singleton]
    by_cases hk : k = h
    · rw [if_pos hk, hk, hnone, if_pos (beq_iff_eq.mpr hx)]
      rfl
    · rw [if_neg hk, if_neg (by rw [beq_iff_eq, hx]; exact Ne.symm hk), Option.or_none]

theorem Dev.hopOf_setHop_same (d : Dev) {h : Hop} {x : HopState} (hx : x.hop = h) : (d.setHop h x).hopOf h = x :=
  (d.hopOf_setHop hx h).trans (if_pos rfl)

theorem Dev.hopOf_setHop_other (d : Dev) {h k : Hop} {x : HopState} (hx : x.hop = h) (hk : k ≠ h) : (d.setHop h x).hopOf k = d.hopOf k :=
  (d.hopOf_setHop hx k).trans (if_neg hk)

theorem Dev.hopOf_of_hops {d e : Dev} (h : e.hops = d.hops) (k : Hop) : e.hopOf k = d.hopOf k := by
  unfold Dev.hopOf
  rw [h]

/-! ### Sending -/

/-- A hop with a frame more on its way. -/
def sentHop (f g : Frame) (x : HopState) : HopState :=
  { x with credits := setAt x.credits f.cls (nth 0 x.credits f.cls - 1), replay := x.replay ++ [g] }

/-- The frame as it travels under the setting of OD 0x20B0.01. -/
def formed (d : Dev) (f : Frame) : Frame := (formFrame (decide (d.num 0x20B0 1 1 = 1)) f).1

/-- What a frame that leaves adds to the counters of R286, beyond OD 0x20B1. -/
def countForm (ss : Nat) (f : Frame) (r : Frame × Bool) (d : Dev) : Dev :=
  ((d.count 0x20B2 ss (!r.1.dense).toNat).count 0x20B3 ss r.2.toNat).count 0x20B9 ss (f.payload.length - r.1.wire.length)

theorem sendNow_eq (h : Hop) (f : Frame) (d : Dev) : sendNow h f d =
    countForm (senderSs h) f (formFrame (decide (d.num 0x20B0 1 1 = 1)) f)
      (((d.setHop h (sentHop f (formed d f) (d.hopOf h))).emit (.fabric h (formed d f))).count 0x20B1 (senderSs h) 1) := rfl

theorem countForm_frame (ss : Nat) (f : Frame) (r : Frame × Bool) (d : Dev) :
    countForm ss f r d = { d with ctr := (countForm ss f r d).ctr } := rfl

/-- A count of another entry leaves that of the same subindex. -/
theorem counterOf_count_entry (d : Dev) {idx idx' : Nat} (h : idx' ≠ idx) (sub n : Nat) :
    counterOf (d.count idx sub n) idx' sub = counterOf d idx' sub := by
  rw [counterOf, d.counted_count idx sub n, if_neg (by unfold odKey; omega), Nat.add_zero]
  rfl

theorem countForm_sent (ss : Nat) (f : Frame) (r : Frame × Bool) (d : Dev) :
    counterOf (countForm ss f r d) 0x20B1 ss = counterOf d 0x20B1 ss := by
  unfold countForm
  rw [counterOf_count_entry _ (by decide), counterOf_count_entry _ (by decide), counterOf_count_entry _ (by decide)]

/-- What a frame that leaves at once changes. -/
structure Sent (h : Hop) (f : Frame) (d e : Dev) : Prop where
  frame : e = { d with hops := e.hops, out := e.out, ctr := e.ctr }
  out : e.out = d.out ++ [.fabric h (formed d f)]
  others : ∀ k, k ≠ h → e.hopOf k = d.hopOf k
  hop : e.hopOf h = sentHop f (formed d f) (d.hopOf h)
  counted : counterOf e 0x20B1 (senderSs h) = counterOf d 0x20B1 (senderSs h) + 1

theorem sent_sendNow (h : Hop) (f : Frame) (d : Dev) : Sent h f d (sendNow h f d) := by
  rw [sendNow_eq]
  have hx : (sentHop f (formed d f) (d.hopOf h)).hop = h := d.hopOf_hop h
  generalize formFrame (decide (d.num 0x20B0 1 1 = 1)) f = r
  generalize hd1 : (d.setHop h (sentHop f (formed d f) (d.hopOf h))).emit (.fabric h (formed d f)) = d1
  have hf : d1 = { d with hops := d1.hops, out := d.out ++ [.fabric h (formed d f)] } := by rw [← hd1]; rfl
  have hhop (k : Hop) : d1.hopOf k = if k = h then sentHop f (formed d f) (d.hopOf h) else d.hopOf k := by
    rw [← hd1]
    exact d.hopOf_setHop hx k
  have hc : d1.ctr = d.ctr := (congrArg Dev.ctr hf :)
  have hcount := countForm_frame (senderSs h) f r (d1.count 0x20B1 (senderSs h) 1)
  have hone := countForm_sent (senderSs h) f r (d1.count 0x20B1 (senderSs h) 1)
  generalize countForm (senderSs h) f r (d1.count 0x20B1 (senderSs h) 1) = e at hcount hone ⊢
  have hops : e.hops = d1.hops := (congrArg Dev.hops hcount :)
  refine ⟨?_, ?_, fun k hk => ?_, ?_, ?_⟩
  · rw [hcount, hf]
    rfl
  · exact (congrArg Dev.out hcount :).trans (congrArg Dev.out hf :)
  · rw [Dev.hopOf_of_hops hops, hhop, if_neg hk]
  · rw [Dev.hopOf_of_hops hops, hhop, if_pos rfl]
  · rw [hone, counterOf_counted (d1.counted_count 0x20B1 (senderSs h) 1), counterOf, hc]
    rfl

/-- A frame that waits at its hop. -/
def waitHop (f : Frame) (x : HopState) : HopState := { x with wait := x.wait ++ [f] }

section Offers
variable {h : Hop} {f : Frame} {d : Dev}

theorem offerPlain_sends (hd : dropped d h f = false) (hc : 0 < nth 0 (d.hopOf h).credits f.cls) (hw : ∀ g ∈ (d.hopOf h).wait, g.cls ≠ f.cls) :
    offerPlain h f d = sendNow h f d := by
  have hall : (d.hopOf h).wait.all (fun g => g.cls != f.cls) = true := List.all_eq_true.mpr fun g hg => bne_iff_ne.mpr (hw g hg)
  unfold offerPlain
  dsimp only
  rw [hd, if_neg Bool.false_ne_true, hall, decide_eq_true hc]
  rfl

theorem offerPlain_waits (hd : dropped d h f = false) (hc : nth 0 (d.hopOf h).credits f.cls = 0 ∨ ∃ g ∈ (d.hopOf h).wait, g.cls = f.cls) :
    offerPlain h f d = (d.setHop h (waitHop f (d.hopOf h))).count 0x20B4 (senderSs h) 1 := by
  have hno : ¬(decide (0 < nth 0 (d.hopOf h).credits f.cls) && (d.hopOf h).wait.all (fun g => g.cls != f.cls)) = true := by
    rw [Bool.and_eq_true, decide_eq_true_iff, List.all_eq_true]
    rintro ⟨hpos, hall⟩
    rcases hc with h0 | ⟨g, hg, he⟩
    · omega
    · exact bne_iff_ne.mp (hall g hg) he
  unfold offerPlain
  dsimp only
  rw [hd, if_neg Bool.false_ne_true, if_neg hno]
  rfl

theorem offerPlain_drops (hd : dropped d h f = true) : offerPlain h f d = d.count 0x20B8 (senderSs h) 1 := by
  unfold offerPlain
  dsimp only
  rw [hd, if_pos rfl]

theorem offer_plain (v : Variant) (hd : dropped d h f = false ∨ poisonOf f = none) : offer v h f d = offerPlain h f d := by
  have hno : (if dropped d h f then poisonOf f else none) = none := by
    rcases hd with hd | hd
    · rw [hd, if_neg Bool.false_ne_true]
    · rw [hd, ite_self]
  unfold offer
  dsimp only
  rw [hno]

end Offers

theorem poisonOf_none {f : Frame} (h8 : f.op ≠ 0x08) (h2 : f.op ≠ 0x02) : poisonOf f = none := if_neg (not_or.mpr ⟨h8, h2⟩)

/-! ### A unit's own frame -/

/-- The read requests of a unit that may still leave, once a frame has left. -/
def asksAfter (f : Frame) (d : Dev) : Tab Nat := if f.op = 0x08 then tmod 0 d.asks f.src (fun n => n - 1) else d.asks

/-- The device once a frame of a unit's own has its number. -/
def numbered (f : Frame) (d : Dev) : Dev := { d with frames := d.frames + 1, asks := asksAfter f d }

theorem tget_asksAfter (f : Frame) (d : Dev) (k : Nat) :
    tget 0 (asksAfter f d) k = tget 0 d.asks k - if f.op = 0x08 ∧ k = f.src then 1 else 0 := by
  unfold asksAfter
  by_cases h8 : f.op = 0x08
  · rw [if_pos h8]
    by_cases hk : k = f.src
    · rw [hk, tget_tmod_same, if_pos ⟨h8, rfl⟩]
    · rw [tget_tmod_other 0 d.asks _ hk, if_neg (fun h => hk h.2), Nat.sub_zero]
  · rw [if_neg h8, if_neg (fun h => h8 h.1), Nat.sub_zero]

section Own
variable {v : Variant} {h : Hop} {f : Frame} {d : Dev}

theorem frameSendOp_offers (hr : hopRuns v d h = true) (hf : (d.hopOf h).failed = false) (hok : frameOk v f = true)
    (hon : sendsOn v d h f = true) (ha : f.op = 0x08 → 0 < tget 0 d.asks f.src) (ho : inOrder v d h { f with seq := d.frames } = true) :
    frameSendOp v h f d = offer v h { f with seq := d.frames } (numbered f d) := by
  unfold frameSendOp
  dsimp only
  rw [hr, hf, hok, hon, ho, if_neg (by decide)]
  unfold numbered asksAfter
  by_cases h8 : f.op = 0x08
  · rw [if_neg (not_not.mpr h8), if_neg (Nat.ne_of_gt (ha h8)), if_pos h8]
  · rw [if_pos h8, if_neg h8]

theorem dropped_numbered (n : Nat) : dropped (numbered f d) h { f with seq := n } = dropped d h f := rfl

end Own

theorem asksAfter_sent {h : Hop} {f g : Frame} {d e : Dev} (hs : Sent h g (numbered f d) e) : e.asks = asksAfter f d :=
  (congrArg Dev.asks hs.frame :)

theorem frameSend_sends {s : State} {h : Hop} {f : Frame}
    (hop : frameSendOp s.variant h f s.dev = offer s.variant h { f with seq := s.dev.frames } (numbered f s.dev))
    (hd : dropped s.dev h f = false) (hc : 0 < nth 0 (s.dev.hopOf h).credits f.cls) (hw : ∀ g ∈ (s.dev.hopOf h).wait, g.cls ≠ f.cls) :
    ∃ t, exec (.frameSend h f) s = .next t ∧
      (∀ k, tget 0 t.dev.asks k = tget 0 s.dev.asks k - if f.op = 0x08 ∧ k = f.src then 1 else 0) ∧
      t = s.on { s.dev with frames := s.dev.frames + 1, hops := t.dev.hops, out := t.dev.out, ctr := t.dev.ctr, asks := t.dev.asks } ∧
      t.dev.out = s.dev.out ++ [.fabric h (formed s.dev { f with seq := s.dev.frames })] ∧
      (∀ k, k ≠ h → t.dev.hopOf k = s.dev.hopOf k) ∧
      t.dev.hopOf h = sentHop f (formed s.dev { f with seq := s.dev.frames }) (s.dev.hopOf h) ∧
      counterOf t.dev 0x20B1 (senderSs h) = counterOf s.dev 0x20B1 (senderSs h) + 1 := by
  have hd' : dropped (numbered f s.dev) h { f with seq := s.dev.frames } = false := (dropped_numbered _).trans hd
  have hs := sent_sendNow h { f with seq := s.dev.frames } (numbered f s.dev)
  have heq := hop.trans ((offer_plain s.variant (.inl hd')).trans (offerPlain_sends hd' hc hw))
  rw [← heq] at hs
  obtain ⟨hframe, hout, hother, hhop, hcnt⟩ := hs
  have hasks : (frameSendOp s.variant h f s.dev).asks = asksAfter f s.dev := (congrArg Dev.asks hframe :)
  refine ⟨_, exec_frameSend .., fun k => ?_, congrArg s.on ?_, hout, hother, hhop, hcnt⟩
  · exact (congrArg (fun t => tget 0 t k) hasks).trans (tget_asksAfter f s.dev k)
  · rw [State.on_dev, hasks]
    exact hframe

theorem frameSend_waits {s : State} {h : Hop} {f : Frame}
    (hop : frameSendOp s.variant h f s.dev = offer s.variant h { f with seq := s.dev.frames } (numbered f s.dev))
    (hd : dropped s.dev h f = false) (hc : nth 0 (s.dev.hopOf h).credits f.cls = 0 ∨ ∃ g ∈ (s.dev.hopOf h).wait, g.cls = f.cls) :
    ∃ t, exec (.frameSend h f) s = .next t ∧
      (∀ k, tget 0 t.dev.asks k = tget 0 s.dev.asks k - if f.op = 0x08 ∧ k = f.src then 1 else 0) ∧
      t = s.on { s.dev with frames := s.dev.frames + 1, hops := t.dev.hops, ctr := t.dev.ctr, asks := t.dev.asks } ∧
      t.dev.hopOf h = waitHop { f with seq := s.dev.frames } (s.dev.hopOf h) ∧
      (∀ k, k ≠ h → t.dev.hopOf k = s.dev.hopOf k) ∧ Counted s.dev t.dev 0x20B4 (senderSs h) 1 := by
  have hd' : dropped (numbered f s.dev) h { f with seq := s.dev.frames } = false := (dropped_numbered _).trans hd
  have heq := hop.trans ((offer_plain s.variant (.inl hd')).trans (offerPlain_waits hd' hc))
  have hx : (waitHop { f with seq := s.dev.frames } (s.dev.hopOf h)).hop = h := s.dev.hopOf_hop h
  refine ⟨_, exec_frameSend .., ?_⟩
  simp only [State.on_dev]
  rw [heq]
  exact ⟨tget_asksAfter f s.dev, rfl, (numbered f s.dev).hopOf_setHop_same hx, fun k hk => (numbered f s.dev).hopOf_setHop_other hx hk,
    counted_count_of rfl _ _ _⟩

theorem frameSend_drops {s : State} {h : Hop} {f : Frame}
    (hop : frameSendOp s.variant h f s.dev = offer s.variant h { f with seq := s.dev.frames } (numbered f s.dev))
    (hd : dropped s.dev h f = true) (h8 : f.op ≠ 0x08) (h2 : f.op ≠ 0x02) :
    ∃ t, exec (.frameSend h f) s = .next t ∧ t = s.on { s.dev with frames := s.dev.frames + 1, ctr := t.dev.ctr } ∧
      Counted s.dev t.dev 0x20B8 (senderSs h) 1 := by
  have hd' : dropped (numbered f s.dev) h { f with seq := s.dev.frames } = true := (dropped_numbered _).trans hd
  have heq := hop.trans ((offer_plain s.variant (.inr (poisonOf_none (f := { f with seq := s.dev.frames }) h8 h2))).trans (offerPlain_drops hd'))
  have hasks : asksAfter f s.dev = s.dev.asks := if_neg h8
  refine ⟨_, exec_frameSend .., ?_⟩
  simp only [State.on_dev]
  rw [heq, numbered, hasks]
  exact ⟨rfl, counted_count_of rfl _ _ _⟩

/-! ### Frames that come, and replays -/

/-- A hop whose oldest frame has come to a slot. -/
def cameHop (f : Frame) (rest : List Frame) (x : HopState) : HopState :=
  { x with replay := rest, slots := x.slots ++ [restoreFrame f], again := x.again - 1, succ := 0 }

/-- A hop that asks for a replay. -/
def askedHop (x : HopState) : HopState := { x with asked := true, succ := if x.again > 0 then x.succ + 1 else 0 }

section Receives
variable {v : Variant} {h : Hop} {f : Frame} {rest : List Frame} {d : Dev}

theorem frameReceiveOp_eq (hr : hopRuns v d h = true) (hf : (d.hopOf h).failed = false) (hrep : (d.hopOf h).replay = f :: rest)
    (ha : (d.hopOf h).asked = false) (errs : List Nat) : frameReceiveOp v h f errs d =
      if errs.all (fun n => decide (n < 2)) then (d.setHop h (cameHop f rest (d.hopOf h))).count 0x20B5 (receiverSs h) errs.sum
      else d.setHop h (askedHop (d.hopOf h)) := by
  unfold frameReceiveOp cameHop askedHop
  dsimp only
  rw [hrep]
  dsimp only
  rw [if_neg (by rw [hr, hf, ha, bne_self_eq_false]; decide)]

theorem frameReceiveOp_asked (ha : (d.hopOf h).asked = true) (g : Frame) (errs : List Nat) : frameReceiveOp v h g errs d = d := by
  unfold frameReceiveOp
  dsimp only
  split
  · rfl
  · rw [if_pos (by rw [ha, Bool.or_true, Bool.true_or])]

end Receives

/-- The frames of a replay as they leave a hop. -/
def framesOut (h : Hop) (gs : List Frame) : List Output := gs.map (fun g => .fabric h g)

theorem emit_frames (h : Hop) (gs : List Frame) (d : Dev) :
    gs.foldl (fun (d : Dev) g => d.emit (.fabric h g)) d = { d with out := d.out ++ framesOut h gs } := by
  induction gs generalizing d with
  | nil => rw [framesOut, List.map_nil, List.append_nil]; rfl
  | cons g gs ih =>
    rw [List.foldl_cons, ih]
    simp only [framesOut, Dev.emit, List.map_cons, List.append_assoc, List.singleton_append]

/-- A hop whose frames are being replayed. -/
def replayedHop (x : HopState) : HopState := { x with asked := false, again := x.replay.length }

theorem frameReplayOp_replays {v : Variant} {h : Hop} {d : Dev} (hr : hopRuns v d h = true) (hf : (d.hopOf h).failed = false)
    (ha : (d.hopOf h).asked = true) (h16 : (d.hopOf h).succ < 16) : frameReplayOp v h d =
      ({ d.setHop h (replayedHop (d.hopOf h)) with out := d.out ++ framesOut h (d.hopOf h).replay } : Dev).count 0x20B6 (senderSs h)
        (d.hopOf h).replay.length := by
  unfold frameReplayOp
  dsimp only
  rw [if_pos (by rw [hr, hf, ha, decide_eq_true h16]; rfl), emit_frames]
  rfl

theorem frameReceive_receives {s : State} {h : Hop} {f : Frame} {rest : List Frame} (hr : hopRuns s.variant s.dev h = true)
    (hf : (s.dev.hopOf h).failed = false) (hrep : (s.dev.hopOf h).replay = f :: rest) (ha : (s.dev.hopOf h).asked = false) (errs : List Nat) :
    ∃ t, exec (.frameReceive h f errs) s = .next t ∧ t = s.on { s.dev with hops := t.dev.hops, ctr := t.dev.ctr } ∧
      (∀ k, k ≠ h → t.dev.hopOf k = s.dev.hopOf k) ∧
      (if errs.all (fun n => decide (n < 2)) then t.dev.hopOf h = cameHop f rest (s.dev.hopOf h) ∧
          Counted s.dev t.dev 0x20B5 (receiverSs h) errs.sum
       else t.dev.ctr = s.dev.ctr ∧ (t.dev.hopOf h).asked = true ∧ (t.dev.hopOf h).slots = (s.dev.hopOf h).slots ∧
          (t.dev.hopOf h).replay = (s.dev.hopOf h).replay ∧
          (t.dev.hopOf h).succ = (if 0 < (s.dev.hopOf h).again then (s.dev.hopOf h).succ + 1 else 0) ∧
          ∀ n : List Nat, exec (.frameReceive h f n) t = .next t) := by
  refine ⟨_, exec_frameReceive .., ?_⟩
  simp only [State.on_dev]
  rw [frameReceiveOp_eq hr hf hrep ha]
  split
  · have hx : (cameHop f rest (s.dev.hopOf h)).hop = h := s.dev.hopOf_hop h
    exact ⟨rfl, fun k hk => s.dev.hopOf_setHop_other hx hk, s.dev.hopOf_setHop_same hx, counted_count_of rfl _ _ _⟩
  · have hx : (askedHop (s.dev.hopOf h)).hop = h := s.dev.hopOf_hop h
    have hh := s.dev.hopOf_setHop_same hx
    refine ⟨rfl, fun k hk => s.dev.hopOf_setHop_other hx hk, rfl, (congrArg HopState.asked hh :), (congrArg HopState.slots hh :),
      (congrArg HopState.replay hh :), (congrArg HopState.succ hh :), fun n => ?_⟩
    rw [exec_frameReceive, State.on_dev, frameReceiveOp_asked (congrArg HopState.asked hh :), State.on_on]

/-- Settles O33: a frame with its number is sent, waits or is dropped by its hop, comes to a slot or is asked for again, and is replayed with
all that the hop still holds. -/
theorem framesCrossHops : Obligations.FramesCrossHops := by
  unfold Obligations.FramesCrossHops
  intro s h hr hf
  refine ⟨fun f hok hon ha ho => ?_, fun f rest errs hrep ha => frameReceive_receives hr hf hrep ha errs, fun ha h16 => ?_⟩
  · have hop := frameSendOp_offers hr hf hok hon ha ho
    exact ⟨fun hd hc hw => frameSend_sends hop hd hc hw, fun hd hc => frameSend_waits hop hd hc, fun hd h8 h2 => frameSend_drops hop hd h8 h2⟩
  · have hx : (replayedHop (s.dev.hopOf h)).hop = h := s.dev.hopOf_hop h
    refine ⟨_, exec_frameReplay .., ?_⟩
    rw [frameReplayOp_replays hr hf ha h16]
    exact ⟨rfl, rfl, s.dev.hopOf_setHop_same hx, counted_count_of rfl _ _ _⟩

end Sys2Proof.Machine

/-!
PROOFS for credits, slots and read requests of the fabric (R272, R273, R275, R282, R284, R286).
-/
namespace Sys2Proof.Machine

open Sys2Proof

theorem exec_creditReturn (s : State) (h : Hop) (cls : Nat) :
    exec (.creditReturn h cls) s = .next (s.on (creditReturnOp s.variant h cls s.dev)) := rfl

theorem exec_readRequest (s : State) (unit room : Nat) : exec (.readRequest unit room) s = .next (s.on (readRequestOp s.variant unit room s.dev)) := rfl

/-! ### What routes depend on -/

/-- Every hop is failed or not as it was. -/
def SameFails (d e : Dev) : Prop := ∀ k, (e.hopOf k).failed = (d.hopOf k).failed

section Routes
variable {d e : Dev} (hs : SameFails d e)
include hs

theorem facetHop_of_sameFails : facetHop e = facetHop d := by
  have hway : facetWay e = facetWay d := by
    funext g src dst
    simp only [facetWay, hs _]
  funext g src cur dst
  rw [facetHop, facetHop, hway]

theorem switchNext_of_sameFails (v : Variant) : switchNext v e = switchNext v d := by
  have hb (h h' : Nat) : bridgeHop v e h h' = bridgeHop v d h h' := by simp only [bridgeHop, hs _]
  funext h f
  simp only [switchNext, hb]

theorem spineNext_of_sameFails : spineNext e = spineNext d := by
  funext g f
  simp only [spineNext, facetHop_of_sameFails hs]

theorem routerNext_of_sameFails : routerNext e = routerNext d := by
  funext w f
  simp only [routerNext, facetHop_of_sameFails hs]

theorem nextAfter_of_sameFails (v : Variant) (h : Hop) (f : Frame) : nextAfter v e h f = nextAfter v d h f := by
  cases h <;> simp only [nextAfter, routerNext_of_sameFails hs, spineNext_of_sameFails hs, switchNext_of_sameFails hs, hs _]

theorem copiesOf_of_sameFails (h : Hop) (f : Frame) : copiesOf e h f = copiesOf d h f := by
  have hc : copiesAt e = copiesAt d := by
    funext g cur f
    simp only [copiesAt, facetHop_of_sameFails hs]
  simp only [copiesOf, hc]

theorem dropped_of_sameFails (hops : List HopState) (out : List Output) (ctr : Tab Nat)
    (he : e = { d with hops := hops, out := out, ctr := ctr }) (h : Hop) (f : Frame) : dropped e h f = dropped d h f := by
  have hgone : destGone e f = destGone d f := by rw [he]; rfl
  have hcut : hopCut e h = hopCut d h := by
    have hst : domState e = domState d := by rw [he]; rfl
    simp only [hopCut, hst, hs _]
  rw [dropped, dropped, hgone, hcut]

end Routes

/-! ### A credit comes back -/

/-- A hop with one more credit of a class. -/
def creditHop (cls : Nat) (x : HopState) : HopState := { x with credits := setAt x.credits cls (nth 0 x.credits cls + 1) }

/-- A hop that takes up a waiting frame. -/
def unwaitHop (w : Frame) (x : HopState) : HopState := { x with wait := x.wait.erase w }

theorem giveCredit_none {h : Hop} {cls : Nat} {d : Dev} (hw : (d.hopOf h).wait.find? (fun g => g.cls == cls) = none) :
    giveCredit h cls d = d.setHop h (creditHop cls (d.hopOf h)) := by
  unfold giveCredit
  dsimp only
  rw [hw]
  rfl

theorem giveCredit_some {h : Hop} {cls : Nat} {w : Frame} {d : Dev} (hw : (d.hopOf h).wait.find? (fun g => g.cls == cls) = some w) :
    giveCredit h cls d = sendNow h w (d.setHop h (unwaitHop w (creditHop cls (d.hopOf h)))) := by
  unfold giveCredit
  dsimp only
  rw [hw]
  rfl

/-- What a credit that comes back changes: its hop, and what a waiting frame sends. -/
structure Credited (h : Hop) (cls : Nat) (d e : Dev) : Prop where
  frame : e = { d with hops := e.hops, out := e.out, ctr := e.ctr }
  others : ∀ k, k ≠ h → e.hopOf k = d.hopOf k
  slots : (e.hopOf h).slots = (d.hopOf h).slots
  failed : (e.hopOf h).failed = (d.hopOf h).failed
  more : ∃ o, e.out = d.out ++ o
  idle : (d.hopOf h).wait.find? (fun g => g.cls == cls) = none →
    e.out = d.out ∧ (e.hopOf h).credits = setAt (d.hopOf h).credits cls (nth 0 (d.hopOf h).credits cls + 1)
  taken : ∀ w, (d.hopOf h).wait.find? (fun g => g.cls == cls) = some w → (e.hopOf h).wait = (d.hopOf h).wait.erase w ∧
    (cls < (d.hopOf h).credits.length → nth 0 (e.hopOf h).credits cls = nth 0 (d.hopOf h).credits cls) ∧
    e.out = d.out ++ [.fabric h (formed d w)]

theorem credited_giveCredit (h : Hop) (cls : Nat) (d : Dev) : Credited h cls d (giveCredit h cls d) := by
  cases hw : (d.hopOf h).wait.find? (fun g => g.cls == cls) with
  | none =>
    rw [giveCredit_none hw]
    have hx : (creditHop cls (d.hopOf h)).hop = h := d.hopOf_hop h
    have hh := d.hopOf_setHop_same hx
    refine ⟨rfl, fun k hk => d.hopOf_setHop_other hx hk, (congrArg HopState.slots hh :), (congrArg HopState.failed hh :),
      ⟨[], (List.append_nil _).symm⟩, fun _ => ⟨rfl, (congrArg HopState.credits hh :)⟩, fun w h' => ?_⟩
    exact absurd (hw.symm.trans h') (Option.some_ne_none w).symm
  | some w =>
    rw [giveCredit_some hw]
    have hx : (unwaitHop w (creditHop cls (d.hopOf h))).hop = h := d.hopOf_hop h
    have hh := d.hopOf_setHop_same hx
    have hd1 : d.setHop h (unwaitHop w (creditHop cls (d.hopOf h))) =
        { d with hops := (d.setHop h (unwaitHop w (creditHop cls (d.hopOf h)))).hops } := rfl
    have hother (k : Hop) (hk : k ≠ h) := d.hopOf_setHop_other hx hk
    generalize d.setHop h (unwaitHop w (creditHop cls (d.hopOf h))) = d1 at hh hd1 hother ⊢
    obtain ⟨hf, hout, ho, hhop, -⟩ := sent_sendNow h w d1
    rw [hh] at hhop
    have hform : formed d1 w = formed d w := by rw [hd1]; rfl
    have hd1out : d1.out = d.out := (congrArg Dev.out hd1 :)
    have hcls : w.cls = cls := eq_of_beq (List.find?_some (p := fun g : Frame => g.cls == cls) hw)
    generalize sendNow h w d1 = e at hf hout ho hhop ⊢
    refine ⟨?_, fun k hk => (ho k hk).trans (hother k hk), (congrArg HopState.slots hhop :), (congrArg HopState.failed hhop :), ⟨[.fabric h (formed d1 w)], ?_⟩,
      fun h' => absurd (h'.symm.trans hw) (Option.some_ne_none w).symm, fun w' h' => ?_⟩
    · rw [hf, hd1]
    · rw [hout, hd1out]
    · obtain rfl := Option.some.inj (hw.symm.trans h')
      refine ⟨(congrArg HopState.wait hhop :), fun hl => ?_, by rw [hout, hd1out, hform]⟩
      have hcr : (e.hopOf h).credits = setAt (setAt (d.hopOf h).credits cls (nth 0 (d.hopOf h).credits cls + 1)) w.cls
          (nth 0 (setAt (d.hopOf h).credits cls (nth 0 (d.hopOf h).credits cls + 1)) w.cls - 1) := (congrArg HopState.credits hhop :)
      rw [hcr, hcls, nth_setAt_same 0 hl, nth_setAt_same 0 (by rwa [setAt, List.length_set]), Nat.add_sub_cancel]

/-- A hop whose oldest frame of a class has left its slot. -/
def vacated (g : Frame) (cls : Nat) (x : HopState) : HopState :=
  { x with slots := x.slots.erase g, stalled := x.stalled.filter (fun c => c != cls) }

theorem leaveSlot_eq {h : Hop} {cls : Nat} {g : Frame} {d : Dev} (hg : (d.hopOf h).slots.find? (fun y => y.cls == cls) = some g) :
    leaveSlot h cls d = if (d.hopOf h).awaiting then d.modHop h (vacated g cls) else giveCredit h cls (d.modHop h (vacated g cls)) := by
  unfold leaveSlot
  rw [hg]
  rfl

/-- What a frame that leaves its slot changes. -/
structure SlotLeft (h : Hop) (cls : Nat) (g : Frame) (d e : Dev) : Prop where
  frame : e = { d with hops := e.hops, out := e.out, ctr := e.ctr }
  others : ∀ k, k ≠ h → e.hopOf k = d.hopOf k
  slots : (e.hopOf h).slots = (d.hopOf h).slots.erase g
  failed : (e.hopOf h).failed = (d.hopOf h).failed
  more : ∃ o, e.out = d.out ++ o
  idle : (d.hopOf h).awaiting = false → (d.hopOf h).wait.find? (fun g => g.cls == cls) = none →
    e.out = d.out ∧ (e.hopOf h).credits = setAt (d.hopOf h).credits cls (nth 0 (d.hopOf h).credits cls + 1)
  taken : (d.hopOf h).awaiting = false → ∀ w, (d.hopOf h).wait.find? (fun g => g.cls == cls) = some w →
    (e.hopOf h).wait = (d.hopOf h).wait.erase w ∧
    (cls < (d.hopOf h).credits.length → nth 0 (e.hopOf h).credits cls = nth 0 (d.hopOf h).credits cls) ∧
    e.out = d.out ++ [.fabric h (formed d w)]

theorem slotLeft_leaveSlot {h : Hop} {cls : Nat} {g : Frame} {d : Dev} (hg : (d.hopOf h).slots.find? (fun y => y.cls == cls) = some g) :
    SlotLeft h cls g d (leaveSlot h cls d) := by
  rw [leaveSlot_eq hg]
  have hx : (vacated g cls (d.hopOf h)).hop = h := d.hopOf_hop h
  have hh : (d.modHop h (vacated g cls)).hopOf h = vacated g cls (d.hopOf h) := d.hopOf_setHop_same hx
  have hd1 : d.modHop h (vacated g cls) = { d with hops := (d.modHop h (vacated g cls)).hops } := rfl
  have hother (k : Hop) (hk : k ≠ h) : (d.modHop h (vacated g cls)).hopOf k = d.hopOf k := d.hopOf_setHop_other hx hk
  have hform (w : Frame) : formed (d.modHop h (vacated g cls)) w = formed d w := rfl
  generalize d.modHop h (vacated g cls) = d1 at hh hd1 hother hform ⊢
  have hout : d1.out = d.out := (congrArg Dev.out hd1 :)
  cases ha : (d.hopOf h).awaiting with
  | true =>
    rw [if_pos rfl]
    refine ⟨?_, hother, (congrArg HopState.slots hh :), (congrArg HopState.failed hh :), ⟨[], by rw [hout, List.append_nil]⟩,
      fun h' => absurd (ha.symm.trans h') (by decide), fun h' => absurd (ha.symm.trans h') (by decide)⟩
    rw [hd1]
  | false =>
    rw [if_neg Bool.false_ne_true]
    obtain ⟨hf, ho, hsl, hfa, hmore, hidle, htaken⟩ := credited_giveCredit h cls d1
    rw [hh] at hsl hfa hidle htaken
    rw [hout] at hmore hidle htaken
    refine ⟨?_, fun k hk => (ho k hk).trans (hother k hk), hsl, hfa, hmore, fun _ hw => hidle hw, fun _ w hw => ?_⟩
    · rw [hf, hd1]
    · rw [← hform w]
      exact htaken w hw

theorem SlotLeft.sameFails {h : Hop} {cls : Nat} {g : Frame} {d e : Dev} (hs : SlotLeft h cls g d e) : SameFails d e := fun k => by
  by_cases hk : k = h
  · rw [hk, hs.failed]
  · rw [hs.others k hk]

/-! ### Credit returns -/

section Returns
variable {v : Variant} {h : Hop} {cls : Nat} {g : Frame} {d : Dev}

theorem creditReturnOp_awaited (hr : hopRuns v d h = true) (ha : (d.hopOf h).awaiting = true)
    (hu : ∀ u, endUnit h = some u → dropsFrames d u = false) : creditReturnOp v h cls d = advertise h d := by
  have hno : (endUnit h).elim false (dropsFrames d) = false := by
    cases hu' : endUnit h with
    | none => rfl
    | some u => exact hu u hu'
  unfold creditReturnOp
  dsimp only
  rw [hr, ha, hno]
  rfl

theorem creditReturnOp_slot (hr : hopRuns v d h = true) (ha : (d.hopOf h).awaiting = false)
    (hg : (d.hopOf h).slots.find? (fun y => y.cls == cls) = some g) (hc : copiesOf d h g = []) : creditReturnOp v h cls d =
      (nextAfter v d h g).elim (if (deliversTo h).elim false (fun t => unitHolds d t || groupFull d t cls) then d else deliver h g d)
        (fun o => moveOn v h g o d) := by
  have hcases (o : Option Hop) (e : Dev) (f : Hop → Dev) : (match o with | some o => f o | none => e) = o.elim e f := by cases o <;> rfl
  unfold creditReturnOp
  dsimp only
  rw [hr, ha, hg]
  dsimp only
  rw [if_neg (by decide), if_neg (by decide), if_neg (not_not.mpr hc)]
  exact hcases ..

theorem class_of_find (hg : (d.hopOf h).slots.find? (fun y => y.cls == cls) = some g) : g.cls = cls :=
  eq_of_beq (List.find?_some (p := fun y : Frame => y.cls == cls) hg)

theorem creditReturnOp_delivers (hr : hopRuns v d h = true) (ha : (d.hopOf h).awaiting = false)
    (hg : (d.hopOf h).slots.find? (fun y => y.cls == cls) = some g) (hc : copiesOf d h g = []) (hn : nextAfter v d h g = none)
    (hu : ∀ u, deliversTo h = some u → unitHolds d u = false ∧ groupFull d u cls = false) :
    creditReturnOp v h cls d = leaveSlot h cls (arrive g d) := by
  have hno : (deliversTo h).elim false (fun t => unitHolds d t || groupFull d t cls) = false := by
    cases hu' : deliversTo h with
    | none => rfl
    | some u =>
      obtain ⟨h1, h2⟩ := hu u hu'
      rw [Option.elim_some, h1, h2]
      rfl
  rw [creditReturnOp_slot hr ha hg hc, hn, Option.elim_none, hno, if_neg Bool.false_ne_true, deliver, class_of_find hg]

theorem creditReturnOp_moves (hr : hopRuns v d h = true) (ha : (d.hopOf h).awaiting = false)
    (hg : (d.hopOf h).slots.find? (fun y => y.cls == cls) = some g) (hc : copiesOf d h g = []) {o : Hop} (hn : nextAfter v d h g = some o) :
    creditReturnOp v h cls d = moveOn v h g o d := by
  rw [creditReturnOp_slot hr ha hg hc, hn, Option.elim_some]

theorem arrive_frame (g : Frame) (d : Dev) : arrive g d = { d with rooms := (arrive g d).rooms } := by
  unfold arrive
  split <;> rfl

theorem arrive_rooms (g : Frame) (d : Dev) (k : Nat) : tget [] (arrive g d).rooms k =
    if g.op = 0x10 ∧ k = g.dst then freeRoom g.poison g.payload.length (tget [] d.rooms k) else tget [] d.rooms k := by
  unfold arrive
  by_cases h10 : g.op = 0x10
  · rw [if_pos h10]
    by_cases hk : k = g.dst
    · rw [if_pos ⟨h10, hk⟩, hk]
      exact tget_tmod_same [] d.rooms g.dst _
    · rw [if_neg fun h' => hk h'.2]
      exact tget_tmod_other [] d.rooms _ hk
  · rw [if_neg h10, if_neg fun h' => h10 h'.1]

end Returns

/-- What a frame that is delivered leaves: its hop, its room, and a waiting frame that its credit lets go. -/
theorem creditReturn_delivers {s : State} {h : Hop} {cls : Nat} {g : Frame} (hr : hopRuns s.variant s.dev h = true)
    (ha : (s.dev.hopOf h).awaiting = false) (hg : (s.dev.hopOf h).slots.find? (fun y => y.cls == cls) = some g)
    (hc : copiesOf s.dev h g = []) (hl : cls < (s.dev.hopOf h).credits.length) (hn : nextAfter s.variant s.dev h g = none)
    (hu : ∀ u, deliversTo h = some u → unitHolds s.dev u = false ∧ groupFull s.dev u cls = false) :
    ∃ t, exec (.creditReturn h cls) s = .next t ∧
      t = s.on { s.dev with hops := t.dev.hops, rooms := t.dev.rooms, out := t.dev.out, ctr := t.dev.ctr } ∧
      (∀ k, k ≠ h → t.dev.hopOf k = s.dev.hopOf k) ∧ (t.dev.hopOf h).slots = (s.dev.hopOf h).slots.erase g ∧
      (∀ k, tget [] t.dev.rooms k =
        if g.op = 0x10 ∧ k = g.dst then freeRoom g.poison g.payload.length (tget [] s.dev.rooms k) else tget [] s.dev.rooms k) ∧
      match (s.dev.hopOf h).wait.find? (fun y => y.cls == cls) with
      | none => t.dev.out = s.dev.out ∧ nth 0 (t.dev.hopOf h).credits cls = nth 0 (s.dev.hopOf h).credits cls + 1
      | some w => (t.dev.hopOf h).wait = (s.dev.hopOf h).wait.erase w ∧ nth 0 (t.dev.hopOf h).credits cls = nth 0 (s.dev.hopOf h).credits cls ∧
          t.dev.out = s.dev.out ++ [.fabric h (formed s.dev w)] := by
  have hf := arrive_frame g s.dev
  have hrooms := arrive_rooms g s.dev
  have hhops (k : Hop) : (arrive g s.dev).hopOf k = s.dev.hopOf k := by rw [hf]; rfl
  have hsl := slotLeft_leaveSlot (d := arrive g s.dev) (h := h) (cls := cls) (g := g) (by rw [hhops]; exact hg)
  refine ⟨_, exec_creditReturn .., ?_⟩
  simp only [State.on_dev]
  rw [creditReturnOp_delivers hr ha hg hc hn hu]
  have hform (w : Frame) : formed (arrive g s.dev) w = formed s.dev w := by rw [hf]; rfl
  have hout : (arrive g s.dev).out = s.dev.out := (congrArg Dev.out hf :)
  generalize arrive g s.dev = d1 at *
  obtain ⟨hframe, hother, hslots, -, -, hidle, htaken⟩ := hsl
  rw [hhops, hout] at hidle htaken
  generalize leaveSlot h cls d1 = e at *
  have hre : e.rooms = d1.rooms := (congrArg Dev.rooms hframe :)
  refine ⟨congrArg s.on ?_, fun k hk => (hother k hk).trans (hhops k), by rw [hslots, hhops], fun k => by rw [hre, hrooms], ?_⟩
  · rw [hframe, hf]
  · cases hw : (s.dev.hopOf h).wait.find? (fun y => y.cls == cls) with
    | none =>
      obtain ⟨h1, h2⟩ := hidle ha hw
      exact ⟨h1, by rw [h2, nth_setAt_same 0 hl]⟩
    | some w =>
      obtain ⟨h1, h2, h3⟩ := htaken ha w hw
      exact ⟨h1, h2 hl, by rw [h3, hform]⟩

/-! ### A frame moves on -/

theorem hopTakes_iff (v : Variant) (d : Dev) (cls : Nat) (o : Hop) : hopTakes v d cls o = true ↔
    hopRuns v d o = true ∧ (d.hopOf o).failed = false ∧ 0 < nth 0 (d.hopOf o).credits cls ∧ ∀ g ∈ (d.hopOf o).wait, g.cls ≠ cls := by
  simp only [hopTakes, Bool.and_eq_true, Bool.not_eq_true', decide_eq_true_eq, List.all_eq_true, bne_iff_ne, and_assoc]

section Moves
variable {v : Variant} {h o : Hop} {g : Frame} {d : Dev} (hd : dropped d o g = false)
include hd

theorem moveOn_held (ht : hopTakes v d g.cls o = true) (hi : inOrder v d o g = false) : moveOn v h g o d = d := by
  unfold moveOn
  rw [hd, ht, hi]
  rfl

theorem moveOn_goes (ht : hopTakes v d g.cls o = true) (hi : inOrder v d o g = true) :
    moveOn v h g o d = offer v o g (leaveSlot h g.cls d) := by
  unfold moveOn
  rw [hd, ht, hi]
  rfl

theorem moveOn_stalls (ht : hopTakes v d g.cls o = false) : moveOn v h g o d = stall h g.cls o d := by
  unfold moveOn
  rw [hd, ht]
  rfl

/-- A frame that leaves its slot for the next hop is sent there at once. -/
theorem offer_after_slot (hg : (d.hopOf h).slots.find? (fun y => y.cls == g.cls) = some g) (hne : o ≠ h) (ht : hopTakes v d g.cls o = true) :
    offer v o g (leaveSlot h g.cls d) = sendNow o g (leaveSlot h g.cls d) := by
  have hsl := slotLeft_leaveSlot hg
  obtain ⟨-, -, hpos, hwait⟩ := (hopTakes_iff ..).mp ht
  have hd' : dropped (leaveSlot h g.cls d) o g = false :=
    (dropped_of_sameFails hsl.sameFails _ _ _ hsl.frame o g).trans hd
  rw [offer_plain v (.inl hd'), offerPlain_sends hd']
  · rw [hsl.others o hne]
    exact hpos
  · rw [hsl.others o hne]
    exact hwait

end Moves

theorem lt_length_of_nth_pos {l : List Nat} {i : Nat} (h : 0 < nth 0 l i) : i < l.length := by
  by_contra hge
  rw [nth, List.getD_eq_default _ _ (Nat.le_of_not_lt hge)] at h
  exact absurd h (Nat.lt_irrefl 0)

theorem Sent.credits {h : Hop} {f : Frame} {d e : Dev} (hs : Sent h f d e) (hpos : 0 < nth 0 (d.hopOf h).credits f.cls) :
    nth 0 (e.hopOf h).credits f.cls + 1 = nth 0 (d.hopOf h).credits f.cls := by
  rw [show (e.hopOf h).credits = setAt (d.hopOf h).credits f.cls (nth 0 (d.hopOf h).credits f.cls - 1) from congrArg HopState.credits hs.hop,
    nth_setAt_same 0 (lt_length_of_nth_pos hpos)]
  omega

theorem creditReturn_moves {s : State} {h o : Hop} {cls : Nat} {g : Frame} (hr : hopRuns s.variant s.dev h = true)
    (ha : (s.dev.hopOf h).awaiting = false) (hg : (s.dev.hopOf h).slots.find? (fun y => y.cls == cls) = some g)
    (hc : copiesOf s.dev h g = []) (hn : nextAfter s.variant s.dev h g = some o) (hd : dropped s.dev o g = false) (hne : o ≠ h)
    (ht : hopTakes s.variant s.dev g.cls o = true) (hi : inOrder s.variant s.dev o g = true) :
    ∃ t, exec (.creditReturn h cls) s = .next t ∧ t = s.on { s.dev with hops := t.dev.hops, out := t.dev.out, ctr := t.dev.ctr } ∧
      (t.dev.hopOf h).slots = (s.dev.hopOf h).slots.erase g ∧
      nth 0 (t.dev.hopOf o).credits g.cls + 1 = nth 0 (s.dev.hopOf o).credits g.cls ∧
      t.dev.out.getLast? = some (.fabric o (formed s.dev g)) := by
  have hcls := class_of_find hg
  rw [← hcls] at hg
  refine ⟨_, exec_creditReturn .., ?_⟩
  simp only [State.on_dev]
  rw [← hcls, creditReturnOp_moves hr ha hg hc hn, moveOn_goes hd ht hi, offer_after_slot hd hg hne ht]
  have hsl := slotLeft_leaveSlot hg
  have hform : formed (leaveSlot h g.cls s.dev) g = formed s.dev g := by rw [hsl.frame]; rfl
  have hs := sent_sendNow o g (leaveSlot h g.cls s.dev)
  have hpos : 0 < nth 0 ((leaveSlot h g.cls s.dev).hopOf o).credits g.cls := by
    rw [hsl.others o hne]
    exact ((hopTakes_iff ..).mp ht).2.2.1
  have hcr := hs.credits hpos
  rw [hsl.others o hne] at hcr
  refine ⟨congrArg s.on ?_, by rw [hs.others h (Ne.symm hne), hsl.slots], hcr, by rw [hs.out, List.getLast?_concat, hform]⟩
  have hf := hsl.frame
  have hsf := hs.frame
  generalize leaveSlot h g.cls s.dev = d1 at hf hsf ⊢
  rw [hsf, hf]

/-- A hop whose oldest frame of a class waits for a credit. -/
def stalledHop (cls : Nat) (x : HopState) : HopState := { x with stalled := x.stalled ++ [cls] }

theorem stall_new {h o : Hop} {cls : Nat} {d : Dev} (hs : cls ∉ (d.hopOf h).stalled) :
    stall h cls o d = (d.modHop h (stalledHop cls)).count 0x20B4 (senderSs o) 1 := by
  unfold stall
  rw [if_neg (by rwa [List.contains_iff_mem])]
  rfl

theorem stall_again {h o : Hop} {cls : Nat} {d : Dev} (hs : cls ∈ (d.hopOf h).stalled) : stall h cls o d = d := by
  unfold stall
  rw [if_pos (List.contains_iff_mem.mpr hs)]

theorem hopTakes_of {v : Variant} {d e : Dev} {cls : Nat} {o : Hop} (hr : hopRuns v e o = hopRuns v d o)
    (hf : (e.hopOf o).failed = (d.hopOf o).failed) (hc : (e.hopOf o).credits = (d.hopOf o).credits)
    (hw : (e.hopOf o).wait = (d.hopOf o).wait) : hopTakes v e cls o = hopTakes v d cls o := by
  rw [hopTakes, hopTakes, hr, hf, hc, hw]

theorem creditReturn_stalls {s : State} {h o : Hop} {cls : Nat} {g : Frame} (hr : hopRuns s.variant s.dev h = true)
    (ha : (s.dev.hopOf h).awaiting = false) (hg : (s.dev.hopOf h).slots.find? (fun y => y.cls == cls) = some g)
    (hc : copiesOf s.dev h g = []) (hn : nextAfter s.variant s.dev h g = some o) (hd : dropped s.dev o g = false)
    (ht : hopTakes s.variant s.dev g.cls o = false) (hst : cls ∉ (s.dev.hopOf h).stalled) :
    ∃ t, exec (.creditReturn h cls) s = .next t ∧ t = s.on { s.dev with hops := t.dev.hops, ctr := t.dev.ctr } ∧
      t.dev.hopOf h = stalledHop cls (s.dev.hopOf h) ∧ Counted s.dev t.dev 0x20B4 (senderSs o) 1 ∧
      exec (.creditReturn h cls) t = .next t := by
  have hcls := class_of_find hg
  have heq : creditReturnOp s.variant h cls s.dev = (s.dev.modHop h (stalledHop cls)).count 0x20B4 (senderSs o) 1 := by
    rw [creditReturnOp_moves hr ha hg hc hn, moveOn_stalls hd ht, hcls, stall_new hst]
  have hx : (stalledHop cls (s.dev.hopOf h)).hop = h := s.dev.hopOf_hop h
  have hhop (k : Hop) : ((s.dev.modHop h (stalledHop cls)).count 0x20B4 (senderSs o) 1).hopOf k =
      if k = h then stalledHop cls (s.dev.hopOf h) else s.dev.hopOf k := s.dev.hopOf_setHop hx k
  have hf : (s.dev.modHop h (stalledHop cls)).count 0x20B4 (senderSs o) 1 = { s.dev with
      hops := ((s.dev.modHop h (stalledHop cls)).count 0x20B4 (senderSs o) 1).hops, out := s.dev.out,
      ctr := ((s.dev.modHop h (stalledHop cls)).count 0x20B4 (senderSs o) 1).ctr } := rfl
  have hcount : Counted s.dev ((s.dev.modHop h (stalledHop cls)).count 0x20B4 (senderSs o) 1) 0x20B4 (senderSs o) 1 :=
    counted_count_of rfl _ _ _
  refine ⟨_, exec_creditReturn .., ?_⟩
  rw [heq]
  simp only [State.on_dev]
  generalize (s.dev.modHop h (stalledHop cls)).count 0x20B4 (senderSs o) 1 = e at hhop hf hcount ⊢
  have hsame : SameFails s.dev e := fun k => by
    rw [hhop k]
    split
    next hk => rw [hk]; rfl
    · rfl
  have hh : e.hopOf h = stalledHop cls (s.dev.hopOf h) := (hhop h).trans (if_pos rfl)
  have hruns (k : Hop) : hopRuns s.variant e k = hopRuns s.variant s.dev k := by rw [hf]; rfl
  have hto : hopTakes s.variant e g.cls o = false := by
    rw [hopTakes_of (hruns o) (hsame o), ht] <;> rw [hhop o] <;> split
    next hk => rw [hk]; rfl
    · rfl
    next hk => rw [hk]; rfl
    · rfl
  refine ⟨congrArg s.on hf, hh, hcount, ?_⟩
  rw [exec_creditReturn, State.on_dev, State.on_variant, creditReturnOp_moves (g := g) (o := o), moveOn_stalls, hcls, stall_again, State.on_on]
  · rw [hh]
    exact List.mem_append_right _ List.mem_cons_self
  · rw [dropped_of_sameFails hsame _ _ _ hf, hd]
  · exact hto
  · rw [hruns, hr]
  · rw [hh]; exact ha
  · rw [hh]; exact hg
  · rw [copiesOf_of_sameFails hsame, hc]
  · rw [nextAfter_of_sameFails hsame, hn]

/-! ### Advertisements and read requests -/

/-- The free slots of a hop by class (R282). -/
def freeSlots (h : Hop) (x : HopState) : List Nat :=
  (hopSlots h).zipIdx.map (fun e => e.1 - ((x.slots ++ x.replay).filter (fun g => g.cls == e.2)).length)

/-- A hop whose advertisement has come. -/
def advertised (h : Hop) (x : HopState) : HopState := { x with credits := freeSlots h x, awaiting := false }

theorem advertise_eq {h : Hop} {d : Dev} (hw : (d.hopOf h).wait = []) : advertise h d = d.setHop h (advertised h (d.hopOf h)) := by
  have hx : (advertised h (d.hopOf h)).hop = h := d.hopOf_hop h
  have hwait : ((d.setHop h (advertised h (d.hopOf h))).hopOf h).wait = [] := by rw [d.hopOf_setHop_same hx]; exact hw
  have hdrain : advertise h d = drainWait h (d.setHop h (advertised h (d.hopOf h))) := rfl
  rw [hdrain, drainWait, hwait]
  rfl

theorem nth_freeSlots (h : Hop) (x : HopState) (c : Nat) :
    nth 0 (freeSlots h x) c = nth 0 (hopSlots h) c - ((x.slots ++ x.replay).filter (fun g => g.cls == c)).length := by
  rw [nth, List.getD_eq_getElem?_getD, freeSlots, List.getElem?_map, List.getElem?_zipIdx, nth, List.getD_eq_getElem?_getD]
  cases (hopSlots h)[c]? with
  | none => simp
  | some n => simp

theorem creditReturn_advertises {s : State} {h : Hop} (cls : Nat) (hr : hopRuns s.variant s.dev h = true)
    (ha : (s.dev.hopOf h).awaiting = true) (hu : ∀ u, endUnit h = some u → dropsFrames s.dev u = false) (hw : (s.dev.hopOf h).wait = []) :
    ∃ t, exec (.creditReturn h cls) s = .next t ∧ t = s.on { s.dev with hops := t.dev.hops } ∧ (t.dev.hopOf h).awaiting = false ∧
      (t.dev.hopOf h).slots = (s.dev.hopOf h).slots ∧
      ∀ c, c < 4 → nth 0 (t.dev.hopOf h).credits c =
        nth 0 (hopSlots h) c - (((s.dev.hopOf h).slots ++ (s.dev.hopOf h).replay).filter (fun g => g.cls == c)).length := by
  have hx : (advertised h (s.dev.hopOf h)).hop = h := s.dev.hopOf_hop h
  have hh := s.dev.hopOf_setHop_same hx
  refine ⟨_, exec_creditReturn .., ?_⟩
  simp only [State.on_dev]
  rw [creditReturnOp_awaited hr ha hu, advertise_eq hw, hh]
  exact ⟨rfl, rfl, rfl, fun c _ => nth_freeSlots h _ c⟩

section Reads
variable {v : Variant} {d : Dev} {unit room : Nat} {u : Target} (hu : endpointUnit unit = some u) (hp : targetPresent v u = true)
  (ho : targetOffline d u = false) (h16 : 16 ≤ room) (h256 : room ≤ 256) (hm : room % 16 = 0)
include hu hp ho h16 h256 hm

theorem readRequestOp_eq : readRequestOp v unit room d =
    (reserveRoom unit room d).elim d (fun e => { e with asks := tmod 0 e.asks unit (· + 1) }.emit (.readReq unit)) := by
  unfold readRequestOp
  rw [hu]
  dsimp only
  rw [if_pos (by rw [hp, ho, decide_eq_true h16, decide_eq_true h256, decide_eq_true hm]; rfl)]

end Reads

theorem tget_tmod_append {k unit room : Nat} (t : Tab (List Nat)) :
    tget [] (tmod [] t unit (fun rs => rs ++ [room])) k = tget [] t k ++ if k = unit then [room] else [] := by
  by_cases hk : k = unit
  · rw [hk, tget_tmod_same, if_pos rfl]
  · rw [tget_tmod_other [] t _ hk, if_neg hk, List.append_nil]

theorem tget_tmod_succ {k unit : Nat} (t : Tab Nat) : tget 0 (tmod 0 t unit (· + 1)) k = tget 0 t k + if k = unit then 1 else 0 := by
  by_cases hk : k = unit
  · rw [hk, tget_tmod_same, if_pos rfl]
  · rw [tget_tmod_other 0 t _ hk, if_neg hk, Nat.add_zero]

theorem readRequest_asks {s : State} {unit room : Nat} {u : Target} (hu : endpointUnit unit = some u)
    (hp : targetPresent s.variant u = true) (ho : targetOffline s.dev u = false) (h16 : 16 ≤ room) (h256 : room ≤ 256) (hm : room % 16 = 0) :
    (roomFits unit ((tget [] s.dev.rooms unit).sum + room) = true →
      ∃ t, exec (.readRequest unit room) s = .next t ∧
       t = s.on { s.dev with rooms := t.dev.rooms, asks := t.dev.asks, out := t.dev.out } ∧ t.dev.out = s.dev.out ++ [.readReq unit] ∧
       (∀ k, tget [] t.dev.rooms k = tget [] s.dev.rooms k ++ if k = unit then [room] else []) ∧
       ∀ k, tget 0 t.dev.asks k = tget 0 s.dev.asks k + if k = unit then 1 else 0) ∧
    (roomFits unit ((tget [] s.dev.rooms unit).sum + room) = false → exec (.readRequest unit room) s = .next s) := by
  have heq := readRequestOp_eq (d := s.dev) hu hp ho h16 h256 hm
  refine ⟨fun hfit => ⟨_, exec_readRequest .., ?_⟩, fun hfull => ?_⟩
  · rw [heq, reserveRoom, if_pos hfit]
    exact ⟨rfl, rfl, fun k => tget_tmod_append _, fun k => tget_tmod_succ _⟩
  · rw [exec_readRequest, heq, reserveRoom, hfull, if_neg Bool.false_ne_true, Option.elim_none, State.on_self]

end Sys2Proof.Machine

/-!
PROOFS for multicast frames, failed hops, stalls and resets of a hop's ends (R255, R274, R281, R282, R284).
-/
namespace Sys2Proof.Machine

open Sys2Proof

theorem exec_multicastForward (s : State) (h : Hop) (cls : Nat) (outs : List Hop) :
    exec (.multicastForward h cls outs) s = .next (s.on (multicastForwardOp s.variant h cls outs s.dev)) := rfl

theorem exec_fabricHopFail (s : State) (h : Hop) : exec (.fabricHopFail h) s = .next (s.on (fabricHopFailOp s.variant h s.dev)) := rfl

theorem exec_fabricStall (s : State) (h : Hop) (n : Nat) : exec (.fabricStall h n) s = .next (s.on (fabricStallOp s.variant h n s.dev)) := rfl

theorem exec_hopEndReset (s : State) (h : Hop) (receiver : Bool) : exec (.hopEndReset h receiver) s =
    .next (s.on (if hopPresent s.variant h then hopEndLost h receiver s.dev else s.dev)) := rfl

/-! ### Copies of a multicast frame -/

theorem nodup_eraseDups {α : Type} [DecidableEq α] : (l : List α) → l.eraseDups.Nodup
  | [] => List.nodup_nil
  | a :: l => by
    rw [List.eraseDups_cons, List.nodup_cons, List.mem_eraseDups, List.mem_filter]
    exact ⟨fun h => by simp at h, nodup_eraseDups (l.filter fun b => !b == a)⟩
termination_by l => l.length
decreasing_by exact Nat.lt_succ_of_le (List.length_filter_le _ l)

/-- Each output of a place takes one copy, for at least one wedge. -/
theorem copiesAt_outputs (d : Dev) (g : Nat) (cur : Option Nat) (f : Frame) :
    ((copiesAt d g cur f).map Prod.fst).Nodup ∧ ∀ e ∈ copiesAt d g cur f, e.2 ≠ [] := by
  unfold copiesAt
  dsimp only
  rw [List.map_map]
  refine ⟨?_, fun e he => ?_⟩
  · rw [show (Prod.fst ∘ fun o : Hop => (o, (maskWedges f.wmask).filter fun i => facetHop d g (placeIn g f.src) cur (some (16 * g + i)) == some o)) = id
      from rfl, List.map_id]
    exact nodup_eraseDups _
  · obtain ⟨o, ho, rfl⟩ := List.mem_map.mp he
    obtain ⟨i, hi, hio⟩ := List.mem_filterMap.mp (List.mem_eraseDups.mp ho)
    exact List.ne_nil_of_mem (List.mem_filter.mpr ⟨hi, beq_iff_eq.mpr hio⟩)

theorem copiesOf_outputs (d : Dev) (h : Hop) (f : Frame) :
    ((copiesOf d h f).map Prod.fst).Nodup ∧ ∀ e ∈ copiesOf d h f, e.2 ≠ [] := by
  have hnil : ((([] : List (Hop × List Nat))).map Prod.fst).Nodup ∧ ∀ e ∈ ([] : List (Hop × List Nat)), e.2 ≠ [] :=
    ⟨List.nodup_nil, fun _ he => absurd he List.not_mem_nil⟩
  have hat (g : Nat) (cur : Option Nat) : ((if inFacet g f then copiesAt d g cur f else []).map Prod.fst).Nodup ∧
      ∀ e ∈ (if inFacet g f then copiesAt d g cur f else []), e.2 ≠ [] := by
    split
    · exact copiesAt_outputs ..
    · exact hnil
  unfold copiesOf
  dsimp only
  split
  · exact hat ..
  · exact hat ..
  · split
    next w dir hdir =>
      cases neighbour w dir with
      | none => exact hnil
      | some x => exact hat ..
    · exact hnil
  · exact hnil

/-- A frame as its copy for some wedges. -/
def copyFor (g : Frame) (ws : List Nat) : Frame := { g with wmask := wedgeMask ws }

theorem sendCopy_eq {g : Frame} {d : Dev} {e : Hop × List Nat} (hs : servedBy d e.1 e.2 = e.2) (hne : e.2 ≠ []) :
    sendCopy g d e = sendNow e.1 (copyFor g e.2) (d.count 0x20B8 (senderSs e.1) 0) := by
  unfold sendCopy
  dsimp only
  rw [hs, if_neg hne, Nat.sub_self]
  rfl

theorem formed_fields (d : Dev) (f : Frame) : (formed d f).wmask = f.wmask ∧ (formed d f).op = f.op := by
  unfold formed formFrame
  dsimp only
  split
  · exact ⟨rfl, rfl⟩
  · generalize (if (elideWords f.payload).length ≤ (elideBytes f.payload).length then elideWords f.payload else elideBytes f.payload) = best
    split <;> exact ⟨rfl, rfl⟩

/-- What the copies that have left changed: their hops each lost a credit and sent a copy. -/
structure CopiesSent (g : Frame) (cs : List (Hop × List Nat)) (d e : Dev) : Prop where
  frame : e = { d with hops := e.hops, out := e.out, ctr := e.ctr }
  others : ∀ k, k ∉ cs.map Prod.fst → e.hopOf k = d.hopOf k
  more : ∃ o, e.out = d.out ++ o
  copies : ∀ c ∈ cs, nth 0 (e.hopOf c.1).credits g.cls + 1 = nth 0 (d.hopOf c.1).credits g.cls ∧
    ∃ f, .fabric c.1 f ∈ e.out ∧ f.wmask = wedgeMask c.2 ∧ f.op = g.op

theorem servedBy_of_frame {d e : Dev} {hops : List HopState} {out : List Output} {ctr : Tab Nat}
    (he : e = { d with hops := hops, out := out, ctr := ctr }) (o : Hop) (ws : List Nat) : servedBy e o ws = servedBy d o ws := by
  have hd : dropsFrames e = dropsFrames d := by rw [he]; rfl
  rw [servedBy, servedBy, hd]

theorem copiesSent_foldl (g : Frame) (cs : List (Hop × List Nat)) (d : Dev) (hnd : (cs.map Prod.fst).Nodup)
    (hs : ∀ c ∈ cs, servedBy d c.1 c.2 = c.2 ∧ c.2 ≠ [] ∧ 0 < nth 0 (d.hopOf c.1).credits g.cls) :
    CopiesSent g cs d (cs.foldl (sendCopy g) d) := by
  induction cs generalizing d with
  | nil => exact ⟨rfl, fun _ _ => rfl, ⟨[], (List.append_nil _).symm⟩, fun c hc => absurd hc List.not_mem_nil⟩
  | cons c cs ih =>
    obtain ⟨hserved, hne, hpos⟩ := hs c List.mem_cons_self
    obtain ⟨hc, hcs⟩ := List.nodup_cons.mp hnd
    rw [List.foldl_cons, sendCopy_eq hserved hne]
    have hsent := sent_sendNow c.1 (copyFor g c.2) (d.count 0x20B8 (senderSs c.1) 0)
    have hcredit := hsent.credits (f := copyFor g c.2) hpos
    obtain ⟨hmask, hop⟩ := formed_fields (d.count 0x20B8 (senderSs c.1) 0) (copyFor g c.2)
    obtain ⟨hf, hout, hother, -, -⟩ := hsent
    generalize formed (d.count 0x20B8 (senderSs c.1) 0) (copyFor g c.2) = f at hmask hop hout
    generalize sendNow c.1 (copyFor g c.2) (d.count 0x20B8 (senderSs c.1) 0) = d1 at *
    have hf' : d1 = { d with hops := d1.hops, out := d1.out, ctr := d1.ctr } := hf
    have hout' : d1.out = d.out ++ [.fabric c.1 f] := hout
    have hother' (k : Hop) (hk : k ≠ c.1) : d1.hopOf k = d.hopOf k := hother k hk
    obtain ⟨hF, hO, ⟨o, hM⟩, hC⟩ := ih d1 hcs fun x hx => by
      obtain ⟨h1, h2, h3⟩ := hs x (List.mem_cons_of_mem c hx)
      have hxc : x.1 ≠ c.1 := fun h => hc (h ▸ List.mem_map_of_mem hx)
      exact ⟨(servedBy_of_frame hf' ..).trans h1, h2, by rw [hother' _ hxc]; exact h3⟩
    generalize cs.foldl (sendCopy g) d1 = e at *
    refine ⟨?_, fun k hk => ?_, ⟨[.fabric c.1 f] ++ o, ?_⟩, fun x hx => ?_⟩
    · rw [hF, hf']
    · rw [List.map_cons, List.mem_cons, not_or] at hk
      rw [hO k hk.2, hother' k hk.1]
    · rw [hM, hout', List.append_assoc]
    · rcases List.mem_cons.mp hx with rfl | hx
      · rw [hO _ hc]
        exact ⟨hcredit, f, by rw [hM, hout']; simp, hmask, hop⟩
      · have hxc : x.1 ≠ c.1 := fun h => hc (h ▸ List.mem_map_of_mem hx)
        have hx' := hC x hx
        rw [hother' _ hxc] at hx'
        exact hx'

theorem multicastForwardOp_goes {v : Variant} {h : Hop} {cls : Nat} {g : Frame} {d : Dev} (hr : hopRuns v d h = true)
    (hg : (d.hopOf h).slots.find? (fun y => y.cls == cls) = some g) (hc : copiesOf d h g ≠ [])
    (ht : ∀ e ∈ copiesOf d h g, hopTakes v d cls e.1 = true) (hl : localHolds d h g = false)
    (hi : ∀ e ∈ copiesOf d h g, inOrder v d e.1 { g with wmask := wedgeMask e.2 } = true) :
    multicastForwardOp v h cls ((copiesOf d h g).map Prod.fst) d = leaveSlot h cls ((copiesOf d h g).foldl (sendCopy g) d) := by
  have hall : (copiesOf d h g).all (fun e => ((copiesOf d h g).map Prod.fst).contains e.1) = true :=
    List.all_eq_true.mpr fun e he => List.contains_iff_mem.mpr (List.mem_map_of_mem he)
  have hnone : (copiesOf d h g).find? (fun e => servedBy d e.1 e.2 != [] && !hopTakes v d cls e.1) = none :=
    List.find?_eq_none.mpr fun e he => by rw [ht e he, Bool.not_true, Bool.and_false]; exact Bool.false_ne_true
  have hord : (copiesOf d h g).all (fun e => inOrder v d e.1 { g with wmask := wedgeMask e.2 }) = true := List.all_eq_true.mpr hi
  unfold multicastForwardOp
  rw [hg]
  dsimp only
  rw [if_neg, hnone]
  · dsimp only
    rw [if_neg (by rw [hl, hord]; decide)]
  · rw [hr, hall, List.length_map]
    simp [hc]

theorem multicast_forwards {s : State} {h : Hop} {cls : Nat} {g : Frame} (hr : hopRuns s.variant s.dev h = true)
    (hg : (s.dev.hopOf h).slots.find? (fun y => y.cls == cls) = some g) (hc : copiesOf s.dev h g ≠ [])
    (ht : ∀ e ∈ copiesOf s.dev h g, e.1 ≠ h ∧ servedBy s.dev e.1 e.2 = e.2 ∧ hopTakes s.variant s.dev cls e.1 = true)
    (hl : localHolds s.dev h g = false) (hi : ∀ e ∈ copiesOf s.dev h g, inOrder s.variant s.dev e.1 { g with wmask := wedgeMask e.2 } = true) :
    ∃ t, exec (.multicastForward h cls ((copiesOf s.dev h g).map Prod.fst)) s = .next t ∧
      t = s.on { s.dev with hops := t.dev.hops, out := t.dev.out, ctr := t.dev.ctr } ∧
      (t.dev.hopOf h).slots = (s.dev.hopOf h).slots.erase g ∧
      ∀ e ∈ copiesOf s.dev h g, nth 0 (t.dev.hopOf e.1).credits cls + 1 = nth 0 (s.dev.hopOf e.1).credits cls ∧
        ∃ f, .fabric e.1 f ∈ t.dev.out ∧ f.wmask = wedgeMask e.2 ∧ f.op = g.op := by
  have hcls := class_of_find hg
  obtain ⟨hnd, hne⟩ := copiesOf_outputs s.dev h g
  have hsent := copiesSent_foldl g (copiesOf s.dev h g) s.dev hnd fun e he =>
    ⟨(ht e he).2.1, hne e he, hcls ▸ ((hopTakes_iff ..).mp (ht e he).2.2).2.2.1⟩
  refine ⟨_, exec_multicastForward .., ?_⟩
  simp only [State.on_dev]
  rw [multicastForwardOp_goes hr hg hc (fun e he => (ht e he).2.2) hl hi]
  obtain ⟨hF, hO, -, hC⟩ := hsent
  have hh : ((copiesOf s.dev h g).foldl (sendCopy g) s.dev).hopOf h = s.dev.hopOf h := hO h fun hm => by
    obtain ⟨e, he, heq⟩ := List.mem_map.mp hm
    exact (ht e he).1 heq
  generalize (copiesOf s.dev h g).foldl (sendCopy g) s.dev = d1 at *
  have hsl := slotLeft_leaveSlot (d := d1) (h := h) (cls := cls) (g := g) (by rw [hh]; exact hg)
  obtain ⟨hf, ho, hslots, -, ⟨o, hmore⟩, -, -⟩ := hsl
  generalize leaveSlot h cls d1 = e1 at *
  refine ⟨congrArg s.on (by rw [hf, hF]), by rw [hslots, hh], fun e he => ?_⟩
  obtain ⟨hcr, f, hfm, hmask, hop⟩ := hC e he
  rw [ho e.1 (ht e he).1, ← hcls]
  exact ⟨hcr, f, by rw [hmore]; exact List.mem_append_left _ hfm, hmask, hop⟩

/-! ### Hops that fail -/

/-- Frames moved: hops, rooms and counts may differ, but no hop failed or was mended. -/
structure Moved (d e : Dev) : Prop where
  frame : e = { d with hops := e.hops, out := e.out, ctr := e.ctr, rooms := e.rooms, frames := e.frames }
  fails : SameFails d e

theorem moved_refl (d : Dev) : Moved d d := ⟨rfl, fun _ => rfl⟩

theorem Moved.trans {d e f : Dev} (h : Moved d e) (h' : Moved e f) : Moved d f :=
  ⟨by rw [h'.frame, h.frame], fun k => (h'.fails k).trans (h.fails k)⟩

theorem moved_other (d : Dev) (out : List Output) (ctr : Tab Nat) (rooms : Tab (List Nat)) (frames : Nat) :
    Moved d { d with out := out, ctr := ctr, rooms := rooms, frames := frames } := ⟨rfl, fun _ => rfl⟩

theorem moved_setHop {d : Dev} {h : Hop} {x : HopState} (hx : x.hop = h) (hf : x.failed = (d.hopOf h).failed) : Moved d (d.setHop h x) :=
  ⟨rfl, fun k => by
    rw [d.hopOf_setHop hx k]
    split
    next hk => rw [hk, hf]
    · rfl⟩

theorem moved_count (d : Dev) (idx sub n : Nat) : Moved d (d.count idx sub n) := moved_other ..

theorem moved_sendNow (h : Hop) (f : Frame) (d : Dev) : Moved d (sendNow h f d) := by
  obtain ⟨hf, -, ho, hh, -⟩ := sent_sendNow h f d
  refine ⟨by rw [hf], fun k => ?_⟩
  by_cases hk : k = h
  · rw [hk, hh]
    rfl
  · rw [ho k hk]

theorem moved_offerPlain (h : Hop) (f : Frame) (d : Dev) : Moved d (offerPlain h f d) := by
  unfold offerPlain
  dsimp only
  split
  · exact moved_count ..
  split
  · exact moved_sendNow ..
  · refine Moved.trans ?_ (moved_count ..)
    exact moved_setHop (d.hopOf_hop h) rfl

theorem moved_arrive (g : Frame) (d : Dev) : Moved d (arrive g d) := by
  rw [arrive_frame]
  exact moved_other ..

theorem moved_offer (v : Variant) (h : Hop) (f : Frame) (d : Dev) : Moved d (offer v h f d) := by
  have helim (o : Option Hop) (r : Frame) (e : Dev) : Moved e
      (o.elim (arrive r e) (fun o => offerPlain o { r with seq := e.frames } { e with frames := e.frames + 1 })) := by
    cases o with
    | none => exact moved_arrive r e
    | some o => exact (moved_other e e.out e.ctr e.rooms (e.frames + 1)).trans (moved_offerPlain ..)
  unfold offer
  dsimp only
  split
  · exact (moved_offerPlain h f d).trans (helim ..)
  · exact moved_offerPlain h f d

theorem moved_foldl {α : Type} {f : Dev → α → Dev} (l : List α) (d : Dev) (h : ∀ e a, Moved e (f e a)) : Moved d (l.foldl f d) :=
  List.foldlRecOn (motive := fun e => Moved d e) l f (moved_refl d) fun e he a _ => he.trans (h e a)

theorem moved_reroute (v : Variant) (h : Hop) (d : Dev) (f : Frame) : Moved d (reroute v h d f) := by
  unfold reroute
  dsimp only
  split
  · exact moved_refl d
  · refine Moved.trans ?_ (moved_foldl _ _ fun e o => moved_offer ..)
    exact moved_setHop (d.hopOf_hop h) rfl

/-- A hop that has failed. -/
def failedHop (x : HopState) : HopState := { x with failed := true }

/-- The device once the failure of a hop is posted. -/
def failPosted (h : Hop) (d : Dev) : Dev := (d.setHop h (failedHop (d.hopOf h))).post evHopFail (hopHub h) (hopUnit h) [(4, hopKey h)]

theorem failPosted_hop (h : Hop) (d : Dev) : ((failPosted h d).hopOf h).failed = true := by
  have hx : (failedHop (d.hopOf h)).hop = h := d.hopOf_hop h
  exact congrArg HopState.failed (d.hopOf_setHop_same hx)

theorem failPosted_frame (h : Hop) (d : Dev) : failPosted h d = { d with hops := (d.setHop h (failedHop (d.hopOf h))).hops, log := (failPosted h d).log } := rfl

theorem failPosted_posted (h : Hop) (d : Dev) : Posted d (failPosted h d) evHopFail (hopHub h) (hopUnit h) [(4, hopKey h)] :=
  (d.setHop h (failedHop (d.hopOf h))).posted_post ..

/-- A facet bridge, by its facet. -/
def bridgeOf : Hop → Option Nat
  | .facetUp f => some f
  | .facetDown f => some f
  | _ => none

theorem bridgeOf_iff (h : Hop) (f : Nat) : bridgeOf h = some f ↔ h = .facetUp f ∨ h = .facetDown f := by
  cases h <;> simp [bridgeOf]

theorem fabricHopFailOp_fails {v : Variant} {h : Hop} {d : Dev} (hf : (d.hopOf h).failed = false) (h16 : 16 ≤ (d.hopOf h).succ) :
    fabricHopFailOp v h d = (bridgeOf h).elim (((d.hopOf h).replay ++ (d.hopOf h).wait).foldl (reroute v h) (failPosted h d))
      (fun f => isolateFacet f (failPosted h d)) := by
  unfold fabricHopFailOp
  dsimp only
  rw [hf, if_neg Bool.false_ne_true, if_neg (Nat.not_lt.mpr h16)]
  cases h <;> rfl

/-- A facet taken out of service: its sequencers are lost. -/
structure Isolated (f : Nat) (d e : Dev) : Prop where
  frame : e = { d with seq := e.seq, jobs := e.jobs }
  seq : e.seq.isolated = d.seq.isolated ++ [codeOf (.facet f)]
  lost : ∀ y ∈ e.jobs, ∀ i ∈ y.iss, i.issuer / 16 = f → i.lost = true

theorem isolated_isolateFacet (f : Nat) (d : Dev) : Isolated f d (isolateFacet f d) := by
  refine ⟨rfl, rfl, fun y hy i hi hf => ?_⟩
  have hp : issuersIn (.facet f) i.issuer = true := decide_eq_true hf
  obtain ⟨j, hj, rfl⟩ := List.mem_map.mp hy
  have hi' : i ∈ j.iss := by
    split at hi <;> exact hi
  obtain ⟨j0, -, rfl⟩ := List.mem_map.mp hj
  obtain ⟨i0, -, rfl⟩ := List.mem_map.mp hi'
  by_cases h0 : issuersIn (.facet f) i0.issuer = true
  · rw [if_pos h0]
  · rw [if_neg h0] at hp
    exact absurd hp h0

theorem hop_fails {s : State} {h : Hop} (hf : (s.dev.hopOf h).failed = false) (h16 : 16 ≤ (s.dev.hopOf h).succ) :
    ∃ t, exec (.fabricHopFail h) s = .next t ∧ (t.dev.hopOf h).failed = true ∧
      t = s.on { s.dev with
        hops := t.dev.hops, log := t.dev.log, seq := t.dev.seq, out := t.dev.out, ctr := t.dev.ctr, jobs := t.dev.jobs,
        rooms := t.dev.rooms, frames := t.dev.frames } ∧
      Posted s.dev t.dev evHopFail (hopHub h) (hopUnit h) [(4, hopKey h)] ∧
      (∀ f, h = .facetUp f ∨ h = .facetDown f → t.dev.seq.isolated = s.dev.seq.isolated ++ [codeOf (.facet f)] ∧
        t.dev.hops = (s.dev.setHop h { s.dev.hopOf h with failed := true }).hops ∧
        ∀ y ∈ t.dev.jobs, ∀ i ∈ y.iss, i.issuer / 16 = f → i.lost = true) ∧
      ((∀ f, h ≠ .facetUp f ∧ h ≠ .facetDown f) → t.dev.seq = s.dev.seq ∧ t.dev.jobs = s.dev.jobs) := by
  have hpf := failPosted_frame h s.dev
  have hhop := failPosted_hop h s.dev
  have hpost := failPosted_posted h s.dev
  refine ⟨_, exec_fabricHopFail .., ?_⟩
  simp only [State.on_dev]
  rw [fabricHopFailOp_fails hf h16]
  generalize failPosted h s.dev = d1 at *
  have hseq : d1.seq = s.dev.seq := (congrArg Dev.seq hpf :)
  have hjobs : d1.jobs = s.dev.jobs := (congrArg Dev.jobs hpf :)
  cases hb : bridgeOf h with
  | none =>
    rw [Option.elim_none]
    obtain ⟨hm, hfails⟩ := moved_foldl ((s.dev.hopOf h).replay ++ (s.dev.hopOf h).wait) d1 fun e f => moved_reroute s.variant h e f
    generalize ((s.dev.hopOf h).replay ++ (s.dev.hopOf h).wait).foldl (reroute s.variant h) d1 = e at *
    have hlog : e.log = d1.log := (congrArg Dev.log hm :)
    refine ⟨(hfails h).trans hhop, congrArg s.on ?_, hlog.trans hpost, fun f hhf => ?_, fun _ => ⟨(congrArg Dev.seq hm :).trans hseq,
      (congrArg Dev.jobs hm :).trans hjobs⟩⟩
    · rw [hm, hpf]
    · exact absurd (hb.symm.trans ((bridgeOf_iff h f).mpr hhf)) (Option.some_ne_none f).symm
  | some f =>
    rw [Option.elim_some]
    obtain ⟨hi, hiso, hlost⟩ := isolated_isolateFacet f d1
    generalize isolateFacet f d1 = e at *
    have hhops : e.hops = d1.hops := (congrArg Dev.hops hi :)
    have hlog : e.log = d1.log := (congrArg Dev.log hi :)
    refine ⟨?_, congrArg s.on ?_, hlog.trans hpost, fun f' hhf => ?_, fun hno => ?_⟩
    · rw [Dev.hopOf_of_hops hhops]
      exact hhop
    · rw [hi, hpf]
    · obtain rfl := Option.some.inj (hb.symm.trans ((bridgeOf_iff h f').mpr hhf))
      exact ⟨by rw [hiso, hseq], hhops.trans (congrArg Dev.hops hpf :), hlost⟩
    · rcases (bridgeOf_iff h f).mp hb with hh | hh
      · exact absurd hh (hno f).1
      · exact absurd hh (hno f).2

/-! ### Stalls and resets -/

theorem fabric_stalls {s : State} {h : Hop} {waited : Nat} (hw : waitsFor s.variant s.dev h = true) (hn : s.dev.num 0x20B0 2 1000 < waited) :
    ∃ t, exec (.fabricStall h waited) s = .next t ∧ t = s.on { s.dev with log := t.dev.log, marks := t.dev.marks } ∧
      t.dev.marked (hopHub h) limFabricStall (hopKey h) = true ∧
      (if s.dev.marked (hopHub h) limFabricStall (hopKey h) then t = s
       else Posted s.dev t.dev evFabricStall (hopHub h) (hopUnit h) [(4, hopKey h)]) := by
  have heq : fabricStallOp s.variant h waited s.dev =
      s.dev.postOnce limFabricStall (hopKey h) evFabricStall (hopHub h) (hopUnit h) [(4, hopKey h)] := by
    unfold fabricStallOp
    rw [if_pos (by rw [hw, decide_eq_true hn]; rfl)]
  refine ⟨_, exec_fabricStall .., ?_⟩
  rw [heq, Dev.postOnce]
  cases hm : s.dev.marked (hopHub h) limFabricStall (hopKey h) with
  | true => exact ⟨rfl, hm, rfl⟩
  | false =>
    refine ⟨rfl, ?_, (s.dev.mark (hopHub h) limFabricStall (hopKey h)).posted_post ..⟩
    exact List.contains_iff_mem.mpr (List.mem_append_right _ List.mem_cons_self)

theorem hopEnd_resets {s : State} {h : Hop} (receiver : Bool) (hp : hopPresent s.variant h = true) :
    ∃ t, exec (.hopEndReset h receiver) s = .next t ∧ t = s.on { s.dev with hops := t.dev.hops } ∧
      (∀ k, k ≠ h → t.dev.hopOf k = s.dev.hopOf k) ∧ (t.dev.hopOf h).credits = [0, 0, 0, 0] ∧ (t.dev.hopOf h).replay = [] ∧
      (t.dev.hopOf h).awaiting = true ∧ (receiver = true → (t.dev.hopOf h).slots = []) ∧
      (receiver = false → (t.dev.hopOf h).wait = [] ∧ (t.dev.hopOf h).slots = (s.dev.hopOf h).slots) := by
  have hh (k : Hop) := s.dev.hopOf_setHop (x := { s.dev.hopOf h with
    credits := [0, 0, 0, 0], replay := [], asked := false, again := 0, succ := 0, awaiting := true,
    slots := if receiver then [] else (s.dev.hopOf h).slots, stalled := if receiver then [] else (s.dev.hopOf h).stalled,
    wait := if receiver then (s.dev.hopOf h).wait else [] }) (s.dev.hopOf_hop h) k
  have hsame := (hh h).trans (if_pos rfl)
  refine ⟨_, exec_hopEndReset .., ?_⟩
  rw [if_pos hp]
  refine ⟨rfl, fun k hk => (hh k).trans (if_neg hk), (congrArg HopState.credits hsame :), (congrArg HopState.replay hsame :),
    (congrArg HopState.awaiting hsame :), fun hr => (congrArg HopState.slots hsame :).trans (if_pos hr), fun hr => ⟨?_, ?_⟩⟩
  · exact (congrArg HopState.wait hsame :).trans (if_neg (by rw [hr]; exact Bool.false_ne_true))
  · exact (congrArg HopState.slots hsame :).trans (if_neg (by rw [hr]; exact Bool.false_ne_true))

/-- Settles O34: a frame leaves its slot to its unit, to the next hop or as its copies, a credit comes back to its hop, and a hop that fails
hands on what it holds. -/
theorem creditsReturnAndHopsFail : Obligations.CreditsReturnAndHopsFail := by
  unfold Obligations.CreditsReturnAndHopsFail
  refine ⟨⟨fun s h hr => ⟨fun cls g ha hg hc hl => ⟨fun hn hu => creditReturn_delivers hr ha hg hc hl hn hu, fun o hn hd hne =>
    ⟨fun ht hi => ?_, fun ht hi => creditReturn_moves hr ha hg hc hn hd hne ht hi, fun ht hst => creditReturn_stalls hr ha hg hc hn hd ht hst⟩⟩,
    fun cls ha hu hw => creditReturn_advertises cls hr ha hu hw⟩,
    fun s unit room u hu hp ho h16 h256 hm => readRequest_asks hu hp ho h16 h256 hm⟩,
    fun s h cls g hr hg hc ht hl hi => multicast_forwards hr hg hc ht hl hi, fun s h hf h16 => hop_fails hf h16,
    fun s h waited hw hn => fabric_stalls hw hn, fun s h receiver hp => hopEnd_resets receiver hp⟩
  rw [exec_creditReturn, creditReturnOp_moves hr ha hg hc hn, moveOn_held hd ht hi, State.on_self]

end Sys2Proof.Machine

/-!
PROOFS for the audit of a neuron (R136, R137): a placement beyond the module's macros counts an audit under the entry of a widened band.
-/
namespace Sys2Proof.Machine

open Sys2Proof

theorem exec_auditServe (s : State) (tile neuron : Nat) : exec (.auditServe tile neuron) s = .next (s.on (auditServeOp tile neuron s.dev)) := rfl

/-- A matrix placed on a macro of facet 1092, which no module has. -/
def strayMatrix : Matrix :=
  { id := 1, rows := 32, cols := 100, packing := .int8, source := 0, group := 1, place := [3354624], outliers := [], imgAlloc := 0, imgAddr := 0 }

/-- The descriptor of the predictor's codes. -/
def codesDesc : Desc :=
  { handle := 2, port := 0, alloc := 3, base := 0, fmt := 0, nd := 0, form := 0, use := 0, kdim := 0, ken := false, perm := [], idim := 0,
    ien := false, idx := 0, ocp := false, dims := [] }

/-- A tile of that matrix that audits neuron 5 of vector 0, whose gate value is a NaN. -/
def auditTile : Tile :=
  { id := 1, job := 1, issuer := 0, pc := 0, ctr := 0, q := 0, gi := 0, gj := 0,
    inst := { func := 0, gen := 0, mode := 0, shape := 0, phase := 0, strict := false, trk := 0, cmp := 0, op := [0, 0, 1], bnd := [],
              pblk := 0, rowfn := 0, fuse := 0 },
    prm := { hV := 2, orgA := [] }, b0 := 0, b1 := 100, b2 := 0, stage := .issued, wedges := [], engine := none, guard := 0, band := 0, floor := 0,
    fail := none, smiss := false, parts := [], fed := [], reduced := [], outs := [(outKey 2 0 5, 0x7FC00000)], results := [], writes := [],
    acks := [], codes := [], drawn := [5], halo := [], haloN := [], haloRead := [], haloLost := false, items := 0 }

/-- The issue of that audit: with it, its misses pass the limit, and the band of hub 0 is widened. -/
def auditIssue : PredIssue :=
  { id := 9, wedge := 0, phase := 0, band := 2, issuer := 0, radr := 0, alloc := 3, base := 0, org := [], gi := 0, gj := 0, tau := 0, arate := 0,
    missk := 0, limit := 7, nrun := 0, nact := 0, namb := 0, ninact := 4, naud := 1, nmiss := 10, nunsv := 0,
    drawn := [auditTile.neuronKey 5], committed := true }

/-- The job of that tile. -/
def auditJob : Job :=
  { id := 1, prog := 0, cmd := none, port := 0, stage := .running, xfers := [], params := [], descs := [codesDesc], slotAlloc := 0, slotOff := 0,
    slots := [], epoch := 0, fail := none, halted := false, smiss := false, dups := [], iss := [] }

/-- The module with main power on and that tile, whose audit is the last of its issue. -/
def auditDev : Dev :=
  { Dev.reset with
    seq := { Seq.reset with phase := .up }, tiles := [auditTile], mats := [strayMatrix], issues := [auditIssue], jobs := [auditJob] }

/-- Served there, the audit is counted in OD 0x2069 under the facet, and the widened band in OD 0x206D under hub 0: one counter. -/
theorem auditServe_counts_twice :
    counterOf (auditServeOp 1 5 auditDev) 0x2069 1093 = 2 ∧ counterOf auditDev 0x2069 1093 = 0 := by decide +kernel

theorem auditDev_runs : domRuns auditDev (domWedge (wedgeOfMacro (strayMatrix.placed 0 (5 % 2 ^ 32 / unitsOf strayMatrix.packing)))) = true := by
  decide +kernel

theorem auditDev_facet : ssFacet (facetOfWedge (wedgeOfMacro (strayMatrix.placed 0 (5 % 2 ^ 32 / unitsOf strayMatrix.packing)))) = 1093 := by
  decide +kernel

/-- Refutes O25: nothing in its hypotheses keeps the facet of a matrix's placement below 1,024, where OD 0x2069 of the facet and OD 0x206D of
a hub have one key. -/
theorem not_finalAddersReduceAndAudit : ¬Obligations.FinalAddersReduceAndAudit := by
  unfold Obligations.FinalAddersReduceAndAudit
  intro h
  obtain ⟨t, y, hex, -, -, -, hcnt, -⟩ := h.2 { variant := .oc40a, dev := auditDev, pending := [] } 1 5 auditTile 0x7FC00000 strayMatrix
    rfl List.mem_cons_self rfl rfl auditDev_runs fun _ _ => rfl
  rw [auditDev_facet] at hcnt
  rw [exec_auditServe] at hex
  obtain rfl := Host.Outcome.next.inj hex
  rw [State.on_dev] at hcnt
  obtain ⟨htwo, hzero⟩ := auditServe_counts_twice
  exact absurd (htwo.symm.trans (hcnt.trans (congrArg (· + 1) hzero))) (by decide)

end Sys2Proof.Machine

/-!
PROOFS for dot steps, the merge unit and the end of a stream tile (R113 to R115, R126, R146, R154, R160, R162, R169 to R173, R413, R419).
-/
namespace Sys2Proof.Machine

open Sys2Proof

theorem exec_laneStep (s : State) (e n : Nat) (w : LaneWork) : exec (.laneStep e n w) s = .next (s.on (laneStepOp s.variant e n w s.dev)) := rfl

theorem exec_softmaxMerge (s : State) (e : Nat) : exec (.softmaxMerge e) s = .next (s.on (softmaxMergeOp e s.dev)) := rfl

theorem exec_topkMerge (s : State) (e : Nat) : exec (.topkMerge e) s = .next (s.on (topkMergeOp e s.dev)) := rfl

theorem exec_streamTileComplete (s : State) (e tile : Nat) :
    exec (.streamTileComplete e tile) s = .next (s.on (streamTileCompleteOp e tile s.dev)) := rfl

/-! ### Dot steps -/

/-- A lane that works on an item of an issued tile, in the ring and with nothing to send. -/
structure Working (d : Dev) (e n : Nat) (i : Item) (x : Tile) : Prop where
  run : (d.lane e n).run = some i
  tile : d.tileOf i.tile = some x
  ring : (d.lane e n).inRing = true
  out : (d.lane e n).out = []
  stage : x.stage = .issued

theorem laneStepOp_eq {v : Variant} {d : Dev} {e n : Nat} {i : Item} {x : Tile} (h : Working d e n i x) (w : LaneWork) :
    laneStepOp v e n w d = match w with
      | .dot row col => laneDot x i.key e n row col (d.lane e n) d
      | .candidate row index => laneCandidate x i.key e n row index (d.lane e n) d
      | .attend row => laneAttend v x i.key e n row (d.lane e n) d
      | .rowfn order => laneRowfn x i.key e n order (d.lane e n) d
      | .kvAppend tensor => laneKv v x i.key e n tensor (d.lane e n) d
      | .move => laneMove x i.key e n (d.lane e n) d := by
  have hbind : (d.lane e n).run.bind (fun i => (d.tileOf i.tile).map (fun t => (i, t))) = some (i, x) := by
    rw [h.run, Option.bind_some, h.tile]
    rfl
  unfold laneStepOp
  dsimp only
  rw [hbind]
  dsimp only
  refine (if_neg ?_).trans ?_
  · rw [h.ring, h.out, h.stage]
    simp
  · cases w <;> rfl

/-- The counters of a dot step beyond its first. -/
def countDot (x : Tile) (st : DotStep) (two4 : Bool) (ss cost : Nat) (d : Dev) : Dev :=
  let d2 := if st.empty then d.count 0x2050 ss 1 else d
  let d3 := if x.inst.cmp ≠ 0 then d2.count 0x2051 ss cost else d2
  if two4 then d3.count 0x2057 ss cost else d3

/-- Only counters are other than before; those of OD 0x2070 and OD 0x2050 under `ss` rose as given. -/
structure DotCounted (ss n m : Nat) (d e : Dev) : Prop where
  frame : e = { d with ctr := e.ctr }
  steps : counterOf e 0x2070 ss = counterOf d 0x2070 ss + n
  empties : counterOf e 0x2050 ss = counterOf d 0x2050 ss + m

theorem DotCounted.trans {ss n m n' m' : Nat} {d e f : Dev} (h : DotCounted ss n m d e) (h' : DotCounted ss n' m' e f) :
    DotCounted ss (n + n') (m + m') d f :=
  ⟨by rw [h'.frame, h.frame], by rw [h'.steps, h.steps, Nat.add_assoc], by rw [h'.empties, h.empties, Nat.add_assoc]⟩

theorem dotCounted_other {idx : Nat} (h : 0x2070 ≠ idx) (h' : 0x2050 ≠ idx) (ss n : Nat) (c : Prop) [Decidable c] (d : Dev) :
    DotCounted ss 0 0 d (if c then d.count idx ss n else d) := by
  split
  · exact ⟨rfl, counterOf_count_entry d h ss n, counterOf_count_entry d h' ss n⟩
  · exact ⟨rfl, rfl, rfl⟩

theorem dotCounted_empty (ss : Nat) (b : Bool) (d : Dev) : DotCounted ss 0 (if b then 1 else 0) d (if b then d.count 0x2050 ss 1 else d) := by
  cases b with
  | false => exact ⟨rfl, rfl, rfl⟩
  | true => exact ⟨rfl, counterOf_count_entry d (by decide) ss 1, counterOf_counted (d.counted_count 0x2050 ss 1)⟩

theorem dotCounted_steps (ss n : Nat) (d : Dev) : DotCounted ss n 0 d (d.count 0x2070 ss n) :=
  ⟨rfl, counterOf_counted (d.counted_count 0x2070 ss n), counterOf_count_entry d (by decide) ss n⟩

theorem dotCounted_countDot (x : Tile) (st : DotStep) (two4 : Bool) (ss cost : Nat) (d : Dev) :
    DotCounted ss cost (if st.empty then 1 else 0) d (countDot x st two4 ss cost (d.count 0x2070 ss cost)) := by
  have h := (((dotCounted_steps ss cost d).trans (dotCounted_empty ss st.empty _)).trans
    (dotCounted_other (by decide : 0x2070 ≠ 0x2051) (by decide) ss cost (x.inst.cmp ≠ 0) _)).trans
    (dotCounted_other (by decide : 0x2070 ≠ 0x2057) (by decide) ss cost (two4 = true) _)
  simp only [Nat.add_zero, Nat.zero_add] at h
  exact h

/-- The accumulator of an output after a step. -/
def dotAcc (x : Tile) (l : Lane) (row key col : Nat) (st : DotStep) : W32 :=
  if st.issued then stepSum x.inst.mode (accOf x l row key col) st.pairs else accOf x l row key col

/-- A lane after a step, before the elements that no output needs again are dropped. -/
def dotLane (x : Tile) (l : Lane) (row key col : Nat) (st : DotStep) : Lane :=
  setAcc x row key col (dotAcc x l row key col st) { l with prog := tset l.prog (progKey row key col) st.next }

/-- A step that issues pays for itself and draws; one that does not, does neither. -/
def dotPaid (x : Tile) (e cost : Nat) (d : Dev) : Dev :=
  draw (domEngine e) (cost * lanePj x.inst.mode) (debit (domEngine e) (laneEnergy d (e / 8) x.inst.phase) cost d)

theorem laneDot_eq {x : Tile} {key e n row col : Nat} {d : Dev} {st : DotStep} (hg : isGridFn x.inst.func = true) (hr : row < tileRows x)
    (hc : col ∈ itemCols x key) (hp : tget 0 (d.lane e n).prog (progKey row key col) < redLen x)
    (hs : dotStep d x (d.lane e n) row col (tget 0 (d.lane e n).prog (progKey row key col)) = some st)
    (hm : mayStep d (domEngine e) (laneEnergy d (e / 8) x.inst.phase) (if st.issued then 1 else 0) = true) :
    laneDot x key e n row col (d.lane e n) d =
      putGridLane x key e n (dropUsed x key (dotLane x (d.lane e n) row key col st))
        (countDot x st (any24 d x) (ssEngine e) (if st.issued then 1 else 0)
          ((dotPaid x e (if st.issued then 1 else 0) d).count 0x2070 (ssEngine e) (if st.issued then 1 else 0))) := by
  have hno : ¬((!isGridFn x.inst.func) = true ∨ row ≥ tileRows x ∨ (itemCols x key).contains col = false ∨
      tget 0 (d.lane e n).prog (progKey row key col) ≥ redLen x) := by
    rw [hg, List.contains_iff_mem.mpr hc]
    simp only [Bool.not_true, Bool.false_eq_true, false_or, not_or, Nat.not_le]
    exact ⟨hr, by simp, hp⟩
  unfold laneDot
  dsimp only
  rw [if_neg hno, hs]
  dsimp only
  rw [if_neg (by rw [hm]; decide)]
  rfl

theorem dotPaid_frame (x : Tile) (e cost : Nat) (d : Dev) : dotPaid x e cost d = { d with pow := (dotPaid x e cost d).pow } := by
  have hdraw (k : Nat) (pj : Rat) (d : Dev) : draw k pj d = { d with pow := (draw k pj d).pow } := by
    unfold draw
    split <;> rfl
  have hdebit (k : Nat) (en : Rat) (c : Nat) (d : Dev) : debit k en c d = { d with pow := (debit k en c d).pow } := by
    unfold debit
    split <;> rfl
  unfold dotPaid
  rw [hdraw, hdebit]

theorem dotPaid_none (x : Tile) (e : Nat) (d : Dev) : dotPaid x e 0 d = d := by
  unfold dotPaid draw debit
  simp

theorem dotPaid_one (x : Tile) (e : Nat) (d : Dev) :
    Paid d (dotPaid x e 1 d) (domEngine e) (laneEnergy d (e / 8) x.inst.phase) 1 (lanePj x.inst.mode) := by
  unfold dotPaid
  rw [Nat.cast_one, one_mul]
  exact paid_draw_debit d _ _ one_ne_zero _

theorem setAcc_fields (x : Tile) (row key col : Nat) (a : W32) (l : Lane) :
    (setAcc x row key col a l).run = l.run ∧ (setAcc x row key col a l).prog = l.prog := by
  unfold setAcc
  split <;> exact ⟨rfl, rfl⟩

theorem accOf_setAcc {x : Tile} {l : Lane} (h : x.inst.func = fLATT ∨ ∃ c ∈ l.ctxs, c.tile = x.id) (row key col : Nat) (a : W32) :
    accOf x (setAcc x row key col a l) row key col = a := by
  unfold accOf setAcc
  by_cases hl : x.inst.func = fLATT
  · rw [if_pos hl, if_pos hl]
    exact tget_tset_same 0 _ _ _
  · rw [if_neg hl, if_neg hl]
    obtain ⟨c, hc, hct⟩ := h.resolve_left hl
    obtain ⟨c0, hc0⟩ := Option.isSome_iff_exists.mp
      ((List.find?_isSome (p := fun c : Ctx => decide (c.tile = x.id))).mpr ⟨c, hc, decide_eq_true hct⟩)
    have hcomp : (fun c : Ctx => decide (c.tile = x.id)) ∘
        (fun c : Ctx => if c.tile = x.id then { c with acc := tset c.acc (accKey x row col) a } else c) = fun c : Ctx => decide (c.tile = x.id) := by
      funext c
      rw [Function.comp_apply]
      split <;> rfl
    have hfind : (l.ctxs.map fun c => if c.tile = x.id then { c with acc := tset c.acc (accKey x row col) a } else c).find?
        (fun c => decide (c.tile = x.id)) = some { c0 with acc := tset c0.acc (accKey x row col) a } := by
      rw [List.find?_map, hcomp, hc0, Option.map_some, if_pos (of_decide_eq_true (List.find?_some (p := fun c : Ctx => decide (c.tile = x.id)) hc0))]
    unfold ctxOf modCtx
    rw [hfind, Option.getD_some]
    exact tget_tset_same 0 _ _ _

/-- What a lane that ends its item, or goes on with it, leaves. -/
theorem putGridLane_spec {x : Tile} {key e n : Nat} {l : Lane} {d0 d : Dev}
    (hx : d0.tileOf x.id = some x) (hd : d = { d0 with pow := d.pow, ctr := d.ctr }) :
    putGridLane x key e n l d = { d with engines := (putGridLane x key e n l d).engines, tiles := (putGridLane x key e n l d).tiles } ∧
    (∀ k, k ≠ n → (putGridLane x key e n l d).lane e k = d0.lane e k) ∧
    (if gridItemOver x key l then ((putGridLane x key e n l d).lane e n).run = none ∧
        (putGridLane x key e n l d).tileOf x.id = some { x with items := x.items - 1 }
     else (putGridLane x key e n l d).lane e n = l ∧ (putGridLane x key e n l d).tiles = d0.tiles) := by
  have hlane (k : Nat) : d.lane e k = d0.lane e k := by rw [hd]; rfl
  have htiles : d.tiles = d0.tiles := (congrArg Dev.tiles hd :)
  unfold putGridLane
  by_cases ho : gridItemOver x key l = true
  · rw [if_pos ho, if_pos ho]
    have hsame := d.lane_setLane_same e n { l with run := none, inA := [], inB := [], scores := [], prog := [] }
    refine ⟨rfl, fun k hk => (d.lane_setLane_other _ fun h => hk h.2).trans (hlane k), (congrArg Lane.run hsame :), ?_⟩
    refine tileOf_modTile_same (f := fun t => { t with items := t.items - 1 }) ?_ fun _ => rfl
    rw [← hx]
    exact congrArg (fun ts : List Tile => ts.find? fun y => decide (y.id = x.id)) htiles
  · rw [if_neg ho, if_neg ho]
    exact ⟨rfl, fun k hk => (d.lane_setLane_other _ fun h => hk h.2).trans (hlane k), d.lane_setLane_same e n l, htiles⟩

theorem laneStep_dots {s : State} {e n row col : Nat} {i : Item} {x : Tile} {st : DotStep} (hw : Working s.dev e n i x)
    (hg : isGridFn x.inst.func = true) (hr : row < tileRows x) (hc : col ∈ itemCols x i.key)
    (hp : tget 0 (s.dev.lane e n).prog (progKey row i.key col) < redLen x)
    (hs : dotStep s.dev x (s.dev.lane e n) row col (tget 0 (s.dev.lane e n).prog (progKey row i.key col)) = some st)
    (hctx : x.inst.func = fLATT ∨ ∃ c ∈ (s.dev.lane e n).ctxs, c.tile = x.id)
    (hm : mayStep s.dev (domEngine e) (laneEnergy s.dev (e / 8) x.inst.phase) (if st.issued then 1 else 0) = true) :
    ∃ t, exec (.laneStep e n (.dot row col)) s = .next t ∧
      t = s.on { s.dev with engines := t.dev.engines, tiles := t.dev.tiles, pow := t.dev.pow, ctr := t.dev.ctr } ∧
      (∀ k', k' ≠ n → t.dev.lane e k' = s.dev.lane e k') ∧
      (if st.issued then Paid s.dev t.dev (domEngine e) (laneEnergy s.dev (e / 8) x.inst.phase) 1 (lanePj x.inst.mode)
       else t.dev.pow = s.dev.pow) ∧
      counterOf t.dev 0x2070 (ssEngine e) = counterOf s.dev 0x2070 (ssEngine e) + (if st.issued then 1 else 0) ∧
      counterOf t.dev 0x2050 (ssEngine e) = counterOf s.dev 0x2050 (ssEngine e) + (if st.empty then 1 else 0) ∧
      (if gridItemOver x i.key (dotLane x (s.dev.lane e n) row i.key col st) then (t.dev.lane e n).run = none ∧
          t.dev.tileOf i.tile = some { x with items := x.items - 1 }
       else (t.dev.lane e n).run = some i ∧ t.dev.tiles = s.dev.tiles ∧
          tget 0 (t.dev.lane e n).prog (progKey row i.key col) = st.next ∧
          accOf x (t.dev.lane e n) row i.key col = dotAcc x (s.dev.lane e n) row i.key col st) := by
  have hid : x.id = i.tile := tileOf_id hw.tile
  have heq : laneStepOp s.variant e n (.dot row col) s.dev = _ := (laneStepOp_eq hw _).trans (laneDot_eq hg hr hc hp hs hm)
  have hpf := dotPaid_frame x e (if st.issued then 1 else 0) s.dev
  obtain ⟨hcf, hsteps, hempties⟩ := dotCounted_countDot x st (any24 s.dev x) (ssEngine e) (if st.issued then 1 else 0)
    (dotPaid x e (if st.issued then 1 else 0) s.dev)
  have hpaid : (if st.issued then Paid s.dev (dotPaid x e (if st.issued then 1 else 0) s.dev) (domEngine e)
      (laneEnergy s.dev (e / 8) x.inst.phase) 1 (lanePj x.inst.mode)
      else (dotPaid x e (if st.issued then 1 else 0) s.dev).pow = s.dev.pow) := by
    split
    · exact dotPaid_one x e s.dev
    · rw [dotPaid_none]
  generalize dotPaid x e (if st.issued then 1 else 0) s.dev = d1 at heq hpf hcf hsteps hempties hpaid
  generalize countDot x st (any24 s.dev x) (ssEngine e) (if st.issued then 1 else 0)
    (d1.count 0x2070 (ssEngine e) (if st.issued then 1 else 0)) = d2 at heq hcf hsteps hempties
  obtain ⟨hrunL, hprogL⟩ := setAcc_fields x row i.key col (dotAcc x (s.dev.lane e n) row i.key col st)
    { s.dev.lane e n with prog := tset (s.dev.lane e n).prog (progKey row i.key col) st.next }
  have hacc := accOf_setAcc (l := { s.dev.lane e n with prog := tset (s.dev.lane e n).prog (progKey row i.key col) st.next }) hctx row i.key col
    (dotAcc x (s.dev.lane e n) row i.key col st)
  obtain ⟨hf, hother, hend⟩ := putGridLane_spec (x := x) (key := i.key) (e := e) (n := n) (d0 := s.dev) (d := d2)
    (l := dropUsed x i.key (dotLane x (s.dev.lane e n) row i.key col st)) (by rw [hid]; exact hw.tile)
    (by rw [hcf, hpf])
  refine ⟨_, exec_laneStep .., ?_⟩
  simp only [State.on_dev]
  rw [heq]
  generalize putGridLane x i.key e n (dropUsed x i.key (dotLane x (s.dev.lane e n) row i.key col st)) d2 = t at hf hother hend ⊢
  have hctr : t.ctr = d2.ctr := (congrArg Dev.ctr hf :)
  have hpow : t.pow = d1.pow := (congrArg Dev.pow hf :).trans (congrArg Dev.pow hcf :)
  have hc0 : d1.ctr = s.dev.ctr := (congrArg Dev.ctr hpf :)
  refine ⟨congrArg s.on (by rw [hf, hcf, hpf]), hother, ?_, ?_, ?_, ?_⟩
  · split
    next hi =>
      rw [if_pos hi] at hpaid
      unfold Paid Dev.dom at hpaid ⊢
      rw [hpow]
      exact hpaid
    next hi =>
      rw [if_neg hi] at hpaid
      rw [hpow, hpaid]
  · rw [counterOf, hctr]
    refine hsteps.trans ?_
    rw [counterOf, hc0]
    rfl
  · rw [counterOf, hctr]
    refine hempties.trans ?_
    rw [counterOf, hc0]
    rfl
  · change (if gridItemOver x i.key (dotLane x (s.dev.lane e n) row i.key col st) = true then _ else _) at hend
    by_cases ho : gridItemOver x i.key (dotLane x (s.dev.lane e n) row i.key col st) = true
    · rw [if_pos ho] at hend ⊢
      rw [← hid]
      exact hend
    · rw [if_neg ho] at hend ⊢
      obtain ⟨hlane, htiles⟩ := hend
      rw [hlane]
      refine ⟨hrunL.trans hw.run, htiles, ?_, hacc⟩
      exact (congrArg (fun p => tget 0 p (progKey row i.key col)) hprogL).trans (tget_tset_same 0 _ _ _)

/-! ### The merge unit -/

theorem softmaxMergeOp_eq {d : Dev} {e dd : Nat} {u : AccUpd} {rest : List AccUpd} (hr : domRuns d (domEngine e) = true)
    (hu : (d.engine e).merge = u :: rest) (ho : u.op = .softmax dd) (hw : earlierWaits (d.engine e) u = false) : softmaxMergeOp e d =
      (({ d with free := d.free + 2 } : Dev).setEngine e { d.engine e with
        acc := putWords (d.engine e).acc u.off (recWords (mergeRec d.free (recOf (accWords (d.engine e).acc u.off (dd + 2))) (recOf u.words))),
        merge := rest }).count 0x2074 (ssEngine e) 1 := by
  unfold softmaxMergeOp
  dsimp only
  rw [hu]
  dsimp only
  rw [ho]
  dsimp only
  rw [if_neg (by rw [hr, hw]; decide)]

theorem topkMergeOp_eq {d : Dev} {e : Nat} {u : AccUpd} {rest : List AccUpd} (hr : domRuns d (domEngine e) = true)
    (hu : (d.engine e).merge = u :: rest) (ho : u.op = .topk) (hw : earlierWaits (d.engine e) u = false) : topkMergeOp e d =
      (d.setEngine e { d.engine e with
        acc := putRegion (d.engine e).acc u.off (regionList (d.engine e).acc u.off).1
          (mergeList (regionList (d.engine e).acc u.off).1 (regionList (d.engine e).acc u.off).2 (candsOf u.words)),
        merge := rest }).count 0x2074 (ssEngine e) 1 := by
  unfold topkMergeOp
  dsimp only
  rw [hu]
  dsimp only
  rw [if_neg (by rw [hr, hw, ho]; decide)]

theorem toLe_leNat (b : Bytes) : toLe b.length (leNat b) = b := by
  induction b with
  | nil => rfl
  | cons x b ih =>
    have hx : x.toNat < 256 := x.isLt
    have hmod : BitVec.ofNat 8 (x.toNat + 256 * leNat b) = x :=
      BitVec.eq_of_toNat_eq (by rw [BitVec.toNat_ofNat]; omega)
    have hdiv : (x.toNat + 256 * leNat b) / 256 = leNat b := by omega
    rw [List.length_cons, toLe, leNat, hmod, hdiv, ih]

/-- The bytes of an accumulator word. -/
theorem toLe_accWord (m : Memory) (o : Nat) : toLe 4 (accWord m o).toNat = mread m o 4 := by
  have hlen : (mread m o 4).length = 4 := mread_length m 4 o
  have hlt : leNat (mread m o 4) < 2 ^ 32 := lt_of_lt_of_eq (leNat_lt _) (by rw [hlen]; norm_num)
  have h := toLe_leNat (mread m o 4)
  rw [hlen] at h
  rw [accWord, BitVec.toNat_ofNat, Nat.mod_eq_of_lt hlt, h]

theorem mget_mwrite_mread (m : Memory) (n : Nat) : ∀ o b, mget (mwrite m o (mread m o n)) b = mget m b := by
  intro o b
  by_cases hb : o ≤ b ∧ b < o + n
  · obtain ⟨i, rfl⟩ := Nat.exists_eq_add_of_le hb.1
    have hi : i < (mread m o n).length := by rw [mread_length]; omega
    rw [mget_mwrite_at _ m o i hi]
    have hget : ∀ (n o i : Nat) (h : i < (mread m o n).length), (mread m o n)[i] = mget m (o + i) := by
      intro n
      induction n with
      | zero => intro o i h; exact absurd h (Nat.not_lt_zero i)
      | succ n ih =>
        intro o i h
        cases i with
        | zero => rfl
        | succ i =>
          simp only [mread, List.getElem_cons_succ]
          rw [ih, Nat.add_assoc, Nat.add_comm 1]
    exact hget n o i hi
  · exact mget_mwrite_other _ m o b (by rw [mread_length]; omega)

theorem mread_add (m : Memory) (a b : Nat) : ∀ o, mread m o (a + b) = mread m o a ++ mread m (o + a) b := by
  induction a with
  | zero => intro o; rw [Nat.zero_add]; rfl
  | succ a ih =>
    intro o
    rw [Nat.succ_add, mread, ih, mread, List.cons_append, Nat.add_assoc, Nat.add_comm 1]

/-- Words read from an accumulator are the bytes that stand there. -/
theorem wordBytes_accWords (m : Memory) (o n : Nat) : ((accWords m o n).map fun w => toLe 4 w.toNat).flatten = mread m o (4 * n) := by
  induction n with
  | zero => rfl
  | succ n ih =>
    rw [accWords, List.range_succ, List.map_append, List.map_append, List.flatten_append, Nat.mul_succ, mread_add, ← ih, accWords]
    simp only [List.map_singleton, List.flatten_singleton, toLe_accWord]

theorem recWords_recOf {ws : List W32} (h : 2 ≤ ws.length) : recWords (recOf ws) = ws := by
  match ws, h with
  | a :: b :: ws, _ => rfl

theorem length_accWords (m : Memory) (o n : Nat) : (accWords m o n).length = n := by
  rw [accWords, List.length_map, List.length_range]

theorem mergeRec_negInf (n : Nat) (a : SmRec) {b : SmRec} (h : b.m = f32negInf) : mergeRec n a b = a := if_pos h

theorem softmax_merges {s : State} {e dd : Nat} {u : AccUpd} {rest : List AccUpd} (hr : domRuns s.dev (domEngine e) = true)
    (hu : (s.dev.engine e).merge = u :: rest) (ho : u.op = .softmax dd) (hw : earlierWaits (s.dev.engine e) u = false) :
    ∃ t, exec (.softmaxMerge e) s = .next t ∧
      t = s.on { s.dev with engines := t.dev.engines, ctr := t.dev.ctr, free := s.dev.free + 2 } ∧
      (t.dev.engine e).merge = rest ∧ Counted s.dev t.dev 0x2074 (ssEngine e) 1 ∧
      (t.dev.engine e).acc = putWords (s.dev.engine e).acc u.off
        (recWords (mergeRec s.dev.free (recOf (accWords (s.dev.engine e).acc u.off (dd + 2))) (recOf u.words))) ∧
      ((recOf u.words).m = f32negInf → ∀ b, mget (t.dev.engine e).acc b = mget (s.dev.engine e).acc b) := by
  refine ⟨_, exec_softmaxMerge s e, ?_⟩
  rw [softmaxMergeOp_eq hr hu ho hw]
  have hsame := ({ s.dev with free := s.dev.free + 2 } : Dev).engine_setEngine_same e { s.dev.engine e with
    acc := putWords (s.dev.engine e).acc u.off
      (recWords (mergeRec s.dev.free (recOf (accWords (s.dev.engine e).acc u.off (dd + 2))) (recOf u.words))), merge := rest }
  have hacc := congrArg Engine.acc hsame
  refine ⟨rfl, (congrArg Engine.merge hsame :), counted_count_of rfl _ _ _, hacc, fun hneg b => ?_⟩
  refine (congrArg (fun m => mget m b) hacc).trans ?_
  rw [mergeRec_negInf _ _ hneg, recWords_recOf (by rw [length_accWords]; omega)]
  exact (congrArg (fun bs => mget (mwrite (s.dev.engine e).acc u.off bs) b) (wordBytes_accWords ..)).trans (mget_mwrite_mread ..)

theorem length_offerCand (k : Nat) (l : List (W32 × BitVec 32)) (c : W32 × BitVec 32) : (offerCand k l c).length ≤ k := by
  rw [offerCand, List.length_take]
  exact Nat.min_le_left ..

theorem length_mergeList (k : Nat) (a b : List (W32 × BitVec 32)) : (mergeList k a b).length ≤ max k a.length := by
  unfold mergeList
  induction b generalizing a with
  | nil => exact Nat.le_max_right ..
  | cons c b ih => exact (ih (offerCand k a c)).trans (by have := length_offerCand k a c; omega)

theorem topk_merges {s : State} {e : Nat} {u : AccUpd} {rest : List AccUpd} (hr : domRuns s.dev (domEngine e) = true)
    (hu : (s.dev.engine e).merge = u :: rest) (ho : u.op = .topk) (hw : earlierWaits (s.dev.engine e) u = false) :
    (let r := regionList (s.dev.engine e).acc u.off
     ∃ t, exec (.topkMerge e) s = .next t ∧ t = s.on { s.dev with engines := t.dev.engines, ctr := t.dev.ctr } ∧
      (t.dev.engine e).merge = rest ∧ Counted s.dev t.dev 0x2074 (ssEngine e) 1 ∧
      (t.dev.engine e).acc = putRegion (s.dev.engine e).acc u.off r.1 (mergeList r.1 r.2 (candsOf u.words)) ∧
      (mergeList r.1 r.2 (candsOf u.words)).length ≤ max r.1 r.2.length) := by
  refine ⟨_, exec_topkMerge s e, ?_⟩
  rw [topkMergeOp_eq hr hu ho hw]
  generalize regionList (s.dev.engine e).acc u.off = r
  have hsame := s.dev.engine_setEngine_same e { s.dev.engine e with
    acc := putRegion (s.dev.engine e).acc u.off r.1 (mergeList r.1 r.2 (candsOf u.words)), merge := rest }
  exact ⟨rfl, (congrArg Engine.merge hsame :), counted_count_of rfl _ _ _, (congrArg Engine.acc hsame :), length_mergeList ..⟩

/-! ### The end of a stream tile -/

/-- A tile that gets results and outputs: nothing else of it is other than before. -/
structure ResultsFormed (i : Nat) (d e : Dev) : Prop where
  frame : e = { d with tiles := e.tiles, ctr := e.ctr, free := e.free }
  tile : ∀ x, d.tileOf i = some x → ∃ r o, e.tileOf i = some { x with results := r, outs := o }

theorem resultsFormed_refl (i : Nat) (d : Dev) : ResultsFormed i d d := ⟨rfl, fun x hx => ⟨x.results, x.outs, hx⟩⟩

theorem ResultsFormed.trans {i : Nat} {d e f : Dev} (h : ResultsFormed i d e) (h' : ResultsFormed i e f) : ResultsFormed i d f where
  frame := by rw [h'.frame, h.frame]
  tile x hx := by
    obtain ⟨r, o, hr⟩ := h.tile x hx
    obtain ⟨r', o', hr'⟩ := h'.tile _ hr
    exact ⟨r', o', hr'⟩

theorem resultsFormed_results (i : Nat) (d : Dev) (rs : List PendWrite) :
    ResultsFormed i d (d.modTile i fun x => { x with results := x.results ++ rs }) :=
  ⟨rfl, fun x hx => ⟨x.results ++ rs, x.outs, tileOf_modTile_same (f := fun x => { x with results := x.results ++ rs }) hx fun _ => rfl⟩⟩

theorem resultsFormed_outs (i : Nat) (d : Dev) (f : Tab W32 → Tab W32) :
    ResultsFormed i d (d.modTile i fun x => { x with outs := f x.outs }) :=
  ⟨rfl, fun x hx => ⟨x.results, f x.outs, tileOf_modTile_same (f := fun x => { x with outs := f x.outs }) hx fun _ => rfl⟩⟩

theorem resultsFormed_counts (i : Nat) (d : Dev) (ctr : Tab Nat) (free : Nat) : ResultsFormed i d { d with ctr := ctr, free := free } :=
  ⟨rfl, fun x hx => ⟨x.results, x.outs, hx⟩⟩

theorem resultsFormed_gridRow (t : Tile) (e row : Nat) (d : Dev) : ResultsFormed t.id d (gridRow t e row d) := by
  unfold gridRow
  dsimp only
  split
  · exact resultsFormed_results ..
  · generalize hn : d.free + _ = n
    have hcount (b : Bool) : ResultsFormed t.id d (if b then ({ d with free := n } : Dev).count 0x2076 (ssEngine e) 1 else { d with free := n }) := by
      cases b with
      | false => exact resultsFormed_counts t.id d d.ctr n
      | true => exact resultsFormed_counts t.id d _ n
    split
    · exact (hcount _).trans (resultsFormed_outs ..)
    · exact (hcount _).trans (resultsFormed_results ..)

theorem resultsFormed_windowRow (t : Tile) (e : Nat) (d : Dev) : ResultsFormed t.id d (windowRow t e d) := by
  unfold windowRow
  dsimp only
  split
  · exact resultsFormed_results ..
  split
  · unfold putRow
    dsimp only
    split
    · exact resultsFormed_outs ..
    · exact resultsFormed_results ..
  · exact resultsFormed_results ..

theorem resultsFormed_windowResults (t : Tile) (d : Dev) : ResultsFormed t.id d (windowResults t d) := by
  unfold windowResults
  split
  · exact resultsFormed_refl ..
  next e _ =>
    split
    · exact resultsFormed_refl ..
    split
    · exact List.foldlRecOn (motive := fun d' => ResultsFormed t.id d d') _ _ (resultsFormed_refl ..) fun d' hd' r _ =>
        hd'.trans (resultsFormed_gridRow t e r d')
    · exact resultsFormed_windowRow t e d

theorem windowResults_none {t : Tile} (h : fromWindow t = false) (d : Dev) : windowResults t d = d := by
  unfold windowResults
  split
  · rfl
  · rw [if_pos (by rw [h]; rfl)]

/-- A stream tile that has ended, with or without its forming side. -/
def streamEnded (forming : Bool) (x : Tile) : Tile :=
  { x with reduced := x.reduced ++ [(0, 0)], items := if forming then 1 else 0, stage := if forming then .issued else .formed }

theorem streamTileCompleteOp_eq {d : Dev} {e tile : Nat} {x : Tile} (hr : domRuns d (domEngine e) = true) (hx : d.tileOf tile = some x)
    (hs : x.stage = .issued) (he : x.engine = some e) (hi : x.items = 0) (hp : tilePending d e tile = false)
    (hd : tile ∉ (d.engine e).disp) (h0 : (0, 0) ∉ x.reduced) (h1 : (0, 1) ∈ x.reduced) : streamTileCompleteOp e tile d =
      (if partForms x 0 then windowResults x d else d).modTile tile (streamEnded (partForms x 0)) := by
  have hd' : (d.engine e).disp.contains tile = false := by rwa [← Bool.not_eq_true, List.contains_iff_mem]
  have h0' : x.reduced.contains (0, 0) = false := by rwa [← Bool.not_eq_true, List.contains_iff_mem]
  unfold streamTileCompleteOp
  rw [hx]
  dsimp only
  rw [if_neg]
  · rfl
  · rw [hs, he, hi, hp, hd', h0', List.contains_iff_mem.mpr h1, hr]
    simp

theorem streamTile_completes {s : State} {e tile : Nat} {x : Tile} (hr : domRuns s.dev (domEngine e) = true) (hx : s.dev.tileOf tile = some x)
    (hs : x.stage = .issued) (he : x.engine = some e) (hi : x.items = 0) (hp : tilePending s.dev e tile = false)
    (hd : tile ∉ (s.dev.engine e).disp) (h0 : (0, 0) ∉ x.reduced) (h1 : (0, 1) ∈ x.reduced) :
    ∃ t y, exec (.streamTileComplete e tile) s = .next t ∧
      t = s.on { s.dev with tiles := t.dev.tiles, ctr := t.dev.ctr, free := t.dev.free } ∧ t.dev.tileOf tile = some y ∧
      y.reduced = x.reduced ++ [(0, 0)] ∧
      (y.stage = (if partForms x 0 then .issued else .formed) ∧ y.items = if partForms x 0 then 1 else 0) ∧
      (partForms x 0 = false ∨ fromWindow x = false → y.results = x.results ∧ y.outs = x.outs) := by
  have hid : x.id = tile := tileOf_id hx
  have hform : ResultsFormed tile s.dev (if partForms x 0 then windowResults x s.dev else s.dev) := by
    split
    · exact hid ▸ resultsFormed_windowResults x s.dev
    · exact resultsFormed_refl ..
  have hquiet : partForms x 0 = false ∨ fromWindow x = false → (if partForms x 0 then windowResults x s.dev else s.dev) = s.dev := by
    rintro (h | h)
    · rw [h, if_neg Bool.false_ne_true]
    · rw [windowResults_none h, ite_self]
  have heq := streamTileCompleteOp_eq hr hx hs he hi hp hd h0 h1
  generalize (if partForms x 0 then windowResults x s.dev else s.dev) = d1 at hform hquiet heq
  obtain ⟨r, o, hy⟩ := hform.tile x hx
  have hend := tileOf_modTile_same (f := streamEnded (partForms x 0)) hy fun _ => rfl
  rw [← heq] at hend
  refine ⟨_, _, exec_streamTileComplete .., congrArg s.on ?_, hend, rfl, ⟨rfl, rfl⟩, fun hq => ?_⟩
  · rw [State.on_dev, heq]
    have hf := hform.frame
    rw [hf]
    rfl
  · have hsame := Option.some.inj (hy.symm.trans ((congrArg (fun d => Dev.tileOf d tile) (hquiet hq)).trans hx))
    exact ⟨(congrArg Tile.results hsame :), (congrArg Tile.outs hsame :)⟩

/-- Settles O29: a dot step sets one accumulator and ends the item with its last output, the merge unit merges its oldest, and a tile with
nothing left on its engine is formed or begins its forming side. -/
theorem dotsAccumulateAndEnginesMerge : Obligations.DotsAccumulateAndEnginesMerge := by
  unfold Obligations.DotsAccumulateAndEnginesMerge
  exact ⟨fun s e n row col i x st hrun hx hring hout hst hg hr hc hp hs hctx hm => laneStep_dots ⟨hrun, hx, hring, hout, hst⟩ hg hr hc hp hs hctx hm,
    fun s e hr => ⟨fun u rest dd hu ho hw => softmax_merges hr hu ho hw, fun u rest hu ho hw => topk_merges hr hu ho hw,
      fun tile x hx hs he hi hp hd h0 h1 => streamTile_completes hr hx hs he hi hp hd h0 h1⟩⟩

end Sys2Proof.Machine

/-!
PROOFS for the plane steps of a macro and their re-resolution (R37 to R51, R58, R134, R419).
-/
namespace Sys2Proof.Machine

open Sys2Proof

theorem exec_macroPlaneStep (s : State) (m : Nat) (errs : List (Nat × Nat × Rat)) :
    exec (.macroPlaneStep m errs) s = .next (s.on (macroPlaneStepOp m errs s.dev)) := rfl

theorem exec_reResolutionStep (s : State) (m : Nat) : exec (.reResolutionStep m) s = .next (s.on (reResolutionStepOp m s.dev)) := rfl

/-! ### What a step pays -/

/-- The device after a domain has paid for `n` steps, whose masked units are counted in OD 0x206C. -/
def stepPaid (k : Nat) (energy : Rat) (n : Nat) (pj : Rat) (ss masked : Nat) (d : Dev) : Dev :=
  (draw k pj (debit k energy n d)).count 0x206C ss (n * masked)

theorem draw_frame (k : Nat) (pj : Rat) (d : Dev) : draw k pj d = { d with pow := (draw k pj d).pow } := by
  unfold draw
  split <;> rfl

theorem debit_frame (k : Nat) (energy : Rat) (n : Nat) (d : Dev) : debit k energy n d = { d with pow := (debit k energy n d).pow } := by
  unfold debit
  split <;> rfl

theorem stepPaid_frame (k : Nat) (energy : Rat) (n : Nat) (pj : Rat) (ss masked : Nat) (d : Dev) :
    stepPaid k energy n pj ss masked d =
      { d with pow := (draw k pj (debit k energy n d)).pow, ctr := (stepPaid k energy n pj ss masked d).ctr } := by
  unfold stepPaid
  rw [draw_frame, debit_frame]
  rfl

theorem stepPaid_pow (k : Nat) (energy : Rat) (n : Nat) (pj : Rat) (ss masked : Nat) (d : Dev) :
    (stepPaid k energy n pj ss masked d).pow = (draw k pj (debit k energy n d)).pow := rfl

theorem stepPaid_counter (k : Nat) (energy : Rat) (n : Nat) (pj : Rat) (ss masked : Nat) (d : Dev) :
    counterOf (stepPaid k energy n pj ss masked d) 0x206C ss = counterOf d 0x206C ss + n * masked := by
  refine counterOf_counted (counted_count_of ?_ 0x206C ss (n * masked))
  rw [draw_frame, debit_frame]

theorem stepPaid_counter_other (k : Nat) (energy : Rat) (n : Nat) (pj : Rat) (ss masked : Nat) (d : Dev) {idx : Nat} (h : idx ≠ 0x206C) :
    counterOf (stepPaid k energy n pj ss masked d) idx ss = counterOf d idx ss := by
  refine (counterOf_count_entry _ h ss _).trans ?_
  rw [draw_frame, debit_frame]
  rfl

theorem draw_debit_none (k : Nat) (energy : Rat) (d : Dev) : draw k 0 (debit k energy 0 d) = d := by
  rw [debit, if_pos rfl, draw, if_pos rfl]

theorem paid_of_pow {d d' e : Dev} {k n : Nat} {energy pj : Rat} (h : Paid d d' k energy n pj) (hp : e.pow = d'.pow) : Paid d e k energy n pj := by
  unfold Paid Dev.dom at h ⊢
  rw [hp]
  exact h

/-! ### What a plane changes of its macro and of the counters -/

/-- A device that has paid goes on to one in which the macro has another block: the entry `idx` rose by `n`, the masked units' did not. -/
structure PlaneAdded (m ss idx n : Nat) (d e : Dev) : Prop where
  frame : e = { d with macros := e.macros, ctr := e.ctr, log := e.log, marks := e.marks, free := e.free }
  others : OnlyMacro d e m
  active : (e.mac m).active = (d.mac m).active
  masked : counterOf e 0x206C ss = counterOf d 0x206C ss
  counter : counterOf e idx ss = counterOf d idx ss + n

theorem PlaneAdded.trans {m ss idx n n' : Nat} {d e f : Dev} (h : PlaneAdded m ss idx n d e) (h' : PlaneAdded m ss idx n' e f) :
    PlaneAdded m ss idx (n + n') d f :=
  ⟨by rw [h'.frame, h.frame], fun i hi => (h'.others i hi).trans (h.others i hi), h'.active.trans h.active, h'.masked.trans h.masked,
    by rw [h'.counter, h.counter, Nat.add_assoc]⟩

/-- A change that counts nothing keeps the count. -/
theorem PlaneAdded.keep {m ss idx n : Nat} {d e f : Dev} (h : PlaneAdded m ss idx n d e) (h' : PlaneAdded m ss idx 0 e f) :
    PlaneAdded m ss idx n d f := h.trans h'

theorem planeAdded_count (m ss : Nat) {idx : Nat} (h : 0x206C ≠ idx) (n : Nat) (d : Dev) : PlaneAdded m ss idx n d (d.count idx ss n) :=
  ⟨rfl, fun _ _ => rfl, rfl, counterOf_count_entry d h ss n, counterOf_counted (d.counted_count idx ss n)⟩

theorem planeAdded_count_other (m ss : Nat) {idx i : Nat} (h : 0x206C ≠ i) (h' : idx ≠ i) (n : Nat) (d : Dev) :
    PlaneAdded m ss idx 0 d (d.count i ss n) :=
  ⟨rfl, fun _ _ => rfl, rfl, counterOf_count_entry d h ss n, counterOf_count_entry d h' ss n⟩

theorem planeAdded_modMac (m ss idx : Nat) (f : Macro → Macro) (hf : ∀ y, (f y).active = y.active) (d : Dev) :
    PlaneAdded m ss idx 0 d (d.modMac m f) :=
  ⟨rfl, fun _ hi => d.mac_modMac_other f hi, by rw [Dev.mac_modMac_same, hf], rfl, rfl⟩

theorem planeAdded_countReads (m amb sat : Nat) {ss idx : Nat} (hs : ss = ssFacet (facetOfMacro m)) (h : idx ≠ 0x2024) (h' : idx ≠ 0x2026)
    (d : Dev) : PlaneAdded m ss idx 0 d (countReads m amb sat d) := by
  subst hs
  have hcounts := (planeAdded_count_other m _ (by decide) h amb d).keep
    (planeAdded_count_other m (ssFacet (facetOfMacro m)) (by decide) h' sat (d.count 0x2024 (ssFacet (facetOfMacro m)) amb))
  unfold countReads
  dsimp only
  by_cases h0 : sat = 0
  · rw [if_pos h0]
    exact hcounts
  · rw [if_neg h0]
    refine hcounts.keep ?_
    unfold Dev.postOnce
    split <;> exact ⟨rfl, fun _ _ => rfl, rfl, rfl, rfl⟩

/-! ### The kinds of a plane -/

/-- The macro's block after a plane, at its next pass where all its planes are done. -/
def putPlane (d : Dev) (m : Nat) (b b' : Blk) (y : Macro) : Macro := { y with blk := some (nextPass (lastPass d m b) 3 b') }

theorem planeAdded_putPlane (ss idx : Nat) (d : Dev) (m : Nat) (b b' : Blk) (e : Dev) :
    PlaneAdded m ss idx 0 e (e.modMac m (putPlane d m b b')) := planeAdded_modMac m ss idx (putPlane d m b b') (fun _ => rfl) e

/-- The block after a plane of the rows that it drives, with the reads' errors `delta` and what stays ambiguous. -/
def planeSummed (x : Tile) (k : Bank) (product : Nat) (b : Blk) (amb : List (Nat × Nat)) (delta : Tab Int) : Blk :=
  { b with plane := b.plane + 1, amb := amb
           sums := setPass b.sums b.pass (addPlane x k product b (rowsOn (planeOf b.q b.plane)) delta) }

/-- The device after a blend plane with its reads. -/
def blendDone (m ss : Nat) (x : Tile) (product : Nat) (b : Blk) (r : Reads) (d d1 : Dev) : Dev :=
  let d3 := countReads m r.amb.length r.sat (d1.count 0x2020 ss 1)
  let d4 := ({ d3 with free := d3.free + r.drawn } : Dev).modMac m
    (readWindow (d.num 0x2000 2 64) (readsIn x (d.mac m).active product b.vec) (readPlaces x (d.mac m).active product b.vec r.amb))
  d4.modMac m (putPlane d m b (planeSummed x (d.mac m).active product b r.amb r.delta))

theorem planeAdded_blendDone {m ss : Nat} (hs : ss = ssFacet (facetOfMacro m)) (x : Tile) (product : Nat) (b : Blk) (r : Reads) (d d1 : Dev) :
    PlaneAdded m ss 0x2020 1 d1 (blendDone m ss x product b r d d1) := by
  unfold blendDone
  dsimp only
  have hreads := (planeAdded_count m ss (by decide) 1 d1).keep
    (planeAdded_countReads m r.amb.length r.sat hs (by decide : 0x2020 ≠ 0x2024) (by decide) (d1.count 0x2020 ss 1))
  generalize countReads m r.amb.length r.sat (d1.count 0x2020 ss 1) = d3 at hreads
  have hfree : PlaneAdded m ss 0x2020 0 d3 { d3 with free := d3.free + r.drawn } := ⟨rfl, fun _ _ => rfl, rfl, rfl, rfl⟩
  refine ((hreads.keep hfree).keep (planeAdded_modMac m ss 0x2020 _ (fun y => ?_) _)).keep (planeAdded_putPlane ss 0x2020 d m b _ _)
  unfold readWindow
  dsimp only
  split <;> rfl

theorem blendReads_quiet {d : Dev} {m : Nat} {x : Tile} (h : marksFor d m x.id = []) (b : Blk) (product : Nat) (pl : BitVec 32) :
    blendReads d m x b product pl [] = { delta := [], amb := [], sat := 0, drawn := 0 } := by
  unfold blendReads
  dsimp only
  rw [h]
  rfl

theorem blendDone_blk (m ss : Nat) (x : Tile) (product : Nat) (b : Blk) (r : Reads) (d d1 : Dev) :
    ((blendDone m ss x product b r d d1).mac m).blk = some (nextPass (lastPass d m b) 3 (planeSummed x (d.mac m).active product b r.amb r.delta)) := by
  unfold blendDone
  dsimp only
  rw [Dev.mac_modMac_same]
  rfl

theorem blendDone_log (m ss : Nat) (x : Tile) (product : Nat) (b : Blk) {r : Reads} (h : r.sat = 0) (d d1 : Dev) :
    (blendDone m ss x product b r d d1).log = d1.log := by
  have hlog (e : Dev) : (countReads m r.amb.length 0 e).log = e.log := rfl
  unfold blendDone
  rw [h]
  exact hlog (d1.count 0x2020 ss 1)

/-- The device after a plane of its kind, from the one that has paid. -/
def planeDone (m ss : Nat) (x : Tile) (product : Nat) (b : Blk) (errs : List (Nat × Nat × Rat)) (d d1 : Dev) : PlaneKind → Dev
  | .skip => (d1.count 0x2022 ss 1).modMac m (putPlane d m b { b with plane := b.plane + 1 })
  | .blend => blendDone m ss x product b (blendReads d m x b product (planeOf b.q b.plane) errs) d d1
  | .fallback => (d1.count 0x2021 ss 1).modMac m (putPlane d m b (planeSummed x (d.mac m).active product b b.amb []))
  | .exact => (d1.count 0x2028 ss 1).modMac m (putPlane d m b (planeSummed x (d.mac m).active product b b.amb []))

/-- The counter of a plane's kind. -/
def PlaneKind.entry : PlaneKind → Nat
  | .skip => 0x2022
  | .blend => 0x2020
  | .fallback => 0x2021
  | .exact => 0x2028

theorem planeAdded_planeDone {m ss : Nat} (hs : ss = ssFacet (facetOfMacro m)) (x : Tile) (product : Nat) (b : Blk)
    (errs : List (Nat × Nat × Rat)) (d d1 : Dev) (kind : PlaneKind) :
    PlaneAdded m ss kind.entry 1 d1 (planeDone m ss x product b errs d d1 kind) := by
  cases kind with
  | skip => exact (planeAdded_count m ss (by decide) 1 d1).keep (planeAdded_putPlane ss 0x2022 d m b _ _)
  | blend => exact planeAdded_blendDone hs x product b _ d d1
  | fallback => exact (planeAdded_count m ss (by decide) 1 d1).keep (planeAdded_putPlane ss 0x2021 d m b _ _)
  | exact => exact (planeAdded_count m ss (by decide) 1 d1).keep (planeAdded_putPlane ss 0x2028 d m b _ _)

theorem PlaneKind.steps_eq_zero {kind : PlaneKind} : kind.steps = 0 ↔ kind = .skip := by
  cases kind <;> decide

section
variable {s : State} {m : Nat} {b : Blk} {x : Tile} {product : Nat} (hb : (s.dev.mac m).blk = some b) (hx : s.dev.tileOf b.tile = some x)
  (hp : blkProduct x (s.dev.mac m).active b = some product)
include hb hx hp

theorem macroPlaneStepOp_eq (errs : List (Nat × Nat × Rat)) {kind : PlaneKind}
    (hk : planeKind s.dev m x b (rowsOn (planeOf b.q b.plane)).length = kind) (hpl : b.plane < 8) (ha : b.amb = [])
    (hm : mayStep s.dev (domWedge (wedgeOfMacro m)) (macEnergy s.dev (hubOfWedge (wedgeOfMacro m)) x.inst.phase) kind.steps = true) :
    macroPlaneStepOp m errs s.dev = planeDone m (ssFacet (facetOfWedge (wedgeOfMacro m))) x product b errs s.dev
      (stepPaid (domWedge (wedgeOfMacro m)) (macEnergy s.dev (hubOfWedge (wedgeOfMacro m)) x.inst.phase) kind.steps
        (kind.pj (s.dev.mac m).active.packing (maskedUnits x (s.dev.mac m).active product b.vec))
        (ssFacet (facetOfWedge (wedgeOfMacro m))) (maskedUnits x (s.dev.mac m).active product b.vec) s.dev) kind := by
  have hbind : (s.dev.tileOf b.tile).bind (fun t => (blkProduct t (s.dev.mac m).active b).map (fun p => (t, p))) = some (x, product) := by
    rw [hx, Option.bind_some, hp]
    rfl
  unfold macroPlaneStepOp
  dsimp only
  rw [hb]
  dsimp only
  rw [hbind]
  dsimp only
  rw [hk, if_neg (by rw [hm, ha]; simp; exact hpl)]
  cases kind <;> rfl

/-- A plane runs: it pays for its steps, counts its kind and adds its value. -/
theorem plane_runs (errs : List (Nat × Nat × Rat)) {kind : PlaneKind}
    (hk : planeKind s.dev m x b (rowsOn (planeOf b.q b.plane)).length = kind) (hpl : b.plane < 8) (ha : b.amb = [])
    (hm : mayStep s.dev (domWedge (wedgeOfMacro m)) (macEnergy s.dev (hubOfWedge (wedgeOfMacro m)) x.inst.phase) kind.steps = true) :
    let k := (s.dev.mac m).active
    let w := wedgeOfMacro m
    let rows := rowsOn (planeOf b.q b.plane)
    let e := macEnergy s.dev (hubOfWedge w) x.inst.phase
    let masked := maskedUnits x k product b.vec
    let ss := ssFacet (facetOfWedge w)
    ∃ t, exec (.macroPlaneStep m errs) s = .next t ∧
      t = s.on { s.dev with macros := t.dev.macros, pow := t.dev.pow, ctr := t.dev.ctr, log := t.dev.log, marks := t.dev.marks,
                            free := t.dev.free } ∧
      OnlyMacro s.dev t.dev m ∧ (t.dev.mac m).active = k ∧
      (if kind.steps = 0 then t.dev.pow = s.dev.pow
       else Paid s.dev t.dev (domWedge w) e kind.steps (kind.pj k.packing masked)) ∧
      counterOf t.dev 0x206C ss = counterOf s.dev 0x206C ss + kind.steps * masked ∧
      (let put (sums : List (Tab Int)) := nextPass (lastPass s.dev m b) 3 { b with plane := b.plane + 1, sums := sums }
       (kind = .skip → (t.dev.mac m).blk = some (put b.sums) ∧ counterOf t.dev 0x2022 ss = counterOf s.dev 0x2022 ss + 1) ∧
       (kind = .fallback ∨ kind = .exact →
         (t.dev.mac m).blk = some (put (setPass b.sums b.pass (addPlane x k product b rows []))) ∧
         (let c := if kind = .fallback then 0x2021 else 0x2028; counterOf t.dev c ss = counterOf s.dev c ss + 1)) ∧
       (kind = .blend → counterOf t.dev 0x2020 ss = counterOf s.dev 0x2020 ss + 1 ∧
         (errs = [] → marksFor s.dev m x.id = [] →
           (t.dev.mac m).blk = some (put (setPass b.sums b.pass (addPlane x k product b rows []))) ∧
           t.dev.log = s.dev.log))) := by
  intro k w rows e masked ss
  have hss : ss = ssFacet (facetOfMacro m) := congrArg ssFacet (Nat.div_div_eq_div_mul m 192 16)
  have hop := macroPlaneStepOp_eq hb hx hp errs hk hpl ha hm
  have hpaid : if kind.steps = 0 then (draw (domWedge w) (kind.pj k.packing masked) (debit (domWedge w) e kind.steps s.dev)).pow = s.dev.pow
      else Paid s.dev (draw (domWedge w) (kind.pj k.packing masked) (debit (domWedge w) e kind.steps s.dev)) (domWedge w) e kind.steps
        (kind.pj k.packing masked) := by
    split
    · next h0 =>
      rw [PlaneKind.steps_eq_zero.mp h0]
      exact congrArg Dev.pow (draw_debit_none _ _ _)
    · next h0 => exact paid_draw_debit _ _ _ h0 _
  refine ⟨_, exec_macroPlaneStep s m errs, ?_⟩
  simp only [State.on_dev]
  rw [hop]
  have hframe := stepPaid_frame (domWedge w) e kind.steps (kind.pj k.packing masked) ss masked s.dev
  have hpow := stepPaid_pow (domWedge w) e kind.steps (kind.pj k.packing masked) ss masked s.dev
  have hmasked := stepPaid_counter (domWedge w) e kind.steps (kind.pj k.packing masked) ss masked s.dev
  have hother (idx : Nat) := stepPaid_counter_other (domWedge w) e kind.steps (kind.pj k.packing masked) ss masked s.dev (idx := idx)
  generalize stepPaid (domWedge w) e kind.steps (kind.pj k.packing masked) ss masked s.dev = d1 at hframe hpow hmasked hother ⊢
  have hadded := planeAdded_planeDone hss x product b errs s.dev d1 kind
  have hcount := hadded.counter.trans (congrArg (· + 1) (hother kind.entry (by cases kind <;> decide)))
  have hmacs : d1.mac m = s.dev.mac m := by rw [hframe]; rfl
  have hpow' : (planeDone m ss x product b errs s.dev d1 kind).pow = d1.pow := (congrArg Dev.pow hadded.frame :)
  refine ⟨congrArg s.on (by rw [hadded.frame, hframe]), fun i hi => (hadded.others i hi).trans (by rw [hframe]; rfl),
    hadded.active.trans (by rw [hmacs]), ?_, hadded.masked.trans hmasked, ?_, ?_, ?_⟩
  · split
    next h0 => exact hpow'.trans (hpow.trans (by rw [if_pos h0] at hpaid; exact hpaid))
    next h0 => exact paid_of_pow (by rw [if_neg h0] at hpaid; exact hpaid) (hpow'.trans hpow)
  · rintro rfl
    exact ⟨(congrArg Macro.blk (Dev.mac_modMac_same _ m _)).trans rfl, hcount⟩
  · rintro (rfl | rfl)
    · exact ⟨(congrArg Macro.blk (Dev.mac_modMac_same _ m _)).trans rfl, hcount⟩
    · exact ⟨(congrArg Macro.blk (Dev.mac_modMac_same _ m _)).trans rfl, hcount⟩
  · rintro rfl
    refine ⟨hcount, fun he hmarks => ?_⟩
    subst he
    rw [planeDone, blendReads_quiet hmarks]
    refine ⟨(blendDone_blk ..).trans ?_, (blendDone_log m ss x product b rfl s.dev d1).trans (by rw [hframe])⟩
    rw [planeSummed, ← ha]

end

/-! ### Re-resolution -/

/-- The sums of a pass after the ambiguous pairs stand at their exact values. -/
def resolvedSums (d : Dev) (m : Nat) (x : Tile) (b : Blk) : Tab Int :=
  b.amb.foldl (fun (s : Tab Int) a =>
    match (sensePairs (d.mac m).active.packing)[a.2]? with
    | none => s
    | some c => tmod 0 s (a.1 * unitsPer (d.mac m).active.packing + c.2.2.2)
        (· + planeWeight (b.plane - 1) * ((2 ^ c.2.2.1 : Nat) : Int) * (pairExact d m x.id a.1 c (planeOf b.q (b.plane - 1))).1))
    (b.sums.getD b.pass [])

theorem nextPass_keeps (last n : Nat) (b : Blk) : (nextPass last n b).tile = b.tile ∧ (nextPass last n b).vec = b.vec ∧
    (nextPass last n b).amb = b.amb ∧ (nextPass last n b).sums = b.sums := by
  induction n generalizing b with
  | zero => exact ⟨rfl, rfl, rfl, rfl⟩
  | succ n ih =>
    unfold nextPass
    split
    · exact ih _
    · exact ⟨rfl, rfl, rfl, rfl⟩

theorem getD_setPass (sums : List (Tab Int)) (p : Nat) (t : Tab Int) : (setPass sums p t).getD p [] = t := by
  have hp : p < max sums.length (p + 1) := by omega
  rw [setPass, List.getD_eq_getElem?_getD, List.getElem?_map, List.getElem?_range hp, Option.map_some, if_pos rfl, Option.getD_some]

section
variable {s : State} {m : Nat} {b : Blk} {x : Tile} {product : Nat} (hb : (s.dev.mac m).blk = some b) (hx : s.dev.tileOf b.tile = some x)
  (hp : blkProduct x (s.dev.mac m).active b = some product) (ha : b.amb ≠ [])
  (hm : mayStep s.dev (domWedge (wedgeOfMacro m)) (macEnergy s.dev (hubOfWedge (wedgeOfMacro m)) x.inst.phase) 1 = true)
include hb hx hp ha hm

theorem reResolutionStepOp_eq :
    let w := wedgeOfMacro m
    let masked := maskedUnits x (s.dev.mac m).active product b.vec
    reResolutionStepOp m s.dev =
      (((draw (domWedge w) (stepPj 48 masked) (debit (domWedge w) (macEnergy s.dev (hubOfWedge w) x.inst.phase) 1 s.dev)).count
        0x2025 (ssFacet (facetOfWedge w)) 1).count 0x206C (ssFacet (facetOfWedge w)) masked).modMac m
        (putPlane s.dev m b { b with amb := [], sums := setPass b.sums b.pass (resolvedSums s.dev m x b) }) := by
  intro w masked
  unfold reResolutionStepOp
  dsimp only
  rw [hb]
  dsimp only
  rw [hx]
  dsimp only
  rw [hp, if_neg (by rw [hm]; simpa using ha)]
  dsimp only [Option.elim]
  rfl

theorem plane_re_resolved :
    let k := (s.dev.mac m).active
    let w := wedgeOfMacro m
    let e := macEnergy s.dev (hubOfWedge w) x.inst.phase
    let masked := maskedUnits x k product b.vec
    let ss := ssFacet (facetOfWedge w)
    ∃ t b', exec (.reResolutionStep m) s = .next t ∧
      t = s.on { s.dev with macros := t.dev.macros, pow := t.dev.pow, ctr := t.dev.ctr } ∧ OnlyMacro s.dev t.dev m ∧
      Paid s.dev t.dev (domWedge w) e 1 (stepPj 48 masked) ∧ counterOf t.dev 0x2025 ss = counterOf s.dev 0x2025 ss + 1 ∧
      (t.dev.mac m).blk = some b' ∧ b'.amb = [] ∧ b'.tile = b.tile ∧ b'.vec = b.vec ∧
      ∀ (u i : Nat) (c : Nat × Nat × Nat × Nat), b.amb = [(u, i)] → (sensePairs k.packing)[i]? = some c →
        (let j := u * unitsPer k.packing + c.2.2.2
         let v := planeWeight (b.plane - 1) * ((2 ^ c.2.2.1 : Nat) : Int) *
           (pairExact s.dev m x.id u c (planeOf b.q (b.plane - 1))).1
         ∀ j', tget 0 (b'.sums.getD b.pass []) j' = tget 0 (b.sums.getD b.pass []) j' + if j' = j then v else 0) := by
  intro k w e masked ss
  obtain ⟨htile, hvec, hamb, hsums⟩ := nextPass_keeps (lastPass s.dev m b) 3
    { b with amb := [], sums := setPass b.sums b.pass (resolvedSums s.dev m x b) }
  have hpaid := paid_draw_debit s.dev (domWedge w) e one_ne_zero (stepPj 48 masked)
  have hframe : draw (domWedge w) (stepPj 48 masked) (debit (domWedge w) e 1 s.dev) =
      { s.dev with pow := (draw (domWedge w) (stepPj 48 masked) (debit (domWedge w) e 1 s.dev)).pow } := by
    rw [draw_frame, debit_frame]
  have hop : reResolutionStepOp m s.dev = (((draw (domWedge w) (stepPj 48 masked) (debit (domWedge w) e 1 s.dev)).count 0x2025 ss 1).count
      0x206C ss masked).modMac m _ := reResolutionStepOp_eq hb hx hp ha hm
  refine ⟨_, nextPass (lastPass s.dev m b) 3 { b with amb := [], sums := setPass b.sums b.pass (resolvedSums s.dev m x b) },
    exec_reResolutionStep s m, ?_⟩
  simp only [State.on_dev]
  rw [hop]
  clear hop
  clear_value masked
  generalize draw (domWedge w) (stepPj 48 masked) (debit (domWedge w) e 1 s.dev) = d1 at hpaid hframe ⊢
  have hmac : d1.macros = s.dev.macros := by rw [hframe]
  refine ⟨?_, fun i hi => (Dev.mac_modMac_other _ _ hi).trans ?_, ?_, ?_, ?_, hamb, htile, hvec, fun u i c hone hc j' => ?_⟩
  · rw [hframe]
    rfl
  · show tget {} d1.macros i = tget {} s.dev.macros i
    rw [hmac]
  · exact paid_of_pow hpaid rfl
  · refine (counterOf_count_entry (d1.count 0x2025 ss 1) (by decide : 0x2025 ≠ 0x206C) ss masked).trans ?_
    exact counterOf_counted (counted_count_of (by rw [hframe]) 0x2025 ss 1)
  · exact congrArg Macro.blk (Dev.mac_modMac_same _ m _)
  · rw [hsums, getD_setPass, resolvedSums, hone, List.foldl_cons, List.foldl_nil, hc]
    dsimp only
    split
    · next h =>
      rw [h, tget_tmod_same]
    · next h => rw [tget_tmod_other _ _ _ h, add_zero]

end

/-- Settles O23: a plane by its kind and a re-resolution, each from the device that has paid for its steps. -/
theorem planesAddTheirValues : Obligations.PlanesAddTheirValues :=
  fun _ _ _ _ _ hb hx hp => ⟨fun errs hpl ha hm => plane_runs hb hx hp errs rfl hpl ha hm, fun ha hm => plane_re_resolved hb hx hp ha hm⟩

end Sys2Proof.Machine

/-!
PROOFS: what a read of a tensor may change where no waiting access is a tile's (R205, R293, R299, R326).
-/
namespace Sys2Proof.Machine

open Sys2Proof

/-- What a read of device memory or of a remote window may change, where no access that waits for its line is a tile's: without a window
nothing is waited for, and only a gather touches the pieces held. -/
structure Touched (gathers : Bool) (d e : Dev) : Prop where
  frame : e = { d with mem := e.mem, ctr := e.ctr, coal := e.coal, out := e.out, free := e.free, waits := e.waits, gone := e.gone,
                       remote := e.remote, rooms := e.rooms }
  quiet : NoTileWaits e
  still : NoWindow d → e.waits = d.waits
  pieces : gathers = false → e.coal = d.coal

variable {g : Bool} {d e : Dev}

theorem Touched.refl (h : NoTileWaits d) : Touched g d d := ⟨rfl, h, fun _ => rfl, fun _ => rfl⟩

theorem Touched.allocs (h : Touched g d e) : e.allocs = d.allocs := by rw [h.frame]

theorem Touched.trans {f : Dev} (h : Touched g d e) (h' : Touched g e f) : Touched g d f where
  frame := by rw [h'.frame, h.frame]
  quiet := h'.quiet
  still hw := (h'.still (by rw [NoWindow, h.allocs]; exact hw)).trans (h.still hw)
  pieces hg := (h'.pieces hg).trans (h.pieces hg)

/-- A change of anything but what waits and the pieces held. -/
theorem Touched.other (h : Touched g d e) (ctr out free gone remote rooms) :
    Touched g d { e with ctr := ctr, out := out, free := free, gone := gone, remote := remote, rooms := rooms } :=
  h.trans ⟨rfl, h.quiet, fun _ => rfl, fun _ => rfl⟩

/-- A change of the pieces that a gather holds. -/
theorem Touched.coal (h : Touched true d e) (coal) : Touched true d { e with coal := coal } :=
  h.trans ⟨rfl, h.quiet, fun _ => rfl, nofun⟩

theorem Touched.count (h : Touched g d e) (i ss n : Nat) : Touched g d (e.count i ss n) := h.other ..

/-- What an access of device memory may change, where no access that waits for its line is a tile's. -/
structure Accessed (d e : Dev) : Prop where
  frame : e = { d with mem := e.mem, ctr := e.ctr, out := e.out, gone := e.gone }
  quiet : NoTileWaits e

theorem Accessed.refl (h : NoTileWaits d) : Accessed d d := ⟨rfl, h⟩

theorem Accessed.trans {f : Dev} (h : Accessed d e) (h' : Accessed e f) : Accessed d f := ⟨by rw [h'.frame, h.frame], h'.quiet⟩

theorem Accessed.other (h : Accessed d e) (ctr out gone) : Accessed d { e with ctr := ctr, out := out, gone := gone } :=
  h.trans ⟨rfl, h.quiet⟩

/-- A change of the memory that leaves no access waiting that did not wait before. -/
theorem Accessed.mem (h : Accessed d e) {m : Mem} (hm : m.waiting = e.mem.waiting) : Accessed d { e with mem := m } :=
  h.trans ⟨rfl, by rw [NoTileWaits, hm]; exact h.quiet⟩

theorem Accessed.count (h : Accessed d e) (i ss n : Nat) : Accessed d (e.count i ss n) := h.other ..

theorem Accessed.ite (h : Accessed d e) {c : Prop} [Decidable c] {f : Dev} (hf : Accessed d f) : Accessed d (if c then f else e) := by
  split
  · exact hf
  · exact h

theorem Accessed.foldl_snd {α β : Type} {init : β × Dev} (h : Accessed d init.2) (f : β × Dev → α → β × Dev) (l : List α)
    (hf : ∀ r a, Accessed d r.2 → Accessed d (f r a).2) : Accessed d (l.foldl f init).2 :=
  List.foldlRecOn (motive := fun r => Accessed d r.2) l f h fun r hr a _ => hf r a hr

theorem Accessed.foldl_snd_snd {α β γ : Type} {init : β × γ × Dev} (h : Accessed d init.2.2) (f : β × γ × Dev → α → β × γ × Dev)
    (l : List α) (hf : ∀ r a, Accessed d r.2.2 → Accessed d (f r a).2.2) : Accessed d (l.foldl f init).2.2 :=
  List.foldlRecOn (motive := fun r => Accessed d r.2.2) l f h fun r hr a _ => hf r a hr

/-! ### Lines and accesses -/

theorem chooseVictim_waiting (m : Mem) (slice line : Nat) : (chooseVictim m slice line).2.waiting = m.waiting := by
  have hfold (ws : List (Nat × Line)) (rise : Nat) : ∀ m : Mem, (ws.foldl (fun m e =>
      { m with lines := tset m.lines (wayKey slice line e.1) { e.2 with rr := e.2.rr + rise } }) m).waiting = m.waiting := by
    induction ws with
    | nil => exact fun _ => rfl
    | cons w ws ih => exact fun m => ih _
  unfold chooseVictim
  dsimp only
  split
  · rfl
  · exact hfold ..

theorem Accessed.installLine (h : Accessed d e) (slice line policy : Nat) (data : Bytes) (dirty poison : Bool) :
    Accessed d (installLine slice line policy data dirty poison e) := by
  have hw := chooseVictim_waiting e.mem slice line
  unfold Machine.installLine
  extract_lets hub pins full d0
  have h0 : Accessed d d0 := Accessed.ite h (h.count ..)
  have hm0 : d0.mem = e.mem := by
    show (if full = true then e.count _ _ _ else e).mem = _
    split <;> rfl
  rw [hm0]
  split
  · exact h0
  · next w m1 hc =>
    have hm1 : m1.waiting = e.mem.waiting := by rw [hc] at hw; exact hw
    have hm2 : (match tfind m1.lines (wayKey slice line w) with
        | some v => if v.dirty then writeBack m1 (slice / 2) v else m1
        | none => m1).waiting = m1.waiting := by
      split
      · split <;> rfl
      · rfl
    have h1 (ls : Tab Line) := h0.mem (m := { (match tfind m1.lines (wayKey slice line w) with
        | some v => if v.dirty then writeBack m1 (slice / 2) v else m1
        | none => m1) with lines := ls }) (by rw [hm0]; exact hm2.trans hm1)
    exact Accessed.ite (h1 _) ((h1 _).count ..)

theorem Accessed.fillFrom (h : Accessed d e) (slice line policy : Nat) : Accessed d (fillFrom slice line policy e) :=
  (h.count ..).installLine ..

theorem Accessed.accessHit (h : Accessed d e) (fresh : Bool) (slice line : Nat) (off len : Nat) (op : MemOp) :
    Accessed d (accessHit fresh slice line off len op e).2.2 := by
  unfold Machine.accessHit
  split
  · exact h
  split
  · exact h
  · exact h.mem rfl

/-- The answer of a waiting access that is no tile's. -/
theorem Accessed.respond (h : Accessed d e) (slice line : Nat) (op : MemOp) (status : BitVec 8) (b : Bytes) (poison : Bool) :
    Accessed d (respond slice line op none status b poison e) := by
  unfold Machine.respond
  split <;> exact h.other ..

theorem Accessed.serveFirst (h : Accessed d e) (slice line policy : Nat) : Accessed d (serveFirst slice line policy e) := by
  unfold Machine.serveFirst
  split
  · exact h
  · next ws hne =>
    have hfill : Accessed d (if (wayOf e.mem slice line).isSome then e else Machine.fillFrom slice line policy e) := Accessed.ite (h.fillFrom ..) h
    have hws : ∀ w ∈ waitersOf e slice line, w.tile = none := fun w hw => h.quiet w (List.mem_filter.mp hw).1
    generalize (if (wayOf e.mem slice line).isSome then e else Machine.fillFrom slice line policy e) = f at hfill ⊢
    have hleft : Accessed d { f with mem := { f.mem with waiting := f.mem.waiting.filter (fun w => !(w.slice = slice && w.line = line)) } } :=
      hfill.trans ⟨rfl, fun w hw => hfill.quiet w (List.mem_filter.mp hw).1⟩
    refine List.foldlRecOn (motive := fun e' => Accessed d e') _ _ hleft fun e' he w hw => ?_
    have hnone : w.1.tile = none := hws w.1 (List.fst_mem_of_mem_zipIdx hw)
    unfold serveWaiting
    rw [hnone]
    exact (he.accessHit (decide (w.2 = 0)) ..).respond (status := stMemUe) ..

theorem Accessed.accessAlone (h : Accessed d e) (slice line : Nat) (off len : Nat) (op : MemOp) (policy : Nat) :
    Accessed d (accessAlone slice line off len op policy e).2.2 := by
  unfold Machine.accessAlone
  dsimp only
  split
  · exact (h.count ..).accessHit ..
  split
  · exact (h.count ..).installLine ..
  split
  · exact h.count ..
  · exact (h.fillFrom ..).accessHit ..

theorem Accessed.accessNow (h : Accessed d e) (v : Variant) (slice line : Nat) (off len : Nat) (op : MemOp) (policy : Nat) :
    Accessed d (accessNow v slice line off len op policy e).2.2 := by
  unfold Machine.accessNow
  split
  · exact h.other ..
  · exact (h.serveFirst ..).accessAlone ..

theorem Accessed.devRead (h : Accessed d e) (v : Variant) (al : Alloc) (o n : Nat) : Accessed d (devRead v al o n e).2.2 := by
  unfold Machine.devRead
  refine h.foldl_snd_snd _ _ fun _ _ he => ?_
  split
  · exact he
  · exact he.accessNow ..

theorem Accessed.devWrite (h : Accessed d e) (v : Variant) (al : Alloc) (o : Nat) (b : Bytes) : Accessed d (devWrite v al o b e).2 := by
  unfold Machine.devWrite
  refine h.foldl_snd _ _ fun _ _ he => ?_
  split
  · exact he
  · exact he.accessNow ..

theorem Accessed.touched (h : Accessed d e) : Touched g d e where
  frame := by rw [h.frame]
  quiet := h.quiet
  still := fun _ => by rw [h.frame]
  pieces := fun _ => by rw [h.frame]

theorem Touched.devRead (h : Touched g d e) (v : Variant) (al : Alloc) (o n : Nat) : Touched g d (devRead v al o n e).2.2 :=
  h.trans ((Accessed.refl h.quiet).devRead ..).touched

theorem Touched.devWrite (h : Touched g d e) (v : Variant) (al : Alloc) (o : Nat) (b : Bytes) : Touched g d (devWrite v al o b e).2 :=
  h.trans ((Accessed.refl h.quiet).devWrite ..).touched

/-! ### Elements of a tensor -/

/-- What holds of a device through every read of a tensor of `d`: it outlasts a read of device memory, a counter, a drawn value, and a read of a
remote window where `d` has one. -/
structure ReadKept (d : Dev) (R : Dev → Prop) : Prop where
  allocs : ∀ e, R e → e.allocs = d.allocs
  devRead : ∀ e, R e → ∀ v al o n, R (devRead v al o n e).2.2
  readRemote : ¬ NoWindow d → ∀ e, R e → ∀ al rd o n, R (readRemote al rd o n e).2.2
  count : ∀ e, R e → ∀ i ss n, R (e.count i ss n)
  drawn : ∀ e, R e → R e.drawn

theorem kept_ite {R : Dev → Prop} {c : Prop} [Decidable c] {e f : Dev} (hf : R f) (he : R e) : R (if c then f else e) := by
  split
  · exact hf
  · exact he

section
variable {R : Dev → Prop} (k : ReadKept d R)
include k

theorem ReadKept.kind (h : R e) {x : Nat} {al : Alloc} (ha : e.allocOf x = some al) (hn : NoWindow d) : al.kind ≠ .window :=
  hn al (k.allocs e h ▸ List.mem_of_find?_eq_some ha)

theorem ReadKept.readBytes (h : R e) (v : Variant) {al : Alloc} (ha : NoWindow d → al.kind ≠ .window) (rd : Reader) (o n : Nat) :
    R (readBytes v al rd o n e).2.2 := by
  unfold Machine.readBytes
  dsimp only
  split
  · exact k.devRead e h ..
  · exact h
  · next hk => exact List.foldlRecOn (motive := fun r : Bytes × Bool × Dev => R r.2.2) _ _ h fun r hr p _ => k.readRemote (fun hn => ha hn hk) r.2.2 hr ..

theorem ReadKept.readBits (h : R e) (v : Variant) {al : Alloc} (ha : NoWindow d → al.kind ≠ .window) (rd : Reader) (bit n : Nat) :
    R (readBits v al rd bit n e).2.2 := by
  unfold Machine.readBits
  dsimp only
  split <;> exact k.readBytes h v ha ..

theorem ReadKept.segStart (h : R e) (v : Variant) {al : Alloc} (ha : NoWindow d → al.kind ≠ .window) (x : Desc) (rd : Reader) (row : Nat) :
    R (segStart v al x rd row e).2.2 := by
  unfold Machine.segStart
  dsimp only
  split
  · exact k.readBytes h v ha ..
  · exact h

theorem ReadKept.readBitmap (h : R e) (v : Variant) {al : Alloc} (ha : NoWindow d → al.kind ≠ .window) (x : Desc) (rd : Reader)
    (row i : Nat) : R (readBitmap v al x rd row i e).2 := by
  have hs := k.segStart h v ha x rd row
  have hh := k.readBytes hs v ha rd (Machine.segStart v al x rd row e).1 16
  unfold Machine.readBitmap
  dsimp only
  generalize Machine.readBytes v al rd (Machine.segStart v al x rd row e).1 16 (Machine.segStart v al x rd row e).2.2 = r at hh ⊢
  split
  · exact hh
  split
  · exact k.readBytes hh v ha ..
  split
  · exact k.drawn _ (k.readBytes hh v ha ..)
  split
  · exact k.readBytes hh v ha ..
  · exact k.readBytes (k.readBytes hh v ha ..) v ha ..

theorem ReadKept.readForerunner (h : R e) (v : Variant) {al : Alloc} (ha : NoWindow d → al.kind ≠ .window) (x : Desc) (rd : Reader)
    (hub row i : Nat) : R (readForerunner v al x rd hub row i e).2 := by
  have hs := k.segStart h v ha x rd row
  have hh := k.readBytes hs v ha rd (Machine.segStart v al x rd row e).1 16
  unfold Machine.readForerunner
  dsimp only
  generalize Machine.readBytes v al rd (Machine.segStart v al x rd row e).1 16 (Machine.segStart v al x rd row e).2.2 = r at hh ⊢
  generalize (if x.fmt = 0 then 1 else 2) = own
  split
  · exact kept_ite (k.count _ hh ..) hh
  · have hb := k.readBytes hh v ha rd ((Machine.segStart v al x rd row e).1 + 16)
      (8 * min (bitsOf (leNat r.1) 63 32) ((al.size - ((Machine.segStart v al x rd row e).1 + 16)) / 8))
    exact kept_ite (k.count _ (k.count _ (kept_ite (k.count _ hb ..) hb) ..) ..) hb

theorem ReadKept.elemAtPlace (h : R e) (v : Variant) {al : Alloc} (ha : NoWindow d → al.kind ≠ .window) (x : Desc) (rd : Reader)
    (hub : Nat) (y : List Nat) : R (elemAtPlace v al x rd hub y e).2 := by
  unfold Machine.elemAtPlace
  split
  · exact k.readBits h v ha ..
  · exact k.readBytes h v ha ..
  · exact k.readBitmap h v ha ..
  · exact k.readForerunner h v ha ..

theorem ReadKept.indexElem (h : R e) (v : Variant) (ds : List Desc) (hd : Nat) (rd : Reader) (i : Nat) : R (indexElem v ds hd rd i e).2.2 := by
  unfold Machine.indexElem
  split
  · exact h
  split
  · exact h
  · next ha => exact k.readBits h v (k.kind h ha) ..

theorem ReadKept.placeOf (h : R e) (v : Variant) (ds : List Desc) (x : Desc) (rd : Reader) (c : List Int) : R (placeOf v ds x rd c e).2.2 := by
  unfold Machine.placeOf
  dsimp only
  split
  · exact h
  split
  · split <;> exact k.indexElem h ..
  · exact h

-- What also outlasts a change of the pieces held is kept by a gather, and so by the fetch of an operand's element.
variable (hc : ∀ e, R e → ∀ coal, R { e with coal := coal })
include hc

theorem ReadKept.gathered (h : R e) (v : Variant) {al : Alloc} (ha : NoWindow d → al.kind ≠ .window) (x : Desc) (rd : Reader)
    (hub gen pos ss : Nat) (y : List Nat) : R (gathered v al x rd hub gen pos ss y e).2 := by
  unfold Machine.gathered
  dsimp only
  split
  · split
    · exact hc _ h _
    · exact k.count _ (hc _ h _) ..
  · refine hc _ ?_ _
    unfold Machine.fetchPiece
    exact List.foldlRecOn (motive := fun r : Tab (Nat × Nat × Bool) × Dev => R r.2) _ _ h fun r hr _ _ => k.elemAtPlace hr v ha ..

theorem ReadKept.gatherDrop (h : R e) (gen index pos ss : Nat) : R (gatherDrop gen index pos ss e) := by
  unfold Machine.gatherDrop
  exact kept_ite h (k.count _ (hc _ h _) ..)

theorem ReadKept.fetchOperand (h : R e) (v : Variant) (t : Tile) (o : Nat) (c : List Int) : R (fetchOperand v t o c e).2 := by
  unfold Machine.fetchOperand
  dsimp only
  split
  · exact h
  split
  · exact k.count _ h ..
  split
  · exact h
  · next x _ _ _ al ha =>
    have hp := k.placeOf h v (tileDescs e t) x t.reader (c.take 2 ++ t.origins o)
    split
    · exact k.count _ hp ..
    · exact k.gatherDrop hc hp ..
    · split
      · exact k.gathered hc hp v (k.kind h ha) ..
      · exact k.elemAtPlace hp v (k.kind h ha) ..

end

/-! ### What the reads touch -/

theorem Touched.readRemote (h : Touched g d e) (hw : ¬ NoWindow d) (al : Alloc) (rd : Reader) (o n : Nat) : Touched g d (readRemote al rd o n e).2.2 := by
  have hreserve {unit n : Nat} {f : Dev} (hf : reserveRoom unit n e = some f) : Touched g d f := by
    unfold reserveRoom at hf
    split at hf
    · cases hf
      exact h.other ..
    · cases hf
  have hwait {f : Dev} (hf : Touched g d f) (out remote) : Touched g d { f with out := out, remote := remote, waits := true } :=
    ⟨by rw [hf.frame], hf.quiet, fun hn => (hw hn).elim, hf.pieces⟩
  unfold Machine.readRemote
  dsimp only
  split
  · split
    · exact hwait h ..
    · next hr => exact hwait (hreserve hr) ..
  · split
    · exact hwait h ..
    · exact h
    · exact h.other ..

theorem readKept_touched (g : Bool) (d : Dev) : ReadKept d (Touched g d) where
  allocs _ h := h.allocs
  devRead _ h v al o n := h.devRead v al o n
  readRemote hw _ h al rd o n := h.readRemote hw al rd o n
  count _ h i ss n := h.count i ss n
  drawn _ h := h.other ..

theorem Touched.indexElem (h : Touched g d e) (v : Variant) (ds : List Desc) (hd : Nat) (rd : Reader) (i : Nat) :
    Touched g d (indexElem v ds hd rd i e).2.2 := (readKept_touched g d).indexElem h ..

theorem Touched.fetchOperand (h : Touched true d e) (v : Variant) (t : Tile) (o : Nat) (c : List Int) : Touched true d (fetchOperand v t o c e).2 :=
  (readKept_touched true d).fetchOperand (fun _ h coal => h.coal coal) h v t o c

/-- The allocations stay, and without a remote window nothing is waited for, whatever access of a tile waits. -/
structure NeverWaits (d e : Dev) : Prop where
  allocs : e.allocs = d.allocs
  still : NoWindow d → e.waits = d.waits

theorem NeverWaits.readRemote (h : NeverWaits d e) (hw : ¬ NoWindow d) (al : Alloc) (rd : Reader) (o n : Nat) :
    NeverWaits d (readRemote al rd o n e).2.2 := by
  refine ⟨?_, fun hn => (hw hn).elim⟩
  have hreserve {unit n : Nat} {f : Dev} (hf : reserveRoom unit n e = some f) : f.allocs = e.allocs := by
    unfold reserveRoom at hf
    split at hf
    · cases hf
      rfl
    · cases hf
  unfold Machine.readRemote
  dsimp only
  split
  · split
    · exact h.allocs
    · next hr => exact (hreserve hr).trans h.allocs
  · split <;> exact h.allocs

theorem readKept_neverWaits (d : Dev) : ReadKept d (NeverWaits d) where
  allocs _ h := h.allocs
  devRead e h v al o n := by
    have hf := (afterAccess_devRead (AfterAccess.refl e) v al o n).frame
    generalize Machine.devRead v al o n e = r at hf
    exact ⟨(congrArg Dev.allocs hf :).trans h.allocs, fun hn => (congrArg Dev.waits hf :).trans (h.still hn)⟩
  readRemote hw _ h al rd o n := h.readRemote hw al rd o n
  count _ h _ _ _ := ⟨h.allocs, h.still⟩
  drawn _ h := ⟨h.allocs, h.still⟩

theorem NeverWaits.fetchOperand (h : NeverWaits d e) (v : Variant) (t : Tile) (o : Nat) (c : List Int) : NeverWaits d (fetchOperand v t o c e).2 :=
  (readKept_neverWaits d).fetchOperand (fun _ h _ => ⟨h.allocs, h.still⟩) h v t o c

/-! ### What the reads of one step leave -/

/-- A step that must wait keeps nothing but its requests. -/
theorem reading_waits {rd : Reader} {f : Dev → Dev} (h : (f (fresh d)).waits = true) : reading rd d f = awaited d (f (fresh d)) := if_pos h

theorem reading_done {rd : Reader} {f : Dev → Dev} (h : (f (fresh d)).waits = false) : reading rd d f = usedRemote rd (f (fresh d)) :=
  if_neg (ne_true_of_eq_false h)

theorem touched_fresh (h : NoTileWaits d) : Touched g (fresh d) (fresh d) := .refl h

theorem Touched.awaited (h : Touched g (fresh d) e) (hw : e.waits = true) : Waits d (awaited d e) :=
  ⟨fun hn => Bool.false_ne_true ((h.still hn).symm.trans hw), rfl⟩

/-- A step that waits, by what its reads touched. -/
theorem waits_reading {rd : Reader} {f : Dev → Dev} (h : Touched g (fresh d) (f (fresh d))) (hw : (f (fresh d)).waits = true) :
    Waits d (reading rd d f) := by
  rw [reading_waits hw]
  exact h.awaited hw

theorem usedRemote_frame (rd : Reader) (d : Dev) : usedRemote rd d = { d with remote := (usedRemote rd d).remote } := by
  unfold usedRemote
  split <;> rfl

/-- What the reads of a step that does not wait may have changed. -/
structure Read (d e : Dev) : Prop where
  frame : e = { d with mem := e.mem, ctr := e.ctr, coal := e.coal, out := e.out, free := e.free, waits := false, gone := e.gone,
                       remote := e.remote, rooms := e.rooms }

theorem Touched.read (h : Touched g (fresh d) e) (hw : e.waits = false) : Read d e := by
  constructor
  have hf := h.frame
  rw [hw] at hf
  exact hf

theorem Read.used (h : Read d e) (rd : Reader) : Read d (usedRemote rd e) := by
  constructor
  rw [usedRemote_frame, h.frame]

/-! ### A tile whose read fails -/

theorem workDone_removeTile (t : Tile) (d : Dev) (j : Job) : workDone (removeTile t d) j = workDone d j := by
  rw [(tilesLeft_removeTile t d).frame]
  rfl

/-- A tile that fails has left; its job has failed, unless its work was done. -/
theorem poisoned_failTile (t : Tile) (status : BitVec 8) (d : Dev) : Poisoned (failTile t status d) t := by
  have hleft := (tilesLeft_removeTile t d).frame
  have htiles := removeTile_tiles t d
  have hdone := workDone_removeTile t d
  have hjobs : (removeTile t d).jobs = d.jobs := by rw [hleft]
  unfold failTile
  generalize removeTile t d = f at htiles hdone hjobs ⊢
  have hgone : ∀ y ∈ f.tiles, y.id ≠ t.id := fun y hy => by
    rw [htiles] at hy
    simpa using (List.mem_filter.mp hy).2
  split
  · next hw =>
    refine ⟨hgone, fun j hj => .inl ?_⟩
    have hj' : d.jobOf t.job = some j := by rw [Dev.jobOf, ← hjobs]; exact hj
    rw [hj'] at hw
    exact (hdone j).trans hw
  · rw [failJob_jobs]
    refine ⟨hgone, fun j hj => .inr ?_⟩
    have hj' := List.mem_of_find?_eq_some hj
    obtain ⟨y, -, rfl⟩ := List.mem_map.mp hj'
    have hid := of_decide_eq_true (List.find?_some (p := fun x : Job => decide (x.id = t.job)) hj)
    by_cases hy : y.id = t.job
    · rw [if_pos hy]
      exact ⟨rfl, rfl⟩
    · rw [if_neg hy] at hid
      exact (hy hid).elim

theorem Poisoned.used {x : Tile} (h : Poisoned e x) (rd : Reader) : Poisoned (usedRemote rd e) x := by
  rw [usedRemote_frame]
  exact h

theorem poisoned_failRead (t : Tile) (d : Dev) : Poisoned (failRead t d) t := poisoned_failTile t _ _

end Sys2Proof.Machine

/-!
PROOFS for the operands and the items of a stream engine (R145 to R151, R164, R187, R205, R299, R326).
-/
namespace Sys2Proof.Machine

open Sys2Proof

theorem exec_operandFetch (s : State) (tile opnd : Nat) (coord : List Int) (dest : FetchDest) :
    exec (.operandFetch tile opnd coord dest) s = .next (s.on (operandFetchOp s.variant tile opnd coord dest s.dev)) := rfl

theorem exec_dispatchInstruction (s : State) (e tile : Nat) :
    exec (.dispatchInstruction e tile) s = .next (s.on (dispatchOp e tile s.dev)) := rfl

theorem exec_windowFill (s : State) (e tile : Nat) : exec (.windowFill e tile) s = .next (s.on (windowFillOp e tile s.dev)) := rfl

theorem exec_itemDeal (s : State) (e : Nat) : exec (.itemDeal e) s = .next (s.on (itemDealOp e s.dev)) := rfl

theorem exec_itemStart (s : State) (e n : Nat) : exec (.itemStart e n) s = .next (s.on (itemStartOp e n s.dev)) := rfl

theorem exec_workSteal (s : State) (e n : Nat) : exec (.workSteal e n) s = .next (s.on (workStealOp e n s.dev)) := rfl

/-! ### Operands -/

theorem failTile_waits (t : Tile) (status : BitVec 8) (d : Dev) : (failTile t status d).waits = d.waits := by
  have hleft : (removeTile t d).waits = d.waits := by rw [(tilesLeft_removeTile t d).frame]
  unfold failTile
  split <;> exact hleft

theorem failRead_waits (t : Tile) (d : Dev) : (failRead t d).waits = d.waits := failTile_waits ..

/-- A step that waits with its reads. -/
theorem Touched.waiting {g : Bool} {d r : Dev} (h : Touched g (fresh d) r) (hw : r.waits = true) {rd : Reader} {f : Dev → Dev}
    (hf : (f (fresh d)).waits = r.waits) : Waits d (reading rd d f) := by
  rw [reading_waits (hf.trans hw)]
  exact ⟨fun hn => Bool.false_ne_true ((h.still hn).symm.trans hw), rfl⟩

section
variable {s : State} {tile opnd : Nat} {coord : List Int} {x : Tile} (hx : s.dev.tileOf tile = some x) (hs : x.stage = .issued)
  (hh : haloHere s.variant s.dev x opnd coord = true) (he : ∀ e, x.engine = some e → domRuns s.dev (domEngine e) = true)
  (hq : NoTileWaits s.dev)
include hx hs hh he

/-- What an operand's element does at the tile's stream: it is sent, or its poison fails the tile. -/
def sendElement (v : Variant) (x : Tile) (tile opnd : Nat) (coord : List Int) (d : Dev) : Dev :=
  let r := fetchOperand v x opnd coord d
  if r.1.poison then failRead x r.2 else r.2.emit (.fetched tile opnd (BitVec.ofNat 64 r.1.bits))

theorem operandFetchOp_eq (dest : FetchDest) : operandFetchOp s.variant tile opnd coord dest s.dev =
    match dest with
    | .tile => reading x.reader s.dev (sendElement s.variant x tile opnd coord)
    | .laneA e n =>
      if laneRuns s.dev e n tile = true ∧ x.engine = some e ∧ opnd = 0 ∧ paired x 0 = false then
        reading x.reader s.dev (fetchToLane s.variant x opnd coord e n false)
      else s.dev
    | .laneB e n =>
      if laneRuns s.dev e n tile = true ∧ x.engine = some e ∧ 1 ≤ opnd ∧ opnd ≤ 3 ∧ paired x opnd = false then
        reading x.reader s.dev (fetchToLane s.variant x opnd coord e n true)
      else s.dev := by
  have hruns : x.engine.elim true (fun e => domRuns s.dev (domEngine e)) = true := by
    cases hen : x.engine with
    | none => rfl
    | some e => exact he e hen
  unfold operandFetchOp
  rw [hx]
  dsimp only
  refine (if_neg (by rw [hs, hh, hruns]; simp)).trans ?_
  cases dest <;> rfl

include hq

theorem operand_waited (hw : (fetchOperand s.variant x opnd coord (fresh s.dev)).2.waits = true) :
    ∃ t, exec (.operandFetch tile opnd coord .tile) s = .next t ∧ Waits s.dev t.dev := by
  have ht := (touched_fresh hq).fetchOperand s.variant x opnd coord
  refine ⟨_, exec_operandFetch .., ?_⟩
  simp only [State.on_dev]
  rw [operandFetchOp_eq hx hs hh he]
  refine ht.waiting hw ?_
  unfold sendElement
  dsimp only
  split
  · exact failRead_waits ..
  · rfl

theorem operand_sent (hw : (fetchOperand s.variant x opnd coord (fresh s.dev)).2.waits = false)
    (hp : (fetchOperand s.variant x opnd coord (fresh s.dev)).1.poison = false) :
    ∃ t, exec (.operandFetch tile opnd coord .tile) s = .next t ∧
      t = s.on { s.dev with mem := t.dev.mem, ctr := t.dev.ctr, coal := t.dev.coal, out := t.dev.out, free := t.dev.free,
                            waits := false, gone := t.dev.gone, remote := t.dev.remote, rooms := t.dev.rooms } ∧
      t.dev.out.getLast? = some (.fetched tile opnd (BitVec.ofNat 64 (fetchOperand s.variant x opnd coord (fresh s.dev)).1.bits)) := by
  have ht := (touched_fresh hq).fetchOperand s.variant x opnd coord
  have hsend : sendElement s.variant x tile opnd coord (fresh s.dev) = (fetchOperand s.variant x opnd coord (fresh s.dev)).2.emit
      (.fetched tile opnd (BitVec.ofNat 64 (fetchOperand s.variant x opnd coord (fresh s.dev)).1.bits)) :=
    if_neg (ne_true_of_eq_false hp)
  have hop : operandFetchOp s.variant tile opnd coord .tile s.dev = usedRemote x.reader _ :=
    (operandFetchOp_eq hx hs hh he .tile).trans ((reading_done (by rw [hsend]; exact hw)).trans (congrArg _ hsend))
  refine ⟨_, exec_operandFetch .., ?_⟩
  simp only [State.on_dev]
  rw [hop]
  generalize fetchOperand s.variant x opnd coord (fresh s.dev) = r at ht hw ⊢
  have hread : Read s.dev (r.2.emit (.fetched tile opnd (BitVec.ofNat 64 r.1.bits))) := Touched.read (ht.other ..) hw
  refine ⟨congrArg s.on (hread.used x.reader).frame, ?_⟩
  rw [usedRemote_frame]
  exact List.getLast?_concat

omit hq in
theorem operand_poisoned (hw : (fetchOperand s.variant x opnd coord (fresh s.dev)).2.waits = false)
    (hp : (fetchOperand s.variant x opnd coord (fresh s.dev)).1.poison = true) :
    ∃ t, exec (.operandFetch tile opnd coord .tile) s = .next t ∧ Poisoned t.dev x := by
  have hsend : sendElement s.variant x tile opnd coord (fresh s.dev) = failRead x (fetchOperand s.variant x opnd coord (fresh s.dev)).2 := if_pos hp
  refine ⟨_, exec_operandFetch .., ?_⟩
  simp only [State.on_dev]
  rw [operandFetchOp_eq hx hs hh he]
  dsimp only
  rw [reading_done (by rw [hsend, failRead_waits]; exact hw), hsend]
  exact Poisoned.used (poisoned_failRead ..) _

end

/-- The element that enters a lane. -/
def laneElem (opnd : Nat) (coord : List Int) (r : Fetched) : LaneElem :=
  { opnd := opnd, c0 := (coord.getD 0 0).toNat, c1 := (coord.getD 1 0).toNat, bits := BitVec.ofNat 32 r.bits,
    dup := BitVec.ofNat 32 r.dup, exp := if r.pad then 0 else 127 }

theorem operand_at_lane {s : State} {tile opnd : Nat} {coord : List Int} {x : Tile} (hq : NoTileWaits s.dev) {e n : Nat} (second : Bool) (hf : x.inst.func ≠ fLATT)
    (hw : (fetchOperand s.variant x opnd coord (fresh s.dev)).2.waits = false)
    (hp : (fetchOperand s.variant x opnd coord (fresh s.dev)).1.poison = false) {dest : FetchDest}
    (hop : operandFetchOp s.variant tile opnd coord dest s.dev = reading x.reader s.dev (fetchToLane s.variant x opnd coord e n second)) :
    ∃ t, exec (.operandFetch tile opnd coord dest) s = .next t ∧
      t = s.on { s.dev with mem := t.dev.mem, ctr := t.dev.ctr, coal := t.dev.coal, out := t.dev.out, free := t.dev.free,
                            waits := false, gone := t.dev.gone, remote := t.dev.remote, rooms := t.dev.rooms,
                            engines := t.dev.engines } ∧
      t.dev.lane e n = enterLane x second [laneElem opnd coord (fetchOperand s.variant x opnd coord (fresh s.dev)).1] (s.dev.lane e n) := by
  have ht := (touched_fresh hq).fetchOperand s.variant x opnd coord
  have hlane : fetchToLane s.variant x opnd coord e n second (fresh s.dev) = (fetchOperand s.variant x opnd coord (fresh s.dev)).2.modLane e n
      (enterLane x second [laneElem opnd coord (fetchOperand s.variant x opnd coord (fresh s.dev)).1]) := by
    have hhalf : halfExp s.variant x opnd coord (fetchOperand s.variant x opnd coord (fresh s.dev)).2 =
        (127, false, (fetchOperand s.variant x opnd coord (fresh s.dev)).2) :=
      (if_neg fun h => hf h.1).trans (if_neg fun h => hf h.1)
    unfold fetchToLane laneElem
    dsimp only
    rw [hhalf]
    generalize fetchOperand s.variant x opnd coord (fresh s.dev) = r at hp ⊢
    cases hpad : r.1.pad <;> simp [hp]
  refine ⟨_, exec_operandFetch .., ?_⟩
  simp only [State.on_dev]
  rw [hop, reading_done (by rw [hlane]; exact hw), hlane]
  generalize fetchOperand s.variant x opnd coord (fresh s.dev) = r at ht hw ⊢
  have hread := ht.read hw
  refine ⟨congrArg s.on ?_, ?_⟩
  · rw [usedRemote_frame, hread.frame]
    rfl
  · rw [usedRemote_frame]
    refine (r.2.lane_setLane_same e n _).trans ?_
    rw [hread.frame]
    rfl

/-! ### Items -/

theorem instruction_dispatched {s : State} {e tile : Nat} {x : Tile} (hd : domRuns s.dev (domEngine e) = true) (hx : s.dev.tileOf tile = some x)
    (he : x.engine = some e) (hs : x.stage = .issued) (hr : (0, 1) ∉ x.reduced) (hl : (s.dev.engine e).disp.length < 32) :
    ∃ t, exec (.dispatchInstruction e tile) s = .next t ∧
      t = s.on { s.dev with engines := t.dev.engines, tiles := t.dev.tiles } ∧ (∀ e', e' ≠ e → t.dev.engine e' = s.dev.engine e') ∧
      t.dev.engine e = { s.dev.engine e with
        disp := (s.dev.engine e).disp ++ [tile],
        items := (s.dev.engine e).items ++ (itemKeys x).map (fun k => { tile := tile, key := k }) } ∧
      t.dev.tileOf tile = some { x with items := (itemKeys x).length, reduced := x.reduced ++ [(0, 1)] } := by
  have hop : dispatchOp e tile s.dev = (s.dev.setEngine e { s.dev.engine e with
        disp := (s.dev.engine e).disp ++ [tile],
        items := (s.dev.engine e).items ++ (itemKeys x).map (fun k => { tile := tile, key := k }) }).modTile tile
      (fun y => { y with items := (itemKeys x).length, reduced := y.reduced ++ [(0, 1)] }) := by
    unfold dispatchOp
    rw [hx]
    exact if_pos ⟨hs, he, by simpa using hr, hl, hd⟩
  refine ⟨_, exec_dispatchInstruction s e tile, ?_⟩
  rw [hop]
  exact ⟨rfl, fun k hk => s.dev.engine_setEngine_other _ hk, s.dev.engine_setEngine_same e _,
    tileOf_modTile_same (d := s.dev.setEngine e _) hx fun _ => rfl⟩

theorem window_filled {s : State} {e tile : Nat} {x : Tile} (hd : domRuns s.dev (domEngine e) = true) (hx : s.dev.tileOf tile = some x)
    (he : x.engine = some e) (hf : x.prm.wfill ≠ 0) (hw : windowReady s.dev x e = false) :
    ∃ t, exec (.windowFill e tile) s = .next t ∧ t = s.on { s.dev with engines := t.dev.engines } ∧
      t.dev.engine e = { s.dev.engine e with acc := filledWindow x.inst x.prm (s.dev.engine e).acc,
                                             filled := (s.dev.engine e).filled ++ [(x.job, x.ctr)] } ∧
      windowReady t.dev x e = true ∧ exec (.windowFill e tile) t = .next t := by
  have hop : windowFillOp e tile s.dev = s.dev.modEngine e
      (fun g => { g with acc := filledWindow x.inst x.prm g.acc, filled := g.filled ++ [(x.job, x.ctr)] }) := by
    unfold windowFillOp
    rw [hx]
    exact if_pos ⟨he, hf, hw, hd⟩
  have hready : windowReady (s.dev.modEngine e
      (fun g => { g with acc := filledWindow x.inst x.prm g.acc, filled := g.filled ++ [(x.job, x.ctr)] })) x e = true := by
    unfold windowReady
    rw [Dev.engine_modEngine_same]
    simp
  refine ⟨_, exec_windowFill s e tile, ?_⟩
  rw [hop]
  refine ⟨rfl, s.dev.engine_modEngine_same e _, hready, ?_⟩
  have hagain : windowFillOp e tile (s.dev.modEngine e
      (fun g => { g with acc := filledWindow x.inst x.prm g.acc, filled := g.filled ++ [(x.job, x.ctr)] })) = s.dev.modEngine e
      (fun g => { g with acc := filledWindow x.inst x.prm g.acc, filled := g.filled ++ [(x.job, x.ctr)] }) := by
    have hx' : (s.dev.modEngine e (fun g => { g with acc := filledWindow x.inst x.prm g.acc, filled := g.filled ++ [(x.job, x.ctr)] })).tileOf
      tile = some x := hx
    unfold windowFillOp
    rw [hx']
    dsimp only
    rw [if_neg (by rw [hready]; simp)]
  rw [exec_windowFill, State.on_dev, hagain]
  rfl

theorem item_dealt {s : State} {e k : Nat} {i : Item} {rest : List Item} (hd : domRuns s.dev (domEngine e) = true)
    (hi : (s.dev.engine e).items = i :: rest)
    (hk : (ringFrom (s.dev.engine e) (s.dev.engine e).dealAt).find? (fun k => decide ((s.dev.lane e k).queue.length < 16)) = some k) :
    ∃ t, exec (.itemDeal e) s = .next t ∧ t = s.on { s.dev with engines := t.dev.engines, ctr := t.dev.ctr } ∧
      (t.dev.engine e).items = rest ∧ (t.dev.engine e).dealAt = (k + 1) % 64 ∧
      t.dev.lane e k = { s.dev.lane e k with queue := (s.dev.lane e k).queue ++ [i] } ∧
      (∀ k', k' ≠ k → t.dev.lane e k' = s.dev.lane e k') ∧ Counted s.dev t.dev 0x2071 (ssEngine e) 1 := by
  obtain ⟨g, hop, hitems, hat, hlanes⟩ : ∃ g : Engine, itemDealOp e s.dev =
      ((s.dev.setEngine e g).modLane e k (fun l => { l with queue := l.queue ++ [i] })).count 0x2071 (ssEngine e) 1 ∧
      g.items = rest ∧ g.dealAt = (k + 1) % 64 ∧ g.lanes = (s.dev.engine e).lanes := by
    refine ⟨{ s.dev.engine e with items := rest, dealAt := (k + 1) % 64,
                                  disp := if rest.any (fun x => x.tile = i.tile) then (s.dev.engine e).disp
                                          else (s.dev.engine e).disp.filter (· ≠ i.tile) }, ?_, rfl, rfl, rfl⟩
    unfold itemDealOp
    dsimp only
    rw [hi, hk]
    exact if_neg (ne_false_of_eq_true hd)
  have hlane (k' : Nat) : (s.dev.setEngine e g).lane e k' = s.dev.lane e k' := by
    rw [Dev.lane, Dev.engine_setEngine_same, hlanes]
    rfl
  have hg : (s.dev.setEngine e g).engine e = g := s.dev.engine_setEngine_same e g
  refine ⟨_, exec_itemDeal s e, ?_⟩
  simp only [State.on_dev]
  rw [hop]
  generalize hf : s.dev.setEngine e g = f at hlane hg ⊢
  have hframe : f = { s.dev with engines := f.engines } := by rw [← hf]; rfl
  have heng : ((f.modLane e k (fun l => { l with queue := l.queue ++ [i] })).count 0x2071 (ssEngine e) 1).engine e =
      { g with lanes := tput {} g.lanes k { f.lane e k with queue := (f.lane e k).queue ++ [i] } } := by
    refine (f.engine_setLane_same e k _).trans ?_
    rw [hg]
  refine ⟨congrArg s.on (by rw [hframe]; rfl), by rw [heng, ← hitems], by rw [heng, ← hat], ?_, fun k' hk' => ?_, ?_⟩
  · rw [← hlane]
    exact f.lane_setLane_same e k _
  · exact (f.lane_setLane_other _ fun h => hk' h.2).trans (hlane k')
  · exact counted_count_of (d := s.dev) (by rw [hframe]; rfl) _ _ _

theorem mem_touchCtx (tile : Nat) (cs : List Ctx) : ∃ c ∈ touchCtx tile cs, c.tile = tile := by
  unfold touchCtx
  split
  · next c hc =>
    exact ⟨c, by simp, of_decide_eq_true (List.find?_some (p := fun c : Ctx => decide (c.tile = tile)) hc)⟩
  · exact ⟨_, List.mem_append_right _ List.mem_cons_self, rfl⟩

theorem item_started {s : State} {e n : Nat} {i : Item} {rest : List Item} {x : Tile} (hd : domRuns s.dev (domEngine e) = true)
    (hqu : (s.dev.lane e n).queue = i :: rest) (hx : s.dev.tileOf i.tile = some x) (hrun : (s.dev.lane e n).run = none)
    (hring : (s.dev.lane e n).inRing = true) (hout : (s.dev.lane e n).out = []) (hw : windowReady s.dev x e = true)
    (hc : (∃ c ∈ (s.dev.lane e n).ctxs, c.tile = i.tile) ∨ (s.dev.lane e n).ctxs.length < 2) :
    ∃ t, exec (.itemStart e n) s = .next t ∧ t = s.on { s.dev with engines := t.dev.engines } ∧
      (t.dev.lane e n).queue = rest ∧ (t.dev.lane e n).run = some i ∧ (t.dev.lane e n).prog = [] ∧
      (∃ c ∈ (t.dev.lane e n).ctxs, c.tile = i.tile) ∧
      ((∀ c ∈ (s.dev.lane e n).ctxs, c.tile ≠ i.tile) → (t.dev.lane e n).query = []) ∧
      (∀ k', k' ≠ n → t.dev.lane e k' = s.dev.lane e k') := by
  have hroom : ¬((s.dev.lane e n).ctxs.any (fun c => c.tile = i.tile) = false ∧ (s.dev.lane e n).ctxs.length ≥ 2) := by
    rintro ⟨hno, hlen⟩
    rcases hc with ⟨c, hm, ht⟩ | h
    · exact List.any_eq_false.mp hno c hm (decide_eq_true ht)
    · omega
  have hop : itemStartOp e n s.dev = s.dev.setLane e n { s.dev.lane e n with
      queue := rest, run := some i, ctxs := touchCtx i.tile (s.dev.lane e n).ctxs, inA := [], inB := [], scores := [], prog := [],
      query := if (s.dev.lane e n).ctxs.any (fun c => c.tile = i.tile) && (s.dev.lane e n).qtile = i.tile then (s.dev.lane e n).query else [],
      qtile := i.tile } := by
    unfold itemStartOp
    dsimp only
    rw [hqu]
    dsimp only
    rw [hx]
    refine if_neg ?_
    rw [hrun, hring, hout, hd, hw]
    simpa using hroom
  have hlane := s.dev.lane_setLane_same e n { s.dev.lane e n with
      queue := rest, run := some i, ctxs := touchCtx i.tile (s.dev.lane e n).ctxs, inA := [], inB := [], scores := [], prog := [],
      query := if (s.dev.lane e n).ctxs.any (fun c => c.tile = i.tile) && (s.dev.lane e n).qtile = i.tile then (s.dev.lane e n).query else [],
      qtile := i.tile }
  refine ⟨_, exec_itemStart s e n, ?_⟩
  simp only [State.on_dev]
  rw [hop, hlane]
  refine ⟨rfl, rfl, rfl, rfl, mem_touchCtx .., fun hno => ?_, fun k' hk' => s.dev.lane_setLane_other _ fun h => hk' h.2⟩
  rw [List.any_eq_false.mpr fun c hc => by simpa using hno c hc]
  rfl

theorem item_stolen {s : State} {e n k : Nat} {i : Item} (hd : domRuns s.dev (domEngine e) = true) (hv : victimAt s.dev e n 1 = some k)
    (hi : (s.dev.lane e k).queue.getLast? = some i) (hqu : (s.dev.lane e n).queue = []) (hrun : (s.dev.lane e n).run = none)
    (hring : (s.dev.lane e n).inRing = true) (hon : s.dev.num 0x207F 1 1 = 1) :
    ∃ t, exec (.workSteal e n) s = .next t ∧ t = s.on { s.dev with engines := t.dev.engines, ctr := t.dev.ctr } ∧ k ≠ n ∧
      (t.dev.lane e n).queue = [i] ∧ (t.dev.lane e k).queue = (s.dev.lane e k).queue.dropLast ∧
      Counted s.dev t.dev 0x2072 (ssEngine e) 1 := by
  have hkn : k ≠ n := by
    rintro rfl
    rw [hqu] at hi
    cases hi
  have hop : workStealOp e n s.dev = ((s.dev.modLane e k (fun x => { x with queue := x.queue.dropLast })).modLane e n
      (fun x => { x with queue := [i] })).count 0x2072 (ssEngine e) 1 := by
    unfold workStealOp
    dsimp only
    rw [hv]
    dsimp only
    rw [hi]
    exact if_pos ⟨hqu, hrun, hring, hon, hd⟩
  have hvictim := s.dev.lane_setLane_same e k { s.dev.lane e k with queue := (s.dev.lane e k).queue.dropLast }
  refine ⟨_, exec_workSteal s e n, ?_⟩
  simp only [State.on_dev]
  rw [hop]
  generalize hf : s.dev.modLane e k (fun x => { x with queue := x.queue.dropLast }) = f
  have hframe : f = { s.dev with engines := f.engines } := by rw [← hf]; rfl
  refine ⟨congrArg s.on (by rw [hframe]; rfl), hkn, ?_, ?_, counted_count_of (d := s.dev) (by rw [hframe]; rfl) _ _ _⟩
  · exact congrArg Lane.queue (f.lane_setLane_same e n _)
  · refine (congrArg Lane.queue (f.lane_setLane_other _ fun h => hkn h.2)).trans ?_
    rw [← hf]
    exact congrArg Lane.queue hvictim

/-- Settles O28: an operand's element by what its fetch answers, and the items' way to their lanes, each by its operation. -/
theorem operandsAndItemsReachLanes : Obligations.OperandsAndItemsReachLanes := by
  refine ⟨fun s tile opnd coord x hx hs hh he hq => ⟨fun hw => operand_waited hx hs hh he hq hw, fun hw hp => operand_sent hx hs hh he hq hw hp,
    fun hw hp => operand_poisoned hx hs hh he hw hp, fun e n hr hen ho hpr hf hg hw hp => ?_, fun e n hr hen h1 h3 hpr hf hw hp => ?_⟩,
    fun s e hd => ⟨fun tile x hx he => ⟨fun hs hr hl => instruction_dispatched hd hx he hs hr hl, fun hf hw => window_filled hd hx he hf hw⟩,
      fun i rest k hi hk => item_dealt hd hi hk, fun n i rest x hqu hx hrun hring hout hw hc => item_started hd hqu hx hrun hring hout hw hc,
      fun n k i hv hi hqu hrun hring hon => item_stolen hd hv hi hqu hrun hring hon⟩⟩
  · obtain ⟨t, hstep, hframe, hlane⟩ := operand_at_lane (e := e) (n := n) hq false hf hw hp
      ((operandFetchOp_eq hx hs hh he (.laneA e n)).trans (if_pos ⟨hr, hen, ho, hpr⟩))
    refine ⟨t, hstep, hframe, hlane.trans ?_⟩
    unfold enterLane
    rw [if_neg Bool.false_ne_true, if_neg (ne_true_of_eq_false hg)]
    rfl
  · obtain ⟨t, hstep, hframe, hlane⟩ := operand_at_lane (e := e) (n := n) hq true hf hw hp
      ((operandFetchOp_eq hx hs hh he (.laneB e n)).trans (if_pos ⟨hr, hen, h1, h3, hpr⟩))
    exact ⟨t, hstep, hframe, hlane⟩

end Sys2Proof.Machine

/-!
PROOFS for the rows of K and V (R166): a lane that two entries of a table name still runs an item once its strict tile has failed.
-/
namespace Sys2Proof.Machine

open Sys2Proof

/-- The last item of a strict tile that appends a row of K and V, which has missed a scale. -/
def appendTile : Tile :=
  { id := 1, job := 1, issuer := 0, pc := 0, ctr := 0, q := 0, gi := 0, gj := 0,
    inst := { func := fLAPP, gen := 0, mode := 0, shape := 0, phase := 0, strict := true, trk := 0, cmp := 0, op := [], bnd := [],
              pblk := 0, rowfn := 0, fuse := 0 },
    prm := {}, b0 := 0, b1 := 0, b2 := 0, stage := .issued, wedges := [], engine := some 0, guard := 0, band := 0, floor := 0,
    fail := none, smiss := false, strictMiss := true, parts := [], fed := [], reduced := [], outs := [], results := [], writes := [],
    acks := [], codes := [], drawn := [], halo := [], haloN := [], haloRead := [], haloLost := false, items := 1 }

/-- The forming side of that tile. -/
def appendForming : Forming :=
  { tile := 1, trk := 2, strict := true, headroom := 0, exps := [], outs := [], ended := [], amax := [], clips := [], nonfin := [], seen := [] }

/-- A lane that runs the item, its row of V quantised. -/
def appendLane : Lane := { run := some { tile := 1, key := 0 }, qtile := 1, prog := [(1, 1)] }

/-- The module with main power on, in which a second entry of the lane's number runs an item of another tile. -/
def appendDev : Dev :=
  { Dev.reset with
    seq := { Seq.reset with phase := .up }, tiles := [appendTile], quants := [(576, { forming := [appendForming] })],
    engines := [(0, { lanes := [(0, appendLane), (0, { run := some { tile := 2, key := 0 } })] })] }

theorem appendDev_runs : domRuns appendDev (domEngine 0) = true := by decide +kernel

/-- The item has no element to wait for. -/
theorem appendTile_here : allAt appendLane.inA 0 (rowSpan appendTile 0) = true := by decide +kernel

/-- The tile fails, the lane's entry is empty and is left out, and the second one is the lane's. -/
theorem kvAppend_leaves_run : ((laneStepOp .oc40a 0 0 (.kvAppend 0) appendDev).lane 0 0).run = some { tile := 2, key := 0 } := by decide +kernel

/-- Refutes O30: nothing in its hypotheses keeps a lane's number from standing twice in its engine's table; with the failure of a strict tile the
first entry goes, and the second one runs an item. -/
theorem not_laneItemsRun : ¬Obligations.LaneItemsRun := by
  unfold Obligations.LaneItemsRun
  intro h
  obtain ⟨-, -, -, hkv, -⟩ := h { variant := .oc40a, dev := appendDev, pending := [] } 0 0 { tile := 1, key := 0 } appendTile
    rfl rfl rfl rfl rfl appendDev_runs
  obtain ⟨t, span, hex, -, -, -, -, hlast⟩ := hkv 0 (fun _ => 0) rfl (by decide) appendTile_here rfl (.inl ⟨appendForming, rfl, fun _ _ => rfl⟩)
  obtain ⟨hnone, -⟩ := hlast (by decide)
  rw [exec_laneStep] at hex
  obtain rfl := Host.Outcome.next.inj hex
  rw [State.on_dev, kvAppend_leaves_run] at hnone
  cases hnone

end Sys2Proof.Machine

/-!
PROOFS for the start of an instruction at its issuer (R244, R246, R250, R263, R326).
-/
namespace Sys2Proof.Machine

open Sys2Proof

theorem exec_instructionStart (s : State) (code : Nat) :
    exec (.instructionStart code) s = .next (s.on (instructionStartOp s.variant code s.dev)) := rfl

theorem exec_counterReadyPoll (s : State) (code : Nat) : exec (.counterReadyPoll code) s = .next (s.on (counterReadyPollOp code s.dev)) := rfl

theorem exec_counterWaitRelease (s : State) (code waited : Nat) :
    exec (.counterWaitRelease code waited) s = .next (s.on (counterWaitReleaseOp code waited s.dev)) := rfl

/-! ### Fields of a counter's record -/

theorem bitsOf_eq (v hi lo : Nat) : bitsOf v hi lo = v / 2 ^ lo % 2 ^ (hi + 1 - lo) := by rw [bitsOf, Nat.shiftRight_eq_div_pow]

/-- The bits beside those written are as they were. -/
theorem bitsOf_withBits_other {n hi lo hi' lo' : Nat} (h : lo ≤ hi + 1) (h' : lo' ≤ hi' + 1) (hd : hi' < lo ∨ hi < lo') (v : Nat) :
    bitsOf (withBits n hi lo v) hi' lo' = bitsOf n hi' lo' := by
  refine Nat.eq_of_testBit_eq fun i => ?_
  rw [bitsOf_eq, bitsOf_eq, Nat.testBit_mod_two_pow, Nat.testBit_mod_two_pow, Nat.testBit_div_two_pow, Nat.testBit_div_two_pow]
  by_cases hi' : i < hi' + 1 - lo'
  · have hw := Nat.mod_lt v (Nat.two_pow_pos (hi + 1 - lo))
    have hpow : 2 ^ (hi + 1) = 2 ^ (hi + 1 - lo) * 2 ^ lo := by rw [← pow_add, Nat.sub_add_cancel h]
    have hlow : v % 2 ^ (hi + 1 - lo) * 2 ^ lo + n % 2 ^ lo < 2 ^ (hi + 1) := by
      have h2 := Nat.mod_lt n (Nat.two_pow_pos lo)
      rw [hpow]
      calc v % 2 ^ (hi + 1 - lo) * 2 ^ lo + n % 2 ^ lo < (v % 2 ^ (hi + 1 - lo) + 1) * 2 ^ lo := by rw [Nat.succ_mul]; omega
        _ ≤ 2 ^ (hi + 1 - lo) * 2 ^ lo := Nat.mul_le_mul_right _ hw
    rw [decide_eq_true hi', Bool.true_and, Bool.true_and, withBits_eq h]
    rcases hd with hd | hd
    · have hk : i + lo' < lo := by omega
      have hmod : (n / 2 ^ (hi + 1) * 2 ^ (hi + 1) + (v % 2 ^ (hi + 1 - lo) * 2 ^ lo + n % 2 ^ lo)) % 2 ^ lo = n % 2 ^ lo := by
        rw [hpow, ← Nat.mul_assoc, ← Nat.add_assoc, ← Nat.add_mul, Nat.mul_add_mod_self_right, Nat.mod_mod]
      have htest := congrArg (fun k => k.testBit (i + lo')) hmod
      simp only [Nat.testBit_mod_two_pow, decide_eq_true hk, Bool.true_and] at htest
      exact htest
    · have hk : hi + 1 ≤ i + lo' := by omega
      obtain ⟨k, hk⟩ := Nat.exists_eq_add_of_le hk
      rw [hk, Nat.add_comm (hi + 1) k, ← Nat.testBit_div_two_pow, ← Nat.testBit_div_two_pow, Nat.mul_comm,
        Nat.mul_add_div (Nat.two_pow_pos _), Nat.div_eq_of_lt hlow, Nat.add_zero]
  · rw [decide_eq_false hi', Bool.false_and, Bool.false_and]

/-- A write of a field leaves a field beside it. -/
theorem ctrField_ctrSet_other (d : Dev) (home addr : Nat) {hi lo hi' lo' : Nat} (h : lo ≤ hi + 1) (hk : hi < 512) (h' : lo' ≤ hi' + 1)
    (hd : hi' < lo ∨ hi < lo') (v : Nat) : ctrField (ctrSet d home addr hi lo v) home addr hi' lo' = ctrField d home addr hi' lo' := by
  have hlt : withBits (d.sreadNat home addr 64) hi lo v < 256 ^ 64 := by
    have hb := withBits_lt (k := 8 * 64) h hk (sreadNat_lt d home addr 64) v
    rwa [pow_mul] at hb
  have hread : (ctrSet d home addr hi lo v).sreadNat home addr 64 = withBits (d.sreadNat home addr 64) hi lo v :=
    sreadNat_swriteNat d home addr 64 (withBits (d.sreadNat home addr 64) hi lo v) hlt
  rw [ctrField, hread, bitsOf_withBits_other h h' hd]
  rfl

/-! ### The first start of an instruction -/

/-- What the start of an instruction changes beside its issuer's own state; the count of its starters stays. -/
structure Starting (a : AtInst) (d e : Dev) : Prop where
  frame : e = { d with spad := e.spad, jobs := e.jobs, mem := e.mem, ctr := e.ctr, out := e.out, free := e.free, waits := e.waits,
                       gone := e.gone, remote := e.remote, rooms := e.rooms }
  starters : ctrStarters e a.c = ctrStarters d a.c
  still : NoWindow d → e.waits = d.waits

theorem Starting.trans {a : AtInst} {d e f : Dev} (h : Starting a d e) (h' : Starting a e f) : Starting a d f where
  frame := by rw [h'.frame, h.frame]
  starters := h'.starters.trans h.starters
  still hw := (h'.still (by rw [NoWindow, h.frame]; exact hw)).trans (h.still hw)

theorem Touched.starting {d e : Dev} (h : Touched false d e) (a : AtInst) : Starting a d e where
  frame := by
    have hf := h.frame
    rw [h.pieces rfl] at hf
    rw [hf]
  starters := by rw [h.frame]; rfl
  still := h.still

theorem starting_ctrSet (a : AtInst) (d : Dev) {hi lo : Nat} (h : lo ≤ hi + 1) (hk : hi < 512) (hd : 431 < lo ∨ hi < 416) (v : Nat) :
    Starting a d (ctrSet d a.c.home a.c.addr hi lo v) :=
  ⟨rfl, ctrField_ctrSet_other d a.c.home a.c.addr h hk (by decide) hd v, fun _ => rfl⟩

theorem starting_failJob (a : AtInst) (d : Dev) (j : Nat) (status : BitVec 8) (detail issuer index : Nat) :
    Starting a d (failJob j status detail issuer index d) := ⟨rfl, rfl, fun _ => rfl⟩

theorem Touched.latchBound {g : Bool} {d e : Dev} (h : Touched g d e) (v : Variant) (j : Job) (code : Nat) (b : BitVec 32) :
    Touched g d (latchBound v j code b e).2.2 := by
  unfold Machine.latchBound
  split
  · exact h
  · exact h
  · exact h
  · exact h.indexElem ..

theorem starting_firstStart (v : Variant) (j : Job) (a : AtInst) {d : Dev} (hq : NoTileWaits d) : Starting a d (firstStart v j a d) := by
  have h0 := (Touched.refl (g := false) hq).latchBound v j a.issuer (nth 0 a.t.bnd 0)
  unfold firstStart
  dsimp only
  generalize latchBound v j a.issuer (nth 0 a.t.bnd 0) d = r0 at h0 ⊢
  have h1 := h0.latchBound v j a.issuer (nth 0 a.t.bnd 1)
  generalize latchBound v j a.issuer (nth 0 a.t.bnd 1) r0.2.2 = r1 at h1 ⊢
  have h2 : Touched false d (if isRowShape a.t.func then ((0 : Nat), false, r1.2.2) else latchBound v j a.issuer (nth 0 a.t.bnd 2) r1.2.2).2.2 := by
    split
    · exact h1
    · exact h1.latchBound ..
  generalize (if isRowShape a.t.func then ((0 : Nat), false, r1.2.2) else latchBound v j a.issuer (nth 0 a.t.bnd 2) r1.2.2) = r2 at h2 ⊢
  have hbounds := (((h2.starting a).trans (starting_ctrSet a r2.2.2 (hi := 351) (lo := 320) (by decide) (by decide) (by decide) r0.1)).trans
    (starting_ctrSet a _ (hi := 383) (lo := 352) (by decide) (by decide) (by decide) r1.1)).trans
    (starting_ctrSet a _ (hi := 415) (lo := 384) (by decide) (by decide) (by decide) r2.1)
  generalize ctrSet (ctrSet (ctrSet r2.2.2 a.c.home a.c.addr 351 320 r0.1) a.c.home a.c.addr 383 352 r1.1) a.c.home a.c.addr 415 384 r2.1 = d2
    at hbounds ⊢
  have hdead := (hbounds.trans (starting_ctrSet a d2 (hi := 439) (lo := 439) (by decide) (by decide) (by decide) 1)).trans
    (starting_ctrSet a _ (hi := 438) (lo := 438) (by decide) (by decide) (by decide) 1)
  split
  · exact hdead.trans (starting_failJob ..)
  split
  · exact hdead.trans (starting_failJob ..)
  · exact (((((hbounds.trans
      (starting_ctrSet a _ (by decide) (by decide) (by decide) _)).trans
      (starting_ctrSet a _ (by decide) (by decide) (by decide) _)).trans
      (starting_ctrSet a _ (by decide) (by decide) (by decide) _)).trans
      (starting_ctrSet a _ (by decide) (by decide) (by decide) _)).trans
      (starting_ctrSet a _ (by decide) (by decide) (by decide) _)).trans
      (starting_ctrSet a _ (by decide) (by decide) (by decide) _)

/-- The device after a start, but for the issuer's own state. -/
def startCounted (v : Variant) (j : Job) (a : AtInst) (d : Dev) : Dev :=
  let d0 := settleClear a.c.home d
  let d1 := ctrAtomic d0 a.c 431 416 (ctrStarters d0 a.c + 1)
  if ctrStarters d0 a.c = 0 then firstStart v j a d1 else d1

/-- The issuer's state after a start that the device `e` is left by. -/
def issuerStarted (a : AtInst) (code : Nat) (d e : Dev) (i : IssState) : IssState :=
  { i with stage := startedStage e a.c, run := [], lead := 0, due := false, swept := false, held := false,
           haloTo := d.num 0x20A0 1 10000, since := tget 0 d.hubTimer (issuerHub code) }

/-- A start. -/
def startInst (v : Variant) (j : Job) (a : AtInst) (code : Nat) (d : Dev) : Dev :=
  modIss j.id code (issuerStarted a code (settleClear a.c.home d) (startCounted v j a d)) (startCounted v j a d)

theorem ctrStarters_counted (d : Dev) (c : CtrEntry) {n : Nat} (h : n < 2 ^ 16) : ctrStarters (ctrAtomic d c 431 416 n) c = n := by
  rw [ctrStarters, ctrField_ctrAtomic d c (by decide) (by decide)]
  exact Nat.mod_eq_of_lt h

/-- A start counts one starter more, and changes what a start may change. -/
structure StartCounted (a : AtInst) (d0 d e : Dev) : Prop where
  frame : e = { d with spad := e.spad, banks := e.banks, jobs := e.jobs, mem := e.mem, ctr := e.ctr, out := e.out, free := e.free,
                       waits := e.waits, gone := e.gone, remote := e.remote, rooms := e.rooms }
  starters : ctrStarters e a.c = ctrStarters d0 a.c + 1
  still : NoWindow d → e.waits = d.waits

theorem Starting.counted {a : AtInst} {d d0 d1 e : Dev} (h : Starting a d1 e) (h1 : d1 = { d with spad := d1.spad, banks := d1.banks, ctr := d1.ctr })
    (hs : ctrStarters d1 a.c = ctrStarters d0 a.c + 1) : StartCounted a d0 d e where
  frame := by rw [h.frame, h1]
  starters := h.starters.trans hs
  still hn := (h.still (by rw [NoWindow, h1]; exact hn)).trans (by rw [h1])

theorem startCounted_of_settled (v : Variant) (j : Job) (a : AtInst) {d d0 d1 : Dev} (hq : NoTileWaits d)
    (hset : d0 = { d with spad := d0.spad, banks := d0.banks }) (hat : d1 = { d0 with spad := d1.spad, ctr := d1.ctr })
    (hs : ctrStarters d1 a.c = ctrStarters d0 a.c + 1) :
    StartCounted a d0 d (if ctrStarters d0 a.c = 0 then firstStart v j a d1 else d1) := by
  have h1 : d1 = { d with spad := d1.spad, banks := d1.banks, ctr := d1.ctr } := by rw [hat, hset]
  have hq1 : NoTileWaits d1 := by
    rw [h1]
    exact hq
  split
  · exact (starting_firstStart v j a hq1).counted h1 hs
  · exact Starting.counted ⟨rfl, rfl, fun _ => rfl⟩ h1 hs

theorem startCounted_counted (v : Variant) (j : Job) (a : AtInst) {d : Dev} (hq : NoTileWaits d)
    (hlt : ctrStarters (settleClear a.c.home d) a.c + 1 < 2 ^ 16) :
    StartCounted a (settleClear a.c.home d) d (startCounted v j a d) :=
  startCounted_of_settled v j a hq (settleClear_frame a.c.home d) (ctrAtomic_frame ..) (ctrStarters_counted (settleClear a.c.home d) a.c hlt)

section
variable {s : State} {code : Nat} {j : Job} {i : IssState} {a : AtInst} (hj : issuerJob s.dev code = some (j, i))
  (ha : atInst s.dev j i = some a) (hm : mayAct s.dev j i = true)
include hj ha hm

theorem instructionStartOp_eq (hs : i.stage = .start ∨ i.stage = .released)
    (hw : a.sh.wait = 0 ∨ i.stage = .released ∨ ∃ w, ctrOfJob s.dev j a.sh.wait = some w ∧ ctrComplete s.dev w = true) :
    instructionStartOp s.variant code s.dev = reading { issuer := code, tile := none, src := issuerEndpoint code } s.dev
      (startInst s.variant j a code) := by
  have hdone : (a.sh.wait = 0 || i.stage = .released || (ctrOfJob s.dev j a.sh.wait).elim true (fun w => ctrComplete s.dev w)) = true := by
    rcases hw with h | h | ⟨w, h, hc⟩
    · simp [h]
    · simp [h]
    · rw [h, Option.elim_some, hc, Bool.or_true]
  unfold instructionStartOp
  rw [hj]
  dsimp only
  rw [ha]
  exact if_pos ⟨hs, hdone, hm⟩

theorem instruction_started (hq : NoTileWaits s.dev) (hs : i.stage = .start ∨ i.stage = .released)
    (hw : a.sh.wait = 0 ∨ i.stage = .released ∨ ∃ w, ctrOfJob s.dev j a.sh.wait = some w ∧ ctrComplete s.dev w = true)
    (hlt : ctrStarters (settleClear a.c.home s.dev) a.c + 1 < 2 ^ 16) :
    ∃ t, exec (.instructionStart code) s = .next t ∧ t = s.on t.dev ∧
      (Waits s.dev t.dev ∨
       ctrStarters t.dev a.c = ctrStarters (settleClear a.c.home s.dev) a.c + 1 ∧
       t.dev = { s.dev with spad := t.dev.spad, banks := t.dev.banks, jobs := t.dev.jobs, mem := t.dev.mem, ctr := t.dev.ctr,
                            out := t.dev.out, free := t.dev.free, waits := t.dev.waits, gone := t.dev.gone,
                            remote := t.dev.remote, rooms := t.dev.rooms } ∧
       ∀ y ∈ t.dev.jobs, y.id = j.id → ∀ x ∈ y.iss, x.issuer = code →
         x.stage = startedStage t.dev a.c ∧ x.run = [] ∧ x.haloTo = s.dev.num 0x20A0 1 10000) := by
  have hset := settleClear_frame a.c.home (fresh s.dev)
  have hspad : (settleClear a.c.home (fresh s.dev)).spad = (settleClear a.c.home s.dev).spad := by
    show (if (s.dev.sbank a.c.home).clearing then _ else _ : Dev).spad = (if (s.dev.sbank a.c.home).clearing then _ else _ : Dev).spad
    split <;> rfl
  have hfield : ctrStarters (settleClear a.c.home (fresh s.dev)) a.c = ctrStarters (settleClear a.c.home s.dev) a.c := by
    rw [ctrStarters, ctrField, Dev.sreadNat, Dev.sread, hspad]
    rfl
  obtain ⟨hframe, hstarters, hstill⟩ := startCounted_counted s.variant j a (d := fresh s.dev) hq (by rw [hfield]; exact hlt)
  rw [hfield] at hstarters
  refine ⟨_, exec_instructionStart s code, ?_⟩
  simp only [State.on_dev]
  rw [instructionStartOp_eq hj ha hm hs hw]
  refine ⟨trivial, ?_⟩
  have hmod : startInst s.variant j a code (fresh s.dev) = modIss j.id code
    (issuerStarted a code (settleClear a.c.home (fresh s.dev)) (startCounted s.variant j a (fresh s.dev)))
    (startCounted s.variant j a (fresh s.dev)) := rfl
  have hnum : (settleClear a.c.home (fresh s.dev)).num 0x20A0 1 10000 = s.dev.num 0x20A0 1 10000 := by rw [hset]; rfl
  generalize settleClear a.c.home (fresh s.dev) = d0 at hmod hnum
  generalize startCounted s.variant j a (fresh s.dev) = e at hframe hstarters hstill hmod
  cases hwe : e.waits with
  | true =>
    refine .inl ?_
    rw [reading_waits (by rw [hmod]; exact hwe)]
    exact ⟨fun hn => Bool.false_ne_true ((hstill hn).symm.trans hwe), rfl⟩
  | false =>
    refine .inr ?_
    rw [reading_done (by rw [hmod]; exact hwe), usedRemote_frame, hmod]
    refine ⟨hstarters, ?_, fun y hy hid x hx hc => ?_⟩
    · rw [hframe]
      rfl
    · obtain ⟨z, -, -, k, -, -, rfl⟩ := modIss_mem (d := e) hy hid hx hc
      exact ⟨rfl, rfl, hnum⟩

omit hm in
theorem ready_poll_waits (hr : ctrReady s.dev a.c = false) : exec (.counterReadyPoll code) s = .next s := by
  have hop : counterReadyPollOp code s.dev = s.dev := by
    unfold counterReadyPollOp
    rw [hj]
    dsimp only
    rw [ha]
    exact if_neg fun h => Bool.false_ne_true (hr.symm.trans h.2.2)
  rw [exec_counterReadyPoll, hop, State.on_self]

theorem ready_poll_goes_on (hs : i.stage = .waitReady) (hr : ctrReady s.dev a.c = true) :
    ∃ t, exec (.counterReadyPoll code) s = .next t ∧ t = s.on { s.dev with jobs := t.dev.jobs, ctr := t.dev.ctr } ∧
      Counted s.dev t.dev 0x2095 (issuerSs code) (waitedFor s.dev code i) ∧
      ∀ y ∈ t.dev.jobs, y.id = j.id → ∀ x ∈ y.iss, x.issuer = code → x.stage = startedStage s.dev a.c := by
  have hop : counterReadyPollOp code s.dev = (modIss j.id code (fun x => { x with stage := startedStage s.dev a.c }) s.dev).count 0x2095
      (issuerSs code) (waitedFor s.dev code i) := by
    unfold counterReadyPollOp
    rw [hj]
    dsimp only
    rw [ha]
    exact if_pos ⟨hs, hm, hr⟩
  refine ⟨_, exec_counterReadyPoll s code, ?_⟩
  rw [hop]
  refine ⟨rfl, counted_count_of (d := s.dev) rfl _ _ _, fun y hy hid x hx hc => ?_⟩
  obtain ⟨z, -, -, k, -, -, rfl⟩ := modIss_mem (d := s.dev) hy hid hx hc
  rfl

variable {w : CtrEntry} (waited : Nat) (hs : i.stage = .start) (hn : a.sh.wait ≠ 0) (hw : ctrOfJob s.dev j a.sh.wait = some w)
include hs hn hw

theorem counterWaitReleaseOp_eq : counterWaitReleaseOp code waited s.dev =
    if (ctrReady s.dev w && ctrDead s.dev w) = true then
      (modIss j.id code (fun x => { x with stage := .stopped }) (s.dev.modJob j.id (fun x => { x with halted := true }))).count 0x2095
        (issuerSs code) waited
    else if ctrComplete s.dev w = true then
      (modIss j.id code (fun x => { x with stage := .released }) s.dev).count 0x2095 (issuerSs code) waited
    else s.dev := by
  unfold counterWaitReleaseOp
  rw [hj]
  dsimp only
  rw [ha]
  dsimp only
  rw [hw]
  exact if_pos ⟨hs, hn, hm⟩

theorem counter_still_awaited (hd : (ctrReady s.dev w && ctrDead s.dev w) = false) (hc : ctrComplete s.dev w = false) :
    exec (.counterWaitRelease code waited) s = .next s := by
  rw [exec_counterWaitRelease, counterWaitReleaseOp_eq hj ha hm waited hs hn hw, if_neg (ne_true_of_eq_false hd),
    if_neg (ne_true_of_eq_false hc), State.on_self]

theorem counter_wait_over (h : (ctrReady s.dev w && ctrDead s.dev w) = true ∨ ctrComplete s.dev w = true) :
    ∃ t, exec (.counterWaitRelease code waited) s = .next t ∧ t = s.on { s.dev with jobs := t.dev.jobs, ctr := t.dev.ctr } ∧
      Counted s.dev t.dev 0x2095 (issuerSs code) waited ∧
      ((ctrReady s.dev w && ctrDead s.dev w) = true → ∀ y ∈ t.dev.jobs, y.id = j.id → y.halted = true ∧
        ∀ x ∈ y.iss, x.issuer = code → x.stage = .stopped) ∧
      ((ctrReady s.dev w && ctrDead s.dev w) = false → ∀ y ∈ t.dev.jobs, y.id = j.id → ∀ x ∈ y.iss, x.issuer = code → x.stage = .released) := by
  refine ⟨_, exec_counterWaitRelease s code waited, ?_⟩
  rw [counterWaitReleaseOp_eq hj ha hm waited hs hn hw]
  by_cases hd : (ctrReady s.dev w && ctrDead s.dev w) = true
  · rw [if_pos hd]
    refine ⟨rfl, counted_count_of (d := s.dev) rfl _ _ _, fun _ y hy hid => ⟨?_, fun x hx hc => ?_⟩,
      fun hf => absurd hd (ne_true_of_eq_false hf)⟩
    · obtain ⟨z, hz, rfl⟩ := List.mem_map.mp hy
      obtain ⟨z', -, rfl⟩ := List.mem_map.mp hz
      by_cases hz' : z'.id = j.id
      · have hzid : ({ z' with halted := true } : Job).id = j.id := hz'
        rw [if_pos hz', if_pos hzid]
        rfl
      · rw [if_neg hz', if_neg hz'] at hid
        exact absurd hid hz'
    · obtain ⟨z, -, -, k, -, -, rfl⟩ := modIss_mem (d := s.dev.modJob j.id (fun x => { x with halted := true })) hy hid hx hc
      rfl
  · rw [if_neg hd, if_pos (h.resolve_left hd)]
    refine ⟨rfl, counted_count_of (d := s.dev) rfl _ _ _, fun ht => absurd ht hd, fun _ y hy hid x hx hc => ?_⟩
    obtain ⟨z, -, -, k, -, -, rfl⟩ := modIss_mem (d := s.dev) hy hid hx hc
    rfl

end

/-- Settles O17: a start by what its latches touch, a poll and the end of a wait by the issuer's state. -/
theorem issuersStartInstructions : Obligations.IssuersStartInstructions :=
  fun _ _ _ _ _ hj ha hm => ⟨fun hq hs hw hlt => instruction_started hj ha hm hq hs hw hlt,
    fun hs => ⟨fun hr => ready_poll_waits hj ha hr, fun hr => ready_poll_goes_on hj ha hm hs hr⟩,
    fun _ waited hs hn hw => ⟨fun hd hc => counter_still_awaited hj ha hm waited hs hn hw hd hc,
      fun h => counter_wait_over hj ha hm waited hs hn hw h⟩⟩

end Sys2Proof.Machine

/-!
PROOFS for the pairing sides (R54, R92 to R94, R284, R299, R326).
-/
namespace Sys2Proof.Machine

open Sys2Proof

theorem exec_blockPairing (s : State) (at_ : PairIn) (tile : Nat) (blk : Option BlockAt) :
    exec (.blockPairing at_ tile blk) s = .next (s.on (blockPairingOp s.variant at_ tile blk s.dev)) := rfl

theorem exec_scaleEntryArrival (s : State) (at_ : PairIn) (tile : Nat) (entry : Option BlockAt) :
    exec (.scaleEntryArrival at_ tile entry) s = .next (s.on (scaleEntryArrivalOp s.variant at_ tile entry s.dev)) := rfl

/-! ### The pending requests of a reader alone are other than before -/

/-- Nothing but the requests to remote windows is other than before. -/
def RemoteOnly (d e : Dev) : Prop := e = { d with remote := e.remote }

theorem RemoteOnly.refl (d : Dev) : RemoteOnly d d := rfl

theorem remoteOnly_usedRemote (rd : Reader) (d : Dev) : RemoteOnly d (usedRemote rd d) := usedRemote_frame rd d

theorem TileFailed.remote {d e f : Dev} {x : Tile} {status : BitVec 8} (h : TileFailed d e x status) (hf : RemoteOnly e f) :
    TileFailed d f x status := by
  obtain ⟨h1, h2, h3, h4⟩ := h
  rw [hf]
  exact ⟨by rw [h1], h2, h3, h4⟩

/-! ### A stream that does not align -/

theorem failTile_log (t : Tile) (status : BitVec 8) (d : Dev) : (failTile t status d).log = d.log := by
  have hleft : (removeTile t d).log = d.log := by rw [(tilesLeft_removeTile t d).frame]
  unfold failTile
  split <;> exact hleft

theorem misaligned_alignFault (t : Tile) (key dtag stag : Nat) (d : Dev) : Misaligned d (alignFault t key dtag stag d) key t dtag stag := by
  unfold alignFault
  dsimp only
  have hpost : (d.count 0x2044 (pairSs key) 1).post evStreamAlign (pairHub key) (pairUnit key) [(1, t.inst.phase), (1, dtag), (1, stag)] =
      { d with ctr := (d.count 0x2044 (pairSs key) 1).ctr, log := (d.post evStreamAlign (pairHub key) (pairUnit key)
        [(1, t.inst.phase), (1, dtag), (1, stag)]).log } := rfl
  rw [hpost]
  generalize hctr : (d.count 0x2044 (pairSs key) 1).ctr = ctr
  generalize hlog : (d.post evStreamAlign (pairHub key) (pairUnit key) [(1, t.inst.phase), (1, dtag), (1, stag)]).log = log
  refine ⟨TileFailed.after (d := d) (tileFailed_failTile t stStreamAlign _) rfl, ?_, ?_⟩
  · intro k
    rw [failTile_ctr, ← hctr]
    exact d.counted_count 0x2044 (pairSs key) 1 k
  · rw [Posted, failTile_log, ← hlog]
    exact d.posted_post ..

theorem Misaligned.remote {d e f : Dev} {key dtag stag : Nat} {x : Tile} (h : Misaligned d e key x dtag stag) (hf : RemoteOnly e f) :
    Misaligned d f key x dtag stag := by
  obtain ⟨h1, h2, h3⟩ := h
  refine ⟨TileFailed.remote h1 hf, ?_, ?_⟩
  · rw [hf]
    exact h2
  · rw [hf]
    exact h3

theorem alignFault_waits (t : Tile) (key dtag stag : Nat) (d : Dev) : (alignFault t key dtag stag d).waits = d.waits := failTile_waits ..

/-! ### Blocks and entries at a pairing side -/

theorem paired_setPairing (key : Nat) (p : Pairing) (d : Dev) : Paired d (setPairing key p d) key p :=
  ⟨tget_tput_same _ _ _ _, fun _ hk => tget_tput_other _ _ _ hk⟩

theorem Paired.remote {d e f : Dev} {key : Nat} {p : Pairing} (h : Paired d e key p) (hf : RemoteOnly e f) : Paired d f key p := by
  rw [hf]
  exact h

theorem joined_joinPair (x : Tile) (at_ : PairIn) (p : Pairing) (b : DataBlock) (e : BitVec 8) (d : Dev) :
    Joined d (joinPair x at_ p b e d) at_ x p b e := by
  cases at_ with
  | mac m => exact ⟨rfl, paired_setPairing m _ d⟩
  | lane g n second =>
    refine ⟨rfl, paired_setPairing _ p d, Dev.lane_setLane_same _ g n _, fun g' n' hne => Dev.lane_setLane_other _ _ hne⟩

theorem Joined.remote {d e f : Dev} {at_ : PairIn} {x : Tile} {p : Pairing} {b : DataBlock} {ex : BitVec 8} (h : Joined d e at_ x p b ex)
    (hf : RemoteOnly e f) : Joined d f at_ x p b ex := by
  cases at_ with
  | mac m =>
    obtain ⟨h1, h2⟩ := h
    exact ⟨by rw [hf, h1], Paired.remote h2 hf⟩
  | lane g n second =>
    obtain ⟨h1, h2, h3, h4⟩ := h
    refine ⟨by rw [hf, h1], Paired.remote h2 hf, ?_, fun g' n' hne => ?_⟩
    · rw [hf]
      exact h3
    · rw [hf]
      exact h4 g' n' hne

theorem joinPair_waits (x : Tile) (at_ : PairIn) (p : Pairing) (b : DataBlock) (e : BitVec 8) (d : Dev) :
    (joinPair x at_ p b e d).waits = d.waits := by
  cases at_ <;> rfl

theorem arriveBlock_waits (x : Tile) (at_ : PairIn) (p : Pairing) (b : DataBlock) (d : Dev) :
    (arriveBlock x at_ p (some b) d).waits = d.waits := by
  unfold arriveBlock
  dsimp only
  split
  · exact joinPair_waits ..
  split
  · split
    · exact joinPair_waits ..
    · exact alignFault_waits ..
  · split
    · exact alignFault_waits ..
    · rfl

theorem arriveScale_waits (x : Tile) (at_ : PairIn) (p : Pairing) (e : ScaleEntry) (d : Dev) :
    (arriveScale x at_ p (some e) d).waits = d.waits := by
  unfold arriveScale
  dsimp only
  split
  · split
    · exact joinPair_waits ..
    · exact alignFault_waits ..
  · split
    · exact alignFault_waits ..
    split <;> rfl

theorem neverWaits_blockElems {d e : Dev} (h : NeverWaits d e) (v : Variant) (t : Tile) (o k c1 : Nat) : NeverWaits d (blockElems v t o k c1 e).2 := by
  unfold blockElems
  generalize List.range 32 = is
  refine List.foldlRecOn (motive := fun r : List Fetched × Dev => NeverWaits d r.2) _ _ h fun r hr i _ => ?_
  exact hr.fetchOperand v t o [((32 * k + i : Nat) : Int), (c1 : Int)]

theorem neverWaits_fetchBlock {d e : Dev} (h : NeverWaits d e) (v : Variant) (t : Tile) (o k c1 : Nat) : NeverWaits d (fetchBlock v t o k c1 e).2 := by
  have hb := neverWaits_blockElems h v t o k c1
  unfold fetchBlock
  dsimp only
  exact hb

theorem neverWaits_sideBlock {d e : Dev} (h : NeverWaits d e) (v : Variant) (t : Tile) (at_ : PairIn) (b : BlockAt) :
    NeverWaits d (sideBlock v t at_ b e).2 := by
  unfold sideBlock
  split
  · next m =>
    unfold macroBlock
    dsimp only
    split
    · exact h
    · have hr := neverWaits_fetchBlock h v t 0 b.k b.c1
      generalize fetchBlock v t 0 b.k b.c1 e = r at hr ⊢
      split
      · exact hr
      · have hd : NeverWaits d (if r.1.1.dup.all (· = 0) then r.2 else { r.2 with free := r.2.free + 32 }) := kept_ite hr ⟨hr.allocs, hr.still⟩
        exact ⟨hd.allocs, hd.still⟩
  · next g n second =>
    have hb := neverWaits_fetchBlock h v t (pairOpnd (.lane g n second)) b.k b.c1
    unfold laneBlock
    dsimp only
    exact hb

theorem neverWaits_sideScale {d e : Dev} (h : NeverWaits d e) (v : Variant) (t : Tile) (at_ : PairIn) (b : BlockAt) :
    NeverWaits d (sideScale v t at_ b e).2 := by
  have hf : NeverWaits d (fetchScale v t (pairOpnd at_ + 1) b.k b.c1 e).2 := h.fetchOperand ..
  unfold sideScale
  dsimp only
  generalize fetchScale v t (pairOpnd at_ + 1) b.k b.c1 e = r at hf ⊢
  have hfetch : NeverWaits d ((if r.1.2 then none else some r.1.1, r.2) : Option ScaleEntry × Dev).2 := hf
  generalize ((if r.1.2 then none else some r.1.1, r.2) : Option ScaleEntry × Dev) = fetch at hfetch ⊢
  obtain ⟨o, d1⟩ := fetch
  cases at_ with
  | lane g n second => exact hfetch
  | mac m =>
    dsimp only
    cases tfind t.sentExp (sentKey m b.k b.c1) with
    | some y => exact h
    | none => cases o with
      | none => exact hfetch
      | some y => exact ⟨hfetch.allocs, hfetch.still⟩

/-- A block that an address generator brings arrives, or its poison fails the tile. -/
def sideArrives (v : Variant) (x : Tile) (at_ : PairIn) (p : Pairing) (n : BlockAt) (d : Dev) : Dev :=
  match sideBlock v x at_ n d with
  | (some b, d1) => arriveBlock x at_ p (some b) d1
  | (none, d1) => failRead x d1

/-- A scale entry that an address generator brings arrives, or its poison fails the tile. -/
def scaleArrives (v : Variant) (x : Tile) (at_ : PairIn) (p : Pairing) (n : BlockAt) (d : Dev) : Dev :=
  match sideScale v x at_ n d with
  | (some e, d1) => arriveScale x at_ p (some e) d1
  | (none, d1) => failRead x d1

theorem sideArrives_waits (v : Variant) (x : Tile) (at_ : PairIn) (p : Pairing) (n : BlockAt) (d : Dev) :
    (sideArrives v x at_ p n d).waits = (sideBlock v x at_ n d).2.waits := by
  unfold sideArrives
  cases h : sideBlock v x at_ n d with
  | mk o d1 => cases o with
    | some b => exact arriveBlock_waits ..
    | none => exact failRead_waits ..

theorem scaleArrives_waits (v : Variant) (x : Tile) (at_ : PairIn) (p : Pairing) (n : BlockAt) (d : Dev) :
    (scaleArrives v x at_ p n d).waits = (sideScale v x at_ n d).2.waits := by
  unfold scaleArrives
  cases h : sideScale v x at_ n d with
  | mk o d1 => cases o with
    | some b => exact arriveScale_waits ..
    | none => exact failRead_waits ..

/-- A step that waits with its reads, whatever else they touch. -/
theorem NeverWaits.waiting {d r : Dev} (h : NeverWaits (fresh d) r) (hw : r.waits = true) {rd : Reader} {f : Dev → Dev}
    (hf : (f (fresh d)).waits = r.waits) : Waits d (reading rd d f) := by
  rw [reading_waits (hf.trans hw)]
  exact ⟨fun hn => Bool.false_ne_true ((h.still hn).symm.trans hw), rfl⟩

section
variable {s : State} {at_ : PairIn} {tile : Nat} {x : Tile} {p : Pairing} (hx : s.dev.tileOf tile = some x) (hs : x.stage = .issued)
  (hf : feeds s.dev x at_ = true) (hr : pairRuns s.dev at_ = true) (hp : pairingFor s.dev (pairKey at_) tile = some p)
include hx hs hf hr hp

theorem blockPairingOp_eq (hd : p.dataEnded = false) (blk : Option BlockAt) : blockPairingOp s.variant at_ tile blk s.dev =
    blk.elim (arriveBlock x at_ p none s.dev) fun n =>
      if takesBlock s.dev x at_ n = false ∨ inputFull s.dev at_ = true then s.dev
      else if n.product = 2 then (midBlock s.dev x n.k n.c1).elim s.dev (fun b => arriveBlock x at_ p (some b) s.dev)
      else if (!blockHere s.variant s.dev x (pairOpnd at_) n.k n.c1) = true then s.dev
      else reading x.reader s.dev (sideArrives s.variant x at_ p n) := by
  unfold blockPairingOp
  rw [hx, hp]
  refine (if_neg (by rw [hs, hf, hr, hd]; simp)).trans ?_
  cases blk <;> rfl

theorem scaleEntryArrivalOp_eq (hd : p.scaleEnded = false) (entry : Option BlockAt) : scaleEntryArrivalOp s.variant at_ tile entry s.dev =
    entry.elim (arriveScale x at_ p none s.dev) fun n =>
      if takesBlock s.dev x at_ n = false then s.dev
      else if n.product = 2 then (midScale s.dev x n.k n.c1).elim s.dev (fun e => arriveScale x at_ p (some e) s.dev)
      else reading x.reader s.dev (scaleArrives s.variant x at_ p n) := by
  unfold scaleEntryArrivalOp
  rw [hx, hp]
  refine (if_neg (by rw [hs, hf, hr, hd]; simp)).trans ?_
  cases entry <;> rfl

/-- What a block that comes leaves. -/
theorem block_arrives (hd : p.dataEnded = false) {n : BlockAt} {b : DataBlock} {d : Dev} (hc : BlockComes s.variant s.dev at_ x n b d) :
    ∃ t, exec (.blockPairing at_ tile (some n)) s = .next t ∧ t = s.on t.dev ∧ RemoteOnly (arriveBlock x at_ p (some b) d) t.dev := by
  obtain ⟨htakes, hfull, hway⟩ := hc
  refine ⟨_, exec_blockPairing .., rfl, ?_⟩
  simp only [State.on_dev]
  rw [blockPairingOp_eq hx hs hf hr hp hd, Option.elim_some, if_neg (by rw [htakes, hfull]; decide)]
  rcases hway with ⟨h2, hmid, rfl⟩ | ⟨h2, hhere, hside, hw⟩
  · rw [if_pos h2, hmid]
    exact RemoteOnly.refl _
  · have harr : sideArrives s.variant x at_ p n (fresh s.dev) = arriveBlock x at_ p (some b) d := by
      unfold sideArrives
      rw [hside]
    rw [if_neg h2, if_neg (by rw [hhere]; decide), reading_done (by rw [harr, arriveBlock_waits]; exact hw), harr]
    exact remoteOnly_usedRemote ..

/-- What a scale entry that comes leaves. -/
theorem scale_arrives (hd : p.scaleEnded = false) {n : BlockAt} {e : ScaleEntry} {d : Dev} (hc : ScaleComes s.variant s.dev at_ x n e d) :
    ∃ t, exec (.scaleEntryArrival at_ tile (some n)) s = .next t ∧ t = s.on t.dev ∧ RemoteOnly (arriveScale x at_ p (some e) d) t.dev := by
  obtain ⟨htakes, hway⟩ := hc
  refine ⟨_, exec_scaleEntryArrival .., rfl, ?_⟩
  simp only [State.on_dev]
  rw [scaleEntryArrivalOp_eq hx hs hf hr hp hd, Option.elim_some, if_neg (by rw [htakes]; decide)]
  rcases hway with ⟨h2, hmid, rfl⟩ | ⟨h2, hside, hw⟩
  · rw [if_pos h2, hmid]
    exact RemoteOnly.refl _
  · have harr : scaleArrives s.variant x at_ p n (fresh s.dev) = arriveScale x at_ p (some e) d := by
      unfold scaleArrives
      rw [hside]
    rw [if_neg h2, reading_done (by rw [harr, arriveScale_waits]; exact hw), harr]
    exact remoteOnly_usedRemote ..

theorem block_joins (hd : p.dataEnded = false) {n : BlockAt} {b : DataBlock} {d : Dev} (hc : BlockComes s.variant s.dev at_ x n b d)
    (h1 : x.inst.func ≠ fMTHR) (h2 : x.inst.func ≠ fMPRED) {e : ScaleEntry} {rest : List ScaleEntry} (he : p.scales = e :: rest) :
    ∃ t, exec (.blockPairing at_ tile (some n)) s = .next t ∧ t = s.on t.dev ∧
      if e.tag = b.tag then Joined d t.dev at_ x { p with scales := rest } b e.exp
      else Misaligned d t.dev (pairKey at_) x b.tag.toNat e.tag.toNat := by
  obtain ⟨t, hex, hon, hrem⟩ := block_arrives hx hs hf hr hp hd hc
  refine ⟨t, hex, hon, ?_⟩
  have harr : arriveBlock x at_ p (some b) d = if e.tag = b.tag then joinPair x at_ { p with scales := rest } b e.exp d
      else alignFault x (pairKey at_) b.tag.toNat e.tag.toNat d := by
    unfold arriveBlock
    dsimp only
    rw [if_neg (not_or.mpr ⟨h1, h2⟩), he]
  rw [harr] at hrem
  split
  next ht =>
    rw [if_pos ht] at hrem
    exact Joined.remote (joined_joinPair ..) hrem
  next ht =>
    rw [if_neg ht] at hrem
    exact Misaligned.remote (misaligned_alignFault ..) hrem

theorem block_waits_for_scale (hd : p.dataEnded = false) {n : BlockAt} {b : DataBlock} {d : Dev} (hc : BlockComes s.variant s.dev at_ x n b d)
    (h1 : x.inst.func ≠ fMTHR) (h2 : x.inst.func ≠ fMPRED) (he : p.scales = []) :
    ∃ t, exec (.blockPairing at_ tile (some n)) s = .next t ∧ t = s.on t.dev ∧
      if p.scaleEnded then Misaligned d t.dev (pairKey at_) x b.tag.toNat 0xFF
      else t.dev = { d with pairs := t.dev.pairs, remote := t.dev.remote } ∧
        Paired d t.dev (pairKey at_) { p with waiting := p.waiting ++ [b] } := by
  obtain ⟨t, hex, hon, hrem⟩ := block_arrives hx hs hf hr hp hd hc
  refine ⟨t, hex, hon, ?_⟩
  have harr : arriveBlock x at_ p (some b) d = if p.scaleEnded then alignFault x (pairKey at_) b.tag.toNat 0xFF d
      else setPairing (pairKey at_) { p with waiting := p.waiting ++ [b] } d := by
    unfold arriveBlock
    dsimp only
    rw [if_neg (not_or.mpr ⟨h1, h2⟩), he]
  rw [harr] at hrem
  split
  next ht =>
    rw [if_pos ht] at hrem
    exact Misaligned.remote (misaligned_alignFault ..) hrem
  next ht =>
    rw [if_neg ht] at hrem
    exact ⟨by rw [hrem]; rfl, Paired.remote (paired_setPairing ..) hrem⟩

theorem threshold_block_joins (hd : p.dataEnded = false) {n : BlockAt} {b : DataBlock} {d : Dev}
    (hc : BlockComes s.variant s.dev at_ x n b d) (h : x.inst.func = fMTHR ∨ x.inst.func = fMPRED) :
    ∃ t, exec (.blockPairing at_ tile (some n)) s = .next t ∧ t = s.on t.dev ∧
      Joined d t.dev at_ x { p with scaleEnded := true } b (BitVec.ofNat 8 x.prm.texp) := by
  obtain ⟨t, hex, hon, hrem⟩ := block_arrives hx hs hf hr hp hd hc
  refine ⟨t, hex, hon, ?_⟩
  have harr : arriveBlock x at_ p (some b) d = joinPair x at_ { p with scaleEnded := true } b (BitVec.ofNat 8 x.prm.texp) d := by
    unfold arriveBlock
    dsimp only
    rw [if_pos h]
  rw [harr] at hrem
  exact Joined.remote (joined_joinPair ..) hrem

theorem block_waits_for_room {n : BlockAt} (hfull : inputFull s.dev at_ = true) : exec (.blockPairing at_ tile (some n)) s = .next s := by
  have hop : blockPairingOp s.variant at_ tile (some n) s.dev = s.dev := by
    cases hd : p.dataEnded with
    | false => rw [blockPairingOp_eq hx hs hf hr hp hd, Option.elim_some, if_pos (.inr hfull)]
    | true =>
      unfold blockPairingOp
      rw [hx, hp]
      exact if_pos (by rw [hd]; simp)
  rw [exec_blockPairing, hop, State.on_self]

theorem block_read (hd : p.dataEnded = false) {n : BlockAt} (htakes : takesBlock s.dev x at_ n = true) (hfull : inputFull s.dev at_ = false)
    (h2 : n.product ≠ 2) (hhere : blockHere s.variant s.dev x (pairOpnd at_) n.k n.c1 = true) :
    let r := sideBlock s.variant x at_ n (fresh s.dev)
    ∃ t, exec (.blockPairing at_ tile (some n)) s = .next t ∧
      (r.2.waits = true → Waits s.dev t.dev) ∧ (r.2.waits = false → r.1 = none → Poisoned t.dev x) := by
  intro r
  have hnever := neverWaits_sideBlock (d := fresh s.dev) ⟨rfl, fun _ => rfl⟩ s.variant x at_ n
  have hwaits := sideArrives_waits s.variant x at_ p n (fresh s.dev)
  refine ⟨_, exec_blockPairing .., ?_⟩
  simp only [State.on_dev]
  rw [blockPairingOp_eq hx hs hf hr hp hd, Option.elim_some, if_neg (by rw [htakes, hfull]; decide), if_neg h2,
    if_neg (by rw [hhere]; decide)]
  refine ⟨fun hw => hnever.waiting hw hwaits, fun hw hn => ?_⟩
  rw [reading_done (hwaits.trans hw)]
  have hfail : sideArrives s.variant x at_ p n (fresh s.dev) = failRead x r.2 := by
    unfold sideArrives
    rw [show sideBlock s.variant x at_ n (fresh s.dev) = (none, r.2) from Prod.ext hn rfl]
  rw [hfail]
  exact Poisoned.used (poisoned_failRead ..) _

theorem scale_read (hd : p.scaleEnded = false) {n : BlockAt} (htakes : takesBlock s.dev x at_ n = true) (h2 : n.product ≠ 2) :
    let r := sideScale s.variant x at_ n (fresh s.dev)
    ∃ t, exec (.scaleEntryArrival at_ tile (some n)) s = .next t ∧
      (r.2.waits = true → Waits s.dev t.dev) ∧ (r.2.waits = false → r.1 = none → Poisoned t.dev x) := by
  intro r
  have hnever := neverWaits_sideScale (d := fresh s.dev) ⟨rfl, fun _ => rfl⟩ s.variant x at_ n
  have hwaits := scaleArrives_waits s.variant x at_ p n (fresh s.dev)
  refine ⟨_, exec_scaleEntryArrival .., ?_⟩
  simp only [State.on_dev]
  rw [scaleEntryArrivalOp_eq hx hs hf hr hp hd, Option.elim_some, if_neg (by rw [htakes]; decide), if_neg h2]
  refine ⟨fun hw => hnever.waiting hw hwaits, fun hw hn => ?_⟩
  rw [reading_done (hwaits.trans hw)]
  have hfail : scaleArrives s.variant x at_ p n (fresh s.dev) = failRead x r.2 := by
    unfold scaleArrives
    rw [show sideScale s.variant x at_ n (fresh s.dev) = (none, r.2) from Prod.ext hn rfl]
  rw [hfail]
  exact Poisoned.used (poisoned_failRead ..) _

theorem data_ends (hd : p.dataEnded = false) : ∃ t, exec (.blockPairing at_ tile none) s = .next t ∧ t = s.on t.dev ∧
    match p.scales with
    | e :: _ => Misaligned s.dev t.dev (pairKey at_) x 0xFF e.tag.toNat
    | [] => t.dev = { s.dev with pairs := t.dev.pairs } ∧ Paired s.dev t.dev (pairKey at_) { p with dataEnded := true } := by
  refine ⟨_, exec_blockPairing .., rfl, ?_⟩
  simp only [State.on_dev]
  rw [blockPairingOp_eq hx hs hf hr hp hd, Option.elim_none]
  unfold arriveBlock
  dsimp only
  cases p.scales with
  | nil => exact ⟨rfl, paired_setPairing ..⟩
  | cons e rest => exact misaligned_alignFault ..

theorem scales_end (hd : p.scaleEnded = false) : ∃ t, exec (.scaleEntryArrival at_ tile none) s = .next t ∧ t = s.on t.dev ∧
    match p.waiting with
    | b :: _ => Misaligned s.dev t.dev (pairKey at_) x b.tag.toNat 0xFF
    | [] => t.dev = { s.dev with pairs := t.dev.pairs } ∧ Paired s.dev t.dev (pairKey at_) { p with scaleEnded := true } := by
  refine ⟨_, exec_scaleEntryArrival .., rfl, ?_⟩
  simp only [State.on_dev]
  rw [scaleEntryArrivalOp_eq hx hs hf hr hp hd, Option.elim_none]
  unfold arriveScale
  dsimp only
  cases p.waiting with
  | nil => exact ⟨rfl, paired_setPairing ..⟩
  | cons b rest => exact misaligned_alignFault ..

theorem scale_joins (hd : p.scaleEnded = false) {n : BlockAt} {e : ScaleEntry} {d : Dev} (hc : ScaleComes s.variant s.dev at_ x n e d)
    {b : DataBlock} {rest : List DataBlock} (hb : p.waiting = b :: rest) :
    ∃ t, exec (.scaleEntryArrival at_ tile (some n)) s = .next t ∧ t = s.on t.dev ∧
      if e.tag = b.tag then Joined d t.dev at_ x { p with waiting := rest } b e.exp
      else Misaligned d t.dev (pairKey at_) x b.tag.toNat e.tag.toNat := by
  obtain ⟨t, hex, hon, hrem⟩ := scale_arrives hx hs hf hr hp hd hc
  refine ⟨t, hex, hon, ?_⟩
  have harr : arriveScale x at_ p (some e) d = if e.tag = b.tag then joinPair x at_ { p with waiting := rest } b e.exp d
      else alignFault x (pairKey at_) b.tag.toNat e.tag.toNat d := by
    unfold arriveScale
    dsimp only
    rw [hb]
  rw [harr] at hrem
  split
  next ht =>
    rw [if_pos ht] at hrem
    exact Joined.remote (joined_joinPair ..) hrem
  next ht =>
    rw [if_neg ht] at hrem
    exact Misaligned.remote (misaligned_alignFault ..) hrem

theorem scale_waits_for_block (hd : p.scaleEnded = false) {n : BlockAt} {e : ScaleEntry} {d : Dev}
    (hc : ScaleComes s.variant s.dev at_ x n e d) (hb : p.waiting = []) (hl : p.scales.length < 8) :
    ∃ t, exec (.scaleEntryArrival at_ tile (some n)) s = .next t ∧ t = s.on t.dev ∧
      if p.dataEnded then Misaligned d t.dev (pairKey at_) x 0xFF e.tag.toNat
      else t.dev = { d with pairs := t.dev.pairs, remote := t.dev.remote } ∧
        Paired d t.dev (pairKey at_) { p with scales := p.scales ++ [e] } := by
  obtain ⟨t, hex, hon, hrem⟩ := scale_arrives hx hs hf hr hp hd hc
  refine ⟨t, hex, hon, ?_⟩
  have harr : arriveScale x at_ p (some e) d = if p.dataEnded then alignFault x (pairKey at_) 0xFF e.tag.toNat d
      else setPairing (pairKey at_) { p with scales := p.scales ++ [e] } d := by
    unfold arriveScale
    dsimp only
    rw [hb]
    dsimp only
    rw [if_neg (by omega : ¬p.scales.length ≥ 8)]
  rw [harr] at hrem
  split
  next ht =>
    rw [if_pos ht] at hrem
    exact Misaligned.remote (misaligned_alignFault ..) hrem
  next ht =>
    rw [if_neg ht] at hrem
    exact ⟨by rw [hrem]; rfl, Paired.remote (paired_setPairing ..) hrem⟩

end

/-- Settles O21: what comes arrives at the pairing side, which joins it, keeps it or fails its tile; the reads behind it leave only requests. -/
theorem pairingFollowsTags : Obligations.PairingFollowsTags := by
  intro s at_ tile x p hx hs hf hr hp
  refine ⟨fun n b d hd hc => ⟨fun h1 h2 e rest he => block_joins hx hs hf hr hp hd hc h1 h2 he,
    fun h1 h2 he => block_waits_for_scale hx hs hf hr hp hd hc h1 h2 he, fun h => threshold_block_joins hx hs hf hr hp hd hc h⟩,
    fun n hfull => block_waits_for_room hx hs hf hr hp hfull, fun n hd ht hfull h2 hh => block_read hx hs hf hr hp hd ht hfull h2 hh,
    fun hd => data_ends hx hs hf hr hp hd, fun n e d hd hc => ⟨fun b rest hb => scale_joins hx hs hf hr hp hd hc hb,
      fun hb hl => scale_waits_for_block hx hs hf hr hp hd hc hb hl⟩, fun n hd ht h2 => scale_read hx hs hf hr hp hd ht h2,
    fun hd => scales_end hx hs hf hr hp hd⟩

end Sys2Proof.Machine

/-!
PROOFS for the admission of a block (R36 to R38, R83, R108, R284, R299, R326).
-/
namespace Sys2Proof.Machine

open Sys2Proof

theorem exec_blockAdmit (s : State) (m tile vec ovec : Nat) :
    exec (.blockAdmit m tile vec ovec) s = .next (s.on (blockAdmitOp s.variant m tile vec ovec s.dev)) := rfl

/-! ### What holds through the accesses of device memory -/

/-- What holds of a device through every access of device memory and of a remote window: it outlasts changes of the memory, the counters, the
outputs and the requests, and the failure of a tile. -/
structure AccessKept (d : Dev) (R : Dev → Prop) : Prop where
  allocs : ∀ e, R e → e.allocs = d.allocs
  quiet : ∀ e, R e → ∀ mem ctr out free waits gone coal remote rooms,
    R { e with mem := mem, ctr := ctr, out := out, free := free, waits := waits, gone := gone, coal := coal, remote := remote, rooms := rooms }
  fails : ∀ e, R e → ∀ t status, R (failTile t status e)

section
variable {d e : Dev} {R : Dev → Prop} (k : AccessKept d R)
include k

theorem AccessKept.installLine (h : R e) (slice line policy : Nat) (data : Bytes) (dirty poison : Bool) :
    R (installLine slice line policy data dirty poison e) := by
  unfold Machine.installLine
  extract_lets hub pins full d0
  have h0 : R d0 := kept_ite (k.quiet e h ..) h
  split
  · exact h0
  · exact kept_ite (k.quiet d0 h0 ..) (k.quiet d0 h0 ..)

theorem AccessKept.fillFrom (h : R e) (slice line policy : Nat) : R (fillFrom slice line policy e) := k.installLine (k.quiet e h ..) ..

theorem AccessKept.accessHit (h : R e) (fresh : Bool) (slice line : Nat) (off len : Nat) (op : MemOp) :
    R (accessHit fresh slice line off len op e).2.2 := by
  unfold Machine.accessHit
  split
  · exact h
  split
  · exact h
  · exact k.quiet e h ..

theorem AccessKept.serveWaiting (h : R e) (w : Waiting × Nat) : R (serveWaiting e w) := by
  unfold Machine.serveWaiting
  split
  · exact h
  · have ha := k.accessHit h (decide (w.2 = 0)) w.1.slice w.1.line w.1.off w.1.len w.1.op
    generalize Machine.accessHit (decide (w.2 = 0)) w.1.slice w.1.line w.1.off w.1.len w.1.op e = a at ha ⊢
    unfold respond
    dsimp only
    split
    · split
      · exact k.fails _ (k.quiet a.2.2 ha ..) ..
      · exact k.quiet a.2.2 ha ..
    · exact k.quiet a.2.2 ha ..

theorem AccessKept.serveFirst (h : R e) (slice line policy : Nat) : R (serveFirst slice line policy e) := by
  unfold Machine.serveFirst
  split
  · exact h
  · have hf : R (if (wayOf e.mem slice line).isSome then e else Machine.fillFrom slice line policy e) := kept_ite h (k.fillFrom h ..)
    exact List.foldlRecOn (motive := R) _ _ (k.quiet _ hf ..) fun e' he w _ => k.serveWaiting he w

theorem AccessKept.accessNow (h : R e) (v : Variant) (slice line : Nat) (off len : Nat) (op : MemOp) (policy : Nat) :
    R (accessNow v slice line off len op policy e).2.2 := by
  unfold Machine.accessNow
  split
  · exact k.quiet e h ..
  · have hs := k.serveFirst h slice line policy
    generalize Machine.serveFirst slice line policy e = f at hs ⊢
    unfold Machine.accessAlone
    dsimp only
    split
    · exact k.accessHit (k.quiet f hs ..) ..
    split
    · exact k.installLine (k.quiet f hs ..) ..
    split
    · exact k.quiet f hs ..
    · exact k.accessHit (k.fillFrom hs ..) ..

theorem AccessKept.devRead (h : R e) (v : Variant) (al : Alloc) (o n : Nat) : R (devRead v al o n e).2.2 := by
  unfold Machine.devRead
  refine List.foldlRecOn (motive := fun r : Bytes × Bool × Dev => R r.2.2) _ _ h fun r hr p _ => ?_
  split
  · exact hr
  · exact k.accessNow hr ..

theorem AccessKept.readRemote (h : R e) (al : Alloc) (rd : Reader) (o n : Nat) : R (readRemote al rd o n e).2.2 := by
  unfold Machine.readRemote reserveRoom
  dsimp only
  split
  · split
    · exact k.quiet e h ..
    · next hr =>
      split at hr
      · cases hr
        exact k.quiet e h ..
      · cases hr
  · split
    · exact k.quiet e h ..
    · exact h
    · exact k.quiet e h ..

theorem AccessKept.readKept : ReadKept d R where
  allocs := k.allocs
  devRead _ h v al o n := k.devRead h v al o n
  readRemote _ _ h al rd o n := k.readRemote h al rd o n
  count e h _ _ _ := k.quiet e h ..
  drawn e h := k.quiet e h ..

theorem AccessKept.fetchOperand (h : R e) (v : Variant) (t : Tile) (o : Nat) (c : List Int) : R (fetchOperand v t o c e).2 :=
  k.readKept.fetchOperand (fun e h _ => k.quiet e h ..) h v t o c

end

/-! ### What reads leave of a pairing side and its macro -/

/-- Tiles may have left from `d` to `e`: where tile `i` has not, a pairing side `m` of it is as it was, and every macro but for its block. -/
structure SideKept (i m : Nat) (d e : Dev) : Prop where
  allocs : e.allocs = d.allocs
  gone : (∀ y ∈ d.tiles, y.id ≠ i) → ∀ y ∈ e.tiles, y.id ≠ i
  side : (∃ y ∈ e.tiles, y.id = i) → (tget {} d.pairs m).tile = i → tget {} e.pairs m = tget {} d.pairs m
  macs : MacsKept d e
  outliers : ∀ w, (e.wedge w).xoOut = (d.wedge w).xoOut

theorem SideKept.refl (i m : Nat) (d : Dev) : SideKept i m d d := ⟨rfl, id, fun _ _ => rfl, MacsKept.refl d, fun _ => rfl⟩

theorem SideKept.trans {i m : Nat} {d e f : Dev} (h : SideKept i m d e) (h' : SideKept i m e f) : SideKept i m d f where
  allocs := h'.allocs.trans h.allocs
  gone hd := h'.gone (h.gone hd)
  side hf hp := by
    have he : ∃ y ∈ e.tiles, y.id = i := by
      by_contra hno
      obtain ⟨y, hy, hid⟩ := hf
      exact h'.gone (fun z hz hzi => hno ⟨z, hz, hzi⟩) y hy hid
    have h1 := h.side he hp
    rw [← h1]
    exact h'.side hf (by rw [h1]; exact hp)
  macs := h.macs.trans h'.macs
  outliers w := (h'.outliers w).trans (h.outliers w)

theorem tfind_filter_other {i : Nat} (t : Tab Pairing) (m k : Nat) (hk : k ≠ i) (hp : ∀ p, tfind t m = some p → p.tile = i) :
    tfind (t.filter fun e => e.2.tile ≠ k) m = tfind t m := by
  induction t with
  | nil => rfl
  | cons e t ih =>
    obtain ⟨k', p⟩ := e
    by_cases hkm : k' = m
    · have hpi : p.tile = i := hp p (by rw [tfind, if_pos hkm])
      rw [List.filter_cons_of_pos (by simpa [hpi] using hk.symm), tfind, tfind, if_pos hkm, if_pos hkm]
    · have hrest : ∀ p, tfind t m = some p → p.tile = i := fun q hq => hp q (by rw [tfind, if_neg hkm]; exact hq)
      by_cases hpk : p.tile = k
      · rw [List.filter_cons_of_neg (by simpa using hpk), ih hrest, tfind, if_neg hkm]
      · rw [List.filter_cons_of_pos (by simpa using hpk), tfind, tfind, if_neg hkm, if_neg hkm, ih hrest]

theorem removeTile_pairs (t : Tile) (d : Dev) : (removeTile t d).pairs = d.pairs.filter fun e => e.2.tile ≠ t.id := by
  have hw (l : List Nat) (e : Dev) : (l.foldl (fun d w => d.modWedge w fun g => { g with tiles := g.tiles.filter (· ≠ t.id) }) e).pairs = e.pairs :=
    List.foldlRecOn (motive := fun x : Dev => x.pairs = e.pairs) _ _ rfl fun _ he _ _ => he
  unfold removeTile
  dsimp only
  split
  · exact hw ..
  · exact hw ..

theorem sideKept_removeTile (i m : Nat) (t : Tile) (d : Dev) : SideKept i m d (removeTile t d) := by
  have hleft := tilesLeft_removeTile t d
  have htiles := removeTile_tiles t d
  have hpairs := removeTile_pairs t d
  refine ⟨by rw [hleft.frame], fun hd y hy => hd y (hleft.fewer.subset hy), fun ⟨y, hy, hid⟩ hp => ?_, hleft.mac,
    fun w => (congrArg Wedge.xoOut (hleft.wedge w) :)⟩
  rw [htiles] at hy
  have hti : t.id ≠ i := fun h => by
    have hy' := (List.mem_filter.mp hy).2
    rw [h, ← hid] at hy'
    simp at hy'
  rw [hpairs, tget, tfind_filter_other (i := i) d.pairs m t.id hti fun p hf => ?_]
  · rfl
  · rw [tget, hf] at hp
    exact hp

theorem accessKept_sideKept (i m : Nat) (d : Dev) : AccessKept d (SideKept i m d) where
  allocs _ h := h.allocs
  quiet _ h _ _ _ _ _ _ _ _ _ := h.trans ⟨rfl, id, fun _ _ => rfl, fun _ _ => .inl rfl, fun _ => rfl⟩
  fails e h t status := by
    refine h.trans ?_
    have hr := sideKept_removeTile i m t e
    unfold failTile
    split
    · exact hr
    · exact hr.trans ⟨rfl, id, fun _ _ => rfl, fun _ _ => .inl rfl, fun _ => rfl⟩

theorem kept_fetchOutliers {e : Dev} {R : Dev → Prop} (hk : ∀ e, R e → ∀ v t o c, R (fetchOperand v t o c e).2) (h : R e) (v : Variant) (t : Tile)
    (mat : Matrix) (rb ovec : Nat) : R (fetchOutliers v t mat rb ovec e).2 := by
  unfold fetchOutliers
  exact hk _ (List.foldlRecOn (motive := fun r : List (Nat × BitVec 16) × Bool × Dev => R r.2.2) _ _ h fun r hr _ _ => hk r.2.2 hr ..) ..

/-! ### The block that a macro takes -/

/-- A block as it enters its macro, before its first pass. -/
def admittedBlk (x : Tile) (k : Bank) (b : DataBlock) (e : BitVec 8) (vec : Nat) (rows : List Nat) (side : OutlierSide) : Blk :=
  { tile := x.id, vec := vec, rb := k.rb, cb := k.cb, q := maskedBlock b rows, exp := e,
    plane := if allZero (maskedBlock b rows) || maskedUnits x k b.product vec = 1024 then 8 else 0, pass := 0, amb := [], sums := [],
    outRows := outlierVals rows (if b.product = 2 then 32 else x.b2 - 32 * k.rb) side,
    outExp := side.exp, terms := [],
    termsDone := (outlierVals rows (if b.product = 2 then 32 else x.b2 - 32 * k.rb) side).isEmpty, product := b.product }

/-- The block that a macro has taken: with every unit of it masked nothing is to be done. -/
def takenBlk (x : Tile) (k : Bank) (product vec last : Nat) (blk : Blk) : Blk :=
  if maskedUnits x k product vec = 1024 then { blk with pass := 3 } else nextPass last 3 blk

/-- A macro that has taken a block. -/
def takingMacro (blk : Blk) (y : Macro) : Macro := { y with forcedDone := false, blk := some blk }

/-- The device with the counters of a block that a macro takes. -/
def admitCounted (m : Nat) (zero : Bool) (last : Nat) (vals : List (Nat × Int)) (d : Dev) : Dev :=
  if last = 3 then countResidues m vals (if zero then d.count 0x2023 (ssFacet (facetOfMacro m)) 1 else d)
  else if zero then d.count 0x2023 (ssFacet (facetOfMacro m)) 1 else d

theorem admitCounted_frame (m : Nat) (zero : Bool) (last : Nat) (vals : List (Nat × Int)) (d : Dev) :
    admitCounted m zero last vals d = { d with ctr := (admitCounted m zero last vals d).ctr } := by
  unfold admitCounted
  split
  · split <;> rfl
  · split <;> rfl

theorem admitCounted_residues (m : Nat) (zero : Bool) (vals : List (Nat × Int)) (d : Dev) :
    counterOf (admitCounted m zero 3 vals d) 0x2033 (ssFacet (facetOfMacro m)) = counterOf d 0x2033 (ssFacet (facetOfMacro m)) + 3 := by
  have hzero : counterOf (if zero then d.count 0x2023 (ssFacet (facetOfMacro m)) 1 else d) 0x2033 (ssFacet (facetOfMacro m)) =
      counterOf d 0x2033 (ssFacet (facetOfMacro m)) := by
    split
    · exact counterOf_count_entry d (by decide) _ 1
    · rfl
  unfold admitCounted countResidues
  rw [if_pos rfl, ← hzero]
  exact (counterOf_count_entry _ (by decide) _ _).trans (counterOf_counted (Dev.counted_count _ 0x2033 _ 3))

theorem outlierVals_isEmpty (rows : List Nat) (limit : Nat) (side : OutlierSide) : (outlierVals rows limit side).isEmpty = rows.isEmpty := by
  cases rows <;> rfl

theorem takeBlock_waits (m : Nat) (x : Tile) (product : Nat) (mat : Matrix) (vec : Nat) (side : OutlierSide) (d : Dev) :
    (takeBlock m x product mat vec side d).waits = d.waits := by
  have hcount (c c' : Prop) [Decidable c] [Decidable c'] (vals : List (Nat × Int)) (ss : Nat) (e : Dev) :
      (if c then countResidues m vals (if c' then e.count 0x2023 ss 1 else e) else if c' then e.count 0x2023 ss 1 else e).waits = e.waits := by
    split
    · split <;> rfl
    · split <;> rfl
  unfold takeBlock
  dsimp only
  split
  · rfl
  split
  · exact alignFault_waits ..
  · exact hcount ..

section
variable {d : Dev} {m vec : Nat} {x : Tile} {b : DataBlock} {e : BitVec 8} {rest : List (DataBlock × BitVec 8)} {mat : Matrix} {side : OutlierSide}
  (hp : (tget {} d.pairs m).paired = (b, e) :: rest)
include hp

/-- The outlier rows that the macro masks. -/
def admitRows (x : Tile) (product : Nat) (mat : Matrix) (rb : Nat) : List Nat := if streamsOutliers x product mat then outlierRows mat rb else []

theorem takeBlock_misaligned (hs : streamsOutliers x b.product mat = true) (ht : side.tag.toNat ≠ x.vecAt vec % 16) :
    takeBlock m x b.product mat vec side d = alignFault x m (x.vecAt vec % 16) side.tag.toNat d := by
  unfold takeBlock
  dsimp only
  rw [hp]
  refine if_pos ⟨hs, fun h => ht ?_⟩
  rw [h, BitVec.toNat_ofNat]

theorem takeBlock_takes (h : streamsOutliers x b.product mat = false ∨ side.tag.toNat = x.vecAt vec % 16) :
    let k := (d.mac m).active
    let rows := admitRows x b.product mat k.rb
    let blk := admittedBlk x k b e vec rows side
    let d1 := setPairing m { tget {} d.pairs m with paired := rest } d
    takeBlock m x b.product mat vec side d =
      (admitCounted m (allZero (maskedBlock b rows)) (lastPass d1 m blk) blk.outRows d1).modMac m
        (takingMacro (takenBlk x k b.product vec (lastPass d1 m blk) blk)) := by
  intro k rows blk d1
  have hno : ¬(streamsOutliers x b.product mat = true ∧ side.tag ≠ BitVec.ofNat 4 (x.vecAt vec)) := by
    rintro ⟨hs, ht⟩
    rcases h with h | h
    · exact Bool.false_ne_true (h.symm.trans hs)
    · exact ht (BitVec.eq_of_toNat_eq (by rw [BitVec.toNat_ofNat]; exact h))
  unfold takeBlock
  dsimp only
  rw [hp]
  refine (if_neg hno).trans ?_
  rfl

end

/-- A pass changes nothing of a block but its elements, its pass and its plane. -/
theorem nextPass_fixed (last n : Nat) (b : Blk) : ∃ pass q plane, nextPass last n b = { b with pass := pass, q := q, plane := plane } := by
  induction n generalizing b with
  | zero => exact ⟨_, _, _, rfl⟩
  | succ n ih =>
    unfold nextPass
    split
    · obtain ⟨pass, q, plane, h⟩ := ih { b with
        pass := b.pass + 1, q := residue (b.pass + 1) b.outRows, plane := if allZero (residue (b.pass + 1) b.outRows) then 8 else 0 }
      exact ⟨pass, q, plane, h⟩
    · exact ⟨_, _, _, rfl⟩

theorem takenBlk_fixed (x : Tile) (k : Bank) (product vec last : Nat) (blk : Blk) :
    ∃ pass q plane, takenBlk x k product vec last blk = { blk with pass := pass, q := q, plane := plane } := by
  unfold takenBlk
  split
  · exact ⟨_, _, _, rfl⟩
  · exact nextPass_fixed ..

theorem nextPass_none (n : Nat) (b : Blk) : nextPass 0 n b = b := by
  cases n with
  | zero => rfl
  | succ n => exact if_neg fun h => Nat.not_lt_zero _ h.2.2

section
variable {d : Dev} {m vec : Nat} {x : Tile} {b : DataBlock} {e : BitVec 8} {rest : List (DataBlock × BitVec 8)} {mat : Matrix} {side : OutlierSide}
  (hp : (tget {} d.pairs m).paired = (b, e) :: rest)
include hp

/-- What a macro that takes a block leaves. -/
theorem block_taken (h : streamsOutliers x b.product mat = false ∨ side.tag.toNat = x.vecAt vec % 16) {t : Dev}
    (ht : RemoteOnly (takeBlock m x b.product mat vec side d) t) :
    let k := (d.mac m).active
    let rows := admitRows x b.product mat k.rb
    let q := maskedBlock b rows
    let ss := ssFacet (facetOfMacro m)
    let off := maskedUnits x k b.product vec = 1024
    ∃ blk, t = { d with pairs := t.pairs, macros := t.macros, ctr := t.ctr, remote := t.remote } ∧
      Paired d t m { tget {} d.pairs m with paired := rest } ∧ OnlyMacro d t m ∧
      (t.mac m).blk = some blk ∧ (t.mac m).active = k ∧
      blk.tile = x.id ∧ blk.product = b.product ∧ blk.vec = vec ∧ blk.rb = k.rb ∧ blk.cb = k.cb ∧ blk.exp = e ∧ blk.amb = [] ∧ blk.sums = [] ∧
      blk.outRows = outlierVals rows (if b.product = 2 then 32 else x.b2 - 32 * k.rb) side ∧ blk.outExp = side.exp ∧
      blk.termsDone = rows.isEmpty ∧
      (xoOutliers d m = false ∨ rows = [] → blk.q = q ∧ blk.pass = (if off then 3 else 0) ∧
        blk.plane = (if allZero q = true ∨ off then 8 else 0) ∧
        if allZero q then Counted d t 0x2023 ss 1 else t.ctr = d.ctr) ∧
      (xoOutliers d m = true → rows ≠ [] → counterOf t 0x2033 ss = counterOf d 0x2033 ss + 3) := by
  intro k rows q ss off
  have hop : takeBlock m x b.product mat vec side d =
      (admitCounted m (allZero q) (lastPass (setPairing m { tget {} d.pairs m with paired := rest } d) m (admittedBlk x k b e vec rows side))
        (admittedBlk x k b e vec rows side).outRows (setPairing m { tget {} d.pairs m with paired := rest } d)).modMac m
      (takingMacro (takenBlk x k b.product vec
        (lastPass (setPairing m { tget {} d.pairs m with paired := rest } d) m (admittedBlk x k b e vec rows side))
        (admittedBlk x k b e vec rows side))) := takeBlock_takes hp h
  have hempty : (admittedBlk x k b e vec rows side).termsDone = rows.isEmpty := outlierVals_isEmpty ..
  have hrows : (admittedBlk x k b e vec rows side).outRows = [] ↔ rows = [] := by
    rw [← List.isEmpty_iff, ← List.isEmpty_iff (l := rows), ← outlierVals_isEmpty rows (if b.product = 2 then 32 else x.b2 - 32 * k.rb) side]
    rfl
  have hlast0 (hx : xoOutliers d m = false ∨ rows = []) :
      lastPass (setPairing m { tget {} d.pairs m with paired := rest } d) m (admittedBlk x k b e vec rows side) = 0 := by
    refine if_neg ?_
    show ¬((xoOutliers d m && (admittedBlk x k b e vec rows side).outRows != [] && _) = true)
    rcases hx with hx | hx
    · rw [hx]
      simp
    · rw [hrows.mpr hx]
      simp
  have hlast3 (hx : xoOutliers d m = true) (hr : rows ≠ []) :
      lastPass (setPairing m { tget {} d.pairs m with paired := rest } d) m (admittedBlk x k b e vec rows side) = 3 := by
    refine if_pos ?_
    show (xoOutliers d m && (admittedBlk x k b e vec rows side).outRows != [] && !(admittedBlk x k b e vec rows side).termsDone) = true
    have hne : (admittedBlk x k b e vec rows side).outRows ≠ [] := fun hn => hr (hrows.mp hn)
    have hte : rows.isEmpty = false := by simpa using hr
    rw [hx, hempty, hte]
    simpa using hne
  have hpair := paired_setPairing m { tget {} d.pairs m with paired := rest } d
  have hset : setPairing m { tget {} d.pairs m with paired := rest } d =
    { d with pairs := (setPairing m { tget {} d.pairs m with paired := rest } d).pairs } := rfl
  generalize setPairing m { tget {} d.pairs m with paired := rest } d = d1 at hop hlast0 hlast3 hpair hset
  generalize hl : lastPass d1 m (admittedBlk x k b e vec rows side) = last at hop hlast0 hlast3
  have hcf := admitCounted_frame m (allZero q) last (admittedBlk x k b e vec rows side).outRows d1
  have hres := admitCounted_residues m (allZero q) (admittedBlk x k b e vec rows side).outRows d1
  have hzero : last = 0 → (admitCounted m (allZero q) last (admittedBlk x k b e vec rows side).outRows d1) =
      if allZero q then d1.count 0x2023 ss 1 else d1 := by
    rintro rfl
    exact if_neg (by decide)
  generalize hd2 : admitCounted m (allZero q) last (admittedBlk x k b e vec rows side).outRows d1 = d2 at hop hcf hzero
  obtain ⟨pass, q', plane, hfix⟩ := takenBlk_fixed x k b.product vec last (admittedBlk x k b e vec rows side)
  have htaken (h0 : last = 0) : takenBlk x k b.product vec last (admittedBlk x k b e vec rows side) =
      if off then { admittedBlk x k b e vec rows side with pass := 3 } else admittedBlk x k b e vec rows side := by
    rw [h0, takenBlk, nextPass_none]
  have hctr1 : d1.ctr = d.ctr := by rw [hset]
  have ht2 : t = { d2.modMac m (takingMacro (takenBlk x k b.product vec last (admittedBlk x k b e vec rows side))) with remote := t.remote } := by
    rw [← hop]
    exact ht
  have hmac : t.mac m = takingMacro (takenBlk x k b.product vec last (admittedBlk x k b e vec rows side)) (d.mac m) := by
    rw [ht2]
    refine (Dev.mac_modMac_same d2 m _).trans ?_
    rw [hcf, hset]
    rfl
  have hctr : t.ctr = d2.ctr := by
    rw [ht2]
    rfl
  refine ⟨takenBlk x k b.product vec last (admittedBlk x k b e vec rows side), ?_, ?_, ?_, by rw [hmac]; rfl, by rw [hmac]; rfl, ?_, ?_, ?_, ?_, ?_,
    ?_, ?_, ?_, ?_, ?_, ?_, fun hx => ?_, fun hx hr => ?_⟩
  · rw [ht2, hcf, hset]
    rfl
  · rw [ht2]
    show Paired d { d2 with macros := _, remote := _ } m _
    rw [hcf]
    exact hpair
  · intro i hi
    rw [ht2]
    refine (Dev.mac_modMac_other d2 _ hi).trans ?_
    rw [hcf, hset]
    rfl
  · rw [hfix]
    rfl
  · rw [hfix]
    rfl
  · rw [hfix]
    rfl
  · rw [hfix]
    rfl
  · rw [hfix]
    rfl
  · rw [hfix]
    rfl
  · rw [hfix]
    rfl
  · rw [hfix]
    rfl
  · rw [hfix]
    rfl
  · rw [hfix]
    rfl
  · rw [hfix]
    exact hempty
  · rw [htaken (hlast0 hx), hctr, hzero (hlast0 hx)]
    refine ⟨?_, ?_, ?_, ?_⟩
    · split <;> rfl
    · split <;> rfl
    · have hplane : (admittedBlk x k b e vec rows side).plane = if allZero q = true ∨ off then 8 else 0 := by
        show (if (allZero q || decide off) = true then 8 else 0) = _
        simp only [Bool.or_eq_true, decide_eq_true_eq]
      split <;> exact hplane
    · split
      · intro i
        rw [hctr, hzero (hlast0 hx), if_pos (by assumption)]
        exact counted_count_of (d := d) hctr1 _ _ _ i
      · exact hctr1
  · have h3 := hlast3 hx hr
    rw [h3] at hd2
    rw [hd2] at hres
    rw [counterOf, hctr]
    refine hres.trans ?_
    rw [counterOf, hctr1]
    rfl

end

/-! ### The admission -/

/-- What an outlier side that is read does: the macro takes the block with it, or its poison fails the tile. -/
def outliersArrive (v : Variant) (m : Nat) (x : Tile) (product : Nat) (mat : Matrix) (rb vec ovec : Nat) (d : Dev) : Dev :=
  let r := fetchOutliers v x mat rb ovec d
  if r.1.2 then failRead x r.2 else takeBlock m x product mat vec r.1.1 r.2

theorem outliersArrive_waits (v : Variant) (m : Nat) (x : Tile) (product : Nat) (mat : Matrix) (rb vec ovec : Nat) (d : Dev) :
    (outliersArrive v m x product mat rb vec ovec d).waits = (fetchOutliers v x mat rb ovec d).2.waits := by
  unfold outliersArrive
  dsimp only
  split
  · exact failRead_waits ..
  · exact takeBlock_waits ..

/-- A macro with a bank in use is more than a block. -/
theorem macro_kept_of_ready {y : Macro} (h : y.active.st = .ready) : { y with blk := none } ≠ ({} : Macro) := by
  intro h0
  have hact : ({ y with blk := none } : Macro).active.st = y.active.st := rfl
  rw [h0, h] at hact
  cases hact

section
variable {s : State} {m tile vec ovec : Nat} {x : Tile} {b : DataBlock} {e : BitVec 8} {rest : List (DataBlock × BitVec 8)} {mat : Matrix}
  (hx : s.dev.tileOf tile = some x) (hs : x.stage = .issued) (ht : (tget {} s.dev.pairs m).tile = tile)
  (hp : (tget {} s.dev.pairs m).paired = (b, e) :: rest) (hsv : serves x (s.dev.mac m).active.matrix b.product = true)
  (hmat : s.dev.matOf (s.dev.mac m).active.matrix = some mat) (hblk : (s.dev.mac m).blk = none) (hrel : (s.dev.mac m).reload = false)
  (hret : (s.dev.mac m).retire = false) (hfor : forcedFirst s.dev x m = false) (hst : (s.dev.mac m).active.st = .ready)
  (hvec : vec < tileVecs x.inst x.gi x.b0) (hfed : (m, fedKey b.product vec) ∉ x.fed) (hc0 : b.c0 = 32 * (s.dev.mac m).active.rb)
  (hc1 : b.c1 = x.vecAt vec) (hrun : domRuns s.dev (domWedge (wedgeOfMacro m)) = true)
include hx hs ht hp hsv hmat hblk hrel hret hfor hst hvec hfed hc0 hc1 hrun

theorem blockAdmitOp_eq : blockAdmitOp s.variant m tile vec ovec s.dev =
    if stageFull s.dev m = true then s.dev
    else if streamsOutliers x b.product mat = false then
      takeBlock m x b.product mat vec { rows := [], exp := 0, tag := 0 } s.dev
    else if b.product = 2 then (midOutliers x mat (s.dev.mac m).active.rb ovec).elim s.dev (fun side => takeBlock m x b.product mat vec side s.dev)
    else reading x.reader s.dev (outliersArrive s.variant m x b.product mat (s.dev.mac m).active.rb vec ovec) := by
  have hfed' : x.fed.contains (m, fedKey b.product vec) = false := by simpa using hfed
  unfold blockAdmitOp
  dsimp only
  rw [hx, hp]
  dsimp only
  rw [hmat]
  dsimp only
  cases hfull : stageFull s.dev m with
  | true => rw [if_pos (by simp), if_pos rfl]
  | false =>
    rw [if_neg Bool.false_ne_true]
    refine if_neg ?_
    rw [hsv, hs, ht, hblk, hrel, hret, hfor, hst, hfed', ← hc0, ← hc1, hrun]
    simpa using hvec

theorem block_not_taken (hfull : stageFull s.dev m = true) : exec (.blockAdmit m tile vec ovec) s = .next s := by
  rw [exec_blockAdmit, blockAdmitOp_eq hx hs ht hp hsv hmat hblk hrel hret hfor hst hvec hfed hc0 hc1 hrun, if_pos hfull, State.on_self]

theorem outliers_read (hfull : stageFull s.dev m = false) (hstr : streamsOutliers x b.product mat = true) (h2 : b.product ≠ 2) :
    let r := fetchOutliers s.variant x mat (s.dev.mac m).active.rb ovec (fresh s.dev)
    ∃ t, exec (.blockAdmit m tile vec ovec) s = .next t ∧ (r.2.waits = true → Waits s.dev t.dev) ∧
      (r.2.waits = false → r.1.2 = true → Poisoned t.dev x) := by
  intro r
  have hnever : NeverWaits (fresh s.dev) r.2 :=
    kept_fetchOutliers (fun _ h v t o c => h.fetchOperand v t o c) ⟨rfl, fun _ => rfl⟩ s.variant x mat (s.dev.mac m).active.rb ovec
  have hwaits := outliersArrive_waits s.variant m x b.product mat (s.dev.mac m).active.rb vec ovec (fresh s.dev)
  have hpoison (hw : r.1.2 = true) : outliersArrive s.variant m x b.product mat (s.dev.mac m).active.rb vec ovec (fresh s.dev) = failRead x r.2 :=
    if_pos hw
  refine ⟨_, exec_blockAdmit .., ?_⟩
  simp only [State.on_dev]
  rw [blockAdmitOp_eq hx hs ht hp hsv hmat hblk hrel hret hfor hst hvec hfed hc0 hc1 hrun, if_neg (by rw [hfull]; decide),
    if_neg (by rw [hstr]; decide), if_neg h2]
  refine ⟨fun hw => hnever.waiting hw hwaits, fun hw hpo => ?_⟩
  rw [reading_done (hwaits.trans hw), hpoison hpo]
  exact Poisoned.used (poisoned_failRead ..) _

/-- The outlier side comes: the macro takes its block with it, its side and its bank as they were. -/
theorem side_arrives (hfull : stageFull s.dev m = false) {side : OutlierSide} {d : Dev}
    (hc : SideComes s.variant s.dev x b.product mat (s.dev.mac m).active.rb ovec side d) :
    ∃ t, exec (.blockAdmit m tile vec ovec) s = .next t ∧ t = s.on t.dev ∧ RemoteOnly (takeBlock m x b.product mat vec side d) t.dev ∧
      tget {} d.pairs m = tget {} s.dev.pairs m ∧ (d.mac m).active = (s.dev.mac m).active ∧ xoOutliers d m = xoOutliers s.dev m := by
  refine ⟨_, exec_blockAdmit .., rfl, ?_⟩
  simp only [State.on_dev]
  rw [blockAdmitOp_eq hx hs ht hp hsv hmat hblk hrel hret hfor hst hvec hfed hc0 hc1 hrun, if_neg (by rw [hfull]; decide)]
  rcases hc with ⟨hstr, rfl, rfl⟩ | ⟨hstr, h2, hmid, rfl⟩ | ⟨hstr, h2, hpo, hw, hleft, rfl, rfl⟩
  · rw [if_pos hstr]
    exact ⟨RemoteOnly.refl _, rfl, rfl, rfl⟩
  · rw [if_neg (by rw [hstr]; decide), if_pos h2, hmid]
    exact ⟨RemoteOnly.refl _, rfl, rfl, rfl⟩
  · have hwaits := outliersArrive_waits s.variant m x b.product mat (s.dev.mac m).active.rb vec ovec (fresh s.dev)
    have hkept : SideKept x.id m (fresh s.dev) (fetchOutliers s.variant x mat (s.dev.mac m).active.rb ovec (fresh s.dev)).2 :=
      kept_fetchOutliers (R := SideKept x.id m (fresh s.dev)) (fun _ h v t o c => (accessKept_sideKept x.id m (fresh s.dev)).fetchOperand h v t o c) (SideKept.refl ..) s.variant x mat
        (s.dev.mac m).active.rb ovec
    have harr : outliersArrive s.variant m x b.product mat (s.dev.mac m).active.rb vec ovec (fresh s.dev) = takeBlock m x b.product mat vec
        (fetchOutliers s.variant x mat (s.dev.mac m).active.rb ovec (fresh s.dev)).1.1
        (fetchOutliers s.variant x mat (s.dev.mac m).active.rb ovec (fresh s.dev)).2 := if_neg (ne_true_of_eq_false hpo)
    rw [if_neg (by rw [hstr]; decide), if_neg h2, reading_done (hwaits.trans hw), harr]
    generalize fetchOutliers s.variant x mat (s.dev.mac m).active.rb ovec (fresh s.dev) = r at hkept hleft
    have hact : (r.2.mac m).active = (s.dev.mac m).active := by
      rcases hkept.macs m (macro_kept_of_ready hst) with h | h <;> rw [h] <;> rfl
    refine ⟨remoteOnly_usedRemote .., ?_, hact, ?_⟩
    · exact hkept.side ⟨x, List.mem_of_find?_eq_some hleft, rfl⟩ (ht.trans (tileOf_id hx).symm)
    · rw [xoOutliers, xoOutliers, hact, hkept.outliers]
      rfl

end

/-- Settles O22: the outlier side of a block comes from no read, the tile's intermediate, or reads that leave its pairing side; the macro takes the block
with it, or fails the tile. -/
theorem blocksAdmittedInOrder : Obligations.BlocksAdmittedInOrder := by
  intro s m tile vec ovec x b e rest mat hx hs ht hp hsv hmat hblk hrel hret hfor hst hvec hfed hc0 hc1 hrun
  refine ⟨fun hfull => block_not_taken hx hs ht hp hsv hmat hblk hrel hret hfor hst hvec hfed hc0 hc1 hrun hfull,
    fun hfull hstr h2 => outliers_read hx hs ht hp hsv hmat hblk hrel hret hfor hst hvec hfed hc0 hc1 hrun hfull hstr h2, fun side d hfull hc => ?_⟩
  obtain ⟨t, hex, hon, hrem, hpair, hact, hxo⟩ :=
    side_arrives hx hs ht hp hsv hmat hblk hrel hret hfor hst hvec hfed hc0 hc1 hrun hfull hc
  have hpd : (tget {} d.pairs m).paired = (b, e) :: rest := by rw [hpair, hp]
  refine ⟨fun hstr htag => ⟨t, hex, hon, ?_⟩, fun hok => ?_⟩
  · rw [takeBlock_misaligned hpd hstr htag] at hrem
    exact Misaligned.remote (misaligned_alignFault ..) hrem
  · obtain ⟨blk, hframe, htaken⟩ := block_taken hpd hok hrem
    rw [hpair, hact, hxo, tileOf_id hx] at htaken
    exact ⟨t, blk, hex, hframe ▸ hon, htaken⟩

end Sys2Proof.Machine

/-!
PROOFS for the forming sides (R99 to R108, R231): the start of an issue, its elements, its end.
-/
namespace Sys2Proof.Machine

open Sys2Proof

theorem exec_formingIssueStart (s : State) (engine : Bool) (unit tile : Nat) :
    exec (.formingIssueStart engine unit tile) s = .next (s.on (formingIssueStartOp (formingSide engine unit) tile s.dev)) := rfl

theorem exec_quantiseElement (s : State) (q tile part vec pos : Nat) :
    exec (.quantiseElement q tile part vec pos) s = .next (s.on (quantiseElementOp q tile part vec pos s.dev)) := rfl

theorem exec_formingIssueEnd (s : State) (engine : Bool) (unit tile : Nat) :
    exec (.formingIssueEnd engine unit tile) s = .next (s.on (formingIssueEndOp (formingSide engine unit) tile s.dev)) := rfl

/-! ### The start of an issue (R99, R105, R106) -/

theorem tget_foldl_tset_not {α : Type} (z : α) {key : Nat → Nat} (val : Nat → α) {js : List Nat} {k : Nat} (h : ∀ j ∈ js, k ≠ key j) (t : Tab α) :
    tget z (js.foldl (fun s i => tset s (key i) (val i)) t) k = tget z t k :=
  List.foldlRecOn (motive := fun u => tget z u k = tget z t k) js _ rfl fun u hu j hj => (tget_tset_other z u _ (h j hj)).trans hu

theorem posKey_injective (part : Nat) : Function.Injective (posKey part) := fun _ _ h => Nat.add_left_cancel h

/-- The entry of every position of both parts is in the record that order 1 leaves. -/
theorem startForming_exps {q : Nat} {t : Tile} {d : Dev} (hb : ∀ p, p < 2 → ∀ i ∈ formPositions d t p q, i < 2 ^ 32) {p i : Nat} (hp : p < 2)
    (hi : i ∈ formPositions d t p q) :
    tget 0 (startForming q t ([0, 1].map (fun p => (p, formPositions d t p q))) d).exps (posKey p i) =
      entryExp d q t ((formRange d t p).1 + i) (seedSkip d t p + i) := by
  have hset (p : Nat) (js : List Nat) (tab : Tab (BitVec 8)) (i : Nat) (hi : i ∈ js) := (tget_foldl_tset (0 : BitVec 8) (posKey_injective p)
    (fun i => entryExp d q t ((formRange d t p).1 + i) (seedSkip d t p + i)) js tab i).trans (if_pos hi)
  show tget 0 ((formPositions d t 1 q).foldl _ ((formPositions d t 0 q).foldl _ [])) _ = _
  obtain rfl | rfl : p = 0 ∨ p = 1 := by omega
  · refine (tget_foldl_tset_not _ _ (fun j _ h => ?_) _).trans (hset 0 _ _ i hi)
    have hk : posKey 0 i = posKey 1 j := h
    have := hb 0 hp i hi
    unfold posKey at hk
    omega
  · exact hset 1 _ _ i hi

/-- A scale has gone out for a position of a part, as the tile's record tells. -/
def scaleHeld (x y : Tile) (part vec pos : Nat) (e : BitVec 8) : Prop :=
  if part = 1 then tget 0 y.midExp (midKey vec pos) = e else resultAt x 5 pos (x.rowAt vec) e.toNat ∈ y.results

/-- From `d` to `e` scales of tile `x` have gone out, those of the positions of `S` among them. -/
def ScalesOut (d : Dev) (x : Tile) (E : Nat → Nat → BitVec 8) (S : Nat → Nat → Nat → Prop) (e : Dev) : Prop :=
  e = { d with out := e.out, tiles := e.tiles } ∧ ∃ y, e.tileOf x.id = some y ∧
    y = { x with results := y.results, midExp := y.midExp, midOutExp := y.midOutExp } ∧ ∀ p vec pos, S p vec pos → scaleHeld x y p vec pos (E p pos)

section Scales

variable {d e : Dev} {x : Tile} {E : Nat → Nat → BitVec 8} {S : Nat → Nat → Nat → Prop}

theorem scalesOut_start (hx : d.tileOf x.id = some x) : ScalesOut d x E (fun _ _ _ => False) d :=
  ⟨rfl, x, hx, rfl, fun _ _ _ h => h.elim⟩

theorem scalesOut_sendScale (h : ScalesOut d x E S e) (hS : ∀ p vec pos, S p vec pos → pos < 2 ^ 32) (q part vec : Nat) {pos : Nat}
    (hpos : pos < 2 ^ 32) : ScalesOut d x E (fun p v i => S p v i ∨ p = part ∧ v = vec ∧ i = pos) (sendScale q x part vec pos (E part pos) e) := by
  obtain ⟨he, y, hy, hyx, hall⟩ := h
  unfold sendScale
  by_cases hp : part = 1
  · rw [if_pos hp]
    refine ⟨by rw [he]; rfl, { y with midExp := tset y.midExp (midKey vec pos) (E part pos) },
      tileOf_modTile_same hy (f := fun y => { y with midExp := tset y.midExp (midKey vec pos) (E part pos) }) fun _ => rfl, by rw [hyx], ?_⟩
    rintro p v i (hs | ⟨rfl, rfl, rfl⟩)
    · have hold := hall p v i hs
      unfold scaleHeld at hold ⊢
      split at hold
      · next h1 =>
        rw [if_pos h1]
        by_cases hk : v = vec ∧ i = pos
        · obtain ⟨rfl, rfl⟩ := hk
          rw [h1, hp]
          exact tget_tset_same ..
        · refine (tget_tset_other 0 y.midExp _ fun hk' => hk ?_).trans hold
          have := hS p v i hs
          unfold midKey at hk'
          omega
      · next h1 => exact (if_neg h1).mpr hold
    · exact (if_pos hp).mpr (tget_tset_same ..)
  · rw [if_neg hp]
    refine ⟨by rw [he]; rfl, { y with results := y.results ++ [resultAt x 5 pos (x.rowAt vec) (E part pos).toNat] },
      tileOf_modTile_same hy (f := fun y => { y with results := y.results ++ [resultAt x 5 pos (x.rowAt vec) (E part pos).toNat] }) fun _ => rfl,
      by rw [hyx], ?_⟩
    rintro p v i (hs | ⟨rfl, rfl, rfl⟩)
    · have hold := hall p v i hs
      unfold scaleHeld at hold ⊢
      split at hold
      · next h1 => exact (if_pos h1).mpr hold
      · next h1 => exact (if_neg h1).mpr (List.mem_append_left _ hold)
    · exact (if_neg hp).mpr (List.mem_append_right _ List.mem_cons_self)

theorem scalesOut_sendOutExp (h : ScalesOut d x E S e) (q part vec : Nat) (b : BitVec 8) : ScalesOut d x E S (sendOutExp q x part vec b e) := by
  obtain ⟨he, y, hy, hyx, hall⟩ := h
  unfold sendOutExp
  dsimp only
  split
  · refine ⟨by rw [he]; rfl, { y with midOutExp := tset y.midOutExp (midKey vec 0) b },
      tileOf_modTile_same hy (f := fun y => { y with midOutExp := tset y.midOutExp (midKey vec 0) b }) fun _ => rfl, by rw [hyx], hall⟩
  · refine ⟨by rw [he]; rfl, _, tileOf_modTile_same hy fun _ => rfl, by rw [hyx], fun p v i hs => ?_⟩
    have hold := hall p v i hs
    unfold scaleHeld at hold ⊢
    split at hold
    · next h1 => exact (if_pos h1).mpr hold
    · next h1 => exact (if_neg h1).mpr (List.mem_append_left _ hold)

theorem ScalesOut.weaken (h : ScalesOut d x E S e) {S' : Nat → Nat → Nat → Prop} (hs : ∀ p v i, S' p v i → S p v i) : ScalesOut d x E S' e := by
  obtain ⟨he, y, hy, hyx, hall⟩ := h
  exact ⟨he, y, hy, hyx, fun p v i h => hall p v i (hs p v i h)⟩

/-- The scales of one vector. -/
theorem scalesOut_vector (q part vec : Nat) : ∀ {ps : List Nat} {S : Nat → Nat → Nat → Prop} {e : Dev}, (∀ i ∈ ps, i < 2 ^ 32) →
    ScalesOut d x E S e → (∀ p vec pos, S p vec pos → pos < 2 ^ 32) →
    ScalesOut d x E (fun p v i => S p v i ∨ p = part ∧ v = vec ∧ i ∈ ps) (ps.foldl (fun d pos => sendScale q x part vec pos (E part pos) d) e)
  | [], _, _, _, h, _ => h.weaken (by rintro p v i (hs | ⟨_, _, hm⟩); exacts [hs, (List.not_mem_nil hm).elim])
  | pos :: ps, S, e, hps, h, hS => by
    have h' := scalesOut_sendScale h hS q part vec (hps pos List.mem_cons_self)
    refine (scalesOut_vector q part vec (fun i hi => hps i (List.mem_cons_of_mem _ hi)) h' ?_).weaken ?_
    · rintro p v i (hs | ⟨-, -, rfl⟩)
      exacts [hS p v i hs, hps _ List.mem_cons_self]
    · rintro p v i (hs | ⟨hp, hv, hm⟩)
      · exact .inl (.inl hs)
      · rcases List.mem_cons.mp hm with hi | hm
        · exact .inl (.inr ⟨hp, hv, hi⟩)
        · exact .inr ⟨hp, hv, hm⟩

/-- The scales of every vector. -/
theorem scalesOut_vectors (q part : Nat) {ps : List Nat} (hps : ∀ i ∈ ps, i < 2 ^ 32) : ∀ {vs : List Nat} {S : Nat → Nat → Nat → Prop} {e : Dev},
    ScalesOut d x E S e → (∀ p vec pos, S p vec pos → pos < 2 ^ 32) →
    ScalesOut d x E (fun p v i => S p v i ∨ p = part ∧ v ∈ vs ∧ i ∈ ps)
      (vs.foldl (fun d v => ps.foldl (fun d pos => sendScale q x part v pos (E part pos) d) d) e)
  | [], _, _, h, _ => h.weaken (by rintro p v i (hs | ⟨_, hm, _⟩); exacts [hs, (List.not_mem_nil hm).elim])
  | vec :: vs, S, e, h, hS => by
    have h' := scalesOut_vector q part vec hps h hS
    refine (scalesOut_vectors q part hps h' ?_).weaken ?_
    · rintro p v i (hs | ⟨-, -, hm⟩)
      exacts [hS p v i hs, hps _ hm]
    · rintro p v i (hs | ⟨hp, hm, hi⟩)
      · exact .inl (.inl hs)
      · rcases List.mem_cons.mp hm with hv | hm
        · exact .inl (.inr ⟨hp, hv, hi⟩)
        · exact .inr ⟨hp, hm, hi⟩

/-- Order 2 sends the scale of every position that the side forms. -/
theorem scalesOut_sendScales (q : Nat) (f : Forming) (part : Nat) (h : ScalesOut d x (fun p pos => tget 0 f.exps (posKey p pos)) S e)
    (hS : ∀ p vec pos, S p vec pos → pos < 2 ^ 32) (hps : ∀ i ∈ formPositions d x part q, i < 2 ^ 32) :
    ScalesOut d x (fun p pos => tget 0 f.exps (posKey p pos))
      (fun p v i => S p v i ∨ p = part ∧ v < formVecs x ∧ i ∈ formPositions d x part q) (sendScales q x f part e) := by
  have hpos : formPositions e x part q = formPositions d x part q := by
    rw [h.1]
    rfl
  have hall := (scalesOut_vectors q part hps (vs := List.range (formVecs x)) h hS).weaken
    (S' := fun p v i => S p v i ∨ p = part ∧ v < formVecs x ∧ i ∈ formPositions d x part q) fun p v i hs =>
      hs.imp_right fun ⟨hp, hv, hi⟩ => ⟨hp, List.mem_range.mpr hv, hi⟩
  unfold sendScales
  rw [hpos]
  dsimp only
  split
  · exact hall
  · split
    · exact List.foldlRecOn (motive := fun e => ScalesOut d x _ _ e) _ _ hall fun e he v _ => scalesOut_sendOutExp he q part v _
    · exact hall

end Scales

theorem openOutVec_frame (q : Nat) (t : Tile) (part : Nat) (d : Dev) :
    openOutVec q t part d = { d with outVecs := (openOutVec q t part d).outVecs } := by
  unfold openOutVec
  dsimp only
  split
  · rfl
  · split
    · split <;> rfl
    · rfl

/-- Orders 1 and 2 on a side that forms for the tile. -/
theorem formingIssueStartOp_issued {q tile : Nat} {d : Dev} {x : Tile} (hx : d.tileOf tile = some x) (hruns : domRuns d (quantDom q) = true)
    (hst : x.stage = .issued) (hq : q ∈ formSides d x) (hnone : formingOf d q tile = none) (hend : formEnded x q = false) :
    let f := startForming q x ([0, 1].map (fun p => (p, formPositions d x p q))) d
    formingIssueStartOp q tile d = sendScales q x f 0 (sendScales q x f 1 (openOutVec q x 1 (openOutVec q x 0
      (d.modQuant q fun y => { y with forming := y.forming ++ [f] })))) := by
  unfold formingIssueStartOp
  rw [hx]
  refine if_neg ?_
  simp [hst, hq, hnone, hend, hruns]

theorem formingIssue_starts {s : State} {engine : Bool} {unit tile : Nat} {x : Tile} (hx : s.dev.tileOf tile = some x)
    (hruns : domRuns s.dev (quantDom (formingSide engine unit)) = true) (hst : x.stage = .issued) (hq : formingSide engine unit ∈ formSides s.dev x)
    (hnone : formingOf s.dev (formingSide engine unit) tile = none) (hend : formEnded x (formingSide engine unit) = false)
    (hb : ∀ p, p < 2 → ∀ i ∈ formPositions s.dev x p (formingSide engine unit), i < 2 ^ 32) :
    let q := formingSide engine unit
    ∃ t f y, exec (.formingIssueStart engine unit tile) s = .next t ∧
      t = s.on { s.dev with quants := t.dev.quants, outVecs := t.dev.outVecs, out := t.dev.out, tiles := t.dev.tiles } ∧
      (∀ q', q' ≠ q → t.dev.quant q' = s.dev.quant q') ∧
      t.dev.quant q = { s.dev.quant q with forming := (s.dev.quant q).forming ++ [f] } ∧
      f.tile = tile ∧ f.seen = [] ∧ f.amax = [] ∧ f.clips = [] ∧ f.nonfin = [] ∧ f.headroom = s.dev.num 0x2040 1 1 ∧
      f.strict = (x.inst.strict || decide (s.dev.num 0x2040 2 0 = 1)) ∧
      t.dev.tileOf tile = some y ∧ y = { x with results := y.results, midExp := y.midExp, midOutExp := y.midOutExp } ∧
      ∀ p i, p < 2 → i ∈ formPositions s.dev x p q →
        (let e := entryExp s.dev q x ((formRange s.dev x p).1 + i) (seedSkip s.dev x p + i)
         tget 0 f.exps (posKey p i) = e ∧ ∀ vec, vec < formVecs x →
           if p = 1 then tget 0 y.midExp (midKey vec i) = e else resultAt x 5 i (x.rowAt vec) e.toNat ∈ y.results) := by
  intro q
  have hop := formingIssueStartOp_issued hx hruns hst hq hnone hend
  have hid := tileOf_id hx
  have hexps := fun p i (hp : p < 2) => startForming_exps (q := q) (t := x) hb hp (i := i)
  generalize hf : startForming q x ([0, 1].map (fun p => (p, formPositions s.dev x p q))) s.dev = f at hexps
  have hop' : formingIssueStartOp q tile s.dev = sendScales q x f 0 (sendScales q x f 1 (openOutVec q x 1 (openOutVec q x 0
      (s.dev.modQuant q fun y => { y with forming := y.forming ++ [f] })))) := hf ▸ hop
  clear hop
  have hopen : ∃ ov, openOutVec q x 1 (openOutVec q x 0 (s.dev.modQuant q fun y => { y with forming := y.forming ++ [f] })) =
      { s.dev.modQuant q (fun y => { y with forming := y.forming ++ [f] }) with outVecs := ov } :=
    ⟨_, by rw [openOutVec_frame q x 1, openOutVec_frame q x 0]⟩
  obtain ⟨ov, hov⟩ := hopen
  rw [hov] at hop'
  clear hov
  generalize hd1 : ({ s.dev.modQuant q (fun y => { y with forming := y.forming ++ [f] }) with outVecs := ov } : Dev) = d1 at hop'
  have hd1' : d1 = { s.dev with quants := d1.quants, outVecs := d1.outVecs } := by
    rw [← hd1]
    rfl
  have hpos (p) : formPositions d1 x p q = formPositions s.dev x p q := by
    rw [hd1']
    rfl
  have hother (q') (h : q' ≠ q) : d1.quant q' = s.dev.quant q' := by
    rw [← hd1]
    exact s.dev.quant_modQuant_other (fun y => { y with forming := y.forming ++ [f] }) h
  have hsame : d1.quant q = { s.dev.quant q with forming := (s.dev.quant q).forming ++ [f] } := by
    rw [← hd1]
    exact s.dev.quant_modQuant_same q fun y => { y with forming := y.forming ++ [f] }
  have hx1 : d1.tileOf x.id = some x := by
    rw [hd1', hid]
    exact hx
  have hb1 (p) (hp : p < 2) : ∀ i ∈ formPositions d1 x p q, i < 2 ^ 32 := hpos p ▸ hb p hp
  have hsent := scalesOut_sendScales q f 0 (scalesOut_sendScales q f 1 (scalesOut_start hx1) (fun _ _ _ h => h.elim) (hb1 1 (by decide)))
    (fun p v i hs => hs.elim False.elim fun h => hb1 1 (by decide) i h.2.2) (hb1 0 (by decide))
  rw [← hop'] at hsent
  clear hop'
  obtain ⟨he, y, hy, hyx, hheld⟩ := hsent
  refine ⟨_, f, y, exec_formingIssueStart s engine unit tile, ?_⟩
  simp only [State.on_dev]
  generalize formingIssueStartOp q tile s.dev = e at he hy ⊢
  have hquant (k) : e.quant k = d1.quant k := by
    rw [he]
    rfl
  refine ⟨by rw [he, hd1'], fun q' h => (hquant q').trans (hother q' h), (hquant q).trans hsame, ?_, ?_, ?_, ?_, ?_, ?_, ?_, hid ▸ hy, hyx, ?_⟩
  · exact hf ▸ hid
  iterate 6 exact hf ▸ rfl
  · intro p i hp hi
    refine ⟨hexps p i hp hi, fun vec hv => ?_⟩
    have h := hheld p vec i (by
      obtain rfl | rfl : p = 0 ∨ p = 1 := by omega
      · exact .inr ⟨rfl, hv, (hpos 0).symm ▸ hi⟩
      · exact .inl (.inr ⟨rfl, hv, (hpos 1).symm ▸ hi⟩))
    unfold scaleHeld at h
    dsimp only at h
    rw [hexps p i hp hi] at h
    exact h

/-! ### The elements (R100, R108) -/

theorem formingOf_modForming (q tile : Nat) {F : Forming → Forming} (hF : ∀ y, (F y).tile = y.tile) (d : Dev) :
    formingOf (modForming q tile F d) q tile = (formingOf d q tile).map F := by
  have hcomp : (fun f : Forming => decide (f.tile = tile)) ∘ (fun y : Forming => if y.tile = tile then F y else y) =
      fun f : Forming => decide (f.tile = tile) := by
    funext y
    show decide ((if y.tile = tile then F y else y).tile = tile) = _
    split
    · rw [hF]
    · rfl
  unfold formingOf modForming
  rw [Dev.quant_modQuant_same]
  dsimp only
  rw [List.find?_map, hcomp]
  cases hf : (d.quant q).forming.find? fun f => decide (f.tile = tile) with
  | none => rfl
  | some f => exact congrArg some (if_pos (of_decide_eq_true (List.find?_some (p := fun f : Forming => decide (f.tile = tile)) hf)))

theorem quant_modForming_other (q tile : Nat) (F : Forming → Forming) (d : Dev) {q' : Nat} (h : q' ≠ q) :
    (modForming q tile F d).quant q' = d.quant q' := d.quant_modQuant_other _ h

theorem track_modForming (q tile : Nat) (F : Forming → Forming) (d : Dev) (q' : Nat) :
    ((modForming q tile F d).quant q').track = (d.quant q').track := by
  by_cases h : q' = q
  · subst h
    unfold modForming
    rw [Dev.quant_modQuant_same]
  · rw [quant_modForming_other q tile F d h]

theorem formingOf_of_quants {d e : Dev} (h : e.quants = d.quants) (q tile : Nat) : formingOf e q tile = formingOf d q tile := by
  rw [formingOf, Dev.quant, h]
  rfl

theorem countElem_frame (q clip : Nat) (r : Int × Bool × Bool) (d : Dev) : countElem q clip r d = { d with ctr := (countElem q clip r d).ctr } := by
  unfold countElem
  dsimp only
  split <;> split <;> rfl

theorem counterOf_count_same (d : Dev) (idx sub n : Nat) : counterOf (d.count idx sub n) idx sub = counterOf d idx sub + n :=
  counterOf_counted (d.counted_count idx sub n)

/-- A clip counts in its entry, a value that is not finite in OD 0x2046. -/
theorem counterOf_countElem (q : Nat) {clip : Nat} (hc : clip ≠ 0x2046) (r : Int × Bool × Bool) (d : Dev) :
    counterOf (countElem q clip r d) clip (formSs q) = counterOf d clip (formSs q) + (if r.2.1 then 1 else 0) ∧
      counterOf (countElem q clip r d) 0x2046 (formSs q) = counterOf d 0x2046 (formSs q) + (if r.2.2 then 1 else 0) := by
  unfold countElem
  dsimp only
  cases r.2.1 <;> cases r.2.2
  · exact ⟨rfl, rfl⟩
  · exact ⟨counterOf_count_entry _ hc _ _, counterOf_count_same ..⟩
  · exact ⟨counterOf_count_same .., counterOf_count_entry _ hc.symm _ _⟩
  · exact ⟨(counterOf_count_entry _ hc _ _).trans (counterOf_count_same ..),
      (counterOf_count_same ..).trans (congrArg (· + 1) (counterOf_count_entry _ hc.symm _ _))⟩

section Element

variable {q tile part vec pos : Nat} {d : Dev} {x : Tile} {f : Forming} (hx : d.tileOf tile = some x) (hf : formingOf d q tile = some f)
  (hv : vec < formVecs x) (hp : partForms x part = true) (hruns : domRuns d (quantDom q) = true)
include hx hf hv hp hruns

theorem quantiseElementOp_block (hpos : pos < 2 ^ 32) : quantiseElementOp q tile part vec pos d =
    if ((formCols d x part q).contains pos && !f.seen.contains (seenKey part vec pos) && valueReady x part vec pos (partUnits d x part) &&
      !midHeld d x part pos) = true then blockElement q x part f vec pos d else d := by
  unfold quantiseElementOp
  rw [hx, hf]
  refine (if_neg ?_).trans (if_pos hpos)
  rintro (h | h | h)
  · omega
  · rw [hp] at h
    cases h
  · rw [hruns] at h
    cases h

theorem quantiseElementOp_outlier {i : Nat} {o : OutVec} (ho : outVecOf d x part = some o) :
    quantiseElementOp q tile part vec (2 ^ 32 + i) d =
      if ((formPlaces (f.list part) d x part q).contains i && !f.seen.contains (seenKey part vec (2 ^ 33 + i)) &&
        valueReady x part vec (nth 0 (f.list part) i) (partUnits d x part) && domRuns d (quantDom o.quant)) = true then
        outlierElement q x part o vec i (nth 0 (f.list part) i) d else d := by
  unfold quantiseElementOp
  rw [hx, hf]
  refine (if_neg ?_).trans ((if_neg (by omega)).trans ?_)
  · rintro (h | h | h)
    · omega
    · rw [hp] at h
      cases h
    · rw [hruns] at h
      cases h
  · rw [ho, Nat.add_sub_cancel_left]

end Element

/-- What a block's element does: its record, its count, and where it goes. -/
theorem blockElement_leaves {q tile part vec pos : Nat} {d : Dev} {x : Tile} {f : Forming} (hx : d.tileOf tile = some x)
    (hf : formingOf d q tile = some f) (hout : pos ∉ f.list part) :
    let v := tget 0 x.outs (outKey part vec pos)
    let e := quantElem 127 v (tget 0 f.exps (posKey part (pos / 32)))
    let b := BitVec.ofInt 8 e.1
    let d' := blockElement q x part f vec pos d
    d' = { d with quants := d'.quants, out := d'.out, tiles := d'.tiles, ctr := d'.ctr } ∧
      (∀ q', q' ≠ q → d'.quant q' = d.quant q') ∧ (d'.quant q).track = (d.quant q).track ∧
      formingOf d' q tile = some (f.add (posKey part (pos / 32)) vec (seenKey part vec pos) v e) ∧
      (if part = 1 then d'.out = d.out ++ [.element q vec pos b] ∧ d'.tileOf tile = some { x with mid := tset x.mid (midKey vec pos) b }
       else d'.out = d.out ∧ d'.tileOf tile = some { x with results := x.results ++ [resultAt x 4 pos (x.rowAt vec) b.toNat] }) ∧
      counterOf d' 0x2041 (formSs q) = counterOf d 0x2041 (formSs q) + (if e.2.1 then 1 else 0) ∧
      counterOf d' 0x2046 (formSs q) = counterOf d 0x2046 (formSs q) + (if e.2.2 then 1 else 0) := by
  intro v e b
  have hid := tileOf_id hx
  have hmf := formingOf_modForming q tile (F := fun y => y.add (posKey part (pos / 32)) vec (seenKey part vec pos) v e) (fun _ => rfl) d
  have hother := fun q' => quant_modForming_other q tile (fun y => y.add (posKey part (pos / 32)) vec (seenKey part vec pos) v e) d (q' := q')
  have htrack := track_modForming q tile (fun y => y.add (posKey part (pos / 32)) vec (seenKey part vec pos) v e) d q
  have hmq : modForming q tile (fun y => y.add (posKey part (pos / 32)) vec (seenKey part vec pos) v e) d =
    { d with quants := (modForming q tile (fun y => y.add (posKey part (pos / 32)) vec (seenKey part vec pos) v e) d).quants } := rfl
  rw [hf] at hmf
  have hop : blockElement q x part f vec pos d =
      (fun d1 : Dev => if part = 1 then (d1.modTile tile (fun y => { y with mid := tset y.mid (midKey vec pos) b })).emit (.element q vec pos b)
        else d1.modTile tile (fun y => { y with results := y.results ++ [resultAt x 4 pos (x.rowAt vec) b.toNat] }))
        (countElem q 0x2041 e (modForming q tile (fun y => y.add (posKey part (pos / 32)) vec (seenKey part vec pos) v e) d)) := by
    unfold blockElement
    rw [List.contains_eq_mem, decide_eq_false hout, hid]
    rfl
  rw [hop]
  clear hop
  clear_value e b
  generalize modForming q tile (fun y => y.add (posKey part (pos / 32)) vec (seenKey part vec pos) v e) d = d0 at hmf hother htrack hmq ⊢
  have hcount := counterOf_countElem q (clip := 0x2041) (by decide) e d0
  have hcf := countElem_frame q 0x2041 e d0
  generalize countElem q 0x2041 e d0 = d1 at hcount hcf ⊢
  have hd1 : d1 = { d with quants := d0.quants, ctr := d1.ctr } := by rw [hcf, hmq]
  have hquant (k) : d1.quant k = d0.quant k := by
    rw [hcf]
    rfl
  have hform : formingOf d1 q tile = some (f.add (posKey part (pos / 32)) vec (seenKey part vec pos) v e) := by
    rw [hcf]
    exact hmf
  have hx1 : d1.tileOf tile = some x := by
    rw [hd1]
    exact hx
  have hctr : ∀ i, counterOf d0 i (formSs q) = counterOf d i (formSs q) := fun i => by
    rw [hmq]
    rfl
  have hout1 : d1.out = d.out := by rw [hd1]
  rw [hctr, hctr] at hcount
  dsimp only
  split
  · exact ⟨by rw [hd1]; rfl, fun q' h => (hquant q').trans (hother q' h), (congrArg Quant.track (hquant q)).trans htrack, hform,
      ⟨congrArg (· ++ [Output.element q vec pos b]) hout1,
        tileOf_modTile_same hx1 (f := fun y => { y with mid := tset y.mid (midKey vec pos) b }) fun _ => rfl⟩, hcount⟩
  · exact ⟨by rw [hd1]; rfl, fun q' h => (hquant q').trans (hother q' h), (congrArg Quant.track (hquant q)).trans htrack, hform,
      ⟨hout1, tileOf_modTile_same hx1 (f := fun y => { y with results := y.results ++ [resultAt x 4 pos (x.rowAt vec) b.toNat] }) fun _ => rfl⟩,
      hcount⟩

theorem outVecOf_modOutVec {x : Tile} {part : Nat} {d : Dev} {o : OutVec} {f : OutVec → OutVec} (hj : ∀ y, (f y).job = y.job)
    (hc : ∀ y, (f y).ctr = y.ctr) (hg : ∀ y, (f y).gi = y.gi) (hp : ∀ y, (f y).part = y.part) (ho : outVecOf d x part = some o) :
    outVecOf (modOutVec x part f d) x part = some (f o) := by
  have hcomp : OutVec.serves x part ∘ (fun y : OutVec => if y.serves x part then f y else y) = OutVec.serves x part := by
    funext y
    show OutVec.serves x part (if y.serves x part then f y else y) = _
    split
    · simp only [OutVec.serves, hj, hc, hg, hp]
    · rfl
  unfold outVecOf modOutVec
  dsimp only
  rw [List.find?_map, hcomp]
  unfold outVecOf at ho
  rw [ho]
  exact congrArg some (if_pos (List.find?_some ho))

/-- What an outlier value does: its row's record, its count, and where it goes. -/
theorem outlierElement_leaves {q tile part vec i col : Nat} {d : Dev} {x : Tile} {o : OutVec} (hx : d.tileOf tile = some x)
    (ho : outVecOf d x part = some o) :
    let v := tget 0 x.outs (outKey part vec col)
    let e := quantElem 32767 v o.exp
    let b := BitVec.ofInt 16 e.1
    let d' := outlierElement q x part o vec i col d
    d' = { d with quants := d'.quants, outVecs := d'.outVecs, out := d'.out, tiles := d'.tiles, ctr := d'.ctr } ∧
      outVecOf d' x part = some { o with parts := o.parts.map (fun p => if p.tile = x.id then p.add vec i v e else p) } ∧
      (part = 1 → d'.tileOf tile = some { x with midOut := tset x.midOut (midKey vec i) b }) ∧
      (part ≠ 1 → d'.tileOf tile = some { x with results := x.results ++ [resultAt x 11 i (x.rowAt vec) b.toNat] }) ∧
      counterOf d' 0x2047 (formSs o.quant) = counterOf d 0x2047 (formSs o.quant) + (if e.2.1 then 1 else 0) := by
  intro v e b
  have hid := tileOf_id hx
  have hov := outVecOf_modOutVec (f := fun y => { y with parts := y.parts.map (fun p => if p.tile = x.id then p.add vec i v e else p) })
    (fun _ => rfl) (fun _ => rfl) (fun _ => rfl) (fun _ => rfl) ho
  have hop : outlierElement q x part o vec i col d =
      (fun d1 : Dev => if part = 1 then (d1.modTile tile (fun y => { y with midOut := tset y.midOut (midKey vec i) b })).emit (.outlier x.id vec i b)
        else d1.modTile tile (fun y => { y with results := y.results ++ [resultAt x 11 i (x.rowAt vec) b.toNat] }))
        (countElem o.quant 0x2047 e (modForming q tile (fun y =>
          { y.add (posKey part outPos) vec (seenKey part vec (2 ^ 33 + i)) 0 e with amax := y.amax })
          (modOutVec x part (fun y => { y with parts := y.parts.map (fun p => if p.tile = x.id then p.add vec i v e else p) }) d))) := by
    unfold outlierElement
    rw [hid]
  rw [hop]
  clear hop
  clear_value e b
  have hd0 : modForming q tile (fun y => { y.add (posKey part outPos) vec (seenKey part vec (2 ^ 33 + i)) 0 e with amax := y.amax })
      (modOutVec x part (fun y => { y with parts := y.parts.map (fun p => if p.tile = x.id then p.add vec i v e else p) }) d) =
      { d with
        quants := (modForming q tile (fun y => { y.add (posKey part outPos) vec (seenKey part vec (2 ^ 33 + i)) 0 e with amax := y.amax }) d).quants,
        outVecs := (modOutVec x part (fun y => { y with parts := y.parts.map (fun p => if p.tile = x.id then p.add vec i v e else p) }) d).outVecs } :=
    rfl
  generalize modForming q tile (fun y => { y.add (posKey part outPos) vec (seenKey part vec (2 ^ 33 + i)) 0 e with amax := y.amax })
      (modOutVec x part (fun y => { y with parts := y.parts.map (fun p => if p.tile = x.id then p.add vec i v e else p) }) d) = d0 at hd0 ⊢
  have hcount := (counterOf_countElem o.quant (clip := 0x2047) (by decide) e d0).1
  have hcf := countElem_frame o.quant 0x2047 e d0
  generalize countElem o.quant 0x2047 e d0 = d1 at hcount hcf ⊢
  have hd1 : d1 = { d with quants := d1.quants, outVecs := d1.outVecs, ctr := d1.ctr } := by rw [hcf, hd0]
  have hov1 : outVecOf d1 x part = some { o with parts := o.parts.map (fun p => if p.tile = x.id then p.add vec i v e else p) } := by
    rw [hcf, hd0]
    exact hov
  have hx1 : d1.tileOf tile = some x := by
    rw [hd1]
    exact hx
  have hctr : counterOf d0 0x2047 (formSs o.quant) = counterOf d 0x2047 (formSs o.quant) := by
    rw [hd0]
    rfl
  rw [hctr] at hcount
  dsimp only
  split
  · next h1 =>
    exact ⟨by rw [hd1]; rfl, hov1, fun _ => tileOf_modTile_same hx1 (f := fun y => { y with midOut := tset y.midOut (midKey vec i) b }) fun _ => rfl,
      fun h => (h h1).elim, hcount⟩
  · next h1 =>
    exact ⟨by rw [hd1]; rfl, hov1, fun h => (h1 h).elim, fun _ => tileOf_modTile_same hx1
      (f := fun y => { y with results := y.results ++ [resultAt x 11 i (x.rowAt vec) b.toNat] }) fun _ => rfl, hcount⟩

/-! ### The end of an issue (R101 to R105, R231) -/

/-- The tile in flight that a tile's part belongs to knows only whether it has met SCALE_MISS. -/
def Tile.withMisses (x : Tile) (smiss strictMiss : Bool) : Tile := { x with smiss := smiss, strictMiss := strictMiss }

/-- A part of a tile's issue meets SCALE_MISS (R102, R108). -/
def partMisses (d : Dev) (x : Tile) (f : Forming) (p : Nat) : Bool :=
  (judgeAll d x f p).any (fun j => j.2.miss) || f.clips.any (fun e => e.1 / 65536 = posKey p outPos && decide (0 < e.2))

/-- From `d` to `e` an issue of side `q` has come to the end of the parts `ps` of tile `x`. -/
structure PartsEnded (d : Dev) (q : Nat) (x : Tile) (f : Forming) (ps : List Nat) (e : Dev) : Prop where
  frame : e = { d with quants := e.quants, outVecs := e.outVecs, tiles := e.tiles, ctr := e.ctr, log := e.log }
  tile : e.tileOf x.id = some (x.withMisses (x.smiss || (ps.any (partMisses d x f) && !f.strict))
    (x.strictMiss || (ps.any (partMisses d x f) && f.strict)))
  forming : formingOf e q x.id = some { f with ended := f.ended ++ ps }
  outVecs : ∀ p, outVecOf d x p = none → outVecOf e x p = none
  track : (∀ p ∈ ps, outVecOf d x p = none) → (e.quant q).track = if f.trk = 2 then (d.quant q).track
    else (ps.map (judgeAll d x f)).flatten.foldl (fun r j => tput {} r j.1 j.2.entry) (d.quant q).track
  misses : counterOf e 0x2043 (formSs q) = counterOf d 0x2043 (formSs q) +
    if ps.any (partMisses d x f) && !(x.smiss || x.strictMiss) then 1 else 0

section Parts

variable {d e : Dev} {q : Nat} {x : Tile} {f : Forming} {ps : List Nat}

theorem partsEnded_nil (hx : d.tileOf x.id = some x) (hf : formingOf d q x.id = some f) : PartsEnded d q x f [] d where
  frame := rfl
  tile := by simpa [Tile.withMisses] using hx
  forming := by simpa using hf
  outVecs := fun _ h => h
  track := fun _ => by split <;> rfl
  misses := rfl

/-- The entries of an issue are written on its side, and the rises counted. -/
theorem writeEntries_frame (q trk : Nat) (js : List (Nat × Judged)) (d : Dev) :
    writeEntries q trk js d = { d with quants := (writeEntries q trk js d).quants, ctr := (writeEntries q trk js d).ctr } := by
  unfold writeEntries
  split <;> rfl

theorem forming_writeEntries (q trk : Nat) (js : List (Nat × Judged)) (d : Dev) (q' : Nat) :
    ((writeEntries q trk js d).quant q').forming = (d.quant q').forming := by
  unfold writeEntries
  split
  · rfl
  · by_cases h : q' = q
    · subst h
      show ((d.modQuant q' fun x => { x with track := js.foldl (fun t j => tput {} t j.1 j.2.entry) x.track }).quant q').forming = _
      rw [Dev.quant_modQuant_same]
    · exact congrArg Quant.forming (d.quant_modQuant_other (fun x => { x with track := js.foldl (fun t j => tput {} t j.1 j.2.entry) x.track }) h)

theorem track_writeEntries (q trk : Nat) (js : List (Nat × Judged)) (d : Dev) : ((writeEntries q trk js d).quant q).track =
    if trk = 2 then (d.quant q).track else js.foldl (fun t j => tput {} t j.1 j.2.entry) (d.quant q).track := by
  unfold writeEntries
  split
  · rfl
  · exact congrArg Quant.track (d.quant_modQuant_same q fun x => { x with track := js.foldl (fun t j => tput {} t j.1 j.2.entry) x.track })

theorem counterOf_writeEntries (q trk : Nat) (js : List (Nat × Judged)) (d : Dev) {k : Nat} (hk : k < 256) :
    counterOf (writeEntries q trk js d) 0x2043 k = counterOf d 0x2043 k := by
  unfold writeEntries
  split
  · rfl
  · exact counterOf_count_other _ _ _ k hk (Or.inl (by decide))

/-- What the outlier entry's end changes. -/
theorem closeOutVec_frame (t : Tile) (part : Nat) (failing : Bool) (d : Dev) : closeOutVec t part failing d =
    { d with quants := (closeOutVec t part failing d).quants, outVecs := (closeOutVec t part failing d).outVecs,
             ctr := (closeOutVec t part failing d).ctr } := by
  unfold closeOutVec
  split
  · rfl
  · split
    · rw [writeEntries_frame]
    · rfl

theorem forming_closeOutVec (t : Tile) (part : Nat) (failing : Bool) (d : Dev) (q : Nat) :
    ((closeOutVec t part failing d).quant q).forming = (d.quant q).forming := by
  unfold closeOutVec
  split
  · rfl
  · split
    · exact forming_writeEntries ..
    · rfl

theorem counterOf_closeOutVec (t : Tile) (part : Nat) (failing : Bool) (d : Dev) {k : Nat} (hk : k < 256) :
    counterOf (closeOutVec t part failing d) 0x2043 k = counterOf d 0x2043 k := by
  unfold closeOutVec
  split
  · rfl
  · split
    · exact counterOf_writeEntries _ _ _ _ hk
    · rfl

theorem closeOutVec_fewer (t : Tile) (part : Nat) (failing : Bool) (d : Dev) : (closeOutVec t part failing d).outVecs.Sublist d.outVecs := by
  unfold closeOutVec
  split
  · exact List.Sublist.refl _
  · split
    · rw [writeEntries_frame]
      exact List.filter_sublist
    · exact List.Sublist.refl _

theorem closeOutVec_none {t : Tile} {part : Nat} {d : Dev} (h : outVecOf d t part = none) (failing : Bool) : closeOutVec t part failing d = d := by
  unfold closeOutVec
  rw [h]

theorem outVecOf_fewer {d e : Dev} (h : e.outVecs.Sublist d.outVecs) {t : Tile} {p : Nat} (hn : outVecOf d t p = none) : outVecOf e t p = none :=
  List.find?_eq_none.mpr fun o ho => List.find?_eq_none.mp hn o (h.subset ho)

/-- A miss marks its tile, and is counted at the first side that meets it. -/
theorem scaleMiss_marks {d : Dev} {t : Tile} (ht : d.tileOf t.id = some t) (q : Nat) (strict : Bool) :
    scaleMiss q t strict d = { d with tiles := (scaleMiss q t strict d).tiles, ctr := (scaleMiss q t strict d).ctr, log := (scaleMiss q t strict d).log } ∧
      (scaleMiss q t strict d).tileOf t.id = some (t.withMisses (t.smiss || !strict) (t.strictMiss || strict)) ∧
      counterOf (scaleMiss q t strict d) 0x2043 (formSs q) = counterOf d 0x2043 (formSs q) + if t.smiss || t.strictMiss then 0 else 1 := by
  unfold scaleMiss
  have hmark (y : Tile) : (if strict then { y with strictMiss := true } else { y with smiss := true } : Tile) =
      y.withMisses (y.smiss || !strict) (y.strictMiss || strict) := by
    cases strict <;> simp [Tile.withMisses]
  dsimp only
  split
  · exact ⟨rfl, (tileOf_modTile_same ht fun y => by rw [hmark]; rfl).trans (congrArg some (hmark t)), rfl⟩
  · exact ⟨rfl, (tileOf_modTile_same (d := (d.count 0x2043 (formSs q) 1).post evScaleMiss (quantHub q) (quantUnit q) []) ht
      fun y => by rw [hmark]; rfl).trans (congrArg some (hmark t)),
      counterOf_count_same d 0x2043 (formSs q) 1⟩

/-- The end of one more part. -/
theorem partsEnded_endPart (h : PartsEnded d q x f ps e) (hss : formSs q < 256) (p : Nat) :
    PartsEnded d q x f (ps ++ [p]) ((e.tileOf x.id).elim e fun t => endPart q t f e p) := by
  obtain ⟨hfr, htile, hform, hovs, htrack, hmiss⟩ := h
  rw [htile]
  show PartsEnded d q x f (ps ++ [p]) (endPart q _ f e p)
  generalize hsm : (x.smiss || (ps.any (partMisses d x f) && !f.strict)) = sm at htile ⊢
  generalize hst : (x.strictMiss || (ps.any (partMisses d x f) && f.strict)) = st at htile ⊢
  have hjs : judgeAll e (x.withMisses sm st) f p = judgeAll d x f p := by
    rw [hfr]
    rfl
  have hserve (e' : Dev) (p') : outVecOf e' (x.withMisses sm st) p' = outVecOf e' x p' := rfl
  unfold endPart
  rw [hjs]
  dsimp only
  -- the underused positions are counted and the entries written
  generalize hd1 : e.count 0x2042 (formSs q) ((judgeAll d x f p).filter fun j => j.2.under).length = d1
  have h1 : d1 = { e with ctr := d1.ctr } := by
    rw [← hd1]
    rfl
  have hc1 : counterOf d1 0x2043 (formSs q) = counterOf e 0x2043 (formSs q) := by
    rw [← hd1]
    exact counterOf_count_entry e (by decide) _ _
  have h2 := writeEntries_frame q f.trk (judgeAll d x f p) d1
  have hf2 := forming_writeEntries q f.trk (judgeAll d x f p) d1 q
  have ht2 := track_writeEntries q f.trk (judgeAll d x f p) d1
  have hc2 := counterOf_writeEntries q f.trk (judgeAll d x f p) d1 hss
  generalize writeEntries q f.trk (judgeAll d x f p) d1 = d2 at h2 hf2 ht2 hc2 ⊢
  have hform2 : formingOf d2 q x.id = some { f with ended := f.ended ++ ps } := by
    rw [← hform, formingOf, hf2, h1]
    rfl
  have hf3 := formingOf_modForming q x.id (F := fun y => { y with ended := y.ended ++ [p] }) (fun _ => rfl) d2
  have ht3 := track_modForming q x.id (fun y => { y with ended := y.ended ++ [p] }) d2 q
  rw [hform2] at hf3
  have h3 : modForming q x.id (fun y => { y with ended := y.ended ++ [p] }) d2 =
      { d2 with quants := (modForming q x.id (fun y => { y with ended := y.ended ++ [p] }) d2).quants } := rfl
  show PartsEnded d q x f (ps ++ [p]) (closeOutVec _ p _ (if _ then scaleMiss q _ f.strict (modForming q x.id _ d2) else modForming q x.id _ d2))
  generalize modForming q x.id (fun y => { y with ended := y.ended ++ [p] }) d2 = d3 at hf3 ht3 h3 ⊢
  have h3e : d3 = { e with quants := d3.quants, ctr := d3.ctr } := by rw [h3, h2, h1]
  have htrack3 : (d3.quant q).track = if f.trk = 2 then (e.quant q).track else (judgeAll d x f p).foldl (fun t j => tput {} t j.1 j.2.entry)
      (e.quant q).track := by
    rw [ht3, ht2, h1]
    rfl
  have hctr3 : counterOf d3 0x2043 (formSs q) = counterOf e 0x2043 (formSs q) := by
    rw [h3]
    exact hc2.trans hc1
  have htile3 : d3.tileOf x.id = some (x.withMisses sm st) := by
    rw [h3e]
    exact htile
  clear hd1 h1 hc1 h2 hf2 ht2 hc2 hform2 ht3 h3
  -- the miss
  have h4 : ∃ d4, (if (judgeAll d x f p).any (fun j => j.2.miss) || f.clips.any (fun e => e.1 / 65536 = posKey p outPos && decide (0 < e.2)) then
      scaleMiss q (x.withMisses sm st) f.strict d3 else d3) = d4 ∧
      d4 = { d3 with tiles := d4.tiles, ctr := d4.ctr, log := d4.log } ∧
      d4.tileOf x.id = some (x.withMisses (sm || (partMisses d x f p && !f.strict)) (st || (partMisses d x f p && f.strict))) ∧
      counterOf d4 0x2043 (formSs q) = counterOf e 0x2043 (formSs q) + if partMisses d x f p && !(sm || st) then 1 else 0 := by
    refine ⟨_, rfl, ?_⟩
    have hm : ((judgeAll d x f p).any (fun j => j.2.miss) || f.clips.any (fun e => e.1 / 65536 = posKey p outPos && decide (0 < e.2))) =
      partMisses d x f p := rfl
    rw [hm]
    cases partMisses d x f p
    · simp only [Bool.false_eq_true, if_false]
      exact ⟨trivial, by simpa using htile3, by simpa using hctr3⟩
    · obtain ⟨ha, hb, hc⟩ := scaleMiss_marks (t := x.withMisses sm st) htile3 q f.strict
      simp only [if_true]
      refine ⟨ha, hb.trans (by simp [Tile.withMisses]), (hc.trans ?_)⟩
      rw [hctr3]
      cases h : sm || st <;> simp [Tile.withMisses, h]
  obtain ⟨d4, h4eq, h4, htile4, hctr4⟩ := h4
  rw [h4eq]
  clear h4eq
  generalize (((judgeAll d x f p).any (fun j => j.2.miss) || f.clips.any fun e => e.1 / 65536 = posKey p outPos && decide (0 < e.2)) && f.strict) = fail
  -- the outlier entry
  have h5 := closeOutVec_frame (x.withMisses sm st) p fail d4
  have hf5 := forming_closeOutVec (x.withMisses sm st) p fail d4 q
  have hc5 := counterOf_closeOutVec (x.withMisses sm st) p fail d4 hss
  have ho5 := closeOutVec_fewer (x.withMisses sm st) p fail d4
  have hn5 := fun h => closeOutVec_none (t := x.withMisses sm st) (part := p) (d := d4) h fail
  generalize closeOutVec (x.withMisses sm st) p fail d4 = d5 at h5 hf5 hc5 ho5 hn5 ⊢
  have h4e : d4 = { e with quants := d3.quants, tiles := d4.tiles, ctr := d4.ctr, log := d4.log } := by rw [h4, h3e]
  have hov4 : d4.outVecs = e.outVecs := by rw [h4e]
  refine ⟨by rw [h5, h4e, hfr], ?_, ?_, fun p' hp' => ?_, fun hall => ?_, ?_⟩
  · rw [h5]
    refine htile4.trans ?_
    rw [← hsm, ← hst, List.any_append, List.any_cons, List.any_nil, Bool.or_false]
    cases ps.any (partMisses d x f) <;> cases partMisses d x f p <;> cases f.strict <;> simp
  · rw [formingOf, hf5, h4, ← List.append_assoc]
    exact hf3
  · exact outVecOf_fewer (hov4 ▸ ho5) (hovs p' hp')
  · have hp4 : outVecOf d4 x p = none := by
      rw [outVecOf, hov4]
      exact hovs p (hall p (List.mem_append_right _ List.mem_cons_self))
    have hq : d4.quant q = d3.quant q := by rw [h4]; rfl
    rw [hn5 hp4, hq, htrack3, htrack fun p' h => hall p' (List.mem_append_left _ h)]
    split
    · rfl
    · rw [List.map_append, List.flatten_append, List.foldl_append]
      simp
  · rw [hc5, hctr4, hmiss, ← hsm, ← hst, List.any_append, List.any_cons, List.any_nil, Bool.or_false, Nat.add_assoc]
    congr 1
    cases ps.any (partMisses d x f) <;> cases partMisses d x f p <;> cases f.strict <;> cases x.smiss <;> cases x.strictMiss <;> rfl

theorem partsEnded_foldl (hss : formSs q < 256) : ∀ {ls ps : List Nat} {e : Dev}, PartsEnded d q x f ps e →
    PartsEnded d q x f (ps ++ ls) (ls.foldl (fun e p => (e.tileOf x.id).elim e fun t => endPart q t f e p) e)
  | [], _, _, h => by simpa using h
  | p :: ls, ps, e, h => by
    have h' := partsEnded_foldl hss (ls := ls) (partsEnded_endPart h hss p)
    rw [List.append_assoc] at h'
    exact h'

end Parts

/-! ### A side that has ended its issue -/

theorem removeTile_quants (t : Tile) (d : Dev) : (removeTile t d).quants = d.quants.filterMap fun e =>
    if ({ e.2 with forming := e.2.forming.filter fun f => f.tile ≠ t.id } : Quant) = {} then none
    else some (e.1, { e.2 with forming := e.2.forming.filter fun f => f.tile ≠ t.id }) := by
  have hw (l : List Nat) (e : Dev) : (l.foldl (fun d w => d.modWedge w fun g => { g with tiles := g.tiles.filter (· ≠ t.id) }) e).quants = e.quants :=
    List.foldlRecOn (motive := fun x : Dev => x.quants = e.quants) _ _ rfl fun _ he _ _ => he
  unfold removeTile
  dsimp only
  split
  · exact hw ..
  · exact hw ..

theorem failTile_quants (t : Tile) (status : BitVec 8) (d : Dev) : (failTile t status d).quants = (removeTile t d).quants := by
  unfold failTile
  split
  · rfl
  · rw [failJob_jobs]

/-- A side that does not form for the tile is left as it is when the tile fails, where its record is no default. -/
theorem quant_failTile {t : Tile} {d : Dev} {q : Nat} (status : BitVec 8) (hg : ∀ g ∈ (d.quant q).forming, g.tile ≠ t.id)
    (hq : tfind d.quants q = none ∨ d.quant q ≠ {}) : (failTile t status d).quant q = d.quant q := by
  rw [Dev.quant, failTile_quants, removeTile_quants]
  rcases hq with hq | hq
  · have hn (tab : Tab Quant) (h : tfind tab q = none) (g : Quant → Quant) :
        tfind (tab.filterMap fun e => if g e.2 = {} then none else some (e.1, g e.2)) q = none := by
      induction tab with
      | nil => rfl
      | cons e tab ih =>
        obtain ⟨k, v⟩ := e
        by_cases hk : k = q
        · rw [tfind, if_pos hk] at h
          cases h
        · rw [tfind, if_neg hk] at h
          rw [List.filterMap_cons]
          by_cases hz : g v = {}
          · simpa only [hz, if_true] using ih h
          · simpa only [hz, if_false, tfind, hk] using ih h
    rw [tget, hn _ hq fun x => { x with forming := x.forming.filter fun f => f.tile ≠ t.id }, Dev.quant, tget, hq]
  · have hfind : tfind d.quants q = some (d.quant q) := by
      unfold Dev.quant tget at hq ⊢
      cases h : tfind d.quants q with
      | none =>
        rw [h] at hq
        exact (hq rfl).elim
      | some v => rfl
    have hkeep : ({ d.quant q with forming := (d.quant q).forming.filter fun f => f.tile ≠ t.id } : Quant) = d.quant q := by
      rw [List.filter_eq_self.mpr fun g hm => decide_eq_true (hg g hm)]
    have hmap := tfind_filterMap ({} : Quant) (fun x : Quant => { x with forming := x.forming.filter fun f => f.tile ≠ t.id }) hfind (by rw [hkeep]; exact hq)
    rw [hkeep] at hmap
    rw [tget, hmap]
    rfl

/-- What is put in a table is not the default, or has no entry. -/
theorem tfind_tput {α : Type} [DecidableEq α] (z : α) (t : Tab α) (k : Nat) (v : α) : tfind (tput z t k v) k = none ∨ tget z (tput z t k v) k ≠ z := by
  by_cases h : v = z
  · rw [tput, if_pos h]
    exact .inl (tfind_tdel_same t k)
  · rw [tget_tput_same]
    exact .inr h

theorem dropForming_forming (q tile : Nat) (d : Dev) : ∀ g ∈ ((dropForming q tile d).quant q).forming, g.tile ≠ tile := by
  unfold dropForming
  rw [Dev.quant_modQuant_same]
  intro g hg
  simpa using (List.mem_filter.mp hg).2

theorem dropForming_track (q tile : Nat) (d : Dev) : ((dropForming q tile d).quant q).track = (d.quant q).track := by
  unfold dropForming
  rw [Dev.quant_modQuant_same]

/-- The tile with one forming side fewer before it. -/
def Tile.sideEnded (y : Tile) (q : Nat) : Tile :=
  { y with reduced := y.reduced ++ [(2 ^ 40 + q, 0)], items := y.items - 1, stage := if y.items ≤ 1 then .formed else y.stage }

/-- A side that ends its issue leaves its tile to the others, or to its commit; a strict tile that has met SCALE_MISS fails then. -/
theorem endForming_ends {q tile : Nat} {d : Dev} {y : Tile} (hy : d.tileOf tile = some y) :
    (∀ g ∈ ((endForming q tile d).quant q).forming, g.tile ≠ tile) ∧ ((endForming q tile d).quant q).track = (d.quant q).track ∧
      (endForming q tile d).ctr = d.ctr ∧
      (y.items ≤ 1 → y.strictMiss = true → Poisoned (endForming q tile d) y) ∧
      (y.items ≤ 1 ∧ y.strictMiss = true ∨
        endForming q tile d = { d with quants := (endForming q tile d).quants, tiles := (endForming q tile d).tiles } ∧
          (endForming q tile d).tileOf tile = some (y.sideEnded q)) := by
  have hid := tileOf_id hy
  have hd := dropForming_forming q tile d
  have ht := dropForming_track q tile d
  have hfind := tfind_tput ({} : Quant) d.quants q { d.quant q with forming := (d.quant q).forming.filter fun y => y.tile ≠ tile }
  have hfr : dropForming q tile d = { d with quants := (dropForming q tile d).quants } := rfl
  have hq : tfind (dropForming q tile d).quants q = none ∨ (dropForming q tile d).quant q ≠ {} := hfind
  have hy1 : (dropForming q tile d).tileOf tile = some y := hy
  unfold endForming
  generalize dropForming q tile d = d1 at hd ht hfr hq hy1 ⊢
  have hy2 := tileOf_modTile_same hy1 (f := fun y => { y with reduced := y.reduced ++ [(2 ^ 40 + q, 0)] }) fun _ => rfl
  generalize hd2 : d1.modTile tile (fun y => { y with reduced := y.reduced ++ [(2 ^ 40 + q, 0)] }) = d2 at hy2
  have h2 : d2 = { d1 with tiles := d2.tiles } := by rw [← hd2]; rfl
  have hquant (k) : d2.quant k = d1.quant k := by rw [h2]; rfl
  have hq2 : tfind d2.quants q = none ∨ d2.quant q ≠ {} := by
    rw [hquant, h2]
    exact hq
  unfold itemDone
  rw [hy2]
  dsimp only
  by_cases hm : y.items ≤ 1 ∧ y.strictMiss = true
  · have hc : d2.ctr = d.ctr := by rw [h2, hfr]
    have hfq := quant_failTile (t := { y with reduced := y.reduced ++ [(2 ^ 40 + q, 0)] }) (q := q) stScaleMiss
      (by rw [hquant]; exact fun g hg => hid.symm ▸ hd g hg) hq2
    have hpo := poisoned_failTile { y with reduced := y.reduced ++ [(2 ^ 40 + q, 0)] } stScaleMiss d2
    rw [if_pos hm, hfq, hquant, failTile_ctr]
    exact ⟨hd, ht, hc, fun _ _ => hpo, .inl hm⟩
  · rw [if_neg hm]
    refine ⟨fun g hg => hd g ?_, ?_, ?_, fun h h' => (hm ⟨h, h'⟩).elim, .inr ⟨?_, ?_⟩⟩
    · rw [← hquant]
      exact hg
    · exact (congrArg Quant.track (hquant q)).trans ht
    · show d2.ctr = d.ctr
      rw [h2, hfr]
    · show ({ d2 with tiles := _ } : Dev) = { d with quants := d2.quants, tiles := _ }
      rw [h2, hfr]
      rfl
    · exact tileOf_modTile_same hy2 (f := fun t => { t with items := t.items - 1, stage := if t.items ≤ 1 then .formed else t.stage }) fun _ => rfl

/-- The parts of an issue that can end, the intermediate first. -/
def endingParts (d : Dev) (x : Tile) (f : Forming) : List Nat := [1, 0].filter fun p => !f.ended.contains p && partLeft d x p

theorem formingIssueEndOp_eq {q tile : Nat} {d : Dev} {x : Tile} {f : Forming} (hx : d.tileOf tile = some x) (hf : formingOf d q tile = some f)
    (hruns : domRuns d (quantDom q) = true) : formingIssueEndOp q tile d =
    if endingParts d x f = [] then d else
      (fun d1 => if f.ended.length + (endingParts d x f).length = 2 then endForming q tile d1 else d1)
        ((endingParts d x f).foldl (fun e p => (e.tileOf tile).elim e fun t => endPart q t f e p) d) := by
  unfold formingIssueEndOp
  rw [hx, hf]
  by_cases h : endingParts d x f = []
  · rw [if_pos h]
    exact if_pos (.inl h)
  · rw [if_neg h]
    refine if_neg ?_
    rintro (h' | h')
    · exact h h'
    · rw [hruns] at h'
      cases h'

theorem any_partMisses (d : Dev) (x : Tile) (f : Forming) (ps : List Nat) : ps.any (partMisses d x f) =
    (((ps.map (judgeAll d x f)).flatten.any fun j => j.2.miss) ||
      ps.any fun p => f.clips.any fun e => e.1 / 65536 = posKey p outPos && decide (0 < e.2)) := by
  induction ps with
  | nil => rfl
  | cons p ps ih =>
    rw [List.any_cons, List.any_cons, List.map_cons, List.flatten_cons, List.any_append, ih, partMisses]
    ac_rfl

section End

variable {s : State} {engine : Bool} {unit tile : Nat} {x : Tile} {f : Forming} (hx : s.dev.tileOf tile = some x)
  (hruns : domRuns s.dev (quantDom (formingSide engine unit)) = true) (hf : formingOf s.dev (formingSide engine unit) tile = some f)
include hx hruns hf

theorem formingIssueEnd_none (h : endingParts s.dev x f = []) : exec (.formingIssueEnd engine unit tile) s = .next s := by
  rw [exec_formingIssueEnd, formingIssueEndOp_eq hx hf hruns, if_pos h]
  rfl

theorem formingIssue_ends (hss : formSs (formingSide engine unit) < 256) (hps : endingParts s.dev x f ≠ []) {missed : Bool}
    (hmissed : (endingParts s.dev x f).any (partMisses s.dev x f) = missed) :
    let q := formingSide engine unit
    let ps := endingParts s.dev x f
    let js := (ps.map (judgeAll s.dev x f)).flatten
    let ends : Bool := f.ended.length + ps.length = 2
    ∃ t, exec (.formingIssueEnd engine unit tile) s = .next t ∧
      (if ends then ∀ g ∈ (t.dev.quant q).forming, g.tile ≠ tile else formingOf t.dev q tile = some { f with ended := f.ended ++ ps }) ∧
      (outVecOf s.dev x 0 = none → outVecOf s.dev x 1 = none →
        (t.dev.quant q).track = if f.trk = 2 then (s.dev.quant q).track
          else js.foldl (fun r j => tput {} r j.1 j.2.entry) (s.dev.quant q).track) ∧
      (missed = true → x.smiss = false → x.strictMiss = false →
        counterOf t.dev 0x2043 (formSs q) = counterOf s.dev 0x2043 (formSs q) + 1) ∧
      (missed = true → f.strict = true → ends = true → x.items ≤ 1 → Poisoned t.dev x) ∧
      (missed = true → f.strict = true → (ends = false ∨ 1 < x.items) →
        ∃ y, t.dev.tileOf tile = some y ∧ y.strictMiss = true ∧ y.items = if ends then x.items - 1 else x.items) ∧
      (missed = false ∨ f.strict = false → x.strictMiss = false →
        t = s.on { s.dev with quants := t.dev.quants, outVecs := t.dev.outVecs, tiles := t.dev.tiles, ctr := t.dev.ctr, log := t.dev.log } ∧
        t.dev.tileOf tile = some (if ends then
            { x with reduced := x.reduced ++ [(2 ^ 40 + q, 0)], items := x.items - 1,
                     stage := if x.items ≤ 1 then .formed else x.stage, smiss := x.smiss || missed }
          else { x with smiss := x.smiss || missed })) := by
  intro q ps js ends
  have hop := formingIssueEndOp_eq hx hf hruns
  rw [if_neg hps] at hop
  have hid := tileOf_id hx
  subst hid
  have hended := partsEnded_foldl hss (ls := ps) (partsEnded_nil hx hf)
  rw [List.nil_append] at hended
  have hps01 : ∀ p ∈ ps, p = 0 ∨ p = 1 := fun p hp => by
    have := (List.mem_filter.mp hp).1
    simp at this
    omega
  refine ⟨_, exec_formingIssueEnd s engine unit x.id, ?_⟩
  simp only [State.on_dev]
  rw [hop]
  clear hop
  change PartsEnded s.dev q x f ps (ps.foldl (fun e p => (e.tileOf x.id).elim e fun t => endPart q t f e p) s.dev) at hended
  generalize hd1 : ps.foldl (fun e p => (e.tileOf x.id).elim e fun t => endPart q t f e p) s.dev = d1 at hended
  clear hd1
  beta_reduce
  obtain ⟨hfr, htile, hform, -, htrack, hmiss⟩ := hended
  have htr0 : outVecOf s.dev x 0 = none → outVecOf s.dev x 1 = none → (d1.quant q).track = if f.trk = 2 then (s.dev.quant q).track
      else js.foldl (fun r j => tput {} r j.1 j.2.entry) (s.dev.quant q).track := fun h0 h1 => htrack fun p hp => by
    rcases hps01 p hp with rfl | rfl
    exacts [h0, h1]
  have hmc : missed = true → x.smiss = false → x.strictMiss = false →
      counterOf d1 0x2043 (formSs q) = counterOf s.dev 0x2043 (formSs q) + 1 := fun hm h1 h2 => by
    have hm' : ps.any (partMisses s.dev x f) = true := hmissed.trans hm
    simpa [hm', h1, h2] using hmiss
  have hm' : ps.any (partMisses s.dev x f) = missed := hmissed
  rw [hm'] at htile
  change d1.tileOf x.id = some (x.withMisses (x.smiss || (missed && !f.strict)) (x.strictMiss || (missed && f.strict))) at htile
  have hmarks : missed = false ∨ f.strict = false → x.strictMiss = false →
      x.withMisses (x.smiss || (missed && !f.strict)) (x.strictMiss || (missed && f.strict)) = { x with smiss := x.smiss || missed } := fun hm h => by
    rcases hm with hm | hm <;> rw [hm, h] <;> cases missed <;> simp [Tile.withMisses]
  clear htrack hmiss
  clear_value js
  by_cases hends : f.ended.length + ps.length = 2
  · have he : ends = true := decide_eq_true hends
    have hop : (if f.ended.length + (endingParts s.dev x f).length = 2 then endForming (formingSide engine unit) x.id d1 else d1) =
      endForming q x.id d1 := if_pos hends
    rw [hop, he]
    simp only [if_true]
    obtain ⟨hg, htr, hctr, hpo, hleft⟩ := endForming_ends (q := q) htile
    generalize endForming q x.id d1 = e at hg htr hctr hpo hleft ⊢
    refine ⟨hg, fun h0 h1 => htr.trans (htr0 h0 h1), fun hm h1 h2 => ?_, fun hm hs _ hi => hpo hi ?_, fun hm hs hor => ?_, fun hor hst => ?_⟩
    · rw [counterOf, hctr]
      exact hmc hm h1 h2
    · simp [Tile.withMisses, hm, hs]
    · rcases hleft with ⟨hi, -⟩ | ⟨-, hy⟩
      · have hi' : x.items ≤ 1 := hi
        rcases hor with h | h
        · cases h
        · omega
      · exact ⟨_, hy, by simp [Tile.sideEnded, Tile.withMisses, hm, hs], rfl⟩
    · rw [hmarks hor hst] at hleft
      rcases hleft with ⟨-, hi⟩ | ⟨hfr', hy⟩
      · have hi' : x.strictMiss = true := hi
        rw [hst] at hi'
        cases hi'
      · exact ⟨by rw [hfr', hfr], hy⟩
  · have he : ends = false := decide_eq_false hends
    have hop : (if f.ended.length + (endingParts s.dev x f).length = 2 then endForming (formingSide engine unit) x.id d1 else d1) = d1 := if_neg hends
    rw [hop, he]
    simp only [Bool.false_eq_true, if_false]
    refine ⟨hform, htr0, hmc, fun _ _ h => h.elim, fun hm hs _ => ⟨_, htile, ?_, rfl⟩, fun hor hst => ⟨by rw [← hfr], ?_⟩⟩
    · simp [Tile.withMisses, hm, hs]
    · rw [← hmarks hor hst]
      exact htile

end End

/-- Settles O26: the start of a forming issue, its elements, its outlier values and its end, each by its operation. -/
theorem formingIssuesQuantise : Obligations.FormingIssuesQuantise := by
  unfold Obligations.FormingIssuesQuantise
  intro s engine unit tile x q hx hruns hss
  refine ⟨fun hst hq hnone hend hb => formingIssue_starts hx hruns hst hq hnone hend hb, fun f part vec pos hf hv hp => ⟨fun hpos hheld => ?_, ?_, ?_⟩,
    fun f hf => ⟨fun h => formingIssueEnd_none hx hruns hf h, fun h => ?_⟩⟩
  · rw [exec_quantiseElement, quantiseElementOp_block hx hf hv hp hruns hpos, if_neg (by simp [hheld])]
    rfl
  · intro hpos hcol hseen hheld hready hout
    have hop := quantiseElementOp_block (pos := pos) hx hf hv hp hruns hpos
    rw [if_pos (by simp [hcol, hseen, hheld, hready])] at hop
    obtain ⟨hfr, hrest⟩ := blockElement_leaves (vec := vec) hx hf hout
    refine ⟨_, exec_quantiseElement s q tile part vec pos, ?_⟩
    simp only [State.on_dev]
    rw [hop]
    exact ⟨congrArg s.on hfr, hrest⟩
  · rintro i o rfl ho hi hseen hdom col v e b hready
    have hop := quantiseElementOp_outlier hx hf hv hp hruns ho (i := i)
    rw [if_pos (by simpa [hi, hdom] using ⟨hseen, hready⟩)] at hop
    obtain ⟨hfr, hov, h1, h2, hc⟩ := outlierElement_leaves (q := q) (vec := vec) (i := i) (col := col) hx ho
    refine ⟨_, exec_quantiseElement s q tile part vec (2 ^ 32 + i), ?_⟩
    simp only [State.on_dev]
    rw [hop]
    exact ⟨congrArg s.on hfr, hov, h1, h2, hc⟩
  · exact formingIssue_ends hx hruns hf hss h (any_partMisses s.dev x f _)

end Sys2Proof.Machine

/-!
PROOFS for the conversion DMA (R88, R109, R500).
-/
namespace Sys2Proof.Machine

open Sys2Proof

theorem exec_conversionDmaBlock (s : State) (hub fmt : Nat) (toHost : Bool) (elems : List (BitVec 32)) (exp : BitVec 8) (data scale : Nat)
    (y : List Nat) : exec (.conversionDmaBlock hub fmt toHost elems exp ⟨data, scale, y⟩) s =
      .next (s.on (conversionDmaOp s.variant hub fmt toHost elems exp data scale y s.dev)) := rfl

variable {d e : Dev}

/-! ### What the DMA reads and writes -/

theorem dmaTensor_kind {h : Nat} {x : Desc × Alloc} (hx : dmaTensor d h = some x) : x.2.kind = .stack ∧ x.1.form = 0 := by
  unfold dmaTensor at hx
  obtain ⟨y, -, hy⟩ := Option.bind_eq_some_iff.mp hx
  split at hy
  · next hform =>
    obtain ⟨al, -, hal⟩ := Option.bind_eq_some_iff.mp hy
    split at hal
    · next hk =>
      cases hal
      exact ⟨hk, hform.1⟩
    · cases hal
  · cases hy

theorem Accessed.readBytes (h : Accessed d e) (v : Variant) {al : Alloc} (hk : al.kind = .stack) (rd : Reader) (o n : Nat) :
    Accessed d (readBytes v al rd o n e).2.2 := by
  unfold Machine.readBytes
  rw [hk]
  exact h.devRead ..

theorem Accessed.readBits (h : Accessed d e) (v : Variant) {al : Alloc} (hk : al.kind = .stack) (rd : Reader) (bit n : Nat) :
    Accessed d (readBits v al rd bit n e).2.2 := by
  unfold Machine.readBits
  dsimp only
  split <;> exact h.readBytes v hk ..

theorem Accessed.dmaRead (h : Accessed d e) (v : Variant) (hub : Nat) {x : Desc} {al : Alloc} (hx : al.kind = .stack ∧ x.form = 0)
    (y : List Nat) (n : Nat) : Accessed d (dmaRead v hub x al y n e).2.2 := by
  refine h.foldl_snd_snd _ _ fun r i hr => ?_
  have hb := hr.readBits v hx.1 { issuer := 0, tile := none, src := hubEndpoint hub 6 0 } (denseBit x (blockCoord x y i)) (fmtBits x.fmt)
  dsimp only [elemAtPlace]
  rw [hx.2]
  exact hb

theorem Accessed.dmaWrite (h : Accessed d e) (v : Variant) (x : Desc) (al : Alloc) (y bits : List Nat) : Accessed d (dmaWrite v x al y bits e) :=
  List.foldlRecOn (motive := fun e => Accessed d e) _ _ h fun _ he _ _ => (he.devWrite ..).other _ _ _

/-! ### A block from the host -/

theorem countFit_frame (ss : Nat) (b : BitVec 8 × List (Int × Bool × Bool) × Bool) (d : Dev) :
    countFit ss b d = { d with ctr := (countFit ss b d).ctr } := by
  unfold countFit
  dsimp only
  generalize (b.2.1.filter fun e => e.2.1).length = c
  generalize (b.2.1.filter fun e => e.2.2).length = n
  rfl

theorem importBlock_frame (ss fmt : Nat) (ocp : Bool) (elems : List (BitVec 32)) (exp : BitVec 8) (d : Dev) :
    (importBlock ss fmt ocp elems exp d).2 = { d with ctr := (importBlock ss fmt ocp elems exp d).2.ctr } := by
  unfold importBlock
  split
  · split <;> rfl
  · exact countFit_frame ss _ d

theorem importBlock_code {exp e : BitVec 8} {ocp : Bool} (h : (if ocp then ocpImport exp else some exp) = some e) (ss : Nat)
    (elems : List (BitVec 32)) (d : Dev) : importBlock ss 0 ocp elems exp d = ((e, elems.map fun x => x.setWidth 8), d) := by
  unfold importBlock
  rw [if_pos rfl, h]

theorem importBlock_noCode {exp : BitVec 8} {ocp : Bool} (h : (if ocp then ocpImport exp else some exp) = none) (ss : Nat)
    (elems : List (BitVec 32)) (d : Dev) : importBlock ss 0 ocp elems exp d = ((0, elems.map fun _ => 0), d.count 0x2048 ss 1) := by
  unfold importBlock
  rw [if_pos rfl, h]

theorem ocpImport_low {exp : BitVec 8} (h : exp.toNat ≤ 5) : ocpImport exp = none := by
  unfold ocpImport
  rw [if_neg (by rintro rfl; exact absurd h (by decide)), if_pos h]

theorem ocpImport_code {exp : BitVec 8} (h : 5 < exp.toNat) (hn : exp ≠ 0xFF) : ocpImport exp = some (exp - 6) := by
  unfold ocpImport
  rw [if_neg hn, if_neg (by omega)]

theorem import_same {exp : BitVec 8} {ocp : Bool} (h : ocp = false ∨ exp = 0xFF) : (if ocp then ocpImport exp else some exp) = some exp := by
  rcases h with rfl | rfl
  · rfl
  · cases ocp <;> rfl

/-- A fitted block's clips and values that are not finite are counted. -/
theorem counterOf_countFit (ss : Nat) (b : BitVec 8 × List (Int × Bool × Bool) × Bool) (d : Dev) :
    counterOf (countFit ss b d) 0x2041 ss = counterOf d 0x2041 ss + (b.2.1.filter fun r => r.2.1).length ∧
      counterOf (countFit ss b d) 0x2046 ss = counterOf d 0x2046 ss + (b.2.1.filter fun r => r.2.2).length := by
  unfold countFit
  dsimp only
  rw [counterOf_count_entry _ (by decide), counterOf_count_entry _ (by decide), counterOf_count_same, counterOf_count_entry _ (by decide),
    counterOf_count_same, counterOf_count_entry _ (by decide)]
  exact ⟨rfl, rfl⟩

theorem exportBlock_frame (ss fmt : Nat) (ocp : Bool) (elems : List (BitVec 32)) (exp : BitVec 8) (d : Dev) :
    (exportBlock ss fmt ocp elems exp d).2 = { d with ctr := (exportBlock ss fmt ocp elems exp d).2.ctr } := by
  unfold exportBlock
  split
  · dsimp only
    split <;> rfl
  · rfl

theorem exportBlock_code {exp e : BitVec 8} {ocp : Bool} (h : (if ocp then ocpExport exp else some exp) = some e) (ss : Nat)
    (elems : List (BitVec 32)) (d : Dev) : exportBlock ss 0 ocp elems exp d = ((e, elems.map fun x => (x.setWidth 8).setWidth 32), d) := by
  unfold exportBlock
  rw [if_pos rfl, h]

theorem exportBlock_noCode {exp : BitVec 8} {ocp : Bool} (h : (if ocp then ocpExport exp else some exp) = none) (ss : Nat)
    (elems : List (BitVec 32)) (d : Dev) : exportBlock ss 0 ocp elems exp d =
      ((0xFF, elems.map fun x => (x.setWidth 8).setWidth 32), d.count 0x2046 ss 1) := by
  unfold exportBlock
  rw [if_pos rfl, h]

theorem ocpExport_high {exp : BitVec 8} (h : 0xF9 ≤ exp.toNat) (hn : exp ≠ 0xFF) : ocpExport exp = none := by
  unfold ocpExport
  rw [if_neg hn, if_pos h]

theorem ocpExport_code {exp : BitVec 8} (h : exp.toNat < 0xF9) : ocpExport exp = some (exp + 6) := by
  unfold ocpExport
  rw [if_neg (by rintro rfl; exact absurd h (by decide)), if_neg (by omega)]

theorem export_same {exp : BitVec 8} {ocp : Bool} (h : ocp = false ∨ exp = 0xFF) : (if ocp then ocpExport exp else some exp) = some exp := by
  rcases h with rfl | rfl
  · rfl
  · cases ocp <;> rfl

section

variable {s : State} {hub fmt data scale : Nat} {y : List Nat} {x : Desc × Alloc} (hquiet : NoTileWaits s.dev)
  (hon : targetOffline s.dev (.hub hub) = false) (hx : dmaTensor s.dev data = some x) (hin : inTensor x.1 y = true)
include hquiet hon hx hin

theorem conversion_imports {q : Desc × Alloc} (elems : List (BitVec 32)) (exp : BitVec 8) (hq : dmaTensor s.dev scale = some q)
    (hxf : x.1.fmt = 0) (hqf : q.1.fmt = 0xA) (hxu : x.1.use = 1) (hqu : q.1.use = 1) :
    let r := importBlock (ssHub hub) fmt (x.1.ocp || q.1.ocp) (elems.take (blockLen x.1 y)) exp s.dev
    ∃ t, exec (.conversionDmaBlock hub fmt false elems exp ⟨data, scale, y⟩) s = .next t ∧
      t = s.on { s.dev with mem := t.dev.mem, ctr := t.dev.ctr, out := t.dev.out, gone := t.dev.gone } ∧
      t.dev.mem = (dmaWrite s.variant q.1 q.2 (y.set q.1.kdim (y.getD q.1.kdim 0 / 32)) [r.1.1.toNat]
        (dmaWrite s.variant x.1 x.2 y (r.1.2.map BitVec.toNat) r.2)).mem ∧
      t.dev.out.getLast? = some (.dma hub r.1.1 (r.1.2.map fun b => b.setWidth 32)) := by
  intro r
  have hop : conversionDmaOp s.variant hub fmt false elems exp data scale y s.dev = dmaImport s.variant hub fmt elems exp x q y s.dev := by
    unfold conversionDmaOp
    rw [hx, hq, hon]
    refine (if_neg (by decide)).trans ?_
    show (if !inTensor x.1 y then _ else _) = _
    rw [hin]
    exact (if_neg (by decide)).trans ((if_neg (by decide)).trans (if_pos ⟨hxf, hqf, hxu, hqu⟩))
  have hr : r.2 = { s.dev with ctr := r.2.ctr } := importBlock_frame ..
  have hr' : Accessed s.dev r.2 := by
    rw [hr]
    exact (Accessed.refl hquiet).other ..
  have hacc := (hr'.dmaWrite s.variant x.1 x.2 y (r.1.2.map BitVec.toNat)).dmaWrite s.variant q.1 q.2
    (y.set q.1.kdim (y.getD q.1.kdim 0 / 32)) [r.1.1.toNat]
  have hop' : dmaImport s.variant hub fmt elems exp x q y s.dev = (dmaWrite s.variant q.1 q.2 (y.set q.1.kdim (y.getD q.1.kdim 0 / 32)) [r.1.1.toNat]
      (dmaWrite s.variant x.1 x.2 y (r.1.2.map BitVec.toNat) r.2)).emit (.dma hub r.1.1 (r.1.2.map fun b => b.setWidth 32)) := rfl
  refine ⟨_, exec_conversionDmaBlock s hub fmt false elems exp data scale y, ?_⟩
  simp only [State.on_dev]
  rw [hop, hop']
  generalize dmaWrite s.variant q.1 q.2 (y.set q.1.kdim (y.getD q.1.kdim 0 / 32)) [r.1.1.toNat]
      (dmaWrite s.variant x.1 x.2 y (r.1.2.map BitVec.toNat) r.2) = e at hacc ⊢
  exact ⟨congrArg s.on (by rw [hacc.frame]; rfl), rfl, List.getLast?_concat⟩

/-! ### A block to the host -/

theorem conversion_exports (elems : List (BitVec 32)) (exp : BitVec 8) {sc : Option (Desc × Alloc)}
    (hfmt : fmt = 0 ∧ dmaTensor s.dev scale = sc ∧ sc.isSome = true ∨ fmt ≠ 0 ∧ sc = none) :
    let r := dmaRead s.variant hub x.1 x.2 y (blockLen x.1 y) s.dev
    let e : List Nat × Bool × Dev := match sc with
      | some q => dmaRead s.variant hub q.1 q.2 (y.set q.1.kdim (y.getD q.1.kdim 0 / 32)) 1 r.2.2
      | none => ([0], false, r.2.2)
    let b := exportBlock (ssHub hub) fmt (x.1.ocp || sc.elim false fun q => q.1.ocp) (r.1.map (exportBits fmt x.1)) (BitVec.ofNat 8 (nth 0 e.1 0)) e.2.2
    r.2.1 = false → e.2.1 = false → ∃ t, exec (.conversionDmaBlock hub fmt true elems exp ⟨data, scale, y⟩) s = .next t ∧
      t = s.on { s.dev with mem := t.dev.mem, ctr := t.dev.ctr, out := t.dev.out, gone := t.dev.gone, free := t.dev.free } ∧
      t.dev.out.getLast? = some (.dma hub b.1.1 b.1.2) ∧ t.dev.ctr = b.2.ctr := by
  intro r e b hr he
  have hop : conversionDmaOp s.variant hub fmt true elems exp data scale y s.dev = dmaExport s.variant hub fmt x sc y s.dev := by
    unfold conversionDmaOp
    rw [hx, hon]
    refine (if_neg (by decide)).trans ?_
    show (if !inTensor x.1 y then _ else _) = _
    rw [hin]
    rcases hfmt with ⟨rfl, rfl, hsome⟩ | ⟨hne, rfl⟩
    · rw [Option.isSome_iff_ne_none] at hsome
      exact (if_neg (by decide)).trans ((if_pos rfl).trans ((if_neg (by simp [hsome])).trans (congrArg (fun q => dmaExport s.variant hub 0 x q y s.dev) (if_pos rfl))))
    · exact (if_neg (by decide)).trans ((if_pos rfl).trans ((if_neg (by simp [hne])).trans (congrArg (fun q => dmaExport s.variant hub fmt x q y s.dev) (if_neg hne))))
  have hr' : Accessed s.dev r.2.2 := (Accessed.refl hquiet).dmaRead s.variant hub (dmaTensor_kind hx) y _
  have he' : Accessed s.dev e.2.2 := by
    rcases hfmt with ⟨-, hq, -⟩ | ⟨-, rfl⟩
    · cases sc with
      | none => exact hr'
      | some q => exact hr'.dmaRead s.variant hub (dmaTensor_kind hq) _ 1
    · exact hr'
  have hb : b.2 = { e.2.2 with ctr := b.2.ctr } := exportBlock_frame ..
  have hop' : dmaExport s.variant hub fmt x sc y s.dev = if r.2.1 || e.2.1 then e.2.2 else b.2.emit (.dma hub b.1.1 b.1.2) := by
    unfold dmaExport
    cases sc <;> rfl
  refine ⟨_, exec_conversionDmaBlock s hub fmt true elems exp data scale y, ?_⟩
  simp only [State.on_dev]
  rw [hop, hop', hr, he]
  clear_value b
  obtain ⟨b, f⟩ := b
  refine ⟨congrArg s.on ?_, List.getLast?_concat, rfl⟩
  show f.emit _ = _
  have hb' : f = { e.2.2 with ctr := f.ctr } := hb
  rw [hb', he'.frame]
  rfl

end

/-- Settles O27: a block that comes in and a block that goes out, by the code that its exponent has on the other side. -/
theorem conversionsMoveBlocks : Obligations.ConversionsMoveBlocks := by
  unfold Obligations.ConversionsMoveBlocks
  intro s hub fmt data scale elems exp y x hquiet hon hx hin
  refine ⟨fun q hq hxf hqf hxu hqu => ?_, ?_⟩
  · intro ocp es ss
    obtain ⟨t, hexec, hfr, hmem, hout⟩ := conversion_imports hquiet hon hx hin elems exp hq hxf hqf hxu hqu (fmt := fmt)
    refine ⟨t, _, _, _, hexec, hfr, importBlock_frame .., hmem, hout, ?_, ?_, ?_, fun hf => ?_⟩
    · rintro rfl h
      rw [importBlock_code (import_same h)]
      exact ⟨rfl, rfl, rfl⟩
    · rintro rfl (h : (x.1.ocp || q.1.ocp) = true) hlow
      rw [importBlock_noCode (by rw [h]; exact ocpImport_low hlow)]
      exact ⟨rfl, rfl, s.dev.counted_count 0x2048 ss 1⟩
    · rintro rfl (h : (x.1.ocp || q.1.ocp) = true) hlow hne
      rw [importBlock_code (e := exp - 6) (by rw [h]; exact ocpImport_code hlow hne)]
      exact ⟨rfl, rfl, rfl⟩
    · intro b
      have hop : importBlock (ssHub hub) fmt (x.1.ocp || q.1.ocp) (elems.take (blockLen x.1 y)) exp s.dev =
        ((b.1, b.2.1.map fun r => BitVec.ofInt 8 r.1), countFit ss b s.dev) := if_neg hf
      rw [hop]
      clear_value b
      exact ⟨rfl, rfl, counterOf_countFit ss b s.dev⟩
  · intro r es
    refine ⟨fun hf hr => ?_, fun q hf hq => ?_⟩
    · obtain ⟨t, hexec, hfr, hout, -⟩ := conversion_exports hquiet hon hx hin elems exp (scale := scale) (.inr ⟨hf, rfl⟩) hr rfl
      refine ⟨t, hexec, hfr, hout.trans ?_⟩
      unfold exportBlock
      rw [if_neg hf]
    · subst hf
      intro ocp r2 e low hr hr2
      obtain ⟨t, hexec, hfr, hout, hctr⟩ := conversion_exports hquiet hon hx hin elems exp (fmt := 0) (.inl ⟨rfl, hq, rfl⟩) hr hr2
      refine ⟨t, hexec, hfr, fun h => ?_, fun h hhigh hne => ?_, fun h hlow => ?_⟩
      · have hb := exportBlock_code (export_same h) (ssHub hub) es r2.2.2
        exact ⟨hout.trans (congrArg (fun b => some (Output.dma hub b.1.1 b.1.2)) hb), hctr.trans (congrArg (fun b => b.2.ctr) hb)⟩
      · have hb := exportBlock_noCode (exp := e) (ocp := ocp) (by rw [h]; exact ocpExport_high hhigh hne) (ssHub hub) es r2.2.2
        refine ⟨hout.trans (congrArg (fun b => some (Output.dma hub b.1.1 b.1.2)) hb), fun k => ?_⟩
        rw [hctr.trans (congrArg (fun b => b.2.ctr) hb)]
        exact r2.2.2.counted_count 0x2046 (ssHub hub) 1 k
      · have hb := exportBlock_code (e := e + 6) (exp := e) (ocp := ocp) (by rw [h]; exact ocpExport_code hlow) (ssHub hub) es r2.2.2
        exact ⟨hout.trans (congrArg (fun b => some (Output.dma hub b.1.1 b.1.2)) hb), hctr.trans (congrArg (fun b => b.2.ctr) hb)⟩

end Sys2Proof.Machine

/-!
PROOFS for the maintenance commands (R249, R375, R376, R456, R457): what a reset leaves of the commands in flight and of the sequence.
-/
namespace Sys2Proof.Machine

open Sys2Proof

/-! ### What a reset leaves -/

/-- The commands in flight and the sequence are as they were. -/
def Steady (d e : Dev) : Prop := e.cmds = d.cmds ∧ e.seq = d.seq

/-- A test as it was, or forgotten by its command. -/
def KeepsTarget (g : TestRun → TestRun) : Prop := ∀ r, (g r).target = r.target ∧ (g r).test = r.test

/-- Of the commands in flight those of the ports that `own` names may have ended. -/
structure CmdsKept (own : Nat → Bool) (d e : Dev) : Prop where
  fewer : e.cmds.Sublist d.cmds
  others : (d.cmds.map fun c => c.id).Nodup → ∀ c ∈ d.cmds, own c.port = false → c ∈ e.cmds

/-- From `d` to `e` units have been reset: commands of the ports that `own` names may have ended, and a test may have lost its command. -/
structure UnitReset (own : Nat → Bool) (d e : Dev) : Prop where
  cmds : CmdsKept own d e
  seq : ∃ g, KeepsTarget g ∧ e.seq = { d.seq with tests := d.seq.tests.map g }

variable {own : Nat → Bool} {d e f : Dev}

theorem Steady.refl (d : Dev) : Steady d d := ⟨rfl, rfl⟩

theorem Steady.trans (h : Steady d e) (h' : Steady e f) : Steady d f := ⟨h'.1.trans h.1, h'.2.trans h.2⟩

theorem Steady.foldl {α : Type} (h : Steady d e) (f : Dev → α → Dev) (l : List α) (hf : ∀ e a, Steady e (f e a)) : Steady d (l.foldl f e) :=
  List.foldlRecOn (motive := fun e => Steady d e) l f h fun e he a _ => he.trans (hf e a)

theorem Steady.ite (h : Steady d e) {c : Prop} [Decidable c] (hf : Steady d f) : Steady d (if c then f else e) := by
  split
  · exact hf
  · exact h

theorem CmdsKept.trans (h : CmdsKept own d e) (h' : CmdsKept own e f) : CmdsKept own d f :=
  ⟨h'.fewer.trans h.fewer, fun hn c hc ho => h'.others ((h.fewer.map _).nodup hn) c (h.others hn c hc ho) ho⟩

theorem Steady.kept (h : Steady d e) (own : Nat → Bool) : CmdsKept own d e := ⟨h.1 ▸ List.Sublist.refl _, fun _ _ hc _ => h.1 ▸ hc⟩

theorem UnitReset.refl (own : Nat → Bool) (d : Dev) : UnitReset own d d :=
  ⟨(Steady.refl d).kept own, id, fun _ => ⟨rfl, rfl⟩, by rw [List.map_id]⟩

theorem UnitReset.trans (h : UnitReset own d e) (h' : UnitReset own e f) : UnitReset own d f where
  cmds := h.cmds.trans h'.cmds
  seq := by
    obtain ⟨g, hg, hs⟩ := h.seq
    obtain ⟨g', hg', hs'⟩ := h'.seq
    refine ⟨g' ∘ g, fun r => ⟨(hg' _).1.trans (hg r).1, (hg' _).2.trans (hg r).2⟩, ?_⟩
    rw [hs', hs, List.map_map]

theorem Steady.reset (h : Steady d e) (own : Nat → Bool) : UnitReset own d e :=
  ⟨h.kept own, id, fun _ => ⟨rfl, rfl⟩, by rw [h.2, List.map_id]⟩

theorem UnitReset.steady (h : UnitReset own d e) (h' : Steady e f) : UnitReset own d f := h.trans (h'.reset own)

theorem UnitReset.foldl {α : Type} (h : UnitReset own d e) (f : Dev → α → Dev) (l : List α) (hf : ∀ e a, UnitReset own e (f e a)) :
    UnitReset own d (l.foldl f e) :=
  List.foldlRecOn (motive := fun e => UnitReset own d e) l f h fun e he a _ => he.trans (hf e a)

theorem steady_of_afterAccess (h : AfterAccess d e) : Steady d e := by
  rw [h.frame]
  exact Steady.refl d

theorem steady_loseTiles (hit : Tile → Bool) (iss : Nat → Bool) (d : Dev) : Steady d (loseTiles hit iss d) := by
  rw [(tilesLost_loseTiles hit iss d).frame]
  exact Steady.refl d

theorem steady_resetHops (v : Variant) (t : Target) (d : Dev) : Steady d (resetHops v t d) := by
  rw [resetHops_frame]
  exact Steady.refl d

/-! ### Wedges, facets and engines -/

theorem steady_resetWedge (w : Nat) (d : Dev) : Steady d (resetWedge w d) := by
  have h := steady_loseTiles (fun t => t.onWedge w) (fun c => c == w) d
  unfold resetWedge
  generalize loseTiles (fun t => t.onWedge w) (fun c => c == w) d = e at h ⊢
  exact h

theorem steady_resetFacet (v : Variant) (k : Nat) (d : Dev) : Steady d (resetFacet v k d) := by
  have h := (steady_loseTiles (fun t => t.wedges.any fun w => w / 16 = k) (fun c => c / 16 = k) d).foldl (fun d w => resetWedge (16 * k + w) d)
    (List.range 16) fun e _ => steady_resetWedge _ e
  unfold resetFacet
  dsimp only
  generalize (List.range 16).foldl (fun d w => resetWedge (16 * k + w) d) _ = e at h ⊢
  exact h.trans (steady_resetHops v (.facet k) e)

theorem steady_resetEngine (n : Nat) (d : Dev) : Steady d (resetEngine n d) := by
  have h := steady_loseTiles (fun t => t.onEngine n) (fun _ => false) d
  unfold resetEngine
  generalize loseTiles (fun t => t.onEngine n) (fun _ => false) d = e at h ⊢
  exact h

theorem steady_resetLane (n l : Nat) (d : Dev) : Steady d (resetLane n l d) := steady_loseTiles ..

theorem steady_resetSlice (slice : Nat) (d : Dev) : Steady d (resetSlice slice d) := by
  unfold resetSlice emptySlice
  rw [writeBackSlice_frame]
  exact Steady.refl d

theorem steady_resetCore (h c : Nat) (d : Dev) : Steady d (resetCore h c d) := steady_loseTiles ..

/-! ### Links -/

theorem steady_startLink (v : Variant) (l : Nat) (d : Dev) : Steady d (startLink v l d) := by
  unfold startLink
  exact (Steady.refl d).ite (Steady.refl d)

theorem steady_failRemote (r : RemoteReq) (st : BitVec 8) (d : Dev) : Steady d (failRemote r st d) := by
  have ha : Steady d (remoteAnswer r [] (some st) d) := by
    unfold remoteAnswer
    dsimp only
    split <;> exact Steady.refl d
  unfold failRemote
  dsimp only
  split
  · exact ha.trans (steady_of_afterAccess (afterAccess_failTile (AfterAccess.refl _) ..))
  · exact ha

theorem steady_resetLink (v : Variant) (l : Nat) (d : Dev) : Steady d (resetLink v l d) := steady_startLink v l (linkLost l d)

theorem steady_resetGroup (v : Variant) (h g : Nat) (d : Dev) : Steady d (resetGroup v h g d) := by
  refine Steady.foldl (Steady.trans ?_ (steady_resetHops v (.group h g) _)) _ _ fun e l => steady_resetLink v l e
  refine (Steady.refl d).foldl _ _ fun e b => ?_
  exact (Steady.refl (e.setBundle { b with list := [], held := [] })).foldl (e := e.setBundle { b with list := [], held := [] }) _ _
    fun e r => steady_failRemote r stLinkDown e

/-! ### Control domains and ports -/

theorem steady_abandonLoad (l : Load) (d : Dev) : Steady d (abandonLoad l d) := by
  have h := (Steady.refl d).foldl (fun d t => (dropRepairs t.1 t.2 d).modMac t.1 fun x => x.setBank t.2 {}) l.targets fun e t => by
    rw [dropRepairs_frame]
    exact Steady.refl e
  exact h

/-- A test forgets the command that ran it. -/
theorem unitReset_forget (own : Nat → Bool) (id : Nat) (d : Dev) : UnitReset own d { d with
    seq := { d.seq with tests := d.seq.tests.map fun t => if t.cmd = some id then { t with cmd := none } else t } } where
  cmds := ⟨List.Sublist.refl _, fun _ _ hc _ => hc⟩
  seq := ⟨_, fun r => by split <;> exact ⟨rfl, rfl⟩, rfl⟩

theorem unitReset_dropCommand (own : Nat → Bool) (c : Cmd) (d : Dev) : UnitReset own d (dropCommand c d) := by
  unfold dropCommand
  split
  · exact ((steady_abandonLoad _ d).reset own).trans (unitReset_forget own c.id _)
  · exact unitReset_forget own c.id d

theorem finish_cmds_mem {d : Dev} {id : Nat} {st dt : BitVec 8} {b : Bool} {r : BitVec 64} {c : Cmd} (hc : c ∈ d.cmds) (hid : c.id ≠ id) :
    c ∈ (d.finish id st dt b r).cmds := by
  unfold Dev.finish
  split
  · exact hc
  · have hm : c ∈ d.cmds.filter fun e => e.id != id := List.mem_filter.mpr ⟨hc, by simpa using hid⟩
    dsimp only
    split <;> exact hm

/-- A command of a port that `own` names ends. -/
theorem UnitReset.finish (h : UnitReset own d e) {c : Cmd} (hc : c ∈ d.cmds) (ho : own c.port = true) (st dt : BitVec 8) (b : Bool) (r : BitVec 64) :
    UnitReset own d (e.finish c.id st dt b r) where
  cmds := ⟨(commandsEnded_finish e c.id st dt b r).1.cmds.trans h.cmds.fewer, fun hn x hx hxo => finish_cmds_mem (h.cmds.others hn x hx hxo) fun hid => by
    have hxc : x = c := List.inj_on_of_nodup_map hn hx hc hid
    rw [hxc, ho] at hxo
    cases hxo⟩
  seq := by
    rw [Dev.finish_seq]
    exact h.seq

theorem unitReset_endRunning {own : Nat → Bool} {l : List Cmd} (hl : ∀ c ∈ l, own c.port = true) (hd : ∀ c ∈ l, c ∈ d.cmds) :
    UnitReset own d (endRunning l d) :=
  List.foldlRecOn (motive := fun e => UnitReset own d e) l _ (UnitReset.refl own d) fun e he c hc =>
    (he.trans (unitReset_dropCommand own c e)).finish (hd c hc) (hl c hc) ..

theorem steady_resetCes (v : Variant) (h : Nat) (l : List Nat) (d : Dev) : Steady d (resetCes v h l d) :=
  (Steady.refl d).foldl _ l fun e n => Steady.trans (f := resetHops v (.ce (16 * h + n)) (resetCe (16 * h + n) e))
    (e := resetCe (16 * h + n) e) (Steady.refl e) (steady_resetHops ..)

theorem unitReset_resetControlOf (v : Variant) (cores : List Nat) {h : Nat} {own : Nat → Bool} (ho : own h = true) (d : Dev) :
    UnitReset own d (resetControlOf v cores h d) := by
  have hrun := unitReset_endRunning (own := own) (l := runningOn d h) (d := d) (fun c hc => by
    have := (List.mem_filter.mp hc).2
    simp only [Bool.and_eq_true, decide_eq_true_eq] at this
    rw [this.1.1]
    exact ho) fun c hc => (List.mem_filter.mp hc).1
  unfold resetControlOf
  dsimp only
  rw [show List.foldl (fun (d : Dev) c => (dropCommand c d).fails c.id stUnitOffline 0) d (runningOn d h) = endRunning (runningOn d h) d from rfl]
  generalize endRunning (runningOn d h) d = a at hrun ⊢
  generalize (fun x => cores.any fun c => x == 0x4000 + 4 * h + c) = lost
  have hcores : Steady a (cores.foldl (fun d c => resetHops v (.core h c) (resetCore h c d)) (loseTiles (fun _ => false) lost a)) :=
    (steady_loseTiles ..).foldl _ _ fun e c => (steady_resetCore h c e).trans (steady_resetHops ..)
  generalize cores.foldl (fun d c => resetHops v (.core h c) (resetCore h c d)) (loseTiles (fun _ => false) lost a) = b at hcores ⊢
  have hces := steady_resetCes v h (List.range 16) b
  rw [show List.foldl (fun (d : Dev) i => resetHops v (.ce (16 * h + i)) (resetCe (16 * h + i) d)) b (List.range 16) = resetCes v h (List.range 16) b from rfl]
  generalize resetCes v h (List.range 16) b = c at hces ⊢
  rw [resetHops_frame]
  exact hrun.steady (hcores.trans hces)

theorem steady_endJob {j : Job} (hj : j.cmd = none) (d : Dev) : Steady d (endJob j d) := by
  have hd := (afterAccess_dropJobTiles j.id d).frame
  unfold endJob
  rw [hj]
  generalize dropJobTiles j.id d = e at hd ⊢
  dsimp only
  rw [(settled_settlePins _).frame]
  refine ⟨?_, ?_⟩ <;> rw [hd]

theorem steady_abortJobNow {j : Job} (hj : j.cmd = none) (d : Dev) : Steady d (abortJobNow j d) := by
  unfold abortJobNow
  split
  · unfold failEnd
    exact steady_endJob (by exact hj) d
  split
  · exact Steady.refl d
  · have hd := (afterAccess_dropJobTiles j.id d).frame
    unfold abortJob
    generalize dropJobTiles j.id d = e at hd ⊢
    refine ⟨?_, ?_⟩
    · show e.cmds = d.cmds
      rw [hd]
    · show e.seq = d.seq
      rw [hd]

theorem unitReset_resetPort {h : Nat} {own : Nat → Bool} (ho : own h = true) (d : Dev) : UnitReset own d (resetPort h d) := by
  unfold resetPort
  dsimp only
  have h1 : Steady d ((d.jobs.filter fun j => j.port = h).foldl (fun (d : Dev) j =>
      abortJobNow { j with cmd := none } (d.modJob j.id fun x => { x with cmd := none })) d) :=
    (Steady.refl d).foldl _ _ fun e j => Steady.trans (e := e.modJob j.id fun x => { x with cmd := none }) (Steady.refl e) (steady_abortJobNow rfl _)
  generalize (d.jobs.filter fun j => j.port = h).foldl (fun (d : Dev) j =>
      abortJobNow { j with cmd := none } (d.modJob j.id fun x => { x with cmd := none })) d = e1 at h1 ⊢
  have h2 : UnitReset own d ((d.cmds.filter fun c => c.port = h).foldl (fun (d : Dev) c => dropCommand c d) e1) :=
    (h1.reset own).foldl _ _ fun e c => unitReset_dropCommand own c e
  generalize (d.cmds.filter fun c => c.port = h).foldl (fun (d : Dev) c => dropCommand c d) e1 = e2 at h2 ⊢
  have h3 : UnitReset own e2 { e2 with cmds := e2.cmds.filter (fun c => c.port ≠ h), comps := e2.comps.filter (fun c => c.port ≠ h) } :=
    ⟨⟨List.filter_sublist, fun _ c hc hco => List.mem_filter.mpr ⟨hc, decide_eq_true fun hp => by rw [hp, ho] at hco; cases hco⟩⟩,
      id, fun _ => ⟨rfl, rfl⟩, by rw [List.map_id]⟩
  have h3' := h2.trans h3
  generalize ({ e2 with cmds := e2.cmds.filter (fun c => c.port ≠ h), comps := e2.comps.filter (fun c => c.port ≠ h) } : Dev) = e3 at h3' ⊢
  rw [releaseDescs_frame]
  have h4 (e : Dev) (he : Steady e3 e) : UnitReset own d ((losePortEntries h ((settlePins e).setPort h { ({} : HostPort) with resetting := true })).count 0x1206 (h + 1) 1) := by
    refine h3'.steady (he.trans ?_)
    rw [(settled_settlePins e).frame]
    exact Steady.refl e
  exact h4 _ (Steady.refl e3)

theorem steady_trainIfFree (v : Variant) (p : Nat) (d : Dev) : Steady d (trainIfFree v p d) := by
  rw [trainIfFree_frame]
  exact Steady.refl d

theorem unitReset_resetHub (v : Variant) {h : Nat} {own : Nat → Bool} (ho : own h = true) (d : Dev) : UnitReset own d (resetHub v h d) := by
  unfold resetHub
  dsimp only
  have h1 := steady_loseTiles (fun t => t.wedges.any (fun w => hubOfWedge w = h) || t.engine.elim false (fun e => e / 8 = h))
    (fun c => issuerHub c = h) d
  generalize loseTiles (fun t => t.wedges.any (fun w => hubOfWedge w = h) || t.engine.elim false (fun e => e / 8 = h))
    (fun c => issuerHub c = h) d = e1 at h1 ⊢
  have h2 := h1.foldl _ (facetsOfHub v h) fun e k => steady_resetFacet v k e
  generalize (facetsOfHub v h).foldl (fun d f => resetFacet v f d) e1 = e2 at h2 ⊢
  have h3 := h2.foldl _ (List.range 8) fun e k => (steady_resetEngine (8 * h + k) e).trans (steady_resetHops v (.engine h k) _)
  generalize (List.range 8).foldl (fun d e => resetHops v (.engine h e) (resetEngine (8 * h + e) d)) e2 = e3 at h3 ⊢
  have h4 := h3.foldl _ (List.range 4) fun e k => (steady_resetSlice (4 * h + k) e).trans (steady_resetHops v (.slice h k) _)
  generalize (List.range 4).foldl (fun d k => resetHops v (.slice h k) (resetSlice (4 * h + k) d)) e3 = e4 at h4 ⊢
  have h5 := h4.foldl _ ((List.range 2).filter (groupPresent v h)) fun e g => steady_resetGroup v h g e
  generalize ((List.range 2).filter (groupPresent v h)).foldl (fun d g => resetGroup v h g d) e4 = e5 at h5 ⊢
  exact (((h5.reset own).trans (unitReset_resetControlOf v _ ho e5)).trans (unitReset_resetPort ho _)).steady (steady_resetHops ..)

/-- A reset of a unit ends no command but those of a port that is the unit's own. -/
theorem unitReset_resetUnit (v : Variant) (t : Target) (d : Dev) : UnitReset (fun p => ownUnit p t) d (resetUnit v t d) := by
  cases t with
  | wedge k w => exact (steady_resetWedge _ d).reset _
  | mac k w m =>
    have h : Steady d (resetUnit v (.mac k w m) d) := steady_loseTiles ..
    exact h.reset _
  | facet k => exact (steady_resetFacet v k d).reset _
  | engine h n => exact ((steady_resetEngine (8 * h + n) d).trans (steady_resetHops ..)).reset _
  | lane h n l => exact (steady_resetLane (8 * h + n) l d).reset _
  | slice h k => exact ((steady_resetSlice (4 * h + k) d).trans (steady_resetHops ..)).reset _
  | core h c => exact unitReset_resetControlOf v _ (decide_eq_true rfl) d
  | stack h k => exact UnitReset.refl _ d
  | link l =>
    have h : Steady d (resetUnit v (.link l) d) := steady_resetLink v l d
    exact h.reset _
  | group h g => exact (steady_resetGroup v h g d).reset _
  | port h => exact (unitReset_resetPort (decide_eq_true rfl) d).steady (steady_resetHops ..)
  | ce n => exact (Steady.trans (e := resetCe n d) (Steady.refl d) (steady_resetHops ..)).reset _
  | mgmt => exact UnitReset.refl _ d
  | hub h => exact unitReset_resetHub v (decide_eq_true rfl) d

theorem unitReset_resetBack (v : Variant) (t : Target) (d : Dev) : UnitReset (fun p => ownUnit p t) d (resetBack v t d) := by
  have h := unitReset_resetUnit v t d
  unfold resetBack
  dsimp only
  split
  · exact h.steady (steady_trainIfFree ..)
  · exact h.steady (steady_trainIfFree ..)
  · exact h

/-- A command of another port is in flight after a reset. -/
theorem CmdsKept.cmdOf (h : CmdsKept own d e) (hs : d.Sound) {id : Nat} {c : Cmd} (hc : d.cmdOf id = some c) (ho : own c.port = false) :
    e.cmdOf id = some c := by
  have hn : (d.cmds.map fun c => c.id).Nodup := hs.ids
  have hid := of_decide_eq_true (List.find?_some (p := fun x : Cmd => decide (x.id = id)) hc)
  have hmem := h.others hn c (List.mem_of_find?_eq_some hc) ho
  have hn' : (e.cmds.map fun c => c.id).Nodup := (h.fewer.map _).nodup hn
  have hsome : (e.cmdOf id).isSome := List.find?_isSome.mpr ⟨c, hmem, decide_eq_true hid⟩
  obtain ⟨x, hx⟩ := Option.isSome_iff_exists.mp hsome
  have hxid := of_decide_eq_true (List.find?_some (p := fun x : Cmd => decide (x.id = id)) hx)
  rw [hx, List.inj_on_of_nodup_map hn' (List.mem_of_find?_eq_some hx) hmem (hxid.trans hid.symm)]

end Sys2Proof.Machine

/-!
PROOFS for CALIBRATE, SELFTEST and RESET UNIT (R249, R375, R376, R456, R457).
-/
namespace Sys2Proof.Machine

open Sys2Proof

theorem exec_calibrate (s : State) (cmd : Nat) : exec (.calibrate cmd) s = .next (s.on (calibrateOp s.variant cmd s.dev)) := rfl

theorem exec_selftest (s : State) (cmd : Nat) : exec (.selftest cmd) s = .next (s.on (selftestOp cmd s.dev)) := rfl

theorem exec_selftestDone (s : State) (target : BitVec 32) (o : TestOutcome) :
    exec (.selftestDone target o) s = .next (s.on (selftestDoneOp s.variant target o s.dev)) := rfl

theorem exec_resetUnit (s : State) (cmd : Nat) : exec (.resetUnit cmd) s = .next (s.on (resetUnitOp s.variant cmd s.dev)) := rfl

theorem exec_resetDeferralExpiry (s : State) (target : BitVec 32) (us : Nat) :
    exec (.resetDeferralExpiry target us) s = .next (s.on (deferralOp s.variant target us s.dev)) := rfl

variable {own : Nat → Bool} {d e f : Dev}

/-! ### CALIBRATE (R375) -/

/-- A command that runs on and waits for what `ms` numbers. -/
theorem cmdOf_busy_waits {cmd : Nat} {c : Cmd} (hc : d.cmdOf cmd = some c) (ms : List Nat) :
    (({ d with cmds := (d.busy cmd).cmds.map fun x => if x.id = cmd then { x with waits := ms } else x } : Dev).cmdOf cmd) =
      some { c with stage := .busy, waits := ms } := by
  have hid := (Dev.cmdOf_id hc).1
  show List.find? _ (List.map _ (List.map _ d.cmds)) = _
  rw [cmdOf_map (fun x => by split <;> rfl), cmdOf_map (fun x => by split <;> rfl)]
  rw [Dev.cmdOf] at hc
  simp [hc, hid]

/-- A background calibration is requested of a macro. -/
def requestCal (d : Dev) (m : Nat) : Dev := d.modMac m fun x => { x with cal := { x.cal with req := true } }

theorem requestCals_frame (ms : List Nat) (d : Dev) : ms.foldl requestCal d = { d with macros := (ms.foldl requestCal d).macros } :=
  List.foldlRecOn (motive := fun e : Dev => e = { d with macros := e.macros }) ms _ rfl fun e he m _ => by
    show ({ e with macros := _ } : Dev) = _
    rw [he]
    rfl

theorem requestCals_other {ms : List Nat} {m : Nat} (hm : m ∉ ms) (d : Dev) : (ms.foldl requestCal d).mac m = d.mac m :=
  List.foldlRecOn (motive := fun e : Dev => e.mac m = d.mac m) ms _ rfl fun e he k hk =>
    (Dev.mac_modMac_other e _ fun h : m = k => hm (h.symm ▸ hk)).trans he

theorem requestCals_requested : ∀ {ms : List Nat} {m : Nat} (_ : m ∈ ms) (d : Dev), ((ms.foldl requestCal d).mac m).cal.req = true
  | k :: ms, m, hm, d => by
    rw [List.foldl_cons]
    by_cases hms : m ∈ ms
    · exact requestCals_requested hms _
    · have hk : m = k := (List.mem_cons.mp hm).resolve_right hms
      subst hk
      rw [requestCals_other hms, requestCal, Dev.mac_modMac_same]

theorem calibrate_runs {s : State} {cmd : Nat} {c : Cmd} (hc : s.dev.starting cmd 0x28 = some c) :
    let ms := ((targetOf (bitsOf (c.P 0) 31 0)).elim [] targetMacros).filter (calibrates s.variant s.dev)
    (ms = [] → ∃ t, exec (.calibrate cmd) s = .next t ∧ Ended s.dev t.dev c stSuccess 0 0 ∧
      t = s.on { s.dev with cmds := t.dev.cmds, comps := t.dev.comps }) ∧
    (ms ≠ [] → ∃ t, exec (.calibrate cmd) s = .next t ∧ t = s.on { s.dev with cmds := t.dev.cmds, macros := t.dev.macros } ∧
      (∀ m ∈ ms, (t.dev.mac m).cal.req = true) ∧ (∀ m, m ∉ ms → t.dev.mac m = s.dev.mac m) ∧
      ∃ c', t.dev.cmdOf cmd = some c' ∧ c'.stage = .busy ∧ c'.waits = ms) := by
  intro ms
  obtain ⟨hcmd, -, -⟩ := Dev.starting_cases hc
  refine ⟨fun h => ?_, fun h => ?_⟩
  · have hop : calibrateOp s.variant cmd s.dev = s.dev.succeeds cmd 0 := by
      unfold calibrateOp
      rw [hc]
      exact if_pos h
    rw [exec_calibrate, hop, Dev.succeeds_eq hcmd]
    exact ⟨_, rfl, ⟨rfl, rfl⟩, rfl⟩
  · have hop : calibrateOp s.variant cmd s.dev = { ms.foldl requestCal (s.dev.busy cmd) with
        cmds := (ms.foldl requestCal (s.dev.busy cmd)).cmds.map fun e => if e.id = cmd then { e with waits := ms } else e } := by
      unfold calibrateOp
      rw [hc]
      exact if_neg h
    have hfr := requestCals_frame ms (s.dev.busy cmd)
    have hmac : ∀ m, m ∉ ms → (ms.foldl requestCal (s.dev.busy cmd)).mac m = s.dev.mac m := fun m hm => requestCals_other hm _
    have hreq : ∀ m ∈ ms, ((ms.foldl requestCal (s.dev.busy cmd)).mac m).cal.req = true := fun m hm => requestCals_requested hm _
    have hcmd' := cmdOf_busy_waits hcmd ms
    refine ⟨_, exec_calibrate s cmd, ?_⟩
    simp only [State.on_dev]
    rw [hop]
    generalize ms.foldl requestCal (s.dev.busy cmd) = e at hfr hmac hreq ⊢
    have hcmds : e.cmds = (s.dev.busy cmd).cmds := by rw [hfr]
    refine ⟨congrArg s.on (by rw [hfr]; rfl), hreq, hmac, { c with stage := .busy, waits := ms }, ?_, rfl, rfl⟩
    rw [hcmds]
    exact hcmd'

/-! ### SELFTEST (R456) -/

/-- A unit is among those that its test takes out of service. -/
theorem mem_testedUnits {n : Nat} {u : Target} (h : targetOf n = some u) : u ∈ testedUnits u := by
  cases u with
  | core hub c =>
    have hc : c < 4 := by
      unfold targetOf at h
      simp only at h
      split at h
      · cases h
      · split at h <;> simp at h
        omega
    exact List.mem_append_left _ (List.mem_map.mpr ⟨c, List.mem_range.mpr hc, rfl⟩)
  | _ => exact List.mem_cons_self

theorem steady_loopLink (l : Nat) (d : Dev) : Steady d (loopLink l d) := Steady.refl d

/-- The isolation of a unit ends no command but those of a port that it is. -/
theorem unitReset_isolateNow (t : Target) (d : Dev) : UnitReset (fun p => ownUnit p t) d (isolateNow t d) := by
  cases t with
  | port h => exact (unitReset_resetPort (own := fun p => ownUnit p (.port h)) (decide_eq_true rfl) d).steady (Steady.refl _)
  | group h g => exact ((Steady.refl d).foldl _ (groupLinks h g) fun e l => steady_loopLink l e).reset _
  | stack h k => exact ((Steady.refl d).foldl _ (stackSlices h k) fun e l => steady_resetSlice l e).reset _
  | slice h k =>
    have hs : Steady d (writeBackSlice (4 * h + k) d) := by
      rw [writeBackSlice_frame]
      exact Steady.refl d
    exact hs.reset _
  | link l => exact Steady.reset (steady_loopLink l d) _
  | _ => exact UnitReset.refl _ d

section Selftest

variable {s : State} {cmd : Nat} {c : Cmd} {u : Target} (hc : s.dev.starting cmd 0x29 = some c) (hu : targetOf (bitsOf (c.P 0) 31 0) = some u)
  (htest : hasTest u (bitsOf (c.P 1) 3 0) = true) (hown : bitsOf (c.P 1) 3 0 = 2 ∨ ownUnit c.port u = false)
include hc hu htest hown

theorem selftestOp_of_checked : selftestOp cmd s.dev =
    if !testTarget s.dev u then s.dev.fails cmd stUnitOffline 0
    else if s.dev.seq.tests.any (fun x => x.target = codeOf u) then s.dev.fails cmd stUnitBusy 0
    else
      (fun d2 => if bitsOf (c.P 1) 3 0 = 2 then
        match marchCode u with
        | some k => d2.setSbank k { d2.sbank k with march := some 0 }
        | none => d2
        else isolateNow u { d2 with seq := { d2.seq with isolated := d2.seq.isolated ++ (testedUnits u).map codeOf } })
      { s.dev.busy cmd with seq := { s.dev.seq with
        tests := s.dev.seq.tests ++ [{ target := codeOf u, test := bitsOf (c.P 1) 3 0, cmd := some cmd }] } } := by
  unfold selftestOp
  rw [hc]
  dsimp only
  rw [hu]
  refine (if_neg ?_).trans rfl
  rw [htest]
  rcases hown with h | h <;> simp [h]

theorem selftest_offline (h : testTarget s.dev u = false) : ∃ t, exec (.selftest cmd) s = .next t ∧ Ended s.dev t.dev c stUnitOffline 0 0 ∧
    t = s.on { s.dev with cmds := t.dev.cmds, comps := t.dev.comps } := by
  obtain ⟨hcmd, -, -⟩ := Dev.starting_cases hc
  rw [exec_selftest, selftestOp_of_checked hc hu htest hown, if_pos (by rw [h]; rfl), Dev.fails_eq hcmd (by decide)]
  exact ⟨_, rfl, ⟨rfl, rfl⟩, rfl⟩

theorem selftest_running (h : testTarget s.dev u = true) (hrun : s.dev.seq.tests.any (fun x => x.target = codeOf u) = true) :
    ∃ t, exec (.selftest cmd) s = .next t ∧ Ended s.dev t.dev c stUnitBusy 0 0 ∧
      t = s.on { s.dev with cmds := t.dev.cmds, comps := t.dev.comps } := by
  obtain ⟨hcmd, -, -⟩ := Dev.starting_cases hc
  rw [exec_selftest, selftestOp_of_checked hc hu htest hown, if_neg (by rw [h]; decide), if_pos hrun, Dev.fails_eq hcmd (by decide)]
  exact ⟨_, rfl, ⟨rfl, rfl⟩, rfl⟩

theorem selftest_begins (h : testTarget s.dev u = true) (hrun : s.dev.seq.tests.any (fun x => x.target = codeOf u) = false) :
    ∃ t, exec (.selftest cmd) s = .next t ∧ (∃ r ∈ t.dev.seq.tests, r.target = codeOf u ∧ r.test = bitsOf (c.P 1) 3 0) ∧
      (bitsOf (c.P 1) 3 0 ≠ 2 → targetHeld t.dev u = true) ∧
      (∀ k, bitsOf (c.P 1) 3 0 = 2 → marchCode u = some k → t.dev.seq.isolated = s.dev.seq.isolated ∧ (t.dev.sbank k).march = some 0) := by
  have hop := selftestOp_of_checked hc hu htest hown
  rw [if_neg (by rw [h]; decide), if_neg (by rw [hrun]; decide)] at hop
  refine ⟨_, exec_selftest s cmd, ?_⟩
  simp only [State.on_dev]
  rw [hop]
  clear hop
  generalize hd2 : ({ s.dev.busy cmd with seq := { s.dev.seq with
        tests := s.dev.seq.tests ++ [{ target := codeOf u, test := bitsOf (c.P 1) 3 0, cmd := some cmd }] } } : Dev) = d2
  have hseq : d2.seq = { s.dev.seq with tests := s.dev.seq.tests ++ [{ target := codeOf u, test := bitsOf (c.P 1) 3 0, cmd := some cmd }] } := by
    rw [← hd2]
  have hr : ({ target := codeOf u, test := bitsOf (c.P 1) 3 0, cmd := some cmd } : TestRun) ∈ d2.seq.tests := by
    rw [hseq]
    exact List.mem_append_right _ List.mem_cons_self
  beta_reduce
  by_cases h2 : bitsOf (c.P 1) 3 0 = 2
  · rw [if_pos h2]
    refine ⟨?_, fun h => (h h2).elim, fun k _ hk => ?_⟩
    · split
      · exact ⟨_, hr, rfl, rfl⟩
      · exact ⟨_, hr, rfl, rfl⟩
    · rw [hk]
      exact ⟨(congrArg Seq.isolated hseq :), congrArg SpadBank.march (Dev.sbank_setSbank_same d2 k { d2.sbank k with march := some 0 })⟩
  · rw [if_neg h2]
    obtain ⟨g, hg, hs⟩ := (unitReset_isolateNow u { d2 with seq := { d2.seq with isolated := d2.seq.isolated ++ (testedUnits u).map codeOf } }).seq
    generalize isolateNow u { d2 with seq := { d2.seq with isolated := d2.seq.isolated ++ (testedUnits u).map codeOf } } = e at hs ⊢
    refine ⟨⟨g { target := codeOf u, test := bitsOf (c.P 1) 3 0, cmd := some cmd }, ?_, (hg _).1, (hg _).2⟩, fun _ => ?_, fun _ h => (h2 h).elim⟩
    · rw [hs]
      exact List.mem_map_of_mem hr
    · have hiso : codeOf u ∈ e.seq.isolated := by
        rw [hs]
        exact List.mem_append_right _ (List.mem_map_of_mem (mem_testedUnits hu))
      unfold targetHeld
      rw [List.any_cons]
      simp [hiso]

end Selftest

/-! ### The end of a test (R456, R457) -/

/-- What the end of a test leaves: the command's completion, no test of the unit, and no isolation. -/
theorem endTest_ends {r : TestRun} {id : Nat} {c : Cmd} {u : Target} (hid : r.cmd = some id) (hc : d.cmdOf id = some c)
    (hu : targetOf r.target.toNat = some u) (hcode : codeOf u = r.target) (ok : Bool) (o : TestOutcome) :
    ∃ cp, (endTest r ok o d).comps = d.comps ++ [cp] ∧ cp.cid = c.cid ∧ cp.port = c.port ∧ cp.q = c.q ∧
      cp.status = (if ok then stSuccess else stSelftestFailed) ∧ (∀ x ∈ (endTest r ok o d).seq.tests, x.target ≠ r.target) ∧
      (r.test ≠ 2 → r.target ∉ (endTest r ok o d).seq.isolated) ∧ (r.test = 2 → (endTest r ok o d).seq.isolated = d.seq.isolated) ∧
      (endTest r ok o d).seq.unitHeld = d.seq.unitHeld := by
  have hst : (if ok then stSuccess else stSelftestFailed) ≠ stHostAccess := by cases ok <;> decide
  unfold endTest
  rw [hid, hu]
  dsimp only
  rw [Dev.finish_of_cmdOf (c := c) (by exact hc) hst]
  refine ⟨_, rfl, rfl, rfl, rfl, rfl, fun x hx => by simpa using (List.mem_filter.mp hx).2, fun h2 hmem => ?_, fun h2 => if_pos h2, rfl⟩
  dsimp only at hmem
  rw [if_neg h2] at hmem
  have hnot := (List.mem_filter.mp hmem).2
  rw [Option.elim_some, List.contains_eq_mem, decide_eq_true (hcode ▸ List.mem_map_of_mem (mem_testedUnits hu))] at hnot
  cases hnot

theorem steady_countMarch (t : Target) (test : Nat) (o : TestOutcome) (d : Dev) : Steady d (countMarch t test o d) :=
  ((Steady.refl d).foldl (fun (d : Dev) k => d.count 0x3052 (marchSs k) 1) _ fun e _ => Steady.refl e).foldl _ _ fun e w => by
    rw [(marchFault_frame w.1 (w.2 / 32) e).1]
    exact Steady.refl e

theorem steady_dropSpares (bad : List Nat) (d : Dev) : Steady d (dropSpares bad d) := (Steady.refl d).foldl _ bad fun e _ => Steady.refl e

theorem steady_endLoop (v : Variant) (l : Nat) (bad : BitVec 4) (d : Dev) : Steady d (endLoop v l bad d) :=
  steady_startLink v l ((linkLost l d).modLink l fun x => { x with loopback := false, badLanes := bad })

theorem steady_wakeWedge (w : Nat) (d : Dev) : Steady d (wakeWedge w d) := by
  have h : Steady d (dropAllRepairs (fun m => m / 192 = w) (resetWedge w d)) := by
    rw [dropAllRepairs_frame]
    exact steady_resetWedge w d
  unfold wakeWedge
  generalize dropAllRepairs (fun m => m / 192 = w) (resetWedge w d) = e at h ⊢
  exact h

theorem steady_wakeControl (h : Nat) (d : Dev) : Steady d (wakeControl h d) := by
  have hs : Steady d ((List.range 4).foldl (fun (d : Dev) c =>
      (resetCore h c d).setSbank (0x4000 + 4 * h + c) { reqs := [], clearing := true, march := none }) d) :=
    (Steady.refl d).foldl _ (List.range 4) fun e c => by
      have hr := steady_resetCore h c e
      generalize resetCore h c e = f at hr ⊢
      exact hr
  unfold wakeControl
  dsimp only
  generalize (List.range 4).foldl (fun (d : Dev) c =>
      (resetCore h c d).setSbank (0x4000 + 4 * h + c) { reqs := [], clearing := true, march := none }) d = e at hs ⊢
  exact hs

theorem steady_reinitMacro (m : Nat) (d : Dev) : Steady d (reinitMacro m d) := by
  have h : Steady d (dropAllRepairs (fun k => k = m) (resetMacro m d)) := by
    rw [dropAllRepairs_frame]
    exact steady_loseTiles ..
  unfold reinitMacro
  dsimp only
  generalize dropAllRepairs (fun k => k = m) (resetMacro m d) = e at h ⊢
  exact h

/-- A wake of a wedge after its macros have been recorded. -/
theorem steady_wakeRecorded (w : Nat) (d : Dev) : Steady d (wakeWedge w (recordWedge w d)) := by
  have h : Steady d (recordWedge w d) := Steady.refl d
  exact h.trans (steady_wakeWedge w _)

theorem unitReset_reinitUnit (v : Variant) (t : Target) (test : Nat) (o : TestOutcome) (d : Dev) :
    UnitReset (fun p => ownUnit p t) d (reinitUnit v t test o d) := by
  cases t with
  | wedge k w => exact (steady_wakeRecorded (16 * k + w) d).reset _
  | mac k w m => exact (steady_reinitMacro (3072 * k + 192 * w + m) d).reset _
  | facet k =>
    have hs : Steady d ((List.range 16).foldl (fun (d : Dev) w => wakeWedge (16 * k + w) (recordWedge (16 * k + w) d)) (resetFacet v k d)) :=
      (steady_resetFacet v k d).foldl _ (List.range 16) fun e w => steady_wakeRecorded (16 * k + w) e
    exact hs.reset _
  | engine h n =>
    have hs := (steady_resetEngine (8 * h + n) d).trans (steady_resetHops v (.engine h n) _)
    have hs' : Steady d (reinitUnit v (.engine h n) test o d) := by
      unfold reinitUnit
      dsimp only
      generalize resetHops v (.engine h n) (resetEngine (8 * h + n) d) = e at hs ⊢
      exact hs
    exact hs'.reset _
  | lane h n l =>
    have hs := steady_resetLane (8 * h + n) l d
    have hs' : Steady d (reinitUnit v (.lane h n l) test o d) := by
      unfold reinitUnit
      dsimp only
      generalize resetLane (8 * h + n) l d = e at hs ⊢
      exact hs
    exact hs'.reset _
  | slice h k =>
    have hs : Steady d (emptySlice (4 * h + k) d) := Steady.refl d
    exact (hs.trans (steady_resetHops v (.slice h k) _)).reset _
  | core h c => exact (unitReset_resetControlOf v _ (decide_eq_true rfl) d).steady (steady_wakeControl h _)
  | stack h k => exact UnitReset.refl _ d
  | link l => exact (steady_endLoop v l 0 d).reset _
  | group h g => exact ((Steady.refl d).foldl _ (groupLinks h g) fun e l => steady_endLoop v l 0 e).reset _
  | port h => exact (steady_trainIfFree v h d).reset _
  | ce n =>
    have hs : Steady d (resetCe n d) := Steady.refl d
    exact hs.reset _
  | mgmt =>
    have hs : Steady d (reinitUnit v .mgmt test o d) := by
      unfold reinitUnit
      exact (Steady.refl d).ite (Steady.refl d)
    exact hs.reset _
  | hub h => exact unitReset_resetUnit v (.hub h) d

/-- A hub that is freed keeps its commands, and the other units held. -/
theorem freeHub_kept (v : Variant) (t : Target) (d : Dev) : (freeHub v t d).cmds = d.cmds ∧ (freeHub v t d).seq.unitHeld = d.seq.unitHeld := by
  unfold freeHub
  split
  · next h _ =>
    have hs := ((Steady.refl { d with seq := { d.seq with hubHeld := d.seq.hubHeld.filter (· ≠ h) } }).foldl (fun d l => startLink v l d)
      (List.range' (16 * h) 16) fun e l => steady_startLink v l e).trans (steady_trainIfFree v h _)
    exact ⟨hs.1, (congrArg Seq.unitHeld hs.2 :)⟩
  · exact ⟨rfl, rfl⟩

/-- A unit that passes leaves reset, with the commands of other ports in flight. -/
theorem passUnit_kept (v : Variant) (t : Target) (test : Nat) (o : TestOutcome) (d : Dev) :
    CmdsKept (fun p => ownUnit p t) d (passUnit v t test o d) ∧
      (passUnit v t test o d).seq.unitHeld = d.seq.unitHeld.filter (fun u => u ≠ codeOf (heldTarget t) && u ≠ codeOf t) := by
  unfold passUnit
  dsimp only
  obtain ⟨hc, hh⟩ := freeHub_kept v t { d with seq := { d.seq with
    unitHeld := d.seq.unitHeld.filter (fun u => u ≠ codeOf (heldTarget t) && u ≠ codeOf t),
    isolated := d.seq.isolated.filter (fun u => !((testedUnits t).map codeOf).contains u) } }
  generalize freeHub v t _ = e1 at hc hh ⊢
  have h2 := unitReset_reinitUnit v t test o e1
  generalize reinitUnit v t test o e1 = e2 at h2 ⊢
  have hm : Steady e2 (mendHops (heldTarget t) e2) := Steady.refl e2
  generalize mendHops (heldTarget t) e2 = e2' at hm ⊢
  have h3 := hm.foldl (fun (d : Dev) m => d.modMac m fun x => { x with retire := true }) o.slots.eraseDups fun e _ => Steady.refl e
  generalize o.slots.eraseDups.foldl (fun (d : Dev) m => d.modMac m fun x => { x with retire := true }) e2' = e3 at h3 ⊢
  obtain ⟨hk, g, -, hs⟩ := h2.steady h3
  have h1 : CmdsKept (fun p => ownUnit p t) d e1 := ⟨hc ▸ List.Sublist.refl _, fun _ x hx _ => hc ▸ hx⟩
  exact ⟨h1.trans hk, (congrArg Seq.unitHeld hs).trans hh⟩

theorem steady_holdLink (l : Nat) (d : Dev) : Steady d (holdLink l d) := by
  have h : Steady d (linkLost l d) := Steady.refl d
  unfold holdLink
  generalize linkLost l d = e at h ⊢
  exact h

theorem ownUnit_heldTarget (p : Nat) (t : Target) : ownUnit p (heldTarget t) = ownUnit p t := by
  cases t <;> rfl

/-- A lane that fails its test leaves the ring. -/
def outOfRing (t : Target) (d : Dev) : Dev :=
  match t with
  | .lane h e n => d.modLane (8 * h + e) n fun x => { x with inRing := false }
  | _ => d

/-- A unit is held in reset. -/
def holding (h : BitVec 32) (d : Dev) : Dev :=
  { d with seq := { d.seq with unitHeld := if d.seq.unitHeld.contains h then d.seq.unitHeld else d.seq.unitHeld ++ [h] } }

/-- What the links and the port of a failed unit become. -/
def outOfService (t : Target) (d : Dev) : Dev :=
  match t with
  | .link l => holdLink l d
  | .group h g => (groupLinks h g).foldl (fun (d : Dev) l => holdLink l d) d
  | .port p => d.modPort p fun x => { x with linkUp := false, ready := false }
  | _ => d

theorem failUnit_eq (v : Variant) (t : Target) (d : Dev) : failUnit v t d =
    (outOfService t (holding (codeOf (heldTarget t)) (outOfRing t (raiseOut (issuersIn (heldTarget t)) d
      (loseIssuers (issuersIn (heldTarget t)) (resetUnit v (heldTarget t) d)))))).post evSelftestFail (targetHub t) (codeOf t) [] := by
  cases t <;> rfl

theorem steady_outOfRing (t : Target) (d : Dev) : Steady d (outOfRing t d) := by
  unfold outOfRing
  split <;> exact Steady.refl d

theorem steady_outOfService (t : Target) (d : Dev) : Steady d (outOfService t d) := by
  unfold outOfService
  split
  · exact steady_holdLink _ d
  · exact (Steady.refl d).foldl _ _ fun e l => steady_holdLink l e
  · exact Steady.refl d
  · exact Steady.refl d

theorem mem_holding (h : BitVec 32) (d : Dev) : h ∈ (holding h d).seq.unitHeld := by
  show h ∈ if d.seq.unitHeld.contains h then d.seq.unitHeld else d.seq.unitHeld ++ [h]
  split
  · next hh => exact List.contains_iff_mem.mp hh
  · exact List.mem_append_right _ List.mem_cons_self

/-- A unit that fails is held in reset, with the commands of other ports in flight. -/
theorem failUnit_kept (v : Variant) (t : Target) (d : Dev) :
    CmdsKept (fun p => ownUnit p t) d (failUnit v t d) ∧ codeOf (heldTarget t) ∈ (failUnit v t d).seq.unitHeld := by
  have hreset := unitReset_resetUnit v (heldTarget t) d
  simp only [ownUnit_heldTarget] at hreset
  rw [failUnit_eq]
  generalize resetUnit v (heldTarget t) d = e0 at hreset ⊢
  have h0 : Steady e0 (raiseOut (issuersIn (heldTarget t)) d (loseIssuers (issuersIn (heldTarget t)) e0)) := Steady.refl e0
  generalize raiseOut (issuersIn (heldTarget t)) d (loseIssuers (issuersIn (heldTarget t)) e0) = e1 at h0 ⊢
  have h1 := h0.trans (steady_outOfRing t e1)
  generalize outOfRing t e1 = e2 at h1 ⊢
  have h2 : CmdsKept (fun p => ownUnit p t) e2 (holding (codeOf (heldTarget t)) e2) :=
    ⟨List.Sublist.refl _, fun _ _ hc _ => hc⟩
  have hheld := mem_holding (codeOf (heldTarget t)) e2
  generalize holding (codeOf (heldTarget t)) e2 = e3 at h2 hheld ⊢
  have h3 := steady_outOfService t e3
  generalize outOfService t e3 = e4 at h3 ⊢
  have h4 : Steady e4 (e4.post evSelftestFail (targetHub t) (codeOf t) []) := Steady.refl e4
  have h34 := h3.trans h4
  refine ⟨((hreset.cmds.trans (h1.kept _)).trans h2).trans (h34.kept _), ?_⟩
  rw [h34.2]
  exact hheld

theorem settleLinks_kept (v : Variant) (test : Nat) (o : TestOutcome) (ls : List (Nat × List Nat)) (own : Nat → Bool) (d : Dev) :
    CmdsKept own d (settleLinks v test o ls d) :=
  List.foldlRecOn (motive := fun e => CmdsKept own d e) ls _ ((Steady.refl d).kept own) fun e he l _ => by
    split
    · exact he.trans ((steady_endLoop v l.1 _ e).kept own)
    · obtain ⟨hk, -⟩ := failUnit_kept v (.link l.1) e
      exact he.trans ⟨hk.fewer, fun hn c hc _ => hk.others hn c hc rfl⟩

section Done

variable {s : State} {target : BitVec 32} (o : TestOutcome) {r : TestRun} {u : Target} {id : Nat} {c : Cmd}
  (hr : s.dev.seq.tests.find? (fun x => x.target = target) = some r) (hu : targetOf target.toNat = some u) (hcode : codeOf u = target)
  (hid : r.cmd = some id) (hc : s.dev.cmdOf id = some c)
include hr hu hcode hid hc

theorem selftestDone_isolated (hs : s.dev.Sound) (h2 : r.test ≠ 2) (hdrained : unitDrained s.dev u = true) (hown : ownUnit c.port u = false) :
    ∃ t cp, exec (.selftestDone target o) s = .next t ∧ cp ∈ t.dev.comps ∧ cp.cid = c.cid ∧ cp.port = c.port ∧ cp.q = c.q ∧
      (∀ x ∈ t.dev.seq.tests, x.target ≠ target) ∧ target ∉ t.dev.seq.isolated ∧
      (let d1 := dropSpares (o.spares.filter (fun k => slotsIn u [k / 256 * 192])) (countMarch u r.test o s.dev)
       cp.status = (if linkFaults u r.test o = none ∧ unitPasses d1 u o = true then stSuccess else stSelftestFailed) ∧
       (linkFaults u r.test o = none → unitPasses d1 u o = true →
         codeOf (heldTarget u) ∉ t.dev.seq.unitHeld ∧ target ∉ t.dev.seq.unitHeld) ∧
       (linkFaults u r.test o = none → unitPasses d1 u o = false → codeOf (heldTarget u) ∈ t.dev.seq.unitHeld)) := by
  have hrt : r.target = target := of_decide_eq_true (List.find?_some (p := fun x : TestRun => decide (x.target = target)) hr)
  have hu' : targetOf r.target.toNat = some u := hrt ▸ hu
  have hcode' : codeOf u = r.target := hcode.trans hrt.symm
  have hd1 : Steady s.dev (dropSpares (o.spares.filter fun k => slotsIn u [k / 256 * 192]) (countMarch u r.test o s.dev)) :=
    (steady_countMarch u r.test o s.dev).trans (steady_dropSpares ..)
  have hop : selftestDoneOp s.variant target o s.dev =
      (fun d1 : Dev => match linkFaults u r.test o with
        | some ls => endTest r false o (settleLinks s.variant r.test o ls
            { d1 with seq := { d1.seq with isolated := d1.seq.isolated.filter (fun u => u ≠ target) } })
        | none => if unitPasses d1 u o then endTest r true o (passUnit s.variant u r.test o d1) else endTest r false o (failUnit s.variant u d1))
        (dropSpares (o.spares.filter fun k => slotsIn u [k / 256 * 192]) (countMarch u r.test o s.dev)) := by
    unfold selftestDoneOp
    rw [hr, hu]
    exact (if_neg h2).trans (if_neg (by rw [hdrained]; decide))
  generalize dropSpares (o.spares.filter fun k => slotsIn u [k / 256 * 192]) (countMarch u r.test o s.dev) = d1 at hd1 hop ⊢
  -- the unit settles, with the command still in flight
  obtain ⟨ok, e, he, hcmd, hok, hpass, hfail⟩ : ∃ ok e, selftestDoneOp s.variant target o s.dev = endTest r ok o e ∧ e.cmdOf id = some c ∧
      ok = decide (linkFaults u r.test o = none ∧ unitPasses d1 u o = true) ∧
      (linkFaults u r.test o = none → unitPasses d1 u o = true → codeOf (heldTarget u) ∉ e.seq.unitHeld ∧ target ∉ e.seq.unitHeld) ∧
      (linkFaults u r.test o = none → unitPasses d1 u o = false → codeOf (heldTarget u) ∈ e.seq.unitHeld) := by
    rw [hop]
    beta_reduce
    cases linkFaults u r.test o with
    | some ls =>
      have hk : CmdsKept (fun p => ownUnit p u) s.dev (settleLinks s.variant r.test o ls
          { d1 with seq := { d1.seq with isolated := d1.seq.isolated.filter (fun u => u ≠ target) } }) :=
        ((hd1.kept _).trans (⟨List.Sublist.refl _, fun _ _ hc _ => hc⟩ : CmdsKept (fun p => ownUnit p u) d1
          { d1 with seq := { d1.seq with isolated := d1.seq.isolated.filter (fun u => u ≠ target) } })).trans
          (settleLinks_kept s.variant r.test o ls _ _)
      exact ⟨false, _, rfl, hk.cmdOf hs hc hown, by simp, nofun, nofun⟩
    | none =>
      cases hp : unitPasses d1 u o with
      | true =>
        obtain ⟨hk, hh⟩ := passUnit_kept s.variant u r.test o d1
        refine ⟨true, _, rfl, ((hd1.kept _).trans hk).cmdOf hs hc hown, by simp, fun _ _ => ?_, (fun _ h => by cases h)⟩
        rw [hh, ← hcode]
        exact ⟨by simp, by simp⟩
      | false =>
        obtain ⟨hk, hh⟩ := failUnit_kept s.variant u d1
        exact ⟨false, _, rfl, ((hd1.kept _).trans hk).cmdOf hs hc hown, by simp, (fun _ h => by cases h), fun _ _ => hh⟩
  obtain ⟨cp, hcomps, h1, h2', h3, h4, htests, hiso, -, hheld⟩ := endTest_ends hid hcmd hu' hcode' ok o
  refine ⟨_, cp, exec_selftestDone s target o, ?_⟩
  simp only [State.on_dev]
  rw [he, hcomps, hheld]
  refine ⟨List.mem_append_right _ List.mem_cons_self, h1, h2', h3, hrt ▸ htests, hrt ▸ hiso h2, ?_, hpass, hfail⟩
  rw [h4, hok]
  simp

theorem selftestDone_march (h2 : r.test = 2) (hend : (marchCode u).elim true (fun k => (s.dev.sbank k).march.isNone) = true) :
    ∃ t cp, exec (.selftestDone target o) s = .next t ∧ t.dev.comps = s.dev.comps ++ [cp] ∧ cp.cid = c.cid ∧ cp.port = c.port ∧
      cp.q = c.q ∧ cp.status = (if o.pass then stSuccess else stSelftestFailed) ∧
      (∀ x ∈ t.dev.seq.tests, x.target ≠ target) ∧ t.dev.seq.isolated = s.dev.seq.isolated := by
  have hrt : r.target = target := of_decide_eq_true (List.find?_some (p := fun x : TestRun => decide (x.target = target)) hr)
  have hop : selftestDoneOp s.variant target o s.dev = endTest r o.pass o s.dev := by
    unfold selftestDoneOp
    rw [hr, hu]
    refine (if_pos h2).trans ?_
    cases hk : marchCode u with
    | none => rfl
    | some k =>
      rw [hk] at hend
      have hnone : (s.dev.sbank k).march = none := Option.isNone_iff_eq_none.mp hend
      exact if_neg (by rw [hnone]; decide)
  obtain ⟨cp, hcomps, h1, h2', h3, h4, htests, -, hiso, -⟩ := endTest_ends hid hc (hrt ▸ hu) (hcode.trans hrt.symm) o.pass o
  refine ⟨_, cp, exec_selftestDone s target o, ?_⟩
  simp only [State.on_dev]
  rw [hop]
  exact ⟨hcomps, h1, h2', h3, h4, hrt ▸ htests, hiso h2⟩

end Done

/-! ### RESET UNIT and the deferral of resets (R249, R376) -/

section Reset

variable {s : State} {cmd : Nat} {c : Cmd} {u : Target} (hc : s.dev.starting cmd 0x2A = some c) (hu : targetOf (bitsOf (c.P 0) 31 0) = some u)
include hc hu

theorem resetUnitOp_of_target : resetUnitOp s.variant cmd s.dev = if ownUnit c.port u then s.dev.fails cmd stValueRange 0
    else if holdsWriting s.dev u then
      { s.dev.busy cmd with
        cmds := (s.dev.busy cmd).cmds.map (fun e => if e.id = cmd then { e with waits := [(codeOf u).toNat] } else e),
        seq := { s.dev.seq with deferred := s.dev.seq.deferred ++ [codeOf u] } }
    else (resetBack s.variant u s.dev).succeeds cmd 0 := by
  unfold resetUnitOp
  rw [hc]
  dsimp only
  rw [hu]
  rfl

theorem resetUnit_own (hown : ownUnit c.port u = true) : ∃ t, exec (.resetUnit cmd) s = .next t ∧ Ended s.dev t.dev c stValueRange 0 0 := by
  obtain ⟨hcmd, -, -⟩ := Dev.starting_cases hc
  rw [exec_resetUnit, resetUnitOp_of_target hc hu, if_pos hown]
  exact ⟨_, rfl, Dev.ended_fails hcmd (by decide) 0⟩

theorem resetUnit_idle (hown : ownUnit c.port u = false) (hw : holdsWriting s.dev u = false) (hs : s.dev.Sound) :
    ∃ t, exec (.resetUnit cmd) s = .next t ∧ (∃ cp ∈ t.dev.comps, cp.cid = c.cid ∧ cp.port = c.port ∧ cp.q = c.q ∧ cp.status = stSuccess) ∧
      ∀ x ∈ t.dev.cmds, x.id ≠ cmd := by
  obtain ⟨hcmd, -, -⟩ := Dev.starting_cases hc
  have hid := (Dev.cmdOf_id hcmd).1
  have hcmd' := (unitReset_resetBack s.variant u s.dev).cmds.cmdOf hs hcmd hown
  rw [exec_resetUnit, resetUnitOp_of_target hc hu, if_neg (by rw [hown]; decide), if_neg (by rw [hw]; decide), Dev.succeeds_eq hcmd']
  refine ⟨_, rfl, ⟨_, List.mem_append_right _ List.mem_cons_self, rfl, rfl, rfl, rfl⟩, fun x hx => ?_⟩
  have hne := (List.mem_filter.mp hx).2
  rw [hid] at hne
  simpa using hne

theorem resetUnit_deferred (hown : ownUnit c.port u = false) (hw : holdsWriting s.dev u = true) :
    ∃ t, exec (.resetUnit cmd) s = .next t ∧ t.dev.seq.deferred = s.dev.seq.deferred ++ [codeOf u] ∧
      t = s.on { s.dev with cmds := t.dev.cmds, seq := { s.dev.seq with deferred := t.dev.seq.deferred } } := by
  rw [exec_resetUnit, resetUnitOp_of_target hc hu, if_neg (by rw [hown]; decide), if_pos hw]
  exact ⟨_, rfl, rfl, rfl⟩

end Reset

/-- A wedge that is reset has no tile on it. -/
theorem resetWedge_left (w : Nat) (d : Dev) : ((resetWedge w d).wedge w).tiles = [] ∧ ∀ x ∈ (resetWedge w d).tiles, x.onWedge w = false := by
  have hleft := (tilesLost_loseTiles (fun t => t.onWedge w) (fun c => c == w) d).left
  unfold resetWedge
  generalize loseTiles (fun t => t.onWedge w) (fun c => c == w) d = e at hleft ⊢
  exact ⟨congrArg Wedge.tiles (((loseIssuers (fun c => c == w) e).setQuant w {}).wedge_modWedge_same w fun x => { x with inbox := [], tiles := [] }),
    fun x hx => (hleft x hx).2⟩

theorem resetUnit_wedge {s : State} {cmd : Nat} {c : Cmd} {k w : Nat} (hc : s.dev.starting cmd 0x2A = some c)
    (hu : targetOf (bitsOf (c.P 0) 31 0) = some (.wedge k w)) (hw : holdsWriting s.dev (.wedge k w) = false) :
    ∃ t, exec (.resetUnit cmd) s = .next t ∧ (∃ cp ∈ t.dev.comps, cp.cid = c.cid ∧ cp.status = stSuccess) ∧
      (t.dev.wedge (16 * k + w)).tiles = [] ∧ (∀ x ∈ t.dev.tiles, x.onWedge (16 * k + w) = false) := by
  obtain ⟨hcmd, -, -⟩ := Dev.starting_cases hc
  have hsteady := steady_resetWedge (16 * k + w) s.dev
  have hcmd' : (resetWedge (16 * k + w) s.dev).cmdOf cmd = some c := by
    rw [Dev.cmdOf, hsteady.1]
    exact hcmd
  obtain ⟨hwedge, hleft⟩ := resetWedge_left (16 * k + w) s.dev
  have hop := resetUnitOp_of_target hc hu
  rw [if_neg (by exact Bool.false_ne_true), if_neg (by rw [hw]; decide)] at hop
  have hback : resetBack s.variant (.wedge k w) s.dev = resetWedge (16 * k + w) s.dev := rfl
  refine ⟨_, exec_resetUnit s cmd, ?_⟩
  simp only [State.on_dev]
  rw [hop, hback, Dev.succeeds_eq hcmd']
  exact ⟨⟨_, List.mem_append_right _ List.mem_cons_self, rfl, rfl⟩, hwedge, hleft⟩

/-- The RESET UNIT commands that waited for a unit have ended, and no other command but those of their numbers. -/
theorem endResets_ends (code : BitVec 32) (d : Dev) : (endResets code d).seq = d.seq ∧
    ∀ c ∈ (endResets code d).cmds, ¬(c.opc = 0x2A ∧ c.stage = .busy ∧ c.waits = [code.toNat]) := by
  have hfold (l : List Cmd) : ∀ d : Dev, (l.foldl (fun (d : Dev) c => d.succeeds c.id 0) d).seq = d.seq ∧
      (l.foldl (fun (d : Dev) c => d.succeeds c.id 0) d).cmds.Sublist d.cmds ∧
      ∀ c ∈ (l.foldl (fun (d : Dev) c => d.succeeds c.id 0) d).cmds, ∀ x ∈ l, c.id ≠ x.id := by
    induction l with
    | nil => exact fun d => ⟨rfl, List.Sublist.refl _, fun _ _ _ h => absurd h List.not_mem_nil⟩
    | cons x l ih =>
      intro d
      obtain ⟨h1, h2⟩ := commandsEnded_finish d x.id stSuccess 0 false (BitVec.ofNat 64 0)
      obtain ⟨h3, h4, h5⟩ := ih (d.succeeds x.id 0)
      refine ⟨h3.trans (Dev.finish_seq ..), h4.trans h1.cmds, fun c hc y hy => ?_⟩
      rcases List.mem_cons.mp hy with rfl | hy
      · exact h2 c (h4.subset hc)
      · exact h5 c hc y hy
  obtain ⟨h1, h2, h3⟩ := hfold (d.cmds.filter fun c => c.opc = 0x2A && c.stage = CmdStage.busy && c.waits = [code.toNat]) d
  refine ⟨h1, fun c hc ⟨ho, hst, hw⟩ => h3 c hc c (List.mem_filter.mpr ⟨h2.subset hc, by simp [ho, hst, hw]⟩) rfl⟩

theorem resetCore_hops (v : Variant) (t : Target) (h c : Nat) (d : Dev) : Steady d (resetHops v t (resetCore h c d)) :=
  (steady_resetCore h c d).trans (steady_resetHops ..)

theorem deferral_expires {s : State} {target : BitVec 32} {us : Nat} {u : Target} (hu : targetOf target.toNat = some u)
    (hd : target ∈ s.dev.seq.deferred) (hw : 8 ≤ us ∨ holdsWriting s.dev u = false) :
    ∃ t, exec (.resetDeferralExpiry target us) s = .next t ∧ target ∉ t.dev.seq.deferred ∧
      ∀ c ∈ t.dev.cmds, ¬(c.opc = 0x2A ∧ c.stage = .busy ∧ c.waits = [target.toNat]) := by
  refine ⟨_, exec_resetDeferralExpiry s target us, ?_⟩
  simp only [State.on_dev]
  unfold deferralOp
  rw [hu]
  dsimp only
  have hgone : target ∉ s.dev.seq.deferred.filter (fun u => u ≠ target) := fun h => by simpa using (List.mem_filter.mp h).2
  cases hl : leftOverCore target u s.dev with
  | some hc =>
    obtain ⟨h, c⟩ := hc
    obtain ⟨n, rfl, rfl, hno⟩ : ∃ n, u = .core h n ∧ n = c ∧ s.dev.cmds.any (fun x => x.opc = 0x2A && x.waits = [target.toNat]) = false := by
      unfold leftOverCore at hl
      split at hl
      · split at hl
        · cases hl
        · next hno =>
          cases hl
          exact ⟨_, rfl, rfl, by simpa using hno⟩
      · cases hl
    have hheld : (decide (8 ≤ us) || !coreWriting s.dev h n) = true := by
      rcases hw with hw | hw
      · simp [hw]
      · have hn : n < 4 := by
          have hm := mem_testedUnits hu
          simpa [testedUnits] using hm
        have hcw : coreWriting s.dev h n = false := by
          unfold coreWriting
          unfold holdsWriting at hw
          rw [List.any_eq_false] at hw ⊢
          intro x hx hwr
          refine hw x hx ?_
          simp only [Bool.and_eq_true, decide_eq_true_eq] at hwr
          simp only [Bool.and_eq_true, decide_eq_true_eq, List.any_eq_true, List.mem_range]
          exact ⟨hwr.1, n, hn, hwr.2⟩
        simp [hcw]
    rw [if_pos (by rw [List.contains_eq_mem, decide_eq_true hd]; exact hheld)]
    dsimp only
    have hs := resetCore_hops s.variant (.core h n) h n
      { s.dev with seq := { s.dev.seq with deferred := s.dev.seq.deferred.filter (fun u => u ≠ target) } }
    generalize resetHops s.variant (.core h n) (resetCore h n _) = e at hs ⊢
    refine ⟨by rw [hs.2]; exact hgone, fun c hc ⟨ho, _, hwt⟩ => ?_⟩
    rw [hs.1] at hc
    exact absurd hno (by simpa using ⟨c, hc, ho, hwt⟩)
  | none =>
    have hheld : (decide (8 ≤ us) || !holdsWriting s.dev u) = true := by
      rcases hw with hw | hw <;> simp [hw]
    rw [if_pos (by rw [List.contains_eq_mem, decide_eq_true hd]; exact hheld)]
    dsimp only
    obtain ⟨-, g, -, hs⟩ := unitReset_resetBack s.variant u
      { s.dev with seq := { s.dev.seq with deferred := s.dev.seq.deferred.filter (fun u => u ≠ target) } }
    generalize resetBack s.variant u _ = e at hs ⊢
    obtain ⟨hseq, hno⟩ := endResets_ends target e
    refine ⟨?_, hno⟩
    rw [hseq, hs]
    exact hgone

/-- Settles O15: each maintenance command and each end of one, by its operation; a reset ends no command but those of a port that the unit is. -/
theorem maintenanceCommandsRun : Obligations.MaintenanceCommandsRun := by
  unfold Obligations.MaintenanceCommandsRun
  refine ⟨⟨fun s cmd c hc => calibrate_runs hc, fun s cmd c u hc hu ht ho => ?_, fun s target o r u id c hs hr hu hcode hid hc => ?_,
    fun s cmd c u hc hu => ?_⟩, fun s cmd c k w hc hu hw => resetUnit_wedge hc hu hw, fun s target us u hu hd hw => deferral_expires hu hd hw⟩
  · exact ⟨selftest_offline hc hu ht ho, selftest_running hc hu ht ho, selftest_begins hc hu ht ho⟩
  · exact ⟨selftestDone_isolated o hr hu hcode hid hc hs, selftestDone_march o hr hu hcode hid hc⟩
  · exact ⟨resetUnit_own hc hu, resetUnit_idle hc hu, resetUnit_deferred hc hu⟩

end Sys2Proof.Machine

/-!
PROOFS for the issue of a tile (R85, R226, R239, R253).
-/
namespace Sys2Proof.Machine

open Sys2Proof

theorem exec_tileIssue (s : State) (code engine : Nat) :
    exec (.tileIssue code engine) s = .next (s.on (tileIssueOp s.variant code engine s.dev)) := rfl

/-! ### A tile enters its units -/

/-- A wedge as the issue of a tile to it leaves it. -/
def issuedWedge (t : Tile) (w : Nat) (d : Dev) : Wedge :=
  let g := d.wedge w
  { g with tiles := g.tiles ++ [t.id], guard := some t.guard,
           marks := if g.marks.any (fun e => e.2.clear) then
             (let slots := ((tileMacros d t.inst t.prm t.gj).filter (fun m => m / 192 = w)).map (slotOf d)
              g.marks.filter (fun e => !(e.2.clear && slots.contains (e.1 / 8))))
             else g.marks }

theorem issueAt_eq (t : Tile) (w : Nat) (d : Dev) : issueAt t w d = d.setWedge w (issuedWedge t w d) := rfl

/-- The entries that a calibration cleared go for the tile's macros; every other entry stays. -/
theorem issuedWedge_marks (t : Tile) (w : Nat) (d : Dev) :
    (issuedWedge t w d).marks.filter (fun e => !e.2.clear) = (d.wedge w).marks.filter (fun e => !e.2.clear) ∧
      ∀ e ∈ (issuedWedge t w d).marks, e.2.clear = true → ∀ m ∈ tileMacros d t.inst t.prm t.gj, m / 192 = w → slotOf d m ≠ e.1 / 8 := by
  unfold issuedWedge
  dsimp only
  split
  · refine ⟨?_, fun e he hclear m hm hw hslot => ?_⟩
    · rw [List.filter_filter]
      refine List.filter_congr fun e _ => ?_
      cases e.2.clear <;> simp
    · have hno := (List.mem_filter.mp he).2
      rw [hclear, Bool.true_and, List.contains_eq_mem, decide_eq_true (hslot ▸ List.mem_map_of_mem (List.mem_filter.mpr ⟨hm, decide_eq_true hw⟩))] at hno
      cases hno
  · next h =>
    exact ⟨rfl, fun e he hclear => (h (List.any_eq_true.mpr ⟨e, he, hclear⟩)).elim⟩

variable {d e : Dev}

/-- What the issue of a tile to its wedges leaves: each takes it once. -/
theorem issueAt_foldl (t : Tile) : ∀ {ws : List Nat} (_ : ws.Nodup) (d : Dev),
    ws.foldl (fun d w => issueAt t w d) d = { d with wedges := (ws.foldl (fun d w => issueAt t w d) d).wedges } ∧
      (∀ w ∈ ws, (ws.foldl (fun d w => issueAt t w d) d).wedge w = issuedWedge t w d) ∧
      ∀ w, w ∉ ws → (ws.foldl (fun d w => issueAt t w d) d).wedge w = d.wedge w
  | [], _, d => ⟨rfl, fun _ h => (List.not_mem_nil h).elim, fun _ _ => rfl⟩
  | k :: ws, hn, d => by
    obtain ⟨hk, hn'⟩ := List.nodup_cons.mp hn
    obtain ⟨hfr, hin, hout⟩ := issueAt_foldl t hn' (issueAt t k d)
    have hother (w : Nat) (hw : w ≠ k) : (issueAt t k d).wedge w = d.wedge w := by
      rw [issueAt_eq]
      exact d.wedge_setWedge_other _ hw
    rw [List.foldl_cons]
    refine ⟨hfr, fun w hw => ?_, fun w hw => ?_⟩
    · rcases List.mem_cons.mp hw with rfl | hw
      · rw [hout w hk, issueAt_eq]
        exact d.wedge_setWedge_same ..
      · have hne : w ≠ k := fun h => hk (h ▸ hw)
        rw [hin w hw]
        unfold issuedWedge
        rw [hother w hne]
        rfl
    · rw [hout w fun h => hw (List.mem_cons_of_mem _ h), hother w fun h => hw (h ▸ List.mem_cons_self)]

theorem takeBands_frame (phase : Nat) (hubs : List Nat) (d : Dev) : hubs.foldl (fun d h => takeBand h phase d) d =
    { d with pred := (hubs.foldl (fun d h => takeBand h phase d) d).pred } :=
  List.foldlRecOn (motive := fun e : Dev => e = { d with pred := e.pred }) hubs _ rfl fun e he h _ => by
    unfold takeBand
    rw [he]

/-- A tile enters its wedges, once each, and takes the next number. -/
theorem enterTile_enters {t : Tile} (hn : t.wedges.Nodup) (d : Dev) :
    enterTile t d = { d with tiles := d.tiles ++ [t], nextTile := d.nextTile + 1, wedges := (enterTile t d).wedges, pow := (enterTile t d).pow,
                             issues := (enterTile t d).issues, pred := (enterTile t d).pred } ∧
      (∀ w ∈ t.wedges, (enterTile t d).wedge w = issuedWedge t w d) ∧ ∀ w, w ∉ t.wedges → (enterTile t d).wedge w = d.wedge w := by
  obtain ⟨hfr, hin, hout⟩ := issueAt_foldl t hn { d with tiles := d.tiles ++ [t], nextTile := d.nextTile + 1 }
  unfold enterTile
  dsimp only
  generalize t.wedges.foldl (fun d w => issueAt t w d) { d with tiles := d.tiles ++ [t], nextTile := d.nextTile + 1 } = e at hfr hin hout ⊢
  have hin' : ∀ w ∈ t.wedges, e.wedge w = issuedWedge t w d := hin
  have hout' : ∀ w, w ∉ t.wedges → e.wedge w = d.wedge w := hout
  split
  · generalize hd3 : ({ e with pow := { e.pow with hints := e.pow.hints.map (fun h =>
      if h.phase = t.inst.phase ∧ h.hub ∈ tileHubs t.inst t.wedges (t.engine.getD 0) then { h with used := true } else h) } } : Dev) = e3
    have h3 : e3 = { e with pow := e3.pow } := by rw [← hd3]
    have hb := takeBands_frame t.inst.phase (tileHubs t.inst t.wedges (t.engine.getD 0)) e3
    generalize (tileHubs t.inst t.wedges (t.engine.getD 0)).foldl (fun d h => takeBand h t.inst.phase d) e3 = e4 at hb ⊢
    have hopen : openIssue t e4 = { e4 with issues := (openIssue t e4).issues } := rfl
    generalize openIssue t e4 = e5 at hopen ⊢
    have h5 : e5 = { e with pow := e5.pow, issues := e5.issues, pred := e5.pred } := by rw [hopen, hb, h3]
    have hw (w : Nat) : e5.wedge w = e.wedge w := by
      rw [h5]
      rfl
    exact ⟨by rw [h5, hfr], fun w h => (hw w).trans (hin' w h), fun w h => (hw w).trans (hout' w h)⟩
  · exact ⟨by rw [hfr], hin', hout'⟩

/-! ### The swept position's bit -/

theorem afterAccess_sweptClear (v : Variant) (j : Job) (a : AtInst) (i : IssState) (q : Nat) (d : Dev) : AfterAccess d (sweptClear v j a i q d).2 := by
  unfold sweptClear
  split
  · split
    · exact AfterAccess.refl d
    · unfold bitmapTest
      split
      · exact AfterAccess.refl d
      · exact afterAccess_devRead (AfterAccess.refl d) ..
  · exact AfterAccess.refl d

/-- The first tile of an issuer's run has left it. -/
def RunLeft (job code : Nat) (rest : List Nat) (d : Dev) : Prop := ∃ y ∈ d.jobs, y.id = job ∧ ∃ z ∈ y.iss, z.issuer = code ∧ z.run = rest

theorem runLeft_of_fails {job code : Nat} {rest : List Nat} {g : Job → Job} (hg : FailsOnly g) (hj : e.jobs = d.jobs.map g)
    (h : RunLeft job code rest d) : RunLeft job code rest e := by
  obtain ⟨y, hy, hid, z, hz, hc, hr⟩ := h
  refine ⟨g y, hj ▸ List.mem_map_of_mem hy, ?_, z, ?_, hc, hr⟩
  · rw [hg]
    exact hid
  · rw [hg]
    exact hz

theorem runLeft_issuedOne {code q : Nat} {rest : List Nat} {j : Job} {i : IssState} (hj : j ∈ d.jobs) (hi : i ∈ j.iss) (hc : i.issuer = code)
    (hrun : i.run = q :: rest) (he : AfterAccess d e) : RunLeft j.id code rest (modIss j.id code IssState.issuedOne e) := by
  obtain ⟨g, hg, hjobs⟩ := he.fails
  have hgj : (g j).id = j.id ∧ (g j).iss = j.iss := by
    rw [hg]
    exact ⟨rfl, rfl⟩
  obtain ⟨y, hy, x, hx, hid, rfl⟩ := modIss_exists (j := g j) (i := i) (hjobs ▸ List.mem_map_of_mem hj) (hgj.2.symm ▸ hi) hc IssState.issuedOne
  rw [hgj.1] at hy hid
  refine ⟨y, hy, hid, _, hx, ?_, ?_⟩
  · unfold IssState.issuedOne
    split <;> exact hc
  · unfold IssState.issuedOne
    split <;> exact congrArg List.tail hrun

/-! ### The activity codes (R133) -/

theorem tileMacros_of_mats {d e : Dev} (h : e.mats = d.mats) (t : TInst) (p : Param) (gj : Nat) : tileMacros e t p gj = tileMacros d t p gj := by
  unfold tileMacros Dev.matOf
  rw [h]

theorem newTile_fresh (d : Dev) (j : Job) (a : AtInst) (i : IssState) (q gi gj : Nat) (ws : List Nat) (engine : Nat) :
    newTile (fresh d) j a i q gi gj ws engine = newTile d j a i q gi gj ws engine := rfl

theorem ReadKept.readCodes {R : Dev → Prop} (k : ReadKept d R) (hc : ∀ e, R e → ∀ coal, R { e with coal := coal }) (h : R e) (v : Variant) (t : Tile)
    (cols : List Nat) (vecs : Nat) : R (readCodes v t cols vecs e).2.2 := by
  refine List.foldlRecOn (motive := fun r : Tab Nat × Bool × Dev => R r.2.2) _ _ h fun r hr c _ => ?_
  have hget (e : Dev) (he : R e) (i : Nat) := k.fetchOperand hc he v t 8 [(i : Int), ((t.gi * macroR t.inst.shape + c.1 : Nat) : Int)]
  dsimp only
  split
  · exact hget _ hr _
  split
  · exact hget _ (hget _ hr _) _
  · exact hget _ hr _

/-- What holds of a device with a tile issued, through the reads of its activity codes. -/
def Issued (d : Dev) (n job code : Nat) (rest : List Nat) (e : Dev) : Prop :=
  e.allocs = d.allocs ∧ e.nextTile = n ∧ RunLeft job code rest e

theorem accessKept_issued (d : Dev) (n job code : Nat) (rest : List Nat) : AccessKept d (Issued d n job code rest) where
  allocs _ h := h.1
  quiet _ h _ _ _ _ _ _ _ _ _ := h
  fails e h t status := by
    have ha := afterAccess_failTile (AfterAccess.refl e) t status
    obtain ⟨g, hg, hjobs⟩ := ha.fails
    have hfr := ha.frame
    generalize failTile t status e = f at hjobs hfr ⊢
    exact ⟨(congrArg Dev.allocs hfr :).trans h.1, (congrArg Dev.nextTile hfr :).trans h.2.1, runLeft_of_fails hg hjobs h.2.2⟩

theorem failRead_allocs (t : Tile) (d : Dev) : (failRead t d).allocs = d.allocs :=
  (congrArg Dev.allocs (afterAccess_failTile (AfterAccess.refl { d with gone := none }) t (d.gone.getD stMemUe)).frame :)

theorem enterCodes_issued {n job code : Nat} {rest : List Nat} (v : Variant) (t : Tile) (h : Issued d n job code rest e) :
    Issued d n job code rest (enterCodes v t e) := by
  have k := accessKept_issued d n job code rest
  unfold enterCodes
  split
  · exact h
  · have hr := k.readKept.readCodes (fun e h _ => k.quiet e h ..) h v t (codeCols e t.inst t.gj t.b1) (tileVecs t.inst t.gi t.b0)
    dsimp only
    generalize readCodes v t (codeCols e t.inst t.gj t.b1) (tileVecs t.inst t.gi t.b0) e = r at hr ⊢
    split
    · exact k.fails _ (k.quiet _ hr _ _ _ _ _ none _ _ _) ..
    · exact hr

theorem enterCodes_neverWaits (v : Variant) (t : Tile) (h : NeverWaits d e) : NeverWaits d (enterCodes v t e) := by
  unfold enterCodes
  split
  · exact h
  · have hr := (readKept_neverWaits d).readCodes (fun _ h _ => ⟨h.allocs, h.still⟩) h v t (codeCols e t.inst t.gj t.b1) (tileVecs t.inst t.gi t.b0)
    dsimp only
    generalize readCodes v t (codeCols e t.inst t.gj t.b1) (tileVecs t.inst t.gi t.b0) e = r at hr ⊢
    split
    · exact ⟨(failRead_allocs t _).trans hr.allocs, fun hn => (failRead_waits t _).trans (hr.still hn)⟩
    · exact ⟨hr.allocs, hr.still⟩

/-! ### The issue -/

/-- What a tile that has entered its units leaves of the device (R239, R253). -/
structure TileEntered (b e : Dev) (x : Tile) (ms : List Nat) (entry : Nat) : Prop where
  tiles : e.tiles = b.tiles ++ [x]
  id : x.id = b.nextTile
  stage : x.stage = .issued
  counted : Counted b e entry x.ss 1
  entered : ∀ w ∈ x.wedges, (e.wedge w).tiles = (b.wedge w).tiles ++ [b.nextTile] ∧ (e.wedge w).guard = some x.guard ∧
    (e.wedge w).marks.filter (fun e => !e.2.clear) = (b.wedge w).marks.filter (fun e => !e.2.clear) ∧
    ∀ f ∈ (e.wedge w).marks, f.2.clear = true → ∀ m ∈ ms, m / 192 = w → slotOf b m ≠ f.1 / 8
  others : ∀ w, w ∉ x.wedges → e.wedge w = b.wedge w
  macros : e.macros = b.macros
  engines : e.engines = b.engines
  mem : e.mem = b.mem
  spad : e.spad = b.spad

theorem TileEntered.remote {b e : Dev} {x : Tile} {ms : List Nat} {entry : Nat} (h : TileEntered b e x ms entry) (r : List RemoteData) :
    TileEntered b { e with remote := r } x ms entry :=
  ⟨h.tiles, h.id, h.stage, h.counted, h.entered, h.others, h.macros, h.engines, h.mem, h.spad⟩

/-- The device as the next tile of an issuer is about to enter its units. -/
def leavesRun (job code entry ss : Nat) (b : Dev) : Dev := (modIss job code IssState.issuedOne (fresh b)).count entry ss 1

theorem leavesRun_frame (job code entry ss : Nat) (b : Dev) : leavesRun job code entry ss b =
    { b with jobs := (modIss job code IssState.issuedOne b).jobs, waits := false, gone := none, ctr := (leavesRun job code entry ss b).ctr } := rfl

theorem counted_leavesRun (job code entry ss : Nat) (b : Dev) : Counted b (leavesRun job code entry ss b) entry ss 1 :=
  (modIss job code IssState.issuedOne (fresh b)).counted_count entry ss 1

theorem issueTile_fresh {v : Variant} {b : Dev} {j : Job} {a : AtInst} {i : IssState} {q gi gj engine : Nat} {ws : List Nat} {x : Tile}
    (hx : x = newTile b j a i q gi gj ws engine) : issueTile v j a i q gi gj ws engine (fresh b) =
      enterCodes v x (enterTile x (leavesRun j.id i.issuer (if i.swept then 0x2094 else 0x2090) x.ss b)) := by
  subst hx
  unfold issueTile
  rw [newTile_fresh]
  rfl

theorem tileEntered_enterTile {b : Dev} {x : Tile} {ms : List Nat} {job code entry : Nat} (hn : x.wedges.Nodup) (hid : x.id = b.nextTile)
    (hstage : x.stage = .issued) (hms : tileMacros b x.inst x.prm x.gj = ms) :
    TileEntered b (enterTile x (leavesRun job code entry x.ss b)) x ms entry := by
  have hcount := counted_leavesRun job code entry x.ss b
  have he0 := leavesRun_frame job code entry x.ss b
  generalize leavesRun job code entry x.ss b = e0 at hcount he0 ⊢
  obtain ⟨hfr, hin, hout⟩ := enterTile_enters hn e0
  generalize enterTile x e0 = e1 at hfr hin hout ⊢
  have hwedge0 (w : Nat) : e0.wedge w = b.wedge w := by
    rw [he0]
    rfl
  have hslot (m : Nat) : slotOf e0 m = slotOf b m := by
    rw [he0]
    rfl
  have hms0 : tileMacros e0 x.inst x.prm x.gj = ms := (tileMacros_of_mats (by rw [he0]) ..).trans hms
  refine ⟨by rw [hfr, he0], hid, hstage, fun k => ?_, fun w hw => ?_, fun w hw => (hout w hw).trans (hwedge0 w), by rw [hfr, he0], by rw [hfr, he0],
    by rw [hfr, he0], by rw [hfr, he0]⟩
  · have hctr : e1.ctr = e0.ctr := by rw [hfr]
    rw [hctr]
    exact hcount k
  · obtain ⟨hkeep, hclear⟩ := issuedWedge_marks x w e0
    rw [hin w hw]
    refine ⟨?_, rfl, hkeep.trans (by rw [hwedge0]), fun m hm hc k hk hkw => ?_⟩
    · rw [← hwedge0, ← hid]
      rfl
    · rw [← hslot]
      exact hclear m hm hc k (hms0.symm ▸ hk) hkw

theorem issued_enterTile {b : Dev} {x : Tile} {job code : Nat} {rest : List Nat} (entry ss : Nat) (hn : x.wedges.Nodup)
    (hleft : RunLeft job code rest (modIss job code IssState.issuedOne b)) :
    Issued b (b.nextTile + 1) job code rest (enterTile x (leavesRun job code entry ss b)) ∧
      NeverWaits (fresh b) (enterTile x (leavesRun job code entry ss b)) ∧ (enterTile x (leavesRun job code entry ss b)).waits = false := by
  have he0 := leavesRun_frame job code entry ss b
  generalize leavesRun job code entry ss b = e0 at he0 ⊢
  have hfr := (enterTile_enters hn e0).1
  generalize enterTile x e0 = e1 at hfr ⊢
  have hjobs : e1.jobs = (modIss job code IssState.issuedOne b).jobs := by rw [hfr, he0]
  refine ⟨⟨by rw [hfr, he0], by rw [hfr, he0], ?_⟩, ⟨by rw [hfr, he0]; rfl, fun _ => by rw [hfr, he0]; rfl⟩, by rw [hfr, he0]⟩
  unfold RunLeft
  rw [hjobs]
  exact hleft

/-- A step that issues a tile waits for its activity vector, or leaves the tile entered. -/
theorem reading_entered {v : Variant} {f : Dev → Dev} {b e : Dev} {x : Tile} {ms : List Nat} {entry n job code : Nat} {rest : List Nat} (rd : Reader)
    (hf : f (fresh b) = enterCodes v x e) (hx : TileEntered b e x ms entry) (hi : Issued b n job code rest e ∧ NeverWaits (fresh b) e ∧ e.waits = false) :
    x.prm.hV ≠ 0 ∧ Waits b (reading rd b f) ∨ (reading rd b f).nextTile = n ∧ RunLeft job code rest (reading rd b f) ∧
      (x.prm.hV = 0 → TileEntered b (reading rd b f) x ms entry) := by
  obtain ⟨hissued, hnever, hstill⟩ := hi
  have hissued2 := enterCodes_issued v x hissued
  have hnever2 := enterCodes_neverWaits v x hnever
  cases hwaits : (enterCodes v x e).waits with
  | true =>
    left
    rw [reading_waits (by rw [hf]; exact hwaits), hf]
    refine ⟨fun h => ?_, fun hn => ?_, rfl⟩
    · have he : (enterCodes v x e).waits = false := (congrArg Dev.waits (if_pos h : enterCodes v x e = e)).trans hstill
      exact Bool.false_ne_true (he.symm.trans hwaits)
    · exact Bool.false_ne_true ((hnever2.still hn).symm.trans hwaits)
  | false =>
    right
    rw [reading_done (by rw [hf]; exact hwaits), hf, usedRemote_frame]
    refine ⟨hissued2.2.1, hissued2.2.2, fun h => ?_⟩
    have he : enterCodes v x e = e := if_pos h
    rw [he]
    exact hx.remote _

section Issue

variable {s : State} {code engine : Nat} {j : Job} {i : IssState} {a : AtInst} {q gi gj : Nat} {rest : List Nat}
  (hj : issuerJob s.dev code = some (j, i)) (ha : atInst s.dev j i = some a) (hrun : i.run = q :: rest) (hm : mayAct s.dev j i = true)
  (hl : isLaneFn a.t.func = true → hubPresent s.variant (engine / 8) = true)
  (hg : gridAt (gridOf a.t (instUnits s.dev a.t) (ctrB0 s.dev a.c) (ctrB1 s.dev a.c)).1
    (gridOf a.t (instUnits s.dev a.t) (ctrB0 s.dev a.c) (ctrB1 s.dev a.c)).2 (ctrLside s.dev a.c) (ctrJlong s.dev a.c) q = some (gi, gj))

/-- The reads of a tile's issue are its own, at the engine or the hub that it goes to. -/
def issueReader (a : AtInst) (engine : Nat) (d : Dev) : Reader :=
  { issuer := a.issuer, tile := some d.nextTile,
    src := if isLaneFn a.t.func then hubEndpoint (engine / 8) 0 (engine % 8) else hubEndpoint (issuerHub a.issuer) 6 0 }

include hj ha hrun hm hl hg

theorem tileIssueOp_of_claimed : tileIssueOp s.variant code engine s.dev =
    (fun b : Bool × Dev => if !b.1 then modIss j.id code IssState.issuedOne b.2
      else if tileUnitGone s.dev a.t (tileMacros s.dev a.t a.p gj) (((tileMacros s.dev a.t a.p gj).map wedgeOfMacro).eraseDups) engine then
        failJob j.id stUnitOffline 0 a.issuer a.pc b.2
      else if !tileRoom s.dev a.t (tileMacros s.dev a.t a.p gj) (((tileMacros s.dev a.t a.p gj).map wedgeOfMacro).eraseDups) engine then s.dev
      else reading (issueReader a engine s.dev) b.2
        (issueTile s.variant j a i q gi gj (((tileMacros s.dev a.t a.p gj).map wedgeOfMacro).eraseDups) engine))
      (sweptClear s.variant j a i q s.dev) := by
  unfold tileIssueOp
  rw [hj]
  dsimp only
  rw [ha, hrun]
  dsimp only
  rw [hg]
  refine (if_neg ?_).trans rfl
  rintro (h | ⟨h, h'⟩)
  · rw [hm] at h
    cases h
  · rw [hl h] at h'
    cases h'

theorem tileIssue_passed (hb : (sweptClear s.variant j a i q s.dev).1 = false) : ∃ t, exec (.tileIssue code engine) s = .next t ∧
    t = s.on { (sweptClear s.variant j a i q s.dev).2 with jobs := t.dev.jobs } ∧ RunLeft j.id code rest t.dev := by
  obtain ⟨hjm, him, hic⟩ := issuerJob_mem hj
  have hop := tileIssueOp_of_claimed hj ha hrun hm hl hg
  have hleft := runLeft_issuedOne hjm him hic hrun (afterAccess_sweptClear s.variant j a i q s.dev)
  rw [exec_tileIssue, hop]
  beta_reduce
  rw [hb]
  exact ⟨_, rfl, rfl, hleft⟩

theorem tileIssue_gone (hb : (sweptClear s.variant j a i q s.dev).1 = true)
    (hgone : tileUnitGone s.dev a.t (tileMacros s.dev a.t a.p gj) (((tileMacros s.dev a.t a.p gj).map wedgeOfMacro).eraseDups) engine = true) :
    ∃ t, exec (.tileIssue code engine) s = .next t ∧ t = s.on { (sweptClear s.variant j a i q s.dev).2 with jobs := t.dev.jobs } ∧
      JobFails (sweptClear s.variant j a i q s.dev).2 t.dev j.id stUnitOffline := by
  have hop := tileIssueOp_of_claimed hj ha hrun hm hl hg
  rw [exec_tileIssue, hop]
  beta_reduce
  rw [hb, hgone]
  refine ⟨_, rfl, congrArg s.on ?_, jobFails_failJob rfl j.id stUnitOffline a.issuer a.pc⟩
  exact failJob_frame ..

theorem tileIssue_noRoom (hb : (sweptClear s.variant j a i q s.dev).1 = true)
    (hgone : tileUnitGone s.dev a.t (tileMacros s.dev a.t a.p gj) (((tileMacros s.dev a.t a.p gj).map wedgeOfMacro).eraseDups) engine = false)
    (hroom : tileRoom s.dev a.t (tileMacros s.dev a.t a.p gj) (((tileMacros s.dev a.t a.p gj).map wedgeOfMacro).eraseDups) engine = false) :
    exec (.tileIssue code engine) s = .next s := by
  rw [exec_tileIssue, tileIssueOp_of_claimed hj ha hrun hm hl hg]
  beta_reduce
  rw [hb, hgone, hroom]
  rfl

/-- The next tile, where `b` is the device after the test of its bit. -/
theorem tileIssue_issues (hb : (sweptClear s.variant j a i q s.dev).1 = true)
    (hgone : tileUnitGone s.dev a.t (tileMacros s.dev a.t a.p gj) (((tileMacros s.dev a.t a.p gj).map wedgeOfMacro).eraseDups) engine = false)
    (hroom : tileRoom s.dev a.t (tileMacros s.dev a.t a.p gj) (((tileMacros s.dev a.t a.p gj).map wedgeOfMacro).eraseDups) engine = true) :
    ∃ t, exec (.tileIssue code engine) s = .next t ∧ ∀ (b : Dev) (x : Tile), b = (sweptClear s.variant j a i q s.dev).2 →
      x = newTile b j a i q gi gj (((tileMacros s.dev a.t a.p gj).map wedgeOfMacro).eraseDups) engine →
      (a.p.hV ≠ 0 ∧ Waits b t.dev ∨ t.dev.nextTile = b.nextTile + 1 ∧ RunLeft j.id code rest t.dev ∧
        (a.p.hV = 0 → TileEntered b t.dev x (tileMacros s.dev a.t a.p gj) (if i.swept then 0x2094 else 0x2090))) := by
  obtain ⟨hjm, him, hic⟩ := issuerJob_mem hj
  have hacc := afterAccess_sweptClear s.variant j a i q s.dev
  refine ⟨_, exec_tileIssue s code engine, fun b x hbd hxd => ?_⟩
  have hop : tileIssueOp s.variant code engine s.dev = reading (issueReader a engine s.dev) b
      (issueTile s.variant j a i q gi gj (((tileMacros s.dev a.t a.p gj).map wedgeOfMacro).eraseDups) engine) := by
    rw [tileIssueOp_of_claimed hj ha hrun hm hl hg, hbd]
    beta_reduce
    rw [hb, hgone, hroom]
    rfl
  rw [← hbd] at hacc
  have hmats : b.mats = s.dev.mats := (congrArg Dev.mats hacc.frame :)
  have hissue := issueTile_fresh (v := s.variant) hxd
  rw [hic] at hissue
  have hprm : x.prm = a.p := by rw [hxd]; rfl
  have hid : x.id = b.nextTile := by rw [hxd]; rfl
  have hstage : x.stage = .issued := by rw [hxd]; rfl
  have hms : tileMacros b x.inst x.prm x.gj = tileMacros s.dev a.t a.p gj := by
    rw [hxd]
    exact tileMacros_of_mats hmats ..
  have hwx : x.wedges = ((tileMacros s.dev a.t a.p gj).map wedgeOfMacro).eraseDups := by rw [hxd]; rfl
  have hleft := runLeft_issuedOne hjm him hic hrun hacc
  simp only [State.on_dev]
  have h := reading_entered (issueReader a engine s.dev) hissue (tileEntered_enterTile (hwx ▸ nodup_eraseDups _) hid hstage hms) (issued_enterTile _ _ (hwx ▸ nodup_eraseDups _) hleft)
  rw [hprm] at h
  rw [hop]
  exact h

end Issue

end Sys2Proof.Machine

/-!
PROOFS for the commit of a tile and the acceptance of its writes (R94, R248, R249).
-/
namespace Sys2Proof.Machine

open Sys2Proof

variable {d e : Dev}

theorem exec_tileCommit (s : State) (tile : Nat) : exec (.tileCommit tile) s = .next (s.on (tileCommitOp s.variant tile s.dev)) := rfl

/-! ### The admission of a tile's writes -/

theorem NeverWaits.foldl {α : Type} (h : NeverWaits d e) (f : Dev → α → Dev) (l : List α) (hf : ∀ g a, NeverWaits d g → NeverWaits d (f g a)) :
    NeverWaits d (l.foldl f e) :=
  List.foldlRecOn l f h fun g hg a _ => hf g a hg

theorem NeverWaits.same {f : Dev} (h : NeverWaits d e) (ha : f.allocs = e.allocs) (hw : f.waits = e.waits) : NeverWaits d f :=
  ⟨ha.trans h.allocs, fun hn => hw.trans (h.still hn)⟩

theorem NeverWaits.modTile (h : NeverWaits d e) (id : Nat) (f : Tile → Tile) : NeverWaits d (e.modTile id f) := h.same rfl rfl

theorem NeverWaits.free (h : NeverWaits d e) (n : Nat) : NeverWaits d { e with free := n } := h.same rfl rfl

theorem NeverWaits.countIf {c : Prop} {_ : Decidable c} (h : NeverWaits d e) (idx ss n : Nat) : NeverWaits d (if c then e.count idx ss n else e) := by
  split
  · exact h.same rfl rfl
  · exact h

theorem NeverWaits.gridRow (h : NeverWaits d e) (t : Tile) (engine row : Nat) : NeverWaits d (gridRow t engine row e) := by
  unfold Machine.gridRow
  dsimp only
  split
  · exact h.same rfl rfl
  · split <;> exact NeverWaits.modTile (NeverWaits.countIf (h.free _) ..) ..

theorem NeverWaits.windowRow (h : NeverWaits d e) (t : Tile) (engine : Nat) : NeverWaits d (windowRow t engine e) := by
  unfold Machine.windowRow putRow
  dsimp only
  split
  · exact h.same rfl rfl
  · split
    · split <;> exact h.same rfl rfl
    · exact h.same rfl rfl

theorem NeverWaits.windowResults (h : NeverWaits d e) (t : Tile) : NeverWaits d (windowResults t e) := by
  unfold Machine.windowResults
  split
  · exact h
  · split
    · exact h
    · split
      · exact h.foldl _ _ fun g r hg => hg.gridRow t _ r
      · exact h.windowRow t _

theorem NeverWaits.countPads (h : NeverWaits d e) (t : Tile) : NeverWaits d (countPads t e) := by
  refine h.foldl _ _ fun g p hg => ?_
  split
  · exact hg
  · exact hg.same rfl rfl

theorem NeverWaits.clearWindow (h : NeverWaits d e) (t : Tile) : NeverWaits d (clearWindow t e) := by
  unfold Machine.clearWindow
  split
  · split
    · exact h.same rfl rfl
    · exact h
  · exact h

theorem NeverWaits.placeResults (h : NeverWaits d e) (v : Variant) (t : Tile) : NeverWaits d (placeResults v t e).2 := by
  refine List.foldlRecOn (motive := fun r : List Placed × List (Nat × Int) × Dev => NeverWaits d r.2.2) t.results _ h fun r hr w _ => ?_
  dsimp only
  split
  · exact hr
  · next x _ =>
    have hp := (readKept_neverWaits d).placeOf hr v (tileDescs e t) x t.reader w.coord
    split
    · exact hp.same rfl rfl
    · split
      · exact hp
      · exact hp.same rfl rfl
    · exact hp

theorem NeverWaits.resolveCollisions (t : Tile) : ∀ (k : Nat) (ps : List Placed) {e : Dev} (_ : NeverWaits d e),
    NeverWaits d (resolveCollisions t k ps e).2
  | 0, _, _, h => h
  | _ + 1, [], _, h => h
  | k + 1, a :: ps, e, h => by
    unfold Machine.resolveCollisions
    dsimp only
    split
    · exact NeverWaits.resolveCollisions t k _ h
    · exact NeverWaits.resolveCollisions t k _ ((h.same rfl rfl : NeverWaits d e.drawn).foldl _ _ fun g o hg => hg.same rfl rfl)

theorem NeverWaits.tileWrites (h : NeverWaits d e) (v : Variant) (t : Tile) : NeverWaits d (tileWrites v t e).2 := by
  have hr := NeverWaits.resolveCollisions t (Machine.placeResults v t e).1.length (Machine.placeResults v t e).1 (h.placeResults v t)
  unfold Machine.tileWrites
  dsimp only
  split
  · exact hr
  · exact hr.same rfl rfl

theorem NeverWaits.haloMessages (h : NeverWaits d e) (t : Tile) (ws : List RawOp) : NeverWaits d (haloMessages t ws e).2.2 := by
  refine List.foldlRecOn (motive := fun r : Tab Memory × Tab Nat × Dev => NeverWaits d r.2.2) _ _ h fun r hr w _ => ?_
  split
  · exact hr.same rfl rfl
  · exact hr

theorem NeverWaits.consumeHalo (h : NeverWaits d e) (t : Tile) : NeverWaits d (consumeHalo t e) :=
  h.foldl _ _ fun _ _ hg => hg.same rfl rfl

/-! ### What becomes of the tiles as issues settle and tiles end -/

/-- From `d` to `e` tiles may have left; the tiles there are tiles that were. -/
structure TilesFewer (d e : Dev) : Prop where
  allocs : e.allocs = d.allocs
  waits : e.waits = d.waits
  tiles : e.tiles.Sublist d.tiles

theorem TilesFewer.refl (d : Dev) : TilesFewer d d := ⟨rfl, rfl, List.Sublist.refl _⟩

theorem TilesFewer.trans {f : Dev} (h : TilesFewer d e) (h' : TilesFewer e f) : TilesFewer d f :=
  ⟨h'.allocs.trans h.allocs, h'.waits.trans h.waits, h'.tiles.trans h.tiles⟩

theorem TilesFewer.same {f : Dev} (h : TilesFewer d e) (ha : f.allocs = e.allocs) (hw : f.waits = e.waits) (ht : f.tiles = e.tiles) : TilesFewer d f :=
  ⟨ha.trans h.allocs, hw.trans h.waits, ht ▸ h.tiles⟩

theorem TilesFewer.count (h : TilesFewer d e) (idx ss n : Nat) : TilesFewer d (e.count idx ss n) := h.same rfl rfl rfl

theorem TilesFewer.post (h : TilesFewer d e) (code : BitVec 16) (hub : Nat) (unit : BitVec 32) (vals : List (Nat × Nat)) :
    TilesFewer d (e.post code hub unit vals) := h.same rfl rfl rfl

theorem TilesFewer.issues (h : TilesFewer d e) (l : List PredIssue) : TilesFewer d { e with issues := l } := h.same rfl rfl rfl

theorem TilesFewer.swrite (h : TilesFewer d e) (code a : Nat) (b : Bytes) : TilesFewer d (e.swrite code a b) := h.same rfl rfl rfl

theorem TilesFewer.modJob (h : TilesFewer d e) (job : Nat) (f : Job → Job) : TilesFewer d (e.modJob job f) := h.same rfl rfl rfl

theorem TilesFewer.ctrAtomic (h : TilesFewer d e) (c : CtrEntry) (hi lo v : Nat) : TilesFewer d (ctrAtomic e c hi lo v) := by
  have hf := ctrAtomic_frame e c hi lo v
  exact h.same (by rw [hf]) (by rw [hf]) (by rw [hf])

theorem TilesFewer.ite {c : Prop} {_ : Decidable c} {f : Dev} (h : TilesFewer d e) (h' : TilesFewer d f) : TilesFewer d (if c then e else f) := by
  split
  · exact h
  · exact h'

theorem TilesFewer.settleClear (h : TilesFewer d e) (code : Nat) : TilesFewer d (settleClear code e) := by
  have hf := settleClear_frame code e
  exact h.same (by rw [hf]) (by rw [hf]) (by rw [hf])

theorem TilesFewer.postOnce (h : TilesFewer d e) (limit key : Nat) (code : BitVec 16) (hub : Nat) (unit : BitVec 32) (vals : List (Nat × Nat)) :
    TilesFewer d (e.postOnce limit key code hub unit vals) := by
  unfold Dev.postOnce
  split
  · exact h
  · exact h.same rfl rfl rfl

/-- The band of an issue's phase, as its report asks. -/
theorem TilesFewer.adaptBand (h : TilesFewer d e) (i : PredIssue) : TilesFewer d (adaptBand i e) := by
  have hset (g : Dev) (hg : TilesFewer d g) (p : Tab Band) : TilesFewer d { g with pred := p } := hg.same rfl rfl rfl
  unfold Machine.adaptBand
  extract_lets hub key cur k lim run set wide quiet d1 cur1 q
  have h1 : TilesFewer d d1 := TilesFewer.ite (TilesFewer.ite (h.postOnce ..) (((hset _ h _).count ..).post ..)) h
  split
  · split
    · exact (hset _ h1 _).count ..
    · exact hset _ h1 _
  · exact hset _ h1 _

theorem TilesFewer.settleIssue (h : TilesFewer d e) (id : Nat) : TilesFewer d (settleIssue id e) := by
  unfold Machine.settleIssue
  split
  · exact h
  · next i _ =>
    split
    · exact (((h.issues _).settleClear i.issuer).swrite ..).adaptBand i
    · exact h

theorem TilesFewer.supersede (h : TilesFewer d e) (id : Nat) : TilesFewer d (supersede id e) := by
  unfold Machine.supersede
  split
  · exact h
  · exact List.foldlRecOn _ _ h fun g hg o _ => ((hg.issues _).count ..).settleIssue o.id

theorem tilesFewer_removeTile (h : TilesFewer d e) (t : Tile) : TilesFewer d (removeTile t e) := by
  have hl := tilesLeft_removeTile t e
  exact ⟨(congrArg Dev.allocs hl.frame :).trans h.allocs, (congrArg Dev.waits hl.frame :).trans h.waits, hl.fewer.trans h.tiles⟩

theorem TilesFewer.settleSpans (h : TilesFewer d e) (t : Tile) : TilesFewer d (settleSpans t e) := by
  unfold Machine.settleSpans
  split
  · exact h
  · exact h.same rfl rfl rfl

/-- A tile that has ended leaves once its counter is raised. -/
def endedTile (t : Tile) (d : Dev) : Dev :=
  removeTile t (settleSpans t (if t.smiss then (d.count 0x2092 t.ss 1).modJob t.job (fun j => { j with smiss := true }) else d.count 0x2092 t.ss 1))

/-- The counter of a tile that has ended, where it has one. -/
def committedOne (t : Tile) (d : Dev) : Dev :=
  match tileCtr d t with
  | some c => let d := settleClear c.home d; ctrAtomic d c 319 256 (ctrCommitted d c + 1)
  | none => d

theorem finishTile_ended {id : Nat} {t : Tile} (h : d.tileOf id = some t) (hs : t.stage = .writing) (ha : t.acks.length = t.writes.length)
    (hh : t.halo = []) : finishTile id d = endedTile t (committedOne t d) := by
  unfold finishTile
  rw [h]
  exact if_pos ⟨hs, ha, hh⟩

theorem finishTile_waits {id : Nat} {t : Tile} (h : d.tileOf id = some t) (hn : t.acks.length ≠ t.writes.length ∨ t.halo ≠ []) : finishTile id d = d := by
  unfold finishTile
  rw [h]
  exact if_neg fun ⟨_, ha, hh⟩ => hn.elim (fun h => h ha) fun h => h hh

theorem TilesFewer.committedOne (h : TilesFewer d e) (t : Tile) : TilesFewer d (committedOne t e) := by
  unfold Machine.committedOne
  split
  · exact (h.settleClear _).ctrAtomic ..
  · exact h

theorem TilesFewer.endedTile (h : TilesFewer d e) (t : Tile) : TilesFewer d (endedTile t e) :=
  tilesFewer_removeTile ((TilesFewer.ite ((h.count ..).modJob ..) (h.count ..)).settleSpans t) t

theorem TilesFewer.finishTile (h : TilesFewer d e) (id : Nat) : TilesFewer d (finishTile id e) := by
  cases ht : e.tileOf id with
  | none =>
    unfold Machine.finishTile
    rw [ht]
    exact h
  | some t =>
    by_cases hc : t.stage = .writing ∧ t.acks.length = t.writes.length ∧ t.halo = []
    · obtain ⟨hs, ha, hh⟩ := hc
      rw [finishTile_ended ht hs ha hh]
      exact (h.committedOne t).endedTile t
    · unfold Machine.finishTile
      rw [ht]
      exact (congrArg (TilesFewer d) (if_neg hc)).mpr h

/-! ### The commit (R94, R248) -/

/-- Every tile of a number is past its test-and-set, with no write accepted. -/
def WritesOf (tile : Nat) (d : Dev) : Prop := ∀ y ∈ d.tiles, y.id = tile → y.stage = .writing ∧ y.results = [] ∧ y.acks = []

theorem admitTile_writes (h : NeverWaits d e) (v : Variant) (t : Tile) : NeverWaits d (admitTile v t e) ∧ WritesOf t.id (admitTile v t e) := by
  have hw := ((h.countPads t).clearWindow t).tileWrites v t
  unfold admitTile
  extract_lets w m own d1 d2 d3
  have h1 : NeverWaits d d1 := (hw.haloMessages t w.1).consumeHalo t
  have h3 : NeverWaits d d3 := h1.same rfl rfl
  have hfew : TilesFewer d3 (settleIssue t.id (finishTile t.id (supersede t.id d3))) :=
    (((TilesFewer.refl d3).supersede t.id).finishTile t.id).settleIssue t.id
  refine ⟨h3.same hfew.allocs hfew.waits, fun y hy hid => ?_⟩
  obtain ⟨z, hz, rfl⟩ := List.mem_map.mp (hfew.tiles.subset hy)
  by_cases hz' : z.id = t.id
  · rw [if_pos hz']
    exact ⟨rfl, rfl, rfl⟩
  · rw [if_neg hz'] at hid
    exact (hz' hid).elim

theorem commitTile_writes (h : NeverWaits d e) (v : Variant) (t : Tile) : NeverWaits d (commitTile v t e) ∧ WritesOf t.id (commitTile v t e) := by
  unfold commitTile
  extract_lets d1
  have h1 : NeverWaits d d1 := by
    unfold d1
    split
    · exact h
    · exact h.windowResults t
  split
  · next hno => exact ⟨h1, fun y hy hid => (List.find?_eq_none.mp hno y hy (decide_eq_true hid)).elim⟩
  · next t1 ht1 =>
    have hid := tileOf_id ht1
    rw [← hid]
    exact admitTile_writes h1 v t1

/-- What a duplicate leaves: its tile has gone, and nothing but its own parts of the units, its issue, its job's mark and the count has changed. -/
theorem discardDuplicate_frame (t : Tile) (d : Dev) : ∃ issues jobs log, discardDuplicate t d =
    { removeTile t d with ctr := ((removeTile t d).count 0x2093 t.ss 1).ctr, issues := issues, jobs := jobs, log := log } := by
  unfold discardDuplicate
  generalize removeTile t d = g
  dsimp only
  split
  · exact ⟨_, _, _, rfl⟩
  · exact ⟨_, _, _, rfl⟩

theorem setBit_keeps (v : Variant) (t : Tile) (d : Dev) : AfterAccess d (setBit v t d).2.2 := by
  unfold setBit
  split
  · split
    · exact AfterAccess.refl d
    · exact afterAccess_devAccess (AfterAccess.refl d) ..
  · exact AfterAccess.refl d

section Commit

variable {s : State} {tile : Nat} {x : Tile} (hx : s.dev.tileOf tile = some x) (hs : x.stage = .formed) (hr : unitsRun s.dev x = true)

include hx hs hr

theorem tileCommit_leftOver {key : Nat} {p : Pairing} (hl : leftOver s.dev tile = some (key, p)) :
    ∃ t, exec (.tileCommit tile) s = .next t ∧ t = s.on t.dev ∧ Misaligned s.dev t.dev key x (leftTags x p).1 (leftTags x p).2 := by
  refine ⟨_, exec_tileCommit s tile, rfl, ?_⟩
  simp only [State.on_dev]
  unfold tileCommitOp
  rw [hx]
  dsimp only
  rw [if_pos ⟨hs, hr⟩, hl]
  exact misaligned_alignFault ..

theorem tileCommit_commits (hl : leftOver s.dev tile = none) {dup : Bool} {d1 : Dev} (hb : setBit s.variant x (fresh s.dev) = (dup, false, d1)) :
    ∃ f, tileCommitOp s.variant tile s.dev = reading x.reader s.dev f ∧
      f (fresh s.dev) = if dup then discardDuplicate x d1 else commitTile s.variant x d1 := by
  refine ⟨fun d => let b := setBit s.variant x d
      if b.2.1 then failRead x b.2.2 else if b.1 then discardDuplicate x b.2.2 else commitTile s.variant x b.2.2, ?_, ?_⟩
  · unfold tileCommitOp
    rw [hx]
    dsimp only
    rw [if_pos ⟨hs, hr⟩, hl]
  · dsimp only
    rw [hb]
    exact if_neg Bool.false_ne_true

theorem tileCommit_duplicate (hl : leftOver s.dev tile = none) {d1 : Dev} (hb : setBit s.variant x (fresh s.dev) = (true, false, d1)) :
    ∃ t, exec (.tileCommit tile) s = .next t ∧ (∀ y ∈ t.dev.tiles, y.id ≠ tile) ∧ t.dev.spad = d1.spad ∧ t.dev.mem.stack = d1.mem.stack ∧
      t.dev.mem.lines = d1.mem.lines ∧ Counted d1 t.dev 0x2093 x.ss 1 := by
  obtain ⟨f, hop, hf⟩ := tileCommit_commits hx hs hr hl hb
  obtain ⟨issues, jobs, log, hfr⟩ := discardDuplicate_frame x d1
  have hleft := tilesLeft_removeTile x d1
  have htiles := removeTile_tiles x d1
  have hacc := setBit_keeps s.variant x (fresh s.dev)
  rw [hb] at hacc
  have hid := tileOf_id hx
  refine ⟨_, exec_tileCommit s tile, ?_⟩
  simp only [State.on_dev]
  rw [if_pos rfl, hfr] at hf
  generalize removeTile x d1 = g at hleft htiles hf
  have hwaits : g.waits = false := (congrArg Dev.waits hleft.frame :).trans (congrArg Dev.waits hacc.frame :)
  rw [hop, reading_done (by rw [hf]; exact hwaits), hf, usedRemote_frame]
  have hcnt := g.counted_count 0x2093 x.ss 1
  have hctr : g.ctr = d1.ctr := (congrArg Dev.ctr hleft.frame :)
  refine ⟨fun y hy => ?_, (congrArg Dev.spad hleft.frame :), (congrArg (·.mem.stack) hleft.frame :), (congrArg (·.mem.lines) hleft.frame :), fun k => ?_⟩
  · rw [← hid]
    have hne := (List.mem_filter.mp (htiles ▸ hy)).2
    exact of_decide_eq_true hne
  · exact (hcnt k).trans (by rw [hctr])

theorem tileCommit_admits (hl : leftOver s.dev tile = none) {d1 : Dev} (hb : setBit s.variant x (fresh s.dev) = (false, false, d1)) :
    ∃ t, exec (.tileCommit tile) s = .next t ∧ (Waits s.dev t.dev ∨ WritesOf tile t.dev) := by
  obtain ⟨f, hop, hf⟩ := tileCommit_commits hx hs hr hl hb
  have hacc := setBit_keeps s.variant x (fresh s.dev)
  rw [hb] at hacc
  have hd1 : NeverWaits (fresh s.dev) d1 := ⟨(congrArg Dev.allocs hacc.frame :), fun _ => (congrArg Dev.waits hacc.frame :)⟩
  obtain ⟨hnever, hwrites⟩ := commitTile_writes hd1 s.variant x
  rw [tileOf_id hx] at hwrites
  rw [if_neg Bool.false_ne_true] at hf
  rw [← hf] at hnever hwrites
  refine ⟨_, exec_tileCommit s tile, ?_⟩
  simp only [State.on_dev]
  rw [hop]
  cases hw : (f (fresh s.dev)).waits with
  | true =>
    left
    rw [reading_waits hw]
    exact ⟨fun hn => Bool.false_ne_true ((hnever.still hn).symm.trans hw), rfl⟩
  | false =>
    right
    rw [reading_done hw, usedRemote_frame]
    exact hwrites

end Commit

end Sys2Proof.Machine

/-!
PROOFS for the acceptance of a tile's writes, and the whole of a tile's way (R248, R249).
-/
namespace Sys2Proof.Machine

open Sys2Proof

theorem exec_writeAccept (s : State) (tile index : Nat) :
    exec (.writeAccept tile index) s = .next (s.on (writeAcceptOp s.variant tile index s.dev)) := rfl

/-- A tile with one more of its writes accepted. -/
def Tile.accepted (x : Tile) (index : Nat) : Tile := { x with acks := x.acks ++ [index] }

variable {d e : Dev}

theorem ackWrite_eq (tile index : Nat) (d : Dev) : ackWrite tile index d = finishTile tile (d.modTile tile fun x => x.accepted index) := rfl

theorem ackWrite_waits {tile index : Nat} {x : Tile} (hx : d.tileOf tile = some x) (h : x.acks.length + 1 ≠ x.writes.length ∨ x.halo ≠ []) :
    ackWrite tile index d = d.modTile tile (fun x => x.accepted index) := by
  rw [ackWrite_eq]
  refine finishTile_waits (tileOf_modTile_same hx fun _ => rfl) ?_
  rwa [show (x.accepted index).acks.length = x.acks.length + 1 from List.length_append]

theorem settleClear_fresh (code : Nat) (d : Dev) : settleClear code (fresh d) = fresh (settleClear code d) := by
  unfold settleClear
  dsimp only
  rw [show (fresh d).sbank code = d.sbank code from rfl]
  split <;> rfl

/-- A clear that is due, whatever else of the device has changed. -/
theorem settleClear_congr {d e : Dev} (hs : e.spad = d.spad) (hb : e.banks = d.banks) (code : Nat) : (settleClear code e).spad = (settleClear code d).spad := by
  unfold settleClear
  dsimp only
  have hbank : e.sbank code = d.sbank code := by rw [Dev.sbank, hb, Dev.sbank]
  rw [hbank]
  split
  · exact congrArg (fun m => mclear m (spadAddr code 0) 262144) hs
  · exact hs

theorem ctrCommitted_congr {d e : Dev} (hs : e.spad = d.spad) (c : CtrEntry) : ctrCommitted e c = ctrCommitted d c := by
  rw [ctrCommitted, ctrField, Dev.sreadNat, Dev.sread, hs]
  rfl

theorem counterOf_ctrAtomic (d : Dev) (c : CtrEntry) (hi lo v : Nat) {idx ss : Nat} (h : idx < 0x3042) (hs : ss < 256) :
    counterOf (ctrAtomic d c hi lo v) idx ss = counterOf d idx ss :=
  counterOf_count_other (ctrSet d c.home c.addr hi lo v) _ _ ss hs (Or.inl h)

theorem counterOf_committedOne (t : Tile) (d : Dev) {idx ss : Nat} (h : idx < 0x3042) (hs : ss < 256) :
    counterOf (committedOne t d) idx ss = counterOf d idx ss := by
  unfold committedOne
  split
  · next c _ =>
    dsimp only
    rw [counterOf_ctrAtomic _ _ _ _ _ h hs, settleClear_frame]
    rfl
  · rfl

/-- What a tile that has ended leaves: the counts and the issuers' memories. -/
theorem endedTile_keeps (t : Tile) (d : Dev) : (endedTile t d).ctr = (d.count 0x2092 t.ss 1).ctr ∧ (endedTile t d).spad = d.spad ∧
    ∀ y ∈ (endedTile t d).tiles, y.id ≠ t.id := by
  unfold endedTile
  generalize hm : (ite (t.smiss = true) _ _ : Dev) = d1
  have h1 : d1.ctr = (d.count 0x2092 t.ss 1).ctr ∧ d1.spad = d.spad := by
    rw [← hm]
    split <;> exact ⟨rfl, rfl⟩
  have h2 : settleSpans t d1 = { d1 with spans := (settleSpans t d1).spans } := by
    unfold settleSpans
    split <;> rfl
  generalize settleSpans t d1 = d2 at h2 ⊢
  have hleft := (tilesLeft_removeTile t d2).frame
  have htiles := removeTile_tiles t d2
  generalize removeTile t d2 = d3 at hleft htiles ⊢
  refine ⟨(congrArg Dev.ctr hleft :).trans ((congrArg Dev.ctr h2 :).trans h1.1), (congrArg Dev.spad hleft :).trans ((congrArg Dev.spad h2 :).trans h1.2),
    fun y hy => ?_⟩
  have hne := (List.mem_filter.mp (htiles ▸ hy)).2
  exact of_decide_eq_true hne

/-- The record of a counter once a tile of it has ended. -/
theorem ctrCommitted_committedOne {t : Tile} {d : Dev} {c : CtrEntry} (h : tileCtr d t = some c) (hb : ctrCommitted (settleClear c.home d) c + 1 < 2 ^ 64) :
    ctrCommitted (committedOne t d) c = ctrCommitted (settleClear c.home d) c + 1 := by
  unfold committedOne
  rw [h]
  exact (ctrField_ctrAtomic (settleClear c.home d) c (hi := 319) (lo := 256) (by omega) (by omega) _).trans (Nat.mod_eq_of_lt hb)

/-- The acceptance of a tile's last write, with no message left. -/
theorem ackWrite_last {tile index : Nat} {x : Tile} (hx : d.tileOf tile = some x) (hs : x.stage = .writing)
    (hl : x.acks.length + 1 = x.writes.length) (hh : x.halo = []) :
    (ackWrite tile index d).waits = d.waits ∧ (∀ y ∈ (ackWrite tile index d).tiles, y.id ≠ tile) ∧
      (x.ss < 256 → counterOf (ackWrite tile index d) 0x2092 x.ss = counterOf d 0x2092 x.ss + 1) ∧
      ∀ c, tileCtr d x = some c → ctrCommitted (settleClear c.home d) c + 1 < 2 ^ 64 →
        ctrCommitted (ackWrite tile index d) c = ctrCommitted (settleClear c.home d) c + 1 := by
  obtain ⟨e, he⟩ : ∃ e, e = d.modTile tile fun y => y.accepted index := ⟨_, rfl⟩
  have hte : e.tileOf tile = some (x.accepted index) := by
    rw [he]
    exact tileOf_modTile_same hx fun _ => rfl
  have hack : ackWrite tile index d = endedTile (x.accepted index) (committedOne (x.accepted index) e) := by
    rw [ackWrite_eq, ← he]
    exact finishTile_ended hte hs (List.length_append.trans hl) hh
  have hfew := ((TilesFewer.refl e).committedOne (x.accepted index)).endedTile (x.accepted index)
  obtain ⟨hctr, hspad, hgone⟩ := endedTile_keeps (x.accepted index) (committedOne (x.accepted index) e)
  rw [hack]
  refine ⟨hfew.waits.trans (by rw [he]; rfl), ?_, fun h => ?_, fun c hc hlt => ?_⟩
  · rw [← tileOf_id hx]
    exact hgone
  · have hsame : counterOf (committedOne (x.accepted index) e) 0x2092 x.ss = counterOf d 0x2092 x.ss := by
      rw [counterOf_committedOne _ _ (by omega) h, he]
      rfl
    have hcounted := counterOf_counted ((committedOne (x.accepted index) e).counted_count 0x2092 x.ss 1)
    rw [counterOf] at hcounted ⊢
    rw [← hsame, hctr]
    exact hcounted
  · have hcc : tileCtr e (x.accepted index) = some c := by rw [← hc, he]; rfl
    have hclear : ctrCommitted (settleClear c.home e) c = ctrCommitted (settleClear c.home d) c :=
      ctrCommitted_congr (settleClear_congr (by rw [he]; rfl) (by rw [he]; rfl) c.home) c
    have hlt' := hlt
    rw [← hclear] at hlt'
    rw [ctrCommitted_congr hspad c, ctrCommitted_committedOne hcc hlt', hclear]

theorem swrite_spad (d : Dev) (code a : Nat) (b : Bytes) : (d.swrite code a b).spad = mwrite d.spad (spadAddr code a) b := rfl

section Accept

variable {s : State} {tile index : Nat} {x : Tile} (hx : s.dev.tileOf tile = some x) (hs : x.stage = .writing) (hi : index ∉ x.acks)

include hx hs hi

theorem writeAcceptOp_of_write {w : RawOp} (hw : x.writes[index]? = some w) : writeAcceptOp s.variant tile index s.dev = reading x.reader s.dev (fun d =>
    let r := applyRaw s.variant x index w d
    if r.2.1 then failRead x r.2.2 else if r.1 then ackWrite tile index r.2.2 else r.2.2) := by
  unfold writeAcceptOp
  rw [hx]
  dsimp only
  rw [hw]
  refine if_pos ⟨hs, ?_⟩
  rw [List.contains_eq_mem]
  exact decide_eq_false hi

/-- A write that is there is accepted, where the device `e` is as the write leaves it. -/
theorem writeAccept_accepts {w : RawOp} (hw : x.writes[index]? = some w) {e : Dev} (he : applyRaw s.variant x index w (fresh s.dev) = (true, false, e))
    (hq : (ackWrite tile index e).waits = false) : writeAcceptOp s.variant tile index s.dev = usedRemote x.reader (ackWrite tile index e) := by
  rw [writeAcceptOp_of_write hx hs hi hw]
  have hf : (fun d : Dev => let r := applyRaw s.variant x index w d
      if r.2.1 then failRead x r.2.2 else if r.1 then ackWrite tile index r.2.2 else r.2.2) (fresh s.dev) = ackWrite tile index e := by
    dsimp only
    rw [he]
    rfl
  generalize (fun d : Dev => let r := applyRaw s.variant x index w d
      if r.2.1 then failRead x r.2.2 else if r.1 then ackWrite tile index r.2.2 else r.2.2) = f at hf ⊢
  rw [reading_done (by rw [hf]; exact hq), hf]

/-- A write accepted with others to come. -/
theorem writeAccept_more {w : RawOp} (hw : x.writes[index]? = some w) {e : Dev} (he : applyRaw s.variant x index w (fresh s.dev) = (true, false, e))
    (ht : e.tiles = s.dev.tiles) (hq : e.waits = false) (hmore : x.acks.length + 1 ≠ x.writes.length ∨ x.halo ≠ []) :
    ∃ t, exec (.writeAccept tile index) s = .next t ∧ t = s.on { e with tiles := t.dev.tiles, remote := t.dev.remote } ∧
      t.dev.tileOf tile = some (x.accepted index) := by
  have hxe : e.tileOf tile = some x := by rw [Dev.tileOf, ht]; exact hx
  have hack := ackWrite_waits (index := index) hxe hmore
  have hop := writeAccept_accepts hx hs hi hw he (by rw [hack]; exact hq)
  rw [hack, usedRemote_frame] at hop
  refine ⟨_, exec_writeAccept s tile index, ?_⟩
  rw [hop]
  exact ⟨rfl, tileOf_modTile_same hxe fun _ => rfl⟩

theorem writeAccept_memory {h o : Nat} {b : Bytes} {al : Alloc} {d1 : Dev} (hw : x.writes[index]? = some (.mem h o (.write b)))
    (ha : s.dev.allocOf h = some al) (hk : al.kind = .stack) (hn : NoTileWaits s.dev) (hd : devWrite s.variant al o b (fresh s.dev) = (false, d1))
    (hmore : x.acks.length + 1 ≠ x.writes.length ∨ x.halo ≠ []) :
    ∃ t, exec (.writeAccept tile index) s = .next t ∧ t = s.on { d1 with tiles := t.dev.tiles, remote := t.dev.remote } ∧
      t.dev.tileOf tile = some (x.accepted index) := by
  have hacc := ((Accessed.refl (d := fresh s.dev) hn).devWrite s.variant al o b).frame
  rw [hd] at hacc
  refine writeAccept_more hx hs hi hw ?_ (congrArg Dev.tiles hacc :) (congrArg Dev.waits hacc :) hmore
  unfold applyRaw
  dsimp only
  rw [show (fresh s.dev).allocOf h = some al from ha]
  dsimp only
  rw [hk]
  dsimp only
  rw [hd]

/-- The write of a tile to an issuer's memory that is its last. -/
theorem writeAccept_lastSpad {code addr : Nat} {b : Bytes} (hw : x.writes[index]? = some (.spad code addr b))
    (hl : x.acks.length + 1 = x.writes.length) (hh : x.halo = []) :
    ∃ t, exec (.writeAccept tile index) s = .next t ∧ (∀ y ∈ t.dev.tiles, y.id ≠ tile) ∧
      (x.ss < 256 → counterOf t.dev 0x2092 x.ss = counterOf s.dev 0x2092 x.ss + 1) ∧
      ∀ c, tileCtr s.dev x = some c → ∀ d2, d2 = settleClear c.home { settleClear code s.dev with
          spad := mwrite (settleClear code s.dev).spad (spadAddr code addr) b } →
        ctrCommitted d2 c + 1 < 2 ^ 64 → ctrCommitted t.dev c = ctrCommitted d2 c + 1 := by
  have hid := tileOf_id hx
  have hraw : applyRaw s.variant x index (.spad code addr b) (fresh s.dev) = (true, false, (fresh (settleClear code s.dev)).swrite code addr b) := by
    rw [← settleClear_fresh]
    rfl
  have htiles : (settleClear code s.dev).tiles = s.dev.tiles ∧ (settleClear code s.dev).jobs = s.dev.jobs ∧
      (settleClear code s.dev).progs = s.dev.progs ∧ (settleClear code s.dev).ctr = s.dev.ctr := by
    rw [settleClear_frame]
    exact ⟨rfl, rfl, rfl, rfl⟩
  obtain ⟨ht, hj, hp, hc⟩ := htiles
  have hop := writeAccept_accepts hx hs hi hw hraw
  generalize settleClear code s.dev = d0 at ht hj hp hc hop ⊢
  have hxe : ((fresh d0).swrite code addr b).tileOf tile = some x := by
    rw [← hx, Dev.tileOf, Dev.tileOf, ← ht]
    rfl
  obtain ⟨hwaits, hgone, hcount, hcommit⟩ := ackWrite_last (index := index) hxe hs hl hh
  rw [usedRemote_frame] at hop
  refine ⟨_, exec_writeAccept s tile index, ?_⟩
  rw [hop hwaits]
  generalize ackWrite tile index ((fresh d0).swrite code addr b) = g at hgone hcount hcommit
  refine ⟨hgone, fun h => (hcount h).trans ?_, fun c h d2 hd2 hlt => ?_⟩
  · have hsame : counterOf ((fresh d0).swrite code addr b) 0x2092 x.ss = counterOf s.dev 0x2092 x.ss := by
      unfold counterOf
      rw [← hc]
      rfl
    rw [hsame]
  · have hcc : tileCtr ((fresh d0).swrite code addr b) x = some c := by
      rw [← h]
      unfold tileCtr Dev.jobOf Dev.progOf
      rw [← hj, ← hp]
      rfl
    have hclear : ctrCommitted (settleClear c.home ((fresh d0).swrite code addr b)) c = ctrCommitted d2 c := by
      have hs2 : (settleClear c.home ((fresh d0).swrite code addr b)).spad = d2.spad := by
        rw [hd2]
        exact settleClear_congr (d := { d0 with spad := mwrite d0.spad (spadAddr code addr) b }) (swrite_spad (fresh d0) code addr b) rfl c.home
      exact ctrCommitted_congr hs2 c
    rw [← hclear] at hlt
    exact (hcommit c hcc hlt).trans (congrArg (· + 1) hclear)

/-- The write of a tile to an issuer's memory that is not its last. -/
theorem writeAccept_spad {code addr : Nat} {b : Bytes} (hw : x.writes[index]? = some (.spad code addr b))
    (hmore : x.acks.length + 1 ≠ x.writes.length ∨ x.halo ≠ []) :
    ∃ t, exec (.writeAccept tile index) s = .next t ∧
      t = s.on { settleClear code s.dev with spad := mwrite (settleClear code s.dev).spad (spadAddr code addr) b, tiles := t.dev.tiles,
                                             waits := false, gone := none, remote := t.dev.remote } ∧
      t.dev.tileOf tile = some (x.accepted index) := by
  have hraw : applyRaw s.variant x index (.spad code addr b) (fresh s.dev) = (true, false, (fresh (settleClear code s.dev)).swrite code addr b) := by
    rw [← settleClear_fresh]
    rfl
  have htiles : (settleClear code s.dev).tiles = s.dev.tiles := by rw [settleClear_frame]
  generalize settleClear code s.dev = d0 at hraw htiles ⊢
  obtain ⟨t, hex, ht, htile⟩ := writeAccept_more hx hs hi hw hraw htiles rfl hmore
  exact ⟨t, hex, ht, htile⟩

end Accept

theorem sweptClear_unswept {v : Variant} {j : Job} {a : AtInst} {i : IssState} (h : i.swept = false) (q : Nat) (d : Dev) :
    sweptClear v j a i q d = (true, d) := by
  unfold sweptClear
  rw [h]
  rfl

/-- Settles O19: the branches of the issue, of the commit and of the acceptance of a write, one by one. -/
theorem tilesIssueAndCommitOnce : Obligations.TilesIssueAndCommitOnce := by
  unfold Obligations.TilesIssueAndCommitOnce
  refine ⟨fun s code engine j i a q gi gj rest hj ha hrun hm hl hg => ⟨fun h => sweptClear_unswept h q s.dev,
    fun hb => tileIssue_passed hj ha hrun hm hl hg hb, fun hb hgone => tileIssue_gone hj ha hrun hm hl hg hb hgone,
    fun hb hgone hroom => tileIssue_noRoom hj ha hrun hm hl hg hb hgone hroom, fun hb hgone hroom => ?_⟩,
    fun s tile x hx hs hr => ⟨fun key p hl => tileCommit_leftOver hx hs hr hl, fun d1 hl hb => tileCommit_duplicate hx hs hr hl hb,
      fun d1 hl hb => tileCommit_admits hx hs hr hl hb⟩,
    fun s tile index x hx hs hi => ⟨fun h o b al d1 hw hal hk hn hd hmore => writeAccept_memory hx hs hi hw hal hk hn hd hmore,
      fun code addr b hw => ?_⟩⟩
  · obtain ⟨t, hex, h⟩ := tileIssue_issues hj ha hrun hm hl hg hb hgone hroom
    refine ⟨t, hex, (h _ _ rfl rfl).imp id fun ⟨hnext, hleft, hin⟩ => ⟨hnext, hleft, fun hv => ?_⟩⟩
    obtain ⟨htiles, hid, hstage, hcounted, hentered, hothers, hmacros, hengines, hmem, hspad⟩ := hin hv
    exact ⟨htiles, hid, hstage, hcounted, hentered, hothers, hmacros, hengines, hmem, hspad⟩
  · by_cases hlast : x.acks.length + 1 = x.writes.length ∧ x.halo = []
    · obtain ⟨t, hex, hgone, hcount, hcommit⟩ := writeAccept_lastSpad hx hs hi hw hlast.1 hlast.2
      exact ⟨t, hex, fun hmore => hmore.elim (fun h => (h hlast.1).elim) fun h => (h hlast.2).elim,
        fun _ _ => ⟨hgone, hcount, fun c hc => hcommit c hc _ rfl⟩⟩
    · obtain ⟨t, hex, hmore⟩ := writeAccept_spad hx hs hi hw (not_and_or.mp hlast)
      exact ⟨t, hex, fun _ => hmore, fun hl hh => (hlast ⟨hl, hh⟩).elim⟩

end Sys2Proof.Machine

/-!
PROOFS for the weights of a matrix (R32, R365, R366): a load reads its image from device memory, and with the failure of a tile that this read serves
the macro's entry goes, and a second one of the same number is asked for retirement.
-/
namespace Sys2Proof.Machine

open Sys2Proof

/-! ### The state -/

/-- A tile that waits for a read of the image's first line. -/
def servedTile : Tile :=
  { id := 1, job := 1, issuer := 0, pc := 0, ctr := 0, q := 0, gi := 0, gj := 0,
    inst := { func := fLAPP, gen := 0, mode := 0, shape := 0, phase := 0, strict := false, trk := 0, cmp := 0, op := [], bnd := [],
              pblk := 0, rowfn := 0, fuse := 0 },
    prm := {}, b0 := 0, b1 := 0, b2 := 0, stage := .issued, wedges := [], engine := none, guard := 0, band := 0, floor := 0,
    fail := none, smiss := false, strictMiss := false, parts := [], fed := [], reduced := [], outs := [], results := [], writes := [],
    acks := [], codes := [], drawn := [], halo := [], haloN := [], haloRead := [], haloLost := false, items := 1 }

/-- A block of that tile in a macro's input. -/
def servedBlk : Blk :=
  { tile := 1, vec := 0, rb := 0, cb := 0, q := [], exp := 0, plane := 0, pass := 0, amb := [], sums := [], outRows := [], outExp := 0, terms := [],
    termsDone := false }

/-- The allocation of the image, whose lines are not cached. -/
def imageAlloc : Alloc :=
  { handle := 1, port := 0, kind := .stack, size := 2 ^ 20, spread := false, h0 := 0, policy := 2, arcs := [{ hub := 0, frame0 := 0, frame1 := 0 }],
    pos := 0, export_ := 0, rights := 0, issuer := 0, winHub := 0, winGroup := 0, peer := 0, peerExp := 0, live := true }

/-- A matrix of one macro, whose image is there. -/
def imageMatrix : Matrix :=
  { id := 0, rows := 1, cols := 1, packing := .int8, source := 0, group := 0, place := [0], outliers := [], imgAlloc := 1, imgAddr := 0 }

def loadOfImage : Load := { cmd := 1, mat := imageMatrix, writing := true, targets := [(0, false)] }

def loadCmd : Cmd := { id := 1, port := 0, q := 0, cid := 0, opc := 0x10, p := [], stage := .busy, waits := [] }

/-- The read of the tile. -/
def firstRead : Waiting := { slice := 0, line := 0, off := 0, len := 1, op := .read, tile := some 1 }

/-- A pinned line of another frame. -/
def pinnedLine : Line := { line := 2 ^ 20, rr := 3, dirty := false, pinned := true, poison := false, data := [] }

/-- The slice's set of the image's first line is full of pinned lines, so that the line cannot be brought. -/
def pinnedMem : Mem :=
  { stack := [], lines := (List.range 16).map fun w => (wayKey 0 0 w, pinnedLine),
    remap := [], corr := [], copying := [], waiting := [firstRead], stby := [], bad := [] }

/-- The module with main power on, in which two entries of macro 0 stand: one with a block of the tile, one asked for retirement. -/
def loadDev : Dev :=
  { Dev.reset with
    seq := { Seq.reset with phase := .up, hubHeld := [] }, tiles := [servedTile], macros := [(0, { blk := some servedBlk }), (0, { retire := true })],
    allocs := [imageAlloc], loads := [loadOfImage], cmds := [loadCmd], mem := pinnedMem }

/-! ### The read that the load serves -/

theorem tfind_map_const {α β : Type} (f : β → Nat) (x : α) {l : List β} {w : β} (h : w ∈ l) : tfind (l.map fun w => (f w, x)) (f w) = some x := by
  induction l with
  | nil => cases h
  | cons y l ih =>
    rw [List.map_cons, tfind]
    split
    · rfl
    · next hne => exact ih ((List.mem_cons.mp h).resolve_left fun hy => hne (congrArg f hy.symm))

theorem pinned_line {slice line w : Nat} {l : Line} (h : tfind pinnedMem.lines (wayKey slice line w) = some l) : l = pinnedLine := by
  obtain ⟨w, -, hw⟩ := List.mem_map.mp (tfind_mem h)
  exact (congrArg Prod.snd hw).symm

/-- No line of the image's frame is cached. -/
theorem wayOf_pinned {m : Mem} (hm : m.lines = pinnedMem.lines) {slice line : Nat} (h : line < 2 ^ 20) : wayOf m slice line = none := by
  refine List.find?_eq_none.mpr fun w _ => ?_
  rw [hm]
  split
  · next l hl =>
    have hne : pinnedLine.line ≠ line := fun h' => by
      have : pinnedLine.line = 2 ^ 20 := rfl
      omega
    rw [pinned_line hl]
    exact fun hb => hne (eq_of_beq hb)
  · exact Bool.false_ne_true

theorem tfind_pinned {w : Nat} (h : w < 16) : tfind pinnedMem.lines (wayKey 0 0 w) = some pinnedLine :=
  tfind_map_const (wayKey 0 0) pinnedLine (List.mem_range.mpr h)

/-- The set has no line that may go. -/
theorem chooseVictim_pinned {m : Mem} (hm : m.lines = pinnedMem.lines) : chooseVictim m 0 0 = (none, m) := by
  have hways : waysOf m 0 0 = (List.range 16).map fun w => (w, pinnedLine) := by
    unfold waysOf
    rw [hm, ← List.filterMap_eq_map]
    refine List.filterMap_congr fun w hw => ?_
    rw [tfind_pinned (List.mem_range.mp hw)]
    rfl
  unfold chooseVictim
  rw [hways]
  rfl

theorem installLine_pinned {d : Dev} (hm : d.mem.lines = pinnedMem.lines) (data : Bytes) (dirty poison : Bool) :
    installLine 0 0 2 data dirty poison d = d := by
  have hfull : (decide ((2 : Nat) = 3) && decide (((waysOf d.mem 0 0).filter (fun e => e.2.pinned)).length ≥ 4)) = false := rfl
  have hvictim := chooseVictim_pinned hm
  unfold installLine
  dsimp only
  simp only [hfull, Bool.false_eq_true, if_false, hvictim]

/-- The device once the tile's read was served. -/
def servedDev : Dev := failTile servedTile stMemUe ((({ (loadDev.count 0x3002 (ssHub (hubOfSlice 0)) 1) with
  mem := { pinnedMem with waiting := [] } } : Dev)).emit (.response 0 0 [] true))

theorem serveFirst_loadDev : serveFirst 0 0 2 loadDev = servedDev := by
  unfold serveFirst
  rw [show waitersOf loadDev 0 0 = [firstRead] from rfl]
  have hway (m : Mem) (hm : m.lines = pinnedMem.lines) : wayOf m 0 0 = none := wayOf_pinned hm (by decide)
  have hfill : fillFrom 0 0 2 loadDev = loadDev.count 0x3002 (ssHub (hubOfSlice 0)) 1 := installLine_pinned rfl ..
  dsimp only
  rw [hway loadDev.mem rfl, hfill]
  generalize hd : ({ loadDev.count 0x3002 (ssHub (hubOfSlice 0)) 1 with mem := { pinnedMem with waiting := [] } } : Dev) = d
  have hmiss : accessHit true 0 0 0 1 .read d = ([], true, d) := by
    unfold accessHit
    rw [hway d.mem (by rw [← hd])]
  have hserve : serveWaiting d (firstRead, 0) = respond 0 0 .read (some 1) stMemUe [] true d := by
    have htile : ((some 1 : Option Nat).elim false (fun t => (d.tileOf t).isNone)) = false := by
      rw [← hd]
      rfl
    refine (if_neg (ne_true_of_eq_false htile)).trans ?_
    exact (congrArg (fun a : Bytes × Bool × Dev => respond 0 0 .read (some 1) stMemUe a.1 a.2.1 a.2.2) hmiss :)
  have hrespond : respond 0 0 .read (some 1) stMemUe [] true d = servedDev := by
    rw [← hd]
    rfl
  refine Eq.trans ?_ (hserve.trans hrespond)
  rw [← hd]
  rfl

theorem servedDev_macros : servedDev.macros = [(0, { retire := true })] := by decide +kernel

theorem servedDev_mem : servedDev.mem = { pinnedMem with waiting := [] } := rfl

theorem servedDev_slices : ∀ k < 4, sliceGone .oc40a servedDev k = false := by decide +kernel

/-! ### The image reads as zeros -/

theorem mread_nil : ∀ (n a : Nat), mread [] a n = List.replicate n 0
  | 0, _ => rfl
  | n + 1, a => congrArg (0 :: ·) (mread_nil n (a + 1))

theorem padTo_zeros (n k : Nat) : ∃ m, padTo n (List.replicate k (0 : Byte)) = List.replicate m 0 := by
  refine ⟨k + (n - k), ?_⟩
  rw [padTo, List.length_replicate, List.replicate_append_replicate]

theorem leNat_zeros : ∀ n, leNat (List.replicate n 0) = 0
  | 0 => rfl
  | n + 1 => by
    rw [List.replicate_succ, leNat, leNat_zeros n]
    rfl

/-- From here on the device is the one that the tile's failure left, but for its counters. -/
def AsServed (d : Dev) : Prop := ∃ ctr, d = { servedDev with ctr := ctr }

/-- What was read so far: zeros, none of it poisoned. -/
def ReadZeros (r : Bytes × Bool × Dev) : Prop := (∃ n, r.1 = List.replicate n 0) ∧ r.2.1 = false ∧ AsServed r.2.2

theorem accessAlone_zeros {d : Dev} (h : AsServed d) {slice line : Nat} (off len : Nat) (hl : line < 2 ^ 20) :
    ReadZeros (accessAlone slice line off len .read 2 d) := by
  obtain ⟨ctr, h⟩ := h
  have hmem : d.mem = { pinnedMem with waiting := [] } := (congrArg Dev.mem h :).trans servedDev_mem
  have hway : wayOf d.mem slice line = none := wayOf_pinned (by rw [hmem]) hl
  have hstack : ∃ n, slicePart (readStack d.mem (slice / 2) line) off len = List.replicate n 0 := by
    rw [readStack, hmem]
    refine ⟨min len (64 - off), ?_⟩
    rw [show ({ pinnedMem with waiting := [] } : Mem).stack = [] from rfl, mread_nil, slicePart, List.drop_replicate, List.take_replicate]
  unfold accessAlone
  rw [hway]
  refine ⟨hstack, by rw [hmem]; rfl, ?_⟩
  rw [h]
  exact ⟨_, rfl⟩

theorem accessNow_zeros {d : Dev} (h : AsServed d) {slice line : Nat} (off len : Nat) (hs : slice < 4) (hl : line < 2 ^ 20) :
    ReadZeros (accessNow .oc40a slice line off len .read 2 d) := by
  have h' := h
  obtain ⟨ctr, hd⟩ := h'
  have hgone : sliceGone .oc40a d slice = false := by
    rw [hd]
    exact servedDev_slices slice hs
  have hserve : serveFirst slice line 2 d = d := by
    unfold serveFirst waitersOf
    rw [hd]
    rfl
  unfold accessNow
  rw [hgone, hserve]
  exact accessAlone_zeros h off len hl

/-- The image's allocation lies in the frame 0 of hub 0. -/
theorem allocPlace_image {o : Nat} (h : o < 2 ^ 26) : ∃ slice line off, allocPlace imageAlloc o = some (slice, line, off) ∧ slice < 4 ∧ line < 2 ^ 20 := by
  have harc : imageAlloc.arcs[(imageAlloc.pos + o) / 2 ^ 27]? = some { hub := 0, frame0 := 0, frame1 := 0 } := by
    rw [show (imageAlloc.pos + o) / 2 ^ 27 = 0 from Nat.div_eq_of_lt (by rw [show imageAlloc.pos = 0 from rfl]; omega)]
    rfl
  unfold allocPlace
  dsimp only
  rw [harc]
  dsimp only
  rw [show imageAlloc.pos + o = o from Nat.zero_add o]
  refine ⟨_, _, _, rfl, ?_, ?_⟩
  · unfold parityOf
    omega
  · split <;> omega

theorem ReadZeros.after {r : Bytes × Bool × Dev} (hz : ∃ k, r.1 = List.replicate k 0) (hr : r.2.1 = false) {a : Bytes × Bool × Dev} (ha : ReadZeros a) (n : Nat) :
    ReadZeros (r.1 ++ padTo n a.1, r.2.1 || a.2.1, a.2.2) := by
  obtain ⟨k, hk⟩ := hz
  obtain ⟨⟨l, hl⟩, hp, hd⟩ := ha
  obtain ⟨m, hm⟩ := padTo_zeros n l
  refine ⟨⟨k + m, ?_⟩, by rw [hr, hp]; rfl, hd⟩
  rw [hk, hl, hm, List.replicate_append_replicate]

theorem linePieces_image : ∃ ps, linePieces 0 34816 = (0, 64) :: ps ∧ ∀ p ∈ ps, p.1 < 2 ^ 26 := by
  refine ⟨_, rfl, fun p hp => ?_⟩
  obtain ⟨i, hi, rfl⟩ := List.mem_map.mp hp
  have hlt : i < 543 := List.mem_range.mp hi
  dsimp only
  omega

theorem devRead_image : ReadZeros (devRead .oc40a imageAlloc 0 34816 loadDev) := by
  obtain ⟨ps, hps, hin⟩ := linePieces_image
  have hfirst : ReadZeros (accessNow .oc40a 0 0 0 64 .read 2 loadDev) := by
    have hgone : sliceGone .oc40a loadDev 0 = false := by decide +kernel
    unfold accessNow
    rw [hgone, serveFirst_loadDev]
    exact accessAlone_zeros ⟨servedDev.ctr, rfl⟩ 0 64 (by decide)
  have hplace : allocPlace imageAlloc 0 = some (0, 0, 0) := by decide +kernel
  unfold devRead
  rw [hps, List.foldl_cons]
  refine List.foldlRecOn (motive := ReadZeros) ps _ ?_ fun r hr p hp => ?_
  · dsimp only
    rw [hplace]
    exact ReadZeros.after (r := ([], false, loadDev)) ⟨0, rfl⟩ rfl hfirst 64
  · obtain ⟨slice, line, off, hp', hs, hl⟩ := allocPlace_image (hin p hp)
    obtain ⟨hz, hpoison, hserved⟩ := hr
    rw [hp']
    exact ReadZeros.after hz hpoison (accessNow_zeros hserved off p.2 hs hl) p.2

/-- The image is read without an error, and is zero. -/
theorem loadImage_zeros (image : HostRead) : ∃ d, loadImage .oc40a imageMatrix image loadDev = (.ok 0, d) ∧ AsServed d := by
  have hbytes : imgBytes imageMatrix = 34816 := rfl
  obtain ⟨⟨n, hn⟩, hp, hd⟩ := devRead_image
  refine ⟨_, ?_, hd⟩
  unfold loadImage
  rw [hbytes]
  refine (if_pos (by decide)).trans ?_
  rw [show loadDev.allocOf imageMatrix.imgAlloc = some imageAlloc from rfl]
  dsimp only
  rw [if_neg (by decide)]
  have himage : imageMatrix.imgAddr = 0 := rfl
  rw [himage, hp, hn, leNat_zeros]
  rfl

theorem elemFault_zero (pad : Bool) : elemFault imageMatrix pad 0 = none := by
  cases pad <;> rfl

theorem macroFault_zero (e : Nat) : macroFault imageMatrix 0 e = none := by
  have helem (row j : Nat) : imgElem imageMatrix 0 row j = 0 := by
    rw [imgElem, Nat.zero_shiftRight, Nat.zero_mod]
  have hscale (j : Nat) : (imgScale imageMatrix 0 j &&& 0x7FFF) = 0 := by
    rw [imgScale, Nat.zero_shiftRight]
    rfl
  have hrows : (List.range (32 * unitsOf imageMatrix.packing)).findSome? (fun i =>
      elemFault imageMatrix (decide (i / unitsOf imageMatrix.packing ≥ validRows imageMatrix e) ||
        decide (i % unitsOf imageMatrix.packing ≥ validUnits imageMatrix e))
        (imgElem imageMatrix 0 (i / unitsOf imageMatrix.packing) (i % unitsOf imageMatrix.packing))) = none :=
    List.findSome?_eq_none_iff.mpr fun i _ => by rw [helem, elemFault_zero]
  unfold macroFault
  dsimp only
  rw [hrows]
  refine if_neg fun ⟨_, h⟩ => ?_
  obtain ⟨j, -, hj⟩ := List.any_eq_true.mp h
  rw [hscale, Bool.and_eq_true] at hj
  exact absurd hj.2 (by decide)

/-- An image of zeros has no fault. -/
theorem imageFault_zeros : imageFault imageMatrix 0 = none :=
  List.findSome?_eq_none_iff.mpr fun e _ => by
    rw [imgMacro, Nat.zero_shiftRight, Nat.zero_mod]
    exact macroFault_zero e

theorem exec_loadWeightsComplete (s : State) (cmd : Nat) (image : HostRead) (verify : List VerifyErr) :
    exec (.loadWeightsComplete cmd image verify) s = .next (s.on (loadWeightsCompleteOp s.variant cmd image verify s.dev)) := rfl

/-- A load with a macro of its own asked for retirement stays. -/
theorem loadWeightsCompleteOp_retiring {v : Variant} {cmd img : Nat} {image : HostRead} {verify : List VerifyErr} {d d0 : Dev} {l : Load}
    (hfind : d.loads.find? (fun l => l.cmd = cmd && l.writing && (l.mat.imgAlloc ≠ 0 || (d.cmdOf cmd).elim true (hostOpen d))) = some l)
    (hload : loadImage v l.mat image d = (.ok img, d0)) (hfault : imageFault l.mat img = none)
    (hbad : (l.targets.zipIdx).filter (fun t => !mendable (errsOf verify t.2)) = [])
    (hretire : l.targets.any (fun t => (d0.mac t.1).retire) = true) : loadWeightsCompleteOp v cmd image verify d = d0 := by
  unfold loadWeightsCompleteOp
  rw [hfind]
  dsimp only
  rw [hload]
  dsimp only
  rw [hfault]
  dsimp only
  rw [hbad]
  refine (if_neg Bool.false_ne_true).trans ((if_neg Bool.false_ne_true).trans ?_)
  exact if_pos hretire

theorem loadWeightsComplete_stays (image : HostRead) {d : Dev} (h : loadImage .oc40a imageMatrix image loadDev = (.ok 0, d)) (hd : AsServed d) :
    loadWeightsCompleteOp .oc40a 1 image [] loadDev = d := by
  obtain ⟨ctr, hd⟩ := hd
  refine loadWeightsCompleteOp_retiring (l := loadOfImage) (by decide +kernel) h imageFault_zeros rfl ?_
  have hmac : d.macros = [(0, { retire := true })] := (congrArg Dev.macros hd :).trans servedDev_macros
  unfold Dev.mac
  rw [hmac]
  rfl

/-- Refutes O10: nothing in its hypotheses keeps a macro's number from standing twice in the table. The read of an image serves a tile's read that
cannot be had, the tile fails, the macro's first entry goes with its block, and the second one is asked for retirement, so that the load stays. -/
theorem not_weightsLoadAndSwap : ¬Obligations.WeightsLoadAndSwap := by
  unfold Obligations.WeightsLoadAndSwap
  intro h
  obtain ⟨⟨-, -, hcomplete⟩, -⟩ := h
  obtain ⟨d, hload, hd⟩ := loadImage_zeros (.ok [])
  obtain ⟨t, hex, hmats, -⟩ := hcomplete { variant := .oc40a, dev := loadDev, pending := [] } 1 loadOfImage loadCmd (.ok []) 0 d [] 1
    rfl rfl (.inl (by decide)) hload imageFault_zeros rfl rfl rfl
  rw [exec_loadWeightsComplete, loadWeightsComplete_stays (.ok []) hload hd] at hex
  obtain rfl := Host.Outcome.next.inj hex
  obtain ⟨ctr, hd⟩ := hd
  have hnone : d.mats = [] := by
    rw [hd]
    rfl
  rw [State.on_dev, hnone] at hmats
  cases hmats

end Sys2Proof.Machine
